-- ==== Sys2Proof/Word.lean ====
section
/-! DEFINITION. The word types, the token of R34, and the plain data that more than one layer names. -/

namespace Sys2Proof

/-- A control word, a payload, a general register. -/
abbrev Word := BitVec 64

/-- The smallest addressable unit of the device's memories (R75). -/
abbrev Byte := BitVec 8

/-- The 160-bit token (R34): the tag's fields and the 64-bit payload. -/
structure Token where
  time : BitVec 48
  seq : BitVec 12
  err : Bool
  urgent : Bool
  timed : Bool
  last : Bool
  kind : BitVec 4
  stream : BitVec 8
  src : BitVec 10
  dest : BitVec 10
  payload : Word
deriving DecidableEq, Repr

/-- A raise that a block asserts on its error line (R17, R430, R440): its class (0 critical, 1 severe, 2 warning, 3 info; 7 for a
record that sets no status), its source, the Dale record's type, instance, SRC and data, and the MT of the event. -/
structure Raise where
  cls : Nat
  source : Nat
  rtype : Nat
  unit : Nat
  src : Nat
  data0 : Word
  data1 : Word
  mt : Nat
deriving DecidableEq, Repr

end Sys2Proof
end

