-- ==== Sys2Proof/Syntax.lean ====
section
/-! DEFINITION. The commands: one constructor of `Instr` per row of the operation table, with the row's operands, and the plain data
the operands are made of. A command that carries tokens carries them as they arrive; outcomes of the outside world (a training result,
a sensor reading, a received packet) are operands. -/

namespace Sys2Proof

/-- How a control-word read or write reaches its block: the requester's endpoint, the stream, the seq of the first token, whether a
completion is asked for (the tag fields of R93 a row of one word needs). -/
structure CwFrom where
  src : BitVec 10
  stream : BitVec 8
  seq : BitVec 12
  ack : Bool
deriving DecidableEq, Repr

/-- The sender of a packet: the port it came by, its MAC and IPv4 address and its UDP port (R360). -/
structure Peer where
  port : Fin 4
  mac : BitVec 48
  ip : BitVec 32
  udp : BitVec 16
deriving DecidableEq, Repr

/-- A VCT packet as it arrives: its sender and the bytes of the UDP datagram (R370). -/
structure VctIn where
  peer : Peer
  bytes : List (BitVec 8)
deriving DecidableEq, Repr

/-- What a Sync brings for the path delay (R366): nothing new, a delay request-response (t3, the MT stamp of t4, the correction), or a peer
delay. Times in 2^−16 ns. -/
inductive DelayMeas where
  | none
  | request (t3 : Int) (t4 : Nat) (corr : Int)
  | peer (d : Int)
deriving DecidableEq, Repr

/-- The fields of an Announce message the best master clock algorithm compares (R363, R367). -/
structure AnnounceMsg where
  domain : BitVec 8
  prio1 : BitVec 8
  clockClass : BitVec 8
  accuracy : BitVec 8
  variance : BitVec 16
  prio2 : BitVec 8
  gm : BitVec 64
  steps : BitVec 16
  sender : BitVec 80
  interval : Nat
deriving DecidableEq, Repr

/-- A sensor's conversions in one housekeeping round (R458, R459): how far its two references read off, whether it completed, and the
reading, all in 1/16 °C. -/
structure SensorIn where
  ref0 : Int
  ref1 : Int
  complete : Bool
  t : Int
deriving DecidableEq, Repr

/-- What the boot meets at a release (R447, R466, R471): the levels of TESTMODE and of the SAFE inputs, the units the boot finds failed, the
Plain defects no spare covers (bank, row), whether the march found others it repaired. -/
structure BootIn where
  testmode : Bool
  safeA : Bool
  safeB : Bool
  flashOk : Bool
  failed : List Nat
  unrepaired : List (Nat × Nat)
deriving DecidableEq, Repr

/-- A unit test of the background test (R467, R468): a physical unit of R465, or a Gorge channel. -/
inductive BgUnit where
  | unit (u : Fin 64)
  | gorge (c : Fin 2)
deriving DecidableEq, Repr

/-- An operation of the TAP (R478). -/
inductive TapOp where
  | bypass (tdi : Bool)
  | idcode
  | sample
  | extest (levels : BitVec 64)
  | memRead (a : BitVec 48)
  | memWrite (a : BitVec 48) (w : BitVec 64)
  | cwRead (a : BitVec 48)
  | cwWrite (a : BitVec 48) (w : BitVec 64)
  | coreHalt (r : Fin 18)
  | coreStep (r : Fin 18)
deriving DecidableEq, Repr

/-- The commands of the block, one constructor per row of spec/opcode_table.json, in the table's order. -/
inductive Instr where
  /-- QUEUE_ENQUEUE: token `tok` reaches queue n; `handshake`: the oldest entry is under push handshake -/
  | queueEnqueue (n : Fin 64) (tok : Token) (handshake : Bool)
  /-- QUEUE_PUSH -/
  | queuePush (n : Fin 64)
  /-- QUEUE_POP: the data written to POP -/
  | queuePop (n : Fin 64) (h : CwFrom) (count : BitVec 64)
  /-- QUEUE_CFG_WRITE: the data written to CFG and, in the same message, to BASE -/
  | queueCfgWrite (n : Fin 64) (h : CwFrom) (cfg : BitVec 64) (base : Option (BitVec 64)) (handshake : Bool)
  /-- QUEUE_DROPS_READ -/
  | queueDropsRead (n : Fin 64) (h : CwFrom)
  /-- COLL_READ: the block's number in R92 -/
  | collRead (block : Fin 29) (h : CwFrom)
  /-- PLL_LOCK -/
  | pllLock 
  /-- TIMEREF_LOSS -/
  | timerefLoss 
  /-- PLL_RELOCK: the phase error at relock in ns -/
  | pllRelock (phaseErr : Nat)
  /-- SLEW_END -/
  | slewEnd 
  /-- TB_PT_WRITE -/
  | tbPtWrite (h : CwFrom) (base : BitVec 64) (baseHi : BitVec 64) (mtref : BitVec 64) (rate : BitVec 64)
  /-- SYNC_BEACON -/
  | syncBeacon 
  /-- COL_ACCEPT -/
  | colAccept (n : Fin 128) (tok : Token)
  /-- COL_RELEASE -/
  | colRelease (n : Fin 128)
  /-- COL_SECOND_EDGE -/
  | colSecondEdge (n : Fin 128)
  /-- COL_FAULT_CLEAR: `lateToken`: a token that arrives in the same handshake -/
  | colFaultClear (n : Fin 128) (h : CwFrom) (lateToken : Option Token)
  /-- COL_EN_CLEAR -/
  | colEnClear (n : Fin 128) (h : CwFrom)
  /-- COL_EN_SET -/
  | colEnSet (n : Fin 128) (h : CwFrom)
  /-- COL_SLACK_READ -/
  | colSlackRead (n : Fin 128) (h : CwFrom)
  /-- COL_LATE_READ -/
  | colLateRead (n : Fin 128) (h : CwFrom)
  /-- COL_COINC_READ -/
  | colCoincRead (n : Fin 128) (h : CwFrom)
  /-- TRIGGER_START_PERIODIC: command token to COL(120 + n) -/
  | triggerStartPeriodic (n : Fin 8) (tok : Token)
  /-- TRIGGER_STOP -/
  | triggerStop (n : Fin 8) (tok : Token)
  /-- TRIGGER_SINGLE -/
  | triggerSingle (n : Fin 8) (tok : Token)
  /-- TRIGGER_RELEASE -/
  | triggerRelease (n : Fin 8)
  /-- MRD -/
  | mrd (tok : Token)
  /-- MWR_WRITE: header and data tokens -/
  | mwrWrite (toks : List Token)
  /-- SWAP -/
  | swap (toks : List Token)
  /-- FETCH_ADD -/
  | fetchAdd (toks : List Token)
  /-- COMPARE_AND_SWAP -/
  | compareAndSwap (toks : List Token)
  /-- PLAIN_SCRUB -/
  | plainScrub 
  /-- PLAIN_ECC_READ -/
  | plainEccRead (h : CwFrom)
  /-- PLAIN_ECCADDR_READ -/
  | plainEccaddrRead (h : CwFrom)
  /-- CWR -/
  | cwr (tok : Token)
  /-- CWW: `collide`: for a word's address, the bits hardware sets in the same handshake (R11) -/
  | cww (toks : List Token) (collide : List (Nat × BitVec 64))
  /-- REFUSAL_POINT -/
  | refusalPoint (tok : Token)
  /-- BARRIER_FANOUT -/
  | barrierFanout (tok : Token)
  /-- BARRIER_JUDGE -/
  | barrierJudge 
  /-- BARRIER: the barrier token (copy or direct) at its time -/
  | barrier (pg : Fin 26) (tok : Token)
  /-- ADD -/
  | zAdd (r : Fin 18) (g : BitVec 4) (rd ra rb : BitVec 5) (m : BitVec 2)
  /-- SUB -/
  | zSub (r : Fin 18) (g : BitVec 4) (rd ra rb : BitVec 5) (m : BitVec 2)
  /-- AND -/
  | zAnd (r : Fin 18) (g : BitVec 4) (rd ra rb : BitVec 5) (m : BitVec 2)
  /-- OR -/
  | zOr (r : Fin 18) (g : BitVec 4) (rd ra rb : BitVec 5) (m : BitVec 2)
  /-- XOR -/
  | zXor (r : Fin 18) (g : BitVec 4) (rd ra rb : BitVec 5) (m : BitVec 2)
  /-- ANDN -/
  | zAndn (r : Fin 18) (g : BitVec 4) (rd ra rb : BitVec 5) (m : BitVec 2)
  /-- SHL -/
  | zShl (r : Fin 18) (g : BitVec 4) (rd ra rb : BitVec 5) (m : BitVec 2)
  /-- SHR -/
  | zShr (r : Fin 18) (g : BitVec 4) (rd ra rb : BitVec 5) (m : BitVec 2)
  /-- SAR -/
  | zSar (r : Fin 18) (g : BitVec 4) (rd ra rb : BitVec 5) (m : BitVec 2)
  /-- ROR -/
  | zRor (r : Fin 18) (g : BitVec 4) (rd ra rb : BitVec 5) (m : BitVec 2)
  /-- MIN -/
  | zMin (r : Fin 18) (g : BitVec 4) (rd ra rb : BitVec 5) (m : BitVec 2)
  /-- MAX -/
  | zMax (r : Fin 18) (g : BitVec 4) (rd ra rb : BitVec 5) (m : BitVec 2)
  /-- MINU -/
  | zMinu (r : Fin 18) (g : BitVec 4) (rd ra rb : BitVec 5) (m : BitVec 2)
  /-- MAXU -/
  | zMaxu (r : Fin 18) (g : BitVec 4) (rd ra rb : BitVec 5) (m : BitVec 2)
  /-- CLZ -/
  | zClz (r : Fin 18) (g : BitVec 4) (rd ra rb : BitVec 5) (m : BitVec 2)
  /-- CTZ -/
  | zCtz (r : Fin 18) (g : BitVec 4) (rd ra rb : BitVec 5) (m : BitVec 2)
  /-- POPC -/
  | zPopc (r : Fin 18) (g : BitVec 4) (rd ra rb : BitVec 5) (m : BitVec 2)
  /-- BSWAP -/
  | zBswap (r : Fin 18) (g : BitVec 4) (rd ra rb : BitVec 5) (m : BitVec 2)
  /-- MUL -/
  | zMul (r : Fin 18) (g : BitVec 4) (rd ra rb : BitVec 5) (m : BitVec 2)
  /-- MULHU -/
  | zMulhu (r : Fin 18) (g : BitVec 4) (rd ra rb : BitVec 5) (m : BitVec 2)
  /-- MULHS -/
  | zMulhs (r : Fin 18) (g : BitVec 4) (rd ra rb : BitVec 5) (m : BitVec 2)
  /-- DIVU -/
  | zDivu (r : Fin 18) (g : BitVec 4) (rd ra rb : BitVec 5) (m : BitVec 2)
  /-- DIVS -/
  | zDivs (r : Fin 18) (g : BitVec 4) (rd ra rb : BitVec 5) (m : BitVec 2)
  /-- REMU -/
  | zRemu (r : Fin 18) (g : BitVec 4) (rd ra rb : BitVec 5) (m : BitVec 2)
  /-- REMS -/
  | zRems (r : Fin 18) (g : BitVec 4) (rd ra rb : BitVec 5) (m : BitVec 2)
  /-- SEXTW -/
  | zSextw (r : Fin 18) (g : BitVec 4) (rd ra rb : BitVec 5) (m : BitVec 2)
  /-- ADDSAT -/
  | zAddsat (r : Fin 18) (g : BitVec 4) (rd ra rb : BitVec 5) (m : BitVec 2)
  /-- SUBSAT -/
  | zSubsat (r : Fin 18) (g : BitVec 4) (rd ra rb : BitVec 5) (m : BitVec 2)
  /-- ADDI -/
  | zAddi (r : Fin 18) (g : BitVec 4) (rd ra : BitVec 5) (imm : BitVec 12)
  /-- ANDI -/
  | zAndi (r : Fin 18) (g : BitVec 4) (rd ra : BitVec 5) (imm : BitVec 12)
  /-- ORI -/
  | zOri (r : Fin 18) (g : BitVec 4) (rd ra : BitVec 5) (imm : BitVec 12)
  /-- XORI -/
  | zXori (r : Fin 18) (g : BitVec 4) (rd ra : BitVec 5) (imm : BitVec 12)
  /-- SHLI -/
  | zShli (r : Fin 18) (g : BitVec 4) (rd ra : BitVec 5) (imm : BitVec 12)
  /-- SHRI -/
  | zShri (r : Fin 18) (g : BitVec 4) (rd ra : BitVec 5) (imm : BitVec 12)
  /-- SARI -/
  | zSari (r : Fin 18) (g : BitVec 4) (rd ra : BitVec 5) (imm : BitVec 12)
  /-- MULI -/
  | zMuli (r : Fin 18) (g : BitVec 4) (rd ra : BitVec 5) (imm : BitVec 12)
  /-- LI -/
  | zLi (r : Fin 18) (g : BitVec 4) (rd : BitVec 5) (imm : BitVec 17)
  /-- LSO -/
  | zLso (r : Fin 18) (g : BitVec 4) (rd : BitVec 5) (imm : BitVec 17)
  /-- LB -/
  | zLb (r : Fin 18) (g : BitVec 4) (rd ra : BitVec 5) (imm : BitVec 12)
  /-- LBU -/
  | zLbu (r : Fin 18) (g : BitVec 4) (rd ra : BitVec 5) (imm : BitVec 12)
  /-- LH -/
  | zLh (r : Fin 18) (g : BitVec 4) (rd ra : BitVec 5) (imm : BitVec 12)
  /-- LHU -/
  | zLhu (r : Fin 18) (g : BitVec 4) (rd ra : BitVec 5) (imm : BitVec 12)
  /-- LW -/
  | zLw (r : Fin 18) (g : BitVec 4) (rd ra : BitVec 5) (imm : BitVec 12)
  /-- LWU -/
  | zLwu (r : Fin 18) (g : BitVec 4) (rd ra : BitVec 5) (imm : BitVec 12)
  /-- LD -/
  | zLd (r : Fin 18) (g : BitVec 4) (rd ra : BitVec 5) (imm : BitVec 12)
  /-- SB -/
  | zSb (r : Fin 18) (g : BitVec 4) (rs ra : BitVec 5) (imm : BitVec 12)
  /-- SH -/
  | zSh (r : Fin 18) (g : BitVec 4) (rs ra : BitVec 5) (imm : BitVec 12)
  /-- SW -/
  | zSw (r : Fin 18) (g : BitVec 4) (rs ra : BitVec 5) (imm : BitVec 12)
  /-- SD -/
  | zSd (r : Fin 18) (g : BitVec 4) (rs ra : BitVec 5) (imm : BitVec 12)
  /-- CMP -/
  | zCmp (r : Fin 18) (g : BitVec 4) (pd cc : BitVec 3) (ra rb : BitVec 5)
  /-- CMPI -/
  | zCmpi (r : Fin 18) (g : BitVec 4) (pd cc : BitVec 3) (ra : BitVec 5) (imm : BitVec 11)
  /-- PLOG -/
  | zPlog (r : Fin 18) (g : BitVec 4) (pd pa pb : BitVec 3) (fn : BitVec 2)
  /-- BR -/
  | zBr (r : Fin 18) (g : BitVec 4) (off : BitVec 22)
  /-- CALL -/
  | zCall (r : Fin 18) (g : BitVec 4) (off : BitVec 22)
  /-- JALR -/
  | zJalr (r : Fin 18) (g : BitVec 4) (rd ra : BitVec 5)
  /-- PORT_TOKEN_ARRIVAL: `refused`: an RSP with flags.err that is a refusal, not poisoned data -/
  | portTokenArrival (r : Fin 18) (p : Fin 8) (tok : Token) (refused : Bool)
  /-- TPOLL -/
  | zTpoll (r : Fin 18) (g : BitVec 4) (p : BitVec 5) (tp : BitVec 3)
  /-- TTAG -/
  | zTtag (r : Fin 18) (g : BitVec 4) (d : BitVec 5) (tp : BitVec 3) (sel : BitVec 10)
  /-- TSET -/
  | zTset (r : Fin 18) (g : BitVec 4) (a : BitVec 5) (tp : BitVec 3) (sel : BitVec 10)
  /-- TSENDL -/
  | zTsendl (r : Fin 18) (g : BitVec 4) (a : BitVec 5) (tp : BitVec 3)
  /-- TSEL -/
  | zTsel (r : Fin 18) (g : BitVec 4) (d : BitVec 5) (sel : BitVec 10)
  /-- TCRED -/
  | zTcred (r : Fin 18) (g : BitVec 4) (d : BitVec 5) (tp : BitVec 3)
  /-- GETS -/
  | zGets (r : Fin 18) (g : BitVec 4) (rd idx : BitVec 5)
  /-- PUTS -/
  | zPuts (r : Fin 18) (g : BitVec 4) (idx rb : BitVec 5)
  /-- ERET -/
  | zEret (r : Fin 18) (g : BitVec 4)
  /-- BRK -/
  | zBrk (r : Fin 18) (g : BitVec 4)
  /-- HALT -/
  | zHalt (r : Fin 18) (g : BitVec 4)
  /-- FENCE -/
  | zFence (r : Fin 18) (g : BitVec 4)
  /-- GETMT -/
  | zGetmt (r : Fin 18) (g : BitVec 4) (rd : BitVec 5)
  /-- WAITT -/
  | zWaitt (r : Fin 18) (g : BitVec 4) (ra : BitVec 5)
  /-- RLD -/
  | zRld (r : Fin 18) (g : BitVec 4) (rd ra : BitVec 5)
  /-- RST -/
  | zRst (r : Fin 18) (g : BitVec 4) (ra rb : BitVec 5)
  /-- RSWP -/
  | zRswp (r : Fin 18) (g : BitVec 4) (rd ra rb : BitVec 5)
  /-- RADD -/
  | zRadd (r : Fin 18) (g : BitVec 4) (rd ra rb : BitVec 5)
  /-- RCAS -/
  | zRcas (r : Fin 18) (g : BitVec 4) (rd ra rb : BitVec 5)
  /-- CWRD -/
  | zCwrd (r : Fin 18) (g : BitVec 4) (rd ra : BitVec 5)
  /-- CWWR -/
  | zCwwr (r : Fin 18) (g : BitVec 4) (ra rb : BitVec 5)
  /-- RGET -/
  | zRget (r : Fin 18) (g : BitVec 4) (rd ra rb : BitVec 5)
  /-- RPUT -/
  | zRput (r : Fin 18) (g : BitVec 4) (rd ra rb : BitVec 5)
  /-- RMOVE -/
  | zRmove (r : Fin 18) (g : BitVec 4) (rd ra rb : BitVec 5)
  /-- ASYNC_CAUSE_TAKEN -/
  | asyncCauseTaken (r : Fin 18)
  /-- PORT_TIMEOUT -/
  | portTimeout (r : Fin 18)
  /-- POSTED_WRITE_ACK -/
  | postedWriteAck (r : Fin 18) (tok : Token)
  /-- BULK_COMPLETE -/
  | bulkComplete (r : Fin 18) (stream : BitVec 8)
  /-- CORE_START -/
  | coreStart (r : Fin 18) (h : CwFrom)
  /-- CORE_HALT -/
  | coreHalt (r : Fin 18) (h : CwFrom)
  /-- CORE_STEP -/
  | coreStep (r : Fin 18) (h : CwFrom)
  /-- CORE_IMG_WRITE -/
  | coreImgWrite (r : Fin 18) (h : CwFrom) (data : BitVec 64)
  /-- CORE_ROTATION: the spare physical core that takes the role -/
  | coreRotation (r : Fin 18) (phys : Fin 18)
  /-- CORE_FAILED -/
  | coreFailed (r : Fin 18)
  /-- CORE_RESTART -/
  | coreRestart (r : Fin 18) (phys : Fin 18)
  /-- JUMP: execution on PGn reaches a JUMP -/
  | pgJump (n : Fin 26)
  /-- MARK -/
  | pgMark (n : Fin 26)
  /-- JUMPR -/
  | pgJumpr (n : Fin 26)
  /-- MARKR -/
  | pgMarkr (n : Fin 26)
  /-- ARC -/
  | pgArc (n : Fin 26)
  /-- PARK -/
  | pgPark (n : Fin 26)
  /-- SPEED -/
  | pgSpeed (n : Fin 26)
  /-- POWER -/
  | pgPower (n : Fin 26)
  /-- FOCUS -/
  | pgFocus (n : Fin 26)
  /-- RAMP -/
  | pgRamp (n : Fin 26)
  /-- GATE -/
  | pgGate (n : Fin 26)
  /-- OWN -/
  | pgOwn (n : Fin 26)
  /-- PART -/
  | pgPart (n : Fin 26)
  /-- VID -/
  | pgVid (n : Fin 26)
  /-- NOP -/
  | pgNop (n : Fin 26)
  /-- DWELL -/
  | pgDwell (n : Fin 26)
  /-- DWELL_END -/
  | pgDwellEnd (n : Fin 26)
  /-- MARKER -/
  | pgMarker (n : Fin 26)
  /-- LEND -/
  | pgLend (n : Fin 26)
  /-- TRIG -/
  | pgTrig (n : Fin 26)
  /-- RECORD -/
  | pgRecord (n : Fin 26)
  /-- LOOK -/
  | pgLook (n : Fin 26)
  /-- WINDOW_POLL -/
  | windowPoll (n : Fin 26)
  /-- LEAD_UPDATE -/
  | leadUpdate (n : Fin 26)
  /-- UNDERRUN -/
  | underrun (n : Fin 26)
  /-- WRING_WRITE -/
  | wringWrite (n : Fin 26) (h : CwFrom) (data : BitVec 64)
  /-- LEAD_MIN_READ -/
  | leadMinRead (n : Fin 26) (h : CwFrom)
  /-- ARM -/
  | arm (n : Fin 26) (tok : Token)
  /-- PAUSE -/
  | pause (n : Fin 26) (tok : Token)
  /-- PAUSE_POINT -/
  | pausePoint (n : Fin 26)
  /-- RESUME -/
  | resume (n : Fin 26) (tok : Token)
  /-- RESUME_RUN -/
  | resumeRun (n : Fin 26)
  /-- ABORT -/
  | abort (n : Fin 26) (tok : Token)
  /-- DISARM -/
  | disarm (n : Fin 26) (tok : Token)
  /-- PLAN -/
  | plan (n : Fin 26)
  /-- SEGMENT_COMMIT -/
  | segmentCommit (n : Fin 26)
  /-- STRACE_EN_SET -/
  | straceEnSet (n : Fin 26) (h : CwFrom)
  /-- INTERPOLATE -/
  | interpolate (n : Fin 26)
  /-- POWER_TARGET: `t`: the planned instant -/
  | powerTarget (n : Fin 26) (t : Nat)
  /-- GATE_SAMPLE -/
  | gateSample (n : Fin 26) (toks : List Token)
  /-- SAMPLE_MISSING -/
  | sampleMissing (n : Fin 26)
  /-- TRACKING_TARGET -/
  | trackingTarget (n : Fin 26) (tok : Token)
  /-- TRACKING_CYCLE -/
  | trackingCycle (n : Fin 26)
  /-- TRK_EN_CLEAR -/
  | trkEnClear (n : Fin 26) (h : CwFrom)
  /-- LIMCNT_READ -/
  | limcntRead (n : Fin 26) (h : CwFrom)
  /-- GRES_READ -/
  | gresRead (n : Fin 26) (h : CwFrom)
  /-- MAPNEXT_WRITE -/
  | mapnextWrite (n : Fin 24) (h : CwFrom) (data : BitVec 64)
  /-- MAP_CHECK_DONE -/
  | mapCheckDone (n : Fin 24)
  /-- MAP_SWAP -/
  | mapSwap (n : Fin 24)
  /-- CHAIN_DECIDE -/
  | chainDecide (n : Fin 24)
  /-- STARE -/
  | stare (n : Fin 24)
  /-- NARM_WRITE -/
  | narmWrite (h : CwFrom)
  /-- HREC_EN_SET -/
  | hrecEnSet (h : CwFrom)
  /-- SADDLE_CNT_READ -/
  | saddleCntRead (h : CwFrom)
  /-- YIELD_READ -/
  | yieldRead (n : Fin 24) (h : CwFrom)
  /-- COEFFICIENT_SET -/
  | coefficientSet (l : Fin 112) (toks : List Token)
  /-- SETPOINT_ACCEPT -/
  | setpointAccept (l : Fin 112) (tok : Token)
  /-- GALVO_CYCLE: `tc`: the cycle instant -/
  | galvoCycle (l : Fin 72) (tc : Nat)
  /-- POWER_LOOP_CYCLE -/
  | powerLoopCycle (n : Fin 24)
  /-- CTRIM_SET -/
  | ctrimSet (n : Fin 24) (tok : Token)
  /-- PAIR_MISSING -/
  | pairMissing (n : Fin 24)
  /-- AUX_POSITION_CYCLE -/
  | auxPositionCycle (k : Fin 8) (tc : Nat)
  /-- AUX_CURRENT_CYCLE -/
  | auxCurrentCycle (k : Fin 8) (tc : Nat)
  /-- AUX_SETPOINT -/
  | auxSetpoint (k : Fin 8) (tok : Token)
  /-- FFTN_WRITE -/
  | fftnWrite (l : Fin 112) (h : CwFrom) (data : BitVec 64)
  /-- FFT_COPY_DONE -/
  | fftCopyDone (l : Fin 112)
  /-- LOOP_ENABLE -/
  | loopEnable (l : Fin 112) (h : CwFrom)
  /-- LOOP_DISABLE -/
  | loopDisable (l : Fin 112) (h : CwFrom)
  /-- UNIT_FAIL -/
  | unitFail (k : Fin 7) (l : Fin 112)
  /-- STBASE_WRITE -/
  | stbaseWrite (h : CwFrom) (data : BitVec 64)
  /-- SERVO_CNT_READ -/
  | servoCntRead (h : CwFrom)
  /-- SERVO_LOOP_CNT_READ -/
  | servoLoopCntRead (l : Fin 112) (h : CwFrom)
  /-- SC_ENABLE -/
  | scEnable (a : Fin 72) (h : CwFrom)
  /-- SC_CNT_READ -/
  | scCntRead (a : Fin 72) (h : CwFrom)
  /-- ENC_EDGE: the levels of A and B from instant `t` on, held for so many samples -/
  | encEdge (k : Fin 8) (a b : Bool) (t held : Nat)
  /-- INDEX_EVENT: the level of I from instant `t` on -/
  | indexEvent (k : Fin 8) (level : Bool) (t held : Nat)
  /-- INDEX_HOME -/
  | indexHome (k : Fin 8) (h : CwFrom)
  /-- HALL_CHANGE -/
  | hallChange (k : Fin 8) (u v w : Bool) (t held : Nat)
  /-- HALL_TIMEOUT -/
  | hallTimeout (k : Fin 8)
  /-- SPEED_UPDATE: the COL121 instant -/
  | speedUpdate (tu : Nat)
  /-- ENC_CNT_READ -/
  | encCntRead (k : Fin 8) (h : CwFrom)
  /-- HALL_CNT_READ -/
  | hallCntRead (k : Fin 8) (h : CwFrom)
  /-- PROBE_EVENT: the level from instant `tp` on -/
  | probeEvent (k : Fin 8) (level : Bool) (tp held : Nat)
  /-- PROBE_RECORD -/
  | probeRecord (k : Fin 8)
  /-- PROBE_ARM -/
  | probeArm (k : Fin 8) (h : CwFrom)
  /-- PRB_DROPS_READ -/
  | prbDropsRead (k : Fin 8) (h : CwFrom)
  /-- EMU_UPDATE -/
  | emuUpdate (k : Fin 4)
  /-- EMU_ENABLE: the EN written -/
  | emuEnable (k : Fin 4) (h : CwFrom) (en : Bool)
  /-- FRAME_START: `ecc`: 0 clean, 1 corrected, 2 uncorrectable header; `sot`: first packet of a transmission -/
  | frameStart (k : Fin 12) (vc : Fin 4) (fn : BitVec 16) (ecc : Fin 3) (sot : Bool)
  /-- LINE_PACKET: any packet but FS and FE; `room`: the slot's input buffer has room -/
  | linePacket (k : Fin 12) (vc : Fin 4) (dt : BitVec 6) (ecc : Fin 3) (sot crcOk room : Bool) (data : List (BitVec 12))
  /-- FRAME_END -/
  | frameEnd (k : Fin 12) (vc : Fin 4) (ecc : Fin 3) (sot : Bool)
  /-- FSWIN_EXPIRY -/
  | fswinExpiry (c : Fin 24)
  /-- CAMERA_SETTING -/
  | cameraSetting (k : Fin 12) (toks : List Token)
  /-- IP_ENABLE -/
  | ipEnable (c : Fin 24) (h : CwFrom)
  /-- CSI_CNT_READ -/
  | csiCntRead (k : Fin 12) (h : CwFrom)
  /-- IP_CNT_READ -/
  | ipCntRead (c : Fin 24) (h : CwFrom)
  /-- I2C_TRANSACTION -/
  | i2cTransaction (k : Fin 13) (toks : List Token)
  /-- I2C_DONE: the outcome on the bus and the bytes read -/
  | i2cDone (k : Fin 13) (status : Fin 5) (nackidx : BitVec 8) (bytes : List (BitVec 8))
  /-- RULE_ENABLE -/
  | ruleEnable (n : Fin 24) (h : CwFrom)
  /-- RULE_DISABLE -/
  | ruleDisable (n : Fin 24) (h : CwFrom)
  /-- RULE_RECORD -/
  | ruleRecord (n : Fin 24) (toks : List Token)
  /-- RULE_CNT_READ -/
  | ruleCntRead (n : Fin 24) (h : CwFrom)
  /-- STARE_RECORD -/
  | stareRecord 
  /-- LREC_EN_SET -/
  | lrecEnSet (h : CwFrom)
  /-- PROCESS_RECORD -/
  | processRecord (n : Fin 26)
  /-- PRDROP_READ -/
  | prdropRead (h : CwFrom)
  /-- MOVE -/
  | auxMove (toks : List Token)
  /-- MOVE_START: the next queued move of axis k at the COL121 instant `tc` -/
  | moveStart (k : Fin 8) (tc : Nat)
  /-- MOVE_COMPLETE -/
  | moveComplete (k : Fin 8) (tc : Nat)
  /-- SETTLE_TIMEOUT -/
  | settleTimeout (k : Fin 8)
  /-- STOP -/
  | auxStop (tok : Token)
  /-- JOG -/
  | jog (k : Fin 8) (tok : Token)
  /-- AUX_ENABLE -/
  | auxEnable (k : Fin 8) (h : CwFrom)
  /-- AUX_DISABLE -/
  | auxDisable (k : Fin 8) (h : CwFrom)
  /-- HOLDI_SET -/
  | holdiSet (k : Fin 8)
  /-- HUB_LINK_TIMEOUT -/
  | hubLinkTimeout (k : Fin 8)
  /-- AUX_FAULT_CLEAR -/
  | auxFaultClear (k : Fin 8) (h : CwFrom)
  /-- LINK_ENABLE -/
  | linkEnable (n : Fin 32) (h : CwFrom)
  /-- LINK_RESTART -/
  | linkRestart (n : Fin 32) (h : CwFrom)
  /-- DETECT_POLL: links 32–35 are the point links of lanes 60–63; `term`: the far-end termination is sensed -/
  | detectPoll (n : Fin 36) (term : Bool)
  /-- SYMBOL_LOCK -/
  | symbolLock (n : Fin 36) (mirror : Bool)
  /-- LINK_STATE_TIMEOUT: `mirror` names the lane where the partner stays ACTIVE -/
  | linkStateTimeout (n : Fin 36) (mirror : Bool)
  /-- CAP_RECORD: the 28 data bytes -/
  | capRecord (n : Fin 36) (data : List (BitVec 8))
  /-- SUPERFRAME_START -/
  | superframeStart (ts : Nat)
  /-- SFS_RECEIVE: the block's number, its header's arrival in MT, its data bytes -/
  | sfsReceive (n : Fin 32) (mirror : Bool) (bseq : BitVec 8) (mtr : Nat) (data : List (BitVec 8))
  /-- SMP_BLOCK_RECEIVE -/
  | smpBlockReceive (n : Fin 32) (mirror : Bool) (bseq : BitVec 8) (arr : Nat) (data : List (BitVec 8))
  /-- TOK_BLOCK_RECEIVE -/
  | tokBlockReceive (n : Fin 36) (mirror : Bool) (bseq : BitVec 8) (arr : Nat) (data : List (BitVec 8))
  /-- REFCLK_LOSS -/
  | refclkLoss (r : Fin 4)
  /-- LANE_MODE_WRITE: lane 60 + k, the data written to CFG -/
  | laneModeWrite (k : Fin 4) (h : CwFrom) (cfg : BitVec 64)
  /-- PRBS_START: the data written to PRBS -/
  | prbsStart (k : Fin 64) (h : CwFrom) (prbs : BitVec 64)
  /-- PRBS_END: the bits and errored bits the checker counted -/
  | prbsEnd (k : Fin 64) (nbits nerrs : BitVec 48)
  /-- EQ_LIMIT -/
  | eqLimit (k : Fin 64)
  /-- PRBS_COUNT_READ: `errs`: ERRS, else BITS -/
  | prbsCountRead (k : Fin 64) (errs : Bool) (h : CwFrom)
  /-- LINK_CNT_READ -/
  | linkCntRead (n : Fin 32) (h : CwFrom)
  /-- ETHERNET_FRAME: the frame without its FCS; the instant its first bit crossed, in 2^−16 ns of MT -/
  | ethernetFrame (k : Fin 4) (frame : List (BitVec 8)) (fcsOk : Bool) (sfd : Nat)
  /-- TRANSMIT_STAMP: `reqStamp`: a one-step Pdelay_Resp, with the receive stamp of its request -/
  | transmitStamp (k : Fin 4) (seqId : BitVec 16) (cross : Nat) (reqStamp : Option Nat)
  /-- LINK_CHANGE: what the PCS of port k now reports -/
  | linkChange (k : Fin 4) (block hiber lfault rfault : Bool)
  /-- PTP_SYNC: t1 and corr in 2^−16 ns of master time, t2 the MT stamp in 2^−16 ns -/
  | ptpSync (port : Fin 4) (t1 : Int) (t2 : Nat) (corr : Int) (d : DelayMeas)
  /-- ANNOUNCE -/
  | announce (port : Fin 4) (m : AnnounceMsg)
  /-- SYNC_LOSS -/
  | syncLoss 
  /-- ANNOUNCE_TIMEOUT -/
  | announceTimeout 
  /-- PING -/
  | ping (p : VctIn)
  /-- STATUS -/
  | status (p : VctIn)
  /-- VCT_CWRD -/
  | vctCwrd (p : VctIn)
  /-- VCT_CWWR -/
  | vctCwwr (p : VctIn)
  /-- RXOPEN -/
  | rxopen (p : VctIn)
  /-- DATA_CHUNK -/
  | dataChunk (p : VctIn)
  /-- RXCLOSE -/
  | rxclose (p : VctIn)
  /-- DIGEST_DONE -/
  | digestDone (w : Fin 4)
  /-- RXABORT -/
  | rxabort (p : VctIn)
  /-- RXSTAT -/
  | rxstat (p : VctIn)
  /-- DELIVER -/
  | deliver (p : VctIn)
  /-- SUBSCRIBE -/
  | subscribe (p : VctIn)
  /-- KEYSET -/
  | keyset (p : VctIn)
  /-- KEYCLR -/
  | keyclr (p : VctIn)
  /-- TIMESET -/
  | timeset (p : VctIn)
  /-- FWSTAGE -/
  | fwstage (p : VctIn)
  /-- FWSTAGE_COMPLETE: `ok`: the flash took the write -/
  | fwstageComplete (ok : Bool)
  /-- VCT_RESET -/
  | vctReset (p : VctIn)
  /-- DALEUP -/
  | daleup (p : VctIn)
  /-- MIRROR_WRITE -/
  | mirrorWrite (slot : Fin 8) (ok : Bool)
  /-- UPLOAD -/
  | upload (toks : List Token)
  /-- REPLY -/
  | reply (toks : List Token)
  /-- UPL_SEND -/
  | uplSend (s : Fin 16)
  /-- UACK -/
  | uack (p : VctIn)
  /-- UPLOAD_RETRANSMIT -/
  | uploadRetransmit (s : Fin 16)
  /-- ETH_CNT_READ -/
  | ethCntRead (k : Fin 4) (h : CwFrom)
  /-- VCT_CNT_READ -/
  | vctCntRead (h : CwFrom)
  /-- DRAM_TRAINING: the two channels' results and the devices' RAAIMT and RAAMMT -/
  | dramTraining (pass0 : Bool) (pass1 : Bool) (raaimt : Nat) (raammt : Nat)
  /-- HASH_WRITE -/
  | hashWrite (i : Fin 8) (h : CwFrom) (mask : BitVec 64)
  /-- PAGE_CLOSE -/
  | pageClose (rank : Fin 4) (sc : Fin 2) (bank : Fin 32)
  /-- REFRESH_TICK: `queued`: the rank has queued requests -/
  | refreshTick (rank : Fin 4) (queued : Bool)
  /-- MR4_POLL: the hottest reading and the band it reports -/
  | mr4Poll (rank : Fin 4) (reading : BitVec 8) (band : Fin 3)
  /-- RFM -/
  | rfm (rank : Fin 4) (sc : Fin 2) (bank : Fin 32)
  /-- POWER_DOWN_ENTRY -/
  | powerDownEntry (rank : Fin 4)
  /-- SELF_REFRESH_ENTRY: `sre`: the SRE commands are issued (false: entry begins) -/
  | selfRefreshEntry (ch : Fin 2) (sre : Bool)
  /-- SELF_REFRESH_EXIT: a request has arrived at the channel -/
  | selfRefreshExit (ch : Fin 2)
  /-- SREQ_WRITE -/
  | sreqWrite (h : CwFrom) (data : BitVec 64)
  /-- ZQ_CALIBRATION -/
  | zqCalibration (rank : Fin 4)
  /-- DQS_OSCILLATOR: the drift in PHY delay steps -/
  | dqsOscillator (rank : Fin 4) (drift : Int)
  /-- DRAM_SCRUB -/
  | dramScrub 
  /-- DRAM_ECC_READ -/
  | dramEccRead (h : CwFrom)
  /-- DRAM_ECCADDR_READ -/
  | dramEccaddrRead (h : CwFrom)
  /-- DRAM_CNT_READ -/
  | dramCntRead (h : CwFrom)
  /-- GORGE_JOB_SUBMIT -/
  | gorgeJobSubmit (tok : Token)
  /-- GORGE_JOB_START -/
  | gorgeJobStart (c : Fin 2)
  /-- GORGE_JOB_END -/
  | gorgeJobEnd (c : Fin 2)
  /-- GORGE_ABORT: `progress`: the symbols (inflate) or blocks (deflate) the running job has completed when it stops -/
  | gorgeAbort (tok : Token) (progress : Nat)
  /-- GORGE_CNT_READ -/
  | gorgeCntRead (h : CwFrom)
  /-- GORGE_BYTES_READ -/
  | gorgeBytesRead (c : Fin 2) (h : CwFrom)
  /-- STATUS_RAISE: the oldest asserted error line -/
  | statusRaise 
  /-- STATUS_ACKNOWLEDGE: the bits written 1 to STATUS[i] -/
  | statusAcknowledge (i : Fin 2) (h : CwFrom) (mask : BitVec 64)
  /-- LREARM -/
  | lrearm (h : CwFrom)
  /-- ERREL -/
  | errel (h : CwFrom)
  /-- ERROR_MINIMUM_END -/
  | errorMinimumEnd 
  /-- SAFE_INPUT_FALL: SAFE_A_n, or SAFE_B_n with `b` -/
  | safeInputFall (b : Bool)
  /-- SAFE_DISCREPANCY -/
  | safeDiscrepancy 
  /-- INJECTION -/
  | injection (h : CwFrom) (bit : BitVec 7)
  /-- DALE_POP: the data written to POP -/
  | dalePop (h : CwFrom) (count : BitVec 64)
  /-- DALE_FREEZE -/
  | daleFreeze (h : CwFrom) (on : Bool)
  /-- DALE_LOST_READ -/
  | daleLostRead (h : CwFrom)
  /-- EC_CTRL_WRITE -/
  | ecCtrlWrite (h : CwFrom) (run : Bool)
  /-- EC_COUNT_READ -/
  | ecCountRead (i : Fin 64) (h : CwFrom)
  /-- PORST_ASSERT -/
  | porstAssert 
  /-- PORST_RELEASE -/
  | porstRelease (b : BootIn)
  /-- RESET_RELEASE -/
  | resetRelease (b : BootIn)
  /-- BROWNOUT_WARNING: VDD_CORE, VDD_TB or VDD_IO -/
  | brownoutWarning (rail : Fin 3)
  /-- BROWNOUT_RESET -/
  | brownoutReset (rail : Fin 3)
  /-- HOUSEKEEPING_ROUND: the 18 sensors; the nine rails in mV, in the order of the supply table -/
  | housekeepingRound (sens : List SensorIn) (rails : List Nat)
  /-- THROTTLE_SLOT -/
  | throttleSlot 
  /-- BLOCK_SLEEP: cores 2–15 (0–13), spare cores (14–15), path generators (16–41), spare section unit (42), Gorge channels (43–44), pipelines (45–57) -/
  | blockSleep (b : Fin 58)
  /-- WAKE_PERMIT_GRANT -/
  | wakePermitGrant 
  /-- PERMIT_RETURN -/
  | permitReturn 
  /-- HK_WAKE_READ -/
  | hkWakeRead (h : CwFrom)
  /-- VAULT_SUPPLY_LOSS -/
  | vaultSupplyLoss (onVbat tampLow : Bool)
  /-- CRYSTAL_STOP -/
  | crystalStop 
  /-- TAMPER -/
  | tamper 
  /-- MREL -/
  | mrel (h : CwFrom)
  /-- BACKGROUND_TEST: the first test's result and the repeat's; `cut`: a barrier or a path generator ends it; `rotate`: the active unit moved to the tested spare -/
  | backgroundTest (u : BgUnit) (pass0 pass1 cut : Bool) (rotate : Option (Fin 64))
  /-- REPAIR_RECORD_WRITE -/
  | repairRecordWrite 
  /-- CONFIRM -/
  | confirm (h : CwFrom)
  /-- SVNBURN -/
  | svnburn (h : CwFrom)
  /-- REVOKE -/
  | revoke (h : CwFrom) (mask : BitVec 4)
  /-- BLOCK_LOCK -/
  | blockLock (n : Fin 36) (mirror : Bool)
  /-- BAD_BLOCK: `viol`: a wrong K symbol, code violation or disparity error; `good`: the valid blocks since the lane's last bad one -/
  | badBlock (n : Fin 36) (mirror : Bool) (viol : Bool) (good : Nat)
  /-- SAFE_INPUT_RISE -/
  | safeInputRise (b : Bool)
  /-- RESET_ASSERT -/
  | resetAssert 
  /-- BROWNOUT_RECOVERY -/
  | brownoutRecovery (b : BootIn)
  /-- VAULT_SUPPLY_RETURN -/
  | vaultSupplyReturn 
  /-- CRYSTAL_RESTART -/
  | crystalRestart 
  /-- CREDIT_RETURN: the CRED token and the credits it returns -/
  | creditReturn (tok : Token) (n : Nat)
  /-- RSP_ABSORBED -/
  | rspAbsorbed (tok : Token)
  /-- DRAM_THROTTLE_END -/
  | dramThrottleEnd (ch : Fin 2) (src : BitVec 10)
  /-- WAKE_COMPLETE -/
  | wakeComplete (b : Fin 58)
  /-- EARLY_WAKE -/
  | earlyWake (r : Fin 18)
  /-- CORE_MOVE_COMPLETE -/
  | coreMoveComplete (r : Fin 18)
  /-- EACH_US_OF_MT -/
  | eachUsOfMt 
  /-- TAP_ACCESS -/
  | tapAccess (op : TapOp)
deriving DecidableEq, Repr

end Sys2Proof
end

