-- ==== Sys2Proof/Decode.lean ====
section
/-! DEFINITION. The words of the operation table. The table gives no row any bits: a command reaches the block as a token, a pin event or a
frame, never as a word of an instruction encoding. -/

namespace Sys2Proof

/-- The command a word of the operation table spells: none, since no row of the table has bits. -/
def decodeTableWord (_nbits _w : Nat) : Option Instr := none

end Sys2Proof
end

