-- ==== Sys2Proof/Config.lean ====
section
/-! DEFINITION. What an implementation fixes and what the spec leaves open: constants with no body, so that no proof can lean on a
value of theirs. A fresh free value is `freeWord n` for the counter the state advances (log entry 5). -/

namespace Sys2Proof.Config

/-- The n-th value the spec leaves open: nothing constrains it (log entry 5). -/
opaque freeWord : Nat → BitVec 64

/-- The credits an endpoint grants where the spec states no input capacity (R43; log entry 12). -/
opaque creditGrant : Nat → Nat

/-- Whether a planned instant or position that falls between two whole units is given the upper one: the spec states no rounding for it
(log entry 20). -/
opaque roundUp : Int → Int → Bool

/-- The words a loop's section states are kept as in the state area, whose contents are not documented (R250; log entry 25). -/
opaque stateWord : List Int → Nat → BitVec 64

/-- The section state a loop finds in the state area after software has written to it (R250; log entry 25). -/
opaque stateValue : List (BitVec 64) → Nat → Int

/-- The endpoint of resident firmware that a link's uplink tokens are forwarded to: the spec names none (R348, R349; log entry 29). -/
opaque linkDest : Nat → BitVec 10

/-- The matches and literals of a deflated block, given the bytes before it, the block, DEPTH and LAZY: pairs of a length and a distance, or
of 0 and a byte. The spec fixes what the output depends on, not the search (R416; log entry 30). -/
opaque lzParse : List (BitVec 8) → List (BitVec 8) → Nat → Bool → List (Nat × Nat)

/-- The bits of a block with dynamic codes: the spec does not fix how its codes are built (R416; log entry 30). -/
opaque dynBlock : List (Nat × Nat) → Bool → List Bool

/-- The bytes of a Gorge state area after its header, whose layout is not documented (R424; log entry 31). -/
opaque gorgeByte : List Nat → Nat → BitVec 8

end Sys2Proof.Config
end

