-- ==== Sys2Proof/Machine/Arith.lean ====
section
/-! DEFINITION. Integer arithmetic the rules share: bit fields, sign extension, wrapped differences, clamping and rounding. -/

namespace Sys2Proof.Machine

/-- Bits `hi:lo` of a word as a number (R6). -/
def bits (w : Word) (hi lo : Nat) : Nat := (w.toNat >>> lo) % 2 ^ (hi + 1 - lo)

/-- One bit of a word. -/
def bit (w : Word) (i : Nat) : Bool := w.getLsbD i

/-- The signed value of the low `n` bits of `v`. -/
def sx (n : Nat) (v : Nat) : Int :=
  let u := v % 2 ^ n
  if u < 2 ^ (n - 1) then (u : Int) else (u : Int) - (2 ^ n : Nat)

/-- The low `n` bits of an integer, two's complement. -/
def ux (n : Nat) (v : Int) : Nat := (v % ((2 ^ n : Nat) : Int)).toNat

/-- Bits `hi:lo` of a word, signed. -/
def sbits (w : Word) (hi lo : Nat) : Int := sx (hi + 1 - lo) (bits w hi lo)

/-- A word from a natural number, wrapping. -/
def wd (v : Nat) : Word := BitVec.ofNat 64 v

/-- A word from an integer, wrapping. -/
def wdi (v : Int) : Word := BitVec.ofInt 64 v

/-- `v` placed at bit `lo` in a field of `n` bits. -/
def place (v n lo : Nat) : Nat := (v % 2 ^ n) * 2 ^ lo

/-- `v` limited to `lo` … `hi`. -/
def clamp (lo hi v : Int) : Int := if v < lo then lo else if hi < v then hi else v

/-- A signed value saturated to `n` bits. -/
def sat (n : Nat) (v : Int) : Int := clamp (-(2 ^ (n - 1) : Nat)) ((2 ^ (n - 1) : Nat) - 1) v

/-- Floor division by a power of two. -/
def fshr (v : Int) (n : Nat) : Int := v / ((2 ^ n : Nat) : Int)

/-- `a / b` rounded to the nearest integer, ties away from zero. -/
def rdiv (a : Int) (b : Nat) : Int :=
  if b = 0 then 0
  else if 0 ≤ a then (2 * a + b) / (2 * (b : Int)) else -((2 * (-a) + b) / (2 * (b : Int)))

/-- `v / 2^n` rounded to the nearest integer, ties away from zero. -/
def rshr (v : Int) (n : Nat) : Int := rdiv v (2 ^ n)

/-- The sign of an integer. -/
def sgn (v : Int) : Int := if v < 0 then -1 else if v = 0 then 0 else 1

/-- The integer square root, rounded down: one bit at a time from bit `fuel` down. -/
def isqrtGo (n : Nat) : Nat → Nat → Nat
  | 0, r => r
  | k + 1, r =>
    let c := r + 2 ^ k
    if c * c ≤ n then isqrtGo n k c else isqrtGo n k r

/-- The integer square root of `n`, rounded down. -/
def isqrt (n : Nat) : Nat := isqrtGo n ((Nat.log2 n) / 2 + 1) 0

/-- The wrapped signed difference `a − b` of two `n`-bit counts (R9 with n = 48). -/
def wdiff (n : Nat) (a b : Nat) : Int := sx n (ux n ((a : Int) - (b : Int)))

/-- The full instant of a 48-bit token time at machine time `mt` (R56). -/
def fullTime (mt : Nat) (t : BitVec 48) : Nat := ((mt : Int) + wdiff 48 t.toNat mt).toNat

/-- The bytes of a number, least significant first (R7). -/
def leBytes : Nat → Nat → List Byte
  | 0, _ => []
  | n + 1, v => BitVec.ofNat 8 v :: leBytes n (v / 256)

/-- The number a little-endian byte string spells (R7). -/
def leNat : List Byte → Nat
  | [] => 0
  | b :: t => b.toNat + 256 * leNat t

/-- The number a big-endian byte string spells (R7). -/
def beNat (l : List Byte) : Nat := l.foldl (fun a b => a * 256 + b.toNat) 0

/-- The bytes of a number, most significant first (R7). -/
def beBytes (n v : Nat) : List Byte := (leBytes n v).reverse

/-- One byte into a reflected CRC with polynomial `poly`: eight shifts. -/
def crcByte (poly : Nat) (crc : Nat) (b : Byte) : Nat :=
  (List.range 8).foldl (fun c _ => if c % 2 = 1 then (c / 2) ^^^ poly else c / 2) (crc ^^^ b.toNat)

/-- CRC-32 with the IEEE 802.3 polynomial (R140, R193). -/
def crc32 (l : List Byte) : Nat := (l.foldl (crcByte 0xEDB88320) 0xFFFFFFFF) ^^^ 0xFFFFFFFF

/-- Apply a state change for each number of a list in turn. -/
def forEach {σ α : Type} (l : List α) (f : α → σ → σ) (s : σ) : σ := l.foldl (fun t a => f a t) s

end Sys2Proof.Machine
end

