-- ==== Sys2Proof/Machine/FieldMap.lean ====
section
/-! DEFINITION. The field maps: every control word the spec lays out (R10–R13, R91, R92 and the field maps of the home chapters),
its place in the control-word space, and for each of its fields the bits, the access code, the reset value and the range that the
Effect column states. Bits that no field names are reserved (R12). A field whose reset value the spec leaves open ("—", "per repair",
"per parameter block", "adapted", "from fuses") resets to 0 here or to the value its docstring names (log entries 3 and 4). -/

namespace Sys2Proof.Machine

/-- The access codes of R10. -/
inductive Access where
  | ro | rw | wo | w1c | rs
deriving DecidableEq, Repr

/-- A field of a control word or of an array of them: the address of entry 0, the stride of the entries, and the bits. -/
structure Fld where
  base : Nat
  stride : Nat
  hi : Nat
  lo : Nat
deriving DecidableEq, Repr

/-- How many values a field holds. -/
def Fld.size (f : Fld) : Nat := 2 ^ (f.hi + 1 - f.lo)

/-- The address of the word that holds entry `i` of the field. -/
def Fld.addr (f : Fld) (i : Nat) : Nat := f.base + f.stride * i

/-- What a field reads after reset: one value for every entry, or one the entry's number gives. -/
inductive ResetVal where
  | const (v : Nat)
  | index           -- the entry's number
  | colPolicy       -- R58
  | laneMode        -- R340 and the lane table
  | dramHash        -- R394: the home bit of the selector
  | unitRole        -- R465: the role a unit holds before any repair
  | unitState       -- R465: active, or spare
deriving DecidableEq, Repr

/-- One row of a field map: the field, its access code, its reset value, and the least and greatest value a write may carry. -/
structure FieldSpec where
  fld : Fld
  acc : Access
  reset : ResetVal
  vmin : Nat
  vmax : Nat
deriving DecidableEq, Repr

/-- A control word, or an array of `count` of them: where it lies and its field map. -/
structure Reg where
  base : Nat
  stride : Nat
  count : Nat
  fields : List FieldSpec
deriving DecidableEq, Repr

namespace ID.DEV
def VENDOR : Fld := ⟨0x100000000, 0x0, 63, 48⟩
def PART : Fld := ⟨0x100000000, 0x0, 47, 32⟩
def STEPL : Fld := ⟨0x100000000, 0x0, 23, 16⟩
def STEPN : Fld := ⟨0x100000000, 0x0, 15, 8⟩
def GRADE : Fld := ⟨0x100000000, 0x0, 7, 0⟩
/-- The field map of ID.DEV (chapter 03). -/
def reg : Reg := ⟨0x100000000, 0x0, 1,
  [⟨VENDOR, .ro, .const 22084, 0, 65535⟩,
   ⟨PART, .ro, .const 9316, 0, 65535⟩,
   ⟨STEPL, .ro, .const 65, 0, 255⟩,
   ⟨STEPN, .ro, .const 1, 0, 255⟩,
   ⟨GRADE, .ro, .const 78, 0, 255⟩]⟩
end ID.DEV

namespace ID.SERIAL
def V : Fld := ⟨0x100000008, 0x0, 63, 0⟩
/-- The field map of ID.SERIAL (chapter 03). -/
def reg : Reg := ⟨0x100000008, 0x0, 1,
  [⟨V, .ro, .const 40011915563458, 0, 18446744073709551615⟩]⟩
end ID.SERIAL

namespace ID.INV
def CORES : Fld := ⟨0x100000010, 0x0, 55, 48⟩
def PGS : Fld := ⟨0x100000010, 0x0, 47, 40⟩
def UNITS : Fld := ⟨0x100000010, 0x0, 39, 32⟩
def PIPES : Fld := ⟨0x100000010, 0x0, 31, 24⟩
def LANES : Fld := ⟨0x100000010, 0x0, 23, 16⟩
def PORTS : Fld := ⟨0x100000010, 0x0, 15, 8⟩
def HEADS : Fld := ⟨0x100000010, 0x0, 7, 0⟩
/-- The field map of ID.INV (chapter 03). -/
def reg : Reg := ⟨0x100000010, 0x0, 1,
  [⟨CORES, .ro, .const 18, 0, 255⟩,
   ⟨PGS, .ro, .const 26, 0, 255⟩,
   ⟨UNITS, .ro, .const 7, 0, 255⟩,
   ⟨PIPES, .ro, .const 13, 0, 255⟩,
   ⟨LANES, .ro, .const 64, 0, 255⟩,
   ⟨PORTS, .ro, .const 12, 0, 255⟩,
   ⟨HEADS, .ro, .const 24, 0, 255⟩]⟩
end ID.INV

namespace ID.BOOT
def TRIAL : Fld := ⟨0x100000018, 0x0, 33, 33⟩
def AREA : Fld := ⟨0x100000018, 0x0, 32, 32⟩
def VER : Fld := ⟨0x100000018, 0x0, 31, 0⟩
/-- The field map of ID.BOOT (chapter 03). -/
def reg : Reg := ⟨0x100000018, 0x0, 1,
  [⟨TRIAL, .ro, .const 0, 0, 1⟩,
   ⟨AREA, .ro, .const 0, 0, 1⟩,
   ⟨VER, .ro, .const 0, 0, 4294967295⟩]⟩
end ID.BOOT

namespace PLAIN.STAT
def REPCAND : Fld := ⟨0x100100000, 0x0, 2, 2⟩
def UE : Fld := ⟨0x100100000, 0x0, 1, 1⟩
def CE : Fld := ⟨0x100100000, 0x0, 0, 0⟩
/-- The field map of PLAIN.STAT (chapter 03). -/
def reg : Reg := ⟨0x100100000, 0x0, 1,
  [⟨REPCAND, .w1c, .const 0, 0, 1⟩,
   ⟨UE, .w1c, .const 0, 0, 1⟩,
   ⟨CE, .w1c, .const 0, 0, 1⟩]⟩
end PLAIN.STAT

namespace PLAIN.ECC
def UE : Fld := ⟨0x100100008, 0x0, 47, 32⟩
def CE : Fld := ⟨0x100100008, 0x0, 31, 0⟩
/-- The field map of PLAIN.ECC (chapter 03). -/
def reg : Reg := ⟨0x100100008, 0x0, 1,
  [⟨UE, .rs, .const 0, 0, 65535⟩,
   ⟨CE, .rs, .const 0, 0, 4294967295⟩]⟩
end PLAIN.ECC

namespace PLAIN.ECCADDR
def TYPE : Fld := ⟨0x100100010, 0x0, 63, 62⟩
def ADDR : Fld := ⟨0x100100010, 0x0, 47, 3⟩
/-- The field map of PLAIN.ECCADDR (chapter 03). -/
def reg : Reg := ⟨0x100100010, 0x0, 1,
  [⟨TYPE, .rs, .const 0, 0, 3⟩,
   ⟨ADDR, .rs, .const 0, 0, 35184372088831⟩]⟩
end PLAIN.ECCADDR

namespace PLAIN.SCRUB
def PERIOD : Fld := ⟨0x100100018, 0x0, 31, 0⟩
/-- The field map of PLAIN.SCRUB (chapter 03). -/
def reg : Reg := ⟨0x100100018, 0x0, 1,
  [⟨PERIOD, .rw, .const 500000, 0, 4294967295⟩]⟩
end PLAIN.SCRUB

namespace PLAIN.COLL
def V : Fld := ⟨0x100100020, 0x0, 31, 0⟩
/-- The field map of PLAIN.COLL (chapter 03). -/
def reg : Reg := ⟨0x100100020, 0x0, 1,
  [⟨V, .rs, .const 0, 0, 4294967295⟩]⟩
end PLAIN.COLL

namespace TB.MT
def V : Fld := ⟨0x100200000, 0x0, 63, 0⟩
/-- The field map of TB.MT (chapter 03). -/
def reg : Reg := ⟨0x100200000, 0x0, 1,
  [⟨V, .ro, .const 0, 0, 18446744073709551615⟩]⟩
end TB.MT

namespace TB.STAT
def PTSTEP : Fld := ⟨0x100200008, 0x0, 2, 2⟩
def HOLD : Fld := ⟨0x100200008, 0x0, 1, 1⟩
def REFLOSS : Fld := ⟨0x100200008, 0x0, 0, 0⟩
/-- The field map of TB.STAT (chapter 03). -/
def reg : Reg := ⟨0x100200008, 0x0, 1,
  [⟨PTSTEP, .w1c, .const 0, 0, 1⟩,
   ⟨HOLD, .ro, .const 0, 0, 1⟩,
   ⟨REFLOSS, .w1c, .const 0, 0, 1⟩]⟩
end TB.STAT

namespace TB.COLL
def V : Fld := ⟨0x100200010, 0x0, 31, 0⟩
/-- The field map of TB.COLL (chapter 03). -/
def reg : Reg := ⟨0x100200010, 0x0, 1,
  [⟨V, .rs, .const 0, 0, 4294967295⟩]⟩
end TB.COLL

namespace TB.PTBASE
def SECLO : Fld := ⟨0x100200018, 0x0, 63, 32⟩
def NS : Fld := ⟨0x100200018, 0x0, 31, 0⟩
/-- The field map of TB.PTBASE (chapter 03). -/
def reg : Reg := ⟨0x100200018, 0x0, 1,
  [⟨SECLO, .rw, .const 0, 0, 4294967295⟩,
   ⟨NS, .rw, .const 0, 0, 4294967295⟩]⟩
end TB.PTBASE

namespace TB.PTBASEH
def SECHI : Fld := ⟨0x100200020, 0x0, 15, 0⟩
/-- The field map of TB.PTBASEH (chapter 03). -/
def reg : Reg := ⟨0x100200020, 0x0, 1,
  [⟨SECHI, .rw, .const 0, 0, 65535⟩]⟩
end TB.PTBASEH

namespace TB.PTMTREF
def V : Fld := ⟨0x100200028, 0x0, 63, 0⟩
/-- The field map of TB.PTMTREF (chapter 03). -/
def reg : Reg := ⟨0x100200028, 0x0, 1,
  [⟨V, .rw, .const 0, 0, 18446744073709551615⟩]⟩
end TB.PTMTREF

namespace TB.PTRATE
def V : Fld := ⟨0x100200030, 0x0, 31, 0⟩
/-- The field map of TB.PTRATE (chapter 03). -/
def reg : Reg := ⟨0x100200030, 0x0, 1,
  [⟨V, .rw, .const 0, 0, 4294967295⟩]⟩
end TB.PTRATE

namespace TB.ATSYNC
def V : Fld := ⟨0x100200038, 0x0, 47, 0⟩
/-- The field map of TB.ATSYNC (chapter 03). -/
def reg : Reg := ⟨0x100200038, 0x0, 1,
  [⟨V, .ro, .const 0, 0, 281474976710655⟩]⟩
end TB.ATSYNC

namespace TB.ATNOW
def V : Fld := ⟨0x100200040, 0x0, 47, 0⟩
/-- The field map of TB.ATNOW (chapter 03). -/
def reg : Reg := ⟨0x100200040, 0x0, 1,
  [⟨V, .ro, .const 0, 0, 281474976710655⟩]⟩
end TB.ATNOW

namespace TB.HT.OFS
def V : Fld := ⟨0x100201000, 0x20, 63, 0⟩
/-- The field map of TB.HT.OFS (chapter 03). -/
def reg : Reg := ⟨0x100201000, 0x20, 32,
  [⟨V, .ro, .const 0, 0, 18446744073709551615⟩]⟩
end TB.HT.OFS

namespace TB.HT.DLY
def V : Fld := ⟨0x100201008, 0x20, 63, 0⟩
/-- The field map of TB.HT.DLY (chapter 03). -/
def reg : Reg := ⟨0x100201008, 0x20, 32,
  [⟨V, .ro, .const 0, 0, 18446744073709551615⟩]⟩
end TB.HT.DLY

namespace TB.HT.STAT
def LOST : Fld := ⟨0x100201010, 0x20, 1, 1⟩
def LOCK : Fld := ⟨0x100201010, 0x20, 0, 0⟩
/-- The field map of TB.HT.STAT (chapter 03). -/
def reg : Reg := ⟨0x100201010, 0x20, 32,
  [⟨LOST, .w1c, .const 0, 0, 1⟩,
   ⟨LOCK, .ro, .const 0, 0, 1⟩]⟩
end TB.HT.STAT

namespace QUEUE.COLL
def V : Fld := ⟨0x100300000, 0x0, 31, 0⟩
/-- The field map of QUEUE.COLL (chapter 03). -/
def reg : Reg := ⟨0x100300000, 0x0, 1,
  [⟨V, .rs, .const 0, 0, 4294967295⟩]⟩
end QUEUE.COLL

namespace QUEUE.CFG
def CONS : Fld := ⟨0x100301000, 0x40, 41, 32⟩
def WMARK : Fld := ⟨0x100301000, 0x40, 31, 16⟩
def LOG2SIZE : Fld := ⟨0x100301000, 0x40, 10, 6⟩
def OVF : Fld := ⟨0x100301000, 0x40, 5, 4⟩
def SEQCHK : Fld := ⟨0x100301000, 0x40, 3, 3⟩
def STAMP : Fld := ⟨0x100301000, 0x40, 2, 2⟩
def PUSH : Fld := ⟨0x100301000, 0x40, 1, 1⟩
def EN : Fld := ⟨0x100301000, 0x40, 0, 0⟩
/-- The field map of QUEUE.CFG (chapter 03). -/
def reg : Reg := ⟨0x100301000, 0x40, 64,
  [⟨CONS, .rw, .const 0, 0, 1023⟩,
   ⟨WMARK, .rw, .const 0, 0, 65535⟩,
   ⟨LOG2SIZE, .rw, .const 4, 4, 16⟩,
   ⟨OVF, .rw, .const 0, 0, 2⟩,
   ⟨SEQCHK, .rw, .const 0, 0, 1⟩,
   ⟨STAMP, .rw, .const 1, 0, 1⟩,
   ⟨PUSH, .rw, .const 0, 0, 1⟩,
   ⟨EN, .rw, .const 0, 0, 1⟩]⟩
end QUEUE.CFG

namespace QUEUE.BASE
def V : Fld := ⟨0x100301008, 0x40, 47, 5⟩
/-- The field map of QUEUE.BASE (chapter 03). -/
def reg : Reg := ⟨0x100301008, 0x40, 64,
  [⟨V, .rw, .const 0, 0, 8796093022207⟩]⟩
end QUEUE.BASE

namespace QUEUE.PTR
def HEAD : Fld := ⟨0x100301010, 0x40, 48, 32⟩
def TAIL : Fld := ⟨0x100301010, 0x40, 16, 0⟩
/-- The field map of QUEUE.PTR (chapter 03). -/
def reg : Reg := ⟨0x100301010, 0x40, 64,
  [⟨HEAD, .ro, .const 0, 0, 131071⟩,
   ⟨TAIL, .ro, .const 0, 0, 131071⟩]⟩
end QUEUE.PTR

namespace QUEUE.STAT
def FILL : Fld := ⟨0x100301018, 0x40, 48, 32⟩
def DROPS : Fld := ⟨0x100301018, 0x40, 31, 16⟩
def POPERR : Fld := ⟨0x100301018, 0x40, 6, 6⟩
def CFGERR : Fld := ⟨0x100301018, 0x40, 5, 5⟩
def SEQERR : Fld := ⟨0x100301018, 0x40, 4, 4⟩
def DROP : Fld := ⟨0x100301018, 0x40, 3, 3⟩
def WMARK : Fld := ⟨0x100301018, 0x40, 2, 2⟩
def FULL : Fld := ⟨0x100301018, 0x40, 1, 1⟩
def EMPTY : Fld := ⟨0x100301018, 0x40, 0, 0⟩
/-- The field map of QUEUE.STAT (chapter 03). -/
def reg : Reg := ⟨0x100301018, 0x40, 64,
  [⟨FILL, .ro, .const 0, 0, 131071⟩,
   ⟨DROPS, .rs, .const 0, 0, 65535⟩,
   ⟨POPERR, .w1c, .const 0, 0, 1⟩,
   ⟨CFGERR, .w1c, .const 0, 0, 1⟩,
   ⟨SEQERR, .w1c, .const 0, 0, 1⟩,
   ⟨DROP, .w1c, .const 0, 0, 1⟩,
   ⟨WMARK, .w1c, .const 0, 0, 1⟩,
   ⟨FULL, .ro, .const 0, 0, 1⟩,
   ⟨EMPTY, .ro, .const 1, 0, 1⟩]⟩
end QUEUE.STAT

namespace QUEUE.POP
def COUNT : Fld := ⟨0x100301020, 0x40, 16, 0⟩
/-- The field map of QUEUE.POP (chapter 03). -/
def reg : Reg := ⟨0x100301020, 0x40, 64,
  [⟨COUNT, .wo, .const 0, 0, 131071⟩]⟩
end QUEUE.POP

namespace COL.COLL
def V : Fld := ⟨0x100400000, 0x0, 31, 0⟩
/-- The field map of COL.COLL (chapter 03). -/
def reg : Reg := ⟨0x100400000, 0x0, 1,
  [⟨V, .rs, .const 0, 0, 4294967295⟩]⟩
end COL.COLL

namespace COL.CFG
def WARN : Fld := ⟨0x100401000, 0x40, 47, 32⟩
def FCLASS : Fld := ⟨0x100401000, 0x40, 15, 14⟩
def POLICY : Fld := ⟨0x100401000, 0x40, 13, 12⟩
def SEQCHK : Fld := ⟨0x100401000, 0x40, 9, 9⟩
def SAFELVL : Fld := ⟨0x100401000, 0x40, 8, 8⟩
def EN : Fld := ⟨0x100401000, 0x40, 0, 0⟩
/-- The field map of COL.CFG (chapter 03). -/
def reg : Reg := ⟨0x100401000, 0x40, 128,
  [⟨WARN, .rw, .const 0, 0, 65535⟩,
   ⟨FCLASS, .rw, .const 0, 0, 2⟩,
   ⟨POLICY, .rw, .colPolicy, 0, 2⟩,
   ⟨SEQCHK, .rw, .const 0, 0, 1⟩,
   ⟨SAFELVL, .rw, .const 0, 0, 1⟩,
   ⟨EN, .rw, .const 0, 0, 1⟩]⟩
end COL.CFG

namespace COL.STAT
def FAULT : Fld := ⟨0x100401008, 0x40, 4, 4⟩
def ORDER : Fld := ⟨0x100401008, 0x40, 3, 3⟩
def SEQERR : Fld := ⟨0x100401008, 0x40, 2, 2⟩
def WARN : Fld := ⟨0x100401008, 0x40, 1, 1⟩
def LATE : Fld := ⟨0x100401008, 0x40, 0, 0⟩
/-- The field map of COL.STAT (chapter 03). -/
def reg : Reg := ⟨0x100401008, 0x40, 128,
  [⟨FAULT, .w1c, .const 0, 0, 1⟩,
   ⟨ORDER, .w1c, .const 0, 0, 1⟩,
   ⟨SEQERR, .w1c, .const 0, 0, 1⟩,
   ⟨WARN, .w1c, .const 0, 0, 1⟩,
   ⟨LATE, .w1c, .const 0, 0, 1⟩]⟩
end COL.STAT

namespace COL.SLACK
def MIN : Fld := ⟨0x100401010, 0x40, 63, 32⟩
def LAST : Fld := ⟨0x100401010, 0x40, 31, 0⟩
/-- The field map of COL.SLACK (chapter 03). -/
def reg : Reg := ⟨0x100401010, 0x40, 128,
  [⟨MIN, .rs, .const 2147483647, 0, 4294967295⟩,
   ⟨LAST, .ro, .const 0, 0, 4294967295⟩]⟩
end COL.SLACK

namespace COL.LATE
def FLUSH : Fld := ⟨0x100401018, 0x40, 63, 32⟩
def COUNT : Fld := ⟨0x100401018, 0x40, 31, 0⟩
/-- The field map of COL.LATE (chapter 03). -/
def reg : Reg := ⟨0x100401018, 0x40, 128,
  [⟨FLUSH, .rs, .const 0, 0, 4294967295⟩,
   ⟨COUNT, .rs, .const 0, 0, 4294967295⟩]⟩
end COL.LATE

namespace COL.COINC
def V : Fld := ⟨0x100401020, 0x40, 15, 0⟩
/-- The field map of COL.COINC (chapter 03). -/
def reg : Reg := ⟨0x100401020, 0x40, 128,
  [⟨V, .rs, .const 0, 0, 65535⟩]⟩
end COL.COINC

namespace BASIN.COLL
def V : Fld := ⟨0x100500000, 0x0, 31, 0⟩
/-- The field map of BASIN.COLL (chapter 17). -/
def reg : Reg := ⟨0x100500000, 0x0, 1,
  [⟨V, .rs, .const 0, 0, 4294967295⟩]⟩
end BASIN.COLL

namespace BASIN.CFG
def EMASK : Fld := ⟨0x100500008, 0x0, 15, 12⟩
def EHOLD : Fld := ⟨0x100500008, 0x0, 11, 11⟩
def INJREACT : Fld := ⟨0x100500008, 0x0, 10, 10⟩
def SEVACT : Fld := ⟨0x100500008, 0x0, 9, 8⟩
/-- The field map of BASIN.CFG (chapter 17). -/
def reg : Reg := ⟨0x100500008, 0x0, 1,
  [⟨EMASK, .rw, .const 3, 0, 15⟩,
   ⟨EHOLD, .rw, .const 0, 0, 1⟩,
   ⟨INJREACT, .rw, .const 0, 0, 1⟩,
   ⟨SEVACT, .rw, .const 0, 0, 1⟩]⟩
end BASIN.CFG

namespace BASIN.CTRL
def LREARM : Fld := ⟨0x100500010, 0x0, 1, 1⟩
def ERREL : Fld := ⟨0x100500010, 0x0, 0, 0⟩
/-- The field map of BASIN.CTRL (chapter 17). -/
def reg : Reg := ⟨0x100500010, 0x0, 1,
  [⟨LREARM, .wo, .const 0, 0, 1⟩,
   ⟨ERREL, .wo, .const 0, 0, 1⟩]⟩
end BASIN.CTRL

namespace BASIN.GATE
def PIN : Fld := ⟨0x100500018, 0x0, 47, 24⟩
def SAFEB : Fld := ⟨0x100500018, 0x0, 2, 2⟩
def SAFEA : Fld := ⟨0x100500018, 0x0, 1, 1⟩
def GOFF : Fld := ⟨0x100500018, 0x0, 0, 0⟩
/-- The field map of BASIN.GATE (chapter 17). -/
def reg : Reg := ⟨0x100500018, 0x0, 1,
  [⟨PIN, .ro, .const 0, 0, 16777215⟩,
   ⟨SAFEB, .ro, .const 0, 0, 1⟩,
   ⟨SAFEA, .ro, .const 0, 0, 1⟩,
   ⟨GOFF, .ro, .const 1, 0, 1⟩]⟩
end BASIN.GATE

namespace BASIN.INJ
def GO : Fld := ⟨0x100500020, 0x0, 15, 15⟩
def BIT : Fld := ⟨0x100500020, 0x0, 6, 0⟩
/-- The field map of BASIN.INJ (chapter 17). -/
def reg : Reg := ⟨0x100500020, 0x0, 1,
  [⟨GO, .wo, .const 0, 0, 1⟩,
   ⟨BIT, .wo, .const 0, 0, 127⟩]⟩
end BASIN.INJ

namespace BASIN.STATUS
def V : Fld := ⟨0x100500040, 0x8, 63, 0⟩
/-- The field map of BASIN.STATUS (chapter 17). -/
def reg : Reg := ⟨0x100500040, 0x8, 2,
  [⟨V, .w1c, .const 0, 0, 18446744073709551615⟩]⟩
end BASIN.STATUS

namespace BASIN.REAL
def V : Fld := ⟨0x100500050, 0x8, 63, 0⟩
/-- The field map of BASIN.REAL (chapter 17). -/
def reg : Reg := ⟨0x100500050, 0x8, 2,
  [⟨V, .ro, .const 0, 0, 18446744073709551615⟩]⟩
end BASIN.REAL

namespace BASIN.INJD
def V : Fld := ⟨0x100500060, 0x8, 63, 0⟩
/-- The field map of BASIN.INJD (chapter 17). -/
def reg : Reg := ⟨0x100500060, 0x8, 2,
  [⟨V, .ro, .const 0, 0, 18446744073709551615⟩]⟩
end BASIN.INJD

namespace DALE.COLL
def V : Fld := ⟨0x100600000, 0x0, 31, 0⟩
/-- The field map of DALE.COLL (chapter 17). -/
def reg : Reg := ⟨0x100600000, 0x0, 1,
  [⟨V, .rs, .const 0, 0, 4294967295⟩]⟩
end DALE.COLL

namespace DALE.CFG
def CMASK : Fld := ⟨0x100600008, 0x0, 7, 4⟩
def EN : Fld := ⟨0x100600008, 0x0, 0, 0⟩
/-- The field map of DALE.CFG (chapter 17). -/
def reg : Reg := ⟨0x100600008, 0x0, 1,
  [⟨CMASK, .rw, .const 15, 0, 15⟩,
   ⟨EN, .rw, .const 0, 0, 1⟩]⟩
end DALE.CFG

namespace DALE.BASE
def V : Fld := ⟨0x100600010, 0x0, 47, 5⟩
/-- The field map of DALE.BASE (chapter 17). -/
def reg : Reg := ⟨0x100600010, 0x0, 1,
  [⟨V, .rw, .const 0, 0, 8796093022207⟩]⟩
end DALE.BASE

namespace DALE.CTRL
def FREEZE : Fld := ⟨0x100600018, 0x0, 0, 0⟩
/-- The field map of DALE.CTRL (chapter 17). -/
def reg : Reg := ⟨0x100600018, 0x0, 1,
  [⟨FREEZE, .rw, .const 0, 0, 1⟩]⟩
end DALE.CTRL

namespace DALE.PTR
def WIDX : Fld := ⟨0x100600020, 0x0, 45, 32⟩
def RIDX : Fld := ⟨0x100600020, 0x0, 13, 0⟩
/-- The field map of DALE.PTR (chapter 17). -/
def reg : Reg := ⟨0x100600020, 0x0, 1,
  [⟨WIDX, .ro, .const 0, 0, 16383⟩,
   ⟨RIDX, .ro, .const 0, 0, 16383⟩]⟩
end DALE.PTR

namespace DALE.POP
def COUNT : Fld := ⟨0x100600028, 0x0, 13, 0⟩
/-- The field map of DALE.POP (chapter 17). -/
def reg : Reg := ⟨0x100600028, 0x0, 1,
  [⟨COUNT, .wo, .const 0, 1, 8192⟩]⟩
end DALE.POP

namespace DALE.STAT
def LOST : Fld := ⟨0x100600030, 0x0, 47, 16⟩
def FROZEN : Fld := ⟨0x100600030, 0x0, 2, 2⟩
def FULL : Fld := ⟨0x100600030, 0x0, 1, 1⟩
def LOSS : Fld := ⟨0x100600030, 0x0, 0, 0⟩
/-- The field map of DALE.STAT (chapter 17). -/
def reg : Reg := ⟨0x100600030, 0x0, 1,
  [⟨LOST, .rs, .const 0, 0, 4294967295⟩,
   ⟨FROZEN, .ro, .const 0, 0, 1⟩,
   ⟨FULL, .ro, .const 0, 0, 1⟩,
   ⟨LOSS, .w1c, .const 0, 0, 1⟩]⟩
end DALE.STAT

namespace EC.COLL
def V : Fld := ⟨0x100700000, 0x0, 31, 0⟩
/-- The field map of EC.COLL (chapter 17). -/
def reg : Reg := ⟨0x100700000, 0x0, 1,
  [⟨V, .rs, .const 0, 0, 4294967295⟩]⟩
end EC.COLL

namespace EC.CTRL
def RUN : Fld := ⟨0x100700008, 0x0, 0, 0⟩
/-- The field map of EC.CTRL (chapter 17). -/
def reg : Reg := ⟨0x100700008, 0x0, 1,
  [⟨RUN, .rw, .const 1, 0, 1⟩]⟩
end EC.CTRL

namespace EC.STAT
def SAT : Fld := ⟨0x100700010, 0x0, 63, 0⟩
/-- The field map of EC.STAT (chapter 17). -/
def reg : Reg := ⟨0x100700010, 0x0, 1,
  [⟨SAT, .w1c, .const 0, 0, 18446744073709551615⟩]⟩
end EC.STAT

namespace EC.CFG
def QSRC : Fld := ⟨0x100701000, 0x10, 63, 54⟩
def QSRCEN : Fld := ⟨0x100701000, 0x10, 53, 53⟩
def QSTREAM : Fld := ⟨0x100701000, 0x10, 52, 45⟩
def QSTREAMEN : Fld := ⟨0x100701000, 0x10, 44, 44⟩
def QKIND : Fld := ⟨0x100701000, 0x10, 43, 40⟩
def QKINDEN : Fld := ⟨0x100701000, 0x10, 39, 39⟩
def EN : Fld := ⟨0x100701000, 0x10, 12, 12⟩
def EVT : Fld := ⟨0x100701000, 0x10, 11, 0⟩
/-- The field map of EC.CFG (chapter 17). -/
def reg : Reg := ⟨0x100701000, 0x10, 64,
  [⟨QSRC, .rw, .const 0, 0, 1023⟩,
   ⟨QSRCEN, .rw, .const 0, 0, 1⟩,
   ⟨QSTREAM, .rw, .const 0, 0, 255⟩,
   ⟨QSTREAMEN, .rw, .const 0, 0, 1⟩,
   ⟨QKIND, .rw, .const 0, 0, 15⟩,
   ⟨QKINDEN, .rw, .const 0, 0, 1⟩,
   ⟨EN, .rw, .const 0, 0, 1⟩,
   ⟨EVT, .rw, .const 0, 0, 4095⟩]⟩
end EC.CFG

namespace EC.COUNT
def V : Fld := ⟨0x100701008, 0x10, 47, 0⟩
/-- The field map of EC.COUNT (chapter 17). -/
def reg : Reg := ⟨0x100701008, 0x10, 64,
  [⟨V, .rs, .const 0, 0, 281474976710655⟩]⟩
end EC.COUNT

namespace CORE.COLL
def V : Fld := ⟨0x100800000, 0x0, 31, 0⟩
/-- The field map of CORE.COLL (chapter 04). -/
def reg : Reg := ⟨0x100800000, 0x0, 1,
  [⟨V, .rs, .const 0, 0, 4294967295⟩]⟩
end CORE.COLL

namespace CORE.CTRL
def STEP : Fld := ⟨0x100801000, 0x40, 2, 2⟩
def HALT : Fld := ⟨0x100801000, 0x40, 1, 1⟩
def START : Fld := ⟨0x100801000, 0x40, 0, 0⟩
/-- The field map of CORE.CTRL (chapter 04). -/
def reg : Reg := ⟨0x100801000, 0x40, 18,
  [⟨STEP, .wo, .const 0, 0, 1⟩,
   ⟨HALT, .wo, .const 0, 0, 1⟩,
   ⟨START, .wo, .const 0, 0, 1⟩]⟩
end CORE.CTRL

namespace CORE.CFG
def BLKTO : Fld := ⟨0x100801008, 0x40, 47, 32⟩
def ROT : Fld := ⟨0x100801008, 0x40, 16, 16⟩
def ENTRY : Fld := ⟨0x100801008, 0x40, 15, 2⟩
/-- The field map of CORE.CFG (chapter 04). -/
def reg : Reg := ⟨0x100801008, 0x40, 18,
  [⟨BLKTO, .rw, .const 0, 0, 65535⟩,
   ⟨ROT, .rw, .const 1, 0, 1⟩,
   ⟨ENTRY, .rw, .const 64, 0, 16383⟩]⟩
end CORE.CFG

namespace CORE.STAT
def PHYS : Fld := ⟨0x100801010, 0x40, 31, 24⟩
def RESTARTS : Fld := ⟨0x100801010, 0x40, 23, 16⟩
def CE : Fld := ⟨0x100801010, 0x40, 10, 10⟩
def UE : Fld := ⟨0x100801010, 0x40, 9, 9⟩
def DFLT : Fld := ⟨0x100801010, 0x40, 8, 8⟩
def STATE : Fld := ⟨0x100801010, 0x40, 3, 0⟩
/-- The field map of CORE.STAT (chapter 04). -/
def reg : Reg := ⟨0x100801010, 0x40, 18,
  [⟨PHYS, .ro, .index, 0, 255⟩,
   ⟨RESTARTS, .ro, .const 0, 0, 255⟩,
   ⟨CE, .w1c, .const 0, 0, 1⟩,
   ⟨UE, .w1c, .const 0, 0, 1⟩,
   ⟨DFLT, .w1c, .const 0, 0, 1⟩,
   ⟨STATE, .ro, .const 0, 0, 15⟩]⟩
end CORE.STAT

namespace CORE.PC
def V : Fld := ⟨0x100801018, 0x40, 15, 0⟩
/-- The field map of CORE.PC (chapter 04). -/
def reg : Reg := ⟨0x100801018, 0x40, 18,
  [⟨V, .ro, .const 0, 0, 65535⟩]⟩
end CORE.PC

namespace CORE.ICOUNT
def V : Fld := ⟨0x100801020, 0x40, 63, 0⟩
/-- The field map of CORE.ICOUNT (chapter 04). -/
def reg : Reg := ⟨0x100801020, 0x40, 18,
  [⟨V, .ro, .const 0, 0, 18446744073709551615⟩]⟩
end CORE.ICOUNT

namespace CORE.IMG
def BASE : Fld := ⟨0x100801028, 0x40, 47, 17⟩
def DATA : Fld := ⟨0x100801028, 0x40, 1, 1⟩
def VALID : Fld := ⟨0x100801028, 0x40, 0, 0⟩
/-- The field map of CORE.IMG (chapter 04). -/
def reg : Reg := ⟨0x100801028, 0x40, 18,
  [⟨BASE, .rw, .const 0, 0, 2147483647⟩,
   ⟨DATA, .rw, .const 0, 0, 1⟩,
   ⟨VALID, .rw, .const 0, 0, 1⟩]⟩
end CORE.IMG

namespace PG.COLL
def V : Fld := ⟨0x100900000, 0x0, 31, 0⟩
/-- The field map of PG.COLL (chapter 05). -/
def reg : Reg := ⟨0x100900000, 0x0, 1,
  [⟨V, .rs, .const 0, 0, 4294967295⟩]⟩
end PG.COLL

namespace PG.PREC
def DEST : Fld := ⟨0x100900008, 0x0, 41, 32⟩
def STREAM : Fld := ⟨0x100900008, 0x0, 31, 24⟩
def DROP : Fld := ⟨0x100900008, 0x0, 1, 1⟩
def EN : Fld := ⟨0x100900008, 0x0, 0, 0⟩
/-- The field map of PG.PREC (chapter 11). -/
def reg : Reg := ⟨0x100900008, 0x0, 1,
  [⟨DEST, .rw, .const 0, 0, 1023⟩,
   ⟨STREAM, .rw, .const 0, 0, 255⟩,
   ⟨DROP, .w1c, .const 0, 0, 1⟩,
   ⟨EN, .rw, .const 0, 0, 1⟩]⟩
end PG.PREC

namespace PG.PRDROP
def V : Fld := ⟨0x100900010, 0x0, 31, 0⟩
/-- The field map of PG.PRDROP (chapter 11). -/
def reg : Reg := ⟨0x100900010, 0x0, 1,
  [⟨V, .rs, .const 0, 0, 4294967295⟩]⟩
end PG.PRDROP

namespace PG.WRING
def LOG2N : Fld := ⟨0x100901000, 0x200, 55, 52⟩
def BASE : Fld := ⟨0x100901000, 0x200, 47, 5⟩
/-- The field map of PG.WRING (chapter 05). -/
def reg : Reg := ⟨0x100901000, 0x200, 26,
  [⟨LOG2N, .rw, .const 1, 1, 6⟩,
   ⟨BASE, .rw, .const 0, 0, 8796093022207⟩]⟩
end PG.WRING

namespace PG.WPOS
def EOFS : Fld := ⟨0x100901008, 0x200, 47, 16⟩
def RIDX : Fld := ⟨0x100901008, 0x200, 13, 8⟩
def XIDX : Fld := ⟨0x100901008, 0x200, 5, 0⟩
/-- The field map of PG.WPOS (chapter 05). -/
def reg : Reg := ⟨0x100901008, 0x200, 26,
  [⟨EOFS, .ro, .const 0, 0, 4294967295⟩,
   ⟨RIDX, .ro, .const 0, 0, 63⟩,
   ⟨XIDX, .ro, .const 0, 0, 63⟩]⟩
end PG.WPOS

namespace PG.LEAD
def MIN : Fld := ⟨0x100901010, 0x200, 63, 32⟩
def V : Fld := ⟨0x100901010, 0x200, 31, 0⟩
/-- The field map of PG.LEAD (chapter 05). -/
def reg : Reg := ⟨0x100901010, 0x200, 26,
  [⟨MIN, .rs, .const 4294967295, 0, 4294967295⟩,
   ⟨V, .ro, .const 0, 0, 4294967295⟩]⟩
end PG.LEAD

namespace PG.JOB
def LAYER : Fld := ⟨0x100901018, 0x200, 63, 32⟩
def REFUSED : Fld := ⟨0x100901018, 0x200, 11, 11⟩
def LOWLEAD : Fld := ⟨0x100901018, 0x200, 10, 10⟩
def INSTR : Fld := ⟨0x100901018, 0x200, 9, 9⟩
def UNDER : Fld := ⟨0x100901018, 0x200, 8, 8⟩
def STATE : Fld := ⟨0x100901018, 0x200, 3, 0⟩
/-- The field map of PG.JOB (chapter 05). -/
def reg : Reg := ⟨0x100901018, 0x200, 26,
  [⟨LAYER, .ro, .const 0, 0, 4294967295⟩,
   ⟨REFUSED, .w1c, .const 0, 0, 1⟩,
   ⟨LOWLEAD, .w1c, .const 0, 0, 1⟩,
   ⟨INSTR, .w1c, .const 0, 0, 1⟩,
   ⟨UNDER, .w1c, .const 0, 0, 1⟩,
   ⟨STATE, .ro, .const 0, 0, 15⟩]⟩
end PG.JOB

namespace PG.SUSP
def OFS : Fld := ⟨0x100901020, 0x200, 63, 32⟩
def CAUSE : Fld := ⟨0x100901020, 0x200, 31, 28⟩
/-- The field map of PG.SUSP (chapter 05). -/
def reg : Reg := ⟨0x100901020, 0x200, 26,
  [⟨OFS, .ro, .const 0, 0, 4294967295⟩,
   ⟨CAUSE, .ro, .const 0, 0, 15⟩]⟩
end PG.SUSP

namespace PG.SUSPV
def VID : Fld := ⟨0x100901028, 0x200, 63, 32⟩
def DIST : Fld := ⟨0x100901028, 0x200, 31, 0⟩
/-- The field map of PG.SUSPV (chapter 05). -/
def reg : Reg := ⟨0x100901028, 0x200, 26,
  [⟨VID, .ro, .const 0, 0, 4294967295⟩,
   ⟨DIST, .ro, .const 0, 0, 4294967295⟩]⟩
end PG.SUSPV

namespace PG.MARK
def V : Fld := ⟨0x100901030, 0x200, 31, 0⟩
/-- The field map of PG.MARK (chapter 05). -/
def reg : Reg := ⟨0x100901030, 0x200, 26,
  [⟨V, .ro, .const 0, 0, 4294967295⟩]⟩
end PG.MARK

namespace PG.LIMV
def VJUMP : Fld := ⟨0x100901038, 0x200, 63, 48⟩
def VMARK : Fld := ⟨0x100901038, 0x200, 47, 32⟩
def AMAX : Fld := ⟨0x100901038, 0x200, 31, 16⟩
def JMAX : Fld := ⟨0x100901038, 0x200, 15, 0⟩
/-- The field map of PG.LIMV (chapter 06). -/
def reg : Reg := ⟨0x100901038, 0x200, 26,
  [⟨VJUMP, .rw, .const 30000, 1, 30000⟩,
   ⟨VMARK, .rw, .const 12000, 1, 12000⟩,
   ⟨AMAX, .rw, .const 15000, 1, 65535⟩,
   ⟨JMAX, .rw, .const 20000, 1, 65535⟩]⟩
end PG.LIMV

namespace PG.LIMR
def ARUN : Fld := ⟨0x100901040, 0x200, 63, 48⟩
def AEMG : Fld := ⟨0x100901040, 0x200, 47, 32⟩
def CORNTOL : Fld := ⟨0x100901040, 0x200, 31, 16⟩
/-- The field map of PG.LIMR (chapter 06). -/
def reg : Reg := ⟨0x100901040, 0x200, 26,
  [⟨ARUN, .rw, .const 100, 1, 65535⟩,
   ⟨AEMG, .rw, .const 20000, 1, 65535⟩,
   ⟨CORNTOL, .rw, .const 182, 0, 16384⟩]⟩
end PG.LIMR

namespace PG.LIMZ
def VZ : Fld := ⟨0x100901048, 0x200, 63, 48⟩
def AZ : Fld := ⟨0x100901048, 0x200, 47, 32⟩
def JZ : Fld := ⟨0x100901048, 0x200, 31, 16⟩
/-- The field map of PG.LIMZ (chapter 06). -/
def reg : Reg := ⟨0x100901048, 0x200, 26,
  [⟨VZ, .rw, .const 500, 1, 65535⟩,
   ⟨AZ, .rw, .const 1000, 1, 65535⟩,
   ⟨JZ, .rw, .const 1000, 1, 65535⟩]⟩
end PG.LIMZ

namespace PG.SOFTX
def XMAX : Fld := ⟨0x100901050, 0x200, 63, 32⟩
def XMIN : Fld := ⟨0x100901050, 0x200, 31, 0⟩
/-- The field map of PG.SOFTX (chapter 06). -/
def reg : Reg := ⟨0x100901050, 0x200, 26,
  [⟨XMAX, .rw, .const 0, 0, 4294967295⟩,
   ⟨XMIN, .rw, .const 0, 0, 4294967295⟩]⟩
end PG.SOFTX

namespace PG.SOFTY
def YMAX : Fld := ⟨0x100901058, 0x200, 63, 32⟩
def YMIN : Fld := ⟨0x100901058, 0x200, 31, 0⟩
/-- The field map of PG.SOFTY (chapter 06). -/
def reg : Reg := ⟨0x100901058, 0x200, 26,
  [⟨YMAX, .rw, .const 0, 0, 4294967295⟩,
   ⟨YMIN, .rw, .const 0, 0, 4294967295⟩]⟩
end PG.SOFTY

namespace PG.SOFTZ
def ZMAX : Fld := ⟨0x100901060, 0x200, 63, 32⟩
def ZMIN : Fld := ⟨0x100901060, 0x200, 31, 0⟩
/-- The field map of PG.SOFTZ (chapter 06). -/
def reg : Reg := ⟨0x100901060, 0x200, 26,
  [⟨ZMAX, .rw, .const 0, 0, 4294967295⟩,
   ⟨ZMIN, .rw, .const 0, 0, 4294967295⟩]⟩
end PG.SOFTZ

namespace PG.FRAME
def ORIGY : Fld := ⟨0x100901068, 0x200, 63, 32⟩
def ORIGX : Fld := ⟨0x100901068, 0x200, 31, 0⟩
/-- The field map of PG.FRAME (chapter 06). -/
def reg : Reg := ⟨0x100901068, 0x200, 26,
  [⟨ORIGY, .rw, .const 0, 0, 4294967295⟩,
   ⟨ORIGX, .rw, .const 0, 0, 4294967295⟩]⟩
end PG.FRAME

namespace PG.CFG
def PSCALE : Fld := ⟨0x100901070, 0x200, 63, 48⟩
def ILEAD : Fld := ⟨0x100901070, 0x200, 47, 32⟩
def AXES : Fld := ⟨0x100901070, 0x200, 2, 0⟩
/-- The field map of PG.CFG (chapter 06). -/
def reg : Reg := ⟨0x100901070, 0x200, 26,
  [⟨PSCALE, .rw, .const 32768, 0, 65535⟩,
   ⟨ILEAD, .rw, .const 20, 10, 200⟩,
   ⟨AXES, .rw, .const 0, 0, 7⟩]⟩
end PG.CFG

namespace PG.GATE
def GLEAD : Fld := ⟨0x100901078, 0x200, 63, 48⟩
def SPTOL : Fld := ⟨0x100901078, 0x200, 47, 32⟩
/-- The field map of PG.GATE (chapter 06). -/
def reg : Reg := ⟨0x100901078, 0x200, 26,
  [⟨GLEAD, .rw, .const 2500, 1700, 20000⟩,
   ⟨SPTOL, .rw, .const 655, 1, 65535⟩]⟩
end PG.GATE

namespace PG.TRK
def ACTIVE : Fld := ⟨0x100901080, 0x200, 1, 1⟩
def EN : Fld := ⟨0x100901080, 0x200, 0, 0⟩
/-- The field map of PG.TRK (chapter 06). -/
def reg : Reg := ⟨0x100901080, 0x200, 26,
  [⟨ACTIVE, .ro, .const 0, 0, 1⟩,
   ⟨EN, .rw, .const 0, 0, 1⟩]⟩
end PG.TRK

namespace PG.STAT
def TREF : Fld := ⟨0x100901088, 0x200, 9, 9⟩
def HOLD : Fld := ⟨0x100901088, 0x200, 8, 8⟩
def EMG : Fld := ⟨0x100901088, 0x200, 7, 7⟩
def GATEERR : Fld := ⟨0x100901088, 0x200, 6, 6⟩
def GATEREF : Fld := ⟨0x100901088, 0x200, 5, 5⟩
def SOFT : Fld := ⟨0x100901088, 0x200, 4, 4⟩
def LIMWAIT : Fld := ⟨0x100901088, 0x200, 3, 3⟩
def REV : Fld := ⟨0x100901088, 0x200, 2, 2⟩
def LIMIT : Fld := ⟨0x100901088, 0x200, 1, 1⟩
def CLAMP : Fld := ⟨0x100901088, 0x200, 0, 0⟩
/-- The field map of PG.STAT (chapter 06). -/
def reg : Reg := ⟨0x100901088, 0x200, 26,
  [⟨TREF, .w1c, .const 0, 0, 1⟩,
   ⟨HOLD, .w1c, .const 0, 0, 1⟩,
   ⟨EMG, .w1c, .const 0, 0, 1⟩,
   ⟨GATEERR, .w1c, .const 0, 0, 1⟩,
   ⟨GATEREF, .w1c, .const 0, 0, 1⟩,
   ⟨SOFT, .w1c, .const 0, 0, 1⟩,
   ⟨LIMWAIT, .ro, .const 0, 0, 1⟩,
   ⟨REV, .w1c, .const 0, 0, 1⟩,
   ⟨LIMIT, .w1c, .const 0, 0, 1⟩,
   ⟨CLAMP, .w1c, .const 0, 0, 1⟩]⟩
end PG.STAT

namespace PG.LIMCNT
def CLAMPS : Fld := ⟨0x100901090, 0x200, 63, 32⟩
def LIMITS : Fld := ⟨0x100901090, 0x200, 31, 0⟩
/-- The field map of PG.LIMCNT (chapter 06). -/
def reg : Reg := ⟨0x100901090, 0x200, 26,
  [⟨CLAMPS, .rs, .const 0, 0, 4294967295⟩,
   ⟨LIMITS, .rs, .const 0, 0, 4294967295⟩]⟩
end PG.LIMCNT

namespace PG.GRES
def LAT : Fld := ⟨0x100901098, 0x200, 63, 32⟩
def EDGE : Fld := ⟨0x100901098, 0x200, 31, 0⟩
/-- The field map of PG.GRES (chapter 06). -/
def reg : Reg := ⟨0x100901098, 0x200, 26,
  [⟨LAT, .rs, .const 0, 0, 4294967295⟩,
   ⟨EDGE, .rs, .const 0, 0, 4294967295⟩]⟩
end PG.GRES

namespace PG.STRACE
def LOG2N : Fld := ⟨0x1009010a0, 0x200, 55, 52⟩
def BASE : Fld := ⟨0x1009010a0, 0x200, 47, 5⟩
def EN : Fld := ⟨0x1009010a0, 0x200, 0, 0⟩
/-- The field map of PG.STRACE (chapter 06). -/
def reg : Reg := ⟨0x1009010a0, 0x200, 26,
  [⟨LOG2N, .rw, .const 4, 4, 15⟩,
   ⟨BASE, .rw, .const 0, 0, 8796093022207⟩,
   ⟨EN, .rw, .const 0, 0, 1⟩]⟩
end PG.STRACE

namespace PG.STRCNT
def V : Fld := ⟨0x1009010a8, 0x200, 63, 0⟩
/-- The field map of PG.STRCNT (chapter 06). -/
def reg : Reg := ⟨0x1009010a8, 0x200, 26,
  [⟨V, .ro, .const 0, 0, 18446744073709551615⟩]⟩
end PG.STRCNT

namespace PG.SPXY
def Y : Fld := ⟨0x1009010b0, 0x200, 63, 32⟩
def X : Fld := ⟨0x1009010b0, 0x200, 31, 0⟩
/-- The field map of PG.SPXY (chapter 06). -/
def reg : Reg := ⟨0x1009010b0, 0x200, 26,
  [⟨Y, .ro, .const 0, 0, 4294967295⟩,
   ⟨X, .ro, .const 0, 0, 4294967295⟩]⟩
end PG.SPXY

namespace PG.SPZ
def Z : Fld := ⟨0x1009010b8, 0x200, 31, 0⟩
/-- The field map of PG.SPZ (chapter 06). -/
def reg : Reg := ⟨0x1009010b8, 0x200, 26,
  [⟨Z, .ro, .const 0, 0, 4294967295⟩]⟩
end PG.SPZ

namespace PG.JOBID
def V : Fld := ⟨0x1009010c0, 0x200, 31, 0⟩
/-- The field map of PG.JOBID (chapter 06). -/
def reg : Reg := ⟨0x1009010c0, 0x200, 26,
  [⟨V, .ro, .const 0, 0, 4294967295⟩]⟩
end PG.JOBID

namespace SADDLE.COLL
def V : Fld := ⟨0x100a00000, 0x0, 31, 0⟩
/-- The field map of SADDLE.COLL (chapter 07). -/
def reg : Reg := ⟨0x100a00000, 0x0, 1,
  [⟨V, .rs, .const 0, 0, 4294967295⟩]⟩
end SADDLE.COLL

namespace SADDLE.CFG
def GASANG : Fld := ⟨0x100a00008, 0x0, 31, 16⟩
def LOOKEN : Fld := ⟨0x100a00008, 0x0, 3, 3⟩
def PLUMEN : Fld := ⟨0x100a00008, 0x0, 2, 2⟩
def SEPEN : Fld := ⟨0x100a00008, 0x0, 1, 1⟩
def EN : Fld := ⟨0x100a00008, 0x0, 0, 0⟩
/-- The field map of SADDLE.CFG (chapter 07). -/
def reg : Reg := ⟨0x100a00008, 0x0, 1,
  [⟨GASANG, .rw, .const 0, 0, 65535⟩,
   ⟨LOOKEN, .rw, .const 1, 0, 1⟩,
   ⟨PLUMEN, .rw, .const 1, 0, 1⟩,
   ⟨SEPEN, .rw, .const 1, 0, 1⟩,
   ⟨EN, .rw, .const 0, 0, 1⟩]⟩
end SADDLE.CFG

namespace SADDLE.ZONE
def SEP : Fld := ⟨0x100a00010, 0x0, 63, 48⟩
def PLEN : Fld := ⟨0x100a00010, 0x0, 47, 32⟩
def PWID : Fld := ⟨0x100a00010, 0x0, 31, 16⟩
def EDGE : Fld := ⟨0x100a00010, 0x0, 15, 0⟩
/-- The field map of SADDLE.ZONE (chapter 07). -/
def reg : Reg := ⟨0x100a00010, 0x0, 1,
  [⟨SEP, .rw, .const 800, 0, 65535⟩,
   ⟨PLEN, .rw, .const 4000, 0, 65535⟩,
   ⟨PWID, .rw, .const 2000, 0, 65535⟩,
   ⟨EDGE, .rw, .const 500, 1, 65535⟩]⟩
end SADDLE.ZONE

namespace SADDLE.FEATH
def FDEF : Fld := ⟨0x100a00018, 0x0, 63, 48⟩
def FMIN : Fld := ⟨0x100a00018, 0x0, 47, 32⟩
/-- The field map of SADDLE.FEATH (chapter 07). -/
def reg : Reg := ⟨0x100a00018, 0x0, 1,
  [⟨FDEF, .rw, .const 2000, 1, 65535⟩,
   ⟨FMIN, .rw, .const 200, 1, 65535⟩]⟩
end SADDLE.FEATH

namespace SADDLE.LOOK
def LOOKMIN : Fld := ⟨0x100a00020, 0x0, 63, 48⟩
def LLEAD : Fld := ⟨0x100a00020, 0x0, 47, 36⟩
def LPER : Fld := ⟨0x100a00020, 0x0, 35, 24⟩
def LSETTLE : Fld := ⟨0x100a00020, 0x0, 23, 16⟩
def LWID : Fld := ⟨0x100a00020, 0x0, 15, 8⟩
/-- The field map of SADDLE.LOOK (chapter 07). -/
def reg : Reg := ⟨0x100a00020, 0x0, 1,
  [⟨LOOKMIN, .rw, .const 2000, 0, 65535⟩,
   ⟨LLEAD, .rw, .const 1000, 100, 4095⟩,
   ⟨LPER, .rw, .const 2000, 100, 4095⟩,
   ⟨LSETTLE, .rw, .const 20, 0, 255⟩,
   ⟨LWID, .rw, .const 20, 1, 255⟩]⟩
end SADDLE.LOOK

namespace SADDLE.NZONE
def SEP : Fld := ⟨0x100a00028, 0x0, 63, 48⟩
def PLEN : Fld := ⟨0x100a00028, 0x0, 47, 32⟩
def PWID : Fld := ⟨0x100a00028, 0x0, 31, 16⟩
def EDGE : Fld := ⟨0x100a00028, 0x0, 15, 0⟩
/-- The field map of SADDLE.NZONE (chapter 07). -/
def reg : Reg := ⟨0x100a00028, 0x0, 1,
  [⟨SEP, .rw, .const 800, 0, 65535⟩,
   ⟨PLEN, .rw, .const 4000, 0, 65535⟩,
   ⟨PWID, .rw, .const 2000, 0, 65535⟩,
   ⟨EDGE, .rw, .const 500, 1, 65535⟩]⟩
end SADDLE.NZONE

namespace SADDLE.NFEATH
def FDEF : Fld := ⟨0x100a00030, 0x0, 63, 48⟩
def FMIN : Fld := ⟨0x100a00030, 0x0, 47, 32⟩
/-- The field map of SADDLE.NFEATH (chapter 07). -/
def reg : Reg := ⟨0x100a00030, 0x0, 1,
  [⟨FDEF, .rw, .const 2000, 1, 65535⟩,
   ⟨FMIN, .rw, .const 200, 1, 65535⟩]⟩
end SADDLE.NFEATH

namespace SADDLE.NARM
def ARM : Fld := ⟨0x100a00038, 0x0, 0, 0⟩
/-- The field map of SADDLE.NARM (chapter 07). -/
def reg : Reg := ⟨0x100a00038, 0x0, 1,
  [⟨ARM, .rw, .const 0, 0, 1⟩]⟩
end SADDLE.NARM

namespace SADDLE.STAT
def UNCLAIMED : Fld := ⟨0x100a00040, 0x0, 7, 7⟩
def LOOKCUT : Fld := ⟨0x100a00040, 0x0, 6, 6⟩
def MAPERR : Fld := ⟨0x100a00040, 0x0, 5, 5⟩
def MISMATCH : Fld := ⟨0x100a00040, 0x0, 4, 4⟩
def LATE : Fld := ⟨0x100a00040, 0x0, 3, 3⟩
def CUT : Fld := ⟨0x100a00040, 0x0, 2, 2⟩
def YIELD : Fld := ⟨0x100a00040, 0x0, 1, 1⟩
/-- The field map of SADDLE.STAT (chapter 07). -/
def reg : Reg := ⟨0x100a00040, 0x0, 1,
  [⟨UNCLAIMED, .w1c, .const 0, 0, 1⟩,
   ⟨LOOKCUT, .w1c, .const 0, 0, 1⟩,
   ⟨MAPERR, .w1c, .const 0, 0, 1⟩,
   ⟨MISMATCH, .w1c, .const 0, 0, 1⟩,
   ⟨LATE, .w1c, .const 0, 0, 1⟩,
   ⟨CUT, .w1c, .const 0, 0, 1⟩,
   ⟨YIELD, .w1c, .const 0, 0, 1⟩]⟩
end SADDLE.STAT

namespace SADDLE.CNT
def CUTS : Fld := ⟨0x100a00048, 0x0, 63, 48⟩
def YIELDS : Fld := ⟨0x100a00048, 0x0, 47, 32⟩
def HANDOFFS : Fld := ⟨0x100a00048, 0x0, 31, 16⟩
def LATES : Fld := ⟨0x100a00048, 0x0, 15, 0⟩
/-- The field map of SADDLE.CNT (chapter 07). -/
def reg : Reg := ⟨0x100a00048, 0x0, 1,
  [⟨CUTS, .rs, .const 0, 0, 65535⟩,
   ⟨YIELDS, .rs, .const 0, 0, 65535⟩,
   ⟨HANDOFFS, .rs, .const 0, 0, 65535⟩,
   ⟨LATES, .rs, .const 0, 0, 65535⟩]⟩
end SADDLE.CNT

namespace SADDLE.HREC
def LOG2N : Fld := ⟨0x100a00050, 0x0, 55, 52⟩
def BASE : Fld := ⟨0x100a00050, 0x0, 47, 5⟩
def EN : Fld := ⟨0x100a00050, 0x0, 0, 0⟩
/-- The field map of SADDLE.HREC (chapter 07). -/
def reg : Reg := ⟨0x100a00050, 0x0, 1,
  [⟨LOG2N, .rw, .const 4, 4, 15⟩,
   ⟨BASE, .rw, .const 0, 0, 8796093022207⟩,
   ⟨EN, .rw, .const 0, 0, 1⟩]⟩
end SADDLE.HREC

namespace SADDLE.HRCNT
def V : Fld := ⟨0x100a00058, 0x0, 63, 0⟩
/-- The field map of SADDLE.HRCNT (chapter 07). -/
def reg : Reg := ⟨0x100a00058, 0x0, 1,
  [⟨V, .ro, .const 0, 0, 18446744073709551615⟩]⟩
end SADDLE.HRCNT

namespace SADDLE.LREC
def LOG2N : Fld := ⟨0x100a00060, 0x0, 55, 52⟩
def BASE : Fld := ⟨0x100a00060, 0x0, 47, 6⟩
def EN : Fld := ⟨0x100a00060, 0x0, 0, 0⟩
/-- The field map of SADDLE.LREC (chapter 11). -/
def reg : Reg := ⟨0x100a00060, 0x0, 1,
  [⟨LOG2N, .rw, .const 4, 4, 15⟩,
   ⟨BASE, .rw, .const 0, 0, 4398046511103⟩,
   ⟨EN, .rw, .const 0, 0, 1⟩]⟩
end SADDLE.LREC

namespace SADDLE.LRCNT
def V : Fld := ⟨0x100a00068, 0x0, 63, 0⟩
/-- The field map of SADDLE.LRCNT (chapter 11). -/
def reg : Reg := ⟨0x100a00068, 0x0, 1,
  [⟨V, .ro, .const 0, 0, 18446744073709551615⟩]⟩
end SADDLE.LRCNT

namespace SADDLEN.MAP
def MAPID : Fld := ⟨0x100a01000, 0x40, 63, 48⟩
def BASE : Fld := ⟨0x100a01000, 0x40, 47, 6⟩
def VALID : Fld := ⟨0x100a01000, 0x40, 0, 0⟩
/-- The field map of SADDLEN.MAP (chapter 07). -/
def reg : Reg := ⟨0x100a01000, 0x40, 24,
  [⟨MAPID, .ro, .const 0, 0, 65535⟩,
   ⟨BASE, .ro, .const 0, 0, 4398046511103⟩,
   ⟨VALID, .ro, .const 0, 0, 1⟩]⟩
end SADDLEN.MAP

namespace SADDLEN.MAPNEXT
def WHEN : Fld := ⟨0x100a01008, 0x40, 63, 62⟩
def BASE : Fld := ⟨0x100a01008, 0x40, 47, 6⟩
def FAIL : Fld := ⟨0x100a01008, 0x40, 1, 1⟩
def OK : Fld := ⟨0x100a01008, 0x40, 0, 0⟩
/-- The field map of SADDLEN.MAPNEXT (chapter 07). -/
def reg : Reg := ⟨0x100a01008, 0x40, 24,
  [⟨WHEN, .rw, .const 0, 0, 2⟩,
   ⟨BASE, .rw, .const 0, 0, 4398046511103⟩,
   ⟨FAIL, .ro, .const 0, 0, 1⟩,
   ⟨OK, .ro, .const 0, 0, 1⟩]⟩
end SADDLEN.MAPNEXT

namespace SADDLEN.REG
def DY : Fld := ⟨0x100a01010, 0x40, 63, 32⟩
def DX : Fld := ⟨0x100a01010, 0x40, 31, 0⟩
/-- The field map of SADDLEN.REG (chapter 07). -/
def reg : Reg := ⟨0x100a01010, 0x40, 24,
  [⟨DY, .ro, .const 0, 0, 4294967295⟩,
   ⟨DX, .ro, .const 0, 0, 4294967295⟩]⟩
end SADDLEN.REG

namespace SADDLEN.NREG
def DY : Fld := ⟨0x100a01018, 0x40, 63, 32⟩
def DX : Fld := ⟨0x100a01018, 0x40, 31, 0⟩
/-- The field map of SADDLEN.NREG (chapter 07). -/
def reg : Reg := ⟨0x100a01018, 0x40, 24,
  [⟨DY, .rw, .const 0, 0, 4294967295⟩,
   ⟨DX, .rw, .const 0, 0, 4294967295⟩]⟩
end SADDLEN.NREG

namespace SADDLEN.HCFG
def PRIO : Fld := ⟨0x100a01020, 0x40, 7, 0⟩
/-- The field map of SADDLEN.HCFG (chapter 07). -/
def reg : Reg := ⟨0x100a01020, 0x40, 24,
  [⟨PRIO, .rw, .index, 0, 255⟩]⟩
end SADDLEN.HCFG

namespace SADDLEN.HSTAT
def REGPEND : Fld := ⟨0x100a01028, 0x40, 2, 2⟩
def LOOKING : Fld := ⟨0x100a01028, 0x40, 1, 1⟩
def YIELDING : Fld := ⟨0x100a01028, 0x40, 0, 0⟩
/-- The field map of SADDLEN.HSTAT (chapter 07). -/
def reg : Reg := ⟨0x100a01028, 0x40, 24,
  [⟨REGPEND, .ro, .const 0, 0, 1⟩,
   ⟨LOOKING, .ro, .const 0, 0, 1⟩,
   ⟨YIELDING, .ro, .const 0, 0, 1⟩]⟩
end SADDLEN.HSTAT

namespace SADDLEN.YIELD
def YIELDT : Fld := ⟨0x100a01030, 0x40, 31, 0⟩
/-- The field map of SADDLEN.YIELD (chapter 07). -/
def reg : Reg := ⟨0x100a01030, 0x40, 24,
  [⟨YIELDT, .rs, .const 0, 0, 4294967295⟩]⟩
end SADDLEN.YIELD

namespace SERVO.COLL
def V : Fld := ⟨0x100b00000, 0x0, 31, 0⟩
/-- The field map of SERVO.COLL (chapter 08). -/
def reg : Reg := ⟨0x100b00000, 0x0, 1,
  [⟨V, .rs, .const 0, 0, 4294967295⟩]⟩
end SERVO.COLL

namespace SERVO.CFG
def GODLY : Fld := ⟨0x100b00008, 0x0, 63, 48⟩
def AODLY : Fld := ⟨0x100b00008, 0x0, 47, 32⟩
def SAGE : Fld := ⟨0x100b00008, 0x0, 31, 16⟩
def TADV : Fld := ⟨0x100b00008, 0x0, 15, 0⟩
/-- The field map of SERVO.CFG (chapter 08). -/
def reg : Reg := ⟨0x100b00008, 0x0, 1,
  [⟨GODLY, .rw, .const 8000, 3100, 65535⟩,
   ⟨AODLY, .rw, .const 10000, 3100, 65535⟩,
   ⟨SAGE, .rw, .const 2000, 0, 20000⟩,
   ⟨TADV, .rw, .const 1500, 0, 5000⟩]⟩
end SERVO.CFG

namespace SERVO.STBASE
def BASE : Fld := ⟨0x100b00010, 0x0, 47, 7⟩
def VALID : Fld := ⟨0x100b00010, 0x0, 0, 0⟩
/-- The field map of SERVO.STBASE (chapter 08). -/
def reg : Reg := ⟨0x100b00010, 0x0, 1,
  [⟨BASE, .rw, .const 0, 0, 2199023255551⟩,
   ⟨VALID, .ro, .const 0, 0, 1⟩]⟩
end SERVO.STBASE

namespace SERVO.LOAD
def V : Fld := ⟨0x100b00018, 0x0, 63, 32⟩
def BUDGET : Fld := ⟨0x100b00018, 0x0, 31, 0⟩
/-- The field map of SERVO.LOAD (chapter 08). -/
def reg : Reg := ⟨0x100b00018, 0x0, 1,
  [⟨V, .ro, .const 0, 0, 4294967295⟩,
   ⟨BUDGET, .ro, .const 45000, 0, 4294967295⟩]⟩
end SERVO.LOAD

namespace SERVO.UNIT
def U6 : Fld := ⟨0x100b00020, 0x0, 27, 24⟩
def U5 : Fld := ⟨0x100b00020, 0x0, 23, 20⟩
def U4 : Fld := ⟨0x100b00020, 0x0, 19, 16⟩
def U3 : Fld := ⟨0x100b00020, 0x0, 15, 12⟩
def U2 : Fld := ⟨0x100b00020, 0x0, 11, 8⟩
def U1 : Fld := ⟨0x100b00020, 0x0, 7, 4⟩
def U0 : Fld := ⟨0x100b00020, 0x0, 3, 0⟩
/-- The field map of SERVO.UNIT (chapter 08). -/
def reg : Reg := ⟨0x100b00020, 0x0, 1,
  [⟨U6, .ro, .const 1, 0, 15⟩,
   ⟨U5, .ro, .const 0, 0, 15⟩,
   ⟨U4, .ro, .const 0, 0, 15⟩,
   ⟨U3, .ro, .const 0, 0, 15⟩,
   ⟨U2, .ro, .const 0, 0, 15⟩,
   ⟨U1, .ro, .const 0, 0, 15⟩,
   ⟨U0, .ro, .const 0, 0, 15⟩]⟩
end SERVO.UNIT

namespace SERVO.STAT
def UNITFAIL : Fld := ⟨0x100b00028, 0x0, 3, 3⟩
def LOADERR : Fld := ⟨0x100b00028, 0x0, 2, 2⟩
def OVERLOAD : Fld := ⟨0x100b00028, 0x0, 1, 1⟩
/-- The field map of SERVO.STAT (chapter 08). -/
def reg : Reg := ⟨0x100b00028, 0x0, 1,
  [⟨UNITFAIL, .w1c, .const 0, 0, 1⟩,
   ⟨LOADERR, .w1c, .const 0, 0, 1⟩,
   ⟨OVERLOAD, .ro, .const 0, 0, 1⟩]⟩
end SERVO.STAT

namespace SERVO.CNT
def RERUNS : Fld := ⟨0x100b00030, 0x0, 63, 32⟩
def OVERRUNS : Fld := ⟨0x100b00030, 0x0, 31, 0⟩
/-- The field map of SERVO.CNT (chapter 08). -/
def reg : Reg := ⟨0x100b00030, 0x0, 1,
  [⟨RERUNS, .rs, .const 0, 0, 4294967295⟩,
   ⟨OVERRUNS, .rs, .const 0, 0, 4294967295⟩]⟩
end SERVO.CNT

namespace SERVON.CFG
def RSTEP : Fld := ⟨0x100b01000, 0x40, 63, 48⟩
def VDEAD : Fld := ⟨0x100b01000, 0x40, 47, 32⟩
def ECNT : Fld := ⟨0x100b01000, 0x40, 15, 8⟩
def EN : Fld := ⟨0x100b01000, 0x40, 0, 0⟩
/-- The field map of SERVON.CFG (chapter 08) for the loops 0–71. -/
def regGalvo : Reg := ⟨0x100b01000, 0x40, 72,
  [⟨RSTEP, .rw, .const 512, 0, 65535⟩,
   ⟨VDEAD, .rw, .const 256, 0, 65535⟩,
   ⟨ECNT, .rw, .const 4, 1, 255⟩,
   ⟨EN, .rw, .const 0, 0, 1⟩]⟩
/-- The field map of SERVON.CFG (chapter 08) for the loops 72–95. -/
def regPower : Reg := ⟨0x100b02200, 0x40, 24,
  [⟨VDEAD, .rw, .const 256, 0, 65535⟩,
   ⟨ECNT, .rw, .const 4, 1, 255⟩,
   ⟨EN, .rw, .const 0, 0, 1⟩]⟩
/-- The field map of SERVON.CFG (chapter 08) for the loops 96–103. -/
def regAuxPos : Reg := ⟨0x100b02800, 0x40, 8,
  [⟨RSTEP, .rw, .const 512, 0, 65535⟩,
   ⟨VDEAD, .rw, .const 256, 0, 65535⟩,
   ⟨ECNT, .rw, .const 4, 1, 255⟩,
   ⟨EN, .rw, .const 0, 0, 1⟩]⟩
/-- The field map of SERVON.CFG (chapter 08) for the loops 104–111. -/
def regAuxCur : Reg := ⟨0x100b02a00, 0x40, 8,
  [⟨VDEAD, .rw, .const 256, 0, 65535⟩,
   ⟨ECNT, .rw, .const 4, 1, 255⟩,
   ⟨EN, .rw, .const 0, 0, 1⟩]⟩
end SERVON.CFG

namespace SERVON.LIM
def OMAX : Fld := ⟨0x100b01008, 0x40, 63, 48⟩
def CMAX : Fld := ⟨0x100b01008, 0x40, 47, 32⟩
def ETOL : Fld := ⟨0x100b01008, 0x40, 31, 0⟩
/-- The field map of SERVON.LIM (chapter 08) for the loops 0–71. -/
def regGalvo : Reg := ⟨0x100b01008, 0x40, 72,
  [⟨OMAX, .rw, .const 0, 0, 65535⟩,
   ⟨ETOL, .rw, .const 0, 0, 4294967295⟩]⟩
/-- The field map of SERVON.LIM (chapter 08) for the loops 72–95. -/
def regPower : Reg := ⟨0x100b02208, 0x40, 24,
  [⟨OMAX, .rw, .const 0, 0, 65535⟩,
   ⟨CMAX, .rw, .const 0, 0, 65535⟩,
   ⟨ETOL, .rw, .const 0, 0, 4294967295⟩]⟩
/-- The field map of SERVON.LIM (chapter 08) for the loops 96–111. -/
def regAux : Reg := ⟨0x100b02808, 0x40, 16,
  [⟨OMAX, .rw, .const 0, 0, 65535⟩,
   ⟨ETOL, .rw, .const 0, 0, 4294967295⟩]⟩
end SERVON.LIM

namespace SERVON.INP
def WE : Fld := ⟨0x100b01010, 0x40, 63, 48⟩
def WR : Fld := ⟨0x100b01010, 0x40, 47, 32⟩
def GHOLD : Fld := ⟨0x100b01010, 0x40, 31, 16⟩
def TPER : Fld := ⟨0x100b01010, 0x40, 23, 0⟩
/-- The field map of SERVON.INP (chapter 08) for the loops 0–71. -/
def regGalvo : Reg := ⟨0x100b01010, 0x40, 72,
  []⟩
/-- The field map of SERVON.INP (chapter 08) for the loops 72–95. -/
def regPower : Reg := ⟨0x100b02210, 0x40, 24,
  [⟨WE, .rw, .const 0, 0, 65535⟩,
   ⟨WR, .rw, .const 0, 0, 65535⟩,
   ⟨GHOLD, .rw, .const 3000, 0, 65535⟩]⟩
/-- The field map of SERVON.INP (chapter 08) for the loops 96–103. -/
def regAuxPos : Reg := ⟨0x100b02810, 0x40, 8,
  [⟨TPER, .rw, .const 0, 0, 16777215⟩]⟩
/-- The field map of SERVON.INP (chapter 08) for the loops 104–111. -/
def regAuxCur : Reg := ⟨0x100b02a10, 0x40, 8,
  []⟩
end SERVON.INP

namespace SERVON.FFT
def BASE : Fld := ⟨0x100b01018, 0x40, 47, 12⟩
def VALID : Fld := ⟨0x100b01018, 0x40, 0, 0⟩
/-- The field map of SERVON.FFT (chapter 08). -/
def reg : Reg := ⟨0x100b01018, 0x40, 112,
  [⟨BASE, .ro, .const 0, 0, 68719476735⟩,
   ⟨VALID, .ro, .const 0, 0, 1⟩]⟩
end SERVON.FFT

namespace SERVON.FFTN
def WHEN : Fld := ⟨0x100b01020, 0x40, 63, 62⟩
def BASE : Fld := ⟨0x100b01020, 0x40, 47, 12⟩
def OK : Fld := ⟨0x100b01020, 0x40, 0, 0⟩
/-- The field map of SERVON.FFTN (chapter 08). -/
def reg : Reg := ⟨0x100b01020, 0x40, 112,
  [⟨WHEN, .rw, .const 0, 0, 2⟩,
   ⟨BASE, .rw, .const 0, 0, 68719476735⟩,
   ⟨OK, .ro, .const 0, 0, 1⟩]⟩
end SERVON.FFTN

namespace SERVON.STAT
def PEND : Fld := ⟨0x100b01028, 0x40, 48, 48⟩
def SETID : Fld := ⟨0x100b01028, 0x40, 47, 32⟩
def REFUSED : Fld := ⟨0x100b01028, 0x40, 9, 9⟩
def FBMISS : Fld := ⟨0x100b01028, 0x40, 8, 8⟩
def SPMISS : Fld := ⟨0x100b01028, 0x40, 7, 7⟩
def ETOL : Fld := ⟨0x100b01028, 0x40, 6, 6⟩
def SAT : Fld := ⟨0x100b01028, 0x40, 5, 5⟩
def OVR : Fld := ⟨0x100b01028, 0x40, 4, 4⟩
def HOLD : Fld := ⟨0x100b01028, 0x40, 3, 3⟩
def GATED : Fld := ⟨0x100b01028, 0x40, 2, 2⟩
def SHAPE : Fld := ⟨0x100b01028, 0x40, 1, 1⟩
def RUN : Fld := ⟨0x100b01028, 0x40, 0, 0⟩
/-- The field map of SERVON.STAT (chapter 08). -/
def reg : Reg := ⟨0x100b01028, 0x40, 112,
  [⟨PEND, .ro, .const 0, 0, 1⟩,
   ⟨SETID, .ro, .const 0, 0, 65535⟩,
   ⟨REFUSED, .w1c, .const 0, 0, 1⟩,
   ⟨FBMISS, .w1c, .const 0, 0, 1⟩,
   ⟨SPMISS, .w1c, .const 0, 0, 1⟩,
   ⟨ETOL, .w1c, .const 0, 0, 1⟩,
   ⟨SAT, .w1c, .const 0, 0, 1⟩,
   ⟨OVR, .w1c, .const 0, 0, 1⟩,
   ⟨HOLD, .ro, .const 0, 0, 1⟩,
   ⟨GATED, .ro, .const 0, 0, 1⟩,
   ⟨SHAPE, .ro, .const 0, 0, 1⟩,
   ⟨RUN, .ro, .const 0, 0, 1⟩]⟩
end SERVON.STAT

namespace SERVON.CNT
def OVRS : Fld := ⟨0x100b01030, 0x40, 63, 48⟩
def SPMISSES : Fld := ⟨0x100b01030, 0x40, 47, 32⟩
def FBMISSES : Fld := ⟨0x100b01030, 0x40, 31, 16⟩
def SATS : Fld := ⟨0x100b01030, 0x40, 15, 0⟩
/-- The field map of SERVON.CNT (chapter 08). -/
def reg : Reg := ⟨0x100b01030, 0x40, 112,
  [⟨OVRS, .rs, .const 0, 0, 65535⟩,
   ⟨SPMISSES, .rs, .const 0, 0, 65535⟩,
   ⟨FBMISSES, .rs, .const 0, 0, 65535⟩,
   ⟨SATS, .rs, .const 0, 0, 65535⟩]⟩
end SERVON.CNT

namespace SERVON.OUT
def ERR : Fld := ⟨0x100b01038, 0x40, 63, 40⟩
def U : Fld := ⟨0x100b01038, 0x40, 15, 0⟩
/-- The field map of SERVON.OUT (chapter 08). -/
def reg : Reg := ⟨0x100b01038, 0x40, 112,
  [⟨ERR, .ro, .const 0, 0, 16777215⟩,
   ⟨U, .ro, .const 0, 0, 65535⟩]⟩
end SERVON.OUT

namespace SERVO.RULE.CFG
def MAXAGE : Fld := ⟨0x100b03000, 0x40, 63, 48⟩
def OBSPRE : Fld := ⟨0x100b03000, 0x40, 47, 32⟩
def ACNT : Fld := ⟨0x100b03000, 0x40, 31, 24⟩
def ACLASS : Fld := ⟨0x100b03000, 0x40, 7, 6⟩
def METRIC : Fld := ⟨0x100b03000, 0x40, 5, 4⟩
def BNDRST : Fld := ⟨0x100b03000, 0x40, 3, 3⟩
def EN : Fld := ⟨0x100b03000, 0x40, 0, 0⟩
/-- The field map of SERVO.RULE.CFG (chapter 11). -/
def reg : Reg := ⟨0x100b03000, 0x40, 24,
  [⟨MAXAGE, .rw, .const 20, 1, 1000⟩,
   ⟨OBSPRE, .rw, .const 50, 0, 65535⟩,
   ⟨ACNT, .rw, .const 8, 1, 255⟩,
   ⟨ACLASS, .rw, .const 2, 0, 3⟩,
   ⟨METRIC, .rw, .const 0, 0, 3⟩,
   ⟨BNDRST, .rw, .const 0, 0, 1⟩,
   ⟨EN, .rw, .const 0, 0, 1⟩]⟩
end SERVO.RULE.CFG

namespace SERVO.RULE.TGT
def TARGET : Fld := ⟨0x100b03008, 0x40, 63, 32⟩
def DEAD : Fld := ⟨0x100b03008, 0x40, 31, 0⟩
/-- The field map of SERVO.RULE.TGT (chapter 11). -/
def reg : Reg := ⟨0x100b03008, 0x40, 24,
  [⟨TARGET, .rw, .const 0, 0, 4294967295⟩,
   ⟨DEAD, .rw, .const 0, 0, 4294967295⟩]⟩
end SERVO.RULE.TGT

namespace SERVO.RULE.GAIN
def V : Fld := ⟨0x100b03010, 0x40, 63, 48⟩
def GSHIFT : Fld := ⟨0x100b03010, 0x40, 36, 32⟩
def STEP : Fld := ⟨0x100b03010, 0x40, 31, 16⟩
def CTRIM0 : Fld := ⟨0x100b03010, 0x40, 15, 0⟩
/-- The field map of SERVO.RULE.GAIN (chapter 11). -/
def reg : Reg := ⟨0x100b03010, 0x40, 24,
  [⟨V, .rw, .const 0, 0, 65535⟩,
   ⟨GSHIFT, .rw, .const 16, 0, 31⟩,
   ⟨STEP, .rw, .const 256, 1, 65535⟩,
   ⟨CTRIM0, .rw, .const 32768, 0, 65535⟩]⟩
end SERVO.RULE.GAIN

namespace SERVO.RULE.LIM
def CTMAX : Fld := ⟨0x100b03018, 0x40, 63, 48⟩
def CTMIN : Fld := ⟨0x100b03018, 0x40, 47, 32⟩
/-- The field map of SERVO.RULE.LIM (chapter 11). -/
def reg : Reg := ⟨0x100b03018, 0x40, 24,
  [⟨CTMAX, .rw, .const 36045, 0, 65535⟩,
   ⟨CTMIN, .rw, .const 29491, 0, 65535⟩]⟩
end SERVO.RULE.LIM

namespace SERVO.RULE.ALM
def AHI : Fld := ⟨0x100b03020, 0x40, 63, 32⟩
def ALO : Fld := ⟨0x100b03020, 0x40, 31, 0⟩
/-- The field map of SERVO.RULE.ALM (chapter 11). -/
def reg : Reg := ⟨0x100b03020, 0x40, 24,
  [⟨AHI, .rw, .const 4294967295, 0, 4294967295⟩,
   ⟨ALO, .rw, .const 0, 0, 4294967295⟩]⟩
end SERVO.RULE.ALM

namespace SERVO.RULE.STAT
def CTRIM : Fld := ⟨0x100b03028, 0x40, 63, 48⟩
def LASTX : Fld := ⟨0x100b03028, 0x40, 47, 16⟩
def ALARM : Fld := ⟨0x100b03028, 0x40, 3, 3⟩
def CLAMP : Fld := ⟨0x100b03028, 0x40, 2, 2⟩
def STALE : Fld := ⟨0x100b03028, 0x40, 1, 1⟩
def RUN : Fld := ⟨0x100b03028, 0x40, 0, 0⟩
/-- The field map of SERVO.RULE.STAT (chapter 11). -/
def reg : Reg := ⟨0x100b03028, 0x40, 24,
  [⟨CTRIM, .ro, .const 32768, 0, 65535⟩,
   ⟨LASTX, .ro, .const 0, 0, 4294967295⟩,
   ⟨ALARM, .w1c, .const 0, 0, 1⟩,
   ⟨CLAMP, .w1c, .const 0, 0, 1⟩,
   ⟨STALE, .w1c, .const 0, 0, 1⟩,
   ⟨RUN, .ro, .const 0, 0, 1⟩]⟩
end SERVO.RULE.STAT

namespace SERVO.RULE.CNT
def USED : Fld := ⟨0x100b03030, 0x40, 63, 48⟩
def SKIPS : Fld := ⟨0x100b03030, 0x40, 47, 32⟩
def STALES : Fld := ⟨0x100b03030, 0x40, 31, 16⟩
def CLAMPS : Fld := ⟨0x100b03030, 0x40, 15, 0⟩
/-- The field map of SERVO.RULE.CNT (chapter 11). -/
def reg : Reg := ⟨0x100b03030, 0x40, 24,
  [⟨USED, .rs, .const 0, 0, 65535⟩,
   ⟨SKIPS, .rs, .const 0, 0, 65535⟩,
   ⟨STALES, .rs, .const 0, 0, 65535⟩,
   ⟨CLAMPS, .rs, .const 0, 0, 65535⟩]⟩
end SERVO.RULE.CNT

namespace POS.COLL
def V : Fld := ⟨0x100c00000, 0x0, 31, 0⟩
/-- The field map of POS.COLL (chapter 09). -/
def reg : Reg := ⟨0x100c00000, 0x0, 1,
  [⟨V, .rs, .const 0, 0, 4294967295⟩]⟩
end POS.COLL

namespace POS.SC.CFG
def KSC : Fld := ⟨0x100c01000, 0x40, 63, 32⟩
def ACNT : Fld := ⟨0x100c01000, 0x40, 27, 24⟩
def ADAPT : Fld := ⟨0x100c01000, 0x40, 3, 3⟩
def DIR : Fld := ⟨0x100c01000, 0x40, 2, 2⟩
def EN : Fld := ⟨0x100c01000, 0x40, 0, 0⟩
/-- The field map of POS.SC.CFG (chapter 09). -/
def reg : Reg := ⟨0x100c01000, 0x40, 72,
  [⟨KSC, .rw, .const 16777216, 0, 4294967295⟩,
   ⟨ACNT, .rw, .const 4, 1, 15⟩,
   ⟨ADAPT, .rw, .const 0, 0, 1⟩,
   ⟨DIR, .rw, .const 0, 0, 1⟩,
   ⟨EN, .rw, .const 0, 0, 1⟩]⟩
end POS.SC.CFG

namespace POS.SC.ZERO
def PZERO : Fld := ⟨0x100c01008, 0x40, 63, 32⟩
def ACOFS : Fld := ⟨0x100c01008, 0x40, 23, 0⟩
/-- The field map of POS.SC.ZERO (chapter 09). -/
def reg : Reg := ⟨0x100c01008, 0x40, 72,
  [⟨PZERO, .rw, .const 0, 0, 4294967295⟩,
   ⟨ACOFS, .rw, .const 0, 0, 16777215⟩]⟩
end POS.SC.ZERO

namespace POS.SC.CAL
def SOFS : Fld := ⟨0x100c01010, 0x40, 63, 48⟩
def COFS : Fld := ⟨0x100c01010, 0x40, 47, 32⟩
def GCOS : Fld := ⟨0x100c01010, 0x40, 31, 16⟩
/-- The field map of POS.SC.CAL (chapter 09). -/
def reg : Reg := ⟨0x100c01010, 0x40, 72,
  [⟨SOFS, .rw, .const 0, 0, 65535⟩,
   ⟨COFS, .rw, .const 0, 0, 65535⟩,
   ⟨GCOS, .rw, .const 32768, 1, 65535⟩]⟩
end POS.SC.CAL

namespace POS.SC.AMP
def AMIN : Fld := ⟨0x100c01018, 0x40, 63, 48⟩
def AMAX : Fld := ⟨0x100c01018, 0x40, 47, 32⟩
def ALIM : Fld := ⟨0x100c01018, 0x40, 15, 0⟩
/-- The field map of POS.SC.AMP (chapter 09). -/
def reg : Reg := ⟨0x100c01018, 0x40, 72,
  [⟨AMIN, .rw, .const 8192, 0, 65535⟩,
   ⟨AMAX, .rw, .const 31000, 0, 65535⟩,
   ⟨ALIM, .rw, .const 1024, 0, 65535⟩]⟩
end POS.SC.AMP

namespace POS.SC.ADJ
def SOFS : Fld := ⟨0x100c01020, 0x40, 63, 48⟩
def COFS : Fld := ⟨0x100c01020, 0x40, 47, 32⟩
def GCOS : Fld := ⟨0x100c01020, 0x40, 31, 16⟩
/-- The field map of POS.SC.ADJ (chapter 09). -/
def reg : Reg := ⟨0x100c01020, 0x40, 72,
  [⟨SOFS, .ro, .const 0, 0, 65535⟩,
   ⟨COFS, .ro, .const 0, 0, 65535⟩,
   ⟨GCOS, .ro, .const 32768, 0, 65535⟩]⟩
end POS.SC.ADJ

namespace POS.SC.STAT
def ACLAMP : Fld := ⟨0x100c01028, 0x40, 4, 4⟩
def RANGE : Fld := ⟨0x100c01028, 0x40, 3, 3⟩
def REREF : Fld := ⟨0x100c01028, 0x40, 2, 2⟩
def AFAULT : Fld := ⟨0x100c01028, 0x40, 1, 1⟩
def RUN : Fld := ⟨0x100c01028, 0x40, 0, 0⟩
/-- The field map of POS.SC.STAT (chapter 09). -/
def reg : Reg := ⟨0x100c01028, 0x40, 72,
  [⟨ACLAMP, .w1c, .const 0, 0, 1⟩,
   ⟨RANGE, .w1c, .const 0, 0, 1⟩,
   ⟨REREF, .w1c, .const 0, 0, 1⟩,
   ⟨AFAULT, .w1c, .const 0, 0, 1⟩,
   ⟨RUN, .ro, .const 0, 0, 1⟩]⟩
end POS.SC.STAT

namespace POS.SC.CNT
def AMPS : Fld := ⟨0x100c01030, 0x40, 63, 48⟩
def QAMBS : Fld := ⟨0x100c01030, 0x40, 47, 32⟩
def STALES : Fld := ⟨0x100c01030, 0x40, 31, 16⟩
def CORRS : Fld := ⟨0x100c01030, 0x40, 15, 0⟩
/-- The field map of POS.SC.CNT (chapter 09). -/
def reg : Reg := ⟨0x100c01030, 0x40, 72,
  [⟨AMPS, .rs, .const 0, 0, 65535⟩,
   ⟨QAMBS, .rs, .const 0, 0, 65535⟩,
   ⟨STALES, .rs, .const 0, 0, 65535⟩,
   ⟨CORRS, .rs, .const 0, 0, 65535⟩]⟩
end POS.SC.CNT

namespace POS.SC.LAST
def Y16 : Fld := ⟨0x100c01038, 0x40, 63, 36⟩
def VEL : Fld := ⟨0x100c01038, 0x40, 35, 12⟩
/-- The field map of POS.SC.LAST (chapter 09). -/
def reg : Reg := ⟨0x100c01038, 0x40, 72,
  [⟨Y16, .ro, .const 0, 0, 268435455⟩,
   ⟨VEL, .ro, .const 0, 0, 16777215⟩]⟩
end POS.SC.LAST

namespace POS.ENC.CFG
def FILT : Fld := ⟨0x100c03000, 0x80, 15, 8⟩
def DIR : Fld := ⟨0x100c03000, 0x80, 1, 1⟩
def EN : Fld := ⟨0x100c03000, 0x80, 0, 0⟩
/-- The field map of POS.ENC.CFG (chapter 09). -/
def reg : Reg := ⟨0x100c03000, 0x80, 8,
  [⟨FILT, .rw, .const 3, 0, 255⟩,
   ⟨DIR, .rw, .const 0, 0, 1⟩,
   ⟨EN, .rw, .const 0, 0, 1⟩]⟩
end POS.ENC.CFG

namespace POS.ENC.ICFG
def ITOL : Fld := ⟨0x100c03008, 0x80, 63, 48⟩
def CPR : Fld := ⟨0x100c03008, 0x80, 47, 16⟩
def IHOME : Fld := ⟨0x100c03008, 0x80, 7, 7⟩
def ICOR : Fld := ⟨0x100c03008, 0x80, 6, 6⟩
def IACT : Fld := ⟨0x100c03008, 0x80, 5, 5⟩
def GEN : Fld := ⟨0x100c03008, 0x80, 4, 4⟩
def GAB : Fld := ⟨0x100c03008, 0x80, 3, 2⟩
/-- The field map of POS.ENC.ICFG (chapter 09). -/
def reg : Reg := ⟨0x100c03008, 0x80, 8,
  [⟨ITOL, .rw, .const 4, 0, 65535⟩,
   ⟨CPR, .rw, .const 0, 0, 4294967295⟩,
   ⟨IHOME, .rw, .const 0, 0, 1⟩,
   ⟨ICOR, .rw, .const 0, 0, 1⟩,
   ⟨IACT, .rw, .const 1, 0, 1⟩,
   ⟨GEN, .rw, .const 1, 0, 1⟩,
   ⟨GAB, .rw, .const 3, 0, 3⟩]⟩
end POS.ENC.ICFG

namespace POS.ENC.SPCFG
def STILL : Fld := ⟨0x100c03010, 0x80, 63, 48⟩
def NHI : Fld := ⟨0x100c03010, 0x80, 47, 32⟩
def NLO : Fld := ⟨0x100c03010, 0x80, 31, 16⟩
def PAVG : Fld := ⟨0x100c03010, 0x80, 15, 8⟩
/-- The field map of POS.ENC.SPCFG (chapter 09). -/
def reg : Reg := ⟨0x100c03010, 0x80, 8,
  [⟨STILL, .rw, .const 100, 1, 65535⟩,
   ⟨NHI, .rw, .const 16, 2, 65535⟩,
   ⟨NLO, .rw, .const 8, 0, 65535⟩,
   ⟨PAVG, .rw, .const 4, 1, 16⟩]⟩
end POS.ENC.SPCFG

namespace POS.ENC.COUNT
def V : Fld := ⟨0x100c03018, 0x80, 31, 0⟩
/-- The field map of POS.ENC.COUNT (chapter 09). -/
def reg : Reg := ⟨0x100c03018, 0x80, 8,
  [⟨V, .rw, .const 0, 0, 4294967295⟩]⟩
end POS.ENC.COUNT

namespace POS.ENC.IDX
def ICOUNT : Fld := ⟨0x100c03020, 0x80, 63, 32⟩
def DEV : Fld := ⟨0x100c03020, 0x80, 31, 16⟩
/-- The field map of POS.ENC.IDX (chapter 09). -/
def reg : Reg := ⟨0x100c03020, 0x80, 8,
  [⟨ICOUNT, .ro, .const 0, 0, 4294967295⟩,
   ⟨DEV, .ro, .const 0, 0, 65535⟩]⟩
end POS.ENC.IDX

namespace POS.ENC.IDXT
def V : Fld := ⟨0x100c03028, 0x80, 63, 0⟩
/-- The field map of POS.ENC.IDXT (chapter 09). -/
def reg : Reg := ⟨0x100c03028, 0x80, 8,
  [⟨V, .ro, .const 0, 0, 18446744073709551615⟩]⟩
end POS.ENC.IDXT

namespace POS.ENC.SPD
def DIR : Fld := ⟨0x100c03030, 0x80, 63, 63⟩
def METHOD : Fld := ⟨0x100c03030, 0x80, 61, 60⟩
def MAG : Fld := ⟨0x100c03030, 0x80, 31, 0⟩
/-- The field map of POS.ENC.SPD (chapter 09). -/
def reg : Reg := ⟨0x100c03030, 0x80, 8,
  [⟨DIR, .ro, .const 0, 0, 1⟩,
   ⟨METHOD, .ro, .const 0, 0, 3⟩,
   ⟨MAG, .ro, .const 0, 0, 4294967295⟩]⟩
end POS.ENC.SPD

namespace POS.ENC.STAT
def WRAP : Fld := ⟨0x100c03038, 0x80, 5, 5⟩
def IFAULT : Fld := ⟨0x100c03038, 0x80, 4, 4⟩
def IDEV : Fld := ⟨0x100c03038, 0x80, 3, 3⟩
def QERR : Fld := ⟨0x100c03038, 0x80, 2, 2⟩
def STILL : Fld := ⟨0x100c03038, 0x80, 1, 1⟩
def HOMED : Fld := ⟨0x100c03038, 0x80, 0, 0⟩
/-- The field map of POS.ENC.STAT (chapter 09). -/
def reg : Reg := ⟨0x100c03038, 0x80, 8,
  [⟨WRAP, .w1c, .const 0, 0, 1⟩,
   ⟨IFAULT, .w1c, .const 0, 0, 1⟩,
   ⟨IDEV, .w1c, .const 0, 0, 1⟩,
   ⟨QERR, .w1c, .const 0, 0, 1⟩,
   ⟨STILL, .ro, .const 1, 0, 1⟩,
   ⟨HOMED, .ro, .const 0, 0, 1⟩]⟩
end POS.ENC.STAT

namespace POS.ENC.CNT
def QERRS : Fld := ⟨0x100c03040, 0x80, 63, 48⟩
def IDEVS : Fld := ⟨0x100c03040, 0x80, 47, 32⟩
def INDEXES : Fld := ⟨0x100c03040, 0x80, 31, 16⟩
/-- The field map of POS.ENC.CNT (chapter 09). -/
def reg : Reg := ⟨0x100c03040, 0x80, 8,
  [⟨QERRS, .rs, .const 0, 0, 65535⟩,
   ⟨IDEVS, .rs, .const 0, 0, 65535⟩,
   ⟨INDEXES, .rs, .const 0, 0, 65535⟩]⟩
end POS.ENC.CNT

namespace POS.HALL.CFG
def HTO : Fld := ⟨0x100c03400, 0x40, 31, 16⟩
def FILT : Fld := ⟨0x100c03400, 0x40, 15, 8⟩
def DIR : Fld := ⟨0x100c03400, 0x40, 1, 1⟩
def EN : Fld := ⟨0x100c03400, 0x40, 0, 0⟩
/-- The field map of POS.HALL.CFG (chapter 09). -/
def reg : Reg := ⟨0x100c03400, 0x40, 8,
  [⟨HTO, .rw, .const 1000, 1, 65535⟩,
   ⟨FILT, .rw, .const 15, 0, 255⟩,
   ⟨DIR, .rw, .const 0, 0, 1⟩,
   ⟨EN, .rw, .const 0, 0, 1⟩]⟩
end POS.HALL.CFG

namespace POS.HALL.STATE
def HCOUNT : Fld := ⟨0x100c03408, 0x40, 63, 32⟩
def RAW : Fld := ⟨0x100c03408, 0x40, 10, 8⟩
def SECTOR : Fld := ⟨0x100c03408, 0x40, 2, 0⟩
/-- The field map of POS.HALL.STATE (chapter 09). -/
def reg : Reg := ⟨0x100c03408, 0x40, 8,
  [⟨HCOUNT, .ro, .const 0, 0, 4294967295⟩,
   ⟨RAW, .ro, .const 0, 0, 7⟩,
   ⟨SECTOR, .ro, .const 0, 0, 7⟩]⟩
end POS.HALL.STATE

namespace POS.HALL.SPD
def DIR : Fld := ⟨0x100c03410, 0x40, 63, 63⟩
def METHOD : Fld := ⟨0x100c03410, 0x40, 61, 60⟩
def MAG : Fld := ⟨0x100c03410, 0x40, 31, 0⟩
/-- The field map of POS.HALL.SPD (chapter 09). -/
def reg : Reg := ⟨0x100c03410, 0x40, 8,
  [⟨DIR, .ro, .const 0, 0, 1⟩,
   ⟨METHOD, .ro, .const 0, 0, 3⟩,
   ⟨MAG, .ro, .const 0, 0, 4294967295⟩]⟩
end POS.HALL.SPD

namespace POS.HALL.STAT
def HLONG : Fld := ⟨0x100c03418, 0x40, 2, 2⟩
def HSKIP : Fld := ⟨0x100c03418, 0x40, 1, 1⟩
def HBAD : Fld := ⟨0x100c03418, 0x40, 0, 0⟩
/-- The field map of POS.HALL.STAT (chapter 09). -/
def reg : Reg := ⟨0x100c03418, 0x40, 8,
  [⟨HLONG, .w1c, .const 0, 0, 1⟩,
   ⟨HSKIP, .w1c, .const 0, 0, 1⟩,
   ⟨HBAD, .w1c, .const 0, 0, 1⟩]⟩
end POS.HALL.STAT

namespace POS.HALL.CNT
def HBADS : Fld := ⟨0x100c03420, 0x40, 63, 48⟩
def HSKIPS : Fld := ⟨0x100c03420, 0x40, 47, 32⟩
/-- The field map of POS.HALL.CNT (chapter 09). -/
def reg : Reg := ⟨0x100c03420, 0x40, 8,
  [⟨HBADS, .rs, .const 0, 0, 65535⟩,
   ⟨HSKIPS, .rs, .const 0, 0, 65535⟩]⟩
end POS.HALL.CNT

namespace POS.AX.SRC
def V : Fld := ⟨0x100c03600, 0x8, 1, 0⟩
/-- The field map of POS.AX.SRC (chapter 09). -/
def reg : Reg := ⟨0x100c03600, 0x8, 8,
  [⟨V, .rw, .const 0, 0, 2⟩]⟩
end POS.AX.SRC

namespace POS.PRB.CFG
def STREAM : Fld := ⟨0x100c03700, 0x40, 55, 48⟩
def DEST : Fld := ⟨0x100c03700, 0x40, 41, 32⟩
def FILT : Fld := ⟨0x100c03700, 0x40, 15, 8⟩
def GALVO : Fld := ⟨0x100c03700, 0x40, 4, 4⟩
def ONCE : Fld := ⟨0x100c03700, 0x40, 3, 3⟩
def EDGE : Fld := ⟨0x100c03700, 0x40, 2, 1⟩
def EN : Fld := ⟨0x100c03700, 0x40, 0, 0⟩
/-- The field map of POS.PRB.CFG (chapter 09). -/
def reg : Reg := ⟨0x100c03700, 0x40, 8,
  [⟨STREAM, .rw, .const 0, 0, 255⟩,
   ⟨DEST, .rw, .const 0, 0, 1023⟩,
   ⟨FILT, .rw, .const 0, 0, 15⟩,
   ⟨GALVO, .rw, .const 0, 0, 1⟩,
   ⟨ONCE, .rw, .const 0, 0, 1⟩,
   ⟨EDGE, .rw, .const 1, 1, 3⟩,
   ⟨EN, .rw, .const 0, 0, 1⟩]⟩
end POS.PRB.CFG

namespace POS.PRB.STAT
def DROPS : Fld := ⟨0x100c03708, 0x40, 63, 48⟩
def DROP : Fld := ⟨0x100c03708, 0x40, 2, 2⟩
def PEND : Fld := ⟨0x100c03708, 0x40, 1, 1⟩
def ARMED : Fld := ⟨0x100c03708, 0x40, 0, 0⟩
/-- The field map of POS.PRB.STAT (chapter 09). -/
def reg : Reg := ⟨0x100c03708, 0x40, 8,
  [⟨DROPS, .rs, .const 0, 0, 65535⟩,
   ⟨DROP, .w1c, .const 0, 0, 1⟩,
   ⟨PEND, .ro, .const 0, 0, 1⟩,
   ⟨ARMED, .ro, .const 0, 0, 1⟩]⟩
end POS.PRB.STAT

namespace POS.EMU.CFG
def EPER : Fld := ⟨0x100c03900, 0x40, 63, 48⟩
def EDLY : Fld := ⟨0x100c03900, 0x40, 47, 32⟩
def MINSEP : Fld := ⟨0x100c03900, 0x40, 31, 16⟩
def SRC : Fld := ⟨0x100c03900, 0x40, 15, 8⟩
def DIR : Fld := ⟨0x100c03900, 0x40, 1, 1⟩
def EN : Fld := ⟨0x100c03900, 0x40, 0, 0⟩
/-- The field map of POS.EMU.CFG (chapter 09). -/
def reg : Reg := ⟨0x100c03900, 0x40, 4,
  [⟨EPER, .rw, .const 5, 1, 1000⟩,
   ⟨EDLY, .rw, .const 8000, 1900, 65535⟩,
   ⟨MINSEP, .rw, .const 8, 4, 65535⟩,
   ⟨SRC, .rw, .const 0, 0, 87⟩,
   ⟨DIR, .rw, .const 0, 0, 1⟩,
   ⟨EN, .rw, .const 0, 0, 1⟩]⟩
end POS.EMU.CFG

namespace POS.EMU.SCALE
def MUL : Fld := ⟨0x100c03908, 0x40, 63, 32⟩
def SHIFT : Fld := ⟨0x100c03908, 0x40, 5, 0⟩
/-- The field map of POS.EMU.SCALE (chapter 09). -/
def reg : Reg := ⟨0x100c03908, 0x40, 4,
  [⟨MUL, .rw, .const 1, 0, 4294967295⟩,
   ⟨SHIFT, .rw, .const 0, 0, 31⟩]⟩
end POS.EMU.SCALE

namespace POS.EMU.ZCFG
def ZPER : Fld := ⟨0x100c03910, 0x40, 63, 32⟩
def ZPOS : Fld := ⟨0x100c03910, 0x40, 31, 0⟩
/-- The field map of POS.EMU.ZCFG (chapter 09). -/
def reg : Reg := ⟨0x100c03910, 0x40, 4,
  [⟨ZPER, .rw, .const 0, 0, 4294967295⟩,
   ⟨ZPOS, .rw, .const 0, 0, 4294967295⟩]⟩
end POS.EMU.ZCFG

namespace POS.EMU.STAT
def ELAG : Fld := ⟨0x100c03918, 0x40, 1, 1⟩
def RUN : Fld := ⟨0x100c03918, 0x40, 0, 0⟩
/-- The field map of POS.EMU.STAT (chapter 09). -/
def reg : Reg := ⟨0x100c03918, 0x40, 4,
  [⟨ELAG, .w1c, .const 0, 0, 1⟩,
   ⟨RUN, .ro, .const 0, 0, 1⟩]⟩
end POS.EMU.STAT

namespace POS.EMU.OUT
def V : Fld := ⟨0x100c03920, 0x40, 31, 0⟩
/-- The field map of POS.EMU.OUT (chapter 09). -/
def reg : Reg := ⟨0x100c03920, 0x40, 4,
  [⟨V, .ro, .const 0, 0, 4294967295⟩]⟩
end POS.EMU.OUT

namespace CSI.COLL
def V : Fld := ⟨0x100d00000, 0x0, 31, 0⟩
/-- The field map of CSI.COLL (chapter 10). -/
def reg : Reg := ⟨0x100d00000, 0x0, 1,
  [⟨V, .rs, .const 0, 0, 4294967295⟩]⟩
end CSI.COLL

namespace CSI.CFG
def VCB : Fld := ⟨0x100d01000, 0x40, 13, 12⟩
def VCA : Fld := ⟨0x100d01000, 0x40, 11, 10⟩
def LANES : Fld := ⟨0x100d01000, 0x40, 3, 2⟩
def EN : Fld := ⟨0x100d01000, 0x40, 0, 0⟩
/-- The field map of CSI.CFG (chapter 10). -/
def reg : Reg := ⟨0x100d01000, 0x40, 12,
  [⟨VCB, .rw, .const 1, 0, 3⟩,
   ⟨VCA, .rw, .const 0, 0, 3⟩,
   ⟨LANES, .rw, .const 2, 0, 2⟩,
   ⟨EN, .rw, .const 0, 0, 1⟩]⟩
end CSI.CFG

namespace CSI.STAT
def SYNC : Fld := ⟨0x100d01008, 0x40, 3, 3⟩
def UNSUP : Fld := ⟨0x100d01008, 0x40, 2, 2⟩
def CRC : Fld := ⟨0x100d01008, 0x40, 1, 1⟩
def ECC : Fld := ⟨0x100d01008, 0x40, 0, 0⟩
/-- The field map of CSI.STAT (chapter 10). -/
def reg : Reg := ⟨0x100d01008, 0x40, 12,
  [⟨SYNC, .ro, .const 0, 0, 1⟩,
   ⟨UNSUP, .w1c, .const 0, 0, 1⟩,
   ⟨CRC, .w1c, .const 0, 0, 1⟩,
   ⟨ECC, .w1c, .const 0, 0, 1⟩]⟩
end CSI.STAT

namespace CSI.CNT
def ECCC : Fld := ⟨0x100d01010, 0x40, 63, 48⟩
def ECCU : Fld := ⟨0x100d01010, 0x40, 47, 32⟩
def CRCS : Fld := ⟨0x100d01010, 0x40, 31, 16⟩
def DISC : Fld := ⟨0x100d01010, 0x40, 15, 0⟩
/-- The field map of CSI.CNT (chapter 10). -/
def reg : Reg := ⟨0x100d01010, 0x40, 12,
  [⟨ECCC, .rs, .const 0, 0, 65535⟩,
   ⟨ECCU, .rs, .const 0, 0, 65535⟩,
   ⟨CRCS, .rs, .const 0, 0, 65535⟩,
   ⟨DISC, .rs, .const 0, 0, 65535⟩]⟩
end CSI.CNT

namespace IP.COLL
def V : Fld := ⟨0x100e00000, 0x0, 31, 0⟩
/-- The field map of IP.COLL (chapter 10). -/
def reg : Reg := ⟨0x100e00000, 0x0, 1,
  [⟨V, .rs, .const 0, 0, 4294967295⟩]⟩
end IP.COLL

namespace IP.CFG
def FNWRAP : Fld := ⟨0x100e01000, 0x40, 63, 48⟩
def FSWIN : Fld := ⟨0x100e01000, 0x40, 47, 32⟩
def STREAM : Fld := ⟨0x100e01000, 0x40, 31, 24⟩
def DEST : Fld := ⟨0x100e01000, 0x40, 21, 12⟩
def FNCHK : Fld := ⟨0x100e01000, 0x40, 1, 1⟩
def EN : Fld := ⟨0x100e01000, 0x40, 0, 0⟩
/-- The field map of IP.CFG (chapter 10). -/
def reg : Reg := ⟨0x100e01000, 0x40, 24,
  [⟨FNWRAP, .rw, .const 0, 0, 65535⟩,
   ⟨FSWIN, .rw, .const 50, 1, 1000⟩,
   ⟨STREAM, .rw, .const 0, 0, 255⟩,
   ⟨DEST, .rw, .const 0, 0, 1023⟩,
   ⟨FNCHK, .rw, .const 1, 0, 1⟩,
   ⟨EN, .rw, .const 0, 0, 1⟩]⟩
end IP.CFG

namespace IP.HBASE
def BASE : Fld := ⟨0x100e01008, 0x40, 47, 6⟩
/-- The field map of IP.HBASE (chapter 10). -/
def reg : Reg := ⟨0x100e01008, 0x40, 24,
  [⟨BASE, .rw, .const 0, 0, 4398046511103⟩]⟩
end IP.HBASE

namespace IP.STAT
def SETID : Fld := ⟨0x100e01010, 0x40, 63, 48⟩
def REFUSED : Fld := ⟨0x100e01010, 0x40, 9, 9⟩
def RDROP : Fld := ⟨0x100e01010, 0x40, 8, 8⟩
def UNTRIG : Fld := ⟨0x100e01010, 0x40, 7, 7⟩
def NOFRAME : Fld := ⟨0x100e01010, 0x40, 6, 6⟩
def FNGAP : Fld := ⟨0x100e01010, 0x40, 5, 5⟩
def TDROP : Fld := ⟨0x100e01010, 0x40, 4, 4⟩
def TRUNC : Fld := ⟨0x100e01010, 0x40, 3, 3⟩
def PEND : Fld := ⟨0x100e01010, 0x40, 1, 1⟩
def RUN : Fld := ⟨0x100e01010, 0x40, 0, 0⟩
/-- The field map of IP.STAT (chapter 10). -/
def reg : Reg := ⟨0x100e01010, 0x40, 24,
  [⟨SETID, .ro, .const 0, 0, 65535⟩,
   ⟨REFUSED, .w1c, .const 0, 0, 1⟩,
   ⟨RDROP, .w1c, .const 0, 0, 1⟩,
   ⟨UNTRIG, .w1c, .const 0, 0, 1⟩,
   ⟨NOFRAME, .w1c, .const 0, 0, 1⟩,
   ⟨FNGAP, .w1c, .const 0, 0, 1⟩,
   ⟨TDROP, .w1c, .const 0, 0, 1⟩,
   ⟨TRUNC, .w1c, .const 0, 0, 1⟩,
   ⟨PEND, .ro, .const 0, 0, 1⟩,
   ⟨RUN, .ro, .const 0, 0, 1⟩]⟩
end IP.STAT

namespace IP.CNT
def FRAMES : Fld := ⟨0x100e01018, 0x40, 63, 48⟩
def NOFRAMES : Fld := ⟨0x100e01018, 0x40, 47, 32⟩
def TRUNCS : Fld := ⟨0x100e01018, 0x40, 31, 16⟩
def UNTRIGS : Fld := ⟨0x100e01018, 0x40, 15, 0⟩
/-- The field map of IP.CNT (chapter 10). -/
def reg : Reg := ⟨0x100e01018, 0x40, 24,
  [⟨FRAMES, .rs, .const 0, 0, 65535⟩,
   ⟨NOFRAMES, .rs, .const 0, 0, 65535⟩,
   ⟨TRUNCS, .rs, .const 0, 0, 65535⟩,
   ⟨UNTRIGS, .rs, .const 0, 0, 65535⟩]⟩
end IP.CNT

namespace IP.PD.CFG
def DEC : Fld := ⟨0x100e02000, 0x8, 63, 48⟩
def STREAM : Fld := ⟨0x100e02000, 0x8, 47, 40⟩
def DEST : Fld := ⟨0x100e02000, 0x8, 39, 30⟩
def LOST : Fld := ⟨0x100e02000, 0x8, 1, 1⟩
def EN : Fld := ⟨0x100e02000, 0x8, 0, 0⟩
/-- The field map of IP.PD.CFG (chapter 10). -/
def reg : Reg := ⟨0x100e02000, 0x8, 24,
  [⟨DEC, .rw, .const 1000, 1, 65535⟩,
   ⟨STREAM, .rw, .const 0, 0, 255⟩,
   ⟨DEST, .rw, .const 0, 0, 1023⟩,
   ⟨LOST, .w1c, .const 0, 0, 1⟩,
   ⟨EN, .rw, .const 0, 0, 1⟩]⟩
end IP.PD.CFG

namespace LANE.COLL
def V : Fld := ⟨0x100f00000, 0x0, 31, 0⟩
/-- The field map of LANE.COLL (chapter 13). -/
def reg : Reg := ⟨0x100f00000, 0x0, 1,
  [⟨V, .rs, .const 0, 0, 4294967295⟩]⟩
end LANE.COLL

namespace LANE.CFG
def ETHALT : Fld := ⟨0x100f01000, 0x80, 7, 6⟩
def MODE : Fld := ⟨0x100f01000, 0x80, 5, 4⟩
/-- The field map of LANE.CFG (chapter 13). -/
def reg : Reg := ⟨0x100f01000, 0x80, 64,
  [⟨ETHALT, .rw, .const 0, 0, 1⟩,
   ⟨MODE, .rw, .laneMode, 0, 3⟩]⟩
end LANE.CFG

namespace LANE.STAT
def EQLIM : Fld := ⟨0x100f01008, 0x80, 0, 0⟩
/-- The field map of LANE.STAT (chapter 13). -/
def reg : Reg := ⟨0x100f01008, 0x80, 64,
  [⟨EQLIM, .w1c, .const 0, 0, 1⟩]⟩
end LANE.STAT

namespace LANE.EQ
def CTLE : Fld := ⟨0x100f01010, 0x80, 15, 8⟩
def OVR : Fld := ⟨0x100f01010, 0x80, 1, 1⟩
def FRZ : Fld := ⟨0x100f01010, 0x80, 0, 0⟩
/-- The field map of LANE.EQ (chapter 13). -/
def reg : Reg := ⟨0x100f01010, 0x80, 64,
  [⟨CTLE, .rw, .const 0, 0, 31⟩,
   ⟨OVR, .rw, .const 0, 0, 1⟩,
   ⟨FRZ, .rw, .const 0, 0, 1⟩]⟩
end LANE.EQ

namespace LANE.PRBS
def DUR : Fld := ⟨0x100f01018, 0x80, 63, 48⟩
def PAT : Fld := ⟨0x100f01018, 0x80, 3, 2⟩
def EN : Fld := ⟨0x100f01018, 0x80, 0, 0⟩
/-- The field map of LANE.PRBS (chapter 13). -/
def reg : Reg := ⟨0x100f01018, 0x80, 64,
  [⟨DUR, .rw, .const 100, 1, 65535⟩,
   ⟨PAT, .rw, .const 0, 0, 3⟩,
   ⟨EN, .rw, .const 0, 0, 1⟩]⟩
end LANE.PRBS

namespace LANE.BITS
def V : Fld := ⟨0x100f01020, 0x80, 47, 0⟩
/-- The field map of LANE.BITS (chapter 13). -/
def reg : Reg := ⟨0x100f01020, 0x80, 64,
  [⟨V, .rs, .const 0, 0, 281474976710655⟩]⟩
end LANE.BITS

namespace LANE.ERRS
def V : Fld := ⟨0x100f01028, 0x80, 47, 0⟩
/-- The field map of LANE.ERRS (chapter 13). -/
def reg : Reg := ⟨0x100f01028, 0x80, 64,
  [⟨V, .rs, .const 0, 0, 281474976710655⟩]⟩
end LANE.ERRS

namespace LANE.CNT
def CODE : Fld := ⟨0x100f01030, 0x80, 31, 0⟩
/-- The field map of LANE.CNT (chapter 13). -/
def reg : Reg := ⟨0x100f01030, 0x80, 64,
  [⟨CODE, .rs, .const 0, 0, 4294967295⟩]⟩
end LANE.CNT

namespace LANE.EQTAP0
def TAP : Fld := ⟨0x100f01040, 0x80, 7, 0⟩
/-- The field map of LANE.EQTAP0 (chapter 13). -/
def reg : Reg := ⟨0x100f01040, 0x80, 64,
  [⟨TAP, .rw, .const 0, 0, 255⟩]⟩
end LANE.EQTAP0

namespace LANE.EQTAP1
def TAP : Fld := ⟨0x100f01048, 0x80, 7, 0⟩
/-- The field map of LANE.EQTAP1 (chapter 13). -/
def reg : Reg := ⟨0x100f01048, 0x80, 64,
  [⟨TAP, .rw, .const 0, 0, 255⟩]⟩
end LANE.EQTAP1

namespace LANE.EQTAP2
def TAP : Fld := ⟨0x100f01050, 0x80, 7, 0⟩
/-- The field map of LANE.EQTAP2 (chapter 13). -/
def reg : Reg := ⟨0x100f01050, 0x80, 64,
  [⟨TAP, .rw, .const 0, 0, 255⟩]⟩
end LANE.EQTAP2

namespace LANE.EQTAP3
def TAP : Fld := ⟨0x100f01058, 0x80, 7, 0⟩
/-- The field map of LANE.EQTAP3 (chapter 13). -/
def reg : Reg := ⟨0x100f01058, 0x80, 64,
  [⟨TAP, .rw, .const 0, 0, 255⟩]⟩
end LANE.EQTAP3

namespace LANE.EQTAP4
def TAP : Fld := ⟨0x100f01060, 0x80, 7, 0⟩
/-- The field map of LANE.EQTAP4 (chapter 13). -/
def reg : Reg := ⟨0x100f01060, 0x80, 64,
  [⟨TAP, .rw, .const 0, 0, 255⟩]⟩
end LANE.EQTAP4

namespace QUAD.CFG
def RATE : Fld := ⟨0x101001000, 0x40, 7, 5⟩
def REFSEL : Fld := ⟨0x101001000, 0x40, 1, 0⟩
/-- The field map of QUAD.CFG (chapter 13). -/
def reg : Reg := ⟨0x101001000, 0x40, 16,
  [⟨RATE, .rw, .const 2, 0, 4⟩,
   ⟨REFSEL, .rw, .const 0, 0, 3⟩]⟩
end QUAD.CFG

namespace LINK.COLL
def V : Fld := ⟨0x101100000, 0x0, 31, 0⟩
/-- The field map of LINK.COLL (chapter 13). -/
def reg : Reg := ⟨0x101100000, 0x0, 1,
  [⟨V, .rs, .const 0, 0, 4294967295⟩]⟩
end LINK.COLL

namespace LINK.CTRL
def RESTART : Fld := ⟨0x101101000, 0x40, 1, 1⟩
def EN : Fld := ⟨0x101101000, 0x40, 0, 0⟩
/-- The field map of LINK.CTRL (chapter 13). -/
def reg : Reg := ⟨0x101101000, 0x40, 32,
  [⟨RESTART, .wo, .const 0, 0, 1⟩,
   ⟨EN, .rw, .const 0, 0, 1⟩]⟩
end LINK.CTRL

namespace LINK.STAT
def SKEW : Fld := ⟨0x101101008, 0x40, 7, 7⟩
def SINGLE : Fld := ⟨0x101101008, 0x40, 6, 6⟩
def MLOCK : Fld := ⟨0x101101008, 0x40, 5, 5⟩
def PLOCK : Fld := ⟨0x101101008, 0x40, 4, 4⟩
def STATE : Fld := ⟨0x101101008, 0x40, 3, 0⟩
/-- The field map of LINK.STAT (chapter 13). -/
def reg : Reg := ⟨0x101101008, 0x40, 32,
  [⟨SKEW, .w1c, .const 0, 0, 1⟩,
   ⟨SINGLE, .w1c, .const 0, 0, 1⟩,
   ⟨MLOCK, .ro, .const 0, 0, 1⟩,
   ⟨PLOCK, .ro, .const 0, 0, 1⟩,
   ⟨STATE, .ro, .const 0, 0, 15⟩]⟩
end LINK.STAT

namespace LINK.CAP0
def V : Fld := ⟨0x101101010, 0x40, 63, 0⟩
/-- The field map of LINK.CAP0 (chapter 13). -/
def reg : Reg := ⟨0x101101010, 0x40, 32,
  [⟨V, .ro, .const 0, 0, 18446744073709551615⟩]⟩
end LINK.CAP0

namespace LINK.CAP1
def V : Fld := ⟨0x101101018, 0x40, 63, 0⟩
/-- The field map of LINK.CAP1 (chapter 13). -/
def reg : Reg := ⟨0x101101018, 0x40, 32,
  [⟨V, .ro, .const 0, 0, 18446744073709551615⟩]⟩
end LINK.CAP1

namespace LINK.CAP2
def V : Fld := ⟨0x101101020, 0x40, 63, 0⟩
/-- The field map of LINK.CAP2 (chapter 13). -/
def reg : Reg := ⟨0x101101020, 0x40, 32,
  [⟨V, .ro, .const 0, 0, 18446744073709551615⟩]⟩
end LINK.CAP2

namespace LINK.CAP3
def V : Fld := ⟨0x101101028, 0x40, 63, 0⟩
/-- The field map of LINK.CAP3 (chapter 13). -/
def reg : Reg := ⟨0x101101028, 0x40, 32,
  [⟨V, .ro, .const 0, 0, 18446744073709551615⟩]⟩
end LINK.CAP3

namespace LINK.CNT
def RETRAIN : Fld := ⟨0x101101030, 0x40, 63, 48⟩
def UNSENT : Fld := ⟨0x101101030, 0x40, 47, 16⟩
def RSV : Fld := ⟨0x101101030, 0x40, 15, 0⟩
/-- The field map of LINK.CNT (chapter 13). -/
def reg : Reg := ⟨0x101101030, 0x40, 32,
  [⟨RETRAIN, .rs, .const 0, 0, 65535⟩,
   ⟨UNSENT, .rs, .const 0, 0, 4294967295⟩,
   ⟨RSV, .rs, .const 0, 0, 65535⟩]⟩
end LINK.CNT

namespace ETH.COLL
def V : Fld := ⟨0x101200000, 0x0, 31, 0⟩
/-- The field map of ETH.COLL (chapter 14). -/
def reg : Reg := ⟨0x101200000, 0x0, 1,
  [⟨V, .rs, .const 0, 0, 4294967295⟩]⟩
end ETH.COLL

namespace ETH.PTP.CFG
def DOMAIN : Fld := ⟨0x101200008, 0x0, 63, 56⟩
def PORTS : Fld := ⟨0x101200008, 0x0, 55, 52⟩
def MECH : Fld := ⟨0x101200008, 0x0, 51, 51⟩
def TRANS : Fld := ⟨0x101200008, 0x0, 50, 50⟩
def ONESTEP : Fld := ⟨0x101200008, 0x0, 49, 49⟩
def STEPTHR : Fld := ⟨0x101200008, 0x0, 47, 32⟩
def KPS : Fld := ⟨0x101200008, 0x0, 31, 28⟩
def KIS : Fld := ⟨0x101200008, 0x0, 27, 24⟩
def EN : Fld := ⟨0x101200008, 0x0, 0, 0⟩
/-- The field map of ETH.PTP.CFG (chapter 14). -/
def reg : Reg := ⟨0x101200008, 0x0, 1,
  [⟨DOMAIN, .rw, .const 0, 0, 127⟩,
   ⟨PORTS, .rw, .const 1, 0, 15⟩,
   ⟨MECH, .rw, .const 0, 0, 1⟩,
   ⟨TRANS, .rw, .const 0, 0, 1⟩,
   ⟨ONESTEP, .rw, .const 0, 0, 1⟩,
   ⟨STEPTHR, .rw, .const 100, 1, 65535⟩,
   ⟨KPS, .rw, .const 2, 0, 15⟩,
   ⟨KIS, .rw, .const 5, 0, 15⟩,
   ⟨EN, .rw, .const 0, 0, 1⟩]⟩
end ETH.PTP.CFG

namespace ETH.PTP.STAT
def STATE : Fld := ⟨0x101200010, 0x0, 63, 60⟩
def PORT : Fld := ⟨0x101200010, 0x0, 49, 48⟩
def MPD : Fld := ⟨0x101200010, 0x0, 47, 32⟩
def OFS : Fld := ⟨0x101200010, 0x0, 31, 0⟩
/-- The field map of ETH.PTP.STAT (chapter 14). -/
def reg : Reg := ⟨0x101200010, 0x0, 1,
  [⟨STATE, .ro, .const 0, 0, 15⟩,
   ⟨PORT, .ro, .const 0, 0, 3⟩,
   ⟨MPD, .ro, .const 0, 0, 65535⟩,
   ⟨OFS, .ro, .const 0, 0, 4294967295⟩]⟩
end ETH.PTP.STAT

namespace ETH.PTP.GM
def V : Fld := ⟨0x101200018, 0x0, 63, 0⟩
/-- The field map of ETH.PTP.GM (chapter 14). -/
def reg : Reg := ⟨0x101200018, 0x0, 1,
  [⟨V, .ro, .const 0, 0, 18446744073709551615⟩]⟩
end ETH.PTP.GM

namespace ETH.CFG
def IPADDR : Fld := ⟨0x101201000, 0x40, 63, 32⟩
def VID : Fld := ⟨0x101201000, 0x40, 31, 20⟩
def PCP : Fld := ⟨0x101201000, 0x40, 19, 17⟩
def ICMP : Fld := ⟨0x101201000, 0x40, 1, 1⟩
def EN : Fld := ⟨0x101201000, 0x40, 0, 0⟩
/-- The field map of ETH.CFG (chapter 14). -/
def reg : Reg := ⟨0x101201000, 0x40, 4,
  [⟨IPADDR, .rw, .const 0, 0, 4294967295⟩,
   ⟨VID, .rw, .const 0, 0, 4095⟩,
   ⟨PCP, .rw, .const 0, 0, 7⟩,
   ⟨ICMP, .rw, .const 1, 0, 1⟩,
   ⟨EN, .rw, .const 0, 0, 1⟩]⟩
end ETH.CFG

namespace ETH.MAC
def V : Fld := ⟨0x101201008, 0x40, 47, 0⟩
/-- The field map of ETH.MAC (chapter 14). -/
def reg : Reg := ⟨0x101201008, 0x40, 4,
  [⟨V, .rw, .const 0, 0, 281474976710655⟩]⟩
end ETH.MAC

namespace ETH.STAT
def RFAULT : Fld := ⟨0x101201010, 0x40, 7, 7⟩
def LFAULT : Fld := ⟨0x101201010, 0x40, 6, 6⟩
def HIBER : Fld := ⟨0x101201010, 0x40, 5, 5⟩
def BLOCK : Fld := ⟨0x101201010, 0x40, 4, 4⟩
def DROP : Fld := ⟨0x101201010, 0x40, 3, 3⟩
def FCS : Fld := ⟨0x101201010, 0x40, 2, 2⟩
def LINKCHG : Fld := ⟨0x101201010, 0x40, 1, 1⟩
def LINK : Fld := ⟨0x101201010, 0x40, 0, 0⟩
/-- The field map of ETH.STAT (chapter 14). -/
def reg : Reg := ⟨0x101201010, 0x40, 4,
  [⟨RFAULT, .ro, .const 0, 0, 1⟩,
   ⟨LFAULT, .ro, .const 0, 0, 1⟩,
   ⟨HIBER, .ro, .const 0, 0, 1⟩,
   ⟨BLOCK, .ro, .const 0, 0, 1⟩,
   ⟨DROP, .w1c, .const 0, 0, 1⟩,
   ⟨FCS, .w1c, .const 0, 0, 1⟩,
   ⟨LINKCHG, .w1c, .const 0, 0, 1⟩,
   ⟨LINK, .ro, .const 0, 0, 1⟩]⟩
end ETH.STAT

namespace ETH.CNT
def RXFRM : Fld := ⟨0x101201018, 0x40, 63, 40⟩
def TXFRM : Fld := ⟨0x101201018, 0x40, 39, 16⟩
def FCSERR : Fld := ⟨0x101201018, 0x40, 15, 8⟩
def DROPS : Fld := ⟨0x101201018, 0x40, 7, 0⟩
/-- The field map of ETH.CNT (chapter 14). -/
def reg : Reg := ⟨0x101201018, 0x40, 4,
  [⟨RXFRM, .rs, .const 0, 0, 16777215⟩,
   ⟨TXFRM, .rs, .const 0, 0, 16777215⟩,
   ⟨FCSERR, .rs, .const 0, 0, 255⟩,
   ⟨DROPS, .rs, .const 0, 0, 255⟩]⟩
end ETH.CNT

namespace ETH.PTPLAT
def RXLAT : Fld := ⟨0x101201020, 0x40, 31, 16⟩
def TXLAT : Fld := ⟨0x101201020, 0x40, 15, 0⟩
/-- The field map of ETH.PTPLAT (chapter 14). -/
def reg : Reg := ⟨0x101201020, 0x40, 4,
  [⟨RXLAT, .rw, .const 0, 0, 65535⟩,
   ⟨TXLAT, .rw, .const 0, 0, 65535⟩]⟩
end ETH.PTPLAT

namespace VCT.COLL
def V : Fld := ⟨0x101300000, 0x0, 31, 0⟩
/-- The field map of VCT.COLL (chapter 14). -/
def reg : Reg := ⟨0x101300000, 0x0, 1,
  [⟨V, .rs, .const 0, 0, 4294967295⟩]⟩
end VCT.COLL

namespace VCT.CFG
def RTO : Fld := ⟨0x101300008, 0x0, 63, 48⟩
def RETRIES : Fld := ⟨0x101300008, 0x0, 47, 40⟩
/-- The field map of VCT.CFG (chapter 14). -/
def reg : Reg := ⟨0x101300008, 0x0, 1,
  [⟨RTO, .rw, .const 2000, 100, 65535⟩,
   ⟨RETRIES, .rw, .const 16, 1, 255⟩]⟩
end VCT.CFG

namespace VCT.STAT
def PROV : Fld := ⟨0x101300010, 0x0, 3, 3⟩
def BADMAC : Fld := ⟨0x101300010, 0x0, 2, 2⟩
def REPLAY : Fld := ⟨0x101300010, 0x0, 1, 1⟩
def OPEN : Fld := ⟨0x101300010, 0x0, 0, 0⟩
/-- The field map of VCT.STAT (chapter 14). -/
def reg : Reg := ⟨0x101300010, 0x0, 1,
  [⟨PROV, .ro, .const 0, 0, 1⟩,
   ⟨BADMAC, .w1c, .const 0, 0, 1⟩,
   ⟨REPLAY, .w1c, .const 0, 0, 1⟩,
   ⟨OPEN, .ro, .const 0, 0, 1⟩]⟩
end VCT.STAT

namespace VCT.CNT
def BADMACS : Fld := ⟨0x101300018, 0x0, 63, 48⟩
def REPLAYS : Fld := ⟨0x101300018, 0x0, 47, 32⟩
def FORMATS : Fld := ⟨0x101300018, 0x0, 31, 16⟩
def CMDS : Fld := ⟨0x101300018, 0x0, 15, 0⟩
/-- The field map of VCT.CNT (chapter 14). -/
def reg : Reg := ⟨0x101300018, 0x0, 1,
  [⟨BADMACS, .rs, .const 0, 0, 65535⟩,
   ⟨REPLAYS, .rs, .const 0, 0, 65535⟩,
   ⟨FORMATS, .rs, .const 0, 0, 65535⟩,
   ⟨CMDS, .rs, .const 0, 0, 65535⟩]⟩
end VCT.CNT

namespace VCT.SUB
def IPV4 : Fld := ⟨0x101300020, 0x0, 63, 32⟩
def PORT : Fld := ⟨0x101300020, 0x0, 31, 16⟩
def MASK : Fld := ⟨0x101300020, 0x0, 3, 0⟩
/-- The field map of VCT.SUB (chapter 14). -/
def reg : Reg := ⟨0x101300020, 0x0, 1,
  [⟨IPV4, .ro, .const 0, 0, 4294967295⟩,
   ⟨PORT, .ro, .const 0, 0, 65535⟩,
   ⟨MASK, .ro, .const 0, 0, 15⟩]⟩
end VCT.SUB

namespace VCT.SLOT.CFG
def RIGHTS : Fld := ⟨0x101301000, 0x40, 7, 3⟩
def CLOSED : Fld := ⟨0x101301000, 0x40, 2, 2⟩
def EXH : Fld := ⟨0x101301000, 0x40, 1, 1⟩
def KEY : Fld := ⟨0x101301000, 0x40, 0, 0⟩
/-- The field map of VCT.SLOT.CFG (chapter 14). -/
def reg : Reg := ⟨0x101301000, 0x40, 8,
  [⟨RIGHTS, .ro, .const 0, 0, 31⟩,
   ⟨CLOSED, .ro, .const 0, 0, 1⟩,
   ⟨EXH, .ro, .const 0, 0, 1⟩,
   ⟨KEY, .ro, .const 0, 0, 1⟩]⟩
end VCT.SLOT.CFG

namespace VCT.SLOT.CTR
def V : Fld := ⟨0x101301008, 0x40, 63, 0⟩
/-- The field map of VCT.SLOT.CTR (chapter 14). -/
def reg : Reg := ⟨0x101301008, 0x40, 8,
  [⟨V, .ro, .const 0, 0, 18446744073709551615⟩]⟩
end VCT.SLOT.CTR

namespace VCT.SLOT.MIRROR
def V : Fld := ⟨0x101301010, 0x40, 63, 0⟩
/-- The field map of VCT.SLOT.MIRROR (chapter 14). -/
def reg : Reg := ⟨0x101301010, 0x40, 8,
  [⟨V, .ro, .const 0, 0, 18446744073709551615⟩]⟩
end VCT.SLOT.MIRROR

namespace VCT.CHAN.CFG
def Q : Fld := ⟨0x101302000, 0x8, 15, 10⟩
def CRIT : Fld := ⟨0x101302000, 0x8, 1, 1⟩
def EN : Fld := ⟨0x101302000, 0x8, 0, 0⟩
/-- The field map of VCT.CHAN.CFG (chapter 14). -/
def reg : Reg := ⟨0x101302000, 0x8, 16,
  [⟨Q, .rw, .const 0, 0, 63⟩,
   ⟨CRIT, .rw, .const 1, 0, 1⟩,
   ⟨EN, .rw, .const 0, 0, 1⟩]⟩
end VCT.CHAN.CFG

namespace VCT.WIN.BASE
def V : Fld := ⟨0x101303000, 0x40, 63, 0⟩
/-- The field map of VCT.WIN.BASE (chapter 14). -/
def reg : Reg := ⟨0x101303000, 0x40, 4,
  [⟨V, .ro, .const 0, 0, 18446744073709551615⟩]⟩
end VCT.WIN.BASE

namespace VCT.WIN.LEN
def V : Fld := ⟨0x101303008, 0x40, 63, 0⟩
/-- The field map of VCT.WIN.LEN (chapter 14). -/
def reg : Reg := ⟨0x101303008, 0x40, 4,
  [⟨V, .ro, .const 0, 0, 18446744073709551615⟩]⟩
end VCT.WIN.LEN

namespace VCT.WIN.STAT
def STATE : Fld := ⟨0x101303010, 0x40, 63, 60⟩
def CHUNKS : Fld := ⟨0x101303010, 0x40, 31, 0⟩
/-- The field map of VCT.WIN.STAT (chapter 14). -/
def reg : Reg := ⟨0x101303010, 0x40, 4,
  [⟨STATE, .ro, .const 0, 0, 15⟩,
   ⟨CHUNKS, .ro, .const 0, 0, 4294967295⟩]⟩
end VCT.WIN.STAT

namespace VCT.WIN.BMAP
def V : Fld := ⟨0x101303018, 0x40, 63, 0⟩
/-- The field map of VCT.WIN.BMAP (chapter 14). -/
def reg : Reg := ⟨0x101303018, 0x40, 4,
  [⟨V, .ro, .const 0, 0, 18446744073709551615⟩]⟩
end VCT.WIN.BMAP

namespace VCT.UP.STAT
def STATE : Fld := ⟨0x101304000, 0x8, 63, 62⟩
def QFILL : Fld := ⟨0x101304000, 0x8, 55, 48⟩
def ACKED : Fld := ⟨0x101304000, 0x8, 47, 0⟩
/-- The field map of VCT.UP.STAT (chapter 14). -/
def reg : Reg := ⟨0x101304000, 0x8, 16,
  [⟨STATE, .ro, .const 0, 0, 3⟩,
   ⟨QFILL, .ro, .const 0, 0, 255⟩,
   ⟨ACKED, .ro, .const 0, 0, 281474976710655⟩]⟩
end VCT.UP.STAT

namespace DRAM.COLL
def V : Fld := ⟨0x101400000, 0x0, 31, 0⟩
/-- The field map of DRAM.COLL (chapter 15). -/
def reg : Reg := ⟨0x101400000, 0x0, 1,
  [⟨V, .rs, .const 0, 0, 4294967295⟩]⟩
end DRAM.COLL

namespace DRAM.CFG
def CAPG : Fld := ⟨0x101400008, 0x0, 47, 40⟩
def RATE : Fld := ⟨0x101400008, 0x0, 39, 32⟩
def DENS : Fld := ⟨0x101400008, 0x0, 15, 12⟩
def RANKS : Fld := ⟨0x101400008, 0x0, 11, 8⟩
def EN : Fld := ⟨0x101400008, 0x0, 0, 0⟩
/-- The field map of DRAM.CFG (chapter 15). -/
def reg : Reg := ⟨0x101400008, 0x0, 1,
  [⟨CAPG, .ro, .const 0, 0, 255⟩,
   ⟨RATE, .ro, .const 0, 0, 255⟩,
   ⟨DENS, .ro, .const 0, 0, 15⟩,
   ⟨RANKS, .ro, .const 0, 0, 15⟩,
   ⟨EN, .ro, .const 0, 0, 1⟩]⟩
end DRAM.CFG

namespace DRAM.CTRL
def SREQ : Fld := ⟨0x101400010, 0x0, 0, 0⟩
/-- The field map of DRAM.CTRL (chapter 15). -/
def reg : Reg := ⟨0x101400010, 0x0, 1,
  [⟨SREQ, .rw, .const 0, 0, 1⟩]⟩
end DRAM.CTRL

namespace DRAM.STAT
def TRFAIL : Fld := ⟨0x101400018, 0x0, 9, 9⟩
def TRAINED : Fld := ⟨0x101400018, 0x0, 8, 8⟩
def SR : Fld := ⟨0x101400018, 0x0, 7, 7⟩
def HOT : Fld := ⟨0x101400018, 0x0, 6, 6⟩
def SRABORT : Fld := ⟨0x101400018, 0x0, 5, 5⟩
def THROT : Fld := ⟨0x101400018, 0x0, 4, 4⟩
def REPCAND : Fld := ⟨0x101400018, 0x0, 3, 3⟩
def UE : Fld := ⟨0x101400018, 0x0, 2, 2⟩
def CE : Fld := ⟨0x101400018, 0x0, 1, 1⟩
/-- The field map of DRAM.STAT (chapter 15). -/
def reg : Reg := ⟨0x101400018, 0x0, 1,
  [⟨TRFAIL, .ro, .const 0, 0, 1⟩,
   ⟨TRAINED, .ro, .const 0, 0, 1⟩,
   ⟨SR, .ro, .const 0, 0, 1⟩,
   ⟨HOT, .w1c, .const 0, 0, 1⟩,
   ⟨SRABORT, .w1c, .const 0, 0, 1⟩,
   ⟨THROT, .w1c, .const 0, 0, 1⟩,
   ⟨REPCAND, .w1c, .const 0, 0, 1⟩,
   ⟨UE, .w1c, .const 0, 0, 1⟩,
   ⟨CE, .w1c, .const 0, 0, 1⟩]⟩
end DRAM.STAT

namespace DRAM.PAGE
def TMAX : Fld := ⟨0x101400020, 0x0, 63, 48⟩
def AGE : Fld := ⟨0x101400020, 0x0, 31, 16⟩
def KEEP : Fld := ⟨0x101400020, 0x0, 1, 0⟩
/-- The field map of DRAM.PAGE (chapter 15). -/
def reg : Reg := ⟨0x101400020, 0x0, 1,
  [⟨TMAX, .rw, .const 400, 20, 65535⟩,
   ⟨AGE, .rw, .const 4, 1, 65535⟩,
   ⟨KEEP, .rw, .const 2, 0, 3⟩]⟩
end DRAM.PAGE

namespace DRAM.REF
def DERATE : Fld := ⟨0x101400028, 0x0, 47, 32⟩
def TPOLL : Fld := ⟨0x101400028, 0x0, 31, 16⟩
def POSTMAX : Fld := ⟨0x101400028, 0x0, 3, 0⟩
/-- The field map of DRAM.REF (chapter 15). -/
def reg : Reg := ⟨0x101400028, 0x0, 1,
  [⟨DERATE, .rw, .const 1875, 0, 10000⟩,
   ⟨TPOLL, .rw, .const 16, 1, 1000⟩,
   ⟨POSTMAX, .rw, .const 8, 0, 8⟩]⟩
end DRAM.REF

namespace DRAM.PWR
def PDIDLE : Fld := ⟨0x101400030, 0x0, 63, 48⟩
def SRIDLE : Fld := ⟨0x101400030, 0x0, 47, 32⟩
def SRMIN : Fld := ⟨0x101400030, 0x0, 15, 0⟩
/-- The field map of DRAM.PWR (chapter 15). -/
def reg : Reg := ⟨0x101400030, 0x0, 1,
  [⟨PDIDLE, .rw, .const 200, 0, 65535⟩,
   ⟨SRIDLE, .rw, .const 0, 0, 65535⟩,
   ⟨SRMIN, .rw, .const 15, 0, 65535⟩]⟩
end DRAM.PWR

namespace DRAM.RD
def TWIN : Fld := ⟨0x101400038, 0x0, 63, 48⟩
def TSHARE : Fld := ⟨0x101400038, 0x0, 47, 40⟩
def TGAP : Fld := ⟨0x101400038, 0x0, 39, 24⟩
def TDUR : Fld := ⟨0x101400038, 0x0, 23, 8⟩
def EN : Fld := ⟨0x101400038, 0x0, 0, 0⟩
/-- The field map of DRAM.RD (chapter 15). -/
def reg : Reg := ⟨0x101400038, 0x0, 1,
  [⟨TWIN, .rw, .const 1000, 10, 65535⟩,
   ⟨TSHARE, .rw, .const 50, 1, 100⟩,
   ⟨TGAP, .rw, .const 1000, 0, 65535⟩,
   ⟨TDUR, .rw, .const 1000, 1, 65535⟩,
   ⟨EN, .rw, .const 1, 0, 1⟩]⟩
end DRAM.RD

namespace DRAM.ECC
def UE : Fld := ⟨0x101400040, 0x0, 47, 32⟩
def CE : Fld := ⟨0x101400040, 0x0, 31, 0⟩
/-- The field map of DRAM.ECC (chapter 15). -/
def reg : Reg := ⟨0x101400040, 0x0, 1,
  [⟨UE, .rs, .const 0, 0, 65535⟩,
   ⟨CE, .rs, .const 0, 0, 4294967295⟩]⟩
end DRAM.ECC

namespace DRAM.ECCADDR
def TYPE : Fld := ⟨0x101400048, 0x0, 63, 62⟩
def ADDR : Fld := ⟨0x101400048, 0x0, 47, 3⟩
/-- The field map of DRAM.ECCADDR (chapter 15). -/
def reg : Reg := ⟨0x101400048, 0x0, 1,
  [⟨TYPE, .rs, .const 0, 0, 3⟩,
   ⟨ADDR, .rs, .const 0, 0, 35184372088831⟩]⟩
end DRAM.ECCADDR

namespace DRAM.SCRUB
def PERIOD : Fld := ⟨0x101400050, 0x0, 31, 0⟩
/-- The field map of DRAM.SCRUB (chapter 15). -/
def reg : Reg := ⟨0x101400050, 0x0, 1,
  [⟨PERIOD, .rw, .const 160000, 0, 4294967295⟩]⟩
end DRAM.SCRUB

namespace DRAM.CNT
def RFMS : Fld := ⟨0x101400058, 0x0, 63, 48⟩
def THROTS : Fld := ⟨0x101400058, 0x0, 47, 32⟩
def SRABORTS : Fld := ⟨0x101400058, 0x0, 31, 16⟩
def RAAHOLDS : Fld := ⟨0x101400058, 0x0, 15, 0⟩
/-- The field map of DRAM.CNT (chapter 15). -/
def reg : Reg := ⟨0x101400058, 0x0, 1,
  [⟨RFMS, .rs, .const 0, 0, 65535⟩,
   ⟨THROTS, .rs, .const 0, 0, 65535⟩,
   ⟨SRABORTS, .rs, .const 0, 0, 65535⟩,
   ⟨RAAHOLDS, .rs, .const 0, 0, 65535⟩]⟩
end DRAM.CNT

namespace DRAM.MAP.HASH
def MASK : Fld := ⟨0x101400080, 0x8, 35, 0⟩
/-- The field map of DRAM.MAP.HASH (chapter 15). -/
def reg : Reg := ⟨0x101400080, 0x8, 8,
  [⟨MASK, .rw, .dramHash, 0, 68719476735⟩]⟩
end DRAM.MAP.HASH

namespace DRAM.PRIO
def EN : Fld := ⟨0x1014000c0, 0x8, 31, 31⟩
def HI : Fld := ⟨0x1014000c0, 0x8, 25, 16⟩
def LO : Fld := ⟨0x1014000c0, 0x8, 9, 0⟩
/-- The field map of DRAM.PRIO (chapter 15). -/
def reg : Reg := ⟨0x1014000c0, 0x8, 4,
  [⟨EN, .rw, .const 0, 0, 1⟩,
   ⟨HI, .rw, .const 0, 0, 1023⟩,
   ⟨LO, .rw, .const 0, 0, 1023⟩]⟩
end DRAM.PRIO

namespace DRAM.RANK.STAT
def MR4 : Fld := ⟨0x101401000, 0x40, 23, 16⟩
def STATE : Fld := ⟨0x101401000, 0x40, 10, 8⟩
def DEBT : Fld := ⟨0x101401000, 0x40, 7, 4⟩
def BAND : Fld := ⟨0x101401000, 0x40, 1, 0⟩
/-- The field map of DRAM.RANK.STAT (chapter 15). -/
def reg : Reg := ⟨0x101401000, 0x40, 4,
  [⟨MR4, .ro, .const 0, 0, 255⟩,
   ⟨STATE, .ro, .const 0, 0, 7⟩,
   ⟨DEBT, .ro, .const 0, 0, 15⟩,
   ⟨BAND, .ro, .const 0, 0, 3⟩]⟩
end DRAM.RANK.STAT

namespace GORGE.COLL
def V : Fld := ⟨0x101500000, 0x0, 31, 0⟩
/-- The field map of GORGE.COLL (chapter 16). -/
def reg : Reg := ⟨0x101500000, 0x0, 1,
  [⟨V, .rs, .const 0, 0, 4294967295⟩]⟩
end GORGE.COLL

namespace GORGE.STAT
def REFUSED : Fld := ⟨0x101500008, 0x0, 4, 4⟩
def POISON : Fld := ⟨0x101500008, 0x0, 3, 3⟩
def CHKERR : Fld := ⟨0x101500008, 0x0, 2, 2⟩
def DATAERR : Fld := ⟨0x101500008, 0x0, 1, 1⟩
def VERR : Fld := ⟨0x101500008, 0x0, 0, 0⟩
/-- The field map of GORGE.STAT (chapter 16). -/
def reg : Reg := ⟨0x101500008, 0x0, 1,
  [⟨REFUSED, .w1c, .const 0, 0, 1⟩,
   ⟨POISON, .w1c, .const 0, 0, 1⟩,
   ⟨CHKERR, .w1c, .const 0, 0, 1⟩,
   ⟨DATAERR, .w1c, .const 0, 0, 1⟩,
   ⟨VERR, .w1c, .const 0, 0, 1⟩]⟩
end GORGE.STAT

namespace GORGE.CNT
def VERRS : Fld := ⟨0x101500010, 0x0, 63, 48⟩
def CHKERRS : Fld := ⟨0x101500010, 0x0, 47, 32⟩
def DATAERRS : Fld := ⟨0x101500010, 0x0, 31, 16⟩
def JOBS : Fld := ⟨0x101500010, 0x0, 15, 0⟩
/-- The field map of GORGE.CNT (chapter 16). -/
def reg : Reg := ⟨0x101500010, 0x0, 1,
  [⟨VERRS, .rs, .const 0, 0, 65535⟩,
   ⟨CHKERRS, .rs, .const 0, 0, 65535⟩,
   ⟨DATAERRS, .rs, .const 0, 0, 65535⟩,
   ⟨JOBS, .rs, .const 0, 0, 65535⟩]⟩
end GORGE.CNT

namespace GORGEN.STAT
def LAST : Fld := ⟨0x101501000, 0x40, 63, 56⟩
def QFILL : Fld := ⟨0x101501000, 0x40, 12, 8⟩
def ABORTING : Fld := ⟨0x101501000, 0x40, 2, 2⟩
def STATEIO : Fld := ⟨0x101501000, 0x40, 1, 1⟩
def RUN : Fld := ⟨0x101501000, 0x40, 0, 0⟩
/-- The field map of GORGEN.STAT (chapter 16). -/
def reg : Reg := ⟨0x101501000, 0x40, 2,
  [⟨LAST, .ro, .const 0, 0, 255⟩,
   ⟨QFILL, .ro, .const 0, 0, 31⟩,
   ⟨ABORTING, .ro, .const 0, 0, 1⟩,
   ⟨STATEIO, .ro, .const 0, 0, 1⟩,
   ⟨RUN, .ro, .const 0, 0, 1⟩]⟩
end GORGEN.STAT

namespace GORGEN.DESC
def ADDR : Fld := ⟨0x101501008, 0x40, 47, 6⟩
/-- The field map of GORGEN.DESC (chapter 16). -/
def reg : Reg := ⟨0x101501008, 0x40, 2,
  [⟨ADDR, .ro, .const 0, 0, 4398046511103⟩]⟩
end GORGEN.DESC

namespace GORGEN.BYTES
def IN : Fld := ⟨0x101501010, 0x40, 63, 32⟩
def OUT : Fld := ⟨0x101501010, 0x40, 31, 0⟩
/-- The field map of GORGEN.BYTES (chapter 16). -/
def reg : Reg := ⟨0x101501010, 0x40, 2,
  [⟨IN, .rs, .const 0, 0, 4294967295⟩,
   ⟨OUT, .rs, .const 0, 0, 4294967295⟩]⟩
end GORGEN.BYTES

namespace AUX.COLL
def V : Fld := ⟨0x101600000, 0x0, 31, 0⟩
/-- The field map of AUX.COLL (chapter 12). -/
def reg : Reg := ⟨0x101600000, 0x0, 1,
  [⟨V, .rs, .const 0, 0, 4294967295⟩]⟩
end AUX.COLL

namespace AUX.CFG
def CPE : Fld := ⟨0x101601000, 0x40, 63, 48⟩
def EOFS : Fld := ⟨0x101601000, 0x40, 47, 32⟩
def HOLDDLY : Fld := ⟨0x101601000, 0x40, 31, 24⟩
def LOCK : Fld := ⟨0x101601000, 0x40, 7, 7⟩
def BRAKE : Fld := ⟨0x101601000, 0x40, 6, 6⟩
def MODESEL : Fld := ⟨0x101601000, 0x40, 5, 4⟩
def EXT : Fld := ⟨0x101601000, 0x40, 3, 3⟩
def KIND : Fld := ⟨0x101601000, 0x40, 2, 1⟩
def EN : Fld := ⟨0x101601000, 0x40, 0, 0⟩
/-- The field map of AUX.CFG (chapter 12). -/
def reg : Reg := ⟨0x101601000, 0x40, 8,
  [⟨CPE, .rw, .const 200, 1, 65535⟩,
   ⟨EOFS, .rw, .const 0, 0, 65535⟩,
   ⟨HOLDDLY, .rw, .const 100, 0, 255⟩,
   ⟨LOCK, .rw, .const 0, 0, 1⟩,
   ⟨BRAKE, .rw, .const 0, 0, 1⟩,
   ⟨MODESEL, .rw, .const 0, 0, 2⟩,
   ⟨EXT, .rw, .const 0, 0, 1⟩,
   ⟨KIND, .rw, .const 0, 0, 1⟩,
   ⟨EN, .rw, .const 0, 0, 1⟩]⟩
end AUX.CFG

namespace AUX.LIMV
def VMAX : Fld := ⟨0x101601008, 0x40, 63, 32⟩
def INPOS : Fld := ⟨0x101601008, 0x40, 31, 16⟩
def SETTLE : Fld := ⟨0x101601008, 0x40, 15, 0⟩
/-- The field map of AUX.LIMV (chapter 12). -/
def reg : Reg := ⟨0x101601008, 0x40, 8,
  [⟨VMAX, .rw, .const 10000, 1, 2147483647⟩,
   ⟨INPOS, .rw, .const 4, 0, 65535⟩,
   ⟨SETTLE, .rw, .const 100, 1, 65535⟩]⟩
end AUX.LIMV

namespace AUX.LIMA
def AMAX : Fld := ⟨0x101601010, 0x40, 63, 32⟩
def JMAX : Fld := ⟨0x101601010, 0x40, 31, 0⟩
/-- The field map of AUX.LIMA (chapter 12). -/
def reg : Reg := ⟨0x101601010, 0x40, 8,
  [⟨AMAX, .rw, .const 100000, 1, 4294967295⟩,
   ⟨JMAX, .rw, .const 10000, 1, 4294967295⟩]⟩
end AUX.LIMA

namespace AUX.SOFT
def MAX : Fld := ⟨0x101601018, 0x40, 63, 32⟩
def MIN : Fld := ⟨0x101601018, 0x40, 31, 0⟩
/-- The field map of AUX.SOFT (chapter 12). -/
def reg : Reg := ⟨0x101601018, 0x40, 8,
  [⟨MAX, .rw, .const 0, 0, 4294967295⟩,
   ⟨MIN, .rw, .const 0, 0, 4294967295⟩]⟩
end AUX.SOFT

namespace AUX.CUR
def IRUN : Fld := ⟨0x101601020, 0x40, 63, 48⟩
def IHOLD : Fld := ⟨0x101601020, 0x40, 47, 32⟩
/-- The field map of AUX.CUR (chapter 12). -/
def reg : Reg := ⟨0x101601020, 0x40, 8,
  [⟨IRUN, .rw, .const 0, 0, 32767⟩,
   ⟨IHOLD, .rw, .const 0, 0, 32767⟩]⟩
end AUX.CUR

namespace AUX.CMOD
def VSTRONG : Fld := ⟨0x101601028, 0x40, 63, 32⟩
def VQUIET : Fld := ⟨0x101601028, 0x40, 31, 0⟩
/-- The field map of AUX.CMOD (chapter 12). -/
def reg : Reg := ⟨0x101601028, 0x40, 8,
  [⟨VSTRONG, .rw, .const 0, 0, 4294967295⟩,
   ⟨VQUIET, .rw, .const 0, 0, 4294967295⟩]⟩
end AUX.CMOD

namespace AUX.STAT
def MOVEID : Fld := ⟨0x101601030, 0x40, 63, 48⟩
def QFILL : Fld := ⟨0x101601030, 0x40, 47, 44⟩
def BRKREL : Fld := ⟨0x101601030, 0x40, 15, 15⟩
def STRONG : Fld := ⟨0x101601030, 0x40, 14, 14⟩
def HOLDI : Fld := ⟨0x101601030, 0x40, 13, 13⟩
def MOVING : Fld := ⟨0x101601030, 0x40, 12, 12⟩
def JOG : Fld := ⟨0x101601030, 0x40, 11, 11⟩
def JREF : Fld := ⟨0x101601030, 0x40, 7, 7⟩
def LOCKSTOP : Fld := ⟨0x101601030, 0x40, 6, 6⟩
def LOCKWAIT : Fld := ⟨0x101601030, 0x40, 5, 5⟩
def SETTLE : Fld := ⟨0x101601030, 0x40, 4, 4⟩
def SOFT : Fld := ⟨0x101601030, 0x40, 3, 3⟩
def HUBWARN : Fld := ⟨0x101601030, 0x40, 2, 2⟩
def FAULT : Fld := ⟨0x101601030, 0x40, 1, 1⟩
def RUN : Fld := ⟨0x101601030, 0x40, 0, 0⟩
/-- The field map of AUX.STAT (chapter 12). -/
def reg : Reg := ⟨0x101601030, 0x40, 8,
  [⟨MOVEID, .ro, .const 0, 0, 65535⟩,
   ⟨QFILL, .ro, .const 0, 0, 15⟩,
   ⟨BRKREL, .ro, .const 0, 0, 1⟩,
   ⟨STRONG, .ro, .const 0, 0, 1⟩,
   ⟨HOLDI, .ro, .const 0, 0, 1⟩,
   ⟨MOVING, .ro, .const 0, 0, 1⟩,
   ⟨JOG, .ro, .const 0, 0, 1⟩,
   ⟨JREF, .w1c, .const 0, 0, 1⟩,
   ⟨LOCKSTOP, .w1c, .const 0, 0, 1⟩,
   ⟨LOCKWAIT, .w1c, .const 0, 0, 1⟩,
   ⟨SETTLE, .w1c, .const 0, 0, 1⟩,
   ⟨SOFT, .w1c, .const 0, 0, 1⟩,
   ⟨HUBWARN, .w1c, .const 0, 0, 1⟩,
   ⟨FAULT, .w1c, .const 0, 0, 1⟩,
   ⟨RUN, .ro, .const 0, 0, 1⟩]⟩
end AUX.STAT

namespace AUX.HUB
def VA : Fld := ⟨0x101601038, 0x40, 63, 48⟩
def TEMP : Fld := ⟨0x101601038, 0x40, 47, 32⟩
def VBUS : Fld := ⟨0x101601038, 0x40, 31, 16⟩
def LINK : Fld := ⟨0x101601038, 0x40, 4, 4⟩
def DRVF : Fld := ⟨0x101601038, 0x40, 3, 3⟩
def UV : Fld := ⟨0x101601038, 0x40, 2, 2⟩
def OT : Fld := ⟨0x101601038, 0x40, 1, 1⟩
def OC : Fld := ⟨0x101601038, 0x40, 0, 0⟩
/-- The field map of AUX.HUB (chapter 12). -/
def reg : Reg := ⟨0x101601038, 0x40, 8,
  [⟨VA, .ro, .const 0, 0, 65535⟩,
   ⟨TEMP, .ro, .const 0, 0, 65535⟩,
   ⟨VBUS, .ro, .const 0, 0, 65535⟩,
   ⟨LINK, .ro, .const 0, 0, 1⟩,
   ⟨DRVF, .ro, .const 0, 0, 1⟩,
   ⟨UV, .ro, .const 0, 0, 1⟩,
   ⟨OT, .ro, .const 0, 0, 1⟩,
   ⟨OC, .ro, .const 0, 0, 1⟩]⟩
end AUX.HUB

namespace HK.COLL
def V : Fld := ⟨0x101700000, 0x0, 31, 0⟩
/-- The field map of HK.COLL (chapter 18). -/
def reg : Reg := ⟨0x101700000, 0x0, 1,
  [⟨V, .rs, .const 0, 0, 4294967295⟩]⟩
end HK.COLL

namespace HK.CFG
def GAIN : Fld := ⟨0x101700008, 0x0, 47, 40⟩
def HMAX : Fld := ⟨0x101700008, 0x0, 39, 32⟩
def THREN : Fld := ⟨0x101700008, 0x0, 0, 0⟩
/-- The field map of HK.CFG (chapter 18). -/
def reg : Reg := ⟨0x101700008, 0x0, 1,
  [⟨GAIN, .rw, .const 10, 1, 90⟩,
   ⟨HMAX, .rw, .const 90, 0, 95⟩,
   ⟨THREN, .rw, .const 1, 0, 1⟩]⟩
end HK.CFG

namespace HK.STAT
def HOLD : Fld := ⟨0x101700010, 0x0, 15, 8⟩
def CRIT : Fld := ⟨0x101700010, 0x0, 7, 7⟩
def AGEEOL : Fld := ⟨0x101700010, 0x0, 6, 6⟩
def RAIL : Fld := ⟨0x101700010, 0x0, 5, 5⟩
def VBATLOW : Fld := ⟨0x101700010, 0x0, 4, 4⟩
def DISAGREE : Fld := ⟨0x101700010, 0x0, 3, 3⟩
def BROKEN : Fld := ⟨0x101700010, 0x0, 2, 2⟩
def HOT : Fld := ⟨0x101700010, 0x0, 1, 1⟩
/-- The field map of HK.STAT (chapter 18). -/
def reg : Reg := ⟨0x101700010, 0x0, 1,
  [⟨HOLD, .ro, .const 0, 0, 255⟩,
   ⟨CRIT, .ro, .const 0, 0, 1⟩,
   ⟨AGEEOL, .w1c, .const 0, 0, 1⟩,
   ⟨RAIL, .w1c, .const 0, 0, 1⟩,
   ⟨VBATLOW, .w1c, .const 0, 0, 1⟩,
   ⟨DISAGREE, .w1c, .const 0, 0, 1⟩,
   ⟨BROKEN, .w1c, .const 0, 0, 1⟩,
   ⟨HOT, .w1c, .const 0, 0, 1⟩]⟩
end HK.STAT

namespace HK.WAKE
def GRANTS : Fld := ⟨0x101700018, 0x0, 63, 48⟩
def MAXQ : Fld := ⟨0x101700018, 0x0, 47, 40⟩
def MAXWAIT : Fld := ⟨0x101700018, 0x0, 31, 0⟩
/-- The field map of HK.WAKE (chapter 18). -/
def reg : Reg := ⟨0x101700018, 0x0, 1,
  [⟨GRANTS, .rs, .const 0, 0, 65535⟩,
   ⟨MAXQ, .rs, .const 0, 0, 255⟩,
   ⟨MAXWAIT, .rs, .const 0, 0, 4294967295⟩]⟩
end HK.WAKE

namespace HK.AGE
def V : Fld := ⟨0x101700020, 0x0, 31, 0⟩
/-- The field map of HK.AGE (chapter 18). -/
def reg : Reg := ⟨0x101700020, 0x0, 1,
  [⟨V, .ro, .const 0, 0, 4294967295⟩]⟩
end HK.AGE

namespace HK.REGION
def T : Fld := ⟨0x101701000, 0x8, 63, 48⟩
def BROKENB : Fld := ⟨0x101701000, 0x8, 2, 2⟩
def BROKENA : Fld := ⟨0x101701000, 0x8, 1, 1⟩
def CRIT : Fld := ⟨0x101701000, 0x8, 0, 0⟩
/-- The field map of HK.REGION (chapter 18). -/
def reg : Reg := ⟨0x101701000, 0x8, 9,
  [⟨T, .ro, .const 0, 0, 65535⟩,
   ⟨BROKENB, .ro, .const 0, 0, 1⟩,
   ⟨BROKENA, .ro, .const 0, 0, 1⟩,
   ⟨CRIT, .ro, .const 0, 0, 1⟩]⟩
end HK.REGION

namespace HK.SENS
def T : Fld := ⟨0x101701400, 0x8, 63, 48⟩
/-- The field map of HK.SENS (chapter 18). -/
def reg : Reg := ⟨0x101701400, 0x8, 18,
  [⟨T, .ro, .const 0, 0, 65535⟩]⟩
end HK.SENS

namespace HK.RAIL
def MV : Fld := ⟨0x101701800, 0x8, 63, 48⟩
def LOW : Fld := ⟨0x101701800, 0x8, 1, 1⟩
def HIGH : Fld := ⟨0x101701800, 0x8, 0, 0⟩
/-- The field map of HK.RAIL (chapter 18). -/
def reg : Reg := ⟨0x101701800, 0x8, 9,
  [⟨MV, .ro, .const 0, 0, 65535⟩,
   ⟨LOW, .ro, .const 0, 0, 1⟩,
   ⟨HIGH, .ro, .const 0, 0, 1⟩]⟩
end HK.RAIL

namespace REPAIR.COLL
def V : Fld := ⟨0x101800000, 0x0, 31, 0⟩
/-- The field map of REPAIR.COLL (chapter 18). -/
def reg : Reg := ⟨0x101800000, 0x0, 1,
  [⟨V, .rs, .const 0, 0, 4294967295⟩]⟩
end REPAIR.COLL

namespace REPAIR.CFG
def IDLE : Fld := ⟨0x101800008, 0x0, 31, 16⟩
def ROT : Fld := ⟨0x101800008, 0x0, 1, 1⟩
def BGEN : Fld := ⟨0x101800008, 0x0, 0, 0⟩
/-- The field map of REPAIR.CFG (chapter 18). -/
def reg : Reg := ⟨0x101800008, 0x0, 1,
  [⟨IDLE, .rw, .const 20, 1, 65535⟩,
   ⟨ROT, .rw, .const 1, 0, 1⟩,
   ⟨BGEN, .rw, .const 1, 0, 1⟩]⟩
end REPAIR.CFG

namespace REPAIR.STAT
def GORGEF : Fld := ⟨0x101800010, 0x0, 6, 6⟩
def RECFULL : Fld := ⟨0x101800010, 0x0, 5, 5⟩
def RECERR : Fld := ⟨0x101800010, 0x0, 4, 4⟩
def PLAINX : Fld := ⟨0x101800010, 0x0, 3, 3⟩
def NOSPARE : Fld := ⟨0x101800010, 0x0, 2, 2⟩
def TESTRUN : Fld := ⟨0x101800010, 0x0, 1, 1⟩
def UNITFAIL : Fld := ⟨0x101800010, 0x0, 0, 0⟩
/-- The field map of REPAIR.STAT (chapter 18). -/
def reg : Reg := ⟨0x101800010, 0x0, 1,
  [⟨GORGEF, .w1c, .const 0, 0, 1⟩,
   ⟨RECFULL, .w1c, .const 0, 0, 1⟩,
   ⟨RECERR, .w1c, .const 0, 0, 1⟩,
   ⟨PLAINX, .w1c, .const 0, 0, 1⟩,
   ⟨NOSPARE, .w1c, .const 0, 0, 1⟩,
   ⟨TESTRUN, .ro, .const 0, 0, 1⟩,
   ⟨UNITFAIL, .w1c, .const 0, 0, 1⟩]⟩
end REPAIR.STAT

namespace REPAIR.UNIT
def TESTS : Fld := ⟨0x101801000, 0x8, 63, 48⟩
def FAILS : Fld := ⟨0x101801000, 0x8, 47, 40⟩
def ROLE : Fld := ⟨0x101801000, 0x8, 39, 32⟩
def STATE : Fld := ⟨0x101801000, 0x8, 3, 0⟩
/-- The field map of REPAIR.UNIT (chapter 18). -/
def reg : Reg := ⟨0x101801000, 0x8, 64,
  [⟨TESTS, .ro, .const 0, 0, 65535⟩,
   ⟨FAILS, .ro, .const 0, 0, 255⟩,
   ⟨ROLE, .ro, .unitRole, 0, 255⟩,
   ⟨STATE, .ro, .unitState, 0, 15⟩]⟩
end REPAIR.UNIT

namespace BOOT.STAT
def STATE : Fld := ⟨0x101900008, 0x0, 63, 60⟩
def FAILCODE : Fld := ⟨0x101900008, 0x0, 15, 8⟩
def READY : Fld := ⟨0x101900008, 0x0, 0, 0⟩
/-- The field map of BOOT.STAT (chapter 18). -/
def reg : Reg := ⟨0x101900008, 0x0, 1,
  [⟨STATE, .ro, .const 0, 0, 15⟩,
   ⟨FAILCODE, .ro, .const 0, 0, 255⟩,
   ⟨READY, .ro, .const 0, 0, 1⟩]⟩
end BOOT.STAT

namespace BOOT.CTRL
def REVOKE : Fld := ⟨0x101900010, 0x0, 11, 8⟩
def SVNBURN : Fld := ⟨0x101900010, 0x0, 1, 1⟩
def CONFIRM : Fld := ⟨0x101900010, 0x0, 0, 0⟩
/-- The field map of BOOT.CTRL (chapter 18). -/
def reg : Reg := ⟨0x101900010, 0x0, 1,
  [⟨REVOKE, .wo, .const 0, 0, 15⟩,
   ⟨SVNBURN, .wo, .const 0, 0, 1⟩,
   ⟨CONFIRM, .wo, .const 0, 0, 1⟩]⟩
end BOOT.CTRL

namespace BOOT.SVN
def REVOKED : Fld := ⟨0x101900018, 0x0, 11, 8⟩
def MIN : Fld := ⟨0x101900018, 0x0, 5, 0⟩
/-- The field map of BOOT.SVN (chapter 18). -/
def reg : Reg := ⟨0x101900018, 0x0, 1,
  [⟨REVOKED, .ro, .const 0, 0, 15⟩,
   ⟨MIN, .ro, .const 0, 0, 63⟩]⟩
end BOOT.SVN

namespace VAULT.COLL
def V : Fld := ⟨0x101a00000, 0x0, 31, 0⟩
/-- The field map of VAULT.COLL (chapter 18). -/
def reg : Reg := ⟨0x101a00000, 0x0, 1,
  [⟨V, .rs, .const 0, 0, 4294967295⟩]⟩
end VAULT.COLL

namespace VAULT.STAT
def MNEXT : Fld := ⟨0x101a00008, 0x0, 13, 8⟩
def TSHUT : Fld := ⟨0x101a00008, 0x0, 7, 7⟩
def XTALSTOP : Fld := ⟨0x101a00008, 0x0, 6, 6⟩
def MFRZ : Fld := ⟨0x101a00008, 0x0, 5, 5⟩
def VBATLOW : Fld := ⟨0x101a00008, 0x0, 4, 4⟩
def TAMPER : Fld := ⟨0x101a00008, 0x0, 2, 2⟩
def LOST : Fld := ⟨0x101a00008, 0x0, 1, 1⟩
/-- The field map of VAULT.STAT (chapter 18). -/
def reg : Reg := ⟨0x101a00008, 0x0, 1,
  [⟨MNEXT, .ro, .const 0, 0, 63⟩,
   ⟨TSHUT, .w1c, .const 0, 0, 1⟩,
   ⟨XTALSTOP, .w1c, .const 0, 0, 1⟩,
   ⟨MFRZ, .ro, .const 1, 0, 1⟩,
   ⟨VBATLOW, .ro, .const 0, 0, 1⟩,
   ⟨TAMPER, .w1c, .const 0, 0, 1⟩,
   ⟨LOST, .w1c, .const 0, 0, 1⟩]⟩
end VAULT.STAT

namespace VAULT.CTRL
def MREL : Fld := ⟨0x101a00010, 0x0, 0, 0⟩
/-- The field map of VAULT.CTRL (chapter 18). -/
def reg : Reg := ⟨0x101a00010, 0x0, 1,
  [⟨MREL, .wo, .const 0, 0, 1⟩]⟩
end VAULT.CTRL

namespace VAULT.TAMP
def TICK : Fld := ⟨0x101a00018, 0x0, 47, 0⟩
/-- The field map of VAULT.TAMP (chapter 18). -/
def reg : Reg := ⟨0x101a00018, 0x0, 1,
  [⟨TICK, .ro, .const 0, 0, 281474976710655⟩]⟩
end VAULT.TAMP

namespace VAULT.MREC
def V : Fld := ⟨0x101a01000, 0x8, 63, 0⟩
/-- The field map of VAULT.MREC (chapter 18). -/
def reg : Reg := ⟨0x101a01000, 0x8, 256,
  [⟨V, .ro, .const 0, 0, 18446744073709551615⟩]⟩
end VAULT.MREC

namespace I2C.CFG
def SPEED : Fld := ⟨0x101b01000, 0x40, 1, 0⟩
/-- The field map of I2C.CFG (chapter 10). -/
def reg : Reg := ⟨0x101b01000, 0x40, 13,
  [⟨SPEED, .rw, .const 1, 0, 2⟩]⟩
end I2C.CFG

namespace SPI.CFG
def V : Fld := ⟨0x101c00008, 0x0, 39, 0⟩
/-- The field map of SPI.CFG (chapter 18). -/
def reg : Reg := ⟨0x101c00008, 0x0, 1,
  [⟨V, .ro, .const 0, 0, 1099511627775⟩]⟩
end SPI.CFG

/-- The words of each block of the control-word space (R92), in address order. -/
def regsOfBlock (b : Nat) : List Reg :=
  match b with
  | 0 => [ID.DEV.reg, ID.SERIAL.reg, ID.INV.reg, ID.BOOT.reg]
  | 1 => [PLAIN.STAT.reg, PLAIN.ECC.reg, PLAIN.ECCADDR.reg, PLAIN.SCRUB.reg, PLAIN.COLL.reg]
  | 2 => [TB.MT.reg, TB.STAT.reg, TB.COLL.reg, TB.PTBASE.reg, TB.PTBASEH.reg, TB.PTMTREF.reg, TB.PTRATE.reg, TB.ATSYNC.reg, TB.ATNOW.reg, TB.HT.OFS.reg, TB.HT.DLY.reg, TB.HT.STAT.reg]
  | 3 => [QUEUE.COLL.reg, QUEUE.CFG.reg, QUEUE.BASE.reg, QUEUE.PTR.reg, QUEUE.STAT.reg, QUEUE.POP.reg]
  | 4 => [COL.COLL.reg, COL.CFG.reg, COL.STAT.reg, COL.SLACK.reg, COL.LATE.reg, COL.COINC.reg]
  | 5 => [BASIN.COLL.reg, BASIN.CFG.reg, BASIN.CTRL.reg, BASIN.GATE.reg, BASIN.INJ.reg, BASIN.STATUS.reg, BASIN.REAL.reg, BASIN.INJD.reg]
  | 6 => [DALE.COLL.reg, DALE.CFG.reg, DALE.BASE.reg, DALE.CTRL.reg, DALE.PTR.reg, DALE.POP.reg, DALE.STAT.reg]
  | 7 => [EC.COLL.reg, EC.CTRL.reg, EC.STAT.reg, EC.CFG.reg, EC.COUNT.reg]
  | 8 => [CORE.COLL.reg, CORE.CTRL.reg, CORE.CFG.reg, CORE.STAT.reg, CORE.PC.reg, CORE.ICOUNT.reg, CORE.IMG.reg]
  | 9 => [PG.COLL.reg, PG.PREC.reg, PG.PRDROP.reg, PG.WRING.reg, PG.WPOS.reg, PG.LEAD.reg, PG.JOB.reg, PG.SUSP.reg, PG.SUSPV.reg, PG.MARK.reg, PG.LIMV.reg, PG.LIMR.reg, PG.LIMZ.reg, PG.SOFTX.reg, PG.SOFTY.reg, PG.SOFTZ.reg, PG.FRAME.reg, PG.CFG.reg, PG.GATE.reg, PG.TRK.reg, PG.STAT.reg, PG.LIMCNT.reg, PG.GRES.reg, PG.STRACE.reg, PG.STRCNT.reg, PG.SPXY.reg, PG.SPZ.reg, PG.JOBID.reg]
  | 10 => [SADDLE.COLL.reg, SADDLE.CFG.reg, SADDLE.ZONE.reg, SADDLE.FEATH.reg, SADDLE.LOOK.reg, SADDLE.NZONE.reg, SADDLE.NFEATH.reg, SADDLE.NARM.reg, SADDLE.STAT.reg, SADDLE.CNT.reg, SADDLE.HREC.reg, SADDLE.HRCNT.reg, SADDLE.LREC.reg, SADDLE.LRCNT.reg, SADDLEN.MAP.reg, SADDLEN.MAPNEXT.reg, SADDLEN.REG.reg, SADDLEN.NREG.reg, SADDLEN.HCFG.reg, SADDLEN.HSTAT.reg, SADDLEN.YIELD.reg]
  | 11 => [SERVO.COLL.reg, SERVO.CFG.reg, SERVO.STBASE.reg, SERVO.LOAD.reg, SERVO.UNIT.reg, SERVO.STAT.reg, SERVO.CNT.reg, SERVON.CFG.regGalvo, SERVON.CFG.regPower, SERVON.CFG.regAuxPos, SERVON.CFG.regAuxCur, SERVON.LIM.regGalvo, SERVON.LIM.regPower, SERVON.LIM.regAux, SERVON.INP.regGalvo, SERVON.INP.regPower, SERVON.INP.regAuxPos, SERVON.INP.regAuxCur, SERVON.FFT.reg, SERVON.FFTN.reg, SERVON.STAT.reg, SERVON.CNT.reg, SERVON.OUT.reg, SERVO.RULE.CFG.reg, SERVO.RULE.TGT.reg, SERVO.RULE.GAIN.reg, SERVO.RULE.LIM.reg, SERVO.RULE.ALM.reg, SERVO.RULE.STAT.reg, SERVO.RULE.CNT.reg]
  | 12 => [POS.COLL.reg, POS.SC.CFG.reg, POS.SC.ZERO.reg, POS.SC.CAL.reg, POS.SC.AMP.reg, POS.SC.ADJ.reg, POS.SC.STAT.reg, POS.SC.CNT.reg, POS.SC.LAST.reg, POS.ENC.CFG.reg, POS.ENC.ICFG.reg, POS.ENC.SPCFG.reg, POS.ENC.COUNT.reg, POS.ENC.IDX.reg, POS.ENC.IDXT.reg, POS.ENC.SPD.reg, POS.ENC.STAT.reg, POS.ENC.CNT.reg, POS.HALL.CFG.reg, POS.HALL.STATE.reg, POS.HALL.SPD.reg, POS.HALL.STAT.reg, POS.HALL.CNT.reg, POS.AX.SRC.reg, POS.PRB.CFG.reg, POS.PRB.STAT.reg, POS.EMU.CFG.reg, POS.EMU.SCALE.reg, POS.EMU.ZCFG.reg, POS.EMU.STAT.reg, POS.EMU.OUT.reg]
  | 13 => [CSI.COLL.reg, CSI.CFG.reg, CSI.STAT.reg, CSI.CNT.reg]
  | 14 => [IP.COLL.reg, IP.CFG.reg, IP.HBASE.reg, IP.STAT.reg, IP.CNT.reg, IP.PD.CFG.reg]
  | 15 => [LANE.COLL.reg, LANE.CFG.reg, LANE.STAT.reg, LANE.EQ.reg, LANE.PRBS.reg, LANE.BITS.reg, LANE.ERRS.reg, LANE.CNT.reg, LANE.EQTAP0.reg, LANE.EQTAP1.reg, LANE.EQTAP2.reg, LANE.EQTAP3.reg, LANE.EQTAP4.reg]
  | 16 => [QUAD.CFG.reg]
  | 17 => [LINK.COLL.reg, LINK.CTRL.reg, LINK.STAT.reg, LINK.CAP0.reg, LINK.CAP1.reg, LINK.CAP2.reg, LINK.CAP3.reg, LINK.CNT.reg]
  | 18 => [ETH.COLL.reg, ETH.PTP.CFG.reg, ETH.PTP.STAT.reg, ETH.PTP.GM.reg, ETH.CFG.reg, ETH.MAC.reg, ETH.STAT.reg, ETH.CNT.reg, ETH.PTPLAT.reg]
  | 19 => [VCT.COLL.reg, VCT.CFG.reg, VCT.STAT.reg, VCT.CNT.reg, VCT.SUB.reg, VCT.SLOT.CFG.reg, VCT.SLOT.CTR.reg, VCT.SLOT.MIRROR.reg, VCT.CHAN.CFG.reg, VCT.WIN.BASE.reg, VCT.WIN.LEN.reg, VCT.WIN.STAT.reg, VCT.WIN.BMAP.reg, VCT.UP.STAT.reg]
  | 20 => [DRAM.COLL.reg, DRAM.CFG.reg, DRAM.CTRL.reg, DRAM.STAT.reg, DRAM.PAGE.reg, DRAM.REF.reg, DRAM.PWR.reg, DRAM.RD.reg, DRAM.ECC.reg, DRAM.ECCADDR.reg, DRAM.SCRUB.reg, DRAM.CNT.reg, DRAM.MAP.HASH.reg, DRAM.PRIO.reg, DRAM.RANK.STAT.reg]
  | 21 => [GORGE.COLL.reg, GORGE.STAT.reg, GORGE.CNT.reg, GORGEN.STAT.reg, GORGEN.DESC.reg, GORGEN.BYTES.reg]
  | 22 => [AUX.COLL.reg, AUX.CFG.reg, AUX.LIMV.reg, AUX.LIMA.reg, AUX.SOFT.reg, AUX.CUR.reg, AUX.CMOD.reg, AUX.STAT.reg, AUX.HUB.reg]
  | 23 => [HK.COLL.reg, HK.CFG.reg, HK.STAT.reg, HK.WAKE.reg, HK.AGE.reg, HK.REGION.reg, HK.SENS.reg, HK.RAIL.reg]
  | 24 => [REPAIR.COLL.reg, REPAIR.CFG.reg, REPAIR.STAT.reg, REPAIR.UNIT.reg]
  | 25 => [BOOT.STAT.reg, BOOT.CTRL.reg, BOOT.SVN.reg]
  | 26 => [VAULT.COLL.reg, VAULT.STAT.reg, VAULT.CTRL.reg, VAULT.TAMP.reg, VAULT.MREC.reg]
  | 27 => [I2C.CFG.reg]
  | 28 => [SPI.CFG.reg]
  | _ => []

end Sys2Proof.Machine
end

