-- ==== Sys2Proof/Machine/Table.lean ====
section
/-! DEFINITION. Sparse tables: a list of (key, value) pairs with strictly rising keys and no entry equal to the default of its key.
Memory, the control words and every array of units are held so; equal contents are then equal data. -/

namespace Sys2Proof.Machine

/-- The value a table holds at key `i`; what no entry names reads as the default `d i`. -/
def tget {α : Type} (d : Nat → α) : List (Nat × α) → Nat → α
  | [], i => d i
  | (k, v) :: t, i => if i = k then v else if i < k then d i else tget d t i

/-- The table with `v` at key `i`, kept canonical: writing the default removes the entry. -/
def tset {α : Type} [DecidableEq α] (d : Nat → α) : List (Nat × α) → Nat → α → List (Nat × α)
  | [], i, v => if v = d i then [] else [(i, v)]
  | (k, w) :: t, i, v =>
    if i = k then (if v = d i then t else (i, v) :: t)
    else if i < k then (if v = d i then (k, w) :: t else (i, v) :: (k, w) :: t)
    else (k, w) :: tset d t i v

/-- The canonical form: keys strictly rising from `lo` on, no entry equal to its default. -/
def twfFrom {α : Type} [DecidableEq α] (d : Nat → α) : Nat → List (Nat × α) → Bool
  | _, [] => true
  | lo, (k, v) :: t => decide (lo ≤ k) && decide (v ≠ d k) && twfFrom d (k + 1) t

/-- The canonical form of a whole table. -/
def twf {α : Type} [DecidableEq α] (d : Nat → α) (t : List (Nat × α)) : Bool := twfFrom d 0 t

end Sys2Proof.Machine
end

