-- ==== Sys2Proof/Machine/State.lean ====
section
/-! DEFINITION. The state of the CLX-2464 as plain data. The control words (every register the spec gives an address) are one sparse
table keyed by address; memory is one sparse table of bytes; each unit's inner state is a record in a sparse table keyed by the unit's
number; tokens in transit, error lines and waiting commands are lists. INVENTORY.md lists every piece with its rule. -/

namespace Sys2Proof.Machine

open Sys2Proof

/-- The faults of the block. The device reports every fault in its own state (status bits, refusals, records), so no command of the
table stops the block with a fault; `unreachable` is raised by no meaning (safe). -/
inductive Fault where
  | unreachable
deriving DecidableEq, Repr

/-- The refusals: `notModelled` answers a command that has no meaning yet (raised by Dispatch only; safe). -/
inductive Refusal where
  | notModelled (mnemonic : String)
deriving DecidableEq, Repr

/-! ### Chapter 2: queues, time bases, cols -/

/-- A token in a col's FIFO: its arrival, the release instant of a timed or late token, and what the release must still do. -/
structure ColEntry where
  tok : Token
  arrival : Nat
  due : Option Nat
deriving DecidableEq, Repr

/-- The pending second edge of a pulse (R64): its instant in units of 250 ps, the level it drives, the IDENT of its token. -/
structure SecondEdge where
  at4 : Nat
  level : Bool
  ident : Nat := 0
deriving DecidableEq, Repr

/-- A periodic schedule of an internal trigger col (R72). -/
structure Schedule where
  start : Nat
  period : Nat
  count : Nat
  target : Nat
  next : Nat
deriving DecidableEq, Repr

/-- One col's state beside its control words. -/
structure Col where
  fifo : List ColEntry := []
  order : Option Nat := none
  edge : Option SecondEdge := none
  level : Bool := false
  lastFirstEdge : Nat := 0
  seqs : List (Nat × Nat) := []
  sched : Option Schedule := none
  hiz : Bool := false
deriving DecidableEq, Repr

/-- One hardware queue's state beside its control words and its ring: an entry under push handshake, and the seq-check pairs. -/
structure QueueSt where
  hand : Bool := false
  seqs : List (Nat × Nat) := []
deriving DecidableEq, Repr

/-- The time-base unit: PLL lock, the holdover's phase error and slew end; AT as the count it had at one MT, and whether its crystal has
stopped. -/
structure TimeBase where
  locked : Bool := false
  refLost : Bool := false
  phase : Nat := 0
  slewEnd : Nat := 0
  atTicks : Nat := 0
  atFrom : Nat := 0
  atStopped : Bool := false
deriving DecidableEq, Repr

/-- The tracking of one head or hub time (R54, R347): run lengths of good and bad superframes, the predicted offset and the last locked
offset in 2^−16 ns, whether a superframe has been seen. -/
structure HeadTime where
  good : Nat := 0
  bad : Nat := 0
  pred : Int := 0
  lockedOfs : Int := 0
  seen : Bool := false
deriving DecidableEq, Repr

/-! ### Chapter 17: the Basin, ERROR_n, the Dale -/

/-- The Basin and the laser-off path beside their control words (R433–R437). -/
structure Basin where
  goff : Bool := true
  safeA : Bool := true
  safeB : Bool := true
  safeDiffSince : Option Nat := none
  levels : List Nat := []
  errLow : Bool := true
  errFirst : Bool := true
  errMinEnd : Option Nat := none
  errRelPending : Bool := false
  testmode : Bool := false
deriving DecidableEq, Repr

/-- The Dale beside its control words: the record count, and whether the first loss of the present full ring has been raised. -/
structure Dale where
  rseq : Nat := 0
  lossRaised : Bool := false
deriving DecidableEq, Repr

/-- The mark of a memory word whose stored form carries an error (R83, R84, R410). -/
inductive EccMark where
  | single | double
deriving DecidableEq, Repr

/-! ### Chapter 3: the patrol scrub -/

/-- The patrol scrub's place (R85): the block index of the next scrub in every bank, and the block addresses that needed correction
in this pass and in the last one. -/
structure Scrub where
  next : Nat := 0
  now : List Nat := []
  last : List Nat := []
deriving DecidableEq, Repr

/-! ### Chapter 4: the strath cores -/

/-- A decoded Zynzu instruction, bits 27:0 (R107, R108). `illegal` keeps the word of an encoding that decodes to nothing. -/
inductive ZOp where
  | alu (fn : BitVec 5) (rd ra rb : BitVec 5) (m : BitVec 2)
  | imm (op : BitVec 6) (rd ra : BitVec 5) (imm : BitVec 12)
  | long (op : BitVec 6) (rd : BitVec 5) (imm : BitVec 17)
  | store (op : BitVec 6) (rs ra : BitVec 5) (imm : BitVec 12)
  | cmp (pd cc : BitVec 3) (ra rb : BitVec 5)
  | cmpi (pd cc : BitVec 3) (ra : BitVec 5) (imm : BitVec 11)
  | plog (pd pa pb : BitVec 3) (fn : BitVec 2)
  | br (off : BitVec 22)
  | call (off : BitVec 22)
  | jalr (rd ra : BitVec 5)
  | tok (fn : BitVec 4) (g : BitVec 5) (tp : BitVec 3) (sel : BitVec 10)
  | sys (fn : BitVec 5) (rd ra rb : BitVec 5)
  | illegal (w : BitVec 32)
deriving DecidableEq, Repr

/-- A token port (R111, R112): the input buffer, the received tag, the outgoing tag with its seq, time and TINC, and the credits taken
of each dest's grant. -/
structure Port where
  buf : List Token := []
  rx : Option Token := none
  dest : BitVec 10 := 0
  stream : BitVec 8 := 0
  kind : BitVec 4 := 0
  flags : BitVec 4 := 1
  seq : BitVec 12 := 0
  time : BitVec 48 := 0
  tinc : BitVec 32 := 0
  taken : List (Nat × Nat) := []
deriving DecidableEq, Repr

/-- A blocked instruction: its guard and operation, the MT it blocked at, the mask of R118, and the endpoint whose answer it awaits. -/
structure Blocked where
  g : BitVec 4
  op : ZOp
  since : Nat
  mask : Nat
  await : Option Nat
deriving DecidableEq, Repr

/-- A bulk operation (R116): its t6 stream, source and destination addresses, and its words. -/
structure Bulk where
  stream : Nat
  src : Nat
  dst : Nat
  words : Nat
deriving DecidableEq, Repr

/-- One logical core's registers, ports and state words (R104, R123). STATE, PHYS and RESTARTS are held in CORE[r].STAT. -/
structure Core where
  regs : Vector Word 32 := Vector.replicate 32 0
  preds : BitVec 8 := 0
  pc : Nat := 0
  ports : Vector Port 8 := Vector.replicate 8 {}
  epc : Word := 0
  code : Nat := 0
  async : Bool := false
  more : Bool := false
  info : Word := 0
  ex : Bool := false
  maska : Bool := false
  icount : Nat := 0
  save0 : Word := 0
  save1 : Word := 0
  blkns : Nat := 0
  pend : Option (Nat × Word) := none
  pendMore : Bool := false
  posted : Nat := 0
  bulks : List Bulk := []
  blocked : Option Blocked := none
  stepping : Bool := false
  moving : Option (Nat × Nat) := none
  asleep : Bool := false
deriving DecidableEq, Repr

/-! ### Chapters 5–7: layer programs, path generators, the Saddle -/

/-- A layer instruction (R131–R138); coordinates are those of the job frame. `bad` stands for any word of R139. -/
inductive LOp where
  | jump (zv : Bool) (z x y : Int)
  | mark (zv : Bool) (z x y : Int)
  | jumpr (dx dy : Int)
  | markr (dx dy : Int)
  | arc (sweep cx cy : Int)
  | park (x y : Int)
  | speed (jspd mspd : Nat)
  | power (pwr : Nat)
  | focus (z : Int)
  | ramp (ron roff : Nat)
  | gate (gtol : Nat)
  | own (keep : Bool) (feather : Nat)
  | part (p : Nat)
  | vid (v : Nat)
  | nop
  | dwell (t : Nat)
  | marker (m : Nat)
  | lend
  | trig (en : Bool) (period width expid : Nat)
  | record (level : Nat)
  | look (en : Bool)
  | bad
deriving DecidableEq, Repr

/-- The periodic exposures a TRIG programs (R138). -/
structure TrigCfg where
  period : Nat
  width : Nat
  expid : Nat
deriving DecidableEq, Repr

/-- The modal state with its values after ARM (R139). -/
structure Modal where
  mspd : Nat := 0
  jspd : Nat := 0
  pwr : Nat := 0
  focus : Int := 0
  ron : Nat := 0
  roff : Nat := 0
  gtol : Nat := 16
  keep : Bool := false
  feather : Nat := 0
  part : Nat := 0
  vid : Nat := 0
  trig : Option TrigCfg := none
  level : Nat := 0
  lookEn : Bool := false
  parkX : Int := 0
  parkY : Int := 0
  parkZ : Int := 0
deriving DecidableEq, Repr

/-- A point of the bed frame with focus, in wpu. -/
structure Pt where
  x : Int := 0
  y : Int := 0
  z : Int := 0
deriving DecidableEq, Repr

/-- The path a segment moves along: a straight line, an arc about (cx, cy) with SWEEP in 2^−22 turn, or a held point. -/
inductive Geom where
  | line (a b : Pt)
  | arc (cx cy sweep : Int) (a : Pt) (z1 : Int)
deriving DecidableEq, Repr

/-- Path position, speed and acceleration, in 10^−16 wpu and ns. -/
structure Kin where
  x : Int := 0
  v : Int := 0
  a : Int := 0
deriving DecidableEq, Repr

/-- One segment of the segment table (R173): constant jerk along a path of length `len`. -/
structure Seg where
  t0 : Nat
  dur : Nat
  typ : Nat
  emit : Bool := false
  limit : Bool := false
  remelt : Bool := false
  saddle : Bool := false
  vid : Nat
  ofs : Nat
  geom : Geom
  len : Int
  k : Kin
  j : Int := 0
  chain : Option Nat := none
  com : Bool := false
deriving DecidableEq, Repr

/-- A part of a vector that a head owns (R203–R205): σ from `s0` to `s1` in wpu along its copy, with the lengths of the feather ramps at
its two ends. -/
structure Part where
  s0 : Int
  s1 : Int
  rise : Int := 0
  fall : Int := 0
deriving DecidableEq, Repr

/-- A planned vector: its identity, path, the modal values it took, and the parts its head melts. -/
structure PVec where
  vid : Nat
  part : Nat
  ofs : Nat
  geom : Geom
  len : Int
  mspd : Nat
  pwr : Nat
  ron : Nat
  roff : Nat
  gtol : Nat
  keep : Bool
  feather : Nat
  level : Nat
  lookEn : Bool
  parts : List Part
  t0 : Nat := 0
  chain : Nat := 0
  joinPrev : Bool := false
  remelt : Option (Int × Int) := none
  shared : Bool := false
  cut : Bool := false
deriving DecidableEq, Repr

/-- A planned instruction that execution has not yet reached: its offset, descriptor, the modal state before and after it, its instants. -/
structure Item where
  ofs : Nat
  win : Nat
  op : LOp
  err : Bool := false
  pmBefore : Modal
  pmAfter : Modal
  posBefore : Pt
  vec : Option PVec := none
  t0 : Nat
  t1 : Nat
  cont : Bool := false
deriving DecidableEq, Repr

/-- A gate edge that waits for its decision (R176–R178): 0 gate-off, 1 gate-on, 2 a joint inside a chain, where δ is formed again. -/
structure GateEdge where
  kind : Nat
  vec : PVec
  s : Int
  tPlan : Nat
deriving DecidableEq, Repr

/-- One axis in tracking (R182): its set-point state, target, whether a stop ramp runs, the AMAX and JMAX in force, the emergency stop. -/
structure TrkAxis where
  k : Kin := {}
  target : Int := 0
  stop : Bool := false
  a : Nat := 0
  j : Nat := 0
  emg : Bool := false
deriving DecidableEq, Repr

/-- A running exposure schedule (R138). -/
structure ExpSched where
  next : Nat
  cfg : TrigCfg
deriving DecidableEq, Repr

/-- The latest accepted encoder sample of one axis: its stamp, Y16 and speed (R256). -/
structure AxSample where
  stamp : Nat
  y16 : Nat
  vel : Int
deriving DecidableEq, Repr

/-- A measured position mapped back to the bed frame (R197): stamp, position in 2^−24 wpu, speed in 10^−16 wpu per ns. -/
structure Meas where
  stamp : Nat
  x : Int
  y : Int
  vx : Int
  vy : Int
deriving DecidableEq, Repr

/-- The process-record accumulators of a part that is emitting (R316, R317). -/
structure PartAcc where
  ton : Nat
  vec : PVec
  s0 : Int
  flags : Nat := 0
  ctrim0 : Nat := 0
  latMax : Nat := 0
  tfirst : Nat := 0
  nexp : Nat := 0
  npair : Nat := 0
  usum : Nat := 0
  umin : Nat := 65535
  umax : Nat := 0
  tsum : Nat := 0
  esum : Nat := 0
  emax : Nat := 0
  rsum : Nat := 0
  rmax : Nat := 0
  csum : Int := 0
  clo : Int := 32767
  chi : Int := -32768
  nsat : Nat := 0
deriving DecidableEq, Repr

/-- A look in progress (R214–R217): the observed head, the hold h0–h1, the next stare and the hold point. -/
structure Look where
  ha : Nat
  h0 : Nat
  h1 : Nat
  k : Nat := 0
  hold : Pt
  cut : Bool := false
deriving DecidableEq, Repr

/-- One path generator beside its control words. -/
structure PgSt where
  notify : Nat := 0
  modal : Modal := {}
  mb : Modal := {}
  pm : Modal := {}
  pos : Pt := {}
  tEnd : Nat := 0
  openVec : Option PVec := none
  chain : Nat := 0
  decided : List Nat := []
  decOfs : Nat := 0
  decEnd : Bool := false
  items : List Item := []
  segs : List Seg := []
  cur : Option PVec := none
  opEnd : Nat := 0
  vectors : Nat := 0
  winSpent : Nat := 0
  winStart : Option Nat := none
  lowCross : Bool := false
  pause : Option Bool := none
  dwellEnd : Option Nat := none
  gateHigh : Bool := false
  edges : List GateEdge := []
  delta : Int := 0
  bad : Bool := false
  sx : Option AxSample := none
  sy : Option AxSample := none
  meas : List Meas := []
  sched : Option ExpSched := none
  trigNew : Bool := false
  lastPower : Nat := 0
  lastSet : List (Nat × Word) := []
  spSent : Bool := false
  spLast : Nat := 0
  trk : List (Nat × TrkAxis) := []
  notBefore : Nat := 0
  resumeAt : Option Int := none
  stares : Nat := 0
  look : Option Look := none
  acc : Option PartAcc := none
  recQ : List (List Word) := []
  frozen : Bool := false
  yieldFrom : Nat := 0
  decNew : Bool := true
  curOp : LOp := .nop
deriving DecidableEq, Repr

/-- A part of a shared vector that no head has claimed (R203): σ, the feather ramps its claimant must run at the two ends, and the head
and instant of the share handed over. -/
structure OpenPart where
  s0 : Int
  s1 : Int
  rise : Int := 0
  fall : Int := 0
  hout : Nat := 0
  tout : Nat := 0
  typ : Nat := 1
deriving DecidableEq, Repr

/-- A shared set (R201–R203): the first decided copy, its head, the open parts, the claimed parts not yet begun, the heads that have
decided their copies, and the candidates. -/
structure SharedSet where
  first : PVec
  head : Nat
  z0 : Int
  layer : Nat
  opens : List OpenPart
  claims : List (Nat × Part)
  decided : List Nat
  cands : List Nat
deriving DecidableEq, Repr

/-- A map image under check or waiting for its swap (R194, R199). -/
structure MapSt where
  checking : Bool := false
  notBefore : Nat := 0
deriving DecidableEq, Repr

/-- A stare whose tokens have been sent and whose record waits for its bracketing samples (R310). -/
structure Stare where
  hb : Nat
  ha : Nat
  vid : Nat
  layer : Nat
  tk : Nat
  wid : Nat
  expid : Nat
  p : Pt
  rega : Word
  regb : Word
deriving DecidableEq, Repr

/-! ### Chapter 8: the servo engine -/

/-- A section: exponent and mantissas (R223). -/
structure Sect where
  e : Int
  b0 : Int
  b1 : Int
  b2 : Int
  a1 : Int
  a2 : Int
deriving DecidableEq, Repr

/-- A section's four state values. -/
structure SectSt where
  x1 : Int := 0
  x2 : Int := 0
  y1 : Int := 0
  y2 : Int := 0
deriving DecidableEq, Repr

/-- A coefficient set (R225). The values below are those of a loop to which no set has applied (R234). -/
structure CoefSet where
  setid : Nat := 0
  fe : Int := 0
  ae : Int := 0
  swap : Nat := 0
  bnd : Bool := false
  isec : Nat := 15
  kv : Int := 0
  ka : Int := 0
  kaw : Nat := 0
  sects : List Sect := []
deriving DecidableEq, Repr

/-- When a pending set or table may apply: at any cycle, at or after an instant, or after a barrier that has not passed yet (R227). -/
inductive PendWhen where
  | now | from (t : Nat) | barrier
deriving DecidableEq, Repr

/-- A photodiode pair (R237): the stamp of the later sample and the four codes. -/
structure Pair where
  stamp : Nat
  e0 : Nat
  r0 : Nat
  e1 : Nat
  r1 : Nat
deriving DecidableEq, Repr

/-- One servo loop beside its control words. -/
structure Loop where
  set : CoefSet := {}
  st : List SectSt := []
  pend : Option (CoefSet × PendWhen) := none
  setpts : List (Nat × Word) := []
  samples : List AxSample := []
  rPrev : Int := 0
  velPrev : Int := 0
  accPrev : Int := 0
  posPrev : Int := 0
  lastU : Int := 0
  extrap : Nat := 0
  begun : Bool := false
  fbOnce : Bool := false
  etolCnt : Nat := 0
  lastTc : Option Nat := none
  ovrRun : Nat := 0
  table : List Word := []
  copying : Bool := false
  tableNew : List Word := []
  tableWhen : Option PendWhen := none
  c : Int := 0
  cycles : Nat := 0
  pairs : List Pair := []
  lastPair : Nat := 0
  clearNext : Bool := false
  trimAt : List Nat := []
  targetAt : List Nat := []
  alarm : Nat := 0
deriving DecidableEq, Repr
/-! ### Chapter 9: position feedback -/

/-- The signal period in progress of an adapting channel (R259). -/
structure AdaptRun where
  period : Int
  dir : Int
  whole : Bool
  count : Nat
  lastQ : Int
  sinMax : Int
  sinMin : Int
  cosMax : Int
  cosMin : Int
deriving DecidableEq, Repr

/-- One sin/cos channel (R254–R259): qh, the QC and stamp of the last received sample, the accepted samples newest first (stamp, Y16), how many
of them were accepted since EN, and the rejections in a row. -/
structure ScSt where
  qh : Int := 0
  qc : Option Nat := none
  lastRx : Option Nat := none
  hist : List (Nat × Nat) := []
  last : Option (Nat × Nat) := none
  rejects : Nat := 0
  adapt : Option AdaptRun := none
deriving DecidableEq, Repr

/-- The speed estimator (R266): the instants of the run's increments newest first (at most 17), j, e0, the direction, whether the run began
with a reversal, and the increments since the last update. -/
structure SpdSt where
  run : List Nat := []
  j : Nat := 0
  e0 : Nat := 0
  neg : Bool := false
  rev : Bool := false
  n : Nat := 0
deriving DecidableEq, Repr

/-- One encoder: the filtered levels of A, B and I, the count of the reference, and its estimator. -/
structure EncSt where
  a : Bool := false
  b : Bool := false
  i : Bool := false
  ref : Option Int := none
  spd : SpdSt := {}
deriving DecidableEq, Repr

/-- One Hall input: since when the state is impossible, whether HLONG was raised for it, and the estimator. -/
structure HallSt where
  badSince : Option Nat := none
  long : Bool := false
  spd : SpdSt := {}
deriving DecidableEq, Repr

/-- A latched probe event that is not yet sent (R269–R271). -/
structure ProbeRec where
  tp : Nat
  rise : Bool
  counts : List Word
  galvo : Bool
  dest : Nat
  stream : Nat
deriving DecidableEq, Repr

structure ProbeSt where
  level : Bool := false
  recs : List ProbeRec := []
deriving DecidableEq, Repr

/-- One emulation channel: samples whose token is still to be sent, the last release, the steps of the last interval (from, to, number), and
the output levels. -/
structure EmuSt where
  due : List (Nat × Nat) := []
  lastRel : Option Nat := none
  steps : Nat × Nat × Nat := (0, 0, 0)
  a : Bool := false
  b : Bool := false
  z : Bool := false
deriving DecidableEq, Repr

/-! ### Chapter 10: melt-pool imaging -/

/-- A camera setting (R286). -/
structure CamSetting where
  setid : Nat := 0
  wx : Nat := 0
  wy : Nat := 0
  dtype : Nat := 0
  bnd : Bool := false
  snr : Nat := 0
  tk : Nat := 0
  black : Nat := 0
  thr : Nat := 1
  spthr : Nat := 1
  spmin : Nat := 1
  spmarg : Nat := 0
  hshift : Nat := 0
  ff : Nat := 0
deriving DecidableEq, Repr

/-- When a pending setting may take effect (R288): strictly after an acceptance, from an instant on, or after the next barrier. -/
inductive CamWhen where
  | after (t : Nat) | from (t : Nat) | barrier
deriving DecidableEq, Repr

/-- A completed exposure (R284): EXPID, TRIGT, width in ns, TSEQ, the latched setting, SHORT, its end. -/
structure Exposure where
  expid : Nat
  trigt : Nat
  width : Nat
  tseq : Nat
  set : CamSetting
  short : Bool
  tend : Nat
deriving DecidableEq, Repr

/-- An exposure whose second edge is still to come: its rising edge in units of 250 ps. -/
structure OpenExp where
  expid : Nat
  rise4 : Nat
  tseq : Nat
  set : CamSetting
deriving DecidableEq, Repr

/-- A frame between its FS and its close: the paired exposure, the lines received (the last first), and its flags. -/
structure FrameSt where
  exp : Exposure
  fn : Nat
  gap : Bool
  fsAt : Nat
  lines : List (List Nat) := []
  trunc : Bool := false
  dead : Bool := false
  crc : Bool := false
  size : Bool := false
  emb : Option (List Byte) := none
deriving DecidableEq, Repr

/-- One camera slot beside its control words (R284–R295): TSEQ, the TSEQ of judged tokens not yet released, the exposure in progress, the
pending list oldest first, expected, TDROPS, the setting in force and the one pending, the setting of the last frame processed, whether the
history restarts, the open frame, and the last tokens of records not yet accepted. -/
structure Slot where
  tseq : Nat := 0
  judged : List Nat := []
  openExp : Option OpenExp := none
  pending : List Exposure := []
  expected : Nat := 0
  tdrops : Nat := 0
  set : Option CamSetting := none
  pend : Option (CamSetting × CamWhen) := none
  last : Option CamSetting := none
  restart : Bool := true
  frame : Option FrameSt := none
  sent : List Token := []
deriving DecidableEq, Repr

/-- A photodiode tap (R298): pairs so far, the first pair's stamp, the pairs with LGATE high, sums and maxima, the last token sent. -/
structure TapSt where
  n : Nat := 0
  stamp : Nat := 0
  nhigh : Nat := 0
  esum : Nat := 0
  emax : Nat := 0
  rsum : Nat := 0
  rmax : Nat := 0
  sent : Option Token := none
deriving DecidableEq, Repr

/-- An I2C transaction (R299). -/
structure I2cTxn where
  src : Nat
  stream : Nat
  op : Nat
  addr : Nat
  wbytes : List Byte
  rlen : Nat
deriving DecidableEq, Repr

/-! ### Chapter 12: auxiliary axes -/

/-- A span of constant jerk, in the units of the motion it belongs to. -/
structure Phase where
  dur : Nat
  j : Int
deriving DecidableEq, Repr

/-- A move in progress (R323): its start instant, the path units in u = 1, the start position and displacement of each axis, the limits au and
ju in path units, the motion at the start and its phases, the planned end, the status of the stop ramp it is in, INPOS and SETTLE at ts. -/
structure AuxRun where
  ts : Nat
  unit : Int
  axes : List (Nat × Int × Int)
  a : Int
  j : Int
  k0 : Kin
  phases : List Phase
  tend : Nat
  stop : Option Nat := none
  inpos : List (Nat × Nat)
  settle : Nat
deriving DecidableEq, Repr

/-- An accepted move (R320–R324): its axes with TARGET and VLIM, the axes it still occupies, its header, the moves it waits for. -/
structure AuxMove where
  id : Nat
  axes : List (Nat × Int × Nat)
  live : List Nat
  mask : Nat
  moveid : Nat
  start : Nat
  time : Nat
  rel : Bool
  notify : Nat
  waits : List Nat
  lockNoted : Bool := false
  silent : Bool := false
  run : Option AuxRun := none
deriving DecidableEq, Repr

/-- A jog in motion (R326): its profiler's motion in 10^−27 count, its target, whether a stop ramp runs, AMAX and JMAX in force. -/
structure AuxJog where
  k : Kin
  target : Int
  stop : Bool := false
  a : Nat
  j : Nat
deriving DecidableEq, Repr

/-- A hub sample (R333): stamp, IA, IB, VA and the position count. -/
structure HubSample where
  stamp : Nat
  ia : Int
  ib : Int
  va : Nat
  pos : Int
deriving DecidableEq, Repr

/-- One auxiliary axis beside its control words: the planner's reference, its jog, since when the commanded speed is 0, the changes of HOLDI
(usable from, value), the pending mode decision, the outputs of the position loop (usable from, u, r), the hub samples newest first, the
commutation tokens sent (time, ANG, CMODE), the arrival of the last hub superframe. -/
structure AuxSt where
  ref : Int := 0
  jog : Option AuxJog := none
  zeroSince : Option Nat := none
  holds : List (Nat × Bool) := []
  decision : Option (Nat × Bool) := none
  refs : List (Nat × Int × Int) := []
  samples : List HubSample := []
  comm : List (Nat × Nat × Nat) := []
  lastHub : Nat := 0
deriving DecidableEq, Repr


/-! ### Chapter 13: lanes and links -/

/-- A lane's receiver (R345, R354, R357): its own state (0 off, 1 detect, 2 train, 3 hunting for block lock, 4 locked, 5 PRBS test), when it
entered it, the ages in blocks of the bad blocks of the last 64, the round trips of the last 16 superframes, when the downlink SFS header
of this superframe left, and the end of a running test. -/
structure LaneSt where
  ls : Nat := 0
  since : Nat := 0
  bads : List Nat := []
  rts : List Int := []
  mtx : Option Int := none
  testEnd : Option Nat := none
deriving DecidableEq, Repr

/-- A link beside its control words: the state of a point link (R342), when the state was entered, the HT of the present superframe, the
block numbers received on one lane and not yet on the other (number, mirror, MT), credits either way, tokens that wait for a credit, the
token last sent, the peer's HSTAT, whether the lanes' delays differ too much. -/
structure LinkSt where
  pst : Nat := 0
  since : Nat := 0
  hts : Nat := 0
  copies : List (Nat × Bool × Nat) := []
  credits : Nat := 0
  owed : Nat := 0
  tx : List Token := []
  sent : Option Token := none
  hstat : Nat := 0
  skew : Bool := false
deriving DecidableEq, Repr

/-! ### Chapter 14: the host link, VCT and plant time -/

/-- A packet the device has sent: to whom, and the bytes of its UDP datagram. -/
structure VctOut where
  port : Nat
  mac : Nat
  ip : Nat
  udp : Nat
  bytes : List Byte
deriving DecidableEq, Repr

/-- A key slot beside its control words (R373–R378): its key, the last accepted command and its stored response, the packets held behind a
mirror write, the value being written to the mirror, the discards of the present second and its start. -/
structure KeySlot where
  key : Option (List Byte) := none
  lastTag : Option Nat := none
  lastResp : Option VctOut := none
  held : List VctIn := []
  mirrorTo : Option Nat := none
  discards : Nat := 0
  second : Nat := 0
deriving DecidableEq, Repr

/-- A receive window beside its control words (R383–R385): the endpoint to notify, the digest to match, the TAG of the RXCLOSE. -/
structure RxWin where
  notify : Nat := 0
  digest : List Byte := []
  tag : Nat := 0
deriving DecidableEq, Repr

/-- An upload request (R387): its client's endpoint and stream, the data, the stream offset after its last byte; a DALEUP's TAG. -/
structure UpReq where
  src : Nat
  stream : Nat
  addr : Nat
  len : Nat
  endOff : Nat
  daleTag : Option Nat
deriving DecidableEq, Repr

/-- An upload stream (R388): its requests, the offset after the last request, the offset to send next, the ends of the packets in flight,
the attempts made without progress, when progress was last made, the port last used. -/
structure UpStream where
  reqs : List UpReq := []
  total : Nat := 0
  next : Nat := 0
  flight : List Nat := []
  tries : Nat := 0
  since : Nat := 0
  port : Option Nat := none
deriving DecidableEq, Repr

/-- A master heard on a port (R367): the sender, its data set, the arrivals of its Announce messages. -/
structure Foreign where
  port : Nat
  msg : AnnounceMsg
  times : List Nat
deriving DecidableEq, Repr

/-- The plant-time discipline on S1 (R366, R367, R369): the integral term, the delay measurements, the run lengths near and far from zero,
the last Sync and the interval before it, the masters heard and the one selected; the PT set before the one in force, and when it changed. -/
structure PtpSt where
  rint : Rat := 0
  delays : List Int := []
  near : Nat := 0
  far : Nat := 0
  lastSync : Option Nat := none
  interval : Nat := 0
  heard : List Foreign := []
  master : Option (Nat × AnnounceMsg) := none
  oldSet : Option (Word × Word × Word × Word) := none
  changed : Nat := 0
deriving DecidableEq, Repr

/-- The host link's own state: the subscriber's MAC, the event sequence, the frames buffered on each port, the newest packets and frames
sent, the stamps of received and sent event messages, and the running FWSTAGE with its TAG. -/
structure HostSt where
  subMac : Nat := 0
  evtSeq : Nat := 0
  rx : List (Nat × Nat) := []
  out : List VctOut := []
  frames : List (Nat × List Byte) := []
  rxStamps : List (Nat × Nat) := []
  txStamps : List (Nat × Nat × Nat × Option Int) := []
  fwstage : Option (Nat × Nat) := none
deriving DecidableEq, Repr

/-! ### Chapter 15: the DRAM controller -/

/-- One DRAM bank (R400, R404): the open row, the row of the last column command, the history counter, the rolling activation count,
the MT of the last column command. -/
structure DramBank where
  row : Option Nat := none
  lastRow : Option Nat := none
  hist : Nat := 0
  raa : Nat := 0
  lastCol : Nat := 0
deriving DecidableEq, Repr

/-- One rank (R401–R409): the next tick of its interval timer, the band a single reading below the present one reported, the MT of its
last request, its write DQ delay in PHY steps, and the MT of its last calibrations. -/
structure DramRank where
  nextTick : Nat := 0
  lower : Option Nat := none
  lastReq : Nat := 0
  dqDelay : Int := 0
  lastZq : Nat := 0
  lastOsc : Nat := 0
deriving DecidableEq, Repr

/-- A throttled src on a channel (R405): the end of the throttle and the earliest MT of its next ACT. -/
structure Throttle where
  src : Nat
  until_ : Nat
  nextAct : Nat
deriving DecidableEq, Repr

/-- One channel: the activation table of the space-saving rule, its window, the throttles, and the self-refresh machine. -/
structure DramChan where
  acts : List (Nat × Nat) := []
  winStart : Nat := 0
  winActs : Nat := 0
  throttles : List Throttle := []
  lastReq : Nat := 0
  lastSre : Nat := 0
  scrubNext : Nat := 0
  corrNow : List Nat := []
  corrLast : List Nat := []
deriving DecidableEq, Repr

/-! ### Chapter 16: the Gorge -/

/-- A canonical prefix code: how many codes of each length 0–15, and the symbols in code order (RFC 1951). -/
structure Huff where
  counts : List Nat
  syms : List Nat
deriving DecidableEq, Repr

/-- Where an inflater stands in its stream (R424, the decoder position). -/
inductive InfPhase where
  | head
  | block
  | stored (n : Nat) (fin : Bool)
  | codes (lit dist : Huff) (fin : Bool)
  | copy (n d : Nat) (lit dist : Huff) (fin : Bool)
  | tail
  | done
deriving DecidableEq, Repr

/-- A stream between its jobs (R424): OP, FMT, the running totals and check, the last 32,768 bytes (newest first), the bits read and not
used, how many bits of the next input byte are used, the bit position modulo 8, the decoder's place, whether a header was written. -/
structure GStream where
  op : Nat := 1
  fmt : Nat := 0
  totIn : Nat := 0
  totOut : Nat := 0
  check : Nat := 0
  hist : List Byte := []
  carry : List Bool := []
  skip : Nat := 0
  pos : Nat := 0
  phase : InfPhase := .head
  begun : Bool := false
deriving DecidableEq, Repr

/-- The job running on a channel (R418, R419): its descriptor's address and words 0–5, the stream it starts from, and the status it ends
with at once where it has one. -/
structure GJob where
  addr : Nat
  words : List Word
  stream : GStream
  preset : Option Nat
deriving DecidableEq, Repr

/-- A Gorge channel (R417, R427): the descriptors queued behind the running job, the job, the VERIFY endings in succession. -/
structure GChan where
  queue : List Nat := []
  job : Option GJob := none
  verifies : Nat := 0
deriving DecidableEq, Repr

/-- A state area the engine has saved: what its header says, and the stream (R424). -/
structure GSave where
  header : List Word
  stream : GStream
deriving DecidableEq, Repr

/-! ### Chapter 18: power, the vault, housekeeping, repair, boot -/

/-- Why the device is held in reset (R447, R449, R463, R471): PORST_n low, RESET_n low, the rails below their reset thresholds, shutdown. -/
structure Holds where
  porst : Bool := false
  reset : Bool := false
  rails : List Nat := []
  shut : Bool := false
deriving DecidableEq, Repr

/-- A stage of a wake that waits for a permit (R452): the block, the stages still to come after it, when it was requested. -/
structure WakeReq where
  block : Nat
  more : Nat
  since : Nat
deriving DecidableEq, Repr

/-- Wake permits and sleeping blocks (R451, R452): the instants at which granted permits return, the queue, the blocks asleep, the stages
that wake with their ends and the stages still to come. -/
structure Wake where
  permits : List Nat := []
  queue : List WakeReq := []
  asleep : List Nat := []
  waking : List (Nat × Nat × Nat) := []
deriving DecidableEq, Repr

/-- The vault beside its control words (R454–R457): its supply-good latch, and whether its supply stands. -/
structure Vault where
  good : Bool := true
  supply : Bool := true
deriving DecidableEq, Repr

/-- Housekeeping between rounds (R450, R458–R462, R479): the sensors broken in the last round and judged broken, the rounds each region
disagreed, the rounds each rail was out, the regions in a critical stop, and the age in hours × 2^40 · 3,600,000. -/
structure House where
  brokeLast : List Nat := []
  judged : List Nat := []
  disagree : List (Nat × Nat) := []
  railOut : List (Nat × Nat) := []
  crit : List Nat := []
  age : Nat := 0
deriving DecidableEq, Repr

/-- An entry of the repair record (R470). -/
structure RepEntry where
  typ : Nat
  action : Nat
  unit : Nat
  arg : Nat
  tick : Nat
deriving DecidableEq, Repr

/-- A slot of the repair record in the boot flash (R470); `ok`: its MAC and SERIAL are right. -/
structure RepSlot where
  ok : Bool
  seq : Nat
  age : Nat
  tick : Nat
  entries : List RepEntry
deriving DecidableEq, Repr

/-- The boot flash (R472): the two image areas, the boot control block, the repair record's slots, the key store's keys and rights. -/
structure Flash where
  imageA : List Byte := []
  imageB : List Byte := []
  active : Nat := 0
  trial : Nat := 0
  tries : Nat := 0
  bseq : Nat := 0
  slots : List (Nat × RepSlot) := []
  keys : List (Nat × List Byte × Nat) := []
  mirrors : List (Nat × Nat) := []
deriving DecidableEq, Repr

/-- What the boot and repair controller keeps while the device runs: the entries of the record, whether one waits to be written and since
when, the running image's KEYIDX and SVN, the area booted, whether it is a trial boot, whether the image runs, and what the TAP last read. -/
structure BootSt where
  entries : List RepEntry := []
  dirty : Bool := false
  written : Nat := 0
  keyidx : Nat := 0
  svn : Nat := 0
  area : Nat := 0
  trialBoot : Bool := false
  running : Bool := false
  tap : Word := 0
deriving DecidableEq, Repr

/-! ### The whole state -/

/-- The state of the device (INVENTORY.md, "State"). The field values below are those of the machine right after release of PORST_n,
before boot. -/
structure State where
  /-- The commands that wait, first in, first out. -/
  pending : List Instr := []
  /-- Machine time (R51), in ns; TB.MT reads its low 64 bits. -/
  mt : Nat := 0
  /-- The control words that do not hold their reset value, keyed by address. -/
  cw : List (Nat × Word) := []
  /-- The bytes of the Plain, the core-local windows and DRAM that are not 0, keyed by device address (R75). -/
  mem : List Host.Cell := []
  /-- The 8-byte words whose stored form carries an error, keyed by address (R83, R84, R410). -/
  eccs : List (Nat × Option EccMark) := []
  /-- Tokens sent and not yet delivered (R40). -/
  net : List Token := []
  /-- The sequence counts of the built-in producers, keyed by src, dest and stream (R34). -/
  seqs : List (Nat × Nat) := []
  /-- The asserted error lines the Basin has not yet taken (R17). -/
  lines : List Raise := []
  /-- The model's own counter: how many free values have been taken. -/
  freeCtr : Nat := 0
  queues : List (Nat × QueueSt) := []
  tb : TimeBase := {}
  hts : List (Nat × HeadTime) := []
  cols : List (Nat × Col) := []
  basin : Basin := {}
  dale : Dale := {}
  /-- Messages whose first token is timed and not yet due: their block acts at the first SYNC at or after the time (R57). -/
  held : List (List Token) := []
  /-- The patrol scrub of the Plain (R85): the block each bank scrubs next, and the blocks corrected in the present and last pass. -/
  scrub : Scrub := {}
  /-- BAR tokens the fan-out has accepted and not yet judged (R103). -/
  fanout : List Token := []
  /-- Barriers the fan-out has passed whose boundary changes have not yet been applied (R29, R103). -/
  passed : List Token := []
  cores : List (Nat × Core) := []
  /-- The path generators (chapters 5, 6). -/
  pgs : List (Nat × PgSt) := []
  /-- The Saddle's shared sets (R201–R208). -/
  sets : List SharedSet := []
  maps : List (Nat × MapSt) := []
  /-- Stares whose tokens have been sent (R310). -/
  stares : List Stare := []
  loops : List (Nat × Loop) := []
  /-- The history of the LGATE pins' driven levels, newest first: head, MT, level (R237). -/
  gateLog : List (Nat × Nat × Bool) := []
  scs : List (Nat × ScSt) := []
  encs : List (Nat × EncSt) := []
  halls : List (Nat × HallSt) := []
  probes : List (Nat × ProbeSt) := []
  emus : List (Nat × EmuSt) := []
  slots : List (Nat × Slot) := []
  /-- The CSI-2 ports that discard up to the next start of transmission (R281). -/
  csiSkip : List Nat := []
  /-- The ports whose pipeline has stopped (R296). -/
  pipesOff : List Nat := []
  taps : List (Nat × TapSt) := []
  /-- The transactions of each I2C port, the running one first (R299). -/
  i2cs : List (Nat × List I2cTxn) := []
  auxs : List (Nat × AuxSt) := []
  /-- The accepted moves in order of acceptance (R321). -/
  auxMoves : List AuxMove := []
  /-- Stops that act at the next COL121 instant: their instant, axes and status (R325, R335, R336). -/
  auxStops : List (Nat × Nat × Nat) := []
  /-- The model's own numbering of accepted moves. -/
  auxNext : Nat := 0
  lanes : List (Nat × LaneSt) := []
  links : List (Nat × LinkSt) := []
  keySlots : List (Nat × KeySlot) := []
  wins : List (Nat × RxWin) := []
  ups : List (Nat × UpStream) := []
  ptp : PtpSt := {}
  host : HostSt := {}
  dramBanks : List (Nat × DramBank) := []
  dramRanks : List (Nat × DramRank) := []
  dramChans : List (Nat × DramChan) := []
  /-- RAAIMT and RAAMMT as the devices report them (R404). -/
  raaimt : Nat := 0
  raammt : Nat := 0
  gorge : List (Nat × GChan) := []
  gorgeSaves : List GSave := []
  holds : Holds := {}
  wake : Wake := {}
  vault : Vault := {}
  house : House := {}
  flash : Flash := {}
  /-- The SHA-256 hashes of the public keys in the fuses (R474). -/
  keyHashes : List (List Byte) := []
  boot : BootSt := {}
deriving DecidableEq, Repr

/-- The state right after reset: every control word at its reset value, nothing in memory, no token in transit, GOFF set and ERROR_n
low (R433, R436). -/
def State.reset : State := {}

/-! ### One setter per field -/

def State.setPending (s : State) (v : List Instr) : State := { s with pending := v }
def State.setMt (s : State) (v : Nat) : State := { s with mt := v }
def State.setCw (s : State) (v : List (Nat × Word)) : State := { s with cw := v }
def State.setMem (s : State) (v : List Host.Cell) : State := { s with mem := v }
def State.setEccs (s : State) (v : List (Nat × Option EccMark)) : State := { s with eccs := v }
def State.setNet (s : State) (v : List Token) : State := { s with net := v }
def State.setSeqs (s : State) (v : List (Nat × Nat)) : State := { s with seqs := v }
def State.setLines (s : State) (v : List Raise) : State := { s with lines := v }
def State.setFreeCtr (s : State) (v : Nat) : State := { s with freeCtr := v }
def State.setQueues (s : State) (v : List (Nat × QueueSt)) : State := { s with queues := v }
def State.setTb (s : State) (v : TimeBase) : State := { s with tb := v }
def State.setHts (s : State) (v : List (Nat × HeadTime)) : State := { s with hts := v }
def State.setCols (s : State) (v : List (Nat × Col)) : State := { s with cols := v }
def State.setBasin (s : State) (v : Basin) : State := { s with basin := v }
def State.setDale (s : State) (v : Dale) : State := { s with dale := v }
def State.setHeld (s : State) (v : List (List Token)) : State := { s with held := v }
def State.setScrub (s : State) (v : Scrub) : State := { s with scrub := v }
def State.setFanout (s : State) (v : List Token) : State := { s with fanout := v }
def State.setPassed (s : State) (v : List Token) : State := { s with passed := v }
def State.setCores (s : State) (v : List (Nat × Core)) : State := { s with cores := v }
def State.setPgs (s : State) (v : List (Nat × PgSt)) : State := { s with pgs := v }
def State.setSets (s : State) (v : List SharedSet) : State := { s with sets := v }
def State.setMaps (s : State) (v : List (Nat × MapSt)) : State := { s with maps := v }
def State.setStares (s : State) (v : List Stare) : State := { s with stares := v }
def State.setLoops (s : State) (v : List (Nat × Loop)) : State := { s with loops := v }
def State.setGateLog (s : State) (v : List (Nat × Nat × Bool)) : State := { s with gateLog := v }
def State.setScs (s : State) (v : List (Nat × ScSt)) : State := { s with scs := v }
def State.setEncs (s : State) (v : List (Nat × EncSt)) : State := { s with encs := v }
def State.setHalls (s : State) (v : List (Nat × HallSt)) : State := { s with halls := v }
def State.setProbes (s : State) (v : List (Nat × ProbeSt)) : State := { s with probes := v }
def State.setEmus (s : State) (v : List (Nat × EmuSt)) : State := { s with emus := v }
def State.setSlots (s : State) (v : List (Nat × Slot)) : State := { s with slots := v }
def State.setCsiSkip (s : State) (v : List Nat) : State := { s with csiSkip := v }
def State.setPipesOff (s : State) (v : List Nat) : State := { s with pipesOff := v }
def State.setTaps (s : State) (v : List (Nat × TapSt)) : State := { s with taps := v }
def State.setI2cs (s : State) (v : List (Nat × List I2cTxn)) : State := { s with i2cs := v }
def State.setAuxs (s : State) (v : List (Nat × AuxSt)) : State := { s with auxs := v }
def State.setAuxMoves (s : State) (v : List AuxMove) : State := { s with auxMoves := v }
def State.setAuxStops (s : State) (v : List (Nat × Nat × Nat)) : State := { s with auxStops := v }
def State.setAuxNext (s : State) (v : Nat) : State := { s with auxNext := v }
def State.setLanes (s : State) (v : List (Nat × LaneSt)) : State := { s with lanes := v }
def State.setLinks (s : State) (v : List (Nat × LinkSt)) : State := { s with links := v }
def State.setKeySlots (s : State) (v : List (Nat × KeySlot)) : State := { s with keySlots := v }
def State.setWins (s : State) (v : List (Nat × RxWin)) : State := { s with wins := v }
def State.setUps (s : State) (v : List (Nat × UpStream)) : State := { s with ups := v }
def State.setPtp (s : State) (v : PtpSt) : State := { s with ptp := v }
def State.setHost (s : State) (v : HostSt) : State := { s with host := v }
def State.setDramBanks (s : State) (v : List (Nat × DramBank)) : State := { s with dramBanks := v }
def State.setDramRanks (s : State) (v : List (Nat × DramRank)) : State := { s with dramRanks := v }
def State.setDramChans (s : State) (v : List (Nat × DramChan)) : State := { s with dramChans := v }
def State.setRaaimt (s : State) (v : Nat) : State := { s with raaimt := v }
def State.setRaammt (s : State) (v : Nat) : State := { s with raammt := v }
def State.setGorge (s : State) (v : List (Nat × GChan)) : State := { s with gorge := v }
def State.setGorgeSaves (s : State) (v : List GSave) : State := { s with gorgeSaves := v }
def State.setHolds (s : State) (v : Holds) : State := { s with holds := v }
def State.setWake (s : State) (v : Wake) : State := { s with wake := v }
def State.setVault (s : State) (v : Vault) : State := { s with vault := v }
def State.setHouse (s : State) (v : House) : State := { s with house := v }
def State.setFlash (s : State) (v : Flash) : State := { s with flash := v }
def State.setKeyHashes (s : State) (v : List (List Byte)) : State := { s with keyHashes := v }
def State.setBoot (s : State) (v : BootSt) : State := { s with boot := v }

end Sys2Proof.Machine
end

