-- ==== Sys2Proof/Machine/Ops.lean ====
section
/-! DEFINITION. The named operations every family shares: control words and their fields, memory, tokens and refusals, error lines, the
Dale and the event counters, machine time, and the per-unit records. -/

namespace Sys2Proof

/-- A timed token: the same with its time. -/
def Token.at (t : Token) (mt : Nat) : Token := { t with timed := true, time := BitVec.ofNat 48 mt }

/-- The 96-bit tag of a token (R34). -/
def Token.tag (t : Token) : Nat :=
  Machine.place t.time.toNat 48 48 + Machine.place t.seq.toNat 12 36 + Machine.place t.err.toNat 1 35 + Machine.place t.urgent.toNat 1 34 +
  Machine.place t.timed.toNat 1 33 + Machine.place t.last.toNat 1 32 + Machine.place t.kind.toNat 4 28 + Machine.place t.stream.toNat 8 20 +
  Machine.place t.src.toNat 10 10 + Machine.place t.dest.toNat 10 0

end Sys2Proof

namespace Sys2Proof.Machine

open Sys2Proof

/-! ### Control words (R10–R13, R91, R92) -/

/-- The role of physical unit `u` before any repair, 255 for a spare (R465; log entry 4). -/
def unitRole0 (u : Nat) : Nat :=
  if u < 16 then u else if u < 18 then 255 else if u < 42 then u - 18 else if u < 44 then 255 else if u < 50 then u - 44
  else if u = 50 then 255 else if u < 63 then u - 51 else 255

/-- The reset value of entry `i` (R13; R58 for a col's policy, R340 for a lane's mode, R394 for a selector's home bit). -/
def ResetVal.at (r : ResetVal) (i : Nat) : Nat :=
  match r with
  | .const v => v
  | .index => i
  | .colPolicy => if i < 48 then 2 else if i < 72 then 0 else 1
  | .laneMode => if i < 56 then 2 else if i < 60 then 3 else 0
  | .dramHash => 2 ^ ([6, 7, 14, 15, 16, 17, 18, 19].getD i 0)
  | .unitRole => unitRole0 i
  | .unitState => if unitRole0 i = 255 then 1 else 0

/-- The entry of an array of words that lies at address `a`. -/
def Reg.entryAt (r : Reg) (a : Nat) : Option Nat :=
  if a < r.base then none
  else if r.stride = 0 then (if a = r.base then some 0 else none)
  else if (a - r.base) % r.stride = 0 ∧ (a - r.base) / r.stride < r.count then some ((a - r.base) / r.stride) else none

/-- The entry of a word within its whole array, where the array is split by kind: the entry's number is counted from the fields' base. -/
def Reg.indexOf (r : Reg) (a : Nat) : Nat :=
  match r.fields with
  | [] => 0
  | f :: _ => if f.fld.stride = 0 then 0 else (a - f.fld.base) / f.fld.stride

/-- The block of a control-word address (R91). -/
def blockOf (a : Nat) : Nat := (a - 0x100000000) / 0x100000

def findReg : List Reg → Nat → Option Reg
  | [], _ => none
  | r :: t, a => match r.entryAt a with
    | some _ => some r
    | none => findReg t a

/-- The control word at an address, or none at an unassigned offset (R93). -/
def regOf (a : Nat) : Option Reg :=
  if a < 0x100000000 ∨ 0x200000000 ≤ a then none else findReg (regsOfBlock (blockOf a)) a

/-- A word's value after reset. -/
def Reg.resetWord (r : Reg) (i : Nat) : Word :=
  wd (r.fields.foldl (fun acc f => acc + place (f.reset.at i) (f.fld.hi + 1 - f.fld.lo) f.fld.lo) 0)

/-- What the control word at an address holds after reset. -/
def cwReset (a : Nat) : Word :=
  match regOf a with
  | some r => r.resetWord (r.indexOf a)
  | none => 0

/-- The stored control word at an address. -/
def State.word (s : State) (a : Nat) : Word := tget cwReset s.cw a

def State.setWord (s : State) (a : Nat) (w : Word) : State := s.setCw (tset cwReset s.cw a w)

/-- The mask of a field. -/
def Fld.mask (f : Fld) : Word := wd (place (2 ^ 64 - 1) (f.hi + 1 - f.lo) f.lo)

/-- A field's value in a word. -/
def Fld.get (f : Fld) (w : Word) : Nat := bits w f.hi f.lo

/-- A word with a field set, the value cut to the field's width. -/
def Fld.put (f : Fld) (w : Word) (v : Nat) : Word := (w &&& ~~~ f.mask) ||| wd (place v (f.hi + 1 - f.lo) f.lo)

/-- Field `f` of entry `i`, unsigned. -/
def State.f (s : State) (f : Fld) (i : Nat := 0) : Nat := f.get (s.word (f.addr i))

/-- Field `f` of entry `i`, signed. -/
def State.fi (s : State) (f : Fld) (i : Nat := 0) : Int := sx (f.hi + 1 - f.lo) (s.f f i)

/-- Whether a one-bit field is 1. -/
def State.on (s : State) (f : Fld) (i : Nat := 0) : Bool := s.f f i != 0

def State.setF (s : State) (f : Fld) (i : Nat) (v : Nat) : State := s.setWord (f.addr i) (f.put (s.word (f.addr i)) v)

/-- A field set from an integer, two's complement. -/
def State.setFi (s : State) (f : Fld) (i : Nat) (v : Int) : State := s.setF f i (ux (f.hi + 1 - f.lo) v)

/-- A counter field moved up, saturating at its greatest value. -/
def State.incF (s : State) (f : Fld) (i : Nat) (n : Nat := 1) : State := s.setF f i (min (f.size - 1) (s.f f i + n))

/-! ### Event counters (R444, R445) -/

/-- Whether counter word `cfg` counts event `e` of token `t` (R444, R445). -/
def ecSelects (cfg : Word) (e : Nat) (t : Option Token) : Bool :=
  EC.CFG.EN.get cfg == 1 && EC.CFG.EVT.get cfg == e &&
  (match t with
   | none => true
   | some t =>
     (EC.CFG.QSRCEN.get cfg == 0 || EC.CFG.QSRC.get cfg == t.src.toNat) &&
     (EC.CFG.QSTREAMEN.get cfg == 0 || EC.CFG.QSTREAM.get cfg == t.stream.toNat) &&
     (EC.CFG.QKINDEN.get cfg == 0 || EC.CFG.QKIND.get cfg == t.kind.toNat))

/-- Counter `i` adds `n`, saturating at 2^48 − 1; saturation sets bit `i` of EC.STAT (R444). -/
def State.ecAdd (s : State) (i n : Nat) : State :=
  let v := s.f EC.COUNT.V i + n
  let s := s.setF EC.COUNT.V i (min (2 ^ 48 - 1) v)
  if 2 ^ 48 - 1 ≤ v then s.setWord EC.STAT.SAT.base (s.word EC.STAT.SAT.base ||| wd (2 ^ (i % 64))) else s

/-- The counters whose EC[i].CFG does not hold its reset value; no other counter is enabled. -/
def ecListed (cw : List (Nat × Word)) : List (Nat × Word) :=
  (cw.filter (fun p => decide (EC.CFG.EN.base ≤ p.1 ∧ p.1 < EC.CFG.EN.base + 0x400 ∧ (p.1 - EC.CFG.EN.base) % 0x10 = 0))).map
    (fun p => ((p.1 - EC.CFG.EN.base) / 0x10, p.2))

/-- `n` events `e` at one instant, of token `t` where the catalogue's event concerns one. -/
def State.event (s : State) (e : Nat) (t : Option Token := none) (n : Nat := 1) : State :=
  if s.f EC.CTRL.RUN = 0 then s
  else (ecListed s.cw).foldl (fun s p => if ecSelects p.2 e t then s.ecAdd p.1 n else s) s

/-! ### Error lines (R17, R431) -/

/-- A block asserts its error line: the raise waits for the Basin. -/
def State.raiseRec (s : State) (r : Raise) : State := s.setLines (s.lines ++ [r])

/-- The status word of the block that raises (R440, R443): DATA0 of a record of type 0x0001 where the raise names no other. -/
def State.blockStatus (s : State) (source unit src : Nat) : Word :=
  match source with
  | 1 => s.word TB.STAT.HOLD.base
  | 2 | 3 => s.word HK.STAT.HOLD.base
  | 4 => s.word PLAIN.STAT.CE.base
  | 5 => s.word DRAM.STAT.TRAINED.base
  | 6 => s.word (CORE.STAT.STATE.addr unit)
  | 7 => s.word (PG.STAT.TREF.addr unit)
  | 8 => s.word SADDLE.STAT.CUT.base
  | 9 => if 0x200 ≤ src ∧ src < 0x270 then s.word (SERVON.STAT.GATED.addr (src - 0x200)) else s.word SERVO.STAT.UNITFAIL.base
  | 11 => s.word (COL.STAT.LATE.addr unit)
  | 12 => s.word (QUEUE.STAT.DROP.addr unit)
  | 17 => s.word (ETH.STAT.LINK.addr unit)
  | 18 => s.word VCT.STAT.OPEN.base
  | 19 => s.word GORGE.STAT.VERR.base
  | 20 => s.word REPAIR.STAT.UNITFAIL.base
  | 21 => s.word BOOT.STAT.READY.base
  | 22 => s.word VAULT.STAT.LOST.base
  | 23 => s.word TB.STAT.HOLD.base
  | 25 => if src = 2 then s.word DALE.STAT.LOSS.base else s.word EC.STAT.SAT.base
  | _ => 0

/-- A raise of class `cls` from source `source`, with a record of type `rtype`. -/
def State.raise (s : State) (cls source : Nat) (unit : Nat := 0) (src : Nat := 0) (rtype : Nat := 1)
    (d0 : Word := 0) (d1 : Word := 0) : State :=
  s.raiseRec ⟨cls, source, rtype, unit, src, if rtype = 1 ∧ d0 = 0 then s.blockStatus source unit src else d0, d1, s.mt⟩

def State.critical (s : State) (source : Nat) (unit : Nat := 0) (src : Nat := 0) (d0 : Word := 0) : State :=
  s.raise 0 source unit src 1 d0
def State.severe (s : State) (source : Nat) (unit : Nat := 0) (src : Nat := 0) (d0 : Word := 0) : State :=
  s.raise 1 source unit src 1 d0
def State.warn (s : State) (source : Nat) (unit : Nat := 0) (src : Nat := 0) (d0 : Word := 0) : State :=
  s.raise 2 source unit src 1 d0
def State.info (s : State) (source : Nat) (unit : Nat := 0) (src : Nat := 0) (d0 : Word := 0) : State :=
  s.raise 3 source unit src 1 d0

/-! ### Memory (R75–R90) -/

/-- What a byte no entry names reads: 0 (R86 for the Plain; log entry 6 for the rest). -/
def memDefault (_ : Nat) : Byte := 0#8

/-- The canonical form of a memory. -/
def Memory.wf (m : List Host.Cell) : Bool := twf memDefault m

def State.byte (s : State) (a : Nat) : Byte := tget memDefault s.mem a

def State.setByte (s : State) (a : Nat) (b : Byte) : State := s.setMem (tset memDefault s.mem a b)

/-- The bytes at `a`, `n` of them, in ascending order. -/
def State.bytes (s : State) (a : Nat) : Nat → List Byte
  | 0 => []
  | n + 1 => s.byte a :: s.bytes (a + 1) n

def State.setBytes (s : State) (a : Nat) : List Byte → State
  | [] => s
  | b :: t => (s.setByte a b).setBytes (a + 1) t

/-- The 8-byte word at `a`, little-endian (R7). -/
def State.ld (s : State) (a : Nat) : Word := wd (leNat (s.bytes a 8))


/-- `n` words from `a`. -/
def State.lds (s : State) (a : Nat) : Nat → List Word
  | 0 => []
  | n + 1 => s.ld a :: s.lds (a + 8) n

/-- The error mark of the word at `a`. -/
def State.eccAt (s : State) (a : Nat) : Option EccMark := tget (fun _ => none) s.eccs (a / 8 * 8)

def State.setEcc (s : State) (a : Nat) (m : Option EccMark) : State :=
  s.setEccs (tset (fun _ => none) s.eccs (a / 8 * 8) m)

/-- A whole word is written; its error mark, if any, is cleared (R84). -/
def State.st (s : State) (a : Nat) (w : Word) : State := (s.setBytes a (leBytes 8 w.toNat)).setEcc a none

def State.sts (s : State) (a : Nat) : List Word → State
  | [] => s
  | w :: t => (s.st a w).sts (a + 8) t

/-- The regions of the device physical address map (R75); DRAM reaches as far as the installed capacity. -/
inductive Region where
  | plain | coreLocal (r : Nat) (data : Bool) | control | dram | reserved
deriving DecidableEq, Repr

/-- The installed DRAM in bytes (R413: DRAM.CFG.CAPG in GiB). -/
def State.dramBytes (s : State) : Nat := s.f DRAM.CFG.CAPG * 2 ^ 30

/-- The region of an address (R75, R88). -/
def State.region (s : State) (a : Nat) : Region :=
  if a < 0x3000000 then .plain
  else if 0x10000000 ≤ a ∧ a < 0x11200000 then
    let o := (a - 0x10000000) % 0x100000
    let r := (a - 0x10000000) / 0x100000
    if o < 0x10000 then .coreLocal r false else if o < 0x20000 then .coreLocal r true else .reserved
  else if 0x100000000 ≤ a ∧ a < 0x200000000 then .control
  else if 0x100000000000 ≤ a ∧ a < 0x100000000000 + s.dramBytes then .dram
  else .reserved

/-- Whether `n` bytes from `a` lie wholly in the Plain. -/
def inPlain (a n : Nat) : Bool := decide (a + n ≤ 0x3000000)

/-- Whether `n` bytes from `a` lie wholly in installed DRAM. -/
def State.inDram (s : State) (a n : Nat) : Bool :=
  decide (0x100000000000 ≤ a ∧ a + n ≤ 0x100000000000 + s.dramBytes)

/-- Whether any of the `n` words from `a` carries an uncorrectable error. -/
def State.anyUe (s : State) (a : Nat) : Nat → Bool
  | 0 => false
  | n + 1 => s.eccAt a == some .double || s.anyUe (a + 8) n

/-! ### Tokens (R34–R43) -/

/-- The sequence count of a built-in producer on one dest and stream (R34). -/
def seqKey (t : Token) : Nat := t.src.toNat * 2 ^ 18 + t.dest.toNat * 2 ^ 8 + t.stream.toNat

/-- A built-in producer sends a token: the network carries it with the producer's next seq (R34, R35, R40). -/
def State.send (s : State) (t : Token) : State :=
  let n := tget (fun _ => 0) s.seqs (seqKey t)
  (s.setNet (s.net ++ [{ t with seq := BitVec.ofNat 12 n }])).setSeqs
    (tset (fun _ => 0) s.seqs (seqKey t) ((n + 1) % 4096))

/-- A token's fields with flags all 0 but `last`. -/
def mkTok (src dest kind stream : Nat) (payload : Word) (last : Bool := true) : Token :=
  { time := 0, seq := 0, err := false, urgent := false, timed := false, last := last, kind := BitVec.ofNat 4 kind,
    stream := BitVec.ofNat 8 stream, src := BitVec.ofNat 10 src, dest := BitVec.ofNat 10 dest, payload := payload }


/-- The tokens of a message from one producer: the last carries flags.last (R38). -/
def State.sendMsg (s : State) (src dest kind stream : Nat) : List Word → State
  | [] => s
  | [w] => s.send (mkTok src dest kind stream w true)
  | w :: t => (s.send (mkTok src dest kind stream w false)).sendMsg src dest kind stream t

def kindRSP : Nat := 5
def kindCRED : Nat := 0xC
def kindSYNC : Nat := 0xF

/-- The payload of a refusal (R76). -/
def refusalPayload (seq kind code : Nat) : Word := wd (place seq 12 16 + place kind 4 8 + place code 8 0)

/-- Kinds that are never answered (R36). -/
def neverAnswered (t : Token) : Bool := t.kind == 5#4 || t.kind == 12#4 || t.kind == 15#4

/-- A token leaves the network: it is delivered to endpoint `ep` (R40, event 0x200 + ep of R444). -/
def State.deliver (s : State) (ep : Nat) (t : Token) : State :=
  (s.setNet (s.net.erase t)).event (0x200 + ep) (some t)

def State.deliverAll (s : State) (ep : Nat) (ts : List Token) : State := ts.foldl (fun s t => s.deliver ep t) s

/-- An endpoint absorbs a token without an answer: an RSP that carries flags.err raises an info-class event from source 24 (R36). -/
def State.absorb (s : State) (ep : Nat) (t : Token) : State :=
  if t.kind == 5#4 && t.err then s.info 24 0 ep else s

/-- The refusal of a token with a CODE: one RSP to its src, an info-class event; RSP, CRED and SYNC are absorbed (R36, R76). -/
def State.refuse (s : State) (ep : Nat) (t : Token) (code : Nat) : State :=
  if neverAnswered t then s.absorb ep t
  else (s.send { mkTok ep t.src.toNat kindRSP t.stream.toNat (refusalPayload t.seq.toNat t.kind.toNat code) with err := true }).info 24 0 ep

/-- The first token of a message that carries flags.err, which its refusal names (R38). -/
def errToken (toks : List Token) : Option Token := toks.find? (·.err)

/-- A normal response: one RSP with flags.last. -/
def State.respond (s : State) (ep : Nat) (t : Token) (payload : Word) : State :=
  s.send (mkTok ep t.src.toNat kindRSP t.stream.toNat payload)

/-- The resident firmware endpoints (R101). -/
def isResident (src : BitVec 10) : Bool :=
  (0x80#10 ≤ src && src ≤ 0x8F#10) || src == 5#10 || src == 7#10

/-- The endpoints marked resident only in R99 (control-word space is judged per block). -/
def residentOnly (ep : Nat) : Bool :=
  ep == 5 || ep == 7 || ep == 0xD || ep == 0x20 || ep == 0x21 || (0x60 ≤ ep && ep ≤ 0x7F) ||
  (0x80 ≤ ep && ep ≤ 0x8F && ep != 0x87 && ep != 0x8F) || (0x130 ≤ ep && ep ≤ 0x133) || ep == 0x14C || ep == 0x14D ||
  (0x150 ≤ ep && ep ≤ 0x19F) || (0x374 ≤ ep && ep ≤ 0x37B)

/-- The endpoints of spare roles, open to the boot and repair controller and resident firmware only (R100). -/
def spareRole (ep : Nat) : Bool :=
  ep == 0x30 || ep == 0x31 || ep == 0x58 || ep == 0x59 || ep == 0x12C || (0x100 ≤ ep && ep ≤ 0x10F)

/-- The warning-class status of R23 with its access-refused record. -/
def State.warnAccess (s : State) (ep : Nat) (src : BitVec 10) (addr : Nat) : State :=
  s.raise 2 6 0 ep 0xD (wd (place ep 10 16 + place src.toNat 10 0)) (wd addr)

/-- Whether endpoint `ep` takes a token from `src` at all (R100, R101). -/
def srcAllowed (ep : Nat) (src : BitVec 10) : Bool :=
  isResident src || !(residentOnly ep || spareRole ep)

/-- A message reaches endpoint `ep`: its tokens leave the network; where the endpoint is closed to the src it is refused with
CODE 0x03 (the resident-only endpoints also raise the warning of R23), and otherwise `act` says what the endpoint does. -/
def State.arrive (s : State) (ep : Nat) (ts : List Token) (act : State → State) : State :=
  match ts with
  | [] => s
  | t :: _ =>
    let s := s.deliverAll ep ts
    if srcAllowed ep t.src then act s
    else if neverAnswered t then s.absorb ep t
    else
      let s := s.refuse ep (ts.getLastD t) 3
      if residentOnly ep then s.warnAccess ep t.src 0 else s

/-- The instant of a timed token, full (R56). -/
def State.instant (s : State) (t : Token) : Nat := fullTime s.mt t.time

/-- A block that is not a col acts on a timed message at the first SYNC at or after its time (R57); an untimed message, or one whose
time has passed, acts at once. -/
def State.whenDue (s : State) (ts : List Token) (act : State → State) : State :=
  match ts with
  | [] => s
  | t :: _ =>
    if (t.timed && decide (0 < wdiff 48 t.time.toNat s.mt)) = true then s.setHeld (s.held ++ [ts]) else act s

/-! ### Machine time -/

/-- A command that acts at a stated instant of MT: MT has reached it (log entry 2). -/
def State.reach (s : State) (t : Nat) : State := s.setMt (max s.mt t)

/-! ### Free values -/

/-- A value the spec leaves open, and the state with the counter moved on (log entry 5). -/
def State.free (s : State) : Word × State := (Config.freeWord s.freeCtr, s.setFreeCtr (s.freeCtr + 1))

/-! ### Per-unit records -/

def State.queue (s : State) (n : Nat) : QueueSt := tget (fun _ => {}) s.queues n
def State.setQueue (s : State) (n : Nat) (q : QueueSt) : State := s.setQueues (tset (fun _ => {}) s.queues n q)
def State.col (s : State) (n : Nat) : Col := tget (fun _ => {}) s.cols n
def State.setCol (s : State) (n : Nat) (c : Col) : State := s.setCols (tset (fun _ => {}) s.cols n c)
def State.ht (s : State) (n : Nat) : HeadTime := tget (fun _ => {}) s.hts n
def State.setHt (s : State) (n : Nat) (h : HeadTime) : State := s.setHts (tset (fun _ => {}) s.hts n h)

/-! ### The Dale (R439–R443) -/


/-- Records in the ring (R439). -/
def State.daleFill (s : State) : Nat := (s.f DALE.PTR.WIDX + 16384 - s.f DALE.PTR.RIDX) % 16384

/-- Word 1 of a record (R440). -/
def daleWord1 (r : Raise) (real inj : Bool) (rseq : Nat) : Word :=
  wd (place 1 1 63 + place inj.toNat 1 62 + place real.toNat 1 61 + place r.cls 3 58 + place r.unit 5 53 + place r.source 5 48 +
      place r.rtype 16 32 + place (r.unit / 32) 6 26 + place r.src 10 16 + place rseq 16 0)

/-- The vault mirror takes a record unless it is frozen (R443, R457). -/
def State.mirrorRecord (s : State) (w : List Word) : State :=
  if s.f VAULT.STAT.MFRZ = 1 then s
  else
    let j := s.f VAULT.STAT.MNEXT
    let s := (List.range 4).foldl (fun s i => s.setF VAULT.MREC.V (4 * j + i) (w.getD i 0).toNat) s
    s.setF VAULT.STAT.MNEXT 0 ((j + 1) % 64)

/-- Whether the ring takes no record of this class now (R442). -/
def State.daleLoses (s : State) (cls : Nat) : Bool :=
  decide (8192 ≤ s.daleFill) || s.on DALE.CTRL.FREEZE || !s.on DALE.CFG.EN ||
  (cls != 7 && (s.f DALE.CFG.CMASK / 2 ^ cls) % 2 == 0)

/-- A record is written to the ring, or lost and counted, and reaches the mirror (R439–R443). -/
def State.daleRecord (s : State) (r : Raise) (real : Bool := true) (inj : Bool := false) : State :=
  let ws := [wd r.mt, daleWord1 r real inj s.dale.rseq, r.data0, r.data1]
  let lost := s.daleLoses r.cls
  let s := (s.setDale { s.dale with rseq := (s.dale.rseq + 1) % 65536 }).mirrorRecord ws
  if lost then
    let s := ((s.incF DALE.STAT.LOST 0).setF DALE.STAT.LOSS 0 1).event 0x601
    if 8192 ≤ s.daleFill ∧ s.dale.lossRaised = false then
      (s.setDale { s.dale with lossRaised := true }).warn 25 0 2
    else s
  else
    let k := s.f DALE.PTR.WIDX
    let s := s.sts (s.f DALE.BASE.V * 32 + 32 * (k % 8192)) ws
    ((s.setF DALE.PTR.WIDX 0 ((k + 1) % 16384)).setF DALE.STAT.FULL 0
      (if (k + 1 + 16384 - s.f DALE.PTR.RIDX) % 16384 = 8192 then 1 else 0)).event 0x600

/-- A record that a rule asks for without a raise: CLASS 7 (R440). -/
def State.record7 (s : State) (source rtype unit src : Nat) (d0 d1 : Word) (mt : Option Nat := none) : State :=
  s.daleRecord ⟨7, source, rtype, unit, src, d0, d1, mt.getD s.mt⟩

/-! ### Sequence checks (R44) -/

/-- The held pairs are kept latest first. The result says whether the token breaks the sequence, and gives the pairs after it. -/
def seqCheck (pairs : List (Nat × Nat)) (t : Token) : Bool × List (Nat × Nat) :=
  let k := t.src.toNat * 256 + t.stream.toNat
  let rest := pairs.filter (fun p => p.1 != k)
  let entry := (k, t.seq.toNat)
  match pairs.find? (fun p => p.1 == k) with
  | some p => (decide (t.seq.toNat ≠ (p.2 + 1) % 4096), entry :: rest)
  | none => (false, entry :: rest.take 15)

/-! ### Barriers and unacknowledged statuses (R28, R431) -/

/-- A critical-class or severe-class bit is set that counts as unacknowledged (R431). -/
def State.unacked (s : State) : Bool :=
  let st := s.word BASIN.STATUS.V.base
  let injOnly := s.word BASIN.INJD.V.base &&& ~~~ s.word BASIN.REAL.V.base
  if s.on BASIN.CFG.INJREACT then st != 0 else (st &&& ~~~ injOnly) != 0

/-- R28: what refuses a barrier. -/
def State.barrierBlocked (s : State) : Bool := s.unacked || s.basin.goff

/-! ### LGATE (R433) -/

/-- The driven level of LGATEn: the col's output AND both SAFE inputs AND NOT GOFF. -/
def State.lgate (s : State) (n : Nat) : Bool :=
  (s.col (24 + n)).level && s.basin.safeA && s.basin.safeB && !s.basin.goff

/-- The last driven level of LGATEn that the log knows at or before `t` (R237). -/
def gateLevelAt (l : List (Nat × Nat × Bool)) (n t : Nat) : Bool :=
  match l.find? (fun e => e.1 == n && decide (e.2.1 ≤ t)) with
  | some e => e.2.2
  | none => false

/-- The last rising edge of LGATEn at or before `t`. -/
def gateRiseAt (l : List (Nat × Nat × Bool)) (n t : Nat) : Option Nat :=
  (l.find? (fun e => e.1 == n && decide (e.2.1 ≤ t) && e.2.2)).map (fun e => e.2.1)

/-- Every LGATE pin whose driven level has changed is noted at MT; the log keeps its newest 512 edges. -/
def State.noteGates (s : State) : State :=
  s.setGateLog (((List.range 24).foldl (fun l n => if s.lgate n = gateLevelAt l n s.mt then l else (n, s.mt, s.lgate n) :: l) s.gateLog).take 512)

end Sys2Proof.Machine
end

