-- ==== Sys2Proof/Machine/Layer.lean ====
section
/-! DEFINITION. The instruction words of layer programs (R131–R139): decoding, the words of an instruction, and what an instruction does
to the modal state. -/

namespace Sys2Proof.Machine

open Sys2Proof

/-- Extension words of each CLASS and OP; none for a reserved one (R133–R138). NOP takes any number. -/
def layerExt (cls op : Nat) : Option Nat :=
  if cls = 0 then (if op = 0 ∨ op = 1 ∨ op = 4 ∨ op = 5 then some 1 else if op = 2 ∨ op = 3 then some 0 else none)
  else if cls = 1 then (if op ≤ 4 then some 0 else none)
  else if cls = 2 then (if op ≤ 2 then some 0 else none)
  else if cls = 3 then (if op ≤ 3 then some 0 else none)
  else if cls = 4 then (if op = 0 then some 1 else if op ≤ 2 then some 0 else none)
  else none

/-- A signed 24-bit operand within ±8,388,607. -/
def s24ok (v : Int) : Bool := decide (-8388607 ≤ v ∧ v ≤ 8388607)

/-- An instruction, or `bad` where a condition of R139 on its words fails. -/
def orBad (ok : Bool) (op : LOp) : LOp := if ok then op else .bad

/-- The instruction that a head word and its extension words spell (R132–R138). -/
def decodeLayer (h : Word) (ext : List Word) : LOp :=
  let cls := bits h 63 61
  let op := bits h 60 56
  let a := bits h 53 0
  let e := ext.getD 0 0
  let nop := decide (cls = 3 ∧ op = 0)
  if !(nop || layerExt cls op == some (bits h 55 54)) then .bad
  else if cls = 0 then
    let x := sbits e 31 0
    let y := sbits e 63 32
    let z := sbits h 23 0
    let zfree := bits h 52 24 == 0
    if op = 0 then orBad (zfree && s24ok z) (.jump (bit h 53) z x y)
    else if op = 1 then orBad (zfree && s24ok z) (.mark (bit h 53) z x y)
    else if op = 4 then orBad (bits h 53 24 == 0 && z != 0 && decide (z.natAbs ≤ 4194304)) (.arc z x y)
    else if op = 5 then orBad (a == 0) (.park x y)
    else
      let dx := sbits h 47 24
      let ok := bits h 53 48 == 0 && s24ok dx && s24ok z
      if op = 2 then orBad ok (.jumpr dx z) else orBad ok (.markr dx z)
  else if cls = 1 then
    if op = 0 then
      orBad (bits h 53 48 == 0 && bits h 15 0 == 0 && decide (bits h 47 32 ≤ 30000 ∧ bits h 31 16 ≤ 12000)) (.speed (bits h 47 32) (bits h 31 16))
    else if op = 1 then orBad (decide (a < 65536)) (.power a)
    else if op = 2 then orBad (bits h 53 24 == 0 && s24ok (sbits h 23 0)) (.focus (sbits h 23 0))
    else if op = 3 then orBad (bits h 53 32 == 0) (.ramp (bits h 31 16) (bits h 15 0))
    else orBad (decide (0 < a ∧ a < 65536)) (.gate a)
  else if cls = 2 then
    if op = 0 then orBad (bits h 53 50 == 0 && bits h 31 0 == 0 && decide (bits h 49 48 < 2)) (.own (bit h 48) (bits h 47 32))
    else if op = 1 then orBad (bits h 53 32 == 0) (.part a)
    else orBad (bits h 53 32 == 0) (.vid a)
  else if cls = 3 then
    if op = 0 then orBad (a == 0) .nop
    else if op = 1 then orBad (decide (1 ≤ a ∧ a ≤ 1000000)) (.dwell a)
    else if op = 2 then orBad (bits h 53 32 == 0) (.marker a)
    else orBad (a == 0) .lend
  else
    if op = 0 then
      let p := bits h 47 24
      let w := bits e 55 32
      orBad (bits h 52 48 == 0 && bits h 23 0 == 0 && bits e 63 56 == 0 && bits e 31 16 == 0 &&
        (!bit h 53 || decide (20000 ≤ p ∧ 100 ≤ w ∧ w + 2000 ≤ p))) (.trig (bit h 53) p w (bits e 15 0))
    else if op = 1 then orBad (decide (a < 4)) (.record a)
    else orBad (decide (a < 2)) (.look (bit h 0))

/-! ### The words of an instruction (R132) -/

/-- A head word. -/
def layerHead (cls op ext a : Nat) : Word := wd (place cls 3 61 + place op 5 56 + place ext 2 54 + place a 54 0)

/-- An extension word of a point. -/
def layerPoint (x y : Int) : Word := wd (place (ux 32 y) 32 32 + place (ux 32 x) 32 0)

/-- The words of an instruction, from the opcode tables of R133–R138. -/
def encodeLayer : LOp → List Word
  | .jump zv z x y => [layerHead 0 0 1 (place zv.toNat 1 53 + ux 24 z), layerPoint x y]
  | .mark zv z x y => [layerHead 0 1 1 (place zv.toNat 1 53 + ux 24 z), layerPoint x y]
  | .jumpr dx dy => [layerHead 0 2 0 (place (ux 24 dx) 24 24 + ux 24 dy)]
  | .markr dx dy => [layerHead 0 3 0 (place (ux 24 dx) 24 24 + ux 24 dy)]
  | .arc sw cx cy => [layerHead 0 4 1 (ux 24 sw), layerPoint cx cy]
  | .park x y => [layerHead 0 5 1 0, layerPoint x y]
  | .speed j m => [layerHead 1 0 0 (place j 16 32 + place m 16 16)]
  | .power p => [layerHead 1 1 0 p]
  | .focus z => [layerHead 1 2 0 (ux 24 z)]
  | .ramp on off => [layerHead 1 3 0 (place on 16 16 + place off 16 0)]
  | .gate g => [layerHead 1 4 0 g]
  | .own k f => [layerHead 2 0 0 (place k.toNat 1 48 + place f 16 32)]
  | .part p => [layerHead 2 1 0 p]
  | .vid v => [layerHead 2 2 0 v]
  | .nop => [layerHead 3 0 0 0]
  | .dwell t => [layerHead 3 1 0 t]
  | .marker m => [layerHead 3 2 0 m]
  | .lend => [layerHead 3 3 0 0]
  | .trig en p w e => [layerHead 4 0 1 (place en.toNat 1 53 + place p 24 24), wd (place w 24 32 + place e 16 0)]
  | .record l => [layerHead 4 1 0 l]
  | .look b => [layerHead 4 2 0 b.toNat]
  | .bad => [layerHead 7 0 0 0]

/-- The instructions whose operands lie in the ranges of the opcode tables. -/
def LOp.wf : LOp → Bool
  | .jump _ z x y | .mark _ z x y => s24ok z && decide (-2147483648 ≤ x ∧ x < 2147483648 ∧ -2147483648 ≤ y ∧ y < 2147483648)
  | .jumpr dx dy | .markr dx dy => s24ok dx && s24ok dy
  | .arc sw cx cy => sw != 0 && decide (sw.natAbs ≤ 4194304) &&
      decide (-2147483648 ≤ cx ∧ cx < 2147483648 ∧ -2147483648 ≤ cy ∧ cy < 2147483648)
  | .park x y => decide (-2147483648 ≤ x ∧ x < 2147483648 ∧ -2147483648 ≤ y ∧ y < 2147483648)
  | .speed j m => decide (j ≤ 30000 ∧ m ≤ 12000)
  | .power p => decide (p < 65536)
  | .focus z => s24ok z
  | .ramp on off => decide (on < 65536 ∧ off < 65536)
  | .gate g => decide (0 < g ∧ g < 65536)
  | .own _ f => decide (f < 65536)
  | .part p | .vid p | .marker p => decide (p < 4294967296)
  | .dwell t => decide (1 ≤ t ∧ t ≤ 1000000)
  | .trig en p w e => decide (p < 16777216 ∧ w < 16777216 ∧ e < 65536) && (!en || decide (20000 ≤ p ∧ 100 ≤ w ∧ w + 2000 ≤ p))
  | .record l => decide (l < 4)
  | .nop | .lend | .look _ => true
  | .bad => false

/-! ### Modal state (R134–R138) -/

/-- Whether an instruction is a vector (R132). -/
def LOp.isVector : LOp → Bool
  | .mark .. | .markr .. | .arc .. => true
  | _ => false

/-- What an instruction does to the modal state; a vector takes the modal VID and then increments it (R134). -/
def LOp.modal (op : LOp) (m : Modal) : Modal :=
  match op with
  | .mark .. | .markr .. | .arc .. => { m with vid := (m.vid + 1) % 2 ^ 32 }
  | .speed j s => { m with jspd := if j = 0 then m.jspd else j, mspd := if s = 0 then m.mspd else s }
  | .power p => { m with pwr := p }
  | .focus z => { m with focus := z }
  | .ramp on off => { m with ron := on, roff := off }
  | .gate g => { m with gtol := g }
  | .own k f => { m with keep := k, feather := f }
  | .part p => { m with part := p }
  | .vid v => { m with vid := v }
  | .trig en p w e => { m with trig := if en then some ⟨p, w, e⟩ else none }
  | .record l => { m with level := l }
  | .look b => { m with lookEn := b }
  | _ => m

end Sys2Proof.Machine
end

