-- ==== Sys2Proof/Machine/Kinematics.lean ====
section
/-! DEFINITION. Motion: fixed-point trigonometry, paths in the bed frame, and jerk-limited profiles (R166, R170, R172, R182). Path
positions are in 10^−16 wpu and times in ns, so that a speed of 1 mm/s, an acceleration of 10 m/s² and a jerk of 10^5 m/s³ are whole
numbers (log entry 21). -/

namespace Sys2Proof.Machine

open Sys2Proof

/-- `a / b` where the spec states no rounding: the quotient when exact, otherwise one of its two neighbours (log entry 20). -/
def openDiv (a b : Int) : Int := if a % b = 0 then a / b else if Config.roundUp a b then a / b + 1 else a / b

/-- Path units per wpu. -/
def unitWpu : Int := 10 ^ 16

/-- mm/s, 10 m/s² and 10^5 m/s³ in path units and ns. -/
def speedU (v : Nat) : Int := 2560000000000 * v
def accU (a : Nat) : Int := 25600000 * a
def jerkU (j : Nat) : Int := 256 * j

/-! ### Sine and cosine -/

/-- Partial sums of the alternating series: `n` further terms after `t`, the next with index `k`; 60 fractional bits. -/
def trigSeries (x2 : Int) : Nat → Nat → Int → Int
  | 0, _, t => t
  | n + 1, k, t => t + trigSeries x2 n (k + 2) (-(t * x2) / ((2 ^ 60 : Nat) * ((k + 1) * (k + 2) : Nat) : Int))

/-- Sine and cosine of an angle between 0 and a quarter turn, in radians with 60 fractional bits. -/
def sinRad (x : Int) : Int := trigSeries (x * x / (2 ^ 60 : Nat)) 14 1 x
def cosRad (x : Int) : Int := trigSeries (x * x / (2 ^ 60 : Nat)) 14 0 (2 ^ 60)

/-- The angle in radians, 60 fractional bits, of an angle in 2^−48 turn. -/
def radOf (a : Int) : Int := a * 7244019458077122842 / (2 ^ 48 : Nat)

/-- Cosine and sine, 60 fractional bits, of an angle in 2^−48 turn. -/
def cosSin (a : Int) : Int × Int :=
  let u := a % ((2 ^ 48 : Nat) : Int)
  let q := u / ((2 ^ 46 : Nat) : Int)
  let r := radOf (u % ((2 ^ 46 : Nat) : Int))
  let c := cosRad r
  let s := sinRad r
  if q = 0 then (c, s) else if q = 1 then (-s, c) else if q = 2 then (-c, -s) else (s, -c)

/-- The integer square root of an integer that is not negative. -/
def isqrtI (a : Int) : Int := (isqrt a.toNat : Int)

/-! ### Paths -/

/-- The length of a vector of wpu, in path units. -/
def hyp (dx dy : Int) : Int := isqrtI ((dx * dx + dy * dy) * unitWpu * unitWpu)

/-- A path's length: |Δ| for a line, radius × angle for an arc, |ΔZ| for a line that moves in Z alone. -/
def Geom.len (g : Geom) : Int :=
  match g with
  | .line a b => if a.x = b.x ∧ a.y = b.y then (b.z - a.z).natAbs * unitWpu else hyp (b.x - a.x) (b.y - a.y)
  | .arc cx cy sw a _ => hyp (a.x - cx) (a.y - cy) * sw.natAbs / (2 ^ 22 : Nat) * 7244019458077122842 / (2 ^ 60 : Nat)

/-- Position in 2^−24 wpu, velocity in path units per ns, acceleration in path units per ns². -/
structure PtK where
  x : Int := 0
  y : Int := 0
  z : Int := 0
  vx : Int := 0
  vy : Int := 0
  vz : Int := 0
  ax : Int := 0
  ay : Int := 0
  az : Int := 0
deriving DecidableEq, Repr

def fx24 : Int := 2 ^ 24

/-- The arc's radius vector at path position `s`, 60 fractional bits, and the sign of the sweep. -/
def arcRadius (cx cy sw : Int) (a : Pt) (len s : Int) : Int × Int :=
  let cs := cosSin (if len = 0 then 0 else sw * (2 ^ 26 : Nat) * s / len)
  ((a.x - cx) * cs.1 - (a.y - cy) * cs.2, (a.x - cx) * cs.2 + (a.y - cy) * cs.1)

/-- The planned point at path position `k`: along the path, and beyond its ends along the end tangents with focus held (R166, R172). -/
def Geom.at (g : Geom) (len : Int) (k : Kin) : PtK :=
  let s := clamp 0 len k.x
  let inside := decide (0 ≤ k.x ∧ k.x ≤ len)
  match g with
  | .line a b =>
    if len = 0 then { x := b.x * fx24, y := b.y * fx24, z := b.z * fx24 }
    else
      let m (d q : Int) : Int := d * q * unitWpu / len
      let dx := b.x - a.x
      let dy := b.y - a.y
      let dz := b.z - a.z
      { x := a.x * fx24 + dx * fx24 * k.x / len, y := a.y * fx24 + dy * fx24 * k.x / len, z := a.z * fx24 + dz * fx24 * s / len,
        vx := m dx k.v, vy := m dy k.v, vz := if inside then m dz k.v else 0,
        ax := m dx k.a, ay := m dy k.a, az := if inside then m dz k.a else 0 }
  | .arc cx cy sw a z1 =>
    let r := hyp (a.x - cx) (a.y - cy)
    if len = 0 ∨ r = 0 then { x := a.x * fx24, y := a.y * fx24, z := a.z * fx24 }
    else
      let one : Int := 2 ^ 60
      let rv := arcRadius cx cy sw a len s
      let sg := sgn sw
      let past := k.x - s
      let tx := -rv.2 * sg * unitWpu / one
      let ty := rv.1 * sg * unitWpu / one
      let along (t q : Int) : Int := t * q / r
      let cen (w : Int) : Int := if inside then -(w * unitWpu / one) * (k.v * k.v / r) / r else 0
      { x := cx * fx24 + rv.1 * fx24 / one + along tx (past * fx24 / unitWpu),
        y := cy * fx24 + rv.2 * fx24 / one + along ty (past * fx24 / unitWpu),
        z := a.z * fx24 + (z1 - a.z) * fx24 * s / len,
        vx := along tx k.v, vy := along ty k.v, vz := if inside then (z1 - a.z) * k.v * unitWpu / len else 0,
        ax := along tx k.a + cen rv.1, ay := along ty k.a + cen rv.2,
        az := if inside then (z1 - a.z) * k.a * unitWpu / len else 0 }

/-- A point of 2^−24 wpu in whole wpu. -/
def PtK.round (p : PtK) : Pt := ⟨openDiv p.x fx24, openDiv p.y fx24, openDiv p.z fx24⟩

/-- The point of a path at path position `x`. -/
def Geom.pt (g : Geom) (len x : Int) : Pt := (g.at len ⟨x, 0, 0⟩).round

/-- The end point of a path. -/
def Geom.endPt (g : Geom) (len : Int) : Pt :=
  match g with
  | .line _ b => b
  | .arc .. => g.pt len len

def Geom.startPt (g : Geom) : Pt :=
  match g with
  | .line a _ => a
  | .arc _ _ _ a _ => a

/-- The tangent at a path position, as a direction vector. -/
def Geom.tangent (g : Geom) (len x : Int) : Int × Int :=
  match g with
  | .line a b => (b.x - a.x, b.y - a.y)
  | .arc cx cy sw a _ =>
    let rv := arcRadius cx cy sw a len x
    (-rv.2 * sgn sw / (2 ^ 30 : Nat), rv.1 * sgn sw / (2 ^ 30 : Nat))

/-- Whether the angle between two directions is at most `phi`, in radians with 60 fractional bits (R167). -/
def angleAtMost (d e : Int × Int) (phi : Int) : Bool :=
  let dot := d.1 * e.1 + d.2 * e.2
  let cross : Int := (d.1 * e.2 - d.2 * e.1).natAbs
  if 7244019458077122842 / 4 ≤ phi then true
  else decide (0 ≤ dot ∧ cross * cosRad phi ≤ dot * sinRad phi)

/-- A path run backwards (R202). -/
def Geom.reverse (g : Geom) (len : Int) : Geom :=
  match g with
  | .line a b => .line b a
  | .arc cx cy sw a _ =>
    .arc cx cy (-sw) (g.endPt len) a.z

/-! ### Jerk-limited profiles -/

/-- The motion after `t` ns at jerk `j`. -/
def Kin.after (k : Kin) (j : Int) (t : Nat) : Kin :=
  { x := k.x + k.v * t + k.a * t * t / 2 + j * t * t * t / 6, v := k.v + k.a * t + j * t * t / 2, a := k.a + j * t }

/-- The motion after all of a list of phases. -/
def Kin.run (k : Kin) (l : List Phase) : Kin := l.foldl (fun k p => k.after p.j p.dur) k

/-- The motion at `t` ns into a list of phases; past the last it continues at its end speed. -/
def Kin.during (k : Kin) : List Phase → Nat → Kin
  | [], t => k.after 0 t
  | p :: l, t => if t ≤ p.dur then k.after p.j t else (k.after p.j p.dur).during l (t - p.dur)

/-- The least-time change of speed from (v, a) to (v1, 0) within acceleration A and jerk J. -/
def velRamp (v a v1 A J : Int) : List Phase :=
  if J ≤ 0 ∨ A ≤ 0 then []
  else
    let vz := v + a * (a.natAbs : Int) / (2 * J)
    let d : Int := if v1 < vz then -1 else 1
    let a0 := d * a
    let dv := d * (v1 - v)
    let peak := max a0 (min A (isqrtI (J * dv + a0 * a0 / 2)))
    let hold := if peak = A then max 0 ((dv - (2 * A * A - a0 * a0) / (2 * J)) / A) else 0
    [⟨((peak - a0) / J).toNat, d * J⟩, ⟨hold.toNat, 0⟩, ⟨(peak / J).toNat, -d * J⟩]

/-- The motion at the end of the least-time stop. -/
def Kin.stop (k : Kin) (A J : Int) : Kin := k.run (velRamp k.v k.a 0 A J)

/-- Where an axis that first reaches speed `vp` and then stops comes to rest. -/
def reachVia (k : Kin) (vp A J : Int) : Int :=
  let m := k.run (velRamp k.v k.a vp A J)
  ((⟨m.x, vp, 0⟩ : Kin).stop A J).x

/-- The greatest speed in `dir` up to `vmax` from which the stop does not pass `tgt`: one bit at a time. -/
def peakSpeed (k : Kin) (dir tgt A J vmax : Int) : Nat → Int → Int
  | 0, v => v
  | n + 1, v =>
    let c := v + (2 ^ n : Nat)
    if c ≤ vmax ∧ 0 ≤ dir * (tgt - reachVia k (dir * c) A J) then peakSpeed k dir tgt A J vmax n c
    else peakSpeed k dir tgt A J vmax n v

/-- The least-time profile to rest at `tgt` within V, A and J without the speed changing sign; none where there is no such profile
(R182). V is below 2^`n`. -/
def profileWith (n : Nat) (k : Kin) (tgt V A J : Int) : Option (List Phase) :=
  let dir := if k.v ≠ 0 then sgn k.v else if k.a ≠ 0 then sgn k.a else sgn (tgt - k.x)
  if dir = 0 then some []
  else if V ≤ 0 ∨ A ≤ 0 ∨ J ≤ 0 then none
  else if dir * (k.v + k.a * (k.a.natAbs : Int) / (2 * J)) < 0 ∨ dir * (tgt - (k.stop A J).x) < 0 then none
  else
    let vp := peakSpeed k dir tgt A J V n 0
    let up := velRamp k.v k.a (dir * vp) A J
    let rest := dir * (tgt - reachVia k (dir * vp) A J)
    let cruise := if vp ≤ 0 then 0 else rest / vp
    some (up ++ [⟨cruise.toNat, 0⟩] ++ velRamp (dir * vp) 0 0 A J)

/-- The same in the units of the bed. -/
def profileTo (k : Kin) (tgt V A J : Int) : Option (List Phase) := profileWith 60 k tgt V A J

/-- The duration of a list of phases. -/
def phasesDur (l : List Phase) : Nat := l.foldl (fun t p => t + p.dur) 0

/-- The limits of a jump along a path of `L` path units that moves focus by `dz` wpu: each of speed, acceleration and jerk is that of the
axis that needs the longest time (R170). -/
def jumpLimit (xy z : Int) (xyMoves : Bool) (L dz : Int) : Int :=
  let d := (dz.natAbs : Int) * unitWpu
  let zl := if d = 0 then 0 else z * L / d
  if !xyMoves then zl else if dz = 0 then xy else min xy zl

end Sys2Proof.Machine
end

