-- ==== Sys2Proof/Machine/CorrMap.lean ====
section
/-! DEFINITION. Correction maps and registration (R193–R200). -/

namespace Sys2Proof.Machine

open Sys2Proof

/-! ### The map image (R193) -/

/-- The words of an image that lies at `b`. -/
structure MapHead where
  id : Nat
  magic : Nat
  x0 : Int
  y0 : Int
  pitch : Nat
  zgain : Int
  zofs : Nat
deriving DecidableEq, Repr

def State.mapHead (s : State) (b : Nat) : MapHead :=
  { id := bits (s.ld b) 63 48, magic := bits (s.ld b) 31 0, y0 := sbits (s.ld (b + 8)) 63 32, x0 := sbits (s.ld (b + 8)) 31 0,
    pitch := bits (s.ld (b + 16)) 31 0, zgain := sbits (s.ld (b + 24)) 63 32, zofs := bits (s.ld (b + 24)) 23 0 }

/-- The address of node (i, j). -/
def nodeAddr (b i j : Nat) : Nat := b + 8 * (8 + 65 * j + i)

/-- The three values of a node: AX, AY and DZ. -/
def State.node (s : State) (b i j f : Nat) : Int :=
  let w := s.ld (nodeAddr b i j)
  if f = 0 then bits w 63 40 else if f = 1 then bits w 39 16 else sbits w 15 0

/-- The base of the active image of head `n`. -/
def State.mapBase (s : State) (n : Nat) : Nat := s.f SADDLEN.MAP.BASE n * 64

/-- The Jacobian determinant of cell (i, j) at its corner (a, b), for a, b in 0, 1 (R194). -/
def State.cellDet (s : State) (b i j ca cb : Nat) : Int :=
  let d (f : Nat) : Int × Int :=
    (s.node b (i + 1) (j + cb) f - s.node b i (j + cb) f, s.node b (i + ca) (j + 1) f - s.node b (i + ca) j f)
  (d 0).1 * (d 1).2 - (d 0).2 * (d 1).1

/-- Every determinant of the image has the sign of that at node (0, 0). -/
def State.detsOk (s : State) (b : Nat) : Bool :=
  let sg := sgn (s.cellDet b 0 0 0 0)
  sg != 0 && (List.range 64).all fun j => (List.range 64).all fun i =>
    sgn (s.cellDet b i j 0 0) == sg && sgn (s.cellDet b i j 1 0) == sg && sgn (s.cellDet b i j 0 1) == sg && sgn (s.cellDet b i j 1 1) == sg

/-- The conditions of R194's check. -/
def State.mapCheck (s : State) (b : Nat) : Bool :=
  let h := s.mapHead b
  let w (k : Nat) := s.ld (b + 8 * k)
  !s.anyUe b 4233 &&
  h.magic == 0x3150414D && bits (w 7) 31 0 == crc32 (s.bytes b 56 ++ s.bytes (b + 64) 33800) &&
  bits (w 0) 47 32 == 0 && bits (w 2) 63 32 == 0 && bits (w 3) 31 24 == 0 && w 4 == 0 && w 5 == 0 && w 6 == 0 && bits (w 7) 63 32 == 0 &&
  decide (2560 ≤ h.pitch ∧ h.pitch ≤ 16777216) &&
  decide (h.x0 + 64 * h.pitch < 2 ^ 31 ∧ h.y0 + 64 * h.pitch < 2 ^ 31) && s.detsOk b

/-! ### From the bed frame to codes (R195, R196) -/

/-- One commanded axis of a set-point: position code, VEL and ACC in the units of R174. -/
structure AxisCmd where
  pos : Int
  vel : Int
  acc : Int
deriving DecidableEq, Repr

/-- The set-point payload (R174); VEL and ACC saturate at the field range. -/
def AxisCmd.payload (c : AxisCmd) : Word :=
  wd (place (ux 24 c.pos) 24 40 + place (ux 24 (sat 24 c.vel)) 24 16 + place (ux 16 (sat 16 c.acc)) 16 0)

/-- The cell of a coordinate in 2^−24 wpu: its index, and the offset within it. -/
def cellOf (x x0 : Int) (pitch : Nat) : Nat × Int :=
  let r := x - x0 * fx24
  let d := (pitch : Int) * fx24
  let i := clamp 0 63 (r / d)
  (i.toNat, r - i * d)

/-- Bilinear interpolation of value `f` at offset (fx, fy) in cell (i, j), as numerator over (PITCH × 2^24)². -/
def State.bilinear (s : State) (b i j : Nat) (d fx fy : Int) (f : Nat) : Int :=
  (d - fx) * (d - fy) * s.node b i j f + fx * (d - fy) * s.node b (i + 1) j f + (d - fx) * fy * s.node b i (j + 1) f +
  fx * fy * s.node b (i + 1) (j + 1) f

/-- The partial derivatives of R196, as numerators over 2 × PITCH. -/
def State.partials (s : State) (b i j f : Nat) : Int × Int :=
  ((s.node b (i + 1) j f - s.node b i j f) + (s.node b (i + 1) (j + 1) f - s.node b i (j + 1) f),
   (s.node b i (j + 1) f - s.node b i j f) + (s.node b (i + 1) (j + 1) f - s.node b (i + 1) j f))

/-- The words of the image that a conversion in cell (i, j) reads carry an uncorrectable error. -/
def State.cellPoisoned (s : State) (b i j : Nat) : Bool :=
  s.anyUe b 4 || s.anyUe (nodeAddr b i j) 2 || s.anyUe (nodeAddr b i (j + 1)) 2

/-- The conversion of a planned point of head `n` (R195, R196): X, Y, Z and whether POSZ was saturated; none where a word is poisoned. -/
def State.convert (s : State) (n : Nat) (p : PtK) : Option (AxisCmd × AxisCmd × AxisCmd × Bool) :=
  let b := s.mapBase n
  let h := s.mapHead b
  let cx := cellOf (p.x + s.fi SADDLEN.REG.DX n * fx24) h.x0 h.pitch
  let cy := cellOf (p.y + s.fi SADDLEN.REG.DY n * fx24) h.y0 h.pitch
  if s.cellPoisoned b cx.1 cy.1 then none
  else
    let d := (h.pitch : Int) * fx24
    let dd := (d * d).toNat
    let pos (f : Nat) : Int := rdiv (s.bilinear b cx.1 cy.1 d cx.2 cy.2 f) dd
    let der (f : Nat) (qx qy : Int) : Int := let q := s.partials b cx.1 cy.1 f; q.1 * qx + q.2 * qy
    let vel (f : Nat) : Int := rdiv (der f p.vx p.vy * 256) (2 * h.pitch * 10 ^ 13)
    let acc (f : Nat) : Int := rdiv (der f p.ax p.ay * 4096) (2 * h.pitch * 10 ^ 10)
    let zc := h.zofs + rdiv ((p.z * d * d + 64 * fx24 * s.bilinear b cx.1 cy.1 d cx.2 cy.2 2) * h.zgain) ((fx24 * 65536).toNat * dd)
    let zs := clamp 0 16777215 zc
    let zv := rdiv ((p.vz * 2 * h.pitch + 64 * der 2 p.vx p.vy) * h.zgain * 256) (2 * h.pitch * 65536 * 10 ^ 13)
    let za := rdiv ((p.az * 2 * h.pitch + 64 * der 2 p.ax p.ay) * h.zgain * 4096) (2 * h.pitch * 65536 * 10 ^ 10)
    some (⟨pos 0, vel 0, acc 0⟩, ⟨pos 1, vel 1, acc 1⟩, ⟨zs, zv, za⟩, decide (zs ≠ zc))

/-! ### Back to the bed frame (R197) -/

/-- One Newton step from (x, y), in 2^−24 wpu of the map's frame, towards codes (tx, ty) in 2^−4; none where a word is poisoned. -/
def State.newton (s : State) (b : Nat) (h : MapHead) (tx ty : Int) (p : Int × Int) : Option (Int × Int) :=
  let cx := cellOf p.1 h.x0 h.pitch
  let cy := cellOf p.2 h.y0 h.pitch
  if s.cellPoisoned b cx.1 cy.1 then none
  else
    let d := (h.pitch : Int) * fx24
    let n (i j f : Nat) := s.node b (cx.1 + i) (cy.1 + j) f
    let res (f : Nat) (t : Int) : Int := t * (d * d) / 16 - s.bilinear b cx.1 cy.1 d cx.2 cy.2 f
    let du (f : Nat) : Int := (d - cy.2) * (n 1 0 f - n 0 0 f) + cy.2 * (n 1 1 f - n 0 1 f)
    let dv (f : Nat) : Int := (d - cx.2) * (n 0 1 f - n 0 0 f) + cx.2 * (n 1 1 f - n 1 0 f)
    let det := du 0 * dv 1 - dv 0 * du 1
    if det = 0 then some p
    else some (p.1 + (res 0 tx * dv 1 - dv 0 * res 1 ty) / det, p.2 + (du 0 * res 1 ty - res 0 tx * du 1) / det)

/-- At most `k` Newton steps. -/
def State.newtonRun (s : State) (b : Nat) (h : MapHead) (tx ty : Int) : Nat → Int × Int → Option (Int × Int)
  | 0, p => some p
  | k + 1, p => match s.newton b h tx ty p with
    | none => none
    | some q => if q = p then some p else s.newtonRun b h tx ty k q

/-- A measured pair of head `n` mapped back to the bed frame from the planned point (px, py) in 2^−24 wpu (R197); none where a word is
poisoned or no map is active. -/
def State.mapBack (s : State) (n : Nat) (sx sy : AxSample) (px py : Int) : Option Meas :=
  let b := s.mapBase n
  let h := s.mapHead b
  let dx := s.fi SADDLEN.REG.DX n * fx24
  let dy := s.fi SADDLEN.REG.DY n * fx24
  if !s.on SADDLEN.MAP.VALID n || h.pitch == 0 then none
  else match s.newtonRun b h sx.y16 sy.y16 4 (px + dx, py + dy) with
    | none => none
    | some q =>
      let cx := cellOf q.1 h.x0 h.pitch
      let cy := cellOf q.2 h.y0 h.pitch
      if s.cellPoisoned b cx.1 cy.1 then none
      else
        let j0 := s.partials b cx.1 cy.1 0
        let j1 := s.partials b cx.1 cy.1 1
        let det := j0.1 * j1.2 - j0.2 * j1.1
        let k : Int := 2 * h.pitch * 10 ^ 13 / 256
        let v (a : Int) : Int := if det = 0 then 0 else a * k / det
        some { stamp := sx.stamp, x := q.1 - dx, y := q.2 - dy, vx := v (sx.vel * j1.2 - j0.2 * sy.vel), vy := v (j0.1 * sy.vel - sx.vel * j1.1) }

/-! ### The field (R198) -/

/-- The field of head `n` in the bed frame, with the REG in force: (xmin, xmax, ymin, ymax) in wpu. -/
def State.field (s : State) (n : Nat) : Int × Int × Int × Int :=
  let h := s.mapHead (s.mapBase n)
  let dx := s.fi SADDLEN.REG.DX n
  let dy := s.fi SADDLEN.REG.DY n
  (h.x0 + 1280 - dx, h.x0 + 64 * h.pitch - 1280 - dx, h.y0 + 1280 - dy, h.y0 + 64 * h.pitch - 1280 - dy)

/-- Whether a point lies in the field of head `n`. -/
def State.inField (s : State) (n : Nat) (p : Pt) : Bool :=
  let f := s.field n
  s.on SADDLEN.MAP.VALID n && decide (f.1 ≤ p.x ∧ p.x ≤ f.2.1 ∧ f.2.2.1 ≤ p.y ∧ p.y ≤ f.2.2.2)

/-! ### Checking and swapping (R194, R199) -/

def State.mapSt (s : State) (n : Nat) : MapSt := tget (fun _ => {}) s.maps n
def State.setMapSt (s : State) (n : Nat) (m : MapSt) : State := s.setMaps (tset (fun _ => {}) s.maps n m)

/-- What refuses a write of MAPNEXT: an image not wholly in the Plain; WHEN 0b11 is out of the field's range (R194, R221). -/
def mapNextCheck (n : Nat) (new : State) : Option Nat :=
  if new.f SADDLEN.MAPNEXT.WHEN n ≠ 0 ∧ !inPlain (new.f SADDLEN.MAPNEXT.BASE n * 64) 33864 then some 8 else none

/-- A write of MAPNEXT: a non-zero WHEN starts a new check, 0b00 cancels a pending swap (R194, R199). `at` is the CWW's time. -/
def mapNextEffect (n : Nat) (at_ : Nat) (s : State) : State :=
  let s := (s.setF SADDLEN.MAPNEXT.OK n 0).setF SADDLEN.MAPNEXT.FAIL n 0
  s.setMapSt n (if s.f SADDLEN.MAPNEXT.WHEN n = 0 then {} else { checking := true, notBefore := at_ })

/-- The check of head n's MAPNEXT image ends (R194). -/
def mapCheckDone (n : Nat) (s : State) : State :=
  if (s.mapSt n).checking then
    let s := s.setMapSt n { s.mapSt n with checking := false }
    if s.mapCheck (s.f SADDLEN.MAPNEXT.BASE n * 64) then s.setF SADDLEN.MAPNEXT.OK n 1
    else (((s.setF SADDLEN.MAPNEXT.FAIL n 1).setF SADDLEN.MAPNEXT.WHEN n 0).setF SADDLE.STAT.MAPERR 0 1).warn 8 n 8
  else s

/-- The swap itself: MAP takes MAPID and BASE, MAPNEXT returns to 0, an info-class event is raised (R199). -/
def mapTake (n : Nat) (s : State) : State :=
  let b := s.f SADDLEN.MAPNEXT.BASE n
  let s := ((s.setF SADDLEN.MAP.MAPID n (s.mapHead (b * 64)).id).setF SADDLEN.MAP.BASE n b).setF SADDLEN.MAP.VALID n 1
  ((s.setWord (SADDLEN.MAPNEXT.OK.addr n) 0).setMapSt n {}).info 8 n 8

/-! ### Registration (R200, R315) -/

/-- One axis of REG moves toward NREG by at most 1,280 wpu. -/
def regStepAxis (cur goal : Int) : Int := cur + clamp (-1280) 1280 (goal - cur)

/-- HSTAT.REGPEND reads 1 until REG equals NREG (R200). -/
def regPend (n : Nat) (s : State) : State :=
  s.setF SADDLEN.HSTAT.REGPEND n (if s.word (SADDLEN.REG.DX.addr n) = s.word (SADDLEN.NREG.DX.addr n) then 0 else 1)

/-- At a barrier REG moves toward NREG, with a reg-step record where it changes (R200, R315). -/
def regStep (n layer : Nat) (s : State) : State :=
  let ox := s.fi SADDLEN.REG.DX n
  let oy := s.fi SADDLEN.REG.DY n
  let nx := regStepAxis ox (s.fi SADDLEN.NREG.DX n)
  let ny := regStepAxis oy (s.fi SADDLEN.NREG.DY n)
  if nx = ox ∧ ny = oy then s
  else
    let s := regPend n ((s.setFi SADDLEN.REG.DX n nx).setFi SADDLEN.REG.DY n ny)
    s.record7 8 7 n 8 (s.word (SADDLEN.REG.DX.addr n)) (wd (place layer 32 32 + place (ux 16 (ny - oy)) 16 16 + place (ux 16 (nx - ox)) 16 0))

/-! ### The commands -/

/-- MAP_CHECK_DONE (R194). -/
def execMapCheckDone (n : Fin 24) (s : State) : Host.Outcome State Fault Refusal := .next (mapCheckDone n s)

end Sys2Proof.Machine
end

