-- ==== Sys2Proof/Machine/Operands.lean ====
section
/-! DEFINITION. The payload layouts of the tokens several blocks take: memory requests (R77), control-word requests (R93), pin actions
(R63) and trigger-col commands (R71). -/

namespace Sys2Proof.Machine

open Sys2Proof

/-- A memory request header (R77). -/
structure MemHead where
  count : Nat     -- words
  byteen : Nat
  addr : Nat
  op : Nat
  ack : Bool
deriving DecidableEq, Repr

def memHead (p : Word) : MemHead :=
  { count := bits p 63 56 + 1, byteen := bits p 55 48, addr := bits p 47 3 * 8, op := bits p 2 1, ack := bit p 0 }

/-- The payload of an MRD of `count` words at `addr` (R77). -/
def mrdPayload (addr count : Nat) : Word := wd (place (count - 1) 8 56 + place (addr / 8) 45 3)

/-- The header of an MWR (R77). -/
def mwrPayload (addr count op : Nat) (ack : Bool) : Word :=
  wd (place (count - 1) 8 56 + place 255 8 48 + place (addr / 8) 45 3 + place op 2 1 + ack.toNat)

/-- A control-word address token: the address, and whether the token is well formed; bit 0 is ACK in a CWW (R93). -/
def cwAddr (p : Word) : Nat := bits p 47 3 * 8
def cwrFormed (p : Word) : Bool := bits p 63 48 == 0 && bits p 2 0 == 0
def cwwFormed (p : Word) : Bool := bits p 63 48 == 0 && bits p 2 1 == 0
def cwAck (p : Word) : Bool := bit p 0

/-- A pin action (R63). -/
structure PinAct where
  op : Nat
  fine1 : Nat
  fine2 : Nat
  width : Nat
  ident : Nat
deriving DecidableEq, Repr

def pinAct (p : Word) : PinAct :=
  { op := bits p 63 60, fine1 := bits p 59 58, fine2 := bits p 57 56, width := bits p 55 32, ident := bits p 31 0 }

/-- The payload of a pin action. -/
def pinPayload (op fine1 fine2 width ident : Nat) : Word :=
  wd (place op 4 60 + place fine1 2 58 + place fine2 2 56 + place width 24 32 + place ident 32 0)

/-- A command to an internal trigger col (R71). -/
structure TrigCmd where
  op : Nat
  target : Nat
  count : Nat
  period : Nat
deriving DecidableEq, Repr

def trigCmd (p : Word) : TrigCmd :=
  { op := bits p 63 60, target := bits p 59 50, count := bits p 49 32, period := bits p 31 0 }

end Sys2Proof.Machine
end

