-- ==== Sys2Proof/Machine/PathState.lean ====
section
/-! DEFINITION. What the path generators' families share: the planned position and power, window descriptors, the measured position along a
vector, process records and suspension (R143–R158, R172–R175, R207, R217, R316, R317). -/

namespace Sys2Proof.Machine

open Sys2Proof

/-! ### State of one path generator -/

def State.pg (s : State) (n : Nat) : PgSt := tget (fun _ => {}) s.pgs n
def State.setPg (s : State) (n : Nat) (q : PgSt) : State := s.setPgs (tset (fun _ => {}) s.pgs n q)

/-- JOB.STATE (R149). -/
def pgIDLE : Nat := 0
def pgARMED : Nat := 1
def pgRUN : Nat := 2
def pgENDED : Nat := 3
def pgPAUSING : Nat := 4
def pgSUSPENDED : Nat := 5
def pgRESUMING : Nat := 6
def pgABORTED : Nat := 7

def State.pgState (s : State) (n : Nat) : Nat := s.f PG.JOB.STATE n
def State.setPgState (s : State) (n st : Nat) : State := s.setF PG.JOB.STATE n st

/-- RUN, PAUSING or RESUMING: the states a suspension acts in (R155). -/
def State.pgRunning (s : State) (n : Nat) : Bool :=
  s.pgState n == pgRUN || s.pgState n == pgPAUSING || s.pgState n == pgRESUMING

/-- The endpoint of PGn. -/
def pgEp (n : Nat) : Nat := 0x40 + n

/-- The head's galvo, focus and power loop endpoints and its LGATE and CTRG cols (R99). -/
def galvoEp (n axis : Nat) : Nat := 0x200 + 3 * n + axis
def powerEp (n : Nat) : Nat := 0x248 + n
def lgateEp (n : Nat) : Nat := 0x300 + 24 + n
def ctrgEp (n : Nat) : Nat := 0x300 + 48 + n

/-- The servo period in force: the period of COL120's schedule (R167, R174). -/
def State.servoPeriod (s : State) : Nat :=
  match (s.col 120).sched with
  | some c => c.period
  | none => 0

/-- The first COL120 cycle instant at or after `t`. -/
def State.cycleFrom (s : State) (t : Nat) : Nat :=
  match (s.col 120).sched with
  | some c => if c.period = 0 ∨ t ≤ c.start then c.start else c.start + ((t - c.start + c.period - 1) / c.period) * c.period
  | none => t

/-! ### The planned motion -/

/-- The segment that holds instant `t`. -/
def segAt (l : List Seg) (t : Nat) : Option Seg := l.find? (fun g => decide (g.t0 ≤ t ∧ t < g.t0 + g.dur))

/-- The last segment that has ended at `t`. -/
def segBefore (l : List Seg) (t : Nat) : Option Seg := (l.filter (fun g => decide (g.t0 + g.dur ≤ t))).getLast?

/-- The motion along a segment's path at instant `t`. -/
def Seg.kinAt (g : Seg) (t : Nat) : Kin := g.k.after g.j (t - g.t0)

/-- The planned position and motion at instant `t`: along the segment, or held at the end of the one before it. -/
def PgSt.planned (q : PgSt) (t : Nat) : PtK :=
  match segAt q.segs t with
  | some g => g.geom.at g.len (g.kinAt t)
  | none => match segBefore q.segs t with
    | some g => g.geom.at g.len ⟨(g.k.after g.j g.dur).x, 0, 0⟩
    | none => { x := q.pos.x * fx24, y := q.pos.y * fx24, z := q.pos.z * fx24 }

/-- An axis moves along a segment at instant `t`; a dwell (TYPE 4) and a hold (TYPE 5) are rest (R161). -/
def PgSt.movingAt (q : PgSt) (t : Nat) : Bool :=
  match segAt q.segs t with
  | some g => g.typ != 4 && g.typ != 5
  | none => false

/-- An axis moves under tracking. -/
def PgSt.trkMoving (q : PgSt) : Bool := q.trk.any (fun p => p.2.k.v != 0 || p.2.k.a != 0)

/-- The vectors still planned or in execution. -/
def PgSt.vecs (q : PgSt) : List PVec := q.cur.toList ++ q.items.filterMap (fun i => i.vec)

/-- The vector a segment belongs to. -/
def PgSt.vecOf (q : PgSt) (g : Seg) : Option PVec :=
  q.vecs.find? (fun v => v.ofs == g.ofs && v.vid == g.vid && (g.chain == none || g.chain == some v.chain))

/-- The owner's share at path position `x` within a part (R205). -/
def Part.share (p : Part) (x : Int) : Int :=
  let a := (p.s0 + p.rise) * unitWpu
  let b := (p.s1 - p.fall) * unitWpu
  if 0 < p.rise ∧ x < a then 32768 - (a - x) * 32768 / (p.rise * unitWpu)
  else if 0 < p.fall ∧ b < x then (p.s1 * unitWpu - x) * 32768 / (p.fall * unitWpu)
  else 32768

/-- The part of a vector that holds path position `x`. -/
def PVec.partAt (v : PVec) (x : Int) : Option Part :=
  v.parts.find? (fun p => decide (p.s0 * unitWpu ≤ x ∧ x ≤ p.s1 * unitWpu))

/-- The ramp factor at path position `x` as a fraction (R135): RON and ROFF in µm, scaled to fit the length. -/
def PVec.ramp (v : PVec) (x : Int) : Int × Int :=
  let on0 : Int := v.ron * 256 * unitWpu
  let off0 : Int := v.roff * 256 * unitWpu
  let fit := decide (v.len < on0 + off0)
  let ron := if fit then on0 * v.len / (on0 + off0) else on0
  let roff := if fit then off0 * v.len / (on0 + off0) else off0
  if x < ron then (max 0 x, ron) else if v.len - roff < x then (max 0 (v.len - x), roff) else (1, 1)

/-- The power target of a vector at path position `x` (R175), saturating at 65,535. -/
def PVec.power (v : PVec) (x : Int) (pscale : Nat) : Nat :=
  match v.partAt x with
  | none => 0
  | some p =>
    let r := v.ramp x
    (min 65535 (openDiv (v.pwr * r.1 * p.share x * pscale) (r.2 * 32768 * 32768))).toNat

/-- The power target head `n` has at planned instant `t`. -/
def State.powerAt (s : State) (n t : Nat) : Nat :=
  let q := s.pg n
  match segAt q.segs t with
  | some g =>
    if g.typ = 2 ∧ g.emit then
      match q.vecOf g with
      | some v => v.power (g.kinAt t).x (s.f PG.CFG.PSCALE n)
      | none => 0
    else 0
  | none => 0

/-! ### Window descriptors (R143, R144) -/

structure Descr where
  addr : Nat
  layer : Nat
  len : Nat
  dur : Nat
  offset : Nat
  last : Bool
  done : Bool
  ready : Bool
  poisoned : Bool
deriving DecidableEq, Repr

/-- The address of descriptor `k`. -/
def State.descrAddr (s : State) (n k : Nat) : Nat := s.f PG.WRING.BASE n * 32 + 32 * k

/-- Descriptors in the ring. -/
def State.ringSize (s : State) (n : Nat) : Nat := 2 ^ s.f PG.WRING.LOG2N n

def State.descr (s : State) (n k : Nat) : Descr :=
  let a := s.descrAddr n k
  { addr := bits (s.ld a) 47 3 * 8, layer := bits (s.ld (a + 8)) 63 32, len := bits (s.ld (a + 8)) 31 0,
    dur := bits (s.ld (a + 16)) 63 32, offset := bits (s.ld (a + 16)) 31 0,
    last := bit (s.ld (a + 24)) 2, done := bit (s.ld (a + 24)) 1, ready := bit (s.ld (a + 24)) 0, poisoned := s.anyUe a 4 }

/-- A descriptor the path generator may use: READY 1, no word poisoned (R144). -/
def Descr.usable (d : Descr) : Bool := d.ready && !d.poisoned

/-- The window is marked done: word 3 with READY 0 and DONE 1. -/
def State.windowDone (s : State) (n k : Nat) : State :=
  let a := s.descrAddr n k + 24
  s.st a (s.ld a &&& 0xFFFFFFFFFFFFFFFC#64 ||| 2#64)

/-- Time spent executing the window at XIDX. -/
def State.spent (s : State) (n : Nat) : Nat :=
  let q := s.pg n
  q.winSpent + (match q.winStart with | some t => s.mt - t | none => 0)

/-- The remaining DUR of the window in execution, in µs (R146). -/
def State.remaining (s : State) (n : Nat) : Nat := (s.descr n (s.f PG.WPOS.XIDX n)).dur - s.spent n / 1000

/-- The DUR of the further ready descriptors in ring order from `k`, at most `m` of them. -/
def State.readyDur (s : State) (n : Nat) : Nat → Nat → Nat
  | 0, _ => 0
  | m + 1, k =>
    let d := s.descr n (k % s.ringSize n)
    if d.usable && !d.done then d.dur + s.readyDur n m (k + 1) else 0

/-- The window lead (R146). -/
def State.lead (s : State) (n : Nat) : Nat := s.remaining n + s.readyDur n (s.ringSize n - 1) (s.f PG.WPOS.XIDX n + 1)

/-! ### The measured position along a vector (R175, R176) -/

/-- Projection of a point in 2^−24 wpu onto a path, from the estimate `x`: `k` refinements. -/
def Geom.project (g : Geom) (len px py : Int) : Nat → Int → Int
  | 0, x => x
  | k + 1, x =>
    let p := g.at len ⟨x, unitWpu, 0⟩
    g.project len px py k (x + (p.vx * (px - p.x) + p.vy * (py - p.y)) / fx24)

/-- Path position, lateral error in wpu, and tangential speed of a measurement against a vector. -/
def PVec.measure (v : PVec) (m : Meas) (x : Int) : Int × Nat × Int :=
  let sm := v.geom.project v.len m.x m.y 4 x
  let p := v.geom.at v.len ⟨sm, unitWpu, 0⟩
  (sm, ((p.vx * (m.y - p.y) - p.vy * (m.x - p.x)) / (unitWpu * fx24)).natAbs, (m.vx * p.vx + m.vy * p.vy) / unitWpu)

/-- The measured path position at `t`: the latest sample carried on at its speed (log entry 22); the planned one without a sample. -/
def PgSt.measuredAt (q : PgSt) (v : PVec) (t : Nat) : Int :=
  let planned := match segAt q.segs t with
    | some g => (g.kinAt t).x
    | none => 0
  match q.meas.head? with
  | some m => let r := v.measure m planned; r.1 + r.2.2 * (t - m.stamp)
  | none => planned

/-! ### Process records (R316, R317) -/

/-- `a / b`, 0 when nothing was summed. -/
def meanOf (a : Int) (b : Nat) : Int := if b = 0 then 0 else openDiv a b

/-- The words of a process record. -/
def recordWords (n layer level : Nat) (a : PartAcc) (toff : Nat) (s1 : Int) (ctrim1 edge : Nat) (noemit : Bool) : List Word :=
  let v := a.vec
  let rm := v.remelt.getD (0, 0)
  let fl := a.flags + (if v.keep then 2 ^ 9 else 0) + (if v.shared then 1 else 0) + (if noemit then 2 ^ 8 else 0)
  let one := [wd (place v.vid 32 32 + place layer 32 0), wd (place v.part 32 32 + place v.ofs 32 0),
    wd (place (if noemit then 0 else a.ton) 48 16 + place fl 16 0), wd (place toff 48 16 + place n 8 8 + place level 8 0),
    wd (place (ux 32 s1) 32 32 + place (ux 32 a.s0) 32 0), wd (place (ux 32 rm.2) 32 32 + place (ux 32 rm.1) 32 0)]
  let mean (x : Int) : Nat := ux 16 (meanOf x a.npair)
  let none0 (x : Int) : Nat := if a.npair = 0 then 0 else ux 16 x
  let two := [wd (place (mean a.usum) 16 48 + place (none0 a.umin) 16 32 + place a.umax 16 16 + place (mean a.tsum) 16 0),
    wd (place (mean a.esum) 16 48 + place a.emax 16 32 + place (mean a.rsum) 16 16 + place a.rmax 16 0),
    wd (place (mean a.csum) 16 48 + place (none0 a.clo) 16 32 + place (none0 a.chi) 16 16 + place (min 65535 a.nsat) 16 0),
    wd (place a.ctrim0 16 48 + place ctrim1 16 32 + place a.latMax 32 0)]
  let three := [wd (place a.tfirst 48 16 + place a.nexp 16 0), wd (place edge 32 32 + place a.npair 32 0)]
  one ++ (if 2 ≤ level then two else []) ++ (if 3 ≤ level then three else [])

/-- A record joins the unsent ones, or is discarded and counted when 8 wait (R316). -/
def State.queueRecord (s : State) (n : Nat) (ws : List Word) : State :=
  let q := s.pg n
  if q.recQ.length < 8 then s.setPg n { q with recQ := q.recQ ++ [ws] }
  else ((s.setF PG.PREC.DROP 0 1).incF PG.PRDROP.V 0).info 7 n (pgEp n)

/-- The emission of a part ends at `toff` at path position `x`: its record is formed (R316, R317). -/
def State.closePart (s : State) (n toff : Nat) (x : Int) (flags edge : Nat) : State :=
  let q := s.pg n
  match q.acc with
  | none => s
  | some a =>
    let a := { a with flags := a.flags ||| flags }
    let s := s.setPg n { q with acc := none }
    if s.on PG.PREC.EN ∧ a.vec.level ≠ 0 then
      s.queueRecord n (recordWords n (s.f PG.JOB.LAYER n) a.vec.level a toff (x / unitWpu) (s.f SERVO.RULE.STAT.CTRIM n) edge false)
    else s

/-- The record of a vector that emitted nothing (R316). -/
def State.noEmitRecord (s : State) (n : Nat) (v : PVec) : State :=
  if s.on PG.PREC.EN ∧ v.level ≠ 0 then
    s.queueRecord n (recordWords n (s.f PG.JOB.LAYER n) v.level { ton := 0, vec := v, s0 := 0 } 0 0 0 0 true)
  else s

/-- A claimed part that its head begins to melt no longer reopens (R207). -/
def SharedSet.begin (t : SharedSet) (n vid : Nat) (x : Int) : SharedSet :=
  if t.first.vid = vid then { t with claims := t.claims.filter (fun c => c.1 != n || c.2.s0 * unitWpu != x) } else t

/-- The flags a part has from its start: FEATHIN, FEATHOUT, CUT, REMELT and RESUMED (R317). -/
def PVec.partFlags (v : PVec) (x : Int) : Nat :=
  match v.partAt x with
  | none => 0
  | some p =>
    (if 0 < p.rise then 2 else 0) + (if 0 < p.fall then 4 else 0) +
    (if v.cut ∧ (v.parts.getLast?).map (·.s1) = some p.s1 then 8 else 0) +
    (if v.remelt.any (fun r => r.1 == p.s0) then 32 + 1024 else 0)

/-- Emission begins at `ton` at path position `x`. -/
def State.openPart (s : State) (n ton : Nat) (v : PVec) (x : Int) (flags : Nat) : State :=
  let s := s.setSets (s.sets.map (fun t => t.begin n v.vid x))
  s.setPg n { s.pg n with acc := some { ton := ton, vec := v, s0 := x / unitWpu, flags := flags + v.partFlags x, ctrim0 := s.f SERVO.RULE.STAT.CTRIM n } }

/-! ### Tokens a path generator sends -/

/-- The time of a gate edge at `t4`, in units of 250 ps: whole ns and FINE1 (R176). -/
def gateToken (n op t4 vid : Nat) : Token :=
  (mkTok (pgEp n) (lgateEp n) 0xE 0 (pinPayload op (t4 % 4) 0 0 vid)).at (t4 / 4)

/-- A gate-off at MT `t` (R178, R179). -/
def State.gateOff (s : State) (n t vid : Nat) : State := s.send (gateToken n 0 (4 * t) vid)

/-! ### The stop ramp (R172) -/

/-- Segments of constant jerk along a path, from motion `k` at `t`. -/
def phaseSegs (mk : Nat → Nat → Kin → Int → Seg) : List Phase → Nat → Kin → List Seg
  | [], _, _ => []
  | p :: l, t, k =>
    let rest := phaseSegs mk l (t + p.dur) (k.after p.j p.dur)
    if p.dur = 0 then rest else mk t p.dur k p.j :: rest

/-- The acceleration and jerk limits along a path that moves focus by `dz` wpu over `len`. -/
def State.pathLimits (s : State) (n : Nat) (len dz : Int) : Int × Int :=
  (jumpLimit (accU (s.f PG.LIMV.AMAX n)) (accU (s.f PG.LIMZ.AZ n)) true len dz,
   jumpLimit (jerkU (s.f PG.LIMV.JMAX n)) (jerkU (s.f PG.LIMZ.JZ n)) true len dz)

/-- The focus travel of a path. -/
def Geom.dz (g : Geom) : Int :=
  match g with
  | .line a b => b.z - a.z
  | .arc _ _ _ a z1 => z1 - a.z

/-- The planned motion ends in a stop ramp that starts at the first cycle instant for which no set-point has been sent; later segments
are dropped. A path at rest there stays at rest. -/
def State.stopRamp (s : State) (n : Nat) : State :=
  let q := s.pg n
  let t := max s.mt (if q.spSent then s.cycleFrom (q.spLast + 1) else s.mt)
  let keep := q.segs.filter (fun g => decide (g.t0 < t))
  match segAt q.segs t with
  | none => s.setPg n { q with segs := keep, pos := (q.planned t).round, tEnd := t }
  | some g =>
    let k := g.kinAt t
    let lim := s.pathLimits n g.len g.geom.dz
    let ph := velRamp k.v k.a 0 lim.1 lim.2
    let stop := phaseSegs (fun t d k j => { t0 := t, dur := d, typ := 6, vid := g.vid, ofs := g.ofs, geom := g.geom, len := g.len, k := k, j := j, com := true }) ph t k
    let cut := keep.map (fun h => if t < h.t0 + h.dur then { h with dur := t - h.t0 } else h)
    let ends := g.geom.at g.len ⟨(k.run ph).x, 0, 0⟩
    s.setPg n { q with segs := cut ++ stop, pos := ends.round, tEnd := t + phasesDur ph }

/-! ### Suspension (R149, R151, R155, R207, R217) -/

/-- A part put back among the open ones, with its feather intervals unchanged. -/
def Part.toOpen (p : Part) (hout tout typ : Nat) : OpenPart := ⟨p.s0, p.s1, p.rise, p.fall, hout, tout, typ⟩

/-- A head's claimed parts that it has not begun to melt reopen; the vector in which emission stopped stays with it (R207). -/
def SharedSet.reopen (t : SharedSet) (n : Nat) (keepVid : Option Nat) (mt : Nat) : SharedSet :=
  if !t.decided.contains n || keepVid == some t.first.vid then t
  else
    let mine := (t.claims.filter (fun c => c.1 == n)).map (fun c => c.2.toOpen n mt 3)
    { t with opens := t.opens ++ mine, claims := t.claims.filter (fun c => c.1 != n), decided := t.decided.erase n }

/-- A look that head `n` makes, or that observes it, is cancelled (R217). -/
def State.cancelLooks (s : State) (n : Nat) : State :=
  (List.range 24).foldl (fun s m =>
    match (s.pg m).look with
    | some l => if m = n ∨ l.ha = n then
        ((s.setPg m { s.pg m with look := none }).setF SADDLE.STAT.LOOKCUT 0 1).setF SADDLEN.HSTAT.LOOKING m 0 else s
    | none => s) s

/-- The vector in execution at MT, when the planned motion lies within it. -/
def State.inVector (s : State) (n : Nat) : Option PVec :=
  let q := s.pg n
  match segAt q.segs s.mt, q.cur with
  | some g, some v => if g.typ = 2 ∧ g.ofs = v.ofs ∧ g.vid = v.vid then some v else none
  | _, _ => none

/-- The instruction at EOFS is still in progress at MT. -/
def State.inProgress (s : State) (n : Nat) : Bool := decide (s.mt < (s.pg n).opEnd)

/-- The offset a suspension records: the instruction in progress, or the next one once it has ended. -/
def State.suspOfs (s : State) (n : Nat) : Nat :=
  if s.inProgress n then s.f PG.WPOS.EOFS n
  else match (s.pg n).items.head? with
    | some i => i.ofs
    | none => (s.pg n).decOfs

/-- The modal state kept with that offset. -/
def State.suspModal (s : State) (n : Nat) : Modal := if s.inProgress n then (s.pg n).mb else (s.pg n).modal

/-- Execution has left the windows before `k`: each is marked done, and XIDX moves on (R144). -/
def State.windowTo (s : State) (n k : Nat) : Nat → State
  | 0 => s
  | m + 1 =>
    let x := s.f PG.WPOS.XIDX n
    if x = k then s
    else
      let s := (s.windowDone n x).setF PG.WPOS.XIDX n ((x + 1) % s.ringSize n)
      (s.setPg n { s.pg n with winSpent := 0, winStart := some s.mt }).windowTo n k m

/-- Once the instruction in execution has ended, the windows before the next instruction's are done. -/
def State.leaveWindows (s : State) (n : Nat) : State :=
  if s.inProgress n then s
  else match (s.pg n).items.head? with
    | some i => s.windowTo n i.win 64
    | none => s.windowTo n (s.f PG.WPOS.RIDX n) 64

/-- A vector in progress is counted again when it is executed again. -/
def State.uncount (s : State) (n : Nat) : State :=
  let q := s.pg n
  if s.inProgress n && q.cur.isSome then s.setPg n { q with vectors := q.vectors - 1 } else s

/-- Suspension at MT with a cause, an offset and DIST in wpu: SUSP, SUSPV, the Dale record, the notice; planning is rewound to the
offset, whose instruction keeps the modal state it had before it (`modal`). -/
def State.suspend (s : State) (n cause ofs vid dist : Nat) (modal : Modal) : State :=
  let s := s.leaveWindows n
  let q := s.pg n
  let spent := s.spent n
  let s := s.setSets (s.sets.map (fun t => t.reopen n (if dist = 0 then none else some vid) s.mt))
  let s := s.cancelLooks n
  let q := { s.pg n with
    items := [], edges := [], sched := none, pause := none, gateHigh := false, dwellEnd := none, modal := modal, pm := modal, openVec := none,
    decided := [], bad := false, decEnd := false, resumeAt := none, winSpent := spent, winStart := none,
    cur := if dist = 0 then none else q.cur, opEnd := 0, decOfs := ofs }
  let s := s.setPg n q
  let s := ((s.setF PG.SUSP.OFS n ofs).setF PG.SUSP.CAUSE n cause).setF PG.SUSPV.DIST n dist
  let s := (s.setF PG.SUSPV.VID n (if dist = 0 then 0 else vid)).setPgState n pgSUSPENDED
  let s := s.record7 7 3 n (pgEp n) (s.word (PG.SUSP.OFS.addr n)) (s.word (PG.SUSPV.VID.addr n))
  s.send (mkTok (pgEp n) q.notify 0 1 (s.word (PG.SUSP.OFS.addr n)))

/-- A suspension in the middle of motion (R155): emission stops, DIST is the measured path position there, the axes run a stop ramp. -/
def State.suspendNow (s : State) (n cause : Nat) (stop : Nat) : State :=
  if !s.pgRunning n then s
  else
    let q := s.pg n
    let modal := s.suspModal n
    let ofs := s.suspOfs n
    match s.inVector n with
    | some v =>
      let x := q.measuredAt v stop
      let dist := if q.gateHigh then (max 0 (x / unitWpu)).toNat else 0
      let s := if q.gateHigh then (s.gateOff n stop v.vid).closePart n stop x 16 0 else s
      ((s.uncount n).stopRamp n).suspend n cause ofs v.vid dist modal
    | none => ((s.uncount n).stopRamp n).suspend n cause ofs 0 0 modal

/-- The class reactions of R432 on every path generator: cause 0x4 for critical, 0x6 for severe; a path generator whose own LGATE col
faulted at this instant has already recorded cause 0x5. -/
def State.suspendAll (s : State) (cause : Nat) : State :=
  (List.range 26).foldl (fun s n => s.suspendNow n cause s.mt) s

/-! ### Commands a path generator turns away -/

/-- A command or barrier not permitted in the present state: JOB.REFUSED and an info-class event (R150, R152). -/
def State.pgRefused (s : State) (n : Nat) : State := (s.setF PG.JOB.REFUSED n 1).info 7 n (pgEp n)

end Sys2Proof.Machine
end

