-- ==== Sys2Proof/Machine/Plan.lean ====
section
/-! DEFINITION. Decoding ahead and planning: windows, the job frame, the checks of planning, joints, run-ins and run-outs, jumps, and the
segment table (R131, R139, R145, R160–R173, R198). -/

namespace Sys2Proof.Machine

open Sys2Proof

/-! ### The job frame and the limits (R163, R164, R198) -/

/-- A job-frame point in the bed frame. -/
def State.toBed (s : State) (n : Nat) (x y : Int) : Int × Int :=
  let ax := s.f PG.CFG.AXES n
  let u := if ax % 2 = 1 then -x else x
  let w := if ax / 2 % 2 = 1 then -y else y
  let ox := s.fi PG.FRAME.ORIGX n
  let oy := s.fi PG.FRAME.ORIGY n
  if ax / 4 % 2 = 1 then (ox + w, oy + u) else (ox + u, oy + w)

/-- A job-frame displacement in the bed frame: as a point, without the origin. -/
def State.toBedRel (s : State) (n : Nat) (x y : Int) : Int × Int :=
  let p := s.toBed n x y
  (p.1 - s.fi PG.FRAME.ORIGX n, p.2 - s.fi PG.FRAME.ORIGY n)

/-- Whether a bed-frame coordinate fits the 32-bit signed range. -/
def in32 (v : Int) : Bool := decide (-2147483648 ≤ v ∧ v ≤ 2147483647)

/-- The soft limits as (min, max) of axis 0, 1 or 2. -/
def State.soft (s : State) (n axis : Nat) : Int × Int :=
  if axis = 0 then (s.fi PG.SOFTX.XMIN n, s.fi PG.SOFTX.XMAX n)
  else if axis = 1 then (s.fi PG.SOFTY.YMIN n, s.fi PG.SOFTY.YMAX n)
  else (s.fi PG.SOFTZ.ZMIN n, s.fi PG.SOFTZ.ZMAX n)

/-- A point within the soft limits of all axes. -/
def State.softOk (s : State) (n : Nat) (p : Pt) : Bool :=
  let a := s.soft n 0
  let b := s.soft n 1
  let c := s.soft n 2
  decide (a.1 ≤ p.x ∧ p.x ≤ a.2 ∧ b.1 ≤ p.y ∧ p.y ≤ b.2 ∧ c.1 ≤ p.z ∧ p.z ≤ c.2)

/-- A planned position that both checks admit. -/
def State.posOk (s : State) (n : Nat) (p : Pt) : Bool := s.softOk n p && s.inField n p

/-- The points of a path that bound it: its ends and, for an arc, the points where it runs along an axis. -/
def Geom.bounds (g : Geom) (len : Int) : List Pt :=
  match g with
  | .line a b => [a, b]
  | .arc cx cy _ a _ =>
    let r := (hyp (a.x - cx) (a.y - cy) + unitWpu - 1) / unitWpu
    let piece (k : Nat) : List Pt :=
      let t := g.tangent len (len * k / 16)
      let u := g.tangent len (len * (k + 1) / 16)
      let p := g.pt len (len * k / 16)
      (if t.1 * u.1 < 0 then [⟨cx, if cy < p.y then cy + r else cy - r, p.z⟩] else []) ++
      (if t.2 * u.2 < 0 then [⟨if cx < p.x then cx + r else cx - r, cy, p.z⟩] else [])
    [a, g.endPt len] ++ (List.range 16).flatMap piece

/-! ### Heads and candidates (R201) -/

/-- A head is armed while its path generator is between ARM and the end of its job. -/
def State.armed (s : State) (n : Nat) : Bool := s.pgState n != pgIDLE && s.pgState n != pgABORTED

/-- Whether the field of head `n` contains a point of a path, looked for at 256 places along it and at its bounding points. -/
def State.fieldTouches (s : State) (n : Nat) (g : Geom) (len : Int) : Bool :=
  (g.bounds len).any (s.inField n) || (List.range 257).any (fun k => s.inField n (g.pt len (len * k / 256)))

/-- The candidates of a path: every armed head whose field contains a point of it. -/
def State.candidates (s : State) (g : Geom) (len : Int) : List Nat :=
  (List.range 24).filter (fun n => s.armed n && s.fieldTouches n g len)

/-! ### Pieces of motion -/

/-- ARUNe: the smaller of LIMR.ARUN and LIMV.AMAX (R166). -/
def State.arun (s : State) (n : Nat) : Int := accU (min (s.f PG.LIMR.ARUN n) (s.f PG.LIMV.AMAX n))

/-- The length of a run-in or run-out at MSPD. -/
def State.runLen (s : State) (n mspd : Nat) : Int := speedU mspd * speedU mspd / (2 * s.arun n)

/-- The duration of a run-in or run-out. -/
def State.runDur (s : State) (n mspd : Nat) : Nat := (openDiv (speedU mspd) (s.arun n)).toNat

/-- The run-in of a vector that starts at path position `x`. -/
def State.runIn (s : State) (n : Nat) (v : PVec) (x : Int) (t typ : Nat) : Seg :=
  { t0 := t, dur := s.runDur n v.mspd, typ := typ, vid := v.vid, ofs := v.ofs, geom := v.geom, len := v.len,
    k := ⟨x - s.runLen n v.mspd, 0, s.arun n⟩, chain := some v.chain }

/-- The run-out after path position `x`. -/
def State.runOut (s : State) (n : Nat) (v : PVec) (x : Int) (t : Nat) : Seg :=
  { t0 := t, dur := s.runDur n v.mspd, typ := 3, vid := (v.vid + 1) % 2 ^ 32, ofs := v.ofs, geom := v.geom, len := v.len,
    k := ⟨x, speedU v.mspd, -s.arun n⟩, chain := some v.chain }

/-- The point from which a run-in to path position `x` starts, and at which a run-out from it ends. -/
def State.runInPt (s : State) (n : Nat) (v : PVec) (x : Int) : Pt := v.geom.pt v.len (x - s.runLen n v.mspd)
def State.runOutPt (s : State) (n : Nat) (v : PVec) (x : Int) : Pt := v.geom.pt v.len (x + s.runLen n v.mspd)

/-- The constant-speed stretch of a vector from `x0` to `x1`. -/
def vecSeg (v : PVec) (x0 x1 : Int) (t : Nat) (emit remelt saddle : Bool) : Seg :=
  { t0 := t, dur := (openDiv (x1 - x0) (speedU v.mspd)).toNat, typ := 2, emit := emit, remelt := remelt, saddle := saddle, vid := v.vid,
    ofs := v.ofs, geom := v.geom, len := v.len, k := ⟨x0, speedU v.mspd, 0⟩, chain := some v.chain }

/-- The speed of a jump: JSPD clamped to VJUMP; a jump the path generator makes on its own at JSPD 0 takes 1,000 mm/s (R165, R170). -/
def State.jumpSpeed (s : State) (n jspd : Nat) : Nat := min (if jspd = 0 then 1000 else jspd) (s.f PG.LIMV.VJUMP n)

/-- The segments of a jump from `a` to `b` at instant `t`, and its end (R170). -/
def State.jump (s : State) (n : Nat) (a b : Pt) (jspd t typ vid ofs : Nat) (chain : Option Nat) : List Seg × Nat :=
  let g : Geom := .line a b
  let len := g.len
  if len = 0 then ([], t)
  else
    let xy := decide (a.x ≠ b.x ∨ a.y ≠ b.y)
    let dz := b.z - a.z
    let vz := s.f PG.LIMZ.VZ n
    let ph := (profileTo {} len (jumpLimit (speedU (s.jumpSpeed n jspd)) (speedU vz) xy len dz)
      (jumpLimit (accU (s.f PG.LIMV.AMAX n)) (accU (s.f PG.LIMZ.AZ n)) xy len dz)
      (jumpLimit (jerkU (s.f PG.LIMV.JMAX n)) (jerkU (s.f PG.LIMZ.JZ n)) xy len dz)).getD []
    let lim := decide (s.f PG.LIMV.VJUMP n < jspd)
    (phaseSegs (fun t d k j => { t0 := t, dur := d, typ := typ, limit := lim, vid := vid, ofs := ofs, geom := g, len := len, k := k, j := j, chain := chain }) ph t {},
     t + phasesDur ph)

/-! ### The planner -/

/-- Motion that starts from rest is planned at least 2,500 µs ahead and not before the head may move (R160, R199). -/
def State.planStart (s : State) (n : Nat) : Nat :=
  let q := s.pg n
  max q.tEnd (max q.notBefore (s.mt + 2500000))

/-- An error at an instruction already planned: what follows it is dropped. -/
def State.markError (s : State) (n ofs : Nat) : State :=
  let q := s.pg n
  let before := q.items.takeWhile (fun i => i.ofs != ofs)
  match q.items.find? (fun i => i.ofs == ofs) with
  | none => s
  | some i => s.setPg n { q with items := before ++ [{ i with err := true, vec := none }], decEnd := true, openVec := none,
                                 segs := q.segs.filter (fun g => g.com || decide (g.t0 < i.t0)) }

/-- A vector that no other joins is followed by a run-out; its end point is checked (R164, R166). A planned chain ends there. -/
def State.closeVec (s : State) (n : Nat) : State :=
  let q := s.pg n
  match q.openVec with
  | none => s
  | some v =>
    let p := s.runOutPt n v v.len
    if !(s.posOk n p || v.shared) then s.markError n v.ofs
    else s.setPg n { q with openVec := none, segs := q.segs ++ [s.runOut n v v.len q.tEnd], pos := p,
                            tEnd := q.tEnd + s.runDur n v.mspd, chain := q.chain + 1 }

/-- An instruction error found while planning stops decoding; it acts when execution reaches the instruction (R139). -/
def State.planError (s : State) (n : Nat) (ofs : Nat) (op : LOp) : State :=
  let s := s.closeVec n
  let q := s.pg n
  let t := q.tEnd
  s.setPg n { q with decEnd := true, items := q.items ++
    [{ ofs := ofs, win := s.f PG.WPOS.RIDX n, op := op, err := true, pmBefore := q.pm, pmAfter := q.pm, posBefore := q.pos, t0 := t, t1 := t }] }

/-- The jumps planned for the next chain that no vector follows belong to none (R209). -/
def State.freeJumps (s : State) (n : Nat) : State :=
  let q := s.pg n
  s.setPg n { q with segs := q.segs.map (fun g => if g.chain = some q.chain ∧ g.typ = 0 then { g with chain := none } else g) }

/-- The planned item of an instruction joins the list. -/
def State.addItem (s : State) (n ofs : Nat) (op : LOp) (m0 m1 : Modal) (p0 : Pt) (v : Option PVec) (t0 t1 : Nat) : State :=
  let q := s.pg n
  s.setPg n { q with pm := m1, items := q.items ++
    [{ ofs := ofs, win := s.f PG.WPOS.RIDX n, op := op, pmBefore := m0, pmAfter := m1, posBefore := p0, vec := v, t0 := t0, t1 := t1 }] }

/-- A jump to `b`: checked against the limits, planned from rest; the clamp of JSPD is counted when it is planned (R165). -/
def State.planJump (s : State) (n ofs : Nat) (op : LOp) (b : Pt) : State :=
  let s := (s.closeVec n).freeJumps n
  let q := s.pg n
  if q.pm.jspd = 0 ∨ !in32 b.x ∨ !in32 b.y ∨ !s.posOk n b then s.planError n ofs op
  else
    let clamped := decide (s.f PG.LIMV.VJUMP n < q.pm.jspd)
    let s := if clamped then (s.setF PG.STAT.CLAMP n 1).incF PG.LIMCNT.CLAMPS n else s
    let t := s.planStart n
    let r := s.jump n q.pos b q.pm.jspd t 0 q.pm.vid ofs (some q.chain)
    let s := s.setPg n { s.pg n with segs := q.segs ++ r.1, pos := b, tEnd := r.2 }
    s.addItem n ofs op q.pm (op.modal q.pm) q.pos none t r.2

/-- The joint test of R167 between the open vector and the next. -/
def State.joins (s : State) (n : Nat) (u v : PVec) : Bool :=
  let p := s.servoPeriod
  let d := u.geom.tangent u.len u.len
  let e := v.geom.tangent v.len 0
  u.mspd == v.mspd &&
  angleAtMost d e (radOf (s.f PG.LIMR.CORNTOL n * 2 ^ 32)) && s.f PG.LIMR.CORNTOL n != 0 &&
  angleAtMost d e (accU (s.f PG.LIMV.AMAX n) * p * (2 ^ 60 : Nat) / speedU (max 1 v.mspd))

/-- What R165, R168 and R169 refuse of a vector at planning. -/
def State.vecRefused (s : State) (n : Nat) (v : PVec) : Bool :=
  let p := s.servoPeriod
  let dz := v.geom.dz
  let vz := (dz.natAbs : Int) * unitWpu * speedU v.mspd / max 1 v.len
  v.mspd == 0 || decide (s.f PG.LIMV.VMARK n < v.mspd) ||
  (match v.geom with
   | .line .. => false
   | .arc cx cy _ a _ => decide (accU (s.f PG.LIMV.AMAX n) * hyp (a.x - cx) (a.y - cy) < speedU v.mspd * speedU v.mspd)) ||
  (v.len != 0 && decide (speedU (s.f PG.LIMZ.VZ n) < vz ∨ accU (s.f PG.LIMZ.AZ n) * p < vz))

/-- A vector that is not joined to the one before: a jump to its run-in start, its run-in, and the vector. -/
def State.planCorner (n ofs : Nat) (op : LOp) (v : PVec) (s : State) : State :=
  let q := s.pg n
  let m := q.pm
  let start := s.runInPt n v 0
  if q.decEnd then s
  else if !(s.posOk n start || v.shared) then s.planError n ofs op
  else
    let t := s.planStart n
    let r := s.jump n q.pos start m.jspd t 0 v.vid ofs (some q.chain)
    let v := { v with chain := q.chain, t0 := r.2 + s.runDur n v.mspd }
    let g := vecSeg v 0 v.len v.t0 (v.pwr != 0) false false
    let s := s.setPg n { q with segs := q.segs ++ r.1 ++ [s.runIn n v 0 r.2 1, g], openVec := some v,
                                pos := v.geom.endPt v.len, tEnd := v.t0 + g.dur }
    s.addItem n ofs op m (op.modal m) q.pos (some v) t (v.t0 + g.dur)

/-- The vector in which emission stopped, taken up again at the re-melt start (R157): a jump to the run-up point, the run-up, and the rest of
the vector; the re-melt interval and what the head owned beyond it are its parts. -/
def State.planResume (s : State) (n ofs : Nat) (op : LOp) (v old : PVec) (x : Int) : State :=
  let q := s.pg n
  let dist : Int := s.f PG.SUSPV.DIST n
  let parts := (old.parts.filter (fun p => x < p.s1)).map (fun p => if p.s0 < x then { p with s0 := x, rise := 0 } else p)
  let x0 := x * unitWpu
  let start := s.runInPt n v x0
  if !s.posOk n start then s.planError n ofs op
  else
    let t := s.planStart n
    let r := s.jump n q.pos start q.pm.jspd t 0 v.vid ofs (some q.chain)
    let v := { v with chain := q.chain, t0 := r.2 + s.runDur n v.mspd, parts := parts, remelt := some (x, dist), shared := old.shared }
    let g := { vecSeg v x0 v.len v.t0 (v.pwr != 0) true false with remelt := true }
    let m := q.pm
    let s := s.setPg n { q with segs := q.segs ++ r.1 ++ [s.runIn n v x0 r.2 7, g], openVec := some v, resumeAt := none,
                                pos := v.geom.endPt v.len, tEnd := v.t0 + g.dur }
    s.addItem n ofs op m (op.modal m) q.pos (some v) t (v.t0 + g.dur)

/-- A vector: its checks, its joint with the open vector, or the corner jump and run-in before it (R164–R169). -/
def State.planVector (s : State) (n ofs : Nat) (op : LOp) (g : Geom) : State :=
  let q := s.pg n
  let m := q.pm
  let len := g.len
  let cands := if m.keep then [n] else s.candidates g len
  let shared := decide (1 < (cands.filter (· != n)).length + 1)
  let v : PVec := {
    vid := m.vid, part := m.part, ofs := ofs, geom := g, len := len, mspd := m.mspd, pwr := m.pwr, ron := m.ron, roff := m.roff,
    gtol := m.gtol, keep := m.keep, feather := m.feather, level := m.level, lookEn := m.lookEn, parts := [⟨0, len / unitWpu, 0, 0⟩],
    chain := q.chain, shared := shared }
  let zOnly := match g with | .line a b => decide (a.x = b.x ∧ a.y = b.y) | .arc .. => false
  let outside := (g.bounds len).any (fun p => !(s.softOk n p) || !in32 p.x || !in32 p.y) ||
    (!shared && (g.bounds len).any (fun p => !s.inField n p))
  if s.vecRefused n v || outside then s.planError n ofs op
  else if len == 0 || zOnly then s.addItem n ofs op m (op.modal m) q.pos (some { v with parts := [], t0 := q.tEnd }) q.tEnd q.tEnd
  else
    match q.resumeAt, q.cur with
    | some x, some old => s.planResume n ofs op v old x
    | _, _ =>
    match q.openVec with
    | some u =>
      if s.joins n u v then
        let v := { v with t0 := q.tEnd, joinPrev := true, chain := u.chain }
        let g := vecSeg v 0 len q.tEnd (m.pwr != 0) false false
        let s := s.setPg n { q with segs := q.segs ++ [g], openVec := some v, pos := v.geom.endPt len, tEnd := q.tEnd + g.dur }
        s.addItem n ofs op m (op.modal m) q.pos (some v) v.t0 (v.t0 + g.dur)
      else State.planCorner n ofs op v (s.closeVec n)
    | none => State.planCorner n ofs op v s

/-- One instruction is planned (R160): the checks of R139, R145 and R163–R169, its segments, and the modal state after it. -/
def State.planOp (s : State) (n ofs : Nat) (op : LOp) (lastWindow lastInstr : Bool) : State :=
  let q := s.pg n
  let at_ (z x y : Int) : Pt := let p := s.toBed n x y; ⟨p.1, p.2, z⟩
  let rel (dx dy : Int) : Pt := let p := s.toBedRel n dx dy; ⟨q.pos.x + p.1, q.pos.y + p.2, q.pm.focus⟩
  match op with
  | .bad => s.planError n ofs op
  | .jump zv z x y => s.planJump n ofs op (at_ (if zv then z else q.pm.focus) x y)
  | .jumpr dx dy => s.planJump n ofs op (rel dx dy)
  | .mark zv z x y => s.planVector n ofs op (.line q.pos (at_ (if zv then z else q.pm.focus) x y))
  | .markr dx dy => s.planVector n ofs op (.line q.pos (rel dx dy))
  | .arc sw cx cy =>
    let c := at_ 0 cx cy
    let mirrored := decide ((s.f PG.CFG.AXES n % 2 + s.f PG.CFG.AXES n / 2 % 2 + s.f PG.CFG.AXES n / 4 % 2) % 2 = 1)
    if c.x = q.pos.x ∧ c.y = q.pos.y then s.planError n ofs op
    else s.planVector n ofs op (.arc c.x c.y (if mirrored then -sw else sw) q.pos q.pm.focus)
  | .park x y =>
    let p := at_ 0 x y
    if !in32 p.x || !in32 p.y then s.planError n ofs op
    else s.addItem n ofs op q.pm { q.pm with parkX := p.x, parkY := p.y } q.pos none q.tEnd q.tEnd
  | .dwell t =>
    let s := (s.closeVec n).freeJumps n
    let q' := s.pg n
    if q'.decEnd then s
    else
      let t0 := s.planStart n
      let g : Seg := { t0 := t0, dur := t * 1000, typ := 4, vid := q'.pm.vid, ofs := ofs, geom := .line q'.pos q'.pos, len := 0, k := {} }
      let s := s.setPg n { q' with segs := q'.segs ++ [g], tEnd := t0 + t * 1000 }
      s.addItem n ofs op q'.pm q'.pm q'.pos none t0 (t0 + t * 1000)
  | .marker _ =>
    let s := (s.closeVec n).freeJumps n
    let q' := s.pg n
    if q'.decEnd then s else s.addItem n ofs op q'.pm q'.pm q'.pos none q'.tEnd q'.tEnd
  | .lend =>
    if !(lastWindow && lastInstr) then s.planError n ofs op
    else
      let s := (s.closeVec n).freeJumps n
      let q' := s.pg n
      if q'.decEnd then s
      else
        let park : Pt := ⟨q'.pm.parkX, q'.pm.parkY, q'.pm.parkZ⟩
        let t := s.planStart n
        let r := s.jump n q'.pos park q'.pm.jspd t 8 q'.pm.vid ofs none
        let s := s.setPg n { q' with segs := q'.segs ++ r.1, pos := park, tEnd := r.2, decEnd := true }
        s.addItem n ofs op q'.pm q'.pm q'.pos none t r.2
  | .speed j m =>
    let s := if op.modal q.pm != q.pm then (s.closeVec n).freeJumps n else s
    let q' := s.pg n
    if q'.decEnd then s else s.addItem n ofs (.speed j m) q'.pm (op.modal q'.pm) q'.pos none q'.tEnd q'.tEnd
  | _ => s.addItem n ofs op q.pm (op.modal q.pm) q.pos none q.tEnd q.tEnd

/-- The checks of a descriptor before its first instruction is decoded (R145). -/
def State.windowBad (s : State) (n : Nat) (d : Descr) : Bool :=
  d.layer != s.f PG.JOB.LAYER n || d.len < 8 || 1048576 < d.len || d.len % 8 != 0 || !inPlain d.addr d.len

/-- The decoder takes the next instruction from the window at RIDX, or moves on to the next window when this one is used up (R131,
R144, R145). A descriptor that is not READY, or poisoned, yields none. -/
def planStep (n : Nat) (s : State) : State :=
  let k := s.f PG.WPOS.RIDX n
  let d := s.descr n k
  let q0 := s.pg n
  let q := if q0.decNew ∧ d.usable then { q0 with decNew := false, decOfs := d.offset } else q0
  let s := s.setPg n q
  if !(s.pgRunning n) || q.decEnd then s
  else if !d.usable || d.done then
    -- no next instruction is in sight when the last vector must be committed: it is joined to nothing
    match q.openVec with
    | some v => if v.t0 ≤ s.mt + 2500000 then s.closeVec n else s
    | none => s
  else if s.windowBad n d then s.planError n d.offset .bad
  else if q.decOfs < d.offset then s.planError n q.decOfs .bad
  else
    let o := q.decOfs - d.offset
    if d.len ≤ o then
      if d.last then s.planError n (d.offset + d.len) .bad
      else
        (s.setF PG.WPOS.RIDX n ((k + 1) % s.ringSize n)).setPg n { q with decNew := true }
    else
      let a := d.addr + o
      let h := s.ld a
      let m := bits h 55 54
      if d.len < o + 8 * (m + 1) ∨ s.anyUe a (m + 1) then s.planError n q.decOfs .bad
      else
        let ofs := q.decOfs
        let s := s.setPg n { q with decOfs := ofs + 8 * (m + 1) }
        s.planOp n ofs (decodeLayer h (s.lds (a + 8) m)) d.last (d.len == o + 8 * (m + 1))

/-! ### Commit (R160–R162, R173) -/

/-- The two kinds of trace and record rings: the address of record `k`. -/
def ringAddr (base log2n size k : Nat) : Nat := base * 32 + size * (k % 2 ^ log2n)

/-- A committed segment is written to the trace ring (R173). -/
def State.trace (s : State) (n : Nat) (g : Seg) : State :=
  if s.on PG.STRACE.EN n then
    let c := s.f PG.STRCNT.V n
    let w0 := place g.t0 48 16 + place g.typ 4 12 + place g.emit.toNat 1 7 + place g.limit.toNat 1 6 + place g.remelt.toNat 1 5 + place g.saddle.toNat 1 4
    let s := s.sts (ringAddr (s.f PG.STRACE.BASE n) (s.f PG.STRACE.LOG2N n) 32 c)
      [wd w0, wd (place g.dur 32 32 + place g.vid 32 0), wd (place g.ofs 32 32 + place (ux 32 (openDiv g.k.x unitWpu)) 32 0),
       wd (place (ux 24 (openDiv (g.k.v * 256) (speedU 1))) 24 40 + place (ux 24 (openDiv (g.k.a * 10) (accU 1))) 24 16 + place (ux 16 (rdiv g.j 256)) 16 0)]
    s.setF PG.STRCNT.V n (c + 1)
  else s

/-- The plan from the first uncommitted segment on is moved `d` ns later; the axes wait at the point of rest before it (R161). -/
def PgSt.delay (q : PgSt) (t d : Nat) : PgSt :=
  { q with
    segs := q.segs.map (fun g => if g.com || decide (g.t0 < t) then g else { g with t0 := g.t0 + d }),
    items := q.items.map (fun i => if t ≤ i.t0 then { i with t0 := i.t0 + d, t1 := i.t1 + d, vec := i.vec.map (fun v => { v with t0 := v.t0 + d }) }
                                  else if t ≤ i.t1 then { i with t1 := i.t1 + d, vec := i.vec.map (fun v => if t ≤ v.t0 then { v with t0 := v.t0 + d } else v) } else i),
    edges := q.edges.map (fun e => if t ≤ e.tPlan then { e with tPlan := e.tPlan + d } else e),
    openVec := q.openVec.map (fun v => { v with t0 := v.t0 + d }),
    tEnd := q.tEnd + d }

/-- Whether a segment may be fixed: it belongs to no chain, or the Saddle has decided its chain and the chain is planned to its end. -/
def PgSt.ready (q : PgSt) (g : Seg) : Bool :=
  match g.chain with
  | none => true
  | some c => q.decided.contains c

/-- The first uncommitted segment is fixed 2,000 µs before it starts. One that cannot be fixed by then is held: the rest of the plan waits
at the last point of rest, STAT.HOLD sets with an info-class event (R161). -/
def segmentCommit (n : Nat) (s : State) : State :=
  let q := s.pg n
  match q.segs.find? (fun g => !g.com) with
  | none => s
  | some g =>
    if q.ready g && decide (s.mt ≤ g.t0 - 2000000 ∨ q.segs.any (fun h => h.com && h.chain == g.chain && h.chain.isSome && decide (g.t0 ≤ h.t0 + h.dur))) then
      let s := s.reach (g.t0 - 2000000)
      let q := s.pg n
      let i := (q.segs.takeWhile (fun g => g.com)).length
      (s.setPg n { q with segs := q.segs.modify i (fun g => { g with com := true }) }).trace n g
    else if g.t0 < s.mt + 2000000 then
      ((s.setPg n (q.delay g.t0 (s.mt + 2000000 - g.t0))).setF PG.STAT.HOLD n 1).info 7 n (pgEp n)
    else s

/-! ### The commands -/

/-- PLAN (R160). -/
def execPlan (n : Fin 26) (s : State) : Host.Outcome State Fault Refusal := .next (planStep n s)

/-- SEGMENT_COMMIT (R160–R162). -/
def execSegmentCommit (n : Fin 26) (s : State) : Host.Outcome State Fault Refusal := .next (segmentCommit n s)

end Sys2Proof.Machine
end

