-- ==== Sys2Proof/Machine/Path.lean ====
section
/-! DEFINITION. Interpolation, power targets, position-gated emission and tracking (R138, R174–R187, R195, R501). -/

namespace Sys2Proof.Machine

open Sys2Proof

/-! ### Exposures of a TRIG schedule (R138) -/

/-- One exposure: a PIN token with OP 0x2 to the camera's col. -/
def exposureToken (n : Nat) (t : Nat) (c : TrigCfg) : Token :=
  (mkTok (pgEp n) (ctrgEp n) 0xE 0 (pinPayload 2 0 0 c.width c.expid)).at t

/-- The exposures that fall before `upTo` are sent; none during a look of the head (R138, R216). -/
def State.exposures (s : State) (n upTo : Nat) : Nat → State
  | 0 => s
  | k + 1 =>
    let q := s.pg n
    match q.sched with
    | none => s
    | some e =>
      if upTo ≤ e.next then s
      else
        let held := match q.look with | some l => decide (l.h0 ≤ e.next ∧ e.next ≤ l.h1) | none => false
        let acc := q.acc.map (fun a => if held then a else { a with nexp := a.nexp + 1, tfirst := if a.nexp = 0 then e.next else a.tfirst })
        let s := s.setPg n { q with sched := some { e with next := e.next + e.cfg.period }, acc := acc }
        (if held then s else s.send (exposureToken n e.next e.cfg)).exposures n upTo k

/-- The most exposures that can fall before `upTo`. -/
def State.exposureFuel (s : State) (n upTo : Nat) : Nat :=
  match (s.pg n).sched with
  | some e => (upTo - e.next) / max 1 e.cfg.period + 1
  | none => 0

/-- A schedule that waits for its vector starts at its emission start and replaces the running one. -/
def State.startTrig (s : State) (n t : Nat) : State :=
  let q := s.pg n
  match q.modal.trig with
  | some c => if q.trigNew then s.setPg n { q with sched := some ⟨t, c⟩, trigNew := false } else s
  | none => s.setPg n { q with sched := none, trigNew := false }

/-! ### Set-points (R174, R195) -/

/-- The three set-points of instant `tc` are sent and remembered. -/
def State.sendSet (s : State) (n tc : Nat) (l : List (Nat × Word)) : State :=
  l.foldl (fun s p => s.send ((mkTok (pgEp n) (galvoEp n p.1) 1 0 p.2).at tc)) s

/-- The planned point `p` is converted and sent for `tc`; SPXY and SPZ report it. A saturated POSZ sets STAT.LIMIT with a warning; none
where a map word is poisoned. -/
def State.setPoint (s : State) (n tc : Nat) (p : PtK) : Option State :=
  match s.convert n p with
  | none => none
  | some c =>
    let l := [(0, c.1.payload), (1, c.2.1.payload), (2, c.2.2.1.payload)]
    let r := p.round
    let s := s.sendSet n tc l
    let s := s.setPg n { s.pg n with lastSet := l, spSent := true, spLast := tc }
    let s := ((s.setFi PG.SPXY.X n r.x).setFi PG.SPXY.Y n r.y).setFi PG.SPZ.Z n r.z
    some (if c.2.2.2 then (s.setF PG.STAT.LIMIT n 1).warn 7 n (pgEp n) else s)

/-- A map word is poisoned: the last converted set-point is sent with VEL and ACC 0, the gate drops, a severe status is raised from source 8
and the path generator suspends with cause 0x6 (R195). -/
def State.mapPoisoned (s : State) (n tc : Nat) : State :=
  let q := s.pg n
  let l := q.lastSet.map (fun p => (p.1, p.2 &&& 0xFFFFFF0000000000#64))
  let s := (s.sendSet n tc l).setPg n { q with spLast := tc, frozen := true }
  if q.frozen then s
  else
    let stop := s.mt + s.f PG.GATE.GLEAD n
    (s.severe 8 n 8).suspendNow n 6 stop

/-- The instant of the next set-point: the first cycle not yet sent that is at least ILEAD ahead. -/
def State.nextCycle (s : State) (n : Nat) : Nat :=
  let q := s.pg n
  let lead := s.f PG.CFG.ILEAD n * 1000
  s.cycleFrom (max (s.mt + lead) (if q.spSent then q.spLast + 1 else 0))

/-- Whether the head follows tracking targets: IDLE with TRK.EN or with a stop ramp running, or in a look. -/
def State.tracking (s : State) (n : Nat) : Bool :=
  let q := s.pg n
  (s.pgState n == pgIDLE && (s.on PG.TRK.EN n || q.trkMoving)) || (s.pgState n == pgRUN && q.look.any (fun l => l.k != 0))

/-- For the next COL120 cycle instant the path generator sends the planned position, no earlier than ILEAD plus one servo period before it
(R174). -/
def interpolate (n : Nat) (s : State) : State :=
  if !s.on SADDLEN.MAP.VALID n || s.servoPeriod == 0 || s.tracking n then s
  else
    let tc := s.nextCycle n
    let s := s.reach (tc - s.f PG.CFG.ILEAD n * 1000 - s.servoPeriod)
    let p := (s.pg n).planned tc
    let s := if s.pgRunning n then s.exposures n (tc + s.servoPeriod) (s.exposureFuel n (tc + s.servoPeriod)) else s
    if (s.pg n).frozen then s.mapPoisoned n tc
    else match s.setPoint n tc p with
      | some s => s
      | none => s.mapPoisoned n tc

/-! ### Power targets (R175) -/

/-- The power target of planned instant `t`: a timed SETP to the power loop, shifted by δ, sent where the target differs from the last
one; nothing is released between the layer end and the next barrier (R26). -/
def powerTarget (n t : Nat) (s : State) : State :=
  let q := s.pg n
  if !s.pgRunning n then s
  else
    let p := s.powerAt n t
    if p = q.lastPower then s
    else
      let at_ := ((t : Int) + q.delta).toNat
      (s.send ((mkTok (pgEp n) (powerEp n) 1 0 (wd (place p 16 0))).at at_)).setPg n { q with lastPower := p }

/-! ### Position-gated emission (R176–R180, R501) -/

/-- The superframe period: that of COL123's schedule. -/
def State.superframe (s : State) : Nat :=
  match (s.col 123).sched with
  | some c => c.period
  | none => 0

/-- The time from the sample to path position `x`, in 2^−10 ns, with speed v and planned acceleration a; none while the axes do not
approach it (R176). -/
def crossing (x sm v a : Int) : Option Int :=
  if a = 0 then (if v ≤ 0 then none else some ((x - sm) * 1024 / v))
  else
    let disc := v * v + 2 * a * (x - sm)
    if disc < 0 then none else some ((isqrtI disc - v) * 1024 / a)

/-- A gate decision on one measurement: the crossing, the release instant (both in 2^−10 ns), lateral error in wpu, tangential speed, and the
edge residual in wpu. -/
structure GateCalc where
  tc : Int
  trel : Int
  elat : Nat
  vm : Int
  res : Nat
deriving DecidableEq, Repr

/-- The prediction of R176 for an edge from measurement `m` that arrived at MT. -/
def State.gateCalc (s : State) (n : Nat) (e : GateEdge) (m : Meas) : Option GateCalc :=
  let q := s.pg n
  let k : Kin := match segAt q.segs m.stamp with
    | some g => if g.ofs = e.vec.ofs then g.kinAt m.stamp else ⟨0, 0, 0⟩
    | none => ⟨0, 0, 0⟩
  let r := e.vec.measure m k.x
  match crossing (e.s) r.1 r.2.2 k.a with
  | none => none
  | some dt =>
    let tc := (m.stamp : Int) * 1024 + dt
    let trel := max tc ((s.mt + s.f PG.GATE.GLEAD n : Nat) * 1024)
    some ⟨tc, trel, r.2.1, r.2.2, ((r.2.2 * (trel - tc)).natAbs / 1024) / unitWpu.toNat⟩

/-- |v_m − MSPD| ≤ SPTOL × MSPD / 65,536. -/
def State.speedOk (s : State) (n : Nat) (v : PVec) (vm : Int) : Bool :=
  decide ((vm - speedU v.mspd).natAbs * 65536 ≤ s.f PG.GATE.SPTOL n * (speedU v.mspd).toNat)

/-- A gate-on that is refused: STAT.GATEREF, a severe status, suspension with cause 0x6 and DIST 0 at the vector (R177, R501). -/
def State.gateRefused (s : State) (n : Nat) (v : PVec) : State :=
  let modal := s.suspModal n
  let s := (s.setF PG.STAT.GATEREF n 1).severe 7 n (pgEp n)
  ((s.uncount n).stopRamp n).suspend n 6 v.ofs 0 0 modal

/-- The release instant in units of 250 ps, rounded to nearest (R176). -/
def quarter (t : Int) : Nat := (rshr t 8).toNat

/-- Gate-on (R177): OP 0x1 at t_rel with δ, the part's start and a waiting TRIG schedule; or the refusal. -/
def State.gateOn (s : State) (n : Nat) (e : GateEdge) (c : GateCalc) : State :=
  let tol := e.vec.gtol * 16
  if c.elat ≤ tol ∧ s.speedOk n e.vec c.vm ∧ c.res ≤ tol then
    let t := quarter c.trel
    let s := s.send (gateToken n 1 t e.vec.vid)
    let s := s.setPg n { s.pg n with gateHigh := true, bad := false, delta := openDiv c.trel 1024 - e.tPlan }
    ((s.openPart n (t / 4) e.vec e.s 0).startTrig n (t / 4)).exposures n (t / 4 + 1) 1
  else s.gateRefused n e.vec

/-- Gate-off (R178): OP 0x0 at t_rel without conditions; a residual above GTOL warns and flags the record. -/
def State.gateOffAt (s : State) (n : Nat) (e : GateEdge) (c : GateCalc) : State :=
  let t := quarter c.trel
  let ovr := decide (e.vec.gtol * 16 < c.res)
  let s := s.send (gateToken n 0 t e.vec.vid)
  let s := s.setPg n { s.pg n with gateHigh := false }
  let s := s.setF PG.GRES.EDGE n (max (s.f PG.GRES.EDGE n) (min (2 ^ 32 - 1) c.res))
  let s := s.closePart n (t / 4) e.s (if ovr then 64 else 0) c.res
  if ovr then s.warn 7 n (pgEp n) else s

/-- A joint inside a chain: δ is formed again, one part ends and the next begins (R175, R317). -/
def State.gateJoint (s : State) (n : Nat) (e : GateEdge) (c : GateCalc) : State :=
  let s := s.setPg n { s.pg n with delta := openDiv c.tc 1024 - e.tPlan }
  let t := ((e.tPlan : Int) + (s.pg n).delta).toNat
  let prev := match (s.pg n).acc with | some a => a.vec.len | none => 0
  (s.closePart n t prev 0 0).openPart n t e.vec 0 0

/-- The edges whose crossing lies within GLEAD plus one superframe of the arrival are decided, in order. -/
def State.decideEdges (s : State) (n : Nat) (m : Meas) : Nat → State
  | 0 => s
  | k + 1 =>
    let q := s.pg n
    match q.edges with
    | [] => s
    | e :: rest =>
      match s.gateCalc n e m with
      | none => s
      | some c =>
        if ((s.f PG.GATE.GLEAD n + s.superframe : Nat) : Int) * 1024 < c.tc - (s.mt : Int) * 1024 then s
        else
          let s := s.setPg n { q with edges := rest }
          if e.kind = 1 then
            let s := s.gateOn n e c
            if (s.pg n).gateHigh then s.decideEdges n m k else s
          else if e.kind = 0 then (s.gateOffAt n e c).decideEdges n m k
          else (s.gateJoint n e c).decideEdges n m k

/-- Two consecutive bad samples while emitting: OP 0x0 at t_a + GLEAD, STAT.GATEERR, a severe status, suspension with cause 0x6 (R179). -/
def State.gateError (s : State) (n : Nat) : State :=
  let stop := s.mt + s.f PG.GATE.GLEAD n
  let q := s.pg n
  let s := s.setPg n { q with acc := q.acc.map (fun a => { a with flags := a.flags ||| 128 }) }
  ((s.setF PG.STAT.GATEERR n 1).severe 7 n (pgEp n)).suspendNow n 6 stop

/-- One sample that fails while the gate is high; the second in a row ends emission. -/
def State.badSample (s : State) (n : Nat) : State :=
  let q := s.pg n
  if q.bad then s.gateError n else s.setPg n { q with bad := true }

/-- The vector that emits, while the gate is high at instant `t`. -/
def State.emitting (s : State) (n t : Nat) : Option PVec :=
  match (s.pg n).acc with
  | some a => if (s.pg n).gateHigh ∧ a.ton ≤ t then some a.vec else none
  | none => none

/-- The checks of every sample while the gate is high (R179, R180). -/
def State.gateCheck (s : State) (n : Nat) (m : Meas) : State :=
  match s.emitting n m.stamp with
  | none => s
  | some v =>
    let q := s.pg n
    let x := match segAt q.segs m.stamp with | some g => (g.kinAt m.stamp).x | none => 0
    let r := v.measure m x
    let s := s.setF PG.GRES.LAT n (max (s.f PG.GRES.LAT n) (min (2 ^ 32 - 1) r.2.1))
    let s := s.setPg n { q with acc := q.acc.map (fun a => { a with latMax := max a.latMax r.2.1 }) }
    if v.gtol * 16 < r.2.1 ∨ !s.speedOk n v r.2.2 then s.badSample n else s.setPg n { s.pg n with bad := false }

/-- A pair of X and Y samples of one stamp: mapped back, checked, and used for the edges that wait. A pair that cannot be mapped back
counts as missing (R195, R501). -/
def State.gatePair (s : State) (n : Nat) (x y : AxSample) : State :=
  let q := s.pg n
  let p := q.planned x.stamp
  match s.mapBack n x y p.x p.y with
  | none => if (s.emitting n x.stamp).isSome then s.badSample n else s
  | some m =>
    let s := s.setPg n { q with meas := (m :: q.meas).take 64 }
    let s := s.gateCheck n m
    if s.pgRunning n then s.decideEdges n m ((s.pg n).edges.length) else s

/-- A sample message (R256): two DATA tokens from the position feedback unit on stream 5. -/
def parseSample (mt : Nat) (toks : List Token) : Option (Nat × AxSample) :=
  match toks with
  | [a, b] => some (bits a.payload 7 6, ⟨fullTime mt (BitVec.ofNat 48 (bits a.payload 63 16)), bits b.payload 63 36, sbits b.payload 35 12⟩)
  | _ => none

/-- GATE_SAMPLE: an encoder sample reaches the path generator (R176, R256). -/
def gateSample (n : Nat) (toks : List Token) (s : State) : State :=
  s.arrive (pgEp n) toks fun s =>
    match toks with
    | [] => s
    | t :: _ =>
      if t.kind ≠ 0#4 ∨ t.src ≠ 0xA#10 ∨ t.stream ≠ 5#8 then toks.foldl (fun s t => s.refuse (pgEp n) t 7) s
      else match parseSample s.mt toks with
        | none => s.refuse (pgEp n) (toks.getLastD t) 4
        | some (ax, m) =>
          let q := s.pg n
          let q := if ax = 0 then { q with sx := some m } else if ax = 1 then { q with sy := some m } else q
          let s := s.setPg n q
          match q.sx, q.sy with
          | some x, some y => if x.stamp = y.stamp then s.gatePair n x y else s
          | _, _ => s

/-- A sample not accepted by Ts + 5,000 ns (R501): bad while the gate is high; a waiting gate-on is refused and a waiting gate-off sent at
its planned instant once the decision's last moment, t_plan − GLEAD, has come. -/
def sampleMissing (n : Nat) (s : State) : State :=
  let q := s.pg n
  if !s.pgRunning n then s
  else
    let s := if (s.emitting n s.mt).isSome then s.badSample n else s
    match (s.pg n).edges with
    | [] => s
    | e :: rest =>
      let t := ((e.tPlan : Int) + q.delta).toNat
      if !s.pgRunning n || decide (s.mt + s.f PG.GATE.GLEAD n < t) then s
      else if e.kind = 1 then s.gateRefused n e.vec
      else if e.kind = 0 then
        let s := (s.gateOff n t e.vec.vid).setPg n { s.pg n with edges := rest, gateHigh := false }
        (s.closePart n t e.s 64 0).warn 7 n (pgEp n)
      else
        let s := s.setPg n { s.pg n with edges := rest }
        let prev := match (s.pg n).acc with | some a => a.vec.len | none => 0
        (s.closePart n t prev 0 0).openPart n t e.vec 0 0

/-! ### Tracking (R181–R187) -/

/-- The tracking state of one axis; an axis not yet tracked stands at the latest set-point. -/
def State.trkAxis (s : State) (n ax : Nat) : TrkAxis :=
  match (s.pg n).trk.find? (fun p => p.1 == ax) with
  | some p => p.2
  | none =>
    let x := if ax = 0 then s.fi PG.SPXY.X n else if ax = 1 then s.fi PG.SPXY.Y n else s.fi PG.SPZ.Z n
    { k := ⟨x * unitWpu, 0, 0⟩, target := x, a := if ax = 2 then s.f PG.LIMZ.AZ n else s.f PG.LIMV.AMAX n,
      j := if ax = 2 then s.f PG.LIMZ.JZ n else s.f PG.LIMV.JMAX n }

def State.setTrk (s : State) (n ax : Nat) (x : TrkAxis) : State :=
  let q := s.pg n
  s.setPg n { q with trk := (ax, x) :: q.trk.filter (fun p => p.1 != ax) }

/-- The speed, acceleration and jerk limits the control words give an axis. -/
def State.trkLimits (s : State) (n ax : Nat) : Nat × Nat × Nat :=
  if ax = 2 then (s.f PG.LIMZ.VZ n, s.f PG.LIMZ.AZ n, s.f PG.LIMZ.JZ n) else (s.f PG.LIMV.VJUMP n, s.f PG.LIMV.AMAX n, s.f PG.LIMV.JMAX n)

/-- Soft limits and, for X and Y, the field (R182, R184, R198). -/
def State.trkBounds (s : State) (n ax : Nat) : Int × Int :=
  let b := s.soft n ax
  let f := s.field n
  if ax = 0 ∧ s.on SADDLEN.MAP.VALID n then (max b.1 f.1, min b.2 f.2.1)
  else if ax = 1 ∧ s.on SADDLEN.MAP.VALID n then (max b.1 f.2.2.1, min b.2 f.2.2.2)
  else b

/-- A target takes effect on one axis: clamped with STAT.SOFT; STAT.LIMIT and LIMITS when it cannot be reached within one servo period
(R183, R184). -/
def State.setTarget (s : State) (n ax : Nat) (v : Int) : State :=
  let b := s.trkBounds n ax
  let t := clamp b.1 b.2 v
  let s := if t ≠ v then s.setF PG.STAT.SOFT n 1 else s
  let x := s.trkAxis n ax
  let lim := s.trkLimits n ax
  let far := match profileTo x.k (t * unitWpu) (speedU lim.1) (accU x.a) (jerkU x.j) with
    | some p => decide (s.servoPeriod < phasesDur p)
    | none => true
  let s := s.setTrk n ax { x with target := t }
  if far then (s.setF PG.STAT.LIMIT n 1).incF PG.LIMCNT.LIMITS n else s

/-- A tracking token (R181): streams 2 and 3 in IDLE while TRK.EN is 1, stream 4 in RUN from the Saddle; any other is discarded with
STAT.TREF and an info-class event. -/
def trackingAct (n : Nat) (t : Token) (s : State) : State :=
  let p := t.payload
  let idle := s.pgState n == pgIDLE && s.on PG.TRK.EN n
  if (t.stream = 2#8 ∧ idle) ∨ (t.stream = 4#8 ∧ s.pgState n = pgRUN ∧ t.src = 8#10) then
    (s.setTarget n 0 (sbits p 31 0)).setTarget n 1 (sbits p 63 32)
  else if t.stream = 3#8 ∧ idle then s.setTarget n 2 (sbits p 31 0)
  else (s.setF PG.STAT.TREF n 1).info 7 n (pgEp n)

def trackingTarget (n : Nat) (t : Token) (s : State) : State :=
  s.arrive (pgEp n) [t] fun s =>
    if t.kind ≠ 1#4 then s.refuse (pgEp n) t 7
    else s.whenDue [t] (trackingAct n t)

/-- The limits of an axis at a cycle's start (R185): raised ones apply at once, lowered ones once the axis is in no ramp. -/
def State.trkApplyLimits (s : State) (n ax : Nat) (x : TrkAxis) : TrkAxis :=
  let l := s.trkLimits n ax
  let ramp := x.k.a != 0 || x.stop
  { x with a := if x.a ≤ l.2.1 || !ramp then l.2.1 else x.a, j := if x.j ≤ l.2.2 || !ramp then l.2.2 else x.j }

/-- A deceleration at AEMG without the jerk limit for one cycle; it ends at rest (R184). -/
def emergencyStep (k : Kin) (aemg : Int) (p : Nat) : Kin :=
  let d := -sgn k.v
  let t := k.v.natAbs / aemg.natAbs
  if t ≤ p then ⟨k.x + k.v * t / 2, 0, 0⟩ else { (⟨k.x, k.v, d * aemg⟩ : Kin).after 0 p with a := d * aemg }

/-- One servo cycle of an axis in tracking (R182–R185): the axis after it, whether it turned to a stop before reversal, and an emergency stop
(1 within AEMG, 2 beyond the limit). -/
def State.trkStep (s : State) (n ax : Nat) (x : TrkAxis) : TrkAxis × Bool × Nat :=
  let p := s.servoPeriod
  let lim := s.trkLimits n ax
  let A := accU x.a
  let J := jerkU x.j
  let b := s.soft n ax
  let aemg := accU (s.f PG.LIMR.AEMG n)
  let stopNow : TrkAxis × Bool × Nat :=
    let rest := (x.k.stop A J).x
    let out := decide ((0 < x.k.v ∧ b.2 * unitWpu < rest) ∨ (x.k.v < 0 ∧ rest < b.1 * unitWpu))
    if x.emg ∨ out then
      let k := emergencyStep x.k aemg p
      let far := x.k.v.natAbs * x.k.v.natAbs / (2 * aemg.natAbs)
      let room := if 0 < x.k.v then b.2 * unitWpu - x.k.x else x.k.x - b.1 * unitWpu
      let done := k.v == 0
      ({ x with k := k, stop := !done, emg := !done }, false, if x.emg then 0 else if (far : Int) ≤ room then 1 else 2)
    else
      let ph := velRamp x.k.v x.k.a 0 A J
      let done := decide (phasesDur ph ≤ p)
      ({ x with k := if done then { x.k.stop A J with v := 0, a := 0 } else x.k.during ph p, stop := !done }, false, 0)
  if x.stop then stopNow
  else match profileTo x.k (x.target * unitWpu) (speedU lim.1) A J with
    | some ph =>
      ({ x with k := if phasesDur ph ≤ p then ⟨x.target * unitWpu, 0, 0⟩ else x.k.during ph p }, false, 0)
    | none => let r := stopNow; ({ r.1 with stop := true && (r.1.k.v != 0 || r.1.k.a != 0) }, true, r.2.2)

/-- One axis moves on by a cycle. -/
def State.trkAdvance (s : State) (n ax : Nat) : State :=
  let x := s.trkApplyLimits n ax (s.trkAxis n ax)
  let r := s.trkStep n ax x
  let s := s.setTrk n ax r.1
  let s := if r.2.1 then s.setF PG.STAT.REV n 1 else s
  if r.2.2 = 1 then (s.setF PG.STAT.EMG n 1).warn 7 n (pgEp n)
  else if r.2.2 = 2 then (s.setF PG.STAT.EMG n 1).severe 7 n (pgEp n) else s

/-- TRACKING_CYCLE: at a servo cycle every axis advances, the set-point is sent, and ACTIVE and LIMWAIT follow (R182, R185, R191). -/
def trackingCycle (n : Nat) (s : State) : State :=
  if !s.tracking n || s.servoPeriod == 0 || !s.on SADDLEN.MAP.VALID n then s
  else
    let tc := s.nextCycle n
    let s := s.reach (tc - s.f PG.CFG.ILEAD n * 1000 - s.servoPeriod)
    let s := ((s.trkAdvance n 0).trkAdvance n 1).trkAdvance n 2
    let x := s.trkAxis n 0
    let y := s.trkAxis n 1
    let z := s.trkAxis n 2
    let fx (v : Int) : Int := v * fx24 / unitWpu
    let p : PtK := ⟨fx x.k.x, fx y.k.x, fx z.k.x, x.k.v, y.k.v, z.k.v, x.k.a, y.k.a, z.k.a⟩
    let s := s.setPg n { s.pg n with pos := ⟨openDiv p.x fx24, openDiv p.y fx24, openDiv p.z fx24⟩ }
    let wait (ax : Nat) : Bool := let l := s.trkLimits n ax; let a := s.trkAxis n ax; a.a != l.2.1 || a.j != l.2.2
    let s := s.setF PG.STAT.LIMWAIT n (wait 0 || wait 1 || wait 2).toNat
    let s := s.setF PG.TRK.ACTIVE n (s.pg n).trkMoving.toNat
    match s.setPoint n tc p with
    | some s => s
    | none => s.mapPoisoned n tc

/-- Clearing TRK.EN puts every moving axis into a stop ramp (R187). -/
def trkEnCleared (n : Nat) (s : State) : State :=
  let q := s.pg n
  s.setPg n { q with trk := q.trk.map (fun p => (p.1, { p.2 with stop := p.2.k.v != 0 || p.2.k.a != 0, target := (p.2.k.stop (accU p.2.a) (jerkU p.2.j)).x / unitWpu })) }

/-! ### The commands -/

/-- INTERPOLATE (R174). -/
def execInterpolate (n : Fin 26) (s : State) : Host.Outcome State Fault Refusal := .next (interpolate n s)

/-- POWER_TARGET (R175). -/
def execPowerTarget (n : Fin 26) (t : Nat) (s : State) : Host.Outcome State Fault Refusal := .next (powerTarget n t s)

/-- GATE_SAMPLE (R176). -/
def execGateSample (n : Fin 26) (toks : List Token) (s : State) : Host.Outcome State Fault Refusal := .next (gateSample n toks s)

/-- SAMPLE_MISSING (R501). -/
def execSampleMissing (n : Fin 26) (s : State) : Host.Outcome State Fault Refusal := .next (sampleMissing n s)

/-- TRACKING_TARGET (R181). -/
def execTrackingTarget (n : Fin 26) (tok : Token) (s : State) : Host.Outcome State Fault Refusal := .next (trackingTarget n tok s)

/-- TRACKING_CYCLE (R182). -/
def execTrackingCycle (n : Fin 26) (s : State) : Host.Outcome State Fault Refusal := .next (trackingCycle n s)

end Sys2Proof.Machine
end

