-- ==== Sys2Proof/Machine/Servo.lean ====
section
/-! DEFINITION. The servo engine: sections, coefficient sets, galvo, focus and power loops, feed-forward tables and scheduling (R222–R253,
R301, R302). -/

namespace Sys2Proof.Machine

open Sys2Proof

/-! ### Loops (R222) -/

def State.loop (s : State) (l : Nat) : Loop := tget (fun _ => {}) s.loops l
def State.setLoop (s : State) (l : Nat) (x : Loop) : State := s.setLoops (tset (fun _ => {}) s.loops l x)

/-- The endpoint of loop ℓ. -/
def loopEp (l : Nat) : Nat := 0x200 + l

/-- The classes of R222: galvo and focus, power, auxiliary position, auxiliary current. -/
def isGalvo (l : Nat) : Bool := decide (l < 72)
def isPower (l : Nat) : Bool := decide (72 ≤ l ∧ l < 96)
def isAuxPos (l : Nat) : Bool := decide (96 ≤ l ∧ l < 104)
def isAuxCur (l : Nat) : Bool := decide (104 ≤ l)

/-- The most sections a loop of the class may have. -/
def maxSects (l : Nat) : Nat := if isGalvo l then 12 else if isAuxCur l then 4 else 8

/-- The period of a class's schedule; none while its col runs no schedule. A power loop's rate is 1 MHz. -/
def State.loopPeriod (s : State) (l : Nat) : Option Nat :=
  let per (c : Nat) : Option Nat := (s.col c).sched.map (·.period)
  if isGalvo l then per 120 else if isPower l then some 1000 else if isAuxPos l then per 121 else per 122

/-! ### Section arithmetic (R223, R224) -/

/-- `v · 2^k`, rounded to nearest with ties away from zero. -/
def scale (v k : Int) : Int := if 0 ≤ k then v * (2 ^ k.toNat : Nat) else rshr v (-k).toNat

/-- One section on input `x`: its output, its states after, and whether sat24 clamped the output. -/
def section_ (c : Sect) (t : SectSt) (x : Int) : Int × SectSt × Bool :=
  let acc := c.b0 * x + c.b1 * t.x1 + c.b2 * t.x2 - c.a1 * t.y1 - c.a2 * t.y2
  let v := scale acc (c.e - 19)
  let y := sat 24 v
  (y, ⟨x, t.x1, y, t.y1⟩, decide (y ≠ v))

/-- The cascade: section 0 takes the error, each next the output of the one before; no section gives 0. -/
def cascadeGo : List Sect → List SectSt → Int → Int × List SectSt × Bool
  | c :: cs, t :: ts, x =>
    let r := section_ c t x
    let q := cascadeGo cs ts r.1
    (q.1, r.2.1 :: q.2.1, r.2.2 || q.2.2)
  | _, _, x => (x, [], false)

def cascade (cs : List Sect) (ts : List SectSt) (x : Int) : Int × List SectSt × Bool :=
  if cs = [] then (0, [], false) else cascadeGo cs ts x

/-- Back-calculation on section ISEC (R232). -/
def backCalc (c : CoefSet) (ts : List SectSt) (ex : Int) : List SectSt :=
  let b := scale ((c.kaw : Int) * ex) (c.ae - 15)
  ts.modify c.isec (fun t => { t with y1 := sat 24 (t.y1 - b), y2 := sat 24 (t.y2 - b) })

/-! ### Coefficient sets (R225–R227, R235) -/

/-- The set a message spells; none where a field is out of range, a reserved bit is set or the length does not match NSEC (R225, R226). -/
def parseSet (l : Nat) (ws : List Word) : Option CoefSet :=
  let h := ws.getD 0 0
  let g := ws.getD 1 0
  let n := bits h 3 0
  let isec := bits h 11 8
  let sec (i : Nat) : Sect :=
    let a := ws.getD (2 + 2 * i) 0
    let b := ws.getD (3 + 2 * i) 0
    ⟨sbits b 44 40, sbits a 59 40, sbits a 39 20, sbits a 19 0, sbits b 39 20, sbits b 19 0⟩
  let reserved := bits h 37 15 == 0 && bits h 7 4 == 0 && bits g 63 60 == 0 && bits g 19 16 == 0 &&
    (List.range n).all (fun i => bits (ws.getD (2 + 2 * i) 0) 63 60 == 0 && bits (ws.getD (3 + 2 * i) 0) 63 45 == 0)
  let kv := sbits g 59 40
  let ka := sbits g 39 20
  if ws.length = 2 + 2 * n ∧ 1 ≤ n ∧ n ≤ maxSects l ∧ bits h 14 13 ≠ 3 ∧ (isec = 15 ∨ isec < n) ∧ reserved = true ∧
      (kv = 0 ∨ isGalvo l = true ∨ isAuxPos l = true) ∧ (ka = 0 ∨ isGalvo l = true) then
    some { setid := bits h 63 48, fe := sbits h 47 43, ae := sbits h 42 38, swap := bits h 14 13, bnd := bit h 12, isec := isec, kv := kv, ka := ka,
           kaw := bits g 15 0, sects := (List.range n).map sec }
  else none

/-! ### The load (R246) -/

/-- The sections a loop counts with: the larger of the set in force and the set pending. -/
def Loop.nsec (x : Loop) : Nat := max x.set.sects.length (match x.pend with | some p => p.1.sects.length | none => 0)

/-- The load in sections/s with loop `l` counted at `n` sections, enabled, and the period of col `c` replaced by `p`. -/
def State.loadWith (s : State) (l n : Nat) (c p : Nat) : Nat :=
  (List.range 112).foldl (fun acc i =>
    let on := s.on SERVON.CFG.EN i || i == l
    let k := if i = l then n else (s.loop i).nsec
    let col := if isGalvo i then 120 else if isAuxPos i then 121 else if isAuxCur i then 122 else 0
    let per := if col = c ∧ c ≠ 0 then some p else s.loopPeriod i
    match per with
    | some q => if on ∧ q ≠ 0 then acc + k * 1000000000 / q else acc
    | none => acc) 0

/-- The load as it is. -/
def State.load (s : State) : Nat := s.loadWith 112 0 0 0

/-- Active section units. -/
def State.unitsIn (s : State) (st : Nat) : List Nat :=
  (List.range 7).filter (fun k => bits (s.word SERVO.UNIT.U0.base) (4 * k + 3) (4 * k) == st)

/-- The budget in sections/s. -/
def State.budget (s : State) : Nat :=
  let n := (s.unitsIn 0).length
  if 5 ≤ n then 450000000 else 90000000 * n

/-- SERVO.LOAD and OVERLOAD follow; a load that has come to exceed the budget raises a severe status (R246, R248). -/
def State.loadUpdate (s : State) : State :=
  let l := s.load
  let b := s.budget
  let was := s.on SERVO.STAT.OVERLOAD
  let s := (s.setF SERVO.LOAD.V 0 (l / 10000)).setF SERVO.LOAD.BUDGET 0 (b / 10000)
  let s := s.setF SERVO.STAT.OVERLOAD 0 (if b < l then 1 else 0)
  if b < l ∧ was = false then s.severe 9 0 0xB else s

/-- Whether a start of a schedule on COL120–COL122 with period `p` would take the load above the budget. -/
def State.startOverloads (s : State) (c p : Nat) : Bool := decide (s.budget < s.loadWith 112 0 c p)

/-! ### The state area (R250) -/

/-- The address of a loop's 128 bytes. -/
def State.stateAddr (s : State) (l : Nat) : Nat := s.f SERVO.STBASE.BASE * 128 + 128 * l

def flatStates (ts : List SectSt) : List Int := ts.flatMap (fun t => [t.x1, t.x2, t.y1, t.y2])

/-- The words a loop's states are kept as. -/
def stateWords (ts : List SectSt) : List Word := (List.range 16).map (Config.stateWord (flatStates ts))

/-- The states are written to the area at the end of a cycle. -/
def State.saveStates (s : State) (l : Nat) : State := s.sts (s.stateAddr l) (stateWords (s.loop l).st)

/-- The states the next cycle uses: those kept, unless software has written to the area. -/
def State.loadStates (s : State) (l : Nat) : List SectSt :=
  let x := s.loop l
  let ws := s.lds (s.stateAddr l) 16
  if !x.begun || ws == stateWords x.st then x.st
  else (List.range x.st.length).map (fun i =>
    let v (k : Nat) : Int := sat 24 (Config.stateValue ws (4 * i + k))
    ⟨v 0, v 1, v 2, v 3⟩)

/-! ### Applying sets and tables (R227, R244) -/

/-- Whether a pending change may apply at instant `t`. -/
def PendWhen.met (w : PendWhen) (t : Nat) : Bool :=
  match w with
  | .now => true
  | .from u => decide (u ≤ t)
  | .barrier => false

/-- The states under a new set (SWAP of R225, R227). -/
def swapStates (c : CoefSet) (old : List SectSt) : List SectSt :=
  (List.range c.sects.length).map (fun i =>
    if c.swap = 0 ∨ (c.swap = 1 ∧ i = c.isec) then old.getD i {} else {})

/-- A pending set is applied: SETID, PEND, an info-class event. -/
def State.applySet (s : State) (l : Nat) : State :=
  let x := s.loop l
  match x.pend with
  | none => s
  | some p =>
    let s := s.setLoop l { x with set := p.1, pend := none, st := swapStates p.1 x.st }
    (((s.setF SERVON.STAT.SETID l p.1.setid).setF SERVON.STAT.PEND l 0).loadUpdate).info 9 l (loopEp l)

/-- A copied table becomes the active one: FFT records BASE, FFTN returns to 0. -/
def State.applyTable (s : State) (l : Nat) : State :=
  let x := s.loop l
  let s := (s.setF SERVON.FFT.BASE l (s.f SERVON.FFTN.BASE l)).setF SERVON.FFT.VALID l 1
  (s.setWord (SERVON.FFTN.OK.addr l) 0).setLoop l { x with table := x.tableNew, tableNew := [], tableWhen := none }

/-- What is pending and meets its condition at a cycle of instant `t` is applied. -/
def State.applyPending (s : State) (l t : Nat) : State :=
  let s := match (s.loop l).pend with
    | some p => if p.2.met t then s.applySet l else s
    | none => s
  match (s.loop l).tableWhen with
  | some w => if s.on SERVON.FFTN.OK l ∧ w.met t then s.applyTable l else s
  | none => s

/-- A coefficient set message on stream 8 (R225–R227, R235): refused whole with CODE 0x04, or pending. -/
def coefAccept (l : Nat) (toks : List Token) (s : State) : State :=
  let t := toks.getLastD (mkTok 0 0 0 0 0)
  let refuse (s : State) : State := (s.setF SERVON.STAT.REFUSED l 1).refuse (loopEp l) t 4
  match parseSet l (toks.map (·.payload)) with
  | none => refuse s
  | some c =>
    let on := s.on SERVON.CFG.EN l
    let n := max c.sects.length (s.loop l).set.sects.length
    if on ∧ s.budget < s.loadWith l n 0 0 then refuse (s.setF SERVO.STAT.LOADERR 0 1)
    else
      let w : PendWhen := if c.bnd then .barrier else if t.timed then .from (s.instant t) else .now
      let s := (s.setLoop l { s.loop l with pend := some (c, w) }).setF SERVON.STAT.PEND l 1
      if !on && w.met s.mt then s.applySet l else s.loadUpdate

/-- COEFFICIENT_SET: the message reaches the loop. -/
def coefficientSet (l : Nat) (toks : List Token) (s : State) : State :=
  s.arrive (loopEp l) toks fun s =>
    match toks.find? (fun t => t.kind != 0#4 || t.stream != 8#8) with
    | some t => s.refuse (loopEp l) t 7
    | none => match errToken toks with
      | some t => s.refuse (loopEp l) t 5
      | none => coefAccept l toks s

/-! ### Set-points (R228, R237) -/

/-- The set-points a loop buffers: 48 for galvo and focus, 16 power targets; the spec states no number for an auxiliary loop, which takes
the galvo loops' (log entry 26). -/
def setptDepth (l : Nat) : Nat := if isPower l then 16 else 48

/-- A timed SETP joins the buffer, latest time first; a full buffer stalls its producer and the token stays in transit; an untimed one is
refused with CODE 0x04 (R228). -/
def setpointAccept (l : Nat) (t : Token) (s : State) : State :=
  let x := s.loop l
  if t.kind = 1#4 ∧ t.timed ∧ setptDepth l ≤ x.setpts.length then s
  else s.arrive (loopEp l) [t] fun s =>
    if t.kind ≠ 1#4 then s.refuse (loopEp l) t 7
    else if t.err then s.refuse (loopEp l) t 5
    else if !t.timed then s.refuse (loopEp l) t 4
    else
      let i := s.instant t
      s.setLoop l { x with setpts := (x.setpts.filter (fun p => decide (i < p.1))) ++ [(i, t.payload)] ++ x.setpts.filter (fun p => decide (p.1 ≤ i)) }

/-- The set-point whose time is the latest at or before `t`; every older one is discarded. -/
def takeSetpt (l : List (Nat × Word)) (t : Nat) : Option (Nat × Word) × List (Nat × Word) :=
  let later := l.filter (fun p => decide (t < p.1))
  match l.find? (fun p => decide (p.1 ≤ t)) with
  | some p => (some p, later ++ [p])
  | none => (none, later)

/-! ### Feed-forward (R231, R242) -/

/-- Entry `i` of a table: (COG, FRIC). -/
def tableEntry (t : List Word) (i : Nat) : Int × Int :=
  let w := t.getD (i / 2) 0
  if i % 2 = 0 then (sbits w 15 0, bits w 31 16) else (sbits w 47 32, bits w 63 48)

/-- The table term from its two neighbouring entries, the fraction in 2^−14, VDEAD and VEL. -/
def tableTerm (t : List Word) (i j : Nat) (f : Int) (vdead : Nat) (vel : Int) : Int :=
  let lo := tableEntry t i
  let hi := tableEntry t j
  let cog := lo.1 + rdiv ((hi.1 - lo.1) * f) 16384
  let fr := lo.2 + rdiv ((hi.2 - lo.2) * f) 16384
  let fr := if vdead = 0 then fr else rdiv (fr * min vel.natAbs vdead) vdead
  cog + sgn vel * fr

/-- ft of a galvo or focus loop at reference `r`. -/
def State.ftGalvo (s : State) (l : Nat) (r vel : Int) : Int :=
  if !s.on SERVON.FFT.VALID l then 0
  else
    let r := (clamp 0 16777215 r).toNat
    let i := r / 16384
    tableTerm (s.loop l).table i (min (i + 1) 1023) (r % 16384 : Nat) (s.f SERVON.CFG.VDEAD l) vel

/-- ft of an auxiliary position loop: the table is periodic in TPER counts. -/
def State.ftAux (s : State) (l : Nat) (r vel : Int) : Int :=
  let tper := s.f SERVON.INP.TPER l
  if !s.on SERVON.FFT.VALID l || tper == 0 then 0
  else
    let q := (r % tper).toNat * 1024
    let i := q / tper
    tableTerm (s.loop l).table i ((i + 1) % 1024) ((q % tper) * 16384 / tper : Nat) (s.f SERVON.CFG.VDEAD l) vel

/-! ### The cycle of a position loop (R230–R236) -/

/-- The TRIG token of instant `tc` from trigger col `c` leaves the network as the scheduler takes it. -/
def State.takeTrig (s : State) (c tc : Nat) : State :=
  match s.net.find? (fun t => t.kind == 13#4 && t.dest == 0xB#10 && t.src == BitVec.ofNat 10 (0x300 + c) && t.time == BitVec.ofNat 48 tc) with
  | some t => s.deliver 0xB t
  | none => s

/-- Whether `tc` is an instant of trigger col `c`'s schedule. -/
def State.isCycle (s : State) (c tc : Nat) : Bool :=
  match (s.col c).sched with
  | some k => decide (0 < k.period ∧ k.start ≤ tc ∧ (tc - k.start) % k.period = 0)
  | none => false

/-- Cycles that had not begun when this one's trigger was accepted are abandoned (R248): OVR, the counters, and a warning, or a severe status
after three in a row. -/
def State.abandoned (s : State) (l tc p : Nat) : State :=
  let x := s.loop l
  let missed := match x.lastTc with | some u => if p = 0 then 0 else (tc - u) / p - 1 | none => 0
  let s := s.setLoop l { x with lastTc := some tc, ovrRun := if missed = 0 then 0 else x.ovrRun + missed }
  if missed = 0 then s
  else
    let s := ((s.setF SERVON.STAT.OVR l 1).incF SERVON.CNT.OVRS l missed).incF SERVO.CNT.OVERRUNS 0 missed
    if 3 ≤ x.ovrRun + missed then s.severe 9 l (loopEp l) else s.warn 9 l (loopEp l)

/-- The set-point of a cycle (R228): POS, VEL and ACC as the payload's layout gives them, or the previous POS with SPMISS and a warning. -/
def State.cycleSetpt (s : State) (l tc p : Nat) (pos vel acc : Word → Int) : Int × Int × Int × State :=
  let x := s.loop l
  let r := takeSetpt x.setpts tc
  let s := s.setLoop l { x with setpts := r.2 }
  match r.1 with
  | some q => if tc - p < q.1 then (pos q.2, vel q.2, acc q.2, s)
    else (x.posPrev, 0, 0, ((s.setF SERVON.STAT.SPMISS l 1).incF SERVON.CNT.SPMISSES l).warn 9 l (loopEp l))
  | none => (x.posPrev, 0, 0, ((s.setF SERVON.STAT.SPMISS l 1).incF SERVON.CNT.SPMISSES l).warn 9 l (loopEp l))

/-- The applied reference and whether it ramps (R230). -/
def shapeRef (rstep : Nat) (rPrev velPrev accPrev pos : Int) (p : Nat) : Int × Bool :=
  let adv := rdiv (velPrev * p * 32 * 1000 + accPrev * p * p) (8192 * 1000 * 1000)
  let want := pos - (rPrev + adv)
  if rstep = 0 ∨ (want.natAbs ≤ rstep) then (pos, false) else (rPrev + adv + clamp (-rstep) rstep want, true)

/-- The section step of a cycle: error, feed-forward, output clamp, back-calculation, saturation counts (R230, R232). The result is the
output u. -/
def State.cycleCore (s : State) (l : Nat) (e uff lo hi base : Int) : Int × State :=
  let x := s.loop l
  let r := cascade x.set.sects (s.loadStates l) e
  let uraw := r.1 + uff + base
  let u := clamp lo hi uraw
  let clampd := decide (x.set.isec ≠ 15 ∧ uraw ≠ u)
  let st := if clampd then backCalc x.set r.2.1 (uraw - u) else r.2.1
  let s := s.setLoop l { x with st := st, lastU := u }
  let s := if r.2.2 || decide (uraw ≠ u) then (s.setF SERVON.STAT.SAT l 1).incF SERVON.CNT.SATS l else s
  (u, (s.setFi SERVON.OUT.ERR l e).setFi SERVON.OUT.U l u)

/-- The error tolerance of R236: ECNT consecutive cycles beyond ETOL set STAT.ETOL with a status of class `cls`. -/
def State.etolCheck (s : State) (l err cls : Nat) : State :=
  let tol := s.f SERVON.LIM.ETOL l
  let x := s.loop l
  if tol = 0 ∨ err ≤ tol then s.setLoop l { x with etolCnt := 0 }
  else
    let n := x.etolCnt + 1
    if n = s.f SERVON.CFG.ECNT l then ((s.setLoop l { x with etolCnt := n }).setF SERVON.STAT.ETOL l 1).raise cls 9 l (loopEp l)
    else s.setLoop l { x with etolCnt := n }

/-- A galvo current command (R233). -/
def State.sendGalvo (s : State) (l t mode : Nat) (u : Int) : State :=
  let n := l / 3
  s.send ((mkTok (loopEp l) (0x300 + n) 1 (0x10 + l % 3) (wd (place mode 2 62 + place (ux 16 u) 16 0))).at (t + s.f SERVO.CFG.GODLY))

/-- The newest sample whose stamp lies in (tc − SAGE − P, tc − SAGE] (R229). -/
def State.windowSample (s : State) (l tc p : Nat) : Option AxSample :=
  let sage := s.f SERVO.CFG.SAGE
  (s.loop l).samples.find? (fun m => decide (m.stamp + sage ≤ tc ∧ tc < m.stamp + sage + p))

/-- The measured value of a cycle (R229): the window's sample, or the newest one carried on at its speed with FBMISS and a warning. The result
says whether the loop must hold, after four such cycles in a row. -/
def State.cycleMeasure (s : State) (l tc p : Nat) : Int × Bool × State :=
  let x := s.loop l
  match s.windowSample l tc p with
  | some m => ((m.y16 : Int), false, s.setLoop l { x with extrap := 0 })
  | none =>
    let m := x.samples.headD ⟨0, 0, 0⟩
    let y := (m.y16 : Int) + rdiv (m.vel * (tc - m.stamp)) 16000
    let n := x.extrap + 1
    let s := ((s.setLoop l { x with extrap := n }).setF SERVON.STAT.FBMISS l 1).incF SERVON.CNT.FBMISSES l
    let s := s.warn 9 l (loopEp l)
    (y, decide (4 ≤ n), if n = 4 then s.severe 9 l (loopEp l) else s)

/-- The first cycle of an enabled loop that has no measured value: MODE 0b01 with u 0, HOLD 1, FBMISS once (R234). -/
def State.noMeasure (s : State) (l : Nat) : State :=
  let x := s.loop l
  let s := s.setF SERVON.STAT.HOLD l 1
  if x.fbOnce then s else ((s.setLoop l { x with fbOnce := true }).setF SERVON.STAT.FBMISS l 1).warn 9 l (loopEp l)

/-- The start of an enabled loop at its first cycle with a measured value: cleared states, r_prev from it (R234). -/
def Loop.start (x : Loop) (r : Int) : Loop :=
  { x with st := x.set.sects.map (fun _ => {}), rPrev := r, velPrev := 0, accPrev := 0, posPrev := r, extrap := 0, begun := true, etolCnt := 0, c := 0 }

/-- One cycle of a galvo or focus loop at tc (R228–R236). -/
def galvoCycle (l tc : Nat) (s : State) : State :=
  let p := s.servoPeriod
  if !s.on SERVON.CFG.EN l || !s.isCycle 120 tc then s
  else
    let s := ((s.reach tc).takeTrig 120 tc).abandoned l tc p
    let s := s.applyPending l tc
    let x := s.loop l
    if x.samples = [] then (s.noMeasure l).sendGalvo l tc 1 0
    else
      let s := if x.begun then s else s.setLoop l (x.start (rdiv (x.samples.headD ⟨0, 0, 0⟩).y16 16))
      let m := s.cycleMeasure l tc p
      let q := m.2.2.cycleSetpt l tc p (fun w => bits w 63 40) (fun w => sbits w 39 16) (fun w => sbits w 15 0)
      let s := q.2.2.2
      let x := s.loop l
      let r := shapeRef (s.f SERVON.CFG.RSTEP l) x.rPrev x.velPrev x.accPrev q.1 p
      let e := sat 24 (16 * r.1 - m.1)
      let uff := scale (x.set.kv * q.2.1 + x.set.ka * q.2.2.1) (x.set.fe - 19)
      let omax : Int := s.f SERVON.LIM.OMAX l
      let c := s.cycleCore l e uff (-omax) omax (s.ftGalvo l r.1 q.2.1)
      let s := c.2
      let s := s.setLoop l { s.loop l with rPrev := r.1, velPrev := q.2.1, accPrev := q.2.2.1, posPrev := q.1 }
      let s := (s.setF SERVON.STAT.SHAPE l r.2.toNat).setF SERVON.STAT.HOLD l m.2.1.toNat
      let s := s.etolCheck l (16 * r.1 - m.1).natAbs 1
      (s.saveStates l).sendGalvo l tc m.2.1.toNat c.1

/-! ### Power loops (R237–R240) -/

/-- The power command token to the head's col (R238). -/
def State.sendPower (s : State) (n : Nat) (u : Int) : State :=
  let l := 72 + n
  s.send { mkTok (loopEp l) (0x300 + n) 1 0x18 (wd (place (s.loop l).cycles 16 48 + place (ux 16 u) 16 0)) with urgent := true }

/-- The power target in force at stamp `t`: the latest with time ≤ t + TADV, or 0. -/
def State.targetAt (s : State) (n t : Nat) : Nat :=
  match (s.loop (72 + n)).setpts.find? (fun p => decide (p.1 ≤ t + s.f SERVO.CFG.TADV)) with
  | some p => bits p.2 15 0
  | none => 0

/-- Tp (R237). -/
def State.tpOf (s : State) (n t : Nat) : Nat :=
  min 65535 (rdiv ((s.targetAt n t * s.f SERVO.RULE.STAT.CTRIM n : Nat) : Int) 32768).toNat

/-- Whether the loop runs in feed-forward only at stamp `t`. -/
def State.gatedAt (s : State) (n t : Nat) : Bool :=
  s.tpOf n t == 0 || !gateLevelAt s.gateLog n t ||
  (match gateRiseAt s.gateLog n t with
   | some r => decide (t < r + s.f SERVON.INP.GHOLD (72 + n))
   | none => true)

/-- The sums of the part in progress take one cycle (R317). -/
def accumulate (a : PartAcc) (u tp e r : Nat) (c : Int) (cmax : Nat) : PartAcc :=
  { a with npair := a.npair + 1, usum := a.usum + u, umin := min a.umin u, umax := max a.umax u, tsum := a.tsum + tp, esum := a.esum + e,
           emax := max a.emax e, rsum := a.rsum + r, rmax := max a.rmax r, csum := a.csum + c, clo := min a.clo c, chi := max a.chi c,
           nsat := if c.natAbs = cmax then a.nsat + 1 else a.nsat }

/-- One cycle of the power loop of Ln on the oldest pair (R237). The applied u is part of the state; `powerCycle` sends it. -/
def powerCycle (n : Nat) (s : State) : State :=
  let l := 72 + n
  let x := s.loop l
  match x.pairs with
  | [] => s
  | p :: rest =>
    let s := s.setLoop l { x with pairs := rest, lastPair := p.stamp }
    if !s.on SERVON.CFG.EN l then s
    else
      let s := s.applyPending l p.stamp
      let x := s.loop l
      let x := if x.begun then x else x.start 0
      let x := if x.clearNext then { x with st := x.st.map (fun _ => {}), clearNext := false } else x
      let s := s.setLoop l { x with cycles := (x.cycles + 1) % 65536 }
      let told := s.targetAt n x.lastPair
      let t := s.targetAt n p.stamp
      let s := if t = told then s else s.setLoop l { s.loop l with targetAt := (p.stamp :: x.targetAt).take 64 }
      let tp := s.tpOf n p.stamp
      let omax : Int := s.f SERVON.LIM.OMAX l
      let cmax := s.f SERVON.LIM.CMAX l
      let s := if s.gatedAt n p.stamp then
          let x := s.loop l
          let u := min (tp : Int) omax
          let s := s.setLoop l { x with st := x.st.map (fun _ => {}), c := 0, lastU := u }
          let s := (s.setF SERVON.STAT.GATED l 1).setFi SERVON.OUT.U l u
          s
        else
          let x := s.loop l
          let we := s.fi SERVON.INP.WE l
          let wr := s.fi SERVON.INP.WR l
          let m := rshr (we * (p.e0 + p.e1 : Nat) + wr * (p.r0 + p.r1 : Nat)) 13
          let e := sat 24 ((tp : Int) - m)
          let r := cascade x.set.sects (s.loadStates l) e
          let c := clamp (-cmax) cmax r.1
          let uraw := (tp : Int) + r.1
          let u := clamp 0 omax ((tp : Int) + c)
          let st := if x.set.isec ≠ 15 ∧ uraw ≠ u then backCalc x.set r.2.1 (uraw - u) else r.2.1
          let s := s.setLoop l { x with st := st, c := c, lastU := u }
          let s := if r.2.2 || decide (uraw ≠ u) then (s.setF SERVON.STAT.SAT l 1).incF SERVON.CNT.SATS l else s
          let s := ((s.setF SERVON.STAT.GATED l 0).setFi SERVON.OUT.ERR l e).setFi SERVON.OUT.U l u
          s.etolCheck l ((tp : Int) - m).natAbs 2
      let x := s.loop l
      let q := s.pg n
      let s := match q.acc with
        | some a => if a.ton ≤ p.stamp then
            s.setPg n { q with acc := some (accumulate a x.lastU.toNat tp ((p.e0 + p.e1) / 2) ((p.r0 + p.r1) / 2) x.c cmax) } else s
        | none => s
      (s.saveStates l).sendPower n x.lastU

/-- The output stage alone (R239): Tp with the CTRIM in force and c from the last cycle. -/
def State.outputStage (s : State) (n : Nat) : State :=
  let l := 72 + n
  if !s.on SERVON.CFG.EN l then s
  else
    let tp : Int := s.tpOf n s.mt
    let omax : Int := s.f SERVON.LIM.OMAX l
    let u := if s.on SERVON.STAT.GATED l then min tp omax else clamp 0 omax (tp + (s.loop l).c)
    ((s.setLoop l { s.loop l with lastU := u }).setFi SERVON.OUT.U l u).sendPower n u

/-- CTRIM takes a new value and the output stage runs once (R239). -/
def State.setTrim (s : State) (n v : Nat) : State :=
  let l := 72 + n
  let s := if s.f SERVO.RULE.STAT.CTRIM n = v then s
    else (s.setF SERVO.RULE.STAT.CTRIM n v).setLoop l { s.loop l with trimAt := (s.mt :: (s.loop l).trimAt).take 64 }
  s.outputStage n

/-- A CTRIM token takes effect (R239, R303). -/
def trimAct (n : Nat) (t : Token) (s : State) : State :=
  if s.on SERVO.RULE.CFG.EN n then s.refuse (powerEp n) t 3 else s.setTrim n (bits t.payload 15 0)

/-- CTRIM_SET: a DATA token on stream 1 (R239); the enabled rule refuses it with CODE 0x03 (R303). -/
def ctrimSet (n : Nat) (t : Token) (s : State) : State :=
  s.arrive (powerEp n) [t] fun s =>
    if t.kind ≠ 0#4 ∨ t.stream ≠ 1#8 then s.refuse (powerEp n) t 7
    else if t.err then s.refuse (powerEp n) t 5
    else if bits t.payload 63 16 ≠ 0 then s.refuse (powerEp n) t 4
    else if s.on SERVO.RULE.CFG.EN n then s.refuse (powerEp n) t 3
    else s.whenDue [t] (trimAct n t)

/-- PAIR_MISSING: no pair for 5,000 ns while LGATEn is high, counted from the later of the last pair and the rise (R240). -/
def pairMissing (n : Nat) (s : State) : State :=
  let l := 72 + n
  let x := s.loop l
  match gateRiseAt s.gateLog n s.mt with
  | none => s
  | some r =>
    if !s.on SERVON.CFG.EN l || !gateLevelAt s.gateLog n s.mt || x.clearNext then s
    else
      let s := s.reach (max r x.lastPair + 5000)
      (((s.setLoop l { x with clearNext := true }).setF SERVON.STAT.FBMISS l 1).incF SERVON.CNT.FBMISSES l).warn 9 l (loopEp l)

/-! ### Enable and disable (R234, R246, R252) -/

/-- What refuses a write of SERVO[ℓ].CFG: an enable over the budget or without a state area; a disable of a galvo or focus loop whose path
generator is not IDLE. -/
def loopCfgCheck (l : Nat) (old new : State) : Option Nat :=
  if !old.on SERVON.CFG.EN l ∧ new.on SERVON.CFG.EN l then
    if !old.on SERVO.STBASE.VALID ∨ old.budget < old.loadWith l (old.loop l).nsec 0 0 then some 8 else none
  else if old.on SERVON.CFG.EN l ∧ !new.on SERVON.CFG.EN l ∧ isGalvo l ∧ old.pgState (l / 3) ≠ pgIDLE then some 8
  else none

/-- An enable refused for load sets LOADERR (R246). -/
def loopCfgRefused (l : Nat) (old s : State) : State :=
  if old.on SERVO.STBASE.VALID ∧ !old.on SERVON.CFG.EN l ∧ old.budget < old.loadWith l (old.loop l).nsec 0 0 then s.setF SERVO.STAT.LOADERR 0 1 else s

/-- The last output of a galvo, focus or power loop whose EN is cleared (R234). -/
def State.lastOutput (s : State) (l : Nat) : State :=
  if isGalvo l then s.sendGalvo l (s.cycleFrom (s.mt + 1)) 1 (s.loop l).lastU
  else if isPower l then s.sendPower (l - 72) 0
  else s

/-- EN changes: the loop starts afresh at its next cycle, or stops after one last output. -/
def loopCfgEffect (l : Nat) (old s : State) : State :=
  if !old.on SERVON.CFG.EN l ∧ s.on SERVON.CFG.EN l then
    ((s.setLoop l { s.loop l with begun := false, fbOnce := false, lastTc := none, ovrRun := 0, clearNext := false, c := 0 }).setF SERVON.STAT.RUN l 1).loadUpdate
  else if old.on SERVON.CFG.EN l ∧ !s.on SERVON.CFG.EN l then
    (((s.lastOutput l).setF SERVON.STAT.RUN l 0).setF SERVON.STAT.HOLD l 0).loadUpdate
  else s

/-! ### Feed-forward tables (R244) -/

def fftnCheck (l : Nat) (new : State) : Option Nat :=
  if isPower l ∨ isAuxCur l ∨ !inPlain (new.f SERVON.FFTN.BASE l * 4096) 4096 then some 8 else none

def fftnRefused (l : Nat) (s : State) : State := s.setF SERVON.STAT.REFUSED l 1

/-- A write of FFTN: WHEN 0b00 cancels, any other starts a copy. -/
def fftnEffect (l : Nat) (s : State) : State :=
  let s := s.setF SERVON.FFTN.OK l 0
  let w := s.f SERVON.FFTN.WHEN l
  s.setLoop l { s.loop l with copying := w != 0, tableNew := [], tableWhen := if w = 0 then none else if w = 1 then some .barrier else some .now }

/-- FFT_COPY_DONE: the table is copied and OK reads 1; a disabled loop with WHEN 0b10 takes it at once (R235, R244). -/
def fftCopyDone (l : Nat) (s : State) : State :=
  let x := s.loop l
  if !x.copying then s
  else
    let s := (s.setLoop l { x with copying := false, tableNew := s.lds (s.f SERVON.FFTN.BASE l * 4096) 512 }).setF SERVON.FFTN.OK l 1
    if !s.on SERVON.CFG.EN l && x.tableWhen == some .now then s.applyTable l else s

/-! ### Barriers (R29) and SYNC (R57) -/

/-- At a barrier of time `t` a loop's marked set and table may apply: at once where the loop is disabled; a table whose copy is not complete
waits for the following barrier with an info-class event (R244). -/
def servoBarrier (t : Nat) (s : State) (l : Nat) : State :=
  let x := s.loop l
  let s := match x.pend with
    | some (c, .barrier) => s.setLoop l { x with pend := some (c, .from t) }
    | _ => s
  let x := s.loop l
  let s := match x.tableWhen with
    | some .barrier => if s.on SERVON.FFTN.OK l then s.setLoop l { x with tableWhen := some (.from t) } else s.info 9 l (loopEp l)
    | _ => s
  if s.on SERVON.CFG.EN l then s else s.applyPending l t

/-- A disabled loop applies a timed set at the SYNC at or after its time (R235). -/
def servoSync (s : State) : State :=
  (List.range 112).foldl (fun s l => if s.on SERVON.CFG.EN l then s else s.applyPending l s.mt) s

/-! ### Units and the state area (R249, R250, R252) -/

def State.setUnit (s : State) (k st : Nat) : State :=
  let a := SERVO.UNIT.U0.base
  let w := s.word a
  s.setWord a ((w &&& ~~~ wd (15 * 2 ^ (4 * k))) ||| wd (st * 2 ^ (4 * k)))

/-- UNIT_FAIL: unit k fails in a cycle of loop ℓ; the cycle is run again elsewhere, a spare comes in, the record names unit and loop. -/
def unitFail (k l : Nat) (s : State) : State :=
  if (s.unitsIn 0).contains k then
    let s := s.setUnit k 3
    let s := match (s.unitsIn 1).head? with | some j => s.setUnit j 0 | none => s
    let s := (s.incF SERVO.CNT.RERUNS 0).setF SERVO.STAT.UNITFAIL 0 1
    (s.raise 2 9 k (0x270 + k) 0xA (wd l) 0).loadUpdate
  else s

/-- STBASE may be written only while every loop has EN 0; the area lies wholly in the Plain. -/
def stbaseCheck (old new : State) : Option Nat :=
  if (List.range 112).any (fun l => old.on SERVON.CFG.EN l) ∨ !inPlain (new.f SERVO.STBASE.BASE * 128) 14336 then some 8 else none

def stbaseEffect (s : State) : State := s.setF SERVO.STBASE.VALID 0 1

/-- OMAX of a loop other than a power loop is at most 32,767 (R253). -/
def loopLimCheck (l : Nat) (new : State) : Option Nat := if !isPower l ∧ 32767 < new.f SERVON.LIM.OMAX l then some 8 else none

/-! ### The commands -/

/-- COEFFICIENT_SET (R225–R227). -/
def execCoefficientSet (l : Fin 112) (toks : List Token) (s : State) : Host.Outcome State Fault Refusal := .next (coefficientSet l toks s)

/-- SETPOINT_ACCEPT (R228). -/
def execSetpointAccept (l : Fin 112) (tok : Token) (s : State) : Host.Outcome State Fault Refusal := .next (setpointAccept l tok s)

/-- GALVO_CYCLE (R230). -/
def execGalvoCycle (l : Fin 72) (tc : Nat) (s : State) : Host.Outcome State Fault Refusal := .next (galvoCycle l tc s)

/-- CTRIM_SET (R239). -/
def execCtrimSet (n : Fin 24) (tok : Token) (s : State) : Host.Outcome State Fault Refusal := .next (ctrimSet n tok s)

/-- PAIR_MISSING (R240). -/
def execPairMissing (n : Fin 24) (s : State) : Host.Outcome State Fault Refusal := .next (pairMissing n s)

/-- FFT_COPY_DONE (R244). -/
def execFftCopyDone (l : Fin 112) (s : State) : Host.Outcome State Fault Refusal := .next (fftCopyDone l s)

end Sys2Proof.Machine
end

