-- ==== Sys2Proof/Machine/Position.lean ====
section
/-! DEFINITION. Position feedback: sin/cos channels, encoders, Hall sensors, speed estimators, probes and encoder emulation (R254–R279). -/

namespace Sys2Proof.Machine

open Sys2Proof

/-- The entry of field `f` whose word lies at address `a`, where the array has `n` entries. -/
def Fld.idx (f : Fld) (n a : Nat) : Option Nat :=
  if a < f.base then none
  else if f.stride = 0 then (if a = f.base then some 0 else none)
  else if (a - f.base) % f.stride = 0 ∧ (a - f.base) / f.stride < n then some ((a - f.base) / f.stride) else none

/-- A token that a block sends and its consumer takes in the same step: it counts as sent and as delivered (R40). -/
def State.pass (s : State) (t : Token) : State :=
  let s := s.send t
  match s.net.getLast? with
  | some u => s.deliver t.dest.toNat u
  | none => s

def State.passMsg (s : State) (src dest kind stream : Nat) : List Word → State
  | [] => s
  | [w] => s.pass (mkTok src dest kind stream w true)
  | w :: t => (s.pass (mkTok src dest kind stream w false)).passMsg src dest kind stream t

/-! ### Units -/

def State.sc (s : State) (a : Nat) : ScSt := tget (fun _ => {}) s.scs a
def State.setSc (s : State) (a : Nat) (x : ScSt) : State := s.setScs (tset (fun _ => {}) s.scs a x)
def State.enc (s : State) (k : Nat) : EncSt := tget (fun _ => {}) s.encs k
def State.setEnc (s : State) (k : Nat) (x : EncSt) : State := s.setEncs (tset (fun _ => {}) s.encs k x)
def State.hall (s : State) (k : Nat) : HallSt := tget (fun _ => {}) s.halls k
def State.setHall (s : State) (k : Nat) (x : HallSt) : State := s.setHalls (tset (fun _ => {}) s.halls k x)
def State.probe (s : State) (k : Nat) : ProbeSt := tget (fun _ => {}) s.probes k
def State.setProbe (s : State) (k : Nat) (x : ProbeSt) : State := s.setProbes (tset (fun _ => {}) s.probes k x)
def State.emu (s : State) (k : Nat) : EmuSt := tget (fun _ => {}) s.emus k
def State.setEmu (s : State) (k : Nat) (x : EmuSt) : State := s.setEmus (tset (fun _ => {}) s.emus k x)

/-- A raise of the position feedback unit; the record carries the status word `f` of instance `k`. -/
def State.posRaise (s : State) (cls k : Nat) (f : Fld) (src : Nat := 0xA) : State := s.raise cls 10 k src 1 (s.word (f.addr k))

/-! ### Angles (R254) -/

/-- floor(atan(y / x) / 2π · 65536) of a vector in the first quadrant, by bisection: 2^−16 periods 0–16383. The eighth is exact; every other
multiple of 2^−16 period has an irrational tangent, and `cosSin` separates it from every pair of codes. -/
def octFloorGo (x y : Int) : Nat → Nat → Nat
  | 0, f => f
  | k + 1, f =>
    let c := f + 2 ^ k
    let le := if c = 8192 then decide (x ≤ y) else
      let cs := cosSin ((c : Int) * 2 ^ 32)
      decide (x * cs.2 ≤ y * cs.1)
    octFloorGo x y k (if le then c else f)

/-- floor(f · 65536) for f = atan2(S, C) / 2π in [0, 1). -/
def angle16 (sn c : Int) : Nat :=
  if 0 < c ∧ 0 ≤ sn then octFloorGo c sn 14 0
  else if c ≤ 0 ∧ 0 < sn then 16384 + octFloorGo sn (-c) 14 0
  else if c < 0 ∧ sn ≤ 0 then 32768 + octFloorGo (-c) (-sn) 14 0
  else if 0 ≤ c ∧ sn < 0 then 49152 + octFloorGo (-sn) c 14 0
  else 0

/-! ### Adaptation (R259) -/

/-- `v` moved a sixteenth of the way to the estimate num / den, rounded to nearest, and clamped within ±ALIM of its CAL value; the flag says
whether the clamp acted. -/
def adaptStep (v cal alim num : Int) (den : Nat) (lo hi : Int) : Int × Bool :=
  let w := v + rdiv (num - v * den) (16 * den)
  let r := clamp (max lo (cal - alim)) (min hi (cal + alim)) w
  (r, decide (r ≠ w))

/-- The end of a usable period: each adapted value moves towards its estimate. -/
def State.adaptMove (s : State) (a : Nat) (r : AdaptRun) : State :=
  let alim : Int := s.f POS.SC.AMP.ALIM a
  let so := adaptStep (s.fi POS.SC.ADJ.SOFS a) (s.fi POS.SC.CAL.SOFS a) alim (r.sinMax + r.sinMin) 2 (-32768) 32767
  let co := adaptStep (s.fi POS.SC.ADJ.COFS a) (s.fi POS.SC.CAL.COFS a) alim (r.cosMax + r.cosMin) 2 (-32768) 32767
  let span := (r.cosMax - r.cosMin).toNat
  let g : Int × Bool := if span = 0 then (s.f POS.SC.ADJ.GCOS a, false)
    else adaptStep (s.f POS.SC.ADJ.GCOS a) (s.f POS.SC.CAL.GCOS a) alim (32768 * (r.sinMax - r.sinMin)) span 1 65535
  let s := ((s.setFi POS.SC.ADJ.SOFS a so.1).setFi POS.SC.ADJ.COFS a co.1).setFi POS.SC.ADJ.GCOS a g.1
  if so.2 || co.2 || g.2 then s.setF POS.SC.STAT.ACLAMP a 1 else s

/-- An accepted sample with corrected quadrant count `q` and raw codes joins the period in progress; a period is complete when it was entered
and left across its two boundaries in one direction. -/
def State.adaptSample (s : State) (a : Nat) (q sn cs : Int) : State :=
  let x := s.sc a
  let p := q / 4
  match x.adapt with
  | none => s.setSc a { x with adapt := some ⟨p, 0, false, 1, q, sn, sn, cs, cs⟩ }
  | some r =>
    if p = r.period then
      let back := decide ((q - r.lastQ) * r.dir < 0)
      s.setSc a { x with adapt := some { r with whole := r.whole && !back, count := r.count + 1, lastQ := q, sinMax := max r.sinMax sn,
                                                sinMin := min r.sinMin sn, cosMax := max r.cosMax cs, cosMin := min r.cosMin cs } }
    else
      let s := if r.whole ∧ 8 ≤ r.count ∧ p - r.period = r.dir then s.adaptMove a r else s
      s.setSc a { s.sc a with adapt := some ⟨p, sgn (p - r.period), decide ((p - r.period).natAbs = 1), 1, q, sn, sn, cs, cs⟩ }

/-! ### Sin/cos samples (R254–R259) -/

/-- A rejection: the cause's counter, and AFAULT with a severe status at the ACNT-th in a row (R257). -/
def State.scReject (s : State) (a : Nat) (cause : Fld) : State :=
  let s := s.incF cause a
  let n := (s.sc a).rejects + 1
  let s := s.setSc a { s.sc a with rejects := n }
  if n = s.f POS.SC.CFG.ACNT a then (s.setF POS.SC.STAT.AFAULT a 1).posRaise 1 a POS.SC.STAT.AFAULT else s

/-- VEL of R255 and whether it is a gap. -/
def scVel (last : Option (Nat × Nat)) (stamp y : Nat) : Int × Bool :=
  match last with
  | none => (0, true)
  | some l => if 20000 < stamp - l.1 then (0, true) else (sat 24 (rdiv (((y : Int) - l.2) * 16000) (stamp - l.1)), false)

/-- The two tokens of a sample message (R256). -/
def sampleWords (stamp axis y : Nat) (vel : Int) (gap corr : Bool) : List Word :=
  [wd (place stamp 48 16 + place axis 2 6 + place gap.toNat 1 1 + place corr.toNat 1 0), wd (place y 28 36 + place (ux 24 vel) 24 12)]

/-- An accepted sample goes to the axis's loop, and for X and Y to the head's path generator; channels emulated from it note it. -/
def State.scAccept (s : State) (a stamp y : Nat) (vel : Int) (gap corr : Bool) : State :=
  let ws := sampleWords stamp (a % 3) y vel gap corr
  let s := s.passMsg 0xA (loopEp a) 0 2 ws
  let s := s.setLoop a { s.loop a with samples := (⟨stamp, y, vel⟩ :: (s.loop a).samples).take 32 }
  let s := if a % 3 = 2 then s else s.sendMsg 0xA (pgEp (a / 3)) 0 5 ws
  (List.range 4).foldl (fun s k =>
    if s.on POS.EMU.CFG.EN k ∧ s.f POS.EMU.CFG.SRC k = a then s.setEmu k { s.emu k with due := (s.emu k).due ++ [(stamp, y)] } else s) s

/-- SINCOS_SAMPLE: one sample of channel `a` with codes `sn` and `cs`, count `qc` and stamp in MT. -/
def State.sincos (s : State) (a : Nat) (sn cs : Int) (qc stamp : Nat) : State :=
  if !s.on POS.SC.CFG.EN a then s
  else
    let x := s.sc a
    match x.qc with
    | none => (s.setSc a { x with qh := sx 16 qc, qc := some qc, lastRx := some stamp }).setF POS.SC.STAT.RUN a 1
    | some q0 =>
      let gapped := match x.lastRx with | some t => decide (0 < s.superframe ∧ 64 * s.superframe < stamp - t) | none => false
      let qh := x.qh + wdiff 16 qc q0
      let s := s.setSc a { x with qh := qh, qc := some qc, lastRx := some stamp }
      let s := if gapped then (s.setF POS.SC.STAT.REREF a 1).posRaise 2 a POS.SC.STAT.REREF else s
      let ad := s.on POS.SC.CFG.ADAPT a
      let sofs := if ad then s.fi POS.SC.ADJ.SOFS a else s.fi POS.SC.CAL.SOFS a
      let cofs := if ad then s.fi POS.SC.ADJ.COFS a else s.fi POS.SC.CAL.COFS a
      let gcos : Int := if ad then s.f POS.SC.ADJ.GCOS a else s.f POS.SC.CAL.GCOS a
      let S := sn - sofs
      let C := rdiv ((cs - cofs) * gcos) 32768
      let m := S * S + C * C
      let lo : Int := s.f POS.SC.AMP.AMIN a
      let hi : Int := s.f POS.SC.AMP.AMAX a
      if m < lo * lo ∨ hi * hi < m then s.scReject a POS.SC.CNT.AMPS
      else if (match x.last with | some l => decide (stamp ≤ l.1) | none => false) then s.scReject a POS.SC.CNT.STALES
      else
        let f := angle16 S C
        let qa : Int := (f / 16384 : Nat)
        let d := (qa - qh) % 4
        if d = 2 then s.scReject a POS.SC.CNT.QAMBS
        else
          let q := if d = 1 then qh + 1 else if d = 3 then qh - 1 else qh
          let corr := decide (d ≠ 0)
          let p := sx 48 (ux 48 ((q - qa) / 4 * 65536 + f))
          let k := rshr ((p - 65536 * s.fi POS.SC.ZERO.PZERO a) * s.f POS.SC.CFG.KSC a) 24
          let k := if s.on POS.SC.CFG.DIR a then -k else k
          let y := 16 * (s.f POS.SC.ZERO.ACOFS a : Int) + k
          let yc := clamp 0 268435455 y
          let s := if yc = y then s else (s.setF POS.SC.STAT.RANGE a 1).posRaise 2 a POS.SC.STAT.RANGE
          let s := if corr then s.incF POS.SC.CNT.CORRS a else s
          let v := scVel x.last stamp yc.toNat
          let s := s.setSc a { s.sc a with rejects := 0, last := some (stamp, yc.toNat), hist := ((stamp, yc.toNat) :: (s.sc a).hist).take 64 }
          let s := (s.setF POS.SC.LAST.Y16 a yc.toNat).setFi POS.SC.LAST.VEL a v.1
          let s := if ad then s.adaptSample a q sn cs else s
          s.scAccept a stamp yc.toNat v.1 v.2 corr

/-! ### The speed estimator (R266, R267) -/

/-- `m` increments at `t` in the direction `neg`; the flag says whether they reversed the run. -/
def SpdSt.step (x : SpdSt) (t : Nat) (neg : Bool) (m : Nat) : SpdSt × Bool :=
  let rec go (x : SpdSt) : Nat → SpdSt
    | 0 => x
    | k + 1 => go { x with run := (t :: x.run).take 17, j := x.j + 1, n := x.n + 1 } k
  if x.run = [] then (go { x with j := 0, n := 0, neg := neg, rev := false } m, false)
  else if x.neg ≠ neg then (go { x with run := [], j := 0, n := 0, neg := neg, rev := true } m, true)
  else (go x m, false)

/-- The smaller of two fractions, a denominator of 0 standing for infinity. -/
def fracMin (a b : Nat × Nat) : Nat × Nat :=
  if a.2 = 0 then b else if b.2 = 0 then a else if a.1 * b.2 ≤ b.1 * a.2 then a else b

/-- The SPD word: DIR, METHOD and MAG of a speed in increments per ns. -/
def spdWord (neg : Bool) (method : Nat) (v : Nat × Nat) : Word :=
  wd (place neg.toNat 1 63 + place method 2 60 + min 0xFFFFFFFF (rdiv ((v.1 : Int) * 16000000000) v.2).toNat)

/-- The report at update instant `tu` with window `w`: the SPD word and the estimator after it. `meth` is the METHOD before. -/
def SpdSt.update (x : SpdSt) (meth tu w still nhi nlo pavg : Nat) : Word × SpdSt :=
  match x.run with
  | [] => (spdWord false 0 (0, 1), { x with n := 0 })
  | e :: _ =>
    if still * 1000000 ≤ tu - e then (spdWord false 0 (0, 1), { x with run := [], j := 0, e0 := e, rev := false, n := 0 })
    else if x.rev ∧ x.j < 2 then (spdWord x.neg 3 (0, 1), { x with n := 0 })
    else
      let m0 := if meth = 2 then 2 else 1
      let m1 := if m0 = 1 ∧ nhi ≤ x.n then 2 else m0
      let m2 := if m1 = 2 ∧ x.n ≤ nlo then 1 else m1
      let vp : Nat × Nat := if m2 = 2 then (x.n, w)
        else if 2 ≤ x.j then let m := min pavg (x.j - 1); (m, e - x.run.getD m 0)
        else (1, e - x.e0)
      (spdWord x.neg m2 (fracMin vp (1, tu - e)), { x with n := 0 })

/-- SPEED_UPDATE: at a COL121 instant every enabled encoder and Hall unit reports. -/
def speedUpdate (tu : Nat) (s : State) : State :=
  if !s.isCycle 121 tu then s
  else
    let s := s.reach tu
    let w := ((s.col 121).sched.map (·.period)).getD 0
    let s := (List.range 8).foldl (fun s k =>
      if !s.on POS.ENC.CFG.EN k then s
      else
        let x := s.enc k
        let r := x.spd.update (s.f POS.ENC.SPD.METHOD k) tu w (s.f POS.ENC.SPCFG.STILL k) (s.f POS.ENC.SPCFG.NHI k) (s.f POS.ENC.SPCFG.NLO k)
          (s.f POS.ENC.SPCFG.PAVG k)
        let s := (s.setEnc k { x with spd := r.2 }).setWord (POS.ENC.SPD.MAG.addr k) r.1
        s.setF POS.ENC.STAT.STILL k (if s.f POS.ENC.SPD.METHOD k = 0 then 1 else 0)) s
    (List.range 8).foldl (fun s k =>
      if !s.on POS.HALL.CFG.EN k then s
      else
        let x := s.hall k
        let r := x.spd.update (s.f POS.HALL.SPD.METHOD k) tu w 100 16 8 4
        (s.setHall k { x with spd := r.2 }).setWord (POS.HALL.SPD.MAG.addr k) r.1) s

/-! ### Incremental encoders (R260–R264) -/

/-- The place of a pair of levels in the quadrature sequence 00, 10, 11, 01. -/
def quadState (a b : Bool) : Nat := if a then (if b then 2 else 1) else (if b then 3 else 0)

/-- COUNT takes a new value modulo 2^32; passing the end of the range sets WRAP with a warning (R261). -/
def State.setCount (s : State) (k : Nat) (v : Int) : State :=
  let s := s.setFi POS.ENC.COUNT.V k v
  if v < -(2 ^ 31 : Nat) ∨ (2 ^ 31 : Nat) ≤ v then (s.setF POS.ENC.STAT.WRAP k 1).posRaise 2 k POS.ENC.STAT.WRAP else s

/-- ENC_EDGE: A and B have held their new levels for `held` samples from `t` on (R260). -/
def encEdge (k : Nat) (a b : Bool) (t held : Nat) (s : State) : State :=
  if held < s.f POS.ENC.CFG.FILT k + 1 then s
  else
    let s := s.reach t
    let x := s.enc k
    let d := (quadState a b + 4 - quadState x.a x.b) % 4
    let s := s.setEnc k { x with a := a, b := b }
    if !s.on POS.ENC.CFG.EN k || d == 0 then s
    else if d = 2 then ((s.setF POS.ENC.STAT.QERR k 1).incF POS.ENC.CNT.QERRS k).posRaise 2 k POS.ENC.STAT.QERR
    else
      let neg := (d == 3) != s.on POS.ENC.CFG.DIR k
      let r := (s.enc k).spd.step t neg 1
      let s := s.setEnc k { s.enc k with spd := r.1 }
      let s := if r.2 then s.setF POS.ENC.SPD.METHOD k 1 else s
      s.setCount k (s.fi POS.ENC.COUNT.V k + (if neg then -1 else 1))

/-- The deviation of a count difference from a multiple of CPR (R264). -/
def indexDev (x : Int) (cpr : Nat) : Int := x - cpr * rdiv x cpr

/-- INDEX_EVENT: I has held its new level from `t` on; at its active level, with the gate of A and B where GEN is 1 (R263, R264). -/
def indexEvent (k : Nat) (level : Bool) (t held : Nat) (s : State) : State :=
  if held < s.f POS.ENC.CFG.FILT k + 1 then s
  else
    let s := s.reach t
    let x := s.enc k
    let rose := x.i != level
    let s := s.setEnc k { x with i := level }
    let gab := s.f POS.ENC.ICFG.GAB k
    let gate := !s.on POS.ENC.ICFG.GEN k || (x.a == gab.testBit 1 && x.b == gab.testBit 0)
    if !s.on POS.ENC.CFG.EN k || !rose || level != s.on POS.ENC.ICFG.IACT k || !gate then s
    else
      let c := s.fi POS.ENC.COUNT.V k
      let s := ((s.setFi POS.ENC.IDX.ICOUNT k c).setF POS.ENC.IDXT.V k t).incF POS.ENC.CNT.INDEXES k
      match x.ref with
      | none =>
        if s.on POS.ENC.ICFG.IHOME k then
          (((s.setEnc k { s.enc k with ref := some 0 }).setF POS.ENC.COUNT.V k 0).setF POS.ENC.STAT.HOMED k 1).setF POS.ENC.ICFG.IHOME k 0
        else s.setEnc k { s.enc k with ref := some c }
      | some ref =>
        let cpr := s.f POS.ENC.ICFG.CPR k
        let dev := if cpr = 0 then 0 else indexDev (c - ref) cpr
        if dev = 0 then s
        else
          let s := ((s.setFi POS.ENC.IDX.DEV k (sat 16 dev)).setF POS.ENC.STAT.IDEV k 1).incF POS.ENC.CNT.IDEVS k
          let d0 := s.word (POS.ENC.IDX.DEV.addr k)
          let itol := s.f POS.ENC.ICFG.ITOL k
          if itol ≠ 0 ∧ itol < dev.natAbs then
            (s.setF POS.ENC.STAT.IFAULT k 1).raiseRec ⟨1, 10, 4, k, 0xA, d0, 0, t⟩
          else
            let s := s.raiseRec ⟨3, 10, 4, k, 0xA, d0, 0, t⟩
            if s.on POS.ENC.ICFG.ICOR k then s.setCount k (c - dev) else s

/-! ### Hall sensors (R265) -/

/-- The sector of a state UVW; none for an impossible one. -/
def hallSector (dir : Bool) (uvw : Nat) : Option Nat :=
  let i := [1, 3, 2, 6, 4, 5].idxOf uvw
  if 6 ≤ i then none else some (if dir then 5 - i else i)

/-- HCOUNT moves by `d` steps at `t`, and the sector becomes `sec`. -/
def State.hallMove (s : State) (k sec t : Nat) (d : Int) : State :=
  let x := s.hall k
  let r := if d = 0 then (x.spd, false) else x.spd.step t (decide (d < 0)) d.natAbs
  let s := s.setHall k { x with spd := r.1, badSince := none, long := false }
  let s := if r.2 then s.setF POS.HALL.SPD.METHOD k 1 else s
  (s.setFi POS.HALL.STATE.HCOUNT k (s.fi POS.HALL.STATE.HCOUNT k + d)).setF POS.HALL.STATE.SECTOR k sec

/-- HALL_CHANGE: U, V and W have held their new levels from `t` on. -/
def hallChange (k : Nat) (u v w : Bool) (t held : Nat) (s : State) : State :=
  if held < s.f POS.HALL.CFG.FILT k + 1 then s
  else
    let s := s.reach t
    let uvw := u.toNat * 4 + v.toNat * 2 + w.toNat
    let same := s.f POS.HALL.STATE.RAW k == uvw
    let s := s.setF POS.HALL.STATE.RAW k uvw
    if !s.on POS.HALL.CFG.EN k || same then s
    else match hallSector (s.on POS.HALL.CFG.DIR k) uvw with
      | none =>
        let x := s.hall k
        let s := s.setHall k { x with badSince := some (x.badSince.getD t) }
        ((s.setF POS.HALL.STAT.HBAD k 1).incF POS.HALL.CNT.HBADS k).posRaise 2 k POS.HALL.STAT.HBAD
      | some sec =>
        let d := (sec + 6 - s.f POS.HALL.STATE.SECTOR k) % 6
        let skip (s : State) : State := ((s.setF POS.HALL.STAT.HSKIP k 1).incF POS.HALL.CNT.HSKIPS k).posRaise 2 k POS.HALL.STAT.HSKIP
        if d = 0 then s.setHall k { s.hall k with badSince := none, long := false }
        else if d = 1 then s.hallMove k sec t 1
        else if d = 5 then s.hallMove k sec t (-1)
        else if d = 2 then skip (s.hallMove k sec t 2)
        else if d = 4 then skip (s.hallMove k sec t (-2))
        else skip (s.hallMove k sec t 0)

/-- HALL_TIMEOUT: an impossible state has lasted longer than HTO. -/
def hallTimeout (k : Nat) (s : State) : State :=
  let x := s.hall k
  match x.badSince with
  | none => s
  | some b =>
    if x.long || !s.on POS.HALL.CFG.EN k then s
    else
      let s := (s.reach (b + s.f POS.HALL.CFG.HTO k * 1000)).setHall k { x with long := true }
      (s.setF POS.HALL.STAT.HLONG k 1).posRaise 1 k POS.HALL.STAT.HLONG

/-! ### Auxiliary axis positions (R268) -/

/-- The count that the selected source of axis k gives now; the hub's position is `hub`. -/
def State.auxPos (s : State) (k : Nat) (hub : Int) : Int :=
  match s.f POS.AX.SRC.V k with
  | 0 => s.fi POS.ENC.COUNT.V k
  | 1 => s.fi POS.HALL.STATE.HCOUNT k
  | _ => hub

/-! ### Probes (R269–R271) -/

/-- The counts of a probe event: tokens 1–8 of its record. -/
def State.probeCounts (s : State) : List Word :=
  (List.range 4).map (fun i => wd (place (s.f POS.ENC.COUNT.V (2 * i + 1)) 32 32 + s.f POS.ENC.COUNT.V (2 * i))) ++
  (List.range 4).map (fun i => wd (place (s.f POS.HALL.STATE.HCOUNT (2 * i + 1)) 32 32 + s.f POS.HALL.STATE.HCOUNT (2 * i)))

/-- STAT.PEND: a latched record awaits galvo samples. -/
def State.probePend (s : State) (k : Nat) : State :=
  s.setF POS.PRB.STAT.PEND k ((s.probe k).recs.any (·.galvo)).toNat

/-- PROBE_EVENT: the probe's level has held from `tp` on. -/
def probeEvent (k : Nat) (level : Bool) (tp held : Nat) (s : State) : State :=
  if held < s.f POS.PRB.CFG.FILT k + 1 then s
  else
    let s := s.reach tp
    let x := s.probe k
    let s := s.setProbe k { x with level := level }
    let sel := (s.f POS.PRB.CFG.EDGE k).testBit (if level then 0 else 1)
    if x.level == level || !s.on POS.PRB.STAT.ARMED k || !sel then s
    else
      let s := if s.on POS.PRB.CFG.ONCE k then s.setF POS.PRB.STAT.ARMED k 0 else s
      if 4 ≤ x.recs.length then ((s.setF POS.PRB.STAT.DROP k 1).incF POS.PRB.STAT.DROPS k).posRaise 2 k POS.PRB.STAT.DROP (0x1A0 + k)
      else
        let r : ProbeRec := ⟨tp, level, s.probeCounts, s.on POS.PRB.CFG.GALVO k, s.f POS.PRB.CFG.DEST k, s.f POS.PRB.CFG.STREAM k⟩
        (s.setProbe k { s.probe k with recs := x.recs ++ [r] }).probePend k

/-- The interpolated Y16 of axis `a` at `tp`, from the accepted samples stamped last at or before it and first after it, none without both. -/
def State.probeY (s : State) (a tp : Nat) : Option Int :=
  let h := (s.sc a).hist
  match h.find? (fun e => decide (e.1 ≤ tp)), (h.reverse).find? (fun e => decide (tp < e.1)) with
  | some b, some e => some (b.2 + openDiv (((e.2 : Int) - b.2) * (tp - b.1 : Nat)) (e.1 - b.1 : Nat))
  | _, _ => none

/-- INV and Y16 of one axis as 29 bits; the position of an axis marked invalid is not stated (log entry 5). -/
def State.probeAxis (s : State) (a tp : Nat) : Nat × State :=
  match s.probeY a tp with
  | some y => (ux 28 y, s)
  | none => let f := s.free; (2 ^ 28 + f.1.toNat % 2 ^ 28, f.2)

/-- Tokens 9–44 of a record with galvo positions. -/
def State.probeGalvo (s : State) (tp : Nat) : Nat → List Word × State
  | 0 => ([], s)
  | m + 1 =>
    let i := 35 - m
    let lo := s.probeAxis (2 * i) tp
    let hi := lo.2.probeAxis (2 * i + 1) tp
    let r := hi.2.probeGalvo tp m
    (wd (place hi.1 29 32 + lo.1) :: r.1, r.2)

/-- PROBE_RECORD: the oldest latched record is sent; with galvo positions once every later sample is in, or 20,000 ns after the event. -/
def probeRecord (k : Nat) (s : State) : State :=
  match (s.probe k).recs with
  | [] => s
  | r :: rest =>
    let head := wd (place r.tp 48 16 + place r.rise.toNat 1 3 + place k 3 0)
    let s := s.setProbe k { s.probe k with recs := rest }
    let s := s.probePend k
    if !r.galvo then s.sendMsg (0x1A0 + k) r.dest 0xA r.stream (head :: r.counts)
    else
      let inAll := (List.range 72).all (fun a => (s.sc a).hist.any (fun e => decide (r.tp < e.1)))
      let s := if inAll then s else s.reach (r.tp + 20000)
      let g := s.probeGalvo r.tp 36
      g.2.sendMsg (0x1A0 + k) r.dest 0xA r.stream (head :: r.counts ++ g.1)

/-! ### Encoder emulation (R272, R273) -/

/-- C of a source value. -/
def State.emuCount (s : State) (k : Nat) (v : Int) : Nat := ux 32 (fshr (v * s.fi POS.EMU.SCALE.MUL k) (s.f POS.EMU.SCALE.SHIFT k))

/-- The target token of channel k for the value at instant `t`. -/
def State.emuSend (s : State) (k t : Nat) (v : Int) : State :=
  s.send ((mkTok (0x1B8 + k) (0x300 + 104 + k) 1 0 (wd (s.emuCount k v))).at (t + s.f POS.EMU.CFG.EDLY k))

/-- EMU_UPDATE: the next accepted sample of an axis source, or the count of a pin source at the next update instant m × EPER. -/
def emuUpdate (k : Nat) (s : State) : State :=
  if !s.on POS.EMU.CFG.EN k then s
  else
    let src := s.f POS.EMU.CFG.SRC k
    if src < 0x48 then
      match (s.emu k).due with
      | [] => s
      | d :: rest => (s.setEmu k { s.emu k with due := rest }).emuSend k d.1 d.2
    else
      let per := s.f POS.EMU.CFG.EPER k * 1000
      let tu := (s.mt + per - 1) / per * per
      let s := s.reach tu
      s.emuSend k tu (if src < 0x50 then s.fi POS.ENC.COUNT.V (src - 0x48) else s.fi POS.HALL.STATE.HCOUNT (src - 0x50))

/-- The output levels of a count (R273). -/
def State.emuPins (s : State) (k c : Nat) : State :=
  let q := c % 4
  let a := q == 1 || q == 2
  let b := q == 2 || q == 3
  let dir := s.on POS.EMU.CFG.DIR k
  let zper := s.f POS.EMU.ZCFG.ZPER k
  s.setEmu k { s.emu k with a := if dir then b else a, b := if dir then a else b, z := zper != 0 && c % zper == s.f POS.EMU.ZCFG.ZPOS k }

/-- COL(104 + k) releases the target C at `t`: the first sets Cout, each later one emits steps towards C (R273). -/
def emuRelease (k t c : Nat) (s : State) : State :=
  let x := s.emu k
  match x.lastRel with
  | none => (((s.setEmu k { x with lastRel := some t, steps := (t, t, 0) }).setF POS.EMU.OUT.V k c).setF POS.EMU.STAT.RUN k 1).emuPins k c
  | some tp =>
    let cur := s.f POS.EMU.OUT.V k
    let d := wdiff 32 c cur
    let n := d.natAbs
    let sep := s.f POS.EMU.CFG.MINSEP k
    let lag := decide (t - tp < sep * n)
    let m := if lag then min n ((t - tp) / sep) else n
    let out := ux 32 ((cur : Int) + sgn d * m)
    let s := (s.setEmu k { x with lastRel := some t, steps := (tp, if lag then tp + sep * m else t, m) }).setF POS.EMU.OUT.V k out
    let s := s.emuPins k out
    if lag then (s.setF POS.EMU.STAT.ELAG k 1).posRaise 3 k POS.EMU.STAT.ELAG (0x1B8 + k) else s

/-! ### Control words (R275–R279) -/

/-- What refuses a write of a POS word at address `a`. -/
def posCheck (a : Nat) (old new : State) : Option Nat :=
  match POS.SC.AMP.AMIN.idx 72 a with
  | some i => if new.f POS.SC.AMP.AMAX i < new.f POS.SC.AMP.AMIN i then some 8 else none
  | none => match POS.ENC.COUNT.V.idx 8 a with
  | some k => if old.on POS.ENC.CFG.EN k then some 8 else none
  | none => match POS.ENC.SPCFG.NHI.idx 8 a with
  | some k => if new.f POS.ENC.SPCFG.NHI k ≤ new.f POS.ENC.SPCFG.NLO k then some 8 else none
  | none => match POS.AX.SRC.V.idx 8 a with
  | some k => if old.on SERVON.CFG.EN (96 + k) then some 8 else none
  | none => match POS.EMU.CFG.EN.idx 4 a with
  | some k => if old.on POS.EMU.CFG.EN k ∧ (old.word a ^^^ new.word a) &&& ~~~ 1#64 ≠ 0 then some 8 else none
  | none => match POS.EMU.SCALE.MUL.idx 4 a with
  | some k => if old.on POS.EMU.CFG.EN k then some 8 else none
  | none => match POS.EMU.ZCFG.ZPER.idx 4 a with
  | some k => if old.on POS.EMU.CFG.EN k ∨ (new.f POS.EMU.ZCFG.ZPER k ≤ new.f POS.EMU.ZCFG.ZPOS k ∧ new.f POS.EMU.ZCFG.ZPOS k ≠ 0) then some 8 else none
  | none => none

/-- What a write of a POS word does beside storing it. -/
def posEffect (a : Nat) (old s : State) : State :=
  match POS.SC.CFG.EN.idx 72 a with
  | some i =>
    let s := if !old.on POS.SC.CFG.EN i ∧ s.on POS.SC.CFG.EN i then s.setSc i {}
      else if old.on POS.SC.CFG.EN i ∧ !s.on POS.SC.CFG.EN i then (s.setSc i { s.sc i with last := none, hist := [], adapt := none }).setF POS.SC.STAT.RUN i 0
      else s
    if !old.on POS.SC.CFG.ADAPT i ∧ s.on POS.SC.CFG.ADAPT i then
      (s.setWord (POS.SC.ADJ.SOFS.addr i) (s.word (POS.SC.CAL.SOFS.addr i))).setSc i { s.sc i with adapt := none }
    else s
  | none => match POS.ENC.CFG.EN.idx 8 a with
  | some k => if !old.on POS.ENC.CFG.EN k ∧ s.on POS.ENC.CFG.EN k then
      (s.setEnc k { s.enc k with ref := none, spd := { e0 := s.mt } }).setF POS.ENC.STAT.HOMED k 0 else s
  | none => match POS.ENC.ICFG.IHOME.idx 8 a with
  | some k => if s.on POS.ENC.ICFG.IHOME k then s.setEnc k { s.enc k with ref := none } else s
  | none => match POS.HALL.CFG.EN.idx 8 a with
  | some k => if !old.on POS.HALL.CFG.EN k ∧ s.on POS.HALL.CFG.EN k then
      let s := s.setHall k { spd := { e0 := s.mt } }
      match hallSector (s.on POS.HALL.CFG.DIR k) (s.f POS.HALL.STATE.RAW k) with
      | some sec => s.setF POS.HALL.STATE.SECTOR k sec
      | none => s
      else s
  | none => match POS.PRB.CFG.EN.idx 8 a with
  | some k => s.setF POS.PRB.STAT.ARMED k (s.f POS.PRB.CFG.EN k)
  | none => match POS.EMU.CFG.EN.idx 4 a with
  | some k => if old.on POS.EMU.CFG.EN k ≠ s.on POS.EMU.CFG.EN k then
      (s.setEmu k { s.emu k with due := [], lastRel := none }).setF POS.EMU.STAT.RUN k 0 else s
  | none => s

/-! ### The commands -/

/-- ENC_EDGE (R260). -/
def execEncEdge (k : Fin 8) (a b : Bool) (t held : Nat) (s : State) : Host.Outcome State Fault Refusal := .next (encEdge k a b t held s)

/-- INDEX_EVENT (R263). -/
def execIndexEvent (k : Fin 8) (level : Bool) (t held : Nat) (s : State) : Host.Outcome State Fault Refusal := .next (indexEvent k level t held s)

/-- HALL_CHANGE (R265). -/
def execHallChange (k : Fin 8) (u v w : Bool) (t held : Nat) (s : State) : Host.Outcome State Fault Refusal := .next (hallChange k u v w t held s)

/-- HALL_TIMEOUT (R265). -/
def execHallTimeout (k : Fin 8) (s : State) : Host.Outcome State Fault Refusal := .next (hallTimeout k s)

/-- SPEED_UPDATE (R266). -/
def execSpeedUpdate (tu : Nat) (s : State) : Host.Outcome State Fault Refusal := .next (speedUpdate tu s)

/-- PROBE_EVENT (R269). -/
def execProbeEvent (k : Fin 8) (level : Bool) (tp held : Nat) (s : State) : Host.Outcome State Fault Refusal := .next (probeEvent k level tp held s)

/-- PROBE_RECORD (R270). -/
def execProbeRecord (k : Fin 8) (s : State) : Host.Outcome State Fault Refusal := .next (probeRecord k s)

/-- EMU_UPDATE (R272). -/
def execEmuUpdate (k : Fin 4) (s : State) : Host.Outcome State Fault Refusal := .next (emuUpdate k s)

end Sys2Proof.Machine
end

