-- ==== Sys2Proof/Machine/AuxAxes.lean ====
section
/-! DEFINITION. Auxiliary axes and drive hubs: moves, jogs, position and current loops, coil modes, hub samples and faults (R241–R243,
R318–R339). -/

namespace Sys2Proof.Machine

open Sys2Proof

def State.aux (s : State) (k : Nat) : AuxSt := tget (fun _ => {}) s.auxs k
def State.setAux (s : State) (k : Nat) (x : AuxSt) : State := s.setAuxs (tset (fun _ => {}) s.auxs k x)

/-- A raise of source 16 whose record carries the axis's status word. -/
def State.auxRaise (s : State) (cls k : Nat) : State := s.raise cls 16 k (0x260 + k) 1 (s.word (AUX.STAT.RUN.addr k))

/-- The first instant of trigger col `c`'s schedule at or after `t`. -/
def State.trigFrom (s : State) (c t : Nat) : Nat :=
  match (s.col c).sched with
  | some k => if k.period = 0 ∨ t ≤ k.start then k.start else k.start + (t - k.start + k.period - 1) / k.period * k.period
  | none => t

/-- The period of trigger col `c`'s schedule. -/
def State.trigPeriod (s : State) (c : Nat) : Nat := ((s.col c).sched.map (·.period)).getD 0

/-- Ak's position now, from its selected source (R268): the hub's latest count stamped at or before MT. -/
def State.auxMeasured (s : State) (k : Nat) : Int :=
  s.auxPos k (match (s.aux k).samples.find? (fun m => decide (m.stamp ≤ s.mt)) with | some m => m.pos | none => 0)

/-- Whether Ak has a measured position at all: a hub source needs a hub sample. -/
def State.auxHasPos (s : State) (k : Nat) : Bool := s.f POS.AX.SRC.V k != 2 || !(s.aux k).samples.isEmpty

/-! ### Moves (R320–R325) -/

def AuxMove.on (m : AuxMove) (k : Nat) : Bool := m.live.contains k

/-- The moves queued on axis k, the one in progress among them. -/
def State.auxQueue (s : State) (k : Nat) : List AuxMove := s.auxMoves.filter (·.on k)

/-- The move in progress on axis k. -/
def State.auxRunning (s : State) (k : Nat) : Option AuxMove := s.auxMoves.find? (fun m => m.on k && m.run.isSome)

/-- QFILL, MOVING, MOVEID and JOG follow. -/
def State.auxRefresh (s : State) : State :=
  (List.range 8).foldl (fun s k =>
    let s := s.setF AUX.STAT.QFILL k (s.auxQueue k).length
    let s := match s.auxRunning k with
      | some m => (s.setF AUX.STAT.MOVEID k m.moveid).setF AUX.STAT.MOVING k 1
      | none => s.setF AUX.STAT.MOVING k 0
    s.setF AUX.STAT.JOG k (match (s.aux k).jog with | some j => (j.k.v != 0 || j.k.a != 0).toNat | none => 0)) s

/-- The completion notice of a move (R324). -/
def State.auxNotice (s : State) (m : AuxMove) (status t : Nat) : State :=
  if m.notify = 0 ∨ m.silent = true then s
  else s.sendMsg 0xB m.notify 5 0x20 [wd (place m.moveid 16 48 + place status 8 40 + place m.mask 8 32), wd t]

/-- A move ends with a status at instant `t`. -/
def State.auxEnd (s : State) (m : AuxMove) (status t : Nat) : State :=
  ((s.setAuxMoves (s.auxMoves.filter (fun n => n.id != m.id))).auxNotice m status t).auxRefresh

/-- The moves not yet started on an axis of `mask` are flushed with STATUS 0x05. -/
def State.auxFlush (s : State) (mask t : Nat) : State :=
  (s.auxMoves.filter (fun m => m.run.isNone && m.live.any mask.testBit)).foldl (fun s m => s.auxEnd m 5 t) s

/-- Position along u's path at instant `t`. -/
def AuxRun.kin (r : AuxRun) (t : Nat) : Kin :=
  if r.tend ≤ t then (if r.stop.isNone then ⟨r.unit, 0, 0⟩ else ⟨(r.k0.run r.phases).x, 0, 0⟩) else r.k0.during r.phases (t - r.ts)

/-- POS, VEL and the speed in counts/s as a fraction, of axis k at instant `t` (R323). -/
def AuxRun.axis (r : AuxRun) (k t : Nat) : Int × Int × Nat × Nat :=
  let q := r.kin t
  match r.axes.find? (fun a => a.1 == k) with
  | some a => (a.2.1 + rdiv (q.x * a.2.2) r.unit.toNat, rdiv (q.v * a.2.2 * 256000) r.unit.toNat, (q.v * a.2.2).natAbs * 1000000000, r.unit.toNat)
  | none => (0, 0, 0, 1)

/-- A move in progress runs the stop ramp from instant `t` on (R325). -/
def AuxRun.ramp (r : AuxRun) (status t : Nat) : AuxRun :=
  if r.stop.isSome then r
  else
    let q := r.kin t
    let ph := velRamp q.v q.a 0 r.a r.j
    { r with ts := t, k0 := q, phases := ph, tend := t + phasesDur ph, stop := some status }

/-- The stops due at the COL121 instant `tc` act, and stop ramps that have ended report. -/
def State.auxPlan (s : State) (tc : Nat) : State :=
  let due := s.auxStops.filter (fun p => decide (p.1 < tc))
  let s := s.setAuxStops (s.auxStops.filter (fun p => decide (tc ≤ p.1)))
  let s := due.foldl (fun s p =>
    let hit (m : AuxMove) : Bool := m.live.any p.2.1.testBit
    let s := s.setAuxMoves (s.auxMoves.map (fun m => match m.run with
      | some r => if hit m then { m with run := some (r.ramp p.2.2 tc) } else m
      | none => m))
    let s := s.auxFlush p.2.1 tc
    (List.range 8).foldl (fun s k => match (s.aux k).jog with
      | some j => if p.2.1.testBit k then s.setAux k { s.aux k with jog := some { j with stop := true } } else s
      | none => s) s) s
  (s.auxMoves.filter (fun m => match m.run with | some r => r.stop.isSome && decide (r.tend ≤ tc) | none => false)).foldl (fun s m =>
    match m.run with
    | some r =>
      let s := m.live.foldl (fun s k => s.setAux k { s.aux k with ref := (r.axis k r.tend).1 }) s
      s.auxEnd m (r.stop.getD 2) r.tend
    | none => s) s

/-- What a move or stop message spells; none where R321 refuses it. -/
def State.parseMove (s : State) (toks : List Token) : Option AuxMove :=
  match toks with
  | [] => none
  | h :: rest =>
    let p := h.payload
    let mask := bits p 55 48
    let ks := (List.range 8).filter mask.testBit
    let last := toks.getLastD h
    let start := bits p 23 22
    let rel := bit p 21
    let axes := (ks.zip rest).map (fun q => (q.1, sbits q.2.payload 31 0, bits q.2.payload 63 32))
    let ok := bits p 63 56 == 1 && mask != 0 && rest.length == ks.length && start != 3 && !bit p 20 && bits p 9 0 == 0 &&
      (start != 1 || last.timed) && (start != 2 || bits p 31 24 != 0) &&
      axes.all (fun a => decide (a.2.2 ≤ s.f AUX.LIMV.VMAX a.1) && s.on AUX.CFG.EN a.1 && !s.on AUX.CFG.EXT a.1 && !s.on AUX.STAT.FAULT a.1 &&
        (rel || decide (s.fi AUX.SOFT.MIN a.1 ≤ a.2.1 ∧ a.2.1 ≤ s.fi AUX.SOFT.MAX a.1)))
    if ok then
      some { id := s.auxNext, axes := axes, live := ks, mask := mask, moveid := bits p 47 32, start := start, time := s.instant last, rel := rel,
             notify := bits p 19 10,
             waits := if start = 2 then (s.auxMoves.filter (fun m => m.live.any (bits p 31 24).testBit)).map (·.id) else [] }
    else none

/-- MOVE: a message on stream 0x20; one that finds a queue full stays in transit (R321). -/
def auxMove (toks : List Token) (s : State) : State :=
  let full := match s.parseMove toks with | some m => m.live.any (fun k => decide (8 ≤ (s.auxQueue k).length)) | none => false
  if full && toks.all (fun t => t.kind == 2#4 && !t.err) then s
  else s.arrive 0xB toks fun s =>
    let t := toks.getLastD (mkTok 0 0 0 0 0)
    match toks.find? (fun t => t.kind != 2#4), errToken toks with
    | some u, _ => s.refuse 0xB u 7
    | none, some u => s.refuse 0xB u 5
    | none, none =>
      if t.stream ≠ 0x20#8 then s.refuse 0xB t 4
      else match s.parseMove toks with
        | none => s.refuse 0xB t 4
        | some m => ((s.setAuxMoves (s.auxMoves ++ [m])).setAuxNext (s.auxNext + 1)).auxRefresh

/-- A STOP takes effect at the next COL121 instant. -/
def State.auxStopAt (s : State) (mask status : Nat) : State := s.setAuxStops (s.auxStops ++ [(s.mt, mask, status)])

/-- What a STOP token must satisfy (R320, R321). -/
def State.stopOk (s : State) (p : Word) : Bool :=
  bits p 63 56 == 2 && bits p 55 48 != 0 && bits p 47 0 == 0 &&
  (List.range 8).all (fun k => !(bits p 55 48).testBit k || (s.on AUX.CFG.EN k && !s.on AUX.CFG.EXT k && !s.on AUX.STAT.FAULT k))

/-- STOP: a token on stream 0x21. -/
def auxStop (t : Token) (s : State) : State :=
  s.arrive 0xB [t] fun s =>
    if t.kind ≠ 2#4 then s.refuse 0xB t 7
    else if t.err then s.refuse 0xB t 5
    else if t.stream ≠ 0x21#8 ∨ t.last = false ∨ s.stopOk t.payload = false then s.refuse 0xB t 4
    else s.whenDue [t] (fun s => s.auxStopAt (bits t.payload 55 48) 2)

/-- A jog in motion. -/
def State.jogging (s : State) (k : Nat) : Bool :=
  match (s.aux k).jog with
  | some j => j.k.v != 0 || j.k.a != 0
  | none => false

/-- The limits of a move's profile: the product of the displacements of the moving axes, then VL/|d|, AMAX/|d| and 1000·JMAX/|d| scaled to
path units per ns (R323). -/
def moveLimits (axes : List (Int × Nat × Nat × Nat)) : Int × Int × Int × Int :=
  let ds := (axes.map (fun a => a.1.natAbs)).filter (· != 0)
  let prod := ds.foldl (· * ·) 1
  let least (f : Int × Nat × Nat × Nat → Nat) : Nat :=
    let l := (axes.filter (fun a => a.1 != 0)).map (fun a => f a * (prod / a.1.natAbs))
    match l with | [] => 0 | a :: t => t.foldl min a
  let whole (v : Nat) : Int := Int.ofNat v
  (whole (prod * 10 ^ 27), whole (least (fun a => a.2.1) * 10 ^ 18), whole (least (fun a => a.2.2.1) * 10 ^ 9),
    whole (least (fun a => a.2.2.2) * 1000))

/-- The start of a move at `ts` (R322, R323). -/
def State.moveBegin (s : State) (m : AuxMove) (ts : Nat) : State :=
  let axes := m.axes.map (fun a => let p0 := (s.aux a.1).ref; (a.1, p0, if m.rel then a.2.1 else a.2.1 - p0))
  let out := axes.filter (fun a => decide (a.2.1 + a.2.2 < s.fi AUX.SOFT.MIN a.1 ∨ s.fi AUX.SOFT.MAX a.1 < a.2.1 + a.2.2))
  if out ≠ [] then
    let s := s.auxEnd m 3 ts
    let s := s.auxFlush m.mask ts
    out.foldl (fun s a => (s.setF AUX.STAT.SOFT a.1 1).auxRaise 2 a.1) s
  else
    let lim := moveLimits (m.axes.map (fun a =>
      let d := (axes.find? (fun b => b.1 == a.1)).map (·.2.2)
      (d.getD 0, if a.2.2 = 0 then s.f AUX.LIMV.VMAX a.1 else a.2.2, s.f AUX.LIMA.AMAX a.1, s.f AUX.LIMA.JMAX a.1)))
    let ph := if lim.2.1 = 0 then [] else (profileWith (Nat.log2 lim.2.1.toNat + 1) ⟨0, 0, 0⟩ lim.1 lim.2.1 lim.2.2.1 lim.2.2.2).getD []
    let r : AuxRun := {
      ts := ts, unit := lim.1, axes := axes, a := lim.2.2.1, j := lim.2.2.2, k0 := ⟨0, 0, 0⟩, phases := ph, tend := ts + phasesDur ph
      inpos := m.axes.map (fun a => (a.1, s.f AUX.LIMV.INPOS a.1))
      settle := (m.axes.map (fun a => s.f AUX.LIMV.SETTLE a.1)).foldl min 65535 }
    (s.setAuxMoves (s.auxMoves.map (fun (n : AuxMove) => if n.id = m.id then { n with run := some r } else n))).auxRefresh

/-- MOVE_START: at the COL121 instant `tc` the next queued move of axis k starts, is dropped, or is held by LOCK. -/
def moveStart (k tc : Nat) (s : State) : State :=
  if !s.isCycle 121 tc then s
  else
    let s := (s.reach tc).auxPlan tc
    match (s.auxQueue k).find? (fun m => m.run.isNone) with
    | none => s
    | some m =>
      let first := m.live.all (fun a => ((s.auxQueue a).head?.map (·.id)) == some m.id && !s.jogging a)
      let cond := (m.start != 1 || decide (m.time ≤ tc)) && !s.auxMoves.any (fun n => m.waits.contains n.id)
      if !(first && cond) then s
      else
        let locked := m.live.filter (fun a => s.on AUX.CFG.LOCK a)
        if locked ≠ [] ∧ (List.range 26).any (fun n => s.pgRunning n) = true then
          if m.lockNoted then s
          else
            let s := s.setAuxMoves (s.auxMoves.map (fun (n : AuxMove) => if n.id = m.id then { n with lockNoted := true } else n))
            locked.foldl (fun s a => (s.setF AUX.STAT.LOCKWAIT a 1).auxRaise 3 a) s
        else s.moveBegin m tc

/-- The axes of a move that are not within INPOS of their targets. -/
def State.notInPos (s : State) (r : AuxRun) : List Nat :=
  (r.axes.filter (fun a => decide (((r.inpos.find? (fun p => p.1 == a.1)).map (·.2)).getD 0 < (a.2.1 + a.2.2 - s.auxMeasured a.1).natAbs))).map (·.1)

/-- The references of a move's axes stand at their targets. -/
def State.auxLand (s : State) (m : AuxMove) (r : AuxRun) : State :=
  m.live.foldl (fun s k => s.setAux k { s.aux k with ref := (r.axis k r.tend).1 }) s

/-- MOVE_COMPLETE: at the COL121 instant `tc`, at or after its planned end, the move of axis k is in position (R324). -/
def moveComplete (k tc : Nat) (s : State) : State :=
  if !s.isCycle 121 tc then s
  else
    let s := (s.reach tc).auxPlan tc
    match s.auxRunning k with
    | some m => match m.run with
      | some r => if r.stop.isNone ∧ r.tend ≤ tc ∧ s.notInPos r = [] then (s.auxLand m r).auxEnd m 0 tc else s
      | none => s
    | none => s

/-- SETTLE_TIMEOUT: SETTLE ms have passed since the planned end without the move being in position. -/
def settleTimeout (k : Nat) (s : State) : State :=
  match s.auxRunning k with
  | some m => match m.run with
    | some r =>
      if r.stop.isSome then s
      else
        let t := r.tend + r.settle * 1000000
        let s := s.reach t
        let bad := s.notInPos r
        let s := (s.auxLand m r).auxEnd m 1 t
        bad.foldl (fun s a => (s.setF AUX.STAT.SETTLE a 1).auxRaise 2 a) s
    | none => s
  | none => s

/-! ### Jogs (R326) -/

/-- Units of a jog's path per count. -/
def jogUnit : Int := 10 ^ 27

/-- A jog target takes effect. -/
def jogAct (k : Nat) (t : Token) (s : State) : State :=
  if s.auxQueue k ≠ [] ∨ s.on AUX.CFG.EXT k then (s.setF AUX.STAT.JREF k 1).auxRaise 3 k
  else
    let x := s.aux k
    let tgt := clamp (s.fi AUX.SOFT.MIN k) (s.fi AUX.SOFT.MAX k) (sbits t.payload 31 0)
    let j := x.jog.getD { k := ⟨x.ref * jogUnit, 0, 0⟩, target := tgt, a := s.f AUX.LIMA.AMAX k, j := s.f AUX.LIMA.JMAX k }
    s.setAux k { x with jog := some { j with target := tgt } }

/-- JOG: a SETP token on stream 2 of the position loop's endpoint. -/
def jog (k : Nat) (t : Token) (s : State) : State :=
  let ep := 0x260 + k
  s.arrive ep [t] fun s =>
    if t.kind ≠ 1#4 then s.refuse ep t 7
    else if t.err then s.refuse ep t 5
    else if t.stream ≠ 2#8 ∨ bits t.payload 63 32 ≠ 0 then s.refuse ep t 4
    else if !s.on AUX.CFG.EN k || s.on AUX.STAT.FAULT k then s.refuse ep t 3
    else s.whenDue [t] (jogAct k t)

/-- One cycle of a jog's profiler with limits VMAX, AMAX and JMAX (R182, R185). -/
def AuxJog.step (x : AuxJog) (vmax amax jmax p : Nat) : AuxJog :=
  let ramp := x.k.a != 0 || x.stop
  let a := if x.a ≤ amax || !ramp then amax else x.a
  let j := if x.j ≤ jmax || !ramp then jmax else x.j
  let A : Int := a * 10 ^ 9
  let J : Int := j * 1000
  let V : Int := vmax * 10 ^ 18
  let tgt := x.target * jogUnit
  let halt : AuxJog :=
    let ph := velRamp x.k.v x.k.a 0 A J
    if phasesDur ph ≤ p then { x with a := a, j := j, k := ⟨(x.k.run ph).x, 0, 0⟩, stop := false } else { x with a := a, j := j, k := x.k.during ph p, stop := true }
  if x.stop then halt
  else match profileWith (Nat.log2 V.toNat + 1) x.k tgt V A J with
    | some ph => { x with a := a, j := j, k := if phasesDur ph ≤ p then ⟨tgt, 0, 0⟩ else x.k.during ph p }
    | none => halt

/-! ### The position loop (R241, R242, R328, R331) -/

/-- The commanded POS and VEL of axis k at `tc`, and its speed in counts/s as a fraction. -/
def State.auxCommand (s : State) (k tc p : Nat) : Int × Int × Nat × Nat × State :=
  let l := 96 + k
  if s.on AUX.CFG.EN k && s.on AUX.CFG.EXT k then
    let q := s.cycleSetpt l tc p (fun w => sbits w 63 32) (fun w => sbits w 31 8) (fun _ => 0)
    (q.1, q.2.1, q.2.1.natAbs * 1000000, 256, q.2.2.2)
  else
    let s := s.setLoop l { s.loop l with setpts := (takeSetpt (s.loop l).setpts tc).2 }
    match s.auxRunning k with
    | some m => match m.run with
      | some r => let a := r.axis k tc; (a.1, a.2.1, a.2.2.1, a.2.2.2, s.setAux k { s.aux k with ref := a.1 })
      | none => ((s.aux k).ref, 0, 0, 1, s)
    | none => match (s.aux k).jog with
      | some j =>
        let j := j.step (s.f AUX.LIMV.VMAX k) (s.f AUX.LIMA.AMAX k) (s.f AUX.LIMA.JMAX k) p
        let pos := rdiv j.k.x jogUnit.toNat
        let rest := j.k.v == 0 && j.k.a == 0 && !j.stop
        (pos, rdiv (j.k.v * 256000) jogUnit.toNat, j.k.v.natAbs * 1000000000, jogUnit.toNat,
          (s.setAux k { s.aux k with ref := pos, jog := if rest then none else some j }).auxRefresh)
      | none => ((s.aux k).ref, 0, 0, 1, s)

/-- HOLDI clears at the first COL121 instant with a commanded speed; the time of rest is noted (R328). -/
def State.auxHold (s : State) (k tc : Nat) (moving : Bool) : State :=
  let x := s.aux k
  if moving then
    let s := s.setAux k { x with zeroSince := none }
    if s.on AUX.STAT.HOLDI k then (s.setAux k { s.aux k with holds := ((tc + 10000, false) :: x.holds).take 8 }).setF AUX.STAT.HOLDI k 0 else s
  else s.setAux k { x with zeroSince := some (x.zeroSince.getD tc) }

/-- The coil-mode decision of a COL121 instant (R331): `num / den` is the commanded speed in counts/s. -/
def State.auxMode (s : State) (k tc num den : Nat) : State :=
  if s.f AUX.CFG.MODESEL k ≠ 0 then s
  else
    let x := s.aux k
    let inForce := s.on AUX.STAT.STRONG k
    let cur := match x.decision with | some d => d.2 | none => inForce
    let vs := s.f AUX.CMOD.VSTRONG k
    let want := if vs = 0 then true else if cur then !decide (num ≤ s.f AUX.CMOD.VQUIET k * den) else decide (vs * den ≤ num)
    if want = cur then s
    else s.setAux k { x with decision := if want = inForce then none else some (tc + 10000, want) }

/-- AUX_POSITION_CYCLE at the COL121 instant `tc`. -/
def auxPositionCycle (k tc : Nat) (s : State) : State :=
  let l := 96 + k
  let p := s.trigPeriod 121
  if !s.on SERVON.CFG.EN l || !s.isCycle 121 tc then s
  else
    let s := ((s.reach tc).takeTrig 121 tc).abandoned l tc p
    let s := (s.applyPending l tc).auxPlan tc
    let push (s : State) (u r : Int) : State := s.setAux k { s.aux k with refs := ((tc + 10000, u, r) :: (s.aux k).refs).take 8 }
    if !s.auxHasPos k then push (s.noMeasure l) 0 (s.aux k).ref
    else
      let y := s.auxMeasured k
      let s := if (s.loop l).begun then s
        else
          let s := s.setLoop l ((s.loop l).start y)
          if s.on AUX.CFG.EN k then s else s.setAux k { s.aux k with ref := y }
      let q := s.auxCommand k tc p
      let s := q.2.2.2.2
      let x := s.loop l
      let r := shapeRef (s.f SERVON.CFG.RSTEP l) x.rPrev x.velPrev x.accPrev q.1 p
      let e := sat 24 (r.1 - y)
      let uff := scale (x.set.kv * q.2.1) (x.set.fe - 19)
      let omax : Int := s.f SERVON.LIM.OMAX l
      let c := s.cycleCore l e uff (-omax) omax (s.ftAux l r.1 q.2.1)
      let s := c.2
      let s := s.setLoop l { s.loop l with rPrev := r.1, velPrev := q.2.1, accPrev := 0, posPrev := q.1 }
      let s := (s.setF SERVON.STAT.SHAPE l r.2.toNat).setF SERVON.STAT.HOLD l 0
      let s := s.etolCheck l (r.1 - y).natAbs 1
      let s := (s.auxHold k tc (decide (q.2.2.1 ≠ 0))).auxMode k tc q.2.2.1 q.2.2.2.1
      push (s.saveStates l) c.1 r.1

/-- HOLDI_SET: the commanded speed has been 0 for HOLDDLY ms (R328). -/
def holdiSet (k : Nat) (s : State) : State :=
  let x := s.aux k
  match x.zeroSince with
  | none => s
  | some z =>
    if s.on AUX.STAT.HOLDI k then s
    else
      let tc := s.trigFrom 121 (z + s.f AUX.CFG.HOLDDLY k * 1000000)
      ((s.reach tc).setAux k { x with holds := ((tc + 10000, true) :: x.holds).take 8 }).setF AUX.STAT.HOLDI k 1

/-! ### The current loop (R243, R328–R332) -/

/-- The newest entry of a dated list usable at `t`. -/
def usableAt {α : Type} (l : List (Nat × α)) (t : Nat) : Option α := (l.find? (fun e => decide (e.1 ≤ t))).map (·.2)

/-- 2^60 / √3. -/
def invSqrt3 : Int := isqrt (2 ^ 120 / 3)

/-- The coil current projected on the angle `ang` in 2^−16 turn (R329). -/
def coilCurrent (bldc : Bool) (ia ib : Int) (ang : Nat) : Int :=
  let cs := cosSin ((ang : Int) * 2 ^ 32)
  sat 24 (if bldc then rdiv (ia * cs.1 * 2 ^ 60 + (ia + 2 * ib) * cs.2 * invSqrt3) (2 ^ 120) else rdiv (ia * cs.1 + ib * cs.2) (2 ^ 60))

/-- A and ANG of the coil-current stage at `tc` for the position loop's output `u` and reference `r` (R328). -/
def State.coilStage (s : State) (k tc : Nat) (u r : Int) : Int × Nat :=
  let cpe := s.f AUX.CFG.CPE k
  let eofs : Int := s.f AUX.CFG.EOFS k
  let omax : Int := s.f SERVON.LIM.OMAX (104 + k)
  if s.f AUX.CFG.KIND k = 0 then
    let hold := (usableAt (s.aux k).holds tc).getD false
    let i0 : Int := if hold then s.f AUX.CUR.IHOLD k else s.f AUX.CUR.IRUN k
    (min (max u.natAbs i0) omax, ux 16 (eofs + openDiv (r * 65536) cpe))
  else
    let pr2 := 2 * s.auxMeasured k + (if s.f POS.AX.SRC.V k = 1 then 1 else 0)
    (min u.natAbs omax, ux 16 (openDiv (pr2 * 65536) (2 * cpe) + eofs + sgn u * 16384))

/-- The command and commutation tokens of a current cycle. -/
def State.sendAux (s : State) (k t mode : Nat) (u : Int) (cmode ang : Nat) : State :=
  let l := 104 + k
  let rel := decide (cmode ≠ 2) && s.on AUX.CFG.BRAKE k && s.on AUX.CFG.EN k && !s.on AUX.STAT.FAULT k
  let at_ := t + s.f SERVO.CFG.AODLY
  let s := s.send ((mkTok (loopEp l) (0x300 + 108 + k) 1 0x11 (wd (place cmode 2 62 + place rel.toNat 1 61 + place ang 16 0))).at at_)
  let s := s.send ((mkTok (loopEp l) (0x300 + 108 + k) 1 0x10 (wd (place mode 2 62 + place (ux 16 u) 16 0))).at at_)
  (s.setAux k { s.aux k with comm := ((at_, ang, cmode) :: (s.aux k).comm).take 64 }).setF AUX.STAT.BRKREL k rel.toNat

/-- The last CMODE and ANG sent. -/
def AuxSt.last (x : AuxSt) : Nat × Nat := match x.comm with | c :: _ => (c.2.2, c.2.1) | [] => (2, 0)

/-- A mode decision whose instant has come takes effect (R331). -/
def State.auxModeApply (s : State) (k tc : Nat) : State :=
  let x := s.aux k
  let l := 104 + k
  match x.decision with
  | some (t, strong) =>
    if tc < t then s
    else
      let s := (s.setAux k { x with decision := none }).setF AUX.STAT.STRONG k strong.toNat
      let y := s.loop l
      let clear := y.st.map (fun _ => ({} : SectSt))
      let va : Int := match x.samples with | m :: _ => m.va | [] => 0
      s.setLoop l { y with st := if strong then clear else clear.modify y.set.isec (fun t => { t with y1 := va, y2 := va }) }
  | none => s

/-- The end of moves on a faulted axis (R334): the move in progress ends at once, its other axes ramp to rest, the queue is flushed, the
reference stands at the measured position. -/
def State.auxHalt (s : State) (k status : Nat) : State :=
  let s := match s.auxRunning k with
    | some m =>
      let s := s.auxNotice m status s.mt
      let left := m.live.filter (· != k)
      if left = [] then s.setAuxMoves (s.auxMoves.filter (fun (n : AuxMove) => n.id != m.id))
      else
        let s := s.setAuxMoves (s.auxMoves.map (fun (n : AuxMove) => if n.id = m.id then { n with live := left, silent := true } else n))
        s.setAuxStops (s.auxStops ++ [(s.mt, left.foldl (fun a b => a + 2 ^ b) 0, status)])
    | none => s
  let s := s.auxFlush (2 ^ k) s.mt
  (s.setAux k { s.aux k with jog := none, ref := s.auxMeasured k }).auxRefresh

/-- An axis fault (R334). -/
def State.auxFault (s : State) (k : Nat) : State :=
  let was := s.on AUX.STAT.FAULT k
  let s := s.setF AUX.STAT.FAULT k 1
  if was then s else (s.auxHalt k 4).auxRaise 1 k

/-- AUX_CURRENT_CYCLE at the COL122 instant `tc`. -/
def auxCurrentCycle (k tc : Nat) (s : State) : State :=
  let l := 104 + k
  let p := s.trigPeriod 122
  if !s.on SERVON.CFG.EN l || !s.isCycle 122 tc then s
  else
    let s := ((s.reach tc).takeTrig 122 tc).abandoned l tc p
    let s := (s.applyPending l tc).auxModeApply k tc
    let off := !s.on AUX.CFG.EN k || s.on AUX.STAT.FAULT k
    let strong := s.on AUX.STAT.STRONG k
    let cmode := if off then 2 else if strong then 1 else 0
    let x := s.aux k
    if x.samples = [] then (s.noMeasure l).sendAux k tc 1 0 x.last.1 x.last.2
    else
      let s := if (s.loop l).begun then s else s.setLoop l ((s.loop l).start 0)
      let ur := if s.on SERVON.CFG.EN (96 + k) then (usableAt x.refs tc).getD (0, x.ref) else (0, ((usableAt x.refs tc).getD (0, x.ref)).2)
      let a := s.coilStage k tc ur.1 ur.2
      let sage := s.f SERVO.CFG.SAGE
      let win := x.samples.find? (fun m => decide (m.stamp + sage ≤ tc ∧ tc < m.stamp + sage + p))
      let m := win.getD (x.samples.headD ⟨0, 0, 0, 0, 0⟩)
      let n := if win.isSome then 0 else (s.loop l).extrap + 1
      let s := s.setLoop l { s.loop l with extrap := n }
      let s := if n = 0 then s else ((s.setF SERVON.STAT.FBMISS l 1).incF SERVON.CNT.FBMISSES l).warn 9 l (loopEp l)
      let s := if n = 4 then (s.severe 9 l (loopEp l)).auxFault k else s
      let hold := decide (4 ≤ n)
      let th := match x.comm.find? (fun c => decide (c.1 ≤ m.stamp)) with | some c => c.2.1 | none => 0
      let i := coilCurrent (s.f AUX.CFG.KIND k == 1) m.ia m.ib th
      let omax : Int := s.f SERVON.LIM.OMAX l
      let c := if strong then
          let y := s.loop l
          (a.1, (s.setLoop l { y with st := y.st.map (fun _ => {}), lastU := a.1 }).setFi SERVON.OUT.U l a.1)
        else s.cycleCore l (sat 24 (a.1 - i)) 0 (-omax) omax 0
      let s := (c.2.setF SERVON.STAT.HOLD l hold.toNat).saveStates l
      if hold then s.sendAux k tc 1 c.1 (s.aux k).last.1 (s.aux k).last.2 else s.sendAux k tc 0 c.1 cmode a.2

/-! ### Set-points from outside (R327) -/

/-- AUX_SETPOINT: a timed SETP on stream 0 while EXT is 1. -/
def auxSetpoint (k : Nat) (t : Token) (s : State) : State :=
  let ep := 0x260 + k
  if t.kind = 1#4 ∧ t.stream ≠ 0#8 then s.arrive ep [t] fun s => s.refuse ep t 4
  else if t.kind = 1#4 ∧ s.on AUX.CFG.EXT k = false then s.arrive ep [t] fun s => s.refuse ep t 3
  else setpointAccept (96 + k) t s

/-! ### Hub samples (R333, R334) -/

/-- HUB_SAMPLE: one superframe report of hub Dk, stamped in MT. -/
def State.hubSample (s : State) (k stamp : Nat) (ia ib : Int) (va vbus temp : Nat) (pos : Int) (st : Nat) : State :=
  let x := s.aux k
  let was := s.f AUX.HUB.OT k
  let s := s.setAux k { x with samples := (⟨stamp, ia, ib, va, pos⟩ :: x.samples).take 64, lastHub := s.mt }
  let s := ((s.setF AUX.HUB.VA k va).setF AUX.HUB.VBUS k vbus).setF AUX.HUB.TEMP k temp
  let s := ((s.setF AUX.HUB.OC k (st % 2)).setF AUX.HUB.OT k (st / 2 % 2)).setF AUX.HUB.UV k (st / 4 % 2)
  let s := (s.setF AUX.HUB.DRVF k (st / 8 % 2)).setF AUX.HUB.LINK k 1
  let s := if st.testBit 1 then
      let s := s.setF AUX.STAT.HUBWARN k 1
      if was = 0 then s.auxRaise 2 k else s
    else s
  if st.testBit 0 || st.testBit 2 || st.testBit 3 then s.auxFault k else s

/-- HUB_LINK_TIMEOUT: no superframe for 64 superframe periods. -/
def hubLinkTimeout (k : Nat) (s : State) : State :=
  if !s.on AUX.HUB.LINK k then s
  else (s.reach ((s.aux k).lastHub + 64 * s.superframe)).setF AUX.HUB.LINK k 0

/-! ### Reactions (R335, R336) -/

/-- CRITICAL_AUX_STOP: a critical status stops every axis with STATUS 0x04. -/
def State.auxCritical (s : State) : State := s.auxStopAt 255 4

/-- LOCK_STOP: a locked axis that moves when a path generator enters RUN, PAUSING or RESUMING (R336). -/
def State.lockStop (s : State) : State :=
  (List.range 8).foldl (fun s k =>
    if s.on AUX.CFG.LOCK k && ((s.auxRunning k).isSome || s.jogging k) then
      ((s.auxStopAt (2 ^ k) 6).setF AUX.STAT.LOCKSTOP k 1).auxRaise 1 k
    else s) s

/-! ### Control words (R319, R331, R339) -/

/-- What refuses a write of an AUX word at `a`. -/
def auxCheck (a : Nat) (old new : State) : Option Nat :=
  let k := (a - AUX.CFG.EN.base) / 0x40
  let en := old.on AUX.CFG.EN k
  if a = AUX.CFG.EN.addr k then
    if en ∧ (old.word a ^^^ new.word a) &&& ~~~ 1#64 ≠ 0 then some 8
    else if !en ∧ new.on AUX.CFG.EN k ∧ (!old.on SERVON.CFG.EN (96 + k) ∨ !old.on SERVON.CFG.EN (104 + k) ∨
      new.fi AUX.SOFT.MAX k ≤ new.fi AUX.SOFT.MIN k) then some 8
    else none
  else if a = AUX.SOFT.MAX.addr k then if en ∧ new.fi AUX.SOFT.MAX k ≤ new.fi AUX.SOFT.MIN k then some 8 else none
  else if a = AUX.CMOD.VSTRONG.addr k then
    if new.f AUX.CMOD.VSTRONG k ≠ 0 ∧ new.f AUX.CMOD.VSTRONG k ≤ new.f AUX.CMOD.VQUIET k then some 8 else none
  else if a = AUX.CUR.IRUN.addr k then if new.f AUX.CUR.IRUN k < new.f AUX.CUR.IHOLD k then some 8 else none
  else none

/-- A write that clears the enable of loop ℓ is refused while the axis is enabled (R319). -/
def auxLoopCheck (l : Nat) (old new : State) : Option Nat :=
  let k := if isAuxPos l then l - 96 else l - 104
  if 96 ≤ l ∧ old.on AUX.CFG.EN k ∧ old.on SERVON.CFG.EN l ∧ !new.on SERVON.CFG.EN l then some 8 else none

/-- What a write of an AUX word does beside storing it: enable, disable, and the clear of FAULT. -/
def auxEffect (a : Nat) (old s : State) : State :=
  let k := (a - AUX.CFG.EN.base) / 0x40
  if a = AUX.CFG.EN.addr k then
    if !old.on AUX.CFG.EN k ∧ s.on AUX.CFG.EN k then
      let strong := match s.f AUX.CFG.MODESEL k with
        | 1 => 0
        | 2 => 1
        | _ => if s.f AUX.CMOD.VSTRONG k = 0 then 1 else 0
      let s := s.setAux k { s.aux k with ref := s.auxMeasured k, jog := none, decision := none, zeroSince := none }
      (s.setF AUX.STAT.STRONG k strong).setF AUX.STAT.RUN k 1
    else if old.on AUX.CFG.EN k ∧ !s.on AUX.CFG.EN k then
      let r := (s.aux k).ref
      let s := s.auxHalt k 5
      (s.setAux k { s.aux k with ref := r }).setF AUX.STAT.RUN k 0
    else s
  else if a = AUX.STAT.RUN.addr k ∧ old.on AUX.STAT.FAULT k ∧ !s.on AUX.STAT.FAULT k then s.setAux k { s.aux k with ref := s.auxMeasured k }
  else s

/-- The last output of an auxiliary current loop whose EN is cleared (R234). -/
def auxLoopOff (l : Nat) (old s : State) : State :=
  if isAuxCur l && old.on SERVON.CFG.EN l && !s.on SERVON.CFG.EN l then
    let k := l - 104
    s.sendAux k (s.trigFrom 122 (s.mt + 1)) 1 (s.loop l).lastU (s.aux k).last.1 (s.aux k).last.2
  else s

/-! ### The commands -/

/-- AUX_POSITION_CYCLE (R241). -/
def execAuxPositionCycle (k : Fin 8) (tc : Nat) (s : State) : Host.Outcome State Fault Refusal := .next (auxPositionCycle k tc s)

/-- AUX_CURRENT_CYCLE (R243). -/
def execAuxCurrentCycle (k : Fin 8) (tc : Nat) (s : State) : Host.Outcome State Fault Refusal := .next (auxCurrentCycle k tc s)

/-- AUX_SETPOINT (R327). -/
def execAuxSetpoint (k : Fin 8) (tok : Token) (s : State) : Host.Outcome State Fault Refusal := .next (auxSetpoint k tok s)

/-- MOVE (R321). -/
def execAuxMove (toks : List Token) (s : State) : Host.Outcome State Fault Refusal := .next (auxMove toks s)

/-- MOVE_START (R322). -/
def execMoveStart (k : Fin 8) (tc : Nat) (s : State) : Host.Outcome State Fault Refusal := .next (moveStart k tc s)

/-- MOVE_COMPLETE (R324). -/
def execMoveComplete (k : Fin 8) (tc : Nat) (s : State) : Host.Outcome State Fault Refusal := .next (moveComplete k tc s)

/-- SETTLE_TIMEOUT (R324). -/
def execSettleTimeout (k : Fin 8) (s : State) : Host.Outcome State Fault Refusal := .next (settleTimeout k s)

/-- STOP (R325). -/
def execAuxStop (tok : Token) (s : State) : Host.Outcome State Fault Refusal := .next (auxStop tok s)

/-- JOG (R326). -/
def execJog (k : Fin 8) (tok : Token) (s : State) : Host.Outcome State Fault Refusal := .next (jog k tok s)

/-- HOLDI_SET (R328). -/
def execHoldiSet (k : Fin 8) (s : State) : Host.Outcome State Fault Refusal := .next (holdiSet k s)

/-- HUB_LINK_TIMEOUT (R333). -/
def execHubLinkTimeout (k : Fin 8) (s : State) : Host.Outcome State Fault Refusal := .next (hubLinkTimeout k s)

end Sys2Proof.Machine
end

