-- ==== Sys2Proof/Machine/Pixels.lean ====
section
/-! DEFINITION. What a pipeline computes over the lines of one frame (R289, R290). -/

namespace Sys2Proof.Machine

open Sys2Proof

/-- The pixel at (x, y) of the received lines, edges replicated. -/
def pixelAt (rows : List (List Nat)) (x y : Int) : Nat :=
  let row := rows.getD (min y.toNat (rows.length - 1)) []
  row.getD (min x.toNat (row.length - 1)) 0

/-- The nine pixels around (x, y), row by row. -/
def window3 (rows : List (List Nat)) (x y : Nat) : List Nat :=
  [-1, 0, 1].flatMap (fun dy => [-1, 0, 1].map (fun dx => pixelAt rows (x + dx) (y + dy)))

/-- Insertion into a sorted list. -/
def insertSorted (v : Nat) : List Nat → List Nat
  | [] => [v]
  | w :: t => if v ≤ w then v :: w :: t else w :: insertSorted v t

/-- The spatial filter SNR at (x, y). -/
def spatial (snr : Nat) (rows : List (List Nat)) (x y : Nat) : Nat :=
  if snr = 1 then
    let w := window3 rows x y
    (rdiv ((List.zipWith (fun a b => a * b) w [1, 2, 1, 2, 4, 2, 1, 2, 1]).sum : Nat) 16).toNat
  else if snr = 2 then ((window3 rows x y).foldr insertSorted []).getD 4 0
  else pixelAt rows x y

/-- The temporal history of one pixel after a sample. -/
def histStep (restart : Bool) (tk : Nat) (h s : Int) : Int := if restart then 16 * s else h + rdiv ((16 * s - h) * (16 - tk)) 16

/-- Black level and flat field. -/
def flatten (black ff : Int) (n : Int) : Nat := (clamp 0 4095 (rdiv ((n - black) * ff) 4096)).toNat

/-- A processed pixel: its place, its history and its q. -/
structure Pix where
  x : Nat
  y : Nat
  h : Nat
  q : Nat
deriving DecidableEq, Repr

/-- The stages of R289 over the received lines; `hist` and `ff` give the old history and the gain of a pixel. -/
def pipePixels (c : CamSetting) (restart : Bool) (rows : List (List Nat)) (hist ff : Nat → Nat → Nat) : List Pix :=
  let p := rows.map (fun r => r.map (fun v => v * 2 ^ (4 - 2 * c.dtype)))
  (List.range p.length).flatMap (fun y => (List.range (p.getD y []).length).map (fun x =>
    let h := histStep restart c.tk (hist x y) (spatial c.snr p x y)
    ⟨x, y, h.toNat, flatten c.black (ff x y) (rdiv h 16)⟩))

/-! ### Spatter: 8-connected components -/

def adjacent (p q : Pix) : Bool := decide (((p.x : Int) - q.x).natAbs ≤ 1 ∧ ((p.y : Int) - q.y).natAbs ≤ 1)

/-- The component that grows from `front` within `rest`: its pixels, and what is left. -/
def growComp : Nat → List Pix → List Pix → List Pix → List Pix × List Pix
  | 0, rest, _, acc => (acc, rest)
  | _ + 1, rest, [], acc => (acc, rest)
  | k + 1, rest, p :: front, acc =>
    let near := rest.filter (adjacent p)
    growComp k (rest.filter (fun q => !adjacent p q)) (near ++ front) (p :: acc)

def components : Nat → List Pix → List (List Pix)
  | 0, _ => []
  | _ + 1, [] => []
  | k + 1, p :: rest =>
    let r := growComp (rest.length + 1) rest [p] []
    r.1 :: components k r.2

/-! ### The statistics (R290) -/

/-- The fields of tokens 4–12 of a statistics record, and the flags NOPOOL and HISTSAT. -/
structure FrameStats where
  area : Nat := 0
  sumi : Nat := 0
  cx : Nat := 0
  cy : Nat := 0
  mxx : Nat := 0
  myy : Nat := 0
  mxy : Int := 0
  xmax : Nat := 0
  xmin : Nat := 0
  ymax : Nat := 0
  ymin : Nat := 0
  spat : Nat := 0
  sparea : Nat := 0
  peak : Nat := 0
  hist : List Nat := []
  nopool : Bool := false
  histsat : Bool := false
deriving DecidableEq, Repr

def listMin (l : List Nat) : Nat := match l with | [] => 0 | a :: t => t.foldl min a
def listMax (l : List Nat) : Nat := l.foldl max 0

/-- round(16 · (Σqab/S − (Σqa/S)(Σqb/S))). -/
def centralMoment (s sab sa sb : Nat) : Int := rdiv (16 * ((sab : Int) * s - (sa : Int) * sb)) (s * s)

def frameStats (c : CamSetting) (px : List Pix) : FrameStats :=
  let pool := px.filter (fun p => decide (c.thr ≤ p.q))
  let s := (pool.map (·.q)).sum
  let sx := (pool.map (fun p => p.q * p.x)).sum
  let sy := (pool.map (fun p => p.q * p.y)).sum
  let sxx := (pool.map (fun p => p.q * p.x * p.x)).sum
  let syy := (pool.map (fun p => p.q * p.y * p.y)).sum
  let sxy := (pool.map (fun p => p.q * p.x * p.y)).sum
  let xs := pool.map (·.x)
  let ys := pool.map (·.y)
  let hot := px.filter (fun p => decide (c.spthr ≤ p.q ∧ p.q < c.thr))
  let near (p : Pix) : Bool := !pool.isEmpty && decide (listMin xs ≤ p.x + c.spmarg ∧ p.x ≤ listMax xs + c.spmarg ∧
    listMin ys ≤ p.y + c.spmarg ∧ p.y ≤ listMax ys + c.spmarg)
  let comps := (components hot.length hot).filter (fun k => decide (c.spmin ≤ k.length) && !k.any near)
  let bins := (List.range 16).map (fun b => (px.filter (fun p => min (p.q / 2 ^ c.hshift) 15 == b)).length)
  { area := pool.length, sumi := s, cx := (rdiv (256 * sx) s).toNat, cy := (rdiv (256 * sy) s).toNat,
    mxx := (centralMoment s sxx sx sx).toNat, myy := (centralMoment s syy sy sy).toNat, mxy := centralMoment s sxy sx sy,
    xmax := listMax xs, xmin := listMin xs, ymax := listMax ys, ymin := listMin ys,
    spat := min 255 comps.length, sparea := (comps.map (·.length)).sum, peak := listMax (px.map (·.q)),
    hist := bins.map (min 65535), nopool := pool.isEmpty, histsat := bins.any (fun n => decide (65535 ≤ n)) }

end Sys2Proof.Machine
end

