-- ==== Sys2Proof/Machine/TimeBase.lean ====
section
/-! DEFINITION. The time bases MT, PT and AT (R51–R55) and the words of the TB block. -/

namespace Sys2Proof.Machine

open Sys2Proof

/-- PT at a machine time, in ns from PT 0 (R53): `base` and `baseHi` are the words of TB.PT.BASE. -/
def ptFormula (base baseHi mtref rate : Word) (mt : Nat) : Int :=
  let d : Int := (mt : Int) - mtref.toNat
  let adj := fshr (d * sbits rate 31 0) 40
  let sec : Int := (bits base 63 32 + bits baseHi 15 0 * 2 ^ 32 : Nat)
  sec * 1000000000 + bits base 31 0 + d + adj

/-- PT now, in ns (R53). -/
def State.pt (s : State) : Int :=
  ptFormula (s.word TB.PTBASE.NS.base) (s.word TB.PTBASEH.SECHI.base) (s.word TB.PTMTREF.V.base) (s.word TB.PTRATE.V.base) s.mt

/-- The SEC and NS of a PT value in ns. -/
def ptSec (t : Int) : Int := t / 1000000000
def ptNs (t : Int) : Int := t % 1000000000

/-- The three words of the PT written together, from a PT value that holds at machine time `mtref`. -/
def State.putPt (s : State) (t : Int) (mtref : Nat) : State :=
  let sec := (ptSec t).toNat
  ((s.setWord TB.PTBASE.NS.base (wd (place (sec % 2 ^ 32) 32 32 + (ptNs t).toNat))).setWord TB.PTBASEH.SECHI.base
    (wd (sec / 2 ^ 32 % 2 ^ 16))).setWord TB.PTMTREF.V.base (wd mtref)

def State.setRate (s : State) (r : Int) : State :=
  s.setFi TB.PTRATE.V 0 (clamp (-549755814) 549755814 r)

/-- A new BASE that moves PT backwards, or forwards by more than 1 ms, sets PTSTEP and writes a pt-step record (R53, R440). -/
def ptStepJudge (old s : State) : State :=
  let step := s.pt - ({ old with mt := s.mt } : State).pt
  if step < 0 ∨ 1000000 < step then
    (s.setF TB.STAT.PTSTEP 0 1).record7 23 0xB 0 4 (wdi step) (s.word TB.PTBASE.NS.base)
  else s

/-- A BASE whose NS is 1,000,000,000 or more is refused (R53). -/
def ptBaseCheck (data : Word) : Option Nat := if 1000000000 ≤ bits data 31 0 then some 8 else none

/-- A RATE beyond 500 ppm is clamped with an info-class event (R53). -/
def ptRateEffect (s : State) : State :=
  let r := s.fi TB.PTRATE.V
  if r < -549755814 ∨ 549755814 < r then (s.setRate r).info 23 0 4 else s

/-- The words of the PT set (R53). -/
def State.ptSet (s : State) : Word × Word × Word × Word :=
  (s.word TB.PTBASE.NS.base, s.word TB.PTBASEH.SECHI.base, s.word TB.PTMTREF.V.base, s.word TB.PTRATE.V.base)

/-- The set before the one in force is kept, with the MT of the change (R369). -/
def State.ptRemember (old s : State) : State :=
  if s.ptSet = old.ptSet then s else s.setPtp { s.ptp with oldSet := some old.ptSet, changed := s.mt }

/-- PT at an instant, both in 2^−16 ns, by the set in force at that instant (R53, R369). -/
def State.ptAt16 (s : State) (t : Nat) : Int :=
  let (b, bh, mr, r) := match s.ptp.oldSet with
    | some o => if t < s.ptp.changed * 65536 then o else s.ptSet
    | none => s.ptSet
  let d : Int := (t : Int) - mr.toNat * 65536
  let sec : Int := (bits b 63 32 + bits bh 15 0 * 2 ^ 32 : Nat)
  (sec * 1000000000 + bits b 31 0) * 65536 + d + fshr (d * sbits r 31 0) 40

/-- The effect of a message that wrote BASE, MTREF or RATE: clamp first, then judge the step of a new BASE. -/
def ptWriteEffect (old s : State) : State :=
  let s := old.ptRemember (ptRateEffect s)
  if s.word TB.PTBASE.NS.base ≠ old.word TB.PTBASE.NS.base ∨ s.word TB.PTBASEH.SECHI.base ≠ old.word TB.PTBASEH.SECHI.base ∨
     s.word TB.PTMTREF.V.base ≠ old.word TB.PTMTREF.V.base then ptStepJudge old s else s

/-- The level condition of status bit `b` starts or ends (R431). -/
def State.levelOn (s : State) (b : Nat) : State :=
  s.setBasin { s.basin with levels := b :: s.basin.levels.filter (· != b) }
def State.levelOff (s : State) (b : Nat) : State :=
  s.setBasin { s.basin with levels := s.basin.levels.filter (· != b) }

/-- AT now (R55, R455): its crystal's 32,768 ticks a second, or the count held while the crystal is stopped. -/
def State.atNow (s : State) : Nat :=
  if s.tb.atStopped then s.tb.atTicks % 2 ^ 48 else (s.tb.atTicks + (s.mt - s.tb.atFrom) * 32768 / 1000000000) % 2 ^ 48

/-- AT stands at `v` at this instant. -/
def State.putAt (s : State) (v : Nat) : State := s.setTb { s.tb with atTicks := v, atFrom := s.mt }

/-- The first PLL lock after PORST_n: MT starts at 0 and AT.SYNC takes the AT count (R51, R55). -/
def pllLock (s : State) : State :=
  if s.tb.locked then s
  else (((s.setTb { s.tb with locked := true }).setMt 0).putAt s.atNow).setF TB.ATSYNC.V 0 s.atNow

/-- PLL_LOCK (R51, R55). -/
def execPllLock (s : State) : Host.Outcome State Fault Refusal := .next (pllLock s)

/-- TIMEREF is lost: REFLOSS, HOLD, and a critical-class level condition (R52, R431). -/
def timerefLoss (s : State) : State :=
  if s.tb.refLost then s
  else ((((s.setTb { s.tb with refLost := true, slewEnd := 0 }).setF TB.STAT.REFLOSS 0 1).setF TB.STAT.HOLD 0 1).levelOn 1).critical 1 0 4

/-- TIMEREF_LOSS (R52). -/
def execTimerefLoss (s : State) : Host.Outcome State Fault Refusal := .next (timerefLoss s)

/-- The PLL relocks with a phase error in ns: a slew of phase ÷ 100 ppm follows, or none below 1 ns (R52). -/
def pllRelock (phaseErr : Nat) (s : State) : State :=
  if !s.tb.refLost then s
  else
    let s := s.levelOff 1
    if phaseErr = 0 then (s.setTb { s.tb with refLost := false, phase := 0, slewEnd := 0 }).setF TB.STAT.HOLD 0 0
    else s.setTb { s.tb with refLost := false, phase := phaseErr, slewEnd := s.mt + phaseErr * 10000 }

/-- PLL_RELOCK (R52). -/
def execPllRelock (phaseErr : Nat) (s : State) : Host.Outcome State Fault Refusal := .next (pllRelock phaseErr s)

/-- The slew ends: HOLD returns to 0 (R52). -/
def slewEnd (s : State) : State :=
  if s.tb.refLost ∨ s.tb.slewEnd = 0 then s
  else ((s.reach s.tb.slewEnd).setTb { s.tb with phase := 0, slewEnd := 0 }).setF TB.STAT.HOLD 0 0

/-- SLEW_END (R52). -/
def execSlewEnd (s : State) : Host.Outcome State Fault Refusal := .next (slewEnd s)

end Sys2Proof.Machine
end

