-- ==== Sys2Proof/Machine/Imaging.lean ====
section
/-! DEFINITION. CSI-2 ports, image pipelines, exposures, camera settings, photodiode taps and I2C ports (R280–R300). -/

namespace Sys2Proof.Machine

open Sys2Proof

def State.slot (s : State) (c : Nat) : Slot := tget (fun _ => {}) s.slots c
def State.setSlot (s : State) (c : Nat) (x : Slot) : State := s.setSlots (tset (fun _ => {}) s.slots c x)
def State.tap (s : State) (n : Nat) : TapSt := tget (fun _ => {}) s.taps n
def State.setTap (s : State) (n : Nat) (x : TapSt) : State := s.setTaps (tset (fun _ => {}) s.taps n x)
def State.i2c (s : State) (k : Nat) : List I2cTxn := tget (fun _ => []) s.i2cs k
def State.setI2c (s : State) (k : Nat) (x : List I2cTxn) : State := s.setI2cs (tset (fun _ => []) s.i2cs k x)

/-- The pipeline endpoint of camera c. -/
def pipeEp (c : Nat) : Nat := 0x120 + c / 2

/-- A raise of source 13 whose record carries the slot's or the port's status word. -/
def State.ipRaise (s : State) (cls c : Nat) : State := s.raise cls 13 c (pipeEp c) 1 (s.word (IP.STAT.RUN.addr c))
def State.csiRaise (s : State) (cls k : Nat) : State := s.raise cls 13 k (0x110 + k) 1 (s.word (CSI.STAT.ECC.addr k))

/-! ### Statistics records (R294, R295) -/

/-- The words of a record. -/
def statWords (c tdrops : Nat) (e : Exposure) (fn flags lines fedly : Nat) (f : FrameStats) (emb : List Byte) (pt : Int) : List Word :=
  let h (t : Nat) : Word := wd ((List.range 4).foldl (fun a i => a + place (f.hist.getD (4 * t + i) 0) 16 (16 * i)) 0)
  let eb (o : Nat) : Word := wd (leNat ((List.range 8).map (fun i => emb.getD (o + i) 0)))
  [wd (place e.trigt 48 16 + place e.expid 16 0),
   wd (place (min 0xFFFFFFFF e.width) 32 32 + place fn 16 16 + place c 8 8 + place (min 255 tdrops) 8 0),
   wd (place e.tseq 32 32 + place e.set.setid 16 16 + place flags 16 0),
   wd (place lines 16 48 + min 0xFFFFFFFF fedly),
   wd (place f.sumi 32 32 + place f.area 32 0), wd (place f.cy 32 32 + place f.cx 32 0),
   wd (place f.mxx 21 43 + place f.myy 21 22 + place (ux 22 f.mxy) 22 0),
   wd (place f.xmax 16 48 + place f.xmin 16 32 + place f.ymax 16 16 + place f.ymin 16 0),
   wd (place f.spat 8 56 + place f.peak 16 32 + place f.sparea 32 0),
   h 0, h 1, h 2, h 3, eb 0, eb 8, wd (place (ptSec pt).toNat 32 32 + place (ptNs pt).toNat 32 0)]

/-- FLAGS of a record. -/
def statFlags (e : Exposure) (trunc tdrop gap noframe crc size nopool sat : Bool) : Nat :=
  trunc.toNat + 2 * tdrop.toNat + 4 * gap.toNat + 8 * noframe.toNat + 16 * crc.toNat + 32 * size.toNat + 64 * nopool.toNat +
  128 * (decide (e.expid / 4096 = 15)).toNat + 256 * e.short.toNat + 512 * sat.toNat

/-- PT at a machine time. -/
def State.ptAt (s : State) (t : Nat) : Int :=
  ptFormula (s.word TB.PTBASE.NS.base) (s.word TB.PTBASEH.SECHI.base) (s.word TB.PTMTREF.V.base) (s.word TB.PTRATE.V.base) t

/-- A record goes to DEST, or is discarded where 4 wait (R295); the head's camera rule receives it as well while enabled (R303). -/
def State.sendStat (s : State) (c : Nat) (ws : List Word) : State :=
  let x := s.slot c
  let sent := x.sent.filter (fun t => s.net.contains t)
  let s := if sent.length < 4 then
      let s := s.sendMsg (pipeEp c) (s.f IP.CFG.DEST c) 0xA (s.f IP.CFG.STREAM c) ws
      s.setSlot c { x with tdrops := 0, sent := sent ++ s.net.getLast?.toList }
    else ((s.setSlot c { x with tdrops := 0, sent := sent }).setF IP.STAT.RDROP c 1).ipRaise 2 c
  if s.on SERVO.RULE.CFG.EN c then s.sendMsg (pipeEp c) (powerEp c) 0xA 3 ws else s

/-- An exposure is retired as NOFRAME (R285). -/
def State.noFrame (s : State) (c : Nat) (e : Exposure) : State :=
  let s := ((s.setF IP.STAT.NOFRAME c 1).incF IP.CNT.NOFRAMES c).ipRaise 2 c
  let d := (s.slot c).tdrops
  s.sendStat c (statWords c d e 0 (statFlags e false (decide (0 < d)) false true false false false false) 0 0 {} [] (s.ptAt e.trigt))

/-! ### The close of a frame (R285, R289–R292) -/

/-- The 16-bit entry of a map in memory. -/
def State.half (s : State) (a : Nat) : Nat := leNat (s.bytes a 2)

/-- IP.STAT.TRUNC for a frame not yet marked. -/
def State.truncate (s : State) (c : Nat) (f : FrameSt) : FrameSt × State :=
  if f.trunc then (f, s)
  else ({ f with trunc := true }, ((s.setF IP.STAT.TRUNC c 1).incF IP.CNT.TRUNCS c).ipRaise 2 c)

/-- The history after a frame is written back where temporal smoothing is on. -/
def State.putHist (s : State) (base wx : Nat) : List Pix → State
  | [] => s
  | p :: t => (s.setBytes (base + 2 * (p.y * wx + p.x)) (leBytes 2 p.h)).putHist base wx t

/-- The open frame of slot `c` closes: its statistics are formed over the lines received and its record is sent. -/
def State.closeFrame (s : State) (c : Nat) (short : Bool) : State :=
  match (s.slot c).frame with
  | none => s
  | some f =>
    let r := if short then s.truncate c f else (f, s)
    let f := r.1
    let s := r.2
    let x := s.slot c
    let st := f.exp.set
    let fresh := match x.last with
      | some l => x.restart || l.wx != st.wx || l.wy != st.wy || l.dtype != st.dtype || l.tk != st.tk
      | none => true
    let base := s.f IP.HBASE.BASE c * 64
    let rows := f.lines.reverse
    let px := pipePixels st (fresh || st.tk == 0) rows (fun x y => s.half (base + 2 * (y * st.wx + x)))
      (fun x y => if st.ff = 0 then 4096 else s.half (st.ff + 2 * (y * st.wx + x)))
    let fs := frameStats st px
    let size := f.size || (!short && decide (rows.length < st.wy))
    let s := if st.tk = 0 then s else s.putHist base st.wx px
    let s := (s.setSlot c { x with frame := none, last := some st, restart := false }).incF IP.CNT.FRAMES c
    let d := x.tdrops
    s.sendStat c (statWords c d f.exp f.fn (statFlags f.exp f.trunc (decide (0 < d)) f.gap false f.crc size fs.nopool fs.histsat)
      rows.length (s.mt - f.exp.tend) fs (f.emb.getD []) (s.ptAt f.exp.trigt))

/-! ### Packets (R280, R281) -/

/-- A packet is discarded as unwanted: DISC, UNSUP, info. -/
def State.discPacket (s : State) (k : Nat) : State := ((s.incF CSI.CNT.DISC k).setF CSI.STAT.UNSUP k 1).csiRaise 3 k

/-- The header check of a packet: a corrected header is counted and used; an uncorrectable one discards up to the next start of transmission.
`act` runs on a usable packet. -/
def State.csiHeader (s : State) (k ecc : Nat) (sot : Bool) (act : State → State) : State :=
  if !s.on CSI.CFG.EN k then s
  else
    let s := s.setF CSI.STAT.SYNC k 1
    let s := if sot then s.setCsiSkip (s.csiSkip.filter (· != k)) else s
    if s.csiSkip.contains k then s
    else if ecc = 2 then
      ((((s.setCsiSkip (k :: s.csiSkip)).setF CSI.STAT.ECC k 1).incF CSI.CNT.ECCU k)).csiRaise 2 k
    else act (if ecc = 1 then s.incF CSI.CNT.ECCC k else s)

/-- The slot that a VC of port k selects (R282). -/
def State.slotOf (s : State) (k vc : Nat) : Option Nat :=
  if s.f CSI.CFG.VCA k = vc then some (2 * k) else if s.f CSI.CFG.VCB k = vc then some (2 * k + 1) else none

/-- An FS on slot `c` with frame number `fn` (R285). -/
def State.fsPair (s : State) (c fn : Nat) : State :=
  let s := s.closeFrame c true
  let x := s.slot c
  match x.pending with
  | [] => ((s.setF IP.STAT.UNTRIG c 1).incF IP.CNT.UNTRIGS c).ipRaise 2 c
  | _ :: _ =>
    let wrap := if s.f IP.CFG.FNWRAP c = 0 then 65535 else s.f IP.CFG.FNWRAP c
    let j := if s.on IP.CFG.FNCHK c ∧ fn ≠ 0 ∧ x.expected ≠ 0 then (((fn : Int) - x.expected) % wrap).toNat else 0
    let drop := if 0 < j ∧ j < x.pending.length then j else 0
    let s := s.setSlot c { x with pending := x.pending.drop drop, expected := if fn = 0 then x.expected else fn % wrap + 1 }
    let s := (x.pending.take drop).foldl (fun s e => s.noFrame c e) s
    let x := s.slot c
    match x.pending with
    | [] => s
    | e :: rest =>
      let s := s.setSlot c { x with pending := rest, frame := some { exp := e, fn := fn, gap := decide (0 < j), fsAt := s.mt } }
      if 0 < j then (s.setF IP.STAT.FNGAP c 1).ipRaise 2 c else s

/-- FRAME_START: an FS packet reaches port k. A port whose pipeline has stopped discards every frame (R296). -/
def frameStart (k vc fn ecc : Nat) (sot : Bool) (s : State) : State :=
  s.csiHeader k ecc sot fun s =>
    if s.pipesOff.contains k then s.incF CSI.CNT.DISC k
    else match s.slotOf k vc with
      | none => s.discPacket k
      | some c => if s.on IP.CFG.EN c then s.fsPair c fn else s.discPacket k

/-- The CSI-2 data type of a setting. -/
def dataType (dtype : Nat) : Nat := 0x2A + dtype

/-- A line of the open frame: kept, cut, or discarded for want of room (R292). -/
def State.takeLine (s : State) (c : Nat) (f : FrameSt) (room : Bool) (data : List Nat) : State :=
  if f.dead then s
  else if !room then
    let r := s.truncate c f
    r.2.setSlot c { r.2.slot c with frame := some { r.1 with dead := true } }
  else
    let st := f.exp.set
    let f := if st.wx < data.length ∨ st.wy ≤ f.lines.length then { f with size := true } else f
    let f := if st.wy ≤ f.lines.length then f else { f with lines := data.take st.wx :: f.lines }
    s.setSlot c { s.slot c with frame := some f }

/-- LINE_PACKET: any packet but FS and FE reaches port k. Line start and line end are accepted and ignored. -/
def linePacket (k vc dt ecc : Nat) (sot crcOk room : Bool) (data : List Nat) (s : State) : State :=
  s.csiHeader k ecc sot fun s =>
    if dt = 2 ∨ dt = 3 then s
    else match s.slotOf k vc with
      | none => s.discPacket k
      | some c => match (s.slot c).frame with
        | none => s.discPacket k
        | some f =>
          if dt ≠ 0x12 ∧ dt ≠ dataType f.exp.set.dtype then s.discPacket k
          else if !crcOk then
            (((s.setSlot c { s.slot c with frame := some { f with crc := true } }).incF CSI.CNT.CRCS k).setF CSI.STAT.CRC k 1).csiRaise 3 k
          else if dt = 0x12 then
            if f.emb.isSome then s
            else s.setSlot c { s.slot c with frame := some { f with emb := some ((data.take 16).map (fun v => BitVec.ofNat 8 v)) } }
          else s.takeLine c f room data

/-- FRAME_END: an FE closes the frame. -/
def frameEnd (k vc ecc : Nat) (sot : Bool) (s : State) : State :=
  s.csiHeader k ecc sot fun s =>
    match s.slotOf k vc with
    | none => s.discPacket k
    | some c => if (s.slot c).frame.isNone then s.discPacket k else s.closeFrame c false

/-- FSWIN_EXPIRY: the oldest pending exposure is retired, or the open frame is closed, whichever window ends first. -/
def fswinExpiry (c : Nat) (s : State) : State :=
  let x := s.slot c
  let win := s.f IP.CFG.FSWIN c * 1000
  let retire (e : Exposure) (rest : List Exposure) : State :=
    let s := s.reach (e.tend + win)
    (s.setSlot c { s.slot c with pending := rest }).noFrame c e
  match x.pending, x.frame with
  | e :: rest, none => retire e rest
  | [], some f => (s.reach (f.fsAt + win)).closeFrame c true
  | e :: rest, some f => if e.tend ≤ f.fsAt then retire e rest else (s.reach (f.fsAt + win)).closeFrame c true
  | [], none => s

/-! ### Exposures (R284) -/

/-- The col of camera c has judged a rising-edge token; `released`: it will release it. -/
def State.expJudged (s : State) (c : Nat) (released : Bool) : State :=
  if !s.on IP.CFG.EN c then s
  else
    let x := s.slot c
    let n := (x.tseq + 1) % 2 ^ 32
    if released then s.setSlot c { x with tseq := n, judged := x.judged ++ [n] }
    else ((s.setSlot c { x with tseq := n, tdrops := min 255 (x.tdrops + 1) }).setF IP.STAT.TDROP c 1).ipRaise 3 c

/-- Whether a pending setting takes effect for an edge in the ns `t`. -/
def CamWhen.met (w : CamWhen) (t : Nat) : Bool :=
  match w with
  | .after u => decide (u < t)
  | .from u => decide (u ≤ t)
  | .barrier => false

/-- The pending setting takes effect where its condition is met at an edge in the ns `t`. -/
def State.camApply (s : State) (c t : Nat) : State :=
  let x := s.slot c
  match x.pend with
  | some (st, w) => if w.met t then
      ((s.setSlot c { x with set := some st, pend := none }).setF IP.STAT.SETID c st.setid).setF IP.STAT.PEND c 0 else s
  | none => s

/-- An exposure in progress ends at `t4`, in units of 250 ps: it joins the pending list; a ninth retires the oldest. -/
def State.expEnd (s : State) (c t4 : Nat) (short : Bool) : State :=
  let x := s.slot c
  match x.openExp with
  | none => s
  | some o =>
    let e : Exposure := { expid := o.expid, trigt := o.rise4 / 4, width := (openDiv ((t4 : Int) - o.rise4) 4).toNat, tseq := o.tseq, set := o.set,
                          short := short, tend := t4 / 4 }
    let l := x.pending ++ [e]
    let s := s.setSlot c { x with openExp := none, pending := if 8 < l.length then l.drop 1 else l }
    match l with
    | f :: _ => if 8 < l.length then s.noFrame c f else s
    | [] => s

/-- A released rising edge of CTRGc at `t4` starts an exposure. -/
def State.expRise (s : State) (c t4 ident : Nat) : State :=
  if !s.on IP.CFG.EN c then s
  else
    let s := s.camApply c (t4 / 4)
    let x := s.slot c
    s.setSlot c { x with openExp := some ⟨ident % 65536, t4, x.judged.headD x.tseq, x.set.getD {}⟩, judged := x.judged.drop 1 }

/-! ### Camera settings (R286–R288) -/

/-- The setting a message of three tokens spells, with every check of R287 but the addresses'. -/
def parseCam (ws : List Word) : Option CamSetting :=
  match ws with
  | [a, b, c] =>
    let x : CamSetting := {
      setid := bits a 63 48, wx := bits a 47 38, wy := bits a 37 28, dtype := bits a 27 26, bnd := bit a 25, snr := bits a 24 23
      tk := bits a 22 19, black := bits b 63 52, thr := bits b 51 40, spthr := bits b 39 28, spmin := bits b 27 20, spmarg := bits b 19 12
      hshift := bits b 11 8, ff := bits c 47 3 * 8 }
    if 16 ≤ x.wx ∧ x.wx ≤ 512 ∧ 16 ≤ x.wy ∧ x.wy ≤ 512 ∧ x.dtype ≠ 3 ∧ x.snr ≠ 3 ∧ 1 ≤ x.thr ∧ 1 ≤ x.spthr ∧ 1 ≤ x.spmin ∧ x.hshift ≤ 8 ∧
       bits a 18 0 = 0 ∧ bits b 7 0 = 0 ∧ bits c 63 48 = 0 ∧ bits c 2 0 = 0 then some x else none
  | _ => none

/-- CAMERA_SETTING: a message on stream 8 or 9 of the pipeline endpoint. -/
def cameraSetting (k : Nat) (toks : List Token) (s : State) : State :=
  let ep := 0x120 + k
  s.arrive ep toks fun s =>
    match toks.find? (fun t => t.kind != 0#4), errToken toks with
    | some t, _ => s.refuse ep t 7
    | none, some t => s.refuse ep t 5
    | none, none =>
      let t := toks.getLastD (mkTok 0 0 0 0 0)
      if t.stream ≠ 8#8 ∧ t.stream ≠ 9#8 then s.refuse ep t 4
      else
        let c := if t.stream = 8#8 then 2 * k else 2 * k + 1
        let no (s : State) : State := (s.setF IP.STAT.REFUSED c 1).refuse ep t 4
        match parseCam (toks.map (·.payload)) with
        | none => no s
        | some x =>
          if (x.ff ≠ 0 ∧ inPlain x.ff (2 * x.wx * x.wy) = false) ∨ (x.tk ≠ 0 ∧ inPlain (s.f IP.HBASE.BASE c * 64) (2 * x.wx * x.wy) = false) then no s
          else
            let w : CamWhen := if x.bnd then .barrier else if t.timed then .from (s.instant t) else .after s.mt
            (s.setSlot c { s.slot c with pend := some (x, w) }).setF IP.STAT.PEND c 1

/-- At a barrier of time `t` the settings marked for the boundary may take effect (R29, R288). -/
def camBarrier (t : Nat) (s : State) (c : Nat) : State :=
  let x := s.slot c
  match x.pend with
  | some (st, .barrier) => s.setSlot c { x with pend := some (st, .from t) }
  | _ => s

/-! ### Photodiode taps (R298) -/

/-- The tap of head n takes a pair. -/
def State.tapPair (s : State) (n : Nat) (p : Pair) : State :=
  if !s.on IP.PD.CFG.EN n then s
  else
    let x := s.tap n
    let x := { x with n := x.n + 1, stamp := if x.n = 0 then p.stamp else x.stamp, nhigh := x.nhigh + (gateLevelAt s.gateLog n p.stamp).toNat,
                      esum := x.esum + p.e0 + p.e1, emax := max x.emax (max p.e0 p.e1), rsum := x.rsum + p.r0 + p.r1, rmax := max x.rmax (max p.r0 p.r1) }
    let dec := s.f IP.PD.CFG.DEC n
    if x.n < dec then s.setTap n x
    else
      let waits := match x.sent with | some t => s.net.contains t | none => false
      if waits then (s.setTap n { sent := x.sent }).setF IP.PD.CFG.LOST n 1
      else
        let mean (v : Nat) : Nat := (openDiv v (2 * x.n)).toNat
        let s := s.sendMsg (powerEp n) (s.f IP.PD.CFG.DEST n) 0xA (s.f IP.PD.CFG.STREAM n)
          [wd (place x.stamp 48 16 + min 65535 x.nhigh),
           wd (place (mean x.esum) 16 48 + place x.emax 16 32 + place (mean x.rsum) 16 16 + place x.rmax 16 0)]
        s.setTap n { sent := s.net.getLast? }

/-- POWER_LOOP_CYCLE: the oldest pair reaches the tap and the loop (R237, R298). -/
def powerLoopCycle (n : Nat) (s : State) : State :=
  match (s.loop (72 + n)).pairs with
  | [] => s
  | p :: _ => powerCycle n (s.tapPair n p)

/-! ### I2C (R299) -/

/-- The transaction a message spells. -/
def parseI2c (toks : List Token) : Option I2cTxn :=
  match toks with
  | [] => none
  | t :: rest =>
    let op := bits t.payload 63 56
    let wlen := bits t.payload 47 40
    let rlen := bits t.payload 39 32
    if (op = 1 ∨ op = 2 ∨ op = 3) ∧ wlen ≤ 64 ∧ rlen ≤ 64 ∧ rest.length = (wlen + 7) / 8 ∧ (op = 1 → rlen = 0) ∧ (op = 2 → wlen = 0) then
      some ⟨t.src.toNat, t.stream.toNat, op, bits t.payload 55 49, (rest.flatMap (fun u => leBytes 8 u.payload.toNat)).take wlen, rlen⟩
    else none

def i2cTransaction (k : Nat) (toks : List Token) (s : State) : State :=
  let ep := 0x140 + k
  s.arrive ep toks fun s =>
    match toks.find? (fun t => t.kind != 0#4 && t.kind != 2#4), errToken toks with
    | some t, _ => s.refuse ep t 7
    | none, some t => s.refuse ep t 5
    | none, none => match parseI2c toks with
      | none => s.refuse ep (toks.getLastD (mkTok 0 0 0 0 0)) 4
      | some x => s.setI2c k (s.i2c k ++ [x])

/-- Read bytes as words; bytes that the bus did not deliver are free values (log entry 5). -/
def State.readWords (s : State) (bytes : List Byte) : Nat → List Word × State
  | 0 => ([], s)
  | m + 1 =>
    let fr := s.free
    let r := fr.2.readWords (bytes.drop 8) m
    (wd (leNat ((List.range 8).map (fun i => bytes.getD i (BitVec.ofNat 8 (fr.1.toNat / 256 ^ i))))) :: r.1, r.2)

/-- I2C_DONE: the running transaction ends and the port answers. -/
def i2cDone (k status nackidx : Nat) (bytes : List Byte) (s : State) : State :=
  match s.i2c k with
  | [] => s
  | x :: rest =>
    let s := s.setI2c k rest
    let r := s.readWords (bytes.take x.rlen) ((x.rlen + 7) / 8)
    r.2.sendMsg (0x140 + k) x.src 5 x.stream (wd (place nackidx 8 8 + status) :: r.1)

/-! ### Control words (R282, R300) -/

/-- What refuses a write of a CSI, IP or I2C word at `a`. -/
def imagingCheck (a : Nat) (old new : State) : Option Nat :=
  let other (m : Word) : Bool := (old.word a ^^^ new.word a) &&& ~~~ m != 0
  if a / 0x100000 = CSI.CFG.EN.base / 0x100000 then
    let k := (a - CSI.CFG.EN.base) / 0x40
    if a = CSI.CFG.EN.addr k then
      if new.f CSI.CFG.VCA k = new.f CSI.CFG.VCB k ∨ (old.on CSI.CFG.EN k && other 1) then some 8 else none
    else none
  else if a / 0x100000 = IP.CFG.EN.base / 0x100000 then
    if IP.PD.CFG.EN.base ≤ a then
      let n := (a - IP.PD.CFG.EN.base) / 8
      if old.on IP.PD.CFG.EN n && other 3 then some 8 else none
    else
      let c := (a - IP.CFG.EN.base) / 0x40
      if a = IP.CFG.EN.addr c then
        if old.on IP.CFG.EN c && other 1 then some 8
        else if new.on IP.CFG.EN c ∧ (old.slot c).set.isNone ∧ (old.slot c).pend.isNone then some 8
        else none
      else if a = IP.HBASE.BASE.addr c ∧ old.on IP.CFG.EN c then some 8
      else none
  else none

/-- What a write of a CSI or IP word does beside storing it. -/
def imagingEffect (a : Nat) (s : State) : State :=
  if a / 0x100000 = CSI.CFG.EN.base / 0x100000 then
    let k := (a - CSI.CFG.EN.base) / 0x40
    if a = CSI.CFG.EN.addr k ∧ !s.on CSI.CFG.EN k then s.setF CSI.STAT.SYNC k 0 else s
  else if a / 0x100000 = IP.CFG.EN.base / 0x100000 ∧ a < IP.PD.CFG.EN.base then
    let c := (a - IP.CFG.EN.base) / 0x40
    if a ≠ IP.CFG.EN.addr c then s
    else if s.on IP.CFG.EN c then
      (s.setSlot c { s.slot c with tseq := 0, judged := [], pending := [], expected := 0, restart := true }).setF IP.STAT.RUN c 1
    else (s.setSlot c { s.slot c with frame := none, openExp := none, judged := [], pending := [] }).setF IP.STAT.RUN c 0
  else if IP.PD.CFG.EN.base ≤ a ∧ a < IP.PD.CFG.EN.base + 192 then
    let n := (a - IP.PD.CFG.EN.base) / 8
    if s.on IP.PD.CFG.EN n then s else s.setTap n { sent := (s.tap n).sent }
  else s

/-! ### The commands -/

/-- FRAME_START (R285). -/
def execFrameStart (k : Fin 12) (vc : Fin 4) (fn : BitVec 16) (ecc : Fin 3) (sot : Bool) (s : State) : Host.Outcome State Fault Refusal :=
  .next (frameStart k vc fn.toNat ecc sot s)

/-- LINE_PACKET (R292). -/
def execLinePacket (k : Fin 12) (vc : Fin 4) (dt : BitVec 6) (ecc : Fin 3) (sot crcOk room : Bool) (data : List (BitVec 12)) (s : State) :
    Host.Outcome State Fault Refusal := .next (linePacket k vc dt.toNat ecc sot crcOk room (data.map (·.toNat)) s)

/-- FRAME_END (R285). -/
def execFrameEnd (k : Fin 12) (vc : Fin 4) (ecc : Fin 3) (sot : Bool) (s : State) : Host.Outcome State Fault Refusal :=
  .next (frameEnd k vc ecc sot s)

/-- FSWIN_EXPIRY (R285). -/
def execFswinExpiry (c : Fin 24) (s : State) : Host.Outcome State Fault Refusal := .next (fswinExpiry c s)

/-- CAMERA_SETTING (R287). -/
def execCameraSetting (k : Fin 12) (toks : List Token) (s : State) : Host.Outcome State Fault Refusal := .next (cameraSetting k toks s)

/-- I2C_TRANSACTION (R299). -/
def execI2cTransaction (k : Fin 13) (toks : List Token) (s : State) : Host.Outcome State Fault Refusal := .next (i2cTransaction k toks s)

/-- I2C_DONE (R299). -/
def execI2cDone (k : Fin 13) (status : Fin 5) (nackidx : BitVec 8) (bytes : List (BitVec 8)) (s : State) : Host.Outcome State Fault Refusal :=
  .next (i2cDone k status nackidx.toNat bytes s)

/-- POWER_LOOP_CYCLE (R237). -/
def execPowerLoopCycle (n : Fin 24) (s : State) : Host.Outcome State Fault Refusal := .next (powerLoopCycle n s)

end Sys2Proof.Machine
end

