-- ==== Sys2Proof/Machine/Saddle.lean ====
section
/-! DEFINITION. The Saddle: ownership of shared vectors, hand-offs, conflicts, yields, cuts and looks (R201–R218). -/

namespace Sys2Proof.Machine

open Sys2Proof

/-! ### Hand-off records (R218) -/

/-- A hand-off record is written while HREC.EN is 1. -/
def State.handoff (s : State) (vid layer tout hout hin tin typ : Nat) (s1 s0 : Int) : State :=
  if s.on SADDLE.HREC.EN then
    let c := s.f SADDLE.HRCNT.V
    let s := s.sts (ringAddr (s.f SADDLE.HREC.BASE) (s.f SADDLE.HREC.LOG2N) 32 c)
      [wd (place vid 32 32 + place layer 32 0), wd (place tout 48 16 + place hout 8 8 + place hin 8 0),
       wd (place tin 48 16 + place typ 4 12), wd (place (ux 32 s1) 32 32 + place (ux 32 s0) 32 0)]
    (s.setF SADDLE.HRCNT.V 0 (c + 1)).incF SADDLE.CNT.HANDOFFS 0
  else s

/-! ### Where a path lies in a field -/

/-- The crossing of a field's edge between places `a` and `b` of a path (in 2^−10 of its length), by halving. -/
def State.edgeBetween (s : State) (n : Nat) (g : Geom) (len : Int) : Nat → Int → Int → Int
  | 0, a, _ => a
  | k + 1, a, b =>
    let m := (a + b) / 2
    if s.inField n (g.pt len a) == s.inField n (g.pt len m) then s.edgeBetween n g len k m b else s.edgeBetween n g len k a m

/-- The stretches of a path, in wpu from its start, that lie in the field of head `n`: looked for piece by piece, 256 pieces. -/
def State.stretches (s : State) (n : Nat) (g : Geom) (len : Int) : List (Int × Int) :=
  let at_ (k : Nat) : Int := len * k / 256
  let go : Nat → List (Int × Int) × Option Int → List (Int × Int) × Option Int := fun k acc =>
    let inside := s.inField n (g.pt len (at_ k))
    match acc.2 with
    | none => if inside then (acc.1, some (if k = 0 then 0 else s.edgeBetween n g len 64 (at_ (k - 1)) (at_ k))) else acc
    | some a => if inside then acc else (acc.1 ++ [(a, s.edgeBetween n g len 64 (at_ (k - 1)) (at_ k))], none)
  let r := (List.range 257).foldl (fun acc k => go k acc) ([], none)
  let l := match r.2 with | some a => r.1 ++ [(a, len)] | none => r.1
  l.map (fun p => ((p.1 + unitWpu - 1) / unitWpu, p.2 / unitWpu))

/-! ### Claims (R203–R205) -/

/-- µm and 10 µm in wpu (R8). -/
def um (v : Nat) : Int := 256 * v
def um10 (v : Nat) : Int := 2560 * v

/-- The feather length of a vector: its OWN FEATHER, or FDEF when that is 0. -/
def State.featherOf (s : State) (v : PVec) : Int := if v.feather = 0 then um (s.f SADDLE.FEATH.FDEF) else um v.feather

/-- Some undecided candidate's field contains the whole interval [a, b] of the path. -/
def State.takerExists (s : State) (cands : List Nat) (g : Geom) (len a b : Int) : Bool :=
  cands.any (fun m => (s.stretches m g len).any (fun p => decide (p.1 ≤ a ∧ b ≤ p.2)))

/-- What claiming an open part within one stretch of the field yields: the claimed part, what stays open, or an error (R204). -/
structure Claim where
  part : Option Part
  opens : List OpenPart
  err : Bool
deriving DecidableEq, Repr

/-- Head `n` claims what of open part `o` lies in the stretch [f0, f1] of its field; a hand-off is placed where the part continues
beyond the field, at either end (R204; log entry 24 for the end where the vector enters the field). -/
def State.claimIn (s : State) (n : Nat) (v : PVec) (others : List Nat) (o : OpenPart) (f : Int × Int) : Claim :=
  let margin := um10 (s.f SADDLE.ZONE.EDGE) + s.runLen n v.mspd / unitWpu
  let fmin := um (s.f SADDLE.FEATH.FMIN)
  let lo := if o.s0 < f.1 then f.1 + margin else o.s0
  let hi := if f.2 < o.s1 then f.2 - margin else o.s1
  if f.2 ≤ o.s0 ∨ o.s1 ≤ f.1 then ⟨none, [o], false⟩
  else
    let want := s.featherOf v
    let room := hi - lo
    let fl := min want room
    let enter := decide (o.s0 < f.1)
    let leave := decide (f.2 < o.s1)
    let bad := decide (room ≤ 0) || ((enter || leave) && decide (fl < fmin)) ||
      (leave && !s.takerExists others v.geom v.len (hi - fl) hi) || (enter && !s.takerExists others v.geom v.len lo (lo + fl))
    if bad then ⟨none, [o], true⟩
    else
      let p : Part := ⟨lo, hi, if enter then fl else o.rise, if leave then fl else o.fall⟩
      let before : List OpenPart := if enter then [⟨o.s0, lo + fl, o.rise, fl, n, 0, 1⟩] else []
      let after : List OpenPart := if leave then [⟨hi - fl, o.s1, fl, o.fall, n, 0, 1⟩] else []
      ⟨some p, before ++ after, false⟩

/-- The claims of a copy on every open part, stretch by stretch: parts, what stays open, whether a hand-off failed. -/
def State.claimAll (s : State) (n : Nat) (v : PVec) (others : List Nat) (opens : List OpenPart) : List (Part × OpenPart) × List OpenPart × Bool :=
  let st := s.stretches n v.geom v.len
  opens.foldl (fun acc o =>
    let r := st.foldl (fun (a : List (Part × OpenPart) × List OpenPart × Bool) f =>
      a.2.1.foldl (fun (b : List (Part × OpenPart) × List OpenPart × Bool) o' =>
        let c := s.claimIn n v others o' f
        (b.1 ++ (c.part.map (fun p => (p, o'))).toList, b.2.1 ++ c.opens, b.2.2 || c.err)) (a.1, [], a.2.2)) ([], [o], false)
    (acc.1 ++ r.1, acc.2.1 ++ r.2.1, acc.2.2 || r.2.2)) ([], [], false)

/-- A part seen from a copy that runs the other way. -/
def Part.flip (p : Part) (l : Int) : Part := ⟨l - p.s1, l - p.s0, p.fall, p.rise⟩

/-- Two copies agree (R202): as they stand, or with one reversed. -/
def PVec.agrees (u v : PVec) : Bool := u.geom == v.geom && u.mspd == v.mspd && u.pwr == v.pwr && u.ron == v.ron && u.roff == v.roff && u.keep == v.keep
def PVec.reversed (v : PVec) : PVec := { v with geom := v.geom.reverse v.len, ron := v.roff, roff := v.ron }

/-- Every point of a path lies in some candidate's field. -/
def State.covered (s : State) (cands : List Nat) (g : Geom) (len : Int) : Bool :=
  (List.range 257).all (fun k => cands.any (fun m => s.inField m (g.pt len (len * k / 256))))

/-- The ownership decision of one copy: the vector with its parts in its own direction, the sets after it, an instruction error, whether
copies disagree, and the claimed parts with the open parts they came from (in the first copy's direction). -/
structure Owned where
  vec : PVec
  sets : List SharedSet
  err : Bool := false
  mismatch : Bool := false
  taken : List (Part × OpenPart) := []
deriving DecidableEq, Repr

/-- R201–R204 for one vector of head `n`. -/
def State.own (s : State) (n layer : Nat) (sets : List SharedSet) (v : PVec) : Owned :=
  let whole : Part := ⟨0, v.len / unitWpu, 0, 0⟩
  let prior := sets.find? (fun t => t.first.vid == v.vid && t.layer == layer)
  let l := v.len / unitWpu
  match prior with
  | none =>
    if !v.shared then
      ⟨{ v with parts := [whole] }, sets ++ [⟨v, n, v.geom.startPt.z, layer, [], [(n, whole)], [n], [n]⟩], false, false, []⟩
    else
      let cands := s.candidates v.geom v.len
      let r := s.claimAll n v (cands.filter (· != n)) [{ s0 := 0, s1 := l }]
      ⟨{ v with parts := r.1.map (·.1) }, sets ++ [⟨v, n, v.geom.startPt.z, layer, r.2.1, r.1.map (fun p => (n, p.1)), [n], cands⟩],
        r.2.2 || !s.covered cands v.geom v.len, false, []⟩
  | some t =>
    if t.decided.contains n then ⟨v, sets, false, false, []⟩
    else if v.keep ∨ t.first.keep then ⟨v, sets, true, false, []⟩
    else
      let rev := !PVec.agrees t.first v && PVec.agrees t.first v.reversed
      if !(PVec.agrees t.first v || rev) then ⟨v, sets, true, true, []⟩
      else
        let u := { v with geom := t.first.geom }
        let r := s.claimAll n u (t.cands.filter (fun m => m != n && !t.decided.contains m)) t.opens
        let parts := r.1.map (fun p => if rev then p.1.flip l else p.1)
        let t' := { t with opens := r.2.1, claims := t.claims ++ r.1.map (fun p => (n, p.1)), decided := n :: t.decided }
        ⟨{ v with parts := parts, shared := true }, sets.map (fun x => if x.first.vid = v.vid ∧ x.layer = layer then t' else x), r.2.2, false, r.1⟩

/-! ### The motion of a decided chain (R206) -/

/-- The parts of a chain's vectors in the order of motion. -/
def piecesOf (vs : List PVec) : List (PVec × Part) := vs.flatMap (fun v => v.parts.map (fun p => (v, p)))

/-- The segments of a chain from its parts: run-ins, constant-speed stretches, run-outs and the jumps between; the vectors with their start
instants; the end point and instant. `live` is the part reached at speed, if any. -/
def State.chainMotion (s : State) (n jspd : Nat) (changed : Bool) : List (PVec × Part) → Option (PVec × Part) → Pt → Nat → List Seg →
    List Seg × Pt × Nat
  | [], none, pos, t, acc => (acc, pos, t)
  | [], some (v, p), _, t, acc =>
    (acc ++ [s.runOut n v (p.s1 * unitWpu) t], s.runOutPt n v (p.s1 * unitWpu), t + s.runDur n v.mspd)
  | (v, p) :: rest, live, pos, t, acc =>
    let x0 := p.s0 * unitWpu
    let x1 := if p.s1 = v.len / unitWpu then v.len else p.s1 * unitWpu
    let joined := match live with
      | some (u, w) => v.joinPrev && p.s0 == 0 && w.s1 == u.len / unitWpu
      | none => false
    if joined then
      let g := vecSeg v x0 x1 t (v.pwr != 0) false changed
      s.chainMotion n jspd changed rest (some (v, p)) pos (t + g.dur) (acc ++ [g])
    else
      let ro := match live with
        | some (u, w) => ([s.runOut n u (w.s1 * unitWpu) t], s.runOutPt n u (w.s1 * unitWpu), t + s.runDur n u.mspd)
        | none => ([], pos, t)
      let j := s.jump n ro.2.1 (s.runInPt n v x0) jspd ro.2.2 0 v.vid v.ofs (some v.chain)
      let t1 := j.2 + s.runDur n v.mspd
      let g := vecSeg v x0 x1 t1 (v.pwr != 0) false changed
      s.chainMotion n jspd changed rest (some (v, p)) pos (t1 + g.dur) (acc ++ ro.1 ++ j.1 ++ [{ s.runIn n v x0 j.2 1 with saddle := changed }, g])

/-- The instant at which a head's plan passes path position `x` of a vector. -/
def timeAt (segs : List Seg) (v : PVec) (x : Int) : Nat :=
  match segs.find? (fun g => g.typ == 2 && g.ofs == v.ofs && g.vid == v.vid && g.chain == some v.chain && decide (g.k.x ≤ x ∧ x ≤ g.k.x + g.k.v * g.dur + g.k.v)) with
  | some g => g.t0 + ((x - g.k.x) / max 1 g.k.v).toNat
  | none => 0

/-- The gate edges of a chain: on and off at the ends of each run of parts, a joint in between (R176, R178). -/
def chainEdges (segs : List Seg) : List (PVec × Part) → Option (PVec × Part) → List GateEdge
  | [], none => []
  | [], some (v, p) => if v.pwr = 0 then [] else [⟨0, v, p.s1 * unitWpu, timeAt segs v (p.s1 * unitWpu)⟩]
  | (v, p) :: rest, live =>
    let joined := match live with
      | some (u, w) => v.joinPrev && p.s0 == 0 && w.s1 == u.len / unitWpu && u.pwr != 0 && v.pwr != 0
      | none => false
    let off : List GateEdge := match live with
      | some (u, w) => if joined || u.pwr == 0 then [] else [⟨0, u, w.s1 * unitWpu, timeAt segs u (w.s1 * unitWpu)⟩]
      | none => []
    let on : List GateEdge := if v.pwr = 0 then [] else [⟨if joined then 2 else 1, v, p.s0 * unitWpu, timeAt segs v (p.s0 * unitWpu)⟩]
    off ++ on ++ chainEdges segs rest (some (v, p))

/-! ### Conflicts (R211) -/

/-- A pool at an instant: position in wpu and speed in path units per ns. -/
structure Pool where
  x : Int
  y : Int
  v : Int
deriving DecidableEq, Repr

/-- The pool of head `n` at `t`, among the chains the Saddle has decided or the one under decision; none while it emits nothing. -/
def State.pool (s : State) (n t : Nat) (under : Option Nat) : Option Pool :=
  let q := s.pg n
  match segAt q.segs t with
  | none => none
  | some g =>
    let known := match g.chain with | some c => q.decided.contains c || under == some c | none => false
    if known && decide (0 < s.powerAt n t) then
      let p := g.geom.at g.len (g.kinAt t)
      some ⟨p.x / fx24, p.y / fx24, isqrtI (p.vx * p.vx + p.vy * p.vy)⟩
    else none

/-- The two tests of R211. -/
def State.conflict (s : State) (a b : Pool) : Bool :=
  let d := (a.v + b.v) * 2500 / unitWpu
  let dx := a.x - b.x
  let dy := a.y - b.y
  let sep := um10 (s.f SADDLE.ZONE.SEP) + d
  let g := cosSin ((s.f SADDLE.CFG.GASANG : Int) * 2 ^ 32)
  let one : Int := 2 ^ 60
  let along := dx * g.1 + dy * g.2
  let off : Int := (dx * g.2 - dy * g.1).natAbs
  let len := um10 (s.f SADDLE.ZONE.PLEN)
  let shadow (l : Int) : Bool :=
    decide (-d * one ≤ l ∧ l ≤ (len + d) * one ∧ 2 * off ≤ (um10 (s.f SADDLE.ZONE.PWID) + 2 * d) * one)
  (s.on SADDLE.CFG.SEPEN && decide (dx * dx + dy * dy < sep * sep)) || (s.on SADDLE.CFG.PLUMEN && (shadow along || shadow (-along)))

/-- The first head in conflict with head `b` at `t`. -/
def State.conflictAt (s : State) (b t c : Nat) : Option Nat :=
  match s.pool b t (some c) with
  | none => none
  | some p => (List.range 24).find? (fun a => a != b && (match s.pool a t none with | some r => s.conflict r p | none => false))

/-- The first conflicting COL120 instant from `t` on, over `k` cycles. -/
def State.firstConflict (s : State) (b c p : Nat) : Nat → Nat → Option (Nat × Nat)
  | 0, _ => none
  | k + 1, t => match s.conflictAt b t c with
    | some a => some (t, a)
    | none => s.firstConflict b c p k (t + p)

/-- The chain's run: the span of its emitting segments. -/
def chainSpan (q : PgSt) (c : Nat) : Option (Nat × Nat) :=
  let l := q.segs.filter (fun g => g.typ == 2 && g.chain == some c)
  match l.head?, l.getLast? with
  | some a, some b => some (a.t0, b.t0 + b.dur)
  | _, _ => none

/-- The first conflict of chain `c` of head `b` as it is planned now. -/
def State.chainConflict (s : State) (b c : Nat) : Option (Nat × Nat) :=
  let p := s.servoPeriod
  match chainSpan (s.pg b) c with
  | none => none
  | some r => if p = 0 then none else s.firstConflict b c p ((r.2 - r.1) / p + 2) (s.cycleFrom r.1)

/-- The start of the emitting run: its first run-in. -/
def runStart (q : PgSt) (c : Nat) : Nat :=
  match q.segs.find? (fun g => g.chain == some c && g.typ != 0) with
  | some g => g.t0
  | none => q.tEnd

/-- The chain's emitting run moved `d` ns later, with a hold of TYPE 0x5 at the point of rest before its run-in (R212). -/
def State.withHold (s : State) (n c d : Nat) : State :=
  let q := s.pg n
  let t := runStart q c
  let p := (q.planned t).round
  let at_ := match q.segs.find? (fun g => g.chain == some c && g.typ == 1) with | some g => g.geom.pt g.len g.k.x | none => p
  let i := (q.segs.takeWhile (fun g => !(g.chain == some c && g.typ != 0))).length
  let q' := q.delay t d
  let hold : Seg := { t0 := t, dur := d, typ := 5, saddle := true, vid := q.pm.vid, ofs := (q.segs.getD i { t0 := 0, dur := 0, typ := 0, vid := 0, ofs := 0, geom := .line p p, len := 0, k := {} }).ofs, geom := .line at_ at_, len := 0, k := {}, chain := some c }
  s.setPg n { q' with segs := q'.segs.take i ++ [hold] ++ q'.segs.drop i }

/-- The least whole number of servo periods, up to `k` more than `m`, that leaves no conflict. -/
def State.leastYield (s : State) (n c p : Nat) : Nat → Nat → Nat
  | 0, m => m
  | k + 1, m => if ((s.withHold n c (m * p)).chainConflict n c).isNone then m else s.leastYield n c p k (m + 1)

/-- The end of the latest decided chain of any other head: past it nothing conflicts. -/
def State.decidedEnd (s : State) (n : Nat) : Nat :=
  (List.range 24).foldl (fun m a => if a = n then m else (s.pg a).segs.foldl (fun m g => max m (g.t0 + g.dur)) m) 0

/-- The path emitted before `t`, in wpu: over the chain's vectors, and within the vector that holds `t`. -/
def emittedBefore (q : PgSt) (c t : Nat) : Int :=
  q.segs.foldl (fun acc g => if g.typ = 2 ∧ g.chain = some c ∧ g.emit then acc + (g.k.v * (min t (g.t0 + g.dur) - g.t0 : Nat)) / unitWpu else acc) 0

/-! ### Deciding a chain (R210, R212, R214) -/

/-- The chains of head `n` that are planned to their end and not decided, lowest number first. -/
def PgSt.nextChain (q : PgSt) : Option Nat :=
  (q.items.filterMap (fun i => i.vec.bind (fun v => if v.chain < q.chain ∧ !q.decided.contains v.chain ∧ v.len ≠ 0 then some v.chain else none))).head?

/-- The vectors of a chain, in order. -/
def PgSt.chainVecs (q : PgSt) (c : Nat) : List PVec := q.items.filterMap (fun i => i.vec.bind (fun v => if v.chain = c ∧ v.len ≠ 0 then some v else none))

/-- A chain's planned start. -/
def PgSt.chainStart (q : PgSt) (c : Nat) : Nat :=
  match q.segs.find? (fun g => g.chain == some c) with
  | some g => g.t0
  | none => q.tEnd

/-- Whether the Saddle takes head `n`'s chain first: earlier COL120 cycle, then PRIO, then head number (R210). -/
def State.chainFirst (s : State) (n c : Nat) : Bool :=
  let p := max 1 s.servoPeriod
  let key (m d : Nat) : Nat := ((s.pg m).chainStart d / p * 256 + s.f SADDLEN.HCFG.PRIO m) * 32 + m
  (List.range 24).all (fun m => match (s.pg m).nextChain with
    | some d => m == n || decide (key n c < key m d)
    | none => true)

/-- The plan of head `n` after chain `c` is dropped, so that the following instructions are planned again from the chain's new end. -/
def State.replanAfter (s : State) (n c : Nat) (segs : List Seg) (pos : Pt) (tEnd : Nat) (vs : List PVec) : State :=
  let q := s.pg n
  let i := q.items.length - (q.items.reverse.takeWhile (fun i => !(i.vec.any (fun v => v.chain == c)))).length
  let keep := (q.items.take i).map (fun it => match it.vec with
    | some v => { it with vec := some ((vs.find? (fun u => u.ofs == v.ofs && u.chain == v.chain)).getD v) }
    | none => it)
  let first := (q.segs.takeWhile (fun g => g.chain != some c))
  let base := { q with items := keep, segs := first ++ segs, pos := pos, tEnd := tEnd, openVec := none, chain := c + 1 }
  match (q.items.drop i).head? with
  | some nx => (s.setPg n { base with decOfs := nx.ofs, decEnd := false, pm := nx.pmBefore }).setF PG.WPOS.RIDX n nx.win
  | none => s.setPg n base

/-- A chain's vectors and items take new vectors. -/
def PgSt.withVecs (q : PgSt) (vs : List PVec) : PgSt :=
  { q with items := q.items.map (fun it => match it.vec with
    | some v => { it with vec := some ((vs.find? (fun u => u.ofs == v.ofs && u.chain == v.chain)).getD v) }
    | none => it) }

/-- The hand-off records of the parts a copy has claimed (R218). -/
def State.handoffs (s : State) (n layer : Nat) (v : PVec) (taken : List (Part × OpenPart)) : State :=
  let segs := (s.pg n).segs
  taken.foldl (fun s x =>
    let p := x.1
    let o := x.2
    let s := if 0 < o.rise ∧ p.s0 = o.s0 then
      s.handoff v.vid layer o.tout o.hout n (timeAt segs v ((p.s0 + p.rise) * unitWpu)) o.typ (o.s0 + o.rise) o.s0 else s
    if 0 < o.fall ∧ p.s1 = o.s1 then
      s.handoff v.vid layer (timeAt segs v (p.s1 * unitWpu)) n o.hout o.tout o.typ o.s1 (o.s1 - o.fall) else s) s

/-- The open parts a head has just left take the instants at which its share reaches 0, or 32,768 where it is the incoming one. -/
def State.stampOpens (s : State) (n : Nat) (vs : List PVec) : State :=
  let segs := (s.pg n).segs
  s.setSets (s.sets.map (fun t => match vs.find? (fun v => v.vid == t.first.vid) with
    | none => t
    | some v => { t with opens := t.opens.map (fun o => if o.hout = n ∧ o.tout = 0 then
        { o with tout := timeAt segs v (if 0 < o.rise then (o.s0 + o.rise) * unitWpu else o.s1 * unitWpu) } else o) }))

/-- The yield of a chain by the least delay that leaves no conflict, and the look it may allow (R212, R214). -/
def State.yieldChain (s : State) (n c ha : Nat) : State :=
  let p := max 1 s.servoPeriod
  let t := runStart (s.pg n) c
  let m := s.leastYield n c p (s.decidedEnd n / p + 1 - t / p + 1) 1
  let d := m * p
  let v := ((s.pg n).chainVecs c).head?
  let s := ((s.withHold n c d).setF SADDLE.STAT.YIELD 0 1).incF SADDLE.CNT.YIELDS 0
  let q := s.pg n
  let hold := (q.planned (t + d / 2)).round
  let t0 := t + s.f SADDLE.LOOK.LLEAD * 1000
  let wants := decide (s.f SADDLE.LOOK.LOOKMIN * 1000 ≤ d) && (v.any (fun v => v.lookEn)) && s.on SADDLE.CFG.LOOKEN &&
    s.inField n ((s.pg ha).planned t0).round
  if wants then s.setPg n { q with look := some { ha := ha, h0 := t, h1 := t + d, hold := hold } } else s

/-- The point at which a chain is cut: the vector that holds `t`, σ there, and the feather length (R212). -/
def State.cutPoint (s : State) (n c t : Nat) : Option (PVec × Int × Int) :=
  let q := s.pg n
  match segAt q.segs t with
  | none => none
  | some g =>
    match q.vecOf g with
    | none => none
    | some v =>
      let x := (g.kinAt t).x / unitWpu
      let start := match v.partAt (x * unitWpu) with | some p => p.s0 | none => 0
      let f := min (s.featherOf v) (x - start)
      if um (s.f SADDLE.FEATH.FMIN) ≤ f then some (v, x, f)
      else
        match ((q.chainVecs c).takeWhile (fun u => u.ofs != v.ofs)).getLast? with
        | some u => some (u, u.len / unitWpu, 0)
        | none => none

/-- The parts of a vector up to a cut at σ = x with feather f, and the open part after it. -/
def cutParts (v : PVec) (x f : Int) (n : Nat) (typ : Nat) : List Part × List OpenPart :=
  let l := v.len / unitWpu
  if f = 0 then (v.parts, [])
  else
    let kept := (v.parts.filter (fun p => p.s0 < x)).map (fun p => if x < p.s1 then { p with s1 := x, fall := f } else p)
    let rest := (v.parts.filter (fun p => x < p.s1)).map (fun p => p.s1)
    (kept, if x < l ∧ rest ≠ [] then [⟨x - f, rest.foldl max 0, f, (v.parts.getLast?.map (·.fall)).getD 0, n, 0, typ⟩] else [])

/-- The cut of a chain before its first conflict (R212): the part after the cut reopens, for an undecided candidate (TYPE 0x1) or for the
head's own next chain (TYPE 0x2), which is planned at once behind a hold; the instructions after the cut vector are planned again. -/
def State.cutChain (s : State) (n c tc layer jspd : Nat) (old : List SharedSet) : State :=
  let p := s.servoPeriod
  match s.cutPoint n c (tc - p) with
  | none => s
  | some (v, x, f) =>
    let q := s.pg n
    let vs := q.chainVecs c
    let before := vs.takeWhile (fun u => u.ofs != v.ofs)
    let after := (vs.dropWhile (fun u => u.ofs != v.ofs)).drop 1
    let set? := s.sets.find? (fun t => t.first.vid == v.vid && t.layer == layer)
    let others := match set? with | some t => t.cands.filter (fun m => m != n && !t.decided.contains m) | none => []
    let taker := f != 0 && s.takerExists others v.geom v.len (x - f) x
    let typ := if taker then 1 else 2
    let r := cutParts v x f n typ
    let v' := { v with parts := r.1, cut := true }
    let vs' := before ++ [v']
    -- the copies after the cut vector are undecided again
    let s := s.setSets (s.sets.filterMap (fun t =>
      if after.any (fun u => u.vid == t.first.vid) then old.find? (fun o => o.first.vid == t.first.vid && o.layer == t.layer)
      else if t.first.vid = v.vid ∧ t.layer = layer ∧ taker then
        some { t with opens := t.opens ++ r.2, claims := t.claims.filter (fun k => k.1 != n) ++ r.1.map (fun p => (n, p)) }
      else some t))
    let start := q.chainStart c
    let pos := match q.items.find? (fun i => i.vec.any (fun u => u.chain == c)) with | some i => i.posBefore | none => q.pos
    let m := s.chainMotion n jspd true (piecesOf vs') none pos start []
    let s := ((s.replanAfter n c m.1 m.2.1 m.2.2 vs').setF SADDLE.STAT.CUT 0 1).incF SADDLE.CNT.CUTS 0
    -- the vectors after the cut are planned again with their instructions
    let q := s.pg n
    let drop := q.items.filter (fun i => !(i.vec.any (fun u => u.chain == c && after.any (fun w => w.ofs == u.ofs))))
    let s := match q.items.find? (fun i => i.vec.any (fun u => u.chain == c && after.any (fun w => w.ofs == u.ofs))) with
      | some i => (s.setPg n { q with items := drop, decOfs := i.ofs, decEnd := false, pm := i.pmBefore }).setF PG.WPOS.RIDX n i.win
      | none => s
    if taker ∨ r.2 = [] then s
    else
      let q := s.pg n
      let w : PVec := { v with parts := r.2.map (fun o => ⟨o.s0, o.s1, o.rise, o.fall⟩), chain := c + 1, joinPrev := false }
      let t0 := max (q.tEnd + p) (tc + p)
      let m := s.chainMotion n jspd true (piecesOf [w]) none q.pos t0 []
      let hold : Seg := { t0 := q.tEnd, dur := t0 - q.tEnd, typ := 5, saddle := true, vid := v.vid, ofs := v.ofs, geom := .line q.pos q.pos, len := 0, k := {}, chain := some (c + 1) }
      let it : Item := { ofs := v.ofs, win := s.f PG.WPOS.RIDX n, op := .nop, pmBefore := q.pm, pmAfter := q.pm, posBefore := q.pos, vec := some w, t0 := t0, t1 := m.2.2, cont := true }
      let s := s.setPg n { q with segs := q.segs ++ [hold] ++ m.1, pos := m.2.1, tEnd := m.2.2, chain := c + 2, items := q.items ++ [it] }
      s.handoff v.vid layer (timeAt (s.pg n).segs v' (x * unitWpu)) n n (timeAt m.1 w (x * unitWpu)) 2 x (x - f)

/-- The decision of head n's next chain (R201–R214): ownership copy by copy, the changed motion, the conflict test with its yield or cut, the
gate edges and the hand-off records. An undecided chain past its commit point sets LATE and starts at the first cycle that allows commit. -/
def chainDecide (n : Nat) (s : State) : State :=
  let q := s.pg n
  match q.nextChain with
  | none => s
  | some c =>
    if !s.on SADDLE.CFG.EN || !s.chainFirst n c then s
    else
      let s := s.reach (q.chainStart c - 2500000)
      let start := q.chainStart c
      let late := decide (start < s.mt + 2000000)
      let s := if late then
          let d := s.cycleFrom (s.mt + 2000000) - start
          ((s.setPg n (q.delay start d)).setF SADDLE.STAT.LATE 0 1).incF SADDLE.CNT.LATES 0
        else s
      let q := s.pg n
      let layer := s.f PG.JOB.LAYER n
      let jspd := q.pm.jspd
      let old := s.sets
      let vs := q.chainVecs c
      let r := vs.foldl (fun (acc : List Owned × List SharedSet) v => let o := s.own n layer acc.2 v; (acc.1 ++ [o], o.sets)) ([], old)
      match r.1.find? (fun o => o.err) with
      | some o =>
        let s := if o.mismatch then s.setF SADDLE.STAT.MISMATCH 0 1 else s
        s.markError n o.vec.ofs
      | none =>
        let owned := r.1.map (·.vec)
        let changed := owned.any (fun v => v.parts != [⟨0, v.len / unitWpu, 0, 0⟩])
        let s := s.setSets r.2
        let s := if changed then
            let pos := match q.items.find? (fun i => i.vec.any (fun u => u.chain == c)) with | some i => i.posBefore | none => q.pos
            let m := s.chainMotion n jspd true (piecesOf owned) none pos (q.chainStart c) []
            s.replanAfter n c m.1 m.2.1 m.2.2 owned
          else s.setPg n (q.withVecs owned)
        let s := match s.chainConflict n c with
          | none => s
          | some (tc, ha) =>
            if emittedBefore (s.pg n) c tc < um (s.f SADDLE.FEATH.FMIN) then s.yieldChain n c ha
            else s.cutChain n c tc layer jspd old
        let q := s.pg n
        let now := q.chainVecs c
        let s := s.setPg n { q with decided := c :: q.decided, edges := q.edges ++ chainEdges q.segs (piecesOf now) none }
        let s := s.stampOpens n now
        (r.1.filter (fun o => now.any (fun v => v.ofs == o.vec.ofs))).foldl (fun s o => s.handoffs n layer o.vec o.taken) s

/-! ### The end of a layer (R208) -/

/-- The last candidate of a shared set passes its LEND with parts still open: a severe status, UNCLAIMED, and a record of TYPE 0x4 each. -/
def State.unclaimed (s : State) (n layer : Nat) : State :=
  s.sets.foldl (fun s t =>
    let others := t.cands.filter (fun m => m != n)
    if t.layer = layer ∧ t.cands.contains n ∧ t.opens ≠ [] ∧ others.all (fun m => s.pgState m == pgENDED || s.pgState m == pgIDLE || s.pgState m == pgABORTED) then
      let s := (s.severe 8 n 8).setF SADDLE.STAT.UNCLAIMED 0 1
      t.opens.foldl (fun s o => s.handoff t.first.vid layer o.tout o.hout o.hout 0 4 o.s1 o.s0) s
    else s) s

/-! ### Looks (R214–R217) -/

/-- Stare k of a look of head b: its instant. -/
def State.stareTime (s : State) (l : Look) (k : Nat) : Nat := l.h0 + s.f SADDLE.LOOK.LLEAD * 1000 + k * (s.f SADDLE.LOOK.LPER * 1000)

/-- The duration of a jump of head `n` between two points under its limits. -/
def State.jumpTime (s : State) (n : Nat) (a b : Pt) : Nat := (s.jump n a b (s.f PG.LIMV.VJUMP n) 0 0 0 0 none).2

/-- Whether stare k can take place (R215). -/
def State.stareOk (s : State) (n : Nat) (l : Look) (k : Nat) : Bool :=
  let half := s.f SADDLE.LOOK.LWID * 500
  let settle := s.f SADDLE.LOOK.LSETTLE * 10000
  let t := s.stareTime l k
  let p := ((s.pg l.ha).planned t).round
  decide (0 < s.powerAt l.ha t) && decide (t + half + s.jumpTime n p l.hold + settle ≤ l.h1) &&
  (k != 0 || decide (l.h0 + s.jumpTime n l.hold p + settle ≤ t - half))

/-- STARE: the next stare of head b's look: its target to b's path generator and its exposure to b's camera col; when no further stare can
take place the hold point is sent and the look ends (R216). -/
def stare (n : Nat) (s : State) : State :=
  let q := s.pg n
  match q.look with
  | none => s
  | some l =>
    let half := s.f SADDLE.LOOK.LWID * 500
    let s := s.reach (if l.k = 0 then l.h0 else s.stareTime l (l.k - 1) + half)
    let target (p : Pt) : Token := mkTok 8 (pgEp n) 1 4 (wd (place (ux 32 p.y) 32 32 + place (ux 32 p.x) 32 0))
    if s.stareOk n l l.k then
      let t := s.stareTime l l.k
      let p := ((s.pg l.ha).planned t).round
      let id := 0xF000 + q.stares % 4096
      let s := s.send (target p)
      let s := s.send ((mkTok 8 (ctrgEp n) 0xE 0 (pinPayload 2 0 0 (2 * half) id)).at (t - half))
      let s := s.setPg n { q with stares := q.stares + 1, look := some { l with k := l.k + 1 } }
      let vid := match segAt (s.pg l.ha).segs t with | some g => g.vid | none => 0
      let s := s.setStares (s.stares ++ [⟨n, l.ha, vid, s.f PG.JOB.LAYER n, t, 2 * half, id, p, s.word (SADDLEN.REG.DX.addr l.ha), s.word (SADDLEN.REG.DX.addr n)⟩])
      s.setF SADDLEN.HSTAT.LOOKING n 1
    else
      let s := if l.k = 0 then s else s.send (target l.hold)
      (s.setPg n { s.pg n with look := none }).setF SADDLEN.HSTAT.LOOKING n 0

/-- The µs head `n` has spent in Saddle holds since the last read of YIELD (R221). -/
def State.yieldT (s : State) (n : Nat) : Nat :=
  let q := s.pg n
  min (2 ^ 32 - 1) (q.segs.foldl (fun acc g => if g.typ = 5 ∧ g.saddle then acc + (min s.mt (g.t0 + g.dur) - max q.yieldFrom g.t0) else acc) 0 / 1000)

/-- Whether head `n` is in a hold inserted by the Saddle (R221). -/
def State.yielding (s : State) (n : Nat) : Bool :=
  match segAt (s.pg n).segs s.mt with
  | some g => g.typ == 5 && g.saddle
  | none => false

/-! ### The commands -/

/-- CHAIN_DECIDE (R210). -/
def execChainDecide (n : Fin 24) (s : State) : Host.Outcome State Fault Refusal := .next (chainDecide n s)

/-- STARE (R216). -/
def execStare (n : Fin 24) (s : State) : Host.Outcome State Fault Refusal := .next (stare n s)

end Sys2Proof.Machine
end

