-- ==== Sys2Proof/Machine/Correction.lean ====
section
/-! DEFINITION. The camera rules, stare records and process records (R301–R317). -/

namespace Sys2Proof.Machine

open Sys2Proof

/-! ### The camera rule (R303–R309) -/

/-- A raise of source 14 whose record carries the rule's status word. -/
def State.ruleRaise (s : State) (cls n : Nat) : State := s.raise cls 14 n (powerEp n) 1 (s.word (SERVO.RULE.STAT.RUN.addr n))

/-- LGATEn was high throughout [t0, t1]: high at t0 and no falling edge after it up to t1. -/
def gateHighOver (l : List (Nat × Nat × Bool)) (n t0 t1 : Nat) : Bool :=
  gateLevelAt l n t0 && !l.any (fun e => e.1 == n && !e.2.2 && decide (t0 ≤ e.2.1 ∧ e.2.1 ≤ t1))

/-- The fields of a statistics record that the rule reads. -/
structure RuleRec where
  trigt : Nat
  width : Nat
  flags : Nat
  area : Nat
  sumi : Nat
  peak : Nat
deriving DecidableEq, Repr

def ruleRec (mt : Nat) (ws : List Word) : RuleRec :=
  let w (i : Nat) : Word := ws.getD i 0
  { trigt := fullTime mt (BitVec.ofNat 48 (bits (w 0) 63 16)), width := bits (w 1) 63 32, flags := bits (w 2) 15 0, area := bits (w 4) 31 0,
    sumi := bits (w 4) 63 32, peak := bits (w 8) 47 32 }

/-- The tests of R304 but the age: flags TRUNC, NOFRAME, CRCERR, SIZE, LOOK and SHORT clear, the gate high over the window, T and CTRIM steady. -/
def State.ruleFair (s : State) (n : Nat) (r : RuleRec) : Bool :=
  let t1 := r.trigt + r.width
  let within (t : Nat) : Bool := decide (r.trigt ≤ t ∧ t ≤ t1)
  decide (r.flags &&& 0x1B9 = 0) && gateHighOver s.gateLog n (r.trigt - s.f SERVO.RULE.CFG.OBSPRE n * 1000) t1 &&
  !(s.loop (72 + n)).targetAt.any within && !(s.loop (72 + n)).trimAt.any within

/-- The metric of METRIC. -/
def State.ruleMetric (s : State) (n : Nat) (r : RuleRec) : Nat :=
  match s.f SERVO.RULE.CFG.METRIC n with
  | 0 => r.area
  | 1 => r.sumi
  | 2 => (rdiv (16 * r.sumi : Nat) r.area).toNat
  | _ => r.peak

/-- The step of R305. -/
def State.ruleStep (s : State) (n x : Nat) : State :=
  let err : Int := (s.f SERVO.RULE.TGT.TARGET n : Int) - x
  if err.natAbs ≤ s.f SERVO.RULE.TGT.DEAD n then s
  else
    let step : Int := s.f SERVO.RULE.GAIN.STEP n
    let d := clamp (-step) step (rshr (err * s.fi SERVO.RULE.GAIN.V n) (s.f SERVO.RULE.GAIN.GSHIFT n))
    let ct := s.f SERVO.RULE.STAT.CTRIM n
    let want : Int := (ct : Int) + d
    let new := clamp (s.f SERVO.RULE.LIM.CTMIN n) (s.f SERVO.RULE.LIM.CTMAX n) want
    let s := if new = want then s else (s.setF SERVO.RULE.STAT.CLAMP n 1).incF SERVO.RULE.CNT.CLAMPS n
    if new.toNat = ct then s else s.setTrim n new.toNat

/-- The alarm of R306. -/
def State.ruleAlarm (s : State) (n x : Nat) : State :=
  let l := 72 + n
  if s.f SERVO.RULE.ALM.ALO n ≤ x ∧ x ≤ s.f SERVO.RULE.ALM.AHI n then s.setLoop l { s.loop l with alarm := 0 }
  else
    let k := (s.loop l).alarm + 1
    if k < s.f SERVO.RULE.CFG.ACNT n then s.setLoop l { s.loop l with alarm := k }
    else
      let s := (s.setLoop l { s.loop l with alarm := 0 }).setF SERVO.RULE.STAT.ALARM n 1
      match s.f SERVO.RULE.CFG.ACLASS n with
      | 0 => s
      | 1 => s.ruleRaise 3 n
      | 2 => s.ruleRaise 2 n
      | _ => s.ruleRaise 1 n

/-- The rule judges a record that arrived at MT. -/
def State.ruleJudge (s : State) (n : Nat) (r : RuleRec) : State :=
  if !s.ruleFair n r then s.incF SERVO.RULE.CNT.SKIPS n
  else if r.trigt + r.width + s.f SERVO.RULE.CFG.MAXAGE n * 1000 < s.mt then
    (s.setF SERVO.RULE.STAT.STALE n 1).incF SERVO.RULE.CNT.STALES n
  else
    let nopool := r.flags.testBit 6
    let x := if nopool then 0 else s.ruleMetric n r
    let s := (s.incF SERVO.RULE.CNT.USED n).setF SERVO.RULE.STAT.LASTX n (min 0xFFFFFFFF x)
    let s := if nopool then s else s.ruleStep n x
    s.ruleAlarm n x

/-- RULE_RECORD: a statistics record reaches the power loop endpoint on stream 3. -/
def ruleRecord (n : Nat) (toks : List Token) (s : State) : State :=
  let ep := powerEp n
  s.arrive ep toks fun s =>
    match toks.find? (fun t => t.kind != 0xA#4), errToken toks with
    | some t, _ => s.refuse ep t 7
    | none, some t => s.refuse ep t 5
    | none, none =>
      let t := toks.getLastD (mkTok 0 0 0 0 0)
      if t.stream ≠ 3#8 ∨ toks.length ≠ 16 then s.refuse ep t 4
      else if !s.on SERVO.RULE.CFG.EN n then s.refuse ep t 3
      else s.ruleJudge n (ruleRec s.mt (toks.map (·.payload)))

/-- What refuses a write of a rule word at `a` (R307, R309). -/
def ruleCheck (a : Nat) (old new : State) : Option Nat :=
  let n := (a - SERVO.RULE.CFG.EN.base) / 0x40
  if a = SERVO.RULE.CFG.EN.addr n then
    if old.on SERVO.RULE.CFG.EN n ∧ (old.word a ^^^ new.word a) &&& ~~~ 1#64 ≠ 0 then some 8 else none
  else if a = SERVO.RULE.GAIN.CTRIM0.addr n then
    if new.f SERVO.RULE.GAIN.CTRIM0 n < new.f SERVO.RULE.LIM.CTMIN n ∨ new.f SERVO.RULE.LIM.CTMAX n < new.f SERVO.RULE.GAIN.CTRIM0 n then some 8 else none
  else if a = SERVO.RULE.LIM.CTMAX.addr n then
    if new.f SERVO.RULE.LIM.CTMAX n < new.f SERVO.RULE.LIM.CTMIN n then some 8 else none
  else none

/-- A write of EN with 1 takes CTRIM0 and runs the output stage; clearing EN leaves CTRIM (R303). -/
def ruleEffect (a : Nat) (s : State) : State :=
  let n := (a - SERVO.RULE.CFG.EN.base) / 0x40
  if a ≠ SERVO.RULE.CFG.EN.addr n then s
  else if s.on SERVO.RULE.CFG.EN n then (s.setF SERVO.RULE.STAT.RUN n 1).setTrim n (s.f SERVO.RULE.GAIN.CTRIM0 n)
  else s.setF SERVO.RULE.STAT.RUN n 0

/-- RULE_BARRIER_RESET: with BNDRST, CTRIM returns to CTRIM0 at a barrier (R307). -/
def ruleBarrier (s : State) (n : Nat) : State :=
  if s.on SERVO.RULE.CFG.BNDRST n then s.setTrim n (s.f SERVO.RULE.GAIN.CTRIM0 n) else s

/-! ### Stare records (R310, R311) -/

/-- The measured position of a head at `tk`, interpolated between the accepted samples last at or before it and first after it, both within
20,000 ns. -/
def PgSt.stareQ (q : PgSt) (tk : Nat) : Option (Int × Int) :=
  match q.meas.find? (fun m => decide (m.stamp ≤ tk ∧ tk ≤ m.stamp + 20000)),
        q.meas.reverse.find? (fun m => decide (tk < m.stamp ∧ m.stamp ≤ tk + 20000)) with
  | some b, some e =>
    let lin (u v : Int) : Int := openDiv (u * (e.stamp - b.stamp : Nat) + (v - u) * (tk - b.stamp : Nat)) ((e.stamp - b.stamp : Nat) * fx24)
    some (lin b.x e.x, lin b.y e.y)
  | _, _ => none

/-- A position as a record word; one that is not valid is not stated (log entry 5). -/
def State.stareWord (s : State) (p : Option (Int × Int)) : Word × State :=
  match p with
  | some q => (wd (place (ux 32 q.2) 32 32 + ux 32 q.1), s)
  | none => s.free

/-- STARE_RECORD: the record of the oldest stare is written once its bracketing samples are in, or cannot come any more. -/
def stareRecord (s : State) : State :=
  match s.stares with
  | [] => s
  | x :: rest =>
    let qa := (s.pg x.ha).stareQ x.tk
    let qb := (s.pg x.hb).stareQ x.tk
    let s := if qa.isSome && qb.isSome then s else s.reach (x.tk + 20000)
    let s := s.setStares rest
    if !s.on SADDLE.LREC.EN then s
    else
      let wa := s.stareWord qa
      let wb := wa.2.stareWord qb
      let s := wb.2
      let k := s.f SADDLE.LRCNT.V
      let a := s.f SADDLE.LREC.BASE * 64 + 64 * (k % 2 ^ s.f SADDLE.LREC.LOG2N)
      let s := s.sts a [wd (place x.vid 32 32 + place x.layer 32 0), wd (place (x.tk - x.wid / 2) 48 16 + place x.ha 8 8 + place x.hb 8 0),
        wd (place x.expid 16 48 + place x.wid 32 16 + place qb.isNone.toNat 1 1 + place qa.isNone.toNat 1 0),
        wd (place (ux 32 x.p.y) 32 32 + ux 32 x.p.x), wa.1, wb.1, x.rega, x.regb]
      s.setF SADDLE.LRCNT.V 0 (k + 1)

/-- What refuses a write of SADDLE.LREC (R311). -/
def lrecCheck (old new : State) : Option Nat :=
  if old.on SADDLE.LREC.EN ∧ (new.f SADDLE.LREC.BASE ≠ old.f SADDLE.LREC.BASE ∨ new.f SADDLE.LREC.LOG2N ≠ old.f SADDLE.LREC.LOG2N) then some 8
  else if !inPlain (new.f SADDLE.LREC.BASE * 64) (64 * 2 ^ new.f SADDLE.LREC.LOG2N) then some 8
  else none

/-- Setting EN clears LRCNT. -/
def lrecEffect (old s : State) : State :=
  if !old.on SADDLE.LREC.EN ∧ s.on SADDLE.LREC.EN then s.setF SADDLE.LRCNT.V 0 0 else s

/-! ### Process records (R316) -/

/-- PROCESS_RECORD: the oldest unsent record of PGn goes to PREC.DEST. -/
def processRecord (n : Nat) (s : State) : State :=
  let q := s.pg n
  match q.recQ with
  | [] => s
  | ws :: rest => (s.setPg n { q with recQ := rest }).sendMsg (pgEp n) (s.f PG.PREC.DEST) 0xA (s.f PG.PREC.STREAM) ws

/-! ### The commands -/

/-- RULE_RECORD (R305). -/
def execRuleRecord (n : Fin 24) (toks : List Token) (s : State) : Host.Outcome State Fault Refusal := .next (ruleRecord n toks s)

/-- STARE_RECORD (R310). -/
def execStareRecord (s : State) : Host.Outcome State Fault Refusal := .next (stareRecord s)

/-- PROCESS_RECORD (R316). -/
def execProcessRecord (n : Fin 26) (s : State) : Host.Outcome State Fault Refusal := .next (processRecord n s)

end Sys2Proof.Machine
end

