-- ==== Sys2Proof/Machine/Job.lean ====
section
/-! DEFINITION. Execution of layer programs and job control (R25, R26, R138, R144, R146, R150–R158). -/

namespace Sys2Proof.Machine

open Sys2Proof

/-! ### Execution of an instruction -/

/-- Execution reaches an erroneous instruction: JOB.INSTR, a severe status, suspension with cause 0x3 at its offset (R139). -/
def State.instructionError (s : State) (n : Nat) (i : Item) : State :=
  let s := s.reach i.t0
  let s := (s.setF PG.JOB.INSTR n 1).severe 7 n (pgEp n)
  let m := (s.pg n).modal
  s.suspend n 3 i.ofs 0 0 m

/-- A vector that has been left behind without emitting sends a record with NOEMIT (R316). -/
def State.leaveVector (s : State) (n : Nat) : State :=
  match (s.pg n).cur with
  | some v => if v.pwr = 0 ∨ v.parts = [] then s.noEmitRecord n v else s
  | none => s

/-- The remainder of a self-cut vector runs on by itself (R212). -/
def State.dropCont (s : State) (n : Nat) : State :=
  let q := s.pg n
  match q.items with
  | i :: rest => if i.cont then s.setPg n { q with items := rest, cur := i.vec, opEnd := i.t1 } else s
  | [] => s

/-- What an instruction does on execution beside its motion: MARK, the TRIG schedule, the end of a dwell. -/
def State.layerEffect (s : State) (n : Nat) (i : Item) : State :=
  match i.op with
  | .marker m => s.setF PG.MARK.V n m
  | .dwell _ => s.setPg n { s.pg n with dwellEnd := some i.t1 }
  | .trig en _ _ _ => s.setPg n { s.pg n with trigNew := en, sched := if en then (s.pg n).sched else none }
  | _ => s

/-- An erroneous instruction is reached under any mnemonic's command (its words spell none). -/
def LOp.isBad : LOp → Bool
  | .bad => true
  | _ => false

/-- Execution of the next planned instruction, where it is one that `want` names: it must be planned, and a vector's chain decided. -/
def State.execLayer (s : State) (n : Nat) (want : LOp → Bool) : State :=
  let s := s.dropCont n
  match (s.pg n).items with
  | [] => s
  | i :: rest =>
    let q := s.pg n
    let decided := match i.vec with
      | some v => v.len == 0 || v.parts == [] || q.decided.contains v.chain
      | none => true
    if !s.pgRunning n || !(want i.op || i.op.isBad) then s
    else if i.err then s.instructionError n i
    else if !decided then s
    else
      let s := (s.reach i.t0).leaveVector n
      let s := s.windowTo n i.win 64
      let q := s.pg n
      let s := (s.setF PG.WPOS.EOFS n i.ofs).setPg n
        { q with items := rest, mb := q.modal, modal := i.pmAfter, cur := i.vec, opEnd := i.t1, curOp := i.op,
                 vectors := if i.op.isVector then q.vectors + 1 else q.vectors }
      s.layerEffect n i

/-- LEND (R153): the park jump ends, the notice is sent, the window is marked done, and the path generator enters ENDED; a pause that
waits is dropped with an info-class event (R154). -/
def layerEnd (n : Nat) (s : State) : State :=
  let s := s.dropCont n
  match (s.pg n).items with
  | [] => s
  | i :: _ =>
    if !s.pgRunning n then s
    else if i.err then (if i.op = .lend ∨ i.op = .bad then s.instructionError n i else s)
    else if i.op ≠ .lend then s
    else
      let s := (s.reach i.t1).leaveVector n
      let s := s.windowTo n i.win 64
      let q := s.pg n
      let layer := s.f PG.JOB.LAYER n
      let s := if q.gateHigh then (s.gateOff n s.mt q.modal.vid).closePart n s.mt (match q.acc with | some a => a.vec.len | none => 0) 0 0 else s
      let s := s.cancelLooks n
      let q := s.pg n
      let s := s.setPg n { q with items := [], mb := q.modal, modal := i.pmAfter, pm := i.pmAfter, cur := none, opEnd := 0, curOp := .lend, sched := none,
                                  trigNew := false, gateHigh := false, edges := [], pause := none, winStart := none, winSpent := 0, decEnd := false,
                                  decNew := true, decOfs := 0, decided := [] }
      let s := s.setF PG.WPOS.EOFS n i.ofs
      let s := s.send (mkTok (pgEp n) q.notify 9 0 (wd (place q.vectors 32 32 + place layer 32 0)))
      let x := s.f PG.WPOS.XIDX n
      let s := s.windowDone n x
      let nx := (x + 1) % s.ringSize n
      let s := (s.setF PG.WPOS.XIDX n nx).setF PG.WPOS.RIDX n nx
      let paused := s.pgState n == pgPAUSING
      let s := (s.setPgState n pgENDED).unclaimed n layer
      if paused then s.info 7 n (pgEp n) else s

/-- The dwell ends and execution continues (R171). -/
def dwellEnd (n : Nat) (s : State) : State :=
  match (s.pg n).dwellEnd with
  | some t => let s := s.reach t; s.setPg n { s.pg n with dwellEnd := none }
  | none => s

/-! ### Windows (R25, R144, R146) -/

/-- The path generator re-reads a descriptor that is not READY; one that has become READY is decoded (R144). -/
def windowPoll (n : Nat) (s : State) : State := planStep n s

/-- PG[n].LEAD, with LOWLEAD and a warning once for each crossing below 40,000 µs in RUN; the lead is not consumed in ARMED, ENDED or
SUSPENDED (R146). -/
def leadUpdate (n : Nat) (s : State) : State :=
  let l := min (2 ^ 32 - 1) (s.lead n)
  let s := (s.setF PG.LEAD.V n l).setF PG.LEAD.MIN n (min l (s.f PG.LEAD.MIN n))
  let q := s.pg n
  let low := decide (l < 40000)
  if s.pgState n = pgRUN then
    let s := s.setPg n { q with lowCross := low }
    if low && !q.lowCross then (s.setF PG.JOB.LOWLEAD n 1).warn 7 n (pgEp n) else s
  else s

/-- Execution needs a descriptor that is not READY: every instruction read has been executed, the mirrors hold, JOB.UNDER sets, a severe
status is raised and the path generator suspends with cause 0x2 at the first unread instruction (R25). -/
def underrun (n : Nat) (s : State) : State :=
  let q := s.pg n
  let d := s.descr n (s.f PG.WPOS.RIDX n)
  if !s.pgRunning n || q.items != [] || q.decEnd || (d.usable && !d.done) || q.openVec.isSome then s
  else
    let s := (s.reach (max q.opEnd q.tEnd)).leaveVector n
    let s := (s.setF PG.JOB.UNDER n 1).severe 7 n (pgEp n)
    s.suspend n 2 q.decOfs 0 0 q.modal

/-! ### Job commands (R150) -/

/-- A role that no working unit holds cannot be armed (R469). -/
def State.pgServed (s : State) (n : Nat) : Bool :=
  (List.range 26).any (fun i => s.f REPAIR.UNIT.ROLE (18 + i) == n && s.f REPAIR.UNIT.STATE (18 + i) != 3)

/-- ARM's operands; no axis with MIN ≥ MAX, TRK.EN 0 and no axis moving, SADDLE.CFG.EN 1 and an active map (R165, R187, R220). -/
def State.armAllowed (s : State) (n : Nat) : Bool :=
  s.pgState n == pgIDLE && s.on SADDLE.CFG.EN && s.on SADDLEN.MAP.VALID n && !s.on PG.TRK.EN n && !(s.pg n).trkMoving &&
  decide (n < 24) && s.pgServed n &&
  (List.range 3).all (fun a => let b := s.soft n a; decide (b.1 < b.2))

/-- The park position after ARM (R139): the latest set-point sent; when none has been sent, the position mapped from the latest samples. -/
def State.armPark (s : State) (n : Nat) : Pt :=
  let q := s.pg n
  let sp : Pt := ⟨s.fi PG.SPXY.X n, s.fi PG.SPXY.Y n, s.fi PG.SPZ.Z n⟩
  if q.spSent then sp
  else match q.sx, q.sy with
    | some x, some y => match s.mapBack n x y 0 0 with
      | some m => ⟨openDiv m.x fx24, openDiv m.y fx24, sp.z⟩
      | none => sp
    | _, _ => sp

def pgArm (n : Nat) (p : Word) (s : State) : State :=
  if !s.armAllowed n then s.pgRefused n
  else
    let park := s.armPark n
    let q := s.pg n
    let m : Modal := { parkX := park.x, parkY := park.y, parkZ := park.z }
    let s := ((s.setPgState n pgARMED).setF PG.WPOS.RIDX n 0).setF PG.WPOS.XIDX n 0
    (s.setF PG.JOBID.V n (bits p 31 0)).setPg n
      { q with notify := bits p 41 32, modal := m, mb := m, pm := m, pos := park, items := [], segs := [], openVec := none, decided := [], decOfs := 0,
               decEnd := false, decNew := true, vectors := 0, winSpent := 0, winStart := none, cur := none, opEnd := 0, stares := 0, tEnd := 0,
               sched := none, trigNew := false, trk := [], frozen := false, resumeAt := none, edges := [] }

def pgPause (n : Nat) (p : Word) (s : State) : State :=
  if s.pgState n ≠ pgRUN then s.pgRefused n
  else ((s.setPgState n pgPAUSING).setPg n { s.pg n with pause := some (bit p 0) }).lockStop

/-- The conditions of R157 at a RESUME's time. -/
def State.resumeAllowed (s : State) (n : Nat) : Bool :=
  s.pgState n == pgSUSPENDED && !s.unacked && !s.basin.goff && !s.on COL.STAT.FAULT (24 + n) && decide (40000 ≤ s.lead n)

/-- An accepted RESUME re-reads the descriptor at XIDX and seeks to OFS; an OFS outside it is an instruction error (R151, R157). -/
def pgResume (n : Nat) (p : Word) (s : State) : State :=
  if !s.resumeAllowed n then s.pgRefused n
  else
    let x := s.f PG.WPOS.XIDX n
    let d := s.descr n x
    let ofs := s.f PG.SUSP.OFS n
    let dist := s.f PG.SUSPV.DIST n
    let q := s.pg n
    let at_ : Int := max 0 ((dist : Int) - 256 * (bits p 15 0 : Nat))
    let s := ((s.setPgState n pgRESUMING).setF PG.WPOS.RIDX n x).setPg n
      { q with decOfs := ofs, decNew := false, decEnd := false, pm := q.modal, winStart := some s.mt, opEnd := 0, frozen := false,
               resumeAt := if dist = 0 then none else some at_, trigNew := q.modal.trig.isSome, openVec := none }
    let s := if d.usable ∧ (ofs < d.offset ∨ d.offset + d.len ≤ ofs) then s.planError n ofs .bad else s
    s.lockStop

/-- ABORT (R158): emission and TRIG stop, the axes run a stop ramp and jump to the park position, nothing is marked done; ABORTED. -/
def pgAbort (n : Nat) (s : State) : State :=
  if s.pgState n = pgIDLE then s.pgRefused n
  else
    let q := s.pg n
    let s := if q.gateHigh then
        let stop := s.mt + s.f PG.GATE.GLEAD n
        let v := (s.inVector n).orElse (fun _ => q.cur)
        (s.gateOff n stop (match v with | some v => v.vid | none => q.modal.vid)).closePart n stop (match v with | some v => q.measuredAt v stop | none => 0) 16 0
      else s
    let s := s.stopRamp n
    let s := (s.setSets (s.sets.map (fun t => t.reopen n none s.mt))).cancelLooks n
    let q := s.pg n
    let park : Pt := ⟨q.modal.parkX, q.modal.parkY, q.modal.parkZ⟩
    let r := s.jump n q.pos park q.modal.jspd (max s.mt q.tEnd) 8 q.modal.vid (s.f PG.WPOS.EOFS n) none
    (s.setPgState n pgABORTED).setPg n
      { q with segs := q.segs ++ r.1.map (fun g => { g with com := true }), pos := park, tEnd := r.2, items := [], edges := [], openVec := none,
               cur := none, opEnd := 0, pause := none, sched := none, trigNew := false, gateHigh := false, look := none, decided := [], winStart := none }

def pgDisarm (n : Nat) (s : State) : State :=
  if s.pgState n = pgENDED ∨ s.pgState n = pgABORTED then s.setPgState n pgIDLE else s.pgRefused n

/-- A job command takes effect (R150). -/
def pgCmdAct (n : Nat) (t : Token) (s : State) : State :=
  let p := t.payload
  let op := bits p 63 56
  if op = 1 then pgArm n p s
  else if op = 2 then pgPause n p s
  else if op = 3 then pgResume n p s
  else if op = 4 then pgAbort n s
  else pgDisarm n s

/-- The payload of a job command is legal (R150): the OP and its reserved bits. -/
def pgCmdFormed (p : Word) : Bool :=
  let op := bits p 63 56
  (op == 1 && bits p 55 42 == 0) || (op == 2 && bits p 55 1 == 0) || (op == 3 && bits p 55 16 == 0) || ((op == 4 || op == 5) && bits p 55 0 == 0)

/-- A CMD token reaches a path generator (R150, R57). -/
def pgCommand (n : Nat) (t : Token) (s : State) : State :=
  s.arrive (pgEp n) [t] fun s =>
    if t.kind ≠ 2#4 then s.refuse (pgEp n) t 7
    else if t.err then s.refuse (pgEp n) t 5
    else if t.stream ≠ 0#8 ∨ !pgCmdFormed t.payload then s.refuse (pgEp n) t 4
    else if bits t.payload 63 56 = 3 ∧ 10000 < bits t.payload 15 0 then s.refuse (pgEp n) t 8
    else s.whenDue [t] (pgCmdAct n t)

/-- A row of R150: the token of its OP; one that names no OP is refused by every row alike. -/
def pgRow (op n : Nat) (t : Token) (s : State) : State :=
  let o := bits t.payload 63 56
  if t.kind = 2#4 ∧ o ≠ op ∧ 1 ≤ o ∧ o ≤ 5 then s else pgCommand n t s

/-! ### The pause point and the resumption (R154, R157, R165) -/

/-- Whether the next instruction belongs to a hand-off the Saddle has already planned. -/
def PgSt.inHandoff (q : PgSt) : Bool :=
  match q.items.head? with
  | some i => i.vec.any (fun v => q.decided.contains v.chain && v.parts.any (fun p => p.rise != 0 || p.fall != 0))
  | none => false

/-- A run-out inserted after planning: where it would leave the limits it is shortened to a stop at AEMG with a warning, or a severe
status when even AEMG cannot keep it inside (R164, R165). -/
def State.insertRunOut (s : State) (n : Nat) (v : PVec) (t : Nat) : State :=
  let q := s.pg n
  let keep := q.segs.filter (fun g => decide (g.t0 < t))
  let g := s.runOut n v v.len t
  let p := s.runOutPt n v v.len
  if s.posOk n p then
    s.setPg n { q with segs := keep ++ [{ g with com := true }], pos := p, tEnd := t + g.dur }
  else
    let aemg := accU (s.f PG.LIMR.AEMG n)
    let vm := speedU v.mspd
    let d := vm * vm / (2 * max 1 aemg)
    let pe := v.geom.pt v.len (v.len + d)
    let e : Seg := { g with dur := (vm / max 1 aemg).toNat, k := ⟨v.len, vm, -aemg⟩, com := true }
    let s := (s.setPg n { q with segs := keep ++ [e], pos := pe, tEnd := t + e.dur }).setF PG.STAT.EMG n 1
    if s.posOk n pe then s.warn 7 n (pgEp n) else s.severe 7 n (pgEp n)

/-- PAUSE_POINT: mode 0 at the first instruction boundary not party to a planned hand-off, mode 1 right after a MARKER: a run-out where the
vector would have been joined, the gate low, suspension with cause 0x1 at the next instruction (R154). -/
def pausePoint (n : Nat) (s : State) : State :=
  let q := s.pg n
  match q.pause with
  | none => s
  | some mode =>
    let isMarker := match q.curOp with | .marker _ => true | _ => false
    if s.pgState n ≠ pgPAUSING ∨ (mode = true ∧ !isMarker) ∨ (mode = false ∧ q.inHandoff) then s
    else
      let s := s.reach q.opEnd
      let joined : Bool := match q.items.head? with | some i => i.vec.any (fun v => v.joinPrev) | none => q.openVec.isSome
      let s := match q.cur with
        | some v => if joined then
            let s := if q.gateHigh then (s.gateOff n s.mt v.vid).closePart n s.mt v.len 0 0 else s
            s.insertRunOut n v q.opEnd
          else s
        | none => s
      let ofs := s.suspOfs n
      let m := (s.pg n).modal
      (s.leaveVector n).suspend n 1 ofs 0 0 m

/-- RESUME_RUN: the resumed motion reaches the instruction at OFS (DIST 0) or the re-melt start; the path generator enters RUN (R157). -/
def resumeRun (n : Nat) (s : State) : State :=
  if s.pgState n ≠ pgRESUMING then s
  else
    let q := s.pg n
    let start := if s.f PG.SUSPV.DIST n = 0 then q.items.head?.map (·.t0)
      else (q.segs.find? (fun g => g.remelt && g.typ == 2)).map (·.t0)
    match start with
    | none => s
    | some t => ((s.reach t).setPgState n pgRUN).lockStop

/-! ### Barriers at one path generator (R152) -/

/-- The expected layer: in ENDED that of the descriptor at RIDX when it reads READY, otherwise the ended layer + 1; in ARMED any. -/
def State.layerExpected (s : State) (n layer : Nat) : Bool :=
  if s.pgState n = pgARMED then true
  else
    let d := s.descr n (s.f PG.WPOS.RIDX n)
    layer == (if d.usable then d.layer else (s.f PG.JOB.LAYER n + 1) % 2 ^ 32)

/-- A barrier the path generator accepts takes it to RUN (R152); otherwise it is discarded with JOB.REFUSED. -/
def pgBarrier (n layer : Nat) (s : State) : State :=
  if (s.pgState n = pgARMED ∨ s.pgState n = pgENDED) ∧ s.layerExpected n layer then
    let q := s.pg n
    ((((s.setPgState n pgRUN).setF PG.JOB.LAYER n layer).setPg n
      { q with vectors := 0, winStart := some s.mt, winSpent := 0, decOfs := 0, decNew := true, decEnd := false, lowCross := false, lastPower := 0, delta := 0 })).lockStop
  else s.pgRefused n

/-! ### What the control words of a path generator refuse (R148, R188–R192) -/

/-- A record ring of `size`-byte records lies wholly in the Plain. -/
def ringInPlain (base log2n size : Nat) : Bool := inPlain (base * 32) (size * 2 ^ log2n)

def wringCheck (n : Nat) (old new : State) : Option Nat :=
  if old.pgState n ≠ pgIDLE ∨ !ringInPlain (new.f PG.WRING.BASE n) (new.f PG.WRING.LOG2N n) 32 then some 8 else none

/-- SOFTX, SOFTY, SOFTZ and FRAME are written only in IDLE. -/
def idleOnlyCheck (n : Nat) (old : State) : Option Nat := if old.pgState n ≠ pgIDLE then some 8 else none

def pgCfgCheck (n : Nat) (old new : State) : Option Nat :=
  if old.f PG.CFG.AXES n ≠ new.f PG.CFG.AXES n ∧ old.pgState n ≠ pgIDLE then some 8 else none

def pgTrkCheck (n : Nat) (old new : State) : Option Nat :=
  if !old.on PG.TRK.EN n ∧ new.on PG.TRK.EN n ∧ old.pgState n ≠ pgIDLE then some 8 else none

def straceCheck (n : Nat) (old new : State) : Option Nat :=
  if old.on PG.STRACE.EN n ∧ (old.f PG.STRACE.BASE n ≠ new.f PG.STRACE.BASE n ∨ old.f PG.STRACE.LOG2N n ≠ new.f PG.STRACE.LOG2N n) then some 8
  else if new.on PG.STRACE.EN n ∧ !ringInPlain (new.f PG.STRACE.BASE n) (new.f PG.STRACE.LOG2N n) 32 then some 8 else none

def straceEffect (n : Nat) (old s : State) : State :=
  if !old.on PG.STRACE.EN n ∧ s.on PG.STRACE.EN n then s.setF PG.STRCNT.V n 0 else s

def pgTrkEffect (n : Nat) (old s : State) : State :=
  if old.on PG.TRK.EN n ∧ !s.on PG.TRK.EN n then trkEnCleared n s else s

def hrecCheck (old new : State) : Option Nat :=
  if old.on SADDLE.HREC.EN ∧ (old.f SADDLE.HREC.BASE ≠ new.f SADDLE.HREC.BASE ∨ old.f SADDLE.HREC.LOG2N ≠ new.f SADDLE.HREC.LOG2N) then some 8
  else if new.on SADDLE.HREC.EN ∧ !ringInPlain (new.f SADDLE.HREC.BASE) (new.f SADDLE.HREC.LOG2N) 32 then some 8 else none

def hrecEffect (old s : State) : State :=
  if !old.on SADDLE.HREC.EN ∧ s.on SADDLE.HREC.EN then s.setF SADDLE.HRCNT.V 0 0 else s

/-- FEATH and NFEATH: FMIN is 1 to FDEF (R220). -/
def feathCheck (fdef fmin : Fld) (new : State) : Option Nat := if new.f fmin = 0 ∨ new.f fdef < new.f fmin then some 8 else none

/-! ### A map swap at a point of rest (R199) -/

/-- Whether head `n` stands at a point of rest at MT. -/
def State.atRest (s : State) (n : Nat) : Bool := !(s.pg n).movingAt s.mt && !(s.pg n).trkMoving

/-- MAP_SWAP: a checked map marked 0b10 replaces the active one at a point of rest, not before the CWW's time; the next motion starts no
earlier than 200 µs after it. -/
def mapSwap (n : Nat) (s : State) : State :=
  if s.f SADDLEN.MAPNEXT.WHEN n = 2 ∧ s.on SADDLEN.MAPNEXT.OK n ∧ (s.mapSt n).notBefore ≤ s.mt ∧ s.atRest n then
    let s := mapTake n s
    s.setPg n { s.pg n with notBefore := s.mt + 200000 }
  else s

/-! ### The commands -/

/-- JUMP (R133): execution reaches this instruction. -/
def execPgJump (n : Fin 26) (s : State) : Host.Outcome State Fault Refusal := .next (s.execLayer n (fun op => match op with | .jump .. => true | _ => false))

/-- MARK (R133): execution reaches this instruction. -/
def execPgMark (n : Fin 26) (s : State) : Host.Outcome State Fault Refusal := .next (s.execLayer n (fun op => match op with | .mark .. => true | _ => false))

/-- JUMPR (R133): execution reaches this instruction. -/
def execPgJumpr (n : Fin 26) (s : State) : Host.Outcome State Fault Refusal := .next (s.execLayer n (fun op => match op with | .jumpr .. => true | _ => false))

/-- MARKR (R133): execution reaches this instruction. -/
def execPgMarkr (n : Fin 26) (s : State) : Host.Outcome State Fault Refusal := .next (s.execLayer n (fun op => match op with | .markr .. => true | _ => false))

/-- ARC (R133): execution reaches this instruction. -/
def execPgArc (n : Fin 26) (s : State) : Host.Outcome State Fault Refusal := .next (s.execLayer n (fun op => match op with | .arc .. => true | _ => false))

/-- PARK (R133): execution reaches this instruction. -/
def execPgPark (n : Fin 26) (s : State) : Host.Outcome State Fault Refusal := .next (s.execLayer n (fun op => match op with | .park .. => true | _ => false))

/-- SPEED (R135): execution reaches this instruction. -/
def execPgSpeed (n : Fin 26) (s : State) : Host.Outcome State Fault Refusal := .next (s.execLayer n (fun op => match op with | .speed .. => true | _ => false))

/-- POWER (R135): execution reaches this instruction. -/
def execPgPower (n : Fin 26) (s : State) : Host.Outcome State Fault Refusal := .next (s.execLayer n (fun op => match op with | .power .. => true | _ => false))

/-- FOCUS (R135): execution reaches this instruction. -/
def execPgFocus (n : Fin 26) (s : State) : Host.Outcome State Fault Refusal := .next (s.execLayer n (fun op => match op with | .focus .. => true | _ => false))

/-- RAMP (R135): execution reaches this instruction. -/
def execPgRamp (n : Fin 26) (s : State) : Host.Outcome State Fault Refusal := .next (s.execLayer n (fun op => match op with | .ramp .. => true | _ => false))

/-- GATE (R135): execution reaches this instruction. -/
def execPgGate (n : Fin 26) (s : State) : Host.Outcome State Fault Refusal := .next (s.execLayer n (fun op => match op with | .gate .. => true | _ => false))

/-- OWN (R136): execution reaches this instruction. -/
def execPgOwn (n : Fin 26) (s : State) : Host.Outcome State Fault Refusal := .next (s.execLayer n (fun op => match op with | .own .. => true | _ => false))

/-- PART (R136): execution reaches this instruction. -/
def execPgPart (n : Fin 26) (s : State) : Host.Outcome State Fault Refusal := .next (s.execLayer n (fun op => match op with | .part .. => true | _ => false))

/-- VID (R136): execution reaches this instruction. -/
def execPgVid (n : Fin 26) (s : State) : Host.Outcome State Fault Refusal := .next (s.execLayer n (fun op => match op with | .vid .. => true | _ => false))

/-- NOP (R137): execution reaches this instruction. -/
def execPgNop (n : Fin 26) (s : State) : Host.Outcome State Fault Refusal := .next (s.execLayer n (fun op => match op with | .nop => true | _ => false))

/-- DWELL (R137): execution reaches this instruction. -/
def execPgDwell (n : Fin 26) (s : State) : Host.Outcome State Fault Refusal := .next (s.execLayer n (fun op => match op with | .dwell .. => true | _ => false))

/-- MARKER (R137): execution reaches this instruction. -/
def execPgMarker (n : Fin 26) (s : State) : Host.Outcome State Fault Refusal := .next (s.execLayer n (fun op => match op with | .marker .. => true | _ => false))

/-- TRIG (R138): execution reaches this instruction. -/
def execPgTrig (n : Fin 26) (s : State) : Host.Outcome State Fault Refusal := .next (s.execLayer n (fun op => match op with | .trig .. => true | _ => false))

/-- RECORD (R138): execution reaches this instruction. -/
def execPgRecord (n : Fin 26) (s : State) : Host.Outcome State Fault Refusal := .next (s.execLayer n (fun op => match op with | .record .. => true | _ => false))

/-- LOOK (R138): execution reaches this instruction. -/
def execPgLook (n : Fin 26) (s : State) : Host.Outcome State Fault Refusal := .next (s.execLayer n (fun op => match op with | .look .. => true | _ => false))

/-- DWELL_END (R171). -/
def execPgDwellEnd (n : Fin 26) (s : State) : Host.Outcome State Fault Refusal := .next (dwellEnd n s)

/-- LEND (R153). -/
def execPgLend (n : Fin 26) (s : State) : Host.Outcome State Fault Refusal := .next (layerEnd n s)

/-- WINDOW_POLL (R144). -/
def execWindowPoll (n : Fin 26) (s : State) : Host.Outcome State Fault Refusal := .next (windowPoll n s)

/-- LEAD_UPDATE (R146). -/
def execLeadUpdate (n : Fin 26) (s : State) : Host.Outcome State Fault Refusal := .next (leadUpdate n s)

/-- UNDERRUN (R25). -/
def execUnderrun (n : Fin 26) (s : State) : Host.Outcome State Fault Refusal := .next (underrun n s)

/-- ARM (R150). -/
def execArm (n : Fin 26) (tok : Token) (s : State) : Host.Outcome State Fault Refusal := .next (pgRow 1 n tok s)

/-- PAUSE (R150, R154). -/
def execPause (n : Fin 26) (tok : Token) (s : State) : Host.Outcome State Fault Refusal := .next (pgRow 2 n tok s)

/-- PAUSE_POINT (R154). -/
def execPausePoint (n : Fin 26) (s : State) : Host.Outcome State Fault Refusal := .next (pausePoint n s)

/-- RESUME (R157). -/
def execResume (n : Fin 26) (tok : Token) (s : State) : Host.Outcome State Fault Refusal := .next (pgRow 3 n tok s)

/-- RESUME_RUN (R157). -/
def execResumeRun (n : Fin 26) (s : State) : Host.Outcome State Fault Refusal := .next (resumeRun n s)

/-- ABORT (R158). -/
def execAbort (n : Fin 26) (tok : Token) (s : State) : Host.Outcome State Fault Refusal := .next (pgRow 4 n tok s)

/-- DISARM (R150). -/
def execDisarm (n : Fin 26) (tok : Token) (s : State) : Host.Outcome State Fault Refusal := .next (pgRow 5 n tok s)

/-- MAP_SWAP (R199). -/
def execMapSwap (n : Fin 24) (s : State) : Host.Outcome State Fault Refusal := .next (mapSwap n s)

end Sys2Proof.Machine
end

