-- ==== Sys2Proof/Machine/Barrier.lean ====
section
/-! DEFINITION. Barriers (R28, R29, R103, R152): the fan-out, its judgement, the boundary changes, and a barrier at a path generator. -/

namespace Sys2Proof.Machine

open Sys2Proof

/-- The barrier fan-out's endpoint. -/
def fanEp : Nat := 0xE

/-- Two tokens of one barrier: a copy keeps the src, seq and time of the original (R103). -/
def sameBarrier (a b : Token) : Bool := a.src == b.src && a.seq == b.seq && a.time == b.time

/-- A path generator that holds an armed job. -/
def State.pgActive (s : State) (n : Nat) : Bool := s.pgState n != pgIDLE && s.pgState n != pgABORTED

/-- The active path generators. -/
def State.activePgs (s : State) : List Nat := (List.range 26).filter (fun n => s.pgActive n)

/-- BARRIER_FANOUT: a timed BAR token waits for its judgement; an untimed one is refused with CODE 0x04. -/
def barrierFanout (t : Token) (s : State) : State :=
  if t.dest ≠ 0xE#10 then s
  else s.arrive fanEp [t] (fun s =>
    if t.kind ≠ 8#4 then s.refuse fanEp t 7
    else if t.err then s
    else if !t.timed then s.refuse fanEp t 4
    else s.setFanout (s.fanout ++ [t]))

/-- The instant a barrier is judged: 20,000 ns before its time. -/
def State.judgeAt (s : State) (t : Token) : Nat := s.instant t - 20000

/-- The barrier the fan-out judges next. -/
def State.nextBarrier (s : State) : Option Token :=
  s.fanout.foldl (fun b t => match b with
    | none => some t
    | some u => if s.judgeAt t < s.judgeAt u then some t else some u) none

/-- BARRIER_JUDGE: refused whole, or passed as one copy to each active path generator; the boundary changes wait for its time. -/
def barrierJudge (s : State) : State :=
  match s.nextBarrier with
  | none => s
  | some t =>
    let s := (s.reach (s.judgeAt t)).setFanout (s.fanout.erase t)
    if s.barrierBlocked then forEach s.activePgs (fun n s => s.pgRefused n) s
    else (s.setNet (s.net ++ s.activePgs.map (fun n => { t with dest := BitVec.ofNat 10 (pgEp n) }))).setPassed (s.passed ++ [t])

/-! ### The boundary changes (R29) -/

/-- Zone parameters marked by NARM (R220). -/
def State.zoneBarrier (s : State) : State :=
  if s.on SADDLE.NARM.ARM then
    ((s.setWord SADDLE.ZONE.SEP.base (s.word SADDLE.NZONE.SEP.base)).setWord SADDLE.FEATH.FDEF.base (s.word SADDLE.NFEATH.FDEF.base)).setF SADDLE.NARM.ARM 0 0
  else s

/-- A map marked for the boundary is swapped when its check has passed; one that is not ready waits, with an info-class event. -/
def State.mapBarrier (s : State) (n : Nat) : State :=
  if s.f SADDLEN.MAPNEXT.WHEN n ≠ 1 then s
  else if s.on SADDLEN.MAPNEXT.OK n then mapTake n s else s.info 8 n 8

/-- Every marked change that is ready takes effect at the barrier's time `t`. -/
def State.boundary (s : State) (t layer : Nat) : State :=
  let s := s.zoneBarrier
  let s := forEach (List.range 24) (fun n s => s.mapBarrier n) s
  let s := forEach (List.range 24) (fun n s => regStep n layer s) s
  let s := forEach (List.range 112) (fun l s => servoBarrier t s l) s
  let s := forEach (List.range 24) (fun c s => camBarrier t s c) s
  forEach (List.range 24) (fun n s => ruleBarrier s n) s

/-- A passed barrier whose changes have been applied is kept, with dest 0, while copies of it are in transit. -/
def State.applyPassed (s : State) (t : Token) : State :=
  if s.passed.any (fun u => sameBarrier u t && u.dest == 0xE#10) then
    let s := s.setPassed (s.passed.map (fun u => if sameBarrier u t then { u with dest := 0#10 } else u))
    s.boundary (s.instant t) (bits t.payload 31 0)
  else s

/-- Passed barriers that are applied and have no copy left are dropped. -/
def State.dropPassed (s : State) : State :=
  s.setPassed (s.passed.filter (fun u => u.dest != 0#10 || s.net.any (fun v => v.kind == 8#4 && sameBarrier u v)))

/-- BARRIER: the token at its time. A copy applies with no further judgement; a direct one is judged here under R28. -/
def barrier (n : Nat) (t : Token) (s : State) : State :=
  let ep := pgEp n
  if t.dest ≠ BitVec.ofNat 10 ep ∨ t.kind ≠ 8#4 then s
  else s.arrive ep [t] (fun s =>
    if t.err then s
    else if !t.timed then s.refuse ep t 4
    else
      let layer := bits t.payload 31 0
      let s := s.reach (s.instant t)
      if s.passed.any (fun u => sameBarrier u t) then (pgBarrier n layer (s.applyPassed t)).dropPassed
      else if s.barrierBlocked then s.pgRefused n
      else pgBarrier n layer s)

/-- BARRIER_FANOUT (R103). -/
def execBarrierFanout (tok : Token) (s : State) : Host.Outcome State Fault Refusal := .next (barrierFanout tok s)

/-- BARRIER_JUDGE (R28, R103). -/
def execBarrierJudge (s : State) : Host.Outcome State Fault Refusal := .next (barrierJudge s)

/-- BARRIER (R28, R29, R103, R152). -/
def execBarrier (pg : Fin 26) (tok : Token) (s : State) : Host.Outcome State Fault Refusal := .next (barrier pg tok s)

end Sys2Proof.Machine
end

