-- ==== Sys2Proof/Machine/ColFifo.lean ====
section
/-! DEFINITION. What several chapters do to a col's FIFO: the discard of R69 and R350, and the credits of the token release. -/

namespace Sys2Proof.Machine

open Sys2Proof

/-- The discard of a col's FIFO (R69): the tokens held and the pending second edge go, LATE.FLUSH counts, a flush record of CLASS 7 is
written. -/
def State.colDiscard (s : State) (n : Nat) : State :=
  let c := s.col n
  let k := c.fifo.length
  let s := (s.setCol n { c with fifo := [], edge := none }).incF COL.LATE.FLUSH n k
  s.record7 11 1 n (0x300 + n) (s.word (COL.STAT.LATE.addr n)) (wd k)

/-- The link col of link `n` (R58): heads 0–23, hubs 24–31. -/
def linkCol (n : Nat) : Nat := if n < 24 then n else 84 + n

/-- A link leaves ACTIVE: its col discards its FIFO, each token counted also in LINK[n].CNT.UNSENT (R69, R350). -/
def State.linkFlush (s : State) (n : Nat) : State :=
  let k := (s.col (linkCol n)).fifo.length
  (s.colDiscard (linkCol n)).incF LINK.CNT.UNSENT n k

/-- LINK of an Ethernet port falls: its col discards its FIFO (R350). -/
def State.ethFlush (s : State) (k : Nat) : State := s.colDiscard (116 + k)

end Sys2Proof.Machine
end

