-- ==== Sys2Proof/Machine/Ethernet.lean ====
section
/-! DEFINITION. The Ethernet ports and the packets the device sends (R359–R365, R370, R389): frame checks, ARP and ICMP, stamps of IEEE
1588 event messages, changes of LINK, VCT packets and EVTs. -/

namespace Sys2Proof.Machine

open Sys2Proof

/-! ### Sending (R360, R370, R389) -/

/-- A frame or packet leaves port `k`. -/
def State.txCount (s : State) (k : Nat) : State := s.incF ETH.CNT.TXFRM k

/-- A UDP packet goes to a peer by a port that has LINK; the newest 64 are kept. -/
def State.sendOut (s : State) (o : VctOut) : State :=
  if s.on ETH.STAT.LINK o.port && s.on ETH.CFG.EN o.port then (s.setHost { s.host with out := (o :: s.host.out).take 64 }).txCount o.port else s

/-- A raw frame goes out of port `k`; the newest 16 are kept. -/
def State.sendFrame (s : State) (k : Nat) (f : List Byte) : State :=
  if s.on ETH.STAT.LINK k then (s.setHost { s.host with frames := ((k, f) :: s.host.frames).take 16 }).txCount k else s

/-- The header of a VCT packet (R370). -/
def vctHeader (typ flags slot len tag opcode arg counter target : Nat) : List Byte :=
  [0x56#8, 0x43#8, 1#8] ++ beBytes 1 typ ++ beBytes 1 flags ++ beBytes 1 slot ++ beBytes 2 len ++ beBytes 4 tag ++ beBytes 2 opcode ++
    beBytes 2 arg ++ beBytes 8 counter ++ beBytes 8 target

/-- ID.SERIAL (R97). -/
def State.serial (s : State) : Nat := s.f ID.SERIAL.V

/-- The ports of the subscriber's mask that have LINK, lowest first (R388). -/
def State.subPorts (s : State) : List Nat := [0, 1, 2, 3].filter (fun k => (s.f VCT.SUB.MASK).testBit k && s.on ETH.STAT.LINK k)

/-- A packet to the subscriber by port `k` (R360). -/
def State.toSubscriber (s : State) (k : Nat) (bytes : List Byte) : State :=
  s.sendOut ⟨k, s.host.subMac, s.f VCT.SUB.IPV4, s.f VCT.SUB.PORT, bytes⟩

/-- An EVT packet by the given ports; the sequence advances whether or not it is sent (R388, R389). -/
def State.evtBy (s : State) (ports : List Nat) (kind tag : Nat) (payload : List Byte) : State :=
  let q := s.host.evtSeq
  let s := s.setHost { s.host with evtSeq := q + 1 }
  if s.f VCT.SUB.MASK = 0 then s
  else ports.foldl (fun s k => s.toSubscriber k (vctHeader 6 0 0xFF payload.length tag kind 0 q s.serial ++ payload)) s

/-- An EVT by the lowest-numbered port of the mask that has LINK. -/
def State.evt (s : State) (kind tag : Nat) (payload : List Byte) : State := s.evtBy (s.subPorts.take 1) kind tag payload

/-- EVT COMPLETE (R382, R389). -/
def State.evtComplete (s : State) (tag code : Nat) : State := s.evt 2 tag (beBytes 1 code ++ beBytes 3 0 ++ beBytes 4 tag)

/-! ### LINK (R350, R361, R388) -/

def State.up (s : State) (n : Nat) : UpStream := tget (fun _ => {}) s.ups n
def State.setUp (s : State) (n : Nat) (x : UpStream) : State := s.setUps (tset (fun _ => {}) s.ups n x)

/-- A stream sends again from its acknowledged offset. -/
def State.upRewind (s : State) (n : Nat) : State :=
  s.setUp n { s.up n with next := s.f VCT.UP.STAT.ACKED n, flight := [], port := none, since := s.mt }

/-- LINK_CHANGE: what the PCS of port k reports; LINK is block lock without high BER. -/
def linkChange (k : Nat) (block hiber lfault rfault : Bool) (s : State) : State :=
  let was := s.on ETH.STAT.LINK k
  let now := block && !hiber
  let none0 := s.subPorts.isEmpty
  let s := (((s.setF ETH.STAT.BLOCK k block.toNat).setF ETH.STAT.HIBER k hiber.toNat).setF ETH.STAT.LFAULT k lfault.toNat).setF
    ETH.STAT.RFAULT k rfault.toNat
  if now = was then s
  else
    let s := ((s.setF ETH.STAT.LINK k now.toNat).setF ETH.STAT.LINKCHG k 1).warn 17 k (0x130 + k) 0
    let s := if now then s else s.ethFlush k
    let moved := (List.range 16).filter (fun n => (!now && (s.up n).port == some k) || (now && none0 && !s.subPorts.isEmpty))
    let s := moved.foldl (fun s n => s.upRewind n) s
    s.evtBy ([0, 1, 2, 3].filter (fun j => j != k && s.on ETH.STAT.LINK j)) 4 0 (beBytes 1 k ++ beBytes 1 now.toNat)

/-! ### Frames (R359–R361, R364) -/

/-- What an accepted frame is. -/
inductive FrameKind where
  | nothing
  | arp (sha spa : List Byte)
  | icmp (src dst : List Byte) (data : List Byte)
  | vct (p : VctIn)
  | ptp (msg : List Byte)

/-- The sum of a header's 16-bit words folded to 16 bits. -/
def onesSum : List Byte → Nat
  | a :: b :: t => let v := a.toNat * 256 + b.toNat + onesSum t; v % 65536 + v / 65536
  | _ => 0

def slice (l : List Byte) (a n : Nat) : List Byte := (l.drop a).take n

/-- What an IPv4 packet for the port is: no options, no fragments, a right header checksum (R359). -/
def State.ipKind (s : State) (k : Nat) (mac : List Byte) (p : List Byte) : FrameKind :=
  let dst := slice p 16 4
  let mine : Bool := beNat dst == s.f ETH.CFG.IPADDR k
  let frag := beNat (slice p 6 2) % 16384
  let len := beNat (slice p 2 2)
  let proto := beNat (slice p 9 1)
  let body := slice p 20 (len - 20)
  if p.headD 0#8 ≠ 0x45#8 ∨ onesSum (p.take 20) ≠ 65535 ∨ frag ≠ 0 ∨ len < 20 ∨ p.length < len then .nothing
  else if proto = 1 then
    if mine && s.on ETH.CFG.ICMP k && body.headD 0#8 == 8#8 then .icmp (slice p 12 4) dst body else .nothing
  else if proto = 17 then
    let port := beNat (slice body 2 2)
    let data := slice body 8 (beNat (slice body 4 2) - 8)
    if port = 47880 ∧ mine then
      .vct ⟨⟨Fin.ofNat 4 k, BitVec.ofNat 48 (beNat mac), BitVec.ofNat 32 (beNat (slice p 12 4)), BitVec.ofNat 16 (beNat (slice body 0 2))⟩, data⟩
    else if port = 319 ∨ port = 320 then .ptp data
    else .nothing
  else .nothing

/-- What a frame of port `k` is, its tag and destination being right. -/
def State.frameKind (s : State) (k : Nat) (f : List Byte) : FrameKind :=
  let dst := f.take 6
  let src := slice f 6 6
  let tagged : Bool := slice f 12 2 == [0x81#8, 0#8]
  let vid := beNat (slice f 14 2) % 4096
  let cfg := s.f ETH.CFG.VID k
  let typ := beNat (slice f (if tagged then 16 else 12) 2)
  let body := f.drop (if tagged then 18 else 14)
  let mine : Bool := beNat dst == s.f ETH.MAC.V k || (dst.headD 0#8).getLsbD 0
  if !mine || (tagged && (cfg == 0 || vid != cfg)) then .nothing
  else if typ = 0x0806 then
    if slice body 0 8 = [0#8, 1#8, 8#8, 0#8, 6#8, 4#8, 0#8, 1#8] ∧ beNat (slice body 24 4) = s.f ETH.CFG.IPADDR k then
      .arp (slice body 8 6) (slice body 14 4)
    else .nothing
  else if typ = 0x0800 then s.ipKind k src body
  else if typ = 0x88F7 then .ptp body
  else .nothing

/-- The Ethernet header of a frame sent by port `k`, tagged where VID is not 0. -/
def State.ethHeader (s : State) (k : Nat) (dst : List Byte) (typ : Nat) : List Byte :=
  let vid := s.f ETH.CFG.VID k
  dst ++ beBytes 6 (s.f ETH.MAC.V k) ++ (if vid = 0 then [] else [0x81#8, 0#8] ++ beBytes 2 (s.f ETH.CFG.PCP k * 8192 + vid)) ++ beBytes 2 typ

/-- The answer of the ARP responder. -/
def State.arpReply (s : State) (k : Nat) (sha spa : List Byte) : State :=
  s.sendFrame k (s.ethHeader k sha 0x0806 ++ [0#8, 1#8, 8#8, 0#8, 6#8, 4#8, 0#8, 2#8] ++ beBytes 6 (s.f ETH.MAC.V k) ++
    beBytes 4 (s.f ETH.CFG.IPADDR k) ++ sha ++ spa)

/-- A header with its checksum in place at byte `at_`. -/
def withSum (l : List Byte) (at_ : Nat) : List Byte := l.take at_ ++ beBytes 2 (65535 - onesSum (l ++ List.replicate (l.length % 2) 0#8)) ++ l.drop (at_ + 2)

/-- The ICMP echo reply. -/
def State.icmpReply (s : State) (k : Nat) (mac src dst data : List Byte) : State :=
  let echo := withSum ([0#8] ++ slice data 1 1 ++ [0#8, 0#8] ++ data.drop 4) 2
  let ip := withSum ([0x45#8, 0#8] ++ beBytes 2 (20 + echo.length) ++ [0#8, 0#8, 0#8, 0#8, 64#8, 1#8, 0#8, 0#8] ++ dst ++ src) 10
  s.sendFrame k (s.ethHeader k mac 0x0800 ++ ip ++ echo)

/-- The bytes buffered on a port (R361). -/
def State.rxFill (s : State) (k : Nat) : Nat := ((s.host.rx.filter (·.1 == k)).map (·.2)).foldl (· + ·) 0

/-- Software takes the oldest buffered frame of a port. -/
def State.rxTake (s : State) (k : Nat) : State :=
  match s.host.rx.find? (fun e => e.1 == k) with
  | some e => s.setHost { s.host with rx := s.host.rx.erase e }
  | none => s

/-- A frame waits in the port's receive buffer. -/
def State.rxPut (s : State) (k len : Nat) : State := s.setHost { s.host with rx := s.host.rx ++ [(k, len)] }

/-- The stamp of a received event message, RXLAT subtracted (R364). -/
def State.rxStamp (s : State) (k sfd : Nat) (msg : List Byte) : State :=
  if (msg.headD 0#8).toNat % 16 < 4 then
    s.setHost { s.host with rxStamps := ((k, sfd - s.f ETH.PTPLAT.RXLAT k * 4096) :: s.host.rxStamps).take 16 }
  else s

/-- The checks every frame meets first: an enabled port, its FCS, its length, room in the buffer (R359, R361). -/
def State.frameTaken (s : State) (k : Nat) (f : List Byte) (fcsOk : Bool) : Bool × State :=
  if !s.on ETH.CFG.EN k then (false, s)
  else if !fcsOk then (false, (s.setF ETH.STAT.FCS k 1).incF ETH.CNT.FCSERR k)
  else if f.length < 60 ∨ 9212 < f.length then (false, s)
  else if 262144 < s.rxFill k + f.length + 4 then (false, (s.setF ETH.STAT.DROP k 1).incF ETH.CNT.DROPS k)
  else (true, s.incF ETH.CNT.RXFRM k)

/-- TRANSMIT_STAMP: the stamp of a sent event message, TXLAT added; a one-step Pdelay_Resp leaves with the turnaround added to its
correctionField (R364, R365). -/
def transmitStamp (k seqId cross : Nat) (req : Option Nat) (s : State) : State :=
  let t := cross + s.f ETH.PTPLAT.TXLAT k * 4096
  let corr : Option Int := match req with
    | some r => if s.on ETH.PTP.CFG.ONESTEP then some ((t : Int) - r) else none
    | none => none
  s.setHost { s.host with txStamps := ((k, seqId, t, corr) :: s.host.txStamps).take 16 }

/-- LINK_CHANGE (R361). -/
def execLinkChange (k : Fin 4) (block hiber lfault rfault : Bool) (s : State) : Host.Outcome State Fault Refusal :=
  .next (linkChange k block hiber lfault rfault s)

/-- TRANSMIT_STAMP (R364). -/
def execTransmitStamp (k : Fin 4) (seqId : BitVec 16) (cross : Nat) (reqStamp : Option Nat) (s : State) : Host.Outcome State Fault Refusal :=
  .next (transmitStamp k seqId.toNat cross reqStamp s)

end Sys2Proof.Machine
end

