-- ==== Sys2Proof/Machine/Basin.lean ====
section
/-! DEFINITION. The Basin, the laser-off path, ERROR_n, the Dale's and the event counters' control words (R430–R446). -/

namespace Sys2Proof.Machine

open Sys2Proof

/-- Status bit `b` of a pair of words (R430). -/
def State.statusBit (s : State) (f : Fld) (b : Nat) : Bool := bit (s.word (f.addr (b / 64))) (b % 64)

def State.setStatusBit (s : State) (f : Fld) (b : Nat) : State :=
  s.setWord (f.addr (b / 64)) (s.word (f.addr (b / 64)) ||| wd (2 ^ (b % 64)))

/-- The 128-bit status word. -/
def State.statusWord (s : State) : Nat :=
  (s.word (BASIN.STATUS.V.addr 0)).toNat + (s.word (BASIN.STATUS.V.addr 1)).toNat * 2 ^ 64

/-- EVT BASIN: the status word, then the full MT (R389). -/
def State.evtBasin (s : State) : State := s.evt 1 0 (beBytes 16 s.statusWord ++ beBytes 8 s.mt)

/-- GOFF sets; every LGATE pin goes low (R433). -/
def State.gateOffAll (s : State) : State := (s.setBasin { s.basin with goff := true }).noteGates

/-- A raise of a class that EMASK selects drives ERROR_n low and restarts its minimum of 10,000 ns (R436). -/
def State.errorPulse (s : State) (cls : Nat) : State :=
  if (s.f BASIN.CFG.EMASK).testBit cls then s.setBasin { s.basin with errLow := true, errMinEnd := some (s.mt + 10000) } else s

/-- The reaction of each class (R432). -/
def State.classReaction (s : State) (cls : Nat) : State :=
  if cls = 0 then ((s.gateOffAll.suspendAll 4).auxCritical).evtBasin
  else if cls = 1 then
    (if s.f BASIN.CFG.SEVACT = 0 then (s.gateOffAll.suspendAll 6).evtBasin else s.evtBasin)
  else if cls = 2 then s.evtBasin
  else s

/-- The Basin takes a raise: the bit, its origin, the record, ERROR_n, the reaction (R431, R436–R438). -/
def State.takeRaise (s : State) (r : Raise) (real inj : Bool) : State :=
  let b := 32 * r.cls + r.source
  let s := s.setStatusBit BASIN.STATUS.V b
  let s := if real then s.setStatusBit BASIN.REAL.V b else s
  let s := if inj then s.setStatusBit BASIN.INJD.V b else s
  let s := ((s.event b).daleRecord r real inj).errorPulse r.cls
  if real || s.on BASIN.CFG.INJREACT then s.classReaction r.cls else s

/-- STATUS_RAISE: the Basin takes the oldest asserted error line (R431). -/
def statusRaise (s : State) : State :=
  match s.lines with
  | [] => s
  | r :: t => (s.setLines t).takeRaise r true false

/-- A raise of the Basin's own source 0, which needs no error line. -/
def State.safeRaise (s : State) (rtype : Nat) (d0 : Word) : State := s.takeRaise ⟨0, 0, rtype, 0, 1, d0, 0, s.mt⟩ true false

/-- The discrepancy of R435 starts or ends with each change of a SAFE input. -/
def State.safeChanged (s : State) : State :=
  s.setBasin { s.basin with safeDiffSince := if s.basin.safeA = s.basin.safeB then none else some s.mt }

/-- A SAFE input falls: the pins go low through the AND; the first low raises source 0 as critical (R431, R433). -/
def safeInputFall (b : Bool) (s : State) : State :=
  let wasLow := !s.basin.safeA || !s.basin.safeB
  let lvl := if b then s.basin.safeB else s.basin.safeA
  if lvl = false then s
  else
    let s := (s.setBasin (if b then { s.basin with safeB := false } else { s.basin with safeA := false })).safeChanged.noteGates
    if wasLow then s else (s.levelOn 0).safeRaise 1 (s.word (BASIN.STATUS.V.addr 0))

/-- A SAFE input rises: the level condition ends when both are high. -/
def safeInputRise (b : Bool) (s : State) : State :=
  let lvl := if b then s.basin.safeB else s.basin.safeA
  if lvl then s
  else
    let s := (s.setBasin (if b then { s.basin with safeB := true } else { s.basin with safeA := true })).safeChanged.noteGates
    if s.basin.safeA && s.basin.safeB then s.levelOff 0 else s

/-- The inputs have differed for more than 20 ms (R435). -/
def safeDiscrepancy (s : State) : State :=
  match s.basin.safeDiffSince with
  | none => s
  | some t =>
    let s := (s.reach (t + 20000001)).setBasin { s.basin with safeDiffSince := none }
    s.safeRaise 0x11 (wd (place s.basin.safeB.toNat 1 1 + s.basin.safeA.toNat))

/-- ERROR_n goes high. -/
def State.errorRelease (s : State) : State :=
  s.setBasin { s.basin with errLow := false, errFirst := false, errRelPending := false, errMinEnd := none }

/-- The minimum low time ends (R436). -/
def errorMinimumEnd (s : State) : State :=
  match s.basin.errMinEnd with
  | none => s
  | some t =>
    let s := s.reach t
    if s.basin.errRelPending then s.errorRelease
    else if s.basin.errFirst || s.on BASIN.CFG.EHOLD then s.setBasin { s.basin with errMinEnd := none, errFirst := true }
    else s.errorRelease

/-- ERREL: at once, at the minimum's end, or discarded when a raise falls in the same handshake (R436). -/
def errelEffect (s : State) : State :=
  match s.basin.errMinEnd with
  | some t => if t = s.mt + 10000 then s else s.setBasin { s.basin with errRelPending := true }
  | none => s.errorRelease

/-- What refuses a write of BASIN.CTRL or BASIN.INJ (R433, R437). -/
def basinCheck (a : Nat) (data : Word) (s : State) : Option Nat :=
  if a = BASIN.CTRL.LREARM.base ∧ BASIN.CTRL.LREARM.get data = 1 ∧ (s.unacked || !s.basin.safeA || !s.basin.safeB) = true then some 8
  else if a = BASIN.INJ.GO.base ∧ BASIN.INJ.GO.get data = 1 then
    (if !s.basin.testmode then some 3 else if 27 ≤ BASIN.INJ.BIT.get data % 32 then some 8 else none)
  else none

/-- LREARM clears GOFF; each pin stays low until its col next releases a high level (R433). -/
def lrearmEffect (s : State) : State :=
  if s.basin.goff then
    ((List.range 24).foldl (fun s n => s.setCol (24 + n) { s.col (24 + n) with level := false }) (s.setBasin { s.basin with goff := false })).noteGates
  else s

/-- An injected raise; where a real raise of the same bit falls in the same handshake, one record carries both origins (R437, R438). -/
def injectEffect (b : Nat) (s : State) : State :=
  match s.lines.find? (fun r => r.cls == b / 32 && r.source == b % 32 && r.mt == s.mt) with
  | some r => (s.setLines (s.lines.erase r)).takeRaise r true true
  | none => s.takeRaise ⟨b / 32, b % 32, 1, 0, 1, 0, 0, s.mt⟩ false true

/-- The effect of a write of BASIN.CTRL or BASIN.INJ. -/
def basinEffect (a : Nat) (data : Word) (s : State) : State :=
  if a = BASIN.CTRL.LREARM.base then
    let s := if BASIN.CTRL.LREARM.get data = 1 then lrearmEffect s else s
    if BASIN.CTRL.ERREL.get data = 1 then errelEffect s else s
  else if a = BASIN.INJ.GO.base ∧ BASIN.INJ.GO.get data = 1 then injectEffect (BASIN.INJ.BIT.get data) s
  else s

/-- The bits of a STATUS word whose condition is a level that lasts (R431). -/
def State.levelBits (s : State) (a : Nat) : Word :=
  if a = BASIN.STATUS.V.addr 0 then s.basin.levels.foldl (fun w b => if b < 64 then w ||| wd (2 ^ b) else w) 0
  else if a = BASIN.STATUS.V.addr 1 then s.basin.levels.foldl (fun w b => if 64 ≤ b then w ||| wd (2 ^ (b - 64)) else w) 0
  else 0

/-- A W1C clear of STATUS clears the same bits of REAL and INJD; a level condition sets its bit again (R431, R438). A change of the classes
above info goes to the host (R389; log entry 40). -/
def statusClearEffect (a : Nat) (data : Word) (old s : State) : State :=
  if a = BASIN.STATUS.V.addr 0 ∨ a = BASIN.STATUS.V.addr 1 then
    let i := (a - BASIN.STATUS.V.base) / 8
    let live := s.levelBits a
    let s := s.setWord (BASIN.REAL.V.addr i) ((s.word (BASIN.REAL.V.addr i) &&& ~~~ (data &&& ~~~ s.word a)) ||| (live &&& s.word a))
    let s := s.setWord (BASIN.INJD.V.addr i) (s.word (BASIN.INJD.V.addr i) &&& ~~~ data)
    if old.statusWord % 2 ^ 96 ≠ s.statusWord % 2 ^ 96 then s.evtBasin else s
  else s

/-! ### The Dale's words (R441, R442, R446) -/

/-- A write of DALE.BASE is refused while EN is 1 or when the ring would leave the Plain. -/
def daleCheck (a : Nat) (old new : State) : Option Nat :=
  if a = DALE.BASE.V.base ∧ (old.on DALE.CFG.EN || !inPlain (new.f DALE.BASE.V * 32) 262144) = true then some 8 else none

/-- Word 1 of each retired slot is cleared before the slot counts as free (R441). -/
def dalePopEffect (count : Nat) (s : State) : State :=
  let k := min count s.daleFill
  let r := s.f DALE.PTR.RIDX
  let s := (List.range k).foldl (fun s i => s.st (s.f DALE.BASE.V * 32 + 32 * ((r + i) % 8192) + 8) 0) s
  let s := (s.setF DALE.PTR.RIDX 0 ((r + k) % 16384)).setF DALE.STAT.FULL 0 0
  if s.daleFill < 8192 then s.setDale { s.dale with lossRaised := false } else s.setF DALE.STAT.FULL 0 1

def daleEffect (a : Nat) (data : Word) (s : State) : State :=
  if a = DALE.POP.COUNT.base then dalePopEffect (DALE.POP.COUNT.get data) s
  else if a = DALE.CTRL.FREEZE.base then s.setF DALE.STAT.FROZEN 0 (s.f DALE.CTRL.FREEZE)
  else s

/-! ### Event counters (R444, R445) -/

/-- The events of the catalogue. -/
def ecEvent (e : Nat) : Bool := decide (e ≤ 0x602) || (decide (0x610 ≤ e) && decide (e ≤ 0x640))

/-- A write of a reserved EVT is refused (R445). -/
def ecCheck (a : Nat) (data : Word) : Option Nat :=
  if (EC.CFG.EVT.base ≤ a ∧ (a - EC.CFG.EVT.base) % 16 = 0) ∧ ecEvent (EC.CFG.EVT.get data) = false then some 8 else none

/-- Each µs of MT (R444, event 0x640). -/
def eachUsOfMt (s : State) : State := (s.reach ((s.mt / 1000 + 1) * 1000)).event 0x640

/-- STATUS_RAISE (R431, R432, R436, R438–R440, R442–R444). -/
def execStatusRaise (s : State) : Host.Outcome State Fault Refusal := .next (statusRaise s)

/-- ERROR_MINIMUM_END (R436). -/
def execErrorMinimumEnd (s : State) : Host.Outcome State Fault Refusal := .next (errorMinimumEnd s)

/-- SAFE_INPUT_FALL (R433, R434). -/
def execSafeInputFall (b : Bool) (s : State) : Host.Outcome State Fault Refusal := .next (safeInputFall b s)

/-- SAFE_INPUT_RISE (R433). -/
def execSafeInputRise (b : Bool) (s : State) : Host.Outcome State Fault Refusal := .next (safeInputRise b s)

/-- SAFE_DISCREPANCY (R435). -/
def execSafeDiscrepancy (s : State) : Host.Outcome State Fault Refusal := .next (safeDiscrepancy s)

/-- EACH_US_OF_MT (R444). -/
def execEachUsOfMt (s : State) : Host.Outcome State Fault Refusal := .next (eachUsOfMt s)

end Sys2Proof.Machine
end

