-- ==== Sys2Proof/Machine/Inflate.lean ====
section
/-! DEFINITION. The DEFLATE formats the Gorge reads and writes (R414–R416, RFC 1950, 1951, 1952): the inflater as a machine that takes one
symbol at a time, so that a job can stop and be resumed anywhere, and the block encodings of the deflater. -/

namespace Sys2Proof.Machine

open Sys2Proof

/-! ### Bits and codes -/

/-- The bits of a byte string in stream order: the least significant bit of each byte first. -/
def bitsOf (l : List Byte) : List Bool := l.flatMap (fun b => (List.range 8).map b.getLsbD)

/-- `n` bits of the stream, the first the least significant. -/
def takeBits : Nat → List Bool → Option (Nat × List Bool)
  | 0, l => some (0, l)
  | _ + 1, [] => none
  | n + 1, b :: l => (takeBits n l).map (fun r => (b.toNat + 2 * r.1, r.2))

/-- The prefix code that a list of code lengths gives (RFC 1951, 3.2.2). -/
def mkHuff (lens : List Nat) : Huff :=
  { counts := (List.range 15).map (fun l => lens.countP (· == l + 1)),
    syms := (List.range 15).flatMap (fun l => (List.range lens.length).filter (fun i => lens.getD i 0 == l + 1)) }

/-- The code space left over: negative for an over-subscribed set, positive for an incomplete one. -/
def Huff.left (h : Huff) : Int := h.counts.foldl (fun (a : Int) c => 2 * a - c) 1

/-- What reading one code gives: not enough bits, a code outside the set, or a symbol and the bits after it. -/
inductive HuffRead where
  | short
  | bad
  | sym (s : Nat) (rest : List Bool)

/-- One bit at a time, the first bit the most significant of the code. -/
def huffGo (syms : List Nat) : List Nat → Nat → Nat → Nat → List Bool → HuffRead
  | [], _, _, _, _ => .bad
  | _ :: _, _, _, _, [] => .short
  | c :: cs, code, first, idx, b :: l =>
    let code := code + b.toNat
    if code < first + c then .sym (syms.getD (idx + (code - first)) 0) l else huffGo syms cs (2 * code) (2 * (first + c)) (idx + c) l

def Huff.read (h : Huff) (bits : List Bool) : HuffRead := huffGo h.syms h.counts 0 0 0 bits

/-- Base lengths and extra bits of the length symbols 257–285. -/
def lenBase : List Nat := [3, 4, 5, 6, 7, 8, 9, 10, 11, 13, 15, 17, 19, 23, 27, 31, 35, 43, 51, 59, 67, 83, 99, 115, 131, 163, 195, 227, 258]
def lenExtra : List Nat := [0, 0, 0, 0, 0, 0, 0, 0, 1, 1, 1, 1, 2, 2, 2, 2, 3, 3, 3, 3, 4, 4, 4, 4, 5, 5, 5, 5, 0]
/-- Base distances and extra bits of the distance symbols 0–29. -/
def distBase : List Nat := [1, 2, 3, 4, 5, 7, 9, 13, 17, 25, 33, 49, 65, 97, 129, 193, 257, 385, 513, 769, 1025, 1537, 2049, 3073, 4097, 6145,
  8193, 12289, 16385, 24577]
def distExtra : List Nat := [0, 0, 0, 0, 1, 1, 2, 2, 3, 3, 4, 4, 5, 5, 6, 6, 7, 7, 8, 8, 9, 9, 10, 10, 11, 11, 12, 12, 13, 13]

/-- The codes of a fixed block. -/
def fixedLit : Huff := mkHuff (List.replicate 144 8 ++ List.replicate 112 9 ++ List.replicate 24 7 ++ List.replicate 8 8)
def fixedDist : Huff := mkHuff (List.replicate 30 5)

/-- The order of the code length code's lengths. -/
def clenOrder : List Nat := [16, 17, 18, 0, 8, 7, 9, 6, 10, 5, 11, 4, 12, 3, 13, 2, 14, 1, 15]

/-! ### One step of the inflater -/

/-- What a step comes to: the input ends first; the output has no room; the job ends with a status; or the stream goes on. -/
inductive InfStep where
  | short
  | full
  | stop (status : Nat)
  | next (st : GStream) (rest : List Bool) (out : Option Byte)

/-- Statuses of R422. -/
def gOK : Nat := 0
def gOUTFULL : Nat := 1
def gINSHORT : Nat := 2
def gBADDESC : Nat := 4
def gUNSUP : Nat := 5
def gBADDATA : Nat := 6
def gCHECK : Nat := 7
def gVERIFY : Nat := 8
def gPOISON : Nat := 9
def gREFUSED : Nat := 0xA
def gABORTED : Nat := 0xB
def gFLUSHED : Nat := 0xC

/-- The lengths that a dynamic header spells with its code length code; `n` are wanted, `acc` holds them newest first. -/
def readLens (h : Huff) (n : Nat) : Nat → List Nat → List Bool → Except Bool (List Nat × List Bool)
  | 0, acc, bits => if acc.length = n then .ok (acc.reverse, bits) else .error true
  | fuel + 1, acc, bits =>
    if acc.length = n then .ok (acc.reverse, bits)
    else if n < acc.length then .error true
    else
      match h.read bits with
      | .short => .error false
      | .bad => .error true
      | .sym s rest =>
        if s < 16 then readLens h n fuel (s :: acc) rest
        else
          let (k, base) := if s = 16 then (2, 3) else if s = 17 then (3, 3) else (7, 11)
          match takeBits k rest with
          | none => .error false
          | some (v, rest) =>
            if s = 16 ∧ acc = [] then .error true
            else readLens h n fuel (List.replicate (base + v) (if s = 16 then acc.headD 0 else 0) ++ acc) rest

/-- The codes of a dynamic block (RFC 1951, 3.2.7); an error says whether the header is malformed rather than short. -/
def readDynamic (bits : List Bool) : Except Bool (Huff × Huff × List Bool) :=
  match takeBits 14 bits with
  | none => .error false
  | some (v, rest) =>
    let hlit := 257 + v % 32
    let hdist := 1 + v / 32 % 32
    let hclen := 4 + v / 1024
    match takeBits (3 * hclen) rest with
    | none => .error false
    | some (cv, rest) =>
      let cl := (List.range 19).map (fun i => match clenOrder.idxOf? i with
        | some j => if j < hclen then cv / 8 ^ j % 8 else 0
        | none => 0)
      let ch := mkHuff cl
      if 286 < hlit ∨ 30 < hdist ∨ ch.left ≠ 0 then .error true
      else
        match readLens ch (hlit + hdist) (hlit + hdist) [] rest with
        | .error e => .error e
        | .ok (lens, rest) =>
          let lit := mkHuff (lens.take hlit)
          let dist := mkHuff (lens.drop hlit)
          let used := dist.syms.length
          if lit.left ≠ 0 ∨ dist.left < 0 ∨ (0 < dist.left ∧ ¬(used = 0 ∨ (used = 1 ∧ dist.counts.headD 0 = 1))) then .error true
          else .ok (lit, dist, rest)

/-- Bytes from an aligned place of the stream. -/
def takeBytes : Nat → List Bool → Option (List Byte × List Bool)
  | 0, l => some ([], l)
  | n + 1, l =>
    match takeBits 8 l with
    | none => none
    | some (b, l) => (takeBytes n l).map (fun r => (BitVec.ofNat 8 b :: r.1, r.2))

/-- Bytes up to a zero byte, which is taken too. -/
def takeZ : Nat → List Bool → Option (List Byte × List Bool)
  | 0, _ => none
  | fuel + 1, l =>
    match takeBits 8 l with
    | none => none
    | some (b, l) => if b = 0 then some ([0#8], l) else (takeZ fuel l).map (fun r => (BitVec.ofNat 8 b :: r.1, r.2))

/-- The gzip header (RFC 1952): a status where it ends the job, none where the input is short, else the bits after it. -/
def gzipHead (bits : List Bool) : Option (Except Nat (List Bool)) := do
  let (h, r) ← takeBytes 10 bits
  let flg := (h.getD 3 0#8).toNat
  if h.getD 0 0#8 ≠ 0x1F#8 ∨ h.getD 1 0#8 ≠ 0x8B#8 then some (.error gBADDATA)
  else if h.getD 2 0#8 ≠ 8#8 ∨ 32 ≤ flg then some (.error gUNSUP)
  else do
    let (x, r) ← if flg.testBit 2 then do
        let (l, r) ← takeBytes 2 r
        let (d, r) ← takeBytes (leNat l) r
        some (l ++ d, r)
      else some ([], r)
    let (n, r) ← if flg.testBit 3 then takeZ r.length r else some ([], r)
    let (c, r) ← if flg.testBit 4 then takeZ r.length r else some ([], r)
    if flg.testBit 1 then do
      let (k, r) ← takeBytes 2 r
      if leNat k = crc32 (h ++ x ++ n ++ c) % 65536 then some (.ok r) else some (.error gCHECK)
    else some (.ok r)

/-- The zlib header (RFC 1950). -/
def zlibHead (bits : List Bool) : Option (Except Nat (List Bool)) := do
  let (h, r) ← takeBytes 2 bits
  let cmf := (h.getD 0 0#8).toNat
  let flg := (h.getD 1 0#8).toNat
  if (256 * cmf + flg) % 31 ≠ 0 then some (.error gBADDATA)
  else if cmf % 16 ≠ 8 ∨ 7 < cmf / 16 ∨ flg.testBit 5 then some (.error gUNSUP)
  else some (.ok r)

/-- Adler-32 moved on by a byte. -/
def adlerByte (v : Nat) (b : Byte) : Nat :=
  let a := (v % 65536 + b.toNat) % 65521
  ((v / 65536 + a) % 65521) * 65536 + a

/-- The running check of a stream of format `fmt` moved on by a byte (R418, CHECK). -/
def checkByte (fmt v : Nat) (b : Byte) : Nat :=
  if fmt = 1 then adlerByte v b else if fmt = 2 then (crcByte 0xEDB88320 (v ^^^ 0xFFFFFFFF) b) ^^^ 0xFFFFFFFF else 0

/-- A byte leaves the inflater: history, total and check follow. -/
def GStream.emit (st : GStream) (b : Byte) : GStream :=
  { st with totOut := st.totOut + 1, check := checkByte st.fmt st.check b, hist := (b :: st.hist).take 32768 }

/-- The stream's bits used up to a later place. -/
def GStream.upTo (st : GStream) (bits rest : List Bool) : GStream := { st with pos := (st.pos + (bits.length - rest.length)) % 8 }

/-- The bits to the next byte boundary dropped. -/
def GStream.align (st : GStream) (bits : List Bool) : List Bool := bits.drop ((8 - st.pos % 8) % 8)

/-- One symbol: a header, a block header, a literal or a match, one byte of a stored block or of a match, the trailer. -/
def infStep (st : GStream) (bits : List Bool) (room : Bool) : InfStep :=
  let go (st' : GStream) (rest : List Bool) (out : Option Byte) : InfStep := .next (st'.upTo bits rest) rest out
  match st.phase with
  | .head =>
    if st.fmt = 0 then .next { st with phase := .block } bits none
    else
      match (if st.fmt = 1 then zlibHead bits else gzipHead bits) with
      | none => .short
      | some (.error e) => .stop e
      | some (.ok rest) => go { st with phase := .block } rest none
  | .block =>
    match takeBits 3 bits with
    | none => .short
    | some (v, rest) =>
      let fin := v % 2 = 1
      if v / 2 = 0 then
        let rest := (st.upTo bits rest).align rest
        match takeBits 32 rest with
        | none => .short
        | some (w, rest) =>
          if w % 65536 + w / 65536 = 65535 then
            go { st with phase := if w % 65536 = 0 then (if fin then .tail else .block) else .stored (w % 65536) fin } rest none
          else .stop gBADDATA
      else if v / 2 = 1 then go { st with phase := .codes fixedLit fixedDist fin } rest none
      else if v / 2 = 2 then
        match readDynamic rest with
        | .error true => .stop gBADDATA
        | .error false => .short
        | .ok (lit, dist, rest) => go { st with phase := .codes lit dist fin } rest none
      else .stop gBADDATA
  | .stored n fin =>
    if !room then .full
    else
      match takeBits 8 bits with
      | none => .short
      | some (b, rest) =>
        go { st.emit (BitVec.ofNat 8 b) with phase := if n = 1 then (if fin then .tail else .block) else .stored (n - 1) fin } rest
          (some (BitVec.ofNat 8 b))
  | .codes lit dist fin =>
    match lit.read bits with
    | .short => .short
    | .bad => .stop gBADDATA
    | .sym s rest =>
      if s < 256 then
        if !room then .full else go (st.emit (BitVec.ofNat 8 s)) rest (some (BitVec.ofNat 8 s))
      else if s = 256 then go { st with phase := if fin then .tail else .block } rest none
      else if 285 < s then .stop gBADDATA
      else
        match takeBits (lenExtra.getD (s - 257) 0) rest with
        | none => .short
        | some (le, rest) =>
          match dist.read rest with
          | .short => .short
          | .bad => .stop gBADDATA
          | .sym ds rest =>
            match takeBits (distExtra.getD ds 0) rest with
            | none => .short
            | some (de, rest) =>
              let d := distBase.getD ds 0 + de
              if 29 < ds ∨ st.totOut < d ∨ st.hist.length < d then .stop gBADDATA
              else go { st with phase := .copy (lenBase.getD (s - 257) 0 + le) d lit dist fin } rest none
  | .copy n d lit dist fin =>
    if !room then .full
    else
      let b := st.hist.getD (d - 1) 0#8
      .next { st.emit b with phase := if n = 1 then .codes lit dist fin else .copy (n - 1) d lit dist fin } bits (some b)
  | .tail =>
    let rest := st.align bits
    if st.fmt = 0 then go { st with phase := .done } rest none
    else
      match takeBytes (if st.fmt = 1 then 4 else 8) rest with
      | none => .short
      | some (t, rest) =>
        let good : Bool := if st.fmt = 1 then beNat t == st.check
          else leNat (t.take 4) == st.check && leNat (t.drop 4) == st.totOut % 2 ^ 32
        if good then go { st with phase := .done } rest none else .stop gCHECK
  | .done => .stop gOK

/-- The run of the inflater: at most `fuel` symbols, `room` output bytes; the answer is the status, the stream, the bits left and the
output, newest first. Running out of `fuel` is the stop of an abort (R428). -/
def infRun : Nat → GStream → List Bool → Nat → List Byte → Nat × GStream × List Bool × List Byte
  | 0, st, bits, _, out => (gABORTED, st, bits, out)
  | fuel + 1, st, bits, room, out =>
    match infStep st bits (room != 0) with
    | .short => (gINSHORT, st, bits, out)
    | .full => (gOUTFULL, st, bits, out)
    | .stop e => (e, st, bits, out)
    | .next st bits none => infRun fuel st bits room out
    | .next st bits (some b) => infRun fuel st bits (room - 1) (b :: out)

/-! ### Block encodings (R416) -/

/-- The low `n` bits of a number in stream order. -/
def bitsLsb (n v : Nat) : List Bool := (List.range n).map v.testBit
/-- The low `n` bits of a code, the most significant first. -/
def bitsMsb (n v : Nat) : List Bool := (bitsLsb n v).reverse

/-- The fixed code of a literal or length symbol. -/
def fixedSym (s : Nat) : List Bool :=
  if s < 144 then bitsMsb 8 (0x30 + s) else if s < 256 then bitsMsb 9 (0x190 + (s - 144)) else if s < 280 then bitsMsb 7 (s - 256)
  else bitsMsb 8 (0xC0 + (s - 280))

/-- The last entry of a table of bases at or below `v`. -/
def baseOf (t : List Nat) (v : Nat) : Nat := (t.countP (· ≤ v)) - 1

/-- A literal or a match in the fixed codes. -/
def fixedTok (t : Nat × Nat) : List Bool :=
  if t.1 = 0 then fixedSym (t.2 % 256)
  else
    let i := baseOf lenBase t.1
    let j := baseOf distBase t.2
    fixedSym (257 + i) ++ bitsLsb (lenExtra.getD i 0) (t.1 - lenBase.getD i 0) ++ bitsMsb 5 j ++ bitsLsb (distExtra.getD j 0) (t.2 - distBase.getD j 0)

/-- A block with fixed codes. -/
def fixedBlock (toks : List (Nat × Nat)) (fin : Bool) : List Bool := [fin, true, false] ++ toks.flatMap fixedTok ++ fixedSym 256

/-- A block of stored bytes from bit place `pos`, in pieces of at most 65,535. -/
def storedBlock : Nat → Nat → List Byte → Bool → List Bool
  | 0, _, _, _ => []
  | fuel + 1, pos, l, fin =>
    let h := l.take 65535
    let t := l.drop 65535
    let last := t.isEmpty
    [fin && last, false, false] ++ List.replicate ((8 - (pos + 3) % 8) % 8) false ++ bitsLsb 16 h.length ++ bitsLsb 16 (65535 - h.length) ++ bitsOf h ++
      (if last then [] else storedBlock fuel 0 t fin)

/-- The shortest of the three encodings, ties to dynamic, then fixed. -/
def encodeBlock (hist block : List Byte) (depth : Nat) (lazy_ fin : Bool) (pos : Nat) : List Bool :=
  let toks := Config.lzParse hist block depth lazy_
  let d := Config.dynBlock toks fin
  let f := fixedBlock toks fin
  let st := storedBlock (block.length / 65535 + 1) pos block fin
  let best := if d.length ≤ f.length then d else f
  if best.length ≤ st.length then best else st

/-- The whole bytes of a bit string, and the bits left over. -/
def packBits : Nat → List Bool → List Byte × List Bool
  | 0, l => ([], l)
  | n + 1, l =>
    match takeBits 8 l with
    | none => ([], l)
    | some (b, l) => let r := packBits n l; (BitVec.ofNat 8 b :: r.1, r.2)

/-- A byte string cut into pieces of `n`. -/
def chunks (n : Nat) : Nat → List Byte → List (List Byte)
  | 0, _ => []
  | fuel + 1, l => if l = [] then [] else l.take n :: chunks n fuel (l.drop n)

end Sys2Proof.Machine
end

