-- ==== Sys2Proof/Machine/Gorge.lean ====
section
/-! DEFINITION. The Gorge (chapter 16): job submission, descriptors, the two channels' runs, state areas, self-verification, aborts. -/

namespace Sys2Proof.Machine

open Sys2Proof

def State.gchan (s : State) (c : Nat) : GChan := tget (fun _ => {}) s.gorge c
def State.setGchan (s : State) (c : Nat) (x : GChan) : State := s.setGorge (tset (fun _ => {}) s.gorge c x)

/-- Whether `n` bytes from `a` lie in the Plain or in installed DRAM. -/
def State.gorgeMem (s : State) (a n : Nat) : Bool := n == 0 || inPlain a n || s.inDram a n

/-- QFILL and RUN follow the channel (R429). -/
def State.gorgeUpdate (s : State) (c : Nat) : State :=
  let x := s.gchan c
  (s.setF GORGEN.STAT.QFILL c (x.queue.length + x.job.isSome.toNat)).setF GORGEN.STAT.RUN c x.job.isSome.toNat

/-! ### Descriptors (R418, R419) -/

def gOp (ws : List Word) : Nat := bits (ws.getD 0 0) 63 56
def gFmt (ws : List Word) : Nat := bits (ws.getD 0 0) 55 54
def gResume (ws : List Word) : Bool := bit (ws.getD 0 0) 53
def gFlush (ws : List Word) : Nat := bits (ws.getD 0 0) 51 50
def gDepth (ws : List Word) : Nat := bits (ws.getD 0 0) 47 40
def gBlk (ws : List Word) : Nat := bits (ws.getD 0 0) 39 36
def gLazy (ws : List Word) : Bool := bit (ws.getD 0 0) 35
def gNotify (ws : List Word) : Nat := bits (ws.getD 0 0) 21 12
def gStream (ws : List Word) : Nat := bits (ws.getD 0 0) 11 4
def gSrc (ws : List Word) : Nat := bits (ws.getD 1 0) 47 0
def gDst (ws : List Word) : Nat := bits (ws.getD 2 0) 47 0
def gSrcLen (ws : List Word) : Nat := bits (ws.getD 3 0) 63 32
def gDstLen (ws : List Word) : Nat := bits (ws.getD 3 0) 31 0
def gChain (ws : List Word) : Nat := bits (ws.getD 4 0) 47 0
def gState (ws : List Word) : Nat := bits (ws.getD 5 0) 47 0

/-- The length of a state area (R424). -/
def gArea : Nat := 34816

/-- The buffers of an overflow chain: up to 16 entries, ended by one of length 0 (R420). -/
def State.gorgeChain (s : State) (a : Nat) : Nat → List (Nat × Nat)
  | 0 => []
  | n + 1 =>
    let len := bits (s.ld (a + 8)) 31 0
    if len = 0 then [] else (bits (s.ld a) 47 0, len) :: s.gorgeChain (a + 16) n

/-- The output regions of a job in order. -/
def State.gorgeOut (s : State) (ws : List Word) : List (Nat × Nat) :=
  (gDst ws, gDstLen ws) :: (if gChain ws = 0 then [] else s.gorgeChain (gChain ws) 16)

/-- Whether two ranges share a byte. -/
def overlaps (a n b m : Nat) : Bool := decide (0 < n ∧ 0 < m ∧ a < b + m ∧ b < a + n)

/-- What makes a descriptor BADDESC on channel `c` (R419). -/
def State.gorgeBad (s : State) (c : Nat) (ws : List Word) : Bool :=
  let w0 := ws.getD 0 0
  let out := s.gorgeOut ws
  decide (gOp ws ≠ c + 1) || decide (gFmt ws = 3) || decide (gFlush ws = 3) || bit w0 52 || decide (bits w0 49 48 ≠ 0) ||
  decide (bits w0 34 22 ≠ 0) || decide (bits w0 3 0 ≠ 0) || decide (128 < gDepth ws) || decide (4 < gBlk ws) ||
  (c == 0 && (decide (gFlush ws ≠ 0) || decide (gDepth ws ≠ 0) || decide (gBlk ws ≠ 0) || gLazy ws)) ||
  [1, 2, 4, 5].any (fun i => bits (ws.getD i 0) 63 48 != 0) || decide (gDstLen ws = 0) ||
  decide (gChain ws % 16 ≠ 0) || decide (gState ws % 64 ≠ 0) ||
  !s.gorgeMem (gSrc ws) (gSrcLen ws) || out.any (fun r => !s.gorgeMem r.1 r.2) ||
  (gChain ws != 0 && !s.gorgeMem (gChain ws) 16) ||
  (gState ws != 0 && !s.gorgeMem (gState ws) gArea) ||
  out.any (fun r => overlaps (gSrc ws) (gSrcLen ws) r.1 r.2) ||
  (gState ws != 0 && overlaps (gSrc ws) (gSrcLen ws) (gState ws) gArea) ||
  (gResume ws && gState ws == 0) ||
  (gState ws != 0 && (match (s.gchan (1 - c)).job with
    | some j => gState j.words == gState ws
    | none => false))

/-! ### State areas (R424, R425) -/

/-- The header's words without the CRC. -/
def gHeader (st : GStream) : List Word :=
  [wd (place 0x53475247 32 32 + place st.op 8 24 + place st.fmt 2 22 + 1), wd st.totIn, wd st.totOut, 0, 0, 0, 0]

/-- The CRC of the area at `a` as it stands, its own field taken as 0. -/
def State.gorgeCrc (s : State) (a : Nat) : Nat := crc32 (s.bytes a 56 ++ List.replicate 4 0#8 ++ s.bytes (a + 60) (gArea - 60))

/-- The bytes after the header, whose layout is not documented (log entry 31). -/
def gRest (st : GStream) : List Byte := (List.range (gArea - 64)).map (Config.gorgeByte [st.totIn, st.totOut, st.check, st.hist.length, st.carry.length])

/-- The engine saves a stream in the area at `a`. -/
def State.gorgeSave (s : State) (a : Nat) (st : GStream) : State :=
  let s := (s.sts a (gHeader st ++ [0])).setBytes (a + 64) (gRest st)
  let h := gHeader st ++ [wd (s.gorgeCrc a)]
  (s.sts a h).setGorgeSaves (⟨h, st⟩ :: s.gorgeSaves.filter (fun g => g.header != h))

/-- The stream a resumed job continues, where the area passes its check; a valid area the engine did not save continues a stream with
nothing behind it (log entry 31). -/
def State.gorgeRestore (s : State) (ws : List Word) : Option GStream :=
  let a := gState ws
  let h := s.lds a 8
  let w0 := h.getD 0 0
  if bits w0 63 32 ≠ 0x53475247 ∨ bit w0 0 = false ∨ bits w0 31 24 ≠ gOp ws ∨ bits w0 23 22 ≠ gFmt ws ∨
      bits (h.getD 7 0) 31 0 ≠ s.gorgeCrc a then none
  else match s.gorgeSaves.find? (fun g => g.header == h) with
    | some g => some g.stream
    | none => some { op := gOp ws, fmt := gFmt ws, totIn := (h.getD 1 0).toNat, totOut := (h.getD 2 0).toNat, phase := .block, begun := true }

/-- A new stream. -/
def gFresh (ws : List Word) : GStream := { op := gOp ws, fmt := gFmt ws, check := if gFmt ws = 1 then 1 else 0 }

/-! ### Submission and start (R417, R419) -/

/-- GORGE_JOB_SUBMIT: a job command is queued, refused, or stalls its producer while 16 jobs are queued. -/
def gorgeSubmit (t : Token) (s : State) : State :=
  let c := t.stream.toNat
  let a := bits t.payload 47 6 * 64
  if t.err then s.refuse 9 t 5
  else if t.kind ≠ 2#4 then s.refuse 9 t 7
  else if 1 < c ∨ bits t.payload 63 48 ≠ 0 ∨ bits t.payload 5 0 ≠ 0 ∨ s.gorgeMem a 64 = false then s.refuse 9 t 4
  else
    let x := s.gchan c
    (s.setGchan c { x with queue := x.queue ++ [a] }).gorgeUpdate c

/-- Whether a job command finds its channel full. -/
def State.gorgeFull (s : State) (t : Token) : Bool :=
  t.kind == 2#4 && decide (t.stream.toNat < 2) && decide (16 ≤ s.f GORGEN.STAT.QFILL t.stream.toNat)

def gorgeJobSubmit (t : Token) (s : State) : State :=
  if t.dest ≠ 9#10 ∨ s.gorgeFull t = true then s else s.arrive 9 [t] (fun s => s.whenDue [t] (gorgeSubmit t))

/-- GORGE_JOB_START: the next queued job, its descriptor read and checked, its state restored. -/
def gorgeJobStart (c : Nat) (s : State) : State :=
  let x := s.gchan c
  match x.job, x.queue with
  | none, a :: rest =>
    let ws := s.lds a 6
    let preset : Option Nat :=
      if s.gorgeMem a 64 = false then some gREFUSED
      else if s.anyUe a 8 then some gPOISON
      else if s.gorgeBad c ws then some gBADDESC
      else if gResume ws then
        if s.anyUe (gState ws) (gArea / 8) then some gPOISON else if (s.gorgeRestore ws).isNone then some gBADDESC else none
      else none
    let stream := if preset.isNone ∧ gResume ws then (s.gorgeRestore ws).getD (gFresh ws) else gFresh ws
    ((s.setGchan c { x with queue := rest, job := some ⟨a, ws, stream, preset⟩ }).setF GORGEN.DESC.ADDR c (a / 64)).gorgeUpdate c
  | _, _ => s

/-! ### Runs (R415, R416, R420, R423, R427) -/

/-- The input bytes before the first word that carries an uncorrectable error (R37). -/
def State.gorgeClean (s : State) (a n : Nat) : Nat :=
  s.eccs.foldl (fun m e => if e.2 = some .double ∧ a < e.1 + 8 ∧ e.1 < a + n then min m (e.1 - a) else m) n

/-- What a run comes to: the status, the stream after it, the input bytes consumed, the output. -/
structure GRun where
  status : Nat
  stream : GStream
  used : Nat
  out : List Byte

/-- An inflation; `limit` bounds its symbols where an abort stops it. -/
def State.runInflate (s : State) (j : GJob) (limit : Option Nat) : GRun :=
  let len := gSrcLen j.words
  let clean := s.gorgeClean (gSrc j.words) len
  let room := (s.gorgeOut j.words).foldl (fun a r => a + r.2) 0
  let st := j.stream
  let all := st.carry ++ (bitsOf (s.bytes (gSrc j.words) clean)).drop st.skip
  let fuel := all.length + room + 16
  let (status, st', rest, out) := infRun (match limit with | some k => min k fuel | none => fuel) st all room []
  let used := all.length - rest.length
  let p := used - st.carry.length + st.skip
  let ended (k skip : Nat) (carry : List Bool) (status : Nat) : GRun :=
    ⟨status, { st' with totIn := st.totIn + k, carry := carry, skip := skip }, k, out.reverse⟩
  if status = gINSHORT ∧ clean = len then ended len 0 rest gINSHORT
  else
    let status := if status = gINSHORT then gPOISON else status
    if used < st.carry.length then ended 0 st.skip (st.carry.drop used) status
    else if status = gOK then ended ((p + 7) / 8) 0 [] gOK
    else ended (p / 8) (p % 8) [] status

/-- The header of a new deflated stream (R414). -/
def gHead (fmt : Nat) : List Byte :=
  if fmt = 1 then [0x78#8, 0x9C#8] else if fmt = 2 then [0x1F#8, 0x8B#8, 8#8, 0#8, 0#8, 0#8, 0#8, 0#8, 0#8, 255#8] else []

/-- The trailer. -/
def gTail (fmt check total : Nat) : List Byte :=
  if fmt = 1 then beBytes 4 check else if fmt = 2 then leBytes 4 check ++ leBytes 4 (total % 2 ^ 32) else []

/-- The bits that pad a string to a byte boundary. -/
def padBits (l : List Bool) : List Bool := List.replicate ((8 - l.length % 8) % 8) false

/-- Whether the channel's own inflater gives a block back from its bits (R427). -/
def gVerify (st : GStream) (enc : List Bool) (block : List Byte) (fin : Bool) : Bool :=
  let v : GStream := { phase := .block, hist := st.hist, totOut := st.totIn, pos := st.carry.length % 8 }
  let r := infRun (enc.length + block.length + 4) v enc block.length []
  r.2.2.2.reverse == block && r.2.2.1.isEmpty &&
  (match r.2.1.phase with | .block => !fin | .done => fin | _ => false)

/-- The deflated blocks in turn: `clean` blocks come before a poisoned word, `limit` more before an abort; a block is written only where
its whole encoding fits the `room` (R423), and only when the channel's inflater gives it back (R427). -/
def deflateGo (ws : List Word) (room : Nat) : List (List Byte) → GStream → Nat → Nat → Option Nat → List Byte → GRun
  | [], st, used, _, _, out => ⟨gOK, st, used, out⟩
  | b :: rest, st, used, clean, limit, out =>
    match limit, clean with
    | some 0, _ => ⟨gABORTED, st, used, out⟩
    | _, 0 => ⟨gPOISON, st, used, out⟩
    | _, clean + 1 =>
      let last := rest.isEmpty
      let fin := last && gFlush ws == 2
      let enc := encodeBlock st.hist b (if gDepth ws = 0 then 8 else gDepth ws) (gLazy ws) fin st.carry.length
      let check := b.foldl (checkByte st.fmt) st.check
      let total := st.totIn + b.length
      let whole := st.carry ++ enc
      let whole := if fin then whole ++ padBits whole ++ bitsOf (gTail st.fmt check total)
        else if last && gFlush ws == 1 then
          let w := whole ++ [false, false, false]
          w ++ padBits w ++ bitsOf [0#8, 0#8, 0xFF#8, 0xFF#8]
        else whole
      let (bytes, left) := packBits (whole.length / 8) whole
      if room < out.length + bytes.length then ⟨gOUTFULL, st, used, out⟩
      else if !gVerify st enc b fin then ⟨gVERIFY, st, used, out⟩
      else
        deflateGo ws room rest { st with totIn := total, totOut := st.totOut + bytes.length, check := check,
                                         hist := (b.reverse ++ st.hist).take 32768, carry := left }
          (used + b.length) clean (limit.map (· - 1)) (out ++ bytes)

/-- A deflation; `limit` bounds its blocks where an abort stops it. -/
def State.runDeflate (s : State) (j : GJob) (limit : Option Nat) : GRun :=
  let ws := j.words
  let len := gSrcLen ws
  let size := 2 ^ (12 + gBlk ws)
  let data := s.bytes (gSrc ws) len
  let clean := s.gorgeClean (gSrc ws) len
  let room := (s.gorgeOut ws).foldl (fun a r => a + r.2) 0
  let head := if j.stream.begun then [] else gHead j.stream.fmt
  let st := { j.stream with begun := true, totOut := j.stream.totOut + head.length }
  if room < head.length then ⟨gOUTFULL, j.stream, 0, []⟩
  else
    let blocks := if data = [] then (if gFlush ws = 2 then [[]] else []) else chunks size (len / size + 1) data
    if blocks = [] then
      if gFlush ws = 1 then
        let w := st.carry ++ [false, false, false]
        let (bytes, left) := packBits (w.length + 40) (w ++ padBits w ++ bitsOf [0#8, 0#8, 0xFF#8, 0xFF#8])
        if room < head.length + bytes.length then ⟨gOUTFULL, st, 0, head⟩
        else ⟨gOK, { st with carry := left, totOut := st.totOut + bytes.length }, 0, head ++ bytes⟩
      else ⟨gOK, st, 0, head⟩
    else deflateGo ws room blocks st 0 (if clean = len then blocks.length else clean / size) limit head

/-! ### Endings (R421–R424, R427, R429) -/

/-- Bytes written where they stand, the error marks of the words they touch cleared. -/
def State.putBytes (s : State) (a : Nat) (l : List Byte) : State :=
  (s.setBytes a l).setEccs (s.eccs.filter (fun e => !overlaps a l.length e.1 8))

/-- Output into the regions in order; the answer counts the regions written. -/
def State.putRegions (s : State) : List (Nat × Nat) → List Byte → Nat → State × Nat
  | [], _, n => (s, n)
  | r :: rs, l, n => if l = [] then (s, n) else (s.putBytes r.1 (l.take r.2)).putRegions rs (l.drop r.2) (n + 1)

/-- The counters and flags of an ending (R429). -/
def State.gorgeCount (s : State) (c status : Nat) : State :=
  let s := (s.setF GORGEN.STAT.LAST c status).incF GORGE.CNT.JOBS 0
  if status = gBADDATA ∨ status = gUNSUP then (s.setF GORGE.STAT.DATAERR 0 1).incF GORGE.CNT.DATAERRS 0
  else if status = gCHECK then (s.setF GORGE.STAT.CHKERR 0 1).incF GORGE.CNT.CHKERRS 0
  else if status = gPOISON then s.setF GORGE.STAT.POISON 0 1
  else if status = gREFUSED then s.setF GORGE.STAT.REFUSED 0 1
  else s

/-- Words 6 and 7 and the completion token of a job at `a` (R421). -/
def State.gorgeReport (s : State) (a : Nat) (ws : List Word) (status chused check used out : Nat) : State :=
  if s.gorgeMem a 64 = false then s
  else
    let w6 := wd (place status 8 56 + place chused 8 48 + place check 32 0)
    let w7 := wd (place used 32 32 + place out 32 0)
    let s := (s.st (a + 48) w6).st (a + 56) w7
    if gNotify ws = 0 then s else s.sendMsg 9 (gNotify ws) kindRSP (gStream ws) [w6, w7]

/-- A status with which a stream can be continued (R422). -/
def gResumable (status : Nat) : Bool := status == gOUTFULL || status == gINSHORT || status == gVERIFY || status == gABORTED

/-- The run of the job a channel holds. -/
def State.gorgeRun (s : State) (c : Nat) (j : GJob) (limit : Option Nat) : GRun :=
  match j.preset with
  | some e => ⟨e, j.stream, 0, []⟩
  | none => if c = 0 then s.runInflate j limit else s.runDeflate j limit

/-- The ending of the running job of channel `c`. -/
def State.gorgeEnd (s : State) (c : Nat) (limit : Option Nat) : State :=
  let x := s.gchan c
  match x.job with
  | none => s
  | some j =>
    let r := s.gorgeRun c j limit
    let (s, n) := s.putRegions (s.gorgeOut j.words) r.out 0
    let keep : Bool := gState j.words != 0 && j.preset.isNone && (gResumable r.status || (c == 1 && r.status == gOK && gFlush j.words != 2))
    let s := if keep then s.gorgeSave (gState j.words) r.stream else s
    let s := s.gorgeReport j.addr j.words r.status (n - 1) (if gFmt j.words = 0 then 0 else r.stream.check) r.used r.out.length
    let s := ((s.incF GORGEN.BYTES.IN c r.used).incF GORGEN.BYTES.OUT c r.out.length).gorgeCount c r.status
    let v := if r.status = gVERIFY then x.verifies + 1 else 0
    let s := (s.setGchan c { x with job := none, verifies := v }).gorgeUpdate c
    if r.status = gVERIFY then
      let s := ((s.setF GORGE.STAT.VERR 0 1).incF GORGE.CNT.VERRS 0).raise 2 19 c 9 6 (wd j.addr) (wd r.stream.totIn)
      if v = 3 then s.severe 19 c 9 else s
    else s

/-- GORGE_JOB_END. -/
def gorgeJobEnd (c : Nat) (s : State) : State := s.gorgeEnd c none

/-- The queued jobs of a channel end FLUSHED in queue order (R428). -/
def State.gorgeFlush (s : State) (c : Nat) : State :=
  let q := (s.gchan c).queue
  let s := (s.setGchan c { s.gchan c with queue := [] }).gorgeUpdate c
  q.foldl (fun s a => ((s.gorgeReport a (s.lds a 6) gFLUSHED 0 0 0 0).gorgeCount c gFLUSHED).setF GORGEN.DESC.ADDR c (a / 64)) s

/-- GORGE_ABORT: the running job stops after `progress` symbols or blocks, the queued jobs are flushed (R428). -/
def gorgeAbortAct (t : Token) (progress : Nat) (s : State) : State :=
  if t.err then s.refuse 9 t 5
  else if t.kind ≠ 2#4 then s.refuse 9 t 7
  else if bits t.payload 63 56 ≠ 0x10 ∨ bits t.payload 55 1 ≠ 0 then s.refuse 9 t 4
  else
    let c := bits t.payload 0 0
    (s.gorgeEnd c (some progress)).gorgeFlush c

def gorgeAbort (t : Token) (progress : Nat) (s : State) : State :=
  if t.dest ≠ 9#10 ∨ t.stream ≠ 2#8 then s else s.arrive 9 [t] (fun s => s.whenDue [t] (gorgeAbortAct t progress))

/-- GORGE_JOB_SUBMIT (R417). -/
def execGorgeJobSubmit (tok : Token) (s : State) : Host.Outcome State Fault Refusal := .next (gorgeJobSubmit tok s)

/-- GORGE_JOB_START (R419). -/
def execGorgeJobStart (c : Fin 2) (s : State) : Host.Outcome State Fault Refusal := .next (gorgeJobStart c s)

/-- GORGE_JOB_END (R421). -/
def execGorgeJobEnd (c : Fin 2) (s : State) : Host.Outcome State Fault Refusal := .next (gorgeJobEnd c s)

/-- GORGE_ABORT (R428). -/
def execGorgeAbort (tok : Token) (progress : Nat) (s : State) : Host.Outcome State Fault Refusal := .next (gorgeAbort tok progress s)

end Sys2Proof.Machine
end

