-- ==== Sys2Proof/Machine/Dram.lean ====
section
/-! DEFINITION. The DRAM controller (R391–R413): mapping, page policy, refresh, disturbance management, power states, calibration,
ECC and the patrol scrub. -/

namespace Sys2Proof.Machine

open Sys2Proof

def State.bank (s : State) (k : Nat) : DramBank := tget (fun _ => {}) s.dramBanks k
def State.setBank (s : State) (k : Nat) (b : DramBank) : State := s.setDramBanks (tset (fun _ => {}) s.dramBanks k b)
def State.rank (s : State) (j : Nat) : DramRank := tget (fun _ => {}) s.dramRanks j
def State.setRank (s : State) (j : Nat) (r : DramRank) : State := s.setDramRanks (tset (fun _ => {}) s.dramRanks j r)
def State.chan (s : State) (c : Nat) : DramChan := tget (fun _ => {}) s.dramChans c
def State.setChan (s : State) (c : Nat) (d : DramChan) : State := s.setDramChans (tset (fun _ => {}) s.dramChans c d)

/-! ### Mapping (R394) -/

/-- The parity of the low `n` bits of a number. -/
def parity : Nat → Nat → Nat
  | 0, _ => 0
  | n + 1, v => (v % 2 + parity n (v / 2)) % 2

/-- Selector `i` of a DRAM offset: the XOR of the offset bits HASH[i] names. -/
def State.sel (s : State) (i off : Nat) : Nat := parity 36 (off &&& s.f DRAM.MAP.HASH.MASK i)

def State.twoRanks (s : State) : Bool := s.f DRAM.CFG.RANKS == 2

def State.chOf (s : State) (off : Nat) : Nat := s.sel 1 off
/-- The rank's number j = 2 × channel + rank. -/
def State.rankOf (s : State) (off : Nat) : Nat := 2 * s.chOf off + (if s.twoRanks then s.sel 7 off else 0)
/-- Bank group × 4 + bank. -/
def State.bankOf (s : State) (off : Nat) : Nat :=
  (s.sel 6 off * 4 + s.sel 5 off * 2 + s.sel 4 off) * 4 + s.sel 3 off * 2 + s.sel 2 off
/-- The row: A[35:20] with two ranks, A[35:19] with one. -/
def State.rowOf (s : State) (off : Nat) : Nat := if s.twoRanks then off / 2 ^ 20 % 2 ^ 16 else off / 2 ^ 19 % 2 ^ 17
/-- The key of a bank: rank j, subchannel, bank. -/
def bankKey (j sc bank : Nat) : Nat := (j * 2 + sc) * 32 + bank
def State.bankKeyOf (s : State) (off : Nat) : Nat := bankKey (s.rankOf off) (s.sel 0 off) (s.bankOf off)

/-- The home bit of each selector. -/
def homeBit (i : Nat) : Nat := [6, 7, 14, 15, 16, 17, 18, 19].getD i 0

/-- What refuses a write of HASH[i] (R394). -/
def hashCheck (i : Nat) (data : Word) (s : State) : Option Nat :=
  let m := bits data 35 0
  let others := ((List.range 8).filter (· != i)).foldl (fun a j => a + 2 ^ homeBit j) 0
  if s.on DRAM.CFG.EN then some 8
  else if i = 7 ∧ s.f DRAM.CFG.RANKS = 1 then some 8
  else if m.testBit (homeBit i) = false then some 8
  else if m &&& others ≠ 0 ∨ m % 64 ≠ 0 then some 8
  else if s.f DRAM.CFG.CAPG ≠ 0 ∧ s.f DRAM.CFG.CAPG * 2 ^ 30 ≤ m then some 8
  else none

/-! ### Row activations: the space-saving table, RFM and throttles (R404, R405) -/

/-- The table of 16 srcs counts one activation; a new src takes the place of the least count and its count. -/
def spaceSaving (t : List (Nat × Nat)) (src : Nat) : List (Nat × Nat) :=
  match t.find? (fun p => p.1 == src) with
  | some p => (src, p.2 + 1) :: t.filter (fun q => q.1 != src)
  | none =>
    if t.length < 16 then (src, 1) :: t
    else
      let m := t.foldl (fun (a : Nat × Nat) p => if p.2 < a.2 then p else a) (t.getD 0 (0, 0))
      (src, m.2 + 1) :: t.filter (fun q => q.1 != m.1)

/-- The src with the largest count. -/
def topSrc (t : List (Nat × Nat)) : Nat × Nat := t.foldl (fun (a : Nat × Nat) p => if a.2 < p.2 then p else a) (0, 0)

/-- An activation of `src` on channel `c` counts in the window of RD.TWIN µs. -/
def State.countAct (s : State) (c src : Nat) : State :=
  if !s.on DRAM.RD.EN then s
  else
    let d := s.chan c
    let d := if d.winStart + s.f DRAM.RD.TWIN * 1000 ≤ s.mt then { d with winStart := s.mt, winActs := 0, acts := [] } else d
    s.setChan c { d with acts := spaceSaving d.acts src, winActs := d.winActs + 1 }

/-- One RFM of a bank: RAA falls by RAAIMT, RFMS counts, and the src with the largest count is judged (R404, R405). -/
def State.doRfm (s : State) (j sc bank : Nat) : State :=
  let k := bankKey j sc bank
  let b := s.bank k
  let s := (s.setBank k { b with raa := b.raa - s.raaimt }).incF DRAM.CNT.RFMS 0
  let c := j / 2
  let d := s.chan c
  let top := topSrc d.acts
  if s.on DRAM.RD.EN && decide (s.f DRAM.RD.TSHARE * d.winActs < 100 * top.2) then
    let t : Throttle := ⟨top.1, s.mt + s.f DRAM.RD.TDUR * 1000, s.mt + s.f DRAM.RD.TGAP⟩
    let s := s.setChan c { d with throttles := t :: d.throttles.filter (fun x => x.src != top.1) }
    ((s.setF DRAM.STAT.THROT 0 1).incF DRAM.CNT.THROTS 0).raise 2 5 c 0xC 5
      (wd (place top.1 10 0 + place bank 5 16 + place (j % 2) 1 21)) (wd top.2)
  else s

/-! ### Requests -/

/-- A rank leaves power-down (R406). -/
def State.wakeRank (s : State) (j : Nat) : State :=
  if s.f DRAM.RANK.STAT.STATE j = 1 then s.setF DRAM.RANK.STAT.STATE j 0 else s

/-- An ACT for a throttled src waits for TGAP since its last one (R405). -/
def State.throttleWait (s : State) (c src : Nat) : State :=
  let d := s.chan c
  match d.throttles.find? (fun x => x.src == src) with
  | none => s
  | some t =>
    let s := s.reach t.nextAct
    s.setChan c { d with throttles := { t with nextAct := s.mt + s.f DRAM.RD.TGAP } :: d.throttles.filter (fun x => x.src != src) }

/-- One column command for the burst at DRAM offset `off`: the history counter, the activation if the row is not open, and the row
left open (R400, R404, R405). A scrub's activation is not counted in the table. -/
def State.dramBurst (s : State) (off src : Nat) (scrub : Bool) : State :=
  let k := s.bankKeyOf off
  let row := s.rowOf off
  let c := s.chOf off
  let b := s.bank k
  let hit := b.row == some row
  let h := if hit then min 3 (b.hist + 1)
    else if (b.row.or b.lastRow).isSome && b.row.or b.lastRow != some row then b.hist - 1 else b.hist
  let s := s.setBank k { b with hist := h }
  let s := if hit then s
    else
      let s := if scrub then s else (s.throttleWait c src).countAct c src
      let s := if s.raammt ≠ 0 ∧ s.raammt ≤ (s.bank k).raa
        then (s.incF DRAM.CNT.RAAHOLDS 0).doRfm (s.rankOf off) (s.sel 0 off) (s.bankOf off) else s
      let b := s.bank k
      s.setBank k { b with raa := b.raa + 1 }
  let b := s.bank k
  s.setBank k { b with row := some row, lastRow := some row, lastCol := s.mt }

/-- After a request, a touched bank's row is closed at once when H < KEEP (R400). -/
def State.dramSettle (s : State) (off : Nat) : State :=
  let k := s.bankKeyOf off
  let b := s.bank k
  if b.hist < s.f DRAM.PAGE.KEEP then s.setBank k { b with row := none } else s

/-- The offsets of the `n` bursts from burst `b` on. -/
def burstOffs (b : Nat) : Nat → List Nat
  | 0 => []
  | n + 1 => 64 * b :: burstOffs (b + 1) n

/-- A request of `n` words at DRAM offset `off` by `src` reaches its bursts, in ascending order. -/
def State.dramRequest (s : State) (off n src : Nat) : State :=
  let offs := burstOffs (off / 64) ((off + 8 * n - 1) / 64 - off / 64 + 1)
  let s := offs.foldl (fun s o =>
    let j := s.rankOf o
    let s := s.wakeRank j
    let s := s.setRank j { s.rank j with lastReq := s.mt }
    let s := s.setChan (s.chOf o) { s.chan (s.chOf o) with lastReq := s.mt }
    s.dramBurst o src false) s
  offs.foldl (fun s o => s.dramSettle o) s

/-- Whether the channels a request touches serve requests now: neither is in or entering self-refresh (R407, R408). -/
def State.dramServes (s : State) (off n : Nat) : Bool :=
  (burstOffs (off / 64) ((off + 8 * n - 1) / 64 - off / 64 + 1)).all
    (fun o => s.f DRAM.RANK.STAT.STATE (2 * s.chOf o) < 2)

/-! ### ECC (R83, R84, R410): shared by the Plain, DRAM and core-local memory -/

/-- The recorded address keeps the first uncorrectable error, else the latest repair candidate, else the latest corrected error (R87). -/
def State.recordEccAddr (s : State) (dram : Bool) (ty addr : Nat) : State :=
  let ft := if dram then DRAM.ECCADDR.TYPE else PLAIN.ECCADDR.TYPE
  let fa := if dram then DRAM.ECCADDR.ADDR else PLAIN.ECCADDR.ADDR
  let old := s.f ft
  let take := if old = 2 then false else if ty = 2 then true else if old = 3 then ty == 3 else true
  if take then (s.setF ft 0 ty).setF fa 0 (addr / 8) else s

/-- A single-bit error at `a` is corrected, written back and counted; no event (R83, R88, R410). -/
def State.eccCorrect (s : State) (a : Nat) : State :=
  let s := s.setEcc a none
  match s.region a with
  | .plain => ((s.incF PLAIN.ECC.CE 0).setF PLAIN.STAT.CE 0 1).recordEccAddr false 1 a
  | .dram => ((s.incF DRAM.ECC.CE 0).setF DRAM.STAT.CE 0 1).recordEccAddr true 1 a
  | .coreLocal r _ => s.setF CORE.STAT.CE r 1
  | _ => s

/-- An uncorrectable error found at `a`: UE sets and counts, and a severe-class status is raised with a memory-ue record (R84, R88, R410). -/
def State.eccUncorrectable (s : State) (a : Nat) : State :=
  match s.region a with
  | .plain => (((s.incF PLAIN.ECC.UE 0).setF PLAIN.STAT.UE 0 1).recordEccAddr false 2 a).raise 1 4 0 0x10 0xC (wd a) 0
  | .dram => (((s.incF DRAM.ECC.UE 0).setF DRAM.STAT.UE 0 1).recordEccAddr true 2 a).raise 1 5 0 0x11 0xC (wd a) 1
  | .coreLocal r _ => (s.setF CORE.STAT.UE r 1).raise 1 6 r (0x20 + r) 0xC (wd a) 2
  | _ => s

/-- A word is read with its check: corrected data, or the poisoned word. -/
def State.eccRead (s : State) (a : Nat) : State :=
  match s.eccAt a with
  | none => s
  | some .single => s.eccCorrect a
  | some .double => s.eccUncorrectable a

def State.eccReads (s : State) (a : Nat) : Nat → State
  | 0 => s
  | n + 1 => (s.eccRead a).eccReads (a + 8) n

/-! ### Page timeout, refresh -/

/-- Refresh interval in ns of a temperature band (R401). -/
def tREFI (band : Nat) : Nat := if band = 0 then 1950 else 975

/-- PAGE_CLOSE: TMAX has passed since the last column command (R400). -/
def execPageClose (rank : Fin 4) (sc : Fin 2) (bank : Fin 32) (s : State) : Host.Outcome State Fault Refusal :=
  let k := bankKey rank sc bank
  let b := s.bank k
  .next (if b.row.isSome then (s.reach (b.lastCol + s.f DRAM.PAGE.TMAX)).setBank k { b with row := none } else s)

/-- All banks of a rank are precharged and D refreshes run back to back; each REFab lowers the banks' RAA by RAAIMT (R402, R404). -/
def State.refreshBurst (s : State) (j : Nat) : State :=
  let d := s.f DRAM.RANK.STAT.DEBT j
  let s := (s.dramBanks.filter (fun p => decide (p.1 / 64 = j))).foldl
    (fun s p => s.setBank p.1 { p.2 with row := none, raa := p.2.raa - d * s.raaimt }) s
  s.setF DRAM.RANK.STAT.DEBT j 0

/-- REFRESH_TICK: D grows by 1; it is repaid at once while the rank has no queued request, else when it reaches POSTMAX (R401, R402).
A rank in power-down leaves it; a rank in self-refresh has no tick. -/
def refreshTick (j : Nat) (queued : Bool) (s : State) : State :=
  if 2 ≤ s.f DRAM.RANK.STAT.STATE j ∨ ¬ s.on DRAM.STAT.TRAINED then s
  else
    let r := s.rank j
    let s := (s.reach r.nextTick).setRank j { r with nextTick := r.nextTick + tREFI (s.f DRAM.RANK.STAT.BAND j) }
    let s := (s.wakeRank j).setF DRAM.RANK.STAT.DEBT j (min 9 (s.f DRAM.RANK.STAT.DEBT j + 1))
    if queued && decide (s.f DRAM.RANK.STAT.DEBT j < s.f DRAM.REF.POSTMAX) then s else s.refreshBurst j

def execRefreshTick (rank : Fin 4) (queued : Bool) (s : State) : Host.Outcome State Fault Refusal :=
  .next (refreshTick rank queued s)

/-- A rank's band changes at a reading: a rise repays the debt, the timer restarts with the new tREFI, and the band's reaction acts
(R401, R403). -/
def State.setBand (s : State) (j band : Nat) : State :=
  let old := s.f DRAM.RANK.STAT.BAND j
  if band = old then s
  else
    let s := (s.setF DRAM.RANK.STAT.BAND j band).setRank j { s.rank j with nextTick := s.mt + tREFI band, lower := none }
    let s := if old < band ∧ s.f DRAM.RANK.STAT.DEBT j ≠ 0 then s.refreshBurst j else s
    if band = 1 then s.info 5 j 0xC
    else if band = 2 then (s.setF DRAM.STAT.HOT 0 1).severe 5 j 0xC
    else s

/-- MR4_POLL: a higher band takes effect at once, a lower one at the second consecutive reading that reports it (R403). -/
def mr4Poll (j : Nat) (reading : BitVec 8) (band : Nat) (s : State) : State :=
  let s := s.setF DRAM.RANK.STAT.MR4 j reading.toNat
  let old := s.f DRAM.RANK.STAT.BAND j
  let r := s.rank j
  if old < band then s.setBand j band
  else if band = old then s.setRank j { r with lower := none }
  else if r.lower = some band then s.setBand j band
  else s.setRank j { r with lower := some band }

def execMr4Poll (rank : Fin 4) (reading : BitVec 8) (band : Fin 3) (s : State) : Host.Outcome State Fault Refusal :=
  .next (mr4Poll rank reading band s)

/-- RFM (R404, R405). -/
def execRfm (rank : Fin 4) (sc : Fin 2) (bank : Fin 32) (s : State) : Host.Outcome State Fault Refusal :=
  .next (s.doRfm rank sc bank)

/-! ### Power-down and self-refresh (R406–R408) -/

/-- POWER_DOWN_ENTRY: PDIDLE ns without a request, no debt. -/
def execPowerDownEntry (rank : Fin 4) (s : State) : Host.Outcome State Fault Refusal :=
  let pd := s.f DRAM.PWR.PDIDLE
  .next (if pd = 0 ∨ s.f DRAM.RANK.STAT.DEBT rank ≠ 0 ∨ s.f DRAM.RANK.STAT.STATE rank ≠ 0 then s
    else (s.reach ((s.rank rank).lastReq + pd)).setF DRAM.RANK.STAT.STATE rank 1)

/-- The ranks of a channel in use. -/
def State.chRanks (s : State) (c : Nat) : List Nat := if s.twoRanks then [2 * c, 2 * c + 1] else [2 * c]

/-- STAT.SR follows the ranks' states: both channels in self-refresh. -/
def State.srUpdate (s : State) : State :=
  s.setF DRAM.STAT.SR 0 (if s.f DRAM.RANK.STAT.STATE 0 = 3 ∧ s.f DRAM.RANK.STAT.STATE 2 = 3 then 1 else 0)

/-- SELF_REFRESH_ENTRY: on SREQ, or SRIDLE µs without a request; entry precharges every bank and repays the debts, then SRE (R407). -/
def selfRefreshEntry (c : Nat) (sre : Bool) (s : State) : State :=
  let idle := s.f DRAM.PWR.SRIDLE
  let st := s.f DRAM.RANK.STAT.STATE (2 * c)
  if !(s.on DRAM.CTRL.SREQ || idle != 0) then s
  else if st < 2 then
    let s := if s.on DRAM.CTRL.SREQ then s else s.reach ((s.chan c).lastReq + idle * 1000)
    let s := forEach (s.chRanks c) (fun j s => (s.refreshBurst j).setF DRAM.RANK.STAT.STATE j 2) s
    if sre then
      ((forEach (s.chRanks c) (fun j s => s.setF DRAM.RANK.STAT.STATE j 3) s).setChan c { s.chan c with lastSre := s.mt }).srUpdate
    else s
  else if st = 2 ∧ sre = true then
    ((forEach (s.chRanks c) (fun j s => s.setF DRAM.RANK.STAT.STATE j 3) s).setChan c { s.chan c with lastSre := s.mt }).srUpdate
  else s

def execSelfRefreshEntry (ch : Fin 2) (sre : Bool) (s : State) : Host.Outcome State Fault Refusal :=
  .next (selfRefreshEntry ch sre s)

/-- SELF_REFRESH_EXIT: a request aborts an entry before any SRE, or ends self-refresh SRMIN after the SRE; while SREQ is 1 it is
held (R407, R408). On exit every rank starts with D = 0 and a fresh interval. -/
def selfRefreshExit (c : Nat) (s : State) : State :=
  let st := s.f DRAM.RANK.STAT.STATE (2 * c)
  if s.on DRAM.CTRL.SREQ then s
  else if st = 2 then
    let s := forEach (s.chRanks c) (fun j s => s.setF DRAM.RANK.STAT.STATE j 0) s
    ((s.setF DRAM.STAT.SRABORT 0 1).incF DRAM.CNT.SRABORTS 0).setChan c { s.chan c with lastReq := s.mt }
  else if st = 3 then
    let s := s.reach ((s.chan c).lastSre + s.f DRAM.PWR.SRMIN)
    let s := forEach (s.chRanks c) (fun j s =>
      ((s.setF DRAM.RANK.STAT.STATE j 0).setF DRAM.RANK.STAT.DEBT j 0).setRank j
        { s.rank j with nextTick := s.mt + tREFI (s.f DRAM.RANK.STAT.BAND j), lastReq := s.mt }) s
    (s.setChan c { s.chan c with lastReq := s.mt }).srUpdate
  else s

def execSelfRefreshExit (ch : Fin 2) (s : State) : Host.Outcome State Fault Refusal := .next (selfRefreshExit ch s)

/-! ### Calibration and scrub (R409, R411) -/

/-- ZQ_CALIBRATION: a rank in self-refresh is not calibrated; one in power-down leaves it (R406, R409). -/
def execZqCalibration (rank : Fin 4) (s : State) : Host.Outcome State Fault Refusal :=
  .next (if 2 ≤ s.f DRAM.RANK.STAT.STATE rank then s
    else (s.wakeRank rank).setRank rank { s.rank rank with lastZq := s.mt })

/-- DQS_OSCILLATOR: a drift beyond one PHY step moves the write delays by one step (R409). -/
def execDqsOscillator (rank : Fin 4) (drift : Int) (s : State) : Host.Outcome State Fault Refusal :=
  .next (if 2 ≤ s.f DRAM.RANK.STAT.STATE rank then s
    else
      let r := s.rank rank
      (s.wakeRank rank).setRank rank
        { r with lastOsc := s.mt, dqDelay := if 1 < drift then r.dqDelay + 1 else if drift < -1 then r.dqDelay - 1 else r.dqDelay })

/-- The offset of the k-th burst of channel `c`: A[6] and the bits above A[7] from k, A[7] from the channel. -/
def State.chBurst (s : State) (c k : Nat) : Nat :=
  let o := k / 2 * 256 + k % 2 * 64
  if s.chOf o = c then o else o + 128

/-- One scrub read of channel `c`'s next burst; a burst corrected in two consecutive passes is a repair candidate (R411). -/
def State.scrubChan (s : State) (c : Nat) : State :=
  let d := s.chan c
  let total := s.dramBytes / 128
  let o := s.chBurst c d.scrubNext
  let a := 0x100000000000 + o
  let single := (List.range 8).any (fun i => s.eccAt (a + 8 * i) == some .single)
  let s := (s.dramBurst o 0 true).eccReads a 8
  let s := s.dramSettle o
  let d := s.chan c
  let rep := single && d.corrLast.contains o
  let s := if rep then (s.setF DRAM.STAT.REPCAND 0 1).recordEccAddr true 3 a else s
  let now := if single then o :: d.corrNow else d.corrNow
  if total ≤ d.scrubNext + 1 then s.setChan c { d with scrubNext := 0, corrNow := [], corrLast := now }
  else s.setChan c { d with scrubNext := d.scrubNext + 1, corrNow := now }

/-- DRAM_SCRUB: one burst of each channel; it pauses in self-refresh, and PERIOD 0 stops it (R411). -/
def dramScrub (s : State) : State :=
  if s.f DRAM.SCRUB.PERIOD = 0 ∨ s.dramBytes = 0 then s
  else forEach [0, 1] (fun c s => if s.f DRAM.RANK.STAT.STATE (2 * c) < 2 then s.scrubChan c else s) s

def execDramScrub (s : State) : Host.Outcome State Fault Refusal := .next (dramScrub s)

/-- DRAM_THROTTLE_END (R405). -/
def execDramThrottleEnd (ch : Fin 2) (src : BitVec 10) (s : State) : Host.Outcome State Fault Refusal :=
  let d := s.chan ch
  .next (match d.throttles.find? (fun x => x.src == src.toNat) with
    | none => s
    | some t => (s.reach t.until_).setChan ch { d with throttles := d.throttles.filter (fun x => x.src != src.toNat) })

end Sys2Proof.Machine
end

