-- ==== Sys2Proof/Machine/Memory.lean ====
section
/-! DEFINITION. Memory requests to the Plain, core-local memory and DRAM (R75–R90, R395–R398, R410), and the patrol scrub of the
Plain (R85). -/

namespace Sys2Proof.Machine

open Sys2Proof

/-- The endpoint that owns an address (R75). -/
def State.ownerOf (s : State) (a : Nat) : Nat :=
  match s.region a with
  | .plain => 0x10
  | .coreLocal r _ => 0x20 + r
  | .control => 0x12
  | .dram => 0x11
  | .reserved => 0

/-- A memory endpoint: the Plain, DRAM, or a core-local window. -/
def isMemEp (ep : Nat) : Bool := ep == 0x10 || ep == 0x11 || (0x20 ≤ ep && ep ≤ 0x31)

/-- The CODE that refuses a memory request of `n` words at `a` sent to `ep`, if any: a reserved or not installed address (0x01), an
endpoint that does not own the address (0x02), a write to the code half of a core that is not halted or spare (0x03; R76, R89). -/
def State.memRefusal (s : State) (ep a n : Nat) (write : Bool) : Option Nat :=
  let last := a + 8 * n - 1
  if s.region a = .reserved ∨ s.region last = .reserved then some 1
  else if s.ownerOf a ≠ ep ∨ s.ownerOf last ≠ ep then some 2
  else match write, s.region a with
    | true, .coreLocal r false =>
      let st := s.f CORE.STAT.STATE r
      if st = 0 ∨ st = 7 then none else some 3
    | _, _ => none

/-- DRAM takes part in a request. -/
def State.memTouch (s : State) (ep a n : Nat) (src : BitVec 10) : State :=
  if ep = 0x11 then s.dramRequest (a - 0x100000000000) n src.toNat else s

/-- A request to a DRAM channel that is in or entering self-refresh is held (R408). -/
def State.memHeld (s : State) (ep a n : Nat) : Bool :=
  ep == 0x11 && s.inDram a (8 * n) && !s.dramServes (a - 0x100000000000) n

/-! ### Reads (R78) -/

/-- The RSP tokens of a read, in ascending address order; a poisoned word carries flags.err, the last token flags.last. -/
def State.readResponses (s : State) (ep : Nat) (t : Token) (a : Nat) : Nat → State
  | 0 => s
  | n + 1 =>
    let tok := { mkTok ep t.src.toNat kindRSP t.stream.toNat (s.ld a) (n == 0) with err := s.eccAt a == some .double }
    (s.send tok).readResponses ep t (a + 8) n

/-- A memory read request at its owning endpoint (R77, R78, R83, R84). -/
def memRead (t : Token) (s : State) : State :=
  let ep := t.dest.toNat
  let h := memHead t.payload
  if t.err then s
  else if h.byteen ≠ 0 ∨ h.op ≠ 0 ∨ h.ack = true then s.refuse ep t 4
  else match s.memRefusal ep h.addr h.count false with
    | some c => s.refuse ep t c
    | none =>
      let s := s.memTouch ep h.addr h.count t.src
      let s' := s.readResponses ep t h.addr h.count
      s'.eccReads h.addr h.count

/-- A token that is no memory request of its endpoint: kind not handled (R36). -/
def State.memWrongEp (s : State) (t : Token) : State := s.arrive t.dest.toNat [t] (fun s => s.refuse t.dest.toNat t 7)

/-- MRD (R78). -/
def mrd (t : Token) (s : State) : State :=
  if !isMemEp t.dest.toNat then s.memWrongEp t
  else if s.memHeld t.dest.toNat (memHead t.payload).addr (memHead t.payload).count then s
  else s.arrive t.dest.toNat [t] (fun s => s.whenDue [t] (memRead t))

def execMrd (tok : Token) (s : State) : Host.Outcome State Fault Refusal := .next (mrd tok s)

/-! ### Writes and atomic operations (R78, R79) -/

/-- The bytes of a word written under byte enables. -/
def mergeWord (old new : Word) (be : Nat) : Word :=
  (List.range 8).foldl (fun acc k =>
    if be.testBit k then (acc &&& ~~~ wd (255 * 2 ^ (8 * k))) ||| (new &&& wd (255 * 2 ^ (8 * k))) else acc) old

/-- The words of a write, in ascending order; a whole word clears its error mark, a merged one was corrected first (R83, R84). -/
def State.writeWords (s : State) (a be : Nat) : List Word → State
  | [] => s
  | w :: t =>
    let s := if be = 255 then s.st a w else s.st a (mergeWord (s.ld a) w be)
    s.writeWords (a + 8) be t

/-- The first token of a message that carries flags.err. -/
def firstErr (ts : List Token) : Option Token := ts.find? (·.err)

/-- A memory write message at its owning endpoint: a write, or an atomic OP, by the header's OP (R77–R79, R84, R89). -/
def memWrite (ts : List Token) (s : State) : State :=
  match ts with
  | [] => s
  | t :: data =>
    let ep := t.dest.toNat
    let last := ts.getLastD t
    let h := memHead t.payload
    let atomic := h.op != 0
    let want := if h.op = 0 then h.count else if h.op = 3 then 2 else 1
    let words := data.map (·.payload)
    match firstErr ts with
    | some e => s.refuse ep e 5
    | none =>
      if data.length ≠ want then s.refuse ep last 4
      else if atomic && (h.count != 1 || h.byteen != 255 || h.ack) then s.refuse ep last 4
      else match s.memRefusal ep h.addr h.count true with
        | some c => s.refuse ep last c
        | none =>
          if atomic && (match s.region h.addr with | .plain => false | .coreLocal _ true => false | _ => true) then s.refuse ep last 4
          else
            let s := s.memTouch ep h.addr h.count t.src
            if (atomic || h.byteen != 255) && s.anyUe h.addr h.count then
              ((s.eccReads h.addr h.count).refuse ep last 5)
            else
              let s := if atomic || h.byteen != 255 then s.eccReads h.addr h.count else s
              let old := s.ld h.addr
              let w0 := words.getD 0 0
              let w1 := words.getD 1 0
              match h.op with
              | 0 =>
                let s := s.writeWords h.addr h.byteen words
                if h.ack then s.respond ep t (wd h.count) else s
              | 1 => (s.st h.addr w0).respond ep t old
              | 2 => (s.st h.addr (old + w0)).respond ep t old
              | _ => (if old = w0 then s.st h.addr w1 else s).respond ep t old

/-- A write or atomic message reaches a memory endpoint. -/
def mwr (ts : List Token) (s : State) : State :=
  match ts with
  | [] => s
  | t :: _ =>
    if !isMemEp t.dest.toNat then s.arrive t.dest.toNat ts (fun s => s.refuse t.dest.toNat (ts.getLastD t) 7)
    else if s.memHeld t.dest.toNat (memHead t.payload).addr (memHead t.payload).count then s
    else s.arrive t.dest.toNat ts (fun s => s.whenDue ts (memWrite ts))

/-- A message with its header's OP set: what the rows of the table name. -/
def withOp (op : Nat) : List Token → List Token
  | [] => []
  | t :: r => { t with payload := (t.payload &&& ~~~ 6#64) ||| wd (op * 2) } :: r

/-- MWR_WRITE (R78). -/
def execMwrWrite (toks : List Token) (s : State) : Host.Outcome State Fault Refusal := .next (mwr (withOp 0 toks) s)
/-- SWAP (R78). -/
def execSwap (toks : List Token) (s : State) : Host.Outcome State Fault Refusal := .next (mwr (withOp 1 toks) s)
/-- FETCH_ADD (R78). -/
def execFetchAdd (toks : List Token) (s : State) : Host.Outcome State Fault Refusal := .next (mwr (withOp 2 toks) s)
/-- COMPARE_AND_SWAP (R78). -/
def execCompareAndSwap (toks : List Token) (s : State) : Host.Outcome State Fault Refusal := .next (mwr (withOp 3 toks) s)

/-! ### The patrol scrub of the Plain (R85) -/

/-- The Plain address of block `o` of bank `b` (R81). -/
def plainBlock (b o : Nat) : Nat := (o * 96 + b) * 256

/-- The scrub of one block: its 32 words are read and corrected; a block corrected in two consecutive passes is a candidate. -/
def State.scrubBlock (s : State) (a : Nat) : State :=
  let single := (List.range 32).any (fun i => s.eccAt (a + 8 * i) == some .single)
  let s := s.eccReads a 32
  let s := if single && s.scrub.last.contains a then (s.setF PLAIN.STAT.REPCAND 0 1).recordEccAddr false 3 a else s
  if single then s.setScrub { s.scrub with now := a :: s.scrub.now } else s

/-- The blocks of the listed error marks that lie at block index `o` of their banks: no other block of this scrub has an error. -/
def State.scrubTargets (s : State) (o : Nat) : List Nat :=
  ((s.eccs.filter (fun p => decide (p.1 < 0x3000000 ∧ p.1 / 256 / 96 = o))).map (fun p => p.1 / 256 * 256)).dedup

/-- PLAIN_SCRUB: one block of every bank, in all banks in parallel; PERIOD 0 stops it. -/
def plainScrub (s : State) : State :=
  if s.f PLAIN.SCRUB.PERIOD = 0 then s
  else
    let o := s.scrub.next
    let s := forEach (s.scrubTargets o) (fun a s => s.scrubBlock a) s
    if o + 1 < 2048 then s.setScrub { s.scrub with next := o + 1 }
    else s.setScrub { next := 0, now := [], last := s.scrub.now }

def execPlainScrub (s : State) : Host.Outcome State Fault Refusal := .next (plainScrub s)

/-- REFUSAL_POINT: a token to the refusal point or a reserved ID is absorbed and answered with CODE 0x06 (R102). -/
def execRefusalPoint (tok : Token) (s : State) : Host.Outcome State Fault Refusal :=
  .next (((s.deliver tok.dest.toNat tok)).refuse 0 tok 6)

end Sys2Proof.Machine
end

