-- ==== Sys2Proof/Machine/Zynzu.lean ====
section
/-! DEFINITION. The Zynzu instruction set (R104–R124): encodings, the instructions' effects, exceptions, token ports, remote requests,
bulk operations, and the starting, halting and moving of roles (R125–R129). -/

namespace Sys2Proof.Machine

open Sys2Proof

def State.core (s : State) (r : Nat) : Core := tget (fun _ => {}) s.cores r
def State.setCore (s : State) (r : Nat) (c : Core) : State := s.setCores (tset (fun _ => {}) s.cores r c)
/-- CORE[r].STAT.STATE (R129). -/
def State.coreState (s : State) (r : Nat) : Nat := s.f CORE.STAT.STATE r
def State.setCoreState (s : State) (r v : Nat) : State := s.setF CORE.STAT.STATE r v

/-! ### Registers, predicates and ports (R104) -/

def Core.reg (c : Core) (i : BitVec 5) : Word := if i = 0 then 0 else c.regs[i.toNat]'i.isLt
def Core.setReg (c : Core) (i : BitVec 5) (v : Word) : Core :=
  if i = 0 then c else { c with regs := c.regs.set i.toNat v i.isLt }
def Core.pred (c : Core) (i : Nat) : Bool := i == 0 || c.preds.getLsbD i
def Core.setPred (c : Core) (i : Nat) (v : Bool) : Core :=
  if i = 0 then c
  else { c with preds := (c.preds &&& ~~~ BitVec.ofNat 8 (2 ^ i)) ||| (if v then BitVec.ofNat 8 (2 ^ i) else 0) }
def Core.port (c : Core) (p : Nat) : Port := (c.ports[p]?).getD {}
def Core.setPort (c : Core) (p : Nat) (q : Port) : Core := { c with ports := c.ports.setIfInBounds p q }

/-- The guard (R106). -/
def Core.guardOk (c : Core) (g : BitVec 4) : Bool := Bool.xor (c.pred (g.toNat % 8)) (g.getLsbD 3)

/-- The device address of a core's local address (R88, R124). -/
def localAddr (r a : Nat) : Nat := 0x10000000 + 0x100000 * r + a

/-- The endpoint of port tp of logical core r (R99). -/
def portEp (r p : Nat) : Nat := 0x80 + 8 * r + p

/-! ### Encodings (R106–R109, R112, R114) -/

/-- The instruction word of a guard and an operation (R107). -/
def zEncode (g : BitVec 4) (op : ZOp) : BitVec 32 :=
  let mk (o a b c : Nat) : BitVec 32 := BitVec.ofNat 32 (g.toNat * 2 ^ 28 + o * 2 ^ 22 + a * 2 ^ 17 + b * 2 ^ 12 + c)
  match op with
  | .alu fn rd ra rb m => mk 0 rd.toNat ra.toNat (rb.toNat * 128 + m.toNat * 32 + fn.toNat)
  | .imm o rd ra i => mk o.toNat rd.toNat ra.toNat i.toNat
  | .long o rd i => mk o.toNat rd.toNat (i.toNat / 4096) (i.toNat % 4096)
  | .store o rs ra i => mk o.toNat rs.toNat ra.toNat i.toNat
  | .cmp pd cc ra rb => mk 0x20 0 0 (pd.toNat * 2 ^ 19 + cc.toNat * 2 ^ 16 + ra.toNat * 2 ^ 11 + rb.toNat * 64)
  | .cmpi pd cc ra i => mk 0x21 0 0 (pd.toNat * 2 ^ 19 + cc.toNat * 2 ^ 16 + ra.toNat * 2 ^ 11 + i.toNat)
  | .plog pd pa pb fn => mk 0x22 0 0 (pd.toNat * 2 ^ 19 + pa.toNat * 2 ^ 16 + pb.toNat * 2 ^ 13 + fn.toNat * 2 ^ 11)
  | .br off => mk 0x28 0 0 off.toNat
  | .call off => mk 0x29 0 0 off.toNat
  | .jalr rd ra => mk 0x2A rd.toNat ra.toNat 0
  | .tok fn g' tp sel => mk 0x30 g'.toNat 0 (tp.toNat * 2 ^ 14 + fn.toNat * 2 ^ 10 + sel.toNat)
  | .sys fn rd ra rb => mk 0x31 rd.toNat ra.toNat (rb.toNat * 128 + fn.toNat)
  | .illegal w => w

/-- The guard of a word. -/
def zGuard (w : BitVec 32) : BitVec 4 := w.extractLsb' 28 4

/-- The operation a word spells; a word with an unassigned opcode, or a non-zero field shown as 0, spells none (R109). -/
def zDecode (w : BitVec 32) : ZOp :=
  let o := (w.extractLsb' 22 6).toNat
  let rd := w.extractLsb' 17 5
  let ra := w.extractLsb' 12 5
  let rb := w.extractLsb' 7 5
  let m := w.extractLsb' 5 2
  let fn := w.extractLsb' 0 5
  let imm := w.extractLsb' 0 12
  if o = 0 then .alu fn rd ra rb m
  else if (1 ≤ o ∧ o ≤ 8) ∨ (0x10 ≤ o ∧ o ≤ 0x16) then .imm (w.extractLsb' 22 6) rd ra imm
  else if o = 9 ∨ o = 0xA then .long (w.extractLsb' 22 6) rd (w.extractLsb' 0 17)
  else if 0x18 ≤ o ∧ o ≤ 0x1B then .store (w.extractLsb' 22 6) rd ra imm
  else if o = 0x20 then
    if w.extractLsb' 0 6 = 0 then .cmp (w.extractLsb' 19 3) (w.extractLsb' 16 3) (w.extractLsb' 11 5) (w.extractLsb' 6 5) else .illegal w
  else if o = 0x21 then .cmpi (w.extractLsb' 19 3) (w.extractLsb' 16 3) (w.extractLsb' 11 5) (w.extractLsb' 0 11)
  else if o = 0x22 then
    if w.extractLsb' 0 11 = 0 then .plog (w.extractLsb' 19 3) (w.extractLsb' 16 3) (w.extractLsb' 13 3) (w.extractLsb' 11 2)
    else .illegal w
  else if o = 0x28 then .br (w.extractLsb' 0 22)
  else if o = 0x29 then .call (w.extractLsb' 0 22)
  else if o = 0x2A then if imm = 0 then .jalr rd ra else .illegal w
  else if o = 0x30 then .tok (w.extractLsb' 10 4) rd (w.extractLsb' 14 3) (w.extractLsb' 0 10)
  else if o = 0x31 then if m = 0 then .sys fn rd ra rb else .illegal w
  else .illegal w

/-- A port field of an ALU instruction: bits 4:3 are 0 and it does not name t6 (R107, R109). -/
def portField (f : BitVec 5) : Bool := f.toNat < 8 && f.toNat != 6

/-- Whether an operation is legal (R107–R109, R112, R114, R123). -/
def ZOp.legal : ZOp → Bool
  | .alu fn rd ra rb m =>
    decide (fn.toNat < 0x1C) && (!m.getLsbD 1 || portField rd) && (!m.getLsbD 0 || portField ra) &&
    (!((0xE ≤ fn.toNat && fn.toNat ≤ 0x11) || fn.toNat == 0x19) || rb == 0)
  | .imm o _ _ i => if 5 ≤ o.toNat ∧ o.toNat ≤ 7 then decide (i.toNat < 64)
    else decide ((1 ≤ o.toNat ∧ o.toNat ≤ 8) ∨ (0x10 ≤ o.toNat ∧ o.toNat ≤ 0x16))
  | .long o _ i => if o.toNat = 0xA then decide (i.toNat < 2 ^ 16) else o.toNat == 9
  | .store o _ _ _ => decide (0x18 ≤ o.toNat ∧ o.toNat ≤ 0x1B)
  | .cmp _ _ _ _ => true
  | .cmpi _ _ _ _ => true
  | .plog _ _ _ _ => true
  | .br _ => true
  | .call _ => true
  | .jalr _ _ => true
  | .tok fn g tp sel =>
    tp.toNat != 6 &&
    (match fn.toNat with
     | 0 => decide (g.toNat < 8) && sel == 0
     | 1 => decide (sel.toNat < 7)
     | 2 => decide (sel.toNat < 8) && sel.toNat != 4 && sel.toNat != 6
     | 3 => sel == 0
     | 4 => tp == 0 && decide (sel.toNat < 256) && !sel.getLsbD 6 && sel != 0
     | 5 => sel == 0
     | _ => false)
  | .sys fn _ ra _ =>
    if fn.toNat ≤ 1 then decide (ra.toNat < 10) else decide (fn.toNat ≤ 0xE ∨ (0x10 ≤ fn.toNat ∧ fn.toNat ≤ 0x12))
  | .illegal _ => false

/-! ### The ALU (R109) and the compare codes (R108) -/

def popcount : Nat → Nat → Nat
  | 0, _ => 0
  | n + 1, v => v % 2 + popcount n (v / 2)

def ctz : Nat → Nat → Nat
  | 0, _ => 0
  | n + 1, v => if v % 2 = 1 then 0 else 1 + ctz n (v / 2)

def clz64 (v : Nat) : Nat := if v = 0 then 64 else 63 - Nat.log2 v

/-- The result of ALU function `fn` on `a` and `b` (R109). -/
def aluFn (fn : Nat) (a b : Word) : Word :=
  let n := b.toNat % 64
  match fn with
  | 0x00 => a + b
  | 0x01 => a - b
  | 0x02 => a &&& b
  | 0x03 => a ||| b
  | 0x04 => a ^^^ b
  | 0x05 => a &&& ~~~ b
  | 0x06 => a <<< n
  | 0x07 => a >>> n
  | 0x08 => a.sshiftRight n
  | 0x09 => (a >>> n) ||| (a <<< (64 - n))
  | 0x0A => if a.toInt ≤ b.toInt then a else b
  | 0x0B => if a.toInt ≤ b.toInt then b else a
  | 0x0C => if a.toNat ≤ b.toNat then a else b
  | 0x0D => if a.toNat ≤ b.toNat then b else a
  | 0x0E => wd (clz64 a.toNat)
  | 0x0F => wd (ctz 64 a.toNat)
  | 0x10 => wd (popcount 64 a.toNat)
  | 0x11 => wd (leNat (leBytes 8 a.toNat).reverse)
  | 0x12 => a * b
  | 0x13 => wd (a.toNat * b.toNat / 2 ^ 64)
  | 0x14 => wdi (fshr (a.toInt * b.toInt) 64)
  | 0x15 => if b = 0 then ~~~ 0#64 else wd (a.toNat / b.toNat)
  | 0x16 => if b = 0 then ~~~ 0#64 else wdi (a.toInt.tdiv b.toInt)
  | 0x17 => if b = 0 then a else wd (a.toNat % b.toNat)
  | 0x18 => if b = 0 then a else wdi (a.toInt.tmod b.toInt)
  | 0x19 => wdi (sbits a 31 0)
  | 0x1A => wdi (sat 64 (a.toInt + b.toInt))
  | 0x1B => wdi (sat 64 (a.toInt - b.toInt))
  | _ => 0

/-- The compare codes (R108): EQ, NE, LT, GE, LTU, GEU, BS, BC. -/
def ccTest (cc : BitVec 3) (a b : Word) : Bool :=
  match cc.toNat with
  | 0 => a == b
  | 1 => a != b
  | 2 => decide (a.toInt < b.toInt)
  | 3 => decide (b.toInt ≤ a.toInt)
  | 4 => decide (a.toNat < b.toNat)
  | 5 => decide (b.toNat ≤ a.toNat)
  | 6 => a.getLsbD (b.toNat % 64)
  | _ => !a.getLsbD (b.toNat % 64)

/-- The result of an immediate instruction (opcodes 0x01–0x08). -/
def immFn (op : Nat) (a : Word) (i : BitVec 12) : Word :=
  match op with
  | 1 => a + i.signExtend 64
  | 2 => a &&& i.zeroExtend 64
  | 3 => a ||| i.zeroExtend 64
  | 4 => a ^^^ i.zeroExtend 64
  | 5 => a <<< (i.toNat % 64)
  | 6 => a >>> (i.toNat % 64)
  | 7 => a.sshiftRight (i.toNat % 64)
  | _ => a * i.signExtend 64

/-- PLOG's function of two predicates. -/
def plogFn (fn : BitVec 2) (a b : Bool) : Bool :=
  match fn.toNat with
  | 0 => a && b
  | 1 => a || b
  | 2 => Bool.xor a b
  | _ => a && !b

/-! ### What an attempt at an instruction comes to -/

/-- An instruction retires with its effects, raises a synchronous cause, or blocks (with the STATE and the mask of R118). -/
inductive ZOut where
  | retire (s : State) (c : Core) (pc : Nat)
  | halt (s : State) (c : Core) (pc : Nat)
  | exc (code : Nat) (info : Word) (s : State) (c : Core)
  | block (st mask : Nat) (await : Option Nat) (s : State) (c : Core)

/-- Bytes of a load or store opcode. -/
def accessSize (op : Nat) : Nat :=
  match op with
  | 0x10 => 1 | 0x11 => 1 | 0x12 => 2 | 0x13 => 2 | 0x14 => 4 | 0x15 => 4 | 0x16 => 8
  | 0x18 => 1 | 0x19 => 2 | 0x1A => 4 | _ => 8

/-- Whether a load opcode sign-extends. -/
def loadSigned (op : Nat) : Bool := op == 0x10 || op == 0x12 || op == 0x14

/-- A local load: alignment, range, the check of the word, and the value (R108, R118, R124). -/
def zLoad (r op : Nat) (addr : Word) (s : State) : Sum (Nat × Word × State) (Word × State) :=
  let n := accessSize op
  let a := addr.toNat
  if a % n ≠ 0 then .inl (2, addr, s)
  else if 0x20000 ≤ a then .inl (3, addr, s)
  else
    let p := localAddr r a
    if s.eccAt p = some .double then .inl (4, addr, s.eccUncorrectable p)
    else
      let s := s.eccRead p
      let v := leNat (s.bytes p n)
      .inr (if loadSigned op then wdi (sx (8 * n) v) else wd v, s)

/-- A local store: alignment, range (data memory only), and the bytes; a partial store to an uncorrectable word raises cause 0x04
(R84, R108, R118, R124). -/
def zStore (r op : Nat) (addr v : Word) (s : State) : Sum (Nat × Word × State) State :=
  let n := accessSize op
  let a := addr.toNat
  if a % n ≠ 0 then .inl (2, addr, s)
  else if a < 0x10000 ∨ 0x20000 ≤ a then .inl (3, addr, s)
  else
    let p := localAddr r a
    if n ≠ 8 ∧ s.eccAt p = some .double then .inl (4, addr, s.eccUncorrectable p)
    else
      let s := if n = 8 then s.setEcc p none else s.eccRead p
      .inr (s.setBytes p (leBytes n v.toNat))

/-- A branch target outside the code half raises cause 0x03 on the branch itself (R118). -/
def targetOk (t : Int) : Bool := decide (0 ≤ t ∧ t ≤ 0xFFFC)

/-! ### Token ports (R110–R112) -/

/-- The input capacity a destination grants (R43): core ports, queues and cols; elsewhere the spec states none. -/
def State.creditGrant (s : State) (dest : Nat) : Nat :=
  if 0x80 ≤ dest ∧ dest < 0x110 then 4
  else if 0x300 ≤ dest ∧ dest < 0x380 then
    let n := dest - 0x300
    if n < 24 ∨ (108 ≤ n ∧ n < 120) then 64 else if n < 108 then 16 else 8
  else if 0x380 ≤ dest ∧ dest < 0x3C0 then 2 ^ s.f QUEUE.CFG.LOG2SIZE (dest - 0x380)
  else Config.creditGrant dest

/-- The credits a port holds for a dest. -/
def State.credits (s : State) (q : Port) (dest : Nat) : Nat := s.creditGrant dest - tget (fun _ => 0) q.taken dest

/-- Port tp sends one token with its outgoing tag; the seq and, for a timed tag, the time move on (R112). -/
def zSend (r p : Nat) (payload : Word) (last : Bool) (s : State) (c : Core) : State × Core :=
  let q := c.port p
  let t : Token :=
    { time := q.time, seq := q.seq, err := q.flags.getLsbD 3, urgent := q.flags.getLsbD 2, timed := q.flags.getLsbD 1,
      last := last || q.flags.getLsbD 0, kind := q.kind, stream := q.stream, src := BitVec.ofNat 10 (portEp r p), dest := q.dest,
      payload := payload }
  let d := q.dest.toNat
  let q := { q with seq := q.seq + 1, time := if q.flags.getLsbD 1 then q.time + q.tinc.signExtend 48 else q.time,
                    taken := tset (fun _ => 0) q.taken d (tget (fun _ => 0) q.taken d + 1) }
  (s.setNet (s.net ++ [t]), c.setPort p q)

/-- TTAG's field of a received tag. -/
def tagField (t : Token) (sel : Nat) : Word :=
  match sel with
  | 0 => wd t.dest.toNat
  | 1 => wd t.stream.toNat
  | 2 => wd t.kind.toNat
  | 3 => wd (t.err.toNat * 8 + t.urgent.toNat * 4 + t.timed.toNat * 2 + t.last.toNat)
  | 4 => wd t.seq.toNat
  | 5 => wd t.time.toNat
  | _ => wd t.src.toNat

/-- TSET's change of the outgoing tag; a new dest or stream restarts seq at 0. -/
def setTag (q : Port) (sel : Nat) (v : Word) : Port :=
  match sel with
  | 0 => let d := BitVec.ofNat 10 v.toNat
    { q with dest := d, seq := if d = q.dest then q.seq else 0 }
  | 1 => let d := BitVec.ofNat 8 v.toNat
    { q with stream := d, seq := if d = q.stream then q.seq else 0 }
  | 2 => { q with kind := BitVec.ofNat 4 v.toNat }
  | 3 => { q with flags := BitVec.ofNat 4 v.toNat }
  | 5 => { q with time := BitVec.ofNat 48 v.toNat }
  | 7 => { q with tinc := BitVec.ofNat 32 v.toNat }
  | _ => q

/-- The lowest port of a mask that holds a token. -/
def firstReady (c : Core) (mask : Nat) : Option Nat :=
  (List.range 8).find? (fun p => mask.testBit p && !(c.port p).buf.isEmpty)

/-- An ALU instruction (R109, R110, R111): the receive, the function, the send or the register write. A received token with flags.err
raises cause 0x05 as it is consumed. -/
def zAlu (r : Nat) (fn rd ra rb : BitVec 5) (m : BitVec 2) (s : State) (c : Core) : ZOut :=
  let recv := m.getLsbD 0
  let sends := m.getLsbD 1
  let pa := ra.toNat % 8
  let pd := rd.toNat % 8
  match recv, (c.port pa).buf with
  | true, [] => .block 2 (2 ^ pa) none s c
  | _, buf =>
    let tok := buf.head?
    let a := if recv then (tok.map (·.payload)).getD 0 else c.reg ra
    let c' := if recv then c.setPort pa { c.port pa with buf := buf.drop 1, rx := tok } else c
    if recv && (tok.map (·.err)).getD false then .exc 5 a s c'
    else
      let v := aluFn fn.toNat a (c.reg rb)
      if sends then
        if s.credits (c'.port pd) (c'.port pd).dest.toNat = 0 then .block 2 (2 ^ pd) none s c
        else
          let sc := zSend r pd v false s c'
          .retire sc.1 sc.2 (c.pc + 4)
      else .retire s (c'.setReg rd v) (c.pc + 4)

/-- The TOK operations (R112). -/
def zTok (r : Nat) (fn : BitVec 4) (g : BitVec 5) (tp : BitVec 3) (sel : BitVec 10) (s : State) (c : Core) : ZOut :=
  let p := tp.toNat
  match fn.toNat with
  | 0 => .retire s (c.setPred (g.toNat % 8) (!(c.port p).buf.isEmpty)) (c.pc + 4)
  | 1 => .retire s (c.setReg g (((c.port p).rx.map (fun t => tagField t sel.toNat)).getD 0)) (c.pc + 4)
  | 2 => .retire s (c.setPort p (setTag (c.port p) sel.toNat (c.reg g))) (c.pc + 4)
  | 3 =>
    if s.credits (c.port p) (c.port p).dest.toNat = 0 then .block 2 (2 ^ p) none s c
    else
      let sc := zSend r p (c.reg g) true s c
      .retire sc.1 sc.2 (c.pc + 4)
  | 4 =>
    match firstReady c sel.toNat with
    | some k => .retire s (c.setReg g (wd k)) (c.pc + 4)
    | none => .block 2 sel.toNat none s c
  | _ => .retire s (c.setReg g (wd (s.credits (c.port p) (c.port p).dest.toNat))) (c.pc + 4)

/-! ### State words (R123) -/

def Core.outst (c : Core) : Word := wd (c.bulks.length * 256 + c.posted)

/-- GETS: the state word with an index. -/
def getState (r idx : Nat) (s : State) (c : Core) : Word :=
  match idx with
  | 0 => c.epc
  | 1 => wd (c.more.toNat * 512 + c.async.toNat * 256 + c.code)
  | 2 => c.info
  | 3 => wd (c.maska.toNat * 4 + c.pend.isSome.toNat * 2 + c.ex.toNat)
  | 4 => wd (place (s.f CORE.STAT.RESTARTS r) 8 16 + place (s.f CORE.STAT.PHYS r) 8 8 + r)
  | 5 => wd c.icount
  | 6 => c.save0
  | 7 => c.save1
  | 8 => wd (min (2 ^ 64 - 1) c.blkns)
  | _ => c.outst

/-- PUTS: RO words and fields ignore the write (R10). -/
def putState (idx : Nat) (v : Word) (c : Core) : Core :=
  match idx with
  | 0 => { c with epc := v }
  | 3 => { c with maska := v.getLsbD 2 }
  | 6 => { c with save0 := v }
  | 7 => { c with save1 := v }
  | _ => c

/-! ### Remote requests (R114–R116) -/

/-- The endpoint a core sends a memory request to: the owner of the address by the map of R75. -/
def State.remoteEp (s : State) (a : Nat) : Nat := let e := s.ownerOf a; if e = 0 then 0x10 else e

/-- The message of a single-word memory request through t6, stream 0. -/
def State.t6Send (s : State) (r dest kind : Nat) (ws : List Word) : State := s.sendMsg (portEp r 6) dest kind 0 ws

/-- The 48-bit device address of a remote operand. -/
def remoteAddr (w : Word) : Nat := w.toNat % 2 ^ 48

/-- A bulk operand (R114): word count 1–8,192; a local address in the data half, a multiple of 8. -/
def bulkLocalOk (a : Word) (n : Nat) : Bool :=
  a.toNat % 8 == 0 && decide (0x10000 ≤ a.toNat ∧ a.toNat + 8 * n ≤ 0x20000)

/-- The first t6 stream of 16–19 with no bulk operation. -/
def freeStream (bs : List Bulk) : Nat := ((List.range 4).map (· + 16)).find? (fun k => !bs.any (fun b => b.stream == k)) |>.getD 16

/-- RGET, RPUT and RMOVE: the operands are checked and the operation is issued, or blocks while four run (R114, R116). -/
def zBulk (r : Nat) (fn rd ra rb : BitVec 5) (s : State) (c : Core) : ZOut :=
  let d := c.reg rd
  let a := c.reg ra
  let n := c.reg rb
  let localSrc := fn.toNat == 0x11
  let localDst := fn.toNat == 0x10
  if n.toNat < 1 ∨ 8192 < n.toNat then .exc 3 n s c
  else if localDst && !bulkLocalOk d n.toNat then .exc 3 d s c
  else if localSrc && !bulkLocalOk a n.toNat then .exc 3 a s c
  else if !localSrc && a.toNat % 8 != 0 then .exc 2 a s c
  else if !localDst && d.toNat % 8 != 0 then .exc 2 d s c
  else if 4 ≤ c.bulks.length then .block 2 64 none s c
  else
    let src := if localSrc then localAddr r a.toNat else remoteAddr a
    let dst := if localDst then localAddr r d.toNat else remoteAddr d
    .retire s { c with bulks := c.bulks ++ [⟨freeStream c.bulks, src, dst, n.toNat⟩] } (c.pc + 4)

/-- The SYS operations (R114–R117, R119, R126). -/
def zSys (r : Nat) (fn rd ra rb : BitVec 5) (s : State) (c : Core) : ZOut :=
  let a := c.reg ra
  let b := c.reg rb
  let req (dest kind : Nat) (ws : List Word) : ZOut :=
    .block 2 64 (some dest) (s.t6Send r dest kind ws) c
  let posted (dest kind : Nat) (ws : List Word) : ZOut :=
    if 16 ≤ c.posted then .block 2 64 none s c
    else .retire (s.t6Send r dest kind ws) { c with posted := c.posted + 1 } (c.pc + 4)
  let ad := remoteAddr a
  match fn.toNat with
  | 0x00 => .retire s (c.setReg rd (getState r ra.toNat s c)) (c.pc + 4)
  | 0x01 => .retire s (putState ra.toNat b c) (c.pc + 4)
  | 0x02 => .retire s { c with ex := false } c.epc.toNat
  | 0x03 => .exc 8 0 s c
  | 0x04 => .halt s c (c.pc + 4)
  | 0x05 => if c.posted = 0 ∧ c.bulks = [] then .retire s c (c.pc + 4) else .block 4 64 none s c
  | 0x06 => req 0x12 4 [wd TB.MT.V.base]
  | 0x07 => if a.toNat ≤ s.mt then .retire s c (c.pc + 4) else .block 3 64 none s c
  | 0x10 => zBulk r fn rd ra rb s c
  | 0x11 => zBulk r fn rd ra rb s c
  | 0x12 => zBulk r fn rd ra rb s c
  | f =>
    if a.toNat % 8 ≠ 0 then .exc 2 a s c
    else match f with
      | 0x08 => req (s.remoteEp ad) 6 [mrdPayload ad 1]
      | 0x09 => posted (s.remoteEp ad) 7 [mwrPayload ad 1 0 true, b]
      | 0x0A => req (s.remoteEp ad) 7 [mwrPayload ad 1 1 false, b]
      | 0x0B => req (s.remoteEp ad) 7 [mwrPayload ad 1 2 false, b]
      | 0x0C => req (s.remoteEp ad) 7 [mwrPayload ad 1 3 false, c.reg rd, b]
      | 0x0D => req 0x12 4 [wd ad]
      | _ => posted 0x12 3 [wd (ad + 1), b]

/-! ### One attempt -/

/-- An instruction that is legal and whose guard holds. -/
def zAttempt (r : Nat) (op : ZOp) (s : State) (c : Core) : ZOut :=
  match op with
  | .alu fn rd ra rb m => zAlu r fn rd ra rb m s c
  | .imm o rd ra i =>
    if o.toNat ≤ 8 then .retire s (c.setReg rd (immFn o.toNat (c.reg ra) i)) (c.pc + 4)
    else match zLoad r o.toNat (c.reg ra + i.signExtend 64) s with
      | .inl (code, info, s) => .exc code info s c
      | .inr (v, s) => .retire s (c.setReg rd v) (c.pc + 4)
  | .long o rd i =>
    .retire s (c.setReg rd (if o.toNat = 9 then i.signExtend 64 else (c.reg rd <<< 16) ||| wd (i.toNat % 2 ^ 16))) (c.pc + 4)
  | .store o rs ra i =>
    match zStore r o.toNat (c.reg ra + i.signExtend 64) (c.reg rs) s with
    | .inl (code, info, s) => .exc code info s c
    | .inr s => .retire s c (c.pc + 4)
  | .cmp pd cc ra rb => .retire s (c.setPred pd.toNat (ccTest cc (c.reg ra) (c.reg rb))) (c.pc + 4)
  | .cmpi pd cc ra i => .retire s (c.setPred pd.toNat (ccTest cc (c.reg ra) (i.signExtend 64))) (c.pc + 4)
  | .plog pd pa pb fn => .retire s (c.setPred pd.toNat (plogFn fn (c.pred pa.toNat) (c.pred pb.toNat))) (c.pc + 4)
  | .br off =>
    let t := (c.pc : Int) + 4 * off.toInt
    if targetOk t then .retire s c t.toNat else .exc 3 (wdi t) s c
  | .call off =>
    let t := (c.pc : Int) + 4 * off.toInt
    if targetOk t then .retire s (c.setReg 31 (wd (c.pc + 4))) t.toNat else .exc 3 (wdi t) s c
  | .jalr rd ra =>
    let t := c.reg ra
    if t.toNat % 4 ≠ 0 then .exc 2 t s c
    else if 0xFFFC < t.toNat then .exc 3 t s c
    else .retire s (c.setReg rd (wd (c.pc + 4))) t.toNat
  | .tok fn g tp sel => zTok r fn g tp sel s c
  | .sys fn rd ra rb => zSys r fn rd ra rb s c
  | .illegal w => .exc 1 (w.zeroExtend 64) s c

/-! ### Retirement, exceptions, blocking (R105, R118–R122) -/

/-- STATE after an instruction: running, or halted again after a STEP (R126). -/
def afterState (c : Core) : Nat := if c.stepping then 0 else 1

/-- The time a blocked instruction has waited counts in BLKNS. -/
def Core.unblock (c : Core) (mt : Nat) : Core :=
  match c.blocked with
  | none => c
  | some b => { c with blocked := none, blkns := c.blkns + (mt - b.since) }

/-- A synchronous cause (R119); inside a handler, a double fault (R120). -/
def zException (r code : Nat) (info : Word) (s : State) (c : Core) : State :=
  let c := c.unblock s.mt
  if c.ex then
    let s := ((s.setCore r { c with stepping := false }).setCoreState r 0).setF CORE.STAT.DFLT r 1
    s.raise (if r < 2 then 1 else 2) 6 r (portEp r 0) 8
      (wd (place code 8 40 + place c.code 8 32 + place c.pc 16 16 + place c.epc.toNat 16 0)) c.info
  else
    (s.setCore r { c with epc := wd c.pc, code := code, async := false, more := c.pendMore, info := info, ex := true, pc := 16 * code,
                          stepping := false }).setCoreState r (afterState c)

/-- What an attempt leaves. -/
def zFinish (r : Nat) (g : BitVec 4) (op : ZOp) (s0 : State) (o : ZOut) : State :=
  match o with
  | .retire s c pc =>
    let c := c.unblock s.mt
    (s.setCore r { c with pc := pc, icount := c.icount + 1, stepping := false }).setCoreState r (afterState c)
  | .halt s c pc =>
    let c := c.unblock s.mt
    (s.setCore r { c with pc := pc, icount := c.icount + 1, stepping := false }).setCoreState r 0
  | .exc code info s c => zException r code info s c
  | .block st mask await s c =>
    let since := (c.blocked.map (·.since)).getD s0.mt
    (s.setCore r { c with blocked := some ⟨g, op, since, mask, await⟩ }).setCoreState r st

/-- An instruction at a core that is able to execute it: illegal encodings raise cause 0x01 whatever the guard, a false guard retires
the instruction without effect (R106, R109). -/
def zRun (r : Nat) (g : BitVec 4) (op : ZOp) (s : State) : State :=
  let c := s.core r
  let illegal := !op.legal || (op == .sys 2 0 0 0 && !c.ex && c.guardOk g)
  if illegal then zException r 1 ((zEncode g op).zeroExtend 64) s c
  else if !c.guardOk g then zFinish r g op s (.retire s c (c.pc + 4))
  else zFinish r g op s (zAttempt r op s c)

/-- An asynchronous cause that waits and is held by neither EX nor MASKA (R121). -/
def Core.asyncDue (c : Core) : Bool := c.pend.isSome && !c.ex && !c.maska

/-- Core r can execute the instruction (g, op) now: it runs and no asynchronous cause comes first, or the same instruction is the one
that is blocked, without an answer under way. -/
def State.canExec (s : State) (r : Nat) (g : BitVec 4) (op : ZOp) : Bool :=
  let c := s.core r
  match s.coreState r, c.blocked with
  | 1, none => !c.asyncDue
  | st, some b => decide (2 ≤ st ∧ st ≤ 4) && b.g == g && b.op == op && b.await.isNone
  | _, _ => false

/-- One instruction of a core: what every instruction row of the table does (R105). A core that cannot execute it is unchanged. -/
def zExec (r : Nat) (g : BitVec 4) (op : ZOp) (s : State) : State :=
  if s.canExec r g op then zRun r g op s else s

/-- A blocked instruction is tried again: a token, a credit, a slot or the time has come (R110, R115–R117). -/
def zResume (r : Nat) (s : State) : State :=
  match (s.core r).blocked with
  | some b => zExec r b.g b.op s
  | none => s

/-! ### Fetch and STEP -/

/-- The instruction at PC is fetched and executed: a PC outside code memory raises cause 0x03, an uncorrectable word cause 0x04
(R118, R124). -/
def zFetchRun (r : Nat) (s : State) : State :=
  let c := s.core r
  if c.pc % 4 ≠ 0 then zException r 2 (wd c.pc) s c
  else if 0xFFFC < c.pc then zException r 3 (wd c.pc) s c
  else
    let p := localAddr r c.pc
    if s.eccAt p = some .double then zException r 4 (wd c.pc) (s.eccUncorrectable p) c
    else
      let s := s.eccRead p
      let w := BitVec.ofNat 32 (leNat (s.bytes p 4))
      zRun r (zGuard w) (zDecode w) s

/-! ### Events at a core -/

/-- An asynchronous cause becomes pending, or sets MORE behind one that is (R121). -/
def Core.addAsync (c : Core) (code : Nat) (info : Word) : Core :=
  match c.pend with
  | none => { c with pend := some (code, info), pendMore := false }
  | some _ => { c with pendMore := true, more := true }

/-- ASYNC_CAUSE_TAKEN: taken at an instruction boundary, EPC at the next instruction (R121). -/
def asyncTaken (r : Nat) (s : State) : State :=
  let c := s.core r
  match c.pend with
  | some (code, info) =>
    if s.coreState r = 1 && c.asyncDue && c.blocked.isNone then
      s.setCore r { c with epc := wd c.pc, code := code, async := true, more := c.pendMore, info := info, ex := true, pc := 16 * code,
                           pend := none, pendMore := false }
    else s
  | none => s

def execAsyncCauseTaken (r : Fin 18) (s : State) : Host.Outcome State Fault Refusal := .next (asyncTaken r s)

/-- The answer of a blocking request reaches t6: the register, or cause 0x05 or 0x06 (R114, R117). -/
def t6Answer (r : Nat) (b : Blocked) (t : Token) (refused : Bool) (s : State) : State :=
  let c := s.core r
  match b.op with
  | .sys _ rd ra _ =>
    if t.err then zException r (if refused then 6 else 5) (if refused then t.payload else c.reg ra) s c
    else zFinish r b.g b.op s (.retire s (c.setReg rd t.payload) (c.pc + 4))
  | _ => s

/-- PORT_TOKEN_ARRIVAL: a token reaches a port's input buffer, or t6's pending request (R101, R111, R113). A full buffer, and a role
being moved, stall the producer. -/
def portArrival (r p : Nat) (t : Token) (refused : Bool) (s : State) : State :=
  let ep := portEp r p
  let st := s.coreState r
  let c := s.core r
  if st = 5 then s
  else if p ≠ 6 ∧ st ≠ 6 ∧ 4 ≤ (c.port p).buf.length ∧ srcAllowed ep t.src = true ∧ t.kind ≠ 11#4 then s
  else s.arrive ep [t] fun s =>
    if st = 6 then s.refuse ep t 6
    else if p = 6 then
      match c.blocked with
      | some b =>
        if t.kind = 5#4 ∧ b.await = some t.src.toNat then t6Answer r b t refused s else s.refuse ep t 7
      | none => s.refuse ep t 7
    else if t.kind = 12#4 ∨ t.kind = 15#4 then s.absorb ep t
    else if t.kind = 11#4 then s.refuse ep t 7
    else if t.kind = 8#4 ∧ t.src ≠ 0xE#10 then s.refuse ep t 3
    else zResume r (s.setCore r (c.setPort p { c.port p with buf := (c.port p).buf ++ [t] }))

def execPortTokenArrival (r : Fin 18) (p : Fin 8) (tok : Token) (refused : Bool) (s : State) : Host.Outcome State Fault Refusal :=
  .next (portArrival r p tok refused s)

/-- CREDIT_RETURN: a CRED token returns credits for its src to the port it is sent to; a blocked send may proceed (R43). -/
def creditReturn (t : Token) (n : Nat) (s : State) : State :=
  let d := t.dest.toNat
  if t.kind = 12#4 ∧ 0x80 ≤ d ∧ d < 0x110 then
    let r := (d - 0x80) / 8
    let p := (d - 0x80) % 8
    let c := s.core r
    let q := c.port p
    let k := t.src.toNat
    let s := s.deliver d t
    zResume r (s.setCore r (c.setPort p { q with taken := tset (fun _ => 0) q.taken k (tget (fun _ => 0) q.taken k - n) }))
  else if t.kind = 12#4 then s.deliver d t
  else s

def execCreditReturn (tok : Token) (n : Nat) (s : State) : Host.Outcome State Fault Refusal := .next (creditReturn tok n s)

/-- RSP_ABSORBED (R36): an RSP, CRED or SYNC its endpoint does not handle, or an RSP that answers nothing it sent. -/
def execRspAbsorbed (tok : Token) (s : State) : Host.Outcome State Fault Refusal :=
  .next (if neverAnswered tok then (s.deliver tok.dest.toNat tok).absorb tok.dest.toNat tok else s)

/-- PORT_TIMEOUT: blocked longer than BLKTO µs on a port, t6 or a slot, or in FENCE or TSEL; WAITT does not count (R122). -/
def portTimeout (r : Nat) (s : State) : State :=
  let c := s.core r
  let lim := s.f CORE.CFG.BLKTO r
  match c.blocked with
  | some b =>
    if lim ≠ 0 ∧ (s.coreState r = 2 ∨ s.coreState r = 4) then
      let s := s.reach (b.since + lim * 1000)
      zException r 7 (wd b.mask) s (s.core r)
    else s
  | none => s

def execPortTimeout (r : Fin 18) (s : State) : Host.Outcome State Fault Refusal := .next (portTimeout r s)

/-- POSTED_WRITE_ACK: the acknowledge, or the refusal, of a posted write (R115). -/
def postedAck (r : Nat) (t : Token) (s : State) : State :=
  let c := s.core r
  if t.kind ≠ 5#4 ∨ c.posted = 0 then s
  else
    let s := s.deliver (portEp r 6) t
    let c := { c with posted := c.posted - 1 }
    let c := if t.err then c.addAsync 6 t.payload else c
    zResume r (s.setCore r c)

def execPostedWriteAck (r : Fin 18) (tok : Token) (s : State) : Host.Outcome State Fault Refusal := .next (postedAck r tok s)

/-- The words of a bulk copy, in order: it stops at a refusal (cause 0x06) or a poisoned word (cause 0x05), with the failing address. -/
def bulkRun (src : BitVec 10) (s : State) (a d : Nat) : Nat → State × Option (Nat × Nat)
  | 0 => (s, none)
  | n + 1 =>
    let ea := s.ownerOf a
    let ed := s.ownerOf d
    if !isMemEp ea || (s.memRefusal ea a 1 false).isSome || !srcAllowed ea src then (s, some (6, a))
    else if s.eccAt a = some .double then ((s.memTouch ea a 1 src).eccRead a, some (5, a))
    else if !isMemEp ed || (s.memRefusal ed d 1 true).isSome || !srcAllowed ed src then (s, some (6, d))
    else
      let s := ((s.memTouch ea a 1 src).eccRead a).memTouch ed d 1 src
      bulkRun src (s.st d (s.ld a)) (a + 8) (d + 8) n

/-- BULK_COMPLETE (R116): the copy of the operation on a t6 stream takes effect and its slot is free. -/
def bulkComplete (r : Nat) (stream : Nat) (s : State) : State :=
  let c := s.core r
  match c.bulks.find? (fun b => b.stream == stream) with
  | none => s
  | some b =>
    let res := bulkRun (BitVec.ofNat 10 (portEp r 6)) s b.src b.dst b.words
    let c := { c with bulks := c.bulks.filter (fun x => x.stream != stream) }
    let c := match res.2 with
      | none => c
      | some (code, a) => c.addAsync code (wd a)
    zResume r (res.1.setCore r c)

def execBulkComplete (r : Fin 18) (stream : BitVec 8) (s : State) : Host.Outcome State Fault Refusal :=
  .next (bulkComplete r stream.toNat s)

/-! ### START, HALT, STEP, IMG (R125–R129) -/

/-- A port after START: the buffer is kept, the outgoing tag takes its defaults. -/
def Port.restart (q : Port) : Port := { buf := q.buf, taken := q.taken }

/-- The core after START: PC at ENTRY, registers, predicates and state words at their reset values (R125). -/
def Core.started (c : Core) (entry : Nat) : Core :=
  { pc := 4 * entry, ports := c.ports.map (fun q => q.restart),
    posted := c.posted, bulks := c.bulks }

/-- START on a halted core; on a running one it only raises an info-class event (R126). -/
def coreStart (r : Nat) (s : State) : State :=
  if s.coreState r = 0 then
    (s.setCore r ((s.core r).started (s.f CORE.CFG.ENTRY r))).setCoreState r 1
  else s.info 6 r (portEp r 0)

/-- HALT: at the next boundary, or at once on a blocked instruction, which is abandoned (R126). -/
def coreHalt (r : Nat) (s : State) : State :=
  let st := s.coreState r
  if 1 ≤ st ∧ st ≤ 4 then
    (s.setCore r { (s.core r).unblock s.mt with stepping := false }).setCoreState r 0
  else s

/-- STEP: one instruction on a halted core, which then halts again (R126). -/
def coreStep (r : Nat) (s : State) : State :=
  if s.coreState r = 0 then zFetchRun r (s.setCore r { s.core r with stepping := true, asleep := false })
  else s.info 6 r (portEp r 0)

/-- CTRL with more than one bit set is refused with CODE 0x04 (R129). -/
def coreCtrlCheck (data : Word) : Option Nat := if popcount 3 data.toNat ≤ 1 then none else some 4

def coreCtrlEffect (r : Nat) (data : Word) (s : State) : State :=
  if CORE.CTRL.START.get data = 1 then coreStart r s
  else if CORE.CTRL.HALT.get data = 1 then coreHalt r s
  else if CORE.CTRL.STEP.get data = 1 then coreStep r s
  else s

/-- VALID with an image not wholly in installed DRAM is refused (R129). -/
def coreImgCheck (data : Word) (s : State) : Option Nat :=
  if CORE.IMG.VALID.get data = 1 ∧ s.inDram (CORE.IMG.BASE.get data * 2 ^ 17) 0x20000 = false then some 8 else none

/-! ### Moving, losing and restarting a role (R127, R128) -/

/-- CORE_ROTATION: allowed with ROT 1 and the core halted, blocked on a port, or in WAITT; the role is in STATE 0x5 meanwhile (R127). -/
def coreRotation (r phys : Nat) (s : State) : State :=
  let st := s.coreState r
  if s.on CORE.CFG.ROT r ∧ (st = 0 ∨ st = 2 ∨ st = 3) then
    (s.setCore r { s.core r with moving := some (st, phys) }).setCoreState r 5
  else s

/-- CORE_MOVE_COMPLETE: the role leaves STATE 0x5 on its new physical core; a WAITT whose target has passed completes (R127). -/
def coreMoveComplete (r : Nat) (s : State) : State :=
  let c := s.core r
  match c.moving with
  | none => s
  | some (st, phys) =>
    zResume r (((s.setCore r { c with moving := none }).setCoreState r st).setF CORE.STAT.PHYS r phys)

/-- A physical core judged failed: its role is lost at once (R128). -/
def coreLost (r : Nat) (s : State) : State := (s.setCore r { s.core r with moving := none, stepping := false }).setCoreState r 6

/-- The bytes of local memory a restart writes: the code half from the image, the data half from it or cleared (R128). -/
def State.copyWords (s : State) (src dst : Nat) : Nat → State
  | 0 => s
  | n + 1 => (s.st dst (s.ld src)).copyWords (src + 8) (dst + 8) n

/-- The bytes from `a`, `n` of them, become 0, and their error marks clear: the entries of that range are removed. -/
def State.clearRange (s : State) (a n : Nat) : State :=
  (s.setMem (s.mem.filter (fun p => !decide (a ≤ p.1 ∧ p.1 < a + n)))).setEccs
    (s.eccs.filter (fun p => !decide (a ≤ p.1 ∧ p.1 < a + n)))

/-- A range becomes a copy of another: its entries are those of the source, moved. -/
def State.copyRange (s : State) (src dst n : Nat) : State :=
  let moved := (s.mem.filter (fun p => decide (src ≤ p.1 ∧ p.1 < src + n))).map (fun p => (p.1 - src + dst, p.2))
  moved.foldl (fun s p => s.setByte p.1 p.2) (s.clearRange dst n)

/-- CORE_RESTART: a lost role is restarted on a spare from its image; without a valid image it stays lost, with a warning (R128). -/
def coreRestart (r phys : Nat) (s : State) : State :=
  if s.coreState r ≠ 6 then s
  else if !s.on CORE.IMG.VALID r then s.warn 6 r (portEp r 0)
  else
    let base := s.f CORE.IMG.BASE r * 2 ^ 17
    let s := s.copyRange base (localAddr r 0) 0x10000
    let s := if s.on CORE.IMG.DATA r then s.copyRange (base + 0x10000) (localAddr r 0x10000) 0x10000
      else s.clearRange (localAddr r 0x10000) 0x10000
    coreStart r (((s.incF CORE.STAT.RESTARTS r).setF CORE.STAT.PHYS r phys).setCoreState r 0)

/-! ### The instruction rows: each is one instruction of core `r` under guard `g` -/

/-- ADD. -/
def execZAdd (r : Fin 18) (g : BitVec 4) (rd ra rb : BitVec 5) (m : BitVec 2) (s : State) : Host.Outcome State Fault Refusal :=
  .next (zExec r g (.alu 0 rd ra rb m) s)

/-- SUB. -/
def execZSub (r : Fin 18) (g : BitVec 4) (rd ra rb : BitVec 5) (m : BitVec 2) (s : State) : Host.Outcome State Fault Refusal :=
  .next (zExec r g (.alu 1 rd ra rb m) s)

/-- AND. -/
def execZAnd (r : Fin 18) (g : BitVec 4) (rd ra rb : BitVec 5) (m : BitVec 2) (s : State) : Host.Outcome State Fault Refusal :=
  .next (zExec r g (.alu 2 rd ra rb m) s)

/-- OR. -/
def execZOr (r : Fin 18) (g : BitVec 4) (rd ra rb : BitVec 5) (m : BitVec 2) (s : State) : Host.Outcome State Fault Refusal :=
  .next (zExec r g (.alu 3 rd ra rb m) s)

/-- XOR. -/
def execZXor (r : Fin 18) (g : BitVec 4) (rd ra rb : BitVec 5) (m : BitVec 2) (s : State) : Host.Outcome State Fault Refusal :=
  .next (zExec r g (.alu 4 rd ra rb m) s)

/-- ANDN. -/
def execZAndn (r : Fin 18) (g : BitVec 4) (rd ra rb : BitVec 5) (m : BitVec 2) (s : State) : Host.Outcome State Fault Refusal :=
  .next (zExec r g (.alu 5 rd ra rb m) s)

/-- SHL. -/
def execZShl (r : Fin 18) (g : BitVec 4) (rd ra rb : BitVec 5) (m : BitVec 2) (s : State) : Host.Outcome State Fault Refusal :=
  .next (zExec r g (.alu 6 rd ra rb m) s)

/-- SHR. -/
def execZShr (r : Fin 18) (g : BitVec 4) (rd ra rb : BitVec 5) (m : BitVec 2) (s : State) : Host.Outcome State Fault Refusal :=
  .next (zExec r g (.alu 7 rd ra rb m) s)

/-- SAR. -/
def execZSar (r : Fin 18) (g : BitVec 4) (rd ra rb : BitVec 5) (m : BitVec 2) (s : State) : Host.Outcome State Fault Refusal :=
  .next (zExec r g (.alu 8 rd ra rb m) s)

/-- ROR. -/
def execZRor (r : Fin 18) (g : BitVec 4) (rd ra rb : BitVec 5) (m : BitVec 2) (s : State) : Host.Outcome State Fault Refusal :=
  .next (zExec r g (.alu 9 rd ra rb m) s)

/-- MIN. -/
def execZMin (r : Fin 18) (g : BitVec 4) (rd ra rb : BitVec 5) (m : BitVec 2) (s : State) : Host.Outcome State Fault Refusal :=
  .next (zExec r g (.alu 10 rd ra rb m) s)

/-- MAX. -/
def execZMax (r : Fin 18) (g : BitVec 4) (rd ra rb : BitVec 5) (m : BitVec 2) (s : State) : Host.Outcome State Fault Refusal :=
  .next (zExec r g (.alu 11 rd ra rb m) s)

/-- MINU. -/
def execZMinu (r : Fin 18) (g : BitVec 4) (rd ra rb : BitVec 5) (m : BitVec 2) (s : State) : Host.Outcome State Fault Refusal :=
  .next (zExec r g (.alu 12 rd ra rb m) s)

/-- MAXU. -/
def execZMaxu (r : Fin 18) (g : BitVec 4) (rd ra rb : BitVec 5) (m : BitVec 2) (s : State) : Host.Outcome State Fault Refusal :=
  .next (zExec r g (.alu 13 rd ra rb m) s)

/-- CLZ. -/
def execZClz (r : Fin 18) (g : BitVec 4) (rd ra rb : BitVec 5) (m : BitVec 2) (s : State) : Host.Outcome State Fault Refusal :=
  .next (zExec r g (.alu 14 rd ra rb m) s)

/-- CTZ. -/
def execZCtz (r : Fin 18) (g : BitVec 4) (rd ra rb : BitVec 5) (m : BitVec 2) (s : State) : Host.Outcome State Fault Refusal :=
  .next (zExec r g (.alu 15 rd ra rb m) s)

/-- POPC. -/
def execZPopc (r : Fin 18) (g : BitVec 4) (rd ra rb : BitVec 5) (m : BitVec 2) (s : State) : Host.Outcome State Fault Refusal :=
  .next (zExec r g (.alu 16 rd ra rb m) s)

/-- BSWAP. -/
def execZBswap (r : Fin 18) (g : BitVec 4) (rd ra rb : BitVec 5) (m : BitVec 2) (s : State) : Host.Outcome State Fault Refusal :=
  .next (zExec r g (.alu 17 rd ra rb m) s)

/-- MUL. -/
def execZMul (r : Fin 18) (g : BitVec 4) (rd ra rb : BitVec 5) (m : BitVec 2) (s : State) : Host.Outcome State Fault Refusal :=
  .next (zExec r g (.alu 18 rd ra rb m) s)

/-- MULHU. -/
def execZMulhu (r : Fin 18) (g : BitVec 4) (rd ra rb : BitVec 5) (m : BitVec 2) (s : State) : Host.Outcome State Fault Refusal :=
  .next (zExec r g (.alu 19 rd ra rb m) s)

/-- MULHS. -/
def execZMulhs (r : Fin 18) (g : BitVec 4) (rd ra rb : BitVec 5) (m : BitVec 2) (s : State) : Host.Outcome State Fault Refusal :=
  .next (zExec r g (.alu 20 rd ra rb m) s)

/-- DIVU. -/
def execZDivu (r : Fin 18) (g : BitVec 4) (rd ra rb : BitVec 5) (m : BitVec 2) (s : State) : Host.Outcome State Fault Refusal :=
  .next (zExec r g (.alu 21 rd ra rb m) s)

/-- DIVS. -/
def execZDivs (r : Fin 18) (g : BitVec 4) (rd ra rb : BitVec 5) (m : BitVec 2) (s : State) : Host.Outcome State Fault Refusal :=
  .next (zExec r g (.alu 22 rd ra rb m) s)

/-- REMU. -/
def execZRemu (r : Fin 18) (g : BitVec 4) (rd ra rb : BitVec 5) (m : BitVec 2) (s : State) : Host.Outcome State Fault Refusal :=
  .next (zExec r g (.alu 23 rd ra rb m) s)

/-- REMS. -/
def execZRems (r : Fin 18) (g : BitVec 4) (rd ra rb : BitVec 5) (m : BitVec 2) (s : State) : Host.Outcome State Fault Refusal :=
  .next (zExec r g (.alu 24 rd ra rb m) s)

/-- SEXTW. -/
def execZSextw (r : Fin 18) (g : BitVec 4) (rd ra rb : BitVec 5) (m : BitVec 2) (s : State) : Host.Outcome State Fault Refusal :=
  .next (zExec r g (.alu 25 rd ra rb m) s)

/-- ADDSAT. -/
def execZAddsat (r : Fin 18) (g : BitVec 4) (rd ra rb : BitVec 5) (m : BitVec 2) (s : State) : Host.Outcome State Fault Refusal :=
  .next (zExec r g (.alu 26 rd ra rb m) s)

/-- SUBSAT. -/
def execZSubsat (r : Fin 18) (g : BitVec 4) (rd ra rb : BitVec 5) (m : BitVec 2) (s : State) : Host.Outcome State Fault Refusal :=
  .next (zExec r g (.alu 27 rd ra rb m) s)

/-- ADDI. -/
def execZAddi (r : Fin 18) (g : BitVec 4) (rd ra : BitVec 5) (imm : BitVec 12) (s : State) : Host.Outcome State Fault Refusal :=
  .next (zExec r g (.imm 1 rd ra imm) s)

/-- ANDI. -/
def execZAndi (r : Fin 18) (g : BitVec 4) (rd ra : BitVec 5) (imm : BitVec 12) (s : State) : Host.Outcome State Fault Refusal :=
  .next (zExec r g (.imm 2 rd ra imm) s)

/-- ORI. -/
def execZOri (r : Fin 18) (g : BitVec 4) (rd ra : BitVec 5) (imm : BitVec 12) (s : State) : Host.Outcome State Fault Refusal :=
  .next (zExec r g (.imm 3 rd ra imm) s)

/-- XORI. -/
def execZXori (r : Fin 18) (g : BitVec 4) (rd ra : BitVec 5) (imm : BitVec 12) (s : State) : Host.Outcome State Fault Refusal :=
  .next (zExec r g (.imm 4 rd ra imm) s)

/-- SHLI. -/
def execZShli (r : Fin 18) (g : BitVec 4) (rd ra : BitVec 5) (imm : BitVec 12) (s : State) : Host.Outcome State Fault Refusal :=
  .next (zExec r g (.imm 5 rd ra imm) s)

/-- SHRI. -/
def execZShri (r : Fin 18) (g : BitVec 4) (rd ra : BitVec 5) (imm : BitVec 12) (s : State) : Host.Outcome State Fault Refusal :=
  .next (zExec r g (.imm 6 rd ra imm) s)

/-- SARI. -/
def execZSari (r : Fin 18) (g : BitVec 4) (rd ra : BitVec 5) (imm : BitVec 12) (s : State) : Host.Outcome State Fault Refusal :=
  .next (zExec r g (.imm 7 rd ra imm) s)

/-- MULI. -/
def execZMuli (r : Fin 18) (g : BitVec 4) (rd ra : BitVec 5) (imm : BitVec 12) (s : State) : Host.Outcome State Fault Refusal :=
  .next (zExec r g (.imm 8 rd ra imm) s)

/-- LB. -/
def execZLb (r : Fin 18) (g : BitVec 4) (rd ra : BitVec 5) (imm : BitVec 12) (s : State) : Host.Outcome State Fault Refusal :=
  .next (zExec r g (.imm 16 rd ra imm) s)

/-- LBU. -/
def execZLbu (r : Fin 18) (g : BitVec 4) (rd ra : BitVec 5) (imm : BitVec 12) (s : State) : Host.Outcome State Fault Refusal :=
  .next (zExec r g (.imm 17 rd ra imm) s)

/-- LH. -/
def execZLh (r : Fin 18) (g : BitVec 4) (rd ra : BitVec 5) (imm : BitVec 12) (s : State) : Host.Outcome State Fault Refusal :=
  .next (zExec r g (.imm 18 rd ra imm) s)

/-- LHU. -/
def execZLhu (r : Fin 18) (g : BitVec 4) (rd ra : BitVec 5) (imm : BitVec 12) (s : State) : Host.Outcome State Fault Refusal :=
  .next (zExec r g (.imm 19 rd ra imm) s)

/-- LW. -/
def execZLw (r : Fin 18) (g : BitVec 4) (rd ra : BitVec 5) (imm : BitVec 12) (s : State) : Host.Outcome State Fault Refusal :=
  .next (zExec r g (.imm 20 rd ra imm) s)

/-- LWU. -/
def execZLwu (r : Fin 18) (g : BitVec 4) (rd ra : BitVec 5) (imm : BitVec 12) (s : State) : Host.Outcome State Fault Refusal :=
  .next (zExec r g (.imm 21 rd ra imm) s)

/-- LD. -/
def execZLd (r : Fin 18) (g : BitVec 4) (rd ra : BitVec 5) (imm : BitVec 12) (s : State) : Host.Outcome State Fault Refusal :=
  .next (zExec r g (.imm 22 rd ra imm) s)

/-- LI. -/
def execZLi (r : Fin 18) (g : BitVec 4) (rd : BitVec 5) (imm : BitVec 17) (s : State) : Host.Outcome State Fault Refusal :=
  .next (zExec r g (.long 9 rd imm) s)

/-- LSO. -/
def execZLso (r : Fin 18) (g : BitVec 4) (rd : BitVec 5) (imm : BitVec 17) (s : State) : Host.Outcome State Fault Refusal :=
  .next (zExec r g (.long 10 rd imm) s)

/-- SB. -/
def execZSb (r : Fin 18) (g : BitVec 4) (rs ra : BitVec 5) (imm : BitVec 12) (s : State) : Host.Outcome State Fault Refusal :=
  .next (zExec r g (.store 24 rs ra imm) s)

/-- SH. -/
def execZSh (r : Fin 18) (g : BitVec 4) (rs ra : BitVec 5) (imm : BitVec 12) (s : State) : Host.Outcome State Fault Refusal :=
  .next (zExec r g (.store 25 rs ra imm) s)

/-- SW. -/
def execZSw (r : Fin 18) (g : BitVec 4) (rs ra : BitVec 5) (imm : BitVec 12) (s : State) : Host.Outcome State Fault Refusal :=
  .next (zExec r g (.store 26 rs ra imm) s)

/-- SD. -/
def execZSd (r : Fin 18) (g : BitVec 4) (rs ra : BitVec 5) (imm : BitVec 12) (s : State) : Host.Outcome State Fault Refusal :=
  .next (zExec r g (.store 27 rs ra imm) s)

/-- CMP. -/
def execZCmp (r : Fin 18) (g : BitVec 4) (pd cc : BitVec 3) (ra rb : BitVec 5) (s : State) : Host.Outcome State Fault Refusal :=
  .next (zExec r g (.cmp pd cc ra rb) s)

/-- CMPI. -/
def execZCmpi (r : Fin 18) (g : BitVec 4) (pd cc : BitVec 3) (ra : BitVec 5) (imm : BitVec 11) (s : State) : Host.Outcome State Fault Refusal :=
  .next (zExec r g (.cmpi pd cc ra imm) s)

/-- PLOG. -/
def execZPlog (r : Fin 18) (g : BitVec 4) (pd pa pb : BitVec 3) (fn : BitVec 2) (s : State) : Host.Outcome State Fault Refusal :=
  .next (zExec r g (.plog pd pa pb fn) s)

/-- BR. -/
def execZBr (r : Fin 18) (g : BitVec 4) (off : BitVec 22) (s : State) : Host.Outcome State Fault Refusal :=
  .next (zExec r g (.br off) s)

/-- CALL. -/
def execZCall (r : Fin 18) (g : BitVec 4) (off : BitVec 22) (s : State) : Host.Outcome State Fault Refusal :=
  .next (zExec r g (.call off) s)

/-- JALR. -/
def execZJalr (r : Fin 18) (g : BitVec 4) (rd ra : BitVec 5) (s : State) : Host.Outcome State Fault Refusal :=
  .next (zExec r g (.jalr rd ra) s)

/-- TPOLL. -/
def execZTpoll (r : Fin 18) (g : BitVec 4) (p : BitVec 5) (tp : BitVec 3) (s : State) : Host.Outcome State Fault Refusal :=
  .next (zExec r g (.tok 0 p tp 0) s)

/-- TTAG. -/
def execZTtag (r : Fin 18) (g : BitVec 4) (d : BitVec 5) (tp : BitVec 3) (sel : BitVec 10) (s : State) : Host.Outcome State Fault Refusal :=
  .next (zExec r g (.tok 1 d tp sel) s)

/-- TSET. -/
def execZTset (r : Fin 18) (g : BitVec 4) (a : BitVec 5) (tp : BitVec 3) (sel : BitVec 10) (s : State) : Host.Outcome State Fault Refusal :=
  .next (zExec r g (.tok 2 a tp sel) s)

/-- TSENDL. -/
def execZTsendl (r : Fin 18) (g : BitVec 4) (a : BitVec 5) (tp : BitVec 3) (s : State) : Host.Outcome State Fault Refusal :=
  .next (zExec r g (.tok 3 a tp 0) s)

/-- TSEL. -/
def execZTsel (r : Fin 18) (g : BitVec 4) (d : BitVec 5) (sel : BitVec 10) (s : State) : Host.Outcome State Fault Refusal :=
  .next (zExec r g (.tok 4 d 0 sel) s)

/-- TCRED. -/
def execZTcred (r : Fin 18) (g : BitVec 4) (d : BitVec 5) (tp : BitVec 3) (s : State) : Host.Outcome State Fault Refusal :=
  .next (zExec r g (.tok 5 d tp 0) s)

/-- GETS. -/
def execZGets (r : Fin 18) (g : BitVec 4) (rd idx : BitVec 5) (s : State) : Host.Outcome State Fault Refusal :=
  .next (zExec r g (.sys 0 rd idx 0) s)

/-- PUTS. -/
def execZPuts (r : Fin 18) (g : BitVec 4) (idx rb : BitVec 5) (s : State) : Host.Outcome State Fault Refusal :=
  .next (zExec r g (.sys 1 0 idx rb) s)

/-- ERET. -/
def execZEret (r : Fin 18) (g : BitVec 4) (s : State) : Host.Outcome State Fault Refusal :=
  .next (zExec r g (.sys 2 0 0 0) s)

/-- BRK. -/
def execZBrk (r : Fin 18) (g : BitVec 4) (s : State) : Host.Outcome State Fault Refusal :=
  .next (zExec r g (.sys 3 0 0 0) s)

/-- HALT. -/
def execZHalt (r : Fin 18) (g : BitVec 4) (s : State) : Host.Outcome State Fault Refusal :=
  .next (zExec r g (.sys 4 0 0 0) s)

/-- FENCE. -/
def execZFence (r : Fin 18) (g : BitVec 4) (s : State) : Host.Outcome State Fault Refusal :=
  .next (zExec r g (.sys 5 0 0 0) s)

/-- GETMT. -/
def execZGetmt (r : Fin 18) (g : BitVec 4) (rd : BitVec 5) (s : State) : Host.Outcome State Fault Refusal :=
  .next (zExec r g (.sys 6 rd 0 0) s)

/-- WAITT. -/
def execZWaitt (r : Fin 18) (g : BitVec 4) (ra : BitVec 5) (s : State) : Host.Outcome State Fault Refusal :=
  .next (zExec r g (.sys 7 0 ra 0) s)

/-- RLD. -/
def execZRld (r : Fin 18) (g : BitVec 4) (rd ra : BitVec 5) (s : State) : Host.Outcome State Fault Refusal :=
  .next (zExec r g (.sys 8 rd ra 0) s)

/-- RST. -/
def execZRst (r : Fin 18) (g : BitVec 4) (ra rb : BitVec 5) (s : State) : Host.Outcome State Fault Refusal :=
  .next (zExec r g (.sys 9 0 ra rb) s)

/-- RSWP. -/
def execZRswp (r : Fin 18) (g : BitVec 4) (rd ra rb : BitVec 5) (s : State) : Host.Outcome State Fault Refusal :=
  .next (zExec r g (.sys 10 rd ra rb) s)

/-- RADD. -/
def execZRadd (r : Fin 18) (g : BitVec 4) (rd ra rb : BitVec 5) (s : State) : Host.Outcome State Fault Refusal :=
  .next (zExec r g (.sys 11 rd ra rb) s)

/-- RCAS. -/
def execZRcas (r : Fin 18) (g : BitVec 4) (rd ra rb : BitVec 5) (s : State) : Host.Outcome State Fault Refusal :=
  .next (zExec r g (.sys 12 rd ra rb) s)

/-- CWRD. -/
def execZCwrd (r : Fin 18) (g : BitVec 4) (rd ra : BitVec 5) (s : State) : Host.Outcome State Fault Refusal :=
  .next (zExec r g (.sys 13 rd ra 0) s)

/-- CWWR. -/
def execZCwwr (r : Fin 18) (g : BitVec 4) (ra rb : BitVec 5) (s : State) : Host.Outcome State Fault Refusal :=
  .next (zExec r g (.sys 14 0 ra rb) s)

/-- RGET. -/
def execZRget (r : Fin 18) (g : BitVec 4) (rd ra rb : BitVec 5) (s : State) : Host.Outcome State Fault Refusal :=
  .next (zExec r g (.sys 16 rd ra rb) s)

/-- RPUT. -/
def execZRput (r : Fin 18) (g : BitVec 4) (rd ra rb : BitVec 5) (s : State) : Host.Outcome State Fault Refusal :=
  .next (zExec r g (.sys 17 rd ra rb) s)

/-- RMOVE. -/
def execZRmove (r : Fin 18) (g : BitVec 4) (rd ra rb : BitVec 5) (s : State) : Host.Outcome State Fault Refusal :=
  .next (zExec r g (.sys 18 rd ra rb) s)

end Sys2Proof.Machine
end

