-- ==== Sys2Proof/Machine/Power.lean ====
section
/-! DEFINITION. Housekeeping, throttling, wake permits and the vault (R447–R464, R479): the rails, the temperature, the hold, the sleeping
blocks, AT's crystal and the tamper latch. -/

namespace Sys2Proof.Machine

open Sys2Proof

/-! ### What survives a reset (R454, R471) -/

/-- The control words a reset leaves: the vault's, the key-slot counters and the fused SVN, and the time-base unit's where it keeps running. -/
def survives (keepTb : Bool) (a : Nat) : Bool :=
  blockOf a == 0x1A || a == BOOT.SVN.MIN.base || ((List.range 8).any (fun i => a == VCT.SLOT.CTR.V.addr i)) || (keepTb && blockOf a == 2)

/-- Every block reset; the vault, the boot flash, the fuses and the levels of the input pins stay (R454, R471). Packets already sent stay in the
model's log of them. -/
def State.resetTo (s : State) (keepTb : Bool) : State :=
  let at_ := s.atNow
  let r := (((((State.reset.setPending s.pending).setCw (s.cw.filter (fun p => survives keepTb p.1))).setFlash s.flash).setKeyHashes
    s.keyHashes).setVault s.vault).setFreeCtr s.freeCtr
  let r := (r.setHolds s.holds).setBasin { r.basin with safeA := s.basin.safeA, safeB := s.basin.safeB, testmode := s.basin.testmode }
  let r := r.setHost { r.host with out := s.host.out, frames := s.host.frames }
  if keepTb then ((r.setMt s.mt).setTb s.tb).setHouse { judged := s.house.judged, age := s.house.age }
  else (r.setTb { atTicks := at_, atStopped := s.tb.atStopped }).setMt 0

/-- The device held in reset: LGATE and ERROR_n low, the other timed pins at high impedance (R20, R447). -/
def State.holdReset (s : State) (keepTb : Bool) : State :=
  ((List.range 60).map (48 + ·)).foldl (fun s n => s.setCol n { s.col n with hiz := true }) (s.resetTo keepTb)

/-- A record reaches the vault mirror whether or not it is frozen (R463, R477). -/
def State.mirrorLast (s : State) (w : List Word) : State :=
  if s.f VAULT.STAT.MFRZ = 0 then s
  else
    let j := s.f VAULT.STAT.MNEXT
    let s := (List.range 4).foldl (fun s i => s.setF VAULT.MREC.V (4 * j + i) (w.getD i 0).toNat) s
    s.setF VAULT.STAT.MNEXT 0 ((j + 1) % 64)

/-- A raise the Basin takes at once and whose record reaches the mirror. -/
def State.lastRaise (s : State) (cls source src : Nat) (d0 : Word) : State :=
  let q := s.dale.rseq
  let r : Raise := ⟨cls, source, 1, 0, src, d0, 0, s.mt⟩
  (s.takeRaise r true false).mirrorLast [wd s.mt, daleWord1 r true false q, d0, 0]

/-! ### Pins and rails (R447–R449, R471) -/

/-- PORST_n falls: the device is held in reset. -/
def porstAssert (s : State) : State := (s.setHolds { s.holds with porst := true, shut := false }).holdReset false

/-- RESET_n falls: every block but the time base and the vault is held. -/
def resetAssert (s : State) : State := (s.setHolds { s.holds with reset := true }).holdReset true

/-- A rail below its warning threshold for 1 µs: GOFF, and source 3 as critical (R449). -/
def brownoutWarning (rail : Nat) (s : State) : State := s.gateOffAll.critical 3 rail 6 (s.word HK.STAT.HOLD.base)

/-- A rail below its reset threshold holds the device as PORST_n low does (R449). -/
def brownoutReset (rail : Nat) (s : State) : State :=
  (s.setHolds { s.holds with rails := rail :: s.holds.rails.filter (· != rail) }).holdReset false

/-! ### The housekeeping round (R450, R458–R463, R479) -/

/-- The least and greatest voltage of each rail in mV, in the order of the supply table. -/
def railRange : List (Nat × Nat) :=
  [(768, 832), (768, 832), (816, 884), (873, 927), (1140, 1260), (1140, 1260), (1067, 1133), (1710, 1890), (2000, 3600)]

/-- A counter kept per number: one more, or away. -/
def bump (l : List (Nat × Nat)) (k : Nat) (on : Bool) : List (Nat × Nat) :=
  let n := ((l.find? (fun p => p.1 == k)).map (·.2)).getD 0
  let rest := l.filter (fun p => p.1 != k)
  if on then (k, n + 1) :: rest else rest

def countOf (l : List (Nat × Nat)) (k : Nat) : Nat := ((l.find? (fun p => p.1 == k)).map (·.2)).getD 0

/-- One rail of a round (R450). -/
def State.railRound (s : State) (k mv : Nat) : State :=
  let r := railRange.getD k (0, 0)
  let low : Bool := decide (mv < r.1)
  let high : Bool := decide (r.2 < mv)
  let s := ((s.setF HK.RAIL.MV k mv).setF HK.RAIL.LOW k low.toNat).setF HK.RAIL.HIGH k high.toNat
  let s := s.setHouse { s.house with railOut := bump s.house.railOut k (low || high) }
  let s := if low || high then
      let s := (s.setF HK.STAT.RAIL 0 1).warn 3 k 6
      if countOf s.house.railOut k = 3 then s.severe 3 k 6 else s
    else s
  if k = 8 then
    let vlow : Bool := decide (mv < 2200)
    let s := s.setF VAULT.STAT.VBATLOW 0 vlow.toNat
    if vlow then (s.setF HK.STAT.VBATLOW 0 1).warn 3 k 6 else s
  else s

/-- A sensor broken for this round (R459). -/
def sensorBroken (x : SensorIn) : Bool :=
  decide (16 < x.ref0.natAbs) || decide (16 < x.ref1.natAbs) || !x.complete || decide (x.t < -960) || decide (2400 < x.t)

/-- One sensor of a round: its raw reading, and the judgement after two rounds. -/
def State.sensorRound (s : State) (i : Nat) (x : SensorIn) : State :=
  let s := if x.complete then s.setFi HK.SENS.T i x.t else s
  if sensorBroken x && s.house.brokeLast.contains i && !s.house.judged.contains i then
    let s := s.setHouse { s.house with judged := i :: s.house.judged }
    let s := s.setF (if i % 2 = 0 then HK.REGION.BROKENA else HK.REGION.BROKENB) (i / 2) 1
    (s.setF HK.STAT.BROKEN 0 1).warn 2 i 6
  else s

/-- Whether a sensor counts as broken in this round. -/
def State.isBroken (s : State) (i : Nat) (x : SensorIn) : Bool := sensorBroken x || s.house.judged.contains i

/-- A sensor's reading as used: 150 °C where it is broken (R459; log entry 60). -/
def State.reading (s : State) (i : Nat) (x : SensorIn) : Int := if s.isBroken i x then 2400 else x.t

/-- A region's two readings, and whether each of its sensors works. -/
def State.regionRead (s : State) (sens : List SensorIn) (r : Nat) : Int × Int × Bool × Bool :=
  let a := sens.getD (2 * r) ⟨0, 0, false, 0⟩
  let b := sens.getD (2 * r + 1) ⟨0, 0, false, 0⟩
  (s.reading (2 * r) a, s.reading (2 * r + 1) b, !s.isBroken (2 * r) a, !s.isBroken (2 * r + 1) b)

/-- One region of a round: its temperature, disagreement, the critical stop (R459, R460, R462). -/
def State.regionRound (s : State) (sens : List SensorIn) (r : Nat) : State :=
  let (a, b, wa, wb) := s.regionRead sens r
  let s := s.setFi HK.REGION.T r (max a b)
  let apart : Bool := wa && wb && decide (160 < (a - b).natAbs)
  let s := s.setHouse { s.house with disagree := bump s.house.disagree r apart }
  let s := if countOf s.house.disagree r = 10 then (s.setF HK.STAT.DISAGREE 0 1).warn 2 r 6 else s
  let both : Bool := decide (1840 ≤ a) && decide (1840 ≤ b)
  let s := s.setF HK.REGION.CRIT r both.toNat
  if both && !s.house.crit.contains r then
    ((s.setHouse { s.house with crit := r :: s.house.crit }).levelOn 2).critical 2 r 6
  else if s.house.crit.contains r && (decide (a < 1760) || decide (b < 1760)) then
    let s := s.setHouse { s.house with crit := s.house.crit.filter (· != r) }
    if s.house.crit = [] then s.levelOff 2 else s
  else s

/-- The hold of R460 from the hottest temperature in 1/16 °C. -/
def State.holdOf (s : State) (t : Int) : Nat :=
  if s.on HK.CFG.THREN ∧ 1600 < t then min (s.f HK.CFG.HMAX) ((s.f HK.CFG.GAIN : Int) * (t - 1600) / 16).toNat else 0

/-- e^x for a number in 2^−60, by squaring a short series ten times. -/
def expFix (x : Int) : Int :=
  let one : Int := 2 ^ 60
  let y := x / 1024
  let r := (List.range 8).foldl (fun (p : Int × Int) n => let t := p.2 * y / one / ((n : Int) + 1); (p.1 + t, t)) (one, one)
  (List.range 10).foldl (fun v _ => v * v / one) r.1

/-- The ageing factor of R479 at `t` (1/16 °C), in 2^−60. -/
def ageFactor (t : Int) : Int := expFix ((812300 * (t * 100 - 152000)) * 2 ^ 60 / (36815 * (t * 100 + 437040)))

/-- HK.AGE from the model's finer count. -/
def ageHours (a : Nat) : Nat := min (2 ^ 32 - 1) (a / (2 ^ 40 * 3600000))

/-- Each round adds its 10 ms times the factor; end of life is noted once (R479). -/
def State.ageRound (s : State) (t : Int) : State :=
  let was := s.f HK.AGE.V
  let s := s.setHouse { s.house with age := s.house.age + (10 * ageFactor t / 2 ^ 20).toNat }
  let now := ageHours s.house.age
  let s := s.setF HK.AGE.V 0 now
  if was < 219150 ∧ 219150 ≤ now then (s.setF HK.STAT.AGEEOL 0 1).warn 20 0 6 else s

/-- Shutdown: GOFF, a record in the mirror, TSHUT, all blocks held in reset (R463). -/
def State.shutdown (s : State) : State :=
  let s := (s.gateOffAll.lastRaise 0 2 6 (s.word HK.STAT.HOLD.base)).setF VAULT.STAT.TSHUT 0 1
  (s.setHolds { s.holds with shut := true }).holdReset false

/-- Whether a region calls for the shutdown of R463. -/
def State.tooHot (s : State) (sens : List SensorIn) (r : Nat) : Bool :=
  let (a, b, wa, wb) := s.regionRead sens r
  decide (2000 ≤ a) && decide (2000 ≤ b) && (wa || wb)

/-- HOUSEKEEPING_ROUND, at the next multiple of 10 ms of MT. -/
def housekeepingRound (sens : List SensorIn) (rails : List Nat) (s : State) : State :=
  let s := s.reach ((s.mt / 10000000 + 1) * 10000000)
  let s := (List.range 9).foldl (fun s k => s.railRound k (rails.getD k 0)) s
  let s := (List.range 18).foldl (fun s i => s.sensorRound i (sens.getD i ⟨0, 0, false, 0⟩)) s
  let s := s.setHouse { s.house with brokeLast := (List.range 18).filter (fun i => sensorBroken (sens.getD i ⟨0, 0, false, 0⟩)) }
  let s := (List.range 9).foldl (fun s r => s.regionRound sens r) s
  let s := s.setF HK.STAT.CRIT 0 (if s.house.crit = [] then 0 else 1)
  let hot := (List.range 9).foldl (fun (m : Int) r => max m (s.fi HK.REGION.T r)) (-32768)
  let h := s.holdOf hot
  let was := s.f HK.STAT.HOLD
  let s := s.setF HK.STAT.HOLD 0 h
  let s := if was = 0 ∧ h ≠ 0 then (s.setF HK.STAT.HOT 0 1).warn 2 0 6 else s
  let s := s.ageRound hot
  if (List.range 9).any (fun r => s.tooHot sens r) then s.shutdown else s

/-- THROTTLE_SLOT: running customer cores are held for h × 100 ns at the slot's start (R461). -/
def throttleSlot (s : State) : State :=
  let s := s.reach ((s.mt / 10000 + 1) * 10000)
  let h := s.f HK.STAT.HOLD
  ((List.range 14).map (2 + ·)).foldl (fun s r =>
    if h ≠ 0 ∧ s.coreState r = 1 then s.setCore r { s.core r with blkns := (s.core r).blkns + h * 100 } else s) s

/-! ### Sleeping blocks and wake permits (R451, R452) -/

/-- Whether block `b` may sleep now (R451). -/
def State.maySleep (s : State) (b : Nat) : Bool :=
  if b < 14 then (let st := s.coreState (b + 2); st == 0 || st == 2 || st == 3)
  else if b < 16 then s.coreState (b + 2) == 7 || s.coreState (b + 2) == 0
  else if b < 42 then s.pgState (b - 16) == pgIDLE && !s.on PG.TRK.EN (b - 16)
  else if b = 42 then !(s.unitsIn 1).isEmpty
  else if b < 45 then (tget (fun _ => ({} : GChan)) s.gorge (b - 43)).queue.isEmpty && (tget (fun _ => ({} : GChan)) s.gorge (b - 43)).job.isNone
  else decide (12 ≤ b - 45) || (!s.on IP.CFG.EN (2 * (b - 45)) && !s.on IP.CFG.EN (2 * (b - 45) + 1))

/-- Whether a sleeping block has cause to wake: a token in transit to it, a START, an enable, a job. -/
def State.needsWake (s : State) (b : Nat) : Bool :=
  let dest (lo n : Nat) : Bool := s.net.any (fun t => decide (lo ≤ t.dest.toNat ∧ t.dest.toNat < lo + n))
  if b < 16 then dest (portEp (b + 2) 0) 8 || s.coreState (b + 2) == 1
  else if b < 42 then dest (pgEp (b - 16)) 1
  else if b = 42 then (s.unitsIn 1).isEmpty
  else if b < 45 then s.net.any (fun t => t.dest == 9#10 && t.stream.toNat == b - 43)
  else decide (b - 45 < 12) && (s.on IP.CFG.EN (2 * (b - 45)) || s.on IP.CFG.EN (2 * (b - 45) + 1))

/-- The stages of a block's wake after the first, and the time of each. -/
def wakeStages (b : Nat) : Nat := if 43 ≤ b then 1 else 0
def wakeTime (b : Nat) : Nat := if 43 ≤ b then 3000 else 2000

/-- A stage joins the one queue. -/
def State.wakeRequest (s : State) (b more : Nat) : State :=
  let w := s.wake
  let s := s.setWake { w with queue := w.queue ++ [⟨b, more, s.mt⟩] }
  if s.f HK.WAKE.MAXQ < s.wake.queue.length then s.setF HK.WAKE.MAXQ 0 s.wake.queue.length else s

/-- Whether a block's wake is under way. -/
def Wake.busy (w : Wake) (b : Nat) : Bool := w.queue.any (fun q => q.block == b) || w.waking.any (fun q => q.1 == b)

/-- BLOCK_SLEEP. -/
def blockSleep (b : Nat) (s : State) : State :=
  let w := s.wake
  if s.maySleep b && !s.needsWake b && !w.asleep.contains b then s.setWake { w with asleep := w.asleep ++ [b] } else s

/-- WAKE_PERMIT_GRANT: blocks with cause to wake request; the head of the queue is granted where one of the 8 permits is free. -/
def wakePermitGrant (s : State) : State :=
  let s := s.wake.asleep.foldl (fun s b => if s.needsWake b && !s.wake.busy b then s.wakeRequest b (wakeStages b) else s) s
  let w := s.wake
  match w.queue with
  | [] => s
  | q :: rest =>
    if 8 ≤ w.permits.length then s
    else
      let s := s.setWake { w with queue := rest, permits := w.permits ++ [s.mt + 4000], waking := w.waking ++ [(q.block, s.mt + wakeTime q.block, q.more)] }
      let s := s.incF HK.WAKE.GRANTS 0
      let s := if s.f HK.WAKE.MAXWAIT < s.mt - q.since then s.setF HK.WAKE.MAXWAIT 0 (min (2 ^ 32 - 1) (s.mt - q.since)) else s
      if 0 < q.more then s.wakeRequest q.block (q.more - 1) else s

/-- PERMIT_RETURN: the oldest grant's permit returns 4,000 ns after it. -/
def permitReturn (s : State) : State :=
  match s.wake.permits with
  | [] => s
  | t :: rest => (s.reach t).setWake { s.wake with permits := rest }

/-- WAKE_COMPLETE: the stage under way ends; after the last the block is awake. -/
def wakeComplete (b : Nat) (s : State) : State :=
  match s.wake.waking.find? (fun q => q.1 == b) with
  | none => s
  | some (_, t, more) =>
    let s := s.reach t
    let w := s.wake
    s.setWake { w with waking := w.waking.erase (b, t, more), asleep := if more = 0 then w.asleep.filter (· != b) else w.asleep }

/-- EARLY_WAKE: 45 µs before its WAITT target a sleeping core requests (R451). -/
def earlyWake (r : Nat) (s : State) : State :=
  let b := r - 2
  if 2 ≤ r ∧ s.coreState r = 3 ∧ s.wake.asleep.contains b = true ∧ s.wake.busy b = false then s.wakeRequest b 0 else s

/-! ### The vault (R454–R457) -/

/-- Every key slot is erased from the engine and the key store; PROV reads 0 (R380). -/
def State.eraseKeys (s : State) : State :=
  let s := (s.setKeySlots []).setFlash { s.flash with keys := [], mirrors := [] }
  let s := (List.range 8).foldl (fun s t => ((s.setWord (VCT.SLOT.CFG.KEY.addr t) 0).setF VCT.SLOT.CTR.V t 0).setF VCT.SLOT.MIRROR.V t 0) s
  s.setF VCT.STAT.PROV 0 0

/-- The tamper latch sets (R456). -/
def tamper (s : State) : State :=
  if s.on VAULT.STAT.TAMPER then s
  else ((s.eraseKeys.setF VAULT.STAT.TAMPER 0 1).setF VAULT.TAMP.TICK 0 s.atNow).critical 22 0 7 (s.word VAULT.STAT.TAMPER.base)

/-- The vault supply falls below 1.8 V: its contents are lost (R455, R456). -/
def vaultSupplyLoss (onVbat tampLow : Bool) (s : State) : State :=
  let s := if onVbat && tampLow then tamper s else s
  s.setVault { s.vault with good := false, supply := false }

/-- The vault supply returns: AT restarts from 0. -/
def vaultSupplyReturn (s : State) : State :=
  if s.vault.supply then s else (s.setVault { s.vault with supply := true }).putAt 0

/-- The crystal has stopped for 1 ms: AT holds its count. -/
def crystalStop (s : State) : State :=
  let v := s.atNow
  ((s.putAt v).setTb { (s.putAt v).tb with atStopped := true }).setF VAULT.STAT.XTALSTOP 0 1

/-- The crystal runs again: AT goes on from its count. -/
def crystalRestart (s : State) : State :=
  if s.tb.atStopped then (s.putAt s.atNow).setTb { (s.putAt s.atNow).tb with atStopped := false } else s

/-- MREL releases the freeze of the mirror (R457). -/
def vaultEffect (a : Nat) (data : Word) (s : State) : State :=
  if a = VAULT.CTRL.MREL.base ∧ VAULT.CTRL.MREL.get data = 1 then s.setF VAULT.STAT.MFRZ 0 0 else s

/-! ### The commands -/

/-- PORST_ASSERT (R447). -/
def execPorstAssert (s : State) : Host.Outcome State Fault Refusal := .next (porstAssert s)

/-- RESET_ASSERT (R471). -/
def execResetAssert (s : State) : Host.Outcome State Fault Refusal := .next (resetAssert s)

/-- BROWNOUT_WARNING (R449). -/
def execBrownoutWarning (rail : Fin 3) (s : State) : Host.Outcome State Fault Refusal := .next (brownoutWarning rail s)

/-- BROWNOUT_RESET (R449). -/
def execBrownoutReset (rail : Fin 3) (s : State) : Host.Outcome State Fault Refusal := .next (brownoutReset rail s)

/-- HOUSEKEEPING_ROUND (R450, R458–R463, R479). -/
def execHousekeepingRound (sens : List SensorIn) (rails : List Nat) (s : State) : Host.Outcome State Fault Refusal :=
  .next (housekeepingRound sens rails s)

/-- THROTTLE_SLOT (R461). -/
def execThrottleSlot (s : State) : Host.Outcome State Fault Refusal := .next (throttleSlot s)

/-- BLOCK_SLEEP (R451). -/
def execBlockSleep (b : Fin 58) (s : State) : Host.Outcome State Fault Refusal := .next (blockSleep b s)

/-- WAKE_PERMIT_GRANT (R452). -/
def execWakePermitGrant (s : State) : Host.Outcome State Fault Refusal := .next (wakePermitGrant s)

/-- PERMIT_RETURN (R452). -/
def execPermitReturn (s : State) : Host.Outcome State Fault Refusal := .next (permitReturn s)

/-- WAKE_COMPLETE (R451). -/
def execWakeComplete (b : Fin 58) (s : State) : Host.Outcome State Fault Refusal := .next (wakeComplete b s)

/-- EARLY_WAKE (R451). -/
def execEarlyWake (r : Fin 18) (s : State) : Host.Outcome State Fault Refusal := .next (earlyWake r s)

/-- VAULT_SUPPLY_LOSS (R455, R456). -/
def execVaultSupplyLoss (onVbat tampLow : Bool) (s : State) : Host.Outcome State Fault Refusal := .next (vaultSupplyLoss onVbat tampLow s)

/-- VAULT_SUPPLY_RETURN (R455). -/
def execVaultSupplyReturn (s : State) : Host.Outcome State Fault Refusal := .next (vaultSupplyReturn s)

/-- CRYSTAL_STOP (R455). -/
def execCrystalStop (s : State) : Host.Outcome State Fault Refusal := .next (crystalStop s)

/-- CRYSTAL_RESTART (R455). -/
def execCrystalRestart (s : State) : Host.Outcome State Fault Refusal := .next (crystalRestart s)

/-- TAMPER (R456). -/
def execTamper (s : State) : Host.Outcome State Fault Refusal := .next (tamper s)

end Sys2Proof.Machine
end

