-- ==== Sys2Proof/Machine/Repair.lean ====
section
/-! DEFINITION. Spares and repair (R127, R128, R249, R465–R470): the unit table, failed units, the background test, the repair record. -/

namespace Sys2Proof.Machine

open Sys2Proof

/-! ### The inventory (R465) -/

/-- The kind of physical unit `u`: 0 core, 1 path generator, 2 section unit, 3 pipeline. -/
def unitKind (u : Nat) : Nat := if u < 18 then 0 else if u < 44 then 1 else if u < 51 then 2 else 3

/-- The physical units of a kind. -/
def kindUnits (k : Nat) : List Nat := (List.range 64).filter (fun u => unitKind u == k)

/-- The first unit of a kind, and its number of roles. -/
def kindBase (k : Nat) : Nat := [0, 18, 44, 51].getD k 0
def kindRoles (k : Nat) : Nat := [16, 24, 6, 12].getD k 0

def uACTIVE : Nat := 0
def uSPARE : Nat := 1
def uFAILED : Nat := 3
def uMOVING : Nat := 4

def State.unitState (s : State) (u : Nat) : Nat := s.f REPAIR.UNIT.STATE u
def State.unitRole (s : State) (u : Nat) : Nat := s.f REPAIR.UNIT.ROLE u

/-- The spares of a kind, lowest first. -/
def State.spares (s : State) (k : Nat) : List Nat := (kindUnits k).filter (fun u => s.unitState u == uSPARE)

/-- The unit that holds a role. -/
def State.unitOf (s : State) (k role : Nat) : Option Nat :=
  (kindUnits k).find? (fun u => s.unitRole u == role && s.unitState u != uFAILED)

/-- Unit `u` takes a role and a state; CORE[r].STAT.PHYS and SERVO.UNIT follow (R465). -/
def State.assign (s : State) (u role st : Nat) : State :=
  let s := (s.setF REPAIR.UNIT.ROLE u role).setF REPAIR.UNIT.STATE u st
  if unitKind u = 0 ∧ st = uACTIVE then s.setF CORE.STAT.PHYS role u
  else if unitKind u = 2 then s.setUnit (u - 44) (if st = uMOVING then uACTIVE else st)
  else s

/-! ### The record (R470) -/

/-- A repair change joins the record; duplicates are merged; beyond 240 entries, Plain entries are dropped. -/
def State.repairEntry (s : State) (typ action unit arg : Nat) : State :=
  let b := s.boot
  if b.entries.any (fun e => e.typ == typ && e.action == action && e.unit == unit && e.arg == arg) then s
  else if 240 ≤ b.entries.length ∧ typ ≤ 3 then s.setF REPAIR.STAT.RECFULL 0 1
  else s.setBoot { b with entries := b.entries ++ [⟨typ, action, unit, arg, s.atNow⟩], dirty := true }

/-- The slot boot would take: its MAC is right and its SEQ is the higher. -/
def newestSlot (l : List (Nat × RepSlot)) : Option (Nat × RepSlot) :=
  l.foldl (fun b x => if !x.2.ok then b else match b with
    | none => some x
    | some y => if y.2.seq < x.2.seq then some x else b) none

/-- The slots are written alternately, SEQ increased by 1. -/
def State.writeRecord (s : State) : State :=
  let n := newestSlot s.flash.slots
  let k := match n with | some x => 1 - x.1 | none => 0
  let seq := match n with | some x => x.2.seq + 1 | none => 1
  let slot : RepSlot := ⟨true, seq, s.f HK.AGE.V, s.atNow, s.boot.entries⟩
  let s := s.setFlash { s.flash with slots := (k, slot) :: s.flash.slots.filter (fun x => x.1 != k) }
  s.setBoot { s.boot with dirty := false, written := s.mt }

/-- REPAIR_RECORD_WRITE: after a repair change, and otherwise every 8 h. -/
def repairRecordWrite (s : State) : State :=
  let s := if s.boot.dirty then s else s.reach (s.boot.written + 28800000000000)
  s.writeRecord

/-! ### Failed units (R468, R469) -/

/-- A spare is consumed: when none is left, NOSPARE and a warning. -/
def State.spareUsed (s : State) (k : Nat) : State :=
  if s.spares k = [] then (s.setF REPAIR.STAT.NOSPARE 0 1).warn 20 k 5 (s.word REPAIR.STAT.UNITFAIL.base) else s

/-- A role is left without a unit (R469): severe; a port without its pipeline discards (R296). -/
def State.unserved (s : State) (k role : Nat) : State :=
  let s := s.severe 20 role 5 (s.word REPAIR.STAT.UNITFAIL.base)
  if k = 3 then s.setPipesOff (role :: s.pipesOff.filter (· != role)) else s

/-- Unit `u` is judged failed: its state, the record, and its role. A core's role is lost until its restart (R128); any other role passes to a
spare at once. -/
def State.unitFailed (s : State) (u arg : Nat) : State :=
  if s.unitState u = uFAILED then s
  else
    let k := unitKind u
    let role := s.unitRole u
    let wasSpare : Bool := s.unitState u == uSPARE
    let s := ((s.assign u 255 uFAILED).setF REPAIR.STAT.UNITFAIL 0 1).repairEntry (0x10 + k) 2 u arg
    if wasSpare then s.spareUsed k
    else if role = 255 then s
    else if k = 0 then
      let s := coreLost role s
      if s.spares 0 = [] then s.raise 1 20 role 5 9 (wd u) 0 else s.record7 20 9 role 5 (wd u) 0
    else match s.spares k with
      | v :: _ => (s.assign v role uACTIVE).spareUsed k
      | [] => s.unserved k role

/-- CORE_FAILED: the physical core of role r. -/
def coreFailed (r : Nat) (s : State) : State :=
  match s.unitOf 0 r with
  | some u => s.unitFailed u 0
  | none => s

/-- CORE_RESTART on a spare (R128). -/
def coreRestartOn (r phys : Nat) (s : State) : State :=
  if s.unitState phys ≠ uSPARE then s
  else
    let t := coreRestart r phys s
    if s.coreState r = 6 ∧ t.coreState r ≠ 6 then (t.assign phys r uACTIVE).spareUsed 0 else t

/-- CORE_ROTATION: the spare that takes the role is marked moving (R127). -/
def coreRotate (r phys : Nat) (s : State) : State :=
  if s.unitState phys ≠ uSPARE then s
  else
    let t := coreRotation r phys s
    if s.coreState r ≠ 5 ∧ t.coreState r = 5 then t.setF REPAIR.UNIT.STATE phys uMOVING else t

/-- CORE_MOVE_COMPLETE: the old core is spare, the new one holds the role. -/
def coreMoved (r : Nat) (s : State) : State :=
  match (s.core r).moving with
  | none => s
  | some (_, phys) =>
    let s := match s.unitOf 0 r with | some u => s.assign u 255 uSPARE | none => s
    coreMoveComplete r (s.assign phys r uACTIVE)

/-- UNIT_FAIL: a section unit fails in service; the unit table follows SERVO.UNIT (R249). -/
def sectionFailed (k l : Nat) (s : State) : State :=
  if !(s.unitsIn 0).contains k then s
  else
    let role := s.unitRole (44 + k)
    let next := s.unitsIn 1
    let s := unitFail k l s
    let s := ((((s.setF REPAIR.UNIT.STATE (44 + k) uFAILED).setF REPAIR.UNIT.ROLE (44 + k) 255).setF REPAIR.STAT.UNITFAIL 0 1)).repairEntry 0x12 2 (44 + k) l
    match next with
    | j :: _ => ((s.setF REPAIR.UNIT.STATE (44 + j) uACTIVE).setF REPAIR.UNIT.ROLE (44 + j) role).spareUsed 2
    | [] => s.severe 20 role 5 (s.word REPAIR.STAT.UNITFAIL.base)

/-! ### The background test (R467, R468) -/

/-- Whether the background test may run: BGEN, no hold, every armed path generator ENDED. -/
def State.testAllowed (s : State) : Bool :=
  s.on REPAIR.CFG.BGEN && s.f HK.STAT.HOLD == 0 &&
  (List.range 26).all (fun n => s.pgState n == pgIDLE || s.pgState n == pgENDED)

/-- Whether a barrier token is held anywhere. -/
def State.barrierHeld (s : State) : Bool :=
  !s.fanout.isEmpty || s.net.any (fun t => t.kind == 8#4) || s.held.any (fun m => m.any (fun t => t.kind == 8#4))

/-- The counts of a test: passed, or failed. -/
def State.testCount (s : State) (u : Nat) (pass : Bool) : State :=
  if pass then s.incF REPAIR.UNIT.TESTS u else s.incF REPAIR.UNIT.FAILS u

/-- The active unit `v` is moved to the tested spare `u` (R467). -/
def State.rotateTo (s : State) (u v : Nat) : State :=
  let k := unitKind u
  if !s.on REPAIR.CFG.ROT ∨ unitKind v ≠ k ∨ s.unitState v ≠ uACTIVE then s
  else if k = 0 then coreRotate (s.unitRole v) u s
  else if k = 2 then
    let role := s.unitRole v
    (s.assign u role uACTIVE).assign v 255 uSPARE
  else if s.barrierHeld then s
  else
    let role := s.unitRole v
    (s.assign u role uACTIVE).assign v 255 uSPARE

/-- A spare is tested; a failure is tested once more; a second failure judges it failed. -/
def State.testSpare (s : State) (u : Nat) (pass0 pass1 : Bool) (rotate : Option Nat) : State :=
  if s.unitState u ≠ uSPARE then s
  else
    let s := s.testCount u pass0
    let s := if pass0 then s else s.testCount u pass1
    if !pass0 && !pass1 then s.unitFailed u 0
    else match rotate with
      | some v => s.rotateTo u v
      | none => s

/-- A Gorge channel, both idle, fails its test twice (R468). -/
def State.testGorge (s : State) (c : Nat) (pass0 pass1 : Bool) : State :=
  if (s.gchan 0).job.isSome || (s.gchan 1).job.isSome || !(s.gchan 0).queue.isEmpty || !(s.gchan 1).queue.isEmpty then s
  else if pass0 || pass1 then s
  else ((s.setF REPAIR.STAT.GORGEF 0 1).severe 19 c 9).repairEntry 0x14 2 c 0

/-- BACKGROUND_TEST: one unit's test, whole; one that is cut short leaves everything as it was. -/
def backgroundTest (u : BgUnit) (pass0 pass1 cut : Bool) (rotate : Option Nat) (s : State) : State :=
  if !s.testAllowed || cut then s
  else match u with
    | .unit u => s.testSpare u pass0 pass1 rotate
    | .gorge c => s.testGorge c pass0 pass1

/-! ### The commands -/

/-- CORE_FAILED (R128, R468). -/
def execCoreFailed (r : Fin 18) (s : State) : Host.Outcome State Fault Refusal := .next (coreFailed r s)

/-- CORE_RESTART (R128). -/
def execCoreRestart (r phys : Fin 18) (s : State) : Host.Outcome State Fault Refusal := .next (coreRestartOn r phys s)

/-- CORE_ROTATION (R127). -/
def execCoreRotation (r phys : Fin 18) (s : State) : Host.Outcome State Fault Refusal := .next (coreRotate r phys s)

/-- CORE_MOVE_COMPLETE (R127). -/
def execCoreMoveComplete (r : Fin 18) (s : State) : Host.Outcome State Fault Refusal := .next (coreMoved r s)

/-- UNIT_FAIL (R249, R468, R469). -/
def execUnitFail (k : Fin 7) (l : Fin 112) (s : State) : Host.Outcome State Fault Refusal := .next (sectionFailed k l s)

/-- BACKGROUND_TEST (R467, R468). -/
def execBackgroundTest (u : BgUnit) (pass0 pass1 cut : Bool) (rotate : Option (Fin 64)) (s : State) : Host.Outcome State Fault Refusal :=
  .next (backgroundTest u pass0 pass1 cut (rotate.map (·.val)) s)

/-- REPAIR_RECORD_WRITE (R470). -/
def execRepairRecordWrite (s : State) : Host.Outcome State Fault Refusal := .next (repairRecordWrite s)

end Sys2Proof.Machine
end

