-- ==== Sys2Proof/Machine/Upload.lean ====
section
/-! DEFINITION. Service requests, upload streams and their packets (R387, R388), and the end of a DALEUP (R381). -/

namespace Sys2Proof.Machine

open Sys2Proof

/-- QFILL and STATE of a stream (R390). -/
def State.upUpdate (s : State) (n : Nat) : State :=
  let x := s.up n
  let s := s.setF VCT.UP.STAT.QFILL n x.reqs.length
  if s.f VCT.UP.STAT.STATE n = 2 then s else s.setF VCT.UP.STAT.STATE n (if x.reqs = [] then 0 else 1)

/-- A request joins its stream. -/
def State.upQueue (s : State) (n src stream addr len : Nat) (daleTag : Option Nat) : State :=
  let x := s.up n
  let e := x.total + len
  let idle := x.reqs = []
  (s.setUp n { x with reqs := x.reqs ++ [⟨src, stream, addr, len, e, daleTag⟩], total := e, since := if idle then s.mt else x.since }).upUpdate n

/-- The answer of a service request: the code in bits 63:56, an offset in bits 47:0. -/
def State.serviceAnswer (s : State) (src stream code off : Nat) : State :=
  s.send (mkTok 0x87 src kindRSP stream (wd (place code 8 56 + place off 48 0)))

/-- A request all of whose bytes are acknowledged: its answer, or the end of its DALEUP, which releases the freeze. -/
def State.upDone (s : State) (r : UpReq) : State :=
  match r.daleTag with
  | none => s.serviceAnswer r.src r.stream 0 r.endOff
  | some tag => ((s.setF DALE.CTRL.FREEZE 0 0).setF DALE.STAT.FROZEN 0 0).evtComplete tag 0

/-- The requests an acknowledged offset completes, in order. -/
def State.upAck (s : State) (n off : Nat) : State :=
  let x := s.up n
  let done := x.reqs.takeWhile (fun r => decide (r.endOff ≤ off))
  let s := s.setUp n { x with reqs := x.reqs.drop done.length, flight := x.flight.filter (fun e => decide (off < e)), next := max x.next off,
                              tries := 0, since := s.mt }
  let s := if s.f VCT.UP.STAT.STATE n = 2 then s.setF VCT.UP.STAT.STATE n 1 else s
  (done.foldl (fun s r => s.upDone r) (s.setF VCT.UP.STAT.ACKED n off)).upUpdate n

/-- UPL_SEND: the next packet of a stream: up to 8,192 bytes of one request, at most 64 unacknowledged. -/
def uplSend (n : Nat) (s : State) : State :=
  let x := s.up n
  let ports := s.subPorts
  if ports = [] ∨ s.f VCT.UP.STAT.STATE n = 2 ∨ 64 ≤ x.flight.length then s
  else
    match x.reqs.find? (fun r => decide (x.next < r.endOff)) with
    | none => s
    | some r =>
      let off := x.next
      let len := min 8192 (r.endOff - off)
      let port := ports.getD (n % ports.length) 0
      let data := s.bytes (r.addr + (r.len - (r.endOff - off))) len
      let last : Bool := off + len == r.endOff
      let s := s.setUp n { x with next := off + len, flight := x.flight ++ [off + len], port := some port,
                                  since := if x.flight = [] then s.mt else x.since }
      (s.toSubscriber port (vctHeader 4 (place last.toNat 1 2) 0xFF len 0 n 0 off s.serial ++ data)).upUpdate n

/-- UPLOAD_RETRANSMIT: RTO µs without progress. -/
def uploadRetransmit (n : Nat) (s : State) : State :=
  let x := s.up n
  if x.flight = [] ∨ s.subPorts = [] ∨ s.f VCT.UP.STAT.STATE n = 2 then s
  else
    let s := s.reach (x.since + s.f VCT.CFG.RTO * 1000)
    if s.f VCT.CFG.RETRIES ≤ x.tries then (s.setF VCT.UP.STAT.STATE n 2).warn 18 n 0x80
    else s.setUp n { x with next := s.f VCT.UP.STAT.ACKED n, flight := [], tries := x.tries + 1, since := s.mt }

/-- The last token of a message, which a refusal of the whole names. -/
def lastOf (toks : List Token) : Token := toks.getLastD (mkTok 0 0 0 0 0)

/-- A service request at port t7 of logical core 0 (R387): `op` is what its row names. -/
def State.service (s : State) (toks : List Token) (op : Nat) (act : Token → State → State) : State :=
  match toks with
  | [] => s
  | t :: _ =>
    if t.dest ≠ 0x87#10 ∨ bits t.payload 63 56 ≠ op then s
    else s.arrive 0x87 toks (fun s => match errToken toks with
      | some e => s.refuse 0x87 e 5
      | none => act t s)

/-- UPLOAD. -/
def upload (toks : List Token) (s : State) : State :=
  s.service toks 1 (fun t s =>
    let p := t.payload
    let n := bits p 51 48
    let len := bits p 31 0
    let a := ((toks.getD 1 t).payload).toNat
    let src := t.src.toNat
    let st := t.stream.toNat
    if toks.length ≠ 2 ∨ n = 0 ∨ len = 0 ∨ bits p 55 52 ≠ 0 ∨ bits p 47 32 ≠ 0 ∨ a % 8 ≠ 0 ∨ (inPlain a len || s.inDram a len) = false then
      s.serviceAnswer src st 0x12 0
    else if 16 ≤ (s.up n).reqs.length then s.serviceAnswer src st 0x13 0
    else s.upQueue n src st a len none)

/-- REPLY: an EVT of kind REPLY goes to the host. -/
def reply (toks : List Token) (s : State) : State :=
  s.service toks 2 (fun t s =>
    let p := t.payload
    let n := bits p 47 32
    if 1024 < n ∨ toks.length ≠ 1 + (n + 7) / 8 then s.serviceAnswer t.src.toNat t.stream.toNat 0x12 0
    else
      let tag := bits p 31 0
      let data := ((toks.drop 1).flatMap (fun u => leBytes 8 u.payload.toNat)).take n
      (s.evt 3 tag (beBytes 1 (bits p 55 48) ++ beBytes 3 0 ++ beBytes 4 tag ++ data)).serviceAnswer t.src.toNat t.stream.toNat 0 0)

/-- UPL_SEND (R388). -/
def execUplSend (n : Fin 16) (s : State) : Host.Outcome State Fault Refusal := .next (uplSend n s)

/-- UPLOAD_RETRANSMIT (R388). -/
def execUploadRetransmit (n : Fin 16) (s : State) : Host.Outcome State Fault Refusal := .next (uploadRetransmit n s)

/-- UPLOAD (R387). -/
def execUpload (toks : List Token) (s : State) : Host.Outcome State Fault Refusal := .next (upload toks s)

/-- REPLY (R387). -/
def execReply (toks : List Token) (s : State) : Host.Outcome State Fault Refusal := .next (reply toks s)

end Sys2Proof.Machine
end

