-- ==== Sys2Proof/Machine/Boot.lean ====
section
/-! DEFINITION. Reset and boot (R375–R377, R393, R455, R457, R465–R477, R480): the releases, the check of an image, the choice of the area, the
loading of the resident cores, DRAM training and the end of boot; BOOT.CTRL. -/

namespace Sys2Proof.Machine

open Sys2Proof

/-! ### The image (R473, R474) -/

/-- The little-endian field of `n` bytes at `a`. -/
def fieldAt (img : List Byte) (a n : Nat) : Nat := leNat (slice img a n)

/-- Whether the `n` bytes at `a` are 0. -/
def zeroAt (img : List Byte) (a n : Nat) : Bool := (slice img a n).all (· == 0#8)

/-- A section entry of SECTAB. -/
structure SectionEntry where
  typ : Nat
  offset : Nat
  length : Nat
  dest : Nat
  hash : List Byte
deriving DecidableEq, Repr

def sectionAt (img : List Byte) (i : Nat) : SectionEntry :=
  let e := 224 + 64 * i
  ⟨fieldAt img e 1, fieldAt img (e + 4) 4, fieldAt img (e + 8) 4, fieldAt img (e + 16) 8, slice img (e + 32) 32⟩

/-- The sections of an image. -/
def imageSections (img : List Byte) : List SectionEntry := (List.range (fieldAt img 20 2)).map (sectionAt img)

/-- The bytes of a section. -/
def sectionBytes (img : List Byte) (x : SectionEntry) : List Byte := slice img x.offset x.length

/-- A section entry the layout allows. -/
def sectionOk (imglen : Nat) (x : SectionEntry) : Bool :=
  decide (1 ≤ x.typ ∧ x.typ ≤ 5 ∧ x.offset % 4096 = 0 ∧ x.offset + x.length ≤ imglen) &&
  (x.typ == 5 || decide (x.length ≤ 65536 ∧ x.dest = 0))

/-- MAGIC, HVER, HLEN, the ranges and the reserved fields of a header. -/
def headerOk (img : List Byte) : Bool :=
  let n := fieldAt img 20 2
  let len := fieldAt img 16 4
  fieldAt img 0 4 == 0x42584C43 && fieldAt img 4 2 == 1 && fieldAt img 6 2 == 4096 && decide (fieldAt img 12 2 ≤ 63) &&
  decide (fieldAt img 14 1 ≤ 3) && decide (fieldAt img 15 1 ≤ 1) && decide (4096 ≤ len ∧ len ≤ 33554432 ∧ len ≤ img.length) &&
  decide (1 ≤ n ∧ n ≤ 16) && zeroAt img 22 2 && decide (25 ≤ fieldAt img 26 1 ∧ fieldAt img 26 1 ≤ 200) && zeroAt img 29 3 &&
  zeroAt img 136 88 && zeroAt img (224 + 64 * n) (64 * (16 - n)) && zeroAt img 1248 2784 && (imageSections img).all (sectionOk len)

/-- DRAMPB describes a configuration of R391 at a rate of R392. -/
def dramPbOk (img : List Byte) : Bool :=
  [(1, 1), (2, 1), (1, 2)].contains (fieldAt img 96 1, fieldAt img 97 1) && [32, 40, 48, 56, 64].contains (fieldAt img 98 1)

/-- The checks of R474 in turn: the FAILCODE of the first that fails, or none for an accepted image. -/
def imageCheck (img : List Byte) (s : State) : Option Nat :=
  let key := slice img 32 64
  let idx := fieldAt img 14 1
  if !headerOk img then some 1
  else if s.keyHashes[idx]? ≠ some (sha256 key) ∨ (s.f BOOT.SVN.REVOKED).testBit idx = true then some 3
  else if !ecdsaVerify (beNat (key.take 32)) (beNat (key.drop 32)) (img.take 4032) (beNat (slice img 4032 32)) (beNat (slice img 4064 32)) then some 2
  else if fieldAt img 12 2 < s.f BOOT.SVN.MIN then some 4
  else if !dramPbOk img then some 7
  else if !(imageSections img).all (fun x => sha256 (sectionBytes img x) == x.hash) then some 5
  else none

/-! ### Repair at boot (R465, R466, R469, R470) -/

/-- Units the record or the boot's own tests name as failed. -/
def State.bootFailedUnits (s : State) (failed : List Nat) : List Nat :=
  (List.range 64).filter (fun u => failed.contains u || s.boot.entries.any (fun e => e.action == 2 && e.typ == 0x10 + unitKind u && e.unit == u))

/-- A failed unit holds no role. -/
def State.bootMark (s : State) (failed : List Nat) (u : Nat) : State :=
  let s := s.assign u 255 uFAILED
  if failed.contains u then (s.setF REPAIR.STAT.UNITFAIL 0 1).repairEntry (0x10 + unitKind u) 2 u 0 else s

/-- A role whose home unit failed goes to the lowest spare of its kind, or stays unserved. -/
def State.bootRole (s : State) (k role : Nat) : State :=
  if (s.unitOf k role).isSome then s
  else match s.spares k with
    | v :: _ => s.assign v role uACTIVE
    | [] => if k = 0 then (coreLost role s).unserved k role else s.unserved k role

/-- NOSPARE for a kind that has lost units and has no spare. -/
def State.bootSpares (s : State) (lost : List Nat) (k : Nat) : State :=
  if lost.any (fun u => unitKind u == k) then s.spareUsed k else s

/-- A Plain defect that finds no spare (R466). -/
def State.plainDefect (s : State) (bank row : Nat) : State :=
  ((s.setF REPAIR.STAT.PLAINX 0 1).severe 20 bank 5 (s.word REPAIR.STAT.UNITFAIL.base)).repairEntry 1 4 bank row

/-- The repair record is read: a slot that fails its check sets RECERR, the better slot gives the entries and AGE. -/
def State.readRecord (s : State) : State :=
  let good := [0, 1].filter (fun k => s.flash.slots.any (fun x => x.1 == k && x.2.ok))
  let s := if good.length = 2 then s else (s.setF REPAIR.STAT.RECERR 0 1).warn 20 0 5 (s.word REPAIR.STAT.UNITFAIL.base)
  let (entries, age) : List RepEntry × Nat := match newestSlot s.flash.slots with
    | some x => (x.2.entries, x.2.age)
    | none => ([], ageHours s.house.age)
  let s := s.setBoot { s.boot with entries := entries, dirty := false, written := s.mt }
  let s := (s.setHouse { s.house with age := max s.house.age (age * (2 ^ 40 * 3600000)) }).setF HK.AGE.V 0 age
  if 219150 ≤ age then (s.setF HK.STAT.AGEEOL 0 1).warn 20 0 6 else s

/-- Repair at boot, whole; with no slot to trust a new record is written. -/
def State.bootRepair (s : State) (b : BootIn) : State :=
  let fresh := newestSlot s.flash.slots = none
  let s := s.readRecord
  let lost := s.bootFailedUnits b.failed
  let s := forEach lost (fun u s => s.bootMark b.failed u) s
  let s := forEach [0, 1, 2, 3] (fun k s => forEach (List.range (kindRoles k)) (fun r s => s.bootRole k r) s) s
  let s := forEach [0, 1, 2, 3] (fun k s => s.bootSpares lost k) s
  let s := forEach b.unrepaired (fun d s => s.plainDefect d.1 d.2) s
  let s := (s.setCoreState 16 7).setCoreState 17 7
  if fresh then s.writeRecord else s

/-! ### Keys and counters (R375–R377) -/

/-- One slot of the key store: the key, its rights, and the counter after what the vault and the mirror say. -/
def State.loadKey (s : State) (lost : Bool) (t : Nat) : State :=
  let m := ((s.flash.mirrors.find? (fun p => p.1 == t)).map (·.2)).getD 0
  let k := s.flash.keys.find? (fun p => p.1 == t)
  let c := if lost then (if k.isSome then m + 2 ^ 20 else 0) else max (s.f VCT.SLOT.CTR.V t) m
  let s := s.setF VCT.SLOT.CTR.V t c
  let s := if lost && k.isSome then
      (s.setFlash { s.flash with mirrors := (t, c) :: s.flash.mirrors.filter (fun p => p.1 != t) }).setF VCT.SLOT.MIRROR.V t c
    else s.setF VCT.SLOT.MIRROR.V t m
  match k with
  | none => s
  | some (_, key, rights) =>
    let s := s.setKeySlots (tset (fun _ => {}) s.keySlots t { key := some key })
    let s := (s.setF VCT.SLOT.CFG.KEY t 1).setF VCT.SLOT.CFG.RIGHTS t rights
    let s := if c = 2 ^ 64 - 1 then s.setF VCT.SLOT.CFG.EXH t 1 else s
    if t = 0 then s.setF VCT.STAT.PROV 0 1 else s

/-! ### The areas (R475) and the start of the resident cores (R476) -/

/-- The image of an area. -/
def Flash.image (f : Flash) (area : Nat) : List Byte := if area = 0 then f.imageA else f.imageB

/-- A boot that cannot complete (R477). -/
def State.bootFail (s : State) (code : Nat) : State :=
  let s := (s.setF BOOT.STAT.STATE 0 0xF).setF BOOT.STAT.FAILCODE 0 code
  s.lastRaise 0 21 5 (s.word BOOT.STAT.READY.base)

/-- The code or data of a resident core is placed in its local memory. -/
def State.loadSection (s : State) (img : List Byte) (x : SectionEntry) : State :=
  if 1 ≤ x.typ ∧ x.typ ≤ 4 then
    s.setBytes (localAddr ((x.typ - 1) / 2) ((x.typ - 1) % 2 * 0x10000)) (sectionBytes img x)
  else s

/-- A resident core starts where its role is served. -/
def State.startResident (s : State) (r : Nat) : State := if s.coreState r = 0 then coreStart r s else s

/-- The capacity in GiB of R391's configurations. -/
def capacityOf (ranks dens : Nat) : Nat := if ranks = 1 ∧ dens = 1 then 32 else 64

/-- An accepted image runs: ID.BOOT, SPI.CFG, DRAM.CFG, the resident sections, cores 0 and 1. -/
def State.runImage (s : State) (area : Nat) (trial : Bool) : State :=
  let img := s.flash.image area
  let s := ((s.setF ID.BOOT.VER 0 (fieldAt img 8 4)).setF ID.BOOT.AREA 0 area).setF ID.BOOT.TRIAL 0 trial.toNat
  let s := s.setF SPI.CFG.V 0 (fieldAt img 24 5)
  let s := ((s.setF DRAM.CFG.RANKS 0 (fieldAt img 96 1)).setF DRAM.CFG.DENS 0 (fieldAt img 97 1)).setF DRAM.CFG.RATE 0 (fieldAt img 98 1)
  let s := s.setF DRAM.CFG.CAPG 0 (capacityOf (fieldAt img 96 1) (fieldAt img 97 1))
  let s := forEach (imageSections img) (fun x s => s.loadSection img x) s
  let s := (s.startResident 0).startResident 1
  let s := s.setBoot { s.boot with keyidx := fieldAt img 14 1, svn := fieldAt img 12 2, area := area, trialBoot := trial, running := true }
  s.setF BOOT.STAT.STATE 0 3

/-- The choice of the area; TRIES is written before the load. -/
def State.bootImage (s : State) : State :=
  let f := s.flash
  let try_ : Bool := f.trial == 1 && decide (f.tries < 3)
  let area := if try_ then 1 - f.active else f.active
  let s := if try_ then s.setFlash { f with tries := f.tries + 1, bseq := f.bseq + 1 }
    else if f.trial = 1 then s.setFlash { f with trial := 0, bseq := f.bseq + 1 } else s
  match imageCheck (f.image area) s with
  | none => s.runImage area try_
  | some _ =>
    match imageCheck (f.image (1 - area)) s with
    | none => s.runImage (1 - area) false
    | some c => s.bootFail c

/-! ### Boot (R455, R457, R471, R476) -/

/-- The mirror of a vault whose contents are lost is empty, its counters read 0, its tamper latch is clear. -/
def State.vaultEmptied (s : State) : State :=
  let s := s.setCw (s.cw.filter (fun p => blockOf p.1 != 0x1A))
  let s := forEach (List.range 8) (fun t s => s.setF VCT.SLOT.CTR.V t 0) s
  ((s.setF VAULT.STAT.LOST 0 1).setVault { s.vault with good := true }).warn 22 0 7 (s.word VAULT.STAT.LOST.base)

/-- The levels the pins have at the release; a SAFE input that is low raises source 0. -/
def State.bootPins (s : State) (b : BootIn) : State :=
  let s := (s.setBasin { s.basin with testmode := b.testmode, safeA := b.safeA, safeB := b.safeB }).safeChanged
  if b.safeA && b.safeB then s else (s.levelOn 0).safeRaise 1 (s.word (BASIN.STATUS.V.addr 0))

/-- Boot from the flash read on, up to the start of the resident cores; DRAM_TRAINING ends it. -/
def bootDevice (keepTb : Bool) (b : BootIn) (s : State) : State :=
  let carry := s.lines.filter (fun r => r.cls == 0 && r.source == 22)
  let lost := !s.vault.good
  let s := s.resetTo keepTb
  let s := (if lost then s.vaultEmptied else s).setF VAULT.STAT.MFRZ 0 1
  let s := (s.setLines (carry ++ s.lines)).bootPins b
  if !b.flashOk then s.bootFail 6
  else
    let s := (s.bootRepair b).bootImage
    if s.boot.running then forEach (List.range 8) (fun t s => s.loadKey lost t) s else s

/-- Whether something still holds the device in reset. -/
def Holds.any (h : Holds) : Bool := h.porst || h.reset || !h.rails.isEmpty || h.shut

/-- A hold ends; boot follows when no other holds the device. -/
def State.release (s : State) (h : Holds) (keepTb : Bool) (b : BootIn) : State :=
  if h.any then s.setHolds h else bootDevice keepTb b (s.setHolds h)

/-- PORST_RELEASE. -/
def porstRelease (b : BootIn) (s : State) : State := s.release { s.holds with porst := false } false b

/-- RESET_RELEASE. -/
def resetRelease (b : BootIn) (s : State) : State := s.release { s.holds with reset := false } true b

/-- BROWNOUT_RECOVERY: every rail has been back for 1 ms; boot follows as after PORST_n. -/
def brownoutRecovery (b : BootIn) (s : State) : State :=
  if s.holds.rails = [] then s else s.release { s.holds with rails := [] } false b

/-! ### DRAM training and the end of boot (R128, R393, R476) -/

/-- Training: TRAINED, or TRFAIL with a severe-class status (R393); H is 0 and the interval timers start. -/
def trainDram (pass0 pass1 : Bool) (imt mmt : Nat) (s : State) : State :=
  if pass0 && pass1 then
    let s := ((s.setRaaimt imt).setRaammt mmt).setDramBanks []
    let s := forEach [0, 1, 2, 3] (fun j s => s.setRank j { s.rank j with nextTick := s.mt + 1950 }) s
    ((s.setF DRAM.STAT.TRAINED 0 1).setF DRAM.STAT.TRFAIL 0 0).setF DRAM.CFG.EN 0 1
  else
    ((((s.setF DRAM.STAT.TRAINED 0 0).setF DRAM.STAT.TRFAIL 0 1).setF DRAM.CFG.EN 0 0).setF DRAM.CFG.CAPG 0 0).severe 5 0 0xC

/-- The DRAM payload sections of the running image. -/
def State.payloads (s : State) : List SectionEntry :=
  (imageSections (s.flash.image s.boot.area)).filter (fun x => x.typ == 5 && s.inDram x.dest x.length)

/-- A payload section is copied to its place. -/
def State.copyPayload (s : State) (x : SectionEntry) : State := s.setBytes x.dest (sectionBytes (s.flash.image s.boot.area) x)

/-- Whether the 128-KiB block `k` of DRAM meets neither a payload section nor another image. -/
def State.blockFree (s : State) (k : Nat) : Bool :=
  let a := 0x100000000000 + k * 0x20000
  s.payloads.all (fun x => decide (x.dest + x.length ≤ a ∨ a + 0x20000 ≤ x.dest)) && s.f CORE.IMG.BASE 0 * 0x20000 != a

/-- The restart image of a resident core: its sections in a block of DRAM the spec does not name (R128; log entry 61). -/
def State.placeImage (s : State) (r : Nat) : State :=
  let (w, s) := s.free
  let n := s.dramBytes / 0x20000
  match ((List.range 600).map (fun i => (w.toNat + i) % n)).find? (fun k => s.blockFree k) with
  | none => s
  | some k =>
    let a := 0x100000000000 + k * 0x20000
    let img := s.flash.image s.boot.area
    let s := forEach ((imageSections img).filter (fun x => decide (1 ≤ x.typ ∧ x.typ ≤ 4 ∧ (x.typ - 1) / 2 = r)))
      (fun x s => s.setBytes (a + (x.typ - 1) % 2 * 0x10000) (sectionBytes img x)) s
    ((s.setF CORE.IMG.BASE r (a / 0x20000)).setF CORE.IMG.DATA r 1).setF CORE.IMG.VALID r 1

/-- The end of boot: the payload, the restart images, READY and OPEN. -/
def State.bootEnd (s : State) : State :=
  let s := if s.on DRAM.STAT.TRAINED then ((forEach s.payloads (fun x s => s.copyPayload x) s).placeImage 0).placeImage 1 else s
  ((s.setF BOOT.STAT.STATE 0 5).setF BOOT.STAT.READY 0 1).setF VCT.STAT.OPEN 0 1

/-- DRAM_TRAINING: both channels train once in a boot. -/
def dramTraining (pass0 pass1 : Bool) (imt mmt : Nat) (s : State) : State :=
  if s.on DRAM.STAT.TRAINED || s.on DRAM.STAT.TRFAIL then s
  else
    let s := trainDram pass0 pass1 imt mmt s
    if s.boot.running then s.bootEnd else s

/-! ### BOOT.CTRL (R475, R480) -/

/-- REVOKE is refused for the running image's KEYIDX. -/
def bootCheck (data : Word) (s : State) : Option Nat :=
  if s.boot.running && (BOOT.CTRL.REVOKE.get data).testBit s.boot.keyidx then some 8 else none

/-- REVOKE burns revocation fuses, SVNBURN the running SVN, CONFIRM ends a trial. -/
def bootEffect (data : Word) (s : State) : State :=
  let s := s.setF BOOT.SVN.REVOKED 0 (s.f BOOT.SVN.REVOKED ||| BOOT.CTRL.REVOKE.get data)
  let s := if BOOT.CTRL.SVNBURN.get data = 1 ∧ s.boot.running = true then s.setF BOOT.SVN.MIN 0 (max (s.f BOOT.SVN.MIN) s.boot.svn) else s
  if BOOT.CTRL.CONFIRM.get data = 1 ∧ s.boot.trialBoot = true then
    (s.setFlash { s.flash with active := s.boot.area, trial := 0, tries := 0, bseq := s.flash.bseq + 1 }).setBoot { s.boot with trialBoot := false }
  else s

/-! ### The commands -/

/-- PORST_RELEASE (R447, R471, R475–R477). -/
def execPorstRelease (b : BootIn) (s : State) : Host.Outcome State Fault Refusal := .next (porstRelease b s)

/-- RESET_RELEASE (R471, R475–R477). -/
def execResetRelease (b : BootIn) (s : State) : Host.Outcome State Fault Refusal := .next (resetRelease b s)

/-- BROWNOUT_RECOVERY (R449). -/
def execBrownoutRecovery (b : BootIn) (s : State) : Host.Outcome State Fault Refusal := .next (brownoutRecovery b s)

/-- DRAM_TRAINING (R393, R476). -/
def execDramTraining (pass0 pass1 : Bool) (raaimt raammt : Nat) (s : State) : Host.Outcome State Fault Refusal :=
  .next (dramTraining pass0 pass1 raaimt raammt s)

end Sys2Proof.Machine
end

