-- ==== Sys2Proof/Machine/Link.lean ====
section
/-! DEFINITION. Serial lanes and the Tysety link (chapter 13): link states and capability records, block lock, the two lanes of a head,
superframes and the tracking of head and hub times (R54), sample and token blocks, test patterns and equalisation. Links 0–23 are the
heads', 24–31 the hubs', 32–35 the point links of lanes 60–63. -/

namespace Sys2Proof.Machine

open Sys2Proof

def State.lane (s : State) (k : Nat) : LaneSt := tget (fun _ => {}) s.lanes k
def State.setLane (s : State) (k : Nat) (x : LaneSt) : State := s.setLanes (tset (fun _ => {}) s.lanes k x)
def State.link (s : State) (n : Nat) : LinkSt := tget (fun _ => {}) s.links n
def State.setLink (s : State) (n : Nat) (x : LinkSt) : State := s.setLinks (tset (fun _ => {}) s.links n x)

/-! ### Lanes and link states (R340, R354) -/

def lkOFF : Nat := 0
def lkDETECT : Nat := 1
def lkTRAIN : Nat := 2
def lkLOCK : Nat := 3
def lkCAPS : Nat := 4
def lkACTIVE : Nat := 5
def lkFAIL : Nat := 6

/-- The lane of a link; only a head has a mirror lane (R340, R342). -/
def laneOf (n : Nat) (mirror : Bool) : Nat := if n < 24 then 2 * n + mirror.toNat else if n < 32 then n + 24 else n + 28

/-- The lanes of a link. -/
def lanesOf (n : Nat) : List Nat := if n < 24 then [2 * n, 2 * n + 1] else [laneOf n false]

/-- The link of a lane, none for an Ethernet lane. -/
def linkOfLane (k : Nat) : Option Nat := if k < 48 then some (k / 2) else if k < 56 then some (k - 24) else if k < 60 then none else some (k - 28)

/-- Whether a link has the named lane. -/
def hasLane (n : Nat) (mirror : Bool) : Bool := !mirror || decide (n < 24)

/-- A link's endpoint (R99). -/
def linkEp (n : Nat) : Nat := if n < 24 then 0x60 + n else if n < 32 then 0x60 + n else 0x134 + (n - 32)

/-- A link's state (R354). -/
def State.linkState (s : State) (n : Nat) : Nat := if n < 32 then s.f LINK.STAT.STATE n else (s.link n).pst

def State.setLinkState (s : State) (n st : Nat) : State :=
  let s := s.setLink n { s.link n with since := s.mt, pst := if n < 32 then 0 else st }
  if n < 32 then s.setF LINK.STAT.STATE n st else s

def State.linkActive (s : State) (n : Nat) : Bool := s.linkState n == lkACTIVE

/-- A raise of a link, of source 15 for heads and lanes and 16 for hubs (R430). -/
def State.linkRaise (s : State) (cls n : Nat) : State :=
  s.raise cls (if 24 ≤ n ∧ n < 32 then 16 else 15) n (linkEp n) 1 (if n < 32 then s.word (LINK.STAT.STATE.addr n) else 0)

/-- PLOCK and MLOCK follow the lanes (R358). -/
def State.linkLocks (s : State) (n : Nat) : State :=
  if n < 32 then
    let s := s.setF LINK.STAT.PLOCK n ((s.lane (laneOf n false)).ls == 4).toNat
    if n < 24 then s.setF LINK.STAT.MLOCK n ((s.lane (laneOf n true)).ls == 4).toNat else s
  else s

/-- A lane enters a state. -/
def State.laneTo (s : State) (k st : Nat) : State :=
  let s := s.setLane k { s.lane k with ls := st, since := s.mt, bads := [], rts := [], mtx := none }
  match linkOfLane k with
  | some n => s.linkLocks n
  | none => s

def State.lanesTo (s : State) (n st : Nat) : State := (lanesOf n).foldl (fun s k => if (s.lane k).ls = 5 then s else s.laneTo k st) s

/-- A link leaves ACTIVE for a state: its col is flushed, what waited for a credit goes (R69, R350). -/
def State.leaveActive (s : State) (n st : Nat) : State :=
  let s := if n < 32 then s.linkFlush n else s
  (s.setLink n { s.link n with credits := 0, owed := 0, tx := [], copies := [], skew := false }).setLinkState n st

/-- A link goes to a state with all its lanes, from wherever it stands. -/
def State.linkDrop (s : State) (n st : Nat) : State :=
  let s := if s.linkActive n then s.leaveActive n st else s.setLinkState n st
  s.lanesTo n st

/-! ### Delays (R347, R353) -/

/-- The mean of rt / 2 of a lane, in 2^−16 ns. -/
def LaneSt.delay (x : LaneSt) : Option Int :=
  match x.rts with
  | [] => none
  | l => some (openDiv (l.foldl (· + ·) 0 * 65536) (2 * l.length))

/-- The delay in force: the larger of two locked lanes' delays, the primary's where they differ by more than 64 ns. -/
def State.linkDelay (s : State) (n : Nat) : Option Int :=
  let d (m : Bool) : Option Int := if hasLane n m && (s.lane (laneOf n m)).ls == 4 then (s.lane (laneOf n m)).delay else none
  match d false, d true with
  | some a, some b => if (s.link n).skew then some a else some (max a b)
  | some a, none => some a
  | none, b => b

/-- TB.HT[n].DLY follows the lanes. -/
def State.delayUpdate (s : State) (n : Nat) : State :=
  match s.linkDelay n with
  | some d => s.setF TB.HT.DLY.V n (ux 64 (openDiv d 65536))
  | none => s

/-- The check of the two delays' difference: SKEW, with a warning at its onset. -/
def State.skewCheck (s : State) (n : Nat) : State :=
  if 24 ≤ n then s
  else
    match (s.lane (2 * n)).delay, (s.lane (2 * n + 1)).delay with
    | some a, some b =>
      let big : Bool := decide (64 * 65536 < (a - b).natAbs) && (s.lane (2 * n)).ls == 4 && (s.lane (2 * n + 1)).ls == 4
      let was := (s.link n).skew
      let s := s.setLink n { s.link n with skew := big }
      if big && !was then (s.setF LINK.STAT.SKEW n 1).linkRaise 2 n else s
    | _, _ => s

/-- One lane of a head goes while its partner stays locked: SINGLE, a warning, DLY's step and its record (R353). -/
def State.single (s : State) (n : Nat) : State :=
  let old := s.f TB.HT.DLY.V n
  let s := ((s.setLink n { s.link n with skew := false }).setF LINK.STAT.SINGLE n 1).linkRaise 2 n
  let s := s.delayUpdate n
  s.record7 15 0xE n (linkEp n) (wd old) (wd (s.f TB.HT.DLY.V n))

/-- A lane that had block lock loses it and goes to `st`; `fault`: the loss raises a severe status where the link leaves ACTIVE by it
(R345, R353, R354). -/
def State.laneLost (s : State) (k st : Nat) (fault : Bool) : State :=
  let s := s.laneTo k st
  match linkOfLane k with
  | none => s
  | some n =>
    if !s.linkActive n then s
    else if (lanesOf n).any (fun j => (s.lane j).ls == 4) then s.single n
    else
      let s := s.leaveActive n (if fault then lkLOCK else lkTRAIN)
      if fault then s.linkRaise 1 n else s

/-! ### Bring-up (R354, R355) -/

/-- DETECT_POLL: 1 ms has gone since the last look. -/
def detectPoll (n : Nat) (term : Bool) (s : State) : State :=
  if s.linkState n = lkDETECT then
    let s := s.reach ((s.link n).since + 1000000)
    if term then (s.setLinkState n lkTRAIN).lanesTo n 2 else s.setLink n { s.link n with since := s.mt }
  else if s.linkActive n then
    (lanesOf n).foldl (fun s k => if (s.lane k).ls = 1 then
      let s := s.reach ((s.lane k).since + 1000000)
      if term then s.laneTo k 2 else s.setLane k { s.lane k with since := s.mt } else s) s
  else s

/-- SYMBOL_LOCK: a training lane has comma symbol lock. -/
def symbolLock (n : Nat) (mirror : Bool) (s : State) : State :=
  let k := laneOf n mirror
  if !hasLane n mirror || (s.lane k).ls != 2 then s
  else
    let s := s.laneTo k 3
    if s.linkState n = lkTRAIN then s.setLinkState n lkLOCK else s

/-- BLOCK_LOCK: 64 consecutive valid blocks (R345). -/
def blockLock (n : Nat) (mirror : Bool) (s : State) : State :=
  let k := laneOf n mirror
  if !hasLane n mirror || (s.lane k).ls != 3 then s
  else
    let s := s.laneTo k 4
    if s.linkState n = lkLOCK then s.setLinkState n lkCAPS else s

/-- LINK_STATE_TIMEOUT. -/
def linkStateTimeout (n : Nat) (mirror : Bool) (s : State) : State :=
  let st := s.linkState n
  let since := (s.link n).since
  let retrain (s : State) : State := if n < 32 then s.incF LINK.CNT.RETRAIN n else s
  if st = lkTRAIN then retrain ((s.reach (since + 10000000)).linkDrop n lkDETECT)
  else if st = lkLOCK then (s.reach (since + 2000000)).linkDrop n lkTRAIN
  else if st = lkCAPS then (s.reach (since + 1000000)).linkDrop n lkTRAIN
  else if s.linkActive n ∧ hasLane n mirror then
    let k := laneOf n mirror
    let x := s.lane k
    if x.ls = 2 then retrain ((s.reach (x.since + 10000000)).laneTo k 1)
    else if x.ls = 3 then (s.reach (x.since + 2000000)).laneTo k 2
    else s
  else s

/-- The kind of peer a link takes (R355). -/
def peerKind (n : Nat) : Nat := if n < 24 then 1 else if n < 32 then 2 else 4

/-- CAP_RECORD: the peer's record is accepted into ACTIVE or refused into FAIL. -/
def capRecord (n : Nat) (data : List Byte) (s : State) : State :=
  if s.linkState n ≠ lkCAPS then s
  else
    let f (lo k : Nat) : Nat := leNat ((data.drop lo).take k)
    let s := if n < 32 then
        (((s.setF LINK.CAP0.V n (f 0 8)).setF LINK.CAP1.V n (f 8 8)).setF LINK.CAP2.V n (f 16 8)).setF LINK.CAP3.V n (f 24 4)
      else s
    if f 0 1 ≠ peerKind n ∨ f 1 1 ≠ 1 ∨ 500 < f 2 2 then (s.setLinkState n lkFAIL).linkRaise 2 n
    else (s.setLinkState n lkACTIVE).setLink n { (s.setLinkState n lkACTIVE).link n with credits := 64, owed := 0, tx := [], copies := [] }

/-! ### Blocks (R343, R344, R353) -/

/-- BAD_BLOCK: the block is discarded; 16 bad blocks of any 64 lose block lock. -/
def badBlock (n : Nat) (mirror viol : Bool) (good : Nat) (s : State) : State :=
  let k := laneOf n mirror
  if !hasLane n mirror then s
  else
    let s := if viol then s.incF LANE.CNT.CODE k else s
    let x := s.lane k
    if x.ls ≠ 4 then s
    else
      let bads := 0 :: (x.bads.map (· + good + 1)).filter (· < 64)
      let s := s.setLane k { x with bads := bads }
      if 16 ≤ bads.length then s.laneLost k 3 true else s

/-- A valid block arrives on a lane of an ACTIVE link: the answer says whether it is used, being the first copy of its number (R353). The
later copy comes within 64 ns. -/
def State.takeBlock (s : State) (n : Nat) (mirror : Bool) (bseq arr : Nat) : Bool × State :=
  let s := s.reach arr
  let x := s.link n
  if !s.linkActive n || !hasLane n mirror || (s.lane (laneOf n mirror)).ls != 4 || (mirror && x.skew) then (false, s)
  else if 24 ≤ n then (true, s)
  else
    let live := x.copies.filter (fun c => decide (arr ≤ c.2.2 + 64))
    match live.find? (fun c => c.1 == bseq && c.2.1 != mirror) with
    | some c => (false, s.setLink n { x with copies := live.erase c })
    | none => (true, s.setLink n { x with copies := (bseq, mirror, arr) :: live })

/-- The non-zero bytes among a block's reserved bytes, counted in CNT.RSV (R344). -/
def State.countRsv (s : State) (n : Nat) (rsv : List Byte) : State :=
  if n < 32 then s.incF LINK.CNT.RSV n (rsv.countP (· != 0#8)) else s

/-! ### Superframes and head time (R54, R346, R347) -/

/-- SUPERFRAME_START: the downlink SFS leaves each lane so that its header reaches the peer at Ts. -/
def superframeStart (ts : Nat) (s : State) : State :=
  if !s.isCycle 123 ts then s
  else
    let s := s.reach ts
    let s := match s.net.find? (fun t => t.kind == 13#4 && t.src == 0x37B#10 && t.time == BitVec.ofNat 48 ts) with
      | some t => s.deliver t.dest.toNat t
      | none => s
    (List.range 32).foldl (fun s n =>
      if !s.linkActive n then s
      else (lanesOf n).foldl (fun s k =>
        let x := s.lane k
        if x.ls ≠ 4 then s
        else
          let d : Int := match x.delay with | some d => openDiv d 65536 | none => s.f TB.HT.DLY.V n
          s.setLane k { x with mtx := some (ts - d) }) s) s

/-- The tracking of HTn by the offset of this superframe (R54): 64 superframes within 4 ns of the prediction set LOCK, 16 beyond 50 ns
clear it. -/
def State.htTrack (s : State) (n : Nat) (ofs : Int) : State :=
  let h := s.ht n
  let d := (ofs - h.pred).natAbs
  let good := if h.seen && decide (d < 4 * 65536) then h.good + 1 else 0
  let bad := if h.seen && decide (50 * 65536 < d) then h.bad + 1 else 0
  let locked := s.on TB.HT.STAT.LOCK n
  let s := s.setFi TB.HT.OFS.V n ofs
  let h := { h with seen := true, good := min good 64, bad := min bad 16, pred := if locked ∧ 50 * 65536 < d then h.pred else ofs }
  if locked && decide (16 ≤ bad) then
    (((s.setHt n { h with pred := ofs, good := 0, bad := 0 }).setF TB.HT.STAT.LOCK n 0).setF TB.HT.STAT.LOST n 1).raise 2 23 n (linkEp n) 1
      (s.word (TB.HT.STAT.LOCK.addr n))
  else
    let now : Bool := locked || decide (64 ≤ good)
    let s := s.setF TB.HT.STAT.LOCK n now.toNat
    s.setHt n (if now ∧ d ≤ 50 * 65536 then { h with lockedOfs := ofs } else h)

/-- An HT stamp of link `n` in MT (R54): by OFS while LOCK is 1, by the last locked OFS otherwise. -/
def State.htToMt (s : State) (n ht : Nat) : Nat :=
  let o : Int := if s.on TB.HT.STAT.LOCK n then s.fi TB.HT.OFS.V n else (s.ht n).lockedOfs
  ux 64 (rdiv ((ht : Int) * 65536 - o) 65536)

/-- SFS_RECEIVE. -/
def sfsReceive (n : Nat) (mirror : Bool) (bseq mtr : Nat) (data : List Byte) (s : State) : State :=
  let k := laneOf n mirror
  let hts := leNat (data.take 8)
  let htx := leNat ((data.drop 8).take 8)
  let (first, s) := s.takeBlock n mirror bseq mtr
  if !s.linkActive n || !hasLane n mirror || (s.lane k).ls != 4 then s
  else
    let x := s.lane k
    -- the lane's own exchange gives its delay, whichever copy is used
    let s := match x.mtx with
      | some m => s.setLane k { x with rts := (((mtr : Int) - m - ((htx : Int) - hts)) :: x.rts).take 16, mtx := none }
      | none => s
    let s := (s.skewCheck n).delayUpdate n
    if !first then s
    else
      let s := (s.countRsv n (data.drop 16)).setLink n { s.link n with hts := hts }
      match x.mtx, (s.lane k).delay with
      | some m, some d => s.htTrack n (((hts : Int) - m) * 65536 - d)
      | _, _ => s

/-! ### Sample blocks (R297, R347) -/

/-- A 16-bit field of a block's data. -/
def half16 (data : List Byte) (i : Nat) : Nat := leNat ((data.drop i).take 2)

/-- A head's sample block: the photodiode pair, the encoder samples of the three axes, HSTAT. -/
def State.headSamples (s : State) (n : Nat) (data : List Byte) : State :=
  let x := s.link n
  let b0 := (data.headD 0#8).toNat
  let i := b0 % 8
  let s := s.setLink n { x with hstat := (data.getD 27 0#8).toNat }
  let s := if b0.testBit 4 ∨ 4 < i then s
    else
      let l := 72 + n
      let p : Pair := { stamp := s.htToMt n (x.hts + (2 * i + 1) * 500), e0 := half16 data 1, r0 := half16 data 3, e1 := half16 data 5,
                        r1 := half16 data 7 }
      s.setLoop l { s.loop l with pairs := (s.loop l).pairs ++ [p] }
  if b0.testBit 3 then
    let stamp := s.htToMt n (x.hts + 1000)
    [0, 1, 2].foldl (fun s j => s.sincos (3 * n + j) (sx 16 (half16 data (9 + 6 * j))) (sx 16 (half16 data (11 + 6 * j)))
      (half16 data (13 + 6 * j)) stamp) s
  else s

/-- A hub's sample block (R333). -/
def State.hubSamples (s : State) (n : Nat) (data : List Byte) : State :=
  let s := s.countRsv n (data.drop 17)
  s.hubSample (n - 24) (s.htToMt n ((s.link n).hts + 1000)) (sx 16 (half16 data 0)) (sx 16 (half16 data 2)) (half16 data 4) (half16 data 6)
    (half16 data 8) (sx 48 (leNat ((data.drop 10).take 6))) (data.getD 16 0#8).toNat

/-- SMP_BLOCK_RECEIVE. -/
def smpBlockReceive (n : Nat) (mirror : Bool) (bseq arr : Nat) (data : List Byte) (s : State) : State :=
  let (use, s) := s.takeBlock n mirror bseq arr
  if !use then s else if n < 24 then s.headSamples n data else s.hubSamples n data

/-! ### Token blocks (R348, R349) -/

/-- The token of a TOK block's data, as the link endpoint's own; the spec names no endpoint of resident firmware for it, so its dest is
open (log entry 5). -/
def tokOfBlock (n : Nat) (data : List Byte) : Token :=
  let f (lo k : Nat) : Nat := leNat ((data.drop lo).take k)
  let kf := f 1 1
  { time := BitVec.ofNat 48 (f 4 6), seq := BitVec.ofNat 12 (f 2 2), err := kf.testBit 3, urgent := kf.testBit 2, timed := kf.testBit 1,
    last := kf.testBit 0, kind := BitVec.ofNat 4 (kf / 16), stream := BitVec.ofNat 8 (f 0 1), src := BitVec.ofNat 10 (linkEp n),
    dest := Config.linkDest n, payload := wd (f 10 8) }

/-- The block data a token is sent in (R344), with the credits returned. -/
def blockOfTok (t : Token) (cred : Nat) : List Byte :=
  leBytes 1 t.stream.toNat ++
  leBytes 1 (place t.kind.toNat 4 4 + place t.err.toNat 1 3 + place t.urgent.toNat 1 2 + place t.timed.toNat 1 1 + t.last.toNat) ++
  leBytes 2 t.seq.toNat ++ leBytes 6 t.time.toNat ++ leBytes 8 t.payload.toNat ++ leBytes 2 cred ++ leBytes 8 0

/-- Tokens go out while the peer's credits last (R348). -/
def State.linkDrain (s : State) (n : Nat) : Nat → State
  | 0 => s
  | fuel + 1 =>
    let x := s.link n
    match x.tx with
    | [] => s
    | t :: rest =>
      if x.credits = 0 then s
      else (s.setLink n { x with tx := rest, credits := x.credits - 1, owed := 0, sent := some t }).linkDrain n fuel

/-- A released token goes into the next TOK block: an urgent untimed one ahead of any timed token that waits (R30, R348). -/
def State.linkSend (s : State) (n : Nat) (t : Token) : State :=
  let x := s.link n
  let tx := if t.urgent && !t.timed then x.tx.filter (fun u => u.urgent && !u.timed) ++ t :: x.tx.filter (fun u => !(u.urgent && !u.timed))
    else x.tx ++ [t]
  (s.setLink n { x with tx := tx }).linkDrain n tx.length

/-- What the device takes from a head or hub: answers and data of streams 0x00–0x0F (R349); a point link carries every token. -/
def uplinkTaken (n : Nat) (t : Token) : Bool := decide (32 ≤ n) || (decide (t.stream.toNat < 16) && (t.kind == 5#4 || t.kind == 0#4))

/-- TOK_BLOCK_RECEIVE. -/
def tokBlockReceive (n : Nat) (mirror : Bool) (bseq arr : Nat) (data : List Byte) (s : State) : State :=
  let (use, s) := s.takeBlock n mirror bseq arr
  if !use then s
  else
    let s := s.countRsv n (data.drop 20)
    let x := s.link n
    let s := s.setLink n { x with credits := min 64 (x.credits + half16 data 18), owed := min 64 (x.owed + 1) }
    let s := s.linkDrain n 64
    let t := tokOfBlock n data
    if uplinkTaken n t then (s.event (0x200 + linkEp n) (some t)).setNet (s.net ++ [t]) else s

/-! ### Reference clocks, modes, tests, equalisation (R341, R342, R356, R357) -/

/-- REFCLK_LOSS: every lane of the quads that run from the reference drops to DETECT. -/
def refclkLoss (r : Nat) (s : State) : State :=
  let quads := (List.range 16).filter (fun q => s.f QUAD.CFG.REFSEL q = r)
  let hit := (List.range 36).filter (fun n => s.linkState n ≠ lkOFF ∧ (lanesOf n).any (fun k => quads.contains (k / 4)))
  let s := hit.foldl (fun s n => s.linkDrop n lkDETECT) s
  s.severe 15 r 0x190 0

/-- The rates a mode can run at (R342). -/
def modeRuns (mode rate : Nat) : Bool :=
  if mode = 3 then rate == 4 else if mode = 2 then decide (rate ≤ 3) else true

/-- The rates of a quad (R340). -/
def quadRates (q rate : Nat) : Bool :=
  if q < 12 then decide (rate ≤ 3) else if q < 14 then decide (rate ≤ 2) else if q = 14 then rate == 4 else decide (rate ≤ 4)

/-- Whether a lane is out of OFF: its link is, its mode is, or its Ethernet port is enabled. -/
def State.laneOn (s : State) (k : Nat) : Bool :=
  match linkOfLane k with
  | none => s.on ETH.CFG.EN (k - 56)
  | some n => if 32 ≤ n then s.f LANE.CFG.MODE k != 0 else s.linkState n != lkOFF

/-- A pattern test begins: the lane leaves block lock for it (R357). -/
def State.testStart (s : State) (k : Nat) : State :=
  let s := if (s.lane k).ls = 4 then s.laneLost k 5 false else s.laneTo k 5
  s.setLane k { s.lane k with testEnd := some (s.mt + s.f LANE.PRBS.DUR k * 1000000) }

/-- PRBS_END. -/
def prbsEnd (k nbits nerrs : Nat) (s : State) : State :=
  match (s.lane k).testEnd with
  | none => s
  | some t =>
    let s := s.reach t
    let s := ((s.incF LANE.BITS.V k nbits).incF LANE.ERRS.V k nerrs).setF LANE.PRBS.EN k 0
    let s := s.setLane k { s.lane k with testEnd := none }
    s.laneTo k 2

/-- EQ_LIMIT: a tap at its range limit for 1 ms. -/
def eqLimit (k : Nat) (s : State) : State :=
  let s := s.setF LANE.STAT.EQLIM k 1
  s.info 15 k (0x150 + k) (s.word (LANE.STAT.EQLIM.addr k))

/-- The adapted values of a lane as they stand: the spec gives none, so each is a free value (R356; log entry 5). -/
def State.adapted (s : State) (k : Nat) : State :=
  let take (s : State) (f : Fld) : State := let (w, s) := s.free; s.setF f k w.toNat
  let s := if s.on LANE.EQ.OVR k then s else let (w, s) := s.free; s.setF LANE.EQ.CTLE k (w.toNat % 32)
  if s.on LANE.EQ.FRZ k then s
  else take (take (take (take (take s LANE.EQTAP0.TAP) LANE.EQTAP1.TAP) LANE.EQTAP2.TAP) LANE.EQTAP3.TAP) LANE.EQTAP4.TAP

/-- A read of an equaliser word finds the values adapted so far, unless they are frozen (R356). -/
def laneRead (a : Nat) (s : State) : State :=
  if a < LANE.CFG.MODE.base ∨ LANE.CFG.MODE.base + 64 * 128 ≤ a then s
  else
    let k := (a - LANE.CFG.MODE.base) / 128
    let o := (a - LANE.CFG.MODE.base) % 128
    if (o = 0x10 ∨ (0x40 ≤ o ∧ o ≤ 0x60)) ∧ !s.on LANE.EQ.FRZ k then s.adapted k else s

/-! ### The writes of the LANE, QUAD and LINK words (R358) -/

/-- The lane and the offset within its entry of a LANE word. -/
def laneWord (a : Nat) : Option (Nat × Nat) :=
  if a < LANE.CFG.MODE.base ∨ LANE.CFG.MODE.base + 64 * 128 ≤ a then none
  else some ((a - LANE.CFG.MODE.base) / 128, (a - LANE.CFG.MODE.base) % 128)

/-- What refuses a write of a lane, quad or link word. -/
def linkCheck (a : Nat) (old new : State) : Option Nat :=
  match laneWord a with
  | some (k, o) =>
    if o = 0 then
      let m := new.f LANE.CFG.MODE k
      let was := old.f LANE.CFG.MODE k
      if k < 60 then (if m ≠ was ∨ new.f LANE.CFG.ETHALT k ≠ 0 then some 8 else none)
      else if 1 < new.f LANE.CFG.ETHALT k then some 8
      else if m ≠ was ∧ m ≠ 0 ∧ modeRuns m (old.f QUAD.CFG.RATE 15) = false then some 8
      else none
    else if 0x40 ≤ o ∧ o ≤ 0x60 then (if old.on LANE.EQ.FRZ k then none else some 8)
    else none
  | none => match QUAD.CFG.RATE.idx 16 a with
    | some q =>
      let changed : Bool := old.f QUAD.CFG.RATE q != new.f QUAD.CFG.RATE q || old.f QUAD.CFG.REFSEL q != new.f QUAD.CFG.REFSEL q
      if changed && [0, 1, 2, 3].any (fun j => old.laneOn (4 * q + j)) then some 8
      else if changed && !quadRates q (new.f QUAD.CFG.RATE q) then some 8
      else none
    | none => none

/-- What a write of a lane or link word does. -/
def linkEffect (a : Nat) (data : Word) (old s : State) : State :=
  match laneWord a with
  | some (k, o) =>
    if o = 0 then
      let m := s.f LANE.CFG.MODE k
      if m = old.f LANE.CFG.MODE k then s
      else
        let n := k - 28
        if m = 2 then s.linkDrop n lkDETECT else (s.linkDrop n lkOFF).laneTo k (if m = 1 then 2 else 0)
    else if o = 0x10 then
      -- the values freeze where the adaptation has brought them; with OVR 0 the CTLE field is the adaptation's
      let s := if !old.on LANE.EQ.FRZ k ∧ s.on LANE.EQ.FRZ k then
          ((s.setF LANE.EQ.FRZ k 0).adapted k).setF LANE.EQ.FRZ k 1
        else s
      if s.on LANE.EQ.OVR k ∨ (!old.on LANE.EQ.FRZ k ∧ s.on LANE.EQ.FRZ k) then s else s.setF LANE.EQ.CTLE k (old.f LANE.EQ.CTLE k)
    else if o = 0x18 then
      if (old.lane k).testEnd.isSome then s.setF LANE.PRBS.EN k 1
      else if s.on LANE.PRBS.EN k then s.testStart k
      else s
    else s
  | none => match LINK.CTRL.EN.idx 32 a with
    | some n =>
      let on := s.on LINK.CTRL.EN n
      let s := if on ∧ s.linkState n = lkOFF then s.linkDrop n lkDETECT
        else if !on ∧ s.linkState n ≠ lkOFF then s.linkDrop n lkOFF
        else s
      if LINK.CTRL.RESTART.get data = 1 ∧ s.linkState n = lkFAIL then s.linkDrop n lkDETECT else s
    | none => s

/-! ### Commands -/

/-- DETECT_POLL (R354). -/
def execDetectPoll (n : Fin 36) (term : Bool) (s : State) : Host.Outcome State Fault Refusal := .next (detectPoll n term s)

/-- SYMBOL_LOCK (R354). -/
def execSymbolLock (n : Fin 36) (mirror : Bool) (s : State) : Host.Outcome State Fault Refusal := .next (symbolLock n mirror s)

/-- LINK_STATE_TIMEOUT (R354). -/
def execLinkStateTimeout (n : Fin 36) (mirror : Bool) (s : State) : Host.Outcome State Fault Refusal := .next (linkStateTimeout n mirror s)

/-- CAP_RECORD (R355). -/
def execCapRecord (n : Fin 36) (data : List (BitVec 8)) (s : State) : Host.Outcome State Fault Refusal := .next (capRecord n data s)

/-- SUPERFRAME_START (R346). -/
def execSuperframeStart (ts : Nat) (s : State) : Host.Outcome State Fault Refusal := .next (superframeStart ts s)

/-- SFS_RECEIVE (R347). -/
def execSfsReceive (n : Fin 32) (mirror : Bool) (bseq : BitVec 8) (mtr : Nat) (data : List (BitVec 8)) (s : State) :
    Host.Outcome State Fault Refusal := .next (sfsReceive n mirror bseq.toNat mtr data s)

/-- SMP_BLOCK_RECEIVE (R297). -/
def execSmpBlockReceive (n : Fin 32) (mirror : Bool) (bseq : BitVec 8) (arr : Nat) (data : List (BitVec 8)) (s : State) :
    Host.Outcome State Fault Refusal := .next (smpBlockReceive n mirror bseq.toNat arr data s)

/-- TOK_BLOCK_RECEIVE (R348). -/
def execTokBlockReceive (n : Fin 36) (mirror : Bool) (bseq : BitVec 8) (arr : Nat) (data : List (BitVec 8)) (s : State) :
    Host.Outcome State Fault Refusal := .next (tokBlockReceive n mirror bseq.toNat arr data s)

/-- REFCLK_LOSS (R341). -/
def execRefclkLoss (r : Fin 4) (s : State) : Host.Outcome State Fault Refusal := .next (refclkLoss r s)

/-- PRBS_END (R357). -/
def execPrbsEnd (k : Fin 64) (nbits nerrs : BitVec 48) (s : State) : Host.Outcome State Fault Refusal :=
  .next (prbsEnd k nbits.toNat nerrs.toNat s)

/-- EQ_LIMIT (R356). -/
def execEqLimit (k : Fin 64) (s : State) : Host.Outcome State Fault Refusal := .next (eqLimit k s)

/-- BLOCK_LOCK (R345). -/
def execBlockLock (n : Fin 36) (mirror : Bool) (s : State) : Host.Outcome State Fault Refusal := .next (blockLock n mirror s)

/-- BAD_BLOCK (R345). -/
def execBadBlock (n : Fin 36) (mirror viol : Bool) (good : Nat) (s : State) : Host.Outcome State Fault Refusal :=
  .next (badBlock n mirror viol good s)

end Sys2Proof.Machine
end

