-- ==== Sys2Proof/Machine/Cols.lean ====
section
/-! DEFINITION. The cols (R58–R74): acceptance and judgement, release, second edges, the internal triggers, and the effects of their
control words. -/

namespace Sys2Proof.Machine

open Sys2Proof

/-! ### The allocation of R58 -/

def colLead (n : Nat) : Nat := if n < 24 ∨ (108 ≤ n ∧ n < 120) then 3000 else 1500
def colDepth (n : Nat) : Nat := if n < 24 ∨ (108 ≤ n ∧ n < 120) then 64 else if n < 108 then 16 else 8
def isPinCol (n : Nat) : Bool := decide (24 ≤ n ∧ n < 108)
def isLgateCol (n : Nat) : Bool := decide (24 ≤ n ∧ n < 48)
def isCtrgCol (n : Nat) : Bool := decide (48 ≤ n ∧ n < 72)
def isEmuCol (n : Nat) : Bool := decide (104 ≤ n ∧ n < 108)
def isTrigCol (n : Nat) : Bool := decide (120 ≤ n)

/-- Whether a col's link is up: ACTIVE of a head or hub link, LINK of an Ethernet port (R350). -/
def State.colLinkUp (s : State) (n : Nat) : Bool :=
  if n < 24 then s.linkActive n
  else if 108 ≤ n ∧ n < 116 then s.linkActive (n - 84)
  else if 116 ≤ n ∧ n < 120 then s.on ETH.STAT.LINK (n - 116)
  else true

/-- Whether EMU[k] emulates, so that its col takes set-points (R273). -/
def State.colEmu (s : State) (n : Nat) : Bool := isEmuCol n && s.on POS.EMU.CFG.EN (n - 104)

/-! ### Acceptance (R59–R67, R70) -/

/-- What refuses a token at a col that is enabled and whose link is up, by its CODE (R36, R63, R71, R74, R246, R273). -/
def State.colRefuses (s : State) (n : Nat) (t : Token) : Option Nat :=
  let p := t.payload
  if t.kind = 11#4 then some 7
  else if t.kind = 8#4 ∧ t.src ≠ 0xE#10 then some 3
  else if isLgateCol n && !t.timed then some 4
  else if s.colEmu n then
    (if t.kind ≠ 1#4 then some 7 else if t.src ≠ BitVec.ofNat 10 (0x1B8 + (n - 104)) then some 3 else none)
  else if isPinCol n then
    (if t.kind ≠ 14#4 then some 7 else if t.err then none else if 4 < (pinAct p).op then some 4 else none)
  else if isTrigCol n then
    let c := trigCmd p
    if t.kind ≠ 2#4 then some 7
    else if t.err then none
    else if c.op < 8 ∨ 10 < c.op then some 4
    else if c.op ≠ 8 then none
    else if c.period < 1000 then some 8
    else if n = 120 ∧ (c.period % 5000 ≠ 0 ∨ 100000 < c.period) then some 8
    else if n < 123 ∧ s.startOverloads n c.period = true then some 3
    else none
  else none

/-- The IDENT of a pin action. -/
def tokIdent (t : Token) : Nat := if t.kind = 14#4 then (pinAct t.payload).ident else 0

/-- The col's output level once every token held has been released. -/
def Col.levelAhead (c : Col) : Bool :=
  c.fifo.foldl (fun lv e => match (pinAct e.tok.payload).op with
    | 0 => false
    | 1 => true
    | 2 => false
    | 3 => true
    | 4 => !lv
    | _ => lv) (match c.edge with | some e => e.level | none => c.level)

/-- Whether a token drives a rising edge (R284): a high, a pulse, or a toggle of a low level. -/
def risingTok (c : Col) (t : Token) : Bool :=
  t.kind == 14#4 && (match (pinAct t.payload).op with
    | 1 => true
    | 2 => true
    | 3 => true
    | 4 => !c.levelAhead
    | _ => false)

/-- A CTRG col reports a judged rising-edge token to its slot. -/
def State.colJudged (s : State) (n : Nat) (t : Token) (released : Bool) : State :=
  if isCtrgCol n && !t.err && risingTok (s.col n) t then s.expJudged (n - 48) released else s

/-- The level of a col changes at `t4` (units of 250 ps): a high level on an LGATE col in FAULT is suppressed (R66); LGATE edges are counted
(R444); a CTRG edge starts or completes an exposure (R284). -/
def State.colDrive (s : State) (n t4 : Nat) (level : Bool) (ident : Nat) (short : Bool := false) : State :=
  if isLgateCol n then
    if level && s.on COL.STAT.FAULT n then s.incF COL.COINC.V n
    else
      let m := n - 24
      let was := s.lgate m
      let s := (s.setCol n { s.col n with level := level }).noteGates
      let s := if level && !s.lgate m then s.event (0x628 + m) else s
      if !was && s.lgate m then s.event (0x610 + m) else s
  else
    let was := (s.col n).level
    let s := s.setCol n { s.col n with level := level, hiz := false }
    if isCtrgCol n && level && !was then s.expRise (n - 48) t4 ident
    else if isCtrgCol n && !level && was then s.expEnd (n - 48) t4 short
    else s

/-- The pending second edge is cancelled at `t4`: an exposure in progress ends there and is SHORT; a rising second edge is not released. -/
def State.colCancel (s : State) (n t4 : Nat) : State :=
  match (s.col n).edge with
  | none => s
  | some e =>
    let s := s.setCol n { s.col n with edge := none }
    if isCtrgCol n then
      (if e.level then s.setSlot (n - 48) { s.slot (n - 48) with judged := (s.slot (n - 48)).judged.drop 1 } else s.expEnd (n - 48) t4 true)
    else s

/-- The fault policy: FAULT, the pin, the class of FCLASS; an LGATE col's own path generator suspends with cause 0x5 (R65, R155). -/
def State.colFault (s : State) (n : Nat) (d0 d1 : Word) : State :=
  let s := s.setF COL.STAT.FAULT n 1
  let s := if isPinCol n then s.colCancel n (4 * s.mt) else s
  let s := if isLgateCol n then s.colDrive n (4 * s.mt) false 0
    else if isPinCol n then s.colDrive n (4 * s.mt) (s.on COL.CFG.SAFELVL n) 0 else s
  let s := if isLgateCol n then s.suspendNow (n - 24) 5 s.mt else s
  let cls := match s.f COL.CFG.FCLASS n with | 1 => 0 | 2 => 2 | _ => 1
  s.raise cls 11 0 (0x300 + n) 2 d0 d1

/-- A late or poisoned token (R65): LATE, the count, the record with the policy's status. Answers the release instant where the policy releases
the token. -/
def State.colLate (s : State) (n : Nat) (t : Token) : Option Nat × State :=
  let s := ((s.setF COL.STAT.LATE n 1).incF COL.LATE.COUNT n).event (0x80 + n) (some t)
  let d0 := wd (place t.seq.toNat 12 48 + t.time.toNat)
  let d1 := wd (place t.src.toNat 10 40 + place n 7 32 + place (tokIdent t) 32 0)
  match s.f COL.CFG.POLICY n with
  | 2 => (none, (s.colJudged n t false).colFault n d0 d1)
  | 1 => (some (s.mt + colLead n), s.raise 2 11 0 (0x300 + n) 2 d0 d1)
  | _ => (none, (s.colJudged n t false).raise 2 11 0 (0x300 + n) 2 d0 d1)

/-- Slack is reported (R70), and WARN judged (R67). -/
def State.colSlack (s : State) (n : Nat) (t : Token) (slack : Int) : State :=
  let v := clamp (-2147483647) 2147483647 slack
  let s := s.setFi COL.SLACK.LAST n v
  let s := if v < s.fi COL.SLACK.MIN n then s.setFi COL.SLACK.MIN n v else s
  let w := s.f COL.CFG.WARN n
  if w ≠ 0 ∧ slack < w then (s.setF COL.STAT.WARN n 1).event (0x100 + n) (some t) else s

/-- The token enters the FIFO. -/
def State.colPut (s : State) (n : Nat) (t : Token) (due : Option Nat) : State :=
  let s := s.colJudged n t true
  let c := s.col n
  s.setCol n { c with fifo := c.fifo ++ [⟨t, s.mt, due⟩], order := match due with | some d => if t.timed then some d else c.order | none => c.order }

/-- The judgement of a token the col takes (R59–R62). -/
def State.colJudge (s : State) (n : Nat) (t : Token) : State :=
  if t.timed then
    let rel48 := if n < 24 then ux 48 ((t.time.toNat : Int) - s.f TB.HT.DLY.V n) else t.time.toNat
    let slack := wdiff 48 rel48 s.mt
    let rel := ((s.mt : Int) + slack).toNat
    let disorder : Bool := match (s.col n).order with | some o => decide (rel < o) | none => false
    let s := if disorder then s.setF COL.STAT.ORDER n 1 else s
    let s := s.colSlack n t slack
    if decide (slack < colLead n) || disorder || t.err then
      match s.colLate n t with
      | (some d, s) => s.colPut n t (some d)
      | (none, s) => s
    else s.colPut n t (some rel)
  else if t.err then
    match s.colLate n t with
    | (some d, s) => s.colPut n t (some d)
    | (none, s) => s
  else s.colPut n t none

/-- The seq check of R67. -/
def State.colSeq (s : State) (n : Nat) (t : Token) : State :=
  if s.on COL.CFG.SEQCHK n then
    let r := seqCheck (s.col n).seqs t
    let s := s.setCol n { s.col n with seqs := r.2 }
    if r.1 then s.setF COL.STAT.SEQERR n 1 else s
  else s

/-- A WIDTH of 0 or 1 is set to 2, with an info-class event (R63). -/
def State.colWidth (s : State) (n : Nat) (t : Token) : State :=
  let a := pinAct t.payload
  if isPinCol n && t.kind == 14#4 && !t.err && (a.op == 2 || a.op == 3) && decide (a.width < 2) then s.info 11 n (0x300 + n) else s

/-- A token reaches a col. A full FIFO accepts nothing: the token stays in transit (R19). -/
def colAccept (n : Nat) (t : Token) (s : State) : State :=
  let ep := 0x300 + n
  let urgent : Bool := decide (n < 24) && t.urgent && !t.timed
  if s.on COL.CFG.EN n && s.colLinkUp n && !urgent && decide (colDepth n ≤ (s.col n).fifo.length) && !neverAnswered t && (s.colRefuses n t).isNone then s
  else s.arrive ep [t] fun s =>
    if neverAnswered t then s.absorb ep t
    else if !s.on COL.CFG.EN n then s.refuse ep t 3
    else if !s.colLinkUp n then
      let s := s.refuse ep t 3
      if n < 24 then s.incF LINK.CNT.UNSENT n else if n < 116 then s.incF LINK.CNT.UNSENT (n - 84) else s
    else match s.colRefuses n t with
      | some code => s.refuse ep t code
      | none =>
        let s := (s.colSeq n t).colWidth n t
        if urgent && !t.err then (s.event (0x180 + n) (some t)).linkSend n t else s.colJudge n t

/-! ### Release (R61–R64) -/

/-- A pin token is released at `t`: the pending second edge takes place first or is cancelled, then the first edge, then a pulse's second
edge is pending. -/
def State.pinRelease (s : State) (n t : Nat) (tok : Token) : State :=
  let c := s.col n
  let a := pinAct tok.payload
  let f1 := 4 * t + a.fine1
  let s := if c.lastFirstEdge = t + 1 then s.incF COL.COINC.V n else s
  let s := match c.edge with
    | some e => if e.at4 < f1 then (s.setCol n { s.col n with edge := none }).colDrive n e.at4 e.level e.ident else s.colCancel n f1
    | none => s
  let s := s.setCol n { s.col n with lastFirstEdge := t + 1 }
  let was := (s.col n).level
  let first := match a.op with | 0 => false | 1 => true | 2 => true | 3 => false | _ => !was
  let s := if isCtrgCol n && (a.op == 1 || a.op == 2) && was then
      s.setSlot (n - 48) { s.slot (n - 48) with judged := (s.slot (n - 48)).judged.drop 1 } else s
  let s := s.colDrive n f1 first a.ident
  if a.op = 2 ∨ a.op = 3 then
    s.setCol n { s.col n with edge := some ⟨4 * (t + max 2 a.width) + a.fine2, !first, a.ident⟩ }
  else s

/-- The pending second edge takes place at its instant (R64). -/
def colSecondEdge (n : Nat) (s : State) : State :=
  match (s.col n).edge with
  | none => s
  | some e => ((s.reach (e.at4 / 4)).setCol n { s.col n with edge := none }).colDrive n e.at4 e.level e.ident

/-! ### Internal triggers (R71–R73) -/

/-- Whether a schedule still has a release, and its instant. -/
def Schedule.nextAt (k : Schedule) : Option Nat :=
  if k.count = 0 ∨ k.next < k.count then some (k.start + k.next * k.period) else none

/-- Whether a schedule releases, or has released, at `t`. -/
def Schedule.releasesAt (k : Schedule) (t : Nat) : Bool :=
  decide (k.start ≤ t ∧ (t - k.start) % k.period = 0 ∧ (k.count = 0 ∨ (t - k.start) / k.period < k.count))

/-- A TRIG token leaves, unless the last one of this col has not been accepted (R71, R73). -/
def State.trigIssue (s : State) (n target i t : Nat) : State :=
  if s.net.any (fun u => u.kind == 13#4 && u.src == BitVec.ofNat 10 (0x300 + n)) then (s.incF COL.COINC.V n).setF COL.STAT.WARN n 1
  else
    let tok := (mkTok (0x300 + n) target 13 0 (wd (i % 2 ^ 32))).at t
    (s.event (0x180 + n) (some tok)).send tok

/-- One command of an internal trigger col acts at `t`; the result says the target of a single release it wants. -/
def Col.trigAct (c : Col) (t : Nat) (tok : Token) (single : Option Nat) : Col × Option Nat :=
  let k := trigCmd tok.payload
  match (if tok.err then 0 else k.op) with
  | 8 => ({ c with sched := some ⟨t, k.period, k.count, k.target, 0⟩ }, single)
  | 9 => ({ c with sched := none }, single)
  | 10 => (c, some k.target)
  | _ => (c, single)

/-- The commands due at the head's instant act together; a single release is judged after them (R72). -/
def State.trigBatch (s : State) (n : Nat) : State :=
  let c := s.col n
  match c.fifo with
  | [] => s
  | e :: rest =>
    let batch := e :: (if e.due.isSome then rest.takeWhile (fun x => x.due == e.due) else [])
    let s := s.reach (e.due.getD s.mt)
    let t := e.due.getD s.mt
    let r := batch.foldl (fun p x => p.1.trigAct t x.tok p.2) ({ c with fifo := c.fifo.drop batch.length }, none)
    let s := (s.setCol n r.1).loadUpdate
    match r.2 with
    | none => s
    | some target =>
      match r.1.sched with
      | some k => if k.releasesAt t then s else s.trigIssue n target 0 t
      | none => s.trigIssue n target 0 t

/-- The commands due at or before an instant act first. -/
def State.trigUntil (s : State) (n t : Nat) : Nat → State
  | 0 => s
  | fuel + 1 =>
    match (s.col n).fifo with
    | [] => s
    | e :: _ => if e.due.getD 0 ≤ t then (s.trigBatch n).trigUntil n t fuel else s

/-- TRIGGER_RELEASE: the next release of the running schedule, or of a command that is due before it. -/
def triggerRelease (n : Nat) (s : State) : State :=
  let c := 120 + n
  match (s.col c).sched.bind Schedule.nextAt with
  | none => s.trigBatch c
  | some t =>
    let s := s.trigUntil c t 8
    match (s.col c).sched with
    | none => s
    | some k =>
      match k.nextAt with
      | none => s
      | some t =>
        let s := (s.reach t).setCol c { s.col c with sched := some { k with next := k.next + 1 } }
        s.trigIssue c k.target k.next t

/-- COL_RELEASE: the oldest token of a col is released at its instant. -/
def colRelease (n : Nat) (s : State) : State :=
  if isTrigCol n then s.trigBatch n
  else
    match (s.col n).fifo with
    | [] => s
    | e :: rest =>
      let s := s.reach (e.due.getD s.mt)
      let t := e.due.getD s.mt
      let s := (s.setCol n { s.col n with fifo := rest }).event (0x180 + n) (some e.tok)
      if n < 24 then s.linkSend n e.tok
      else if 108 ≤ n ∧ n < 116 then s.linkSend (n - 84) e.tok
      else if 116 ≤ n then s.txCount (n - 116)
      else if e.tok.err then s
      else if e.tok.kind = 1#4 then emuRelease (n - 104) t (bits e.tok.payload 31 0) s
      else s.pinRelease n t e.tok

/-- A command token with the named OP reaches an internal trigger col. -/
def triggerCommand (op n : Nat) (t : Token) (s : State) : State :=
  if (trigCmd t.payload).op = op then colAccept (120 + n) t s else s

/-! ### Control words (R66–R69) -/

/-- The policies R58 permits. -/
def policyOk (n p : Nat) : Bool := if isLgateCol n then p == 2 else if isCtrgCol n then p == 0 || p == 2 else decide (p < 3)

/-- What refuses a write of COL[n].CFG (R67). -/
def colCfgCheck (n : Nat) (new : State) : Option Nat :=
  if !policyOk n (new.f COL.CFG.POLICY n) || new.f COL.CFG.FCLASS n == 3 || (isLgateCol n && new.on COL.CFG.SAFELVL n) then some 8 else none

/-- EN and SEQCHK changes (R44, R69). -/
def colCfgEffect (n : Nat) (old s : State) : State :=
  let en := s.on COL.CFG.EN n
  let was := old.on COL.CFG.EN n
  let s := if (en && !was) || (s.on COL.CFG.SEQCHK n && !old.on COL.CFG.SEQCHK n) then s.setCol n { s.col n with seqs := [] } else s
  if was && !en then
    let s := s.colDiscard n
    let s := if isLgateCol n then (s.setCol n { s.col n with level := false }).noteGates else s
    if isTrigCol n then (s.setCol n { s.col n with sched := none }).loadUpdate else s
  else if en && !was then s.setCol n { s.col n with fifo := [], order := none }
  else s

/-! ### The commands -/

/-- COL_ACCEPT (R59–R67). -/
def execColAccept (n : Fin 128) (tok : Token) (s : State) : Host.Outcome State Fault Refusal := .next (colAccept n tok s)

/-- COL_RELEASE (R61–R64). -/
def execColRelease (n : Fin 128) (s : State) : Host.Outcome State Fault Refusal := .next (colRelease n s)

/-- COL_SECOND_EDGE (R64). -/
def execColSecondEdge (n : Fin 128) (s : State) : Host.Outcome State Fault Refusal := .next (colSecondEdge n s)

/-- TRIGGER_START_PERIODIC (R71, R72). -/
def execTriggerStartPeriodic (n : Fin 8) (tok : Token) (s : State) : Host.Outcome State Fault Refusal :=
  .next (triggerCommand 8 n tok s)

/-- TRIGGER_STOP (R72). -/
def execTriggerStop (n : Fin 8) (tok : Token) (s : State) : Host.Outcome State Fault Refusal := .next (triggerCommand 9 n tok s)

/-- TRIGGER_SINGLE (R72). -/
def execTriggerSingle (n : Fin 8) (tok : Token) (s : State) : Host.Outcome State Fault Refusal := .next (triggerCommand 10 n tok s)

/-- TRIGGER_RELEASE (R72, R73). -/
def execTriggerRelease (n : Fin 8) (s : State) : Host.Outcome State Fault Refusal := .next (triggerRelease n s)

end Sys2Proof.Machine
end

