-- ==== Sys2Proof/Machine/PlantTime.lean ====
section
/-! DEFINITION. The plant-time discipline of S1 (R363, R366–R369): the PI servo on the Sync offset, the plant-time states, the choice of a
master. Times and offsets are in 2^−16 ns. -/

namespace Sys2Proof.Machine

open Sys2Proof

def ptDISABLED : Nat := 0
def ptLISTEN : Nat := 1
def ptSTEP : Nat := 2
def ptACQUIRE : Nat := 3
def ptLOCKED : Nat := 4
def ptHOLDOVER : Nat := 5

def State.ptpState (s : State) : Nat := s.f ETH.PTP.STAT.STATE

/-- STATE changes; leaving LOCKED for any state but DISABLED raises a warning (R367). -/
def State.ptpTo (s : State) (st : Nat) : State :=
  let was := s.ptpState
  let s := (s.setF ETH.PTP.STAT.STATE 0 st).setPtp { s.ptp with near := 0, far := 0 }
  if was = ptLOCKED ∧ st ≠ ptLOCKED ∧ st ≠ ptDISABLED then s.warn 17 0 0x88 (s.word ETH.PTP.STAT.STATE.base) else s

/-- A rational rounded to the nearest integer, ties away from zero. -/
def ratRound (q : Rat) : Int := rdiv q.num q.den

/-- S1 writes the set so that PT is `pt` at the MT `mt`, with the given RATE, and the step is judged (R366). -/
def State.ptStep (s : State) (pt : Int) (mt : Nat) (rate : Option Int) : State :=
  let s' := (s.putPt pt mt)
  let s' := match rate with | some r => s'.setRate r | none => s'
  ptStepJudge s (s.ptRemember s')

/-- The mean path delay: the last 16 measurements. -/
def PtpSt.delay (p : PtpSt) : Option Int :=
  match p.delays with
  | [] => none
  | l => some (openDiv (l.foldl (· + ·) 0) l.length)

/-- One measurement of the delay (R366). -/
def delayValue (d : DelayMeas) (s : State) (t1 t2 : Int) : Option Int :=
  match d with
  | .none => none
  | .request t3 t4 c => some (openDiv ((t2 - t1) + (s.ptAt16 t4 - t3) - c) 2)
  | .peer d => some d

/-- The rate the PI law gives, before it is clamped: the new integral term and RATE. -/
def ptpLaw (rint : Rat) (o : Int) (sInt kis kps : Nat) : Rat × Int :=
  let frac : Rat := mkRat o (65536 * sInt)
  let rint := rint - frac / (2 ^ kis : Nat)
  (rint, ratRound ((rint - frac / (2 ^ kps : Nat)) * (2 ^ 40 : Nat)))

/-- The states after an offset that made no step (R367). -/
def State.ptpJudge (s : State) (o : Int) : State :=
  let st := s.ptpState
  let p := s.ptp
  let near := if o.natAbs < 100 * 65536 then p.near + 1 else 0
  let far := if 1000 * 65536 < o.natAbs then p.far + 1 else 0
  let s := s.setPtp { p with near := near, far := far }
  if st = ptACQUIRE ∧ 16 ≤ near then s.ptpTo ptLOCKED
  else if st = ptLOCKED ∧ 4 ≤ far then s.ptpTo ptACQUIRE
  else s

/-- PTP_SYNC. -/
def ptpSync (port : Nat) (t1 : Int) (t2 : Nat) (corr : Int) (d : DelayMeas) (s : State) : State :=
  let st := s.ptpState
  match s.ptp.master with
  | none => s
  | some m =>
    if m.1 ≠ port ∨ st < ptSTEP then s
    else
      let s := s.reach (t2 / 65536)
      let p2 := s.ptAt16 t2
      let last := s.ptp.lastSync
      let delays := match delayValue d s t1 p2 with
        | some v => (v :: s.ptp.delays).take 16
        | none => s.ptp.delays
      let sInt := match last with | some l => (t2 - l) / 65536 | none => 0
      let s := s.setPtp { s.ptp with delays := delays, lastSync := some t2, interval := if sInt = 0 then s.ptp.interval else sInt }
      let s := if st = ptHOLDOVER then s.ptpTo ptACQUIRE else s
      match s.ptp.delay with
      | none => s
      | some dl =>
        let o := p2 - t1 - corr - dl
        let s := (s.setF ETH.PTP.STAT.OFS 0 (ux 32 (sat 32 (rdiv o 65536)))).setF ETH.PTP.STAT.MPD 0 (clamp 0 65535 (rdiv dl 65536)).toNat
        if st = ptSTEP ∨ s.f ETH.PTP.CFG.STEPTHR * 1000 * 65536 < o.natAbs then
          let s := s.ptStep (rdiv (t1 + corr + dl - (t2 % 65536 : Nat)) 65536) (t2 / 65536) none
          (s.setPtp { s.ptp with rint := 0 }).ptpTo ptACQUIRE
        else if sInt = 0 then s.ptpJudge o
        else
          let (rint, rate) := ptpLaw s.ptp.rint o sInt (s.f ETH.PTP.CFG.KIS) (s.f ETH.PTP.CFG.KPS)
          let clamped : Bool := decide (rate < -549755814 ∨ 549755814 < rate)
          let s := (s.ptStep s.pt s.mt (some rate)).ptpJudge o
          let s := s.setPtp { s.ptp with rint := rint }
          if clamped then s.info 23 0 4 else s

/-- The data set of a master as the best master clock algorithm orders it: lower is better (IEEE 1588). -/
def announceOrder (m : AnnounceMsg) (port : Nat) : List Nat :=
  [m.prio1.toNat, m.clockClass.toNat, m.accuracy.toNat, m.variance.toNat, m.prio2.toNat, m.gm.toNat, m.steps.toNat, m.sender.toNat, port]

/-- Lexicographic order. -/
def lexLt : List Nat → List Nat → Bool
  | a :: as, b :: bs => decide (a < b) || (a == b && lexLt as bs)
  | _, _ => false

/-- The best of the masters that have sent three Announce messages within four intervals (R367). -/
def bestMaster (l : List Foreign) : Option Foreign :=
  (l.filter (fun f => 3 ≤ f.times.length)).foldl (fun b f => match b with
    | none => some f
    | some g => if lexLt (announceOrder f.msg f.port) (announceOrder g.msg g.port) then some f else b) none

/-- ANNOUNCE. -/
def announce (port : Nat) (m : AnnounceMsg) (s : State) : State :=
  if s.ptpState = ptDISABLED ∨ (s.f ETH.PTP.CFG.PORTS).testBit port = false ∨ m.domain.toNat ≠ s.f ETH.PTP.CFG.DOMAIN then s
  else
    let same (f : Foreign) : Bool := f.port == port && f.msg.sender == m.sender
    let times := match s.ptp.heard.find? same with | some f => f.times | none => []
    let entry : Foreign := ⟨port, m, (s.mt :: times).filter (fun t => decide (s.mt ≤ t + 4 * m.interval))⟩
    let heard := entry :: s.ptp.heard.filter (fun f => !same f)
    let s := s.setPtp { s.ptp with heard := heard.take 16 }
    match bestMaster heard with
    | none => s
    | some b =>
      let same : Bool := match s.ptp.master with
        | some c => c.1 == b.port && c.2.sender == b.msg.sender
        | none => false
      if same then s.setPtp { s.ptp with master := some (b.port, b.msg) }
      else
        let s := s.setPtp { s.ptp with master := some (b.port, b.msg), delays := [], lastSync := none }
        ((s.setF ETH.PTP.GM.V 0 b.msg.gm.toNat).setF ETH.PTP.STAT.PORT 0 b.port).ptpTo ptSTEP

/-- SYNC_LOSS: no Sync for four Sync intervals. -/
def syncLoss (s : State) : State :=
  if s.ptpState ≠ ptLOCKED then s
  else
    let s := match s.ptp.lastSync with | some t => s.reach (t / 65536 + 4 * s.ptp.interval) | none => s
    s.ptpTo ptHOLDOVER

/-- ANNOUNCE_TIMEOUT. -/
def announceTimeout (s : State) : State :=
  if s.ptpState ≠ ptHOLDOVER then s
  else (s.setPtp { s.ptp with master := none, heard := [], lastSync := none }).ptpTo ptLISTEN

/-- A write of PTP.CFG: EN starts and ends the discipline (R367). -/
def ptpCfgEffect (old s : State) : State :=
  if old.on ETH.PTP.CFG.EN = s.on ETH.PTP.CFG.EN then s
  else if s.on ETH.PTP.CFG.EN then s.ptpTo ptLISTEN
  else (s.setPtp { s.ptp with master := none, heard := [], lastSync := none, delays := [] }).ptpTo ptDISABLED

/-- PTP_SYNC (R366). -/
def execPtpSync (port : Fin 4) (t1 : Int) (t2 : Nat) (corr : Int) (d : DelayMeas) (s : State) : Host.Outcome State Fault Refusal :=
  .next (ptpSync port t1 t2 corr d s)

/-- ANNOUNCE (R367). -/
def execAnnounce (port : Fin 4) (m : AnnounceMsg) (s : State) : Host.Outcome State Fault Refusal := .next (announce port m s)

/-- SYNC_LOSS (R367). -/
def execSyncLoss (s : State) : Host.Outcome State Fault Refusal := .next (syncLoss s)

/-- ANNOUNCE_TIMEOUT (R367). -/
def execAnnounceTimeout (s : State) : Host.Outcome State Fault Refusal := .next (announceTimeout s)

end Sys2Proof.Machine
end

