-- ==== Sys2Proof/Machine/Queue.lean ====
section
/-! DEFINITION. The hardware queues Q0–Q63 (R44–R50, R500). -/

namespace Sys2Proof.Machine

open Sys2Proof

/-- Ring entries of queue `n` (R44). -/
def State.qSize (s : State) (n : Nat) : Nat := 2 ^ s.f QUEUE.CFG.LOG2SIZE n

/-- Entries held (R49: indices count modulo 2^(LOG2SIZE+1)). -/
def State.qFill (s : State) (n : Nat) : Nat :=
  (s.f QUEUE.PTR.TAIL n + 2 * s.qSize n - s.f QUEUE.PTR.HEAD n) % (2 * s.qSize n)

/-- The address of the ring entry with index `k`. -/
def State.qSlot (s : State) (n k : Nat) : Nat := s.f QUEUE.BASE.V n * 32 + 32 * (k % s.qSize n)

/-- FILL, FULL and EMPTY follow the pointers (R50). -/
def State.qUpdate (s : State) (n : Nat) : State :=
  let fill := s.qFill n
  ((s.setF QUEUE.STAT.FILL n fill).setF QUEUE.STAT.FULL n (if s.qSize n ≤ fill then 1 else 0)).setF QUEUE.STAT.EMPTY n
    (if fill = 0 then 1 else 0)

/-- The token a ring entry's tag and payload spell (R34). -/
def untag (tag : Nat) (payload : Word) : Token :=
  { time := BitVec.ofNat 48 (tag >>> 48), seq := BitVec.ofNat 12 (tag >>> 36), err := tag.testBit 35, urgent := tag.testBit 34,
    timed := tag.testBit 33, last := tag.testBit 32, kind := BitVec.ofNat 4 (tag >>> 28), stream := BitVec.ofNat 8 (tag >>> 20),
    src := BitVec.ofNat 10 (tag >>> 10), dest := BitVec.ofNat 10 tag, payload := payload }

/-- The four words of a ring entry: payload, tag, and the low 32 bits of the arrival MT when STAMP is 1. -/
def State.qEntryWords (s : State) (n : Nat) (t : Token) : List Word :=
  let stamp := if s.on QUEUE.CFG.STAMP n then s.mt % 2 ^ 32 else 0
  [t.payload, wd (t.tag % 2 ^ 64), wd (t.tag / 2 ^ 64 + stamp * 2 ^ 32), 0]

/-- The token is stored at TAIL. -/
def State.qStore (s : State) (n : Nat) (t : Token) : State :=
  let k := s.f QUEUE.PTR.TAIL n
  ((s.sts (s.qSlot n k) (s.qEntryWords n t)).setF QUEUE.PTR.TAIL n ((k + 1) % (2 * s.qSize n))).qUpdate n

/-- HEAD moves on by `k` entries. -/
def State.qRetire (s : State) (n k : Nat) : State :=
  (s.setF QUEUE.PTR.HEAD n ((s.f QUEUE.PTR.HEAD n + k) % (2 * s.qSize n))).qUpdate n

/-- The oldest entry that is not under push handshake is discarded; one under handshake moves into the freed slot (R46). -/
def State.qDropOldest (s : State) (n : Nat) : State :=
  let k := s.f QUEUE.PTR.HEAD n
  let s := if (s.queue n).hand then s.sts (s.qSlot n (k + 1)) (s.lds (s.qSlot n k) 4) else s
  s.qRetire n 1

/-- A token is discarded under the overflow policy: DROPS counts it and DROP sets (R46). -/
def State.qDropped (s : State) (n : Nat) : State := (s.incF QUEUE.STAT.DROPS n).setF QUEUE.STAT.DROP n 1

/-- The seq check of an accepted token (R44). -/
def State.qSeqCheck (s : State) (n : Nat) (t : Token) : State :=
  if s.on QUEUE.CFG.SEQCHK n then
    let r := seqCheck (s.queue n).seqs t
    let s := s.setQueue n { s.queue n with seqs := r.2 }
    if r.1 then s.setF QUEUE.STAT.SEQERR n 1 else s
  else s

/-- An enqueue that takes the fill from below WMARK up to it sets STAT.WMARK and raises an info-class event (R50). -/
def State.qWmark (s : State) (n before : Nat) : State :=
  let wm := s.f QUEUE.CFG.WMARK n
  if wm ≠ 0 ∧ before < wm ∧ wm ≤ s.qFill n then (s.setF QUEUE.STAT.WMARK n 1).info 12 n (0x380 + n) else s

/-- A queue stores or discards an arriving token; under the stall policy a full ring accepts nothing and the token stays in transit. -/
def queueEnqueue (n : Nat) (t : Token) (handshake : Bool) (s : State) : State :=
  let ep := 0x380 + n
  let s := s.setQueue n { s.queue n with hand := handshake && s.on QUEUE.CFG.PUSH n && s.qFill n != 0 }
  if s.on QUEUE.CFG.EN n && s.f QUEUE.CFG.OVF n == 0 && decide (s.qSize n ≤ s.qFill n) then s
  else s.arrive ep [t] fun s =>
    if neverAnswered t then s.absorb ep t
    else if t.kind = 11#4 then s.refuse ep t 7
    else if t.kind = 8#4 ∧ t.src ≠ 0xE#10 then s.refuse ep t 3
    else if !s.on QUEUE.CFG.EN n then s.refuse ep t 3
    else
      let s := s.qSeqCheck n t
      let fill := s.qFill n
      if fill < s.qSize n then (s.qStore n t).qWmark n fill
      else if s.f QUEUE.CFG.OVF n = 1 then s.qDropped n
      else ((s.qDropOldest n).qStore n t).qDropped n

/-- QUEUE_ENQUEUE (R46, R47). -/
def execQueueEnqueue (n : Fin 64) (tok : Token) (handshake : Bool) (s : State) : Host.Outcome State Fault Refusal :=
  .next (queueEnqueue n tok handshake s)

/-- In push mode the oldest entry goes to CFG.CONS with the stored tag, dest replaced and src written by the network, and is retired
(R500). A queue paused while an entry is under handshake still completes that entry (R49). -/
def queuePush (n : Nat) (s : State) : State :=
  let q := s.queue n
  if s.on QUEUE.CFG.PUSH n && (s.on QUEUE.CFG.EN n || q.hand) && s.qFill n != 0 then
    let a := s.qSlot n (s.f QUEUE.PTR.HEAD n)
    let ws := s.lds a 4
    let t := untag ((ws.getD 1 0).toNat + (ws.getD 2 0).toNat % 2 ^ 32 * 2 ^ 64) (ws.getD 0 0)
    let t := { t with src := BitVec.ofNat 10 (0x3C0 + n), dest := BitVec.ofNat 10 (s.f QUEUE.CFG.CONS n),
                      err := t.err || s.anyUe a 3 }
    ((s.setNet (s.net ++ [t])).setQueue n { q with hand := false }).qRetire n 1
  else s

/-- QUEUE_PUSH (R500). -/
def execQueuePush (n : Fin 64) (s : State) : Host.Outcome State Fault Refusal := .next (queuePush n s)

/-! ### The queue's control words -/

/-- What refuses a write of CFG (R44, R45): the whole ring must lie in the Plain when EN is set; LOG2SIZE keeps its value while EN
is 1. -/
def queueCfgCheck (n : Nat) (old new : State) : Option Nat :=
  if old.on QUEUE.CFG.EN n && new.f QUEUE.CFG.LOG2SIZE n != old.f QUEUE.CFG.LOG2SIZE n then some 8
  else if !old.on QUEUE.CFG.EN n && new.on QUEUE.CFG.EN n && !inPlain (new.f QUEUE.BASE.V n * 32) (32 * new.qSize n) then some 8
  else none

def queueBaseCheck (n : Nat) (old new : State) : Option Nat :=
  if old.on QUEUE.CFG.EN n && new.f QUEUE.BASE.V n != old.f QUEUE.BASE.V n then some 8 else none

/-- POP is refused in push mode while EN is 1 (R48). -/
def queuePopCheck (n : Nat) (old : State) : Option Nat :=
  if old.on QUEUE.CFG.EN n && old.on QUEUE.CFG.PUSH n then some 8 else none

/-- A refused write of CFG, BASE or POP sets CFGERR (R44, R45, R48). -/
def queueRefused (n : Nat) (s : State) : State := s.setF QUEUE.STAT.CFGERR n 1

/-- A changed BASE or LOG2SIZE empties the ring (R49); EN or SEQCHK set from 0 to 1 empties the held pairs (R44). -/
def queueCfgEffect (n : Nat) (old s : State) : State :=
  let s := if (!old.on QUEUE.CFG.EN n && s.on QUEUE.CFG.EN n) || (!old.on QUEUE.CFG.SEQCHK n && s.on QUEUE.CFG.SEQCHK n)
    then s.setQueue n { s.queue n with seqs := [] } else s
  if s.f QUEUE.CFG.LOG2SIZE n ≠ old.f QUEUE.CFG.LOG2SIZE n ∨ s.f QUEUE.BASE.V n ≠ old.f QUEUE.BASE.V n then
    ((s.setF QUEUE.PTR.HEAD n 0).setF QUEUE.PTR.TAIL n 0).qUpdate n
  else s

/-- POP retires COUNT entries; a COUNT beyond the fill retires all and sets POPERR (R48). -/
def queuePopEffect (n : Nat) (data : Word) (s : State) : State :=
  let c := QUEUE.POP.COUNT.get data
  let fill := s.qFill n
  let s := if fill < c then s.setF QUEUE.STAT.POPERR n 1 else s
  s.qRetire n (min c fill)

end Sys2Proof.Machine
end

