-- ==== Sys2Proof/Machine/ControlWords.lean ====
section
/-! DEFINITION. Control-word space, endpoint 0x012 (R10–R12, R91–R96): the read and the write message, the field maps' ranges, what each chapter
refuses, and what a write does beside storing. -/

namespace Sys2Proof.Machine

open Sys2Proof

def kindCWW : BitVec 4 := 3
def kindCWR : BitVec 4 := 4

/-- The control-word space endpoint. -/
def cwEp : Nat := 0x12

/-! ### Which words are closed to whom (R92, R93, R100, R101) -/

/-- The offset of a word in its block, and the entry it lies in for entries of `stride` bytes. -/
def cwOffset (a : Nat) : Nat := a % 0x100000
def inEntries (a stride lo hi : Nat) : Bool := decide (0x1000 + stride * lo ≤ cwOffset a ∧ cwOffset a < 0x1000 + stride * hi)
def entryOf (a stride : Nat) : Nat := (cwOffset a - 0x1000) / stride

/-- The words marked resident only in R92. -/
def residentWord (a : Nat) : Bool :=
  match blockOf a with
  | 2 => decide (0x18 ≤ cwOffset a ∧ cwOffset a ≤ 0x30)
  | 4 => inEntries a 64 116 124
  | 8 => inEntries a 64 0 2
  | 27 => inEntries a 64 12 13
  | b => (decide (15 ≤ b) && decide (b ≤ 19)) || (decide (24 ≤ b) && decide (b ≤ 26)) || b == 28

/-- Entries 16 and 17 of the CORE block follow R100. -/
def spareWord (a : Nat) : Bool := blockOf a == 8 && inEntries a 64 16 18

/-- The CODE that refuses an access to address `a` by `src`, if any. -/
def State.cwRefusal (s : State) (a : Nat) (src : BitVec 10) : Option Nat :=
  match s.region a with
  | .control =>
    if (regOf a).isNone then some 1
    else if (residentWord a || spareWord a) && !isResident src then some 3
    else none
  | .reserved => some 1
  | _ => some 2

/-- A refused access to a resident-only word raises the warning of R23. -/
def State.cwWarn (s : State) (a : Nat) (src : BitVec 10) (code : Nat) : State :=
  if code = 3 ∧ residentWord a = true ∧ isResident src = false then s.warnAccess cwEp src a else s

/-! ### Reads (R10, R93, R95) -/

/-- The mask of the LGATE pins that are driven high. -/
def State.pinMask (s : State) : Nat := (List.range 24).foldl (fun m n => m + (if s.lgate n then 2 ^ n else 0)) 0

/-- What a read returns: words that mirror other state are formed from it. -/
def State.readWord (s : State) (a : Nat) : Word :=
  if a = TB.MT.V.base then wd s.mt
  else if a = TB.ATNOW.V.base then wd s.atNow
  else if a = BASIN.GATE.GOFF.base then
    BASIN.GATE.GOFF.put (BASIN.GATE.SAFEA.put (BASIN.GATE.SAFEB.put (BASIN.GATE.PIN.put 0 s.pinMask) s.basin.safeB.toNat) s.basin.safeA.toNat)
      s.basin.goff.toNat
  else if blockOf a = 8 ∧ a = CORE.PC.V.addr (entryOf a 64) then wd (s.core (entryOf a 64)).pc
  else if blockOf a = 8 ∧ a = CORE.ICOUNT.V.addr (entryOf a 64) then wd (s.core (entryOf a 64)).icount
  else if blockOf a = 10 ∧ inEntries a 64 0 24 = true ∧ a = SADDLEN.HSTAT.YIELDING.addr (entryOf a 64) then
    SADDLEN.HSTAT.YIELDING.put (s.word a) (s.yielding (entryOf a 64)).toNat
  else if blockOf a = 10 ∧ inEntries a 64 0 24 = true ∧ a = SADDLEN.YIELD.YIELDT.addr (entryOf a 64) then wd (s.yieldT (entryOf a 64))
  else s.word a

/-- The word after a read: its RS fields return to their reset values. -/
def Reg.afterRead (r : Reg) (i : Nat) (w : Word) : Word :=
  r.fields.foldl (fun w f => if f.acc = .rs then f.fld.put w (f.reset.at i) else w) w

/-- The side effect of a read. -/
def State.readEffect (s : State) (a : Nat) : State :=
  let s := match regOf a with
    | some r => if r.fields.any (fun f => f.acc == .rs) then s.setWord a (r.afterRead (r.indexOf a) (s.word a)) else s
    | none => s
  if blockOf a = 10 ∧ inEntries a 64 0 24 = true ∧ a = SADDLEN.YIELD.YIELDT.addr (entryOf a 64) then
    s.setPg (entryOf a 64) { s.pg (entryOf a 64) with yieldFrom := s.mt }
  else s

/-- A read of an address by `src`: the word and the state after its side effect, or the CODE that refuses it. -/
def State.cwReadAt (s : State) (a : Nat) (src : BitVec 10) : (Nat ⊕ Word) × State :=
  match s.cwRefusal a src with
  | some c => (.inl c, s.cwWarn a src c)
  | none =>
    let s := laneRead a s
    (.inr (s.readWord a), s.readEffect a)

/-- A CWR acts. -/
def cwRead (t : Token) (s : State) : State :=
  if !cwrFormed t.payload then s.refuse cwEp t 4
  else match s.cwReadAt (cwAddr t.payload) t.src with
    | (.inl c, s) => s.refuse cwEp t c
    | (.inr w, s) => s.respond cwEp t w

/-- A CWR reaches control-word space; a poisoned one takes no action (R37). -/
def cwr (t : Token) (s : State) : State :=
  if t.kind ≠ kindCWR ∨ t.dest ≠ 0x12#10 then s
  else s.arrive cwEp [t] (fun s => if t.err then s else s.whenDue [t] (cwRead t))

/-! ### What a field map refuses (R94) -/

/-- A value outside a field's range. -/
def Reg.outOfRange (r : Reg) (data : Word) : Bool :=
  r.fields.any (fun f => (f.acc == .rw || f.acc == .wo) && (decide (f.fld.get data < f.vmin) || decide (f.vmax < f.fld.get data)))

/-- What the block's chapter refuses, given the state before the message and the state its words would make. -/
def chapterCheck (a : Nat) (data : Word) (old new : State) : Option Nat :=
  let n := entryOf a 64
  let p := entryOf a 512
  match blockOf a with
  | 2 => if a = TB.PTBASE.NS.base then ptBaseCheck data else none
  | 3 =>
    if !inEntries a 64 0 64 then none
    else if a = QUEUE.CFG.EN.addr n then queueCfgCheck n old new
    else if a = QUEUE.BASE.V.addr n then queueBaseCheck n old new
    else if a = QUEUE.POP.COUNT.addr n then queuePopCheck n old
    else none
  | 4 => if inEntries a 64 0 128 ∧ a = COL.CFG.EN.addr n then colCfgCheck n new else none
  | 5 => basinCheck a data old
  | 6 => daleCheck a old new
  | 7 => ecCheck a data
  | 8 =>
    if !inEntries a 64 0 18 then none
    else if a = CORE.CTRL.START.addr n then coreCtrlCheck data
    else if a = CORE.IMG.VALID.addr n then coreImgCheck data old
    else none
  | 9 =>
    if !inEntries a 512 0 26 then none
    else if a = PG.WRING.BASE.addr p then wringCheck p old new
    else if a = PG.SOFTX.XMAX.addr p ∨ a = PG.SOFTY.YMAX.addr p ∨ a = PG.SOFTZ.ZMAX.addr p ∨ a = PG.FRAME.ORIGX.addr p then idleOnlyCheck p old
    else if a = PG.CFG.AXES.addr p then pgCfgCheck p old new
    else if a = PG.TRK.EN.addr p then pgTrkCheck p old new
    else if a = PG.STRACE.EN.addr p then straceCheck p old new
    else none
  | 10 =>
    if a = SADDLE.FEATH.FDEF.base then feathCheck SADDLE.FEATH.FDEF SADDLE.FEATH.FMIN new
    else if a = SADDLE.NFEATH.FDEF.base then feathCheck SADDLE.NFEATH.FDEF SADDLE.NFEATH.FMIN new
    else if a = SADDLE.HREC.EN.base then hrecCheck old new
    else if a = SADDLE.LREC.EN.base then lrecCheck old new
    else if inEntries a 64 0 24 ∧ a = SADDLEN.MAPNEXT.WHEN.addr n then mapNextCheck n new
    else none
  | 11 =>
    if a = SERVO.STBASE.BASE.base then stbaseCheck old new
    else if 0x3000 ≤ cwOffset a then ruleCheck a old new
    else if !inEntries a 64 0 112 then none
    else if a = SERVON.CFG.EN.addr n then (loopCfgCheck n old new).or (auxLoopCheck n old new)
    else if a = SERVON.LIM.OMAX.addr n then loopLimCheck n new
    else if a = SERVON.FFTN.WHEN.addr n then fftnCheck n new
    else none
  | 12 => posCheck a old new
  | 13 => imagingCheck a old new
  | 14 => imagingCheck a old new
  | 15 => linkCheck a old new
  | 16 => linkCheck a old new
  | 17 => linkCheck a old new
  | 20 =>
    match DRAM.MAP.HASH.MASK.idx 8 a with
    | some i => hashCheck i data old
    | none => none
  | 22 => if inEntries a 64 0 8 then auxCheck a old new else none
  | 25 => if a = BOOT.CTRL.CONFIRM.base then bootCheck data old else none
  | _ => none

/-! ### What a write stores (R10–R12) -/

/-- The W1C bits of a word. -/
def Reg.clearable (r : Reg) : Word := r.fields.foldl (fun m f => if f.acc = .w1c then m ||| f.fld.mask else m) 0

/-- The bits some field names. -/
def Reg.named (r : Reg) : Word := r.fields.foldl (fun m f => m ||| f.fld.mask) 0

/-- The word after a write of `data`, where hardware sets the bits `set` in the same handshake: the set wins over the clear. -/
def Reg.stored (r : Reg) (data set old : Word) : Word :=
  r.fields.foldl (fun acc f =>
    let v := match f.acc with
      | .rw => data
      | .w1c => (old &&& ~~~ data) ||| set
      | .wo => 0
      | .ro | .rs => old
    acc ||| (v &&& f.fld.mask)) 0

/-- The number of 1 bits of a word. -/
def ones (w : Word) : Nat := (List.range 64).foldl (fun n i => n + (bit w i).toNat) 0

/-- The collision counter of a block, where it has one. -/
def collField (b : Nat) : Option Fld :=
  if b = 0 ∨ b = 16 ∨ b = 25 ∨ b = 27 ∨ 28 ≤ b then none
  else some ⟨0x100000000 + 0x100000 * b + (if b = 1 then 0x20 else if b = 2 then 0x10 else 0), 0, 31, 0⟩

/-- `k` collisions in the block of `a` (R11, event 0x602). -/
def State.collisions (s : State) (a k : Nat) : State :=
  if k = 0 then s
  else
    let s := match collField (blockOf a) with
      | some f => s.incF f 0 k
      | none => s
    s.event 0x602 none k

/-- The bits hardware sets in a word in this handshake: those named for it, and the level conditions that last (R431). -/
def State.liveBits (s : State) (collide : List (Nat × Word)) (a : Nat) : Word :=
  (collide.filter (fun p => p.1 == a)).foldl (fun w p => w ||| p.2) (s.levelBits a)

/-- One pair's data is stored. -/
def State.storePair (s : State) (collide : List (Nat × Word)) (a : Nat) (data : Word) : State :=
  match regOf a with
  | some r => s.setWord a (r.stored data (s.liveBits collide a) (s.word a))
  | none => s

/-- Hardware sets bits although the message changes nothing. -/
def State.setBits (s : State) (collide : List (Nat × Word)) : State :=
  collide.foldl (fun s p => match regOf p.1 with
    | some r => s.setWord p.1 (s.word p.1 ||| (p.2 &&& r.clearable))
    | none => s) s

/-! ### What a write does beside storing -/

/-- A value that is set to the least one: PERIOD of a scrub (R87, R413). -/
def State.raisePeriod (s : State) (f : Fld) (least source : Nat) : State :=
  if 1 ≤ s.f f ∧ s.f f < least then (s.setF f 0 least).info source 0 cwEp else s

/-- The effect of one word's write; `at_` is the CWW's time. -/
def chapterEffect (a : Nat) (data : Word) (at_ : Nat) (old s : State) : State :=
  let n := entryOf a 64
  let p := entryOf a 512
  match blockOf a with
  | 1 => if a = PLAIN.SCRUB.PERIOD.base then s.raisePeriod PLAIN.SCRUB.PERIOD 10000 4 else s
  | 3 =>
    if !inEntries a 64 0 64 then s
    else if a = QUEUE.CFG.EN.addr n ∨ a = QUEUE.BASE.V.addr n then queueCfgEffect n old s
    else if a = QUEUE.POP.COUNT.addr n then queuePopEffect n data s
    else s
  | 4 => if inEntries a 64 0 128 ∧ a = COL.CFG.EN.addr n then colCfgEffect n old s else s
  | 5 => statusClearEffect a data old (basinEffect a data s)
  | 6 => daleEffect a data s
  | 8 => if inEntries a 64 0 18 ∧ a = CORE.CTRL.START.addr n then coreCtrlEffect n data s else s
  | 9 =>
    if !inEntries a 512 0 26 then s
    else if a = PG.TRK.EN.addr p then pgTrkEffect p old s
    else if a = PG.STRACE.EN.addr p then straceEffect p old s
    else s
  | 10 =>
    if a = SADDLE.HREC.EN.base then hrecEffect old s
    else if a = SADDLE.LREC.EN.base then lrecEffect old s
    else if !inEntries a 64 0 24 then s
    else if a = SADDLEN.MAPNEXT.WHEN.addr n then mapNextEffect n at_ s
    else if a = SADDLEN.NREG.DX.addr n then regPend n s
    else s
  | 11 =>
    if a = SERVO.STBASE.BASE.base then stbaseEffect s
    else if 0x3000 ≤ cwOffset a then ruleEffect a s
    else if !inEntries a 64 0 112 then s
    else if a = SERVON.CFG.EN.addr n then auxLoopOff n old (loopCfgEffect n old s)
    else if a = SERVON.FFTN.WHEN.addr n then fftnEffect n s
    else s
  | 12 => posEffect a old s
  | 13 => imagingEffect a s
  | 14 => imagingEffect a s
  | 15 => linkEffect a data old s
  | 16 => linkEffect a data old s
  | 17 => linkEffect a data old s
  | 18 => if a = ETH.PTP.CFG.EN.base then ptpCfgEffect old s else s
  | 20 => if a = DRAM.SCRUB.PERIOD.base then s.raisePeriod DRAM.SCRUB.PERIOD 1000 5 else s
  | 22 => if inEntries a 64 0 8 then auxEffect a old s else s
  | 25 => if a = BOOT.CTRL.CONFIRM.base then bootEffect data s else s
  | 26 => vaultEffect a data s
  | _ => s

/-- The flags a chapter sets for a pair it refuses (R44, R45, R48, R244, R246), and the info-class event of R94 (log entry 41). -/
def State.dataRefused (s : State) (a : Nat) (old : State) : State :=
  let n := entryOf a 64
  let s := match blockOf a with
    | 3 => if inEntries a 64 0 64 ∧ (a = QUEUE.CFG.EN.addr n ∨ a = QUEUE.BASE.V.addr n ∨ a = QUEUE.POP.COUNT.addr n) then queueRefused n s else s
    | 11 =>
      if !inEntries a 64 0 112 then s
      else if a = SERVON.CFG.EN.addr n then loopCfgRefused n old s
      else if a = SERVON.FFTN.WHEN.addr n then fftnRefused n s
      else s
    | _ => s
  s.raise 3 26 0 cwEp 1 0 (wd a)

/-! ### A message (R93, R94) -/

/-- A pair of a CWW: its address token and the data. -/
structure CwPair where
  tok : Token
  data : Word
deriving DecidableEq, Repr

def CwPair.addr (p : CwPair) : Nat := cwAddr p.tok.payload

/-- The pairs of a message; a token left over is none. -/
def cwPairs : List Token → List CwPair
  | t :: d :: r => ⟨t, d.payload⟩ :: cwPairs r
  | _ => []

/-- The CODE that refuses a pair's address: its form, the address, a second block. -/
def State.addrRefusal (s : State) (first : Nat) (p : CwPair) : Option Nat :=
  if !cwwFormed p.tok.payload then some 4
  else match s.cwRefusal p.addr p.tok.src with
    | some c => some c
    | none => if blockOf p.addr ≠ blockOf first then some 4 else none

/-- The CODE that refuses a pair's data. -/
def dataRefusal (p : CwPair) (old new : State) : Option Nat :=
  match regOf p.addr with
  | some r => if r.outOfRange p.data then some 8 else chapterCheck p.addr p.data old new
  | none => none

/-- Every refused pair of the message with its CODE, and whether its data is what is refused, in order. -/
def State.cwwRefusals (s new : State) (toks : List Token) (ps : List CwPair) (first : Nat) : List (Token × Nat × Bool) :=
  let each := ps.zipIdx.filterMap (fun q =>
    if 32 ≤ q.2 then some (q.1.tok, 4, false)
    else match s.addrRefusal first q.1 with
      | some c => some (q.1.tok, c, false)
      | none => (dataRefusal q.1 s new).map (fun c => (q.1.tok, c, true)))
  if toks.length % 2 = 1 then each ++ (toks.getLast?.map (fun t => (t, 4, false))).toList else each

/-- The pairs in their places, with no effect yet. -/
def State.storePairs (s : State) (collide : List (Nat × Word)) (ps : List CwPair) : State :=
  ps.foldl (fun s p => s.storePair collide p.addr p.data) s

/-- The collisions of R11 and the reserved bits of R12 of one pair. -/
def State.pairEvents (s old : State) (collide : List (Nat × Word)) (p : CwPair) : State :=
  match regOf p.addr with
  | none => s
  | some r =>
    let s := s.collisions p.addr (ones (p.data &&& old.liveBits collide p.addr &&& r.clearable))
    if p.data &&& ~~~ r.named ≠ 0 then s.raise 3 26 0 cwEp 1 0 (wd p.addr) else s

/-- Whether the message wrote a word of the PT set (R53). -/
def writesPt (ps : List CwPair) : Bool := ps.any (fun p => decide (TB.PTBASE.NS.base ≤ p.addr ∧ p.addr ≤ TB.PTRATE.V.base))

/-- A message of pairs is applied whole or refused whole: the first refused pair's address token and CODE. -/
def State.cwApply (s : State) (toks : List Token) (collide : List (Nat × Word)) (at_ : Nat) : Option (Token × Nat) × State :=
  let ps := cwPairs toks
  let first := match ps with | p :: _ => p.addr | [] => 0
  let new := s.storePairs collide ps
  match s.cwwRefusals new toks ps first with
  | [] =>
    let t := ps.foldl (fun t p => t.pairEvents s collide p) new
    let t := ps.foldl (fun t p => chapterEffect p.addr p.data at_ s t) t
    (none, if writesPt ps then ptWriteEffect s t else t)
  | (tok, c, d) :: rest =>
    (some (tok, c), ((tok, c, d) :: rest).foldl (fun t q =>
      if q.2.2 then t.dataRefused (cwAddr q.1.payload) s else t.cwWarn (cwAddr q.1.payload) q.1.src q.2.1) (s.setBits collide))

/-- A CWW acts: one refusal, or the number of pairs when any pair asks for it. -/
def cwWrite (toks : List Token) (collide : List (Nat × Word)) (s : State) : State :=
  match toks with
  | [] => s
  | t :: _ =>
    let last := toks.getLastD t
    let at_ := if last.timed then s.instant last else s.mt
    match s.cwApply toks collide at_ with
    | (some (tok, c), s) => s.refuse cwEp tok c
    | (none, s) =>
      let ps := cwPairs toks
      if ps.any (fun p => cwAck p.tok.payload) then s.respond cwEp t (wd ps.length) else s

/-- A message timed by its last token is held until it is due. -/
def State.whenLastDue (s : State) (toks : List Token) (act : State → State) : State :=
  match toks with
  | [] => s
  | t :: _ =>
    let l := toks.getLastD t
    if (l.timed && decide (0 < wdiff 48 l.time.toNat s.mt)) = true then s.setHeld (s.held ++ [toks]) else act s

/-- A CWW reaches control-word space: one message from one src. -/
def cww (toks : List Token) (collide : List (Nat × Word)) (s : State) : State :=
  match toks with
  | [] => s
  | t :: _ =>
    if toks.any (fun u => u.kind != kindCWW || u.dest != 0x12#10 || u.src != t.src || u.stream != t.stream) then s
    else s.arrive cwEp toks (fun s => match errToken toks with
      | some e => (s.setBits collide).refuse cwEp e 5
      | none => s.whenLastDue toks (cwWrite toks collide))

/-- CWR (R93, R95). -/
def execCwr (tok : Token) (s : State) : Host.Outcome State Fault Refusal := .next (cwr tok s)

/-- CWW (R10–R12, R93, R94). -/
def execCww (toks : List Token) (collide : List (Nat × BitVec 64)) (s : State) : Host.Outcome State Fault Refusal :=
  .next (cww toks collide s)

end Sys2Proof.Machine
end

