-- ==== Sys2Proof/Machine/RegisterCommands.lean ====
section
/-! DEFINITION. The rows of the table that are one read or one write of a control word: each builds the tokens of R93 from its tag fields and
takes the path of CWR and CWW. A row that sets or clears one field writes the word's other RW fields back as they read. -/

namespace Sys2Proof.Machine

open Sys2Proof

/-- A token of a control-word request. -/
def cwTok (h : CwFrom) (k : BitVec 4) (i : Nat) (payload : Word) (last : Bool) : Token :=
  { time := 0, seq := h.seq + BitVec.ofNat 12 i, err := false, urgent := false, timed := false, last := last, kind := k, stream := h.stream,
    src := h.src, dest := 0x12#10, payload := payload }

/-- The address token's payload; bit 0 is ACK in a write (R93). -/
def cwPayload (a : Nat) (ack : Bool) : Word := wd (a / 8 * 8 % 2 ^ 48 + ack.toNat)

/-- The tokens of a message of pairs, from the `i`-th token on. -/
def cwwToks (h : CwFrom) : Nat → List (Nat × Word) → List Token
  | _, [] => []
  | i, p :: r => cwTok h kindCWW i (cwPayload p.1 h.ack) false :: cwTok h kindCWW (i + 1) p.2 r.isEmpty :: cwwToks h (i + 2) r

/-- One CWW message. -/
def State.cwwOf (s : State) (h : CwFrom) (ps : List (Nat × Word)) (collide : List (Nat × Word) := []) : State := cww (cwwToks h 0 ps) collide s

/-- One CWR. -/
def State.cwrAt (s : State) (h : CwFrom) (a : Nat) : State := cwr (cwTok h kindCWR 0 (cwPayload a false) true) s

/-- A write of one field's word with the other fields as they read. -/
def State.cwwField (s : State) (h : CwFrom) (f : Fld) (i v : Nat) : State := s.cwwOf h [(f.addr i, f.put (s.word (f.addr i)) v)]

/-- The oldest entry of a queue is under push handshake (R49). -/
def State.setHand (s : State) (n : Nat) (hand : Bool) : State :=
  s.setQueue n { s.queue n with hand := hand && s.on QUEUE.CFG.PUSH n && s.qFill n != 0 }

/-- A W1C clear of FAULT; a token that faults the col in the same handshake collides with it (R11, R66). -/
def colFaultClear (n : Nat) (h : CwFrom) (late : Option Token) (s : State) : State :=
  let data := COL.STAT.FAULT.put 0 1
  match late with
  | none => s.cwwOf h [(COL.STAT.FAULT.addr n, data)]
  | some t =>
    let sets : Bool := (colAccept n t (s.setF COL.STAT.FAULT n 0)).on COL.STAT.FAULT n
    (colAccept n t s).cwwOf h [(COL.STAT.FAULT.addr n, data)] (if sets then [(COL.STAT.FAULT.addr n, data)] else [])

/-- QUEUE_POP (R48). -/
def execQueuePop (n : Fin 64) (h : CwFrom) (count : BitVec 64) (s : State) : Host.Outcome State Fault Refusal :=
  .next (s.cwwOf h [(QUEUE.POP.COUNT.addr n, count)])

/-- QUEUE_CFG_WRITE (R49). -/
def execQueueCfgWrite (n : Fin 64) (h : CwFrom) (cfg : BitVec 64) (base : Option (BitVec 64)) (handshake : Bool) (s : State) : Host.Outcome State Fault Refusal :=
  .next ((s.setHand n handshake).cwwOf h (match base with
    | some b => [(QUEUE.BASE.V.addr n, b), (QUEUE.CFG.EN.addr n, cfg)]
    | none => [(QUEUE.CFG.EN.addr n, cfg)]))

/-- QUEUE_DROPS_READ (R50). -/
def execQueueDropsRead (n : Fin 64) (h : CwFrom) (s : State) : Host.Outcome State Fault Refusal :=
  .next (s.cwrAt h (QUEUE.STAT.DROPS.addr n))

/-- COLL_READ (R11). -/
def execCollRead (block : Fin 29) (h : CwFrom) (s : State) : Host.Outcome State Fault Refusal :=
  .next (match collField block with
    | some f => s.cwrAt h f.base
    | none => s)

/-- TB_PT_WRITE (R53). -/
def execTbPtWrite (h : CwFrom) (base : BitVec 64) (baseHi : BitVec 64) (mtref : BitVec 64) (rate : BitVec 64) (s : State) : Host.Outcome State Fault Refusal :=
  .next (s.cwwOf h [(TB.PTBASE.NS.base, base), (TB.PTBASEH.SECHI.base, baseHi), (TB.PTMTREF.V.base, mtref), (TB.PTRATE.V.base, rate)])

/-- COL_FAULT_CLEAR (R66). -/
def execColFaultClear (n : Fin 128) (h : CwFrom) (lateToken : Option Token) (s : State) : Host.Outcome State Fault Refusal :=
  .next (colFaultClear n h lateToken s)

/-- COL_EN_CLEAR (R69). -/
def execColEnClear (n : Fin 128) (h : CwFrom) (s : State) : Host.Outcome State Fault Refusal :=
  .next (s.cwwField h COL.CFG.EN n 0)

/-- COL_EN_SET (R69). -/
def execColEnSet (n : Fin 128) (h : CwFrom) (s : State) : Host.Outcome State Fault Refusal :=
  .next (s.cwwField h COL.CFG.EN n 1)

/-- COL_SLACK_READ (R70). -/
def execColSlackRead (n : Fin 128) (h : CwFrom) (s : State) : Host.Outcome State Fault Refusal :=
  .next (s.cwrAt h (COL.SLACK.MIN.addr n))

/-- COL_LATE_READ (R70). -/
def execColLateRead (n : Fin 128) (h : CwFrom) (s : State) : Host.Outcome State Fault Refusal :=
  .next (s.cwrAt h (COL.LATE.COUNT.addr n))

/-- COL_COINC_READ (R61). -/
def execColCoincRead (n : Fin 128) (h : CwFrom) (s : State) : Host.Outcome State Fault Refusal :=
  .next (s.cwrAt h (COL.COINC.V.addr n))

/-- PLAIN_ECC_READ (R87). -/
def execPlainEccRead (h : CwFrom) (s : State) : Host.Outcome State Fault Refusal :=
  .next (s.cwrAt h PLAIN.ECC.CE.base)

/-- PLAIN_ECCADDR_READ (R87). -/
def execPlainEccaddrRead (h : CwFrom) (s : State) : Host.Outcome State Fault Refusal :=
  .next (s.cwrAt h PLAIN.ECCADDR.TYPE.base)

/-- CORE_START (R125). -/
def execCoreStart (r : Fin 18) (h : CwFrom) (s : State) : Host.Outcome State Fault Refusal :=
  .next (s.cwwOf h [(CORE.CTRL.START.addr r, CORE.CTRL.START.put 0 1)])

/-- CORE_HALT (R126). -/
def execCoreHalt (r : Fin 18) (h : CwFrom) (s : State) : Host.Outcome State Fault Refusal :=
  .next (s.cwwOf h [(CORE.CTRL.HALT.addr r, CORE.CTRL.HALT.put 0 1)])

/-- CORE_STEP (R126). -/
def execCoreStep (r : Fin 18) (h : CwFrom) (s : State) : Host.Outcome State Fault Refusal :=
  .next (s.cwwOf h [(CORE.CTRL.STEP.addr r, CORE.CTRL.STEP.put 0 1)])

/-- CORE_IMG_WRITE (R129). -/
def execCoreImgWrite (r : Fin 18) (h : CwFrom) (data : BitVec 64) (s : State) : Host.Outcome State Fault Refusal :=
  .next (s.cwwOf h [(CORE.IMG.VALID.addr r, data)])

/-- WRING_WRITE (R148). -/
def execWringWrite (n : Fin 26) (h : CwFrom) (data : BitVec 64) (s : State) : Host.Outcome State Fault Refusal :=
  .next (s.cwwOf h [(PG.WRING.BASE.addr n, data)])

/-- LEAD_MIN_READ (R148). -/
def execLeadMinRead (n : Fin 26) (h : CwFrom) (s : State) : Host.Outcome State Fault Refusal :=
  .next (s.cwrAt h (PG.LEAD.MIN.addr n))

/-- STRACE_EN_SET (R192). -/
def execStraceEnSet (n : Fin 26) (h : CwFrom) (s : State) : Host.Outcome State Fault Refusal :=
  .next (s.cwwField h PG.STRACE.EN n 1)

/-- TRK_EN_CLEAR (R187). -/
def execTrkEnClear (n : Fin 26) (h : CwFrom) (s : State) : Host.Outcome State Fault Refusal :=
  .next (s.cwwField h PG.TRK.EN n 0)

/-- LIMCNT_READ (R192). -/
def execLimcntRead (n : Fin 26) (h : CwFrom) (s : State) : Host.Outcome State Fault Refusal :=
  .next (s.cwrAt h (PG.LIMCNT.LIMITS.addr n))

/-- GRES_READ (R192). -/
def execGresRead (n : Fin 26) (h : CwFrom) (s : State) : Host.Outcome State Fault Refusal :=
  .next (s.cwrAt h (PG.GRES.EDGE.addr n))

/-- MAPNEXT_WRITE (R194). -/
def execMapnextWrite (n : Fin 24) (h : CwFrom) (data : BitVec 64) (s : State) : Host.Outcome State Fault Refusal :=
  .next (s.cwwOf h [(SADDLEN.MAPNEXT.WHEN.addr n, data)])

/-- NARM_WRITE (R220). -/
def execNarmWrite (h : CwFrom) (s : State) : Host.Outcome State Fault Refusal :=
  .next (s.cwwField h SADDLE.NARM.ARM 0 1)

/-- HREC_EN_SET (R220). -/
def execHrecEnSet (h : CwFrom) (s : State) : Host.Outcome State Fault Refusal :=
  .next (s.cwwField h SADDLE.HREC.EN 0 1)

/-- SADDLE_CNT_READ (R220). -/
def execSaddleCntRead (h : CwFrom) (s : State) : Host.Outcome State Fault Refusal :=
  .next (s.cwrAt h SADDLE.CNT.CUTS.base)

/-- YIELD_READ (R221). -/
def execYieldRead (n : Fin 24) (h : CwFrom) (s : State) : Host.Outcome State Fault Refusal :=
  .next (s.cwrAt h (SADDLEN.YIELD.YIELDT.addr n))

/-- FFTN_WRITE (R244). -/
def execFftnWrite (l : Fin 112) (h : CwFrom) (data : BitVec 64) (s : State) : Host.Outcome State Fault Refusal :=
  .next (s.cwwOf h [(SERVON.FFTN.WHEN.addr l, data)])

/-- LOOP_ENABLE (R234). -/
def execLoopEnable (l : Fin 112) (h : CwFrom) (s : State) : Host.Outcome State Fault Refusal :=
  .next (s.cwwField h SERVON.CFG.EN l 1)

/-- LOOP_DISABLE (R234). -/
def execLoopDisable (l : Fin 112) (h : CwFrom) (s : State) : Host.Outcome State Fault Refusal :=
  .next (s.cwwField h SERVON.CFG.EN l 0)

/-- STBASE_WRITE (R252). -/
def execStbaseWrite (h : CwFrom) (data : BitVec 64) (s : State) : Host.Outcome State Fault Refusal :=
  .next (s.cwwOf h [(SERVO.STBASE.BASE.base, data)])

/-- SERVO_CNT_READ (R252). -/
def execServoCntRead (h : CwFrom) (s : State) : Host.Outcome State Fault Refusal :=
  .next (s.cwrAt h SERVO.CNT.RERUNS.base)

/-- SERVO_LOOP_CNT_READ (R253). -/
def execServoLoopCntRead (l : Fin 112) (h : CwFrom) (s : State) : Host.Outcome State Fault Refusal :=
  .next (s.cwrAt h (SERVON.CNT.OVRS.addr l))

/-- SC_ENABLE (R258). -/
def execScEnable (a : Fin 72) (h : CwFrom) (s : State) : Host.Outcome State Fault Refusal :=
  .next (s.cwwField h POS.SC.CFG.EN a 1)

/-- SC_CNT_READ (R276). -/
def execScCntRead (a : Fin 72) (h : CwFrom) (s : State) : Host.Outcome State Fault Refusal :=
  .next (s.cwrAt h (POS.SC.CNT.AMPS.addr a))

/-- INDEX_HOME (R264). -/
def execIndexHome (k : Fin 8) (h : CwFrom) (s : State) : Host.Outcome State Fault Refusal :=
  .next (s.cwwField h POS.ENC.ICFG.IHOME k 1)

/-- ENC_CNT_READ (R277). -/
def execEncCntRead (k : Fin 8) (h : CwFrom) (s : State) : Host.Outcome State Fault Refusal :=
  .next (s.cwrAt h (POS.ENC.CNT.QERRS.addr k))

/-- HALL_CNT_READ (R278). -/
def execHallCntRead (k : Fin 8) (h : CwFrom) (s : State) : Host.Outcome State Fault Refusal :=
  .next (s.cwrAt h (POS.HALL.CNT.HBADS.addr k))

/-- PROBE_ARM (R271). -/
def execProbeArm (k : Fin 8) (h : CwFrom) (s : State) : Host.Outcome State Fault Refusal :=
  .next (s.cwwField h POS.PRB.CFG.EN k 1)

/-- PRB_DROPS_READ (R279). -/
def execPrbDropsRead (k : Fin 8) (h : CwFrom) (s : State) : Host.Outcome State Fault Refusal :=
  .next (s.cwrAt h (POS.PRB.STAT.DROPS.addr k))

/-- EMU_ENABLE (R273). -/
def execEmuEnable (k : Fin 4) (h : CwFrom) (en : Bool) (s : State) : Host.Outcome State Fault Refusal :=
  .next (s.cwwField h POS.EMU.CFG.EN k en.toNat)

/-- IP_ENABLE (R300). -/
def execIpEnable (c : Fin 24) (h : CwFrom) (s : State) : Host.Outcome State Fault Refusal :=
  .next (s.cwwField h IP.CFG.EN c 1)

/-- CSI_CNT_READ (R300). -/
def execCsiCntRead (k : Fin 12) (h : CwFrom) (s : State) : Host.Outcome State Fault Refusal :=
  .next (s.cwrAt h (CSI.CNT.ECCC.addr k))

/-- IP_CNT_READ (R300). -/
def execIpCntRead (c : Fin 24) (h : CwFrom) (s : State) : Host.Outcome State Fault Refusal :=
  .next (s.cwrAt h (IP.CNT.FRAMES.addr c))

/-- RULE_ENABLE (R303). -/
def execRuleEnable (n : Fin 24) (h : CwFrom) (s : State) : Host.Outcome State Fault Refusal :=
  .next (s.cwwField h SERVO.RULE.CFG.EN n 1)

/-- RULE_DISABLE (R303). -/
def execRuleDisable (n : Fin 24) (h : CwFrom) (s : State) : Host.Outcome State Fault Refusal :=
  .next (s.cwwField h SERVO.RULE.CFG.EN n 0)

/-- RULE_CNT_READ (R309). -/
def execRuleCntRead (n : Fin 24) (h : CwFrom) (s : State) : Host.Outcome State Fault Refusal :=
  .next (s.cwrAt h (SERVO.RULE.CNT.USED.addr n))

/-- LREC_EN_SET (R311). -/
def execLrecEnSet (h : CwFrom) (s : State) : Host.Outcome State Fault Refusal :=
  .next (s.cwwField h SADDLE.LREC.EN 0 1)

/-- PRDROP_READ (R316). -/
def execPrdropRead (h : CwFrom) (s : State) : Host.Outcome State Fault Refusal :=
  .next (s.cwrAt h PG.PRDROP.V.base)

/-- AUX_ENABLE (R319). -/
def execAuxEnable (k : Fin 8) (h : CwFrom) (s : State) : Host.Outcome State Fault Refusal :=
  .next (s.cwwField h AUX.CFG.EN k 1)

/-- AUX_DISABLE (R319). -/
def execAuxDisable (k : Fin 8) (h : CwFrom) (s : State) : Host.Outcome State Fault Refusal :=
  .next (s.cwwField h AUX.CFG.EN k 0)

/-- AUX_FAULT_CLEAR (R334). -/
def execAuxFaultClear (k : Fin 8) (h : CwFrom) (s : State) : Host.Outcome State Fault Refusal :=
  .next (s.cwwOf h [(AUX.STAT.FAULT.addr k, AUX.STAT.FAULT.put 0 1)])

/-- LINK_ENABLE (R354). -/
def execLinkEnable (n : Fin 32) (h : CwFrom) (s : State) : Host.Outcome State Fault Refusal :=
  .next (s.cwwField h LINK.CTRL.EN n 1)

/-- LINK_RESTART (R354). -/
def execLinkRestart (n : Fin 32) (h : CwFrom) (s : State) : Host.Outcome State Fault Refusal :=
  .next (s.cwwOf h [(LINK.CTRL.EN.addr n, LINK.CTRL.RESTART.put (s.word (LINK.CTRL.EN.addr n)) 1)])

/-- LANE_MODE_WRITE (R342). -/
def execLaneModeWrite (k : Fin 4) (h : CwFrom) (cfg : BitVec 64) (s : State) : Host.Outcome State Fault Refusal :=
  .next (s.cwwOf h [(LANE.CFG.MODE.addr (60 + k.val), cfg)])

/-- PRBS_START (R357). -/
def execPrbsStart (k : Fin 64) (h : CwFrom) (prbs : BitVec 64) (s : State) : Host.Outcome State Fault Refusal :=
  .next (s.cwwOf h [(LANE.PRBS.EN.addr k, prbs)])

/-- PRBS_COUNT_READ (R358). -/
def execPrbsCountRead (k : Fin 64) (errs : Bool) (h : CwFrom) (s : State) : Host.Outcome State Fault Refusal :=
  .next (s.cwrAt h (if errs then LANE.ERRS.V.addr k else LANE.BITS.V.addr k))

/-- LINK_CNT_READ (R358). -/
def execLinkCntRead (n : Fin 32) (h : CwFrom) (s : State) : Host.Outcome State Fault Refusal :=
  .next (s.cwrAt h (LINK.CNT.RETRAIN.addr n))

/-- ETH_CNT_READ (R390). -/
def execEthCntRead (k : Fin 4) (h : CwFrom) (s : State) : Host.Outcome State Fault Refusal :=
  .next (s.cwrAt h (ETH.CNT.RXFRM.addr k))

/-- VCT_CNT_READ (R390). -/
def execVctCntRead (h : CwFrom) (s : State) : Host.Outcome State Fault Refusal :=
  .next (s.cwrAt h VCT.CNT.CMDS.base)

/-- HASH_WRITE (R394). -/
def execHashWrite (i : Fin 8) (h : CwFrom) (mask : BitVec 64) (s : State) : Host.Outcome State Fault Refusal :=
  .next (s.cwwOf h [(DRAM.MAP.HASH.MASK.addr i, mask)])

/-- SREQ_WRITE (R407). -/
def execSreqWrite (h : CwFrom) (data : BitVec 64) (s : State) : Host.Outcome State Fault Refusal :=
  .next (s.cwwOf h [(DRAM.CTRL.SREQ.base, data)])

/-- DRAM_ECC_READ (R412). -/
def execDramEccRead (h : CwFrom) (s : State) : Host.Outcome State Fault Refusal :=
  .next (s.cwrAt h DRAM.ECC.CE.base)

/-- DRAM_ECCADDR_READ (R412). -/
def execDramEccaddrRead (h : CwFrom) (s : State) : Host.Outcome State Fault Refusal :=
  .next (s.cwrAt h DRAM.ECCADDR.TYPE.base)

/-- DRAM_CNT_READ (R413). -/
def execDramCntRead (h : CwFrom) (s : State) : Host.Outcome State Fault Refusal :=
  .next (s.cwrAt h DRAM.CNT.RFMS.base)

/-- GORGE_CNT_READ (R429). -/
def execGorgeCntRead (h : CwFrom) (s : State) : Host.Outcome State Fault Refusal :=
  .next (s.cwrAt h GORGE.CNT.JOBS.base)

/-- GORGE_BYTES_READ (R429). -/
def execGorgeBytesRead (c : Fin 2) (h : CwFrom) (s : State) : Host.Outcome State Fault Refusal :=
  .next (s.cwrAt h (GORGEN.BYTES.IN.addr c))

/-- STATUS_ACKNOWLEDGE (R431). -/
def execStatusAcknowledge (i : Fin 2) (h : CwFrom) (mask : BitVec 64) (s : State) : Host.Outcome State Fault Refusal :=
  .next (s.cwwOf h [(BASIN.STATUS.V.addr i, mask)])

/-- LREARM (R433). -/
def execLrearm (h : CwFrom) (s : State) : Host.Outcome State Fault Refusal :=
  .next (s.cwwOf h [(BASIN.CTRL.LREARM.base, BASIN.CTRL.LREARM.put 0 1)])

/-- ERREL (R436). -/
def execErrel (h : CwFrom) (s : State) : Host.Outcome State Fault Refusal :=
  .next (s.cwwOf h [(BASIN.CTRL.ERREL.base, BASIN.CTRL.ERREL.put 0 1)])

/-- INJECTION (R437). -/
def execInjection (h : CwFrom) (bit : BitVec 7) (s : State) : Host.Outcome State Fault Refusal :=
  .next (s.cwwOf h [(BASIN.INJ.GO.base, BASIN.INJ.GO.put (BASIN.INJ.BIT.put 0 bit.toNat) 1)])

/-- DALE_POP (R441). -/
def execDalePop (h : CwFrom) (count : BitVec 64) (s : State) : Host.Outcome State Fault Refusal :=
  .next (s.cwwOf h [(DALE.POP.COUNT.base, count)])

/-- DALE_FREEZE (R442). -/
def execDaleFreeze (h : CwFrom) (on : Bool) (s : State) : Host.Outcome State Fault Refusal :=
  .next (s.cwwField h DALE.CTRL.FREEZE 0 on.toNat)

/-- DALE_LOST_READ (R446). -/
def execDaleLostRead (h : CwFrom) (s : State) : Host.Outcome State Fault Refusal :=
  .next (s.cwrAt h DALE.STAT.LOST.base)

/-- EC_CTRL_WRITE (R444). -/
def execEcCtrlWrite (h : CwFrom) (run : Bool) (s : State) : Host.Outcome State Fault Refusal :=
  .next (s.cwwField h EC.CTRL.RUN 0 run.toNat)

/-- EC_COUNT_READ (R446). -/
def execEcCountRead (i : Fin 64) (h : CwFrom) (s : State) : Host.Outcome State Fault Refusal :=
  .next (s.cwrAt h (EC.COUNT.V.addr i))

/-- HK_WAKE_READ (R481). -/
def execHkWakeRead (h : CwFrom) (s : State) : Host.Outcome State Fault Refusal :=
  .next (s.cwrAt h HK.WAKE.GRANTS.base)

/-- MREL (R457). -/
def execMrel (h : CwFrom) (s : State) : Host.Outcome State Fault Refusal :=
  .next (s.cwwOf h [(VAULT.CTRL.MREL.base, VAULT.CTRL.MREL.put 0 1)])

/-- CONFIRM (R475). -/
def execConfirm (h : CwFrom) (s : State) : Host.Outcome State Fault Refusal :=
  .next (s.cwwOf h [(BOOT.CTRL.CONFIRM.base, BOOT.CTRL.CONFIRM.put 0 1)])

/-- SVNBURN (R480). -/
def execSvnburn (h : CwFrom) (s : State) : Host.Outcome State Fault Refusal :=
  .next (s.cwwOf h [(BOOT.CTRL.SVNBURN.base, BOOT.CTRL.SVNBURN.put 0 1)])

/-- REVOKE (R480). -/
def execRevoke (h : CwFrom) (mask : BitVec 4) (s : State) : Host.Outcome State Fault Refusal :=
  .next (s.cwwOf h [(BOOT.CTRL.REVOKE.base, BOOT.CTRL.REVOKE.put 0 mask.toNat)])

end Sys2Proof.Machine
end

