-- ==== Sys2Proof/Machine/Sync.lean ====
section
/-! DEFINITION. The SYNC beacon (R57): timed messages that have come due are acted on by the blocks that hold them. -/

namespace Sys2Proof.Machine

open Sys2Proof

/-- The token whose time a message waits for: its last for a control-word write (R94), else its first. -/
def heldKey (m : List Token) : Option Token :=
  match m with
  | [] => none
  | t :: _ => some (if t.kind = kindCWW then m.getLastD t else t)

/-- Whether a held message is due. -/
def State.heldDue (s : State) (m : List Token) : Bool :=
  match heldKey m with
  | some t => decide (wdiff 48 t.time.toNat s.mt ≤ 0)
  | none => true

/-- The block that holds a message acts on it. -/
def actHeld (m : List Token) (s : State) : State :=
  match m with
  | [] => s
  | t :: _ =>
    let ep := t.dest.toNat
    if isMemEp ep then (if t.kind = 6#4 then memRead t s else memWrite m s)
    else if ep = cwEp then (if t.kind = kindCWR then cwRead t s else cwWrite m [] s)
    else if ep = 9 then
      if t.stream = 2#8 then
        let (w, s) := s.free
        gorgeAbortAct t w.toNat s
      else gorgeSubmit t s
    else if ep = 0xB then s.auxStopAt (bits t.payload 55 48) 2
    else if 0x40 ≤ ep ∧ ep < 0x5A then (if t.kind = 2#4 then pgCmdAct (ep - 0x40) t s else trackingAct (ep - 0x40) t s)
    else if 0x248 ≤ ep ∧ ep < 0x260 then trimAct (ep - 0x248) t s
    else if 0x260 ≤ ep ∧ ep < 0x268 then jogAct (ep - 0x260) t s
    else s

/-- The beacon's token to an endpoint. -/
def State.beacon (s : State) (ep : Nat) : State := s.event (0x200 + ep) (some (mkTok 4 ep kindSYNC 0 (wd s.mt)))

/-- The endpoints that hold a pending timed token. -/
def State.holders (s : State) : List Nat := (s.held.filterMap (fun m => m.head?.map (fun t => t.dest.toNat))).dedup

/-- SYNC_BEACON, at the next multiple of 256 ns. -/
def syncBeacon (s : State) : State :=
  let s := s.reach ((s.mt / 256 + 1) * 256)
  let s := forEach s.holders (fun ep s => s.beacon ep) s
  let due := s.held.filter (fun m => s.heldDue m)
  let s := s.setHeld (s.held.filter (fun m => !s.heldDue m))
  let s := forEach (s.passed.filter (fun u => u.dest == 0xE#10 && decide (s.instant u ≤ s.mt))) (fun u s => s.applyPassed u) s
  let s := forEach due actHeld s.dropPassed
  forEach (List.range 18) (fun r s => if s.coreState r = 3 then zResume r s else s) (servoSync s)

/-- SYNC_BEACON (R57, R94, R235). -/
def execSyncBeacon (s : State) : Host.Outcome State Fault Refusal := .next (syncBeacon s)

end Sys2Proof.Machine
end

