-- ==== Sys2Proof/Machine/Tap.lean ====
section
/-! DEFINITION. The TAP of the boot and repair controller (R478). -/

namespace Sys2Proof.Machine

open Sys2Proof

/-- The requests of the boot and repair controller, endpoint 0x005; the seq is not stated (log entry 5). -/
def tapFrom (w : Word) : CwFrom := ⟨5#10, 0, BitVec.ofNat 12 w.toNat, false⟩

def State.setTapOut (s : State) (w : Word) : State := s.setBoot { s.boot with tap := w }

/-- IDCODE: the part number in bits 27:12 and bit 0; the stepping's and the maker's bits are not stated (log entry 5). -/
def idcode (w : Word) : Word := (w &&& 0xF0000FFE#64) ||| 0x02464001#64

/-- Memory the TAP reaches: the Plain, a core-local window, installed DRAM. -/
def State.tapMemory (s : State) (a : Nat) : Bool :=
  match s.region a with
  | .plain => true
  | .coreLocal _ _ => true
  | .dram => true
  | _ => false

/-- What one operation does; internal access works only while TESTMODE is high. -/
def tapAccess (op : TapOp) (s : State) : State :=
  match op with
  | .bypass tdi => s.setTapOut (wd tdi.toNat)
  | .idcode =>
    let (w, s) := s.free
    s.setTapOut (idcode w)
  | .sample =>
    let (w, s) := s.free
    s.setTapOut w
  | .extest levels => s.setTapOut levels
  | .memRead a =>
    let a := a.toNat / 8 * 8
    if s.basin.testmode && s.tapMemory a then (s.setTapOut (s.ld a)).eccRead a else s
  | .memWrite a w =>
    let a := a.toNat / 8 * 8
    if s.basin.testmode && s.tapMemory a then s.st a w else s
  | .cwRead a =>
    if !s.basin.testmode then s
    else match s.cwReadAt (a.toNat / 8 * 8) 5#10 with
      | (.inr w, s) => s.setTapOut w
      | (.inl _, s) => s
  | .cwWrite a w =>
    if !s.basin.testmode then s
    else
      let (v, s) := s.free
      let h := tapFrom v
      let p : Word := wd (a.toNat / 8 * 8)
      (s.cwApply [{ mkTok 5 0x12 3 0 p false with seq := h.seq }, mkTok 5 0x12 3 0 w] [] s.mt).2
  | .coreHalt r => if s.basin.testmode then coreHalt r s else s
  | .coreStep r => if s.basin.testmode then coreStep r s else s

/-- TAP_ACCESS (R478). -/
def execTapAccess (op : TapOp) (s : State) : Host.Outcome State Fault Refusal := .next (tapAccess op s)

end Sys2Proof.Machine
end

