-- ==== Sys2Proof/Machine/VctCommands.lean ====
section
/-! DEFINITION. VCT packets and commands (R370–R386): the judgement of a packet, authentication and counters, keys, receive windows, channels,
the firmware update, reset, DALEUP; received frames (R359–R361, R364). -/

namespace Sys2Proof.Machine

open Sys2Proof

/-! ### Slots and windows -/

def State.slotKey (s : State) (t : Nat) : KeySlot := tget (fun _ => {}) s.keySlots t
def State.setSlotKey (s : State) (t : Nat) (k : KeySlot) : State := s.setKeySlots (tset (fun _ => {}) s.keySlots t k)
def State.rxWin (s : State) (w : Nat) : RxWin := tget (fun _ => {}) s.wins w
def State.setRxWin (s : State) (w : Nat) (x : RxWin) : State := s.setWins (tset (fun _ => {}) s.wins w x)

def winCLOSED : Nat := 0
def winOPEN : Nat := 1
def winVERIFYING : Nat := 2
def winDONE : Nat := 3
def winFAILED : Nat := 4

def State.winState (s : State) (w : Nat) : Nat := s.f VCT.WIN.STAT.STATE w
def State.setWinState (s : State) (w v : Nat) : State := s.setF VCT.WIN.STAT.STATE w v

/-! ### The packet (R370) -/

/-- The fields of a VCT header, the payload and the check. -/
structure VctPkt where
  magic : Nat
  ver : Nat
  typ : Nat
  flags : Nat
  slot : Nat
  len : Nat
  tag : Nat
  opcode : Nat
  arg : Nat
  counter : Nat
  target : Nat
  payload : List Byte
  check : List Byte
deriving DecidableEq, Repr

def vctParse (b : List Byte) : VctPkt :=
  let len := beNat (slice b 6 2)
  { magic := beNat (slice b 0 2), ver := beNat (slice b 2 1), typ := beNat (slice b 3 1), flags := beNat (slice b 4 1),
    slot := beNat (slice b 5 1), len := len, tag := beNat (slice b 8 4), opcode := beNat (slice b 12 2), arg := beNat (slice b 14 2),
    counter := beNat (slice b 16 8), target := beNat (slice b 24 8), payload := slice b 32 len, check := b.drop (32 + len) }

def VctPkt.auth (x : VctPkt) : Bool := x.flags.testBit 0
def VctPkt.ackReq (x : VctPkt) : Bool := x.flags.testBit 1

/-- Step 2 of R371. -/
def VctPkt.formed (x : VctPkt) (size : Nat) : Bool :=
  x.magic == 0x5643 && x.ver == 1 && decide (x.len ≤ 8704) && size == 32 + x.len + (if x.auth then 16 else 0) && decide (x.flags < 8) &&
  (if x.auth then decide (x.slot ≤ 7) else x.slot == 0xFF) && (x.typ == 1 || ((x.typ == 3 || x.typ == 5) && !x.auth))

/-! ### Answers (R360, R372) -/

/-- The check over a header and its payload. -/
def vctMac (key bytes : List Byte) : List Byte := (hmac256 key bytes).take 16

/-- The response to a command: authenticated with `key` when the command was. -/
def vctResponse (s : State) (p : VctIn) (x : VctPkt) (key : Option (List Byte)) (code counter : Nat) (payload : List Byte) : VctOut :=
  let flags := if key.isSome then 1 else 0
  let slot := if key.isSome then x.slot else 0xFF
  let b := vctHeader 2 flags slot payload.length x.tag code 0 counter s.serial ++ payload
  ⟨p.peer.port, p.peer.mac.toNat, p.peer.ip.toNat, p.peer.udp.toNat, match key with | some k => b ++ vctMac k b | none => b⟩

/-- An unauthenticated response without payload. -/
def State.vctDeny (s : State) (p : VctIn) (x : VctPkt) (code : Nat) : State := s.sendOut (vctResponse s p x none code x.counter [])

/-- A packet discarded at step 4 or 5: more than 16 in one second on a slot raise a warning with one record (R371). -/
def State.vctDiscard (s : State) (t : Nat) : State :=
  let k := s.slotKey t
  if k.discards = 0 ∨ k.second + 1000000000 ≤ s.mt then s.setSlotKey t { k with discards := 1, second := s.mt }
  else
    let s := s.setSlotKey t { k with discards := k.discards + 1 }
    if k.discards = 16 then s.raise 2 18 t 0x80 0xF (wd 17) 0 else s

/-! ### What each command does (R381–R386): a code, a payload, the state -/

abbrev VctResult := Nat × List Byte × State

/-- The bytes of a word, most significant first. -/
def wordBytes (w : Word) : List Byte := beBytes 8 w.toNat

/-- PT as a command carries it: 6 bytes of seconds, 4 of ns. -/
def ptBytes (t : Int) : List Byte := beBytes 6 (ptSec t).toNat ++ beBytes 4 (ptNs t).toNat

/-- The words of `n` eight-byte groups. -/
def payloadWords : Nat → List Byte → List Word
  | 0, _ => []
  | n + 1, b => wd (beNat (b.take 8)) :: payloadWords n (b.drop 8)

/-- PING. -/
def vctPing (x : VctPkt) (s : State) : VctResult :=
  if x.len ≠ 0 then (0x10, [], s)
  else (0, wordBytes (s.word ID.DEV.VENDOR.base) ++ beBytes 8 s.serial ++ beBytes 8 s.mt ++ ptBytes s.pt, s)

/-- STATUS. -/
def vctStatus (x : VctPkt) (s : State) : VctResult :=
  if x.len ≠ 0 then (0x10, [], s)
  else
    let links := [0, 1, 2, 3].foldl (fun m k => m + (if s.on ETH.STAT.LINK k then 2 ^ k else 0)) 0
    (0, beBytes 16 s.statusWord ++ (List.range 8).flatMap (fun t => beBytes 8 (s.f VCT.SLOT.CTR.V t)) ++ beBytes 1 links ++
      wordBytes (s.word ETH.PTP.STAT.STATE.base), s)

/-- The requests S0 makes: from port t0 of logical core 0, with a seq the spec does not name. -/
def s0From (w : Word) : CwFrom := ⟨0x80#10, 0, BitVec.ofNat 12 w.toNat, false⟩

/-- The refusal payload S0 passes on (R76). -/
def refusalBytes (t : Token) (code : Nat) : List Byte := wordBytes (refusalPayload t.seq.toNat t.kind.toNat code)

/-- Reads in turn; the first refusal ends them. -/
def vctReads (h : CwFrom) : Nat → List Word → List Byte → State → VctResult
  | _, [], acc, s => (0, acc, s)
  | i, a :: r, acc, s =>
    let t := cwTok h kindCWR i a true
    if !cwrFormed a then (0x30, refusalBytes t 4, s.info 24 0 cwEp)
    else match s.cwReadAt (cwAddr a) h.src with
      | (.inl c, s) => (0x30, refusalBytes t c, s.info 24 0 cwEp)
      | (.inr w, s) => vctReads h (i + 1) r (acc ++ wordBytes w) s

/-- CWRD. -/
def vctRead (x : VctPkt) (s : State) : VctResult :=
  if x.len % 8 ≠ 0 ∨ x.len = 0 ∨ 512 < x.len then (0x10, [], s)
  else
    let (w, s) := s.free
    vctReads (s0From w) 0 (payloadWords (x.len / 8) x.payload) [] s

/-- The tokens of CWWR's pairs, their address words as they stand. -/
def s0Pairs (h : CwFrom) : Nat → List Word → List Token
  | i, a :: d :: r => cwTok h kindCWW i a false :: cwTok h kindCWW (i + 1) d r.isEmpty :: s0Pairs h (i + 2) r
  | _, _ => []

/-- CWWR: one message of R94. -/
def vctWrite (x : VctPkt) (s : State) : VctResult :=
  if x.len % 16 ≠ 0 ∨ x.len = 0 ∨ 512 < x.len then (0x10, [], s)
  else
    let (w, s) := s.free
    match s.cwApply (s0Pairs (s0From w) 0 (payloadWords (x.len / 8) x.payload)) [] s.mt with
    | (some (t, c), s) => (0x30, refusalBytes t c, s.info 24 0 cwEp)
    | (none, s) => (0, [], s)

/-- The chunks of a window of `len` bytes, and the bytes of its bitmap. -/
def chunksOf (len : Nat) : Nat := (len + 8191) / 8192
def bitmapBytes (len : Nat) : Nat := (chunksOf len + 7) / 8

/-- Whether chunk `i` has been received. -/
def State.chunkHere (s : State) (w i : Nat) : Bool := (s.byte (s.f VCT.WIN.BMAP.V w + i / 8)).getLsbD (i % 8)

/-- The offset of the first missing chunk. -/
def State.firstMissing (s : State) (w : Nat) : Option Nat :=
  ((List.range (chunksOf (s.f VCT.WIN.LEN.V w))).find? (fun i => !s.chunkHere w i)).map (8192 * ·)

/-- Whether a window in use meets the bytes from `a`. -/
def State.winOverlap (s : State) (w a n : Nat) : Bool :=
  [0, 1, 2, 3].any (fun v => v != w && decide (1 ≤ s.winState v ∧ s.winState v ≤ 3) &&
    decide (s.f VCT.WIN.BASE.V v < a + n ∧ a < s.f VCT.WIN.BASE.V v + s.f VCT.WIN.LEN.V v))

/-- RXOPEN (R383). -/
def vctRxopen (x : VctPkt) (s : State) : VctResult :=
  let b := x.payload
  let w := beNat (slice b 0 1)
  let notify := beNat (slice b 2 2)
  let len := beNat (slice b 4 4)
  let base := beNat (slice b 8 8)
  let bmap := beNat (slice b 16 8)
  if x.len ≠ 24 then (0x10, [], s)
  else if 3 < w ∨ 1023 < notify ∨ len < 8 ∨ base % 4096 ≠ 0 ∨ bmap % 8 ≠ 0 then (0x12, [], s)
  else if s.winState w = winOPEN ∨ s.winState w = winVERIFYING then (0x14, [], s)
  else if !s.inDram base len || s.winOverlap w base len || !inPlain bmap (bitmapBytes len) then (0x12, [], s)
  else
    let s := s.clearRange bmap (bitmapBytes len)
    let s := ((s.setF VCT.WIN.BASE.V w base).setF VCT.WIN.LEN.V w len).setF VCT.WIN.BMAP.V w bmap
    (0, [], ((s.setF VCT.WIN.STAT.CHUNKS w 0).setWinState w winOPEN).setRxWin w { notify := notify })

/-- RXCLOSE (R385). -/
def vctRxclose (x : VctPkt) (s : State) : VctResult :=
  let w := beNat (slice x.payload 0 1)
  if x.len ≠ 40 then (0x10, [], s)
  else if 3 < w then (0x12, [], s)
  else if s.winState w ≠ winOPEN then (0x14, [], s)
  else match s.firstMissing w with
    | some o => (0x42, beBytes 8 o, s)
    | none => (1, [], (s.setWinState w winVERIFYING).setRxWin w { s.rxWin w with digest := slice x.payload 8 32, tag := x.tag })

/-- RXABORT (R385). -/
def vctRxabort (x : VctPkt) (s : State) : VctResult :=
  let w := beNat (slice x.payload 0 1)
  if x.len ≠ 1 then (0x10, [], s)
  else if 3 < w then (0x12, [], s)
  else if s.winState w = winVERIFYING then (0x14, [], s)
  else (0, [], s.setWinState w winCLOSED)

/-- RXSTAT: the STAT word and the first missing offset; where none is missing the spec states none (log entry 5). -/
def vctRxstat (x : VctPkt) (s : State) : VctResult :=
  let w := beNat (slice x.payload 0 1)
  if x.len ≠ 1 then (0x10, [], s)
  else if 3 < w then (0x12, [], s)
  else match s.firstMissing w with
    | some o => (0, wordBytes (s.word (VCT.WIN.STAT.STATE.addr w)) ++ beBytes 8 o, s)
    | none =>
      let (v, s) := s.free
      (0, wordBytes (s.word (VCT.WIN.STAT.STATE.addr w)) ++ wordBytes v, s)

/-- The payloads of a DELIVER's tokens: TAG and length, then eight bytes each, the first in bits 7:0 (R386). -/
def deliverWords (tag : Nat) (data : List Byte) : List Word :=
  wd (place tag 32 32 + place data.length 16 0) :: (payloadWords (data.length / 8) data).map (fun w => wd (leNat (beBytes 8 w.toNat)))

/-- One token of S0 into queue `q`. -/
def State.s0Enqueue (s : State) (q c : Nat) (w : Word) (last : Bool) : State :=
  let s := s.send (mkTok 0x80 (0x380 + q) 0 c w last)
  match s.net.getLast? with
  | some t => queueEnqueue q t (s.queue q).hand s
  | none => s

/-- The tokens of a message, in order. -/
def State.s0Message (s : State) (q c : Nat) : List Word → State
  | [] => s
  | w :: r => (s.s0Enqueue q c w r.isEmpty).s0Message q c r

/-- DELIVER (R386). -/
def vctDeliver (x : VctPkt) (s : State) : VctResult :=
  let c := beNat (slice x.payload 0 1)
  let data := x.payload.drop 8
  if x.len < 8 ∨ 8200 < x.len ∨ x.len % 8 ≠ 0 ∨ zeroAt x.payload 1 7 = false then (0x10, [], s)
  else if 15 < c then (0x12, [], s)
  else
    let q := s.f VCT.CHAN.CFG.Q c
    let ws := deliverWords x.tag data
    if !s.on VCT.CHAN.CFG.EN c || !s.on QUEUE.CFG.EN q then (0x14, [], s)
    else if s.qSize q < s.qFill q + ws.length then (0x13, [], s)
    else (0, [], s.s0Message q c ws)

/-- SUBSCRIBE (R360, R388). -/
def vctSubscribe (p : VctIn) (x : VctPkt) (s : State) : VctResult :=
  let mask := beNat (slice x.payload 6 1)
  if x.len ≠ 7 then (0x10, [], s)
  else if mask % 16 = 0 ∨ 16 ≤ mask then (0x12, [], s)
  else
    let s := ((s.setF VCT.SUB.IPV4 0 (beNat (slice x.payload 0 4))).setF VCT.SUB.PORT 0 (beNat (slice x.payload 4 2))).setF VCT.SUB.MASK 0 mask
    let s := s.setHost { s.host with subMac := p.peer.mac.toNat }
    (0, [], forEach (List.range 16) (fun n s =>
      let s := s.upRewind n
      (if s.f VCT.UP.STAT.STATE n = 2 then (s.setUp n { s.up n with tries := 0 }).setF VCT.UP.STAT.STATE n 1 else s).upUpdate n) s)

/-- Slot `t` is emptied or loaded: its key, rights, counter and mirror (R378). -/
def State.loadSlot (s : State) (t : Nat) (key : Option (List Byte)) (rights : Nat) : State :=
  let s := s.setFlash { s.flash with keys := (match key with | some k => [(t, k, rights)] | none => []) ++ s.flash.keys.filter (fun q => q.1 != t),
                                     mirrors := s.flash.mirrors.filter (fun q => q.1 != t) }
  let s := ((s.setWord (VCT.SLOT.CFG.KEY.addr t) 0).setF VCT.SLOT.CTR.V t 0).setF VCT.SLOT.MIRROR.V t 0
  let s := s.setSlotKey t { key := key }
  let s := if key.isSome then (s.setF VCT.SLOT.CFG.KEY t 1).setF VCT.SLOT.CFG.RIGHTS t rights else s
  if t = 0 then s.setF VCT.STAT.PROV 0 key.isSome.toNat else s

/-- The bytes of a key under the mask of R378. -/
def unwrapKey (k0 : List Byte) (counter t : Nat) (wrapped : List Byte) : List Byte :=
  let label : List Byte := [0x56#8, 0x43#8, 0x54#8, 0x57#8, 0x52#8, 0x41#8, 0x50#8]
  List.zipWith (· ^^^ ·) wrapped (hmac256 k0 (label ++ beBytes 8 counter ++ beBytes 1 t))

/-- KEYSET: bit 0 of RIGHTS is forced; slot 0 holds every right (R377, R378). -/
def vctKeyset (x : VctPkt) (s : State) : VctResult :=
  let t := beNat (slice x.payload 0 1)
  let rights := beNat (slice x.payload 1 1)
  if x.len ≠ 40 ∨ zeroAt x.payload 2 6 = false then (0x10, [], s)
  else if 7 < t ∨ 32 ≤ rights then (0x12, [], s)
  else
    let wrapped := slice x.payload 8 32
    let r := if t = 0 then 31 else rights / 2 * 2
    match (s.slotKey 0).key with
    | some k0 => (0, [], s.loadSlot t (some (unwrapKey k0 x.counter t wrapped)) r)
    | none => (0, [], (s.loadSlot t (some wrapped) r).record7 18 0x10 0 0x80 0 0)

/-- KEYCLR. -/
def vctKeyclr (x : VctPkt) (s : State) : VctResult :=
  let t := beNat (slice x.payload 0 1)
  if x.len ≠ 1 then (0x10, [], s)
  else if 7 < t then (0x12, [], s)
  else (0, [], s.loadSlot t none 0)

/-- TIMESET (R368). -/
def vctTimeset (x : VctPkt) (s : State) : VctResult :=
  let sec := beNat (slice x.payload 0 6)
  let ns := beNat (slice x.payload 6 4)
  if x.len ≠ 10 then (0x10, [], s)
  else if 1000000000 ≤ ns then (0x12, [], s)
  else if 2 ≤ s.f ETH.PTP.STAT.STATE then (0x14, [], s)
  else (0, [], ptWriteEffect s (s.putPt ((sec : Int) * 1000000000 + ns) s.mt))

/-- FWSTAGE (R381). -/
def vctFwstage (x : VctPkt) (s : State) : VctResult :=
  let w := beNat (slice x.payload 0 1)
  if x.len ≠ 1 then (0x10, [], s)
  else if 3 < w then (0x12, [], s)
  else if s.winState w ≠ winDONE then (0x14, [], s)
  else if s.host.fwstage.isSome then (0x13, [], s)
  else (1, [], s.setHost { s.host with fwstage := some (w, x.tag) })

/-- RESET: accepted, or refused while a path generator runs without FORCE. The reset follows the response. -/
def vctResetJudge (x : VctPkt) (s : State) : VctResult :=
  let force := beNat (slice x.payload 1 1)
  if x.len ≠ 2 then (0x10, [], s)
  else if beNat (slice x.payload 0 1) ≠ 1 ∨ 1 < force then (0x12, [], s)
  else if force = 0 ∧ (List.range 26).any (fun n => [pgRUN, pgPAUSING, pgRESUMING].contains (s.pgState n)) = true then (0x14, [], s)
  else (0, [], s)

/-- DALEUP: the freeze, and the valid records in one or two stretches of the ring on stream 0. -/
def vctDaleup (x : VctPkt) (s : State) : VctResult :=
  if x.len ≠ 0 then (0x10, [], s)
  else if (s.up 0).reqs.any (fun r => r.daleTag.isSome) then (0x13, [], s)
  else
    let s := (s.setF DALE.CTRL.FREEZE 0 1).setF DALE.STAT.FROZEN 0 1
    let base := s.f DALE.BASE.V * 32
    let fill := min 8192 s.daleFill
    let k := s.f DALE.PTR.RIDX % 8192
    let n1 := min fill (8192 - k)
    if fill = 0 then (1, [], ((s.setF DALE.CTRL.FREEZE 0 0).setF DALE.STAT.FROZEN 0 0).evtComplete x.tag 0)
    else if n1 = fill then (1, [], s.upQueue 0 0x80 0 (base + 32 * k) (32 * fill) (some x.tag))
    else (1, [], (s.upQueue 0 0x80 0 (base + 32 * k) (32 * n1) none).upQueue 0 0x80 0 base (32 * (fill - n1)) (some x.tag))

/-! ### Which commands are critical, and the right each needs (R377, R381) -/

def opPING : Nat := 0x1
def opSTATUS : Nat := 0x2
def opCWRD : Nat := 0x3
def opCWWR : Nat := 0x4
def opRXOPEN : Nat := 0x10
def opRXCLOSE : Nat := 0x11
def opRXABORT : Nat := 0x12
def opRXSTAT : Nat := 0x13
def opDELIVER : Nat := 0x20
def opSUBSCRIBE : Nat := 0x30
def opKEYSET : Nat := 0x40
def opKEYCLR : Nat := 0x41
def opTIMESET : Nat := 0x50
def opFWSTAGE : Nat := 0x60
def opRESET : Nat := 0x70
def opDALEUP : Nat := 0x81

/-- The bit of RIGHTS a critical command needs. -/
def State.vctRight (s : State) (x : VctPkt) : Option Nat :=
  if x.opcode = opKEYSET ∨ x.opcode = opKEYCLR then some 0
  else if [opCWWR, opSUBSCRIBE, opRESET, opDALEUP].contains x.opcode then some 1
  else if [opRXOPEN, opRXCLOSE, opRXABORT].contains x.opcode then some 2
  else if x.opcode = opDELIVER then
    let c := beNat (slice x.payload 0 1)
    if c ≤ 15 ∧ s.on VCT.CHAN.CFG.CRIT c = true then some 2 else none
  else if x.opcode = opTIMESET then some 3
  else if x.opcode = opFWSTAGE then some 4
  else none

/-- Step 7: the command executes (R371). -/
def vctExecute (p : VctIn) (x : VctPkt) (s : State) : VctResult :=
  let s := s.incF VCT.CNT.CMDS 0
  if x.opcode = opPING then vctPing x s
  else if x.opcode = opSTATUS then vctStatus x s
  else if x.opcode = opCWRD then vctRead x s
  else if x.opcode = opCWWR then vctWrite x s
  else if x.opcode = opRXOPEN then vctRxopen x s
  else if x.opcode = opRXCLOSE then vctRxclose x s
  else if x.opcode = opRXABORT then vctRxabort x s
  else if x.opcode = opRXSTAT then vctRxstat x s
  else if x.opcode = opDELIVER then vctDeliver x s
  else if x.opcode = opSUBSCRIBE then vctSubscribe p x s
  else if x.opcode = opKEYSET then vctKeyset x s
  else if x.opcode = opKEYCLR then vctKeyclr x s
  else if x.opcode = opTIMESET then vctTimeset x s
  else if x.opcode = opFWSTAGE then vctFwstage x s
  else if x.opcode = opRESET then vctResetJudge x s
  else if x.opcode = opDALEUP then vctDaleup x s
  else (0x11, [], s)

/-- The pins as they stand: what a commanded reset boots with. -/
def State.pinsNow (s : State) : BootIn := ⟨s.basin.testmode, s.basin.safeA, s.basin.safeB, true, [], []⟩

/-- The command executes and its response leaves; an authenticated response is kept for its repeat; RESET follows its response. -/
def vctRun (p : VctIn) (x : VctPkt) (key : Option (List Byte)) (s : State) : State :=
  let (code, payload, t) := vctExecute p x s
  let out := vctResponse s p x key code x.counter payload
  let t := if key.isSome && (t.slotKey x.slot).lastTag.isSome then t.setSlotKey x.slot { t.slotKey x.slot with lastResp := some out } else t
  let t := t.sendOut out
  if x.opcode = opRESET ∧ code = 0 then bootDevice true t.pinsNow t else t

/-- Steps 6 and 7 of R371, with R379 while slot 0 holds no key. -/
def vctRights (p : VctIn) (x : VctPkt) (key : Option (List Byte)) (s : State) : State :=
  let answer (code : Nat) : State := s.sendOut (vctResponse s p x key code x.counter [])
  match s.vctRight x with
  | none => vctRun p x key s
  | some r =>
    if key.isNone then
      if r = 0 ∧ s.on VCT.STAT.PROV = false then
        (if x.opcode = opKEYSET ∧ beNat (slice x.payload 0 1) = 0 then vctRun p x key s else s.vctDeny p x 0x21)
      else s.vctDeny p x 0x20
    else if (s.f VCT.SLOT.CFG.RIGHTS x.slot).testBit r then vctRun p x key s
    else answer 0x22

/-- An accepted counter: CTR moves, the slot is exhausted at the last value, a mirror write falls due (R373, R375). -/
def State.acceptCounter (s : State) (x : VctPkt) : State :=
  let t := x.slot
  let s := s.setF VCT.SLOT.CTR.V t x.counter
  let s := if x.counter = 2 ^ 64 - 1 then s.setF VCT.SLOT.CFG.EXH t 1 else s
  let k : KeySlot := { s.slotKey t with lastTag := some x.tag, lastResp := none }
  s.setSlotKey t (if k.mirrorTo.isNone ∧ s.f VCT.SLOT.MIRROR.V t + 2 ^ 19 ≤ x.counter then { k with mirrorTo := some x.counter } else k)

/-- A replay (R373). -/
def State.vctReplay (s : State) (t : Nat) : State := ((s.setF VCT.STAT.REPLAY 0 1).incF VCT.CNT.REPLAYS 0).vctDiscard t

/-- Step 5 of R371: the counter rules. -/
def vctCounter (p : VctIn) (x : VctPkt) (key : List Byte) (s : State) : State :=
  let t := x.slot
  let k := s.slotKey t
  let ctr := s.f VCT.SLOT.CTR.V t
  if !k.held.isEmpty then s.setSlotKey t { k with held := k.held ++ [p] }
  else if s.f VCT.SLOT.MIRROR.V t + 2 ^ 20 ≤ x.counter then s.setSlotKey t { k with held := [p], mirrorTo := some x.counter }
  else if ctr < x.counter then vctRights p x (some key) (s.acceptCounter x)
  else if x.counter = ctr ∧ k.lastTag = some x.tag then
    (match k.lastResp with
     | some o => s.sendOut { o with port := p.peer.port, mac := p.peer.mac.toNat, ip := p.peer.ip.toNat, udp := p.peer.udp.toNat }
     | none => s)
  else s.vctReplay t

/-- Steps 3 to 5 of an authenticated command. -/
def vctAuth (p : VctIn) (x : VctPkt) (s : State) : State :=
  let t := x.slot
  match (s.slotKey t).key with
  | none => s.vctDeny p x 0x21
  | some key =>
    if s.on VCT.SLOT.CFG.CLOSED t || s.on VCT.SLOT.CFG.EXH t then s.vctDeny p x 0x21
    else if x.check ≠ vctMac key (p.bytes.take (32 + x.len)) then ((s.setF VCT.STAT.BADMAC 0 1).incF VCT.CNT.BADMACS 0).vctDiscard t
    else vctCounter p x key s

/-! ### DATA and UACK (R384, R388) -/

/-- Bytes reach DRAM from a MAC: whole words lose their error marks. -/
def State.dramPut (s : State) (a src : Nat) (data : List Byte) : State :=
  let s := s.dramRequest (a - 0x100000000000) ((data.length + 7) / 8) src
  (s.setBytes a data).setEccs (s.eccs.filter (fun p => !decide (a ≤ p.1 ∧ p.1 + 8 ≤ a + data.length)))

/-- A DATA packet: the chunk is placed and its bit set, or the packet is discarded and counted. -/
def vctData (p : VctIn) (x : VctPkt) (s : State) : State :=
  let w := x.arg
  let off := beNat (slice x.payload 0 8)
  let data := x.payload.drop 8
  let len := s.f VCT.WIN.LEN.V w
  if 3 < w ∨ s.winState w ≠ winOPEN ∨ x.len < 8 ∨ off % 8192 ≠ 0 ∨ len ≤ off ∨ data.length ≠ min 8192 (len - off) then s.incF VCT.CNT.FORMATS 0
  else
    let i := off / 8192
    let a := s.f VCT.WIN.BMAP.V w + i / 8
    let new := !s.chunkHere w i
    let s := s.dramPut (s.f VCT.WIN.BASE.V w + off) (0x130 + p.peer.port.val) data
    let s := if new then (s.setByte a (s.byte a ||| BitVec.ofNat 8 (2 ^ (i % 8)))).incF VCT.WIN.STAT.CHUNKS w else s
    if x.ackReq then s.sendOut (vctResponse s p x none 0 off []) else s

/-- A UACK packet (R388). -/
def vctUack (x : VctPkt) (s : State) : State :=
  let n := x.opcode
  if n ≤ 15 ∧ s.f VCT.UP.STAT.ACKED n < x.counter ∧ x.counter ≤ (s.up n).total then s.upAck n x.counter else s

/-! ### The judgement of a packet (R371) -/

/-- One packet, in the order of R371; before OPEN the device answers no VCT. -/
def vctPacket (p : VctIn) (s : State) : State :=
  let x := vctParse p.bytes
  if !s.on VCT.STAT.OPEN ∨ p.bytes.length < 32 ∨ x.target ≠ s.serial then s
  else if !x.formed p.bytes.length then
    let s := s.incF VCT.CNT.FORMATS 0
    if x.typ = 1 then s.vctDeny p x 0x10 else s
  else if x.typ = 3 then vctData p x s
  else if x.typ = 5 then vctUack x s
  else if x.auth then vctAuth p x s
  else vctRights p x none s

/-- The row of a packet's TYPE and OPCODE takes it from its port's receive buffer. -/
def vctRow (typ : Nat) (op : Option Nat) (p : VctIn) (s : State) : State :=
  let x := vctParse p.bytes
  if x.typ ≠ typ ∨ (op.isSome = true ∧ op ≠ some x.opcode) then s else vctPacket p (s.rxTake p.peer.port)

/-- Whether a row of the table takes the packet. -/
def vctHasRow (x : VctPkt) : Bool :=
  x.typ == 3 || x.typ == 5 || (x.typ == 1 &&
    [opPING, opSTATUS, opCWRD, opCWWR, opRXOPEN, opRXCLOSE, opRXABORT, opRXSTAT, opDELIVER, opSUBSCRIBE, opKEYSET, opKEYCLR, opTIMESET, opFWSTAGE,
     opRESET, opDALEUP].contains x.opcode)

/-- ETHERNET_FRAME: the frame is checked; ARP and ICMP are answered; a VCT packet waits in the buffer for its row, or is judged at once where
it has none. -/
def ethernetFrame (k : Nat) (f : List Byte) (fcsOk : Bool) (sfd : Nat) (s : State) : State :=
  match s.frameTaken k f fcsOk with
  | (false, s) => s
  | (true, s) =>
    match s.frameKind k f with
    | .nothing => s
    | .arp sha spa => s.arpReply k sha spa
    | .icmp src dst data => s.icmpReply k (slice f 6 6) src dst data
    | .ptp msg => s.rxStamp k sfd msg
    | .vct p => if vctHasRow (vctParse p.bytes) then s.rxPut k (f.length + 4) else vctPacket p s

/-! ### Completions -/

/-- DIGEST_DONE: the engine's SHA-256 over the window (R385). -/
def digestDone (w : Nat) (s : State) : State :=
  if s.winState w ≠ winVERIFYING then s
  else
    let x := s.rxWin w
    let len := s.f VCT.WIN.LEN.V w
    if sha256 (s.bytes (s.f VCT.WIN.BASE.V w) len) = x.digest then
      ((s.setWinState w winDONE).send (mkTok 0xD x.notify 0 0 (wd (place w 8 56 + place len 32 0)))).evtComplete x.tag 0
    else (s.setWinState w winFAILED).evtComplete x.tag 0x41

/-- FWSTAGE_COMPLETE: an image that R474 accepts goes to the inactive area, with TRIAL 1 and TRIES 0. -/
def fwstageComplete (ok : Bool) (s : State) : State :=
  match s.host.fwstage with
  | none => s
  | some (w, tag) =>
    let s := s.setHost { s.host with fwstage := none }
    let img := s.bytes (s.f VCT.WIN.BASE.V w) (s.f VCT.WIN.LEN.V w)
    if ok && decide (img.length ≤ 33554432) && (imageCheck img s).isNone then
      let f := s.flash
      let f := if f.active = 0 then { f with imageB := img } else { f with imageA := img }
      (s.setFlash { f with trial := 1, tries := 0, bseq := f.bseq + 1 }).evtComplete tag 0
    else s.evtComplete tag 0x50

/-- MIRROR_WRITE: the mirror takes its value and the held packets are judged, or the slot closes (R375). -/
def mirrorWrite (t : Nat) (ok : Bool) (s : State) : State :=
  let k := s.slotKey t
  match k.mirrorTo with
  | none => s
  | some v =>
    let s := s.setSlotKey t { k with mirrorTo := none, held := [] }
    let s := if ok then (s.setFlash { s.flash with mirrors := (t, v) :: s.flash.mirrors.filter (fun q => q.1 != t) }).setF VCT.SLOT.MIRROR.V t v
      else (s.setF VCT.SLOT.CFG.CLOSED t 1).severe 18 t 0x80
    forEach k.held (fun p s => vctPacket p s) s

/-! ### The commands -/

/-- ETHERNET_FRAME (R359–R361, R364). -/
def execEthernetFrame (k : Fin 4) (frame : List (BitVec 8)) (fcsOk : Bool) (sfd : Nat) (s : State) : Host.Outcome State Fault Refusal :=
  .next (ethernetFrame k frame fcsOk sfd s)

/-- PING (R381). -/
def execPing (p : VctIn) (s : State) : Host.Outcome State Fault Refusal := .next (vctRow 1 (some opPING) p s)

/-- STATUS (R381). -/
def execStatus (p : VctIn) (s : State) : Host.Outcome State Fault Refusal := .next (vctRow 1 (some opSTATUS) p s)

/-- VCT_CWRD (R381). -/
def execVctCwrd (p : VctIn) (s : State) : Host.Outcome State Fault Refusal := .next (vctRow 1 (some opCWRD) p s)

/-- VCT_CWWR (R381). -/
def execVctCwwr (p : VctIn) (s : State) : Host.Outcome State Fault Refusal := .next (vctRow 1 (some opCWWR) p s)

/-- RXOPEN (R383). -/
def execRxopen (p : VctIn) (s : State) : Host.Outcome State Fault Refusal := .next (vctRow 1 (some opRXOPEN) p s)

/-- DATA_CHUNK (R384). -/
def execDataChunk (p : VctIn) (s : State) : Host.Outcome State Fault Refusal := .next (vctRow 3 none p s)

/-- RXCLOSE (R385). -/
def execRxclose (p : VctIn) (s : State) : Host.Outcome State Fault Refusal := .next (vctRow 1 (some opRXCLOSE) p s)

/-- DIGEST_DONE (R385). -/
def execDigestDone (w : Fin 4) (s : State) : Host.Outcome State Fault Refusal := .next (digestDone w s)

/-- RXABORT (R385). -/
def execRxabort (p : VctIn) (s : State) : Host.Outcome State Fault Refusal := .next (vctRow 1 (some opRXABORT) p s)

/-- RXSTAT (R381). -/
def execRxstat (p : VctIn) (s : State) : Host.Outcome State Fault Refusal := .next (vctRow 1 (some opRXSTAT) p s)

/-- DELIVER (R386). -/
def execDeliver (p : VctIn) (s : State) : Host.Outcome State Fault Refusal := .next (vctRow 1 (some opDELIVER) p s)

/-- SUBSCRIBE (R360, R388). -/
def execSubscribe (p : VctIn) (s : State) : Host.Outcome State Fault Refusal := .next (vctRow 1 (some opSUBSCRIBE) p s)

/-- KEYSET (R378, R379). -/
def execKeyset (p : VctIn) (s : State) : Host.Outcome State Fault Refusal := .next (vctRow 1 (some opKEYSET) p s)

/-- KEYCLR (R378). -/
def execKeyclr (p : VctIn) (s : State) : Host.Outcome State Fault Refusal := .next (vctRow 1 (some opKEYCLR) p s)

/-- TIMESET (R368). -/
def execTimeset (p : VctIn) (s : State) : Host.Outcome State Fault Refusal := .next (vctRow 1 (some opTIMESET) p s)

/-- FWSTAGE (R381). -/
def execFwstage (p : VctIn) (s : State) : Host.Outcome State Fault Refusal := .next (vctRow 1 (some opFWSTAGE) p s)

/-- FWSTAGE_COMPLETE (R474). -/
def execFwstageComplete (ok : Bool) (s : State) : Host.Outcome State Fault Refusal := .next (fwstageComplete ok s)

/-- VCT_RESET (R381, R471). -/
def execVctReset (p : VctIn) (s : State) : Host.Outcome State Fault Refusal := .next (vctRow 1 (some opRESET) p s)

/-- DALEUP (R381). -/
def execDaleup (p : VctIn) (s : State) : Host.Outcome State Fault Refusal := .next (vctRow 1 (some opDALEUP) p s)

/-- MIRROR_WRITE (R375). -/
def execMirrorWrite (slot : Fin 8) (ok : Bool) (s : State) : Host.Outcome State Fault Refusal := .next (mirrorWrite slot ok s)

/-- UACK (R388). -/
def execUack (p : VctIn) (s : State) : Host.Outcome State Fault Refusal := .next (vctRow 5 none p s)

end Sys2Proof.Machine
end

