-- ==== Sys2Proof/Machine/Dispatch.lean ====
section
/-! DEFINITION. The dispatch: one arm per command, one direct call of its meaning. -/

namespace Sys2Proof.Machine

/-- What a command does to the block, everything but the queue of waiting commands. -/
def exec (i : Instr) (s : State) : Host.Outcome State Fault Refusal :=
  match i with
  | .queueEnqueue n tok handshake => Sys2Proof.Machine.execQueueEnqueue n tok handshake s
  | .queuePush n => Sys2Proof.Machine.execQueuePush n s
  | .queuePop n h count => Sys2Proof.Machine.execQueuePop n h count s
  | .queueCfgWrite n h cfg base handshake => Sys2Proof.Machine.execQueueCfgWrite n h cfg base handshake s
  | .queueDropsRead n h => Sys2Proof.Machine.execQueueDropsRead n h s
  | .collRead block h => Sys2Proof.Machine.execCollRead block h s
  | .pllLock => Sys2Proof.Machine.execPllLock s
  | .timerefLoss => Sys2Proof.Machine.execTimerefLoss s
  | .pllRelock phaseErr => Sys2Proof.Machine.execPllRelock phaseErr s
  | .slewEnd => Sys2Proof.Machine.execSlewEnd s
  | .tbPtWrite h base baseHi mtref rate => Sys2Proof.Machine.execTbPtWrite h base baseHi mtref rate s
  | .syncBeacon => Sys2Proof.Machine.execSyncBeacon s
  | .colAccept n tok => Sys2Proof.Machine.execColAccept n tok s
  | .colRelease n => Sys2Proof.Machine.execColRelease n s
  | .colSecondEdge n => Sys2Proof.Machine.execColSecondEdge n s
  | .colFaultClear n h lateToken => Sys2Proof.Machine.execColFaultClear n h lateToken s
  | .colEnClear n h => Sys2Proof.Machine.execColEnClear n h s
  | .colEnSet n h => Sys2Proof.Machine.execColEnSet n h s
  | .colSlackRead n h => Sys2Proof.Machine.execColSlackRead n h s
  | .colLateRead n h => Sys2Proof.Machine.execColLateRead n h s
  | .colCoincRead n h => Sys2Proof.Machine.execColCoincRead n h s
  | .triggerStartPeriodic n tok => Sys2Proof.Machine.execTriggerStartPeriodic n tok s
  | .triggerStop n tok => Sys2Proof.Machine.execTriggerStop n tok s
  | .triggerSingle n tok => Sys2Proof.Machine.execTriggerSingle n tok s
  | .triggerRelease n => Sys2Proof.Machine.execTriggerRelease n s
  | .mrd tok => Sys2Proof.Machine.execMrd tok s
  | .mwrWrite toks => Sys2Proof.Machine.execMwrWrite toks s
  | .swap toks => Sys2Proof.Machine.execSwap toks s
  | .fetchAdd toks => Sys2Proof.Machine.execFetchAdd toks s
  | .compareAndSwap toks => Sys2Proof.Machine.execCompareAndSwap toks s
  | .plainScrub => Sys2Proof.Machine.execPlainScrub s
  | .plainEccRead h => Sys2Proof.Machine.execPlainEccRead h s
  | .plainEccaddrRead h => Sys2Proof.Machine.execPlainEccaddrRead h s
  | .cwr tok => Sys2Proof.Machine.execCwr tok s
  | .cww toks collide => Sys2Proof.Machine.execCww toks collide s
  | .refusalPoint tok => Sys2Proof.Machine.execRefusalPoint tok s
  | .barrierFanout tok => Sys2Proof.Machine.execBarrierFanout tok s
  | .barrierJudge => Sys2Proof.Machine.execBarrierJudge s
  | .barrier pg tok => Sys2Proof.Machine.execBarrier pg tok s
  | .zAdd r g rd ra rb m => Sys2Proof.Machine.execZAdd r g rd ra rb m s
  | .zSub r g rd ra rb m => Sys2Proof.Machine.execZSub r g rd ra rb m s
  | .zAnd r g rd ra rb m => Sys2Proof.Machine.execZAnd r g rd ra rb m s
  | .zOr r g rd ra rb m => Sys2Proof.Machine.execZOr r g rd ra rb m s
  | .zXor r g rd ra rb m => Sys2Proof.Machine.execZXor r g rd ra rb m s
  | .zAndn r g rd ra rb m => Sys2Proof.Machine.execZAndn r g rd ra rb m s
  | .zShl r g rd ra rb m => Sys2Proof.Machine.execZShl r g rd ra rb m s
  | .zShr r g rd ra rb m => Sys2Proof.Machine.execZShr r g rd ra rb m s
  | .zSar r g rd ra rb m => Sys2Proof.Machine.execZSar r g rd ra rb m s
  | .zRor r g rd ra rb m => Sys2Proof.Machine.execZRor r g rd ra rb m s
  | .zMin r g rd ra rb m => Sys2Proof.Machine.execZMin r g rd ra rb m s
  | .zMax r g rd ra rb m => Sys2Proof.Machine.execZMax r g rd ra rb m s
  | .zMinu r g rd ra rb m => Sys2Proof.Machine.execZMinu r g rd ra rb m s
  | .zMaxu r g rd ra rb m => Sys2Proof.Machine.execZMaxu r g rd ra rb m s
  | .zClz r g rd ra rb m => Sys2Proof.Machine.execZClz r g rd ra rb m s
  | .zCtz r g rd ra rb m => Sys2Proof.Machine.execZCtz r g rd ra rb m s
  | .zPopc r g rd ra rb m => Sys2Proof.Machine.execZPopc r g rd ra rb m s
  | .zBswap r g rd ra rb m => Sys2Proof.Machine.execZBswap r g rd ra rb m s
  | .zMul r g rd ra rb m => Sys2Proof.Machine.execZMul r g rd ra rb m s
  | .zMulhu r g rd ra rb m => Sys2Proof.Machine.execZMulhu r g rd ra rb m s
  | .zMulhs r g rd ra rb m => Sys2Proof.Machine.execZMulhs r g rd ra rb m s
  | .zDivu r g rd ra rb m => Sys2Proof.Machine.execZDivu r g rd ra rb m s
  | .zDivs r g rd ra rb m => Sys2Proof.Machine.execZDivs r g rd ra rb m s
  | .zRemu r g rd ra rb m => Sys2Proof.Machine.execZRemu r g rd ra rb m s
  | .zRems r g rd ra rb m => Sys2Proof.Machine.execZRems r g rd ra rb m s
  | .zSextw r g rd ra rb m => Sys2Proof.Machine.execZSextw r g rd ra rb m s
  | .zAddsat r g rd ra rb m => Sys2Proof.Machine.execZAddsat r g rd ra rb m s
  | .zSubsat r g rd ra rb m => Sys2Proof.Machine.execZSubsat r g rd ra rb m s
  | .zAddi r g rd ra imm => Sys2Proof.Machine.execZAddi r g rd ra imm s
  | .zAndi r g rd ra imm => Sys2Proof.Machine.execZAndi r g rd ra imm s
  | .zOri r g rd ra imm => Sys2Proof.Machine.execZOri r g rd ra imm s
  | .zXori r g rd ra imm => Sys2Proof.Machine.execZXori r g rd ra imm s
  | .zShli r g rd ra imm => Sys2Proof.Machine.execZShli r g rd ra imm s
  | .zShri r g rd ra imm => Sys2Proof.Machine.execZShri r g rd ra imm s
  | .zSari r g rd ra imm => Sys2Proof.Machine.execZSari r g rd ra imm s
  | .zMuli r g rd ra imm => Sys2Proof.Machine.execZMuli r g rd ra imm s
  | .zLi r g rd imm => Sys2Proof.Machine.execZLi r g rd imm s
  | .zLso r g rd imm => Sys2Proof.Machine.execZLso r g rd imm s
  | .zLb r g rd ra imm => Sys2Proof.Machine.execZLb r g rd ra imm s
  | .zLbu r g rd ra imm => Sys2Proof.Machine.execZLbu r g rd ra imm s
  | .zLh r g rd ra imm => Sys2Proof.Machine.execZLh r g rd ra imm s
  | .zLhu r g rd ra imm => Sys2Proof.Machine.execZLhu r g rd ra imm s
  | .zLw r g rd ra imm => Sys2Proof.Machine.execZLw r g rd ra imm s
  | .zLwu r g rd ra imm => Sys2Proof.Machine.execZLwu r g rd ra imm s
  | .zLd r g rd ra imm => Sys2Proof.Machine.execZLd r g rd ra imm s
  | .zSb r g rs ra imm => Sys2Proof.Machine.execZSb r g rs ra imm s
  | .zSh r g rs ra imm => Sys2Proof.Machine.execZSh r g rs ra imm s
  | .zSw r g rs ra imm => Sys2Proof.Machine.execZSw r g rs ra imm s
  | .zSd r g rs ra imm => Sys2Proof.Machine.execZSd r g rs ra imm s
  | .zCmp r g pd cc ra rb => Sys2Proof.Machine.execZCmp r g pd cc ra rb s
  | .zCmpi r g pd cc ra imm => Sys2Proof.Machine.execZCmpi r g pd cc ra imm s
  | .zPlog r g pd pa pb fn => Sys2Proof.Machine.execZPlog r g pd pa pb fn s
  | .zBr r g off => Sys2Proof.Machine.execZBr r g off s
  | .zCall r g off => Sys2Proof.Machine.execZCall r g off s
  | .zJalr r g rd ra => Sys2Proof.Machine.execZJalr r g rd ra s
  | .portTokenArrival r p tok refused => Sys2Proof.Machine.execPortTokenArrival r p tok refused s
  | .zTpoll r g p tp => Sys2Proof.Machine.execZTpoll r g p tp s
  | .zTtag r g d tp sel => Sys2Proof.Machine.execZTtag r g d tp sel s
  | .zTset r g a tp sel => Sys2Proof.Machine.execZTset r g a tp sel s
  | .zTsendl r g a tp => Sys2Proof.Machine.execZTsendl r g a tp s
  | .zTsel r g d sel => Sys2Proof.Machine.execZTsel r g d sel s
  | .zTcred r g d tp => Sys2Proof.Machine.execZTcred r g d tp s
  | .zGets r g rd idx => Sys2Proof.Machine.execZGets r g rd idx s
  | .zPuts r g idx rb => Sys2Proof.Machine.execZPuts r g idx rb s
  | .zEret r g => Sys2Proof.Machine.execZEret r g s
  | .zBrk r g => Sys2Proof.Machine.execZBrk r g s
  | .zHalt r g => Sys2Proof.Machine.execZHalt r g s
  | .zFence r g => Sys2Proof.Machine.execZFence r g s
  | .zGetmt r g rd => Sys2Proof.Machine.execZGetmt r g rd s
  | .zWaitt r g ra => Sys2Proof.Machine.execZWaitt r g ra s
  | .zRld r g rd ra => Sys2Proof.Machine.execZRld r g rd ra s
  | .zRst r g ra rb => Sys2Proof.Machine.execZRst r g ra rb s
  | .zRswp r g rd ra rb => Sys2Proof.Machine.execZRswp r g rd ra rb s
  | .zRadd r g rd ra rb => Sys2Proof.Machine.execZRadd r g rd ra rb s
  | .zRcas r g rd ra rb => Sys2Proof.Machine.execZRcas r g rd ra rb s
  | .zCwrd r g rd ra => Sys2Proof.Machine.execZCwrd r g rd ra s
  | .zCwwr r g ra rb => Sys2Proof.Machine.execZCwwr r g ra rb s
  | .zRget r g rd ra rb => Sys2Proof.Machine.execZRget r g rd ra rb s
  | .zRput r g rd ra rb => Sys2Proof.Machine.execZRput r g rd ra rb s
  | .zRmove r g rd ra rb => Sys2Proof.Machine.execZRmove r g rd ra rb s
  | .asyncCauseTaken r => Sys2Proof.Machine.execAsyncCauseTaken r s
  | .portTimeout r => Sys2Proof.Machine.execPortTimeout r s
  | .postedWriteAck r tok => Sys2Proof.Machine.execPostedWriteAck r tok s
  | .bulkComplete r stream => Sys2Proof.Machine.execBulkComplete r stream s
  | .coreStart r h => Sys2Proof.Machine.execCoreStart r h s
  | .coreHalt r h => Sys2Proof.Machine.execCoreHalt r h s
  | .coreStep r h => Sys2Proof.Machine.execCoreStep r h s
  | .coreImgWrite r h data => Sys2Proof.Machine.execCoreImgWrite r h data s
  | .coreRotation r phys => Sys2Proof.Machine.execCoreRotation r phys s
  | .coreFailed r => Sys2Proof.Machine.execCoreFailed r s
  | .coreRestart r phys => Sys2Proof.Machine.execCoreRestart r phys s
  | .pgJump n => Sys2Proof.Machine.execPgJump n s
  | .pgMark n => Sys2Proof.Machine.execPgMark n s
  | .pgJumpr n => Sys2Proof.Machine.execPgJumpr n s
  | .pgMarkr n => Sys2Proof.Machine.execPgMarkr n s
  | .pgArc n => Sys2Proof.Machine.execPgArc n s
  | .pgPark n => Sys2Proof.Machine.execPgPark n s
  | .pgSpeed n => Sys2Proof.Machine.execPgSpeed n s
  | .pgPower n => Sys2Proof.Machine.execPgPower n s
  | .pgFocus n => Sys2Proof.Machine.execPgFocus n s
  | .pgRamp n => Sys2Proof.Machine.execPgRamp n s
  | .pgGate n => Sys2Proof.Machine.execPgGate n s
  | .pgOwn n => Sys2Proof.Machine.execPgOwn n s
  | .pgPart n => Sys2Proof.Machine.execPgPart n s
  | .pgVid n => Sys2Proof.Machine.execPgVid n s
  | .pgNop n => Sys2Proof.Machine.execPgNop n s
  | .pgDwell n => Sys2Proof.Machine.execPgDwell n s
  | .pgDwellEnd n => Sys2Proof.Machine.execPgDwellEnd n s
  | .pgMarker n => Sys2Proof.Machine.execPgMarker n s
  | .pgLend n => Sys2Proof.Machine.execPgLend n s
  | .pgTrig n => Sys2Proof.Machine.execPgTrig n s
  | .pgRecord n => Sys2Proof.Machine.execPgRecord n s
  | .pgLook n => Sys2Proof.Machine.execPgLook n s
  | .windowPoll n => Sys2Proof.Machine.execWindowPoll n s
  | .leadUpdate n => Sys2Proof.Machine.execLeadUpdate n s
  | .underrun n => Sys2Proof.Machine.execUnderrun n s
  | .wringWrite n h data => Sys2Proof.Machine.execWringWrite n h data s
  | .leadMinRead n h => Sys2Proof.Machine.execLeadMinRead n h s
  | .arm n tok => Sys2Proof.Machine.execArm n tok s
  | .pause n tok => Sys2Proof.Machine.execPause n tok s
  | .pausePoint n => Sys2Proof.Machine.execPausePoint n s
  | .resume n tok => Sys2Proof.Machine.execResume n tok s
  | .resumeRun n => Sys2Proof.Machine.execResumeRun n s
  | .abort n tok => Sys2Proof.Machine.execAbort n tok s
  | .disarm n tok => Sys2Proof.Machine.execDisarm n tok s
  | .plan n => Sys2Proof.Machine.execPlan n s
  | .segmentCommit n => Sys2Proof.Machine.execSegmentCommit n s
  | .straceEnSet n h => Sys2Proof.Machine.execStraceEnSet n h s
  | .interpolate n => Sys2Proof.Machine.execInterpolate n s
  | .powerTarget n t => Sys2Proof.Machine.execPowerTarget n t s
  | .gateSample n toks => Sys2Proof.Machine.execGateSample n toks s
  | .sampleMissing n => Sys2Proof.Machine.execSampleMissing n s
  | .trackingTarget n tok => Sys2Proof.Machine.execTrackingTarget n tok s
  | .trackingCycle n => Sys2Proof.Machine.execTrackingCycle n s
  | .trkEnClear n h => Sys2Proof.Machine.execTrkEnClear n h s
  | .limcntRead n h => Sys2Proof.Machine.execLimcntRead n h s
  | .gresRead n h => Sys2Proof.Machine.execGresRead n h s
  | .mapnextWrite n h data => Sys2Proof.Machine.execMapnextWrite n h data s
  | .mapCheckDone n => Sys2Proof.Machine.execMapCheckDone n s
  | .mapSwap n => Sys2Proof.Machine.execMapSwap n s
  | .chainDecide n => Sys2Proof.Machine.execChainDecide n s
  | .stare n => Sys2Proof.Machine.execStare n s
  | .narmWrite h => Sys2Proof.Machine.execNarmWrite h s
  | .hrecEnSet h => Sys2Proof.Machine.execHrecEnSet h s
  | .saddleCntRead h => Sys2Proof.Machine.execSaddleCntRead h s
  | .yieldRead n h => Sys2Proof.Machine.execYieldRead n h s
  | .coefficientSet l toks => Sys2Proof.Machine.execCoefficientSet l toks s
  | .setpointAccept l tok => Sys2Proof.Machine.execSetpointAccept l tok s
  | .galvoCycle l tc => Sys2Proof.Machine.execGalvoCycle l tc s
  | .powerLoopCycle n => Sys2Proof.Machine.execPowerLoopCycle n s
  | .ctrimSet n tok => Sys2Proof.Machine.execCtrimSet n tok s
  | .pairMissing n => Sys2Proof.Machine.execPairMissing n s
  | .auxPositionCycle k tc => Sys2Proof.Machine.execAuxPositionCycle k tc s
  | .auxCurrentCycle k tc => Sys2Proof.Machine.execAuxCurrentCycle k tc s
  | .auxSetpoint k tok => Sys2Proof.Machine.execAuxSetpoint k tok s
  | .fftnWrite l h data => Sys2Proof.Machine.execFftnWrite l h data s
  | .fftCopyDone l => Sys2Proof.Machine.execFftCopyDone l s
  | .loopEnable l h => Sys2Proof.Machine.execLoopEnable l h s
  | .loopDisable l h => Sys2Proof.Machine.execLoopDisable l h s
  | .unitFail k l => Sys2Proof.Machine.execUnitFail k l s
  | .stbaseWrite h data => Sys2Proof.Machine.execStbaseWrite h data s
  | .servoCntRead h => Sys2Proof.Machine.execServoCntRead h s
  | .servoLoopCntRead l h => Sys2Proof.Machine.execServoLoopCntRead l h s
  | .scEnable a h => Sys2Proof.Machine.execScEnable a h s
  | .scCntRead a h => Sys2Proof.Machine.execScCntRead a h s
  | .encEdge k a b t held => Sys2Proof.Machine.execEncEdge k a b t held s
  | .indexEvent k level t held => Sys2Proof.Machine.execIndexEvent k level t held s
  | .indexHome k h => Sys2Proof.Machine.execIndexHome k h s
  | .hallChange k u v w t held => Sys2Proof.Machine.execHallChange k u v w t held s
  | .hallTimeout k => Sys2Proof.Machine.execHallTimeout k s
  | .speedUpdate tu => Sys2Proof.Machine.execSpeedUpdate tu s
  | .encCntRead k h => Sys2Proof.Machine.execEncCntRead k h s
  | .hallCntRead k h => Sys2Proof.Machine.execHallCntRead k h s
  | .probeEvent k level tp held => Sys2Proof.Machine.execProbeEvent k level tp held s
  | .probeRecord k => Sys2Proof.Machine.execProbeRecord k s
  | .probeArm k h => Sys2Proof.Machine.execProbeArm k h s
  | .prbDropsRead k h => Sys2Proof.Machine.execPrbDropsRead k h s
  | .emuUpdate k => Sys2Proof.Machine.execEmuUpdate k s
  | .emuEnable k h en => Sys2Proof.Machine.execEmuEnable k h en s
  | .frameStart k vc fn ecc sot => Sys2Proof.Machine.execFrameStart k vc fn ecc sot s
  | .linePacket k vc dt ecc sot crcOk room data => Sys2Proof.Machine.execLinePacket k vc dt ecc sot crcOk room data s
  | .frameEnd k vc ecc sot => Sys2Proof.Machine.execFrameEnd k vc ecc sot s
  | .fswinExpiry c => Sys2Proof.Machine.execFswinExpiry c s
  | .cameraSetting k toks => Sys2Proof.Machine.execCameraSetting k toks s
  | .ipEnable c h => Sys2Proof.Machine.execIpEnable c h s
  | .csiCntRead k h => Sys2Proof.Machine.execCsiCntRead k h s
  | .ipCntRead c h => Sys2Proof.Machine.execIpCntRead c h s
  | .i2cTransaction k toks => Sys2Proof.Machine.execI2cTransaction k toks s
  | .i2cDone k status nackidx bytes => Sys2Proof.Machine.execI2cDone k status nackidx bytes s
  | .ruleEnable n h => Sys2Proof.Machine.execRuleEnable n h s
  | .ruleDisable n h => Sys2Proof.Machine.execRuleDisable n h s
  | .ruleRecord n toks => Sys2Proof.Machine.execRuleRecord n toks s
  | .ruleCntRead n h => Sys2Proof.Machine.execRuleCntRead n h s
  | .stareRecord => Sys2Proof.Machine.execStareRecord s
  | .lrecEnSet h => Sys2Proof.Machine.execLrecEnSet h s
  | .processRecord n => Sys2Proof.Machine.execProcessRecord n s
  | .prdropRead h => Sys2Proof.Machine.execPrdropRead h s
  | .auxMove toks => Sys2Proof.Machine.execAuxMove toks s
  | .moveStart k tc => Sys2Proof.Machine.execMoveStart k tc s
  | .moveComplete k tc => Sys2Proof.Machine.execMoveComplete k tc s
  | .settleTimeout k => Sys2Proof.Machine.execSettleTimeout k s
  | .auxStop tok => Sys2Proof.Machine.execAuxStop tok s
  | .jog k tok => Sys2Proof.Machine.execJog k tok s
  | .auxEnable k h => Sys2Proof.Machine.execAuxEnable k h s
  | .auxDisable k h => Sys2Proof.Machine.execAuxDisable k h s
  | .holdiSet k => Sys2Proof.Machine.execHoldiSet k s
  | .hubLinkTimeout k => Sys2Proof.Machine.execHubLinkTimeout k s
  | .auxFaultClear k h => Sys2Proof.Machine.execAuxFaultClear k h s
  | .linkEnable n h => Sys2Proof.Machine.execLinkEnable n h s
  | .linkRestart n h => Sys2Proof.Machine.execLinkRestart n h s
  | .detectPoll n term => Sys2Proof.Machine.execDetectPoll n term s
  | .symbolLock n mirror => Sys2Proof.Machine.execSymbolLock n mirror s
  | .linkStateTimeout n mirror => Sys2Proof.Machine.execLinkStateTimeout n mirror s
  | .capRecord n data => Sys2Proof.Machine.execCapRecord n data s
  | .superframeStart ts => Sys2Proof.Machine.execSuperframeStart ts s
  | .sfsReceive n mirror bseq mtr data => Sys2Proof.Machine.execSfsReceive n mirror bseq mtr data s
  | .smpBlockReceive n mirror bseq arr data => Sys2Proof.Machine.execSmpBlockReceive n mirror bseq arr data s
  | .tokBlockReceive n mirror bseq arr data => Sys2Proof.Machine.execTokBlockReceive n mirror bseq arr data s
  | .refclkLoss r => Sys2Proof.Machine.execRefclkLoss r s
  | .laneModeWrite k h cfg => Sys2Proof.Machine.execLaneModeWrite k h cfg s
  | .prbsStart k h prbs => Sys2Proof.Machine.execPrbsStart k h prbs s
  | .prbsEnd k nbits nerrs => Sys2Proof.Machine.execPrbsEnd k nbits nerrs s
  | .eqLimit k => Sys2Proof.Machine.execEqLimit k s
  | .prbsCountRead k errs h => Sys2Proof.Machine.execPrbsCountRead k errs h s
  | .linkCntRead n h => Sys2Proof.Machine.execLinkCntRead n h s
  | .ethernetFrame k frame fcsOk sfd => Sys2Proof.Machine.execEthernetFrame k frame fcsOk sfd s
  | .transmitStamp k seqId cross reqStamp => Sys2Proof.Machine.execTransmitStamp k seqId cross reqStamp s
  | .linkChange k block hiber lfault rfault => Sys2Proof.Machine.execLinkChange k block hiber lfault rfault s
  | .ptpSync port t1 t2 corr d => Sys2Proof.Machine.execPtpSync port t1 t2 corr d s
  | .announce port m => Sys2Proof.Machine.execAnnounce port m s
  | .syncLoss => Sys2Proof.Machine.execSyncLoss s
  | .announceTimeout => Sys2Proof.Machine.execAnnounceTimeout s
  | .ping p => Sys2Proof.Machine.execPing p s
  | .status p => Sys2Proof.Machine.execStatus p s
  | .vctCwrd p => Sys2Proof.Machine.execVctCwrd p s
  | .vctCwwr p => Sys2Proof.Machine.execVctCwwr p s
  | .rxopen p => Sys2Proof.Machine.execRxopen p s
  | .dataChunk p => Sys2Proof.Machine.execDataChunk p s
  | .rxclose p => Sys2Proof.Machine.execRxclose p s
  | .digestDone w => Sys2Proof.Machine.execDigestDone w s
  | .rxabort p => Sys2Proof.Machine.execRxabort p s
  | .rxstat p => Sys2Proof.Machine.execRxstat p s
  | .deliver p => Sys2Proof.Machine.execDeliver p s
  | .subscribe p => Sys2Proof.Machine.execSubscribe p s
  | .keyset p => Sys2Proof.Machine.execKeyset p s
  | .keyclr p => Sys2Proof.Machine.execKeyclr p s
  | .timeset p => Sys2Proof.Machine.execTimeset p s
  | .fwstage p => Sys2Proof.Machine.execFwstage p s
  | .fwstageComplete ok => Sys2Proof.Machine.execFwstageComplete ok s
  | .vctReset p => Sys2Proof.Machine.execVctReset p s
  | .daleup p => Sys2Proof.Machine.execDaleup p s
  | .mirrorWrite slot ok => Sys2Proof.Machine.execMirrorWrite slot ok s
  | .upload toks => Sys2Proof.Machine.execUpload toks s
  | .reply toks => Sys2Proof.Machine.execReply toks s
  | .uplSend slot => Sys2Proof.Machine.execUplSend slot s
  | .uack p => Sys2Proof.Machine.execUack p s
  | .uploadRetransmit slot => Sys2Proof.Machine.execUploadRetransmit slot s
  | .ethCntRead k h => Sys2Proof.Machine.execEthCntRead k h s
  | .vctCntRead h => Sys2Proof.Machine.execVctCntRead h s
  | .dramTraining pass0 pass1 raaimt raammt => Sys2Proof.Machine.execDramTraining pass0 pass1 raaimt raammt s
  | .hashWrite ix h mask => Sys2Proof.Machine.execHashWrite ix h mask s
  | .pageClose rank sc bank => Sys2Proof.Machine.execPageClose rank sc bank s
  | .refreshTick rank queued => Sys2Proof.Machine.execRefreshTick rank queued s
  | .mr4Poll rank reading band => Sys2Proof.Machine.execMr4Poll rank reading band s
  | .rfm rank sc bank => Sys2Proof.Machine.execRfm rank sc bank s
  | .powerDownEntry rank => Sys2Proof.Machine.execPowerDownEntry rank s
  | .selfRefreshEntry ch sre => Sys2Proof.Machine.execSelfRefreshEntry ch sre s
  | .selfRefreshExit ch => Sys2Proof.Machine.execSelfRefreshExit ch s
  | .sreqWrite h data => Sys2Proof.Machine.execSreqWrite h data s
  | .zqCalibration rank => Sys2Proof.Machine.execZqCalibration rank s
  | .dqsOscillator rank drift => Sys2Proof.Machine.execDqsOscillator rank drift s
  | .dramScrub => Sys2Proof.Machine.execDramScrub s
  | .dramEccRead h => Sys2Proof.Machine.execDramEccRead h s
  | .dramEccaddrRead h => Sys2Proof.Machine.execDramEccaddrRead h s
  | .dramCntRead h => Sys2Proof.Machine.execDramCntRead h s
  | .gorgeJobSubmit tok => Sys2Proof.Machine.execGorgeJobSubmit tok s
  | .gorgeJobStart c => Sys2Proof.Machine.execGorgeJobStart c s
  | .gorgeJobEnd c => Sys2Proof.Machine.execGorgeJobEnd c s
  | .gorgeAbort tok progress => Sys2Proof.Machine.execGorgeAbort tok progress s
  | .gorgeCntRead h => Sys2Proof.Machine.execGorgeCntRead h s
  | .gorgeBytesRead c h => Sys2Proof.Machine.execGorgeBytesRead c h s
  | .statusRaise => Sys2Proof.Machine.execStatusRaise s
  | .statusAcknowledge ix h mask => Sys2Proof.Machine.execStatusAcknowledge ix h mask s
  | .lrearm h => Sys2Proof.Machine.execLrearm h s
  | .errel h => Sys2Proof.Machine.execErrel h s
  | .errorMinimumEnd => Sys2Proof.Machine.execErrorMinimumEnd s
  | .safeInputFall b => Sys2Proof.Machine.execSafeInputFall b s
  | .safeDiscrepancy => Sys2Proof.Machine.execSafeDiscrepancy s
  | .injection h bit => Sys2Proof.Machine.execInjection h bit s
  | .dalePop h count => Sys2Proof.Machine.execDalePop h count s
  | .daleFreeze h on => Sys2Proof.Machine.execDaleFreeze h on s
  | .daleLostRead h => Sys2Proof.Machine.execDaleLostRead h s
  | .ecCtrlWrite h run => Sys2Proof.Machine.execEcCtrlWrite h run s
  | .ecCountRead ix h => Sys2Proof.Machine.execEcCountRead ix h s
  | .porstAssert => Sys2Proof.Machine.execPorstAssert s
  | .porstRelease b => Sys2Proof.Machine.execPorstRelease b s
  | .resetRelease b => Sys2Proof.Machine.execResetRelease b s
  | .brownoutWarning rail => Sys2Proof.Machine.execBrownoutWarning rail s
  | .brownoutReset rail => Sys2Proof.Machine.execBrownoutReset rail s
  | .housekeepingRound sens rails => Sys2Proof.Machine.execHousekeepingRound sens rails s
  | .throttleSlot => Sys2Proof.Machine.execThrottleSlot s
  | .blockSleep b => Sys2Proof.Machine.execBlockSleep b s
  | .wakePermitGrant => Sys2Proof.Machine.execWakePermitGrant s
  | .permitReturn => Sys2Proof.Machine.execPermitReturn s
  | .hkWakeRead h => Sys2Proof.Machine.execHkWakeRead h s
  | .vaultSupplyLoss onVbat tampLow => Sys2Proof.Machine.execVaultSupplyLoss onVbat tampLow s
  | .crystalStop => Sys2Proof.Machine.execCrystalStop s
  | .tamper => Sys2Proof.Machine.execTamper s
  | .mrel h => Sys2Proof.Machine.execMrel h s
  | .backgroundTest u pass0 pass1 cut rotate => Sys2Proof.Machine.execBackgroundTest u pass0 pass1 cut rotate s
  | .repairRecordWrite => Sys2Proof.Machine.execRepairRecordWrite s
  | .confirm h => Sys2Proof.Machine.execConfirm h s
  | .svnburn h => Sys2Proof.Machine.execSvnburn h s
  | .revoke h mask => Sys2Proof.Machine.execRevoke h mask s
  | .blockLock n mirror => Sys2Proof.Machine.execBlockLock n mirror s
  | .badBlock n mirror viol good => Sys2Proof.Machine.execBadBlock n mirror viol good s
  | .safeInputRise b => Sys2Proof.Machine.execSafeInputRise b s
  | .resetAssert => Sys2Proof.Machine.execResetAssert s
  | .brownoutRecovery b => Sys2Proof.Machine.execBrownoutRecovery b s
  | .vaultSupplyReturn => Sys2Proof.Machine.execVaultSupplyReturn s
  | .crystalRestart => Sys2Proof.Machine.execCrystalRestart s
  | .creditReturn tok n => Sys2Proof.Machine.execCreditReturn tok n s
  | .rspAbsorbed tok => Sys2Proof.Machine.execRspAbsorbed tok s
  | .dramThrottleEnd ch src => Sys2Proof.Machine.execDramThrottleEnd ch src s
  | .wakeComplete b => Sys2Proof.Machine.execWakeComplete b s
  | .earlyWake r => Sys2Proof.Machine.execEarlyWake r s
  | .coreMoveComplete r => Sys2Proof.Machine.execCoreMoveComplete r s
  | .eachUsOfMt => Sys2Proof.Machine.execEachUsOfMt s
  | .tapAccess op => Sys2Proof.Machine.execTapAccess op s

end Sys2Proof.Machine
end

