-- ==== Sys2Proof/Safety.lean ====
section
/-! DEFINITION. What a safe run is, in the terms the statements use: the block never stops, its tables keep their canonical form, and every
LGATE pin is low while the Basin holds the lasers off. -/

namespace Sys2Proof.Machine

open Sys2Proof

/-- Every table of the state is canonical: keys strictly rising, no entry equal to what an unlisted key reads. Equal contents are then equal
data. -/
def State.canonical (s : State) : Bool :=
  twf cwReset s.cw && Memory.wf s.mem && twf (fun _ => none) s.eccs && twf (fun _ => 0) s.seqs && twf (fun _ => {}) s.queues &&
  twf (fun _ => {}) s.hts && twf (fun _ => {}) s.cols && twf (fun _ => {}) s.cores && twf (fun _ => {}) s.pgs && twf (fun _ => {}) s.maps &&
  twf (fun _ => {}) s.loops && twf (fun _ => {}) s.scs && twf (fun _ => {}) s.encs && twf (fun _ => {}) s.halls &&
  twf (fun _ => {}) s.probes && twf (fun _ => {}) s.emus && twf (fun _ => {}) s.slots && twf (fun _ => {}) s.taps &&
  twf (fun _ => []) s.i2cs && twf (fun _ => {}) s.auxs && twf (fun _ => {}) s.lanes && twf (fun _ => {}) s.links &&
  twf (fun _ => {}) s.keySlots && twf (fun _ => {}) s.wins && twf (fun _ => {}) s.ups && twf (fun _ => {}) s.dramBanks &&
  twf (fun _ => {}) s.dramRanks && twf (fun _ => {}) s.dramChans && twf (fun _ => {}) s.gorge

/-- Every LGATE pin is low (R433). -/
def State.lasersOff (s : State) : Prop := ∀ n : Fin 24, s.lgate n.val = false

/-- The Basin holds the lasers off: GOFF is set or a SAFE input is low (R433, R434). -/
def State.offCause (s : State) : Bool := s.basin.goff || !s.basin.safeA || !s.basin.safeB

/-- A step from the state answers a next state: the block takes every command of the table. -/
def State.runs (s : State) : Prop := ∃ t, step s = .next t

end Sys2Proof.Machine
end

