-- ==== Sys2Proof/Certificates/Slice0/Obligations.lean ====
section
/-! DEFINITION. The statements for the provers. The namespace Machine holds what they are said with: what a command leaves, the rows that share a
shape, and under Rules the parts of a statement that has several. Every statement is about commands of the table as they act on any state that meets
its hypotheses. -/

namespace Sys2Proof.Machine

open Sys2Proof

/-- A command completes: `exec` answers a next state that has the property. -/
def Completes (c : Instr) (s : State) (P : State → Prop) : Prop := ∃ t, exec c s = .next t ∧ P t

/-- Every control word outside `W` reads as before, the event counters of block 7 apart: they count what the command does (R444). -/
def WordsKept (s t : State) (W : Nat → Prop) : Prop := ∀ a, ¬ W a → blockOf a ≠ 7 → t.word a = s.word a

/-- Every byte of memory outside `B` reads as before. -/
def BytesKept (s t : State) (B : Nat → Prop) : Prop := ∀ a, ¬ B a → t.byte a = s.byte a

/-- The state once the two tokens of a one-pair write have been delivered to control-word space. -/
def writeTaken (s : State) (h : CwFrom) (a : Nat) (d : Word) : State := s.deliverAll cwEp (cwwToks h 0 [(a, d)])

/-- The word at `a` as a write of `d` stores it: by each field's access code, the bits hardware holds set winning (R10, R11, R431). -/
def wordStored (s : State) (a : Nat) (d : Word) : State :=
  match regOf a with
  | some r => s.setWord a (r.stored d (s.liveBits [] a) (s.word a))
  | none => s

/-- A write of `d` to the word at `a` is accepted: the source may reach the word, and neither the field map nor the block's chapter refuses the
data (R93, R94). -/
def Accepted (s : State) (h : CwFrom) (a : Nat) (d : Word) : Prop :=
  s.cwRefusal a h.src = none ∧
  dataRefusal ⟨cwTok h kindCWW 0 (cwPayload a h.ack) false, d⟩ (writeTaken s h a d) (wordStored (writeTaken s h a d) a d) = none

/-- The answer a write asks for by ACK: the last token sent is an RSP with the number of pairs. -/
def WriteAnswered (h : CwFrom) (t : State) : Prop :=
  h.ack = true → ∃ n, t.net.getLast? = some { mkTok cwEp h.src.toNat kindRSP h.stream.toNat 1 with seq := n }

/-- The rows of the table that write one field, the word's other RW fields as they read: the field, its entry, the value. -/
def fieldRow : Instr → Option (Fld × Nat × Nat × CwFrom)
  | .colEnClear n h => some (COL.CFG.EN, n, 0, h)
  | .colEnSet n h => some (COL.CFG.EN, n, 1, h)
  | .straceEnSet n h => some (PG.STRACE.EN, n, 1, h)
  | .trkEnClear n h => some (PG.TRK.EN, n, 0, h)
  | .narmWrite h => some (SADDLE.NARM.ARM, 0, 1, h)
  | .hrecEnSet h => some (SADDLE.HREC.EN, 0, 1, h)
  | .loopEnable l h => some (SERVON.CFG.EN, l, 1, h)
  | .loopDisable l h => some (SERVON.CFG.EN, l, 0, h)
  | .scEnable a h => some (POS.SC.CFG.EN, a, 1, h)
  | .indexHome k h => some (POS.ENC.ICFG.IHOME, k, 1, h)
  | .probeArm k h => some (POS.PRB.CFG.EN, k, 1, h)
  | .emuEnable k h en => some (POS.EMU.CFG.EN, k, en.toNat, h)
  | .ipEnable c h => some (IP.CFG.EN, c, 1, h)
  | .ruleEnable n h => some (SERVO.RULE.CFG.EN, n, 1, h)
  | .ruleDisable n h => some (SERVO.RULE.CFG.EN, n, 0, h)
  | .lrecEnSet h => some (SADDLE.LREC.EN, 0, 1, h)
  | .auxEnable k h => some (AUX.CFG.EN, k, 1, h)
  | .auxDisable k h => some (AUX.CFG.EN, k, 0, h)
  | .linkEnable n h => some (LINK.CTRL.EN, n, 1, h)
  | .daleFreeze h on => some (DALE.CTRL.FREEZE, 0, on.toNat, h)
  | .ecCtrlWrite h run => some (EC.CTRL.RUN, 0, run.toNat, h)
  | _ => none

/-- The request `q` left the network and one RSP of endpoint `ep` carries `w` to its src. -/
def Answered (ep : Nat) (q : Token) (w : Word) (s t : State) : Prop :=
  ∃ n, t.net = s.net.erase q ++ [{ mkTok ep q.src.toNat kindRSP q.stream.toNat w with seq := n }]

/-- The request `q` left the network, one RSP of endpoint `ep` refuses it with `code` and names its seq and kind, and an info-class event of
source 24 is raised (R36, R76). -/
def Refused (ep : Nat) (q : Token) (code : Nat) (s t : State) : Prop :=
  (∃ n, t.net = s.net.erase q ++
    [{ mkTok ep q.src.toNat kindRSP q.stream.toNat (refusalPayload q.seq.toNat q.kind.toNat code) with err := true, seq := n }]) ∧
  ∃ i, t.lines = s.lines ++ [i] ∧ i.cls = 3 ∧ i.source = 24

/-- Queue `n` takes a token: enabled, the token of a kind it takes from a source it is open to, no seq check, and its ring and pointers in
range (R44, R49). -/
def QueueTakes (s : State) (n : Nat) (q : Token) : Prop :=
  s.canonical = true ∧ srcAllowed (0x380 + n) q.src = true ∧ neverAnswered q = false ∧ q.kind ≠ 11#4 ∧ (q.kind = 8#4 → q.src = 0xE#10) ∧
  s.f QUEUE.CFG.EN n = 1 ∧ s.f QUEUE.CFG.SEQCHK n = 0 ∧ s.f QUEUE.PTR.HEAD n < 2 * s.qSize n ∧ s.f QUEUE.PTR.TAIL n < 2 * s.qSize n ∧
  s.qSize n ≤ 2 ^ 16

/-- Pin col `n` takes the pin action `q`: enabled, no seq check, not emulating, its FIFO not full, the token a well formed timed pin action. -/
def PinColTakes (s : State) (n : Nat) (q : Token) : Prop :=
  s.canonical = true ∧ 24 ≤ n ∧ n < 108 ∧ s.f COL.CFG.EN n = 1 ∧ s.f COL.CFG.SEQCHK n = 0 ∧ s.colEmu n = false ∧
  (s.col n).fifo.length < colDepth n ∧ q.kind = 14#4 ∧ q.timed = true ∧ q.err = false ∧ (pinAct q.payload).op ≤ 4 ∧ 2 ≤ (pinAct q.payload).width

/-- The tokens of a message have left the network. -/
def netWithout (s : State) (ts : List Token) : List Token := ts.foldl (fun l t => l.erase t) s.net

/-- A message of the Plain: an untimed head of memory-write kind whose header is of one word with OP `op`, and its data, no token poisoned. -/
def PlainAtomic (s : State) (q : Token) (data : List Token) (op : Nat) : Prop :=
  s.canonical = true ∧ q.dest = 0x10#10 ∧ q.timed = false ∧ (∀ u ∈ q :: data, u.err = false) ∧ (memHead q.payload).op = op ∧
  (memHead q.payload).count = 1 ∧ (memHead q.payload).byteen = 255 ∧ (memHead q.payload).ack = false ∧ (memHead q.payload).addr + 8 ≤ 0x3000000 ∧
  s.eccAt (memHead q.payload).addr = none

/-- What an atomic operation of the Plain leaves: the answer is the old word, the word at the address is `w`, every other byte stays. -/
def AtomicDone (q : Token) (data : List Token) (w : Word) (s t : State) : Prop :=
  t.ld (memHead q.payload).addr = w ∧
  BytesKept s t (fun a => (memHead q.payload).addr ≤ a ∧ a < (memHead q.payload).addr + 8) ∧
  ∃ n, t.net = netWithout s (q :: data) ++ [{ mkTok 0x10 q.src.toNat kindRSP q.stream.toNat (s.ld (memHead q.payload).addr) with seq := n }]

/-- A core that can execute the instruction under guard `g` now: it runs, nothing blocks it, no asynchronous cause comes first, the guard holds. -/
def Ready (s : State) (r : Nat) (g : BitVec 4) : Prop :=
  s.canonical = true ∧ s.coreState r = 1 ∧ (s.core r).blocked = none ∧ (s.core r).asyncDue = false ∧ (s.core r).stepping = false ∧
  (s.core r).guardOk g = true

/-- Role `r` has retired an instruction and stands as `c` with one more counted; no other core and no control word has changed. -/
def Retires (r : Nat) (c : Core) (s t : State) : Prop :=
  t.core r = { c with icount := c.icount + 1 } ∧ (∀ q, q ≠ r → t.core q = s.core q) ∧ ∀ a, t.word a = s.word a

/-- An instruction that touches nothing but its core retires. -/
def RetiresAlone (r : Nat) (c : Core) (s t : State) : Prop := Retires r c s t ∧ t = { s with cores := t.cores, cw := t.cw }

/-- Role `r` enters its handler for synchronous cause `code` (R119): EPC the instruction's own PC, PC the vector. -/
def Enters (r code : Nat) (info : Word) (s t : State) : Prop :=
  t.core r = { s.core r with epc := wd (s.core r).pc, code := code, async := false, more := (s.core r).pendMore, info := info, ex := true,
                             pc := 16 * code } ∧
  (∀ q, q ≠ r → t.core q = s.core q) ∧ t.coreState r = 1 ∧ t.mem = s.mem

/-- The rows of the table that read one control word, with the word they read and where they come from (R93). -/
def readRow : Instr → Option (Nat × CwFrom)
  | .queueDropsRead n h => some (QUEUE.STAT.DROPS.addr n, h)
  | .collRead b h => (collField b).map (fun f => (f.base, h))
  | .colSlackRead n h => some (COL.SLACK.MIN.addr n, h)
  | .colLateRead n h => some (COL.LATE.COUNT.addr n, h)
  | .colCoincRead n h => some (COL.COINC.V.addr n, h)
  | .plainEccRead h => some (PLAIN.ECC.CE.base, h)
  | .plainEccaddrRead h => some (PLAIN.ECCADDR.TYPE.base, h)
  | .leadMinRead n h => some (PG.LEAD.MIN.addr n, h)
  | .limcntRead n h => some (PG.LIMCNT.LIMITS.addr n, h)
  | .gresRead n h => some (PG.GRES.EDGE.addr n, h)
  | .saddleCntRead h => some (SADDLE.CNT.CUTS.base, h)
  | .yieldRead n h => some (SADDLEN.YIELD.YIELDT.addr n, h)
  | .servoCntRead h => some (SERVO.CNT.RERUNS.base, h)
  | .servoLoopCntRead l h => some (SERVON.CNT.OVRS.addr l, h)
  | .scCntRead a h => some (POS.SC.CNT.AMPS.addr a, h)
  | .encCntRead k h => some (POS.ENC.CNT.QERRS.addr k, h)
  | .hallCntRead k h => some (POS.HALL.CNT.HBADS.addr k, h)
  | .prbDropsRead k h => some (POS.PRB.STAT.DROPS.addr k, h)
  | .csiCntRead k h => some (CSI.CNT.ECCC.addr k, h)
  | .ipCntRead c h => some (IP.CNT.FRAMES.addr c, h)
  | .ruleCntRead n h => some (SERVO.RULE.CNT.USED.addr n, h)
  | .prdropRead h => some (PG.PRDROP.V.base, h)
  | .prbsCountRead k e h => some (if e then LANE.ERRS.V.addr k else LANE.BITS.V.addr k, h)
  | .linkCntRead n h => some (LINK.CNT.RETRAIN.addr n, h)
  | .ethCntRead k h => some (ETH.CNT.RXFRM.addr k, h)
  | .vctCntRead h => some (VCT.CNT.CMDS.base, h)
  | .dramEccRead h => some (DRAM.ECC.CE.base, h)
  | .dramEccaddrRead h => some (DRAM.ECCADDR.TYPE.base, h)
  | .dramCntRead h => some (DRAM.CNT.RFMS.base, h)
  | .gorgeCntRead h => some (GORGE.CNT.JOBS.base, h)
  | .gorgeBytesRead c h => some (GORGEN.BYTES.IN.addr c, h)
  | .daleLostRead h => some (DALE.STAT.LOST.base, h)
  | .ecCountRead i h => some (EC.COUNT.V.addr i, h)
  | .hkWakeRead h => some (HK.WAKE.GRANTS.base, h)
  | _ => none

/-- What a read of the word at `a` by the request `q` does: the request leaves the network, one RSP carries the word to the requester, the
word's read-to-clear fields return to their reset values and its other fields stay. `u` is the state once the request is delivered. -/
def ReadDone (a : Nat) (q : Token) (s u t : State) : Prop :=
  (∃ n, t.net = s.net.erase q ++ [{ mkTok cwEp q.src.toNat kindRSP q.stream.toNat (u.readWord a) with seq := n }]) ∧
  (∀ r, regOf a = some r → ∀ f ∈ r.fields, f.fld.get (t.word a) = if f.acc = .rs then f.reset.at (r.indexOf a) else f.fld.get (u.word a))

/-- The ALU rows in their register form: core, guard, operands, mode bits, and the function of R109. -/
def aluRow : Instr → Option (Fin 18 × BitVec 4 × BitVec 5 × BitVec 5 × BitVec 5 × BitVec 2 × (Word → Word → Word))
  | .zAdd r g d a b m => some (r, g, d, a, b, m, fun x y => x + y)
  | .zSub r g d a b m => some (r, g, d, a, b, m, fun x y => x - y)
  | .zAnd r g d a b m => some (r, g, d, a, b, m, fun x y => x &&& y)
  | .zOr r g d a b m => some (r, g, d, a, b, m, fun x y => x ||| y)
  | .zXor r g d a b m => some (r, g, d, a, b, m, fun x y => x ^^^ y)
  | .zAndn r g d a b m => some (r, g, d, a, b, m, fun x y => x &&& ~~~ y)
  | .zShl r g d a b m => some (r, g, d, a, b, m, fun x y => x <<< (y.toNat % 64))
  | .zShr r g d a b m => some (r, g, d, a, b, m, fun x y => x >>> (y.toNat % 64))
  | .zSar r g d a b m => some (r, g, d, a, b, m, fun x y => x.sshiftRight (y.toNat % 64))
  | .zRor r g d a b m => some (r, g, d, a, b, m, fun x y => x.rotateRight (y.toNat % 64))
  | .zMin r g d a b m => some (r, g, d, a, b, m, fun x y => if x.toInt ≤ y.toInt then x else y)
  | .zMax r g d a b m => some (r, g, d, a, b, m, fun x y => if x.toInt ≤ y.toInt then y else x)
  | .zMinu r g d a b m => some (r, g, d, a, b, m, fun x y => if x.toNat ≤ y.toNat then x else y)
  | .zMaxu r g d a b m => some (r, g, d, a, b, m, fun x y => if x.toNat ≤ y.toNat then y else x)
  | .zMul r g d a b m => some (r, g, d, a, b, m, fun x y => x * y)
  | .zMulhu r g d a b m => some (r, g, d, a, b, m, fun x y => BitVec.ofNat 64 (x.toNat * y.toNat / 2 ^ 64))
  | .zMulhs r g d a b m => some (r, g, d, a, b, m, fun x y => BitVec.ofInt 64 (x.toInt * y.toInt / 2 ^ 64))
  | .zDivu r g d a b m => some (r, g, d, a, b, m, fun x y => if y = 0 then BitVec.allOnes 64 else x / y)
  | .zDivs r g d a b m => some (r, g, d, a, b, m, fun x y => if y = 0 then BitVec.allOnes 64 else x.sdiv y)
  | .zRemu r g d a b m => some (r, g, d, a, b, m, fun x y => if y = 0 then x else x % y)
  | .zRems r g d a b m => some (r, g, d, a, b, m, fun x y => if y = 0 then x else x.srem y)
  | .zAddsat r g d a b m => some (r, g, d, a, b, m, fun x y => BitVec.ofInt 64 (max (-2 ^ 63) (min (2 ^ 63 - 1) (x.toInt + y.toInt))))
  | .zSubsat r g d a b m => some (r, g, d, a, b, m, fun x y => BitVec.ofInt 64 (max (-2 ^ 63) (min (2 ^ 63 - 1) (x.toInt - y.toInt))))
  | _ => none

/-- The ALU rows of one operand, whose rb field is 0. -/
def unaryRow : Instr → Option (Fin 18 × BitVec 4 × BitVec 5 × BitVec 5 × BitVec 5 × BitVec 2 × (Word → Word → Prop))
  | .zClz r g d a b m => some (r, g, d, a, b, m, fun x v => if x = 0 then v = 64 else v.toNat = 63 - Nat.log2 x.toNat)
  | .zCtz r g d a b m => some (r, g, d, a, b, m, fun x v => (x = 0 → v = 64) ∧ (x ≠ 0 → x.getLsbD v.toNat = true ∧ ∀ i, i < v.toNat → x.getLsbD i = false))
  | .zPopc r g d a b m => some (r, g, d, a, b, m, fun x v => v.toNat = ((List.range 64).filter (fun i => x.getLsbD i)).length)
  | .zBswap r g d a b m => some (r, g, d, a, b, m, fun x v => ∀ i j, i < 8 → j < 8 → v.getLsbD (8 * i + j) = x.getLsbD (8 * (7 - i) + j))
  | .zSextw r g d a b m => some (r, g, d, a, b, m, fun x v => v = (x.setWidth 32).signExtend 64)
  | _ => none

/-- The immediate rows: core, guard, operands and result. -/
def immRow : Instr → Option (Fin 18 × BitVec 4 × BitVec 5 × (Core → Option Word))
  | .zAddi r g d a i => some (r, g, d, fun c => some (c.reg a + i.signExtend 64))
  | .zAndi r g d a i => some (r, g, d, fun c => some (c.reg a &&& i.zeroExtend 64))
  | .zOri r g d a i => some (r, g, d, fun c => some (c.reg a ||| i.zeroExtend 64))
  | .zXori r g d a i => some (r, g, d, fun c => some (c.reg a ^^^ i.zeroExtend 64))
  | .zShli r g d a i => some (r, g, d, fun c => if i.toNat < 64 then some (c.reg a <<< i.toNat) else none)
  | .zShri r g d a i => some (r, g, d, fun c => if i.toNat < 64 then some (c.reg a >>> i.toNat) else none)
  | .zSari r g d a i => some (r, g, d, fun c => if i.toNat < 64 then some ((c.reg a).sshiftRight i.toNat) else none)
  | .zMuli r g d a i => some (r, g, d, fun c => some (c.reg a * i.signExtend 64))
  | .zLi r g d i => some (r, g, d, fun _ => some (i.signExtend 64))
  | .zLso r g d i => some (r, g, d, fun c => if i.toNat < 2 ^ 16 then some ((c.reg d <<< 16) ||| i.zeroExtend 64) else none)
  | _ => none

/-- The loads: core, guard, destination, base, offset, width in bytes, whether the value is sign-extended. -/
def loadRow : Instr → Option (Fin 18 × BitVec 4 × BitVec 5 × BitVec 5 × BitVec 12 × Nat × Bool)
  | .zLb r g d a i => some (r, g, d, a, i, 1, true)
  | .zLbu r g d a i => some (r, g, d, a, i, 1, false)
  | .zLh r g d a i => some (r, g, d, a, i, 2, true)
  | .zLhu r g d a i => some (r, g, d, a, i, 2, false)
  | .zLw r g d a i => some (r, g, d, a, i, 4, true)
  | .zLwu r g d a i => some (r, g, d, a, i, 4, false)
  | .zLd r g d a i => some (r, g, d, a, i, 8, false)
  | _ => none

/-- The stores: core, guard, source, base, offset, width in bytes. -/
def storeRow : Instr → Option (Fin 18 × BitVec 4 × BitVec 5 × BitVec 5 × BitVec 12 × Nat)
  | .zSb r g d a i => some (r, g, d, a, i, 1)
  | .zSh r g d a i => some (r, g, d, a, i, 2)
  | .zSw r g d a i => some (r, g, d, a, i, 4)
  | .zSd r g d a i => some (r, g, d, a, i, 8)
  | _ => none

/-- A compare code of R108 as a condition on two words. -/
def Compared (cc : BitVec 3) (x y : Word) : Bool :=
  match cc with
  | 0#3 => x == y
  | 1#3 => x != y
  | 2#3 => x.slt y
  | 3#3 => !x.slt y
  | 4#3 => x.ult y
  | 5#3 => !x.ult y
  | 6#3 => x.getLsbD (y.toNat % 64)
  | _ => !x.getLsbD (y.toNat % 64)

/-- A state word of R123 as GETS reads it. -/
def stateWordOf (r : Nat) (s : State) (c : Core) (i : BitVec 5) : Word :=
  match i.toNat with
  | 0 => c.epc
  | 1 => wd (c.code + 256 * c.async.toNat + 512 * c.more.toNat)
  | 2 => c.info
  | 3 => wd (c.ex.toNat + 2 * c.pend.isSome.toNat + 4 * c.maska.toNat)
  | 4 => wd (r + 256 * s.f CORE.STAT.PHYS r + 65536 * s.f CORE.STAT.RESTARTS r)
  | 5 => c.icount
  | 6 => c.save0
  | 7 => c.save1
  | 8 => wd (min (2 ^ 64 - 1) c.blkns)
  | _ => wd (c.posted + 256 * c.bulks.length)

/-- The core's new state of the rows that touch nothing but their core, where the row has its effect at once: core, guard, and the core after it. -/
def coreRow : Instr → Option (Fin 18 × BitVec 4 × (State → Core → Option Core))
  | .zCmp r g p cc a b => some (r, g, fun _ c => some { c.setPred p.toNat (Compared cc (c.reg a) (c.reg b)) with pc := c.pc + 4 })
  | .zCmpi r g p cc a i => some (r, g, fun _ c => some { c.setPred p.toNat (Compared cc (c.reg a) (i.signExtend 64)) with pc := c.pc + 4 })
  | .zPlog r g p a b fn => some (r, g, fun _ c => some { c.setPred p.toNat
      (if fn = 0 then c.pred a.toNat && c.pred b.toNat else if fn = 1 then c.pred a.toNat || c.pred b.toNat
       else if fn = 2 then c.pred a.toNat != c.pred b.toNat else c.pred a.toNat && !c.pred b.toNat) with pc := c.pc + 4 })
  | .zBr r g o => some (r, g, fun _ c => if 0 ≤ (c.pc : Int) + 4 * o.toInt ∧ (c.pc : Int) + 4 * o.toInt ≤ 0xFFFC then
      some { c with pc := (c.pc + 4 * o.toInt).toNat } else none)
  | .zCall r g o => some (r, g, fun _ c => if 0 ≤ (c.pc : Int) + 4 * o.toInt ∧ (c.pc : Int) + 4 * o.toInt ≤ 0xFFFC then
      some { c.setReg 31 (wd (c.pc + 4)) with pc := (c.pc + 4 * o.toInt).toNat } else none)
  | .zJalr r g d a => some (r, g, fun _ c => if (c.reg a).toNat % 4 = 0 ∧ (c.reg a).toNat ≤ 0xFFFC then
      some { c.setReg d (wd (c.pc + 4)) with pc := (c.reg a).toNat } else none)
  | .zTpoll r g p tp => some (r, g, fun _ c => if p.toNat < 8 ∧ tp ≠ 6 then
      some { c.setPred p.toNat (!(c.port tp.toNat).buf.isEmpty) with pc := c.pc + 4 } else none)
  | .zTtag r g d tp sel => some (r, g, fun _ c => match (c.port tp.toNat).rx with
      | some q => if tp ≠ 6 ∧ sel.toNat < 7 then some { c.setReg d
          (if sel = 0 then wd q.dest.toNat else if sel = 1 then wd q.stream.toNat else if sel = 2 then wd q.kind.toNat
           else if sel = 3 then wd (q.last.toNat + 2 * q.timed.toNat + 4 * q.urgent.toNat + 8 * q.err.toNat)
           else if sel = 4 then wd q.seq.toNat else if sel = 5 then wd q.time.toNat else wd q.src.toNat) with pc := c.pc + 4 } else none
      | none => none)
  | .zTset r g a tp sel => some (r, g, fun _ c =>
      let q := c.port tp.toNat
      let v := c.reg a
      let set (q : Port) : Option Core := some { c.setPort tp.toNat q with pc := c.pc + 4 }
      if tp = 6 then none
      else if sel = 0 then set { q with dest := v.setWidth 10, seq := if v.setWidth 10 = q.dest then q.seq else 0 }
      else if sel = 1 then set { q with stream := v.setWidth 8, seq := if v.setWidth 8 = q.stream then q.seq else 0 }
      else if sel = 2 then set { q with kind := v.setWidth 4 }
      else if sel = 3 then set { q with flags := v.setWidth 4 }
      else if sel = 5 then set { q with time := v.setWidth 48 }
      else if sel = 7 then set { q with tinc := v.setWidth 32 }
      else none)
  | .zTsel r g d sel => some (r, g, fun _ c => if 0 < sel.toNat ∧ sel.toNat < 256 ∧ sel.getLsbD 6 = false then
      ((List.range 8).find? (fun p => sel.getLsbD p && !(c.port p).buf.isEmpty)).map (fun p => { c.setReg d (wd p) with pc := c.pc + 4 }) else none)
  | .zTcred r g d tp => some (r, g, fun s c => if tp ≠ 6 then
      some { c.setReg d (wd (s.credits (c.port tp.toNat) (c.port tp.toNat).dest.toNat)) with pc := c.pc + 4 } else none)
  | .zGets r g d i => some (r, g, fun s c => if i.toNat < 10 then some { c.setReg d (stateWordOf r s c i) with pc := c.pc + 4 } else none)
  | .zPuts r g i b => some (r, g, fun _ c => if i = 0 then some { c with epc := c.reg b, pc := c.pc + 4 }
      else if i = 3 then some { c with maska := (c.reg b).getLsbD 2, pc := c.pc + 4 }
      else if i = 6 then some { c with save0 := c.reg b, pc := c.pc + 4 }
      else if i = 7 then some { c with save1 := c.reg b, pc := c.pc + 4 }
      else if i.toNat < 10 then some { c with pc := c.pc + 4 } else none)
  | .zEret r g => some (r, g, fun _ c => if c.ex then some { c with ex := false, pc := c.epc.toNat } else none)
  | .zFence r g => some (r, g, fun _ c => if c.posted = 0 ∧ c.bulks = [] then some { c with pc := c.pc + 4 } else none)
  | .zWaitt r g a => some (r, g, fun s c => if (c.reg a).toNat ≤ s.mt then some { c with pc := c.pc + 4 } else none)
  | .zRget r g d a b => some (r, g, fun _ c => let n := (c.reg b).toNat
      if 1 ≤ n ∧ n ≤ 8192 ∧ (c.reg d).toNat % 8 = 0 ∧ 0x10000 ≤ (c.reg d).toNat ∧ (c.reg d).toNat + 8 * n ≤ 0x20000 ∧
          (c.reg a).toNat % 8 = 0 ∧ c.bulks.length < 4 then
        some { c with bulks := c.bulks ++ [⟨freeStream c.bulks, (c.reg a).toNat % 2 ^ 48, localAddr r (c.reg d).toNat, n⟩], pc := c.pc + 4 } else none)
  | .zRput r g d a b => some (r, g, fun _ c => let n := (c.reg b).toNat
      if 1 ≤ n ∧ n ≤ 8192 ∧ (c.reg a).toNat % 8 = 0 ∧ 0x10000 ≤ (c.reg a).toNat ∧ (c.reg a).toNat + 8 * n ≤ 0x20000 ∧
          (c.reg d).toNat % 8 = 0 ∧ c.bulks.length < 4 then
        some { c with bulks := c.bulks ++ [⟨freeStream c.bulks, localAddr r (c.reg a).toNat, (c.reg d).toNat % 2 ^ 48, n⟩], pc := c.pc + 4 } else none)
  | .zRmove r g d a b => some (r, g, fun _ c => let n := (c.reg b).toNat
      if 1 ≤ n ∧ n ≤ 8192 ∧ (c.reg a).toNat % 8 = 0 ∧ (c.reg d).toNat % 8 = 0 ∧ c.bulks.length < 4 then
        some { c with bulks := c.bulks ++ [⟨freeStream c.bulks, (c.reg a).toNat % 2 ^ 48, (c.reg d).toNat % 2 ^ 48, n⟩], pc := c.pc + 4 } else none)
  | _ => none

/-- The remote rows: core, guard, address register, whether the write is posted, the address's legality, and the endpoint, kind and words of the request
(R114, R115). -/
def remoteRow : Instr → Option (Fin 18 × BitVec 4 × (Core → Bool) × Bool × (State → Core → Nat × Nat × List Word))
  | .zGetmt r g _ => some (r, g, fun _ => true, false, fun _ _ => (0x12, 4, [wd TB.MT.V.base]))
  | .zRld r g _ a => some (r, g, fun c => (c.reg a).toNat % 8 == 0, false, fun s c =>
      (s.remoteEp (remoteAddr (c.reg a)), 6, [mrdPayload (remoteAddr (c.reg a)) 1]))
  | .zRst r g a b => some (r, g, fun c => (c.reg a).toNat % 8 == 0, true, fun s c =>
      (s.remoteEp (remoteAddr (c.reg a)), 7, [mwrPayload (remoteAddr (c.reg a)) 1 0 true, c.reg b]))
  | .zRswp r g _ a b => some (r, g, fun c => (c.reg a).toNat % 8 == 0, false, fun s c =>
      (s.remoteEp (remoteAddr (c.reg a)), 7, [mwrPayload (remoteAddr (c.reg a)) 1 1 false, c.reg b]))
  | .zRadd r g _ a b => some (r, g, fun c => (c.reg a).toNat % 8 == 0, false, fun s c =>
      (s.remoteEp (remoteAddr (c.reg a)), 7, [mwrPayload (remoteAddr (c.reg a)) 1 2 false, c.reg b]))
  | .zRcas r g d a b => some (r, g, fun c => (c.reg a).toNat % 8 == 0, false, fun s c =>
      (s.remoteEp (remoteAddr (c.reg a)), 7, [mwrPayload (remoteAddr (c.reg a)) 1 3 false, c.reg d, c.reg b]))
  | .zCwrd r g _ a => some (r, g, fun c => (c.reg a).toNat % 8 == 0, false, fun _ c => (0x12, 4, [wd (remoteAddr (c.reg a))]))
  | .zCwwr r g a b => some (r, g, fun c => (c.reg a).toNat % 8 == 0, true, fun _ c => (0x12, 3, [wd (remoteAddr (c.reg a) + 1), c.reg b]))
  | _ => none

/-- The network holds, behind what it held, a message of `ws` from t6 of core `r`. -/
def T6Sent (r dest kind : Nat) (ws : List Word) (s t : State) : Prop :=
  ∃ l : List Token, t.net = s.net ++ l ∧ l.map (·.payload) = ws ∧
    ∀ i (h : i < l.length), l[i].src.toNat = portEp r 6 ∧ l[i].dest = BitVec.ofNat 10 dest ∧ l[i].kind = BitVec.ofNat 4 kind ∧ l[i].stream = 0 ∧
      l[i].last = decide (i + 1 = l.length)

/-- The rows of the layer instructions, LEND apart: the path generator and the operations that are the row's. -/
def layerRow : Instr → Option (Fin 26 × (LOp → Prop))
  | .pgJump n => some (n, fun o => ∃ zv z x y, o = .jump zv z x y)
  | .pgMark n => some (n, fun o => ∃ zv z x y, o = .mark zv z x y)
  | .pgJumpr n => some (n, fun o => ∃ dx dy, o = .jumpr dx dy)
  | .pgMarkr n => some (n, fun o => ∃ dx dy, o = .markr dx dy)
  | .pgArc n => some (n, fun o => ∃ sw cx cy, o = .arc sw cx cy)
  | .pgPark n => some (n, fun o => ∃ x y, o = .park x y)
  | .pgSpeed n => some (n, fun o => ∃ j m, o = .speed j m)
  | .pgPower n => some (n, fun o => ∃ p, o = .power p)
  | .pgFocus n => some (n, fun o => ∃ z, o = .focus z)
  | .pgRamp n => some (n, fun o => ∃ a b, o = .ramp a b)
  | .pgGate n => some (n, fun o => ∃ g, o = .gate g)
  | .pgOwn n => some (n, fun o => ∃ k f, o = .own k f)
  | .pgPart n => some (n, fun o => ∃ p, o = .part p)
  | .pgVid n => some (n, fun o => ∃ v, o = .vid v)
  | .pgNop n => some (n, fun o => o = .nop)
  | .pgDwell n => some (n, fun o => ∃ t, o = .dwell t)
  | .pgMarker n => some (n, fun o => ∃ m, o = .marker m)
  | .pgTrig n => some (n, fun o => ∃ en p w e, o = .trig en p w e)
  | .pgRecord n => some (n, fun o => ∃ l, o = .record l)
  | .pgLook n => some (n, fun o => ∃ b, o = .look b)
  | _ => none

/-- The instructions that change the modal state alone (R134 to R138). -/
def isModal (o : LOp) : Bool :=
  match o with
  | .power _ | .focus _ | .ramp .. | .gate _ | .own .. | .part _ | .vid _ | .nop | .trig .. | .record _ | .look _ => true
  | _ => false

/-- An untimed job command of OP `op`, well formed, that path generator `n` takes. -/
def JobToken (s : State) (n op : Nat) (q : Token) : Prop :=
  s.canonical = true ∧ srcAllowed (0x40 + n) q.src = true ∧ q.kind = 2#4 ∧ q.err = false ∧ q.timed = false ∧ q.stream = 0#8 ∧
  bits q.payload 63 56 = op ∧ pgCmdFormed q.payload = true

/-- A path generator turns a command away: JOB.REFUSED, an info-class event, its state as it was. -/
def TurnedAway (n : Nat) (s t : State) : Prop :=
  t.f PG.JOB.REFUSED n = 1 ∧ t.pgState n = s.pgState n ∧ t.pg n = s.pg n ∧ ∃ r, t.lines = s.lines ++ [r] ∧ r.cls = 3 ∧ r.source = 7

/-- What a command of the network asks that endpoint `ep` does not owe an answer or an error: untimed and not poisoned. -/
def AtOnce (s : State) (q : Token) : Prop := s.canonical = true ∧ q.timed = false ∧ q.err = false

/-- The last token sent refuses a message: CODE `code`, the seq and kind of `q`. -/
def LastRefuses (q : Token) (code : Nat) (t : State) : Prop :=
  ∃ u, t.net.getLast? = some u ∧ u.err = true ∧ u.kind = 5#4 ∧ u.dest = q.src ∧ u.payload = refusalPayload q.seq.toNat q.kind.toNat code

/-- The rows that write a word whole, its address, fields, entry and data. -/
def dataRow : Instr → Option (Nat × List Fld × Nat × Word × CwFrom)
  | .coreImgWrite r h d => some (CORE.IMG.VALID.addr r, [CORE.IMG.VALID, CORE.IMG.DATA, CORE.IMG.BASE], r, d, h)
  | .wringWrite n h d => some (PG.WRING.BASE.addr n, [PG.WRING.BASE, PG.WRING.LOG2N], n, d, h)
  | .hashWrite i h m => some (DRAM.MAP.HASH.MASK.addr i, [DRAM.MAP.HASH.MASK], i, m, h)
  | .sreqWrite h d => some (DRAM.CTRL.SREQ.base, [DRAM.CTRL.SREQ], 0, d, h)
  | .laneModeWrite k h c => some (LANE.CFG.MODE.addr (60 + k), [LANE.CFG.MODE, LANE.CFG.ETHALT], 60 + k, c, h)
  | _ => none

/-- The rows of the table that are one VCT command: its OPCODE and the packet. -/
def vctOp : Instr → Option (Nat × VctIn)
  | .ping p => some (0x01, p)
  | .status p => some (0x02, p)
  | .vctCwrd p => some (0x03, p)
  | .vctCwwr p => some (0x04, p)
  | .rxopen p => some (0x10, p)
  | .rxclose p => some (0x11, p)
  | .rxabort p => some (0x12, p)
  | .rxstat p => some (0x13, p)
  | .deliver p => some (0x20, p)
  | .subscribe p => some (0x30, p)
  | .keyset p => some (0x40, p)
  | .keyclr p => some (0x41, p)
  | .timeset p => some (0x50, p)
  | .fwstage p => some (0x60, p)
  | .vctReset p => some (0x70, p)
  | .daleup p => some (0x81, p)
  | _ => none

/-- A well formed packet of TYPE `typ` for this device reaches an open device by a port with LINK (steps 1 and 2 of R371). -/
def VctHere (s : State) (p : VctIn) (typ : Nat) (auth : Bool) : Prop :=
  s.canonical = true ∧ s.f VCT.STAT.OPEN = 1 ∧ s.f ETH.STAT.LINK p.peer.port = 1 ∧ s.f ETH.CFG.EN p.peer.port = 1 ∧ 32 ≤ p.bytes.length ∧
  (vctParse p.bytes).target = s.serial ∧ (vctParse p.bytes).formed p.bytes.length = true ∧ (vctParse p.bytes).typ = typ ∧
  (vctParse p.bytes).auth = auth

/-- A command without a check, of OPCODE `op` with `len` payload bytes. -/
def VctPlain (s : State) (p : VctIn) (op len : Nat) : Prop :=
  VctHere s p 1 false ∧ (vctParse p.bytes).opcode = op ∧ (vctParse p.bytes).len = len

/-- A command whose slot holds `key` and is open, with nothing held behind a mirror write, and whose check is right. -/
def VctChecked (s : State) (p : VctIn) (key : List Byte) : Prop :=
  let x := vctParse p.bytes
  VctHere s p 1 true ∧ (s.slotKey x.slot).key = some key ∧ s.f VCT.SLOT.CFG.CLOSED x.slot = 0 ∧ s.f VCT.SLOT.CFG.EXH x.slot = 0 ∧
  x.check = vctMac key (p.bytes.take (32 + x.len)) ∧ (s.slotKey x.slot).held = [] ∧ x.counter < s.f VCT.SLOT.MIRROR.V x.slot + 2 ^ 20

/-- A command that R371 lets execute: a right check, a counter above the slot's, every right. -/
def VctSigned (s : State) (p : VctIn) (op len : Nat) (key : List Byte) : Prop :=
  let x := vctParse p.bytes
  VctChecked s p key ∧ x.opcode = op ∧ x.len = len ∧ s.f VCT.SLOT.CTR.V x.slot < x.counter ∧ s.f VCT.SLOT.CFG.RIGHTS x.slot = 31

/-- The last packet sent is the response to `p`: a code and a payload, with a check where the command had one. -/
def VctAnswered (key : Option (List Byte)) (p : VctIn) (code : Nat) (payload : List Byte) (s t : State) : Prop :=
  t.host.out.head? = some (vctResponse s p (vctParse p.bytes) key code (vctParse p.bytes).counter payload)

/-- A command with a check has executed: it is answered and its slot's counter stands at the packet's. -/
def VctDone (key : List Byte) (p : VctIn) (code : Nat) (s t : State) : Prop :=
  VctAnswered (some key) p code [] s t ∧ t.f VCT.SLOT.CTR.V (vctParse p.bytes).slot = (vctParse p.bytes).counter

/-- The releases of a hold: the command, the holds that stay after it, whether the time base keeps running, and what boot meets. -/
def releaseRow (s : State) : Instr → Option (Holds × Bool × BootIn)
  | .porstRelease b => some ({ s.holds with porst := false }, false, b)
  | .resetRelease b => some ({ s.holds with reset := false }, true, b)
  | .brownoutRecovery b => if s.holds.rails = [] then none else some ({ s.holds with rails := [] }, false, b)
  | _ => none

/-- The device stands in reset: every block at its reset value, the vault's words apart, and the time base's where it keeps running; the boot flash
stays. -/
def HeldInReset (keepTb : Bool) (s t : State) : Prop :=
  (∀ a, survives keepTb a = false → t.word a = cwReset a) ∧ (∀ a, survives keepTb a = true → t.word a = s.word a) ∧
  t.mt = (if keepTb then s.mt else 0) ∧ t.mem = [] ∧ t.net = [] ∧ t.flash = s.flash ∧ t.vault = s.vault ∧ t.lasersOff ∧ t.basin.goff = true ∧
  ∀ n, 48 ≤ n → n < 108 → (t.col n).hiz = true

/-- Rows that raise a synchronous exception in state `s`: the core, the guard, the cause and INFO (R118). -/
def syncRow (s : State) : Instr → Option (Fin 18 × BitVec 4 × Nat × Word)
  | .zBrk r g => some (r, g, 8, 0)
  | .zBr r g o =>
    let a := (s.core r).pc + 4 * o.toInt
    if 0xFFFC < a ∨ a < 0 then some (r, g, 3, wdi a) else none
  | .zCall r g o =>
    let a := (s.core r).pc + 4 * o.toInt
    if 0xFFFC < a ∨ a < 0 then some (r, g, 3, wdi a) else none
  | .zJalr r g _ b =>
    let a := (s.core r).reg b
    if a.toNat % 4 ≠ 0 then some (r, g, 2, a) else if 0xFFFC < a.toNat then some (r, g, 3, a) else none
  | _ => none

/-- Commands that store to no byte of memory. -/
def storesNothing : Instr → Bool
  | .queuePush .. | .queueDropsRead .. | .collRead .. | .pllLock | .timerefLoss | .pllRelock .. | .slewEnd | .colRelease .. | .colSecondEdge ..
  | .colSlackRead .. | .colLateRead .. | .colCoincRead .. | .triggerRelease .. | .mrd .. | .plainScrub | .plainEccRead .. | .plainEccaddrRead ..
  | .cwr .. | .refusalPoint .. | .barrierFanout .. | .barrierJudge | .asyncCauseTaken .. | .portTimeout .. | .coreRotation .. | .pgDwellEnd ..
  | .windowPoll .. | .leadUpdate .. | .leadMinRead .. | .arm .. | .pause .. | .resume .. | .resumeRun .. | .abort .. | .disarm .. | .plan ..
  | .powerTarget .. | .trackingTarget .. | .limcntRead .. | .gresRead .. | .mapCheckDone .. | .mapSwap .. | .stare .. | .saddleCntRead ..
  | .yieldRead .. | .coefficientSet .. | .setpointAccept .. | .ctrimSet .. | .pairMissing .. | .auxSetpoint .. | .fftCopyDone .. | .unitFail ..
  | .servoCntRead .. | .servoLoopCntRead .. | .scCntRead .. | .encEdge .. | .indexEvent .. | .hallChange .. | .hallTimeout .. | .speedUpdate ..
  | .encCntRead .. | .hallCntRead .. | .probeEvent .. | .probeRecord .. | .prbDropsRead .. | .emuUpdate .. | .linePacket .. | .cameraSetting ..
  | .csiCntRead .. | .ipCntRead .. | .i2cTransaction .. | .i2cDone .. | .ruleRecord .. | .ruleCntRead .. | .processRecord .. | .prdropRead ..
  | .auxMove .. | .moveStart .. | .moveComplete .. | .settleTimeout .. | .auxStop .. | .jog .. | .holdiSet .. | .hubLinkTimeout .. | .detectPoll ..
  | .symbolLock .. | .capRecord .. | .superframeStart .. | .sfsReceive .. | .smpBlockReceive .. | .tokBlockReceive .. | .prbsEnd .. | .eqLimit ..
  | .prbsCountRead .. | .linkCntRead .. | .transmitStamp .. | .announce .. | .syncLoss | .announceTimeout | .digestDone .. | .fwstageComplete ..
  | .upload .. | .reply .. | .uplSend .. | .uploadRetransmit .. | .ethCntRead .. | .vctCntRead .. | .pageClose .. | .refreshTick .. | .mr4Poll ..
  | .rfm .. | .powerDownEntry .. | .selfRefreshEntry .. | .selfRefreshExit .. | .zqCalibration .. | .dqsOscillator .. | .dramScrub | .dramEccRead ..
  | .dramEccaddrRead .. | .dramCntRead .. | .gorgeJobSubmit .. | .gorgeJobStart .. | .gorgeCntRead .. | .gorgeBytesRead .. | .errorMinimumEnd
  | .daleLostRead .. | .ecCountRead .. | .brownoutWarning .. | .throttleSlot | .blockSleep .. | .wakePermitGrant | .permitReturn | .hkWakeRead ..
  | .vaultSupplyLoss .. | .crystalStop | .tamper | .repairRecordWrite | .blockLock .. | .safeInputRise .. | .vaultSupplyReturn | .crystalRestart
  | .rspAbsorbed .. | .dramThrottleEnd .. | .wakeComplete .. | .earlyWake .. | .eachUsOfMt => true
  | _ => false

/-- Commands that reach no core: no register, predicate, port or core state word. -/
def leavesCores : Instr → Bool
  | .queueEnqueue .. | .queuePush .. | .queueDropsRead .. | .collRead .. | .pllLock | .timerefLoss | .pllRelock .. | .slewEnd | .colAccept ..
  | .colRelease .. | .colSecondEdge .. | .colSlackRead .. | .colLateRead .. | .colCoincRead .. | .triggerStartPeriodic .. | .triggerStop ..
  | .triggerSingle .. | .triggerRelease .. | .mrd .. | .mwrWrite .. | .swap .. | .fetchAdd .. | .compareAndSwap .. | .plainScrub | .plainEccRead ..
  | .plainEccaddrRead .. | .cwr .. | .refusalPoint .. | .barrierFanout .. | .barrierJudge | .barrier .. | .pgJump .. | .pgMark .. | .pgJumpr ..
  | .pgMarkr .. | .pgArc .. | .pgPark .. | .pgSpeed .. | .pgPower .. | .pgFocus .. | .pgRamp .. | .pgGate .. | .pgOwn .. | .pgPart .. | .pgVid ..
  | .pgNop .. | .pgDwell .. | .pgDwellEnd .. | .pgMarker .. | .pgLend .. | .pgTrig .. | .pgRecord .. | .pgLook .. | .windowPoll .. | .leadUpdate ..
  | .underrun .. | .leadMinRead .. | .arm .. | .pause .. | .pausePoint .. | .resume .. | .resumeRun .. | .abort .. | .disarm .. | .plan ..
  | .segmentCommit .. | .interpolate .. | .powerTarget .. | .gateSample .. | .sampleMissing .. | .trackingTarget .. | .trackingCycle ..
  | .limcntRead .. | .gresRead .. | .mapCheckDone .. | .mapSwap .. | .chainDecide .. | .stare .. | .saddleCntRead .. | .yieldRead ..
  | .coefficientSet .. | .setpointAccept .. | .galvoCycle .. | .powerLoopCycle .. | .ctrimSet .. | .pairMissing .. | .auxPositionCycle ..
  | .auxCurrentCycle .. | .auxSetpoint .. | .fftCopyDone .. | .unitFail .. | .servoCntRead .. | .servoLoopCntRead .. | .scCntRead .. | .encEdge ..
  | .indexEvent .. | .hallChange .. | .hallTimeout .. | .speedUpdate .. | .encCntRead .. | .hallCntRead .. | .probeEvent .. | .probeRecord ..
  | .prbDropsRead .. | .emuUpdate .. | .frameStart .. | .linePacket .. | .frameEnd .. | .fswinExpiry .. | .cameraSetting .. | .csiCntRead ..
  | .ipCntRead .. | .i2cTransaction .. | .i2cDone .. | .ruleRecord .. | .ruleCntRead .. | .stareRecord | .processRecord .. | .prdropRead ..
  | .auxMove .. | .moveStart .. | .moveComplete .. | .settleTimeout .. | .auxStop .. | .jog .. | .holdiSet .. | .hubLinkTimeout .. | .detectPoll ..
  | .symbolLock .. | .linkStateTimeout .. | .capRecord .. | .superframeStart .. | .sfsReceive .. | .smpBlockReceive .. | .tokBlockReceive ..
  | .refclkLoss .. | .prbsEnd .. | .eqLimit .. | .prbsCountRead .. | .linkCntRead .. | .transmitStamp .. | .linkChange .. | .ptpSync ..
  | .announce .. | .syncLoss | .announceTimeout | .digestDone .. | .fwstageComplete .. | .upload .. | .reply .. | .uplSend .. | .uploadRetransmit ..
  | .ethCntRead .. | .vctCntRead .. | .dramTraining .. | .pageClose .. | .refreshTick .. | .mr4Poll .. | .rfm .. | .powerDownEntry ..
  | .selfRefreshEntry .. | .selfRefreshExit .. | .zqCalibration .. | .dqsOscillator .. | .dramScrub | .dramEccRead .. | .dramEccaddrRead ..
  | .dramCntRead .. | .gorgeJobSubmit .. | .gorgeJobStart .. | .gorgeJobEnd .. | .gorgeAbort .. | .gorgeCntRead .. | .gorgeBytesRead ..
  | .statusRaise | .errorMinimumEnd | .safeInputFall .. | .safeDiscrepancy | .daleLostRead .. | .ecCountRead .. | .brownoutWarning ..
  | .blockSleep .. | .wakePermitGrant | .permitReturn | .hkWakeRead .. | .vaultSupplyLoss .. | .crystalStop | .tamper | .repairRecordWrite
  | .blockLock .. | .badBlock .. | .safeInputRise .. | .vaultSupplyReturn | .crystalRestart | .rspAbsorbed .. | .dramThrottleEnd ..
  | .wakeComplete .. | .earlyWake .. | .eachUsOfMt => true
  | _ => false

/-- Commands that may write the boot flash: the boots, the commands of the host, writes of BOOT.CTRL by a CWW, repair, tamper, mirrors. -/
def reachesFlash : Instr → Bool
  | .queuePop .. | .queueCfgWrite .. | .tbPtWrite .. | .syncBeacon | .colFaultClear .. | .colEnClear .. | .colEnSet .. | .cww .. | .coreStart ..
  | .coreHalt .. | .coreStep .. | .coreImgWrite .. | .wringWrite .. | .straceEnSet .. | .trkEnClear .. | .mapnextWrite .. | .narmWrite ..
  | .hrecEnSet .. | .fftnWrite .. | .loopEnable .. | .loopDisable .. | .stbaseWrite .. | .scEnable .. | .indexHome .. | .probeArm .. | .emuEnable ..
  | .ipEnable .. | .ruleEnable .. | .ruleDisable .. | .lrecEnSet .. | .auxEnable .. | .auxDisable .. | .auxFaultClear .. | .linkEnable ..
  | .linkRestart .. | .laneModeWrite .. | .prbsStart .. | .ethernetFrame .. | .ping .. | .status .. | .vctCwrd .. | .vctCwwr .. | .rxopen ..
  | .dataChunk .. | .rxclose .. | .rxabort .. | .rxstat .. | .deliver .. | .subscribe .. | .keyset .. | .keyclr .. | .timeset .. | .fwstage ..
  | .fwstageComplete .. | .vctReset .. | .daleup .. | .mirrorWrite .. | .uack .. | .hashWrite .. | .sreqWrite .. | .statusAcknowledge .. | .lrearm ..
  | .errel .. | .injection .. | .dalePop .. | .daleFreeze .. | .ecCtrlWrite .. | .porstAssert | .porstRelease .. | .resetRelease ..
  | .brownoutReset .. | .housekeepingRound .. | .vaultSupplyLoss .. | .tamper | .mrel .. | .repairRecordWrite | .confirm .. | .svnburn ..
  | .revoke .. | .resetAssert | .brownoutRecovery .. | .tapAccess .. => true
  | _ => false

/-- Commands that act at a stated instant and so may move MT. -/
def movesTime : Instr → Bool
  | .pllLock | .slewEnd | .syncBeacon | .colRelease .. | .colSecondEdge .. | .triggerRelease .. | .mrd .. | .mwrWrite .. | .swap .. | .fetchAdd ..
  | .compareAndSwap .. | .barrierJudge | .barrier .. | .portTimeout .. | .bulkComplete .. | .pgJump .. | .pgMark .. | .pgJumpr .. | .pgMarkr ..
  | .pgArc .. | .pgPark .. | .pgSpeed .. | .pgPower .. | .pgFocus .. | .pgRamp .. | .pgGate .. | .pgOwn .. | .pgPart .. | .pgVid .. | .pgNop ..
  | .pgDwell .. | .pgDwellEnd .. | .pgMarker .. | .pgLend .. | .pgTrig .. | .pgRecord .. | .pgLook .. | .underrun .. | .pausePoint .. | .resumeRun ..
  | .segmentCommit .. | .interpolate .. | .trackingCycle .. | .chainDecide .. | .stare .. | .galvoCycle .. | .pairMissing .. | .auxPositionCycle ..
  | .auxCurrentCycle .. | .encEdge .. | .indexEvent .. | .hallChange .. | .hallTimeout .. | .speedUpdate .. | .probeEvent .. | .probeRecord ..
  | .emuUpdate .. | .fswinExpiry .. | .stareRecord | .moveStart .. | .moveComplete .. | .settleTimeout .. | .holdiSet .. | .hubLinkTimeout ..
  | .detectPoll .. | .linkStateTimeout .. | .superframeStart .. | .sfsReceive .. | .smpBlockReceive .. | .tokBlockReceive .. | .prbsEnd ..
  | .ethernetFrame .. | .ptpSync .. | .syncLoss | .ping .. | .status .. | .vctCwrd .. | .vctCwwr .. | .rxopen .. | .dataChunk .. | .rxclose ..
  | .rxabort .. | .rxstat .. | .deliver .. | .subscribe .. | .keyset .. | .keyclr .. | .timeset .. | .fwstage .. | .vctReset .. | .daleup ..
  | .mirrorWrite .. | .uack .. | .uploadRetransmit .. | .pageClose .. | .refreshTick .. | .powerDownEntry .. | .selfRefreshEntry ..
  | .selfRefreshExit .. | .dramScrub | .errorMinimumEnd | .safeDiscrepancy | .porstAssert | .porstRelease .. | .resetRelease .. | .brownoutReset ..
  | .housekeepingRound .. | .throttleSlot | .permitReturn | .repairRecordWrite | .resetAssert | .brownoutRecovery .. | .dramThrottleEnd ..
  | .wakeComplete .. | .eachUsOfMt => true
  | _ => false

/-- Commands that reach no path generator. -/
def leavesPathGenerators : Instr → Bool
  | .queueEnqueue .. | .queuePush .. | .pllLock | .timerefLoss | .pllRelock .. | .slewEnd | .colRelease .. | .colSecondEdge .. | .triggerRelease ..
  | .mrd .. | .mwrWrite .. | .swap .. | .fetchAdd .. | .compareAndSwap .. | .plainScrub | .refusalPoint .. | .barrierFanout .. | .barrierJudge
  | .zAdd .. | .zSub .. | .zAnd .. | .zOr .. | .zXor .. | .zAndn .. | .zShl .. | .zShr .. | .zSar .. | .zRor .. | .zMin .. | .zMax .. | .zMinu ..
  | .zMaxu .. | .zClz .. | .zCtz .. | .zPopc .. | .zBswap .. | .zMul .. | .zMulhu .. | .zMulhs .. | .zDivu .. | .zDivs .. | .zRemu .. | .zRems ..
  | .zSextw .. | .zAddsat .. | .zSubsat .. | .zAddi .. | .zAndi .. | .zOri .. | .zXori .. | .zShli .. | .zShri .. | .zSari .. | .zMuli .. | .zLi ..
  | .zLso .. | .zLb .. | .zLbu .. | .zLh .. | .zLhu .. | .zLw .. | .zLwu .. | .zLd .. | .zSb .. | .zSh .. | .zSw .. | .zSd .. | .zCmp .. | .zCmpi ..
  | .zPlog .. | .zBr .. | .zCall .. | .zJalr .. | .portTokenArrival .. | .zTpoll .. | .zTtag .. | .zTset .. | .zTsendl .. | .zTsel .. | .zTcred ..
  | .zGets .. | .zPuts .. | .zEret .. | .zBrk .. | .zHalt .. | .zFence .. | .zGetmt .. | .zWaitt .. | .zRld .. | .zRst .. | .zRswp .. | .zRadd ..
  | .zRcas .. | .zCwrd .. | .zCwwr .. | .zRget .. | .zRput .. | .zRmove .. | .asyncCauseTaken .. | .portTimeout .. | .postedWriteAck ..
  | .bulkComplete .. | .coreRotation .. | .coreFailed .. | .coreRestart .. | .resumeRun .. | .mapCheckDone .. | .coefficientSet ..
  | .setpointAccept .. | .galvoCycle .. | .ctrimSet .. | .pairMissing .. | .auxPositionCycle .. | .auxCurrentCycle .. | .auxSetpoint ..
  | .fftCopyDone .. | .unitFail .. | .encEdge .. | .indexEvent .. | .hallChange .. | .hallTimeout .. | .speedUpdate .. | .probeEvent ..
  | .probeRecord .. | .emuUpdate .. | .frameStart .. | .linePacket .. | .frameEnd .. | .fswinExpiry .. | .cameraSetting .. | .i2cTransaction ..
  | .i2cDone .. | .ruleRecord .. | .stareRecord | .auxMove .. | .moveStart .. | .moveComplete .. | .settleTimeout .. | .auxStop .. | .jog ..
  | .holdiSet .. | .hubLinkTimeout .. | .detectPoll .. | .symbolLock .. | .linkStateTimeout .. | .capRecord .. | .superframeStart .. | .sfsReceive ..
  | .smpBlockReceive .. | .tokBlockReceive .. | .refclkLoss .. | .prbsEnd .. | .eqLimit .. | .transmitStamp .. | .linkChange .. | .ptpSync ..
  | .announce .. | .syncLoss | .announceTimeout | .digestDone .. | .fwstageComplete .. | .upload .. | .reply .. | .uplSend .. | .uploadRetransmit ..
  | .dramTraining .. | .pageClose .. | .refreshTick .. | .mr4Poll .. | .rfm .. | .powerDownEntry .. | .selfRefreshEntry .. | .selfRefreshExit ..
  | .zqCalibration .. | .dqsOscillator .. | .dramScrub | .gorgeJobSubmit .. | .gorgeJobStart .. | .gorgeJobEnd .. | .gorgeAbort .. | .errorMinimumEnd
  | .brownoutWarning .. | .throttleSlot | .blockSleep .. | .wakePermitGrant | .permitReturn | .vaultSupplyLoss .. | .crystalStop | .tamper
  | .backgroundTest .. | .repairRecordWrite | .blockLock .. | .badBlock .. | .safeInputRise .. | .vaultSupplyReturn | .crystalRestart
  | .creditReturn .. | .rspAbsorbed .. | .dramThrottleEnd .. | .wakeComplete .. | .earlyWake .. | .coreMoveComplete .. | .eachUsOfMt => true
  | _ => false

/-- Commands that may change a key slot: tamper, the commands of the host, a reset. -/
def reachesKeys : Instr → Bool
  | .ethernetFrame .. | .ping .. | .status .. | .vctCwrd .. | .vctCwwr .. | .rxopen .. | .dataChunk .. | .rxclose .. | .rxabort .. | .rxstat ..
  | .deliver .. | .subscribe .. | .keyset .. | .keyclr .. | .timeset .. | .fwstage .. | .vctReset .. | .daleup .. | .mirrorWrite .. | .uack ..
  | .porstAssert | .porstRelease .. | .resetRelease .. | .brownoutReset .. | .housekeepingRound .. | .vaultSupplyLoss .. | .tamper | .resetAssert
  | .brownoutRecovery .. => true
  | _ => false

/-- Commands that may change an upload stream or an arrival window. -/
def reachesUploads : Instr → Bool
  | .ethernetFrame .. | .linkChange .. | .ping .. | .status .. | .vctCwrd .. | .vctCwwr .. | .rxopen .. | .dataChunk .. | .rxclose .. | .rxabort ..
  | .rxstat .. | .deliver .. | .subscribe .. | .keyset .. | .keyclr .. | .timeset .. | .fwstage .. | .vctReset .. | .daleup .. | .mirrorWrite ..
  | .upload .. | .uplSend .. | .uack .. | .uploadRetransmit .. | .porstAssert | .porstRelease .. | .resetRelease .. | .brownoutReset ..
  | .housekeepingRound .. | .resetAssert | .brownoutRecovery .. => true
  | _ => false

/-- Commands that may change a bank, rank or channel of the DRAM controller. -/
def reachesDram : Instr → Bool
  | .syncBeacon | .mrd .. | .mwrWrite .. | .swap .. | .fetchAdd .. | .compareAndSwap .. | .bulkComplete .. | .ethernetFrame .. | .ping ..
  | .status .. | .vctCwrd .. | .vctCwwr .. | .rxopen .. | .dataChunk .. | .rxclose .. | .rxabort .. | .rxstat .. | .deliver .. | .subscribe ..
  | .keyset .. | .keyclr .. | .timeset .. | .fwstage .. | .vctReset .. | .daleup .. | .mirrorWrite .. | .uack .. | .dramTraining .. | .pageClose ..
  | .refreshTick .. | .mr4Poll .. | .rfm .. | .selfRefreshEntry .. | .selfRefreshExit .. | .zqCalibration .. | .dqsOscillator .. | .dramScrub
  | .porstAssert | .porstRelease .. | .resetRelease .. | .brownoutReset .. | .housekeepingRound .. | .resetAssert | .brownoutRecovery ..
  | .dramThrottleEnd .. => true
  | _ => false

/-- Commands that may change a channel or a saved stream of the Gorge. -/
def reachesGorge : Instr → Bool
  | .syncBeacon | .ethernetFrame .. | .ping .. | .status .. | .vctCwrd .. | .vctCwwr .. | .rxopen .. | .dataChunk .. | .rxclose .. | .rxabort ..
  | .rxstat .. | .deliver .. | .subscribe .. | .keyset .. | .keyclr .. | .timeset .. | .fwstage .. | .vctReset .. | .daleup .. | .mirrorWrite ..
  | .uack .. | .gorgeJobSubmit .. | .gorgeJobStart .. | .gorgeJobEnd .. | .gorgeAbort .. | .porstAssert | .porstRelease .. | .resetRelease ..
  | .brownoutReset .. | .housekeepingRound .. | .resetAssert | .brownoutRecovery .. => true
  | _ => false

/-- Commands that may change the holds, the wakes, the vault latch or the housekeeping counts. -/
def reachesPower : Instr → Bool
  | .ethernetFrame .. | .ping .. | .status .. | .vctCwrd .. | .vctCwwr .. | .rxopen .. | .dataChunk .. | .rxclose .. | .rxabort .. | .rxstat ..
  | .deliver .. | .subscribe .. | .keyset .. | .keyclr .. | .timeset .. | .fwstage .. | .vctReset .. | .daleup .. | .mirrorWrite .. | .uack ..
  | .porstAssert | .porstRelease .. | .resetRelease .. | .brownoutReset .. | .housekeepingRound .. | .blockSleep .. | .wakePermitGrant
  | .permitReturn | .vaultSupplyLoss .. | .resetAssert | .brownoutRecovery .. | .vaultSupplyReturn | .wakeComplete .. | .earlyWake .. => true
  | _ => false

/-- A step takes the command at the front of the queue and is `exec` of it on the state with the queue's rest. -/
def Rules.StepRunsFrontCommand : Prop :=
  ∀ (c : Instr) (s : State) (q : List Instr), step { s with pending := c :: q } = exec c { s with pending := q }

/-- With no command waiting the block idles (the model's choice: log entry 7). -/
def Rules.EmptyQueueIdles : Prop := ∀ s : State, s.pending = [] → step s = .next s

/-- Every command of the table answers a next state from every state, none faults and none is refused, and no command touches the queue. -/
def Rules.EveryCommandAnswersNext : Prop :=
  ∀ (c : Instr) (s : State), ∃ t, exec c s = .next t ∧ t.pending = s.pending

/-- A step over a waiting command takes exactly that command from the queue and puts none in. -/
def Rules.EveryStepConsumesOneCommand : Prop :=
  ∀ (s t : State) (c : Instr) (q : List Instr), s.pending = c :: q → step s = .next t → t.pending = q

/-- Every legal Zynzu instruction, with every guard and every operand, is read back from its word. -/
def Rules.ZynzuInstructionsDecodeTheirEncoding : Prop :=
  ∀ (g : BitVec 4) (op : ZOp), op.legal = true → zDecode (zEncode g op) = op ∧ zGuard (zEncode g op) = g

/-- No bit of a Zynzu instruction word is dropped: the guard and the operation read from a word spell that word again. -/
def Rules.ZynzuWordsEncodeTheirDecoding : Prop := ∀ w : BitVec 32, zEncode (zGuard w) (zDecode w) = w

/-- A CWR of any assigned word its source may reach, well formed, due and not poisoned, completes with the word's value; a read of a lane's
equaliser words finds the values adapted so far. -/
def Rules.CwrAnswersTheWord : Prop :=
  ∀ (q : Token) (s : State), s.canonical = true → q.kind = kindCWR → q.dest = 0x12#10 → q.err = false →
    (q.timed = true → wdiff 48 q.time.toNat s.mt ≤ 0) → cwrFormed q.payload = true → s.cwRefusal (cwAddr q.payload) q.src = none →
    Completes (.cwr q) s (fun t =>
      ReadDone (cwAddr q.payload) q s (laneRead (cwAddr q.payload) (s.deliver cwEp q)) t ∧
      WordsKept s t (fun b => b = cwAddr q.payload ∨ blockOf b = 15))

/-- A CWR that control-word space does not take is answered with one refusal that names its seq, its kind and the CODE: 0x01 where no word is
assigned, 0x02 where the address is not control-word space's, 0x03 where the block or entry is closed to the source. No word changes but the
event counters, and an access to a resident-only block raises the warning of R23 first. -/
def Rules.CwrRefusals : Prop :=
  ∀ (q : Token) (s : State) (code : Nat), s.canonical = true → q.kind = kindCWR → q.dest = 0x12#10 → q.err = false → q.timed = false →
    cwrFormed q.payload = true → s.cwRefusal (cwAddr q.payload) q.src = some code →
    (code = 1 ∨ code = 2 ∨ code = 3) ∧
    Completes (.cwr q) s (fun t =>
      (∃ n, t.net = s.net.erase q ++
        [{ mkTok cwEp q.src.toNat kindRSP q.stream.toNat (refusalPayload q.seq.toNat q.kind.toNat code) with err := true, seq := n }]) ∧
      WordsKept s t (fun _ => False) ∧ t = { s with cw := t.cw, net := t.net, seqs := t.seqs, lines := t.lines } ∧
      (∃ w i, t.lines = s.lines ++ w ++ [i] ∧ i.cls = 3 ∧ i.source = 24 ∧
        (w = [] ∨ code = 3 ∧ ∃ r, w = [r] ∧ r.cls = 2 ∧ r.rtype = 0xD ∧ r.data1 = wd (cwAddr q.payload))))

/-- Every row that writes one field completes where the write is accepted: the field reads the value written, and ACK is answered with the number
of pairs. -/
def Rules.FieldWritesTakeEffect : Prop :=
  ∀ (c : Instr) (f : Fld) (i v : Nat) (h : CwFrom) (s : State), fieldRow c = some (f, i, v, h) → s.canonical = true →
    Accepted s h (f.addr i) (f.put (s.word (f.addr i)) v) → Completes c s (fun t => t.f f i = v ∧ WriteAnswered h t)

/-- Every row that writes a word whole completes where the write is accepted: each field reads its part of the data, and ACK is answered. -/
def Rules.DataWritesTakeEffect : Prop :=
  ∀ (c : Instr) (a : Nat) (fs : List Fld) (i : Nat) (d : Word) (h : CwFrom) (s : State), Sys2Proof.Machine.dataRow c = some (a, fs, i, d, h) →
    s.canonical = true → Accepted s h a d → Completes c s (fun t => (∀ f ∈ fs, t.f f i = f.get d) ∧ WriteAnswered h t)

/-- The accepted pair of a CWW of one pair to a word no chapter gives a further effect (the VCT, Gorge,
housekeeping, repair, I2C and SPI blocks): RW fields hold the data, W1C bits written 1 are cleared, WO fields read 0, RO and RS fields stay. Every
other word stays too, and a reserved bit written 1 raises an info-class event. -/
def Rules.CwwStoresByAccessCode : Prop :=
  ∀ (h : CwFrom) (a : Nat) (d : Word) (s : State) (r : Reg), s.canonical = true → regOf a = some r →
    blockOf a ∈ [19, 21, 23, 24, 27, 28] → Accepted s h a d →
    Completes (.cww (cwwToks h 0 [(a, d)]) []) s (fun t =>
      (∀ f ∈ r.fields, f.fld.get (t.word a) = (match f.acc with
        | .rw => f.fld.get d
        | .w1c => f.fld.get (s.word a &&& ~~~ d)
        | .wo => 0
        | .ro => f.fld.get (s.word a)
        | .rs => f.fld.get (s.word a))) ∧
      WordsKept s t (· = a) ∧ WriteAnswered h t ∧
      (d &&& ~~~ r.named = 0 → t.lines = s.lines) ∧ (d &&& ~~~ r.named ≠ 0 → ∃ i, t.lines = s.lines ++ [i] ∧ i.cls = 3) ∧
      t = { s with cw := t.cw, net := t.net, seqs := t.seqs, lines := t.lines })

/-- A message is applied whole or refused whole: of two pairs whose second names another block no pair is stored, and the answer is one refusal
that names the second pair's seq with CODE 0x04. The first pair's word is one no chapter checks further. -/
def Rules.CwwOfTwoBlocksStoresNothing : Prop :=
  ∀ (h : CwFrom) (a b : Nat) (d e : Word) (s : State) (r : Reg), s.canonical = true → regOf a = some r → (regOf b).isSome →
    blockOf a ∈ [19, 21, 23, 24, 27, 28] → r.outOfRange d = false → s.cwRefusal a h.src = none → s.cwRefusal b h.src = none → blockOf a ≠ blockOf b →
    Completes (.cww (cwwToks h 0 [(a, d), (b, e)]) []) s (fun t =>
      WordsKept s t (fun _ => False) ∧
      ∃ n, t.net.getLast? = some { mkTok cwEp h.src.toNat kindRSP h.stream.toNat (refusalPayload (h.seq + 2).toNat 3 4) with err := true, seq := n })

/-- An enqueue into a queue with room stores payload, tag and stamp at the ring entry of TAIL and moves TAIL on by one: the fill rises by one,
and every other byte of memory, HEAD and DROPS stay. -/
def Rules.QueueStoresAnArrivingToken : Prop :=
  ∀ (n : Fin 64) (q : Token) (hand : Bool) (s : State), QueueTakes s n q → s.qFill n < s.qSize n →
    Completes (.queueEnqueue n q hand) s (fun t =>
      t.lds (s.qSlot n (s.f QUEUE.PTR.TAIL n)) 4 = s.qEntryWords n q ∧
      BytesKept s t (fun a => s.qSlot n (s.f QUEUE.PTR.TAIL n) ≤ a ∧ a < s.qSlot n (s.f QUEUE.PTR.TAIL n) + 32) ∧
      t.qFill n = s.qFill n + 1 ∧ t.f QUEUE.PTR.HEAD n = s.f QUEUE.PTR.HEAD n ∧
      t.f QUEUE.PTR.TAIL n = (s.f QUEUE.PTR.TAIL n + 1) % (2 * s.qSize n) ∧
      t.f QUEUE.STAT.DROPS n = s.f QUEUE.STAT.DROPS n ∧ t.net = s.net.erase q)

/-- What a full queue does by OVF: 0 leaves the token in transit, and nothing changes but the handshake; 1 discards the new token; 2 retires the
oldest entry, stores the new token and keeps the fill. Both discards count in DROPS and set DROP. -/
def Rules.QueueOverflowPolicies : Prop :=
  ∀ (n : Fin 64) (q : Token) (hand : Bool) (s : State), QueueTakes s n q → s.qFill n = s.qSize n →
    (s.f QUEUE.CFG.OVF n = 0 → Completes (.queueEnqueue n q hand) s (fun t => t = { s with queues := t.queues })) ∧
    (s.f QUEUE.CFG.OVF n = 1 → Completes (.queueEnqueue n q hand) s (fun t =>
      t.f QUEUE.STAT.DROP n = 1 ∧ t.f QUEUE.STAT.DROPS n = min (2 ^ 16 - 1) (s.f QUEUE.STAT.DROPS n + 1) ∧ t.mem = s.mem ∧
      t.f QUEUE.PTR.HEAD n = s.f QUEUE.PTR.HEAD n ∧ t.f QUEUE.PTR.TAIL n = s.f QUEUE.PTR.TAIL n ∧ t.net = s.net.erase q)) ∧
    (s.f QUEUE.CFG.OVF n = 2 → hand = false → Completes (.queueEnqueue n q hand) s (fun t =>
      t.f QUEUE.STAT.DROP n = 1 ∧ t.f QUEUE.STAT.DROPS n = min (2 ^ 16 - 1) (s.f QUEUE.STAT.DROPS n + 1) ∧
      t.f QUEUE.PTR.HEAD n = (s.f QUEUE.PTR.HEAD n + 1) % (2 * s.qSize n) ∧
      t.f QUEUE.PTR.TAIL n = (s.f QUEUE.PTR.TAIL n + 1) % (2 * s.qSize n) ∧
      t.lds (s.qSlot n (s.f QUEUE.PTR.TAIL n)) 4 = s.qEntryWords n q ∧
      BytesKept s t (fun a => s.qSlot n (s.f QUEUE.PTR.TAIL n) ≤ a ∧ a < s.qSlot n (s.f QUEUE.PTR.TAIL n) + 32)))

/-- A disabled queue refuses a token with CODE 0x03 and an enabled one refuses EVT with CODE 0x07; neither stores anything. -/
def Rules.QueueRefusals : Prop :=
  ∀ (n : Fin 64) (q : Token) (hand : Bool) (s : State), s.canonical = true → isResident q.src = true → neverAnswered q = false →
    (q.kind = 11#4 ∧ (s.f QUEUE.CFG.EN n = 1 → s.qFill n < s.qSize n) ∨ q.kind ≠ 11#4 ∧ q.kind ≠ 8#4 ∧ s.f QUEUE.CFG.EN n = 0) →
    Completes (.queueEnqueue n q hand) s (fun t =>
      Refused (0x380 + n) q (if q.kind = 11#4 then 7 else 3) s t ∧ t.mem = s.mem ∧ WordsKept s t (fun _ => False))

/-- A queue in push mode sends its oldest entry to CONS with the stored tag, src its own endpoint, and retires it; memory stays. A pause keeps it
from pushing unless the entry is under handshake. -/
def Rules.QueuePushSendsOldest : Prop :=
  ∀ (n : Fin 64) (s : State), s.canonical = true → s.f QUEUE.CFG.PUSH n = 1 → s.qFill n ≠ 0 → s.qSize n ≤ 2 ^ 16 →
    (s.f QUEUE.CFG.EN n = 1 ∨ (s.queue n).hand = true → Completes (.queuePush n) s (fun t =>
      (∃ u : Token, t.net = s.net ++ [u] ∧ u.payload = s.ld (s.qSlot n (s.f QUEUE.PTR.HEAD n)) ∧ u.src.toNat = 0x3C0 + n ∧
        u.dest.toNat = s.f QUEUE.CFG.CONS n ∧
        (s.anyUe (s.qSlot n (s.f QUEUE.PTR.HEAD n)) 3 = true → u.err = true)) ∧
      t.f QUEUE.PTR.HEAD n = (s.f QUEUE.PTR.HEAD n + 1) % (2 * s.qSize n) ∧ t.f QUEUE.PTR.TAIL n = s.f QUEUE.PTR.TAIL n ∧ t.mem = s.mem ∧
      (t.queue n).hand = false)) ∧
    (s.f QUEUE.CFG.EN n = 0 → (s.queue n).hand = false → Completes (.queuePush n) s (· = s))

/-- POP retires COUNT entries of a queue out of push mode or paused; a COUNT beyond the fill retires all of them and sets POPERR. -/
def Rules.QueuePopRetires : Prop :=
  ∀ (n : Fin 64) (h : CwFrom) (c : Word) (s : State), s.canonical = true → Accepted s h (QUEUE.POP.COUNT.addr n) c → s.qSize n ≤ 2 ^ 16 →
    Completes (.queuePop n h c) s (fun t =>
      t.f QUEUE.PTR.HEAD n = (s.f QUEUE.PTR.HEAD n + min (QUEUE.POP.COUNT.get c) (s.qFill n)) % (2 * s.qSize n) ∧
      t.f QUEUE.PTR.TAIL n = s.f QUEUE.PTR.TAIL n ∧ (s.qFill n < QUEUE.POP.COUNT.get c → t.f QUEUE.STAT.POPERR n = 1) ∧
      t.mem = s.mem ∧ WriteAnswered h t)

/-- A write of CFG holds its fields; a changed ring size empties the ring, and a write that keeps it keeps the pointers. -/
def Rules.QueueConfigurationWrite : Prop :=
  ∀ (n : Fin 64) (h : CwFrom) (d : Word) (s : State), s.canonical = true → Accepted (s.setHand n false) h (QUEUE.CFG.EN.addr n) d →
    Completes (.queueCfgWrite n h d none false) s (fun t =>
      t.f QUEUE.CFG.EN n = QUEUE.CFG.EN.get d ∧ t.f QUEUE.CFG.LOG2SIZE n = QUEUE.CFG.LOG2SIZE.get d ∧
      t.f QUEUE.CFG.PUSH n = QUEUE.CFG.PUSH.get d ∧ t.f QUEUE.CFG.CONS n = QUEUE.CFG.CONS.get d ∧
      (QUEUE.CFG.LOG2SIZE.get d ≠ s.f QUEUE.CFG.LOG2SIZE n → t.f QUEUE.PTR.HEAD n = 0 ∧ t.f QUEUE.PTR.TAIL n = 0 ∧ t.f QUEUE.STAT.EMPTY n = 1) ∧
      (QUEUE.CFG.LOG2SIZE.get d = s.f QUEUE.CFG.LOG2SIZE n →
        t.f QUEUE.PTR.HEAD n = s.f QUEUE.PTR.HEAD n ∧ t.f QUEUE.PTR.TAIL n = s.f QUEUE.PTR.TAIL n) ∧ WriteAnswered h t)

/-- The four events of the time base: the first PLL lock starts MT at 0 and takes the AT count; the loss of TIMEREF sets REFLOSS and HOLD and
raises a critical status of source 1; a relock starts a slew of 10,000 ns for each ns of phase error, HOLD staying 1, or ends HOLD at once without
one; the slew's end returns HOLD to 0. Every other unit keeps its state. -/
def Rules.TimeBaseEvents : Prop :=
  ∀ s : State, s.canonical = true →
    (s.tb.locked = false → Completes .pllLock s (fun t => t.mt = 0 ∧ t.tb.locked = true ∧ t.f TB.ATSYNC.V = s.atNow ∧ t.atNow = s.atNow ∧
      WordsKept s t (· = TB.ATSYNC.V.base) ∧ t = { s with mt := t.mt, tb := t.tb, cw := t.cw })) ∧
    (s.tb.refLost = false → Completes .timerefLoss s (fun t => t.f TB.STAT.REFLOSS = 1 ∧ t.f TB.STAT.HOLD = 1 ∧ t.tb.refLost = true ∧
      (∃ r, t.lines = s.lines ++ [r] ∧ r.cls = 0 ∧ r.source = 1) ∧ WordsKept s t (· = TB.STAT.HOLD.base) ∧
      t = { s with tb := t.tb, cw := t.cw, lines := t.lines, basin := t.basin })) ∧
    (∀ p, s.tb.refLost = true → Completes (.pllRelock p) s (fun t => t.tb.refLost = false ∧
      (p = 0 → t.f TB.STAT.HOLD = 0) ∧ (p ≠ 0 → t.f TB.STAT.HOLD = s.f TB.STAT.HOLD ∧ t.tb.slewEnd = s.mt + 10000 * p) ∧
      t = { s with tb := t.tb, cw := t.cw, basin := t.basin })) ∧
    (s.tb.refLost = false → s.tb.slewEnd ≠ 0 → Completes .slewEnd s (fun t => t.f TB.STAT.HOLD = 0 ∧ t.mt = max s.mt s.tb.slewEnd ∧ t.tb.slewEnd = 0 ∧
      WordsKept s t (· = TB.STAT.HOLD.base) ∧ t = { s with mt := t.mt, tb := t.tb, cw := t.cw }))

/-- A message of the PT set from resident firmware, NS below 10^9 and RATE within 500 ppm, takes effect whole: PT at this instant is the rule's
formula of the four words. A new BASE that moves PT backwards, or forwards by more than 1 ms, sets PTSTEP. -/
def Rules.PtFollowsTheWordsWritten : Prop :=
  ∀ (h : CwFrom) (base baseHi mtref rate : Word) (s : State), s.canonical = true → isResident h.src = true → bits base 31 0 < 1000000000 →
    -549755814 ≤ sbits rate 31 0 → sbits rate 31 0 ≤ 549755814 →
    Completes (.tbPtWrite h base baseHi mtref rate) s (fun t =>
      t.pt = ptFormula base baseHi mtref rate s.mt ∧ t.mt = s.mt ∧
      (base ≠ s.word TB.PTBASE.NS.base → (t.pt < s.pt ∨ s.pt + 1000000 < t.pt) → t.f TB.STAT.PTSTEP = 1))

/-- A pin col takes a timed pin action with slack of at least its lead and no earlier than the last: the token enters the FIFO with its full
instant, SLACK.LAST reports the slack, and no other col changes. -/
def Rules.ColHoldsATimedToken : Prop :=
  ∀ (n : Fin 128) (q : Token) (s : State), PinColTakes s n q → (colLead n : Int) ≤ wdiff 48 q.time.toNat s.mt →
    (∀ o, (s.col n).order = some o → o ≤ s.instant q) →
    Completes (.colAccept n q) s (fun t =>
      (t.col n).fifo = (s.col n).fifo ++ [⟨q, s.mt, some (s.instant q)⟩] ∧ (t.col n).order = some (s.instant q) ∧
      t.fi COL.SLACK.LAST n = min 2147483647 (wdiff 48 q.time.toNat s.mt) ∧ (∀ m, m ≠ n → t.col m = s.col m) ∧ t.net = s.net.erase q ∧
      t.f COL.STAT.LATE n = s.f COL.STAT.LATE n ∧ t.f COL.STAT.FAULT n = s.f COL.STAT.FAULT n)

/-- A late token sets LATE and counts, and POLICY says what becomes of it: 0 drops it; 1 releases it one lead from now; 2 sets FAULT, drops
it, and the pin of an LGATE col is driven low. -/
def Rules.ColLatePolicies : Prop :=
  ∀ (n : Fin 128) (q : Token) (s : State), PinColTakes s n q → wdiff 48 q.time.toNat s.mt < colLead n →
    (∀ o, (s.col n).order = some o → o ≤ s.instant q) →
    Completes (.colAccept n q) s (fun t =>
      t.f COL.STAT.LATE n = 1 ∧ t.f COL.LATE.COUNT n = min (2 ^ 32 - 1) (s.f COL.LATE.COUNT n + 1) ∧
      (s.f COL.CFG.POLICY n = 0 → (t.col n).fifo = (s.col n).fifo) ∧
      (s.f COL.CFG.POLICY n = 1 → (t.col n).fifo = (s.col n).fifo ++ [⟨q, s.mt, some (s.mt + colLead n)⟩]) ∧
      (s.f COL.CFG.POLICY n = 2 → (t.col n).fifo = (s.col n).fifo ∧ t.f COL.STAT.FAULT n = 1 ∧ (n.val < 48 → (t.col n).level = false)))

/-- A col that is not enabled refuses a token with CODE 0x03, an enabled pin col a pin action of a reserved OP with CODE 0x04, and an LGATE col an
untimed token with CODE 0x04. The col does not change. -/
def Rules.ColRefusals : Prop :=
  ∀ (n : Fin 128) (q : Token) (s : State), s.canonical = true → isResident q.src = true → neverAnswered q = false →
    (s.f COL.CFG.EN n = 0 → Completes (.colAccept n q) s (fun t => Refused (0x300 + n) q 3 s t ∧ t.cols = s.cols)) ∧
    (s.f COL.CFG.EN n = 1 → 24 ≤ n.val → n.val < 48 → q.kind ≠ 11#4 → q.kind ≠ 8#4 → q.timed = false →
      Completes (.colAccept n q) s (fun t => Refused (0x300 + n) q 4 s t ∧ t.cols = s.cols)) ∧
    (s.f COL.CFG.EN n = 1 → 24 ≤ n.val → n.val < 104 → q.kind = 14#4 → q.timed = true → q.err = false → 4 < (pinAct q.payload).op →
      Completes (.colAccept n q) s (fun t => Refused (0x300 + n) q 4 s t ∧ t.cols = s.cols))

/-- A pin col without a pending second edge releases its oldest token at the token's instant: the level is driven by OP (0 and 3 low, 1 and 2 high,
4 toggles), and a pulse leaves its second edge pending WIDTH ns later, at the first edge's level inverted. A high level on an LGATE col in FAULT is
suppressed and counted. The pending edge is driven by its own command, at its instant. -/
def Rules.PinColRelease : Prop :=
  ∀ (n : Fin 128) (s : State), s.canonical = true → 24 ≤ n.val → n.val < 104 →
    (∀ (e : ColEntry) (rest : List ColEntry) (d : Nat), (s.col n).fifo = e :: rest → e.due = some d → s.mt ≤ d → (s.col n).edge = none →
      e.tok.err = false → e.tok.kind = 14#4 → (pinAct e.tok.payload).op ≤ 4 →
      let a := pinAct e.tok.payload
      let first : Bool := a.op == 1 || a.op == 2 || (a.op == 4 && !(s.col n).level)
      Completes (.colRelease n) s (fun t =>
        t.mt = d ∧ (t.col n).fifo = rest ∧ (∀ m, m ≠ n.val → t.col m = s.col m) ∧
        (n.val < 48 ∧ s.f COL.STAT.FAULT n = 1 ∧ first = true → (t.col n).level = (s.col n).level) ∧
        (¬ (n.val < 48 ∧ s.f COL.STAT.FAULT n = 1 ∧ first = true) → (t.col n).level = first) ∧
        (t.col n).edge = if a.op = 2 ∨ a.op = 3 then some ⟨4 * (d + max 2 a.width) + a.fine2, !first, a.ident⟩ else none)) ∧
    (∀ e : SecondEdge, (s.col n).edge = some e → s.f COL.STAT.FAULT n = 0 →
      Completes (.colSecondEdge n) s (fun t => t.mt = max s.mt (e.at4 / 4) ∧ (t.col n).edge = none ∧ (t.col n).level = e.level ∧
        (t.col n).fifo = (s.col n).fifo ∧ ∀ m, m ≠ n.val → t.col m = s.col m))

/-- The commands of an internal trigger col enter its FIFO; released, START begins the schedule at this instant, STOP ends it and SINGLE sends one
TRIG token; a running schedule sends TRIG tokens with the release count at START's instant plus a multiple of PERIOD. -/
def Rules.TriggerColsRelease : Prop :=
  ∀ (n : Fin 8) (q : Token) (s : State), s.canonical = true → (s.col (120 + n)).fifo.length < 8 →
    (isResident q.src = true → q.kind = 2#4 → q.timed = false → q.err = false → s.f COL.CFG.EN (120 + n) = 1 → s.f COL.CFG.SEQCHK (120 + n) = 0 →
      let k := trigCmd q.payload
      let held : State → Prop := fun t => (t.col (120 + n)).fifo = (s.col (120 + n)).fifo ++ [⟨q, s.mt, none⟩]
      (k.op = 8 → 1000 ≤ k.period → (n.val = 0 → k.period % 5000 = 0 ∧ k.period ≤ 100000) →
        (n.val < 3 → s.startOverloads (120 + n) k.period = false) → Completes (.triggerStartPeriodic n q) s held) ∧
      (k.op = 9 → Completes (.triggerStop n q) s held) ∧ (k.op = 10 → Completes (.triggerSingle n q) s held)) ∧
    (∀ e : ColEntry, (s.col (120 + n)).fifo = [e] → e.due = none → e.tok.err = false → (s.col (120 + n)).sched = none →
      let k := trigCmd e.tok.payload
      (k.op = 8 → Completes (.colRelease ⟨120 + n, by omega⟩) s (fun t =>
        (t.col (120 + n)).sched = some ⟨s.mt, k.period, k.count, k.target, 0⟩ ∧ (t.col (120 + n)).fifo = [])) ∧
      (k.op = 10 → (∀ u ∈ s.net, u.kind ≠ 13#4) → Completes (.colRelease ⟨120 + n, by omega⟩) s (fun t =>
        ∃ u, t.net = s.net ++ [u] ∧ u.kind = 13#4 ∧ u.src.toNat = 0x378 + n.val ∧ u.dest.toNat = k.target ∧ u.payload = 0))) ∧
    (∀ k : Schedule, (s.col (120 + n)).fifo = [] → (s.col (120 + n)).sched = some k → k.count = 0 ∨ k.next < k.count → k.target < 1024 →
      s.mt ≤ k.start + k.next * k.period → (∀ u ∈ s.net, u.kind ≠ 13#4) →
      Completes (.triggerRelease n) s (fun t =>
        t.mt = k.start + k.next * k.period ∧ (t.col (120 + n)).sched = some { k with next := k.next + 1 } ∧
        ∃ u, t.net = s.net ++ [u] ∧ u.kind = 13#4 ∧ u.src.toNat = 0x378 + n.val ∧ u.dest.toNat = k.target ∧ u.timed = true ∧
          u.time.toNat = t.mt % 2 ^ 48 ∧ u.payload.toNat = k.next % 2 ^ 32))

/-- EN of a col falls from 1 to 0: the FIFO and the pending edge are discarded, LATE.FLUSH counts the tokens, and an LGATE col's pin goes low. -/
def Rules.ColDisableDiscards : Prop :=
  ∀ (n : Fin 128) (h : CwFrom) (s : State), s.canonical = true → s.f COL.CFG.EN n = 1 →
    Accepted s h (COL.CFG.EN.addr n) (COL.CFG.EN.put (s.word (COL.CFG.EN.addr n)) 0) →
    Completes (.colEnClear n h) s (fun t => (t.col n).fifo = [] ∧ (t.col n).edge = none ∧ t.f COL.CFG.EN n = 0 ∧
      t.f COL.LATE.FLUSH n = min (2 ^ 32 - 1) (s.f COL.LATE.FLUSH n + (s.col n).fifo.length) ∧
      (24 ≤ n.val → n.val < 48 → (t.col n).level = false) ∧ (120 ≤ n.val → (t.col n).sched = none) ∧ ∀ m, m ≠ n.val → t.col m = s.col m)

/-- A W1C write clears FAULT and leaves the col's other status bits. -/
def Rules.ColFaultIsCleared : Prop :=
  ∀ (n : Fin 128) (h : CwFrom) (s : State), s.canonical = true → Accepted s h (COL.STAT.FAULT.addr n) (COL.STAT.FAULT.put 0 1) →
    Completes (.colFaultClear n h none) s (fun t => t.f COL.STAT.FAULT n = 0 ∧ t.f COL.STAT.LATE n = s.f COL.STAT.LATE n ∧
      t.f COL.STAT.ORDER n = s.f COL.STAT.ORDER n ∧ t.cols = s.cols ∧ WordsKept s t (· = COL.STAT.FAULT.addr n) ∧ WriteAnswered h t)

/-- A read of words of the Plain is answered with one RSP a word, in ascending order: the word, flags.err where it carries an uncorrectable error,
flags.last on the last only. No byte of memory changes. -/
def Rules.MemoryReadAnswersTheWords : Prop :=
  ∀ (q : Token) (s : State), s.canonical = true → q.dest = 0x10#10 → q.err = false → q.timed = false →
    (memHead q.payload).byteen = 0 → (memHead q.payload).op = 0 → (memHead q.payload).ack = false →
    (memHead q.payload).addr + 8 * (memHead q.payload).count ≤ 0x3000000 →
    Completes (.mrd q) s (fun t => t.mem = s.mem ∧
      ∃ l : List Token, t.net = s.net.erase q ++ l ∧ l.map (·.payload) = s.lds (memHead q.payload).addr (memHead q.payload).count ∧
        (∀ i (h : i < l.length), l[i].kind = 5#4 ∧ l[i].src = 0x10#10 ∧ l[i].dest = q.src ∧ l[i].stream = q.stream ∧
          l[i].err = (s.eccAt ((memHead q.payload).addr + 8 * i) == some .double) ∧ l[i].last = decide (i + 1 = (memHead q.payload).count)))

/-- A read of a reserved address is refused with CODE 0x01, one at an endpoint that does not own the address with 0x02, and one with byte enables,
an OP or ACK set with 0x04. Memory stays. -/
def Rules.MemoryReadRefusals : Prop :=
  ∀ (q : Token) (s : State), s.canonical = true → q.dest = 0x10#10 → q.err = false → q.timed = false → neverAnswered q = false →
    let h := memHead q.payload
    ((h.byteen ≠ 0 ∨ h.op ≠ 0 ∨ h.ack = true) → Completes (.mrd q) s (fun t => Refused 0x10 q 4 s t ∧ t.mem = s.mem)) ∧
    (h.byteen = 0 → h.op = 0 → h.ack = false → 0x3000000 ≤ h.addr → h.addr < 0x10000000 →
      Completes (.mrd q) s (fun t => Refused 0x10 q 1 s t ∧ t.mem = s.mem)) ∧
    (h.byteen = 0 → h.op = 0 → h.ack = false → 0x100000000 ≤ h.addr → h.addr + 8 * h.count ≤ 0x200000000 →
      Completes (.mrd q) s (fun t => Refused 0x10 q 2 s t ∧ t.mem = s.mem))

/-- A token to the refusal point or a reserved ID is answered with CODE 0x06, unless its kind is never answered; an RSP, CRED or SYNC that an
endpoint does not handle is absorbed, a refusal among them with an info-class event. -/
def Rules.RefusalPointAndAbsorption : Prop :=
  ∀ (q : Token) (s : State), s.canonical = true →
    (neverAnswered q = false → Completes (.refusalPoint q) s (fun t => Refused 0 q 6 s t ∧ WordsKept s t (fun _ => False))) ∧
    (neverAnswered q = true → Completes (.rspAbsorbed q) s (fun t => t.net = s.net.erase q ∧ WordsKept s t (fun _ => False) ∧
      (q.kind ≠ 5#4 ∨ q.err = false → t.lines = s.lines) ∧ (q.kind = 5#4 → q.err = true → ∃ i, t.lines = s.lines ++ [i] ∧ i.cls = 3 ∧ i.source = 24)))

/-- The patrol scrub of the Plain moves on by one block of every bank, beginning anew after the last, and corrects every single-bit error it
meets. No byte changes. -/
def Rules.PlainScrubCorrects : Prop :=
  ∀ s : State, s.canonical = true → s.f PLAIN.SCRUB.PERIOD ≠ 0 → Completes .plainScrub s (fun t =>
    t.scrub.next = (if s.scrub.next + 1 < 2048 then s.scrub.next + 1 else 0) ∧ t.mem = s.mem ∧
    (∀ a, a < 0x3000000 → a % 8 = 0 → a / 256 / 96 = s.scrub.next → s.eccAt a = some .single → t.eccAt a = none))

/-- Credits return to the port a CRED token is sent to: a role that is not blocked counts that many fewer
taken at the token's src, on that port alone. -/
def Rules.CreditReturn : Prop :=
  ∀ (q : Token) (k : Nat) (r : Fin 18) (p : Fin 8) (s : State), s.canonical = true → q.kind = 12#4 → q.dest.toNat = portEp r p →
    (s.core r).blocked = none →
    Completes (.creditReturn q k) s (fun t =>
      t.net = s.net.erase q ∧
      (t.core r).port p = { (s.core r).port p with
        taken := tset (fun _ => 0) ((s.core r).port p).taken q.src.toNat (tget (fun _ => 0) ((s.core r).port p).taken q.src.toNat - k) } ∧
      (∀ x, x ≠ r.val → t.core x = s.core x) ∧ ∀ x : Fin 8, x ≠ p → (t.core r).port x = (s.core r).port x)

/-- The register file: register 0 reads 0 and discards writes, and any other register reads what was last written to it. -/
def Rules.RegisterZeroReadsZero : Prop :=
  ∀ (c : Core) (i j : BitVec 5) (v : Word), (c.setReg i v).reg j = if j = 0 then 0 else if i = j then v else c.reg j

/-- Every ALU row in its register form writes its function of two registers to its destination and moves to the next word; nothing but its core
changes. -/
def Rules.AluResults : Prop :=
  (∀ (i : Instr) (r : Fin 18) (g : BitVec 4) (d a b : BitVec 5) (f : Word → Word → Word) (s : State),
    aluRow i = some (r, g, d, a, b, 0#2, f) → Ready s r g →
    Completes i s (RetiresAlone r { (s.core r).setReg d (f ((s.core r).reg a) ((s.core r).reg b)) with pc := (s.core r).pc + 4 } s)) ∧
  (∀ (i : Instr) (r : Fin 18) (g : BitVec 4) (d a : BitVec 5) (P : Word → Word → Prop) (s : State),
    unaryRow i = some (r, g, d, a, 0#5, 0#2, P) → Ready s r g →
    Completes i s (fun t => ∃ v, P ((s.core r).reg a) v ∧ RetiresAlone r { (s.core r).setReg d v with pc := (s.core r).pc + 4 } s t))

/-- An ALU row with a port as its first operand takes the oldest token of the port, an empty port blocks it in STATE 2, and a poisoned token is
consumed and raises cause 0x05; one with a port as its destination sends the result as one token with the port's outgoing tag and next seq. -/
def Rules.AluPortForms : Prop :=
  ∀ (i : Instr) (r : Fin 18) (g : BitVec 4) (d a b : BitVec 5) (m : BitVec 2) (f : Word → Word → Word) (s : State),
    aluRow i = some (r, g, d, a, b, m, f) → Ready s r g →
    (m = 1#2 → portField a = true → ((s.core r).port a.toNat).buf = [] →
      Completes i s (fun t => t.coreState r = 2 ∧ (t.core r).pc = (s.core r).pc ∧ (t.core r).regs = (s.core r).regs ∧
        ((t.core r).blocked.map (·.mask)) = some (2 ^ a.toNat) ∧ t.net = s.net ∧ t.mem = s.mem)) ∧
    (∀ (q : Token) (rest : List Token), m = 1#2 → portField a = true → ((s.core r).port a.toNat).buf = q :: rest → q.err = false →
      Completes i s (RetiresAlone r
        { ((s.core r).setPort a.toNat { (s.core r).port a.toNat with buf := rest, rx := some q }).setReg d (f q.payload ((s.core r).reg b)) with
          pc := (s.core r).pc + 4 } s)) ∧
    (∀ (q : Token) (rest : List Token), m = 1#2 → portField a = true → ((s.core r).port a.toNat).buf = q :: rest → q.err = true →
      (s.core r).ex = false →
      Completes i s (fun t => (t.core r).pc = 0x50 ∧ (t.core r).code = 5 ∧ (t.core r).epc = wd (s.core r).pc ∧ (t.core r).info = q.payload ∧
        ((t.core r).port a.toNat).buf = rest ∧ (t.core r).regs = (s.core r).regs)) ∧
    (m = 2#2 → portField d = true → s.credits ((s.core r).port d.toNat) ((s.core r).port d.toNat).dest.toNat ≠ 0 →
      Completes i s (fun t =>
        let p := (s.core r).port d.toNat
        ∃ u, t.net = s.net ++ [u] ∧ u.payload = f ((s.core r).reg a) ((s.core r).reg b) ∧ u.src.toNat = portEp r d.toNat ∧ u.dest = p.dest ∧
          u.kind = p.kind ∧ u.stream = p.stream ∧ u.seq = p.seq ∧ u.last = p.flags.getLsbD 0 ∧
          ((t.core r).port d.toNat).seq = p.seq + 1 ∧ (t.core r).pc = (s.core r).pc + 4 ∧ (t.core r).regs = (s.core r).regs))

/-- Every immediate row writes its function of register and immediate to its destination and moves to the next word; nothing but its core
changes. -/
def Rules.ImmediateResults : Prop :=
  ∀ (i : Instr) (r : Fin 18) (g : BitVec 4) (d : BitVec 5) (f : Core → Option Word) (v : Word) (s : State),
    immRow i = some (r, g, d, f) → Ready s r g → f (s.core r) = some v →
    Completes i s (RetiresAlone r { (s.core r).setReg d v with pc := (s.core r).pc + 4 } s)

/-- A load of an aligned local address reads its bytes, least significant first, extended to 64 bits; a misaligned address raises cause 0x02 and
one outside local memory 0x03, each with the address as INFO. -/
def Rules.LoadsReadLocalMemory : Prop :=
  ∀ (i : Instr) (r : Fin 18) (g : BitVec 4) (d a : BitVec 5) (o : BitVec 12) (n : Nat) (sg : Bool) (s : State),
    loadRow i = some (r, g, d, a, o, n, sg) → Ready s r g →
    let x := (s.core r).reg a + o.signExtend 64
    (x.toNat % n = 0 → x.toNat < 0x20000 → s.eccAt (localAddr r x.toNat) = none →
      Completes i s (fun t => ∃ v : Word, v.toNat % 2 ^ (8 * n) = leNat (s.bytes (localAddr r x.toNat) n) ∧
        (sg = false → v.toNat < 2 ^ (8 * n)) ∧ (sg = true → -2 ^ (8 * n - 1) ≤ v.toInt ∧ v.toInt < 2 ^ (8 * n - 1)) ∧
        RetiresAlone r { (s.core r).setReg d v with pc := (s.core r).pc + 4 } s t)) ∧
    (x.toNat % n ≠ 0 → (s.core r).ex = false → Completes i s (Enters r 2 x s)) ∧
    (x.toNat % n = 0 → 0x20000 ≤ x.toNat → (s.core r).ex = false → Completes i s (Enters r 3 x s))

/-- A store to an aligned address of the data half writes the low bytes of its source there and no other byte; a misaligned address raises cause
0x02, and the code half or an address outside local memory 0x03. -/
def Rules.StoresWriteLocalMemory : Prop :=
  ∀ (i : Instr) (r : Fin 18) (g : BitVec 4) (d a : BitVec 5) (o : BitVec 12) (n : Nat) (s : State),
    storeRow i = some (r, g, d, a, o, n) → Ready s r g →
    let x := (s.core r).reg a + o.signExtend 64
    (x.toNat % n = 0 → 0x10000 ≤ x.toNat → x.toNat < 0x20000 → s.eccAt (localAddr r x.toNat) = none →
      Completes i s (fun t => t.bytes (localAddr r x.toNat) n = leBytes n ((s.core r).reg d).toNat ∧
        BytesKept s t (fun b => localAddr r x.toNat ≤ b ∧ b < localAddr r x.toNat + n) ∧
        Retires r { s.core r with pc := (s.core r).pc + 4 } s t ∧ t = { s with cores := t.cores, cw := t.cw, mem := t.mem, eccs := t.eccs })) ∧
    (x.toNat % n ≠ 0 → (s.core r).ex = false → Completes i s (Enters r 2 x s)) ∧
    (x.toNat % n = 0 → (x.toNat < 0x10000 ∨ 0x20000 ≤ x.toNat) → (s.core r).ex = false → Completes i s (Enters r 3 x s))

/-- A timed barrier waits in the fan-out and an untimed one is refused with CODE 0x04. The fan-out judges the one due next: blocked, every active
path generator discards it; otherwise one copy goes to each. A barrier sent to one path generator is judged there, and one that is not blocked
and names the expected layer takes an armed or ended path generator to RUN. -/
def Rules.BarriersAreJudged : Prop :=
  ∀ s : State, s.canonical = true →
    (∀ q : Token, q.dest = 0xE#10 → q.kind = 8#4 → q.err = false →
      (q.timed = true → Completes (.barrierFanout q) s (fun t =>
        t.fanout = s.fanout ++ [q] ∧ t.net = s.net.erase q ∧ t.lines = s.lines ∧ WordsKept s t (fun _ => False))) ∧
      (q.timed = false → Completes (.barrierFanout q) s (fun t => Refused fanEp q 4 s t ∧ t.fanout = s.fanout))) ∧
    (∀ q : Token, s.nextBarrier = some q →
      (s.barrierBlocked = false → Completes .barrierJudge s (fun t =>
        t.mt = max s.mt (s.judgeAt q) ∧ t.fanout = s.fanout.erase q ∧ t.passed = s.passed ++ [q] ∧
        t.net = s.net ++ s.activePgs.map (fun n => { q with dest := BitVec.ofNat 10 (0x40 + n) }) ∧ ∀ a, t.word a = s.word a)) ∧
      (s.barrierBlocked = true → Completes .barrierJudge s (fun t =>
        t.fanout = s.fanout.erase q ∧ t.passed = s.passed ∧ t.net = s.net ∧ ∀ n, n < 26 → s.pgActive n = true → t.f PG.JOB.REFUSED n = 1))) ∧
    (∀ (n : Fin 26) (q : Token), q.dest = BitVec.ofNat 10 (0x40 + n) → q.kind = 8#4 → q.err = false → q.timed = true →
      (∀ u ∈ s.passed, sameBarrier u q = false) → srcAllowed (0x40 + n) q.src = true →
      (s.barrierBlocked = false → s.pgState n = pgARMED ∨ s.pgState n = pgENDED → s.layerExpected n (bits q.payload 31 0) = true →
        Completes (.barrier n q) s (fun t => t.pgState n = pgRUN ∧ t.f PG.JOB.LAYER n = bits q.payload 31 0 ∧ t.mt = max s.mt (s.instant q))) ∧
      (s.barrierBlocked = true → Completes (.barrier n q) s (fun t => t.pgState n = s.pgState n ∧ t.f PG.JOB.REFUSED n = 1)))

/-- The beacon comes at the next multiple of 256 ns. A message that waits for its time is kept until the beacon at or after it, and acts there: a
read of a control word is answered. -/
def Rules.BeaconReleasesHeldMessages : Prop :=
  ∀ (q : Token) (s : State), s.canonical = true → s.held = [[q]] → s.passed = [] → (∀ r, r < 18 → s.coreState r ≠ 3) →
    let at_ := (s.mt / 256 + 1) * 256
    (0 < wdiff 48 q.time.toNat at_ → Completes .syncBeacon s (fun t => t.mt = at_ ∧ t.held = [[q]])) ∧
    (wdiff 48 q.time.toNat at_ ≤ 0 → q.dest = 0x12#10 → q.kind = kindCWR → cwrFormed q.payload = true →
      s.cwRefusal (cwAddr q.payload) q.src = none →
      Completes .syncBeacon s (fun t => t.mt = at_ ∧ t.held = [] ∧
        ∃ (n : BitVec 12) (w : Word), { mkTok cwEp q.src.toNat kindRSP q.stream.toNat w with seq := n } ∈ t.net))

/-- A write of MAPNEXT starts a check of its image; the check's end sets OK, or FAIL and MAPERR with a warning; a checked map marked for a point of
rest becomes the active one there, and the next motion starts no earlier than 200 µs after it. -/
def Rules.CorrectionMapsAreCheckedAndSwapped : Prop :=
  ∀ (n : Fin 24) (s : State), s.canonical = true →
    (∀ (h : CwFrom) (d : Word), Accepted s h (SADDLEN.MAPNEXT.WHEN.addr n) d → Completes (.mapnextWrite n h d) s (fun t =>
      t.f SADDLEN.MAPNEXT.WHEN n = SADDLEN.MAPNEXT.WHEN.get d ∧ t.f SADDLEN.MAPNEXT.BASE n = SADDLEN.MAPNEXT.BASE.get d ∧
      t.f SADDLEN.MAPNEXT.OK n = 0 ∧ t.f SADDLEN.MAPNEXT.FAIL n = 0 ∧
      (t.mapSt n).checking = decide (SADDLEN.MAPNEXT.WHEN.get d ≠ 0) ∧ WriteAnswered h t)) ∧
    ((s.mapSt n).checking = true →
      (s.mapCheck (s.f SADDLEN.MAPNEXT.BASE n * 64) = true → Completes (.mapCheckDone n) s (fun t =>
        t.f SADDLEN.MAPNEXT.OK n = 1 ∧ (t.mapSt n).checking = false ∧ t.lines = s.lines)) ∧
      (s.mapCheck (s.f SADDLEN.MAPNEXT.BASE n * 64) = false → Completes (.mapCheckDone n) s (fun t =>
        t.f SADDLEN.MAPNEXT.FAIL n = 1 ∧ t.f SADDLEN.MAPNEXT.WHEN n = 0 ∧ t.f SADDLE.STAT.MAPERR = 1 ∧ (t.mapSt n).checking = false ∧
        ∃ r, t.lines = s.lines ++ [r] ∧ r.cls = 2 ∧ r.source = 8))) ∧
    (s.f SADDLEN.MAPNEXT.WHEN n = 2 → s.f SADDLEN.MAPNEXT.OK n = 1 → (s.mapSt n).notBefore ≤ s.mt → s.atRest n = true →
      Completes (.mapSwap n) s (fun t => t.f SADDLEN.MAP.VALID n = 1 ∧ t.f SADDLEN.MAP.BASE n = s.f SADDLEN.MAPNEXT.BASE n ∧
        t.word (SADDLEN.MAPNEXT.OK.addr n) = 0 ∧ t.pg n = { s.pg n with notBefore := s.mt + 200000 } ∧ t.mem = s.mem))

/-- The Saddle decides a chain 2,500 µs before its start. The chain of one vector that one head alone may melt keeps its motion: it is decided, the
head claims the whole vector, and the gate edges stand at its ends where it emits. A stare of a look that can take place sends its target and its
exposure; when none can any more the look ends. -/
def Rules.SaddleDecidesAndStares : Prop :=
  ∀ (n : Fin 24) (s : State), s.canonical = true →
    (∀ (i : Item) (v : PVec), s.f SADDLE.CFG.EN = 1 → s.f SADDLE.CFG.SEPEN = 0 → s.f SADDLE.CFG.PLUMEN = 0 → (s.pg n).items = [i] → i.vec = some v →
      v.chain < (s.pg n).chain → (s.pg n).decided.contains v.chain = false → v.len ≠ 0 → v.shared = false →
      v.parts = [⟨0, v.len / unitWpu, 0, 0⟩] → (∀ x ∈ s.sets, x.first.vid ≠ v.vid) → s.chainFirst n v.chain = true →
      s.mt + 2500000 ≤ (s.pg n).chainStart v.chain →
      Completes (.chainDecide n) s (fun t => t.mt = (s.pg n).chainStart v.chain - 2500000 ∧ (t.pg n).decided = v.chain :: (s.pg n).decided ∧
        (t.pg n).segs = (s.pg n).segs ∧ t.sets = s.sets ++ [⟨v, n, v.geom.startPt.z, s.f PG.JOB.LAYER n, [], [(n, ⟨0, v.len / unitWpu, 0, 0⟩)], [n.val], [n.val]⟩] ∧
        (t.pg n).edges = (s.pg n).edges ++ (if v.pwr = 0 then [] else
          [⟨1, v, 0, timeAt (s.pg n).segs v 0⟩, ⟨0, v, v.len / unitWpu * unitWpu, timeAt (s.pg n).segs v (v.len / unitWpu * unitWpu)⟩]))) ∧
    (∀ l : Look, (s.pg n).look = some l → l.k = 0 →
      (s.stareOk n l 0 = true → Completes (.stare n) s (fun t => t.mt = max s.mt l.h0 ∧ (t.pg n).look = some { l with k := 1 } ∧
        t.f SADDLEN.HSTAT.LOOKING n = 1 ∧ t.stares.length = s.stares.length + 1 ∧
        ∃ a b : Token, t.net = s.net ++ [a, b] ∧ a.dest.toNat = 0x40 + n.val ∧ a.kind = 1#4 ∧ a.stream = 4#8 ∧ b.dest.toNat = 0x330 + n.val ∧
          b.kind = 14#4 ∧ (pinAct b.payload).op = 2 ∧ b.time = BitVec.ofNat 48 (s.stareTime l 0 - s.f SADDLE.LOOK.LWID * 500))) ∧
      (s.stareOk n l 0 = false → Completes (.stare n) s (fun t => (t.pg n).look = none ∧ t.f SADDLEN.HSTAT.LOOKING n = 0 ∧ t.net = s.net)))

/-- A power loop whose gate is low runs in feed-forward: its command is the target scaled by the trim, at most OMAX, with the count of its cycles.
An auxiliary position loop leaves its output within OMAX for the current loop, and one without a measured position 0. A current cycle sends one
commutation token and one command; with the axis off the commutation is off. No pair for 5,000 ns under a high gate sets FBMISS and clears the
states at the next pair. -/
def Rules.PowerAndAuxiliaryCycles : Prop :=
  (∀ (n : Fin 24) (p : Pair) (rest : List Pair) (s : State), s.canonical = true → s.f SERVON.CFG.EN (72 + n) = 1 → (s.loop (72 + n)).pairs = p :: rest →
    (s.loop (72 + n)).pend = none → (s.loop (72 + n)).tableWhen = none → s.gatedAt n p.stamp = true →
    Completes (.powerLoopCycle n) s (fun t => (t.loop (72 + n)).pairs = rest ∧ t.f SERVON.STAT.GATED (72 + n) = 1 ∧
      (t.loop (72 + n)).lastU = min (s.tpOf n p.stamp : Int) (s.f SERVON.LIM.OMAX (72 + n)) ∧
      ∃ u, t.net.getLast? = some u ∧ u.dest.toNat = 0x300 + n.val ∧ u.kind = 1#4 ∧ u.stream = 0x18#8 ∧ u.urgent = true ∧
        bits u.payload 15 0 = min (s.tpOf n p.stamp) (s.f SERVON.LIM.OMAX (72 + n)) ∧
        bits u.payload 63 48 = ((s.loop (72 + n)).cycles + 1) % 65536)) ∧
  (∀ (k : Fin 8) (tc : Nat) (s : State), s.canonical = true → s.f SERVON.CFG.EN (96 + k) = 1 → s.isCycle 121 tc = true →
    Completes (.auxPositionCycle k tc) s (fun t => ∃ u r, (t.aux k).refs.head? = some (tc + 10000, u, r) ∧
      -(s.f SERVON.LIM.OMAX (96 + k) : Int) ≤ u ∧ u ≤ s.f SERVON.LIM.OMAX (96 + k) ∧
      (s.f POS.AX.SRC.V k = 2 → (s.aux k).samples = [] → u = 0 ∧ t.f SERVON.STAT.HOLD (96 + k) = 1))) ∧
  (∀ (k : Fin 8) (tc : Nat) (s : State), s.canonical = true → s.f SERVON.CFG.EN (104 + k) = 1 → s.isCycle 122 tc = true → (s.aux k).samples ≠ [] →
    (s.loop (104 + k)).extrap = 0 →
    Completes (.auxCurrentCycle k tc) s (fun t => ∃ (l : List Token) (a b : Token), t.net = l ++ [a, b] ∧ a.stream = 0x11#8 ∧ b.stream = 0x10#8 ∧
      a.dest.toNat = 0x36C + k.val ∧ b.dest.toNat = 0x36C + k.val ∧ a.time = BitVec.ofNat 48 (tc + s.f SERVO.CFG.AODLY) ∧ b.time = a.time ∧
      (s.f AUX.CFG.EN k = 0 → bits a.payload 63 62 = 2))) ∧
  (∀ (n : Fin 24) (r : Nat) (s : State), s.canonical = true → gateRiseAt s.gateLog n s.mt = some r → gateLevelAt s.gateLog n s.mt = true →
    s.f SERVON.CFG.EN (72 + n) = 1 → (s.loop (72 + n)).clearNext = false →
    Completes (.pairMissing n) s (fun t => t.mt = max s.mt (max r (s.loop (72 + n)).lastPair + 5000) ∧ t.f SERVON.STAT.FBMISS (72 + n) = 1 ∧
      t.loop (72 + n) = { s.loop (72 + n) with clearNext := true } ∧ ∃ e, t.lines = s.lines ++ [e] ∧ e.cls = 2 ∧ e.source = 9))

/-- A write of FFTN starts a copy of the table, whose end sets OK; a write of STBASE validates the state area; a section unit that fails is replaced by
the first spare, RERUNS counts and a warning names unit and loop. -/
def Rules.ServoTablesAndUnits : Prop :=
  (∀ (l : Fin 112) (h : CwFrom) (d : Word) (s : State), s.canonical = true → Accepted s h (SERVON.FFTN.WHEN.addr l) d →
    Completes (.fftnWrite l h d) s (fun t => t.f SERVON.FFTN.WHEN l = SERVON.FFTN.WHEN.get d ∧ t.f SERVON.FFTN.BASE l = SERVON.FFTN.BASE.get d ∧
      t.f SERVON.FFTN.OK l = 0 ∧ (t.loop l).copying = decide (SERVON.FFTN.WHEN.get d ≠ 0) ∧ (t.loop l).table = (s.loop l).table ∧ WriteAnswered h t)) ∧
  (∀ (l : Fin 112) (s : State), s.canonical = true → (s.loop l).copying = true → (s.loop l).tableWhen ≠ some .now →
    Completes (.fftCopyDone l) s (fun t => t.f SERVON.FFTN.OK l = 1 ∧
      t.loop l = { s.loop l with copying := false, tableNew := s.lds (s.f SERVON.FFTN.BASE l * 4096) 512 })) ∧
  (∀ (h : CwFrom) (d : Word) (s : State), s.canonical = true → Accepted s h SERVO.STBASE.BASE.base d →
    Completes (.stbaseWrite h d) s (fun t => t.f SERVO.STBASE.BASE = SERVO.STBASE.BASE.get d ∧ t.f SERVO.STBASE.VALID = 1 ∧ WriteAnswered h t)) ∧
  (∀ (k j : Fin 7) (l : Fin 112) (rest : List Nat) (s : State), s.canonical = true → (s.unitsIn 0).contains k.val = true → s.unitsIn 1 = j.val :: rest →
    Completes (.unitFail k l) s (fun t => bits (t.word SERVO.UNIT.U0.base) (4 * k + 3) (4 * k) = 3 ∧
      bits (t.word SERVO.UNIT.U0.base) (4 * j + 3) (4 * j) = 0 ∧ t.f SERVO.STAT.UNITFAIL = 1 ∧
      t.f SERVO.CNT.RERUNS = min (2 ^ 32 - 1) (s.f SERVO.CNT.RERUNS + 1) ∧ t.f REPAIR.UNIT.STATE (44 + k) = 3 ∧
      t.f REPAIR.UNIT.STATE (44 + j) = 0 ∧ t.f REPAIR.UNIT.ROLE (44 + j) = s.f REPAIR.UNIT.ROLE (44 + k) ∧
      ∃ r, r ∈ t.lines ∧ r.cls = 2 ∧ r.source = 9 ∧ r.rtype = 0xA ∧ r.data0 = wd l))

/-- Quadrature edges count by one, against DIR where it is set, and a double edge leaves COUNT and sets QERR; an index homes with IHOME or, off its
place by a deviation, is corrected with ICOR. Hall steps move HCOUNT by the sectors passed; an impossible state counts and leaves HCOUNT, and one
that outlasts HTO is severe. Nothing but the unit's own words changes. -/
def Rules.EncodersAndHallsCount : Prop :=
  ∀ (k : Fin 8) (s : State), s.canonical = true →
    (∀ (a b : Bool) (t held : Nat), s.f POS.ENC.CFG.EN k = 1 → s.f POS.ENC.CFG.FILT k < held →
      let d := (quadState a b + 4 - quadState (s.enc k).a (s.enc k).b) % 4
      (d = 1 ∨ d = 3 → Completes (.encEdge k a b t held) s (fun u => u.mt = max s.mt t ∧ (u.enc k).a = a ∧ (u.enc k).b = b ∧
        u.f POS.ENC.COUNT.V k = ux 32 (s.fi POS.ENC.COUNT.V k + if decide (d = 3) = s.on POS.ENC.CFG.DIR k then 1 else -1) ∧
        WordsKept s u (fun x => POS.ENC.COUNT.V.addr k ≤ x ∧ x ≤ POS.ENC.STAT.WRAP.addr k))) ∧
      (d = 2 → Completes (.encEdge k a b t held) s (fun u => u.f POS.ENC.COUNT.V k = s.f POS.ENC.COUNT.V k ∧ u.f POS.ENC.STAT.QERR k = 1 ∧
        u.f POS.ENC.CNT.QERRS k = min 65535 (s.f POS.ENC.CNT.QERRS k + 1) ∧ ∃ r, u.lines = s.lines ++ [r] ∧ r.cls = 2 ∧ r.source = 10))) ∧
    (∀ (level : Bool) (t held : Nat), s.f POS.ENC.CFG.EN k = 1 → s.f POS.ENC.CFG.FILT k < held → (s.enc k).i ≠ level →
      level = s.on POS.ENC.ICFG.IACT k → s.f POS.ENC.ICFG.GEN k = 0 →
      ((s.enc k).ref = none → s.f POS.ENC.ICFG.IHOME k = 1 → Completes (.indexEvent k level t held) s (fun u =>
        u.f POS.ENC.COUNT.V k = 0 ∧ u.f POS.ENC.STAT.HOMED k = 1 ∧ u.f POS.ENC.ICFG.IHOME k = 0 ∧
        u.f POS.ENC.IDX.ICOUNT k = s.f POS.ENC.COUNT.V k ∧ u.f POS.ENC.IDXT.V k = t % 2 ^ 64 ∧ (u.enc k).ref = some 0 ∧
        u.f POS.ENC.CNT.INDEXES k = min 65535 (s.f POS.ENC.CNT.INDEXES k + 1))) ∧
      (∀ ref : Int, (s.enc k).ref = some ref → s.f POS.ENC.ICFG.CPR k ≠ 0 → s.f POS.ENC.ICFG.ITOL k = 0 → s.f POS.ENC.ICFG.ICOR k = 1 →
        let dev := indexDev (s.fi POS.ENC.COUNT.V k - ref) (s.f POS.ENC.ICFG.CPR k)
        dev ≠ 0 → Completes (.indexEvent k level t held) s (fun u => u.f POS.ENC.COUNT.V k = ux 32 (s.fi POS.ENC.COUNT.V k - dev) ∧
          u.f POS.ENC.STAT.IDEV k = 1 ∧ u.fi POS.ENC.IDX.DEV k = sat 16 dev))) ∧
    (∀ (a b c : Bool) (t held sec : Nat), s.f POS.HALL.CFG.EN k = 1 → s.f POS.HALL.CFG.FILT k < held →
      let uvw := a.toNat * 4 + b.toNat * 2 + c.toNat
      uvw ≠ s.f POS.HALL.STATE.RAW k →
      (hallSector (s.on POS.HALL.CFG.DIR k) uvw = some sec → ∀ d : Int,
        (d, (sec + 6 - s.f POS.HALL.STATE.SECTOR k) % 6) ∈ [((1 : Int), 1), (-1, 5), (2, 2), (-2, 4)] →
        Completes (.hallChange k a b c t held) s (fun u => u.f POS.HALL.STATE.HCOUNT k = ux 32 (s.fi POS.HALL.STATE.HCOUNT k + d) ∧
          u.f POS.HALL.STATE.SECTOR k = sec ∧ u.f POS.HALL.STATE.RAW k = uvw ∧
          (d.natAbs = 2 → u.f POS.HALL.STAT.HSKIP k = 1) ∧ WordsKept s u (fun x => POS.HALL.STATE.HCOUNT.addr k ≤ x ∧ x ≤ POS.HALL.CNT.HBADS.addr k))) ∧
      (hallSector (s.on POS.HALL.CFG.DIR k) uvw = none → Completes (.hallChange k a b c t held) s (fun u =>
        u.f POS.HALL.STATE.HCOUNT k = s.f POS.HALL.STATE.HCOUNT k ∧ u.f POS.HALL.STAT.HBAD k = 1 ∧
        u.f POS.HALL.CNT.HBADS k = min 65535 (s.f POS.HALL.CNT.HBADS k + 1)))) ∧
    (∀ b : Nat, (s.hall k).badSince = some b → (s.hall k).long = false → s.f POS.HALL.CFG.EN k = 1 →
      Completes (.hallTimeout k) s (fun u => u.mt = max s.mt (b + s.f POS.HALL.CFG.HTO k * 1000) ∧ u.f POS.HALL.STAT.HLONG k = 1 ∧
        u.hall k = { s.hall k with long := true } ∧ ∃ r, u.lines = s.lines ++ [r] ∧ r.cls = 1 ∧ r.source = 10))

/-- At an update instant each enabled encoder reports its estimate, 0 and STILL once no edge has come for STILL ms. An armed probe latches the
counts at its edge, four at most, and sends its oldest record; an emulation channel sends each sample of its axis, scaled, EDLY later. -/
def Rules.SpeedProbesAndEmulation : Prop :=
  (∀ (tu : Nat) (k : Fin 8) (s : State), s.canonical = true → s.isCycle 121 tu = true → s.f POS.ENC.CFG.EN k = 1 →
    Completes (.speedUpdate tu) s (fun u => u.mt = max s.mt tu ∧
      (∀ e rest, (s.enc k).spd.run = e :: rest → s.f POS.ENC.SPCFG.STILL k * 1000000 ≤ tu - e →
        u.f POS.ENC.SPD.MAG k = 0 ∧ u.f POS.ENC.SPD.METHOD k = 0 ∧ u.f POS.ENC.STAT.STILL k = 1) ∧
      (∀ e0 e1 rest, (s.enc k).spd.run = e1 :: e0 :: rest → tu - e1 < s.f POS.ENC.SPCFG.STILL k * 1000000 → (s.enc k).spd.j = 2 →
        (s.enc k).spd.rev = false → (s.enc k).spd.n < s.f POS.ENC.SPCFG.NHI k → s.f POS.ENC.SPD.METHOD k = 1 → 1 ≤ s.f POS.ENC.SPCFG.PAVG k →
        e0 < e1 → tu - e1 ≤ e1 - e0 →
        u.f POS.ENC.SPD.MAG k = min 0xFFFFFFFF (rdiv 16000000000 (e1 - e0)).toNat ∧ u.f POS.ENC.SPD.METHOD k = 1 ∧
        u.f POS.ENC.SPD.DIR k = (s.enc k).spd.neg.toNat ∧ u.f POS.ENC.STAT.STILL k = 0))) ∧
  (∀ (k : Fin 8) (level : Bool) (tp held : Nat) (s : State), s.canonical = true → s.f POS.PRB.STAT.ARMED k = 1 → s.f POS.PRB.CFG.FILT k < held →
    s.f POS.PRB.CFG.EDGE k = 3 → (s.probe k).level ≠ level →
    ((s.probe k).recs.length < 4 → Completes (.probeEvent k level tp held) s (fun u => u.mt = max s.mt tp ∧
      (u.probe k).recs = (s.probe k).recs ++ [⟨tp, level, s.probeCounts, s.on POS.PRB.CFG.GALVO k, s.f POS.PRB.CFG.DEST k, s.f POS.PRB.CFG.STREAM k⟩] ∧
      u.f POS.PRB.STAT.ARMED k = 1 - s.f POS.PRB.CFG.ONCE k ∧ u.lines = s.lines)) ∧
    (4 ≤ (s.probe k).recs.length → Completes (.probeEvent k level tp held) s (fun u => (u.probe k).recs = (s.probe k).recs ∧
      u.f POS.PRB.STAT.DROP k = 1 ∧ u.f POS.PRB.STAT.DROPS k = min 65535 (s.f POS.PRB.STAT.DROPS k + 1)))) ∧
  (∀ (k : Fin 8) (r : ProbeRec) (rest : List ProbeRec) (s : State), s.canonical = true → (s.probe k).recs = r :: rest → r.galvo = false →
    r.counts.length = 8 → Completes (.probeRecord k) s (fun u => (u.probe k).recs = rest ∧ ∃ l : List Token, u.net = s.net ++ l ∧
      l.map (·.payload) = wd (place r.tp 48 16 + place r.rise.toNat 1 3 + place k 3 0) :: r.counts ∧
      ∀ x ∈ l, x.kind = 10#4 ∧ x.src = BitVec.ofNat 10 (0x1A0 + k) ∧ x.dest = BitVec.ofNat 10 r.dest ∧ x.stream = BitVec.ofNat 8 r.stream)) ∧
  (∀ (k : Fin 4) (d : Nat × Nat) (rest : List (Nat × Nat)) (s : State), s.canonical = true → s.f POS.EMU.CFG.EN k = 1 → s.f POS.EMU.CFG.SRC k < 0x48 →
    (s.emu k).due = d :: rest → Completes (.emuUpdate k) s (fun u => u.emu k = { s.emu k with due := rest } ∧
      ∃ x : Token, u.net = s.net ++ [x] ∧ x.kind = 1#4 ∧ x.dest = BitVec.ofNat 10 (0x368 + k) ∧ x.timed = true ∧
        x.time = BitVec.ofNat 48 (d.1 + s.f POS.EMU.CFG.EDLY k) ∧
        x.payload = wd (ux 32 (fshr (d.2 * s.fi POS.EMU.SCALE.MUL k) (s.f POS.EMU.SCALE.SHIFT k)))))

/-- A MOVE that the rules admit joins the queue of each of its axes; one they do not is refused with CODE 0x04, and one that finds a queue full stays
in transit. A STOP waits for the next planning instant. At that instant a queued move starts within the soft limits, or is dropped with SOFT; at or
after its planned end a move in position completes with a notice of status 0, and one that has not settled in time ends with SETTLE. -/
def Rules.AuxiliaryMoves : Prop :=
  (∀ (ts : List Token) (q : Token) (s : State), s.canonical = true → (∀ u ∈ ts ++ [q], u.kind = 2#4 ∧ u.err = false) → q.stream = 0x20#8 →
    (∀ m, s.parseMove (ts ++ [q]) = some m →
      ((∀ k ∈ m.live, (s.auxQueue k).length < 8) → Completes (.auxMove (ts ++ [q])) s (fun t => t.auxMoves = s.auxMoves ++ [m] ∧
        t.net = netWithout s (ts ++ [q]) ∧ ∀ k ∈ m.live, t.f AUX.STAT.QFILL k = (s.auxQueue k).length + 1)) ∧
      ((∃ k ∈ m.live, 8 ≤ (s.auxQueue k).length) → Completes (.auxMove (ts ++ [q])) s (· = s))) ∧
    (s.parseMove (ts ++ [q]) = none → Completes (.auxMove (ts ++ [q])) s (fun t => t.auxMoves = s.auxMoves ∧ LastRefuses q 4 t))) ∧
  (∀ (q : Token) (s : State), AtOnce s q → q.kind = 2#4 → q.stream = 0x21#8 → q.last = true →
    (s.stopOk q.payload = true → Completes (.auxStop q) s (fun t =>
      t.auxStops = s.auxStops ++ [(s.mt, bits q.payload 55 48, 2)] ∧ t.auxMoves = s.auxMoves ∧ ∀ a, blockOf a ≠ 7 → t.word a = s.word a)) ∧
    (s.stopOk q.payload = false → Completes (.auxStop q) s (fun t => Refused 0xB q 4 s t ∧ t.auxStops = s.auxStops))) ∧
  (∀ (k : Fin 8) (tc : Nat) (m : AuxMove) (s : State), s.canonical = true → s.isCycle 121 tc = true → s.auxStops = [] → s.auxMoves = [m] →
    m.live.contains k.val = true →
    (m.run = none → m.start = 0 → m.waits = [] → (∀ x ∈ m.live, s.jogging x = false ∧ s.f AUX.CFG.LOCK x = 0) →
      let path := m.axes.map (fun a => (a.1, (s.aux a.1).ref, if m.rel then a.2.1 else a.2.1 - (s.aux a.1).ref))
      ((∀ a ∈ path, s.fi AUX.SOFT.MIN a.1 ≤ a.2.1 + a.2.2 ∧ a.2.1 + a.2.2 ≤ s.fi AUX.SOFT.MAX a.1) →
        Completes (.moveStart k tc) s (fun t => t.mt = max s.mt tc ∧ t.f AUX.STAT.MOVING k = 1 ∧ t.f AUX.STAT.MOVEID k = m.moveid % 2 ^ 16 ∧
          ∃ r, t.auxMoves = [{ m with run := some r }] ∧ r.ts = tc ∧ r.axes = path ∧ r.stop = none ∧ tc ≤ r.tend)) ∧
      (∀ a : Nat × Int × Int, path = [a] → a.1 = k.val → s.fi AUX.SOFT.MAX k < a.2.1 + a.2.2 → Completes (.moveStart k tc) s (fun t =>
        t.auxMoves = [] ∧ t.f AUX.STAT.SOFT k = 1 ∧ t.f AUX.STAT.MOVING k = 0 ∧ t.f AUX.STAT.QFILL k = 0))) ∧
    (∀ r : AuxRun, m.run = some r → r.stop = none →
      (r.tend ≤ tc → (s.reach tc).notInPos r = [] → Completes (.moveComplete k tc) s (fun t => t.mt = max s.mt tc ∧ t.auxMoves = [] ∧
        t.f AUX.STAT.MOVING k = 0 ∧ t.f AUX.STAT.QFILL k = 0 ∧ (t.aux k).ref = (r.axis k r.tend).1 ∧
        (m.notify = 0 → t.net = s.net) ∧ (m.notify ≠ 0 → m.silent = false → ∃ a b : Token, t.net = s.net ++ [a, b] ∧
          a.payload = wd (place m.moveid 16 48 + place m.mask 8 32) ∧ b.payload = wd tc ∧ b.kind = 5#4 ∧ b.dest = BitVec.ofNat 10 m.notify))) ∧
      ((s.reach (r.tend + r.settle * 1000000)).notInPos r = [k.val] → Completes (.settleTimeout k) s (fun t =>
        t.mt = max s.mt (r.tend + r.settle * 1000000) ∧ t.auxMoves = [] ∧ t.f AUX.STAT.SETTLE k = 1 ∧ t.f AUX.STAT.MOVING k = 0))))

/-- A jog target within the soft limits is taken by an enabled axis with nothing queued, noted as JREF with a move queued, and refused with CODE 0x03
while the axis is disabled. HOLDI sets once the commanded speed has been 0 for HOLDDLY ms; a hub unheard for 64 superframes loses LINK; a write of
FAULT clears it and the reference takes the measured position. -/
def Rules.AxesJogHoldAndRecover : Prop :=
  ∀ (k : Fin 8) (s : State), s.canonical = true →
    (∀ q : Token, q.kind = 1#4 → q.err = false → q.timed = false → q.stream = 2#8 → bits q.payload 63 32 = 0 →
      (s.f AUX.CFG.EN k = 1 → s.f AUX.STAT.FAULT k = 0 → s.f AUX.CFG.EXT k = 0 → s.auxQueue k = [] → Completes (.jog k q) s (fun t =>
        (∃ j, (t.aux k).jog = some j ∧ j.target = clamp (s.fi AUX.SOFT.MIN k) (s.fi AUX.SOFT.MAX k) (sbits q.payload 31 0)) ∧
        (t.aux k).ref = (s.aux k).ref ∧ t.net = s.net.erase q)) ∧
      (s.f AUX.CFG.EN k = 1 → s.f AUX.STAT.FAULT k = 0 → s.auxQueue k ≠ [] → Completes (.jog k q) s (fun t =>
        t.auxs = s.auxs ∧ t.f AUX.STAT.JREF k = 1 ∧ ∃ r, t.lines = s.lines ++ [r] ∧ r.cls = 3 ∧ r.source = 16)) ∧
      (s.f AUX.CFG.EN k = 0 → Completes (.jog k q) s (fun t => Refused (0x260 + k) q 3 s t ∧ t.auxs = s.auxs))) ∧
    (∀ z : Nat, (s.aux k).zeroSince = some z → s.f AUX.STAT.HOLDI k = 0 → Completes (.holdiSet k) s (fun t => t.f AUX.STAT.HOLDI k = 1 ∧
      t.mt = max s.mt (s.trigFrom 121 (z + s.f AUX.CFG.HOLDDLY k * 1000000)) ∧ WordsKept s t (· = AUX.STAT.HOLDI.addr k))) ∧
    (s.f AUX.HUB.LINK k = 1 → Completes (.hubLinkTimeout k) s (fun t => t.f AUX.HUB.LINK k = 0 ∧
      t.mt = max s.mt ((s.aux k).lastHub + 64 * s.superframe) ∧ WordsKept s t (· = AUX.HUB.LINK.addr k))) ∧
    (∀ h : CwFrom, s.f AUX.STAT.FAULT k = 1 → Accepted s h (AUX.STAT.FAULT.addr k) (AUX.STAT.FAULT.put 0 1) → Completes (.auxFaultClear k h) s (fun t =>
      t.f AUX.STAT.FAULT k = 0 ∧ t.f AUX.STAT.SETTLE k = s.f AUX.STAT.SETTLE k ∧ (t.aux k).ref = s.auxMeasured k ∧ WriteAnswered h t))

/-- A frame with a bad check counts in FCSERR; an ARP request for the port is answered; a VCT packet waits for its row. A change of LINK sets
LINKCHG with a warning. Event messages are stamped. -/
def Rules.EthernetPortsTakeFrames : Prop :=
  ∀ (k : Fin 4) (s : State), s.canonical = true →
    (∀ (f : List (BitVec 8)) (sfd : Nat), s.f ETH.CFG.EN k = 1 →
      Completes (.ethernetFrame k f false sfd) s (fun t => t.f ETH.STAT.FCS k = 1 ∧ t.f ETH.CNT.FCSERR k = min 255 (s.f ETH.CNT.FCSERR k + 1) ∧
        t.host = s.host ∧ t.net = s.net) ∧
      (60 ≤ f.length → f.length ≤ 9212 → s.rxFill k + f.length + 4 ≤ 262144 →
        (∀ sha spa, s.frameKind k f = .arp sha spa → s.f ETH.STAT.LINK k = 1 → Completes (.ethernetFrame k f true sfd) s (fun t =>
          (∃ a, t.host.frames.head? = some (k.val, sha ++ a)) ∧
            t.f ETH.CNT.TXFRM k = min (2 ^ 24 - 1) (s.f ETH.CNT.TXFRM k + 1))) ∧
        (∀ p, s.frameKind k f = .vct p → vctHasRow (vctParse p.bytes) = true → Completes (.ethernetFrame k f true sfd) s (fun t =>
          t.host.rx = s.host.rx ++ [(k.val, f.length + 4)] ∧ t.f ETH.CNT.RXFRM k = min (2 ^ 24 - 1) (s.f ETH.CNT.RXFRM k + 1))))) ∧
    (∀ (b h l r : Bool), (b && !h) ≠ s.on ETH.STAT.LINK k → s.f VCT.SUB.MASK = 0 → Completes (.linkChange k b h l r) s (fun t =>
      t.f ETH.STAT.LINK k = (b && !h).toNat ∧ t.f ETH.STAT.LINKCHG k = 1 ∧ t.f ETH.STAT.BLOCK k = b.toNat ∧ t.f ETH.STAT.HIBER k = h.toNat ∧
      t.f ETH.STAT.LFAULT k = l.toNat ∧ t.f ETH.STAT.RFAULT k = r.toNat ∧ ∃ e, e ∈ t.lines ∧ e.cls = 2 ∧ e.source = 17 ∧ e.unit = k)) ∧
    (∀ (q : BitVec 16) (c : Nat) (r : Option Nat), Completes (.transmitStamp k q c r) s (fun t =>
      (∃ o, t.host.txStamps.head? = some (k.val, q.toNat, c + s.f ETH.PTPLAT.TXLAT k * 4096, o)) ∧ t.net = s.net ∧ ∀ a, t.word a = s.word a))

/-- Plant time: a third Announce of a new master selects it and the discipline steps; a Sync of the master makes a step in STEP; in ACQUIRE the 16th
offset below 100 ns locks; the loss of Syncs in LOCKED goes to HOLDOVER with a warning, and a silent master in HOLDOVER to LISTEN. -/
def Rules.PlantTimeDiscipline : Prop :=
  ∀ (p : Fin 4) (s : State), s.canonical = true →
    (∀ (m : AnnounceMsg) (a b : Nat), s.ptpState = ptLISTEN → (s.f ETH.PTP.CFG.PORTS).testBit p = true → m.domain.toNat = s.f ETH.PTP.CFG.DOMAIN →
      s.ptp.heard = [⟨p, m, [a, b]⟩] → s.ptp.master = none → s.mt ≤ a + 4 * m.interval → s.mt ≤ b + 4 * m.interval →
      Completes (.announce p m) s (fun t => t.ptpState = ptSTEP ∧ t.ptp.master = some (p.val, m) ∧ t.f ETH.PTP.GM.V = m.gm.toNat ∧
        t.f ETH.PTP.STAT.PORT = p)) ∧
    (∀ (m : AnnounceMsg) (t1 corr dl : Int) (t2 : Nat), s.ptp.master = some (p.val, m) → s.ptp.delays = [] →
      (s.ptpState = ptSTEP → s.ptp.lastSync = none → s.mt ≤ t2 / 65536 → Completes (.ptpSync p t1 t2 corr (.peer dl)) s (fun t =>
        t.ptpState = ptACQUIRE ∧ t.mt = t2 / 65536 ∧ t.ptp.lastSync = some t2 ∧ t.ptp.rint = 0 ∧ t.ptp.delays = [dl] ∧
        t.f ETH.PTP.STAT.MPD = (clamp 0 65535 (rdiv dl 65536)).toNat)) ∧
      (s.ptpState = ptACQUIRE → s.ptp.near = 15 → s.ptp.lastSync = some t2 → (s.ptAt16 t2 - t1 - corr - dl).natAbs < 100 * 65536 →
        s.f ETH.PTP.CFG.STEPTHR ≠ 0 → (s.reach (t2 / 65536)).ptAt16 t2 = s.ptAt16 t2 →
        Completes (.ptpSync p t1 t2 corr (.peer dl)) s (fun t => t.ptpState = ptLOCKED ∧ t.word TB.PTBASE.NS.base = s.word TB.PTBASE.NS.base))) ∧
    (s.ptpState = ptLOCKED → Completes .syncLoss s (fun t => t.ptpState = ptHOLDOVER ∧ ∃ e, t.lines = s.lines ++ [e] ∧ e.cls = 2 ∧ e.source = 17)) ∧
    (s.ptpState = ptHOLDOVER → Completes .announceTimeout s (fun t => t.ptpState = ptLISTEN ∧ t.ptp.master = none ∧ t.lines = s.lines))

/-- Commands that need no check are answered: PING with the device's identity and times, STATUS with the Basin's word first, CWRD with the word read,
RXSTAT with the window's STAT and its first missing offset, DELIVER to a channel that is not critical, which puts a token into the channel's queue. -/
def Rules.VctQueriesAnswer : Prop :=
  ∀ (p : VctIn) (s : State), let x := vctParse p.bytes
    (VctPlain s p 0x01 0 → Completes (.ping p) s (fun t => t.mem = s.mem ∧
      VctAnswered none p 0 (wordBytes (s.word ID.DEV.VENDOR.base) ++ beBytes 8 s.serial ++ beBytes 8 s.mt ++ ptBytes s.pt) s t)) ∧
    (VctPlain s p 0x02 0 → Completes (.status p) s (fun t => t.mem = s.mem ∧ ∃ rest, VctAnswered none p 0 (beBytes 16 s.statusWord ++ rest) s t)) ∧
    (∀ a : Nat, VctPlain s p 0x03 8 → x.payload = wordBytes (wd a) → a < 2 ^ 48 → cwrFormed (wd a) = true → s.cwRefusal a 0x80#10 = none →
      blockOf a ∉ [7, 15, 19] → Completes (.vctCwrd p) s (fun t => VctAnswered none p 0 (wordBytes (s.readWord a)) s t ∧ t.mem = s.mem)) ∧
    (∀ w o : Nat, VctPlain s p 0x13 1 → beNat (slice x.payload 0 1) = w → w ≤ 3 → s.firstMissing w = some o → Completes (.rxstat p) s (fun t =>
      VctAnswered none p 0 (wordBytes (s.word (VCT.WIN.STAT.STATE.addr w)) ++ beBytes 8 o) s t ∧ t.mem = s.mem)) ∧
    (∀ c : Nat, VctPlain s p 0x20 8 → beNat (slice x.payload 0 1) = c → c ≤ 15 → zeroAt x.payload 1 7 = true → s.f VCT.CHAN.CFG.CRIT c = 0 →
      s.f VCT.CHAN.CFG.EN c = 1 →
      let q := s.f VCT.CHAN.CFG.Q c
      s.f QUEUE.CFG.EN q = 1 → s.f QUEUE.CFG.SEQCHK q = 0 → s.qFill q < s.qSize q → s.qSize q ≤ 2 ^ 16 →
      s.f QUEUE.PTR.HEAD q < 2 * s.qSize q → s.f QUEUE.PTR.TAIL q < 2 * s.qSize q →
      Completes (.deliver p) s (fun t => VctAnswered none p 0 [] s t ∧ t.qFill q = s.qFill q + 1 ∧
        t.ld (s.qSlot q (s.f QUEUE.PTR.TAIL q)) = wd (place x.tag 32 32)))

/-- A command with a right check, a new counter and the right it needs executes and is answered: CWWR stores, RXOPEN opens a window and clears its
bitmap, RXCLOSE of a whole window hands it to the digest, RXABORT closes it, SUBSCRIBE names the subscriber, KEYSET and KEYCLR load and clear a
slot, TIMESET sets plant time, FWSTAGE takes a done window, DALEUP freezes the ring and queues its records, RESET restarts the device. -/
def Rules.VctCommandsExecute : Prop :=
  ∀ (p : VctIn) (key : List Byte) (s : State), let x := vctParse p.bytes
    (∀ (a : Nat) (d : Word) (r : Reg), VctSigned s p 0x04 16 key → x.payload = wordBytes (wd a) ++ wordBytes d → a < 2 ^ 48 → cwwFormed (wd a) = true →
      s.cwRefusal a 0x80#10 = none → regOf a = some r → blockOf a ∈ [21, 23, 24, 27] → r.outOfRange d = false →
      Completes (.vctCwwr p) s (fun t => VctDone key p 0 s t ∧ ∀ f ∈ r.fields, f.acc = .rw → f.fld.get (t.word a) = f.fld.get d)) ∧
    (∀ w notify len base bmap : Nat, VctSigned s p 0x10 24 key →
      x.payload = beBytes 1 w ++ [0#8] ++ beBytes 2 notify ++ beBytes 4 len ++ beBytes 8 base ++ beBytes 8 bmap →
      w ≤ 3 → notify ≤ 1023 → 8 ≤ len → len < 2 ^ 32 → base % 4096 = 0 → bmap % 8 = 0 → (∀ v ≤ 3, s.winState v = 0) → s.inDram base len = true →
      inPlain bmap (bitmapBytes len) = true → Completes (.rxopen p) s (fun t => VctDone key p 0 s t ∧ t.winState w = 1 ∧ t.f VCT.WIN.BASE.V w = base ∧
        t.f VCT.WIN.LEN.V w = len ∧ t.f VCT.WIN.BMAP.V w = bmap ∧ t.f VCT.WIN.STAT.CHUNKS w = 0 ∧ (t.rxWin w).notify = notify ∧
        (∀ i < bitmapBytes len, t.byte (bmap + i) = 0) ∧ BytesKept s t (fun b => bmap ≤ b ∧ b < bmap + bitmapBytes len))) ∧
    (∀ w : Nat, w ≤ 3 → beNat (slice x.payload 0 1) = w →
      (VctSigned s p 0x11 40 key → s.winState w = 1 → s.firstMissing w = none → Completes (.rxclose p) s (fun t => VctDone key p 1 s t ∧
        t.winState w = 2 ∧ t.rxWin w = { s.rxWin w with digest := slice x.payload 8 32, tag := x.tag } ∧ t.mem = s.mem)) ∧
      (VctSigned s p 0x12 1 key → s.winState w = 1 → Completes (.rxabort p) s (fun t => VctDone key p 0 s t ∧ t.winState w = 0 ∧ t.mem = s.mem)) ∧
      (VctSigned s p 0x60 1 key → s.winState w = 3 → s.host.fwstage = none → Completes (.fwstage p) s (fun t => VctDone key p 1 s t ∧
        t.host.fwstage = some (w, x.tag) ∧ t.flash = s.flash))) ∧
    (VctSigned s p 0x30 7 key → 1 ≤ beNat (slice x.payload 6 1) → beNat (slice x.payload 6 1) < 16 → Completes (.subscribe p) s (fun t =>
      VctDone key p 0 s t ∧ t.f VCT.SUB.IPV4 = beNat (slice x.payload 0 4) ∧ t.f VCT.SUB.PORT = beNat (slice x.payload 4 2) ∧
      t.f VCT.SUB.MASK = beNat (slice x.payload 6 1) ∧ t.host.subMac = p.peer.mac.toNat)) ∧
    (∀ k : Nat, beNat (slice x.payload 0 1) = k → k ≤ 7 → k ≠ x.slot →
      (∀ k0, VctSigned s p 0x40 40 key → beNat (slice x.payload 1 1) < 32 → zeroAt x.payload 2 6 = true → (s.slotKey 0).key = some k0 →
        Completes (.keyset p) s (fun t => VctDone key p 0 s t ∧ (t.slotKey k).key = some (unwrapKey k0 x.counter k (slice x.payload 8 32)) ∧
          t.f VCT.SLOT.CFG.KEY k = 1 ∧ t.f VCT.SLOT.CFG.RIGHTS k = (if k = 0 then 31 else beNat (slice x.payload 1 1) / 2 * 2) ∧
          t.f VCT.SLOT.CTR.V k = 0)) ∧
      (VctSigned s p 0x41 1 key → Completes (.keyclr p) s (fun t => VctDone key p 0 s t ∧ (t.slotKey k).key = none ∧ t.f VCT.SLOT.CFG.KEY k = 0 ∧
        t.f VCT.SLOT.CTR.V k = 0))) ∧
    (VctSigned s p 0x50 10 key → beNat (slice x.payload 6 4) < 1000000000 → s.f ETH.PTP.STAT.STATE < 2 → Completes (.timeset p) s (fun t =>
      VctDone key p 0 s t ∧ t.pt = beNat (slice x.payload 0 6) * 1000000000 + beNat (slice x.payload 6 4) ∧ t.mt = s.mt)) ∧
    (let fill := s.daleFill;
      VctSigned s p 0x81 0 key → (∀ r ∈ (s.up 0).reqs, r.daleTag = none) → fill ≠ 0 → s.f DALE.PTR.RIDX % 8192 + fill ≤ 8192 →
      Completes (.daleup p) s (fun t => VctDone key p 1 s t ∧ t.f DALE.CTRL.FREEZE = 1 ∧ t.f DALE.STAT.FROZEN = 1 ∧ (t.up 0).reqs = (s.up 0).reqs ++
        [⟨0x80, 0, s.f DALE.BASE.V * 32 + 32 * (s.f DALE.PTR.RIDX % 8192), 32 * fill, (s.up 0).total + 32 * fill, some x.tag⟩])) ∧
    (VctSigned s p 0x70 2 key → x.payload = [1#8, 1#8] → Completes (.vctReset p) s (fun t => VctAnswered (some key) p 0 [] s t ∧
      t.f VCT.STAT.OPEN = 0 ∧ t.f ETH.CFG.EN p.peer.port = 0 ∧ t.mt = s.mt))

/-- A chunk that fits an open window is placed in DRAM, marked in the bitmap and counted. The digest's match ends a window as DONE with a token to its
client, and a mismatch as FAILED. An accepted image goes to the inactive area for trial. A mirror takes its value, or the slot closes. -/
def Rules.WindowsFillAndComplete : Prop :=
  (∀ (p : VctIn) (s : State), let x := vctParse p.bytes
    let w := x.arg
    let off := beNat (slice x.payload 0 8)
    VctHere s p 3 false → w ≤ 3 → s.winState w = 1 → 8 ≤ x.len → off % 8192 = 0 → off < s.f VCT.WIN.LEN.V w →
    x.len - 8 = min 8192 (s.f VCT.WIN.LEN.V w - off) → 0x100000000000 ≤ s.f VCT.WIN.BASE.V w → s.f VCT.WIN.BMAP.V w + off / 65536 < 0x3000000 →
    s.chunkHere w (off / 8192) = false → Completes (.dataChunk p) s (fun t =>
      t.bytes (s.f VCT.WIN.BASE.V w + off) (x.len - 8) = x.payload.drop 8 ∧ t.chunkHere w (off / 8192) = true ∧
      t.f VCT.WIN.STAT.CHUNKS w = min (2 ^ 32 - 1) (s.f VCT.WIN.STAT.CHUNKS w + 1) ∧ t.winState w = 1 ∧
      BytesKept s t (fun b => s.f VCT.WIN.BASE.V w + off ≤ b ∧ b < s.f VCT.WIN.BASE.V w + off + (x.len - 8) ∨
        b = s.f VCT.WIN.BMAP.V w + off / 65536))) ∧
  (∀ (w : Fin 4) (s : State), s.canonical = true → s.winState w = 2 →
    let sum := sha256 (s.bytes (s.f VCT.WIN.BASE.V w) (s.f VCT.WIN.LEN.V w))
    (sum = (s.rxWin w).digest → Completes (.digestDone w) s (fun t => t.winState w = 3 ∧ t.mem = s.mem ∧ ∃ u : Token, t.net = s.net ++ [u] ∧
      u.dest = BitVec.ofNat 10 (s.rxWin w).notify ∧ u.kind = 0#4 ∧ u.payload = wd (place w 8 56 + place (s.f VCT.WIN.LEN.V w) 32 0))) ∧
    (sum ≠ (s.rxWin w).digest → Completes (.digestDone w) s (fun t => t.winState w = 4 ∧ t.net = s.net ∧ t.mem = s.mem))) ∧
  (∀ (ok : Bool) (w tag : Nat) (s : State), s.canonical = true → s.host.fwstage = some (w, tag) →
    let img := s.bytes (s.f VCT.WIN.BASE.V w) (s.f VCT.WIN.LEN.V w)
    (ok = true → img.length ≤ 33554432 → imageCheck img s = none → Completes (.fwstageComplete ok) s (fun t => t.host.fwstage = none ∧
      t.flash.image (if s.flash.active = 0 then 1 else 0) = img ∧ t.flash.active = s.flash.active ∧ t.flash.trial = 1 ∧ t.flash.tries = 0)) ∧
    (imageCheck img s ≠ none → Completes (.fwstageComplete ok) s (fun t => t.host.fwstage = none ∧ t.flash = s.flash))) ∧
  (∀ (k : Fin 8) (v : Nat) (s : State), s.canonical = true → (s.slotKey k).mirrorTo = some v → (s.slotKey k).held = [] → v < 2 ^ 64 →
    Completes (.mirrorWrite k true) s (fun t => t.f VCT.SLOT.MIRROR.V k = v ∧ t.slotKey k = { s.slotKey k with mirrorTo := none } ∧ t.lines = s.lines) ∧
    Completes (.mirrorWrite k false) s (fun t => t.f VCT.SLOT.CFG.CLOSED k = 1 ∧ t.f VCT.SLOT.MIRROR.V k = s.f VCT.SLOT.MIRROR.V k ∧
      ∃ r, t.lines = s.lines ++ [r] ∧ r.cls = 1 ∧ r.source = 18))

/-- An upload request joins its stream, and one out of range is answered 0x12; a REPLY is answered. A stream sends its next packet, 64 in flight at
most, an acknowledge that ends its only request answers the client, and RTO without progress starts it again from what was acknowledged. -/
def Rules.UploadsReachTheHost : Prop :=
  (∀ (a b : Token) (s : State), s.canonical = true → a.dest = 0x87#10 → a.err = false → b.err = false →
    bits a.payload 63 56 = 1 →
    (bits a.payload 55 52 = 0 → bits a.payload 47 32 = 0 → bits a.payload 51 48 ≠ 0 → bits a.payload 31 0 ≠ 0 → b.payload.toNat % 8 = 0 →
      b.payload.toNat + bits a.payload 31 0 ≤ 0x3000000 → (s.up (bits a.payload 51 48)).reqs.length < 16 → Completes (.upload [a, b]) s (fun t =>
        (t.up (bits a.payload 51 48)).reqs = (s.up (bits a.payload 51 48)).reqs ++ [⟨a.src.toNat, a.stream.toNat, b.payload.toNat, bits a.payload 31 0,
          (s.up (bits a.payload 51 48)).total + bits a.payload 31 0, none⟩] ∧ t.net = netWithout s [a, b] ∧
        t.f VCT.UP.STAT.QFILL (bits a.payload 51 48) = (s.up (bits a.payload 51 48)).reqs.length + 1)) ∧
    (bits a.payload 31 0 = 0 → Completes (.upload [a, b]) s (fun t => t.ups = s.ups ∧ ∃ u, t.net.getLast? = some u ∧ u.dest = a.src ∧ u.kind = 5#4 ∧
      u.payload = wd (place 0x12 8 56)))) ∧
  (∀ (a : Token) (s : State), s.canonical = true → a.dest = 0x87#10 → a.err = false → bits a.payload 63 56 = 2 → bits a.payload 47 32 = 0 →
    Completes (.reply [a]) s (fun t => ∃ u, t.net.getLast? = some u ∧ u.dest = a.src ∧ u.kind = 5#4 ∧ u.payload = 0 ∧ u.stream = a.stream)) ∧
  (∀ (n : Fin 16) (r : UpReq) (k : Nat) (s : State), s.canonical = true → s.subPorts = [k] → s.f VCT.UP.STAT.STATE n ≠ 2 → s.f ETH.CFG.EN k = 1 →
    (s.up n).reqs = [r] → (s.up n).flight = [] → (s.up n).next < r.endOff → r.len ≤ r.endOff → r.endOff - r.len ≤ (s.up n).next →
    let len := min 8192 (r.endOff - (s.up n).next)
    Completes (.uplSend n) s (fun t => (t.up n).next = (s.up n).next + len ∧ (t.up n).flight = [(s.up n).next + len] ∧ (t.up n).reqs = [r] ∧
      ∃ o, t.host.out.head? = some o ∧ o.port = k ∧ o.ip = s.f VCT.SUB.IPV4 ∧ o.udp = s.f VCT.SUB.PORT ∧
        o.bytes.drop 32 = s.bytes (r.addr + ((s.up n).next - (r.endOff - r.len))) len)) ∧
  (∀ (p : VctIn) (r : UpReq) (s : State), let x := vctParse p.bytes
    VctHere s p 5 false → x.opcode ≤ 15 → s.f VCT.UP.STAT.STATE x.opcode = 1 → (s.up x.opcode).reqs = [r] → r.daleTag = none → r.endOff = x.counter →
    s.f VCT.UP.STAT.ACKED x.opcode < x.counter → x.counter = (s.up x.opcode).total → x.counter < 2 ^ 48 → Completes (.uack p) s (fun t =>
      (t.up x.opcode).reqs = [] ∧ t.f VCT.UP.STAT.ACKED x.opcode = x.counter ∧ t.f VCT.UP.STAT.STATE x.opcode = 0 ∧
      ∃ u : Token, t.net = s.net ++ [u] ∧ u.dest = BitVec.ofNat 10 r.src ∧ u.kind = 5#4 ∧ u.payload = wd (place x.counter 48 0))) ∧
  (∀ (n : Fin 16) (s : State), s.canonical = true → (s.up n).flight ≠ [] → s.subPorts ≠ [] → s.f VCT.UP.STAT.STATE n = 1 →
    ((s.up n).tries < s.f VCT.CFG.RETRIES → Completes (.uploadRetransmit n) s (fun t => t.mt = max s.mt ((s.up n).since + s.f VCT.CFG.RTO * 1000) ∧
      t.up n = { s.up n with next := s.f VCT.UP.STAT.ACKED n, flight := [], tries := (s.up n).tries + 1, since := t.mt })) ∧
    (s.f VCT.CFG.RETRIES ≤ (s.up n).tries → Completes (.uploadRetransmit n) s (fun t => t.f VCT.UP.STAT.STATE n = 2 ∧
      ∃ e, t.lines = s.lines ++ [e] ∧ e.cls = 2 ∧ e.source = 18)))

/-- A page time-out closes a row; a tick of a rank's interval timer adds one to D and is repaid at once unless requests wait and D is below POSTMAX,
with every bank of the rank precharged; a poll takes a higher band at once and a lower one at the second reading; an idle rank powers down, and
calibration wakes it. -/
def Rules.DramRanksRefreshAndRest : Prop :=
  ∀ (j : Fin 4) (s : State), s.canonical = true →
    (∀ (sc : Fin 2) (bank : Fin 32), let k := bankKey j sc bank
      ((s.bank k).row.isSome = true → Completes (.pageClose j sc bank) s (fun t => t.bank k = { s.bank k with row := none } ∧
        t.mt = max s.mt ((s.bank k).lastCol + s.f DRAM.PAGE.TMAX) ∧ (∀ i, i ≠ k → t.bank i = s.bank i) ∧ t.cw = s.cw)) ∧
      ((s.bank k).row = none → Completes (.pageClose j sc bank) s (· = s))) ∧
    (s.f DRAM.RANK.STAT.STATE j < 2 → s.f DRAM.STAT.TRAINED 0 = 1 → let d := min 9 (s.f DRAM.RANK.STAT.DEBT j + 1)
      (∀ queued : Bool, Completes (.refreshTick j queued) s (fun t => t.mt = max s.mt (s.rank j).nextTick ∧ t.f DRAM.RANK.STAT.STATE j = 0 ∧
        t.rank j = { s.rank j with nextTick := (s.rank j).nextTick + tREFI (s.f DRAM.RANK.STAT.BAND j) } ∧ t.mem = s.mem ∧
        WordsKept s t (· = DRAM.RANK.STAT.DEBT.addr j) ∧
        (queued = true → d < s.f DRAM.REF.POSTMAX → t.f DRAM.RANK.STAT.DEBT j = d ∧ t.dramBanks = s.dramBanks) ∧
        (queued = false ∨ s.f DRAM.REF.POSTMAX ≤ d → t.f DRAM.RANK.STAT.DEBT j = 0 ∧
          (∀ k, k / 64 = j.val → (t.bank k).row = none ∧ (t.bank k).raa = (s.bank k).raa - d * s.raaimt) ∧ ∀ k, k / 64 ≠ j.val → t.bank k = s.bank k)))) ∧
    (∀ (reading : BitVec 8) (band : Fin 3), let old := s.f DRAM.RANK.STAT.BAND j
      (old < band.val → Completes (.mr4Poll j reading band) s (fun t => t.f DRAM.RANK.STAT.BAND j = band ∧ t.f DRAM.RANK.STAT.MR4 j = reading.toNat ∧
        t.f DRAM.RANK.STAT.DEBT j = 0 ∧ (t.rank j).nextTick = s.mt + tREFI band ∧ (band.val = 2 → t.f DRAM.STAT.HOT 0 = 1) ∧
        ∃ r, t.lines = s.lines ++ [r] ∧ r.source = 5 ∧ r.cls = (if band.val = 2 then 1 else 3))) ∧
      (band.val < old → (s.rank j).lower ≠ some band.val → Completes (.mr4Poll j reading band) s (fun t => t.f DRAM.RANK.STAT.BAND j = old ∧
        t.f DRAM.RANK.STAT.MR4 j = reading.toNat ∧ t.rank j = { s.rank j with lower := some band.val } ∧ t.lines = s.lines)) ∧
      (band.val < old → (s.rank j).lower = some band.val → Completes (.mr4Poll j reading band) s (fun t => t.f DRAM.RANK.STAT.BAND j = band ∧
        t.f DRAM.RANK.STAT.DEBT j = s.f DRAM.RANK.STAT.DEBT j ∧ (t.rank j).nextTick = s.mt + tREFI band))) ∧
    (s.f DRAM.PWR.PDIDLE ≠ 0 → s.f DRAM.RANK.STAT.DEBT j = 0 → s.f DRAM.RANK.STAT.STATE j = 0 → Completes (.powerDownEntry j) s (fun t =>
      t.f DRAM.RANK.STAT.STATE j = 1 ∧ t.mt = max s.mt ((s.rank j).lastReq + s.f DRAM.PWR.PDIDLE) ∧ WordsKept s t (· = DRAM.RANK.STAT.STATE.addr j))) ∧
    (s.f DRAM.PWR.PDIDLE = 0 → Completes (.powerDownEntry j) s (· = s)) ∧
    (s.f DRAM.RANK.STAT.STATE j < 2 → Completes (.zqCalibration j) s (fun t => t.f DRAM.RANK.STAT.STATE j = 0 ∧ t.rank j = { s.rank j with lastZq := s.mt } ∧
        WordsKept s t (· = DRAM.RANK.STAT.STATE.addr j)) ∧
      ∀ drift : Int, Completes (.dqsOscillator j drift) s (fun t => t.f DRAM.RANK.STAT.STATE j = 0 ∧ (t.rank j).lastOsc = s.mt ∧
        (t.rank j).dqDelay = (s.rank j).dqDelay + (if 1 < drift then 1 else if drift < -1 then -1 else 0)))

/-- A channel enters self-refresh on SREQ with its banks precharged and its debts repaid; SR reads 1 when both channels are in it. A request before any
SRE aborts an entry, and ends self-refresh SRMIN after the SRE with D = 0 and a fresh interval; while SREQ is 1 it is held. -/
def Rules.DramSelfRefreshes : Prop :=
  ∀ (c : Fin 2) (s : State), s.canonical = true → let ranks := s.chRanks c
    (s.f DRAM.CTRL.SREQ 0 = 1 → s.f DRAM.RANK.STAT.STATE (2 * c) < 2 → ∀ sre : Bool, Completes (.selfRefreshEntry c sre) s (fun t =>
      (∀ j ∈ ranks, t.f DRAM.RANK.STAT.STATE j = (if sre then 3 else 2) ∧ t.f DRAM.RANK.STAT.DEBT j = 0 ∧ ∀ k, k / 64 = j → (t.bank k).row = none) ∧
      (sre = true → (t.chan c).lastSre = s.mt ∧
        t.f DRAM.STAT.SR 0 = (if t.f DRAM.RANK.STAT.STATE 0 = 3 ∧ t.f DRAM.RANK.STAT.STATE 2 = 3 then 1 else 0)))) ∧
    (s.f DRAM.CTRL.SREQ 0 = 1 → s.f DRAM.RANK.STAT.STATE (2 * c) = 2 → Completes (.selfRefreshEntry c true) s (fun t =>
      (∀ j ∈ ranks, t.f DRAM.RANK.STAT.STATE j = 3) ∧ (t.chan c).lastSre = s.mt)) ∧
    (s.f DRAM.CTRL.SREQ 0 = 0 → s.f DRAM.PWR.SRIDLE = 0 → ∀ sre : Bool, Completes (.selfRefreshEntry c sre) s (· = s)) ∧
    (s.f DRAM.CTRL.SREQ 0 = 1 → Completes (.selfRefreshExit c) s (· = s)) ∧
    (s.f DRAM.CTRL.SREQ 0 = 0 → s.f DRAM.RANK.STAT.STATE (2 * c) = 2 → Completes (.selfRefreshExit c) s (fun t =>
      (∀ j ∈ ranks, t.f DRAM.RANK.STAT.STATE j = 0) ∧ t.f DRAM.STAT.SRABORT 0 = 1 ∧
      t.f DRAM.CNT.SRABORTS 0 = min 65535 (s.f DRAM.CNT.SRABORTS 0 + 1) ∧ t.mt = s.mt)) ∧
    (s.f DRAM.CTRL.SREQ 0 = 0 → s.f DRAM.RANK.STAT.STATE (2 * c) = 3 → Completes (.selfRefreshExit c) s (fun t =>
      t.mt = max s.mt ((s.chan c).lastSre + s.f DRAM.PWR.SRMIN) ∧ t.f DRAM.STAT.SR 0 = 0 ∧
      ∀ j ∈ ranks, t.f DRAM.RANK.STAT.STATE j = 0 ∧ t.f DRAM.RANK.STAT.DEBT j = 0 ∧ (t.rank j).nextTick = t.mt + tREFI (s.f DRAM.RANK.STAT.BAND j)))

/-- The Basin takes the oldest raise: its bit and origin set, its record joins the Dale where the ring takes it, ERROR_n falls for a class of EMASK, and
the class acts: critical sets GOFF, suspends every running path generator with cause 0x4 and stops the auxiliary axes, severe does so under SEVACT 0,
warn tells the host, info does nothing. An injected raise sets INJD and acts only under INJREACT. An acknowledge clears bits with their origins, and a
condition that lasts keeps its bit. -/
def Rules.BasinTakesRaises : Prop :=
  ∀ s : State, s.canonical = true →
    (s.lines = [] → Completes .statusRaise s (· = s)) ∧
    (∀ (r : Raise) (rest : List Raise), s.lines = r :: rest → r.cls < 4 → r.source < 32 → let b := 32 * r.cls + r.source
      Completes .statusRaise s (fun t => t.statusBit BASIN.STATUS.V b = true ∧ t.statusBit BASIN.REAL.V b = true ∧ rest <+: t.lines ∧
        ((s.f BASIN.CFG.EMASK 0).testBit r.cls = true → t.basin.errLow = true ∧ t.basin.errMinEnd = some (s.mt + 10000)) ∧
        (r.cls = 0 ∨ r.cls = 1 ∧ s.f BASIN.CFG.SEVACT 0 = 0 → t.basin.goff = true ∧ t.lasersOff ∧
          ∀ n : Fin 26, s.pgRunning n = true → t.pgState n = pgSUSPENDED ∧ t.f PG.SUSP.CAUSE n = (if r.cls = 0 then 4 else 6)) ∧
        (r.cls = 0 → t.auxStops = s.auxStops ++ [(s.mt, 255, 4)]) ∧
        (2 ≤ r.cls ∨ r.cls = 1 ∧ s.f BASIN.CFG.SEVACT 0 ≠ 0 → t.basin.goff = s.basin.goff ∧ t.pgs = s.pgs ∧ t.auxStops = s.auxStops) ∧
        (r.cls ≤ 2 → r.cls = 2 ∨ s.f BASIN.CFG.SEVACT 0 ≠ 0 → r.cls ≠ 0 → t.host.evtSeq = s.host.evtSeq + 1) ∧
        (2 ≤ r.cls → s.daleLoses r.cls = false →
          t.lds (s.f DALE.BASE.V 0 * 32 + 32 * (s.f DALE.PTR.WIDX 0 % 8192)) 4 = [wd r.mt, daleWord1 r true false s.dale.rseq, r.data0, r.data1] ∧
          t.f DALE.PTR.WIDX 0 = (s.f DALE.PTR.WIDX 0 + 1) % 16384) ∧
        (2 ≤ r.cls → s.daleLoses r.cls = true → t.f DALE.STAT.LOSS 0 = 1 ∧ t.f DALE.STAT.LOST 0 = min (2 ^ 32 - 1) (s.f DALE.STAT.LOST 0 + 1) ∧
          t.mem = s.mem ∧ t.f DALE.PTR.WIDX 0 = s.f DALE.PTR.WIDX 0))) ∧
    (∀ (h : CwFrom) (b : BitVec 7), Accepted s h BASIN.INJ.GO.base (BASIN.INJ.GO.put (BASIN.INJ.BIT.put 0 b.toNat) 1) →
      (∀ r ∈ s.lines, ¬ (r.cls = b.toNat / 32 ∧ r.source = b.toNat % 32 ∧ r.mt = s.mt)) →
      Completes (.injection h b) s (fun t => t.statusBit BASIN.STATUS.V b.toNat = true ∧ t.statusBit BASIN.INJD.V b.toNat = true ∧
        t.statusBit BASIN.REAL.V b.toNat = s.statusBit BASIN.REAL.V b.toNat ∧
        (s.f BASIN.CFG.INJREACT 0 = 0 → t.basin.goff = s.basin.goff ∧ t.pgs = s.pgs) ∧
        (s.f BASIN.CFG.INJREACT 0 = 1 → b.toNat < 32 → t.basin.goff = true ∧ t.lasersOff))) ∧
    (∀ (i : Fin 2) (h : CwFrom) (mask : BitVec 64), Accepted s h (BASIN.STATUS.V.addr i) mask → Completes (.statusAcknowledge i h mask) s (fun t =>
      WriteAnswered h t ∧ ∀ b, b / 64 = i.val →
        (b ∈ s.basin.levels → s.statusBit BASIN.STATUS.V b = true → t.statusBit BASIN.STATUS.V b = true) ∧
        (b ∉ s.basin.levels → mask.getLsbD (b % 64) = true → t.statusBit BASIN.STATUS.V b = false ∧ t.statusBit BASIN.REAL.V b = false ∧
          t.statusBit BASIN.INJD.V b = false) ∧
        (b ∉ s.basin.levels → mask.getLsbD (b % 64) = false → t.statusBit BASIN.STATUS.V b = s.statusBit BASIN.STATUS.V b ∧
          t.statusBit BASIN.REAL.V b = s.statusBit BASIN.REAL.V b ∧ t.statusBit BASIN.INJD.V b = s.statusBit BASIN.INJD.V b)))

/-- A pop retires the oldest records, each marked empty in word 1, and no more than there are. Each µs of MT counts one in every enabled counter of
event 0x640 while RUN is 1. -/
def Rules.DalePopsAndCountersCount : Prop :=
  (∀ (h : CwFrom) (count : BitVec 64) (s : State), s.canonical = true → Accepted s h DALE.POP.COUNT.base count →
    let k := min (DALE.POP.COUNT.get count) s.daleFill
    let r := s.f DALE.PTR.RIDX 0
    let slot := fun i => s.f DALE.BASE.V 0 * 32 + 32 * ((r + i) % 8192) + 8
    Completes (.dalePop h count) s (fun t => t.f DALE.PTR.RIDX 0 = (r + k) % 16384 ∧ t.f DALE.PTR.WIDX 0 = s.f DALE.PTR.WIDX 0 ∧
      (t.daleFill < 8192 → t.f DALE.STAT.FULL 0 = 0) ∧ (∀ i, i < k → t.ld (slot i) = 0) ∧
      BytesKept s t (fun a => ∃ i, i < k ∧ slot i ≤ a ∧ a < slot i + 8) ∧ WriteAnswered h t)) ∧
  (∀ s : State, s.canonical = true → Completes .eachUsOfMt s (fun t => t.mt = (s.mt / 1000 + 1) * 1000 ∧ t.mem = s.mem ∧
    (s.f EC.CTRL.RUN 0 = 0 → t.cw = s.cw) ∧
    (s.f EC.CTRL.RUN 0 = 1 → ∀ i : Fin 64, t.f EC.COUNT.V i =
      (if s.f EC.CFG.EN i = 1 ∧ s.f EC.CFG.EVT i = 0x640 then min (2 ^ 48 - 1) (s.f EC.COUNT.V i + 1) else s.f EC.COUNT.V i))))

/-- The loss of the vault's supply leaves its contents lost, its return starts AT from 0, a stopped crystal holds AT. A tamper erases every key; MREL
releases the mirror. CONFIRM makes the trial area active, SVNBURN raises the least SVN to the running image's, REVOKE burns revocation fuses. -/
def Rules.VaultAndBootControl : Prop :=
  ∀ s : State, s.canonical = true →
    (∀ onVbat tampLow : Bool, Completes (.vaultSupplyLoss onVbat tampLow) s (fun t => t.vault = { s.vault with good := false, supply := false } ∧
      ((onVbat && tampLow) = true → t.f VAULT.STAT.TAMPER 0 = 1) ∧ ((onVbat && tampLow) = false → t.cw = s.cw))) ∧
    (s.vault.supply = false → Completes .vaultSupplyReturn s (fun t => t.atNow = 0 ∧ t.vault = { s.vault with supply := true } ∧ t.cw = s.cw)) ∧
    Completes .crystalStop s (fun t => t.f VAULT.STAT.XTALSTOP 0 = 1 ∧ t.tb.atStopped = true ∧ t.atNow = s.atNow ∧
      WordsKept s t (· = VAULT.STAT.XTALSTOP.addr 0)) ∧
    Completes .crystalRestart s (fun t => t.tb.atStopped = false ∧ t.atNow = s.atNow ∧ t.cw = s.cw) ∧
    (s.f VAULT.STAT.TAMPER 0 = 0 → Completes .tamper s (fun t => t.f VAULT.STAT.TAMPER 0 = 1 ∧ t.f VAULT.TAMP.TICK 0 = s.atNow ∧ t.f VCT.STAT.PROV 0 = 0 ∧
      t.flash.keys = [] ∧ (∀ k, (t.slotKey k).key = none) ∧ (∀ k : Fin 8, t.f VCT.SLOT.CTR.V k = 0) ∧
      ∃ e, t.lines = s.lines ++ [e] ∧ e.cls = 0 ∧ e.source = 22)) ∧
    (s.f VAULT.STAT.TAMPER 0 = 1 → Completes .tamper s (· = s)) ∧
    ∀ h : CwFrom,
      (Accepted s h VAULT.CTRL.MREL.base (VAULT.CTRL.MREL.put 0 1) → Completes (.mrel h) s (fun t => t.f VAULT.STAT.MFRZ 0 = 0 ∧ WriteAnswered h t)) ∧
      (Accepted s h BOOT.CTRL.CONFIRM.base (BOOT.CTRL.CONFIRM.put 0 1) → Completes (.confirm h) s (fun t => WriteAnswered h t ∧ t.boot.trialBoot = false ∧
        (s.boot.trialBoot = true → t.flash.active = s.boot.area ∧ t.flash.trial = 0 ∧ t.flash.tries = 0) ∧
        (s.boot.trialBoot = false → t.flash = s.flash))) ∧
      (Accepted s h BOOT.CTRL.SVNBURN.base (BOOT.CTRL.SVNBURN.put 0 1) → s.boot.svn < 64 → Completes (.svnburn h) s (fun t => WriteAnswered h t ∧
        t.f BOOT.SVN.MIN 0 = (if s.boot.running then max (s.f BOOT.SVN.MIN 0) s.boot.svn else s.f BOOT.SVN.MIN 0) ∧
        t.f BOOT.SVN.REVOKED 0 = s.f BOOT.SVN.REVOKED 0)) ∧
      (∀ mask : BitVec 4, Accepted s h BOOT.CTRL.REVOKE.base (BOOT.CTRL.REVOKE.put 0 mask.toNat) → Completes (.revoke h mask) s (fun t => WriteAnswered h t ∧
        t.f BOOT.SVN.REVOKED 0 = s.f BOOT.SVN.REVOKED 0 ||| mask.toNat ∧ t.f BOOT.SVN.MIN 0 = s.f BOOT.SVN.MIN 0))

/-- A spare that passes its test is counted, one that fails twice is judged failed and recorded, and a tested path generator takes the role of an active one
of its kind. The record is written to the other slot with the next SEQ. The TAP reaches memory and the cores only while TESTMODE is high. -/
def Rules.RepairAndTap : Prop :=
  (∀ (u : Fin 64) (s : State), s.canonical = true → s.testAllowed = true → s.unitState u = uSPARE →
    (∀ pass1 : Bool, Completes (.backgroundTest (.unit u) true pass1 false none) s (fun t =>
      t.f REPAIR.UNIT.TESTS u = min 65535 (s.f REPAIR.UNIT.TESTS u + 1) ∧ t.unitState u = uSPARE ∧ WordsKept s t (· = REPAIR.UNIT.TESTS.addr u))) ∧
    Completes (.backgroundTest (.unit u) false false false none) s (fun t => t.f REPAIR.UNIT.FAILS u = min 255 (s.f REPAIR.UNIT.FAILS u + 2) ∧
      t.unitState u = uFAILED ∧ t.unitRole u = 255 ∧ t.f REPAIR.STAT.UNITFAIL 0 = 1 ∧
      ∃ e ∈ t.boot.entries, e.typ = 0x10 + unitKind u ∧ e.action = 2 ∧ e.unit = u.val) ∧
    (∀ v : Fin 64, unitKind u = 1 → unitKind v = 1 → s.unitState v = uACTIVE → s.f REPAIR.CFG.ROT 0 = 1 → s.barrierHeld = false →
      Completes (.backgroundTest (.unit u) true true false (some v)) s (fun t => t.unitRole u = s.unitRole v ∧ t.unitState u = uACTIVE ∧
        t.unitState v = uSPARE ∧ t.unitRole v = 255))) ∧
  (∀ (x : BgUnit) (p q cut : Bool) (rotate : Option (Fin 64)) (s : State), s.testAllowed = false ∨ cut = true →
    Completes (.backgroundTest x p q cut rotate) s (· = s)) ∧
  (∀ (c : Fin 2) (s : State), s.canonical = true → s.testAllowed = true → (∀ d, (s.gchan d).job = none ∧ (s.gchan d).queue = []) →
    Completes (.backgroundTest (.gorge c) false false false none) s (fun t => t.f REPAIR.STAT.GORGEF 0 = 1 ∧
      ∃ e ∈ t.lines, e.cls = 1 ∧ e.source = 19 ∧ e.unit = c.val)) ∧
  (∀ s : State, Completes .repairRecordWrite s (fun t => t.boot.dirty = false ∧ t.boot.entries = s.boot.entries ∧
    (s.boot.dirty = true → t.mt = s.mt) ∧ (s.boot.dirty = false → t.mt = max s.mt (s.boot.written + 28800000000000)) ∧
    ∃ k x, newestSlot t.flash.slots = some (k, x) ∧ x.entries = s.boot.entries ∧
      (newestSlot s.flash.slots = none → x.seq = 1) ∧ ∀ k' y, newestSlot s.flash.slots = some (k', y) → k = 1 - k' ∧ x.seq = y.seq + 1)) ∧
  (∀ s : State, s.canonical = true →
    (∀ v : Bool, Completes (.tapAccess (.bypass v)) s (fun t => t = { s with boot := { s.boot with tap := wd v.toNat } })) ∧
    Completes (.tapAccess .idcode) s (fun t => bits t.boot.tap 27 12 = 0x2464 ∧ bits t.boot.tap 0 0 = 1 ∧ t.cw = s.cw ∧ t.mem = s.mem) ∧
    Completes (.tapAccess .sample) s (fun t => ∃ w, t = { s with boot := { s.boot with tap := w }, freeCtr := s.freeCtr + 1 }) ∧
    (∀ w : BitVec 64, Completes (.tapAccess (.extest w)) s (fun t => t = { s with boot := { s.boot with tap := w } })) ∧
    (∀ (a : BitVec 48) (w : BitVec 64), a.toNat + 8 ≤ 0x3000000 → a.toNat % 8 = 0 → s.basin.testmode = true →
      (s.eccAt a.toNat = none → Completes (.tapAccess (.memRead a)) s (fun t => t = { s with boot := { s.boot with tap := s.ld a.toNat } })) ∧
      Completes (.tapAccess (.memWrite a w)) s (fun t => t.ld a.toNat = w ∧ BytesKept s t (fun b => a.toNat ≤ b ∧ b < a.toNat + 8) ∧ t.cw = s.cw)) ∧
    (s.basin.testmode = false → ∀ op, (match op with | .bypass _ => False | .idcode => False | .sample => False | .extest _ => False | _ => True) →
      Completes (.tapAccess op) s (· = s)) ∧
    (∀ r : Fin 18, s.basin.testmode = true → s.coreState r = 1 → Completes (.tapAccess (.coreHalt r)) s (fun t => t.coreState r = 0 ∧
      ∀ q, q ≠ r.val → t.core q = s.core q)))

end Sys2Proof.Machine

open Sys2Proof Sys2Proof.Machine

/-- A step runs the command at the front of the queue; an empty queue idles. -/
def Obligations.StepTakesTheFrontCommand : Prop :=
  Rules.StepRunsFrontCommand ∧ Rules.EmptyQueueIdles

/-- Every command answers a next state, and a step consumes exactly one command. -/
def Obligations.EveryCommandCompletes : Prop :=
  Rules.EveryCommandAnswersNext ∧ Rules.EveryStepConsumesOneCommand

/-- Right after reset every table of the state is canonical. -/
def Obligations.ResetIsCanonical : Prop := State.reset.canonical = true ∧ Memory.wf State.reset.mem = true

/-- From every state whose tables are canonical a step answers only a state whose tables are canonical (memory, the control words, every
unit's records). -/
def Obligations.EveryStepKeepsCanonicalTables : Prop :=
  ∀ s t : State, s.canonical = true → step s = .next t → t.canonical = true

/-- What reset leaves, as the spec gives it: every control word holds its map's reset values (R13, R58, R340, R394, R465), the Plain reads 0
(R86), no token is in the network, and GOFF holds every LGATE pin low (R433). MT and the idle queue are the model's own (log entries 3 and 7). -/
def Obligations.ResetLeaves : Prop :=
  (∀ a, State.reset.word a = cwReset a) ∧
  (∀ n : Fin 64, State.reset.f QUEUE.STAT.EMPTY n = 1 ∧ State.reset.f QUEUE.STAT.FULL n = 0 ∧ State.reset.f QUEUE.STAT.DROPS n = 0) ∧
  (∀ n : Fin 128, State.reset.f COL.CFG.POLICY n = if n.val < 48 then 2 else if n.val < 72 then 0 else 1) ∧
  (∀ k : Fin 64, State.reset.f LANE.CFG.MODE k = if k.val < 56 then 2 else if k.val < 60 then 3 else 0) ∧
  (∀ n : Fin 26, State.reset.f PG.LEAD.MIN n = 2 ^ 32 - 1) ∧
  (∀ r : Fin 18, State.reset.coreState r = 0) ∧
  (∀ a, State.reset.byte a = 0) ∧ State.reset.net = [] ∧ State.reset.lines = [] ∧ State.reset.basin.goff = true ∧ State.reset.lasersOff

/-- The rule of a timed token's full instant: MT plus the signed 48-bit difference of the token time and MT, whatever the times are; an
instant before MT 0 does not exist. -/
def Obligations.FullInstantOfATokenTime : Prop :=
  ∀ (mt : Nat) (t : BitVec 48), ∃ d : Int, -2 ^ 47 ≤ d ∧ d < 2 ^ 47 ∧ ((mt : Int) + d - t.toNat) % 2 ^ 48 = 0 ∧
    (fullTime mt t : Int) = max 0 ((mt : Int) + d)

/-- Every layer instruction with operands in the ranges of the opcode tables is read back from the words the tables give it, with every operand,
and its head names as many extension words as it has. -/
def Obligations.LayerInstructionsDecodeTheirEncoding : Prop :=
  ∀ op : LOp, op.wf = true → ∃ h ext, encodeLayer op = h :: ext ∧ bits h 55 54 = ext.length ∧ decodeLayer h ext = op

/-- Zynzu instructions and their 32-bit words agree in both directions. -/
def Obligations.ZynzuWordsAndInstructionsAgree : Prop :=
  Rules.ZynzuInstructionsDecodeTheirEncoding ∧ Rules.ZynzuWordsEncodeTheirDecoding

/-- Words written out from the layouts of R107 and of R132 to R138 decode to the instructions they stand for: (p2) ADD r1, r2, r3;
LI r5, −1; SD r4, 16(r6); BR back by one word; CMP p1 := r2 LT r3; TSENDL r7 on t3; a MARK of 1,000 by −1; POWER 40,000; DWELL 250; a reserved
CLASS. -/
def Obligations.SpelledWordsDecode : Prop :=
  zDecode 0x20022180#32 = .alu 0 1 2 3 0 ∧ zGuard 0x20022180#32 = 2 ∧
  zDecode 0x024BFFFF#32 = .long 9 5 0x1FFFF ∧ zDecode 0x06C86010#32 = .store 0x1B 4 6 16 ∧
  zDecode 0x0A3FFFFF#32 = .br 0x3FFFFF ∧ zDecode 0x080A10C0#32 = .cmp 1 2 2 3 ∧ zDecode 0x0C0ECC00#32 = .tok 3 7 3 0 ∧
  decodeLayer 0x0140000000000000#64 [0xFFFFFFFF000003E8#64] = .mark false 0 1000 (-1) ∧
  decodeLayer 0x2100000000009C40#64 [] = .power 40000 ∧ decodeLayer 0x61000000000000FA#64 [] = .dwell 250 ∧
  decodeLayer 0xA000000000000000#64 [] = .bad

/-- Every row that reads a control word completes from every state where the source may reach the word: the answer carries the word's value,
the read-to-clear fields return to their reset values, and nothing else changes. A request's own delivery may be counted by an event counter
first. -/
def Obligations.RegisterReadsAnswerAndClear : Prop :=
  ∀ (c : Instr) (a : Nat) (h : CwFrom) (s : State), readRow c = some (a, h) → s.canonical = true → s.cwRefusal a h.src = none →
    Completes c s (fun t =>
      let q := cwTok h kindCWR 0 (cwPayload a false) true
      ReadDone a q s (s.deliver cwEp q) t ∧ (blockOf a ≠ 7 → (s.deliver cwEp q).readWord a = s.readWord a) ∧
      WordsKept s t (· = a) ∧ t = { s with cw := t.cw, net := t.net, seqs := t.seqs, pgs := t.pgs } ∧
      ((∀ n, c ≠ .yieldRead n h) → t.pgs = s.pgs))

/-- A CWR answers the word or is refused by CODE. -/
def Obligations.CwrAnswersOrRefuses : Prop :=
  Rules.CwrAnswersTheWord ∧ Rules.CwrRefusals

/-- Rows that write one field or one word take effect and answer ACK. -/
def Obligations.SingleWordWritesTakeEffect : Prop :=
  Rules.FieldWritesTakeEffect ∧ Rules.DataWritesTakeEffect

/-- A CWW stores by access code, and is applied whole or not at all. -/
def Obligations.CwwStoresWholeMessages : Prop :=
  Rules.CwwStoresByAccessCode ∧ Rules.CwwOfTwoBlocksStoresNothing

/-- Queues store arriving tokens, act by their overflow policy, and refuse. -/
def Obligations.QueuesTakeTokens : Prop :=
  Rules.QueueStoresAnArrivingToken ∧ Rules.QueueOverflowPolicies ∧ Rules.QueueRefusals

/-- Queues push their oldest entry, retire by POP and take a new configuration. -/
def Obligations.QueuesPushPopAndReset : Prop :=
  Rules.QueuePushSendsOldest ∧ Rules.QueuePopRetires ∧ Rules.QueueConfigurationWrite

/-- Time base: lock, reference loss, relock, slew, PT writes. -/
def Obligations.TimeBaseKeepsTime : Prop :=
  Rules.TimeBaseEvents ∧ Rules.PtFollowsTheWordsWritten

/-- Cols hold timed tokens, act by their late policy, and refuse. -/
def Obligations.ColsHoldTimedTokens : Prop :=
  Rules.ColHoldsATimedToken ∧ Rules.ColLatePolicies ∧ Rules.ColRefusals

/-- Pin and trigger cols release; a disabled col discards; a fault is cleared. -/
def Obligations.ColsReleaseAndClear : Prop :=
  Rules.PinColRelease ∧ Rules.TriggerColsRelease ∧ Rules.ColDisableDiscards ∧ Rules.ColFaultIsCleared

/-- Memory reads answer the words or one refusal. -/
def Obligations.MemoryReadsAnswerOrRefuse : Prop :=
  Rules.MemoryReadAnswersTheWords ∧ Rules.MemoryReadRefusals

/-- A write message of whole words to the Plain stores them from its address on, and no other byte changes; ACK is answered with the number of
words. -/
def Obligations.MemoryWriteStoresTheWords : Prop :=
  ∀ (q : Token) (data : List Token) (s : State), s.canonical = true → q.dest = 0x10#10 → q.timed = false → (∀ u ∈ q :: data, u.err = false) →
    (memHead q.payload).op = 0 → (memHead q.payload).byteen = 255 → data.length = (memHead q.payload).count →
    (memHead q.payload).addr + 8 * (memHead q.payload).count ≤ 0x3000000 →
    Completes (.mwrWrite (q :: data)) s (fun t =>
      t.lds (memHead q.payload).addr (memHead q.payload).count = data.map (·.payload) ∧
      BytesKept s t (fun a => (memHead q.payload).addr ≤ a ∧ a < (memHead q.payload).addr + 8 * (memHead q.payload).count) ∧
      ((memHead q.payload).ack = false → t.net = netWithout s (q :: data)) ∧
      ((memHead q.payload).ack = true → ∃ n, t.net = netWithout s (q :: data) ++
        [{ mkTok 0x10 q.src.toNat kindRSP q.stream.toNat (wd (memHead q.payload).count) with seq := n }]))

/-- The three atomic operations at a word of the Plain: swap stores the operand, fetch-and-add the sum modulo 2^64, compare-and-swap the second
operand where the word equals the first; each answers the old word. -/
def Obligations.AtomicOperations : Prop :=
  ∀ (q d e : Token) (s : State),
    (PlainAtomic s q [d] 1 → Completes (.swap [q, d]) s (AtomicDone q [d] d.payload s)) ∧
    (PlainAtomic s q [d] 2 → Completes (.fetchAdd [q, d]) s (AtomicDone q [d] (s.ld (memHead q.payload).addr + d.payload) s)) ∧
    (PlainAtomic s q [d, e] 3 → Completes (.compareAndSwap [q, d, e]) s (AtomicDone q [d, e]
      (if s.ld (memHead q.payload).addr = d.payload then e.payload else s.ld (memHead q.payload).addr) s))

/-- Refusal point, absorbed responses, the scrub of the Plain, returned credit. -/
def Obligations.AbsorptionScrubAndCredit : Prop :=
  Rules.RefusalPointAndAbsorption ∧ Rules.PlainScrubCorrects ∧ Rules.CreditReturn

/-- Zynzu arithmetic: results, port operands, immediates, register zero. -/
def Obligations.ArithmeticResults : Prop :=
  Rules.RegisterZeroReadsZero ∧ Rules.AluResults ∧ Rules.AluPortForms ∧ Rules.ImmediateResults

/-- Zynzu loads and stores use local memory. -/
def Obligations.LoadsAndStoresUseLocalMemory : Prop :=
  Rules.LoadsReadLocalMemory ∧ Rules.StoresWriteLocalMemory

/-- Layer barriers are judged; a beacon releases held messages. -/
def Obligations.BarriersAndBeacons : Prop :=
  Rules.BarriersAreJudged ∧ Rules.BeaconReleasesHeldMessages

/-- Compares, predicate logic, branches, the token-port and state-word instructions, FENCE, a WAITT whose time has come and the bulk operations
retire with the effect of R108 to R117 and R123 on their core, and nothing else changes. An instruction whose guard is false only moves on. -/
def Obligations.CoreInstructionsRetire : Prop :=
  (∀ (i : Instr) (r : Fin 18) (g : BitVec 4) (f : State → Core → Option Core) (c : Core) (s : State),
    coreRow i = some (r, g, f) → Ready s r g → f s (s.core r) = some c → Completes i s (RetiresAlone r c s)) ∧
  (∀ (r : Fin 18) (g : BitVec 4) (o : BitVec 22) (s : State), s.canonical = true → s.coreState r = 1 → (s.core r).blocked = none →
    (s.core r).asyncDue = false → (s.core r).stepping = false → (s.core r).guardOk g = false →
    Completes (.zBr r g o) s (RetiresAlone r { s.core r with pc := (s.core r).pc + 4 } s))

/-- A remote row sends its request through t6: a read, an atomic operation or GETMT then waits for the answer in STATE 2, a posted write retires and
counts among the posted. A misaligned address raises cause 0x02. The answer to a waiting RLD is its result, and a refusal raises cause 0x06. -/
def Obligations.RemoteRequests : Prop :=
  (∀ (i : Instr) (r : Fin 18) (g : BitVec 4) (ok : Core → Bool) (posted : Bool) (m : State → Core → Nat × Nat × List Word) (s : State),
    remoteRow i = some (r, g, ok, posted, m) → Ready s r g →
    (ok (s.core r) = true → posted = false → Completes i s (fun t =>
      T6Sent r (m s (s.core r)).1 (m s (s.core r)).2.1 (m s (s.core r)).2.2 s t ∧ t.coreState r = 2 ∧ (t.core r).pc = (s.core r).pc ∧
      (t.core r).regs = (s.core r).regs ∧ (t.core r).blocked.map (·.await) = some (some (m s (s.core r)).1) ∧ t.mem = s.mem)) ∧
    (ok (s.core r) = true → posted = true → (s.core r).posted < 16 → Completes i s (fun t =>
      T6Sent r (m s (s.core r)).1 (m s (s.core r)).2.1 (m s (s.core r)).2.2 s t ∧ t.mem = s.mem ∧
      Retires r { s.core r with posted := (s.core r).posted + 1, pc := (s.core r).pc + 4 } s t)) ∧
    (∀ a, i = .zRld r g 1 a → ok (s.core r) = false → (s.core r).ex = false → Completes i s (Enters r 2 ((s.core r).reg a) s))) ∧
  (∀ (r : Fin 18) (g : BitVec 4) (d a : BitVec 5) (q : Token) (refused : Bool) (b : Blocked) (s : State), s.canonical = true →
    s.coreState r = 2 → (s.core r).blocked = some b → b.op = .sys 8 d a 0 → b.await = some q.src.toNat → q.kind = 5#4 →
    srcAllowed (portEp r 6) q.src = true → (s.core r).ex = false → (s.core r).stepping = false →
    (q.err = false → Completes (.portTokenArrival r 6 q refused) s (fun t =>
      (t.core r).regs = ((s.core r).setReg d q.payload).regs ∧ (t.core r).pc = (s.core r).pc + 4 ∧ (t.core r).blocked = none ∧ t.coreState r = 1 ∧
      t.net = s.net.erase q)) ∧
    (q.err = true → refused = true → Completes (.portTokenArrival r 6 q refused) s (fun t =>
      (t.core r).pc = 0x60 ∧ (t.core r).code = 6 ∧ (t.core r).info = q.payload ∧ (t.core r).regs = (s.core r).regs ∧ t.net = s.net.erase q)))

/-- TSENDL sends its register as a token with flags.last; HALT halts the core; BRK, an ERET outside a handler and a branch out of code memory enter
the handler of cause 0x08, 0x01 and 0x03 with EPC at the instruction, and inside a handler a BRK is a double fault: the core halts with DFLT and
raises a status. A TSENDL without credit, a WAITT before its time and a FENCE with a posted write under way block in STATE 2, 3 and 4. -/
def Obligations.ExceptionsHaltAndBlock : Prop :=
  ∀ (r : Fin 18) (g : BitVec 4) (s : State), Ready s r g →
    (∀ (a : BitVec 5) (p : BitVec 3), p ≠ 6 → s.credits ((s.core r).port p.toNat) ((s.core r).port p.toNat).dest.toNat ≠ 0 →
      Completes (.zTsendl r g a p) s (fun t => let q := (s.core r).port p.toNat
        ∃ u, t.net = s.net ++ [u] ∧ u.payload = (s.core r).reg a ∧ u.last = true ∧ u.dest = q.dest ∧ u.kind = q.kind ∧ u.stream = q.stream ∧
          u.seq = q.seq ∧ u.src.toNat = portEp r p.toNat ∧ ((t.core r).port p.toNat).seq = q.seq + 1 ∧ (t.core r).pc = (s.core r).pc + 4 ∧
          (t.core r).regs = (s.core r).regs)) ∧
    Completes (.zHalt r g) s (fun t => t.coreState r = 0 ∧
      t.core r = { s.core r with pc := (s.core r).pc + 4, icount := (s.core r).icount + 1 } ∧ t.net = s.net ∧ t.mem = s.mem) ∧
    ((s.core r).ex = false → Completes (.zBrk r g) s (Enters r 8 0 s)) ∧
    ((s.core r).ex = false → Completes (.zEret r g) s (Enters r 1 ((zEncode g (.sys 2 0 0 0)).zeroExtend 64) s)) ∧
    (∀ o : BitVec 22, (s.core r).ex = false → (0xFFFC < (s.core r).pc + 4 * o.toInt ∨ (s.core r).pc + 4 * o.toInt < 0) →
      Completes (.zBr r g o) s (Enters r 3 (wdi ((s.core r).pc + 4 * o.toInt)) s)) ∧
    ((s.core r).ex = true → Completes (.zBrk r g) s (fun t => t.coreState r = 0 ∧ t.f CORE.STAT.DFLT r = 1 ∧ t.core r = s.core r ∧
      ∃ e, t.lines = s.lines ++ [e] ∧ e.cls = (if r.val < 2 then 1 else 2) ∧ e.source = 6 ∧ e.rtype = 8)) ∧
    (∀ (a : BitVec 5) (p : BitVec 3), p ≠ 6 → s.credits ((s.core r).port p.toNat) ((s.core r).port p.toNat).dest.toNat = 0 →
      Completes (.zTsendl r g a p) s (fun t => t.coreState r = 2 ∧ (t.core r).pc = (s.core r).pc ∧ t.net = s.net)) ∧
    (∀ a : BitVec 5, s.mt < ((s.core r).reg a).toNat → Completes (.zWaitt r g a) s (fun t => t.coreState r = 3 ∧ (t.core r).pc = (s.core r).pc)) ∧
    ((s.core r).posted ≠ 0 → Completes (.zFence r g) s (fun t => t.coreState r = 4 ∧ (t.core r).pc = (s.core r).pc))

/-- What comes to a core from outside: a token joins a port's buffer; an asynchronous cause is taken at a boundary, with EPC at the next
instruction; a blocked instruction of a core with BLKTO set times out with cause 0x07; the acknowledge of a posted write is counted off, and a
refused one leaves cause 0x06 pending; a bulk operation of one word copies it and frees its slot. -/
def Obligations.CoreEvents : Prop :=
  ∀ (r : Fin 18) (s : State), s.canonical = true →
    (∀ (p : Fin 8) (q : Token) (f : Bool), p.val ≠ 6 → s.coreState r = 1 → (s.core r).blocked = none → ((s.core r).port p).buf.length < 4 →
      srcAllowed (portEp r p) q.src = true → (q.kind = 0#4 ∨ q.kind = 1#4 ∨ q.kind = 2#4) →
      Completes (.portTokenArrival r p q f) s (fun t => ((t.core r).port p).buf = ((s.core r).port p).buf ++ [q] ∧ t.net = s.net.erase q ∧
        (t.core r).regs = (s.core r).regs ∧ (t.core r).pc = (s.core r).pc ∧ ∀ x : Fin 8, x ≠ p → (t.core r).port x = (s.core r).port x)) ∧
    (∀ (code : Nat) (info : Word), (s.core r).pend = some (code, info) → s.coreState r = 1 → (s.core r).ex = false → (s.core r).maska = false →
      (s.core r).blocked = none →
      Completes (.asyncCauseTaken r) s (fun t => t = { s with cores := t.cores } ∧ (∀ x, x ≠ r.val → t.core x = s.core x) ∧
        t.core r = { s.core r with epc := wd (s.core r).pc, code := code, async := true, more := (s.core r).pendMore, info := info, ex := true,
                                   pc := 16 * code, pend := none, pendMore := false })) ∧
    (∀ b : Blocked, (s.core r).blocked = some b → s.f CORE.CFG.BLKTO r ≠ 0 → s.coreState r = 2 → (s.core r).ex = false → (s.core r).stepping = false →
      Completes (.portTimeout r) s (fun t => t.mt = max s.mt (b.since + s.f CORE.CFG.BLKTO r * 1000) ∧ (t.core r).pc = 0x70 ∧ (t.core r).code = 7 ∧
        (t.core r).info = wd b.mask ∧ (t.core r).epc = wd (s.core r).pc ∧ (t.core r).blocked = none ∧ t.coreState r = 1)) ∧
    (∀ q : Token, q.kind = 5#4 → (s.core r).posted ≠ 0 → (s.core r).blocked = none →
      Completes (.postedWriteAck r q) s (fun t => t.net = s.net.erase q ∧ (t.core r).posted = (s.core r).posted - 1 ∧
        (q.err = false → (t.core r).pend = (s.core r).pend) ∧ (q.err = true → (s.core r).pend = none → (t.core r).pend = some (6, q.payload)))) ∧
    (∀ b : Bulk, (s.core r).bulks = [b] → b.words = 1 → (s.core r).blocked = none → b.stream < 256 → b.src % 8 = 0 → b.dst % 8 = 0 →
      b.src + 8 ≤ 0x3000000 → b.dst + 8 ≤ 0x3000000 → s.eccAt b.src = none →
      Completes (.bulkComplete r (BitVec.ofNat 8 b.stream)) s (fun t => t.ld b.dst = s.ld b.src ∧ BytesKept s t (fun a => b.dst ≤ a ∧ a < b.dst + 8) ∧
        (t.core r).bulks = [] ∧ (t.core r).pend = (s.core r).pend))

/-- R120: a synchronous exception inside a handler halts the core where it stands, sets DFLT and raises a status, severe for cores 0 and 1 and warn for
the others, whose record carries the core, both codes and both addresses. -/
def Obligations.DoubleFaultHaltsTheCore : Prop :=
  ∀ (i : Instr) (r : Fin 18) (g : BitVec 4) (code : Nat) (info : Word) (s : State), syncRow s i = some (r, g, code, info) → Ready s r g →
    (s.core r).ex = true → (s.core r).pc < 2 ^ 16 → let c := s.core r
    Completes i s (fun t => t.coreState r = 0 ∧ t.core r = c ∧ t.f CORE.STAT.DFLT r = 1 ∧ t.mem = s.mem ∧ t.net = s.net ∧
      (∀ q, q ≠ r.val → t.core q = s.core q) ∧
      ∃ e, t.lines = s.lines ++ [e] ∧ e.cls = (if r.val < 2 then 1 else 2) ∧ e.source = 6 ∧ e.unit = r.val ∧ e.rtype = 8 ∧ e.mt = s.mt ∧
        bits e.data0 47 40 = code ∧ bits e.data0 39 32 = c.code % 256 ∧ bits e.data0 31 16 = c.pc ∧ bits e.data0 15 0 = c.epc.toNat % 2 ^ 16 ∧ e.data1 = c.info ∧
        (s.lines = [] → (∀ n : Fin 26, s.pgRunning n = false) → s.daleLoses e.cls = false → ∃ u, exec .statusRaise t = .next u ∧
          u.statusBit BASIN.STATUS.V (32 * e.cls + 6) = true ∧
          u.lds (s.f DALE.BASE.V 0 * 32 + 32 * (s.f DALE.PTR.WIDX 0 % 8192)) 4 = [wd s.mt, daleWord1 e true false s.dale.rseq, e.data0, e.data1]))

/-- Execution reaches a planned layer instruction at its planned instant: EOFS names it, the modal state is the one planned after it, a vector is the
one in execution and is counted, MARKER shows in MARK, DWELL begins its dwell and TRIG sets or ends the schedule. The dwell ends at its instant.
LEND sends the notice with the vector count and the layer, marks the window done and enters ENDED. -/
def Obligations.LayerInstructionsExecute : Prop :=
  (∀ (c : Instr) (n : Fin 26) (P : LOp → Prop) (i : Item) (rest : List Item) (s : State), layerRow c = some (n, P) → s.canonical = true →
    (s.pg n).items = i :: rest → P i.op → i.err = false → i.cont = false → s.pgRunning n = true → (s.pg n).cur = none →
    i.win = s.f PG.WPOS.XIDX n → (∀ v, i.vec = some v → (s.pg n).decided.contains v.chain = true) →
    Completes c s (fun t => t.mt = max s.mt i.t0 ∧ t.f PG.WPOS.EOFS n = i.ofs % 2 ^ 32 ∧ (t.pg n).items = rest ∧ (t.pg n).modal = i.pmAfter ∧
      (t.pg n).cur = i.vec ∧ (t.pg n).opEnd = i.t1 ∧ (t.pg n).vectors = (if i.op.isVector then (s.pg n).vectors + 1 else (s.pg n).vectors) ∧
      (∀ m, i.op = .marker m → t.f PG.MARK.V n = m % 2 ^ 32) ∧ (∀ d, i.op = .dwell d → (t.pg n).dwellEnd = some i.t1) ∧
      (∀ en p w e, i.op = .trig en p w e → (t.pg n).trigNew = en ∧ (en = false → (t.pg n).sched = none)) ∧
      t.net = s.net ∧ (∀ m, m ≠ n.val → t.pg m = s.pg m) ∧ WordsKept s t (fun a => a = PG.WPOS.EOFS.addr n ∨ a = PG.MARK.V.addr n))) ∧
  (∀ (n : Fin 26) (x : Nat) (s : State), s.canonical = true → (s.pg n).dwellEnd = some x →
    Completes (.pgDwellEnd n) s (fun t => t.mt = max s.mt x ∧ (t.pg n).dwellEnd = none ∧ t.net = s.net ∧ ∀ a, t.word a = s.word a)) ∧
  (∀ (n : Fin 26) (i : Item) (s : State), s.canonical = true → (s.pg n).items = [i] → i.op = .lend → i.err = false → i.cont = false →
    s.pgRunning n = true → (s.pg n).cur = none → (s.pg n).gateHigh = false → i.win = s.f PG.WPOS.XIDX n → (s.pg n).notify < 1024 →
    Completes (.pgLend n) s (fun t => t.mt = max s.mt i.t1 ∧ t.pgState n = pgENDED ∧ t.f PG.WPOS.EOFS n = i.ofs % 2 ^ 32 ∧ (t.pg n).items = [] ∧
      ∃ u ∈ t.net, u.src.toNat = 0x40 + n ∧ u.dest.toNat = (s.pg n).notify ∧ u.kind = 9#4 ∧
        bits u.payload 63 32 = (s.pg n).vectors % 2 ^ 32 ∧ bits u.payload 31 0 = s.f PG.JOB.LAYER n))

/-- The decoder reads the next instruction of a ready window: a modal one joins the plan with the modal state after it, one whose words spell none
stops decoding with an instruction error; a window used up passes to the next; without a ready descriptor nothing is decoded. A segment is fixed
2,000 µs before it starts, and one that is not yet decided by then is held with STAT.HOLD. LEAD follows the window lead. -/
def Obligations.PlanningReadsWindows : Prop :=
  ∀ (n : Fin 26) (s : State), s.canonical = true → s.pgRunning n = true →
    let d := s.descr n (s.f PG.WPOS.RIDX n)
    let a := d.addr + ((s.pg n).decOfs - d.offset)
    let m := bits (s.ld a) 55 54
    let op := decodeLayer (s.ld a) (s.lds (a + 8) m)
    (∀ c, c = .plan n ∨ c = .windowPoll n → (s.pg n).decEnd = false → (s.pg n).decNew = false →
      (d.usable = true → d.done = false → s.windowBad n d = false → d.offset ≤ (s.pg n).decOfs →
        ((s.pg n).decOfs - d.offset + 8 * (m + 1) ≤ d.len → s.anyUe a (m + 1) = false → (s.pg n).openVec = none →
          (isModal op = true → Completes c s (fun t => (t.pg n).decOfs = (s.pg n).decOfs + 8 * (m + 1) ∧ (t.pg n).pm = op.modal (s.pg n).pm ∧
            ∃ i, (t.pg n).items = (s.pg n).items ++ [i] ∧ i.ofs = (s.pg n).decOfs ∧ i.op = op ∧ i.err = false ∧ i.pmAfter = op.modal (s.pg n).pm)) ∧
          (op = .bad → Completes c s (fun t => (t.pg n).decEnd = true ∧
            ∃ i, (t.pg n).items = (s.pg n).items ++ [i] ∧ i.ofs = (s.pg n).decOfs ∧ i.err = true))) ∧
        (d.len ≤ (s.pg n).decOfs - d.offset → d.last = false → Completes c s (fun t =>
          t.f PG.WPOS.RIDX n = (s.f PG.WPOS.RIDX n + 1) % s.ringSize n % 2 ^ 6 ∧ (t.pg n).decNew = true ∧ (t.pg n).items = (s.pg n).items))) ∧
      (d.usable = false → (s.pg n).openVec = none → Completes c s (fun t => t.pg n = s.pg n ∧ t.net = s.net ∧ ∀ a, t.word a = s.word a))) ∧
    (∀ (g : Seg) (rest : List Seg), (s.pg n).segs = g :: rest → g.com = false → s.f PG.STRACE.EN n = 0 →
      ((g.chain = none ∨ ∃ k, g.chain = some k ∧ (s.pg n).decided.contains k = true) → s.mt + 2000000 ≤ g.t0 →
        Completes (.segmentCommit n) s (fun t => t.mt = g.t0 - 2000000 ∧ (t.pg n).segs = { g with com := true } :: rest)) ∧
      (∀ k, g.chain = some k → (s.pg n).decided.contains k = false → g.t0 < s.mt + 2000000 →
        Completes (.segmentCommit n) s (fun t => t.f PG.STAT.HOLD n = 1 ∧ t.pg n = (s.pg n).delay g.t0 (s.mt + 2000000 - g.t0)))) ∧
    Completes (.leadUpdate n) s (fun t => t.f PG.LEAD.V n = min (2 ^ 32 - 1) (s.lead n) ∧
      t.f PG.LEAD.MIN n = min (min (2 ^ 32 - 1) (s.lead n)) (s.f PG.LEAD.MIN n) ∧
      (s.pgState n = pgRUN → s.lead n < 40000 → (s.pg n).lowCross = false → t.f PG.JOB.LOWLEAD n = 1 ∧ ∃ r, t.lines = s.lines ++ [r] ∧ r.cls = 2) ∧
      (40000 ≤ s.lead n → t.lines = s.lines) ∧ t.mem = s.mem ∧ t.net = s.net)

/-- The job commands: ARM takes an IDLE path generator whose conditions hold to ARMED at descriptor 0; PAUSE takes RUN to PAUSING; RESUME takes
SUSPENDED to RESUMING at the offset of the suspension; ABORT drops the plan and enters ABORTED; DISARM returns ENDED or ABORTED to IDLE. One that
its state does not permit is turned away. The pause point and an underrun suspend with causes 0x1 and 0x2, and the notice carries PG[n].SUSP; the
resumed motion's start takes RESUMING to RUN. -/
def Obligations.JobCommandsMoveTheState : Prop :=
  ∀ (n : Fin 26) (s : State), s.canonical = true →
    (∀ q : Token,
      (JobToken s n 1 q → (s.armAllowed n = true → Completes (.arm n q) s (fun t => t.pgState n = pgARMED ∧ t.f PG.WPOS.RIDX n = 0 ∧
        t.f PG.WPOS.XIDX n = 0 ∧ t.f PG.JOBID.V n = bits q.payload 31 0 ∧ (t.pg n).notify = bits q.payload 41 32 ∧ (t.pg n).items = [] ∧
        (t.pg n).modal.pwr = 0 ∧ t.net = s.net.erase q)) ∧ (s.armAllowed n = false → Completes (.arm n q) s (TurnedAway n s))) ∧
      (JobToken s n 2 q → (s.pgState n = pgRUN → Completes (.pause n q) s (fun t => t.pgState n = pgPAUSING ∧ (t.pg n).pause = some (bit q.payload 0))) ∧
        (s.pgState n ≠ pgRUN → Completes (.pause n q) s (TurnedAway n s))) ∧
      (JobToken s n 3 q → bits q.payload 15 0 ≤ 10000 → let d := s.descr n (s.f PG.WPOS.XIDX n)
        (s.resumeAllowed n = true → (d.usable = true → d.offset ≤ s.f PG.SUSP.OFS n ∧ s.f PG.SUSP.OFS n < d.offset + d.len) →
          Completes (.resume n q) s (fun t => t.pgState n = pgRESUMING ∧ t.f PG.WPOS.RIDX n = s.f PG.WPOS.XIDX n ∧
            (t.pg n).decOfs = s.f PG.SUSP.OFS n ∧ (t.pg n).decEnd = false)) ∧
        (s.resumeAllowed n = false → Completes (.resume n q) s (TurnedAway n s))) ∧
      (JobToken s n 4 q → (s.pgState n ≠ pgIDLE → Completes (.abort n q) s (fun t => t.pgState n = pgABORTED ∧ (t.pg n).items = [] ∧
          (t.pg n).gateHigh = false ∧ (t.pg n).sched = none ∧ (t.pg n).pos = ⟨(s.pg n).modal.parkX, (s.pg n).modal.parkY, (s.pg n).modal.parkZ⟩)) ∧
        (s.pgState n = pgIDLE → Completes (.abort n q) s (TurnedAway n s))) ∧
      (JobToken s n 5 q → (s.pgState n = pgENDED ∨ s.pgState n = pgABORTED → Completes (.disarm n q) s (fun t => t.pgState n = pgIDLE ∧ t.pg n = s.pg n)) ∧
        (s.pgState n ≠ pgENDED → s.pgState n ≠ pgABORTED → Completes (.disarm n q) s (TurnedAway n s)))) ∧
    (s.pgState n = pgPAUSING → (s.pg n).pause = some false → (s.pg n).inHandoff = false → (s.pg n).cur = none → (s.pg n).notify < 1024 →
      Completes (.pausePoint n) s (fun t => t.pgState n = pgSUSPENDED ∧ t.f PG.SUSP.CAUSE n = 1 ∧ t.f PG.SUSPV.DIST n = 0 ∧
        t.f PG.SUSP.OFS n = ((s.pg n).items.head?.map (·.ofs)).getD (s.pg n).decOfs % 2 ^ 32 ∧ (t.pg n).items = [] ∧ (t.pg n).pause = none ∧
        ∃ u, t.net.getLast? = some u ∧ u.dest.toNat = (s.pg n).notify ∧ u.kind = 0#4 ∧ u.stream = 1#8 ∧ u.payload = t.word (PG.SUSP.OFS.addr n))) ∧
    (s.pgRunning n = true → (s.pg n).items = [] → (s.pg n).decEnd = false → (s.descr n (s.f PG.WPOS.RIDX n)).usable = false →
      (s.pg n).openVec = none → (s.pg n).cur = none →
      Completes (.underrun n) s (fun t => t.pgState n = pgSUSPENDED ∧ t.f PG.JOB.UNDER n = 1 ∧ t.f PG.SUSP.CAUSE n = 2 ∧
        t.f PG.SUSP.OFS n = (s.pg n).decOfs % 2 ^ 32 ∧ ∃ r ∈ t.lines, r.cls = 1 ∧ r.source = 7)) ∧
    (∀ (i : Item) (rest : List Item), s.pgState n = pgRESUMING → s.f PG.SUSPV.DIST n = 0 → (s.pg n).items = i :: rest →
      Completes (.resumeRun n) s (fun t => t.pgState n = pgRUN ∧ t.mt = max s.mt i.t0 ∧ t.pg n = s.pg n))

/-- At a cycle the planned position is converted and sent as three set-points for its instant. A power target that differs from the last is sent,
shifted by δ. A sample of X is taken. A sample that misses makes a waiting gate-on a refusal with a suspension of cause 0x6 and a waiting gate-off a
release at its planned instant. A tracking target in IDLE under TRK.EN is clamped and taken, elsewhere it is discarded with TREF, and in a tracking
cycle every axis advances by one step. -/
def Obligations.EmissionAndTracking : Prop :=
  ∀ (n : Fin 26) (s : State), s.canonical = true →
    (let tc := s.nextCycle n
     let u := s.reach (tc - s.f PG.CFG.ILEAD n * 1000 - s.servoPeriod)
     ∀ k, s.f SADDLEN.MAP.VALID n = 1 → s.servoPeriod ≠ 0 → s.tracking n = false → s.pgRunning n = false → (s.pg n).frozen = false →
      u.convert n ((s.pg n).planned tc) = some k → Completes (.interpolate n) s (fun t => t.mt = u.mt ∧ (t.pg n).spSent = true ∧ (t.pg n).spLast = tc ∧
        ∃ l : List Token, t.net = s.net ++ l ∧ l.map (fun q => (q.dest.toNat, q.kind, q.timed, q.time, q.payload)) =
          [(0x200 + 3 * n.val, 1#4, true, BitVec.ofNat 48 tc, k.1.payload), (0x200 + 3 * n.val + 1, 1#4, true, BitVec.ofNat 48 tc, k.2.1.payload),
           (0x200 + 3 * n.val + 2, 1#4, true, BitVec.ofNat 48 tc, k.2.2.1.payload)])) ∧
    (∀ x, s.pgRunning n = true →
      (s.powerAt n x ≠ (s.pg n).lastPower → Completes (.powerTarget n x) s (fun t => (t.pg n).lastPower = s.powerAt n x ∧
        ∃ q, t.net = s.net ++ [q] ∧ q.dest.toNat = 0x248 + n.val ∧ q.kind = 1#4 ∧ q.timed = true ∧ q.payload.toNat = s.powerAt n x % 2 ^ 16 ∧
          q.time = BitVec.ofNat 48 ((x : Int) + (s.pg n).delta).toNat)) ∧
      (s.powerAt n x = (s.pg n).lastPower → Completes (.powerTarget n x) s (· = s))) ∧
    (∀ a b : Token, a.kind = 0#4 → a.src = 0xA#10 → a.stream = 5#8 → bits a.payload 7 6 = 0 → srcAllowed (0x40 + n) a.src = true → (s.pg n).sy = none →
      Completes (.gateSample n [a, b]) s (fun t => t.pg n = { s.pg n with
        sx := some ⟨fullTime s.mt (BitVec.ofNat 48 (bits a.payload 63 16)), bits b.payload 63 36, sbits b.payload 35 12⟩ })) ∧
    (∀ (e : GateEdge) (rest : List GateEdge), s.pgRunning n = true → (s.pg n).edges = e :: rest → (s.emitting n s.mt).isSome = false →
      ((e.tPlan : Int) + (s.pg n).delta).toNat ≤ s.mt + s.f PG.GATE.GLEAD n →
      (e.kind = 1 → Completes (.sampleMissing n) s (fun t => t.f PG.STAT.GATEREF n = 1 ∧ t.pgState n = pgSUSPENDED ∧ t.f PG.SUSP.CAUSE n = 6 ∧
        t.f PG.SUSPV.DIST n = 0 ∧ t.f PG.SUSP.OFS n = e.vec.ofs % 2 ^ 32)) ∧
      (e.kind = 0 → Completes (.sampleMissing n) s (fun t => (t.pg n).edges = rest ∧ (t.pg n).gateHigh = false ∧ t.pgState n = s.pgState n ∧
        ∃ q, q ∈ t.net ∧ q.kind = 14#4 ∧ q.dest.toNat = 0x318 + n.val ∧ (pinAct q.payload).op = 0 ∧
          q.time = BitVec.ofNat 48 ((e.tPlan : Int) + (s.pg n).delta).toNat))) ∧
    (∀ q : Token, srcAllowed (0x40 + n) q.src = true → q.kind = 1#4 → q.timed = false → q.stream = 3#8 → (s.pg n).trk = [] →
      (s.pgState n = pgIDLE → s.f PG.TRK.EN n = 1 → Completes (.trackingTarget n q) s (fun t =>
        (t.trkAxis n 2).target = clamp (s.soft n 2).1 (s.soft n 2).2 (sbits q.payload 31 0) ∧
        ((t.trkAxis n 2).target ≠ sbits q.payload 31 0 → t.f PG.STAT.SOFT n = 1))) ∧
      (s.pgState n ≠ pgIDLE → Completes (.trackingTarget n q) s (fun t => t.f PG.STAT.TREF n = 1 ∧ t.pg n = s.pg n))) ∧
    (s.pgState n = pgIDLE → s.f PG.TRK.EN n = 1 → s.servoPeriod ≠ 0 → s.f SADDLEN.MAP.VALID n = 1 → Completes (.trackingCycle n) s (fun t =>
      t.mt = max s.mt (s.nextCycle n - s.f PG.CFG.ILEAD n * 1000 - s.servoPeriod) ∧ (t.pg n).spLast = s.nextCycle n ∧
      ∀ ax, ax < 3 → t.trkAxis n ax = (s.trkStep n ax (s.trkApplyLimits n ax (s.trkAxis n ax))).1))

/-- Correction maps are checked and swapped; the Saddle decides chains and stares. -/
def Obligations.MapsAndSaddle : Prop :=
  Rules.CorrectionMapsAreCheckedAndSwapped ∧ Rules.SaddleDecidesAndStares

/-- A coefficient set that the rules admit is in force at once at a disabled loop, its states by SWAP, SETID naming it; one they do not is refused
whole with CODE 0x04 and REFUSED. A timed set-point joins the buffer latest first, a full buffer leaves it in transit and an untimed one is refused.
An auxiliary loop takes set-points only with EXT. A CTRIM token sets the trim, and an enabled rule refuses it. -/
def Obligations.LoopsTakeTheirTokens : Prop :=
  (∀ (l : Fin 112) (ts : List Token) (q : Token) (s : State), s.canonical = true → (∀ u ∈ ts ++ [q], u.kind = 0#4 ∧ u.stream = 8#8 ∧ u.err = false) →
    q.timed = false → s.f SERVON.CFG.EN l = 0 →
    (∀ c, parseSet l ((ts ++ [q]).map (·.payload)) = some c → c.bnd = false → (s.loop l).tableWhen = none →
      Completes (.coefficientSet l (ts ++ [q])) s (fun t => (t.loop l).set = c ∧ (t.loop l).pend = none ∧
        (t.loop l).st = swapStates c (s.loop l).st ∧ t.f SERVON.STAT.SETID l = c.setid % 2 ^ 16 ∧ t.f SERVON.STAT.PEND l = 0)) ∧
    (parseSet l ((ts ++ [q]).map (·.payload)) = none → Completes (.coefficientSet l (ts ++ [q])) s (fun t =>
      t.loop l = s.loop l ∧ t.f SERVON.STAT.REFUSED l = 1 ∧ LastRefuses q 4 t))) ∧
  (∀ (l : Fin 112) (q : Token) (s : State), s.canonical = true → q.kind = 1#4 → q.err = false →
    (q.timed = true → (s.loop l).setpts.length < setptDepth l → Completes (.setpointAccept l q) s (fun t =>
      (t.loop l).setpts = (s.loop l).setpts.filter (fun p => decide (s.instant q < p.1)) ++ [(s.instant q, q.payload)] ++
        (s.loop l).setpts.filter (fun p => decide (p.1 ≤ s.instant q)) ∧ t.net = s.net.erase q)) ∧
    (q.timed = true → setptDepth l ≤ (s.loop l).setpts.length → Completes (.setpointAccept l q) s (· = s)) ∧
    (q.timed = false → Completes (.setpointAccept l q) s (fun t => Refused (0x200 + l) q 4 s t ∧ t.loops = s.loops))) ∧
  (∀ (k : Fin 8) (q : Token) (s : State), s.canonical = true → q.kind = 1#4 → q.err = false → q.timed = true → q.stream = 0#8 →
    (s.f AUX.CFG.EXT k = 1 → (s.loop (96 + k)).setpts = [] → Completes (.auxSetpoint k q) s (fun t =>
      (t.loop (96 + k)).setpts = [(s.instant q, q.payload)] ∧ t.net = s.net.erase q)) ∧
    (s.f AUX.CFG.EXT k = 0 → Completes (.auxSetpoint k q) s (fun t => Refused (0x260 + k) q 3 s t ∧ t.loops = s.loops))) ∧
  (∀ (n : Fin 24) (q : Token) (s : State), AtOnce s q → q.kind = 0#4 → q.stream = 1#8 → bits q.payload 63 16 = 0 →
    (s.f SERVO.RULE.CFG.EN n = 0 → Completes (.ctrimSet n q) s (fun t => t.f SERVO.RULE.STAT.CTRIM n = bits q.payload 15 0)) ∧
    (s.f SERVO.RULE.CFG.EN n = 1 → Completes (.ctrimSet n q) s (fun t => Refused (0x248 + n) q 3 s t ∧
      t.f SERVO.RULE.STAT.CTRIM n = s.f SERVO.RULE.STAT.CTRIM n)))

/-- A cycle of a galvo loop with a set-point and a sample in its windows, nothing pending and no table: the error in code units, the sections'
output with the feed-forward of speed and acceleration clamped to OMAX, one current command for the cycle plus GODLY. A loop without a sample
commands 0 under HOLD. -/
def Obligations.GalvoCycleResult : Prop :=
  ∀ (l : Fin 72) (tc : Nat) (s : State), s.canonical = true → s.f SERVON.CFG.EN l = 1 → s.isCycle 120 tc = true → (s.loop l).pend = none →
    (s.loop l).tableWhen = none →
    let x := s.loop l
    (x.samples = [] → Completes (.galvoCycle l tc) s (fun t => t.mt = max s.mt tc ∧ t.f SERVON.STAT.HOLD l = 1 ∧
      ∃ u, t.net.getLast? = some u ∧ u.dest.toNat = 0x300 + l / 3 ∧ u.stream.toNat = 0x10 + l % 3 ∧ bits u.payload 63 62 = 1 ∧ bits u.payload 15 0 = 0)) ∧
    (∀ (m : AxSample) (i : Nat) (w : Word), x.begun = true → s.windowSample l tc s.servoPeriod = some m → (takeSetpt x.setpts tc).1 = some (i, w) →
      tc - s.servoPeriod < i → s.f SERVON.CFG.RSTEP l = 0 → s.f SERVON.FFT.VALID l = 0 → s.lds (s.stateAddr l) 16 = stateWords x.st →
      let e := sat 24 (16 * bits w 63 40 - m.y16)
      let out := clamp (-(s.f SERVON.LIM.OMAX l)) (s.f SERVON.LIM.OMAX l)
        ((cascade x.set.sects x.st e).1 + scale (x.set.kv * sbits w 39 16 + x.set.ka * sbits w 15 0) (x.set.fe - 19))
      Completes (.galvoCycle l tc) s (fun t => t.mt = max s.mt tc ∧ t.fi SERVON.OUT.ERR l = e ∧ t.f SERVON.STAT.HOLD l = 0 ∧
        (t.loop l).posPrev = bits w 63 40 ∧ (t.loop l).lastU = out ∧
        ∃ u, t.net.getLast? = some u ∧ u.dest.toNat = 0x300 + l / 3 ∧ u.stream.toNat = 0x10 + l % 3 ∧ u.kind = 1#4 ∧
          u.payload = wd (ux 16 out) ∧ u.time = BitVec.ofNat 48 (tc + s.f SERVO.CFG.GODLY)))

/-- Power, auxiliary and commutation cycles; tables; failed section units. -/
def Obligations.OtherCyclesTablesAndUnits : Prop :=
  Rules.PowerAndAuxiliaryCycles ∧ Rules.ServoTablesAndUnits

/-- Encoders, Hall sensors, speed, probes and emulated outputs. -/
def Obligations.PositionFeedbackCountsAndReports : Prop :=
  Rules.EncodersAndHallsCount ∧ Rules.SpeedProbesAndEmulation

/-- An FS pairs its frame with the oldest exposure, or is untriggered; a line joins the open frame, one with a wrong checksum marks it; an FE closes
the frame, counts it and sends its 16-token record; an exposure whose window passes without a frame is retired as NOFRAME. -/
def Obligations.FramesPairWithExposures : Prop :=
  (∀ (k : Fin 12) (vc : Fin 4) (c : Nat) (sot : Bool) (s : State), s.canonical = true → s.f CSI.CFG.EN k = 1 → s.csiSkip.contains k.val = false →
    s.slotOf k vc = some c → s.f IP.CFG.EN c = 1 →
    (∀ fn : BitVec 16, s.pipesOff.contains k.val = false → (s.slot c).frame = none →
      (∀ e rest, (s.slot c).pending = e :: rest → s.f IP.CFG.FNCHK c = 0 → Completes (.frameStart k vc fn 0 sot) s (fun t =>
        (t.slot c).frame = some { exp := e, fn := fn.toNat, gap := false, fsAt := s.mt } ∧ (t.slot c).pending = rest ∧ t.f CSI.STAT.SYNC k = 1 ∧
        t.lines = s.lines ∧ t.net = s.net)) ∧
      ((s.slot c).pending = [] → Completes (.frameStart k vc fn 0 sot) s (fun t => (t.slot c).frame = none ∧ t.f IP.STAT.UNTRIG c = 1 ∧
        t.f IP.CNT.UNTRIGS c = min 65535 (s.f IP.CNT.UNTRIGS c + 1) ∧ ∃ r, t.lines = s.lines ++ [r] ∧ r.cls = 2 ∧ r.source = 13))) ∧
    (∀ (f : FrameSt) (dt : BitVec 6) (data : List (BitVec 12)), (s.slot c).frame = some f → dt.toNat = dataType f.exp.set.dtype → f.dead = false →
      (data.length ≤ f.exp.set.wx → f.lines.length < f.exp.set.wy → Completes (.linePacket k vc dt 0 sot true true data) s (fun t =>
        (t.slot c).frame = some { f with lines := data.map (·.toNat) :: f.lines } ∧ t.mem = s.mem)) ∧
      Completes (.linePacket k vc dt 0 sot false true data) s (fun t => (t.slot c).frame = some { f with crc := true } ∧ t.f CSI.STAT.CRC k = 1 ∧
        t.f CSI.CNT.CRCS k = min 65535 (s.f CSI.CNT.CRCS k + 1))) ∧
    (∀ f : FrameSt, (s.slot c).frame = some f → f.exp.set.tk = 0 → (s.slot c).sent = [] → s.f SERVO.RULE.CFG.EN c = 0 → f.lines.length < 65536 →
      Completes (.frameEnd k vc 0 sot) s (fun t => (t.slot c).frame = none ∧ t.f IP.CNT.FRAMES c = min 65535 (s.f IP.CNT.FRAMES c + 1) ∧ t.mem = s.mem ∧
        ∃ l : List Token, t.net = s.net ++ l ∧ l.length = 16 ∧
          (∀ x ∈ l, x.kind = 10#4 ∧ x.dest = BitVec.ofNat 10 (s.f IP.CFG.DEST c) ∧ x.stream = BitVec.ofNat 8 (s.f IP.CFG.STREAM c)) ∧
          (∀ x, l.head? = some x → x.payload = wd (place f.exp.trigt 48 16 + place f.exp.expid 16 0)) ∧
          ∀ x, l[3]? = some x → bits x.payload 63 48 = f.lines.length))) ∧
  (∀ (c : Fin 24) (e : Exposure) (rest : List Exposure) (s : State), s.canonical = true → (s.slot c).pending = e :: rest → (s.slot c).frame = none →
    Completes (.fswinExpiry c) s (fun t => t.mt = max s.mt (e.tend + s.f IP.CFG.FSWIN c * 1000) ∧ (t.slot c).pending = rest ∧
      t.f IP.STAT.NOFRAME c = 1 ∧ t.f IP.CNT.NOFRAMES c = min 65535 (s.f IP.CNT.NOFRAMES c + 1) ∧ t.mem = s.mem))

/-- A camera setting that the rules admit waits for the next exposure and one they do not is refused with CODE 0x04; I2C transactions queue in order
and each is answered with its status and the bytes read. -/
def Obligations.CameraSettingsAndI2c : Prop :=
  (∀ (k : Fin 12) (ts : List Token) (q : Token) (s : State), s.canonical = true → (∀ u ∈ ts ++ [q], u.kind = 0#4 ∧ u.err = false) →
    q.timed = false → q.stream = 8#8 →
    (∀ x, parseCam ((ts ++ [q]).map (·.payload)) = some x → x.ff = 0 → x.tk = 0 → x.bnd = false → Completes (.cameraSetting k (ts ++ [q])) s (fun t =>
      t.slot (2 * k) = { s.slot (2 * k) with pend := some (x, .after s.mt) } ∧ t.f IP.STAT.PEND (2 * k) = 1)) ∧
    (parseCam ((ts ++ [q]).map (·.payload)) = none → Completes (.cameraSetting k (ts ++ [q])) s (fun t =>
      t.slots = s.slots ∧ t.f IP.STAT.REFUSED (2 * k) = 1 ∧ LastRefuses q 4 t))) ∧
  (∀ (k : Fin 13) (ts : List Token) (q : Token) (s : State), s.canonical = true → (∀ u ∈ ts ++ [q], u.kind = 0#4 ∧ u.err = false) →
    (∀ u ∈ ts ++ [q], srcAllowed (0x140 + k) u.src = true) →
    (∀ x, parseI2c (ts ++ [q]) = some x → Completes (.i2cTransaction k (ts ++ [q])) s (fun t =>
      t.i2c k = s.i2c k ++ [x] ∧ t.net = netWithout s (ts ++ [q]))) ∧
    (parseI2c (ts ++ [q]) = none → Completes (.i2cTransaction k (ts ++ [q])) s (fun t => t.i2cs = s.i2cs ∧ LastRefuses q 4 t))) ∧
  (∀ (k : Fin 13) (status : Fin 5) (nack : BitVec 8) (bytes : List (BitVec 8)) (x : I2cTxn) (rest : List I2cTxn) (s : State), s.canonical = true →
    s.i2c k = x :: rest → Completes (.i2cDone k status nack bytes) s (fun t => t.i2c k = rest ∧ ∃ (a : Token) (l : List Token), t.net = s.net ++ a :: l ∧
      l.length = (x.rlen + 7) / 8 ∧ (∀ u ∈ a :: l, u.kind = 5#4 ∧ u.dest = BitVec.ofNat 10 x.src ∧ u.stream = BitVec.ofNat 8 x.stream) ∧
      bits a.payload 7 0 = status.val ∧ bits a.payload 15 8 = nack.toNat ∧
      ∀ (i : Nat) (u : Token) (b : BitVec 8), i < x.rlen → bytes[i]? = some b → l[i / 8]? = some u →
        bits u.payload (8 * (i % 8) + 7) (8 * (i % 8)) = b.toNat))

/-- An enabled camera rule takes a fair and fresh record: USED counts it, LASTX is its metric, and an error beyond DEAD moves CTRIM by the limited
step, within its limits; an unfair record counts in SKIPS and moves nothing. A stare's record goes to the ring of LREC; a process record is sent. -/
def Obligations.RecordsSteerAndAreKept : Prop :=
  (∀ (n : Fin 24) (ts : List Token) (q : Token) (s : State), s.canonical = true → (∀ u ∈ ts ++ [q], u.kind = 10#4 ∧ u.err = false) → q.stream = 3#8 →
    ts.length = 15 → s.f SERVO.RULE.CFG.EN n = 1 →
    let r := ruleRec s.mt ((ts ++ [q]).map (·.payload))
    let err : Int := s.f SERVO.RULE.TGT.TARGET n - s.ruleMetric n r
    (s.ruleFair n r = false → Completes (.ruleRecord n (ts ++ [q])) s (fun t =>
      t.f SERVO.RULE.CNT.SKIPS n = min 65535 (s.f SERVO.RULE.CNT.SKIPS n + 1) ∧ t.f SERVO.RULE.STAT.CTRIM n = s.f SERVO.RULE.STAT.CTRIM n)) ∧
    (s.ruleFair n r = true → s.mt ≤ r.trigt + r.width + s.f SERVO.RULE.CFG.MAXAGE n * 1000 → r.flags.testBit 6 = false →
      Completes (.ruleRecord n (ts ++ [q])) s (fun t => t.f SERVO.RULE.CNT.USED n = min 65535 (s.f SERVO.RULE.CNT.USED n + 1) ∧
        t.f SERVO.RULE.STAT.LASTX n = min 0xFFFFFFFF (s.ruleMetric n r) ∧
        t.f SERVO.RULE.STAT.CTRIM n = if err.natAbs ≤ s.f SERVO.RULE.TGT.DEAD n then s.f SERVO.RULE.STAT.CTRIM n else
          (clamp (s.f SERVO.RULE.LIM.CTMIN n) (s.f SERVO.RULE.LIM.CTMAX n) (s.f SERVO.RULE.STAT.CTRIM n +
            clamp (-(s.f SERVO.RULE.GAIN.STEP n : Int)) (s.f SERVO.RULE.GAIN.STEP n)
              (rshr (err * s.fi SERVO.RULE.GAIN.V n) (s.f SERVO.RULE.GAIN.GSHIFT n)))).toNat))) ∧
  (∀ (x : Stare) (rest : List Stare) (qa qb : Int × Int) (s : State), s.canonical = true → s.stares = x :: rest →
    (s.pg x.ha).stareQ x.tk = some qa → (s.pg x.hb).stareQ x.tk = some qb → s.f SADDLE.LREC.EN = 1 →
    let a := s.f SADDLE.LREC.BASE * 64 + 64 * (s.f SADDLE.LRCNT.V % 2 ^ s.f SADDLE.LREC.LOG2N)
    Completes .stareRecord s (fun t => t.stares = rest ∧ t.f SADDLE.LRCNT.V = (s.f SADDLE.LRCNT.V + 1) % 2 ^ 64 ∧
      BytesKept s t (fun b => a ≤ b ∧ b < a + 64) ∧
      t.lds a 8 = [wd (place x.vid 32 32 + place x.layer 32 0), wd (place (x.tk - x.wid / 2) 48 16 + place x.ha 8 8 + place x.hb 8 0),
        wd (place x.expid 16 48 + place x.wid 32 16), wd (place (ux 32 x.p.y) 32 32 + ux 32 x.p.x), wd (place (ux 32 qa.2) 32 32 + ux 32 qa.1),
        wd (place (ux 32 qb.2) 32 32 + ux 32 qb.1), x.rega, x.regb])) ∧
  (∀ (n : Fin 26) (ws : List Word) (rest : List (List Word)) (s : State), s.canonical = true → (s.pg n).recQ = ws :: rest →
    Completes (.processRecord n) s (fun t => t.pg n = { s.pg n with recQ := rest } ∧ (∀ a, t.word a = s.word a) ∧ ∃ l : List Token, t.net = s.net ++ l ∧
      l.map (·.payload) = ws ∧ ∀ x ∈ l, x.kind = 10#4 ∧ x.src = BitVec.ofNat 10 (0x40 + n) ∧ x.dest = BitVec.ofNat 10 (s.f PG.PREC.DEST) ∧
        x.stream = BitVec.ofNat 8 (s.f PG.PREC.STREAM)))

/-- Auxiliary moves, stops, jogs, hold current, hub loss, fault clear. -/
def Obligations.AuxiliaryAxesMove : Prop :=
  Rules.AuxiliaryMoves ∧ Rules.AxesJogHoldAndRecover

/-- START sets a halted core running at ENTRY with its registers cleared, and one that runs only notes it; HALT halts it; STEP runs one instruction.
A role moves to a spare core and is back in its state on it; a failed core's role is lost, and a restart on a spare loads its image and starts it. -/
def Obligations.CoresStartMoveAndRestart : Prop :=
  ∀ (r : Fin 18) (s : State), s.canonical = true →
    (∀ h : CwFrom, Accepted s h (CORE.CTRL.START.addr r) (CORE.CTRL.START.put 0 1) →
      (s.coreState r = 0 → Completes (.coreStart r h) s (fun t => t.coreState r = 1 ∧ (t.core r).pc = 4 * s.f CORE.CFG.ENTRY r ∧
        (∀ i, (t.core r).reg i = 0) ∧ (t.core r).ex = false ∧ (t.core r).icount = 0 ∧ t.mem = s.mem ∧ WriteAnswered h t)) ∧
      (s.coreState r = 1 → Completes (.coreStart r h) s (fun t => t.cores = s.cores ∧ t.coreState r = 1 ∧
        ∃ e, t.lines = s.lines ++ [e] ∧ e.cls = 3 ∧ e.source = 6))) ∧
    (∀ h : CwFrom, Accepted s h (CORE.CTRL.HALT.addr r) (CORE.CTRL.HALT.put 0 1) → 1 ≤ s.coreState r → s.coreState r ≤ 4 →
      Completes (.coreHalt r h) s (fun t => t.coreState r = 0 ∧ (t.core r).blocked = none ∧ (t.core r).pc = (s.core r).pc ∧
        (t.core r).regs = (s.core r).regs ∧ WriteAnswered h t)) ∧
    (∀ (h : CwFrom) (d a b : BitVec 5), Accepted s h (CORE.CTRL.STEP.addr r) (CORE.CTRL.STEP.put 0 1) → s.coreState r = 0 → (s.core r).blocked = none →
      (s.core r).pc % 4 = 0 → (s.core r).pc ≤ 0xFFFC → s.eccAt (localAddr r (s.core r).pc) = none →
      let w := BitVec.ofNat 32 (leNat (s.bytes (localAddr r (s.core r).pc) 4))
      zDecode w = .alu 0 d a b 0 → (s.core r).guardOk (zGuard w) = true → Completes (.coreStep r h) s (fun t => t.coreState r = 0 ∧
        (t.core r).pc = (s.core r).pc + 4 ∧ (t.core r).regs = ((s.core r).setReg d ((s.core r).reg a + (s.core r).reg b)).regs)) ∧
    (∀ phys : Fin 18, s.f REPAIR.UNIT.STATE phys = 1 →
      (s.f CORE.CFG.ROT r = 1 → s.coreState r ∈ [0, 2, 3] → Completes (.coreRotation r phys) s (fun t => t.coreState r = 5 ∧
        t.f REPAIR.UNIT.STATE phys = 4 ∧ (t.core r).moving = some (s.coreState r, phys.val) ∧ (t.core r).regs = (s.core r).regs)) ∧
      (s.coreState r = 6 → s.f CORE.IMG.VALID r = 1 → s.f CORE.IMG.DATA r = 0 → 0x100000000000 ≤ s.f CORE.IMG.BASE r * 2 ^ 17 →
        Completes (.coreRestart r phys) s (fun t => t.coreState r = 1 ∧ (t.core r).pc = 4 * s.f CORE.CFG.ENTRY r ∧
          t.f CORE.STAT.RESTARTS r = min 255 (s.f CORE.STAT.RESTARTS r + 1) ∧ t.f CORE.STAT.PHYS r = phys ∧ t.f REPAIR.UNIT.STATE phys = 0 ∧
          (∀ i < 0x10000, t.byte (localAddr r i) = s.byte (s.f CORE.IMG.BASE r * 2 ^ 17 + i)) ∧
          (∀ i < 0x10000, t.byte (localAddr r (0x10000 + i)) = 0) ∧ BytesKept s t (fun a => localAddr r 0 ≤ a ∧ a < localAddr r 0x20000)))) ∧
    (∀ u phys : Fin 18, (s.core r).moving = some (0, phys.val) → (s.core r).blocked = none → s.unitOf 0 r = some u.val → u ≠ phys →
      Completes (.coreMoveComplete r) s (fun t => t.coreState r = 0 ∧ t.f CORE.STAT.PHYS r = phys ∧ t.f REPAIR.UNIT.STATE phys = 0 ∧
        t.f REPAIR.UNIT.ROLE phys = r ∧ t.f REPAIR.UNIT.STATE u = 1 ∧ t.f REPAIR.UNIT.ROLE u = 255 ∧ t.core r = { s.core r with moving := none })) ∧
    (∀ u : Fin 18, s.unitOf 0 r = some u.val → s.f REPAIR.UNIT.STATE u = 0 → Completes (.coreFailed r) s (fun t => t.coreState r = 6 ∧
      t.f REPAIR.UNIT.STATE u = 3 ∧ t.f REPAIR.STAT.UNITFAIL = 1 ∧ (t.core r).regs = (s.core r).regs))

/-- A link climbs from DETECT through TRAIN, LOCK and CAPS to ACTIVE with its lanes, goes back at a time-out, counted in RETRAIN from TRAIN, and fails
on a peer's record it does not take; a write of RESTART leaves FAIL. Of 64 blocks 16 bad ones lose a lane's block lock. -/
def Obligations.LinksComeUp : Prop :=
  ∀ (n : Fin 36) (s : State), s.canonical = true →
    (∀ (i : Fin 32) (h : CwFrom), n.val = i.val → s.linkState n = lkFAIL → s.f LINK.CTRL.EN n = 1 →
      Accepted s h (LINK.CTRL.EN.addr n) (LINK.CTRL.RESTART.put (s.word (LINK.CTRL.EN.addr n)) 1) →
      Completes (.linkRestart i h) s (fun t => t.linkState n = lkDETECT ∧ t.f LINK.CTRL.EN n = 1 ∧ WriteAnswered h t)) ∧
    (s.linkState n = lkDETECT →
      Completes (.detectPoll n true) s (fun t => t.linkState n = lkTRAIN ∧ t.mt = max s.mt ((s.link n).since + 1000000) ∧
        ∀ k ∈ lanesOf n, (s.lane k).ls ≠ 5 → (t.lane k).ls = 2) ∧
      Completes (.detectPoll n false) s (fun t => t.linkState n = lkDETECT ∧ t.lanes = s.lanes)) ∧
    (∀ m : Bool, hasLane n m = true →
      (s.linkState n = lkTRAIN → (s.lane (laneOf n m)).ls = 2 → Completes (.symbolLock n m) s (fun t =>
        t.linkState n = lkLOCK ∧ (t.lane (laneOf n m)).ls = 3 ∧ ∀ k, k ≠ laneOf n m → t.lane k = s.lane k)) ∧
      (s.linkState n = lkLOCK → (s.lane (laneOf n m)).ls = 3 → Completes (.blockLock n m) s (fun t =>
        t.linkState n = lkCAPS ∧ (t.lane (laneOf n m)).ls = 4 ∧ (n.val < 32 → m = false → t.f LINK.STAT.PLOCK n = 1))) ∧
      (∀ (viol : Bool) (good : Nat), (s.lane (laneOf n m)).ls = 4 →
        let bads := 0 :: ((s.lane (laneOf n m)).bads.map (· + good + 1)).filter (· < 64)
        Completes (.badBlock n m viol good) s (fun t => t.f LANE.CNT.CODE (laneOf n m) = min (2 ^ 32 - 1) (s.f LANE.CNT.CODE (laneOf n m) + viol.toNat) ∧
          (bads.length < 16 → t.linkState n = s.linkState n ∧ t.lane (laneOf n m) = { s.lane (laneOf n m) with bads := bads }) ∧
          (16 ≤ bads.length → (t.lane (laneOf n m)).ls = 3 ∧
            (24 ≤ n.val → s.linkState n = lkACTIVE → t.linkState n = lkLOCK ∧ ∃ r, t.lines = s.lines ++ [r] ∧ r.cls = 1))))) ∧
    (s.linkState n = lkTRAIN → Completes (.linkStateTimeout n false) s (fun t => t.linkState n = lkDETECT ∧
      t.mt = max s.mt ((s.link n).since + 10000000) ∧ (n.val < 32 → t.f LINK.CNT.RETRAIN n = min 65535 (s.f LINK.CNT.RETRAIN n + 1)))) ∧
    (s.linkState n = lkLOCK → Completes (.linkStateTimeout n false) s (fun t => t.linkState n = lkTRAIN ∧ t.mt = max s.mt ((s.link n).since + 2000000))) ∧
    (s.linkState n = lkCAPS → Completes (.linkStateTimeout n false) s (fun t => t.linkState n = lkTRAIN ∧ t.mt = max s.mt ((s.link n).since + 1000000))) ∧
    (∀ data : List (BitVec 8), s.linkState n = lkCAPS → data.length = 28 →
      let good := (data.getD 0 0).toNat = peerKind n ∧ (data.getD 1 0).toNat = 1 ∧ (data.getD 2 0).toNat + 256 * (data.getD 3 0).toNat ≤ 500
      (good → Completes (.capRecord n data) s (fun t => t.linkState n = lkACTIVE ∧ (t.link n).credits = 64 ∧ t.lines = s.lines ∧
        (n.val < 32 → t.f LINK.CAP0.V n = leNat (data.take 8)))) ∧
      (¬ good → Completes (.capRecord n data) s (fun t => t.linkState n = lkFAIL ∧ ∃ r, t.lines = s.lines ++ [r] ∧ r.cls = 2)))

/-- On an active link a superframe's header leaves each locked lane early by its delay, the answer gives the lane a round trip, a head's sample block
brings the loop one photodiode pair stamped in MT and its second copy nothing, a hub's brings the axis its sample, and a token block its token.
A lost reference takes the lanes of its quads to DETECT. A pattern test takes a lane out of lock, and its end counts bits and errors and retrains. -/
def Obligations.LinksCarrySamplesAndTokens : Prop :=
  (∀ (ts : Nat) (n : Fin 32) (k : Nat) (s : State), s.canonical = true → s.isCycle 123 ts = true → s.linkActive n = true → k ∈ lanesOf n →
    (s.lane k).ls = 4 → (s.lane k).rts = [] → (∀ t ∈ s.net, t.kind ≠ 13#4) →
    Completes (.superframeStart ts) s (fun t => t.mt = max s.mt ts ∧ t.lane k = { s.lane k with mtx := some (ts - s.f TB.HT.DLY.V n) })) ∧
  (∀ (n : Fin 32) (q : BitVec 8) (at_ : Nat) (data : List (BitVec 8)) (s : State), s.canonical = true → s.linkActive n = true →
    (s.lane (laneOf n false)).ls = 4 → (s.link n).copies = [] →
    (∀ m : Int, (s.lane (laneOf n false)).mtx = some m → Completes (.sfsReceive n false q at_ data) s (fun t => t.mt = max s.mt at_ ∧
      (t.link n).hts = leNat (data.take 8) ∧ (t.lane (laneOf n false)).mtx = none ∧
      (t.lane (laneOf n false)).rts = ((at_ - m - (leNat ((data.drop 8).take 8) - leNat (data.take 8)) : Int) :: (s.lane (laneOf n false)).rts).take 16)) ∧
    (n.val < 24 → (data.headD 0).toNat = 2 → Completes (.smpBlockReceive n false q at_ data) s (fun t => t.mt = max s.mt at_ ∧
      (t.loop (72 + n)).pairs = (s.loop (72 + n)).pairs ++ [Pair.mk (s.htToMt n ((s.link n).hts + 2500)) (half16 data 1) (half16 data 3)
        (half16 data 5) (half16 data 7)] ∧ (t.link n).copies = [(q.toNat, false, at_)])) ∧
    (24 ≤ n.val → data.getD 16 0 = 0 → data.drop 17 = [] → Completes (.smpBlockReceive n false q at_ data) s (fun t =>
      (t.aux (n - 24)).samples.head? = some ⟨s.htToMt n ((s.link n).hts + 1000), sx 16 (half16 data 0), sx 16 (half16 data 2), half16 data 4,
        sx 48 (leNat ((data.drop 10).take 6))⟩ ∧ t.f AUX.HUB.LINK (n - 24) = 1 ∧ t.f AUX.HUB.VBUS (n - 24) = half16 data 6 ∧ t.lines = s.lines))) ∧
  (∀ (n : Fin 24) (q : BitVec 8) (at_ was : Nat) (data : List (BitVec 8)) (s : State), s.canonical = true → s.linkActive n = true →
    (s.lane (laneOf n false)).ls = 4 → (s.link n).copies = [(q.toNat, true, was)] → at_ ≤ was + 64 →
    Completes (.smpBlockReceive ⟨n, by omega⟩ false q at_ data) s (fun t => t.loops = s.loops ∧ t.scs = s.scs ∧ (t.link n).copies = [])) ∧
  (∀ (n : Fin 36) (q : BitVec 8) (at_ : Nat) (data : List (BitVec 8)) (s : State), s.canonical = true → s.linkActive n = true →
    (s.lane (laneOf n false)).ls = 4 → 32 ≤ n.val → (s.link n).tx = [] → Completes (.tokBlockReceive n false q at_ data) s (fun t =>
      t.net = s.net ++ [tokOfBlock n data] ∧ (t.link n).credits = min 64 ((s.link n).credits + half16 data 18) ∧
      (t.link n).owed = min 64 ((s.link n).owed + 1))) ∧
  (∀ (r : Fin 4) (s : State), s.canonical = true → Completes (.refclkLoss r) s (fun t => (∃ e, e ∈ t.lines ∧ e.cls = 1 ∧ e.source = 15) ∧
    ∀ n, n < 36 → ((s.linkState n ≠ lkOFF ∧ ∃ k ∈ lanesOf n, s.f QUAD.CFG.REFSEL (k / 4) = r) → t.linkState n = lkDETECT) ∧
      ((∀ k ∈ lanesOf n, s.f QUAD.CFG.REFSEL (k / 4) ≠ r) → t.linkState n = s.linkState n))) ∧
  (∀ (k : Fin 64) (h : CwFrom) (d : Word) (s : State), s.canonical = true → Accepted s h (LANE.PRBS.EN.addr k) d → LANE.PRBS.EN.get d = 1 →
    (s.lane k).testEnd = none → Completes (.prbsStart k h d) s (fun t => (t.lane k).ls = 5 ∧ t.f LANE.PRBS.EN k = 1 ∧
      t.f LANE.PRBS.DUR k = LANE.PRBS.DUR.get d ∧ (t.lane k).testEnd = some (s.mt + LANE.PRBS.DUR.get d * 1000000) ∧ WriteAnswered h t)) ∧
  (∀ (k : Fin 64) (nb ne : BitVec 48) (e : Nat) (s : State), s.canonical = true → (s.lane k).testEnd = some e →
    Completes (.prbsEnd k nb ne) s (fun t => t.mt = max s.mt e ∧ (t.lane k).ls = 2 ∧ (t.lane k).testEnd = none ∧ t.f LANE.PRBS.EN k = 0 ∧
      t.f LANE.BITS.V k = min (2 ^ 48 - 1) (s.f LANE.BITS.V k + nb.toNat) ∧ t.f LANE.ERRS.V k = min (2 ^ 48 - 1) (s.f LANE.ERRS.V k + ne.toNat))) ∧
  (∀ (k : Fin 64) (s : State), s.canonical = true → Completes (.eqLimit k) s (fun t => t.f LANE.STAT.EQLIM k = 1 ∧
    WordsKept s t (· = LANE.STAT.EQLIM.addr k) ∧ ∃ e, t.lines = s.lines ++ [e] ∧ e.cls = 3 ∧ e.source = 15))

/-- Ethernet frames and links; IEEE 1588 discipline of plant time. -/
def Obligations.EthernetAndPlantTime : Prop :=
  Rules.EthernetPortsTakeFrames ∧ Rules.PlantTimeDiscipline

/-- What R371 does not let execute: of a provisioned device, a critical command without a check is answered 0x20, one with a wrong check is counted in
BADMACS and not answered, one whose counter is below the slot's is counted in REPLAYS; none changes memory or the counter. A repeat of the last
command sends its stored response again and does nothing else. -/
def Obligations.VctPacketsAreJudged : Prop :=
  ∀ (c : Instr) (op : Nat) (p : VctIn) (s : State), vctOp c = some (op, p) → (vctParse p.bytes).opcode = op →
    let x := vctParse p.bytes
    (∀ (r len : Nat), VctPlain s p op len → s.vctRight x = some r → s.f VCT.STAT.PROV = 1 → Completes c s (fun t =>
      VctAnswered none p 0x20 [] s t ∧ t.mem = s.mem ∧ t.net = s.net ∧ WordsKept s t (· = ETH.CNT.TXFRM.addr p.peer.port))) ∧
    (∀ key, VctHere s p 1 true → (s.slotKey x.slot).key = some key → s.f VCT.SLOT.CFG.CLOSED x.slot = 0 → s.f VCT.SLOT.CFG.EXH x.slot = 0 →
      x.check ≠ vctMac key (p.bytes.take (32 + x.len)) → Completes c s (fun t => t.f VCT.STAT.BADMAC = 1 ∧
        t.f VCT.CNT.BADMACS = min 65535 (s.f VCT.CNT.BADMACS + 1) ∧ t.host.out = s.host.out ∧ t.mem = s.mem ∧ t.net = s.net ∧
        t.f VCT.SLOT.CTR.V x.slot = s.f VCT.SLOT.CTR.V x.slot)) ∧
    (∀ key, VctChecked s p key →
      (x.counter < s.f VCT.SLOT.CTR.V x.slot → Completes c s (fun t => t.f VCT.STAT.REPLAY = 1 ∧
        t.f VCT.CNT.REPLAYS = min 65535 (s.f VCT.CNT.REPLAYS + 1) ∧ t.host.out = s.host.out ∧ t.mem = s.mem ∧ t.net = s.net ∧
        t.f VCT.SLOT.CTR.V x.slot = s.f VCT.SLOT.CTR.V x.slot)) ∧
      (∀ o, x.counter = s.f VCT.SLOT.CTR.V x.slot → (s.slotKey x.slot).lastTag = some x.tag → (s.slotKey x.slot).lastResp = some o →
        Completes c s (fun t => t.host.out.head? = some { o with port := p.peer.port, mac := p.peer.mac.toNat, ip := p.peer.ip.toNat, udp := p.peer.udp.toNat } ∧
          t.mem = s.mem ∧ t.net = s.net ∧ WordsKept s t (· = ETH.CNT.TXFRM.addr p.peer.port))))

/-- VCT queries and commands answer and execute. -/
def Obligations.VctCommandsAnswerAndExecute : Prop :=
  Rules.VctQueriesAnswer ∧ Rules.VctCommandsExecute

/-- Windows fill and complete; uploads reach the host. -/
def Obligations.WindowsAndUploads : Prop :=
  Rules.WindowsFillAndComplete ∧ Rules.UploadsReachTheHost

/-- DRAM pages, refresh, temperature bands, power-down, self-refresh, calibration. -/
def Obligations.DramRefreshAndPowerStates : Prop :=
  Rules.DramRanksRefreshAndRest ∧ Rules.DramSelfRefreshes

/-- Training sets TRAINED and ends boot, or sets TRFAIL with a severe-class status. One RFM lowers the bank's RAA by RAAIMT and counts; a src with more
than TSHARE percent of the window's activations is throttled, until the throttle ends. A scrub visits one burst of each channel that is not in
self-refresh and corrects its single-bit errors. -/
def Obligations.DramTrainsThrottlesAndScrubs : Prop :=
  ∀ s : State, s.canonical = true →
    (∀ imt mmt : Nat, s.f DRAM.STAT.TRAINED 0 = 0 → s.f DRAM.STAT.TRFAIL 0 = 0 →
      Completes (.dramTraining true true imt mmt) s (fun t => t.f DRAM.STAT.TRAINED 0 = 1 ∧ t.f DRAM.CFG.EN 0 = 1 ∧ t.raaimt = imt ∧ t.raammt = mmt ∧
        (s.boot.running = true → t.f BOOT.STAT.STATE 0 = 5 ∧ t.f BOOT.STAT.READY 0 = 1 ∧ t.f VCT.STAT.OPEN = 1)) ∧
      ∀ pass0 pass1 : Bool, (pass0 && pass1) = false → Completes (.dramTraining pass0 pass1 imt mmt) s (fun t =>
        t.f DRAM.STAT.TRAINED 0 = 0 ∧ t.f DRAM.STAT.TRFAIL 0 = 1 ∧ t.f DRAM.CFG.CAPG 0 = 0 ∧ (∃ r ∈ t.lines, r.cls = 1 ∧ r.source = 5) ∧
        (s.boot.running = true → t.f BOOT.STAT.READY 0 = 1))) ∧
    (∀ (j : Fin 4) (sc : Fin 2) (bank : Fin 32), let k := bankKey j sc bank
      let c := j.val / 2
      let top := topSrc (s.chan c).acts
      Completes (.rfm j sc bank) s (fun t => t.bank k = { s.bank k with raa := (s.bank k).raa - s.raaimt } ∧
        t.f DRAM.CNT.RFMS 0 = min 65535 (s.f DRAM.CNT.RFMS 0 + 1) ∧ (∀ i, i ≠ k → t.bank i = s.bank i) ∧
        (s.f DRAM.RD.EN 0 = 0 ∨ 100 * top.2 ≤ s.f DRAM.RD.TSHARE 0 * (s.chan c).winActs → t.lines = s.lines ∧ t.dramChans = s.dramChans) ∧
        (s.f DRAM.RD.EN 0 = 1 → s.f DRAM.RD.TSHARE 0 * (s.chan c).winActs < 100 * top.2 → t.f DRAM.STAT.THROT 0 = 1 ∧
          t.f DRAM.CNT.THROTS 0 = min 65535 (s.f DRAM.CNT.THROTS 0 + 1) ∧
          (t.chan c).throttles.head? = some ⟨top.1, s.mt + s.f DRAM.RD.TDUR 0 * 1000, s.mt + s.f DRAM.RD.TGAP 0⟩ ∧
          ∃ r, t.lines = s.lines ++ [r] ∧ r.cls = 2 ∧ r.source = 5 ∧ r.rtype = 5))) ∧
    (∀ (c : Fin 2) (src : BitVec 10) (x : Throttle), (s.chan c).throttles = [x] → x.src = src.toNat → Completes (.dramThrottleEnd c src) s (fun t =>
      t.mt = max s.mt x.until_ ∧ t.chan c = { s.chan c with throttles := [] } ∧ t.cw = s.cw)) ∧
    (s.f DRAM.SCRUB.PERIOD 0 = 0 → Completes .dramScrub s (· = s)) ∧
    (s.f DRAM.SCRUB.PERIOD 0 ≠ 0 → s.dramBytes ≠ 0 → Completes .dramScrub s (fun t => t.mem = s.mem ∧ t.mt = s.mt ∧ ∀ c, c < 2 →
      (2 ≤ s.f DRAM.RANK.STAT.STATE (2 * c) → (t.chan c).scrubNext = (s.chan c).scrubNext) ∧
      (s.f DRAM.RANK.STAT.STATE (2 * c) < 2 → (t.chan c).scrubNext = (if s.dramBytes / 128 ≤ (s.chan c).scrubNext + 1 then 0 else (s.chan c).scrubNext + 1) ∧
        ∀ i, i < 8 → let a := 0x100000000000 + s.chBurst c (s.chan c).scrubNext + 8 * i
          s.eccAt a = some .single → t.eccAt a = none)))

/-- A job command joins its channel's queue, waits while 16 are there, and is refused where it is malformed. The queue's oldest descriptor starts, and
one the rules do not admit starts only to end BADDESC. An ending writes its output, words 6 and 7 and the counters and answers the notify endpoint;
a verification that fails is a warning. An abort ends the running job and flushes the queue in order. -/
def Obligations.GorgeJobsRun : Prop :=
  (∀ (q : Token) (s : State), s.canonical = true → q.dest = 9#10 → q.kind = 2#4 → srcAllowed 9 q.src = true → q.timed = false →
    let c := q.stream.toNat
    let a := bits q.payload 47 6 * 64
    (c < 2 → q.err = false → bits q.payload 63 48 = 0 → bits q.payload 5 0 = 0 → s.gorgeMem a 64 = true → s.gorgeFull q = false →
      (s.gchan c).queue.length < 16 → Completes (.gorgeJobSubmit q) s (fun t =>
        t.gchan c = { s.gchan c with queue := (s.gchan c).queue ++ [a] } ∧ t.f GORGEN.STAT.QFILL c = (s.gchan c).queue.length + 1 + (s.gchan c).job.isSome.toNat ∧
        t.net = s.net.erase q ∧ t.mem = s.mem)) ∧
    (s.gorgeFull q = true → Completes (.gorgeJobSubmit q) s (· = s)) ∧
    (q.err = true → s.gorgeFull q = false → Completes (.gorgeJobSubmit q) s (Refused 9 q 5 s)) ∧
    (c < 2 → q.err = false → bits q.payload 63 48 ≠ 0 ∨ bits q.payload 5 0 ≠ 0 ∨ s.gorgeMem a 64 = false → s.gorgeFull q = false →
      Completes (.gorgeJobSubmit q) s (Refused 9 q 4 s)) ∧
    (c = 2 → q.err = false → bits q.payload 63 56 = 0x10 → bits q.payload 55 1 = 0 → let d := bits q.payload 0 0
      ∀ progress : Nat, Completes (.gorgeAbort q progress) s (fun t => (t.gchan d).queue = [] ∧ (t.gchan d).job = none ∧ t.f GORGEN.STAT.RUN d = 0 ∧
        t.f GORGEN.STAT.QFILL d = 0 ∧ ((s.gchan d).job = none → (∀ a ∈ (s.gchan d).queue, a % 64 = 0 ∧ s.gorgeMem a 64 = true) →
          ∀ a ∈ (s.gchan d).queue, t.ld (a + 48) = wd (place gFLUSHED 8 56))))) ∧
  (∀ (c : Fin 2) (s : State), s.canonical = true →
    (∀ (a : Nat) (rest : List Nat), (s.gchan c).job = none → (s.gchan c).queue = a :: rest → rest.length < 16 → s.gorgeMem a 64 = true →
      s.anyUe a 8 = false → let ws := s.lds a 6
      Completes (.gorgeJobStart c) s (fun t => (t.gchan c).queue = rest ∧ t.f GORGEN.STAT.RUN c = 1 ∧ t.f GORGEN.DESC.ADDR c = a / 64 ∧ t.mem = s.mem ∧
        (s.gorgeBad c ws = true → (t.gchan c).job = some ⟨a, ws, gFresh ws, some gBADDESC⟩) ∧
        (s.gorgeBad c ws = false → gResume ws = false → (t.gchan c).job = some ⟨a, ws, gFresh ws, none⟩))) ∧
    (∀ j : GJob, (s.gchan c).job = some j → (s.gchan c).queue.length < 16 → s.gorgeMem j.addr 64 = true → j.addr % 64 = 0 →
      let ws := j.words
      let r := s.gorgeRun c j none
      gState ws = 0 → gChain ws = 0 → r.out.length ≤ gDstLen ws → overlaps j.addr 64 (gDst ws) (gDstLen ws) = false →
      Completes (.gorgeJobEnd c) s (fun t => (t.gchan c).job = none ∧ t.bytes (gDst ws) r.out.length = r.out ∧
        t.ld (j.addr + 48) = wd (place r.status 8 56 + place (if gFmt ws = 0 then 0 else r.stream.check) 32 0) ∧
        t.ld (j.addr + 56) = wd (place r.used 32 32 + place r.out.length 32 0) ∧
        BytesKept s t (fun b => gDst ws ≤ b ∧ b < gDst ws + r.out.length ∨ j.addr + 48 ≤ b ∧ b < j.addr + 64) ∧
        t.f GORGE.CNT.JOBS 0 = min 65535 (s.f GORGE.CNT.JOBS 0 + 1) ∧ t.f GORGEN.STAT.LAST c = r.status % 256 ∧ t.f GORGEN.STAT.RUN c = 0 ∧
        (gNotify ws = 0 → t.net = s.net) ∧
        (gNotify ws ≠ 0 → ∃ u v, t.net = s.net ++ [u, v] ∧ u.dest = BitVec.ofNat 10 (gNotify ws) ∧ u.kind = 5#4 ∧ u.stream = BitVec.ofNat 8 (gStream ws) ∧
          u.payload = t.ld (j.addr + 48) ∧ v.payload = t.ld (j.addr + 56)) ∧
        (r.status = gVERIFY → t.f GORGE.STAT.VERR 0 = 1 ∧ (t.gchan c).verifies = (s.gchan c).verifies + 1 ∧
          ∃ e ∈ t.lines, e.cls = 2 ∧ e.source = 19 ∧ e.rtype = 6) ∧
        (r.status ≠ gVERIFY → t.lines = s.lines ∧ (t.gchan c).verifies = 0))))

/-- The Basin takes raises, the Dale keeps records, counters count. -/
def Obligations.BasinAndDaleTakeRaises : Prop :=
  Rules.BasinTakesRaises ∧ Rules.DalePopsAndCountersCount

/-- A SAFE input that falls takes every LGATE pin low, and the first one low raises source 0 as critical; inputs that differ for 20 ms do so too. GOFF
stays when the inputs rise and LREARM alone clears it, where nothing is unacknowledged; the pins then stay low. ERROR_n ends with its minimum or, held,
with ERREL. -/
def Obligations.LasersOffAndErrorPin : Prop :=
  ∀ s : State, s.canonical = true →
    (∀ b : Bool, (if b then s.basin.safeB else s.basin.safeA) = true → Completes (.safeInputFall b) s (fun t =>
      (if b then t.basin.safeB else t.basin.safeA) = false ∧ t.lasersOff ∧
      (s.basin.safeA = true → s.basin.safeB = true → t.basin.goff = true ∧ t.statusBit BASIN.STATUS.V 0 = true ∧ t.statusBit BASIN.REAL.V 0 = true ∧
        t.basin.safeDiffSince = some s.mt ∧ 0 ∈ t.basin.levels) ∧
      (s.basin.safeA = false ∨ s.basin.safeB = false → t.basin.safeDiffSince = none ∧ t.cw = s.cw))) ∧
    (∀ b : Bool, (if b then s.basin.safeB else s.basin.safeA) = false → Completes (.safeInputRise b) s (fun t =>
      (if b then t.basin.safeB else t.basin.safeA) = true ∧ t.basin.goff = s.basin.goff ∧ t.cw = s.cw ∧
      (t.basin.safeA = true → t.basin.safeB = true → 0 ∉ t.basin.levels ∧ t.basin.safeDiffSince = none))) ∧
    (∀ t0, s.basin.safeDiffSince = some t0 → Completes .safeDiscrepancy s (fun t => t.mt = max s.mt (t0 + 20000001) ∧ t.basin.goff = true ∧
      t.lasersOff ∧ t.statusBit BASIN.STATUS.V 0 = true ∧ t.basin.safeDiffSince = none)) ∧
    (s.basin.safeDiffSince = none → Completes .safeDiscrepancy s (· = s)) ∧
    (∀ h : CwFrom, Accepted s h BASIN.CTRL.LREARM.base (BASIN.CTRL.LREARM.put 0 1) → Completes (.lrearm h) s (fun t => t.basin.goff = false ∧
      WriteAnswered h t ∧ (s.basin.goff = true → t.lasersOff) ∧ (s.basin.goff = false → t.cols = s.cols))) ∧
    (∀ h : CwFrom, s.cwRefusal BASIN.CTRL.LREARM.base h.src = none → s.unacked = true ∨ s.basin.safeA = false ∨ s.basin.safeB = false →
      Completes (.lrearm h) s (fun t => t.basin = s.basin ∧ t.cols = s.cols ∧
        ∃ n, t.net.getLast? = some { mkTok cwEp h.src.toNat kindRSP h.stream.toNat (refusalPayload h.seq.toNat 3 8) with err := true, seq := n })) ∧
    (∀ h : CwFrom, Accepted s h BASIN.CTRL.ERREL.base (BASIN.CTRL.ERREL.put 0 1) → Completes (.errel h) s (fun t => WriteAnswered h t ∧
      (s.basin.errMinEnd = none → t.basin.errLow = false) ∧ (s.basin.errMinEnd = some (s.mt + 10000) → t.basin = s.basin) ∧
      ∀ e, s.basin.errMinEnd = some e → e ≠ s.mt + 10000 → t.basin = { s.basin with errRelPending := true })) ∧
    (∀ e, s.basin.errMinEnd = some e → Completes .errorMinimumEnd s (fun t => t.mt = max s.mt e ∧ t.basin.errMinEnd = none ∧
      (s.basin.errRelPending = true ∨ s.basin.errFirst = false ∧ s.f BASIN.CFG.EHOLD 0 = 0 → t.basin.errLow = false) ∧
      (s.basin.errRelPending = false → s.basin.errFirst = true ∨ s.f BASIN.CFG.EHOLD 0 = 1 → t.basin.errLow = s.basin.errLow)))

/-- PORST_n, RESET_n and a rail below its reset threshold hold the device in reset, RESET_n with the time base running; a rail below its warning
threshold holds the lasers off with a critical raise. The last hold's end boots: the active area or a trial, the other one where its image is not
accepted, and with neither, or no flash, boot fails with the check's code. -/
def Obligations.ResetsAndBoot : Prop :=
  (∀ s : State, s.canonical = true → Completes .porstAssert s (fun t => HeldInReset false s t ∧ t.holds = { s.holds with porst := true, shut := false }) ∧
    Completes .resetAssert s (fun t => HeldInReset true s t ∧ t.holds = { s.holds with reset := true }) ∧
    ∀ rail : Fin 3, Completes (.brownoutReset rail) s (fun t => HeldInReset false s t ∧ rail.val ∈ t.holds.rails) ∧
      Completes (.brownoutWarning rail) s (fun t => t.lasersOff ∧ t.basin.goff = true ∧ t.cw = s.cw ∧
        ∃ e, t.lines = s.lines ++ [e] ∧ e.cls = 0 ∧ e.source = 3 ∧ e.unit = rail.val)) ∧
  (∀ (c : Instr) (h : Holds) (keepTb : Bool) (b : BootIn) (s : State), s.canonical = true → releaseRow s c = some (h, keepTb, b) →
    (h.any = true → Completes c s (· = { s with holds := h })) ∧
    (h.any = false → b.flashOk = false → Completes c s (fun t => t.f BOOT.STAT.STATE 0 = 0xF ∧ t.f BOOT.STAT.FAILCODE 0 = 6 ∧ t.lasersOff ∧
      t.statusBit BASIN.STATUS.V 21 = true ∧ t.boot.running = false)) ∧
    (h.any = false → b.flashOk = true → s.flash.active ≤ 1 →
      let trial : Bool := s.flash.trial == 1 && decide (s.flash.tries < 3)
      let area := if trial then 1 - s.flash.active else s.flash.active
      let run := fun (a : Nat) (tr : Bool) => Completes c s (fun t => t.f BOOT.STAT.STATE 0 = 3 ∧ t.f BOOT.STAT.READY 0 = 0 ∧ t.boot.running = true ∧
        t.boot.area = a ∧ t.boot.trialBoot = tr ∧ t.f ID.BOOT.AREA 0 = a ∧ t.holds = h ∧ t.lasersOff ∧ t.mt = (if keepTb then s.mt else 0) ∧
        (trial = true → t.flash.tries = s.flash.tries + 1))
      (imageCheck (s.flash.image area) s = none → run area trial) ∧
      (∀ e, imageCheck (s.flash.image area) s = some e → (imageCheck (s.flash.image (1 - area)) s = none → run (1 - area) false) ∧
        ∀ e', imageCheck (s.flash.image (1 - area)) s = some e' → Completes c s (fun t => t.f BOOT.STAT.STATE 0 = 0xF ∧
          t.f BOOT.STAT.FAILCODE 0 = e' ∧ t.boot.running = false ∧ t.statusBit BASIN.STATUS.V 21 = true))))

/-- A round writes every rail and sensor word, each region's temperature, the critical flag and the hold, at the next multiple of 10 ms; two sensors of a
region at 125 °C shut the device down. A throttle slot holds the running customer cores. A block sleeps and wakes by permits, one stage at a time. -/
def Obligations.HousekeepingAndSleep : Prop :=
  (∀ (sens : List SensorIn) (rails : List Nat) (s : State), s.canonical = true → sens.length = 18 → (∀ k, k < 9 → rails.getD k 0 < 65536) →
    s.house.judged = [] → (∀ x ∈ sens, sensorBroken x = false) →
    let x := fun i => (sens.getD i ⟨0, 0, false, 0⟩).t
    ((∀ i, i < 18 → x i < 2000) → Completes (.housekeepingRound sens rails) s (fun t => t.mt = (s.mt / 10000000 + 1) * 10000000 ∧
      (∀ i, i < 18 → t.fi HK.SENS.T i = x i) ∧
      (∀ k, k < 9 → t.f HK.RAIL.MV k = rails.getD k 0 ∧ (t.f HK.RAIL.LOW k = 1 ↔ rails.getD k 0 < (railRange.getD k (0, 0)).1) ∧
        (t.f HK.RAIL.HIGH k = 1 ↔ (railRange.getD k (0, 0)).2 < rails.getD k 0)) ∧
      (∀ r, r < 9 → t.fi HK.REGION.T r = max (x (2 * r)) (x (2 * r + 1)) ∧ (t.f HK.REGION.CRIT r = 1 ↔ 1840 ≤ x (2 * r) ∧ 1840 ≤ x (2 * r + 1)) ∧
        (1840 ≤ x (2 * r) → 1840 ≤ x (2 * r + 1) → r ∉ s.house.crit → 2 ∈ t.basin.levels ∧ ∃ e ∈ t.lines, e.cls = 0 ∧ e.source = 2)) ∧
      t.f HK.STAT.HOLD 0 = s.holdOf ((List.range 9).foldl (fun (m : Int) r => max m (t.fi HK.REGION.T r)) (-32768)) ∧
      (s.f HK.STAT.HOLD 0 = 0 → t.f HK.STAT.HOLD 0 ≠ 0 → t.f HK.STAT.HOT 0 = 1))) ∧
    (∀ r, r < 9 → 2000 ≤ x (2 * r) → 2000 ≤ x (2 * r + 1) → Completes (.housekeepingRound sens rails) s (fun t =>
      t.holds.shut = true ∧ t.f VAULT.STAT.TSHUT 0 = 1 ∧ t.lasersOff ∧ t.mt = 0))) ∧
  (∀ s : State, s.canonical = true → Completes .throttleSlot s (fun t => t.mt = (s.mt / 10000 + 1) * 10000 ∧ t.cw = s.cw ∧ ∀ r,
    (2 ≤ r ∧ r < 16 ∧ s.coreState r = 1 → t.core r = { s.core r with blkns := (s.core r).blkns + s.f HK.STAT.HOLD 0 * 100 }) ∧
    (¬ (2 ≤ r ∧ r < 16 ∧ s.coreState r = 1) → t.core r = s.core r))) ∧
  (∀ (b : Fin 58) (s : State), s.canonical = true →
    (s.maySleep b = true → s.needsWake b = false → b.val ∉ s.wake.asleep → Completes (.blockSleep b) s (fun t =>
      t = { s with wake := { s.wake with asleep := s.wake.asleep ++ [b.val] } })) ∧
    (s.maySleep b = false ∨ s.needsWake b = true → Completes (.blockSleep b) s (· = s)) ∧
    (s.wake.asleep = [b.val] → s.needsWake b = true → s.wake.queue = [] → s.wake.waking = [] → s.wake.permits.length < 8 →
      Completes .wakePermitGrant s (fun t => t.wake.permits = s.wake.permits ++ [s.mt + 4000] ∧ t.wake.waking = [(b.val, s.mt + wakeTime b, wakeStages b)] ∧
        t.wake.queue = (if wakeStages b = 0 then [] else [⟨b.val, 0, s.mt⟩]) ∧ t.wake.asleep = [b.val] ∧
        t.f HK.WAKE.GRANTS 0 = min 65535 (s.f HK.WAKE.GRANTS 0 + 1))) ∧
    (8 ≤ s.wake.permits.length → s.wake.asleep = [] → Completes .wakePermitGrant s (· = s)) ∧
    (∀ t0 rest, s.wake.permits = t0 :: rest → Completes .permitReturn s (fun t => t.mt = max s.mt t0 ∧ t.wake = { s.wake with permits := rest })) ∧
    (∀ t0 more, s.wake.waking = [(b.val, t0, more)] → Completes (.wakeComplete b) s (fun t => t.mt = max s.mt t0 ∧ t.wake.waking = [] ∧
      (more = 0 → b.val ∉ t.wake.asleep) ∧ (more ≠ 0 → t.wake.asleep = s.wake.asleep))) ∧
    (∀ r : Fin 18, r.val = b.val + 2 → s.coreState r = 3 → b.val ∈ s.wake.asleep → s.wake.busy b = false → Completes (.earlyWake r) s (fun t =>
      t.wake = { s.wake with queue := s.wake.queue ++ [⟨b.val, 0, s.mt⟩] })))

/-- The vault, BOOT.CTRL, background tests, the repair record, the TAP. -/
def Obligations.VaultRepairAndTap : Prop :=
  Rules.VaultAndBootControl ∧ Rules.RepairAndTap

/-- A command that stores to no memory keeps every byte of it. The commands of the list are those to which the chapters give no store: their effect is
on control words, tokens and the state of units. -/
def Obligations.CommandsThatStoreNothingKeepMemory : Prop :=
  ∀ (c : Instr) (s t : State), storesNothing c = true → exec c s = .next t → t.mem = s.mem ∧ ∀ a, t.byte a = s.byte a

/-- What a command does not name it keeps: the cores with their registers, the path generators, the boot flash, the key slots, the upload streams and
windows, the DRAM controller's banks, the Gorge's channels, the holds, wakes and vault latch each change only by the commands listed for them; MT
moves only by a command that acts at a stated instant. -/
def Obligations.CommandsKeepTheUnitsTheyDoNotName : Prop :=
  ∀ (c : Instr) (s t : State), exec c s = .next t →
    (leavesCores c = true → t.cores = s.cores) ∧ (leavesPathGenerators c = true → t.pgs = s.pgs) ∧ (reachesFlash c = false → t.flash = s.flash) ∧
    (reachesKeys c = false → t.keySlots = s.keySlots) ∧ (reachesUploads c = false → t.ups = s.ups ∧ t.wins = s.wins) ∧
    (reachesDram c = false → t.dramBanks = s.dramBanks ∧ t.dramRanks = s.dramRanks ∧ t.dramChans = s.dramChans) ∧
    (reachesGorge c = false → t.gorge = s.gorge ∧ t.gorgeSaves = s.gorgeSaves) ∧
    (reachesPower c = false → t.holds = s.holds ∧ t.wake = s.wake ∧ t.vault = s.vault ∧ t.house = s.house) ∧
    (movesTime c = false → t.mt = s.mt)
end

