-- ==== Sys2Proof/Laws/Table.lean ====
section
/-! SUPPORT. The laws of the sparse tables: read after write, and that a write keeps the canonical form. -/

namespace Sys2Proof.Machine

variable {α : Type} [DecidableEq α] {d : Nat → α}

@[simp] theorem tget_nil (d : Nat → α) (i : Nat) : tget d [] i = d i := rfl

theorem tget_below : ∀ {t : List (Nat × α)} {lo i : Nat}, twfFrom d lo t = true → i < lo → tget d t i = d i
  | [], _, _, _, _ => rfl
  | (k, v) :: t, lo, i, h, hi => by
    simp only [twfFrom, Bool.and_eq_true, decide_eq_true_eq] at h
    have h1 : i ≠ k := by omega
    have h2 : i < k := by omega
    simp [tget, h1, h2]

/-- Reading the key just written gives the value written. -/
theorem tget_tset_same : ∀ {t : List (Nat × α)} {lo : Nat} (i : Nat) (v : α), twfFrom d lo t = true →
    tget d (tset d t i v) i = v
  | [], _, i, v, _ => by
    simp only [tset]; split <;> simp_all [tget]
  | (k, w) :: t, lo, i, v, h => by
    have h' := h
    simp only [twfFrom, Bool.and_eq_true, decide_eq_true_eq] at h
    simp only [tset]
    split
    · next hk =>
      split
      · next hv => subst hk; rw [tget_below h.2 (by omega)]; exact hv.symm
      · simp [tget]
    · next hk =>
      split
      · next hlt =>
        split
        · next hv => simp [tget, hk, hlt, hv]
        · simp [tget]
      · next hlt =>
        simp only [tget, hk, hlt, if_false]
        exact tget_tset_same i v h.2

/-- A write leaves every other key alone. -/
theorem tget_tset_other : ∀ {t : List (Nat × α)} {lo : Nat} (i j : Nat) (v : α), twfFrom d lo t = true → j ≠ i →
    tget d (tset d t i v) j = tget d t j
  | [], _, i, j, v, _, hj => by
    simp only [tset]; split <;> simp [tget, hj]
  | (k, w) :: t, lo, i, j, v, h, hj => by
    simp only [twfFrom, Bool.and_eq_true, decide_eq_true_eq] at h
    simp only [tset]
    split
    · next hk =>
      subst hk
      split
      · simp only [tget, hj, if_false]
        split
        · next hlt => exact tget_below h.2 (by omega)
        · rfl
      · simp [tget, hj]
    · next hk =>
      split
      · next hlt =>
        split
        · rfl
        · simp only [tget, hj, if_false]
          split
          · next h2 =>
            have h1 : j ≠ k := by omega
            have h3 : j < k := by omega
            simp [h1, h3]
          · rfl
      · next hlt =>
        simp only [tget]
        split
        · rfl
        · split
          · rfl
          · exact tget_tset_other i j v h.2 hj

theorem twfFrom_mono : ∀ {t : List (Nat × α)} {lo lo' : Nat}, lo' ≤ lo → twfFrom d lo t = true → twfFrom d lo' t = true
  | [], _, _, _, _ => rfl
  | (k, v) :: t, lo, lo', hl, h => by
    simp only [twfFrom, Bool.and_eq_true, decide_eq_true_eq] at h ⊢
    exact ⟨⟨by omega, h.1.2⟩, h.2⟩

theorem twfFrom_tset : ∀ {t : List (Nat × α)} {lo : Nat} (i : Nat) (v : α), twfFrom d lo t = true → lo ≤ i →
    twfFrom d lo (tset d t i v) = true
  | [], lo, i, v, _, hi => by
    simp only [tset]; split <;> simp_all [twfFrom]
  | (k, w) :: t, lo, i, v, h, hi => by
    have h' := h
    simp only [twfFrom, Bool.and_eq_true, decide_eq_true_eq] at h
    simp only [tset]
    split
    · next hk =>
      subst hk
      split
      · exact twfFrom_mono (by omega) h.2
      · next hv => simp [twfFrom, hi, hv, h.2]
    · next hk =>
      split
      · next hlt =>
        split
        · exact h'
        · next hv =>
          simp only [twfFrom, Bool.and_eq_true, decide_eq_true_eq]
          exact ⟨⟨hi, hv⟩, ⟨by omega, h.1.2⟩, h.2⟩
      · next hlt =>
        simp only [twfFrom, Bool.and_eq_true, decide_eq_true_eq]
        exact ⟨h.1, twfFrom_tset i v h.2 (by omega)⟩

/-- A write keeps the canonical form. -/
theorem twf_tset {t : List (Nat × α)} (i : Nat) (v : α) (h : twf d t = true) : twf d (tset d t i v) = true :=
  twfFrom_tset i v h (Nat.zero_le i)

end Sys2Proof.Machine
end

