-- ==== Sys2Proof/Laws/Kept.lean ====
section
/-! SUPPORT. What every command keeps: the queue of waiting commands, and the canonical form of every table. `Kept a b` says that `b` keeps
both from `a`; below, that each setter keeps them and how the relation goes through the forms the meanings are built of. -/

namespace Sys2Proof.Machine

open Sys2Proof

/-- From `a` to `b` the queue is the same, and the tables stay canonical. -/
structure Kept (a b : State) : Prop where
  pending : b.pending = a.pending
  canon : a.canonical = true → b.canonical = true

theorem Kept.refl (s : State) : Kept s s := ⟨rfl, id⟩

theorem Kept.trans {a b c : State} (h : Kept a b) (k : Kept b c) : Kept a c := ⟨k.pending.trans h.pending, fun x => k.canon (h.canon x)⟩

theorem Kept.ite {a x y : State} {c : Prop} [Decidable c] (h : Kept a x) (k : Kept a y) : Kept a (if c then x else y) := by
  split <;> assumption

/-- A value that carries a state goes through a choice. -/
theorem Kept.iteOf {a : State} {β : Type} {x y : β} {c : Prop} [Decidable c] (f : β → State) (h : Kept a (f x)) (k : Kept a (f y)) :
    Kept a (f (if c then x else y)) := by
  split <;> assumption

/-- The part of a matched value that is a state. -/
theorem Kept.ofEq {a : State} {β : Type} {p q : β} (f : β → State) (e : p = q) (h : Kept a (f p)) : Kept a (f q) := e ▸ h

theorem Kept.foldl {a s : State} {α : Type} {l : List α} {f : State → α → State} (h : Kept a s) (hf : ∀ t x, Kept a t → Kept a (f t x)) :
    Kept a (l.foldl f s) := by
  induction l generalizing s with
  | nil => exact h
  | cons x l ih => exact ih (hf s x h)

/-- A fold over a value that carries a state. -/
theorem Kept.foldlOf {a : State} {α β : Type} {l : List α} {f : β → α → β} {b : β} (g : β → State) (h : Kept a (g b))
    (hf : ∀ t x, Kept a (g t) → Kept a (g (f t x))) : Kept a (g (l.foldl f b)) := by
  induction l generalizing b with
  | nil => exact h
  | cons x l ih => exact ih (hf b x h)


/-- A table filtered keeps its canonical form. -/
theorem twfFrom_filter {α : Type} [DecidableEq α] {d : Nat → α} (p : Nat × α → Bool) :
    ∀ {t : List (Nat × α)} {lo : Nat}, twfFrom d lo t = true → twfFrom d lo (t.filter p) = true
  | [], _, _ => rfl
  | (k, v) :: t, lo, h => by
    have h' := h
    simp only [twfFrom, Bool.and_eq_true, decide_eq_true_eq] at h
    simp only [List.filter]
    split
    · simp only [twfFrom, Bool.and_eq_true, decide_eq_true_eq]
      exact ⟨h.1, twfFrom_filter p h.2⟩
    · exact twfFrom_mono (by omega) (twfFrom_filter p h.2)

theorem twf_filter {α : Type} [DecidableEq α] {d : Nat → α} {t : List (Nat × α)} (p : Nat × α → Bool) (h : twf d t = true) :
    twf d (t.filter p) = true := twfFrom_filter p h

/-- Everything the canonical form says, one part per table. -/
theorem State.canonical_iff (s : State) : s.canonical = true ↔
    twf cwReset s.cw = true ∧ Memory.wf s.mem = true ∧ twf (fun _ => none) s.eccs = true ∧ twf (fun _ => 0) s.seqs = true ∧
    twf (fun _ => []) s.i2cs = true ∧ twf (fun _ => {}) s.queues = true ∧ twf (fun _ => {}) s.hts = true ∧
    twf (fun _ => {}) s.cols = true ∧ twf (fun _ => {}) s.cores = true ∧ twf (fun _ => {}) s.pgs = true ∧
    twf (fun _ => {}) s.maps = true ∧ twf (fun _ => {}) s.loops = true ∧ twf (fun _ => {}) s.scs = true ∧
    twf (fun _ => {}) s.encs = true ∧ twf (fun _ => {}) s.halls = true ∧ twf (fun _ => {}) s.probes = true ∧
    twf (fun _ => {}) s.emus = true ∧ twf (fun _ => {}) s.slots = true ∧ twf (fun _ => {}) s.taps = true ∧
    twf (fun _ => {}) s.auxs = true ∧ twf (fun _ => {}) s.lanes = true ∧ twf (fun _ => {}) s.links = true ∧
    twf (fun _ => {}) s.keySlots = true ∧ twf (fun _ => {}) s.wins = true ∧ twf (fun _ => {}) s.ups = true ∧
    twf (fun _ => {}) s.dramBanks = true ∧ twf (fun _ => {}) s.dramRanks = true ∧ twf (fun _ => {}) s.dramChans = true ∧
    twf (fun _ => {}) s.gorge = true := by
  simp only [State.canonical, Bool.and_eq_true]
  tauto

theorem State.setMt_kept {a s : State} {v} (h : Kept a s) : Kept a (s.setMt v) := ⟨h.pending, h.canon⟩

theorem State.setCw_kept {a s : State} {v} (h : Kept a s) (hv : twf cwReset s.cw = true → twf cwReset v = true) : Kept a (s.setCw v) :=
  ⟨h.pending, fun hc => by
    have hs := (State.canonical_iff s).1 (h.canon hc)
    exact (State.canonical_iff _).2 (by
      simp only [State.setCw] at hs ⊢
      tauto)⟩

theorem State.setMem_kept {a s : State} {v} (h : Kept a s) (hv : Memory.wf s.mem = true → Memory.wf v = true) : Kept a (s.setMem v) :=
  ⟨h.pending, fun hc => by
    have hs := (State.canonical_iff s).1 (h.canon hc)
    exact (State.canonical_iff _).2 (by
      simp only [State.setMem] at hs ⊢
      tauto)⟩

theorem State.setEccs_kept {a s : State} {v} (h : Kept a s) (hv : twf (fun _ => none) s.eccs = true → twf (fun _ => none) v = true) : Kept a (s.setEccs v) :=
  ⟨h.pending, fun hc => by
    have hs := (State.canonical_iff s).1 (h.canon hc)
    exact (State.canonical_iff _).2 (by
      simp only [State.setEccs] at hs ⊢
      tauto)⟩

theorem State.setNet_kept {a s : State} {v} (h : Kept a s) : Kept a (s.setNet v) := ⟨h.pending, h.canon⟩

theorem State.setSeqs_kept {a s : State} {v} (h : Kept a s) (hv : twf (fun _ => 0) s.seqs = true → twf (fun _ => 0) v = true) : Kept a (s.setSeqs v) :=
  ⟨h.pending, fun hc => by
    have hs := (State.canonical_iff s).1 (h.canon hc)
    exact (State.canonical_iff _).2 (by
      simp only [State.setSeqs] at hs ⊢
      tauto)⟩

theorem State.setLines_kept {a s : State} {v} (h : Kept a s) : Kept a (s.setLines v) := ⟨h.pending, h.canon⟩

theorem State.setFreeCtr_kept {a s : State} {v} (h : Kept a s) : Kept a (s.setFreeCtr v) := ⟨h.pending, h.canon⟩

theorem State.setQueues_kept {a s : State} {v} (h : Kept a s) (hv : twf (fun _ => {}) s.queues = true → twf (fun _ => {}) v = true) : Kept a (s.setQueues v) :=
  ⟨h.pending, fun hc => by
    have hs := (State.canonical_iff s).1 (h.canon hc)
    exact (State.canonical_iff _).2 (by
      simp only [State.setQueues] at hs ⊢
      tauto)⟩

theorem State.setTb_kept {a s : State} {v} (h : Kept a s) : Kept a (s.setTb v) := ⟨h.pending, h.canon⟩

theorem State.setHts_kept {a s : State} {v} (h : Kept a s) (hv : twf (fun _ => {}) s.hts = true → twf (fun _ => {}) v = true) : Kept a (s.setHts v) :=
  ⟨h.pending, fun hc => by
    have hs := (State.canonical_iff s).1 (h.canon hc)
    exact (State.canonical_iff _).2 (by
      simp only [State.setHts] at hs ⊢
      tauto)⟩

theorem State.setCols_kept {a s : State} {v} (h : Kept a s) (hv : twf (fun _ => {}) s.cols = true → twf (fun _ => {}) v = true) : Kept a (s.setCols v) :=
  ⟨h.pending, fun hc => by
    have hs := (State.canonical_iff s).1 (h.canon hc)
    exact (State.canonical_iff _).2 (by
      simp only [State.setCols] at hs ⊢
      tauto)⟩

theorem State.setBasin_kept {a s : State} {v} (h : Kept a s) : Kept a (s.setBasin v) := ⟨h.pending, h.canon⟩

theorem State.setDale_kept {a s : State} {v} (h : Kept a s) : Kept a (s.setDale v) := ⟨h.pending, h.canon⟩

theorem State.setHeld_kept {a s : State} {v} (h : Kept a s) : Kept a (s.setHeld v) := ⟨h.pending, h.canon⟩

theorem State.setScrub_kept {a s : State} {v} (h : Kept a s) : Kept a (s.setScrub v) := ⟨h.pending, h.canon⟩

theorem State.setFanout_kept {a s : State} {v} (h : Kept a s) : Kept a (s.setFanout v) := ⟨h.pending, h.canon⟩

theorem State.setPassed_kept {a s : State} {v} (h : Kept a s) : Kept a (s.setPassed v) := ⟨h.pending, h.canon⟩

theorem State.setCores_kept {a s : State} {v} (h : Kept a s) (hv : twf (fun _ => {}) s.cores = true → twf (fun _ => {}) v = true) : Kept a (s.setCores v) :=
  ⟨h.pending, fun hc => by
    have hs := (State.canonical_iff s).1 (h.canon hc)
    exact (State.canonical_iff _).2 (by
      simp only [State.setCores] at hs ⊢
      tauto)⟩

theorem State.setPgs_kept {a s : State} {v} (h : Kept a s) (hv : twf (fun _ => {}) s.pgs = true → twf (fun _ => {}) v = true) : Kept a (s.setPgs v) :=
  ⟨h.pending, fun hc => by
    have hs := (State.canonical_iff s).1 (h.canon hc)
    exact (State.canonical_iff _).2 (by
      simp only [State.setPgs] at hs ⊢
      tauto)⟩

theorem State.setSets_kept {a s : State} {v} (h : Kept a s) : Kept a (s.setSets v) := ⟨h.pending, h.canon⟩

theorem State.setMaps_kept {a s : State} {v} (h : Kept a s) (hv : twf (fun _ => {}) s.maps = true → twf (fun _ => {}) v = true) : Kept a (s.setMaps v) :=
  ⟨h.pending, fun hc => by
    have hs := (State.canonical_iff s).1 (h.canon hc)
    exact (State.canonical_iff _).2 (by
      simp only [State.setMaps] at hs ⊢
      tauto)⟩

theorem State.setStares_kept {a s : State} {v} (h : Kept a s) : Kept a (s.setStares v) := ⟨h.pending, h.canon⟩

theorem State.setLoops_kept {a s : State} {v} (h : Kept a s) (hv : twf (fun _ => {}) s.loops = true → twf (fun _ => {}) v = true) : Kept a (s.setLoops v) :=
  ⟨h.pending, fun hc => by
    have hs := (State.canonical_iff s).1 (h.canon hc)
    exact (State.canonical_iff _).2 (by
      simp only [State.setLoops] at hs ⊢
      tauto)⟩

theorem State.setGateLog_kept {a s : State} {v} (h : Kept a s) : Kept a (s.setGateLog v) := ⟨h.pending, h.canon⟩

theorem State.setScs_kept {a s : State} {v} (h : Kept a s) (hv : twf (fun _ => {}) s.scs = true → twf (fun _ => {}) v = true) : Kept a (s.setScs v) :=
  ⟨h.pending, fun hc => by
    have hs := (State.canonical_iff s).1 (h.canon hc)
    exact (State.canonical_iff _).2 (by
      simp only [State.setScs] at hs ⊢
      tauto)⟩

theorem State.setEncs_kept {a s : State} {v} (h : Kept a s) (hv : twf (fun _ => {}) s.encs = true → twf (fun _ => {}) v = true) : Kept a (s.setEncs v) :=
  ⟨h.pending, fun hc => by
    have hs := (State.canonical_iff s).1 (h.canon hc)
    exact (State.canonical_iff _).2 (by
      simp only [State.setEncs] at hs ⊢
      tauto)⟩

theorem State.setHalls_kept {a s : State} {v} (h : Kept a s) (hv : twf (fun _ => {}) s.halls = true → twf (fun _ => {}) v = true) : Kept a (s.setHalls v) :=
  ⟨h.pending, fun hc => by
    have hs := (State.canonical_iff s).1 (h.canon hc)
    exact (State.canonical_iff _).2 (by
      simp only [State.setHalls] at hs ⊢
      tauto)⟩

theorem State.setProbes_kept {a s : State} {v} (h : Kept a s) (hv : twf (fun _ => {}) s.probes = true → twf (fun _ => {}) v = true) : Kept a (s.setProbes v) :=
  ⟨h.pending, fun hc => by
    have hs := (State.canonical_iff s).1 (h.canon hc)
    exact (State.canonical_iff _).2 (by
      simp only [State.setProbes] at hs ⊢
      tauto)⟩

theorem State.setEmus_kept {a s : State} {v} (h : Kept a s) (hv : twf (fun _ => {}) s.emus = true → twf (fun _ => {}) v = true) : Kept a (s.setEmus v) :=
  ⟨h.pending, fun hc => by
    have hs := (State.canonical_iff s).1 (h.canon hc)
    exact (State.canonical_iff _).2 (by
      simp only [State.setEmus] at hs ⊢
      tauto)⟩

theorem State.setSlots_kept {a s : State} {v} (h : Kept a s) (hv : twf (fun _ => {}) s.slots = true → twf (fun _ => {}) v = true) : Kept a (s.setSlots v) :=
  ⟨h.pending, fun hc => by
    have hs := (State.canonical_iff s).1 (h.canon hc)
    exact (State.canonical_iff _).2 (by
      simp only [State.setSlots] at hs ⊢
      tauto)⟩

theorem State.setCsiSkip_kept {a s : State} {v} (h : Kept a s) : Kept a (s.setCsiSkip v) := ⟨h.pending, h.canon⟩

theorem State.setPipesOff_kept {a s : State} {v} (h : Kept a s) : Kept a (s.setPipesOff v) := ⟨h.pending, h.canon⟩

theorem State.setTaps_kept {a s : State} {v} (h : Kept a s) (hv : twf (fun _ => {}) s.taps = true → twf (fun _ => {}) v = true) : Kept a (s.setTaps v) :=
  ⟨h.pending, fun hc => by
    have hs := (State.canonical_iff s).1 (h.canon hc)
    exact (State.canonical_iff _).2 (by
      simp only [State.setTaps] at hs ⊢
      tauto)⟩

theorem State.setI2cs_kept {a s : State} {v} (h : Kept a s) (hv : twf (fun _ => []) s.i2cs = true → twf (fun _ => []) v = true) : Kept a (s.setI2cs v) :=
  ⟨h.pending, fun hc => by
    have hs := (State.canonical_iff s).1 (h.canon hc)
    exact (State.canonical_iff _).2 (by
      simp only [State.setI2cs] at hs ⊢
      tauto)⟩

theorem State.setAuxs_kept {a s : State} {v} (h : Kept a s) (hv : twf (fun _ => {}) s.auxs = true → twf (fun _ => {}) v = true) : Kept a (s.setAuxs v) :=
  ⟨h.pending, fun hc => by
    have hs := (State.canonical_iff s).1 (h.canon hc)
    exact (State.canonical_iff _).2 (by
      simp only [State.setAuxs] at hs ⊢
      tauto)⟩

theorem State.setAuxMoves_kept {a s : State} {v} (h : Kept a s) : Kept a (s.setAuxMoves v) := ⟨h.pending, h.canon⟩

theorem State.setAuxStops_kept {a s : State} {v} (h : Kept a s) : Kept a (s.setAuxStops v) := ⟨h.pending, h.canon⟩

theorem State.setAuxNext_kept {a s : State} {v} (h : Kept a s) : Kept a (s.setAuxNext v) := ⟨h.pending, h.canon⟩

theorem State.setLanes_kept {a s : State} {v} (h : Kept a s) (hv : twf (fun _ => {}) s.lanes = true → twf (fun _ => {}) v = true) : Kept a (s.setLanes v) :=
  ⟨h.pending, fun hc => by
    have hs := (State.canonical_iff s).1 (h.canon hc)
    exact (State.canonical_iff _).2 (by
      simp only [State.setLanes] at hs ⊢
      tauto)⟩

theorem State.setLinks_kept {a s : State} {v} (h : Kept a s) (hv : twf (fun _ => {}) s.links = true → twf (fun _ => {}) v = true) : Kept a (s.setLinks v) :=
  ⟨h.pending, fun hc => by
    have hs := (State.canonical_iff s).1 (h.canon hc)
    exact (State.canonical_iff _).2 (by
      simp only [State.setLinks] at hs ⊢
      tauto)⟩

theorem State.setKeySlots_kept {a s : State} {v} (h : Kept a s) (hv : twf (fun _ => {}) s.keySlots = true → twf (fun _ => {}) v = true) : Kept a (s.setKeySlots v) :=
  ⟨h.pending, fun hc => by
    have hs := (State.canonical_iff s).1 (h.canon hc)
    exact (State.canonical_iff _).2 (by
      simp only [State.setKeySlots] at hs ⊢
      tauto)⟩

theorem State.setWins_kept {a s : State} {v} (h : Kept a s) (hv : twf (fun _ => {}) s.wins = true → twf (fun _ => {}) v = true) : Kept a (s.setWins v) :=
  ⟨h.pending, fun hc => by
    have hs := (State.canonical_iff s).1 (h.canon hc)
    exact (State.canonical_iff _).2 (by
      simp only [State.setWins] at hs ⊢
      tauto)⟩

theorem State.setUps_kept {a s : State} {v} (h : Kept a s) (hv : twf (fun _ => {}) s.ups = true → twf (fun _ => {}) v = true) : Kept a (s.setUps v) :=
  ⟨h.pending, fun hc => by
    have hs := (State.canonical_iff s).1 (h.canon hc)
    exact (State.canonical_iff _).2 (by
      simp only [State.setUps] at hs ⊢
      tauto)⟩

theorem State.setPtp_kept {a s : State} {v} (h : Kept a s) : Kept a (s.setPtp v) := ⟨h.pending, h.canon⟩

theorem State.setHost_kept {a s : State} {v} (h : Kept a s) : Kept a (s.setHost v) := ⟨h.pending, h.canon⟩

theorem State.setDramBanks_kept {a s : State} {v} (h : Kept a s) (hv : twf (fun _ => {}) s.dramBanks = true → twf (fun _ => {}) v = true) : Kept a (s.setDramBanks v) :=
  ⟨h.pending, fun hc => by
    have hs := (State.canonical_iff s).1 (h.canon hc)
    exact (State.canonical_iff _).2 (by
      simp only [State.setDramBanks] at hs ⊢
      tauto)⟩

theorem State.setDramRanks_kept {a s : State} {v} (h : Kept a s) (hv : twf (fun _ => {}) s.dramRanks = true → twf (fun _ => {}) v = true) : Kept a (s.setDramRanks v) :=
  ⟨h.pending, fun hc => by
    have hs := (State.canonical_iff s).1 (h.canon hc)
    exact (State.canonical_iff _).2 (by
      simp only [State.setDramRanks] at hs ⊢
      tauto)⟩

theorem State.setDramChans_kept {a s : State} {v} (h : Kept a s) (hv : twf (fun _ => {}) s.dramChans = true → twf (fun _ => {}) v = true) : Kept a (s.setDramChans v) :=
  ⟨h.pending, fun hc => by
    have hs := (State.canonical_iff s).1 (h.canon hc)
    exact (State.canonical_iff _).2 (by
      simp only [State.setDramChans] at hs ⊢
      tauto)⟩

theorem State.setRaaimt_kept {a s : State} {v} (h : Kept a s) : Kept a (s.setRaaimt v) := ⟨h.pending, h.canon⟩

theorem State.setRaammt_kept {a s : State} {v} (h : Kept a s) : Kept a (s.setRaammt v) := ⟨h.pending, h.canon⟩

theorem State.setGorge_kept {a s : State} {v} (h : Kept a s) (hv : twf (fun _ => {}) s.gorge = true → twf (fun _ => {}) v = true) : Kept a (s.setGorge v) :=
  ⟨h.pending, fun hc => by
    have hs := (State.canonical_iff s).1 (h.canon hc)
    exact (State.canonical_iff _).2 (by
      simp only [State.setGorge] at hs ⊢
      tauto)⟩

theorem State.setGorgeSaves_kept {a s : State} {v} (h : Kept a s) : Kept a (s.setGorgeSaves v) := ⟨h.pending, h.canon⟩

theorem State.setHolds_kept {a s : State} {v} (h : Kept a s) : Kept a (s.setHolds v) := ⟨h.pending, h.canon⟩

theorem State.setWake_kept {a s : State} {v} (h : Kept a s) : Kept a (s.setWake v) := ⟨h.pending, h.canon⟩

theorem State.setVault_kept {a s : State} {v} (h : Kept a s) : Kept a (s.setVault v) := ⟨h.pending, h.canon⟩

theorem State.setHouse_kept {a s : State} {v} (h : Kept a s) : Kept a (s.setHouse v) := ⟨h.pending, h.canon⟩

theorem State.setFlash_kept {a s : State} {v} (h : Kept a s) : Kept a (s.setFlash v) := ⟨h.pending, h.canon⟩

theorem State.setKeyHashes_kept {a s : State} {v} (h : Kept a s) : Kept a (s.setKeyHashes v) := ⟨h.pending, h.canon⟩

theorem State.setBoot_kept {a s : State} {v} (h : Kept a s) : Kept a (s.setBoot v) := ⟨h.pending, h.canon⟩

theorem forEach_kept {a s : State} {α : Type} {l : List α} {f : α → State → State} (h : Kept a s) (hf : ∀ x t, Kept a t → Kept a (f x t)) :
    Kept a (Sys2Proof.Machine.forEach l f s) := Kept.foldl h (fun t x ht => hf x t ht)

theorem State.setBytes_eccs (l : List Byte) : ∀ (s : State) (a : Nat), (s.setBytes a l).eccs = s.eccs := by
  induction l with
  | nil => exact fun _ _ => rfl
  | cons b t ih => exact fun s a => ih (s.setByte a b) (a + 1)

/-- The state an attempt of an instruction leaves. -/
def ZOut.state : ZOut → State
  | .retire s _ _ => s
  | .halt s _ _ => s
  | .exc _ _ s _ => s
  | .block _ _ _ s _ => s

/-- The state a local load leaves. -/
def loadState : Sum (Nat × Word × State) (Word × State) → State
  | .inl p => p.2.2
  | .inr p => p.2

/-- The state a local store leaves. -/
def storeState : Sum (Nat × Word × State) State → State
  | .inl p => p.2.2
  | .inr s => s

end Sys2Proof.Machine
end

