-- ==== Sys2Proof/Laws/KeptOps.lean ====
section
/-! SUPPORT. Every operation of Machine/Ops.lean keeps the queue and the canonical tables (`Kept`). -/

set_option linter.unusedVariables false

namespace Sys2Proof.Machine

open Sys2Proof

theorem State.setWord_kept {a s y1 y2} (h : Kept a s) : Kept a (State.setWord s y1 y2) := by
  unfold State.setWord
  refine State.setCw_kept ?_ ?_
  · exact h
  · intro x1
    exact twf_tset _ _ x1

theorem State.setF_kept {a s y1 y2 y3} (h : Kept a s) : Kept a (State.setF s y1 y2 y3) := by
  unfold State.setF
  refine State.setWord_kept ?_
  exact h

theorem State.setFi_kept {a s y1 y2 y3} (h : Kept a s) : Kept a (State.setFi s y1 y2 y3) := by
  unfold State.setFi
  refine State.setF_kept ?_
  exact h

theorem State.incF_kept {a s y1 y2 y3} (h : Kept a s) : Kept a (State.incF s y1 y2 y3) := by
  unfold State.incF
  refine State.setF_kept ?_
  exact h

theorem State.ecAdd_kept {a s y1 y2} (h : Kept a s) : Kept a (State.ecAdd s y1 y2) := by
  unfold State.ecAdd
  extract_lets +onlyGivenNames v1
  obtain ⟨v2, e⟩ : ∃ y, y = v1 := ⟨_, rfl⟩
  rw [← e]
  clear e v1
  extract_lets +onlyGivenNames v3
  obtain ⟨v5, e, h4⟩ : ∃ y, y = v3 ∧ Kept a (y) := ⟨_, rfl, by
    refine State.setF_kept ?_
    exact h
    ⟩
  rw [← e]
  clear e v3
  refine Kept.ite ?_ ?_
  · refine State.setWord_kept ?_
    exact h4
  · exact h4

theorem State.event_kept {a s y1 y2 y3} (h : Kept a s) : Kept a (State.event s y1 y2 y3) := by
  unfold State.event
  refine Kept.ite ?_ ?_
  · exact h
  · refine Kept.foldl ?_ ?_
    · exact h
    · intro t1 x2 h3
      refine Kept.ite ?_ ?_
      · refine State.ecAdd_kept ?_
        exact h3
      · exact h3

theorem State.raiseRec_kept {a s y1} (h : Kept a s) : Kept a (State.raiseRec s y1) := by
  unfold State.raiseRec
  refine State.setLines_kept ?_
  exact h

theorem State.raise_kept {a s y1 y2 y3 y4 y5 y6 y7} (h : Kept a s) : Kept a (State.raise s y1 y2 y3 y4 y5 y6 y7) := by
  unfold State.raise
  refine State.raiseRec_kept ?_
  exact h

theorem State.critical_kept {a s y1 y2 y3 y4} (h : Kept a s) : Kept a (State.critical s y1 y2 y3 y4) := by
  unfold State.critical
  refine State.raise_kept ?_
  exact h

theorem State.severe_kept {a s y1 y2 y3 y4} (h : Kept a s) : Kept a (State.severe s y1 y2 y3 y4) := by
  unfold State.severe
  refine State.raise_kept ?_
  exact h

theorem State.warn_kept {a s y1 y2 y3 y4} (h : Kept a s) : Kept a (State.warn s y1 y2 y3 y4) := by
  unfold State.warn
  refine State.raise_kept ?_
  exact h

theorem State.info_kept {a s y1 y2 y3 y4} (h : Kept a s) : Kept a (State.info s y1 y2 y3 y4) := by
  unfold State.info
  refine State.raise_kept ?_
  exact h

theorem State.setByte_kept {a s y1 y2} (h : Kept a s) : Kept a (State.setByte s y1 y2) := by
  unfold State.setByte
  refine State.setMem_kept ?_ ?_
  · exact h
  · intro x1
    exact twf_tset _ _ x1

theorem State.setBytes_kept {a s y1 y2} (h : Kept a s) : Kept a (State.setBytes s y1 y2) := by
  induction y2 generalizing s y1
  · unfold State.setBytes
    exact h
  · rename_i w1 w2 w3
    unfold State.setBytes
    apply w3
    refine State.setByte_kept ?_
    exact h

theorem State.setEcc_kept {a s y1 y2} (h : Kept a s) : Kept a (State.setEcc s y1 y2) := by
  unfold State.setEcc
  refine State.setEccs_kept ?_ ?_
  · exact h
  · intro x1
    exact twf_tset _ _ x1

theorem State.st_kept {a s y1 y2} (h : Kept a s) : Kept a (State.st s y1 y2) := by
  unfold State.st
  refine State.setEcc_kept ?_
  refine State.setBytes_kept ?_
  exact h

theorem State.sts_kept {a s y1 y2} (h : Kept a s) : Kept a (State.sts s y1 y2) := by
  induction y2 generalizing s y1
  · unfold State.sts
    exact h
  · rename_i w1 w2 w3
    unfold State.sts
    apply w3
    refine State.st_kept ?_
    exact h

theorem State.send_kept {a s y1} (h : Kept a s) : Kept a (State.send s y1) := by
  unfold State.send
  extract_lets +onlyGivenNames v1
  obtain ⟨v2, e⟩ : ∃ y, y = v1 := ⟨_, rfl⟩
  rw [← e]
  clear e v1
  refine State.setSeqs_kept ?_ ?_
  · refine State.setNet_kept ?_
    exact h
  · intro x3
    exact twf_tset _ _ x3

theorem State.sendMsg_kept {a s y1 y2 y3 y4 y5} (h : Kept a s) : Kept a (State.sendMsg s y1 y2 y3 y4 y5) := by
  induction y5 generalizing s with
  | nil => exact h
  | cons w t ih =>
    cases t with
    | nil => exact State.send_kept h
    | cons u t => exact ih (State.send_kept h)

theorem State.deliver_kept {a s y1 y2} (h : Kept a s) : Kept a (State.deliver s y1 y2) := by
  unfold State.deliver
  refine State.event_kept ?_
  refine State.setNet_kept ?_
  exact h

theorem State.deliverAll_kept {a s y1 y2} (h : Kept a s) : Kept a (State.deliverAll s y1 y2) := by
  unfold State.deliverAll
  refine Kept.foldl ?_ ?_
  · exact h
  · intro t1 x2 h3
    refine State.deliver_kept ?_
    exact h3

theorem State.absorb_kept {a s y1 y2} (h : Kept a s) : Kept a (State.absorb s y1 y2) := by
  unfold State.absorb
  refine Kept.ite ?_ ?_
  · refine State.info_kept ?_
    exact h
  · exact h

theorem State.refuse_kept {a s y1 y2 y3} (h : Kept a s) : Kept a (State.refuse s y1 y2 y3) := by
  unfold State.refuse
  refine Kept.ite ?_ ?_
  · refine State.absorb_kept ?_
    exact h
  · refine State.info_kept ?_
    refine State.send_kept ?_
    exact h

theorem State.respond_kept {a s y1 y2 y3} (h : Kept a s) : Kept a (State.respond s y1 y2 y3) := by
  unfold State.respond
  refine State.send_kept ?_
  exact h

theorem State.warnAccess_kept {a s y1 y2 y3} (h : Kept a s) : Kept a (State.warnAccess s y1 y2 y3) := by
  unfold State.warnAccess
  refine State.raise_kept ?_
  exact h

theorem State.arrive_kept {a s y1 y2 f3} (h : Kept a s) (hf3 : ∀ t, Kept a t → Kept a (f3 t)) : Kept a (State.arrive s y1 y2 f3) := by
  unfold State.arrive
  split
  · rename_i z1
    exact h
  · rename_i z2 z3 z4
    extract_lets +onlyGivenNames v5
    obtain ⟨v7, e, h6⟩ : ∃ y, y = v5 ∧ Kept a (y) := ⟨_, rfl, by
      refine State.deliverAll_kept ?_
      exact h
      ⟩
    rw [← e]
    clear e v5
    refine Kept.ite ?_ ?_
    · apply hf3
      exact h6
    · refine Kept.ite ?_ ?_
      · refine State.absorb_kept ?_
        exact h6
      · extract_lets +onlyGivenNames v8
        obtain ⟨v10, e, h9⟩ : ∃ y, y = v8 ∧ Kept a (y) := ⟨_, rfl, by
          refine State.refuse_kept ?_
          exact h6
          ⟩
        rw [← e]
        clear e v8
        refine Kept.ite ?_ ?_
        · refine State.warnAccess_kept ?_
          exact h9
        · exact h9

theorem State.whenDue_kept {a s y1 f2} (h : Kept a s) (hf2 : ∀ t, Kept a t → Kept a (f2 t)) : Kept a (State.whenDue s y1 f2) := by
  unfold State.whenDue
  split
  · rename_i z1
    exact h
  · rename_i z2 z3 z4
    refine Kept.ite ?_ ?_
    · refine State.setHeld_kept ?_
      exact h
    · apply hf2
      exact h

theorem State.reach_kept {a s y1} (h : Kept a s) : Kept a (State.reach s y1) := by
  unfold State.reach
  refine State.setMt_kept ?_
  exact h

theorem State.free_kept {a s} (h : Kept a s) : Kept a (Prod.snd (State.free s)) := by
  unfold State.free
  refine State.setFreeCtr_kept ?_
  exact h

theorem State.setQueue_kept {a s y1 y2} (h : Kept a s) : Kept a (State.setQueue s y1 y2) := by
  unfold State.setQueue
  refine State.setQueues_kept ?_ ?_
  · exact h
  · intro x1
    exact twf_tset _ _ x1

theorem State.setCol_kept {a s y1 y2} (h : Kept a s) : Kept a (State.setCol s y1 y2) := by
  unfold State.setCol
  refine State.setCols_kept ?_ ?_
  · exact h
  · intro x1
    exact twf_tset _ _ x1

theorem State.setHt_kept {a s y1 y2} (h : Kept a s) : Kept a (State.setHt s y1 y2) := by
  unfold State.setHt
  refine State.setHts_kept ?_ ?_
  · exact h
  · intro x1
    exact twf_tset _ _ x1

theorem State.mirrorRecord_kept {a s y1} (h : Kept a s) : Kept a (State.mirrorRecord s y1) := by
  unfold State.mirrorRecord
  refine Kept.ite ?_ ?_
  · exact h
  · extract_lets +onlyGivenNames v1
    obtain ⟨v2, e⟩ : ∃ y, y = v1 := ⟨_, rfl⟩
    rw [← e]
    clear e v1
    extract_lets +onlyGivenNames v3
    obtain ⟨v5, e, h4⟩ : ∃ y, y = v3 ∧ Kept a (y) := ⟨_, rfl, by
      refine Kept.foldl ?_ ?_
      · exact h
      · intro t6 x7 h8
        refine State.setF_kept ?_
        exact h8
      ⟩
    rw [← e]
    clear e v3
    refine State.setF_kept ?_
    exact h4

theorem State.daleRecord_kept {a s y1 y2 y3} (h : Kept a s) : Kept a (State.daleRecord s y1 y2 y3) := by
  unfold State.daleRecord
  extract_lets +onlyGivenNames v1
  obtain ⟨v2, e⟩ : ∃ y, y = v1 := ⟨_, rfl⟩
  rw [← e]
  clear e v1
  extract_lets +onlyGivenNames v3
  obtain ⟨v4, e⟩ : ∃ y, y = v3 := ⟨_, rfl⟩
  rw [← e]
  clear e v3
  extract_lets +onlyGivenNames v5
  obtain ⟨v6, e⟩ : ∃ y, y = v5 := ⟨_, rfl⟩
  rw [← e]
  clear e v5
  extract_lets +onlyGivenNames v7
  obtain ⟨v9, e, h8⟩ : ∃ y, y = v7 ∧ Kept a (y) := ⟨_, rfl, by
    refine State.mirrorRecord_kept ?_
    refine State.setDale_kept ?_
    exact h
    ⟩
  rw [← e]
  clear e v7
  refine Kept.ite ?_ ?_
  · extract_lets +onlyGivenNames v10
    obtain ⟨v12, e, h11⟩ : ∃ y, y = v10 ∧ Kept a (y) := ⟨_, rfl, by
      refine State.event_kept ?_
      refine State.setF_kept ?_
      refine State.incF_kept ?_
      exact h8
      ⟩
    rw [← e]
    clear e v10
    refine Kept.ite ?_ ?_
    · refine State.warn_kept ?_
      refine State.setDale_kept ?_
      exact h11
    · exact h11
  · extract_lets +onlyGivenNames v13
    obtain ⟨v14, e⟩ : ∃ y, y = v13 := ⟨_, rfl⟩
    rw [← e]
    clear e v13
    extract_lets +onlyGivenNames v15
    obtain ⟨v17, e, h16⟩ : ∃ y, y = v15 ∧ Kept a (y) := ⟨_, rfl, by
      refine State.sts_kept ?_
      exact h8
      ⟩
    rw [← e]
    clear e v15
    refine State.event_kept ?_
    refine State.setF_kept ?_
    refine State.setF_kept ?_
    exact h16

theorem State.record7_kept {a s y1 y2 y3 y4 y5 y6 y7} (h : Kept a s) : Kept a (State.record7 s y1 y2 y3 y4 y5 y6 y7) := by
  unfold State.record7
  refine State.daleRecord_kept ?_
  exact h

theorem State.noteGates_kept {a s} (h : Kept a s) : Kept a (State.noteGates s) := by
  unfold State.noteGates
  refine State.setGateLog_kept ?_
  exact h

end Sys2Proof.Machine
end

