-- ==== Sys2Proof/Laws/State.lean ====
section
/-! SUPPORT. One lemma per setter of the state: the field it sets, and every field it leaves alone. -/

namespace Sys2Proof.Machine

open Sys2Proof

@[simp] theorem State.setPending_fields (s : State) (v : List Instr) :
    (s.setPending v).pending = v ∧ (s.setPending v).mt = s.mt ∧ (s.setPending v).cw = s.cw ∧ (s.setPending v).mem = s.mem ∧
    (s.setPending v).eccs = s.eccs ∧ (s.setPending v).net = s.net ∧ (s.setPending v).seqs = s.seqs ∧ (s.setPending v).lines = s.lines ∧
    (s.setPending v).freeCtr = s.freeCtr ∧ (s.setPending v).queues = s.queues ∧ (s.setPending v).tb = s.tb ∧ (s.setPending v).hts = s.hts ∧
    (s.setPending v).cols = s.cols ∧ (s.setPending v).basin = s.basin ∧ (s.setPending v).dale = s.dale ∧ (s.setPending v).held = s.held ∧
    (s.setPending v).scrub = s.scrub ∧ (s.setPending v).fanout = s.fanout ∧ (s.setPending v).passed = s.passed ∧
    (s.setPending v).cores = s.cores ∧ (s.setPending v).pgs = s.pgs ∧ (s.setPending v).sets = s.sets ∧ (s.setPending v).maps = s.maps ∧
    (s.setPending v).stares = s.stares ∧ (s.setPending v).loops = s.loops ∧ (s.setPending v).gateLog = s.gateLog ∧
    (s.setPending v).scs = s.scs ∧ (s.setPending v).encs = s.encs ∧ (s.setPending v).halls = s.halls ∧ (s.setPending v).probes = s.probes ∧
    (s.setPending v).emus = s.emus ∧ (s.setPending v).slots = s.slots ∧ (s.setPending v).csiSkip = s.csiSkip ∧
    (s.setPending v).pipesOff = s.pipesOff ∧ (s.setPending v).taps = s.taps ∧ (s.setPending v).i2cs = s.i2cs ∧
    (s.setPending v).auxs = s.auxs ∧ (s.setPending v).auxMoves = s.auxMoves ∧ (s.setPending v).auxStops = s.auxStops ∧
    (s.setPending v).auxNext = s.auxNext ∧ (s.setPending v).lanes = s.lanes ∧ (s.setPending v).links = s.links ∧
    (s.setPending v).keySlots = s.keySlots ∧ (s.setPending v).wins = s.wins ∧ (s.setPending v).ups = s.ups ∧ (s.setPending v).ptp = s.ptp ∧
    (s.setPending v).host = s.host ∧ (s.setPending v).dramBanks = s.dramBanks ∧ (s.setPending v).dramRanks = s.dramRanks ∧
    (s.setPending v).dramChans = s.dramChans ∧ (s.setPending v).raaimt = s.raaimt ∧ (s.setPending v).raammt = s.raammt ∧
    (s.setPending v).gorge = s.gorge ∧ (s.setPending v).gorgeSaves = s.gorgeSaves ∧ (s.setPending v).holds = s.holds ∧
    (s.setPending v).wake = s.wake ∧ (s.setPending v).vault = s.vault ∧ (s.setPending v).house = s.house ∧ (s.setPending v).flash = s.flash ∧
    (s.setPending v).keyHashes = s.keyHashes ∧ (s.setPending v).boot = s.boot :=
  ⟨rfl, rfl, rfl, rfl, rfl, rfl, rfl, rfl, rfl, rfl, rfl, rfl, rfl, rfl, rfl, rfl, rfl, rfl, rfl, rfl, rfl, rfl, rfl, rfl, rfl, rfl, rfl,
   rfl, rfl, rfl, rfl, rfl, rfl, rfl, rfl, rfl, rfl, rfl, rfl, rfl, rfl, rfl, rfl, rfl, rfl, rfl, rfl, rfl, rfl, rfl, rfl, rfl, rfl, rfl,
   rfl, rfl, rfl, rfl, rfl, rfl, rfl⟩

@[simp] theorem State.setMt_fields (s : State) (v : Nat) :
    (s.setMt v).mt = v ∧ (s.setMt v).pending = s.pending ∧ (s.setMt v).cw = s.cw ∧ (s.setMt v).mem = s.mem ∧ (s.setMt v).eccs = s.eccs ∧
    (s.setMt v).net = s.net ∧ (s.setMt v).seqs = s.seqs ∧ (s.setMt v).lines = s.lines ∧ (s.setMt v).freeCtr = s.freeCtr ∧
    (s.setMt v).queues = s.queues ∧ (s.setMt v).tb = s.tb ∧ (s.setMt v).hts = s.hts ∧ (s.setMt v).cols = s.cols ∧
    (s.setMt v).basin = s.basin ∧ (s.setMt v).dale = s.dale ∧ (s.setMt v).held = s.held ∧ (s.setMt v).scrub = s.scrub ∧
    (s.setMt v).fanout = s.fanout ∧ (s.setMt v).passed = s.passed ∧ (s.setMt v).cores = s.cores ∧ (s.setMt v).pgs = s.pgs ∧
    (s.setMt v).sets = s.sets ∧ (s.setMt v).maps = s.maps ∧ (s.setMt v).stares = s.stares ∧ (s.setMt v).loops = s.loops ∧
    (s.setMt v).gateLog = s.gateLog ∧ (s.setMt v).scs = s.scs ∧ (s.setMt v).encs = s.encs ∧ (s.setMt v).halls = s.halls ∧
    (s.setMt v).probes = s.probes ∧ (s.setMt v).emus = s.emus ∧ (s.setMt v).slots = s.slots ∧ (s.setMt v).csiSkip = s.csiSkip ∧
    (s.setMt v).pipesOff = s.pipesOff ∧ (s.setMt v).taps = s.taps ∧ (s.setMt v).i2cs = s.i2cs ∧ (s.setMt v).auxs = s.auxs ∧
    (s.setMt v).auxMoves = s.auxMoves ∧ (s.setMt v).auxStops = s.auxStops ∧ (s.setMt v).auxNext = s.auxNext ∧ (s.setMt v).lanes = s.lanes ∧
    (s.setMt v).links = s.links ∧ (s.setMt v).keySlots = s.keySlots ∧ (s.setMt v).wins = s.wins ∧ (s.setMt v).ups = s.ups ∧
    (s.setMt v).ptp = s.ptp ∧ (s.setMt v).host = s.host ∧ (s.setMt v).dramBanks = s.dramBanks ∧ (s.setMt v).dramRanks = s.dramRanks ∧
    (s.setMt v).dramChans = s.dramChans ∧ (s.setMt v).raaimt = s.raaimt ∧ (s.setMt v).raammt = s.raammt ∧ (s.setMt v).gorge = s.gorge ∧
    (s.setMt v).gorgeSaves = s.gorgeSaves ∧ (s.setMt v).holds = s.holds ∧ (s.setMt v).wake = s.wake ∧ (s.setMt v).vault = s.vault ∧
    (s.setMt v).house = s.house ∧ (s.setMt v).flash = s.flash ∧ (s.setMt v).keyHashes = s.keyHashes ∧ (s.setMt v).boot = s.boot :=
  ⟨rfl, rfl, rfl, rfl, rfl, rfl, rfl, rfl, rfl, rfl, rfl, rfl, rfl, rfl, rfl, rfl, rfl, rfl, rfl, rfl, rfl, rfl, rfl, rfl, rfl, rfl, rfl,
   rfl, rfl, rfl, rfl, rfl, rfl, rfl, rfl, rfl, rfl, rfl, rfl, rfl, rfl, rfl, rfl, rfl, rfl, rfl, rfl, rfl, rfl, rfl, rfl, rfl, rfl, rfl,
   rfl, rfl, rfl, rfl, rfl, rfl, rfl⟩

@[simp] theorem State.setCw_fields (s : State) (v : List (Nat × Word)) :
    (s.setCw v).cw = v ∧ (s.setCw v).pending = s.pending ∧ (s.setCw v).mt = s.mt ∧ (s.setCw v).mem = s.mem ∧ (s.setCw v).eccs = s.eccs ∧
    (s.setCw v).net = s.net ∧ (s.setCw v).seqs = s.seqs ∧ (s.setCw v).lines = s.lines ∧ (s.setCw v).freeCtr = s.freeCtr ∧
    (s.setCw v).queues = s.queues ∧ (s.setCw v).tb = s.tb ∧ (s.setCw v).hts = s.hts ∧ (s.setCw v).cols = s.cols ∧
    (s.setCw v).basin = s.basin ∧ (s.setCw v).dale = s.dale ∧ (s.setCw v).held = s.held ∧ (s.setCw v).scrub = s.scrub ∧
    (s.setCw v).fanout = s.fanout ∧ (s.setCw v).passed = s.passed ∧ (s.setCw v).cores = s.cores ∧ (s.setCw v).pgs = s.pgs ∧
    (s.setCw v).sets = s.sets ∧ (s.setCw v).maps = s.maps ∧ (s.setCw v).stares = s.stares ∧ (s.setCw v).loops = s.loops ∧
    (s.setCw v).gateLog = s.gateLog ∧ (s.setCw v).scs = s.scs ∧ (s.setCw v).encs = s.encs ∧ (s.setCw v).halls = s.halls ∧
    (s.setCw v).probes = s.probes ∧ (s.setCw v).emus = s.emus ∧ (s.setCw v).slots = s.slots ∧ (s.setCw v).csiSkip = s.csiSkip ∧
    (s.setCw v).pipesOff = s.pipesOff ∧ (s.setCw v).taps = s.taps ∧ (s.setCw v).i2cs = s.i2cs ∧ (s.setCw v).auxs = s.auxs ∧
    (s.setCw v).auxMoves = s.auxMoves ∧ (s.setCw v).auxStops = s.auxStops ∧ (s.setCw v).auxNext = s.auxNext ∧ (s.setCw v).lanes = s.lanes ∧
    (s.setCw v).links = s.links ∧ (s.setCw v).keySlots = s.keySlots ∧ (s.setCw v).wins = s.wins ∧ (s.setCw v).ups = s.ups ∧
    (s.setCw v).ptp = s.ptp ∧ (s.setCw v).host = s.host ∧ (s.setCw v).dramBanks = s.dramBanks ∧ (s.setCw v).dramRanks = s.dramRanks ∧
    (s.setCw v).dramChans = s.dramChans ∧ (s.setCw v).raaimt = s.raaimt ∧ (s.setCw v).raammt = s.raammt ∧ (s.setCw v).gorge = s.gorge ∧
    (s.setCw v).gorgeSaves = s.gorgeSaves ∧ (s.setCw v).holds = s.holds ∧ (s.setCw v).wake = s.wake ∧ (s.setCw v).vault = s.vault ∧
    (s.setCw v).house = s.house ∧ (s.setCw v).flash = s.flash ∧ (s.setCw v).keyHashes = s.keyHashes ∧ (s.setCw v).boot = s.boot :=
  ⟨rfl, rfl, rfl, rfl, rfl, rfl, rfl, rfl, rfl, rfl, rfl, rfl, rfl, rfl, rfl, rfl, rfl, rfl, rfl, rfl, rfl, rfl, rfl, rfl, rfl, rfl, rfl,
   rfl, rfl, rfl, rfl, rfl, rfl, rfl, rfl, rfl, rfl, rfl, rfl, rfl, rfl, rfl, rfl, rfl, rfl, rfl, rfl, rfl, rfl, rfl, rfl, rfl, rfl, rfl,
   rfl, rfl, rfl, rfl, rfl, rfl, rfl⟩

@[simp] theorem State.setMem_fields (s : State) (v : List Host.Cell) :
    (s.setMem v).mem = v ∧ (s.setMem v).pending = s.pending ∧ (s.setMem v).mt = s.mt ∧ (s.setMem v).cw = s.cw ∧ (s.setMem v).eccs = s.eccs ∧
    (s.setMem v).net = s.net ∧ (s.setMem v).seqs = s.seqs ∧ (s.setMem v).lines = s.lines ∧ (s.setMem v).freeCtr = s.freeCtr ∧
    (s.setMem v).queues = s.queues ∧ (s.setMem v).tb = s.tb ∧ (s.setMem v).hts = s.hts ∧ (s.setMem v).cols = s.cols ∧
    (s.setMem v).basin = s.basin ∧ (s.setMem v).dale = s.dale ∧ (s.setMem v).held = s.held ∧ (s.setMem v).scrub = s.scrub ∧
    (s.setMem v).fanout = s.fanout ∧ (s.setMem v).passed = s.passed ∧ (s.setMem v).cores = s.cores ∧ (s.setMem v).pgs = s.pgs ∧
    (s.setMem v).sets = s.sets ∧ (s.setMem v).maps = s.maps ∧ (s.setMem v).stares = s.stares ∧ (s.setMem v).loops = s.loops ∧
    (s.setMem v).gateLog = s.gateLog ∧ (s.setMem v).scs = s.scs ∧ (s.setMem v).encs = s.encs ∧ (s.setMem v).halls = s.halls ∧
    (s.setMem v).probes = s.probes ∧ (s.setMem v).emus = s.emus ∧ (s.setMem v).slots = s.slots ∧ (s.setMem v).csiSkip = s.csiSkip ∧
    (s.setMem v).pipesOff = s.pipesOff ∧ (s.setMem v).taps = s.taps ∧ (s.setMem v).i2cs = s.i2cs ∧ (s.setMem v).auxs = s.auxs ∧
    (s.setMem v).auxMoves = s.auxMoves ∧ (s.setMem v).auxStops = s.auxStops ∧ (s.setMem v).auxNext = s.auxNext ∧
    (s.setMem v).lanes = s.lanes ∧ (s.setMem v).links = s.links ∧ (s.setMem v).keySlots = s.keySlots ∧ (s.setMem v).wins = s.wins ∧
    (s.setMem v).ups = s.ups ∧ (s.setMem v).ptp = s.ptp ∧ (s.setMem v).host = s.host ∧ (s.setMem v).dramBanks = s.dramBanks ∧
    (s.setMem v).dramRanks = s.dramRanks ∧ (s.setMem v).dramChans = s.dramChans ∧ (s.setMem v).raaimt = s.raaimt ∧
    (s.setMem v).raammt = s.raammt ∧ (s.setMem v).gorge = s.gorge ∧ (s.setMem v).gorgeSaves = s.gorgeSaves ∧ (s.setMem v).holds = s.holds ∧
    (s.setMem v).wake = s.wake ∧ (s.setMem v).vault = s.vault ∧ (s.setMem v).house = s.house ∧ (s.setMem v).flash = s.flash ∧
    (s.setMem v).keyHashes = s.keyHashes ∧ (s.setMem v).boot = s.boot :=
  ⟨rfl, rfl, rfl, rfl, rfl, rfl, rfl, rfl, rfl, rfl, rfl, rfl, rfl, rfl, rfl, rfl, rfl, rfl, rfl, rfl, rfl, rfl, rfl, rfl, rfl, rfl, rfl,
   rfl, rfl, rfl, rfl, rfl, rfl, rfl, rfl, rfl, rfl, rfl, rfl, rfl, rfl, rfl, rfl, rfl, rfl, rfl, rfl, rfl, rfl, rfl, rfl, rfl, rfl, rfl,
   rfl, rfl, rfl, rfl, rfl, rfl, rfl⟩

@[simp] theorem State.setEccs_fields (s : State) (v : List (Nat × Option EccMark)) :
    (s.setEccs v).eccs = v ∧ (s.setEccs v).pending = s.pending ∧ (s.setEccs v).mt = s.mt ∧ (s.setEccs v).cw = s.cw ∧
    (s.setEccs v).mem = s.mem ∧ (s.setEccs v).net = s.net ∧ (s.setEccs v).seqs = s.seqs ∧ (s.setEccs v).lines = s.lines ∧
    (s.setEccs v).freeCtr = s.freeCtr ∧ (s.setEccs v).queues = s.queues ∧ (s.setEccs v).tb = s.tb ∧ (s.setEccs v).hts = s.hts ∧
    (s.setEccs v).cols = s.cols ∧ (s.setEccs v).basin = s.basin ∧ (s.setEccs v).dale = s.dale ∧ (s.setEccs v).held = s.held ∧
    (s.setEccs v).scrub = s.scrub ∧ (s.setEccs v).fanout = s.fanout ∧ (s.setEccs v).passed = s.passed ∧ (s.setEccs v).cores = s.cores ∧
    (s.setEccs v).pgs = s.pgs ∧ (s.setEccs v).sets = s.sets ∧ (s.setEccs v).maps = s.maps ∧ (s.setEccs v).stares = s.stares ∧
    (s.setEccs v).loops = s.loops ∧ (s.setEccs v).gateLog = s.gateLog ∧ (s.setEccs v).scs = s.scs ∧ (s.setEccs v).encs = s.encs ∧
    (s.setEccs v).halls = s.halls ∧ (s.setEccs v).probes = s.probes ∧ (s.setEccs v).emus = s.emus ∧ (s.setEccs v).slots = s.slots ∧
    (s.setEccs v).csiSkip = s.csiSkip ∧ (s.setEccs v).pipesOff = s.pipesOff ∧ (s.setEccs v).taps = s.taps ∧ (s.setEccs v).i2cs = s.i2cs ∧
    (s.setEccs v).auxs = s.auxs ∧ (s.setEccs v).auxMoves = s.auxMoves ∧ (s.setEccs v).auxStops = s.auxStops ∧
    (s.setEccs v).auxNext = s.auxNext ∧ (s.setEccs v).lanes = s.lanes ∧ (s.setEccs v).links = s.links ∧ (s.setEccs v).keySlots = s.keySlots ∧
    (s.setEccs v).wins = s.wins ∧ (s.setEccs v).ups = s.ups ∧ (s.setEccs v).ptp = s.ptp ∧ (s.setEccs v).host = s.host ∧
    (s.setEccs v).dramBanks = s.dramBanks ∧ (s.setEccs v).dramRanks = s.dramRanks ∧ (s.setEccs v).dramChans = s.dramChans ∧
    (s.setEccs v).raaimt = s.raaimt ∧ (s.setEccs v).raammt = s.raammt ∧ (s.setEccs v).gorge = s.gorge ∧
    (s.setEccs v).gorgeSaves = s.gorgeSaves ∧ (s.setEccs v).holds = s.holds ∧ (s.setEccs v).wake = s.wake ∧ (s.setEccs v).vault = s.vault ∧
    (s.setEccs v).house = s.house ∧ (s.setEccs v).flash = s.flash ∧ (s.setEccs v).keyHashes = s.keyHashes ∧ (s.setEccs v).boot = s.boot :=
  ⟨rfl, rfl, rfl, rfl, rfl, rfl, rfl, rfl, rfl, rfl, rfl, rfl, rfl, rfl, rfl, rfl, rfl, rfl, rfl, rfl, rfl, rfl, rfl, rfl, rfl, rfl, rfl,
   rfl, rfl, rfl, rfl, rfl, rfl, rfl, rfl, rfl, rfl, rfl, rfl, rfl, rfl, rfl, rfl, rfl, rfl, rfl, rfl, rfl, rfl, rfl, rfl, rfl, rfl, rfl,
   rfl, rfl, rfl, rfl, rfl, rfl, rfl⟩

@[simp] theorem State.setNet_fields (s : State) (v : List Token) :
    (s.setNet v).net = v ∧ (s.setNet v).pending = s.pending ∧ (s.setNet v).mt = s.mt ∧ (s.setNet v).cw = s.cw ∧ (s.setNet v).mem = s.mem ∧
    (s.setNet v).eccs = s.eccs ∧ (s.setNet v).seqs = s.seqs ∧ (s.setNet v).lines = s.lines ∧ (s.setNet v).freeCtr = s.freeCtr ∧
    (s.setNet v).queues = s.queues ∧ (s.setNet v).tb = s.tb ∧ (s.setNet v).hts = s.hts ∧ (s.setNet v).cols = s.cols ∧
    (s.setNet v).basin = s.basin ∧ (s.setNet v).dale = s.dale ∧ (s.setNet v).held = s.held ∧ (s.setNet v).scrub = s.scrub ∧
    (s.setNet v).fanout = s.fanout ∧ (s.setNet v).passed = s.passed ∧ (s.setNet v).cores = s.cores ∧ (s.setNet v).pgs = s.pgs ∧
    (s.setNet v).sets = s.sets ∧ (s.setNet v).maps = s.maps ∧ (s.setNet v).stares = s.stares ∧ (s.setNet v).loops = s.loops ∧
    (s.setNet v).gateLog = s.gateLog ∧ (s.setNet v).scs = s.scs ∧ (s.setNet v).encs = s.encs ∧ (s.setNet v).halls = s.halls ∧
    (s.setNet v).probes = s.probes ∧ (s.setNet v).emus = s.emus ∧ (s.setNet v).slots = s.slots ∧ (s.setNet v).csiSkip = s.csiSkip ∧
    (s.setNet v).pipesOff = s.pipesOff ∧ (s.setNet v).taps = s.taps ∧ (s.setNet v).i2cs = s.i2cs ∧ (s.setNet v).auxs = s.auxs ∧
    (s.setNet v).auxMoves = s.auxMoves ∧ (s.setNet v).auxStops = s.auxStops ∧ (s.setNet v).auxNext = s.auxNext ∧
    (s.setNet v).lanes = s.lanes ∧ (s.setNet v).links = s.links ∧ (s.setNet v).keySlots = s.keySlots ∧ (s.setNet v).wins = s.wins ∧
    (s.setNet v).ups = s.ups ∧ (s.setNet v).ptp = s.ptp ∧ (s.setNet v).host = s.host ∧ (s.setNet v).dramBanks = s.dramBanks ∧
    (s.setNet v).dramRanks = s.dramRanks ∧ (s.setNet v).dramChans = s.dramChans ∧ (s.setNet v).raaimt = s.raaimt ∧
    (s.setNet v).raammt = s.raammt ∧ (s.setNet v).gorge = s.gorge ∧ (s.setNet v).gorgeSaves = s.gorgeSaves ∧ (s.setNet v).holds = s.holds ∧
    (s.setNet v).wake = s.wake ∧ (s.setNet v).vault = s.vault ∧ (s.setNet v).house = s.house ∧ (s.setNet v).flash = s.flash ∧
    (s.setNet v).keyHashes = s.keyHashes ∧ (s.setNet v).boot = s.boot :=
  ⟨rfl, rfl, rfl, rfl, rfl, rfl, rfl, rfl, rfl, rfl, rfl, rfl, rfl, rfl, rfl, rfl, rfl, rfl, rfl, rfl, rfl, rfl, rfl, rfl, rfl, rfl, rfl,
   rfl, rfl, rfl, rfl, rfl, rfl, rfl, rfl, rfl, rfl, rfl, rfl, rfl, rfl, rfl, rfl, rfl, rfl, rfl, rfl, rfl, rfl, rfl, rfl, rfl, rfl, rfl,
   rfl, rfl, rfl, rfl, rfl, rfl, rfl⟩

@[simp] theorem State.setSeqs_fields (s : State) (v : List (Nat × Nat)) :
    (s.setSeqs v).seqs = v ∧ (s.setSeqs v).pending = s.pending ∧ (s.setSeqs v).mt = s.mt ∧ (s.setSeqs v).cw = s.cw ∧
    (s.setSeqs v).mem = s.mem ∧ (s.setSeqs v).eccs = s.eccs ∧ (s.setSeqs v).net = s.net ∧ (s.setSeqs v).lines = s.lines ∧
    (s.setSeqs v).freeCtr = s.freeCtr ∧ (s.setSeqs v).queues = s.queues ∧ (s.setSeqs v).tb = s.tb ∧ (s.setSeqs v).hts = s.hts ∧
    (s.setSeqs v).cols = s.cols ∧ (s.setSeqs v).basin = s.basin ∧ (s.setSeqs v).dale = s.dale ∧ (s.setSeqs v).held = s.held ∧
    (s.setSeqs v).scrub = s.scrub ∧ (s.setSeqs v).fanout = s.fanout ∧ (s.setSeqs v).passed = s.passed ∧ (s.setSeqs v).cores = s.cores ∧
    (s.setSeqs v).pgs = s.pgs ∧ (s.setSeqs v).sets = s.sets ∧ (s.setSeqs v).maps = s.maps ∧ (s.setSeqs v).stares = s.stares ∧
    (s.setSeqs v).loops = s.loops ∧ (s.setSeqs v).gateLog = s.gateLog ∧ (s.setSeqs v).scs = s.scs ∧ (s.setSeqs v).encs = s.encs ∧
    (s.setSeqs v).halls = s.halls ∧ (s.setSeqs v).probes = s.probes ∧ (s.setSeqs v).emus = s.emus ∧ (s.setSeqs v).slots = s.slots ∧
    (s.setSeqs v).csiSkip = s.csiSkip ∧ (s.setSeqs v).pipesOff = s.pipesOff ∧ (s.setSeqs v).taps = s.taps ∧ (s.setSeqs v).i2cs = s.i2cs ∧
    (s.setSeqs v).auxs = s.auxs ∧ (s.setSeqs v).auxMoves = s.auxMoves ∧ (s.setSeqs v).auxStops = s.auxStops ∧
    (s.setSeqs v).auxNext = s.auxNext ∧ (s.setSeqs v).lanes = s.lanes ∧ (s.setSeqs v).links = s.links ∧ (s.setSeqs v).keySlots = s.keySlots ∧
    (s.setSeqs v).wins = s.wins ∧ (s.setSeqs v).ups = s.ups ∧ (s.setSeqs v).ptp = s.ptp ∧ (s.setSeqs v).host = s.host ∧
    (s.setSeqs v).dramBanks = s.dramBanks ∧ (s.setSeqs v).dramRanks = s.dramRanks ∧ (s.setSeqs v).dramChans = s.dramChans ∧
    (s.setSeqs v).raaimt = s.raaimt ∧ (s.setSeqs v).raammt = s.raammt ∧ (s.setSeqs v).gorge = s.gorge ∧
    (s.setSeqs v).gorgeSaves = s.gorgeSaves ∧ (s.setSeqs v).holds = s.holds ∧ (s.setSeqs v).wake = s.wake ∧ (s.setSeqs v).vault = s.vault ∧
    (s.setSeqs v).house = s.house ∧ (s.setSeqs v).flash = s.flash ∧ (s.setSeqs v).keyHashes = s.keyHashes ∧ (s.setSeqs v).boot = s.boot :=
  ⟨rfl, rfl, rfl, rfl, rfl, rfl, rfl, rfl, rfl, rfl, rfl, rfl, rfl, rfl, rfl, rfl, rfl, rfl, rfl, rfl, rfl, rfl, rfl, rfl, rfl, rfl, rfl,
   rfl, rfl, rfl, rfl, rfl, rfl, rfl, rfl, rfl, rfl, rfl, rfl, rfl, rfl, rfl, rfl, rfl, rfl, rfl, rfl, rfl, rfl, rfl, rfl, rfl, rfl, rfl,
   rfl, rfl, rfl, rfl, rfl, rfl, rfl⟩

@[simp] theorem State.setLines_fields (s : State) (v : List Raise) :
    (s.setLines v).lines = v ∧ (s.setLines v).pending = s.pending ∧ (s.setLines v).mt = s.mt ∧ (s.setLines v).cw = s.cw ∧
    (s.setLines v).mem = s.mem ∧ (s.setLines v).eccs = s.eccs ∧ (s.setLines v).net = s.net ∧ (s.setLines v).seqs = s.seqs ∧
    (s.setLines v).freeCtr = s.freeCtr ∧ (s.setLines v).queues = s.queues ∧ (s.setLines v).tb = s.tb ∧ (s.setLines v).hts = s.hts ∧
    (s.setLines v).cols = s.cols ∧ (s.setLines v).basin = s.basin ∧ (s.setLines v).dale = s.dale ∧ (s.setLines v).held = s.held ∧
    (s.setLines v).scrub = s.scrub ∧ (s.setLines v).fanout = s.fanout ∧ (s.setLines v).passed = s.passed ∧ (s.setLines v).cores = s.cores ∧
    (s.setLines v).pgs = s.pgs ∧ (s.setLines v).sets = s.sets ∧ (s.setLines v).maps = s.maps ∧ (s.setLines v).stares = s.stares ∧
    (s.setLines v).loops = s.loops ∧ (s.setLines v).gateLog = s.gateLog ∧ (s.setLines v).scs = s.scs ∧ (s.setLines v).encs = s.encs ∧
    (s.setLines v).halls = s.halls ∧ (s.setLines v).probes = s.probes ∧ (s.setLines v).emus = s.emus ∧ (s.setLines v).slots = s.slots ∧
    (s.setLines v).csiSkip = s.csiSkip ∧ (s.setLines v).pipesOff = s.pipesOff ∧ (s.setLines v).taps = s.taps ∧ (s.setLines v).i2cs = s.i2cs ∧
    (s.setLines v).auxs = s.auxs ∧ (s.setLines v).auxMoves = s.auxMoves ∧ (s.setLines v).auxStops = s.auxStops ∧
    (s.setLines v).auxNext = s.auxNext ∧ (s.setLines v).lanes = s.lanes ∧ (s.setLines v).links = s.links ∧
    (s.setLines v).keySlots = s.keySlots ∧ (s.setLines v).wins = s.wins ∧ (s.setLines v).ups = s.ups ∧ (s.setLines v).ptp = s.ptp ∧
    (s.setLines v).host = s.host ∧ (s.setLines v).dramBanks = s.dramBanks ∧ (s.setLines v).dramRanks = s.dramRanks ∧
    (s.setLines v).dramChans = s.dramChans ∧ (s.setLines v).raaimt = s.raaimt ∧ (s.setLines v).raammt = s.raammt ∧
    (s.setLines v).gorge = s.gorge ∧ (s.setLines v).gorgeSaves = s.gorgeSaves ∧ (s.setLines v).holds = s.holds ∧
    (s.setLines v).wake = s.wake ∧ (s.setLines v).vault = s.vault ∧ (s.setLines v).house = s.house ∧ (s.setLines v).flash = s.flash ∧
    (s.setLines v).keyHashes = s.keyHashes ∧ (s.setLines v).boot = s.boot :=
  ⟨rfl, rfl, rfl, rfl, rfl, rfl, rfl, rfl, rfl, rfl, rfl, rfl, rfl, rfl, rfl, rfl, rfl, rfl, rfl, rfl, rfl, rfl, rfl, rfl, rfl, rfl, rfl,
   rfl, rfl, rfl, rfl, rfl, rfl, rfl, rfl, rfl, rfl, rfl, rfl, rfl, rfl, rfl, rfl, rfl, rfl, rfl, rfl, rfl, rfl, rfl, rfl, rfl, rfl, rfl,
   rfl, rfl, rfl, rfl, rfl, rfl, rfl⟩

@[simp] theorem State.setFreeCtr_fields (s : State) (v : Nat) :
    (s.setFreeCtr v).freeCtr = v ∧ (s.setFreeCtr v).pending = s.pending ∧ (s.setFreeCtr v).mt = s.mt ∧ (s.setFreeCtr v).cw = s.cw ∧
    (s.setFreeCtr v).mem = s.mem ∧ (s.setFreeCtr v).eccs = s.eccs ∧ (s.setFreeCtr v).net = s.net ∧ (s.setFreeCtr v).seqs = s.seqs ∧
    (s.setFreeCtr v).lines = s.lines ∧ (s.setFreeCtr v).queues = s.queues ∧ (s.setFreeCtr v).tb = s.tb ∧ (s.setFreeCtr v).hts = s.hts ∧
    (s.setFreeCtr v).cols = s.cols ∧ (s.setFreeCtr v).basin = s.basin ∧ (s.setFreeCtr v).dale = s.dale ∧ (s.setFreeCtr v).held = s.held ∧
    (s.setFreeCtr v).scrub = s.scrub ∧ (s.setFreeCtr v).fanout = s.fanout ∧ (s.setFreeCtr v).passed = s.passed ∧
    (s.setFreeCtr v).cores = s.cores ∧ (s.setFreeCtr v).pgs = s.pgs ∧ (s.setFreeCtr v).sets = s.sets ∧ (s.setFreeCtr v).maps = s.maps ∧
    (s.setFreeCtr v).stares = s.stares ∧ (s.setFreeCtr v).loops = s.loops ∧ (s.setFreeCtr v).gateLog = s.gateLog ∧
    (s.setFreeCtr v).scs = s.scs ∧ (s.setFreeCtr v).encs = s.encs ∧ (s.setFreeCtr v).halls = s.halls ∧ (s.setFreeCtr v).probes = s.probes ∧
    (s.setFreeCtr v).emus = s.emus ∧ (s.setFreeCtr v).slots = s.slots ∧ (s.setFreeCtr v).csiSkip = s.csiSkip ∧
    (s.setFreeCtr v).pipesOff = s.pipesOff ∧ (s.setFreeCtr v).taps = s.taps ∧ (s.setFreeCtr v).i2cs = s.i2cs ∧
    (s.setFreeCtr v).auxs = s.auxs ∧ (s.setFreeCtr v).auxMoves = s.auxMoves ∧ (s.setFreeCtr v).auxStops = s.auxStops ∧
    (s.setFreeCtr v).auxNext = s.auxNext ∧ (s.setFreeCtr v).lanes = s.lanes ∧ (s.setFreeCtr v).links = s.links ∧
    (s.setFreeCtr v).keySlots = s.keySlots ∧ (s.setFreeCtr v).wins = s.wins ∧ (s.setFreeCtr v).ups = s.ups ∧ (s.setFreeCtr v).ptp = s.ptp ∧
    (s.setFreeCtr v).host = s.host ∧ (s.setFreeCtr v).dramBanks = s.dramBanks ∧ (s.setFreeCtr v).dramRanks = s.dramRanks ∧
    (s.setFreeCtr v).dramChans = s.dramChans ∧ (s.setFreeCtr v).raaimt = s.raaimt ∧ (s.setFreeCtr v).raammt = s.raammt ∧
    (s.setFreeCtr v).gorge = s.gorge ∧ (s.setFreeCtr v).gorgeSaves = s.gorgeSaves ∧ (s.setFreeCtr v).holds = s.holds ∧
    (s.setFreeCtr v).wake = s.wake ∧ (s.setFreeCtr v).vault = s.vault ∧ (s.setFreeCtr v).house = s.house ∧ (s.setFreeCtr v).flash = s.flash ∧
    (s.setFreeCtr v).keyHashes = s.keyHashes ∧ (s.setFreeCtr v).boot = s.boot :=
  ⟨rfl, rfl, rfl, rfl, rfl, rfl, rfl, rfl, rfl, rfl, rfl, rfl, rfl, rfl, rfl, rfl, rfl, rfl, rfl, rfl, rfl, rfl, rfl, rfl, rfl, rfl, rfl,
   rfl, rfl, rfl, rfl, rfl, rfl, rfl, rfl, rfl, rfl, rfl, rfl, rfl, rfl, rfl, rfl, rfl, rfl, rfl, rfl, rfl, rfl, rfl, rfl, rfl, rfl, rfl,
   rfl, rfl, rfl, rfl, rfl, rfl, rfl⟩

@[simp] theorem State.setQueues_fields (s : State) (v : List (Nat × QueueSt)) :
    (s.setQueues v).queues = v ∧ (s.setQueues v).pending = s.pending ∧ (s.setQueues v).mt = s.mt ∧ (s.setQueues v).cw = s.cw ∧
    (s.setQueues v).mem = s.mem ∧ (s.setQueues v).eccs = s.eccs ∧ (s.setQueues v).net = s.net ∧ (s.setQueues v).seqs = s.seqs ∧
    (s.setQueues v).lines = s.lines ∧ (s.setQueues v).freeCtr = s.freeCtr ∧ (s.setQueues v).tb = s.tb ∧ (s.setQueues v).hts = s.hts ∧
    (s.setQueues v).cols = s.cols ∧ (s.setQueues v).basin = s.basin ∧ (s.setQueues v).dale = s.dale ∧ (s.setQueues v).held = s.held ∧
    (s.setQueues v).scrub = s.scrub ∧ (s.setQueues v).fanout = s.fanout ∧ (s.setQueues v).passed = s.passed ∧
    (s.setQueues v).cores = s.cores ∧ (s.setQueues v).pgs = s.pgs ∧ (s.setQueues v).sets = s.sets ∧ (s.setQueues v).maps = s.maps ∧
    (s.setQueues v).stares = s.stares ∧ (s.setQueues v).loops = s.loops ∧ (s.setQueues v).gateLog = s.gateLog ∧ (s.setQueues v).scs = s.scs ∧
    (s.setQueues v).encs = s.encs ∧ (s.setQueues v).halls = s.halls ∧ (s.setQueues v).probes = s.probes ∧ (s.setQueues v).emus = s.emus ∧
    (s.setQueues v).slots = s.slots ∧ (s.setQueues v).csiSkip = s.csiSkip ∧ (s.setQueues v).pipesOff = s.pipesOff ∧
    (s.setQueues v).taps = s.taps ∧ (s.setQueues v).i2cs = s.i2cs ∧ (s.setQueues v).auxs = s.auxs ∧ (s.setQueues v).auxMoves = s.auxMoves ∧
    (s.setQueues v).auxStops = s.auxStops ∧ (s.setQueues v).auxNext = s.auxNext ∧ (s.setQueues v).lanes = s.lanes ∧
    (s.setQueues v).links = s.links ∧ (s.setQueues v).keySlots = s.keySlots ∧ (s.setQueues v).wins = s.wins ∧ (s.setQueues v).ups = s.ups ∧
    (s.setQueues v).ptp = s.ptp ∧ (s.setQueues v).host = s.host ∧ (s.setQueues v).dramBanks = s.dramBanks ∧
    (s.setQueues v).dramRanks = s.dramRanks ∧ (s.setQueues v).dramChans = s.dramChans ∧ (s.setQueues v).raaimt = s.raaimt ∧
    (s.setQueues v).raammt = s.raammt ∧ (s.setQueues v).gorge = s.gorge ∧ (s.setQueues v).gorgeSaves = s.gorgeSaves ∧
    (s.setQueues v).holds = s.holds ∧ (s.setQueues v).wake = s.wake ∧ (s.setQueues v).vault = s.vault ∧ (s.setQueues v).house = s.house ∧
    (s.setQueues v).flash = s.flash ∧ (s.setQueues v).keyHashes = s.keyHashes ∧ (s.setQueues v).boot = s.boot :=
  ⟨rfl, rfl, rfl, rfl, rfl, rfl, rfl, rfl, rfl, rfl, rfl, rfl, rfl, rfl, rfl, rfl, rfl, rfl, rfl, rfl, rfl, rfl, rfl, rfl, rfl, rfl, rfl,
   rfl, rfl, rfl, rfl, rfl, rfl, rfl, rfl, rfl, rfl, rfl, rfl, rfl, rfl, rfl, rfl, rfl, rfl, rfl, rfl, rfl, rfl, rfl, rfl, rfl, rfl, rfl,
   rfl, rfl, rfl, rfl, rfl, rfl, rfl⟩

@[simp] theorem State.setTb_fields (s : State) (v : TimeBase) :
    (s.setTb v).tb = v ∧ (s.setTb v).pending = s.pending ∧ (s.setTb v).mt = s.mt ∧ (s.setTb v).cw = s.cw ∧ (s.setTb v).mem = s.mem ∧
    (s.setTb v).eccs = s.eccs ∧ (s.setTb v).net = s.net ∧ (s.setTb v).seqs = s.seqs ∧ (s.setTb v).lines = s.lines ∧
    (s.setTb v).freeCtr = s.freeCtr ∧ (s.setTb v).queues = s.queues ∧ (s.setTb v).hts = s.hts ∧ (s.setTb v).cols = s.cols ∧
    (s.setTb v).basin = s.basin ∧ (s.setTb v).dale = s.dale ∧ (s.setTb v).held = s.held ∧ (s.setTb v).scrub = s.scrub ∧
    (s.setTb v).fanout = s.fanout ∧ (s.setTb v).passed = s.passed ∧ (s.setTb v).cores = s.cores ∧ (s.setTb v).pgs = s.pgs ∧
    (s.setTb v).sets = s.sets ∧ (s.setTb v).maps = s.maps ∧ (s.setTb v).stares = s.stares ∧ (s.setTb v).loops = s.loops ∧
    (s.setTb v).gateLog = s.gateLog ∧ (s.setTb v).scs = s.scs ∧ (s.setTb v).encs = s.encs ∧ (s.setTb v).halls = s.halls ∧
    (s.setTb v).probes = s.probes ∧ (s.setTb v).emus = s.emus ∧ (s.setTb v).slots = s.slots ∧ (s.setTb v).csiSkip = s.csiSkip ∧
    (s.setTb v).pipesOff = s.pipesOff ∧ (s.setTb v).taps = s.taps ∧ (s.setTb v).i2cs = s.i2cs ∧ (s.setTb v).auxs = s.auxs ∧
    (s.setTb v).auxMoves = s.auxMoves ∧ (s.setTb v).auxStops = s.auxStops ∧ (s.setTb v).auxNext = s.auxNext ∧ (s.setTb v).lanes = s.lanes ∧
    (s.setTb v).links = s.links ∧ (s.setTb v).keySlots = s.keySlots ∧ (s.setTb v).wins = s.wins ∧ (s.setTb v).ups = s.ups ∧
    (s.setTb v).ptp = s.ptp ∧ (s.setTb v).host = s.host ∧ (s.setTb v).dramBanks = s.dramBanks ∧ (s.setTb v).dramRanks = s.dramRanks ∧
    (s.setTb v).dramChans = s.dramChans ∧ (s.setTb v).raaimt = s.raaimt ∧ (s.setTb v).raammt = s.raammt ∧ (s.setTb v).gorge = s.gorge ∧
    (s.setTb v).gorgeSaves = s.gorgeSaves ∧ (s.setTb v).holds = s.holds ∧ (s.setTb v).wake = s.wake ∧ (s.setTb v).vault = s.vault ∧
    (s.setTb v).house = s.house ∧ (s.setTb v).flash = s.flash ∧ (s.setTb v).keyHashes = s.keyHashes ∧ (s.setTb v).boot = s.boot :=
  ⟨rfl, rfl, rfl, rfl, rfl, rfl, rfl, rfl, rfl, rfl, rfl, rfl, rfl, rfl, rfl, rfl, rfl, rfl, rfl, rfl, rfl, rfl, rfl, rfl, rfl, rfl, rfl,
   rfl, rfl, rfl, rfl, rfl, rfl, rfl, rfl, rfl, rfl, rfl, rfl, rfl, rfl, rfl, rfl, rfl, rfl, rfl, rfl, rfl, rfl, rfl, rfl, rfl, rfl, rfl,
   rfl, rfl, rfl, rfl, rfl, rfl, rfl⟩

@[simp] theorem State.setHts_fields (s : State) (v : List (Nat × HeadTime)) :
    (s.setHts v).hts = v ∧ (s.setHts v).pending = s.pending ∧ (s.setHts v).mt = s.mt ∧ (s.setHts v).cw = s.cw ∧ (s.setHts v).mem = s.mem ∧
    (s.setHts v).eccs = s.eccs ∧ (s.setHts v).net = s.net ∧ (s.setHts v).seqs = s.seqs ∧ (s.setHts v).lines = s.lines ∧
    (s.setHts v).freeCtr = s.freeCtr ∧ (s.setHts v).queues = s.queues ∧ (s.setHts v).tb = s.tb ∧ (s.setHts v).cols = s.cols ∧
    (s.setHts v).basin = s.basin ∧ (s.setHts v).dale = s.dale ∧ (s.setHts v).held = s.held ∧ (s.setHts v).scrub = s.scrub ∧
    (s.setHts v).fanout = s.fanout ∧ (s.setHts v).passed = s.passed ∧ (s.setHts v).cores = s.cores ∧ (s.setHts v).pgs = s.pgs ∧
    (s.setHts v).sets = s.sets ∧ (s.setHts v).maps = s.maps ∧ (s.setHts v).stares = s.stares ∧ (s.setHts v).loops = s.loops ∧
    (s.setHts v).gateLog = s.gateLog ∧ (s.setHts v).scs = s.scs ∧ (s.setHts v).encs = s.encs ∧ (s.setHts v).halls = s.halls ∧
    (s.setHts v).probes = s.probes ∧ (s.setHts v).emus = s.emus ∧ (s.setHts v).slots = s.slots ∧ (s.setHts v).csiSkip = s.csiSkip ∧
    (s.setHts v).pipesOff = s.pipesOff ∧ (s.setHts v).taps = s.taps ∧ (s.setHts v).i2cs = s.i2cs ∧ (s.setHts v).auxs = s.auxs ∧
    (s.setHts v).auxMoves = s.auxMoves ∧ (s.setHts v).auxStops = s.auxStops ∧ (s.setHts v).auxNext = s.auxNext ∧
    (s.setHts v).lanes = s.lanes ∧ (s.setHts v).links = s.links ∧ (s.setHts v).keySlots = s.keySlots ∧ (s.setHts v).wins = s.wins ∧
    (s.setHts v).ups = s.ups ∧ (s.setHts v).ptp = s.ptp ∧ (s.setHts v).host = s.host ∧ (s.setHts v).dramBanks = s.dramBanks ∧
    (s.setHts v).dramRanks = s.dramRanks ∧ (s.setHts v).dramChans = s.dramChans ∧ (s.setHts v).raaimt = s.raaimt ∧
    (s.setHts v).raammt = s.raammt ∧ (s.setHts v).gorge = s.gorge ∧ (s.setHts v).gorgeSaves = s.gorgeSaves ∧ (s.setHts v).holds = s.holds ∧
    (s.setHts v).wake = s.wake ∧ (s.setHts v).vault = s.vault ∧ (s.setHts v).house = s.house ∧ (s.setHts v).flash = s.flash ∧
    (s.setHts v).keyHashes = s.keyHashes ∧ (s.setHts v).boot = s.boot :=
  ⟨rfl, rfl, rfl, rfl, rfl, rfl, rfl, rfl, rfl, rfl, rfl, rfl, rfl, rfl, rfl, rfl, rfl, rfl, rfl, rfl, rfl, rfl, rfl, rfl, rfl, rfl, rfl,
   rfl, rfl, rfl, rfl, rfl, rfl, rfl, rfl, rfl, rfl, rfl, rfl, rfl, rfl, rfl, rfl, rfl, rfl, rfl, rfl, rfl, rfl, rfl, rfl, rfl, rfl, rfl,
   rfl, rfl, rfl, rfl, rfl, rfl, rfl⟩

@[simp] theorem State.setCols_fields (s : State) (v : List (Nat × Col)) :
    (s.setCols v).cols = v ∧ (s.setCols v).pending = s.pending ∧ (s.setCols v).mt = s.mt ∧ (s.setCols v).cw = s.cw ∧
    (s.setCols v).mem = s.mem ∧ (s.setCols v).eccs = s.eccs ∧ (s.setCols v).net = s.net ∧ (s.setCols v).seqs = s.seqs ∧
    (s.setCols v).lines = s.lines ∧ (s.setCols v).freeCtr = s.freeCtr ∧ (s.setCols v).queues = s.queues ∧ (s.setCols v).tb = s.tb ∧
    (s.setCols v).hts = s.hts ∧ (s.setCols v).basin = s.basin ∧ (s.setCols v).dale = s.dale ∧ (s.setCols v).held = s.held ∧
    (s.setCols v).scrub = s.scrub ∧ (s.setCols v).fanout = s.fanout ∧ (s.setCols v).passed = s.passed ∧ (s.setCols v).cores = s.cores ∧
    (s.setCols v).pgs = s.pgs ∧ (s.setCols v).sets = s.sets ∧ (s.setCols v).maps = s.maps ∧ (s.setCols v).stares = s.stares ∧
    (s.setCols v).loops = s.loops ∧ (s.setCols v).gateLog = s.gateLog ∧ (s.setCols v).scs = s.scs ∧ (s.setCols v).encs = s.encs ∧
    (s.setCols v).halls = s.halls ∧ (s.setCols v).probes = s.probes ∧ (s.setCols v).emus = s.emus ∧ (s.setCols v).slots = s.slots ∧
    (s.setCols v).csiSkip = s.csiSkip ∧ (s.setCols v).pipesOff = s.pipesOff ∧ (s.setCols v).taps = s.taps ∧ (s.setCols v).i2cs = s.i2cs ∧
    (s.setCols v).auxs = s.auxs ∧ (s.setCols v).auxMoves = s.auxMoves ∧ (s.setCols v).auxStops = s.auxStops ∧
    (s.setCols v).auxNext = s.auxNext ∧ (s.setCols v).lanes = s.lanes ∧ (s.setCols v).links = s.links ∧ (s.setCols v).keySlots = s.keySlots ∧
    (s.setCols v).wins = s.wins ∧ (s.setCols v).ups = s.ups ∧ (s.setCols v).ptp = s.ptp ∧ (s.setCols v).host = s.host ∧
    (s.setCols v).dramBanks = s.dramBanks ∧ (s.setCols v).dramRanks = s.dramRanks ∧ (s.setCols v).dramChans = s.dramChans ∧
    (s.setCols v).raaimt = s.raaimt ∧ (s.setCols v).raammt = s.raammt ∧ (s.setCols v).gorge = s.gorge ∧
    (s.setCols v).gorgeSaves = s.gorgeSaves ∧ (s.setCols v).holds = s.holds ∧ (s.setCols v).wake = s.wake ∧ (s.setCols v).vault = s.vault ∧
    (s.setCols v).house = s.house ∧ (s.setCols v).flash = s.flash ∧ (s.setCols v).keyHashes = s.keyHashes ∧ (s.setCols v).boot = s.boot :=
  ⟨rfl, rfl, rfl, rfl, rfl, rfl, rfl, rfl, rfl, rfl, rfl, rfl, rfl, rfl, rfl, rfl, rfl, rfl, rfl, rfl, rfl, rfl, rfl, rfl, rfl, rfl, rfl,
   rfl, rfl, rfl, rfl, rfl, rfl, rfl, rfl, rfl, rfl, rfl, rfl, rfl, rfl, rfl, rfl, rfl, rfl, rfl, rfl, rfl, rfl, rfl, rfl, rfl, rfl, rfl,
   rfl, rfl, rfl, rfl, rfl, rfl, rfl⟩

@[simp] theorem State.setBasin_fields (s : State) (v : Basin) :
    (s.setBasin v).basin = v ∧ (s.setBasin v).pending = s.pending ∧ (s.setBasin v).mt = s.mt ∧ (s.setBasin v).cw = s.cw ∧
    (s.setBasin v).mem = s.mem ∧ (s.setBasin v).eccs = s.eccs ∧ (s.setBasin v).net = s.net ∧ (s.setBasin v).seqs = s.seqs ∧
    (s.setBasin v).lines = s.lines ∧ (s.setBasin v).freeCtr = s.freeCtr ∧ (s.setBasin v).queues = s.queues ∧ (s.setBasin v).tb = s.tb ∧
    (s.setBasin v).hts = s.hts ∧ (s.setBasin v).cols = s.cols ∧ (s.setBasin v).dale = s.dale ∧ (s.setBasin v).held = s.held ∧
    (s.setBasin v).scrub = s.scrub ∧ (s.setBasin v).fanout = s.fanout ∧ (s.setBasin v).passed = s.passed ∧ (s.setBasin v).cores = s.cores ∧
    (s.setBasin v).pgs = s.pgs ∧ (s.setBasin v).sets = s.sets ∧ (s.setBasin v).maps = s.maps ∧ (s.setBasin v).stares = s.stares ∧
    (s.setBasin v).loops = s.loops ∧ (s.setBasin v).gateLog = s.gateLog ∧ (s.setBasin v).scs = s.scs ∧ (s.setBasin v).encs = s.encs ∧
    (s.setBasin v).halls = s.halls ∧ (s.setBasin v).probes = s.probes ∧ (s.setBasin v).emus = s.emus ∧ (s.setBasin v).slots = s.slots ∧
    (s.setBasin v).csiSkip = s.csiSkip ∧ (s.setBasin v).pipesOff = s.pipesOff ∧ (s.setBasin v).taps = s.taps ∧ (s.setBasin v).i2cs = s.i2cs ∧
    (s.setBasin v).auxs = s.auxs ∧ (s.setBasin v).auxMoves = s.auxMoves ∧ (s.setBasin v).auxStops = s.auxStops ∧
    (s.setBasin v).auxNext = s.auxNext ∧ (s.setBasin v).lanes = s.lanes ∧ (s.setBasin v).links = s.links ∧
    (s.setBasin v).keySlots = s.keySlots ∧ (s.setBasin v).wins = s.wins ∧ (s.setBasin v).ups = s.ups ∧ (s.setBasin v).ptp = s.ptp ∧
    (s.setBasin v).host = s.host ∧ (s.setBasin v).dramBanks = s.dramBanks ∧ (s.setBasin v).dramRanks = s.dramRanks ∧
    (s.setBasin v).dramChans = s.dramChans ∧ (s.setBasin v).raaimt = s.raaimt ∧ (s.setBasin v).raammt = s.raammt ∧
    (s.setBasin v).gorge = s.gorge ∧ (s.setBasin v).gorgeSaves = s.gorgeSaves ∧ (s.setBasin v).holds = s.holds ∧
    (s.setBasin v).wake = s.wake ∧ (s.setBasin v).vault = s.vault ∧ (s.setBasin v).house = s.house ∧ (s.setBasin v).flash = s.flash ∧
    (s.setBasin v).keyHashes = s.keyHashes ∧ (s.setBasin v).boot = s.boot :=
  ⟨rfl, rfl, rfl, rfl, rfl, rfl, rfl, rfl, rfl, rfl, rfl, rfl, rfl, rfl, rfl, rfl, rfl, rfl, rfl, rfl, rfl, rfl, rfl, rfl, rfl, rfl, rfl,
   rfl, rfl, rfl, rfl, rfl, rfl, rfl, rfl, rfl, rfl, rfl, rfl, rfl, rfl, rfl, rfl, rfl, rfl, rfl, rfl, rfl, rfl, rfl, rfl, rfl, rfl, rfl,
   rfl, rfl, rfl, rfl, rfl, rfl, rfl⟩

@[simp] theorem State.setDale_fields (s : State) (v : Dale) :
    (s.setDale v).dale = v ∧ (s.setDale v).pending = s.pending ∧ (s.setDale v).mt = s.mt ∧ (s.setDale v).cw = s.cw ∧
    (s.setDale v).mem = s.mem ∧ (s.setDale v).eccs = s.eccs ∧ (s.setDale v).net = s.net ∧ (s.setDale v).seqs = s.seqs ∧
    (s.setDale v).lines = s.lines ∧ (s.setDale v).freeCtr = s.freeCtr ∧ (s.setDale v).queues = s.queues ∧ (s.setDale v).tb = s.tb ∧
    (s.setDale v).hts = s.hts ∧ (s.setDale v).cols = s.cols ∧ (s.setDale v).basin = s.basin ∧ (s.setDale v).held = s.held ∧
    (s.setDale v).scrub = s.scrub ∧ (s.setDale v).fanout = s.fanout ∧ (s.setDale v).passed = s.passed ∧ (s.setDale v).cores = s.cores ∧
    (s.setDale v).pgs = s.pgs ∧ (s.setDale v).sets = s.sets ∧ (s.setDale v).maps = s.maps ∧ (s.setDale v).stares = s.stares ∧
    (s.setDale v).loops = s.loops ∧ (s.setDale v).gateLog = s.gateLog ∧ (s.setDale v).scs = s.scs ∧ (s.setDale v).encs = s.encs ∧
    (s.setDale v).halls = s.halls ∧ (s.setDale v).probes = s.probes ∧ (s.setDale v).emus = s.emus ∧ (s.setDale v).slots = s.slots ∧
    (s.setDale v).csiSkip = s.csiSkip ∧ (s.setDale v).pipesOff = s.pipesOff ∧ (s.setDale v).taps = s.taps ∧ (s.setDale v).i2cs = s.i2cs ∧
    (s.setDale v).auxs = s.auxs ∧ (s.setDale v).auxMoves = s.auxMoves ∧ (s.setDale v).auxStops = s.auxStops ∧
    (s.setDale v).auxNext = s.auxNext ∧ (s.setDale v).lanes = s.lanes ∧ (s.setDale v).links = s.links ∧ (s.setDale v).keySlots = s.keySlots ∧
    (s.setDale v).wins = s.wins ∧ (s.setDale v).ups = s.ups ∧ (s.setDale v).ptp = s.ptp ∧ (s.setDale v).host = s.host ∧
    (s.setDale v).dramBanks = s.dramBanks ∧ (s.setDale v).dramRanks = s.dramRanks ∧ (s.setDale v).dramChans = s.dramChans ∧
    (s.setDale v).raaimt = s.raaimt ∧ (s.setDale v).raammt = s.raammt ∧ (s.setDale v).gorge = s.gorge ∧
    (s.setDale v).gorgeSaves = s.gorgeSaves ∧ (s.setDale v).holds = s.holds ∧ (s.setDale v).wake = s.wake ∧ (s.setDale v).vault = s.vault ∧
    (s.setDale v).house = s.house ∧ (s.setDale v).flash = s.flash ∧ (s.setDale v).keyHashes = s.keyHashes ∧ (s.setDale v).boot = s.boot :=
  ⟨rfl, rfl, rfl, rfl, rfl, rfl, rfl, rfl, rfl, rfl, rfl, rfl, rfl, rfl, rfl, rfl, rfl, rfl, rfl, rfl, rfl, rfl, rfl, rfl, rfl, rfl, rfl,
   rfl, rfl, rfl, rfl, rfl, rfl, rfl, rfl, rfl, rfl, rfl, rfl, rfl, rfl, rfl, rfl, rfl, rfl, rfl, rfl, rfl, rfl, rfl, rfl, rfl, rfl, rfl,
   rfl, rfl, rfl, rfl, rfl, rfl, rfl⟩

@[simp] theorem State.setHeld_fields (s : State) (v : List (List Token)) :
    (s.setHeld v).held = v ∧ (s.setHeld v).pending = s.pending ∧ (s.setHeld v).mt = s.mt ∧ (s.setHeld v).cw = s.cw ∧
    (s.setHeld v).mem = s.mem ∧ (s.setHeld v).eccs = s.eccs ∧ (s.setHeld v).net = s.net ∧ (s.setHeld v).seqs = s.seqs ∧
    (s.setHeld v).lines = s.lines ∧ (s.setHeld v).freeCtr = s.freeCtr ∧ (s.setHeld v).queues = s.queues ∧ (s.setHeld v).tb = s.tb ∧
    (s.setHeld v).hts = s.hts ∧ (s.setHeld v).cols = s.cols ∧ (s.setHeld v).basin = s.basin ∧ (s.setHeld v).dale = s.dale ∧
    (s.setHeld v).scrub = s.scrub ∧ (s.setHeld v).fanout = s.fanout ∧ (s.setHeld v).passed = s.passed ∧ (s.setHeld v).cores = s.cores ∧
    (s.setHeld v).pgs = s.pgs ∧ (s.setHeld v).sets = s.sets ∧ (s.setHeld v).maps = s.maps ∧ (s.setHeld v).stares = s.stares ∧
    (s.setHeld v).loops = s.loops ∧ (s.setHeld v).gateLog = s.gateLog ∧ (s.setHeld v).scs = s.scs ∧ (s.setHeld v).encs = s.encs ∧
    (s.setHeld v).halls = s.halls ∧ (s.setHeld v).probes = s.probes ∧ (s.setHeld v).emus = s.emus ∧ (s.setHeld v).slots = s.slots ∧
    (s.setHeld v).csiSkip = s.csiSkip ∧ (s.setHeld v).pipesOff = s.pipesOff ∧ (s.setHeld v).taps = s.taps ∧ (s.setHeld v).i2cs = s.i2cs ∧
    (s.setHeld v).auxs = s.auxs ∧ (s.setHeld v).auxMoves = s.auxMoves ∧ (s.setHeld v).auxStops = s.auxStops ∧
    (s.setHeld v).auxNext = s.auxNext ∧ (s.setHeld v).lanes = s.lanes ∧ (s.setHeld v).links = s.links ∧ (s.setHeld v).keySlots = s.keySlots ∧
    (s.setHeld v).wins = s.wins ∧ (s.setHeld v).ups = s.ups ∧ (s.setHeld v).ptp = s.ptp ∧ (s.setHeld v).host = s.host ∧
    (s.setHeld v).dramBanks = s.dramBanks ∧ (s.setHeld v).dramRanks = s.dramRanks ∧ (s.setHeld v).dramChans = s.dramChans ∧
    (s.setHeld v).raaimt = s.raaimt ∧ (s.setHeld v).raammt = s.raammt ∧ (s.setHeld v).gorge = s.gorge ∧
    (s.setHeld v).gorgeSaves = s.gorgeSaves ∧ (s.setHeld v).holds = s.holds ∧ (s.setHeld v).wake = s.wake ∧ (s.setHeld v).vault = s.vault ∧
    (s.setHeld v).house = s.house ∧ (s.setHeld v).flash = s.flash ∧ (s.setHeld v).keyHashes = s.keyHashes ∧ (s.setHeld v).boot = s.boot :=
  ⟨rfl, rfl, rfl, rfl, rfl, rfl, rfl, rfl, rfl, rfl, rfl, rfl, rfl, rfl, rfl, rfl, rfl, rfl, rfl, rfl, rfl, rfl, rfl, rfl, rfl, rfl, rfl,
   rfl, rfl, rfl, rfl, rfl, rfl, rfl, rfl, rfl, rfl, rfl, rfl, rfl, rfl, rfl, rfl, rfl, rfl, rfl, rfl, rfl, rfl, rfl, rfl, rfl, rfl, rfl,
   rfl, rfl, rfl, rfl, rfl, rfl, rfl⟩

@[simp] theorem State.setScrub_fields (s : State) (v : Scrub) :
    (s.setScrub v).scrub = v ∧ (s.setScrub v).pending = s.pending ∧ (s.setScrub v).mt = s.mt ∧ (s.setScrub v).cw = s.cw ∧
    (s.setScrub v).mem = s.mem ∧ (s.setScrub v).eccs = s.eccs ∧ (s.setScrub v).net = s.net ∧ (s.setScrub v).seqs = s.seqs ∧
    (s.setScrub v).lines = s.lines ∧ (s.setScrub v).freeCtr = s.freeCtr ∧ (s.setScrub v).queues = s.queues ∧ (s.setScrub v).tb = s.tb ∧
    (s.setScrub v).hts = s.hts ∧ (s.setScrub v).cols = s.cols ∧ (s.setScrub v).basin = s.basin ∧ (s.setScrub v).dale = s.dale ∧
    (s.setScrub v).held = s.held ∧ (s.setScrub v).fanout = s.fanout ∧ (s.setScrub v).passed = s.passed ∧ (s.setScrub v).cores = s.cores ∧
    (s.setScrub v).pgs = s.pgs ∧ (s.setScrub v).sets = s.sets ∧ (s.setScrub v).maps = s.maps ∧ (s.setScrub v).stares = s.stares ∧
    (s.setScrub v).loops = s.loops ∧ (s.setScrub v).gateLog = s.gateLog ∧ (s.setScrub v).scs = s.scs ∧ (s.setScrub v).encs = s.encs ∧
    (s.setScrub v).halls = s.halls ∧ (s.setScrub v).probes = s.probes ∧ (s.setScrub v).emus = s.emus ∧ (s.setScrub v).slots = s.slots ∧
    (s.setScrub v).csiSkip = s.csiSkip ∧ (s.setScrub v).pipesOff = s.pipesOff ∧ (s.setScrub v).taps = s.taps ∧ (s.setScrub v).i2cs = s.i2cs ∧
    (s.setScrub v).auxs = s.auxs ∧ (s.setScrub v).auxMoves = s.auxMoves ∧ (s.setScrub v).auxStops = s.auxStops ∧
    (s.setScrub v).auxNext = s.auxNext ∧ (s.setScrub v).lanes = s.lanes ∧ (s.setScrub v).links = s.links ∧
    (s.setScrub v).keySlots = s.keySlots ∧ (s.setScrub v).wins = s.wins ∧ (s.setScrub v).ups = s.ups ∧ (s.setScrub v).ptp = s.ptp ∧
    (s.setScrub v).host = s.host ∧ (s.setScrub v).dramBanks = s.dramBanks ∧ (s.setScrub v).dramRanks = s.dramRanks ∧
    (s.setScrub v).dramChans = s.dramChans ∧ (s.setScrub v).raaimt = s.raaimt ∧ (s.setScrub v).raammt = s.raammt ∧
    (s.setScrub v).gorge = s.gorge ∧ (s.setScrub v).gorgeSaves = s.gorgeSaves ∧ (s.setScrub v).holds = s.holds ∧
    (s.setScrub v).wake = s.wake ∧ (s.setScrub v).vault = s.vault ∧ (s.setScrub v).house = s.house ∧ (s.setScrub v).flash = s.flash ∧
    (s.setScrub v).keyHashes = s.keyHashes ∧ (s.setScrub v).boot = s.boot :=
  ⟨rfl, rfl, rfl, rfl, rfl, rfl, rfl, rfl, rfl, rfl, rfl, rfl, rfl, rfl, rfl, rfl, rfl, rfl, rfl, rfl, rfl, rfl, rfl, rfl, rfl, rfl, rfl,
   rfl, rfl, rfl, rfl, rfl, rfl, rfl, rfl, rfl, rfl, rfl, rfl, rfl, rfl, rfl, rfl, rfl, rfl, rfl, rfl, rfl, rfl, rfl, rfl, rfl, rfl, rfl,
   rfl, rfl, rfl, rfl, rfl, rfl, rfl⟩

@[simp] theorem State.setFanout_fields (s : State) (v : List Token) :
    (s.setFanout v).fanout = v ∧ (s.setFanout v).pending = s.pending ∧ (s.setFanout v).mt = s.mt ∧ (s.setFanout v).cw = s.cw ∧
    (s.setFanout v).mem = s.mem ∧ (s.setFanout v).eccs = s.eccs ∧ (s.setFanout v).net = s.net ∧ (s.setFanout v).seqs = s.seqs ∧
    (s.setFanout v).lines = s.lines ∧ (s.setFanout v).freeCtr = s.freeCtr ∧ (s.setFanout v).queues = s.queues ∧ (s.setFanout v).tb = s.tb ∧
    (s.setFanout v).hts = s.hts ∧ (s.setFanout v).cols = s.cols ∧ (s.setFanout v).basin = s.basin ∧ (s.setFanout v).dale = s.dale ∧
    (s.setFanout v).held = s.held ∧ (s.setFanout v).scrub = s.scrub ∧ (s.setFanout v).passed = s.passed ∧ (s.setFanout v).cores = s.cores ∧
    (s.setFanout v).pgs = s.pgs ∧ (s.setFanout v).sets = s.sets ∧ (s.setFanout v).maps = s.maps ∧ (s.setFanout v).stares = s.stares ∧
    (s.setFanout v).loops = s.loops ∧ (s.setFanout v).gateLog = s.gateLog ∧ (s.setFanout v).scs = s.scs ∧ (s.setFanout v).encs = s.encs ∧
    (s.setFanout v).halls = s.halls ∧ (s.setFanout v).probes = s.probes ∧ (s.setFanout v).emus = s.emus ∧ (s.setFanout v).slots = s.slots ∧
    (s.setFanout v).csiSkip = s.csiSkip ∧ (s.setFanout v).pipesOff = s.pipesOff ∧ (s.setFanout v).taps = s.taps ∧
    (s.setFanout v).i2cs = s.i2cs ∧ (s.setFanout v).auxs = s.auxs ∧ (s.setFanout v).auxMoves = s.auxMoves ∧
    (s.setFanout v).auxStops = s.auxStops ∧ (s.setFanout v).auxNext = s.auxNext ∧ (s.setFanout v).lanes = s.lanes ∧
    (s.setFanout v).links = s.links ∧ (s.setFanout v).keySlots = s.keySlots ∧ (s.setFanout v).wins = s.wins ∧ (s.setFanout v).ups = s.ups ∧
    (s.setFanout v).ptp = s.ptp ∧ (s.setFanout v).host = s.host ∧ (s.setFanout v).dramBanks = s.dramBanks ∧
    (s.setFanout v).dramRanks = s.dramRanks ∧ (s.setFanout v).dramChans = s.dramChans ∧ (s.setFanout v).raaimt = s.raaimt ∧
    (s.setFanout v).raammt = s.raammt ∧ (s.setFanout v).gorge = s.gorge ∧ (s.setFanout v).gorgeSaves = s.gorgeSaves ∧
    (s.setFanout v).holds = s.holds ∧ (s.setFanout v).wake = s.wake ∧ (s.setFanout v).vault = s.vault ∧ (s.setFanout v).house = s.house ∧
    (s.setFanout v).flash = s.flash ∧ (s.setFanout v).keyHashes = s.keyHashes ∧ (s.setFanout v).boot = s.boot :=
  ⟨rfl, rfl, rfl, rfl, rfl, rfl, rfl, rfl, rfl, rfl, rfl, rfl, rfl, rfl, rfl, rfl, rfl, rfl, rfl, rfl, rfl, rfl, rfl, rfl, rfl, rfl, rfl,
   rfl, rfl, rfl, rfl, rfl, rfl, rfl, rfl, rfl, rfl, rfl, rfl, rfl, rfl, rfl, rfl, rfl, rfl, rfl, rfl, rfl, rfl, rfl, rfl, rfl, rfl, rfl,
   rfl, rfl, rfl, rfl, rfl, rfl, rfl⟩

@[simp] theorem State.setPassed_fields (s : State) (v : List Token) :
    (s.setPassed v).passed = v ∧ (s.setPassed v).pending = s.pending ∧ (s.setPassed v).mt = s.mt ∧ (s.setPassed v).cw = s.cw ∧
    (s.setPassed v).mem = s.mem ∧ (s.setPassed v).eccs = s.eccs ∧ (s.setPassed v).net = s.net ∧ (s.setPassed v).seqs = s.seqs ∧
    (s.setPassed v).lines = s.lines ∧ (s.setPassed v).freeCtr = s.freeCtr ∧ (s.setPassed v).queues = s.queues ∧ (s.setPassed v).tb = s.tb ∧
    (s.setPassed v).hts = s.hts ∧ (s.setPassed v).cols = s.cols ∧ (s.setPassed v).basin = s.basin ∧ (s.setPassed v).dale = s.dale ∧
    (s.setPassed v).held = s.held ∧ (s.setPassed v).scrub = s.scrub ∧ (s.setPassed v).fanout = s.fanout ∧ (s.setPassed v).cores = s.cores ∧
    (s.setPassed v).pgs = s.pgs ∧ (s.setPassed v).sets = s.sets ∧ (s.setPassed v).maps = s.maps ∧ (s.setPassed v).stares = s.stares ∧
    (s.setPassed v).loops = s.loops ∧ (s.setPassed v).gateLog = s.gateLog ∧ (s.setPassed v).scs = s.scs ∧ (s.setPassed v).encs = s.encs ∧
    (s.setPassed v).halls = s.halls ∧ (s.setPassed v).probes = s.probes ∧ (s.setPassed v).emus = s.emus ∧ (s.setPassed v).slots = s.slots ∧
    (s.setPassed v).csiSkip = s.csiSkip ∧ (s.setPassed v).pipesOff = s.pipesOff ∧ (s.setPassed v).taps = s.taps ∧
    (s.setPassed v).i2cs = s.i2cs ∧ (s.setPassed v).auxs = s.auxs ∧ (s.setPassed v).auxMoves = s.auxMoves ∧
    (s.setPassed v).auxStops = s.auxStops ∧ (s.setPassed v).auxNext = s.auxNext ∧ (s.setPassed v).lanes = s.lanes ∧
    (s.setPassed v).links = s.links ∧ (s.setPassed v).keySlots = s.keySlots ∧ (s.setPassed v).wins = s.wins ∧ (s.setPassed v).ups = s.ups ∧
    (s.setPassed v).ptp = s.ptp ∧ (s.setPassed v).host = s.host ∧ (s.setPassed v).dramBanks = s.dramBanks ∧
    (s.setPassed v).dramRanks = s.dramRanks ∧ (s.setPassed v).dramChans = s.dramChans ∧ (s.setPassed v).raaimt = s.raaimt ∧
    (s.setPassed v).raammt = s.raammt ∧ (s.setPassed v).gorge = s.gorge ∧ (s.setPassed v).gorgeSaves = s.gorgeSaves ∧
    (s.setPassed v).holds = s.holds ∧ (s.setPassed v).wake = s.wake ∧ (s.setPassed v).vault = s.vault ∧ (s.setPassed v).house = s.house ∧
    (s.setPassed v).flash = s.flash ∧ (s.setPassed v).keyHashes = s.keyHashes ∧ (s.setPassed v).boot = s.boot :=
  ⟨rfl, rfl, rfl, rfl, rfl, rfl, rfl, rfl, rfl, rfl, rfl, rfl, rfl, rfl, rfl, rfl, rfl, rfl, rfl, rfl, rfl, rfl, rfl, rfl, rfl, rfl, rfl,
   rfl, rfl, rfl, rfl, rfl, rfl, rfl, rfl, rfl, rfl, rfl, rfl, rfl, rfl, rfl, rfl, rfl, rfl, rfl, rfl, rfl, rfl, rfl, rfl, rfl, rfl, rfl,
   rfl, rfl, rfl, rfl, rfl, rfl, rfl⟩

@[simp] theorem State.setCores_fields (s : State) (v : List (Nat × Core)) :
    (s.setCores v).cores = v ∧ (s.setCores v).pending = s.pending ∧ (s.setCores v).mt = s.mt ∧ (s.setCores v).cw = s.cw ∧
    (s.setCores v).mem = s.mem ∧ (s.setCores v).eccs = s.eccs ∧ (s.setCores v).net = s.net ∧ (s.setCores v).seqs = s.seqs ∧
    (s.setCores v).lines = s.lines ∧ (s.setCores v).freeCtr = s.freeCtr ∧ (s.setCores v).queues = s.queues ∧ (s.setCores v).tb = s.tb ∧
    (s.setCores v).hts = s.hts ∧ (s.setCores v).cols = s.cols ∧ (s.setCores v).basin = s.basin ∧ (s.setCores v).dale = s.dale ∧
    (s.setCores v).held = s.held ∧ (s.setCores v).scrub = s.scrub ∧ (s.setCores v).fanout = s.fanout ∧ (s.setCores v).passed = s.passed ∧
    (s.setCores v).pgs = s.pgs ∧ (s.setCores v).sets = s.sets ∧ (s.setCores v).maps = s.maps ∧ (s.setCores v).stares = s.stares ∧
    (s.setCores v).loops = s.loops ∧ (s.setCores v).gateLog = s.gateLog ∧ (s.setCores v).scs = s.scs ∧ (s.setCores v).encs = s.encs ∧
    (s.setCores v).halls = s.halls ∧ (s.setCores v).probes = s.probes ∧ (s.setCores v).emus = s.emus ∧ (s.setCores v).slots = s.slots ∧
    (s.setCores v).csiSkip = s.csiSkip ∧ (s.setCores v).pipesOff = s.pipesOff ∧ (s.setCores v).taps = s.taps ∧ (s.setCores v).i2cs = s.i2cs ∧
    (s.setCores v).auxs = s.auxs ∧ (s.setCores v).auxMoves = s.auxMoves ∧ (s.setCores v).auxStops = s.auxStops ∧
    (s.setCores v).auxNext = s.auxNext ∧ (s.setCores v).lanes = s.lanes ∧ (s.setCores v).links = s.links ∧
    (s.setCores v).keySlots = s.keySlots ∧ (s.setCores v).wins = s.wins ∧ (s.setCores v).ups = s.ups ∧ (s.setCores v).ptp = s.ptp ∧
    (s.setCores v).host = s.host ∧ (s.setCores v).dramBanks = s.dramBanks ∧ (s.setCores v).dramRanks = s.dramRanks ∧
    (s.setCores v).dramChans = s.dramChans ∧ (s.setCores v).raaimt = s.raaimt ∧ (s.setCores v).raammt = s.raammt ∧
    (s.setCores v).gorge = s.gorge ∧ (s.setCores v).gorgeSaves = s.gorgeSaves ∧ (s.setCores v).holds = s.holds ∧
    (s.setCores v).wake = s.wake ∧ (s.setCores v).vault = s.vault ∧ (s.setCores v).house = s.house ∧ (s.setCores v).flash = s.flash ∧
    (s.setCores v).keyHashes = s.keyHashes ∧ (s.setCores v).boot = s.boot :=
  ⟨rfl, rfl, rfl, rfl, rfl, rfl, rfl, rfl, rfl, rfl, rfl, rfl, rfl, rfl, rfl, rfl, rfl, rfl, rfl, rfl, rfl, rfl, rfl, rfl, rfl, rfl, rfl,
   rfl, rfl, rfl, rfl, rfl, rfl, rfl, rfl, rfl, rfl, rfl, rfl, rfl, rfl, rfl, rfl, rfl, rfl, rfl, rfl, rfl, rfl, rfl, rfl, rfl, rfl, rfl,
   rfl, rfl, rfl, rfl, rfl, rfl, rfl⟩

@[simp] theorem State.setPgs_fields (s : State) (v : List (Nat × PgSt)) :
    (s.setPgs v).pgs = v ∧ (s.setPgs v).pending = s.pending ∧ (s.setPgs v).mt = s.mt ∧ (s.setPgs v).cw = s.cw ∧ (s.setPgs v).mem = s.mem ∧
    (s.setPgs v).eccs = s.eccs ∧ (s.setPgs v).net = s.net ∧ (s.setPgs v).seqs = s.seqs ∧ (s.setPgs v).lines = s.lines ∧
    (s.setPgs v).freeCtr = s.freeCtr ∧ (s.setPgs v).queues = s.queues ∧ (s.setPgs v).tb = s.tb ∧ (s.setPgs v).hts = s.hts ∧
    (s.setPgs v).cols = s.cols ∧ (s.setPgs v).basin = s.basin ∧ (s.setPgs v).dale = s.dale ∧ (s.setPgs v).held = s.held ∧
    (s.setPgs v).scrub = s.scrub ∧ (s.setPgs v).fanout = s.fanout ∧ (s.setPgs v).passed = s.passed ∧ (s.setPgs v).cores = s.cores ∧
    (s.setPgs v).sets = s.sets ∧ (s.setPgs v).maps = s.maps ∧ (s.setPgs v).stares = s.stares ∧ (s.setPgs v).loops = s.loops ∧
    (s.setPgs v).gateLog = s.gateLog ∧ (s.setPgs v).scs = s.scs ∧ (s.setPgs v).encs = s.encs ∧ (s.setPgs v).halls = s.halls ∧
    (s.setPgs v).probes = s.probes ∧ (s.setPgs v).emus = s.emus ∧ (s.setPgs v).slots = s.slots ∧ (s.setPgs v).csiSkip = s.csiSkip ∧
    (s.setPgs v).pipesOff = s.pipesOff ∧ (s.setPgs v).taps = s.taps ∧ (s.setPgs v).i2cs = s.i2cs ∧ (s.setPgs v).auxs = s.auxs ∧
    (s.setPgs v).auxMoves = s.auxMoves ∧ (s.setPgs v).auxStops = s.auxStops ∧ (s.setPgs v).auxNext = s.auxNext ∧
    (s.setPgs v).lanes = s.lanes ∧ (s.setPgs v).links = s.links ∧ (s.setPgs v).keySlots = s.keySlots ∧ (s.setPgs v).wins = s.wins ∧
    (s.setPgs v).ups = s.ups ∧ (s.setPgs v).ptp = s.ptp ∧ (s.setPgs v).host = s.host ∧ (s.setPgs v).dramBanks = s.dramBanks ∧
    (s.setPgs v).dramRanks = s.dramRanks ∧ (s.setPgs v).dramChans = s.dramChans ∧ (s.setPgs v).raaimt = s.raaimt ∧
    (s.setPgs v).raammt = s.raammt ∧ (s.setPgs v).gorge = s.gorge ∧ (s.setPgs v).gorgeSaves = s.gorgeSaves ∧ (s.setPgs v).holds = s.holds ∧
    (s.setPgs v).wake = s.wake ∧ (s.setPgs v).vault = s.vault ∧ (s.setPgs v).house = s.house ∧ (s.setPgs v).flash = s.flash ∧
    (s.setPgs v).keyHashes = s.keyHashes ∧ (s.setPgs v).boot = s.boot :=
  ⟨rfl, rfl, rfl, rfl, rfl, rfl, rfl, rfl, rfl, rfl, rfl, rfl, rfl, rfl, rfl, rfl, rfl, rfl, rfl, rfl, rfl, rfl, rfl, rfl, rfl, rfl, rfl,
   rfl, rfl, rfl, rfl, rfl, rfl, rfl, rfl, rfl, rfl, rfl, rfl, rfl, rfl, rfl, rfl, rfl, rfl, rfl, rfl, rfl, rfl, rfl, rfl, rfl, rfl, rfl,
   rfl, rfl, rfl, rfl, rfl, rfl, rfl⟩

@[simp] theorem State.setSets_fields (s : State) (v : List SharedSet) :
    (s.setSets v).sets = v ∧ (s.setSets v).pending = s.pending ∧ (s.setSets v).mt = s.mt ∧ (s.setSets v).cw = s.cw ∧
    (s.setSets v).mem = s.mem ∧ (s.setSets v).eccs = s.eccs ∧ (s.setSets v).net = s.net ∧ (s.setSets v).seqs = s.seqs ∧
    (s.setSets v).lines = s.lines ∧ (s.setSets v).freeCtr = s.freeCtr ∧ (s.setSets v).queues = s.queues ∧ (s.setSets v).tb = s.tb ∧
    (s.setSets v).hts = s.hts ∧ (s.setSets v).cols = s.cols ∧ (s.setSets v).basin = s.basin ∧ (s.setSets v).dale = s.dale ∧
    (s.setSets v).held = s.held ∧ (s.setSets v).scrub = s.scrub ∧ (s.setSets v).fanout = s.fanout ∧ (s.setSets v).passed = s.passed ∧
    (s.setSets v).cores = s.cores ∧ (s.setSets v).pgs = s.pgs ∧ (s.setSets v).maps = s.maps ∧ (s.setSets v).stares = s.stares ∧
    (s.setSets v).loops = s.loops ∧ (s.setSets v).gateLog = s.gateLog ∧ (s.setSets v).scs = s.scs ∧ (s.setSets v).encs = s.encs ∧
    (s.setSets v).halls = s.halls ∧ (s.setSets v).probes = s.probes ∧ (s.setSets v).emus = s.emus ∧ (s.setSets v).slots = s.slots ∧
    (s.setSets v).csiSkip = s.csiSkip ∧ (s.setSets v).pipesOff = s.pipesOff ∧ (s.setSets v).taps = s.taps ∧ (s.setSets v).i2cs = s.i2cs ∧
    (s.setSets v).auxs = s.auxs ∧ (s.setSets v).auxMoves = s.auxMoves ∧ (s.setSets v).auxStops = s.auxStops ∧
    (s.setSets v).auxNext = s.auxNext ∧ (s.setSets v).lanes = s.lanes ∧ (s.setSets v).links = s.links ∧ (s.setSets v).keySlots = s.keySlots ∧
    (s.setSets v).wins = s.wins ∧ (s.setSets v).ups = s.ups ∧ (s.setSets v).ptp = s.ptp ∧ (s.setSets v).host = s.host ∧
    (s.setSets v).dramBanks = s.dramBanks ∧ (s.setSets v).dramRanks = s.dramRanks ∧ (s.setSets v).dramChans = s.dramChans ∧
    (s.setSets v).raaimt = s.raaimt ∧ (s.setSets v).raammt = s.raammt ∧ (s.setSets v).gorge = s.gorge ∧
    (s.setSets v).gorgeSaves = s.gorgeSaves ∧ (s.setSets v).holds = s.holds ∧ (s.setSets v).wake = s.wake ∧ (s.setSets v).vault = s.vault ∧
    (s.setSets v).house = s.house ∧ (s.setSets v).flash = s.flash ∧ (s.setSets v).keyHashes = s.keyHashes ∧ (s.setSets v).boot = s.boot :=
  ⟨rfl, rfl, rfl, rfl, rfl, rfl, rfl, rfl, rfl, rfl, rfl, rfl, rfl, rfl, rfl, rfl, rfl, rfl, rfl, rfl, rfl, rfl, rfl, rfl, rfl, rfl, rfl,
   rfl, rfl, rfl, rfl, rfl, rfl, rfl, rfl, rfl, rfl, rfl, rfl, rfl, rfl, rfl, rfl, rfl, rfl, rfl, rfl, rfl, rfl, rfl, rfl, rfl, rfl, rfl,
   rfl, rfl, rfl, rfl, rfl, rfl, rfl⟩

@[simp] theorem State.setMaps_fields (s : State) (v : List (Nat × MapSt)) :
    (s.setMaps v).maps = v ∧ (s.setMaps v).pending = s.pending ∧ (s.setMaps v).mt = s.mt ∧ (s.setMaps v).cw = s.cw ∧
    (s.setMaps v).mem = s.mem ∧ (s.setMaps v).eccs = s.eccs ∧ (s.setMaps v).net = s.net ∧ (s.setMaps v).seqs = s.seqs ∧
    (s.setMaps v).lines = s.lines ∧ (s.setMaps v).freeCtr = s.freeCtr ∧ (s.setMaps v).queues = s.queues ∧ (s.setMaps v).tb = s.tb ∧
    (s.setMaps v).hts = s.hts ∧ (s.setMaps v).cols = s.cols ∧ (s.setMaps v).basin = s.basin ∧ (s.setMaps v).dale = s.dale ∧
    (s.setMaps v).held = s.held ∧ (s.setMaps v).scrub = s.scrub ∧ (s.setMaps v).fanout = s.fanout ∧ (s.setMaps v).passed = s.passed ∧
    (s.setMaps v).cores = s.cores ∧ (s.setMaps v).pgs = s.pgs ∧ (s.setMaps v).sets = s.sets ∧ (s.setMaps v).stares = s.stares ∧
    (s.setMaps v).loops = s.loops ∧ (s.setMaps v).gateLog = s.gateLog ∧ (s.setMaps v).scs = s.scs ∧ (s.setMaps v).encs = s.encs ∧
    (s.setMaps v).halls = s.halls ∧ (s.setMaps v).probes = s.probes ∧ (s.setMaps v).emus = s.emus ∧ (s.setMaps v).slots = s.slots ∧
    (s.setMaps v).csiSkip = s.csiSkip ∧ (s.setMaps v).pipesOff = s.pipesOff ∧ (s.setMaps v).taps = s.taps ∧ (s.setMaps v).i2cs = s.i2cs ∧
    (s.setMaps v).auxs = s.auxs ∧ (s.setMaps v).auxMoves = s.auxMoves ∧ (s.setMaps v).auxStops = s.auxStops ∧
    (s.setMaps v).auxNext = s.auxNext ∧ (s.setMaps v).lanes = s.lanes ∧ (s.setMaps v).links = s.links ∧ (s.setMaps v).keySlots = s.keySlots ∧
    (s.setMaps v).wins = s.wins ∧ (s.setMaps v).ups = s.ups ∧ (s.setMaps v).ptp = s.ptp ∧ (s.setMaps v).host = s.host ∧
    (s.setMaps v).dramBanks = s.dramBanks ∧ (s.setMaps v).dramRanks = s.dramRanks ∧ (s.setMaps v).dramChans = s.dramChans ∧
    (s.setMaps v).raaimt = s.raaimt ∧ (s.setMaps v).raammt = s.raammt ∧ (s.setMaps v).gorge = s.gorge ∧
    (s.setMaps v).gorgeSaves = s.gorgeSaves ∧ (s.setMaps v).holds = s.holds ∧ (s.setMaps v).wake = s.wake ∧ (s.setMaps v).vault = s.vault ∧
    (s.setMaps v).house = s.house ∧ (s.setMaps v).flash = s.flash ∧ (s.setMaps v).keyHashes = s.keyHashes ∧ (s.setMaps v).boot = s.boot :=
  ⟨rfl, rfl, rfl, rfl, rfl, rfl, rfl, rfl, rfl, rfl, rfl, rfl, rfl, rfl, rfl, rfl, rfl, rfl, rfl, rfl, rfl, rfl, rfl, rfl, rfl, rfl, rfl,
   rfl, rfl, rfl, rfl, rfl, rfl, rfl, rfl, rfl, rfl, rfl, rfl, rfl, rfl, rfl, rfl, rfl, rfl, rfl, rfl, rfl, rfl, rfl, rfl, rfl, rfl, rfl,
   rfl, rfl, rfl, rfl, rfl, rfl, rfl⟩

@[simp] theorem State.setStares_fields (s : State) (v : List Stare) :
    (s.setStares v).stares = v ∧ (s.setStares v).pending = s.pending ∧ (s.setStares v).mt = s.mt ∧ (s.setStares v).cw = s.cw ∧
    (s.setStares v).mem = s.mem ∧ (s.setStares v).eccs = s.eccs ∧ (s.setStares v).net = s.net ∧ (s.setStares v).seqs = s.seqs ∧
    (s.setStares v).lines = s.lines ∧ (s.setStares v).freeCtr = s.freeCtr ∧ (s.setStares v).queues = s.queues ∧ (s.setStares v).tb = s.tb ∧
    (s.setStares v).hts = s.hts ∧ (s.setStares v).cols = s.cols ∧ (s.setStares v).basin = s.basin ∧ (s.setStares v).dale = s.dale ∧
    (s.setStares v).held = s.held ∧ (s.setStares v).scrub = s.scrub ∧ (s.setStares v).fanout = s.fanout ∧ (s.setStares v).passed = s.passed ∧
    (s.setStares v).cores = s.cores ∧ (s.setStares v).pgs = s.pgs ∧ (s.setStares v).sets = s.sets ∧ (s.setStares v).maps = s.maps ∧
    (s.setStares v).loops = s.loops ∧ (s.setStares v).gateLog = s.gateLog ∧ (s.setStares v).scs = s.scs ∧ (s.setStares v).encs = s.encs ∧
    (s.setStares v).halls = s.halls ∧ (s.setStares v).probes = s.probes ∧ (s.setStares v).emus = s.emus ∧ (s.setStares v).slots = s.slots ∧
    (s.setStares v).csiSkip = s.csiSkip ∧ (s.setStares v).pipesOff = s.pipesOff ∧ (s.setStares v).taps = s.taps ∧
    (s.setStares v).i2cs = s.i2cs ∧ (s.setStares v).auxs = s.auxs ∧ (s.setStares v).auxMoves = s.auxMoves ∧
    (s.setStares v).auxStops = s.auxStops ∧ (s.setStares v).auxNext = s.auxNext ∧ (s.setStares v).lanes = s.lanes ∧
    (s.setStares v).links = s.links ∧ (s.setStares v).keySlots = s.keySlots ∧ (s.setStares v).wins = s.wins ∧ (s.setStares v).ups = s.ups ∧
    (s.setStares v).ptp = s.ptp ∧ (s.setStares v).host = s.host ∧ (s.setStares v).dramBanks = s.dramBanks ∧
    (s.setStares v).dramRanks = s.dramRanks ∧ (s.setStares v).dramChans = s.dramChans ∧ (s.setStares v).raaimt = s.raaimt ∧
    (s.setStares v).raammt = s.raammt ∧ (s.setStares v).gorge = s.gorge ∧ (s.setStares v).gorgeSaves = s.gorgeSaves ∧
    (s.setStares v).holds = s.holds ∧ (s.setStares v).wake = s.wake ∧ (s.setStares v).vault = s.vault ∧ (s.setStares v).house = s.house ∧
    (s.setStares v).flash = s.flash ∧ (s.setStares v).keyHashes = s.keyHashes ∧ (s.setStares v).boot = s.boot :=
  ⟨rfl, rfl, rfl, rfl, rfl, rfl, rfl, rfl, rfl, rfl, rfl, rfl, rfl, rfl, rfl, rfl, rfl, rfl, rfl, rfl, rfl, rfl, rfl, rfl, rfl, rfl, rfl,
   rfl, rfl, rfl, rfl, rfl, rfl, rfl, rfl, rfl, rfl, rfl, rfl, rfl, rfl, rfl, rfl, rfl, rfl, rfl, rfl, rfl, rfl, rfl, rfl, rfl, rfl, rfl,
   rfl, rfl, rfl, rfl, rfl, rfl, rfl⟩

@[simp] theorem State.setLoops_fields (s : State) (v : List (Nat × Loop)) :
    (s.setLoops v).loops = v ∧ (s.setLoops v).pending = s.pending ∧ (s.setLoops v).mt = s.mt ∧ (s.setLoops v).cw = s.cw ∧
    (s.setLoops v).mem = s.mem ∧ (s.setLoops v).eccs = s.eccs ∧ (s.setLoops v).net = s.net ∧ (s.setLoops v).seqs = s.seqs ∧
    (s.setLoops v).lines = s.lines ∧ (s.setLoops v).freeCtr = s.freeCtr ∧ (s.setLoops v).queues = s.queues ∧ (s.setLoops v).tb = s.tb ∧
    (s.setLoops v).hts = s.hts ∧ (s.setLoops v).cols = s.cols ∧ (s.setLoops v).basin = s.basin ∧ (s.setLoops v).dale = s.dale ∧
    (s.setLoops v).held = s.held ∧ (s.setLoops v).scrub = s.scrub ∧ (s.setLoops v).fanout = s.fanout ∧ (s.setLoops v).passed = s.passed ∧
    (s.setLoops v).cores = s.cores ∧ (s.setLoops v).pgs = s.pgs ∧ (s.setLoops v).sets = s.sets ∧ (s.setLoops v).maps = s.maps ∧
    (s.setLoops v).stares = s.stares ∧ (s.setLoops v).gateLog = s.gateLog ∧ (s.setLoops v).scs = s.scs ∧ (s.setLoops v).encs = s.encs ∧
    (s.setLoops v).halls = s.halls ∧ (s.setLoops v).probes = s.probes ∧ (s.setLoops v).emus = s.emus ∧ (s.setLoops v).slots = s.slots ∧
    (s.setLoops v).csiSkip = s.csiSkip ∧ (s.setLoops v).pipesOff = s.pipesOff ∧ (s.setLoops v).taps = s.taps ∧ (s.setLoops v).i2cs = s.i2cs ∧
    (s.setLoops v).auxs = s.auxs ∧ (s.setLoops v).auxMoves = s.auxMoves ∧ (s.setLoops v).auxStops = s.auxStops ∧
    (s.setLoops v).auxNext = s.auxNext ∧ (s.setLoops v).lanes = s.lanes ∧ (s.setLoops v).links = s.links ∧
    (s.setLoops v).keySlots = s.keySlots ∧ (s.setLoops v).wins = s.wins ∧ (s.setLoops v).ups = s.ups ∧ (s.setLoops v).ptp = s.ptp ∧
    (s.setLoops v).host = s.host ∧ (s.setLoops v).dramBanks = s.dramBanks ∧ (s.setLoops v).dramRanks = s.dramRanks ∧
    (s.setLoops v).dramChans = s.dramChans ∧ (s.setLoops v).raaimt = s.raaimt ∧ (s.setLoops v).raammt = s.raammt ∧
    (s.setLoops v).gorge = s.gorge ∧ (s.setLoops v).gorgeSaves = s.gorgeSaves ∧ (s.setLoops v).holds = s.holds ∧
    (s.setLoops v).wake = s.wake ∧ (s.setLoops v).vault = s.vault ∧ (s.setLoops v).house = s.house ∧ (s.setLoops v).flash = s.flash ∧
    (s.setLoops v).keyHashes = s.keyHashes ∧ (s.setLoops v).boot = s.boot :=
  ⟨rfl, rfl, rfl, rfl, rfl, rfl, rfl, rfl, rfl, rfl, rfl, rfl, rfl, rfl, rfl, rfl, rfl, rfl, rfl, rfl, rfl, rfl, rfl, rfl, rfl, rfl, rfl,
   rfl, rfl, rfl, rfl, rfl, rfl, rfl, rfl, rfl, rfl, rfl, rfl, rfl, rfl, rfl, rfl, rfl, rfl, rfl, rfl, rfl, rfl, rfl, rfl, rfl, rfl, rfl,
   rfl, rfl, rfl, rfl, rfl, rfl, rfl⟩

@[simp] theorem State.setGateLog_fields (s : State) (v : List (Nat × Nat × Bool)) :
    (s.setGateLog v).gateLog = v ∧ (s.setGateLog v).pending = s.pending ∧ (s.setGateLog v).mt = s.mt ∧ (s.setGateLog v).cw = s.cw ∧
    (s.setGateLog v).mem = s.mem ∧ (s.setGateLog v).eccs = s.eccs ∧ (s.setGateLog v).net = s.net ∧ (s.setGateLog v).seqs = s.seqs ∧
    (s.setGateLog v).lines = s.lines ∧ (s.setGateLog v).freeCtr = s.freeCtr ∧ (s.setGateLog v).queues = s.queues ∧
    (s.setGateLog v).tb = s.tb ∧ (s.setGateLog v).hts = s.hts ∧ (s.setGateLog v).cols = s.cols ∧ (s.setGateLog v).basin = s.basin ∧
    (s.setGateLog v).dale = s.dale ∧ (s.setGateLog v).held = s.held ∧ (s.setGateLog v).scrub = s.scrub ∧ (s.setGateLog v).fanout = s.fanout ∧
    (s.setGateLog v).passed = s.passed ∧ (s.setGateLog v).cores = s.cores ∧ (s.setGateLog v).pgs = s.pgs ∧ (s.setGateLog v).sets = s.sets ∧
    (s.setGateLog v).maps = s.maps ∧ (s.setGateLog v).stares = s.stares ∧ (s.setGateLog v).loops = s.loops ∧ (s.setGateLog v).scs = s.scs ∧
    (s.setGateLog v).encs = s.encs ∧ (s.setGateLog v).halls = s.halls ∧ (s.setGateLog v).probes = s.probes ∧ (s.setGateLog v).emus = s.emus ∧
    (s.setGateLog v).slots = s.slots ∧ (s.setGateLog v).csiSkip = s.csiSkip ∧ (s.setGateLog v).pipesOff = s.pipesOff ∧
    (s.setGateLog v).taps = s.taps ∧ (s.setGateLog v).i2cs = s.i2cs ∧ (s.setGateLog v).auxs = s.auxs ∧
    (s.setGateLog v).auxMoves = s.auxMoves ∧ (s.setGateLog v).auxStops = s.auxStops ∧ (s.setGateLog v).auxNext = s.auxNext ∧
    (s.setGateLog v).lanes = s.lanes ∧ (s.setGateLog v).links = s.links ∧ (s.setGateLog v).keySlots = s.keySlots ∧
    (s.setGateLog v).wins = s.wins ∧ (s.setGateLog v).ups = s.ups ∧ (s.setGateLog v).ptp = s.ptp ∧ (s.setGateLog v).host = s.host ∧
    (s.setGateLog v).dramBanks = s.dramBanks ∧ (s.setGateLog v).dramRanks = s.dramRanks ∧ (s.setGateLog v).dramChans = s.dramChans ∧
    (s.setGateLog v).raaimt = s.raaimt ∧ (s.setGateLog v).raammt = s.raammt ∧ (s.setGateLog v).gorge = s.gorge ∧
    (s.setGateLog v).gorgeSaves = s.gorgeSaves ∧ (s.setGateLog v).holds = s.holds ∧ (s.setGateLog v).wake = s.wake ∧
    (s.setGateLog v).vault = s.vault ∧ (s.setGateLog v).house = s.house ∧ (s.setGateLog v).flash = s.flash ∧
    (s.setGateLog v).keyHashes = s.keyHashes ∧ (s.setGateLog v).boot = s.boot :=
  ⟨rfl, rfl, rfl, rfl, rfl, rfl, rfl, rfl, rfl, rfl, rfl, rfl, rfl, rfl, rfl, rfl, rfl, rfl, rfl, rfl, rfl, rfl, rfl, rfl, rfl, rfl, rfl,
   rfl, rfl, rfl, rfl, rfl, rfl, rfl, rfl, rfl, rfl, rfl, rfl, rfl, rfl, rfl, rfl, rfl, rfl, rfl, rfl, rfl, rfl, rfl, rfl, rfl, rfl, rfl,
   rfl, rfl, rfl, rfl, rfl, rfl, rfl⟩

@[simp] theorem State.setScs_fields (s : State) (v : List (Nat × ScSt)) :
    (s.setScs v).scs = v ∧ (s.setScs v).pending = s.pending ∧ (s.setScs v).mt = s.mt ∧ (s.setScs v).cw = s.cw ∧ (s.setScs v).mem = s.mem ∧
    (s.setScs v).eccs = s.eccs ∧ (s.setScs v).net = s.net ∧ (s.setScs v).seqs = s.seqs ∧ (s.setScs v).lines = s.lines ∧
    (s.setScs v).freeCtr = s.freeCtr ∧ (s.setScs v).queues = s.queues ∧ (s.setScs v).tb = s.tb ∧ (s.setScs v).hts = s.hts ∧
    (s.setScs v).cols = s.cols ∧ (s.setScs v).basin = s.basin ∧ (s.setScs v).dale = s.dale ∧ (s.setScs v).held = s.held ∧
    (s.setScs v).scrub = s.scrub ∧ (s.setScs v).fanout = s.fanout ∧ (s.setScs v).passed = s.passed ∧ (s.setScs v).cores = s.cores ∧
    (s.setScs v).pgs = s.pgs ∧ (s.setScs v).sets = s.sets ∧ (s.setScs v).maps = s.maps ∧ (s.setScs v).stares = s.stares ∧
    (s.setScs v).loops = s.loops ∧ (s.setScs v).gateLog = s.gateLog ∧ (s.setScs v).encs = s.encs ∧ (s.setScs v).halls = s.halls ∧
    (s.setScs v).probes = s.probes ∧ (s.setScs v).emus = s.emus ∧ (s.setScs v).slots = s.slots ∧ (s.setScs v).csiSkip = s.csiSkip ∧
    (s.setScs v).pipesOff = s.pipesOff ∧ (s.setScs v).taps = s.taps ∧ (s.setScs v).i2cs = s.i2cs ∧ (s.setScs v).auxs = s.auxs ∧
    (s.setScs v).auxMoves = s.auxMoves ∧ (s.setScs v).auxStops = s.auxStops ∧ (s.setScs v).auxNext = s.auxNext ∧
    (s.setScs v).lanes = s.lanes ∧ (s.setScs v).links = s.links ∧ (s.setScs v).keySlots = s.keySlots ∧ (s.setScs v).wins = s.wins ∧
    (s.setScs v).ups = s.ups ∧ (s.setScs v).ptp = s.ptp ∧ (s.setScs v).host = s.host ∧ (s.setScs v).dramBanks = s.dramBanks ∧
    (s.setScs v).dramRanks = s.dramRanks ∧ (s.setScs v).dramChans = s.dramChans ∧ (s.setScs v).raaimt = s.raaimt ∧
    (s.setScs v).raammt = s.raammt ∧ (s.setScs v).gorge = s.gorge ∧ (s.setScs v).gorgeSaves = s.gorgeSaves ∧ (s.setScs v).holds = s.holds ∧
    (s.setScs v).wake = s.wake ∧ (s.setScs v).vault = s.vault ∧ (s.setScs v).house = s.house ∧ (s.setScs v).flash = s.flash ∧
    (s.setScs v).keyHashes = s.keyHashes ∧ (s.setScs v).boot = s.boot :=
  ⟨rfl, rfl, rfl, rfl, rfl, rfl, rfl, rfl, rfl, rfl, rfl, rfl, rfl, rfl, rfl, rfl, rfl, rfl, rfl, rfl, rfl, rfl, rfl, rfl, rfl, rfl, rfl,
   rfl, rfl, rfl, rfl, rfl, rfl, rfl, rfl, rfl, rfl, rfl, rfl, rfl, rfl, rfl, rfl, rfl, rfl, rfl, rfl, rfl, rfl, rfl, rfl, rfl, rfl, rfl,
   rfl, rfl, rfl, rfl, rfl, rfl, rfl⟩

@[simp] theorem State.setEncs_fields (s : State) (v : List (Nat × EncSt)) :
    (s.setEncs v).encs = v ∧ (s.setEncs v).pending = s.pending ∧ (s.setEncs v).mt = s.mt ∧ (s.setEncs v).cw = s.cw ∧
    (s.setEncs v).mem = s.mem ∧ (s.setEncs v).eccs = s.eccs ∧ (s.setEncs v).net = s.net ∧ (s.setEncs v).seqs = s.seqs ∧
    (s.setEncs v).lines = s.lines ∧ (s.setEncs v).freeCtr = s.freeCtr ∧ (s.setEncs v).queues = s.queues ∧ (s.setEncs v).tb = s.tb ∧
    (s.setEncs v).hts = s.hts ∧ (s.setEncs v).cols = s.cols ∧ (s.setEncs v).basin = s.basin ∧ (s.setEncs v).dale = s.dale ∧
    (s.setEncs v).held = s.held ∧ (s.setEncs v).scrub = s.scrub ∧ (s.setEncs v).fanout = s.fanout ∧ (s.setEncs v).passed = s.passed ∧
    (s.setEncs v).cores = s.cores ∧ (s.setEncs v).pgs = s.pgs ∧ (s.setEncs v).sets = s.sets ∧ (s.setEncs v).maps = s.maps ∧
    (s.setEncs v).stares = s.stares ∧ (s.setEncs v).loops = s.loops ∧ (s.setEncs v).gateLog = s.gateLog ∧ (s.setEncs v).scs = s.scs ∧
    (s.setEncs v).halls = s.halls ∧ (s.setEncs v).probes = s.probes ∧ (s.setEncs v).emus = s.emus ∧ (s.setEncs v).slots = s.slots ∧
    (s.setEncs v).csiSkip = s.csiSkip ∧ (s.setEncs v).pipesOff = s.pipesOff ∧ (s.setEncs v).taps = s.taps ∧ (s.setEncs v).i2cs = s.i2cs ∧
    (s.setEncs v).auxs = s.auxs ∧ (s.setEncs v).auxMoves = s.auxMoves ∧ (s.setEncs v).auxStops = s.auxStops ∧
    (s.setEncs v).auxNext = s.auxNext ∧ (s.setEncs v).lanes = s.lanes ∧ (s.setEncs v).links = s.links ∧ (s.setEncs v).keySlots = s.keySlots ∧
    (s.setEncs v).wins = s.wins ∧ (s.setEncs v).ups = s.ups ∧ (s.setEncs v).ptp = s.ptp ∧ (s.setEncs v).host = s.host ∧
    (s.setEncs v).dramBanks = s.dramBanks ∧ (s.setEncs v).dramRanks = s.dramRanks ∧ (s.setEncs v).dramChans = s.dramChans ∧
    (s.setEncs v).raaimt = s.raaimt ∧ (s.setEncs v).raammt = s.raammt ∧ (s.setEncs v).gorge = s.gorge ∧
    (s.setEncs v).gorgeSaves = s.gorgeSaves ∧ (s.setEncs v).holds = s.holds ∧ (s.setEncs v).wake = s.wake ∧ (s.setEncs v).vault = s.vault ∧
    (s.setEncs v).house = s.house ∧ (s.setEncs v).flash = s.flash ∧ (s.setEncs v).keyHashes = s.keyHashes ∧ (s.setEncs v).boot = s.boot :=
  ⟨rfl, rfl, rfl, rfl, rfl, rfl, rfl, rfl, rfl, rfl, rfl, rfl, rfl, rfl, rfl, rfl, rfl, rfl, rfl, rfl, rfl, rfl, rfl, rfl, rfl, rfl, rfl,
   rfl, rfl, rfl, rfl, rfl, rfl, rfl, rfl, rfl, rfl, rfl, rfl, rfl, rfl, rfl, rfl, rfl, rfl, rfl, rfl, rfl, rfl, rfl, rfl, rfl, rfl, rfl,
   rfl, rfl, rfl, rfl, rfl, rfl, rfl⟩

@[simp] theorem State.setHalls_fields (s : State) (v : List (Nat × HallSt)) :
    (s.setHalls v).halls = v ∧ (s.setHalls v).pending = s.pending ∧ (s.setHalls v).mt = s.mt ∧ (s.setHalls v).cw = s.cw ∧
    (s.setHalls v).mem = s.mem ∧ (s.setHalls v).eccs = s.eccs ∧ (s.setHalls v).net = s.net ∧ (s.setHalls v).seqs = s.seqs ∧
    (s.setHalls v).lines = s.lines ∧ (s.setHalls v).freeCtr = s.freeCtr ∧ (s.setHalls v).queues = s.queues ∧ (s.setHalls v).tb = s.tb ∧
    (s.setHalls v).hts = s.hts ∧ (s.setHalls v).cols = s.cols ∧ (s.setHalls v).basin = s.basin ∧ (s.setHalls v).dale = s.dale ∧
    (s.setHalls v).held = s.held ∧ (s.setHalls v).scrub = s.scrub ∧ (s.setHalls v).fanout = s.fanout ∧ (s.setHalls v).passed = s.passed ∧
    (s.setHalls v).cores = s.cores ∧ (s.setHalls v).pgs = s.pgs ∧ (s.setHalls v).sets = s.sets ∧ (s.setHalls v).maps = s.maps ∧
    (s.setHalls v).stares = s.stares ∧ (s.setHalls v).loops = s.loops ∧ (s.setHalls v).gateLog = s.gateLog ∧ (s.setHalls v).scs = s.scs ∧
    (s.setHalls v).encs = s.encs ∧ (s.setHalls v).probes = s.probes ∧ (s.setHalls v).emus = s.emus ∧ (s.setHalls v).slots = s.slots ∧
    (s.setHalls v).csiSkip = s.csiSkip ∧ (s.setHalls v).pipesOff = s.pipesOff ∧ (s.setHalls v).taps = s.taps ∧ (s.setHalls v).i2cs = s.i2cs ∧
    (s.setHalls v).auxs = s.auxs ∧ (s.setHalls v).auxMoves = s.auxMoves ∧ (s.setHalls v).auxStops = s.auxStops ∧
    (s.setHalls v).auxNext = s.auxNext ∧ (s.setHalls v).lanes = s.lanes ∧ (s.setHalls v).links = s.links ∧
    (s.setHalls v).keySlots = s.keySlots ∧ (s.setHalls v).wins = s.wins ∧ (s.setHalls v).ups = s.ups ∧ (s.setHalls v).ptp = s.ptp ∧
    (s.setHalls v).host = s.host ∧ (s.setHalls v).dramBanks = s.dramBanks ∧ (s.setHalls v).dramRanks = s.dramRanks ∧
    (s.setHalls v).dramChans = s.dramChans ∧ (s.setHalls v).raaimt = s.raaimt ∧ (s.setHalls v).raammt = s.raammt ∧
    (s.setHalls v).gorge = s.gorge ∧ (s.setHalls v).gorgeSaves = s.gorgeSaves ∧ (s.setHalls v).holds = s.holds ∧
    (s.setHalls v).wake = s.wake ∧ (s.setHalls v).vault = s.vault ∧ (s.setHalls v).house = s.house ∧ (s.setHalls v).flash = s.flash ∧
    (s.setHalls v).keyHashes = s.keyHashes ∧ (s.setHalls v).boot = s.boot :=
  ⟨rfl, rfl, rfl, rfl, rfl, rfl, rfl, rfl, rfl, rfl, rfl, rfl, rfl, rfl, rfl, rfl, rfl, rfl, rfl, rfl, rfl, rfl, rfl, rfl, rfl, rfl, rfl,
   rfl, rfl, rfl, rfl, rfl, rfl, rfl, rfl, rfl, rfl, rfl, rfl, rfl, rfl, rfl, rfl, rfl, rfl, rfl, rfl, rfl, rfl, rfl, rfl, rfl, rfl, rfl,
   rfl, rfl, rfl, rfl, rfl, rfl, rfl⟩

@[simp] theorem State.setProbes_fields (s : State) (v : List (Nat × ProbeSt)) :
    (s.setProbes v).probes = v ∧ (s.setProbes v).pending = s.pending ∧ (s.setProbes v).mt = s.mt ∧ (s.setProbes v).cw = s.cw ∧
    (s.setProbes v).mem = s.mem ∧ (s.setProbes v).eccs = s.eccs ∧ (s.setProbes v).net = s.net ∧ (s.setProbes v).seqs = s.seqs ∧
    (s.setProbes v).lines = s.lines ∧ (s.setProbes v).freeCtr = s.freeCtr ∧ (s.setProbes v).queues = s.queues ∧ (s.setProbes v).tb = s.tb ∧
    (s.setProbes v).hts = s.hts ∧ (s.setProbes v).cols = s.cols ∧ (s.setProbes v).basin = s.basin ∧ (s.setProbes v).dale = s.dale ∧
    (s.setProbes v).held = s.held ∧ (s.setProbes v).scrub = s.scrub ∧ (s.setProbes v).fanout = s.fanout ∧ (s.setProbes v).passed = s.passed ∧
    (s.setProbes v).cores = s.cores ∧ (s.setProbes v).pgs = s.pgs ∧ (s.setProbes v).sets = s.sets ∧ (s.setProbes v).maps = s.maps ∧
    (s.setProbes v).stares = s.stares ∧ (s.setProbes v).loops = s.loops ∧ (s.setProbes v).gateLog = s.gateLog ∧ (s.setProbes v).scs = s.scs ∧
    (s.setProbes v).encs = s.encs ∧ (s.setProbes v).halls = s.halls ∧ (s.setProbes v).emus = s.emus ∧ (s.setProbes v).slots = s.slots ∧
    (s.setProbes v).csiSkip = s.csiSkip ∧ (s.setProbes v).pipesOff = s.pipesOff ∧ (s.setProbes v).taps = s.taps ∧
    (s.setProbes v).i2cs = s.i2cs ∧ (s.setProbes v).auxs = s.auxs ∧ (s.setProbes v).auxMoves = s.auxMoves ∧
    (s.setProbes v).auxStops = s.auxStops ∧ (s.setProbes v).auxNext = s.auxNext ∧ (s.setProbes v).lanes = s.lanes ∧
    (s.setProbes v).links = s.links ∧ (s.setProbes v).keySlots = s.keySlots ∧ (s.setProbes v).wins = s.wins ∧ (s.setProbes v).ups = s.ups ∧
    (s.setProbes v).ptp = s.ptp ∧ (s.setProbes v).host = s.host ∧ (s.setProbes v).dramBanks = s.dramBanks ∧
    (s.setProbes v).dramRanks = s.dramRanks ∧ (s.setProbes v).dramChans = s.dramChans ∧ (s.setProbes v).raaimt = s.raaimt ∧
    (s.setProbes v).raammt = s.raammt ∧ (s.setProbes v).gorge = s.gorge ∧ (s.setProbes v).gorgeSaves = s.gorgeSaves ∧
    (s.setProbes v).holds = s.holds ∧ (s.setProbes v).wake = s.wake ∧ (s.setProbes v).vault = s.vault ∧ (s.setProbes v).house = s.house ∧
    (s.setProbes v).flash = s.flash ∧ (s.setProbes v).keyHashes = s.keyHashes ∧ (s.setProbes v).boot = s.boot :=
  ⟨rfl, rfl, rfl, rfl, rfl, rfl, rfl, rfl, rfl, rfl, rfl, rfl, rfl, rfl, rfl, rfl, rfl, rfl, rfl, rfl, rfl, rfl, rfl, rfl, rfl, rfl, rfl,
   rfl, rfl, rfl, rfl, rfl, rfl, rfl, rfl, rfl, rfl, rfl, rfl, rfl, rfl, rfl, rfl, rfl, rfl, rfl, rfl, rfl, rfl, rfl, rfl, rfl, rfl, rfl,
   rfl, rfl, rfl, rfl, rfl, rfl, rfl⟩

@[simp] theorem State.setEmus_fields (s : State) (v : List (Nat × EmuSt)) :
    (s.setEmus v).emus = v ∧ (s.setEmus v).pending = s.pending ∧ (s.setEmus v).mt = s.mt ∧ (s.setEmus v).cw = s.cw ∧
    (s.setEmus v).mem = s.mem ∧ (s.setEmus v).eccs = s.eccs ∧ (s.setEmus v).net = s.net ∧ (s.setEmus v).seqs = s.seqs ∧
    (s.setEmus v).lines = s.lines ∧ (s.setEmus v).freeCtr = s.freeCtr ∧ (s.setEmus v).queues = s.queues ∧ (s.setEmus v).tb = s.tb ∧
    (s.setEmus v).hts = s.hts ∧ (s.setEmus v).cols = s.cols ∧ (s.setEmus v).basin = s.basin ∧ (s.setEmus v).dale = s.dale ∧
    (s.setEmus v).held = s.held ∧ (s.setEmus v).scrub = s.scrub ∧ (s.setEmus v).fanout = s.fanout ∧ (s.setEmus v).passed = s.passed ∧
    (s.setEmus v).cores = s.cores ∧ (s.setEmus v).pgs = s.pgs ∧ (s.setEmus v).sets = s.sets ∧ (s.setEmus v).maps = s.maps ∧
    (s.setEmus v).stares = s.stares ∧ (s.setEmus v).loops = s.loops ∧ (s.setEmus v).gateLog = s.gateLog ∧ (s.setEmus v).scs = s.scs ∧
    (s.setEmus v).encs = s.encs ∧ (s.setEmus v).halls = s.halls ∧ (s.setEmus v).probes = s.probes ∧ (s.setEmus v).slots = s.slots ∧
    (s.setEmus v).csiSkip = s.csiSkip ∧ (s.setEmus v).pipesOff = s.pipesOff ∧ (s.setEmus v).taps = s.taps ∧ (s.setEmus v).i2cs = s.i2cs ∧
    (s.setEmus v).auxs = s.auxs ∧ (s.setEmus v).auxMoves = s.auxMoves ∧ (s.setEmus v).auxStops = s.auxStops ∧
    (s.setEmus v).auxNext = s.auxNext ∧ (s.setEmus v).lanes = s.lanes ∧ (s.setEmus v).links = s.links ∧ (s.setEmus v).keySlots = s.keySlots ∧
    (s.setEmus v).wins = s.wins ∧ (s.setEmus v).ups = s.ups ∧ (s.setEmus v).ptp = s.ptp ∧ (s.setEmus v).host = s.host ∧
    (s.setEmus v).dramBanks = s.dramBanks ∧ (s.setEmus v).dramRanks = s.dramRanks ∧ (s.setEmus v).dramChans = s.dramChans ∧
    (s.setEmus v).raaimt = s.raaimt ∧ (s.setEmus v).raammt = s.raammt ∧ (s.setEmus v).gorge = s.gorge ∧
    (s.setEmus v).gorgeSaves = s.gorgeSaves ∧ (s.setEmus v).holds = s.holds ∧ (s.setEmus v).wake = s.wake ∧ (s.setEmus v).vault = s.vault ∧
    (s.setEmus v).house = s.house ∧ (s.setEmus v).flash = s.flash ∧ (s.setEmus v).keyHashes = s.keyHashes ∧ (s.setEmus v).boot = s.boot :=
  ⟨rfl, rfl, rfl, rfl, rfl, rfl, rfl, rfl, rfl, rfl, rfl, rfl, rfl, rfl, rfl, rfl, rfl, rfl, rfl, rfl, rfl, rfl, rfl, rfl, rfl, rfl, rfl,
   rfl, rfl, rfl, rfl, rfl, rfl, rfl, rfl, rfl, rfl, rfl, rfl, rfl, rfl, rfl, rfl, rfl, rfl, rfl, rfl, rfl, rfl, rfl, rfl, rfl, rfl, rfl,
   rfl, rfl, rfl, rfl, rfl, rfl, rfl⟩

@[simp] theorem State.setSlots_fields (s : State) (v : List (Nat × Slot)) :
    (s.setSlots v).slots = v ∧ (s.setSlots v).pending = s.pending ∧ (s.setSlots v).mt = s.mt ∧ (s.setSlots v).cw = s.cw ∧
    (s.setSlots v).mem = s.mem ∧ (s.setSlots v).eccs = s.eccs ∧ (s.setSlots v).net = s.net ∧ (s.setSlots v).seqs = s.seqs ∧
    (s.setSlots v).lines = s.lines ∧ (s.setSlots v).freeCtr = s.freeCtr ∧ (s.setSlots v).queues = s.queues ∧ (s.setSlots v).tb = s.tb ∧
    (s.setSlots v).hts = s.hts ∧ (s.setSlots v).cols = s.cols ∧ (s.setSlots v).basin = s.basin ∧ (s.setSlots v).dale = s.dale ∧
    (s.setSlots v).held = s.held ∧ (s.setSlots v).scrub = s.scrub ∧ (s.setSlots v).fanout = s.fanout ∧ (s.setSlots v).passed = s.passed ∧
    (s.setSlots v).cores = s.cores ∧ (s.setSlots v).pgs = s.pgs ∧ (s.setSlots v).sets = s.sets ∧ (s.setSlots v).maps = s.maps ∧
    (s.setSlots v).stares = s.stares ∧ (s.setSlots v).loops = s.loops ∧ (s.setSlots v).gateLog = s.gateLog ∧ (s.setSlots v).scs = s.scs ∧
    (s.setSlots v).encs = s.encs ∧ (s.setSlots v).halls = s.halls ∧ (s.setSlots v).probes = s.probes ∧ (s.setSlots v).emus = s.emus ∧
    (s.setSlots v).csiSkip = s.csiSkip ∧ (s.setSlots v).pipesOff = s.pipesOff ∧ (s.setSlots v).taps = s.taps ∧ (s.setSlots v).i2cs = s.i2cs ∧
    (s.setSlots v).auxs = s.auxs ∧ (s.setSlots v).auxMoves = s.auxMoves ∧ (s.setSlots v).auxStops = s.auxStops ∧
    (s.setSlots v).auxNext = s.auxNext ∧ (s.setSlots v).lanes = s.lanes ∧ (s.setSlots v).links = s.links ∧
    (s.setSlots v).keySlots = s.keySlots ∧ (s.setSlots v).wins = s.wins ∧ (s.setSlots v).ups = s.ups ∧ (s.setSlots v).ptp = s.ptp ∧
    (s.setSlots v).host = s.host ∧ (s.setSlots v).dramBanks = s.dramBanks ∧ (s.setSlots v).dramRanks = s.dramRanks ∧
    (s.setSlots v).dramChans = s.dramChans ∧ (s.setSlots v).raaimt = s.raaimt ∧ (s.setSlots v).raammt = s.raammt ∧
    (s.setSlots v).gorge = s.gorge ∧ (s.setSlots v).gorgeSaves = s.gorgeSaves ∧ (s.setSlots v).holds = s.holds ∧
    (s.setSlots v).wake = s.wake ∧ (s.setSlots v).vault = s.vault ∧ (s.setSlots v).house = s.house ∧ (s.setSlots v).flash = s.flash ∧
    (s.setSlots v).keyHashes = s.keyHashes ∧ (s.setSlots v).boot = s.boot :=
  ⟨rfl, rfl, rfl, rfl, rfl, rfl, rfl, rfl, rfl, rfl, rfl, rfl, rfl, rfl, rfl, rfl, rfl, rfl, rfl, rfl, rfl, rfl, rfl, rfl, rfl, rfl, rfl,
   rfl, rfl, rfl, rfl, rfl, rfl, rfl, rfl, rfl, rfl, rfl, rfl, rfl, rfl, rfl, rfl, rfl, rfl, rfl, rfl, rfl, rfl, rfl, rfl, rfl, rfl, rfl,
   rfl, rfl, rfl, rfl, rfl, rfl, rfl⟩

@[simp] theorem State.setCsiSkip_fields (s : State) (v : List Nat) :
    (s.setCsiSkip v).csiSkip = v ∧ (s.setCsiSkip v).pending = s.pending ∧ (s.setCsiSkip v).mt = s.mt ∧ (s.setCsiSkip v).cw = s.cw ∧
    (s.setCsiSkip v).mem = s.mem ∧ (s.setCsiSkip v).eccs = s.eccs ∧ (s.setCsiSkip v).net = s.net ∧ (s.setCsiSkip v).seqs = s.seqs ∧
    (s.setCsiSkip v).lines = s.lines ∧ (s.setCsiSkip v).freeCtr = s.freeCtr ∧ (s.setCsiSkip v).queues = s.queues ∧
    (s.setCsiSkip v).tb = s.tb ∧ (s.setCsiSkip v).hts = s.hts ∧ (s.setCsiSkip v).cols = s.cols ∧ (s.setCsiSkip v).basin = s.basin ∧
    (s.setCsiSkip v).dale = s.dale ∧ (s.setCsiSkip v).held = s.held ∧ (s.setCsiSkip v).scrub = s.scrub ∧ (s.setCsiSkip v).fanout = s.fanout ∧
    (s.setCsiSkip v).passed = s.passed ∧ (s.setCsiSkip v).cores = s.cores ∧ (s.setCsiSkip v).pgs = s.pgs ∧ (s.setCsiSkip v).sets = s.sets ∧
    (s.setCsiSkip v).maps = s.maps ∧ (s.setCsiSkip v).stares = s.stares ∧ (s.setCsiSkip v).loops = s.loops ∧
    (s.setCsiSkip v).gateLog = s.gateLog ∧ (s.setCsiSkip v).scs = s.scs ∧ (s.setCsiSkip v).encs = s.encs ∧ (s.setCsiSkip v).halls = s.halls ∧
    (s.setCsiSkip v).probes = s.probes ∧ (s.setCsiSkip v).emus = s.emus ∧ (s.setCsiSkip v).slots = s.slots ∧
    (s.setCsiSkip v).pipesOff = s.pipesOff ∧ (s.setCsiSkip v).taps = s.taps ∧ (s.setCsiSkip v).i2cs = s.i2cs ∧
    (s.setCsiSkip v).auxs = s.auxs ∧ (s.setCsiSkip v).auxMoves = s.auxMoves ∧ (s.setCsiSkip v).auxStops = s.auxStops ∧
    (s.setCsiSkip v).auxNext = s.auxNext ∧ (s.setCsiSkip v).lanes = s.lanes ∧ (s.setCsiSkip v).links = s.links ∧
    (s.setCsiSkip v).keySlots = s.keySlots ∧ (s.setCsiSkip v).wins = s.wins ∧ (s.setCsiSkip v).ups = s.ups ∧ (s.setCsiSkip v).ptp = s.ptp ∧
    (s.setCsiSkip v).host = s.host ∧ (s.setCsiSkip v).dramBanks = s.dramBanks ∧ (s.setCsiSkip v).dramRanks = s.dramRanks ∧
    (s.setCsiSkip v).dramChans = s.dramChans ∧ (s.setCsiSkip v).raaimt = s.raaimt ∧ (s.setCsiSkip v).raammt = s.raammt ∧
    (s.setCsiSkip v).gorge = s.gorge ∧ (s.setCsiSkip v).gorgeSaves = s.gorgeSaves ∧ (s.setCsiSkip v).holds = s.holds ∧
    (s.setCsiSkip v).wake = s.wake ∧ (s.setCsiSkip v).vault = s.vault ∧ (s.setCsiSkip v).house = s.house ∧ (s.setCsiSkip v).flash = s.flash ∧
    (s.setCsiSkip v).keyHashes = s.keyHashes ∧ (s.setCsiSkip v).boot = s.boot :=
  ⟨rfl, rfl, rfl, rfl, rfl, rfl, rfl, rfl, rfl, rfl, rfl, rfl, rfl, rfl, rfl, rfl, rfl, rfl, rfl, rfl, rfl, rfl, rfl, rfl, rfl, rfl, rfl,
   rfl, rfl, rfl, rfl, rfl, rfl, rfl, rfl, rfl, rfl, rfl, rfl, rfl, rfl, rfl, rfl, rfl, rfl, rfl, rfl, rfl, rfl, rfl, rfl, rfl, rfl, rfl,
   rfl, rfl, rfl, rfl, rfl, rfl, rfl⟩

@[simp] theorem State.setPipesOff_fields (s : State) (v : List Nat) :
    (s.setPipesOff v).pipesOff = v ∧ (s.setPipesOff v).pending = s.pending ∧ (s.setPipesOff v).mt = s.mt ∧ (s.setPipesOff v).cw = s.cw ∧
    (s.setPipesOff v).mem = s.mem ∧ (s.setPipesOff v).eccs = s.eccs ∧ (s.setPipesOff v).net = s.net ∧ (s.setPipesOff v).seqs = s.seqs ∧
    (s.setPipesOff v).lines = s.lines ∧ (s.setPipesOff v).freeCtr = s.freeCtr ∧ (s.setPipesOff v).queues = s.queues ∧
    (s.setPipesOff v).tb = s.tb ∧ (s.setPipesOff v).hts = s.hts ∧ (s.setPipesOff v).cols = s.cols ∧ (s.setPipesOff v).basin = s.basin ∧
    (s.setPipesOff v).dale = s.dale ∧ (s.setPipesOff v).held = s.held ∧ (s.setPipesOff v).scrub = s.scrub ∧
    (s.setPipesOff v).fanout = s.fanout ∧ (s.setPipesOff v).passed = s.passed ∧ (s.setPipesOff v).cores = s.cores ∧
    (s.setPipesOff v).pgs = s.pgs ∧ (s.setPipesOff v).sets = s.sets ∧ (s.setPipesOff v).maps = s.maps ∧ (s.setPipesOff v).stares = s.stares ∧
    (s.setPipesOff v).loops = s.loops ∧ (s.setPipesOff v).gateLog = s.gateLog ∧ (s.setPipesOff v).scs = s.scs ∧
    (s.setPipesOff v).encs = s.encs ∧ (s.setPipesOff v).halls = s.halls ∧ (s.setPipesOff v).probes = s.probes ∧
    (s.setPipesOff v).emus = s.emus ∧ (s.setPipesOff v).slots = s.slots ∧ (s.setPipesOff v).csiSkip = s.csiSkip ∧
    (s.setPipesOff v).taps = s.taps ∧ (s.setPipesOff v).i2cs = s.i2cs ∧ (s.setPipesOff v).auxs = s.auxs ∧
    (s.setPipesOff v).auxMoves = s.auxMoves ∧ (s.setPipesOff v).auxStops = s.auxStops ∧ (s.setPipesOff v).auxNext = s.auxNext ∧
    (s.setPipesOff v).lanes = s.lanes ∧ (s.setPipesOff v).links = s.links ∧ (s.setPipesOff v).keySlots = s.keySlots ∧
    (s.setPipesOff v).wins = s.wins ∧ (s.setPipesOff v).ups = s.ups ∧ (s.setPipesOff v).ptp = s.ptp ∧ (s.setPipesOff v).host = s.host ∧
    (s.setPipesOff v).dramBanks = s.dramBanks ∧ (s.setPipesOff v).dramRanks = s.dramRanks ∧ (s.setPipesOff v).dramChans = s.dramChans ∧
    (s.setPipesOff v).raaimt = s.raaimt ∧ (s.setPipesOff v).raammt = s.raammt ∧ (s.setPipesOff v).gorge = s.gorge ∧
    (s.setPipesOff v).gorgeSaves = s.gorgeSaves ∧ (s.setPipesOff v).holds = s.holds ∧ (s.setPipesOff v).wake = s.wake ∧
    (s.setPipesOff v).vault = s.vault ∧ (s.setPipesOff v).house = s.house ∧ (s.setPipesOff v).flash = s.flash ∧
    (s.setPipesOff v).keyHashes = s.keyHashes ∧ (s.setPipesOff v).boot = s.boot :=
  ⟨rfl, rfl, rfl, rfl, rfl, rfl, rfl, rfl, rfl, rfl, rfl, rfl, rfl, rfl, rfl, rfl, rfl, rfl, rfl, rfl, rfl, rfl, rfl, rfl, rfl, rfl, rfl,
   rfl, rfl, rfl, rfl, rfl, rfl, rfl, rfl, rfl, rfl, rfl, rfl, rfl, rfl, rfl, rfl, rfl, rfl, rfl, rfl, rfl, rfl, rfl, rfl, rfl, rfl, rfl,
   rfl, rfl, rfl, rfl, rfl, rfl, rfl⟩

@[simp] theorem State.setTaps_fields (s : State) (v : List (Nat × TapSt)) :
    (s.setTaps v).taps = v ∧ (s.setTaps v).pending = s.pending ∧ (s.setTaps v).mt = s.mt ∧ (s.setTaps v).cw = s.cw ∧
    (s.setTaps v).mem = s.mem ∧ (s.setTaps v).eccs = s.eccs ∧ (s.setTaps v).net = s.net ∧ (s.setTaps v).seqs = s.seqs ∧
    (s.setTaps v).lines = s.lines ∧ (s.setTaps v).freeCtr = s.freeCtr ∧ (s.setTaps v).queues = s.queues ∧ (s.setTaps v).tb = s.tb ∧
    (s.setTaps v).hts = s.hts ∧ (s.setTaps v).cols = s.cols ∧ (s.setTaps v).basin = s.basin ∧ (s.setTaps v).dale = s.dale ∧
    (s.setTaps v).held = s.held ∧ (s.setTaps v).scrub = s.scrub ∧ (s.setTaps v).fanout = s.fanout ∧ (s.setTaps v).passed = s.passed ∧
    (s.setTaps v).cores = s.cores ∧ (s.setTaps v).pgs = s.pgs ∧ (s.setTaps v).sets = s.sets ∧ (s.setTaps v).maps = s.maps ∧
    (s.setTaps v).stares = s.stares ∧ (s.setTaps v).loops = s.loops ∧ (s.setTaps v).gateLog = s.gateLog ∧ (s.setTaps v).scs = s.scs ∧
    (s.setTaps v).encs = s.encs ∧ (s.setTaps v).halls = s.halls ∧ (s.setTaps v).probes = s.probes ∧ (s.setTaps v).emus = s.emus ∧
    (s.setTaps v).slots = s.slots ∧ (s.setTaps v).csiSkip = s.csiSkip ∧ (s.setTaps v).pipesOff = s.pipesOff ∧ (s.setTaps v).i2cs = s.i2cs ∧
    (s.setTaps v).auxs = s.auxs ∧ (s.setTaps v).auxMoves = s.auxMoves ∧ (s.setTaps v).auxStops = s.auxStops ∧
    (s.setTaps v).auxNext = s.auxNext ∧ (s.setTaps v).lanes = s.lanes ∧ (s.setTaps v).links = s.links ∧ (s.setTaps v).keySlots = s.keySlots ∧
    (s.setTaps v).wins = s.wins ∧ (s.setTaps v).ups = s.ups ∧ (s.setTaps v).ptp = s.ptp ∧ (s.setTaps v).host = s.host ∧
    (s.setTaps v).dramBanks = s.dramBanks ∧ (s.setTaps v).dramRanks = s.dramRanks ∧ (s.setTaps v).dramChans = s.dramChans ∧
    (s.setTaps v).raaimt = s.raaimt ∧ (s.setTaps v).raammt = s.raammt ∧ (s.setTaps v).gorge = s.gorge ∧
    (s.setTaps v).gorgeSaves = s.gorgeSaves ∧ (s.setTaps v).holds = s.holds ∧ (s.setTaps v).wake = s.wake ∧ (s.setTaps v).vault = s.vault ∧
    (s.setTaps v).house = s.house ∧ (s.setTaps v).flash = s.flash ∧ (s.setTaps v).keyHashes = s.keyHashes ∧ (s.setTaps v).boot = s.boot :=
  ⟨rfl, rfl, rfl, rfl, rfl, rfl, rfl, rfl, rfl, rfl, rfl, rfl, rfl, rfl, rfl, rfl, rfl, rfl, rfl, rfl, rfl, rfl, rfl, rfl, rfl, rfl, rfl,
   rfl, rfl, rfl, rfl, rfl, rfl, rfl, rfl, rfl, rfl, rfl, rfl, rfl, rfl, rfl, rfl, rfl, rfl, rfl, rfl, rfl, rfl, rfl, rfl, rfl, rfl, rfl,
   rfl, rfl, rfl, rfl, rfl, rfl, rfl⟩

@[simp] theorem State.setI2cs_fields (s : State) (v : List (Nat × List I2cTxn)) :
    (s.setI2cs v).i2cs = v ∧ (s.setI2cs v).pending = s.pending ∧ (s.setI2cs v).mt = s.mt ∧ (s.setI2cs v).cw = s.cw ∧
    (s.setI2cs v).mem = s.mem ∧ (s.setI2cs v).eccs = s.eccs ∧ (s.setI2cs v).net = s.net ∧ (s.setI2cs v).seqs = s.seqs ∧
    (s.setI2cs v).lines = s.lines ∧ (s.setI2cs v).freeCtr = s.freeCtr ∧ (s.setI2cs v).queues = s.queues ∧ (s.setI2cs v).tb = s.tb ∧
    (s.setI2cs v).hts = s.hts ∧ (s.setI2cs v).cols = s.cols ∧ (s.setI2cs v).basin = s.basin ∧ (s.setI2cs v).dale = s.dale ∧
    (s.setI2cs v).held = s.held ∧ (s.setI2cs v).scrub = s.scrub ∧ (s.setI2cs v).fanout = s.fanout ∧ (s.setI2cs v).passed = s.passed ∧
    (s.setI2cs v).cores = s.cores ∧ (s.setI2cs v).pgs = s.pgs ∧ (s.setI2cs v).sets = s.sets ∧ (s.setI2cs v).maps = s.maps ∧
    (s.setI2cs v).stares = s.stares ∧ (s.setI2cs v).loops = s.loops ∧ (s.setI2cs v).gateLog = s.gateLog ∧ (s.setI2cs v).scs = s.scs ∧
    (s.setI2cs v).encs = s.encs ∧ (s.setI2cs v).halls = s.halls ∧ (s.setI2cs v).probes = s.probes ∧ (s.setI2cs v).emus = s.emus ∧
    (s.setI2cs v).slots = s.slots ∧ (s.setI2cs v).csiSkip = s.csiSkip ∧ (s.setI2cs v).pipesOff = s.pipesOff ∧ (s.setI2cs v).taps = s.taps ∧
    (s.setI2cs v).auxs = s.auxs ∧ (s.setI2cs v).auxMoves = s.auxMoves ∧ (s.setI2cs v).auxStops = s.auxStops ∧
    (s.setI2cs v).auxNext = s.auxNext ∧ (s.setI2cs v).lanes = s.lanes ∧ (s.setI2cs v).links = s.links ∧ (s.setI2cs v).keySlots = s.keySlots ∧
    (s.setI2cs v).wins = s.wins ∧ (s.setI2cs v).ups = s.ups ∧ (s.setI2cs v).ptp = s.ptp ∧ (s.setI2cs v).host = s.host ∧
    (s.setI2cs v).dramBanks = s.dramBanks ∧ (s.setI2cs v).dramRanks = s.dramRanks ∧ (s.setI2cs v).dramChans = s.dramChans ∧
    (s.setI2cs v).raaimt = s.raaimt ∧ (s.setI2cs v).raammt = s.raammt ∧ (s.setI2cs v).gorge = s.gorge ∧
    (s.setI2cs v).gorgeSaves = s.gorgeSaves ∧ (s.setI2cs v).holds = s.holds ∧ (s.setI2cs v).wake = s.wake ∧ (s.setI2cs v).vault = s.vault ∧
    (s.setI2cs v).house = s.house ∧ (s.setI2cs v).flash = s.flash ∧ (s.setI2cs v).keyHashes = s.keyHashes ∧ (s.setI2cs v).boot = s.boot :=
  ⟨rfl, rfl, rfl, rfl, rfl, rfl, rfl, rfl, rfl, rfl, rfl, rfl, rfl, rfl, rfl, rfl, rfl, rfl, rfl, rfl, rfl, rfl, rfl, rfl, rfl, rfl, rfl,
   rfl, rfl, rfl, rfl, rfl, rfl, rfl, rfl, rfl, rfl, rfl, rfl, rfl, rfl, rfl, rfl, rfl, rfl, rfl, rfl, rfl, rfl, rfl, rfl, rfl, rfl, rfl,
   rfl, rfl, rfl, rfl, rfl, rfl, rfl⟩

@[simp] theorem State.setAuxs_fields (s : State) (v : List (Nat × AuxSt)) :
    (s.setAuxs v).auxs = v ∧ (s.setAuxs v).pending = s.pending ∧ (s.setAuxs v).mt = s.mt ∧ (s.setAuxs v).cw = s.cw ∧
    (s.setAuxs v).mem = s.mem ∧ (s.setAuxs v).eccs = s.eccs ∧ (s.setAuxs v).net = s.net ∧ (s.setAuxs v).seqs = s.seqs ∧
    (s.setAuxs v).lines = s.lines ∧ (s.setAuxs v).freeCtr = s.freeCtr ∧ (s.setAuxs v).queues = s.queues ∧ (s.setAuxs v).tb = s.tb ∧
    (s.setAuxs v).hts = s.hts ∧ (s.setAuxs v).cols = s.cols ∧ (s.setAuxs v).basin = s.basin ∧ (s.setAuxs v).dale = s.dale ∧
    (s.setAuxs v).held = s.held ∧ (s.setAuxs v).scrub = s.scrub ∧ (s.setAuxs v).fanout = s.fanout ∧ (s.setAuxs v).passed = s.passed ∧
    (s.setAuxs v).cores = s.cores ∧ (s.setAuxs v).pgs = s.pgs ∧ (s.setAuxs v).sets = s.sets ∧ (s.setAuxs v).maps = s.maps ∧
    (s.setAuxs v).stares = s.stares ∧ (s.setAuxs v).loops = s.loops ∧ (s.setAuxs v).gateLog = s.gateLog ∧ (s.setAuxs v).scs = s.scs ∧
    (s.setAuxs v).encs = s.encs ∧ (s.setAuxs v).halls = s.halls ∧ (s.setAuxs v).probes = s.probes ∧ (s.setAuxs v).emus = s.emus ∧
    (s.setAuxs v).slots = s.slots ∧ (s.setAuxs v).csiSkip = s.csiSkip ∧ (s.setAuxs v).pipesOff = s.pipesOff ∧ (s.setAuxs v).taps = s.taps ∧
    (s.setAuxs v).i2cs = s.i2cs ∧ (s.setAuxs v).auxMoves = s.auxMoves ∧ (s.setAuxs v).auxStops = s.auxStops ∧
    (s.setAuxs v).auxNext = s.auxNext ∧ (s.setAuxs v).lanes = s.lanes ∧ (s.setAuxs v).links = s.links ∧ (s.setAuxs v).keySlots = s.keySlots ∧
    (s.setAuxs v).wins = s.wins ∧ (s.setAuxs v).ups = s.ups ∧ (s.setAuxs v).ptp = s.ptp ∧ (s.setAuxs v).host = s.host ∧
    (s.setAuxs v).dramBanks = s.dramBanks ∧ (s.setAuxs v).dramRanks = s.dramRanks ∧ (s.setAuxs v).dramChans = s.dramChans ∧
    (s.setAuxs v).raaimt = s.raaimt ∧ (s.setAuxs v).raammt = s.raammt ∧ (s.setAuxs v).gorge = s.gorge ∧
    (s.setAuxs v).gorgeSaves = s.gorgeSaves ∧ (s.setAuxs v).holds = s.holds ∧ (s.setAuxs v).wake = s.wake ∧ (s.setAuxs v).vault = s.vault ∧
    (s.setAuxs v).house = s.house ∧ (s.setAuxs v).flash = s.flash ∧ (s.setAuxs v).keyHashes = s.keyHashes ∧ (s.setAuxs v).boot = s.boot :=
  ⟨rfl, rfl, rfl, rfl, rfl, rfl, rfl, rfl, rfl, rfl, rfl, rfl, rfl, rfl, rfl, rfl, rfl, rfl, rfl, rfl, rfl, rfl, rfl, rfl, rfl, rfl, rfl,
   rfl, rfl, rfl, rfl, rfl, rfl, rfl, rfl, rfl, rfl, rfl, rfl, rfl, rfl, rfl, rfl, rfl, rfl, rfl, rfl, rfl, rfl, rfl, rfl, rfl, rfl, rfl,
   rfl, rfl, rfl, rfl, rfl, rfl, rfl⟩

@[simp] theorem State.setAuxMoves_fields (s : State) (v : List AuxMove) :
    (s.setAuxMoves v).auxMoves = v ∧ (s.setAuxMoves v).pending = s.pending ∧ (s.setAuxMoves v).mt = s.mt ∧ (s.setAuxMoves v).cw = s.cw ∧
    (s.setAuxMoves v).mem = s.mem ∧ (s.setAuxMoves v).eccs = s.eccs ∧ (s.setAuxMoves v).net = s.net ∧ (s.setAuxMoves v).seqs = s.seqs ∧
    (s.setAuxMoves v).lines = s.lines ∧ (s.setAuxMoves v).freeCtr = s.freeCtr ∧ (s.setAuxMoves v).queues = s.queues ∧
    (s.setAuxMoves v).tb = s.tb ∧ (s.setAuxMoves v).hts = s.hts ∧ (s.setAuxMoves v).cols = s.cols ∧ (s.setAuxMoves v).basin = s.basin ∧
    (s.setAuxMoves v).dale = s.dale ∧ (s.setAuxMoves v).held = s.held ∧ (s.setAuxMoves v).scrub = s.scrub ∧
    (s.setAuxMoves v).fanout = s.fanout ∧ (s.setAuxMoves v).passed = s.passed ∧ (s.setAuxMoves v).cores = s.cores ∧
    (s.setAuxMoves v).pgs = s.pgs ∧ (s.setAuxMoves v).sets = s.sets ∧ (s.setAuxMoves v).maps = s.maps ∧ (s.setAuxMoves v).stares = s.stares ∧
    (s.setAuxMoves v).loops = s.loops ∧ (s.setAuxMoves v).gateLog = s.gateLog ∧ (s.setAuxMoves v).scs = s.scs ∧
    (s.setAuxMoves v).encs = s.encs ∧ (s.setAuxMoves v).halls = s.halls ∧ (s.setAuxMoves v).probes = s.probes ∧
    (s.setAuxMoves v).emus = s.emus ∧ (s.setAuxMoves v).slots = s.slots ∧ (s.setAuxMoves v).csiSkip = s.csiSkip ∧
    (s.setAuxMoves v).pipesOff = s.pipesOff ∧ (s.setAuxMoves v).taps = s.taps ∧ (s.setAuxMoves v).i2cs = s.i2cs ∧
    (s.setAuxMoves v).auxs = s.auxs ∧ (s.setAuxMoves v).auxStops = s.auxStops ∧ (s.setAuxMoves v).auxNext = s.auxNext ∧
    (s.setAuxMoves v).lanes = s.lanes ∧ (s.setAuxMoves v).links = s.links ∧ (s.setAuxMoves v).keySlots = s.keySlots ∧
    (s.setAuxMoves v).wins = s.wins ∧ (s.setAuxMoves v).ups = s.ups ∧ (s.setAuxMoves v).ptp = s.ptp ∧ (s.setAuxMoves v).host = s.host ∧
    (s.setAuxMoves v).dramBanks = s.dramBanks ∧ (s.setAuxMoves v).dramRanks = s.dramRanks ∧ (s.setAuxMoves v).dramChans = s.dramChans ∧
    (s.setAuxMoves v).raaimt = s.raaimt ∧ (s.setAuxMoves v).raammt = s.raammt ∧ (s.setAuxMoves v).gorge = s.gorge ∧
    (s.setAuxMoves v).gorgeSaves = s.gorgeSaves ∧ (s.setAuxMoves v).holds = s.holds ∧ (s.setAuxMoves v).wake = s.wake ∧
    (s.setAuxMoves v).vault = s.vault ∧ (s.setAuxMoves v).house = s.house ∧ (s.setAuxMoves v).flash = s.flash ∧
    (s.setAuxMoves v).keyHashes = s.keyHashes ∧ (s.setAuxMoves v).boot = s.boot :=
  ⟨rfl, rfl, rfl, rfl, rfl, rfl, rfl, rfl, rfl, rfl, rfl, rfl, rfl, rfl, rfl, rfl, rfl, rfl, rfl, rfl, rfl, rfl, rfl, rfl, rfl, rfl, rfl,
   rfl, rfl, rfl, rfl, rfl, rfl, rfl, rfl, rfl, rfl, rfl, rfl, rfl, rfl, rfl, rfl, rfl, rfl, rfl, rfl, rfl, rfl, rfl, rfl, rfl, rfl, rfl,
   rfl, rfl, rfl, rfl, rfl, rfl, rfl⟩

@[simp] theorem State.setAuxStops_fields (s : State) (v : List (Nat × Nat × Nat)) :
    (s.setAuxStops v).auxStops = v ∧ (s.setAuxStops v).pending = s.pending ∧ (s.setAuxStops v).mt = s.mt ∧ (s.setAuxStops v).cw = s.cw ∧
    (s.setAuxStops v).mem = s.mem ∧ (s.setAuxStops v).eccs = s.eccs ∧ (s.setAuxStops v).net = s.net ∧ (s.setAuxStops v).seqs = s.seqs ∧
    (s.setAuxStops v).lines = s.lines ∧ (s.setAuxStops v).freeCtr = s.freeCtr ∧ (s.setAuxStops v).queues = s.queues ∧
    (s.setAuxStops v).tb = s.tb ∧ (s.setAuxStops v).hts = s.hts ∧ (s.setAuxStops v).cols = s.cols ∧ (s.setAuxStops v).basin = s.basin ∧
    (s.setAuxStops v).dale = s.dale ∧ (s.setAuxStops v).held = s.held ∧ (s.setAuxStops v).scrub = s.scrub ∧
    (s.setAuxStops v).fanout = s.fanout ∧ (s.setAuxStops v).passed = s.passed ∧ (s.setAuxStops v).cores = s.cores ∧
    (s.setAuxStops v).pgs = s.pgs ∧ (s.setAuxStops v).sets = s.sets ∧ (s.setAuxStops v).maps = s.maps ∧ (s.setAuxStops v).stares = s.stares ∧
    (s.setAuxStops v).loops = s.loops ∧ (s.setAuxStops v).gateLog = s.gateLog ∧ (s.setAuxStops v).scs = s.scs ∧
    (s.setAuxStops v).encs = s.encs ∧ (s.setAuxStops v).halls = s.halls ∧ (s.setAuxStops v).probes = s.probes ∧
    (s.setAuxStops v).emus = s.emus ∧ (s.setAuxStops v).slots = s.slots ∧ (s.setAuxStops v).csiSkip = s.csiSkip ∧
    (s.setAuxStops v).pipesOff = s.pipesOff ∧ (s.setAuxStops v).taps = s.taps ∧ (s.setAuxStops v).i2cs = s.i2cs ∧
    (s.setAuxStops v).auxs = s.auxs ∧ (s.setAuxStops v).auxMoves = s.auxMoves ∧ (s.setAuxStops v).auxNext = s.auxNext ∧
    (s.setAuxStops v).lanes = s.lanes ∧ (s.setAuxStops v).links = s.links ∧ (s.setAuxStops v).keySlots = s.keySlots ∧
    (s.setAuxStops v).wins = s.wins ∧ (s.setAuxStops v).ups = s.ups ∧ (s.setAuxStops v).ptp = s.ptp ∧ (s.setAuxStops v).host = s.host ∧
    (s.setAuxStops v).dramBanks = s.dramBanks ∧ (s.setAuxStops v).dramRanks = s.dramRanks ∧ (s.setAuxStops v).dramChans = s.dramChans ∧
    (s.setAuxStops v).raaimt = s.raaimt ∧ (s.setAuxStops v).raammt = s.raammt ∧ (s.setAuxStops v).gorge = s.gorge ∧
    (s.setAuxStops v).gorgeSaves = s.gorgeSaves ∧ (s.setAuxStops v).holds = s.holds ∧ (s.setAuxStops v).wake = s.wake ∧
    (s.setAuxStops v).vault = s.vault ∧ (s.setAuxStops v).house = s.house ∧ (s.setAuxStops v).flash = s.flash ∧
    (s.setAuxStops v).keyHashes = s.keyHashes ∧ (s.setAuxStops v).boot = s.boot :=
  ⟨rfl, rfl, rfl, rfl, rfl, rfl, rfl, rfl, rfl, rfl, rfl, rfl, rfl, rfl, rfl, rfl, rfl, rfl, rfl, rfl, rfl, rfl, rfl, rfl, rfl, rfl, rfl,
   rfl, rfl, rfl, rfl, rfl, rfl, rfl, rfl, rfl, rfl, rfl, rfl, rfl, rfl, rfl, rfl, rfl, rfl, rfl, rfl, rfl, rfl, rfl, rfl, rfl, rfl, rfl,
   rfl, rfl, rfl, rfl, rfl, rfl, rfl⟩

@[simp] theorem State.setAuxNext_fields (s : State) (v : Nat) :
    (s.setAuxNext v).auxNext = v ∧ (s.setAuxNext v).pending = s.pending ∧ (s.setAuxNext v).mt = s.mt ∧ (s.setAuxNext v).cw = s.cw ∧
    (s.setAuxNext v).mem = s.mem ∧ (s.setAuxNext v).eccs = s.eccs ∧ (s.setAuxNext v).net = s.net ∧ (s.setAuxNext v).seqs = s.seqs ∧
    (s.setAuxNext v).lines = s.lines ∧ (s.setAuxNext v).freeCtr = s.freeCtr ∧ (s.setAuxNext v).queues = s.queues ∧
    (s.setAuxNext v).tb = s.tb ∧ (s.setAuxNext v).hts = s.hts ∧ (s.setAuxNext v).cols = s.cols ∧ (s.setAuxNext v).basin = s.basin ∧
    (s.setAuxNext v).dale = s.dale ∧ (s.setAuxNext v).held = s.held ∧ (s.setAuxNext v).scrub = s.scrub ∧ (s.setAuxNext v).fanout = s.fanout ∧
    (s.setAuxNext v).passed = s.passed ∧ (s.setAuxNext v).cores = s.cores ∧ (s.setAuxNext v).pgs = s.pgs ∧ (s.setAuxNext v).sets = s.sets ∧
    (s.setAuxNext v).maps = s.maps ∧ (s.setAuxNext v).stares = s.stares ∧ (s.setAuxNext v).loops = s.loops ∧
    (s.setAuxNext v).gateLog = s.gateLog ∧ (s.setAuxNext v).scs = s.scs ∧ (s.setAuxNext v).encs = s.encs ∧ (s.setAuxNext v).halls = s.halls ∧
    (s.setAuxNext v).probes = s.probes ∧ (s.setAuxNext v).emus = s.emus ∧ (s.setAuxNext v).slots = s.slots ∧
    (s.setAuxNext v).csiSkip = s.csiSkip ∧ (s.setAuxNext v).pipesOff = s.pipesOff ∧ (s.setAuxNext v).taps = s.taps ∧
    (s.setAuxNext v).i2cs = s.i2cs ∧ (s.setAuxNext v).auxs = s.auxs ∧ (s.setAuxNext v).auxMoves = s.auxMoves ∧
    (s.setAuxNext v).auxStops = s.auxStops ∧ (s.setAuxNext v).lanes = s.lanes ∧ (s.setAuxNext v).links = s.links ∧
    (s.setAuxNext v).keySlots = s.keySlots ∧ (s.setAuxNext v).wins = s.wins ∧ (s.setAuxNext v).ups = s.ups ∧ (s.setAuxNext v).ptp = s.ptp ∧
    (s.setAuxNext v).host = s.host ∧ (s.setAuxNext v).dramBanks = s.dramBanks ∧ (s.setAuxNext v).dramRanks = s.dramRanks ∧
    (s.setAuxNext v).dramChans = s.dramChans ∧ (s.setAuxNext v).raaimt = s.raaimt ∧ (s.setAuxNext v).raammt = s.raammt ∧
    (s.setAuxNext v).gorge = s.gorge ∧ (s.setAuxNext v).gorgeSaves = s.gorgeSaves ∧ (s.setAuxNext v).holds = s.holds ∧
    (s.setAuxNext v).wake = s.wake ∧ (s.setAuxNext v).vault = s.vault ∧ (s.setAuxNext v).house = s.house ∧ (s.setAuxNext v).flash = s.flash ∧
    (s.setAuxNext v).keyHashes = s.keyHashes ∧ (s.setAuxNext v).boot = s.boot :=
  ⟨rfl, rfl, rfl, rfl, rfl, rfl, rfl, rfl, rfl, rfl, rfl, rfl, rfl, rfl, rfl, rfl, rfl, rfl, rfl, rfl, rfl, rfl, rfl, rfl, rfl, rfl, rfl,
   rfl, rfl, rfl, rfl, rfl, rfl, rfl, rfl, rfl, rfl, rfl, rfl, rfl, rfl, rfl, rfl, rfl, rfl, rfl, rfl, rfl, rfl, rfl, rfl, rfl, rfl, rfl,
   rfl, rfl, rfl, rfl, rfl, rfl, rfl⟩

@[simp] theorem State.setLanes_fields (s : State) (v : List (Nat × LaneSt)) :
    (s.setLanes v).lanes = v ∧ (s.setLanes v).pending = s.pending ∧ (s.setLanes v).mt = s.mt ∧ (s.setLanes v).cw = s.cw ∧
    (s.setLanes v).mem = s.mem ∧ (s.setLanes v).eccs = s.eccs ∧ (s.setLanes v).net = s.net ∧ (s.setLanes v).seqs = s.seqs ∧
    (s.setLanes v).lines = s.lines ∧ (s.setLanes v).freeCtr = s.freeCtr ∧ (s.setLanes v).queues = s.queues ∧ (s.setLanes v).tb = s.tb ∧
    (s.setLanes v).hts = s.hts ∧ (s.setLanes v).cols = s.cols ∧ (s.setLanes v).basin = s.basin ∧ (s.setLanes v).dale = s.dale ∧
    (s.setLanes v).held = s.held ∧ (s.setLanes v).scrub = s.scrub ∧ (s.setLanes v).fanout = s.fanout ∧ (s.setLanes v).passed = s.passed ∧
    (s.setLanes v).cores = s.cores ∧ (s.setLanes v).pgs = s.pgs ∧ (s.setLanes v).sets = s.sets ∧ (s.setLanes v).maps = s.maps ∧
    (s.setLanes v).stares = s.stares ∧ (s.setLanes v).loops = s.loops ∧ (s.setLanes v).gateLog = s.gateLog ∧ (s.setLanes v).scs = s.scs ∧
    (s.setLanes v).encs = s.encs ∧ (s.setLanes v).halls = s.halls ∧ (s.setLanes v).probes = s.probes ∧ (s.setLanes v).emus = s.emus ∧
    (s.setLanes v).slots = s.slots ∧ (s.setLanes v).csiSkip = s.csiSkip ∧ (s.setLanes v).pipesOff = s.pipesOff ∧
    (s.setLanes v).taps = s.taps ∧ (s.setLanes v).i2cs = s.i2cs ∧ (s.setLanes v).auxs = s.auxs ∧ (s.setLanes v).auxMoves = s.auxMoves ∧
    (s.setLanes v).auxStops = s.auxStops ∧ (s.setLanes v).auxNext = s.auxNext ∧ (s.setLanes v).links = s.links ∧
    (s.setLanes v).keySlots = s.keySlots ∧ (s.setLanes v).wins = s.wins ∧ (s.setLanes v).ups = s.ups ∧ (s.setLanes v).ptp = s.ptp ∧
    (s.setLanes v).host = s.host ∧ (s.setLanes v).dramBanks = s.dramBanks ∧ (s.setLanes v).dramRanks = s.dramRanks ∧
    (s.setLanes v).dramChans = s.dramChans ∧ (s.setLanes v).raaimt = s.raaimt ∧ (s.setLanes v).raammt = s.raammt ∧
    (s.setLanes v).gorge = s.gorge ∧ (s.setLanes v).gorgeSaves = s.gorgeSaves ∧ (s.setLanes v).holds = s.holds ∧
    (s.setLanes v).wake = s.wake ∧ (s.setLanes v).vault = s.vault ∧ (s.setLanes v).house = s.house ∧ (s.setLanes v).flash = s.flash ∧
    (s.setLanes v).keyHashes = s.keyHashes ∧ (s.setLanes v).boot = s.boot :=
  ⟨rfl, rfl, rfl, rfl, rfl, rfl, rfl, rfl, rfl, rfl, rfl, rfl, rfl, rfl, rfl, rfl, rfl, rfl, rfl, rfl, rfl, rfl, rfl, rfl, rfl, rfl, rfl,
   rfl, rfl, rfl, rfl, rfl, rfl, rfl, rfl, rfl, rfl, rfl, rfl, rfl, rfl, rfl, rfl, rfl, rfl, rfl, rfl, rfl, rfl, rfl, rfl, rfl, rfl, rfl,
   rfl, rfl, rfl, rfl, rfl, rfl, rfl⟩

@[simp] theorem State.setLinks_fields (s : State) (v : List (Nat × LinkSt)) :
    (s.setLinks v).links = v ∧ (s.setLinks v).pending = s.pending ∧ (s.setLinks v).mt = s.mt ∧ (s.setLinks v).cw = s.cw ∧
    (s.setLinks v).mem = s.mem ∧ (s.setLinks v).eccs = s.eccs ∧ (s.setLinks v).net = s.net ∧ (s.setLinks v).seqs = s.seqs ∧
    (s.setLinks v).lines = s.lines ∧ (s.setLinks v).freeCtr = s.freeCtr ∧ (s.setLinks v).queues = s.queues ∧ (s.setLinks v).tb = s.tb ∧
    (s.setLinks v).hts = s.hts ∧ (s.setLinks v).cols = s.cols ∧ (s.setLinks v).basin = s.basin ∧ (s.setLinks v).dale = s.dale ∧
    (s.setLinks v).held = s.held ∧ (s.setLinks v).scrub = s.scrub ∧ (s.setLinks v).fanout = s.fanout ∧ (s.setLinks v).passed = s.passed ∧
    (s.setLinks v).cores = s.cores ∧ (s.setLinks v).pgs = s.pgs ∧ (s.setLinks v).sets = s.sets ∧ (s.setLinks v).maps = s.maps ∧
    (s.setLinks v).stares = s.stares ∧ (s.setLinks v).loops = s.loops ∧ (s.setLinks v).gateLog = s.gateLog ∧ (s.setLinks v).scs = s.scs ∧
    (s.setLinks v).encs = s.encs ∧ (s.setLinks v).halls = s.halls ∧ (s.setLinks v).probes = s.probes ∧ (s.setLinks v).emus = s.emus ∧
    (s.setLinks v).slots = s.slots ∧ (s.setLinks v).csiSkip = s.csiSkip ∧ (s.setLinks v).pipesOff = s.pipesOff ∧
    (s.setLinks v).taps = s.taps ∧ (s.setLinks v).i2cs = s.i2cs ∧ (s.setLinks v).auxs = s.auxs ∧ (s.setLinks v).auxMoves = s.auxMoves ∧
    (s.setLinks v).auxStops = s.auxStops ∧ (s.setLinks v).auxNext = s.auxNext ∧ (s.setLinks v).lanes = s.lanes ∧
    (s.setLinks v).keySlots = s.keySlots ∧ (s.setLinks v).wins = s.wins ∧ (s.setLinks v).ups = s.ups ∧ (s.setLinks v).ptp = s.ptp ∧
    (s.setLinks v).host = s.host ∧ (s.setLinks v).dramBanks = s.dramBanks ∧ (s.setLinks v).dramRanks = s.dramRanks ∧
    (s.setLinks v).dramChans = s.dramChans ∧ (s.setLinks v).raaimt = s.raaimt ∧ (s.setLinks v).raammt = s.raammt ∧
    (s.setLinks v).gorge = s.gorge ∧ (s.setLinks v).gorgeSaves = s.gorgeSaves ∧ (s.setLinks v).holds = s.holds ∧
    (s.setLinks v).wake = s.wake ∧ (s.setLinks v).vault = s.vault ∧ (s.setLinks v).house = s.house ∧ (s.setLinks v).flash = s.flash ∧
    (s.setLinks v).keyHashes = s.keyHashes ∧ (s.setLinks v).boot = s.boot :=
  ⟨rfl, rfl, rfl, rfl, rfl, rfl, rfl, rfl, rfl, rfl, rfl, rfl, rfl, rfl, rfl, rfl, rfl, rfl, rfl, rfl, rfl, rfl, rfl, rfl, rfl, rfl, rfl,
   rfl, rfl, rfl, rfl, rfl, rfl, rfl, rfl, rfl, rfl, rfl, rfl, rfl, rfl, rfl, rfl, rfl, rfl, rfl, rfl, rfl, rfl, rfl, rfl, rfl, rfl, rfl,
   rfl, rfl, rfl, rfl, rfl, rfl, rfl⟩

@[simp] theorem State.setKeySlots_fields (s : State) (v : List (Nat × KeySlot)) :
    (s.setKeySlots v).keySlots = v ∧ (s.setKeySlots v).pending = s.pending ∧ (s.setKeySlots v).mt = s.mt ∧ (s.setKeySlots v).cw = s.cw ∧
    (s.setKeySlots v).mem = s.mem ∧ (s.setKeySlots v).eccs = s.eccs ∧ (s.setKeySlots v).net = s.net ∧ (s.setKeySlots v).seqs = s.seqs ∧
    (s.setKeySlots v).lines = s.lines ∧ (s.setKeySlots v).freeCtr = s.freeCtr ∧ (s.setKeySlots v).queues = s.queues ∧
    (s.setKeySlots v).tb = s.tb ∧ (s.setKeySlots v).hts = s.hts ∧ (s.setKeySlots v).cols = s.cols ∧ (s.setKeySlots v).basin = s.basin ∧
    (s.setKeySlots v).dale = s.dale ∧ (s.setKeySlots v).held = s.held ∧ (s.setKeySlots v).scrub = s.scrub ∧
    (s.setKeySlots v).fanout = s.fanout ∧ (s.setKeySlots v).passed = s.passed ∧ (s.setKeySlots v).cores = s.cores ∧
    (s.setKeySlots v).pgs = s.pgs ∧ (s.setKeySlots v).sets = s.sets ∧ (s.setKeySlots v).maps = s.maps ∧ (s.setKeySlots v).stares = s.stares ∧
    (s.setKeySlots v).loops = s.loops ∧ (s.setKeySlots v).gateLog = s.gateLog ∧ (s.setKeySlots v).scs = s.scs ∧
    (s.setKeySlots v).encs = s.encs ∧ (s.setKeySlots v).halls = s.halls ∧ (s.setKeySlots v).probes = s.probes ∧
    (s.setKeySlots v).emus = s.emus ∧ (s.setKeySlots v).slots = s.slots ∧ (s.setKeySlots v).csiSkip = s.csiSkip ∧
    (s.setKeySlots v).pipesOff = s.pipesOff ∧ (s.setKeySlots v).taps = s.taps ∧ (s.setKeySlots v).i2cs = s.i2cs ∧
    (s.setKeySlots v).auxs = s.auxs ∧ (s.setKeySlots v).auxMoves = s.auxMoves ∧ (s.setKeySlots v).auxStops = s.auxStops ∧
    (s.setKeySlots v).auxNext = s.auxNext ∧ (s.setKeySlots v).lanes = s.lanes ∧ (s.setKeySlots v).links = s.links ∧
    (s.setKeySlots v).wins = s.wins ∧ (s.setKeySlots v).ups = s.ups ∧ (s.setKeySlots v).ptp = s.ptp ∧ (s.setKeySlots v).host = s.host ∧
    (s.setKeySlots v).dramBanks = s.dramBanks ∧ (s.setKeySlots v).dramRanks = s.dramRanks ∧ (s.setKeySlots v).dramChans = s.dramChans ∧
    (s.setKeySlots v).raaimt = s.raaimt ∧ (s.setKeySlots v).raammt = s.raammt ∧ (s.setKeySlots v).gorge = s.gorge ∧
    (s.setKeySlots v).gorgeSaves = s.gorgeSaves ∧ (s.setKeySlots v).holds = s.holds ∧ (s.setKeySlots v).wake = s.wake ∧
    (s.setKeySlots v).vault = s.vault ∧ (s.setKeySlots v).house = s.house ∧ (s.setKeySlots v).flash = s.flash ∧
    (s.setKeySlots v).keyHashes = s.keyHashes ∧ (s.setKeySlots v).boot = s.boot :=
  ⟨rfl, rfl, rfl, rfl, rfl, rfl, rfl, rfl, rfl, rfl, rfl, rfl, rfl, rfl, rfl, rfl, rfl, rfl, rfl, rfl, rfl, rfl, rfl, rfl, rfl, rfl, rfl,
   rfl, rfl, rfl, rfl, rfl, rfl, rfl, rfl, rfl, rfl, rfl, rfl, rfl, rfl, rfl, rfl, rfl, rfl, rfl, rfl, rfl, rfl, rfl, rfl, rfl, rfl, rfl,
   rfl, rfl, rfl, rfl, rfl, rfl, rfl⟩

@[simp] theorem State.setWins_fields (s : State) (v : List (Nat × RxWin)) :
    (s.setWins v).wins = v ∧ (s.setWins v).pending = s.pending ∧ (s.setWins v).mt = s.mt ∧ (s.setWins v).cw = s.cw ∧
    (s.setWins v).mem = s.mem ∧ (s.setWins v).eccs = s.eccs ∧ (s.setWins v).net = s.net ∧ (s.setWins v).seqs = s.seqs ∧
    (s.setWins v).lines = s.lines ∧ (s.setWins v).freeCtr = s.freeCtr ∧ (s.setWins v).queues = s.queues ∧ (s.setWins v).tb = s.tb ∧
    (s.setWins v).hts = s.hts ∧ (s.setWins v).cols = s.cols ∧ (s.setWins v).basin = s.basin ∧ (s.setWins v).dale = s.dale ∧
    (s.setWins v).held = s.held ∧ (s.setWins v).scrub = s.scrub ∧ (s.setWins v).fanout = s.fanout ∧ (s.setWins v).passed = s.passed ∧
    (s.setWins v).cores = s.cores ∧ (s.setWins v).pgs = s.pgs ∧ (s.setWins v).sets = s.sets ∧ (s.setWins v).maps = s.maps ∧
    (s.setWins v).stares = s.stares ∧ (s.setWins v).loops = s.loops ∧ (s.setWins v).gateLog = s.gateLog ∧ (s.setWins v).scs = s.scs ∧
    (s.setWins v).encs = s.encs ∧ (s.setWins v).halls = s.halls ∧ (s.setWins v).probes = s.probes ∧ (s.setWins v).emus = s.emus ∧
    (s.setWins v).slots = s.slots ∧ (s.setWins v).csiSkip = s.csiSkip ∧ (s.setWins v).pipesOff = s.pipesOff ∧ (s.setWins v).taps = s.taps ∧
    (s.setWins v).i2cs = s.i2cs ∧ (s.setWins v).auxs = s.auxs ∧ (s.setWins v).auxMoves = s.auxMoves ∧ (s.setWins v).auxStops = s.auxStops ∧
    (s.setWins v).auxNext = s.auxNext ∧ (s.setWins v).lanes = s.lanes ∧ (s.setWins v).links = s.links ∧ (s.setWins v).keySlots = s.keySlots ∧
    (s.setWins v).ups = s.ups ∧ (s.setWins v).ptp = s.ptp ∧ (s.setWins v).host = s.host ∧ (s.setWins v).dramBanks = s.dramBanks ∧
    (s.setWins v).dramRanks = s.dramRanks ∧ (s.setWins v).dramChans = s.dramChans ∧ (s.setWins v).raaimt = s.raaimt ∧
    (s.setWins v).raammt = s.raammt ∧ (s.setWins v).gorge = s.gorge ∧ (s.setWins v).gorgeSaves = s.gorgeSaves ∧
    (s.setWins v).holds = s.holds ∧ (s.setWins v).wake = s.wake ∧ (s.setWins v).vault = s.vault ∧ (s.setWins v).house = s.house ∧
    (s.setWins v).flash = s.flash ∧ (s.setWins v).keyHashes = s.keyHashes ∧ (s.setWins v).boot = s.boot :=
  ⟨rfl, rfl, rfl, rfl, rfl, rfl, rfl, rfl, rfl, rfl, rfl, rfl, rfl, rfl, rfl, rfl, rfl, rfl, rfl, rfl, rfl, rfl, rfl, rfl, rfl, rfl, rfl,
   rfl, rfl, rfl, rfl, rfl, rfl, rfl, rfl, rfl, rfl, rfl, rfl, rfl, rfl, rfl, rfl, rfl, rfl, rfl, rfl, rfl, rfl, rfl, rfl, rfl, rfl, rfl,
   rfl, rfl, rfl, rfl, rfl, rfl, rfl⟩

@[simp] theorem State.setUps_fields (s : State) (v : List (Nat × UpStream)) :
    (s.setUps v).ups = v ∧ (s.setUps v).pending = s.pending ∧ (s.setUps v).mt = s.mt ∧ (s.setUps v).cw = s.cw ∧ (s.setUps v).mem = s.mem ∧
    (s.setUps v).eccs = s.eccs ∧ (s.setUps v).net = s.net ∧ (s.setUps v).seqs = s.seqs ∧ (s.setUps v).lines = s.lines ∧
    (s.setUps v).freeCtr = s.freeCtr ∧ (s.setUps v).queues = s.queues ∧ (s.setUps v).tb = s.tb ∧ (s.setUps v).hts = s.hts ∧
    (s.setUps v).cols = s.cols ∧ (s.setUps v).basin = s.basin ∧ (s.setUps v).dale = s.dale ∧ (s.setUps v).held = s.held ∧
    (s.setUps v).scrub = s.scrub ∧ (s.setUps v).fanout = s.fanout ∧ (s.setUps v).passed = s.passed ∧ (s.setUps v).cores = s.cores ∧
    (s.setUps v).pgs = s.pgs ∧ (s.setUps v).sets = s.sets ∧ (s.setUps v).maps = s.maps ∧ (s.setUps v).stares = s.stares ∧
    (s.setUps v).loops = s.loops ∧ (s.setUps v).gateLog = s.gateLog ∧ (s.setUps v).scs = s.scs ∧ (s.setUps v).encs = s.encs ∧
    (s.setUps v).halls = s.halls ∧ (s.setUps v).probes = s.probes ∧ (s.setUps v).emus = s.emus ∧ (s.setUps v).slots = s.slots ∧
    (s.setUps v).csiSkip = s.csiSkip ∧ (s.setUps v).pipesOff = s.pipesOff ∧ (s.setUps v).taps = s.taps ∧ (s.setUps v).i2cs = s.i2cs ∧
    (s.setUps v).auxs = s.auxs ∧ (s.setUps v).auxMoves = s.auxMoves ∧ (s.setUps v).auxStops = s.auxStops ∧ (s.setUps v).auxNext = s.auxNext ∧
    (s.setUps v).lanes = s.lanes ∧ (s.setUps v).links = s.links ∧ (s.setUps v).keySlots = s.keySlots ∧ (s.setUps v).wins = s.wins ∧
    (s.setUps v).ptp = s.ptp ∧ (s.setUps v).host = s.host ∧ (s.setUps v).dramBanks = s.dramBanks ∧ (s.setUps v).dramRanks = s.dramRanks ∧
    (s.setUps v).dramChans = s.dramChans ∧ (s.setUps v).raaimt = s.raaimt ∧ (s.setUps v).raammt = s.raammt ∧ (s.setUps v).gorge = s.gorge ∧
    (s.setUps v).gorgeSaves = s.gorgeSaves ∧ (s.setUps v).holds = s.holds ∧ (s.setUps v).wake = s.wake ∧ (s.setUps v).vault = s.vault ∧
    (s.setUps v).house = s.house ∧ (s.setUps v).flash = s.flash ∧ (s.setUps v).keyHashes = s.keyHashes ∧ (s.setUps v).boot = s.boot :=
  ⟨rfl, rfl, rfl, rfl, rfl, rfl, rfl, rfl, rfl, rfl, rfl, rfl, rfl, rfl, rfl, rfl, rfl, rfl, rfl, rfl, rfl, rfl, rfl, rfl, rfl, rfl, rfl,
   rfl, rfl, rfl, rfl, rfl, rfl, rfl, rfl, rfl, rfl, rfl, rfl, rfl, rfl, rfl, rfl, rfl, rfl, rfl, rfl, rfl, rfl, rfl, rfl, rfl, rfl, rfl,
   rfl, rfl, rfl, rfl, rfl, rfl, rfl⟩

@[simp] theorem State.setPtp_fields (s : State) (v : PtpSt) :
    (s.setPtp v).ptp = v ∧ (s.setPtp v).pending = s.pending ∧ (s.setPtp v).mt = s.mt ∧ (s.setPtp v).cw = s.cw ∧ (s.setPtp v).mem = s.mem ∧
    (s.setPtp v).eccs = s.eccs ∧ (s.setPtp v).net = s.net ∧ (s.setPtp v).seqs = s.seqs ∧ (s.setPtp v).lines = s.lines ∧
    (s.setPtp v).freeCtr = s.freeCtr ∧ (s.setPtp v).queues = s.queues ∧ (s.setPtp v).tb = s.tb ∧ (s.setPtp v).hts = s.hts ∧
    (s.setPtp v).cols = s.cols ∧ (s.setPtp v).basin = s.basin ∧ (s.setPtp v).dale = s.dale ∧ (s.setPtp v).held = s.held ∧
    (s.setPtp v).scrub = s.scrub ∧ (s.setPtp v).fanout = s.fanout ∧ (s.setPtp v).passed = s.passed ∧ (s.setPtp v).cores = s.cores ∧
    (s.setPtp v).pgs = s.pgs ∧ (s.setPtp v).sets = s.sets ∧ (s.setPtp v).maps = s.maps ∧ (s.setPtp v).stares = s.stares ∧
    (s.setPtp v).loops = s.loops ∧ (s.setPtp v).gateLog = s.gateLog ∧ (s.setPtp v).scs = s.scs ∧ (s.setPtp v).encs = s.encs ∧
    (s.setPtp v).halls = s.halls ∧ (s.setPtp v).probes = s.probes ∧ (s.setPtp v).emus = s.emus ∧ (s.setPtp v).slots = s.slots ∧
    (s.setPtp v).csiSkip = s.csiSkip ∧ (s.setPtp v).pipesOff = s.pipesOff ∧ (s.setPtp v).taps = s.taps ∧ (s.setPtp v).i2cs = s.i2cs ∧
    (s.setPtp v).auxs = s.auxs ∧ (s.setPtp v).auxMoves = s.auxMoves ∧ (s.setPtp v).auxStops = s.auxStops ∧ (s.setPtp v).auxNext = s.auxNext ∧
    (s.setPtp v).lanes = s.lanes ∧ (s.setPtp v).links = s.links ∧ (s.setPtp v).keySlots = s.keySlots ∧ (s.setPtp v).wins = s.wins ∧
    (s.setPtp v).ups = s.ups ∧ (s.setPtp v).host = s.host ∧ (s.setPtp v).dramBanks = s.dramBanks ∧ (s.setPtp v).dramRanks = s.dramRanks ∧
    (s.setPtp v).dramChans = s.dramChans ∧ (s.setPtp v).raaimt = s.raaimt ∧ (s.setPtp v).raammt = s.raammt ∧ (s.setPtp v).gorge = s.gorge ∧
    (s.setPtp v).gorgeSaves = s.gorgeSaves ∧ (s.setPtp v).holds = s.holds ∧ (s.setPtp v).wake = s.wake ∧ (s.setPtp v).vault = s.vault ∧
    (s.setPtp v).house = s.house ∧ (s.setPtp v).flash = s.flash ∧ (s.setPtp v).keyHashes = s.keyHashes ∧ (s.setPtp v).boot = s.boot :=
  ⟨rfl, rfl, rfl, rfl, rfl, rfl, rfl, rfl, rfl, rfl, rfl, rfl, rfl, rfl, rfl, rfl, rfl, rfl, rfl, rfl, rfl, rfl, rfl, rfl, rfl, rfl, rfl,
   rfl, rfl, rfl, rfl, rfl, rfl, rfl, rfl, rfl, rfl, rfl, rfl, rfl, rfl, rfl, rfl, rfl, rfl, rfl, rfl, rfl, rfl, rfl, rfl, rfl, rfl, rfl,
   rfl, rfl, rfl, rfl, rfl, rfl, rfl⟩

@[simp] theorem State.setHost_fields (s : State) (v : HostSt) :
    (s.setHost v).host = v ∧ (s.setHost v).pending = s.pending ∧ (s.setHost v).mt = s.mt ∧ (s.setHost v).cw = s.cw ∧
    (s.setHost v).mem = s.mem ∧ (s.setHost v).eccs = s.eccs ∧ (s.setHost v).net = s.net ∧ (s.setHost v).seqs = s.seqs ∧
    (s.setHost v).lines = s.lines ∧ (s.setHost v).freeCtr = s.freeCtr ∧ (s.setHost v).queues = s.queues ∧ (s.setHost v).tb = s.tb ∧
    (s.setHost v).hts = s.hts ∧ (s.setHost v).cols = s.cols ∧ (s.setHost v).basin = s.basin ∧ (s.setHost v).dale = s.dale ∧
    (s.setHost v).held = s.held ∧ (s.setHost v).scrub = s.scrub ∧ (s.setHost v).fanout = s.fanout ∧ (s.setHost v).passed = s.passed ∧
    (s.setHost v).cores = s.cores ∧ (s.setHost v).pgs = s.pgs ∧ (s.setHost v).sets = s.sets ∧ (s.setHost v).maps = s.maps ∧
    (s.setHost v).stares = s.stares ∧ (s.setHost v).loops = s.loops ∧ (s.setHost v).gateLog = s.gateLog ∧ (s.setHost v).scs = s.scs ∧
    (s.setHost v).encs = s.encs ∧ (s.setHost v).halls = s.halls ∧ (s.setHost v).probes = s.probes ∧ (s.setHost v).emus = s.emus ∧
    (s.setHost v).slots = s.slots ∧ (s.setHost v).csiSkip = s.csiSkip ∧ (s.setHost v).pipesOff = s.pipesOff ∧ (s.setHost v).taps = s.taps ∧
    (s.setHost v).i2cs = s.i2cs ∧ (s.setHost v).auxs = s.auxs ∧ (s.setHost v).auxMoves = s.auxMoves ∧ (s.setHost v).auxStops = s.auxStops ∧
    (s.setHost v).auxNext = s.auxNext ∧ (s.setHost v).lanes = s.lanes ∧ (s.setHost v).links = s.links ∧ (s.setHost v).keySlots = s.keySlots ∧
    (s.setHost v).wins = s.wins ∧ (s.setHost v).ups = s.ups ∧ (s.setHost v).ptp = s.ptp ∧ (s.setHost v).dramBanks = s.dramBanks ∧
    (s.setHost v).dramRanks = s.dramRanks ∧ (s.setHost v).dramChans = s.dramChans ∧ (s.setHost v).raaimt = s.raaimt ∧
    (s.setHost v).raammt = s.raammt ∧ (s.setHost v).gorge = s.gorge ∧ (s.setHost v).gorgeSaves = s.gorgeSaves ∧
    (s.setHost v).holds = s.holds ∧ (s.setHost v).wake = s.wake ∧ (s.setHost v).vault = s.vault ∧ (s.setHost v).house = s.house ∧
    (s.setHost v).flash = s.flash ∧ (s.setHost v).keyHashes = s.keyHashes ∧ (s.setHost v).boot = s.boot :=
  ⟨rfl, rfl, rfl, rfl, rfl, rfl, rfl, rfl, rfl, rfl, rfl, rfl, rfl, rfl, rfl, rfl, rfl, rfl, rfl, rfl, rfl, rfl, rfl, rfl, rfl, rfl, rfl,
   rfl, rfl, rfl, rfl, rfl, rfl, rfl, rfl, rfl, rfl, rfl, rfl, rfl, rfl, rfl, rfl, rfl, rfl, rfl, rfl, rfl, rfl, rfl, rfl, rfl, rfl, rfl,
   rfl, rfl, rfl, rfl, rfl, rfl, rfl⟩

@[simp] theorem State.setDramBanks_fields (s : State) (v : List (Nat × DramBank)) :
    (s.setDramBanks v).dramBanks = v ∧ (s.setDramBanks v).pending = s.pending ∧ (s.setDramBanks v).mt = s.mt ∧ (s.setDramBanks v).cw = s.cw ∧
    (s.setDramBanks v).mem = s.mem ∧ (s.setDramBanks v).eccs = s.eccs ∧ (s.setDramBanks v).net = s.net ∧ (s.setDramBanks v).seqs = s.seqs ∧
    (s.setDramBanks v).lines = s.lines ∧ (s.setDramBanks v).freeCtr = s.freeCtr ∧ (s.setDramBanks v).queues = s.queues ∧
    (s.setDramBanks v).tb = s.tb ∧ (s.setDramBanks v).hts = s.hts ∧ (s.setDramBanks v).cols = s.cols ∧ (s.setDramBanks v).basin = s.basin ∧
    (s.setDramBanks v).dale = s.dale ∧ (s.setDramBanks v).held = s.held ∧ (s.setDramBanks v).scrub = s.scrub ∧
    (s.setDramBanks v).fanout = s.fanout ∧ (s.setDramBanks v).passed = s.passed ∧ (s.setDramBanks v).cores = s.cores ∧
    (s.setDramBanks v).pgs = s.pgs ∧ (s.setDramBanks v).sets = s.sets ∧ (s.setDramBanks v).maps = s.maps ∧
    (s.setDramBanks v).stares = s.stares ∧ (s.setDramBanks v).loops = s.loops ∧ (s.setDramBanks v).gateLog = s.gateLog ∧
    (s.setDramBanks v).scs = s.scs ∧ (s.setDramBanks v).encs = s.encs ∧ (s.setDramBanks v).halls = s.halls ∧
    (s.setDramBanks v).probes = s.probes ∧ (s.setDramBanks v).emus = s.emus ∧ (s.setDramBanks v).slots = s.slots ∧
    (s.setDramBanks v).csiSkip = s.csiSkip ∧ (s.setDramBanks v).pipesOff = s.pipesOff ∧ (s.setDramBanks v).taps = s.taps ∧
    (s.setDramBanks v).i2cs = s.i2cs ∧ (s.setDramBanks v).auxs = s.auxs ∧ (s.setDramBanks v).auxMoves = s.auxMoves ∧
    (s.setDramBanks v).auxStops = s.auxStops ∧ (s.setDramBanks v).auxNext = s.auxNext ∧ (s.setDramBanks v).lanes = s.lanes ∧
    (s.setDramBanks v).links = s.links ∧ (s.setDramBanks v).keySlots = s.keySlots ∧ (s.setDramBanks v).wins = s.wins ∧
    (s.setDramBanks v).ups = s.ups ∧ (s.setDramBanks v).ptp = s.ptp ∧ (s.setDramBanks v).host = s.host ∧
    (s.setDramBanks v).dramRanks = s.dramRanks ∧ (s.setDramBanks v).dramChans = s.dramChans ∧ (s.setDramBanks v).raaimt = s.raaimt ∧
    (s.setDramBanks v).raammt = s.raammt ∧ (s.setDramBanks v).gorge = s.gorge ∧ (s.setDramBanks v).gorgeSaves = s.gorgeSaves ∧
    (s.setDramBanks v).holds = s.holds ∧ (s.setDramBanks v).wake = s.wake ∧ (s.setDramBanks v).vault = s.vault ∧
    (s.setDramBanks v).house = s.house ∧ (s.setDramBanks v).flash = s.flash ∧ (s.setDramBanks v).keyHashes = s.keyHashes ∧
    (s.setDramBanks v).boot = s.boot :=
  ⟨rfl, rfl, rfl, rfl, rfl, rfl, rfl, rfl, rfl, rfl, rfl, rfl, rfl, rfl, rfl, rfl, rfl, rfl, rfl, rfl, rfl, rfl, rfl, rfl, rfl, rfl, rfl,
   rfl, rfl, rfl, rfl, rfl, rfl, rfl, rfl, rfl, rfl, rfl, rfl, rfl, rfl, rfl, rfl, rfl, rfl, rfl, rfl, rfl, rfl, rfl, rfl, rfl, rfl, rfl,
   rfl, rfl, rfl, rfl, rfl, rfl, rfl⟩

@[simp] theorem State.setDramRanks_fields (s : State) (v : List (Nat × DramRank)) :
    (s.setDramRanks v).dramRanks = v ∧ (s.setDramRanks v).pending = s.pending ∧ (s.setDramRanks v).mt = s.mt ∧ (s.setDramRanks v).cw = s.cw ∧
    (s.setDramRanks v).mem = s.mem ∧ (s.setDramRanks v).eccs = s.eccs ∧ (s.setDramRanks v).net = s.net ∧ (s.setDramRanks v).seqs = s.seqs ∧
    (s.setDramRanks v).lines = s.lines ∧ (s.setDramRanks v).freeCtr = s.freeCtr ∧ (s.setDramRanks v).queues = s.queues ∧
    (s.setDramRanks v).tb = s.tb ∧ (s.setDramRanks v).hts = s.hts ∧ (s.setDramRanks v).cols = s.cols ∧ (s.setDramRanks v).basin = s.basin ∧
    (s.setDramRanks v).dale = s.dale ∧ (s.setDramRanks v).held = s.held ∧ (s.setDramRanks v).scrub = s.scrub ∧
    (s.setDramRanks v).fanout = s.fanout ∧ (s.setDramRanks v).passed = s.passed ∧ (s.setDramRanks v).cores = s.cores ∧
    (s.setDramRanks v).pgs = s.pgs ∧ (s.setDramRanks v).sets = s.sets ∧ (s.setDramRanks v).maps = s.maps ∧
    (s.setDramRanks v).stares = s.stares ∧ (s.setDramRanks v).loops = s.loops ∧ (s.setDramRanks v).gateLog = s.gateLog ∧
    (s.setDramRanks v).scs = s.scs ∧ (s.setDramRanks v).encs = s.encs ∧ (s.setDramRanks v).halls = s.halls ∧
    (s.setDramRanks v).probes = s.probes ∧ (s.setDramRanks v).emus = s.emus ∧ (s.setDramRanks v).slots = s.slots ∧
    (s.setDramRanks v).csiSkip = s.csiSkip ∧ (s.setDramRanks v).pipesOff = s.pipesOff ∧ (s.setDramRanks v).taps = s.taps ∧
    (s.setDramRanks v).i2cs = s.i2cs ∧ (s.setDramRanks v).auxs = s.auxs ∧ (s.setDramRanks v).auxMoves = s.auxMoves ∧
    (s.setDramRanks v).auxStops = s.auxStops ∧ (s.setDramRanks v).auxNext = s.auxNext ∧ (s.setDramRanks v).lanes = s.lanes ∧
    (s.setDramRanks v).links = s.links ∧ (s.setDramRanks v).keySlots = s.keySlots ∧ (s.setDramRanks v).wins = s.wins ∧
    (s.setDramRanks v).ups = s.ups ∧ (s.setDramRanks v).ptp = s.ptp ∧ (s.setDramRanks v).host = s.host ∧
    (s.setDramRanks v).dramBanks = s.dramBanks ∧ (s.setDramRanks v).dramChans = s.dramChans ∧ (s.setDramRanks v).raaimt = s.raaimt ∧
    (s.setDramRanks v).raammt = s.raammt ∧ (s.setDramRanks v).gorge = s.gorge ∧ (s.setDramRanks v).gorgeSaves = s.gorgeSaves ∧
    (s.setDramRanks v).holds = s.holds ∧ (s.setDramRanks v).wake = s.wake ∧ (s.setDramRanks v).vault = s.vault ∧
    (s.setDramRanks v).house = s.house ∧ (s.setDramRanks v).flash = s.flash ∧ (s.setDramRanks v).keyHashes = s.keyHashes ∧
    (s.setDramRanks v).boot = s.boot :=
  ⟨rfl, rfl, rfl, rfl, rfl, rfl, rfl, rfl, rfl, rfl, rfl, rfl, rfl, rfl, rfl, rfl, rfl, rfl, rfl, rfl, rfl, rfl, rfl, rfl, rfl, rfl, rfl,
   rfl, rfl, rfl, rfl, rfl, rfl, rfl, rfl, rfl, rfl, rfl, rfl, rfl, rfl, rfl, rfl, rfl, rfl, rfl, rfl, rfl, rfl, rfl, rfl, rfl, rfl, rfl,
   rfl, rfl, rfl, rfl, rfl, rfl, rfl⟩

@[simp] theorem State.setDramChans_fields (s : State) (v : List (Nat × DramChan)) :
    (s.setDramChans v).dramChans = v ∧ (s.setDramChans v).pending = s.pending ∧ (s.setDramChans v).mt = s.mt ∧ (s.setDramChans v).cw = s.cw ∧
    (s.setDramChans v).mem = s.mem ∧ (s.setDramChans v).eccs = s.eccs ∧ (s.setDramChans v).net = s.net ∧ (s.setDramChans v).seqs = s.seqs ∧
    (s.setDramChans v).lines = s.lines ∧ (s.setDramChans v).freeCtr = s.freeCtr ∧ (s.setDramChans v).queues = s.queues ∧
    (s.setDramChans v).tb = s.tb ∧ (s.setDramChans v).hts = s.hts ∧ (s.setDramChans v).cols = s.cols ∧ (s.setDramChans v).basin = s.basin ∧
    (s.setDramChans v).dale = s.dale ∧ (s.setDramChans v).held = s.held ∧ (s.setDramChans v).scrub = s.scrub ∧
    (s.setDramChans v).fanout = s.fanout ∧ (s.setDramChans v).passed = s.passed ∧ (s.setDramChans v).cores = s.cores ∧
    (s.setDramChans v).pgs = s.pgs ∧ (s.setDramChans v).sets = s.sets ∧ (s.setDramChans v).maps = s.maps ∧
    (s.setDramChans v).stares = s.stares ∧ (s.setDramChans v).loops = s.loops ∧ (s.setDramChans v).gateLog = s.gateLog ∧
    (s.setDramChans v).scs = s.scs ∧ (s.setDramChans v).encs = s.encs ∧ (s.setDramChans v).halls = s.halls ∧
    (s.setDramChans v).probes = s.probes ∧ (s.setDramChans v).emus = s.emus ∧ (s.setDramChans v).slots = s.slots ∧
    (s.setDramChans v).csiSkip = s.csiSkip ∧ (s.setDramChans v).pipesOff = s.pipesOff ∧ (s.setDramChans v).taps = s.taps ∧
    (s.setDramChans v).i2cs = s.i2cs ∧ (s.setDramChans v).auxs = s.auxs ∧ (s.setDramChans v).auxMoves = s.auxMoves ∧
    (s.setDramChans v).auxStops = s.auxStops ∧ (s.setDramChans v).auxNext = s.auxNext ∧ (s.setDramChans v).lanes = s.lanes ∧
    (s.setDramChans v).links = s.links ∧ (s.setDramChans v).keySlots = s.keySlots ∧ (s.setDramChans v).wins = s.wins ∧
    (s.setDramChans v).ups = s.ups ∧ (s.setDramChans v).ptp = s.ptp ∧ (s.setDramChans v).host = s.host ∧
    (s.setDramChans v).dramBanks = s.dramBanks ∧ (s.setDramChans v).dramRanks = s.dramRanks ∧ (s.setDramChans v).raaimt = s.raaimt ∧
    (s.setDramChans v).raammt = s.raammt ∧ (s.setDramChans v).gorge = s.gorge ∧ (s.setDramChans v).gorgeSaves = s.gorgeSaves ∧
    (s.setDramChans v).holds = s.holds ∧ (s.setDramChans v).wake = s.wake ∧ (s.setDramChans v).vault = s.vault ∧
    (s.setDramChans v).house = s.house ∧ (s.setDramChans v).flash = s.flash ∧ (s.setDramChans v).keyHashes = s.keyHashes ∧
    (s.setDramChans v).boot = s.boot :=
  ⟨rfl, rfl, rfl, rfl, rfl, rfl, rfl, rfl, rfl, rfl, rfl, rfl, rfl, rfl, rfl, rfl, rfl, rfl, rfl, rfl, rfl, rfl, rfl, rfl, rfl, rfl, rfl,
   rfl, rfl, rfl, rfl, rfl, rfl, rfl, rfl, rfl, rfl, rfl, rfl, rfl, rfl, rfl, rfl, rfl, rfl, rfl, rfl, rfl, rfl, rfl, rfl, rfl, rfl, rfl,
   rfl, rfl, rfl, rfl, rfl, rfl, rfl⟩

@[simp] theorem State.setRaaimt_fields (s : State) (v : Nat) :
    (s.setRaaimt v).raaimt = v ∧ (s.setRaaimt v).pending = s.pending ∧ (s.setRaaimt v).mt = s.mt ∧ (s.setRaaimt v).cw = s.cw ∧
    (s.setRaaimt v).mem = s.mem ∧ (s.setRaaimt v).eccs = s.eccs ∧ (s.setRaaimt v).net = s.net ∧ (s.setRaaimt v).seqs = s.seqs ∧
    (s.setRaaimt v).lines = s.lines ∧ (s.setRaaimt v).freeCtr = s.freeCtr ∧ (s.setRaaimt v).queues = s.queues ∧ (s.setRaaimt v).tb = s.tb ∧
    (s.setRaaimt v).hts = s.hts ∧ (s.setRaaimt v).cols = s.cols ∧ (s.setRaaimt v).basin = s.basin ∧ (s.setRaaimt v).dale = s.dale ∧
    (s.setRaaimt v).held = s.held ∧ (s.setRaaimt v).scrub = s.scrub ∧ (s.setRaaimt v).fanout = s.fanout ∧ (s.setRaaimt v).passed = s.passed ∧
    (s.setRaaimt v).cores = s.cores ∧ (s.setRaaimt v).pgs = s.pgs ∧ (s.setRaaimt v).sets = s.sets ∧ (s.setRaaimt v).maps = s.maps ∧
    (s.setRaaimt v).stares = s.stares ∧ (s.setRaaimt v).loops = s.loops ∧ (s.setRaaimt v).gateLog = s.gateLog ∧ (s.setRaaimt v).scs = s.scs ∧
    (s.setRaaimt v).encs = s.encs ∧ (s.setRaaimt v).halls = s.halls ∧ (s.setRaaimt v).probes = s.probes ∧ (s.setRaaimt v).emus = s.emus ∧
    (s.setRaaimt v).slots = s.slots ∧ (s.setRaaimt v).csiSkip = s.csiSkip ∧ (s.setRaaimt v).pipesOff = s.pipesOff ∧
    (s.setRaaimt v).taps = s.taps ∧ (s.setRaaimt v).i2cs = s.i2cs ∧ (s.setRaaimt v).auxs = s.auxs ∧ (s.setRaaimt v).auxMoves = s.auxMoves ∧
    (s.setRaaimt v).auxStops = s.auxStops ∧ (s.setRaaimt v).auxNext = s.auxNext ∧ (s.setRaaimt v).lanes = s.lanes ∧
    (s.setRaaimt v).links = s.links ∧ (s.setRaaimt v).keySlots = s.keySlots ∧ (s.setRaaimt v).wins = s.wins ∧ (s.setRaaimt v).ups = s.ups ∧
    (s.setRaaimt v).ptp = s.ptp ∧ (s.setRaaimt v).host = s.host ∧ (s.setRaaimt v).dramBanks = s.dramBanks ∧
    (s.setRaaimt v).dramRanks = s.dramRanks ∧ (s.setRaaimt v).dramChans = s.dramChans ∧ (s.setRaaimt v).raammt = s.raammt ∧
    (s.setRaaimt v).gorge = s.gorge ∧ (s.setRaaimt v).gorgeSaves = s.gorgeSaves ∧ (s.setRaaimt v).holds = s.holds ∧
    (s.setRaaimt v).wake = s.wake ∧ (s.setRaaimt v).vault = s.vault ∧ (s.setRaaimt v).house = s.house ∧ (s.setRaaimt v).flash = s.flash ∧
    (s.setRaaimt v).keyHashes = s.keyHashes ∧ (s.setRaaimt v).boot = s.boot :=
  ⟨rfl, rfl, rfl, rfl, rfl, rfl, rfl, rfl, rfl, rfl, rfl, rfl, rfl, rfl, rfl, rfl, rfl, rfl, rfl, rfl, rfl, rfl, rfl, rfl, rfl, rfl, rfl,
   rfl, rfl, rfl, rfl, rfl, rfl, rfl, rfl, rfl, rfl, rfl, rfl, rfl, rfl, rfl, rfl, rfl, rfl, rfl, rfl, rfl, rfl, rfl, rfl, rfl, rfl, rfl,
   rfl, rfl, rfl, rfl, rfl, rfl, rfl⟩

@[simp] theorem State.setRaammt_fields (s : State) (v : Nat) :
    (s.setRaammt v).raammt = v ∧ (s.setRaammt v).pending = s.pending ∧ (s.setRaammt v).mt = s.mt ∧ (s.setRaammt v).cw = s.cw ∧
    (s.setRaammt v).mem = s.mem ∧ (s.setRaammt v).eccs = s.eccs ∧ (s.setRaammt v).net = s.net ∧ (s.setRaammt v).seqs = s.seqs ∧
    (s.setRaammt v).lines = s.lines ∧ (s.setRaammt v).freeCtr = s.freeCtr ∧ (s.setRaammt v).queues = s.queues ∧ (s.setRaammt v).tb = s.tb ∧
    (s.setRaammt v).hts = s.hts ∧ (s.setRaammt v).cols = s.cols ∧ (s.setRaammt v).basin = s.basin ∧ (s.setRaammt v).dale = s.dale ∧
    (s.setRaammt v).held = s.held ∧ (s.setRaammt v).scrub = s.scrub ∧ (s.setRaammt v).fanout = s.fanout ∧ (s.setRaammt v).passed = s.passed ∧
    (s.setRaammt v).cores = s.cores ∧ (s.setRaammt v).pgs = s.pgs ∧ (s.setRaammt v).sets = s.sets ∧ (s.setRaammt v).maps = s.maps ∧
    (s.setRaammt v).stares = s.stares ∧ (s.setRaammt v).loops = s.loops ∧ (s.setRaammt v).gateLog = s.gateLog ∧ (s.setRaammt v).scs = s.scs ∧
    (s.setRaammt v).encs = s.encs ∧ (s.setRaammt v).halls = s.halls ∧ (s.setRaammt v).probes = s.probes ∧ (s.setRaammt v).emus = s.emus ∧
    (s.setRaammt v).slots = s.slots ∧ (s.setRaammt v).csiSkip = s.csiSkip ∧ (s.setRaammt v).pipesOff = s.pipesOff ∧
    (s.setRaammt v).taps = s.taps ∧ (s.setRaammt v).i2cs = s.i2cs ∧ (s.setRaammt v).auxs = s.auxs ∧ (s.setRaammt v).auxMoves = s.auxMoves ∧
    (s.setRaammt v).auxStops = s.auxStops ∧ (s.setRaammt v).auxNext = s.auxNext ∧ (s.setRaammt v).lanes = s.lanes ∧
    (s.setRaammt v).links = s.links ∧ (s.setRaammt v).keySlots = s.keySlots ∧ (s.setRaammt v).wins = s.wins ∧ (s.setRaammt v).ups = s.ups ∧
    (s.setRaammt v).ptp = s.ptp ∧ (s.setRaammt v).host = s.host ∧ (s.setRaammt v).dramBanks = s.dramBanks ∧
    (s.setRaammt v).dramRanks = s.dramRanks ∧ (s.setRaammt v).dramChans = s.dramChans ∧ (s.setRaammt v).raaimt = s.raaimt ∧
    (s.setRaammt v).gorge = s.gorge ∧ (s.setRaammt v).gorgeSaves = s.gorgeSaves ∧ (s.setRaammt v).holds = s.holds ∧
    (s.setRaammt v).wake = s.wake ∧ (s.setRaammt v).vault = s.vault ∧ (s.setRaammt v).house = s.house ∧ (s.setRaammt v).flash = s.flash ∧
    (s.setRaammt v).keyHashes = s.keyHashes ∧ (s.setRaammt v).boot = s.boot :=
  ⟨rfl, rfl, rfl, rfl, rfl, rfl, rfl, rfl, rfl, rfl, rfl, rfl, rfl, rfl, rfl, rfl, rfl, rfl, rfl, rfl, rfl, rfl, rfl, rfl, rfl, rfl, rfl,
   rfl, rfl, rfl, rfl, rfl, rfl, rfl, rfl, rfl, rfl, rfl, rfl, rfl, rfl, rfl, rfl, rfl, rfl, rfl, rfl, rfl, rfl, rfl, rfl, rfl, rfl, rfl,
   rfl, rfl, rfl, rfl, rfl, rfl, rfl⟩

@[simp] theorem State.setGorge_fields (s : State) (v : List (Nat × GChan)) :
    (s.setGorge v).gorge = v ∧ (s.setGorge v).pending = s.pending ∧ (s.setGorge v).mt = s.mt ∧ (s.setGorge v).cw = s.cw ∧
    (s.setGorge v).mem = s.mem ∧ (s.setGorge v).eccs = s.eccs ∧ (s.setGorge v).net = s.net ∧ (s.setGorge v).seqs = s.seqs ∧
    (s.setGorge v).lines = s.lines ∧ (s.setGorge v).freeCtr = s.freeCtr ∧ (s.setGorge v).queues = s.queues ∧ (s.setGorge v).tb = s.tb ∧
    (s.setGorge v).hts = s.hts ∧ (s.setGorge v).cols = s.cols ∧ (s.setGorge v).basin = s.basin ∧ (s.setGorge v).dale = s.dale ∧
    (s.setGorge v).held = s.held ∧ (s.setGorge v).scrub = s.scrub ∧ (s.setGorge v).fanout = s.fanout ∧ (s.setGorge v).passed = s.passed ∧
    (s.setGorge v).cores = s.cores ∧ (s.setGorge v).pgs = s.pgs ∧ (s.setGorge v).sets = s.sets ∧ (s.setGorge v).maps = s.maps ∧
    (s.setGorge v).stares = s.stares ∧ (s.setGorge v).loops = s.loops ∧ (s.setGorge v).gateLog = s.gateLog ∧ (s.setGorge v).scs = s.scs ∧
    (s.setGorge v).encs = s.encs ∧ (s.setGorge v).halls = s.halls ∧ (s.setGorge v).probes = s.probes ∧ (s.setGorge v).emus = s.emus ∧
    (s.setGorge v).slots = s.slots ∧ (s.setGorge v).csiSkip = s.csiSkip ∧ (s.setGorge v).pipesOff = s.pipesOff ∧
    (s.setGorge v).taps = s.taps ∧ (s.setGorge v).i2cs = s.i2cs ∧ (s.setGorge v).auxs = s.auxs ∧ (s.setGorge v).auxMoves = s.auxMoves ∧
    (s.setGorge v).auxStops = s.auxStops ∧ (s.setGorge v).auxNext = s.auxNext ∧ (s.setGorge v).lanes = s.lanes ∧
    (s.setGorge v).links = s.links ∧ (s.setGorge v).keySlots = s.keySlots ∧ (s.setGorge v).wins = s.wins ∧ (s.setGorge v).ups = s.ups ∧
    (s.setGorge v).ptp = s.ptp ∧ (s.setGorge v).host = s.host ∧ (s.setGorge v).dramBanks = s.dramBanks ∧
    (s.setGorge v).dramRanks = s.dramRanks ∧ (s.setGorge v).dramChans = s.dramChans ∧ (s.setGorge v).raaimt = s.raaimt ∧
    (s.setGorge v).raammt = s.raammt ∧ (s.setGorge v).gorgeSaves = s.gorgeSaves ∧ (s.setGorge v).holds = s.holds ∧
    (s.setGorge v).wake = s.wake ∧ (s.setGorge v).vault = s.vault ∧ (s.setGorge v).house = s.house ∧ (s.setGorge v).flash = s.flash ∧
    (s.setGorge v).keyHashes = s.keyHashes ∧ (s.setGorge v).boot = s.boot :=
  ⟨rfl, rfl, rfl, rfl, rfl, rfl, rfl, rfl, rfl, rfl, rfl, rfl, rfl, rfl, rfl, rfl, rfl, rfl, rfl, rfl, rfl, rfl, rfl, rfl, rfl, rfl, rfl,
   rfl, rfl, rfl, rfl, rfl, rfl, rfl, rfl, rfl, rfl, rfl, rfl, rfl, rfl, rfl, rfl, rfl, rfl, rfl, rfl, rfl, rfl, rfl, rfl, rfl, rfl, rfl,
   rfl, rfl, rfl, rfl, rfl, rfl, rfl⟩

@[simp] theorem State.setGorgeSaves_fields (s : State) (v : List GSave) :
    (s.setGorgeSaves v).gorgeSaves = v ∧ (s.setGorgeSaves v).pending = s.pending ∧ (s.setGorgeSaves v).mt = s.mt ∧
    (s.setGorgeSaves v).cw = s.cw ∧ (s.setGorgeSaves v).mem = s.mem ∧ (s.setGorgeSaves v).eccs = s.eccs ∧ (s.setGorgeSaves v).net = s.net ∧
    (s.setGorgeSaves v).seqs = s.seqs ∧ (s.setGorgeSaves v).lines = s.lines ∧ (s.setGorgeSaves v).freeCtr = s.freeCtr ∧
    (s.setGorgeSaves v).queues = s.queues ∧ (s.setGorgeSaves v).tb = s.tb ∧ (s.setGorgeSaves v).hts = s.hts ∧
    (s.setGorgeSaves v).cols = s.cols ∧ (s.setGorgeSaves v).basin = s.basin ∧ (s.setGorgeSaves v).dale = s.dale ∧
    (s.setGorgeSaves v).held = s.held ∧ (s.setGorgeSaves v).scrub = s.scrub ∧ (s.setGorgeSaves v).fanout = s.fanout ∧
    (s.setGorgeSaves v).passed = s.passed ∧ (s.setGorgeSaves v).cores = s.cores ∧ (s.setGorgeSaves v).pgs = s.pgs ∧
    (s.setGorgeSaves v).sets = s.sets ∧ (s.setGorgeSaves v).maps = s.maps ∧ (s.setGorgeSaves v).stares = s.stares ∧
    (s.setGorgeSaves v).loops = s.loops ∧ (s.setGorgeSaves v).gateLog = s.gateLog ∧ (s.setGorgeSaves v).scs = s.scs ∧
    (s.setGorgeSaves v).encs = s.encs ∧ (s.setGorgeSaves v).halls = s.halls ∧ (s.setGorgeSaves v).probes = s.probes ∧
    (s.setGorgeSaves v).emus = s.emus ∧ (s.setGorgeSaves v).slots = s.slots ∧ (s.setGorgeSaves v).csiSkip = s.csiSkip ∧
    (s.setGorgeSaves v).pipesOff = s.pipesOff ∧ (s.setGorgeSaves v).taps = s.taps ∧ (s.setGorgeSaves v).i2cs = s.i2cs ∧
    (s.setGorgeSaves v).auxs = s.auxs ∧ (s.setGorgeSaves v).auxMoves = s.auxMoves ∧ (s.setGorgeSaves v).auxStops = s.auxStops ∧
    (s.setGorgeSaves v).auxNext = s.auxNext ∧ (s.setGorgeSaves v).lanes = s.lanes ∧ (s.setGorgeSaves v).links = s.links ∧
    (s.setGorgeSaves v).keySlots = s.keySlots ∧ (s.setGorgeSaves v).wins = s.wins ∧ (s.setGorgeSaves v).ups = s.ups ∧
    (s.setGorgeSaves v).ptp = s.ptp ∧ (s.setGorgeSaves v).host = s.host ∧ (s.setGorgeSaves v).dramBanks = s.dramBanks ∧
    (s.setGorgeSaves v).dramRanks = s.dramRanks ∧ (s.setGorgeSaves v).dramChans = s.dramChans ∧ (s.setGorgeSaves v).raaimt = s.raaimt ∧
    (s.setGorgeSaves v).raammt = s.raammt ∧ (s.setGorgeSaves v).gorge = s.gorge ∧ (s.setGorgeSaves v).holds = s.holds ∧
    (s.setGorgeSaves v).wake = s.wake ∧ (s.setGorgeSaves v).vault = s.vault ∧ (s.setGorgeSaves v).house = s.house ∧
    (s.setGorgeSaves v).flash = s.flash ∧ (s.setGorgeSaves v).keyHashes = s.keyHashes ∧ (s.setGorgeSaves v).boot = s.boot :=
  ⟨rfl, rfl, rfl, rfl, rfl, rfl, rfl, rfl, rfl, rfl, rfl, rfl, rfl, rfl, rfl, rfl, rfl, rfl, rfl, rfl, rfl, rfl, rfl, rfl, rfl, rfl, rfl,
   rfl, rfl, rfl, rfl, rfl, rfl, rfl, rfl, rfl, rfl, rfl, rfl, rfl, rfl, rfl, rfl, rfl, rfl, rfl, rfl, rfl, rfl, rfl, rfl, rfl, rfl, rfl,
   rfl, rfl, rfl, rfl, rfl, rfl, rfl⟩

@[simp] theorem State.setHolds_fields (s : State) (v : Holds) :
    (s.setHolds v).holds = v ∧ (s.setHolds v).pending = s.pending ∧ (s.setHolds v).mt = s.mt ∧ (s.setHolds v).cw = s.cw ∧
    (s.setHolds v).mem = s.mem ∧ (s.setHolds v).eccs = s.eccs ∧ (s.setHolds v).net = s.net ∧ (s.setHolds v).seqs = s.seqs ∧
    (s.setHolds v).lines = s.lines ∧ (s.setHolds v).freeCtr = s.freeCtr ∧ (s.setHolds v).queues = s.queues ∧ (s.setHolds v).tb = s.tb ∧
    (s.setHolds v).hts = s.hts ∧ (s.setHolds v).cols = s.cols ∧ (s.setHolds v).basin = s.basin ∧ (s.setHolds v).dale = s.dale ∧
    (s.setHolds v).held = s.held ∧ (s.setHolds v).scrub = s.scrub ∧ (s.setHolds v).fanout = s.fanout ∧ (s.setHolds v).passed = s.passed ∧
    (s.setHolds v).cores = s.cores ∧ (s.setHolds v).pgs = s.pgs ∧ (s.setHolds v).sets = s.sets ∧ (s.setHolds v).maps = s.maps ∧
    (s.setHolds v).stares = s.stares ∧ (s.setHolds v).loops = s.loops ∧ (s.setHolds v).gateLog = s.gateLog ∧ (s.setHolds v).scs = s.scs ∧
    (s.setHolds v).encs = s.encs ∧ (s.setHolds v).halls = s.halls ∧ (s.setHolds v).probes = s.probes ∧ (s.setHolds v).emus = s.emus ∧
    (s.setHolds v).slots = s.slots ∧ (s.setHolds v).csiSkip = s.csiSkip ∧ (s.setHolds v).pipesOff = s.pipesOff ∧
    (s.setHolds v).taps = s.taps ∧ (s.setHolds v).i2cs = s.i2cs ∧ (s.setHolds v).auxs = s.auxs ∧ (s.setHolds v).auxMoves = s.auxMoves ∧
    (s.setHolds v).auxStops = s.auxStops ∧ (s.setHolds v).auxNext = s.auxNext ∧ (s.setHolds v).lanes = s.lanes ∧
    (s.setHolds v).links = s.links ∧ (s.setHolds v).keySlots = s.keySlots ∧ (s.setHolds v).wins = s.wins ∧ (s.setHolds v).ups = s.ups ∧
    (s.setHolds v).ptp = s.ptp ∧ (s.setHolds v).host = s.host ∧ (s.setHolds v).dramBanks = s.dramBanks ∧
    (s.setHolds v).dramRanks = s.dramRanks ∧ (s.setHolds v).dramChans = s.dramChans ∧ (s.setHolds v).raaimt = s.raaimt ∧
    (s.setHolds v).raammt = s.raammt ∧ (s.setHolds v).gorge = s.gorge ∧ (s.setHolds v).gorgeSaves = s.gorgeSaves ∧
    (s.setHolds v).wake = s.wake ∧ (s.setHolds v).vault = s.vault ∧ (s.setHolds v).house = s.house ∧ (s.setHolds v).flash = s.flash ∧
    (s.setHolds v).keyHashes = s.keyHashes ∧ (s.setHolds v).boot = s.boot :=
  ⟨rfl, rfl, rfl, rfl, rfl, rfl, rfl, rfl, rfl, rfl, rfl, rfl, rfl, rfl, rfl, rfl, rfl, rfl, rfl, rfl, rfl, rfl, rfl, rfl, rfl, rfl, rfl,
   rfl, rfl, rfl, rfl, rfl, rfl, rfl, rfl, rfl, rfl, rfl, rfl, rfl, rfl, rfl, rfl, rfl, rfl, rfl, rfl, rfl, rfl, rfl, rfl, rfl, rfl, rfl,
   rfl, rfl, rfl, rfl, rfl, rfl, rfl⟩

@[simp] theorem State.setWake_fields (s : State) (v : Wake) :
    (s.setWake v).wake = v ∧ (s.setWake v).pending = s.pending ∧ (s.setWake v).mt = s.mt ∧ (s.setWake v).cw = s.cw ∧
    (s.setWake v).mem = s.mem ∧ (s.setWake v).eccs = s.eccs ∧ (s.setWake v).net = s.net ∧ (s.setWake v).seqs = s.seqs ∧
    (s.setWake v).lines = s.lines ∧ (s.setWake v).freeCtr = s.freeCtr ∧ (s.setWake v).queues = s.queues ∧ (s.setWake v).tb = s.tb ∧
    (s.setWake v).hts = s.hts ∧ (s.setWake v).cols = s.cols ∧ (s.setWake v).basin = s.basin ∧ (s.setWake v).dale = s.dale ∧
    (s.setWake v).held = s.held ∧ (s.setWake v).scrub = s.scrub ∧ (s.setWake v).fanout = s.fanout ∧ (s.setWake v).passed = s.passed ∧
    (s.setWake v).cores = s.cores ∧ (s.setWake v).pgs = s.pgs ∧ (s.setWake v).sets = s.sets ∧ (s.setWake v).maps = s.maps ∧
    (s.setWake v).stares = s.stares ∧ (s.setWake v).loops = s.loops ∧ (s.setWake v).gateLog = s.gateLog ∧ (s.setWake v).scs = s.scs ∧
    (s.setWake v).encs = s.encs ∧ (s.setWake v).halls = s.halls ∧ (s.setWake v).probes = s.probes ∧ (s.setWake v).emus = s.emus ∧
    (s.setWake v).slots = s.slots ∧ (s.setWake v).csiSkip = s.csiSkip ∧ (s.setWake v).pipesOff = s.pipesOff ∧ (s.setWake v).taps = s.taps ∧
    (s.setWake v).i2cs = s.i2cs ∧ (s.setWake v).auxs = s.auxs ∧ (s.setWake v).auxMoves = s.auxMoves ∧ (s.setWake v).auxStops = s.auxStops ∧
    (s.setWake v).auxNext = s.auxNext ∧ (s.setWake v).lanes = s.lanes ∧ (s.setWake v).links = s.links ∧ (s.setWake v).keySlots = s.keySlots ∧
    (s.setWake v).wins = s.wins ∧ (s.setWake v).ups = s.ups ∧ (s.setWake v).ptp = s.ptp ∧ (s.setWake v).host = s.host ∧
    (s.setWake v).dramBanks = s.dramBanks ∧ (s.setWake v).dramRanks = s.dramRanks ∧ (s.setWake v).dramChans = s.dramChans ∧
    (s.setWake v).raaimt = s.raaimt ∧ (s.setWake v).raammt = s.raammt ∧ (s.setWake v).gorge = s.gorge ∧
    (s.setWake v).gorgeSaves = s.gorgeSaves ∧ (s.setWake v).holds = s.holds ∧ (s.setWake v).vault = s.vault ∧ (s.setWake v).house = s.house ∧
    (s.setWake v).flash = s.flash ∧ (s.setWake v).keyHashes = s.keyHashes ∧ (s.setWake v).boot = s.boot :=
  ⟨rfl, rfl, rfl, rfl, rfl, rfl, rfl, rfl, rfl, rfl, rfl, rfl, rfl, rfl, rfl, rfl, rfl, rfl, rfl, rfl, rfl, rfl, rfl, rfl, rfl, rfl, rfl,
   rfl, rfl, rfl, rfl, rfl, rfl, rfl, rfl, rfl, rfl, rfl, rfl, rfl, rfl, rfl, rfl, rfl, rfl, rfl, rfl, rfl, rfl, rfl, rfl, rfl, rfl, rfl,
   rfl, rfl, rfl, rfl, rfl, rfl, rfl⟩

@[simp] theorem State.setVault_fields (s : State) (v : Vault) :
    (s.setVault v).vault = v ∧ (s.setVault v).pending = s.pending ∧ (s.setVault v).mt = s.mt ∧ (s.setVault v).cw = s.cw ∧
    (s.setVault v).mem = s.mem ∧ (s.setVault v).eccs = s.eccs ∧ (s.setVault v).net = s.net ∧ (s.setVault v).seqs = s.seqs ∧
    (s.setVault v).lines = s.lines ∧ (s.setVault v).freeCtr = s.freeCtr ∧ (s.setVault v).queues = s.queues ∧ (s.setVault v).tb = s.tb ∧
    (s.setVault v).hts = s.hts ∧ (s.setVault v).cols = s.cols ∧ (s.setVault v).basin = s.basin ∧ (s.setVault v).dale = s.dale ∧
    (s.setVault v).held = s.held ∧ (s.setVault v).scrub = s.scrub ∧ (s.setVault v).fanout = s.fanout ∧ (s.setVault v).passed = s.passed ∧
    (s.setVault v).cores = s.cores ∧ (s.setVault v).pgs = s.pgs ∧ (s.setVault v).sets = s.sets ∧ (s.setVault v).maps = s.maps ∧
    (s.setVault v).stares = s.stares ∧ (s.setVault v).loops = s.loops ∧ (s.setVault v).gateLog = s.gateLog ∧ (s.setVault v).scs = s.scs ∧
    (s.setVault v).encs = s.encs ∧ (s.setVault v).halls = s.halls ∧ (s.setVault v).probes = s.probes ∧ (s.setVault v).emus = s.emus ∧
    (s.setVault v).slots = s.slots ∧ (s.setVault v).csiSkip = s.csiSkip ∧ (s.setVault v).pipesOff = s.pipesOff ∧
    (s.setVault v).taps = s.taps ∧ (s.setVault v).i2cs = s.i2cs ∧ (s.setVault v).auxs = s.auxs ∧ (s.setVault v).auxMoves = s.auxMoves ∧
    (s.setVault v).auxStops = s.auxStops ∧ (s.setVault v).auxNext = s.auxNext ∧ (s.setVault v).lanes = s.lanes ∧
    (s.setVault v).links = s.links ∧ (s.setVault v).keySlots = s.keySlots ∧ (s.setVault v).wins = s.wins ∧ (s.setVault v).ups = s.ups ∧
    (s.setVault v).ptp = s.ptp ∧ (s.setVault v).host = s.host ∧ (s.setVault v).dramBanks = s.dramBanks ∧
    (s.setVault v).dramRanks = s.dramRanks ∧ (s.setVault v).dramChans = s.dramChans ∧ (s.setVault v).raaimt = s.raaimt ∧
    (s.setVault v).raammt = s.raammt ∧ (s.setVault v).gorge = s.gorge ∧ (s.setVault v).gorgeSaves = s.gorgeSaves ∧
    (s.setVault v).holds = s.holds ∧ (s.setVault v).wake = s.wake ∧ (s.setVault v).house = s.house ∧ (s.setVault v).flash = s.flash ∧
    (s.setVault v).keyHashes = s.keyHashes ∧ (s.setVault v).boot = s.boot :=
  ⟨rfl, rfl, rfl, rfl, rfl, rfl, rfl, rfl, rfl, rfl, rfl, rfl, rfl, rfl, rfl, rfl, rfl, rfl, rfl, rfl, rfl, rfl, rfl, rfl, rfl, rfl, rfl,
   rfl, rfl, rfl, rfl, rfl, rfl, rfl, rfl, rfl, rfl, rfl, rfl, rfl, rfl, rfl, rfl, rfl, rfl, rfl, rfl, rfl, rfl, rfl, rfl, rfl, rfl, rfl,
   rfl, rfl, rfl, rfl, rfl, rfl, rfl⟩

@[simp] theorem State.setHouse_fields (s : State) (v : House) :
    (s.setHouse v).house = v ∧ (s.setHouse v).pending = s.pending ∧ (s.setHouse v).mt = s.mt ∧ (s.setHouse v).cw = s.cw ∧
    (s.setHouse v).mem = s.mem ∧ (s.setHouse v).eccs = s.eccs ∧ (s.setHouse v).net = s.net ∧ (s.setHouse v).seqs = s.seqs ∧
    (s.setHouse v).lines = s.lines ∧ (s.setHouse v).freeCtr = s.freeCtr ∧ (s.setHouse v).queues = s.queues ∧ (s.setHouse v).tb = s.tb ∧
    (s.setHouse v).hts = s.hts ∧ (s.setHouse v).cols = s.cols ∧ (s.setHouse v).basin = s.basin ∧ (s.setHouse v).dale = s.dale ∧
    (s.setHouse v).held = s.held ∧ (s.setHouse v).scrub = s.scrub ∧ (s.setHouse v).fanout = s.fanout ∧ (s.setHouse v).passed = s.passed ∧
    (s.setHouse v).cores = s.cores ∧ (s.setHouse v).pgs = s.pgs ∧ (s.setHouse v).sets = s.sets ∧ (s.setHouse v).maps = s.maps ∧
    (s.setHouse v).stares = s.stares ∧ (s.setHouse v).loops = s.loops ∧ (s.setHouse v).gateLog = s.gateLog ∧ (s.setHouse v).scs = s.scs ∧
    (s.setHouse v).encs = s.encs ∧ (s.setHouse v).halls = s.halls ∧ (s.setHouse v).probes = s.probes ∧ (s.setHouse v).emus = s.emus ∧
    (s.setHouse v).slots = s.slots ∧ (s.setHouse v).csiSkip = s.csiSkip ∧ (s.setHouse v).pipesOff = s.pipesOff ∧
    (s.setHouse v).taps = s.taps ∧ (s.setHouse v).i2cs = s.i2cs ∧ (s.setHouse v).auxs = s.auxs ∧ (s.setHouse v).auxMoves = s.auxMoves ∧
    (s.setHouse v).auxStops = s.auxStops ∧ (s.setHouse v).auxNext = s.auxNext ∧ (s.setHouse v).lanes = s.lanes ∧
    (s.setHouse v).links = s.links ∧ (s.setHouse v).keySlots = s.keySlots ∧ (s.setHouse v).wins = s.wins ∧ (s.setHouse v).ups = s.ups ∧
    (s.setHouse v).ptp = s.ptp ∧ (s.setHouse v).host = s.host ∧ (s.setHouse v).dramBanks = s.dramBanks ∧
    (s.setHouse v).dramRanks = s.dramRanks ∧ (s.setHouse v).dramChans = s.dramChans ∧ (s.setHouse v).raaimt = s.raaimt ∧
    (s.setHouse v).raammt = s.raammt ∧ (s.setHouse v).gorge = s.gorge ∧ (s.setHouse v).gorgeSaves = s.gorgeSaves ∧
    (s.setHouse v).holds = s.holds ∧ (s.setHouse v).wake = s.wake ∧ (s.setHouse v).vault = s.vault ∧ (s.setHouse v).flash = s.flash ∧
    (s.setHouse v).keyHashes = s.keyHashes ∧ (s.setHouse v).boot = s.boot :=
  ⟨rfl, rfl, rfl, rfl, rfl, rfl, rfl, rfl, rfl, rfl, rfl, rfl, rfl, rfl, rfl, rfl, rfl, rfl, rfl, rfl, rfl, rfl, rfl, rfl, rfl, rfl, rfl,
   rfl, rfl, rfl, rfl, rfl, rfl, rfl, rfl, rfl, rfl, rfl, rfl, rfl, rfl, rfl, rfl, rfl, rfl, rfl, rfl, rfl, rfl, rfl, rfl, rfl, rfl, rfl,
   rfl, rfl, rfl, rfl, rfl, rfl, rfl⟩

@[simp] theorem State.setFlash_fields (s : State) (v : Flash) :
    (s.setFlash v).flash = v ∧ (s.setFlash v).pending = s.pending ∧ (s.setFlash v).mt = s.mt ∧ (s.setFlash v).cw = s.cw ∧
    (s.setFlash v).mem = s.mem ∧ (s.setFlash v).eccs = s.eccs ∧ (s.setFlash v).net = s.net ∧ (s.setFlash v).seqs = s.seqs ∧
    (s.setFlash v).lines = s.lines ∧ (s.setFlash v).freeCtr = s.freeCtr ∧ (s.setFlash v).queues = s.queues ∧ (s.setFlash v).tb = s.tb ∧
    (s.setFlash v).hts = s.hts ∧ (s.setFlash v).cols = s.cols ∧ (s.setFlash v).basin = s.basin ∧ (s.setFlash v).dale = s.dale ∧
    (s.setFlash v).held = s.held ∧ (s.setFlash v).scrub = s.scrub ∧ (s.setFlash v).fanout = s.fanout ∧ (s.setFlash v).passed = s.passed ∧
    (s.setFlash v).cores = s.cores ∧ (s.setFlash v).pgs = s.pgs ∧ (s.setFlash v).sets = s.sets ∧ (s.setFlash v).maps = s.maps ∧
    (s.setFlash v).stares = s.stares ∧ (s.setFlash v).loops = s.loops ∧ (s.setFlash v).gateLog = s.gateLog ∧ (s.setFlash v).scs = s.scs ∧
    (s.setFlash v).encs = s.encs ∧ (s.setFlash v).halls = s.halls ∧ (s.setFlash v).probes = s.probes ∧ (s.setFlash v).emus = s.emus ∧
    (s.setFlash v).slots = s.slots ∧ (s.setFlash v).csiSkip = s.csiSkip ∧ (s.setFlash v).pipesOff = s.pipesOff ∧
    (s.setFlash v).taps = s.taps ∧ (s.setFlash v).i2cs = s.i2cs ∧ (s.setFlash v).auxs = s.auxs ∧ (s.setFlash v).auxMoves = s.auxMoves ∧
    (s.setFlash v).auxStops = s.auxStops ∧ (s.setFlash v).auxNext = s.auxNext ∧ (s.setFlash v).lanes = s.lanes ∧
    (s.setFlash v).links = s.links ∧ (s.setFlash v).keySlots = s.keySlots ∧ (s.setFlash v).wins = s.wins ∧ (s.setFlash v).ups = s.ups ∧
    (s.setFlash v).ptp = s.ptp ∧ (s.setFlash v).host = s.host ∧ (s.setFlash v).dramBanks = s.dramBanks ∧
    (s.setFlash v).dramRanks = s.dramRanks ∧ (s.setFlash v).dramChans = s.dramChans ∧ (s.setFlash v).raaimt = s.raaimt ∧
    (s.setFlash v).raammt = s.raammt ∧ (s.setFlash v).gorge = s.gorge ∧ (s.setFlash v).gorgeSaves = s.gorgeSaves ∧
    (s.setFlash v).holds = s.holds ∧ (s.setFlash v).wake = s.wake ∧ (s.setFlash v).vault = s.vault ∧ (s.setFlash v).house = s.house ∧
    (s.setFlash v).keyHashes = s.keyHashes ∧ (s.setFlash v).boot = s.boot :=
  ⟨rfl, rfl, rfl, rfl, rfl, rfl, rfl, rfl, rfl, rfl, rfl, rfl, rfl, rfl, rfl, rfl, rfl, rfl, rfl, rfl, rfl, rfl, rfl, rfl, rfl, rfl, rfl,
   rfl, rfl, rfl, rfl, rfl, rfl, rfl, rfl, rfl, rfl, rfl, rfl, rfl, rfl, rfl, rfl, rfl, rfl, rfl, rfl, rfl, rfl, rfl, rfl, rfl, rfl, rfl,
   rfl, rfl, rfl, rfl, rfl, rfl, rfl⟩

@[simp] theorem State.setKeyHashes_fields (s : State) (v : List (List Byte)) :
    (s.setKeyHashes v).keyHashes = v ∧ (s.setKeyHashes v).pending = s.pending ∧ (s.setKeyHashes v).mt = s.mt ∧ (s.setKeyHashes v).cw = s.cw ∧
    (s.setKeyHashes v).mem = s.mem ∧ (s.setKeyHashes v).eccs = s.eccs ∧ (s.setKeyHashes v).net = s.net ∧ (s.setKeyHashes v).seqs = s.seqs ∧
    (s.setKeyHashes v).lines = s.lines ∧ (s.setKeyHashes v).freeCtr = s.freeCtr ∧ (s.setKeyHashes v).queues = s.queues ∧
    (s.setKeyHashes v).tb = s.tb ∧ (s.setKeyHashes v).hts = s.hts ∧ (s.setKeyHashes v).cols = s.cols ∧ (s.setKeyHashes v).basin = s.basin ∧
    (s.setKeyHashes v).dale = s.dale ∧ (s.setKeyHashes v).held = s.held ∧ (s.setKeyHashes v).scrub = s.scrub ∧
    (s.setKeyHashes v).fanout = s.fanout ∧ (s.setKeyHashes v).passed = s.passed ∧ (s.setKeyHashes v).cores = s.cores ∧
    (s.setKeyHashes v).pgs = s.pgs ∧ (s.setKeyHashes v).sets = s.sets ∧ (s.setKeyHashes v).maps = s.maps ∧
    (s.setKeyHashes v).stares = s.stares ∧ (s.setKeyHashes v).loops = s.loops ∧ (s.setKeyHashes v).gateLog = s.gateLog ∧
    (s.setKeyHashes v).scs = s.scs ∧ (s.setKeyHashes v).encs = s.encs ∧ (s.setKeyHashes v).halls = s.halls ∧
    (s.setKeyHashes v).probes = s.probes ∧ (s.setKeyHashes v).emus = s.emus ∧ (s.setKeyHashes v).slots = s.slots ∧
    (s.setKeyHashes v).csiSkip = s.csiSkip ∧ (s.setKeyHashes v).pipesOff = s.pipesOff ∧ (s.setKeyHashes v).taps = s.taps ∧
    (s.setKeyHashes v).i2cs = s.i2cs ∧ (s.setKeyHashes v).auxs = s.auxs ∧ (s.setKeyHashes v).auxMoves = s.auxMoves ∧
    (s.setKeyHashes v).auxStops = s.auxStops ∧ (s.setKeyHashes v).auxNext = s.auxNext ∧ (s.setKeyHashes v).lanes = s.lanes ∧
    (s.setKeyHashes v).links = s.links ∧ (s.setKeyHashes v).keySlots = s.keySlots ∧ (s.setKeyHashes v).wins = s.wins ∧
    (s.setKeyHashes v).ups = s.ups ∧ (s.setKeyHashes v).ptp = s.ptp ∧ (s.setKeyHashes v).host = s.host ∧
    (s.setKeyHashes v).dramBanks = s.dramBanks ∧ (s.setKeyHashes v).dramRanks = s.dramRanks ∧ (s.setKeyHashes v).dramChans = s.dramChans ∧
    (s.setKeyHashes v).raaimt = s.raaimt ∧ (s.setKeyHashes v).raammt = s.raammt ∧ (s.setKeyHashes v).gorge = s.gorge ∧
    (s.setKeyHashes v).gorgeSaves = s.gorgeSaves ∧ (s.setKeyHashes v).holds = s.holds ∧ (s.setKeyHashes v).wake = s.wake ∧
    (s.setKeyHashes v).vault = s.vault ∧ (s.setKeyHashes v).house = s.house ∧ (s.setKeyHashes v).flash = s.flash ∧
    (s.setKeyHashes v).boot = s.boot :=
  ⟨rfl, rfl, rfl, rfl, rfl, rfl, rfl, rfl, rfl, rfl, rfl, rfl, rfl, rfl, rfl, rfl, rfl, rfl, rfl, rfl, rfl, rfl, rfl, rfl, rfl, rfl, rfl,
   rfl, rfl, rfl, rfl, rfl, rfl, rfl, rfl, rfl, rfl, rfl, rfl, rfl, rfl, rfl, rfl, rfl, rfl, rfl, rfl, rfl, rfl, rfl, rfl, rfl, rfl, rfl,
   rfl, rfl, rfl, rfl, rfl, rfl, rfl⟩

@[simp] theorem State.setBoot_fields (s : State) (v : BootSt) :
    (s.setBoot v).boot = v ∧ (s.setBoot v).pending = s.pending ∧ (s.setBoot v).mt = s.mt ∧ (s.setBoot v).cw = s.cw ∧
    (s.setBoot v).mem = s.mem ∧ (s.setBoot v).eccs = s.eccs ∧ (s.setBoot v).net = s.net ∧ (s.setBoot v).seqs = s.seqs ∧
    (s.setBoot v).lines = s.lines ∧ (s.setBoot v).freeCtr = s.freeCtr ∧ (s.setBoot v).queues = s.queues ∧ (s.setBoot v).tb = s.tb ∧
    (s.setBoot v).hts = s.hts ∧ (s.setBoot v).cols = s.cols ∧ (s.setBoot v).basin = s.basin ∧ (s.setBoot v).dale = s.dale ∧
    (s.setBoot v).held = s.held ∧ (s.setBoot v).scrub = s.scrub ∧ (s.setBoot v).fanout = s.fanout ∧ (s.setBoot v).passed = s.passed ∧
    (s.setBoot v).cores = s.cores ∧ (s.setBoot v).pgs = s.pgs ∧ (s.setBoot v).sets = s.sets ∧ (s.setBoot v).maps = s.maps ∧
    (s.setBoot v).stares = s.stares ∧ (s.setBoot v).loops = s.loops ∧ (s.setBoot v).gateLog = s.gateLog ∧ (s.setBoot v).scs = s.scs ∧
    (s.setBoot v).encs = s.encs ∧ (s.setBoot v).halls = s.halls ∧ (s.setBoot v).probes = s.probes ∧ (s.setBoot v).emus = s.emus ∧
    (s.setBoot v).slots = s.slots ∧ (s.setBoot v).csiSkip = s.csiSkip ∧ (s.setBoot v).pipesOff = s.pipesOff ∧ (s.setBoot v).taps = s.taps ∧
    (s.setBoot v).i2cs = s.i2cs ∧ (s.setBoot v).auxs = s.auxs ∧ (s.setBoot v).auxMoves = s.auxMoves ∧ (s.setBoot v).auxStops = s.auxStops ∧
    (s.setBoot v).auxNext = s.auxNext ∧ (s.setBoot v).lanes = s.lanes ∧ (s.setBoot v).links = s.links ∧ (s.setBoot v).keySlots = s.keySlots ∧
    (s.setBoot v).wins = s.wins ∧ (s.setBoot v).ups = s.ups ∧ (s.setBoot v).ptp = s.ptp ∧ (s.setBoot v).host = s.host ∧
    (s.setBoot v).dramBanks = s.dramBanks ∧ (s.setBoot v).dramRanks = s.dramRanks ∧ (s.setBoot v).dramChans = s.dramChans ∧
    (s.setBoot v).raaimt = s.raaimt ∧ (s.setBoot v).raammt = s.raammt ∧ (s.setBoot v).gorge = s.gorge ∧
    (s.setBoot v).gorgeSaves = s.gorgeSaves ∧ (s.setBoot v).holds = s.holds ∧ (s.setBoot v).wake = s.wake ∧ (s.setBoot v).vault = s.vault ∧
    (s.setBoot v).house = s.house ∧ (s.setBoot v).flash = s.flash ∧ (s.setBoot v).keyHashes = s.keyHashes :=
  ⟨rfl, rfl, rfl, rfl, rfl, rfl, rfl, rfl, rfl, rfl, rfl, rfl, rfl, rfl, rfl, rfl, rfl, rfl, rfl, rfl, rfl, rfl, rfl, rfl, rfl, rfl, rfl,
   rfl, rfl, rfl, rfl, rfl, rfl, rfl, rfl, rfl, rfl, rfl, rfl, rfl, rfl, rfl, rfl, rfl, rfl, rfl, rfl, rfl, rfl, rfl, rfl, rfl, rfl, rfl,
   rfl, rfl, rfl, rfl, rfl, rfl, rfl⟩

/-- Two states with equal fields are equal. -/
theorem State.eq_of_fields {s t : State} 
    (h0 : s.pending = t.pending) (h1 : s.mt = t.mt) (h2 : s.cw = t.cw) (h3 : s.mem = t.mem) (h4 : s.eccs = t.eccs) (h5 : s.net =
    t.net) (h6 : s.seqs = t.seqs) (h7 : s.lines = t.lines) (h8 : s.freeCtr = t.freeCtr) (h9 : s.queues = t.queues) (h10 : s.tb =
    t.tb) (h11 : s.hts = t.hts) (h12 : s.cols = t.cols) (h13 : s.basin = t.basin) (h14 : s.dale = t.dale) (h15 : s.held = t.held)
    (h16 : s.scrub = t.scrub) (h17 : s.fanout = t.fanout) (h18 : s.passed = t.passed) (h19 : s.cores = t.cores) (h20 : s.pgs =
    t.pgs) (h21 : s.sets = t.sets) (h22 : s.maps = t.maps) (h23 : s.stares = t.stares) (h24 : s.loops = t.loops) (h25 : s.gateLog
    = t.gateLog) (h26 : s.scs = t.scs) (h27 : s.encs = t.encs) (h28 : s.halls = t.halls) (h29 : s.probes = t.probes) (h30 : s.emus
    = t.emus) (h31 : s.slots = t.slots) (h32 : s.csiSkip = t.csiSkip) (h33 : s.pipesOff = t.pipesOff) (h34 : s.taps = t.taps) (h35
    : s.i2cs = t.i2cs) (h36 : s.auxs = t.auxs) (h37 : s.auxMoves = t.auxMoves) (h38 : s.auxStops = t.auxStops) (h39 : s.auxNext =
    t.auxNext) (h40 : s.lanes = t.lanes) (h41 : s.links = t.links) (h42 : s.keySlots = t.keySlots) (h43 : s.wins = t.wins) (h44 :
    s.ups = t.ups) (h45 : s.ptp = t.ptp) (h46 : s.host = t.host) (h47 : s.dramBanks = t.dramBanks) (h48 : s.dramRanks =
    t.dramRanks) (h49 : s.dramChans = t.dramChans) (h50 : s.raaimt = t.raaimt) (h51 : s.raammt = t.raammt) (h52 : s.gorge =
    t.gorge) (h53 : s.gorgeSaves = t.gorgeSaves) (h54 : s.holds = t.holds) (h55 : s.wake = t.wake) (h56 : s.vault = t.vault) (h57
    : s.house = t.house) (h58 : s.flash = t.flash) (h59 : s.keyHashes = t.keyHashes) (h60 : s.boot = t.boot) : s = t := by
  cases s
  cases t
  congr

end Sys2Proof.Machine
end

