-- ==== Sys2Proof/Laws/Words.lean ====
section
/-! SUPPORT. The laws of control words, their fields, memory and the units' records: read after write, and what a write leaves alone. -/

namespace Sys2Proof.Machine

open Sys2Proof

/-! ### The canonical form goes through the primitive writes -/

theorem State.canonical_cw {s : State} (h : s.canonical = true) : twf cwReset s.cw = true := ((State.canonical_iff s).1 h).1

theorem State.canonical_mem {s : State} (h : s.canonical = true) : twf memDefault s.mem = true := ((State.canonical_iff s).1 h).2.1

theorem State.canonical_setWord {s : State} (a : Nat) (w : Word) (h : s.canonical = true) : (s.setWord a w).canonical = true :=
  (State.setWord_kept (Kept.refl s)).canon h

theorem State.canonical_setF {s : State} (f : Fld) (i v : Nat) (h : s.canonical = true) : (s.setF f i v).canonical = true :=
  (State.setF_kept (Kept.refl s)).canon h

theorem State.canonical_setFi {s : State} (f : Fld) (i : Nat) (v : Int) (h : s.canonical = true) : (s.setFi f i v).canonical = true :=
  (State.setFi_kept (Kept.refl s)).canon h

theorem State.canonical_incF {s : State} (f : Fld) (i n : Nat) (h : s.canonical = true) : (s.incF f i n).canonical = true :=
  (State.incF_kept (Kept.refl s)).canon h

/-! ### Words -/

/-- A word read after a word was written. -/
theorem State.word_setWord {s : State} (h : s.canonical = true) (a b : Nat) (w : Word) :
    (s.setWord a w).word b = if b = a then w else s.word b := by
  split
  · next e => subst e; exact tget_tset_same b w (State.canonical_cw h)
  · next e => exact tget_tset_other a b w (State.canonical_cw h) e

/-- A word depends on the control words alone. -/
theorem State.word_congr {s t : State} (h : t.cw = s.cw) (a : Nat) : t.word a = s.word a := by
  unfold State.word; rw [h]

theorem State.f_congr {s t : State} (h : t.cw = s.cw) (f : Fld) (i : Nat) : t.f f i = s.f f i := by
  unfold State.f; rw [State.word_congr h]

/-- Writing a word touches the control words alone. -/
theorem State.setWord_eq (s : State) (a : Nat) (w : Word) : s.setWord a w = s.setCw (tset cwReset s.cw a w) := rfl

theorem State.setF_eq (s : State) (f : Fld) (i v : Nat) : s.setF f i v = s.setWord (f.addr i) (f.put (s.word (f.addr i)) v) := rfl

/-- A word of a state after a field was set. -/
theorem State.word_setF {s : State} (h : s.canonical = true) (f : Fld) (i v b : Nat) :
    (s.setF f i v).word b = if b = f.addr i then f.put (s.word b) v else s.word b := by
  rw [State.setF_eq, State.word_setWord h]
  split
  · next e => rw [e]
  · rfl

/-! ### Fields -/

/-- A field's bit in a word with another value put in it. -/
theorem Fld.getLsbD_put (f : Fld) (w : Word) (v i : Nat) (hf : f.hi < 64) :
    (f.put w v).getLsbD i = if f.lo ≤ i ∧ i ≤ f.hi then v.testBit (i - f.lo) else w.getLsbD i := by
  have place_bit : ∀ (x n : Nat), n + f.lo ≤ 64 → (BitVec.ofNat 64 (place x n f.lo)).getLsbD i =
      decide (f.lo ≤ i ∧ i < n + f.lo ∧ x.testBit (i - f.lo) = true) := by
    intro x n hn
    rw [BitVec.getLsbD_ofNat]
    simp only [place, Nat.testBit_mul_two_pow, Nat.testBit_mod_two_pow]
    by_cases h1 : f.lo ≤ i
    · by_cases h2 : i < n + f.lo
      · have h3 : i < 64 := by omega
        have h4 : i - f.lo < n := by omega
        simp [h1, h2, h3, h4]
      · have h4 : ¬ i - f.lo < n := by omega
        simp [h2, h4]
    · simp [h1]
  by_cases hlo : f.lo ≤ f.hi + 1
  · have hn : f.hi + 1 - f.lo + f.lo ≤ 64 := by omega
    unfold Fld.put Fld.mask wd
    simp only [BitVec.getLsbD_or, BitVec.getLsbD_and, BitVec.getLsbD_not]
    rw [place_bit _ _ hn, place_bit _ _ hn]
    by_cases h1 : f.lo ≤ i
    · by_cases h2 : i ≤ f.hi
      · have h3 : i < f.hi + 1 - f.lo + f.lo := by omega
        have h4 : i - f.lo < 64 := by omega
        have h5 : (2 ^ 64 - 1 : Nat).testBit (i - f.lo) = true := by
          rw [Nat.testBit_two_pow_sub_one]; simp [h4]
        simp only [h1, h2, h3, h5, and_self, decide_true, Bool.not_true, Bool.and_false, Bool.false_or, if_true, true_and]
        simp
      · have h3 : ¬ i < f.hi + 1 - f.lo + f.lo := by omega
        simp only [h1, h2, h3, and_false, false_and, decide_false, Bool.not_false, Bool.and_true, Bool.or_false, if_false]
        by_cases h6 : i < 64
        · simp [h6]
        · rw [BitVec.getLsbD_of_ge w i (by omega)]; simp
    · simp only [h1, false_and, decide_false, Bool.not_false, Bool.and_true, Bool.or_false, if_false]
      by_cases h6 : i < 64
      · simp [h6]
      · rw [BitVec.getLsbD_of_ge w i (by omega)]; simp
  · have hz : f.hi + 1 - f.lo = 0 := by omega
    have h1 : ¬ (f.lo ≤ i ∧ i ≤ f.hi) := by omega
    unfold Fld.put Fld.mask wd place
    simp only [hz, h1, if_false, Nat.pow_zero, Nat.mod_one, Nat.zero_mul]
    rw [show ~~~(BitVec.ofNat 64 0) = BitVec.allOnes 64 by decide, BitVec.and_allOnes]
    simp

/-- The bits of a field's value. -/
theorem Fld.testBit_get (f : Fld) (w : Word) (i : Nat) : (f.get w).testBit i = (decide (i < f.hi + 1 - f.lo) && w.getLsbD (f.lo + i)) := by
  unfold Fld.get bits
  rw [Nat.testBit_mod_two_pow, Nat.testBit_shiftRight, BitVec.testBit_toNat]

/-- The field just put reads the value put, cut to its width. -/
theorem Fld.get_put_same (f : Fld) (w : Word) (v : Nat) (hf : f.hi < 64) : f.get (f.put w v) = v % 2 ^ (f.hi + 1 - f.lo) := by
  apply Nat.eq_of_testBit_eq
  intro i
  rw [Fld.testBit_get, Fld.getLsbD_put f w v _ hf, Nat.testBit_mod_two_pow]
  by_cases h : i < f.hi + 1 - f.lo
  · have h1 : f.lo ≤ f.lo + i ∧ f.lo + i ≤ f.hi := by omega
    simp [h, h1]
  · simp [h]

/-- A field that shares no bit with the one put reads as before. -/
theorem Fld.get_put_other (f g : Fld) (w : Word) (v : Nat) (hf : f.hi < 64) (hd : f.hi < g.lo ∨ g.hi < f.lo) :
    g.get (f.put w v) = g.get w := by
  apply Nat.eq_of_testBit_eq
  intro i
  rw [Fld.testBit_get, Fld.testBit_get, Fld.getLsbD_put f w v _ hf]
  by_cases h : i < g.hi + 1 - g.lo
  · have h1 : ¬ (f.lo ≤ g.lo + i ∧ g.lo + i ≤ f.hi) := by omega
    simp [h1]
  · simp [h]

/-- The field just set. -/
theorem State.f_setF_same {s : State} (h : s.canonical = true) (f : Fld) (i v : Nat) (hf : f.hi < 64) :
    (s.setF f i v).f f i = v % 2 ^ (f.hi + 1 - f.lo) := by
  unfold State.f
  rw [State.word_setF h, if_pos rfl, Fld.get_put_same f _ v hf]

/-- A field of another word is not touched. -/
theorem State.f_setF_word {s : State} (h : s.canonical = true) (f g : Fld) (i j v : Nat) (ha : g.addr j ≠ f.addr i) :
    (s.setF f i v).f g j = s.f g j := by
  unfold State.f
  rw [State.word_setF h, if_neg ha]

/-- A field of the same word that shares no bit with the one set is not touched. -/
theorem State.f_setF_bits {s : State} (h : s.canonical = true) (f g : Fld) (i j v : Nat) (hf : f.hi < 64) (hd : f.hi < g.lo ∨ g.hi < f.lo) :
    (s.setF f i v).f g j = s.f g j := by
  unfold State.f
  rw [State.word_setF h]
  split
  · exact Fld.get_put_other f g _ v hf hd
  · rfl

/-! ### Memory -/

/-- A byte read after a byte was written. -/
theorem State.byte_setByte {s : State} (h : s.canonical = true) (a b : Nat) (v : Byte) :
    (s.setByte a v).byte b = if b = a then v else s.byte b := by
  split
  · next e => subst e; exact tget_tset_same b v (State.canonical_mem h)
  · next e => exact tget_tset_other a b v (State.canonical_mem h) e

theorem State.canonical_setByte {s : State} (a : Nat) (v : Byte) (h : s.canonical = true) : (s.setByte a v).canonical = true :=
  (State.setByte_kept (Kept.refl s)).canon h

/-- A byte read after a run of bytes was written. -/
theorem State.byte_setBytes : ∀ {l : List Byte} {s : State} (_ : s.canonical = true) (a b : Nat),
    (s.setBytes a l).byte b = if a ≤ b ∧ b < a + l.length then l.getD (b - a) 0#8 else s.byte b
  | [], s, _, a, b => by
    have h1 : ¬ (a ≤ b ∧ b < a + ([] : List Byte).length) := by simp
    rw [if_neg h1]; rfl
  | v :: t, s, h, a, b => by
    rw [State.setBytes, State.byte_setBytes (State.canonical_setByte a v h) (a + 1) b, State.byte_setByte h]
    simp only [List.length_cons]
    by_cases h1 : a + 1 ≤ b ∧ b < a + 1 + t.length
    · have h2 : a ≤ b ∧ b < a + (t.length + 1) := by omega
      obtain ⟨k, hk⟩ : ∃ k, b - a = k + 1 := ⟨b - a - 1, by omega⟩
      have h3 : b - (a + 1) = k := by omega
      rw [if_pos h1, if_pos h2, hk, h3]; rfl
    · rw [if_neg h1]
      by_cases h3 : b = a
      · subst h3
        have h2 : b ≤ b ∧ b < b + (t.length + 1) := by omega
        simp
      · have h2 : ¬ (a ≤ b ∧ b < a + (t.length + 1)) := by omega
        rw [if_neg h3, if_neg h2]

/-- A word store writes its eight bytes, least significant first, and no other byte. -/
theorem State.byte_st {s : State} (h : s.canonical = true) (a b : Nat) (w : Word) :
    (s.st a w).byte b = if a ≤ b ∧ b < a + 8 then (leBytes 8 w.toNat).getD (b - a) 0#8 else s.byte b := by
  have h1 := State.byte_setBytes (l := leBytes 8 w.toNat) h a b
  have h2 : (leBytes 8 w.toNat).length = 8 := by simp [leBytes]
  rw [h2] at h1
  exact h1

/-! ### The units' records -/

theorem State.col_setCol {s : State} (h : s.canonical = true) (n m : Nat) (c : Col) : (s.setCol n c).col m = if m = n then c else s.col m := by
  have hc : twf (fun _ => ({} : Col)) s.cols = true := by
    have := (State.canonical_iff s).1 h
    tauto
  split
  · next e => subst e; exact tget_tset_same m c hc
  · next e => exact tget_tset_other n m c hc e

theorem State.queue_setQueue {s : State} (h : s.canonical = true) (n m : Nat) (q : QueueSt) :
    (s.setQueue n q).queue m = if m = n then q else s.queue m := by
  have hc : twf (fun _ => ({} : QueueSt)) s.queues = true := by
    have := (State.canonical_iff s).1 h
    tauto
  split
  · next e => subst e; exact tget_tset_same m q hc
  · next e => exact tget_tset_other n m q hc e

end Sys2Proof.Machine
end

