-- ==== Sys2Proof/Laws/Frames.lean ====
section
/-! SUPPORT. What each shared operation leaves alone: one lemma per operation, every field it does not touch. -/

namespace Sys2Proof.Machine

open Sys2Proof

theorem foldl_setCw {α : Type} (l : List α) (f : State → α → State) (hf : ∀ s x, ∃ c, f s x = s.setCw c) :
    ∀ s : State, ∃ c, l.foldl f s = s.setCw c := by
  induction l with
  | nil => intro s; exact ⟨s.cw, rfl⟩
  | cons x l ih =>
    intro s
    obtain ⟨c, hc⟩ := hf s x
    obtain ⟨d, hd⟩ := ih (f s x)
    exact ⟨d, by rw [List.foldl_cons, hd, hc]; rfl⟩

theorem State.ecAdd_eq (s : State) (i n : Nat) : ∃ c, s.ecAdd i n = s.setCw c := by
  unfold State.ecAdd
  extract_lets v u
  split <;> exact ⟨_, rfl⟩

/-- An event touches the control words alone. -/
theorem State.event_eq (s : State) (e : Nat) (t : Option Token) (n : Nat) : ∃ c, s.event e t n = s.setCw c := by
  unfold State.event
  split
  · exact ⟨s.cw, rfl⟩
  · refine foldl_setCw _ _ ?_ s
    intro u x
    split
    · exact State.ecAdd_eq _ _ _
    · exact ⟨u.cw, rfl⟩

theorem State.deliver_eq (s : State) (ep : Nat) (t : Token) : ∃ c, s.deliver ep t = (s.setNet (s.net.erase t)).setCw c :=
  State.event_eq _ _ _ _

theorem State.deliverAll_eq (ep : Nat) (ts : List Token) : ∀ s : State, ∃ c n, s.deliverAll ep ts = (s.setNet n).setCw c := by
  unfold State.deliverAll
  induction ts with
  | nil => intro s; exact ⟨s.cw, s.net, rfl⟩
  | cons t ts ih =>
    intro s
    obtain ⟨c, hc⟩ := State.deliver_eq s ep t
    obtain ⟨d, n, hd⟩ := ih (s.deliver ep t)
    exact ⟨d, n, by rw [List.foldl_cons, hd, hc]; rfl⟩

theorem State.setBytes_eq : ∀ (l : List Byte) (s : State) (a : Nat), ∃ m, s.setBytes a l = s.setMem m
  | [], s, _ => ⟨s.mem, rfl⟩
  | b :: l, s, a => by
    obtain ⟨m, hm⟩ := State.setBytes_eq l (s.setByte a b) (a + 1)
    exact ⟨m, by rw [State.setBytes, hm]; rfl⟩

theorem State.st_eq (s : State) (a : Nat) (w : Word) : ∃ m e, s.st a w = (s.setMem m).setEccs e := by
  obtain ⟨m, hm⟩ := State.setBytes_eq (leBytes 8 w.toNat) s a
  exact ⟨m, tset (fun _ => none) s.eccs (a / 8 * 8) none, by unfold State.st State.setEcc; rw [hm]; rfl⟩

theorem State.sts_eq (l : List Word) : ∀ (s : State) (a : Nat), ∃ m e, s.sts a l = (s.setMem m).setEccs e := by
  induction l with
  | nil => intro s a; exact ⟨s.mem, s.eccs, rfl⟩
  | cons w l ih =>
    intro s a
    unfold State.sts
    obtain ⟨m, e, hm⟩ := State.st_eq s a w
    obtain ⟨m', e', hm'⟩ := ih (s.st a w) (a + 8)
    exact ⟨m', e', by rw [hm', hm]; rfl⟩

theorem State.sendMsg_eq (src dest kind stream : Nat) : ∀ (l : List Word) (s : State),
    ∃ n q, s.sendMsg src dest kind stream l = (s.setNet n).setSeqs q
  | [], s => ⟨s.net, s.seqs, rfl⟩
  | [w], s => ⟨_, _, rfl⟩
  | w :: v :: l, s => by
    obtain ⟨n, q, hm⟩ := State.sendMsg_eq src dest kind stream (v :: l) (s.send (mkTok src dest kind stream w false))
    have h1 : s.sendMsg src dest kind stream (w :: v :: l) =
      (s.send (mkTok src dest kind stream w false)).sendMsg src dest kind stream (v :: l) := rfl
    rw [h1, hm]
    exact ⟨n, q, rfl⟩

theorem State.mirrorRecord_eq (s : State) (w : List Word) : ∃ c, s.mirrorRecord w = s.setCw c := by
  unfold State.mirrorRecord
  split
  · exact ⟨s.cw, rfl⟩
  · extract_lets j u
    have hu : ∃ c, u = s.setCw c := foldl_setCw (List.range 4) _ (fun t i => ⟨_, rfl⟩) s
    clear_value u
    obtain ⟨c, rfl⟩ := hu
    exact ⟨_, rfl⟩

/-- What the writing of a record may change. -/
def DaleOut (a b : State) : Prop := ∃ c m e d l, b = ((((a.setCw c).setMem m).setEccs e).setDale d).setLines l

theorem DaleOut.refl (a : State) : DaleOut a a := by
  refine ⟨a.cw, a.mem, a.eccs, a.dale, a.lines, ?_⟩
  have h1 : a.setCw a.cw = a := rfl
  have h2 : a.setMem a.mem = a := rfl
  have h3 : a.setEccs a.eccs = a := rfl
  have h4 : a.setDale a.dale = a := rfl
  have h5 : a.setLines a.lines = a := rfl
  rw [h1, h2, h3, h4, h5]

theorem DaleOut.setCw {a b : State} (h : DaleOut a b) (x : List (Nat × Word)) : DaleOut a (b.setCw x) := by
  obtain ⟨_, _, _, _, _, rfl⟩ := h
  exact ⟨_, _, _, _, _, rfl⟩

theorem DaleOut.setDale {a b : State} (h : DaleOut a b) (x : Dale) : DaleOut a (b.setDale x) := by
  obtain ⟨_, _, _, _, _, rfl⟩ := h
  exact ⟨_, _, _, _, _, rfl⟩

theorem DaleOut.setLines {a b : State} (h : DaleOut a b) (x : List Raise) : DaleOut a (b.setLines x) := by
  obtain ⟨_, _, _, _, _, rfl⟩ := h
  exact ⟨_, _, _, _, _, rfl⟩

theorem DaleOut.setF {a b : State} (h : DaleOut a b) (f : Fld) (i v : Nat) : DaleOut a (b.setF f i v) := h.setCw _

theorem DaleOut.event {a b : State} (h : DaleOut a b) (e : Nat) (t : Option Token) (n : Nat) : DaleOut a (b.event e t n) := by
  obtain ⟨c, hc⟩ := State.event_eq b e t n
  rw [hc]
  exact h.setCw c

theorem DaleOut.sts {a b : State} (h : DaleOut a b) (x : Nat) (l : List Word) : DaleOut a (b.sts x l) := by
  obtain ⟨m, e, hm⟩ := State.sts_eq l b x
  rw [hm]
  obtain ⟨_, _, _, _, _, rfl⟩ := h
  exact ⟨_, _, _, _, _, rfl⟩

theorem DaleOut.mirror {a b : State} (h : DaleOut a b) (w : List Word) : DaleOut a (b.mirrorRecord w) := by
  obtain ⟨c, hc⟩ := State.mirrorRecord_eq b w
  rw [hc]
  exact h.setCw c

theorem State.daleRecord_out (s : State) (r : Raise) (real inj : Bool) : DaleOut s (s.daleRecord r real inj) := by
  unfold State.daleRecord
  extract_lets ws lost d0 D E d1 k F
  have hD : DaleOut s D := ((DaleOut.refl s).setDale _).mirror ws
  clear_value D
  split
  · have hE : DaleOut s E := ((hD.setF _ _ _).setF _ _ _).event _ _ _
    clear_value E
    split
    · exact (hE.setDale _).setLines _
    · exact hE
  · have hF : DaleOut s F := hD.sts _ _
    clear_value F
    exact ((hF.setF _ _ _).setF _ _ _).event _ _ _

theorem State.daleRecord_eq (s : State) (r : Raise) (real inj : Bool) :
    ∃ c m e d l, s.daleRecord r real inj = ((((s.setCw c).setMem m).setEccs e).setDale d).setLines l := State.daleRecord_out s r real inj

theorem State.record7_eq (s : State) (source rtype unit src : Nat) (d0 d1 : Word) (mt : Option Nat) :
    ∃ c m e d l, s.record7 source rtype unit src d0 d1 mt = ((((s.setCw c).setMem m).setEccs e).setDale d).setLines l :=
  State.daleRecord_eq s _ true false

@[simp] theorem State.setWord_fields (s : State) (a : Nat) (w : Word) :
    (s.setWord a w).pending = s.pending ∧ (s.setWord a w).mt = s.mt ∧ (s.setWord a w).mem = s.mem ∧ (s.setWord a w).eccs = s.eccs ∧
    (s.setWord a w).net = s.net ∧ (s.setWord a w).seqs = s.seqs ∧ (s.setWord a w).lines = s.lines ∧ (s.setWord a w).freeCtr = s.freeCtr ∧
    (s.setWord a w).queues = s.queues ∧ (s.setWord a w).tb = s.tb ∧ (s.setWord a w).hts = s.hts ∧ (s.setWord a w).cols = s.cols ∧
    (s.setWord a w).basin = s.basin ∧ (s.setWord a w).dale = s.dale ∧ (s.setWord a w).held = s.held ∧ (s.setWord a w).scrub = s.scrub ∧
    (s.setWord a w).fanout = s.fanout ∧ (s.setWord a w).passed = s.passed ∧ (s.setWord a w).cores = s.cores ∧ (s.setWord a w).pgs = s.pgs ∧
    (s.setWord a w).sets = s.sets ∧ (s.setWord a w).maps = s.maps ∧ (s.setWord a w).stares = s.stares ∧ (s.setWord a w).loops = s.loops ∧
    (s.setWord a w).gateLog = s.gateLog ∧ (s.setWord a w).scs = s.scs ∧ (s.setWord a w).encs = s.encs ∧ (s.setWord a w).halls = s.halls ∧
    (s.setWord a w).probes = s.probes ∧ (s.setWord a w).emus = s.emus ∧ (s.setWord a w).slots = s.slots ∧
    (s.setWord a w).csiSkip = s.csiSkip ∧ (s.setWord a w).pipesOff = s.pipesOff ∧ (s.setWord a w).taps = s.taps ∧
    (s.setWord a w).i2cs = s.i2cs ∧ (s.setWord a w).auxs = s.auxs ∧ (s.setWord a w).auxMoves = s.auxMoves ∧
    (s.setWord a w).auxStops = s.auxStops ∧ (s.setWord a w).auxNext = s.auxNext ∧ (s.setWord a w).lanes = s.lanes ∧
    (s.setWord a w).links = s.links ∧ (s.setWord a w).keySlots = s.keySlots ∧ (s.setWord a w).wins = s.wins ∧ (s.setWord a w).ups = s.ups ∧
    (s.setWord a w).ptp = s.ptp ∧ (s.setWord a w).host = s.host ∧ (s.setWord a w).dramBanks = s.dramBanks ∧
    (s.setWord a w).dramRanks = s.dramRanks ∧ (s.setWord a w).dramChans = s.dramChans ∧ (s.setWord a w).raaimt = s.raaimt ∧
    (s.setWord a w).raammt = s.raammt ∧ (s.setWord a w).gorge = s.gorge ∧ (s.setWord a w).gorgeSaves = s.gorgeSaves ∧
    (s.setWord a w).holds = s.holds ∧ (s.setWord a w).wake = s.wake ∧ (s.setWord a w).vault = s.vault ∧ (s.setWord a w).house = s.house ∧
    (s.setWord a w).flash = s.flash ∧ (s.setWord a w).keyHashes = s.keyHashes ∧ (s.setWord a w).boot = s.boot := by
  exact ⟨rfl, rfl, rfl, rfl, rfl, rfl, rfl, rfl, rfl, rfl, rfl, rfl, rfl, rfl, rfl, rfl, rfl, rfl, rfl, rfl, rfl, rfl, rfl, rfl, rfl,
    rfl, rfl, rfl, rfl, rfl, rfl, rfl, rfl, rfl, rfl, rfl, rfl, rfl, rfl, rfl, rfl, rfl, rfl, rfl, rfl, rfl, rfl, rfl, rfl, rfl, rfl,
    rfl, rfl, rfl, rfl, rfl, rfl, rfl, rfl, rfl⟩

@[simp] theorem State.setF_fields (s : State) (f : Fld) (i v : Nat) :
    (s.setF f i v).pending = s.pending ∧ (s.setF f i v).mt = s.mt ∧ (s.setF f i v).mem = s.mem ∧ (s.setF f i v).eccs = s.eccs ∧
    (s.setF f i v).net = s.net ∧ (s.setF f i v).seqs = s.seqs ∧ (s.setF f i v).lines = s.lines ∧ (s.setF f i v).freeCtr = s.freeCtr ∧
    (s.setF f i v).queues = s.queues ∧ (s.setF f i v).tb = s.tb ∧ (s.setF f i v).hts = s.hts ∧ (s.setF f i v).cols = s.cols ∧
    (s.setF f i v).basin = s.basin ∧ (s.setF f i v).dale = s.dale ∧ (s.setF f i v).held = s.held ∧ (s.setF f i v).scrub = s.scrub ∧
    (s.setF f i v).fanout = s.fanout ∧ (s.setF f i v).passed = s.passed ∧ (s.setF f i v).cores = s.cores ∧ (s.setF f i v).pgs = s.pgs ∧
    (s.setF f i v).sets = s.sets ∧ (s.setF f i v).maps = s.maps ∧ (s.setF f i v).stares = s.stares ∧ (s.setF f i v).loops = s.loops ∧
    (s.setF f i v).gateLog = s.gateLog ∧ (s.setF f i v).scs = s.scs ∧ (s.setF f i v).encs = s.encs ∧ (s.setF f i v).halls = s.halls ∧
    (s.setF f i v).probes = s.probes ∧ (s.setF f i v).emus = s.emus ∧ (s.setF f i v).slots = s.slots ∧ (s.setF f i v).csiSkip = s.csiSkip ∧
    (s.setF f i v).pipesOff = s.pipesOff ∧ (s.setF f i v).taps = s.taps ∧ (s.setF f i v).i2cs = s.i2cs ∧ (s.setF f i v).auxs = s.auxs ∧
    (s.setF f i v).auxMoves = s.auxMoves ∧ (s.setF f i v).auxStops = s.auxStops ∧ (s.setF f i v).auxNext = s.auxNext ∧
    (s.setF f i v).lanes = s.lanes ∧ (s.setF f i v).links = s.links ∧ (s.setF f i v).keySlots = s.keySlots ∧ (s.setF f i v).wins = s.wins ∧
    (s.setF f i v).ups = s.ups ∧ (s.setF f i v).ptp = s.ptp ∧ (s.setF f i v).host = s.host ∧ (s.setF f i v).dramBanks = s.dramBanks ∧
    (s.setF f i v).dramRanks = s.dramRanks ∧ (s.setF f i v).dramChans = s.dramChans ∧ (s.setF f i v).raaimt = s.raaimt ∧
    (s.setF f i v).raammt = s.raammt ∧ (s.setF f i v).gorge = s.gorge ∧ (s.setF f i v).gorgeSaves = s.gorgeSaves ∧
    (s.setF f i v).holds = s.holds ∧ (s.setF f i v).wake = s.wake ∧ (s.setF f i v).vault = s.vault ∧ (s.setF f i v).house = s.house ∧
    (s.setF f i v).flash = s.flash ∧ (s.setF f i v).keyHashes = s.keyHashes ∧ (s.setF f i v).boot = s.boot := by
  exact ⟨rfl, rfl, rfl, rfl, rfl, rfl, rfl, rfl, rfl, rfl, rfl, rfl, rfl, rfl, rfl, rfl, rfl, rfl, rfl, rfl, rfl, rfl, rfl, rfl, rfl,
    rfl, rfl, rfl, rfl, rfl, rfl, rfl, rfl, rfl, rfl, rfl, rfl, rfl, rfl, rfl, rfl, rfl, rfl, rfl, rfl, rfl, rfl, rfl, rfl, rfl, rfl,
    rfl, rfl, rfl, rfl, rfl, rfl, rfl, rfl, rfl⟩

@[simp] theorem State.setFi_fields (s : State) (f : Fld) (i : Nat) (v : Int) :
    (s.setFi f i v).pending = s.pending ∧ (s.setFi f i v).mt = s.mt ∧ (s.setFi f i v).mem = s.mem ∧ (s.setFi f i v).eccs = s.eccs ∧
    (s.setFi f i v).net = s.net ∧ (s.setFi f i v).seqs = s.seqs ∧ (s.setFi f i v).lines = s.lines ∧ (s.setFi f i v).freeCtr = s.freeCtr ∧
    (s.setFi f i v).queues = s.queues ∧ (s.setFi f i v).tb = s.tb ∧ (s.setFi f i v).hts = s.hts ∧ (s.setFi f i v).cols = s.cols ∧
    (s.setFi f i v).basin = s.basin ∧ (s.setFi f i v).dale = s.dale ∧ (s.setFi f i v).held = s.held ∧ (s.setFi f i v).scrub = s.scrub ∧
    (s.setFi f i v).fanout = s.fanout ∧ (s.setFi f i v).passed = s.passed ∧ (s.setFi f i v).cores = s.cores ∧ (s.setFi f i v).pgs = s.pgs ∧
    (s.setFi f i v).sets = s.sets ∧ (s.setFi f i v).maps = s.maps ∧ (s.setFi f i v).stares = s.stares ∧ (s.setFi f i v).loops = s.loops ∧
    (s.setFi f i v).gateLog = s.gateLog ∧ (s.setFi f i v).scs = s.scs ∧ (s.setFi f i v).encs = s.encs ∧ (s.setFi f i v).halls = s.halls ∧
    (s.setFi f i v).probes = s.probes ∧ (s.setFi f i v).emus = s.emus ∧ (s.setFi f i v).slots = s.slots ∧
    (s.setFi f i v).csiSkip = s.csiSkip ∧ (s.setFi f i v).pipesOff = s.pipesOff ∧ (s.setFi f i v).taps = s.taps ∧
    (s.setFi f i v).i2cs = s.i2cs ∧ (s.setFi f i v).auxs = s.auxs ∧ (s.setFi f i v).auxMoves = s.auxMoves ∧
    (s.setFi f i v).auxStops = s.auxStops ∧ (s.setFi f i v).auxNext = s.auxNext ∧ (s.setFi f i v).lanes = s.lanes ∧
    (s.setFi f i v).links = s.links ∧ (s.setFi f i v).keySlots = s.keySlots ∧ (s.setFi f i v).wins = s.wins ∧ (s.setFi f i v).ups = s.ups ∧
    (s.setFi f i v).ptp = s.ptp ∧ (s.setFi f i v).host = s.host ∧ (s.setFi f i v).dramBanks = s.dramBanks ∧
    (s.setFi f i v).dramRanks = s.dramRanks ∧ (s.setFi f i v).dramChans = s.dramChans ∧ (s.setFi f i v).raaimt = s.raaimt ∧
    (s.setFi f i v).raammt = s.raammt ∧ (s.setFi f i v).gorge = s.gorge ∧ (s.setFi f i v).gorgeSaves = s.gorgeSaves ∧
    (s.setFi f i v).holds = s.holds ∧ (s.setFi f i v).wake = s.wake ∧ (s.setFi f i v).vault = s.vault ∧ (s.setFi f i v).house = s.house ∧
    (s.setFi f i v).flash = s.flash ∧ (s.setFi f i v).keyHashes = s.keyHashes ∧ (s.setFi f i v).boot = s.boot := by
  exact ⟨rfl, rfl, rfl, rfl, rfl, rfl, rfl, rfl, rfl, rfl, rfl, rfl, rfl, rfl, rfl, rfl, rfl, rfl, rfl, rfl, rfl, rfl, rfl, rfl, rfl,
    rfl, rfl, rfl, rfl, rfl, rfl, rfl, rfl, rfl, rfl, rfl, rfl, rfl, rfl, rfl, rfl, rfl, rfl, rfl, rfl, rfl, rfl, rfl, rfl, rfl, rfl,
    rfl, rfl, rfl, rfl, rfl, rfl, rfl, rfl, rfl⟩

@[simp] theorem State.incF_fields (s : State) (f : Fld) (i n : Nat) :
    (s.incF f i n).pending = s.pending ∧ (s.incF f i n).mt = s.mt ∧ (s.incF f i n).mem = s.mem ∧ (s.incF f i n).eccs = s.eccs ∧
    (s.incF f i n).net = s.net ∧ (s.incF f i n).seqs = s.seqs ∧ (s.incF f i n).lines = s.lines ∧ (s.incF f i n).freeCtr = s.freeCtr ∧
    (s.incF f i n).queues = s.queues ∧ (s.incF f i n).tb = s.tb ∧ (s.incF f i n).hts = s.hts ∧ (s.incF f i n).cols = s.cols ∧
    (s.incF f i n).basin = s.basin ∧ (s.incF f i n).dale = s.dale ∧ (s.incF f i n).held = s.held ∧ (s.incF f i n).scrub = s.scrub ∧
    (s.incF f i n).fanout = s.fanout ∧ (s.incF f i n).passed = s.passed ∧ (s.incF f i n).cores = s.cores ∧ (s.incF f i n).pgs = s.pgs ∧
    (s.incF f i n).sets = s.sets ∧ (s.incF f i n).maps = s.maps ∧ (s.incF f i n).stares = s.stares ∧ (s.incF f i n).loops = s.loops ∧
    (s.incF f i n).gateLog = s.gateLog ∧ (s.incF f i n).scs = s.scs ∧ (s.incF f i n).encs = s.encs ∧ (s.incF f i n).halls = s.halls ∧
    (s.incF f i n).probes = s.probes ∧ (s.incF f i n).emus = s.emus ∧ (s.incF f i n).slots = s.slots ∧ (s.incF f i n).csiSkip = s.csiSkip ∧
    (s.incF f i n).pipesOff = s.pipesOff ∧ (s.incF f i n).taps = s.taps ∧ (s.incF f i n).i2cs = s.i2cs ∧ (s.incF f i n).auxs = s.auxs ∧
    (s.incF f i n).auxMoves = s.auxMoves ∧ (s.incF f i n).auxStops = s.auxStops ∧ (s.incF f i n).auxNext = s.auxNext ∧
    (s.incF f i n).lanes = s.lanes ∧ (s.incF f i n).links = s.links ∧ (s.incF f i n).keySlots = s.keySlots ∧ (s.incF f i n).wins = s.wins ∧
    (s.incF f i n).ups = s.ups ∧ (s.incF f i n).ptp = s.ptp ∧ (s.incF f i n).host = s.host ∧ (s.incF f i n).dramBanks = s.dramBanks ∧
    (s.incF f i n).dramRanks = s.dramRanks ∧ (s.incF f i n).dramChans = s.dramChans ∧ (s.incF f i n).raaimt = s.raaimt ∧
    (s.incF f i n).raammt = s.raammt ∧ (s.incF f i n).gorge = s.gorge ∧ (s.incF f i n).gorgeSaves = s.gorgeSaves ∧
    (s.incF f i n).holds = s.holds ∧ (s.incF f i n).wake = s.wake ∧ (s.incF f i n).vault = s.vault ∧ (s.incF f i n).house = s.house ∧
    (s.incF f i n).flash = s.flash ∧ (s.incF f i n).keyHashes = s.keyHashes ∧ (s.incF f i n).boot = s.boot := by
  exact ⟨rfl, rfl, rfl, rfl, rfl, rfl, rfl, rfl, rfl, rfl, rfl, rfl, rfl, rfl, rfl, rfl, rfl, rfl, rfl, rfl, rfl, rfl, rfl, rfl, rfl,
    rfl, rfl, rfl, rfl, rfl, rfl, rfl, rfl, rfl, rfl, rfl, rfl, rfl, rfl, rfl, rfl, rfl, rfl, rfl, rfl, rfl, rfl, rfl, rfl, rfl, rfl,
    rfl, rfl, rfl, rfl, rfl, rfl, rfl, rfl, rfl⟩

@[simp] theorem State.event_fields (s : State) (e : Nat) (t : Option Token) (n : Nat) :
    (s.event e t n).pending = s.pending ∧ (s.event e t n).mt = s.mt ∧ (s.event e t n).mem = s.mem ∧ (s.event e t n).eccs = s.eccs ∧
    (s.event e t n).net = s.net ∧ (s.event e t n).seqs = s.seqs ∧ (s.event e t n).lines = s.lines ∧ (s.event e t n).freeCtr = s.freeCtr ∧
    (s.event e t n).queues = s.queues ∧ (s.event e t n).tb = s.tb ∧ (s.event e t n).hts = s.hts ∧ (s.event e t n).cols = s.cols ∧
    (s.event e t n).basin = s.basin ∧ (s.event e t n).dale = s.dale ∧ (s.event e t n).held = s.held ∧ (s.event e t n).scrub = s.scrub ∧
    (s.event e t n).fanout = s.fanout ∧ (s.event e t n).passed = s.passed ∧ (s.event e t n).cores = s.cores ∧ (s.event e t n).pgs = s.pgs ∧
    (s.event e t n).sets = s.sets ∧ (s.event e t n).maps = s.maps ∧ (s.event e t n).stares = s.stares ∧ (s.event e t n).loops = s.loops ∧
    (s.event e t n).gateLog = s.gateLog ∧ (s.event e t n).scs = s.scs ∧ (s.event e t n).encs = s.encs ∧ (s.event e t n).halls = s.halls ∧
    (s.event e t n).probes = s.probes ∧ (s.event e t n).emus = s.emus ∧ (s.event e t n).slots = s.slots ∧
    (s.event e t n).csiSkip = s.csiSkip ∧ (s.event e t n).pipesOff = s.pipesOff ∧ (s.event e t n).taps = s.taps ∧
    (s.event e t n).i2cs = s.i2cs ∧ (s.event e t n).auxs = s.auxs ∧ (s.event e t n).auxMoves = s.auxMoves ∧
    (s.event e t n).auxStops = s.auxStops ∧ (s.event e t n).auxNext = s.auxNext ∧ (s.event e t n).lanes = s.lanes ∧
    (s.event e t n).links = s.links ∧ (s.event e t n).keySlots = s.keySlots ∧ (s.event e t n).wins = s.wins ∧ (s.event e t n).ups = s.ups ∧
    (s.event e t n).ptp = s.ptp ∧ (s.event e t n).host = s.host ∧ (s.event e t n).dramBanks = s.dramBanks ∧
    (s.event e t n).dramRanks = s.dramRanks ∧ (s.event e t n).dramChans = s.dramChans ∧ (s.event e t n).raaimt = s.raaimt ∧
    (s.event e t n).raammt = s.raammt ∧ (s.event e t n).gorge = s.gorge ∧ (s.event e t n).gorgeSaves = s.gorgeSaves ∧
    (s.event e t n).holds = s.holds ∧ (s.event e t n).wake = s.wake ∧ (s.event e t n).vault = s.vault ∧ (s.event e t n).house = s.house ∧
    (s.event e t n).flash = s.flash ∧ (s.event e t n).keyHashes = s.keyHashes ∧ (s.event e t n).boot = s.boot := by
  obtain ⟨_, h⟩ := State.event_eq s e t n
  rw [h]
  exact ⟨rfl, rfl, rfl, rfl, rfl, rfl, rfl, rfl, rfl, rfl, rfl, rfl, rfl, rfl, rfl, rfl, rfl, rfl, rfl, rfl, rfl, rfl, rfl, rfl, rfl,
    rfl, rfl, rfl, rfl, rfl, rfl, rfl, rfl, rfl, rfl, rfl, rfl, rfl, rfl, rfl, rfl, rfl, rfl, rfl, rfl, rfl, rfl, rfl, rfl, rfl, rfl,
    rfl, rfl, rfl, rfl, rfl, rfl, rfl, rfl, rfl⟩

@[simp] theorem State.raise_fields (s : State) (cls source unit src rtype : Nat) (d0 d1 : Word) :
    (s.raise cls source unit src rtype d0 d1).pending = s.pending ∧ (s.raise cls source unit src rtype d0 d1).mt = s.mt ∧
    (s.raise cls source unit src rtype d0 d1).cw = s.cw ∧ (s.raise cls source unit src rtype d0 d1).mem = s.mem ∧
    (s.raise cls source unit src rtype d0 d1).eccs = s.eccs ∧ (s.raise cls source unit src rtype d0 d1).net = s.net ∧
    (s.raise cls source unit src rtype d0 d1).seqs = s.seqs ∧ (s.raise cls source unit src rtype d0 d1).freeCtr = s.freeCtr ∧
    (s.raise cls source unit src rtype d0 d1).queues = s.queues ∧ (s.raise cls source unit src rtype d0 d1).tb = s.tb ∧
    (s.raise cls source unit src rtype d0 d1).hts = s.hts ∧ (s.raise cls source unit src rtype d0 d1).cols = s.cols ∧
    (s.raise cls source unit src rtype d0 d1).basin = s.basin ∧ (s.raise cls source unit src rtype d0 d1).dale = s.dale ∧
    (s.raise cls source unit src rtype d0 d1).held = s.held ∧ (s.raise cls source unit src rtype d0 d1).scrub = s.scrub ∧
    (s.raise cls source unit src rtype d0 d1).fanout = s.fanout ∧ (s.raise cls source unit src rtype d0 d1).passed = s.passed ∧
    (s.raise cls source unit src rtype d0 d1).cores = s.cores ∧ (s.raise cls source unit src rtype d0 d1).pgs = s.pgs ∧
    (s.raise cls source unit src rtype d0 d1).sets = s.sets ∧ (s.raise cls source unit src rtype d0 d1).maps = s.maps ∧
    (s.raise cls source unit src rtype d0 d1).stares = s.stares ∧ (s.raise cls source unit src rtype d0 d1).loops = s.loops ∧
    (s.raise cls source unit src rtype d0 d1).gateLog = s.gateLog ∧ (s.raise cls source unit src rtype d0 d1).scs = s.scs ∧
    (s.raise cls source unit src rtype d0 d1).encs = s.encs ∧ (s.raise cls source unit src rtype d0 d1).halls = s.halls ∧
    (s.raise cls source unit src rtype d0 d1).probes = s.probes ∧ (s.raise cls source unit src rtype d0 d1).emus = s.emus ∧
    (s.raise cls source unit src rtype d0 d1).slots = s.slots ∧ (s.raise cls source unit src rtype d0 d1).csiSkip = s.csiSkip ∧
    (s.raise cls source unit src rtype d0 d1).pipesOff = s.pipesOff ∧ (s.raise cls source unit src rtype d0 d1).taps = s.taps ∧
    (s.raise cls source unit src rtype d0 d1).i2cs = s.i2cs ∧ (s.raise cls source unit src rtype d0 d1).auxs = s.auxs ∧
    (s.raise cls source unit src rtype d0 d1).auxMoves = s.auxMoves ∧ (s.raise cls source unit src rtype d0 d1).auxStops = s.auxStops ∧
    (s.raise cls source unit src rtype d0 d1).auxNext = s.auxNext ∧ (s.raise cls source unit src rtype d0 d1).lanes = s.lanes ∧
    (s.raise cls source unit src rtype d0 d1).links = s.links ∧ (s.raise cls source unit src rtype d0 d1).keySlots = s.keySlots ∧
    (s.raise cls source unit src rtype d0 d1).wins = s.wins ∧ (s.raise cls source unit src rtype d0 d1).ups = s.ups ∧
    (s.raise cls source unit src rtype d0 d1).ptp = s.ptp ∧ (s.raise cls source unit src rtype d0 d1).host = s.host ∧
    (s.raise cls source unit src rtype d0 d1).dramBanks = s.dramBanks ∧ (s.raise cls source unit src rtype d0 d1).dramRanks = s.dramRanks ∧
    (s.raise cls source unit src rtype d0 d1).dramChans = s.dramChans ∧ (s.raise cls source unit src rtype d0 d1).raaimt = s.raaimt ∧
    (s.raise cls source unit src rtype d0 d1).raammt = s.raammt ∧ (s.raise cls source unit src rtype d0 d1).gorge = s.gorge ∧
    (s.raise cls source unit src rtype d0 d1).gorgeSaves = s.gorgeSaves ∧ (s.raise cls source unit src rtype d0 d1).holds = s.holds ∧
    (s.raise cls source unit src rtype d0 d1).wake = s.wake ∧ (s.raise cls source unit src rtype d0 d1).vault = s.vault ∧
    (s.raise cls source unit src rtype d0 d1).house = s.house ∧ (s.raise cls source unit src rtype d0 d1).flash = s.flash ∧
    (s.raise cls source unit src rtype d0 d1).keyHashes = s.keyHashes ∧ (s.raise cls source unit src rtype d0 d1).boot = s.boot := by
  exact ⟨rfl, rfl, rfl, rfl, rfl, rfl, rfl, rfl, rfl, rfl, rfl, rfl, rfl, rfl, rfl, rfl, rfl, rfl, rfl, rfl, rfl, rfl, rfl, rfl, rfl,
    rfl, rfl, rfl, rfl, rfl, rfl, rfl, rfl, rfl, rfl, rfl, rfl, rfl, rfl, rfl, rfl, rfl, rfl, rfl, rfl, rfl, rfl, rfl, rfl, rfl, rfl,
    rfl, rfl, rfl, rfl, rfl, rfl, rfl, rfl, rfl⟩

@[simp] theorem State.critical_fields (s : State) (source unit src : Nat) (d0 : Word) :
    (s.critical source unit src d0).pending = s.pending ∧ (s.critical source unit src d0).mt = s.mt ∧
    (s.critical source unit src d0).cw = s.cw ∧ (s.critical source unit src d0).mem = s.mem ∧ (s.critical source unit src d0).eccs = s.eccs ∧
    (s.critical source unit src d0).net = s.net ∧ (s.critical source unit src d0).seqs = s.seqs ∧
    (s.critical source unit src d0).freeCtr = s.freeCtr ∧ (s.critical source unit src d0).queues = s.queues ∧
    (s.critical source unit src d0).tb = s.tb ∧ (s.critical source unit src d0).hts = s.hts ∧ (s.critical source unit src d0).cols = s.cols ∧
    (s.critical source unit src d0).basin = s.basin ∧ (s.critical source unit src d0).dale = s.dale ∧
    (s.critical source unit src d0).held = s.held ∧ (s.critical source unit src d0).scrub = s.scrub ∧
    (s.critical source unit src d0).fanout = s.fanout ∧ (s.critical source unit src d0).passed = s.passed ∧
    (s.critical source unit src d0).cores = s.cores ∧ (s.critical source unit src d0).pgs = s.pgs ∧
    (s.critical source unit src d0).sets = s.sets ∧ (s.critical source unit src d0).maps = s.maps ∧
    (s.critical source unit src d0).stares = s.stares ∧ (s.critical source unit src d0).loops = s.loops ∧
    (s.critical source unit src d0).gateLog = s.gateLog ∧ (s.critical source unit src d0).scs = s.scs ∧
    (s.critical source unit src d0).encs = s.encs ∧ (s.critical source unit src d0).halls = s.halls ∧
    (s.critical source unit src d0).probes = s.probes ∧ (s.critical source unit src d0).emus = s.emus ∧
    (s.critical source unit src d0).slots = s.slots ∧ (s.critical source unit src d0).csiSkip = s.csiSkip ∧
    (s.critical source unit src d0).pipesOff = s.pipesOff ∧ (s.critical source unit src d0).taps = s.taps ∧
    (s.critical source unit src d0).i2cs = s.i2cs ∧ (s.critical source unit src d0).auxs = s.auxs ∧
    (s.critical source unit src d0).auxMoves = s.auxMoves ∧ (s.critical source unit src d0).auxStops = s.auxStops ∧
    (s.critical source unit src d0).auxNext = s.auxNext ∧ (s.critical source unit src d0).lanes = s.lanes ∧
    (s.critical source unit src d0).links = s.links ∧ (s.critical source unit src d0).keySlots = s.keySlots ∧
    (s.critical source unit src d0).wins = s.wins ∧ (s.critical source unit src d0).ups = s.ups ∧
    (s.critical source unit src d0).ptp = s.ptp ∧ (s.critical source unit src d0).host = s.host ∧
    (s.critical source unit src d0).dramBanks = s.dramBanks ∧ (s.critical source unit src d0).dramRanks = s.dramRanks ∧
    (s.critical source unit src d0).dramChans = s.dramChans ∧ (s.critical source unit src d0).raaimt = s.raaimt ∧
    (s.critical source unit src d0).raammt = s.raammt ∧ (s.critical source unit src d0).gorge = s.gorge ∧
    (s.critical source unit src d0).gorgeSaves = s.gorgeSaves ∧ (s.critical source unit src d0).holds = s.holds ∧
    (s.critical source unit src d0).wake = s.wake ∧ (s.critical source unit src d0).vault = s.vault ∧
    (s.critical source unit src d0).house = s.house ∧ (s.critical source unit src d0).flash = s.flash ∧
    (s.critical source unit src d0).keyHashes = s.keyHashes ∧ (s.critical source unit src d0).boot = s.boot := by
  exact ⟨rfl, rfl, rfl, rfl, rfl, rfl, rfl, rfl, rfl, rfl, rfl, rfl, rfl, rfl, rfl, rfl, rfl, rfl, rfl, rfl, rfl, rfl, rfl, rfl, rfl,
    rfl, rfl, rfl, rfl, rfl, rfl, rfl, rfl, rfl, rfl, rfl, rfl, rfl, rfl, rfl, rfl, rfl, rfl, rfl, rfl, rfl, rfl, rfl, rfl, rfl, rfl,
    rfl, rfl, rfl, rfl, rfl, rfl, rfl, rfl, rfl⟩

@[simp] theorem State.severe_fields (s : State) (source unit src : Nat) (d0 : Word) :
    (s.severe source unit src d0).pending = s.pending ∧ (s.severe source unit src d0).mt = s.mt ∧ (s.severe source unit src d0).cw = s.cw ∧
    (s.severe source unit src d0).mem = s.mem ∧ (s.severe source unit src d0).eccs = s.eccs ∧ (s.severe source unit src d0).net = s.net ∧
    (s.severe source unit src d0).seqs = s.seqs ∧ (s.severe source unit src d0).freeCtr = s.freeCtr ∧
    (s.severe source unit src d0).queues = s.queues ∧ (s.severe source unit src d0).tb = s.tb ∧ (s.severe source unit src d0).hts = s.hts ∧
    (s.severe source unit src d0).cols = s.cols ∧ (s.severe source unit src d0).basin = s.basin ∧
    (s.severe source unit src d0).dale = s.dale ∧ (s.severe source unit src d0).held = s.held ∧
    (s.severe source unit src d0).scrub = s.scrub ∧ (s.severe source unit src d0).fanout = s.fanout ∧
    (s.severe source unit src d0).passed = s.passed ∧ (s.severe source unit src d0).cores = s.cores ∧
    (s.severe source unit src d0).pgs = s.pgs ∧ (s.severe source unit src d0).sets = s.sets ∧ (s.severe source unit src d0).maps = s.maps ∧
    (s.severe source unit src d0).stares = s.stares ∧ (s.severe source unit src d0).loops = s.loops ∧
    (s.severe source unit src d0).gateLog = s.gateLog ∧ (s.severe source unit src d0).scs = s.scs ∧
    (s.severe source unit src d0).encs = s.encs ∧ (s.severe source unit src d0).halls = s.halls ∧
    (s.severe source unit src d0).probes = s.probes ∧ (s.severe source unit src d0).emus = s.emus ∧
    (s.severe source unit src d0).slots = s.slots ∧ (s.severe source unit src d0).csiSkip = s.csiSkip ∧
    (s.severe source unit src d0).pipesOff = s.pipesOff ∧ (s.severe source unit src d0).taps = s.taps ∧
    (s.severe source unit src d0).i2cs = s.i2cs ∧ (s.severe source unit src d0).auxs = s.auxs ∧
    (s.severe source unit src d0).auxMoves = s.auxMoves ∧ (s.severe source unit src d0).auxStops = s.auxStops ∧
    (s.severe source unit src d0).auxNext = s.auxNext ∧ (s.severe source unit src d0).lanes = s.lanes ∧
    (s.severe source unit src d0).links = s.links ∧ (s.severe source unit src d0).keySlots = s.keySlots ∧
    (s.severe source unit src d0).wins = s.wins ∧ (s.severe source unit src d0).ups = s.ups ∧ (s.severe source unit src d0).ptp = s.ptp ∧
    (s.severe source unit src d0).host = s.host ∧ (s.severe source unit src d0).dramBanks = s.dramBanks ∧
    (s.severe source unit src d0).dramRanks = s.dramRanks ∧ (s.severe source unit src d0).dramChans = s.dramChans ∧
    (s.severe source unit src d0).raaimt = s.raaimt ∧ (s.severe source unit src d0).raammt = s.raammt ∧
    (s.severe source unit src d0).gorge = s.gorge ∧ (s.severe source unit src d0).gorgeSaves = s.gorgeSaves ∧
    (s.severe source unit src d0).holds = s.holds ∧ (s.severe source unit src d0).wake = s.wake ∧
    (s.severe source unit src d0).vault = s.vault ∧ (s.severe source unit src d0).house = s.house ∧
    (s.severe source unit src d0).flash = s.flash ∧ (s.severe source unit src d0).keyHashes = s.keyHashes ∧
    (s.severe source unit src d0).boot = s.boot := by
  exact ⟨rfl, rfl, rfl, rfl, rfl, rfl, rfl, rfl, rfl, rfl, rfl, rfl, rfl, rfl, rfl, rfl, rfl, rfl, rfl, rfl, rfl, rfl, rfl, rfl, rfl,
    rfl, rfl, rfl, rfl, rfl, rfl, rfl, rfl, rfl, rfl, rfl, rfl, rfl, rfl, rfl, rfl, rfl, rfl, rfl, rfl, rfl, rfl, rfl, rfl, rfl, rfl,
    rfl, rfl, rfl, rfl, rfl, rfl, rfl, rfl, rfl⟩

@[simp] theorem State.warn_fields (s : State) (source unit src : Nat) (d0 : Word) :
    (s.warn source unit src d0).pending = s.pending ∧ (s.warn source unit src d0).mt = s.mt ∧ (s.warn source unit src d0).cw = s.cw ∧
    (s.warn source unit src d0).mem = s.mem ∧ (s.warn source unit src d0).eccs = s.eccs ∧ (s.warn source unit src d0).net = s.net ∧
    (s.warn source unit src d0).seqs = s.seqs ∧ (s.warn source unit src d0).freeCtr = s.freeCtr ∧
    (s.warn source unit src d0).queues = s.queues ∧ (s.warn source unit src d0).tb = s.tb ∧ (s.warn source unit src d0).hts = s.hts ∧
    (s.warn source unit src d0).cols = s.cols ∧ (s.warn source unit src d0).basin = s.basin ∧ (s.warn source unit src d0).dale = s.dale ∧
    (s.warn source unit src d0).held = s.held ∧ (s.warn source unit src d0).scrub = s.scrub ∧ (s.warn source unit src d0).fanout = s.fanout ∧
    (s.warn source unit src d0).passed = s.passed ∧ (s.warn source unit src d0).cores = s.cores ∧ (s.warn source unit src d0).pgs = s.pgs ∧
    (s.warn source unit src d0).sets = s.sets ∧ (s.warn source unit src d0).maps = s.maps ∧ (s.warn source unit src d0).stares = s.stares ∧
    (s.warn source unit src d0).loops = s.loops ∧ (s.warn source unit src d0).gateLog = s.gateLog ∧ (s.warn source unit src d0).scs = s.scs ∧
    (s.warn source unit src d0).encs = s.encs ∧ (s.warn source unit src d0).halls = s.halls ∧ (s.warn source unit src d0).probes = s.probes ∧
    (s.warn source unit src d0).emus = s.emus ∧ (s.warn source unit src d0).slots = s.slots ∧
    (s.warn source unit src d0).csiSkip = s.csiSkip ∧ (s.warn source unit src d0).pipesOff = s.pipesOff ∧
    (s.warn source unit src d0).taps = s.taps ∧ (s.warn source unit src d0).i2cs = s.i2cs ∧ (s.warn source unit src d0).auxs = s.auxs ∧
    (s.warn source unit src d0).auxMoves = s.auxMoves ∧ (s.warn source unit src d0).auxStops = s.auxStops ∧
    (s.warn source unit src d0).auxNext = s.auxNext ∧ (s.warn source unit src d0).lanes = s.lanes ∧
    (s.warn source unit src d0).links = s.links ∧ (s.warn source unit src d0).keySlots = s.keySlots ∧
    (s.warn source unit src d0).wins = s.wins ∧ (s.warn source unit src d0).ups = s.ups ∧ (s.warn source unit src d0).ptp = s.ptp ∧
    (s.warn source unit src d0).host = s.host ∧ (s.warn source unit src d0).dramBanks = s.dramBanks ∧
    (s.warn source unit src d0).dramRanks = s.dramRanks ∧ (s.warn source unit src d0).dramChans = s.dramChans ∧
    (s.warn source unit src d0).raaimt = s.raaimt ∧ (s.warn source unit src d0).raammt = s.raammt ∧
    (s.warn source unit src d0).gorge = s.gorge ∧ (s.warn source unit src d0).gorgeSaves = s.gorgeSaves ∧
    (s.warn source unit src d0).holds = s.holds ∧ (s.warn source unit src d0).wake = s.wake ∧ (s.warn source unit src d0).vault = s.vault ∧
    (s.warn source unit src d0).house = s.house ∧ (s.warn source unit src d0).flash = s.flash ∧
    (s.warn source unit src d0).keyHashes = s.keyHashes ∧ (s.warn source unit src d0).boot = s.boot := by
  exact ⟨rfl, rfl, rfl, rfl, rfl, rfl, rfl, rfl, rfl, rfl, rfl, rfl, rfl, rfl, rfl, rfl, rfl, rfl, rfl, rfl, rfl, rfl, rfl, rfl, rfl,
    rfl, rfl, rfl, rfl, rfl, rfl, rfl, rfl, rfl, rfl, rfl, rfl, rfl, rfl, rfl, rfl, rfl, rfl, rfl, rfl, rfl, rfl, rfl, rfl, rfl, rfl,
    rfl, rfl, rfl, rfl, rfl, rfl, rfl, rfl, rfl⟩

@[simp] theorem State.info_fields (s : State) (source unit src : Nat) (d0 : Word) :
    (s.info source unit src d0).pending = s.pending ∧ (s.info source unit src d0).mt = s.mt ∧ (s.info source unit src d0).cw = s.cw ∧
    (s.info source unit src d0).mem = s.mem ∧ (s.info source unit src d0).eccs = s.eccs ∧ (s.info source unit src d0).net = s.net ∧
    (s.info source unit src d0).seqs = s.seqs ∧ (s.info source unit src d0).freeCtr = s.freeCtr ∧
    (s.info source unit src d0).queues = s.queues ∧ (s.info source unit src d0).tb = s.tb ∧ (s.info source unit src d0).hts = s.hts ∧
    (s.info source unit src d0).cols = s.cols ∧ (s.info source unit src d0).basin = s.basin ∧ (s.info source unit src d0).dale = s.dale ∧
    (s.info source unit src d0).held = s.held ∧ (s.info source unit src d0).scrub = s.scrub ∧ (s.info source unit src d0).fanout = s.fanout ∧
    (s.info source unit src d0).passed = s.passed ∧ (s.info source unit src d0).cores = s.cores ∧ (s.info source unit src d0).pgs = s.pgs ∧
    (s.info source unit src d0).sets = s.sets ∧ (s.info source unit src d0).maps = s.maps ∧ (s.info source unit src d0).stares = s.stares ∧
    (s.info source unit src d0).loops = s.loops ∧ (s.info source unit src d0).gateLog = s.gateLog ∧ (s.info source unit src d0).scs = s.scs ∧
    (s.info source unit src d0).encs = s.encs ∧ (s.info source unit src d0).halls = s.halls ∧ (s.info source unit src d0).probes = s.probes ∧
    (s.info source unit src d0).emus = s.emus ∧ (s.info source unit src d0).slots = s.slots ∧
    (s.info source unit src d0).csiSkip = s.csiSkip ∧ (s.info source unit src d0).pipesOff = s.pipesOff ∧
    (s.info source unit src d0).taps = s.taps ∧ (s.info source unit src d0).i2cs = s.i2cs ∧ (s.info source unit src d0).auxs = s.auxs ∧
    (s.info source unit src d0).auxMoves = s.auxMoves ∧ (s.info source unit src d0).auxStops = s.auxStops ∧
    (s.info source unit src d0).auxNext = s.auxNext ∧ (s.info source unit src d0).lanes = s.lanes ∧
    (s.info source unit src d0).links = s.links ∧ (s.info source unit src d0).keySlots = s.keySlots ∧
    (s.info source unit src d0).wins = s.wins ∧ (s.info source unit src d0).ups = s.ups ∧ (s.info source unit src d0).ptp = s.ptp ∧
    (s.info source unit src d0).host = s.host ∧ (s.info source unit src d0).dramBanks = s.dramBanks ∧
    (s.info source unit src d0).dramRanks = s.dramRanks ∧ (s.info source unit src d0).dramChans = s.dramChans ∧
    (s.info source unit src d0).raaimt = s.raaimt ∧ (s.info source unit src d0).raammt = s.raammt ∧
    (s.info source unit src d0).gorge = s.gorge ∧ (s.info source unit src d0).gorgeSaves = s.gorgeSaves ∧
    (s.info source unit src d0).holds = s.holds ∧ (s.info source unit src d0).wake = s.wake ∧ (s.info source unit src d0).vault = s.vault ∧
    (s.info source unit src d0).house = s.house ∧ (s.info source unit src d0).flash = s.flash ∧
    (s.info source unit src d0).keyHashes = s.keyHashes ∧ (s.info source unit src d0).boot = s.boot := by
  exact ⟨rfl, rfl, rfl, rfl, rfl, rfl, rfl, rfl, rfl, rfl, rfl, rfl, rfl, rfl, rfl, rfl, rfl, rfl, rfl, rfl, rfl, rfl, rfl, rfl, rfl,
    rfl, rfl, rfl, rfl, rfl, rfl, rfl, rfl, rfl, rfl, rfl, rfl, rfl, rfl, rfl, rfl, rfl, rfl, rfl, rfl, rfl, rfl, rfl, rfl, rfl, rfl,
    rfl, rfl, rfl, rfl, rfl, rfl, rfl, rfl, rfl⟩

@[simp] theorem State.warnAccess_fields (s : State) (ep : Nat) (src : BitVec 10) (addr : Nat) :
    (s.warnAccess ep src addr).pending = s.pending ∧ (s.warnAccess ep src addr).mt = s.mt ∧ (s.warnAccess ep src addr).cw = s.cw ∧
    (s.warnAccess ep src addr).mem = s.mem ∧ (s.warnAccess ep src addr).eccs = s.eccs ∧ (s.warnAccess ep src addr).net = s.net ∧
    (s.warnAccess ep src addr).seqs = s.seqs ∧ (s.warnAccess ep src addr).freeCtr = s.freeCtr ∧
    (s.warnAccess ep src addr).queues = s.queues ∧ (s.warnAccess ep src addr).tb = s.tb ∧ (s.warnAccess ep src addr).hts = s.hts ∧
    (s.warnAccess ep src addr).cols = s.cols ∧ (s.warnAccess ep src addr).basin = s.basin ∧ (s.warnAccess ep src addr).dale = s.dale ∧
    (s.warnAccess ep src addr).held = s.held ∧ (s.warnAccess ep src addr).scrub = s.scrub ∧ (s.warnAccess ep src addr).fanout = s.fanout ∧
    (s.warnAccess ep src addr).passed = s.passed ∧ (s.warnAccess ep src addr).cores = s.cores ∧ (s.warnAccess ep src addr).pgs = s.pgs ∧
    (s.warnAccess ep src addr).sets = s.sets ∧ (s.warnAccess ep src addr).maps = s.maps ∧ (s.warnAccess ep src addr).stares = s.stares ∧
    (s.warnAccess ep src addr).loops = s.loops ∧ (s.warnAccess ep src addr).gateLog = s.gateLog ∧ (s.warnAccess ep src addr).scs = s.scs ∧
    (s.warnAccess ep src addr).encs = s.encs ∧ (s.warnAccess ep src addr).halls = s.halls ∧ (s.warnAccess ep src addr).probes = s.probes ∧
    (s.warnAccess ep src addr).emus = s.emus ∧ (s.warnAccess ep src addr).slots = s.slots ∧ (s.warnAccess ep src addr).csiSkip = s.csiSkip ∧
    (s.warnAccess ep src addr).pipesOff = s.pipesOff ∧ (s.warnAccess ep src addr).taps = s.taps ∧ (s.warnAccess ep src addr).i2cs = s.i2cs ∧
    (s.warnAccess ep src addr).auxs = s.auxs ∧ (s.warnAccess ep src addr).auxMoves = s.auxMoves ∧
    (s.warnAccess ep src addr).auxStops = s.auxStops ∧ (s.warnAccess ep src addr).auxNext = s.auxNext ∧
    (s.warnAccess ep src addr).lanes = s.lanes ∧ (s.warnAccess ep src addr).links = s.links ∧
    (s.warnAccess ep src addr).keySlots = s.keySlots ∧ (s.warnAccess ep src addr).wins = s.wins ∧ (s.warnAccess ep src addr).ups = s.ups ∧
    (s.warnAccess ep src addr).ptp = s.ptp ∧ (s.warnAccess ep src addr).host = s.host ∧ (s.warnAccess ep src addr).dramBanks = s.dramBanks ∧
    (s.warnAccess ep src addr).dramRanks = s.dramRanks ∧ (s.warnAccess ep src addr).dramChans = s.dramChans ∧
    (s.warnAccess ep src addr).raaimt = s.raaimt ∧ (s.warnAccess ep src addr).raammt = s.raammt ∧
    (s.warnAccess ep src addr).gorge = s.gorge ∧ (s.warnAccess ep src addr).gorgeSaves = s.gorgeSaves ∧
    (s.warnAccess ep src addr).holds = s.holds ∧ (s.warnAccess ep src addr).wake = s.wake ∧ (s.warnAccess ep src addr).vault = s.vault ∧
    (s.warnAccess ep src addr).house = s.house ∧ (s.warnAccess ep src addr).flash = s.flash ∧
    (s.warnAccess ep src addr).keyHashes = s.keyHashes ∧ (s.warnAccess ep src addr).boot = s.boot := by
  exact ⟨rfl, rfl, rfl, rfl, rfl, rfl, rfl, rfl, rfl, rfl, rfl, rfl, rfl, rfl, rfl, rfl, rfl, rfl, rfl, rfl, rfl, rfl, rfl, rfl, rfl,
    rfl, rfl, rfl, rfl, rfl, rfl, rfl, rfl, rfl, rfl, rfl, rfl, rfl, rfl, rfl, rfl, rfl, rfl, rfl, rfl, rfl, rfl, rfl, rfl, rfl, rfl,
    rfl, rfl, rfl, rfl, rfl, rfl, rfl, rfl, rfl⟩

@[simp] theorem State.setByte_fields (s : State) (a : Nat) (b : Byte) :
    (s.setByte a b).pending = s.pending ∧ (s.setByte a b).mt = s.mt ∧ (s.setByte a b).cw = s.cw ∧ (s.setByte a b).eccs = s.eccs ∧
    (s.setByte a b).net = s.net ∧ (s.setByte a b).seqs = s.seqs ∧ (s.setByte a b).lines = s.lines ∧ (s.setByte a b).freeCtr = s.freeCtr ∧
    (s.setByte a b).queues = s.queues ∧ (s.setByte a b).tb = s.tb ∧ (s.setByte a b).hts = s.hts ∧ (s.setByte a b).cols = s.cols ∧
    (s.setByte a b).basin = s.basin ∧ (s.setByte a b).dale = s.dale ∧ (s.setByte a b).held = s.held ∧ (s.setByte a b).scrub = s.scrub ∧
    (s.setByte a b).fanout = s.fanout ∧ (s.setByte a b).passed = s.passed ∧ (s.setByte a b).cores = s.cores ∧ (s.setByte a b).pgs = s.pgs ∧
    (s.setByte a b).sets = s.sets ∧ (s.setByte a b).maps = s.maps ∧ (s.setByte a b).stares = s.stares ∧ (s.setByte a b).loops = s.loops ∧
    (s.setByte a b).gateLog = s.gateLog ∧ (s.setByte a b).scs = s.scs ∧ (s.setByte a b).encs = s.encs ∧ (s.setByte a b).halls = s.halls ∧
    (s.setByte a b).probes = s.probes ∧ (s.setByte a b).emus = s.emus ∧ (s.setByte a b).slots = s.slots ∧
    (s.setByte a b).csiSkip = s.csiSkip ∧ (s.setByte a b).pipesOff = s.pipesOff ∧ (s.setByte a b).taps = s.taps ∧
    (s.setByte a b).i2cs = s.i2cs ∧ (s.setByte a b).auxs = s.auxs ∧ (s.setByte a b).auxMoves = s.auxMoves ∧
    (s.setByte a b).auxStops = s.auxStops ∧ (s.setByte a b).auxNext = s.auxNext ∧ (s.setByte a b).lanes = s.lanes ∧
    (s.setByte a b).links = s.links ∧ (s.setByte a b).keySlots = s.keySlots ∧ (s.setByte a b).wins = s.wins ∧ (s.setByte a b).ups = s.ups ∧
    (s.setByte a b).ptp = s.ptp ∧ (s.setByte a b).host = s.host ∧ (s.setByte a b).dramBanks = s.dramBanks ∧
    (s.setByte a b).dramRanks = s.dramRanks ∧ (s.setByte a b).dramChans = s.dramChans ∧ (s.setByte a b).raaimt = s.raaimt ∧
    (s.setByte a b).raammt = s.raammt ∧ (s.setByte a b).gorge = s.gorge ∧ (s.setByte a b).gorgeSaves = s.gorgeSaves ∧
    (s.setByte a b).holds = s.holds ∧ (s.setByte a b).wake = s.wake ∧ (s.setByte a b).vault = s.vault ∧ (s.setByte a b).house = s.house ∧
    (s.setByte a b).flash = s.flash ∧ (s.setByte a b).keyHashes = s.keyHashes ∧ (s.setByte a b).boot = s.boot := by
  exact ⟨rfl, rfl, rfl, rfl, rfl, rfl, rfl, rfl, rfl, rfl, rfl, rfl, rfl, rfl, rfl, rfl, rfl, rfl, rfl, rfl, rfl, rfl, rfl, rfl, rfl,
    rfl, rfl, rfl, rfl, rfl, rfl, rfl, rfl, rfl, rfl, rfl, rfl, rfl, rfl, rfl, rfl, rfl, rfl, rfl, rfl, rfl, rfl, rfl, rfl, rfl, rfl,
    rfl, rfl, rfl, rfl, rfl, rfl, rfl, rfl, rfl⟩

@[simp] theorem State.setBytes_fields (s : State) (a : Nat) (l : List Byte) :
    (s.setBytes a l).pending = s.pending ∧ (s.setBytes a l).mt = s.mt ∧ (s.setBytes a l).cw = s.cw ∧ (s.setBytes a l).eccs = s.eccs ∧
    (s.setBytes a l).net = s.net ∧ (s.setBytes a l).seqs = s.seqs ∧ (s.setBytes a l).lines = s.lines ∧ (s.setBytes a l).freeCtr = s.freeCtr ∧
    (s.setBytes a l).queues = s.queues ∧ (s.setBytes a l).tb = s.tb ∧ (s.setBytes a l).hts = s.hts ∧ (s.setBytes a l).cols = s.cols ∧
    (s.setBytes a l).basin = s.basin ∧ (s.setBytes a l).dale = s.dale ∧ (s.setBytes a l).held = s.held ∧ (s.setBytes a l).scrub = s.scrub ∧
    (s.setBytes a l).fanout = s.fanout ∧ (s.setBytes a l).passed = s.passed ∧ (s.setBytes a l).cores = s.cores ∧
    (s.setBytes a l).pgs = s.pgs ∧ (s.setBytes a l).sets = s.sets ∧ (s.setBytes a l).maps = s.maps ∧ (s.setBytes a l).stares = s.stares ∧
    (s.setBytes a l).loops = s.loops ∧ (s.setBytes a l).gateLog = s.gateLog ∧ (s.setBytes a l).scs = s.scs ∧ (s.setBytes a l).encs = s.encs ∧
    (s.setBytes a l).halls = s.halls ∧ (s.setBytes a l).probes = s.probes ∧ (s.setBytes a l).emus = s.emus ∧
    (s.setBytes a l).slots = s.slots ∧ (s.setBytes a l).csiSkip = s.csiSkip ∧ (s.setBytes a l).pipesOff = s.pipesOff ∧
    (s.setBytes a l).taps = s.taps ∧ (s.setBytes a l).i2cs = s.i2cs ∧ (s.setBytes a l).auxs = s.auxs ∧
    (s.setBytes a l).auxMoves = s.auxMoves ∧ (s.setBytes a l).auxStops = s.auxStops ∧ (s.setBytes a l).auxNext = s.auxNext ∧
    (s.setBytes a l).lanes = s.lanes ∧ (s.setBytes a l).links = s.links ∧ (s.setBytes a l).keySlots = s.keySlots ∧
    (s.setBytes a l).wins = s.wins ∧ (s.setBytes a l).ups = s.ups ∧ (s.setBytes a l).ptp = s.ptp ∧ (s.setBytes a l).host = s.host ∧
    (s.setBytes a l).dramBanks = s.dramBanks ∧ (s.setBytes a l).dramRanks = s.dramRanks ∧ (s.setBytes a l).dramChans = s.dramChans ∧
    (s.setBytes a l).raaimt = s.raaimt ∧ (s.setBytes a l).raammt = s.raammt ∧ (s.setBytes a l).gorge = s.gorge ∧
    (s.setBytes a l).gorgeSaves = s.gorgeSaves ∧ (s.setBytes a l).holds = s.holds ∧ (s.setBytes a l).wake = s.wake ∧
    (s.setBytes a l).vault = s.vault ∧ (s.setBytes a l).house = s.house ∧ (s.setBytes a l).flash = s.flash ∧
    (s.setBytes a l).keyHashes = s.keyHashes ∧ (s.setBytes a l).boot = s.boot := by
  obtain ⟨_, h⟩ := State.setBytes_eq l s a
  rw [h]
  exact ⟨rfl, rfl, rfl, rfl, rfl, rfl, rfl, rfl, rfl, rfl, rfl, rfl, rfl, rfl, rfl, rfl, rfl, rfl, rfl, rfl, rfl, rfl, rfl, rfl, rfl,
    rfl, rfl, rfl, rfl, rfl, rfl, rfl, rfl, rfl, rfl, rfl, rfl, rfl, rfl, rfl, rfl, rfl, rfl, rfl, rfl, rfl, rfl, rfl, rfl, rfl, rfl,
    rfl, rfl, rfl, rfl, rfl, rfl, rfl, rfl, rfl⟩

@[simp] theorem State.setEcc_fields (s : State) (a : Nat) (m : Option EccMark) :
    (s.setEcc a m).pending = s.pending ∧ (s.setEcc a m).mt = s.mt ∧ (s.setEcc a m).cw = s.cw ∧ (s.setEcc a m).mem = s.mem ∧
    (s.setEcc a m).net = s.net ∧ (s.setEcc a m).seqs = s.seqs ∧ (s.setEcc a m).lines = s.lines ∧ (s.setEcc a m).freeCtr = s.freeCtr ∧
    (s.setEcc a m).queues = s.queues ∧ (s.setEcc a m).tb = s.tb ∧ (s.setEcc a m).hts = s.hts ∧ (s.setEcc a m).cols = s.cols ∧
    (s.setEcc a m).basin = s.basin ∧ (s.setEcc a m).dale = s.dale ∧ (s.setEcc a m).held = s.held ∧ (s.setEcc a m).scrub = s.scrub ∧
    (s.setEcc a m).fanout = s.fanout ∧ (s.setEcc a m).passed = s.passed ∧ (s.setEcc a m).cores = s.cores ∧ (s.setEcc a m).pgs = s.pgs ∧
    (s.setEcc a m).sets = s.sets ∧ (s.setEcc a m).maps = s.maps ∧ (s.setEcc a m).stares = s.stares ∧ (s.setEcc a m).loops = s.loops ∧
    (s.setEcc a m).gateLog = s.gateLog ∧ (s.setEcc a m).scs = s.scs ∧ (s.setEcc a m).encs = s.encs ∧ (s.setEcc a m).halls = s.halls ∧
    (s.setEcc a m).probes = s.probes ∧ (s.setEcc a m).emus = s.emus ∧ (s.setEcc a m).slots = s.slots ∧ (s.setEcc a m).csiSkip = s.csiSkip ∧
    (s.setEcc a m).pipesOff = s.pipesOff ∧ (s.setEcc a m).taps = s.taps ∧ (s.setEcc a m).i2cs = s.i2cs ∧ (s.setEcc a m).auxs = s.auxs ∧
    (s.setEcc a m).auxMoves = s.auxMoves ∧ (s.setEcc a m).auxStops = s.auxStops ∧ (s.setEcc a m).auxNext = s.auxNext ∧
    (s.setEcc a m).lanes = s.lanes ∧ (s.setEcc a m).links = s.links ∧ (s.setEcc a m).keySlots = s.keySlots ∧ (s.setEcc a m).wins = s.wins ∧
    (s.setEcc a m).ups = s.ups ∧ (s.setEcc a m).ptp = s.ptp ∧ (s.setEcc a m).host = s.host ∧ (s.setEcc a m).dramBanks = s.dramBanks ∧
    (s.setEcc a m).dramRanks = s.dramRanks ∧ (s.setEcc a m).dramChans = s.dramChans ∧ (s.setEcc a m).raaimt = s.raaimt ∧
    (s.setEcc a m).raammt = s.raammt ∧ (s.setEcc a m).gorge = s.gorge ∧ (s.setEcc a m).gorgeSaves = s.gorgeSaves ∧
    (s.setEcc a m).holds = s.holds ∧ (s.setEcc a m).wake = s.wake ∧ (s.setEcc a m).vault = s.vault ∧ (s.setEcc a m).house = s.house ∧
    (s.setEcc a m).flash = s.flash ∧ (s.setEcc a m).keyHashes = s.keyHashes ∧ (s.setEcc a m).boot = s.boot := by
  exact ⟨rfl, rfl, rfl, rfl, rfl, rfl, rfl, rfl, rfl, rfl, rfl, rfl, rfl, rfl, rfl, rfl, rfl, rfl, rfl, rfl, rfl, rfl, rfl, rfl, rfl,
    rfl, rfl, rfl, rfl, rfl, rfl, rfl, rfl, rfl, rfl, rfl, rfl, rfl, rfl, rfl, rfl, rfl, rfl, rfl, rfl, rfl, rfl, rfl, rfl, rfl, rfl,
    rfl, rfl, rfl, rfl, rfl, rfl, rfl, rfl, rfl⟩

@[simp] theorem State.st_fields (s : State) (a : Nat) (w : Word) :
    (s.st a w).pending = s.pending ∧ (s.st a w).mt = s.mt ∧ (s.st a w).cw = s.cw ∧ (s.st a w).net = s.net ∧ (s.st a w).seqs = s.seqs ∧
    (s.st a w).lines = s.lines ∧ (s.st a w).freeCtr = s.freeCtr ∧ (s.st a w).queues = s.queues ∧ (s.st a w).tb = s.tb ∧
    (s.st a w).hts = s.hts ∧ (s.st a w).cols = s.cols ∧ (s.st a w).basin = s.basin ∧ (s.st a w).dale = s.dale ∧ (s.st a w).held = s.held ∧
    (s.st a w).scrub = s.scrub ∧ (s.st a w).fanout = s.fanout ∧ (s.st a w).passed = s.passed ∧ (s.st a w).cores = s.cores ∧
    (s.st a w).pgs = s.pgs ∧ (s.st a w).sets = s.sets ∧ (s.st a w).maps = s.maps ∧ (s.st a w).stares = s.stares ∧
    (s.st a w).loops = s.loops ∧ (s.st a w).gateLog = s.gateLog ∧ (s.st a w).scs = s.scs ∧ (s.st a w).encs = s.encs ∧
    (s.st a w).halls = s.halls ∧ (s.st a w).probes = s.probes ∧ (s.st a w).emus = s.emus ∧ (s.st a w).slots = s.slots ∧
    (s.st a w).csiSkip = s.csiSkip ∧ (s.st a w).pipesOff = s.pipesOff ∧ (s.st a w).taps = s.taps ∧ (s.st a w).i2cs = s.i2cs ∧
    (s.st a w).auxs = s.auxs ∧ (s.st a w).auxMoves = s.auxMoves ∧ (s.st a w).auxStops = s.auxStops ∧ (s.st a w).auxNext = s.auxNext ∧
    (s.st a w).lanes = s.lanes ∧ (s.st a w).links = s.links ∧ (s.st a w).keySlots = s.keySlots ∧ (s.st a w).wins = s.wins ∧
    (s.st a w).ups = s.ups ∧ (s.st a w).ptp = s.ptp ∧ (s.st a w).host = s.host ∧ (s.st a w).dramBanks = s.dramBanks ∧
    (s.st a w).dramRanks = s.dramRanks ∧ (s.st a w).dramChans = s.dramChans ∧ (s.st a w).raaimt = s.raaimt ∧ (s.st a w).raammt = s.raammt ∧
    (s.st a w).gorge = s.gorge ∧ (s.st a w).gorgeSaves = s.gorgeSaves ∧ (s.st a w).holds = s.holds ∧ (s.st a w).wake = s.wake ∧
    (s.st a w).vault = s.vault ∧ (s.st a w).house = s.house ∧ (s.st a w).flash = s.flash ∧ (s.st a w).keyHashes = s.keyHashes ∧
    (s.st a w).boot = s.boot := by
  obtain ⟨_, _, h⟩ := State.st_eq s a w
  rw [h]
  exact ⟨rfl, rfl, rfl, rfl, rfl, rfl, rfl, rfl, rfl, rfl, rfl, rfl, rfl, rfl, rfl, rfl, rfl, rfl, rfl, rfl, rfl, rfl, rfl, rfl, rfl,
    rfl, rfl, rfl, rfl, rfl, rfl, rfl, rfl, rfl, rfl, rfl, rfl, rfl, rfl, rfl, rfl, rfl, rfl, rfl, rfl, rfl, rfl, rfl, rfl, rfl, rfl,
    rfl, rfl, rfl, rfl, rfl, rfl, rfl, rfl⟩

@[simp] theorem State.sts_fields (s : State) (a : Nat) (l : List Word) :
    (s.sts a l).pending = s.pending ∧ (s.sts a l).mt = s.mt ∧ (s.sts a l).cw = s.cw ∧ (s.sts a l).net = s.net ∧ (s.sts a l).seqs = s.seqs ∧
    (s.sts a l).lines = s.lines ∧ (s.sts a l).freeCtr = s.freeCtr ∧ (s.sts a l).queues = s.queues ∧ (s.sts a l).tb = s.tb ∧
    (s.sts a l).hts = s.hts ∧ (s.sts a l).cols = s.cols ∧ (s.sts a l).basin = s.basin ∧ (s.sts a l).dale = s.dale ∧
    (s.sts a l).held = s.held ∧ (s.sts a l).scrub = s.scrub ∧ (s.sts a l).fanout = s.fanout ∧ (s.sts a l).passed = s.passed ∧
    (s.sts a l).cores = s.cores ∧ (s.sts a l).pgs = s.pgs ∧ (s.sts a l).sets = s.sets ∧ (s.sts a l).maps = s.maps ∧
    (s.sts a l).stares = s.stares ∧ (s.sts a l).loops = s.loops ∧ (s.sts a l).gateLog = s.gateLog ∧ (s.sts a l).scs = s.scs ∧
    (s.sts a l).encs = s.encs ∧ (s.sts a l).halls = s.halls ∧ (s.sts a l).probes = s.probes ∧ (s.sts a l).emus = s.emus ∧
    (s.sts a l).slots = s.slots ∧ (s.sts a l).csiSkip = s.csiSkip ∧ (s.sts a l).pipesOff = s.pipesOff ∧ (s.sts a l).taps = s.taps ∧
    (s.sts a l).i2cs = s.i2cs ∧ (s.sts a l).auxs = s.auxs ∧ (s.sts a l).auxMoves = s.auxMoves ∧ (s.sts a l).auxStops = s.auxStops ∧
    (s.sts a l).auxNext = s.auxNext ∧ (s.sts a l).lanes = s.lanes ∧ (s.sts a l).links = s.links ∧ (s.sts a l).keySlots = s.keySlots ∧
    (s.sts a l).wins = s.wins ∧ (s.sts a l).ups = s.ups ∧ (s.sts a l).ptp = s.ptp ∧ (s.sts a l).host = s.host ∧
    (s.sts a l).dramBanks = s.dramBanks ∧ (s.sts a l).dramRanks = s.dramRanks ∧ (s.sts a l).dramChans = s.dramChans ∧
    (s.sts a l).raaimt = s.raaimt ∧ (s.sts a l).raammt = s.raammt ∧ (s.sts a l).gorge = s.gorge ∧ (s.sts a l).gorgeSaves = s.gorgeSaves ∧
    (s.sts a l).holds = s.holds ∧ (s.sts a l).wake = s.wake ∧ (s.sts a l).vault = s.vault ∧ (s.sts a l).house = s.house ∧
    (s.sts a l).flash = s.flash ∧ (s.sts a l).keyHashes = s.keyHashes ∧ (s.sts a l).boot = s.boot := by
  obtain ⟨_, _, h⟩ := State.sts_eq l s a
  rw [h]
  exact ⟨rfl, rfl, rfl, rfl, rfl, rfl, rfl, rfl, rfl, rfl, rfl, rfl, rfl, rfl, rfl, rfl, rfl, rfl, rfl, rfl, rfl, rfl, rfl, rfl, rfl,
    rfl, rfl, rfl, rfl, rfl, rfl, rfl, rfl, rfl, rfl, rfl, rfl, rfl, rfl, rfl, rfl, rfl, rfl, rfl, rfl, rfl, rfl, rfl, rfl, rfl, rfl,
    rfl, rfl, rfl, rfl, rfl, rfl, rfl, rfl⟩

@[simp] theorem State.send_fields (s : State) (t : Token) :
    (s.send t).pending = s.pending ∧ (s.send t).mt = s.mt ∧ (s.send t).cw = s.cw ∧ (s.send t).mem = s.mem ∧ (s.send t).eccs = s.eccs ∧
    (s.send t).lines = s.lines ∧ (s.send t).freeCtr = s.freeCtr ∧ (s.send t).queues = s.queues ∧ (s.send t).tb = s.tb ∧
    (s.send t).hts = s.hts ∧ (s.send t).cols = s.cols ∧ (s.send t).basin = s.basin ∧ (s.send t).dale = s.dale ∧ (s.send t).held = s.held ∧
    (s.send t).scrub = s.scrub ∧ (s.send t).fanout = s.fanout ∧ (s.send t).passed = s.passed ∧ (s.send t).cores = s.cores ∧
    (s.send t).pgs = s.pgs ∧ (s.send t).sets = s.sets ∧ (s.send t).maps = s.maps ∧ (s.send t).stares = s.stares ∧
    (s.send t).loops = s.loops ∧ (s.send t).gateLog = s.gateLog ∧ (s.send t).scs = s.scs ∧ (s.send t).encs = s.encs ∧
    (s.send t).halls = s.halls ∧ (s.send t).probes = s.probes ∧ (s.send t).emus = s.emus ∧ (s.send t).slots = s.slots ∧
    (s.send t).csiSkip = s.csiSkip ∧ (s.send t).pipesOff = s.pipesOff ∧ (s.send t).taps = s.taps ∧ (s.send t).i2cs = s.i2cs ∧
    (s.send t).auxs = s.auxs ∧ (s.send t).auxMoves = s.auxMoves ∧ (s.send t).auxStops = s.auxStops ∧ (s.send t).auxNext = s.auxNext ∧
    (s.send t).lanes = s.lanes ∧ (s.send t).links = s.links ∧ (s.send t).keySlots = s.keySlots ∧ (s.send t).wins = s.wins ∧
    (s.send t).ups = s.ups ∧ (s.send t).ptp = s.ptp ∧ (s.send t).host = s.host ∧ (s.send t).dramBanks = s.dramBanks ∧
    (s.send t).dramRanks = s.dramRanks ∧ (s.send t).dramChans = s.dramChans ∧ (s.send t).raaimt = s.raaimt ∧ (s.send t).raammt = s.raammt ∧
    (s.send t).gorge = s.gorge ∧ (s.send t).gorgeSaves = s.gorgeSaves ∧ (s.send t).holds = s.holds ∧ (s.send t).wake = s.wake ∧
    (s.send t).vault = s.vault ∧ (s.send t).house = s.house ∧ (s.send t).flash = s.flash ∧ (s.send t).keyHashes = s.keyHashes ∧
    (s.send t).boot = s.boot := by
  exact ⟨rfl, rfl, rfl, rfl, rfl, rfl, rfl, rfl, rfl, rfl, rfl, rfl, rfl, rfl, rfl, rfl, rfl, rfl, rfl, rfl, rfl, rfl, rfl, rfl, rfl,
    rfl, rfl, rfl, rfl, rfl, rfl, rfl, rfl, rfl, rfl, rfl, rfl, rfl, rfl, rfl, rfl, rfl, rfl, rfl, rfl, rfl, rfl, rfl, rfl, rfl, rfl,
    rfl, rfl, rfl, rfl, rfl, rfl, rfl, rfl⟩

@[simp] theorem State.sendMsg_fields (s : State) (src dest kind stream : Nat) (l : List Word) :
    (s.sendMsg src dest kind stream l).pending = s.pending ∧ (s.sendMsg src dest kind stream l).mt = s.mt ∧
    (s.sendMsg src dest kind stream l).cw = s.cw ∧ (s.sendMsg src dest kind stream l).mem = s.mem ∧
    (s.sendMsg src dest kind stream l).eccs = s.eccs ∧ (s.sendMsg src dest kind stream l).lines = s.lines ∧
    (s.sendMsg src dest kind stream l).freeCtr = s.freeCtr ∧ (s.sendMsg src dest kind stream l).queues = s.queues ∧
    (s.sendMsg src dest kind stream l).tb = s.tb ∧ (s.sendMsg src dest kind stream l).hts = s.hts ∧
    (s.sendMsg src dest kind stream l).cols = s.cols ∧ (s.sendMsg src dest kind stream l).basin = s.basin ∧
    (s.sendMsg src dest kind stream l).dale = s.dale ∧ (s.sendMsg src dest kind stream l).held = s.held ∧
    (s.sendMsg src dest kind stream l).scrub = s.scrub ∧ (s.sendMsg src dest kind stream l).fanout = s.fanout ∧
    (s.sendMsg src dest kind stream l).passed = s.passed ∧ (s.sendMsg src dest kind stream l).cores = s.cores ∧
    (s.sendMsg src dest kind stream l).pgs = s.pgs ∧ (s.sendMsg src dest kind stream l).sets = s.sets ∧
    (s.sendMsg src dest kind stream l).maps = s.maps ∧ (s.sendMsg src dest kind stream l).stares = s.stares ∧
    (s.sendMsg src dest kind stream l).loops = s.loops ∧ (s.sendMsg src dest kind stream l).gateLog = s.gateLog ∧
    (s.sendMsg src dest kind stream l).scs = s.scs ∧ (s.sendMsg src dest kind stream l).encs = s.encs ∧
    (s.sendMsg src dest kind stream l).halls = s.halls ∧ (s.sendMsg src dest kind stream l).probes = s.probes ∧
    (s.sendMsg src dest kind stream l).emus = s.emus ∧ (s.sendMsg src dest kind stream l).slots = s.slots ∧
    (s.sendMsg src dest kind stream l).csiSkip = s.csiSkip ∧ (s.sendMsg src dest kind stream l).pipesOff = s.pipesOff ∧
    (s.sendMsg src dest kind stream l).taps = s.taps ∧ (s.sendMsg src dest kind stream l).i2cs = s.i2cs ∧
    (s.sendMsg src dest kind stream l).auxs = s.auxs ∧ (s.sendMsg src dest kind stream l).auxMoves = s.auxMoves ∧
    (s.sendMsg src dest kind stream l).auxStops = s.auxStops ∧ (s.sendMsg src dest kind stream l).auxNext = s.auxNext ∧
    (s.sendMsg src dest kind stream l).lanes = s.lanes ∧ (s.sendMsg src dest kind stream l).links = s.links ∧
    (s.sendMsg src dest kind stream l).keySlots = s.keySlots ∧ (s.sendMsg src dest kind stream l).wins = s.wins ∧
    (s.sendMsg src dest kind stream l).ups = s.ups ∧ (s.sendMsg src dest kind stream l).ptp = s.ptp ∧
    (s.sendMsg src dest kind stream l).host = s.host ∧ (s.sendMsg src dest kind stream l).dramBanks = s.dramBanks ∧
    (s.sendMsg src dest kind stream l).dramRanks = s.dramRanks ∧ (s.sendMsg src dest kind stream l).dramChans = s.dramChans ∧
    (s.sendMsg src dest kind stream l).raaimt = s.raaimt ∧ (s.sendMsg src dest kind stream l).raammt = s.raammt ∧
    (s.sendMsg src dest kind stream l).gorge = s.gorge ∧ (s.sendMsg src dest kind stream l).gorgeSaves = s.gorgeSaves ∧
    (s.sendMsg src dest kind stream l).holds = s.holds ∧ (s.sendMsg src dest kind stream l).wake = s.wake ∧
    (s.sendMsg src dest kind stream l).vault = s.vault ∧ (s.sendMsg src dest kind stream l).house = s.house ∧
    (s.sendMsg src dest kind stream l).flash = s.flash ∧ (s.sendMsg src dest kind stream l).keyHashes = s.keyHashes ∧
    (s.sendMsg src dest kind stream l).boot = s.boot := by
  obtain ⟨_, _, h⟩ := State.sendMsg_eq src dest kind stream l s
  rw [h]
  exact ⟨rfl, rfl, rfl, rfl, rfl, rfl, rfl, rfl, rfl, rfl, rfl, rfl, rfl, rfl, rfl, rfl, rfl, rfl, rfl, rfl, rfl, rfl, rfl, rfl, rfl,
    rfl, rfl, rfl, rfl, rfl, rfl, rfl, rfl, rfl, rfl, rfl, rfl, rfl, rfl, rfl, rfl, rfl, rfl, rfl, rfl, rfl, rfl, rfl, rfl, rfl, rfl,
    rfl, rfl, rfl, rfl, rfl, rfl, rfl, rfl⟩

@[simp] theorem State.respond_fields (s : State) (ep : Nat) (t : Token) (w : Word) :
    (s.respond ep t w).pending = s.pending ∧ (s.respond ep t w).mt = s.mt ∧ (s.respond ep t w).cw = s.cw ∧ (s.respond ep t w).mem = s.mem ∧
    (s.respond ep t w).eccs = s.eccs ∧ (s.respond ep t w).lines = s.lines ∧ (s.respond ep t w).freeCtr = s.freeCtr ∧
    (s.respond ep t w).queues = s.queues ∧ (s.respond ep t w).tb = s.tb ∧ (s.respond ep t w).hts = s.hts ∧ (s.respond ep t w).cols = s.cols ∧
    (s.respond ep t w).basin = s.basin ∧ (s.respond ep t w).dale = s.dale ∧ (s.respond ep t w).held = s.held ∧
    (s.respond ep t w).scrub = s.scrub ∧ (s.respond ep t w).fanout = s.fanout ∧ (s.respond ep t w).passed = s.passed ∧
    (s.respond ep t w).cores = s.cores ∧ (s.respond ep t w).pgs = s.pgs ∧ (s.respond ep t w).sets = s.sets ∧
    (s.respond ep t w).maps = s.maps ∧ (s.respond ep t w).stares = s.stares ∧ (s.respond ep t w).loops = s.loops ∧
    (s.respond ep t w).gateLog = s.gateLog ∧ (s.respond ep t w).scs = s.scs ∧ (s.respond ep t w).encs = s.encs ∧
    (s.respond ep t w).halls = s.halls ∧ (s.respond ep t w).probes = s.probes ∧ (s.respond ep t w).emus = s.emus ∧
    (s.respond ep t w).slots = s.slots ∧ (s.respond ep t w).csiSkip = s.csiSkip ∧ (s.respond ep t w).pipesOff = s.pipesOff ∧
    (s.respond ep t w).taps = s.taps ∧ (s.respond ep t w).i2cs = s.i2cs ∧ (s.respond ep t w).auxs = s.auxs ∧
    (s.respond ep t w).auxMoves = s.auxMoves ∧ (s.respond ep t w).auxStops = s.auxStops ∧ (s.respond ep t w).auxNext = s.auxNext ∧
    (s.respond ep t w).lanes = s.lanes ∧ (s.respond ep t w).links = s.links ∧ (s.respond ep t w).keySlots = s.keySlots ∧
    (s.respond ep t w).wins = s.wins ∧ (s.respond ep t w).ups = s.ups ∧ (s.respond ep t w).ptp = s.ptp ∧ (s.respond ep t w).host = s.host ∧
    (s.respond ep t w).dramBanks = s.dramBanks ∧ (s.respond ep t w).dramRanks = s.dramRanks ∧ (s.respond ep t w).dramChans = s.dramChans ∧
    (s.respond ep t w).raaimt = s.raaimt ∧ (s.respond ep t w).raammt = s.raammt ∧ (s.respond ep t w).gorge = s.gorge ∧
    (s.respond ep t w).gorgeSaves = s.gorgeSaves ∧ (s.respond ep t w).holds = s.holds ∧ (s.respond ep t w).wake = s.wake ∧
    (s.respond ep t w).vault = s.vault ∧ (s.respond ep t w).house = s.house ∧ (s.respond ep t w).flash = s.flash ∧
    (s.respond ep t w).keyHashes = s.keyHashes ∧ (s.respond ep t w).boot = s.boot := by
  exact ⟨rfl, rfl, rfl, rfl, rfl, rfl, rfl, rfl, rfl, rfl, rfl, rfl, rfl, rfl, rfl, rfl, rfl, rfl, rfl, rfl, rfl, rfl, rfl, rfl, rfl,
    rfl, rfl, rfl, rfl, rfl, rfl, rfl, rfl, rfl, rfl, rfl, rfl, rfl, rfl, rfl, rfl, rfl, rfl, rfl, rfl, rfl, rfl, rfl, rfl, rfl, rfl,
    rfl, rfl, rfl, rfl, rfl, rfl, rfl, rfl⟩

@[simp] theorem State.deliver_fields (s : State) (ep : Nat) (t : Token) :
    (s.deliver ep t).pending = s.pending ∧ (s.deliver ep t).mt = s.mt ∧ (s.deliver ep t).mem = s.mem ∧ (s.deliver ep t).eccs = s.eccs ∧
    (s.deliver ep t).seqs = s.seqs ∧ (s.deliver ep t).lines = s.lines ∧ (s.deliver ep t).freeCtr = s.freeCtr ∧
    (s.deliver ep t).queues = s.queues ∧ (s.deliver ep t).tb = s.tb ∧ (s.deliver ep t).hts = s.hts ∧ (s.deliver ep t).cols = s.cols ∧
    (s.deliver ep t).basin = s.basin ∧ (s.deliver ep t).dale = s.dale ∧ (s.deliver ep t).held = s.held ∧ (s.deliver ep t).scrub = s.scrub ∧
    (s.deliver ep t).fanout = s.fanout ∧ (s.deliver ep t).passed = s.passed ∧ (s.deliver ep t).cores = s.cores ∧
    (s.deliver ep t).pgs = s.pgs ∧ (s.deliver ep t).sets = s.sets ∧ (s.deliver ep t).maps = s.maps ∧ (s.deliver ep t).stares = s.stares ∧
    (s.deliver ep t).loops = s.loops ∧ (s.deliver ep t).gateLog = s.gateLog ∧ (s.deliver ep t).scs = s.scs ∧ (s.deliver ep t).encs = s.encs ∧
    (s.deliver ep t).halls = s.halls ∧ (s.deliver ep t).probes = s.probes ∧ (s.deliver ep t).emus = s.emus ∧
    (s.deliver ep t).slots = s.slots ∧ (s.deliver ep t).csiSkip = s.csiSkip ∧ (s.deliver ep t).pipesOff = s.pipesOff ∧
    (s.deliver ep t).taps = s.taps ∧ (s.deliver ep t).i2cs = s.i2cs ∧ (s.deliver ep t).auxs = s.auxs ∧
    (s.deliver ep t).auxMoves = s.auxMoves ∧ (s.deliver ep t).auxStops = s.auxStops ∧ (s.deliver ep t).auxNext = s.auxNext ∧
    (s.deliver ep t).lanes = s.lanes ∧ (s.deliver ep t).links = s.links ∧ (s.deliver ep t).keySlots = s.keySlots ∧
    (s.deliver ep t).wins = s.wins ∧ (s.deliver ep t).ups = s.ups ∧ (s.deliver ep t).ptp = s.ptp ∧ (s.deliver ep t).host = s.host ∧
    (s.deliver ep t).dramBanks = s.dramBanks ∧ (s.deliver ep t).dramRanks = s.dramRanks ∧ (s.deliver ep t).dramChans = s.dramChans ∧
    (s.deliver ep t).raaimt = s.raaimt ∧ (s.deliver ep t).raammt = s.raammt ∧ (s.deliver ep t).gorge = s.gorge ∧
    (s.deliver ep t).gorgeSaves = s.gorgeSaves ∧ (s.deliver ep t).holds = s.holds ∧ (s.deliver ep t).wake = s.wake ∧
    (s.deliver ep t).vault = s.vault ∧ (s.deliver ep t).house = s.house ∧ (s.deliver ep t).flash = s.flash ∧
    (s.deliver ep t).keyHashes = s.keyHashes ∧ (s.deliver ep t).boot = s.boot := by
  obtain ⟨_, h⟩ := State.deliver_eq s ep t
  rw [h]
  exact ⟨rfl, rfl, rfl, rfl, rfl, rfl, rfl, rfl, rfl, rfl, rfl, rfl, rfl, rfl, rfl, rfl, rfl, rfl, rfl, rfl, rfl, rfl, rfl, rfl, rfl,
    rfl, rfl, rfl, rfl, rfl, rfl, rfl, rfl, rfl, rfl, rfl, rfl, rfl, rfl, rfl, rfl, rfl, rfl, rfl, rfl, rfl, rfl, rfl, rfl, rfl, rfl,
    rfl, rfl, rfl, rfl, rfl, rfl, rfl, rfl⟩

@[simp] theorem State.deliverAll_fields (s : State) (ep : Nat) (ts : List Token) :
    (s.deliverAll ep ts).pending = s.pending ∧ (s.deliverAll ep ts).mt = s.mt ∧ (s.deliverAll ep ts).mem = s.mem ∧
    (s.deliverAll ep ts).eccs = s.eccs ∧ (s.deliverAll ep ts).seqs = s.seqs ∧ (s.deliverAll ep ts).lines = s.lines ∧
    (s.deliverAll ep ts).freeCtr = s.freeCtr ∧ (s.deliverAll ep ts).queues = s.queues ∧ (s.deliverAll ep ts).tb = s.tb ∧
    (s.deliverAll ep ts).hts = s.hts ∧ (s.deliverAll ep ts).cols = s.cols ∧ (s.deliverAll ep ts).basin = s.basin ∧
    (s.deliverAll ep ts).dale = s.dale ∧ (s.deliverAll ep ts).held = s.held ∧ (s.deliverAll ep ts).scrub = s.scrub ∧
    (s.deliverAll ep ts).fanout = s.fanout ∧ (s.deliverAll ep ts).passed = s.passed ∧ (s.deliverAll ep ts).cores = s.cores ∧
    (s.deliverAll ep ts).pgs = s.pgs ∧ (s.deliverAll ep ts).sets = s.sets ∧ (s.deliverAll ep ts).maps = s.maps ∧
    (s.deliverAll ep ts).stares = s.stares ∧ (s.deliverAll ep ts).loops = s.loops ∧ (s.deliverAll ep ts).gateLog = s.gateLog ∧
    (s.deliverAll ep ts).scs = s.scs ∧ (s.deliverAll ep ts).encs = s.encs ∧ (s.deliverAll ep ts).halls = s.halls ∧
    (s.deliverAll ep ts).probes = s.probes ∧ (s.deliverAll ep ts).emus = s.emus ∧ (s.deliverAll ep ts).slots = s.slots ∧
    (s.deliverAll ep ts).csiSkip = s.csiSkip ∧ (s.deliverAll ep ts).pipesOff = s.pipesOff ∧ (s.deliverAll ep ts).taps = s.taps ∧
    (s.deliverAll ep ts).i2cs = s.i2cs ∧ (s.deliverAll ep ts).auxs = s.auxs ∧ (s.deliverAll ep ts).auxMoves = s.auxMoves ∧
    (s.deliverAll ep ts).auxStops = s.auxStops ∧ (s.deliverAll ep ts).auxNext = s.auxNext ∧ (s.deliverAll ep ts).lanes = s.lanes ∧
    (s.deliverAll ep ts).links = s.links ∧ (s.deliverAll ep ts).keySlots = s.keySlots ∧ (s.deliverAll ep ts).wins = s.wins ∧
    (s.deliverAll ep ts).ups = s.ups ∧ (s.deliverAll ep ts).ptp = s.ptp ∧ (s.deliverAll ep ts).host = s.host ∧
    (s.deliverAll ep ts).dramBanks = s.dramBanks ∧ (s.deliverAll ep ts).dramRanks = s.dramRanks ∧
    (s.deliverAll ep ts).dramChans = s.dramChans ∧ (s.deliverAll ep ts).raaimt = s.raaimt ∧ (s.deliverAll ep ts).raammt = s.raammt ∧
    (s.deliverAll ep ts).gorge = s.gorge ∧ (s.deliverAll ep ts).gorgeSaves = s.gorgeSaves ∧ (s.deliverAll ep ts).holds = s.holds ∧
    (s.deliverAll ep ts).wake = s.wake ∧ (s.deliverAll ep ts).vault = s.vault ∧ (s.deliverAll ep ts).house = s.house ∧
    (s.deliverAll ep ts).flash = s.flash ∧ (s.deliverAll ep ts).keyHashes = s.keyHashes ∧ (s.deliverAll ep ts).boot = s.boot := by
  obtain ⟨_, _, h⟩ := State.deliverAll_eq ep ts s
  rw [h]
  exact ⟨rfl, rfl, rfl, rfl, rfl, rfl, rfl, rfl, rfl, rfl, rfl, rfl, rfl, rfl, rfl, rfl, rfl, rfl, rfl, rfl, rfl, rfl, rfl, rfl, rfl,
    rfl, rfl, rfl, rfl, rfl, rfl, rfl, rfl, rfl, rfl, rfl, rfl, rfl, rfl, rfl, rfl, rfl, rfl, rfl, rfl, rfl, rfl, rfl, rfl, rfl, rfl,
    rfl, rfl, rfl, rfl, rfl, rfl, rfl, rfl⟩

@[simp] theorem State.absorb_fields (s : State) (ep : Nat) (t : Token) :
    (s.absorb ep t).pending = s.pending ∧ (s.absorb ep t).mt = s.mt ∧ (s.absorb ep t).cw = s.cw ∧ (s.absorb ep t).mem = s.mem ∧
    (s.absorb ep t).eccs = s.eccs ∧ (s.absorb ep t).net = s.net ∧ (s.absorb ep t).seqs = s.seqs ∧ (s.absorb ep t).freeCtr = s.freeCtr ∧
    (s.absorb ep t).queues = s.queues ∧ (s.absorb ep t).tb = s.tb ∧ (s.absorb ep t).hts = s.hts ∧ (s.absorb ep t).cols = s.cols ∧
    (s.absorb ep t).basin = s.basin ∧ (s.absorb ep t).dale = s.dale ∧ (s.absorb ep t).held = s.held ∧ (s.absorb ep t).scrub = s.scrub ∧
    (s.absorb ep t).fanout = s.fanout ∧ (s.absorb ep t).passed = s.passed ∧ (s.absorb ep t).cores = s.cores ∧ (s.absorb ep t).pgs = s.pgs ∧
    (s.absorb ep t).sets = s.sets ∧ (s.absorb ep t).maps = s.maps ∧ (s.absorb ep t).stares = s.stares ∧ (s.absorb ep t).loops = s.loops ∧
    (s.absorb ep t).gateLog = s.gateLog ∧ (s.absorb ep t).scs = s.scs ∧ (s.absorb ep t).encs = s.encs ∧ (s.absorb ep t).halls = s.halls ∧
    (s.absorb ep t).probes = s.probes ∧ (s.absorb ep t).emus = s.emus ∧ (s.absorb ep t).slots = s.slots ∧
    (s.absorb ep t).csiSkip = s.csiSkip ∧ (s.absorb ep t).pipesOff = s.pipesOff ∧ (s.absorb ep t).taps = s.taps ∧
    (s.absorb ep t).i2cs = s.i2cs ∧ (s.absorb ep t).auxs = s.auxs ∧ (s.absorb ep t).auxMoves = s.auxMoves ∧
    (s.absorb ep t).auxStops = s.auxStops ∧ (s.absorb ep t).auxNext = s.auxNext ∧ (s.absorb ep t).lanes = s.lanes ∧
    (s.absorb ep t).links = s.links ∧ (s.absorb ep t).keySlots = s.keySlots ∧ (s.absorb ep t).wins = s.wins ∧ (s.absorb ep t).ups = s.ups ∧
    (s.absorb ep t).ptp = s.ptp ∧ (s.absorb ep t).host = s.host ∧ (s.absorb ep t).dramBanks = s.dramBanks ∧
    (s.absorb ep t).dramRanks = s.dramRanks ∧ (s.absorb ep t).dramChans = s.dramChans ∧ (s.absorb ep t).raaimt = s.raaimt ∧
    (s.absorb ep t).raammt = s.raammt ∧ (s.absorb ep t).gorge = s.gorge ∧ (s.absorb ep t).gorgeSaves = s.gorgeSaves ∧
    (s.absorb ep t).holds = s.holds ∧ (s.absorb ep t).wake = s.wake ∧ (s.absorb ep t).vault = s.vault ∧ (s.absorb ep t).house = s.house ∧
    (s.absorb ep t).flash = s.flash ∧ (s.absorb ep t).keyHashes = s.keyHashes ∧ (s.absorb ep t).boot = s.boot := by
  unfold State.absorb
  split <;> exact ⟨rfl, rfl, rfl, rfl, rfl, rfl, rfl, rfl, rfl, rfl, rfl, rfl, rfl, rfl, rfl, rfl, rfl, rfl, rfl, rfl, rfl, rfl, rfl,
    rfl, rfl, rfl, rfl, rfl, rfl, rfl, rfl, rfl, rfl, rfl, rfl, rfl, rfl, rfl, rfl, rfl, rfl, rfl, rfl, rfl, rfl, rfl, rfl, rfl, rfl,
    rfl, rfl, rfl, rfl, rfl, rfl, rfl, rfl, rfl, rfl, rfl⟩

@[simp] theorem State.refuse_fields (s : State) (ep : Nat) (t : Token) (code : Nat) :
    (s.refuse ep t code).pending = s.pending ∧ (s.refuse ep t code).mt = s.mt ∧ (s.refuse ep t code).cw = s.cw ∧
    (s.refuse ep t code).mem = s.mem ∧ (s.refuse ep t code).eccs = s.eccs ∧ (s.refuse ep t code).freeCtr = s.freeCtr ∧
    (s.refuse ep t code).queues = s.queues ∧ (s.refuse ep t code).tb = s.tb ∧ (s.refuse ep t code).hts = s.hts ∧
    (s.refuse ep t code).cols = s.cols ∧ (s.refuse ep t code).basin = s.basin ∧ (s.refuse ep t code).dale = s.dale ∧
    (s.refuse ep t code).held = s.held ∧ (s.refuse ep t code).scrub = s.scrub ∧ (s.refuse ep t code).fanout = s.fanout ∧
    (s.refuse ep t code).passed = s.passed ∧ (s.refuse ep t code).cores = s.cores ∧ (s.refuse ep t code).pgs = s.pgs ∧
    (s.refuse ep t code).sets = s.sets ∧ (s.refuse ep t code).maps = s.maps ∧ (s.refuse ep t code).stares = s.stares ∧
    (s.refuse ep t code).loops = s.loops ∧ (s.refuse ep t code).gateLog = s.gateLog ∧ (s.refuse ep t code).scs = s.scs ∧
    (s.refuse ep t code).encs = s.encs ∧ (s.refuse ep t code).halls = s.halls ∧ (s.refuse ep t code).probes = s.probes ∧
    (s.refuse ep t code).emus = s.emus ∧ (s.refuse ep t code).slots = s.slots ∧ (s.refuse ep t code).csiSkip = s.csiSkip ∧
    (s.refuse ep t code).pipesOff = s.pipesOff ∧ (s.refuse ep t code).taps = s.taps ∧ (s.refuse ep t code).i2cs = s.i2cs ∧
    (s.refuse ep t code).auxs = s.auxs ∧ (s.refuse ep t code).auxMoves = s.auxMoves ∧ (s.refuse ep t code).auxStops = s.auxStops ∧
    (s.refuse ep t code).auxNext = s.auxNext ∧ (s.refuse ep t code).lanes = s.lanes ∧ (s.refuse ep t code).links = s.links ∧
    (s.refuse ep t code).keySlots = s.keySlots ∧ (s.refuse ep t code).wins = s.wins ∧ (s.refuse ep t code).ups = s.ups ∧
    (s.refuse ep t code).ptp = s.ptp ∧ (s.refuse ep t code).host = s.host ∧ (s.refuse ep t code).dramBanks = s.dramBanks ∧
    (s.refuse ep t code).dramRanks = s.dramRanks ∧ (s.refuse ep t code).dramChans = s.dramChans ∧ (s.refuse ep t code).raaimt = s.raaimt ∧
    (s.refuse ep t code).raammt = s.raammt ∧ (s.refuse ep t code).gorge = s.gorge ∧ (s.refuse ep t code).gorgeSaves = s.gorgeSaves ∧
    (s.refuse ep t code).holds = s.holds ∧ (s.refuse ep t code).wake = s.wake ∧ (s.refuse ep t code).vault = s.vault ∧
    (s.refuse ep t code).house = s.house ∧ (s.refuse ep t code).flash = s.flash ∧ (s.refuse ep t code).keyHashes = s.keyHashes ∧
    (s.refuse ep t code).boot = s.boot := by
  unfold State.refuse State.absorb
  split
  · split <;> exact ⟨rfl, rfl, rfl, rfl, rfl, rfl, rfl, rfl, rfl, rfl, rfl, rfl, rfl, rfl, rfl, rfl, rfl, rfl, rfl, rfl, rfl, rfl, rfl,
    rfl, rfl, rfl, rfl, rfl, rfl, rfl, rfl, rfl, rfl, rfl, rfl, rfl, rfl, rfl, rfl, rfl, rfl, rfl, rfl, rfl, rfl, rfl, rfl, rfl, rfl,
    rfl, rfl, rfl, rfl, rfl, rfl, rfl, rfl, rfl⟩
  · exact ⟨rfl, rfl, rfl, rfl, rfl, rfl, rfl, rfl, rfl, rfl, rfl, rfl, rfl, rfl, rfl, rfl, rfl, rfl, rfl, rfl, rfl, rfl, rfl, rfl, rfl,
    rfl, rfl, rfl, rfl, rfl, rfl, rfl, rfl, rfl, rfl, rfl, rfl, rfl, rfl, rfl, rfl, rfl, rfl, rfl, rfl, rfl, rfl, rfl, rfl, rfl, rfl,
    rfl, rfl, rfl, rfl, rfl, rfl, rfl⟩

@[simp] theorem State.daleRecord_fields (s : State) (r : Raise) (real inj : Bool) :
    (s.daleRecord r real inj).pending = s.pending ∧ (s.daleRecord r real inj).mt = s.mt ∧ (s.daleRecord r real inj).net = s.net ∧
    (s.daleRecord r real inj).seqs = s.seqs ∧ (s.daleRecord r real inj).freeCtr = s.freeCtr ∧ (s.daleRecord r real inj).queues = s.queues ∧
    (s.daleRecord r real inj).tb = s.tb ∧ (s.daleRecord r real inj).hts = s.hts ∧ (s.daleRecord r real inj).cols = s.cols ∧
    (s.daleRecord r real inj).basin = s.basin ∧ (s.daleRecord r real inj).held = s.held ∧ (s.daleRecord r real inj).scrub = s.scrub ∧
    (s.daleRecord r real inj).fanout = s.fanout ∧ (s.daleRecord r real inj).passed = s.passed ∧ (s.daleRecord r real inj).cores = s.cores ∧
    (s.daleRecord r real inj).pgs = s.pgs ∧ (s.daleRecord r real inj).sets = s.sets ∧ (s.daleRecord r real inj).maps = s.maps ∧
    (s.daleRecord r real inj).stares = s.stares ∧ (s.daleRecord r real inj).loops = s.loops ∧ (s.daleRecord r real inj).gateLog = s.gateLog ∧
    (s.daleRecord r real inj).scs = s.scs ∧ (s.daleRecord r real inj).encs = s.encs ∧ (s.daleRecord r real inj).halls = s.halls ∧
    (s.daleRecord r real inj).probes = s.probes ∧ (s.daleRecord r real inj).emus = s.emus ∧ (s.daleRecord r real inj).slots = s.slots ∧
    (s.daleRecord r real inj).csiSkip = s.csiSkip ∧ (s.daleRecord r real inj).pipesOff = s.pipesOff ∧
    (s.daleRecord r real inj).taps = s.taps ∧ (s.daleRecord r real inj).i2cs = s.i2cs ∧ (s.daleRecord r real inj).auxs = s.auxs ∧
    (s.daleRecord r real inj).auxMoves = s.auxMoves ∧ (s.daleRecord r real inj).auxStops = s.auxStops ∧
    (s.daleRecord r real inj).auxNext = s.auxNext ∧ (s.daleRecord r real inj).lanes = s.lanes ∧ (s.daleRecord r real inj).links = s.links ∧
    (s.daleRecord r real inj).keySlots = s.keySlots ∧ (s.daleRecord r real inj).wins = s.wins ∧ (s.daleRecord r real inj).ups = s.ups ∧
    (s.daleRecord r real inj).ptp = s.ptp ∧ (s.daleRecord r real inj).host = s.host ∧ (s.daleRecord r real inj).dramBanks = s.dramBanks ∧
    (s.daleRecord r real inj).dramRanks = s.dramRanks ∧ (s.daleRecord r real inj).dramChans = s.dramChans ∧
    (s.daleRecord r real inj).raaimt = s.raaimt ∧ (s.daleRecord r real inj).raammt = s.raammt ∧ (s.daleRecord r real inj).gorge = s.gorge ∧
    (s.daleRecord r real inj).gorgeSaves = s.gorgeSaves ∧ (s.daleRecord r real inj).holds = s.holds ∧
    (s.daleRecord r real inj).wake = s.wake ∧ (s.daleRecord r real inj).vault = s.vault ∧ (s.daleRecord r real inj).house = s.house ∧
    (s.daleRecord r real inj).flash = s.flash ∧ (s.daleRecord r real inj).keyHashes = s.keyHashes ∧ (s.daleRecord r real inj).boot = s.boot := by
  obtain ⟨_, _, _, _, _, h⟩ := State.daleRecord_eq s r real inj
  rw [h]
  exact ⟨rfl, rfl, rfl, rfl, rfl, rfl, rfl, rfl, rfl, rfl, rfl, rfl, rfl, rfl, rfl, rfl, rfl, rfl, rfl, rfl, rfl, rfl, rfl, rfl, rfl,
    rfl, rfl, rfl, rfl, rfl, rfl, rfl, rfl, rfl, rfl, rfl, rfl, rfl, rfl, rfl, rfl, rfl, rfl, rfl, rfl, rfl, rfl, rfl, rfl, rfl, rfl,
    rfl, rfl, rfl, rfl, rfl⟩

@[simp] theorem State.record7_fields (s : State) (source rtype unit src : Nat) (d0 d1 : Word) (mt : Option Nat) :
    (s.record7 source rtype unit src d0 d1 mt).pending = s.pending ∧ (s.record7 source rtype unit src d0 d1 mt).mt = s.mt ∧
    (s.record7 source rtype unit src d0 d1 mt).net = s.net ∧ (s.record7 source rtype unit src d0 d1 mt).seqs = s.seqs ∧
    (s.record7 source rtype unit src d0 d1 mt).freeCtr = s.freeCtr ∧ (s.record7 source rtype unit src d0 d1 mt).queues = s.queues ∧
    (s.record7 source rtype unit src d0 d1 mt).tb = s.tb ∧ (s.record7 source rtype unit src d0 d1 mt).hts = s.hts ∧
    (s.record7 source rtype unit src d0 d1 mt).cols = s.cols ∧ (s.record7 source rtype unit src d0 d1 mt).basin = s.basin ∧
    (s.record7 source rtype unit src d0 d1 mt).held = s.held ∧ (s.record7 source rtype unit src d0 d1 mt).scrub = s.scrub ∧
    (s.record7 source rtype unit src d0 d1 mt).fanout = s.fanout ∧ (s.record7 source rtype unit src d0 d1 mt).passed = s.passed ∧
    (s.record7 source rtype unit src d0 d1 mt).cores = s.cores ∧ (s.record7 source rtype unit src d0 d1 mt).pgs = s.pgs ∧
    (s.record7 source rtype unit src d0 d1 mt).sets = s.sets ∧ (s.record7 source rtype unit src d0 d1 mt).maps = s.maps ∧
    (s.record7 source rtype unit src d0 d1 mt).stares = s.stares ∧ (s.record7 source rtype unit src d0 d1 mt).loops = s.loops ∧
    (s.record7 source rtype unit src d0 d1 mt).gateLog = s.gateLog ∧ (s.record7 source rtype unit src d0 d1 mt).scs = s.scs ∧
    (s.record7 source rtype unit src d0 d1 mt).encs = s.encs ∧ (s.record7 source rtype unit src d0 d1 mt).halls = s.halls ∧
    (s.record7 source rtype unit src d0 d1 mt).probes = s.probes ∧ (s.record7 source rtype unit src d0 d1 mt).emus = s.emus ∧
    (s.record7 source rtype unit src d0 d1 mt).slots = s.slots ∧ (s.record7 source rtype unit src d0 d1 mt).csiSkip = s.csiSkip ∧
    (s.record7 source rtype unit src d0 d1 mt).pipesOff = s.pipesOff ∧ (s.record7 source rtype unit src d0 d1 mt).taps = s.taps ∧
    (s.record7 source rtype unit src d0 d1 mt).i2cs = s.i2cs ∧ (s.record7 source rtype unit src d0 d1 mt).auxs = s.auxs ∧
    (s.record7 source rtype unit src d0 d1 mt).auxMoves = s.auxMoves ∧ (s.record7 source rtype unit src d0 d1 mt).auxStops = s.auxStops ∧
    (s.record7 source rtype unit src d0 d1 mt).auxNext = s.auxNext ∧ (s.record7 source rtype unit src d0 d1 mt).lanes = s.lanes ∧
    (s.record7 source rtype unit src d0 d1 mt).links = s.links ∧ (s.record7 source rtype unit src d0 d1 mt).keySlots = s.keySlots ∧
    (s.record7 source rtype unit src d0 d1 mt).wins = s.wins ∧ (s.record7 source rtype unit src d0 d1 mt).ups = s.ups ∧
    (s.record7 source rtype unit src d0 d1 mt).ptp = s.ptp ∧ (s.record7 source rtype unit src d0 d1 mt).host = s.host ∧
    (s.record7 source rtype unit src d0 d1 mt).dramBanks = s.dramBanks ∧ (s.record7 source rtype unit src d0 d1 mt).dramRanks = s.dramRanks ∧
    (s.record7 source rtype unit src d0 d1 mt).dramChans = s.dramChans ∧ (s.record7 source rtype unit src d0 d1 mt).raaimt = s.raaimt ∧
    (s.record7 source rtype unit src d0 d1 mt).raammt = s.raammt ∧ (s.record7 source rtype unit src d0 d1 mt).gorge = s.gorge ∧
    (s.record7 source rtype unit src d0 d1 mt).gorgeSaves = s.gorgeSaves ∧ (s.record7 source rtype unit src d0 d1 mt).holds = s.holds ∧
    (s.record7 source rtype unit src d0 d1 mt).wake = s.wake ∧ (s.record7 source rtype unit src d0 d1 mt).vault = s.vault ∧
    (s.record7 source rtype unit src d0 d1 mt).house = s.house ∧ (s.record7 source rtype unit src d0 d1 mt).flash = s.flash ∧
    (s.record7 source rtype unit src d0 d1 mt).keyHashes = s.keyHashes ∧ (s.record7 source rtype unit src d0 d1 mt).boot = s.boot := by
  obtain ⟨_, _, _, _, _, h⟩ := State.record7_eq s source rtype unit src d0 d1 mt
  rw [h]
  exact ⟨rfl, rfl, rfl, rfl, rfl, rfl, rfl, rfl, rfl, rfl, rfl, rfl, rfl, rfl, rfl, rfl, rfl, rfl, rfl, rfl, rfl, rfl, rfl, rfl, rfl,
    rfl, rfl, rfl, rfl, rfl, rfl, rfl, rfl, rfl, rfl, rfl, rfl, rfl, rfl, rfl, rfl, rfl, rfl, rfl, rfl, rfl, rfl, rfl, rfl, rfl, rfl,
    rfl, rfl, rfl, rfl, rfl⟩

@[simp] theorem State.reach_fields (s : State) (t : Nat) :
    (s.reach t).pending = s.pending ∧ (s.reach t).cw = s.cw ∧ (s.reach t).mem = s.mem ∧ (s.reach t).eccs = s.eccs ∧ (s.reach t).net = s.net ∧
    (s.reach t).seqs = s.seqs ∧ (s.reach t).lines = s.lines ∧ (s.reach t).freeCtr = s.freeCtr ∧ (s.reach t).queues = s.queues ∧
    (s.reach t).tb = s.tb ∧ (s.reach t).hts = s.hts ∧ (s.reach t).cols = s.cols ∧ (s.reach t).basin = s.basin ∧ (s.reach t).dale = s.dale ∧
    (s.reach t).held = s.held ∧ (s.reach t).scrub = s.scrub ∧ (s.reach t).fanout = s.fanout ∧ (s.reach t).passed = s.passed ∧
    (s.reach t).cores = s.cores ∧ (s.reach t).pgs = s.pgs ∧ (s.reach t).sets = s.sets ∧ (s.reach t).maps = s.maps ∧
    (s.reach t).stares = s.stares ∧ (s.reach t).loops = s.loops ∧ (s.reach t).gateLog = s.gateLog ∧ (s.reach t).scs = s.scs ∧
    (s.reach t).encs = s.encs ∧ (s.reach t).halls = s.halls ∧ (s.reach t).probes = s.probes ∧ (s.reach t).emus = s.emus ∧
    (s.reach t).slots = s.slots ∧ (s.reach t).csiSkip = s.csiSkip ∧ (s.reach t).pipesOff = s.pipesOff ∧ (s.reach t).taps = s.taps ∧
    (s.reach t).i2cs = s.i2cs ∧ (s.reach t).auxs = s.auxs ∧ (s.reach t).auxMoves = s.auxMoves ∧ (s.reach t).auxStops = s.auxStops ∧
    (s.reach t).auxNext = s.auxNext ∧ (s.reach t).lanes = s.lanes ∧ (s.reach t).links = s.links ∧ (s.reach t).keySlots = s.keySlots ∧
    (s.reach t).wins = s.wins ∧ (s.reach t).ups = s.ups ∧ (s.reach t).ptp = s.ptp ∧ (s.reach t).host = s.host ∧
    (s.reach t).dramBanks = s.dramBanks ∧ (s.reach t).dramRanks = s.dramRanks ∧ (s.reach t).dramChans = s.dramChans ∧
    (s.reach t).raaimt = s.raaimt ∧ (s.reach t).raammt = s.raammt ∧ (s.reach t).gorge = s.gorge ∧ (s.reach t).gorgeSaves = s.gorgeSaves ∧
    (s.reach t).holds = s.holds ∧ (s.reach t).wake = s.wake ∧ (s.reach t).vault = s.vault ∧ (s.reach t).house = s.house ∧
    (s.reach t).flash = s.flash ∧ (s.reach t).keyHashes = s.keyHashes ∧ (s.reach t).boot = s.boot := by
  exact ⟨rfl, rfl, rfl, rfl, rfl, rfl, rfl, rfl, rfl, rfl, rfl, rfl, rfl, rfl, rfl, rfl, rfl, rfl, rfl, rfl, rfl, rfl, rfl, rfl, rfl,
    rfl, rfl, rfl, rfl, rfl, rfl, rfl, rfl, rfl, rfl, rfl, rfl, rfl, rfl, rfl, rfl, rfl, rfl, rfl, rfl, rfl, rfl, rfl, rfl, rfl, rfl,
    rfl, rfl, rfl, rfl, rfl, rfl, rfl, rfl, rfl⟩

end Sys2Proof.Machine
end

