-- ==== Sys2Proof/Laws/Events.lean ====
section
/-! SUPPORT. Event counting touches the event-counter block alone: the words of every other block, and so every field of them, are unchanged
by an event, a delivery, a response or a refusal (R444). -/

namespace Sys2Proof.Machine

open Sys2Proof

theorem State.word_ecAdd {s : State} (h : s.canonical = true) {i n a : Nat} (hi : i < 64) (hb : blockOf a ≠ 7) :
    (s.ecAdd i n).word a = s.word a := by
  have h1 : a ≠ EC.COUNT.V.addr i := by
    intro e
    apply hb
    rw [e]
    unfold blockOf
    simp only [EC.COUNT.V, Fld.addr]
    omega
  have h2 : a ≠ EC.STAT.SAT.base := by
    intro e
    apply hb
    rw [e]
    decide
  unfold State.ecAdd
  extract_lets v u
  have hu : u.canonical = true := State.canonical_setF _ _ _ h
  have hw : u.word a = s.word a := by
    show (s.setF EC.COUNT.V i _).word a = s.word a
    rw [State.word_setF h, if_neg h1]
  split
  · rw [State.word_setWord hu, if_neg h2, hw]
  · exact hw

theorem ecListed_lt {l : List (Nat × Word)} {p : Nat × Word} (h : p ∈ ecListed l) : p.1 < 64 := by
  unfold ecListed at h
  rw [List.mem_map] at h
  obtain ⟨q, hq, rfl⟩ := h
  have := (List.mem_filter.1 hq).2
  rw [decide_eq_true_eq] at this
  simp only
  omega

/-- An event changes no word outside the event counters' block. -/
theorem State.word_event {s : State} (h : s.canonical = true) (e : Nat) (t : Option Token) (n : Nat) {a : Nat} (hb : blockOf a ≠ 7) :
    (s.event e t n).word a = s.word a := by
  unfold State.event
  split
  · rfl
  · have gen : ∀ (l : List (Nat × Word)) (u : State), (∀ p ∈ l, p.1 < 64) → u.canonical = true →
        (l.foldl (fun s p => if ecSelects p.2 e t then s.ecAdd p.1 n else s) u).word a = u.word a := by
      intro l
      induction l with
      | nil => intro u _ _; rfl
      | cons p l ih =>
        intro u hl hu
        rw [List.foldl_cons, ih _ (fun q hq => hl q (List.mem_cons_of_mem _ hq))]
        · split
          · exact State.word_ecAdd hu (hl p List.mem_cons_self) hb
          · rfl
        · split
          · exact (State.ecAdd_kept (Kept.refl u)).canon hu
          · exact hu
    exact gen _ s (fun p hp => ecListed_lt hp) h

theorem State.f_event {s : State} (h : s.canonical = true) (e : Nat) (t : Option Token) (n : Nat) (f : Fld) (i : Nat)
    (hb : blockOf (f.addr i) ≠ 7) : (s.event e t n).f f i = s.f f i := by
  unfold State.f
  rw [State.word_event h e t n hb]

/-- A delivery changes no word outside the event counters' block. -/
theorem State.word_deliver {s : State} (h : s.canonical = true) (ep : Nat) (t : Token) {a : Nat} (hb : blockOf a ≠ 7) :
    (s.deliver ep t).word a = s.word a := by
  unfold State.deliver
  rw [State.word_event (s := s.setNet (s.net.erase t)) ((State.setNet_kept (Kept.refl s)).canon h) _ _ _ hb]
  rfl

theorem State.f_deliver {s : State} (h : s.canonical = true) (ep : Nat) (t : Token) (f : Fld) (i : Nat) (hb : blockOf (f.addr i) ≠ 7) :
    (s.deliver ep t).f f i = s.f f i := by
  unfold State.f
  rw [State.word_deliver h ep t hb]

theorem State.word_deliverAll {a : Nat} (hb : blockOf a ≠ 7) (ep : Nat) (ts : List Token) :
    ∀ {s : State}, s.canonical = true → (s.deliverAll ep ts).word a = s.word a := by
  unfold State.deliverAll
  induction ts with
  | nil => intro s _; rfl
  | cons t ts ih =>
    intro s h
    rw [List.foldl_cons, ih ((State.deliver_kept (Kept.refl s)).canon h), State.word_deliver h ep t hb]

theorem State.f_deliverAll {s : State} (h : s.canonical = true) (ep : Nat) (ts : List Token) (f : Fld) (i : Nat)
    (hb : blockOf (f.addr i) ≠ 7) : (s.deliverAll ep ts).f f i = s.f f i := by
  unfold State.f
  rw [State.word_deliverAll hb ep ts h]

/-- The tokens of a message that is taken leave the network. -/
theorem State.deliver_net (s : State) (ep : Nat) (t : Token) : (s.deliver ep t).net = s.net.erase t := by
  unfold State.deliver
  simp

theorem State.deliverAll_net (ep : Nat) (ts : List Token) : ∀ s : State, (s.deliverAll ep ts).net = ts.foldl (fun n t => n.erase t) s.net := by
  unfold State.deliverAll
  induction ts with
  | nil => intro s; rfl
  | cons t ts ih => intro s; rw [List.foldl_cons, ih, State.deliver_net]; rfl

end Sys2Proof.Machine
end

