-- ==== Sys2Proof/Laws/KeptCorrMap.lean ====
section
/-! SUPPORT. Every operation of Machine/CorrMap.lean keeps the queue and the canonical tables (`Kept`). -/

set_option linter.unusedVariables false

namespace Sys2Proof.Machine

open Sys2Proof

theorem State.setMapSt_kept {a s y1 y2} (h : Kept a s) : Kept a (State.setMapSt s y1 y2) := by
  unfold State.setMapSt
  refine State.setMaps_kept ?_ ?_
  · exact h
  · intro x1
    exact twf_tset _ _ x1

theorem mapNextEffect_kept {a y1 y2 s} (h : Kept a s) : Kept a (mapNextEffect y1 y2 s) := by
  unfold mapNextEffect
  extract_lets +onlyGivenNames v1
  obtain ⟨v3, e, h2⟩ : ∃ y, y = v1 ∧ Kept a (y) := ⟨_, rfl, by
    refine State.setF_kept ?_
    refine State.setF_kept ?_
    exact h
    ⟩
  rw [← e]
  clear e v1
  refine State.setMapSt_kept ?_
  exact h2

theorem mapCheckDone_kept {a y1 s} (h : Kept a s) : Kept a (mapCheckDone y1 s) := by
  unfold mapCheckDone
  refine Kept.ite ?_ ?_
  · extract_lets +onlyGivenNames v1
    obtain ⟨v2, e⟩ : ∃ y, y = v1 := ⟨_, rfl⟩
    rw [← e]
    clear e v1
    extract_lets +onlyGivenNames v3
    obtain ⟨v5, e, h4⟩ : ∃ y, y = v3 ∧ Kept a (y) := ⟨_, rfl, by
      refine State.setMapSt_kept ?_
      exact h
      ⟩
    rw [← e]
    clear e v3
    refine Kept.ite ?_ ?_
    · refine State.setF_kept ?_
      exact h4
    · refine State.warn_kept ?_
      refine State.setF_kept ?_
      refine State.setF_kept ?_
      refine State.setF_kept ?_
      exact h4
  · exact h

theorem mapTake_kept {a y1 s} (h : Kept a s) : Kept a (mapTake y1 s) := by
  unfold mapTake
  extract_lets +onlyGivenNames v1
  obtain ⟨v2, e⟩ : ∃ y, y = v1 := ⟨_, rfl⟩
  rw [← e]
  clear e v1
  extract_lets +onlyGivenNames v3
  obtain ⟨v5, e, h4⟩ : ∃ y, y = v3 ∧ Kept a (y) := ⟨_, rfl, by
    refine State.setF_kept ?_
    refine State.setF_kept ?_
    refine State.setF_kept ?_
    exact h
    ⟩
  rw [← e]
  clear e v3
  refine State.info_kept ?_
  refine State.setMapSt_kept ?_
  refine State.setWord_kept ?_
  exact h4

theorem regPend_kept {a y1 s} (h : Kept a s) : Kept a (regPend y1 s) := by
  unfold regPend
  refine State.setF_kept ?_
  exact h

theorem regStep_kept {a y1 y2 s} (h : Kept a s) : Kept a (regStep y1 y2 s) := by
  unfold regStep
  extract_lets +onlyGivenNames v1
  obtain ⟨v2, e⟩ : ∃ y, y = v1 := ⟨_, rfl⟩
  rw [← e]
  clear e v1
  extract_lets +onlyGivenNames v3
  obtain ⟨v4, e⟩ : ∃ y, y = v3 := ⟨_, rfl⟩
  rw [← e]
  clear e v3
  extract_lets +onlyGivenNames v5
  obtain ⟨v6, e⟩ : ∃ y, y = v5 := ⟨_, rfl⟩
  rw [← e]
  clear e v5
  extract_lets +onlyGivenNames v7
  obtain ⟨v8, e⟩ : ∃ y, y = v7 := ⟨_, rfl⟩
  rw [← e]
  clear e v7
  refine Kept.ite ?_ ?_
  · exact h
  · extract_lets +onlyGivenNames v9
    obtain ⟨v11, e, h10⟩ : ∃ y, y = v9 ∧ Kept a (y) := ⟨_, rfl, by
      refine regPend_kept ?_
      refine State.setFi_kept ?_
      refine State.setFi_kept ?_
      exact h
      ⟩
    rw [← e]
    clear e v9
    refine State.record7_kept ?_
    exact h10

end Sys2Proof.Machine
end

