-- ==== Sys2Proof/Laws/KeptPathState.lean ====
section
/-! SUPPORT. Every operation of Machine/PathState.lean keeps the queue and the canonical tables (`Kept`). -/

set_option linter.unusedVariables false

namespace Sys2Proof.Machine

open Sys2Proof

theorem State.setPg_kept {a s y1 y2} (h : Kept a s) : Kept a (State.setPg s y1 y2) := by
  unfold State.setPg
  refine State.setPgs_kept ?_ ?_
  · exact h
  · intro x1
    exact twf_tset _ _ x1

theorem State.setPgState_kept {a s y1 y2} (h : Kept a s) : Kept a (State.setPgState s y1 y2) := by
  unfold State.setPgState
  refine State.setF_kept ?_
  exact h

theorem State.windowDone_kept {a s y1 y2} (h : Kept a s) : Kept a (State.windowDone s y1 y2) := by
  unfold State.windowDone
  extract_lets +onlyGivenNames v1
  obtain ⟨v2, e⟩ : ∃ y, y = v1 := ⟨_, rfl⟩
  rw [← e]
  clear e v1
  refine State.st_kept ?_
  exact h

theorem State.queueRecord_kept {a s y1 y2} (h : Kept a s) : Kept a (State.queueRecord s y1 y2) := by
  unfold State.queueRecord
  extract_lets +onlyGivenNames v1
  obtain ⟨v2, e⟩ : ∃ y, y = v1 := ⟨_, rfl⟩
  rw [← e]
  clear e v1
  refine Kept.ite ?_ ?_
  · refine State.setPg_kept ?_
    exact h
  · refine State.info_kept ?_
    refine State.incF_kept ?_
    refine State.setF_kept ?_
    exact h

theorem State.closePart_kept {a s y1 y2 y3 y4 y5} (h : Kept a s) : Kept a (State.closePart s y1 y2 y3 y4 y5) := by
  unfold State.closePart
  extract_lets +onlyGivenNames v1
  obtain ⟨v2, e⟩ : ∃ y, y = v1 := ⟨_, rfl⟩
  rw [← e]
  clear e v1
  split
  · rename_i z3 z4
    exact h
  · rename_i z5 z6 z7
    extract_lets +onlyGivenNames v8
    obtain ⟨v9, e⟩ : ∃ y, y = v8 := ⟨_, rfl⟩
    rw [← e]
    clear e v8
    extract_lets +onlyGivenNames v10
    obtain ⟨v12, e, h11⟩ : ∃ y, y = v10 ∧ Kept a (y) := ⟨_, rfl, by
      refine State.setPg_kept ?_
      exact h
      ⟩
    rw [← e]
    clear e v10
    refine Kept.ite ?_ ?_
    · refine State.queueRecord_kept ?_
      exact h11
    · exact h11

theorem State.noEmitRecord_kept {a s y1 y2} (h : Kept a s) : Kept a (State.noEmitRecord s y1 y2) := by
  unfold State.noEmitRecord
  refine Kept.ite ?_ ?_
  · refine State.queueRecord_kept ?_
    exact h
  · exact h

theorem State.openPart_kept {a s y1 y2 y3 y4 y5} (h : Kept a s) : Kept a (State.openPart s y1 y2 y3 y4 y5) := by
  unfold State.openPart
  extract_lets +onlyGivenNames v1
  obtain ⟨v3, e, h2⟩ : ∃ y, y = v1 ∧ Kept a (y) := ⟨_, rfl, by
    refine State.setSets_kept ?_
    exact h
    ⟩
  rw [← e]
  clear e v1
  refine State.setPg_kept ?_
  exact h2

theorem State.gateOff_kept {a s y1 y2 y3} (h : Kept a s) : Kept a (State.gateOff s y1 y2 y3) := by
  unfold State.gateOff
  refine State.send_kept ?_
  exact h

theorem State.stopRamp_kept {a s y1} (h : Kept a s) : Kept a (State.stopRamp s y1) := by
  unfold State.stopRamp
  extract_lets +onlyGivenNames v1
  obtain ⟨v2, e⟩ : ∃ y, y = v1 := ⟨_, rfl⟩
  rw [← e]
  clear e v1
  extract_lets +onlyGivenNames v3
  obtain ⟨v4, e⟩ : ∃ y, y = v3 := ⟨_, rfl⟩
  rw [← e]
  clear e v3
  extract_lets +onlyGivenNames v5
  obtain ⟨v6, e⟩ : ∃ y, y = v5 := ⟨_, rfl⟩
  rw [← e]
  clear e v5
  split
  · rename_i z7 z8
    refine State.setPg_kept ?_
    exact h
  · rename_i z9 z10 z11
    extract_lets +onlyGivenNames v12
    obtain ⟨v13, e⟩ : ∃ y, y = v12 := ⟨_, rfl⟩
    rw [← e]
    clear e v12
    extract_lets +onlyGivenNames v14
    obtain ⟨v15, e⟩ : ∃ y, y = v14 := ⟨_, rfl⟩
    rw [← e]
    clear e v14
    extract_lets +onlyGivenNames v16
    obtain ⟨v17, e⟩ : ∃ y, y = v16 := ⟨_, rfl⟩
    rw [← e]
    clear e v16
    extract_lets +onlyGivenNames v18
    obtain ⟨v19, e⟩ : ∃ y, y = v18 := ⟨_, rfl⟩
    rw [← e]
    clear e v18
    extract_lets +onlyGivenNames v20
    obtain ⟨v21, e⟩ : ∃ y, y = v20 := ⟨_, rfl⟩
    rw [← e]
    clear e v20
    extract_lets +onlyGivenNames v22
    obtain ⟨v23, e⟩ : ∃ y, y = v22 := ⟨_, rfl⟩
    rw [← e]
    clear e v22
    refine State.setPg_kept ?_
    exact h

theorem State.cancelLooks_kept {a s y1} (h : Kept a s) : Kept a (State.cancelLooks s y1) := by
  unfold State.cancelLooks
  refine Kept.foldl ?_ ?_
  · exact h
  · intro t1 x2 h3
    split
    · rename_i z4 z5 z6
      refine Kept.ite ?_ ?_
      · refine State.setF_kept ?_
        refine State.setF_kept ?_
        refine State.setPg_kept ?_
        exact h3
      · exact h3
    · rename_i z7 z8
      exact h3

theorem State.windowTo_kept {a s y1 y2 y3} (h : Kept a s) : Kept a (State.windowTo s y1 y2 y3) := by
  induction y3 generalizing s y1 y2
  · unfold State.windowTo
    exact h
  · rename_i w1 w2
    unfold State.windowTo
    extract_lets +onlyGivenNames v3
    obtain ⟨v4, e⟩ : ∃ y, y = v3 := ⟨_, rfl⟩
    rw [← e]
    clear e v3
    refine Kept.ite ?_ ?_
    · exact h
    · extract_lets +onlyGivenNames v5
      obtain ⟨v7, e, h6⟩ : ∃ y, y = v5 ∧ Kept a (y) := ⟨_, rfl, by
        refine State.setF_kept ?_
        refine State.windowDone_kept ?_
        exact h
        ⟩
      rw [← e]
      clear e v5
      apply w2
      refine State.setPg_kept ?_
      exact h6

theorem State.leaveWindows_kept {a s y1} (h : Kept a s) : Kept a (State.leaveWindows s y1) := by
  unfold State.leaveWindows
  refine Kept.ite ?_ ?_
  · exact h
  · split
    · rename_i z1 z2 z3
      refine State.windowTo_kept ?_
      exact h
    · rename_i z4 z5
      refine State.windowTo_kept ?_
      exact h

theorem State.uncount_kept {a s y1} (h : Kept a s) : Kept a (State.uncount s y1) := by
  unfold State.uncount
  extract_lets +onlyGivenNames v1
  obtain ⟨v2, e⟩ : ∃ y, y = v1 := ⟨_, rfl⟩
  rw [← e]
  clear e v1
  refine Kept.ite ?_ ?_
  · refine State.setPg_kept ?_
    exact h
  · exact h

theorem State.suspend_kept {a s y1 y2 y3 y4 y5 y6} (h : Kept a s) : Kept a (State.suspend s y1 y2 y3 y4 y5 y6) := by
  unfold State.suspend
  extract_lets +onlyGivenNames v1
  obtain ⟨v3, e, h2⟩ : ∃ y, y = v1 ∧ Kept a (y) := ⟨_, rfl, by
    refine State.leaveWindows_kept ?_
    exact h
    ⟩
  rw [← e]
  clear e v1
  extract_lets +onlyGivenNames v4
  obtain ⟨v5, e⟩ : ∃ y, y = v4 := ⟨_, rfl⟩
  rw [← e]
  clear e v4
  extract_lets +onlyGivenNames v6
  obtain ⟨v7, e⟩ : ∃ y, y = v6 := ⟨_, rfl⟩
  rw [← e]
  clear e v6
  extract_lets +onlyGivenNames v8
  obtain ⟨v10, e, h9⟩ : ∃ y, y = v8 ∧ Kept a (y) := ⟨_, rfl, by
    refine State.setSets_kept ?_
    exact h2
    ⟩
  rw [← e]
  clear e v8
  extract_lets +onlyGivenNames v11
  obtain ⟨v13, e, h12⟩ : ∃ y, y = v11 ∧ Kept a (y) := ⟨_, rfl, by
    refine State.cancelLooks_kept ?_
    exact h9
    ⟩
  rw [← e]
  clear e v11
  extract_lets +onlyGivenNames v14
  obtain ⟨v15, e⟩ : ∃ y, y = v14 := ⟨_, rfl⟩
  rw [← e]
  clear e v14
  extract_lets +onlyGivenNames v16
  obtain ⟨v17, e⟩ : ∃ y, y = v16 := ⟨_, rfl⟩
  rw [← e]
  clear e v16
  extract_lets +onlyGivenNames v18
  obtain ⟨v20, e, h19⟩ : ∃ y, y = v18 ∧ Kept a (y) := ⟨_, rfl, by
    refine State.setPg_kept ?_
    exact h12
    ⟩
  rw [← e]
  clear e v18
  extract_lets +onlyGivenNames v21
  obtain ⟨v23, e, h22⟩ : ∃ y, y = v21 ∧ Kept a (y) := ⟨_, rfl, by
    refine State.setF_kept ?_
    refine State.setF_kept ?_
    refine State.setF_kept ?_
    exact h19
    ⟩
  rw [← e]
  clear e v21
  extract_lets +onlyGivenNames v24
  obtain ⟨v26, e, h25⟩ : ∃ y, y = v24 ∧ Kept a (y) := ⟨_, rfl, by
    refine State.setPgState_kept ?_
    refine State.setF_kept ?_
    exact h22
    ⟩
  rw [← e]
  clear e v24
  extract_lets +onlyGivenNames v27
  obtain ⟨v29, e, h28⟩ : ∃ y, y = v27 ∧ Kept a (y) := ⟨_, rfl, by
    refine State.record7_kept ?_
    exact h25
    ⟩
  rw [← e]
  clear e v27
  refine State.send_kept ?_
  exact h28

theorem State.suspendNow_kept {a s y1 y2 y3} (h : Kept a s) : Kept a (State.suspendNow s y1 y2 y3) := by
  unfold State.suspendNow
  refine Kept.ite ?_ ?_
  · exact h
  · extract_lets +onlyGivenNames v1
    obtain ⟨v2, e⟩ : ∃ y, y = v1 := ⟨_, rfl⟩
    rw [← e]
    clear e v1
    extract_lets +onlyGivenNames v3
    obtain ⟨v4, e⟩ : ∃ y, y = v3 := ⟨_, rfl⟩
    rw [← e]
    clear e v3
    extract_lets +onlyGivenNames v5
    obtain ⟨v6, e⟩ : ∃ y, y = v5 := ⟨_, rfl⟩
    rw [← e]
    clear e v5
    split
    · rename_i z7 z8 z9
      extract_lets +onlyGivenNames v10
      obtain ⟨v11, e⟩ : ∃ y, y = v10 := ⟨_, rfl⟩
      rw [← e]
      clear e v10
      extract_lets +onlyGivenNames v12
      obtain ⟨v13, e⟩ : ∃ y, y = v12 := ⟨_, rfl⟩
      rw [← e]
      clear e v12
      extract_lets +onlyGivenNames v14
      obtain ⟨v16, e, h15⟩ : ∃ y, y = v14 ∧ Kept a (y) := ⟨_, rfl, by
        refine Kept.ite ?_ ?_
        · refine State.closePart_kept ?_
          refine State.gateOff_kept ?_
          exact h
        · exact h
        ⟩
      rw [← e]
      clear e v14
      refine State.suspend_kept ?_
      refine State.stopRamp_kept ?_
      refine State.uncount_kept ?_
      exact h15
    · rename_i z17 z18
      refine State.suspend_kept ?_
      refine State.stopRamp_kept ?_
      refine State.uncount_kept ?_
      exact h

theorem State.suspendAll_kept {a s y1} (h : Kept a s) : Kept a (State.suspendAll s y1) := by
  unfold State.suspendAll
  refine Kept.foldl ?_ ?_
  · exact h
  · intro t1 x2 h3
    refine State.suspendNow_kept ?_
    exact h3

theorem State.pgRefused_kept {a s y1} (h : Kept a s) : Kept a (State.pgRefused s y1) := by
  unfold State.pgRefused
  refine State.info_kept ?_
  refine State.setF_kept ?_
  exact h

end Sys2Proof.Machine
end

