-- ==== Sys2Proof/Laws/KeptPlan.lean ====
section
/-! SUPPORT. Every operation of Machine/Plan.lean keeps the queue and the canonical tables (`Kept`). -/

set_option linter.unusedVariables false

namespace Sys2Proof.Machine

open Sys2Proof

theorem State.markError_kept {a s y1 y2} (h : Kept a s) : Kept a (State.markError s y1 y2) := by
  unfold State.markError
  extract_lets +onlyGivenNames v1
  obtain ⟨v2, e⟩ : ∃ y, y = v1 := ⟨_, rfl⟩
  rw [← e]
  clear e v1
  extract_lets +onlyGivenNames v3
  obtain ⟨v4, e⟩ : ∃ y, y = v3 := ⟨_, rfl⟩
  rw [← e]
  clear e v3
  split
  · rename_i z5 z6
    exact h
  · rename_i z7 z8 z9
    refine State.setPg_kept ?_
    exact h

theorem State.closeVec_kept {a s y1} (h : Kept a s) : Kept a (State.closeVec s y1) := by
  unfold State.closeVec
  extract_lets +onlyGivenNames v1
  obtain ⟨v2, e⟩ : ∃ y, y = v1 := ⟨_, rfl⟩
  rw [← e]
  clear e v1
  split
  · rename_i z3 z4
    exact h
  · rename_i z5 z6 z7
    extract_lets +onlyGivenNames v8
    obtain ⟨v9, e⟩ : ∃ y, y = v8 := ⟨_, rfl⟩
    rw [← e]
    clear e v8
    refine Kept.ite ?_ ?_
    · refine State.markError_kept ?_
      exact h
    · refine State.setPg_kept ?_
      exact h

theorem State.planError_kept {a s y1 y2 y3} (h : Kept a s) : Kept a (State.planError s y1 y2 y3) := by
  unfold State.planError
  extract_lets +onlyGivenNames v1
  obtain ⟨v3, e, h2⟩ : ∃ y, y = v1 ∧ Kept a (y) := ⟨_, rfl, by
    refine State.closeVec_kept ?_
    exact h
    ⟩
  rw [← e]
  clear e v1
  extract_lets +onlyGivenNames v4
  obtain ⟨v5, e⟩ : ∃ y, y = v4 := ⟨_, rfl⟩
  rw [← e]
  clear e v4
  extract_lets +onlyGivenNames v6
  obtain ⟨v7, e⟩ : ∃ y, y = v6 := ⟨_, rfl⟩
  rw [← e]
  clear e v6
  refine State.setPg_kept ?_
  exact h2

theorem State.freeJumps_kept {a s y1} (h : Kept a s) : Kept a (State.freeJumps s y1) := by
  unfold State.freeJumps
  extract_lets +onlyGivenNames v1
  obtain ⟨v2, e⟩ : ∃ y, y = v1 := ⟨_, rfl⟩
  rw [← e]
  clear e v1
  refine State.setPg_kept ?_
  exact h

theorem State.addItem_kept {a s y1 y2 y3 y4 y5 y6 y7 y8 y9} (h : Kept a s) : Kept a (State.addItem s y1 y2 y3 y4 y5 y6 y7 y8 y9) := by
  unfold State.addItem
  extract_lets +onlyGivenNames v1
  obtain ⟨v2, e⟩ : ∃ y, y = v1 := ⟨_, rfl⟩
  rw [← e]
  clear e v1
  refine State.setPg_kept ?_
  exact h

theorem State.planJump_kept {a s y1 y2 y3 y4} (h : Kept a s) : Kept a (State.planJump s y1 y2 y3 y4) := by
  unfold State.planJump
  extract_lets +onlyGivenNames v1
  obtain ⟨v3, e, h2⟩ : ∃ y, y = v1 ∧ Kept a (y) := ⟨_, rfl, by
    refine State.freeJumps_kept ?_
    refine State.closeVec_kept ?_
    exact h
    ⟩
  rw [← e]
  clear e v1
  extract_lets +onlyGivenNames v4
  obtain ⟨v5, e⟩ : ∃ y, y = v4 := ⟨_, rfl⟩
  rw [← e]
  clear e v4
  refine Kept.ite ?_ ?_
  · refine State.planError_kept ?_
    exact h2
  · extract_lets +onlyGivenNames v6
    obtain ⟨v7, e⟩ : ∃ y, y = v6 := ⟨_, rfl⟩
    rw [← e]
    clear e v6
    extract_lets +onlyGivenNames v8
    obtain ⟨v10, e, h9⟩ : ∃ y, y = v8 ∧ Kept a (y) := ⟨_, rfl, by
      refine Kept.ite ?_ ?_
      · refine State.incF_kept ?_
        refine State.setF_kept ?_
        exact h2
      · exact h2
      ⟩
    rw [← e]
    clear e v8
    extract_lets +onlyGivenNames v11
    obtain ⟨v12, e⟩ : ∃ y, y = v11 := ⟨_, rfl⟩
    rw [← e]
    clear e v11
    extract_lets +onlyGivenNames v13
    obtain ⟨v14, e⟩ : ∃ y, y = v13 := ⟨_, rfl⟩
    rw [← e]
    clear e v13
    extract_lets +onlyGivenNames v15
    obtain ⟨v16, e⟩ : ∃ y, y = v15 := ⟨_, rfl⟩
    rw [← e]
    clear e v15
    extract_lets +onlyGivenNames v17
    obtain ⟨v19, e, h18⟩ : ∃ y, y = v17 ∧ Kept a (y) := ⟨_, rfl, by
      refine State.setPg_kept ?_
      exact h9
      ⟩
    rw [← e]
    clear e v17
    refine State.addItem_kept ?_
    exact h18

theorem State.planCorner_kept {a y1 y2 y3 y4 s} (h : Kept a s) : Kept a (State.planCorner y1 y2 y3 y4 s) := by
  unfold State.planCorner
  extract_lets +onlyGivenNames v1
  obtain ⟨v2, e⟩ : ∃ y, y = v1 := ⟨_, rfl⟩
  rw [← e]
  clear e v1
  extract_lets +onlyGivenNames v3
  obtain ⟨v4, e⟩ : ∃ y, y = v3 := ⟨_, rfl⟩
  rw [← e]
  clear e v3
  extract_lets +onlyGivenNames v5
  obtain ⟨v6, e⟩ : ∃ y, y = v5 := ⟨_, rfl⟩
  rw [← e]
  clear e v5
  refine Kept.ite ?_ ?_
  · exact h
  · refine Kept.ite ?_ ?_
    · refine State.planError_kept ?_
      exact h
    · extract_lets +onlyGivenNames v7
      obtain ⟨v8, e⟩ : ∃ y, y = v7 := ⟨_, rfl⟩
      rw [← e]
      clear e v7
      extract_lets +onlyGivenNames v9
      obtain ⟨v10, e⟩ : ∃ y, y = v9 := ⟨_, rfl⟩
      rw [← e]
      clear e v9
      extract_lets +onlyGivenNames v11
      obtain ⟨v12, e⟩ : ∃ y, y = v11 := ⟨_, rfl⟩
      rw [← e]
      clear e v11
      extract_lets +onlyGivenNames v13
      obtain ⟨v14, e⟩ : ∃ y, y = v13 := ⟨_, rfl⟩
      rw [← e]
      clear e v13
      extract_lets +onlyGivenNames v15
      obtain ⟨v17, e, h16⟩ : ∃ y, y = v15 ∧ Kept a (y) := ⟨_, rfl, by
        refine State.setPg_kept ?_
        exact h
        ⟩
      rw [← e]
      clear e v15
      refine State.addItem_kept ?_
      exact h16

theorem State.planResume_kept {a s y1 y2 y3 y4 y5 y6} (h : Kept a s) : Kept a (State.planResume s y1 y2 y3 y4 y5 y6) := by
  unfold State.planResume
  extract_lets +onlyGivenNames v1
  obtain ⟨v2, e⟩ : ∃ y, y = v1 := ⟨_, rfl⟩
  rw [← e]
  clear e v1
  extract_lets +onlyGivenNames v3
  obtain ⟨v4, e⟩ : ∃ y, y = v3 := ⟨_, rfl⟩
  rw [← e]
  clear e v3
  extract_lets +onlyGivenNames v5
  obtain ⟨v6, e⟩ : ∃ y, y = v5 := ⟨_, rfl⟩
  rw [← e]
  clear e v5
  extract_lets +onlyGivenNames v7
  obtain ⟨v8, e⟩ : ∃ y, y = v7 := ⟨_, rfl⟩
  rw [← e]
  clear e v7
  extract_lets +onlyGivenNames v9
  obtain ⟨v10, e⟩ : ∃ y, y = v9 := ⟨_, rfl⟩
  rw [← e]
  clear e v9
  refine Kept.ite ?_ ?_
  · refine State.planError_kept ?_
    exact h
  · extract_lets +onlyGivenNames v11
    obtain ⟨v12, e⟩ : ∃ y, y = v11 := ⟨_, rfl⟩
    rw [← e]
    clear e v11
    extract_lets +onlyGivenNames v13
    obtain ⟨v14, e⟩ : ∃ y, y = v13 := ⟨_, rfl⟩
    rw [← e]
    clear e v13
    extract_lets +onlyGivenNames v15
    obtain ⟨v16, e⟩ : ∃ y, y = v15 := ⟨_, rfl⟩
    rw [← e]
    clear e v15
    extract_lets +onlyGivenNames v17
    obtain ⟨v18, e⟩ : ∃ y, y = v17 := ⟨_, rfl⟩
    rw [← e]
    clear e v17
    extract_lets +onlyGivenNames v19
    obtain ⟨v20, e⟩ : ∃ y, y = v19 := ⟨_, rfl⟩
    rw [← e]
    clear e v19
    extract_lets +onlyGivenNames v21
    obtain ⟨v22, e⟩ : ∃ y, y = v21 := ⟨_, rfl⟩
    rw [← e]
    clear e v21
    extract_lets +onlyGivenNames v23
    obtain ⟨v25, e, h24⟩ : ∃ y, y = v23 ∧ Kept a (y) := ⟨_, rfl, by
      refine State.setPg_kept ?_
      exact h
      ⟩
    rw [← e]
    clear e v23
    refine State.addItem_kept ?_
    exact h24

theorem State.planVector_kept {a s y1 y2 y3 y4} (h : Kept a s) : Kept a (State.planVector s y1 y2 y3 y4) := by
  unfold State.planVector
  extract_lets +onlyGivenNames v1
  obtain ⟨v2, e⟩ : ∃ y, y = v1 := ⟨_, rfl⟩
  rw [← e]
  clear e v1
  extract_lets +onlyGivenNames v3
  obtain ⟨v4, e⟩ : ∃ y, y = v3 := ⟨_, rfl⟩
  rw [← e]
  clear e v3
  extract_lets +onlyGivenNames v5
  obtain ⟨v6, e⟩ : ∃ y, y = v5 := ⟨_, rfl⟩
  rw [← e]
  clear e v5
  extract_lets +onlyGivenNames v7
  obtain ⟨v8, e⟩ : ∃ y, y = v7 := ⟨_, rfl⟩
  rw [← e]
  clear e v7
  extract_lets +onlyGivenNames v9
  obtain ⟨v10, e⟩ : ∃ y, y = v9 := ⟨_, rfl⟩
  rw [← e]
  clear e v9
  extract_lets +onlyGivenNames v11
  obtain ⟨v12, e⟩ : ∃ y, y = v11 := ⟨_, rfl⟩
  rw [← e]
  clear e v11
  extract_lets +onlyGivenNames v13
  obtain ⟨v14, e⟩ : ∃ y, y = v13 := ⟨_, rfl⟩
  rw [← e]
  clear e v13
  extract_lets +onlyGivenNames v15
  obtain ⟨v16, e⟩ : ∃ y, y = v15 := ⟨_, rfl⟩
  rw [← e]
  clear e v15
  refine Kept.ite ?_ ?_
  · refine State.planError_kept ?_
    exact h
  · refine Kept.ite ?_ ?_
    · refine State.addItem_kept ?_
      exact h
    · split
      · rename_i z17 z18 z19 z20 z21 z22
        refine State.planResume_kept ?_
        exact h
      · rename_i z23 z24 z25
        split
        · rename_i z26 z27 z28
          refine Kept.ite ?_ ?_
          · extract_lets +onlyGivenNames v29
            obtain ⟨v30, e⟩ : ∃ y, y = v29 := ⟨_, rfl⟩
            rw [← e]
            clear e v29
            extract_lets +onlyGivenNames v31
            obtain ⟨v32, e⟩ : ∃ y, y = v31 := ⟨_, rfl⟩
            rw [← e]
            clear e v31
            extract_lets +onlyGivenNames v33
            obtain ⟨v35, e, h34⟩ : ∃ y, y = v33 ∧ Kept a (y) := ⟨_, rfl, by
              refine State.setPg_kept ?_
              exact h
              ⟩
            rw [← e]
            clear e v33
            refine State.addItem_kept ?_
            exact h34
          · refine State.planCorner_kept ?_
            refine State.closeVec_kept ?_
            exact h
        · rename_i z36 z37
          refine State.planCorner_kept ?_
          exact h

theorem State.planOp_kept {a s y1 y2 y3 y4 y5} (h : Kept a s) : Kept a (State.planOp s y1 y2 y3 y4 y5) := by
  unfold State.planOp
  extract_lets +onlyGivenNames v1
  obtain ⟨v2, e⟩ : ∃ y, y = v1 := ⟨_, rfl⟩
  rw [← e]
  clear e v1
  extract_lets +onlyGivenNames v3
  obtain ⟨v4, e⟩ : ∃ y, y = v3 := ⟨_, rfl⟩
  rw [← e]
  clear e v3
  extract_lets +onlyGivenNames v5
  obtain ⟨v6, e⟩ : ∃ y, y = v5 := ⟨_, rfl⟩
  rw [← e]
  clear e v5
  split
  · rename_i z7
    refine State.planError_kept ?_
    exact h
  · rename_i z8 z9 z10 z11 z12
    refine State.planJump_kept ?_
    exact h
  · rename_i z13 z14 z15
    refine State.planJump_kept ?_
    exact h
  · rename_i z16 z17 z18 z19 z20
    refine State.planVector_kept ?_
    exact h
  · rename_i z21 z22 z23
    refine State.planVector_kept ?_
    exact h
  · rename_i z24 z25 z26 z27
    extract_lets +onlyGivenNames v28
    obtain ⟨v29, e⟩ : ∃ y, y = v28 := ⟨_, rfl⟩
    rw [← e]
    clear e v28
    extract_lets +onlyGivenNames v30
    obtain ⟨v31, e⟩ : ∃ y, y = v30 := ⟨_, rfl⟩
    rw [← e]
    clear e v30
    refine Kept.ite ?_ ?_
    · refine State.planError_kept ?_
      exact h
    · refine State.planVector_kept ?_
      exact h
  · rename_i z32 z33 z34
    extract_lets +onlyGivenNames v35
    obtain ⟨v36, e⟩ : ∃ y, y = v35 := ⟨_, rfl⟩
    rw [← e]
    clear e v35
    refine Kept.ite ?_ ?_
    · refine State.planError_kept ?_
      exact h
    · refine State.addItem_kept ?_
      exact h
  · rename_i z37 z38
    extract_lets +onlyGivenNames v39
    obtain ⟨v41, e, h40⟩ : ∃ y, y = v39 ∧ Kept a (y) := ⟨_, rfl, by
      refine State.freeJumps_kept ?_
      refine State.closeVec_kept ?_
      exact h
      ⟩
    rw [← e]
    clear e v39
    extract_lets +onlyGivenNames v42
    obtain ⟨v43, e⟩ : ∃ y, y = v42 := ⟨_, rfl⟩
    rw [← e]
    clear e v42
    refine Kept.ite ?_ ?_
    · exact h40
    · extract_lets +onlyGivenNames v44
      obtain ⟨v45, e⟩ : ∃ y, y = v44 := ⟨_, rfl⟩
      rw [← e]
      clear e v44
      extract_lets +onlyGivenNames v46
      obtain ⟨v47, e⟩ : ∃ y, y = v46 := ⟨_, rfl⟩
      rw [← e]
      clear e v46
      extract_lets +onlyGivenNames v48
      obtain ⟨v50, e, h49⟩ : ∃ y, y = v48 ∧ Kept a (y) := ⟨_, rfl, by
        refine State.setPg_kept ?_
        exact h40
        ⟩
      rw [← e]
      clear e v48
      refine State.addItem_kept ?_
      exact h49
  · rename_i z51 z52
    extract_lets +onlyGivenNames v53
    obtain ⟨v55, e, h54⟩ : ∃ y, y = v53 ∧ Kept a (y) := ⟨_, rfl, by
      refine State.freeJumps_kept ?_
      refine State.closeVec_kept ?_
      exact h
      ⟩
    rw [← e]
    clear e v53
    extract_lets +onlyGivenNames v56
    obtain ⟨v57, e⟩ : ∃ y, y = v56 := ⟨_, rfl⟩
    rw [← e]
    clear e v56
    refine Kept.ite ?_ ?_
    · exact h54
    · refine State.addItem_kept ?_
      exact h54
  · rename_i z58
    refine Kept.ite ?_ ?_
    · refine State.planError_kept ?_
      exact h
    · extract_lets +onlyGivenNames v59
      obtain ⟨v61, e, h60⟩ : ∃ y, y = v59 ∧ Kept a (y) := ⟨_, rfl, by
        refine State.freeJumps_kept ?_
        refine State.closeVec_kept ?_
        exact h
        ⟩
      rw [← e]
      clear e v59
      extract_lets +onlyGivenNames v62
      obtain ⟨v63, e⟩ : ∃ y, y = v62 := ⟨_, rfl⟩
      rw [← e]
      clear e v62
      refine Kept.ite ?_ ?_
      · exact h60
      · extract_lets +onlyGivenNames v64
        obtain ⟨v65, e⟩ : ∃ y, y = v64 := ⟨_, rfl⟩
        rw [← e]
        clear e v64
        extract_lets +onlyGivenNames v66
        obtain ⟨v67, e⟩ : ∃ y, y = v66 := ⟨_, rfl⟩
        rw [← e]
        clear e v66
        extract_lets +onlyGivenNames v68
        obtain ⟨v69, e⟩ : ∃ y, y = v68 := ⟨_, rfl⟩
        rw [← e]
        clear e v68
        extract_lets +onlyGivenNames v70
        obtain ⟨v72, e, h71⟩ : ∃ y, y = v70 ∧ Kept a (y) := ⟨_, rfl, by
          refine State.setPg_kept ?_
          exact h60
          ⟩
        rw [← e]
        clear e v70
        refine State.addItem_kept ?_
        exact h71
  · rename_i z73 z74 z75
    extract_lets +onlyGivenNames v76
    obtain ⟨v78, e, h77⟩ : ∃ y, y = v76 ∧ Kept a (y) := ⟨_, rfl, by
      refine Kept.ite ?_ ?_
      · refine State.freeJumps_kept ?_
        refine State.closeVec_kept ?_
        exact h
      · exact h
      ⟩
    rw [← e]
    clear e v76
    extract_lets +onlyGivenNames v79
    obtain ⟨v80, e⟩ : ∃ y, y = v79 := ⟨_, rfl⟩
    rw [← e]
    clear e v79
    refine Kept.ite ?_ ?_
    · exact h77
    · refine State.addItem_kept ?_
      exact h77
  · rename_i z81 z82 z83 z84 z85 z86 z87 z88 z89 z90 z91 z92
    refine State.addItem_kept ?_
    exact h

theorem planStep_kept {a y1 s} (h : Kept a s) : Kept a (planStep y1 s) := by
  unfold planStep
  extract_lets +onlyGivenNames v1
  obtain ⟨v2, e⟩ : ∃ y, y = v1 := ⟨_, rfl⟩
  rw [← e]
  clear e v1
  extract_lets +onlyGivenNames v3
  obtain ⟨v4, e⟩ : ∃ y, y = v3 := ⟨_, rfl⟩
  rw [← e]
  clear e v3
  extract_lets +onlyGivenNames v5
  obtain ⟨v6, e⟩ : ∃ y, y = v5 := ⟨_, rfl⟩
  rw [← e]
  clear e v5
  extract_lets +onlyGivenNames v7
  obtain ⟨v8, e⟩ : ∃ y, y = v7 := ⟨_, rfl⟩
  rw [← e]
  clear e v7
  extract_lets +onlyGivenNames v9
  obtain ⟨v11, e, h10⟩ : ∃ y, y = v9 ∧ Kept a (y) := ⟨_, rfl, by
    refine State.setPg_kept ?_
    exact h
    ⟩
  rw [← e]
  clear e v9
  refine Kept.ite ?_ ?_
  · exact h10
  · refine Kept.ite ?_ ?_
    · split
      · rename_i z12 z13 z14
        refine Kept.ite ?_ ?_
        · refine State.closeVec_kept ?_
          exact h10
        · exact h10
      · rename_i z15 z16
        exact h10
    · refine Kept.ite ?_ ?_
      · refine State.planError_kept ?_
        exact h10
      · refine Kept.ite ?_ ?_
        · refine State.planError_kept ?_
          exact h10
        · extract_lets +onlyGivenNames v17
          obtain ⟨v18, e⟩ : ∃ y, y = v17 := ⟨_, rfl⟩
          rw [← e]
          clear e v17
          refine Kept.ite ?_ ?_
          · refine Kept.ite ?_ ?_
            · refine State.planError_kept ?_
              exact h10
            · refine State.setPg_kept ?_
              refine State.setF_kept ?_
              exact h10
          · extract_lets +onlyGivenNames v19
            obtain ⟨v20, e⟩ : ∃ y, y = v19 := ⟨_, rfl⟩
            rw [← e]
            clear e v19
            extract_lets +onlyGivenNames v21
            obtain ⟨v22, e⟩ : ∃ y, y = v21 := ⟨_, rfl⟩
            rw [← e]
            clear e v21
            extract_lets +onlyGivenNames v23
            obtain ⟨v24, e⟩ : ∃ y, y = v23 := ⟨_, rfl⟩
            rw [← e]
            clear e v23
            refine Kept.ite ?_ ?_
            · refine State.planError_kept ?_
              exact h10
            · extract_lets +onlyGivenNames v25
              obtain ⟨v26, e⟩ : ∃ y, y = v25 := ⟨_, rfl⟩
              rw [← e]
              clear e v25
              extract_lets +onlyGivenNames v27
              obtain ⟨v29, e, h28⟩ : ∃ y, y = v27 ∧ Kept a (y) := ⟨_, rfl, by
                refine State.setPg_kept ?_
                exact h10
                ⟩
              rw [← e]
              clear e v27
              refine State.planOp_kept ?_
              exact h28

theorem State.trace_kept {a s y1 y2} (h : Kept a s) : Kept a (State.trace s y1 y2) := by
  unfold State.trace
  refine Kept.ite ?_ ?_
  · extract_lets +onlyGivenNames v1
    obtain ⟨v2, e⟩ : ∃ y, y = v1 := ⟨_, rfl⟩
    rw [← e]
    clear e v1
    extract_lets +onlyGivenNames v3
    obtain ⟨v4, e⟩ : ∃ y, y = v3 := ⟨_, rfl⟩
    rw [← e]
    clear e v3
    extract_lets +onlyGivenNames v5
    obtain ⟨v7, e, h6⟩ : ∃ y, y = v5 ∧ Kept a (y) := ⟨_, rfl, by
      refine State.sts_kept ?_
      exact h
      ⟩
    rw [← e]
    clear e v5
    refine State.setF_kept ?_
    exact h6
  · exact h

theorem segmentCommit_kept {a y1 s} (h : Kept a s) : Kept a (segmentCommit y1 s) := by
  unfold segmentCommit
  extract_lets +onlyGivenNames v1
  obtain ⟨v2, e⟩ : ∃ y, y = v1 := ⟨_, rfl⟩
  rw [← e]
  clear e v1
  split
  · rename_i z3 z4
    exact h
  · rename_i z5 z6 z7
    refine Kept.ite ?_ ?_
    · extract_lets +onlyGivenNames v8
      obtain ⟨v10, e, h9⟩ : ∃ y, y = v8 ∧ Kept a (y) := ⟨_, rfl, by
        refine State.reach_kept ?_
        exact h
        ⟩
      rw [← e]
      clear e v8
      extract_lets +onlyGivenNames v11
      obtain ⟨v12, e⟩ : ∃ y, y = v11 := ⟨_, rfl⟩
      rw [← e]
      clear e v11
      extract_lets +onlyGivenNames v13
      obtain ⟨v14, e⟩ : ∃ y, y = v13 := ⟨_, rfl⟩
      rw [← e]
      clear e v13
      refine State.trace_kept ?_
      refine State.setPg_kept ?_
      exact h9
    · refine Kept.ite ?_ ?_
      · refine State.info_kept ?_
        refine State.setF_kept ?_
        refine State.setPg_kept ?_
        exact h
      · exact h

end Sys2Proof.Machine
end

