-- ==== Sys2Proof/Laws/KeptPath.lean ====
section
/-! SUPPORT. Every operation of Machine/Path.lean keeps the queue and the canonical tables (`Kept`). -/

set_option linter.unusedVariables false

namespace Sys2Proof.Machine

open Sys2Proof

theorem State.exposures_kept {a s y1 y2 y3} (h : Kept a s) : Kept a (State.exposures s y1 y2 y3) := by
  induction y3 generalizing s y1 y2
  · unfold State.exposures
    exact h
  · rename_i w1 w2
    unfold State.exposures
    extract_lets +onlyGivenNames v3
    obtain ⟨v4, e⟩ : ∃ y, y = v3 := ⟨_, rfl⟩
    rw [← e]
    clear e v3
    split
    · rename_i z5 z6
      exact h
    · rename_i z7 z8 z9
      refine Kept.ite ?_ ?_
      · exact h
      · extract_lets +onlyGivenNames v10
        obtain ⟨v11, e⟩ : ∃ y, y = v10 := ⟨_, rfl⟩
        rw [← e]
        clear e v10
        extract_lets +onlyGivenNames v12
        obtain ⟨v13, e⟩ : ∃ y, y = v12 := ⟨_, rfl⟩
        rw [← e]
        clear e v12
        extract_lets +onlyGivenNames v14
        obtain ⟨v16, e, h15⟩ : ∃ y, y = v14 ∧ Kept a (y) := ⟨_, rfl, by
          refine State.setPg_kept ?_
          exact h
          ⟩
        rw [← e]
        clear e v14
        apply w2
        refine Kept.ite ?_ ?_
        · exact h15
        · refine State.send_kept ?_
          exact h15

theorem State.startTrig_kept {a s y1 y2} (h : Kept a s) : Kept a (State.startTrig s y1 y2) := by
  unfold State.startTrig
  extract_lets +onlyGivenNames v1
  obtain ⟨v2, e⟩ : ∃ y, y = v1 := ⟨_, rfl⟩
  rw [← e]
  clear e v1
  split
  · rename_i z3 z4 z5
    refine Kept.ite ?_ ?_
    · refine State.setPg_kept ?_
      exact h
    · exact h
  · rename_i z6 z7
    refine State.setPg_kept ?_
    exact h

theorem State.sendSet_kept {a s y1 y2 y3} (h : Kept a s) : Kept a (State.sendSet s y1 y2 y3) := by
  unfold State.sendSet
  refine Kept.foldl ?_ ?_
  · exact h
  · intro t1 x2 h3
    refine State.send_kept ?_
    exact h3

theorem State.setPoint_kept {a s t : State} {y1 y2 y3} (h : Kept a s) (e : State.setPoint s y1 y2 y3 = some t) : Kept a t := by
  unfold State.setPoint at e
  split at e
  · cases e
  · next c _ =>
    have h1 : ∀ l q m x y z, Kept a ((((s.sendSet y1 y2 l).setPg m q).setFi PG.SPXY.X y1 x).setFi PG.SPXY.Y y1 y |>.setFi PG.SPZ.Z y1 z) :=
      fun _ _ _ _ _ _ => State.setFi_kept (State.setFi_kept (State.setFi_kept (State.setPg_kept (State.sendSet_kept h))))
    simp only [Option.some.injEq] at e
    subst e
    refine Kept.ite ?_ (h1 _ _ _ _ _ _)
    exact State.warn_kept (State.setF_kept (h1 _ _ _ _ _ _))

theorem State.mapPoisoned_kept {a s y1 y2} (h : Kept a s) : Kept a (State.mapPoisoned s y1 y2) := by
  unfold State.mapPoisoned
  extract_lets +onlyGivenNames v1
  obtain ⟨v2, e⟩ : ∃ y, y = v1 := ⟨_, rfl⟩
  rw [← e]
  clear e v1
  extract_lets +onlyGivenNames v3
  obtain ⟨v4, e⟩ : ∃ y, y = v3 := ⟨_, rfl⟩
  rw [← e]
  clear e v3
  extract_lets +onlyGivenNames v5
  obtain ⟨v7, e, h6⟩ : ∃ y, y = v5 ∧ Kept a (y) := ⟨_, rfl, by
    refine State.setPg_kept ?_
    refine State.sendSet_kept ?_
    exact h
    ⟩
  rw [← e]
  clear e v5
  refine Kept.ite ?_ ?_
  · exact h6
  · extract_lets +onlyGivenNames v8
    obtain ⟨v9, e⟩ : ∃ y, y = v8 := ⟨_, rfl⟩
    rw [← e]
    clear e v8
    refine State.suspendNow_kept ?_
    refine State.severe_kept ?_
    exact h6

theorem interpolate_kept {a y1 s} (h : Kept a s) : Kept a (interpolate y1 s) := by
  unfold interpolate
  refine Kept.ite ?_ ?_
  · exact h
  · extract_lets +onlyGivenNames v1
    obtain ⟨v2, e⟩ : ∃ y, y = v1 := ⟨_, rfl⟩
    rw [← e]
    clear e v1
    extract_lets +onlyGivenNames v3
    obtain ⟨v5, e, h4⟩ : ∃ y, y = v3 ∧ Kept a (y) := ⟨_, rfl, by
      refine State.reach_kept ?_
      exact h
      ⟩
    rw [← e]
    clear e v3
    extract_lets +onlyGivenNames v6
    obtain ⟨v7, e⟩ : ∃ y, y = v6 := ⟨_, rfl⟩
    rw [← e]
    clear e v6
    extract_lets +onlyGivenNames v8
    obtain ⟨v10, e, h9⟩ : ∃ y, y = v8 ∧ Kept a (y) := ⟨_, rfl, by
      refine Kept.ite ?_ ?_
      · refine State.exposures_kept ?_
        exact h4
      · exact h4
      ⟩
    rw [← e]
    clear e v8
    refine Kept.ite ?_ ?_
    · refine State.mapPoisoned_kept ?_
      exact h9
    · split
      · rename_i z11 z12 z13
        have h14 : Kept a z12 := State.setPoint_kept (by
            exact h9
          ) z13
        exact h14
      · rename_i z15 z16
        refine State.mapPoisoned_kept ?_
        exact h9

theorem powerTarget_kept {a y1 y2 s} (h : Kept a s) : Kept a (powerTarget y1 y2 s) := by
  unfold powerTarget
  extract_lets +onlyGivenNames v1
  obtain ⟨v2, e⟩ : ∃ y, y = v1 := ⟨_, rfl⟩
  rw [← e]
  clear e v1
  refine Kept.ite ?_ ?_
  · exact h
  · extract_lets +onlyGivenNames v3
    obtain ⟨v4, e⟩ : ∃ y, y = v3 := ⟨_, rfl⟩
    rw [← e]
    clear e v3
    refine Kept.ite ?_ ?_
    · exact h
    · extract_lets +onlyGivenNames v5
      obtain ⟨v6, e⟩ : ∃ y, y = v5 := ⟨_, rfl⟩
      rw [← e]
      clear e v5
      refine State.setPg_kept ?_
      refine State.send_kept ?_
      exact h

theorem State.gateRefused_kept {a s y1 y2} (h : Kept a s) : Kept a (State.gateRefused s y1 y2) := by
  unfold State.gateRefused
  extract_lets +onlyGivenNames v1
  obtain ⟨v2, e⟩ : ∃ y, y = v1 := ⟨_, rfl⟩
  rw [← e]
  clear e v1
  extract_lets +onlyGivenNames v3
  obtain ⟨v5, e, h4⟩ : ∃ y, y = v3 ∧ Kept a (y) := ⟨_, rfl, by
    refine State.severe_kept ?_
    refine State.setF_kept ?_
    exact h
    ⟩
  rw [← e]
  clear e v3
  refine State.suspend_kept ?_
  refine State.stopRamp_kept ?_
  refine State.uncount_kept ?_
  exact h4

theorem State.gateOn_kept {a s y1 y2 y3} (h : Kept a s) : Kept a (State.gateOn s y1 y2 y3) := by
  unfold State.gateOn
  extract_lets +onlyGivenNames v1
  obtain ⟨v2, e⟩ : ∃ y, y = v1 := ⟨_, rfl⟩
  rw [← e]
  clear e v1
  refine Kept.ite ?_ ?_
  · extract_lets +onlyGivenNames v3
    obtain ⟨v4, e⟩ : ∃ y, y = v3 := ⟨_, rfl⟩
    rw [← e]
    clear e v3
    extract_lets +onlyGivenNames v5
    obtain ⟨v7, e, h6⟩ : ∃ y, y = v5 ∧ Kept a (y) := ⟨_, rfl, by
      refine State.send_kept ?_
      exact h
      ⟩
    rw [← e]
    clear e v5
    extract_lets +onlyGivenNames v8
    obtain ⟨v9, e⟩ : ∃ y, y = v8 := ⟨_, rfl⟩
    rw [← e]
    clear e v8
    extract_lets +onlyGivenNames v10
    obtain ⟨v12, e, h11⟩ : ∃ y, y = v10 ∧ Kept a (y) := ⟨_, rfl, by
      refine State.setPg_kept ?_
      exact h6
      ⟩
    rw [← e]
    clear e v10
    refine State.exposures_kept ?_
    refine State.startTrig_kept ?_
    refine State.openPart_kept ?_
    exact h11
  · refine State.gateRefused_kept ?_
    exact h

theorem State.gateOffAt_kept {a s y1 y2 y3} (h : Kept a s) : Kept a (State.gateOffAt s y1 y2 y3) := by
  unfold State.gateOffAt
  extract_lets +onlyGivenNames v1
  obtain ⟨v2, e⟩ : ∃ y, y = v1 := ⟨_, rfl⟩
  rw [← e]
  clear e v1
  extract_lets +onlyGivenNames v3
  obtain ⟨v4, e⟩ : ∃ y, y = v3 := ⟨_, rfl⟩
  rw [← e]
  clear e v3
  extract_lets +onlyGivenNames v5
  obtain ⟨v7, e, h6⟩ : ∃ y, y = v5 ∧ Kept a (y) := ⟨_, rfl, by
    refine State.send_kept ?_
    exact h
    ⟩
  rw [← e]
  clear e v5
  extract_lets +onlyGivenNames v8
  obtain ⟨v9, e⟩ : ∃ y, y = v8 := ⟨_, rfl⟩
  rw [← e]
  clear e v8
  extract_lets +onlyGivenNames v10
  obtain ⟨v12, e, h11⟩ : ∃ y, y = v10 ∧ Kept a (y) := ⟨_, rfl, by
    refine State.setPg_kept ?_
    exact h6
    ⟩
  rw [← e]
  clear e v10
  extract_lets +onlyGivenNames v13
  obtain ⟨v15, e, h14⟩ : ∃ y, y = v13 ∧ Kept a (y) := ⟨_, rfl, by
    refine State.setF_kept ?_
    exact h11
    ⟩
  rw [← e]
  clear e v13
  extract_lets +onlyGivenNames v16
  obtain ⟨v18, e, h17⟩ : ∃ y, y = v16 ∧ Kept a (y) := ⟨_, rfl, by
    refine State.closePart_kept ?_
    exact h14
    ⟩
  rw [← e]
  clear e v16
  refine Kept.ite ?_ ?_
  · refine State.warn_kept ?_
    exact h17
  · exact h17

theorem State.gateJoint_kept {a s y1 y2 y3} (h : Kept a s) : Kept a (State.gateJoint s y1 y2 y3) := by
  unfold State.gateJoint
  extract_lets +onlyGivenNames v1
  obtain ⟨v2, e⟩ : ∃ y, y = v1 := ⟨_, rfl⟩
  rw [← e]
  clear e v1
  extract_lets +onlyGivenNames v3
  obtain ⟨v5, e, h4⟩ : ∃ y, y = v3 ∧ Kept a (y) := ⟨_, rfl, by
    refine State.setPg_kept ?_
    exact h
    ⟩
  rw [← e]
  clear e v3
  extract_lets +onlyGivenNames v6
  obtain ⟨v7, e⟩ : ∃ y, y = v6 := ⟨_, rfl⟩
  rw [← e]
  clear e v6
  extract_lets +onlyGivenNames v8
  obtain ⟨v9, e⟩ : ∃ y, y = v8 := ⟨_, rfl⟩
  rw [← e]
  clear e v8
  refine State.openPart_kept ?_
  refine State.closePart_kept ?_
  exact h4

theorem State.decideEdges_kept {a s y1 y2 y3} (h : Kept a s) : Kept a (State.decideEdges s y1 y2 y3) := by
  induction y3 generalizing s y1 y2
  · unfold State.decideEdges
    exact h
  · rename_i w1 w2
    unfold State.decideEdges
    extract_lets +onlyGivenNames v3
    obtain ⟨v4, e⟩ : ∃ y, y = v3 := ⟨_, rfl⟩
    rw [← e]
    clear e v3
    split
    · rename_i z5 z6
      exact h
    · rename_i z7 z8 z9 z10
      split
      · rename_i z11 z12
        exact h
      · rename_i z13 z14 z15
        refine Kept.ite ?_ ?_
        · exact h
        · extract_lets +onlyGivenNames v16
          obtain ⟨v18, e, h17⟩ : ∃ y, y = v16 ∧ Kept a (y) := ⟨_, rfl, by
            refine State.setPg_kept ?_
            exact h
            ⟩
          rw [← e]
          clear e v16
          refine Kept.ite ?_ ?_
          · extract_lets +onlyGivenNames v19
            obtain ⟨v21, e, h20⟩ : ∃ y, y = v19 ∧ Kept a (y) := ⟨_, rfl, by
              refine State.gateOn_kept ?_
              exact h17
              ⟩
            rw [← e]
            clear e v19
            refine Kept.ite ?_ ?_
            · apply w2
              exact h20
            · exact h20
          · refine Kept.ite ?_ ?_
            · apply w2
              refine State.gateOffAt_kept ?_
              exact h17
            · apply w2
              refine State.gateJoint_kept ?_
              exact h17

theorem State.gateError_kept {a s y1} (h : Kept a s) : Kept a (State.gateError s y1) := by
  unfold State.gateError
  extract_lets +onlyGivenNames v1
  obtain ⟨v2, e⟩ : ∃ y, y = v1 := ⟨_, rfl⟩
  rw [← e]
  clear e v1
  extract_lets +onlyGivenNames v3
  obtain ⟨v4, e⟩ : ∃ y, y = v3 := ⟨_, rfl⟩
  rw [← e]
  clear e v3
  extract_lets +onlyGivenNames v5
  obtain ⟨v7, e, h6⟩ : ∃ y, y = v5 ∧ Kept a (y) := ⟨_, rfl, by
    refine State.setPg_kept ?_
    exact h
    ⟩
  rw [← e]
  clear e v5
  refine State.suspendNow_kept ?_
  refine State.severe_kept ?_
  refine State.setF_kept ?_
  exact h6

theorem State.badSample_kept {a s y1} (h : Kept a s) : Kept a (State.badSample s y1) := by
  unfold State.badSample
  extract_lets +onlyGivenNames v1
  obtain ⟨v2, e⟩ : ∃ y, y = v1 := ⟨_, rfl⟩
  rw [← e]
  clear e v1
  refine Kept.ite ?_ ?_
  · refine State.gateError_kept ?_
    exact h
  · refine State.setPg_kept ?_
    exact h

theorem State.gateCheck_kept {a s y1 y2} (h : Kept a s) : Kept a (State.gateCheck s y1 y2) := by
  unfold State.gateCheck
  split
  · rename_i z1 z2
    exact h
  · rename_i z3 z4 z5
    extract_lets +onlyGivenNames v6
    obtain ⟨v7, e⟩ : ∃ y, y = v6 := ⟨_, rfl⟩
    rw [← e]
    clear e v6
    extract_lets +onlyGivenNames v8
    obtain ⟨v9, e⟩ : ∃ y, y = v8 := ⟨_, rfl⟩
    rw [← e]
    clear e v8
    extract_lets +onlyGivenNames v10
    obtain ⟨v11, e⟩ : ∃ y, y = v10 := ⟨_, rfl⟩
    rw [← e]
    clear e v10
    extract_lets +onlyGivenNames v12
    obtain ⟨v14, e, h13⟩ : ∃ y, y = v12 ∧ Kept a (y) := ⟨_, rfl, by
      refine State.setF_kept ?_
      exact h
      ⟩
    rw [← e]
    clear e v12
    extract_lets +onlyGivenNames v15
    obtain ⟨v17, e, h16⟩ : ∃ y, y = v15 ∧ Kept a (y) := ⟨_, rfl, by
      refine State.setPg_kept ?_
      exact h13
      ⟩
    rw [← e]
    clear e v15
    refine Kept.ite ?_ ?_
    · refine State.badSample_kept ?_
      exact h16
    · refine State.setPg_kept ?_
      exact h16

theorem State.gatePair_kept {a s y1 y2 y3} (h : Kept a s) : Kept a (State.gatePair s y1 y2 y3) := by
  unfold State.gatePair
  extract_lets +onlyGivenNames v1
  obtain ⟨v2, e⟩ : ∃ y, y = v1 := ⟨_, rfl⟩
  rw [← e]
  clear e v1
  extract_lets +onlyGivenNames v3
  obtain ⟨v4, e⟩ : ∃ y, y = v3 := ⟨_, rfl⟩
  rw [← e]
  clear e v3
  split
  · rename_i z5 z6
    refine Kept.ite ?_ ?_
    · refine State.badSample_kept ?_
      exact h
    · exact h
  · rename_i z7 z8 z9
    extract_lets +onlyGivenNames v10
    obtain ⟨v12, e, h11⟩ : ∃ y, y = v10 ∧ Kept a (y) := ⟨_, rfl, by
      refine State.setPg_kept ?_
      exact h
      ⟩
    rw [← e]
    clear e v10
    extract_lets +onlyGivenNames v13
    obtain ⟨v15, e, h14⟩ : ∃ y, y = v13 ∧ Kept a (y) := ⟨_, rfl, by
      refine State.gateCheck_kept ?_
      exact h11
      ⟩
    rw [← e]
    clear e v13
    refine Kept.ite ?_ ?_
    · refine State.decideEdges_kept ?_
      exact h14
    · exact h14

theorem gateSample_kept {a y1 y2 s} (h : Kept a s) : Kept a (gateSample y1 y2 s) := by
  unfold gateSample
  refine State.arrive_kept ?_ ?_
  · exact h
  · intro x1 h2
    split
    · rename_i z3
      exact h2
    · rename_i z4 z5 z6
      refine Kept.ite ?_ ?_
      · refine Kept.foldl ?_ ?_
        · exact h2
        · intro t7 x8 h9
          refine State.refuse_kept ?_
          exact h9
      · split
        · rename_i z10 z11
          refine State.refuse_kept ?_
          exact h2
        · rename_i z12 z13 z14 z15
          extract_lets +onlyGivenNames v16
          obtain ⟨v17, e⟩ : ∃ y, y = v16 := ⟨_, rfl⟩
          rw [← e]
          clear e v16
          extract_lets +onlyGivenNames v18
          obtain ⟨v19, e⟩ : ∃ y, y = v18 := ⟨_, rfl⟩
          rw [← e]
          clear e v18
          extract_lets +onlyGivenNames v20
          obtain ⟨v22, e, h21⟩ : ∃ y, y = v20 ∧ Kept a (y) := ⟨_, rfl, by
            refine State.setPg_kept ?_
            exact h2
            ⟩
          rw [← e]
          clear e v20
          split
          · rename_i z23 z24 z25 z26 z27 z28
            refine Kept.ite ?_ ?_
            · refine State.gatePair_kept ?_
              exact h21
            · exact h21
          · rename_i z29 z30 z31
            exact h21

theorem sampleMissing_kept {a y1 s} (h : Kept a s) : Kept a (sampleMissing y1 s) := by
  unfold sampleMissing
  extract_lets +onlyGivenNames v1
  obtain ⟨v2, e⟩ : ∃ y, y = v1 := ⟨_, rfl⟩
  rw [← e]
  clear e v1
  refine Kept.ite ?_ ?_
  · exact h
  · extract_lets +onlyGivenNames v3
    obtain ⟨v5, e, h4⟩ : ∃ y, y = v3 ∧ Kept a (y) := ⟨_, rfl, by
      refine Kept.ite ?_ ?_
      · refine State.badSample_kept ?_
        exact h
      · exact h
      ⟩
    rw [← e]
    clear e v3
    split
    · rename_i z6 z7
      exact h4
    · rename_i z8 z9 z10 z11
      extract_lets +onlyGivenNames v12
      obtain ⟨v13, e⟩ : ∃ y, y = v12 := ⟨_, rfl⟩
      rw [← e]
      clear e v12
      refine Kept.ite ?_ ?_
      · exact h4
      · refine Kept.ite ?_ ?_
        · refine State.gateRefused_kept ?_
          exact h4
        · refine Kept.ite ?_ ?_
          · extract_lets +onlyGivenNames v14
            obtain ⟨v15, e⟩ : ∃ y, y = v14 := ⟨_, rfl⟩
            rw [← e]
            clear e v14
            extract_lets +onlyGivenNames v16
            obtain ⟨v18, e, h17⟩ : ∃ y, y = v16 ∧ Kept a (y) := ⟨_, rfl, by
              refine State.setPg_kept ?_
              refine State.gateOff_kept ?_
              exact h4
              ⟩
            rw [← e]
            clear e v16
            refine State.warn_kept ?_
            refine State.closePart_kept ?_
            exact h17
          · extract_lets +onlyGivenNames v19
            obtain ⟨v20, e⟩ : ∃ y, y = v19 := ⟨_, rfl⟩
            rw [← e]
            clear e v19
            extract_lets +onlyGivenNames v21
            obtain ⟨v23, e, h22⟩ : ∃ y, y = v21 ∧ Kept a (y) := ⟨_, rfl, by
              refine State.setPg_kept ?_
              exact h4
              ⟩
            rw [← e]
            clear e v21
            extract_lets +onlyGivenNames v24
            obtain ⟨v25, e⟩ : ∃ y, y = v24 := ⟨_, rfl⟩
            rw [← e]
            clear e v24
            refine State.openPart_kept ?_
            refine State.closePart_kept ?_
            exact h22

theorem State.setTrk_kept {a s y1 y2 y3} (h : Kept a s) : Kept a (State.setTrk s y1 y2 y3) := by
  unfold State.setTrk
  extract_lets +onlyGivenNames v1
  obtain ⟨v2, e⟩ : ∃ y, y = v1 := ⟨_, rfl⟩
  rw [← e]
  clear e v1
  refine State.setPg_kept ?_
  exact h

theorem State.setTarget_kept {a s y1 y2 y3} (h : Kept a s) : Kept a (State.setTarget s y1 y2 y3) := by
  unfold State.setTarget
  extract_lets +onlyGivenNames v1
  obtain ⟨v2, e⟩ : ∃ y, y = v1 := ⟨_, rfl⟩
  rw [← e]
  clear e v1
  extract_lets +onlyGivenNames v3
  obtain ⟨v4, e⟩ : ∃ y, y = v3 := ⟨_, rfl⟩
  rw [← e]
  clear e v3
  extract_lets +onlyGivenNames v5
  obtain ⟨v7, e, h6⟩ : ∃ y, y = v5 ∧ Kept a (y) := ⟨_, rfl, by
    refine Kept.ite ?_ ?_
    · refine State.setF_kept ?_
      exact h
    · exact h
    ⟩
  rw [← e]
  clear e v5
  extract_lets +onlyGivenNames v8
  obtain ⟨v9, e⟩ : ∃ y, y = v8 := ⟨_, rfl⟩
  rw [← e]
  clear e v8
  extract_lets +onlyGivenNames v10
  obtain ⟨v11, e⟩ : ∃ y, y = v10 := ⟨_, rfl⟩
  rw [← e]
  clear e v10
  extract_lets +onlyGivenNames v12
  obtain ⟨v13, e⟩ : ∃ y, y = v12 := ⟨_, rfl⟩
  rw [← e]
  clear e v12
  extract_lets +onlyGivenNames v14
  obtain ⟨v16, e, h15⟩ : ∃ y, y = v14 ∧ Kept a (y) := ⟨_, rfl, by
    refine State.setTrk_kept ?_
    exact h6
    ⟩
  rw [← e]
  clear e v14
  refine Kept.ite ?_ ?_
  · refine State.incF_kept ?_
    refine State.setF_kept ?_
    exact h15
  · exact h15

theorem trackingAct_kept {a y1 y2 s} (h : Kept a s) : Kept a (trackingAct y1 y2 s) := by
  unfold trackingAct
  extract_lets +onlyGivenNames v1
  obtain ⟨v2, e⟩ : ∃ y, y = v1 := ⟨_, rfl⟩
  rw [← e]
  clear e v1
  extract_lets +onlyGivenNames v3
  obtain ⟨v4, e⟩ : ∃ y, y = v3 := ⟨_, rfl⟩
  rw [← e]
  clear e v3
  refine Kept.ite ?_ ?_
  · refine State.setTarget_kept ?_
    refine State.setTarget_kept ?_
    exact h
  · refine Kept.ite ?_ ?_
    · refine State.setTarget_kept ?_
      exact h
    · refine State.info_kept ?_
      refine State.setF_kept ?_
      exact h

theorem trackingTarget_kept {a y1 y2 s} (h : Kept a s) : Kept a (trackingTarget y1 y2 s) := by
  unfold trackingTarget
  refine State.arrive_kept ?_ ?_
  · exact h
  · intro x1 h2
    refine Kept.ite ?_ ?_
    · refine State.refuse_kept ?_
      exact h2
    · refine State.whenDue_kept ?_ ?_
      · exact h2
      · intro x3 h4
        refine trackingAct_kept ?_
        exact h4

theorem State.trkAdvance_kept {a s y1 y2} (h : Kept a s) : Kept a (State.trkAdvance s y1 y2) := by
  unfold State.trkAdvance
  extract_lets +onlyGivenNames v1
  obtain ⟨v2, e⟩ : ∃ y, y = v1 := ⟨_, rfl⟩
  rw [← e]
  clear e v1
  extract_lets +onlyGivenNames v3
  obtain ⟨v4, e⟩ : ∃ y, y = v3 := ⟨_, rfl⟩
  rw [← e]
  clear e v3
  extract_lets +onlyGivenNames v5
  obtain ⟨v7, e, h6⟩ : ∃ y, y = v5 ∧ Kept a (y) := ⟨_, rfl, by
    refine State.setTrk_kept ?_
    exact h
    ⟩
  rw [← e]
  clear e v5
  extract_lets +onlyGivenNames v8
  obtain ⟨v10, e, h9⟩ : ∃ y, y = v8 ∧ Kept a (y) := ⟨_, rfl, by
    refine Kept.ite ?_ ?_
    · refine State.setF_kept ?_
      exact h6
    · exact h6
    ⟩
  rw [← e]
  clear e v8
  refine Kept.ite ?_ ?_
  · refine State.warn_kept ?_
    refine State.setF_kept ?_
    exact h9
  · refine Kept.ite ?_ ?_
    · refine State.severe_kept ?_
      refine State.setF_kept ?_
      exact h9
    · exact h9

theorem trackingCycle_kept {a y1 s} (h : Kept a s) : Kept a (trackingCycle y1 s) := by
  unfold trackingCycle
  refine Kept.ite ?_ ?_
  · exact h
  · extract_lets +onlyGivenNames v1
    obtain ⟨v2, e⟩ : ∃ y, y = v1 := ⟨_, rfl⟩
    rw [← e]
    clear e v1
    extract_lets +onlyGivenNames v3
    obtain ⟨v5, e, h4⟩ : ∃ y, y = v3 ∧ Kept a (y) := ⟨_, rfl, by
      refine State.reach_kept ?_
      exact h
      ⟩
    rw [← e]
    clear e v3
    extract_lets +onlyGivenNames v6
    obtain ⟨v8, e, h7⟩ : ∃ y, y = v6 ∧ Kept a (y) := ⟨_, rfl, by
      refine State.trkAdvance_kept ?_
      refine State.trkAdvance_kept ?_
      refine State.trkAdvance_kept ?_
      exact h4
      ⟩
    rw [← e]
    clear e v6
    extract_lets +onlyGivenNames v9
    obtain ⟨v10, e⟩ : ∃ y, y = v9 := ⟨_, rfl⟩
    rw [← e]
    clear e v9
    extract_lets +onlyGivenNames v11
    obtain ⟨v12, e⟩ : ∃ y, y = v11 := ⟨_, rfl⟩
    rw [← e]
    clear e v11
    extract_lets +onlyGivenNames v13
    obtain ⟨v14, e⟩ : ∃ y, y = v13 := ⟨_, rfl⟩
    rw [← e]
    clear e v13
    extract_lets +onlyGivenNames v15
    obtain ⟨v16, e⟩ : ∃ y, y = v15 := ⟨_, rfl⟩
    rw [← e]
    clear e v15
    extract_lets +onlyGivenNames v17
    obtain ⟨v18, e⟩ : ∃ y, y = v17 := ⟨_, rfl⟩
    rw [← e]
    clear e v17
    extract_lets +onlyGivenNames v19
    obtain ⟨v20, e⟩ : ∃ y, y = v19 := ⟨_, rfl⟩
    rw [← e]
    clear e v19
    extract_lets +onlyGivenNames v21
    obtain ⟨v23, e, h22⟩ : ∃ y, y = v21 ∧ Kept a (y) := ⟨_, rfl, by
      refine State.setPg_kept ?_
      exact h7
      ⟩
    rw [← e]
    clear e v21
    extract_lets +onlyGivenNames v24
    obtain ⟨v25, e⟩ : ∃ y, y = v24 := ⟨_, rfl⟩
    rw [← e]
    clear e v24
    extract_lets +onlyGivenNames v26
    obtain ⟨v28, e, h27⟩ : ∃ y, y = v26 ∧ Kept a (y) := ⟨_, rfl, by
      refine State.setF_kept ?_
      exact h22
      ⟩
    rw [← e]
    clear e v26
    extract_lets +onlyGivenNames v29
    obtain ⟨v31, e, h30⟩ : ∃ y, y = v29 ∧ Kept a (y) := ⟨_, rfl, by
      refine State.setF_kept ?_
      exact h27
      ⟩
    rw [← e]
    clear e v29
    split
    · rename_i z32 z33 z34
      have h35 : Kept a z33 := State.setPoint_kept (by
          exact h30
        ) z34
      exact h35
    · rename_i z36 z37
      refine State.mapPoisoned_kept ?_
      exact h30

theorem trkEnCleared_kept {a y1 s} (h : Kept a s) : Kept a (trkEnCleared y1 s) := by
  unfold trkEnCleared
  extract_lets +onlyGivenNames v1
  obtain ⟨v2, e⟩ : ∃ y, y = v1 := ⟨_, rfl⟩
  rw [← e]
  clear e v1
  refine State.setPg_kept ?_
  exact h

end Sys2Proof.Machine
end

