-- ==== Sys2Proof/Laws/KeptServo.lean ====
section
/-! SUPPORT. Every operation of Machine/Servo.lean keeps the queue and the canonical tables (`Kept`). -/

set_option linter.unusedVariables false

namespace Sys2Proof.Machine

open Sys2Proof

theorem State.setLoop_kept {a s y1 y2} (h : Kept a s) : Kept a (State.setLoop s y1 y2) := by
  unfold State.setLoop
  refine State.setLoops_kept ?_ ?_
  · exact h
  · intro x1
    exact twf_tset _ _ x1

theorem State.loadUpdate_kept {a s} (h : Kept a s) : Kept a (State.loadUpdate s) := by
  unfold State.loadUpdate
  extract_lets +onlyGivenNames v1
  obtain ⟨v2, e⟩ : ∃ y, y = v1 := ⟨_, rfl⟩
  rw [← e]
  clear e v1
  extract_lets +onlyGivenNames v3
  obtain ⟨v4, e⟩ : ∃ y, y = v3 := ⟨_, rfl⟩
  rw [← e]
  clear e v3
  extract_lets +onlyGivenNames v5
  obtain ⟨v6, e⟩ : ∃ y, y = v5 := ⟨_, rfl⟩
  rw [← e]
  clear e v5
  extract_lets +onlyGivenNames v7
  obtain ⟨v9, e, h8⟩ : ∃ y, y = v7 ∧ Kept a (y) := ⟨_, rfl, by
    refine State.setF_kept ?_
    refine State.setF_kept ?_
    exact h
    ⟩
  rw [← e]
  clear e v7
  extract_lets +onlyGivenNames v10
  obtain ⟨v12, e, h11⟩ : ∃ y, y = v10 ∧ Kept a (y) := ⟨_, rfl, by
    refine State.setF_kept ?_
    exact h8
    ⟩
  rw [← e]
  clear e v10
  refine Kept.ite ?_ ?_
  · refine State.severe_kept ?_
    exact h11
  · exact h11

theorem State.saveStates_kept {a s y1} (h : Kept a s) : Kept a (State.saveStates s y1) := by
  unfold State.saveStates
  refine State.sts_kept ?_
  exact h

theorem State.applySet_kept {a s y1} (h : Kept a s) : Kept a (State.applySet s y1) := by
  unfold State.applySet
  extract_lets +onlyGivenNames v1
  obtain ⟨v2, e⟩ : ∃ y, y = v1 := ⟨_, rfl⟩
  rw [← e]
  clear e v1
  split
  · rename_i z3 z4
    exact h
  · rename_i z5 z6 z7
    extract_lets +onlyGivenNames v8
    obtain ⟨v10, e, h9⟩ : ∃ y, y = v8 ∧ Kept a (y) := ⟨_, rfl, by
      refine State.setLoop_kept ?_
      exact h
      ⟩
    rw [← e]
    clear e v8
    refine State.info_kept ?_
    refine State.loadUpdate_kept ?_
    refine State.setF_kept ?_
    refine State.setF_kept ?_
    exact h9

theorem State.applyTable_kept {a s y1} (h : Kept a s) : Kept a (State.applyTable s y1) := by
  unfold State.applyTable
  extract_lets +onlyGivenNames v1
  obtain ⟨v2, e⟩ : ∃ y, y = v1 := ⟨_, rfl⟩
  rw [← e]
  clear e v1
  extract_lets +onlyGivenNames v3
  obtain ⟨v5, e, h4⟩ : ∃ y, y = v3 ∧ Kept a (y) := ⟨_, rfl, by
    refine State.setF_kept ?_
    refine State.setF_kept ?_
    exact h
    ⟩
  rw [← e]
  clear e v3
  refine State.setLoop_kept ?_
  refine State.setWord_kept ?_
  exact h4

theorem State.applyPending_kept {a s y1 y2} (h : Kept a s) : Kept a (State.applyPending s y1 y2) := by
  unfold State.applyPending
  extract_lets +onlyGivenNames v1
  obtain ⟨v3, e, h2⟩ : ∃ y, y = v1 ∧ Kept a (y) := ⟨_, rfl, by
    unfold v1
    split
    · rename_i z4 z5 z6
      refine Kept.ite ?_ ?_
      · refine State.applySet_kept ?_
        exact h
      · exact h
    · rename_i z7 z8
      exact h
    ⟩
  rw [← e]
  clear e v1
  split
  · rename_i z9 z10 z11
    refine Kept.ite ?_ ?_
    · refine State.applyTable_kept ?_
      exact h2
    · exact h2
  · rename_i z12 z13
    exact h2

theorem coefAccept_kept {a y1 y2 s} (h : Kept a s) : Kept a (coefAccept y1 y2 s) := by
  unfold coefAccept
  extract_lets +onlyGivenNames v1
  obtain ⟨v2, e⟩ : ∃ y, y = v1 := ⟨_, rfl⟩
  rw [← e]
  clear e v1
  extract_lets +onlyGivenNames v3
  split
  · rename_i z4 z5
    unfold v3
    refine State.refuse_kept ?_
    refine State.setF_kept ?_
    exact h
  · rename_i z6 z7 z8
    extract_lets +onlyGivenNames v9
    obtain ⟨v10, e⟩ : ∃ y, y = v9 := ⟨_, rfl⟩
    rw [← e]
    clear e v9
    extract_lets +onlyGivenNames v11
    obtain ⟨v12, e⟩ : ∃ y, y = v11 := ⟨_, rfl⟩
    rw [← e]
    clear e v11
    refine Kept.ite ?_ ?_
    · unfold v3
      refine State.refuse_kept ?_
      refine State.setF_kept ?_
      refine State.setF_kept ?_
      exact h
    · extract_lets +onlyGivenNames v13
      obtain ⟨v14, e⟩ : ∃ y, y = v13 := ⟨_, rfl⟩
      rw [← e]
      clear e v13
      extract_lets +onlyGivenNames v15
      obtain ⟨v16, e⟩ : ∃ y, y = v15 := ⟨_, rfl⟩
      rw [← e]
      clear e v15
      extract_lets +onlyGivenNames v17
      obtain ⟨v19, e, h18⟩ : ∃ y, y = v17 ∧ Kept a (y) := ⟨_, rfl, by
        refine State.setF_kept ?_
        refine State.setLoop_kept ?_
        exact h
        ⟩
      rw [← e]
      clear e v17
      refine Kept.ite ?_ ?_
      · refine State.applySet_kept ?_
        exact h18
      · refine State.loadUpdate_kept ?_
        exact h18

theorem coefficientSet_kept {a y1 y2 s} (h : Kept a s) : Kept a (coefficientSet y1 y2 s) := by
  unfold coefficientSet
  refine State.arrive_kept ?_ ?_
  · exact h
  · intro x1 h2
    split
    · rename_i z3 z4 z5
      refine State.refuse_kept ?_
      exact h2
    · rename_i z6 z7
      split
      · rename_i z8 z9 z10
        refine State.refuse_kept ?_
        exact h2
      · rename_i z11 z12
        refine coefAccept_kept ?_
        exact h2

theorem setpointAccept_kept {a y1 y2 s} (h : Kept a s) : Kept a (setpointAccept y1 y2 s) := by
  unfold setpointAccept
  extract_lets +onlyGivenNames v1
  obtain ⟨v2, e⟩ : ∃ y, y = v1 := ⟨_, rfl⟩
  rw [← e]
  clear e v1
  refine Kept.ite ?_ ?_
  · exact h
  · refine State.arrive_kept ?_ ?_
    · exact h
    · intro x3 h4
      refine Kept.ite ?_ ?_
      · refine State.refuse_kept ?_
        exact h4
      · refine Kept.ite ?_ ?_
        · refine State.refuse_kept ?_
          exact h4
        · refine Kept.ite ?_ ?_
          · refine State.refuse_kept ?_
            exact h4
          · extract_lets +onlyGivenNames v5
            obtain ⟨v6, e⟩ : ∃ y, y = v5 := ⟨_, rfl⟩
            rw [← e]
            clear e v5
            refine State.setLoop_kept ?_
            exact h4

theorem State.takeTrig_kept {a s y1 y2} (h : Kept a s) : Kept a (State.takeTrig s y1 y2) := by
  unfold State.takeTrig
  split
  · rename_i z1 z2 z3
    refine State.deliver_kept ?_
    exact h
  · rename_i z4 z5
    exact h

theorem State.abandoned_kept {a s y1 y2 y3} (h : Kept a s) : Kept a (State.abandoned s y1 y2 y3) := by
  unfold State.abandoned
  extract_lets +onlyGivenNames v1
  obtain ⟨v2, e⟩ : ∃ y, y = v1 := ⟨_, rfl⟩
  rw [← e]
  clear e v1
  extract_lets +onlyGivenNames v3
  obtain ⟨v4, e⟩ : ∃ y, y = v3 := ⟨_, rfl⟩
  rw [← e]
  clear e v3
  extract_lets +onlyGivenNames v5
  obtain ⟨v7, e, h6⟩ : ∃ y, y = v5 ∧ Kept a (y) := ⟨_, rfl, by
    refine State.setLoop_kept ?_
    exact h
    ⟩
  rw [← e]
  clear e v5
  refine Kept.ite ?_ ?_
  · exact h6
  · extract_lets +onlyGivenNames v8
    obtain ⟨v10, e, h9⟩ : ∃ y, y = v8 ∧ Kept a (y) := ⟨_, rfl, by
      refine State.incF_kept ?_
      refine State.incF_kept ?_
      refine State.setF_kept ?_
      exact h6
      ⟩
    rw [← e]
    clear e v8
    refine Kept.ite ?_ ?_
    · refine State.severe_kept ?_
      exact h9
    · refine State.warn_kept ?_
      exact h9

theorem State.cycleSetpt_kept {a s y1 y2 y3 y4 y5 y6} (h : Kept a s) : Kept a (Prod.snd (Prod.snd (Prod.snd (State.cycleSetpt s y1 y2 y3 y4 y5 y6)))) := by
  unfold State.cycleSetpt
  extract_lets +onlyGivenNames v1
  obtain ⟨v2, e⟩ : ∃ y, y = v1 := ⟨_, rfl⟩
  rw [← e]
  clear e v1
  extract_lets +onlyGivenNames v3
  obtain ⟨v4, e⟩ : ∃ y, y = v3 := ⟨_, rfl⟩
  rw [← e]
  clear e v3
  extract_lets +onlyGivenNames v5
  obtain ⟨v7, e, h6⟩ : ∃ y, y = v5 ∧ Kept a (y) := ⟨_, rfl, by
    refine State.setLoop_kept ?_
    exact h
    ⟩
  rw [← e]
  clear e v5
  split
  · rename_i z8 z9 z10
    refine Kept.iteOf (fun p => Prod.snd (Prod.snd (Prod.snd (p)))) ?_ ?_
    · exact h6
    · refine State.warn_kept ?_
      refine State.incF_kept ?_
      refine State.setF_kept ?_
      exact h6
  · rename_i z11 z12
    refine State.warn_kept ?_
    refine State.incF_kept ?_
    refine State.setF_kept ?_
    exact h6

theorem State.cycleCore_kept {a s y1 y2 y3 y4 y5 y6} (h : Kept a s) : Kept a (Prod.snd (State.cycleCore s y1 y2 y3 y4 y5 y6)) := by
  unfold State.cycleCore
  extract_lets +onlyGivenNames v1
  obtain ⟨v2, e⟩ : ∃ y, y = v1 := ⟨_, rfl⟩
  rw [← e]
  clear e v1
  extract_lets +onlyGivenNames v3
  obtain ⟨v4, e⟩ : ∃ y, y = v3 := ⟨_, rfl⟩
  rw [← e]
  clear e v3
  extract_lets +onlyGivenNames v5
  obtain ⟨v6, e⟩ : ∃ y, y = v5 := ⟨_, rfl⟩
  rw [← e]
  clear e v5
  extract_lets +onlyGivenNames v7
  obtain ⟨v8, e⟩ : ∃ y, y = v7 := ⟨_, rfl⟩
  rw [← e]
  clear e v7
  extract_lets +onlyGivenNames v9
  obtain ⟨v10, e⟩ : ∃ y, y = v9 := ⟨_, rfl⟩
  rw [← e]
  clear e v9
  extract_lets +onlyGivenNames v11
  obtain ⟨v12, e⟩ : ∃ y, y = v11 := ⟨_, rfl⟩
  rw [← e]
  clear e v11
  extract_lets +onlyGivenNames v13
  obtain ⟨v15, e, h14⟩ : ∃ y, y = v13 ∧ Kept a (y) := ⟨_, rfl, by
    refine State.setLoop_kept ?_
    exact h
    ⟩
  rw [← e]
  clear e v13
  extract_lets +onlyGivenNames v16
  obtain ⟨v18, e, h17⟩ : ∃ y, y = v16 ∧ Kept a (y) := ⟨_, rfl, by
    refine Kept.ite ?_ ?_
    · refine State.incF_kept ?_
      refine State.setF_kept ?_
      exact h14
    · exact h14
    ⟩
  rw [← e]
  clear e v16
  refine State.setFi_kept ?_
  refine State.setFi_kept ?_
  exact h17

theorem State.etolCheck_kept {a s y1 y2 y3} (h : Kept a s) : Kept a (State.etolCheck s y1 y2 y3) := by
  unfold State.etolCheck
  extract_lets +onlyGivenNames v1
  obtain ⟨v2, e⟩ : ∃ y, y = v1 := ⟨_, rfl⟩
  rw [← e]
  clear e v1
  extract_lets +onlyGivenNames v3
  obtain ⟨v4, e⟩ : ∃ y, y = v3 := ⟨_, rfl⟩
  rw [← e]
  clear e v3
  refine Kept.ite ?_ ?_
  · refine State.setLoop_kept ?_
    exact h
  · extract_lets +onlyGivenNames v5
    obtain ⟨v6, e⟩ : ∃ y, y = v5 := ⟨_, rfl⟩
    rw [← e]
    clear e v5
    refine Kept.ite ?_ ?_
    · refine State.raise_kept ?_
      refine State.setF_kept ?_
      refine State.setLoop_kept ?_
      exact h
    · refine State.setLoop_kept ?_
      exact h

theorem State.sendGalvo_kept {a s y1 y2 y3 y4} (h : Kept a s) : Kept a (State.sendGalvo s y1 y2 y3 y4) := by
  unfold State.sendGalvo
  extract_lets +onlyGivenNames v1
  obtain ⟨v2, e⟩ : ∃ y, y = v1 := ⟨_, rfl⟩
  rw [← e]
  clear e v1
  refine State.send_kept ?_
  exact h

theorem State.cycleMeasure_kept {a s y1 y2 y3} (h : Kept a s) : Kept a (Prod.snd (Prod.snd (State.cycleMeasure s y1 y2 y3))) := by
  unfold State.cycleMeasure
  extract_lets +onlyGivenNames v1
  obtain ⟨v2, e⟩ : ∃ y, y = v1 := ⟨_, rfl⟩
  rw [← e]
  clear e v1
  split
  · rename_i z3 z4 z5
    refine State.setLoop_kept ?_
    exact h
  · rename_i z6 z7
    extract_lets +onlyGivenNames v8
    obtain ⟨v9, e⟩ : ∃ y, y = v8 := ⟨_, rfl⟩
    rw [← e]
    clear e v8
    extract_lets +onlyGivenNames v10
    obtain ⟨v11, e⟩ : ∃ y, y = v10 := ⟨_, rfl⟩
    rw [← e]
    clear e v10
    extract_lets +onlyGivenNames v12
    obtain ⟨v13, e⟩ : ∃ y, y = v12 := ⟨_, rfl⟩
    rw [← e]
    clear e v12
    extract_lets +onlyGivenNames v14
    obtain ⟨v16, e, h15⟩ : ∃ y, y = v14 ∧ Kept a (y) := ⟨_, rfl, by
      refine State.incF_kept ?_
      refine State.setF_kept ?_
      refine State.setLoop_kept ?_
      exact h
      ⟩
    rw [← e]
    clear e v14
    extract_lets +onlyGivenNames v17
    obtain ⟨v19, e, h18⟩ : ∃ y, y = v17 ∧ Kept a (y) := ⟨_, rfl, by
      refine State.warn_kept ?_
      exact h15
      ⟩
    rw [← e]
    clear e v17
    refine Kept.ite ?_ ?_
    · refine State.severe_kept ?_
      exact h18
    · exact h18

theorem State.noMeasure_kept {a s y1} (h : Kept a s) : Kept a (State.noMeasure s y1) := by
  unfold State.noMeasure
  extract_lets +onlyGivenNames v1
  obtain ⟨v2, e⟩ : ∃ y, y = v1 := ⟨_, rfl⟩
  rw [← e]
  clear e v1
  extract_lets +onlyGivenNames v3
  obtain ⟨v5, e, h4⟩ : ∃ y, y = v3 ∧ Kept a (y) := ⟨_, rfl, by
    refine State.setF_kept ?_
    exact h
    ⟩
  rw [← e]
  clear e v3
  refine Kept.ite ?_ ?_
  · exact h4
  · refine State.warn_kept ?_
    refine State.setF_kept ?_
    refine State.setLoop_kept ?_
    exact h4

theorem galvoCycle_kept {a y1 y2 s} (h : Kept a s) : Kept a (galvoCycle y1 y2 s) := by
  unfold galvoCycle
  extract_lets +onlyGivenNames v1
  obtain ⟨v2, e⟩ : ∃ y, y = v1 := ⟨_, rfl⟩
  rw [← e]
  clear e v1
  refine Kept.ite ?_ ?_
  · exact h
  · extract_lets +onlyGivenNames v3
    obtain ⟨v5, e, h4⟩ : ∃ y, y = v3 ∧ Kept a (y) := ⟨_, rfl, by
      refine State.abandoned_kept ?_
      refine State.takeTrig_kept ?_
      refine State.reach_kept ?_
      exact h
      ⟩
    rw [← e]
    clear e v3
    extract_lets +onlyGivenNames v6
    obtain ⟨v8, e, h7⟩ : ∃ y, y = v6 ∧ Kept a (y) := ⟨_, rfl, by
      refine State.applyPending_kept ?_
      exact h4
      ⟩
    rw [← e]
    clear e v6
    extract_lets +onlyGivenNames v9
    obtain ⟨v10, e⟩ : ∃ y, y = v9 := ⟨_, rfl⟩
    rw [← e]
    clear e v9
    refine Kept.ite ?_ ?_
    · refine State.sendGalvo_kept ?_
      refine State.noMeasure_kept ?_
      exact h7
    · extract_lets +onlyGivenNames v11
      obtain ⟨v13, e, h12⟩ : ∃ y, y = v11 ∧ Kept a (y) := ⟨_, rfl, by
        refine Kept.ite ?_ ?_
        · exact h7
        · refine State.setLoop_kept ?_
          exact h7
        ⟩
      rw [← e]
      clear e v11
      extract_lets +onlyGivenNames v14
      obtain ⟨v16, e, h15⟩ : ∃ y, y = v14 ∧ Kept a (Prod.snd (Prod.snd (y))) := ⟨_, rfl, by
        refine State.cycleMeasure_kept ?_
        exact h12
        ⟩
      rw [← e]
      clear e v14
      extract_lets +onlyGivenNames v17
      obtain ⟨v19, e, h18⟩ : ∃ y, y = v17 ∧ Kept a (Prod.snd (Prod.snd (Prod.snd (y)))) := ⟨_, rfl, by
        refine State.cycleSetpt_kept ?_
        exact h15
        ⟩
      rw [← e]
      clear e v17
      extract_lets +onlyGivenNames v20
      obtain ⟨v22, e, h21⟩ : ∃ y, y = v20 ∧ Kept a (y) := ⟨_, rfl, by
        exact h18
        ⟩
      rw [← e]
      clear e v20
      extract_lets +onlyGivenNames v23
      obtain ⟨v24, e⟩ : ∃ y, y = v23 := ⟨_, rfl⟩
      rw [← e]
      clear e v23
      extract_lets +onlyGivenNames v25
      obtain ⟨v26, e⟩ : ∃ y, y = v25 := ⟨_, rfl⟩
      rw [← e]
      clear e v25
      extract_lets +onlyGivenNames v27
      obtain ⟨v28, e⟩ : ∃ y, y = v27 := ⟨_, rfl⟩
      rw [← e]
      clear e v27
      extract_lets +onlyGivenNames v29
      obtain ⟨v30, e⟩ : ∃ y, y = v29 := ⟨_, rfl⟩
      rw [← e]
      clear e v29
      extract_lets +onlyGivenNames v31
      obtain ⟨v32, e⟩ : ∃ y, y = v31 := ⟨_, rfl⟩
      rw [← e]
      clear e v31
      extract_lets +onlyGivenNames v33
      obtain ⟨v35, e, h34⟩ : ∃ y, y = v33 ∧ Kept a (Prod.snd (y)) := ⟨_, rfl, by
        refine State.cycleCore_kept ?_
        exact h21
        ⟩
      rw [← e]
      clear e v33
      extract_lets +onlyGivenNames v36
      obtain ⟨v38, e, h37⟩ : ∃ y, y = v36 ∧ Kept a (y) := ⟨_, rfl, by
        exact h34
        ⟩
      rw [← e]
      clear e v36
      extract_lets +onlyGivenNames v39
      obtain ⟨v40, e⟩ : ∃ y, y = v39 := ⟨_, rfl⟩
      rw [← e]
      clear e v39
      extract_lets +onlyGivenNames v41
      obtain ⟨v43, e, h42⟩ : ∃ y, y = v41 ∧ Kept a (y) := ⟨_, rfl, by
        refine State.setLoop_kept ?_
        exact h37
        ⟩
      rw [← e]
      clear e v41
      extract_lets +onlyGivenNames v44
      obtain ⟨v46, e, h45⟩ : ∃ y, y = v44 ∧ Kept a (y) := ⟨_, rfl, by
        refine State.setF_kept ?_
        refine State.setF_kept ?_
        exact h42
        ⟩
      rw [← e]
      clear e v44
      extract_lets +onlyGivenNames v47
      obtain ⟨v49, e, h48⟩ : ∃ y, y = v47 ∧ Kept a (y) := ⟨_, rfl, by
        refine State.etolCheck_kept ?_
        exact h45
        ⟩
      rw [← e]
      clear e v47
      refine State.sendGalvo_kept ?_
      refine State.saveStates_kept ?_
      exact h48

theorem State.sendPower_kept {a s y1 y2} (h : Kept a s) : Kept a (State.sendPower s y1 y2) := by
  unfold State.sendPower
  extract_lets +onlyGivenNames v1
  obtain ⟨v2, e⟩ : ∃ y, y = v1 := ⟨_, rfl⟩
  rw [← e]
  clear e v1
  refine State.send_kept ?_
  exact h

theorem powerCycle_kept {a y1 s} (h : Kept a s) : Kept a (powerCycle y1 s) := by
  unfold powerCycle
  extract_lets +onlyGivenNames v1
  obtain ⟨v2, e⟩ : ∃ y, y = v1 := ⟨_, rfl⟩
  rw [← e]
  clear e v1
  extract_lets +onlyGivenNames v3
  obtain ⟨v4, e⟩ : ∃ y, y = v3 := ⟨_, rfl⟩
  rw [← e]
  clear e v3
  split
  · rename_i z5 z6
    exact h
  · rename_i z7 z8 z9 z10
    extract_lets +onlyGivenNames v11
    obtain ⟨v13, e, h12⟩ : ∃ y, y = v11 ∧ Kept a (y) := ⟨_, rfl, by
      refine State.setLoop_kept ?_
      exact h
      ⟩
    rw [← e]
    clear e v11
    refine Kept.ite ?_ ?_
    · exact h12
    · extract_lets +onlyGivenNames v14
      obtain ⟨v16, e, h15⟩ : ∃ y, y = v14 ∧ Kept a (y) := ⟨_, rfl, by
        refine State.applyPending_kept ?_
        exact h12
        ⟩
      rw [← e]
      clear e v14
      extract_lets +onlyGivenNames v17
      obtain ⟨v18, e⟩ : ∃ y, y = v17 := ⟨_, rfl⟩
      rw [← e]
      clear e v17
      extract_lets +onlyGivenNames v19
      obtain ⟨v20, e⟩ : ∃ y, y = v19 := ⟨_, rfl⟩
      rw [← e]
      clear e v19
      extract_lets +onlyGivenNames v21
      obtain ⟨v22, e⟩ : ∃ y, y = v21 := ⟨_, rfl⟩
      rw [← e]
      clear e v21
      extract_lets +onlyGivenNames v23
      obtain ⟨v25, e, h24⟩ : ∃ y, y = v23 ∧ Kept a (y) := ⟨_, rfl, by
        refine State.setLoop_kept ?_
        exact h15
        ⟩
      rw [← e]
      clear e v23
      extract_lets +onlyGivenNames v26
      obtain ⟨v27, e⟩ : ∃ y, y = v26 := ⟨_, rfl⟩
      rw [← e]
      clear e v26
      extract_lets +onlyGivenNames v28
      obtain ⟨v29, e⟩ : ∃ y, y = v28 := ⟨_, rfl⟩
      rw [← e]
      clear e v28
      extract_lets +onlyGivenNames v30
      obtain ⟨v31, e⟩ : ∃ y, y = v30 := ⟨_, rfl⟩
      rw [← e]
      clear e v30
      extract_lets +onlyGivenNames v32
      obtain ⟨v34, e, h33⟩ : ∃ y, y = v32 ∧ Kept a (y) := ⟨_, rfl, by
        refine Kept.ite ?_ ?_
        · exact h24
        · refine State.setLoop_kept ?_
          exact h24
        ⟩
      rw [← e]
      clear e v32
      extract_lets +onlyGivenNames v35
      obtain ⟨v36, e⟩ : ∃ y, y = v35 := ⟨_, rfl⟩
      rw [← e]
      clear e v35
      extract_lets +onlyGivenNames v37
      obtain ⟨v38, e⟩ : ∃ y, y = v37 := ⟨_, rfl⟩
      rw [← e]
      clear e v37
      extract_lets +onlyGivenNames v39
      obtain ⟨v40, e⟩ : ∃ y, y = v39 := ⟨_, rfl⟩
      rw [← e]
      clear e v39
      extract_lets +onlyGivenNames v41
      obtain ⟨v42, e⟩ : ∃ y, y = v41 := ⟨_, rfl⟩
      rw [← e]
      clear e v41
      extract_lets +onlyGivenNames v43
      obtain ⟨v44, e⟩ : ∃ y, y = v43 := ⟨_, rfl⟩
      rw [← e]
      clear e v43
      extract_lets +onlyGivenNames v45
      obtain ⟨v47, e, h46⟩ : ∃ y, y = v45 ∧ Kept a (y) := ⟨_, rfl, by
        refine State.setLoop_kept ?_
        exact h33
        ⟩
      rw [← e]
      clear e v45
      extract_lets +onlyGivenNames v48
      obtain ⟨v50, e, h49⟩ : ∃ y, y = v48 ∧ Kept a (y) := ⟨_, rfl, by
        refine State.setFi_kept ?_
        refine State.setF_kept ?_
        exact h46
        ⟩
      rw [← e]
      clear e v48
      extract_lets +onlyGivenNames v51
      obtain ⟨v52, e⟩ : ∃ y, y = v51 := ⟨_, rfl⟩
      rw [← e]
      clear e v51
      extract_lets +onlyGivenNames v53
      obtain ⟨v54, e⟩ : ∃ y, y = v53 := ⟨_, rfl⟩
      rw [← e]
      clear e v53
      extract_lets +onlyGivenNames v55
      obtain ⟨v56, e⟩ : ∃ y, y = v55 := ⟨_, rfl⟩
      rw [← e]
      clear e v55
      extract_lets +onlyGivenNames v57
      obtain ⟨v58, e⟩ : ∃ y, y = v57 := ⟨_, rfl⟩
      rw [← e]
      clear e v57
      extract_lets +onlyGivenNames v59
      obtain ⟨v60, e⟩ : ∃ y, y = v59 := ⟨_, rfl⟩
      rw [← e]
      clear e v59
      extract_lets +onlyGivenNames v61
      obtain ⟨v62, e⟩ : ∃ y, y = v61 := ⟨_, rfl⟩
      rw [← e]
      clear e v61
      extract_lets +onlyGivenNames v63
      obtain ⟨v64, e⟩ : ∃ y, y = v63 := ⟨_, rfl⟩
      rw [← e]
      clear e v63
      extract_lets +onlyGivenNames v65
      obtain ⟨v66, e⟩ : ∃ y, y = v65 := ⟨_, rfl⟩
      rw [← e]
      clear e v65
      extract_lets +onlyGivenNames v67
      obtain ⟨v68, e⟩ : ∃ y, y = v67 := ⟨_, rfl⟩
      rw [← e]
      clear e v67
      extract_lets +onlyGivenNames v69
      obtain ⟨v71, e, h70⟩ : ∃ y, y = v69 ∧ Kept a (y) := ⟨_, rfl, by
        refine State.setLoop_kept ?_
        exact h33
        ⟩
      rw [← e]
      clear e v69
      extract_lets +onlyGivenNames v72
      obtain ⟨v74, e, h73⟩ : ∃ y, y = v72 ∧ Kept a (y) := ⟨_, rfl, by
        refine Kept.ite ?_ ?_
        · refine State.incF_kept ?_
          refine State.setF_kept ?_
          exact h70
        · exact h70
        ⟩
      rw [← e]
      clear e v72
      extract_lets +onlyGivenNames v75
      obtain ⟨v77, e, h76⟩ : ∃ y, y = v75 ∧ Kept a (y) := ⟨_, rfl, by
        refine State.setFi_kept ?_
        refine State.setFi_kept ?_
        refine State.setF_kept ?_
        exact h73
        ⟩
      rw [← e]
      clear e v75
      extract_lets +onlyGivenNames v78
      obtain ⟨v80, e, h79⟩ : ∃ y, y = v78 ∧ Kept a (y) := ⟨_, rfl, by
        refine Kept.ite ?_ ?_
        · exact h49
        · refine State.etolCheck_kept ?_
          exact h76
        ⟩
      rw [← e]
      clear e v78
      extract_lets +onlyGivenNames v81
      obtain ⟨v82, e⟩ : ∃ y, y = v81 := ⟨_, rfl⟩
      rw [← e]
      clear e v81
      extract_lets +onlyGivenNames v83
      obtain ⟨v84, e⟩ : ∃ y, y = v83 := ⟨_, rfl⟩
      rw [← e]
      clear e v83
      extract_lets +onlyGivenNames v85
      obtain ⟨v87, e, h86⟩ : ∃ y, y = v85 ∧ Kept a (y) := ⟨_, rfl, by
        unfold v85
        split
        · rename_i z88 z89 z90
          refine Kept.ite ?_ ?_
          · refine State.setPg_kept ?_
            exact h79
          · exact h79
        · rename_i z91 z92
          exact h79
        ⟩
      rw [← e]
      clear e v85
      refine State.sendPower_kept ?_
      refine State.saveStates_kept ?_
      exact h86

theorem State.outputStage_kept {a s y1} (h : Kept a s) : Kept a (State.outputStage s y1) := by
  unfold State.outputStage
  extract_lets +onlyGivenNames v1
  obtain ⟨v2, e⟩ : ∃ y, y = v1 := ⟨_, rfl⟩
  rw [← e]
  clear e v1
  refine Kept.ite ?_ ?_
  · exact h
  · extract_lets +onlyGivenNames v3
    obtain ⟨v4, e⟩ : ∃ y, y = v3 := ⟨_, rfl⟩
    rw [← e]
    clear e v3
    extract_lets +onlyGivenNames v5
    obtain ⟨v6, e⟩ : ∃ y, y = v5 := ⟨_, rfl⟩
    rw [← e]
    clear e v5
    extract_lets +onlyGivenNames v7
    obtain ⟨v8, e⟩ : ∃ y, y = v7 := ⟨_, rfl⟩
    rw [← e]
    clear e v7
    refine State.sendPower_kept ?_
    refine State.setFi_kept ?_
    refine State.setLoop_kept ?_
    exact h

theorem State.setTrim_kept {a s y1 y2} (h : Kept a s) : Kept a (State.setTrim s y1 y2) := by
  unfold State.setTrim
  extract_lets +onlyGivenNames v1
  obtain ⟨v2, e⟩ : ∃ y, y = v1 := ⟨_, rfl⟩
  rw [← e]
  clear e v1
  extract_lets +onlyGivenNames v3
  obtain ⟨v4, e⟩ : ∃ y, y = v3 := ⟨_, rfl⟩
  rw [← e]
  clear e v3
  extract_lets +onlyGivenNames v5
  obtain ⟨v7, e, h6⟩ : ∃ y, y = v5 ∧ Kept a (y) := ⟨_, rfl, by
    refine Kept.ite ?_ ?_
    · exact h
    · refine State.setLoop_kept ?_
      refine State.setF_kept ?_
      exact h
    ⟩
  rw [← e]
  clear e v5
  refine State.outputStage_kept ?_
  exact h6

theorem trimAct_kept {a y1 y2 s} (h : Kept a s) : Kept a (trimAct y1 y2 s) := by
  unfold trimAct
  refine Kept.ite ?_ ?_
  · refine State.refuse_kept ?_
    exact h
  · refine State.setTrim_kept ?_
    exact h

theorem ctrimSet_kept {a y1 y2 s} (h : Kept a s) : Kept a (ctrimSet y1 y2 s) := by
  unfold ctrimSet
  refine State.arrive_kept ?_ ?_
  · exact h
  · intro x1 h2
    refine Kept.ite ?_ ?_
    · refine State.refuse_kept ?_
      exact h2
    · refine Kept.ite ?_ ?_
      · refine State.refuse_kept ?_
        exact h2
      · refine Kept.ite ?_ ?_
        · refine State.refuse_kept ?_
          exact h2
        · refine Kept.ite ?_ ?_
          · refine State.refuse_kept ?_
            exact h2
          · refine State.whenDue_kept ?_ ?_
            · exact h2
            · intro x3 h4
              refine trimAct_kept ?_
              exact h4

theorem pairMissing_kept {a y1 s} (h : Kept a s) : Kept a (pairMissing y1 s) := by
  unfold pairMissing
  extract_lets +onlyGivenNames v1
  obtain ⟨v2, e⟩ : ∃ y, y = v1 := ⟨_, rfl⟩
  rw [← e]
  clear e v1
  extract_lets +onlyGivenNames v3
  obtain ⟨v4, e⟩ : ∃ y, y = v3 := ⟨_, rfl⟩
  rw [← e]
  clear e v3
  split
  · rename_i z5 z6
    exact h
  · rename_i z7 z8 z9
    refine Kept.ite ?_ ?_
    · exact h
    · extract_lets +onlyGivenNames v10
      obtain ⟨v12, e, h11⟩ : ∃ y, y = v10 ∧ Kept a (y) := ⟨_, rfl, by
        refine State.reach_kept ?_
        exact h
        ⟩
      rw [← e]
      clear e v10
      refine State.warn_kept ?_
      refine State.incF_kept ?_
      refine State.setF_kept ?_
      refine State.setLoop_kept ?_
      exact h11

theorem loopCfgRefused_kept {a y1 s1 s} (h : Kept a s) : Kept a (loopCfgRefused y1 s1 s) := by
  unfold loopCfgRefused
  refine Kept.ite ?_ ?_
  · refine State.setF_kept ?_
    exact h
  · exact h

theorem State.lastOutput_kept {a s y1} (h : Kept a s) : Kept a (State.lastOutput s y1) := by
  unfold State.lastOutput
  refine Kept.ite ?_ ?_
  · refine State.sendGalvo_kept ?_
    exact h
  · refine Kept.ite ?_ ?_
    · refine State.sendPower_kept ?_
      exact h
    · exact h

theorem loopCfgEffect_kept {a y1 s1 s} (h : Kept a s) : Kept a (loopCfgEffect y1 s1 s) := by
  unfold loopCfgEffect
  refine Kept.ite ?_ ?_
  · refine State.loadUpdate_kept ?_
    refine State.setF_kept ?_
    refine State.setLoop_kept ?_
    exact h
  · refine Kept.ite ?_ ?_
    · refine State.loadUpdate_kept ?_
      refine State.setF_kept ?_
      refine State.setF_kept ?_
      refine State.lastOutput_kept ?_
      exact h
    · exact h

theorem fftnRefused_kept {a y1 s} (h : Kept a s) : Kept a (fftnRefused y1 s) := by
  unfold fftnRefused
  refine State.setF_kept ?_
  exact h

theorem fftnEffect_kept {a y1 s} (h : Kept a s) : Kept a (fftnEffect y1 s) := by
  unfold fftnEffect
  extract_lets +onlyGivenNames v1
  obtain ⟨v3, e, h2⟩ : ∃ y, y = v1 ∧ Kept a (y) := ⟨_, rfl, by
    refine State.setF_kept ?_
    exact h
    ⟩
  rw [← e]
  clear e v1
  extract_lets +onlyGivenNames v4
  obtain ⟨v5, e⟩ : ∃ y, y = v4 := ⟨_, rfl⟩
  rw [← e]
  clear e v4
  refine State.setLoop_kept ?_
  exact h2

theorem fftCopyDone_kept {a y1 s} (h : Kept a s) : Kept a (fftCopyDone y1 s) := by
  unfold fftCopyDone
  extract_lets +onlyGivenNames v1
  obtain ⟨v2, e⟩ : ∃ y, y = v1 := ⟨_, rfl⟩
  rw [← e]
  clear e v1
  refine Kept.ite ?_ ?_
  · exact h
  · extract_lets +onlyGivenNames v3
    obtain ⟨v5, e, h4⟩ : ∃ y, y = v3 ∧ Kept a (y) := ⟨_, rfl, by
      refine State.setF_kept ?_
      refine State.setLoop_kept ?_
      exact h
      ⟩
    rw [← e]
    clear e v3
    refine Kept.ite ?_ ?_
    · refine State.applyTable_kept ?_
      exact h4
    · exact h4

theorem servoBarrier_kept {a y1 s y2} (h : Kept a s) : Kept a (servoBarrier y1 s y2) := by
  unfold servoBarrier
  extract_lets +onlyGivenNames v1
  obtain ⟨v2, e⟩ : ∃ y, y = v1 := ⟨_, rfl⟩
  rw [← e]
  clear e v1
  extract_lets +onlyGivenNames v3
  obtain ⟨v5, e, h4⟩ : ∃ y, y = v3 ∧ Kept a (y) := ⟨_, rfl, by
    unfold v3
    split
    · rename_i z6 z7 z8
      refine State.setLoop_kept ?_
      exact h
    · rename_i z9 z10
      exact h
    ⟩
  rw [← e]
  clear e v3
  extract_lets +onlyGivenNames v11
  obtain ⟨v12, e⟩ : ∃ y, y = v11 := ⟨_, rfl⟩
  rw [← e]
  clear e v11
  extract_lets +onlyGivenNames v13
  obtain ⟨v15, e, h14⟩ : ∃ y, y = v13 ∧ Kept a (y) := ⟨_, rfl, by
    unfold v13
    split
    · rename_i z16 z17
      refine Kept.ite ?_ ?_
      · refine State.setLoop_kept ?_
        exact h4
      · refine State.info_kept ?_
        exact h4
    · rename_i z18 z19
      exact h4
    ⟩
  rw [← e]
  clear e v13
  refine Kept.ite ?_ ?_
  · exact h14
  · refine State.applyPending_kept ?_
    exact h14

theorem servoSync_kept {a s} (h : Kept a s) : Kept a (servoSync s) := by
  unfold servoSync
  refine Kept.foldl ?_ ?_
  · exact h
  · intro t1 x2 h3
    refine Kept.ite ?_ ?_
    · exact h3
    · refine State.applyPending_kept ?_
      exact h3

theorem State.setUnit_kept {a s y1 y2} (h : Kept a s) : Kept a (State.setUnit s y1 y2) := by
  unfold State.setUnit
  extract_lets +onlyGivenNames v1
  obtain ⟨v2, e⟩ : ∃ y, y = v1 := ⟨_, rfl⟩
  rw [← e]
  clear e v1
  extract_lets +onlyGivenNames v3
  obtain ⟨v4, e⟩ : ∃ y, y = v3 := ⟨_, rfl⟩
  rw [← e]
  clear e v3
  refine State.setWord_kept ?_
  exact h

theorem unitFail_kept {a y1 y2 s} (h : Kept a s) : Kept a (unitFail y1 y2 s) := by
  unfold unitFail
  refine Kept.ite ?_ ?_
  · extract_lets +onlyGivenNames v1
    obtain ⟨v3, e, h2⟩ : ∃ y, y = v1 ∧ Kept a (y) := ⟨_, rfl, by
      refine State.setUnit_kept ?_
      exact h
      ⟩
    rw [← e]
    clear e v1
    extract_lets +onlyGivenNames v4
    obtain ⟨v6, e, h5⟩ : ∃ y, y = v4 ∧ Kept a (y) := ⟨_, rfl, by
      unfold v4
      split
      · rename_i z7 z8 z9
        refine State.setUnit_kept ?_
        exact h2
      · rename_i z10 z11
        exact h2
      ⟩
    rw [← e]
    clear e v4
    extract_lets +onlyGivenNames v12
    obtain ⟨v14, e, h13⟩ : ∃ y, y = v12 ∧ Kept a (y) := ⟨_, rfl, by
      refine State.setF_kept ?_
      refine State.incF_kept ?_
      exact h5
      ⟩
    rw [← e]
    clear e v12
    refine State.loadUpdate_kept ?_
    refine State.raise_kept ?_
    exact h13
  · exact h

theorem stbaseEffect_kept {a s} (h : Kept a s) : Kept a (stbaseEffect s) := by
  unfold stbaseEffect
  refine State.setF_kept ?_
  exact h

end Sys2Proof.Machine
end

