-- ==== Sys2Proof/Laws/KeptPosition.lean ====
section
/-! SUPPORT. Every operation of Machine/Position.lean keeps the queue and the canonical tables (`Kept`). -/

set_option linter.unusedVariables false

namespace Sys2Proof.Machine

open Sys2Proof

theorem State.pass_kept {a s y1} (h : Kept a s) : Kept a (State.pass s y1) := by
  unfold State.pass
  extract_lets +onlyGivenNames v1
  obtain ⟨v3, e, h2⟩ : ∃ y, y = v1 ∧ Kept a (y) := ⟨_, rfl, by
    refine State.send_kept ?_
    exact h
    ⟩
  rw [← e]
  clear e v1
  split
  · rename_i z4 z5 z6
    refine State.deliver_kept ?_
    exact h2
  · rename_i z7 z8
    exact h2

theorem State.passMsg_kept {a s y1 y2 y3 y4 y5} (h : Kept a s) : Kept a (State.passMsg s y1 y2 y3 y4 y5) := by
  induction y5 generalizing s with
  | nil => exact h
  | cons w t ih =>
    cases t with
    | nil => exact State.pass_kept h
    | cons u t => exact ih (State.pass_kept h)

theorem State.setSc_kept {a s y1 y2} (h : Kept a s) : Kept a (State.setSc s y1 y2) := by
  unfold State.setSc
  refine State.setScs_kept ?_ ?_
  · exact h
  · intro x1
    exact twf_tset _ _ x1

theorem State.setEnc_kept {a s y1 y2} (h : Kept a s) : Kept a (State.setEnc s y1 y2) := by
  unfold State.setEnc
  refine State.setEncs_kept ?_ ?_
  · exact h
  · intro x1
    exact twf_tset _ _ x1

theorem State.setHall_kept {a s y1 y2} (h : Kept a s) : Kept a (State.setHall s y1 y2) := by
  unfold State.setHall
  refine State.setHalls_kept ?_ ?_
  · exact h
  · intro x1
    exact twf_tset _ _ x1

theorem State.setProbe_kept {a s y1 y2} (h : Kept a s) : Kept a (State.setProbe s y1 y2) := by
  unfold State.setProbe
  refine State.setProbes_kept ?_ ?_
  · exact h
  · intro x1
    exact twf_tset _ _ x1

theorem State.setEmu_kept {a s y1 y2} (h : Kept a s) : Kept a (State.setEmu s y1 y2) := by
  unfold State.setEmu
  refine State.setEmus_kept ?_ ?_
  · exact h
  · intro x1
    exact twf_tset _ _ x1

theorem State.posRaise_kept {a s y1 y2 y3 y4} (h : Kept a s) : Kept a (State.posRaise s y1 y2 y3 y4) := by
  unfold State.posRaise
  refine State.raise_kept ?_
  exact h

theorem State.adaptMove_kept {a s y1 y2} (h : Kept a s) : Kept a (State.adaptMove s y1 y2) := by
  unfold State.adaptMove
  extract_lets +onlyGivenNames v1
  obtain ⟨v2, e⟩ : ∃ y, y = v1 := ⟨_, rfl⟩
  rw [← e]
  clear e v1
  extract_lets +onlyGivenNames v3
  obtain ⟨v4, e⟩ : ∃ y, y = v3 := ⟨_, rfl⟩
  rw [← e]
  clear e v3
  extract_lets +onlyGivenNames v5
  obtain ⟨v6, e⟩ : ∃ y, y = v5 := ⟨_, rfl⟩
  rw [← e]
  clear e v5
  extract_lets +onlyGivenNames v7
  obtain ⟨v8, e⟩ : ∃ y, y = v7 := ⟨_, rfl⟩
  rw [← e]
  clear e v7
  extract_lets +onlyGivenNames v9
  obtain ⟨v10, e⟩ : ∃ y, y = v9 := ⟨_, rfl⟩
  rw [← e]
  clear e v9
  extract_lets +onlyGivenNames v11
  obtain ⟨v13, e, h12⟩ : ∃ y, y = v11 ∧ Kept a (y) := ⟨_, rfl, by
    refine State.setFi_kept ?_
    refine State.setFi_kept ?_
    refine State.setFi_kept ?_
    exact h
    ⟩
  rw [← e]
  clear e v11
  refine Kept.ite ?_ ?_
  · refine State.setF_kept ?_
    exact h12
  · exact h12

theorem State.adaptSample_kept {a s y1 y2 y3 y4} (h : Kept a s) : Kept a (State.adaptSample s y1 y2 y3 y4) := by
  unfold State.adaptSample
  extract_lets +onlyGivenNames v1
  obtain ⟨v2, e⟩ : ∃ y, y = v1 := ⟨_, rfl⟩
  rw [← e]
  clear e v1
  extract_lets +onlyGivenNames v3
  obtain ⟨v4, e⟩ : ∃ y, y = v3 := ⟨_, rfl⟩
  rw [← e]
  clear e v3
  split
  · rename_i z5 z6
    refine State.setSc_kept ?_
    exact h
  · rename_i z7 z8 z9
    refine Kept.ite ?_ ?_
    · extract_lets +onlyGivenNames v10
      obtain ⟨v11, e⟩ : ∃ y, y = v10 := ⟨_, rfl⟩
      rw [← e]
      clear e v10
      refine State.setSc_kept ?_
      exact h
    · extract_lets +onlyGivenNames v12
      obtain ⟨v14, e, h13⟩ : ∃ y, y = v12 ∧ Kept a (y) := ⟨_, rfl, by
        refine Kept.ite ?_ ?_
        · refine State.adaptMove_kept ?_
          exact h
        · exact h
        ⟩
      rw [← e]
      clear e v12
      refine State.setSc_kept ?_
      exact h13

theorem State.scReject_kept {a s y1 y2} (h : Kept a s) : Kept a (State.scReject s y1 y2) := by
  unfold State.scReject
  extract_lets +onlyGivenNames v1
  obtain ⟨v3, e, h2⟩ : ∃ y, y = v1 ∧ Kept a (y) := ⟨_, rfl, by
    refine State.incF_kept ?_
    exact h
    ⟩
  rw [← e]
  clear e v1
  extract_lets +onlyGivenNames v4
  obtain ⟨v5, e⟩ : ∃ y, y = v4 := ⟨_, rfl⟩
  rw [← e]
  clear e v4
  extract_lets +onlyGivenNames v6
  obtain ⟨v7, e⟩ : ∃ y, y = v6 := ⟨_, rfl⟩
  rw [← e]
  clear e v6
  extract_lets +onlyGivenNames v8
  obtain ⟨v10, e, h9⟩ : ∃ y, y = v8 ∧ Kept a (y) := ⟨_, rfl, by
    refine State.setSc_kept ?_
    exact h2
    ⟩
  rw [← e]
  clear e v8
  refine Kept.ite ?_ ?_
  · refine State.posRaise_kept ?_
    refine State.setF_kept ?_
    exact h9
  · exact h9

theorem State.scAccept_kept {a s y1 y2 y3 y4 y5 y6} (h : Kept a s) : Kept a (State.scAccept s y1 y2 y3 y4 y5 y6) := by
  unfold State.scAccept
  extract_lets +onlyGivenNames v1
  obtain ⟨v2, e⟩ : ∃ y, y = v1 := ⟨_, rfl⟩
  rw [← e]
  clear e v1
  extract_lets +onlyGivenNames v3
  obtain ⟨v5, e, h4⟩ : ∃ y, y = v3 ∧ Kept a (y) := ⟨_, rfl, by
    refine State.passMsg_kept ?_
    exact h
    ⟩
  rw [← e]
  clear e v3
  extract_lets +onlyGivenNames v6
  obtain ⟨v7, e⟩ : ∃ y, y = v6 := ⟨_, rfl⟩
  rw [← e]
  clear e v6
  extract_lets +onlyGivenNames v8
  obtain ⟨v10, e, h9⟩ : ∃ y, y = v8 ∧ Kept a (y) := ⟨_, rfl, by
    refine State.setLoop_kept ?_
    exact h4
    ⟩
  rw [← e]
  clear e v8
  extract_lets +onlyGivenNames v11
  obtain ⟨v13, e, h12⟩ : ∃ y, y = v11 ∧ Kept a (y) := ⟨_, rfl, by
    refine Kept.ite ?_ ?_
    · exact h9
    · refine State.sendMsg_kept ?_
      exact h9
    ⟩
  rw [← e]
  clear e v11
  refine Kept.foldl ?_ ?_
  · exact h12
  · intro t14 x15 h16
    refine Kept.ite ?_ ?_
    · refine State.setEmu_kept ?_
      exact h16
    · exact h16

theorem State.sincos_kept {a s y1 y2 y3 y4 y5} (h : Kept a s) : Kept a (State.sincos s y1 y2 y3 y4 y5) := by
  unfold State.sincos
  refine Kept.ite ?_ ?_
  · exact h
  · extract_lets +onlyGivenNames v1
    obtain ⟨v2, e⟩ : ∃ y, y = v1 := ⟨_, rfl⟩
    rw [← e]
    clear e v1
    split
    · rename_i z3 z4
      refine State.setF_kept ?_
      refine State.setSc_kept ?_
      exact h
    · rename_i z5 z6 z7
      extract_lets +onlyGivenNames v8
      obtain ⟨v9, e⟩ : ∃ y, y = v8 := ⟨_, rfl⟩
      rw [← e]
      clear e v8
      extract_lets +onlyGivenNames v10
      obtain ⟨v11, e⟩ : ∃ y, y = v10 := ⟨_, rfl⟩
      rw [← e]
      clear e v10
      extract_lets +onlyGivenNames v12
      obtain ⟨v14, e, h13⟩ : ∃ y, y = v12 ∧ Kept a (y) := ⟨_, rfl, by
        refine State.setSc_kept ?_
        exact h
        ⟩
      rw [← e]
      clear e v12
      extract_lets +onlyGivenNames v15
      obtain ⟨v17, e, h16⟩ : ∃ y, y = v15 ∧ Kept a (y) := ⟨_, rfl, by
        refine Kept.ite ?_ ?_
        · refine State.posRaise_kept ?_
          refine State.setF_kept ?_
          exact h13
        · exact h13
        ⟩
      rw [← e]
      clear e v15
      extract_lets +onlyGivenNames v18
      obtain ⟨v19, e⟩ : ∃ y, y = v18 := ⟨_, rfl⟩
      rw [← e]
      clear e v18
      extract_lets +onlyGivenNames v20
      obtain ⟨v21, e⟩ : ∃ y, y = v20 := ⟨_, rfl⟩
      rw [← e]
      clear e v20
      extract_lets +onlyGivenNames v22
      obtain ⟨v23, e⟩ : ∃ y, y = v22 := ⟨_, rfl⟩
      rw [← e]
      clear e v22
      extract_lets +onlyGivenNames v24
      obtain ⟨v25, e⟩ : ∃ y, y = v24 := ⟨_, rfl⟩
      rw [← e]
      clear e v24
      extract_lets +onlyGivenNames v26
      obtain ⟨v27, e⟩ : ∃ y, y = v26 := ⟨_, rfl⟩
      rw [← e]
      clear e v26
      extract_lets +onlyGivenNames v28
      obtain ⟨v29, e⟩ : ∃ y, y = v28 := ⟨_, rfl⟩
      rw [← e]
      clear e v28
      extract_lets +onlyGivenNames v30
      obtain ⟨v31, e⟩ : ∃ y, y = v30 := ⟨_, rfl⟩
      rw [← e]
      clear e v30
      extract_lets +onlyGivenNames v32
      obtain ⟨v33, e⟩ : ∃ y, y = v32 := ⟨_, rfl⟩
      rw [← e]
      clear e v32
      extract_lets +onlyGivenNames v34
      obtain ⟨v35, e⟩ : ∃ y, y = v34 := ⟨_, rfl⟩
      rw [← e]
      clear e v34
      refine Kept.ite ?_ ?_
      · refine State.scReject_kept ?_
        exact h16
      · refine Kept.ite ?_ ?_
        · refine State.scReject_kept ?_
          exact h16
        · extract_lets +onlyGivenNames v36
          obtain ⟨v37, e⟩ : ∃ y, y = v36 := ⟨_, rfl⟩
          rw [← e]
          clear e v36
          extract_lets +onlyGivenNames v38
          obtain ⟨v39, e⟩ : ∃ y, y = v38 := ⟨_, rfl⟩
          rw [← e]
          clear e v38
          extract_lets +onlyGivenNames v40
          obtain ⟨v41, e⟩ : ∃ y, y = v40 := ⟨_, rfl⟩
          rw [← e]
          clear e v40
          refine Kept.ite ?_ ?_
          · refine State.scReject_kept ?_
            exact h16
          · extract_lets +onlyGivenNames v42
            obtain ⟨v43, e⟩ : ∃ y, y = v42 := ⟨_, rfl⟩
            rw [← e]
            clear e v42
            extract_lets +onlyGivenNames v44
            obtain ⟨v45, e⟩ : ∃ y, y = v44 := ⟨_, rfl⟩
            rw [← e]
            clear e v44
            extract_lets +onlyGivenNames v46
            obtain ⟨v47, e⟩ : ∃ y, y = v46 := ⟨_, rfl⟩
            rw [← e]
            clear e v46
            extract_lets +onlyGivenNames v48
            obtain ⟨v49, e⟩ : ∃ y, y = v48 := ⟨_, rfl⟩
            rw [← e]
            clear e v48
            extract_lets +onlyGivenNames v50
            obtain ⟨v51, e⟩ : ∃ y, y = v50 := ⟨_, rfl⟩
            rw [← e]
            clear e v50
            extract_lets +onlyGivenNames v52
            obtain ⟨v53, e⟩ : ∃ y, y = v52 := ⟨_, rfl⟩
            rw [← e]
            clear e v52
            extract_lets +onlyGivenNames v54
            obtain ⟨v55, e⟩ : ∃ y, y = v54 := ⟨_, rfl⟩
            rw [← e]
            clear e v54
            extract_lets +onlyGivenNames v56
            obtain ⟨v58, e, h57⟩ : ∃ y, y = v56 ∧ Kept a (y) := ⟨_, rfl, by
              refine Kept.ite ?_ ?_
              · exact h16
              · refine State.posRaise_kept ?_
                refine State.setF_kept ?_
                exact h16
              ⟩
            rw [← e]
            clear e v56
            extract_lets +onlyGivenNames v59
            obtain ⟨v61, e, h60⟩ : ∃ y, y = v59 ∧ Kept a (y) := ⟨_, rfl, by
              refine Kept.ite ?_ ?_
              · refine State.incF_kept ?_
                exact h57
              · exact h57
              ⟩
            rw [← e]
            clear e v59
            extract_lets +onlyGivenNames v62
            obtain ⟨v63, e⟩ : ∃ y, y = v62 := ⟨_, rfl⟩
            rw [← e]
            clear e v62
            extract_lets +onlyGivenNames v64
            obtain ⟨v65, e⟩ : ∃ y, y = v64 := ⟨_, rfl⟩
            rw [← e]
            clear e v64
            extract_lets +onlyGivenNames v66
            obtain ⟨v68, e, h67⟩ : ∃ y, y = v66 ∧ Kept a (y) := ⟨_, rfl, by
              refine State.setSc_kept ?_
              exact h60
              ⟩
            rw [← e]
            clear e v66
            extract_lets +onlyGivenNames v69
            obtain ⟨v71, e, h70⟩ : ∃ y, y = v69 ∧ Kept a (y) := ⟨_, rfl, by
              refine State.setFi_kept ?_
              refine State.setF_kept ?_
              exact h67
              ⟩
            rw [← e]
            clear e v69
            extract_lets +onlyGivenNames v72
            obtain ⟨v74, e, h73⟩ : ∃ y, y = v72 ∧ Kept a (y) := ⟨_, rfl, by
              refine Kept.ite ?_ ?_
              · refine State.adaptSample_kept ?_
                exact h70
              · exact h70
              ⟩
            rw [← e]
            clear e v72
            refine State.scAccept_kept ?_
            exact h73

theorem speedUpdate_kept {a y1 s} (h : Kept a s) : Kept a (speedUpdate y1 s) := by
  unfold speedUpdate
  refine Kept.ite ?_ ?_
  · exact h
  · extract_lets +onlyGivenNames v1
    obtain ⟨v3, e, h2⟩ : ∃ y, y = v1 ∧ Kept a (y) := ⟨_, rfl, by
      refine State.reach_kept ?_
      exact h
      ⟩
    rw [← e]
    clear e v1
    extract_lets +onlyGivenNames v4
    obtain ⟨v5, e⟩ : ∃ y, y = v4 := ⟨_, rfl⟩
    rw [← e]
    clear e v4
    extract_lets +onlyGivenNames v6
    obtain ⟨v8, e, h7⟩ : ∃ y, y = v6 ∧ Kept a (y) := ⟨_, rfl, by
      refine Kept.foldl ?_ ?_
      · exact h2
      · intro t9 x10 h11
        refine Kept.ite ?_ ?_
        · exact h11
        · extract_lets +onlyGivenNames v12
          obtain ⟨v13, e⟩ : ∃ y, y = v12 := ⟨_, rfl⟩
          rw [← e]
          clear e v12
          extract_lets +onlyGivenNames v14
          obtain ⟨v15, e⟩ : ∃ y, y = v14 := ⟨_, rfl⟩
          rw [← e]
          clear e v14
          extract_lets +onlyGivenNames v16
          obtain ⟨v18, e, h17⟩ : ∃ y, y = v16 ∧ Kept a (y) := ⟨_, rfl, by
            refine State.setWord_kept ?_
            refine State.setEnc_kept ?_
            exact h11
            ⟩
          rw [← e]
          clear e v16
          refine State.setF_kept ?_
          exact h17
      ⟩
    rw [← e]
    clear e v6
    refine Kept.foldl ?_ ?_
    · exact h7
    · intro t19 x20 h21
      refine Kept.ite ?_ ?_
      · exact h21
      · extract_lets +onlyGivenNames v22
        obtain ⟨v23, e⟩ : ∃ y, y = v22 := ⟨_, rfl⟩
        rw [← e]
        clear e v22
        extract_lets +onlyGivenNames v24
        obtain ⟨v25, e⟩ : ∃ y, y = v24 := ⟨_, rfl⟩
        rw [← e]
        clear e v24
        refine State.setWord_kept ?_
        refine State.setHall_kept ?_
        exact h21

theorem State.setCount_kept {a s y1 y2} (h : Kept a s) : Kept a (State.setCount s y1 y2) := by
  unfold State.setCount
  extract_lets +onlyGivenNames v1
  obtain ⟨v3, e, h2⟩ : ∃ y, y = v1 ∧ Kept a (y) := ⟨_, rfl, by
    refine State.setFi_kept ?_
    exact h
    ⟩
  rw [← e]
  clear e v1
  refine Kept.ite ?_ ?_
  · refine State.posRaise_kept ?_
    refine State.setF_kept ?_
    exact h2
  · exact h2

theorem encEdge_kept {a y1 y2 y3 y4 y5 s} (h : Kept a s) : Kept a (encEdge y1 y2 y3 y4 y5 s) := by
  unfold encEdge
  refine Kept.ite ?_ ?_
  · exact h
  · extract_lets +onlyGivenNames v1
    obtain ⟨v3, e, h2⟩ : ∃ y, y = v1 ∧ Kept a (y) := ⟨_, rfl, by
      refine State.reach_kept ?_
      exact h
      ⟩
    rw [← e]
    clear e v1
    extract_lets +onlyGivenNames v4
    obtain ⟨v5, e⟩ : ∃ y, y = v4 := ⟨_, rfl⟩
    rw [← e]
    clear e v4
    extract_lets +onlyGivenNames v6
    obtain ⟨v7, e⟩ : ∃ y, y = v6 := ⟨_, rfl⟩
    rw [← e]
    clear e v6
    extract_lets +onlyGivenNames v8
    obtain ⟨v10, e, h9⟩ : ∃ y, y = v8 ∧ Kept a (y) := ⟨_, rfl, by
      refine State.setEnc_kept ?_
      exact h2
      ⟩
    rw [← e]
    clear e v8
    refine Kept.ite ?_ ?_
    · exact h9
    · refine Kept.ite ?_ ?_
      · refine State.posRaise_kept ?_
        refine State.incF_kept ?_
        refine State.setF_kept ?_
        exact h9
      · extract_lets +onlyGivenNames v11
        obtain ⟨v12, e⟩ : ∃ y, y = v11 := ⟨_, rfl⟩
        rw [← e]
        clear e v11
        extract_lets +onlyGivenNames v13
        obtain ⟨v14, e⟩ : ∃ y, y = v13 := ⟨_, rfl⟩
        rw [← e]
        clear e v13
        extract_lets +onlyGivenNames v15
        obtain ⟨v16, e⟩ : ∃ y, y = v15 := ⟨_, rfl⟩
        rw [← e]
        clear e v15
        extract_lets +onlyGivenNames v17
        obtain ⟨v19, e, h18⟩ : ∃ y, y = v17 ∧ Kept a (y) := ⟨_, rfl, by
          refine State.setEnc_kept ?_
          exact h9
          ⟩
        rw [← e]
        clear e v17
        extract_lets +onlyGivenNames v20
        obtain ⟨v22, e, h21⟩ : ∃ y, y = v20 ∧ Kept a (y) := ⟨_, rfl, by
          refine Kept.ite ?_ ?_
          · refine State.setF_kept ?_
            exact h18
          · exact h18
          ⟩
        rw [← e]
        clear e v20
        refine State.setCount_kept ?_
        exact h21

theorem indexEvent_kept {a y1 y2 y3 y4 s} (h : Kept a s) : Kept a (indexEvent y1 y2 y3 y4 s) := by
  unfold indexEvent
  refine Kept.ite ?_ ?_
  · exact h
  · extract_lets +onlyGivenNames v1
    obtain ⟨v3, e, h2⟩ : ∃ y, y = v1 ∧ Kept a (y) := ⟨_, rfl, by
      refine State.reach_kept ?_
      exact h
      ⟩
    rw [← e]
    clear e v1
    extract_lets +onlyGivenNames v4
    obtain ⟨v5, e⟩ : ∃ y, y = v4 := ⟨_, rfl⟩
    rw [← e]
    clear e v4
    extract_lets +onlyGivenNames v6
    obtain ⟨v7, e⟩ : ∃ y, y = v6 := ⟨_, rfl⟩
    rw [← e]
    clear e v6
    extract_lets +onlyGivenNames v8
    obtain ⟨v10, e, h9⟩ : ∃ y, y = v8 ∧ Kept a (y) := ⟨_, rfl, by
      refine State.setEnc_kept ?_
      exact h2
      ⟩
    rw [← e]
    clear e v8
    extract_lets +onlyGivenNames v11
    obtain ⟨v12, e⟩ : ∃ y, y = v11 := ⟨_, rfl⟩
    rw [← e]
    clear e v11
    extract_lets +onlyGivenNames v13
    obtain ⟨v14, e⟩ : ∃ y, y = v13 := ⟨_, rfl⟩
    rw [← e]
    clear e v13
    refine Kept.ite ?_ ?_
    · exact h9
    · extract_lets +onlyGivenNames v15
      obtain ⟨v16, e⟩ : ∃ y, y = v15 := ⟨_, rfl⟩
      rw [← e]
      clear e v15
      extract_lets +onlyGivenNames v17
      obtain ⟨v19, e, h18⟩ : ∃ y, y = v17 ∧ Kept a (y) := ⟨_, rfl, by
        refine State.incF_kept ?_
        refine State.setF_kept ?_
        refine State.setFi_kept ?_
        exact h9
        ⟩
      rw [← e]
      clear e v17
      split
      · rename_i z20 z21
        refine Kept.ite ?_ ?_
        · refine State.setF_kept ?_
          refine State.setF_kept ?_
          refine State.setF_kept ?_
          refine State.setEnc_kept ?_
          exact h18
        · refine State.setEnc_kept ?_
          exact h18
      · rename_i z22 z23 z24
        extract_lets +onlyGivenNames v25
        obtain ⟨v26, e⟩ : ∃ y, y = v25 := ⟨_, rfl⟩
        rw [← e]
        clear e v25
        extract_lets +onlyGivenNames v27
        obtain ⟨v28, e⟩ : ∃ y, y = v27 := ⟨_, rfl⟩
        rw [← e]
        clear e v27
        refine Kept.ite ?_ ?_
        · exact h18
        · extract_lets +onlyGivenNames v29
          obtain ⟨v31, e, h30⟩ : ∃ y, y = v29 ∧ Kept a (y) := ⟨_, rfl, by
            refine State.incF_kept ?_
            refine State.setF_kept ?_
            refine State.setFi_kept ?_
            exact h18
            ⟩
          rw [← e]
          clear e v29
          extract_lets +onlyGivenNames v32
          obtain ⟨v33, e⟩ : ∃ y, y = v32 := ⟨_, rfl⟩
          rw [← e]
          clear e v32
          extract_lets +onlyGivenNames v34
          obtain ⟨v35, e⟩ : ∃ y, y = v34 := ⟨_, rfl⟩
          rw [← e]
          clear e v34
          refine Kept.ite ?_ ?_
          · refine State.raiseRec_kept ?_
            refine State.setF_kept ?_
            exact h30
          · extract_lets +onlyGivenNames v36
            obtain ⟨v38, e, h37⟩ : ∃ y, y = v36 ∧ Kept a (y) := ⟨_, rfl, by
              refine State.raiseRec_kept ?_
              exact h30
              ⟩
            rw [← e]
            clear e v36
            refine Kept.ite ?_ ?_
            · refine State.setCount_kept ?_
              exact h37
            · exact h37

theorem State.hallMove_kept {a s y1 y2 y3 y4} (h : Kept a s) : Kept a (State.hallMove s y1 y2 y3 y4) := by
  unfold State.hallMove
  extract_lets +onlyGivenNames v1
  obtain ⟨v2, e⟩ : ∃ y, y = v1 := ⟨_, rfl⟩
  rw [← e]
  clear e v1
  extract_lets +onlyGivenNames v3
  obtain ⟨v4, e⟩ : ∃ y, y = v3 := ⟨_, rfl⟩
  rw [← e]
  clear e v3
  extract_lets +onlyGivenNames v5
  obtain ⟨v7, e, h6⟩ : ∃ y, y = v5 ∧ Kept a (y) := ⟨_, rfl, by
    refine State.setHall_kept ?_
    exact h
    ⟩
  rw [← e]
  clear e v5
  extract_lets +onlyGivenNames v8
  obtain ⟨v10, e, h9⟩ : ∃ y, y = v8 ∧ Kept a (y) := ⟨_, rfl, by
    refine Kept.ite ?_ ?_
    · refine State.setF_kept ?_
      exact h6
    · exact h6
    ⟩
  rw [← e]
  clear e v8
  refine State.setF_kept ?_
  refine State.setFi_kept ?_
  exact h9

theorem hallChange_kept {a y1 y2 y3 y4 y5 y6 s} (h : Kept a s) : Kept a (hallChange y1 y2 y3 y4 y5 y6 s) := by
  unfold hallChange
  refine Kept.ite ?_ ?_
  · exact h
  · extract_lets +onlyGivenNames v1
    obtain ⟨v3, e, h2⟩ : ∃ y, y = v1 ∧ Kept a (y) := ⟨_, rfl, by
      refine State.reach_kept ?_
      exact h
      ⟩
    rw [← e]
    clear e v1
    extract_lets +onlyGivenNames v4
    obtain ⟨v5, e⟩ : ∃ y, y = v4 := ⟨_, rfl⟩
    rw [← e]
    clear e v4
    extract_lets +onlyGivenNames v6
    obtain ⟨v7, e⟩ : ∃ y, y = v6 := ⟨_, rfl⟩
    rw [← e]
    clear e v6
    extract_lets +onlyGivenNames v8
    obtain ⟨v10, e, h9⟩ : ∃ y, y = v8 ∧ Kept a (y) := ⟨_, rfl, by
      refine State.setF_kept ?_
      exact h2
      ⟩
    rw [← e]
    clear e v8
    refine Kept.ite ?_ ?_
    · exact h9
    · split
      · rename_i z11 z12
        extract_lets +onlyGivenNames v13
        obtain ⟨v14, e⟩ : ∃ y, y = v13 := ⟨_, rfl⟩
        rw [← e]
        clear e v13
        extract_lets +onlyGivenNames v15
        obtain ⟨v17, e, h16⟩ : ∃ y, y = v15 ∧ Kept a (y) := ⟨_, rfl, by
          refine State.setHall_kept ?_
          exact h9
          ⟩
        rw [← e]
        clear e v15
        refine State.posRaise_kept ?_
        refine State.incF_kept ?_
        refine State.setF_kept ?_
        exact h16
      · rename_i z18 z19 z20
        extract_lets +onlyGivenNames v21
        obtain ⟨v22, e⟩ : ∃ y, y = v21 := ⟨_, rfl⟩
        rw [← e]
        clear e v21
        extract_lets +onlyGivenNames v23
        refine Kept.ite ?_ ?_
        · refine State.setHall_kept ?_
          exact h9
        · refine Kept.ite ?_ ?_
          · refine State.hallMove_kept ?_
            exact h9
          · refine Kept.ite ?_ ?_
            · refine State.hallMove_kept ?_
              exact h9
            · refine Kept.ite ?_ ?_
              · unfold v23
                refine State.posRaise_kept ?_
                refine State.incF_kept ?_
                refine State.setF_kept ?_
                refine State.hallMove_kept ?_
                exact h9
              · refine Kept.ite ?_ ?_
                · unfold v23
                  refine State.posRaise_kept ?_
                  refine State.incF_kept ?_
                  refine State.setF_kept ?_
                  refine State.hallMove_kept ?_
                  exact h9
                · unfold v23
                  refine State.posRaise_kept ?_
                  refine State.incF_kept ?_
                  refine State.setF_kept ?_
                  refine State.hallMove_kept ?_
                  exact h9

theorem hallTimeout_kept {a y1 s} (h : Kept a s) : Kept a (hallTimeout y1 s) := by
  unfold hallTimeout
  extract_lets +onlyGivenNames v1
  obtain ⟨v2, e⟩ : ∃ y, y = v1 := ⟨_, rfl⟩
  rw [← e]
  clear e v1
  split
  · rename_i z3 z4
    exact h
  · rename_i z5 z6 z7
    refine Kept.ite ?_ ?_
    · exact h
    · extract_lets +onlyGivenNames v8
      obtain ⟨v10, e, h9⟩ : ∃ y, y = v8 ∧ Kept a (y) := ⟨_, rfl, by
        refine State.setHall_kept ?_
        refine State.reach_kept ?_
        exact h
        ⟩
      rw [← e]
      clear e v8
      refine State.posRaise_kept ?_
      refine State.setF_kept ?_
      exact h9

theorem State.probePend_kept {a s y1} (h : Kept a s) : Kept a (State.probePend s y1) := by
  unfold State.probePend
  refine State.setF_kept ?_
  exact h

theorem probeEvent_kept {a y1 y2 y3 y4 s} (h : Kept a s) : Kept a (probeEvent y1 y2 y3 y4 s) := by
  unfold probeEvent
  refine Kept.ite ?_ ?_
  · exact h
  · extract_lets +onlyGivenNames v1
    obtain ⟨v3, e, h2⟩ : ∃ y, y = v1 ∧ Kept a (y) := ⟨_, rfl, by
      refine State.reach_kept ?_
      exact h
      ⟩
    rw [← e]
    clear e v1
    extract_lets +onlyGivenNames v4
    obtain ⟨v5, e⟩ : ∃ y, y = v4 := ⟨_, rfl⟩
    rw [← e]
    clear e v4
    extract_lets +onlyGivenNames v6
    obtain ⟨v8, e, h7⟩ : ∃ y, y = v6 ∧ Kept a (y) := ⟨_, rfl, by
      refine State.setProbe_kept ?_
      exact h2
      ⟩
    rw [← e]
    clear e v6
    extract_lets +onlyGivenNames v9
    obtain ⟨v10, e⟩ : ∃ y, y = v9 := ⟨_, rfl⟩
    rw [← e]
    clear e v9
    refine Kept.ite ?_ ?_
    · exact h7
    · extract_lets +onlyGivenNames v11
      obtain ⟨v13, e, h12⟩ : ∃ y, y = v11 ∧ Kept a (y) := ⟨_, rfl, by
        refine Kept.ite ?_ ?_
        · refine State.setF_kept ?_
          exact h7
        · exact h7
        ⟩
      rw [← e]
      clear e v11
      refine Kept.ite ?_ ?_
      · refine State.posRaise_kept ?_
        refine State.incF_kept ?_
        refine State.setF_kept ?_
        exact h12
      · extract_lets +onlyGivenNames v14
        obtain ⟨v15, e⟩ : ∃ y, y = v14 := ⟨_, rfl⟩
        rw [← e]
        clear e v14
        refine State.probePend_kept ?_
        refine State.setProbe_kept ?_
        exact h12

theorem State.probeAxis_kept {a s y1 y2} (h : Kept a s) : Kept a (Prod.snd (State.probeAxis s y1 y2)) := by
  unfold State.probeAxis
  split
  · rename_i z1 z2 z3
    exact h
  · rename_i z4 z5
    extract_lets +onlyGivenNames v6
    obtain ⟨v8, e, h7⟩ : ∃ y, y = v6 ∧ Kept a (Prod.snd (y)) := ⟨_, rfl, by
      refine State.free_kept ?_
      exact h
      ⟩
    rw [← e]
    clear e v6
    exact h7

theorem State.probeGalvo_kept {a s y1 y2} (h : Kept a s) : Kept a (Prod.snd (State.probeGalvo s y1 y2)) := by
  induction y2 generalizing s y1
  · unfold State.probeGalvo
    exact h
  · rename_i w1 w2
    unfold State.probeGalvo
    extract_lets +onlyGivenNames v3
    obtain ⟨v4, e⟩ : ∃ y, y = v3 := ⟨_, rfl⟩
    rw [← e]
    clear e v3
    extract_lets +onlyGivenNames v5
    obtain ⟨v7, e, h6⟩ : ∃ y, y = v5 ∧ Kept a (Prod.snd (y)) := ⟨_, rfl, by
      refine State.probeAxis_kept ?_
      exact h
      ⟩
    rw [← e]
    clear e v5
    extract_lets +onlyGivenNames v8
    obtain ⟨v10, e, h9⟩ : ∃ y, y = v8 ∧ Kept a (Prod.snd (y)) := ⟨_, rfl, by
      refine State.probeAxis_kept ?_
      exact h6
      ⟩
    rw [← e]
    clear e v8
    extract_lets +onlyGivenNames v11
    obtain ⟨v13, e, h12⟩ : ∃ y, y = v11 ∧ Kept a (Prod.snd (y)) := ⟨_, rfl, by
      apply w2
      exact h9
      ⟩
    rw [← e]
    clear e v11
    exact h12

theorem probeRecord_kept {a y1 s} (h : Kept a s) : Kept a (probeRecord y1 s) := by
  unfold probeRecord
  split
  · rename_i z1 z2
    exact h
  · rename_i z3 z4 z5 z6
    extract_lets +onlyGivenNames v7
    obtain ⟨v8, e⟩ : ∃ y, y = v7 := ⟨_, rfl⟩
    rw [← e]
    clear e v7
    extract_lets +onlyGivenNames v9
    obtain ⟨v10, e⟩ : ∃ y, y = v9 := ⟨_, rfl⟩
    rw [← e]
    clear e v9
    extract_lets +onlyGivenNames v11
    obtain ⟨v13, e, h12⟩ : ∃ y, y = v11 ∧ Kept a (y) := ⟨_, rfl, by
      refine State.setProbe_kept ?_
      exact h
      ⟩
    rw [← e]
    clear e v11
    extract_lets +onlyGivenNames v14
    obtain ⟨v16, e, h15⟩ : ∃ y, y = v14 ∧ Kept a (y) := ⟨_, rfl, by
      refine State.probePend_kept ?_
      exact h12
      ⟩
    rw [← e]
    clear e v14
    refine Kept.ite ?_ ?_
    · refine State.sendMsg_kept ?_
      exact h15
    · extract_lets +onlyGivenNames v17
      obtain ⟨v18, e⟩ : ∃ y, y = v17 := ⟨_, rfl⟩
      rw [← e]
      clear e v17
      extract_lets +onlyGivenNames v19
      obtain ⟨v21, e, h20⟩ : ∃ y, y = v19 ∧ Kept a (y) := ⟨_, rfl, by
        refine Kept.ite ?_ ?_
        · exact h15
        · refine State.reach_kept ?_
          exact h15
        ⟩
      rw [← e]
      clear e v19
      extract_lets +onlyGivenNames v22
      obtain ⟨v24, e, h23⟩ : ∃ y, y = v22 ∧ Kept a (Prod.snd (y)) := ⟨_, rfl, by
        refine State.probeGalvo_kept ?_
        exact h20
        ⟩
      rw [← e]
      clear e v22
      refine State.sendMsg_kept ?_
      exact h23

theorem State.emuSend_kept {a s y1 y2 y3} (h : Kept a s) : Kept a (State.emuSend s y1 y2 y3) := by
  unfold State.emuSend
  refine State.send_kept ?_
  exact h

theorem emuUpdate_kept {a y1 s} (h : Kept a s) : Kept a (emuUpdate y1 s) := by
  unfold emuUpdate
  refine Kept.ite ?_ ?_
  · exact h
  · extract_lets +onlyGivenNames v1
    obtain ⟨v2, e⟩ : ∃ y, y = v1 := ⟨_, rfl⟩
    rw [← e]
    clear e v1
    refine Kept.ite ?_ ?_
    · split
      · rename_i z3 z4
        exact h
      · rename_i z5 z6 z7 z8
        refine State.emuSend_kept ?_
        refine State.setEmu_kept ?_
        exact h
    · extract_lets +onlyGivenNames v9
      obtain ⟨v10, e⟩ : ∃ y, y = v9 := ⟨_, rfl⟩
      rw [← e]
      clear e v9
      extract_lets +onlyGivenNames v11
      obtain ⟨v12, e⟩ : ∃ y, y = v11 := ⟨_, rfl⟩
      rw [← e]
      clear e v11
      extract_lets +onlyGivenNames v13
      obtain ⟨v15, e, h14⟩ : ∃ y, y = v13 ∧ Kept a (y) := ⟨_, rfl, by
        refine State.reach_kept ?_
        exact h
        ⟩
      rw [← e]
      clear e v13
      refine State.emuSend_kept ?_
      exact h14

theorem State.emuPins_kept {a s y1 y2} (h : Kept a s) : Kept a (State.emuPins s y1 y2) := by
  unfold State.emuPins
  extract_lets +onlyGivenNames v1
  obtain ⟨v2, e⟩ : ∃ y, y = v1 := ⟨_, rfl⟩
  rw [← e]
  clear e v1
  extract_lets +onlyGivenNames v3
  obtain ⟨v4, e⟩ : ∃ y, y = v3 := ⟨_, rfl⟩
  rw [← e]
  clear e v3
  extract_lets +onlyGivenNames v5
  obtain ⟨v6, e⟩ : ∃ y, y = v5 := ⟨_, rfl⟩
  rw [← e]
  clear e v5
  extract_lets +onlyGivenNames v7
  obtain ⟨v8, e⟩ : ∃ y, y = v7 := ⟨_, rfl⟩
  rw [← e]
  clear e v7
  extract_lets +onlyGivenNames v9
  obtain ⟨v10, e⟩ : ∃ y, y = v9 := ⟨_, rfl⟩
  rw [← e]
  clear e v9
  refine State.setEmu_kept ?_
  exact h

theorem emuRelease_kept {a y1 y2 y3 s} (h : Kept a s) : Kept a (emuRelease y1 y2 y3 s) := by
  unfold emuRelease
  extract_lets +onlyGivenNames v1
  obtain ⟨v2, e⟩ : ∃ y, y = v1 := ⟨_, rfl⟩
  rw [← e]
  clear e v1
  split
  · rename_i z3 z4
    refine State.emuPins_kept ?_
    refine State.setF_kept ?_
    refine State.setF_kept ?_
    refine State.setEmu_kept ?_
    exact h
  · rename_i z5 z6 z7
    extract_lets +onlyGivenNames v8
    obtain ⟨v9, e⟩ : ∃ y, y = v8 := ⟨_, rfl⟩
    rw [← e]
    clear e v8
    extract_lets +onlyGivenNames v10
    obtain ⟨v11, e⟩ : ∃ y, y = v10 := ⟨_, rfl⟩
    rw [← e]
    clear e v10
    extract_lets +onlyGivenNames v12
    obtain ⟨v13, e⟩ : ∃ y, y = v12 := ⟨_, rfl⟩
    rw [← e]
    clear e v12
    extract_lets +onlyGivenNames v14
    obtain ⟨v15, e⟩ : ∃ y, y = v14 := ⟨_, rfl⟩
    rw [← e]
    clear e v14
    extract_lets +onlyGivenNames v16
    obtain ⟨v17, e⟩ : ∃ y, y = v16 := ⟨_, rfl⟩
    rw [← e]
    clear e v16
    extract_lets +onlyGivenNames v18
    obtain ⟨v19, e⟩ : ∃ y, y = v18 := ⟨_, rfl⟩
    rw [← e]
    clear e v18
    extract_lets +onlyGivenNames v20
    obtain ⟨v21, e⟩ : ∃ y, y = v20 := ⟨_, rfl⟩
    rw [← e]
    clear e v20
    extract_lets +onlyGivenNames v22
    obtain ⟨v24, e, h23⟩ : ∃ y, y = v22 ∧ Kept a (y) := ⟨_, rfl, by
      refine State.setF_kept ?_
      refine State.setEmu_kept ?_
      exact h
      ⟩
    rw [← e]
    clear e v22
    extract_lets +onlyGivenNames v25
    obtain ⟨v27, e, h26⟩ : ∃ y, y = v25 ∧ Kept a (y) := ⟨_, rfl, by
      refine State.emuPins_kept ?_
      exact h23
      ⟩
    rw [← e]
    clear e v25
    refine Kept.ite ?_ ?_
    · refine State.posRaise_kept ?_
      refine State.setF_kept ?_
      exact h26
    · exact h26

theorem posEffect_kept {a y1 s1 s} (h : Kept a s) : Kept a (posEffect y1 s1 s) := by
  unfold posEffect
  split
  · rename_i z1 z2 z3
    extract_lets +onlyGivenNames v4
    obtain ⟨v5, e⟩ : ∃ y, y = v4 := ⟨_, rfl⟩
    rw [← e]
    clear e v4
    extract_lets +onlyGivenNames v6
    obtain ⟨v8, e, h7⟩ : ∃ y, y = v6 ∧ Kept a (y) := ⟨_, rfl, by
      refine Kept.ite ?_ ?_
      · refine State.setSc_kept ?_
        exact h
      · refine Kept.ite ?_ ?_
        · refine State.setF_kept ?_
          refine State.setSc_kept ?_
          exact h
        · exact h
      ⟩
    rw [← e]
    clear e v6
    refine Kept.ite ?_ ?_
    · refine State.setSc_kept ?_
      refine State.setWord_kept ?_
      exact h7
    · exact h7
  · rename_i z9 z10
    split
    · rename_i z11 z12 z13
      refine Kept.ite ?_ ?_
      · refine State.setF_kept ?_
        refine State.setEnc_kept ?_
        exact h
      · exact h
    · rename_i z14 z15
      split
      · rename_i z16 z17 z18
        refine Kept.ite ?_ ?_
        · refine State.setEnc_kept ?_
          exact h
        · exact h
      · rename_i z19 z20
        split
        · rename_i z21 z22 z23
          refine Kept.ite ?_ ?_
          · extract_lets +onlyGivenNames v24
            obtain ⟨v26, e, h25⟩ : ∃ y, y = v24 ∧ Kept a (y) := ⟨_, rfl, by
              refine State.setHall_kept ?_
              exact h
              ⟩
            rw [← e]
            clear e v24
            split
            · rename_i z27 z28 z29
              refine State.setF_kept ?_
              exact h25
            · rename_i z30 z31
              exact h25
          · exact h
        · rename_i z32 z33
          split
          · rename_i z34 z35 z36
            refine State.setF_kept ?_
            exact h
          · rename_i z37 z38
            split
            · rename_i z39 z40 z41
              refine Kept.ite ?_ ?_
              · refine State.setF_kept ?_
                refine State.setEmu_kept ?_
                exact h
              · exact h
            · rename_i z42 z43
              exact h

end Sys2Proof.Machine
end

