-- ==== Sys2Proof/Laws/KeptAuxAxes.lean ====
section
/-! SUPPORT. Every operation of Machine/AuxAxes.lean keeps the queue and the canonical tables (`Kept`). -/

set_option linter.unusedVariables false

namespace Sys2Proof.Machine

open Sys2Proof

theorem State.setAux_kept {a s y1 y2} (h : Kept a s) : Kept a (State.setAux s y1 y2) := by
  unfold State.setAux
  refine State.setAuxs_kept ?_ ?_
  · exact h
  · intro x1
    exact twf_tset _ _ x1

theorem State.auxRaise_kept {a s y1 y2} (h : Kept a s) : Kept a (State.auxRaise s y1 y2) := by
  unfold State.auxRaise
  refine State.raise_kept ?_
  exact h

theorem State.auxRefresh_kept {a s} (h : Kept a s) : Kept a (State.auxRefresh s) := by
  unfold State.auxRefresh
  refine Kept.foldl ?_ ?_
  · exact h
  · intro t1 x2 h3
    extract_lets +onlyGivenNames v4
    obtain ⟨v6, e, h5⟩ : ∃ y, y = v4 ∧ Kept a (y) := ⟨_, rfl, by
      refine State.setF_kept ?_
      exact h3
      ⟩
    rw [← e]
    clear e v4
    extract_lets +onlyGivenNames v7
    obtain ⟨v9, e, h8⟩ : ∃ y, y = v7 ∧ Kept a (y) := ⟨_, rfl, by
      unfold v7
      split
      · rename_i z10 z11 z12
        refine State.setF_kept ?_
        refine State.setF_kept ?_
        exact h5
      · rename_i z13 z14
        refine State.setF_kept ?_
        exact h5
      ⟩
    rw [← e]
    clear e v7
    refine State.setF_kept ?_
    exact h8

theorem State.auxNotice_kept {a s y1 y2 y3} (h : Kept a s) : Kept a (State.auxNotice s y1 y2 y3) := by
  unfold State.auxNotice
  refine Kept.ite ?_ ?_
  · exact h
  · refine State.sendMsg_kept ?_
    exact h

theorem State.auxEnd_kept {a s y1 y2 y3} (h : Kept a s) : Kept a (State.auxEnd s y1 y2 y3) := by
  unfold State.auxEnd
  refine State.auxRefresh_kept ?_
  refine State.auxNotice_kept ?_
  refine State.setAuxMoves_kept ?_
  exact h

theorem State.auxFlush_kept {a s y1 y2} (h : Kept a s) : Kept a (State.auxFlush s y1 y2) := by
  unfold State.auxFlush
  refine Kept.foldl ?_ ?_
  · exact h
  · intro t1 x2 h3
    refine State.auxEnd_kept ?_
    exact h3

theorem State.auxPlan_kept {a s y1} (h : Kept a s) : Kept a (State.auxPlan s y1) := by
  unfold State.auxPlan
  extract_lets +onlyGivenNames v1
  obtain ⟨v2, e⟩ : ∃ y, y = v1 := ⟨_, rfl⟩
  rw [← e]
  clear e v1
  extract_lets +onlyGivenNames v3
  obtain ⟨v5, e, h4⟩ : ∃ y, y = v3 ∧ Kept a (y) := ⟨_, rfl, by
    refine State.setAuxStops_kept ?_
    exact h
    ⟩
  rw [← e]
  clear e v3
  extract_lets +onlyGivenNames v6
  obtain ⟨v8, e, h7⟩ : ∃ y, y = v6 ∧ Kept a (y) := ⟨_, rfl, by
    refine Kept.foldl ?_ ?_
    · exact h4
    · intro t9 x10 h11
      extract_lets +onlyGivenNames v12
      obtain ⟨v13, e⟩ : ∃ y, y = v12 := ⟨_, rfl⟩
      rw [← e]
      clear e v12
      extract_lets +onlyGivenNames v14
      obtain ⟨v16, e, h15⟩ : ∃ y, y = v14 ∧ Kept a (y) := ⟨_, rfl, by
        refine State.setAuxMoves_kept ?_
        exact h11
        ⟩
      rw [← e]
      clear e v14
      extract_lets +onlyGivenNames v17
      obtain ⟨v19, e, h18⟩ : ∃ y, y = v17 ∧ Kept a (y) := ⟨_, rfl, by
        refine State.auxFlush_kept ?_
        exact h15
        ⟩
      rw [← e]
      clear e v17
      refine Kept.foldl ?_ ?_
      · exact h18
      · intro t20 x21 h22
        split
        · rename_i z23 z24 z25
          refine Kept.ite ?_ ?_
          · refine State.setAux_kept ?_
            exact h22
          · exact h22
        · rename_i z26 z27
          exact h22
    ⟩
  rw [← e]
  clear e v6
  refine Kept.foldl ?_ ?_
  · exact h7
  · intro t28 x29 h30
    split
    · rename_i z31 z32 z33
      extract_lets +onlyGivenNames v34
      obtain ⟨v36, e, h35⟩ : ∃ y, y = v34 ∧ Kept a (y) := ⟨_, rfl, by
        refine Kept.foldl ?_ ?_
        · exact h30
        · intro t37 x38 h39
          refine State.setAux_kept ?_
          exact h39
        ⟩
      rw [← e]
      clear e v34
      refine State.auxEnd_kept ?_
      exact h35
    · rename_i z40 z41
      exact h30

theorem auxMove_kept {a y1 s} (h : Kept a s) : Kept a (auxMove y1 s) := by
  unfold auxMove
  extract_lets +onlyGivenNames v1
  obtain ⟨v2, e⟩ : ∃ y, y = v1 := ⟨_, rfl⟩
  rw [← e]
  clear e v1
  refine Kept.ite ?_ ?_
  · exact h
  · refine State.arrive_kept ?_ ?_
    · exact h
    · intro x3 h4
      extract_lets +onlyGivenNames v5
      obtain ⟨v6, e⟩ : ∃ y, y = v5 := ⟨_, rfl⟩
      rw [← e]
      clear e v5
      split
      · rename_i z7 z8 z9 z10
        refine State.refuse_kept ?_
        exact h4
      · rename_i z11 z12 z13 z14 z15
        refine State.refuse_kept ?_
        exact h4
      · rename_i z16 z17 z18 z19
        refine Kept.ite ?_ ?_
        · refine State.refuse_kept ?_
          exact h4
        · split
          · rename_i z20 z21
            refine State.refuse_kept ?_
            exact h4
          · rename_i z22 z23 z24
            refine State.auxRefresh_kept ?_
            refine State.setAuxNext_kept ?_
            refine State.setAuxMoves_kept ?_
            exact h4

theorem State.auxStopAt_kept {a s y1 y2} (h : Kept a s) : Kept a (State.auxStopAt s y1 y2) := by
  unfold State.auxStopAt
  refine State.setAuxStops_kept ?_
  exact h

theorem auxStop_kept {a y1 s} (h : Kept a s) : Kept a (auxStop y1 s) := by
  unfold auxStop
  refine State.arrive_kept ?_ ?_
  · exact h
  · intro x1 h2
    refine Kept.ite ?_ ?_
    · refine State.refuse_kept ?_
      exact h2
    · refine Kept.ite ?_ ?_
      · refine State.refuse_kept ?_
        exact h2
      · refine Kept.ite ?_ ?_
        · refine State.refuse_kept ?_
          exact h2
        · refine State.whenDue_kept ?_ ?_
          · exact h2
          · intro x3 h4
            refine State.auxStopAt_kept ?_
            exact h4

theorem State.moveBegin_kept {a s y1 y2} (h : Kept a s) : Kept a (State.moveBegin s y1 y2) := by
  unfold State.moveBegin
  extract_lets +onlyGivenNames v1
  obtain ⟨v2, e⟩ : ∃ y, y = v1 := ⟨_, rfl⟩
  rw [← e]
  clear e v1
  extract_lets +onlyGivenNames v3
  obtain ⟨v4, e⟩ : ∃ y, y = v3 := ⟨_, rfl⟩
  rw [← e]
  clear e v3
  refine Kept.ite ?_ ?_
  · extract_lets +onlyGivenNames v5
    obtain ⟨v7, e, h6⟩ : ∃ y, y = v5 ∧ Kept a (y) := ⟨_, rfl, by
      refine State.auxEnd_kept ?_
      exact h
      ⟩
    rw [← e]
    clear e v5
    extract_lets +onlyGivenNames v8
    obtain ⟨v10, e, h9⟩ : ∃ y, y = v8 ∧ Kept a (y) := ⟨_, rfl, by
      refine State.auxFlush_kept ?_
      exact h6
      ⟩
    rw [← e]
    clear e v8
    refine Kept.foldl ?_ ?_
    · exact h9
    · intro t11 x12 h13
      refine State.auxRaise_kept ?_
      refine State.setF_kept ?_
      exact h13
  · extract_lets +onlyGivenNames v14
    obtain ⟨v15, e⟩ : ∃ y, y = v14 := ⟨_, rfl⟩
    rw [← e]
    clear e v14
    extract_lets +onlyGivenNames v16
    obtain ⟨v17, e⟩ : ∃ y, y = v16 := ⟨_, rfl⟩
    rw [← e]
    clear e v16
    extract_lets +onlyGivenNames v18
    obtain ⟨v19, e⟩ : ∃ y, y = v18 := ⟨_, rfl⟩
    rw [← e]
    clear e v18
    refine State.auxRefresh_kept ?_
    refine State.setAuxMoves_kept ?_
    exact h

theorem moveStart_kept {a y1 y2 s} (h : Kept a s) : Kept a (moveStart y1 y2 s) := by
  unfold moveStart
  refine Kept.ite ?_ ?_
  · exact h
  · extract_lets +onlyGivenNames v1
    obtain ⟨v3, e, h2⟩ : ∃ y, y = v1 ∧ Kept a (y) := ⟨_, rfl, by
      refine State.auxPlan_kept ?_
      refine State.reach_kept ?_
      exact h
      ⟩
    rw [← e]
    clear e v1
    split
    · rename_i z4 z5
      exact h2
    · rename_i z6 z7 z8
      extract_lets +onlyGivenNames v9
      obtain ⟨v10, e⟩ : ∃ y, y = v9 := ⟨_, rfl⟩
      rw [← e]
      clear e v9
      extract_lets +onlyGivenNames v11
      obtain ⟨v12, e⟩ : ∃ y, y = v11 := ⟨_, rfl⟩
      rw [← e]
      clear e v11
      refine Kept.ite ?_ ?_
      · exact h2
      · extract_lets +onlyGivenNames v13
        obtain ⟨v14, e⟩ : ∃ y, y = v13 := ⟨_, rfl⟩
        rw [← e]
        clear e v13
        refine Kept.ite ?_ ?_
        · refine Kept.ite ?_ ?_
          · exact h2
          · extract_lets +onlyGivenNames v15
            obtain ⟨v17, e, h16⟩ : ∃ y, y = v15 ∧ Kept a (y) := ⟨_, rfl, by
              refine State.setAuxMoves_kept ?_
              exact h2
              ⟩
            rw [← e]
            clear e v15
            refine Kept.foldl ?_ ?_
            · exact h16
            · intro t18 x19 h20
              refine State.auxRaise_kept ?_
              refine State.setF_kept ?_
              exact h20
        · refine State.moveBegin_kept ?_
          exact h2

theorem State.auxLand_kept {a s y1 y2} (h : Kept a s) : Kept a (State.auxLand s y1 y2) := by
  unfold State.auxLand
  refine Kept.foldl ?_ ?_
  · exact h
  · intro t1 x2 h3
    refine State.setAux_kept ?_
    exact h3

theorem moveComplete_kept {a y1 y2 s} (h : Kept a s) : Kept a (moveComplete y1 y2 s) := by
  unfold moveComplete
  refine Kept.ite ?_ ?_
  · exact h
  · extract_lets +onlyGivenNames v1
    obtain ⟨v3, e, h2⟩ : ∃ y, y = v1 ∧ Kept a (y) := ⟨_, rfl, by
      refine State.auxPlan_kept ?_
      refine State.reach_kept ?_
      exact h
      ⟩
    rw [← e]
    clear e v1
    split
    · rename_i z4 z5 z6
      split
      · rename_i z7 z8 z9
        refine Kept.ite ?_ ?_
        · refine State.auxEnd_kept ?_
          refine State.auxLand_kept ?_
          exact h2
        · exact h2
      · rename_i z10 z11
        exact h2
    · rename_i z12 z13
      exact h2

theorem settleTimeout_kept {a y1 s} (h : Kept a s) : Kept a (settleTimeout y1 s) := by
  unfold settleTimeout
  split
  · rename_i z1 z2 z3
    split
    · rename_i z4 z5 z6
      refine Kept.ite ?_ ?_
      · exact h
      · extract_lets +onlyGivenNames v7
        obtain ⟨v8, e⟩ : ∃ y, y = v7 := ⟨_, rfl⟩
        rw [← e]
        clear e v7
        extract_lets +onlyGivenNames v9
        obtain ⟨v11, e, h10⟩ : ∃ y, y = v9 ∧ Kept a (y) := ⟨_, rfl, by
          refine State.reach_kept ?_
          exact h
          ⟩
        rw [← e]
        clear e v9
        extract_lets +onlyGivenNames v12
        obtain ⟨v13, e⟩ : ∃ y, y = v12 := ⟨_, rfl⟩
        rw [← e]
        clear e v12
        extract_lets +onlyGivenNames v14
        obtain ⟨v16, e, h15⟩ : ∃ y, y = v14 ∧ Kept a (y) := ⟨_, rfl, by
          refine State.auxEnd_kept ?_
          refine State.auxLand_kept ?_
          exact h10
          ⟩
        rw [← e]
        clear e v14
        refine Kept.foldl ?_ ?_
        · exact h15
        · intro t17 x18 h19
          refine State.auxRaise_kept ?_
          refine State.setF_kept ?_
          exact h19
    · rename_i z20 z21
      exact h
  · rename_i z22 z23
    exact h

theorem jogAct_kept {a y1 y2 s} (h : Kept a s) : Kept a (jogAct y1 y2 s) := by
  unfold jogAct
  refine Kept.ite ?_ ?_
  · refine State.auxRaise_kept ?_
    refine State.setF_kept ?_
    exact h
  · extract_lets +onlyGivenNames v1
    obtain ⟨v2, e⟩ : ∃ y, y = v1 := ⟨_, rfl⟩
    rw [← e]
    clear e v1
    extract_lets +onlyGivenNames v3
    obtain ⟨v4, e⟩ : ∃ y, y = v3 := ⟨_, rfl⟩
    rw [← e]
    clear e v3
    extract_lets +onlyGivenNames v5
    obtain ⟨v6, e⟩ : ∃ y, y = v5 := ⟨_, rfl⟩
    rw [← e]
    clear e v5
    refine State.setAux_kept ?_
    exact h

theorem jog_kept {a y1 y2 s} (h : Kept a s) : Kept a (jog y1 y2 s) := by
  unfold jog
  extract_lets +onlyGivenNames v1
  obtain ⟨v2, e⟩ : ∃ y, y = v1 := ⟨_, rfl⟩
  rw [← e]
  clear e v1
  refine State.arrive_kept ?_ ?_
  · exact h
  · intro x3 h4
    refine Kept.ite ?_ ?_
    · refine State.refuse_kept ?_
      exact h4
    · refine Kept.ite ?_ ?_
      · refine State.refuse_kept ?_
        exact h4
      · refine Kept.ite ?_ ?_
        · refine State.refuse_kept ?_
          exact h4
        · refine Kept.ite ?_ ?_
          · refine State.refuse_kept ?_
            exact h4
          · refine State.whenDue_kept ?_ ?_
            · exact h4
            · intro x5 h6
              refine jogAct_kept ?_
              exact h6

theorem State.auxCommand_kept {a s y1 y2 y3} (h : Kept a s) : Kept a (Prod.snd (Prod.snd (Prod.snd (Prod.snd (State.auxCommand s y1 y2 y3))))) := by
  unfold State.auxCommand
  extract_lets +onlyGivenNames v1
  obtain ⟨v2, e⟩ : ∃ y, y = v1 := ⟨_, rfl⟩
  rw [← e]
  clear e v1
  refine Kept.iteOf (fun p => Prod.snd (Prod.snd (Prod.snd (Prod.snd (p))))) ?_ ?_
  · extract_lets +onlyGivenNames v3
    obtain ⟨v5, e, h4⟩ : ∃ y, y = v3 ∧ Kept a (Prod.snd (Prod.snd (Prod.snd (y)))) := ⟨_, rfl, by
      refine State.cycleSetpt_kept ?_
      exact h
      ⟩
    rw [← e]
    clear e v3
    exact h4
  · extract_lets +onlyGivenNames v6
    obtain ⟨v7, e⟩ : ∃ y, y = v6 := ⟨_, rfl⟩
    rw [← e]
    clear e v6
    extract_lets +onlyGivenNames v8
    obtain ⟨v10, e, h9⟩ : ∃ y, y = v8 ∧ Kept a (y) := ⟨_, rfl, by
      refine State.setLoop_kept ?_
      exact h
      ⟩
    rw [← e]
    clear e v8
    split
    · rename_i z11 z12 z13
      split
      · rename_i z14 z15 z16
        extract_lets +onlyGivenNames v17
        obtain ⟨v18, e⟩ : ∃ y, y = v17 := ⟨_, rfl⟩
        rw [← e]
        clear e v17
        refine State.setAux_kept ?_
        exact h9
      · rename_i z19 z20
        exact h9
    · rename_i z21 z22
      split
      · rename_i z23 z24 z25
        extract_lets +onlyGivenNames v26
        obtain ⟨v27, e⟩ : ∃ y, y = v26 := ⟨_, rfl⟩
        rw [← e]
        clear e v26
        extract_lets +onlyGivenNames v28
        obtain ⟨v29, e⟩ : ∃ y, y = v28 := ⟨_, rfl⟩
        rw [← e]
        clear e v28
        extract_lets +onlyGivenNames v30
        obtain ⟨v31, e⟩ : ∃ y, y = v30 := ⟨_, rfl⟩
        rw [← e]
        clear e v30
        refine State.auxRefresh_kept ?_
        refine State.setAux_kept ?_
        exact h9
      · rename_i z32 z33
        exact h9

theorem State.auxHold_kept {a s y1 y2 y3} (h : Kept a s) : Kept a (State.auxHold s y1 y2 y3) := by
  unfold State.auxHold
  extract_lets +onlyGivenNames v1
  obtain ⟨v2, e⟩ : ∃ y, y = v1 := ⟨_, rfl⟩
  rw [← e]
  clear e v1
  refine Kept.ite ?_ ?_
  · extract_lets +onlyGivenNames v3
    obtain ⟨v5, e, h4⟩ : ∃ y, y = v3 ∧ Kept a (y) := ⟨_, rfl, by
      refine State.setAux_kept ?_
      exact h
      ⟩
    rw [← e]
    clear e v3
    refine Kept.ite ?_ ?_
    · refine State.setF_kept ?_
      refine State.setAux_kept ?_
      exact h4
    · exact h4
  · refine State.setAux_kept ?_
    exact h

theorem State.auxMode_kept {a s y1 y2 y3 y4} (h : Kept a s) : Kept a (State.auxMode s y1 y2 y3 y4) := by
  unfold State.auxMode
  refine Kept.ite ?_ ?_
  · exact h
  · extract_lets +onlyGivenNames v1
    obtain ⟨v2, e⟩ : ∃ y, y = v1 := ⟨_, rfl⟩
    rw [← e]
    clear e v1
    extract_lets +onlyGivenNames v3
    obtain ⟨v4, e⟩ : ∃ y, y = v3 := ⟨_, rfl⟩
    rw [← e]
    clear e v3
    extract_lets +onlyGivenNames v5
    obtain ⟨v6, e⟩ : ∃ y, y = v5 := ⟨_, rfl⟩
    rw [← e]
    clear e v5
    extract_lets +onlyGivenNames v7
    obtain ⟨v8, e⟩ : ∃ y, y = v7 := ⟨_, rfl⟩
    rw [← e]
    clear e v7
    extract_lets +onlyGivenNames v9
    obtain ⟨v10, e⟩ : ∃ y, y = v9 := ⟨_, rfl⟩
    rw [← e]
    clear e v9
    refine Kept.ite ?_ ?_
    · exact h
    · refine State.setAux_kept ?_
      exact h

theorem auxPositionCycle_kept {a y1 y2 s} (h : Kept a s) : Kept a (auxPositionCycle y1 y2 s) := by
  unfold auxPositionCycle
  extract_lets +onlyGivenNames v1
  obtain ⟨v2, e⟩ : ∃ y, y = v1 := ⟨_, rfl⟩
  rw [← e]
  clear e v1
  extract_lets +onlyGivenNames v3
  obtain ⟨v4, e⟩ : ∃ y, y = v3 := ⟨_, rfl⟩
  rw [← e]
  clear e v3
  refine Kept.ite ?_ ?_
  · exact h
  · extract_lets +onlyGivenNames v5
    obtain ⟨v7, e, h6⟩ : ∃ y, y = v5 ∧ Kept a (y) := ⟨_, rfl, by
      refine State.abandoned_kept ?_
      refine State.takeTrig_kept ?_
      refine State.reach_kept ?_
      exact h
      ⟩
    rw [← e]
    clear e v5
    extract_lets +onlyGivenNames v8
    obtain ⟨v10, e, h9⟩ : ∃ y, y = v8 ∧ Kept a (y) := ⟨_, rfl, by
      refine State.auxPlan_kept ?_
      refine State.applyPending_kept ?_
      exact h6
      ⟩
    rw [← e]
    clear e v8
    extract_lets +onlyGivenNames v11
    refine Kept.ite ?_ ?_
    · unfold v11
      refine State.setAux_kept ?_
      refine State.noMeasure_kept ?_
      exact h9
    · extract_lets +onlyGivenNames v12
      obtain ⟨v13, e⟩ : ∃ y, y = v12 := ⟨_, rfl⟩
      rw [← e]
      clear e v12
      extract_lets +onlyGivenNames v14
      obtain ⟨v16, e, h15⟩ : ∃ y, y = v14 ∧ Kept a (y) := ⟨_, rfl, by
        refine State.setLoop_kept ?_
        exact h9
        ⟩
      rw [← e]
      clear e v14
      extract_lets +onlyGivenNames v17
      obtain ⟨v18, e⟩ : ∃ y, y = v17 := ⟨_, rfl⟩
      rw [← e]
      clear e v17
      extract_lets +onlyGivenNames v19
      obtain ⟨v21, e, h20⟩ : ∃ y, y = v19 ∧ Kept a (y) := ⟨_, rfl, by
        refine Kept.ite ?_ ?_
        · exact h9
        · refine Kept.ite ?_ ?_
          · exact h15
          · refine State.setAux_kept ?_
            exact h15
        ⟩
      rw [← e]
      clear e v19
      extract_lets +onlyGivenNames v22
      obtain ⟨v24, e, h23⟩ : ∃ y, y = v22 ∧ Kept a (Prod.snd (Prod.snd (Prod.snd (Prod.snd (y))))) := ⟨_, rfl, by
        refine State.auxCommand_kept ?_
        exact h20
        ⟩
      rw [← e]
      clear e v22
      extract_lets +onlyGivenNames v25
      obtain ⟨v27, e, h26⟩ : ∃ y, y = v25 ∧ Kept a (y) := ⟨_, rfl, by
        exact h23
        ⟩
      rw [← e]
      clear e v25
      extract_lets +onlyGivenNames v28
      obtain ⟨v29, e⟩ : ∃ y, y = v28 := ⟨_, rfl⟩
      rw [← e]
      clear e v28
      extract_lets +onlyGivenNames v30
      obtain ⟨v31, e⟩ : ∃ y, y = v30 := ⟨_, rfl⟩
      rw [← e]
      clear e v30
      extract_lets +onlyGivenNames v32
      obtain ⟨v33, e⟩ : ∃ y, y = v32 := ⟨_, rfl⟩
      rw [← e]
      clear e v32
      extract_lets +onlyGivenNames v34
      obtain ⟨v35, e⟩ : ∃ y, y = v34 := ⟨_, rfl⟩
      rw [← e]
      clear e v34
      extract_lets +onlyGivenNames v36
      obtain ⟨v37, e⟩ : ∃ y, y = v36 := ⟨_, rfl⟩
      rw [← e]
      clear e v36
      extract_lets +onlyGivenNames v38
      obtain ⟨v40, e, h39⟩ : ∃ y, y = v38 ∧ Kept a (Prod.snd (y)) := ⟨_, rfl, by
        refine State.cycleCore_kept ?_
        exact h26
        ⟩
      rw [← e]
      clear e v38
      extract_lets +onlyGivenNames v41
      obtain ⟨v43, e, h42⟩ : ∃ y, y = v41 ∧ Kept a (y) := ⟨_, rfl, by
        exact h39
        ⟩
      rw [← e]
      clear e v41
      extract_lets +onlyGivenNames v44
      obtain ⟨v45, e⟩ : ∃ y, y = v44 := ⟨_, rfl⟩
      rw [← e]
      clear e v44
      extract_lets +onlyGivenNames v46
      obtain ⟨v48, e, h47⟩ : ∃ y, y = v46 ∧ Kept a (y) := ⟨_, rfl, by
        refine State.setLoop_kept ?_
        exact h42
        ⟩
      rw [← e]
      clear e v46
      extract_lets +onlyGivenNames v49
      obtain ⟨v51, e, h50⟩ : ∃ y, y = v49 ∧ Kept a (y) := ⟨_, rfl, by
        refine State.setF_kept ?_
        refine State.setF_kept ?_
        exact h47
        ⟩
      rw [← e]
      clear e v49
      extract_lets +onlyGivenNames v52
      obtain ⟨v54, e, h53⟩ : ∃ y, y = v52 ∧ Kept a (y) := ⟨_, rfl, by
        refine State.etolCheck_kept ?_
        exact h50
        ⟩
      rw [← e]
      clear e v52
      extract_lets +onlyGivenNames v55
      obtain ⟨v57, e, h56⟩ : ∃ y, y = v55 ∧ Kept a (y) := ⟨_, rfl, by
        refine State.auxMode_kept ?_
        refine State.auxHold_kept ?_
        exact h53
        ⟩
      rw [← e]
      clear e v55
      unfold v11
      refine State.setAux_kept ?_
      refine State.saveStates_kept ?_
      exact h56

theorem holdiSet_kept {a y1 s} (h : Kept a s) : Kept a (holdiSet y1 s) := by
  unfold holdiSet
  extract_lets +onlyGivenNames v1
  obtain ⟨v2, e⟩ : ∃ y, y = v1 := ⟨_, rfl⟩
  rw [← e]
  clear e v1
  split
  · rename_i z3 z4
    exact h
  · rename_i z5 z6 z7
    refine Kept.ite ?_ ?_
    · exact h
    · extract_lets +onlyGivenNames v8
      obtain ⟨v9, e⟩ : ∃ y, y = v8 := ⟨_, rfl⟩
      rw [← e]
      clear e v8
      refine State.setF_kept ?_
      refine State.setAux_kept ?_
      refine State.reach_kept ?_
      exact h

theorem State.sendAux_kept {a s y1 y2 y3 y4 y5 y6} (h : Kept a s) : Kept a (State.sendAux s y1 y2 y3 y4 y5 y6) := by
  unfold State.sendAux
  extract_lets +onlyGivenNames v1
  obtain ⟨v2, e⟩ : ∃ y, y = v1 := ⟨_, rfl⟩
  rw [← e]
  clear e v1
  extract_lets +onlyGivenNames v3
  obtain ⟨v4, e⟩ : ∃ y, y = v3 := ⟨_, rfl⟩
  rw [← e]
  clear e v3
  extract_lets +onlyGivenNames v5
  obtain ⟨v6, e⟩ : ∃ y, y = v5 := ⟨_, rfl⟩
  rw [← e]
  clear e v5
  extract_lets +onlyGivenNames v7
  obtain ⟨v9, e, h8⟩ : ∃ y, y = v7 ∧ Kept a (y) := ⟨_, rfl, by
    refine State.send_kept ?_
    exact h
    ⟩
  rw [← e]
  clear e v7
  extract_lets +onlyGivenNames v10
  obtain ⟨v12, e, h11⟩ : ∃ y, y = v10 ∧ Kept a (y) := ⟨_, rfl, by
    refine State.send_kept ?_
    exact h8
    ⟩
  rw [← e]
  clear e v10
  refine State.setF_kept ?_
  refine State.setAux_kept ?_
  exact h11

theorem State.auxModeApply_kept {a s y1 y2} (h : Kept a s) : Kept a (State.auxModeApply s y1 y2) := by
  unfold State.auxModeApply
  extract_lets +onlyGivenNames v1
  obtain ⟨v2, e⟩ : ∃ y, y = v1 := ⟨_, rfl⟩
  rw [← e]
  clear e v1
  extract_lets +onlyGivenNames v3
  obtain ⟨v4, e⟩ : ∃ y, y = v3 := ⟨_, rfl⟩
  rw [← e]
  clear e v3
  split
  · rename_i z5 z6 z7 z8
    refine Kept.ite ?_ ?_
    · exact h
    · extract_lets +onlyGivenNames v9
      obtain ⟨v11, e, h10⟩ : ∃ y, y = v9 ∧ Kept a (y) := ⟨_, rfl, by
        refine State.setF_kept ?_
        refine State.setAux_kept ?_
        exact h
        ⟩
      rw [← e]
      clear e v9
      extract_lets +onlyGivenNames v12
      obtain ⟨v13, e⟩ : ∃ y, y = v12 := ⟨_, rfl⟩
      rw [← e]
      clear e v12
      extract_lets +onlyGivenNames v14
      obtain ⟨v15, e⟩ : ∃ y, y = v14 := ⟨_, rfl⟩
      rw [← e]
      clear e v14
      extract_lets +onlyGivenNames v16
      obtain ⟨v17, e⟩ : ∃ y, y = v16 := ⟨_, rfl⟩
      rw [← e]
      clear e v16
      refine State.setLoop_kept ?_
      exact h10
  · rename_i z18 z19
    exact h

theorem State.auxHalt_kept {a s y1 y2} (h : Kept a s) : Kept a (State.auxHalt s y1 y2) := by
  unfold State.auxHalt
  extract_lets +onlyGivenNames v1
  obtain ⟨v3, e, h2⟩ : ∃ y, y = v1 ∧ Kept a (y) := ⟨_, rfl, by
    unfold v1
    split
    · rename_i z4 z5 z6
      extract_lets +onlyGivenNames v7
      obtain ⟨v9, e, h8⟩ : ∃ y, y = v7 ∧ Kept a (y) := ⟨_, rfl, by
        refine State.auxNotice_kept ?_
        exact h
        ⟩
      rw [← e]
      clear e v7
      extract_lets +onlyGivenNames v10
      obtain ⟨v11, e⟩ : ∃ y, y = v10 := ⟨_, rfl⟩
      rw [← e]
      clear e v10
      refine Kept.ite ?_ ?_
      · refine State.setAuxMoves_kept ?_
        exact h8
      · extract_lets +onlyGivenNames v12
        obtain ⟨v14, e, h13⟩ : ∃ y, y = v12 ∧ Kept a (y) := ⟨_, rfl, by
          refine State.setAuxMoves_kept ?_
          exact h8
          ⟩
        rw [← e]
        clear e v12
        refine State.setAuxStops_kept ?_
        exact h13
    · rename_i z15 z16
      exact h
    ⟩
  rw [← e]
  clear e v1
  extract_lets +onlyGivenNames v17
  obtain ⟨v19, e, h18⟩ : ∃ y, y = v17 ∧ Kept a (y) := ⟨_, rfl, by
    refine State.auxFlush_kept ?_
    exact h2
    ⟩
  rw [← e]
  clear e v17
  refine State.auxRefresh_kept ?_
  refine State.setAux_kept ?_
  exact h18

theorem State.auxFault_kept {a s y1} (h : Kept a s) : Kept a (State.auxFault s y1) := by
  unfold State.auxFault
  extract_lets +onlyGivenNames v1
  obtain ⟨v2, e⟩ : ∃ y, y = v1 := ⟨_, rfl⟩
  rw [← e]
  clear e v1
  extract_lets +onlyGivenNames v3
  obtain ⟨v5, e, h4⟩ : ∃ y, y = v3 ∧ Kept a (y) := ⟨_, rfl, by
    refine State.setF_kept ?_
    exact h
    ⟩
  rw [← e]
  clear e v3
  refine Kept.ite ?_ ?_
  · exact h4
  · refine State.auxRaise_kept ?_
    refine State.auxHalt_kept ?_
    exact h4

theorem auxCurrentCycle_kept {a y1 y2 s} (h : Kept a s) : Kept a (auxCurrentCycle y1 y2 s) := by
  unfold auxCurrentCycle
  extract_lets +onlyGivenNames v1
  obtain ⟨v2, e⟩ : ∃ y, y = v1 := ⟨_, rfl⟩
  rw [← e]
  clear e v1
  extract_lets +onlyGivenNames v3
  obtain ⟨v4, e⟩ : ∃ y, y = v3 := ⟨_, rfl⟩
  rw [← e]
  clear e v3
  refine Kept.ite ?_ ?_
  · exact h
  · extract_lets +onlyGivenNames v5
    obtain ⟨v7, e, h6⟩ : ∃ y, y = v5 ∧ Kept a (y) := ⟨_, rfl, by
      refine State.abandoned_kept ?_
      refine State.takeTrig_kept ?_
      refine State.reach_kept ?_
      exact h
      ⟩
    rw [← e]
    clear e v5
    extract_lets +onlyGivenNames v8
    obtain ⟨v10, e, h9⟩ : ∃ y, y = v8 ∧ Kept a (y) := ⟨_, rfl, by
      refine State.auxModeApply_kept ?_
      refine State.applyPending_kept ?_
      exact h6
      ⟩
    rw [← e]
    clear e v8
    extract_lets +onlyGivenNames v11
    obtain ⟨v12, e⟩ : ∃ y, y = v11 := ⟨_, rfl⟩
    rw [← e]
    clear e v11
    extract_lets +onlyGivenNames v13
    obtain ⟨v14, e⟩ : ∃ y, y = v13 := ⟨_, rfl⟩
    rw [← e]
    clear e v13
    extract_lets +onlyGivenNames v15
    obtain ⟨v16, e⟩ : ∃ y, y = v15 := ⟨_, rfl⟩
    rw [← e]
    clear e v15
    extract_lets +onlyGivenNames v17
    obtain ⟨v18, e⟩ : ∃ y, y = v17 := ⟨_, rfl⟩
    rw [← e]
    clear e v17
    refine Kept.ite ?_ ?_
    · refine State.sendAux_kept ?_
      refine State.noMeasure_kept ?_
      exact h9
    · extract_lets +onlyGivenNames v19
      obtain ⟨v21, e, h20⟩ : ∃ y, y = v19 ∧ Kept a (y) := ⟨_, rfl, by
        refine Kept.ite ?_ ?_
        · exact h9
        · refine State.setLoop_kept ?_
          exact h9
        ⟩
      rw [← e]
      clear e v19
      extract_lets +onlyGivenNames v22
      obtain ⟨v23, e⟩ : ∃ y, y = v22 := ⟨_, rfl⟩
      rw [← e]
      clear e v22
      extract_lets +onlyGivenNames v24
      obtain ⟨v25, e⟩ : ∃ y, y = v24 := ⟨_, rfl⟩
      rw [← e]
      clear e v24
      extract_lets +onlyGivenNames v26
      obtain ⟨v27, e⟩ : ∃ y, y = v26 := ⟨_, rfl⟩
      rw [← e]
      clear e v26
      extract_lets +onlyGivenNames v28
      obtain ⟨v29, e⟩ : ∃ y, y = v28 := ⟨_, rfl⟩
      rw [← e]
      clear e v28
      extract_lets +onlyGivenNames v30
      obtain ⟨v31, e⟩ : ∃ y, y = v30 := ⟨_, rfl⟩
      rw [← e]
      clear e v30
      extract_lets +onlyGivenNames v32
      obtain ⟨v33, e⟩ : ∃ y, y = v32 := ⟨_, rfl⟩
      rw [← e]
      clear e v32
      extract_lets +onlyGivenNames v34
      obtain ⟨v35, e⟩ : ∃ y, y = v34 := ⟨_, rfl⟩
      rw [← e]
      clear e v34
      extract_lets +onlyGivenNames v36
      obtain ⟨v38, e, h37⟩ : ∃ y, y = v36 ∧ Kept a (y) := ⟨_, rfl, by
        refine State.setLoop_kept ?_
        exact h20
        ⟩
      rw [← e]
      clear e v36
      extract_lets +onlyGivenNames v39
      obtain ⟨v41, e, h40⟩ : ∃ y, y = v39 ∧ Kept a (y) := ⟨_, rfl, by
        refine Kept.ite ?_ ?_
        · exact h37
        · refine State.warn_kept ?_
          refine State.incF_kept ?_
          refine State.setF_kept ?_
          exact h37
        ⟩
      rw [← e]
      clear e v39
      extract_lets +onlyGivenNames v42
      obtain ⟨v44, e, h43⟩ : ∃ y, y = v42 ∧ Kept a (y) := ⟨_, rfl, by
        refine Kept.ite ?_ ?_
        · refine State.auxFault_kept ?_
          refine State.severe_kept ?_
          exact h40
        · exact h40
        ⟩
      rw [← e]
      clear e v42
      extract_lets +onlyGivenNames v45
      obtain ⟨v46, e⟩ : ∃ y, y = v45 := ⟨_, rfl⟩
      rw [← e]
      clear e v45
      extract_lets +onlyGivenNames v47
      obtain ⟨v48, e⟩ : ∃ y, y = v47 := ⟨_, rfl⟩
      rw [← e]
      clear e v47
      extract_lets +onlyGivenNames v49
      obtain ⟨v50, e⟩ : ∃ y, y = v49 := ⟨_, rfl⟩
      rw [← e]
      clear e v49
      extract_lets +onlyGivenNames v51
      obtain ⟨v52, e⟩ : ∃ y, y = v51 := ⟨_, rfl⟩
      rw [← e]
      clear e v51
      extract_lets +onlyGivenNames v53
      obtain ⟨v54, e⟩ : ∃ y, y = v53 := ⟨_, rfl⟩
      rw [← e]
      clear e v53
      extract_lets +onlyGivenNames v55
      obtain ⟨v57, e, h56⟩ : ∃ y, y = v55 ∧ Kept a (Prod.snd (y)) := ⟨_, rfl, by
        refine Kept.iteOf (fun p => Prod.snd (p)) ?_ ?_
        · refine State.setFi_kept ?_
          refine State.setLoop_kept ?_
          exact h43
        · refine State.cycleCore_kept ?_
          exact h43
        ⟩
      rw [← e]
      clear e v55
      extract_lets +onlyGivenNames v58
      obtain ⟨v60, e, h59⟩ : ∃ y, y = v58 ∧ Kept a (y) := ⟨_, rfl, by
        refine State.saveStates_kept ?_
        refine State.setF_kept ?_
        exact h56
        ⟩
      rw [← e]
      clear e v58
      refine Kept.ite ?_ ?_
      · refine State.sendAux_kept ?_
        exact h59
      · refine State.sendAux_kept ?_
        exact h59

theorem auxSetpoint_kept {a y1 y2 s} (h : Kept a s) : Kept a (auxSetpoint y1 y2 s) := by
  unfold auxSetpoint
  extract_lets +onlyGivenNames v1
  obtain ⟨v2, e⟩ : ∃ y, y = v1 := ⟨_, rfl⟩
  rw [← e]
  clear e v1
  refine Kept.ite ?_ ?_
  · refine State.arrive_kept ?_ ?_
    · exact h
    · intro x3 h4
      refine State.refuse_kept ?_
      exact h4
  · refine Kept.ite ?_ ?_
    · refine State.arrive_kept ?_ ?_
      · exact h
      · intro x5 h6
        refine State.refuse_kept ?_
        exact h6
    · refine setpointAccept_kept ?_
      exact h

theorem State.hubSample_kept {a s y1 y2 y3 y4 y5 y6 y7 y8 y9} (h : Kept a s) : Kept a (State.hubSample s y1 y2 y3 y4 y5 y6 y7 y8 y9) := by
  unfold State.hubSample
  extract_lets +onlyGivenNames v1
  obtain ⟨v2, e⟩ : ∃ y, y = v1 := ⟨_, rfl⟩
  rw [← e]
  clear e v1
  extract_lets +onlyGivenNames v3
  obtain ⟨v4, e⟩ : ∃ y, y = v3 := ⟨_, rfl⟩
  rw [← e]
  clear e v3
  extract_lets +onlyGivenNames v5
  obtain ⟨v7, e, h6⟩ : ∃ y, y = v5 ∧ Kept a (y) := ⟨_, rfl, by
    refine State.setAux_kept ?_
    exact h
    ⟩
  rw [← e]
  clear e v5
  extract_lets +onlyGivenNames v8
  obtain ⟨v10, e, h9⟩ : ∃ y, y = v8 ∧ Kept a (y) := ⟨_, rfl, by
    refine State.setF_kept ?_
    refine State.setF_kept ?_
    refine State.setF_kept ?_
    exact h6
    ⟩
  rw [← e]
  clear e v8
  extract_lets +onlyGivenNames v11
  obtain ⟨v13, e, h12⟩ : ∃ y, y = v11 ∧ Kept a (y) := ⟨_, rfl, by
    refine State.setF_kept ?_
    refine State.setF_kept ?_
    refine State.setF_kept ?_
    exact h9
    ⟩
  rw [← e]
  clear e v11
  extract_lets +onlyGivenNames v14
  obtain ⟨v16, e, h15⟩ : ∃ y, y = v14 ∧ Kept a (y) := ⟨_, rfl, by
    refine State.setF_kept ?_
    refine State.setF_kept ?_
    exact h12
    ⟩
  rw [← e]
  clear e v14
  extract_lets +onlyGivenNames v17
  obtain ⟨v19, e, h18⟩ : ∃ y, y = v17 ∧ Kept a (y) := ⟨_, rfl, by
    refine State.setF_kept ?_
    exact h15
    ⟩
  rw [← e]
  clear e v17
  extract_lets +onlyGivenNames v20
  obtain ⟨v22, e, h21⟩ : ∃ y, y = v20 ∧ Kept a (y) := ⟨_, rfl, by
    refine Kept.ite ?_ ?_
    · refine Kept.ite ?_ ?_
      · refine State.auxRaise_kept ?_
        exact h18
      · exact h18
    · exact h15
    ⟩
  rw [← e]
  clear e v20
  refine Kept.ite ?_ ?_
  · refine State.auxFault_kept ?_
    exact h21
  · exact h21

theorem hubLinkTimeout_kept {a y1 s} (h : Kept a s) : Kept a (hubLinkTimeout y1 s) := by
  unfold hubLinkTimeout
  refine Kept.ite ?_ ?_
  · exact h
  · refine State.setF_kept ?_
    refine State.reach_kept ?_
    exact h

theorem State.auxCritical_kept {a s} (h : Kept a s) : Kept a (State.auxCritical s) := by
  unfold State.auxCritical
  refine State.auxStopAt_kept ?_
  exact h

theorem State.lockStop_kept {a s} (h : Kept a s) : Kept a (State.lockStop s) := by
  unfold State.lockStop
  refine Kept.foldl ?_ ?_
  · exact h
  · intro t1 x2 h3
    refine Kept.ite ?_ ?_
    · refine State.auxRaise_kept ?_
      refine State.setF_kept ?_
      refine State.auxStopAt_kept ?_
      exact h3
    · exact h3

theorem auxEffect_kept {a y1 s1 s} (h : Kept a s) : Kept a (auxEffect y1 s1 s) := by
  unfold auxEffect
  extract_lets +onlyGivenNames v1
  obtain ⟨v2, e⟩ : ∃ y, y = v1 := ⟨_, rfl⟩
  rw [← e]
  clear e v1
  refine Kept.ite ?_ ?_
  · refine Kept.ite ?_ ?_
    · extract_lets +onlyGivenNames v3
      obtain ⟨v4, e⟩ : ∃ y, y = v3 := ⟨_, rfl⟩
      rw [← e]
      clear e v3
      extract_lets +onlyGivenNames v5
      obtain ⟨v6, e⟩ : ∃ y, y = v5 := ⟨_, rfl⟩
      rw [← e]
      clear e v5
      extract_lets +onlyGivenNames v7
      obtain ⟨v9, e, h8⟩ : ∃ y, y = v7 ∧ Kept a (y) := ⟨_, rfl, by
        refine State.setAux_kept ?_
        exact h
        ⟩
      rw [← e]
      clear e v7
      refine State.setF_kept ?_
      refine State.setF_kept ?_
      exact h8
    · refine Kept.ite ?_ ?_
      · extract_lets +onlyGivenNames v10
        obtain ⟨v11, e⟩ : ∃ y, y = v10 := ⟨_, rfl⟩
        rw [← e]
        clear e v10
        extract_lets +onlyGivenNames v12
        obtain ⟨v14, e, h13⟩ : ∃ y, y = v12 ∧ Kept a (y) := ⟨_, rfl, by
          refine State.auxHalt_kept ?_
          exact h
          ⟩
        rw [← e]
        clear e v12
        refine State.setF_kept ?_
        refine State.setAux_kept ?_
        exact h13
      · exact h
  · refine Kept.ite ?_ ?_
    · refine State.setAux_kept ?_
      exact h
    · exact h

theorem auxLoopOff_kept {a y1 s1 s} (h : Kept a s) : Kept a (auxLoopOff y1 s1 s) := by
  unfold auxLoopOff
  refine Kept.ite ?_ ?_
  · extract_lets +onlyGivenNames v1
    obtain ⟨v2, e⟩ : ∃ y, y = v1 := ⟨_, rfl⟩
    rw [← e]
    clear e v1
    refine State.sendAux_kept ?_
    exact h
  · exact h

end Sys2Proof.Machine
end

