-- ==== Sys2Proof/Laws/KeptTimeBase.lean ====
section
/-! SUPPORT. Every operation of Machine/TimeBase.lean keeps the queue and the canonical tables (`Kept`). -/

set_option linter.unusedVariables false

namespace Sys2Proof.Machine

open Sys2Proof

theorem State.putPt_kept {a s y1 y2} (h : Kept a s) : Kept a (State.putPt s y1 y2) := by
  unfold State.putPt
  extract_lets +onlyGivenNames v1
  obtain ⟨v2, e⟩ : ∃ y, y = v1 := ⟨_, rfl⟩
  rw [← e]
  clear e v1
  refine State.setWord_kept ?_
  refine State.setWord_kept ?_
  refine State.setWord_kept ?_
  exact h

theorem State.setRate_kept {a s y1} (h : Kept a s) : Kept a (State.setRate s y1) := by
  unfold State.setRate
  refine State.setFi_kept ?_
  exact h

theorem ptStepJudge_kept {a s0 s} (h : Kept a s) : Kept a (ptStepJudge s0 s) := by
  unfold ptStepJudge
  extract_lets +onlyGivenNames v1
  obtain ⟨v2, e⟩ : ∃ y, y = v1 := ⟨_, rfl⟩
  rw [← e]
  clear e v1
  refine Kept.ite ?_ ?_
  · refine State.record7_kept ?_
    refine State.setF_kept ?_
    exact h
  · exact h

theorem ptRateEffect_kept {a s} (h : Kept a s) : Kept a (ptRateEffect s) := by
  unfold ptRateEffect
  extract_lets +onlyGivenNames v1
  obtain ⟨v2, e⟩ : ∃ y, y = v1 := ⟨_, rfl⟩
  rw [← e]
  clear e v1
  refine Kept.ite ?_ ?_
  · refine State.info_kept ?_
    refine State.setRate_kept ?_
    exact h
  · exact h

theorem State.ptRemember_kept {a s0 s} (h : Kept a s) : Kept a (State.ptRemember s0 s) := by
  unfold State.ptRemember
  refine Kept.ite ?_ ?_
  · exact h
  · refine State.setPtp_kept ?_
    exact h

theorem ptWriteEffect_kept {a s0 s} (h : Kept a s) : Kept a (ptWriteEffect s0 s) := by
  unfold ptWriteEffect
  extract_lets +onlyGivenNames v1
  obtain ⟨v3, e, h2⟩ : ∃ y, y = v1 ∧ Kept a (y) := ⟨_, rfl, by
    refine State.ptRemember_kept ?_
    refine ptRateEffect_kept ?_
    exact h
    ⟩
  rw [← e]
  clear e v1
  refine Kept.ite ?_ ?_
  · refine ptStepJudge_kept ?_
    exact h2
  · exact h2

theorem State.levelOn_kept {a s y1} (h : Kept a s) : Kept a (State.levelOn s y1) := by
  unfold State.levelOn
  refine State.setBasin_kept ?_
  exact h

theorem State.levelOff_kept {a s y1} (h : Kept a s) : Kept a (State.levelOff s y1) := by
  unfold State.levelOff
  refine State.setBasin_kept ?_
  exact h

theorem State.putAt_kept {a s y1} (h : Kept a s) : Kept a (State.putAt s y1) := by
  unfold State.putAt
  refine State.setTb_kept ?_
  exact h

theorem pllLock_kept {a s} (h : Kept a s) : Kept a (pllLock s) := by
  unfold pllLock
  refine Kept.ite ?_ ?_
  · exact h
  · refine State.setF_kept ?_
    refine State.putAt_kept ?_
    refine State.setMt_kept ?_
    refine State.setTb_kept ?_
    exact h

theorem timerefLoss_kept {a s} (h : Kept a s) : Kept a (timerefLoss s) := by
  unfold timerefLoss
  refine Kept.ite ?_ ?_
  · exact h
  · refine State.critical_kept ?_
    refine State.levelOn_kept ?_
    refine State.setF_kept ?_
    refine State.setF_kept ?_
    refine State.setTb_kept ?_
    exact h

theorem pllRelock_kept {a y1 s} (h : Kept a s) : Kept a (pllRelock y1 s) := by
  unfold pllRelock
  refine Kept.ite ?_ ?_
  · exact h
  · extract_lets +onlyGivenNames v1
    obtain ⟨v3, e, h2⟩ : ∃ y, y = v1 ∧ Kept a (y) := ⟨_, rfl, by
      refine State.levelOff_kept ?_
      exact h
      ⟩
    rw [← e]
    clear e v1
    refine Kept.ite ?_ ?_
    · refine State.setF_kept ?_
      refine State.setTb_kept ?_
      exact h2
    · refine State.setTb_kept ?_
      exact h2

theorem slewEnd_kept {a s} (h : Kept a s) : Kept a (slewEnd s) := by
  unfold slewEnd
  refine Kept.ite ?_ ?_
  · exact h
  · refine State.setF_kept ?_
    refine State.setTb_kept ?_
    refine State.reach_kept ?_
    exact h

end Sys2Proof.Machine
end

