-- ==== Sys2Proof/Laws/KeptImaging.lean ====
section
/-! SUPPORT. Every operation of Machine/Imaging.lean keeps the queue and the canonical tables (`Kept`). -/

set_option linter.unusedVariables false

namespace Sys2Proof.Machine

open Sys2Proof

theorem State.setSlot_kept {a s y1 y2} (h : Kept a s) : Kept a (State.setSlot s y1 y2) := by
  unfold State.setSlot
  refine State.setSlots_kept ?_ ?_
  · exact h
  · intro x1
    exact twf_tset _ _ x1

theorem State.setTap_kept {a s y1 y2} (h : Kept a s) : Kept a (State.setTap s y1 y2) := by
  unfold State.setTap
  refine State.setTaps_kept ?_ ?_
  · exact h
  · intro x1
    exact twf_tset _ _ x1

theorem State.setI2c_kept {a s y1 y2} (h : Kept a s) : Kept a (State.setI2c s y1 y2) := by
  unfold State.setI2c
  refine State.setI2cs_kept ?_ ?_
  · exact h
  · intro x1
    exact twf_tset _ _ x1

theorem State.ipRaise_kept {a s y1 y2} (h : Kept a s) : Kept a (State.ipRaise s y1 y2) := by
  unfold State.ipRaise
  refine State.raise_kept ?_
  exact h

theorem State.csiRaise_kept {a s y1 y2} (h : Kept a s) : Kept a (State.csiRaise s y1 y2) := by
  unfold State.csiRaise
  refine State.raise_kept ?_
  exact h

theorem State.sendStat_kept {a s y1 y2} (h : Kept a s) : Kept a (State.sendStat s y1 y2) := by
  unfold State.sendStat
  extract_lets +onlyGivenNames v1
  obtain ⟨v2, e⟩ : ∃ y, y = v1 := ⟨_, rfl⟩
  rw [← e]
  clear e v1
  extract_lets +onlyGivenNames v3
  obtain ⟨v4, e⟩ : ∃ y, y = v3 := ⟨_, rfl⟩
  rw [← e]
  clear e v3
  extract_lets +onlyGivenNames v5
  obtain ⟨v7, e, h6⟩ : ∃ y, y = v5 ∧ Kept a (y) := ⟨_, rfl, by
    refine State.sendMsg_kept ?_
    exact h
    ⟩
  rw [← e]
  clear e v5
  extract_lets +onlyGivenNames v8
  obtain ⟨v10, e, h9⟩ : ∃ y, y = v8 ∧ Kept a (y) := ⟨_, rfl, by
    refine Kept.ite ?_ ?_
    · refine State.setSlot_kept ?_
      exact h6
    · refine State.ipRaise_kept ?_
      refine State.setF_kept ?_
      refine State.setSlot_kept ?_
      exact h
    ⟩
  rw [← e]
  clear e v8
  refine Kept.ite ?_ ?_
  · refine State.sendMsg_kept ?_
    exact h9
  · exact h9

theorem State.noFrame_kept {a s y1 y2} (h : Kept a s) : Kept a (State.noFrame s y1 y2) := by
  unfold State.noFrame
  extract_lets +onlyGivenNames v1
  obtain ⟨v3, e, h2⟩ : ∃ y, y = v1 ∧ Kept a (y) := ⟨_, rfl, by
    refine State.ipRaise_kept ?_
    refine State.incF_kept ?_
    refine State.setF_kept ?_
    exact h
    ⟩
  rw [← e]
  clear e v1
  extract_lets +onlyGivenNames v4
  obtain ⟨v5, e⟩ : ∃ y, y = v4 := ⟨_, rfl⟩
  rw [← e]
  clear e v4
  refine State.sendStat_kept ?_
  exact h2

theorem State.truncate_kept {a s y1 y2} (h : Kept a s) : Kept a (Prod.snd (State.truncate s y1 y2)) := by
  unfold State.truncate
  refine Kept.iteOf (fun p => Prod.snd (p)) ?_ ?_
  · exact h
  · refine State.ipRaise_kept ?_
    refine State.incF_kept ?_
    refine State.setF_kept ?_
    exact h

theorem State.putHist_kept {a s y1 y2 y3} (h : Kept a s) : Kept a (State.putHist s y1 y2 y3) := by
  induction y3 generalizing s y1 y2
  · unfold State.putHist
    exact h
  · rename_i w1 w2 w3
    unfold State.putHist
    apply w3
    refine State.setBytes_kept ?_
    exact h

theorem State.closeFrame_kept {a s y1 y2} (h : Kept a s) : Kept a (State.closeFrame s y1 y2) := by
  unfold State.closeFrame
  split
  · rename_i z1 z2
    exact h
  · rename_i z3 z4 z5
    extract_lets +onlyGivenNames v6
    obtain ⟨v8, e, h7⟩ : ∃ y, y = v6 ∧ Kept a (Prod.snd (y)) := ⟨_, rfl, by
      refine Kept.iteOf (fun p => Prod.snd (p)) ?_ ?_
      · refine State.truncate_kept ?_
        exact h
      · exact h
      ⟩
    rw [← e]
    clear e v6
    extract_lets +onlyGivenNames v9
    obtain ⟨v10, e⟩ : ∃ y, y = v9 := ⟨_, rfl⟩
    rw [← e]
    clear e v9
    extract_lets +onlyGivenNames v11
    obtain ⟨v13, e, h12⟩ : ∃ y, y = v11 ∧ Kept a (y) := ⟨_, rfl, by
      exact h7
      ⟩
    rw [← e]
    clear e v11
    extract_lets +onlyGivenNames v14
    obtain ⟨v15, e⟩ : ∃ y, y = v14 := ⟨_, rfl⟩
    rw [← e]
    clear e v14
    extract_lets +onlyGivenNames v16
    obtain ⟨v17, e⟩ : ∃ y, y = v16 := ⟨_, rfl⟩
    rw [← e]
    clear e v16
    extract_lets +onlyGivenNames v18
    obtain ⟨v19, e⟩ : ∃ y, y = v18 := ⟨_, rfl⟩
    rw [← e]
    clear e v18
    extract_lets +onlyGivenNames v20
    obtain ⟨v21, e⟩ : ∃ y, y = v20 := ⟨_, rfl⟩
    rw [← e]
    clear e v20
    extract_lets +onlyGivenNames v22
    obtain ⟨v23, e⟩ : ∃ y, y = v22 := ⟨_, rfl⟩
    rw [← e]
    clear e v22
    extract_lets +onlyGivenNames v24
    obtain ⟨v25, e⟩ : ∃ y, y = v24 := ⟨_, rfl⟩
    rw [← e]
    clear e v24
    extract_lets +onlyGivenNames v26
    obtain ⟨v27, e⟩ : ∃ y, y = v26 := ⟨_, rfl⟩
    rw [← e]
    clear e v26
    extract_lets +onlyGivenNames v28
    obtain ⟨v29, e⟩ : ∃ y, y = v28 := ⟨_, rfl⟩
    rw [← e]
    clear e v28
    extract_lets +onlyGivenNames v30
    obtain ⟨v32, e, h31⟩ : ∃ y, y = v30 ∧ Kept a (y) := ⟨_, rfl, by
      refine Kept.ite ?_ ?_
      · exact h12
      · refine State.putHist_kept ?_
        exact h12
      ⟩
    rw [← e]
    clear e v30
    extract_lets +onlyGivenNames v33
    obtain ⟨v35, e, h34⟩ : ∃ y, y = v33 ∧ Kept a (y) := ⟨_, rfl, by
      refine State.incF_kept ?_
      refine State.setSlot_kept ?_
      exact h31
      ⟩
    rw [← e]
    clear e v33
    extract_lets +onlyGivenNames v36
    obtain ⟨v37, e⟩ : ∃ y, y = v36 := ⟨_, rfl⟩
    rw [← e]
    clear e v36
    refine State.sendStat_kept ?_
    exact h34

theorem State.discPacket_kept {a s y1} (h : Kept a s) : Kept a (State.discPacket s y1) := by
  unfold State.discPacket
  refine State.csiRaise_kept ?_
  refine State.setF_kept ?_
  refine State.incF_kept ?_
  exact h

theorem State.csiHeader_kept {a s y1 y2 y3 f4} (h : Kept a s) (hf4 : ∀ t, Kept a t → Kept a (f4 t)) : Kept a (State.csiHeader s y1 y2 y3 f4) := by
  unfold State.csiHeader
  refine Kept.ite ?_ ?_
  · exact h
  · extract_lets +onlyGivenNames v1
    obtain ⟨v3, e, h2⟩ : ∃ y, y = v1 ∧ Kept a (y) := ⟨_, rfl, by
      refine State.setF_kept ?_
      exact h
      ⟩
    rw [← e]
    clear e v1
    extract_lets +onlyGivenNames v4
    obtain ⟨v6, e, h5⟩ : ∃ y, y = v4 ∧ Kept a (y) := ⟨_, rfl, by
      refine Kept.ite ?_ ?_
      · refine State.setCsiSkip_kept ?_
        exact h2
      · exact h2
      ⟩
    rw [← e]
    clear e v4
    refine Kept.ite ?_ ?_
    · exact h5
    · refine Kept.ite ?_ ?_
      · refine State.csiRaise_kept ?_
        refine State.incF_kept ?_
        refine State.setF_kept ?_
        refine State.setCsiSkip_kept ?_
        exact h5
      · apply hf4
        refine Kept.ite ?_ ?_
        · refine State.incF_kept ?_
          exact h5
        · exact h5

theorem State.fsPair_kept {a s y1 y2} (h : Kept a s) : Kept a (State.fsPair s y1 y2) := by
  unfold State.fsPair
  extract_lets +onlyGivenNames v1
  obtain ⟨v3, e, h2⟩ : ∃ y, y = v1 ∧ Kept a (y) := ⟨_, rfl, by
    refine State.closeFrame_kept ?_
    exact h
    ⟩
  rw [← e]
  clear e v1
  extract_lets +onlyGivenNames v4
  obtain ⟨v5, e⟩ : ∃ y, y = v4 := ⟨_, rfl⟩
  rw [← e]
  clear e v4
  split
  · rename_i z6 z7
    refine State.ipRaise_kept ?_
    refine State.incF_kept ?_
    refine State.setF_kept ?_
    exact h2
  · rename_i z8 z9 z10 z11
    extract_lets +onlyGivenNames v12
    obtain ⟨v13, e⟩ : ∃ y, y = v12 := ⟨_, rfl⟩
    rw [← e]
    clear e v12
    extract_lets +onlyGivenNames v14
    obtain ⟨v15, e⟩ : ∃ y, y = v14 := ⟨_, rfl⟩
    rw [← e]
    clear e v14
    extract_lets +onlyGivenNames v16
    obtain ⟨v17, e⟩ : ∃ y, y = v16 := ⟨_, rfl⟩
    rw [← e]
    clear e v16
    extract_lets +onlyGivenNames v18
    obtain ⟨v20, e, h19⟩ : ∃ y, y = v18 ∧ Kept a (y) := ⟨_, rfl, by
      refine State.setSlot_kept ?_
      exact h2
      ⟩
    rw [← e]
    clear e v18
    extract_lets +onlyGivenNames v21
    obtain ⟨v23, e, h22⟩ : ∃ y, y = v21 ∧ Kept a (y) := ⟨_, rfl, by
      refine Kept.foldl ?_ ?_
      · exact h19
      · intro t24 x25 h26
        refine State.noFrame_kept ?_
        exact h26
      ⟩
    rw [← e]
    clear e v21
    extract_lets +onlyGivenNames v27
    obtain ⟨v28, e⟩ : ∃ y, y = v27 := ⟨_, rfl⟩
    rw [← e]
    clear e v27
    split
    · rename_i z29 z30
      exact h22
    · rename_i z31 z32 z33 z34
      extract_lets +onlyGivenNames v35
      obtain ⟨v37, e, h36⟩ : ∃ y, y = v35 ∧ Kept a (y) := ⟨_, rfl, by
        refine State.setSlot_kept ?_
        exact h22
        ⟩
      rw [← e]
      clear e v35
      refine Kept.ite ?_ ?_
      · refine State.ipRaise_kept ?_
        refine State.setF_kept ?_
        exact h36
      · exact h36

theorem frameStart_kept {a y1 y2 y3 y4 y5 s} (h : Kept a s) : Kept a (frameStart y1 y2 y3 y4 y5 s) := by
  unfold frameStart
  refine State.csiHeader_kept ?_ ?_
  · exact h
  · intro x1 h2
    refine Kept.ite ?_ ?_
    · refine State.incF_kept ?_
      exact h2
    · split
      · rename_i z3 z4
        refine State.discPacket_kept ?_
        exact h2
      · rename_i z5 z6 z7
        refine Kept.ite ?_ ?_
        · refine State.fsPair_kept ?_
          exact h2
        · refine State.discPacket_kept ?_
          exact h2

theorem State.takeLine_kept {a s y1 y2 y3 y4} (h : Kept a s) : Kept a (State.takeLine s y1 y2 y3 y4) := by
  unfold State.takeLine
  refine Kept.ite ?_ ?_
  · exact h
  · refine Kept.ite ?_ ?_
    · extract_lets +onlyGivenNames v1
      obtain ⟨v3, e, h2⟩ : ∃ y, y = v1 ∧ Kept a (Prod.snd (y)) := ⟨_, rfl, by
        refine State.truncate_kept ?_
        exact h
        ⟩
      rw [← e]
      clear e v1
      refine State.setSlot_kept ?_
      exact h2
    · extract_lets +onlyGivenNames v4
      obtain ⟨v5, e⟩ : ∃ y, y = v4 := ⟨_, rfl⟩
      rw [← e]
      clear e v4
      extract_lets +onlyGivenNames v6
      obtain ⟨v7, e⟩ : ∃ y, y = v6 := ⟨_, rfl⟩
      rw [← e]
      clear e v6
      extract_lets +onlyGivenNames v8
      obtain ⟨v9, e⟩ : ∃ y, y = v8 := ⟨_, rfl⟩
      rw [← e]
      clear e v8
      refine State.setSlot_kept ?_
      exact h

theorem linePacket_kept {a y1 y2 y3 y4 y5 y6 y7 y8 s} (h : Kept a s) : Kept a (linePacket y1 y2 y3 y4 y5 y6 y7 y8 s) := by
  unfold linePacket
  refine State.csiHeader_kept ?_ ?_
  · exact h
  · intro x1 h2
    refine Kept.ite ?_ ?_
    · exact h2
    · split
      · rename_i z3 z4
        refine State.discPacket_kept ?_
        exact h2
      · rename_i z5 z6 z7
        split
        · rename_i z8 z9
          refine State.discPacket_kept ?_
          exact h2
        · rename_i z10 z11 z12
          refine Kept.ite ?_ ?_
          · refine State.discPacket_kept ?_
            exact h2
          · refine Kept.ite ?_ ?_
            · refine State.csiRaise_kept ?_
              refine State.setF_kept ?_
              refine State.incF_kept ?_
              refine State.setSlot_kept ?_
              exact h2
            · refine Kept.ite ?_ ?_
              · refine Kept.ite ?_ ?_
                · exact h2
                · refine State.setSlot_kept ?_
                  exact h2
              · refine State.takeLine_kept ?_
                exact h2

theorem frameEnd_kept {a y1 y2 y3 y4 s} (h : Kept a s) : Kept a (frameEnd y1 y2 y3 y4 s) := by
  unfold frameEnd
  refine State.csiHeader_kept ?_ ?_
  · exact h
  · intro x1 h2
    split
    · rename_i z3 z4
      refine State.discPacket_kept ?_
      exact h2
    · rename_i z5 z6 z7
      refine Kept.ite ?_ ?_
      · refine State.discPacket_kept ?_
        exact h2
      · refine State.closeFrame_kept ?_
        exact h2

theorem fswinExpiry_kept {a y1 s} (h : Kept a s) : Kept a (fswinExpiry y1 s) := by
  unfold fswinExpiry
  extract_lets +onlyGivenNames v1
  obtain ⟨v2, e⟩ : ∃ y, y = v1 := ⟨_, rfl⟩
  rw [← e]
  clear e v1
  extract_lets +onlyGivenNames v3
  obtain ⟨v4, e⟩ : ∃ y, y = v3 := ⟨_, rfl⟩
  rw [← e]
  clear e v3
  extract_lets +onlyGivenNames v5
  split
  · rename_i z6 z7 z8 z9 z10 z11
    unfold v5
    extract_lets +onlyGivenNames v12
    obtain ⟨v14, e, h13⟩ : ∃ y, y = v12 ∧ Kept a (y) := ⟨_, rfl, by
      refine State.reach_kept ?_
      exact h
      ⟩
    rw [← e]
    clear e v12
    refine State.noFrame_kept ?_
    refine State.setSlot_kept ?_
    exact h13
  · rename_i z15 z16 z17 z18 z19
    refine State.closeFrame_kept ?_
    refine State.reach_kept ?_
    exact h
  · rename_i z20 z21 z22 z23 z24 z25 z26
    refine Kept.ite ?_ ?_
    · unfold v5
      extract_lets +onlyGivenNames v27
      obtain ⟨v29, e, h28⟩ : ∃ y, y = v27 ∧ Kept a (y) := ⟨_, rfl, by
        refine State.reach_kept ?_
        exact h
        ⟩
      rw [← e]
      clear e v27
      refine State.noFrame_kept ?_
      refine State.setSlot_kept ?_
      exact h28
    · refine State.closeFrame_kept ?_
      refine State.reach_kept ?_
      exact h
  · rename_i z30 z31 z32 z33
    exact h

theorem State.expJudged_kept {a s y1 y2} (h : Kept a s) : Kept a (State.expJudged s y1 y2) := by
  unfold State.expJudged
  refine Kept.ite ?_ ?_
  · exact h
  · extract_lets +onlyGivenNames v1
    obtain ⟨v2, e⟩ : ∃ y, y = v1 := ⟨_, rfl⟩
    rw [← e]
    clear e v1
    extract_lets +onlyGivenNames v3
    obtain ⟨v4, e⟩ : ∃ y, y = v3 := ⟨_, rfl⟩
    rw [← e]
    clear e v3
    refine Kept.ite ?_ ?_
    · refine State.setSlot_kept ?_
      exact h
    · refine State.ipRaise_kept ?_
      refine State.setF_kept ?_
      refine State.setSlot_kept ?_
      exact h

theorem State.camApply_kept {a s y1 y2} (h : Kept a s) : Kept a (State.camApply s y1 y2) := by
  unfold State.camApply
  extract_lets +onlyGivenNames v1
  obtain ⟨v2, e⟩ : ∃ y, y = v1 := ⟨_, rfl⟩
  rw [← e]
  clear e v1
  split
  · rename_i z3 z4 z5 z6
    refine Kept.ite ?_ ?_
    · refine State.setF_kept ?_
      refine State.setF_kept ?_
      refine State.setSlot_kept ?_
      exact h
    · exact h
  · rename_i z7 z8
    exact h

theorem State.expEnd_kept {a s y1 y2 y3} (h : Kept a s) : Kept a (State.expEnd s y1 y2 y3) := by
  unfold State.expEnd
  extract_lets +onlyGivenNames v1
  obtain ⟨v2, e⟩ : ∃ y, y = v1 := ⟨_, rfl⟩
  rw [← e]
  clear e v1
  split
  · rename_i z3 z4
    exact h
  · rename_i z5 z6 z7
    extract_lets +onlyGivenNames v8
    obtain ⟨v9, e⟩ : ∃ y, y = v8 := ⟨_, rfl⟩
    rw [← e]
    clear e v8
    extract_lets +onlyGivenNames v10
    obtain ⟨v11, e⟩ : ∃ y, y = v10 := ⟨_, rfl⟩
    rw [← e]
    clear e v10
    extract_lets +onlyGivenNames v12
    obtain ⟨v14, e, h13⟩ : ∃ y, y = v12 ∧ Kept a (y) := ⟨_, rfl, by
      refine State.setSlot_kept ?_
      exact h
      ⟩
    rw [← e]
    clear e v12
    split
    · rename_i z15 z16 z17
      refine Kept.ite ?_ ?_
      · refine State.noFrame_kept ?_
        exact h13
      · exact h13
    · rename_i z18
      exact h13

theorem State.expRise_kept {a s y1 y2 y3} (h : Kept a s) : Kept a (State.expRise s y1 y2 y3) := by
  unfold State.expRise
  refine Kept.ite ?_ ?_
  · exact h
  · extract_lets +onlyGivenNames v1
    obtain ⟨v3, e, h2⟩ : ∃ y, y = v1 ∧ Kept a (y) := ⟨_, rfl, by
      refine State.camApply_kept ?_
      exact h
      ⟩
    rw [← e]
    clear e v1
    extract_lets +onlyGivenNames v4
    obtain ⟨v5, e⟩ : ∃ y, y = v4 := ⟨_, rfl⟩
    rw [← e]
    clear e v4
    refine State.setSlot_kept ?_
    exact h2

theorem cameraSetting_kept {a y1 y2 s} (h : Kept a s) : Kept a (cameraSetting y1 y2 s) := by
  unfold cameraSetting
  extract_lets +onlyGivenNames v1
  obtain ⟨v2, e⟩ : ∃ y, y = v1 := ⟨_, rfl⟩
  rw [← e]
  clear e v1
  refine State.arrive_kept ?_ ?_
  · exact h
  · intro x3 h4
    split
    · rename_i z5 z6 z7 z8
      refine State.refuse_kept ?_
      exact h4
    · rename_i z9 z10 z11 z12 z13
      refine State.refuse_kept ?_
      exact h4
    · rename_i z14 z15 z16 z17
      extract_lets +onlyGivenNames v18
      obtain ⟨v19, e⟩ : ∃ y, y = v18 := ⟨_, rfl⟩
      rw [← e]
      clear e v18
      refine Kept.ite ?_ ?_
      · refine State.refuse_kept ?_
        exact h4
      · extract_lets +onlyGivenNames v20
        obtain ⟨v21, e⟩ : ∃ y, y = v20 := ⟨_, rfl⟩
        rw [← e]
        clear e v20
        extract_lets +onlyGivenNames v22
        split
        · rename_i z23 z24
          unfold v22
          refine State.refuse_kept ?_
          refine State.setF_kept ?_
          exact h4
        · rename_i z25 z26 z27
          refine Kept.ite ?_ ?_
          · unfold v22
            refine State.refuse_kept ?_
            refine State.setF_kept ?_
            exact h4
          · extract_lets +onlyGivenNames v28
            obtain ⟨v29, e⟩ : ∃ y, y = v28 := ⟨_, rfl⟩
            rw [← e]
            clear e v28
            refine State.setF_kept ?_
            refine State.setSlot_kept ?_
            exact h4

theorem camBarrier_kept {a y1 s y2} (h : Kept a s) : Kept a (camBarrier y1 s y2) := by
  unfold camBarrier
  extract_lets +onlyGivenNames v1
  obtain ⟨v2, e⟩ : ∃ y, y = v1 := ⟨_, rfl⟩
  rw [← e]
  clear e v1
  split
  · rename_i z3 z4 z5
    refine State.setSlot_kept ?_
    exact h
  · rename_i z6 z7
    exact h

theorem State.tapPair_kept {a s y1 y2} (h : Kept a s) : Kept a (State.tapPair s y1 y2) := by
  unfold State.tapPair
  refine Kept.ite ?_ ?_
  · exact h
  · extract_lets +onlyGivenNames v1
    obtain ⟨v2, e⟩ : ∃ y, y = v1 := ⟨_, rfl⟩
    rw [← e]
    clear e v1
    extract_lets +onlyGivenNames v3
    obtain ⟨v4, e⟩ : ∃ y, y = v3 := ⟨_, rfl⟩
    rw [← e]
    clear e v3
    extract_lets +onlyGivenNames v5
    obtain ⟨v6, e⟩ : ∃ y, y = v5 := ⟨_, rfl⟩
    rw [← e]
    clear e v5
    refine Kept.ite ?_ ?_
    · refine State.setTap_kept ?_
      exact h
    · extract_lets +onlyGivenNames v7
      obtain ⟨v8, e⟩ : ∃ y, y = v7 := ⟨_, rfl⟩
      rw [← e]
      clear e v7
      refine Kept.ite ?_ ?_
      · refine State.setF_kept ?_
        refine State.setTap_kept ?_
        exact h
      · extract_lets +onlyGivenNames v9
        obtain ⟨v10, e⟩ : ∃ y, y = v9 := ⟨_, rfl⟩
        rw [← e]
        clear e v9
        extract_lets +onlyGivenNames v11
        obtain ⟨v13, e, h12⟩ : ∃ y, y = v11 ∧ Kept a (y) := ⟨_, rfl, by
          refine State.sendMsg_kept ?_
          exact h
          ⟩
        rw [← e]
        clear e v11
        refine State.setTap_kept ?_
        exact h12

theorem powerLoopCycle_kept {a y1 s} (h : Kept a s) : Kept a (powerLoopCycle y1 s) := by
  unfold powerLoopCycle
  split
  · rename_i z1 z2
    exact h
  · rename_i z3 z4 z5 z6
    refine powerCycle_kept ?_
    refine State.tapPair_kept ?_
    exact h

theorem i2cTransaction_kept {a y1 y2 s} (h : Kept a s) : Kept a (i2cTransaction y1 y2 s) := by
  unfold i2cTransaction
  extract_lets +onlyGivenNames v1
  obtain ⟨v2, e⟩ : ∃ y, y = v1 := ⟨_, rfl⟩
  rw [← e]
  clear e v1
  refine State.arrive_kept ?_ ?_
  · exact h
  · intro x3 h4
    split
    · rename_i z5 z6 z7 z8
      refine State.refuse_kept ?_
      exact h4
    · rename_i z9 z10 z11 z12 z13
      refine State.refuse_kept ?_
      exact h4
    · rename_i z14 z15 z16 z17
      split
      · rename_i z18 z19
        refine State.refuse_kept ?_
        exact h4
      · rename_i z20 z21 z22
        refine State.setI2c_kept ?_
        exact h4

theorem State.readWords_kept {a s y1 y2} (h : Kept a s) : Kept a (Prod.snd (State.readWords s y1 y2)) := by
  induction y2 generalizing s y1 with
  | zero => unfold State.readWords; exact h
  | succ m ih => unfold State.readWords; exact ih (State.free_kept h)

theorem i2cDone_kept {a y1 y2 y3 y4 s} (h : Kept a s) : Kept a (i2cDone y1 y2 y3 y4 s) := by
  unfold i2cDone
  split
  · rename_i z1 z2
    exact h
  · rename_i z3 z4 z5 z6
    extract_lets +onlyGivenNames v7
    obtain ⟨v9, e, h8⟩ : ∃ y, y = v7 ∧ Kept a (y) := ⟨_, rfl, by
      refine State.setI2c_kept ?_
      exact h
      ⟩
    rw [← e]
    clear e v7
    extract_lets +onlyGivenNames v10
    obtain ⟨v12, e, h11⟩ : ∃ y, y = v10 ∧ Kept a (Prod.snd (y)) := ⟨_, rfl, by
      refine State.readWords_kept ?_
      exact h8
      ⟩
    rw [← e]
    clear e v10
    refine State.sendMsg_kept ?_
    exact h11

theorem imagingEffect_kept {a y1 s} (h : Kept a s) : Kept a (imagingEffect y1 s) := by
  unfold imagingEffect
  refine Kept.ite ?_ ?_
  · extract_lets +onlyGivenNames v1
    obtain ⟨v2, e⟩ : ∃ y, y = v1 := ⟨_, rfl⟩
    rw [← e]
    clear e v1
    refine Kept.ite ?_ ?_
    · refine State.setF_kept ?_
      exact h
    · exact h
  · refine Kept.ite ?_ ?_
    · extract_lets +onlyGivenNames v3
      obtain ⟨v4, e⟩ : ∃ y, y = v3 := ⟨_, rfl⟩
      rw [← e]
      clear e v3
      refine Kept.ite ?_ ?_
      · exact h
      · refine Kept.ite ?_ ?_
        · refine State.setF_kept ?_
          refine State.setSlot_kept ?_
          exact h
        · refine State.setF_kept ?_
          refine State.setSlot_kept ?_
          exact h
    · refine Kept.ite ?_ ?_
      · extract_lets +onlyGivenNames v5
        obtain ⟨v6, e⟩ : ∃ y, y = v5 := ⟨_, rfl⟩
        rw [← e]
        clear e v5
        refine Kept.ite ?_ ?_
        · exact h
        · refine State.setTap_kept ?_
          exact h
      · exact h

end Sys2Proof.Machine
end

