-- ==== Sys2Proof/Laws/KeptSaddle.lean ====
section
/-! SUPPORT. Every operation of Machine/Saddle.lean keeps the queue and the canonical tables (`Kept`). -/

set_option linter.unusedVariables false

namespace Sys2Proof.Machine

open Sys2Proof

theorem State.handoff_kept {a s y1 y2 y3 y4 y5 y6 y7 y8 y9} (h : Kept a s) : Kept a (State.handoff s y1 y2 y3 y4 y5 y6 y7 y8 y9) := by
  unfold State.handoff
  refine Kept.ite ?_ ?_
  · extract_lets +onlyGivenNames v1
    obtain ⟨v2, e⟩ : ∃ y, y = v1 := ⟨_, rfl⟩
    rw [← e]
    clear e v1
    extract_lets +onlyGivenNames v3
    obtain ⟨v5, e, h4⟩ : ∃ y, y = v3 ∧ Kept a (y) := ⟨_, rfl, by
      refine State.sts_kept ?_
      exact h
      ⟩
    rw [← e]
    clear e v3
    refine State.incF_kept ?_
    refine State.setF_kept ?_
    exact h4
  · exact h

theorem State.withHold_kept {a s y1 y2 y3} (h : Kept a s) : Kept a (State.withHold s y1 y2 y3) := by
  unfold State.withHold
  extract_lets +onlyGivenNames v1
  obtain ⟨v2, e⟩ : ∃ y, y = v1 := ⟨_, rfl⟩
  rw [← e]
  clear e v1
  extract_lets +onlyGivenNames v3
  obtain ⟨v4, e⟩ : ∃ y, y = v3 := ⟨_, rfl⟩
  rw [← e]
  clear e v3
  extract_lets +onlyGivenNames v5
  obtain ⟨v6, e⟩ : ∃ y, y = v5 := ⟨_, rfl⟩
  rw [← e]
  clear e v5
  extract_lets +onlyGivenNames v7
  obtain ⟨v8, e⟩ : ∃ y, y = v7 := ⟨_, rfl⟩
  rw [← e]
  clear e v7
  extract_lets +onlyGivenNames v9
  obtain ⟨v10, e⟩ : ∃ y, y = v9 := ⟨_, rfl⟩
  rw [← e]
  clear e v9
  extract_lets +onlyGivenNames v11
  obtain ⟨v12, e⟩ : ∃ y, y = v11 := ⟨_, rfl⟩
  rw [← e]
  clear e v11
  extract_lets +onlyGivenNames v13
  obtain ⟨v14, e⟩ : ∃ y, y = v13 := ⟨_, rfl⟩
  rw [← e]
  clear e v13
  refine State.setPg_kept ?_
  exact h

theorem State.replanAfter_kept {a s y1 y2 y3 y4 y5 y6} (h : Kept a s) : Kept a (State.replanAfter s y1 y2 y3 y4 y5 y6) := by
  unfold State.replanAfter
  extract_lets +onlyGivenNames v1
  obtain ⟨v2, e⟩ : ∃ y, y = v1 := ⟨_, rfl⟩
  rw [← e]
  clear e v1
  extract_lets +onlyGivenNames v3
  obtain ⟨v4, e⟩ : ∃ y, y = v3 := ⟨_, rfl⟩
  rw [← e]
  clear e v3
  extract_lets +onlyGivenNames v5
  obtain ⟨v6, e⟩ : ∃ y, y = v5 := ⟨_, rfl⟩
  rw [← e]
  clear e v5
  extract_lets +onlyGivenNames v7
  obtain ⟨v8, e⟩ : ∃ y, y = v7 := ⟨_, rfl⟩
  rw [← e]
  clear e v7
  extract_lets +onlyGivenNames v9
  obtain ⟨v10, e⟩ : ∃ y, y = v9 := ⟨_, rfl⟩
  rw [← e]
  clear e v9
  split
  · rename_i z11 z12 z13
    refine State.setF_kept ?_
    refine State.setPg_kept ?_
    exact h
  · rename_i z14 z15
    refine State.setPg_kept ?_
    exact h

theorem State.handoffs_kept {a y1 y2 y3 y4 s} (h : Kept a s) : Kept a (State.handoffs s y1 y2 y3 y4) := by
  unfold State.handoffs
  extract_lets +onlyGivenNames segs
  refine Kept.foldl h ?_
  intro t x ht
  beta_reduce
  extract_lets +onlyGivenNames p o s1
  have h1 : Kept a s1 := Kept.ite (State.handoff_kept ht) ht
  clear_value s1
  exact Kept.ite (State.handoff_kept h1) h1

theorem State.stampOpens_kept {a s y1 y2} (h : Kept a s) : Kept a (State.stampOpens s y1 y2) := by
  unfold State.stampOpens
  extract_lets +onlyGivenNames v1
  obtain ⟨v2, e⟩ : ∃ y, y = v1 := ⟨_, rfl⟩
  rw [← e]
  clear e v1
  refine State.setSets_kept ?_
  exact h

theorem State.yieldChain_kept {a s y1 y2 y3} (h : Kept a s) : Kept a (State.yieldChain s y1 y2 y3) := by
  unfold State.yieldChain
  extract_lets +onlyGivenNames v1
  obtain ⟨v2, e⟩ : ∃ y, y = v1 := ⟨_, rfl⟩
  rw [← e]
  clear e v1
  extract_lets +onlyGivenNames v3
  obtain ⟨v4, e⟩ : ∃ y, y = v3 := ⟨_, rfl⟩
  rw [← e]
  clear e v3
  extract_lets +onlyGivenNames v5
  obtain ⟨v6, e⟩ : ∃ y, y = v5 := ⟨_, rfl⟩
  rw [← e]
  clear e v5
  extract_lets +onlyGivenNames v7
  obtain ⟨v8, e⟩ : ∃ y, y = v7 := ⟨_, rfl⟩
  rw [← e]
  clear e v7
  extract_lets +onlyGivenNames v9
  obtain ⟨v10, e⟩ : ∃ y, y = v9 := ⟨_, rfl⟩
  rw [← e]
  clear e v9
  extract_lets +onlyGivenNames v11
  obtain ⟨v13, e, h12⟩ : ∃ y, y = v11 ∧ Kept a (y) := ⟨_, rfl, by
    refine State.incF_kept ?_
    refine State.setF_kept ?_
    refine State.withHold_kept ?_
    exact h
    ⟩
  rw [← e]
  clear e v11
  extract_lets +onlyGivenNames v14
  obtain ⟨v15, e⟩ : ∃ y, y = v14 := ⟨_, rfl⟩
  rw [← e]
  clear e v14
  extract_lets +onlyGivenNames v16
  obtain ⟨v17, e⟩ : ∃ y, y = v16 := ⟨_, rfl⟩
  rw [← e]
  clear e v16
  extract_lets +onlyGivenNames v18
  obtain ⟨v19, e⟩ : ∃ y, y = v18 := ⟨_, rfl⟩
  rw [← e]
  clear e v18
  extract_lets +onlyGivenNames v20
  obtain ⟨v21, e⟩ : ∃ y, y = v20 := ⟨_, rfl⟩
  rw [← e]
  clear e v20
  refine Kept.ite ?_ ?_
  · refine State.setPg_kept ?_
    exact h12
  · exact h12

theorem State.cutChain_kept {a s y1 y2 y3 y4 y5 y6} (h : Kept a s) : Kept a (State.cutChain s y1 y2 y3 y4 y5 y6) := by
  unfold State.cutChain
  extract_lets +onlyGivenNames v1
  obtain ⟨v2, e⟩ : ∃ y, y = v1 := ⟨_, rfl⟩
  rw [← e]
  clear e v1
  split
  · rename_i z3 z4
    exact h
  · rename_i z5 z6 z7 z8 z9
    extract_lets +onlyGivenNames v10
    obtain ⟨v11, e⟩ : ∃ y, y = v10 := ⟨_, rfl⟩
    rw [← e]
    clear e v10
    extract_lets +onlyGivenNames v12
    obtain ⟨v13, e⟩ : ∃ y, y = v12 := ⟨_, rfl⟩
    rw [← e]
    clear e v12
    extract_lets +onlyGivenNames v14
    obtain ⟨v15, e⟩ : ∃ y, y = v14 := ⟨_, rfl⟩
    rw [← e]
    clear e v14
    extract_lets +onlyGivenNames v16
    obtain ⟨v17, e⟩ : ∃ y, y = v16 := ⟨_, rfl⟩
    rw [← e]
    clear e v16
    extract_lets +onlyGivenNames v18
    obtain ⟨v19, e⟩ : ∃ y, y = v18 := ⟨_, rfl⟩
    rw [← e]
    clear e v18
    extract_lets +onlyGivenNames v20
    obtain ⟨v21, e⟩ : ∃ y, y = v20 := ⟨_, rfl⟩
    rw [← e]
    clear e v20
    extract_lets +onlyGivenNames v22
    obtain ⟨v23, e⟩ : ∃ y, y = v22 := ⟨_, rfl⟩
    rw [← e]
    clear e v22
    extract_lets +onlyGivenNames v24
    obtain ⟨v25, e⟩ : ∃ y, y = v24 := ⟨_, rfl⟩
    rw [← e]
    clear e v24
    extract_lets +onlyGivenNames v26
    obtain ⟨v27, e⟩ : ∃ y, y = v26 := ⟨_, rfl⟩
    rw [← e]
    clear e v26
    extract_lets +onlyGivenNames v28
    obtain ⟨v29, e⟩ : ∃ y, y = v28 := ⟨_, rfl⟩
    rw [← e]
    clear e v28
    extract_lets +onlyGivenNames v30
    obtain ⟨v31, e⟩ : ∃ y, y = v30 := ⟨_, rfl⟩
    rw [← e]
    clear e v30
    extract_lets +onlyGivenNames v32
    obtain ⟨v34, e, h33⟩ : ∃ y, y = v32 ∧ Kept a (y) := ⟨_, rfl, by
      refine State.setSets_kept ?_
      exact h
      ⟩
    rw [← e]
    clear e v32
    extract_lets +onlyGivenNames v35
    obtain ⟨v36, e⟩ : ∃ y, y = v35 := ⟨_, rfl⟩
    rw [← e]
    clear e v35
    extract_lets +onlyGivenNames v37
    obtain ⟨v38, e⟩ : ∃ y, y = v37 := ⟨_, rfl⟩
    rw [← e]
    clear e v37
    extract_lets +onlyGivenNames v39
    obtain ⟨v40, e⟩ : ∃ y, y = v39 := ⟨_, rfl⟩
    rw [← e]
    clear e v39
    extract_lets +onlyGivenNames v41
    obtain ⟨v43, e, h42⟩ : ∃ y, y = v41 ∧ Kept a (y) := ⟨_, rfl, by
      refine State.incF_kept ?_
      refine State.setF_kept ?_
      refine State.replanAfter_kept ?_
      exact h33
      ⟩
    rw [← e]
    clear e v41
    extract_lets +onlyGivenNames v44
    obtain ⟨v45, e⟩ : ∃ y, y = v44 := ⟨_, rfl⟩
    rw [← e]
    clear e v44
    extract_lets +onlyGivenNames v46
    obtain ⟨v47, e⟩ : ∃ y, y = v46 := ⟨_, rfl⟩
    rw [← e]
    clear e v46
    extract_lets +onlyGivenNames v48
    obtain ⟨v50, e, h49⟩ : ∃ y, y = v48 ∧ Kept a (y) := ⟨_, rfl, by
      unfold v48
      split
      · rename_i z51 z52 z53
        refine State.setF_kept ?_
        refine State.setPg_kept ?_
        exact h42
      · rename_i z54 z55
        exact h42
      ⟩
    rw [← e]
    clear e v48
    refine Kept.ite ?_ ?_
    · exact h49
    · extract_lets +onlyGivenNames v56
      obtain ⟨v57, e⟩ : ∃ y, y = v56 := ⟨_, rfl⟩
      rw [← e]
      clear e v56
      extract_lets +onlyGivenNames v58
      obtain ⟨v59, e⟩ : ∃ y, y = v58 := ⟨_, rfl⟩
      rw [← e]
      clear e v58
      extract_lets +onlyGivenNames v60
      obtain ⟨v61, e⟩ : ∃ y, y = v60 := ⟨_, rfl⟩
      rw [← e]
      clear e v60
      extract_lets +onlyGivenNames v62
      obtain ⟨v63, e⟩ : ∃ y, y = v62 := ⟨_, rfl⟩
      rw [← e]
      clear e v62
      extract_lets +onlyGivenNames v64
      obtain ⟨v65, e⟩ : ∃ y, y = v64 := ⟨_, rfl⟩
      rw [← e]
      clear e v64
      extract_lets +onlyGivenNames v66
      obtain ⟨v67, e⟩ : ∃ y, y = v66 := ⟨_, rfl⟩
      rw [← e]
      clear e v66
      extract_lets +onlyGivenNames v68
      obtain ⟨v70, e, h69⟩ : ∃ y, y = v68 ∧ Kept a (y) := ⟨_, rfl, by
        refine State.setPg_kept ?_
        exact h49
        ⟩
      rw [← e]
      clear e v68
      refine State.handoff_kept ?_
      exact h69

theorem chainDecide_kept {a y1 s} (h : Kept a s) : Kept a (chainDecide y1 s) := by
  unfold chainDecide
  extract_lets +onlyGivenNames v1
  obtain ⟨v2, e⟩ : ∃ y, y = v1 := ⟨_, rfl⟩
  rw [← e]
  clear e v1
  split
  · rename_i z3 z4
    exact h
  · rename_i z5 z6 z7
    refine Kept.ite ?_ ?_
    · exact h
    · extract_lets +onlyGivenNames v8
      obtain ⟨v10, e, h9⟩ : ∃ y, y = v8 ∧ Kept a (y) := ⟨_, rfl, by
        refine State.reach_kept ?_
        exact h
        ⟩
      rw [← e]
      clear e v8
      extract_lets +onlyGivenNames v11
      obtain ⟨v12, e⟩ : ∃ y, y = v11 := ⟨_, rfl⟩
      rw [← e]
      clear e v11
      extract_lets +onlyGivenNames v13
      obtain ⟨v14, e⟩ : ∃ y, y = v13 := ⟨_, rfl⟩
      rw [← e]
      clear e v13
      extract_lets +onlyGivenNames v15
      obtain ⟨v16, e⟩ : ∃ y, y = v15 := ⟨_, rfl⟩
      rw [← e]
      clear e v15
      extract_lets +onlyGivenNames v17
      obtain ⟨v19, e, h18⟩ : ∃ y, y = v17 ∧ Kept a (y) := ⟨_, rfl, by
        refine Kept.ite ?_ ?_
        · refine State.incF_kept ?_
          refine State.setF_kept ?_
          refine State.setPg_kept ?_
          exact h9
        · exact h9
        ⟩
      rw [← e]
      clear e v17
      extract_lets +onlyGivenNames v20
      obtain ⟨v21, e⟩ : ∃ y, y = v20 := ⟨_, rfl⟩
      rw [← e]
      clear e v20
      extract_lets +onlyGivenNames v22
      obtain ⟨v23, e⟩ : ∃ y, y = v22 := ⟨_, rfl⟩
      rw [← e]
      clear e v22
      extract_lets +onlyGivenNames v24
      obtain ⟨v25, e⟩ : ∃ y, y = v24 := ⟨_, rfl⟩
      rw [← e]
      clear e v24
      extract_lets +onlyGivenNames v26
      obtain ⟨v27, e⟩ : ∃ y, y = v26 := ⟨_, rfl⟩
      rw [← e]
      clear e v26
      extract_lets +onlyGivenNames v28
      obtain ⟨v29, e⟩ : ∃ y, y = v28 := ⟨_, rfl⟩
      rw [← e]
      clear e v28
      extract_lets +onlyGivenNames v30
      obtain ⟨v31, e⟩ : ∃ y, y = v30 := ⟨_, rfl⟩
      rw [← e]
      clear e v30
      split
      · rename_i z32 z33 z34
        extract_lets +onlyGivenNames v35
        obtain ⟨v37, e, h36⟩ : ∃ y, y = v35 ∧ Kept a (y) := ⟨_, rfl, by
          refine Kept.ite ?_ ?_
          · refine State.setF_kept ?_
            exact h18
          · exact h18
          ⟩
        rw [← e]
        clear e v35
        refine State.markError_kept ?_
        exact h36
      · rename_i z38 z39
        extract_lets +onlyGivenNames v40
        obtain ⟨v41, e⟩ : ∃ y, y = v40 := ⟨_, rfl⟩
        rw [← e]
        clear e v40
        extract_lets +onlyGivenNames v42
        obtain ⟨v43, e⟩ : ∃ y, y = v42 := ⟨_, rfl⟩
        rw [← e]
        clear e v42
        extract_lets +onlyGivenNames v44
        obtain ⟨v46, e, h45⟩ : ∃ y, y = v44 ∧ Kept a (y) := ⟨_, rfl, by
          refine State.setSets_kept ?_
          exact h18
          ⟩
        rw [← e]
        clear e v44
        extract_lets +onlyGivenNames v47
        obtain ⟨v48, e⟩ : ∃ y, y = v47 := ⟨_, rfl⟩
        rw [← e]
        clear e v47
        extract_lets +onlyGivenNames v49
        obtain ⟨v50, e⟩ : ∃ y, y = v49 := ⟨_, rfl⟩
        rw [← e]
        clear e v49
        extract_lets +onlyGivenNames v51
        obtain ⟨v53, e, h52⟩ : ∃ y, y = v51 ∧ Kept a (y) := ⟨_, rfl, by
          refine Kept.ite ?_ ?_
          · refine State.replanAfter_kept ?_
            exact h45
          · refine State.setPg_kept ?_
            exact h45
          ⟩
        rw [← e]
        clear e v51
        extract_lets +onlyGivenNames v54
        obtain ⟨v56, e, h55⟩ : ∃ y, y = v54 ∧ Kept a (y) := ⟨_, rfl, by
          unfold v54
          split
          · rename_i z57 z58
            exact h52
          · rename_i z59 z60 z61 z62
            refine Kept.ite ?_ ?_
            · refine State.yieldChain_kept ?_
              exact h52
            · refine State.cutChain_kept ?_
              exact h52
          ⟩
        rw [← e]
        clear e v54
        extract_lets +onlyGivenNames v63
        obtain ⟨v64, e⟩ : ∃ y, y = v63 := ⟨_, rfl⟩
        rw [← e]
        clear e v63
        extract_lets +onlyGivenNames v65
        obtain ⟨v66, e⟩ : ∃ y, y = v65 := ⟨_, rfl⟩
        rw [← e]
        clear e v65
        extract_lets +onlyGivenNames v67
        obtain ⟨v69, e, h68⟩ : ∃ y, y = v67 ∧ Kept a (y) := ⟨_, rfl, by
          refine State.setPg_kept ?_
          exact h55
          ⟩
        rw [← e]
        clear e v67
        extract_lets +onlyGivenNames v70
        obtain ⟨v72, e, h71⟩ : ∃ y, y = v70 ∧ Kept a (y) := ⟨_, rfl, by
          refine State.stampOpens_kept ?_
          exact h68
          ⟩
        rw [← e]
        clear e v70
        refine Kept.foldl ?_ ?_
        · exact h71
        · intro t73 x74 h75
          refine State.handoffs_kept ?_
          exact h75

theorem State.unclaimed_kept {a y1 y2 s} (h : Kept a s) : Kept a (State.unclaimed s y1 y2) := by
  unfold State.unclaimed
  refine Kept.foldl h ?_
  intro t x ht
  dsimp only
  split
  · refine Kept.foldl (State.setF_kept (State.severe_kept ht)) ?_
    intro t x ht
    exact State.handoff_kept ht
  · exact ht

theorem stare_kept {a y1 s} (h : Kept a s) : Kept a (stare y1 s) := by
  unfold stare
  extract_lets +onlyGivenNames v1
  obtain ⟨v2, e⟩ : ∃ y, y = v1 := ⟨_, rfl⟩
  rw [← e]
  clear e v1
  split
  · rename_i z3 z4
    exact h
  · rename_i z5 z6 z7
    extract_lets +onlyGivenNames v8
    obtain ⟨v9, e⟩ : ∃ y, y = v8 := ⟨_, rfl⟩
    rw [← e]
    clear e v8
    extract_lets +onlyGivenNames v10
    obtain ⟨v12, e, h11⟩ : ∃ y, y = v10 ∧ Kept a (y) := ⟨_, rfl, by
      refine State.reach_kept ?_
      exact h
      ⟩
    rw [← e]
    clear e v10
    extract_lets +onlyGivenNames v13
    obtain ⟨v14, e⟩ : ∃ y, y = v13 := ⟨_, rfl⟩
    rw [← e]
    clear e v13
    refine Kept.ite ?_ ?_
    · extract_lets +onlyGivenNames v15
      obtain ⟨v16, e⟩ : ∃ y, y = v15 := ⟨_, rfl⟩
      rw [← e]
      clear e v15
      extract_lets +onlyGivenNames v17
      obtain ⟨v18, e⟩ : ∃ y, y = v17 := ⟨_, rfl⟩
      rw [← e]
      clear e v17
      extract_lets +onlyGivenNames v19
      obtain ⟨v20, e⟩ : ∃ y, y = v19 := ⟨_, rfl⟩
      rw [← e]
      clear e v19
      extract_lets +onlyGivenNames v21
      obtain ⟨v23, e, h22⟩ : ∃ y, y = v21 ∧ Kept a (y) := ⟨_, rfl, by
        refine State.send_kept ?_
        exact h11
        ⟩
      rw [← e]
      clear e v21
      extract_lets +onlyGivenNames v24
      obtain ⟨v26, e, h25⟩ : ∃ y, y = v24 ∧ Kept a (y) := ⟨_, rfl, by
        refine State.send_kept ?_
        exact h22
        ⟩
      rw [← e]
      clear e v24
      extract_lets +onlyGivenNames v27
      obtain ⟨v29, e, h28⟩ : ∃ y, y = v27 ∧ Kept a (y) := ⟨_, rfl, by
        refine State.setPg_kept ?_
        exact h25
        ⟩
      rw [← e]
      clear e v27
      extract_lets +onlyGivenNames v30
      obtain ⟨v31, e⟩ : ∃ y, y = v30 := ⟨_, rfl⟩
      rw [← e]
      clear e v30
      extract_lets +onlyGivenNames v32
      obtain ⟨v34, e, h33⟩ : ∃ y, y = v32 ∧ Kept a (y) := ⟨_, rfl, by
        refine State.setStares_kept ?_
        exact h28
        ⟩
      rw [← e]
      clear e v32
      refine State.setF_kept ?_
      exact h33
    · extract_lets +onlyGivenNames v35
      obtain ⟨v37, e, h36⟩ : ∃ y, y = v35 ∧ Kept a (y) := ⟨_, rfl, by
        refine Kept.ite ?_ ?_
        · exact h11
        · refine State.send_kept ?_
          exact h11
        ⟩
      rw [← e]
      clear e v35
      refine State.setF_kept ?_
      refine State.setPg_kept ?_
      exact h36

end Sys2Proof.Machine
end

