-- ==== Sys2Proof/Laws/KeptCorrection.lean ====
section
/-! SUPPORT. Every operation of Machine/Correction.lean keeps the queue and the canonical tables (`Kept`). -/

set_option linter.unusedVariables false

namespace Sys2Proof.Machine

open Sys2Proof

theorem State.ruleRaise_kept {a s y1 y2} (h : Kept a s) : Kept a (State.ruleRaise s y1 y2) := by
  unfold State.ruleRaise
  refine State.raise_kept ?_
  exact h

theorem State.ruleStep_kept {a s y1 y2} (h : Kept a s) : Kept a (State.ruleStep s y1 y2) := by
  unfold State.ruleStep
  extract_lets +onlyGivenNames v1
  obtain ⟨v2, e⟩ : ∃ y, y = v1 := ⟨_, rfl⟩
  rw [← e]
  clear e v1
  refine Kept.ite ?_ ?_
  · exact h
  · extract_lets +onlyGivenNames v3
    obtain ⟨v4, e⟩ : ∃ y, y = v3 := ⟨_, rfl⟩
    rw [← e]
    clear e v3
    extract_lets +onlyGivenNames v5
    obtain ⟨v6, e⟩ : ∃ y, y = v5 := ⟨_, rfl⟩
    rw [← e]
    clear e v5
    extract_lets +onlyGivenNames v7
    obtain ⟨v8, e⟩ : ∃ y, y = v7 := ⟨_, rfl⟩
    rw [← e]
    clear e v7
    extract_lets +onlyGivenNames v9
    obtain ⟨v10, e⟩ : ∃ y, y = v9 := ⟨_, rfl⟩
    rw [← e]
    clear e v9
    extract_lets +onlyGivenNames v11
    obtain ⟨v12, e⟩ : ∃ y, y = v11 := ⟨_, rfl⟩
    rw [← e]
    clear e v11
    extract_lets +onlyGivenNames v13
    obtain ⟨v15, e, h14⟩ : ∃ y, y = v13 ∧ Kept a (y) := ⟨_, rfl, by
      refine Kept.ite ?_ ?_
      · exact h
      · refine State.incF_kept ?_
        refine State.setF_kept ?_
        exact h
      ⟩
    rw [← e]
    clear e v13
    refine Kept.ite ?_ ?_
    · exact h14
    · refine State.setTrim_kept ?_
      exact h14

theorem State.ruleAlarm_kept {a s y1 y2} (h : Kept a s) : Kept a (State.ruleAlarm s y1 y2) := by
  unfold State.ruleAlarm
  extract_lets +onlyGivenNames v1
  obtain ⟨v2, e⟩ : ∃ y, y = v1 := ⟨_, rfl⟩
  rw [← e]
  clear e v1
  refine Kept.ite ?_ ?_
  · refine State.setLoop_kept ?_
    exact h
  · extract_lets +onlyGivenNames v3
    obtain ⟨v4, e⟩ : ∃ y, y = v3 := ⟨_, rfl⟩
    rw [← e]
    clear e v3
    refine Kept.ite ?_ ?_
    · refine State.setLoop_kept ?_
      exact h
    · extract_lets +onlyGivenNames v5
      obtain ⟨v6, e⟩ : ∃ y, y = v5 := ⟨_, rfl⟩
      rw [← e]
      clear e v5
      extract_lets +onlyGivenNames v7
      obtain ⟨v9, e, h8⟩ : ∃ y, y = v7 ∧ Kept a (y) := ⟨_, rfl, by
        refine State.setF_kept ?_
        refine State.setLoop_kept ?_
        exact h
        ⟩
      rw [← e]
      clear e v7
      split
      · rename_i z10 z11
        exact h8
      · rename_i z12 z13
        refine State.ruleRaise_kept ?_
        exact h8
      · rename_i z14 z15
        refine State.ruleRaise_kept ?_
        exact h8
      · rename_i z16 z17 z18 z19
        refine State.ruleRaise_kept ?_
        exact h8

theorem State.ruleJudge_kept {a s y1 y2} (h : Kept a s) : Kept a (State.ruleJudge s y1 y2) := by
  unfold State.ruleJudge
  refine Kept.ite ?_ ?_
  · refine State.incF_kept ?_
    exact h
  · refine Kept.ite ?_ ?_
    · refine State.incF_kept ?_
      refine State.setF_kept ?_
      exact h
    · extract_lets +onlyGivenNames v1
      obtain ⟨v2, e⟩ : ∃ y, y = v1 := ⟨_, rfl⟩
      rw [← e]
      clear e v1
      extract_lets +onlyGivenNames v3
      obtain ⟨v4, e⟩ : ∃ y, y = v3 := ⟨_, rfl⟩
      rw [← e]
      clear e v3
      extract_lets +onlyGivenNames v5
      obtain ⟨v7, e, h6⟩ : ∃ y, y = v5 ∧ Kept a (y) := ⟨_, rfl, by
        refine State.setF_kept ?_
        refine State.incF_kept ?_
        exact h
        ⟩
      rw [← e]
      clear e v5
      extract_lets +onlyGivenNames v8
      obtain ⟨v10, e, h9⟩ : ∃ y, y = v8 ∧ Kept a (y) := ⟨_, rfl, by
        refine Kept.ite ?_ ?_
        · exact h6
        · refine State.ruleStep_kept ?_
          exact h6
        ⟩
      rw [← e]
      clear e v8
      refine State.ruleAlarm_kept ?_
      exact h9

theorem ruleRecord_kept {a y1 y2 s} (h : Kept a s) : Kept a (ruleRecord y1 y2 s) := by
  unfold ruleRecord
  extract_lets +onlyGivenNames v1
  obtain ⟨v2, e⟩ : ∃ y, y = v1 := ⟨_, rfl⟩
  rw [← e]
  clear e v1
  refine State.arrive_kept ?_ ?_
  · exact h
  · intro x3 h4
    split
    · rename_i z5 z6 z7 z8
      refine State.refuse_kept ?_
      exact h4
    · rename_i z9 z10 z11 z12 z13
      refine State.refuse_kept ?_
      exact h4
    · rename_i z14 z15 z16 z17
      extract_lets +onlyGivenNames v18
      obtain ⟨v19, e⟩ : ∃ y, y = v18 := ⟨_, rfl⟩
      rw [← e]
      clear e v18
      refine Kept.ite ?_ ?_
      · refine State.refuse_kept ?_
        exact h4
      · refine Kept.ite ?_ ?_
        · refine State.refuse_kept ?_
          exact h4
        · refine State.ruleJudge_kept ?_
          exact h4

theorem ruleEffect_kept {a y1 s} (h : Kept a s) : Kept a (ruleEffect y1 s) := by
  unfold ruleEffect
  extract_lets +onlyGivenNames v1
  obtain ⟨v2, e⟩ : ∃ y, y = v1 := ⟨_, rfl⟩
  rw [← e]
  clear e v1
  refine Kept.ite ?_ ?_
  · exact h
  · refine Kept.ite ?_ ?_
    · refine State.setTrim_kept ?_
      refine State.setF_kept ?_
      exact h
    · refine State.setF_kept ?_
      exact h

theorem ruleBarrier_kept {a s y1} (h : Kept a s) : Kept a (ruleBarrier s y1) := by
  unfold ruleBarrier
  refine Kept.ite ?_ ?_
  · refine State.setTrim_kept ?_
    exact h
  · exact h

theorem State.stareWord_kept {a s y1} (h : Kept a s) : Kept a (Prod.snd (State.stareWord s y1)) := by
  unfold State.stareWord
  split
  · rename_i z1 z2
    exact h
  · rename_i z3
    refine State.free_kept ?_
    exact h

theorem stareRecord_kept {a s} (h : Kept a s) : Kept a (stareRecord s) := by
  unfold stareRecord
  split
  · rename_i z1 z2
    exact h
  · rename_i z3 z4 z5 z6
    extract_lets +onlyGivenNames v7
    obtain ⟨v8, e⟩ : ∃ y, y = v7 := ⟨_, rfl⟩
    rw [← e]
    clear e v7
    extract_lets +onlyGivenNames v9
    obtain ⟨v10, e⟩ : ∃ y, y = v9 := ⟨_, rfl⟩
    rw [← e]
    clear e v9
    extract_lets +onlyGivenNames v11
    obtain ⟨v13, e, h12⟩ : ∃ y, y = v11 ∧ Kept a (y) := ⟨_, rfl, by
      refine Kept.ite ?_ ?_
      · exact h
      · refine State.reach_kept ?_
        exact h
      ⟩
    rw [← e]
    clear e v11
    extract_lets +onlyGivenNames v14
    obtain ⟨v16, e, h15⟩ : ∃ y, y = v14 ∧ Kept a (y) := ⟨_, rfl, by
      refine State.setStares_kept ?_
      exact h12
      ⟩
    rw [← e]
    clear e v14
    refine Kept.ite ?_ ?_
    · exact h15
    · extract_lets +onlyGivenNames v17
      obtain ⟨v19, e, h18⟩ : ∃ y, y = v17 ∧ Kept a (Prod.snd (y)) := ⟨_, rfl, by
        refine State.stareWord_kept ?_
        exact h15
        ⟩
      rw [← e]
      clear e v17
      extract_lets +onlyGivenNames v20
      obtain ⟨v22, e, h21⟩ : ∃ y, y = v20 ∧ Kept a (Prod.snd (y)) := ⟨_, rfl, by
        refine State.stareWord_kept ?_
        exact h18
        ⟩
      rw [← e]
      clear e v20
      extract_lets +onlyGivenNames v23
      obtain ⟨v25, e, h24⟩ : ∃ y, y = v23 ∧ Kept a (y) := ⟨_, rfl, by
        exact h21
        ⟩
      rw [← e]
      clear e v23
      extract_lets +onlyGivenNames v26
      obtain ⟨v27, e⟩ : ∃ y, y = v26 := ⟨_, rfl⟩
      rw [← e]
      clear e v26
      extract_lets +onlyGivenNames v28
      obtain ⟨v29, e⟩ : ∃ y, y = v28 := ⟨_, rfl⟩
      rw [← e]
      clear e v28
      extract_lets +onlyGivenNames v30
      obtain ⟨v32, e, h31⟩ : ∃ y, y = v30 ∧ Kept a (y) := ⟨_, rfl, by
        refine State.sts_kept ?_
        exact h24
        ⟩
      rw [← e]
      clear e v30
      refine State.setF_kept ?_
      exact h31

theorem lrecEffect_kept {a s0 s} (h : Kept a s) : Kept a (lrecEffect s0 s) := by
  unfold lrecEffect
  refine Kept.ite ?_ ?_
  · refine State.setF_kept ?_
    exact h
  · exact h

theorem processRecord_kept {a y1 s} (h : Kept a s) : Kept a (processRecord y1 s) := by
  unfold processRecord
  extract_lets +onlyGivenNames v1
  obtain ⟨v2, e⟩ : ∃ y, y = v1 := ⟨_, rfl⟩
  rw [← e]
  clear e v1
  split
  · rename_i z3 z4
    exact h
  · rename_i z5 z6 z7 z8
    refine State.sendMsg_kept ?_
    refine State.setPg_kept ?_
    exact h

end Sys2Proof.Machine
end

