-- ==== Sys2Proof/Laws/KeptJob.lean ====
section
/-! SUPPORT. Every operation of Machine/Job.lean keeps the queue and the canonical tables (`Kept`). -/

set_option linter.unusedVariables false

namespace Sys2Proof.Machine

open Sys2Proof

theorem State.instructionError_kept {a s y1 y2} (h : Kept a s) : Kept a (State.instructionError s y1 y2) := by
  unfold State.instructionError
  extract_lets +onlyGivenNames v1
  obtain ⟨v3, e, h2⟩ : ∃ y, y = v1 ∧ Kept a (y) := ⟨_, rfl, by
    refine State.reach_kept ?_
    exact h
    ⟩
  rw [← e]
  clear e v1
  extract_lets +onlyGivenNames v4
  obtain ⟨v6, e, h5⟩ : ∃ y, y = v4 ∧ Kept a (y) := ⟨_, rfl, by
    refine State.severe_kept ?_
    refine State.setF_kept ?_
    exact h2
    ⟩
  rw [← e]
  clear e v4
  extract_lets +onlyGivenNames v7
  obtain ⟨v8, e⟩ : ∃ y, y = v7 := ⟨_, rfl⟩
  rw [← e]
  clear e v7
  refine State.suspend_kept ?_
  exact h5

theorem State.leaveVector_kept {a s y1} (h : Kept a s) : Kept a (State.leaveVector s y1) := by
  unfold State.leaveVector
  split
  · rename_i z1 z2 z3
    refine Kept.ite ?_ ?_
    · refine State.noEmitRecord_kept ?_
      exact h
    · exact h
  · rename_i z4 z5
    exact h

theorem State.dropCont_kept {a s y1} (h : Kept a s) : Kept a (State.dropCont s y1) := by
  unfold State.dropCont
  extract_lets +onlyGivenNames v1
  obtain ⟨v2, e⟩ : ∃ y, y = v1 := ⟨_, rfl⟩
  rw [← e]
  clear e v1
  split
  · rename_i z3 z4 z5 z6
    refine Kept.ite ?_ ?_
    · refine State.setPg_kept ?_
      exact h
    · exact h
  · rename_i z7 z8
    exact h

theorem State.layerEffect_kept {a s y1 y2} (h : Kept a s) : Kept a (State.layerEffect s y1 y2) := by
  unfold State.layerEffect
  split
  · rename_i z1 z2 z3
    refine State.setF_kept ?_
    exact h
  · rename_i z4 z5 z6
    refine State.setPg_kept ?_
    exact h
  · rename_i z7 z8 z9 z10 z11 z12
    refine State.setPg_kept ?_
    exact h
  · rename_i z13 z14 z15 z16
    exact h

theorem State.execLayer_kept {a s y1 y2} (h : Kept a s) : Kept a (State.execLayer s y1 y2) := by
  unfold State.execLayer
  extract_lets +onlyGivenNames v1
  obtain ⟨v3, e, h2⟩ : ∃ y, y = v1 ∧ Kept a (y) := ⟨_, rfl, by
    refine State.dropCont_kept ?_
    exact h
    ⟩
  rw [← e]
  clear e v1
  split
  · rename_i z4 z5
    exact h2
  · rename_i z6 z7 z8 z9
    extract_lets +onlyGivenNames v10
    obtain ⟨v11, e⟩ : ∃ y, y = v10 := ⟨_, rfl⟩
    rw [← e]
    clear e v10
    extract_lets +onlyGivenNames v12
    obtain ⟨v13, e⟩ : ∃ y, y = v12 := ⟨_, rfl⟩
    rw [← e]
    clear e v12
    refine Kept.ite ?_ ?_
    · exact h2
    · refine Kept.ite ?_ ?_
      · refine State.instructionError_kept ?_
        exact h2
      · refine Kept.ite ?_ ?_
        · exact h2
        · extract_lets +onlyGivenNames v14
          obtain ⟨v16, e, h15⟩ : ∃ y, y = v14 ∧ Kept a (y) := ⟨_, rfl, by
            refine State.leaveVector_kept ?_
            refine State.reach_kept ?_
            exact h2
            ⟩
          rw [← e]
          clear e v14
          extract_lets +onlyGivenNames v17
          obtain ⟨v19, e, h18⟩ : ∃ y, y = v17 ∧ Kept a (y) := ⟨_, rfl, by
            refine State.windowTo_kept ?_
            exact h15
            ⟩
          rw [← e]
          clear e v17
          extract_lets +onlyGivenNames v20
          obtain ⟨v21, e⟩ : ∃ y, y = v20 := ⟨_, rfl⟩
          rw [← e]
          clear e v20
          extract_lets +onlyGivenNames v22
          obtain ⟨v24, e, h23⟩ : ∃ y, y = v22 ∧ Kept a (y) := ⟨_, rfl, by
            refine State.setPg_kept ?_
            refine State.setF_kept ?_
            exact h18
            ⟩
          rw [← e]
          clear e v22
          refine State.layerEffect_kept ?_
          exact h23

theorem layerEnd_kept {a y1 s} (h : Kept a s) : Kept a (layerEnd y1 s) := by
  unfold layerEnd
  extract_lets +onlyGivenNames v1
  obtain ⟨v3, e, h2⟩ : ∃ y, y = v1 ∧ Kept a (y) := ⟨_, rfl, by
    refine State.dropCont_kept ?_
    exact h
    ⟩
  rw [← e]
  clear e v1
  split
  · rename_i z4 z5
    exact h2
  · rename_i z6 z7 z8 z9
    refine Kept.ite ?_ ?_
    · exact h2
    · refine Kept.ite ?_ ?_
      · refine Kept.ite ?_ ?_
        · refine State.instructionError_kept ?_
          exact h2
        · exact h2
      · refine Kept.ite ?_ ?_
        · exact h2
        · extract_lets +onlyGivenNames v10
          obtain ⟨v12, e, h11⟩ : ∃ y, y = v10 ∧ Kept a (y) := ⟨_, rfl, by
            refine State.leaveVector_kept ?_
            refine State.reach_kept ?_
            exact h2
            ⟩
          rw [← e]
          clear e v10
          extract_lets +onlyGivenNames v13
          obtain ⟨v15, e, h14⟩ : ∃ y, y = v13 ∧ Kept a (y) := ⟨_, rfl, by
            refine State.windowTo_kept ?_
            exact h11
            ⟩
          rw [← e]
          clear e v13
          extract_lets +onlyGivenNames v16
          obtain ⟨v17, e⟩ : ∃ y, y = v16 := ⟨_, rfl⟩
          rw [← e]
          clear e v16
          extract_lets +onlyGivenNames v18
          obtain ⟨v19, e⟩ : ∃ y, y = v18 := ⟨_, rfl⟩
          rw [← e]
          clear e v18
          extract_lets +onlyGivenNames v20
          obtain ⟨v22, e, h21⟩ : ∃ y, y = v20 ∧ Kept a (y) := ⟨_, rfl, by
            refine Kept.ite ?_ ?_
            · refine State.closePart_kept ?_
              refine State.gateOff_kept ?_
              exact h14
            · exact h14
            ⟩
          rw [← e]
          clear e v20
          extract_lets +onlyGivenNames v23
          obtain ⟨v25, e, h24⟩ : ∃ y, y = v23 ∧ Kept a (y) := ⟨_, rfl, by
            refine State.cancelLooks_kept ?_
            exact h21
            ⟩
          rw [← e]
          clear e v23
          extract_lets +onlyGivenNames v26
          obtain ⟨v27, e⟩ : ∃ y, y = v26 := ⟨_, rfl⟩
          rw [← e]
          clear e v26
          extract_lets +onlyGivenNames v28
          obtain ⟨v30, e, h29⟩ : ∃ y, y = v28 ∧ Kept a (y) := ⟨_, rfl, by
            refine State.setPg_kept ?_
            exact h24
            ⟩
          rw [← e]
          clear e v28
          extract_lets +onlyGivenNames v31
          obtain ⟨v33, e, h32⟩ : ∃ y, y = v31 ∧ Kept a (y) := ⟨_, rfl, by
            refine State.setF_kept ?_
            exact h29
            ⟩
          rw [← e]
          clear e v31
          extract_lets +onlyGivenNames v34
          obtain ⟨v36, e, h35⟩ : ∃ y, y = v34 ∧ Kept a (y) := ⟨_, rfl, by
            refine State.send_kept ?_
            exact h32
            ⟩
          rw [← e]
          clear e v34
          extract_lets +onlyGivenNames v37
          obtain ⟨v38, e⟩ : ∃ y, y = v37 := ⟨_, rfl⟩
          rw [← e]
          clear e v37
          extract_lets +onlyGivenNames v39
          obtain ⟨v41, e, h40⟩ : ∃ y, y = v39 ∧ Kept a (y) := ⟨_, rfl, by
            refine State.windowDone_kept ?_
            exact h35
            ⟩
          rw [← e]
          clear e v39
          extract_lets +onlyGivenNames v42
          obtain ⟨v43, e⟩ : ∃ y, y = v42 := ⟨_, rfl⟩
          rw [← e]
          clear e v42
          extract_lets +onlyGivenNames v44
          obtain ⟨v46, e, h45⟩ : ∃ y, y = v44 ∧ Kept a (y) := ⟨_, rfl, by
            refine State.setF_kept ?_
            refine State.setF_kept ?_
            exact h40
            ⟩
          rw [← e]
          clear e v44
          extract_lets +onlyGivenNames v47
          obtain ⟨v48, e⟩ : ∃ y, y = v47 := ⟨_, rfl⟩
          rw [← e]
          clear e v47
          extract_lets +onlyGivenNames v49
          obtain ⟨v51, e, h50⟩ : ∃ y, y = v49 ∧ Kept a (y) := ⟨_, rfl, by
            refine State.unclaimed_kept ?_
            refine State.setPgState_kept ?_
            exact h45
            ⟩
          rw [← e]
          clear e v49
          refine Kept.ite ?_ ?_
          · refine State.info_kept ?_
            exact h50
          · exact h50

theorem dwellEnd_kept {a y1 s} (h : Kept a s) : Kept a (dwellEnd y1 s) := by
  unfold dwellEnd
  split
  · rename_i z1 z2 z3
    extract_lets +onlyGivenNames v4
    obtain ⟨v6, e, h5⟩ : ∃ y, y = v4 ∧ Kept a (y) := ⟨_, rfl, by
      refine State.reach_kept ?_
      exact h
      ⟩
    rw [← e]
    clear e v4
    refine State.setPg_kept ?_
    exact h5
  · rename_i z7 z8
    exact h

theorem windowPoll_kept {a y1 s} (h : Kept a s) : Kept a (windowPoll y1 s) := by
  unfold windowPoll
  refine planStep_kept ?_
  exact h

theorem leadUpdate_kept {a y1 s} (h : Kept a s) : Kept a (leadUpdate y1 s) := by
  unfold leadUpdate
  extract_lets +onlyGivenNames v1
  obtain ⟨v2, e⟩ : ∃ y, y = v1 := ⟨_, rfl⟩
  rw [← e]
  clear e v1
  extract_lets +onlyGivenNames v3
  obtain ⟨v5, e, h4⟩ : ∃ y, y = v3 ∧ Kept a (y) := ⟨_, rfl, by
    refine State.setF_kept ?_
    refine State.setF_kept ?_
    exact h
    ⟩
  rw [← e]
  clear e v3
  extract_lets +onlyGivenNames v6
  obtain ⟨v7, e⟩ : ∃ y, y = v6 := ⟨_, rfl⟩
  rw [← e]
  clear e v6
  extract_lets +onlyGivenNames v8
  obtain ⟨v9, e⟩ : ∃ y, y = v8 := ⟨_, rfl⟩
  rw [← e]
  clear e v8
  refine Kept.ite ?_ ?_
  · extract_lets +onlyGivenNames v10
    obtain ⟨v12, e, h11⟩ : ∃ y, y = v10 ∧ Kept a (y) := ⟨_, rfl, by
      refine State.setPg_kept ?_
      exact h4
      ⟩
    rw [← e]
    clear e v10
    refine Kept.ite ?_ ?_
    · refine State.warn_kept ?_
      refine State.setF_kept ?_
      exact h11
    · exact h11
  · exact h4

theorem underrun_kept {a y1 s} (h : Kept a s) : Kept a (underrun y1 s) := by
  unfold underrun
  extract_lets +onlyGivenNames v1
  obtain ⟨v2, e⟩ : ∃ y, y = v1 := ⟨_, rfl⟩
  rw [← e]
  clear e v1
  extract_lets +onlyGivenNames v3
  obtain ⟨v4, e⟩ : ∃ y, y = v3 := ⟨_, rfl⟩
  rw [← e]
  clear e v3
  refine Kept.ite ?_ ?_
  · exact h
  · extract_lets +onlyGivenNames v5
    obtain ⟨v7, e, h6⟩ : ∃ y, y = v5 ∧ Kept a (y) := ⟨_, rfl, by
      refine State.leaveVector_kept ?_
      refine State.reach_kept ?_
      exact h
      ⟩
    rw [← e]
    clear e v5
    extract_lets +onlyGivenNames v8
    obtain ⟨v10, e, h9⟩ : ∃ y, y = v8 ∧ Kept a (y) := ⟨_, rfl, by
      refine State.severe_kept ?_
      refine State.setF_kept ?_
      exact h6
      ⟩
    rw [← e]
    clear e v8
    refine State.suspend_kept ?_
    exact h9

theorem pgArm_kept {a y1 y2 s} (h : Kept a s) : Kept a (pgArm y1 y2 s) := by
  unfold pgArm
  refine Kept.ite ?_ ?_
  · refine State.pgRefused_kept ?_
    exact h
  · extract_lets +onlyGivenNames v1
    obtain ⟨v2, e⟩ : ∃ y, y = v1 := ⟨_, rfl⟩
    rw [← e]
    clear e v1
    extract_lets +onlyGivenNames v3
    obtain ⟨v4, e⟩ : ∃ y, y = v3 := ⟨_, rfl⟩
    rw [← e]
    clear e v3
    extract_lets +onlyGivenNames v5
    obtain ⟨v6, e⟩ : ∃ y, y = v5 := ⟨_, rfl⟩
    rw [← e]
    clear e v5
    extract_lets +onlyGivenNames v7
    obtain ⟨v9, e, h8⟩ : ∃ y, y = v7 ∧ Kept a (y) := ⟨_, rfl, by
      refine State.setF_kept ?_
      refine State.setF_kept ?_
      refine State.setPgState_kept ?_
      exact h
      ⟩
    rw [← e]
    clear e v7
    refine State.setPg_kept ?_
    refine State.setF_kept ?_
    exact h8

theorem pgPause_kept {a y1 y2 s} (h : Kept a s) : Kept a (pgPause y1 y2 s) := by
  unfold pgPause
  refine Kept.ite ?_ ?_
  · refine State.pgRefused_kept ?_
    exact h
  · refine State.lockStop_kept ?_
    refine State.setPg_kept ?_
    refine State.setPgState_kept ?_
    exact h

theorem pgResume_kept {a y1 y2 s} (h : Kept a s) : Kept a (pgResume y1 y2 s) := by
  unfold pgResume
  refine Kept.ite ?_ ?_
  · refine State.pgRefused_kept ?_
    exact h
  · extract_lets +onlyGivenNames v1
    obtain ⟨v2, e⟩ : ∃ y, y = v1 := ⟨_, rfl⟩
    rw [← e]
    clear e v1
    extract_lets +onlyGivenNames v3
    obtain ⟨v4, e⟩ : ∃ y, y = v3 := ⟨_, rfl⟩
    rw [← e]
    clear e v3
    extract_lets +onlyGivenNames v5
    obtain ⟨v6, e⟩ : ∃ y, y = v5 := ⟨_, rfl⟩
    rw [← e]
    clear e v5
    extract_lets +onlyGivenNames v7
    obtain ⟨v8, e⟩ : ∃ y, y = v7 := ⟨_, rfl⟩
    rw [← e]
    clear e v7
    extract_lets +onlyGivenNames v9
    obtain ⟨v10, e⟩ : ∃ y, y = v9 := ⟨_, rfl⟩
    rw [← e]
    clear e v9
    extract_lets +onlyGivenNames v11
    obtain ⟨v12, e⟩ : ∃ y, y = v11 := ⟨_, rfl⟩
    rw [← e]
    clear e v11
    extract_lets +onlyGivenNames v13
    obtain ⟨v15, e, h14⟩ : ∃ y, y = v13 ∧ Kept a (y) := ⟨_, rfl, by
      refine State.setPg_kept ?_
      refine State.setF_kept ?_
      refine State.setPgState_kept ?_
      exact h
      ⟩
    rw [← e]
    clear e v13
    extract_lets +onlyGivenNames v16
    obtain ⟨v18, e, h17⟩ : ∃ y, y = v16 ∧ Kept a (y) := ⟨_, rfl, by
      refine Kept.ite ?_ ?_
      · refine State.planError_kept ?_
        exact h14
      · exact h14
      ⟩
    rw [← e]
    clear e v16
    refine State.lockStop_kept ?_
    exact h17

theorem pgAbort_kept {a y1 s} (h : Kept a s) : Kept a (pgAbort y1 s) := by
  unfold pgAbort
  refine Kept.ite ?_ ?_
  · refine State.pgRefused_kept ?_
    exact h
  · extract_lets +onlyGivenNames v1
    obtain ⟨v2, e⟩ : ∃ y, y = v1 := ⟨_, rfl⟩
    rw [← e]
    clear e v1
    extract_lets +onlyGivenNames v3
    obtain ⟨v4, e⟩ : ∃ y, y = v3 := ⟨_, rfl⟩
    rw [← e]
    clear e v3
    extract_lets +onlyGivenNames v5
    obtain ⟨v6, e⟩ : ∃ y, y = v5 := ⟨_, rfl⟩
    rw [← e]
    clear e v5
    extract_lets +onlyGivenNames v7
    obtain ⟨v9, e, h8⟩ : ∃ y, y = v7 ∧ Kept a (y) := ⟨_, rfl, by
      refine Kept.ite ?_ ?_
      · refine State.closePart_kept ?_
        refine State.gateOff_kept ?_
        exact h
      · exact h
      ⟩
    rw [← e]
    clear e v7
    extract_lets +onlyGivenNames v10
    obtain ⟨v12, e, h11⟩ : ∃ y, y = v10 ∧ Kept a (y) := ⟨_, rfl, by
      refine State.stopRamp_kept ?_
      exact h8
      ⟩
    rw [← e]
    clear e v10
    extract_lets +onlyGivenNames v13
    obtain ⟨v15, e, h14⟩ : ∃ y, y = v13 ∧ Kept a (y) := ⟨_, rfl, by
      refine State.cancelLooks_kept ?_
      refine State.setSets_kept ?_
      exact h11
      ⟩
    rw [← e]
    clear e v13
    extract_lets +onlyGivenNames v16
    obtain ⟨v17, e⟩ : ∃ y, y = v16 := ⟨_, rfl⟩
    rw [← e]
    clear e v16
    extract_lets +onlyGivenNames v18
    obtain ⟨v19, e⟩ : ∃ y, y = v18 := ⟨_, rfl⟩
    rw [← e]
    clear e v18
    extract_lets +onlyGivenNames v20
    obtain ⟨v21, e⟩ : ∃ y, y = v20 := ⟨_, rfl⟩
    rw [← e]
    clear e v20
    refine State.setPg_kept ?_
    refine State.setPgState_kept ?_
    exact h14

theorem pgDisarm_kept {a y1 s} (h : Kept a s) : Kept a (pgDisarm y1 s) := by
  unfold pgDisarm
  refine Kept.ite ?_ ?_
  · refine State.setPgState_kept ?_
    exact h
  · refine State.pgRefused_kept ?_
    exact h

theorem pgCmdAct_kept {a y1 y2 s} (h : Kept a s) : Kept a (pgCmdAct y1 y2 s) := by
  unfold pgCmdAct
  extract_lets +onlyGivenNames v1
  obtain ⟨v2, e⟩ : ∃ y, y = v1 := ⟨_, rfl⟩
  rw [← e]
  clear e v1
  extract_lets +onlyGivenNames v3
  obtain ⟨v4, e⟩ : ∃ y, y = v3 := ⟨_, rfl⟩
  rw [← e]
  clear e v3
  refine Kept.ite ?_ ?_
  · refine pgArm_kept ?_
    exact h
  · refine Kept.ite ?_ ?_
    · refine pgPause_kept ?_
      exact h
    · refine Kept.ite ?_ ?_
      · refine pgResume_kept ?_
        exact h
      · refine Kept.ite ?_ ?_
        · refine pgAbort_kept ?_
          exact h
        · refine pgDisarm_kept ?_
          exact h

theorem pgCommand_kept {a y1 y2 s} (h : Kept a s) : Kept a (pgCommand y1 y2 s) := by
  unfold pgCommand
  refine State.arrive_kept ?_ ?_
  · exact h
  · intro x1 h2
    refine Kept.ite ?_ ?_
    · refine State.refuse_kept ?_
      exact h2
    · refine Kept.ite ?_ ?_
      · refine State.refuse_kept ?_
        exact h2
      · refine Kept.ite ?_ ?_
        · refine State.refuse_kept ?_
          exact h2
        · refine Kept.ite ?_ ?_
          · refine State.refuse_kept ?_
            exact h2
          · refine State.whenDue_kept ?_ ?_
            · exact h2
            · intro x3 h4
              refine pgCmdAct_kept ?_
              exact h4

theorem pgRow_kept {a y1 y2 y3 s} (h : Kept a s) : Kept a (pgRow y1 y2 y3 s) := by
  unfold pgRow
  extract_lets +onlyGivenNames v1
  obtain ⟨v2, e⟩ : ∃ y, y = v1 := ⟨_, rfl⟩
  rw [← e]
  clear e v1
  refine Kept.ite ?_ ?_
  · exact h
  · refine pgCommand_kept ?_
    exact h

theorem State.insertRunOut_kept {a s y1 y2 y3} (h : Kept a s) : Kept a (State.insertRunOut s y1 y2 y3) := by
  unfold State.insertRunOut
  extract_lets +onlyGivenNames v1
  obtain ⟨v2, e⟩ : ∃ y, y = v1 := ⟨_, rfl⟩
  rw [← e]
  clear e v1
  extract_lets +onlyGivenNames v3
  obtain ⟨v4, e⟩ : ∃ y, y = v3 := ⟨_, rfl⟩
  rw [← e]
  clear e v3
  extract_lets +onlyGivenNames v5
  obtain ⟨v6, e⟩ : ∃ y, y = v5 := ⟨_, rfl⟩
  rw [← e]
  clear e v5
  extract_lets +onlyGivenNames v7
  obtain ⟨v8, e⟩ : ∃ y, y = v7 := ⟨_, rfl⟩
  rw [← e]
  clear e v7
  refine Kept.ite ?_ ?_
  · refine State.setPg_kept ?_
    exact h
  · extract_lets +onlyGivenNames v9
    obtain ⟨v10, e⟩ : ∃ y, y = v9 := ⟨_, rfl⟩
    rw [← e]
    clear e v9
    extract_lets +onlyGivenNames v11
    obtain ⟨v12, e⟩ : ∃ y, y = v11 := ⟨_, rfl⟩
    rw [← e]
    clear e v11
    extract_lets +onlyGivenNames v13
    obtain ⟨v14, e⟩ : ∃ y, y = v13 := ⟨_, rfl⟩
    rw [← e]
    clear e v13
    extract_lets +onlyGivenNames v15
    obtain ⟨v16, e⟩ : ∃ y, y = v15 := ⟨_, rfl⟩
    rw [← e]
    clear e v15
    extract_lets +onlyGivenNames v17
    obtain ⟨v18, e⟩ : ∃ y, y = v17 := ⟨_, rfl⟩
    rw [← e]
    clear e v17
    extract_lets +onlyGivenNames v19
    obtain ⟨v21, e, h20⟩ : ∃ y, y = v19 ∧ Kept a (y) := ⟨_, rfl, by
      refine State.setF_kept ?_
      refine State.setPg_kept ?_
      exact h
      ⟩
    rw [← e]
    clear e v19
    refine Kept.ite ?_ ?_
    · refine State.warn_kept ?_
      exact h20
    · refine State.severe_kept ?_
      exact h20

theorem pausePoint_kept {a y1 s} (h : Kept a s) : Kept a (pausePoint y1 s) := by
  unfold pausePoint
  extract_lets +onlyGivenNames v1
  obtain ⟨v2, e⟩ : ∃ y, y = v1 := ⟨_, rfl⟩
  rw [← e]
  clear e v1
  split
  · rename_i z3 z4
    exact h
  · rename_i z5 z6 z7
    extract_lets +onlyGivenNames v8
    obtain ⟨v9, e⟩ : ∃ y, y = v8 := ⟨_, rfl⟩
    rw [← e]
    clear e v8
    refine Kept.ite ?_ ?_
    · exact h
    · extract_lets +onlyGivenNames v10
      obtain ⟨v12, e, h11⟩ : ∃ y, y = v10 ∧ Kept a (y) := ⟨_, rfl, by
        refine State.reach_kept ?_
        exact h
        ⟩
      rw [← e]
      clear e v10
      extract_lets +onlyGivenNames v13
      obtain ⟨v14, e⟩ : ∃ y, y = v13 := ⟨_, rfl⟩
      rw [← e]
      clear e v13
      extract_lets +onlyGivenNames v15
      obtain ⟨v17, e, h16⟩ : ∃ y, y = v15 ∧ Kept a (y) := ⟨_, rfl, by
        unfold v15
        split
        · rename_i z18 z19 z20
          refine Kept.ite ?_ ?_
          · extract_lets +onlyGivenNames v21
            obtain ⟨v23, e, h22⟩ : ∃ y, y = v21 ∧ Kept a (y) := ⟨_, rfl, by
              refine Kept.ite ?_ ?_
              · refine State.closePart_kept ?_
                refine State.gateOff_kept ?_
                exact h11
              · exact h11
              ⟩
            rw [← e]
            clear e v21
            refine State.insertRunOut_kept ?_
            exact h22
          · exact h11
        · rename_i z24 z25
          exact h11
        ⟩
      rw [← e]
      clear e v15
      extract_lets +onlyGivenNames v26
      obtain ⟨v27, e⟩ : ∃ y, y = v26 := ⟨_, rfl⟩
      rw [← e]
      clear e v26
      extract_lets +onlyGivenNames v28
      obtain ⟨v29, e⟩ : ∃ y, y = v28 := ⟨_, rfl⟩
      rw [← e]
      clear e v28
      refine State.suspend_kept ?_
      refine State.leaveVector_kept ?_
      exact h16

theorem resumeRun_kept {a y1 s} (h : Kept a s) : Kept a (resumeRun y1 s) := by
  unfold resumeRun
  refine Kept.ite ?_ ?_
  · exact h
  · extract_lets +onlyGivenNames v1
    obtain ⟨v2, e⟩ : ∃ y, y = v1 := ⟨_, rfl⟩
    rw [← e]
    clear e v1
    extract_lets +onlyGivenNames v3
    obtain ⟨v4, e⟩ : ∃ y, y = v3 := ⟨_, rfl⟩
    rw [← e]
    clear e v3
    split
    · rename_i z5
      exact h
    · rename_i z6 z7
      refine State.lockStop_kept ?_
      refine State.setPgState_kept ?_
      refine State.reach_kept ?_
      exact h

theorem pgBarrier_kept {a y1 y2 s} (h : Kept a s) : Kept a (pgBarrier y1 y2 s) := by
  unfold pgBarrier
  refine Kept.ite ?_ ?_
  · extract_lets +onlyGivenNames v1
    obtain ⟨v2, e⟩ : ∃ y, y = v1 := ⟨_, rfl⟩
    rw [← e]
    clear e v1
    refine State.lockStop_kept ?_
    refine State.setPg_kept ?_
    refine State.setF_kept ?_
    refine State.setPgState_kept ?_
    exact h
  · refine State.pgRefused_kept ?_
    exact h

theorem straceEffect_kept {a y1 s1 s} (h : Kept a s) : Kept a (straceEffect y1 s1 s) := by
  unfold straceEffect
  refine Kept.ite ?_ ?_
  · refine State.setF_kept ?_
    exact h
  · exact h

theorem pgTrkEffect_kept {a y1 s1 s} (h : Kept a s) : Kept a (pgTrkEffect y1 s1 s) := by
  unfold pgTrkEffect
  refine Kept.ite ?_ ?_
  · refine trkEnCleared_kept ?_
    exact h
  · exact h

theorem hrecEffect_kept {a s0 s} (h : Kept a s) : Kept a (hrecEffect s0 s) := by
  unfold hrecEffect
  refine Kept.ite ?_ ?_
  · refine State.setF_kept ?_
    exact h
  · exact h

theorem mapSwap_kept {a y1 s} (h : Kept a s) : Kept a (mapSwap y1 s) := by
  unfold mapSwap
  refine Kept.ite ?_ ?_
  · extract_lets +onlyGivenNames v1
    obtain ⟨v3, e, h2⟩ : ∃ y, y = v1 ∧ Kept a (y) := ⟨_, rfl, by
      refine mapTake_kept ?_
      exact h
      ⟩
    rw [← e]
    clear e v1
    refine State.setPg_kept ?_
    exact h2
  · exact h

end Sys2Proof.Machine
end

