-- ==== Sys2Proof/Laws/KeptBarrier.lean ====
section
/-! SUPPORT. Every operation of Machine/Barrier.lean keeps the queue and the canonical tables (`Kept`). -/

set_option linter.unusedVariables false

namespace Sys2Proof.Machine

open Sys2Proof

theorem barrierFanout_kept {a y1 s} (h : Kept a s) : Kept a (barrierFanout y1 s) := by
  unfold barrierFanout
  refine Kept.ite ?_ ?_
  · exact h
  · refine State.arrive_kept ?_ ?_
    · exact h
    · intro x1 h2
      refine Kept.ite ?_ ?_
      · refine State.refuse_kept ?_
        exact h2
      · refine Kept.ite ?_ ?_
        · exact h2
        · refine Kept.ite ?_ ?_
          · refine State.refuse_kept ?_
            exact h2
          · refine State.setFanout_kept ?_
            exact h2

theorem barrierJudge_kept {a s} (h : Kept a s) : Kept a (barrierJudge s) := by
  unfold barrierJudge
  split
  · rename_i z1 z2
    exact h
  · rename_i z3 z4 z5
    extract_lets +onlyGivenNames v6
    obtain ⟨v8, e, h7⟩ : ∃ y, y = v6 ∧ Kept a (y) := ⟨_, rfl, by
      refine State.setFanout_kept ?_
      refine State.reach_kept ?_
      exact h
      ⟩
    rw [← e]
    clear e v6
    refine Kept.ite ?_ ?_
    · refine forEach_kept ?_ ?_
      · exact h7
      · intro x9 x10 h11
        refine State.pgRefused_kept ?_
        exact h11
    · refine State.setPassed_kept ?_
      refine State.setNet_kept ?_
      exact h7

theorem State.zoneBarrier_kept {a s} (h : Kept a s) : Kept a (State.zoneBarrier s) := by
  unfold State.zoneBarrier
  refine Kept.ite ?_ ?_
  · refine State.setF_kept ?_
    refine State.setWord_kept ?_
    refine State.setWord_kept ?_
    exact h
  · exact h

theorem State.mapBarrier_kept {a s y1} (h : Kept a s) : Kept a (State.mapBarrier s y1) := by
  unfold State.mapBarrier
  refine Kept.ite ?_ ?_
  · exact h
  · refine Kept.ite ?_ ?_
    · refine mapTake_kept ?_
      exact h
    · refine State.info_kept ?_
      exact h

theorem State.boundary_kept {a s y1 y2} (h : Kept a s) : Kept a (State.boundary s y1 y2) := by
  unfold State.boundary
  extract_lets +onlyGivenNames v1
  obtain ⟨v3, e, h2⟩ : ∃ y, y = v1 ∧ Kept a (y) := ⟨_, rfl, by
    refine State.zoneBarrier_kept ?_
    exact h
    ⟩
  rw [← e]
  clear e v1
  extract_lets +onlyGivenNames v4
  obtain ⟨v6, e, h5⟩ : ∃ y, y = v4 ∧ Kept a (y) := ⟨_, rfl, by
    refine forEach_kept ?_ ?_
    · exact h2
    · intro x7 x8 h9
      refine State.mapBarrier_kept ?_
      exact h9
    ⟩
  rw [← e]
  clear e v4
  extract_lets +onlyGivenNames v10
  obtain ⟨v12, e, h11⟩ : ∃ y, y = v10 ∧ Kept a (y) := ⟨_, rfl, by
    refine forEach_kept ?_ ?_
    · exact h5
    · intro x13 x14 h15
      refine regStep_kept ?_
      exact h15
    ⟩
  rw [← e]
  clear e v10
  extract_lets +onlyGivenNames v16
  obtain ⟨v18, e, h17⟩ : ∃ y, y = v16 ∧ Kept a (y) := ⟨_, rfl, by
    refine forEach_kept ?_ ?_
    · exact h11
    · intro x19 x20 h21
      refine servoBarrier_kept ?_
      exact h21
    ⟩
  rw [← e]
  clear e v16
  extract_lets +onlyGivenNames v22
  obtain ⟨v24, e, h23⟩ : ∃ y, y = v22 ∧ Kept a (y) := ⟨_, rfl, by
    refine forEach_kept ?_ ?_
    · exact h17
    · intro x25 x26 h27
      refine camBarrier_kept ?_
      exact h27
    ⟩
  rw [← e]
  clear e v22
  refine forEach_kept ?_ ?_
  · exact h23
  · intro x28 x29 h30
    refine ruleBarrier_kept ?_
    exact h30

theorem State.applyPassed_kept {a s y1} (h : Kept a s) : Kept a (State.applyPassed s y1) := by
  unfold State.applyPassed
  refine Kept.ite ?_ ?_
  · extract_lets +onlyGivenNames v1
    obtain ⟨v3, e, h2⟩ : ∃ y, y = v1 ∧ Kept a (y) := ⟨_, rfl, by
      refine State.setPassed_kept ?_
      exact h
      ⟩
    rw [← e]
    clear e v1
    refine State.boundary_kept ?_
    exact h2
  · exact h

theorem State.dropPassed_kept {a s} (h : Kept a s) : Kept a (State.dropPassed s) := by
  unfold State.dropPassed
  refine State.setPassed_kept ?_
  exact h

theorem barrier_kept {a y1 y2 s} (h : Kept a s) : Kept a (barrier y1 y2 s) := by
  unfold barrier
  extract_lets +onlyGivenNames v1
  obtain ⟨v2, e⟩ : ∃ y, y = v1 := ⟨_, rfl⟩
  rw [← e]
  clear e v1
  refine Kept.ite ?_ ?_
  · exact h
  · refine State.arrive_kept ?_ ?_
    · exact h
    · intro x3 h4
      refine Kept.ite ?_ ?_
      · exact h4
      · refine Kept.ite ?_ ?_
        · refine State.refuse_kept ?_
          exact h4
        · extract_lets +onlyGivenNames v5
          obtain ⟨v6, e⟩ : ∃ y, y = v5 := ⟨_, rfl⟩
          rw [← e]
          clear e v5
          extract_lets +onlyGivenNames v7
          obtain ⟨v9, e, h8⟩ : ∃ y, y = v7 ∧ Kept a (y) := ⟨_, rfl, by
            refine State.reach_kept ?_
            exact h4
            ⟩
          rw [← e]
          clear e v7
          refine Kept.ite ?_ ?_
          · refine State.dropPassed_kept ?_
            refine pgBarrier_kept ?_
            refine State.applyPassed_kept ?_
            exact h8
          · refine Kept.ite ?_ ?_
            · refine State.pgRefused_kept ?_
              exact h8
            · refine pgBarrier_kept ?_
              exact h8

end Sys2Proof.Machine
end

