-- ==== Sys2Proof/Laws/KeptColFifo.lean ====
section
/-! SUPPORT. Every operation of Machine/ColFifo.lean keeps the queue and the canonical tables (`Kept`). -/

set_option linter.unusedVariables false

namespace Sys2Proof.Machine

open Sys2Proof

theorem State.colDiscard_kept {a s y1} (h : Kept a s) : Kept a (State.colDiscard s y1) := by
  unfold State.colDiscard
  extract_lets +onlyGivenNames v1
  obtain ⟨v2, e⟩ : ∃ y, y = v1 := ⟨_, rfl⟩
  rw [← e]
  clear e v1
  extract_lets +onlyGivenNames v3
  obtain ⟨v4, e⟩ : ∃ y, y = v3 := ⟨_, rfl⟩
  rw [← e]
  clear e v3
  extract_lets +onlyGivenNames v5
  obtain ⟨v7, e, h6⟩ : ∃ y, y = v5 ∧ Kept a (y) := ⟨_, rfl, by
    refine State.incF_kept ?_
    refine State.setCol_kept ?_
    exact h
    ⟩
  rw [← e]
  clear e v5
  refine State.record7_kept ?_
  exact h6

theorem State.linkFlush_kept {a s y1} (h : Kept a s) : Kept a (State.linkFlush s y1) := by
  unfold State.linkFlush
  extract_lets +onlyGivenNames v1
  obtain ⟨v2, e⟩ : ∃ y, y = v1 := ⟨_, rfl⟩
  rw [← e]
  clear e v1
  refine State.incF_kept ?_
  refine State.colDiscard_kept ?_
  exact h

theorem State.ethFlush_kept {a s y1} (h : Kept a s) : Kept a (State.ethFlush s y1) := by
  unfold State.ethFlush
  refine State.colDiscard_kept ?_
  exact h

end Sys2Proof.Machine
end

