-- ==== Sys2Proof/Laws/KeptEthernet.lean ====
section
/-! SUPPORT. Every operation of Machine/Ethernet.lean keeps the queue and the canonical tables (`Kept`). -/

set_option linter.unusedVariables false

namespace Sys2Proof.Machine

open Sys2Proof

theorem State.txCount_kept {a s y1} (h : Kept a s) : Kept a (State.txCount s y1) := by
  unfold State.txCount
  refine State.incF_kept ?_
  exact h

theorem State.sendOut_kept {a s y1} (h : Kept a s) : Kept a (State.sendOut s y1) := by
  unfold State.sendOut
  refine Kept.ite ?_ ?_
  · refine State.txCount_kept ?_
    refine State.setHost_kept ?_
    exact h
  · exact h

theorem State.sendFrame_kept {a s y1 y2} (h : Kept a s) : Kept a (State.sendFrame s y1 y2) := by
  unfold State.sendFrame
  refine Kept.ite ?_ ?_
  · refine State.txCount_kept ?_
    refine State.setHost_kept ?_
    exact h
  · exact h

theorem State.toSubscriber_kept {a s y1 y2} (h : Kept a s) : Kept a (State.toSubscriber s y1 y2) := by
  unfold State.toSubscriber
  refine State.sendOut_kept ?_
  exact h

theorem State.evtBy_kept {a s y1 y2 y3 y4} (h : Kept a s) : Kept a (State.evtBy s y1 y2 y3 y4) := by
  unfold State.evtBy
  extract_lets +onlyGivenNames v1
  obtain ⟨v2, e⟩ : ∃ y, y = v1 := ⟨_, rfl⟩
  rw [← e]
  clear e v1
  extract_lets +onlyGivenNames v3
  obtain ⟨v4, e⟩ : ∃ y, y = v3 := ⟨_, rfl⟩
  rw [← e]
  clear e v3
  extract_lets +onlyGivenNames v5
  obtain ⟨v7, e, h6⟩ : ∃ y, y = v5 ∧ Kept a (y) := ⟨_, rfl, by
    refine State.setHost_kept ?_
    exact h
    ⟩
  rw [← e]
  clear e v5
  refine Kept.ite ?_ ?_
  · exact h6
  · refine Kept.foldl ?_ ?_
    · exact h6
    · intro t8 x9 h10
      refine State.toSubscriber_kept ?_
      exact h10

theorem State.evt_kept {a s y1 y2 y3} (h : Kept a s) : Kept a (State.evt s y1 y2 y3) := by
  unfold State.evt
  refine State.evtBy_kept ?_
  exact h

theorem State.evtComplete_kept {a s y1 y2} (h : Kept a s) : Kept a (State.evtComplete s y1 y2) := by
  unfold State.evtComplete
  refine State.evt_kept ?_
  exact h

theorem State.setUp_kept {a s y1 y2} (h : Kept a s) : Kept a (State.setUp s y1 y2) := by
  unfold State.setUp
  refine State.setUps_kept ?_ ?_
  · exact h
  · intro x1
    exact twf_tset _ _ x1

theorem State.upRewind_kept {a s y1} (h : Kept a s) : Kept a (State.upRewind s y1) := by
  unfold State.upRewind
  refine State.setUp_kept ?_
  exact h

theorem linkChange_kept {a y1 y2 y3 y4 y5 s} (h : Kept a s) : Kept a (linkChange y1 y2 y3 y4 y5 s) := by
  unfold linkChange
  extract_lets +onlyGivenNames v1
  obtain ⟨v2, e⟩ : ∃ y, y = v1 := ⟨_, rfl⟩
  rw [← e]
  clear e v1
  extract_lets +onlyGivenNames v3
  obtain ⟨v4, e⟩ : ∃ y, y = v3 := ⟨_, rfl⟩
  rw [← e]
  clear e v3
  extract_lets +onlyGivenNames v5
  obtain ⟨v6, e⟩ : ∃ y, y = v5 := ⟨_, rfl⟩
  rw [← e]
  clear e v5
  extract_lets +onlyGivenNames v7
  obtain ⟨v9, e, h8⟩ : ∃ y, y = v7 ∧ Kept a (y) := ⟨_, rfl, by
    refine State.setF_kept ?_
    refine State.setF_kept ?_
    refine State.setF_kept ?_
    refine State.setF_kept ?_
    exact h
    ⟩
  rw [← e]
  clear e v7
  refine Kept.ite ?_ ?_
  · exact h8
  · extract_lets +onlyGivenNames v10
    obtain ⟨v12, e, h11⟩ : ∃ y, y = v10 ∧ Kept a (y) := ⟨_, rfl, by
      refine State.warn_kept ?_
      refine State.setF_kept ?_
      refine State.setF_kept ?_
      exact h8
      ⟩
    rw [← e]
    clear e v10
    extract_lets +onlyGivenNames v13
    obtain ⟨v15, e, h14⟩ : ∃ y, y = v13 ∧ Kept a (y) := ⟨_, rfl, by
      refine Kept.ite ?_ ?_
      · exact h11
      · refine State.ethFlush_kept ?_
        exact h11
      ⟩
    rw [← e]
    clear e v13
    extract_lets +onlyGivenNames v16
    obtain ⟨v17, e⟩ : ∃ y, y = v16 := ⟨_, rfl⟩
    rw [← e]
    clear e v16
    extract_lets +onlyGivenNames v18
    obtain ⟨v20, e, h19⟩ : ∃ y, y = v18 ∧ Kept a (y) := ⟨_, rfl, by
      refine Kept.foldl ?_ ?_
      · exact h14
      · intro t21 x22 h23
        refine State.upRewind_kept ?_
        exact h23
      ⟩
    rw [← e]
    clear e v18
    refine State.evtBy_kept ?_
    exact h19

theorem State.arpReply_kept {a s y1 y2 y3} (h : Kept a s) : Kept a (State.arpReply s y1 y2 y3) := by
  unfold State.arpReply
  refine State.sendFrame_kept ?_
  exact h

theorem State.icmpReply_kept {a s y1 y2 y3 y4 y5} (h : Kept a s) : Kept a (State.icmpReply s y1 y2 y3 y4 y5) := by
  unfold State.icmpReply
  extract_lets +onlyGivenNames v1
  obtain ⟨v2, e⟩ : ∃ y, y = v1 := ⟨_, rfl⟩
  rw [← e]
  clear e v1
  extract_lets +onlyGivenNames v3
  obtain ⟨v4, e⟩ : ∃ y, y = v3 := ⟨_, rfl⟩
  rw [← e]
  clear e v3
  refine State.sendFrame_kept ?_
  exact h

theorem State.rxTake_kept {a s y1} (h : Kept a s) : Kept a (State.rxTake s y1) := by
  unfold State.rxTake
  split
  · rename_i z1 z2 z3
    refine State.setHost_kept ?_
    exact h
  · rename_i z4 z5
    exact h

theorem State.rxPut_kept {a s y1 y2} (h : Kept a s) : Kept a (State.rxPut s y1 y2) := by
  unfold State.rxPut
  refine State.setHost_kept ?_
  exact h

theorem State.rxStamp_kept {a s y1 y2 y3} (h : Kept a s) : Kept a (State.rxStamp s y1 y2 y3) := by
  unfold State.rxStamp
  refine Kept.ite ?_ ?_
  · refine State.setHost_kept ?_
    exact h
  · exact h

theorem State.frameTaken_kept {a s y1 y2 y3} (h : Kept a s) : Kept a (Prod.snd (State.frameTaken s y1 y2 y3)) := by
  unfold State.frameTaken
  refine Kept.iteOf (fun p => Prod.snd (p)) ?_ ?_
  · exact h
  · refine Kept.iteOf (fun p => Prod.snd (p)) ?_ ?_
    · refine State.incF_kept ?_
      refine State.setF_kept ?_
      exact h
    · refine Kept.iteOf (fun p => Prod.snd (p)) ?_ ?_
      · exact h
      · refine Kept.iteOf (fun p => Prod.snd (p)) ?_ ?_
        · refine State.incF_kept ?_
          refine State.setF_kept ?_
          exact h
        · refine State.incF_kept ?_
          exact h

theorem transmitStamp_kept {a y1 y2 y3 y4 s} (h : Kept a s) : Kept a (transmitStamp y1 y2 y3 y4 s) := by
  unfold transmitStamp
  extract_lets +onlyGivenNames v1
  obtain ⟨v2, e⟩ : ∃ y, y = v1 := ⟨_, rfl⟩
  rw [← e]
  clear e v1
  extract_lets +onlyGivenNames v3
  obtain ⟨v4, e⟩ : ∃ y, y = v3 := ⟨_, rfl⟩
  rw [← e]
  clear e v3
  refine State.setHost_kept ?_
  exact h

end Sys2Proof.Machine
end

