-- ==== Sys2Proof/Laws/KeptBasin.lean ====
section
/-! SUPPORT. Every operation of Machine/Basin.lean keeps the queue and the canonical tables (`Kept`). -/

set_option linter.unusedVariables false

namespace Sys2Proof.Machine

open Sys2Proof

theorem State.setStatusBit_kept {a s y1 y2} (h : Kept a s) : Kept a (State.setStatusBit s y1 y2) := by
  unfold State.setStatusBit
  refine State.setWord_kept ?_
  exact h

theorem State.evtBasin_kept {a s} (h : Kept a s) : Kept a (State.evtBasin s) := by
  unfold State.evtBasin
  refine State.evt_kept ?_
  exact h

theorem State.gateOffAll_kept {a s} (h : Kept a s) : Kept a (State.gateOffAll s) := by
  unfold State.gateOffAll
  refine State.noteGates_kept ?_
  refine State.setBasin_kept ?_
  exact h

theorem State.errorPulse_kept {a s y1} (h : Kept a s) : Kept a (State.errorPulse s y1) := by
  unfold State.errorPulse
  refine Kept.ite ?_ ?_
  · refine State.setBasin_kept ?_
    exact h
  · exact h

theorem State.classReaction_kept {a s y1} (h : Kept a s) : Kept a (State.classReaction s y1) := by
  unfold State.classReaction
  refine Kept.ite ?_ ?_
  · refine State.evtBasin_kept ?_
    refine State.auxCritical_kept ?_
    refine State.suspendAll_kept ?_
    refine State.gateOffAll_kept ?_
    exact h
  · refine Kept.ite ?_ ?_
    · refine Kept.ite ?_ ?_
      · refine State.evtBasin_kept ?_
        refine State.suspendAll_kept ?_
        refine State.gateOffAll_kept ?_
        exact h
      · refine State.evtBasin_kept ?_
        exact h
    · refine Kept.ite ?_ ?_
      · refine State.evtBasin_kept ?_
        exact h
      · exact h

theorem State.takeRaise_kept {a s y1 y2 y3} (h : Kept a s) : Kept a (State.takeRaise s y1 y2 y3) := by
  unfold State.takeRaise
  extract_lets +onlyGivenNames v1
  obtain ⟨v2, e⟩ : ∃ y, y = v1 := ⟨_, rfl⟩
  rw [← e]
  clear e v1
  extract_lets +onlyGivenNames v3
  obtain ⟨v5, e, h4⟩ : ∃ y, y = v3 ∧ Kept a (y) := ⟨_, rfl, by
    refine State.setStatusBit_kept ?_
    exact h
    ⟩
  rw [← e]
  clear e v3
  extract_lets +onlyGivenNames v6
  obtain ⟨v8, e, h7⟩ : ∃ y, y = v6 ∧ Kept a (y) := ⟨_, rfl, by
    refine Kept.ite ?_ ?_
    · refine State.setStatusBit_kept ?_
      exact h4
    · exact h4
    ⟩
  rw [← e]
  clear e v6
  extract_lets +onlyGivenNames v9
  obtain ⟨v11, e, h10⟩ : ∃ y, y = v9 ∧ Kept a (y) := ⟨_, rfl, by
    refine Kept.ite ?_ ?_
    · refine State.setStatusBit_kept ?_
      exact h7
    · exact h7
    ⟩
  rw [← e]
  clear e v9
  extract_lets +onlyGivenNames v12
  obtain ⟨v14, e, h13⟩ : ∃ y, y = v12 ∧ Kept a (y) := ⟨_, rfl, by
    refine State.errorPulse_kept ?_
    refine State.daleRecord_kept ?_
    refine State.event_kept ?_
    exact h10
    ⟩
  rw [← e]
  clear e v12
  refine Kept.ite ?_ ?_
  · refine State.classReaction_kept ?_
    exact h13
  · exact h13

theorem statusRaise_kept {a s} (h : Kept a s) : Kept a (statusRaise s) := by
  unfold statusRaise
  split
  · rename_i z1 z2
    exact h
  · rename_i z3 z4 z5 z6
    refine State.takeRaise_kept ?_
    refine State.setLines_kept ?_
    exact h

theorem State.safeRaise_kept {a s y1 y2} (h : Kept a s) : Kept a (State.safeRaise s y1 y2) := by
  unfold State.safeRaise
  refine State.takeRaise_kept ?_
  exact h

theorem State.safeChanged_kept {a s} (h : Kept a s) : Kept a (State.safeChanged s) := by
  unfold State.safeChanged
  refine State.setBasin_kept ?_
  exact h

theorem safeInputFall_kept {a y1 s} (h : Kept a s) : Kept a (safeInputFall y1 s) := by
  unfold safeInputFall
  extract_lets +onlyGivenNames v1
  obtain ⟨v2, e⟩ : ∃ y, y = v1 := ⟨_, rfl⟩
  rw [← e]
  clear e v1
  extract_lets +onlyGivenNames v3
  obtain ⟨v4, e⟩ : ∃ y, y = v3 := ⟨_, rfl⟩
  rw [← e]
  clear e v3
  refine Kept.ite ?_ ?_
  · exact h
  · extract_lets +onlyGivenNames v5
    obtain ⟨v6, e⟩ : ∃ y, y = v5 := ⟨_, rfl⟩
    rw [← e]
    clear e v5
    extract_lets +onlyGivenNames v7
    obtain ⟨v9, e, h8⟩ : ∃ y, y = v7 ∧ Kept a (y) := ⟨_, rfl, by
      refine State.noteGates_kept ?_
      refine State.safeChanged_kept ?_
      refine State.setBasin_kept ?_
      exact h
      ⟩
    rw [← e]
    clear e v7
    refine Kept.ite ?_ ?_
    · exact h8
    · refine State.safeRaise_kept ?_
      refine State.levelOn_kept ?_
      exact h8

theorem safeInputRise_kept {a y1 s} (h : Kept a s) : Kept a (safeInputRise y1 s) := by
  unfold safeInputRise
  extract_lets +onlyGivenNames v1
  obtain ⟨v2, e⟩ : ∃ y, y = v1 := ⟨_, rfl⟩
  rw [← e]
  clear e v1
  refine Kept.ite ?_ ?_
  · exact h
  · extract_lets +onlyGivenNames v3
    obtain ⟨v4, e⟩ : ∃ y, y = v3 := ⟨_, rfl⟩
    rw [← e]
    clear e v3
    extract_lets +onlyGivenNames v5
    obtain ⟨v7, e, h6⟩ : ∃ y, y = v5 ∧ Kept a (y) := ⟨_, rfl, by
      refine State.noteGates_kept ?_
      refine State.safeChanged_kept ?_
      refine State.setBasin_kept ?_
      exact h
      ⟩
    rw [← e]
    clear e v5
    refine Kept.ite ?_ ?_
    · refine State.levelOff_kept ?_
      exact h6
    · exact h6

theorem safeDiscrepancy_kept {a s} (h : Kept a s) : Kept a (safeDiscrepancy s) := by
  unfold safeDiscrepancy
  split
  · rename_i z1 z2
    exact h
  · rename_i z3 z4 z5
    extract_lets +onlyGivenNames v6
    obtain ⟨v7, e⟩ : ∃ y, y = v6 := ⟨_, rfl⟩
    rw [← e]
    clear e v6
    extract_lets +onlyGivenNames v8
    obtain ⟨v10, e, h9⟩ : ∃ y, y = v8 ∧ Kept a (y) := ⟨_, rfl, by
      refine State.setBasin_kept ?_
      refine State.reach_kept ?_
      exact h
      ⟩
    rw [← e]
    clear e v8
    refine State.safeRaise_kept ?_
    exact h9

theorem State.errorRelease_kept {a s} (h : Kept a s) : Kept a (State.errorRelease s) := by
  unfold State.errorRelease
  refine State.setBasin_kept ?_
  exact h

theorem errorMinimumEnd_kept {a s} (h : Kept a s) : Kept a (errorMinimumEnd s) := by
  unfold errorMinimumEnd
  split
  · rename_i z1 z2
    exact h
  · rename_i z3 z4 z5
    extract_lets +onlyGivenNames v6
    obtain ⟨v8, e, h7⟩ : ∃ y, y = v6 ∧ Kept a (y) := ⟨_, rfl, by
      refine State.reach_kept ?_
      exact h
      ⟩
    rw [← e]
    clear e v6
    refine Kept.ite ?_ ?_
    · refine State.errorRelease_kept ?_
      exact h7
    · refine Kept.ite ?_ ?_
      · refine State.setBasin_kept ?_
        exact h7
      · refine State.errorRelease_kept ?_
        exact h7

theorem errelEffect_kept {a s} (h : Kept a s) : Kept a (errelEffect s) := by
  unfold errelEffect
  split
  · rename_i z1 z2 z3
    refine Kept.ite ?_ ?_
    · exact h
    · refine State.setBasin_kept ?_
      exact h
  · rename_i z4 z5
    refine State.errorRelease_kept ?_
    exact h

theorem lrearmEffect_kept {a s} (h : Kept a s) : Kept a (lrearmEffect s) := by
  unfold lrearmEffect
  refine Kept.ite ?_ ?_
  · refine State.noteGates_kept ?_
    refine Kept.foldl ?_ ?_
    · refine State.setBasin_kept ?_
      exact h
    · intro t1 x2 h3
      refine State.setCol_kept ?_
      exact h3
  · exact h

theorem injectEffect_kept {a y1 s} (h : Kept a s) : Kept a (injectEffect y1 s) := by
  unfold injectEffect
  split
  · rename_i z1 z2 z3
    refine State.takeRaise_kept ?_
    refine State.setLines_kept ?_
    exact h
  · rename_i z4 z5
    refine State.takeRaise_kept ?_
    exact h

theorem basinEffect_kept {a y1 y2 s} (h : Kept a s) : Kept a (basinEffect y1 y2 s) := by
  unfold basinEffect
  refine Kept.ite ?_ ?_
  · extract_lets +onlyGivenNames v1
    obtain ⟨v3, e, h2⟩ : ∃ y, y = v1 ∧ Kept a (y) := ⟨_, rfl, by
      refine Kept.ite ?_ ?_
      · refine lrearmEffect_kept ?_
        exact h
      · exact h
      ⟩
    rw [← e]
    clear e v1
    refine Kept.ite ?_ ?_
    · refine errelEffect_kept ?_
      exact h2
    · exact h2
  · refine Kept.ite ?_ ?_
    · refine injectEffect_kept ?_
      exact h
    · exact h

theorem statusClearEffect_kept {a y1 y2 s1 s} (h : Kept a s) : Kept a (statusClearEffect y1 y2 s1 s) :=
  Kept.ite (Kept.ite (State.evtBasin_kept (State.setWord_kept (State.setWord_kept h))) (State.setWord_kept (State.setWord_kept h))) h

theorem dalePopEffect_kept {a y1 s} (h : Kept a s) : Kept a (dalePopEffect y1 s) := by
  unfold dalePopEffect
  extract_lets +onlyGivenNames v1
  obtain ⟨v2, e⟩ : ∃ y, y = v1 := ⟨_, rfl⟩
  rw [← e]
  clear e v1
  extract_lets +onlyGivenNames v3
  obtain ⟨v4, e⟩ : ∃ y, y = v3 := ⟨_, rfl⟩
  rw [← e]
  clear e v3
  extract_lets +onlyGivenNames v5
  obtain ⟨v7, e, h6⟩ : ∃ y, y = v5 ∧ Kept a (y) := ⟨_, rfl, by
    refine Kept.foldl ?_ ?_
    · exact h
    · intro t8 x9 h10
      refine State.st_kept ?_
      exact h10
    ⟩
  rw [← e]
  clear e v5
  extract_lets +onlyGivenNames v11
  obtain ⟨v13, e, h12⟩ : ∃ y, y = v11 ∧ Kept a (y) := ⟨_, rfl, by
    refine State.setF_kept ?_
    refine State.setF_kept ?_
    exact h6
    ⟩
  rw [← e]
  clear e v11
  refine Kept.ite ?_ ?_
  · refine State.setDale_kept ?_
    exact h12
  · refine State.setF_kept ?_
    exact h12

theorem daleEffect_kept {a y1 y2 s} (h : Kept a s) : Kept a (daleEffect y1 y2 s) := by
  unfold daleEffect
  refine Kept.ite ?_ ?_
  · refine dalePopEffect_kept ?_
    exact h
  · refine Kept.ite ?_ ?_
    · refine State.setF_kept ?_
      exact h
    · exact h

theorem eachUsOfMt_kept {a s} (h : Kept a s) : Kept a (eachUsOfMt s) := by
  unfold eachUsOfMt
  refine State.event_kept ?_
  refine State.reach_kept ?_
  exact h

end Sys2Proof.Machine
end

