-- ==== Sys2Proof/Laws/KeptGorge.lean ====
section
/-! SUPPORT. Every operation of Machine/Gorge.lean keeps the queue and the canonical tables (`Kept`). -/

set_option linter.unusedVariables false

namespace Sys2Proof.Machine

open Sys2Proof

theorem State.setGchan_kept {a s y1 y2} (h : Kept a s) : Kept a (State.setGchan s y1 y2) := by
  unfold State.setGchan
  refine State.setGorge_kept ?_ ?_
  · exact h
  · intro x1
    exact twf_tset _ _ x1

theorem State.gorgeUpdate_kept {a s y1} (h : Kept a s) : Kept a (State.gorgeUpdate s y1) := by
  unfold State.gorgeUpdate
  extract_lets +onlyGivenNames v1
  obtain ⟨v2, e⟩ : ∃ y, y = v1 := ⟨_, rfl⟩
  rw [← e]
  clear e v1
  refine State.setF_kept ?_
  refine State.setF_kept ?_
  exact h

theorem State.gorgeSave_kept {a s y1 y2} (h : Kept a s) : Kept a (State.gorgeSave s y1 y2) := by
  unfold State.gorgeSave
  extract_lets +onlyGivenNames v1
  obtain ⟨v3, e, h2⟩ : ∃ y, y = v1 ∧ Kept a (y) := ⟨_, rfl, by
    refine State.setBytes_kept ?_
    refine State.sts_kept ?_
    exact h
    ⟩
  rw [← e]
  clear e v1
  extract_lets +onlyGivenNames v4
  obtain ⟨v5, e⟩ : ∃ y, y = v4 := ⟨_, rfl⟩
  rw [← e]
  clear e v4
  refine State.setGorgeSaves_kept ?_
  refine State.sts_kept ?_
  exact h2

theorem gorgeSubmit_kept {a y1 s} (h : Kept a s) : Kept a (gorgeSubmit y1 s) := by
  unfold gorgeSubmit
  extract_lets +onlyGivenNames v1
  obtain ⟨v2, e⟩ : ∃ y, y = v1 := ⟨_, rfl⟩
  rw [← e]
  clear e v1
  extract_lets +onlyGivenNames v3
  obtain ⟨v4, e⟩ : ∃ y, y = v3 := ⟨_, rfl⟩
  rw [← e]
  clear e v3
  refine Kept.ite ?_ ?_
  · refine State.refuse_kept ?_
    exact h
  · refine Kept.ite ?_ ?_
    · refine State.refuse_kept ?_
      exact h
    · refine Kept.ite ?_ ?_
      · refine State.refuse_kept ?_
        exact h
      · extract_lets +onlyGivenNames v5
        obtain ⟨v6, e⟩ : ∃ y, y = v5 := ⟨_, rfl⟩
        rw [← e]
        clear e v5
        refine State.gorgeUpdate_kept ?_
        refine State.setGchan_kept ?_
        exact h

theorem gorgeJobSubmit_kept {a y1 s} (h : Kept a s) : Kept a (gorgeJobSubmit y1 s) := by
  unfold gorgeJobSubmit
  refine Kept.ite ?_ ?_
  · exact h
  · refine State.arrive_kept ?_ ?_
    · exact h
    · intro x1 h2
      refine State.whenDue_kept ?_ ?_
      · exact h2
      · intro x3 h4
        refine gorgeSubmit_kept ?_
        exact h4

theorem gorgeJobStart_kept {a y1 s} (h : Kept a s) : Kept a (gorgeJobStart y1 s) := by
  unfold gorgeJobStart
  extract_lets +onlyGivenNames v1
  obtain ⟨v2, e⟩ : ∃ y, y = v1 := ⟨_, rfl⟩
  rw [← e]
  clear e v1
  split
  · rename_i z3 z4 z5 z6 z7 z8
    extract_lets +onlyGivenNames v9
    obtain ⟨v10, e⟩ : ∃ y, y = v9 := ⟨_, rfl⟩
    rw [← e]
    clear e v9
    extract_lets +onlyGivenNames v11
    obtain ⟨v12, e⟩ : ∃ y, y = v11 := ⟨_, rfl⟩
    rw [← e]
    clear e v11
    extract_lets +onlyGivenNames v13
    obtain ⟨v14, e⟩ : ∃ y, y = v13 := ⟨_, rfl⟩
    rw [← e]
    clear e v13
    refine State.gorgeUpdate_kept ?_
    refine State.setF_kept ?_
    refine State.setGchan_kept ?_
    exact h
  · rename_i z15 z16 z17
    exact h

theorem State.putBytes_kept {a s y1 y2} (h : Kept a s) : Kept a (State.putBytes s y1 y2) :=
  State.setEccs_kept (State.setBytes_kept h) (fun hc => by rw [State.setBytes_eccs] at hc; exact twf_filter _ hc)

theorem State.putRegions_kept {a s y1 y2 y3} (h : Kept a s) : Kept a (Prod.fst (State.putRegions s y1 y2 y3)) := by
  induction y1 generalizing s y2 y3
  · unfold State.putRegions
    exact h
  · rename_i w1 w2 w3
    unfold State.putRegions
    refine Kept.iteOf (fun p => Prod.fst (p)) ?_ ?_
    · exact h
    · apply w3
      refine State.putBytes_kept ?_
      exact h

theorem State.gorgeCount_kept {a s y1 y2} (h : Kept a s) : Kept a (State.gorgeCount s y1 y2) := by
  unfold State.gorgeCount
  extract_lets +onlyGivenNames v1
  obtain ⟨v3, e, h2⟩ : ∃ y, y = v1 ∧ Kept a (y) := ⟨_, rfl, by
    refine State.incF_kept ?_
    refine State.setF_kept ?_
    exact h
    ⟩
  rw [← e]
  clear e v1
  refine Kept.ite ?_ ?_
  · refine State.incF_kept ?_
    refine State.setF_kept ?_
    exact h2
  · refine Kept.ite ?_ ?_
    · refine State.incF_kept ?_
      refine State.setF_kept ?_
      exact h2
    · refine Kept.ite ?_ ?_
      · refine State.setF_kept ?_
        exact h2
      · refine Kept.ite ?_ ?_
        · refine State.setF_kept ?_
          exact h2
        · exact h2

theorem State.gorgeReport_kept {a s y1 y2 y3 y4 y5 y6 y7} (h : Kept a s) : Kept a (State.gorgeReport s y1 y2 y3 y4 y5 y6 y7) := by
  unfold State.gorgeReport
  refine Kept.ite ?_ ?_
  · exact h
  · extract_lets +onlyGivenNames v1
    obtain ⟨v2, e⟩ : ∃ y, y = v1 := ⟨_, rfl⟩
    rw [← e]
    clear e v1
    extract_lets +onlyGivenNames v3
    obtain ⟨v4, e⟩ : ∃ y, y = v3 := ⟨_, rfl⟩
    rw [← e]
    clear e v3
    extract_lets +onlyGivenNames v5
    obtain ⟨v7, e, h6⟩ : ∃ y, y = v5 ∧ Kept a (y) := ⟨_, rfl, by
      refine State.st_kept ?_
      refine State.st_kept ?_
      exact h
      ⟩
    rw [← e]
    clear e v5
    refine Kept.ite ?_ ?_
    · exact h6
    · refine State.sendMsg_kept ?_
      exact h6

theorem State.gorgeEnd_kept {a s y1 y2} (h : Kept a s) : Kept a (State.gorgeEnd s y1 y2) := by
  unfold State.gorgeEnd
  extract_lets +onlyGivenNames v1
  obtain ⟨v2, e⟩ : ∃ y, y = v1 := ⟨_, rfl⟩
  rw [← e]
  clear e v1
  split
  · rename_i z3 z4
    exact h
  · rename_i z5 z6 z7
    extract_lets +onlyGivenNames v8
    obtain ⟨v9, e⟩ : ∃ y, y = v8 := ⟨_, rfl⟩
    rw [← e]
    clear e v8
    split
    · rename_i z10 z11 z12 z13
      have h14 := Kept.ofEq (a := a) (fun p => Prod.fst (p)) z13 (by
          refine State.putRegions_kept ?_
          exact h
        )
      beta_reduce at h14
      extract_lets +onlyGivenNames v15
      obtain ⟨v16, e⟩ : ∃ y, y = v15 := ⟨_, rfl⟩
      rw [← e]
      clear e v15
      extract_lets +onlyGivenNames v17
      obtain ⟨v19, e, h18⟩ : ∃ y, y = v17 ∧ Kept a (y) := ⟨_, rfl, by
        refine Kept.ite ?_ ?_
        · refine State.gorgeSave_kept ?_
          exact h14
        · exact h14
        ⟩
      rw [← e]
      clear e v17
      extract_lets +onlyGivenNames v20
      obtain ⟨v22, e, h21⟩ : ∃ y, y = v20 ∧ Kept a (y) := ⟨_, rfl, by
        refine State.gorgeReport_kept ?_
        exact h18
        ⟩
      rw [← e]
      clear e v20
      extract_lets +onlyGivenNames v23
      obtain ⟨v25, e, h24⟩ : ∃ y, y = v23 ∧ Kept a (y) := ⟨_, rfl, by
        refine State.gorgeCount_kept ?_
        refine State.incF_kept ?_
        refine State.incF_kept ?_
        exact h21
        ⟩
      rw [← e]
      clear e v23
      extract_lets +onlyGivenNames v26
      obtain ⟨v27, e⟩ : ∃ y, y = v26 := ⟨_, rfl⟩
      rw [← e]
      clear e v26
      extract_lets +onlyGivenNames v28
      obtain ⟨v30, e, h29⟩ : ∃ y, y = v28 ∧ Kept a (y) := ⟨_, rfl, by
        refine State.gorgeUpdate_kept ?_
        refine State.setGchan_kept ?_
        exact h24
        ⟩
      rw [← e]
      clear e v28
      refine Kept.ite ?_ ?_
      · extract_lets +onlyGivenNames v31
        obtain ⟨v33, e, h32⟩ : ∃ y, y = v31 ∧ Kept a (y) := ⟨_, rfl, by
          refine State.raise_kept ?_
          refine State.incF_kept ?_
          refine State.setF_kept ?_
          exact h29
          ⟩
        rw [← e]
        clear e v31
        refine Kept.ite ?_ ?_
        · refine State.severe_kept ?_
          exact h32
        · exact h32
      · exact h29

theorem gorgeJobEnd_kept {a y1 s} (h : Kept a s) : Kept a (gorgeJobEnd y1 s) := by
  unfold gorgeJobEnd
  refine State.gorgeEnd_kept ?_
  exact h

theorem State.gorgeFlush_kept {a s y1} (h : Kept a s) : Kept a (State.gorgeFlush s y1) := by
  unfold State.gorgeFlush
  extract_lets +onlyGivenNames v1
  obtain ⟨v2, e⟩ : ∃ y, y = v1 := ⟨_, rfl⟩
  rw [← e]
  clear e v1
  extract_lets +onlyGivenNames v3
  obtain ⟨v4, e⟩ : ∃ y, y = v3 := ⟨_, rfl⟩
  rw [← e]
  clear e v3
  extract_lets +onlyGivenNames v5
  obtain ⟨v7, e, h6⟩ : ∃ y, y = v5 ∧ Kept a (y) := ⟨_, rfl, by
    refine State.gorgeUpdate_kept ?_
    refine State.setGchan_kept ?_
    exact h
    ⟩
  rw [← e]
  clear e v5
  refine Kept.foldl ?_ ?_
  · exact h6
  · intro t8 x9 h10
    refine State.setF_kept ?_
    refine State.gorgeCount_kept ?_
    refine State.gorgeReport_kept ?_
    exact h10

theorem gorgeAbortAct_kept {a y1 y2 s} (h : Kept a s) : Kept a (gorgeAbortAct y1 y2 s) := by
  unfold gorgeAbortAct
  refine Kept.ite ?_ ?_
  · refine State.refuse_kept ?_
    exact h
  · refine Kept.ite ?_ ?_
    · refine State.refuse_kept ?_
      exact h
    · refine Kept.ite ?_ ?_
      · refine State.refuse_kept ?_
        exact h
      · extract_lets +onlyGivenNames v1
        obtain ⟨v2, e⟩ : ∃ y, y = v1 := ⟨_, rfl⟩
        rw [← e]
        clear e v1
        refine State.gorgeFlush_kept ?_
        refine State.gorgeEnd_kept ?_
        exact h

theorem gorgeAbort_kept {a y1 y2 s} (h : Kept a s) : Kept a (gorgeAbort y1 y2 s) := by
  unfold gorgeAbort
  refine Kept.ite ?_ ?_
  · exact h
  · refine State.arrive_kept ?_ ?_
    · exact h
    · intro x1 h2
      refine State.whenDue_kept ?_ ?_
      · exact h2
      · intro x3 h4
        refine gorgeAbortAct_kept ?_
        exact h4

end Sys2Proof.Machine
end

