-- ==== Sys2Proof/Laws/KeptDram.lean ====
section
/-! SUPPORT. Every operation of Machine/Dram.lean keeps the queue and the canonical tables (`Kept`). -/

set_option linter.unusedVariables false

namespace Sys2Proof.Machine

open Sys2Proof

theorem State.setBank_kept {a s y1 y2} (h : Kept a s) : Kept a (State.setBank s y1 y2) := by
  unfold State.setBank
  refine State.setDramBanks_kept ?_ ?_
  · exact h
  · intro x1
    exact twf_tset _ _ x1

theorem State.setRank_kept {a s y1 y2} (h : Kept a s) : Kept a (State.setRank s y1 y2) := by
  unfold State.setRank
  refine State.setDramRanks_kept ?_ ?_
  · exact h
  · intro x1
    exact twf_tset _ _ x1

theorem State.setChan_kept {a s y1 y2} (h : Kept a s) : Kept a (State.setChan s y1 y2) := by
  unfold State.setChan
  refine State.setDramChans_kept ?_ ?_
  · exact h
  · intro x1
    exact twf_tset _ _ x1

theorem State.countAct_kept {a s y1 y2} (h : Kept a s) : Kept a (State.countAct s y1 y2) := by
  unfold State.countAct
  refine Kept.ite ?_ ?_
  · exact h
  · extract_lets +onlyGivenNames v1
    obtain ⟨v2, e⟩ : ∃ y, y = v1 := ⟨_, rfl⟩
    rw [← e]
    clear e v1
    extract_lets +onlyGivenNames v3
    obtain ⟨v4, e⟩ : ∃ y, y = v3 := ⟨_, rfl⟩
    rw [← e]
    clear e v3
    refine State.setChan_kept ?_
    exact h

theorem State.doRfm_kept {a s y1 y2 y3} (h : Kept a s) : Kept a (State.doRfm s y1 y2 y3) := by
  unfold State.doRfm
  extract_lets +onlyGivenNames v1
  obtain ⟨v2, e⟩ : ∃ y, y = v1 := ⟨_, rfl⟩
  rw [← e]
  clear e v1
  extract_lets +onlyGivenNames v3
  obtain ⟨v4, e⟩ : ∃ y, y = v3 := ⟨_, rfl⟩
  rw [← e]
  clear e v3
  extract_lets +onlyGivenNames v5
  obtain ⟨v7, e, h6⟩ : ∃ y, y = v5 ∧ Kept a (y) := ⟨_, rfl, by
    refine State.incF_kept ?_
    refine State.setBank_kept ?_
    exact h
    ⟩
  rw [← e]
  clear e v5
  extract_lets +onlyGivenNames v8
  obtain ⟨v9, e⟩ : ∃ y, y = v8 := ⟨_, rfl⟩
  rw [← e]
  clear e v8
  extract_lets +onlyGivenNames v10
  obtain ⟨v11, e⟩ : ∃ y, y = v10 := ⟨_, rfl⟩
  rw [← e]
  clear e v10
  extract_lets +onlyGivenNames v12
  obtain ⟨v13, e⟩ : ∃ y, y = v12 := ⟨_, rfl⟩
  rw [← e]
  clear e v12
  refine Kept.ite ?_ ?_
  · extract_lets +onlyGivenNames v14
    obtain ⟨v15, e⟩ : ∃ y, y = v14 := ⟨_, rfl⟩
    rw [← e]
    clear e v14
    extract_lets +onlyGivenNames v16
    obtain ⟨v18, e, h17⟩ : ∃ y, y = v16 ∧ Kept a (y) := ⟨_, rfl, by
      refine State.setChan_kept ?_
      exact h6
      ⟩
    rw [← e]
    clear e v16
    refine State.raise_kept ?_
    refine State.incF_kept ?_
    refine State.setF_kept ?_
    exact h17
  · exact h6

theorem State.wakeRank_kept {a s y1} (h : Kept a s) : Kept a (State.wakeRank s y1) := by
  unfold State.wakeRank
  refine Kept.ite ?_ ?_
  · refine State.setF_kept ?_
    exact h
  · exact h

theorem State.throttleWait_kept {a s y1 y2} (h : Kept a s) : Kept a (State.throttleWait s y1 y2) := by
  unfold State.throttleWait
  extract_lets +onlyGivenNames v1
  obtain ⟨v2, e⟩ : ∃ y, y = v1 := ⟨_, rfl⟩
  rw [← e]
  clear e v1
  split
  · rename_i z3 z4
    exact h
  · rename_i z5 z6 z7
    extract_lets +onlyGivenNames v8
    obtain ⟨v10, e, h9⟩ : ∃ y, y = v8 ∧ Kept a (y) := ⟨_, rfl, by
      refine State.reach_kept ?_
      exact h
      ⟩
    rw [← e]
    clear e v8
    refine State.setChan_kept ?_
    exact h9

theorem State.dramBurst_kept {a s y1 y2 y3} (h : Kept a s) : Kept a (State.dramBurst s y1 y2 y3) := by
  unfold State.dramBurst
  extract_lets +onlyGivenNames v1
  obtain ⟨v2, e⟩ : ∃ y, y = v1 := ⟨_, rfl⟩
  rw [← e]
  clear e v1
  extract_lets +onlyGivenNames v3
  obtain ⟨v4, e⟩ : ∃ y, y = v3 := ⟨_, rfl⟩
  rw [← e]
  clear e v3
  extract_lets +onlyGivenNames v5
  obtain ⟨v6, e⟩ : ∃ y, y = v5 := ⟨_, rfl⟩
  rw [← e]
  clear e v5
  extract_lets +onlyGivenNames v7
  obtain ⟨v8, e⟩ : ∃ y, y = v7 := ⟨_, rfl⟩
  rw [← e]
  clear e v7
  extract_lets +onlyGivenNames v9
  obtain ⟨v10, e⟩ : ∃ y, y = v9 := ⟨_, rfl⟩
  rw [← e]
  clear e v9
  extract_lets +onlyGivenNames v11
  obtain ⟨v12, e⟩ : ∃ y, y = v11 := ⟨_, rfl⟩
  rw [← e]
  clear e v11
  extract_lets +onlyGivenNames v13
  obtain ⟨v15, e, h14⟩ : ∃ y, y = v13 ∧ Kept a (y) := ⟨_, rfl, by
    refine State.setBank_kept ?_
    exact h
    ⟩
  rw [← e]
  clear e v13
  extract_lets +onlyGivenNames v16
  obtain ⟨v18, e, h17⟩ : ∃ y, y = v16 ∧ Kept a (y) := ⟨_, rfl, by
    refine Kept.ite ?_ ?_
    · exact h14
    · refine State.countAct_kept ?_
      refine State.throttleWait_kept ?_
      exact h14
    ⟩
  rw [← e]
  clear e v16
  extract_lets +onlyGivenNames v19
  obtain ⟨v21, e, h20⟩ : ∃ y, y = v19 ∧ Kept a (y) := ⟨_, rfl, by
    refine Kept.ite ?_ ?_
    · refine State.doRfm_kept ?_
      refine State.incF_kept ?_
      exact h17
    · exact h17
    ⟩
  rw [← e]
  clear e v19
  extract_lets +onlyGivenNames v22
  obtain ⟨v23, e⟩ : ∃ y, y = v22 := ⟨_, rfl⟩
  rw [← e]
  clear e v22
  extract_lets +onlyGivenNames v24
  obtain ⟨v26, e, h25⟩ : ∃ y, y = v24 ∧ Kept a (y) := ⟨_, rfl, by
    refine Kept.ite ?_ ?_
    · exact h14
    · refine State.setBank_kept ?_
      exact h20
    ⟩
  rw [← e]
  clear e v24
  extract_lets +onlyGivenNames v27
  obtain ⟨v28, e⟩ : ∃ y, y = v27 := ⟨_, rfl⟩
  rw [← e]
  clear e v27
  refine State.setBank_kept ?_
  exact h25

theorem State.dramSettle_kept {a s y1} (h : Kept a s) : Kept a (State.dramSettle s y1) := by
  unfold State.dramSettle
  extract_lets +onlyGivenNames v1
  obtain ⟨v2, e⟩ : ∃ y, y = v1 := ⟨_, rfl⟩
  rw [← e]
  clear e v1
  extract_lets +onlyGivenNames v3
  obtain ⟨v4, e⟩ : ∃ y, y = v3 := ⟨_, rfl⟩
  rw [← e]
  clear e v3
  refine Kept.ite ?_ ?_
  · refine State.setBank_kept ?_
    exact h
  · exact h

theorem State.dramRequest_kept {a s y1 y2 y3} (h : Kept a s) : Kept a (State.dramRequest s y1 y2 y3) := by
  unfold State.dramRequest
  extract_lets +onlyGivenNames v1
  obtain ⟨v2, e⟩ : ∃ y, y = v1 := ⟨_, rfl⟩
  rw [← e]
  clear e v1
  extract_lets +onlyGivenNames v3
  obtain ⟨v5, e, h4⟩ : ∃ y, y = v3 ∧ Kept a (y) := ⟨_, rfl, by
    refine Kept.foldl ?_ ?_
    · exact h
    · intro t6 x7 h8
      extract_lets +onlyGivenNames v9
      obtain ⟨v10, e⟩ : ∃ y, y = v9 := ⟨_, rfl⟩
      rw [← e]
      clear e v9
      extract_lets +onlyGivenNames v11
      obtain ⟨v13, e, h12⟩ : ∃ y, y = v11 ∧ Kept a (y) := ⟨_, rfl, by
        refine State.wakeRank_kept ?_
        exact h8
        ⟩
      rw [← e]
      clear e v11
      extract_lets +onlyGivenNames v14
      obtain ⟨v15, e⟩ : ∃ y, y = v14 := ⟨_, rfl⟩
      rw [← e]
      clear e v14
      extract_lets +onlyGivenNames v16
      obtain ⟨v18, e, h17⟩ : ∃ y, y = v16 ∧ Kept a (y) := ⟨_, rfl, by
        refine State.setRank_kept ?_
        exact h12
        ⟩
      rw [← e]
      clear e v16
      extract_lets +onlyGivenNames v19
      obtain ⟨v20, e⟩ : ∃ y, y = v19 := ⟨_, rfl⟩
      rw [← e]
      clear e v19
      extract_lets +onlyGivenNames v21
      obtain ⟨v23, e, h22⟩ : ∃ y, y = v21 ∧ Kept a (y) := ⟨_, rfl, by
        refine State.setChan_kept ?_
        exact h17
        ⟩
      rw [← e]
      clear e v21
      refine State.dramBurst_kept ?_
      exact h22
    ⟩
  rw [← e]
  clear e v3
  refine Kept.foldl ?_ ?_
  · exact h4
  · intro t24 x25 h26
    refine State.dramSettle_kept ?_
    exact h26

theorem State.recordEccAddr_kept {a s y1 y2 y3} (h : Kept a s) : Kept a (State.recordEccAddr s y1 y2 y3) := by
  unfold State.recordEccAddr
  extract_lets +onlyGivenNames v1
  obtain ⟨v2, e⟩ : ∃ y, y = v1 := ⟨_, rfl⟩
  rw [← e]
  clear e v1
  extract_lets +onlyGivenNames v3
  obtain ⟨v4, e⟩ : ∃ y, y = v3 := ⟨_, rfl⟩
  rw [← e]
  clear e v3
  extract_lets +onlyGivenNames v5
  obtain ⟨v6, e⟩ : ∃ y, y = v5 := ⟨_, rfl⟩
  rw [← e]
  clear e v5
  extract_lets +onlyGivenNames v7
  obtain ⟨v8, e⟩ : ∃ y, y = v7 := ⟨_, rfl⟩
  rw [← e]
  clear e v7
  refine Kept.ite ?_ ?_
  · refine State.setF_kept ?_
    refine State.setF_kept ?_
    exact h
  · exact h

theorem State.eccCorrect_kept {a s y1} (h : Kept a s) : Kept a (State.eccCorrect s y1) := by
  unfold State.eccCorrect
  extract_lets +onlyGivenNames v1
  obtain ⟨v3, e, h2⟩ : ∃ y, y = v1 ∧ Kept a (y) := ⟨_, rfl, by
    refine State.setEcc_kept ?_
    exact h
    ⟩
  rw [← e]
  clear e v1
  split
  · rename_i z4 z5
    refine State.recordEccAddr_kept ?_
    refine State.setF_kept ?_
    refine State.incF_kept ?_
    exact h2
  · rename_i z6 z7
    refine State.recordEccAddr_kept ?_
    refine State.setF_kept ?_
    refine State.incF_kept ?_
    exact h2
  · rename_i z8 z9 z10 z11
    refine State.setF_kept ?_
    exact h2
  · rename_i z12 z13 z14 z15
    exact h2

theorem State.eccUncorrectable_kept {a s y1} (h : Kept a s) : Kept a (State.eccUncorrectable s y1) := by
  unfold State.eccUncorrectable
  split
  · rename_i z1 z2
    refine State.raise_kept ?_
    refine State.recordEccAddr_kept ?_
    refine State.setF_kept ?_
    refine State.incF_kept ?_
    exact h
  · rename_i z3 z4
    refine State.raise_kept ?_
    refine State.recordEccAddr_kept ?_
    refine State.setF_kept ?_
    refine State.incF_kept ?_
    exact h
  · rename_i z5 z6 z7 z8
    refine State.raise_kept ?_
    refine State.setF_kept ?_
    exact h
  · rename_i z9 z10 z11 z12
    exact h

theorem State.eccRead_kept {a s y1} (h : Kept a s) : Kept a (State.eccRead s y1) := by
  unfold State.eccRead
  split
  · rename_i z1 z2
    exact h
  · rename_i z3 z4
    refine State.eccCorrect_kept ?_
    exact h
  · rename_i z5 z6
    refine State.eccUncorrectable_kept ?_
    exact h

theorem State.eccReads_kept {a s y1 y2} (h : Kept a s) : Kept a (State.eccReads s y1 y2) := by
  induction y2 generalizing s y1
  · unfold State.eccReads
    exact h
  · rename_i w1 w2
    unfold State.eccReads
    apply w2
    refine State.eccRead_kept ?_
    exact h

theorem State.refreshBurst_kept {a s y1} (h : Kept a s) : Kept a (State.refreshBurst s y1) := by
  unfold State.refreshBurst
  extract_lets +onlyGivenNames v1
  obtain ⟨v2, e⟩ : ∃ y, y = v1 := ⟨_, rfl⟩
  rw [← e]
  clear e v1
  extract_lets +onlyGivenNames v3
  obtain ⟨v5, e, h4⟩ : ∃ y, y = v3 ∧ Kept a (y) := ⟨_, rfl, by
    refine Kept.foldl ?_ ?_
    · exact h
    · intro t6 x7 h8
      refine State.setBank_kept ?_
      exact h8
    ⟩
  rw [← e]
  clear e v3
  refine State.setF_kept ?_
  exact h4

theorem refreshTick_kept {a y1 y2 s} (h : Kept a s) : Kept a (refreshTick y1 y2 s) := by
  unfold refreshTick
  refine Kept.ite ?_ ?_
  · exact h
  · extract_lets +onlyGivenNames v1
    obtain ⟨v2, e⟩ : ∃ y, y = v1 := ⟨_, rfl⟩
    rw [← e]
    clear e v1
    extract_lets +onlyGivenNames v3
    obtain ⟨v5, e, h4⟩ : ∃ y, y = v3 ∧ Kept a (y) := ⟨_, rfl, by
      refine State.setRank_kept ?_
      refine State.reach_kept ?_
      exact h
      ⟩
    rw [← e]
    clear e v3
    extract_lets +onlyGivenNames v6
    obtain ⟨v8, e, h7⟩ : ∃ y, y = v6 ∧ Kept a (y) := ⟨_, rfl, by
      refine State.setF_kept ?_
      refine State.wakeRank_kept ?_
      exact h4
      ⟩
    rw [← e]
    clear e v6
    refine Kept.ite ?_ ?_
    · exact h7
    · refine State.refreshBurst_kept ?_
      exact h7

theorem State.setBand_kept {a s y1 y2} (h : Kept a s) : Kept a (State.setBand s y1 y2) := by
  unfold State.setBand
  extract_lets +onlyGivenNames v1
  obtain ⟨v2, e⟩ : ∃ y, y = v1 := ⟨_, rfl⟩
  rw [← e]
  clear e v1
  refine Kept.ite ?_ ?_
  · exact h
  · extract_lets +onlyGivenNames v3
    obtain ⟨v4, e⟩ : ∃ y, y = v3 := ⟨_, rfl⟩
    rw [← e]
    clear e v3
    extract_lets +onlyGivenNames v5
    obtain ⟨v7, e, h6⟩ : ∃ y, y = v5 ∧ Kept a (y) := ⟨_, rfl, by
      refine State.setRank_kept ?_
      refine State.setF_kept ?_
      exact h
      ⟩
    rw [← e]
    clear e v5
    extract_lets +onlyGivenNames v8
    obtain ⟨v10, e, h9⟩ : ∃ y, y = v8 ∧ Kept a (y) := ⟨_, rfl, by
      refine Kept.ite ?_ ?_
      · refine State.refreshBurst_kept ?_
        exact h6
      · exact h6
      ⟩
    rw [← e]
    clear e v8
    refine Kept.ite ?_ ?_
    · refine State.info_kept ?_
      exact h9
    · refine Kept.ite ?_ ?_
      · refine State.severe_kept ?_
        refine State.setF_kept ?_
        exact h9
      · exact h9

theorem mr4Poll_kept {a y1 y2 y3 s} (h : Kept a s) : Kept a (mr4Poll y1 y2 y3 s) := by
  unfold mr4Poll
  extract_lets +onlyGivenNames v1
  obtain ⟨v3, e, h2⟩ : ∃ y, y = v1 ∧ Kept a (y) := ⟨_, rfl, by
    refine State.setF_kept ?_
    exact h
    ⟩
  rw [← e]
  clear e v1
  extract_lets +onlyGivenNames v4
  obtain ⟨v5, e⟩ : ∃ y, y = v4 := ⟨_, rfl⟩
  rw [← e]
  clear e v4
  extract_lets +onlyGivenNames v6
  obtain ⟨v7, e⟩ : ∃ y, y = v6 := ⟨_, rfl⟩
  rw [← e]
  clear e v6
  refine Kept.ite ?_ ?_
  · refine State.setBand_kept ?_
    exact h2
  · refine Kept.ite ?_ ?_
    · refine State.setRank_kept ?_
      exact h2
    · refine Kept.ite ?_ ?_
      · refine State.setBand_kept ?_
        exact h2
      · refine State.setRank_kept ?_
        exact h2

theorem State.srUpdate_kept {a s} (h : Kept a s) : Kept a (State.srUpdate s) := by
  unfold State.srUpdate
  refine State.setF_kept ?_
  exact h

theorem selfRefreshEntry_kept {a y1 y2 s} (h : Kept a s) : Kept a (selfRefreshEntry y1 y2 s) := by
  unfold selfRefreshEntry
  extract_lets +onlyGivenNames v1
  obtain ⟨v2, e⟩ : ∃ y, y = v1 := ⟨_, rfl⟩
  rw [← e]
  clear e v1
  extract_lets +onlyGivenNames v3
  obtain ⟨v4, e⟩ : ∃ y, y = v3 := ⟨_, rfl⟩
  rw [← e]
  clear e v3
  refine Kept.ite ?_ ?_
  · exact h
  · refine Kept.ite ?_ ?_
    · extract_lets +onlyGivenNames v5
      obtain ⟨v7, e, h6⟩ : ∃ y, y = v5 ∧ Kept a (y) := ⟨_, rfl, by
        refine Kept.ite ?_ ?_
        · exact h
        · refine State.reach_kept ?_
          exact h
        ⟩
      rw [← e]
      clear e v5
      extract_lets +onlyGivenNames v8
      obtain ⟨v10, e, h9⟩ : ∃ y, y = v8 ∧ Kept a (y) := ⟨_, rfl, by
        refine forEach_kept ?_ ?_
        · exact h6
        · intro x11 x12 h13
          refine State.setF_kept ?_
          refine State.refreshBurst_kept ?_
          exact h13
        ⟩
      rw [← e]
      clear e v8
      refine Kept.ite ?_ ?_
      · refine State.srUpdate_kept ?_
        refine State.setChan_kept ?_
        refine forEach_kept ?_ ?_
        · exact h9
        · intro x14 x15 h16
          refine State.setF_kept ?_
          exact h16
      · exact h9
    · refine Kept.ite ?_ ?_
      · refine State.srUpdate_kept ?_
        refine State.setChan_kept ?_
        refine forEach_kept ?_ ?_
        · exact h
        · intro x17 x18 h19
          refine State.setF_kept ?_
          exact h19
      · exact h

theorem selfRefreshExit_kept {a y1 s} (h : Kept a s) : Kept a (selfRefreshExit y1 s) := by
  unfold selfRefreshExit
  extract_lets +onlyGivenNames v1
  obtain ⟨v2, e⟩ : ∃ y, y = v1 := ⟨_, rfl⟩
  rw [← e]
  clear e v1
  refine Kept.ite ?_ ?_
  · exact h
  · refine Kept.ite ?_ ?_
    · extract_lets +onlyGivenNames v3
      obtain ⟨v5, e, h4⟩ : ∃ y, y = v3 ∧ Kept a (y) := ⟨_, rfl, by
        refine forEach_kept ?_ ?_
        · exact h
        · intro x6 x7 h8
          refine State.setF_kept ?_
          exact h8
        ⟩
      rw [← e]
      clear e v3
      refine State.setChan_kept ?_
      refine State.incF_kept ?_
      refine State.setF_kept ?_
      exact h4
    · refine Kept.ite ?_ ?_
      · extract_lets +onlyGivenNames v9
        obtain ⟨v11, e, h10⟩ : ∃ y, y = v9 ∧ Kept a (y) := ⟨_, rfl, by
          refine State.reach_kept ?_
          exact h
          ⟩
        rw [← e]
        clear e v9
        extract_lets +onlyGivenNames v12
        obtain ⟨v14, e, h13⟩ : ∃ y, y = v12 ∧ Kept a (y) := ⟨_, rfl, by
          refine forEach_kept ?_ ?_
          · exact h10
          · intro x15 x16 h17
            refine State.setRank_kept ?_
            refine State.setF_kept ?_
            refine State.setF_kept ?_
            exact h17
          ⟩
        rw [← e]
        clear e v12
        refine State.srUpdate_kept ?_
        refine State.setChan_kept ?_
        exact h13
      · exact h

theorem State.scrubChan_kept {a s y1} (h : Kept a s) : Kept a (State.scrubChan s y1) := by
  unfold State.scrubChan
  extract_lets +onlyGivenNames v1
  obtain ⟨v2, e⟩ : ∃ y, y = v1 := ⟨_, rfl⟩
  rw [← e]
  clear e v1
  extract_lets +onlyGivenNames v3
  obtain ⟨v4, e⟩ : ∃ y, y = v3 := ⟨_, rfl⟩
  rw [← e]
  clear e v3
  extract_lets +onlyGivenNames v5
  obtain ⟨v6, e⟩ : ∃ y, y = v5 := ⟨_, rfl⟩
  rw [← e]
  clear e v5
  extract_lets +onlyGivenNames v7
  obtain ⟨v8, e⟩ : ∃ y, y = v7 := ⟨_, rfl⟩
  rw [← e]
  clear e v7
  extract_lets +onlyGivenNames v9
  obtain ⟨v10, e⟩ : ∃ y, y = v9 := ⟨_, rfl⟩
  rw [← e]
  clear e v9
  extract_lets +onlyGivenNames v11
  obtain ⟨v13, e, h12⟩ : ∃ y, y = v11 ∧ Kept a (y) := ⟨_, rfl, by
    refine State.eccReads_kept ?_
    refine State.dramBurst_kept ?_
    exact h
    ⟩
  rw [← e]
  clear e v11
  extract_lets +onlyGivenNames v14
  obtain ⟨v16, e, h15⟩ : ∃ y, y = v14 ∧ Kept a (y) := ⟨_, rfl, by
    refine State.dramSettle_kept ?_
    exact h12
    ⟩
  rw [← e]
  clear e v14
  extract_lets +onlyGivenNames v17
  obtain ⟨v18, e⟩ : ∃ y, y = v17 := ⟨_, rfl⟩
  rw [← e]
  clear e v17
  extract_lets +onlyGivenNames v19
  obtain ⟨v20, e⟩ : ∃ y, y = v19 := ⟨_, rfl⟩
  rw [← e]
  clear e v19
  extract_lets +onlyGivenNames v21
  obtain ⟨v23, e, h22⟩ : ∃ y, y = v21 ∧ Kept a (y) := ⟨_, rfl, by
    refine Kept.ite ?_ ?_
    · refine State.recordEccAddr_kept ?_
      refine State.setF_kept ?_
      exact h15
    · exact h15
    ⟩
  rw [← e]
  clear e v21
  extract_lets +onlyGivenNames v24
  obtain ⟨v25, e⟩ : ∃ y, y = v24 := ⟨_, rfl⟩
  rw [← e]
  clear e v24
  refine Kept.ite ?_ ?_
  · refine State.setChan_kept ?_
    exact h22
  · refine State.setChan_kept ?_
    exact h22

theorem dramScrub_kept {a s} (h : Kept a s) : Kept a (dramScrub s) := by
  unfold dramScrub
  refine Kept.ite ?_ ?_
  · exact h
  · refine forEach_kept ?_ ?_
    · exact h
    · intro x1 x2 h3
      refine Kept.ite ?_ ?_
      · refine State.scrubChan_kept ?_
        exact h3
      · exact h3

end Sys2Proof.Machine
end

