-- ==== Sys2Proof/Laws/KeptMemory.lean ====
section
/-! SUPPORT. Every operation of Machine/Memory.lean keeps the queue and the canonical tables (`Kept`). -/

set_option linter.unusedVariables false

namespace Sys2Proof.Machine

open Sys2Proof

theorem State.memTouch_kept {a s y1 y2 y3 y4} (h : Kept a s) : Kept a (State.memTouch s y1 y2 y3 y4) := by
  unfold State.memTouch
  refine Kept.ite ?_ ?_
  · refine State.dramRequest_kept ?_
    exact h
  · exact h

theorem State.readResponses_kept {a s y1 y2 y3 y4} (h : Kept a s) : Kept a (State.readResponses s y1 y2 y3 y4) := by
  induction y4 generalizing s y1 y2 y3
  · unfold State.readResponses
    exact h
  · rename_i w1 w2
    unfold State.readResponses
    extract_lets +onlyGivenNames v3
    obtain ⟨v4, e⟩ : ∃ y, y = v3 := ⟨_, rfl⟩
    rw [← e]
    clear e v3
    extract_lets +onlyGivenNames v5
    obtain ⟨v6, e⟩ : ∃ y, y = v5 := ⟨_, rfl⟩
    rw [← e]
    clear e v5
    apply w2
    refine State.send_kept ?_
    exact h

theorem memRead_kept {a y1 s} (h : Kept a s) : Kept a (memRead y1 s) := by
  unfold memRead
  extract_lets +onlyGivenNames v1
  obtain ⟨v2, e⟩ : ∃ y, y = v1 := ⟨_, rfl⟩
  rw [← e]
  clear e v1
  extract_lets +onlyGivenNames v3
  obtain ⟨v4, e⟩ : ∃ y, y = v3 := ⟨_, rfl⟩
  rw [← e]
  clear e v3
  refine Kept.ite ?_ ?_
  · exact h
  · refine Kept.ite ?_ ?_
    · refine State.refuse_kept ?_
      exact h
    · split
      · rename_i z5 z6 z7
        refine State.refuse_kept ?_
        exact h
      · rename_i z8 z9
        extract_lets +onlyGivenNames v10
        obtain ⟨v12, e, h11⟩ : ∃ y, y = v10 ∧ Kept a (y) := ⟨_, rfl, by
          refine State.memTouch_kept ?_
          exact h
          ⟩
        rw [← e]
        clear e v10
        extract_lets +onlyGivenNames v13
        obtain ⟨v15, e, h14⟩ : ∃ y, y = v13 ∧ Kept a (y) := ⟨_, rfl, by
          refine State.readResponses_kept ?_
          exact h11
          ⟩
        rw [← e]
        clear e v13
        refine State.eccReads_kept ?_
        exact h14

theorem State.memWrongEp_kept {a s y1} (h : Kept a s) : Kept a (State.memWrongEp s y1) := by
  unfold State.memWrongEp
  refine State.arrive_kept ?_ ?_
  · exact h
  · intro x1 h2
    refine State.refuse_kept ?_
    exact h2

theorem mrd_kept {a y1 s} (h : Kept a s) : Kept a (mrd y1 s) := by
  unfold mrd
  refine Kept.ite ?_ ?_
  · refine State.memWrongEp_kept ?_
    exact h
  · refine Kept.ite ?_ ?_
    · exact h
    · refine State.arrive_kept ?_ ?_
      · exact h
      · intro x1 h2
        refine State.whenDue_kept ?_ ?_
        · exact h2
        · intro x3 h4
          refine memRead_kept ?_
          exact h4

theorem State.writeWords_kept {a s y1 y2 y3} (h : Kept a s) : Kept a (State.writeWords s y1 y2 y3) := by
  induction y3 generalizing s y1 y2
  · unfold State.writeWords
    exact h
  · rename_i w1 w2 w3
    unfold State.writeWords
    extract_lets +onlyGivenNames v4
    obtain ⟨v6, e, h5⟩ : ∃ y, y = v4 ∧ Kept a (y) := ⟨_, rfl, by
      refine Kept.ite ?_ ?_
      · refine State.st_kept ?_
        exact h
      · refine State.st_kept ?_
        exact h
      ⟩
    rw [← e]
    clear e v4
    apply w3
    exact h5

theorem memWrite_kept {a y1 s} (h : Kept a s) : Kept a (memWrite y1 s) := by
  unfold memWrite
  split
  · rename_i z1
    exact h
  · rename_i z2 z3 z4
    extract_lets +onlyGivenNames v5
    obtain ⟨v6, e⟩ : ∃ y, y = v5 := ⟨_, rfl⟩
    rw [← e]
    clear e v5
    extract_lets +onlyGivenNames v7
    obtain ⟨v8, e⟩ : ∃ y, y = v7 := ⟨_, rfl⟩
    rw [← e]
    clear e v7
    extract_lets +onlyGivenNames v9
    obtain ⟨v10, e⟩ : ∃ y, y = v9 := ⟨_, rfl⟩
    rw [← e]
    clear e v9
    extract_lets +onlyGivenNames v11
    obtain ⟨v12, e⟩ : ∃ y, y = v11 := ⟨_, rfl⟩
    rw [← e]
    clear e v11
    extract_lets +onlyGivenNames v13
    obtain ⟨v14, e⟩ : ∃ y, y = v13 := ⟨_, rfl⟩
    rw [← e]
    clear e v13
    extract_lets +onlyGivenNames v15
    obtain ⟨v16, e⟩ : ∃ y, y = v15 := ⟨_, rfl⟩
    rw [← e]
    clear e v15
    split
    · rename_i z17 z18 z19
      refine State.refuse_kept ?_
      exact h
    · rename_i z20 z21
      refine Kept.ite ?_ ?_
      · refine State.refuse_kept ?_
        exact h
      · refine Kept.ite ?_ ?_
        · refine State.refuse_kept ?_
          exact h
        · split
          · rename_i z22 z23 z24
            refine State.refuse_kept ?_
            exact h
          · rename_i z25 z26
            refine Kept.ite ?_ ?_
            · refine State.refuse_kept ?_
              exact h
            · extract_lets +onlyGivenNames v27
              obtain ⟨v29, e, h28⟩ : ∃ y, y = v27 ∧ Kept a (y) := ⟨_, rfl, by
                refine State.memTouch_kept ?_
                exact h
                ⟩
              rw [← e]
              clear e v27
              refine Kept.ite ?_ ?_
              · refine State.refuse_kept ?_
                refine State.eccReads_kept ?_
                exact h28
              · extract_lets +onlyGivenNames v30
                obtain ⟨v32, e, h31⟩ : ∃ y, y = v30 ∧ Kept a (y) := ⟨_, rfl, by
                  refine Kept.ite ?_ ?_
                  · refine State.eccReads_kept ?_
                    exact h28
                  · exact h28
                  ⟩
                rw [← e]
                clear e v30
                extract_lets +onlyGivenNames v33
                obtain ⟨v34, e⟩ : ∃ y, y = v33 := ⟨_, rfl⟩
                rw [← e]
                clear e v33
                extract_lets +onlyGivenNames v35
                obtain ⟨v36, e⟩ : ∃ y, y = v35 := ⟨_, rfl⟩
                rw [← e]
                clear e v35
                extract_lets +onlyGivenNames v37
                obtain ⟨v38, e⟩ : ∃ y, y = v37 := ⟨_, rfl⟩
                rw [← e]
                clear e v37
                split
                · rename_i z39 z40
                  extract_lets +onlyGivenNames v41
                  obtain ⟨v43, e, h42⟩ : ∃ y, y = v41 ∧ Kept a (y) := ⟨_, rfl, by
                    refine State.writeWords_kept ?_
                    exact h31
                    ⟩
                  rw [← e]
                  clear e v41
                  refine Kept.ite ?_ ?_
                  · refine State.respond_kept ?_
                    exact h42
                  · exact h42
                · rename_i z44 z45
                  refine State.respond_kept ?_
                  refine State.st_kept ?_
                  exact h31
                · rename_i z46 z47
                  refine State.respond_kept ?_
                  refine State.st_kept ?_
                  exact h31
                · rename_i z48 z49 z50 z51
                  refine State.respond_kept ?_
                  refine Kept.ite ?_ ?_
                  · refine State.st_kept ?_
                    exact h31
                  · exact h31

theorem mwr_kept {a y1 s} (h : Kept a s) : Kept a (mwr y1 s) := by
  unfold mwr
  split
  · rename_i z1
    exact h
  · rename_i z2 z3 z4
    refine Kept.ite ?_ ?_
    · refine State.arrive_kept ?_ ?_
      · exact h
      · intro x5 h6
        refine State.refuse_kept ?_
        exact h6
    · refine Kept.ite ?_ ?_
      · exact h
      · refine State.arrive_kept ?_ ?_
        · exact h
        · intro x7 h8
          refine State.whenDue_kept ?_ ?_
          · exact h8
          · intro x9 h10
            refine memWrite_kept ?_
            exact h10

theorem State.scrubBlock_kept {a s y1} (h : Kept a s) : Kept a (State.scrubBlock s y1) := by
  unfold State.scrubBlock
  extract_lets +onlyGivenNames v1
  obtain ⟨v2, e⟩ : ∃ y, y = v1 := ⟨_, rfl⟩
  rw [← e]
  clear e v1
  extract_lets +onlyGivenNames v3
  obtain ⟨v5, e, h4⟩ : ∃ y, y = v3 ∧ Kept a (y) := ⟨_, rfl, by
    refine State.eccReads_kept ?_
    exact h
    ⟩
  rw [← e]
  clear e v3
  extract_lets +onlyGivenNames v6
  obtain ⟨v8, e, h7⟩ : ∃ y, y = v6 ∧ Kept a (y) := ⟨_, rfl, by
    refine Kept.ite ?_ ?_
    · refine State.recordEccAddr_kept ?_
      refine State.setF_kept ?_
      exact h4
    · exact h4
    ⟩
  rw [← e]
  clear e v6
  refine Kept.ite ?_ ?_
  · refine State.setScrub_kept ?_
    exact h7
  · exact h7

theorem plainScrub_kept {a s} (h : Kept a s) : Kept a (plainScrub s) := by
  unfold plainScrub
  refine Kept.ite ?_ ?_
  · exact h
  · extract_lets +onlyGivenNames v1
    obtain ⟨v2, e⟩ : ∃ y, y = v1 := ⟨_, rfl⟩
    rw [← e]
    clear e v1
    extract_lets +onlyGivenNames v3
    obtain ⟨v5, e, h4⟩ : ∃ y, y = v3 ∧ Kept a (y) := ⟨_, rfl, by
      refine forEach_kept ?_ ?_
      · exact h
      · intro x6 x7 h8
        refine State.scrubBlock_kept ?_
        exact h8
      ⟩
    rw [← e]
    clear e v3
    refine Kept.ite ?_ ?_
    · refine State.setScrub_kept ?_
      exact h4
    · refine State.setScrub_kept ?_
      exact h4

end Sys2Proof.Machine
end

