-- ==== Sys2Proof/Laws/KeptZynzu.lean ====
section
/-! SUPPORT. Every operation of Machine/Zynzu.lean keeps the queue and the canonical tables (`Kept`). -/

set_option linter.unusedVariables false

namespace Sys2Proof.Machine

open Sys2Proof

theorem State.setCore_kept {a s y1 y2} (h : Kept a s) : Kept a (State.setCore s y1 y2) := by
  unfold State.setCore
  refine State.setCores_kept ?_ ?_
  · exact h
  · intro x1
    exact twf_tset _ _ x1

theorem State.setCoreState_kept {a s y1 y2} (h : Kept a s) : Kept a (State.setCoreState s y1 y2) := by
  unfold State.setCoreState
  refine State.setF_kept ?_
  exact h

theorem zLoad_kept {a y1 y2 y3 s} (h : Kept a s) : Kept a (loadState (zLoad y1 y2 y3 s)) := by
  unfold zLoad
  extract_lets +onlyGivenNames v1
  obtain ⟨v2, e⟩ : ∃ y, y = v1 := ⟨_, rfl⟩
  rw [← e]
  clear e v1
  extract_lets +onlyGivenNames v3
  obtain ⟨v4, e⟩ : ∃ y, y = v3 := ⟨_, rfl⟩
  rw [← e]
  clear e v3
  refine Kept.iteOf (fun p => loadState (p)) ?_ ?_
  · exact h
  · refine Kept.iteOf (fun p => loadState (p)) ?_ ?_
    · exact h
    · extract_lets +onlyGivenNames v5
      obtain ⟨v6, e⟩ : ∃ y, y = v5 := ⟨_, rfl⟩
      rw [← e]
      clear e v5
      refine Kept.iteOf (fun p => loadState (p)) ?_ ?_
      · refine State.eccUncorrectable_kept ?_
        exact h
      · extract_lets +onlyGivenNames v7
        obtain ⟨v9, e, h8⟩ : ∃ y, y = v7 ∧ Kept a (y) := ⟨_, rfl, by
          refine State.eccRead_kept ?_
          exact h
          ⟩
        rw [← e]
        clear e v7
        extract_lets +onlyGivenNames v10
        obtain ⟨v11, e⟩ : ∃ y, y = v10 := ⟨_, rfl⟩
        rw [← e]
        clear e v10
        exact h8

theorem zStore_kept {a y1 y2 y3 y4 s} (h : Kept a s) : Kept a (storeState (zStore y1 y2 y3 y4 s)) := by
  unfold zStore
  extract_lets +onlyGivenNames v1
  obtain ⟨v2, e⟩ : ∃ y, y = v1 := ⟨_, rfl⟩
  rw [← e]
  clear e v1
  extract_lets +onlyGivenNames v3
  obtain ⟨v4, e⟩ : ∃ y, y = v3 := ⟨_, rfl⟩
  rw [← e]
  clear e v3
  refine Kept.iteOf (fun p => storeState (p)) ?_ ?_
  · exact h
  · refine Kept.iteOf (fun p => storeState (p)) ?_ ?_
    · exact h
    · extract_lets +onlyGivenNames v5
      obtain ⟨v6, e⟩ : ∃ y, y = v5 := ⟨_, rfl⟩
      rw [← e]
      clear e v5
      refine Kept.iteOf (fun p => storeState (p)) ?_ ?_
      · refine State.eccUncorrectable_kept ?_
        exact h
      · extract_lets +onlyGivenNames v7
        obtain ⟨v9, e, h8⟩ : ∃ y, y = v7 ∧ Kept a (y) := ⟨_, rfl, by
          refine Kept.ite ?_ ?_
          · refine State.setEcc_kept ?_
            exact h
          · refine State.eccRead_kept ?_
            exact h
          ⟩
        rw [← e]
        clear e v7
        refine State.setBytes_kept ?_
        exact h8

theorem zSend_kept {a y1 y2 y3 y4 s y5} (h : Kept a s) : Kept a (Prod.fst (zSend y1 y2 y3 y4 s y5)) := by
  unfold zSend
  extract_lets +onlyGivenNames v1
  obtain ⟨v2, e⟩ : ∃ y, y = v1 := ⟨_, rfl⟩
  rw [← e]
  clear e v1
  extract_lets +onlyGivenNames v3
  obtain ⟨v4, e⟩ : ∃ y, y = v3 := ⟨_, rfl⟩
  rw [← e]
  clear e v3
  extract_lets +onlyGivenNames v5
  obtain ⟨v6, e⟩ : ∃ y, y = v5 := ⟨_, rfl⟩
  rw [← e]
  clear e v5
  extract_lets +onlyGivenNames v7
  obtain ⟨v8, e⟩ : ∃ y, y = v7 := ⟨_, rfl⟩
  rw [← e]
  clear e v7
  refine State.setNet_kept ?_
  exact h

theorem zAlu_kept {a y1 y2 y3 y4 y5 y6 s y7} (h : Kept a s) : Kept a (ZOut.state (zAlu y1 y2 y3 y4 y5 y6 s y7)) := by
  unfold zAlu
  extract_lets +onlyGivenNames v1
  obtain ⟨v2, e⟩ : ∃ y, y = v1 := ⟨_, rfl⟩
  rw [← e]
  clear e v1
  extract_lets +onlyGivenNames v3
  obtain ⟨v4, e⟩ : ∃ y, y = v3 := ⟨_, rfl⟩
  rw [← e]
  clear e v3
  extract_lets +onlyGivenNames v5
  obtain ⟨v6, e⟩ : ∃ y, y = v5 := ⟨_, rfl⟩
  rw [← e]
  clear e v5
  extract_lets +onlyGivenNames v7
  obtain ⟨v8, e⟩ : ∃ y, y = v7 := ⟨_, rfl⟩
  rw [← e]
  clear e v7
  split
  · rename_i z9 z10 z11
    exact h
  · rename_i z12 z13 z14 z15
    extract_lets +onlyGivenNames v16
    obtain ⟨v17, e⟩ : ∃ y, y = v16 := ⟨_, rfl⟩
    rw [← e]
    clear e v16
    extract_lets +onlyGivenNames v18
    obtain ⟨v19, e⟩ : ∃ y, y = v18 := ⟨_, rfl⟩
    rw [← e]
    clear e v18
    extract_lets +onlyGivenNames v20
    obtain ⟨v21, e⟩ : ∃ y, y = v20 := ⟨_, rfl⟩
    rw [← e]
    clear e v20
    extract_lets +onlyGivenNames v22
    obtain ⟨v23, e⟩ : ∃ y, y = v22 := ⟨_, rfl⟩
    rw [← e]
    clear e v22
    refine Kept.iteOf (fun p => ZOut.state (p)) ?_ ?_
    · exact h
    · extract_lets +onlyGivenNames v24
      obtain ⟨v25, e⟩ : ∃ y, y = v24 := ⟨_, rfl⟩
      rw [← e]
      clear e v24
      refine Kept.iteOf (fun p => ZOut.state (p)) ?_ ?_
      · refine Kept.iteOf (fun p => ZOut.state (p)) ?_ ?_
        · exact h
        · extract_lets +onlyGivenNames v26
          obtain ⟨v28, e, h27⟩ : ∃ y, y = v26 ∧ Kept a (Prod.fst (y)) := ⟨_, rfl, by
            refine zSend_kept ?_
            exact h
            ⟩
          rw [← e]
          clear e v26
          exact h27
      · exact h

theorem zTok_kept {a y1 y2 y3 y4 y5 s y6} (h : Kept a s) : Kept a (ZOut.state (zTok y1 y2 y3 y4 y5 s y6)) := by
  unfold zTok
  extract_lets +onlyGivenNames v1
  obtain ⟨v2, e⟩ : ∃ y, y = v1 := ⟨_, rfl⟩
  rw [← e]
  clear e v1
  split
  · rename_i z3 z4
    exact h
  · rename_i z5 z6
    exact h
  · rename_i z7 z8
    exact h
  · rename_i z9 z10
    refine Kept.iteOf (fun p => ZOut.state (p)) ?_ ?_
    · exact h
    · extract_lets +onlyGivenNames v11
      obtain ⟨v13, e, h12⟩ : ∃ y, y = v11 ∧ Kept a (Prod.fst (y)) := ⟨_, rfl, by
        refine zSend_kept ?_
        exact h
        ⟩
      rw [← e]
      clear e v11
      exact h12
  · rename_i z14 z15
    split
    · rename_i z16 z17 z18
      exact h
    · rename_i z19 z20
      exact h
  · rename_i z21 z22 z23 z24 z25 z26
    exact h

theorem State.t6Send_kept {a s y1 y2 y3 y4} (h : Kept a s) : Kept a (State.t6Send s y1 y2 y3 y4) := by
  unfold State.t6Send
  refine State.sendMsg_kept ?_
  exact h

theorem zBulk_kept {a y1 y2 y3 y4 y5 s y6} (h : Kept a s) : Kept a (ZOut.state (zBulk y1 y2 y3 y4 y5 s y6)) := by
  unfold zBulk
  extract_lets +onlyGivenNames v1
  obtain ⟨v2, e⟩ : ∃ y, y = v1 := ⟨_, rfl⟩
  rw [← e]
  clear e v1
  extract_lets +onlyGivenNames v3
  obtain ⟨v4, e⟩ : ∃ y, y = v3 := ⟨_, rfl⟩
  rw [← e]
  clear e v3
  extract_lets +onlyGivenNames v5
  obtain ⟨v6, e⟩ : ∃ y, y = v5 := ⟨_, rfl⟩
  rw [← e]
  clear e v5
  extract_lets +onlyGivenNames v7
  obtain ⟨v8, e⟩ : ∃ y, y = v7 := ⟨_, rfl⟩
  rw [← e]
  clear e v7
  extract_lets +onlyGivenNames v9
  obtain ⟨v10, e⟩ : ∃ y, y = v9 := ⟨_, rfl⟩
  rw [← e]
  clear e v9
  refine Kept.iteOf (fun p => ZOut.state (p)) ?_ ?_
  · exact h
  · refine Kept.iteOf (fun p => ZOut.state (p)) ?_ ?_
    · exact h
    · refine Kept.iteOf (fun p => ZOut.state (p)) ?_ ?_
      · exact h
      · refine Kept.iteOf (fun p => ZOut.state (p)) ?_ ?_
        · exact h
        · refine Kept.iteOf (fun p => ZOut.state (p)) ?_ ?_
          · exact h
          · refine Kept.iteOf (fun p => ZOut.state (p)) ?_ ?_
            · exact h
            · extract_lets +onlyGivenNames v11
              obtain ⟨v12, e⟩ : ∃ y, y = v11 := ⟨_, rfl⟩
              rw [← e]
              clear e v11
              extract_lets +onlyGivenNames v13
              obtain ⟨v14, e⟩ : ∃ y, y = v13 := ⟨_, rfl⟩
              rw [← e]
              clear e v13
              exact h

theorem zSys_kept {a y1 y2 y3 y4 y5 s y6} (h : Kept a s) : Kept a (ZOut.state (zSys y1 y2 y3 y4 y5 s y6)) := by
  unfold zSys
  extract_lets +onlyGivenNames v1
  obtain ⟨v2, e⟩ : ∃ y, y = v1 := ⟨_, rfl⟩
  rw [← e]
  clear e v1
  extract_lets +onlyGivenNames v3
  obtain ⟨v4, e⟩ : ∃ y, y = v3 := ⟨_, rfl⟩
  rw [← e]
  clear e v3
  extract_lets +onlyGivenNames v5
  extract_lets +onlyGivenNames v6
  extract_lets +onlyGivenNames v7
  obtain ⟨v8, e⟩ : ∃ y, y = v7 := ⟨_, rfl⟩
  rw [← e]
  clear e v7
  split
  · rename_i z9 z10
    exact h
  · rename_i z11 z12
    exact h
  · rename_i z13 z14
    exact h
  · rename_i z15 z16
    exact h
  · rename_i z17 z18
    exact h
  · rename_i z19 z20
    refine Kept.iteOf (fun p => ZOut.state (p)) ?_ ?_
    · exact h
    · exact h
  · rename_i z21 z22
    unfold v5
    refine State.t6Send_kept ?_
    exact h
  · rename_i z23 z24
    refine Kept.iteOf (fun p => ZOut.state (p)) ?_ ?_
    · exact h
    · exact h
  · rename_i z25 z26
    refine zBulk_kept ?_
    exact h
  · rename_i z27 z28
    refine zBulk_kept ?_
    exact h
  · rename_i z29 z30
    refine zBulk_kept ?_
    exact h
  · rename_i z31 z32 z33 z34 z35 z36 z37 z38 z39 z40 z41 z42
    refine Kept.iteOf (fun p => ZOut.state (p)) ?_ ?_
    · exact h
    · split
      · rename_i z43 z44
        unfold v5
        refine State.t6Send_kept ?_
        exact h
      · rename_i z45 z46
        unfold v6
        refine Kept.iteOf (fun p => ZOut.state (p)) ?_ ?_
        · exact h
        · refine State.t6Send_kept ?_
          exact h
      · rename_i z47 z48
        unfold v5
        refine State.t6Send_kept ?_
        exact h
      · rename_i z49 z50
        unfold v5
        refine State.t6Send_kept ?_
        exact h
      · rename_i z51 z52
        unfold v5
        refine State.t6Send_kept ?_
        exact h
      · rename_i z53 z54
        unfold v5
        refine State.t6Send_kept ?_
        exact h
      · rename_i z55 z56 z57 z58 z59 z60 z61
        unfold v6
        refine Kept.iteOf (fun p => ZOut.state (p)) ?_ ?_
        · exact h
        · refine State.t6Send_kept ?_
          exact h

theorem zAttempt_kept {a y1 y2 s y3} (h : Kept a s) : Kept a (ZOut.state (zAttempt y1 y2 s y3)) := by
  unfold zAttempt
  split
  · rename_i z1 z2 z3 z4 z5 z6
    refine zAlu_kept ?_
    exact h
  · rename_i z7 z8 z9 z10 z11
    refine Kept.iteOf (fun p => ZOut.state (p)) ?_ ?_
    · exact h
    · split
      · rename_i z12 z13 z14 z15 z16
        have h17 := Kept.ofEq (a := a) (fun p => loadState (p)) z16 (by
            refine zLoad_kept ?_
            exact h
          )
        beta_reduce at h17
        exact h17
      · rename_i z18 z19 z20 z21
        have h22 := Kept.ofEq (a := a) (fun p => loadState (p)) z21 (by
            refine zLoad_kept ?_
            exact h
          )
        beta_reduce at h22
        exact h22
  · rename_i z23 z24 z25 z26
    exact h
  · rename_i z27 z28 z29 z30 z31
    split
    · rename_i z32 z33 z34 z35 z36
      have h37 := Kept.ofEq (a := a) (fun p => storeState (p)) z36 (by
          refine zStore_kept ?_
          exact h
        )
      beta_reduce at h37
      exact h37
    · rename_i z38 z39 z40
      have h41 := Kept.ofEq (a := a) (fun p => storeState (p)) z40 (by
          refine zStore_kept ?_
          exact h
        )
      beta_reduce at h41
      exact h41
  · rename_i z42 z43 z44 z45 z46
    exact h
  · rename_i z47 z48 z49 z50 z51
    exact h
  · rename_i z52 z53 z54 z55 z56
    exact h
  · rename_i z57 z58
    extract_lets +onlyGivenNames v59
    obtain ⟨v60, e⟩ : ∃ y, y = v59 := ⟨_, rfl⟩
    rw [← e]
    clear e v59
    refine Kept.iteOf (fun p => ZOut.state (p)) ?_ ?_
    · exact h
    · exact h
  · rename_i z61 z62
    extract_lets +onlyGivenNames v63
    obtain ⟨v64, e⟩ : ∃ y, y = v63 := ⟨_, rfl⟩
    rw [← e]
    clear e v63
    refine Kept.iteOf (fun p => ZOut.state (p)) ?_ ?_
    · exact h
    · exact h
  · rename_i z65 z66 z67
    extract_lets +onlyGivenNames v68
    obtain ⟨v69, e⟩ : ∃ y, y = v68 := ⟨_, rfl⟩
    rw [← e]
    clear e v68
    refine Kept.iteOf (fun p => ZOut.state (p)) ?_ ?_
    · exact h
    · refine Kept.iteOf (fun p => ZOut.state (p)) ?_ ?_
      · exact h
      · exact h
  · rename_i z70 z71 z72 z73 z74
    refine zTok_kept ?_
    exact h
  · rename_i z75 z76 z77 z78 z79
    refine zSys_kept ?_
    exact h
  · rename_i z80 z81
    exact h

theorem zException_kept {a y1 y2 y3 s y4} (h : Kept a s) : Kept a (zException y1 y2 y3 s y4) := by
  unfold zException
  extract_lets +onlyGivenNames v1
  obtain ⟨v2, e⟩ : ∃ y, y = v1 := ⟨_, rfl⟩
  rw [← e]
  clear e v1
  refine Kept.ite ?_ ?_
  · extract_lets +onlyGivenNames v3
    obtain ⟨v5, e, h4⟩ : ∃ y, y = v3 ∧ Kept a (y) := ⟨_, rfl, by
      refine State.setF_kept ?_
      refine State.setCoreState_kept ?_
      refine State.setCore_kept ?_
      exact h
      ⟩
    rw [← e]
    clear e v3
    refine State.raise_kept ?_
    exact h4
  · refine State.setCoreState_kept ?_
    refine State.setCore_kept ?_
    exact h

theorem zFinish_kept {a y1 y2 y3 s} {y4 : ZOut} (h : Kept a y4.state) : Kept a (zFinish y1 y2 y3 s y4) := by
  unfold zFinish
  cases y4 with
  | retire t c p => exact State.setCoreState_kept (State.setCore_kept h)
  | halt t c p => exact State.setCoreState_kept (State.setCore_kept h)
  | exc k i t c => exact zException_kept h
  | block k m w t c => exact State.setCoreState_kept (State.setCore_kept h)

theorem zRun_kept {a y1 y2 y3 s} (h : Kept a s) : Kept a (zRun y1 y2 y3 s) := by
  unfold zRun
  extract_lets +onlyGivenNames v1
  obtain ⟨v2, e⟩ : ∃ y, y = v1 := ⟨_, rfl⟩
  rw [← e]
  clear e v1
  extract_lets +onlyGivenNames v3
  obtain ⟨v4, e⟩ : ∃ y, y = v3 := ⟨_, rfl⟩
  rw [← e]
  clear e v3
  refine Kept.ite ?_ ?_
  · refine zException_kept ?_
    exact h
  · refine Kept.ite ?_ ?_
    · refine zFinish_kept ?_
      exact h
    · refine zFinish_kept ?_
      refine zAttempt_kept ?_
      exact h

theorem zExec_kept {a y1 y2 y3 s} (h : Kept a s) : Kept a (zExec y1 y2 y3 s) := by
  unfold zExec
  refine Kept.ite ?_ ?_
  · refine zRun_kept ?_
    exact h
  · exact h

theorem zResume_kept {a y1 s} (h : Kept a s) : Kept a (zResume y1 s) := by
  unfold zResume
  split
  · rename_i z1 z2 z3
    refine zExec_kept ?_
    exact h
  · rename_i z4 z5
    exact h

theorem zFetchRun_kept {a y1 s} (h : Kept a s) : Kept a (zFetchRun y1 s) := by
  unfold zFetchRun
  extract_lets +onlyGivenNames v1
  obtain ⟨v2, e⟩ : ∃ y, y = v1 := ⟨_, rfl⟩
  rw [← e]
  clear e v1
  refine Kept.ite ?_ ?_
  · refine zException_kept ?_
    exact h
  · refine Kept.ite ?_ ?_
    · refine zException_kept ?_
      exact h
    · extract_lets +onlyGivenNames v3
      obtain ⟨v4, e⟩ : ∃ y, y = v3 := ⟨_, rfl⟩
      rw [← e]
      clear e v3
      refine Kept.ite ?_ ?_
      · refine zException_kept ?_
        refine State.eccUncorrectable_kept ?_
        exact h
      · extract_lets +onlyGivenNames v5
        obtain ⟨v7, e, h6⟩ : ∃ y, y = v5 ∧ Kept a (y) := ⟨_, rfl, by
          refine State.eccRead_kept ?_
          exact h
          ⟩
        rw [← e]
        clear e v5
        extract_lets +onlyGivenNames v8
        obtain ⟨v9, e⟩ : ∃ y, y = v8 := ⟨_, rfl⟩
        rw [← e]
        clear e v8
        refine zRun_kept ?_
        exact h6

theorem asyncTaken_kept {a y1 s} (h : Kept a s) : Kept a (asyncTaken y1 s) := by
  unfold asyncTaken
  extract_lets +onlyGivenNames v1
  obtain ⟨v2, e⟩ : ∃ y, y = v1 := ⟨_, rfl⟩
  rw [← e]
  clear e v1
  split
  · rename_i z3 z4 z5 z6
    refine Kept.ite ?_ ?_
    · refine State.setCore_kept ?_
      exact h
    · exact h
  · rename_i z7 z8
    exact h

theorem t6Answer_kept {a y1 y2 y3 y4 s} (h : Kept a s) : Kept a (t6Answer y1 y2 y3 y4 s) := by
  unfold t6Answer
  extract_lets +onlyGivenNames v1
  obtain ⟨v2, e⟩ : ∃ y, y = v1 := ⟨_, rfl⟩
  rw [← e]
  clear e v1
  split
  · rename_i z3 z4 z5 z6 z7 z8
    refine Kept.ite ?_ ?_
    · refine zException_kept ?_
      exact h
    · refine zFinish_kept ?_
      exact h
  · rename_i z9 z10
    exact h

theorem portArrival_kept {a y1 y2 y3 y4 s} (h : Kept a s) : Kept a (portArrival y1 y2 y3 y4 s) := by
  unfold portArrival
  extract_lets +onlyGivenNames v1
  obtain ⟨v2, e⟩ : ∃ y, y = v1 := ⟨_, rfl⟩
  rw [← e]
  clear e v1
  extract_lets +onlyGivenNames v3
  obtain ⟨v4, e⟩ : ∃ y, y = v3 := ⟨_, rfl⟩
  rw [← e]
  clear e v3
  extract_lets +onlyGivenNames v5
  obtain ⟨v6, e⟩ : ∃ y, y = v5 := ⟨_, rfl⟩
  rw [← e]
  clear e v5
  refine Kept.ite ?_ ?_
  · exact h
  · refine Kept.ite ?_ ?_
    · exact h
    · refine State.arrive_kept ?_ ?_
      · exact h
      · intro x7 h8
        refine Kept.ite ?_ ?_
        · refine State.refuse_kept ?_
          exact h8
        · refine Kept.ite ?_ ?_
          · split
            · rename_i z9 z10 z11
              refine Kept.ite ?_ ?_
              · refine t6Answer_kept ?_
                exact h8
              · refine State.refuse_kept ?_
                exact h8
            · rename_i z12 z13
              refine State.refuse_kept ?_
              exact h8
          · refine Kept.ite ?_ ?_
            · refine State.absorb_kept ?_
              exact h8
            · refine Kept.ite ?_ ?_
              · refine State.refuse_kept ?_
                exact h8
              · refine Kept.ite ?_ ?_
                · refine State.refuse_kept ?_
                  exact h8
                · refine zResume_kept ?_
                  refine State.setCore_kept ?_
                  exact h8

theorem creditReturn_kept {a y1 y2 s} (h : Kept a s) : Kept a (creditReturn y1 y2 s) := by
  unfold creditReturn
  extract_lets +onlyGivenNames v1
  obtain ⟨v2, e⟩ : ∃ y, y = v1 := ⟨_, rfl⟩
  rw [← e]
  clear e v1
  refine Kept.ite ?_ ?_
  · extract_lets +onlyGivenNames v3
    obtain ⟨v4, e⟩ : ∃ y, y = v3 := ⟨_, rfl⟩
    rw [← e]
    clear e v3
    extract_lets +onlyGivenNames v5
    obtain ⟨v6, e⟩ : ∃ y, y = v5 := ⟨_, rfl⟩
    rw [← e]
    clear e v5
    extract_lets +onlyGivenNames v7
    obtain ⟨v8, e⟩ : ∃ y, y = v7 := ⟨_, rfl⟩
    rw [← e]
    clear e v7
    extract_lets +onlyGivenNames v9
    obtain ⟨v10, e⟩ : ∃ y, y = v9 := ⟨_, rfl⟩
    rw [← e]
    clear e v9
    extract_lets +onlyGivenNames v11
    obtain ⟨v12, e⟩ : ∃ y, y = v11 := ⟨_, rfl⟩
    rw [← e]
    clear e v11
    extract_lets +onlyGivenNames v13
    obtain ⟨v15, e, h14⟩ : ∃ y, y = v13 ∧ Kept a (y) := ⟨_, rfl, by
      refine State.deliver_kept ?_
      exact h
      ⟩
    rw [← e]
    clear e v13
    refine zResume_kept ?_
    refine State.setCore_kept ?_
    exact h14
  · refine Kept.ite ?_ ?_
    · refine State.deliver_kept ?_
      exact h
    · exact h

theorem portTimeout_kept {a y1 s} (h : Kept a s) : Kept a (portTimeout y1 s) := by
  unfold portTimeout
  extract_lets +onlyGivenNames v1
  obtain ⟨v2, e⟩ : ∃ y, y = v1 := ⟨_, rfl⟩
  rw [← e]
  clear e v1
  extract_lets +onlyGivenNames v3
  obtain ⟨v4, e⟩ : ∃ y, y = v3 := ⟨_, rfl⟩
  rw [← e]
  clear e v3
  split
  · rename_i z5 z6 z7
    refine Kept.ite ?_ ?_
    · extract_lets +onlyGivenNames v8
      obtain ⟨v10, e, h9⟩ : ∃ y, y = v8 ∧ Kept a (y) := ⟨_, rfl, by
        refine State.reach_kept ?_
        exact h
        ⟩
      rw [← e]
      clear e v8
      refine zException_kept ?_
      exact h9
    · exact h
  · rename_i z11 z12
    exact h

theorem postedAck_kept {a y1 y2 s} (h : Kept a s) : Kept a (postedAck y1 y2 s) := by
  unfold postedAck
  extract_lets +onlyGivenNames v1
  obtain ⟨v2, e⟩ : ∃ y, y = v1 := ⟨_, rfl⟩
  rw [← e]
  clear e v1
  refine Kept.ite ?_ ?_
  · exact h
  · extract_lets +onlyGivenNames v3
    obtain ⟨v5, e, h4⟩ : ∃ y, y = v3 ∧ Kept a (y) := ⟨_, rfl, by
      refine State.deliver_kept ?_
      exact h
      ⟩
    rw [← e]
    clear e v3
    extract_lets +onlyGivenNames v6
    obtain ⟨v7, e⟩ : ∃ y, y = v6 := ⟨_, rfl⟩
    rw [← e]
    clear e v6
    extract_lets +onlyGivenNames v8
    obtain ⟨v9, e⟩ : ∃ y, y = v8 := ⟨_, rfl⟩
    rw [← e]
    clear e v8
    refine zResume_kept ?_
    refine State.setCore_kept ?_
    exact h4

theorem bulkRun_kept {a y1 s y2 y3 y4} (h : Kept a s) : Kept a (Prod.fst (bulkRun y1 s y2 y3 y4)) := by
  induction y4 generalizing y1 s y2 y3
  · unfold bulkRun
    exact h
  · rename_i w1 w2
    unfold bulkRun
    extract_lets +onlyGivenNames v3
    obtain ⟨v4, e⟩ : ∃ y, y = v3 := ⟨_, rfl⟩
    rw [← e]
    clear e v3
    extract_lets +onlyGivenNames v5
    obtain ⟨v6, e⟩ : ∃ y, y = v5 := ⟨_, rfl⟩
    rw [← e]
    clear e v5
    refine Kept.iteOf (fun p => Prod.fst (p)) ?_ ?_
    · exact h
    · refine Kept.iteOf (fun p => Prod.fst (p)) ?_ ?_
      · refine State.eccRead_kept ?_
        refine State.memTouch_kept ?_
        exact h
      · refine Kept.iteOf (fun p => Prod.fst (p)) ?_ ?_
        · exact h
        · extract_lets +onlyGivenNames v7
          obtain ⟨v9, e, h8⟩ : ∃ y, y = v7 ∧ Kept a (y) := ⟨_, rfl, by
            refine State.memTouch_kept ?_
            refine State.eccRead_kept ?_
            refine State.memTouch_kept ?_
            exact h
            ⟩
          rw [← e]
          clear e v7
          apply w2
          refine State.st_kept ?_
          exact h8

theorem bulkComplete_kept {a y1 y2 s} (h : Kept a s) : Kept a (bulkComplete y1 y2 s) := by
  unfold bulkComplete
  extract_lets +onlyGivenNames v1
  obtain ⟨v2, e⟩ : ∃ y, y = v1 := ⟨_, rfl⟩
  rw [← e]
  clear e v1
  split
  · rename_i z3 z4
    exact h
  · rename_i z5 z6 z7
    extract_lets +onlyGivenNames v8
    obtain ⟨v10, e, h9⟩ : ∃ y, y = v8 ∧ Kept a (Prod.fst (y)) := ⟨_, rfl, by
      refine bulkRun_kept ?_
      exact h
      ⟩
    rw [← e]
    clear e v8
    extract_lets +onlyGivenNames v11
    obtain ⟨v12, e⟩ : ∃ y, y = v11 := ⟨_, rfl⟩
    rw [← e]
    clear e v11
    extract_lets +onlyGivenNames v13
    obtain ⟨v14, e⟩ : ∃ y, y = v13 := ⟨_, rfl⟩
    rw [← e]
    clear e v13
    refine zResume_kept ?_
    refine State.setCore_kept ?_
    exact h9

theorem coreStart_kept {a y1 s} (h : Kept a s) : Kept a (coreStart y1 s) := by
  unfold coreStart
  refine Kept.ite ?_ ?_
  · refine State.setCoreState_kept ?_
    refine State.setCore_kept ?_
    exact h
  · refine State.info_kept ?_
    exact h

theorem coreHalt_kept {a y1 s} (h : Kept a s) : Kept a (coreHalt y1 s) := by
  unfold coreHalt
  extract_lets +onlyGivenNames v1
  obtain ⟨v2, e⟩ : ∃ y, y = v1 := ⟨_, rfl⟩
  rw [← e]
  clear e v1
  refine Kept.ite ?_ ?_
  · refine State.setCoreState_kept ?_
    refine State.setCore_kept ?_
    exact h
  · exact h

theorem coreStep_kept {a y1 s} (h : Kept a s) : Kept a (coreStep y1 s) := by
  unfold coreStep
  refine Kept.ite ?_ ?_
  · refine zFetchRun_kept ?_
    refine State.setCore_kept ?_
    exact h
  · refine State.info_kept ?_
    exact h

theorem coreCtrlEffect_kept {a y1 y2 s} (h : Kept a s) : Kept a (coreCtrlEffect y1 y2 s) := by
  unfold coreCtrlEffect
  refine Kept.ite ?_ ?_
  · refine coreStart_kept ?_
    exact h
  · refine Kept.ite ?_ ?_
    · refine coreHalt_kept ?_
      exact h
    · refine Kept.ite ?_ ?_
      · refine coreStep_kept ?_
        exact h
      · exact h

theorem coreRotation_kept {a y1 y2 s} (h : Kept a s) : Kept a (coreRotation y1 y2 s) := by
  unfold coreRotation
  extract_lets +onlyGivenNames v1
  obtain ⟨v2, e⟩ : ∃ y, y = v1 := ⟨_, rfl⟩
  rw [← e]
  clear e v1
  refine Kept.ite ?_ ?_
  · refine State.setCoreState_kept ?_
    refine State.setCore_kept ?_
    exact h
  · exact h

theorem coreMoveComplete_kept {a y1 s} (h : Kept a s) : Kept a (coreMoveComplete y1 s) := by
  unfold coreMoveComplete
  extract_lets +onlyGivenNames v1
  obtain ⟨v2, e⟩ : ∃ y, y = v1 := ⟨_, rfl⟩
  rw [← e]
  clear e v1
  split
  · rename_i z3 z4
    exact h
  · rename_i z5 z6 z7 z8
    refine zResume_kept ?_
    refine State.setF_kept ?_
    refine State.setCoreState_kept ?_
    refine State.setCore_kept ?_
    exact h

theorem coreLost_kept {a y1 s} (h : Kept a s) : Kept a (coreLost y1 s) := by
  unfold coreLost
  refine State.setCoreState_kept ?_
  refine State.setCore_kept ?_
  exact h

theorem State.copyWords_kept {a s y1 y2 y3} (h : Kept a s) : Kept a (State.copyWords s y1 y2 y3) := by
  induction y3 generalizing s y1 y2
  · unfold State.copyWords
    exact h
  · rename_i w1 w2
    unfold State.copyWords
    apply w2
    refine State.st_kept ?_
    exact h

theorem State.clearRange_kept {a s y1 y2} (h : Kept a s) : Kept a (State.clearRange s y1 y2) := by
  unfold State.clearRange
  refine State.setEccs_kept ?_ ?_
  · refine State.setMem_kept ?_ ?_
    · exact h
    · intro x1
      exact twf_filter _ x1
  · intro x2
    exact twf_filter _ x2

theorem State.copyRange_kept {a s y1 y2 y3} (h : Kept a s) : Kept a (State.copyRange s y1 y2 y3) := by
  unfold State.copyRange
  extract_lets +onlyGivenNames v1
  obtain ⟨v2, e⟩ : ∃ y, y = v1 := ⟨_, rfl⟩
  rw [← e]
  clear e v1
  refine Kept.foldl ?_ ?_
  · refine State.clearRange_kept ?_
    exact h
  · intro t3 x4 h5
    refine State.setByte_kept ?_
    exact h5

theorem coreRestart_kept {a y1 y2 s} (h : Kept a s) : Kept a (coreRestart y1 y2 s) := by
  unfold coreRestart
  refine Kept.ite ?_ ?_
  · exact h
  · refine Kept.ite ?_ ?_
    · refine State.warn_kept ?_
      exact h
    · extract_lets +onlyGivenNames v1
      obtain ⟨v2, e⟩ : ∃ y, y = v1 := ⟨_, rfl⟩
      rw [← e]
      clear e v1
      extract_lets +onlyGivenNames v3
      obtain ⟨v5, e, h4⟩ : ∃ y, y = v3 ∧ Kept a (y) := ⟨_, rfl, by
        refine State.copyRange_kept ?_
        exact h
        ⟩
      rw [← e]
      clear e v3
      extract_lets +onlyGivenNames v6
      obtain ⟨v8, e, h7⟩ : ∃ y, y = v6 ∧ Kept a (y) := ⟨_, rfl, by
        refine Kept.ite ?_ ?_
        · refine State.copyRange_kept ?_
          exact h4
        · refine State.clearRange_kept ?_
          exact h4
        ⟩
      rw [← e]
      clear e v6
      refine coreStart_kept ?_
      refine State.setCoreState_kept ?_
      refine State.setF_kept ?_
      refine State.incF_kept ?_
      exact h7

end Sys2Proof.Machine
end

