-- ==== Sys2Proof/Laws/KeptPower.lean ====
section
/-! SUPPORT. Every operation of Machine/Power.lean keeps the queue and the canonical tables (`Kept`). -/

set_option linter.unusedVariables false

namespace Sys2Proof.Machine

open Sys2Proof

theorem State.resetTo_kept {a y1 s} (h : Kept a s) : Kept a (State.resetTo s y1) := by
  have h0 : Kept a ((State.reset.setPending s.pending).setCw (s.cw.filter (fun p => survives y1 p.1))) :=
    ⟨h.pending, fun hc => (State.canonical_iff _).2
      ⟨twf_filter _ ((State.canonical_iff s).1 (h.canon hc)).1, by
        simp [State.reset, State.setPending, State.setCw, Memory.wf, twf, twfFrom]⟩⟩
  unfold State.resetTo
  refine Kept.ite ?_ ?_
  · exact State.setHouse_kept (State.setTb_kept (State.setMt_kept (State.setHost_kept (State.setBasin_kept (State.setHolds_kept (State.setFreeCtr_kept (State.setVault_kept (State.setKeyHashes_kept (State.setFlash_kept h0)))))))))
  · exact State.setMt_kept (State.setTb_kept (State.setHost_kept (State.setBasin_kept (State.setHolds_kept (State.setFreeCtr_kept (State.setVault_kept (State.setKeyHashes_kept (State.setFlash_kept h0))))))))

theorem State.holdReset_kept {a s y1} (h : Kept a s) : Kept a (State.holdReset s y1) := by
  unfold State.holdReset
  refine Kept.foldl ?_ ?_
  · refine State.resetTo_kept ?_
    exact h
  · intro t1 x2 h3
    refine State.setCol_kept ?_
    exact h3

theorem State.mirrorLast_kept {a s y1} (h : Kept a s) : Kept a (State.mirrorLast s y1) := by
  unfold State.mirrorLast
  refine Kept.ite ?_ ?_
  · exact h
  · extract_lets +onlyGivenNames v1
    obtain ⟨v2, e⟩ : ∃ y, y = v1 := ⟨_, rfl⟩
    rw [← e]
    clear e v1
    extract_lets +onlyGivenNames v3
    obtain ⟨v5, e, h4⟩ : ∃ y, y = v3 ∧ Kept a (y) := ⟨_, rfl, by
      refine Kept.foldl ?_ ?_
      · exact h
      · intro t6 x7 h8
        refine State.setF_kept ?_
        exact h8
      ⟩
    rw [← e]
    clear e v3
    refine State.setF_kept ?_
    exact h4

theorem State.lastRaise_kept {a s y1 y2 y3 y4} (h : Kept a s) : Kept a (State.lastRaise s y1 y2 y3 y4) := by
  unfold State.lastRaise
  extract_lets +onlyGivenNames v1
  obtain ⟨v2, e⟩ : ∃ y, y = v1 := ⟨_, rfl⟩
  rw [← e]
  clear e v1
  extract_lets +onlyGivenNames v3
  obtain ⟨v4, e⟩ : ∃ y, y = v3 := ⟨_, rfl⟩
  rw [← e]
  clear e v3
  refine State.mirrorLast_kept ?_
  refine State.takeRaise_kept ?_
  exact h

theorem porstAssert_kept {a s} (h : Kept a s) : Kept a (porstAssert s) := by
  unfold porstAssert
  refine State.holdReset_kept ?_
  refine State.setHolds_kept ?_
  exact h

theorem resetAssert_kept {a s} (h : Kept a s) : Kept a (resetAssert s) := by
  unfold resetAssert
  refine State.holdReset_kept ?_
  refine State.setHolds_kept ?_
  exact h

theorem brownoutWarning_kept {a y1 s} (h : Kept a s) : Kept a (brownoutWarning y1 s) := by
  unfold brownoutWarning
  refine State.critical_kept ?_
  refine State.gateOffAll_kept ?_
  exact h

theorem brownoutReset_kept {a y1 s} (h : Kept a s) : Kept a (brownoutReset y1 s) := by
  unfold brownoutReset
  refine State.holdReset_kept ?_
  refine State.setHolds_kept ?_
  exact h

theorem State.railRound_kept {a s y1 y2} (h : Kept a s) : Kept a (State.railRound s y1 y2) := by
  unfold State.railRound
  extract_lets +onlyGivenNames v1
  obtain ⟨v2, e⟩ : ∃ y, y = v1 := ⟨_, rfl⟩
  rw [← e]
  clear e v1
  extract_lets +onlyGivenNames v3
  obtain ⟨v4, e⟩ : ∃ y, y = v3 := ⟨_, rfl⟩
  rw [← e]
  clear e v3
  extract_lets +onlyGivenNames v5
  obtain ⟨v6, e⟩ : ∃ y, y = v5 := ⟨_, rfl⟩
  rw [← e]
  clear e v5
  extract_lets +onlyGivenNames v7
  obtain ⟨v9, e, h8⟩ : ∃ y, y = v7 ∧ Kept a (y) := ⟨_, rfl, by
    refine State.setF_kept ?_
    refine State.setF_kept ?_
    refine State.setF_kept ?_
    exact h
    ⟩
  rw [← e]
  clear e v7
  extract_lets +onlyGivenNames v10
  obtain ⟨v11, e⟩ : ∃ y, y = v10 := ⟨_, rfl⟩
  rw [← e]
  clear e v10
  extract_lets +onlyGivenNames v12
  obtain ⟨v14, e, h13⟩ : ∃ y, y = v12 ∧ Kept a (y) := ⟨_, rfl, by
    refine State.setHouse_kept ?_
    exact h8
    ⟩
  rw [← e]
  clear e v12
  extract_lets +onlyGivenNames v15
  obtain ⟨v17, e, h16⟩ : ∃ y, y = v15 ∧ Kept a (y) := ⟨_, rfl, by
    refine State.warn_kept ?_
    refine State.setF_kept ?_
    exact h13
    ⟩
  rw [← e]
  clear e v15
  extract_lets +onlyGivenNames v18
  obtain ⟨v20, e, h19⟩ : ∃ y, y = v18 ∧ Kept a (y) := ⟨_, rfl, by
    refine Kept.ite ?_ ?_
    · refine Kept.ite ?_ ?_
      · refine State.severe_kept ?_
        exact h16
      · exact h16
    · exact h13
    ⟩
  rw [← e]
  clear e v18
  refine Kept.ite ?_ ?_
  · extract_lets +onlyGivenNames v21
    obtain ⟨v22, e⟩ : ∃ y, y = v21 := ⟨_, rfl⟩
    rw [← e]
    clear e v21
    extract_lets +onlyGivenNames v23
    obtain ⟨v25, e, h24⟩ : ∃ y, y = v23 ∧ Kept a (y) := ⟨_, rfl, by
      refine State.setF_kept ?_
      exact h19
      ⟩
    rw [← e]
    clear e v23
    refine Kept.ite ?_ ?_
    · refine State.warn_kept ?_
      refine State.setF_kept ?_
      exact h24
    · exact h24
  · exact h19

theorem State.sensorRound_kept {a s y1 y2} (h : Kept a s) : Kept a (State.sensorRound s y1 y2) := by
  unfold State.sensorRound
  extract_lets +onlyGivenNames v1
  obtain ⟨v3, e, h2⟩ : ∃ y, y = v1 ∧ Kept a (y) := ⟨_, rfl, by
    refine Kept.ite ?_ ?_
    · refine State.setFi_kept ?_
      exact h
    · exact h
    ⟩
  rw [← e]
  clear e v1
  refine Kept.ite ?_ ?_
  · extract_lets +onlyGivenNames v4
    obtain ⟨v5, e⟩ : ∃ y, y = v4 := ⟨_, rfl⟩
    rw [← e]
    clear e v4
    extract_lets +onlyGivenNames v6
    obtain ⟨v8, e, h7⟩ : ∃ y, y = v6 ∧ Kept a (y) := ⟨_, rfl, by
      refine State.setHouse_kept ?_
      exact h2
      ⟩
    rw [← e]
    clear e v6
    extract_lets +onlyGivenNames v9
    obtain ⟨v11, e, h10⟩ : ∃ y, y = v9 ∧ Kept a (y) := ⟨_, rfl, by
      refine State.setF_kept ?_
      exact h7
      ⟩
    rw [← e]
    clear e v9
    refine State.warn_kept ?_
    refine State.setF_kept ?_
    exact h10
  · exact h2

theorem State.regionRound_kept {a s y1 y2} (h : Kept a s) : Kept a (State.regionRound s y1 y2) := by
  unfold State.regionRound
  split
  · rename_i z1 z2 z3 z4 z5 z6
    extract_lets +onlyGivenNames v7
    obtain ⟨v9, e, h8⟩ : ∃ y, y = v7 ∧ Kept a (y) := ⟨_, rfl, by
      refine State.setFi_kept ?_
      exact h
      ⟩
    rw [← e]
    clear e v7
    extract_lets +onlyGivenNames v10
    obtain ⟨v11, e⟩ : ∃ y, y = v10 := ⟨_, rfl⟩
    rw [← e]
    clear e v10
    extract_lets +onlyGivenNames v12
    obtain ⟨v13, e⟩ : ∃ y, y = v12 := ⟨_, rfl⟩
    rw [← e]
    clear e v12
    extract_lets +onlyGivenNames v14
    obtain ⟨v16, e, h15⟩ : ∃ y, y = v14 ∧ Kept a (y) := ⟨_, rfl, by
      refine State.setHouse_kept ?_
      exact h8
      ⟩
    rw [← e]
    clear e v14
    extract_lets +onlyGivenNames v17
    obtain ⟨v19, e, h18⟩ : ∃ y, y = v17 ∧ Kept a (y) := ⟨_, rfl, by
      refine Kept.ite ?_ ?_
      · refine State.warn_kept ?_
        refine State.setF_kept ?_
        exact h15
      · exact h15
      ⟩
    rw [← e]
    clear e v17
    extract_lets +onlyGivenNames v20
    obtain ⟨v21, e⟩ : ∃ y, y = v20 := ⟨_, rfl⟩
    rw [← e]
    clear e v20
    extract_lets +onlyGivenNames v22
    obtain ⟨v24, e, h23⟩ : ∃ y, y = v22 ∧ Kept a (y) := ⟨_, rfl, by
      refine State.setF_kept ?_
      exact h18
      ⟩
    rw [← e]
    clear e v22
    refine Kept.ite ?_ ?_
    · refine State.critical_kept ?_
      refine State.levelOn_kept ?_
      refine State.setHouse_kept ?_
      exact h23
    · refine Kept.ite ?_ ?_
      · extract_lets +onlyGivenNames v25
        obtain ⟨v26, e⟩ : ∃ y, y = v25 := ⟨_, rfl⟩
        rw [← e]
        clear e v25
        extract_lets +onlyGivenNames v27
        obtain ⟨v29, e, h28⟩ : ∃ y, y = v27 ∧ Kept a (y) := ⟨_, rfl, by
          refine State.setHouse_kept ?_
          exact h23
          ⟩
        rw [← e]
        clear e v27
        refine Kept.ite ?_ ?_
        · refine State.levelOff_kept ?_
          exact h28
        · exact h28
      · exact h23

theorem State.ageRound_kept {a s y1} (h : Kept a s) : Kept a (State.ageRound s y1) := by
  unfold State.ageRound
  extract_lets +onlyGivenNames v1
  obtain ⟨v2, e⟩ : ∃ y, y = v1 := ⟨_, rfl⟩
  rw [← e]
  clear e v1
  extract_lets +onlyGivenNames v3
  obtain ⟨v4, e⟩ : ∃ y, y = v3 := ⟨_, rfl⟩
  rw [← e]
  clear e v3
  extract_lets +onlyGivenNames v5
  obtain ⟨v7, e, h6⟩ : ∃ y, y = v5 ∧ Kept a (y) := ⟨_, rfl, by
    refine State.setHouse_kept ?_
    exact h
    ⟩
  rw [← e]
  clear e v5
  extract_lets +onlyGivenNames v8
  obtain ⟨v9, e⟩ : ∃ y, y = v8 := ⟨_, rfl⟩
  rw [← e]
  clear e v8
  extract_lets +onlyGivenNames v10
  obtain ⟨v12, e, h11⟩ : ∃ y, y = v10 ∧ Kept a (y) := ⟨_, rfl, by
    refine State.setF_kept ?_
    exact h6
    ⟩
  rw [← e]
  clear e v10
  refine Kept.ite ?_ ?_
  · refine State.warn_kept ?_
    refine State.setF_kept ?_
    exact h11
  · exact h11

theorem State.shutdown_kept {a s} (h : Kept a s) : Kept a (State.shutdown s) := by
  unfold State.shutdown
  extract_lets +onlyGivenNames v1
  obtain ⟨v3, e, h2⟩ : ∃ y, y = v1 ∧ Kept a (y) := ⟨_, rfl, by
    refine State.setF_kept ?_
    refine State.lastRaise_kept ?_
    refine State.gateOffAll_kept ?_
    exact h
    ⟩
  rw [← e]
  clear e v1
  refine State.holdReset_kept ?_
  refine State.setHolds_kept ?_
  exact h2

theorem housekeepingRound_kept {a y1 y2 s} (h : Kept a s) : Kept a (housekeepingRound y1 y2 s) := by
  unfold housekeepingRound
  extract_lets +onlyGivenNames v1
  obtain ⟨v3, e, h2⟩ : ∃ y, y = v1 ∧ Kept a (y) := ⟨_, rfl, by
    refine State.reach_kept ?_
    exact h
    ⟩
  rw [← e]
  clear e v1
  extract_lets +onlyGivenNames v4
  obtain ⟨v6, e, h5⟩ : ∃ y, y = v4 ∧ Kept a (y) := ⟨_, rfl, by
    refine Kept.foldl ?_ ?_
    · exact h2
    · intro t7 x8 h9
      refine State.railRound_kept ?_
      exact h9
    ⟩
  rw [← e]
  clear e v4
  extract_lets +onlyGivenNames v10
  obtain ⟨v12, e, h11⟩ : ∃ y, y = v10 ∧ Kept a (y) := ⟨_, rfl, by
    refine Kept.foldl ?_ ?_
    · exact h5
    · intro t13 x14 h15
      refine State.sensorRound_kept ?_
      exact h15
    ⟩
  rw [← e]
  clear e v10
  extract_lets +onlyGivenNames v16
  obtain ⟨v17, e⟩ : ∃ y, y = v16 := ⟨_, rfl⟩
  rw [← e]
  clear e v16
  extract_lets +onlyGivenNames v18
  obtain ⟨v20, e, h19⟩ : ∃ y, y = v18 ∧ Kept a (y) := ⟨_, rfl, by
    refine State.setHouse_kept ?_
    exact h11
    ⟩
  rw [← e]
  clear e v18
  extract_lets +onlyGivenNames v21
  obtain ⟨v23, e, h22⟩ : ∃ y, y = v21 ∧ Kept a (y) := ⟨_, rfl, by
    refine Kept.foldl ?_ ?_
    · exact h19
    · intro t24 x25 h26
      refine State.regionRound_kept ?_
      exact h26
    ⟩
  rw [← e]
  clear e v21
  extract_lets +onlyGivenNames v27
  obtain ⟨v29, e, h28⟩ : ∃ y, y = v27 ∧ Kept a (y) := ⟨_, rfl, by
    refine State.setF_kept ?_
    exact h22
    ⟩
  rw [← e]
  clear e v27
  extract_lets +onlyGivenNames v30
  obtain ⟨v31, e⟩ : ∃ y, y = v30 := ⟨_, rfl⟩
  rw [← e]
  clear e v30
  extract_lets +onlyGivenNames v32
  obtain ⟨v33, e⟩ : ∃ y, y = v32 := ⟨_, rfl⟩
  rw [← e]
  clear e v32
  extract_lets +onlyGivenNames v34
  obtain ⟨v35, e⟩ : ∃ y, y = v34 := ⟨_, rfl⟩
  rw [← e]
  clear e v34
  extract_lets +onlyGivenNames v36
  obtain ⟨v38, e, h37⟩ : ∃ y, y = v36 ∧ Kept a (y) := ⟨_, rfl, by
    refine State.setF_kept ?_
    exact h28
    ⟩
  rw [← e]
  clear e v36
  extract_lets +onlyGivenNames v39
  obtain ⟨v41, e, h40⟩ : ∃ y, y = v39 ∧ Kept a (y) := ⟨_, rfl, by
    refine Kept.ite ?_ ?_
    · refine State.warn_kept ?_
      refine State.setF_kept ?_
      exact h37
    · exact h37
    ⟩
  rw [← e]
  clear e v39
  extract_lets +onlyGivenNames v42
  obtain ⟨v44, e, h43⟩ : ∃ y, y = v42 ∧ Kept a (y) := ⟨_, rfl, by
    refine State.ageRound_kept ?_
    exact h40
    ⟩
  rw [← e]
  clear e v42
  refine Kept.ite ?_ ?_
  · refine State.shutdown_kept ?_
    exact h43
  · exact h43

theorem throttleSlot_kept {a s} (h : Kept a s) : Kept a (throttleSlot s) := by
  unfold throttleSlot
  extract_lets +onlyGivenNames v1
  obtain ⟨v3, e, h2⟩ : ∃ y, y = v1 ∧ Kept a (y) := ⟨_, rfl, by
    refine State.reach_kept ?_
    exact h
    ⟩
  rw [← e]
  clear e v1
  extract_lets +onlyGivenNames v4
  obtain ⟨v5, e⟩ : ∃ y, y = v4 := ⟨_, rfl⟩
  rw [← e]
  clear e v4
  refine Kept.foldl ?_ ?_
  · exact h2
  · intro t6 x7 h8
    refine Kept.ite ?_ ?_
    · refine State.setCore_kept ?_
      exact h8
    · exact h8

theorem State.wakeRequest_kept {a s y1 y2} (h : Kept a s) : Kept a (State.wakeRequest s y1 y2) := by
  unfold State.wakeRequest
  extract_lets +onlyGivenNames v1
  obtain ⟨v2, e⟩ : ∃ y, y = v1 := ⟨_, rfl⟩
  rw [← e]
  clear e v1
  extract_lets +onlyGivenNames v3
  obtain ⟨v5, e, h4⟩ : ∃ y, y = v3 ∧ Kept a (y) := ⟨_, rfl, by
    refine State.setWake_kept ?_
    exact h
    ⟩
  rw [← e]
  clear e v3
  refine Kept.ite ?_ ?_
  · refine State.setF_kept ?_
    exact h4
  · exact h4

theorem blockSleep_kept {a y1 s} (h : Kept a s) : Kept a (blockSleep y1 s) := by
  unfold blockSleep
  extract_lets +onlyGivenNames v1
  obtain ⟨v2, e⟩ : ∃ y, y = v1 := ⟨_, rfl⟩
  rw [← e]
  clear e v1
  refine Kept.ite ?_ ?_
  · refine State.setWake_kept ?_
    exact h
  · exact h

theorem wakePermitGrant_kept {a s} (h : Kept a s) : Kept a (wakePermitGrant s) := by
  unfold wakePermitGrant
  extract_lets +onlyGivenNames v1
  obtain ⟨v3, e, h2⟩ : ∃ y, y = v1 ∧ Kept a (y) := ⟨_, rfl, by
    refine Kept.foldl ?_ ?_
    · exact h
    · intro t4 x5 h6
      refine Kept.ite ?_ ?_
      · refine State.wakeRequest_kept ?_
        exact h6
      · exact h6
    ⟩
  rw [← e]
  clear e v1
  extract_lets +onlyGivenNames v7
  obtain ⟨v8, e⟩ : ∃ y, y = v7 := ⟨_, rfl⟩
  rw [← e]
  clear e v7
  split
  · rename_i z9 z10
    exact h2
  · rename_i z11 z12 z13 z14
    refine Kept.ite ?_ ?_
    · exact h2
    · extract_lets +onlyGivenNames v15
      obtain ⟨v17, e, h16⟩ : ∃ y, y = v15 ∧ Kept a (y) := ⟨_, rfl, by
        refine State.setWake_kept ?_
        exact h2
        ⟩
      rw [← e]
      clear e v15
      extract_lets +onlyGivenNames v18
      obtain ⟨v20, e, h19⟩ : ∃ y, y = v18 ∧ Kept a (y) := ⟨_, rfl, by
        refine State.incF_kept ?_
        exact h16
        ⟩
      rw [← e]
      clear e v18
      extract_lets +onlyGivenNames v21
      obtain ⟨v23, e, h22⟩ : ∃ y, y = v21 ∧ Kept a (y) := ⟨_, rfl, by
        refine Kept.ite ?_ ?_
        · refine State.setF_kept ?_
          exact h19
        · exact h19
        ⟩
      rw [← e]
      clear e v21
      refine Kept.ite ?_ ?_
      · refine State.wakeRequest_kept ?_
        exact h22
      · exact h22

theorem permitReturn_kept {a s} (h : Kept a s) : Kept a (permitReturn s) := by
  unfold permitReturn
  split
  · rename_i z1 z2
    exact h
  · rename_i z3 z4 z5 z6
    refine State.setWake_kept ?_
    refine State.reach_kept ?_
    exact h

theorem wakeComplete_kept {a y1 s} (h : Kept a s) : Kept a (wakeComplete y1 s) := by
  unfold wakeComplete
  split
  · rename_i z1 z2
    exact h
  · rename_i z3 z4 z5 z6 z7
    extract_lets +onlyGivenNames v8
    obtain ⟨v10, e, h9⟩ : ∃ y, y = v8 ∧ Kept a (y) := ⟨_, rfl, by
      refine State.reach_kept ?_
      exact h
      ⟩
    rw [← e]
    clear e v8
    extract_lets +onlyGivenNames v11
    obtain ⟨v12, e⟩ : ∃ y, y = v11 := ⟨_, rfl⟩
    rw [← e]
    clear e v11
    refine State.setWake_kept ?_
    exact h9

theorem earlyWake_kept {a y1 s} (h : Kept a s) : Kept a (earlyWake y1 s) := by
  unfold earlyWake
  extract_lets +onlyGivenNames v1
  obtain ⟨v2, e⟩ : ∃ y, y = v1 := ⟨_, rfl⟩
  rw [← e]
  clear e v1
  refine Kept.ite ?_ ?_
  · refine State.wakeRequest_kept ?_
    exact h
  · exact h

theorem State.eraseKeys_kept {a s} (h : Kept a s) : Kept a (State.eraseKeys s) := by
  unfold State.eraseKeys
  extract_lets +onlyGivenNames v1
  obtain ⟨v2, e⟩ : ∃ y, y = v1 := ⟨_, rfl⟩
  rw [← e]
  clear e v1
  extract_lets +onlyGivenNames v3
  obtain ⟨v5, e, h4⟩ : ∃ y, y = v3 ∧ Kept a (y) := ⟨_, rfl, by
    refine State.setFlash_kept ?_
    refine State.setKeySlots_kept ?_ ?_
    · exact h
    · intro x6
      rfl
    ⟩
  rw [← e]
  clear e v3
  extract_lets +onlyGivenNames v7
  obtain ⟨v9, e, h8⟩ : ∃ y, y = v7 ∧ Kept a (y) := ⟨_, rfl, by
    refine Kept.foldl ?_ ?_
    · exact h4
    · intro t10 x11 h12
      refine State.setF_kept ?_
      refine State.setF_kept ?_
      refine State.setWord_kept ?_
      exact h12
    ⟩
  rw [← e]
  clear e v7
  refine State.setF_kept ?_
  exact h8

theorem tamper_kept {a s} (h : Kept a s) : Kept a (tamper s) := by
  unfold tamper
  refine Kept.ite ?_ ?_
  · exact h
  · refine State.critical_kept ?_
    refine State.setF_kept ?_
    refine State.setF_kept ?_
    refine State.eraseKeys_kept ?_
    exact h

theorem vaultSupplyLoss_kept {a y1 y2 s} (h : Kept a s) : Kept a (vaultSupplyLoss y1 y2 s) := by
  unfold vaultSupplyLoss
  extract_lets +onlyGivenNames v1
  obtain ⟨v3, e, h2⟩ : ∃ y, y = v1 ∧ Kept a (y) := ⟨_, rfl, by
    refine Kept.ite ?_ ?_
    · refine tamper_kept ?_
      exact h
    · exact h
    ⟩
  rw [← e]
  clear e v1
  refine State.setVault_kept ?_
  exact h2

theorem vaultSupplyReturn_kept {a s} (h : Kept a s) : Kept a (vaultSupplyReturn s) := by
  unfold vaultSupplyReturn
  refine Kept.ite ?_ ?_
  · exact h
  · refine State.putAt_kept ?_
    refine State.setVault_kept ?_
    exact h

theorem crystalStop_kept {a s} (h : Kept a s) : Kept a (crystalStop s) := by
  unfold crystalStop
  extract_lets +onlyGivenNames v1
  obtain ⟨v2, e⟩ : ∃ y, y = v1 := ⟨_, rfl⟩
  rw [← e]
  clear e v1
  refine State.setF_kept ?_
  refine State.setTb_kept ?_
  refine State.putAt_kept ?_
  exact h

theorem crystalRestart_kept {a s} (h : Kept a s) : Kept a (crystalRestart s) := by
  unfold crystalRestart
  refine Kept.ite ?_ ?_
  · refine State.setTb_kept ?_
    refine State.putAt_kept ?_
    exact h
  · exact h

theorem vaultEffect_kept {a y1 y2 s} (h : Kept a s) : Kept a (vaultEffect y1 y2 s) := by
  unfold vaultEffect
  refine Kept.ite ?_ ?_
  · refine State.setF_kept ?_
    exact h
  · exact h

end Sys2Proof.Machine
end

