-- ==== Sys2Proof/Laws/KeptRepair.lean ====
section
/-! SUPPORT. Every operation of Machine/Repair.lean keeps the queue and the canonical tables (`Kept`). -/

set_option linter.unusedVariables false

namespace Sys2Proof.Machine

open Sys2Proof

theorem State.assign_kept {a s y1 y2 y3} (h : Kept a s) : Kept a (State.assign s y1 y2 y3) := by
  unfold State.assign
  extract_lets +onlyGivenNames v1
  obtain ⟨v3, e, h2⟩ : ∃ y, y = v1 ∧ Kept a (y) := ⟨_, rfl, by
    refine State.setF_kept ?_
    refine State.setF_kept ?_
    exact h
    ⟩
  rw [← e]
  clear e v1
  refine Kept.ite ?_ ?_
  · refine State.setF_kept ?_
    exact h2
  · refine Kept.ite ?_ ?_
    · refine State.setUnit_kept ?_
      exact h2
    · exact h2

theorem State.repairEntry_kept {a s y1 y2 y3 y4} (h : Kept a s) : Kept a (State.repairEntry s y1 y2 y3 y4) := by
  unfold State.repairEntry
  extract_lets +onlyGivenNames v1
  obtain ⟨v2, e⟩ : ∃ y, y = v1 := ⟨_, rfl⟩
  rw [← e]
  clear e v1
  refine Kept.ite ?_ ?_
  · exact h
  · refine Kept.ite ?_ ?_
    · refine State.setF_kept ?_
      exact h
    · refine State.setBoot_kept ?_
      exact h

theorem State.writeRecord_kept {a s} (h : Kept a s) : Kept a (State.writeRecord s) := by
  unfold State.writeRecord
  extract_lets +onlyGivenNames v1
  obtain ⟨v2, e⟩ : ∃ y, y = v1 := ⟨_, rfl⟩
  rw [← e]
  clear e v1
  extract_lets +onlyGivenNames v3
  obtain ⟨v4, e⟩ : ∃ y, y = v3 := ⟨_, rfl⟩
  rw [← e]
  clear e v3
  extract_lets +onlyGivenNames v5
  obtain ⟨v6, e⟩ : ∃ y, y = v5 := ⟨_, rfl⟩
  rw [← e]
  clear e v5
  extract_lets +onlyGivenNames v7
  obtain ⟨v8, e⟩ : ∃ y, y = v7 := ⟨_, rfl⟩
  rw [← e]
  clear e v7
  extract_lets +onlyGivenNames v9
  obtain ⟨v10, e⟩ : ∃ y, y = v9 := ⟨_, rfl⟩
  rw [← e]
  clear e v9
  extract_lets +onlyGivenNames v11
  obtain ⟨v13, e, h12⟩ : ∃ y, y = v11 ∧ Kept a (y) := ⟨_, rfl, by
    refine State.setFlash_kept ?_
    exact h
    ⟩
  rw [← e]
  clear e v11
  refine State.setBoot_kept ?_
  exact h12

theorem repairRecordWrite_kept {a s} (h : Kept a s) : Kept a (repairRecordWrite s) := by
  unfold repairRecordWrite
  extract_lets +onlyGivenNames v1
  obtain ⟨v3, e, h2⟩ : ∃ y, y = v1 ∧ Kept a (y) := ⟨_, rfl, by
    refine Kept.ite ?_ ?_
    · exact h
    · refine State.reach_kept ?_
      exact h
    ⟩
  rw [← e]
  clear e v1
  refine State.writeRecord_kept ?_
  exact h2

theorem State.spareUsed_kept {a s y1} (h : Kept a s) : Kept a (State.spareUsed s y1) := by
  unfold State.spareUsed
  refine Kept.ite ?_ ?_
  · refine State.warn_kept ?_
    refine State.setF_kept ?_
    exact h
  · exact h

theorem State.unserved_kept {a s y1 y2} (h : Kept a s) : Kept a (State.unserved s y1 y2) := by
  unfold State.unserved
  extract_lets +onlyGivenNames v1
  obtain ⟨v3, e, h2⟩ : ∃ y, y = v1 ∧ Kept a (y) := ⟨_, rfl, by
    refine State.severe_kept ?_
    exact h
    ⟩
  rw [← e]
  clear e v1
  refine Kept.ite ?_ ?_
  · refine State.setPipesOff_kept ?_
    exact h2
  · exact h2

theorem State.unitFailed_kept {a s y1 y2} (h : Kept a s) : Kept a (State.unitFailed s y1 y2) := by
  unfold State.unitFailed
  refine Kept.ite ?_ ?_
  · exact h
  · extract_lets +onlyGivenNames v1
    obtain ⟨v2, e⟩ : ∃ y, y = v1 := ⟨_, rfl⟩
    rw [← e]
    clear e v1
    extract_lets +onlyGivenNames v3
    obtain ⟨v4, e⟩ : ∃ y, y = v3 := ⟨_, rfl⟩
    rw [← e]
    clear e v3
    extract_lets +onlyGivenNames v5
    obtain ⟨v6, e⟩ : ∃ y, y = v5 := ⟨_, rfl⟩
    rw [← e]
    clear e v5
    extract_lets +onlyGivenNames v7
    obtain ⟨v9, e, h8⟩ : ∃ y, y = v7 ∧ Kept a (y) := ⟨_, rfl, by
      refine State.repairEntry_kept ?_
      refine State.setF_kept ?_
      refine State.assign_kept ?_
      exact h
      ⟩
    rw [← e]
    clear e v7
    refine Kept.ite ?_ ?_
    · refine State.spareUsed_kept ?_
      exact h8
    · refine Kept.ite ?_ ?_
      · exact h8
      · refine Kept.ite ?_ ?_
        · extract_lets +onlyGivenNames v10
          obtain ⟨v12, e, h11⟩ : ∃ y, y = v10 ∧ Kept a (y) := ⟨_, rfl, by
            refine coreLost_kept ?_
            exact h8
            ⟩
          rw [← e]
          clear e v10
          refine Kept.ite ?_ ?_
          · refine State.raise_kept ?_
            exact h11
          · refine State.record7_kept ?_
            exact h11
        · split
          · rename_i z13 z14 z15 z16
            refine State.spareUsed_kept ?_
            refine State.assign_kept ?_
            exact h8
          · rename_i z17 z18
            refine State.unserved_kept ?_
            exact h8

theorem coreFailed_kept {a y1 s} (h : Kept a s) : Kept a (coreFailed y1 s) := by
  unfold coreFailed
  split
  · rename_i z1 z2 z3
    refine State.unitFailed_kept ?_
    exact h
  · rename_i z4 z5
    exact h

theorem coreRestartOn_kept {a y1 y2 s} (h : Kept a s) : Kept a (coreRestartOn y1 y2 s) := by
  unfold coreRestartOn
  refine Kept.ite ?_ ?_
  · exact h
  · extract_lets +onlyGivenNames v1
    obtain ⟨v3, e, h2⟩ : ∃ y, y = v1 ∧ Kept a (y) := ⟨_, rfl, by
      refine coreRestart_kept ?_
      exact h
      ⟩
    rw [← e]
    clear e v1
    refine Kept.ite ?_ ?_
    · refine State.spareUsed_kept ?_
      refine State.assign_kept ?_
      exact h2
    · exact h2

theorem coreRotate_kept {a y1 y2 s} (h : Kept a s) : Kept a (coreRotate y1 y2 s) := by
  unfold coreRotate
  refine Kept.ite ?_ ?_
  · exact h
  · extract_lets +onlyGivenNames v1
    obtain ⟨v3, e, h2⟩ : ∃ y, y = v1 ∧ Kept a (y) := ⟨_, rfl, by
      refine coreRotation_kept ?_
      exact h
      ⟩
    rw [← e]
    clear e v1
    refine Kept.ite ?_ ?_
    · refine State.setF_kept ?_
      exact h2
    · exact h2

theorem coreMoved_kept {a y1 s} (h : Kept a s) : Kept a (coreMoved y1 s) := by
  unfold coreMoved
  split
  · rename_i z1 z2
    exact h
  · rename_i z3 z4 z5 z6
    extract_lets +onlyGivenNames v7
    obtain ⟨v9, e, h8⟩ : ∃ y, y = v7 ∧ Kept a (y) := ⟨_, rfl, by
      unfold v7
      split
      · rename_i z10 z11 z12
        refine State.assign_kept ?_
        exact h
      · rename_i z13 z14
        exact h
      ⟩
    rw [← e]
    clear e v7
    refine coreMoveComplete_kept ?_
    refine State.assign_kept ?_
    exact h8

theorem sectionFailed_kept {a y1 y2 s} (h : Kept a s) : Kept a (sectionFailed y1 y2 s) := by
  unfold sectionFailed
  refine Kept.ite ?_ ?_
  · exact h
  · extract_lets +onlyGivenNames v1
    obtain ⟨v2, e⟩ : ∃ y, y = v1 := ⟨_, rfl⟩
    rw [← e]
    clear e v1
    extract_lets +onlyGivenNames v3
    obtain ⟨v4, e⟩ : ∃ y, y = v3 := ⟨_, rfl⟩
    rw [← e]
    clear e v3
    extract_lets +onlyGivenNames v5
    obtain ⟨v7, e, h6⟩ : ∃ y, y = v5 ∧ Kept a (y) := ⟨_, rfl, by
      refine unitFail_kept ?_
      exact h
      ⟩
    rw [← e]
    clear e v5
    extract_lets +onlyGivenNames v8
    obtain ⟨v10, e, h9⟩ : ∃ y, y = v8 ∧ Kept a (y) := ⟨_, rfl, by
      refine State.repairEntry_kept ?_
      refine State.setF_kept ?_
      refine State.setF_kept ?_
      refine State.setF_kept ?_
      exact h6
      ⟩
    rw [← e]
    clear e v8
    split
    · rename_i z11 z12 z13
      refine State.spareUsed_kept ?_
      refine State.setF_kept ?_
      refine State.setF_kept ?_
      exact h9
    · rename_i z14
      refine State.severe_kept ?_
      exact h9

theorem State.testCount_kept {a s y1 y2} (h : Kept a s) : Kept a (State.testCount s y1 y2) := by
  unfold State.testCount
  refine Kept.ite ?_ ?_
  · refine State.incF_kept ?_
    exact h
  · refine State.incF_kept ?_
    exact h

theorem State.rotateTo_kept {a s y1 y2} (h : Kept a s) : Kept a (State.rotateTo s y1 y2) := by
  unfold State.rotateTo
  extract_lets +onlyGivenNames v1
  obtain ⟨v2, e⟩ : ∃ y, y = v1 := ⟨_, rfl⟩
  rw [← e]
  clear e v1
  refine Kept.ite ?_ ?_
  · exact h
  · refine Kept.ite ?_ ?_
    · refine coreRotate_kept ?_
      exact h
    · refine Kept.ite ?_ ?_
      · extract_lets +onlyGivenNames v3
        obtain ⟨v4, e⟩ : ∃ y, y = v3 := ⟨_, rfl⟩
        rw [← e]
        clear e v3
        refine State.assign_kept ?_
        refine State.assign_kept ?_
        exact h
      · refine Kept.ite ?_ ?_
        · exact h
        · extract_lets +onlyGivenNames v5
          obtain ⟨v6, e⟩ : ∃ y, y = v5 := ⟨_, rfl⟩
          rw [← e]
          clear e v5
          refine State.assign_kept ?_
          refine State.assign_kept ?_
          exact h

theorem State.testSpare_kept {a s y1 y2 y3 y4} (h : Kept a s) : Kept a (State.testSpare s y1 y2 y3 y4) := by
  unfold State.testSpare
  refine Kept.ite ?_ ?_
  · exact h
  · extract_lets +onlyGivenNames v1
    obtain ⟨v3, e, h2⟩ : ∃ y, y = v1 ∧ Kept a (y) := ⟨_, rfl, by
      refine State.testCount_kept ?_
      exact h
      ⟩
    rw [← e]
    clear e v1
    extract_lets +onlyGivenNames v4
    obtain ⟨v6, e, h5⟩ : ∃ y, y = v4 ∧ Kept a (y) := ⟨_, rfl, by
      refine Kept.ite ?_ ?_
      · exact h2
      · refine State.testCount_kept ?_
        exact h2
      ⟩
    rw [← e]
    clear e v4
    refine Kept.ite ?_ ?_
    · refine State.unitFailed_kept ?_
      exact h5
    · split
      · rename_i z7 z8
        refine State.rotateTo_kept ?_
        exact h5
      · rename_i z9
        exact h5

theorem State.testGorge_kept {a s y1 y2 y3} (h : Kept a s) : Kept a (State.testGorge s y1 y2 y3) := by
  unfold State.testGorge
  refine Kept.ite ?_ ?_
  · exact h
  · refine Kept.ite ?_ ?_
    · exact h
    · refine State.repairEntry_kept ?_
      refine State.severe_kept ?_
      refine State.setF_kept ?_
      exact h

theorem backgroundTest_kept {a y1 y2 y3 y4 y5 s} (h : Kept a s) : Kept a (backgroundTest y1 y2 y3 y4 y5 s) := by
  unfold backgroundTest
  refine Kept.ite ?_ ?_
  · exact h
  · split
    · rename_i z1 z2
      refine State.testSpare_kept ?_
      exact h
    · rename_i z3 z4
      refine State.testGorge_kept ?_
      exact h

end Sys2Proof.Machine
end

