-- ==== Sys2Proof/Laws/KeptUpload.lean ====
section
/-! SUPPORT. Every operation of Machine/Upload.lean keeps the queue and the canonical tables (`Kept`). -/

set_option linter.unusedVariables false

namespace Sys2Proof.Machine

open Sys2Proof

theorem State.upUpdate_kept {a s y1} (h : Kept a s) : Kept a (State.upUpdate s y1) := by
  unfold State.upUpdate
  extract_lets +onlyGivenNames v1
  obtain ⟨v2, e⟩ : ∃ y, y = v1 := ⟨_, rfl⟩
  rw [← e]
  clear e v1
  extract_lets +onlyGivenNames v3
  obtain ⟨v5, e, h4⟩ : ∃ y, y = v3 ∧ Kept a (y) := ⟨_, rfl, by
    refine State.setF_kept ?_
    exact h
    ⟩
  rw [← e]
  clear e v3
  refine Kept.ite ?_ ?_
  · exact h4
  · refine State.setF_kept ?_
    exact h4

theorem State.upQueue_kept {a y1 y2 y3 y4 y5 y6 s} (h : Kept a s) : Kept a (State.upQueue s y1 y2 y3 y4 y5 y6) :=
  State.upUpdate_kept (State.setUp_kept h)

theorem State.serviceAnswer_kept {a s y1 y2 y3 y4} (h : Kept a s) : Kept a (State.serviceAnswer s y1 y2 y3 y4) := by
  unfold State.serviceAnswer
  refine State.send_kept ?_
  exact h

theorem State.upDone_kept {a s y1} (h : Kept a s) : Kept a (State.upDone s y1) := by
  unfold State.upDone
  split
  · rename_i z1 z2
    refine State.serviceAnswer_kept ?_
    exact h
  · rename_i z3 z4 z5
    refine State.evtComplete_kept ?_
    refine State.setF_kept ?_
    refine State.setF_kept ?_
    exact h

theorem State.upAck_kept {a s y1 y2} (h : Kept a s) : Kept a (State.upAck s y1 y2) := by
  unfold State.upAck
  extract_lets +onlyGivenNames v1
  obtain ⟨v2, e⟩ : ∃ y, y = v1 := ⟨_, rfl⟩
  rw [← e]
  clear e v1
  extract_lets +onlyGivenNames v3
  obtain ⟨v4, e⟩ : ∃ y, y = v3 := ⟨_, rfl⟩
  rw [← e]
  clear e v3
  extract_lets +onlyGivenNames v5
  obtain ⟨v7, e, h6⟩ : ∃ y, y = v5 ∧ Kept a (y) := ⟨_, rfl, by
    refine State.setUp_kept ?_
    exact h
    ⟩
  rw [← e]
  clear e v5
  extract_lets +onlyGivenNames v8
  obtain ⟨v10, e, h9⟩ : ∃ y, y = v8 ∧ Kept a (y) := ⟨_, rfl, by
    refine Kept.ite ?_ ?_
    · refine State.setF_kept ?_
      exact h6
    · exact h6
    ⟩
  rw [← e]
  clear e v8
  refine State.upUpdate_kept ?_
  refine Kept.foldl ?_ ?_
  · refine State.setF_kept ?_
    exact h9
  · intro t11 x12 h13
    refine State.upDone_kept ?_
    exact h13

theorem uplSend_kept {a y1 s} (h : Kept a s) : Kept a (uplSend y1 s) := by
  unfold uplSend
  extract_lets +onlyGivenNames v1
  obtain ⟨v2, e⟩ : ∃ y, y = v1 := ⟨_, rfl⟩
  rw [← e]
  clear e v1
  extract_lets +onlyGivenNames v3
  obtain ⟨v4, e⟩ : ∃ y, y = v3 := ⟨_, rfl⟩
  rw [← e]
  clear e v3
  refine Kept.ite ?_ ?_
  · exact h
  · split
    · rename_i z5 z6
      exact h
    · rename_i z7 z8 z9
      extract_lets +onlyGivenNames v10
      obtain ⟨v11, e⟩ : ∃ y, y = v10 := ⟨_, rfl⟩
      rw [← e]
      clear e v10
      extract_lets +onlyGivenNames v12
      obtain ⟨v13, e⟩ : ∃ y, y = v12 := ⟨_, rfl⟩
      rw [← e]
      clear e v12
      extract_lets +onlyGivenNames v14
      obtain ⟨v15, e⟩ : ∃ y, y = v14 := ⟨_, rfl⟩
      rw [← e]
      clear e v14
      extract_lets +onlyGivenNames v16
      obtain ⟨v17, e⟩ : ∃ y, y = v16 := ⟨_, rfl⟩
      rw [← e]
      clear e v16
      extract_lets +onlyGivenNames v18
      obtain ⟨v19, e⟩ : ∃ y, y = v18 := ⟨_, rfl⟩
      rw [← e]
      clear e v18
      extract_lets +onlyGivenNames v20
      obtain ⟨v22, e, h21⟩ : ∃ y, y = v20 ∧ Kept a (y) := ⟨_, rfl, by
        refine State.setUp_kept ?_
        exact h
        ⟩
      rw [← e]
      clear e v20
      refine State.upUpdate_kept ?_
      refine State.toSubscriber_kept ?_
      exact h21

theorem uploadRetransmit_kept {a y1 s} (h : Kept a s) : Kept a (uploadRetransmit y1 s) := by
  unfold uploadRetransmit
  extract_lets +onlyGivenNames v1
  obtain ⟨v2, e⟩ : ∃ y, y = v1 := ⟨_, rfl⟩
  rw [← e]
  clear e v1
  refine Kept.ite ?_ ?_
  · exact h
  · extract_lets +onlyGivenNames v3
    obtain ⟨v5, e, h4⟩ : ∃ y, y = v3 ∧ Kept a (y) := ⟨_, rfl, by
      refine State.reach_kept ?_
      exact h
      ⟩
    rw [← e]
    clear e v3
    refine Kept.ite ?_ ?_
    · refine State.warn_kept ?_
      refine State.setF_kept ?_
      exact h4
    · refine State.setUp_kept ?_
      exact h4

theorem State.service_kept {a s y1 y2 f3} (h : Kept a s) (hf3 : ∀ x0 t, Kept a t → Kept a (f3 x0 t)) : Kept a (State.service s y1 y2 f3) := by
  unfold State.service
  split
  · rename_i z1
    exact h
  · rename_i z2 z3 z4
    refine Kept.ite ?_ ?_
    · exact h
    · refine State.arrive_kept ?_ ?_
      · exact h
      · intro x5 h6
        split
        · rename_i z7 z8 z9
          refine State.refuse_kept ?_
          exact h6
        · rename_i z10 z11
          apply hf3
          exact h6

theorem upload_kept {a y1 s} (h : Kept a s) : Kept a (upload y1 s) := by
  unfold upload
  refine State.service_kept ?_ ?_
  · exact h
  · intro x1 x2 h3
    extract_lets +onlyGivenNames v4
    obtain ⟨v5, e⟩ : ∃ y, y = v4 := ⟨_, rfl⟩
    rw [← e]
    clear e v4
    extract_lets +onlyGivenNames v6
    obtain ⟨v7, e⟩ : ∃ y, y = v6 := ⟨_, rfl⟩
    rw [← e]
    clear e v6
    extract_lets +onlyGivenNames v8
    obtain ⟨v9, e⟩ : ∃ y, y = v8 := ⟨_, rfl⟩
    rw [← e]
    clear e v8
    extract_lets +onlyGivenNames v10
    obtain ⟨v11, e⟩ : ∃ y, y = v10 := ⟨_, rfl⟩
    rw [← e]
    clear e v10
    extract_lets +onlyGivenNames v12
    obtain ⟨v13, e⟩ : ∃ y, y = v12 := ⟨_, rfl⟩
    rw [← e]
    clear e v12
    extract_lets +onlyGivenNames v14
    obtain ⟨v15, e⟩ : ∃ y, y = v14 := ⟨_, rfl⟩
    rw [← e]
    clear e v14
    refine Kept.ite ?_ ?_
    · refine State.serviceAnswer_kept ?_
      exact h3
    · refine Kept.ite ?_ ?_
      · refine State.serviceAnswer_kept ?_
        exact h3
      · refine State.upQueue_kept ?_
        exact h3

theorem reply_kept {a y1 s} (h : Kept a s) : Kept a (reply y1 s) := by
  unfold reply
  refine State.service_kept ?_ ?_
  · exact h
  · intro x1 x2 h3
    extract_lets +onlyGivenNames v4
    obtain ⟨v5, e⟩ : ∃ y, y = v4 := ⟨_, rfl⟩
    rw [← e]
    clear e v4
    extract_lets +onlyGivenNames v6
    obtain ⟨v7, e⟩ : ∃ y, y = v6 := ⟨_, rfl⟩
    rw [← e]
    clear e v6
    refine Kept.ite ?_ ?_
    · refine State.serviceAnswer_kept ?_
      exact h3
    · extract_lets +onlyGivenNames v8
      obtain ⟨v9, e⟩ : ∃ y, y = v8 := ⟨_, rfl⟩
      rw [← e]
      clear e v8
      extract_lets +onlyGivenNames v10
      obtain ⟨v11, e⟩ : ∃ y, y = v10 := ⟨_, rfl⟩
      rw [← e]
      clear e v10
      refine State.serviceAnswer_kept ?_
      refine State.evt_kept ?_
      exact h3

end Sys2Proof.Machine
end

