-- ==== Sys2Proof/Laws/KeptBoot.lean ====
section
/-! SUPPORT. Every operation of Machine/Boot.lean keeps the queue and the canonical tables (`Kept`). -/

set_option linter.unusedVariables false

namespace Sys2Proof.Machine

open Sys2Proof

theorem State.bootMark_kept {a s y1 y2} (h : Kept a s) : Kept a (State.bootMark s y1 y2) := by
  unfold State.bootMark
  extract_lets +onlyGivenNames v1
  obtain ⟨v3, e, h2⟩ : ∃ y, y = v1 ∧ Kept a (y) := ⟨_, rfl, by
    refine State.assign_kept ?_
    exact h
    ⟩
  rw [← e]
  clear e v1
  refine Kept.ite ?_ ?_
  · refine State.repairEntry_kept ?_
    refine State.setF_kept ?_
    exact h2
  · exact h2

theorem State.bootRole_kept {a s y1 y2} (h : Kept a s) : Kept a (State.bootRole s y1 y2) := by
  unfold State.bootRole
  refine Kept.ite ?_ ?_
  · exact h
  · split
    · rename_i z1 z2 z3 z4
      refine State.assign_kept ?_
      exact h
    · rename_i z5 z6
      refine Kept.ite ?_ ?_
      · refine State.unserved_kept ?_
        refine coreLost_kept ?_
        exact h
      · refine State.unserved_kept ?_
        exact h

theorem State.bootSpares_kept {a s y1 y2} (h : Kept a s) : Kept a (State.bootSpares s y1 y2) := by
  unfold State.bootSpares
  refine Kept.ite ?_ ?_
  · refine State.spareUsed_kept ?_
    exact h
  · exact h

theorem State.plainDefect_kept {a s y1 y2} (h : Kept a s) : Kept a (State.plainDefect s y1 y2) := by
  unfold State.plainDefect
  refine State.repairEntry_kept ?_
  refine State.severe_kept ?_
  refine State.setF_kept ?_
  exact h

theorem State.readRecord_kept {a s} (h : Kept a s) : Kept a (State.readRecord s) := by
  unfold State.readRecord
  extract_lets +onlyGivenNames v1
  obtain ⟨v2, e⟩ : ∃ y, y = v1 := ⟨_, rfl⟩
  rw [← e]
  clear e v1
  extract_lets +onlyGivenNames v3
  obtain ⟨v5, e, h4⟩ : ∃ y, y = v3 ∧ Kept a (y) := ⟨_, rfl, by
    refine Kept.ite ?_ ?_
    · exact h
    · refine State.warn_kept ?_
      refine State.setF_kept ?_
      exact h
    ⟩
  rw [← e]
  clear e v3
  split
  · rename_i z6 z7 z8 z9
    extract_lets +onlyGivenNames v10
    obtain ⟨v11, e⟩ : ∃ y, y = v10 := ⟨_, rfl⟩
    rw [← e]
    clear e v10
    extract_lets +onlyGivenNames v12
    obtain ⟨v14, e, h13⟩ : ∃ y, y = v12 ∧ Kept a (y) := ⟨_, rfl, by
      refine State.setBoot_kept ?_
      exact h4
      ⟩
    rw [← e]
    clear e v12
    extract_lets +onlyGivenNames v15
    obtain ⟨v16, e⟩ : ∃ y, y = v15 := ⟨_, rfl⟩
    rw [← e]
    clear e v15
    extract_lets +onlyGivenNames v17
    obtain ⟨v19, e, h18⟩ : ∃ y, y = v17 ∧ Kept a (y) := ⟨_, rfl, by
      refine State.setF_kept ?_
      refine State.setHouse_kept ?_
      exact h13
      ⟩
    rw [← e]
    clear e v17
    refine Kept.ite ?_ ?_
    · refine State.warn_kept ?_
      refine State.setF_kept ?_
      exact h18
    · exact h18

theorem State.bootRepair_kept {a y1 s} (h : Kept a s) : Kept a (State.bootRepair s y1) := by
  unfold State.bootRepair
  dsimp only
  have h1 := forEach_kept (l := y1.unrepaired) (f := fun d s => s.plainDefect d.1 d.2)
    (forEach_kept (l := [0, 1, 2, 3]) (f := fun k t => t.bootSpares (s.readRecord.bootFailedUnits y1.failed) k)
      (forEach_kept (l := [0, 1, 2, 3]) (f := fun k s => forEach (List.range (kindRoles k)) (fun r s => s.bootRole k r) s)
        (forEach_kept (l := s.readRecord.bootFailedUnits y1.failed) (f := fun u s => s.bootMark y1.failed u) (State.readRecord_kept h)
          (fun _ _ ht => State.bootMark_kept ht))
        (fun _ _ ht => forEach_kept ht (fun _ _ hu => State.bootRole_kept hu)))
      (fun _ _ ht => State.bootSpares_kept ht))
    (fun _ _ ht => State.plainDefect_kept ht)
  exact Kept.ite (State.writeRecord_kept (State.setCoreState_kept (State.setCoreState_kept h1))) (State.setCoreState_kept (State.setCoreState_kept h1))

theorem State.loadKey_kept {a s y1 y2} (h : Kept a s) : Kept a (State.loadKey s y1 y2) := by
  unfold State.loadKey
  extract_lets +onlyGivenNames v1
  obtain ⟨v2, e⟩ : ∃ y, y = v1 := ⟨_, rfl⟩
  rw [← e]
  clear e v1
  extract_lets +onlyGivenNames v3
  obtain ⟨v4, e⟩ : ∃ y, y = v3 := ⟨_, rfl⟩
  rw [← e]
  clear e v3
  extract_lets +onlyGivenNames v5
  obtain ⟨v6, e⟩ : ∃ y, y = v5 := ⟨_, rfl⟩
  rw [← e]
  clear e v5
  extract_lets +onlyGivenNames v7
  obtain ⟨v9, e, h8⟩ : ∃ y, y = v7 ∧ Kept a (y) := ⟨_, rfl, by
    refine State.setF_kept ?_
    exact h
    ⟩
  rw [← e]
  clear e v7
  extract_lets +onlyGivenNames v10
  obtain ⟨v11, e⟩ : ∃ y, y = v10 := ⟨_, rfl⟩
  rw [← e]
  clear e v10
  extract_lets +onlyGivenNames v12
  obtain ⟨v14, e, h13⟩ : ∃ y, y = v12 ∧ Kept a (y) := ⟨_, rfl, by
    refine Kept.ite ?_ ?_
    · refine State.setF_kept ?_
      refine State.setFlash_kept ?_
      exact h8
    · refine State.setF_kept ?_
      exact h8
    ⟩
  rw [← e]
  clear e v12
  split
  · rename_i z15
    exact h13
  · rename_i z16 z17 z18 z19
    extract_lets +onlyGivenNames v20
    obtain ⟨v22, e, h21⟩ : ∃ y, y = v20 ∧ Kept a (y) := ⟨_, rfl, by
      refine State.setKeySlots_kept ?_ ?_
      · exact h13
      · intro x23
        exact twf_tset _ _ x23
      ⟩
    rw [← e]
    clear e v20
    extract_lets +onlyGivenNames v24
    obtain ⟨v26, e, h25⟩ : ∃ y, y = v24 ∧ Kept a (y) := ⟨_, rfl, by
      refine State.setF_kept ?_
      refine State.setF_kept ?_
      exact h21
      ⟩
    rw [← e]
    clear e v24
    extract_lets +onlyGivenNames v27
    obtain ⟨v29, e, h28⟩ : ∃ y, y = v27 ∧ Kept a (y) := ⟨_, rfl, by
      refine Kept.ite ?_ ?_
      · refine State.setF_kept ?_
        exact h25
      · exact h25
      ⟩
    rw [← e]
    clear e v27
    refine Kept.ite ?_ ?_
    · refine State.setF_kept ?_
      exact h28
    · exact h28

theorem State.bootFail_kept {a s y1} (h : Kept a s) : Kept a (State.bootFail s y1) := by
  unfold State.bootFail
  extract_lets +onlyGivenNames v1
  obtain ⟨v3, e, h2⟩ : ∃ y, y = v1 ∧ Kept a (y) := ⟨_, rfl, by
    refine State.setF_kept ?_
    refine State.setF_kept ?_
    exact h
    ⟩
  rw [← e]
  clear e v1
  refine State.lastRaise_kept ?_
  exact h2

theorem State.loadSection_kept {a s y1 y2} (h : Kept a s) : Kept a (State.loadSection s y1 y2) := by
  unfold State.loadSection
  refine Kept.ite ?_ ?_
  · refine State.setBytes_kept ?_
    exact h
  · exact h

theorem State.startResident_kept {a s y1} (h : Kept a s) : Kept a (State.startResident s y1) := by
  unfold State.startResident
  refine Kept.ite ?_ ?_
  · refine coreStart_kept ?_
    exact h
  · exact h

theorem State.runImage_kept {a s y1 y2} (h : Kept a s) : Kept a (State.runImage s y1 y2) := by
  unfold State.runImage
  extract_lets +onlyGivenNames v1
  obtain ⟨v2, e⟩ : ∃ y, y = v1 := ⟨_, rfl⟩
  rw [← e]
  clear e v1
  extract_lets +onlyGivenNames v3
  obtain ⟨v5, e, h4⟩ : ∃ y, y = v3 ∧ Kept a (y) := ⟨_, rfl, by
    refine State.setF_kept ?_
    refine State.setF_kept ?_
    refine State.setF_kept ?_
    exact h
    ⟩
  rw [← e]
  clear e v3
  extract_lets +onlyGivenNames v6
  obtain ⟨v8, e, h7⟩ : ∃ y, y = v6 ∧ Kept a (y) := ⟨_, rfl, by
    refine State.setF_kept ?_
    exact h4
    ⟩
  rw [← e]
  clear e v6
  extract_lets +onlyGivenNames v9
  obtain ⟨v11, e, h10⟩ : ∃ y, y = v9 ∧ Kept a (y) := ⟨_, rfl, by
    refine State.setF_kept ?_
    refine State.setF_kept ?_
    refine State.setF_kept ?_
    exact h7
    ⟩
  rw [← e]
  clear e v9
  extract_lets +onlyGivenNames v12
  obtain ⟨v14, e, h13⟩ : ∃ y, y = v12 ∧ Kept a (y) := ⟨_, rfl, by
    refine State.setF_kept ?_
    exact h10
    ⟩
  rw [← e]
  clear e v12
  extract_lets +onlyGivenNames v15
  obtain ⟨v17, e, h16⟩ : ∃ y, y = v15 ∧ Kept a (y) := ⟨_, rfl, by
    refine forEach_kept ?_ ?_
    · exact h13
    · intro x18 x19 h20
      refine State.loadSection_kept ?_
      exact h20
    ⟩
  rw [← e]
  clear e v15
  extract_lets +onlyGivenNames v21
  obtain ⟨v23, e, h22⟩ : ∃ y, y = v21 ∧ Kept a (y) := ⟨_, rfl, by
    refine State.startResident_kept ?_
    refine State.startResident_kept ?_
    exact h16
    ⟩
  rw [← e]
  clear e v21
  extract_lets +onlyGivenNames v24
  obtain ⟨v25, e⟩ : ∃ y, y = v24 := ⟨_, rfl⟩
  rw [← e]
  clear e v24
  extract_lets +onlyGivenNames v26
  obtain ⟨v28, e, h27⟩ : ∃ y, y = v26 ∧ Kept a (y) := ⟨_, rfl, by
    refine State.setBoot_kept ?_
    exact h22
    ⟩
  rw [← e]
  clear e v26
  refine State.setF_kept ?_
  exact h27

theorem State.bootImage_kept {a s} (h : Kept a s) : Kept a (State.bootImage s) := by
  unfold State.bootImage
  extract_lets +onlyGivenNames v1
  obtain ⟨v2, e⟩ : ∃ y, y = v1 := ⟨_, rfl⟩
  rw [← e]
  clear e v1
  extract_lets +onlyGivenNames v3
  obtain ⟨v4, e⟩ : ∃ y, y = v3 := ⟨_, rfl⟩
  rw [← e]
  clear e v3
  extract_lets +onlyGivenNames v5
  obtain ⟨v6, e⟩ : ∃ y, y = v5 := ⟨_, rfl⟩
  rw [← e]
  clear e v5
  extract_lets +onlyGivenNames v7
  obtain ⟨v9, e, h8⟩ : ∃ y, y = v7 ∧ Kept a (y) := ⟨_, rfl, by
    refine Kept.ite ?_ ?_
    · refine State.setFlash_kept ?_
      exact h
    · refine Kept.ite ?_ ?_
      · refine State.setFlash_kept ?_
        exact h
      · exact h
    ⟩
  rw [← e]
  clear e v7
  split
  · rename_i z10 z11
    refine State.runImage_kept ?_
    exact h8
  · rename_i z12 z13 z14
    split
    · rename_i z15 z16
      refine State.runImage_kept ?_
      exact h8
    · rename_i z17 z18 z19
      refine State.bootFail_kept ?_
      exact h8

theorem State.vaultEmptied_kept {a s} (h : Kept a s) : Kept a (State.vaultEmptied s) := by
  unfold State.vaultEmptied
  extract_lets +onlyGivenNames v1
  obtain ⟨v3, e, h2⟩ : ∃ y, y = v1 ∧ Kept a (y) := ⟨_, rfl, by
    refine State.setCw_kept ?_ ?_
    · exact h
    · intro x4
      exact twf_filter _ x4
    ⟩
  rw [← e]
  clear e v1
  extract_lets +onlyGivenNames v5
  obtain ⟨v7, e, h6⟩ : ∃ y, y = v5 ∧ Kept a (y) := ⟨_, rfl, by
    refine forEach_kept ?_ ?_
    · exact h2
    · intro x8 x9 h10
      refine State.setF_kept ?_
      exact h10
    ⟩
  rw [← e]
  clear e v5
  refine State.warn_kept ?_
  refine State.setVault_kept ?_
  refine State.setF_kept ?_
  exact h6

theorem State.bootPins_kept {a s y1} (h : Kept a s) : Kept a (State.bootPins s y1) := by
  unfold State.bootPins
  extract_lets +onlyGivenNames v1
  obtain ⟨v2, e⟩ : ∃ y, y = v1 := ⟨_, rfl⟩
  rw [← e]
  clear e v1
  extract_lets +onlyGivenNames v3
  obtain ⟨v5, e, h4⟩ : ∃ y, y = v3 ∧ Kept a (y) := ⟨_, rfl, by
    refine State.safeChanged_kept ?_
    refine State.setBasin_kept ?_
    exact h
    ⟩
  rw [← e]
  clear e v3
  refine Kept.ite ?_ ?_
  · exact h4
  · refine State.safeRaise_kept ?_
    refine State.levelOn_kept ?_
    exact h4

theorem bootDevice_kept {a y1 y2 s} (h : Kept a s) : Kept a (bootDevice y1 y2 s) := by
  unfold bootDevice
  extract_lets +onlyGivenNames v1
  obtain ⟨v2, e⟩ : ∃ y, y = v1 := ⟨_, rfl⟩
  rw [← e]
  clear e v1
  extract_lets +onlyGivenNames v3
  obtain ⟨v4, e⟩ : ∃ y, y = v3 := ⟨_, rfl⟩
  rw [← e]
  clear e v3
  extract_lets +onlyGivenNames v5
  obtain ⟨v7, e, h6⟩ : ∃ y, y = v5 ∧ Kept a (y) := ⟨_, rfl, by
    refine State.resetTo_kept ?_
    exact h
    ⟩
  rw [← e]
  clear e v5
  extract_lets +onlyGivenNames v8
  obtain ⟨v10, e, h9⟩ : ∃ y, y = v8 ∧ Kept a (y) := ⟨_, rfl, by
    refine State.setF_kept ?_
    refine Kept.ite ?_ ?_
    · refine State.vaultEmptied_kept ?_
      exact h6
    · exact h6
    ⟩
  rw [← e]
  clear e v8
  extract_lets +onlyGivenNames v11
  obtain ⟨v13, e, h12⟩ : ∃ y, y = v11 ∧ Kept a (y) := ⟨_, rfl, by
    refine State.bootPins_kept ?_
    refine State.setLines_kept ?_
    exact h9
    ⟩
  rw [← e]
  clear e v11
  refine Kept.ite ?_ ?_
  · refine State.bootFail_kept ?_
    exact h12
  · extract_lets +onlyGivenNames v14
    obtain ⟨v16, e, h15⟩ : ∃ y, y = v14 ∧ Kept a (y) := ⟨_, rfl, by
      refine State.bootImage_kept ?_
      refine State.bootRepair_kept ?_
      exact h12
      ⟩
    rw [← e]
    clear e v14
    refine Kept.ite ?_ ?_
    · refine forEach_kept ?_ ?_
      · exact h15
      · intro x17 x18 h19
        refine State.loadKey_kept ?_
        exact h19
    · exact h15

theorem State.release_kept {a s y1 y2 y3} (h : Kept a s) : Kept a (State.release s y1 y2 y3) := by
  unfold State.release
  refine Kept.ite ?_ ?_
  · refine State.setHolds_kept ?_
    exact h
  · refine bootDevice_kept ?_
    refine State.setHolds_kept ?_
    exact h

theorem porstRelease_kept {a y1 s} (h : Kept a s) : Kept a (porstRelease y1 s) := by
  unfold porstRelease
  refine State.release_kept ?_
  exact h

theorem resetRelease_kept {a y1 s} (h : Kept a s) : Kept a (resetRelease y1 s) := by
  unfold resetRelease
  refine State.release_kept ?_
  exact h

theorem brownoutRecovery_kept {a y1 s} (h : Kept a s) : Kept a (brownoutRecovery y1 s) := by
  unfold brownoutRecovery
  refine Kept.ite ?_ ?_
  · exact h
  · refine State.release_kept ?_
    exact h

theorem trainDram_kept {a y1 y2 y3 y4 s} (h : Kept a s) : Kept a (trainDram y1 y2 y3 y4 s) := by
  unfold trainDram
  refine Kept.ite ?_ ?_
  · extract_lets +onlyGivenNames v1
    obtain ⟨v3, e, h2⟩ : ∃ y, y = v1 ∧ Kept a (y) := ⟨_, rfl, by
      refine State.setDramBanks_kept ?_ ?_
      · refine State.setRaammt_kept ?_
        refine State.setRaaimt_kept ?_
        exact h
      · intro x4
        rfl
      ⟩
    rw [← e]
    clear e v1
    extract_lets +onlyGivenNames v5
    obtain ⟨v7, e, h6⟩ : ∃ y, y = v5 ∧ Kept a (y) := ⟨_, rfl, by
      refine forEach_kept ?_ ?_
      · exact h2
      · intro x8 x9 h10
        refine State.setRank_kept ?_
        exact h10
      ⟩
    rw [← e]
    clear e v5
    refine State.setF_kept ?_
    refine State.setF_kept ?_
    refine State.setF_kept ?_
    exact h6
  · refine State.severe_kept ?_
    refine State.setF_kept ?_
    refine State.setF_kept ?_
    refine State.setF_kept ?_
    refine State.setF_kept ?_
    exact h

theorem State.copyPayload_kept {a s y1} (h : Kept a s) : Kept a (State.copyPayload s y1) := by
  unfold State.copyPayload
  refine State.setBytes_kept ?_
  exact h

theorem State.placeImage_kept {a s y1} (h : Kept a s) : Kept a (State.placeImage s y1) := by
  unfold State.placeImage
  split
  · rename_i z1 z2 z3 z4
    have h5 := Kept.ofEq (a := a) (fun p => Prod.snd (p)) z4 (by
        refine State.free_kept ?_
        exact h
      )
    beta_reduce at h5
    extract_lets +onlyGivenNames v6
    obtain ⟨v7, e⟩ : ∃ y, y = v6 := ⟨_, rfl⟩
    rw [← e]
    clear e v6
    split
    · rename_i z8 z9
      exact h5
    · rename_i z10 z11 z12
      extract_lets +onlyGivenNames v13
      obtain ⟨v14, e⟩ : ∃ y, y = v13 := ⟨_, rfl⟩
      rw [← e]
      clear e v13
      extract_lets +onlyGivenNames v15
      obtain ⟨v16, e⟩ : ∃ y, y = v15 := ⟨_, rfl⟩
      rw [← e]
      clear e v15
      extract_lets +onlyGivenNames v17
      obtain ⟨v19, e, h18⟩ : ∃ y, y = v17 ∧ Kept a (y) := ⟨_, rfl, by
        refine forEach_kept ?_ ?_
        · exact h5
        · intro x20 x21 h22
          refine State.setBytes_kept ?_
          exact h22
        ⟩
      rw [← e]
      clear e v17
      refine State.setF_kept ?_
      refine State.setF_kept ?_
      refine State.setF_kept ?_
      exact h18

theorem State.bootEnd_kept {a s} (h : Kept a s) : Kept a (State.bootEnd s) := by
  unfold State.bootEnd
  extract_lets +onlyGivenNames v1
  obtain ⟨v3, e, h2⟩ : ∃ y, y = v1 ∧ Kept a (y) := ⟨_, rfl, by
    refine Kept.ite ?_ ?_
    · refine State.placeImage_kept ?_
      refine State.placeImage_kept ?_
      refine forEach_kept ?_ ?_
      · exact h
      · intro x4 x5 h6
        refine State.copyPayload_kept ?_
        exact h6
    · exact h
    ⟩
  rw [← e]
  clear e v1
  refine State.setF_kept ?_
  refine State.setF_kept ?_
  refine State.setF_kept ?_
  exact h2

theorem dramTraining_kept {a y1 y2 y3 y4 s} (h : Kept a s) : Kept a (dramTraining y1 y2 y3 y4 s) := by
  unfold dramTraining
  refine Kept.ite ?_ ?_
  · exact h
  · extract_lets +onlyGivenNames v1
    obtain ⟨v3, e, h2⟩ : ∃ y, y = v1 ∧ Kept a (y) := ⟨_, rfl, by
      refine trainDram_kept ?_
      exact h
      ⟩
    rw [← e]
    clear e v1
    refine Kept.ite ?_ ?_
    · refine State.bootEnd_kept ?_
      exact h2
    · exact h2

theorem bootEffect_kept {a y1 s} (h : Kept a s) : Kept a (bootEffect y1 s) := by
  unfold bootEffect
  extract_lets +onlyGivenNames v1
  obtain ⟨v3, e, h2⟩ : ∃ y, y = v1 ∧ Kept a (y) := ⟨_, rfl, by
    refine State.setF_kept ?_
    exact h
    ⟩
  rw [← e]
  clear e v1
  extract_lets +onlyGivenNames v4
  obtain ⟨v6, e, h5⟩ : ∃ y, y = v4 ∧ Kept a (y) := ⟨_, rfl, by
    refine Kept.ite ?_ ?_
    · refine State.setF_kept ?_
      exact h2
    · exact h2
    ⟩
  rw [← e]
  clear e v4
  refine Kept.ite ?_ ?_
  · refine State.setBoot_kept ?_
    refine State.setFlash_kept ?_
    exact h5
  · exact h5

end Sys2Proof.Machine
end

