-- ==== Sys2Proof/Laws/KeptLink.lean ====
section
/-! SUPPORT. Every operation of Machine/Link.lean keeps the queue and the canonical tables (`Kept`). -/

set_option linter.unusedVariables false

namespace Sys2Proof.Machine

open Sys2Proof

theorem State.setLane_kept {a s y1 y2} (h : Kept a s) : Kept a (State.setLane s y1 y2) := by
  unfold State.setLane
  refine State.setLanes_kept ?_ ?_
  · exact h
  · intro x1
    exact twf_tset _ _ x1

theorem State.setLink_kept {a s y1 y2} (h : Kept a s) : Kept a (State.setLink s y1 y2) := by
  unfold State.setLink
  refine State.setLinks_kept ?_ ?_
  · exact h
  · intro x1
    exact twf_tset _ _ x1

theorem State.setLinkState_kept {a s y1 y2} (h : Kept a s) : Kept a (State.setLinkState s y1 y2) := by
  unfold State.setLinkState
  extract_lets +onlyGivenNames v1
  obtain ⟨v2, e⟩ : ∃ y, y = v1 := ⟨_, rfl⟩
  rw [← e]
  clear e v1
  extract_lets +onlyGivenNames v3
  obtain ⟨v5, e, h4⟩ : ∃ y, y = v3 ∧ Kept a (y) := ⟨_, rfl, by
    refine State.setLink_kept ?_
    exact h
    ⟩
  rw [← e]
  clear e v3
  refine Kept.ite ?_ ?_
  · refine State.setF_kept ?_
    exact h4
  · exact h4

theorem State.linkRaise_kept {a s y1 y2} (h : Kept a s) : Kept a (State.linkRaise s y1 y2) := by
  unfold State.linkRaise
  refine State.raise_kept ?_
  exact h

theorem State.linkLocks_kept {a s y1} (h : Kept a s) : Kept a (State.linkLocks s y1) := by
  unfold State.linkLocks
  refine Kept.ite ?_ ?_
  · extract_lets +onlyGivenNames v1
    obtain ⟨v3, e, h2⟩ : ∃ y, y = v1 ∧ Kept a (y) := ⟨_, rfl, by
      refine State.setF_kept ?_
      exact h
      ⟩
    rw [← e]
    clear e v1
    refine Kept.ite ?_ ?_
    · refine State.setF_kept ?_
      exact h2
    · exact h2
  · exact h

theorem State.laneTo_kept {a s y1 y2} (h : Kept a s) : Kept a (State.laneTo s y1 y2) := by
  unfold State.laneTo
  extract_lets +onlyGivenNames v1
  obtain ⟨v2, e⟩ : ∃ y, y = v1 := ⟨_, rfl⟩
  rw [← e]
  clear e v1
  extract_lets +onlyGivenNames v3
  obtain ⟨v5, e, h4⟩ : ∃ y, y = v3 ∧ Kept a (y) := ⟨_, rfl, by
    refine State.setLane_kept ?_
    exact h
    ⟩
  rw [← e]
  clear e v3
  split
  · rename_i z6 z7 z8
    refine State.linkLocks_kept ?_
    exact h4
  · rename_i z9 z10
    exact h4

theorem State.lanesTo_kept {a s y1 y2} (h : Kept a s) : Kept a (State.lanesTo s y1 y2) := by
  unfold State.lanesTo
  refine Kept.foldl ?_ ?_
  · exact h
  · intro t1 x2 h3
    refine Kept.ite ?_ ?_
    · exact h3
    · refine State.laneTo_kept ?_
      exact h3

theorem State.leaveActive_kept {a s y1 y2} (h : Kept a s) : Kept a (State.leaveActive s y1 y2) := by
  unfold State.leaveActive
  extract_lets +onlyGivenNames v1
  obtain ⟨v3, e, h2⟩ : ∃ y, y = v1 ∧ Kept a (y) := ⟨_, rfl, by
    refine Kept.ite ?_ ?_
    · refine State.linkFlush_kept ?_
      exact h
    · exact h
    ⟩
  rw [← e]
  clear e v1
  refine State.setLinkState_kept ?_
  refine State.setLink_kept ?_
  exact h2

theorem State.linkDrop_kept {a s y1 y2} (h : Kept a s) : Kept a (State.linkDrop s y1 y2) := by
  unfold State.linkDrop
  extract_lets +onlyGivenNames v1
  obtain ⟨v3, e, h2⟩ : ∃ y, y = v1 ∧ Kept a (y) := ⟨_, rfl, by
    refine Kept.ite ?_ ?_
    · refine State.leaveActive_kept ?_
      exact h
    · refine State.setLinkState_kept ?_
      exact h
    ⟩
  rw [← e]
  clear e v1
  refine State.lanesTo_kept ?_
  exact h2

theorem State.delayUpdate_kept {a s y1} (h : Kept a s) : Kept a (State.delayUpdate s y1) := by
  unfold State.delayUpdate
  split
  · rename_i z1 z2 z3
    refine State.setF_kept ?_
    exact h
  · rename_i z4 z5
    exact h

theorem State.skewCheck_kept {a s y1} (h : Kept a s) : Kept a (State.skewCheck s y1) := by
  unfold State.skewCheck
  refine Kept.ite ?_ ?_
  · exact h
  · split
    · rename_i z1 z2 z3 z4 z5 z6
      extract_lets +onlyGivenNames v7
      obtain ⟨v8, e⟩ : ∃ y, y = v7 := ⟨_, rfl⟩
      rw [← e]
      clear e v7
      extract_lets +onlyGivenNames v9
      obtain ⟨v10, e⟩ : ∃ y, y = v9 := ⟨_, rfl⟩
      rw [← e]
      clear e v9
      extract_lets +onlyGivenNames v11
      obtain ⟨v12, e⟩ : ∃ y, y = v11 := ⟨_, rfl⟩
      rw [← e]
      clear e v11
      extract_lets +onlyGivenNames v13
      obtain ⟨v15, e, h14⟩ : ∃ y, y = v13 ∧ Kept a (y) := ⟨_, rfl, by
        refine State.setLink_kept ?_
        exact h
        ⟩
      rw [← e]
      clear e v13
      refine Kept.ite ?_ ?_
      · refine State.linkRaise_kept ?_
        refine State.setF_kept ?_
        exact h14
      · exact h14
    · rename_i z16 z17 z18
      exact h

theorem State.single_kept {a s y1} (h : Kept a s) : Kept a (State.single s y1) := by
  unfold State.single
  extract_lets +onlyGivenNames v1
  obtain ⟨v2, e⟩ : ∃ y, y = v1 := ⟨_, rfl⟩
  rw [← e]
  clear e v1
  extract_lets +onlyGivenNames v3
  obtain ⟨v4, e⟩ : ∃ y, y = v3 := ⟨_, rfl⟩
  rw [← e]
  clear e v3
  extract_lets +onlyGivenNames v5
  obtain ⟨v7, e, h6⟩ : ∃ y, y = v5 ∧ Kept a (y) := ⟨_, rfl, by
    refine State.linkRaise_kept ?_
    refine State.setF_kept ?_
    refine State.setLink_kept ?_
    exact h
    ⟩
  rw [← e]
  clear e v5
  extract_lets +onlyGivenNames v8
  obtain ⟨v10, e, h9⟩ : ∃ y, y = v8 ∧ Kept a (y) := ⟨_, rfl, by
    refine State.delayUpdate_kept ?_
    exact h6
    ⟩
  rw [← e]
  clear e v8
  refine State.record7_kept ?_
  exact h9

theorem State.laneLost_kept {a s y1 y2 y3} (h : Kept a s) : Kept a (State.laneLost s y1 y2 y3) := by
  unfold State.laneLost
  extract_lets +onlyGivenNames v1
  obtain ⟨v3, e, h2⟩ : ∃ y, y = v1 ∧ Kept a (y) := ⟨_, rfl, by
    refine State.laneTo_kept ?_
    exact h
    ⟩
  rw [← e]
  clear e v1
  split
  · rename_i z4 z5
    exact h2
  · rename_i z6 z7 z8
    refine Kept.ite ?_ ?_
    · exact h2
    · refine Kept.ite ?_ ?_
      · refine State.single_kept ?_
        exact h2
      · extract_lets +onlyGivenNames v9
        obtain ⟨v11, e, h10⟩ : ∃ y, y = v9 ∧ Kept a (y) := ⟨_, rfl, by
          refine State.leaveActive_kept ?_
          exact h2
          ⟩
        rw [← e]
        clear e v9
        refine Kept.ite ?_ ?_
        · refine State.linkRaise_kept ?_
          exact h10
        · exact h10

theorem detectPoll_kept {a y1 y2 s} (h : Kept a s) : Kept a (detectPoll y1 y2 s) := by
  unfold detectPoll
  refine Kept.ite ?_ ?_
  · extract_lets +onlyGivenNames v1
    obtain ⟨v3, e, h2⟩ : ∃ y, y = v1 ∧ Kept a (y) := ⟨_, rfl, by
      refine State.reach_kept ?_
      exact h
      ⟩
    rw [← e]
    clear e v1
    refine Kept.ite ?_ ?_
    · refine State.lanesTo_kept ?_
      refine State.setLinkState_kept ?_
      exact h2
    · refine State.setLink_kept ?_
      exact h2
  · refine Kept.ite ?_ ?_
    · refine Kept.foldl ?_ ?_
      · exact h
      · intro t4 x5 h6
        refine Kept.ite ?_ ?_
        · extract_lets +onlyGivenNames v7
          obtain ⟨v9, e, h8⟩ : ∃ y, y = v7 ∧ Kept a (y) := ⟨_, rfl, by
            refine State.reach_kept ?_
            exact h6
            ⟩
          rw [← e]
          clear e v7
          refine Kept.ite ?_ ?_
          · refine State.laneTo_kept ?_
            exact h8
          · refine State.setLane_kept ?_
            exact h8
        · exact h6
    · exact h

theorem symbolLock_kept {a y1 y2 s} (h : Kept a s) : Kept a (symbolLock y1 y2 s) := by
  unfold symbolLock
  extract_lets +onlyGivenNames v1
  obtain ⟨v2, e⟩ : ∃ y, y = v1 := ⟨_, rfl⟩
  rw [← e]
  clear e v1
  refine Kept.ite ?_ ?_
  · exact h
  · extract_lets +onlyGivenNames v3
    obtain ⟨v5, e, h4⟩ : ∃ y, y = v3 ∧ Kept a (y) := ⟨_, rfl, by
      refine State.laneTo_kept ?_
      exact h
      ⟩
    rw [← e]
    clear e v3
    refine Kept.ite ?_ ?_
    · refine State.setLinkState_kept ?_
      exact h4
    · exact h4

theorem blockLock_kept {a y1 y2 s} (h : Kept a s) : Kept a (blockLock y1 y2 s) := by
  unfold blockLock
  extract_lets +onlyGivenNames v1
  obtain ⟨v2, e⟩ : ∃ y, y = v1 := ⟨_, rfl⟩
  rw [← e]
  clear e v1
  refine Kept.ite ?_ ?_
  · exact h
  · extract_lets +onlyGivenNames v3
    obtain ⟨v5, e, h4⟩ : ∃ y, y = v3 ∧ Kept a (y) := ⟨_, rfl, by
      refine State.laneTo_kept ?_
      exact h
      ⟩
    rw [← e]
    clear e v3
    refine Kept.ite ?_ ?_
    · refine State.setLinkState_kept ?_
      exact h4
    · exact h4

theorem linkStateTimeout_kept {a y1 y2 s} (h : Kept a s) : Kept a (linkStateTimeout y1 y2 s) := by
  unfold linkStateTimeout
  extract_lets +onlyGivenNames v1
  obtain ⟨v2, e⟩ : ∃ y, y = v1 := ⟨_, rfl⟩
  rw [← e]
  clear e v1
  extract_lets +onlyGivenNames v3
  obtain ⟨v4, e⟩ : ∃ y, y = v3 := ⟨_, rfl⟩
  rw [← e]
  clear e v3
  extract_lets +onlyGivenNames v5
  refine Kept.ite ?_ ?_
  · unfold v5
    refine Kept.ite ?_ ?_
    · refine State.incF_kept ?_
      refine State.linkDrop_kept ?_
      refine State.reach_kept ?_
      exact h
    · refine State.linkDrop_kept ?_
      refine State.reach_kept ?_
      exact h
  · refine Kept.ite ?_ ?_
    · refine State.linkDrop_kept ?_
      refine State.reach_kept ?_
      exact h
    · refine Kept.ite ?_ ?_
      · refine State.linkDrop_kept ?_
        refine State.reach_kept ?_
        exact h
      · refine Kept.ite ?_ ?_
        · extract_lets +onlyGivenNames v6
          obtain ⟨v7, e⟩ : ∃ y, y = v6 := ⟨_, rfl⟩
          rw [← e]
          clear e v6
          extract_lets +onlyGivenNames v8
          obtain ⟨v9, e⟩ : ∃ y, y = v8 := ⟨_, rfl⟩
          rw [← e]
          clear e v8
          refine Kept.ite ?_ ?_
          · unfold v5
            refine Kept.ite ?_ ?_
            · refine State.incF_kept ?_
              refine State.laneTo_kept ?_
              refine State.reach_kept ?_
              exact h
            · refine State.laneTo_kept ?_
              refine State.reach_kept ?_
              exact h
          · refine Kept.ite ?_ ?_
            · refine State.laneTo_kept ?_
              refine State.reach_kept ?_
              exact h
            · exact h
        · exact h

theorem capRecord_kept {a y1 y2 s} (h : Kept a s) : Kept a (capRecord y1 y2 s) := by
  unfold capRecord
  refine Kept.ite ?_ ?_
  · exact h
  · extract_lets +onlyGivenNames v1
    obtain ⟨v2, e⟩ : ∃ y, y = v1 := ⟨_, rfl⟩
    rw [← e]
    clear e v1
    extract_lets +onlyGivenNames v3
    obtain ⟨v5, e, h4⟩ : ∃ y, y = v3 ∧ Kept a (y) := ⟨_, rfl, by
      refine Kept.ite ?_ ?_
      · refine State.setF_kept ?_
        refine State.setF_kept ?_
        refine State.setF_kept ?_
        refine State.setF_kept ?_
        exact h
      · exact h
      ⟩
    rw [← e]
    clear e v3
    refine Kept.ite ?_ ?_
    · refine State.linkRaise_kept ?_
      refine State.setLinkState_kept ?_
      exact h4
    · refine State.setLink_kept ?_
      refine State.setLinkState_kept ?_
      exact h4

theorem badBlock_kept {a y1 y2 y3 y4 s} (h : Kept a s) : Kept a (badBlock y1 y2 y3 y4 s) := by
  unfold badBlock
  extract_lets +onlyGivenNames v1
  obtain ⟨v2, e⟩ : ∃ y, y = v1 := ⟨_, rfl⟩
  rw [← e]
  clear e v1
  refine Kept.ite ?_ ?_
  · exact h
  · extract_lets +onlyGivenNames v3
    obtain ⟨v5, e, h4⟩ : ∃ y, y = v3 ∧ Kept a (y) := ⟨_, rfl, by
      refine Kept.ite ?_ ?_
      · refine State.incF_kept ?_
        exact h
      · exact h
      ⟩
    rw [← e]
    clear e v3
    extract_lets +onlyGivenNames v6
    obtain ⟨v7, e⟩ : ∃ y, y = v6 := ⟨_, rfl⟩
    rw [← e]
    clear e v6
    refine Kept.ite ?_ ?_
    · exact h4
    · extract_lets +onlyGivenNames v8
      obtain ⟨v9, e⟩ : ∃ y, y = v8 := ⟨_, rfl⟩
      rw [← e]
      clear e v8
      extract_lets +onlyGivenNames v10
      obtain ⟨v12, e, h11⟩ : ∃ y, y = v10 ∧ Kept a (y) := ⟨_, rfl, by
        refine State.setLane_kept ?_
        exact h4
        ⟩
      rw [← e]
      clear e v10
      refine Kept.ite ?_ ?_
      · refine State.laneLost_kept ?_
        exact h11
      · exact h11

theorem State.takeBlock_kept {a s y1 y2 y3 y4} (h : Kept a s) : Kept a (Prod.snd (State.takeBlock s y1 y2 y3 y4)) := by
  unfold State.takeBlock
  extract_lets +onlyGivenNames v1
  obtain ⟨v3, e, h2⟩ : ∃ y, y = v1 ∧ Kept a (y) := ⟨_, rfl, by
    refine State.reach_kept ?_
    exact h
    ⟩
  rw [← e]
  clear e v1
  extract_lets +onlyGivenNames v4
  obtain ⟨v5, e⟩ : ∃ y, y = v4 := ⟨_, rfl⟩
  rw [← e]
  clear e v4
  refine Kept.iteOf (fun p => Prod.snd (p)) ?_ ?_
  · exact h2
  · refine Kept.iteOf (fun p => Prod.snd (p)) ?_ ?_
    · exact h2
    · extract_lets +onlyGivenNames v6
      obtain ⟨v7, e⟩ : ∃ y, y = v6 := ⟨_, rfl⟩
      rw [← e]
      clear e v6
      split
      · rename_i z8 z9 z10
        refine State.setLink_kept ?_
        exact h2
      · rename_i z11 z12
        refine State.setLink_kept ?_
        exact h2

theorem State.countRsv_kept {a s y1 y2} (h : Kept a s) : Kept a (State.countRsv s y1 y2) := by
  unfold State.countRsv
  refine Kept.ite ?_ ?_
  · refine State.incF_kept ?_
    exact h
  · exact h

theorem superframeStart_kept {a y1 s} (h : Kept a s) : Kept a (superframeStart y1 s) := by
  unfold superframeStart
  refine Kept.ite ?_ ?_
  · exact h
  · extract_lets +onlyGivenNames v1
    obtain ⟨v3, e, h2⟩ : ∃ y, y = v1 ∧ Kept a (y) := ⟨_, rfl, by
      refine State.reach_kept ?_
      exact h
      ⟩
    rw [← e]
    clear e v1
    extract_lets +onlyGivenNames v4
    obtain ⟨v6, e, h5⟩ : ∃ y, y = v4 ∧ Kept a (y) := ⟨_, rfl, by
      unfold v4
      split
      · rename_i z7 z8 z9
        refine State.deliver_kept ?_
        exact h2
      · rename_i z10 z11
        exact h2
      ⟩
    rw [← e]
    clear e v4
    refine Kept.foldl ?_ ?_
    · exact h5
    · intro t12 x13 h14
      refine Kept.ite ?_ ?_
      · exact h14
      · refine Kept.foldl ?_ ?_
        · exact h14
        · intro t15 x16 h17
          extract_lets +onlyGivenNames v18
          obtain ⟨v19, e⟩ : ∃ y, y = v18 := ⟨_, rfl⟩
          rw [← e]
          clear e v18
          refine Kept.ite ?_ ?_
          · exact h17
          · extract_lets +onlyGivenNames v20
            obtain ⟨v21, e⟩ : ∃ y, y = v20 := ⟨_, rfl⟩
            rw [← e]
            clear e v20
            refine State.setLane_kept ?_
            exact h17

theorem State.htTrack_kept {a s y1 y2} (h : Kept a s) : Kept a (State.htTrack s y1 y2) := by
  unfold State.htTrack
  extract_lets +onlyGivenNames v1
  obtain ⟨v2, e⟩ : ∃ y, y = v1 := ⟨_, rfl⟩
  rw [← e]
  clear e v1
  extract_lets +onlyGivenNames v3
  obtain ⟨v4, e⟩ : ∃ y, y = v3 := ⟨_, rfl⟩
  rw [← e]
  clear e v3
  extract_lets +onlyGivenNames v5
  obtain ⟨v6, e⟩ : ∃ y, y = v5 := ⟨_, rfl⟩
  rw [← e]
  clear e v5
  extract_lets +onlyGivenNames v7
  obtain ⟨v8, e⟩ : ∃ y, y = v7 := ⟨_, rfl⟩
  rw [← e]
  clear e v7
  extract_lets +onlyGivenNames v9
  obtain ⟨v10, e⟩ : ∃ y, y = v9 := ⟨_, rfl⟩
  rw [← e]
  clear e v9
  extract_lets +onlyGivenNames v11
  obtain ⟨v13, e, h12⟩ : ∃ y, y = v11 ∧ Kept a (y) := ⟨_, rfl, by
    refine State.setFi_kept ?_
    exact h
    ⟩
  rw [← e]
  clear e v11
  extract_lets +onlyGivenNames v14
  obtain ⟨v15, e⟩ : ∃ y, y = v14 := ⟨_, rfl⟩
  rw [← e]
  clear e v14
  refine Kept.ite ?_ ?_
  · refine State.raise_kept ?_
    refine State.setF_kept ?_
    refine State.setF_kept ?_
    refine State.setHt_kept ?_
    exact h12
  · extract_lets +onlyGivenNames v16
    obtain ⟨v17, e⟩ : ∃ y, y = v16 := ⟨_, rfl⟩
    rw [← e]
    clear e v16
    extract_lets +onlyGivenNames v18
    obtain ⟨v20, e, h19⟩ : ∃ y, y = v18 ∧ Kept a (y) := ⟨_, rfl, by
      refine State.setF_kept ?_
      exact h12
      ⟩
    rw [← e]
    clear e v18
    refine State.setHt_kept ?_
    exact h19

theorem sfsReceive_kept {a y1 y2 y3 y4 y5 s} (h : Kept a s) : Kept a (sfsReceive y1 y2 y3 y4 y5 s) := by
  unfold sfsReceive
  extract_lets +onlyGivenNames v1
  obtain ⟨v2, e⟩ : ∃ y, y = v1 := ⟨_, rfl⟩
  rw [← e]
  clear e v1
  extract_lets +onlyGivenNames v3
  obtain ⟨v4, e⟩ : ∃ y, y = v3 := ⟨_, rfl⟩
  rw [← e]
  clear e v3
  extract_lets +onlyGivenNames v5
  obtain ⟨v6, e⟩ : ∃ y, y = v5 := ⟨_, rfl⟩
  rw [← e]
  clear e v5
  split
  · rename_i z7 z8 z9 z10
    have h11 := Kept.ofEq (a := a) (fun p => Prod.snd (p)) z10 (by
        refine State.takeBlock_kept ?_
        exact h
      )
    beta_reduce at h11
    refine Kept.ite ?_ ?_
    · exact h11
    · extract_lets +onlyGivenNames v12
      obtain ⟨v13, e⟩ : ∃ y, y = v12 := ⟨_, rfl⟩
      rw [← e]
      clear e v12
      extract_lets +onlyGivenNames v14
      obtain ⟨v16, e, h15⟩ : ∃ y, y = v14 ∧ Kept a (y) := ⟨_, rfl, by
        unfold v14
        split
        · rename_i z17 z18 z19
          refine State.setLane_kept ?_
          exact h11
        · rename_i z20 z21
          exact h11
        ⟩
      rw [← e]
      clear e v14
      extract_lets +onlyGivenNames v22
      obtain ⟨v24, e, h23⟩ : ∃ y, y = v22 ∧ Kept a (y) := ⟨_, rfl, by
        refine State.delayUpdate_kept ?_
        refine State.skewCheck_kept ?_
        exact h15
        ⟩
      rw [← e]
      clear e v22
      refine Kept.ite ?_ ?_
      · exact h23
      · extract_lets +onlyGivenNames v25
        obtain ⟨v26, e⟩ : ∃ y, y = v25 := ⟨_, rfl⟩
        rw [← e]
        clear e v25
        extract_lets +onlyGivenNames v27
        obtain ⟨v29, e, h28⟩ : ∃ y, y = v27 ∧ Kept a (y) := ⟨_, rfl, by
          refine State.setLink_kept ?_
          refine State.countRsv_kept ?_
          exact h23
          ⟩
        rw [← e]
        clear e v27
        split
        · rename_i z30 z31 z32 z33 z34 z35
          refine State.htTrack_kept ?_
          exact h28
        · rename_i z36 z37 z38
          exact h28

theorem State.headSamples_kept {a s y1 y2} (h : Kept a s) : Kept a (State.headSamples s y1 y2) := by
  unfold State.headSamples
  extract_lets +onlyGivenNames v1
  obtain ⟨v2, e⟩ : ∃ y, y = v1 := ⟨_, rfl⟩
  rw [← e]
  clear e v1
  extract_lets +onlyGivenNames v3
  obtain ⟨v4, e⟩ : ∃ y, y = v3 := ⟨_, rfl⟩
  rw [← e]
  clear e v3
  extract_lets +onlyGivenNames v5
  obtain ⟨v6, e⟩ : ∃ y, y = v5 := ⟨_, rfl⟩
  rw [← e]
  clear e v5
  extract_lets +onlyGivenNames v7
  obtain ⟨v9, e, h8⟩ : ∃ y, y = v7 ∧ Kept a (y) := ⟨_, rfl, by
    refine State.setLink_kept ?_
    exact h
    ⟩
  rw [← e]
  clear e v7
  extract_lets +onlyGivenNames v10
  obtain ⟨v11, e⟩ : ∃ y, y = v10 := ⟨_, rfl⟩
  rw [← e]
  clear e v10
  extract_lets +onlyGivenNames v12
  obtain ⟨v13, e⟩ : ∃ y, y = v12 := ⟨_, rfl⟩
  rw [← e]
  clear e v12
  extract_lets +onlyGivenNames v14
  obtain ⟨v15, e⟩ : ∃ y, y = v14 := ⟨_, rfl⟩
  rw [← e]
  clear e v14
  extract_lets +onlyGivenNames v16
  obtain ⟨v18, e, h17⟩ : ∃ y, y = v16 ∧ Kept a (y) := ⟨_, rfl, by
    refine Kept.ite ?_ ?_
    · exact h8
    · refine State.setLoop_kept ?_
      exact h8
    ⟩
  rw [← e]
  clear e v16
  refine Kept.ite ?_ ?_
  · extract_lets +onlyGivenNames v19
    obtain ⟨v20, e⟩ : ∃ y, y = v19 := ⟨_, rfl⟩
    rw [← e]
    clear e v19
    refine Kept.foldl ?_ ?_
    · exact h17
    · intro t21 x22 h23
      refine State.sincos_kept ?_
      exact h23
  · exact h17

theorem State.hubSamples_kept {a s y1 y2} (h : Kept a s) : Kept a (State.hubSamples s y1 y2) := by
  unfold State.hubSamples
  extract_lets +onlyGivenNames v1
  obtain ⟨v3, e, h2⟩ : ∃ y, y = v1 ∧ Kept a (y) := ⟨_, rfl, by
    refine State.countRsv_kept ?_
    exact h
    ⟩
  rw [← e]
  clear e v1
  refine State.hubSample_kept ?_
  exact h2

theorem smpBlockReceive_kept {a y1 y2 y3 y4 y5 s} (h : Kept a s) : Kept a (smpBlockReceive y1 y2 y3 y4 y5 s) := by
  unfold smpBlockReceive
  split
  · rename_i z1 z2 z3 z4
    have h5 := Kept.ofEq (a := a) (fun p => Prod.snd (p)) z4 (by
        refine State.takeBlock_kept ?_
        exact h
      )
    beta_reduce at h5
    refine Kept.ite ?_ ?_
    · exact h5
    · refine Kept.ite ?_ ?_
      · refine State.headSamples_kept ?_
        exact h5
      · refine State.hubSamples_kept ?_
        exact h5

theorem State.linkDrain_kept {a s y1 y2} (h : Kept a s) : Kept a (State.linkDrain s y1 y2) := by
  induction y2 generalizing s y1
  · unfold State.linkDrain
    exact h
  · rename_i w1 w2
    unfold State.linkDrain
    extract_lets +onlyGivenNames v3
    obtain ⟨v4, e⟩ : ∃ y, y = v3 := ⟨_, rfl⟩
    rw [← e]
    clear e v3
    split
    · rename_i z5 z6
      exact h
    · rename_i z7 z8 z9 z10
      refine Kept.ite ?_ ?_
      · exact h
      · apply w2
        refine State.setLink_kept ?_
        exact h

theorem State.linkSend_kept {a s y1 y2} (h : Kept a s) : Kept a (State.linkSend s y1 y2) := by
  unfold State.linkSend
  extract_lets +onlyGivenNames v1
  obtain ⟨v2, e⟩ : ∃ y, y = v1 := ⟨_, rfl⟩
  rw [← e]
  clear e v1
  extract_lets +onlyGivenNames v3
  obtain ⟨v4, e⟩ : ∃ y, y = v3 := ⟨_, rfl⟩
  rw [← e]
  clear e v3
  refine State.linkDrain_kept ?_
  refine State.setLink_kept ?_
  exact h

theorem tokBlockReceive_kept {a y1 y2 y3 y4 y5 s} (h : Kept a s) : Kept a (tokBlockReceive y1 y2 y3 y4 y5 s) := by
  unfold tokBlockReceive
  split
  · rename_i z1 z2 z3 z4
    have h5 := Kept.ofEq (a := a) (fun p => Prod.snd (p)) z4 (by
        refine State.takeBlock_kept ?_
        exact h
      )
    beta_reduce at h5
    refine Kept.ite ?_ ?_
    · exact h5
    · extract_lets +onlyGivenNames v6
      obtain ⟨v8, e, h7⟩ : ∃ y, y = v6 ∧ Kept a (y) := ⟨_, rfl, by
        refine State.countRsv_kept ?_
        exact h5
        ⟩
      rw [← e]
      clear e v6
      extract_lets +onlyGivenNames v9
      obtain ⟨v10, e⟩ : ∃ y, y = v9 := ⟨_, rfl⟩
      rw [← e]
      clear e v9
      extract_lets +onlyGivenNames v11
      obtain ⟨v13, e, h12⟩ : ∃ y, y = v11 ∧ Kept a (y) := ⟨_, rfl, by
        refine State.setLink_kept ?_
        exact h7
        ⟩
      rw [← e]
      clear e v11
      extract_lets +onlyGivenNames v14
      obtain ⟨v16, e, h15⟩ : ∃ y, y = v14 ∧ Kept a (y) := ⟨_, rfl, by
        refine State.linkDrain_kept ?_
        exact h12
        ⟩
      rw [← e]
      clear e v14
      extract_lets +onlyGivenNames v17
      obtain ⟨v18, e⟩ : ∃ y, y = v17 := ⟨_, rfl⟩
      rw [← e]
      clear e v17
      refine Kept.ite ?_ ?_
      · refine State.setNet_kept ?_
        refine State.event_kept ?_
        exact h15
      · exact h15

theorem refclkLoss_kept {a y1 s} (h : Kept a s) : Kept a (refclkLoss y1 s) := by
  unfold refclkLoss
  extract_lets +onlyGivenNames v1
  obtain ⟨v2, e⟩ : ∃ y, y = v1 := ⟨_, rfl⟩
  rw [← e]
  clear e v1
  extract_lets +onlyGivenNames v3
  obtain ⟨v4, e⟩ : ∃ y, y = v3 := ⟨_, rfl⟩
  rw [← e]
  clear e v3
  extract_lets +onlyGivenNames v5
  obtain ⟨v7, e, h6⟩ : ∃ y, y = v5 ∧ Kept a (y) := ⟨_, rfl, by
    refine Kept.foldl ?_ ?_
    · exact h
    · intro t8 x9 h10
      refine State.linkDrop_kept ?_
      exact h10
    ⟩
  rw [← e]
  clear e v5
  refine State.severe_kept ?_
  exact h6

theorem State.testStart_kept {a s y1} (h : Kept a s) : Kept a (State.testStart s y1) := by
  unfold State.testStart
  extract_lets +onlyGivenNames v1
  obtain ⟨v3, e, h2⟩ : ∃ y, y = v1 ∧ Kept a (y) := ⟨_, rfl, by
    refine Kept.ite ?_ ?_
    · refine State.laneLost_kept ?_
      exact h
    · refine State.laneTo_kept ?_
      exact h
    ⟩
  rw [← e]
  clear e v1
  refine State.setLane_kept ?_
  exact h2

theorem prbsEnd_kept {a y1 y2 y3 s} (h : Kept a s) : Kept a (prbsEnd y1 y2 y3 s) := by
  unfold prbsEnd
  split
  · rename_i z1 z2
    exact h
  · rename_i z3 z4 z5
    extract_lets +onlyGivenNames v6
    obtain ⟨v8, e, h7⟩ : ∃ y, y = v6 ∧ Kept a (y) := ⟨_, rfl, by
      refine State.reach_kept ?_
      exact h
      ⟩
    rw [← e]
    clear e v6
    extract_lets +onlyGivenNames v9
    obtain ⟨v11, e, h10⟩ : ∃ y, y = v9 ∧ Kept a (y) := ⟨_, rfl, by
      refine State.setF_kept ?_
      refine State.incF_kept ?_
      refine State.incF_kept ?_
      exact h7
      ⟩
    rw [← e]
    clear e v9
    extract_lets +onlyGivenNames v12
    obtain ⟨v13, e⟩ : ∃ y, y = v12 := ⟨_, rfl⟩
    rw [← e]
    clear e v12
    extract_lets +onlyGivenNames v14
    obtain ⟨v16, e, h15⟩ : ∃ y, y = v14 ∧ Kept a (y) := ⟨_, rfl, by
      refine State.setLane_kept ?_
      exact h10
      ⟩
    rw [← e]
    clear e v14
    refine State.laneTo_kept ?_
    exact h15

theorem eqLimit_kept {a y1 s} (h : Kept a s) : Kept a (eqLimit y1 s) := by
  unfold eqLimit
  extract_lets +onlyGivenNames v1
  obtain ⟨v3, e, h2⟩ : ∃ y, y = v1 ∧ Kept a (y) := ⟨_, rfl, by
    refine State.setF_kept ?_
    exact h
    ⟩
  rw [← e]
  clear e v1
  refine State.info_kept ?_
  exact h2

theorem State.adapted_kept {a s y1} (h : Kept a s) : Kept a (State.adapted s y1) := by
  unfold State.adapted
  extract_lets +onlyGivenNames v1
  extract_lets +onlyGivenNames v2
  obtain ⟨v4, e, h3⟩ : ∃ y, y = v2 ∧ Kept a (y) := ⟨_, rfl, by
    refine Kept.ite ?_ ?_
    · exact h
    · split
      · rename_i z5 z6 z7 z8
        have h9 := Kept.ofEq (a := a) (fun p => Prod.snd (p)) z8 (by
            refine State.free_kept ?_
            exact h
          )
        beta_reduce at h9
        refine State.setF_kept ?_
        exact h9
    ⟩
  rw [← e]
  clear e v2
  refine Kept.ite ?_ ?_
  · exact h3
  · unfold v1
    split
    · rename_i z10 z11 z12 z13
      have h14 := Kept.ofEq (a := a) (fun p => Prod.snd (p)) z13 (by
          refine State.free_kept ?_
          split
          · rename_i z15 z16 z17 z18
            have h19 := Kept.ofEq (a := a) (fun p => Prod.snd (p)) z18 (by
                refine State.free_kept ?_
                split
                · rename_i z20 z21 z22 z23
                  have h24 := Kept.ofEq (a := a) (fun p => Prod.snd (p)) z23 (by
                      refine State.free_kept ?_
                      split
                      · rename_i z25 z26 z27 z28
                        have h29 := Kept.ofEq (a := a) (fun p => Prod.snd (p)) z28 (by
                            refine State.free_kept ?_
                            split
                            · rename_i z30 z31 z32 z33
                              have h34 := Kept.ofEq (a := a) (fun p => Prod.snd (p)) z33 (by
                                  refine State.free_kept ?_
                                  exact h3
                                )
                              beta_reduce at h34
                              refine State.setF_kept ?_
                              exact h34
                          )
                        beta_reduce at h29
                        refine State.setF_kept ?_
                        exact h29
                    )
                  beta_reduce at h24
                  refine State.setF_kept ?_
                  exact h24
              )
            beta_reduce at h19
            refine State.setF_kept ?_
            exact h19
        )
      beta_reduce at h14
      refine State.setF_kept ?_
      exact h14

theorem laneRead_kept {a y1 s} (h : Kept a s) : Kept a (laneRead y1 s) := by
  unfold laneRead
  refine Kept.ite ?_ ?_
  · exact h
  · extract_lets +onlyGivenNames v1
    obtain ⟨v2, e⟩ : ∃ y, y = v1 := ⟨_, rfl⟩
    rw [← e]
    clear e v1
    extract_lets +onlyGivenNames v3
    obtain ⟨v4, e⟩ : ∃ y, y = v3 := ⟨_, rfl⟩
    rw [← e]
    clear e v3
    refine Kept.ite ?_ ?_
    · refine State.adapted_kept ?_
      exact h
    · exact h

theorem linkEffect_kept {a y1 y2 s2 s} (h : Kept a s) : Kept a (linkEffect y1 y2 s2 s) := by
  unfold linkEffect
  split
  · rename_i z1 z2 z3 z4
    refine Kept.ite ?_ ?_
    · extract_lets +onlyGivenNames v5
      obtain ⟨v6, e⟩ : ∃ y, y = v5 := ⟨_, rfl⟩
      rw [← e]
      clear e v5
      refine Kept.ite ?_ ?_
      · exact h
      · extract_lets +onlyGivenNames v7
        obtain ⟨v8, e⟩ : ∃ y, y = v7 := ⟨_, rfl⟩
        rw [← e]
        clear e v7
        refine Kept.ite ?_ ?_
        · refine State.linkDrop_kept ?_
          exact h
        · refine State.laneTo_kept ?_
          refine State.linkDrop_kept ?_
          exact h
    · refine Kept.ite ?_ ?_
      · extract_lets +onlyGivenNames v9
        obtain ⟨v11, e, h10⟩ : ∃ y, y = v9 ∧ Kept a (y) := ⟨_, rfl, by
          refine Kept.ite ?_ ?_
          · refine State.setF_kept ?_
            refine State.adapted_kept ?_
            refine State.setF_kept ?_
            exact h
          · exact h
          ⟩
        rw [← e]
        clear e v9
        refine Kept.ite ?_ ?_
        · exact h10
        · refine State.setF_kept ?_
          exact h10
      · refine Kept.ite ?_ ?_
        · refine Kept.ite ?_ ?_
          · refine State.setF_kept ?_
            exact h
          · refine Kept.ite ?_ ?_
            · refine State.testStart_kept ?_
              exact h
            · exact h
        · exact h
  · rename_i z12 z13
    split
    · rename_i z14 z15 z16
      extract_lets +onlyGivenNames v17
      obtain ⟨v18, e⟩ : ∃ y, y = v17 := ⟨_, rfl⟩
      rw [← e]
      clear e v17
      extract_lets +onlyGivenNames v19
      obtain ⟨v21, e, h20⟩ : ∃ y, y = v19 ∧ Kept a (y) := ⟨_, rfl, by
        refine Kept.ite ?_ ?_
        · refine State.linkDrop_kept ?_
          exact h
        · refine Kept.ite ?_ ?_
          · refine State.linkDrop_kept ?_
            exact h
          · exact h
        ⟩
      rw [← e]
      clear e v19
      refine Kept.ite ?_ ?_
      · refine State.linkDrop_kept ?_
        exact h20
      · exact h20
    · rename_i z22 z23
      exact h

end Sys2Proof.Machine
end

