-- ==== Sys2Proof/Laws/KeptCols.lean ====
section
/-! SUPPORT. Every operation of Machine/Cols.lean keeps the queue and the canonical tables (`Kept`). -/

set_option linter.unusedVariables false

namespace Sys2Proof.Machine

open Sys2Proof

theorem State.colJudged_kept {a s y1 y2 y3} (h : Kept a s) : Kept a (State.colJudged s y1 y2 y3) := by
  unfold State.colJudged
  refine Kept.ite ?_ ?_
  · refine State.expJudged_kept ?_
    exact h
  · exact h

theorem State.colDrive_kept {a s y1 y2 y3 y4 y5} (h : Kept a s) : Kept a (State.colDrive s y1 y2 y3 y4 y5) := by
  unfold State.colDrive
  refine Kept.ite ?_ ?_
  · refine Kept.ite ?_ ?_
    · refine State.incF_kept ?_
      exact h
    · extract_lets +onlyGivenNames v1
      obtain ⟨v2, e⟩ : ∃ y, y = v1 := ⟨_, rfl⟩
      rw [← e]
      clear e v1
      extract_lets +onlyGivenNames v3
      obtain ⟨v4, e⟩ : ∃ y, y = v3 := ⟨_, rfl⟩
      rw [← e]
      clear e v3
      extract_lets +onlyGivenNames v5
      obtain ⟨v6, e⟩ : ∃ y, y = v5 := ⟨_, rfl⟩
      rw [← e]
      clear e v5
      extract_lets +onlyGivenNames v7
      obtain ⟨v9, e, h8⟩ : ∃ y, y = v7 ∧ Kept a (y) := ⟨_, rfl, by
        refine State.noteGates_kept ?_
        refine State.setCol_kept ?_
        exact h
        ⟩
      rw [← e]
      clear e v7
      extract_lets +onlyGivenNames v10
      obtain ⟨v12, e, h11⟩ : ∃ y, y = v10 ∧ Kept a (y) := ⟨_, rfl, by
        refine Kept.ite ?_ ?_
        · refine State.event_kept ?_
          exact h8
        · exact h8
        ⟩
      rw [← e]
      clear e v10
      refine Kept.ite ?_ ?_
      · refine State.event_kept ?_
        exact h11
      · exact h11
  · extract_lets +onlyGivenNames v13
    obtain ⟨v14, e⟩ : ∃ y, y = v13 := ⟨_, rfl⟩
    rw [← e]
    clear e v13
    extract_lets +onlyGivenNames v15
    obtain ⟨v16, e⟩ : ∃ y, y = v15 := ⟨_, rfl⟩
    rw [← e]
    clear e v15
    extract_lets +onlyGivenNames v17
    obtain ⟨v19, e, h18⟩ : ∃ y, y = v17 ∧ Kept a (y) := ⟨_, rfl, by
      refine State.setCol_kept ?_
      exact h
      ⟩
    rw [← e]
    clear e v17
    refine Kept.ite ?_ ?_
    · refine State.expRise_kept ?_
      exact h18
    · refine Kept.ite ?_ ?_
      · refine State.expEnd_kept ?_
        exact h18
      · exact h18

theorem State.colCancel_kept {a s y1 y2} (h : Kept a s) : Kept a (State.colCancel s y1 y2) := by
  unfold State.colCancel
  split
  · rename_i z1 z2
    exact h
  · rename_i z3 z4 z5
    extract_lets +onlyGivenNames v6
    obtain ⟨v7, e⟩ : ∃ y, y = v6 := ⟨_, rfl⟩
    rw [← e]
    clear e v6
    extract_lets +onlyGivenNames v8
    obtain ⟨v10, e, h9⟩ : ∃ y, y = v8 ∧ Kept a (y) := ⟨_, rfl, by
      refine State.setCol_kept ?_
      exact h
      ⟩
    rw [← e]
    clear e v8
    refine Kept.ite ?_ ?_
    · refine Kept.ite ?_ ?_
      · refine State.setSlot_kept ?_
        exact h9
      · refine State.expEnd_kept ?_
        exact h9
    · exact h9

theorem State.colFault_kept {a s y1 y2 y3} (h : Kept a s) : Kept a (State.colFault s y1 y2 y3) := by
  unfold State.colFault
  extract_lets +onlyGivenNames v1
  obtain ⟨v3, e, h2⟩ : ∃ y, y = v1 ∧ Kept a (y) := ⟨_, rfl, by
    refine State.setF_kept ?_
    exact h
    ⟩
  rw [← e]
  clear e v1
  extract_lets +onlyGivenNames v4
  obtain ⟨v6, e, h5⟩ : ∃ y, y = v4 ∧ Kept a (y) := ⟨_, rfl, by
    refine Kept.ite ?_ ?_
    · refine State.colCancel_kept ?_
      exact h2
    · exact h2
    ⟩
  rw [← e]
  clear e v4
  extract_lets +onlyGivenNames v7
  obtain ⟨v9, e, h8⟩ : ∃ y, y = v7 ∧ Kept a (y) := ⟨_, rfl, by
    refine Kept.ite ?_ ?_
    · refine State.colDrive_kept ?_
      exact h5
    · refine Kept.ite ?_ ?_
      · refine State.colDrive_kept ?_
        exact h5
      · exact h5
    ⟩
  rw [← e]
  clear e v7
  extract_lets +onlyGivenNames v10
  obtain ⟨v12, e, h11⟩ : ∃ y, y = v10 ∧ Kept a (y) := ⟨_, rfl, by
    refine Kept.ite ?_ ?_
    · refine State.suspendNow_kept ?_
      exact h8
    · exact h8
    ⟩
  rw [← e]
  clear e v10
  extract_lets +onlyGivenNames v13
  obtain ⟨v14, e⟩ : ∃ y, y = v13 := ⟨_, rfl⟩
  rw [← e]
  clear e v13
  refine State.raise_kept ?_
  exact h11

theorem State.colLate_kept {a s y1 y2} (h : Kept a s) : Kept a (Prod.snd (State.colLate s y1 y2)) := by
  unfold State.colLate
  extract_lets +onlyGivenNames v1
  obtain ⟨v3, e, h2⟩ : ∃ y, y = v1 ∧ Kept a (y) := ⟨_, rfl, by
    refine State.event_kept ?_
    refine State.incF_kept ?_
    refine State.setF_kept ?_
    exact h
    ⟩
  rw [← e]
  clear e v1
  extract_lets +onlyGivenNames v4
  obtain ⟨v5, e⟩ : ∃ y, y = v4 := ⟨_, rfl⟩
  rw [← e]
  clear e v4
  extract_lets +onlyGivenNames v6
  obtain ⟨v7, e⟩ : ∃ y, y = v6 := ⟨_, rfl⟩
  rw [← e]
  clear e v6
  split
  · rename_i z8 z9
    refine State.colFault_kept ?_
    refine State.colJudged_kept ?_
    exact h2
  · rename_i z10 z11
    refine State.raise_kept ?_
    exact h2
  · rename_i z12 z13 z14
    refine State.raise_kept ?_
    refine State.colJudged_kept ?_
    exact h2

theorem State.colSlack_kept {a s y1 y2 y3} (h : Kept a s) : Kept a (State.colSlack s y1 y2 y3) := by
  unfold State.colSlack
  extract_lets +onlyGivenNames v1
  obtain ⟨v2, e⟩ : ∃ y, y = v1 := ⟨_, rfl⟩
  rw [← e]
  clear e v1
  extract_lets +onlyGivenNames v3
  obtain ⟨v5, e, h4⟩ : ∃ y, y = v3 ∧ Kept a (y) := ⟨_, rfl, by
    refine State.setFi_kept ?_
    exact h
    ⟩
  rw [← e]
  clear e v3
  extract_lets +onlyGivenNames v6
  obtain ⟨v8, e, h7⟩ : ∃ y, y = v6 ∧ Kept a (y) := ⟨_, rfl, by
    refine Kept.ite ?_ ?_
    · refine State.setFi_kept ?_
      exact h4
    · exact h4
    ⟩
  rw [← e]
  clear e v6
  extract_lets +onlyGivenNames v9
  obtain ⟨v10, e⟩ : ∃ y, y = v9 := ⟨_, rfl⟩
  rw [← e]
  clear e v9
  refine Kept.ite ?_ ?_
  · refine State.event_kept ?_
    refine State.setF_kept ?_
    exact h7
  · exact h7

theorem State.colPut_kept {a s y1 y2 y3} (h : Kept a s) : Kept a (State.colPut s y1 y2 y3) := by
  unfold State.colPut
  extract_lets +onlyGivenNames v1
  obtain ⟨v3, e, h2⟩ : ∃ y, y = v1 ∧ Kept a (y) := ⟨_, rfl, by
    refine State.colJudged_kept ?_
    exact h
    ⟩
  rw [← e]
  clear e v1
  extract_lets +onlyGivenNames v4
  obtain ⟨v5, e⟩ : ∃ y, y = v4 := ⟨_, rfl⟩
  rw [← e]
  clear e v4
  refine State.setCol_kept ?_
  exact h2

theorem State.colJudge_kept {a s y1 y2} (h : Kept a s) : Kept a (State.colJudge s y1 y2) := by
  unfold State.colJudge
  refine Kept.ite ?_ ?_
  · extract_lets +onlyGivenNames v1
    obtain ⟨v2, e⟩ : ∃ y, y = v1 := ⟨_, rfl⟩
    rw [← e]
    clear e v1
    extract_lets +onlyGivenNames v3
    obtain ⟨v4, e⟩ : ∃ y, y = v3 := ⟨_, rfl⟩
    rw [← e]
    clear e v3
    extract_lets +onlyGivenNames v5
    obtain ⟨v6, e⟩ : ∃ y, y = v5 := ⟨_, rfl⟩
    rw [← e]
    clear e v5
    extract_lets +onlyGivenNames v7
    obtain ⟨v8, e⟩ : ∃ y, y = v7 := ⟨_, rfl⟩
    rw [← e]
    clear e v7
    extract_lets +onlyGivenNames v9
    obtain ⟨v11, e, h10⟩ : ∃ y, y = v9 ∧ Kept a (y) := ⟨_, rfl, by
      refine Kept.ite ?_ ?_
      · refine State.setF_kept ?_
        exact h
      · exact h
      ⟩
    rw [← e]
    clear e v9
    extract_lets +onlyGivenNames v12
    obtain ⟨v14, e, h13⟩ : ∃ y, y = v12 ∧ Kept a (y) := ⟨_, rfl, by
      refine State.colSlack_kept ?_
      exact h10
      ⟩
    rw [← e]
    clear e v12
    refine Kept.ite ?_ ?_
    · split
      · rename_i z15 z16 z17 z18
        have h19 := Kept.ofEq (a := a) (fun p => Prod.snd (p)) z18 (by
            refine State.colLate_kept ?_
            exact h13
          )
        beta_reduce at h19
        refine State.colPut_kept ?_
        exact h19
      · rename_i z20 z21 z22
        have h23 := Kept.ofEq (a := a) (fun p => Prod.snd (p)) z22 (by
            refine State.colLate_kept ?_
            exact h13
          )
        beta_reduce at h23
        exact h23
    · refine State.colPut_kept ?_
      exact h13
  · refine Kept.ite ?_ ?_
    · split
      · rename_i z24 z25 z26 z27
        have h28 := Kept.ofEq (a := a) (fun p => Prod.snd (p)) z27 (by
            refine State.colLate_kept ?_
            exact h
          )
        beta_reduce at h28
        refine State.colPut_kept ?_
        exact h28
      · rename_i z29 z30 z31
        have h32 := Kept.ofEq (a := a) (fun p => Prod.snd (p)) z31 (by
            refine State.colLate_kept ?_
            exact h
          )
        beta_reduce at h32
        exact h32
    · refine State.colPut_kept ?_
      exact h

theorem State.colSeq_kept {a s y1 y2} (h : Kept a s) : Kept a (State.colSeq s y1 y2) := by
  unfold State.colSeq
  refine Kept.ite ?_ ?_
  · extract_lets +onlyGivenNames v1
    obtain ⟨v2, e⟩ : ∃ y, y = v1 := ⟨_, rfl⟩
    rw [← e]
    clear e v1
    extract_lets +onlyGivenNames v3
    obtain ⟨v4, e⟩ : ∃ y, y = v3 := ⟨_, rfl⟩
    rw [← e]
    clear e v3
    extract_lets +onlyGivenNames v5
    obtain ⟨v7, e, h6⟩ : ∃ y, y = v5 ∧ Kept a (y) := ⟨_, rfl, by
      refine State.setCol_kept ?_
      exact h
      ⟩
    rw [← e]
    clear e v5
    refine Kept.ite ?_ ?_
    · refine State.setF_kept ?_
      exact h6
    · exact h6
  · exact h

theorem State.colWidth_kept {a s y1 y2} (h : Kept a s) : Kept a (State.colWidth s y1 y2) := by
  unfold State.colWidth
  extract_lets +onlyGivenNames v1
  obtain ⟨v2, e⟩ : ∃ y, y = v1 := ⟨_, rfl⟩
  rw [← e]
  clear e v1
  refine Kept.ite ?_ ?_
  · refine State.info_kept ?_
    exact h
  · exact h

theorem colAccept_kept {a y1 y2 s} (h : Kept a s) : Kept a (colAccept y1 y2 s) := by
  unfold colAccept
  extract_lets +onlyGivenNames v1
  obtain ⟨v2, e⟩ : ∃ y, y = v1 := ⟨_, rfl⟩
  rw [← e]
  clear e v1
  extract_lets +onlyGivenNames v3
  obtain ⟨v4, e⟩ : ∃ y, y = v3 := ⟨_, rfl⟩
  rw [← e]
  clear e v3
  refine Kept.ite ?_ ?_
  · exact h
  · refine State.arrive_kept ?_ ?_
    · exact h
    · intro x5 h6
      refine Kept.ite ?_ ?_
      · refine State.absorb_kept ?_
        exact h6
      · refine Kept.ite ?_ ?_
        · refine State.refuse_kept ?_
          exact h6
        · refine Kept.ite ?_ ?_
          · extract_lets +onlyGivenNames v7
            obtain ⟨v9, e, h8⟩ : ∃ y, y = v7 ∧ Kept a (y) := ⟨_, rfl, by
              refine State.refuse_kept ?_
              exact h6
              ⟩
            rw [← e]
            clear e v7
            refine Kept.ite ?_ ?_
            · refine State.incF_kept ?_
              exact h8
            · refine Kept.ite ?_ ?_
              · refine State.incF_kept ?_
                exact h8
              · exact h8
          · split
            · rename_i z10 z11 z12
              refine State.refuse_kept ?_
              exact h6
            · rename_i z13 z14
              extract_lets +onlyGivenNames v15
              obtain ⟨v17, e, h16⟩ : ∃ y, y = v15 ∧ Kept a (y) := ⟨_, rfl, by
                refine State.colWidth_kept ?_
                refine State.colSeq_kept ?_
                exact h6
                ⟩
              rw [← e]
              clear e v15
              refine Kept.ite ?_ ?_
              · refine State.linkSend_kept ?_
                refine State.event_kept ?_
                exact h16
              · refine State.colJudge_kept ?_
                exact h16

theorem State.pinRelease_kept {a s y1 y2 y3} (h : Kept a s) : Kept a (State.pinRelease s y1 y2 y3) := by
  unfold State.pinRelease
  extract_lets +onlyGivenNames v1
  obtain ⟨v2, e⟩ : ∃ y, y = v1 := ⟨_, rfl⟩
  rw [← e]
  clear e v1
  extract_lets +onlyGivenNames v3
  obtain ⟨v4, e⟩ : ∃ y, y = v3 := ⟨_, rfl⟩
  rw [← e]
  clear e v3
  extract_lets +onlyGivenNames v5
  obtain ⟨v6, e⟩ : ∃ y, y = v5 := ⟨_, rfl⟩
  rw [← e]
  clear e v5
  extract_lets +onlyGivenNames v7
  obtain ⟨v9, e, h8⟩ : ∃ y, y = v7 ∧ Kept a (y) := ⟨_, rfl, by
    refine Kept.ite ?_ ?_
    · refine State.incF_kept ?_
      exact h
    · exact h
    ⟩
  rw [← e]
  clear e v7
  extract_lets +onlyGivenNames v10
  obtain ⟨v11, e⟩ : ∃ y, y = v10 := ⟨_, rfl⟩
  rw [← e]
  clear e v10
  extract_lets +onlyGivenNames v12
  obtain ⟨v14, e, h13⟩ : ∃ y, y = v12 ∧ Kept a (y) := ⟨_, rfl, by
    unfold v12
    split
    · rename_i z15 z16 z17
      refine Kept.ite ?_ ?_
      · refine State.colDrive_kept ?_
        refine State.setCol_kept ?_
        exact h8
      · refine State.colCancel_kept ?_
        exact h8
    · rename_i z18 z19
      exact h8
    ⟩
  rw [← e]
  clear e v12
  extract_lets +onlyGivenNames v20
  obtain ⟨v21, e⟩ : ∃ y, y = v20 := ⟨_, rfl⟩
  rw [← e]
  clear e v20
  extract_lets +onlyGivenNames v22
  obtain ⟨v24, e, h23⟩ : ∃ y, y = v22 ∧ Kept a (y) := ⟨_, rfl, by
    refine State.setCol_kept ?_
    exact h13
    ⟩
  rw [← e]
  clear e v22
  extract_lets +onlyGivenNames v25
  obtain ⟨v26, e⟩ : ∃ y, y = v25 := ⟨_, rfl⟩
  rw [← e]
  clear e v25
  extract_lets +onlyGivenNames v27
  obtain ⟨v28, e⟩ : ∃ y, y = v27 := ⟨_, rfl⟩
  rw [← e]
  clear e v27
  extract_lets +onlyGivenNames v29
  obtain ⟨v30, e⟩ : ∃ y, y = v29 := ⟨_, rfl⟩
  rw [← e]
  clear e v29
  extract_lets +onlyGivenNames v31
  obtain ⟨v33, e, h32⟩ : ∃ y, y = v31 ∧ Kept a (y) := ⟨_, rfl, by
    refine Kept.ite ?_ ?_
    · refine State.setSlot_kept ?_
      exact h23
    · exact h23
    ⟩
  rw [← e]
  clear e v31
  extract_lets +onlyGivenNames v34
  obtain ⟨v36, e, h35⟩ : ∃ y, y = v34 ∧ Kept a (y) := ⟨_, rfl, by
    refine State.colDrive_kept ?_
    exact h32
    ⟩
  rw [← e]
  clear e v34
  refine Kept.ite ?_ ?_
  · refine State.setCol_kept ?_
    exact h35
  · exact h35

theorem colSecondEdge_kept {a y1 s} (h : Kept a s) : Kept a (colSecondEdge y1 s) := by
  unfold colSecondEdge
  split
  · rename_i z1 z2
    exact h
  · rename_i z3 z4 z5
    refine State.colDrive_kept ?_
    refine State.setCol_kept ?_
    refine State.reach_kept ?_
    exact h

theorem State.trigIssue_kept {a s y1 y2 y3 y4} (h : Kept a s) : Kept a (State.trigIssue s y1 y2 y3 y4) := by
  unfold State.trigIssue
  refine Kept.ite ?_ ?_
  · refine State.setF_kept ?_
    refine State.incF_kept ?_
    exact h
  · extract_lets +onlyGivenNames v1
    obtain ⟨v2, e⟩ : ∃ y, y = v1 := ⟨_, rfl⟩
    rw [← e]
    clear e v1
    refine State.send_kept ?_
    refine State.event_kept ?_
    exact h

theorem State.trigBatch_kept {a s y1} (h : Kept a s) : Kept a (State.trigBatch s y1) := by
  unfold State.trigBatch
  extract_lets +onlyGivenNames v1
  obtain ⟨v2, e⟩ : ∃ y, y = v1 := ⟨_, rfl⟩
  rw [← e]
  clear e v1
  split
  · rename_i z3 z4
    exact h
  · rename_i z5 z6 z7 z8
    extract_lets +onlyGivenNames v9
    obtain ⟨v10, e⟩ : ∃ y, y = v9 := ⟨_, rfl⟩
    rw [← e]
    clear e v9
    extract_lets +onlyGivenNames v11
    obtain ⟨v13, e, h12⟩ : ∃ y, y = v11 ∧ Kept a (y) := ⟨_, rfl, by
      refine State.reach_kept ?_
      exact h
      ⟩
    rw [← e]
    clear e v11
    extract_lets +onlyGivenNames v14
    obtain ⟨v15, e⟩ : ∃ y, y = v14 := ⟨_, rfl⟩
    rw [← e]
    clear e v14
    extract_lets +onlyGivenNames v16
    obtain ⟨v17, e⟩ : ∃ y, y = v16 := ⟨_, rfl⟩
    rw [← e]
    clear e v16
    extract_lets +onlyGivenNames v18
    obtain ⟨v20, e, h19⟩ : ∃ y, y = v18 ∧ Kept a (y) := ⟨_, rfl, by
      refine State.loadUpdate_kept ?_
      refine State.setCol_kept ?_
      exact h12
      ⟩
    rw [← e]
    clear e v18
    split
    · rename_i z21 z22
      exact h19
    · rename_i z23 z24 z25
      split
      · rename_i z26 z27 z28
        refine Kept.ite ?_ ?_
        · exact h19
        · refine State.trigIssue_kept ?_
          exact h19
      · rename_i z29 z30
        refine State.trigIssue_kept ?_
        exact h19

theorem State.trigUntil_kept {a s y1 y2 y3} (h : Kept a s) : Kept a (State.trigUntil s y1 y2 y3) := by
  induction y3 generalizing s y1 y2
  · unfold State.trigUntil
    exact h
  · rename_i w1 w2
    unfold State.trigUntil
    split
    · rename_i z3 z4
      exact h
    · rename_i z5 z6 z7 z8
      refine Kept.ite ?_ ?_
      · apply w2
        refine State.trigBatch_kept ?_
        exact h
      · exact h

theorem triggerRelease_kept {a y1 s} (h : Kept a s) : Kept a (triggerRelease y1 s) := by
  unfold triggerRelease
  extract_lets +onlyGivenNames v1
  obtain ⟨v2, e⟩ : ∃ y, y = v1 := ⟨_, rfl⟩
  rw [← e]
  clear e v1
  split
  · rename_i z3 z4
    refine State.trigBatch_kept ?_
    exact h
  · rename_i z5 z6 z7
    extract_lets +onlyGivenNames v8
    obtain ⟨v10, e, h9⟩ : ∃ y, y = v8 ∧ Kept a (y) := ⟨_, rfl, by
      refine State.trigUntil_kept ?_
      exact h
      ⟩
    rw [← e]
    clear e v8
    split
    · rename_i z11 z12
      exact h9
    · rename_i z13 z14 z15
      split
      · rename_i z16 z17
        exact h9
      · rename_i z18 z19 z20
        extract_lets +onlyGivenNames v21
        obtain ⟨v22, e⟩ : ∃ y, y = v21 := ⟨_, rfl⟩
        rw [← e]
        clear e v21
        extract_lets +onlyGivenNames v23
        obtain ⟨v25, e, h24⟩ : ∃ y, y = v23 ∧ Kept a (y) := ⟨_, rfl, by
          refine State.setCol_kept ?_
          refine State.reach_kept ?_
          exact h9
          ⟩
        rw [← e]
        clear e v23
        refine State.trigIssue_kept ?_
        exact h24

theorem colRelease_kept {a y1 s} (h : Kept a s) : Kept a (colRelease y1 s) := by
  unfold colRelease
  refine Kept.ite ?_ ?_
  · refine State.trigBatch_kept ?_
    exact h
  · split
    · rename_i z1 z2
      exact h
    · rename_i z3 z4 z5 z6
      extract_lets +onlyGivenNames v7
      obtain ⟨v9, e, h8⟩ : ∃ y, y = v7 ∧ Kept a (y) := ⟨_, rfl, by
        refine State.reach_kept ?_
        exact h
        ⟩
      rw [← e]
      clear e v7
      extract_lets +onlyGivenNames v10
      obtain ⟨v11, e⟩ : ∃ y, y = v10 := ⟨_, rfl⟩
      rw [← e]
      clear e v10
      extract_lets +onlyGivenNames v12
      obtain ⟨v13, e⟩ : ∃ y, y = v12 := ⟨_, rfl⟩
      rw [← e]
      clear e v12
      extract_lets +onlyGivenNames v14
      obtain ⟨v16, e, h15⟩ : ∃ y, y = v14 ∧ Kept a (y) := ⟨_, rfl, by
        refine State.event_kept ?_
        refine State.setCol_kept ?_
        exact h8
        ⟩
      rw [← e]
      clear e v14
      refine Kept.ite ?_ ?_
      · refine State.linkSend_kept ?_
        exact h15
      · refine Kept.ite ?_ ?_
        · refine State.linkSend_kept ?_
          exact h15
        · refine Kept.ite ?_ ?_
          · refine State.txCount_kept ?_
            exact h15
          · refine Kept.ite ?_ ?_
            · exact h15
            · refine Kept.ite ?_ ?_
              · refine emuRelease_kept ?_
                exact h15
              · refine State.pinRelease_kept ?_
                exact h15

theorem triggerCommand_kept {a y1 y2 y3 s} (h : Kept a s) : Kept a (triggerCommand y1 y2 y3 s) := by
  unfold triggerCommand
  refine Kept.ite ?_ ?_
  · refine colAccept_kept ?_
    exact h
  · exact h

theorem colCfgEffect_kept {a y1 s1 s} (h : Kept a s) : Kept a (colCfgEffect y1 s1 s) := by
  unfold colCfgEffect
  extract_lets +onlyGivenNames v1
  obtain ⟨v2, e⟩ : ∃ y, y = v1 := ⟨_, rfl⟩
  rw [← e]
  clear e v1
  extract_lets +onlyGivenNames v3
  obtain ⟨v4, e⟩ : ∃ y, y = v3 := ⟨_, rfl⟩
  rw [← e]
  clear e v3
  extract_lets +onlyGivenNames v5
  obtain ⟨v6, e⟩ : ∃ y, y = v5 := ⟨_, rfl⟩
  rw [← e]
  clear e v5
  extract_lets +onlyGivenNames v7
  obtain ⟨v9, e, h8⟩ : ∃ y, y = v7 ∧ Kept a (y) := ⟨_, rfl, by
    refine Kept.ite ?_ ?_
    · refine State.setCol_kept ?_
      exact h
    · exact h
    ⟩
  rw [← e]
  clear e v7
  refine Kept.ite ?_ ?_
  · extract_lets +onlyGivenNames v10
    obtain ⟨v12, e, h11⟩ : ∃ y, y = v10 ∧ Kept a (y) := ⟨_, rfl, by
      refine State.colDiscard_kept ?_
      exact h8
      ⟩
    rw [← e]
    clear e v10
    extract_lets +onlyGivenNames v13
    obtain ⟨v14, e⟩ : ∃ y, y = v13 := ⟨_, rfl⟩
    rw [← e]
    clear e v13
    extract_lets +onlyGivenNames v15
    obtain ⟨v17, e, h16⟩ : ∃ y, y = v15 ∧ Kept a (y) := ⟨_, rfl, by
      refine Kept.ite ?_ ?_
      · refine State.noteGates_kept ?_
        refine State.setCol_kept ?_
        exact h11
      · exact h11
      ⟩
    rw [← e]
    clear e v15
    refine Kept.ite ?_ ?_
    · refine State.loadUpdate_kept ?_
      refine State.setCol_kept ?_
      exact h16
    · exact h16
  · refine Kept.ite ?_ ?_
    · refine State.setCol_kept ?_
      exact h8
    · exact h8

end Sys2Proof.Machine
end

