-- ==== Sys2Proof/Laws/KeptPlantTime.lean ====
section
/-! SUPPORT. Every operation of Machine/PlantTime.lean keeps the queue and the canonical tables (`Kept`). -/

set_option linter.unusedVariables false

namespace Sys2Proof.Machine

open Sys2Proof

theorem State.ptpTo_kept {a s y1} (h : Kept a s) : Kept a (State.ptpTo s y1) := by
  unfold State.ptpTo
  extract_lets +onlyGivenNames v1
  obtain ⟨v2, e⟩ : ∃ y, y = v1 := ⟨_, rfl⟩
  rw [← e]
  clear e v1
  extract_lets +onlyGivenNames v3
  obtain ⟨v4, e⟩ : ∃ y, y = v3 := ⟨_, rfl⟩
  rw [← e]
  clear e v3
  extract_lets +onlyGivenNames v5
  obtain ⟨v7, e, h6⟩ : ∃ y, y = v5 ∧ Kept a (y) := ⟨_, rfl, by
    refine State.setPtp_kept ?_
    refine State.setF_kept ?_
    exact h
    ⟩
  rw [← e]
  clear e v5
  refine Kept.ite ?_ ?_
  · refine State.warn_kept ?_
    exact h6
  · exact h6

theorem State.ptStep_kept {a s y1 y2 y3} (h : Kept a s) : Kept a (State.ptStep s y1 y2 y3) := by
  unfold State.ptStep
  extract_lets +onlyGivenNames v1
  obtain ⟨v3, e, h2⟩ : ∃ y, y = v1 ∧ Kept a (y) := ⟨_, rfl, by
    refine State.putPt_kept ?_
    exact h
    ⟩
  rw [← e]
  clear e v1
  extract_lets +onlyGivenNames v4
  obtain ⟨v6, e, h5⟩ : ∃ y, y = v4 ∧ Kept a (y) := ⟨_, rfl, by
    unfold v4
    split
    · rename_i z7 z8
      refine State.setRate_kept ?_
      exact h2
    · rename_i z9
      exact h2
    ⟩
  rw [← e]
  clear e v4
  refine ptStepJudge_kept ?_
  refine State.ptRemember_kept ?_
  exact h5

theorem State.ptpJudge_kept {a s y1} (h : Kept a s) : Kept a (State.ptpJudge s y1) := by
  unfold State.ptpJudge
  extract_lets +onlyGivenNames v1
  obtain ⟨v2, e⟩ : ∃ y, y = v1 := ⟨_, rfl⟩
  rw [← e]
  clear e v1
  extract_lets +onlyGivenNames v3
  obtain ⟨v4, e⟩ : ∃ y, y = v3 := ⟨_, rfl⟩
  rw [← e]
  clear e v3
  extract_lets +onlyGivenNames v5
  obtain ⟨v6, e⟩ : ∃ y, y = v5 := ⟨_, rfl⟩
  rw [← e]
  clear e v5
  extract_lets +onlyGivenNames v7
  obtain ⟨v8, e⟩ : ∃ y, y = v7 := ⟨_, rfl⟩
  rw [← e]
  clear e v7
  extract_lets +onlyGivenNames v9
  obtain ⟨v11, e, h10⟩ : ∃ y, y = v9 ∧ Kept a (y) := ⟨_, rfl, by
    refine State.setPtp_kept ?_
    exact h
    ⟩
  rw [← e]
  clear e v9
  refine Kept.ite ?_ ?_
  · refine State.ptpTo_kept ?_
    exact h10
  · refine Kept.ite ?_ ?_
    · refine State.ptpTo_kept ?_
      exact h10
    · exact h10

theorem ptpSync_kept {a y1 y2 y3 y4 y5 s} (h : Kept a s) : Kept a (ptpSync y1 y2 y3 y4 y5 s) := by
  unfold ptpSync
  extract_lets +onlyGivenNames v1
  obtain ⟨v2, e⟩ : ∃ y, y = v1 := ⟨_, rfl⟩
  rw [← e]
  clear e v1
  split
  · rename_i z3 z4
    exact h
  · rename_i z5 z6 z7
    refine Kept.ite ?_ ?_
    · exact h
    · extract_lets +onlyGivenNames v8
      obtain ⟨v10, e, h9⟩ : ∃ y, y = v8 ∧ Kept a (y) := ⟨_, rfl, by
        refine State.reach_kept ?_
        exact h
        ⟩
      rw [← e]
      clear e v8
      extract_lets +onlyGivenNames v11
      obtain ⟨v12, e⟩ : ∃ y, y = v11 := ⟨_, rfl⟩
      rw [← e]
      clear e v11
      extract_lets +onlyGivenNames v13
      obtain ⟨v14, e⟩ : ∃ y, y = v13 := ⟨_, rfl⟩
      rw [← e]
      clear e v13
      extract_lets +onlyGivenNames v15
      obtain ⟨v16, e⟩ : ∃ y, y = v15 := ⟨_, rfl⟩
      rw [← e]
      clear e v15
      extract_lets +onlyGivenNames v17
      obtain ⟨v18, e⟩ : ∃ y, y = v17 := ⟨_, rfl⟩
      rw [← e]
      clear e v17
      extract_lets +onlyGivenNames v19
      obtain ⟨v20, e⟩ : ∃ y, y = v19 := ⟨_, rfl⟩
      rw [← e]
      clear e v19
      extract_lets +onlyGivenNames v21
      obtain ⟨v23, e, h22⟩ : ∃ y, y = v21 ∧ Kept a (y) := ⟨_, rfl, by
        refine State.setPtp_kept ?_
        exact h9
        ⟩
      rw [← e]
      clear e v21
      extract_lets +onlyGivenNames v24
      obtain ⟨v26, e, h25⟩ : ∃ y, y = v24 ∧ Kept a (y) := ⟨_, rfl, by
        refine Kept.ite ?_ ?_
        · refine State.ptpTo_kept ?_
          exact h22
        · exact h22
        ⟩
      rw [← e]
      clear e v24
      split
      · rename_i z27 z28
        exact h25
      · rename_i z29 z30 z31
        extract_lets +onlyGivenNames v32
        obtain ⟨v33, e⟩ : ∃ y, y = v32 := ⟨_, rfl⟩
        rw [← e]
        clear e v32
        extract_lets +onlyGivenNames v34
        obtain ⟨v36, e, h35⟩ : ∃ y, y = v34 ∧ Kept a (y) := ⟨_, rfl, by
          refine State.setF_kept ?_
          refine State.setF_kept ?_
          exact h25
          ⟩
        rw [← e]
        clear e v34
        refine Kept.ite ?_ ?_
        · extract_lets +onlyGivenNames v37
          obtain ⟨v39, e, h38⟩ : ∃ y, y = v37 ∧ Kept a (y) := ⟨_, rfl, by
            refine State.ptStep_kept ?_
            exact h35
            ⟩
          rw [← e]
          clear e v37
          refine State.ptpTo_kept ?_
          refine State.setPtp_kept ?_
          exact h38
        · refine Kept.ite ?_ ?_
          · refine State.ptpJudge_kept ?_
            exact h35
          · split
            · rename_i z40 z41 z42 z43
              extract_lets +onlyGivenNames v44
              obtain ⟨v45, e⟩ : ∃ y, y = v44 := ⟨_, rfl⟩
              rw [← e]
              clear e v44
              extract_lets +onlyGivenNames v46
              obtain ⟨v48, e, h47⟩ : ∃ y, y = v46 ∧ Kept a (y) := ⟨_, rfl, by
                refine State.ptpJudge_kept ?_
                refine State.ptStep_kept ?_
                exact h35
                ⟩
              rw [← e]
              clear e v46
              extract_lets +onlyGivenNames v49
              obtain ⟨v50, e⟩ : ∃ y, y = v49 := ⟨_, rfl⟩
              rw [← e]
              clear e v49
              extract_lets +onlyGivenNames v51
              obtain ⟨v53, e, h52⟩ : ∃ y, y = v51 ∧ Kept a (y) := ⟨_, rfl, by
                refine State.setPtp_kept ?_
                exact h47
                ⟩
              rw [← e]
              clear e v51
              refine Kept.ite ?_ ?_
              · refine State.info_kept ?_
                exact h52
              · exact h52

theorem announce_kept {a y1 y2 s} (h : Kept a s) : Kept a (announce y1 y2 s) := by
  unfold announce
  refine Kept.ite ?_ ?_
  · exact h
  · extract_lets +onlyGivenNames v1
    obtain ⟨v2, e⟩ : ∃ y, y = v1 := ⟨_, rfl⟩
    rw [← e]
    clear e v1
    extract_lets +onlyGivenNames v3
    obtain ⟨v4, e⟩ : ∃ y, y = v3 := ⟨_, rfl⟩
    rw [← e]
    clear e v3
    extract_lets +onlyGivenNames v5
    obtain ⟨v6, e⟩ : ∃ y, y = v5 := ⟨_, rfl⟩
    rw [← e]
    clear e v5
    extract_lets +onlyGivenNames v7
    obtain ⟨v8, e⟩ : ∃ y, y = v7 := ⟨_, rfl⟩
    rw [← e]
    clear e v7
    extract_lets +onlyGivenNames v9
    obtain ⟨v10, e⟩ : ∃ y, y = v9 := ⟨_, rfl⟩
    rw [← e]
    clear e v9
    extract_lets +onlyGivenNames v11
    obtain ⟨v13, e, h12⟩ : ∃ y, y = v11 ∧ Kept a (y) := ⟨_, rfl, by
      refine State.setPtp_kept ?_
      exact h
      ⟩
    rw [← e]
    clear e v11
    split
    · rename_i z14 z15
      exact h12
    · rename_i z16 z17 z18
      extract_lets +onlyGivenNames v19
      obtain ⟨v20, e⟩ : ∃ y, y = v19 := ⟨_, rfl⟩
      rw [← e]
      clear e v19
      refine Kept.ite ?_ ?_
      · refine State.setPtp_kept ?_
        exact h12
      · extract_lets +onlyGivenNames v21
        obtain ⟨v22, e⟩ : ∃ y, y = v21 := ⟨_, rfl⟩
        rw [← e]
        clear e v21
        extract_lets +onlyGivenNames v23
        obtain ⟨v25, e, h24⟩ : ∃ y, y = v23 ∧ Kept a (y) := ⟨_, rfl, by
          refine State.setPtp_kept ?_
          exact h12
          ⟩
        rw [← e]
        clear e v23
        refine State.ptpTo_kept ?_
        refine State.setF_kept ?_
        refine State.setF_kept ?_
        exact h24

theorem syncLoss_kept {a s} (h : Kept a s) : Kept a (syncLoss s) := by
  unfold syncLoss
  refine Kept.ite ?_ ?_
  · exact h
  · extract_lets +onlyGivenNames v1
    obtain ⟨v3, e, h2⟩ : ∃ y, y = v1 ∧ Kept a (y) := ⟨_, rfl, by
      unfold v1
      split
      · rename_i z4 z5 z6
        refine State.reach_kept ?_
        exact h
      · rename_i z7 z8
        exact h
      ⟩
    rw [← e]
    clear e v1
    refine State.ptpTo_kept ?_
    exact h2

theorem announceTimeout_kept {a s} (h : Kept a s) : Kept a (announceTimeout s) := by
  unfold announceTimeout
  refine Kept.ite ?_ ?_
  · exact h
  · refine State.ptpTo_kept ?_
    refine State.setPtp_kept ?_
    exact h

theorem ptpCfgEffect_kept {a s0 s} (h : Kept a s) : Kept a (ptpCfgEffect s0 s) := by
  unfold ptpCfgEffect
  refine Kept.ite ?_ ?_
  · exact h
  · refine Kept.ite ?_ ?_
    · refine State.ptpTo_kept ?_
      exact h
    · refine State.ptpTo_kept ?_
      refine State.setPtp_kept ?_
      exact h

end Sys2Proof.Machine
end

