-- ==== Sys2Proof/Laws/KeptQueue.lean ====
section
/-! SUPPORT. Every operation of Machine/Queue.lean keeps the queue and the canonical tables (`Kept`). -/

set_option linter.unusedVariables false

namespace Sys2Proof.Machine

open Sys2Proof

theorem State.qUpdate_kept {a s y1} (h : Kept a s) : Kept a (State.qUpdate s y1) := by
  unfold State.qUpdate
  extract_lets +onlyGivenNames v1
  obtain ⟨v2, e⟩ : ∃ y, y = v1 := ⟨_, rfl⟩
  rw [← e]
  clear e v1
  refine State.setF_kept ?_
  refine State.setF_kept ?_
  refine State.setF_kept ?_
  exact h

theorem State.qStore_kept {a s y1 y2} (h : Kept a s) : Kept a (State.qStore s y1 y2) := by
  unfold State.qStore
  extract_lets +onlyGivenNames v1
  obtain ⟨v2, e⟩ : ∃ y, y = v1 := ⟨_, rfl⟩
  rw [← e]
  clear e v1
  refine State.qUpdate_kept ?_
  refine State.setF_kept ?_
  refine State.sts_kept ?_
  exact h

theorem State.qRetire_kept {a s y1 y2} (h : Kept a s) : Kept a (State.qRetire s y1 y2) := by
  unfold State.qRetire
  refine State.qUpdate_kept ?_
  refine State.setF_kept ?_
  exact h

theorem State.qDropOldest_kept {a s y1} (h : Kept a s) : Kept a (State.qDropOldest s y1) := by
  unfold State.qDropOldest
  extract_lets +onlyGivenNames v1
  obtain ⟨v2, e⟩ : ∃ y, y = v1 := ⟨_, rfl⟩
  rw [← e]
  clear e v1
  extract_lets +onlyGivenNames v3
  obtain ⟨v5, e, h4⟩ : ∃ y, y = v3 ∧ Kept a (y) := ⟨_, rfl, by
    refine Kept.ite ?_ ?_
    · refine State.sts_kept ?_
      exact h
    · exact h
    ⟩
  rw [← e]
  clear e v3
  refine State.qRetire_kept ?_
  exact h4

theorem State.qDropped_kept {a s y1} (h : Kept a s) : Kept a (State.qDropped s y1) := by
  unfold State.qDropped
  refine State.setF_kept ?_
  refine State.incF_kept ?_
  exact h

theorem State.qSeqCheck_kept {a s y1 y2} (h : Kept a s) : Kept a (State.qSeqCheck s y1 y2) := by
  unfold State.qSeqCheck
  refine Kept.ite ?_ ?_
  · extract_lets +onlyGivenNames v1
    obtain ⟨v2, e⟩ : ∃ y, y = v1 := ⟨_, rfl⟩
    rw [← e]
    clear e v1
    extract_lets +onlyGivenNames v3
    obtain ⟨v4, e⟩ : ∃ y, y = v3 := ⟨_, rfl⟩
    rw [← e]
    clear e v3
    extract_lets +onlyGivenNames v5
    obtain ⟨v7, e, h6⟩ : ∃ y, y = v5 ∧ Kept a (y) := ⟨_, rfl, by
      refine State.setQueue_kept ?_
      exact h
      ⟩
    rw [← e]
    clear e v5
    refine Kept.ite ?_ ?_
    · refine State.setF_kept ?_
      exact h6
    · exact h6
  · exact h

theorem State.qWmark_kept {a s y1 y2} (h : Kept a s) : Kept a (State.qWmark s y1 y2) := by
  unfold State.qWmark
  extract_lets +onlyGivenNames v1
  obtain ⟨v2, e⟩ : ∃ y, y = v1 := ⟨_, rfl⟩
  rw [← e]
  clear e v1
  refine Kept.ite ?_ ?_
  · refine State.info_kept ?_
    refine State.setF_kept ?_
    exact h
  · exact h

theorem queueEnqueue_kept {a y1 y2 y3 s} (h : Kept a s) : Kept a (queueEnqueue y1 y2 y3 s) := by
  unfold queueEnqueue
  extract_lets +onlyGivenNames v1
  obtain ⟨v2, e⟩ : ∃ y, y = v1 := ⟨_, rfl⟩
  rw [← e]
  clear e v1
  extract_lets +onlyGivenNames v3
  obtain ⟨v4, e⟩ : ∃ y, y = v3 := ⟨_, rfl⟩
  rw [← e]
  clear e v3
  extract_lets +onlyGivenNames v5
  obtain ⟨v7, e, h6⟩ : ∃ y, y = v5 ∧ Kept a (y) := ⟨_, rfl, by
    refine State.setQueue_kept ?_
    exact h
    ⟩
  rw [← e]
  clear e v5
  refine Kept.ite ?_ ?_
  · exact h6
  · refine State.arrive_kept ?_ ?_
    · exact h6
    · intro x8 h9
      refine Kept.ite ?_ ?_
      · refine State.absorb_kept ?_
        exact h9
      · refine Kept.ite ?_ ?_
        · refine State.refuse_kept ?_
          exact h9
        · refine Kept.ite ?_ ?_
          · refine State.refuse_kept ?_
            exact h9
          · refine Kept.ite ?_ ?_
            · refine State.refuse_kept ?_
              exact h9
            · extract_lets +onlyGivenNames v10
              obtain ⟨v12, e, h11⟩ : ∃ y, y = v10 ∧ Kept a (y) := ⟨_, rfl, by
                refine State.qSeqCheck_kept ?_
                exact h9
                ⟩
              rw [← e]
              clear e v10
              extract_lets +onlyGivenNames v13
              obtain ⟨v14, e⟩ : ∃ y, y = v13 := ⟨_, rfl⟩
              rw [← e]
              clear e v13
              refine Kept.ite ?_ ?_
              · refine State.qWmark_kept ?_
                refine State.qStore_kept ?_
                exact h11
              · refine Kept.ite ?_ ?_
                · refine State.qDropped_kept ?_
                  exact h11
                · refine State.qDropped_kept ?_
                  refine State.qStore_kept ?_
                  refine State.qDropOldest_kept ?_
                  exact h11

theorem queuePush_kept {a y1 s} (h : Kept a s) : Kept a (queuePush y1 s) := by
  unfold queuePush
  extract_lets +onlyGivenNames v1
  obtain ⟨v2, e⟩ : ∃ y, y = v1 := ⟨_, rfl⟩
  rw [← e]
  clear e v1
  refine Kept.ite ?_ ?_
  · extract_lets +onlyGivenNames v3
    obtain ⟨v4, e⟩ : ∃ y, y = v3 := ⟨_, rfl⟩
    rw [← e]
    clear e v3
    extract_lets +onlyGivenNames v5
    obtain ⟨v6, e⟩ : ∃ y, y = v5 := ⟨_, rfl⟩
    rw [← e]
    clear e v5
    extract_lets +onlyGivenNames v7
    obtain ⟨v8, e⟩ : ∃ y, y = v7 := ⟨_, rfl⟩
    rw [← e]
    clear e v7
    extract_lets +onlyGivenNames v9
    obtain ⟨v10, e⟩ : ∃ y, y = v9 := ⟨_, rfl⟩
    rw [← e]
    clear e v9
    refine State.qRetire_kept ?_
    refine State.setQueue_kept ?_
    refine State.setNet_kept ?_
    exact h
  · exact h

theorem queueRefused_kept {a y1 s} (h : Kept a s) : Kept a (queueRefused y1 s) := by
  unfold queueRefused
  refine State.setF_kept ?_
  exact h

theorem queueCfgEffect_kept {a y1 s1 s} (h : Kept a s) : Kept a (queueCfgEffect y1 s1 s) := by
  unfold queueCfgEffect
  extract_lets +onlyGivenNames v1
  obtain ⟨v2, e⟩ : ∃ y, y = v1 := ⟨_, rfl⟩
  rw [← e]
  clear e v1
  extract_lets +onlyGivenNames v3
  obtain ⟨v5, e, h4⟩ : ∃ y, y = v3 ∧ Kept a (y) := ⟨_, rfl, by
    refine Kept.ite ?_ ?_
    · refine State.setQueue_kept ?_
      exact h
    · exact h
    ⟩
  rw [← e]
  clear e v3
  refine Kept.ite ?_ ?_
  · refine State.qUpdate_kept ?_
    refine State.setF_kept ?_
    refine State.setF_kept ?_
    exact h4
  · exact h4

theorem queuePopEffect_kept {a y1 y2 s} (h : Kept a s) : Kept a (queuePopEffect y1 y2 s) := by
  unfold queuePopEffect
  extract_lets +onlyGivenNames v1
  obtain ⟨v2, e⟩ : ∃ y, y = v1 := ⟨_, rfl⟩
  rw [← e]
  clear e v1
  extract_lets +onlyGivenNames v3
  obtain ⟨v4, e⟩ : ∃ y, y = v3 := ⟨_, rfl⟩
  rw [← e]
  clear e v3
  extract_lets +onlyGivenNames v5
  obtain ⟨v7, e, h6⟩ : ∃ y, y = v5 ∧ Kept a (y) := ⟨_, rfl, by
    refine Kept.ite ?_ ?_
    · refine State.setF_kept ?_
      exact h
    · exact h
    ⟩
  rw [← e]
  clear e v5
  refine State.qRetire_kept ?_
  exact h6

end Sys2Proof.Machine
end

