-- ==== Sys2Proof/Laws/KeptControlWords.lean ====
section
/-! SUPPORT. Every operation of Machine/ControlWords.lean keeps the queue and the canonical tables (`Kept`). -/

set_option linter.unusedVariables false

namespace Sys2Proof.Machine

open Sys2Proof

theorem State.cwWarn_kept {a s y1 y2 y3} (h : Kept a s) : Kept a (State.cwWarn s y1 y2 y3) := by
  unfold State.cwWarn
  refine Kept.ite ?_ ?_
  · refine State.warnAccess_kept ?_
    exact h
  · exact h

theorem State.readEffect_kept {a s y1} (h : Kept a s) : Kept a (State.readEffect s y1) := by
  unfold State.readEffect
  extract_lets +onlyGivenNames v1
  obtain ⟨v3, e, h2⟩ : ∃ y, y = v1 ∧ Kept a (y) := ⟨_, rfl, by
    unfold v1
    split
    · rename_i z4 z5 z6
      refine Kept.ite ?_ ?_
      · refine State.setWord_kept ?_
        exact h
      · exact h
    · rename_i z7 z8
      exact h
    ⟩
  rw [← e]
  clear e v1
  refine Kept.ite ?_ ?_
  · refine State.setPg_kept ?_
    exact h2
  · exact h2

theorem State.cwReadAt_kept {a s y1 y2} (h : Kept a s) : Kept a (Prod.snd (State.cwReadAt s y1 y2)) := by
  unfold State.cwReadAt
  split
  · rename_i z1 z2 z3
    refine State.cwWarn_kept ?_
    exact h
  · rename_i z4 z5
    extract_lets +onlyGivenNames v6
    obtain ⟨v8, e, h7⟩ : ∃ y, y = v6 ∧ Kept a (y) := ⟨_, rfl, by
      refine laneRead_kept ?_
      exact h
      ⟩
    rw [← e]
    clear e v6
    refine State.readEffect_kept ?_
    exact h7

theorem cwRead_kept {a y1 s} (h : Kept a s) : Kept a (cwRead y1 s) := by
  unfold cwRead
  refine Kept.ite ?_ ?_
  · refine State.refuse_kept ?_
    exact h
  · split
    · rename_i z1 z2 z3 z4
      have h5 := Kept.ofEq (a := a) (fun p => Prod.snd (p)) z4 (by
          refine State.cwReadAt_kept ?_
          exact h
        )
      beta_reduce at h5
      refine State.refuse_kept ?_
      exact h5
    · rename_i z6 z7 z8 z9
      have h10 := Kept.ofEq (a := a) (fun p => Prod.snd (p)) z9 (by
          refine State.cwReadAt_kept ?_
          exact h
        )
      beta_reduce at h10
      refine State.respond_kept ?_
      exact h10

theorem cwr_kept {a y1 s} (h : Kept a s) : Kept a (cwr y1 s) := by
  unfold cwr
  refine Kept.ite ?_ ?_
  · exact h
  · refine State.arrive_kept ?_ ?_
    · exact h
    · intro x1 h2
      refine Kept.ite ?_ ?_
      · exact h2
      · refine State.whenDue_kept ?_ ?_
        · exact h2
        · intro x3 h4
          refine cwRead_kept ?_
          exact h4

theorem State.collisions_kept {a s y1 y2} (h : Kept a s) : Kept a (State.collisions s y1 y2) := by
  unfold State.collisions
  refine Kept.ite ?_ ?_
  · exact h
  · extract_lets +onlyGivenNames v1
    obtain ⟨v3, e, h2⟩ : ∃ y, y = v1 ∧ Kept a (y) := ⟨_, rfl, by
      unfold v1
      split
      · rename_i z4 z5 z6
        refine State.incF_kept ?_
        exact h
      · rename_i z7 z8
        exact h
      ⟩
    rw [← e]
    clear e v1
    refine State.event_kept ?_
    exact h2

theorem State.storePair_kept {a s y1 y2 y3} (h : Kept a s) : Kept a (State.storePair s y1 y2 y3) := by
  unfold State.storePair
  split
  · rename_i z1 z2 z3
    refine State.setWord_kept ?_
    exact h
  · rename_i z4 z5
    exact h

theorem State.setBits_kept {a s y1} (h : Kept a s) : Kept a (State.setBits s y1) := by
  unfold State.setBits
  refine Kept.foldl ?_ ?_
  · exact h
  · intro t1 x2 h3
    split
    · rename_i z4 z5 z6
      refine State.setWord_kept ?_
      exact h3
    · rename_i z7 z8
      exact h3

theorem State.raisePeriod_kept {a s y1 y2 y3} (h : Kept a s) : Kept a (State.raisePeriod s y1 y2 y3) := by
  unfold State.raisePeriod
  refine Kept.ite ?_ ?_
  · refine State.info_kept ?_
    refine State.setF_kept ?_
    exact h
  · exact h

theorem chapterEffect_kept {a y1 y2 y3 s3 s} (h : Kept a s) : Kept a (chapterEffect y1 y2 y3 s3 s) := by
  unfold chapterEffect
  extract_lets +onlyGivenNames v1
  obtain ⟨v2, e⟩ : ∃ y, y = v1 := ⟨_, rfl⟩
  rw [← e]
  clear e v1
  extract_lets +onlyGivenNames v3
  obtain ⟨v4, e⟩ : ∃ y, y = v3 := ⟨_, rfl⟩
  rw [← e]
  clear e v3
  split
  · rename_i z5 z6
    refine Kept.ite ?_ ?_
    · refine State.raisePeriod_kept ?_
      exact h
    · exact h
  · rename_i z7 z8
    refine Kept.ite ?_ ?_
    · exact h
    · refine Kept.ite ?_ ?_
      · refine queueCfgEffect_kept ?_
        exact h
      · refine Kept.ite ?_ ?_
        · refine queuePopEffect_kept ?_
          exact h
        · exact h
  · rename_i z9 z10
    refine Kept.ite ?_ ?_
    · refine colCfgEffect_kept ?_
      exact h
    · exact h
  · rename_i z11 z12
    refine statusClearEffect_kept ?_
    refine basinEffect_kept ?_
    exact h
  · rename_i z13 z14
    refine daleEffect_kept ?_
    exact h
  · rename_i z15 z16
    refine Kept.ite ?_ ?_
    · refine coreCtrlEffect_kept ?_
      exact h
    · exact h
  · rename_i z17 z18
    refine Kept.ite ?_ ?_
    · exact h
    · refine Kept.ite ?_ ?_
      · refine pgTrkEffect_kept ?_
        exact h
      · refine Kept.ite ?_ ?_
        · refine straceEffect_kept ?_
          exact h
        · exact h
  · rename_i z19 z20
    refine Kept.ite ?_ ?_
    · refine hrecEffect_kept ?_
      exact h
    · refine Kept.ite ?_ ?_
      · refine lrecEffect_kept ?_
        exact h
      · refine Kept.ite ?_ ?_
        · exact h
        · refine Kept.ite ?_ ?_
          · refine mapNextEffect_kept ?_
            exact h
          · refine Kept.ite ?_ ?_
            · refine regPend_kept ?_
              exact h
            · exact h
  · rename_i z21 z22
    refine Kept.ite ?_ ?_
    · refine stbaseEffect_kept ?_
      exact h
    · refine Kept.ite ?_ ?_
      · refine ruleEffect_kept ?_
        exact h
      · refine Kept.ite ?_ ?_
        · exact h
        · refine Kept.ite ?_ ?_
          · refine auxLoopOff_kept ?_
            refine loopCfgEffect_kept ?_
            exact h
          · refine Kept.ite ?_ ?_
            · refine fftnEffect_kept ?_
              exact h
            · exact h
  · rename_i z23 z24
    refine posEffect_kept ?_
    exact h
  · rename_i z25 z26
    refine imagingEffect_kept ?_
    exact h
  · rename_i z27 z28
    refine imagingEffect_kept ?_
    exact h
  · rename_i z29 z30
    refine linkEffect_kept ?_
    exact h
  · rename_i z31 z32
    refine linkEffect_kept ?_
    exact h
  · rename_i z33 z34
    refine linkEffect_kept ?_
    exact h
  · rename_i z35 z36
    refine Kept.ite ?_ ?_
    · refine ptpCfgEffect_kept ?_
      exact h
    · exact h
  · rename_i z37 z38
    refine Kept.ite ?_ ?_
    · refine State.raisePeriod_kept ?_
      exact h
    · exact h
  · rename_i z39 z40
    refine Kept.ite ?_ ?_
    · refine auxEffect_kept ?_
      exact h
    · exact h
  · rename_i z41 z42
    refine Kept.ite ?_ ?_
    · refine bootEffect_kept ?_
      exact h
    · exact h
  · rename_i z43 z44
    refine vaultEffect_kept ?_
    exact h
  · rename_i z45 z46 z47 z48 z49 z50 z51 z52 z53 z54 z55 z56 z57 z58 z59 z60 z61 z62 z63 z64 z65
    exact h

theorem State.dataRefused_kept {a s0 y1 s} (h0 : Kept a s0) (h : Kept a s) : Kept a (State.dataRefused s0 y1 s) := by
  unfold State.dataRefused
  extract_lets +onlyGivenNames v1
  obtain ⟨v2, e⟩ : ∃ y, y = v1 := ⟨_, rfl⟩
  rw [← e]
  clear e v1
  extract_lets +onlyGivenNames v3
  obtain ⟨v5, e, h4⟩ : ∃ y, y = v3 ∧ Kept a (y) := ⟨_, rfl, by
    unfold v3
    split
    · rename_i z6 z7
      refine Kept.ite ?_ ?_
      · refine queueRefused_kept ?_
        exact h0
      · exact h0
    · rename_i z8 z9
      refine Kept.ite ?_ ?_
      · exact h0
      · refine Kept.ite ?_ ?_
        · refine loopCfgRefused_kept ?_
          exact h0
        · refine Kept.ite ?_ ?_
          · refine fftnRefused_kept ?_
            exact h0
          · exact h0
    · rename_i z10 z11 z12
      exact h0
    ⟩
  rw [← e]
  clear e v3
  refine State.raise_kept ?_
  exact h4

theorem State.storePairs_kept {a s y1 y2} (h : Kept a s) : Kept a (State.storePairs s y1 y2) := by
  unfold State.storePairs
  refine Kept.foldl ?_ ?_
  · exact h
  · intro t1 x2 h3
    refine State.storePair_kept ?_
    exact h3

theorem State.pairEvents_kept {a s0 s y1 y2} (h0 : Kept a s0) (h : Kept a s) : Kept a (State.pairEvents s0 s y1 y2) := by
  unfold State.pairEvents
  split
  · rename_i z1 z2
    exact h0
  · rename_i z3 z4 z5
    extract_lets +onlyGivenNames v6
    obtain ⟨v8, e, h7⟩ : ∃ y, y = v6 ∧ Kept a (y) := ⟨_, rfl, by
      refine State.collisions_kept ?_
      exact h0
      ⟩
    rw [← e]
    clear e v6
    refine Kept.ite ?_ ?_
    · refine State.raise_kept ?_
      exact h7
    · exact h7

theorem State.cwApply_kept {a s y1 y2 y3} (h : Kept a s) : Kept a (Prod.snd (State.cwApply s y1 y2 y3)) := by
  unfold State.cwApply
  extract_lets +onlyGivenNames v1
  obtain ⟨v2, e⟩ : ∃ y, y = v1 := ⟨_, rfl⟩
  rw [← e]
  clear e v1
  extract_lets +onlyGivenNames v3
  obtain ⟨v4, e⟩ : ∃ y, y = v3 := ⟨_, rfl⟩
  rw [← e]
  clear e v3
  extract_lets +onlyGivenNames v5
  obtain ⟨v7, e, h6⟩ : ∃ y, y = v5 ∧ Kept a (y) := ⟨_, rfl, by
    refine State.storePairs_kept ?_
    exact h
    ⟩
  rw [← e]
  clear e v5
  split
  · rename_i z8 z9
    extract_lets +onlyGivenNames v10
    obtain ⟨v12, e, h11⟩ : ∃ y, y = v10 ∧ Kept a (y) := ⟨_, rfl, by
      refine Kept.foldl ?_ ?_
      · exact h6
      · intro t13 x14 h15
        refine State.pairEvents_kept ?_ ?_
        · exact h15
        · exact h
      ⟩
    rw [← e]
    clear e v10
    extract_lets +onlyGivenNames v16
    obtain ⟨v18, e, h17⟩ : ∃ y, y = v16 ∧ Kept a (y) := ⟨_, rfl, by
      refine Kept.foldl ?_ ?_
      · exact h11
      · intro t19 x20 h21
        refine chapterEffect_kept ?_
        exact h21
      ⟩
    rw [← e]
    clear e v16
    refine Kept.ite ?_ ?_
    · refine ptWriteEffect_kept ?_
      exact h17
    · exact h17
  · rename_i z22 z23 z24 z25 z26 z27
    refine Kept.foldl ?_ ?_
    · refine State.setBits_kept ?_
      exact h
    · intro t28 x29 h30
      refine Kept.ite ?_ ?_
      · refine State.dataRefused_kept ?_ ?_
        · exact h30
        · exact h
      · refine State.cwWarn_kept ?_
        exact h30

theorem cwWrite_kept {a y1 y2 s} (h : Kept a s) : Kept a (cwWrite y1 y2 s) := by
  unfold cwWrite
  split
  · rename_i z1
    exact h
  · rename_i z2 z3 z4
    extract_lets +onlyGivenNames v5
    obtain ⟨v6, e⟩ : ∃ y, y = v5 := ⟨_, rfl⟩
    rw [← e]
    clear e v5
    extract_lets +onlyGivenNames v7
    obtain ⟨v8, e⟩ : ∃ y, y = v7 := ⟨_, rfl⟩
    rw [← e]
    clear e v7
    split
    · rename_i z9 z10 z11 z12 z13
      have h14 := Kept.ofEq (a := a) (fun p => Prod.snd (p)) z13 (by
          refine State.cwApply_kept ?_
          exact h
        )
      beta_reduce at h14
      refine State.refuse_kept ?_
      exact h14
    · rename_i z15 z16 z17
      have h18 := Kept.ofEq (a := a) (fun p => Prod.snd (p)) z17 (by
          refine State.cwApply_kept ?_
          exact h
        )
      beta_reduce at h18
      extract_lets +onlyGivenNames v19
      obtain ⟨v20, e⟩ : ∃ y, y = v19 := ⟨_, rfl⟩
      rw [← e]
      clear e v19
      refine Kept.ite ?_ ?_
      · refine State.respond_kept ?_
        exact h18
      · exact h18

theorem State.whenLastDue_kept {a s y1 f2} (h : Kept a s) (hf2 : ∀ t, Kept a t → Kept a (f2 t)) : Kept a (State.whenLastDue s y1 f2) := by
  unfold State.whenLastDue
  split
  · rename_i z1
    exact h
  · rename_i z2 z3 z4
    extract_lets +onlyGivenNames v5
    obtain ⟨v6, e⟩ : ∃ y, y = v5 := ⟨_, rfl⟩
    rw [← e]
    clear e v5
    refine Kept.ite ?_ ?_
    · refine State.setHeld_kept ?_
      exact h
    · apply hf2
      exact h

theorem cww_kept {a y1 y2 s} (h : Kept a s) : Kept a (cww y1 y2 s) := by
  unfold cww
  split
  · rename_i z1
    exact h
  · rename_i z2 z3 z4
    refine Kept.ite ?_ ?_
    · exact h
    · refine State.arrive_kept ?_ ?_
      · exact h
      · intro x5 h6
        split
        · rename_i z7 z8 z9
          refine State.refuse_kept ?_
          refine State.setBits_kept ?_
          exact h6
        · rename_i z10 z11
          refine State.whenLastDue_kept ?_ ?_
          · exact h6
          · intro x12 h13
            refine cwWrite_kept ?_
            exact h13

end Sys2Proof.Machine
end

