-- ==== Sys2Proof/Laws/KeptRegisterCommands.lean ====
section
/-! SUPPORT. Every operation of Machine/RegisterCommands.lean keeps the queue and the canonical tables (`Kept`). -/

set_option linter.unusedVariables false

namespace Sys2Proof.Machine

open Sys2Proof

theorem State.cwwOf_kept {a s y1 y2 y3} (h : Kept a s) : Kept a (State.cwwOf s y1 y2 y3) := by
  unfold State.cwwOf
  refine cww_kept ?_
  exact h

theorem State.cwrAt_kept {a s y1 y2} (h : Kept a s) : Kept a (State.cwrAt s y1 y2) := by
  unfold State.cwrAt
  refine cwr_kept ?_
  exact h

theorem State.cwwField_kept {a s y1 y2 y3 y4} (h : Kept a s) : Kept a (State.cwwField s y1 y2 y3 y4) := by
  unfold State.cwwField
  refine State.cwwOf_kept ?_
  exact h

theorem State.setHand_kept {a s y1 y2} (h : Kept a s) : Kept a (State.setHand s y1 y2) := by
  unfold State.setHand
  refine State.setQueue_kept ?_
  exact h

theorem colFaultClear_kept {a y1 y2 y3 s} (h : Kept a s) : Kept a (colFaultClear y1 y2 y3 s) := by
  unfold colFaultClear
  extract_lets +onlyGivenNames v1
  obtain ⟨v2, e⟩ : ∃ y, y = v1 := ⟨_, rfl⟩
  rw [← e]
  clear e v1
  split
  · rename_i z3
    refine State.cwwOf_kept ?_
    exact h
  · rename_i z4 z5
    extract_lets +onlyGivenNames v6
    obtain ⟨v7, e⟩ : ∃ y, y = v6 := ⟨_, rfl⟩
    rw [← e]
    clear e v6
    refine State.cwwOf_kept ?_
    refine colAccept_kept ?_
    exact h

end Sys2Proof.Machine
end

