-- ==== Sys2Proof/Laws/KeptSync.lean ====
section
/-! SUPPORT. Every operation of Machine/Sync.lean keeps the queue and the canonical tables (`Kept`). -/

set_option linter.unusedVariables false

namespace Sys2Proof.Machine

open Sys2Proof

theorem actHeld_kept {a y1 s} (h : Kept a s) : Kept a (actHeld y1 s) := by
  unfold actHeld
  split
  · rename_i z1
    exact h
  · rename_i z2 z3 z4
    extract_lets +onlyGivenNames v5
    obtain ⟨v6, e⟩ : ∃ y, y = v5 := ⟨_, rfl⟩
    rw [← e]
    clear e v5
    refine Kept.ite ?_ ?_
    · refine Kept.ite ?_ ?_
      · refine memRead_kept ?_
        exact h
      · refine memWrite_kept ?_
        exact h
    · refine Kept.ite ?_ ?_
      · refine Kept.ite ?_ ?_
        · refine cwRead_kept ?_
          exact h
        · refine cwWrite_kept ?_
          exact h
      · refine Kept.ite ?_ ?_
        · refine Kept.ite ?_ ?_
          · split
            · rename_i z7 z8 z9 z10
              have h11 := Kept.ofEq (a := a) (fun p => Prod.snd (p)) z10 (by
                  refine State.free_kept ?_
                  exact h
                )
              beta_reduce at h11
              refine gorgeAbortAct_kept ?_
              exact h11
          · refine gorgeSubmit_kept ?_
            exact h
        · refine Kept.ite ?_ ?_
          · refine State.auxStopAt_kept ?_
            exact h
          · refine Kept.ite ?_ ?_
            · refine Kept.ite ?_ ?_
              · refine pgCmdAct_kept ?_
                exact h
              · refine trackingAct_kept ?_
                exact h
            · refine Kept.ite ?_ ?_
              · refine trimAct_kept ?_
                exact h
              · refine Kept.ite ?_ ?_
                · refine jogAct_kept ?_
                  exact h
                · exact h

theorem State.beacon_kept {a s y1} (h : Kept a s) : Kept a (State.beacon s y1) := by
  unfold State.beacon
  refine State.event_kept ?_
  exact h

theorem syncBeacon_kept {a s} (h : Kept a s) : Kept a (syncBeacon s) := by
  unfold syncBeacon
  extract_lets +onlyGivenNames v1
  obtain ⟨v3, e, h2⟩ : ∃ y, y = v1 ∧ Kept a (y) := ⟨_, rfl, by
    refine State.reach_kept ?_
    exact h
    ⟩
  rw [← e]
  clear e v1
  extract_lets +onlyGivenNames v4
  obtain ⟨v6, e, h5⟩ : ∃ y, y = v4 ∧ Kept a (y) := ⟨_, rfl, by
    refine forEach_kept ?_ ?_
    · exact h2
    · intro x7 x8 h9
      refine State.beacon_kept ?_
      exact h9
    ⟩
  rw [← e]
  clear e v4
  extract_lets +onlyGivenNames v10
  obtain ⟨v11, e⟩ : ∃ y, y = v10 := ⟨_, rfl⟩
  rw [← e]
  clear e v10
  extract_lets +onlyGivenNames v12
  obtain ⟨v14, e, h13⟩ : ∃ y, y = v12 ∧ Kept a (y) := ⟨_, rfl, by
    refine State.setHeld_kept ?_
    exact h5
    ⟩
  rw [← e]
  clear e v12
  extract_lets +onlyGivenNames v15
  obtain ⟨v17, e, h16⟩ : ∃ y, y = v15 ∧ Kept a (y) := ⟨_, rfl, by
    refine forEach_kept ?_ ?_
    · exact h13
    · intro x18 x19 h20
      refine State.applyPassed_kept ?_
      exact h20
    ⟩
  rw [← e]
  clear e v15
  extract_lets +onlyGivenNames v21
  obtain ⟨v23, e, h22⟩ : ∃ y, y = v21 ∧ Kept a (y) := ⟨_, rfl, by
    refine forEach_kept ?_ ?_
    · refine State.dropPassed_kept ?_
      exact h16
    · intro x24 x25 h26
      refine actHeld_kept ?_
      exact h26
    ⟩
  rw [← e]
  clear e v21
  refine forEach_kept ?_ ?_
  · refine servoSync_kept ?_
    exact h22
  · intro x27 x28 h29
    refine Kept.ite ?_ ?_
    · refine zResume_kept ?_
      exact h29
    · exact h29

end Sys2Proof.Machine
end

