-- ==== Sys2Proof/Laws/KeptTap.lean ====
section
/-! SUPPORT. Every operation of Machine/Tap.lean keeps the queue and the canonical tables (`Kept`). -/

set_option linter.unusedVariables false

namespace Sys2Proof.Machine

open Sys2Proof

theorem State.setTapOut_kept {a s y1} (h : Kept a s) : Kept a (State.setTapOut s y1) := by
  unfold State.setTapOut
  refine State.setBoot_kept ?_
  exact h

theorem tapAccess_kept {a y1 s} (h : Kept a s) : Kept a (tapAccess y1 s) := by
  unfold tapAccess
  split
  · rename_i z1 z2
    refine State.setTapOut_kept ?_
    exact h
  · rename_i z3
    split
    · rename_i z4 z5 z6 z7
      have h8 := Kept.ofEq (a := a) (fun p => Prod.snd (p)) z7 (by
          refine State.free_kept ?_
          exact h
        )
      beta_reduce at h8
      refine State.setTapOut_kept ?_
      exact h8
  · rename_i z9
    split
    · rename_i z10 z11 z12 z13
      have h14 := Kept.ofEq (a := a) (fun p => Prod.snd (p)) z13 (by
          refine State.free_kept ?_
          exact h
        )
      beta_reduce at h14
      refine State.setTapOut_kept ?_
      exact h14
  · rename_i z15 z16
    refine State.setTapOut_kept ?_
    exact h
  · rename_i z17 z18
    extract_lets +onlyGivenNames v19
    obtain ⟨v20, e⟩ : ∃ y, y = v19 := ⟨_, rfl⟩
    rw [← e]
    clear e v19
    refine Kept.ite ?_ ?_
    · refine State.eccRead_kept ?_
      refine State.setTapOut_kept ?_
      exact h
    · exact h
  · rename_i z21 z22 z23
    extract_lets +onlyGivenNames v24
    obtain ⟨v25, e⟩ : ∃ y, y = v24 := ⟨_, rfl⟩
    rw [← e]
    clear e v24
    refine Kept.ite ?_ ?_
    · refine State.st_kept ?_
      exact h
    · exact h
  · rename_i z26 z27
    refine Kept.ite ?_ ?_
    · exact h
    · split
      · rename_i z28 z29 z30 z31
        have h32 := Kept.ofEq (a := a) (fun p => Prod.snd (p)) z31 (by
            refine State.cwReadAt_kept ?_
            exact h
          )
        beta_reduce at h32
        refine State.setTapOut_kept ?_
        exact h32
      · rename_i z33 z34 z35 z36
        have h37 := Kept.ofEq (a := a) (fun p => Prod.snd (p)) z36 (by
            refine State.cwReadAt_kept ?_
            exact h
          )
        beta_reduce at h37
        exact h37
  · rename_i z38 z39 z40
    refine Kept.ite ?_ ?_
    · exact h
    · split
      · rename_i z41 z42 z43 z44
        have h45 := Kept.ofEq (a := a) (fun p => Prod.snd (p)) z44 (by
            refine State.free_kept ?_
            exact h
          )
        beta_reduce at h45
        extract_lets +onlyGivenNames v46
        obtain ⟨v47, e⟩ : ∃ y, y = v46 := ⟨_, rfl⟩
        rw [← e]
        clear e v46
        extract_lets +onlyGivenNames v48
        obtain ⟨v49, e⟩ : ∃ y, y = v48 := ⟨_, rfl⟩
        rw [← e]
        clear e v48
        refine State.cwApply_kept ?_
        exact h45
  · rename_i z50 z51
    refine Kept.ite ?_ ?_
    · refine coreHalt_kept ?_
      exact h
    · exact h
  · rename_i z52 z53
    refine Kept.ite ?_ ?_
    · refine coreStep_kept ?_
      exact h
    · exact h

end Sys2Proof.Machine
end

