-- ==== Sys2Proof/Laws/KeptVctCommands.lean ====
section
/-! SUPPORT. Every operation of Machine/VctCommands.lean keeps the queue and the canonical tables (`Kept`). -/

set_option linter.unusedVariables false

namespace Sys2Proof.Machine

open Sys2Proof

theorem State.setSlotKey_kept {a s y1 y2} (h : Kept a s) : Kept a (State.setSlotKey s y1 y2) := by
  unfold State.setSlotKey
  refine State.setKeySlots_kept ?_ ?_
  · exact h
  · intro x1
    exact twf_tset _ _ x1

theorem State.setRxWin_kept {a s y1 y2} (h : Kept a s) : Kept a (State.setRxWin s y1 y2) := by
  unfold State.setRxWin
  refine State.setWins_kept ?_ ?_
  · exact h
  · intro x1
    exact twf_tset _ _ x1

theorem State.setWinState_kept {a s y1 y2} (h : Kept a s) : Kept a (State.setWinState s y1 y2) := by
  unfold State.setWinState
  refine State.setF_kept ?_
  exact h

theorem State.vctDeny_kept {a s y1 y2 y3} (h : Kept a s) : Kept a (State.vctDeny s y1 y2 y3) := by
  unfold State.vctDeny
  refine State.sendOut_kept ?_
  exact h

theorem State.vctDiscard_kept {a s y1} (h : Kept a s) : Kept a (State.vctDiscard s y1) := by
  unfold State.vctDiscard
  extract_lets +onlyGivenNames v1
  obtain ⟨v2, e⟩ : ∃ y, y = v1 := ⟨_, rfl⟩
  rw [← e]
  clear e v1
  refine Kept.ite ?_ ?_
  · refine State.setSlotKey_kept ?_
    exact h
  · extract_lets +onlyGivenNames v3
    obtain ⟨v5, e, h4⟩ : ∃ y, y = v3 ∧ Kept a (y) := ⟨_, rfl, by
      refine State.setSlotKey_kept ?_
      exact h
      ⟩
    rw [← e]
    clear e v3
    refine Kept.ite ?_ ?_
    · refine State.raise_kept ?_
      exact h4
    · exact h4

theorem vctPing_kept {a y1 s} (h : Kept a s) : Kept a (Prod.snd (Prod.snd (vctPing y1 s))) := by
  unfold vctPing
  refine Kept.iteOf (fun p => Prod.snd (Prod.snd (p))) ?_ ?_
  · exact h
  · exact h

theorem vctStatus_kept {a y1 s} (h : Kept a s) : Kept a (Prod.snd (Prod.snd (vctStatus y1 s))) := by
  unfold vctStatus
  refine Kept.iteOf (fun p => Prod.snd (Prod.snd (p))) ?_ ?_
  · exact h
  · exact h

theorem vctReads_kept {a y1 y2 y3 y4 s} (h : Kept a s) : Kept a (Prod.snd (Prod.snd (vctReads y1 y2 y3 y4 s))) := by
  induction y3 generalizing y1 y2 y4 s
  · unfold vctReads
    exact h
  · rename_i w1 w2 w3
    unfold vctReads
    extract_lets +onlyGivenNames v4
    obtain ⟨v5, e⟩ : ∃ y, y = v4 := ⟨_, rfl⟩
    rw [← e]
    clear e v4
    refine Kept.iteOf (fun p => Prod.snd (Prod.snd (p))) ?_ ?_
    · refine State.info_kept ?_
      exact h
    · split
      · rename_i z6 z7 z8 z9
        have h10 := Kept.ofEq (a := a) (fun p => Prod.snd (p)) z9 (by
            refine State.cwReadAt_kept ?_
            exact h
          )
        beta_reduce at h10
        refine State.info_kept ?_
        exact h10
      · rename_i z11 z12 z13 z14
        have h15 := Kept.ofEq (a := a) (fun p => Prod.snd (p)) z14 (by
            refine State.cwReadAt_kept ?_
            exact h
          )
        beta_reduce at h15
        apply w3
        exact h15

theorem vctRead_kept {a y1 s} (h : Kept a s) : Kept a (Prod.snd (Prod.snd (vctRead y1 s))) := by
  unfold vctRead
  refine Kept.iteOf (fun p => Prod.snd (Prod.snd (p))) ?_ ?_
  · exact h
  · split
    · rename_i z1 z2 z3 z4
      have h5 := Kept.ofEq (a := a) (fun p => Prod.snd (p)) z4 (by
          refine State.free_kept ?_
          exact h
        )
      beta_reduce at h5
      refine vctReads_kept ?_
      exact h5

theorem vctWrite_kept {a y1 s} (h : Kept a s) : Kept a (Prod.snd (Prod.snd (vctWrite y1 s))) := by
  unfold vctWrite
  refine Kept.iteOf (fun p => Prod.snd (Prod.snd (p))) ?_ ?_
  · exact h
  · split
    · rename_i z1 z2 z3 z4
      have h5 := Kept.ofEq (a := a) (fun p => Prod.snd (p)) z4 (by
          refine State.free_kept ?_
          exact h
        )
      beta_reduce at h5
      split
      · rename_i z6 z7 z8 z9 z10
        have h11 := Kept.ofEq (a := a) (fun p => Prod.snd (p)) z10 (by
            refine State.cwApply_kept ?_
            exact h5
          )
        beta_reduce at h11
        refine State.info_kept ?_
        exact h11
      · rename_i z12 z13 z14
        have h15 := Kept.ofEq (a := a) (fun p => Prod.snd (p)) z14 (by
            refine State.cwApply_kept ?_
            exact h5
          )
        beta_reduce at h15
        exact h15

theorem vctRxopen_kept {a y1 s} (h : Kept a s) : Kept a (Prod.snd (Prod.snd (vctRxopen y1 s))) := by
  unfold vctRxopen
  extract_lets +onlyGivenNames v1
  obtain ⟨v2, e⟩ : ∃ y, y = v1 := ⟨_, rfl⟩
  rw [← e]
  clear e v1
  extract_lets +onlyGivenNames v3
  obtain ⟨v4, e⟩ : ∃ y, y = v3 := ⟨_, rfl⟩
  rw [← e]
  clear e v3
  extract_lets +onlyGivenNames v5
  obtain ⟨v6, e⟩ : ∃ y, y = v5 := ⟨_, rfl⟩
  rw [← e]
  clear e v5
  extract_lets +onlyGivenNames v7
  obtain ⟨v8, e⟩ : ∃ y, y = v7 := ⟨_, rfl⟩
  rw [← e]
  clear e v7
  extract_lets +onlyGivenNames v9
  obtain ⟨v10, e⟩ : ∃ y, y = v9 := ⟨_, rfl⟩
  rw [← e]
  clear e v9
  extract_lets +onlyGivenNames v11
  obtain ⟨v12, e⟩ : ∃ y, y = v11 := ⟨_, rfl⟩
  rw [← e]
  clear e v11
  refine Kept.iteOf (fun p => Prod.snd (Prod.snd (p))) ?_ ?_
  · exact h
  · refine Kept.iteOf (fun p => Prod.snd (Prod.snd (p))) ?_ ?_
    · exact h
    · refine Kept.iteOf (fun p => Prod.snd (Prod.snd (p))) ?_ ?_
      · exact h
      · refine Kept.iteOf (fun p => Prod.snd (Prod.snd (p))) ?_ ?_
        · exact h
        · extract_lets +onlyGivenNames v13
          obtain ⟨v15, e, h14⟩ : ∃ y, y = v13 ∧ Kept a (y) := ⟨_, rfl, by
            refine State.clearRange_kept ?_
            exact h
            ⟩
          rw [← e]
          clear e v13
          extract_lets +onlyGivenNames v16
          obtain ⟨v18, e, h17⟩ : ∃ y, y = v16 ∧ Kept a (y) := ⟨_, rfl, by
            refine State.setF_kept ?_
            refine State.setF_kept ?_
            refine State.setF_kept ?_
            exact h14
            ⟩
          rw [← e]
          clear e v16
          refine State.setRxWin_kept ?_
          refine State.setWinState_kept ?_
          refine State.setF_kept ?_
          exact h17

theorem vctRxclose_kept {a y1 s} (h : Kept a s) : Kept a (Prod.snd (Prod.snd (vctRxclose y1 s))) := by
  unfold vctRxclose
  extract_lets +onlyGivenNames v1
  obtain ⟨v2, e⟩ : ∃ y, y = v1 := ⟨_, rfl⟩
  rw [← e]
  clear e v1
  refine Kept.iteOf (fun p => Prod.snd (Prod.snd (p))) ?_ ?_
  · exact h
  · refine Kept.iteOf (fun p => Prod.snd (Prod.snd (p))) ?_ ?_
    · exact h
    · refine Kept.iteOf (fun p => Prod.snd (Prod.snd (p))) ?_ ?_
      · exact h
      · split
        · rename_i z3 z4 z5
          exact h
        · rename_i z6 z7
          refine State.setRxWin_kept ?_
          refine State.setWinState_kept ?_
          exact h

theorem vctRxabort_kept {a y1 s} (h : Kept a s) : Kept a (Prod.snd (Prod.snd (vctRxabort y1 s))) := by
  unfold vctRxabort
  extract_lets +onlyGivenNames v1
  obtain ⟨v2, e⟩ : ∃ y, y = v1 := ⟨_, rfl⟩
  rw [← e]
  clear e v1
  refine Kept.iteOf (fun p => Prod.snd (Prod.snd (p))) ?_ ?_
  · exact h
  · refine Kept.iteOf (fun p => Prod.snd (Prod.snd (p))) ?_ ?_
    · exact h
    · refine Kept.iteOf (fun p => Prod.snd (Prod.snd (p))) ?_ ?_
      · exact h
      · refine State.setWinState_kept ?_
        exact h

theorem vctRxstat_kept {a y1 s} (h : Kept a s) : Kept a (Prod.snd (Prod.snd (vctRxstat y1 s))) := by
  unfold vctRxstat
  extract_lets +onlyGivenNames v1
  obtain ⟨v2, e⟩ : ∃ y, y = v1 := ⟨_, rfl⟩
  rw [← e]
  clear e v1
  refine Kept.iteOf (fun p => Prod.snd (Prod.snd (p))) ?_ ?_
  · exact h
  · refine Kept.iteOf (fun p => Prod.snd (Prod.snd (p))) ?_ ?_
    · exact h
    · split
      · rename_i z3 z4 z5
        exact h
      · rename_i z6 z7
        split
        · rename_i z8 z9 z10 z11
          have h12 := Kept.ofEq (a := a) (fun p => Prod.snd (p)) z11 (by
              refine State.free_kept ?_
              exact h
            )
          beta_reduce at h12
          exact h12

theorem State.s0Enqueue_kept {a s y1 y2 y3 y4} (h : Kept a s) : Kept a (State.s0Enqueue s y1 y2 y3 y4) := by
  unfold State.s0Enqueue
  extract_lets +onlyGivenNames v1
  obtain ⟨v3, e, h2⟩ : ∃ y, y = v1 ∧ Kept a (y) := ⟨_, rfl, by
    refine State.send_kept ?_
    exact h
    ⟩
  rw [← e]
  clear e v1
  split
  · rename_i z4 z5 z6
    refine queueEnqueue_kept ?_
    exact h2
  · rename_i z7 z8
    exact h2

theorem State.s0Message_kept {a s y1 y2 y3} (h : Kept a s) : Kept a (State.s0Message s y1 y2 y3) := by
  induction y3 generalizing s y1 y2
  · unfold State.s0Message
    exact h
  · rename_i w1 w2 w3
    unfold State.s0Message
    apply w3
    refine State.s0Enqueue_kept ?_
    exact h

theorem vctDeliver_kept {a y1 s} (h : Kept a s) : Kept a (Prod.snd (Prod.snd (vctDeliver y1 s))) := by
  unfold vctDeliver
  extract_lets +onlyGivenNames v1
  obtain ⟨v2, e⟩ : ∃ y, y = v1 := ⟨_, rfl⟩
  rw [← e]
  clear e v1
  extract_lets +onlyGivenNames v3
  obtain ⟨v4, e⟩ : ∃ y, y = v3 := ⟨_, rfl⟩
  rw [← e]
  clear e v3
  refine Kept.iteOf (fun p => Prod.snd (Prod.snd (p))) ?_ ?_
  · exact h
  · refine Kept.iteOf (fun p => Prod.snd (Prod.snd (p))) ?_ ?_
    · exact h
    · extract_lets +onlyGivenNames v5
      obtain ⟨v6, e⟩ : ∃ y, y = v5 := ⟨_, rfl⟩
      rw [← e]
      clear e v5
      extract_lets +onlyGivenNames v7
      obtain ⟨v8, e⟩ : ∃ y, y = v7 := ⟨_, rfl⟩
      rw [← e]
      clear e v7
      refine Kept.iteOf (fun p => Prod.snd (Prod.snd (p))) ?_ ?_
      · exact h
      · refine Kept.iteOf (fun p => Prod.snd (Prod.snd (p))) ?_ ?_
        · exact h
        · refine State.s0Message_kept ?_
          exact h

theorem vctSubscribe_kept {a y1 y2 s} (h : Kept a s) : Kept a (Prod.snd (Prod.snd (vctSubscribe y1 y2 s))) := by
  unfold vctSubscribe
  extract_lets +onlyGivenNames v1
  obtain ⟨v2, e⟩ : ∃ y, y = v1 := ⟨_, rfl⟩
  rw [← e]
  clear e v1
  refine Kept.iteOf (fun p => Prod.snd (Prod.snd (p))) ?_ ?_
  · exact h
  · refine Kept.iteOf (fun p => Prod.snd (Prod.snd (p))) ?_ ?_
    · exact h
    · extract_lets +onlyGivenNames v3
      obtain ⟨v5, e, h4⟩ : ∃ y, y = v3 ∧ Kept a (y) := ⟨_, rfl, by
        refine State.setF_kept ?_
        refine State.setF_kept ?_
        refine State.setF_kept ?_
        exact h
        ⟩
      rw [← e]
      clear e v3
      extract_lets +onlyGivenNames v6
      obtain ⟨v7, e⟩ : ∃ y, y = v6 := ⟨_, rfl⟩
      rw [← e]
      clear e v6
      extract_lets +onlyGivenNames v8
      obtain ⟨v10, e, h9⟩ : ∃ y, y = v8 ∧ Kept a (y) := ⟨_, rfl, by
        refine State.setHost_kept ?_
        exact h4
        ⟩
      rw [← e]
      clear e v8
      refine forEach_kept ?_ ?_
      · exact h9
      · intro x11 x12 h13
        extract_lets +onlyGivenNames v14
        obtain ⟨v16, e, h15⟩ : ∃ y, y = v14 ∧ Kept a (y) := ⟨_, rfl, by
          refine State.upRewind_kept ?_
          exact h13
          ⟩
        rw [← e]
        clear e v14
        refine State.upUpdate_kept ?_
        refine Kept.ite ?_ ?_
        · refine State.setF_kept ?_
          refine State.setUp_kept ?_
          exact h15
        · exact h15

theorem State.loadSlot_kept {a s y1 y2 y3} (h : Kept a s) : Kept a (State.loadSlot s y1 y2 y3) := by
  unfold State.loadSlot
  extract_lets +onlyGivenNames v1
  obtain ⟨v2, e⟩ : ∃ y, y = v1 := ⟨_, rfl⟩
  rw [← e]
  clear e v1
  extract_lets +onlyGivenNames v3
  obtain ⟨v5, e, h4⟩ : ∃ y, y = v3 ∧ Kept a (y) := ⟨_, rfl, by
    refine State.setFlash_kept ?_
    exact h
    ⟩
  rw [← e]
  clear e v3
  extract_lets +onlyGivenNames v6
  obtain ⟨v8, e, h7⟩ : ∃ y, y = v6 ∧ Kept a (y) := ⟨_, rfl, by
    refine State.setF_kept ?_
    refine State.setF_kept ?_
    refine State.setWord_kept ?_
    exact h4
    ⟩
  rw [← e]
  clear e v6
  extract_lets +onlyGivenNames v9
  obtain ⟨v11, e, h10⟩ : ∃ y, y = v9 ∧ Kept a (y) := ⟨_, rfl, by
    refine State.setSlotKey_kept ?_
    exact h7
    ⟩
  rw [← e]
  clear e v9
  extract_lets +onlyGivenNames v12
  obtain ⟨v14, e, h13⟩ : ∃ y, y = v12 ∧ Kept a (y) := ⟨_, rfl, by
    refine Kept.ite ?_ ?_
    · refine State.setF_kept ?_
      refine State.setF_kept ?_
      exact h10
    · exact h10
    ⟩
  rw [← e]
  clear e v12
  refine Kept.ite ?_ ?_
  · refine State.setF_kept ?_
    exact h13
  · exact h13

theorem vctKeyset_kept {a y1 s} (h : Kept a s) : Kept a (Prod.snd (Prod.snd (vctKeyset y1 s))) := by
  unfold vctKeyset
  extract_lets +onlyGivenNames v1
  obtain ⟨v2, e⟩ : ∃ y, y = v1 := ⟨_, rfl⟩
  rw [← e]
  clear e v1
  extract_lets +onlyGivenNames v3
  obtain ⟨v4, e⟩ : ∃ y, y = v3 := ⟨_, rfl⟩
  rw [← e]
  clear e v3
  refine Kept.iteOf (fun p => Prod.snd (Prod.snd (p))) ?_ ?_
  · exact h
  · refine Kept.iteOf (fun p => Prod.snd (Prod.snd (p))) ?_ ?_
    · exact h
    · extract_lets +onlyGivenNames v5
      obtain ⟨v6, e⟩ : ∃ y, y = v5 := ⟨_, rfl⟩
      rw [← e]
      clear e v5
      extract_lets +onlyGivenNames v7
      obtain ⟨v8, e⟩ : ∃ y, y = v7 := ⟨_, rfl⟩
      rw [← e]
      clear e v7
      split
      · rename_i z9 z10 z11
        refine State.loadSlot_kept ?_
        exact h
      · rename_i z12 z13
        refine State.record7_kept ?_
        refine State.loadSlot_kept ?_
        exact h

theorem vctKeyclr_kept {a y1 s} (h : Kept a s) : Kept a (Prod.snd (Prod.snd (vctKeyclr y1 s))) := by
  unfold vctKeyclr
  extract_lets +onlyGivenNames v1
  obtain ⟨v2, e⟩ : ∃ y, y = v1 := ⟨_, rfl⟩
  rw [← e]
  clear e v1
  refine Kept.iteOf (fun p => Prod.snd (Prod.snd (p))) ?_ ?_
  · exact h
  · refine Kept.iteOf (fun p => Prod.snd (Prod.snd (p))) ?_ ?_
    · exact h
    · refine State.loadSlot_kept ?_
      exact h

theorem vctTimeset_kept {a y1 s} (h : Kept a s) : Kept a (Prod.snd (Prod.snd (vctTimeset y1 s))) := by
  unfold vctTimeset
  extract_lets +onlyGivenNames v1
  obtain ⟨v2, e⟩ : ∃ y, y = v1 := ⟨_, rfl⟩
  rw [← e]
  clear e v1
  extract_lets +onlyGivenNames v3
  obtain ⟨v4, e⟩ : ∃ y, y = v3 := ⟨_, rfl⟩
  rw [← e]
  clear e v3
  refine Kept.iteOf (fun p => Prod.snd (Prod.snd (p))) ?_ ?_
  · exact h
  · refine Kept.iteOf (fun p => Prod.snd (Prod.snd (p))) ?_ ?_
    · exact h
    · refine Kept.iteOf (fun p => Prod.snd (Prod.snd (p))) ?_ ?_
      · exact h
      · refine ptWriteEffect_kept ?_
        refine State.putPt_kept ?_
        exact h

theorem vctFwstage_kept {a y1 s} (h : Kept a s) : Kept a (Prod.snd (Prod.snd (vctFwstage y1 s))) := by
  unfold vctFwstage
  extract_lets +onlyGivenNames v1
  obtain ⟨v2, e⟩ : ∃ y, y = v1 := ⟨_, rfl⟩
  rw [← e]
  clear e v1
  refine Kept.iteOf (fun p => Prod.snd (Prod.snd (p))) ?_ ?_
  · exact h
  · refine Kept.iteOf (fun p => Prod.snd (Prod.snd (p))) ?_ ?_
    · exact h
    · refine Kept.iteOf (fun p => Prod.snd (Prod.snd (p))) ?_ ?_
      · exact h
      · refine Kept.iteOf (fun p => Prod.snd (Prod.snd (p))) ?_ ?_
        · exact h
        · refine State.setHost_kept ?_
          exact h

theorem vctResetJudge_kept {a y1 s} (h : Kept a s) : Kept a (Prod.snd (Prod.snd (vctResetJudge y1 s))) := by
  unfold vctResetJudge
  extract_lets +onlyGivenNames v1
  obtain ⟨v2, e⟩ : ∃ y, y = v1 := ⟨_, rfl⟩
  rw [← e]
  clear e v1
  refine Kept.iteOf (fun p => Prod.snd (Prod.snd (p))) ?_ ?_
  · exact h
  · refine Kept.iteOf (fun p => Prod.snd (Prod.snd (p))) ?_ ?_
    · exact h
    · refine Kept.iteOf (fun p => Prod.snd (Prod.snd (p))) ?_ ?_
      · exact h
      · exact h

theorem vctDaleup_kept {a y1 s} (h : Kept a s) : Kept a (Prod.snd (Prod.snd (vctDaleup y1 s))) := by
  unfold vctDaleup
  refine Kept.iteOf (fun p => Prod.snd (Prod.snd (p))) ?_ ?_
  · exact h
  · refine Kept.iteOf (fun p => Prod.snd (Prod.snd (p))) ?_ ?_
    · exact h
    · extract_lets +onlyGivenNames v1
      obtain ⟨v3, e, h2⟩ : ∃ y, y = v1 ∧ Kept a (y) := ⟨_, rfl, by
        refine State.setF_kept ?_
        refine State.setF_kept ?_
        exact h
        ⟩
      rw [← e]
      clear e v1
      extract_lets +onlyGivenNames v4
      obtain ⟨v5, e⟩ : ∃ y, y = v4 := ⟨_, rfl⟩
      rw [← e]
      clear e v4
      extract_lets +onlyGivenNames v6
      obtain ⟨v7, e⟩ : ∃ y, y = v6 := ⟨_, rfl⟩
      rw [← e]
      clear e v6
      extract_lets +onlyGivenNames v8
      obtain ⟨v9, e⟩ : ∃ y, y = v8 := ⟨_, rfl⟩
      rw [← e]
      clear e v8
      extract_lets +onlyGivenNames v10
      obtain ⟨v11, e⟩ : ∃ y, y = v10 := ⟨_, rfl⟩
      rw [← e]
      clear e v10
      refine Kept.iteOf (fun p => Prod.snd (Prod.snd (p))) ?_ ?_
      · refine State.evtComplete_kept ?_
        refine State.setF_kept ?_
        refine State.setF_kept ?_
        exact h2
      · refine Kept.iteOf (fun p => Prod.snd (Prod.snd (p))) ?_ ?_
        · refine State.upQueue_kept ?_
          exact h2
        · refine State.upQueue_kept ?_
          refine State.upQueue_kept ?_
          exact h2

theorem vctExecute_kept {a y1 y2 s} (h : Kept a s) : Kept a (Prod.snd (Prod.snd (vctExecute y1 y2 s))) := by
  unfold vctExecute
  extract_lets +onlyGivenNames v1
  obtain ⟨v3, e, h2⟩ : ∃ y, y = v1 ∧ Kept a (y) := ⟨_, rfl, by
    refine State.incF_kept ?_
    exact h
    ⟩
  rw [← e]
  clear e v1
  refine Kept.iteOf (fun p => Prod.snd (Prod.snd (p))) ?_ ?_
  · refine vctPing_kept ?_
    exact h2
  · refine Kept.iteOf (fun p => Prod.snd (Prod.snd (p))) ?_ ?_
    · refine vctStatus_kept ?_
      exact h2
    · refine Kept.iteOf (fun p => Prod.snd (Prod.snd (p))) ?_ ?_
      · refine vctRead_kept ?_
        exact h2
      · refine Kept.iteOf (fun p => Prod.snd (Prod.snd (p))) ?_ ?_
        · refine vctWrite_kept ?_
          exact h2
        · refine Kept.iteOf (fun p => Prod.snd (Prod.snd (p))) ?_ ?_
          · refine vctRxopen_kept ?_
            exact h2
          · refine Kept.iteOf (fun p => Prod.snd (Prod.snd (p))) ?_ ?_
            · refine vctRxclose_kept ?_
              exact h2
            · refine Kept.iteOf (fun p => Prod.snd (Prod.snd (p))) ?_ ?_
              · refine vctRxabort_kept ?_
                exact h2
              · refine Kept.iteOf (fun p => Prod.snd (Prod.snd (p))) ?_ ?_
                · refine vctRxstat_kept ?_
                  exact h2
                · refine Kept.iteOf (fun p => Prod.snd (Prod.snd (p))) ?_ ?_
                  · refine vctDeliver_kept ?_
                    exact h2
                  · refine Kept.iteOf (fun p => Prod.snd (Prod.snd (p))) ?_ ?_
                    · refine vctSubscribe_kept ?_
                      exact h2
                    · refine Kept.iteOf (fun p => Prod.snd (Prod.snd (p))) ?_ ?_
                      · refine vctKeyset_kept ?_
                        exact h2
                      · refine Kept.iteOf (fun p => Prod.snd (Prod.snd (p))) ?_ ?_
                        · refine vctKeyclr_kept ?_
                          exact h2
                        · refine Kept.iteOf (fun p => Prod.snd (Prod.snd (p))) ?_ ?_
                          · refine vctTimeset_kept ?_
                            exact h2
                          · refine Kept.iteOf (fun p => Prod.snd (Prod.snd (p))) ?_ ?_
                            · refine vctFwstage_kept ?_
                              exact h2
                            · refine Kept.iteOf (fun p => Prod.snd (Prod.snd (p))) ?_ ?_
                              · refine vctResetJudge_kept ?_
                                exact h2
                              · refine Kept.iteOf (fun p => Prod.snd (Prod.snd (p))) ?_ ?_
                                · refine vctDaleup_kept ?_
                                  exact h2
                                · exact h2

theorem vctRun_kept {a y1 y2 y3 s} (h : Kept a s) : Kept a (vctRun y1 y2 y3 s) := by
  unfold vctRun
  split
  · rename_i z1 z2 z3 z4 z5
    have h6 := Kept.ofEq (a := a) (fun p => Prod.snd (Prod.snd (p))) z5 (by
        refine vctExecute_kept ?_
        exact h
      )
    beta_reduce at h6
    extract_lets +onlyGivenNames v7
    obtain ⟨v8, e⟩ : ∃ y, y = v7 := ⟨_, rfl⟩
    rw [← e]
    clear e v7
    extract_lets +onlyGivenNames v9
    obtain ⟨v10, e⟩ : ∃ y, y = v9 := ⟨_, rfl⟩
    rw [← e]
    clear e v9
    extract_lets +onlyGivenNames v11
    obtain ⟨v13, e, h12⟩ : ∃ y, y = v11 ∧ Kept a (y) := ⟨_, rfl, by
      refine Kept.ite ?_ ?_
      · refine State.setSlotKey_kept ?_
        exact h6
      · exact h6
      ⟩
    rw [← e]
    clear e v11
    extract_lets +onlyGivenNames v14
    obtain ⟨v16, e, h15⟩ : ∃ y, y = v14 ∧ Kept a (y) := ⟨_, rfl, by
      refine State.sendOut_kept ?_
      exact h12
      ⟩
    rw [← e]
    clear e v14
    refine Kept.ite ?_ ?_
    · refine bootDevice_kept ?_
      exact h15
    · exact h15

theorem vctRights_kept {a y1 y2 y3 s} (h : Kept a s) : Kept a (vctRights y1 y2 y3 s) := by
  unfold vctRights
  extract_lets +onlyGivenNames v1
  split
  · rename_i z2 z3
    refine vctRun_kept ?_
    exact h
  · rename_i z4 z5 z6
    refine Kept.ite ?_ ?_
    · refine Kept.ite ?_ ?_
      · refine Kept.ite ?_ ?_
        · refine vctRun_kept ?_
          exact h
        · refine State.vctDeny_kept ?_
          exact h
      · refine State.vctDeny_kept ?_
        exact h
    · refine Kept.ite ?_ ?_
      · refine vctRun_kept ?_
        exact h
      · unfold v1
        refine State.sendOut_kept ?_
        exact h

theorem State.acceptCounter_kept {a s y1} (h : Kept a s) : Kept a (State.acceptCounter s y1) := by
  unfold State.acceptCounter
  extract_lets +onlyGivenNames v1
  obtain ⟨v2, e⟩ : ∃ y, y = v1 := ⟨_, rfl⟩
  rw [← e]
  clear e v1
  extract_lets +onlyGivenNames v3
  obtain ⟨v5, e, h4⟩ : ∃ y, y = v3 ∧ Kept a (y) := ⟨_, rfl, by
    refine State.setF_kept ?_
    exact h
    ⟩
  rw [← e]
  clear e v3
  extract_lets +onlyGivenNames v6
  obtain ⟨v8, e, h7⟩ : ∃ y, y = v6 ∧ Kept a (y) := ⟨_, rfl, by
    refine Kept.ite ?_ ?_
    · refine State.setF_kept ?_
      exact h4
    · exact h4
    ⟩
  rw [← e]
  clear e v6
  extract_lets +onlyGivenNames v9
  obtain ⟨v10, e⟩ : ∃ y, y = v9 := ⟨_, rfl⟩
  rw [← e]
  clear e v9
  extract_lets +onlyGivenNames v11
  obtain ⟨v12, e⟩ : ∃ y, y = v11 := ⟨_, rfl⟩
  rw [← e]
  clear e v11
  refine State.setSlotKey_kept ?_
  exact h7

theorem State.vctReplay_kept {a s y1} (h : Kept a s) : Kept a (State.vctReplay s y1) := by
  unfold State.vctReplay
  refine State.vctDiscard_kept ?_
  refine State.incF_kept ?_
  refine State.setF_kept ?_
  exact h

theorem vctCounter_kept {a y1 y2 y3 s} (h : Kept a s) : Kept a (vctCounter y1 y2 y3 s) := by
  unfold vctCounter
  extract_lets +onlyGivenNames v1
  obtain ⟨v2, e⟩ : ∃ y, y = v1 := ⟨_, rfl⟩
  rw [← e]
  clear e v1
  extract_lets +onlyGivenNames v3
  obtain ⟨v4, e⟩ : ∃ y, y = v3 := ⟨_, rfl⟩
  rw [← e]
  clear e v3
  extract_lets +onlyGivenNames v5
  obtain ⟨v6, e⟩ : ∃ y, y = v5 := ⟨_, rfl⟩
  rw [← e]
  clear e v5
  refine Kept.ite ?_ ?_
  · refine State.setSlotKey_kept ?_
    exact h
  · refine Kept.ite ?_ ?_
    · refine State.setSlotKey_kept ?_
      exact h
    · refine Kept.ite ?_ ?_
      · refine vctRights_kept ?_
        refine State.acceptCounter_kept ?_
        exact h
      · refine Kept.ite ?_ ?_
        · split
          · rename_i z7 z8 z9
            refine State.sendOut_kept ?_
            exact h
          · rename_i z10 z11
            exact h
        · refine State.vctReplay_kept ?_
          exact h

theorem vctAuth_kept {a y1 y2 s} (h : Kept a s) : Kept a (vctAuth y1 y2 s) := by
  unfold vctAuth
  extract_lets +onlyGivenNames v1
  obtain ⟨v2, e⟩ : ∃ y, y = v1 := ⟨_, rfl⟩
  rw [← e]
  clear e v1
  split
  · rename_i z3 z4
    refine State.vctDeny_kept ?_
    exact h
  · rename_i z5 z6 z7
    refine Kept.ite ?_ ?_
    · refine State.vctDeny_kept ?_
      exact h
    · refine Kept.ite ?_ ?_
      · refine State.vctDiscard_kept ?_
        refine State.incF_kept ?_
        refine State.setF_kept ?_
        exact h
      · refine vctCounter_kept ?_
        exact h

theorem State.dramPut_kept {a s y1 y2 y3} (h : Kept a s) : Kept a (State.dramPut s y1 y2 y3) :=
  State.setEccs_kept (State.setBytes_kept (State.dramRequest_kept h)) (fun hc => by rw [State.setBytes_eccs] at hc; exact twf_filter _ hc)

theorem vctData_kept {a y1 y2 s} (h : Kept a s) : Kept a (vctData y1 y2 s) := by
  unfold vctData
  extract_lets +onlyGivenNames v1
  obtain ⟨v2, e⟩ : ∃ y, y = v1 := ⟨_, rfl⟩
  rw [← e]
  clear e v1
  extract_lets +onlyGivenNames v3
  obtain ⟨v4, e⟩ : ∃ y, y = v3 := ⟨_, rfl⟩
  rw [← e]
  clear e v3
  extract_lets +onlyGivenNames v5
  obtain ⟨v6, e⟩ : ∃ y, y = v5 := ⟨_, rfl⟩
  rw [← e]
  clear e v5
  extract_lets +onlyGivenNames v7
  obtain ⟨v8, e⟩ : ∃ y, y = v7 := ⟨_, rfl⟩
  rw [← e]
  clear e v7
  refine Kept.ite ?_ ?_
  · refine State.incF_kept ?_
    exact h
  · extract_lets +onlyGivenNames v9
    obtain ⟨v10, e⟩ : ∃ y, y = v9 := ⟨_, rfl⟩
    rw [← e]
    clear e v9
    extract_lets +onlyGivenNames v11
    obtain ⟨v12, e⟩ : ∃ y, y = v11 := ⟨_, rfl⟩
    rw [← e]
    clear e v11
    extract_lets +onlyGivenNames v13
    obtain ⟨v14, e⟩ : ∃ y, y = v13 := ⟨_, rfl⟩
    rw [← e]
    clear e v13
    extract_lets +onlyGivenNames v15
    obtain ⟨v17, e, h16⟩ : ∃ y, y = v15 ∧ Kept a (y) := ⟨_, rfl, by
      refine State.dramPut_kept ?_
      exact h
      ⟩
    rw [← e]
    clear e v15
    extract_lets +onlyGivenNames v18
    obtain ⟨v20, e, h19⟩ : ∃ y, y = v18 ∧ Kept a (y) := ⟨_, rfl, by
      refine Kept.ite ?_ ?_
      · refine State.incF_kept ?_
        refine State.setByte_kept ?_
        exact h16
      · exact h16
      ⟩
    rw [← e]
    clear e v18
    refine Kept.ite ?_ ?_
    · refine State.sendOut_kept ?_
      exact h19
    · exact h19

theorem vctUack_kept {a y1 s} (h : Kept a s) : Kept a (vctUack y1 s) := by
  unfold vctUack
  extract_lets +onlyGivenNames v1
  obtain ⟨v2, e⟩ : ∃ y, y = v1 := ⟨_, rfl⟩
  rw [← e]
  clear e v1
  refine Kept.ite ?_ ?_
  · refine State.upAck_kept ?_
    exact h
  · exact h

theorem vctPacket_kept {a y1 s} (h : Kept a s) : Kept a (vctPacket y1 s) := by
  unfold vctPacket
  extract_lets +onlyGivenNames v1
  obtain ⟨v2, e⟩ : ∃ y, y = v1 := ⟨_, rfl⟩
  rw [← e]
  clear e v1
  refine Kept.ite ?_ ?_
  · exact h
  · refine Kept.ite ?_ ?_
    · extract_lets +onlyGivenNames v3
      obtain ⟨v5, e, h4⟩ : ∃ y, y = v3 ∧ Kept a (y) := ⟨_, rfl, by
        refine State.incF_kept ?_
        exact h
        ⟩
      rw [← e]
      clear e v3
      refine Kept.ite ?_ ?_
      · refine State.vctDeny_kept ?_
        exact h4
      · exact h4
    · refine Kept.ite ?_ ?_
      · refine vctData_kept ?_
        exact h
      · refine Kept.ite ?_ ?_
        · refine vctUack_kept ?_
          exact h
        · refine Kept.ite ?_ ?_
          · refine vctAuth_kept ?_
            exact h
          · refine vctRights_kept ?_
            exact h

theorem vctRow_kept {a y1 y2 y3 s} (h : Kept a s) : Kept a (vctRow y1 y2 y3 s) := by
  unfold vctRow
  extract_lets +onlyGivenNames v1
  obtain ⟨v2, e⟩ : ∃ y, y = v1 := ⟨_, rfl⟩
  rw [← e]
  clear e v1
  refine Kept.ite ?_ ?_
  · exact h
  · refine vctPacket_kept ?_
    refine State.rxTake_kept ?_
    exact h

theorem ethernetFrame_kept {a y1 y2 y3 y4 s} (h : Kept a s) : Kept a (ethernetFrame y1 y2 y3 y4 s) := by
  unfold ethernetFrame
  split
  · rename_i z1 z2 z3
    have h4 := Kept.ofEq (a := a) (fun p => Prod.snd (p)) z3 (by
        refine State.frameTaken_kept ?_
        exact h
      )
    beta_reduce at h4
    exact h4
  · rename_i z5 z6 z7
    have h8 := Kept.ofEq (a := a) (fun p => Prod.snd (p)) z7 (by
        refine State.frameTaken_kept ?_
        exact h
      )
    beta_reduce at h8
    split
    · rename_i z9 z10
      exact h8
    · rename_i z11 z12 z13 z14
      refine State.arpReply_kept ?_
      exact h8
    · rename_i z15 z16 z17 z18 z19
      refine State.icmpReply_kept ?_
      exact h8
    · rename_i z20 z21 z22
      refine State.rxStamp_kept ?_
      exact h8
    · rename_i z23 z24 z25
      refine Kept.ite ?_ ?_
      · refine State.rxPut_kept ?_
        exact h8
      · refine vctPacket_kept ?_
        exact h8

theorem digestDone_kept {a y1 s} (h : Kept a s) : Kept a (digestDone y1 s) := by
  unfold digestDone
  refine Kept.ite ?_ ?_
  · exact h
  · extract_lets +onlyGivenNames v1
    obtain ⟨v2, e⟩ : ∃ y, y = v1 := ⟨_, rfl⟩
    rw [← e]
    clear e v1
    extract_lets +onlyGivenNames v3
    obtain ⟨v4, e⟩ : ∃ y, y = v3 := ⟨_, rfl⟩
    rw [← e]
    clear e v3
    refine Kept.ite ?_ ?_
    · refine State.evtComplete_kept ?_
      refine State.send_kept ?_
      refine State.setWinState_kept ?_
      exact h
    · refine State.evtComplete_kept ?_
      refine State.setWinState_kept ?_
      exact h

theorem fwstageComplete_kept {a y1 s} (h : Kept a s) : Kept a (fwstageComplete y1 s) := by
  unfold fwstageComplete
  split
  · rename_i z1 z2
    exact h
  · rename_i z3 z4 z5 z6
    extract_lets +onlyGivenNames v7
    obtain ⟨v8, e⟩ : ∃ y, y = v7 := ⟨_, rfl⟩
    rw [← e]
    clear e v7
    extract_lets +onlyGivenNames v9
    obtain ⟨v11, e, h10⟩ : ∃ y, y = v9 ∧ Kept a (y) := ⟨_, rfl, by
      refine State.setHost_kept ?_
      exact h
      ⟩
    rw [← e]
    clear e v9
    extract_lets +onlyGivenNames v12
    obtain ⟨v13, e⟩ : ∃ y, y = v12 := ⟨_, rfl⟩
    rw [← e]
    clear e v12
    refine Kept.ite ?_ ?_
    · extract_lets +onlyGivenNames v14
      obtain ⟨v15, e⟩ : ∃ y, y = v14 := ⟨_, rfl⟩
      rw [← e]
      clear e v14
      extract_lets +onlyGivenNames v16
      obtain ⟨v17, e⟩ : ∃ y, y = v16 := ⟨_, rfl⟩
      rw [← e]
      clear e v16
      refine State.evtComplete_kept ?_
      refine State.setFlash_kept ?_
      exact h10
    · refine State.evtComplete_kept ?_
      exact h10

theorem mirrorWrite_kept {a y1 y2 s} (h : Kept a s) : Kept a (mirrorWrite y1 y2 s) := by
  unfold mirrorWrite
  extract_lets +onlyGivenNames v1
  obtain ⟨v2, e⟩ : ∃ y, y = v1 := ⟨_, rfl⟩
  rw [← e]
  clear e v1
  split
  · rename_i z3 z4
    exact h
  · rename_i z5 z6 z7
    extract_lets +onlyGivenNames v8
    obtain ⟨v10, e, h9⟩ : ∃ y, y = v8 ∧ Kept a (y) := ⟨_, rfl, by
      refine State.setSlotKey_kept ?_
      exact h
      ⟩
    rw [← e]
    clear e v8
    extract_lets +onlyGivenNames v11
    obtain ⟨v12, e⟩ : ∃ y, y = v11 := ⟨_, rfl⟩
    rw [← e]
    clear e v11
    extract_lets +onlyGivenNames v13
    obtain ⟨v15, e, h14⟩ : ∃ y, y = v13 ∧ Kept a (y) := ⟨_, rfl, by
      refine Kept.ite ?_ ?_
      · refine State.setF_kept ?_
        refine State.setFlash_kept ?_
        exact h9
      · refine State.severe_kept ?_
        refine State.setF_kept ?_
        exact h9
      ⟩
    rw [← e]
    clear e v13
    refine forEach_kept ?_ ?_
    · exact h14
    · intro x16 x17 h18
      refine vctPacket_kept ?_
      exact h18

end Sys2Proof.Machine
end

