-- ==== Sys2Proof/Laws/Units.lean ====
section
/-! SUPPORT. The records of the units: read after write, and that a record depends on its own table alone. -/

namespace Sys2Proof.Machine

open Sys2Proof

theorem State.aux_setAux {s : State} (h : s.canonical = true) (n m : Nat) (x : AuxSt) :
    (s.setAux n x).aux m = if m = n then x else s.aux m := by
  have hc : twf (fun _ => ({} : AuxSt)) s.auxs = true := by
    have := (State.canonical_iff s).1 h
    tauto
  split
  · next e => subst e; exact tget_tset_same m x hc
  · next e => exact tget_tset_other n m x hc e

theorem State.aux_congr {s t : State} (h : t.auxs = s.auxs) (n : Nat) : t.aux n = s.aux n := by
  unfold State.aux; rw [h]

theorem State.mapSt_setMapSt {s : State} (h : s.canonical = true) (n m : Nat) (x : MapSt) :
    (s.setMapSt n x).mapSt m = if m = n then x else s.mapSt m := by
  have hc : twf (fun _ => ({} : MapSt)) s.maps = true := by
    have := (State.canonical_iff s).1 h
    tauto
  split
  · next e => subst e; exact tget_tset_same m x hc
  · next e => exact tget_tset_other n m x hc e

theorem State.mapSt_congr {s t : State} (h : t.maps = s.maps) (n : Nat) : t.mapSt n = s.mapSt n := by
  unfold State.mapSt; rw [h]

theorem State.bank_setBank {s : State} (h : s.canonical = true) (n m : Nat) (x : DramBank) :
    (s.setBank n x).bank m = if m = n then x else s.bank m := by
  have hc : twf (fun _ => ({} : DramBank)) s.dramBanks = true := by
    have := (State.canonical_iff s).1 h
    tauto
  split
  · next e => subst e; exact tget_tset_same m x hc
  · next e => exact tget_tset_other n m x hc e

theorem State.bank_congr {s t : State} (h : t.dramBanks = s.dramBanks) (n : Nat) : t.bank n = s.bank n := by
  unfold State.bank; rw [h]

theorem State.rank_setRank {s : State} (h : s.canonical = true) (n m : Nat) (x : DramRank) :
    (s.setRank n x).rank m = if m = n then x else s.rank m := by
  have hc : twf (fun _ => ({} : DramRank)) s.dramRanks = true := by
    have := (State.canonical_iff s).1 h
    tauto
  split
  · next e => subst e; exact tget_tset_same m x hc
  · next e => exact tget_tset_other n m x hc e

theorem State.rank_congr {s t : State} (h : t.dramRanks = s.dramRanks) (n : Nat) : t.rank n = s.rank n := by
  unfold State.rank; rw [h]

theorem State.chan_setChan {s : State} (h : s.canonical = true) (n m : Nat) (x : DramChan) :
    (s.setChan n x).chan m = if m = n then x else s.chan m := by
  have hc : twf (fun _ => ({} : DramChan)) s.dramChans = true := by
    have := (State.canonical_iff s).1 h
    tauto
  split
  · next e => subst e; exact tget_tset_same m x hc
  · next e => exact tget_tset_other n m x hc e

theorem State.chan_congr {s t : State} (h : t.dramChans = s.dramChans) (n : Nat) : t.chan n = s.chan n := by
  unfold State.chan; rw [h]

theorem State.up_setUp {s : State} (h : s.canonical = true) (n m : Nat) (x : UpStream) :
    (s.setUp n x).up m = if m = n then x else s.up m := by
  have hc : twf (fun _ => ({} : UpStream)) s.ups = true := by
    have := (State.canonical_iff s).1 h
    tauto
  split
  · next e => subst e; exact tget_tset_same m x hc
  · next e => exact tget_tset_other n m x hc e

theorem State.up_congr {s t : State} (h : t.ups = s.ups) (n : Nat) : t.up n = s.up n := by
  unfold State.up; rw [h]

theorem State.gchan_setGchan {s : State} (h : s.canonical = true) (n m : Nat) (x : GChan) :
    (s.setGchan n x).gchan m = if m = n then x else s.gchan m := by
  have hc : twf (fun _ => ({} : GChan)) s.gorge = true := by
    have := (State.canonical_iff s).1 h
    tauto
  split
  · next e => subst e; exact tget_tset_same m x hc
  · next e => exact tget_tset_other n m x hc e

theorem State.gchan_congr {s t : State} (h : t.gorge = s.gorge) (n : Nat) : t.gchan n = s.gchan n := by
  unfold State.gchan; rw [h]

theorem State.slot_setSlot {s : State} (h : s.canonical = true) (n m : Nat) (x : Slot) :
    (s.setSlot n x).slot m = if m = n then x else s.slot m := by
  have hc : twf (fun _ => ({} : Slot)) s.slots = true := by
    have := (State.canonical_iff s).1 h
    tauto
  split
  · next e => subst e; exact tget_tset_same m x hc
  · next e => exact tget_tset_other n m x hc e

theorem State.slot_congr {s t : State} (h : t.slots = s.slots) (n : Nat) : t.slot n = s.slot n := by
  unfold State.slot; rw [h]

theorem State.tap_setTap {s : State} (h : s.canonical = true) (n m : Nat) (x : TapSt) :
    (s.setTap n x).tap m = if m = n then x else s.tap m := by
  have hc : twf (fun _ => ({} : TapSt)) s.taps = true := by
    have := (State.canonical_iff s).1 h
    tauto
  split
  · next e => subst e; exact tget_tset_same m x hc
  · next e => exact tget_tset_other n m x hc e

theorem State.tap_congr {s t : State} (h : t.taps = s.taps) (n : Nat) : t.tap n = s.tap n := by
  unfold State.tap; rw [h]

theorem State.i2c_setI2c {s : State} (h : s.canonical = true) (n m : Nat) (x : List I2cTxn) :
    (s.setI2c n x).i2c m = if m = n then x else s.i2c m := by
  have hc : twf (fun _ => ([] : List I2cTxn)) s.i2cs = true := by
    have := (State.canonical_iff s).1 h
    tauto
  split
  · next e => subst e; exact tget_tset_same m x hc
  · next e => exact tget_tset_other n m x hc e

theorem State.i2c_congr {s t : State} (h : t.i2cs = s.i2cs) (n : Nat) : t.i2c n = s.i2c n := by
  unfold State.i2c; rw [h]

theorem State.lane_setLane {s : State} (h : s.canonical = true) (n m : Nat) (x : LaneSt) :
    (s.setLane n x).lane m = if m = n then x else s.lane m := by
  have hc : twf (fun _ => ({} : LaneSt)) s.lanes = true := by
    have := (State.canonical_iff s).1 h
    tauto
  split
  · next e => subst e; exact tget_tset_same m x hc
  · next e => exact tget_tset_other n m x hc e

theorem State.lane_congr {s t : State} (h : t.lanes = s.lanes) (n : Nat) : t.lane n = s.lane n := by
  unfold State.lane; rw [h]

theorem State.link_setLink {s : State} (h : s.canonical = true) (n m : Nat) (x : LinkSt) :
    (s.setLink n x).link m = if m = n then x else s.link m := by
  have hc : twf (fun _ => ({} : LinkSt)) s.links = true := by
    have := (State.canonical_iff s).1 h
    tauto
  split
  · next e => subst e; exact tget_tset_same m x hc
  · next e => exact tget_tset_other n m x hc e

theorem State.link_congr {s t : State} (h : t.links = s.links) (n : Nat) : t.link n = s.link n := by
  unfold State.link; rw [h]

theorem State.queue_congr {s t : State} (h : t.queues = s.queues) (n : Nat) : t.queue n = s.queue n := by
  unfold State.queue; rw [h]

theorem State.col_congr {s t : State} (h : t.cols = s.cols) (n : Nat) : t.col n = s.col n := by
  unfold State.col; rw [h]

theorem State.ht_setHt {s : State} (h : s.canonical = true) (n m : Nat) (x : HeadTime) :
    (s.setHt n x).ht m = if m = n then x else s.ht m := by
  have hc : twf (fun _ => ({} : HeadTime)) s.hts = true := by
    have := (State.canonical_iff s).1 h
    tauto
  split
  · next e => subst e; exact tget_tset_same m x hc
  · next e => exact tget_tset_other n m x hc e

theorem State.ht_congr {s t : State} (h : t.hts = s.hts) (n : Nat) : t.ht n = s.ht n := by
  unfold State.ht; rw [h]

theorem State.pg_setPg {s : State} (h : s.canonical = true) (n m : Nat) (x : PgSt) :
    (s.setPg n x).pg m = if m = n then x else s.pg m := by
  have hc : twf (fun _ => ({} : PgSt)) s.pgs = true := by
    have := (State.canonical_iff s).1 h
    tauto
  split
  · next e => subst e; exact tget_tset_same m x hc
  · next e => exact tget_tset_other n m x hc e

theorem State.pg_congr {s t : State} (h : t.pgs = s.pgs) (n : Nat) : t.pg n = s.pg n := by
  unfold State.pg; rw [h]

theorem State.sc_setSc {s : State} (h : s.canonical = true) (n m : Nat) (x : ScSt) :
    (s.setSc n x).sc m = if m = n then x else s.sc m := by
  have hc : twf (fun _ => ({} : ScSt)) s.scs = true := by
    have := (State.canonical_iff s).1 h
    tauto
  split
  · next e => subst e; exact tget_tset_same m x hc
  · next e => exact tget_tset_other n m x hc e

theorem State.sc_congr {s t : State} (h : t.scs = s.scs) (n : Nat) : t.sc n = s.sc n := by
  unfold State.sc; rw [h]

theorem State.enc_setEnc {s : State} (h : s.canonical = true) (n m : Nat) (x : EncSt) :
    (s.setEnc n x).enc m = if m = n then x else s.enc m := by
  have hc : twf (fun _ => ({} : EncSt)) s.encs = true := by
    have := (State.canonical_iff s).1 h
    tauto
  split
  · next e => subst e; exact tget_tset_same m x hc
  · next e => exact tget_tset_other n m x hc e

theorem State.enc_congr {s t : State} (h : t.encs = s.encs) (n : Nat) : t.enc n = s.enc n := by
  unfold State.enc; rw [h]

theorem State.hall_setHall {s : State} (h : s.canonical = true) (n m : Nat) (x : HallSt) :
    (s.setHall n x).hall m = if m = n then x else s.hall m := by
  have hc : twf (fun _ => ({} : HallSt)) s.halls = true := by
    have := (State.canonical_iff s).1 h
    tauto
  split
  · next e => subst e; exact tget_tset_same m x hc
  · next e => exact tget_tset_other n m x hc e

theorem State.hall_congr {s t : State} (h : t.halls = s.halls) (n : Nat) : t.hall n = s.hall n := by
  unfold State.hall; rw [h]

theorem State.probe_setProbe {s : State} (h : s.canonical = true) (n m : Nat) (x : ProbeSt) :
    (s.setProbe n x).probe m = if m = n then x else s.probe m := by
  have hc : twf (fun _ => ({} : ProbeSt)) s.probes = true := by
    have := (State.canonical_iff s).1 h
    tauto
  split
  · next e => subst e; exact tget_tset_same m x hc
  · next e => exact tget_tset_other n m x hc e

theorem State.probe_congr {s t : State} (h : t.probes = s.probes) (n : Nat) : t.probe n = s.probe n := by
  unfold State.probe; rw [h]

theorem State.emu_setEmu {s : State} (h : s.canonical = true) (n m : Nat) (x : EmuSt) :
    (s.setEmu n x).emu m = if m = n then x else s.emu m := by
  have hc : twf (fun _ => ({} : EmuSt)) s.emus = true := by
    have := (State.canonical_iff s).1 h
    tauto
  split
  · next e => subst e; exact tget_tset_same m x hc
  · next e => exact tget_tset_other n m x hc e

theorem State.emu_congr {s t : State} (h : t.emus = s.emus) (n : Nat) : t.emu n = s.emu n := by
  unfold State.emu; rw [h]

theorem State.loop_setLoop {s : State} (h : s.canonical = true) (n m : Nat) (x : Loop) :
    (s.setLoop n x).loop m = if m = n then x else s.loop m := by
  have hc : twf (fun _ => ({} : Loop)) s.loops = true := by
    have := (State.canonical_iff s).1 h
    tauto
  split
  · next e => subst e; exact tget_tset_same m x hc
  · next e => exact tget_tset_other n m x hc e

theorem State.loop_congr {s t : State} (h : t.loops = s.loops) (n : Nat) : t.loop n = s.loop n := by
  unfold State.loop; rw [h]

theorem State.slotKey_setSlotKey {s : State} (h : s.canonical = true) (n m : Nat) (x : KeySlot) :
    (s.setSlotKey n x).slotKey m = if m = n then x else s.slotKey m := by
  have hc : twf (fun _ => ({} : KeySlot)) s.keySlots = true := by
    have := (State.canonical_iff s).1 h
    tauto
  split
  · next e => subst e; exact tget_tset_same m x hc
  · next e => exact tget_tset_other n m x hc e

theorem State.slotKey_congr {s t : State} (h : t.keySlots = s.keySlots) (n : Nat) : t.slotKey n = s.slotKey n := by
  unfold State.slotKey; rw [h]

theorem State.rxWin_setRxWin {s : State} (h : s.canonical = true) (n m : Nat) (x : RxWin) :
    (s.setRxWin n x).rxWin m = if m = n then x else s.rxWin m := by
  have hc : twf (fun _ => ({} : RxWin)) s.wins = true := by
    have := (State.canonical_iff s).1 h
    tauto
  split
  · next e => subst e; exact tget_tset_same m x hc
  · next e => exact tget_tset_other n m x hc e

theorem State.rxWin_congr {s t : State} (h : t.wins = s.wins) (n : Nat) : t.rxWin n = s.rxWin n := by
  unfold State.rxWin; rw [h]

theorem State.core_setCore {s : State} (h : s.canonical = true) (n m : Nat) (x : Core) :
    (s.setCore n x).core m = if m = n then x else s.core m := by
  have hc : twf (fun _ => ({} : Core)) s.cores = true := by
    have := (State.canonical_iff s).1 h
    tauto
  split
  · next e => subst e; exact tget_tset_same m x hc
  · next e => exact tget_tset_other n m x hc e

theorem State.core_congr {s t : State} (h : t.cores = s.cores) (n : Nat) : t.core n = s.core n := by
  unfold State.core; rw [h]

end Sys2Proof.Machine
end

