-- ==== Sys2Proof/Laws/Reads.lean ====
section
/-! SUPPORT. Reads of control words and fields past the operations that leave the control words alone, and what the writing of a Dale record
leaves alone (R439, R443). -/

namespace Sys2Proof.Machine

open Sys2Proof

@[simp] theorem State.word_past_setPending (s : State) (v : List Instr) (j : Nat) : (s.setPending v).word j = s.word j := rfl
@[simp] theorem State.f_past_setPending (s : State) (v : List Instr) (g : Fld) (j : Nat) : (s.setPending v).f g j = s.f g j := rfl

@[simp] theorem State.word_past_setMt (s : State) (v : Nat) (j : Nat) : (s.setMt v).word j = s.word j := rfl
@[simp] theorem State.f_past_setMt (s : State) (v : Nat) (g : Fld) (j : Nat) : (s.setMt v).f g j = s.f g j := rfl

@[simp] theorem State.word_past_setMem (s : State) (v : List Host.Cell) (j : Nat) : (s.setMem v).word j = s.word j := rfl
@[simp] theorem State.f_past_setMem (s : State) (v : List Host.Cell) (g : Fld) (j : Nat) : (s.setMem v).f g j = s.f g j := rfl

@[simp] theorem State.word_past_setEccs (s : State) (v : List (Nat × Option EccMark)) (j : Nat) : (s.setEccs v).word j = s.word j := rfl
@[simp] theorem State.f_past_setEccs (s : State) (v : List (Nat × Option EccMark)) (g : Fld) (j : Nat) : (s.setEccs v).f g j = s.f g j := rfl

@[simp] theorem State.word_past_setNet (s : State) (v : List Token) (j : Nat) : (s.setNet v).word j = s.word j := rfl
@[simp] theorem State.f_past_setNet (s : State) (v : List Token) (g : Fld) (j : Nat) : (s.setNet v).f g j = s.f g j := rfl

@[simp] theorem State.word_past_setSeqs (s : State) (v : List (Nat × Nat)) (j : Nat) : (s.setSeqs v).word j = s.word j := rfl
@[simp] theorem State.f_past_setSeqs (s : State) (v : List (Nat × Nat)) (g : Fld) (j : Nat) : (s.setSeqs v).f g j = s.f g j := rfl

@[simp] theorem State.word_past_setLines (s : State) (v : List Raise) (j : Nat) : (s.setLines v).word j = s.word j := rfl
@[simp] theorem State.f_past_setLines (s : State) (v : List Raise) (g : Fld) (j : Nat) : (s.setLines v).f g j = s.f g j := rfl

@[simp] theorem State.word_past_setFreeCtr (s : State) (v : Nat) (j : Nat) : (s.setFreeCtr v).word j = s.word j := rfl
@[simp] theorem State.f_past_setFreeCtr (s : State) (v : Nat) (g : Fld) (j : Nat) : (s.setFreeCtr v).f g j = s.f g j := rfl

@[simp] theorem State.word_past_setQueues (s : State) (v : List (Nat × QueueSt)) (j : Nat) : (s.setQueues v).word j = s.word j := rfl
@[simp] theorem State.f_past_setQueues (s : State) (v : List (Nat × QueueSt)) (g : Fld) (j : Nat) : (s.setQueues v).f g j = s.f g j := rfl

@[simp] theorem State.word_past_setTb (s : State) (v : TimeBase) (j : Nat) : (s.setTb v).word j = s.word j := rfl
@[simp] theorem State.f_past_setTb (s : State) (v : TimeBase) (g : Fld) (j : Nat) : (s.setTb v).f g j = s.f g j := rfl

@[simp] theorem State.word_past_setHts (s : State) (v : List (Nat × HeadTime)) (j : Nat) : (s.setHts v).word j = s.word j := rfl
@[simp] theorem State.f_past_setHts (s : State) (v : List (Nat × HeadTime)) (g : Fld) (j : Nat) : (s.setHts v).f g j = s.f g j := rfl

@[simp] theorem State.word_past_setCols (s : State) (v : List (Nat × Col)) (j : Nat) : (s.setCols v).word j = s.word j := rfl
@[simp] theorem State.f_past_setCols (s : State) (v : List (Nat × Col)) (g : Fld) (j : Nat) : (s.setCols v).f g j = s.f g j := rfl

@[simp] theorem State.word_past_setBasin (s : State) (v : Basin) (j : Nat) : (s.setBasin v).word j = s.word j := rfl
@[simp] theorem State.f_past_setBasin (s : State) (v : Basin) (g : Fld) (j : Nat) : (s.setBasin v).f g j = s.f g j := rfl

@[simp] theorem State.word_past_setDale (s : State) (v : Dale) (j : Nat) : (s.setDale v).word j = s.word j := rfl
@[simp] theorem State.f_past_setDale (s : State) (v : Dale) (g : Fld) (j : Nat) : (s.setDale v).f g j = s.f g j := rfl

@[simp] theorem State.word_past_setHeld (s : State) (v : List (List Token)) (j : Nat) : (s.setHeld v).word j = s.word j := rfl
@[simp] theorem State.f_past_setHeld (s : State) (v : List (List Token)) (g : Fld) (j : Nat) : (s.setHeld v).f g j = s.f g j := rfl

@[simp] theorem State.word_past_setScrub (s : State) (v : Scrub) (j : Nat) : (s.setScrub v).word j = s.word j := rfl
@[simp] theorem State.f_past_setScrub (s : State) (v : Scrub) (g : Fld) (j : Nat) : (s.setScrub v).f g j = s.f g j := rfl

@[simp] theorem State.word_past_setFanout (s : State) (v : List Token) (j : Nat) : (s.setFanout v).word j = s.word j := rfl
@[simp] theorem State.f_past_setFanout (s : State) (v : List Token) (g : Fld) (j : Nat) : (s.setFanout v).f g j = s.f g j := rfl

@[simp] theorem State.word_past_setPassed (s : State) (v : List Token) (j : Nat) : (s.setPassed v).word j = s.word j := rfl
@[simp] theorem State.f_past_setPassed (s : State) (v : List Token) (g : Fld) (j : Nat) : (s.setPassed v).f g j = s.f g j := rfl

@[simp] theorem State.word_past_setCores (s : State) (v : List (Nat × Core)) (j : Nat) : (s.setCores v).word j = s.word j := rfl
@[simp] theorem State.f_past_setCores (s : State) (v : List (Nat × Core)) (g : Fld) (j : Nat) : (s.setCores v).f g j = s.f g j := rfl

@[simp] theorem State.word_past_setPgs (s : State) (v : List (Nat × PgSt)) (j : Nat) : (s.setPgs v).word j = s.word j := rfl
@[simp] theorem State.f_past_setPgs (s : State) (v : List (Nat × PgSt)) (g : Fld) (j : Nat) : (s.setPgs v).f g j = s.f g j := rfl

@[simp] theorem State.word_past_setSets (s : State) (v : List SharedSet) (j : Nat) : (s.setSets v).word j = s.word j := rfl
@[simp] theorem State.f_past_setSets (s : State) (v : List SharedSet) (g : Fld) (j : Nat) : (s.setSets v).f g j = s.f g j := rfl

@[simp] theorem State.word_past_setMaps (s : State) (v : List (Nat × MapSt)) (j : Nat) : (s.setMaps v).word j = s.word j := rfl
@[simp] theorem State.f_past_setMaps (s : State) (v : List (Nat × MapSt)) (g : Fld) (j : Nat) : (s.setMaps v).f g j = s.f g j := rfl

@[simp] theorem State.word_past_setStares (s : State) (v : List Stare) (j : Nat) : (s.setStares v).word j = s.word j := rfl
@[simp] theorem State.f_past_setStares (s : State) (v : List Stare) (g : Fld) (j : Nat) : (s.setStares v).f g j = s.f g j := rfl

@[simp] theorem State.word_past_setLoops (s : State) (v : List (Nat × Loop)) (j : Nat) : (s.setLoops v).word j = s.word j := rfl
@[simp] theorem State.f_past_setLoops (s : State) (v : List (Nat × Loop)) (g : Fld) (j : Nat) : (s.setLoops v).f g j = s.f g j := rfl

@[simp] theorem State.word_past_setGateLog (s : State) (v : List (Nat × Nat × Bool)) (j : Nat) : (s.setGateLog v).word j = s.word j := rfl
@[simp] theorem State.f_past_setGateLog (s : State) (v : List (Nat × Nat × Bool)) (g : Fld) (j : Nat) : (s.setGateLog v).f g j = s.f g j := rfl

@[simp] theorem State.word_past_setScs (s : State) (v : List (Nat × ScSt)) (j : Nat) : (s.setScs v).word j = s.word j := rfl
@[simp] theorem State.f_past_setScs (s : State) (v : List (Nat × ScSt)) (g : Fld) (j : Nat) : (s.setScs v).f g j = s.f g j := rfl

@[simp] theorem State.word_past_setEncs (s : State) (v : List (Nat × EncSt)) (j : Nat) : (s.setEncs v).word j = s.word j := rfl
@[simp] theorem State.f_past_setEncs (s : State) (v : List (Nat × EncSt)) (g : Fld) (j : Nat) : (s.setEncs v).f g j = s.f g j := rfl

@[simp] theorem State.word_past_setHalls (s : State) (v : List (Nat × HallSt)) (j : Nat) : (s.setHalls v).word j = s.word j := rfl
@[simp] theorem State.f_past_setHalls (s : State) (v : List (Nat × HallSt)) (g : Fld) (j : Nat) : (s.setHalls v).f g j = s.f g j := rfl

@[simp] theorem State.word_past_setProbes (s : State) (v : List (Nat × ProbeSt)) (j : Nat) : (s.setProbes v).word j = s.word j := rfl
@[simp] theorem State.f_past_setProbes (s : State) (v : List (Nat × ProbeSt)) (g : Fld) (j : Nat) : (s.setProbes v).f g j = s.f g j := rfl

@[simp] theorem State.word_past_setEmus (s : State) (v : List (Nat × EmuSt)) (j : Nat) : (s.setEmus v).word j = s.word j := rfl
@[simp] theorem State.f_past_setEmus (s : State) (v : List (Nat × EmuSt)) (g : Fld) (j : Nat) : (s.setEmus v).f g j = s.f g j := rfl

@[simp] theorem State.word_past_setSlots (s : State) (v : List (Nat × Slot)) (j : Nat) : (s.setSlots v).word j = s.word j := rfl
@[simp] theorem State.f_past_setSlots (s : State) (v : List (Nat × Slot)) (g : Fld) (j : Nat) : (s.setSlots v).f g j = s.f g j := rfl

@[simp] theorem State.word_past_setCsiSkip (s : State) (v : List Nat) (j : Nat) : (s.setCsiSkip v).word j = s.word j := rfl
@[simp] theorem State.f_past_setCsiSkip (s : State) (v : List Nat) (g : Fld) (j : Nat) : (s.setCsiSkip v).f g j = s.f g j := rfl

@[simp] theorem State.word_past_setPipesOff (s : State) (v : List Nat) (j : Nat) : (s.setPipesOff v).word j = s.word j := rfl
@[simp] theorem State.f_past_setPipesOff (s : State) (v : List Nat) (g : Fld) (j : Nat) : (s.setPipesOff v).f g j = s.f g j := rfl

@[simp] theorem State.word_past_setTaps (s : State) (v : List (Nat × TapSt)) (j : Nat) : (s.setTaps v).word j = s.word j := rfl
@[simp] theorem State.f_past_setTaps (s : State) (v : List (Nat × TapSt)) (g : Fld) (j : Nat) : (s.setTaps v).f g j = s.f g j := rfl

@[simp] theorem State.word_past_setI2cs (s : State) (v : List (Nat × List I2cTxn)) (j : Nat) : (s.setI2cs v).word j = s.word j := rfl
@[simp] theorem State.f_past_setI2cs (s : State) (v : List (Nat × List I2cTxn)) (g : Fld) (j : Nat) : (s.setI2cs v).f g j = s.f g j := rfl

@[simp] theorem State.word_past_setAuxs (s : State) (v : List (Nat × AuxSt)) (j : Nat) : (s.setAuxs v).word j = s.word j := rfl
@[simp] theorem State.f_past_setAuxs (s : State) (v : List (Nat × AuxSt)) (g : Fld) (j : Nat) : (s.setAuxs v).f g j = s.f g j := rfl

@[simp] theorem State.word_past_setAuxMoves (s : State) (v : List AuxMove) (j : Nat) : (s.setAuxMoves v).word j = s.word j := rfl
@[simp] theorem State.f_past_setAuxMoves (s : State) (v : List AuxMove) (g : Fld) (j : Nat) : (s.setAuxMoves v).f g j = s.f g j := rfl

@[simp] theorem State.word_past_setAuxStops (s : State) (v : List (Nat × Nat × Nat)) (j : Nat) : (s.setAuxStops v).word j = s.word j := rfl
@[simp] theorem State.f_past_setAuxStops (s : State) (v : List (Nat × Nat × Nat)) (g : Fld) (j : Nat) : (s.setAuxStops v).f g j = s.f g j := rfl

@[simp] theorem State.word_past_setAuxNext (s : State) (v : Nat) (j : Nat) : (s.setAuxNext v).word j = s.word j := rfl
@[simp] theorem State.f_past_setAuxNext (s : State) (v : Nat) (g : Fld) (j : Nat) : (s.setAuxNext v).f g j = s.f g j := rfl

@[simp] theorem State.word_past_setLanes (s : State) (v : List (Nat × LaneSt)) (j : Nat) : (s.setLanes v).word j = s.word j := rfl
@[simp] theorem State.f_past_setLanes (s : State) (v : List (Nat × LaneSt)) (g : Fld) (j : Nat) : (s.setLanes v).f g j = s.f g j := rfl

@[simp] theorem State.word_past_setLinks (s : State) (v : List (Nat × LinkSt)) (j : Nat) : (s.setLinks v).word j = s.word j := rfl
@[simp] theorem State.f_past_setLinks (s : State) (v : List (Nat × LinkSt)) (g : Fld) (j : Nat) : (s.setLinks v).f g j = s.f g j := rfl

@[simp] theorem State.word_past_setKeySlots (s : State) (v : List (Nat × KeySlot)) (j : Nat) : (s.setKeySlots v).word j = s.word j := rfl
@[simp] theorem State.f_past_setKeySlots (s : State) (v : List (Nat × KeySlot)) (g : Fld) (j : Nat) : (s.setKeySlots v).f g j = s.f g j := rfl

@[simp] theorem State.word_past_setWins (s : State) (v : List (Nat × RxWin)) (j : Nat) : (s.setWins v).word j = s.word j := rfl
@[simp] theorem State.f_past_setWins (s : State) (v : List (Nat × RxWin)) (g : Fld) (j : Nat) : (s.setWins v).f g j = s.f g j := rfl

@[simp] theorem State.word_past_setUps (s : State) (v : List (Nat × UpStream)) (j : Nat) : (s.setUps v).word j = s.word j := rfl
@[simp] theorem State.f_past_setUps (s : State) (v : List (Nat × UpStream)) (g : Fld) (j : Nat) : (s.setUps v).f g j = s.f g j := rfl

@[simp] theorem State.word_past_setPtp (s : State) (v : PtpSt) (j : Nat) : (s.setPtp v).word j = s.word j := rfl
@[simp] theorem State.f_past_setPtp (s : State) (v : PtpSt) (g : Fld) (j : Nat) : (s.setPtp v).f g j = s.f g j := rfl

@[simp] theorem State.word_past_setHost (s : State) (v : HostSt) (j : Nat) : (s.setHost v).word j = s.word j := rfl
@[simp] theorem State.f_past_setHost (s : State) (v : HostSt) (g : Fld) (j : Nat) : (s.setHost v).f g j = s.f g j := rfl

@[simp] theorem State.word_past_setDramBanks (s : State) (v : List (Nat × DramBank)) (j : Nat) : (s.setDramBanks v).word j = s.word j := rfl
@[simp] theorem State.f_past_setDramBanks (s : State) (v : List (Nat × DramBank)) (g : Fld) (j : Nat) : (s.setDramBanks v).f g j = s.f g j := rfl

@[simp] theorem State.word_past_setDramRanks (s : State) (v : List (Nat × DramRank)) (j : Nat) : (s.setDramRanks v).word j = s.word j := rfl
@[simp] theorem State.f_past_setDramRanks (s : State) (v : List (Nat × DramRank)) (g : Fld) (j : Nat) : (s.setDramRanks v).f g j = s.f g j := rfl

@[simp] theorem State.word_past_setDramChans (s : State) (v : List (Nat × DramChan)) (j : Nat) : (s.setDramChans v).word j = s.word j := rfl
@[simp] theorem State.f_past_setDramChans (s : State) (v : List (Nat × DramChan)) (g : Fld) (j : Nat) : (s.setDramChans v).f g j = s.f g j := rfl

@[simp] theorem State.word_past_setRaaimt (s : State) (v : Nat) (j : Nat) : (s.setRaaimt v).word j = s.word j := rfl
@[simp] theorem State.f_past_setRaaimt (s : State) (v : Nat) (g : Fld) (j : Nat) : (s.setRaaimt v).f g j = s.f g j := rfl

@[simp] theorem State.word_past_setRaammt (s : State) (v : Nat) (j : Nat) : (s.setRaammt v).word j = s.word j := rfl
@[simp] theorem State.f_past_setRaammt (s : State) (v : Nat) (g : Fld) (j : Nat) : (s.setRaammt v).f g j = s.f g j := rfl

@[simp] theorem State.word_past_setGorge (s : State) (v : List (Nat × GChan)) (j : Nat) : (s.setGorge v).word j = s.word j := rfl
@[simp] theorem State.f_past_setGorge (s : State) (v : List (Nat × GChan)) (g : Fld) (j : Nat) : (s.setGorge v).f g j = s.f g j := rfl

@[simp] theorem State.word_past_setGorgeSaves (s : State) (v : List GSave) (j : Nat) : (s.setGorgeSaves v).word j = s.word j := rfl
@[simp] theorem State.f_past_setGorgeSaves (s : State) (v : List GSave) (g : Fld) (j : Nat) : (s.setGorgeSaves v).f g j = s.f g j := rfl

@[simp] theorem State.word_past_setHolds (s : State) (v : Holds) (j : Nat) : (s.setHolds v).word j = s.word j := rfl
@[simp] theorem State.f_past_setHolds (s : State) (v : Holds) (g : Fld) (j : Nat) : (s.setHolds v).f g j = s.f g j := rfl

@[simp] theorem State.word_past_setWake (s : State) (v : Wake) (j : Nat) : (s.setWake v).word j = s.word j := rfl
@[simp] theorem State.f_past_setWake (s : State) (v : Wake) (g : Fld) (j : Nat) : (s.setWake v).f g j = s.f g j := rfl

@[simp] theorem State.word_past_setVault (s : State) (v : Vault) (j : Nat) : (s.setVault v).word j = s.word j := rfl
@[simp] theorem State.f_past_setVault (s : State) (v : Vault) (g : Fld) (j : Nat) : (s.setVault v).f g j = s.f g j := rfl

@[simp] theorem State.word_past_setHouse (s : State) (v : House) (j : Nat) : (s.setHouse v).word j = s.word j := rfl
@[simp] theorem State.f_past_setHouse (s : State) (v : House) (g : Fld) (j : Nat) : (s.setHouse v).f g j = s.f g j := rfl

@[simp] theorem State.word_past_setFlash (s : State) (v : Flash) (j : Nat) : (s.setFlash v).word j = s.word j := rfl
@[simp] theorem State.f_past_setFlash (s : State) (v : Flash) (g : Fld) (j : Nat) : (s.setFlash v).f g j = s.f g j := rfl

@[simp] theorem State.word_past_setKeyHashes (s : State) (v : List (List Byte)) (j : Nat) : (s.setKeyHashes v).word j = s.word j := rfl
@[simp] theorem State.f_past_setKeyHashes (s : State) (v : List (List Byte)) (g : Fld) (j : Nat) : (s.setKeyHashes v).f g j = s.f g j := rfl

@[simp] theorem State.word_past_setBoot (s : State) (v : BootSt) (j : Nat) : (s.setBoot v).word j = s.word j := rfl
@[simp] theorem State.f_past_setBoot (s : State) (v : BootSt) (g : Fld) (j : Nat) : (s.setBoot v).f g j = s.f g j := rfl

@[simp] theorem State.word_past_setAux (s : State) (n : Nat) (x : AuxSt) (j : Nat) : (s.setAux n x).word j = s.word j := rfl
@[simp] theorem State.f_past_setAux (s : State) (n : Nat) (x : AuxSt) (g : Fld) (j : Nat) : (s.setAux n x).f g j = s.f g j := rfl

@[simp] theorem State.word_past_setMapSt (s : State) (n : Nat) (x : MapSt) (j : Nat) : (s.setMapSt n x).word j = s.word j := rfl
@[simp] theorem State.f_past_setMapSt (s : State) (n : Nat) (x : MapSt) (g : Fld) (j : Nat) : (s.setMapSt n x).f g j = s.f g j := rfl

@[simp] theorem State.word_past_setBank (s : State) (n : Nat) (x : DramBank) (j : Nat) : (s.setBank n x).word j = s.word j := rfl
@[simp] theorem State.f_past_setBank (s : State) (n : Nat) (x : DramBank) (g : Fld) (j : Nat) : (s.setBank n x).f g j = s.f g j := rfl

@[simp] theorem State.word_past_setRank (s : State) (n : Nat) (x : DramRank) (j : Nat) : (s.setRank n x).word j = s.word j := rfl
@[simp] theorem State.f_past_setRank (s : State) (n : Nat) (x : DramRank) (g : Fld) (j : Nat) : (s.setRank n x).f g j = s.f g j := rfl

@[simp] theorem State.word_past_setChan (s : State) (n : Nat) (x : DramChan) (j : Nat) : (s.setChan n x).word j = s.word j := rfl
@[simp] theorem State.f_past_setChan (s : State) (n : Nat) (x : DramChan) (g : Fld) (j : Nat) : (s.setChan n x).f g j = s.f g j := rfl

@[simp] theorem State.word_past_setUp (s : State) (n : Nat) (x : UpStream) (j : Nat) : (s.setUp n x).word j = s.word j := rfl
@[simp] theorem State.f_past_setUp (s : State) (n : Nat) (x : UpStream) (g : Fld) (j : Nat) : (s.setUp n x).f g j = s.f g j := rfl

@[simp] theorem State.word_past_setGchan (s : State) (n : Nat) (x : GChan) (j : Nat) : (s.setGchan n x).word j = s.word j := rfl
@[simp] theorem State.f_past_setGchan (s : State) (n : Nat) (x : GChan) (g : Fld) (j : Nat) : (s.setGchan n x).f g j = s.f g j := rfl

@[simp] theorem State.word_past_setSlot (s : State) (n : Nat) (x : Slot) (j : Nat) : (s.setSlot n x).word j = s.word j := rfl
@[simp] theorem State.f_past_setSlot (s : State) (n : Nat) (x : Slot) (g : Fld) (j : Nat) : (s.setSlot n x).f g j = s.f g j := rfl

@[simp] theorem State.word_past_setTap (s : State) (n : Nat) (x : TapSt) (j : Nat) : (s.setTap n x).word j = s.word j := rfl
@[simp] theorem State.f_past_setTap (s : State) (n : Nat) (x : TapSt) (g : Fld) (j : Nat) : (s.setTap n x).f g j = s.f g j := rfl

@[simp] theorem State.word_past_setI2c (s : State) (n : Nat) (x : List I2cTxn) (j : Nat) : (s.setI2c n x).word j = s.word j := rfl
@[simp] theorem State.f_past_setI2c (s : State) (n : Nat) (x : List I2cTxn) (g : Fld) (j : Nat) : (s.setI2c n x).f g j = s.f g j := rfl

@[simp] theorem State.word_past_setLane (s : State) (n : Nat) (x : LaneSt) (j : Nat) : (s.setLane n x).word j = s.word j := rfl
@[simp] theorem State.f_past_setLane (s : State) (n : Nat) (x : LaneSt) (g : Fld) (j : Nat) : (s.setLane n x).f g j = s.f g j := rfl

@[simp] theorem State.word_past_setLink (s : State) (n : Nat) (x : LinkSt) (j : Nat) : (s.setLink n x).word j = s.word j := rfl
@[simp] theorem State.f_past_setLink (s : State) (n : Nat) (x : LinkSt) (g : Fld) (j : Nat) : (s.setLink n x).f g j = s.f g j := rfl

@[simp] theorem State.word_past_setHt (s : State) (n : Nat) (x : HeadTime) (j : Nat) : (s.setHt n x).word j = s.word j := rfl
@[simp] theorem State.f_past_setHt (s : State) (n : Nat) (x : HeadTime) (g : Fld) (j : Nat) : (s.setHt n x).f g j = s.f g j := rfl

@[simp] theorem State.word_past_setPg (s : State) (n : Nat) (x : PgSt) (j : Nat) : (s.setPg n x).word j = s.word j := rfl
@[simp] theorem State.f_past_setPg (s : State) (n : Nat) (x : PgSt) (g : Fld) (j : Nat) : (s.setPg n x).f g j = s.f g j := rfl

@[simp] theorem State.word_past_setSc (s : State) (n : Nat) (x : ScSt) (j : Nat) : (s.setSc n x).word j = s.word j := rfl
@[simp] theorem State.f_past_setSc (s : State) (n : Nat) (x : ScSt) (g : Fld) (j : Nat) : (s.setSc n x).f g j = s.f g j := rfl

@[simp] theorem State.word_past_setEnc (s : State) (n : Nat) (x : EncSt) (j : Nat) : (s.setEnc n x).word j = s.word j := rfl
@[simp] theorem State.f_past_setEnc (s : State) (n : Nat) (x : EncSt) (g : Fld) (j : Nat) : (s.setEnc n x).f g j = s.f g j := rfl

@[simp] theorem State.word_past_setHall (s : State) (n : Nat) (x : HallSt) (j : Nat) : (s.setHall n x).word j = s.word j := rfl
@[simp] theorem State.f_past_setHall (s : State) (n : Nat) (x : HallSt) (g : Fld) (j : Nat) : (s.setHall n x).f g j = s.f g j := rfl

@[simp] theorem State.word_past_setProbe (s : State) (n : Nat) (x : ProbeSt) (j : Nat) : (s.setProbe n x).word j = s.word j := rfl
@[simp] theorem State.f_past_setProbe (s : State) (n : Nat) (x : ProbeSt) (g : Fld) (j : Nat) : (s.setProbe n x).f g j = s.f g j := rfl

@[simp] theorem State.word_past_setEmu (s : State) (n : Nat) (x : EmuSt) (j : Nat) : (s.setEmu n x).word j = s.word j := rfl
@[simp] theorem State.f_past_setEmu (s : State) (n : Nat) (x : EmuSt) (g : Fld) (j : Nat) : (s.setEmu n x).f g j = s.f g j := rfl

@[simp] theorem State.word_past_setLoop (s : State) (n : Nat) (x : Loop) (j : Nat) : (s.setLoop n x).word j = s.word j := rfl
@[simp] theorem State.f_past_setLoop (s : State) (n : Nat) (x : Loop) (g : Fld) (j : Nat) : (s.setLoop n x).f g j = s.f g j := rfl

@[simp] theorem State.word_past_setSlotKey (s : State) (n : Nat) (x : KeySlot) (j : Nat) : (s.setSlotKey n x).word j = s.word j := rfl
@[simp] theorem State.f_past_setSlotKey (s : State) (n : Nat) (x : KeySlot) (g : Fld) (j : Nat) : (s.setSlotKey n x).f g j = s.f g j := rfl

@[simp] theorem State.word_past_setRxWin (s : State) (n : Nat) (x : RxWin) (j : Nat) : (s.setRxWin n x).word j = s.word j := rfl
@[simp] theorem State.f_past_setRxWin (s : State) (n : Nat) (x : RxWin) (g : Fld) (j : Nat) : (s.setRxWin n x).f g j = s.f g j := rfl

@[simp] theorem State.word_past_setCore (s : State) (n : Nat) (x : Core) (j : Nat) : (s.setCore n x).word j = s.word j := rfl
@[simp] theorem State.f_past_setCore (s : State) (n : Nat) (x : Core) (g : Fld) (j : Nat) : (s.setCore n x).f g j = s.f g j := rfl

@[simp] theorem State.word_past_setCol (s : State) (n : Nat) (x : Col) (j : Nat) : (s.setCol n x).word j = s.word j := rfl
@[simp] theorem State.f_past_setCol (s : State) (n : Nat) (x : Col) (g : Fld) (j : Nat) : (s.setCol n x).f g j = s.f g j := rfl

@[simp] theorem State.word_past_setQueue (s : State) (n : Nat) (x : QueueSt) (j : Nat) : (s.setQueue n x).word j = s.word j := rfl
@[simp] theorem State.f_past_setQueue (s : State) (n : Nat) (x : QueueSt) (g : Fld) (j : Nat) : (s.setQueue n x).f g j = s.f g j := rfl

@[simp] theorem State.word_past_raise (s : State) (cls source unit src rtype : Nat) (d0 d1 : Word) (j : Nat) : (s.raise cls source unit src rtype d0 d1).word j = s.word j := rfl
@[simp] theorem State.f_past_raise (s : State) (cls source unit src rtype : Nat) (d0 d1 : Word) (g : Fld) (j : Nat) : (s.raise cls source unit src rtype d0 d1).f g j = s.f g j := rfl

@[simp] theorem State.word_past_critical (s : State) (source unit src : Nat) (d0 : Word) (j : Nat) : (s.critical source unit src d0).word j = s.word j := rfl
@[simp] theorem State.f_past_critical (s : State) (source unit src : Nat) (d0 : Word) (g : Fld) (j : Nat) : (s.critical source unit src d0).f g j = s.f g j := rfl

@[simp] theorem State.word_past_severe (s : State) (source unit src : Nat) (d0 : Word) (j : Nat) : (s.severe source unit src d0).word j = s.word j := rfl
@[simp] theorem State.f_past_severe (s : State) (source unit src : Nat) (d0 : Word) (g : Fld) (j : Nat) : (s.severe source unit src d0).f g j = s.f g j := rfl

@[simp] theorem State.word_past_warn (s : State) (source unit src : Nat) (d0 : Word) (j : Nat) : (s.warn source unit src d0).word j = s.word j := rfl
@[simp] theorem State.f_past_warn (s : State) (source unit src : Nat) (d0 : Word) (g : Fld) (j : Nat) : (s.warn source unit src d0).f g j = s.f g j := rfl

@[simp] theorem State.word_past_info (s : State) (source unit src : Nat) (d0 : Word) (j : Nat) : (s.info source unit src d0).word j = s.word j := rfl
@[simp] theorem State.f_past_info (s : State) (source unit src : Nat) (d0 : Word) (g : Fld) (j : Nat) : (s.info source unit src d0).f g j = s.f g j := rfl

@[simp] theorem State.word_past_warnAccess (s : State) (ep : Nat) (src : BitVec 10) (addr : Nat) (j : Nat) : (s.warnAccess ep src addr).word j = s.word j := rfl
@[simp] theorem State.f_past_warnAccess (s : State) (ep : Nat) (src : BitVec 10) (addr : Nat) (g : Fld) (j : Nat) : (s.warnAccess ep src addr).f g j = s.f g j := rfl

@[simp] theorem State.word_past_setByte (s : State) (a : Nat) (b : Byte) (j : Nat) : (s.setByte a b).word j = s.word j := rfl
@[simp] theorem State.f_past_setByte (s : State) (a : Nat) (b : Byte) (g : Fld) (j : Nat) : (s.setByte a b).f g j = s.f g j := rfl

@[simp] theorem State.word_past_setBytes (s : State) (a : Nat) (l : List Byte) (j : Nat) : (s.setBytes a l).word j = s.word j := State.word_congr (by simp) _
@[simp] theorem State.f_past_setBytes (s : State) (a : Nat) (l : List Byte) (g : Fld) (j : Nat) : (s.setBytes a l).f g j = s.f g j := State.f_congr (by simp) _ _

@[simp] theorem State.word_past_setEcc (s : State) (a : Nat) (m : Option EccMark) (j : Nat) : (s.setEcc a m).word j = s.word j := rfl
@[simp] theorem State.f_past_setEcc (s : State) (a : Nat) (m : Option EccMark) (g : Fld) (j : Nat) : (s.setEcc a m).f g j = s.f g j := rfl

@[simp] theorem State.word_past_st (s : State) (a : Nat) (w : Word) (j : Nat) : (s.st a w).word j = s.word j := State.word_congr (by simp) _
@[simp] theorem State.f_past_st (s : State) (a : Nat) (w : Word) (g : Fld) (j : Nat) : (s.st a w).f g j = s.f g j := State.f_congr (by simp) _ _

@[simp] theorem State.word_past_sts (s : State) (a : Nat) (l : List Word) (j : Nat) : (s.sts a l).word j = s.word j := State.word_congr (by simp) _
@[simp] theorem State.f_past_sts (s : State) (a : Nat) (l : List Word) (g : Fld) (j : Nat) : (s.sts a l).f g j = s.f g j := State.f_congr (by simp) _ _

@[simp] theorem State.word_past_send (s : State) (t : Token) (j : Nat) : (s.send t).word j = s.word j := rfl
@[simp] theorem State.f_past_send (s : State) (t : Token) (g : Fld) (j : Nat) : (s.send t).f g j = s.f g j := rfl

@[simp] theorem State.word_past_sendMsg (s : State) (src dest kind stream : Nat) (l : List Word) (j : Nat) : (s.sendMsg src dest kind stream l).word j = s.word j := State.word_congr (by simp) _
@[simp] theorem State.f_past_sendMsg (s : State) (src dest kind stream : Nat) (l : List Word) (g : Fld) (j : Nat) : (s.sendMsg src dest kind stream l).f g j = s.f g j := State.f_congr (by simp) _ _

@[simp] theorem State.word_past_respond (s : State) (ep : Nat) (t : Token) (w : Word) (j : Nat) : (s.respond ep t w).word j = s.word j := rfl
@[simp] theorem State.f_past_respond (s : State) (ep : Nat) (t : Token) (w : Word) (g : Fld) (j : Nat) : (s.respond ep t w).f g j = s.f g j := rfl

@[simp] theorem State.word_past_absorb (s : State) (ep : Nat) (t : Token) (j : Nat) : (s.absorb ep t).word j = s.word j := State.word_congr (by simp) _
@[simp] theorem State.f_past_absorb (s : State) (ep : Nat) (t : Token) (g : Fld) (j : Nat) : (s.absorb ep t).f g j = s.f g j := State.f_congr (by simp) _ _

@[simp] theorem State.word_past_refuse (s : State) (ep : Nat) (t : Token) (code : Nat) (j : Nat) : (s.refuse ep t code).word j = s.word j := State.word_congr (by simp) _
@[simp] theorem State.f_past_refuse (s : State) (ep : Nat) (t : Token) (code : Nat) (g : Fld) (j : Nat) : (s.refuse ep t code).f g j = s.f g j := State.f_congr (by simp) _ _

@[simp] theorem State.word_past_reach (s : State) (t : Nat) (j : Nat) : (s.reach t).word j = s.word j := rfl
@[simp] theorem State.f_past_reach (s : State) (t : Nat) (g : Fld) (j : Nat) : (s.reach t).f g j = s.f g j := rfl

/-- The mirror takes a record into the vault's words. -/
theorem State.word_mirrorRecord {s : State} (h : s.canonical = true) (w : List Word) {a : Nat} (hb : blockOf a ≠ 26) :
    (s.mirrorRecord w).word a = s.word a := by
  have hm : ∀ i, i < 64 * 4 → a ≠ VAULT.MREC.V.addr i := by
    intro i hi e
    apply hb
    rw [e]
    unfold blockOf
    simp only [VAULT.MREC.V, Fld.addr]
    omega
  have hn : a ≠ VAULT.STAT.MNEXT.addr 0 := by
    intro e
    apply hb
    rw [e]
    decide
  have hj : s.f VAULT.STAT.MNEXT < 64 := by
    unfold State.f Fld.get bits
    exact Nat.mod_lt _ (by decide)
  unfold State.mirrorRecord
  split
  · rfl
  · extract_lets j u
    have gen : ∀ (l : List Nat) (v : State), (∀ i ∈ l, i < 4) → v.canonical = true →
        (l.foldl (fun s i => s.setF VAULT.MREC.V (4 * j + i) (w.getD i 0).toNat) v).canonical = true ∧
        (l.foldl (fun s i => s.setF VAULT.MREC.V (4 * j + i) (w.getD i 0).toNat) v).word a = v.word a := by
      intro l
      induction l with
      | nil => intro v _ hv; exact ⟨hv, rfl⟩
      | cons i l ih =>
        intro v hl hv
        have hi := hl i List.mem_cons_self
        obtain ⟨h1, h2⟩ := ih (v.setF VAULT.MREC.V (4 * j + i) (w.getD i 0).toNat) (fun k hk => hl k (List.mem_cons_of_mem _ hk))
          (State.canonical_setF _ _ _ hv)
        rw [List.foldl_cons]
        exact ⟨h1, by rw [h2, State.word_setF hv, if_neg (hm _ (by omega))]⟩
    obtain ⟨h1, h2⟩ := gen (List.range 4) s (fun i hi => List.mem_range.1 hi) h
    rw [State.word_setF h1, if_neg hn, h2]

/-- A record written to the Dale touches the words of the Dale, the event counters and the vault alone. -/
theorem State.word_daleRecord {s : State} (h : s.canonical = true) (r : Raise) (real inj : Bool) {a : Nat}
    (h6 : blockOf a ≠ 6) (h7 : blockOf a ≠ 7) (h26 : blockOf a ≠ 26) : (s.daleRecord r real inj).word a = s.word a := by
  have hne : ∀ f : Fld, blockOf (f.addr 0) = 6 → a ≠ f.addr 0 := by
    intro f hf e
    exact h6 (e ▸ hf)
  unfold State.daleRecord
  extract_lets ws lost d0 D E d1 k F
  have hD : D.canonical = true := (State.mirrorRecord_kept (State.setDale_kept (Kept.refl s))).canon h
  have wD : D.word a = s.word a := State.word_mirrorRecord (s := s.setDale _) ((State.setDale_kept (Kept.refl s)).canon h) ws h26
  clear_value D
  split
  · have hE : E.canonical = true := (State.event_kept (State.setF_kept (State.incF_kept (Kept.refl D)))).canon hD
    have wE : E.word a = s.word a := by
      have c1 := State.canonical_incF DALE.STAT.LOST 0 1 hD
      show ((_ : State).event _ _ _).word a = _
      rw [State.word_event (State.canonical_setF _ _ _ c1) _ _ _ h7, State.word_setF c1, if_neg (hne _ (by decide))]
      show (D.setF _ _ _).word a = _
      rw [State.word_setF hD, if_neg (hne _ (by decide)), wD]
    clear_value E
    split
    · exact wE
    · exact wE
  · have hF : F.canonical = true := (State.sts_kept (Kept.refl D)).canon hD
    have wF : F.word a = s.word a := by
      show (D.sts _ _).word a = _
      rw [State.word_past_sts, wD]
    clear_value F
    have c1 := State.canonical_setF DALE.PTR.WIDX 0 ((k + 1) % 16384) hF
    rw [State.word_event (State.canonical_setF _ _ _ c1) _ _ _ h7, State.word_setF c1, if_neg (hne _ (by decide)), State.word_setF hF,
      if_neg (hne _ (by decide)), wF]

theorem State.f_daleRecord {s : State} (h : s.canonical = true) (r : Raise) (real inj : Bool) (g : Fld) (i : Nat)
    (h6 : blockOf (g.addr i) ≠ 6) (h7 : blockOf (g.addr i) ≠ 7) (h26 : blockOf (g.addr i) ≠ 26) : (s.daleRecord r real inj).f g i = s.f g i := by
  unfold State.f
  rw [State.word_daleRecord h r real inj h6 h7 h26]

theorem State.word_record7 {s : State} (h : s.canonical = true) (source rtype unit src : Nat) (d0 d1 : Word) (mt : Option Nat) {a : Nat}
    (h6 : blockOf a ≠ 6) (h7 : blockOf a ≠ 7) (h26 : blockOf a ≠ 26) : (s.record7 source rtype unit src d0 d1 mt).word a = s.word a :=
  State.word_daleRecord h _ true false h6 h7 h26

theorem State.f_record7 {s : State} (h : s.canonical = true) (source rtype unit src : Nat) (d0 d1 : Word) (mt : Option Nat) (g : Fld) (i : Nat)
    (h6 : blockOf (g.addr i) ≠ 6) (h7 : blockOf (g.addr i) ≠ 7) (h26 : blockOf (g.addr i) ≠ 26) :
    (s.record7 source rtype unit src d0 d1 mt).f g i = s.f g i := State.f_daleRecord h _ true false g i h6 h7 h26

end Sys2Proof.Machine
end

