-- ==== Sys2Proof/Laws/Requests.lean ====
section
/-! SUPPORT. What a control-word read and a control-word write of one pair do, said once (R93, R94): the request leaves the network, the word is
read or stored, the block's chapter acts, and the answer goes back. -/

namespace Sys2Proof.Machine

open Sys2Proof

/-- The payload of a request names the address it was made from. -/
theorem cwPayload_toNat {a : Nat} (ack : Bool) (h8 : a % 8 = 0) (hhi : a < 0x200000000) : (cwPayload a ack).toNat = a + ack.toNat := by
  have h1 : a / 8 * 8 = a := by omega
  have h2 : a % 2 ^ 48 = a := Nat.mod_eq_of_lt (by omega)
  have h3 : ack.toNat ≤ 1 := by cases ack <;> decide
  unfold cwPayload wd
  rw [BitVec.toNat_ofNat, h1, h2]
  exact Nat.mod_eq_of_lt (by omega)

theorem cwAddr_cwPayload {a : Nat} (ack : Bool) (h8 : a % 8 = 0) (hhi : a < 0x200000000) : cwAddr (cwPayload a ack) = a := by
  have h3 : ack.toNat ≤ 1 := by cases ack <;> decide
  unfold cwAddr bits
  rw [cwPayload_toNat ack h8 hhi, Nat.shiftRight_eq_div_pow]
  norm_num
  omega

theorem cwrFormed_cwPayload {a : Nat} (h8 : a % 8 = 0) (hhi : a < 0x200000000) : cwrFormed (cwPayload a false) = true := by
  unfold cwrFormed bits
  rw [cwPayload_toNat false h8 hhi]
  simp only [Nat.shiftRight_eq_div_pow]
  norm_num
  omega

theorem cwwFormed_cwPayload {a : Nat} (ack : Bool) (h8 : a % 8 = 0) (hhi : a < 0x200000000) : cwwFormed (cwPayload a ack) = true := by
  have h3 : ack.toNat ≤ 1 := by cases ack <;> decide
  unfold cwwFormed bits
  rw [cwPayload_toNat ack h8 hhi]
  simp only [Nat.shiftRight_eq_div_pow]
  norm_num
  omega

theorem cwAck_cwPayload {a : Nat} (ack : Bool) (h8 : a % 8 = 0) (hhi : a < 0x200000000) : cwAck (cwPayload a ack) = ack := by
  unfold cwAck bit
  rw [← BitVec.testBit_toNat, cwPayload_toNat ack h8 hhi, Nat.testBit_zero]
  cases ack <;> simp <;> omega

/-- Which addresses of control-word space a source may reach: assigned, and not closed to it (R92, R93). -/
def cwOpenTo (a : Nat) (src : BitVec 10) : Bool :=
  a % 8 == 0 && decide (0x100000000 ≤ a ∧ a < 0x200000000) && (regOf a).isSome && !((residentWord a || spareWord a) && !isResident src)

theorem cwOpenTo_parts {a : Nat} {src : BitVec 10} (h : cwOpenTo a src = true) :
    a % 8 = 0 ∧ 0x100000000 ≤ a ∧ a < 0x200000000 ∧ (regOf a).isNone = false ∧ ((residentWord a || spareWord a) && !isResident src) = false := by
  unfold cwOpenTo at h
  rw [Bool.and_eq_true, Bool.and_eq_true, Bool.and_eq_true, beq_iff_eq, decide_eq_true_eq] at h
  obtain ⟨⟨⟨h8, hlo, hhi⟩, hr⟩, hx⟩ := h
  refine ⟨h8, hlo, hhi, ?_, by rwa [Bool.not_eq_true'] at hx⟩
  cases hq : regOf a with
  | none => rw [hq] at hr; simp at hr
  | some r => rfl

theorem State.cwRefusal_open {s : State} {a : Nat} {src : BitVec 10} (h : cwOpenTo a src = true) : s.cwRefusal a src = none := by
  obtain ⟨_, hlo, hhi, hr, hx⟩ := cwOpenTo_parts h
  have hreg : s.region a = .control := by
    unfold State.region
    rw [if_neg (by omega), if_neg (by omega), if_pos ⟨hlo, hhi⟩]
  unfold State.cwRefusal
  rw [hreg]
  simp only [hr, hx, Bool.false_eq_true, if_false]

/-- A read of one word (R10, R93): the request is delivered, the answer carries the word, and what a read clears is cleared. -/
theorem State.cwrAt_eq {s : State} {h : CwFrom} {a : Nat} (ho : cwOpenTo a h.src = true) :
    s.cwrAt h a =
      let q := cwTok h kindCWR 0 (cwPayload a false) true
      let u := laneRead a (s.deliver cwEp q)
      (u.readEffect a).respond cwEp q (u.readWord a) := by
  obtain ⟨h8, _, hhi, _, _⟩ := cwOpenTo_parts ho
  have hf := cwrFormed_cwPayload h8 hhi
  have ha := cwAddr_cwPayload false h8 hhi
  have hc : ∀ t : State, t.cwRefusal a h.src = none := fun t => State.cwRefusal_open ho
  have hs : srcAllowed cwEp h.src = true := by simp [srcAllowed, residentOnly, spareRole, cwEp]
  simp only [State.cwrAt, cwr, cwTok, State.arrive, State.deliverAll, List.foldl, hs, if_true, State.whenDue, Bool.false_and, Bool.false_eq_true,
    if_false, cwRead, hf, Bool.not_true, ha, State.cwReadAt, hc, kindCWR, ne_eq, not_true_eq_false, or_self]

theorem foldl_one {α β : Type} (f : β → α → β) (b : β) (x : α) : [x].foldl f b = f b x := (List.foldl_cons ..).trans (List.foldl_nil ..)

/-- A message of one pair that nothing refuses is applied. -/
theorem State.cwApply_one {u new : State} {toks : List Token} {p : CwPair} {at_ : Nat} (hpairs : cwPairs toks = [p])
    (hnew : u.storePairs [] [p] = new) (href : u.cwwRefusals new toks [p] p.addr = []) :
    u.cwApply toks [] at_ =
      (none, if writesPt [p] then ptWriteEffect u (chapterEffect p.addr p.data at_ u (new.pairEvents u [] p))
        else chapterEffect p.addr p.data at_ u (new.pairEvents u [] p)) := by
  simp only [State.cwApply, hpairs, hnew, href, foldl_one]

/-- A write of one pair that nothing refuses (R93, R94): the request is delivered, the word is stored by its access codes, the chapter acts, and
the number of pairs is answered where ACK asks for it. -/
theorem State.cwwOf_one {s : State} {h : CwFrom} {a : Nat} {d : Word} {r : Reg} (ho : cwOpenTo a h.src = true) (hr : regOf a = some r) :
    let q := cwTok h kindCWW 0 (cwPayload a h.ack) false
    let p : CwPair := ⟨q, d⟩
    let u := s.deliverAll cwEp [q, cwTok h kindCWW 1 d true]
    let new := u.setWord a (r.stored d (u.liveBits [] a) (u.word a))
    dataRefusal p u new = none →
    s.cwwOf h [(a, d)] =
      (let v := chapterEffect a d u.mt u (new.pairEvents u [] p)
       let w := if writesPt [p] then ptWriteEffect u v else v
       if h.ack then w.respond cwEp q 1 else w) := by
  intro q p u new hd
  obtain ⟨h8, _, hhi, _, _⟩ := cwOpenTo_parts ho
  have hf := cwwFormed_cwPayload h.ack h8 hhi
  have ha := cwAddr_cwPayload h.ack h8 hhi
  have hk := cwAck_cwPayload h.ack h8 hhi
  have hc : ∀ t : State, t.cwRefusal a h.src = none := fun t => State.cwRefusal_open ho
  have hs : srcAllowed cwEp h.src = true := by simp [srcAllowed, residentOnly, spareRole, cwEp]
  have hpa : p.addr = a := ha
  have hnew : u.storePairs [] [p] = new := by
    simp only [State.storePairs, List.foldl, State.storePair, hpa, hr]; rfl
  have happ : u.cwApply [q, cwTok h kindCWW 1 d true] [] u.mt =
      (none, if writesPt [p] then ptWriteEffect u (chapterEffect a d u.mt u (new.pairEvents u [] p))
        else chapterEffect a d u.mt u (new.pairEvents u [] p)) := by
    have hpairs : cwPairs [q, cwTok h kindCWW 1 d true] = [p] := rfl
    have href : u.cwwRefusals new [q, cwTok h kindCWW 1 d true] [p] a = [] := by
      have h1 : u.addrRefusal a p = none := by
        simp only [State.addrRefusal, hpa]
        show (if !cwwFormed (cwPayload a h.ack) then some 4 else _) = none
        rw [hf]
        show (match u.cwRefusal a h.src with | some c => some c | none => if blockOf a ≠ blockOf a then some 4 else none) = none
        rw [hc]; simp
      simp only [State.cwwRefusals, List.zipIdx_cons, List.zipIdx_nil, List.filterMap_cons, List.filterMap_nil, h1, hd, Option.map_none]
      simp
    rw [← hpa] at href
    rw [State.cwApply_one hpairs hnew href, hpa]
  have hany : ([q, cwTok h kindCWW 1 d true].any (fun v => v.kind != kindCWW || v.dest != 0x12#10 || v.src != q.src || v.stream != q.stream)) = false := by
    simp [q, cwTok]
  have herr : errToken [q, cwTok h kindCWW 1 d true] = none := by simp [errToken, q, cwTok]
  show cww [q, cwTok h kindCWW 1 d true] [] s = _
  have hw : cwWrite [q, cwTok h kindCWW 1 d true] [] u =
      (let v := chapterEffect a d u.mt u (new.pairEvents u [] p)
       let w := if writesPt [p] then ptWriteEffect u v else v
       if h.ack then w.respond cwEp q 1 else w) := by
    have hl : (cwTok h kindCWW 1 d true).timed = false := rfl
    have hpairs : cwPairs [q, cwTok h kindCWW 1 d true] = [p] := rfl
    have hpk : cwAck p.tok.payload = h.ack := hk
    simp only [cwWrite, List.getLastD_cons, List.getLastD_nil, hl, Bool.false_eq_true, if_false, happ, hpairs, List.any_cons, List.any_nil, hpk,
      Bool.or_false, List.length_cons, List.length_nil]
    rfl
  rw [← hw]
  unfold cww
  simp only [hany, Bool.false_eq_true, if_false, State.arrive]
  have hs' : srcAllowed cwEp q.src = true := hs
  rw [if_pos hs', herr]
  have hl : (cwTok h kindCWW 1 d true).timed = false := rfl
  simp only [State.whenLastDue, List.getLastD_cons, List.getLastD_nil, hl, Bool.false_and, Bool.false_eq_true, if_false]
  rfl

end Sys2Proof.Machine
end

