-- ==== Sys2Proof/Laws/Store.lean ====
section
/-! SUPPORT. Words of memory: what a load reads after a store, over one word and over a run of words (R7, R84). -/

namespace Sys2Proof.Machine

open Sys2Proof

theorem leBytes_length (n v : Nat) : (leBytes n v).length = n := by
  induction n generalizing v with
  | zero => rfl
  | succ n ih => show (leBytes n (v / 256)).length + 1 = n + 1; rw [ih]

/-- The bytes of a number spell it again. -/
theorem leNat_leBytes (n v : Nat) : leNat (leBytes n v) = v % 256 ^ n := by
  induction n generalizing v with
  | zero => simp [leBytes, leNat, Nat.mod_one]
  | succ n ih =>
    show (BitVec.ofNat 8 v).toNat + 256 * leNat (leBytes n (v / 256)) = v % 256 ^ (n + 1)
    have h := Nat.mod_mul (x := v) (a := 256) (b := 256 ^ n)
    rw [ih, BitVec.toNat_ofNat, show 256 ^ (n + 1) = 256 * 256 ^ n from Nat.pow_succ', h]

/-- Bytes that agree are read alike. -/
theorem State.bytes_congr {s t : State} {a : Nat} : ∀ {n : Nat}, (∀ i, i < n → t.byte (a + i) = s.byte (a + i)) → t.bytes a n = s.bytes a n := by
  intro n
  induction n generalizing a with
  | zero => intro _; rfl
  | succ n ih =>
    intro h
    show t.byte a :: t.bytes (a + 1) n = s.byte a :: s.bytes (a + 1) n
    rw [ih (fun i hi => by have := h (i + 1) (by omega); rwa [show a + 1 + i = a + (i + 1) by omega]), show t.byte a = s.byte a from h 0 (by omega)]

/-- The bytes just written are read back. -/
theorem State.bytes_written {t : State} {a : Nat} {l : List Byte} (h : ∀ i, i < l.length → t.byte (a + i) = l.getD i 0#8) :
    t.bytes a l.length = l := by
  induction l generalizing a with
  | nil => rfl
  | cons b l ih =>
    show t.byte a :: t.bytes (a + 1) l.length = b :: l
    have h0 := h 0 (by simp)
    rw [ih (fun i hi => by
      have := h (i + 1) (by simpa using hi)
      rw [show a + 1 + i = a + (i + 1) by omega, this]; rfl)]
    exact congrArg (· :: l) h0

/-- A word just stored is read back. -/
theorem State.ld_st {s : State} (h : s.canonical = true) (a : Nat) (w : Word) : (s.st a w).ld a = w := by
  have hl : (leBytes 8 w.toNat).length = 8 := leBytes_length 8 _
  have hb : (s.st a w).bytes a 8 = leBytes 8 w.toNat := by
    have := State.bytes_written (t := s.st a w) (a := a) (l := leBytes 8 w.toNat) (fun i hi => by
      rw [State.byte_st h, if_pos (by omega), show a + i - a = i by omega])
    rwa [hl] at this
  unfold State.ld
  rw [hb, leNat_leBytes]
  have := w.isLt
  unfold wd
  rw [Nat.mod_eq_of_lt (show w.toNat < 256 ^ 8 by simpa using this), BitVec.ofNat_toNat]; simp

/-- A store of a word leaves every word apart from it. -/
theorem State.ld_st_other {s : State} (h : s.canonical = true) (a b : Nat) (w : Word) (hd : b + 8 ≤ a ∨ a + 8 ≤ b) : (s.st a w).ld b = s.ld b := by
  unfold State.ld
  rw [State.bytes_congr (t := s.st a w) (s := s) (fun i hi => by rw [State.byte_st h, if_neg (by omega)])]

theorem State.canonical_st {s : State} (a : Nat) (w : Word) (h : s.canonical = true) : (s.st a w).canonical = true :=
  (State.st_kept (Kept.refl s)).canon h

theorem State.lds_succ (s : State) (a n : Nat) : s.lds a (n + 1) = s.ld a :: s.lds (a + 8) n := State.lds.eq_2 s a n

/-- A run of words stored writes no byte outside it. -/
theorem State.byte_sts_other {ws : List Word} : ∀ {s : State} (_ : s.canonical = true) (a b : Nat) (_ : b < a ∨ a + 8 * ws.length ≤ b),
    (s.sts a ws).byte b = s.byte b := by
  induction ws with
  | nil => intros; rfl
  | cons w t ih =>
    intro s h a b hd
    rw [List.length_cons] at hd
    unfold State.sts
    rw [ih (State.canonical_st a w h) (a + 8) b (by omega), State.byte_st h, if_neg (by omega)]

theorem State.ld_sts_before {ws : List Word} : ∀ {s : State} (_ : s.canonical = true) (a b : Nat) (_ : b + 8 ≤ a), (s.sts a ws).ld b = s.ld b := by
  intro s h a b hb
  unfold State.ld
  rw [State.bytes_congr (t := s.sts a ws) (s := s) (fun i hi => State.byte_sts_other h _ _ (by omega))]

/-- A run of words stored is read back. -/
theorem State.lds_sts {ws : List Word} : ∀ {s : State} (_ : s.canonical = true) (a : Nat), (s.sts a ws).lds a ws.length = ws := by
  induction ws with
  | nil => intros; rfl
  | cons w t ih =>
    intro s h a
    unfold State.sts
    rw [List.length_cons, State.lds_succ, ih (State.canonical_st a w h), State.ld_sts_before (State.canonical_st a w h) (a + 8) a (by omega), State.ld_st h]

/-- Loads that see the same bytes read the same words. -/
theorem State.lds_congr {s t : State} (h : t.mem = s.mem) (a : Nat) : ∀ n, t.lds a n = s.lds a n := by
  intro n
  induction n generalizing a with
  | zero => rfl
  | succ n ih =>
    rw [State.lds_succ, State.lds_succ, ih]
    unfold State.ld
    rw [State.bytes_congr (t := t) (s := s) (fun i _ => by unfold State.byte; rw [h])]

end Sys2Proof.Machine
end

