-- ==== Sys2Proof/WellFormed.lean ====
section
/-! DEFINITION. Which terms stand for a command the outside world can send: a token goes to the endpoint its row names (R99), the tokens of a
message belong together (R38), lists have the length of what they stand for, and a VCT packet carries its row's TYPE and OPCODE (R370). A
meaning is total on every term; on an ill-formed one it says nothing about the device. -/

namespace Sys2Proof

/-- The token goes to endpoint `ep`. -/
def tokenTo (t : Token) (ep : Nat) : Bool := t.dest == BitVec.ofNat 10 ep

/-- The tokens that follow one another in a message (R35, R38): one producer, one path, one kind, rising seq, `last` on the last alone. -/
def followOn : Token → List Token → Bool
  | t, [] => t.last
  | t, u :: r => !t.last && t.src == u.src && t.dest == u.dest && t.stream == u.stream && t.kind == u.kind && u.seq == t.seq + 1#12 && followOn u r

/-- A whole message. -/
def oneMessage : List Token → Bool
  | [] => false
  | t :: r => followOn t r

/-- A whole message to endpoint `ep`. -/
def messageTo (ts : List Token) (ep : Nat) : Bool := oneMessage ts && ts.all (tokenTo · ep)

/-- A packet whose TYPE field is `typ`. -/
def vctOfType (p : VctIn) (typ : Nat) : Bool := decide (32 ≤ p.bytes.length) && p.bytes.getD 3 0#8 == BitVec.ofNat 8 typ

/-- A command packet with OPCODE `op`. -/
def vctCommand (p : VctIn) (op : Nat) : Bool :=
  vctOfType p 1 && p.bytes.getD 12 0#8 == BitVec.ofNat 8 (op / 256) && p.bytes.getD 13 0#8 == BitVec.ofNat 8 op

/-- The well-formed commands. -/
def Instr.wf (c : Instr) : Bool :=
  match c with
  | .queueEnqueue n tok _ => tokenTo tok (0x380 + n.val)
  | .colAccept n tok => tokenTo tok (0x300 + n.val)
  | .triggerStartPeriodic n tok => tokenTo tok (0x378 + n.val)
  | .triggerStop n tok => tokenTo tok (0x378 + n.val)
  | .triggerSingle n tok => tokenTo tok (0x378 + n.val)
  | .mwrWrite toks => oneMessage toks
  | .swap toks => oneMessage toks
  | .fetchAdd toks => oneMessage toks
  | .compareAndSwap toks => oneMessage toks
  | .cwr tok => tokenTo tok (0x12)
  | .cww toks _ => messageTo toks (0x12)
  | .barrierFanout tok => tokenTo tok (0xE)
  | .barrier pg tok => tokenTo tok (0x40 + pg.val)
  | .portTokenArrival r p tok _ => tokenTo tok (0x80 + 8 * r.val + p.val)
  | .postedWriteAck r tok => tokenTo tok (0x80 + 8 * r.val + 6)
  | .arm n tok => tokenTo tok (0x40 + n.val)
  | .pause n tok => tokenTo tok (0x40 + n.val)
  | .resume n tok => tokenTo tok (0x40 + n.val)
  | .abort n tok => tokenTo tok (0x40 + n.val)
  | .disarm n tok => tokenTo tok (0x40 + n.val)
  | .gateSample n toks => messageTo toks (0x40 + n.val)
  | .trackingTarget n tok => tokenTo tok (0x40 + n.val)
  | .coefficientSet l toks => messageTo toks (0x200 + l.val)
  | .setpointAccept l tok => tokenTo tok (0x200 + l.val)
  | .ctrimSet n tok => tokenTo tok (0x248 + n.val)
  | .auxSetpoint k tok => tokenTo tok (0x260 + k.val)
  | .cameraSetting k toks => messageTo toks (0x120 + k.val)
  | .i2cTransaction k toks => messageTo toks (0x140 + k.val)
  | .i2cDone _ _ _ bytes => decide (bytes.length ≤ 255)
  | .ruleRecord n toks => messageTo toks (0x248 + n.val)
  | .auxMove toks => messageTo toks (0xB)
  | .auxStop tok => tokenTo tok (0xB)
  | .jog k tok => tokenTo tok (0x260 + k.val)
  | .capRecord _ data => data.length == 28
  | .sfsReceive _ _ _ _ data => data.length == 28
  | .smpBlockReceive _ _ _ _ data => data.length == 28
  | .tokBlockReceive _ _ _ _ data => data.length == 28
  | .ethernetFrame _ frame _ _ => decide (14 ≤ frame.length)
  | .ping p => vctCommand p 0x1
  | .status p => vctCommand p 0x2
  | .vctCwrd p => vctCommand p 0x3
  | .vctCwwr p => vctCommand p 0x4
  | .rxopen p => vctCommand p 0x10
  | .dataChunk p => vctOfType p 3
  | .rxclose p => vctCommand p 0x11
  | .rxabort p => vctCommand p 0x12
  | .rxstat p => vctCommand p 0x13
  | .deliver p => vctCommand p 0x20
  | .subscribe p => vctCommand p 0x30
  | .keyset p => vctCommand p 0x40
  | .keyclr p => vctCommand p 0x41
  | .timeset p => vctCommand p 0x50
  | .fwstage p => vctCommand p 0x60
  | .vctReset p => vctCommand p 0x70
  | .daleup p => vctCommand p 0x81
  | .upload toks => messageTo toks (0x87)
  | .reply toks => messageTo toks (0x87)
  | .uack p => vctOfType p 5
  | .gorgeJobSubmit tok => tokenTo tok (9)
  | .gorgeAbort tok _ => tokenTo tok (9)
  | .housekeepingRound sens rails => sens.length == 18 && rails.length == 9
  | .queuePush .. | .queuePop .. | .queueCfgWrite .. | .queueDropsRead .. | .collRead .. | .pllLock | .timerefLoss | .pllRelock ..
  | .slewEnd | .tbPtWrite .. | .syncBeacon | .colRelease .. | .colSecondEdge .. | .colFaultClear .. | .colEnClear .. | .colEnSet ..
  | .colSlackRead .. | .colLateRead .. | .colCoincRead .. | .triggerRelease .. | .mrd .. | .plainScrub | .plainEccRead ..
  | .plainEccaddrRead .. | .refusalPoint .. | .barrierJudge | .zAdd .. | .zSub .. | .zAnd .. | .zOr .. | .zXor .. | .zAndn ..
  | .zShl .. | .zShr .. | .zSar .. | .zRor .. | .zMin .. | .zMax .. | .zMinu .. | .zMaxu .. | .zClz .. | .zCtz .. | .zPopc ..
  | .zBswap .. | .zMul .. | .zMulhu .. | .zMulhs .. | .zDivu .. | .zDivs .. | .zRemu .. | .zRems .. | .zSextw .. | .zAddsat ..
  | .zSubsat .. | .zAddi .. | .zAndi .. | .zOri .. | .zXori .. | .zShli .. | .zShri .. | .zSari .. | .zMuli .. | .zLi .. | .zLso ..
  | .zLb .. | .zLbu .. | .zLh .. | .zLhu .. | .zLw .. | .zLwu .. | .zLd .. | .zSb .. | .zSh .. | .zSw .. | .zSd .. | .zCmp ..
  | .zCmpi .. | .zPlog .. | .zBr .. | .zCall .. | .zJalr .. | .zTpoll .. | .zTtag .. | .zTset .. | .zTsendl .. | .zTsel ..
  | .zTcred .. | .zGets .. | .zPuts .. | .zEret .. | .zBrk .. | .zHalt .. | .zFence .. | .zGetmt .. | .zWaitt .. | .zRld .. | .zRst ..
  | .zRswp .. | .zRadd .. | .zRcas .. | .zCwrd .. | .zCwwr .. | .zRget .. | .zRput .. | .zRmove .. | .asyncCauseTaken ..
  | .portTimeout .. | .bulkComplete .. | .coreStart .. | .coreHalt .. | .coreStep .. | .coreImgWrite .. | .coreRotation ..
  | .coreFailed .. | .coreRestart .. | .pgJump .. | .pgMark .. | .pgJumpr .. | .pgMarkr .. | .pgArc .. | .pgPark .. | .pgSpeed ..
  | .pgPower .. | .pgFocus .. | .pgRamp .. | .pgGate .. | .pgOwn .. | .pgPart .. | .pgVid .. | .pgNop .. | .pgDwell ..
  | .pgDwellEnd .. | .pgMarker .. | .pgLend .. | .pgTrig .. | .pgRecord .. | .pgLook .. | .windowPoll .. | .leadUpdate ..
  | .underrun .. | .wringWrite .. | .leadMinRead .. | .pausePoint .. | .resumeRun .. | .plan .. | .segmentCommit .. | .straceEnSet ..
  | .interpolate .. | .powerTarget .. | .sampleMissing .. | .trackingCycle .. | .trkEnClear .. | .limcntRead .. | .gresRead ..
  | .mapnextWrite .. | .mapCheckDone .. | .mapSwap .. | .chainDecide .. | .stare .. | .narmWrite .. | .hrecEnSet ..
  | .saddleCntRead .. | .yieldRead .. | .galvoCycle .. | .powerLoopCycle .. | .pairMissing .. | .auxPositionCycle ..
  | .auxCurrentCycle .. | .fftnWrite .. | .fftCopyDone .. | .loopEnable .. | .loopDisable .. | .unitFail .. | .stbaseWrite ..
  | .servoCntRead .. | .servoLoopCntRead .. | .scEnable .. | .scCntRead .. | .encEdge .. | .indexEvent .. | .indexHome ..
  | .hallChange .. | .hallTimeout .. | .speedUpdate .. | .encCntRead .. | .hallCntRead .. | .probeEvent .. | .probeRecord ..
  | .probeArm .. | .prbDropsRead .. | .emuUpdate .. | .emuEnable .. | .frameStart .. | .linePacket .. | .frameEnd .. | .fswinExpiry ..
  | .ipEnable .. | .csiCntRead .. | .ipCntRead .. | .ruleEnable .. | .ruleDisable .. | .ruleCntRead .. | .stareRecord | .lrecEnSet ..
  | .processRecord .. | .prdropRead .. | .moveStart .. | .moveComplete .. | .settleTimeout .. | .auxEnable .. | .auxDisable ..
  | .holdiSet .. | .hubLinkTimeout .. | .auxFaultClear .. | .linkEnable .. | .linkRestart .. | .detectPoll .. | .symbolLock ..
  | .linkStateTimeout .. | .superframeStart .. | .refclkLoss .. | .laneModeWrite .. | .prbsStart .. | .prbsEnd .. | .eqLimit ..
  | .prbsCountRead .. | .linkCntRead .. | .transmitStamp .. | .linkChange .. | .ptpSync .. | .announce .. | .syncLoss
  | .announceTimeout | .digestDone .. | .fwstageComplete .. | .mirrorWrite .. | .uplSend .. | .uploadRetransmit .. | .ethCntRead ..
  | .vctCntRead .. | .dramTraining .. | .hashWrite .. | .pageClose .. | .refreshTick .. | .mr4Poll .. | .rfm .. | .powerDownEntry ..
  | .selfRefreshEntry .. | .selfRefreshExit .. | .sreqWrite .. | .zqCalibration .. | .dqsOscillator .. | .dramScrub | .dramEccRead ..
  | .dramEccaddrRead .. | .dramCntRead .. | .gorgeJobStart .. | .gorgeJobEnd .. | .gorgeCntRead .. | .gorgeBytesRead .. | .statusRaise
  | .statusAcknowledge .. | .lrearm .. | .errel .. | .errorMinimumEnd | .safeInputFall .. | .safeDiscrepancy | .injection ..
  | .dalePop .. | .daleFreeze .. | .daleLostRead .. | .ecCtrlWrite .. | .ecCountRead .. | .porstAssert | .porstRelease ..
  | .resetRelease .. | .brownoutWarning .. | .brownoutReset .. | .throttleSlot | .blockSleep .. | .wakePermitGrant | .permitReturn
  | .hkWakeRead .. | .vaultSupplyLoss .. | .crystalStop | .tamper | .mrel .. | .backgroundTest .. | .repairRecordWrite | .confirm ..
  | .svnburn .. | .revoke .. | .blockLock .. | .badBlock .. | .safeInputRise .. | .resetAssert | .brownoutRecovery ..
  | .vaultSupplyReturn | .crystalRestart | .creditReturn .. | .rspAbsorbed .. | .dramThrottleEnd .. | .wakeComplete .. | .earlyWake ..
  | .coreMoveComplete .. | .eachUsOfMt | .tapAccess .. => true

end Sys2Proof
end

