-- ==== Sys2Proof/Tests/Slice0.lean ====
section
/-! SUPPORT. Tests: concrete states and operands that meet the statements' hypotheses, an ill-formed term for each check of WellFormed, and
the words of the table, which spell no command. The kernel evaluates each in turn. -/

namespace Sys2Proof.Machine

open Sys2Proof

set_option Elab.async false

/-- The reset state with control fields set. -/
def tst (ws : List (Fld × Nat × Nat)) (s : State := State.reset) : State := ws.foldl (fun s w => s.setF w.1 w.2.1 w.2.2) s

/-- Requests of S2's port 0 and of S0's port 0, with ACK. -/
def fromS2 : CwFrom := ⟨0x90#10, 0, 5, true⟩
def fromS0 : CwFrom := ⟨0x80#10, 0, 5, true⟩

/-- A token of S2 and one of S0. -/
def tokS2 (dest kind stream : Nat) (w : Word) : Token := mkTok 0x90 dest kind stream w
def tokS0 (dest kind stream : Nat) (w : Word) : Token := mkTok 0x80 dest kind stream w

/-- The token, timed. -/
def tokAt (t : Token) (time : Nat) : Token := { t with timed := true, time := BitVec.ofNat 48 time }

/-- Path generator 23 in state `st`, with its record and further fields; an item of its plan. -/
def tpg (st : Nat) (q : PgSt) (ws : List (Fld × Nat × Nat) := []) : State :=
  (tst ([(PG.JOB.STATE, 23, st)] ++ ws) (State.reset.setBasin { goff := false })).setPg 23 q
def titem (op : LOp) (t0 t1 : Nat) : Item := { ofs := 8, win := 0, op, pmBefore := {}, pmAfter := { pwr := 7 }, posBefore := {}, t0, t1 }
def tvec : PVec := { vid := 4, part := 0, ofs := 16, geom := .line {} ⟨100, 0, 0⟩, len := 100 * unitWpu, mspd := 1, pwr := 9, ron := 0, roff := 0, gtol := 16,
                     keep := false, feather := 0, level := 0, lookEn := false, parts := [⟨0, 100, 0, 0⟩] }

/-- Role 15's core running at PC 0x100 with registers 1 to 3 set, and the state with a core `c` of role 15. -/
def tcore : Core := ((({ pc := 0x100 } : Core).setReg 1 0x10007).setReg 2 0xFFFFFFFFFFFFFFF9).setReg 3 0x10008
def trole (c : Core) : State := tst [(CORE.STAT.STATE, 15, 1)] (State.reset.setCore 15 c)


theorem wit_step : (State.reset.setPending [.statusRaise]).canonical = true ∧ (State.reset.setPending [.statusRaise]).pending = [.statusRaise] ∧
    State.reset.pending = [] := by decide +kernel
theorem wit_step_next : step (State.reset.setPending [.statusRaise]) = .next State.reset := rfl
theorem wit_register_read : readRow (.queueDropsRead 63 fromS2) = some (QUEUE.STAT.DROPS.addr 63, fromS2) ∧ State.reset.canonical = true ∧
    State.reset.cwRefusal (QUEUE.STAT.DROPS.addr 63) fromS2.src = none ∧ blockOf (QUEUE.STAT.DROPS.addr 63) ≠ 7 := by decide +kernel
theorem wit_cwr : (cwTok fromS2 kindCWR 0 (cwPayload (COL.CFG.EN.addr 127) false) true).kind = kindCWR ∧
    cwrFormed (cwPayload (COL.CFG.EN.addr 127) false) = true ∧
    State.reset.cwRefusal (cwAddr (cwPayload (COL.CFG.EN.addr 127) false)) fromS2.src = none := by decide +kernel
theorem wit_cwr_refused : State.reset.cwRefusal 0x100000038 fromS2.src = some 1 ∧ State.reset.cwRefusal 0x2000 fromS2.src = some 2 ∧
    State.reset.cwRefusal LANE.CFG.MODE.base fromS2.src = some 3 ∧ cwrFormed (cwPayload LANE.CFG.MODE.base false) = true := by decide +kernel

/-! Queues -/

/-- Queue 3: enabled, a ring of 2^6 entries at 0x1000, whose fill is `n`. -/
def tq (n : Nat) (ws : List (Fld × Nat × Nat) := []) : State :=
  tst ([(QUEUE.CFG.EN, 3, 1), (QUEUE.CFG.LOG2SIZE, 3, 6), (QUEUE.BASE.V, 3, 0x80), (QUEUE.PTR.HEAD, 3, 127), (QUEUE.PTR.TAIL, 3, (127 + n) % 128)] ++ ws)

theorem wit_queue_takes : QueueTakes (tq 63) 3 (tokS2 0x383 0 1 7) ∧ (tq 63).qFill 3 < (tq 63).qSize 3 := by
  unfold QueueTakes; decide +kernel
theorem wit_queue_full : QueueTakes (tq 64) 3 (tokS2 0x383 0 1 7) ∧ (tq 64).qFill 3 = (tq 64).qSize 3 ∧ (tq 64).f QUEUE.CFG.OVF 3 = 0 := by
  unfold QueueTakes; decide +kernel
theorem wit_queue_full_1 : QueueTakes (tq 64 [(QUEUE.CFG.OVF, 3, 1)]) 3 (tokS2 0x383 0 1 7) ∧ (tq 64 [(QUEUE.CFG.OVF, 3, 1)]).qFill 3 = 64 ∧
    (tq 64 [(QUEUE.CFG.OVF, 3, 2)]).f QUEUE.CFG.OVF 3 = 2 ∧ QueueTakes (tq 64 [(QUEUE.CFG.OVF, 3, 2)]) 3 (tokS2 0x383 0 1 7) := by
  unfold QueueTakes; decide +kernel
theorem wit_queue_refuses : isResident 0x80#10 = true ∧ neverAnswered (tokS0 0x383 11 0 0) = false ∧ (tokS0 0x383 11 0 0).kind = 11#4 ∧
    (tq 63).qFill 3 < (tq 63).qSize 3 ∧ State.reset.f QUEUE.CFG.EN 3 = 0 ∧ (tokS0 0x383 0 0 0).kind ≠ 8#4 := by decide +kernel
theorem wit_queue_push : (tq 1 [(QUEUE.CFG.PUSH, 3, 1)]).canonical = true ∧ (tq 1 [(QUEUE.CFG.PUSH, 3, 1)]).f QUEUE.CFG.PUSH 3 = 1 ∧
    (tq 1 [(QUEUE.CFG.PUSH, 3, 1)]).qFill 3 ≠ 0 ∧ (tq 1 [(QUEUE.CFG.PUSH, 3, 1)]).qSize 3 ≤ 2 ^ 16 ∧ (tq 1).f QUEUE.CFG.EN 3 = 1 ∧
    (tq 1 [(QUEUE.CFG.EN, 3, 0)]).f QUEUE.CFG.EN 3 = 0 ∧ ((tq 1 [(QUEUE.CFG.EN, 3, 0)]).queue 3).hand = false := by decide +kernel
theorem wit_queue_pop : Accepted (tq 5) fromS2 (QUEUE.POP.COUNT.addr 3) 6 ∧ (tq 5).qFill 3 < QUEUE.POP.COUNT.get 6 ∧ (tq 5).canonical = true := by
  unfold Accepted; decide +kernel
theorem wit_queue_cfg : Accepted ((tq 5 [(QUEUE.CFG.EN, 3, 0)]).setHand 3 false) fromS2 (QUEUE.CFG.EN.addr 3) (QUEUE.CFG.LOG2SIZE.put 0 7) ∧
    QUEUE.CFG.LOG2SIZE.get (QUEUE.CFG.LOG2SIZE.put 0 7) ≠ (tq 5).f QUEUE.CFG.LOG2SIZE 3 := by
  unfold Accepted; decide +kernel

/-! The time base and the cols -/

theorem wit_time_base : State.reset.tb.locked = false ∧ State.reset.tb.refLost = false ∧
    (State.reset.setTb { refLost := true }).tb.refLost = true ∧ (State.reset.setTb { refLost := true }).canonical = true ∧
    (State.reset.setTb { slewEnd := 9 }).tb.refLost = false ∧ (State.reset.setTb { slewEnd := 9 }).tb.slewEnd ≠ 0 := by decide +kernel
theorem wit_pt : isResident 0x81#10 = true ∧ bits 999999999#64 31 0 < 1000000000 ∧ -549755814 ≤ sbits (wd (2 ^ 32 - 549755814)) 31 0 ∧
    sbits 549755814#64 31 0 ≤ 549755814 ∧ (2000000#64 ≠ State.reset.word TB.PTBASE.NS.base) := by decide +kernel

/-- Col 24, the LGATE of head 0's path generator, enabled at MT 10,000; a pin action for an instant. -/
def tcol (n : Nat) (ws : List (Fld × Nat × Nat) := []) : State := tst ([(COL.CFG.EN, n, 1)] ++ ws) (State.reset.setMt 10000)
def tpin (n time op width : Nat) : Token := tokAt (tokS2 (0x300 + n) 14 0 (pinPayload op 0 0 width 7)) time

theorem wit_col_takes : PinColTakes (tcol 24) 24 (tpin 24 (10000 + colLead 24) 2 2) ∧
    (colLead 24 : Int) ≤ wdiff 48 (tpin 24 (10000 + colLead 24) 2 2).time.toNat (tcol 24).mt ∧ ((tcol 24).col 24).order = none := by
  unfold PinColTakes; decide +kernel
theorem wit_col_late : PinColTakes (tcol 24) 24 (tpin 24 (10000 + colLead 24 - 1) 4 2) ∧
    wdiff 48 (tpin 24 (10000 + colLead 24 - 1) 2 2).time.toNat (tcol 24).mt < colLead 24 ∧ (tcol 24).f COL.CFG.POLICY 24 = 2 ∧
    PinColTakes (tcol 107) 107 (tpin 107 9999 0 2) ∧ (tcol 60 [(COL.CFG.POLICY, 60, 1)]).f COL.CFG.POLICY 60 = 1 := by
  unfold PinColTakes; decide +kernel
theorem wit_col_refuses : isResident 0x80#10 = true ∧ (tcol 24).canonical = true ∧ State.reset.f COL.CFG.EN 24 = 0 ∧ (tcol 47).f COL.CFG.EN 47 = 1 ∧
    neverAnswered (tokS0 0x32F 14 0 0) = false ∧ (tokS0 0x32F 14 0 0).timed = false ∧ 4 < (pinAct (tpin 103 0 5 0).payload).op := by decide +kernel
def tent (time op : Nat) : ColEntry := ⟨tpin 24 time op 5, 0, some time⟩
theorem wit_pin_release : ((tcol 24).setCol 24 { fifo := [tent 10000 3] }).canonical = true ∧ (tcol 24).mt ≤ 10000 ∧ (tent 10000 3).tok.err = false ∧
    (tent 10000 3).tok.kind = 14#4 ∧ (pinAct (tent 10000 4).tok.payload).op ≤ 4 ∧
    (((tcol 24).setCol 24 { edge := some ⟨40010, true, 0⟩ }).col 24).edge = some ⟨40010, true, 0⟩ ∧ (tcol 24).f COL.STAT.FAULT 24 = 0 := by decide +kernel
theorem wit_pin_release_fault : (tcol 47 [(COL.STAT.FAULT, 47, 1)]).f COL.STAT.FAULT 47 = 1 ∧ (pinAct (tent 10000 1).tok.payload).op = 1 := by decide +kernel
theorem wit_col_disable : (tcol 24).canonical = true ∧ (tcol 24).f COL.CFG.EN 24 = 1 ∧
    Accepted (tcol 24) fromS0 (COL.CFG.EN.addr 24) (COL.CFG.EN.put ((tcol 24).word (COL.CFG.EN.addr 24)) 0) ∧ (tcol 127).f COL.CFG.EN 127 = 1 := by
  unfold Accepted; decide +kernel
theorem wit_col_fault : Accepted (tcol 24 [(COL.STAT.FAULT, 24, 1)]) fromS0 (COL.STAT.FAULT.addr 24) (COL.STAT.FAULT.put 0 1) := by
  unfold Accepted; decide +kernel
def ttrig (op period : Nat) : Token := tokS0 0x378 2 0 (wd (place op 4 60 + place 0x40 10 50 + place 2 18 32 + period))
theorem wit_trigger_takes : (tcol 120).canonical = true ∧ ((tcol 120).col 120).fifo.length < 8 ∧ isResident (ttrig 8 5000).src = true ∧
    (ttrig 8 5000).kind = 2#4 ∧ (trigCmd (ttrig 8 5000).payload).op = 8 ∧ (trigCmd (ttrig 8 100000).payload).period = 100000 ∧
    (tcol 120).startOverloads 120 100000 = false ∧ (trigCmd (ttrig 9 0).payload).op = 9 ∧ (trigCmd (ttrig 10 0).payload).op = 10 := by decide +kernel
theorem wit_trigger_releases : ((tcol 120).setCol 120 { fifo := [⟨ttrig 8 5000, 0, none⟩] }).canonical = true ∧
    (((tcol 120).setCol 120 { sched := some ⟨10000, 5000, 2, 0x40, 1⟩ }).col 120).sched = some ⟨10000, 5000, 2, 0x40, 1⟩ ∧
    (tcol 120).mt ≤ 10000 + 1 * 5000 := by decide +kernel

/-! Memory, refusals, credits and barriers -/

/-- A state whose Plain holds 0x1122334455667788 at 0x40 with a single-bit error at 0x300, and tokens in transit. -/
def tmem (net : List Token) : State := (((State.reset.st 0x40 0x1122334455667788#64).setEcc 0x300 (some .single)).setNet net)
def tmrd (addr count : Nat) : Token := tokS2 0x10 3 1 (mrdPayload addr count)
theorem wit_memory_read : (tmem [tmrd 0x2FFFFF8 1]).canonical = true ∧ (tmrd 0x2FFFFF8 1).dest = 0x10#10 ∧ (tmrd 0x2FFFFF8 1).err = false ∧
    (tmrd 0x40 256).timed = false ∧ (memHead (tmrd 0x40 256).payload).byteen = 0 ∧ (memHead (tmrd 0x40 256).payload).op = 0 ∧
    (memHead (tmrd 0x40 256).payload).ack = false ∧
    (memHead (tmrd 0x2FFFFF8 1).payload).addr + 8 * (memHead (tmrd 0x2FFFFF8 1).payload).count ≤ 0x3000000 := by decide +kernel
def tmwr (addr count op : Nat) (ack : Bool) : Token := { tokS2 0x10 4 1 (mwrPayload addr count op ack) with last := false }
theorem wit_memory_write : (memHead (tmwr 0x40 2 0 true).payload).byteen = 255 ∧ (memHead (tmwr 0x40 2 0 true).payload).op = 0 ∧
    [tokS2 0x10 4 1 7, tokS2 0x10 4 1 8].length = (memHead (tmwr 0x40 2 0 true).payload).count ∧ (memHead (tmwr 0x40 2 0 true).payload).ack = true ∧
    (memHead (tmwr 0x40 2 0 false).payload).ack = false ∧
    (memHead (tmwr 0x2FFFFF0 2 0 true).payload).addr + 8 * 2 ≤ 0x3000000 := by decide +kernel
theorem wit_atomics : PlainAtomic (tmem []) (tmwr 0x40 1 1 false) [tokS2 0x10 4 1 7] 1 ∧ PlainAtomic (tmem []) (tmwr 0x40 1 2 false) [tokS2 0x10 4 1 7] 2 ∧
    PlainAtomic (tmem []) (tmwr 0x2FFFFF8 1 3 false) [tokS2 0x10 4 1 0x1122334455667788, tokS2 0x10 4 1 8] 3 := by
  unfold PlainAtomic; decide +kernel
theorem wit_memory_refusals : neverAnswered (tmrd 0x3000000 1) = false ∧ (memHead (tmrd 0x3000000 1).payload).addr = 0x3000000 ∧
    (memHead (tmrd 0xFFFFFF8 1).payload).addr < 0x10000000 ∧ (memHead (tmwr 0x40 1 0 true).payload).ack = true ∧
    0x100000000 ≤ (memHead (tmrd 0x100000000 1).payload).addr ∧
    (memHead (tmrd 0x1FFFFFFF8 1).payload).addr + 8 * (memHead (tmrd 0x1FFFFFFF8 1).payload).count ≤ 0x200000000 := by decide +kernel
theorem wit_absorption : neverAnswered (tokS2 0 0 0 7) = false ∧ neverAnswered (tokS2 0x10 5 0 7) = true ∧ neverAnswered { tokS2 0x10 5 0 7 with err := true } = true ∧
    neverAnswered (tokS2 0x10 12 0 0) = true := by decide +kernel
theorem wit_scrub : (tst [(PLAIN.SCRUB.PERIOD, 0, 1)] (tmem [])).canonical = true ∧ (tst [(PLAIN.SCRUB.PERIOD, 0, 1)] (tmem [])).f PLAIN.SCRUB.PERIOD ≠ 0 ∧
    0x300 / 256 / 96 = State.reset.scrub.next ∧ (tst [(PLAIN.SCRUB.PERIOD, 0, 1)] (tmem [])).eccAt 0x300 = some .single := by decide +kernel
def tcred : Token := mkTok 0x10 (portEp 17 7) 12 0 0
theorem wit_credits : tcred.kind = 12#4 ∧ tcred.dest.toNat = portEp 17 7 ∧ (State.reset.core 17).blocked = none ∧ (tmem [tcred]).canonical = true := by decide +kernel

def tbar : Token := tokAt (tokS0 0xE 8 0 3) 50000
/-- A state in which nothing blocks a barrier and path generator 25 is armed. -/
def tbars : State := (tst [(PG.JOB.STATE, 25, pgARMED)] (State.reset.setBasin { goff := false }))
theorem wit_barriers : (tbars.setFanout [tbar]).canonical = true ∧ (tbars.setFanout [tbar]).nextBarrier = some tbar ∧
    (tbars.setFanout [tbar]).barrierBlocked = false ∧ (State.reset.setFanout [tbar]).barrierBlocked = true ∧
    (State.reset.setFanout [tbar]).nextBarrier = some tbar ∧ tbar.dest = 0xE#10 ∧ tbar.kind = 8#4 ∧ tbar.err = false ∧ tbar.timed = true ∧
    (tokS0 0xE 8 0 3).timed = false := by decide +kernel
theorem wit_barrier_pg : ({ tbar with dest := 0x59#10 } : Token).dest = BitVec.ofNat 10 (0x40 + (25 : Fin 26)) ∧ srcAllowed 0x59 tbar.src = true ∧
    tbars.passed = [] ∧ tbars.pgState 25 = pgARMED ∧ tbars.layerExpected 25 (bits tbar.payload 31 0) = true ∧ tbars.barrierBlocked = false ∧
    State.reset.barrierBlocked = true := by decide +kernel
def theldq (time : Nat) : Token := tokAt (cwTok fromS2 kindCWR 0 (cwPayload (QUEUE.CFG.EN.addr 3) false) true) time
theorem wit_beacon : (State.reset.setHeld [[theldq 256]]).canonical = true ∧ (State.reset.setHeld [[theldq 257]]).held = [[theldq 257]] ∧
    State.reset.passed = [] ∧ (∀ r, r < 18 → (State.reset.setHeld [[theldq 256]]).coreState r ≠ 3) ∧
    0 < wdiff 48 (theldq 257).time.toNat 256 ∧ wdiff 48 (theldq 256).time.toNat 256 ≤ 0 ∧ (theldq 256).dest = 0x12#10 ∧
    cwrFormed (theldq 256).payload = true ∧ State.reset.cwRefusal (cwAddr (theldq 256).payload) (theldq 256).src = none := by decide +kernel

/-! The strath cores -/

theorem wit_ready : Ready (trole tcore) 15 0 ∧ aluRow (.zSub 15 0 31 1 2 0) = some (15, 0, 31, 1, 2, 0#2, fun x y => x - y) ∧
    (unaryRow (.zClz 15 0 31 1 0 0)).isSome := by
  refine ⟨by unfold Ready; decide +kernel, rfl, rfl⟩
def tport (p : Port) : Core := tcore.setPort 7 p
theorem wit_alu_ports : (aluRow (.zAdd 15 0 31 7 2 1)).isSome ∧ portField 7 = true ∧ ((trole tcore).core 15).port 7 = {} ∧
    (((trole (tport { buf := [tokS2 0x107 0 0 9] })).core 15).port 7).buf = [tokS2 0x107 0 0 9] ∧ (tokS2 0x107 0 0 9).err = false ∧
    ((trole tcore).core 15).ex = false ∧ (trole (tport { dest := 0x84 })).credits (((trole (tport { dest := 0x84 })).core 15).port 7) 0x84 ≠ 0 := by
  decide +kernel
theorem wit_immediates : (immRow (.zAddi 15 0 31 1 0x7FF)).isSome ∧ (immRow (.zShli 15 0 31 1 63)).isSome ∧
    (immRow (.zShli 15 0 31 1 63)).map (fun x => (x.2.2.2 ((trole tcore).core 15)).isSome) = some true ∧
    (immRow (.zLso 15 0 31 0xFFFF)).map (fun x => (x.2.2.2 ((trole tcore).core 15)).isSome) = some true := by decide +kernel
theorem wit_loads : (loadRow (.zLh 15 0 31 3 0xFFE)).isSome ∧
    (((trole tcore).core 15).reg 3 + (0xFFE#12).signExtend 64).toNat = 0x10006 ∧ (trole tcore).eccAt (localAddr 15 0x10006) = none ∧
    (loadRow (.zLd 15 0 31 1 1)).isSome ∧ (((trole tcore).core 15).reg 1).toNat % 8 ≠ 0 ∧
    0x20000 ≤ (((trole tcore).core 15).reg 2 + (7#12).signExtend 64 - 8).toNat := by decide +kernel
theorem wit_stores : (storeRow (.zSd 15 0 2 3 0)).isSome ∧ (((trole tcore).core 15).reg 3).toNat = 0x10008 ∧
    0x10000 ≤ 0x10008 ∧ (trole tcore).eccAt (localAddr 15 0x10008) = none ∧ (((trole tcore).core 15).reg 3 - 16).toNat < 0x10000 := by decide +kernel
theorem wit_core_rows : (coreRow (.zBr 15 0 0x3FFFC0)).map (fun x => (x.2.2 (trole tcore) ((trole tcore).core 15)).map (·.pc)) = some (some 0) ∧
    (coreRow (.zGets 15 0 5 9)).map (fun x => (x.2.2 (trole tcore) ((trole tcore).core 15)).isSome) = some true ∧
    (coreRow (.zCmp 15 0 7 6 1 2)).map (fun x => (x.2.2 (trole tcore) ((trole tcore).core 15)).isSome) = some true ∧
    ((trole tcore).core 15).guardOk 8 = false := by decide +kernel
theorem wit_remote : (remoteRow (.zRld 15 0 1 3)).map (fun x => (x.2.2.1 ((trole tcore).core 15), x.2.2.2.1)) = some (true, false) ∧
    (remoteRow (.zRld 15 0 1 1)).map (fun x => x.2.2.1 ((trole tcore).core 15)) = some false ∧
    (remoteRow (.zRst 15 0 3 1)).map (fun x => (x.2.2.1 ((trole tcore).core 15), x.2.2.2.1)) = some (true, true) ∧ ((trole tcore).core 15).posted < 16 := by
  decide +kernel
def twait : State := tst [(CORE.STAT.STATE, 15, 2)] (State.reset.setCore 15 { tcore with blocked := some ⟨0, .sys 8 4 3 0, 0, 64, some 0x10⟩ })
def tanswer (err : Bool) : Token := { mkTok 0x10 (portEp 15 6) 5 0 0x55 with err := err }
theorem wit_answer : twait.canonical = true ∧ twait.coreState 15 = 2 ∧ (twait.core 15).blocked = some ⟨0, .sys 8 4 3 0, 0, 64, some 0x10⟩ ∧
    (tanswer true).kind = 5#4 ∧ (tanswer false).src.toNat = 0x10 ∧ srcAllowed (portEp 15 6) (tanswer false).src = true ∧
    (twait.core 15).ex = false ∧ (twait.core 15).stepping = false ∧ (tanswer false).err = false := by decide +kernel
theorem wit_exceptions : ((trole tcore).core 15).ex = false ∧
    ((trole { tcore with ex := true }).core 15).ex = true ∧ (0xFFFC : Int) < ((trole { tcore with pc := 0xFFFC }).core 15).pc + 4 * (1#22).toInt ∧
    (trole tcore).mt < (((trole tcore).core 15).reg 1).toNat ∧ ((trole { tcore with posted := 1 }).core 15).posted ≠ 0 ∧
    (trole (tport { dest := 0x84 })).credits (((trole (tport { dest := 0x84 })).core 15).port 7) 0x84 ≠ 0 ∧
    (trole (tport { dest := 0x84, taken := [(0x84, 4)] })).credits (((trole (tport { dest := 0x84, taken := [(0x84, 4)] })).core 15).port 7) 0x84 = 0 := by
  decide +kernel
theorem wit_core_events : (trole { tcore with pend := some (6, 9) }).canonical = true ∧ (trole tcore).coreState 15 = 1 ∧
    ((trole tcore).core 15).blocked = none ∧ srcAllowed (portEp 15 5) (tokS2 (portEp 15 5) 2 0 0).src = true ∧
    (tst [(CORE.CFG.BLKTO, 15, 1)] twait).f CORE.CFG.BLKTO 15 ≠ 0 ∧ (tst [(CORE.CFG.BLKTO, 15, 1)] twait).coreState 15 = 2 ∧
    (tanswer true).kind = 5#4 := by decide +kernel
def tbulk : Bulk := ⟨1, 0x2FFFFF8, 0, 1⟩
theorem wit_bulk : ((trole { tcore with bulks := [tbulk] }).core 15).bulks = [tbulk] ∧ tbulk.words = 1 ∧ tbulk.src + 8 ≤ 0x3000000 ∧
    (trole { tcore with bulks := [tbulk] }).eccAt tbulk.src = none ∧ (trole { tcore with bulks := [tbulk] }).canonical = true := by decide +kernel

/-! Path generators -/

theorem wit_layer : (tpg pgRUN { items := [titem (.marker 5) 9 9] }).canonical = true ∧ (tpg pgRUN { items := [titem (.marker 5) 9 9] }).pgRunning 23 = true ∧
    (tpg pgRESUMING { dwellEnd := some 50 }).canonical = true ∧ ((tpg pgRUN { dwellEnd := some 50 }).pg 23).dwellEnd = some 50 ∧
    (layerRow (.pgMarker 23)).isSome ∧ (titem (.marker 5) 9 9).win = (tpg pgRUN {}).f PG.WPOS.XIDX 23 := by decide +kernel
theorem wit_layer_op : ∃ P : LOp → Prop, layerRow (.pgMarker 23) = some (23, P) ∧ P (titem (.marker 5) 9 9).op := ⟨_, rfl, 5, rfl⟩
theorem wit_lend : (tpg pgPAUSING { items := [titem .lend 9 12], vectors := 3, notify := 1023 }).canonical = true ∧
    (tpg pgPAUSING { items := [titem .lend 9 12], vectors := 3 }).pgRunning 23 = true ∧ (titem .lend 9 12).win = (tpg pgPAUSING {}).f PG.WPOS.XIDX 23 := by
  decide +kernel
/-- Its window 0: a descriptor of a window of `len` bytes at 0x4000 whose first word is `w`. -/
def twin (len : Nat) (w : Word) (q : PgSt) (ws : List (Fld × Nat × Nat) := []) : State :=
  ((tpg pgRUN q ([(PG.WRING.BASE, 23, 0x100), (PG.WRING.LOG2N, 23, 1)] ++ ws)).sts 0x2000 [0x4000, wd len, wd (50000 * 2 ^ 32), 1]).st 0x4000 w
theorem wit_plan : (twin 8 0x2100000000009C40 { decNew := false }).canonical = true ∧
    ((twin 8 0x2100000000009C40 {}).descr 23 0).usable = true ∧ ((twin 8 0x2100000000009C40 {}).descr 23 0).done = false ∧
    (twin 8 0x2100000000009C40 {}).windowBad 23 ((twin 8 0x2100000000009C40 {}).descr 23 0) = false ∧ (twin 8 0 {}).pgRunning 23 = true ∧
    isModal (decodeLayer 0x2100000000009C40 []) = true ∧ (twin 8 0x2100000000009C40 {}).ld 0x4000 = 0x2100000000009C40 ∧
    decodeLayer 0xA000000000000000 [] = .bad ∧ ((twin 8 0x2100000000009C40 {}).descr 23 0).len = 8 ∧
    ((twin 8 0x2100000000009C40 {}).descr 23 0).last = false ∧ ((tpg pgRUN { decNew := false }).descr 23 0).usable = false := by decide +kernel
def tseg (chain : Option Nat) : Seg := { t0 := 2000000, dur := 5, typ := 1, vid := 0, ofs := 0, geom := .line {} {}, len := 0, k := {}, chain }
theorem wit_commit : ((tpg pgRUN { segs := [tseg none] }).pg 23).segs = [tseg none] ∧ (tpg pgRUN { segs := [tseg none] }).f PG.STRACE.EN 23 = 0 ∧
    (tpg pgRUN { segs := [tseg none] }).mt + 2000000 ≤ (tseg none).t0 ∧ ((tpg pgRUN { segs := [tseg (some 3)] }).pg 23).decided.contains 3 = false ∧
    (tseg (some 3)).t0 < ((tpg pgRUN { segs := [tseg (some 3)] }).setMt 1).mt + 2000000 ∧ (tpg pgRUN { segs := [tseg none] }).canonical = true := by decide +kernel
theorem wit_lead : (twin 8 0 {}).pgState 23 = pgRUN ∧ 40000 ≤ (twin 8 0 {}).lead 23 ∧ (tpg pgRUN {}).lead 23 < 40000 ∧ ((tpg pgRUN {}).pg 23).lowCross = false := by
  decide +kernel
def tjob (op arg : Nat) : Token := tokS2 0x57 2 0 (wd (op * 2 ^ 56 + arg))
/-- Idle, with what ARM asks for. -/
def tidle : State := tpg pgIDLE {} [(SADDLE.CFG.EN, 0, 1), (SADDLEN.MAP.VALID, 23, 1), (PG.SOFTX.XMAX, 23, 9), (PG.SOFTY.YMAX, 23, 9), (PG.SOFTZ.ZMAX, 23, 9)]
theorem wit_job_token : JobToken tidle 23 1 (tjob 1 (0x90 * 2 ^ 32 + 7)) ∧ JobToken (tpg pgRUN {}) 23 2 (tjob 2 1) ∧
    JobToken (tpg pgSUSPENDED {}) 23 3 (tjob 3 10000) ∧ JobToken (tpg pgRUN {}) 23 4 (tjob 4 0) ∧ JobToken (tpg pgENDED {}) 23 5 (tjob 5 0) := by
  unfold JobToken; decide +kernel
theorem wit_job_arm : tidle.armAllowed 23 = true ∧ (tpg pgRUN {}).armAllowed 23 = false ∧ (tpg pgRUN {}).pgState 23 = pgRUN ∧
    (tpg pgENDED {}).pgState 23 = pgENDED ∧ tidle.pgState 23 = pgIDLE ∧ bits (tjob 3 10000).payload 15 0 ≤ 10000 := by decide +kernel
def tsusp : State := (twin 8 0 {}).setF PG.JOB.STATE 23 pgSUSPENDED
theorem wit_job_resume : tsusp.resumeAllowed 23 = true ∧ (tsusp.descr 23 (tsusp.f PG.WPOS.XIDX 23)).offset ≤ tsusp.f PG.SUSP.OFS 23 ∧
    tsusp.f PG.SUSP.OFS 23 < (tsusp.descr 23 (tsusp.f PG.WPOS.XIDX 23)).offset + (tsusp.descr 23 (tsusp.f PG.WPOS.XIDX 23)).len ∧
    (tpg pgRUN {}).resumeAllowed 23 = false := by decide +kernel
theorem wit_pause_point : (tpg pgPAUSING { pause := some false, notify := 0x90, items := [titem .nop 9 9] }).canonical = true ∧
    ((tpg pgPAUSING { pause := some false, items := [titem .nop 9 9] }).pg 23).inHandoff = false ∧
    ((tpg pgPAUSING { pause := some false }).pg 23).pause = some false := by decide +kernel
theorem wit_underrun : (tpg pgRUN { decOfs := 16 }).pgRunning 23 = true ∧ ((tpg pgRUN {}).pg 23).items = [] ∧ ((tpg pgRUN {}).pg 23).decEnd = false ∧
    ((tpg pgRUN {}).descr 23 ((tpg pgRUN {}).f PG.WPOS.RIDX 23)).usable = false ∧ ((tpg pgRUN {}).pg 23).openVec = none ∧
    (tpg pgRESUMING { items := [titem .nop 9 9] }).pgState 23 = pgRESUMING ∧ (tpg pgRESUMING {}).f PG.SUSPV.DIST 23 = 0 := by decide +kernel
/-- Its map is active and COL120 runs with a period of 10,000 ns. -/
def tcycle (q : PgSt) (ws : List (Fld × Nat × Nat) := []) (st : Nat := pgIDLE) : State :=
  (tpg st q ([(SADDLEN.MAP.VALID, 23, 1), (PG.CFG.ILEAD, 23, 30)] ++ ws)).setCol 120 { sched := some ⟨100000, 10000, 0, 0, 0⟩ }
theorem wit_interpolate : (tcycle {}).canonical = true ∧ (tcycle {}).f SADDLEN.MAP.VALID 23 = 1 ∧ (tcycle {}).servoPeriod ≠ 0 ∧ (tcycle {}).tracking 23 = false ∧
    (tcycle {}).pgRunning 23 = false ∧ ((tcycle {}).pg 23).frozen = false ∧
    (((tcycle {}).reach ((tcycle {}).nextCycle 23 - 30 * 1000 - 10000)).convert 23 (((tcycle {}).pg 23).planned ((tcycle {}).nextCycle 23))).isSome = true := by
  decide +kernel
theorem wit_power_target : (tpg pgRUN { lastPower := 5 }).pgRunning 23 = true ∧ (tpg pgRUN { lastPower := 5 }).powerAt 23 9 ≠ ((tpg pgRUN { lastPower := 5 }).pg 23).lastPower ∧
    (tpg pgRUN {}).powerAt 23 9 = ((tpg pgRUN {}).pg 23).lastPower := by decide +kernel
def tgate (k : Nat) : Token := mkTok 0xA 0x57 0 5 (wd (50000 * 2 ^ 16 + k)) false
theorem wit_gate_sample : (tgate 0).kind = 0#4 ∧ (tgate 0).src = 0xA#10 ∧ (tgate 0).stream = 5#8 ∧ bits (tgate 0).payload 7 6 = 0 ∧
    srcAllowed 0x57 (tgate 0).src = true ∧ ((tpg pgRUN {}).pg 23).sy = none := by decide +kernel
theorem wit_sample_missing : ((tpg pgRUN { edges := [⟨1, tvec, 0, 0⟩] }).pg 23).edges = [⟨1, tvec, 0, 0⟩] ∧
    ((tpg pgRUN { edges := [⟨1, tvec, 0, 0⟩] }).emitting 23 0).isSome = false ∧ (tpg pgRUN { edges := [⟨1, tvec, 0, 0⟩] }).canonical = true := by decide +kernel
def ttrk (z : Nat) : Token := tokS2 0x57 1 3 (wd z)
theorem wit_tracking : srcAllowed 0x57 (ttrk 10).src = true ∧ (ttrk 10).kind = 1#4 ∧ (ttrk 10).timed = false ∧ (ttrk 10).stream = 3#8 ∧
    (tcycle {} [(PG.TRK.EN, 23, 1), (PG.SOFTZ.ZMAX, 23, 9)]).pgState 23 = pgIDLE ∧ (tcycle {} [(PG.TRK.EN, 23, 1)]).f PG.TRK.EN 23 = 1 ∧
    (tcycle {} [(PG.TRK.EN, 23, 1)]).servoPeriod ≠ 0 ∧ (tpg pgRUN {}).pgState 23 ≠ pgIDLE := by decide +kernel

/-! Correction maps, the Saddle and the servo engine -/

theorem wit_mapnext : Accepted State.reset fromS2 (SADDLEN.MAPNEXT.WHEN.addr 23) (SADDLEN.MAPNEXT.WHEN.put 0 2) ∧
    ((State.reset.setMapSt 23 { checking := true }).mapSt 23).checking = true ∧ (State.reset.setMapSt 23 { checking := true }).canonical = true ∧
    (State.reset.setMapSt 23 { checking := true }).mapCheck 0 = false := by unfold Accepted; decide +kernel
def tswap : State := tpg pgIDLE {} [(SADDLEN.MAPNEXT.WHEN, 23, 2), (SADDLEN.MAPNEXT.OK, 23, 1), (SADDLEN.MAPNEXT.BASE, 23, 64)]
theorem wit_map_swap : tswap.f SADDLEN.MAPNEXT.WHEN 23 = 2 ∧ tswap.f SADDLEN.MAPNEXT.OK 23 = 1 ∧ (tswap.mapSt 23).notBefore ≤ tswap.mt ∧
    tswap.atRest 23 = true ∧ tswap.canonical = true := by decide +kernel
/-- Head 23 has planned one vector of its own in chain 0, from 3 ms on. -/
def tchainSeg : Seg := { t0 := 3000000, dur := 100, typ := 2, emit := true, vid := 4, ofs := 16, geom := tvec.geom, len := tvec.len, k := { v := unitWpu }, chain := some 0 }
def tchain : State := tpg pgRUN { items := [{ titem (.mark false 0 100 0) 3000000 3000100 with vec := some tvec }], chain := 1, segs := [tchainSeg] }
  [(SADDLE.CFG.EN, 0, 1), (SADDLE.CFG.SEPEN, 0, 0), (SADDLE.CFG.PLUMEN, 0, 0)]
theorem wit_chain : tchain.canonical = true ∧ tchain.f SADDLE.CFG.EN = 1 ∧ tchain.f SADDLE.CFG.SEPEN = 0 ∧ tchain.f SADDLE.CFG.PLUMEN = 0 ∧
    (tchain.pg 23).decided.contains tvec.chain = false ∧ tvec.len ≠ 0 ∧ tvec.shared = false ∧ tvec.parts = [⟨0, tvec.len / unitWpu, 0, 0⟩] ∧
    tchain.sets = [] ∧ tchain.chainFirst 23 0 = true ∧ tchain.mt + 2500000 ≤ (tchain.pg 23).chainStart 0 := by decide +kernel
def tlook (h1 : Nat) : Look := { ha := 0, h0 := 3000000, h1, hold := {} }
/-- Head 0 emits while head 23 looks. -/
def tlooks (h1 : Nat) : State :=
  (tst [(PG.CFG.PSCALE, 0, 32768), (SADDLE.LOOK.LLEAD, 0, 10), (SADDLE.LOOK.LWID, 0, 2), (SADDLE.LOOK.LSETTLE, 0, 0)]
    (tchain.setPg 0 { tchain.pg 23 with segs := [{ tchainSeg with dur := 100000, k := {} }] })).setPg 23 { look := some (tlook h1) }
theorem wit_stare : (tlooks 4000000).canonical = true ∧ ((tlooks 4000000).pg 23).look = some (tlook 4000000) ∧
    (tlooks 4000000).stareOk 23 (tlook 4000000) 0 = true ∧ (tlooks 3011000).stareOk 23 (tlook 3011000) 0 = true ∧
    (tlooks 3010999).stareOk 23 (tlook 3010999) 0 = false := by decide +kernel

/-- A coefficient set of one section for loop `l`, and its tokens. -/
def tset1 (bad : Nat) : List Token := [mkTok 0x90 0x200 0 8 (wd (7 * 2 ^ 48 + 15 * 2 ^ 8 + 1 + bad)) false, mkTok 0x90 0x200 0 8 0 false,
  mkTok 0x90 0x200 0 8 (wd (1 * 2 ^ 40)) false]
def tset1end : Token := mkTok 0x90 0x200 0 8 0
theorem wit_coefficients : (∀ u ∈ tset1 0 ++ [tset1end], u.kind = 0#4 ∧ u.stream = 8#8 ∧ u.err = false) ∧ tset1end.timed = false ∧
    State.reset.f SERVON.CFG.EN 0 = 0 ∧ (parseSet 0 ((tset1 0 ++ [tset1end]).map (·.payload))).isSome = true ∧
    (parseSet 0 ((tset1 0 ++ [tset1end]).map (·.payload))).map (·.bnd) = some false ∧ (State.reset.loop 0).tableWhen = none ∧
    parseSet 0 ((tset1 16 ++ [tset1end]).map (·.payload)) = none := by decide +kernel
def tsetp : Token := tokAt (tokS2 0x26F 1 0 5) 900
theorem wit_setpoint : tsetp.kind = 1#4 ∧ tsetp.err = false ∧ tsetp.timed = true ∧ (State.reset.loop 111).setpts.length < setptDepth 111 ∧
    setptDepth 111 ≤ ((State.reset.setLoop 111 { setpts := List.replicate 48 (1, 1) }).loop 111).setpts.length ∧
    (State.reset.setLoop 111 { setpts := List.replicate 48 (1, 1) }).canonical = true ∧ (tokS2 0x26F 1 0 5).timed = false := by decide +kernel
theorem wit_aux_setpoint : (tst [(AUX.CFG.EXT, 7, 1)]).f AUX.CFG.EXT 7 = 1 ∧ ((tst [(AUX.CFG.EXT, 7, 1)]).loop (96 + 7)).setpts = [] ∧
    (tst [(AUX.CFG.EXT, 7, 1)]).canonical = true ∧ tsetp.stream = 0#8 ∧ State.reset.f AUX.CFG.EXT 7 = 0 := by decide +kernel
def tctrim : Token := tokS2 0x25F 0 1 0xFFFF
theorem wit_ctrim : AtOnce State.reset tctrim ∧ tctrim.kind = 0#4 ∧ tctrim.stream = 1#8 ∧ bits tctrim.payload 63 16 = 0 ∧
    State.reset.f SERVO.RULE.CFG.EN 23 = 0 ∧ (tst [(SERVO.RULE.CFG.EN, 23, 1)]).f SERVO.RULE.CFG.EN 23 = 1 := by unfold AtOnce; decide +kernel
/-- Loop 71 enabled at a COL120 cycle of 10,000 ns. -/
def tloop (x : Loop) (ws : List (Fld × Nat × Nat) := []) : State :=
  ((tst ([(SERVON.CFG.EN, 71, 1), (SERVON.LIM.OMAX, 71, 1000), (SERVO.CFG.SAGE, 0, 500), (SERVON.CFG.RSTEP, 71, 0)] ++ ws)).setCol 120 { sched := some ⟨100000, 10000, 0, 0, 0⟩ }).setLoop 71 x
def tloopx : Loop := { begun := true, samples := [⟨119500, 160, 0⟩], setpts := [(115000, wd (20 * 2 ^ 40))] }
theorem wit_galvo : (tloop {}).canonical = true ∧ (tloop {}).f SERVON.CFG.EN 71 = 1 ∧ (tloop {}).isCycle 120 120000 = true ∧ ((tloop {}).loop 71).pend = none ∧
    ((tloop {}).loop 71).tableWhen = none ∧ ((tloop {}).loop 71).samples = [] ∧ (tloop tloopx).windowSample 71 120000 (tloop tloopx).servoPeriod = some ⟨119500, 160, 0⟩ ∧
    (takeSetpt ((tloop tloopx).loop 71).setpts 120000).1 = some (115000, wd (20 * 2 ^ 40)) ∧ 120000 - (tloop tloopx).servoPeriod < 115000 ∧
    (tloop tloopx).f SERVON.CFG.RSTEP 71 = 0 ∧ (tloop tloopx).f SERVON.FFT.VALID 71 = 0 ∧ ((tloop tloopx).loop 71).begun = true := by decide +kernel
def tpower : State := (tst [(SERVON.CFG.EN, 95, 1), (SERVON.LIM.OMAX, 95, 1000)]).setLoop 95 { pairs := [⟨5000, 1, 2, 3, 4⟩] }
theorem wit_power_cycle : tpower.canonical = true ∧ tpower.f SERVON.CFG.EN 95 = 1 ∧ (tpower.loop 95).pairs = [⟨5000, 1, 2, 3, 4⟩] ∧ (tpower.loop 95).pend = none ∧
    (tpower.loop 95).tableWhen = none ∧ tpower.gatedAt 23 5000 = true := by decide +kernel
def taux (l : Nat) (ws : List (Fld × Nat × Nat) := []) : State :=
  ((tst ([(SERVON.CFG.EN, l, 1)] ++ ws)).setCol 121 { sched := some ⟨100000, 10000, 0, 0, 0⟩ }).setCol 122 { sched := some ⟨100000, 10000, 0, 0, 0⟩ }
theorem wit_aux_cycles : (taux 103).canonical = true ∧ (taux 103).f SERVON.CFG.EN (96 + 7) = 1 ∧ (taux 103).isCycle 121 110000 = true ∧
    (taux 103 [(POS.AX.SRC.V, 7, 2)]).f POS.AX.SRC.V 7 = 2 ∧ ((taux 103).aux 7).samples = [] ∧ (taux 111).isCycle 122 100000 = true ∧
    (((taux 111).setAux 7 { samples := [⟨0, 1, 2, 3, 4⟩] }).aux 7).samples ≠ [] ∧ ((taux 111).loop 111).extrap = 0 := by decide +kernel
def tgated : State := (tst [(SERVON.CFG.EN, 95, 1)] (State.reset.setMt 700)).setGateLog [(23, 600, true)]
theorem wit_pair_missing : tgated.canonical = true ∧ gateRiseAt tgated.gateLog 23 tgated.mt = some 600 ∧ gateLevelAt tgated.gateLog 23 tgated.mt = true ∧
    tgated.f SERVON.CFG.EN (72 + 23) = 1 ∧ (tgated.loop 95).clearNext = false := by decide +kernel
theorem wit_fftn : Accepted State.reset fromS2 (SERVON.FFTN.WHEN.addr 71) (SERVON.FFTN.WHEN.put 0 1) ∧
    ((State.reset.setLoop 111 { copying := true }).loop 111).copying = true ∧ ((State.reset.setLoop 111 { copying := true }).loop 111).tableWhen ≠ some .now ∧
    (State.reset.setLoop 111 { copying := true }).canonical = true ∧ Accepted State.reset fromS0 SERVO.STBASE.BASE.base 0 := by unfold Accepted; decide +kernel
theorem wit_unit_fail : (State.reset.unitsIn 0).contains 5 = true ∧ State.reset.unitsIn 1 = 6 :: [] ∧ State.reset.canonical = true := by decide +kernel

/-! Position feedback -/

def tenc (x : EncSt) (ws : List (Fld × Nat × Nat) := []) : State := (tst ([(POS.ENC.CFG.EN, 7, 1), (POS.ENC.CFG.FILT, 7, 3), (POS.ENC.ICFG.GEN, 7, 0), (POS.ENC.ICFG.ITOL, 7, 0)] ++ ws)).setEnc 7 x
theorem wit_enc_edge : (tenc {}).canonical = true ∧ (tenc {}).f POS.ENC.CFG.EN 7 = 1 ∧ (tenc {}).f POS.ENC.CFG.FILT 7 < 4 ∧
    (quadState true false + 4 - quadState ((tenc {}).enc 7).a ((tenc {}).enc 7).b) % 4 = 1 ∧ (quadState false true + 4) % 4 = 3 ∧
    (quadState true true + 4 - quadState false false) % 4 = 2 := by decide +kernel
theorem wit_index : ((tenc {} [(POS.ENC.ICFG.IHOME, 7, 1), (POS.ENC.ICFG.IACT, 7, 1)]).enc 7).i ≠ true ∧
    true = (tenc {} [(POS.ENC.ICFG.IHOME, 7, 1), (POS.ENC.ICFG.IACT, 7, 1)]).on POS.ENC.ICFG.IACT 7 ∧
    (tenc {} [(POS.ENC.ICFG.IHOME, 7, 1)]).f POS.ENC.ICFG.GEN 7 = 0 ∧ (tenc {} [(POS.ENC.ICFG.IHOME, 7, 1)]).f POS.ENC.ICFG.IHOME 7 = 1 ∧
    ((tenc {} [(POS.ENC.ICFG.IHOME, 7, 1)]).enc 7).ref = none ∧ (tenc { ref := some 3 } [(POS.ENC.ICFG.ICOR, 7, 1), (POS.ENC.ICFG.CPR, 7, 100)]).f POS.ENC.ICFG.ICOR 7 = 1 ∧
    ((tenc { ref := some 3 }).enc 7).ref = some 3 ∧ (tenc { ref := some 3 } [(POS.ENC.ICFG.CPR, 7, 100)]).f POS.ENC.ICFG.CPR 7 ≠ 0 ∧
    (tenc { ref := some 3 }).f POS.ENC.ICFG.ITOL 7 = 0 ∧ indexDev ((tenc { ref := some 3 }).fi POS.ENC.COUNT.V 7 - 3) 100 ≠ 0 := by decide +kernel
def thall (x : HallSt) (ws : List (Fld × Nat × Nat) := []) : State :=
  (tst ([(POS.HALL.CFG.EN, 7, 1), (POS.HALL.STATE.RAW, 7, 1)] ++ ws)).setHall 7 x
theorem wit_hall : (thall {}).canonical = true ∧ (thall {}).f POS.HALL.CFG.EN 7 = 1 ∧ (thall {}).f POS.HALL.CFG.FILT 7 < 1000 ∧
    2 ≠ (thall {}).f POS.HALL.STATE.RAW 7 ∧ hallSector ((thall {}).on POS.HALL.CFG.DIR 7) 2 = some 2 ∧
    ((2 : Int), (2 + 6 - (thall {}).f POS.HALL.STATE.SECTOR 7) % 6) ∈ [((1 : Int), 1), (-1, 5), (2, 2), (-2, 4)] ∧
    hallSector ((thall {}).on POS.HALL.CFG.DIR 7) 7 = none ∧ ((thall { badSince := some 5 }).hall 7).badSince = some 5 ∧ (thall { badSince := some 5 }).canonical = true := by
  decide +kernel
def tspd (x : SpdSt) : State := ((tenc { spd := x } [(POS.ENC.SPCFG.STILL, 7, 1), (POS.ENC.SPCFG.NHI, 7, 9), (POS.ENC.SPCFG.PAVG, 7, 1), (POS.ENC.SPD.METHOD, 7, 1)]).setCol 121
  { sched := some ⟨100000, 10000, 0, 0, 0⟩ })
theorem wit_speed : (tspd { run := [5] }).canonical = true ∧ (tspd { run := [5] }).isCycle 121 1110000 = true ∧ (tspd { run := [5] }).f POS.ENC.CFG.EN 7 = 1 ∧
    (tspd { run := [5] }).f POS.ENC.SPCFG.STILL 7 * 1000000 ≤ 1110000 - 5 ∧ 110000 - 109000 < (tspd {}).f POS.ENC.SPCFG.STILL 7 * 1000000 ∧
    ((tspd { run := [109000, 101000], j := 2, n := 1 }).enc 7).spd.j = 2 ∧ 1 < (tspd {}).f POS.ENC.SPCFG.NHI 7 ∧ (tspd {}).f POS.ENC.SPD.METHOD 7 = 1 ∧
    1 ≤ (tspd {}).f POS.ENC.SPCFG.PAVG 7 ∧ 110000 - 109000 ≤ 109000 - 101000 := by decide +kernel
def tprec : ProbeRec := ⟨9, true, List.replicate 8 5, false, 0x383, 4⟩
def tprobe (n : Nat) : State := (tst [(POS.PRB.STAT.ARMED, 7, 1), (POS.PRB.CFG.EDGE, 7, 3)]).setProbe 7 { recs := List.replicate n tprec }
theorem wit_probe : (tprobe 3).canonical = true ∧ (tprobe 3).f POS.PRB.STAT.ARMED 7 = 1 ∧ (tprobe 3).f POS.PRB.CFG.FILT 7 < 100 ∧ (tprobe 3).f POS.PRB.CFG.EDGE 7 = 3 ∧
    ((tprobe 3).probe 7).level ≠ true ∧ ((tprobe 3).probe 7).recs.length < 4 ∧ 4 ≤ ((tprobe 4).probe 7).recs.length ∧ tprec.galvo = false ∧ tprec.counts.length = 8 := by
  decide +kernel
def temu : State := (tst [(POS.EMU.CFG.EN, 3, 1), (POS.EMU.SCALE.MUL, 3, 5), (POS.EMU.CFG.EDLY, 3, 100)]).setEmu 3 { due := [(7, 30), (8, 30)] }
theorem wit_emu : temu.canonical = true ∧ temu.f POS.EMU.CFG.EN 3 = 1 ∧ temu.f POS.EMU.CFG.SRC 3 < 0x48 ∧ (temu.emu 3).due = (7, 30) :: [(8, 30)] := by decide +kernel

/-! Imaging, camera rules and records -/

def texp : Exposure := { expid := 0xF001, trigt := 5000, width := 1000, tseq := 1, set := { wx := 16, wy := 16 }, short := false, tend := 6000 }
def tframe (n : Nat) : FrameSt := { exp := texp, fn := 0, gap := false, fsAt := 0, lines := List.replicate n [1, 2] }
/-- Slot 23, virtual channel 3 of port 11. -/
def tslot (x : Slot) (ws : List (Fld × Nat × Nat) := []) : State :=
  (tst ([(CSI.CFG.EN, 11, 1), (CSI.CFG.VCA, 11, 0), (CSI.CFG.VCB, 11, 3), (IP.CFG.EN, 23, 1), (IP.CFG.DEST, 23, 0x383), (IP.CFG.STREAM, 23, 4), (IP.CFG.FNCHK, 23, 0)] ++ ws)).setSlot 23 x
theorem wit_frame_start : (tslot { pending := [texp] }).canonical = true ∧ (tslot {}).f CSI.CFG.EN 11 = 1 ∧ (tslot {}).csiSkip.contains 11 = false ∧
    (tslot {}).slotOf 11 3 = some 23 ∧ (tslot {}).f IP.CFG.EN 23 = 1 ∧ (tslot {}).pipesOff.contains 11 = false ∧ ((tslot { pending := [texp] }).slot 23).frame = none ∧
    (tslot {}).f IP.CFG.FNCHK 23 = 0 ∧ ((tslot {}).slot 23).pending = [] := by decide +kernel
theorem wit_frame_lines : ((tslot { frame := some (tframe 15) }).slot 23).frame = some (tframe 15) ∧ (0x2A#6).toNat = dataType texp.set.dtype ∧ (tframe 15).dead = false ∧
    [1#12, 2#12].length ≤ texp.set.wx ∧ (tframe 15).lines.length < texp.set.wy ∧ texp.set.tk = 0 ∧ ((tslot { frame := some (tframe 15) }).slot 23).sent = [] ∧
    (tslot { frame := some (tframe 15) }).f SERVO.RULE.CFG.EN 23 = 0 ∧ (tslot { frame := some (tframe 15) }).canonical = true := by decide +kernel
def tcam (bad : Nat) : List Token := [mkTok 0x90 0x12B 0 8 (wd (7 * 2 ^ 48 + 16 * 2 ^ 38 + 512 * 2 ^ 28 + bad)) false,
  mkTok 0x90 0x12B 0 8 (wd (1 * 2 ^ 40 + 1 * 2 ^ 28 + 1 * 2 ^ 20)) false]
def tcamEnd : Token := mkTok 0x90 0x12B 0 8 0
theorem wit_camera : (∀ u ∈ tcam 0 ++ [tcamEnd], u.kind = 0#4 ∧ u.err = false) ∧ tcamEnd.timed = false ∧ tcamEnd.stream = 8#8 ∧
    (parseCam ((tcam 0 ++ [tcamEnd]).map (·.payload))).map (fun x => (x.ff, x.tk, x.bnd)) = some (0, 0, false) ∧
    parseCam ((tcam 1 ++ [tcamEnd]).map (·.payload)) = none := by decide +kernel
def ti2c (op wlen rlen : Nat) : Token := mkTok 0x81 0x14C 0 3 (wd (op * 2 ^ 56 + 0x50 * 2 ^ 49 + wlen * 2 ^ 40 + rlen * 2 ^ 32)) false
theorem wit_i2c : (∀ u ∈ [ti2c 3 8 9] ++ [tokS0 0x14C 0 3 1], u.kind = 0#4 ∧ u.err = false ∧ srcAllowed (0x140 + 12) u.src = true) ∧
    (parseI2c ([ti2c 3 8 9] ++ [tokS0 0x14C 0 3 1])).isSome = true ∧ parseI2c ([ti2c 1 8 9] ++ [tokS0 0x14C 0 3 1]) = none ∧
    ((State.reset.setI2c 12 [⟨0x81, 3, 2, 0x50, [], 9⟩]).i2c 12) = [⟨0x81, 3, 2, 0x50, [], 9⟩] ∧ (State.reset.setI2c 12 [⟨0x81, 3, 2, 0x50, [], 9⟩]).canonical = true := by
  decide +kernel
/-- A record of 16 tokens: an exposure at 5,000 of 1,000 ns, area 40. -/
def trecord (flags : Nat) : List Token := ([wd (5000 * 2 ^ 16), wd (1000 * 2 ^ 32), wd flags, 0, 40] ++ List.replicate 10 0).map (fun w => mkTok 0x120 0x25F 10 3 w false)
def trule : State := (tst [(SERVO.RULE.CFG.EN, 23, 1), (SERVO.RULE.CFG.MAXAGE, 23, 1), (SERVO.RULE.CFG.OBSPRE, 23, 0), (SERVO.RULE.CFG.METRIC, 23, 0), (SERVO.RULE.TGT.TARGET, 23, 100), (SERVO.RULE.TGT.DEAD, 23, 3),
  (SERVO.RULE.GAIN.V, 23, 1), (SERVO.RULE.GAIN.GSHIFT, 23, 0), (SERVO.RULE.GAIN.STEP, 23, 100), (SERVO.RULE.LIM.CTMAX, 23, 65535)] (State.reset.setMt 7000)).setGateLog [(23, 100, true)]
theorem wit_rule : (∀ u ∈ trecord 0 ++ [mkTok 0x120 0x25F 10 3 0], u.kind = 10#4 ∧ u.err = false) ∧ (trecord 0).length = 15 ∧ trule.canonical = true ∧
    trule.f SERVO.RULE.CFG.EN 23 = 1 ∧ trule.ruleFair 23 (ruleRec trule.mt ((trecord 0 ++ [mkTok 0x120 0x25F 10 3 0]).map (·.payload))) = true ∧
    trule.mt ≤ 5000 + 1000 + trule.f SERVO.RULE.CFG.MAXAGE 23 * 1000 ∧
    trule.ruleFair 23 (ruleRec trule.mt ((trecord 1 ++ [mkTok 0x120 0x25F 10 3 0]).map (·.payload))) = false := by decide +kernel
def tstare : Stare := { hb := 3, ha := 2, vid := 4, layer := 5, tk := 1000, wid := 100, expid := 0xF001, p := ⟨-1, 2, 0⟩, rega := 8, regb := 9 }
def tmeas : List Meas := [⟨900, 5 * fx24, -7 * fx24, 0, 0⟩, ⟨1100, 5 * fx24, -7 * fx24, 0, 0⟩]
def tstares : State := (((tst [(SADDLE.LREC.EN, 0, 1), (SADDLE.LREC.BASE, 0, 1), (SADDLE.LREC.LOG2N, 0, 4), (SADDLE.LRCNT.V, 0, 17)]).setStares [tstare]).setPg 2 { meas := tmeas }).setPg 3 { meas := tmeas }
theorem wit_stare_record : tstares.canonical = true ∧ tstares.stares = tstare :: [] ∧ ((tstares.pg 2).stareQ 1000).isSome = true ∧ ((tstares.pg 3).stareQ 1000).isSome = true ∧
    tstares.f SADDLE.LREC.EN = 1 ∧ ((tpg pgRUN { recQ := [[1, 2]] }).pg 23).recQ = [1, 2] :: [] := by decide +kernel

/-! Auxiliary axes and the cores' control -/

def taxis (ws : List (Fld × Nat × Nat) := []) : State := (tst ([(AUX.CFG.EN, 7, 1), (AUX.LIMV.VMAX, 7, 100000), (AUX.LIMA.AMAX, 7, 1000), (AUX.LIMA.JMAX, 7, 1000),
  (AUX.SOFT.MIN, 7, 2 ^ 32 - 9), (AUX.SOFT.MAX, 7, 9)] ++ ws)).setCol 121 { sched := some ⟨100000, 10000, 0, 0, 0⟩ }
def tmove : List Token := [mkTok 0x90 0xB 2 0x20 (wd (2 ^ 56 + 0x80 * 2 ^ 48 + 5 * 2 ^ 32 + 0x90 * 2 ^ 10)) false]
def tmoveEnd (target : Nat) : Token := mkTok 0x90 0xB 2 0x20 (wd (100000 * 2 ^ 32 + target))
def tmoveRec : AuxMove := { id := 0, axes := [(7, 9, 100000)], live := [7], mask := 0x80, moveid := 5, start := 0, time := 0, rel := false, notify := 0x90, waits := [] }
theorem wit_move : (taxis).canonical = true ∧ (∀ u ∈ tmove ++ [tmoveEnd 9], u.kind = 2#4 ∧ u.err = false) ∧ (tmoveEnd 9).stream = 0x20#8 ∧
    (taxis).parseMove (tmove ++ [tmoveEnd 9]) = some tmoveRec ∧ ((taxis).auxQueue 7).length < 8 ∧ (taxis).parseMove (tmove ++ [tmoveEnd 10]) = none ∧
    8 ≤ (((taxis).setAuxMoves (List.replicate 8 tmoveRec)).auxQueue 7).length := by decide +kernel
def tstop (bad : Nat) : Token := tokS2 0xB 2 0x21 (wd (2 * 2 ^ 56 + 0x80 * 2 ^ 48 + bad))
theorem wit_stop : AtOnce (taxis) (tstop 0) ∧ (tstop 0).kind = 2#4 ∧ (tstop 0).stream = 0x21#8 ∧ (tstop 0).last = true ∧ (taxis).stopOk (tstop 0).payload = true ∧
    (taxis).stopOk (tstop 1).payload = false := by unfold AtOnce; decide +kernel
def trun (tend : Nat) (inpos : Nat) : AuxRun := { ts := 100000, unit := 1, axes := [(7, 0, 0)], a := 1, j := 1, k0 := {}, phases := [], tend, inpos := [(7, inpos)], settle := 1 }
theorem wit_move_start : ((taxis).setAuxMoves [tmoveRec]).isCycle 121 110000 = true ∧ (taxis).auxStops = [] ∧ tmoveRec.live.contains 7 = true ∧ tmoveRec.run = none ∧
    tmoveRec.start = 0 ∧ tmoveRec.waits = [] ∧ (∀ x ∈ tmoveRec.live, ((taxis).setAuxMoves [tmoveRec]).jogging x = false ∧ (taxis).f AUX.CFG.LOCK x = 0) ∧
    ((taxis).setAuxMoves [tmoveRec]).canonical = true ∧ (taxis).fi AUX.SOFT.MIN 7 ≤ 9 ∧ 9 ≤ (taxis).fi AUX.SOFT.MAX 7 ∧ (taxis).fi AUX.SOFT.MAX 7 < 10 := by decide +kernel
theorem wit_move_end : (((taxis).setAuxMoves [tmoveRec]).reach 110000).notInPos (trun 110000 0) = [] ∧ (trun 110000 0).stop = none ∧ (trun 110000 0).tend ≤ 110000 ∧
    (((taxis).setAux 7 { samples := [⟨0, 0, 0, 0, 50⟩] }).reach (110000 + 1000000)).f POS.AX.SRC.V 7 = (taxis).f POS.AX.SRC.V 7 := by decide +kernel
def tjog (v : Nat) : Token := tokS2 0x267 1 2 (wd v)
theorem wit_jog : (tjog 10).kind = 1#4 ∧ (tjog 10).timed = false ∧ (tjog 10).stream = 2#8 ∧ bits (tjog 10).payload 63 32 = 0 ∧ (taxis).f AUX.CFG.EN 7 = 1 ∧
    (taxis).f AUX.STAT.FAULT 7 = 0 ∧ (taxis).f AUX.CFG.EXT 7 = 0 ∧ (taxis).auxQueue 7 = [] ∧ ((taxis).setAuxMoves [tmoveRec]).auxQueue 7 ≠ [] ∧ State.reset.f AUX.CFG.EN 7 = 0 := by
  decide +kernel
theorem wit_axis_events : (((taxis).setAux 7 { zeroSince := some 5 }).aux 7).zeroSince = some 5 ∧ (taxis).f AUX.STAT.HOLDI 7 = 0 ∧ (taxis [(AUX.HUB.LINK, 7, 1)]).f AUX.HUB.LINK 7 = 1 ∧
    (taxis [(AUX.STAT.FAULT, 7, 1)]).f AUX.STAT.FAULT 7 = 1 ∧
    Accepted (taxis [(AUX.STAT.FAULT, 7, 1)]) fromS2 (AUX.STAT.FAULT.addr 7) (AUX.STAT.FAULT.put 0 1) := by unfold Accepted; decide +kernel
theorem wit_core_control : Accepted State.reset fromS0 (CORE.CTRL.START.addr 15) (CORE.CTRL.START.put 0 1) ∧ State.reset.coreState 15 = 0 ∧ (trole tcore).coreState 15 = 1 ∧
    Accepted (trole tcore) fromS0 (CORE.CTRL.START.addr 15) (CORE.CTRL.START.put 0 1) ∧ Accepted (trole tcore) fromS0 (CORE.CTRL.HALT.addr 15) (CORE.CTRL.HALT.put 0 1) ∧
    Accepted State.reset fromS0 (CORE.CTRL.STEP.addr 15) (CORE.CTRL.STEP.put 0 1) := by unfold Accepted; decide +kernel
/-- A halted core before the word of ADD r1, r2, r3. -/
def tstep : State := (State.reset.setBytes (localAddr 15 0x100) (leBytes 4 0x00022180)).setCore 15 tcore
theorem wit_core_step : tstep.canonical = true ∧ tstep.coreState 15 = 0 ∧ (tstep.core 15).blocked = none ∧ (tstep.core 15).pc % 4 = 0 ∧ (tstep.core 15).pc ≤ 0xFFFC ∧
    tstep.eccAt (localAddr 15 (tstep.core 15).pc) = none ∧ zDecode (BitVec.ofNat 32 (leNat (tstep.bytes (localAddr 15 0x100) 4))) = .alu 0 1 2 3 0 ∧
    (tstep.core 15).guardOk (zGuard 0x00022180) = true := by decide +kernel
def tspare (st : Nat) (ws : List (Fld × Nat × Nat) := []) : State := tst ([(REPAIR.UNIT.STATE, 16, 1), (CORE.CFG.ROT, 15, 1), (CORE.STAT.STATE, 15, st)] ++ ws)
theorem wit_core_moves : (tspare 0).canonical = true ∧ (tspare 0).f REPAIR.UNIT.STATE 16 = 1 ∧ (tspare 3).f CORE.CFG.ROT 15 = 1 ∧ (tspare 3).coreState 15 ∈ [0, 2, 3] ∧
    (tspare 6 [(CORE.IMG.VALID, 15, 1), (CORE.IMG.BASE, 15, 0x8000000)]).coreState 15 = 6 ∧
    (tspare 6 [(CORE.IMG.VALID, 15, 1), (CORE.IMG.BASE, 15, 0x8000000)]).f CORE.IMG.VALID 15 = 1 ∧ (tspare 6 [(CORE.IMG.VALID, 15, 1)]).f CORE.IMG.DATA 15 = 0 ∧
    0x100000000000 ≤ (tspare 6 [(CORE.IMG.VALID, 15, 1), (CORE.IMG.BASE, 15, 0x8000000)]).f CORE.IMG.BASE 15 * 2 ^ 17 ∧
    (((tspare 5).setCore 15 { moving := some (0, 16) }).core 15).moving = some (0, (16 : Fin 18).val) ∧ (tspare 5).unitOf 0 15 = some 15 ∧
    (tspare 1).f REPAIR.UNIT.STATE 15 = 0 := by decide +kernel
theorem wit_data_row : (dataRow (.hashWrite 7 fromS0 0x80000)).isSome ∧ Accepted State.reset fromS0 (DRAM.CTRL.SREQ.base) (DRAM.CTRL.SREQ.put 0 1) ∧
    Accepted State.reset fromS0 (CORE.IMG.VALID.addr 15) (CORE.IMG.BASE.put 0 5) ∧ (fieldRow (.loopEnable 0 fromS2)).isSome ∧
    Accepted State.reset fromS0 (DALE.CTRL.FREEZE.addr 0) (DALE.CTRL.FREEZE.put (State.reset.word (DALE.CTRL.FREEZE.addr 0)) 1) := by
  unfold Accepted; decide +kernel

/-! Links, Ethernet and plant time -/

/-- Link `n` in state `st` with its lane in state `ls`. -/
def tlink (n st ls : Nat) (x : LinkSt := {}) (l : LaneSt := {}) : State :=
  let s := (State.reset.setLane (laneOf n false) { l with ls := ls })
  if n < 32 then (tst [(LINK.STAT.STATE, n, st), (LINK.CTRL.EN, n, 1)] s).setLink n x else s.setLink n { x with pst := st }
theorem wit_link_climb : (tlink 31 lkFAIL 0).canonical = true ∧ (tlink 31 lkFAIL 0).linkState 31 = lkFAIL ∧ (tlink 31 lkFAIL 0).f LINK.CTRL.EN 31 = 1 ∧
    Accepted (tlink 31 lkFAIL 0) fromS0 (LINK.CTRL.EN.addr 31) (LINK.CTRL.RESTART.put ((tlink 31 lkFAIL 0).word (LINK.CTRL.EN.addr 31)) 1) ∧
    (tlink 35 lkDETECT 1).linkState 35 = lkDETECT ∧ (tlink 35 lkTRAIN 2).linkState 35 = lkTRAIN ∧ ((tlink 35 lkTRAIN 2).lane (laneOf 35 false)).ls = 2 ∧
    hasLane 35 false = true ∧ hasLane 23 true = true ∧ (tlink 23 lkLOCK 3).linkState 23 = lkLOCK ∧ ((tlink 23 lkLOCK 3).lane (laneOf 23 false)).ls = 3 := by
  unfold Accepted; decide +kernel
theorem wit_bad_block : ((tlink 24 lkACTIVE 4 {} { bads := List.range 15 }).lane (laneOf 24 false)).ls = 4 ∧
    16 ≤ (0 :: (((tlink 24 lkACTIVE 4 {} { bads := List.range 15 }).lane (laneOf 24 false)).bads.map (· + 48 + 1)).filter (· < 64)).length ∧
    (0 :: (((tlink 24 lkACTIVE 4 {} { bads := List.range 15 }).lane (laneOf 24 false)).bads.map (· + 49 + 1)).filter (· < 64)).length < 16 := by decide +kernel
def tcap (kind lat : Nat) : List Byte := [BitVec.ofNat 8 kind, 1, BitVec.ofNat 8 lat, BitVec.ofNat 8 (lat / 256)] ++ List.replicate 24 0
theorem wit_cap : (tlink 23 lkCAPS 4).linkState 23 = lkCAPS ∧ (tcap 1 500).length = 28 ∧ ((tcap 1 500).getD 0 0).toNat = peerKind 23 ∧
    ((tcap 1 500).getD 2 0).toNat + 256 * ((tcap 1 500).getD 3 0).toNat = 500 ∧ ((tcap 1 501).getD 2 0).toNat + 256 * ((tcap 1 501).getD 3 0).toNat = 501 := by decide +kernel
theorem wit_superframe : ((tlink 23 lkACTIVE 4).setCol 123 { sched := some ⟨100000, 5000, 0, 0, 0⟩ }).isCycle 123 105000 = true ∧ (tlink 23 lkACTIVE 4).linkActive 23 = true ∧
    46 ∈ lanesOf 23 ∧ ((tlink 23 lkACTIVE 4).lane 46).ls = 4 ∧ ((tlink 23 lkACTIVE 4).lane 46).rts = [] ∧
    ((tlink 23 lkACTIVE 4).setCol 123 { sched := some ⟨100000, 5000, 0, 0, 0⟩ }).canonical = true := by decide +kernel
def tdata : List Byte := [2, 1, 0, 2, 0, 3, 0, 4, 0] ++ List.replicate 19 0
theorem wit_samples : (tlink 23 lkACTIVE 4 {} { mtx := some 5 }).canonical = true ∧ (tlink 31 lkACTIVE 4).linkActive 31 = true ∧ ((tlink 31 lkACTIVE 4).link 31).copies = [] ∧
    ((tlink 23 lkACTIVE 4 {} { mtx := some 5 }).lane (laneOf 23 false)).mtx = some 5 ∧ (tdata.headD 0).toNat = 2 ∧ tdata.getD 16 0 = 0 ∧
    ((tlink 23 lkACTIVE 4 { copies := [(9, true, 0)] }).link 23).copies = [((9 : BitVec 8).toNat, true, 0)] ∧ (tlink 35 lkACTIVE 4).linkActive 35 = true ∧
    ((tlink 35 lkACTIVE 4).link 35).tx = [] ∧ (tdata.take 17).drop 17 = [] := by decide +kernel
theorem wit_lane_tests : Accepted State.reset fromS0 (LANE.PRBS.EN.addr 63) (LANE.PRBS.EN.put (LANE.PRBS.DUR.put 0 3) 1) ∧ (State.reset.lane 63).testEnd = none ∧
    ((State.reset.setLane 63 { testEnd := some 7 }).lane 63).testEnd = some 7 ∧ (State.reset.setLane 63 { testEnd := some 7 }).canonical = true := by
  unfold Accepted; decide +kernel
/-- Port 3 enabled, with LINK, at an address. -/
def tport3 : State := tst [(ETH.CFG.EN, 3, 1), (ETH.CFG.IPADDR, 3, 0x0A000001), (ETH.STAT.LINK, 3, 1), (ETH.MAC.V, 3, 0x020000000003), (VCT.SUB.MASK, 0, 0)]
/-- An ARP request for that address. -/
def tarp : List Byte := List.replicate 6 0xFF#8 ++ [2, 0, 0, 0, 0, 9, 8, 6, 0, 1, 8, 0, 6, 4, 0, 1, 2, 0, 0, 0, 0, 9, 10, 0, 0, 2] ++ List.replicate 6 0 ++ [10, 0, 0, 1] ++ List.replicate 18 0
theorem wit_ethernet : tport3.canonical = true ∧ tport3.f ETH.CFG.EN 3 = 1 ∧ tarp.length = 60 ∧ tport3.rxFill 3 + tarp.length + 4 ≤ 262144 ∧
    (match tport3.frameKind 3 tarp with | .arp a b => a == [2, 0, 0, 0, 0, 9] && b == [10, 0, 0, 2] | _ => false) = true ∧ tport3.f ETH.STAT.LINK 3 = 1 ∧ (false && !false) ≠ tport3.on ETH.STAT.LINK 3 ∧ tport3.f VCT.SUB.MASK = 0 := by
  decide +kernel
def tann : AnnounceMsg := { sender := 5, domain := 0, prio1 := 1, clockClass := 6, accuracy := 0x20, variance := 0, prio2 := 1, gm := 5, steps := 0, interval := 1000000 }
def tptp (st : Nat) (p : PtpSt) : State := (tst [(ETH.PTP.STAT.STATE, 0, st), (ETH.PTP.CFG.PORTS, 0, 8), (ETH.PTP.CFG.STEPTHR, 0, 1)]).setPtp p
theorem wit_announce : (tptp ptLISTEN { heard := [⟨3, tann, [0, 0]⟩] }).ptpState = ptLISTEN ∧ ((tptp ptLISTEN {}).f ETH.PTP.CFG.PORTS).testBit 3 = true ∧
    tann.domain.toNat = (tptp ptLISTEN {}).f ETH.PTP.CFG.DOMAIN ∧ (tptp ptLISTEN { heard := [⟨3, tann, [0, 0]⟩] }).ptp.heard = [⟨3, tann, [0, 0]⟩] ∧
    (tptp ptLISTEN { heard := [⟨3, tann, [0, 0]⟩] }).mt ≤ 0 + 4 * tann.interval ∧ (tptp ptLISTEN { heard := [⟨3, tann, [0, 0]⟩] }).canonical = true := by decide +kernel
def tacq : State := tptp ptACQUIRE { master := some (3, tann), near := 15, lastSync := some (65536 * 5) }
theorem wit_sync : (tptp ptSTEP { master := some (3, tann) }).ptpState = ptSTEP ∧ (tptp ptSTEP { master := some (3, tann) }).ptp.lastSync = none ∧
    tacq.ptp.master = some ((3 : Fin 4).val, tann) ∧ tacq.ptp.delays = [] ∧ tacq.ptpState = ptACQUIRE ∧ tacq.ptp.near = 15 ∧ tacq.ptp.lastSync = some (65536 * 5) ∧
    (tacq.ptAt16 (65536 * 5) - tacq.ptAt16 (65536 * 5) - 0 - 0).natAbs < 100 * 65536 ∧ tacq.f ETH.PTP.CFG.STEPTHR ≠ 0 ∧
    (tacq.reach (65536 * 5 / 65536)).ptAt16 (65536 * 5) = tacq.ptAt16 (65536 * 5) ∧ (tptp ptLOCKED {}).ptpState = ptLOCKED ∧ (tptp ptHOLDOVER {}).ptpState = ptHOLDOVER := by
  decide +kernel

/-! VCT, windows, uploads -/

/-- An open device with port 3 up, a key in slot 1 and one in slot 0, slot 1's counter at 7. -/
def tkey : List Byte := (List.range 32).map (BitVec.ofNat 8)
def thost (ws : List (Fld × Nat × Nat)) : State :=
  ((tst ([(VCT.STAT.OPEN, 0, 1), (ETH.CFG.EN, 3, 1), (ETH.STAT.LINK, 3, 1), (ID.SERIAL.V, 0, 77), (VCT.STAT.PROV, 0, 1), (VCT.SLOT.CTR.V, 1, 7),
    (VCT.SLOT.CFG.KEY, 1, 1), (VCT.SLOT.CFG.RIGHTS, 1, 31), (VCT.SUB.MASK, 0, 8), (DRAM.CFG.CAPG, 0, 1)] ++ ws)).setSlotKey 0 { key := some tkey }).setSlotKey 1 { key := some tkey }
/-- A packet of the peer without a check, and a command of slot 1 with one. -/
def tvctAs (typ op arg ctr : Nat) (b : List Byte) : VctIn := ⟨⟨3, 5, 6, 7⟩, vctHeader typ 0 0xFF b.length 9 op arg ctr 77 ++ b⟩
def tvct (op : Nat) (b : List Byte := []) : VctIn := tvctAs 1 op 0 0 b
def tsigned (op ctr : Nat) (b : List Byte) (check : Nat) : VctIn := ⟨⟨3, 5, 6, 7⟩, vctHeader 1 1 1 b.length 9 op 0 ctr 77 ++ b ++ beBytes 16 check⟩
theorem wit_vct_judged : VctPlain (thost []) (tvct 0x30 (List.replicate 7 0)) 0x30 7 ∧ (thost []).vctRight (vctParse (tvct 0x30 (List.replicate 7 0)).bytes) = some 1 ∧
    (vctParse (tsigned 0x81 6 [] 0xf39ce2a7d2f45d42ba649a57617e2c07).bytes).check ≠ vctMac [] ((tsigned 0x81 6 [] 0xf39ce2a7d2f45d42ba649a57617e2c07).bytes.take 32) ∧ VctChecked (thost []) (tsigned 0x81 6 [] 0xf39ce2a7d2f45d42ba649a57617e2c07) tkey ∧
    VctChecked (thost []) (tsigned 0x81 7 [] 0x81fd0408512646de4ecc8d3ab90dadfe) tkey ∧ (vctParse (tsigned 0x81 7 [] 0x81fd0408512646de4ecc8d3ab90dadfe).bytes).counter = (thost []).f VCT.SLOT.CTR.V 1 := by
  unfold VctChecked VctPlain VctHere; dsimp only; decide +kernel
theorem wit_queries : VctPlain (thost []) (tvct 1) 1 0 ∧ VctPlain (thost []) (tvct 2) 2 0 ∧
    VctPlain (thost []) (tvct 3 (wordBytes (wd (LINK.CTRL.EN.addr 3)))) 3 8 ∧ cwrFormed (wd (LINK.CTRL.EN.addr 3)) = true ∧
    (thost []).cwRefusal (LINK.CTRL.EN.addr 3) 0x80#10 = none ∧ blockOf (LINK.CTRL.EN.addr 3) ∉ [7, 15, 19] ∧
    VctPlain (thost [(VCT.WIN.LEN.V, 3, 10000)]) (tvct 0x13 [3]) 0x13 1 ∧ (thost [(VCT.WIN.LEN.V, 3, 10000)]).firstMissing 3 = some 0 := by
  unfold VctPlain VctHere; decide +kernel
def tchan : State := thost [(VCT.CHAN.CFG.EN, 15, 1), (VCT.CHAN.CFG.CRIT, 15, 0), (VCT.CHAN.CFG.Q, 15, 63), (QUEUE.CFG.EN, 63, 1), (QUEUE.CFG.SEQCHK, 63, 0), (QUEUE.CFG.LOG2SIZE, 63, 3), (QUEUE.BASE.V, 63, 0x100)]
theorem wit_deliver : VctPlain tchan (tvct 0x20 (15 :: List.replicate 7 0)) 0x20 8 ∧ tchan.f VCT.CHAN.CFG.CRIT 15 = 0 ∧ tchan.f VCT.CHAN.CFG.Q 15 = 63 ∧
    tchan.f QUEUE.CFG.SEQCHK 63 = 0 ∧ tchan.qFill 63 < tchan.qSize 63 ∧ tchan.qSize 63 ≤ 2 ^ 16 ∧ tchan.f QUEUE.PTR.HEAD 63 < 2 * tchan.qSize 63 ∧
    tchan.f QUEUE.PTR.TAIL 63 < 2 * tchan.qSize 63 := by unfold VctPlain VctHere; decide +kernel
def tcwwr : List Byte := wordBytes (wd HK.CFG.THREN.base) ++ wordBytes (cwReset HK.CFG.THREN.base)
def trxo (len : Nat) : List Byte := [3, 0] ++ beBytes 2 9 ++ beBytes 4 len ++ beBytes 8 0x100000000000 ++ beBytes 8 0x2FFFFF8
theorem wit_signed_write : VctSigned (thost []) (tsigned 4 8 tcwwr 0x83bdce60350cee0d526f45457879461e) 4 16 tkey ∧ cwwFormed (wd HK.CFG.THREN.base) = true ∧ blockOf HK.CFG.THREN.base = 23 ∧
    (thost []).cwRefusal HK.CFG.THREN.base 0x80#10 = none ∧
    (match regOf HK.CFG.THREN.base with | some r => !r.outOfRange (cwReset HK.CFG.THREN.base) | none => false) = true :=
  ⟨by unfold VctSigned VctChecked VctHere; dsimp only; decide +kernel, by decide +kernel⟩
theorem wit_signed_open : VctSigned (thost []) (tsigned 0x10 8 (trxo 524288) 0xd6fbfc5e26a41ae8d7f6471e70db52ae) 0x10 24 tkey ∧ (∀ v ≤ 3, (thost []).winState v = 0) ∧
    (thost []).inDram 0x100000000000 524288 = true ∧ inPlain 0x2FFFFF8 (bitmapBytes 524288) = true :=
  ⟨by unfold VctSigned VctChecked VctHere; dsimp only; decide +kernel, by decide +kernel⟩
/-- Window 3 in state `st`, 8 bytes long at the DRAM's first byte; its chunk has arrived. -/
def trxwin (st : Nat) : State := (thost [(VCT.WIN.STAT.STATE, 3, st), (VCT.WIN.LEN.V, 3, 8), (VCT.WIN.BASE.V, 3, 0x100000000000), (VCT.WIN.BMAP.V, 3, 0x2000)]).setByte 0x2000 1
theorem wit_signed_window : VctSigned (trxwin 1) (tsigned 0x11 8 (3 :: List.replicate 39 0) 0xb41fd7a988a912dedeb321559f2501fd) 0x11 40 tkey ∧ (trxwin 1).firstMissing 3 = none ∧
    VctSigned (trxwin 1) (tsigned 0x12 8 [3] 0x687e68e7095c56202a7454f189d1c1de) 0x12 1 tkey ∧ VctSigned (trxwin 3) (tsigned 0x60 8 [3] 0xd60a7c9bd86e4d91d2d59f96b2a39173) 0x60 1 tkey ∧ (trxwin 3).host.fwstage = none ∧
    (trxwin 1).winState 3 = 1 ∧ (trxwin 3).winState 3 = 3 :=
  ⟨by unfold VctSigned VctChecked VctHere; dsimp only; decide +kernel, by decide +kernel, by unfold VctSigned VctChecked VctHere; dsimp only; decide +kernel, by unfold VctSigned VctChecked VctHere; dsimp only; decide +kernel, by decide +kernel⟩
theorem wit_signed_keys : VctSigned (thost []) (tsigned 0x30 8 [10, 0, 0, 9, 1, 2, 15] 0x39816cd0c11903a50f11ec4fda714c33) 0x30 7 tkey ∧
    VctSigned (thost []) (tsigned 0x40 8 ([7, 31] ++ List.replicate 38 0) 0xb7c03f9349fb3b54a1d680a86a8ff1c8) 0x40 40 tkey ∧ ((thost []).slotKey 0).key = some tkey ∧
    VctSigned (thost []) (tsigned 0x41 8 [0] 0x30d6cf375564aa187da45b323c9ed8d6) 0x41 1 tkey :=
  ⟨by unfold VctSigned VctChecked VctHere; dsimp only; decide +kernel, by unfold VctSigned VctChecked VctHere; dsimp only; decide +kernel, by decide +kernel, by unfold VctSigned VctChecked VctHere; dsimp only; decide +kernel⟩
def tdaleup : State := thost [(DALE.PTR.WIDX, 0, 8192), (DALE.PTR.RIDX, 0, 8190), (DALE.BASE.V, 0, 0x800)]
theorem wit_signed_device : VctSigned (thost []) (tsigned 0x50 8 (beBytes 6 1000 ++ beBytes 4 5) 0xd4c10157c114117d13654f6f43387d40) 0x50 10 tkey ∧ (thost []).f ETH.PTP.STAT.STATE < 2 ∧
    VctSigned tdaleup (tsigned 0x81 8 [] 0xbb3562280e92bdf5486c48571df7f5b0) 0x81 0 tkey ∧ tdaleup.daleFill = 2 ∧ VctSigned (thost []) (tsigned 0x70 8 [1, 1] 0xacb5e4f414cd40ec72d36a6192013463) 0x70 2 tkey :=
  ⟨by unfold VctSigned VctChecked VctHere; dsimp only; decide +kernel, by decide +kernel, by unfold VctSigned VctChecked VctHere; dsimp only; decide +kernel, by decide +kernel, by unfold VctSigned VctChecked VctHere; dsimp only; decide +kernel⟩
def tdwin : State := thost [(VCT.WIN.STAT.STATE, 3, 1), (VCT.WIN.LEN.V, 3, 8200), (VCT.WIN.BASE.V, 3, 0x100000000000), (VCT.WIN.BMAP.V, 3, 0x2FFFFF8)]
theorem wit_windows : VctHere tdwin (tvctAs 3 0 3 0 (beBytes 8 8192 ++ [1, 2, 3, 4, 5, 6, 7, 8])) 3 false ∧ tdwin.winState 3 = 1 ∧ tdwin.chunkHere 3 1 = false ∧
    ((trxwin 2).setRxWin 3 { digest := sha256 (List.replicate 8 0) }).winState 3 = 2 ∧
    ((trxwin 2).setHost { fwstage := some (3, 9) }).host.fwstage = some (3, 9) ∧ imageCheck ((trxwin 2).bytes 0x100000000000 8) (trxwin 2) ≠ none ∧
    ((thost []).setSlotKey 1 { mirrorTo := some 9 }).canonical = true ∧ ((trxwin 2).setRxWin 3 { digest := sha256 (List.replicate 8 0) }).canonical = true ∧
    sha256 ((trxwin 2).bytes 0x100000000000 8) = sha256 (List.replicate 8 0) ∧ sha256 ((trxwin 2).bytes 0x100000000000 8) ≠ ((trxwin 2).rxWin 3).digest := by
  unfold VctHere; decide +kernel
def tupl (st : Nat) (x : UpStream) : State := (thost [(VCT.UP.STAT.STATE, 15, st), (VCT.CFG.RTO, 0, 100), (VCT.CFG.RETRIES, 0, 2)]).setUp 15 x
def tureq : UpReq := ⟨0x90, 0, 0x1000, 9000, 10000, none⟩
def tuhead (len : Nat) : Token := { tokS2 0x87 0 0 (wd (place 1 8 56 + place 15 4 48 + len)) with last := false }
theorem wit_uploads : bits (tuhead 9000).payload 63 56 = 1 ∧ bits (tuhead 9000).payload 51 48 = 15 ∧ bits (tuhead 9000).payload 31 0 = 9000 ∧
    (tuhead 9000).dest = 0x87#10 ∧ bits (tuhead 0).payload 31 0 = 0 ∧ (tupl 1 { reqs := [tureq], next := 1500, total := 10000 }).subPorts = [3] ∧
    (tupl 1 { reqs := [tureq], next := 1500, total := 10000 }).f VCT.UP.STAT.STATE 15 ≠ 2 ∧ tureq.endOff - tureq.len ≤ 1500 ∧
    VctHere (tupl 1 { reqs := [tureq], next := 10000, total := 10000, flight := [10000] }) (tvctAs 5 15 0 10000 []) 5 false ∧
    (tupl 1 { reqs := [tureq], total := 10000 }).f VCT.UP.STAT.ACKED 15 < 10000 ∧ (tupl 1 { flight := [9] }).f VCT.CFG.RETRIES = 2 ∧
    (tupl 1 { reqs := [tureq], next := 1500, total := 10000 }).canonical = true ∧ (tupl 1 { flight := [9] }).canonical = true := by unfold VctHere; decide +kernel

/-! The DRAM and the Gorge -/

/-- One gigabyte of trained DRAM with two ranks. -/
def tdram (ws : List (Fld × Nat × Nat) := []) : State := tst ([(DRAM.CFG.CAPG, 0, 1), (DRAM.CFG.RANKS, 0, 2), (DRAM.STAT.TRAINED, 0, 1)] ++ ws)
theorem wit_dram_ranks : ((tdram.setBank (bankKey 3 1 31) { row := some 5 }).bank (bankKey 3 1 31)).row.isSome = true ∧ (tdram.bank (bankKey 3 1 31)).row = none ∧
    (tdram [(DRAM.RANK.STAT.DEBT, 3, 2), (DRAM.REF.POSTMAX, 0, 4)]).f DRAM.RANK.STAT.STATE 3 < 2 ∧ tdram.f DRAM.STAT.TRAINED 0 = 1 ∧
    min 9 ((tdram [(DRAM.RANK.STAT.DEBT, 3, 2), (DRAM.REF.POSTMAX, 0, 4)]).f DRAM.RANK.STAT.DEBT 3 + 1) < (tdram [(DRAM.REF.POSTMAX, 0, 4)]).f DRAM.REF.POSTMAX ∧
    (tdram [(DRAM.RANK.STAT.BAND, 3, 1)]).f DRAM.RANK.STAT.BAND 3 = 1 ∧ (tdram.rank 3).lower ≠ some 0 ∧ ((tdram.setRank 3 { lower := some 0 }).rank 3).lower = some 0 ∧
    (tdram [(DRAM.PWR.PDIDLE, 0, 50)]).f DRAM.PWR.PDIDLE ≠ 0 ∧ tdram.f DRAM.RANK.STAT.DEBT 3 = 0 ∧ tdram.f DRAM.RANK.STAT.STATE 3 = 0 ∧
    (tdram [(DRAM.PWR.PDIDLE, 0, 0)]).f DRAM.PWR.PDIDLE = 0 ∧ tdram.canonical = true := by decide +kernel
def tsr (sreq st : Nat) : State := tdram [(DRAM.CTRL.SREQ, 0, sreq), (DRAM.RANK.STAT.STATE, 2, st), (DRAM.RANK.STAT.STATE, 3, st), (DRAM.PWR.SRIDLE, 0, 0)]
theorem wit_self_refresh : (tsr 1 0).canonical = true ∧ (tsr 1 0).f DRAM.CTRL.SREQ 0 = 1 ∧ (tsr 1 0).f DRAM.RANK.STAT.STATE (2 * (1 : Fin 2)) < 2 ∧
    (tsr 1 2).f DRAM.RANK.STAT.STATE 2 = 2 ∧ (tsr 0 2).f DRAM.CTRL.SREQ 0 = 0 ∧ (tsr 0 3).f DRAM.RANK.STAT.STATE 2 = 3 ∧ (tsr 0 3).f DRAM.PWR.SRIDLE = 0 := by
  decide +kernel
def tthr : State := (tdram [(DRAM.RD.EN, 0, 1), (DRAM.RD.TSHARE, 0, 50), (DRAM.SCRUB.PERIOD, 0, 1)]).setChan 1 { acts := [(7, 51)], winActs := 100 }
theorem wit_dram_service : (tdram [(DRAM.STAT.TRAINED, 0, 0)]).f DRAM.STAT.TRAINED 0 = 0 ∧ tdram.f DRAM.STAT.TRFAIL 0 = 0 ∧ tthr.f DRAM.RD.EN 0 = 1 ∧
    tthr.f DRAM.RD.TSHARE 0 * (tthr.chan 1).winActs < 100 * (topSrc (tthr.chan 1).acts).2 ∧ (tdram [(DRAM.RD.EN, 0, 0)]).f DRAM.RD.EN 0 = 0 ∧
    ((tdram.setChan 1 { throttles := [⟨7, 900, 5⟩] }).chan 1).throttles = [⟨7, 900, 5⟩] ∧ (tdram [(DRAM.SCRUB.PERIOD, 0, 0)]).f DRAM.SCRUB.PERIOD 0 = 0 ∧
    tthr.f DRAM.SCRUB.PERIOD 0 ≠ 0 ∧ tthr.dramBytes ≠ 0 ∧ tthr.canonical = true := by decide +kernel
/-- A job command of S2 for channel `c`; the words of a job of 9 bytes at 0x2000 that gives up to 16 bytes at 0x3000. -/
def tgcmd (c : Nat) (w : Word) : Token := tokS2 9 2 c w
def tgw (op notify : Nat) : List Word := [wd (place op 8 56 + place notify 10 12), wd 0x2000, wd 0x3000, wd (place 9 32 32 + 16), 0, 0]
/-- A stored deflate block of "abcd" as channel 0's source, and the same bytes as channel 1's. -/
def tgsrc (x : GChan) (c : Nat) : State := (State.reset.setBytes 0x2000 [1, 4, 0, 0xFB, 0xFF, 97, 98, 99, 100]).setGchan c x
def tgjob (op : Nat) : GJob := ⟨0x1000, tgw op 0x90, gFresh (tgw op 0x90), none⟩
theorem wit_gorge_submit : (State.reset).canonical = true ∧ srcAllowed 9 (tgcmd 1 0x1000).src = true ∧ bits (tgcmd 1 0x1000).payload 47 6 * 64 = 0x1000 ∧
    State.reset.gorgeMem 0x1000 64 = true ∧ State.reset.gorgeFull (tgcmd 1 0x1000) = false ∧ (tst [(GORGEN.STAT.QFILL, 1, 16)]).gorgeFull (tgcmd 1 0x1000) = true ∧
    bits (tgcmd 0 1).payload 5 0 ≠ 0 ∧ bits (tgcmd 2 (wd (place 0x10 8 56 + 1))).payload 63 56 = 0x10 ∧ bits (tgcmd 2 (wd (place 0x10 8 56 + 1))).payload 55 1 = 0 ∧
    ((tgsrc { queue := [0x1000, 0x1040] } 1).gchan 1).job = none := by decide +kernel
theorem wit_gorge_start : (((tgsrc { queue := [0x1000] } 0).sts 0x1000 (tgw 1 0)).gchan 0).queue = [0x1000] ∧
    ((tgsrc { queue := [0x1000] } 0).sts 0x1000 (tgw 1 0)).gorgeBad 0 (tgw 1 0) = false ∧ (tgsrc { queue := [0x1000] } 0).gorgeBad 0 (tgw 2 0) = true ∧
    ((tgsrc { queue := [0x1000] } 0).sts 0x1000 (tgw 1 0)).anyUe 0x1000 8 = false ∧ gResume (tgw 1 0) = false ∧ (tgsrc { job := some (tgjob 1) } 0).canonical = true ∧
    ((tgsrc { job := some (tgjob 1) } 0).gchan 0).job = some (tgjob 1) ∧ gState (tgjob 1).words = 0 ∧ gChain (tgjob 1).words = 0 ∧
    ((tgsrc { job := some (tgjob 1) } 0).gorgeRun 0 (tgjob 1) none).out.length ≤ gDstLen (tgjob 1).words ∧
    overlaps 0x1000 64 (gDst (tgjob 1).words) (gDstLen (tgjob 1).words) = false := by decide +kernel

/-! The Basin, resets, power, repair -/

def traise (cls src : Nat) : Raise := ⟨cls, src, 1, 7, 0x99, 5, 6, 3⟩
def tlines (cls : Nat) (ws : List (Fld × Nat × Nat) := []) : State :=
  { tpg pgRUN {} ([(BASIN.CFG.EMASK, 0, 3), (DALE.CFG.EN, 0, 1), (DALE.CFG.CMASK, 0, 15), (DALE.BASE.V, 0, 0x800), (DALE.PTR.WIDX, 0, 8191), (BASIN.CFG.SEVACT, 0, 0)] ++ ws) with
    lines := [traise cls 31, traise 3 5] }
/-- The device with the lasers let on, both SAFE inputs high. -/
def bOn : Basin := { goff := false }
def tbasin (b : Basin := bOn) : State := State.reset.setBasin b
theorem wit_raise : (tlines 0).canonical = true ∧ (tlines 1).lines = traise 1 31 :: [traise 3 5] ∧ (tlines 1).f BASIN.CFG.SEVACT 0 = 0 ∧ (tlines 0).pgRunning 23 = true ∧
    (tlines 1 [(BASIN.CFG.SEVACT, 0, 1)]).f BASIN.CFG.SEVACT 0 ≠ 0 ∧ (tlines 2).daleLoses 2 = false ∧ (tlines 3 [(DALE.CTRL.FREEZE, 0, 1)]).daleLoses 3 = true ∧
    ((tlines 0).f BASIN.CFG.EMASK 0).testBit 0 = true ∧ State.reset.lines = [] := by decide +kernel
theorem wit_injection : Accepted (tbasin { bOn with testmode := true }) fromS0 BASIN.INJ.GO.base (BASIN.INJ.GO.put (BASIN.INJ.BIT.put 0 90) 1) ∧
    (∀ r ∈ (tbasin).lines, ¬ (r.cls = 90 / 32 ∧ r.source = 90 % 32 ∧ r.mt = (tbasin).mt)) ∧ (tbasin).f BASIN.CFG.INJREACT 0 = 0 ∧
    (tst [(BASIN.CFG.INJREACT, 0, 1)]).f BASIN.CFG.INJREACT 0 = 1 ∧
    Accepted ((tbasin { bOn with levels := [70] }).setStatusBit BASIN.STATUS.V 70) fromS0 (BASIN.STATUS.V.addr 1) 0xFFF ∧
    ((tbasin).setStatusBit BASIN.STATUS.V 70).statusBit BASIN.STATUS.V 70 = true := by unfold Accepted; decide +kernel
theorem wit_lasers : (tbasin).canonical = true ∧ (tbasin).basin.safeA = true ∧ (tbasin { bOn with safeB := false }).basin.safeB = false ∧
    (tbasin { bOn with safeDiffSince := some 5 }).basin.safeDiffSince = some 5 ∧ (tbasin).basin.safeDiffSince = none ∧
    Accepted (tbasin { bOn with goff := true }) fromS0 BASIN.CTRL.LREARM.base (BASIN.CTRL.LREARM.put 0 1) ∧
    (tbasin { bOn with safeB := false }).cwRefusal BASIN.CTRL.LREARM.base fromS0.src = none ∧
    Accepted (tbasin { bOn with errMinEnd := some 9 }) fromS0 BASIN.CTRL.ERREL.base (BASIN.CTRL.ERREL.put 0 1) ∧
    (tbasin { bOn with errMinEnd := some 9 }).basin.errMinEnd = some 9 := by unfold Accepted; decide +kernel
def tdale : State := (tst [(DALE.BASE.V, 0, 0x800), (DALE.PTR.RIDX, 0, 16382), (DALE.PTR.WIDX, 0, 3), (EC.CTRL.RUN, 0, 1), (EC.CFG.EN, 63, 1), (EC.CFG.EVT, 63, 0x640)]).setBytes 0x13FE8 [1]
theorem wit_dale_pop : tdale.canonical = true ∧ Accepted tdale fromS0 DALE.POP.COUNT.base 9 ∧ tdale.daleFill = 5 ∧ tdale.f EC.CTRL.RUN 0 = 1 ∧
    (tst [(EC.CTRL.RUN, 0, 0)]).f EC.CTRL.RUN 0 = 0 := by unfold Accepted; decide +kernel
def tboot (flashOk : Bool) : BootIn := ⟨false, true, true, flashOk, [], []⟩
theorem wit_boot : State.reset.canonical = true ∧ releaseRow (State.reset.setHolds { rails := [2] }) (.brownoutRecovery (tboot false)) = some ({}, false, tboot false) ∧
    ({ reset := true } : Holds).any = true ∧ ({} : Holds).any = false ∧ State.reset.flash.active ≤ 1 ∧ imageCheck [] State.reset = some 1 ∧
    (State.reset.setFlash { trial := 1 }).flash.trial = 1 := by decide +kernel
def tsens (t : Int) : List SensorIn := List.replicate 18 ⟨0, 0, true, t⟩
def trails : List Nat := [800, 831, 833, 900, 1100, 1200, 1100, 1800, 3000]
theorem wit_round : (tsens 1850).length = 18 ∧ (∀ k, k < 9 → trails.getD k 0 < 65536) ∧ State.reset.house.judged = [] ∧ (∀ x ∈ tsens 1850, sensorBroken x = false) ∧
    (∀ i, i < 18 → ((tsens 1850).getD i ⟨0, 0, false, 0⟩).t < 2000) ∧ 2000 ≤ ((tsens 2000).getD 0 ⟨0, 0, false, 0⟩).t ∧ (∀ x ∈ tsens 2000, sensorBroken x = false) := by decide +kernel
def tsleep (w : Wake) (ws : List (Fld × Nat × Nat) := []) : State := (tst ws).setWake w
theorem wit_sleep : (tsleep {}).maySleep 41 = true ∧ (tsleep {}).needsWake 41 = false ∧ (tst [(PG.JOB.STATE, 25, 3)]).maySleep 41 = false ∧
    (tsleep { asleep := [45] } [(IP.CFG.EN, 0, 1)]).wake.asleep = [45] ∧ (tsleep { asleep := [45] } [(IP.CFG.EN, 0, 1)]).needsWake 45 = true ∧
    (tsleep { permits := List.replicate 8 5 }).wake.permits.length = 8 ∧ (tsleep { waking := [(45, 9, 1)] }).wake.waking = [(45, 9, 1)] ∧
    (tsleep { asleep := [13] } [(CORE.STAT.STATE, 15, 3)]).coreState 15 = 3 ∧ (tsleep { asleep := [13] } [(CORE.STAT.STATE, 15, 3)]).wake.busy 13 = false ∧
    (tsleep { asleep := [45] } [(IP.CFG.EN, 0, 1)]).canonical = true := by decide +kernel
def ttrial : State := State.reset.setBoot { trialBoot := true, area := 1, running := true, svn := 5, keyidx := 2 }
theorem wit_vault : ttrial.canonical = true ∧ (State.reset.setVault { supply := false }).vault.supply = false ∧ ttrial.f VAULT.STAT.TAMPER 0 = 0 ∧
    (tst [(VAULT.STAT.TAMPER, 0, 1)]).f VAULT.STAT.TAMPER 0 = 1 ∧ Accepted ttrial fromS0 VAULT.CTRL.MREL.base (VAULT.CTRL.MREL.put 0 1) ∧
    Accepted ttrial fromS0 BOOT.CTRL.CONFIRM.base (BOOT.CTRL.CONFIRM.put 0 1) ∧ Accepted ttrial fromS0 BOOT.CTRL.SVNBURN.base (BOOT.CTRL.SVNBURN.put 0 1) ∧
    Accepted ttrial fromS0 BOOT.CTRL.REVOKE.base (BOOT.CTRL.REVOKE.put 0 (9#4).toNat) ∧ ttrial.boot.svn < 64 := by unfold Accepted; decide +kernel
def trep (ws : List (Fld × Nat × Nat) := []) : State := tst ([(REPAIR.CFG.BGEN, 0, 1), (REPAIR.CFG.ROT, 0, 1), (REPAIR.UNIT.STATE, 43, 1), (REPAIR.UNIT.ROLE, 43, 255)] ++ ws)
theorem wit_repair : (trep).canonical = true ∧ (trep).testAllowed = true ∧ (trep).unitState 43 = uSPARE ∧ unitKind 43 = 1 ∧ (trep).unitState 18 = uACTIVE ∧
    (trep).barrierHeld = false ∧ (tst [(HK.STAT.HOLD, 0, 1)]).testAllowed = false ∧ (∀ d ∈ [0, 1], ((trep).gchan d).job = none ∧ ((trep).gchan d).queue = []) ∧
    ((trep).setBoot { dirty := true }).boot.dirty = true ∧ newestSlot ((trep).setFlash { slots := [(1, ⟨true, 4, 0, 0, []⟩)] }).flash.slots = some (1, ⟨true, 4, 0, 0, []⟩) ∧
    (tbasin { bOn with testmode := true }).basin.testmode = true ∧ (tbasin).eccAt 0x2FFFFF8 = none ∧ (tbasin).basin.testmode = false ∧
    (trole tcore).coreState 15 = 1 := by decide +kernel

/-! Frames, the double fault, single writes -/

theorem wit_double_fault : syncRow (trole { tcore with ex := true }) (.zBrk 15 0) = some (15, 0, 8, 0) ∧ Ready (trole { tcore with ex := true }) 15 0 ∧
    ((trole { tcore with ex := true }).core 15).ex = true ∧ ((trole { tcore with ex := true }).core 15).pc < 2 ^ 16 ∧
    (trole { tcore with ex := true }).lines = [] ∧ (∀ n : Fin 26, (trole { tcore with ex := true }).pgRunning n = false) := by unfold Ready; decide +kernel
theorem wit_stores_nothing : storesNothing .crystalStop = true ∧ ∃ t, exec .crystalStop State.reset = .next t := ⟨rfl, _, rfl⟩
theorem wit_units_kept : leavesCores .crystalStop = true ∧ leavesPathGenerators .crystalStop = true ∧ reachesFlash .crystalStop = false ∧
    reachesKeys .crystalStop = false ∧ reachesUploads .crystalStop = false ∧ reachesDram .crystalStop = false ∧ reachesGorge .crystalStop = false ∧
    reachesPower .crystalStop = false ∧ movesTime .crystalStop = false := by decide +kernel
theorem wit_field_write : fieldRow (.colEnSet 127 fromS0) = some (COL.CFG.EN, 127, 1, fromS0) ∧
    Accepted State.reset fromS0 (COL.CFG.EN.addr 127) (COL.CFG.EN.put (State.reset.word (COL.CFG.EN.addr 127)) 1) := by unfold Accepted; decide +kernel
theorem wit_cww : (regOf HK.CFG.THREN.base).isSome = true ∧ blockOf HK.CFG.THREN.base ∈ [19, 21, 23, 24, 27, 28] ∧
    Accepted State.reset fromS0 HK.CFG.THREN.base (cwReset HK.CFG.THREN.base) ∧ (regOf (COL.CFG.EN.addr 127)).isSome = true ∧
    blockOf HK.CFG.THREN.base ≠ blockOf (COL.CFG.EN.addr 127) ∧ State.reset.cwRefusal HK.CFG.THREN.base 0x80#10 = none ∧
    State.reset.cwRefusal (COL.CFG.EN.addr 127) 0x80#10 = none := by unfold Accepted; decide +kernel

/-! Ill-formed terms: the check of each row refuses them -/

def tokBad : Token := tokS2 0x3FF 0 0 0
theorem smoke_token_rows : [Instr.queueEnqueue 5 tokBad 0, .colAccept 5 tokBad, .triggerStartPeriodic 1 tokBad, .triggerStop 1 tokBad, .triggerSingle 1 tokBad,
    .cwr tokBad, .barrierFanout tokBad, .barrier 3 tokBad, .portTokenArrival 15 7 tokBad 0, .postedWriteAck 15 tokBad, .arm 3 tokBad, .pause 3 tokBad,
    .resume 3 tokBad, .abort 3 tokBad, .disarm 3 tokBad, .trackingTarget 3 tokBad, .setpointAccept 3 tokBad, .ctrimSet 3 tokBad, .auxSetpoint 3 tokBad,
    .auxStop tokBad, .jog 3 tokBad, .gorgeJobSubmit tokBad, .gorgeAbort tokBad 0].all (fun c => !c.wf) = true := by decide +kernel
/-- A message to the wrong place; one that lacks its last token; one whose seq jumps; none. -/
def tmsgs (ep : Nat) : List (List Token) :=
  [[tokBad], [{ tokS2 ep 0 0 0 with last := false }], [{ tokS2 ep 0 0 0 with last := false }, { tokS2 ep 0 0 0 with seq := 2 }], [{ tokS2 ep 0 0 0 with last := false }, { tokS2 ep 1 0 0 with seq := 1 }], []]
theorem smoke_message_rows : (tmsgs 0x10).tail.all (fun m => !(Instr.mwrWrite m).wf && !(Instr.swap m).wf && !(Instr.fetchAdd m).wf && !(Instr.compareAndSwap m).wf) = true ∧
    (tmsgs 0x12).all (fun m => !(Instr.cww m []).wf) = true ∧ (tmsgs 0x43).all (fun m => !(Instr.gateSample 3 m).wf) = true ∧
    (tmsgs 0x203).all (fun m => !(Instr.coefficientSet 3 m).wf) = true ∧ (tmsgs 0x120).all (fun m => !(Instr.cameraSetting 0 m).wf) = true ∧
    (tmsgs 0x140).all (fun m => !(Instr.i2cTransaction 0 m).wf) = true ∧ (tmsgs 0x24B).all (fun m => !(Instr.ruleRecord 3 m).wf) = true ∧
    (tmsgs 0xB).all (fun m => !(Instr.auxMove m).wf) = true ∧ (tmsgs 0x87).all (fun m => !(Instr.upload m).wf && !(Instr.reply m).wf) = true := by decide +kernel
theorem smoke_lengths : [Instr.i2cDone 0 0 0 (List.replicate 256 0), .capRecord 23 (List.replicate 27 0), .sfsReceive 23 false 0 0 (List.replicate 29 0),
    .smpBlockReceive 23 false 0 0 [], .tokBlockReceive 35 false 0 0 (List.replicate 27 0), .ethernetFrame 3 (List.replicate 13 0) true 0,
    .housekeepingRound (tsens 0) [], .housekeepingRound [] trails].all (fun c => !c.wf) = true := by decide +kernel
theorem smoke_packets : (let p := tvct 0x7F; [Instr.ping p, .status p, .vctCwrd p, .vctCwwr p, .rxopen p, .rxclose p, .rxabort p, .rxstat p, .deliver p, .subscribe p,
    .keyset p, .keyclr p, .timeset p, .fwstage p, .vctReset p, .daleup p, .dataChunk p, .uack p, .ping ⟨⟨3, 5, 6, 7⟩, []⟩].all (fun c => !c.wf)) = true := by decide +kernel
theorem smoke_wellformed : [Instr.queueEnqueue 5 (tokS2 0x385 0 0 0) 0, .cww (cwwToks fromS0 0 [(COL.CFG.EN.addr 127, 1)]) [], .housekeepingRound (tsens 0) trails,
    .ping (tvct 1), .uack (tvctAs 5 0 0 0 []), .pllLock].all Instr.wf = true := by decide +kernel

/-! The table gives no row bits, so no word spells a command. -/

theorem test_decode : decodeTableWord 0 0 = none ∧ decodeTableWord 64 0xFFFFFFFF = none ∧ State.reset.withFetchWord 32 7 = State.reset := ⟨rfl, rfl, rfl⟩

end Sys2Proof.Machine
end

section
namespace Sys2Proof.Machine

open Sys2Proof

/-! ### The field maps are well laid out -/

/-- A reset value is one number, and a field of `n` values can hold it. -/
def ResetVal.holdsIn (v : ResetVal) (n : Nat) : Bool :=
  match v with
  | .const k => decide (k < n)
  | _ => false

/-- Two fields of a word share no bit. -/
def FieldSpec.Apart (f g : FieldSpec) : Prop := f.fld.hi < g.fld.lo ∨ g.fld.hi < f.fld.lo

/-- A field map is well laid out: words aligned, fields inside the word and apart, and what a read clears can hold its reset value. -/
structure Reg.LaidOut (r : Reg) : Prop where
  aligned : r.base % 8 = 0 ∧ r.stride % 8 = 0
  apart : r.fields.Pairwise FieldSpec.Apart
  inside : ∀ f ∈ r.fields, f.fld.hi < 64
  clears : ∀ f ∈ r.fields, f.acc = .rs → f.reset.holdsIn f.fld.size = true

theorem regsOfBlock_laidOut {b : Nat} {r : Reg} (h : r ∈ regsOfBlock b) : r.LaidOut := by
  have hall : ∀ b : Fin 29, ∀ r ∈ regsOfBlock b, (r.base % 8 = 0 ∧ r.stride % 8 = 0) ∧
      r.fields.Pairwise (fun f g => f.fld.hi < g.fld.lo ∨ g.fld.hi < f.fld.lo) ∧ (∀ f ∈ r.fields, f.fld.hi < 64) ∧
      (∀ f ∈ r.fields, f.acc = .rs → f.reset.holdsIn f.fld.size = true) := by decide +kernel
  by_cases hb : b < 29
  · obtain ⟨h1, h2, h3, h4⟩ := hall ⟨b, hb⟩ r h
    exact ⟨h1, h2, h3, h4⟩
  · obtain ⟨k, rfl⟩ : ∃ k, b = k + 29 := ⟨b - 29, by omega⟩
    cases h

/-- A register found at an address is one of the list, and the address is that of one of its entries. -/
theorem findReg_some {l : List Reg} {a : Nat} {r : Reg} (h : findReg l a = some r) : r ∈ l ∧ (r.entryAt a).isSome := by
  induction l with
  | nil => cases h
  | cons x l ih =>
    unfold findReg at h
    split at h
    · next e =>
      obtain rfl := Option.some.inj h
      exact ⟨List.mem_cons_self, by rw [e]; rfl⟩
    · exact ⟨List.mem_cons_of_mem _ (ih h).1, (ih h).2⟩

theorem regOf_mem {a : Nat} {r : Reg} (h : regOf a = some r) : r ∈ regsOfBlock (blockOf a) ∧ (r.entryAt a).isSome := by
  unfold regOf at h
  split at h
  · cases h
  · exact findReg_some h

theorem regOf_laidOut {a : Nat} {r : Reg} (h : regOf a = some r) : r.LaidOut := regsOfBlock_laidOut (regOf_mem h).1

/-- Every control word is aligned. -/
theorem regOf_aligned {a : Nat} {r : Reg} (h : regOf a = some r) : a % 8 = 0 := by
  obtain ⟨hb, hs⟩ := (regOf_laidOut h).aligned
  have he := (regOf_mem h).2
  unfold Reg.entryAt at he
  split at he
  · cases he
  · split at he
    · split at he
      · omega
      · cases he
    · split at he
      · next hlt hne hk =>
        have h1 := Nat.div_add_mod (a - r.base) r.stride
        have h2 : r.stride * ((a - r.base) / r.stride) % 8 = 0 := by rw [Nat.mul_mod, hs]; simp
        omega
      · cases he

/-- A word a source may reach is open to it (R92, R93). -/
theorem State.cwOpenTo_of_reached {s : State} {a : Nat} {src : BitVec 10} (h : s.cwRefusal a src = none) : cwOpenTo a src = true := by
  unfold State.cwRefusal at h
  split at h
  · next hreg =>
    split at h
    · cases h
    · next hn =>
      split at h
      · cases h
      · next hx =>
        obtain ⟨r, hr⟩ : ∃ r, regOf a = some r := by
          cases e : regOf a with
          | none => rw [e] at hn; exact absurd rfl hn
          | some r => exact ⟨r, rfl⟩
        have hrange : ¬ (a < 0x100000000 ∨ 0x200000000 ≤ a) := by
          intro hlt
          unfold regOf at hr
          rw [if_pos hlt] at hr
          cases hr
        unfold cwOpenTo
        rw [hr, regOf_aligned hr, Bool.eq_false_iff.2 hx]
        simp only [beq_self_eq_true, Option.isSome_some, Bool.not_false, Bool.and_true, Bool.true_and, decide_eq_true_eq]
        omega
  · cases h
  · cases h


theorem regOf_of_open {a : Nat} {src : BitVec 10} (h : cwOpenTo a src = true) : ∃ r, regOf a = some r := by
  obtain ⟨_, _, _, hn, _⟩ := cwOpenTo_parts h
  exact Option.ne_none_iff_exists'.1 fun e => by simp [e] at hn

/-! ### What a write stores and what a read clears, field by field (R10) -/

/-- The bits of a field's mask. -/
theorem Fld.getLsbD_mask (f : Fld) (hf : f.hi < 64) (i : Nat) : f.mask.getLsbD i = decide (f.lo ≤ i ∧ i ≤ f.hi) := by
  unfold Fld.mask wd place
  rw [BitVec.getLsbD_ofNat, Nat.testBit_mul_two_pow, Nat.testBit_mod_two_pow, Nat.testBit_two_pow_sub_one]
  by_cases h : f.lo ≤ i ∧ i ≤ f.hi
  · have h1 : i < 64 ∧ f.lo ≤ i ∧ i - f.lo < f.hi + 1 - f.lo ∧ i - f.lo < 64 := by omega
    simp [h, h1]
  · have h1 : ¬ (f.lo ≤ i ∧ i - f.lo < f.hi + 1 - f.lo) := by omega
    simp only [h, decide_false]
    simp only [Bool.and_eq_false_iff, decide_eq_false_iff_not]
    tauto

/-- Words that agree on a field's bits agree on the field. -/
theorem Fld.get_congr {f : Fld} {v w : Word} (h : ∀ i, f.lo ≤ i → i ≤ f.hi → v.getLsbD i = w.getLsbD i) : f.get v = f.get w := by
  apply Nat.eq_of_testBit_eq
  intro i
  rw [Fld.testBit_get, Fld.testBit_get]
  by_cases hi : i < f.hi + 1 - f.lo
  · rw [h _ (by omega) (by omega)]
  · simp [hi]

/-- A bit of a word put together from the parts of several fields. -/
theorem getLsbD_foldl_parts {fs : List FieldSpec} {v : FieldSpec → Word} {i : Nat} (hin : ∀ f ∈ fs, f.fld.hi < 64) (acc : Word) :
    (fs.foldl (fun acc f => acc ||| (v f &&& f.fld.mask)) acc).getLsbD i =
      (acc.getLsbD i || fs.any (fun f => (v f).getLsbD i && decide (f.fld.lo ≤ i ∧ i ≤ f.fld.hi))) := by
  induction fs generalizing acc with
  | nil => simp
  | cons g fs ih =>
    rw [List.foldl_cons, ih (fun f hf => hin f (List.mem_cons_of_mem _ hf)), BitVec.getLsbD_or, BitVec.getLsbD_and,
      Fld.getLsbD_mask _ (hin g List.mem_cons_self), List.any_cons, Bool.or_assoc]

/-- Of fields that share no bit, one alone holds a given bit. -/
theorem eq_of_shared_bit {fs : List FieldSpec} (hd : fs.Pairwise FieldSpec.Apart) {f g : FieldSpec} (hf : f ∈ fs) (hg : g ∈ fs) {i : Nat}
    (h1 : f.fld.lo ≤ i ∧ i ≤ f.fld.hi) (h2 : g.fld.lo ≤ i ∧ i ≤ g.fld.hi) : f = g := by
  have : Std.Symm FieldSpec.Apart := ⟨fun _ _ h => h.symm⟩
  by_contra hne
  have h3 : f.fld.hi < g.fld.lo ∨ g.fld.hi < f.fld.lo := hd.forall hf hg hne
  omega

/-- What a write of `data` makes of the bits of a field with access code `acc`, where the word held `old` and hardware holds `set` (R10, R11). -/
def Access.stored (acc : Access) (data set old : Word) : Word :=
  match acc with
  | .rw => data
  | .w1c => (old &&& ~~~ data) ||| set
  | .wo => 0
  | .ro | .rs => old

/-- A write stores each field by its access code. -/
theorem Reg.get_stored {r : Reg} (hr : r.LaidOut) {f : FieldSpec} (hf : f ∈ r.fields) (data set old : Word) :
    f.fld.get (r.stored data set old) = f.fld.get (f.acc.stored data set old) := by
  have hs : r.stored data set old = r.fields.foldl (fun acc f => acc ||| (f.acc.stored data set old &&& f.fld.mask)) 0 := by
    unfold Reg.stored Access.stored
    rfl
  refine Fld.get_congr fun i hlo hhi => ?_
  rw [hs, getLsbD_foldl_parts hr.inside, show (0 : Word).getLsbD i = false from BitVec.getLsbD_zero, Bool.false_or, Bool.eq_iff_iff]
  simp only [List.any_eq_true, Bool.and_eq_true, decide_eq_true_eq]
  constructor
  · rintro ⟨g, hg, hbit, hin⟩
    rwa [eq_of_shared_bit hr.apart hf hg ⟨hlo, hhi⟩ hin]
  · intro hbit
    exact ⟨f, hf, hbit, hlo, hhi⟩

/-- What a read makes of a word, fields `fs` of which it may clear. -/
def clearRead (fs : List FieldSpec) (i : Nat) (w : Word) : Word :=
  fs.foldl (fun w f => if f.acc = .rs then f.fld.put w (f.reset.at i) else w) w

theorem ResetVal.at_lt {v : ResetVal} {n : Nat} (h : v.holdsIn n = true) (i : Nat) : v.at i < n := by
  cases v with
  | const k => exact of_decide_eq_true h
  | _ => cases h

theorem get_clearRead_apart {fs : List FieldSpec} {g : FieldSpec} (hin : ∀ f ∈ fs, f.fld.hi < 64) (hd : ∀ f ∈ fs, FieldSpec.Apart f g) (i : Nat) (w : Word) :
    g.fld.get (clearRead fs i w) = g.fld.get w := by
  induction fs generalizing w with
  | nil => rfl
  | cons f fs ih =>
    rw [show clearRead (f :: fs) i w = clearRead fs i (if f.acc = .rs then f.fld.put w (f.reset.at i) else w) from rfl,
      ih (fun x hx => hin x (List.mem_cons_of_mem _ hx)) (fun x hx => hd x (List.mem_cons_of_mem _ hx))]
    split
    · exact Fld.get_put_other _ _ _ _ (hin f List.mem_cons_self) (hd f List.mem_cons_self)
    · rfl

/-- A read returns the read-to-clear fields to their reset values and leaves the others (R10). -/
theorem get_clearRead {fs : List FieldSpec} (hin : ∀ f ∈ fs, f.fld.hi < 64) (hd : fs.Pairwise FieldSpec.Apart)
    (hc : ∀ f ∈ fs, f.acc = .rs → f.reset.holdsIn f.fld.size = true) {g : FieldSpec} (hg : g ∈ fs) (i : Nat) (w : Word) :
    g.fld.get (clearRead fs i w) = if g.acc = .rs then g.reset.at i else g.fld.get w := by
  induction fs generalizing w with
  | nil => cases hg
  | cons f fs ih =>
    obtain ⟨hf, hd'⟩ := List.pairwise_cons.1 hd
    have hin' : ∀ x ∈ fs, x.fld.hi < 64 := fun x hx => hin x (List.mem_cons_of_mem _ hx)
    rw [show clearRead (f :: fs) i w = clearRead fs i (if f.acc = .rs then f.fld.put w (f.reset.at i) else w) from rfl]
    rcases List.mem_cons.1 hg with rfl | hg
    · rw [get_clearRead_apart hin' (fun x hx => (hf x hx).symm)]
      split
      · next hrs =>
        exact (Fld.get_put_same _ _ _ (hin g List.mem_cons_self)).trans (Nat.mod_eq_of_lt (ResetVal.at_lt (hc g List.mem_cons_self hrs) i))
      · rfl
    · rw [ih hin' hd' (fun x hx => hc x (List.mem_cons_of_mem _ hx)) hg]
      have hother : ∀ v, g.fld.get (f.fld.put w v) = g.fld.get w := fun v => Fld.get_put_other _ _ _ _ (hin f List.mem_cons_self) (hf g hg)
      split
      · rfl
      · split
        · exact hother _
        · rfl

theorem Reg.get_afterRead {r : Reg} (hr : r.LaidOut) {f : FieldSpec} (hf : f ∈ r.fields) (i : Nat) (w : Word) :
    f.fld.get (r.afterRead i w) = if f.acc = .rs then f.reset.at i else f.fld.get w :=
  get_clearRead hr.inside hr.apart hr.clears hf i w

end Sys2Proof.Machine
end

section
namespace Sys2Proof.Machine

open Sys2Proof

/-! ### An accepted write of one word (R11, R12, R93, R94) -/

theorem State.levelBits_eq_zero {s : State} {a : Nat} (h5 : blockOf a ≠ 5) : s.levelBits a = 0 := by
  have hne : ∀ i, i < 2 → a ≠ BASIN.STATUS.V.addr i := by
    rintro i hi rfl
    apply h5
    unfold blockOf
    simp only [BASIN.STATUS.V, Fld.addr]
    omega
  unfold State.levelBits
  rw [if_neg (hne 0 (by omega)), if_neg (hne 1 (by omega))]

/-- A reserved bit written 1 raises an info-class event (R12). -/
def State.noteReserved (s : State) (r : Reg) (a : Nat) (d : Word) : State :=
  if d &&& ~~~ r.named ≠ 0 then s.raise 3 26 0 cwEp 1 0 (wd a) else s

/-- Where hardware holds no bit of the word set, a pair meets no collision. -/
theorem State.pairEvents_eq {s old : State} {p : CwPair} {r : Reg} (hr : regOf p.addr = some r) (h5 : blockOf p.addr ≠ 5) :
    s.pairEvents old [] p = s.noteReserved r p.addr p.data := by
  have hlive : old.liveBits [] p.addr = 0 := State.levelBits_eq_zero h5
  have hones : ones (p.data &&& old.liveBits [] p.addr &&& r.clearable) = 0 := by
    rw [hlive, show p.data &&& (0 : Word) = 0 from BitVec.and_zero, show (0 : Word) &&& r.clearable = 0 from BitVec.zero_and]
    decide
  unfold State.pairEvents
  rw [hr]
  simp only [hones]
  rfl

theorem wordStored_eq {s : State} {a : Nat} {d : Word} {r : Reg} (hr : regOf a = some r) (h5 : blockOf a ≠ 5) :
    wordStored s a d = s.setWord a (r.stored d 0 (s.word a)) := by
  have hlive : s.liveBits [] a = 0 := State.levelBits_eq_zero h5
  unfold wordStored
  rw [hr]
  simp only [hlive]

/-- The words of PT lie in block 2. -/
theorem writesPt_eq_false {p : CwPair} (h2 : blockOf p.addr ≠ 2) : writesPt [p] = false := by
  have hne : ¬ (TB.PTBASE.NS.base ≤ p.addr ∧ p.addr ≤ TB.PTRATE.V.base) := by
    rintro ⟨h1, h3⟩
    apply h2
    unfold blockOf
    simp only [TB.PTBASE.NS, TB.PTRATE.V] at h1 h3
    omega
  simp only [writesPt, List.any_cons, List.any_nil, hne, decide_false, Bool.or_false]

/-- The state once the word of an accepted write is stored and its chapter has acted, before the answer. -/
def writeApplied (s : State) (h : CwFrom) (a : Nat) (d : Word) (r : Reg) : State :=
  let u := writeTaken s h a d
  chapterEffect a d u.mt u ((u.setWord a (r.stored d 0 (u.word a))).noteReserved r a d)

/-- An accepted write of one word outside TB and the Basin: the word is stored, its chapter acts, and ACK is answered. -/
theorem State.cwwOf_accepted {s : State} {h : CwFrom} {a : Nat} {d : Word} {r : Reg} (hr : regOf a = some r) (ha : Accepted s h a d)
    (h2 : blockOf a ≠ 2) (h5 : blockOf a ≠ 5) :
    s.cwwOf h [(a, d)] = if h.ack then (writeApplied s h a d r).respond cwEp (cwTok h kindCWW 0 (cwPayload a h.ack) false) 1
      else writeApplied s h a d r := by
  obtain ⟨hopen, hdata⟩ := ha
  have ho := State.cwOpenTo_of_reached hopen
  obtain ⟨h8, _, hhi, _, _⟩ := cwOpenTo_parts ho
  have hp : CwPair.addr ⟨cwTok h kindCWW 0 (cwPayload a h.ack) false, d⟩ = a := cwAddr_cwPayload h.ack h8 hhi
  have hlive : (writeTaken s h a d).liveBits [] a = 0 := State.levelBits_eq_zero h5
  rw [wordStored_eq hr h5] at hdata
  have hone := State.cwwOf_one (s := s) (h := h) (d := d) ho hr
  simp only at hone
  rw [show s.deliverAll cwEp [cwTok h kindCWW 0 (cwPayload a h.ack) false, cwTok h kindCWW 1 d true] = writeTaken s h a d from rfl, hlive] at hone
  rw [hone hdata, writesPt_eq_false (by rwa [hp]), State.pairEvents_eq (by rw [hp]; exact hr) (by rwa [hp])]
  simp only [Bool.false_eq_true, if_false, hp]
  rfl

theorem State.respond_getLast? (s : State) (ep : Nat) (q : Token) (w : Word) :
    ∃ n, (s.respond ep q w).net.getLast? = some { mkTok ep q.src.toNat kindRSP q.stream.toNat w with seq := n } :=
  ⟨_, List.getLast?_concat⟩

/-- What a write leaves that answers where ACK asks for it. -/
theorem writeAnswered_ite (s : State) (h : CwFrom) (p : Word) :
    WriteAnswered h (if h.ack then s.respond cwEp (cwTok h kindCWW 0 p false) 1 else s) := by
  intro hack
  rw [if_pos hack]
  exact State.respond_getLast? s cwEp _ 1

theorem writeTaken_canonical {s : State} {h : CwFrom} {a : Nat} {d : Word} (hc : s.canonical = true) : (writeTaken s h a d).canonical = true :=
  (State.deliverAll_kept (Kept.refl s)).canon hc

@[simp] theorem State.noteReserved_word (s : State) (r : Reg) (a : Nat) (d : Word) (b : Nat) : (s.noteReserved r a d).word b = s.word b := by
  unfold State.noteReserved
  split <;> rfl

theorem State.noteReserved_canonical {s : State} (r : Reg) (a : Nat) (d : Word) (hc : s.canonical = true) : (s.noteReserved r a d).canonical = true := by
  unfold State.noteReserved
  split
  · exact (State.raise_kept (Kept.refl s)).canon hc
  · exact hc

end Sys2Proof.Machine
end

section
namespace Sys2Proof.Machine

open Sys2Proof

/-! ### O13: a CWW stores by access code, and is applied whole or not at all -/

/-- Blocks of control words whose chapters neither refuse data nor act on a write: VCT, Gorge, housekeeping, repair, I2C and SPI. -/
def quietBlocks : List Nat := [19, 21, 23, 24, 27, 28]

theorem quietBlocks_cases {b : Nat} (hb : b ∈ quietBlocks) : b = 19 ∨ b = 21 ∨ b = 23 ∨ b = 24 ∨ b = 27 ∨ b = 28 := by
  simpa only [quietBlocks, List.mem_cons, List.not_mem_nil, or_false] using hb

theorem chapterEffect_quiet {a : Nat} (hb : blockOf a ∈ quietBlocks) (d : Word) (at_ : Nat) (old s : State) : chapterEffect a d at_ old s = s := by
  rcases quietBlocks_cases hb with h | h | h | h | h | h <;> simp only [chapterEffect, h]

theorem chapterCheck_quiet {a : Nat} (hb : blockOf a ∈ quietBlocks) (d : Word) (old new : State) : chapterCheck a d old new = none := by
  rcases quietBlocks_cases hb with h | h | h | h | h | h <;> simp only [chapterCheck, h]

/-- An accepted write in a quiet block stores the word and notes reserved bits, and its chapter adds nothing. -/
theorem writeApplied_quiet {s : State} {h : CwFrom} {a : Nat} {d : Word} {r : Reg} (hc : s.canonical = true) (hb : blockOf a ∈ quietBlocks) :
    writeApplied s h a d r = ((writeTaken s h a d).setWord a (r.stored d 0 (s.word a))).noteReserved r a d := by
  have hw : (writeTaken s h a d).word a = s.word a :=
    State.word_deliverAll (by rcases quietBlocks_cases hb with h | h | h | h | h | h <;> omega) cwEp _ hc
  unfold writeApplied
  simp only [chapterEffect_quiet hb, hw]

theorem State.noteReserved_lines (s : State) (r : Reg) (a : Nat) (d : Word) :
    (d &&& ~~~ r.named = 0 → (s.noteReserved r a d).lines = s.lines) ∧
    (d &&& ~~~ r.named ≠ 0 → ∃ i, (s.noteReserved r a d).lines = s.lines ++ [i] ∧ i.cls = 3) := by
  unfold State.noteReserved
  constructor
  · intro h0
    rw [if_neg (not_not.2 h0)]
  · intro h0
    rw [if_pos h0]
    exact ⟨_, rfl, rfl⟩

/-- Noting reserved bits adds to the error lines alone. -/
theorem State.noteReserved_eq (s : State) (r : Reg) (a : Nat) (d : Word) : ∃ l, s.noteReserved r a d = s.setLines l := by
  unfold State.noteReserved
  split
  · exact ⟨_, rfl⟩
  · exact ⟨s.lines, rfl⟩

theorem writeTaken_eq (s : State) (h : CwFrom) (a : Nat) (d : Word) : ∃ c n, writeTaken s h a d = (s.setNet n).setCw c :=
  State.deliverAll_eq cwEp _ s

/-- What an answer adds to the state: a token and its producer's count. -/
theorem answered_eq (s : State) (b : Bool) (q : Token) (w : Word) :
    ∃ n k, (if b = true then s.respond cwEp q w else s) = (s.setNet n).setSeqs k := by
  split
  · exact ⟨_, _, rfl⟩
  · exact ⟨s.net, s.seqs, rfl⟩

@[simp] theorem Fld.get_zero (f : Fld) : f.get 0#64 = 0 := by
  unfold Fld.get bits
  simp

theorem cwwStoresByAccessCode : Rules.CwwStoresByAccessCode := by
  intro h a d s r hc hr hb ha
  have hb' : blockOf a ∈ quietBlocks := hb
  have h2 : blockOf a ≠ 2 := by rcases quietBlocks_cases hb' with h | h | h | h | h | h <;> omega
  have h5 : blockOf a ≠ 5 := by rcases quietBlocks_cases hb' with h | h | h | h | h | h <;> omega
  refine ⟨_, congrArg Host.Outcome.next (State.cwwOf_accepted hr ha h2 h5), ?_⟩
  rw [writeApplied_quiet hc hb']
  set u := writeTaken s h a d with hu
  have huc : u.canonical = true := writeTaken_canonical hc
  set v := (u.setWord a (r.stored d 0 (s.word a))).noteReserved r a d with hv
  have hword : ∀ b, v.word b = if b = a then r.stored d 0 (s.word a) else u.word b := by
    intro b
    rw [hv, State.noteReserved_word, State.word_setWord huc]
  obtain ⟨n, k, hans⟩ := answered_eq v h.ack (cwTok h kindCWW 0 (cwPayload a h.ack) false) 1
  have hanswer := writeAnswered_ite v h (cwPayload a h.ack)
  rw [hans] at hanswer ⊢
  obtain ⟨hquiet, hnoted⟩ := State.noteReserved_lines (u.setWord a (r.stored d 0 (s.word a))) r a d
  obtain ⟨l, hl⟩ := State.noteReserved_eq (u.setWord a (r.stored d 0 (s.word a))) r a d
  obtain ⟨c, m, hcm⟩ := writeTaken_eq s h a d
  have hlines : (u.setWord a (r.stored d 0 (s.word a))).lines = s.lines := by rw [hu, hcm]; rfl
  refine ⟨fun f hf => ?_, fun b hba h7 => ?_, hanswer, fun h0 => (hquiet h0).trans hlines, fun h0 => hlines ▸ hnoted h0, ?_⟩
  · show f.fld.get (v.word a) = _
    rw [hword, if_pos rfl, Reg.get_stored (regOf_laidOut hr) hf]
    cases f.acc <;> simp [Access.stored]
  · show v.word b = s.word b
    rw [hword, if_neg hba, hu]
    exact State.word_deliverAll h7 cwEp _ hc
  · rw [hv, hl, hu, hcm]
    rfl


/-- A pair of a CWW, whose address token is the `i`-th of its message. -/
def pairOf (h : CwFrom) (i a : Nat) (d : Word) : CwPair := ⟨cwTok h kindCWW i (cwPayload a h.ack) false, d⟩

theorem pairOf_addr {h : CwFrom} {a : Nat} (ho : cwOpenTo a h.src = true) (i : Nat) (d : Word) : (pairOf h i a d).addr = a := by
  obtain ⟨h8, _, hhi, _, _⟩ := cwOpenTo_parts ho
  exact cwAddr_cwPayload h.ack h8 hhi

/-- A pair to an open word is refused for its address only where it names another block than the first pair (R94). -/
theorem State.addrRefusal_pairOf {u : State} {h : CwFrom} {a : Nat} (ho : cwOpenTo a h.src = true) (first i : Nat) (d : Word) :
    u.addrRefusal first (pairOf h i a d) = if blockOf a ≠ blockOf first then some 4 else none := by
  obtain ⟨h8, _, hhi, _, _⟩ := cwOpenTo_parts ho
  unfold State.addrRefusal
  rw [pairOf_addr ho, show cwwFormed (pairOf h i a d).tok.payload = true from cwwFormed_cwPayload h.ack h8 hhi,
    show u.cwRefusal a (pairOf h i a d).tok.src = none from State.cwRefusal_open ho]
  simp

/-- Data in range to a quiet block is not refused. -/
theorem dataRefusal_quiet {p : CwPair} {r : Reg} (hr : regOf p.addr = some r) (hb : blockOf p.addr ∈ quietBlocks) (hrange : r.outOfRange p.data = false)
    (old new : State) : dataRefusal p old new = none := by
  unfold dataRefusal
  rw [hr]
  simp only [hrange, Bool.false_eq_true, if_false]
  exact chapterCheck_quiet hb _ _ _

/-- Where nothing refuses the first of two pairs and the second is refused for its address, that is all that is refused. -/
theorem State.cwwRefusals_second {u new : State} {p q : CwPair} {toks : List Token} {code : Nat} (hlen : toks.length = 4)
    (hp : u.addrRefusal p.addr p = none) (hd : dataRefusal p u new = none) (hq : u.addrRefusal p.addr q = some code) :
    u.cwwRefusals new toks [p, q] p.addr = [(q.tok, code, false)] := by
  have hodd : ¬ toks.length % 2 = 1 := by omega
  simp only [State.cwwRefusals, hodd, if_false, List.zipIdx_cons, List.zipIdx_nil, List.filterMap_cons, List.filterMap_nil, hp, hd, hq, Option.map_none]
  rfl

/-- A token of a CWW from `h`: of its kind and path, untimed and not poisoned. -/
structure CwwToken (h : CwFrom) (t : Token) : Prop where
  kind : t.kind = kindCWW
  dest : t.dest = 0x12#10
  src : t.src = h.src
  stream : t.stream = h.stream
  err : t.err = false
  timed : t.timed = false

theorem cwwToken_of_mem {h : CwFrom} {t : Token} : ∀ {ps : List (Nat × Word)} {i : Nat}, t ∈ cwwToks h i ps → CwwToken h t
  | [], _, ht => by cases ht
  | p :: ps, i, ht => by
    unfold cwwToks at ht
    rcases List.mem_cons.1 ht with rfl | ht
    · exact ⟨rfl, rfl, rfl, rfl, rfl, rfl⟩
    · rcases List.mem_cons.1 ht with rfl | ht
      · exact ⟨rfl, rfl, rfl, rfl, rfl, rfl⟩
      · exact cwwToken_of_mem ht

/-- A CWW of pairs is delivered and acts at once. -/
theorem State.cwwOf_eq (s : State) (h : CwFrom) (p : Nat × Word) (ps : List (Nat × Word)) :
    s.cwwOf h (p :: ps) = cwWrite (cwwToks h 0 (p :: ps)) [] (s.deliverAll cwEp (cwwToks h 0 (p :: ps))) := by
  obtain ⟨t, ts, hts⟩ : ∃ t ts, cwwToks h 0 (p :: ps) = t :: ts := ⟨_, _, rfl⟩
  have hall : ∀ v ∈ t :: ts, CwwToken h v := fun v hv => cwwToken_of_mem (hts ▸ hv)
  have ht := hall t List.mem_cons_self
  have hlast : ((t :: ts).getLastD t).timed = false := by
    rw [List.getLastD_cons]
    exact (hall _ List.getLastD_mem_cons).timed
  have hany : (t :: ts).any (fun v => v.kind != kindCWW || v.dest != 0x12#10 || v.src != t.src || v.stream != t.stream) = false := by
    rw [List.any_eq_false]
    intro v hv
    have hw := hall v hv
    simp [hw.kind, hw.dest, hw.src, hw.stream, ht.src, ht.stream]
  have herr : errToken (t :: ts) = none := by
    rw [errToken, List.find?_eq_none]
    intro v hv
    simp [(hall v hv).err]
  have hs : srcAllowed cwEp t.src = true := by simp [srcAllowed, residentOnly, spareRole, cwEp]
  show cww (cwwToks h 0 (p :: ps)) [] s = _
  rw [hts]
  unfold cww
  simp only [hany, Bool.false_eq_true, if_false, State.arrive]
  rw [if_pos hs, herr]
  simp only [State.whenLastDue, hlast, Bool.false_and, Bool.false_eq_true, if_false]

/-- A message with one refused pair is refused in that pair's name, and stores nothing. -/
theorem cwWrite_refused {u : State} {t : Token} {ts : List Token} {p : CwPair} {ps : List CwPair} {e : Token} {code : Nat} (hpairs : cwPairs (t :: ts) = p :: ps)
    (href : u.cwwRefusals (u.storePairs [] (p :: ps)) (t :: ts) (p :: ps) p.addr = [(e, code, false)]) (hcode : code ≠ 3) :
    cwWrite (t :: ts) [] u = u.refuse cwEp e code := by
  have happ : ∀ n, u.cwApply (t :: ts) [] n = (some (e, code), u) := by
    intro n
    simp only [State.cwApply, hpairs, href, List.foldl_cons, List.foldl_nil, Bool.false_eq_true, if_false, State.cwWarn, hcode, false_and]
    rfl
  simp only [cwWrite, happ]

theorem State.refuse_getLast? (s : State) (ep : Nat) {q : Token} (code : Nat) (hq : neverAnswered q = false) :
    ∃ n, (s.refuse ep q code).net.getLast? =
      some { mkTok ep q.src.toNat kindRSP q.stream.toNat (refusalPayload q.seq.toNat q.kind.toNat code) with err := true, seq := n } := by
  unfold State.refuse
  rw [hq]
  exact ⟨_, List.getLast?_concat⟩

theorem cwwOfTwoBlocksStoresNothing : Rules.CwwOfTwoBlocksStoresNothing := by
  intro h a b d e s r hc hr _ hb hrange hca hcb hne
  have ho := State.cwOpenTo_of_reached hca
  have hob := State.cwOpenTo_of_reached hcb
  set u := s.deliverAll cwEp (cwwToks h 0 [(a, d), (b, e)])
  have hpa : (pairOf h 0 a d).addr = a := pairOf_addr ho 0 d
  have hp : u.addrRefusal (pairOf h 0 a d).addr (pairOf h 0 a d) = none := by
    rw [State.addrRefusal_pairOf ho, hpa]
    simp
  have hq : u.addrRefusal (pairOf h 0 a d).addr (pairOf h 2 b e) = some 4 := by
    rw [State.addrRefusal_pairOf hob, hpa, if_pos (Ne.symm hne)]
  have hd : ∀ new, dataRefusal (pairOf h 0 a d) u new = none := dataRefusal_quiet (hpa.symm ▸ hr) (hpa.symm ▸ hb) hrange u
  have hrun : s.cwwOf h [(a, d), (b, e)] = u.refuse cwEp (pairOf h 2 b e).tok 4 := by
    rw [State.cwwOf_eq]
    exact cwWrite_refused (p := pairOf h 0 a d) (ps := [pairOf h 2 b e]) rfl (State.cwwRefusals_second rfl hp (hd _) hq) (by decide)
  refine ⟨_, congrArg Host.Outcome.next hrun, fun x _ h7 => ?_, State.refuse_getLast? u cwEp 4 rfl⟩
  rw [State.word_past_refuse]
  exact State.word_deliverAll h7 cwEp _ hc

/-- Settles O13: the accepted pair of a quiet block is stored field by field and its chapter adds nothing; of two pairs to two blocks the second
pair's address alone is refused, before any word is stored. -/
theorem cwwStoresWholeMessages : Obligations.CwwStoresWholeMessages := ⟨cwwStoresByAccessCode, cwwOfTwoBlocksStoresNothing⟩

end Sys2Proof.Machine
end

section
namespace Sys2Proof.Machine

open Sys2Proof

/-! ### O10: register reads -/

/-- A row that reads a word is one CWR. -/
theorem exec_readRow {c : Instr} {a : Nat} {h : CwFrom} (hr : readRow c = some (a, h)) (s : State) : exec c s = .next (s.cwrAt h a) := by
  unfold readRow at hr
  split at hr
  case h_2 b h' =>
    obtain ⟨f, hf, he⟩ := Option.map_eq_some_iff.1 hr
    obtain ⟨rfl, rfl⟩ := Prod.mk.inj he
    show execCollRead b h' s = _
    unfold execCollRead
    rw [hf]
  case h_35 => cases hr
  all_goals
    cases hr
    rfl

/-- An equaliser word, which a read brings up to date first (R356). -/
def isEqWord (a : Nat) : Prop :=
  LANE.CFG.MODE.base ≤ a ∧ a < LANE.CFG.MODE.base + 64 * 128 ∧
  ((a - LANE.CFG.MODE.base) % 128 = 0x10 ∨ 0x40 ≤ (a - LANE.CFG.MODE.base) % 128 ∧ (a - LANE.CFG.MODE.base) % 128 ≤ 0x60)

/-- The yield times of the heads, whose read starts a new count (R221). -/
def isYieldWord (a : Nat) : Prop := blockOf a = 10 ∧ inEntries a 64 0 24 = true ∧ a = SADDLEN.YIELD.YIELDT.addr (entryOf a 64)

theorem readRow_word {c : Instr} {a : Nat} {h : CwFrom} (hr : readRow c = some (a, h)) :
    ¬ isEqWord a ∧ (isYieldWord a → ∃ n, c = .yieldRead n h) := by
  unfold isEqWord isYieldWord
  unfold readRow at hr
  split at hr
  case h_35 => cases hr
  case h_12 n h' =>
    cases hr
    refine ⟨?_, fun _ => ⟨n, rfl⟩⟩
    simp only [Fld.addr, LANE.CFG.MODE, SADDLEN.YIELD.YIELDT]
    omega
  case h_2 b h' =>
    obtain ⟨f, hf, he⟩ := Option.map_eq_some_iff.1 hr
    obtain ⟨rfl, rfl⟩ := Prod.mk.inj he
    unfold collField at hf
    split at hf
    · cases hf
    · cases hf
      unfold blockOf
      simp only [Fld.addr, LANE.CFG.MODE, SADDLEN.YIELD.YIELDT]
      refine ⟨?_, fun h => absurd h ?_⟩
      · split_ifs <;> omega
      · split_ifs <;> omega
  case h_23 k e h' =>
    cases hr
    refine ⟨?_, fun h => absurd h ?_⟩ <;> cases e <;>
      simp only [Fld.addr, blockOf, LANE.CFG.MODE, LANE.ERRS.V, LANE.BITS.V, SADDLEN.YIELD.YIELDT, if_true, Bool.false_eq_true, if_false] <;> omega
  all_goals
    cases hr
    refine And.imp_right (fun hy hyes => absurd hyes hy) ?_
    simp only [Fld.addr, blockOf, LANE.CFG.MODE, SADDLEN.YIELD.YIELDT, QUEUE.STAT.DROPS, COL.SLACK.MIN, COL.LATE.COUNT, COL.COINC.V, PLAIN.ECC.CE,
      PLAIN.ECCADDR.TYPE, PG.LEAD.MIN, PG.LIMCNT.LIMITS, PG.GRES.EDGE, SADDLE.CNT.CUTS, SERVO.CNT.RERUNS, SERVON.CNT.OVRS, POS.SC.CNT.AMPS,
      POS.ENC.CNT.QERRS, POS.HALL.CNT.HBADS, POS.PRB.STAT.DROPS, CSI.CNT.ECCC, IP.CNT.FRAMES, SERVO.RULE.CNT.USED, PG.PRDROP.V, LINK.CNT.RETRAIN,
      ETH.CNT.RXFRM, VCT.CNT.CMDS, DRAM.ECC.CE, DRAM.ECCADDR.TYPE, DRAM.CNT.RFMS, GORGE.CNT.JOBS, GORGEN.BYTES.IN, DALE.STAT.LOST, EC.COUNT.V,
      HK.WAKE.GRANTS]
    omega


theorem laneRead_eq {a : Nat} (h : ¬ isEqWord a) (s : State) : laneRead a s = s := by
  unfold isEqWord at h
  unfold laneRead
  split
  · rfl
  · next hin =>
    have hno : ¬ (((a - LANE.CFG.MODE.base) % 128 = 0x10 ∨ 0x40 ≤ (a - LANE.CFG.MODE.base) % 128 ∧ (a - LANE.CFG.MODE.base) % 128 ≤ 0x60)) := by
      intro hk
      exact h ⟨by omega, by omega, hk⟩
    simp only [hno, false_and, if_false]

/-- What a read makes of the word it reads, and of no other (R10). -/
def wordRead (s : State) (r : Reg) (a : Nat) : State :=
  if r.fields.any (fun f => f.acc == .rs) then s.setWord a (r.afterRead (r.indexOf a) (s.word a)) else s

theorem wordRead_eq (s : State) (r : Reg) (a : Nat) : ∃ c, wordRead s r a = s.setCw c := by
  unfold wordRead
  split
  · exact ⟨_, rfl⟩
  · exact ⟨s.cw, rfl⟩

theorem word_wordRead_other {s : State} (hc : s.canonical = true) (r : Reg) {a b : Nat} (hb : b ≠ a) : (wordRead s r a).word b = s.word b := by
  unfold wordRead
  split
  · rw [State.word_setWord hc, if_neg hb]
  · rfl

theorem get_wordRead {s : State} (hc : s.canonical = true) {r : Reg} (hr : r.LaidOut) (a : Nat) {f : FieldSpec} (hf : f ∈ r.fields) :
    f.fld.get ((wordRead s r a).word a) = if f.acc = .rs then f.reset.at (r.indexOf a) else f.fld.get (s.word a) := by
  unfold wordRead
  split
  · rw [State.word_setWord hc, if_pos rfl, Reg.get_afterRead hr hf]
  · next hno =>
    have hacc : f.acc ≠ .rs := fun e => hno (List.any_eq_true.2 ⟨f, hf, by simp [e]⟩)
    rw [if_neg hacc]

/-- The side effect of a read: what the word clears, and the new count where it is a head's yield time. -/
theorem State.readEffect_eq (s : State) {a : Nat} {r : Reg} (hr : regOf a = some r) :
    ∃ p, s.readEffect a = (wordRead s r a).setPgs p ∧ (¬ isYieldWord a → p = s.pgs) := by
  obtain ⟨c, hc⟩ := wordRead_eq s r a
  have he : s.readEffect a = if blockOf a = 10 ∧ inEntries a 64 0 24 = true ∧ a = SADDLEN.YIELD.YIELDT.addr (entryOf a 64) then
      (wordRead s r a).setPg (entryOf a 64) { (wordRead s r a).pg (entryOf a 64) with yieldFrom := (wordRead s r a).mt } else wordRead s r a := by
    unfold State.readEffect
    rw [hr]
    rfl
  rw [he]
  split
  · next hy => exact ⟨_, rfl, fun hno => absurd hy hno⟩
  · exact ⟨s.pgs, by rw [hc]; rfl, fun _ => rfl⟩

/-- What a read returns depends on the word and on no other control word. -/
theorem State.readWord_congr {s : State} {a : Nat} (c : List (Nat × Word)) (n : List Token) (hw : ((s.setNet n).setCw c).word a = s.word a) :
    ((s.setNet n).setCw c).readWord a = s.readWord a := by
  unfold State.readWord
  rw [hw]
  rfl

theorem State.readWord_deliver {s : State} (hc : s.canonical = true) (ep : Nat) (q : Token) {a : Nat} (h7 : blockOf a ≠ 7) :
    (s.deliver ep q).readWord a = s.readWord a := by
  have hw := State.word_deliver hc ep q h7
  obtain ⟨c, hd⟩ := State.deliver_eq s ep q
  rw [hd] at hw ⊢
  exact State.readWord_congr c _ hw

theorem State.respond_eq (s : State) (ep : Nat) (q : Token) (w : Word) :
    ∃ n k, s.respond ep q w = (s.setNet (s.net ++ [{ mkTok ep q.src.toNat kindRSP q.stream.toNat w with seq := n }])).setSeqs k := ⟨_, _, rfl⟩

/-- Settles O10: a row that reads is one CWR of an open word; the request is delivered, the word answered and what a read clears is cleared. -/
theorem registerReadsAnswerAndClear : Obligations.RegisterReadsAnswerAndClear := by
  intro c a h s hrow hc hopen
  have ho := State.cwOpenTo_of_reached hopen
  obtain ⟨r, hr⟩ := regOf_of_open ho
  obtain ⟨heq, hyield⟩ := readRow_word hrow
  set q := cwTok h kindCWR 0 (cwPayload a false) true with hq
  set u := s.deliver cwEp q with hu
  have huc : u.canonical = true := (State.deliver_kept (Kept.refl s)).canon hc
  obtain ⟨p, he, hp⟩ := State.readEffect_eq u hr
  obtain ⟨n, k, ha⟩ := State.respond_eq (u.readEffect a) cwEp q (u.readWord a)
  have hrun : s.cwrAt h a = (u.readEffect a).respond cwEp q (u.readWord a) := by
    rw [State.cwrAt_eq ho]
    simp only [laneRead_eq heq]
    rfl
  obtain ⟨d, hd⟩ := State.deliver_eq s cwEp q
  obtain ⟨e, hw⟩ := wordRead_eq u r a
  have hpgs : u.pgs = s.pgs := by rw [hu, hd]; rfl
  refine ⟨_, (exec_readRow hrow s).trans (congrArg Host.Outcome.next hrun), ?_⟩
  rw [ha, he]
  refine ⟨⟨⟨n, ?_⟩, fun r' hr' f hf => ?_⟩, fun h7 => State.readWord_deliver hc cwEp q h7, fun b hb h7 => ?_, ?_, fun hno => ?_⟩
  · rw [hw, hu, hd]
    rfl
  · obtain rfl : r = r' := Option.some.inj (hr.symm.trans hr')
    exact get_wordRead huc (regOf_laidOut hr) a hf
  · exact (word_wordRead_other huc r hb).trans (State.word_deliver hc cwEp q h7)
  · rw [hw, hu, hd]
    rfl
  · exact (hp fun hy => (hyield hy).elim hno).trans hpgs

end Sys2Proof.Machine
end

section
namespace Sys2Proof.Machine

open Sys2Proof

/-! ### What a chapter's effect leaves alone: one control word at a time -/

/-- From canonical tables, `t` has canonical tables again and the control word at `a` reads as in `s`. -/
def Spares (a : Nat) (s t : State) : Prop := s.canonical = true → t.canonical = true ∧ t.word a = s.word a

section
variable {a : Nat} {s t : State}

theorem Spares.refl (a : Nat) (s : State) : Spares a s s := fun hc => ⟨hc, rfl⟩

/-- An operation that touches no control word spares every one. -/
theorem Spares.quiet {u : State} (h : Spares a s t) (k : Kept t u) (e : u.cw = t.cw) : Spares a s u := fun hc =>
  ⟨k.canon (h hc).1, (State.word_congr e a).trans (h hc).2⟩

theorem Spares.setWord {b : Nat} {w : Word} (h : Spares a s t) (hne : a ≠ b) : Spares a s (t.setWord b w) := fun hc =>
  ⟨State.canonical_setWord _ _ (h hc).1, by rw [State.word_setWord (h hc).1, if_neg hne, (h hc).2]⟩

theorem Spares.setF {f : Fld} {i v : Nat} (h : Spares a s t) (hne : a ≠ f.addr i) : Spares a s (t.setF f i v) := h.setWord hne

theorem Spares.ite {u : State} {c : Prop} [Decidable c] (h : Spares a s t) (k : Spares a s u) : Spares a s (if c then t else u) := by
  split
  · exact h
  · exact k

theorem Spares.foldl {α : Type} {l : List α} {f : State → α → State} (h : Spares a s t) (hf : ∀ u x, Spares a s u → Spares a s (f u x)) :
    Spares a s (l.foldl f t) := by
  induction l generalizing t with
  | nil => exact h
  | cons x l ih => exact ih (hf t x h)

/-- A record written to the Dale spares the words outside the Dale, the event counters and the vault. -/
theorem Spares.record7 {source rtype unit src : Nat} {d0 d1 : Word} {mt : Option Nat} (h : Spares a s t) (hb : blockOf a ∉ [6, 7, 26]) :
    Spares a s (t.record7 source rtype unit src d0 d1 mt) := fun hc => by
  simp only [List.mem_cons, List.not_mem_nil, or_false, not_or] at hb
  obtain ⟨h6, h7, h26⟩ := hb
  exact ⟨(State.record7_kept (Kept.refl t)).canon (h hc).1, (State.word_record7 (h hc).1 _ _ _ _ _ _ _ h6 h7 h26).trans (h hc).2⟩

theorem Spares.setCol {n : Nat} {c : Col} (h : Spares a s t) : Spares a s (t.setCol n c) := h.quiet (State.setCol_kept (Kept.refl t)) rfl
theorem Spares.setLoop {n : Nat} {x : Loop} (h : Spares a s t) : Spares a s (t.setLoop n x) := h.quiet (State.setLoop_kept (Kept.refl t)) rfl
theorem Spares.setAux {n : Nat} {x : AuxSt} (h : Spares a s t) : Spares a s (t.setAux n x) := h.quiet (State.setAux_kept (Kept.refl t)) rfl
theorem Spares.setLink {n : Nat} {x : LinkSt} (h : Spares a s t) : Spares a s (t.setLink n x) := h.quiet (State.setLink_kept (Kept.refl t)) rfl
theorem Spares.setLane {n : Nat} {x : LaneSt} (h : Spares a s t) : Spares a s (t.setLane n x) := h.quiet (State.setLane_kept (Kept.refl t)) rfl
theorem Spares.send {q : Token} (h : Spares a s t) : Spares a s (t.send q) := h.quiet (State.send_kept (Kept.refl t)) rfl

/-! ### Cols and the load of the servo engine -/

theorem Spares.colDiscard {n : Nat} (h : Spares a s t) (hb : blockOf a ∉ [6, 7, 26]) (hl : ∀ m, a ≠ COL.LATE.FLUSH.addr m) : Spares a s (t.colDiscard n) := by
  unfold State.colDiscard
  exact (h.setCol.setF (hl n)).record7 hb

theorem Spares.loadUpdate (h : Spares a s t) (hl : a ≠ SERVO.LOAD.V.addr 0) (ho : a ≠ SERVO.STAT.OVERLOAD.addr 0) : Spares a s t.loadUpdate := by
  unfold State.loadUpdate
  extract_lets +onlyGivenNames l b was u v
  have hu : Spares a s u := .setF (.setF h hl) hl
  have hv : Spares a s v := .setF hu ho
  clear_value v
  exact .ite (.quiet hv (State.severe_kept (Kept.refl _)) rfl) hv

theorem Spares.colCfgEffect {n : Nat} {old : State} (h : Spares a s t) (hb : blockOf a ∉ [6, 7, 26]) (hl : ∀ m, a ≠ COL.LATE.FLUSH.addr m)
    (hv : a ≠ SERVO.LOAD.V.addr 0) (ho : a ≠ SERVO.STAT.OVERLOAD.addr 0) : Spares a s (colCfgEffect n old t) := by
  unfold Machine.colCfgEffect
  extract_lets +onlyGivenNames en was c u
  have hu : Spares a s u := .ite (.setCol h) h
  clear_value u
  refine .ite ?_ (.ite (.setCol hu) hu)
  extract_lets +onlyGivenNames v c' w
  have hv' : Spares a s v := .colDiscard hu hb hl
  have hw : Spares a s w := .ite (.quiet (.setCol hv') (State.noteGates_kept (Kept.refl _)) rfl) hv'
  clear_value w
  exact .ite (.loadUpdate (.setCol hw) hv ho) hw

/-! ### The loops of the servo engine -/

theorem Spares.lastOutput {l : Nat} (h : Spares a s t) : Spares a s (t.lastOutput l) := by
  unfold State.lastOutput
  exact .ite (.send h) (.ite (.send h) h)

theorem Spares.loopCfgEffect {l : Nat} {old : State} (h : Spares a s t) (hs : a ≠ SERVON.STAT.RUN.addr l) (hv : a ≠ SERVO.LOAD.V.addr 0)
    (ho : a ≠ SERVO.STAT.OVERLOAD.addr 0) : Spares a s (loopCfgEffect l old t) := by
  unfold Machine.loopCfgEffect
  refine .ite (.loadUpdate (.setF (.setLoop h) hs) hv ho) (.ite (.loadUpdate ?_ hv ho) h)
  exact .setF (.setF (.lastOutput h) hs) hs

theorem Spares.sendAux {k at_ mode : Nat} {u : Int} {cmode ang : Nat} (h : Spares a s t) (hs : a ≠ AUX.STAT.BRKREL.addr k) :
    Spares a s (t.sendAux k at_ mode u cmode ang) := by
  unfold State.sendAux
  exact .setF (.setAux (.send (.send h))) hs

theorem Spares.auxLoopOff {l : Nat} {old : State} (h : Spares a s t) (hs : a ≠ AUX.STAT.BRKREL.addr (l - 104)) : Spares a s (auxLoopOff l old t) := by
  unfold Machine.auxLoopOff
  exact .ite (.sendAux h hs) h

theorem Spares.setTrim {n v : Nat} (h : Spares a s t) (hs : a ≠ SERVO.RULE.STAT.CTRIM.addr n) (hu : a ≠ SERVON.OUT.U.addr (72 + n)) :
    Spares a s (t.setTrim n v) := by
  unfold State.setTrim State.outputStage
  extract_lets +onlyGivenNames l x u
  have hw : Spares a s u := .ite h (.setLoop (.setF h hs))
  clear_value u
  exact .ite hw (.send (.setF (.setLoop hw) hu))

theorem Spares.ruleEffect {b : Nat} (h : Spares a s t) (hs : ∀ n, a ≠ SERVO.RULE.STAT.RUN.addr n) (hu : ∀ n, a ≠ SERVON.OUT.U.addr (72 + n)) :
    Spares a s (ruleEffect b t) := by
  unfold Machine.ruleEffect
  exact .ite h (.ite (.setTrim (.setF h (hs _)) (hs _) (hu _)) (.setF h (hs _)))

/-! ### Position feedback and imaging -/

/-- An entry found at an address is one of the array's. -/
theorem Fld.idx_lt {f : Fld} {n b k : Nat} (hn : 0 < n) (h : f.idx n b = some k) : k < n := by
  unfold Fld.idx at h
  split at h
  · cases h
  · split at h
    · split at h
      · cases h
        exact hn
      · cases h
    · split at h
      · next hk =>
        cases h
        exact hk.2
      · cases h

/-- The words a write in the position block may set beside the one written: states, the adaptation's start values. -/
structure PosSpared (a : Nat) : Prop where
  scStat : ∀ i < 72, a ≠ POS.SC.STAT.RUN.addr i
  scAdj : ∀ i < 72, a ≠ POS.SC.ADJ.SOFS.addr i
  encStat : ∀ k < 8, a ≠ POS.ENC.STAT.HOMED.addr k
  hallState : ∀ k < 8, a ≠ POS.HALL.STATE.SECTOR.addr k
  prbStat : ∀ k < 8, a ≠ POS.PRB.STAT.ARMED.addr k
  emuStat : ∀ k < 4, a ≠ POS.EMU.STAT.RUN.addr k

theorem Spares.setSc {n : Nat} {x : ScSt} (h : Spares a s t) : Spares a s (t.setSc n x) := h.quiet (State.setSc_kept (Kept.refl t)) rfl
theorem Spares.setEnc {n : Nat} {x : EncSt} (h : Spares a s t) : Spares a s (t.setEnc n x) := h.quiet (State.setEnc_kept (Kept.refl t)) rfl
theorem Spares.setHall {n : Nat} {x : HallSt} (h : Spares a s t) : Spares a s (t.setHall n x) := h.quiet (State.setHall_kept (Kept.refl t)) rfl
theorem Spares.setEmu {n : Nat} {x : EmuSt} (h : Spares a s t) : Spares a s (t.setEmu n x) := h.quiet (State.setEmu_kept (Kept.refl t)) rfl

theorem Spares.posEffect {b : Nat} {old : State} (h : Spares a s t) (hp : PosSpared a) : Spares a s (posEffect b old t) := by
  unfold Machine.posEffect
  split
  · next i hi =>
    have hi72 := Fld.idx_lt (by omega) hi
    extract_lets +onlyGivenNames x u
    have hu : Spares a s u := .ite (.setSc h) (.ite (.setF (.setSc h) (hp.scStat i hi72)) h)
    clear_value u
    exact .ite (.setSc (.setWord hu (hp.scAdj i hi72))) hu
  split
  · next k hk => exact .ite (.setF (.setEnc h) (hp.encStat k (Fld.idx_lt (by omega) hk))) h
  split
  · exact .ite (.setEnc h) h
  split
  · next k hk =>
    refine .ite ?_ h
    extract_lets +onlyGivenNames u
    have hu : Spares a s u := .setHall h
    clear_value u
    split
    · exact .setF hu (hp.hallState k (Fld.idx_lt (by omega) hk))
    · exact hu
  split
  · next k hk => exact .setF h (hp.prbStat k (Fld.idx_lt (by omega) hk))
  split
  · next k hk => exact .ite (.setF (.setEmu h) (hp.emuStat k (Fld.idx_lt (by omega) hk))) h
  · exact h

theorem Spares.imagingEffect {b : Nat} (h : Spares a s t) (hc : ∀ k, a ≠ CSI.STAT.SYNC.addr k) (hi : ∀ c, a ≠ IP.STAT.RUN.addr c) :
    Spares a s (imagingEffect b t) := by
  have hq : ∀ n x, Spares a s (t.setSlot n x) := fun n x => .quiet h (State.setSlot_kept (Kept.refl t)) rfl
  have ht : ∀ n x, Spares a s (t.setTap n x) := fun n x => .quiet h (State.setTap_kept (Kept.refl t)) rfl
  unfold Machine.imagingEffect
  refine .ite (.ite (.setF h (hc _)) h) (.ite ?_ (.ite (.ite h (ht _ _)) h))
  exact .ite h (.ite (.setF (hq _ _) (hi _)) (.setF (hq _ _) (hi _)))

/-! ### Auxiliary axes -/

theorem Spares.auxRefresh (h : Spares a s t) (hs : ∀ k, a ≠ AUX.STAT.RUN.addr k) : Spares a s t.auxRefresh := by
  unfold State.auxRefresh
  refine .foldl h fun u k hu => ?_
  extract_lets +onlyGivenNames v w
  have hv : Spares a s v := .setF hu (hs k)
  clear_value v
  have hw : Spares a s w := by
    unfold w
    split
    · exact .setF (.setF hv (hs k)) (hs k)
    · exact .setF hv (hs k)
  exact .setF hw (hs k)

theorem Spares.setAuxMoves {ms : List AuxMove} (h : Spares a s t) : Spares a s (t.setAuxMoves ms) := .quiet h (State.setAuxMoves_kept (Kept.refl t)) rfl

theorem Spares.auxNotice {m : AuxMove} {status n : Nat} (h : Spares a s t) : Spares a s (t.auxNotice m status n) := by
  unfold State.auxNotice
  exact .ite h (.quiet h (State.sendMsg_kept (Kept.refl t)) (by simp))

theorem Spares.auxFlush {mask n : Nat} (h : Spares a s t) (hs : ∀ k, a ≠ AUX.STAT.RUN.addr k) : Spares a s (t.auxFlush mask n) := by
  unfold State.auxFlush State.auxEnd
  exact .foldl h fun u m hu => .auxRefresh (.auxNotice (.setAuxMoves hu)) hs

theorem Spares.auxHalt {k status : Nat} (h : Spares a s t) (hs : ∀ k, a ≠ AUX.STAT.RUN.addr k) : Spares a s (t.auxHalt k status) := by
  unfold State.auxHalt
  extract_lets +onlyGivenNames u v
  have hu : Spares a s u := by
    unfold u
    split
    · next m _ =>
      have hm : Spares a s (t.auxNotice m status t.mt) := .auxNotice h
      exact .ite (.setAuxMoves hm) (.quiet (.setAuxMoves hm) (State.setAuxStops_kept (Kept.refl _)) rfl)
    · exact h
  exact .auxRefresh (.setAux (.auxFlush hu hs)) hs

theorem Spares.auxEffect {b : Nat} {old : State} (h : Spares a s t) (hs : ∀ k, a ≠ AUX.STAT.RUN.addr k) : Spares a s (auxEffect b old t) := by
  unfold Machine.auxEffect
  refine .ite (.ite ?_ (.ite ?_ h)) (.ite (.setAux h) h)
  · exact .setF (.setF (.setAux h) (hs _)) (hs _)
  · exact .setF (.setAux (.auxHalt h hs)) (hs _)

/-! ### Lanes and links -/

theorem Spares.setLinkState {n st : Nat} (h : Spares a s t) (hs : ∀ m, a ≠ LINK.STAT.STATE.addr m) : Spares a s (t.setLinkState n st) := by
  unfold State.setLinkState
  exact .ite (.setF (.setLink h) (hs n)) (.setLink h)

theorem Spares.linkLocks {n : Nat} (h : Spares a s t) (hs : ∀ m, a ≠ LINK.STAT.STATE.addr m) : Spares a s (t.linkLocks n) := by
  unfold State.linkLocks
  exact .ite (.ite (.setF (.setF h (hs n)) (hs n)) (.setF h (hs n))) h

theorem Spares.laneTo {k st : Nat} (h : Spares a s t) (hs : ∀ m, a ≠ LINK.STAT.STATE.addr m) : Spares a s (t.laneTo k st) := by
  unfold State.laneTo
  extract_lets +onlyGivenNames x u
  have hu : Spares a s u := .setLane h
  clear_value u
  split
  · exact .linkLocks hu hs
  · exact hu

theorem Spares.leaveActive {n st : Nat} (h : Spares a s t) (hb : blockOf a ∉ [6, 7, 26]) (hl : ∀ m, a ≠ COL.LATE.FLUSH.addr m)
    (hc : ∀ m, a ≠ LINK.CNT.UNSENT.addr m) (hs : ∀ m, a ≠ LINK.STAT.STATE.addr m) : Spares a s (t.leaveActive n st) := by
  unfold State.leaveActive State.linkFlush
  exact .setLinkState (.setLink (.ite (.setF (.colDiscard h hb hl) (hc n)) h)) hs

theorem Spares.linkDrop {n st : Nat} (h : Spares a s t) (hb : blockOf a ∉ [6, 7, 26]) (hl : ∀ m, a ≠ COL.LATE.FLUSH.addr m)
    (hc : ∀ m, a ≠ LINK.CNT.UNSENT.addr m) (hs : ∀ m, a ≠ LINK.STAT.STATE.addr m) : Spares a s (t.linkDrop n st) := by
  unfold State.linkDrop State.lanesTo
  exact .foldl (.ite (.leaveActive h hb hl hc hs) (.setLinkState h hs)) fun u k hu => .ite hu (.laneTo hu hs)

end

end Sys2Proof.Machine
end

section
namespace Sys2Proof.Machine

open Sys2Proof

/-! ### The words the write rows name -/

/-- Words at different places within lines of 64 bytes are different words. -/
theorem Fld.addr_ne {f g : Fld} {i j : Nat} (h : f.stride % 64 = 0 ∧ g.stride % 64 = 0 ∧ f.base % 64 ≠ g.base % 64) : f.addr i ≠ g.addr j := by
  obtain ⟨hf, hg, hne⟩ := h
  intro e
  apply hne
  have hi := Nat.mul_mod f.stride i 64
  have hj := Nat.mul_mod g.stride j 64
  rw [hf, Nat.zero_mul, Nat.zero_mod] at hi
  rw [hg, Nat.zero_mul, Nat.zero_mod] at hj
  unfold Fld.addr at e
  omega

/-- The chapter's effect of a write to the word at `a` leaves that word as the write stored it. -/
def EffectSpares (a : Nat) : Prop := ∀ (d : Word) (at_ : Nat) (old s : State), Spares a s (chapterEffect a d at_ old s)

/-- A choice of which one branch cannot be taken. -/
theorem Spares.branch {a : Nat} {s t u : State} {c : Prop} [Decidable c] (h : c → Spares a s t) (k : ¬ c → Spares a s u) :
    Spares a s (if c then t else u) := by
  split
  · next hc => exact h hc
  · next hc => exact k hc

theorem effectSpares_colCfg (n : Fin 128) : EffectSpares (COL.CFG.EN.addr n) := by
  intro d at_ old s
  have hb : blockOf (COL.CFG.EN.addr n) = 4 := by
    simp only [blockOf, Fld.addr, COL.CFG.EN]
    omega
  simp only [chapterEffect, hb]
  exact .ite (.colCfgEffect (.refl _ s) (by rw [hb]; decide) (fun _ => Fld.addr_ne (by decide)) (Fld.addr_ne (by decide)) (Fld.addr_ne (by decide)))
    (.refl _ s)

theorem Spares.trkEnCleared {a n : Nat} {s t : State} (h : Spares a s t) : Spares a s (trkEnCleared n t) := h.quiet (State.setPg_kept (Kept.refl t)) rfl

/-- A write to a path generator's word acts on that generator's record, or returns its trace count to 0 (R187, R192). -/
theorem effectSpares_pg {a : Nat} (hb : blockOf a = 9) (hcnt : ∀ n, a ≠ PG.STRCNT.V.addr n) : EffectSpares a := by
  intro d at_ old s
  simp only [chapterEffect, hb, pgTrkEffect, straceEffect]
  refine .ite (.refl _ s) (.ite (.ite (.trkEnCleared (.refl _ s)) (.refl _ s)) (.ite (.ite (.setF (.refl _ s) (hcnt _)) (.refl _ s)) (.refl _ s)))

theorem effectSpares_strace (n : Fin 26) : EffectSpares (PG.STRACE.EN.addr n) :=
  effectSpares_pg (by simp only [blockOf, Fld.addr, PG.STRACE.EN]; omega) fun _ => Fld.addr_ne (by decide)

theorem effectSpares_trk (n : Fin 26) : EffectSpares (PG.TRK.EN.addr n) :=
  effectSpares_pg (by simp only [blockOf, Fld.addr, PG.TRK.EN]; omega) fun _ => Fld.addr_ne (by decide)

theorem effectSpares_wring (n : Fin 26) : EffectSpares (PG.WRING.BASE.addr n) :=
  effectSpares_pg (by simp only [blockOf, Fld.addr, PG.WRING.BASE]; omega) fun _ => Fld.addr_ne (by decide)

/-- The Saddle's own words below its entries: the record enables return the counts of their rings to 0 (R220, R311). -/
theorem effectSpares_saddle {a : Nat} (hb : blockOf a = 10) (hin : ¬ inEntries a 64 0 24 = true) (hh : a ≠ SADDLE.HRCNT.V.addr 0)
    (hl : a ≠ SADDLE.LRCNT.V.addr 0) : EffectSpares a := by
  intro d at_ old s
  simp only [chapterEffect, hb, hrecEffect, lrecEffect, hin, Bool.not_false, if_true]
  exact .ite (.ite (.setF (.refl _ s) hh) (.refl _ s)) (.ite (.ite (.setF (.refl _ s) hl) (.refl _ s)) (.refl _ s))

theorem effectSpares_narm : EffectSpares (SADDLE.NARM.ARM.addr 0) := effectSpares_saddle (by decide) (by decide) (by decide) (by decide)
theorem effectSpares_hrec : EffectSpares (SADDLE.HREC.EN.addr 0) := effectSpares_saddle (by decide) (by decide) (by decide) (by decide)
theorem effectSpares_lrec : EffectSpares (SADDLE.LREC.EN.addr 0) := effectSpares_saddle (by decide) (by decide) (by decide) (by decide)

theorem effectSpares_loopCfg (l : Fin 112) : EffectSpares (SERVON.CFG.EN.addr l) := by
  intro d at_ old s
  have hb : blockOf (SERVON.CFG.EN.addr l) = 11 := by
    simp only [blockOf, Fld.addr, SERVON.CFG.EN]
    omega
  have hst : SERVON.CFG.EN.addr l ≠ SERVO.STBASE.BASE.base := by
    simp only [Fld.addr, SERVON.CFG.EN, SERVO.STBASE.BASE]
    omega
  have hrule : ¬ 0x3000 ≤ cwOffset (SERVON.CFG.EN.addr l) := by
    simp only [cwOffset, Fld.addr, SERVON.CFG.EN]
    omega
  simp only [chapterEffect, hb]
  rw [if_neg hst, if_neg hrule]
  refine .ite (.refl _ s) (.ite ?_ (.branch (fun e => absurd e (Fld.addr_ne (by decide))) fun _ => .refl _ s))
  exact .auxLoopOff (.loopCfgEffect (.refl _ s) (Fld.addr_ne (by decide)) (Fld.addr_ne (by decide)) (Fld.addr_ne (by decide))) (Fld.addr_ne (by decide))

theorem effectSpares_ruleCfg (n : Fin 24) : EffectSpares (SERVO.RULE.CFG.EN.addr n) := by
  intro d at_ old s
  have hb : blockOf (SERVO.RULE.CFG.EN.addr n) = 11 := by
    simp only [blockOf, Fld.addr, SERVO.RULE.CFG.EN]
    omega
  have hst : SERVO.RULE.CFG.EN.addr n ≠ SERVO.STBASE.BASE.base := by
    simp only [Fld.addr, SERVO.RULE.CFG.EN, SERVO.STBASE.BASE]
    omega
  have hrule : 0x3000 ≤ cwOffset (SERVO.RULE.CFG.EN.addr n) := by
    simp only [cwOffset, Fld.addr, SERVO.RULE.CFG.EN]
    omega
  simp only [chapterEffect, hb]
  rw [if_neg hst, if_pos hrule]
  exact .ruleEffect (.refl _ s) (fun _ => Fld.addr_ne (by decide)) (fun _ => Fld.addr_ne (by decide))

theorem effectSpares_pos {a : Nat} (hb : blockOf a = 12) (hp : PosSpared a) : EffectSpares a := by
  intro d at_ old s
  simp only [chapterEffect, hb]
  exact .posEffect (.refl _ s) hp

/-- The configuration words of the position block lie at the start of a line of 64 bytes, where no state word lies. -/
theorem posSpared_of_line {f : Fld} {i : Nat} (hf : f.stride % 64 = 0 ∧ f.base % 64 = 0) : PosSpared (f.addr i) := by
  constructor <;> intro _ _ <;> exact Fld.addr_ne ⟨hf.1, by decide, by rw [hf.2]; decide⟩

theorem effectSpares_scCfg (n : Fin 72) : EffectSpares (POS.SC.CFG.EN.addr n) :=
  effectSpares_pos (by simp only [blockOf, Fld.addr, POS.SC.CFG.EN]; omega) (posSpared_of_line (by decide))

theorem effectSpares_prbCfg (n : Fin 8) : EffectSpares (POS.PRB.CFG.EN.addr n) :=
  effectSpares_pos (by simp only [blockOf, Fld.addr, POS.PRB.CFG.EN]; omega) (posSpared_of_line (by decide))

theorem effectSpares_emuCfg (n : Fin 4) : EffectSpares (POS.EMU.CFG.EN.addr n) :=
  effectSpares_pos (by simp only [blockOf, Fld.addr, POS.EMU.CFG.EN]; omega) (posSpared_of_line (by decide))

theorem effectSpares_encIcfg (n : Fin 8) : EffectSpares (POS.ENC.ICFG.IHOME.addr n) :=
  effectSpares_pos (by simp only [blockOf, Fld.addr, POS.ENC.ICFG.IHOME]; omega) (by
    constructor <;> intro i hi <;> simp only [Fld.addr, POS.ENC.ICFG.IHOME, POS.SC.STAT.RUN, POS.SC.ADJ.SOFS, POS.ENC.STAT.HOMED, POS.HALL.STATE.SECTOR,
      POS.PRB.STAT.ARMED, POS.EMU.STAT.RUN] <;> omega)

theorem effectSpares_ipCfg (n : Fin 24) : EffectSpares (IP.CFG.EN.addr n) := by
  intro d at_ old s
  have hb : blockOf (IP.CFG.EN.addr n) = 14 := by
    simp only [blockOf, Fld.addr, IP.CFG.EN]
    omega
  simp only [chapterEffect, hb]
  exact .imagingEffect (.refl _ s) (fun _ => Fld.addr_ne (by decide)) (fun _ => Fld.addr_ne (by decide))

theorem effectSpares_auxCfg (k : Fin 8) : EffectSpares (AUX.CFG.EN.addr k) := by
  intro d at_ old s
  have hb : blockOf (AUX.CFG.EN.addr k) = 22 := by
    simp only [blockOf, Fld.addr, AUX.CFG.EN]
    omega
  simp only [chapterEffect, hb]
  exact .ite (.auxEffect (.refl _ s) fun _ => Fld.addr_ne (by decide)) (.refl _ s)

/-- A write to a link's control word moves the state of its link (R354). -/
theorem effectSpares_linkCtrl (n : Fin 32) : EffectSpares (LINK.CTRL.EN.addr n) := by
  intro d at_ old s
  have hb : blockOf (LINK.CTRL.EN.addr n) = 17 := by
    simp only [blockOf, Fld.addr, LINK.CTRL.EN]
    omega
  have hlane : laneWord (LINK.CTRL.EN.addr n) = none := by
    unfold laneWord
    rw [if_pos (by simp only [Fld.addr, LINK.CTRL.EN, LANE.CFG.MODE]; omega)]
  have hdrop : ∀ {u : State} {m st : Nat}, Spares (LINK.CTRL.EN.addr n) s u → Spares (LINK.CTRL.EN.addr n) s (u.linkDrop m st) := fun hu =>
    .linkDrop hu (by rw [hb]; decide) (fun _ => Fld.addr_ne (by decide)) (fun _ => Fld.addr_ne (by decide)) (fun _ => Fld.addr_ne (by decide))
  simp only [chapterEffect, hb]
  unfold linkEffect
  rw [hlane]
  dsimp only
  split
  · refine .ite (hdrop ?_) ?_ <;> exact .ite (hdrop (.refl _ s)) (.ite (hdrop (.refl _ s)) (.refl _ s))
  · exact .refl _ s

/-- A write to a lane's mode moves the state of its link and lane (R342). -/
theorem effectSpares_laneCfg (k : Fin 64) : EffectSpares (LANE.CFG.MODE.addr k) := by
  intro d at_ old s
  have hb : blockOf (LANE.CFG.MODE.addr k) = 15 := by
    simp only [blockOf, Fld.addr, LANE.CFG.MODE]
    omega
  have hlane : laneWord (LANE.CFG.MODE.addr k) = some (k.val, 0) := by
    have hk : LANE.CFG.MODE.addr k - LANE.CFG.MODE.base = 128 * k.val := by
      simp only [Fld.addr, LANE.CFG.MODE]
      omega
    unfold laneWord
    rw [if_neg (by simp only [Fld.addr, LANE.CFG.MODE]; omega), hk, Nat.mul_div_cancel_left _ (by decide), Nat.mul_mod_right]
  have hdrop : ∀ {m st : Nat}, Spares (LANE.CFG.MODE.addr k) s (s.linkDrop m st) :=
    .linkDrop (.refl _ s) (by rw [hb]; decide) (fun _ => Fld.addr_ne (by decide)) (fun _ => Fld.addr_ne (by decide)) (fun _ => Fld.addr_ne (by decide))
  simp only [chapterEffect, hb]
  unfold linkEffect
  rw [hlane]
  dsimp only
  exact .ite (.ite (.refl _ s) (.ite hdrop (.laneTo hdrop fun _ => Fld.addr_ne (by decide)))) (.branch (fun e => absurd e (by decide)) fun _ => .refl _ s)

theorem effectSpares_freeze : EffectSpares (DALE.CTRL.FREEZE.addr 0) := by
  intro d at_ old s
  have hb : blockOf (DALE.CTRL.FREEZE.addr 0) = 6 := by decide
  simp only [chapterEffect, hb, daleEffect]
  exact .branch (fun e => absurd e (by decide)) fun _ => .ite (.setF (.refl _ s) (by decide)) (.refl _ s)

theorem effectSpares_ecCtrl : EffectSpares (EC.CTRL.RUN.addr 0) := by
  intro d at_ old s
  have hb : blockOf (EC.CTRL.RUN.addr 0) = 7 := by decide
  simp only [chapterEffect, hb]
  exact .refl _ s

theorem effectSpares_coreImg (r : Fin 18) : EffectSpares (CORE.IMG.VALID.addr r) := by
  intro d at_ old s
  have hb : blockOf (CORE.IMG.VALID.addr r) = 8 := by
    simp only [blockOf, Fld.addr, CORE.IMG.VALID]
    omega
  simp only [chapterEffect, hb]
  exact .branch (fun e => absurd e.2 (Fld.addr_ne (by decide))) fun _ => .refl _ s

theorem effectSpares_dram {a : Nat} (hb : blockOf a = 20) (hp : a ≠ DRAM.SCRUB.PERIOD.base) : EffectSpares a := by
  intro d at_ old s
  simp only [chapterEffect, hb]
  rw [if_neg hp]
  exact .refl _ s

theorem effectSpares_hash (i : Fin 8) : EffectSpares (DRAM.MAP.HASH.MASK.addr i) :=
  effectSpares_dram (by simp only [blockOf, Fld.addr, DRAM.MAP.HASH.MASK]; omega)
    (by simp only [Fld.addr, DRAM.MAP.HASH.MASK, DRAM.SCRUB.PERIOD]; omega)

theorem effectSpares_sreq : EffectSpares (DRAM.CTRL.SREQ.addr 0) := effectSpares_dram (by decide) (by decide)

end Sys2Proof.Machine
end

section
namespace Sys2Proof.Machine

open Sys2Proof

/-! ### O12: rows that write one field or one word -/

/-- Field `f` is an RW field of the word at `a`, which lies outside TB and the Basin. -/
def isRwField (f : Fld) (a : Nat) : Bool :=
  blockOf a != 2 && blockOf a != 5 &&
  (match regOf a with
   | some r => r.fields.any (fun g => g.fld == f && g.acc == .rw)
   | none => false)

theorem isRwField_parts {f : Fld} {a : Nat} (h : isRwField f a = true) :
    blockOf a ≠ 2 ∧ blockOf a ≠ 5 ∧ ∃ r, regOf a = some r ∧ ∃ g ∈ r.fields, g.fld = f ∧ g.acc = .rw := by
  unfold isRwField at h
  simp only [Bool.and_eq_true, bne_iff_ne] at h
  obtain ⟨⟨h2, h5⟩, h⟩ := h
  refine ⟨h2, h5, ?_⟩
  split at h
  · next r hr =>
    obtain ⟨g, hg, hk⟩ := List.any_eq_true.1 h
    simp only [Bool.and_eq_true, beq_iff_eq] at hk
    exact ⟨r, hr, g, hg, hk⟩
  · cases h

/-- An accepted write whose chapter leaves the word alone: each RW field reads the data written, and ACK is answered. -/
theorem completes_write {c : Instr} {s : State} {h : CwFrom} {a : Nat} {d : Word} {fs : List Fld} (hc : s.canonical = true) (ha : Accepted s h a d)
    (hrun : exec c s = .next (s.cwwOf h [(a, d)])) (he : EffectSpares a) (hne : fs ≠ []) (hrw : ∀ f ∈ fs, isRwField f a = true) :
    Completes c s (fun t => (∀ f ∈ fs, f.get (t.word a) = f.get d) ∧ WriteAnswered h t) := by
  obtain ⟨f₀, hf₀⟩ := List.exists_mem_of_ne_nil fs hne
  obtain ⟨h2, h5, r, hr, _⟩ := isRwField_parts (hrw f₀ hf₀)
  refine ⟨_, hrun.trans (congrArg _ (State.cwwOf_accepted hr ha h2 h5)), fun f hf => ?_, writeAnswered_ite _ h _⟩
  obtain ⟨_, _, r', hr', g, hg, rfl, hacc⟩ := isRwField_parts (hrw f hf)
  obtain rfl : r = r' := Option.some.inj (hr.symm.trans hr')
  set u := writeTaken s h a d
  have huc : u.canonical = true := writeTaken_canonical hc
  have hstored := State.canonical_setWord a (r.stored d 0 (u.word a)) huc
  have happlied : (writeApplied s h a d r).word a = r.stored d 0 (u.word a) := by
    unfold writeApplied
    rw [(he _ _ _ _ (State.noteReserved_canonical r a d hstored)).2, State.noteReserved_word, State.word_setWord huc, if_pos rfl]
  have hanswered : (if h.ack = true then (writeApplied s h a d r).respond cwEp (cwTok h kindCWW 0 (cwPayload a h.ack) false) 1
      else writeApplied s h a d r).word a = r.stored d 0 (u.word a) := by
    split
    · rw [State.word_past_respond, happlied]
    · exact happlied
  rw [hanswered, Reg.get_stored (regOf_laidOut hr) hg, hacc]
  rfl

/-! ### The rows, one by one -/

theorem isRwField_colCfg : ∀ n : Fin 128, isRwField COL.CFG.EN (COL.CFG.EN.addr n) = true := by decide +kernel
theorem isRwField_strace : ∀ n : Fin 26, isRwField PG.STRACE.EN (PG.STRACE.EN.addr n) = true := by decide +kernel
theorem isRwField_trk : ∀ n : Fin 26, isRwField PG.TRK.EN (PG.TRK.EN.addr n) = true := by decide +kernel
theorem isRwField_loopCfg : ∀ l : Fin 112, isRwField SERVON.CFG.EN (SERVON.CFG.EN.addr l) = true := by decide +kernel
theorem isRwField_scCfg : ∀ a : Fin 72, isRwField POS.SC.CFG.EN (POS.SC.CFG.EN.addr a) = true := by decide +kernel
theorem isRwField_encIcfg : ∀ k : Fin 8, isRwField POS.ENC.ICFG.IHOME (POS.ENC.ICFG.IHOME.addr k) = true := by decide +kernel
theorem isRwField_prbCfg : ∀ k : Fin 8, isRwField POS.PRB.CFG.EN (POS.PRB.CFG.EN.addr k) = true := by decide +kernel
theorem isRwField_emuCfg : ∀ k : Fin 4, isRwField POS.EMU.CFG.EN (POS.EMU.CFG.EN.addr k) = true := by decide +kernel
theorem isRwField_ipCfg : ∀ c : Fin 24, isRwField IP.CFG.EN (IP.CFG.EN.addr c) = true := by decide +kernel
theorem isRwField_ruleCfg : ∀ n : Fin 24, isRwField SERVO.RULE.CFG.EN (SERVO.RULE.CFG.EN.addr n) = true := by decide +kernel
theorem isRwField_auxCfg : ∀ k : Fin 8, isRwField AUX.CFG.EN (AUX.CFG.EN.addr k) = true := by decide +kernel
theorem isRwField_linkCtrl : ∀ n : Fin 32, isRwField LINK.CTRL.EN (LINK.CTRL.EN.addr n) = true := by decide +kernel
theorem isRwField_laneCfg : ∀ k : Fin 64, ∀ f ∈ [LANE.CFG.MODE, LANE.CFG.ETHALT], isRwField f (LANE.CFG.MODE.addr k) = true := by decide +kernel
theorem isRwField_coreImg : ∀ r : Fin 18, ∀ f ∈ [CORE.IMG.VALID, CORE.IMG.DATA, CORE.IMG.BASE], isRwField f (CORE.IMG.VALID.addr r) = true := by
  decide +kernel
theorem isRwField_wring : ∀ n : Fin 26, ∀ f ∈ [PG.WRING.BASE, PG.WRING.LOG2N], isRwField f (PG.WRING.BASE.addr n) = true := by decide +kernel
theorem isRwField_hash : ∀ i : Fin 8, isRwField DRAM.MAP.HASH.MASK (DRAM.MAP.HASH.MASK.addr i) = true := by decide +kernel

/-- A row that writes one field is one CWW of the field's word. -/
theorem exec_fieldRow {c : Instr} {f : Fld} {i v : Nat} {h : CwFrom} (hr : fieldRow c = some (f, i, v, h)) (s : State) :
    exec c s = .next (s.cwwField h f i v) := by
  unfold fieldRow at hr
  split at hr
  case h_22 => cases hr
  all_goals
    cases hr
    rfl

/-- The field of such a row is one bit, and the value fits it. -/
theorem fieldRow_bit {c : Instr} {f : Fld} {i v : Nat} {h : CwFrom} (hr : fieldRow c = some (f, i, v, h)) : f.hi = f.lo ∧ f.hi < 64 ∧ v < 2 := by
  unfold fieldRow at hr
  split at hr
  case h_12 k h' en =>
    cases hr
    exact ⟨rfl, by decide, Bool.toNat_lt en⟩
  case h_20 h' on =>
    cases hr
    exact ⟨rfl, by decide, Bool.toNat_lt on⟩
  case h_21 h' run =>
    cases hr
    exact ⟨rfl, by decide, Bool.toNat_lt run⟩
  case h_22 => cases hr
  all_goals
    cases hr
    decide

/-- The word of such a row is left as stored by its chapter, and the field is RW. -/
theorem fieldRow_word {c : Instr} {f : Fld} {i v : Nat} {h : CwFrom} (hr : fieldRow c = some (f, i, v, h)) :
    EffectSpares (f.addr i) ∧ isRwField f (f.addr i) = true := by
  unfold fieldRow at hr
  split at hr <;> cases hr
  · exact ⟨effectSpares_colCfg _, isRwField_colCfg _⟩
  · exact ⟨effectSpares_colCfg _, isRwField_colCfg _⟩
  · exact ⟨effectSpares_strace _, isRwField_strace _⟩
  · exact ⟨effectSpares_trk _, isRwField_trk _⟩
  · exact ⟨effectSpares_narm, by decide⟩
  · exact ⟨effectSpares_hrec, by decide⟩
  · exact ⟨effectSpares_loopCfg _, isRwField_loopCfg _⟩
  · exact ⟨effectSpares_loopCfg _, isRwField_loopCfg _⟩
  · exact ⟨effectSpares_scCfg _, isRwField_scCfg _⟩
  · exact ⟨effectSpares_encIcfg _, isRwField_encIcfg _⟩
  · exact ⟨effectSpares_prbCfg _, isRwField_prbCfg _⟩
  · exact ⟨effectSpares_emuCfg _, isRwField_emuCfg _⟩
  · exact ⟨effectSpares_ipCfg _, isRwField_ipCfg _⟩
  · exact ⟨effectSpares_ruleCfg _, isRwField_ruleCfg _⟩
  · exact ⟨effectSpares_ruleCfg _, isRwField_ruleCfg _⟩
  · exact ⟨effectSpares_lrec, by decide⟩
  · exact ⟨effectSpares_auxCfg _, isRwField_auxCfg _⟩
  · exact ⟨effectSpares_auxCfg _, isRwField_auxCfg _⟩
  · exact ⟨effectSpares_linkCtrl _, isRwField_linkCtrl _⟩
  · exact ⟨effectSpares_freeze, by decide⟩
  · exact ⟨effectSpares_ecCtrl, by decide⟩

/-- A row that writes a word is one CWW of it; its chapter leaves it as stored, and its fields are RW fields of that word. -/
theorem dataRow_word {c : Instr} {a : Nat} {fs : List Fld} {i : Nat} {d : Word} {h : CwFrom} (hr : dataRow c = some (a, fs, i, d, h)) (s : State) :
    exec c s = .next (s.cwwOf h [(a, d)]) ∧ EffectSpares a ∧ fs ≠ [] ∧ (∀ f ∈ fs, isRwField f a = true) ∧ ∀ f ∈ fs, f.addr i = a := by
  unfold dataRow at hr
  split at hr <;> cases hr
  · exact ⟨rfl, effectSpares_coreImg _, List.cons_ne_nil _ _, isRwField_coreImg _, by simp [Fld.addr, CORE.IMG.VALID, CORE.IMG.DATA, CORE.IMG.BASE]⟩
  · exact ⟨rfl, effectSpares_wring _, List.cons_ne_nil _ _, isRwField_wring _, by simp [Fld.addr, PG.WRING.BASE, PG.WRING.LOG2N]⟩
  · exact ⟨rfl, effectSpares_hash _, List.cons_ne_nil _ _, by simpa using isRwField_hash _, by simp⟩
  · exact ⟨rfl, effectSpares_sreq, List.cons_ne_nil _ _, by decide, by decide⟩
  · next _ k =>
    exact ⟨rfl, effectSpares_laneCfg ⟨60 + k, by omega⟩, List.cons_ne_nil _ _, isRwField_laneCfg ⟨60 + k, by omega⟩,
      by simp [Fld.addr, LANE.CFG.MODE, LANE.CFG.ETHALT]⟩

theorem fieldWritesTakeEffect : Rules.FieldWritesTakeEffect := by
  intro c f i v h s hrow hc ha
  obtain ⟨he, hrw⟩ := fieldRow_word hrow
  obtain ⟨hbit, hhi, hv⟩ := fieldRow_bit hrow
  obtain ⟨t, hrun, hget, hans⟩ := completes_write (fs := [f]) hc ha (exec_fieldRow hrow s) he (List.cons_ne_nil _ _) (by simpa using hrw)
  refine ⟨t, hrun, ?_, hans⟩
  have hput := Fld.get_put_same f (s.word (f.addr i)) v hhi
  rw [hbit, Nat.add_sub_cancel_left, pow_one, Nat.mod_eq_of_lt hv] at hput
  exact (hget f List.mem_cons_self).trans hput

theorem dataWritesTakeEffect : Rules.DataWritesTakeEffect := by
  intro c a fs i d h s hrow hc ha
  obtain ⟨hrun, he, hne, hrw, haddr⟩ := dataRow_word hrow s
  obtain ⟨t, hrun, hget, hans⟩ := completes_write hc ha hrun he hne hrw
  refine ⟨t, hrun, fun f hf => ?_, hans⟩
  show f.get (t.word (f.addr i)) = f.get d
  rw [haddr f hf, hget f hf]

/-- Settles O12: an accepted write of one word stores the data in its RW fields, and no chapter's effect of these rows touches the word again. -/
theorem singleWordWritesTakeEffect : Obligations.SingleWordWritesTakeEffect := ⟨fieldWritesTakeEffect, dataWritesTakeEffect⟩

end Sys2Proof.Machine
end

section
namespace Sys2Proof.Machine

open Sys2Proof

/-! ### O5: what reset leaves -/

/-- After reset no control word is stored, so a field reads what its map gives. -/
theorem State.reset_f (f : Fld) (i : Nat) : State.reset.f f i = f.get (cwReset (f.addr i)) := rfl

theorem reset_queues (n : Fin 64) :
    State.reset.f QUEUE.STAT.EMPTY n = 1 ∧ State.reset.f QUEUE.STAT.FULL n = 0 ∧ State.reset.f QUEUE.STAT.DROPS n = 0 := by
  simp only [State.reset_f]
  revert n
  decide +kernel

/-- Every col starts with the late policy of its kind (R58). -/
theorem reset_colPolicy (n : Fin 128) : State.reset.f COL.CFG.POLICY n = if n.val < 48 then 2 else if n.val < 72 then 0 else 1 := by
  rw [State.reset_f]
  revert n
  decide +kernel

/-- Every lane starts in the mode of its use (R340). -/
theorem reset_laneMode (k : Fin 64) : State.reset.f LANE.CFG.MODE k = if k.val < 56 then 2 else if k.val < 60 then 3 else 0 := by
  rw [State.reset_f]
  revert k
  decide +kernel

theorem reset_leadMin (n : Fin 26) : State.reset.f PG.LEAD.MIN n = 2 ^ 32 - 1 := by
  rw [State.reset_f]
  revert n
  decide +kernel

theorem reset_coreState (r : Fin 18) : State.reset.coreState r = 0 := by
  revert r
  decide +kernel

/-- GOFF holds every LGATE pin low, whatever the cols drive (R433). -/
theorem State.lasersOff_of_goff {s : State} (h : s.basin.goff = true) : s.lasersOff := by
  intro n
  unfold State.lgate
  rw [h]
  exact Bool.and_false _

/-- Settles O5: the reset state stores no control word and no byte, so every read gives the reset value of the map. -/
theorem resetLeaves : Obligations.ResetLeaves :=
  ⟨fun _ => rfl, reset_queues, reset_colPolicy, reset_laneMode, reset_leadMin, reset_coreState, fun _ => rfl, rfl, rfl, rfl,
    State.lasersOff_of_goff rfl⟩

end Sys2Proof.Machine
end

section
namespace Sys2Proof.Machine

open Sys2Proof

/-! ### O6: the full instant of a token time (R9, R56) -/

/-- The wrapped difference of two 48-bit counts is the signed 48-bit number that takes the second to the first modulo 2^48. -/
theorem wdiff_48 (a b : Nat) : -2 ^ 47 ≤ wdiff 48 a b ∧ wdiff 48 a b < 2 ^ 47 ∧ ((b : Int) + wdiff 48 a b - a) % 2 ^ 48 = 0 := by
  unfold wdiff sx ux
  dsimp only
  split <;> omega

/-- Settles O6: the signed difference is the wrapped one, and a natural number has no value below 0. -/
theorem fullInstantOfATokenTime : Obligations.FullInstantOfATokenTime := by
  intro mt t
  obtain ⟨hlo, hhi, hcong⟩ := wdiff_48 t.toNat mt
  exact ⟨_, hlo, hhi, hcong, (Int.ofNat_toNat _).trans (max_comm _ _)⟩

end Sys2Proof.Machine
end

section
namespace Sys2Proof.Machine

open Sys2Proof

/-! ### O16: the events of the time base (R51, R52, R55) -/

/-- AT counts in 48 bits (R55). -/
theorem State.atNow_lt (s : State) : s.atNow < 2 ^ 48 := by
  unfold State.atNow
  split <;> exact Nat.mod_lt _ (by decide)

/-- AT set at an instant reads, at that instant, the count it was set to. -/
theorem State.atNow_putAt (s : State) (v : Nat) : (s.putAt v).atNow = v % 2 ^ 48 := by
  have hzero : ((s.putAt v).mt - (s.putAt v).tb.atFrom) * 32768 / 1000000000 = 0 := by
    rw [show (s.putAt v).tb.atFrom = (s.putAt v).mt from rfl, Nat.sub_self, Nat.zero_mul, Nat.zero_div]
  unfold State.atNow
  rw [hzero]
  exact ite_self _

/-- Setting a field changes no word but its own. -/
theorem wordsKept_setF {s u : State} (hu : u.canonical = true) (hcw : u.cw = s.cw) (f : Fld) (i v : Nat) :
    WordsKept s (u.setF f i v) (· = f.addr i) := by
  intro a ha _
  rw [State.word_setF hu, if_neg ha]
  exact State.word_congr hcw a

theorem pllLock_completes {s : State} (hc : s.canonical = true) (h : s.tb.locked = false) :
    Completes .pllLock s (fun t => t.mt = 0 ∧ t.tb.locked = true ∧ t.f TB.ATSYNC.V = s.atNow ∧ t.atNow = s.atNow ∧
      WordsKept s t (· = TB.ATSYNC.V.base) ∧ t = { s with mt := t.mt, tb := t.tb, cw := t.cw }) := by
  set u := ((s.setTb { s.tb with locked := true }).setMt 0).putAt s.atNow
  have huc : u.canonical = true := (State.putAt_kept (State.setMt_kept (State.setTb_kept (Kept.refl s)))).canon hc
  have hrun : pllLock s = u.setF TB.ATSYNC.V 0 s.atNow := if_neg (by rw [h]; decide)
  refine ⟨_, congrArg Host.Outcome.next hrun, rfl, rfl, ?_, ?_, wordsKept_setF huc rfl TB.ATSYNC.V 0 _, rfl⟩
  · exact (State.f_setF_same huc TB.ATSYNC.V 0 _ (by decide)).trans (Nat.mod_eq_of_lt s.atNow_lt)
  · exact (State.atNow_putAt _ _).trans (Nat.mod_eq_of_lt s.atNow_lt)

theorem timerefLoss_completes {s : State} (hc : s.canonical = true) (h : s.tb.refLost = false) :
    Completes .timerefLoss s (fun t => t.f TB.STAT.REFLOSS = 1 ∧ t.f TB.STAT.HOLD = 1 ∧ t.tb.refLost = true ∧
      (∃ r, t.lines = s.lines ++ [r] ∧ r.cls = 0 ∧ r.source = 1) ∧ WordsKept s t (· = TB.STAT.HOLD.base) ∧
      t = { s with tb := t.tb, cw := t.cw, lines := t.lines, basin := t.basin }) := by
  set u := s.setTb { s.tb with refLost := true, slewEnd := 0 }
  set v := u.setF TB.STAT.REFLOSS 0 1 with hv
  set w := v.setF TB.STAT.HOLD 0 1 with hw
  have huc : u.canonical = true := (State.setTb_kept (Kept.refl s)).canon hc
  have hvc : v.canonical = true := State.canonical_setF _ _ _ huc
  have hrun : timerefLoss s = (w.levelOn 1).critical 1 0 4 := if_neg (by rw [h]; decide)
  have hrefloss : w.f TB.STAT.REFLOSS = 1 := by
    rw [hw, State.f_setF_bits hvc _ _ _ _ _ (by decide) (by decide), hv, State.f_setF_same huc _ _ _ (by decide)]
    rfl
  have hhold : w.f TB.STAT.HOLD = 1 := State.f_setF_same hvc TB.STAT.HOLD 0 1 (by decide)
  have hkept : WordsKept s w (· = TB.STAT.HOLD.base) := fun a ha h7 =>
    (wordsKept_setF hvc rfl TB.STAT.HOLD 0 1 a ha h7).trans (wordsKept_setF huc rfl TB.STAT.REFLOSS 0 1 a ha h7)
  exact ⟨_, congrArg Host.Outcome.next hrun, hrefloss, hhold, rfl, ⟨_, rfl, rfl, rfl⟩, hkept, rfl⟩

theorem pllRelock_completes {s : State} (hc : s.canonical = true) (h : s.tb.refLost = true) (p : Nat) :
    Completes (.pllRelock p) s (fun t => t.tb.refLost = false ∧ (p = 0 → t.f TB.STAT.HOLD = 0) ∧
      (p ≠ 0 → t.f TB.STAT.HOLD = s.f TB.STAT.HOLD ∧ t.tb.slewEnd = s.mt + 10000 * p) ∧ t = { s with tb := t.tb, cw := t.cw, basin := t.basin }) := by
  have hlost : ¬ (!s.tb.refLost) = true := by rw [h]; decide
  by_cases hp : p = 0
  · set u := (s.levelOff 1).setTb { (s.levelOff 1).tb with refLost := false, phase := 0, slewEnd := 0 }
    have huc : u.canonical = true := (State.setTb_kept (State.levelOff_kept (Kept.refl s))).canon hc
    have hrun : pllRelock p s = u.setF TB.STAT.HOLD 0 0 := (if_neg hlost).trans (if_pos hp)
    exact ⟨_, congrArg Host.Outcome.next hrun, rfl, fun _ => State.f_setF_same huc TB.STAT.HOLD 0 0 (by decide), fun hne => absurd hp hne, rfl⟩
  · have hrun : pllRelock p s =
        (s.levelOff 1).setTb { (s.levelOff 1).tb with refLost := false, phase := p, slewEnd := (s.levelOff 1).mt + p * 10000 } :=
      (if_neg hlost).trans (if_neg hp)
    exact ⟨_, congrArg Host.Outcome.next hrun, rfl, fun h0 => absurd h0 hp, fun _ => ⟨rfl, congrArg (s.mt + ·) (Nat.mul_comm p 10000)⟩, rfl⟩

theorem slewEnd_completes {s : State} (hc : s.canonical = true) (hr : s.tb.refLost = false) (hs : s.tb.slewEnd ≠ 0) :
    Completes .slewEnd s (fun t => t.f TB.STAT.HOLD = 0 ∧ t.mt = max s.mt s.tb.slewEnd ∧ t.tb.slewEnd = 0 ∧
      WordsKept s t (· = TB.STAT.HOLD.base) ∧ t = { s with mt := t.mt, tb := t.tb, cw := t.cw }) := by
  set u := (s.reach s.tb.slewEnd).setTb { s.tb with phase := 0, slewEnd := 0 }
  have huc : u.canonical = true := (State.setTb_kept (State.reach_kept (Kept.refl s))).canon hc
  have hrun : slewEnd s = u.setF TB.STAT.HOLD 0 0 := if_neg (by simp [hr, hs])
  exact ⟨_, congrArg Host.Outcome.next hrun, State.f_setF_same huc TB.STAT.HOLD 0 0 (by decide), rfl, rfl, wordsKept_setF huc rfl TB.STAT.HOLD 0 0, rfl⟩

theorem timeBaseEvents : Rules.TimeBaseEvents := fun _ hc =>
  ⟨pllLock_completes hc, timerefLoss_completes hc, fun p h => pllRelock_completes hc h p, slewEnd_completes hc⟩

end Sys2Proof.Machine
end

section
namespace Sys2Proof.Machine

open Sys2Proof

/-! ### A CWW of several pairs that nothing refuses (R93, R94) -/

/-- Every pair of a CWW is made of one of the addresses and data it was built from. -/
theorem mem_cwPairs_cwwToks {h : CwFrom} {q : CwPair} :
    ∀ {ps : List (Nat × Word)} {i : Nat}, q ∈ cwPairs (cwwToks h i ps) → ∃ x ∈ ps, ∃ k, q = pairOf h k x.1 x.2
  | [], _, hq => by cases hq
  | x :: ps, i, hq => by
    rcases List.mem_cons.1 hq with rfl | hq
    · exact ⟨x, List.mem_cons_self, i, rfl⟩
    · obtain ⟨y, hy, hk⟩ := mem_cwPairs_cwwToks hq
      exact ⟨y, List.mem_cons_of_mem _ hy, hk⟩

theorem length_cwwToks (h : CwFrom) : ∀ (ps : List (Nat × Word)) (i : Nat), (cwwToks h i ps).length = 2 * ps.length
  | [], _ => rfl
  | p :: ps, i => by
    simp only [cwwToks, List.length_cons, length_cwwToks h ps]
    omega

theorem length_cwPairs_cwwToks (h : CwFrom) : ∀ (ps : List (Nat × Word)) (i : Nat), (cwPairs (cwwToks h i ps)).length = ps.length
  | [], _ => rfl
  | _ :: ps, i => congrArg (· + 1) (length_cwPairs_cwwToks h ps (i + 2))

/-- A message of up to 32 whole pairs is not refused where no pair is. -/
theorem State.cwwRefusals_eq_nil {u new : State} {toks : List Token} {ps : List CwPair} {first : Nat} (heven : toks.length % 2 = 0)
    (hlen : ps.length ≤ 32) (hps : ∀ p ∈ ps, u.addrRefusal first p = none ∧ dataRefusal p u new = none) : u.cwwRefusals new toks ps first = [] := by
  have hodd : ¬ toks.length % 2 = 1 := by omega
  unfold State.cwwRefusals
  simp only [hodd, if_false, List.filterMap_eq_nil_iff]
  rintro ⟨p, i⟩ hp
  have hi : i < 0 + ps.length := (List.mem_zipIdx hp).2.1
  obtain ⟨haddr, hdata⟩ := hps p (List.fst_mem_of_mem_zipIdx hp)
  simp only [if_neg (show ¬ 32 ≤ i by omega), haddr, hdata, Option.map_none]

theorem State.storePair_eq {s : State} {a : Nat} {d : Word} {r : Reg} (hr : regOf a = some r) (h5 : blockOf a ≠ 5) :
    s.storePair [] a d = s.setWord a (r.stored d 0 (s.word a)) := wordStored_eq hr h5

theorem State.storePairs_cons (s : State) (p : CwPair) (ps : List CwPair) :
    s.storePairs [] (p :: ps) = (s.storePair [] p.addr p.data).storePairs [] ps := rfl

theorem State.word_storePair_other {s : State} (hs : s.canonical = true) {a b : Nat} (d : Word) (hb : b ≠ a) :
    (s.storePair [] a d).word b = s.word b := by
  unfold State.storePair
  split
  · rw [State.word_setWord hs, if_neg hb]
  · rfl

theorem State.storePair_canonical {s : State} (hs : s.canonical = true) (a : Nat) (d : Word) : (s.storePair [] a d).canonical = true :=
  (State.storePair_kept (Kept.refl s)).canon hs

/-- Storing pairs does not move MT. -/
theorem State.storePairs_mt : ∀ (ps : List CwPair) (s : State), (s.storePairs [] ps).mt = s.mt
  | [], _ => rfl
  | p :: ps, s => by
    rw [State.storePairs_cons, State.storePairs_mt ps]
    unfold State.storePair
    split <;> rfl

/-- A word no pair names is left alone. -/
theorem State.word_storePairs_other {b : Nat} : ∀ {ps : List CwPair} {s : State}, s.canonical = true → (∀ p ∈ ps, b ≠ p.addr) →
    (s.storePairs [] ps).word b = s.word b
  | [], _, _, _ => rfl
  | p :: ps, s, hs, hb => by
    rw [State.storePairs_cons, State.word_storePairs_other (State.storePair_canonical hs _ _) (fun q hq => hb q (List.mem_cons_of_mem _ hq)),
      State.word_storePair_other hs _ (hb p List.mem_cons_self)]

/-- Of pairs to different words each stores its data by the access codes of its word. -/
theorem State.word_storePairs {p : CwPair} {r : Reg} (hr : regOf p.addr = some r) (h5 : blockOf p.addr ≠ 5) :
    ∀ {ps : List CwPair} {s : State}, s.canonical = true → ps.Pairwise (fun q q' => q'.addr ≠ q.addr) → p ∈ ps →
      (s.storePairs [] ps).word p.addr = r.stored p.data 0 (s.word p.addr)
  | [], _, _, _, hp => by cases hp
  | q :: ps, s, hs, hd, hp => by
    obtain ⟨hq, hps⟩ := List.pairwise_cons.1 hd
    have hcanon := State.storePair_canonical hs q.addr q.data
    rw [State.storePairs_cons]
    rcases List.mem_cons.1 hp with rfl | hp
    · rw [State.word_storePairs_other hcanon (fun x hx => (hq x hx).symm), State.storePair_eq hr h5, State.word_setWord hs, if_pos rfl]
    · rw [State.word_storePairs hr h5 hcanon hps hp, State.word_storePair_other hs _ (hq p hp)]

/-- The chapter of TB acts on no single word. -/
theorem chapterEffect_timeBase {a : Nat} (hb : blockOf a = 2) (d : Word) (at_ : Nat) (old s : State) : chapterEffect a d at_ old s = s := by
  simp only [chapterEffect, hb]

theorem foldl_chapterEffect_timeBase {at_ : Nat} {old : State} : ∀ {ps : List CwPair} (s : State), (∀ p ∈ ps, blockOf p.addr = 2) →
    ps.foldl (fun t p => chapterEffect p.addr p.data at_ old t) s = s
  | [], _, _ => rfl
  | p :: ps, s, hps => by
    rw [List.foldl_cons, chapterEffect_timeBase (hps p List.mem_cons_self), foldl_chapterEffect_timeBase s (fun q hq => hps q (List.mem_cons_of_mem _ hq))]

/-- Pairs to words of TB are at most noted for reserved bits. -/
theorem foldl_pairEvents_timeBase {old : State} : ∀ {ps : List CwPair} (s : State), (∀ p ∈ ps, blockOf p.addr = 2 ∧ ∃ r, regOf p.addr = some r) →
    ∃ l, ps.foldl (fun t p => t.pairEvents old [] p) s = s.setLines l
  | [], s, _ => ⟨s.lines, rfl⟩
  | p :: ps, s, hps => by
    obtain ⟨hb, r, hr⟩ := hps p List.mem_cons_self
    obtain ⟨l, hl⟩ := State.noteReserved_eq s r p.addr p.data
    obtain ⟨l', hl'⟩ := foldl_pairEvents_timeBase (s.setLines l) (fun q hq => hps q (List.mem_cons_of_mem _ hq))
    refine ⟨l', ?_⟩
    rw [List.foldl_cons, State.pairEvents_eq hr (by omega), hl, hl']
    rfl

/-- A message of which no pair is refused is stored, noted, and acted on by its chapter. -/
theorem State.cwApply_cons {u : State} {toks : List Token} {p : CwPair} {ps : List CwPair} {at_ : Nat} (hpairs : cwPairs toks = p :: ps)
    (href : u.cwwRefusals (u.storePairs [] (p :: ps)) toks (p :: ps) p.addr = []) :
    u.cwApply toks [] at_ =
      (let t := (p :: ps).foldl (fun t q => t.pairEvents u [] q) (u.storePairs [] (p :: ps))
       let t := (p :: ps).foldl (fun t q => chapterEffect q.addr q.data at_ u t) t
       (none, if writesPt (p :: ps) then ptWriteEffect u t else t)) := by
  simp only [State.cwApply, hpairs, href]

/-- A message that is applied is answered where one of its pairs asks for it. -/
theorem cwWrite_applied {u v : State} {t : Token} {ts : List Token} (happ : ∀ at_, u.cwApply (t :: ts) [] at_ = (none, v)) :
    cwWrite (t :: ts) [] u =
      if (cwPairs (t :: ts)).any (fun p => cwAck p.tok.payload) = true then v.respond cwEp t (wd (cwPairs (t :: ts)).length) else v := by
  simp only [cwWrite, happ]

/-- A CWW to open words of TB that nothing refuses, a word of PT among them: its words are stored, PT's rule acts on the whole set, and an answer
adds to the network alone. -/
theorem State.cwwOf_timeBase {s : State} {h : CwFrom} {x : Nat × Word} {xs : List (Nat × Word)} (hlen : xs.length < 32)
    (htb : ∀ y ∈ x :: xs, cwOpenTo y.1 h.src = true ∧ blockOf y.1 = 2) (hdata : ∀ y ∈ x :: xs, ∀ k u new, dataRefusal (pairOf h k y.1 y.2) u new = none)
    (hpt : writesPt (cwPairs (cwwToks h 0 (x :: xs))) = true) :
    let u := s.deliverAll cwEp (cwwToks h 0 (x :: xs))
    ∃ l n k, s.cwwOf h (x :: xs) = ((ptWriteEffect u ((u.storePairs [] (cwPairs (cwwToks h 0 (x :: xs)))).setLines l)).setNet n).setSeqs k := by
  intro u
  set ps := cwPairs (cwwToks h 0 (x :: xs)) with hps
  have hfirst : (pairOf h 0 x.1 x.2).addr = x.1 := pairOf_addr (htb x List.mem_cons_self).1 0 x.2
  have hmapped : ∀ p ∈ ps, blockOf p.addr = 2 ∧ ∃ r, regOf p.addr = some r := by
    intro p hp
    obtain ⟨y, hy, k, rfl⟩ := mem_cwPairs_cwwToks hp
    rw [pairOf_addr (htb y hy).1]
    exact ⟨(htb y hy).2, regOf_of_open (htb y hy).1⟩
  have href : u.cwwRefusals (u.storePairs [] ps) (cwwToks h 0 (x :: xs)) ps x.1 = [] := by
    refine State.cwwRefusals_eq_nil (by rw [length_cwwToks]; exact Nat.mul_mod_right 2 _) (by rw [hps, length_cwPairs_cwwToks]; exact hlen) fun p hp => ?_
    obtain ⟨y, hy, k, rfl⟩ := mem_cwPairs_cwwToks hp
    refine ⟨?_, hdata y hy k u _⟩
    rw [State.addrRefusal_pairOf (htb y hy).1, (htb y hy).2, (htb x List.mem_cons_self).2]
    exact if_neg (not_not.2 rfl)
  obtain ⟨l, hl⟩ := foldl_pairEvents_timeBase (old := u) (u.storePairs [] ps) hmapped
  have happ : ∀ at_, u.cwApply (cwwToks h 0 (x :: xs)) [] at_ = (none, ptWriteEffect u ((u.storePairs [] ps).setLines l)) := by
    intro at_
    have hr : u.cwwRefusals (u.storePairs [] ps) (cwwToks h 0 (x :: xs)) ps (pairOf h 0 x.1 x.2).addr = [] := hfirst.symm ▸ href
    refine (State.cwApply_cons (p := pairOf h 0 x.1 x.2) (ps := cwPairs (cwwToks h 2 xs)) rfl hr).trans ?_
    show (none, if writesPt ps = true then ptWriteEffect u (ps.foldl (fun t p => chapterEffect p.addr p.data at_ u t)
      (ps.foldl (fun t p => t.pairEvents u [] p) (u.storePairs [] ps))) else _) = _
    rw [if_pos hpt, hl, foldl_chapterEffect_timeBase _ (fun p hp => (hmapped p hp).1)]
  obtain ⟨n, k, hans⟩ := answered_eq (ptWriteEffect u ((u.storePairs [] ps).setLines l)) (ps.any (fun p => cwAck p.tok.payload))
    (cwTok h kindCWW 0 (cwPayload x.1 h.ack) false) (wd ps.length)
  exact ⟨l, n, k, (State.cwwOf_eq s h x xs).trans ((cwWrite_applied happ).trans hans)⟩

/-! ### The words of PT (R53) -/

/-- Data that a field map leaves no value out of is in range. -/
theorem Reg.outOfRange_eq_false {r : Reg} (hr : ∀ f ∈ r.fields, f.vmin = 0 ∧ f.vmax + 1 = f.fld.size) (d : Word) : r.outOfRange d = false := by
  unfold Reg.outOfRange
  rw [List.any_eq_false]
  intro f hf
  obtain ⟨hmin, hmax⟩ := hr f hf
  have hlt : f.fld.get d < f.fld.size := Nat.mod_lt _ (Nat.two_pow_pos _)
  have hin : ¬ f.fld.get d < f.vmin ∧ ¬ f.vmax < f.fld.get d := by omega
  simp [hin]

/-- The addresses of the four words of a PT set. -/
def ptAddrs : List Nat := [TB.PTBASE.NS.base, TB.PTBASEH.SECHI.base, TB.PTMTREF.V.base, TB.PTRATE.V.base]

/-- The words of PT lie in block 2, and their field maps leave no value out. -/
theorem ptAddrs_mapped : ∀ a ∈ ptAddrs, a % 8 = 0 ∧ blockOf a = 2 ∧ ∃ r, regOf a = some r ∧ ∀ f ∈ r.fields, f.vmin = 0 ∧ f.vmax + 1 = f.fld.size := by
  simp only [ptAddrs, List.forall_mem_cons, List.not_mem_nil, false_imp_iff, implies_true, and_true]
  exact ⟨⟨by decide, by decide, TB.PTBASE.reg, rfl, by decide⟩, ⟨by decide, by decide, TB.PTBASEH.reg, rfl, by decide⟩,
    ⟨by decide, by decide, TB.PTMTREF.reg, rfl, by decide⟩, ⟨by decide, by decide, TB.PTRATE.reg, rfl, by decide⟩⟩

theorem blockOf_ptAddrs {a : Nat} (h : a ∈ ptAddrs) : blockOf a = 2 := (ptAddrs_mapped a h).2.1

/-- The words of PT are open to resident firmware (R92). -/
theorem cwOpenTo_of_mem_ptAddrs {a : Nat} {src : BitVec 10} (hsrc : isResident src = true) (h : a ∈ ptAddrs) : cwOpenTo a src = true := by
  obtain ⟨h8, hb, r, hr, _⟩ := ptAddrs_mapped a h
  have hrange : 0x100000000 ≤ a ∧ a < 0x200000000 := by
    unfold blockOf at hb
    omega
  simp [cwOpenTo, h8, hrange, hr, hsrc]

/-- Of the words of PT none is refused but a BASE whose NS is a second or more (R53). -/
theorem dataRefusal_pt {p : CwPair} (h : p.addr ∈ ptAddrs) (hns : p.addr = TB.PTBASE.NS.base → bits p.data 31 0 < 1000000000) (u new : State) :
    dataRefusal p u new = none := by
  obtain ⟨_, hb, r, hr, hfull⟩ := ptAddrs_mapped p.addr h
  unfold dataRefusal
  simp only [hr, Reg.outOfRange_eq_false hfull, Bool.false_eq_true, if_false, chapterCheck, hb]
  split
  · next e => exact if_neg (Nat.not_le.2 (hns e))
  · rfl

/-- PT depends on the bits of the words its formula reads and on MT. -/
theorem ptFormula_congr {b b' bh bh' m m' r r' : Word} (mt : Nat) (hns : TB.PTBASE.NS.get b = TB.PTBASE.NS.get b')
    (hlo : TB.PTBASE.SECLO.get b = TB.PTBASE.SECLO.get b') (hhi : TB.PTBASEH.SECHI.get bh = TB.PTBASEH.SECHI.get bh') (hm : m = m')
    (hr : TB.PTRATE.V.get r = TB.PTRATE.V.get r') : ptFormula b bh m r mt = ptFormula b' bh' m' r' mt := by
  have e1 : bits b 31 0 = bits b' 31 0 := hns
  have e2 : bits b 63 32 = bits b' 63 32 := hlo
  have e3 : bits bh 15 0 = bits bh' 15 0 := hhi
  have e4 : bits r 31 0 = bits r' 31 0 := hr
  simp only [ptFormula, sbits, e1, e2, e3, e4, hm]

theorem State.pt_congr {s t : State} (hmt : t.mt = s.mt) (hw : ∀ a, a ∈ ptAddrs → t.word a = s.word a) : t.pt = s.pt := by
  unfold State.pt
  rw [hmt, hw TB.PTBASE.NS.base (by decide), hw TB.PTBASEH.SECHI.base (by decide), hw TB.PTMTREF.V.base (by decide), hw TB.PTRATE.V.base (by decide)]

/-- The judgement of a step keeps MT and every word of TB but STAT. -/
theorem ptStepJudge_frame {old s : State} (hs : s.canonical = true) :
    (ptStepJudge old s).mt = s.mt ∧ ∀ a, blockOf a = 2 → a ≠ TB.STAT.PTSTEP.addr 0 → (ptStepJudge old s).word a = s.word a := by
  unfold ptStepJudge
  extract_lets step
  split
  · refine ⟨by simp, fun a hb ha => ?_⟩
    rw [State.word_record7 (State.canonical_setF _ _ _ hs) _ _ _ _ _ _ _ (by omega) (by omega) (by omega), State.word_setF hs, if_neg ha]
  · exact ⟨rfl, fun _ _ _ => rfl⟩

/-- A step backwards, or forwards by more than 1 ms, sets PTSTEP (R53). -/
theorem ptStepJudge_ptstep {old s : State} (hs : s.canonical = true) (hmt : old.mt = s.mt) (hstep : s.pt < old.pt ∨ old.pt + 1000000 < s.pt) :
    (ptStepJudge old s).f TB.STAT.PTSTEP = 1 := by
  have hold : ({ old with mt := s.mt } : State) = old := by rw [← hmt]
  unfold ptStepJudge
  extract_lets step
  rw [if_pos (by simp only [step, hold]; omega), State.f_record7 (State.canonical_setF _ _ _ hs) _ _ _ _ _ _ _ _ _ (by decide) (by decide) (by decide)]
  exact State.f_setF_same hs TB.STAT.PTSTEP 0 1 (by decide)

/-- Remembering the set before touches the memory of PT sets alone. -/
theorem State.ptRemember_eq (old s : State) : ∃ x, old.ptRemember s = s.setPtp x := by
  unfold State.ptRemember
  split
  · exact ⟨s.ptp, rfl⟩
  · exact ⟨_, rfl⟩

theorem ptRateEffect_inRange {s : State} (hlo : -549755814 ≤ s.fi TB.PTRATE.V) (hhi : s.fi TB.PTRATE.V ≤ 549755814) : ptRateEffect s = s := by
  unfold ptRateEffect
  exact if_neg (by omega)

/-- PT's rule on a set whose RATE is in range: the set before is remembered, and a new set with another BASE or MTREF is judged. -/
theorem ptWriteEffect_inRange {old s : State} (hlo : -549755814 ≤ s.fi TB.PTRATE.V) (hhi : s.fi TB.PTRATE.V ≤ 549755814) :
    ∃ x, (ptWriteEffect old s = s.setPtp x ∧ s.word TB.PTBASE.NS.base = old.word TB.PTBASE.NS.base) ∨
      ptWriteEffect old s = ptStepJudge old (s.setPtp x) := by
  obtain ⟨x, hx⟩ := State.ptRemember_eq old s
  refine ⟨x, ?_⟩
  unfold ptWriteEffect
  simp only [ptRateEffect_inRange hlo hhi, hx]
  split
  · exact .inr rfl
  · next hsame => exact .inl ⟨rfl, by_contra fun hne => hsame (.inl hne)⟩

/-- What PT's rule leaves of a set whose RATE is in range: PT and MT as the set gives them, and PTSTEP where a new BASE makes a step. -/
theorem ptWriteEffect_pt {old s : State} (hs : s.canonical = true) (hlo : -549755814 ≤ s.fi TB.PTRATE.V) (hhi : s.fi TB.PTRATE.V ≤ 549755814) :
    (ptWriteEffect old s).mt = s.mt ∧ (ptWriteEffect old s).pt = s.pt ∧
      (s.word TB.PTBASE.NS.base ≠ old.word TB.PTBASE.NS.base → old.mt = s.mt → (s.pt < old.pt ∨ old.pt + 1000000 < s.pt) →
        (ptWriteEffect old s).f TB.STAT.PTSTEP = 1) := by
  obtain ⟨x, ⟨hrun, hsame⟩ | hrun⟩ := ptWriteEffect_inRange (old := old) hlo hhi <;> rw [hrun]
  · exact ⟨rfl, rfl, fun hne => absurd hsame hne⟩
  · have hx : (s.setPtp x).canonical = true := (State.setPtp_kept (Kept.refl s)).canon hs
    have hpt : (s.setPtp x).pt = s.pt := State.pt_congr rfl fun _ _ => rfl
    obtain ⟨hmt, hword⟩ := ptStepJudge_frame (old := old) hx
    refine ⟨hmt, State.pt_congr hmt fun a ha => hword a (blockOf_ptAddrs ha) ?_, fun _ hm hstep => ptStepJudge_ptstep hx hm (by rwa [hpt])⟩
    rintro rfl
    exact absurd ha (by decide)

/-! ### A PT set written by resident firmware -/

/-- The four words of a PT set, each with its address. -/
def ptWords (base baseHi mtref rate : Word) : List (Nat × Word) :=
  [(TB.PTBASE.NS.base, base), (TB.PTBASEH.SECHI.base, baseHi), (TB.PTMTREF.V.base, mtref), (TB.PTRATE.V.base, rate)]

/-- The pairs of a PT set. -/
def ptPairs (h : CwFrom) (base baseHi mtref rate : Word) : List CwPair :=
  [pairOf h 0 TB.PTBASE.NS.base base, pairOf h 2 TB.PTBASEH.SECHI.base baseHi, pairOf h 4 TB.PTMTREF.V.base mtref, pairOf h 6 TB.PTRATE.V.base rate]

theorem cwPairs_ptWords (h : CwFrom) (base baseHi mtref rate : Word) :
    cwPairs (cwwToks h 0 (ptWords base baseHi mtref rate)) = ptPairs h base baseHi mtref rate := rfl

/-- The pairs name the addresses of the four words. -/
theorem ptPairs_addr {h : CwFrom} (hsrc : isResident h.src = true) (base baseHi mtref rate : Word) :
    (ptPairs h base baseHi mtref rate).map CwPair.addr = ptAddrs := by
  have haddr : ∀ i a d, a ∈ ptAddrs → (pairOf h i a d).addr = a := fun i a d ha => pairOf_addr (cwOpenTo_of_mem_ptAddrs hsrc ha) i d
  simp only [ptPairs, List.map_cons, List.map_nil]
  rw [haddr 0 _ _ (by decide), haddr 2 _ _ (by decide), haddr 4 _ _ (by decide), haddr 6 _ _ (by decide)]
  rfl

theorem writesPt_ptPairs {h : CwFrom} (hsrc : isResident h.src = true) (base baseHi mtref rate : Word) :
    writesPt (ptPairs h base baseHi mtref rate) = true := by
  have haddr := ptPairs_addr hsrc base baseHi mtref rate
  rw [ptPairs, List.map_cons] at haddr
  simp only [ptPairs, writesPt, List.any_cons, (List.cons.inj haddr).1]
  rfl

/-- Each RW field of a word of the set reads the data written. -/
theorem get_storePairs_pt {u : State} (hu : u.canonical = true) {h : CwFrom} (hsrc : isResident h.src = true) {base baseHi mtref rate : Word}
    {a i : Nat} {d : Word} {r : Reg} (hmem : pairOf h i a d ∈ ptPairs h base baseHi mtref rate) (ha : a ∈ ptAddrs) (hr : regOf a = some r)
    {f : FieldSpec} (hf : f ∈ r.fields) (hrw : f.acc = .rw) :
    f.fld.get ((u.storePairs [] (ptPairs h base baseHi mtref rate)).word a) = f.fld.get d := by
  have haddr : (pairOf h i a d).addr = a := pairOf_addr (cwOpenTo_of_mem_ptAddrs hsrc ha) i d
  have hb : blockOf a = 2 := (blockOf_ptAddrs ha)
  have hapart : (ptPairs h base baseHi mtref rate).Pairwise (fun q q' => q'.addr ≠ q.addr) := by
    rw [← List.pairwise_map (R := fun x y => y ≠ x), ptPairs_addr hsrc]
    decide
  have hstored := State.word_storePairs (p := pairOf h i a d) (r := r) (by rw [haddr, hr]) (by rw [haddr, hb]; decide) hu hapart hmem
  rw [haddr] at hstored
  rw [hstored, Reg.get_stored (regOf_laidOut hr) hf, hrw]
  rfl

/-- A word is its two halves. -/
theorem word_eq_of_halves {v w : Word} (hlo : bits v 31 0 = bits w 31 0) (hhi : bits v 63 32 = bits w 63 32) : v = w := by
  unfold bits at hlo hhi
  simp only [Nat.shiftRight_eq_div_pow] at hlo hhi
  have := v.isLt
  have := w.isLt
  apply BitVec.eq_of_toNat_eq
  omega

/-- MTREF is a whole word. -/
theorem word_eq_of_mtref {v w : Word} (h : TB.PTMTREF.V.get v = TB.PTMTREF.V.get w) : v = w := by
  have h' : v.toNat % 2 ^ 64 = w.toNat % 2 ^ 64 := h
  rw [Nat.mod_eq_of_lt v.isLt, Nat.mod_eq_of_lt w.isLt] at h'
  exact BitVec.eq_of_toNat_eq h'

/-- The four words of the set as they are stored: BASE and MTREF whole, of the others the field. -/
theorem storePairs_pt {u : State} (hu : u.canonical = true) {h : CwFrom} (hsrc : isResident h.src = true) (base baseHi mtref rate : Word) :
    let v := u.storePairs [] (ptPairs h base baseHi mtref rate)
    v.word TB.PTBASE.NS.base = base ∧ TB.PTBASEH.SECHI.get (v.word TB.PTBASEH.SECHI.base) = TB.PTBASEH.SECHI.get baseHi ∧
      v.word TB.PTMTREF.V.base = mtref ∧ TB.PTRATE.V.get (v.word TB.PTRATE.V.base) = TB.PTRATE.V.get rate := by
  have hget : ∀ {a i : Nat} {d : Word} {r : Reg}, pairOf h i a d ∈ ptPairs h base baseHi mtref rate → a ∈ ptAddrs → regOf a = some r →
      ∀ f ∈ r.fields, f.acc = .rw → f.fld.get ((u.storePairs [] (ptPairs h base baseHi mtref rate)).word a) = f.fld.get d :=
    fun hmem ha hr _ hf hrw => get_storePairs_pt hu hsrc hmem ha hr hf hrw
  have hbase := hget (a := TB.PTBASE.NS.base) (i := 0) (d := base) (r := TB.PTBASE.reg) (by simp [ptPairs]) (by decide) rfl
  have hbaseHi := hget (a := TB.PTBASEH.SECHI.base) (i := 2) (d := baseHi) (r := TB.PTBASEH.reg) (by simp [ptPairs]) (by decide) rfl
  have hmtref := hget (a := TB.PTMTREF.V.base) (i := 4) (d := mtref) (r := TB.PTMTREF.reg) (by simp [ptPairs]) (by decide) rfl
  have hrate := hget (a := TB.PTRATE.V.base) (i := 6) (d := rate) (r := TB.PTRATE.reg) (by simp [ptPairs]) (by decide) rfl
  simp only [TB.PTBASE.reg, TB.PTBASEH.reg, TB.PTMTREF.reg, TB.PTRATE.reg, List.forall_mem_cons, List.not_mem_nil, false_imp_iff, implies_true,
    and_true, forall_const] at hbase hbaseHi hmtref hrate
  exact ⟨word_eq_of_halves hbase.2 hbase.1, hbaseHi, word_eq_of_mtref hmtref, hrate⟩

/-- Each word of the set goes to its address, and BASE alone must hold an NS below a second. -/
theorem ptWords_data {base baseHi mtref rate : Word} (hns : bits base 31 0 < 1000000000) :
    ∀ y ∈ ptWords base baseHi mtref rate, y.1 ∈ ptAddrs ∧ (y.1 = TB.PTBASE.NS.base → bits y.2 31 0 < 1000000000) := by
  have hne : TB.PTBASEH.SECHI.base ≠ TB.PTBASE.NS.base ∧ TB.PTMTREF.V.base ≠ TB.PTBASE.NS.base ∧ TB.PTRATE.V.base ≠ TB.PTBASE.NS.base := by decide
  simp [ptWords, ptAddrs, hns, hne]

/-- A PT set from resident firmware is stored whole, and PT's rule acts on it. -/
theorem tbPtWrite_eq {h : CwFrom} {base baseHi mtref rate : Word} (hsrc : isResident h.src = true) (hns : bits base 31 0 < 1000000000) (s : State) :
    let u := s.deliverAll cwEp (cwwToks h 0 (ptWords base baseHi mtref rate))
    ∃ l n k, exec (.tbPtWrite h base baseHi mtref rate) s =
      .next (((ptWriteEffect u ((u.storePairs [] (ptPairs h base baseHi mtref rate)).setLines l)).setNet n).setSeqs k) := by
  have hopen : ∀ y ∈ ptWords base baseHi mtref rate, cwOpenTo y.1 h.src = true := fun y hy =>
    cwOpenTo_of_mem_ptAddrs hsrc (ptWords_data hns y hy).1
  have hdata : ∀ y ∈ ptWords base baseHi mtref rate, ∀ k u new, dataRefusal (pairOf h k y.1 y.2) u new = none := by
    intro y hy k u new
    have haddr : (pairOf h k y.1 y.2).addr = y.1 := pairOf_addr (hopen y hy) k y.2
    obtain ⟨hy1, hy2⟩ := ptWords_data hns y hy
    exact dataRefusal_pt (haddr.symm ▸ hy1) (haddr.symm ▸ hy2) u new
  obtain ⟨l, n, k, hrun⟩ := State.cwwOf_timeBase (s := s) (x := (TB.PTBASE.NS.base, base)) (xs := (ptWords base baseHi mtref rate).tail) (show 3 < 32 by decide)
    (fun y hy => ⟨hopen y hy, blockOf_ptAddrs (ptWords_data hns y hy).1⟩) hdata (writesPt_ptPairs hsrc base baseHi mtref rate)
  exact ⟨l, n, k, congrArg Host.Outcome.next hrun⟩

theorem ptFollowsTheWordsWritten : Rules.PtFollowsTheWordsWritten := by
  intro h base baseHi mtref rate s hc hsrc hns hlo hhi
  obtain ⟨l, n, k, hrun⟩ := tbPtWrite_eq (baseHi := baseHi) (mtref := mtref) (rate := rate) hsrc hns s
  set u := s.deliverAll cwEp (cwwToks h 0 (ptWords base baseHi mtref rate)) with hu
  set v := (u.storePairs [] (ptPairs h base baseHi mtref rate)).setLines l
  have huc : u.canonical = true := (State.deliverAll_kept (Kept.refl s)).canon hc
  have hvc : v.canonical = true := (State.setLines_kept (State.storePairs_kept (Kept.refl u))).canon huc
  obtain ⟨hbase, hbaseHi, hmtref, hrate⟩ := storePairs_pt huc hsrc base baseHi mtref rate
  have hrateOf : v.fi TB.PTRATE.V = sbits rate 31 0 := congrArg (sx 32) hrate
  have huw : ∀ a ∈ ptAddrs, u.word a = s.word a := fun a ha => State.word_deliverAll (by rw [blockOf_ptAddrs ha]; decide) cwEp _ hc
  have humt : u.mt = s.mt := by simp [hu]
  have hupt : u.pt = s.pt := State.pt_congr humt huw
  have hvmt : v.mt = s.mt := (State.storePairs_mt _ _).trans humt
  have hvpt : v.pt = ptFormula base baseHi mtref rate s.mt := by
    rw [← hvmt]
    exact ptFormula_congr v.mt (congrArg _ hbase) (congrArg _ hbase) hbaseHi hmtref hrate
  obtain ⟨hmt, hpt, hstep⟩ := ptWriteEffect_pt (old := u) hvc (hrateOf ▸ hlo) (hrateOf ▸ hhi)
  have hvbase : v.word TB.PTBASE.NS.base = base := hbase
  rw [hvbase, huw _ (by decide), humt, hvmt, hupt, ← hpt] at hstep
  generalize ptWriteEffect u v = w at hrun hmt hpt hstep
  have htpt : ((w.setNet n).setSeqs k).pt = w.pt := State.pt_congr rfl fun _ _ => rfl
  refine ⟨_, hrun, htpt.trans (hpt.trans hvpt), hmt.trans hvmt, fun hne hmove => hstep hne rfl ?_⟩
  rwa [htpt] at hmove

/-- Settles O16: each event of the time base changes its own state and TB.STAT or AT.SYNC; a PT set is stored whole, so that PT is the formula of
the words written, and its judgement sets PTSTEP. -/
theorem timeBaseKeepsTime : Obligations.TimeBaseKeepsTime := ⟨timeBaseEvents, ptFollowsTheWordsWritten⟩

end Sys2Proof.Machine
end

section
namespace Sys2Proof.Machine

open Sys2Proof

/-! ### The state of a hardware queue (R44, R49, R50) -/

/-- Queue `n` is laid out alike: its CFG and BASE words read the same, at the same instant. -/
structure SameRing (n : Nat) (s t : State) : Prop where
  cfg : t.word (QUEUE.CFG.EN.addr n) = s.word (QUEUE.CFG.EN.addr n)
  base : t.word (QUEUE.BASE.V.addr n) = s.word (QUEUE.BASE.V.addr n)
  mt : t.mt = s.mt

namespace SameRing

variable {n : Nat} {s t u : State}

theorem trans (h : SameRing n s t) (k : SameRing n t u) : SameRing n s u := ⟨k.cfg.trans h.cfg, k.base.trans h.base, k.mt.trans h.mt⟩

theorem f_cfg (h : SameRing n s t) {f : Fld} (hf : f.addr n = QUEUE.CFG.EN.addr n) : t.f f n = s.f f n := by
  unfold State.f
  rw [hf, h.cfg]

theorem qSize (h : SameRing n s t) : t.qSize n = s.qSize n := congrArg (2 ^ ·) (h.f_cfg (f := QUEUE.CFG.LOG2SIZE) rfl)

theorem qSlot (h : SameRing n s t) (k : Nat) : t.qSlot n k = s.qSlot n k := by
  have hbase : t.f QUEUE.BASE.V n = s.f QUEUE.BASE.V n := congrArg QUEUE.BASE.V.get h.base
  unfold State.qSlot
  rw [hbase, h.qSize]

theorem qEntryWords (h : SameRing n s t) (q : Token) : t.qEntryWords n q = s.qEntryWords n q := by
  unfold State.qEntryWords State.on
  rw [h.f_cfg (f := QUEUE.CFG.STAMP) rfl, h.mt]

/-- The fill follows the pointers. -/
theorem qFill (h : SameRing n s t) (hp : t.word (QUEUE.PTR.HEAD.addr n) = s.word (QUEUE.PTR.HEAD.addr n)) : t.qFill n = s.qFill n := by
  have hhead : t.f QUEUE.PTR.HEAD n = s.f QUEUE.PTR.HEAD n := congrArg QUEUE.PTR.HEAD.get hp
  have htail : t.f QUEUE.PTR.TAIL n = s.f QUEUE.PTR.TAIL n := congrArg QUEUE.PTR.TAIL.get hp
  unfold State.qFill
  rw [hhead, htail, h.qSize]

end SameRing

/-- A state reached by writes to the STAT word of queue `n` and to the error lines. -/
structure StatOnly (n : Nat) (s t : State) : Prop where
  word : ∀ a, a ≠ QUEUE.STAT.DROP.addr n → t.word a = s.word a
  mem : t.mem = s.mem
  net : t.net = s.net
  mt : t.mt = s.mt

namespace StatOnly

variable {n : Nat} {s t u : State}

theorem refl (n : Nat) (s : State) : StatOnly n s s := ⟨fun _ _ => rfl, rfl, rfl, rfl⟩

theorem setF (h : StatOnly n s t) (ht : t.canonical = true) {f : Fld} (hf : f.addr n = QUEUE.STAT.DROP.addr n) (v : Nat) : StatOnly n s (t.setF f n v) :=
  ⟨fun a ha => by rw [State.word_setF ht, if_neg (by rwa [hf]), h.word a ha], h.mem, h.net, h.mt⟩

/-- A field of another word reads as before. -/
theorem f (h : StatOnly n s t) {g : Fld} (hg : g.stride % 64 = 0 ∧ QUEUE.STAT.DROP.stride % 64 = 0 ∧ g.base % 64 ≠ QUEUE.STAT.DROP.base % 64) :
    t.f g n = s.f g n := congrArg g.get (h.word _ (Fld.addr_ne hg))

theorem sameRing (h : StatOnly n s t) : SameRing n s t := ⟨h.word _ (Fld.addr_ne (by decide)), h.word _ (Fld.addr_ne (by decide)), h.mt⟩

end StatOnly

/-- FILL, FULL and EMPTY are set anew; DROPS stays (R50). -/
theorem State.qUpdate_spec {s : State} (hs : s.canonical = true) (n : Nat) :
    StatOnly n s (s.qUpdate n) ∧ (s.qUpdate n).f QUEUE.STAT.DROPS n = s.f QUEUE.STAT.DROPS n := by
  unfold State.qUpdate
  extract_lets fill
  have h1 := State.canonical_setF QUEUE.STAT.FILL n fill hs
  have h2 := State.canonical_setF QUEUE.STAT.FULL n (if s.qSize n ≤ fill then 1 else 0) h1
  have hfill := (StatOnly.refl n s).setF hs (f := QUEUE.STAT.FILL) rfl fill
  have hfull := hfill.setF h1 (f := QUEUE.STAT.FULL) rfl (if s.qSize n ≤ fill then 1 else 0)
  refine ⟨hfull.setF h2 (f := QUEUE.STAT.EMPTY) rfl _, ?_⟩
  rw [State.f_setF_bits h2 _ _ _ _ _ (by decide) (by decide), State.f_setF_bits h1 _ _ _ _ _ (by decide) (by decide),
    State.f_setF_bits hs _ _ _ _ _ (by decide) (by decide)]

/-- The warning of the water mark sets WMARK and raises a line; DROPS stays (R50). -/
theorem State.qWmark_spec {s : State} (hs : s.canonical = true) (n before : Nat) :
    StatOnly n s (s.qWmark n before) ∧ (s.qWmark n before).f QUEUE.STAT.DROPS n = s.f QUEUE.STAT.DROPS n := by
  unfold State.qWmark
  extract_lets wm
  split
  · have h := (StatOnly.refl n s).setF hs (f := QUEUE.STAT.WMARK) rfl 1
    exact ⟨⟨h.word, h.mem, h.net, h.mt⟩, State.f_setF_bits hs _ _ _ _ _ (by decide) (by decide)⟩
  · exact ⟨.refl n s, rfl⟩

/-- A discard counts in DROPS, which saturates, and sets DROP (R46). -/
theorem State.qDropped_spec {s : State} (hs : s.canonical = true) (n : Nat) :
    StatOnly n s (s.qDropped n) ∧ (s.qDropped n).f QUEUE.STAT.DROP n = 1 ∧
      (s.qDropped n).f QUEUE.STAT.DROPS n = min (2 ^ 16 - 1) (s.f QUEUE.STAT.DROPS n + 1) := by
  have h1 := State.canonical_incF QUEUE.STAT.DROPS n 1 hs
  have hcount := (StatOnly.refl n s).setF hs (f := QUEUE.STAT.DROPS) rfl (min (QUEUE.STAT.DROPS.size - 1) (s.f QUEUE.STAT.DROPS n + 1))
  have hinc : (s.incF QUEUE.STAT.DROPS n).f QUEUE.STAT.DROPS n = min (2 ^ 16 - 1) (s.f QUEUE.STAT.DROPS n + 1) :=
    (State.f_setF_same hs QUEUE.STAT.DROPS n _ (by decide)).trans (Nat.mod_eq_of_lt (lt_of_le_of_lt (min_le_left _ _) (by decide)))
  exact ⟨hcount.setF h1 (f := QUEUE.STAT.DROP) rfl 1, State.f_setF_same h1 QUEUE.STAT.DROP n 1 (by decide),
    (State.f_setF_bits h1 QUEUE.STAT.DROP QUEUE.STAT.DROPS _ _ _ (by decide) (by decide)).trans hinc⟩

/-- What a queue leaves that sets its pointer `f`, the other being `g`, and updates STAT by it. -/
structure PointerSet (n : Nat) (f g : Fld) (k : Nat) (s t : State) : Prop where
  ring : SameRing n s t
  value : t.f f n = k % 2 ^ (f.hi + 1 - f.lo)
  other : t.f g n = s.f g n
  drops : t.f QUEUE.STAT.DROPS n = s.f QUEUE.STAT.DROPS n
  mem : t.mem = s.mem
  net : t.net = s.net

theorem State.setF_qUpdate_spec {s : State} (hs : s.canonical = true) (n k : Nat) {f g : Fld}
    (hf : f.stride % 64 = 0 ∧ f.base % 64 = 0x10 ∧ f.hi < 64)
    (hg : g.stride % 64 = 0 ∧ g.base % 64 = 0x10) (hd : f.hi < g.lo ∨ g.hi < f.lo) : PointerSet n f g k s ((s.setF f n k).qUpdate n) := by
  obtain ⟨hstride, hbase, hhi⟩ := hf
  obtain ⟨hstride', hbase'⟩ := hg
  have hapart : ∀ x : Fld, x.stride % 64 = 0 → x.base % 64 ≠ 0x10 → x.addr n ≠ f.addr n := fun x hx hxb => Fld.addr_ne ⟨hx, hstride, hbase.symm ▸ hxb⟩
  have hc := State.canonical_setF f n k hs
  have hring : SameRing n s (s.setF f n k) :=
    ⟨by rw [State.word_setF hs, if_neg (hapart _ (by decide) (by decide))], by rw [State.word_setF hs, if_neg (hapart _ (by decide) (by decide))], rfl⟩
  obtain ⟨hstat, hdrops⟩ := State.qUpdate_spec hc n
  exact ⟨hring.trans hstat.sameRing, (hstat.f ⟨hstride, by decide, by rw [hbase]; decide⟩).trans (State.f_setF_same hs f n k hhi),
    (hstat.f ⟨hstride', by decide, by rw [hbase']; decide⟩).trans (State.f_setF_bits hs f g n n k hhi hd),
    hdrops.trans (State.f_setF_word hs f _ n n k (hapart _ (by decide) (by decide))), hstat.mem, hstat.net⟩

/-- An index of a ring of at most 2^16 entries fits its pointer's 17 bits. -/
theorem pointer_mod {m : Nat} (h0 : 0 < m) (hm : m ≤ 2 ^ 16) (k : Nat) : k % (2 * m) % 2 ^ 17 = k % (2 * m) :=
  Nat.mod_eq_of_lt (lt_of_lt_of_le (Nat.mod_lt _ (by omega)) (by omega))

theorem State.qSize_pos (s : State) (n : Nat) : 0 < s.qSize n := Nat.two_pow_pos _

/-- What a queue that stores a token leaves: the entry at TAIL, TAIL one on, and all else of the ring as it was (R44, R46). -/
structure QueueStored (n : Nat) (q : Token) (s t : State) : Prop where
  ring : SameRing n s t
  entry : t.lds (s.qSlot n (s.f QUEUE.PTR.TAIL n)) 4 = s.qEntryWords n q
  bytes : BytesKept s t (fun a => s.qSlot n (s.f QUEUE.PTR.TAIL n) ≤ a ∧ a < s.qSlot n (s.f QUEUE.PTR.TAIL n) + 32)
  head : t.f QUEUE.PTR.HEAD n = s.f QUEUE.PTR.HEAD n
  tail : t.f QUEUE.PTR.TAIL n = (s.f QUEUE.PTR.TAIL n + 1) % (2 * s.qSize n)
  drops : t.f QUEUE.STAT.DROPS n = s.f QUEUE.STAT.DROPS n
  net : t.net = s.net

theorem State.qStore_canonical {s : State} (hs : s.canonical = true) (n : Nat) (q : Token) : (s.qStore n q).canonical = true :=
  (State.qStore_kept (Kept.refl s)).canon hs

theorem State.qStore_spec {s : State} (hs : s.canonical = true) {n : Nat} (hsize : s.qSize n ≤ 2 ^ 16) (q : Token) : QueueStored n q s (s.qStore n q) := by
  set a := s.qSlot n (s.f QUEUE.PTR.TAIL n)
  obtain ⟨u, hu⟩ : ∃ u, u = s.sts a (s.qEntryWords n q) := ⟨_, rfl⟩
  have huc : u.canonical = true := hu ▸ (State.sts_kept (Kept.refl s)).canon hs
  have huw : ∀ b, u.word b = s.word b := hu ▸ State.word_past_sts s a _
  have huf : ∀ g, u.f g n = s.f g n := fun g => congrArg g.get (huw _)
  have humt : u.mt = s.mt := by simp [hu]
  have hunet : u.net = s.net := by simp [hu]
  have hentry : u.lds a 4 = s.qEntryWords n q := hu ▸ State.lds_sts (ws := s.qEntryWords n q) hs a
  have hbytes : BytesKept s u (fun b => a ≤ b ∧ b < a + 32) := fun b hb => by
    rw [hu]
    exact State.byte_sts_other hs a b (by rw [show (s.qEntryWords n q).length = 4 from rfl]; omega)
  have hset := State.setF_qUpdate_spec huc n ((s.f QUEUE.PTR.TAIL n + 1) % (2 * s.qSize n)) (f := QUEUE.PTR.TAIL) (g := QUEUE.PTR.HEAD)
    (by decide) (by decide) (by decide)
  rw [show s.qStore n q = (u.setF QUEUE.PTR.TAIL n ((s.f QUEUE.PTR.TAIL n + 1) % (2 * s.qSize n))).qUpdate n by rw [hu]; rfl]
  exact ⟨SameRing.trans ⟨huw _, huw _, humt⟩ hset.ring, (State.lds_congr hset.mem a 4).trans hentry,
    fun b hb => (congrArg (tget memDefault · b) hset.mem).trans (hbytes b hb), hset.other.trans (huf _),
    hset.value.trans (pointer_mod (s.qSize_pos n) hsize _), hset.drops.trans (huf _), hset.net.trans hunet⟩

/-- A queue that retires its oldest entry moves HEAD one on, and TAIL, DROPS and memory stay (R46, R48). -/
theorem State.qRetire_spec {s : State} (hs : s.canonical = true) {n : Nat} (hsize : s.qSize n ≤ 2 ^ 16) :
    PointerSet n QUEUE.PTR.HEAD QUEUE.PTR.TAIL ((s.f QUEUE.PTR.HEAD n + 1) % (2 * s.qSize n)) s (s.qRetire n 1) ∧
      (s.qRetire n 1).f QUEUE.PTR.HEAD n = (s.f QUEUE.PTR.HEAD n + 1) % (2 * s.qSize n) := by
  have hset := State.setF_qUpdate_spec hs n ((s.f QUEUE.PTR.HEAD n + 1) % (2 * s.qSize n)) (f := QUEUE.PTR.HEAD) (g := QUEUE.PTR.TAIL)
    (by decide) (by decide) (by decide)
  exact ⟨hset, hset.value.trans (pointer_mod (s.qSize_pos n) hsize _)⟩

/-- The entries between two pointers of a ring, where one more is stored. -/
theorem ring_fill_succ {m h t : Nat} (hh : h < 2 * m) (ht : t < 2 * m) (hfill : (t + 2 * m - h) % (2 * m) < m) :
    ((t + 1) % (2 * m) + 2 * m - h) % (2 * m) = (t + 2 * m - h) % (2 * m) + 1 := by
  have hle : (t + 1) % (2 * m) = if t + 1 = 2 * m then 0 else t + 1 := by
    split
    · next e => rw [e, Nat.mod_self]
    · exact Nat.mod_eq_of_lt (by omega)
  have hmod : ∀ x, x < 2 * m → (x + 2 * m - h) % (2 * m) = if h ≤ x then x - h else x + 2 * m - h := by
    intro x hx
    split
    · rw [show x + 2 * m - h = x - h + 2 * m by omega, Nat.add_mod_right, Nat.mod_eq_of_lt (by omega)]
    · exact Nat.mod_eq_of_lt (by omega)
  rw [hmod t ht] at hfill ⊢
  rw [hmod _ (Nat.mod_lt _ (by omega)), hle]
  split_ifs at hfill ⊢ <;> omega

/-- The fill of a ring with room, where HEAD stays and TAIL moves one on. -/
theorem State.qFill_succ {s t : State} {n : Nat} (hsize : t.qSize n = s.qSize n) (hhead : t.f QUEUE.PTR.HEAD n = s.f QUEUE.PTR.HEAD n)
    (htail : t.f QUEUE.PTR.TAIL n = (s.f QUEUE.PTR.TAIL n + 1) % (2 * s.qSize n)) (hh : s.f QUEUE.PTR.HEAD n < 2 * s.qSize n)
    (ht : s.f QUEUE.PTR.TAIL n < 2 * s.qSize n) (hroom : s.qFill n < s.qSize n) : t.qFill n = s.qFill n + 1 := by
  unfold State.qFill at hroom ⊢
  rw [hsize, hhead, htail]
  exact ring_fill_succ hh ht hroom

end Sys2Proof.Machine
end

section
namespace Sys2Proof.Machine

open Sys2Proof

/-! ### O14: a token arrives at a queue (R36, R44, R46) -/

/-- The words of the queues lie in block 3. -/
theorem blockOf_queueWord {f : Fld} (hbase : 0x100301000 ≤ f.base ∧ f.base < 0x100301040) (hstride : f.stride = 0x40) (n : Fin 64) :
    blockOf (f.addr n) = 3 := by
  unfold blockOf Fld.addr
  rw [hstride]
  omega

/-- Queue `n` notes the push handshake and the token leaves the network. -/
def queueArrived (n : Nat) (q : Token) (hand : Bool) (s : State) : State := (s.setHand n hand).deliver (0x380 + n) q

/-- What an arrival at queue `n` leaves: the token is out of the network, and only event counters and queue records may differ. -/
structure ArrivedFrom (q : Token) (s u : State) : Prop where
  canon : u.canonical = true
  word : ∀ a, blockOf a ≠ 7 → u.word a = s.word a
  mem : u.mem = s.mem
  net : u.net = s.net.erase q
  lines : u.lines = s.lines
  mt : u.mt = s.mt

theorem queueArrived_spec {s : State} (hs : s.canonical = true) (n : Nat) (q : Token) (hand : Bool) : ArrivedFrom q s (queueArrived n q hand s) := by
  have hc : (s.setHand n hand).canonical = true := (State.setQueue_kept (Kept.refl s)).canon hs
  exact ⟨(State.deliver_kept (Kept.refl _)).canon hc, fun _ h7 => State.word_deliver hc _ _ h7, by simp [queueArrived, State.setHand, State.setQueue],
    State.deliver_net _ _ _, by simp [queueArrived, State.setHand, State.setQueue], by simp [queueArrived, State.setHand, State.setQueue]⟩

/-- Without a handshake asked for, no entry is under one. -/
theorem queueArrived_hand {s : State} (hs : s.canonical = true) (n : Nat) (q : Token) : ((queueArrived n q false s).queue n).hand = false := by
  have hq : (queueArrived n q false s).queues = (s.setHand n false).queues := by simp [queueArrived]
  rw [State.queue_congr hq, State.setHand, State.queue_setQueue hs, if_pos rfl]
  rfl

namespace ArrivedFrom

variable {n : Fin 64} {q : Token} {s u : State}

/-- An arrival leaves the words of the queue as they were. -/
theorem queueWord (h : ArrivedFrom q s u) {f : Fld} (hbase : 0x100301000 ≤ f.base ∧ f.base < 0x100301040) (hstride : f.stride = 0x40) :
    u.word (f.addr n) = s.word (f.addr n) := h.word _ (by rw [blockOf_queueWord hbase hstride n]; decide)

theorem f (h : ArrivedFrom q s u) {g : Fld} (hbase : 0x100301000 ≤ g.base ∧ g.base < 0x100301040) (hstride : g.stride = 0x40) :
    u.f g n = s.f g n := congrArg g.get (h.queueWord hbase hstride)

theorem sameRing (h : ArrivedFrom q s u) : SameRing n s u := ⟨h.queueWord (by decide) rfl, h.queueWord (by decide) rfl, h.mt⟩

theorem qFill (h : ArrivedFrom q s u) : u.qFill n = s.qFill n := h.sameRing.qFill (h.queueWord (by decide) rfl)

end ArrivedFrom

/-- What a queue does with a token that has left the network. -/
def queueTake (n : Nat) (q : Token) (u : State) : State :=
  if neverAnswered q then u.absorb (0x380 + n) q
  else if q.kind = 11#4 then u.refuse (0x380 + n) q 7
  else if q.kind = 8#4 ∧ q.src ≠ 0xE#10 then u.refuse (0x380 + n) q 3
  else if !u.on QUEUE.CFG.EN n then u.refuse (0x380 + n) q 3
  else
    let u := u.qSeqCheck n q
    let fill := u.qFill n
    if fill < u.qSize n then (u.qStore n q).qWmark n fill
    else if u.f QUEUE.CFG.OVF n = 1 then u.qDropped n
    else ((u.qDropOldest n).qStore n q).qDropped n

theorem State.on_iff {s : State} {f : Fld} {i : Nat} : s.on f i = true ↔ s.f f i ≠ 0 := bne_iff_ne

/-- A full queue under the stall policy leaves the token in transit (R46). -/
theorem queueEnqueue_stalled {n : Nat} {q : Token} {hand : Bool} {s : State} (hen : s.f QUEUE.CFG.EN n = 1) (hovf : s.f QUEUE.CFG.OVF n = 0)
    (hfull : s.qSize n ≤ s.qFill n) : queueEnqueue n q hand s = s.setHand n hand := by
  have hstall : (s.on QUEUE.CFG.EN n && s.f QUEUE.CFG.OVF n == 0 && decide (s.qSize n ≤ s.qFill n)) = true := by
    simp [State.on, hen, hovf, hfull]
  exact if_pos hstall

/-- Otherwise a token from a source the queue is open to arrives. -/
theorem queueEnqueue_arrives {n : Nat} {q : Token} {s : State} (hsrc : srcAllowed (0x380 + n) q.src = true)
    (hroom : ¬ (s.f QUEUE.CFG.EN n ≠ 0 ∧ s.f QUEUE.CFG.OVF n = 0 ∧ s.qSize n ≤ s.qFill n)) (hand : Bool) :
    queueEnqueue n q hand s = queueTake n q (queueArrived n q hand s) := by
  have hstall : ¬ (s.on QUEUE.CFG.EN n && s.f QUEUE.CFG.OVF n == 0 && decide (s.qSize n ≤ s.qFill n)) = true := by
    simpa [State.on] using hroom
  exact (if_neg hstall).trans (if_pos hsrc)

/-- A token the queue takes is stored where there is room, and otherwise treated by OVF. -/
theorem queueTake_of_queueTakes {n : Fin 64} {q : Token} {s u : State} (h : QueueTakes s n q) (hu : ArrivedFrom q s u) :
    queueTake n q u =
      if s.qFill n < s.qSize n then (u.qStore n q).qWmark n (s.qFill n)
      else if s.f QUEUE.CFG.OVF n = 1 then u.qDropped n
      else ((u.qDropOldest n).qStore n q).qDropped n := by
  obtain ⟨_, _, hq, hevt, hcred, hen, hseq, _⟩ := h
  have huen : u.on QUEUE.CFG.EN n = true := State.on_iff.2 (by rw [hu.f (by decide) rfl, hen]; decide)
  have huseq : ¬ u.on QUEUE.CFG.SEQCHK n = true := fun hon => State.on_iff.1 hon (by rw [hu.f (by decide) rfl, hseq])
  have hcheck : u.qSeqCheck n q = u := if_neg huseq
  have hkind : ¬ (q.kind = 8#4 ∧ q.src ≠ 0xE#10) := fun hk => hk.2 (hcred hk.1)
  have hovf : u.f QUEUE.CFG.OVF n = s.f QUEUE.CFG.OVF n := hu.f (by decide) rfl
  unfold queueTake
  simp only [hq, hevt, hkind, huen, hcheck, hu.qFill, hu.sameRing.qSize, hovf, Bool.false_eq_true, Bool.not_true, if_false]

/-- The entry stored and TAIL in terms of the state before, where the ring is laid out as there, and STAT may have been written since. -/
theorem QueueStored.of_sameRing {n : Nat} {q : Token} {s u v t : State} (h : QueueStored n q u v) (hring : SameRing n s u)
    (htail : u.f QUEUE.PTR.TAIL n = s.f QUEUE.PTR.TAIL n) (hmem : u.mem = s.mem) (hstat : StatOnly n v t) :
    t.lds (s.qSlot n (s.f QUEUE.PTR.TAIL n)) 4 = s.qEntryWords n q ∧
      BytesKept s t (fun a => s.qSlot n (s.f QUEUE.PTR.TAIL n) ≤ a ∧ a < s.qSlot n (s.f QUEUE.PTR.TAIL n) + 32) ∧
      t.f QUEUE.PTR.TAIL n = (s.f QUEUE.PTR.TAIL n + 1) % (2 * s.qSize n) := by
  have hslot : u.qSlot n (u.f QUEUE.PTR.TAIL n) = s.qSlot n (s.f QUEUE.PTR.TAIL n) := by rw [htail, hring.qSlot]
  refine ⟨?_, fun a ha => ?_, ?_⟩
  · rw [State.lds_congr hstat.mem, ← hslot, h.entry, hring.qEntryWords]
  · calc t.byte a = v.byte a := congrArg (tget memDefault · a) hstat.mem
      _ = u.byte a := h.bytes a (hslot.symm ▸ ha)
      _ = s.byte a := congrArg (tget memDefault · a) hmem
  · rw [hstat.f (by decide), h.tail, htail, hring.qSize]

theorem queueStoresAnArrivingToken : Rules.QueueStoresAnArrivingToken := by
  intro n q hand s h hroom
  have ⟨hs, hsrc, _, _, _, _, _, hhead, htail, hsize⟩ := h
  have hrun := queueEnqueue_arrives hsrc (fun hfull => absurd hroom (Nat.not_lt.2 hfull.2.2)) hand
  have hu := queueArrived_spec hs n q hand
  generalize queueArrived n q hand s = u at hrun hu
  rw [queueTake_of_queueTakes h hu, if_pos hroom] at hrun
  have hstored := State.qStore_spec hu.canon (hu.sameRing.qSize.symm ▸ hsize) q
  obtain ⟨hstat, hdrops⟩ := State.qWmark_spec (State.qStore_canonical hu.canon n q) n (s.qFill n)
  obtain ⟨hentry, hbytes, htail'⟩ := hstored.of_sameRing hu.sameRing (hu.f (by decide) rfl) hu.mem hstat
  have hhead' := (hstat.f (by decide)).trans (hstored.head.trans (hu.f (by decide) rfl))
  have hring := hu.sameRing.trans (hstored.ring.trans hstat.sameRing)
  exact ⟨_, congrArg Host.Outcome.next hrun, hentry, hbytes, State.qFill_succ hring.qSize hhead' htail' hhead htail hroom, hhead', htail',
    hdrops.trans (hstored.drops.trans (hu.f (by decide) rfl)), hstat.net.trans (hstored.net.trans hu.net)⟩

/-- Under the policy that retires the oldest entry, without a handshake: HEAD and TAIL both move one on. -/
theorem queueOverflow_retires {n : Fin 64} {q : Token} {s u : State} (hu : ArrivedFrom q s u) (hhand : (u.queue n).hand = false) (hsize : s.qSize n ≤ 2 ^ 16) :
    let t := ((u.qDropOldest n).qStore n q).qDropped n
    t.f QUEUE.STAT.DROP n = 1 ∧ t.f QUEUE.STAT.DROPS n = min (2 ^ 16 - 1) (s.f QUEUE.STAT.DROPS n + 1) ∧
      t.f QUEUE.PTR.HEAD n = (s.f QUEUE.PTR.HEAD n + 1) % (2 * s.qSize n) ∧ t.f QUEUE.PTR.TAIL n = (s.f QUEUE.PTR.TAIL n + 1) % (2 * s.qSize n) ∧
      t.lds (s.qSlot n (s.f QUEUE.PTR.TAIL n)) 4 = s.qEntryWords n q ∧
      BytesKept s t (fun a => s.qSlot n (s.f QUEUE.PTR.TAIL n) ≤ a ∧ a < s.qSlot n (s.f QUEUE.PTR.TAIL n) + 32) := by
  have hdrop : u.qDropOldest n = u.qRetire n 1 := by
    unfold State.qDropOldest
    simp only [hhand, Bool.false_eq_true, if_false]
  have husize : u.qSize n ≤ 2 ^ 16 := hu.sameRing.qSize.symm ▸ hsize
  obtain ⟨hret, hhead⟩ := State.qRetire_spec hu.canon husize
  have hrc : (u.qRetire n 1).canonical = true := (State.qRetire_kept (Kept.refl u)).canon hu.canon
  have hring := hu.sameRing.trans hret.ring
  rw [hdrop]
  generalize u.qRetire n 1 = v at hret hhead hrc hring
  have hstored := State.qStore_spec hrc (hring.qSize.symm ▸ hsize) q
  obtain ⟨hstat, hset, hcount⟩ := State.qDropped_spec (State.qStore_canonical hrc n q) n
  obtain ⟨hentry, hbytes, htail⟩ := hstored.of_sameRing hring (hret.other.trans (hu.f (by decide) rfl)) (hret.mem.trans hu.mem) hstat
  refine ⟨hset, ?_, ?_, htail, hentry, hbytes⟩
  · rw [hcount, hstored.drops, hret.drops, hu.f (by decide) rfl]
  · rw [hstat.f (by decide), hstored.head, hhead, hu.f (by decide) rfl, hu.sameRing.qSize]

theorem queueOverflowPolicies : Rules.QueueOverflowPolicies := by
  intro n q hand s h hfull
  have ⟨hs, hsrc, _, _, _, hen, _, _, _, hsize⟩ := h
  have harrives : s.f QUEUE.CFG.OVF n ≠ 0 → queueEnqueue n q hand s = queueTake n q (queueArrived n q hand s) := fun hovf =>
    queueEnqueue_arrives hsrc (fun hstall => hovf hstall.2.1) hand
  have hu := queueArrived_spec hs n q hand
  have htake := queueTake_of_queueTakes h hu
  rw [if_neg (by omega)] at htake
  refine ⟨fun hovf => ⟨_, congrArg Host.Outcome.next (queueEnqueue_stalled hen hovf hfull.ge), rfl⟩, fun hovf => ?_, fun hovf hhand => ?_⟩
  · have hrun := (harrives (by omega)).trans (htake.trans (if_pos hovf))
    obtain ⟨hstat, hset, hcount⟩ := State.qDropped_spec hu.canon n
    exact ⟨_, congrArg Host.Outcome.next hrun, hset, hcount.trans (by rw [hu.f (by decide) rfl]), hstat.mem.trans hu.mem,
      (hstat.f (by decide)).trans (hu.f (by decide) rfl), (hstat.f (by decide)).trans (hu.f (by decide) rfl), hstat.net.trans hu.net⟩
  · have hrun := (harrives (by omega)).trans (htake.trans (if_neg (by omega)))
    subst hhand
    exact ⟨_, congrArg Host.Outcome.next hrun, queueOverflow_retires hu (queueArrived_hand hs n q) hsize⟩

/-- A refused token is answered by one RSP, and an info-class event of source 24 is raised (R36, R76). -/
theorem State.refuse_refused {s u : State} {q : Token} (hq : neverAnswered q = false) (hnet : u.net = s.net.erase q) (hlines : u.lines = s.lines)
    (ep code : Nat) : Refused ep q code s (u.refuse ep q code) := by
  have hrun : u.refuse ep q code =
      (u.send { mkTok ep q.src.toNat kindRSP q.stream.toNat (refusalPayload q.seq.toNat q.kind.toNat code) with err := true }).info 24 0 ep :=
    if_neg (by rw [hq]; decide)
  rw [hrun]
  exact ⟨⟨_, congrArg (· ++ _) hnet⟩, _, congrArg (· ++ _) hlines, rfl, rfl⟩

theorem queueRefusals : Rules.QueueRefusals := by
  intro n q hand s hs hres hq hcase
  have hsrc : srcAllowed (0x380 + n) q.src = true := by simp [srcAllowed, hres]
  have hbit : s.f QUEUE.CFG.EN n < 2 := Nat.mod_lt _ (by decide)
  have hu := queueArrived_spec hs n q hand
  have harrives : queueEnqueue n q hand s = queueTake n q (queueArrived n q hand s) :=
    queueEnqueue_arrives hsrc (by omega) hand
  generalize queueArrived n q hand s = u at hu harrives
  have htake : queueTake n q u = u.refuse (0x380 + n) q (if q.kind = 11#4 then 7 else 3) := by
    unfold queueTake
    rw [hq, if_neg (by decide)]
    rcases hcase with ⟨hevt, _⟩ | ⟨hevt, hcred, hen⟩
    · rw [if_pos hevt, if_pos hevt]
    · have hoff : u.on QUEUE.CFG.EN n = false := Bool.eq_false_iff.2 fun hon => State.on_iff.1 hon ((hu.f (by decide) rfl).trans hen)
      rw [if_neg hevt, if_neg hevt, if_neg (fun hk => hcred hk.1), hoff, if_pos (by decide)]
  refine ⟨_, congrArg Host.Outcome.next (harrives.trans htake), State.refuse_refused hq hu.net hu.lines _ _, ?_, fun a _ h7 => ?_⟩
  · simp [hu.mem]
  · rw [State.word_past_refuse, hu.word a h7]

/-- Settles O14: a token a queue takes is stored at TAIL or treated by OVF, on the state its arrival leaves; any other is refused there. -/
theorem queuesTakeTokens : Obligations.QueuesTakeTokens := ⟨queueStoresAnArrivingToken, queueOverflowPolicies, queueRefusals⟩

end Sys2Proof.Machine
end

section
namespace Sys2Proof.Machine

open Sys2Proof

/-! ### Every command keeps the queue and the canonical form -/

theorem exec_kept (c : Instr) (s : State) : Completes c s (Kept s) := by
  have h := Kept.refl s
  cases c with
  | queueEnqueue => exact ⟨_, rfl, queueEnqueue_kept h⟩
  | queuePush => exact ⟨_, rfl, queuePush_kept h⟩
  | queuePop | tbPtWrite | coreStart | coreHalt | coreStep | coreImgWrite | wringWrite | mapnextWrite | fftnWrite | stbaseWrite | auxFaultClear |
    linkRestart | laneModeWrite | prbsStart | hashWrite | sreqWrite | statusAcknowledge | lrearm | errel | injection | dalePop | mrel | confirm |
    svnburn | revoke => exact ⟨_, rfl, State.cwwOf_kept h⟩
  | queueCfgWrite => exact ⟨_, rfl, State.cwwOf_kept (State.setHand_kept h)⟩
  | queueDropsRead | colSlackRead | colLateRead | colCoincRead | plainEccRead | plainEccaddrRead | leadMinRead | limcntRead | gresRead |
    saddleCntRead | yieldRead | servoCntRead | servoLoopCntRead | scCntRead | encCntRead | hallCntRead | prbDropsRead | csiCntRead | ipCntRead |
    ruleCntRead | prdropRead | prbsCountRead | linkCntRead | ethCntRead | vctCntRead | dramEccRead | dramEccaddrRead | dramCntRead | gorgeCntRead |
    gorgeBytesRead | daleLostRead | ecCountRead | hkWakeRead => exact ⟨_, rfl, State.cwrAt_kept h⟩
  | collRead =>
    refine ⟨_, rfl, ?_⟩
    split
    · exact State.cwrAt_kept h
    · exact h
  | pllLock => exact ⟨_, rfl, pllLock_kept h⟩
  | timerefLoss => exact ⟨_, rfl, timerefLoss_kept h⟩
  | pllRelock => exact ⟨_, rfl, pllRelock_kept h⟩
  | slewEnd => exact ⟨_, rfl, slewEnd_kept h⟩
  | syncBeacon => exact ⟨_, rfl, syncBeacon_kept h⟩
  | colAccept => exact ⟨_, rfl, colAccept_kept h⟩
  | colRelease => exact ⟨_, rfl, colRelease_kept h⟩
  | colSecondEdge => exact ⟨_, rfl, colSecondEdge_kept h⟩
  | colFaultClear => exact ⟨_, rfl, colFaultClear_kept h⟩
  | colEnClear | colEnSet | straceEnSet | trkEnClear | narmWrite | hrecEnSet | loopEnable | loopDisable | scEnable | indexHome | probeArm |
    emuEnable | ipEnable | ruleEnable | ruleDisable | lrecEnSet | auxEnable | auxDisable | linkEnable | daleFreeze |
    ecCtrlWrite => exact ⟨_, rfl, State.cwwField_kept h⟩
  | triggerStartPeriodic | triggerStop | triggerSingle => exact ⟨_, rfl, triggerCommand_kept h⟩
  | triggerRelease => exact ⟨_, rfl, triggerRelease_kept h⟩
  | mrd => exact ⟨_, rfl, mrd_kept h⟩
  | mwrWrite | swap | fetchAdd | compareAndSwap => exact ⟨_, rfl, mwr_kept h⟩
  | plainScrub => exact ⟨_, rfl, plainScrub_kept h⟩
  | cwr => exact ⟨_, rfl, cwr_kept h⟩
  | cww => exact ⟨_, rfl, cww_kept h⟩
  | refusalPoint => exact ⟨_, rfl, State.refuse_kept (State.deliver_kept h)⟩
  | barrierFanout => exact ⟨_, rfl, barrierFanout_kept h⟩
  | barrierJudge => exact ⟨_, rfl, barrierJudge_kept h⟩
  | barrier => exact ⟨_, rfl, barrier_kept h⟩
  | zAdd | zSub | zAnd | zOr | zXor | zAndn | zShl | zShr | zSar | zRor | zMin | zMax | zMinu | zMaxu | zClz | zCtz | zPopc | zBswap | zMul |
    zMulhu | zMulhs | zDivu | zDivs | zRemu | zRems | zSextw | zAddsat | zSubsat | zAddi | zAndi | zOri | zXori | zShli | zShri | zSari | zMuli |
    zLi | zLso | zLb | zLbu | zLh | zLhu | zLw | zLwu | zLd | zSb | zSh | zSw | zSd | zCmp | zCmpi | zPlog | zBr | zCall | zJalr | zTpoll | zTtag |
    zTset | zTsendl | zTsel | zTcred | zGets | zPuts | zEret | zBrk | zHalt | zFence | zGetmt | zWaitt | zRld | zRst | zRswp | zRadd | zRcas |
    zCwrd | zCwwr | zRget | zRput | zRmove => exact ⟨_, rfl, zExec_kept h⟩
  | portTokenArrival => exact ⟨_, rfl, portArrival_kept h⟩
  | asyncCauseTaken => exact ⟨_, rfl, asyncTaken_kept h⟩
  | portTimeout => exact ⟨_, rfl, portTimeout_kept h⟩
  | postedWriteAck => exact ⟨_, rfl, postedAck_kept h⟩
  | bulkComplete => exact ⟨_, rfl, bulkComplete_kept h⟩
  | coreRotation => exact ⟨_, rfl, coreRotate_kept h⟩
  | coreFailed => exact ⟨_, rfl, coreFailed_kept h⟩
  | coreRestart => exact ⟨_, rfl, coreRestartOn_kept h⟩
  | pgJump | pgMark | pgJumpr | pgMarkr | pgArc | pgPark | pgSpeed | pgPower | pgFocus | pgRamp | pgGate | pgOwn | pgPart | pgVid | pgNop |
    pgDwell | pgMarker | pgTrig | pgRecord | pgLook => exact ⟨_, rfl, State.execLayer_kept h⟩
  | pgDwellEnd => exact ⟨_, rfl, dwellEnd_kept h⟩
  | pgLend => exact ⟨_, rfl, layerEnd_kept h⟩
  | windowPoll => exact ⟨_, rfl, windowPoll_kept h⟩
  | leadUpdate => exact ⟨_, rfl, leadUpdate_kept h⟩
  | underrun => exact ⟨_, rfl, underrun_kept h⟩
  | arm | pause | resume | abort | disarm => exact ⟨_, rfl, pgRow_kept h⟩
  | pausePoint => exact ⟨_, rfl, pausePoint_kept h⟩
  | resumeRun => exact ⟨_, rfl, resumeRun_kept h⟩
  | plan => exact ⟨_, rfl, planStep_kept h⟩
  | segmentCommit => exact ⟨_, rfl, segmentCommit_kept h⟩
  | interpolate => exact ⟨_, rfl, interpolate_kept h⟩
  | powerTarget => exact ⟨_, rfl, powerTarget_kept h⟩
  | gateSample => exact ⟨_, rfl, gateSample_kept h⟩
  | sampleMissing => exact ⟨_, rfl, sampleMissing_kept h⟩
  | trackingTarget => exact ⟨_, rfl, trackingTarget_kept h⟩
  | trackingCycle => exact ⟨_, rfl, trackingCycle_kept h⟩
  | mapCheckDone => exact ⟨_, rfl, mapCheckDone_kept h⟩
  | mapSwap => exact ⟨_, rfl, mapSwap_kept h⟩
  | chainDecide => exact ⟨_, rfl, chainDecide_kept h⟩
  | stare => exact ⟨_, rfl, stare_kept h⟩
  | coefficientSet => exact ⟨_, rfl, coefficientSet_kept h⟩
  | setpointAccept => exact ⟨_, rfl, setpointAccept_kept h⟩
  | galvoCycle => exact ⟨_, rfl, galvoCycle_kept h⟩
  | powerLoopCycle => exact ⟨_, rfl, powerLoopCycle_kept h⟩
  | ctrimSet => exact ⟨_, rfl, ctrimSet_kept h⟩
  | pairMissing => exact ⟨_, rfl, pairMissing_kept h⟩
  | auxPositionCycle => exact ⟨_, rfl, auxPositionCycle_kept h⟩
  | auxCurrentCycle => exact ⟨_, rfl, auxCurrentCycle_kept h⟩
  | auxSetpoint => exact ⟨_, rfl, auxSetpoint_kept h⟩
  | fftCopyDone => exact ⟨_, rfl, fftCopyDone_kept h⟩
  | unitFail => exact ⟨_, rfl, sectionFailed_kept h⟩
  | encEdge => exact ⟨_, rfl, encEdge_kept h⟩
  | indexEvent => exact ⟨_, rfl, indexEvent_kept h⟩
  | hallChange => exact ⟨_, rfl, hallChange_kept h⟩
  | hallTimeout => exact ⟨_, rfl, hallTimeout_kept h⟩
  | speedUpdate => exact ⟨_, rfl, speedUpdate_kept h⟩
  | probeEvent => exact ⟨_, rfl, probeEvent_kept h⟩
  | probeRecord => exact ⟨_, rfl, probeRecord_kept h⟩
  | emuUpdate => exact ⟨_, rfl, emuUpdate_kept h⟩
  | frameStart => exact ⟨_, rfl, frameStart_kept h⟩
  | linePacket => exact ⟨_, rfl, linePacket_kept h⟩
  | frameEnd => exact ⟨_, rfl, frameEnd_kept h⟩
  | fswinExpiry => exact ⟨_, rfl, fswinExpiry_kept h⟩
  | cameraSetting => exact ⟨_, rfl, cameraSetting_kept h⟩
  | i2cTransaction => exact ⟨_, rfl, i2cTransaction_kept h⟩
  | i2cDone => exact ⟨_, rfl, i2cDone_kept h⟩
  | ruleRecord => exact ⟨_, rfl, ruleRecord_kept h⟩
  | stareRecord => exact ⟨_, rfl, stareRecord_kept h⟩
  | processRecord => exact ⟨_, rfl, processRecord_kept h⟩
  | auxMove => exact ⟨_, rfl, auxMove_kept h⟩
  | moveStart => exact ⟨_, rfl, moveStart_kept h⟩
  | moveComplete => exact ⟨_, rfl, moveComplete_kept h⟩
  | settleTimeout => exact ⟨_, rfl, settleTimeout_kept h⟩
  | auxStop => exact ⟨_, rfl, auxStop_kept h⟩
  | jog => exact ⟨_, rfl, jog_kept h⟩
  | holdiSet => exact ⟨_, rfl, holdiSet_kept h⟩
  | hubLinkTimeout => exact ⟨_, rfl, hubLinkTimeout_kept h⟩
  | detectPoll => exact ⟨_, rfl, detectPoll_kept h⟩
  | symbolLock => exact ⟨_, rfl, symbolLock_kept h⟩
  | linkStateTimeout => exact ⟨_, rfl, linkStateTimeout_kept h⟩
  | capRecord => exact ⟨_, rfl, capRecord_kept h⟩
  | superframeStart => exact ⟨_, rfl, superframeStart_kept h⟩
  | sfsReceive => exact ⟨_, rfl, sfsReceive_kept h⟩
  | smpBlockReceive => exact ⟨_, rfl, smpBlockReceive_kept h⟩
  | tokBlockReceive => exact ⟨_, rfl, tokBlockReceive_kept h⟩
  | refclkLoss => exact ⟨_, rfl, refclkLoss_kept h⟩
  | prbsEnd => exact ⟨_, rfl, prbsEnd_kept h⟩
  | eqLimit => exact ⟨_, rfl, eqLimit_kept h⟩
  | ethernetFrame => exact ⟨_, rfl, ethernetFrame_kept h⟩
  | transmitStamp => exact ⟨_, rfl, transmitStamp_kept h⟩
  | linkChange => exact ⟨_, rfl, linkChange_kept h⟩
  | ptpSync => exact ⟨_, rfl, ptpSync_kept h⟩
  | announce => exact ⟨_, rfl, announce_kept h⟩
  | syncLoss => exact ⟨_, rfl, syncLoss_kept h⟩
  | announceTimeout => exact ⟨_, rfl, announceTimeout_kept h⟩
  | ping | status | vctCwrd | vctCwwr | rxopen | dataChunk | rxclose | rxabort | rxstat | deliver | subscribe | keyset | keyclr | timeset |
    fwstage | vctReset | daleup | uack => exact ⟨_, rfl, vctRow_kept h⟩
  | digestDone => exact ⟨_, rfl, digestDone_kept h⟩
  | fwstageComplete => exact ⟨_, rfl, fwstageComplete_kept h⟩
  | mirrorWrite => exact ⟨_, rfl, mirrorWrite_kept h⟩
  | upload => exact ⟨_, rfl, upload_kept h⟩
  | reply => exact ⟨_, rfl, reply_kept h⟩
  | uplSend => exact ⟨_, rfl, uplSend_kept h⟩
  | uploadRetransmit => exact ⟨_, rfl, uploadRetransmit_kept h⟩
  | dramTraining => exact ⟨_, rfl, dramTraining_kept h⟩
  | pageClose => exact ⟨_, rfl, .ite (State.setBank_kept (State.reach_kept h)) h⟩
  | refreshTick => exact ⟨_, rfl, refreshTick_kept h⟩
  | mr4Poll => exact ⟨_, rfl, mr4Poll_kept h⟩
  | rfm => exact ⟨_, rfl, State.doRfm_kept h⟩
  | powerDownEntry => exact ⟨_, rfl, .ite h (State.setF_kept (State.reach_kept h))⟩
  | selfRefreshEntry => exact ⟨_, rfl, selfRefreshEntry_kept h⟩
  | selfRefreshExit => exact ⟨_, rfl, selfRefreshExit_kept h⟩
  | zqCalibration | dqsOscillator => exact ⟨_, rfl, .ite h (State.setRank_kept (State.wakeRank_kept h))⟩
  | dramScrub => exact ⟨_, rfl, dramScrub_kept h⟩
  | gorgeJobSubmit => exact ⟨_, rfl, gorgeJobSubmit_kept h⟩
  | gorgeJobStart => exact ⟨_, rfl, gorgeJobStart_kept h⟩
  | gorgeJobEnd => exact ⟨_, rfl, gorgeJobEnd_kept h⟩
  | gorgeAbort => exact ⟨_, rfl, gorgeAbort_kept h⟩
  | statusRaise => exact ⟨_, rfl, statusRaise_kept h⟩
  | errorMinimumEnd => exact ⟨_, rfl, errorMinimumEnd_kept h⟩
  | safeInputFall => exact ⟨_, rfl, safeInputFall_kept h⟩
  | safeDiscrepancy => exact ⟨_, rfl, safeDiscrepancy_kept h⟩
  | porstAssert => exact ⟨_, rfl, porstAssert_kept h⟩
  | porstRelease => exact ⟨_, rfl, porstRelease_kept h⟩
  | resetRelease => exact ⟨_, rfl, resetRelease_kept h⟩
  | brownoutWarning => exact ⟨_, rfl, brownoutWarning_kept h⟩
  | brownoutReset => exact ⟨_, rfl, brownoutReset_kept h⟩
  | housekeepingRound => exact ⟨_, rfl, housekeepingRound_kept h⟩
  | throttleSlot => exact ⟨_, rfl, throttleSlot_kept h⟩
  | blockSleep => exact ⟨_, rfl, blockSleep_kept h⟩
  | wakePermitGrant => exact ⟨_, rfl, wakePermitGrant_kept h⟩
  | permitReturn => exact ⟨_, rfl, permitReturn_kept h⟩
  | vaultSupplyLoss => exact ⟨_, rfl, vaultSupplyLoss_kept h⟩
  | crystalStop => exact ⟨_, rfl, crystalStop_kept h⟩
  | tamper => exact ⟨_, rfl, tamper_kept h⟩
  | backgroundTest => exact ⟨_, rfl, backgroundTest_kept h⟩
  | repairRecordWrite => exact ⟨_, rfl, repairRecordWrite_kept h⟩
  | blockLock => exact ⟨_, rfl, blockLock_kept h⟩
  | badBlock => exact ⟨_, rfl, badBlock_kept h⟩
  | safeInputRise => exact ⟨_, rfl, safeInputRise_kept h⟩
  | resetAssert => exact ⟨_, rfl, resetAssert_kept h⟩
  | brownoutRecovery => exact ⟨_, rfl, brownoutRecovery_kept h⟩
  | vaultSupplyReturn => exact ⟨_, rfl, vaultSupplyReturn_kept h⟩
  | crystalRestart => exact ⟨_, rfl, crystalRestart_kept h⟩
  | creditReturn => exact ⟨_, rfl, creditReturn_kept h⟩
  | rspAbsorbed => exact ⟨_, rfl, .ite (State.absorb_kept (State.deliver_kept h)) h⟩
  | dramThrottleEnd =>
    refine ⟨_, rfl, ?_⟩
    split
    · exact h
    · exact State.setChan_kept (State.reach_kept h)
  | wakeComplete => exact ⟨_, rfl, wakeComplete_kept h⟩
  | earlyWake => exact ⟨_, rfl, earlyWake_kept h⟩
  | coreMoveComplete => exact ⟨_, rfl, coreMoved_kept h⟩
  | eachUsOfMt => exact ⟨_, rfl, eachUsOfMt_kept h⟩
  | tapAccess => exact ⟨_, rfl, tapAccess_kept h⟩

/-- Settles O4: a step is its command on the state with the queue's rest, whose tables are the same, and every command keeps the canonical form. -/
theorem everyStepKeepsCanonicalTables : Obligations.EveryStepKeepsCanonicalTables := by
  intro s t hs e
  unfold step at e
  split at e
  · exact Host.Outcome.next.inj e ▸ hs
  · next c rest _ =>
    obtain ⟨u, hu, k⟩ := exec_kept c (s.setPending rest)
    obtain rfl : u = t := Host.Outcome.next.inj (hu.symm.trans e)
    exact k.canon hs

/-- Settles O3: the tables of the reset state are empty. -/
theorem resetIsCanonical : Obligations.ResetIsCanonical := ⟨by decide, by decide⟩

end Sys2Proof.Machine
end

section
namespace Sys2Proof.Machine

open Sys2Proof

/-! ### The parts of the state, and commands that keep one of them -/

/-- The parts of the state that the frames over all commands speak of: memory, the cores, the path generators, the boot flash, the key slots, the
upload streams with the arrival windows, the DRAM controller's tables, the Gorge's tables, the power controller's records, and MT. -/
inductive Portion where
  | mem | cores | pgs | flash | keys | uploads | dram | gorge | power | mt

/-- What a part holds. -/
def Portion.Content : Portion → Type
  | .mem => List Host.Cell
  | .cores => List (Nat × Core)
  | .pgs => List (Nat × PgSt)
  | .flash => Flash
  | .keys => List (Nat × KeySlot)
  | .uploads => List (Nat × UpStream) × List (Nat × RxWin)
  | .dram => List (Nat × DramBank) × List (Nat × DramRank) × List (Nat × DramChan)
  | .gorge => List (Nat × GChan) × List GSave
  | .power => Holds × Wake × Vault × House
  | .mt => Nat

/-- The content of a part in a state. -/
def State.portion (s : State) : (p : Portion) → p.Content
  | .mem => s.mem
  | .cores => s.cores
  | .pgs => s.pgs
  | .flash => s.flash
  | .keys => s.keySlots
  | .uploads => (s.ups, s.wins)
  | .dram => (s.dramBanks, s.dramRanks, s.dramChans)
  | .gorge => (s.gorge, s.gorgeSaves)
  | .power => (s.holds, s.wake, s.vault, s.house)
  | .mt => s.mt

/-- From `a` to `s` part `p` has not changed. Below, one lemma per operation of the model: it keeps every part but those that its `Fact`s name. -/
structure Same (p : Portion) (a s : State) : Prop where
  eq : s.portion p = a.portion p

theorem Same.refl (p : Portion) (s : State) : Same p s s := ⟨rfl⟩

section

variable {p : Portion} {a s : State}

theorem Same.ite {x y : State} {c : Prop} {_ : Decidable c} (h : Same p a x) (k : Same p a y) : Same p a (if c then x else y) := by
  split <;> assumption

/-- A fold whose every step keeps the part. -/
theorem Same.foldl {α : Type} {l : List α} {f : State → α → State} (h : Same p a s) (hf : ∀ t x, Same p a t → Same p a (f t x)) :
    Same p a (l.foldl f s) := by
  induction l generalizing s with
  | nil => exact h
  | cons x l ih => exact ih (hf s x h)

theorem Same.forEach {α : Type} {l : List α} {f : α → State → State} (h : Same p a s) (hf : ∀ x t, Same p a t → Same p a (f x t)) :
    Same p a (forEach l f s) := h.foldl fun t x k => hf x t k

/-- The state that a pair carries, once the pair has been matched. -/
theorem Same.of_snd {α : Type} {x : α × State} {b : α} {t : State} (e : x = (b, t)) (h : Same p a x.2) : Same p a t := by
  rwa [e] at h

/-! ### The setters -/

theorem Same.setPending {v} (h : Same p a s) : Same p a (s.setPending v) := by cases p <;> exact ⟨h.eq⟩
theorem Same.setMt {v} (h : Same p a s) [Fact (p ≠ .mt)] : Same p a (s.setMt v) := by
  cases p with
  | mt => exact absurd rfl (Fact.out : Portion.mt ≠ .mt)
  | _ => exact ⟨h.eq⟩

theorem Same.setCw {v} (h : Same p a s) : Same p a (s.setCw v) := by cases p <;> exact ⟨h.eq⟩
theorem Same.setMem {v} (h : Same p a s) [Fact (p ≠ .mem)] : Same p a (s.setMem v) := by
  cases p with
  | mem => exact absurd rfl (Fact.out : Portion.mem ≠ .mem)
  | _ => exact ⟨h.eq⟩

theorem Same.setEccs {v} (h : Same p a s) : Same p a (s.setEccs v) := by cases p <;> exact ⟨h.eq⟩
theorem Same.setNet {v} (h : Same p a s) : Same p a (s.setNet v) := by cases p <;> exact ⟨h.eq⟩
theorem Same.setSeqs {v} (h : Same p a s) : Same p a (s.setSeqs v) := by cases p <;> exact ⟨h.eq⟩
theorem Same.setLines {v} (h : Same p a s) : Same p a (s.setLines v) := by cases p <;> exact ⟨h.eq⟩
theorem Same.setFreeCtr {v} (h : Same p a s) : Same p a (s.setFreeCtr v) := by cases p <;> exact ⟨h.eq⟩
theorem Same.setQueues {v} (h : Same p a s) : Same p a (s.setQueues v) := by cases p <;> exact ⟨h.eq⟩
theorem Same.setTb {v} (h : Same p a s) : Same p a (s.setTb v) := by cases p <;> exact ⟨h.eq⟩
theorem Same.setHts {v} (h : Same p a s) : Same p a (s.setHts v) := by cases p <;> exact ⟨h.eq⟩
theorem Same.setCols {v} (h : Same p a s) : Same p a (s.setCols v) := by cases p <;> exact ⟨h.eq⟩
theorem Same.setBasin {v} (h : Same p a s) : Same p a (s.setBasin v) := by cases p <;> exact ⟨h.eq⟩
theorem Same.setDale {v} (h : Same p a s) : Same p a (s.setDale v) := by cases p <;> exact ⟨h.eq⟩
theorem Same.setHeld {v} (h : Same p a s) : Same p a (s.setHeld v) := by cases p <;> exact ⟨h.eq⟩
theorem Same.setScrub {v} (h : Same p a s) : Same p a (s.setScrub v) := by cases p <;> exact ⟨h.eq⟩
theorem Same.setFanout {v} (h : Same p a s) : Same p a (s.setFanout v) := by cases p <;> exact ⟨h.eq⟩
theorem Same.setPassed {v} (h : Same p a s) : Same p a (s.setPassed v) := by cases p <;> exact ⟨h.eq⟩
theorem Same.setCores {v} (h : Same p a s) [Fact (p ≠ .cores)] : Same p a (s.setCores v) := by
  cases p with
  | cores => exact absurd rfl (Fact.out : Portion.cores ≠ .cores)
  | _ => exact ⟨h.eq⟩

theorem Same.setPgs {v} (h : Same p a s) [Fact (p ≠ .pgs)] : Same p a (s.setPgs v) := by
  cases p with
  | pgs => exact absurd rfl (Fact.out : Portion.pgs ≠ .pgs)
  | _ => exact ⟨h.eq⟩

theorem Same.setSets {v} (h : Same p a s) : Same p a (s.setSets v) := by cases p <;> exact ⟨h.eq⟩
theorem Same.setMaps {v} (h : Same p a s) : Same p a (s.setMaps v) := by cases p <;> exact ⟨h.eq⟩
theorem Same.setStares {v} (h : Same p a s) : Same p a (s.setStares v) := by cases p <;> exact ⟨h.eq⟩
theorem Same.setLoops {v} (h : Same p a s) : Same p a (s.setLoops v) := by cases p <;> exact ⟨h.eq⟩
theorem Same.setGateLog {v} (h : Same p a s) : Same p a (s.setGateLog v) := by cases p <;> exact ⟨h.eq⟩
theorem Same.setScs {v} (h : Same p a s) : Same p a (s.setScs v) := by cases p <;> exact ⟨h.eq⟩
theorem Same.setEncs {v} (h : Same p a s) : Same p a (s.setEncs v) := by cases p <;> exact ⟨h.eq⟩
theorem Same.setHalls {v} (h : Same p a s) : Same p a (s.setHalls v) := by cases p <;> exact ⟨h.eq⟩
theorem Same.setProbes {v} (h : Same p a s) : Same p a (s.setProbes v) := by cases p <;> exact ⟨h.eq⟩
theorem Same.setEmus {v} (h : Same p a s) : Same p a (s.setEmus v) := by cases p <;> exact ⟨h.eq⟩
theorem Same.setSlots {v} (h : Same p a s) : Same p a (s.setSlots v) := by cases p <;> exact ⟨h.eq⟩
theorem Same.setCsiSkip {v} (h : Same p a s) : Same p a (s.setCsiSkip v) := by cases p <;> exact ⟨h.eq⟩
theorem Same.setPipesOff {v} (h : Same p a s) : Same p a (s.setPipesOff v) := by cases p <;> exact ⟨h.eq⟩
theorem Same.setTaps {v} (h : Same p a s) : Same p a (s.setTaps v) := by cases p <;> exact ⟨h.eq⟩
theorem Same.setI2cs {v} (h : Same p a s) : Same p a (s.setI2cs v) := by cases p <;> exact ⟨h.eq⟩
theorem Same.setAuxs {v} (h : Same p a s) : Same p a (s.setAuxs v) := by cases p <;> exact ⟨h.eq⟩
theorem Same.setAuxMoves {v} (h : Same p a s) : Same p a (s.setAuxMoves v) := by cases p <;> exact ⟨h.eq⟩
theorem Same.setAuxStops {v} (h : Same p a s) : Same p a (s.setAuxStops v) := by cases p <;> exact ⟨h.eq⟩
theorem Same.setAuxNext {v} (h : Same p a s) : Same p a (s.setAuxNext v) := by cases p <;> exact ⟨h.eq⟩
theorem Same.setLanes {v} (h : Same p a s) : Same p a (s.setLanes v) := by cases p <;> exact ⟨h.eq⟩
theorem Same.setLinks {v} (h : Same p a s) : Same p a (s.setLinks v) := by cases p <;> exact ⟨h.eq⟩
theorem Same.setKeySlots {v} (h : Same p a s) [Fact (p ≠ .keys)] : Same p a (s.setKeySlots v) := by
  cases p with
  | keys => exact absurd rfl (Fact.out : Portion.keys ≠ .keys)
  | _ => exact ⟨h.eq⟩

theorem Same.setWins {v} (h : Same p a s) [Fact (p ≠ .uploads)] : Same p a (s.setWins v) := by
  cases p with
  | uploads => exact absurd rfl (Fact.out : Portion.uploads ≠ .uploads)
  | _ => exact ⟨h.eq⟩

theorem Same.setUps {v} (h : Same p a s) [Fact (p ≠ .uploads)] : Same p a (s.setUps v) := by
  cases p with
  | uploads => exact absurd rfl (Fact.out : Portion.uploads ≠ .uploads)
  | _ => exact ⟨h.eq⟩

theorem Same.setPtp {v} (h : Same p a s) : Same p a (s.setPtp v) := by cases p <;> exact ⟨h.eq⟩
theorem Same.setHost {v} (h : Same p a s) : Same p a (s.setHost v) := by cases p <;> exact ⟨h.eq⟩
theorem Same.setDramBanks {v} (h : Same p a s) [Fact (p ≠ .dram)] : Same p a (s.setDramBanks v) := by
  cases p with
  | dram => exact absurd rfl (Fact.out : Portion.dram ≠ .dram)
  | _ => exact ⟨h.eq⟩

theorem Same.setDramRanks {v} (h : Same p a s) [Fact (p ≠ .dram)] : Same p a (s.setDramRanks v) := by
  cases p with
  | dram => exact absurd rfl (Fact.out : Portion.dram ≠ .dram)
  | _ => exact ⟨h.eq⟩

theorem Same.setDramChans {v} (h : Same p a s) [Fact (p ≠ .dram)] : Same p a (s.setDramChans v) := by
  cases p with
  | dram => exact absurd rfl (Fact.out : Portion.dram ≠ .dram)
  | _ => exact ⟨h.eq⟩

theorem Same.setRaaimt {v} (h : Same p a s) : Same p a (s.setRaaimt v) := by cases p <;> exact ⟨h.eq⟩
theorem Same.setRaammt {v} (h : Same p a s) : Same p a (s.setRaammt v) := by cases p <;> exact ⟨h.eq⟩
theorem Same.setGorge {v} (h : Same p a s) [Fact (p ≠ .gorge)] : Same p a (s.setGorge v) := by
  cases p with
  | gorge => exact absurd rfl (Fact.out : Portion.gorge ≠ .gorge)
  | _ => exact ⟨h.eq⟩

theorem Same.setGorgeSaves {v} (h : Same p a s) [Fact (p ≠ .gorge)] : Same p a (s.setGorgeSaves v) := by
  cases p with
  | gorge => exact absurd rfl (Fact.out : Portion.gorge ≠ .gorge)
  | _ => exact ⟨h.eq⟩

theorem Same.setHolds {v} (h : Same p a s) [Fact (p ≠ .power)] : Same p a (s.setHolds v) := by
  cases p with
  | power => exact absurd rfl (Fact.out : Portion.power ≠ .power)
  | _ => exact ⟨h.eq⟩

theorem Same.setWake {v} (h : Same p a s) [Fact (p ≠ .power)] : Same p a (s.setWake v) := by
  cases p with
  | power => exact absurd rfl (Fact.out : Portion.power ≠ .power)
  | _ => exact ⟨h.eq⟩

theorem Same.setVault {v} (h : Same p a s) [Fact (p ≠ .power)] : Same p a (s.setVault v) := by
  cases p with
  | power => exact absurd rfl (Fact.out : Portion.power ≠ .power)
  | _ => exact ⟨h.eq⟩

theorem Same.setHouse {v} (h : Same p a s) [Fact (p ≠ .power)] : Same p a (s.setHouse v) := by
  cases p with
  | power => exact absurd rfl (Fact.out : Portion.power ≠ .power)
  | _ => exact ⟨h.eq⟩

theorem Same.setFlash {v} (h : Same p a s) [Fact (p ≠ .flash)] : Same p a (s.setFlash v) := by
  cases p with
  | flash => exact absurd rfl (Fact.out : Portion.flash ≠ .flash)
  | _ => exact ⟨h.eq⟩

theorem Same.setKeyHashes {v} (h : Same p a s) : Same p a (s.setKeyHashes v) := by cases p <;> exact ⟨h.eq⟩
theorem Same.setBoot {v} (h : Same p a s) : Same p a (s.setBoot v) := by cases p <;> exact ⟨h.eq⟩

theorem Same.setWord {a' w} (h : Same p a s) : Same p a (s.setWord a' w) := h.setCw

theorem Same.setF {f i v} (h : Same p a s) : Same p a (s.setF f i v) := h.setWord

theorem Same.setFi {f i v} (h : Same p a s) : Same p a (s.setFi f i v) := h.setF

/-! ### Machine/Ops -/

theorem Same.incF {f i n} (h : Same p a s) : Same p a (s.incF f i n) := h.setF

theorem Same.ecAdd {i n} (h : Same p a s) : Same p a (s.ecAdd i n) := .ite h.setF.setWord h.setF

theorem Same.event {e t' n} (h : Same p a s) : Same p a (s.event e t' n) := .ite h (h.foldl (fun _ _ k1 => .ite k1.ecAdd k1))

theorem Same.raiseRec {r} (h : Same p a s) : Same p a (s.raiseRec r) := h.setLines

theorem Same.raise {cls source unit src rtype d0 d1} (h : Same p a s) : Same p a (s.raise cls source unit src rtype d0 d1) := h.raiseRec

theorem Same.critical {source unit src d0} (h : Same p a s) : Same p a (s.critical source unit src d0) := h.raise

theorem Same.severe {source unit src d0} (h : Same p a s) : Same p a (s.severe source unit src d0) := h.raise

theorem Same.warn {source unit src d0} (h : Same p a s) : Same p a (s.warn source unit src d0) := h.raise

theorem Same.info {source unit src d0} (h : Same p a s) : Same p a (s.info source unit src d0) := h.raise

theorem Same.setByte {a' b} (h : Same p a s) [Fact (p ≠ .mem)] : Same p a (s.setByte a' b) := h.setMem

theorem Same.setBytes {l} (h : Same p a s) [Fact (p ≠ .mem)] {x} : Same p a (s.setBytes x l) := by
  induction l generalizing s x with
  | nil => exact h
  | cons b l ih => exact ih h.setByte

theorem Same.setEcc {a' m} (h : Same p a s) : Same p a (s.setEcc a' m) := h.setEccs

theorem Same.st {a' w} (h : Same p a s) [Fact (p ≠ .mem)] : Same p a (s.st a' w) := h.setBytes.setEcc

theorem Same.sts {l} (h : Same p a s) [Fact (p ≠ .mem)] {x} : Same p a (s.sts x l) := by
  induction l generalizing s x with
  | nil => exact h
  | cons w l ih =>
    unfold State.sts
    exact ih h.st

theorem Same.send {t'} (h : Same p a s) : Same p a (s.send t') := h.setNet.setSeqs

theorem Same.sendMsg {src dest kind stream l} (h : Same p a s) : Same p a (s.sendMsg src dest kind stream l) := by
  induction l generalizing s with
  | nil => exact h
  | cons w l ih =>
    cases l with
    | nil =>
      unfold State.sendMsg
      exact h.send
    | cons v l => exact ih h.send

theorem Same.deliver {ep t'} (h : Same p a s) : Same p a (s.deliver ep t') := h.setNet.event

theorem Same.deliverAll {ep ts} (h : Same p a s) : Same p a (s.deliverAll ep ts) := h.foldl (fun _ _ k1 => k1.deliver)

theorem Same.absorb {ep t'} (h : Same p a s) : Same p a (s.absorb ep t') := .ite h.info h

theorem Same.refuse {ep t' code} (h : Same p a s) : Same p a (s.refuse ep t' code) := .ite h.absorb h.send.info

theorem Same.respond {ep t' payload} (h : Same p a s) : Same p a (s.respond ep t' payload) := h.send

theorem Same.warnAccess {ep src addr} (h : Same p a s) : Same p a (s.warnAccess ep src addr) := h.raise

theorem Same.arrive {ep ts act} (h : Same p a s) (hact : ∀ t, Same p a t → Same p a (act t)) : Same p a (s.arrive ep ts act) := by
  unfold State.arrive
  split
  · exact h
  · exact .ite (hact _ h.deliverAll) (.ite h.deliverAll.absorb (.ite h.deliverAll.refuse.warnAccess h.deliverAll.refuse))

theorem Same.whenDue {ts act} (h : Same p a s) (hact : ∀ t, Same p a t → Same p a (act t)) : Same p a (s.whenDue ts act) := by
  unfold State.whenDue
  split
  · exact h
  · exact .ite h.setHeld (hact _ h)

theorem Same.reach {t'} (h : Same p a s) [Fact (p ≠ .mt)] : Same p a (s.reach t') := h.setMt

theorem Same.free (h : Same p a s) : Same p a s.free.2 := h.setFreeCtr

theorem Same.setQueue {n q} (h : Same p a s) : Same p a (s.setQueue n q) := h.setQueues

theorem Same.setCol {n c} (h : Same p a s) : Same p a (s.setCol n c) := h.setCols

theorem Same.setHt {n h'} (h : Same p a s) : Same p a (s.setHt n h') := h.setHts

theorem Same.mirrorRecord {w} (h : Same p a s) : Same p a (s.mirrorRecord w) := .ite h (Same.setF (h.foldl (fun _ _ k1 => k1.setF)))

theorem Same.daleRecord {r real inj} (h : Same p a s) [Fact (p ≠ .mem)] : Same p a (s.daleRecord r real inj) :=
  .ite (.ite h.setDale.mirrorRecord.incF.setF.event.setDale.warn h.setDale.mirrorRecord.incF.setF.event) h.setDale.mirrorRecord.sts.setF.setF.event

theorem Same.record7 {source rtype unit src d0 d1 mt} (h : Same p a s) [Fact (p ≠ .mem)] : Same p a (s.record7 source rtype unit src d0 d1 mt) :=
  h.daleRecord

theorem Same.noteGates (h : Same p a s) : Same p a s.noteGates := h.setGateLog

theorem Same.setMapSt {n m} (h : Same p a s) : Same p a (s.setMapSt n m) := h.setMaps

/-! ### Machine/CorrMap -/

theorem Same.mapNextEffect {n at_} (h : Same p a s) : Same p a (mapNextEffect n at_ s) := h.setF.setF.setMapSt

theorem Same.mapCheckDone {n} (h : Same p a s) : Same p a (mapCheckDone n s) := .ite (.ite h.setMapSt.setF h.setMapSt.setF.setF.setF.warn) h

theorem Same.mapTake {n} (h : Same p a s) : Same p a (mapTake n s) := h.setF.setF.setF.setWord.setMapSt.info

theorem Same.regPend {n} (h : Same p a s) : Same p a (regPend n s) := h.setF

theorem Same.regStep {n layer} (h : Same p a s) [Fact (p ≠ .mem)] : Same p a (regStep n layer s) := .ite h h.setFi.setFi.regPend.record7

theorem Same.setPg {n q} (h : Same p a s) [Fact (p ≠ .pgs)] : Same p a (s.setPg n q) := h.setPgs

theorem Same.setPgState {n st} (h : Same p a s) : Same p a (s.setPgState n st) := h.setF

/-! ### Machine/PathState -/

theorem Same.windowDone {n k} (h : Same p a s) [Fact (p ≠ .mem)] : Same p a (s.windowDone n k) := h.st

theorem Same.queueRecord {n ws} (h : Same p a s) [Fact (p ≠ .pgs)] : Same p a (s.queueRecord n ws) := .ite h.setPg h.setF.incF.info

theorem Same.closePart {n toff x flags edge} (h : Same p a s) [Fact (p ≠ .pgs)] : Same p a (s.closePart n toff x flags edge) := by
  unfold State.closePart
  extract_lets +onlyGivenNames q1
  split
  · exact h
  · exact .ite h.setPg.queueRecord h.setPg

theorem Same.noEmitRecord {n v} (h : Same p a s) [Fact (p ≠ .pgs)] : Same p a (s.noEmitRecord n v) := .ite h.queueRecord h

theorem Same.openPart {n ton v x flags} (h : Same p a s) [Fact (p ≠ .pgs)] : Same p a (s.openPart n ton v x flags) := h.setSets.setPg

theorem Same.gateOff {n t' vid} (h : Same p a s) : Same p a (s.gateOff n t' vid) := h.send

theorem Same.stopRamp {n} (h : Same p a s) [Fact (p ≠ .pgs)] : Same p a (s.stopRamp n) := by
  unfold State.stopRamp
  extract_lets +onlyGivenNames q1 t1 keep1
  split
  · exact h.setPg
  · exact h.setPg

theorem Same.cancelLooks {n} (h : Same p a s) [Fact (p ≠ .pgs)] : Same p a (s.cancelLooks n) := by
  unfold State.cancelLooks
  refine Same.foldl h ?_
  intro _ _ k1
  split
  · exact .ite k1.setPg.setF.setF k1
  · exact k1

theorem Same.windowTo {n k m} (h : Same p a s) [Fact (p ≠ .mem)] [Fact (p ≠ .pgs)] :
    Same p a (s.windowTo n k m) := by
  induction m generalizing s with
  | zero => exact h
  | succ m ih => exact .ite h (ih h.windowDone.setF.setPg)

theorem Same.leaveWindows {n} (h : Same p a s) [Fact (p ≠ .mem)] [Fact (p ≠ .pgs)] : Same p a (s.leaveWindows n) := by
  unfold State.leaveWindows
  refine .ite h ?_
  split
  · exact h.windowTo
  · exact h.windowTo

theorem Same.uncount {n} (h : Same p a s) [Fact (p ≠ .pgs)] : Same p a (s.uncount n) := .ite h.setPg h

theorem Same.suspend {n cause ofs vid dist modal} (h :
    Same p a s) [Fact (p ≠ .mem)] [Fact (p ≠ .pgs)] : Same p a (s.suspend n cause ofs vid dist modal) :=
  h.leaveWindows.setSets.cancelLooks.setPg.setF.setF.setF.setF.setPgState.record7.send

theorem Same.suspendNow {n cause stop} (h : Same p a s) [Fact (p ≠ .mem)] [Fact (p ≠ .pgs)] : Same p a (s.suspendNow n cause stop) := by
  unfold State.suspendNow
  refine .ite h ?_
  extract_lets +onlyGivenNames q1 modal1 ofs1
  split
  · exact Same.suspend (Same.stopRamp (Same.uncount (.ite h.gateOff.closePart h)))
  · exact h.uncount.stopRamp.suspend

theorem Same.suspendAll {cause} (h : Same p a s) [Fact (p ≠ .mem)] [Fact (p ≠ .pgs)] : Same p a (s.suspendAll cause) :=
  h.foldl (fun _ _ k1 => k1.suspendNow)

theorem Same.pgRefused {n} (h : Same p a s) : Same p a (s.pgRefused n) := h.setF.info

/-! ### Machine/Plan -/

theorem Same.markError {n ofs} (h : Same p a s) [Fact (p ≠ .pgs)] : Same p a (s.markError n ofs) := by
  unfold State.markError
  extract_lets +onlyGivenNames q1 before1
  split
  · exact h
  · exact h.setPg

theorem Same.closeVec {n} (h : Same p a s) [Fact (p ≠ .pgs)] : Same p a (s.closeVec n) := by
  unfold State.closeVec
  extract_lets +onlyGivenNames q1
  split
  · exact h
  · exact .ite h.markError h.setPg

theorem Same.planError {n ofs op} (h : Same p a s) [Fact (p ≠ .pgs)] : Same p a (s.planError n ofs op) := h.closeVec.setPg

theorem Same.freeJumps {n} (h : Same p a s) [Fact (p ≠ .pgs)] : Same p a (s.freeJumps n) := h.setPg

theorem Same.addItem {n ofs op m0 m1 p0 v t0 t1} (h : Same p a s) [Fact (p ≠ .pgs)] : Same p a (s.addItem n ofs op m0 m1 p0 v t0 t1) := h.setPg

theorem Same.planJump {n ofs op b} (h : Same p a s) [Fact (p ≠ .pgs)] : Same p a (s.planJump n ofs op b) :=
  .ite h.closeVec.freeJumps.planError (Same.addItem (Same.setPg (.ite h.closeVec.freeJumps.setF.incF h.closeVec.freeJumps)))

theorem Same.planCorner {n ofs op v} (h : Same p a s) [Fact (p ≠ .pgs)] : Same p a (State.planCorner n ofs op v s) :=
  .ite h (.ite h.planError h.setPg.addItem)

theorem Same.planResume {n ofs op v old x} (h : Same p a s) [Fact (p ≠ .pgs)] : Same p a (s.planResume n ofs op v old x) :=
  .ite h.planError h.setPg.addItem

theorem Same.planVector {n ofs op g} (h : Same p a s) [Fact (p ≠ .pgs)] : Same p a (s.planVector n ofs op g) := by
  unfold State.planVector
  extract_lets +onlyGivenNames q1 m1 len1 cands1 shared1 v1 zOnly1 outside1
  refine .ite h.planError ?_
  refine .ite h.addItem ?_
  split
  · exact h.planResume
  · split
    · exact .ite h.setPg.addItem h.closeVec.planCorner
    · exact h.planCorner

theorem Same.planOp {n ofs op lastWindow lastInstr} (h : Same p a s) [Fact (p ≠ .pgs)] : Same p a (s.planOp n ofs op lastWindow lastInstr) := by
  unfold State.planOp
  extract_lets +onlyGivenNames q1 at_1 rel1
  split
  · exact h.planError
  · exact h.planJump
  · exact h.planJump
  · exact h.planVector
  · exact h.planVector
  · exact .ite h.planError h.planVector
  · exact .ite h.planError h.addItem
  · exact .ite h.closeVec.freeJumps h.closeVec.freeJumps.setPg.addItem
  · exact .ite h.closeVec.freeJumps h.closeVec.freeJumps.addItem
  · exact .ite h.planError (.ite h.closeVec.freeJumps h.closeVec.freeJumps.setPg.addItem)
  · exact .ite (.ite h.closeVec.freeJumps h) (Same.addItem (.ite h.closeVec.freeJumps h))
  · exact h.addItem

theorem Same.planStep {n} (h : Same p a s) [Fact (p ≠ .pgs)] : Same p a (planStep n s) := by
  unfold Machine.planStep
  extract_lets +onlyGivenNames k1 d1 q01 q1 s1
  have h1 : Same p a s1 := h.setPg
  refine .ite h1 ?_
  refine .ite ?_ (.ite h1.planError (.ite h1.planError (.ite (.ite h1.planError h1.setF.setPg) (.ite h1.planError h1.setPg.planOp))))
  split
  · exact .ite h1.closeVec h1
  · exact h1

theorem Same.trace {n g} (h : Same p a s) [Fact (p ≠ .mem)] : Same p a (s.trace n g) := .ite h.sts.setF h

theorem Same.segmentCommit {n} (h : Same p a s) [Fact (p ≠ .mem)] [Fact (p ≠ .pgs)] [Fact (p ≠ .mt)] : Same p a (segmentCommit n s) := by
  unfold Machine.segmentCommit
  extract_lets +onlyGivenNames q1
  split
  · exact h
  · exact .ite h.reach.setPg.trace (.ite h.setPg.setF.info h)

/-! ### Machine/Path -/

theorem Same.exposures {n upTo k} (h : Same p a s) [Fact (p ≠ .pgs)] : Same p a (s.exposures n upTo k) := by
  induction k generalizing s with
  | zero => exact h
  | succ k ih =>
    unfold State.exposures
    dsimp only
    split
    · exact h
    · exact .ite h (ih (.ite h.setPg h.setPg.send))

theorem Same.startTrig {n t'} (h : Same p a s) [Fact (p ≠ .pgs)] : Same p a (s.startTrig n t') := by
  unfold State.startTrig
  extract_lets +onlyGivenNames q1
  split
  · exact .ite h.setPg h
  · exact h.setPg

theorem Same.sendSet {n tc l} (h : Same p a s) : Same p a (s.sendSet n tc l) := h.foldl (fun _ _ k1 => k1.send)

theorem Same.setPoint {n tc x t} (h : Same p a s) (e : s.setPoint n tc x = some t) [Fact (p ≠ .pgs)] : Same p a t := by
  unfold State.setPoint at e
  split at e
  · cases e
  · obtain rfl := Option.some.inj e
    exact .ite h.sendSet.setPg.setFi.setFi.setFi.setF.warn h.sendSet.setPg.setFi.setFi.setFi

theorem Same.mapPoisoned {n tc} (h : Same p a s) [Fact (p ≠ .mem)] [Fact (p ≠ .pgs)] : Same p a (s.mapPoisoned n tc) :=
  .ite h.sendSet.setPg h.sendSet.setPg.severe.suspendNow

theorem Same.interpolate {n} (h : Same p a s) [Fact (p ≠ .mem)] [Fact (p ≠ .pgs)]
    [Fact (p ≠ .mt)] : Same p a (interpolate n s) := by
  refine .ite h ?_
  extract_lets tc t x u
  have k : Same p a u := .ite h.reach.exposures h.reach
  refine .ite k.mapPoisoned ?_
  split
  · next e => exact k.setPoint e
  · exact k.mapPoisoned

theorem Same.powerTarget {n t'} (h : Same p a s) [Fact (p ≠ .pgs)] : Same p a (powerTarget n t' s) := .ite h (.ite h h.send.setPg)

theorem Same.gateRefused {n v} (h : Same p a s) [Fact (p ≠ .mem)] [Fact (p ≠ .pgs)] : Same p a (s.gateRefused n v) :=
  h.setF.severe.uncount.stopRamp.suspend

theorem Same.gateOn {n e c} (h : Same p a s) [Fact (p ≠ .mem)] [Fact (p ≠ .pgs)] : Same p a (s.gateOn n e c) :=
  .ite h.send.setPg.openPart.startTrig.exposures h.gateRefused

theorem Same.gateOffAt {n e c} (h : Same p a s) [Fact (p ≠ .pgs)] : Same p a (s.gateOffAt n e c) :=
  .ite h.send.setPg.setF.closePart.warn h.send.setPg.setF.closePart

theorem Same.gateJoint {n e c} (h : Same p a s) [Fact (p ≠ .pgs)] : Same p a (s.gateJoint n e c) := h.setPg.closePart.openPart

theorem Same.decideEdges {n m k} (h : Same p a s) [Fact (p ≠ .mem)] [Fact (p ≠ .pgs)] :
    Same p a (s.decideEdges n m k) := by
  induction k generalizing s with
  | zero => exact h
  | succ k ih =>
    unfold State.decideEdges
    dsimp only
    split
    · exact h
    · split
      · exact h
      · exact .ite h (.ite (.ite (ih h.setPg.gateOn) h.setPg.gateOn) (.ite (ih h.setPg.gateOffAt) (ih h.setPg.gateJoint)))

theorem Same.gateError {n} (h : Same p a s) [Fact (p ≠ .mem)] [Fact (p ≠ .pgs)] : Same p a (s.gateError n) := h.setPg.setF.severe.suspendNow

theorem Same.badSample {n} (h : Same p a s) [Fact (p ≠ .mem)] [Fact (p ≠ .pgs)] : Same p a (s.badSample n) := .ite h.gateError h.setPg

theorem Same.gateCheck {n m} (h : Same p a s) [Fact (p ≠ .mem)] [Fact (p ≠ .pgs)] : Same p a (s.gateCheck n m) := by
  unfold State.gateCheck
  split
  · exact h
  · exact .ite h.setF.setPg.badSample h.setF.setPg.setPg

theorem Same.gatePair {n x y} (h : Same p a s) [Fact (p ≠ .mem)] [Fact (p ≠ .pgs)] : Same p a (s.gatePair n x y) := by
  unfold State.gatePair
  extract_lets +onlyGivenNames q1 p1
  split
  · exact .ite h.badSample h
  · exact .ite h.setPg.gateCheck.decideEdges h.setPg.gateCheck

theorem Same.gateSample {n toks} (h : Same p a s) [Fact (p ≠ .mem)] [Fact (p ≠ .pgs)] : Same p a (gateSample n toks s) := by
  unfold Machine.gateSample
  refine Same.arrive h ?_
  intro _ k1
  split
  · exact k1
  · refine .ite (k1.foldl (fun _ _ k3 => k3.refuse)) ?_
    split
    · exact k1.refuse
    · extract_lets +onlyGivenNames q7 q8 s4
      have h4 : Same p a s4 := k1.setPg
      split
      · exact .ite h4.gatePair h4
      · exact h4

theorem Same.sampleMissing {n} (h : Same p a s) [Fact (p ≠ .mem)] [Fact (p ≠ .pgs)] : Same p a (sampleMissing n s) := by
  unfold Machine.sampleMissing
  extract_lets +onlyGivenNames q1
  refine .ite h ?_
  extract_lets +onlyGivenNames s1
  have h1 : Same p a s1 := .ite h.badSample h
  split
  · exact h1
  · exact .ite h1 (.ite h1.gateRefused (.ite h1.gateOff.setPg.closePart.warn h1.setPg.closePart.openPart))

theorem Same.setTrk {n ax x} (h : Same p a s) [Fact (p ≠ .pgs)] : Same p a (s.setTrk n ax x) := h.setPg

theorem Same.setTarget {n ax v} (h : Same p a s) [Fact (p ≠ .pgs)] : Same p a (s.setTarget n ax v) :=
  .ite (Same.incF (Same.setF (Same.setTrk (.ite h.setF h)))) (Same.setTrk (.ite h.setF h))

theorem Same.trackingAct {n t'} (h : Same p a s) [Fact (p ≠ .pgs)] : Same p a (trackingAct n t' s) :=
  .ite h.setTarget.setTarget (.ite h.setTarget h.setF.info)

theorem Same.trackingTarget {n t'} (h : Same p a s) [Fact (p ≠ .pgs)] : Same p a (trackingTarget n t' s) :=
  h.arrive (fun _ k1 => .ite k1.refuse (k1.whenDue (fun _ k2 => k2.trackingAct)))

theorem Same.trkAdvance {n ax} (h : Same p a s) [Fact (p ≠ .pgs)] : Same p a (s.trkAdvance n ax) :=
  .ite (Same.warn (Same.setF (.ite h.setTrk.setF h.setTrk)))
    (.ite (Same.severe (Same.setF (.ite h.setTrk.setF h.setTrk))) (.ite h.setTrk.setF h.setTrk))

theorem Same.trackingCycle {n} (h : Same p a s) [Fact (p ≠ .mem)] [Fact (p ≠ .pgs)]
    [Fact (p ≠ .mt)] : Same p a (trackingCycle n s) := by
  refine .ite h ?_
  extract_lets tc t u x y z fx k _ v wait v' v''
  have hv : Same p a v'' := h.reach.trkAdvance.trkAdvance.trkAdvance.setPg.setF.setF
  split
  · next e => exact hv.setPoint e
  · exact hv.mapPoisoned

theorem Same.trkEnCleared {n} (h : Same p a s) [Fact (p ≠ .pgs)] : Same p a (trkEnCleared n s) := h.setPg

theorem Same.setLoop {l x} (h : Same p a s) : Same p a (s.setLoop l x) := h.setLoops

/-! ### Machine/Servo -/

theorem Same.loadUpdate (h : Same p a s) : Same p a s.loadUpdate := .ite h.setF.setF.setF.severe h.setF.setF.setF

theorem Same.saveStates {l} (h : Same p a s) [Fact (p ≠ .mem)] : Same p a (s.saveStates l) := h.sts

theorem Same.applySet {l} (h : Same p a s) : Same p a (s.applySet l) := by
  unfold State.applySet
  extract_lets +onlyGivenNames x1
  split
  · exact h
  · exact h.setLoop.setF.setF.loadUpdate.info

theorem Same.applyTable {l} (h : Same p a s) : Same p a (s.applyTable l) := h.setF.setF.setWord.setLoop

theorem Same.applyPending {l t'} (h : Same p a s) : Same p a (s.applyPending l t') := by
  unfold State.applyPending
  extract_lets +onlyGivenNames s1
  have h1 : Same p a s1 := by
    unfold s1
    split
    · exact .ite h.applySet h
    · exact h
  split
  · exact .ite h1.applyTable h1
  · exact h1

theorem Same.coefAccept {l toks} (h : Same p a s) : Same p a (coefAccept l toks s) := by
  unfold Machine.coefAccept
  extract_lets +onlyGivenNames t1 refuse1
  have hrefuse1 : ∀ t, Same p a t → Same p a (refuse1 t) := fun _ k1 => k1.setF.refuse
  split
  · exact hrefuse1 _ h
  · exact .ite (hrefuse1 _ h.setF) (.ite h.setLoop.setF.applySet h.setLoop.setF.loadUpdate)

theorem Same.coefficientSet {l toks} (h : Same p a s) : Same p a (coefficientSet l toks s) := by
  unfold Machine.coefficientSet
  refine Same.arrive h ?_
  intro _ k1
  split
  · exact k1.refuse
  · split
    · exact k1.refuse
    · exact k1.coefAccept

theorem Same.setpointAccept {l t'} (h : Same p a s) : Same p a (setpointAccept l t' s) :=
  .ite h (h.arrive (fun _ k1 => .ite k1.refuse (.ite k1.refuse (.ite k1.refuse k1.setLoop))))

theorem Same.takeTrig {c tc} (h : Same p a s) : Same p a (s.takeTrig c tc) := by
  unfold State.takeTrig
  split
  · exact h.deliver
  · exact h

theorem Same.abandoned {l tc p'} (h : Same p a s) : Same p a (s.abandoned l tc p') :=
  .ite h.setLoop (.ite h.setLoop.setF.incF.incF.severe h.setLoop.setF.incF.incF.warn)

theorem Same.cycleSetpt {l tc p' pos vel acc} (h : Same p a s) : Same p a ((((s.cycleSetpt l tc p' pos vel acc).2).2).2) := by
  unfold State.cycleSetpt
  extract_lets +onlyGivenNames x1 r1 s1
  have h1 : Same p a s1 := h.setLoop
  split
  · split
    · exact h1
    · exact h1.setF.incF.warn
  · exact h1.setF.incF.warn

theorem Same.cycleCore {l e uff lo hi base} (h : Same p a s) : Same p a ((s.cycleCore l e uff lo hi base).2) :=
  Same.setFi (Same.setFi (.ite h.setLoop.setF.incF h.setLoop))

theorem Same.etolCheck {l err cls} (h : Same p a s) : Same p a (s.etolCheck l err cls) := .ite h.setLoop (.ite h.setLoop.setF.raise h.setLoop)

theorem Same.sendGalvo {l t' mode u} (h : Same p a s) : Same p a (s.sendGalvo l t' mode u) := h.send

theorem Same.cycleMeasure {l tc p'} (h : Same p a s) : Same p a (((s.cycleMeasure l tc p').2).2) := by
  unfold State.cycleMeasure
  extract_lets +onlyGivenNames x1
  split
  · exact h.setLoop
  · exact .ite h.setLoop.setF.incF.warn.severe h.setLoop.setF.incF.warn

theorem Same.noMeasure {l} (h : Same p a s) : Same p a (s.noMeasure l) := .ite h.setF h.setF.setLoop.setF.warn

theorem Same.galvoCycle {l tc} (h : Same p a s) [Fact (p ≠ .mem)] [Fact (p ≠ .mt)] : Same p a (galvoCycle l tc s) := by
  unfold Machine.galvoCycle
  extract_lets +onlyGivenNames p1
  refine .ite h ?_
  extract_lets +onlyGivenNames s1
  have h1 : Same p a s1 := h.reach.takeTrig.abandoned
  extract_lets +onlyGivenNames s2
  have h2 : Same p a s2 := h1.applyPending
  extract_lets +onlyGivenNames x1
  exact .ite h2.noMeasure.sendGalvo (Same.sendGalvo
      (Same.saveStates (Same.etolCheck
      (Same.setF (Same.setF (Same.setLoop (Same.cycleCore (Same.cycleSetpt (Same.cycleMeasure (.ite h2 h2.setLoop))))))))))

theorem Same.sendPower {n u} (h : Same p a s) : Same p a (s.sendPower n u) := h.send

theorem Same.powerCycle {n} (h : Same p a s) [Fact (p ≠ .mem)] [Fact (p ≠ .pgs)] : Same p a (powerCycle n s) := by
  unfold Machine.powerCycle
  extract_lets +onlyGivenNames l1 x1
  split
  · exact h
  · extract_lets +onlyGivenNames s12
    have h12 : Same p a s12 := h.setLoop
    refine .ite h12 ?_
    extract_lets +onlyGivenNames s13
    have h13 : Same p a s13 := h12.applyPending
    extract_lets +onlyGivenNames x6 x7 x8 s14
    have h14 : Same p a s14 := h13.setLoop
    extract_lets +onlyGivenNames told2 t2 _ s15
    have h15 : Same p a s15 := .ite h14 h14.setLoop
    extract_lets +onlyGivenNames tp2 omax2 cmax2 _ _ s17 s18 _ _ _ _ _ _ _ _ _ s19 s20 s21 s16
    have h17 : Same p a s17 := h15.setLoop
    have h18 : Same p a s18 := h17.setF.setFi
    have h19 : Same p a s19 := h15.setLoop
    have h20 : Same p a s20 := .ite h19.setF.incF h19
    have h21 : Same p a s21 := h20.setF.setFi.setFi
    have h16 : Same p a s16 := .ite h18 h21.etolCheck
    extract_lets +onlyGivenNames x9 q2 s22
    have h22 : Same p a s22 := by
      unfold s22
      split
      · exact .ite h16.setPg h16
      · exact h16
    exact h22.saveStates.sendPower

theorem Same.outputStage {n} (h : Same p a s) : Same p a (s.outputStage n) := .ite h h.setLoop.setFi.sendPower

theorem Same.setTrim {n v} (h : Same p a s) : Same p a (s.setTrim n v) := Same.outputStage (.ite h h.setF.setLoop)

theorem Same.trimAct {n t'} (h : Same p a s) : Same p a (trimAct n t' s) := .ite h.refuse h.setTrim

theorem Same.ctrimSet {n t'} (h : Same p a s) : Same p a (ctrimSet n t' s) :=
  h.arrive (fun _ k1 => .ite k1.refuse (.ite k1.refuse (.ite k1.refuse (.ite k1.refuse (k1.whenDue (fun _ k2 => k2.trimAct))))))

theorem Same.pairMissing {n} (h : Same p a s) [Fact (p ≠ .mt)] : Same p a (pairMissing n s) := by
  unfold Machine.pairMissing
  extract_lets +onlyGivenNames l1 x1
  split
  · exact h
  · exact .ite h h.reach.setLoop.setF.incF.warn

theorem Same.loopCfgRefused {l old} (h : Same p a s) : Same p a (loopCfgRefused l old s) := .ite h.setF h

theorem Same.lastOutput {l} (h : Same p a s) : Same p a (s.lastOutput l) := .ite h.sendGalvo (.ite h.sendPower h)

theorem Same.loopCfgEffect {l old} (h : Same p a s) : Same p a (loopCfgEffect l old s) :=
  .ite h.setLoop.setF.loadUpdate (.ite h.lastOutput.setF.setF.loadUpdate h)

theorem Same.fftnRefused {l} (h : Same p a s) : Same p a (fftnRefused l s) := h.setF

theorem Same.fftnEffect {l} (h : Same p a s) : Same p a (fftnEffect l s) := h.setF.setLoop

theorem Same.fftCopyDone {l} (h : Same p a s) : Same p a (fftCopyDone l s) := .ite h (.ite h.setLoop.setF.applyTable h.setLoop.setF)

theorem Same.servoBarrier {t' l} (h : Same p a s) : Same p a (servoBarrier t' s l) := by
  unfold Machine.servoBarrier
  extract_lets +onlyGivenNames x1 s1
  have h1 : Same p a s1 := by
    unfold s1
    split
    · exact h.setLoop
    · exact h
  extract_lets +onlyGivenNames x2 s2
  have h2 : Same p a s2 := by
    unfold s2
    split
    · exact .ite h1.setLoop h1.info
    · exact h1
  exact .ite h2 h2.applyPending

theorem Same.servoSync (h : Same p a s) : Same p a (servoSync s) := h.foldl (fun _ _ k1 => .ite k1 k1.applyPending)

theorem Same.setUnit {k st} (h : Same p a s) : Same p a (s.setUnit k st) := h.setWord

theorem Same.unitFail {k l} (h : Same p a s) : Same p a (unitFail k l s) := by
  unfold Machine.unitFail
  refine .ite ?_ h
  extract_lets +onlyGivenNames s1
  have h1 : Same p a s1 := h.setUnit
  extract_lets +onlyGivenNames s2
  have h2 : Same p a s2 := by
    unfold s2
    split
    · exact h1.setUnit
    · exact h1
  extract_lets +onlyGivenNames s3
  have h3 : Same p a s3 := h2.incF.setF
  exact h3.raise.loadUpdate

theorem Same.stbaseEffect (h : Same p a s) : Same p a (stbaseEffect s) := h.setF

/-! ### Machine/Position -/

theorem Same.pass {t'} (h : Same p a s) : Same p a (s.pass t') := by
  unfold State.pass
  extract_lets +onlyGivenNames s1
  have h1 : Same p a s1 := h.send
  split
  · exact h1.deliver
  · exact h1

theorem Same.passMsg {src dest kind stream l} (h : Same p a s) : Same p a (s.passMsg src dest kind stream l) := by
  induction l generalizing s with
  | nil => exact h
  | cons w l ih =>
    cases l with
    | nil =>
      unfold State.passMsg
      exact h.pass
    | cons v l => exact ih h.pass

theorem Same.setSc {a' x} (h : Same p a s) : Same p a (s.setSc a' x) := h.setScs

theorem Same.setEnc {k x} (h : Same p a s) : Same p a (s.setEnc k x) := h.setEncs

theorem Same.setHall {k x} (h : Same p a s) : Same p a (s.setHall k x) := h.setHalls

theorem Same.setProbe {k x} (h : Same p a s) : Same p a (s.setProbe k x) := h.setProbes

theorem Same.setEmu {k x} (h : Same p a s) : Same p a (s.setEmu k x) := h.setEmus

theorem Same.posRaise {cls k f src} (h : Same p a s) : Same p a (s.posRaise cls k f src) := h.raise

theorem Same.adaptMove {a' r} (h : Same p a s) : Same p a (s.adaptMove a' r) := .ite h.setFi.setFi.setFi.setF h.setFi.setFi.setFi

theorem Same.adaptSample {a' q sn cs} (h : Same p a s) : Same p a (s.adaptSample a' q sn cs) := by
  unfold State.adaptSample
  extract_lets +onlyGivenNames x1 p1
  split
  · exact h.setSc
  · exact .ite h.setSc (Same.setSc (.ite h.adaptMove h))

theorem Same.scReject {a' cause} (h : Same p a s) : Same p a (s.scReject a' cause) := .ite h.incF.setSc.setF.posRaise h.incF.setSc

theorem Same.scAccept {a' stamp y vel gap corr} (h : Same p a s) : Same p a (s.scAccept a' stamp y vel gap corr) :=
  Same.foldl (.ite h.passMsg.setLoop h.passMsg.setLoop.sendMsg) (fun _ _ k1 => .ite k1.setEmu k1)

theorem Same.sincos {a' sn cs qc stamp} (h : Same p a s) : Same p a (s.sincos a' sn cs qc stamp) := by
  unfold State.sincos
  refine .ite h ?_
  extract_lets +onlyGivenNames x1
  split
  · exact h.setSc.setF
  · extract_lets +onlyGivenNames gapped2 qh2 s8
    have h8 : Same p a s8 := h.setSc
    extract_lets +onlyGivenNames s9
    have h9 : Same p a s9 := .ite h8.setF.posRaise h8
    extract_lets +onlyGivenNames ad2 sofs2 cofs2 gcos2 S2 C2 m2 lo2 hi2
    refine .ite h9.scReject ?_
    refine .ite h9.scReject ?_
    extract_lets +onlyGivenNames f2 qa2 d2
    refine .ite h9.scReject ?_
    extract_lets +onlyGivenNames q2 corr2 p2 k3 k4 y2 yc2 s10
    have h10 : Same p a s10 := .ite h9 h9.setF.posRaise
    extract_lets +onlyGivenNames s11
    have h11 : Same p a s11 := .ite h10.incF h10
    extract_lets +onlyGivenNames v2 _ s12
    have h12 : Same p a s12 := h11.setSc
    extract_lets +onlyGivenNames s13
    have h13 : Same p a s13 := h12.setF.setFi
    extract_lets +onlyGivenNames s14
    have h14 : Same p a s14 := .ite h13.adaptSample h13
    exact h14.scAccept

theorem Same.speedUpdate {tu} (h : Same p a s) [Fact (p ≠ .mt)] : Same p a (speedUpdate tu s) :=
  .ite h (Same.foldl (h.reach.foldl (fun _ _ k1 => .ite k1 k1.setEnc.setWord.setF)) (fun _ _ k2 => .ite k2 k2.setHall.setWord))

theorem Same.setCount {k v} (h : Same p a s) : Same p a (s.setCount k v) := .ite h.setFi.setF.posRaise h.setFi

theorem Same.encEdge {k a' b t' held} (h : Same p a s) [Fact (p ≠ .mt)] : Same p a (encEdge k a' b t' held s) :=
  .ite h (.ite h.reach.setEnc (.ite h.reach.setEnc.setF.incF.posRaise (Same.setCount (.ite h.reach.setEnc.setEnc.setF h.reach.setEnc.setEnc))))

theorem Same.indexEvent {k level t' held} (h : Same p a s) [Fact (p ≠ .mt)] : Same p a (indexEvent k level t' held s) := by
  unfold Machine.indexEvent
  refine .ite h ?_
  extract_lets +onlyGivenNames s1
  have h1 : Same p a s1 := h.reach
  extract_lets +onlyGivenNames x1 rose1 s2
  have h2 : Same p a s2 := h1.setEnc
  extract_lets +onlyGivenNames gab1 gate1
  refine .ite h2 ?_
  extract_lets +onlyGivenNames c1 s3
  have h3 : Same p a s3 := h2.setFi.setF.incF
  split
  · exact .ite h3.setEnc.setF.setF.setF h3.setEnc
  · exact .ite h3 (.ite h3.setFi.setF.incF.setF.raiseRec (.ite h3.setFi.setF.incF.raiseRec.setCount h3.setFi.setF.incF.raiseRec))

theorem Same.hallMove {k sec t' d} (h : Same p a s) : Same p a (s.hallMove k sec t' d) := Same.setF (Same.setFi (.ite h.setHall.setF h.setHall))

theorem Same.hallChange {k u v w t' held} (h : Same p a s) [Fact (p ≠ .mt)] : Same p a (hallChange k u v w t' held s) := by
  unfold Machine.hallChange
  refine .ite h ?_
  extract_lets +onlyGivenNames s1
  have h1 : Same p a s1 := h.reach
  extract_lets +onlyGivenNames uvw1 same1 s2
  have h2 : Same p a s2 := h1.setF
  refine .ite h2 ?_
  split
  · exact h2.setHall.setF.incF.posRaise
  · extract_lets +onlyGivenNames d2 skip2
    have hskip2 : ∀ t, Same p a t → Same p a (skip2 t) := fun _ k2 => k2.setF.incF.posRaise
    exact .ite h2.setHall (.ite h2.hallMove (.ite h2.hallMove (.ite (hskip2 _ h2.hallMove) (.ite (hskip2 _ h2.hallMove) (hskip2 _ h2.hallMove)))))

theorem Same.hallTimeout {k} (h : Same p a s) [Fact (p ≠ .mt)] : Same p a (hallTimeout k s) := by
  unfold Machine.hallTimeout
  extract_lets +onlyGivenNames x1
  split
  · exact h
  · exact .ite h h.reach.setHall.setF.posRaise

theorem Same.probePend {k} (h : Same p a s) : Same p a (s.probePend k) := h.setF

theorem Same.probeEvent {k level tp held} (h : Same p a s) [Fact (p ≠ .mt)] : Same p a (probeEvent k level tp held s) := by
  unfold Machine.probeEvent
  refine .ite h ?_
  extract_lets +onlyGivenNames s1
  have h1 : Same p a s1 := h.reach
  extract_lets +onlyGivenNames x1 s2
  have h2 : Same p a s2 := h1.setProbe
  extract_lets +onlyGivenNames sel1
  exact .ite h2 (.ite (Same.posRaise (Same.incF (Same.setF (.ite h2.setF h2)))) (Same.probePend (Same.setProbe (.ite h2.setF h2))))

theorem Same.probeAxis {a' tp} (h : Same p a s) : Same p a ((s.probeAxis a' tp).2) := by
  unfold State.probeAxis
  split
  · exact h
  · exact h.free

theorem Same.probeGalvo {tp m} (h : Same p a s) : Same p a (s.probeGalvo tp m).2 := by
  induction m generalizing s with
  | zero => exact h
  | succ m ih => exact ih h.probeAxis.probeAxis

theorem Same.probeRecord {k} (h : Same p a s) [Fact (p ≠ .mt)] : Same p a (probeRecord k s) := by
  unfold Machine.probeRecord
  split
  · exact h
  · exact .ite h.setProbe.probePend.sendMsg (Same.sendMsg (Same.probeGalvo (.ite h.setProbe.probePend h.setProbe.probePend.reach)))

theorem Same.emuSend {k t' v} (h : Same p a s) : Same p a (s.emuSend k t' v) := h.send

theorem Same.emuUpdate {k} (h : Same p a s) [Fact (p ≠ .mt)] : Same p a (emuUpdate k s) := by
  unfold Machine.emuUpdate
  refine .ite h ?_
  extract_lets +onlyGivenNames src1
  refine .ite ?_ h.reach.emuSend
  split
  · exact h
  · exact h.setEmu.emuSend

theorem Same.emuPins {k c} (h : Same p a s) : Same p a (s.emuPins k c) := h.setEmu

theorem Same.emuRelease {k t' c} (h : Same p a s) : Same p a (emuRelease k t' c s) := by
  unfold Machine.emuRelease
  extract_lets +onlyGivenNames x1
  split
  · exact h.setEmu.setF.setF.emuPins
  · exact .ite h.setEmu.setF.emuPins.setF.posRaise h.setEmu.setF.emuPins

theorem Same.posEffect {a' old} (h : Same p a s) : Same p a (posEffect a' old s) := by
  unfold Machine.posEffect
  split
  · exact .ite (Same.setSc (Same.setWord (.ite h.setSc (.ite h.setSc.setF h)))) (.ite h.setSc (.ite h.setSc.setF h))
  · split
    · exact .ite h.setEnc.setF h
    · split
      · exact .ite h.setEnc h
      · split
        · refine .ite ?_ h
          extract_lets +onlyGivenNames s16
          have h16 : Same p a s16 := h.setHall
          split
          · exact h16.setF
          · exact h16
        · split
          · exact h.setF
          · split
            · exact .ite h.setEmu.setF h
            · exact h

theorem Same.setAux {k x} (h : Same p a s) : Same p a (s.setAux k x) := h.setAuxs

/-! ### Machine/AuxAxes -/

theorem Same.auxRaise {cls k} (h : Same p a s) : Same p a (s.auxRaise cls k) := h.raise

theorem Same.auxRefresh (h : Same p a s) : Same p a s.auxRefresh := by
  unfold State.auxRefresh
  refine Same.foldl h ?_
  intro _ _ k1
  extract_lets +onlyGivenNames s1
  have h1 : Same p a s1 := k1.setF
  extract_lets +onlyGivenNames s2
  have h2 : Same p a s2 := by
    unfold s2
    split
    · exact h1.setF.setF
    · exact h1.setF
  exact h2.setF

theorem Same.auxNotice {m status t'} (h : Same p a s) : Same p a (s.auxNotice m status t') := .ite h h.sendMsg

theorem Same.auxEnd {m status t'} (h : Same p a s) : Same p a (s.auxEnd m status t') := h.setAuxMoves.auxNotice.auxRefresh

theorem Same.auxFlush {mask t'} (h : Same p a s) : Same p a (s.auxFlush mask t') := h.foldl (fun _ _ k1 => k1.auxEnd)

theorem Same.auxPlan {tc} (h : Same p a s) : Same p a (s.auxPlan tc) := by
  unfold State.auxPlan
  extract_lets +onlyGivenNames due1 s1
  have h1 : Same p a s1 := h.setAuxStops
  extract_lets +onlyGivenNames s2
  have h2 : Same p a s2 := by
    unfold s2
    refine Same.foldl h1 ?_
    intro _ _ k1
    extract_lets +onlyGivenNames hit1 s3
    have h3 : Same p a s3 := k1.setAuxMoves
    extract_lets +onlyGivenNames s4
    have h4 : Same p a s4 := h3.auxFlush
    refine Same.foldl h4 ?_
    intro _ _ k2
    split
    · exact .ite k2.setAux k2
    · exact k2
  refine Same.foldl h2 ?_
  intro _ _ k3
  split
  · exact Same.auxEnd (k3.foldl (fun _ _ k5 => k5.setAux))
  · exact k3

theorem Same.auxMove {toks} (h : Same p a s) : Same p a (auxMove toks s) := by
  unfold Machine.auxMove
  extract_lets +onlyGivenNames full1
  refine .ite h ?_
  refine Same.arrive h ?_
  intro _ k1
  extract_lets +onlyGivenNames t1
  split
  · exact k1.refuse
  · exact k1.refuse
  · refine .ite k1.refuse ?_
    split
    · exact k1.refuse
    · exact k1.setAuxMoves.setAuxNext.auxRefresh

theorem Same.auxStopAt {mask status} (h : Same p a s) : Same p a (s.auxStopAt mask status) := h.setAuxStops

theorem Same.auxStop {t'} (h : Same p a s) : Same p a (auxStop t' s) :=
  h.arrive (fun _ k1 => .ite k1.refuse (.ite k1.refuse (.ite k1.refuse (k1.whenDue (fun _ k2 => k2.auxStopAt)))))

theorem Same.moveBegin {m ts} (h : Same p a s) : Same p a (s.moveBegin m ts) :=
  .ite (h.auxEnd.auxFlush.foldl (fun _ _ k1 => k1.setF.auxRaise)) h.setAuxMoves.auxRefresh

theorem Same.moveStart {k tc} (h : Same p a s) [Fact (p ≠ .mt)] : Same p a (moveStart k tc s) := by
  unfold Machine.moveStart
  refine .ite h ?_
  extract_lets +onlyGivenNames s1
  have h1 : Same p a s1 := h.reach.auxPlan
  split
  · exact h1
  · exact .ite h1 (.ite (.ite h1 (h1.setAuxMoves.foldl (fun _ _ k2 => k2.setF.auxRaise))) h1.moveBegin)

theorem Same.auxLand {m r} (h : Same p a s) : Same p a (s.auxLand m r) := h.foldl (fun _ _ k1 => k1.setAux)

theorem Same.moveComplete {k tc} (h : Same p a s) [Fact (p ≠ .mt)] : Same p a (moveComplete k tc s) := by
  unfold Machine.moveComplete
  refine .ite h ?_
  extract_lets +onlyGivenNames s1
  have h1 : Same p a s1 := h.reach.auxPlan
  split
  · split
    · exact .ite h1.auxLand.auxEnd h1
    · exact h1
  · exact h1

theorem Same.settleTimeout {k} (h : Same p a s) [Fact (p ≠ .mt)] : Same p a (settleTimeout k s) := by
  unfold Machine.settleTimeout
  split
  · split
    · exact .ite h (h.reach.auxLand.auxEnd.foldl (fun _ _ k4 => k4.setF.auxRaise))
    · exact h
  · exact h

theorem Same.jogAct {k t'} (h : Same p a s) : Same p a (jogAct k t' s) := .ite h.setF.auxRaise h.setAux

theorem Same.jog {k t'} (h : Same p a s) : Same p a (jog k t' s) := by
  unfold Machine.jog
  extract_lets ep
  refine h.arrive fun t k1 => ?_
  exact .ite k1.refuse (.ite k1.refuse (.ite k1.refuse (.ite k1.refuse (k1.whenDue fun _ k2 => k2.jogAct))))

theorem Same.auxCommand {k tc p'} (h : Same p a s) : Same p a (((((s.auxCommand k tc p').2).2).2).2) := by
  unfold State.auxCommand
  extract_lets +onlyGivenNames l1
  split
  · exact h.cycleSetpt
  · extract_lets +onlyGivenNames _ s1
    have h1 : Same p a s1 := h.setLoop
    split
    · split
      · exact h1.setAux
      · exact h1
    · split
      · exact h1.setAux.auxRefresh
      · exact h1

theorem Same.auxHold {k tc moving} (h : Same p a s) : Same p a (s.auxHold k tc moving) := .ite (.ite h.setAux.setAux.setF h.setAux) h.setAux

theorem Same.auxMode {k tc num den} (h : Same p a s) : Same p a (s.auxMode k tc num den) := .ite h (.ite h h.setAux)

theorem Same.auxPositionCycle {k tc} (h : Same p a s) [Fact (p ≠ .mem)] [Fact (p ≠ .mt)] :
    Same p a (auxPositionCycle k tc s) := by
  unfold Machine.auxPositionCycle
  extract_lets +onlyGivenNames l q
  refine .ite h ?_
  extract_lets +onlyGivenNames s1 s2 push
  have h2 : Same p a s2 := h.reach.takeTrig.abandoned.applyPending.auxPlan
  clear_value s2
  refine .ite h2.noMeasure.setAux ?_
  extract_lets +onlyGivenNames y x1 x2 s3 q' s4
  have h3 : Same p a s3 := .ite h2 (.ite h2.setLoop h2.setLoop.setAux)
  clear_value s3
  have h4 : Same p a s4 := h3.auxCommand
  clear_value s4
  extract_lets +onlyGivenNames x r e uff omax c s5 x6 s6 s7 s8 s9
  have h6 : Same p a s6 := h4.cycleCore.setLoop
  clear_value s6
  exact h6.setF.setF.etolCheck.auxHold.auxMode.saveStates.setAux

theorem Same.holdiSet {k} (h : Same p a s) [Fact (p ≠ .mt)] : Same p a (holdiSet k s) := by
  unfold Machine.holdiSet
  extract_lets +onlyGivenNames x1
  split
  · exact h
  · exact .ite h h.reach.setAux.setF

theorem Same.sendAux {k t' mode u cmode ang} (h : Same p a s) : Same p a (s.sendAux k t' mode u cmode ang) := h.send.send.setAux.setF

theorem Same.auxModeApply {k tc} (h : Same p a s) : Same p a (s.auxModeApply k tc) := by
  unfold State.auxModeApply
  extract_lets +onlyGivenNames x1 l1
  split
  · exact .ite h h.setAux.setF.setLoop
  · exact h

theorem Same.auxHalt {k status} (h : Same p a s) : Same p a (s.auxHalt k status) := by
  unfold State.auxHalt
  extract_lets +onlyGivenNames s1
  have h1 : Same p a s1 := by
    unfold s1
    split
    · exact .ite h.auxNotice.setAuxMoves h.auxNotice.setAuxMoves.setAuxStops
    · exact h
  extract_lets +onlyGivenNames s2
  have h2 : Same p a s2 := h1.auxFlush
  exact h2.setAux.auxRefresh

theorem Same.auxFault {k} (h : Same p a s) : Same p a (s.auxFault k) := .ite h.setF h.setF.auxHalt.auxRaise

theorem Same.auxCurrentCycle {k tc} (h : Same p a s) [Fact (p ≠ .mem)] [Fact (p ≠ .mt)] :
    Same p a (auxCurrentCycle k tc s) := by
  unfold Machine.auxCurrentCycle
  extract_lets +onlyGivenNames l q
  refine .ite h ?_
  extract_lets +onlyGivenNames s1 s2
  have h2 : Same p a s2 := h.reach.takeTrig.abandoned.applyPending.auxModeApply
  clear_value s2
  extract_lets +onlyGivenNames off strong cmode x
  refine .ite h2.noMeasure.sendAux ?_
  extract_lets +onlyGivenNames s3 ur b sage win m n x3 s4 s5 s6 hold th i omax y c s7
  have h3 : Same p a s3 := .ite h2 h2.setLoop
  clear_value s3
  have h4 : Same p a s4 := h3.setLoop
  clear_value s4
  have h5 : Same p a s5 := .ite h4 h4.setF.incF.warn
  clear_value s5
  have h6 : Same p a s6 := .ite h5.severe.auxFault h5
  clear_value s6
  have hc : Same p a c.2 := by
    unfold c
    split
    · exact h6.setLoop.setFi
    · exact h6.cycleCore
  clear_value c
  exact .ite hc.setF.saveStates.sendAux hc.setF.saveStates.sendAux

theorem Same.auxSetpoint {k t'} (h : Same p a s) : Same p a (auxSetpoint k t' s) :=
  .ite (h.arrive (fun _ k1 => k1.refuse)) (.ite (h.arrive (fun _ k2 => k2.refuse)) h.setpointAccept)

theorem Same.hubSample {k stamp ia ib va vbus temp pos st} (h : Same p a s) : Same p a (s.hubSample k stamp ia ib va vbus temp pos st) := by
  unfold State.hubSample
  extract_lets +onlyGivenNames x1 was1 s1
  have h1 : Same p a s1 := h.setAux
  extract_lets +onlyGivenNames s2
  have h2 : Same p a s2 := h1.setF.setF.setF
  extract_lets +onlyGivenNames s3
  have h3 : Same p a s3 := h2.setF.setF.setF
  extract_lets +onlyGivenNames s4
  have h4 : Same p a s4 := h3.setF.setF
  extract_lets +onlyGivenNames s6 s5
  have h6 : Same p a s6 := h4.setF
  have h5 : Same p a s5 := .ite (.ite h6.auxRaise h6) h4
  exact .ite h5.auxFault h5

theorem Same.hubLinkTimeout {k} (h : Same p a s) [Fact (p ≠ .mt)] : Same p a (hubLinkTimeout k s) := .ite h h.reach.setF

theorem Same.auxCritical (h : Same p a s) : Same p a s.auxCritical := h.auxStopAt

theorem Same.lockStop (h : Same p a s) : Same p a s.lockStop := h.foldl (fun _ _ k1 => .ite k1.auxStopAt.setF.auxRaise k1)

theorem Same.auxEffect {a' old} (h : Same p a s) : Same p a (auxEffect a' old s) :=
  .ite (.ite h.setAux.setF.setF (.ite h.auxHalt.setAux.setF h)) (.ite h.setAux h)

theorem Same.auxLoopOff {l old} (h : Same p a s) : Same p a (auxLoopOff l old s) := .ite h.sendAux h

/-! ### Machine/TimeBase -/

theorem Same.putPt {t' mtref} (h : Same p a s) : Same p a (s.putPt t' mtref) := h.setWord.setWord.setWord

theorem Same.setRate {r} (h : Same p a s) : Same p a (s.setRate r) := h.setFi

theorem Same.ptStepJudge {old} (h : Same p a s) [Fact (p ≠ .mem)] : Same p a (ptStepJudge old s) := .ite h.setF.record7 h

theorem Same.ptRateEffect (h : Same p a s) : Same p a (ptRateEffect s) := .ite h.setRate.info h

theorem Same.ptRemember {old} (h : Same p a s) : Same p a (State.ptRemember old s) := .ite h h.setPtp

theorem Same.ptWriteEffect {old} (h : Same p a s) [Fact (p ≠ .mem)] : Same p a (ptWriteEffect old s) :=
  .ite h.ptRateEffect.ptRemember.ptStepJudge h.ptRateEffect.ptRemember

theorem Same.levelOn {b} (h : Same p a s) : Same p a (s.levelOn b) := h.setBasin

theorem Same.levelOff {b} (h : Same p a s) : Same p a (s.levelOff b) := h.setBasin

theorem Same.putAt {v} (h : Same p a s) : Same p a (s.putAt v) := h.setTb

theorem Same.pllLock (h : Same p a s) [Fact (p ≠ .mt)] : Same p a (pllLock s) := .ite h h.setTb.setMt.putAt.setF

theorem Same.timerefLoss (h : Same p a s) : Same p a (timerefLoss s) := .ite h h.setTb.setF.setF.levelOn.critical

theorem Same.pllRelock {phaseErr} (h : Same p a s) : Same p a (pllRelock phaseErr s) := .ite h (.ite h.levelOff.setTb.setF h.levelOff.setTb)

theorem Same.slewEnd (h : Same p a s) [Fact (p ≠ .mt)] : Same p a (slewEnd s) := .ite h h.reach.setTb.setF

theorem Same.setSlot {c x} (h : Same p a s) : Same p a (s.setSlot c x) := h.setSlots

theorem Same.setTap {n x} (h : Same p a s) : Same p a (s.setTap n x) := h.setTaps

theorem Same.setI2c {k x} (h : Same p a s) : Same p a (s.setI2c k x) := h.setI2cs

/-! ### Machine/Imaging -/

theorem Same.ipRaise {cls c} (h : Same p a s) : Same p a (s.ipRaise cls c) := h.raise

theorem Same.csiRaise {cls k} (h : Same p a s) : Same p a (s.csiRaise cls k) := h.raise

theorem Same.sendStat {c ws} (h : Same p a s) : Same p a (s.sendStat c ws) :=
  .ite (Same.sendMsg (.ite h.sendMsg.setSlot h.setSlot.setF.ipRaise)) (.ite h.sendMsg.setSlot h.setSlot.setF.ipRaise)

theorem Same.noFrame {c e} (h : Same p a s) : Same p a (s.noFrame c e) := h.setF.incF.ipRaise.sendStat

theorem Same.truncate {c f} (h : Same p a s) : Same p a ((s.truncate c f).2) := by
  unfold State.truncate
  split
  · exact h
  · exact h.setF.incF.ipRaise

theorem Same.putHist {base wx l} (h : Same p a s) [Fact (p ≠ .mem)] : Same p a (s.putHist base wx l) := by
  induction l generalizing s with
  | nil => exact h
  | cons x l ih => exact ih h.setBytes

theorem Same.closeFrame {c short} (h : Same p a s) [Fact (p ≠ .mem)] : Same p a (s.closeFrame c short) := by
  unfold State.closeFrame
  split
  · exact h
  · extract_lets +onlyGivenNames r f s1 x st fresh base rows px fs size s2 s3 d
    have h1 : Same p a r.2 := by
      unfold r
      split
      · exact h.truncate
      · exact h
    have h2 : Same p a s2 := .ite h1 h1.putHist
    clear_value s2
    exact h2.setSlot.incF.sendStat

theorem Same.discPacket {k} (h : Same p a s) : Same p a (s.discPacket k) := h.incF.setF.csiRaise

theorem Same.csiHeader {k ecc sot act} (h : Same p a s) (hact : ∀ t, Same p a t → Same p a (act t)) : Same p a (s.csiHeader k ecc sot act) := by
  unfold State.csiHeader
  refine .ite h ?_
  extract_lets +onlyGivenNames s1
  have h1 : Same p a s1 := h.setF
  extract_lets +onlyGivenNames s2
  have h2 : Same p a s2 := .ite h1.setCsiSkip h1
  exact .ite h2 (.ite h2.setCsiSkip.setF.incF.csiRaise (hact _ (.ite h2.incF h2)))

theorem Same.fsPair {c fn} (h : Same p a s) [Fact (p ≠ .mem)] : Same p a (s.fsPair c fn) := by
  unfold State.fsPair
  extract_lets +onlyGivenNames s1
  have h1 : Same p a s1 := h.closeFrame
  extract_lets +onlyGivenNames x1
  split
  · exact h1.setF.incF.ipRaise
  · extract_lets +onlyGivenNames wrap2 j2 drop2 s4
    have h4 : Same p a s4 := h1.setSlot
    extract_lets +onlyGivenNames s5
    have h5 : Same p a s5 := h4.foldl (fun _ _ k2 => k2.noFrame)
    extract_lets +onlyGivenNames x3
    split
    · exact h5
    · exact .ite h5.setSlot.setF.ipRaise h5.setSlot

theorem Same.frameStart {k vc fn ecc sot} (h : Same p a s) [Fact (p ≠ .mem)] : Same p a (frameStart k vc fn ecc sot s) := by
  unfold Machine.frameStart
  refine Same.csiHeader h ?_
  intro _ k1
  refine .ite k1.incF ?_
  split
  · exact k1.discPacket
  · exact .ite k1.fsPair k1.discPacket

theorem Same.takeLine {c f room data} (h : Same p a s) : Same p a (s.takeLine c f room data) := .ite h (.ite h.truncate.setSlot h.setSlot)

theorem Same.linePacket {k vc dt ecc sot crcOk room data} (h : Same p a s) : Same p a (linePacket k vc dt ecc sot crcOk room data s) := by
  unfold Machine.linePacket
  refine Same.csiHeader h ?_
  intro _ k1
  refine .ite k1 ?_
  split
  · exact k1.discPacket
  · split
    · exact k1.discPacket
    · exact .ite k1.discPacket (.ite k1.setSlot.incF.setF.csiRaise (.ite (.ite k1 k1.setSlot) k1.takeLine))

theorem Same.frameEnd {k vc ecc sot} (h : Same p a s) [Fact (p ≠ .mem)] : Same p a (frameEnd k vc ecc sot s) := by
  unfold Machine.frameEnd
  refine Same.csiHeader h ?_
  intro _ k1
  split
  · exact k1.discPacket
  · exact .ite k1.discPacket k1.closeFrame

theorem Same.fswinExpiry {c} (h : Same p a s) [Fact (p ≠ .mem)] [Fact (p ≠ .mt)] :
    Same p a (fswinExpiry c s) := by
  unfold Machine.fswinExpiry
  extract_lets x win retire
  have hretire : ∀ e rest, Same p a (retire e rest) := fun _ _ => h.reach.setSlot.noFrame
  split
  · exact hretire _ _
  · exact h.reach.closeFrame
  · exact .ite (hretire _ _) h.reach.closeFrame
  · exact h

theorem Same.expJudged {c released} (h : Same p a s) : Same p a (s.expJudged c released) := .ite h (.ite h.setSlot h.setSlot.setF.ipRaise)

theorem Same.camApply {c t'} (h : Same p a s) : Same p a (s.camApply c t') := by
  unfold State.camApply
  extract_lets +onlyGivenNames x1
  split
  · exact .ite h.setSlot.setF.setF h
  · exact h

theorem Same.expEnd {c t4 short} (h : Same p a s) : Same p a (s.expEnd c t4 short) := by
  unfold State.expEnd
  extract_lets +onlyGivenNames x1
  split
  · exact h
  · extract_lets +onlyGivenNames e2 l2 s2
    have h2 : Same p a s2 := h.setSlot
    clear_value l2
    split
    · exact .ite h2.noFrame h2
    · exact h2

theorem Same.expRise {c t4 ident} (h : Same p a s) : Same p a (s.expRise c t4 ident) := .ite h h.camApply.setSlot

theorem Same.cameraSetting {k toks} (h : Same p a s) : Same p a (cameraSetting k toks s) := by
  unfold Machine.cameraSetting
  extract_lets +onlyGivenNames ep1
  refine Same.arrive h ?_
  intro _ k1
  split
  · exact k1.refuse
  · exact k1.refuse
  · extract_lets +onlyGivenNames t2
    refine .ite k1.refuse ?_
    extract_lets +onlyGivenNames c2 no2
    have hno2 : ∀ t, Same p a t → Same p a (no2 t) := fun _ k3 => k3.setF.refuse
    split
    · exact hno2 _ k1
    · exact .ite (hno2 _ k1) k1.setSlot.setF

theorem Same.camBarrier {t' c} (h : Same p a s) : Same p a (camBarrier t' s c) := by
  unfold Machine.camBarrier
  extract_lets +onlyGivenNames x1
  split
  · exact h.setSlot
  · exact h

theorem Same.tapPair {n p'} (h : Same p a s) : Same p a (s.tapPair n p') := .ite h (.ite h.setTap (.ite h.setTap.setF h.sendMsg.setTap))

theorem Same.powerLoopCycle {n} (h : Same p a s) [Fact (p ≠ .mem)] [Fact (p ≠ .pgs)] : Same p a (powerLoopCycle n s) := by
  unfold Machine.powerLoopCycle
  split
  · exact h
  · exact h.tapPair.powerCycle

theorem Same.i2cTransaction {k toks} (h : Same p a s) : Same p a (i2cTransaction k toks s) := by
  unfold Machine.i2cTransaction
  extract_lets +onlyGivenNames ep1
  refine Same.arrive h ?_
  intro _ k1
  split
  · exact k1.refuse
  · exact k1.refuse
  · split
    · exact k1.refuse
    · exact k1.setI2c

theorem Same.readWords {l m} (h : Same p a s) : Same p a (s.readWords l m).2 := by
  induction m generalizing s l with
  | zero => exact h
  | succ m ih => exact ih h.free

theorem Same.i2cDone {k status nackidx bytes} (h : Same p a s) : Same p a (i2cDone k status nackidx bytes s) := by
  unfold Machine.i2cDone
  split
  · exact h
  · exact h.setI2c.readWords.sendMsg

theorem Same.imagingEffect {a'} (h : Same p a s) : Same p a (imagingEffect a' s) :=
  .ite (.ite h.setF h) (.ite (.ite h (.ite h.setSlot.setF h.setSlot.setF)) (.ite (.ite h h.setTap) h))

/-! ### Machine/Saddle -/

theorem Same.handoff {vid layer tout hout hin tin typ s1 s0} (h :
    Same p a s) [Fact (p ≠ .mem)] : Same p a (s.handoff vid layer tout hout hin tin typ s1 s0) :=
  .ite h.sts.setF.incF h

theorem Same.withHold {n c d} (h : Same p a s) [Fact (p ≠ .pgs)] : Same p a (s.withHold n c d) := h.setPg

theorem Same.replanAfter {n c segs pos tEnd vs} (h : Same p a s) [Fact (p ≠ .pgs)] : Same p a (s.replanAfter n c segs pos tEnd vs) := by
  unfold State.replanAfter
  extract_lets +onlyGivenNames q1 i1 keep1 first1 base1
  split
  · exact h.setPg.setF
  · exact h.setPg

theorem Same.handoffs {n layer v taken} (h : Same p a s) [Fact (p ≠ .mem)] : Same p a (s.handoffs n layer v taken) :=
  h.foldl (fun _ _ k1 => .ite (Same.handoff (.ite k1.handoff k1)) (.ite k1.handoff k1))

theorem Same.stampOpens {n vs} (h : Same p a s) : Same p a (s.stampOpens n vs) := h.setSets

theorem Same.yieldChain {n c ha} (h : Same p a s) [Fact (p ≠ .pgs)] : Same p a (s.yieldChain n c ha) :=
  .ite h.withHold.setF.incF.setPg h.withHold.setF.incF

theorem Same.cutChain {n c tc layer jspd old} (h :
    Same p a s) [Fact (p ≠ .mem)] [Fact (p ≠ .pgs)] : Same p a (s.cutChain n c tc layer jspd old) := by
  unfold State.cutChain
  extract_lets +onlyGivenNames p1
  split
  · exact h
  · extract_lets +onlyGivenNames q3 vs3 before2 after2 set2 others2 taker2 typ2 r2 v2 vs4 s4
    have h4 : Same p a s4 := h.setSets
    extract_lets +onlyGivenNames start2 pos2 m2 s5
    have h5 : Same p a s5 := h4.replanAfter.setF.incF
    extract_lets +onlyGivenNames q4 drop2 s6
    have h6 : Same p a s6 := by
      unfold s6
      split
      · exact h5.setPg.setF
      · exact h5
    exact .ite h6 h6.setPg.handoff

theorem Same.chainDecide {n} (h : Same p a s) [Fact (p ≠ .mem)] [Fact (p ≠ .pgs)]
    [Fact (p ≠ .mt)] : Same p a (chainDecide n s) := by
  unfold Machine.chainDecide
  extract_lets +onlyGivenNames q
  split
  · exact h
  · refine .ite h ?_
    extract_lets +onlyGivenNames s1
    have h1 : Same p a s1 := h.reach
    clear_value s1
    extract_lets +onlyGivenNames start
    obtain ⟨start', e⟩ : ∃ y, y = start := ⟨_, rfl⟩
    rw [← e]
    clear e start
    extract_lets +onlyGivenNames late
    obtain ⟨late', e⟩ : ∃ y, y = late := ⟨_, rfl⟩
    rw [← e]
    clear e late
    extract_lets +onlyGivenNames d
    obtain ⟨d', e⟩ : ∃ y, y = d := ⟨_, rfl⟩
    rw [← e]
    clear e d
    extract_lets +onlyGivenNames s2
    have h2 : Same p a s2 := .ite h1.setPg.setF.incF h1
    clear_value s2
    extract_lets +onlyGivenNames q2 layer jspd old vs r
    clear_value r
    split
    · exact Same.markError (.ite h2.setF h2)
    · extract_lets +onlyGivenNames owned changed s3 pos m s4 s5
      have h3 : Same p a s3 := h2.setSets
      clear_value s3
      have h4 : Same p a s4 := .ite h3.replanAfter h3.setPg
      clear_value s4
      have h5 : Same p a s5 := by
        unfold s5
        split
        · exact h4
        · exact .ite h4.yieldChain h4.cutChain
      clear_value s5
      extract_lets +onlyGivenNames q7 now s6
      have h6 : Same p a s6 := h5.setPg
      clear_value s6
      exact h6.stampOpens.foldl fun _ _ k => k.handoffs

theorem Same.unclaimed {n layer} (h : Same p a s) [Fact (p ≠ .mem)] : Same p a (s.unclaimed n layer) :=
  h.foldl (fun _ _ k1 => .ite (k1.severe.setF.foldl (fun _ _ k2 => k2.handoff)) k1)

theorem Same.stare {n} (h : Same p a s) [Fact (p ≠ .pgs)] [Fact (p ≠ .mt)] : Same p a (stare n s) := by
  unfold Machine.stare
  extract_lets +onlyGivenNames q1
  split
  · exact h
  · exact .ite h.reach.send.send.setPg.setStares.setF (Same.setF (Same.setPg (.ite h.reach h.reach.send)))

/-! ### Machine/Correction -/

theorem Same.ruleRaise {cls n} (h : Same p a s) : Same p a (s.ruleRaise cls n) := h.raise

theorem Same.ruleStep {n x} (h : Same p a s) : Same p a (s.ruleStep n x) := .ite h (.ite (.ite h h.setF.incF) (Same.setTrim (.ite h h.setF.incF)))

theorem Same.ruleAlarm {n x} (h : Same p a s) : Same p a (s.ruleAlarm n x) := by
  unfold State.ruleAlarm
  extract_lets +onlyGivenNames l1
  refine .ite h.setLoop ?_
  extract_lets +onlyGivenNames k1
  refine .ite h.setLoop ?_
  extract_lets +onlyGivenNames _ s1
  have h1 : Same p a s1 := h.setLoop.setF
  split
  · exact h1
  · exact h1.ruleRaise
  · exact h1.ruleRaise
  · exact h1.ruleRaise

theorem Same.ruleJudge {n r} (h : Same p a s) : Same p a (s.ruleJudge n r) :=
  .ite h.incF (.ite h.setF.incF (Same.ruleAlarm (.ite h.incF.setF h.incF.setF.ruleStep)))

theorem Same.ruleRecord {n toks} (h : Same p a s) : Same p a (ruleRecord n toks s) := by
  unfold Machine.ruleRecord
  extract_lets +onlyGivenNames ep1
  refine Same.arrive h ?_
  intro _ k1
  split
  · exact k1.refuse
  · exact k1.refuse
  · exact .ite k1.refuse (.ite k1.refuse k1.ruleJudge)

theorem Same.ruleEffect {a'} (h : Same p a s) : Same p a (ruleEffect a' s) := .ite h (.ite h.setF.setTrim h.setF)

theorem Same.ruleBarrier {n} (h : Same p a s) : Same p a (ruleBarrier s n) := .ite h.setTrim h

theorem Same.stareWord {p'} (h : Same p a s) : Same p a ((s.stareWord p').2) := by
  unfold State.stareWord
  split
  · exact h
  · exact h.free

theorem Same.stareRecord (h : Same p a s) [Fact (p ≠ .mem)] [Fact (p ≠ .mt)] : Same p a (stareRecord s) := by
  unfold Machine.stareRecord
  split
  · exact h
  · exact .ite (Same.setStares (.ite h h.reach)) (Same.setF (Same.sts (Same.stareWord (Same.stareWord (Same.setStares (.ite h h.reach))))))

theorem Same.lrecEffect {old} (h : Same p a s) : Same p a (lrecEffect old s) := .ite h.setF h

theorem Same.processRecord {n} (h : Same p a s) [Fact (p ≠ .pgs)] : Same p a (processRecord n s) := by
  unfold Machine.processRecord
  extract_lets +onlyGivenNames q1
  split
  · exact h
  · exact h.setPg.sendMsg

/-! ### Machine/Job -/

theorem Same.instructionError {n i} (h : Same p a s) [Fact (p ≠ .mem)] [Fact (p ≠ .pgs)] [Fact (p ≠ .mt)] : Same p a (s.instructionError n i) :=
  h.reach.setF.severe.suspend

theorem Same.leaveVector {n} (h : Same p a s) [Fact (p ≠ .pgs)] : Same p a (s.leaveVector n) := by
  unfold State.leaveVector
  split
  · exact .ite h.noEmitRecord h
  · exact h

theorem Same.dropCont {n} (h : Same p a s) [Fact (p ≠ .pgs)] : Same p a (s.dropCont n) := by
  unfold State.dropCont
  extract_lets +onlyGivenNames q1
  split
  · exact .ite h.setPg h
  · exact h

theorem Same.layerEffect {n i} (h : Same p a s) [Fact (p ≠ .pgs)] : Same p a (s.layerEffect n i) := by
  unfold State.layerEffect
  split
  · exact h.setF
  · exact h.setPg
  · exact h.setPg
  · exact h

theorem Same.execLayer {n want} (h : Same p a s) [Fact (p ≠ .mem)] [Fact (p ≠ .pgs)] [Fact (p ≠ .mt)] : Same p a (s.execLayer n want) := by
  unfold State.execLayer
  extract_lets +onlyGivenNames s1
  have h1 : Same p a s1 := h.dropCont
  split
  · exact h1
  · exact .ite h1 (.ite h1.instructionError (.ite h1 h1.reach.leaveVector.windowTo.setF.setPg.layerEffect))

theorem Same.layerEnd {n} (h : Same p a s) [Fact (p ≠ .mem)] [Fact (p ≠ .pgs)] [Fact (p ≠ .mt)] : Same p a (layerEnd n s) := by
  unfold Machine.layerEnd
  extract_lets +onlyGivenNames s1
  have h1 : Same p a s1 := h.dropCont
  split
  · exact h1
  · refine .ite h1 ?_
    refine .ite (.ite h1.instructionError h1) ?_
    refine .ite h1 ?_
    extract_lets +onlyGivenNames s12
    have h12 : Same p a s12 := h1.reach.leaveVector
    extract_lets +onlyGivenNames s13
    have h13 : Same p a s13 := h12.windowTo
    extract_lets +onlyGivenNames q3 layer2 s14
    have h14 : Same p a s14 := .ite h13.gateOff.closePart h13
    extract_lets +onlyGivenNames s15
    have h15 : Same p a s15 := h14.cancelLooks
    extract_lets +onlyGivenNames q4 s16
    have h16 : Same p a s16 := h15.setPg
    extract_lets +onlyGivenNames s17
    have h17 : Same p a s17 := h16.setF
    extract_lets +onlyGivenNames s18
    have h18 : Same p a s18 := h17.send
    extract_lets +onlyGivenNames x2 s19
    have h19 : Same p a s19 := h18.windowDone
    extract_lets +onlyGivenNames nx2 s20
    have h20 : Same p a s20 := h19.setF.setF
    extract_lets +onlyGivenNames paused2 s21
    have h21 : Same p a s21 := h20.setPgState.unclaimed
    exact .ite h21.info h21

theorem Same.dwellEnd {n} (h : Same p a s) [Fact (p ≠ .pgs)] [Fact (p ≠ .mt)] : Same p a (dwellEnd n s) := by
  unfold Machine.dwellEnd
  split
  · exact h.reach.setPg
  · exact h

theorem Same.windowPoll {n} (h : Same p a s) [Fact (p ≠ .pgs)] : Same p a (windowPoll n s) := h.planStep

theorem Same.leadUpdate {n} (h : Same p a s) [Fact (p ≠ .pgs)] : Same p a (leadUpdate n s) :=
  .ite (.ite h.setF.setF.setPg.setF.warn h.setF.setF.setPg) h.setF.setF

theorem Same.underrun {n} (h : Same p a s) [Fact (p ≠ .mem)] [Fact (p ≠ .pgs)] [Fact (p ≠ .mt)] : Same p a (underrun n s) :=
  .ite h h.reach.leaveVector.setF.severe.suspend

theorem Same.pgArm {n p'} (h : Same p a s) [Fact (p ≠ .pgs)] : Same p a (pgArm n p' s) := .ite h.pgRefused h.setPgState.setF.setF.setF.setPg

theorem Same.pgPause {n p'} (h : Same p a s) [Fact (p ≠ .pgs)] : Same p a (pgPause n p' s) := .ite h.pgRefused h.setPgState.setPg.lockStop

theorem Same.pgResume {n p'} (h : Same p a s) [Fact (p ≠ .pgs)] : Same p a (pgResume n p' s) :=
  .ite h.pgRefused (Same.lockStop (.ite h.setPgState.setF.setPg.planError h.setPgState.setF.setPg))

theorem Same.pgAbort {n} (h : Same p a s) [Fact (p ≠ .pgs)] : Same p a (pgAbort n s) :=
  .ite h.pgRefused (Same.setPg (Same.setPgState (Same.cancelLooks (Same.setSets (Same.stopRamp (.ite h.gateOff.closePart h))))))

theorem Same.pgDisarm {n} (h : Same p a s) : Same p a (pgDisarm n s) := .ite h.setPgState h.pgRefused

theorem Same.pgCmdAct {n t'} (h : Same p a s) [Fact (p ≠ .pgs)] : Same p a (pgCmdAct n t' s) :=
  .ite h.pgArm (.ite h.pgPause (.ite h.pgResume (.ite h.pgAbort h.pgDisarm)))

theorem Same.pgCommand {n t'} (h : Same p a s) [Fact (p ≠ .pgs)] : Same p a (pgCommand n t' s) :=
  h.arrive (fun _ k1 => .ite k1.refuse (.ite k1.refuse (.ite k1.refuse (.ite k1.refuse (k1.whenDue (fun _ k2 => k2.pgCmdAct))))))

theorem Same.pgRow {op n t'} (h : Same p a s) [Fact (p ≠ .pgs)] : Same p a (pgRow op n t' s) := .ite h h.pgCommand

theorem Same.insertRunOut {n v t'} (h : Same p a s) [Fact (p ≠ .pgs)] : Same p a (s.insertRunOut n v t') :=
  .ite h.setPg (.ite h.setPg.setF.warn h.setPg.setF.severe)

theorem Same.pausePoint {n} (h : Same p a s) [Fact (p ≠ .mem)] [Fact (p ≠ .pgs)] [Fact (p ≠ .mt)] : Same p a (pausePoint n s) := by
  unfold Machine.pausePoint
  extract_lets +onlyGivenNames q1
  split
  · exact h
  · extract_lets +onlyGivenNames isMarker2
    refine .ite h ?_
    extract_lets +onlyGivenNames s3
    have h3 : Same p a s3 := h.reach
    extract_lets +onlyGivenNames joined2 s4
    have h4 : Same p a s4 := by
      unfold s4
      split
      · exact .ite (Same.insertRunOut (.ite h3.gateOff.closePart h3)) h3
      · exact h3
    extract_lets +onlyGivenNames ofs2 m2
    exact h4.leaveVector.suspend

theorem Same.resumeRun {n} (h : Same p a s) [Fact (p ≠ .mt)] : Same p a (resumeRun n s) := by
  unfold Machine.resumeRun
  refine .ite h ?_
  extract_lets +onlyGivenNames q1 start1
  clear_value start1
  split
  · exact h
  · exact h.reach.setPgState.lockStop

theorem Same.pgBarrier {n layer} (h : Same p a s) [Fact (p ≠ .pgs)] : Same p a (pgBarrier n layer s) :=
  .ite h.setPgState.setF.setPg.lockStop h.pgRefused

theorem Same.straceEffect {n old} (h : Same p a s) : Same p a (straceEffect n old s) := .ite h.setF h

theorem Same.pgTrkEffect {n old} (h : Same p a s) [Fact (p ≠ .pgs)] : Same p a (pgTrkEffect n old s) := .ite h.trkEnCleared h

theorem Same.hrecEffect {old} (h : Same p a s) : Same p a (hrecEffect old s) := .ite h.setF h

theorem Same.mapSwap {n} (h : Same p a s) [Fact (p ≠ .pgs)] : Same p a (mapSwap n s) := .ite h.mapTake.setPg h

/-! ### Machine/Barrier -/

theorem Same.barrierFanout {t'} (h : Same p a s) : Same p a (barrierFanout t' s) :=
  .ite h (h.arrive (fun _ k1 => .ite k1.refuse (.ite k1 (.ite k1.refuse k1.setFanout))))

theorem Same.barrierJudge (h : Same p a s) [Fact (p ≠ .mt)] : Same p a (barrierJudge s) := by
  unfold Machine.barrierJudge
  split
  · exact h
  · exact .ite (h.reach.setFanout.forEach (fun _ _ k2 => k2.pgRefused)) h.reach.setFanout.setNet.setPassed

theorem Same.zoneBarrier (h : Same p a s) : Same p a s.zoneBarrier := .ite h.setWord.setWord.setF h

theorem Same.mapBarrier {n} (h : Same p a s) : Same p a (s.mapBarrier n) := .ite h (.ite h.mapTake h.info)

theorem Same.boundary {t' layer} (h : Same p a s) [Fact (p ≠ .mem)] : Same p a (s.boundary t' layer) := by
  unfold State.boundary
  extract_lets +onlyGivenNames s1
  have h1 : Same p a s1 := h.zoneBarrier
  extract_lets +onlyGivenNames s2
  have h2 : Same p a s2 := h1.forEach (fun _ _ k1 => k1.mapBarrier)
  extract_lets +onlyGivenNames s3
  have h3 : Same p a s3 := h2.forEach (fun _ _ k2 => k2.regStep)
  extract_lets +onlyGivenNames s4
  have h4 : Same p a s4 := h3.forEach (fun _ _ k3 => k3.servoBarrier)
  extract_lets +onlyGivenNames s5
  have h5 : Same p a s5 := h4.forEach (fun _ _ k4 => k4.camBarrier)
  exact h5.forEach (fun _ _ k5 => k5.ruleBarrier)

theorem Same.applyPassed {t'} (h : Same p a s) [Fact (p ≠ .mem)] : Same p a (s.applyPassed t') := .ite h.setPassed.boundary h

theorem Same.dropPassed (h : Same p a s) : Same p a s.dropPassed := h.setPassed

theorem Same.barrier {n t'} (h : Same p a s) [Fact (p ≠ .mem)] [Fact (p ≠ .pgs)] [Fact (p ≠ .mt)] : Same p a (barrier n t' s) :=
  .ite h (h.arrive (fun _ k1 => .ite k1 (.ite k1.refuse
    (.ite k1.reach.applyPassed.pgBarrier.dropPassed (.ite k1.reach.pgRefused k1.reach.pgBarrier)))))

/-! ### Machine/ColFifo -/

theorem Same.colDiscard {n} (h : Same p a s) [Fact (p ≠ .mem)] : Same p a (s.colDiscard n) := h.setCol.incF.record7

theorem Same.linkFlush {n} (h : Same p a s) [Fact (p ≠ .mem)] : Same p a (s.linkFlush n) := h.colDiscard.incF

theorem Same.ethFlush {k} (h : Same p a s) [Fact (p ≠ .mem)] : Same p a (s.ethFlush k) := h.colDiscard

/-! ### Machine/Ethernet -/

theorem Same.txCount {k} (h : Same p a s) : Same p a (s.txCount k) := h.incF

theorem Same.sendOut {o} (h : Same p a s) : Same p a (s.sendOut o) := .ite h.setHost.txCount h

theorem Same.toSubscriber {k bytes} (h : Same p a s) : Same p a (s.toSubscriber k bytes) := h.sendOut

theorem Same.evtBy {ports kind tag payload} (h : Same p a s) : Same p a (s.evtBy ports kind tag payload) :=
  .ite h.setHost (h.setHost.foldl (fun _ _ k1 => k1.toSubscriber))

theorem Same.evt {kind tag payload} (h : Same p a s) : Same p a (s.evt kind tag payload) := h.evtBy

theorem Same.evtComplete {tag code} (h : Same p a s) : Same p a (s.evtComplete tag code) := h.evt

theorem Same.setUp {n x} (h : Same p a s) [Fact (p ≠ .uploads)] : Same p a (s.setUp n x) := h.setUps

theorem Same.upRewind {n} (h : Same p a s) [Fact (p ≠ .uploads)] : Same p a (s.upRewind n) := h.setUp

theorem Same.linkChange {k block hiber lfault rfault} (h :
    Same p a s) [Fact (p ≠ .mem)] [Fact (p ≠ .uploads)] : Same p a (linkChange k block hiber lfault rfault s) :=
  .ite h.setF.setF.setF.setF (Same.evtBy (Same.foldl (.ite h.setF.setF.setF.setF.setF.setF.warn h.setF.setF.setF.setF.setF.setF.warn.ethFlush)
    (fun _ _ k1 => k1.upRewind)))

theorem Same.transmitStamp {k seqId cross req} (h : Same p a s) : Same p a (transmitStamp k seqId cross req s) := h.setHost

theorem Same.setStatusBit {f b} (h : Same p a s) : Same p a (s.setStatusBit f b) := h.setWord

/-! ### Machine/Basin -/

theorem Same.evtBasin (h : Same p a s) : Same p a s.evtBasin := h.evt

theorem Same.gateOffAll (h : Same p a s) : Same p a s.gateOffAll := h.setBasin.noteGates

theorem Same.errorPulse {cls} (h : Same p a s) : Same p a (s.errorPulse cls) := .ite h.setBasin h

theorem Same.classReaction {cls} (h : Same p a s) [Fact (p ≠ .mem)] [Fact (p ≠ .pgs)] : Same p a (s.classReaction cls) :=
  .ite h.gateOffAll.suspendAll.auxCritical.evtBasin (.ite (.ite h.gateOffAll.suspendAll.evtBasin h.evtBasin) (.ite h.evtBasin h))

theorem Same.takeRaise {r real inj} (h : Same p a s) [Fact (p ≠ .mem)] [Fact (p ≠ .pgs)] : Same p a (s.takeRaise r real inj) := by
  unfold State.takeRaise
  extract_lets +onlyGivenNames b1 s1
  have h1 : Same p a s1 := h.setStatusBit
  extract_lets +onlyGivenNames s2
  have h2 : Same p a s2 := .ite h1.setStatusBit h1
  extract_lets +onlyGivenNames s3
  have h3 : Same p a s3 := .ite h2.setStatusBit h2
  extract_lets +onlyGivenNames s4
  have h4 : Same p a s4 := h3.event.daleRecord.errorPulse
  exact .ite h4.classReaction h4

theorem Same.statusRaise (h : Same p a s) [Fact (p ≠ .mem)] [Fact (p ≠ .pgs)] : Same p a (statusRaise s) := by
  unfold Machine.statusRaise
  split
  · exact h
  · exact h.setLines.takeRaise

theorem Same.safeRaise {rtype d0} (h : Same p a s) [Fact (p ≠ .mem)] [Fact (p ≠ .pgs)] : Same p a (s.safeRaise rtype d0) := h.takeRaise

theorem Same.safeChanged (h : Same p a s) : Same p a s.safeChanged := h.setBasin

theorem Same.safeInputFall {b} (h : Same p a s) [Fact (p ≠ .mem)] [Fact (p ≠ .pgs)] : Same p a (safeInputFall b s) :=
  .ite h (.ite h.setBasin.safeChanged.noteGates h.setBasin.safeChanged.noteGates.levelOn.safeRaise)

theorem Same.safeInputRise {b} (h : Same p a s) : Same p a (safeInputRise b s) :=
  .ite h (.ite h.setBasin.safeChanged.noteGates.levelOff h.setBasin.safeChanged.noteGates)

theorem Same.safeDiscrepancy (h : Same p a s) [Fact (p ≠ .mem)] [Fact (p ≠ .pgs)] [Fact (p ≠ .mt)] : Same p a (safeDiscrepancy s) := by
  unfold Machine.safeDiscrepancy
  split
  · exact h
  · exact h.reach.setBasin.safeRaise

theorem Same.errorRelease (h : Same p a s) : Same p a s.errorRelease := h.setBasin

theorem Same.errorMinimumEnd (h : Same p a s) [Fact (p ≠ .mt)] : Same p a (errorMinimumEnd s) := by
  unfold Machine.errorMinimumEnd
  split
  · exact h
  · exact .ite h.reach.errorRelease (.ite h.reach.setBasin h.reach.errorRelease)

theorem Same.errelEffect (h : Same p a s) : Same p a (errelEffect s) := by
  unfold Machine.errelEffect
  split
  · exact .ite h h.setBasin
  · exact h.errorRelease

theorem Same.lrearmEffect (h : Same p a s) : Same p a (lrearmEffect s) := .ite (Same.noteGates (h.setBasin.foldl (fun _ _ k1 => k1.setCol))) h

theorem Same.injectEffect {b} (h : Same p a s) [Fact (p ≠ .mem)] [Fact (p ≠ .pgs)] : Same p a (injectEffect b s) := by
  unfold Machine.injectEffect
  split
  · exact h.setLines.takeRaise
  · exact h.takeRaise

theorem Same.basinEffect {a' data} (h : Same p a s) [Fact (p ≠ .mem)] [Fact (p ≠ .pgs)] : Same p a (basinEffect a' data s) :=
  .ite (.ite (Same.errelEffect (.ite h.lrearmEffect h)) (.ite h.lrearmEffect h)) (.ite h.injectEffect h)

theorem Same.statusClearEffect {a' data old} (h : Same p a s) : Same p a (statusClearEffect a' data old s) :=
  .ite (.ite h.setWord.setWord.evtBasin h.setWord.setWord) h

theorem Same.dalePopEffect {count} (h : Same p a s) [Fact (p ≠ .mem)] : Same p a (dalePopEffect count s) :=
  .ite (Same.setDale (Same.setF (Same.setF (h.foldl (fun _ _ k1 => k1.st))))) (Same.setF (Same.setF (Same.setF (h.foldl (fun _ _ k1 => k1.st)))))

theorem Same.daleEffect {a' data} (h : Same p a s) [Fact (p ≠ .mem)] : Same p a (daleEffect a' data s) := .ite h.dalePopEffect (.ite h.setF h)

theorem Same.eachUsOfMt (h : Same p a s) [Fact (p ≠ .mt)] : Same p a (eachUsOfMt s) := h.reach.event

theorem Same.setGchan {c x} (h : Same p a s) [Fact (p ≠ .gorge)] : Same p a (s.setGchan c x) := h.setGorge

/-! ### Machine/Gorge -/

theorem Same.gorgeUpdate {c} (h : Same p a s) : Same p a (s.gorgeUpdate c) := h.setF.setF

theorem Same.gorgeSave {a' st} (h : Same p a s) [Fact (p ≠ .mem)] [Fact (p ≠ .gorge)] : Same p a (s.gorgeSave a' st) :=
  h.sts.setBytes.sts.setGorgeSaves

theorem Same.gorgeSubmit {t'} (h : Same p a s) [Fact (p ≠ .gorge)] : Same p a (gorgeSubmit t' s) :=
  .ite h.refuse (.ite h.refuse (.ite h.refuse h.setGchan.gorgeUpdate))

theorem Same.gorgeJobSubmit {t'} (h : Same p a s) [Fact (p ≠ .gorge)] : Same p a (gorgeJobSubmit t' s) :=
  .ite h (h.arrive (fun _ k1 => k1.whenDue (fun _ k2 => k2.gorgeSubmit)))

theorem Same.gorgeJobStart {c} (h : Same p a s) [Fact (p ≠ .gorge)] : Same p a (gorgeJobStart c s) := by
  unfold Machine.gorgeJobStart
  extract_lets +onlyGivenNames x1
  split
  · exact h.setGchan.setF.gorgeUpdate
  · exact h

theorem Same.putBytes {a' l} (h : Same p a s) [Fact (p ≠ .mem)] : Same p a (s.putBytes a' l) := h.setBytes.setEccs

theorem Same.putRegions {rs l n} (h : Same p a s) [Fact (p ≠ .mem)] : Same p a (s.putRegions rs l n).1 := by
  induction rs generalizing s l n with
  | nil => exact h
  | cons r rs ih =>
    unfold State.putRegions
    split
    · exact h
    · exact ih h.putBytes

theorem Same.gorgeCount {c status} (h : Same p a s) : Same p a (s.gorgeCount c status) :=
  .ite h.setF.incF.setF.incF (.ite h.setF.incF.setF.incF (.ite h.setF.incF.setF (.ite h.setF.incF.setF h.setF.incF)))

theorem Same.gorgeReport {a' ws status chused check used out} (h :
    Same p a s) [Fact (p ≠ .mem)] : Same p a (s.gorgeReport a' ws status chused check used out) :=
  .ite h (.ite h.st.st h.st.st.sendMsg)

theorem Same.gorgeEnd {c limit} (h : Same p a s) [Fact (p ≠ .mem)] [Fact (p ≠ .gorge)] :
    Same p a (s.gorgeEnd c limit) := by
  unfold State.gorgeEnd
  extract_lets +onlyGivenNames x
  split
  · exact h
  · extract_lets +onlyGivenNames r
    split
    next t n e =>
    have ht : Same p a (t, n).1 := e ▸ h.putRegions
    dsimp only at ht
    extract_lets +onlyGivenNames keep s1 s2 s3 v s4 s5
    have h1 : Same p a s1 := .ite ht.gorgeSave ht
    clear_value s1
    have h4 : Same p a s4 := h1.gorgeReport.incF.incF.gorgeCount.setGchan.gorgeUpdate
    clear_value s4
    exact .ite (.ite h4.setF.incF.raise.severe h4.setF.incF.raise) h4

theorem Same.gorgeJobEnd {c} (h : Same p a s) [Fact (p ≠ .mem)] [Fact (p ≠ .gorge)] : Same p a (gorgeJobEnd c s) := h.gorgeEnd

theorem Same.gorgeFlush {c} (h : Same p a s) [Fact (p ≠ .mem)] [Fact (p ≠ .gorge)] : Same p a (s.gorgeFlush c) :=
  h.setGchan.gorgeUpdate.foldl (fun _ _ k1 => k1.gorgeReport.gorgeCount.setF)

theorem Same.gorgeAbortAct {t' progress} (h : Same p a s) [Fact (p ≠ .mem)] [Fact (p ≠ .gorge)] : Same p a (gorgeAbortAct t' progress s) :=
  .ite h.refuse (.ite h.refuse (.ite h.refuse h.gorgeEnd.gorgeFlush))

theorem Same.gorgeAbort {t' progress} (h : Same p a s) [Fact (p ≠ .mem)] [Fact (p ≠ .gorge)] : Same p a (gorgeAbort t' progress s) :=
  .ite h (h.arrive (fun _ k1 => k1.whenDue (fun _ k2 => k2.gorgeAbortAct)))

theorem Same.setBank {k b} (h : Same p a s) [Fact (p ≠ .dram)] : Same p a (s.setBank k b) := h.setDramBanks

theorem Same.setRank {j r} (h : Same p a s) [Fact (p ≠ .dram)] : Same p a (s.setRank j r) := h.setDramRanks

theorem Same.setChan {c d} (h : Same p a s) [Fact (p ≠ .dram)] : Same p a (s.setChan c d) := h.setDramChans

/-! ### Machine/Dram -/

theorem Same.countAct {c src} (h : Same p a s) [Fact (p ≠ .dram)] : Same p a (s.countAct c src) := .ite h h.setChan

theorem Same.doRfm {j sc bank} (h : Same p a s) [Fact (p ≠ .dram)] : Same p a (s.doRfm j sc bank) :=
  .ite h.setBank.incF.setChan.setF.incF.raise h.setBank.incF

theorem Same.wakeRank {j} (h : Same p a s) : Same p a (s.wakeRank j) := .ite h.setF h

theorem Same.throttleWait {c src} (h : Same p a s) [Fact (p ≠ .dram)] [Fact (p ≠ .mt)] : Same p a (s.throttleWait c src) := by
  unfold State.throttleWait
  extract_lets +onlyGivenNames d1
  split
  · exact h
  · exact h.reach.setChan

theorem Same.dramBurst {off src scrub} (h : Same p a s) [Fact (p ≠ .dram)] [Fact (p ≠ .mt)] : Same p a (s.dramBurst off src scrub) := by
  unfold State.dramBurst
  extract_lets +onlyGivenNames k1 row1 c1 b1 hit1 h1 s1
  have h1 : Same p a s1 := h.setBank
  extract_lets +onlyGivenNames s3 s4 _ s2
  have h3 : Same p a s3 := .ite h1 h1.throttleWait.countAct
  have h4 : Same p a s4 := .ite h3.incF.doRfm h3
  have h2 : Same p a s2 := .ite h1 h4.setBank
  extract_lets +onlyGivenNames b2
  exact h2.setBank

theorem Same.dramSettle {off} (h : Same p a s) [Fact (p ≠ .dram)] : Same p a (s.dramSettle off) := .ite h.setBank h

theorem Same.dramRequest {off n src} (h : Same p a s) [Fact (p ≠ .dram)] [Fact (p ≠ .mt)] : Same p a (s.dramRequest off n src) :=
  Same.foldl (h.foldl (fun _ _ k1 => k1.wakeRank.setRank.setChan.dramBurst)) (fun _ _ k2 => k2.dramSettle)

theorem Same.recordEccAddr {dram ty addr} (h : Same p a s) : Same p a (s.recordEccAddr dram ty addr) := .ite h.setF.setF h

theorem Same.eccCorrect {a'} (h : Same p a s) : Same p a (s.eccCorrect a') := by
  unfold State.eccCorrect
  extract_lets +onlyGivenNames s1
  have h1 : Same p a s1 := h.setEcc
  split
  · exact h1.incF.setF.recordEccAddr
  · exact h1.incF.setF.recordEccAddr
  · exact h1.setF
  · exact h1

theorem Same.eccUncorrectable {a'} (h : Same p a s) : Same p a (s.eccUncorrectable a') := by
  unfold State.eccUncorrectable
  split
  · exact h.incF.setF.recordEccAddr.raise
  · exact h.incF.setF.recordEccAddr.raise
  · exact h.setF.raise
  · exact h

theorem Same.eccRead {a'} (h : Same p a s) : Same p a (s.eccRead a') := by
  unfold State.eccRead
  split
  · exact h
  · exact h.eccCorrect
  · exact h.eccUncorrectable

theorem Same.eccReads {x n} (h : Same p a s) : Same p a (s.eccReads x n) := by
  induction n generalizing s x with
  | zero => exact h
  | succ n ih => exact ih h.eccRead

theorem Same.refreshBurst {j} (h : Same p a s) [Fact (p ≠ .dram)] : Same p a (s.refreshBurst j) := Same.setF (h.foldl (fun _ _ k1 => k1.setBank))

theorem Same.refreshTick {j queued} (h : Same p a s) [Fact (p ≠ .dram)] [Fact (p ≠ .mt)] : Same p a (refreshTick j queued s) :=
  .ite h (.ite h.reach.setRank.wakeRank.setF h.reach.setRank.wakeRank.setF.refreshBurst)

theorem Same.setBand {j band} (h : Same p a s) [Fact (p ≠ .dram)] : Same p a (s.setBand j band) := by
  unfold State.setBand
  extract_lets +onlyGivenNames old1
  refine .ite h ?_
  extract_lets +onlyGivenNames _ s1
  have h1 : Same p a s1 := h.setF.setRank
  extract_lets +onlyGivenNames s2
  have h2 : Same p a s2 := .ite h1.refreshBurst h1
  exact .ite h2.info (.ite h2.setF.severe h2)

theorem Same.mr4Poll {j reading band} (h : Same p a s) [Fact (p ≠ .dram)] : Same p a (mr4Poll j reading band s) :=
  .ite h.setF.setBand (.ite h.setF.setRank (.ite h.setF.setBand h.setF.setRank))

theorem Same.srUpdate (h : Same p a s) : Same p a s.srUpdate := h.setF

theorem Same.selfRefreshEntry {c sre} (h : Same p a s) [Fact (p ≠ .dram)] [Fact (p ≠ .mt)] : Same p a (selfRefreshEntry c sre s) := by
  unfold Machine.selfRefreshEntry
  extract_lets +onlyGivenNames idle1 st1
  refine .ite h ?_
  refine .ite ?_ (.ite (Same.srUpdate (Same.setChan (h.forEach (fun _ _ k3 => k3.setF)))) h)
  extract_lets +onlyGivenNames s1
  have h1 : Same p a s1 := .ite h h.reach
  extract_lets +onlyGivenNames s2
  have h2 : Same p a s2 := h1.forEach (fun _ _ k1 => k1.refreshBurst.setF)
  exact .ite (Same.srUpdate (Same.setChan (h2.forEach (fun _ _ k2 => k2.setF)))) h2

theorem Same.selfRefreshExit {c} (h : Same p a s) [Fact (p ≠ .dram)] [Fact (p ≠ .mt)] : Same p a (selfRefreshExit c s) := by
  unfold Machine.selfRefreshExit
  extract_lets +onlyGivenNames st1
  exact .ite h (.ite (Same.setChan (Same.incF (Same.setF (h.forEach (fun _ _ k1 => k1.setF)))))
      (.ite (Same.srUpdate (Same.setChan (h.reach.forEach (fun _ _ k2 => k2.setF.setF.setRank)))) h))

theorem Same.scrubChan {c} (h : Same p a s) [Fact (p ≠ .dram)] [Fact (p ≠ .mt)] : Same p a (s.scrubChan c) := by
  unfold State.scrubChan
  extract_lets +onlyGivenNames d1 total1 o1 a1 single1 s1
  have h1 : Same p a s1 := h.dramBurst.eccReads
  extract_lets +onlyGivenNames s2
  have h2 : Same p a s2 := h1.dramSettle
  extract_lets +onlyGivenNames d2 rep1 s3
  have h3 : Same p a s3 := .ite h2.setF.recordEccAddr h2
  extract_lets +onlyGivenNames now1
  exact .ite h3.setChan h3.setChan

theorem Same.dramScrub (h : Same p a s) [Fact (p ≠ .dram)] [Fact (p ≠ .mt)] : Same p a (dramScrub s) :=
  .ite h (h.forEach (fun _ _ k1 => .ite k1.scrubChan k1))

/-! ### Machine/Memory -/

theorem Same.memTouch {ep a' n src} (h : Same p a s) [Fact (p ≠ .dram)] [Fact (p ≠ .mt)] : Same p a (s.memTouch ep a' n src) := .ite h.dramRequest h

theorem Same.readResponses {ep t x n} (h : Same p a s) : Same p a (s.readResponses ep t x n) := by
  induction n generalizing s x with
  | zero => exact h
  | succ n ih => exact ih h.send

theorem Same.memRead {t'} (h : Same p a s) [Fact (p ≠ .dram)] [Fact (p ≠ .mt)] : Same p a (memRead t' s) := by
  unfold Machine.memRead
  extract_lets +onlyGivenNames ep1 h1
  refine .ite h ?_
  refine .ite h.refuse ?_
  split
  · exact h.refuse
  · exact h.memTouch.readResponses.eccReads

theorem Same.memWrongEp {t'} (h : Same p a s) : Same p a (s.memWrongEp t') := h.arrive (fun _ k1 => k1.refuse)

theorem Same.mrd {t'} (h : Same p a s) [Fact (p ≠ .dram)] [Fact (p ≠ .mt)] : Same p a (mrd t' s) :=
  .ite h.memWrongEp (.ite h (h.arrive (fun _ k1 => k1.whenDue (fun _ k2 => k2.memRead))))

theorem Same.writeWords {x be l} (h : Same p a s) [Fact (p ≠ .mem)] : Same p a (s.writeWords x be l) := by
  induction l generalizing s x with
  | nil => exact h
  | cons w l ih => exact ih (.ite h.st h.st)

theorem Same.memWrite {ts} (h : Same p a s) [Fact (p ≠ .mem)] [Fact (p ≠ .dram)] [Fact (p ≠ .mt)] : Same p a (memWrite ts s) := by
  unfold Machine.memWrite
  split
  · exact h
  · extract_lets +onlyGivenNames ep2 last2 h9 atomic2 want2 words2
    split
    · exact h.refuse
    · refine .ite h.refuse ?_
      refine .ite h.refuse ?_
      split
      · exact h.refuse
      · refine .ite h.refuse ?_
        extract_lets +onlyGivenNames s15
        have h15 : Same p a s15 := h.memTouch
        refine .ite h15.eccReads.refuse ?_
        extract_lets +onlyGivenNames s16
        have h16 : Same p a s16 := .ite h15.eccReads h15
        extract_lets +onlyGivenNames old8 w08 w18
        split
        · exact .ite h16.writeWords.respond h16.writeWords
        · exact h16.st.respond
        · exact h16.st.respond
        · exact Same.respond (.ite h16.st h16)

theorem Same.mwr {ts} (h : Same p a s) [Fact (p ≠ .mem)] [Fact (p ≠ .dram)] [Fact (p ≠ .mt)] : Same p a (mwr ts s) := by
  unfold Machine.mwr
  split
  · exact h
  · exact .ite (h.arrive (fun _ k4 => k4.refuse)) (.ite h (h.arrive (fun _ k5 => k5.whenDue (fun _ k6 => k6.memWrite))))

theorem Same.scrubBlock {a'} (h : Same p a s) : Same p a (s.scrubBlock a') :=
  .ite (Same.setScrub (.ite h.eccReads.setF.recordEccAddr h.eccReads)) (.ite h.eccReads.setF.recordEccAddr h.eccReads)

theorem Same.plainScrub (h : Same p a s) : Same p a (plainScrub s) :=
  .ite h (.ite (Same.setScrub (h.forEach (fun _ _ k1 => k1.scrubBlock))) (Same.setScrub (h.forEach (fun _ _ k1 => k1.scrubBlock))))

theorem Same.setCore {r c} (h : Same p a s) [Fact (p ≠ .cores)] : Same p a (s.setCore r c) := h.setCores

theorem Same.setCoreState {r v} (h : Same p a s) : Same p a (s.setCoreState r v) := h.setF

/-! ### Machine/Zynzu -/

theorem Same.zLoad {r op addr} (h : Same p a s) : Same p a (loadState (zLoad r op addr s)) := by
  unfold Machine.zLoad
  extract_lets n x
  split
  · exact h
  · split
    · exact h
    · split
      · exact h.eccUncorrectable
      · exact h.eccRead

theorem Same.zStore {r op addr v} (h : Same p a s) [Fact (p ≠ .mem)] : Same p a (storeState (zStore r op addr v s)) := by
  unfold Machine.zStore
  extract_lets n x
  split
  · exact h
  · split
    · exact h
    · split
      · exact h.eccUncorrectable
      · exact (Same.ite h.setEcc h.eccRead).setBytes

theorem Same.zSend {r p' payload last c} (h : Same p a s) : Same p a ((zSend r p' payload last s c).1) := h.setNet

theorem Same.t6Send {r dest kind ws} (h : Same p a s) : Same p a (s.t6Send r dest kind ws) := h.sendMsg

theorem Same.zException {r code info c} (h : Same p a s) [Fact (p ≠ .cores)] : Same p a (zException r code info s c) :=
  .ite h.setCore.setCoreState.setF.raise h.setCore.setCoreState

theorem Same.zAlu {r fn rd ra rb m c} (h : Same p a s) : Same p a (zAlu r fn rd ra rb m s c).state := by
  unfold Machine.zAlu
  extract_lets +onlyGivenNames recv sends pa pd
  clear_value recv sends pa pd
  split
  · exact h
  · extract_lets +onlyGivenNames tok x src c'
    split
    · exact h
    · extract_lets +onlyGivenNames v
      split
      · split
        · exact h
        · exact h.zSend
      · exact h

theorem Same.zTok {r fn g tp sel c} (h : Same p a s) : Same p a (zTok r fn g tp sel s c).state := by
  unfold Machine.zTok
  dsimp only
  split
  · exact h
  · exact h
  · exact h
  · split
    · exact h
    · exact h.zSend
  · split <;> exact h
  · exact h

theorem Same.zBulk {r fn rd ra rb c} (h : Same p a s) : Same p a (zBulk r fn rd ra rb s c).state := by
  unfold Machine.zBulk
  dsimp only
  repeat' split
  all_goals exact h

theorem Same.zSys {r fn rd ra rb c} (h : Same p a s) : Same p a (zSys r fn rd ra rb s c).state := by
  unfold Machine.zSys
  extract_lets x y req posted ad
  have hreq : ∀ dest kind ws, Same p a (req dest kind ws).state := fun _ _ _ => h.t6Send
  have hposted : ∀ dest kind ws, Same p a (posted dest kind ws).state := fun _ _ _ => by
    unfold posted
    split
    · exact h
    · exact h.t6Send
  split
  case h_6 => split <;> exact h
  case h_7 => exact hreq _ _ _
  case h_8 => split <;> exact h
  case h_9 | h_10 | h_11 => exact h.zBulk
  case h_12 =>
    split
    · exact h
    · split
      case h_2 | h_7 => exact hposted _ _ _
      all_goals exact hreq _ _ _
  all_goals exact h

theorem Same.zAttempt {r op c} (h : Same p a s) [Fact (p ≠ .mem)] : Same p a (zAttempt r op s c).state := by
  cases op with
  | alu => exact h.zAlu
  | imm o rd ra i =>
    unfold Machine.zAttempt
    dsimp only
    split
    · exact h
    · have k := h.zLoad (r := r) (op := o.toNat) (addr := c.reg ra + i.signExtend 64)
      split
      · next e => rwa [e] at k
      · next e => rwa [e] at k
  | store o rs ra i =>
    unfold Machine.zAttempt
    dsimp only
    have k := h.zStore (r := r) (op := o.toNat) (addr := c.reg ra + i.signExtend 64) (v := c.reg rs)
    split
    · next e => rwa [e] at k
    · next e => rwa [e] at k
  | br | call =>
    unfold Machine.zAttempt
    dsimp only
    split <;> exact h
  | jalr =>
    unfold Machine.zAttempt
    dsimp only
    split
    · exact h
    · split <;> exact h
  | tok => exact h.zTok
  | sys => exact h.zSys
  | long | cmp | cmpi | plog | illegal => exact h

theorem Same.zFinish {r g op s0 o} (h : Same p a o.state) [Fact (p ≠ .cores)] : Same p a (zFinish r g op s0 o) := by
  cases o with
  | exc code info s c => exact Same.zException (s := s) h
  | retire s | halt s | block _ _ _ s => exact Same.setCoreState (Same.setCore (s := s) h)

theorem Same.zRun {r g op} (h : Same p a s) [Fact (p ≠ .mem)] [Fact (p ≠ .cores)] :
    Same p a (zRun r g op s) :=
  .ite h.zException (.ite (Same.zFinish (o := .retire s _ _) h) (Same.zFinish h.zAttempt))

theorem Same.zExec {r g op} (h : Same p a s) [Fact (p ≠ .mem)] [Fact (p ≠ .cores)] : Same p a (zExec r g op s) := .ite h.zRun h

theorem Same.zResume {r} (h : Same p a s) [Fact (p ≠ .mem)] [Fact (p ≠ .cores)] : Same p a (zResume r s) := by
  unfold Machine.zResume
  split
  · exact h.zExec
  · exact h

theorem Same.zFetchRun {r} (h : Same p a s) [Fact (p ≠ .mem)] [Fact (p ≠ .cores)] : Same p a (zFetchRun r s) :=
  .ite h.zException (.ite h.zException (.ite h.eccUncorrectable.zException h.eccRead.zRun))

theorem Same.asyncTaken {r} (h : Same p a s) [Fact (p ≠ .cores)] : Same p a (asyncTaken r s) := by
  unfold Machine.asyncTaken
  extract_lets +onlyGivenNames c1
  split
  · exact .ite h.setCore h
  · exact h

theorem Same.t6Answer {r b t' refused} (h : Same p a s) [Fact (p ≠ .cores)] : Same p a (t6Answer r b t' refused s) := by
  unfold Machine.t6Answer
  extract_lets +onlyGivenNames c1
  split
  · exact .ite h.zException h.zFinish
  · exact h

theorem Same.portArrival {r p' t' refused} (h : Same p a s) [Fact (p ≠ .mem)] [Fact (p ≠ .cores)] : Same p a (portArrival r p' t' refused s) := by
  unfold Machine.portArrival
  extract_lets +onlyGivenNames ep1 st1 c1
  refine .ite h ?_
  refine .ite h ?_
  refine Same.arrive h ?_
  intro _ k1
  refine .ite k1.refuse ?_
  refine .ite ?_ (.ite k1.absorb (.ite k1.refuse (.ite k1.refuse k1.setCore.zResume)))
  split
  · exact .ite k1.t6Answer k1.refuse
  · exact k1.refuse

theorem Same.creditReturn {t' n} (h : Same p a s) [Fact (p ≠ .mem)] [Fact (p ≠ .cores)] : Same p a (creditReturn t' n s) :=
  .ite h.deliver.setCore.zResume (.ite h.deliver h)

theorem Same.portTimeout {r} (h : Same p a s) [Fact (p ≠ .cores)] [Fact (p ≠ .mt)] : Same p a (portTimeout r s) := by
  unfold Machine.portTimeout
  extract_lets +onlyGivenNames c1 lim1
  split
  · exact .ite h.reach.zException h
  · exact h

theorem Same.postedAck {r t'} (h : Same p a s) [Fact (p ≠ .mem)] [Fact (p ≠ .cores)] : Same p a (postedAck r t' s) :=
  .ite h h.deliver.setCore.zResume

theorem Same.bulkRun {src x d n} (h : Same p a s) [Fact (p ≠ .mem)] [Fact (p ≠ .dram)]
    [Fact (p ≠ .mt)] : Same p a (bulkRun src s x d n).1 := by
  induction n generalizing s x d with
  | zero => exact h
  | succ n ih =>
    unfold Machine.bulkRun
    dsimp only
    split
    · exact h
    · split
      · exact h.memTouch.eccRead
      · split
        · exact h
        · exact ih h.memTouch.eccRead.memTouch.st

theorem Same.bulkComplete {r stream} (h :
    Same p a s) [Fact (p ≠ .mem)] [Fact (p ≠ .cores)] [Fact (p ≠ .dram)] [Fact (p ≠ .mt)] : Same p a (bulkComplete r stream s) := by
  unfold Machine.bulkComplete
  extract_lets +onlyGivenNames c1
  split
  · exact h
  · exact h.bulkRun.setCore.zResume

theorem Same.coreStart {r} (h : Same p a s) [Fact (p ≠ .cores)] : Same p a (coreStart r s) := .ite h.setCore.setCoreState h.info

theorem Same.coreHalt {r} (h : Same p a s) [Fact (p ≠ .cores)] : Same p a (coreHalt r s) := .ite h.setCore.setCoreState h

theorem Same.coreStep {r} (h : Same p a s) [Fact (p ≠ .mem)] [Fact (p ≠ .cores)] : Same p a (coreStep r s) := .ite h.setCore.zFetchRun h.info

theorem Same.coreCtrlEffect {r data} (h : Same p a s) [Fact (p ≠ .mem)] [Fact (p ≠ .cores)] : Same p a (coreCtrlEffect r data s) :=
  .ite h.coreStart (.ite h.coreHalt (.ite h.coreStep h))

theorem Same.coreRotation {r phys} (h : Same p a s) [Fact (p ≠ .cores)] : Same p a (coreRotation r phys s) := .ite h.setCore.setCoreState h

theorem Same.coreMoveComplete {r} (h : Same p a s) [Fact (p ≠ .mem)] [Fact (p ≠ .cores)] : Same p a (coreMoveComplete r s) := by
  unfold Machine.coreMoveComplete
  extract_lets +onlyGivenNames c1
  split
  · exact h
  · exact h.setCore.setCoreState.setF.zResume

theorem Same.coreLost {r} (h : Same p a s) [Fact (p ≠ .cores)] : Same p a (coreLost r s) := h.setCore.setCoreState

theorem Same.clearRange {a' n} (h : Same p a s) [Fact (p ≠ .mem)] : Same p a (s.clearRange a' n) := h.setMem.setEccs

theorem Same.copyRange {src dst n} (h : Same p a s) [Fact (p ≠ .mem)] : Same p a (s.copyRange src dst n) :=
  h.clearRange.foldl (fun _ _ k1 => k1.setByte)

theorem Same.coreRestart {r phys} (h : Same p a s) [Fact (p ≠ .mem)] [Fact (p ≠ .cores)] : Same p a (coreRestart r phys s) :=
  .ite h (.ite h.warn (Same.coreStart (Same.setCoreState (Same.setF (Same.incF (.ite h.copyRange.copyRange h.copyRange.clearRange))))))

/-! ### Machine/Power -/

theorem Same.brownoutWarning {rail} (h : Same p a s) : Same p a (brownoutWarning rail s) := h.gateOffAll.critical

theorem Same.throttleSlot (h : Same p a s) [Fact (p ≠ .cores)] [Fact (p ≠ .mt)] : Same p a (throttleSlot s) :=
  h.reach.foldl (fun _ _ k1 => .ite k1.setCore k1)

theorem Same.wakeRequest {b more} (h : Same p a s) [Fact (p ≠ .power)] : Same p a (s.wakeRequest b more) := .ite h.setWake.setF h.setWake

theorem Same.blockSleep {b} (h : Same p a s) [Fact (p ≠ .power)] : Same p a (blockSleep b s) := .ite h.setWake h

theorem Same.wakePermitGrant (h : Same p a s) [Fact (p ≠ .power)] : Same p a (wakePermitGrant s) := by
  unfold Machine.wakePermitGrant
  extract_lets +onlyGivenNames s1
  have h1 : Same p a s1 := h.foldl (fun _ _ k1 => .ite k1.wakeRequest k1)
  extract_lets +onlyGivenNames w1
  split
  · exact h1
  · exact .ite h1 (.ite (Same.wakeRequest (.ite h1.setWake.incF.setF h1.setWake.incF)) (.ite h1.setWake.incF.setF h1.setWake.incF))

theorem Same.permitReturn (h : Same p a s) [Fact (p ≠ .power)] [Fact (p ≠ .mt)] : Same p a (permitReturn s) := by
  unfold Machine.permitReturn
  split
  · exact h
  · exact h.reach.setWake

theorem Same.wakeComplete {b} (h : Same p a s) [Fact (p ≠ .power)] [Fact (p ≠ .mt)] : Same p a (wakeComplete b s) := by
  unfold Machine.wakeComplete
  split
  · exact h
  · exact h.reach.setWake

theorem Same.earlyWake {r} (h : Same p a s) [Fact (p ≠ .power)] : Same p a (earlyWake r s) := .ite h.wakeRequest h

theorem Same.eraseKeys (h : Same p a s) [Fact (p ≠ .flash)] [Fact (p ≠ .keys)] : Same p a s.eraseKeys :=
  Same.setF (h.setKeySlots.setFlash.foldl (fun _ _ k1 => k1.setWord.setF.setF))

theorem Same.tamper (h : Same p a s) [Fact (p ≠ .flash)] [Fact (p ≠ .keys)] : Same p a (tamper s) := .ite h h.eraseKeys.setF.setF.critical

theorem Same.vaultSupplyLoss {onVbat tampLow} (h :
    Same p a s) [Fact (p ≠ .flash)] [Fact (p ≠ .keys)] [Fact (p ≠ .power)] : Same p a (vaultSupplyLoss onVbat tampLow s) :=
  Same.setVault (.ite h.tamper h)

theorem Same.vaultSupplyReturn (h : Same p a s) [Fact (p ≠ .power)] : Same p a (vaultSupplyReturn s) := .ite h h.setVault.putAt

theorem Same.crystalStop (h : Same p a s) : Same p a (crystalStop s) := h.putAt.setTb.setF

theorem Same.crystalRestart (h : Same p a s) : Same p a (crystalRestart s) := .ite h.putAt.setTb h

theorem Same.vaultEffect {a' data} (h : Same p a s) : Same p a (vaultEffect a' data s) := .ite h.setF h

/-! ### Machine/Repair -/

theorem Same.assign {u role st} (h : Same p a s) : Same p a (s.assign u role st) := .ite h.setF.setF.setF (.ite h.setF.setF.setUnit h.setF.setF)

theorem Same.repairEntry {typ action unit arg} (h : Same p a s) : Same p a (s.repairEntry typ action unit arg) := .ite h (.ite h.setF h.setBoot)

theorem Same.writeRecord (h : Same p a s) [Fact (p ≠ .flash)] : Same p a s.writeRecord := h.setFlash.setBoot

theorem Same.repairRecordWrite (h : Same p a s) [Fact (p ≠ .flash)] [Fact (p ≠ .mt)] : Same p a (repairRecordWrite s) :=
  Same.writeRecord (.ite h h.reach)

theorem Same.spareUsed {k} (h : Same p a s) : Same p a (s.spareUsed k) := .ite h.setF.warn h

theorem Same.unserved {k role} (h : Same p a s) : Same p a (s.unserved k role) := .ite h.severe.setPipesOff h.severe

theorem Same.unitFailed {u arg} (h : Same p a s) [Fact (p ≠ .mem)] [Fact (p ≠ .cores)] : Same p a (s.unitFailed u arg) := by
  unfold State.unitFailed
  refine .ite h ?_
  extract_lets +onlyGivenNames k1 role1 wasSpare1 s1
  have h1 : Same p a s1 := h.assign.setF.repairEntry
  refine .ite h1.spareUsed ?_
  refine .ite h1 ?_
  refine .ite (.ite h1.coreLost.raise h1.coreLost.record7) ?_
  split
  · exact h1.assign.spareUsed
  · exact h1.unserved

theorem Same.coreFailed {r} (h : Same p a s) [Fact (p ≠ .mem)] [Fact (p ≠ .cores)] : Same p a (coreFailed r s) := by
  unfold Machine.coreFailed
  split
  · exact h.unitFailed
  · exact h

theorem Same.coreRestartOn {r phys} (h : Same p a s) [Fact (p ≠ .mem)] [Fact (p ≠ .cores)] : Same p a (coreRestartOn r phys s) :=
  .ite h (.ite h.coreRestart.assign.spareUsed h.coreRestart)

theorem Same.coreRotate {r phys} (h : Same p a s) [Fact (p ≠ .cores)] : Same p a (coreRotate r phys s) :=
  .ite h (.ite h.coreRotation.setF h.coreRotation)

theorem Same.coreMoved {r} (h : Same p a s) [Fact (p ≠ .mem)] [Fact (p ≠ .cores)] : Same p a (coreMoved r s) := by
  unfold Machine.coreMoved
  split
  · exact h
  · extract_lets +onlyGivenNames s2
    have h2 : Same p a s2 := by
      unfold s2
      split
      · exact h.assign
      · exact h
    exact h2.assign.coreMoveComplete

theorem Same.sectionFailed {k l} (h : Same p a s) : Same p a (sectionFailed k l s) := by
  unfold Machine.sectionFailed
  refine .ite h ?_
  extract_lets +onlyGivenNames role1 next1 s1
  have h1 : Same p a s1 := h.unitFail
  extract_lets +onlyGivenNames s2
  have h2 : Same p a s2 := h1.setF.setF.setF.repairEntry
  clear_value next1
  split
  · exact h2.setF.setF.spareUsed
  · exact h2.severe

theorem Same.testCount {u pass} (h : Same p a s) : Same p a (s.testCount u pass) := .ite h.incF h.incF

theorem Same.rotateTo {u v} (h : Same p a s) [Fact (p ≠ .cores)] : Same p a (s.rotateTo u v) :=
  .ite h (.ite h.coreRotate (.ite h.assign.assign (.ite h h.assign.assign)))

theorem Same.testSpare {u pass0 pass1 rotate} (h :
    Same p a s) [Fact (p ≠ .mem)] [Fact (p ≠ .cores)] : Same p a (s.testSpare u pass0 pass1 rotate) := by
  unfold State.testSpare
  refine .ite h ?_
  extract_lets +onlyGivenNames s1
  have h1 : Same p a s1 := h.testCount
  extract_lets +onlyGivenNames s2
  have h2 : Same p a s2 := .ite h1 h1.testCount
  refine .ite h2.unitFailed ?_
  split
  · exact h2.rotateTo
  · exact h2

theorem Same.testGorge {c pass0 pass1} (h : Same p a s) : Same p a (s.testGorge c pass0 pass1) := .ite h (.ite h h.setF.severe.repairEntry)

theorem Same.backgroundTest {u pass0 pass1 cut rotate} (h :
    Same p a s) [Fact (p ≠ .mem)] [Fact (p ≠ .cores)] : Same p a (backgroundTest u pass0 pass1 cut rotate s) := by
  unfold Machine.backgroundTest
  refine .ite h ?_
  split
  · exact h.testSpare
  · exact h.testGorge

/-! ### Machine/Upload -/

theorem Same.upUpdate {n} (h : Same p a s) : Same p a (s.upUpdate n) := .ite h.setF h.setF.setF

theorem Same.upQueue {n src stream addr len daleTag} (h : Same p a s) [Fact (p ≠ .uploads)] : Same p a (s.upQueue n src stream addr len daleTag) :=
  h.setUp.upUpdate

theorem Same.serviceAnswer {src stream code off} (h : Same p a s) : Same p a (s.serviceAnswer src stream code off) := h.send

theorem Same.uplSend {n} (h : Same p a s) [Fact (p ≠ .uploads)] : Same p a (uplSend n s) := by
  unfold Machine.uplSend
  extract_lets +onlyGivenNames x1 ports1
  refine .ite h ?_
  split
  · exact h
  · exact h.setUp.toSubscriber.upUpdate

theorem Same.uploadRetransmit {n} (h : Same p a s) [Fact (p ≠ .uploads)] [Fact (p ≠ .mt)] : Same p a (uploadRetransmit n s) :=
  .ite h (.ite h.reach.setF.warn h.reach.setUp)

theorem Same.service {toks op act} (h : Same p a s) (hact : ∀ x1 t, Same p a t → Same p a (act x1 t)) : Same p a (s.service toks op act) := by
  unfold State.service
  split
  · exact h
  · refine .ite h ?_
    refine Same.arrive h ?_
    intro _ k2
    split
    · exact k2.refuse
    · exact hact _ _ k2

theorem Same.upload {toks} (h : Same p a s) [Fact (p ≠ .uploads)] : Same p a (upload toks s) :=
  h.service (fun _ _ k1 => .ite k1.serviceAnswer (.ite k1.serviceAnswer k1.upQueue))

theorem Same.reply {toks} (h : Same p a s) : Same p a (reply toks s) := h.service (fun _ _ k1 => .ite k1.serviceAnswer k1.evt.serviceAnswer)

/-! ### Machine/Boot -/

theorem Same.trainDram {pass0 pass1 imt mmt} (h : Same p a s) [Fact (p ≠ .dram)] : Same p a (trainDram pass0 pass1 imt mmt s) :=
  .ite (Same.setF (Same.setF (Same.setF (h.setRaaimt.setRaammt.setDramBanks.forEach (fun _ _ k1 => k1.setRank))))) h.setF.setF.setF.setF.severe

theorem Same.copyPayload {x} (h : Same p a s) [Fact (p ≠ .mem)] : Same p a (s.copyPayload x) := h.setBytes

theorem Same.placeImage {r} (h : Same p a s) [Fact (p ≠ .mem)] : Same p a (s.placeImage r) := by
  unfold State.placeImage
  split
  next w t e =>
  have ht : Same p a t := .of_snd e h.free
  extract_lets +onlyGivenNames n
  split
  · exact ht
  · extract_lets +onlyGivenNames b img u
    exact (ht.forEach fun _ _ k => k.setBytes).setF.setF.setF

theorem Same.bootEnd (h : Same p a s) [Fact (p ≠ .mem)] : Same p a s.bootEnd :=
  Same.setF (Same.setF (Same.setF (.ite (Same.placeImage (Same.placeImage (h.forEach (fun _ _ k1 => k1.copyPayload)))) h)))

theorem Same.dramTraining {pass0 pass1 imt mmt} (h :
    Same p a s) [Fact (p ≠ .mem)] [Fact (p ≠ .dram)] : Same p a (dramTraining pass0 pass1 imt mmt s) :=
  .ite h (.ite h.trainDram.bootEnd h.trainDram)

theorem Same.bootEffect {data} (h : Same p a s) [Fact (p ≠ .flash)] : Same p a (bootEffect data s) :=
  .ite (Same.setBoot (Same.setFlash (.ite h.setF.setF h.setF))) (.ite h.setF.setF h.setF)

theorem Same.setLane {k x} (h : Same p a s) : Same p a (s.setLane k x) := h.setLanes

theorem Same.setLink {n x} (h : Same p a s) : Same p a (s.setLink n x) := h.setLinks

theorem Same.setLinkState {n st} (h : Same p a s) : Same p a (s.setLinkState n st) := .ite h.setLink.setF h.setLink

/-! ### Machine/Link -/

theorem Same.linkRaise {cls n} (h : Same p a s) : Same p a (s.linkRaise cls n) := h.raise

theorem Same.linkLocks {n} (h : Same p a s) : Same p a (s.linkLocks n) := .ite (.ite h.setF.setF h.setF) h

theorem Same.laneTo {k st} (h : Same p a s) : Same p a (s.laneTo k st) := by
  unfold State.laneTo
  extract_lets +onlyGivenNames _ s1
  have h1 : Same p a s1 := h.setLane
  split
  · exact h1.linkLocks
  · exact h1

theorem Same.lanesTo {n st} (h : Same p a s) : Same p a (s.lanesTo n st) := h.foldl (fun _ _ k1 => .ite k1 k1.laneTo)

theorem Same.leaveActive {n st} (h : Same p a s) [Fact (p ≠ .mem)] : Same p a (s.leaveActive n st) :=
  Same.setLinkState (Same.setLink (.ite h.linkFlush h))

theorem Same.linkDrop {n st} (h : Same p a s) [Fact (p ≠ .mem)] : Same p a (s.linkDrop n st) := Same.lanesTo (.ite h.leaveActive h.setLinkState)

theorem Same.delayUpdate {n} (h : Same p a s) : Same p a (s.delayUpdate n) := by
  unfold State.delayUpdate
  split
  · exact h.setF
  · exact h

theorem Same.skewCheck {n} (h : Same p a s) : Same p a (s.skewCheck n) := by
  unfold State.skewCheck
  refine .ite h ?_
  split
  · exact .ite h.setLink.setF.linkRaise h.setLink
  · exact h

theorem Same.single {n} (h : Same p a s) [Fact (p ≠ .mem)] : Same p a (s.single n) := h.setLink.setF.linkRaise.delayUpdate.record7

theorem Same.laneLost {k st fault} (h : Same p a s) [Fact (p ≠ .mem)] : Same p a (s.laneLost k st fault) := by
  unfold State.laneLost
  extract_lets +onlyGivenNames s1
  have h1 : Same p a s1 := h.laneTo
  split
  · exact h1
  · exact .ite h1 (.ite h1.single (.ite h1.leaveActive.linkRaise h1.leaveActive))

theorem Same.detectPoll {n term} (h : Same p a s) [Fact (p ≠ .mt)] : Same p a (detectPoll n term s) :=
  .ite (.ite h.reach.setLinkState.lanesTo h.reach.setLink) (.ite (h.foldl (fun _ _ k1 => .ite (.ite k1.reach.laneTo k1.reach.setLane) k1)) h)

theorem Same.symbolLock {n mirror} (h : Same p a s) : Same p a (symbolLock n mirror s) := .ite h (.ite h.laneTo.setLinkState h.laneTo)

theorem Same.blockLock {n mirror} (h : Same p a s) : Same p a (blockLock n mirror s) := .ite h (.ite h.laneTo.setLinkState h.laneTo)

theorem Same.linkStateTimeout {n mirror} (h : Same p a s) [Fact (p ≠ .mem)] [Fact (p ≠ .mt)] : Same p a (linkStateTimeout n mirror s) := by
  unfold Machine.linkStateTimeout
  extract_lets +onlyGivenNames st1 since1 retrain1
  have hretrain1 : ∀ t, Same p a t → Same p a (retrain1 t) := fun _ k1 => .ite k1.incF k1
  exact .ite (hretrain1 _ h.reach.linkDrop) (.ite h.reach.linkDrop
      (.ite h.reach.linkDrop (.ite (.ite (hretrain1 _ h.reach.laneTo) (.ite h.reach.laneTo h)) h)))

theorem Same.capRecord {n data} (h : Same p a s) : Same p a (capRecord n data s) :=
  .ite h (.ite (Same.linkRaise (Same.setLinkState (.ite h.setF.setF.setF.setF h)))
    (Same.setLink (Same.setLinkState (.ite h.setF.setF.setF.setF h))))

theorem Same.badBlock {n mirror viol good} (h : Same p a s) [Fact (p ≠ .mem)] : Same p a (badBlock n mirror viol good s) :=
  .ite h (.ite (.ite h.incF h) (.ite (Same.laneLost (Same.setLane (.ite h.incF h))) (Same.setLane (.ite h.incF h))))

theorem Same.takeBlock {n mirror bseq arr} (h : Same p a s) [Fact (p ≠ .mt)] : Same p a ((s.takeBlock n mirror bseq arr).2) := by
  unfold State.takeBlock
  extract_lets +onlyGivenNames s1
  have h1 : Same p a s1 := h.reach
  extract_lets +onlyGivenNames x1
  split
  · exact h1
  · split
    · exact h1
    · extract_lets +onlyGivenNames live1
      split
      · exact h1.setLink
      · exact h1.setLink

theorem Same.countRsv {n rsv} (h : Same p a s) : Same p a (s.countRsv n rsv) := .ite h.incF h

theorem Same.superframeStart {ts} (h : Same p a s) [Fact (p ≠ .mt)] : Same p a (superframeStart ts s) := by
  unfold Machine.superframeStart
  refine .ite h ?_
  extract_lets +onlyGivenNames s1
  have h1 : Same p a s1 := h.reach
  extract_lets +onlyGivenNames s2
  have h2 : Same p a s2 := by
    unfold s2
    split
    · exact h1.deliver
    · exact h1
  exact h2.foldl (fun _ _ k1 => .ite k1 (k1.foldl (fun _ _ k2 => .ite k2 k2.setLane)))

theorem Same.htTrack {n ofs} (h : Same p a s) : Same p a (s.htTrack n ofs) := .ite h.setFi.setHt.setF.setF.raise h.setFi.setF.setHt

theorem Same.sfsReceive {n mirror bseq mtr data} (h : Same p a s) [Fact (p ≠ .mt)] :
    Same p a (sfsReceive n mirror bseq mtr data s) := by
  unfold Machine.sfsReceive
  extract_lets +onlyGivenNames k hts htx
  split
  next first t e =>
  have ht : Same p a t := .of_snd e h.takeBlock
  refine .ite ht ?_
  extract_lets +onlyGivenNames x s1
  have h1 : Same p a s1 := by
    unfold s1
    split
    · exact ht.setLane
    · exact ht
  clear_value s1
  extract_lets +onlyGivenNames s2
  have h2 : Same p a s2 := h1.skewCheck.delayUpdate
  clear_value s2
  refine .ite h2 ?_
  extract_lets +onlyGivenNames x3 s3
  split
  · exact h2.countRsv.setLink.htTrack
  · exact h2.countRsv.setLink

theorem Same.headSamples {n data} (h : Same p a s) : Same p a (s.headSamples n data) :=
  .ite (Same.foldl (.ite h.setLink h.setLink.setLoop) (fun _ _ k1 => k1.sincos)) (.ite h.setLink h.setLink.setLoop)

theorem Same.hubSamples {n data} (h : Same p a s) : Same p a (s.hubSamples n data) := h.countRsv.hubSample

theorem Same.smpBlockReceive {n mirror bseq arr data} (h : Same p a s) [Fact (p ≠ .mt)] : Same p a (smpBlockReceive n mirror bseq arr data s) :=
  .ite h.takeBlock (.ite h.takeBlock.headSamples h.takeBlock.hubSamples)

theorem Same.linkDrain {n fuel} (h : Same p a s) : Same p a (s.linkDrain n fuel) := by
  induction fuel generalizing s with
  | zero => exact h
  | succ fuel ih =>
    unfold State.linkDrain
    dsimp only
    split
    · exact h
    · exact .ite h (ih h.setLink)

theorem Same.linkSend {n t'} (h : Same p a s) : Same p a (s.linkSend n t') := h.setLink.linkDrain

theorem Same.tokBlockReceive {n mirror bseq arr data} (h : Same p a s) [Fact (p ≠ .mt)] : Same p a (tokBlockReceive n mirror bseq arr data s) :=
  .ite h.takeBlock (.ite h.takeBlock.countRsv.setLink.linkDrain.event.setNet h.takeBlock.countRsv.setLink.linkDrain)

theorem Same.refclkLoss {r} (h : Same p a s) [Fact (p ≠ .mem)] : Same p a (refclkLoss r s) := Same.severe (h.foldl (fun _ _ k1 => k1.linkDrop))

theorem Same.testStart {k} (h : Same p a s) [Fact (p ≠ .mem)] : Same p a (s.testStart k) := Same.setLane (.ite h.laneLost h.laneTo)

theorem Same.prbsEnd {k nbits nerrs} (h : Same p a s) [Fact (p ≠ .mt)] : Same p a (prbsEnd k nbits nerrs s) := by
  unfold Machine.prbsEnd
  split
  · exact h
  · exact h.reach.incF.incF.setF.setLane.laneTo

theorem Same.eqLimit {k} (h : Same p a s) : Same p a (eqLimit k s) := h.setF.info

theorem Same.adapted {k} (h : Same p a s) : Same p a (s.adapted k) := by
  unfold State.adapted
  extract_lets +onlyGivenNames take1
  have htake1 : ∀ t x1, Same p a t → Same p a (take1 t x1) := fun _ _ k1 => k1.free.setF
  extract_lets +onlyGivenNames s1
  have h1 : Same p a s1 := .ite h h.free.setF
  exact .ite h1 (htake1 _ _ (htake1 _ _ (htake1 _ _ (htake1 _ _ (htake1 _ _ h1)))))

theorem Same.laneRead {a'} (h : Same p a s) : Same p a (laneRead a' s) := .ite h (.ite h.adapted h)

theorem Same.linkEffect {a' data old} (h : Same p a s) [Fact (p ≠ .mem)] : Same p a (linkEffect a' data old s) := by
  unfold Machine.linkEffect
  split
  · exact .ite (.ite h (.ite h.linkDrop h.linkDrop.laneTo))
      (.ite (.ite (.ite h.setF.adapted.setF h) (Same.setF (.ite h.setF.adapted.setF h))) (.ite (.ite h.setF (.ite h.testStart h)) h))
  · split
    · exact .ite (Same.linkDrop (.ite h.linkDrop (.ite h.linkDrop h))) (.ite h.linkDrop (.ite h.linkDrop h))
    · exact h

/-! ### Machine/Cols -/

theorem Same.colJudged {n t' released} (h : Same p a s) : Same p a (s.colJudged n t' released) := .ite h.expJudged h

theorem Same.colDrive {n t4 level ident short} (h : Same p a s) : Same p a (s.colDrive n t4 level ident short) :=
  .ite (.ite h.incF (.ite (Same.event (.ite h.setCol.noteGates.event h.setCol.noteGates)) (.ite h.setCol.noteGates.event h.setCol.noteGates)))
    (.ite h.setCol.expRise (.ite h.setCol.expEnd h.setCol))

theorem Same.colCancel {n t4} (h : Same p a s) : Same p a (s.colCancel n t4) := by
  unfold State.colCancel
  split
  · exact h
  · exact .ite (.ite h.setCol.setSlot h.setCol.expEnd) h.setCol

theorem Same.colFault {n d0 d1} (h : Same p a s) [Fact (p ≠ .mem)] [Fact (p ≠ .pgs)] : Same p a (s.colFault n d0 d1) := by
  unfold State.colFault
  extract_lets +onlyGivenNames s1
  have h1 : Same p a s1 := h.setF
  extract_lets +onlyGivenNames s2
  have h2 : Same p a s2 := .ite h1.colCancel h1
  extract_lets +onlyGivenNames s3
  have h3 : Same p a s3 := .ite h2.colDrive (.ite h2.colDrive h2)
  extract_lets +onlyGivenNames s4
  have h4 : Same p a s4 := .ite h3.suspendNow h3
  extract_lets +onlyGivenNames cls1
  exact h4.raise

theorem Same.colLate {n t'} (h : Same p a s) [Fact (p ≠ .mem)] [Fact (p ≠ .pgs)] : Same p a ((s.colLate n t').2) := by
  unfold State.colLate
  extract_lets +onlyGivenNames s1
  have h1 : Same p a s1 := h.setF.incF.event
  extract_lets +onlyGivenNames d01 d11
  split
  · exact h1.colJudged.colFault
  · exact h1.raise
  · exact h1.colJudged.raise

theorem Same.colSlack {n t' slack} (h : Same p a s) : Same p a (s.colSlack n t' slack) :=
  .ite (Same.event (Same.setF (.ite h.setFi.setFi h.setFi))) (.ite h.setFi.setFi h.setFi)

theorem Same.colPut {n t' due} (h : Same p a s) : Same p a (s.colPut n t' due) := h.colJudged.setCol

theorem Same.colJudge {n t'} (h : Same p a s) [Fact (p ≠ .mem)] [Fact (p ≠ .pgs)] :
    Same p a (s.colJudge n t') := by
  have hlate : ∀ {t : State}, Same p a t → Same p a (match t.colLate n t' with
      | (some d, u) => u.colPut n t' (some d)
      | (none, u) => u) := fun k => by
    split
    · next e => exact (Same.of_snd e k.colLate).colPut
    · next e => exact Same.of_snd e k.colLate
  unfold State.colJudge
  refine .ite ?_ (.ite (hlate h) h.colPut)
  exact .ite (hlate (Same.ite h.setF h).colSlack) (Same.ite h.setF h).colSlack.colPut

theorem Same.colSeq {n t'} (h : Same p a s) : Same p a (s.colSeq n t') := .ite (.ite h.setCol.setF h.setCol) h

theorem Same.colWidth {n t'} (h : Same p a s) : Same p a (s.colWidth n t') := .ite h.info h

theorem Same.colAccept {n t'} (h : Same p a s) [Fact (p ≠ .mem)] [Fact (p ≠ .pgs)] : Same p a (colAccept n t' s) := by
  unfold Machine.colAccept
  extract_lets +onlyGivenNames ep1 urgent1
  refine .ite h ?_
  refine Same.arrive h ?_
  intro _ k1
  refine .ite k1.absorb ?_
  refine .ite k1.refuse ?_
  refine .ite (.ite k1.refuse.incF (.ite k1.refuse.incF k1.refuse)) ?_
  split
  · exact k1.refuse
  · exact .ite k1.colSeq.colWidth.event.linkSend k1.colSeq.colWidth.colJudge

theorem Same.pinRelease {n t' tok} (h : Same p a s) : Same p a (s.pinRelease n t' tok) := by
  unfold State.pinRelease
  extract_lets +onlyGivenNames c1 a1 f11 s1
  have h1 : Same p a s1 := .ite h.incF h
  extract_lets +onlyGivenNames _ s2
  have h2 : Same p a s2 := by
    unfold s2
    split
    · exact .ite h1.setCol.colDrive h1.colCancel
    · exact h1
  extract_lets +onlyGivenNames _ s3
  have h3 : Same p a s3 := h2.setCol
  extract_lets +onlyGivenNames was1 first1 _ s4
  have h4 : Same p a s4 := .ite h3.setSlot h3
  extract_lets +onlyGivenNames s5
  have h5 : Same p a s5 := h4.colDrive
  exact .ite h5.setCol h5

theorem Same.colSecondEdge {n} (h : Same p a s) [Fact (p ≠ .mt)] : Same p a (colSecondEdge n s) := by
  unfold Machine.colSecondEdge
  split
  · exact h
  · exact h.reach.setCol.colDrive

theorem Same.trigIssue {n target i t'} (h : Same p a s) : Same p a (s.trigIssue n target i t') := .ite h.incF.setF h.event.send

theorem Same.trigBatch {n} (h : Same p a s) [Fact (p ≠ .mt)] : Same p a (s.trigBatch n) := by
  unfold State.trigBatch
  extract_lets +onlyGivenNames c1
  split
  · exact h
  · extract_lets +onlyGivenNames batch2 s3
    have h3 : Same p a s3 := h.reach
    extract_lets +onlyGivenNames t2 r2 s4
    have h4 : Same p a s4 := h3.setCol.loadUpdate
    split
    · exact h4
    · split
      · exact .ite h4 h4.trigIssue
      · exact h4.trigIssue

theorem Same.trigUntil {n t' fuel} (h : Same p a s) [Fact (p ≠ .mt)] : Same p a (s.trigUntil n t' fuel) := by
  induction fuel generalizing s with
  | zero => exact h
  | succ fuel ih =>
    unfold State.trigUntil
    split
    · exact h
    · exact .ite (ih h.trigBatch) h

theorem Same.triggerRelease {n} (h : Same p a s) [Fact (p ≠ .mt)] : Same p a (triggerRelease n s) := by
  unfold Machine.triggerRelease
  extract_lets +onlyGivenNames c1
  split
  · exact h.trigBatch
  · extract_lets +onlyGivenNames s2
    have h2 : Same p a s2 := h.trigUntil
    split
    · exact h2
    · split
      · exact h2
      · exact h2.reach.setCol.trigIssue

theorem Same.colRelease {n} (h : Same p a s) [Fact (p ≠ .mt)] : Same p a (colRelease n s) := by
  unfold Machine.colRelease
  refine .ite h.trigBatch ?_
  split
  · exact h
  · extract_lets +onlyGivenNames s3
    have h3 : Same p a s3 := h.reach
    extract_lets +onlyGivenNames t2 _ s4
    have h4 : Same p a s4 := h3.setCol.event
    exact .ite h4.linkSend (.ite h4.linkSend (.ite h4.txCount (.ite h4 (.ite h4.emuRelease h4.pinRelease))))

theorem Same.triggerCommand {op n t'} (h : Same p a s) [Fact (p ≠ .mem)] [Fact (p ≠ .pgs)] : Same p a (triggerCommand op n t' s) :=
  .ite h.colAccept h

theorem Same.colCfgEffect {n old} (h : Same p a s) [Fact (p ≠ .mem)] : Same p a (colCfgEffect n old s) := by
  unfold Machine.colCfgEffect
  extract_lets +onlyGivenNames en1 was1 _ s1
  have h1 : Same p a s1 := .ite h.setCol h
  exact .ite (.ite (Same.loadUpdate (Same.setCol (.ite h1.colDiscard.setCol.noteGates h1.colDiscard)))
      (.ite h1.colDiscard.setCol.noteGates h1.colDiscard)) (.ite h1.setCol h1)

/-! ### Machine/PlantTime -/

theorem Same.ptpTo {st} (h : Same p a s) : Same p a (s.ptpTo st) := .ite h.setF.setPtp.warn h.setF.setPtp

theorem Same.ptStep {pt mt rate} (h : Same p a s) [Fact (p ≠ .mem)] : Same p a (s.ptStep pt mt rate) := by
  unfold State.ptStep
  extract_lets +onlyGivenNames s1
  have h1 : Same p a s1 := h.putPt
  extract_lets +onlyGivenNames s2
  have h2 : Same p a s2 := by
    unfold s2
    split
    · exact h1.setRate
    · exact h1
  exact h2.ptRemember.ptStepJudge

theorem Same.ptpJudge {o} (h : Same p a s) : Same p a (s.ptpJudge o) := .ite h.setPtp.ptpTo (.ite h.setPtp.ptpTo h.setPtp)

theorem Same.ptpSync {port t1 t2 corr d} (h : Same p a s) [Fact (p ≠ .mem)] [Fact (p ≠ .mt)] : Same p a (ptpSync port t1 t2 corr d s) := by
  unfold Machine.ptpSync
  extract_lets +onlyGivenNames st1
  split
  · exact h
  · refine .ite h ?_
    extract_lets +onlyGivenNames s4
    have h4 : Same p a s4 := h.reach
    extract_lets +onlyGivenNames p22 last2 delays2 sInt2 _ s5
    have h5 : Same p a s5 := h4.setPtp
    extract_lets +onlyGivenNames s6
    have h6 : Same p a s6 := .ite h5.ptpTo h5
    split
    · exact h6
    · exact .ite h6.setF.setF.ptStep.setPtp.ptpTo (.ite h6.setF.setF.ptpJudge
        (.ite h6.setF.setF.ptStep.ptpJudge.setPtp.info h6.setF.setF.ptStep.ptpJudge.setPtp))

theorem Same.announce {port m} (h : Same p a s) : Same p a (announce port m s) := by
  unfold Machine.announce
  refine .ite h ?_
  extract_lets +onlyGivenNames same1 times1 entry1 heard1 _ s1
  have h1 : Same p a s1 := h.setPtp
  split
  · exact h1
  · exact .ite h1.setPtp h1.setPtp.setF.setF.ptpTo

theorem Same.syncLoss (h : Same p a s) [Fact (p ≠ .mt)] : Same p a (syncLoss s) := by
  unfold Machine.syncLoss
  refine .ite h ?_
  extract_lets +onlyGivenNames s1
  have h1 : Same p a s1 := by
    unfold s1
    split
    · exact h.reach
    · exact h
  exact h1.ptpTo

theorem Same.announceTimeout (h : Same p a s) : Same p a (announceTimeout s) := .ite h h.setPtp.ptpTo

theorem Same.ptpCfgEffect {old} (h : Same p a s) : Same p a (ptpCfgEffect old s) := .ite h (.ite h.ptpTo h.setPtp.ptpTo)

/-! ### Machine/Queue -/

theorem Same.qUpdate {n} (h : Same p a s) : Same p a (s.qUpdate n) := h.setF.setF.setF

theorem Same.qStore {n t'} (h : Same p a s) [Fact (p ≠ .mem)] : Same p a (s.qStore n t') := h.sts.setF.qUpdate

theorem Same.qRetire {n k} (h : Same p a s) : Same p a (s.qRetire n k) := h.setF.qUpdate

theorem Same.qDropOldest {n} (h : Same p a s) [Fact (p ≠ .mem)] : Same p a (s.qDropOldest n) := Same.qRetire (.ite h.sts h)

theorem Same.qDropped {n} (h : Same p a s) : Same p a (s.qDropped n) := h.incF.setF

theorem Same.qSeqCheck {n t'} (h : Same p a s) : Same p a (s.qSeqCheck n t') := .ite (.ite h.setQueue.setF h.setQueue) h

theorem Same.qWmark {n before} (h : Same p a s) : Same p a (s.qWmark n before) := .ite h.setF.info h

theorem Same.queueEnqueue {n t' handshake} (h : Same p a s) [Fact (p ≠ .mem)] : Same p a (queueEnqueue n t' handshake s) := by
  unfold Machine.queueEnqueue
  extract_lets +onlyGivenNames ep1 _ s1
  have h1 : Same p a s1 := h.setQueue
  exact .ite h1 (h1.arrive (fun _ k1 => .ite k1.absorb
      (.ite k1.refuse (.ite k1.refuse
      (.ite k1.refuse (.ite k1.qSeqCheck.qStore.qWmark (.ite k1.qSeqCheck.qDropped k1.qSeqCheck.qDropOldest.qStore.qDropped)))))))

theorem Same.queuePush {n} (h : Same p a s) : Same p a (queuePush n s) := .ite h.setNet.setQueue.qRetire h

theorem Same.queueRefused {n} (h : Same p a s) : Same p a (queueRefused n s) := h.setF

theorem Same.queueCfgEffect {n old} (h : Same p a s) : Same p a (queueCfgEffect n old s) :=
  .ite (Same.qUpdate (Same.setF (Same.setF (.ite h.setQueue h)))) (.ite h.setQueue h)

theorem Same.queuePopEffect {n data} (h : Same p a s) : Same p a (queuePopEffect n data s) := Same.qRetire (.ite h.setF h)

/-! ### Machine/ControlWords -/

theorem Same.cwWarn {a' src code} (h : Same p a s) : Same p a (s.cwWarn a' src code) := .ite h.warnAccess h

theorem Same.readEffect {a'} (h : Same p a s) [Fact (p ≠ .pgs)] : Same p a (s.readEffect a') := by
  unfold State.readEffect
  extract_lets +onlyGivenNames s1
  have h1 : Same p a s1 := by
    unfold s1
    split
    · exact .ite h.setWord h
    · exact h
  exact .ite h1.setPg h1

theorem Same.cwReadAt {a' src} (h : Same p a s) [Fact (p ≠ .pgs)] : Same p a ((s.cwReadAt a' src).2) := by
  unfold State.cwReadAt
  split
  · exact h.cwWarn
  · exact h.laneRead.readEffect

theorem Same.cwRead {t'} (h : Same p a s) [Fact (p ≠ .pgs)] : Same p a (cwRead t' s) := by
  unfold Machine.cwRead
  refine .ite h.refuse ?_
  split
  · next e => exact (Same.of_snd e h.cwReadAt).refuse
  · next e => exact (Same.of_snd e h.cwReadAt).respond

theorem Same.cwr {t'} (h : Same p a s) [Fact (p ≠ .pgs)] : Same p a (cwr t' s) :=
  .ite h (h.arrive (fun _ k1 => .ite k1 (k1.whenDue (fun _ k2 => k2.cwRead))))

theorem Same.collisions {a' k} (h : Same p a s) : Same p a (s.collisions a' k) := by
  unfold State.collisions
  refine .ite h ?_
  extract_lets +onlyGivenNames s1
  have h1 : Same p a s1 := by
    unfold s1
    split
    · exact h.incF
    · exact h
  exact h1.event

theorem Same.storePair {collide a' data} (h : Same p a s) : Same p a (s.storePair collide a' data) := by
  unfold State.storePair
  split
  · exact h.setWord
  · exact h

theorem Same.setBits {collide} (h : Same p a s) : Same p a (s.setBits collide) := by
  unfold State.setBits
  refine Same.foldl h ?_
  intro _ _ k1
  split
  · exact k1.setWord
  · exact k1

theorem Same.raisePeriod {f least source} (h : Same p a s) : Same p a (s.raisePeriod f least source) := .ite h.setF.info h

theorem Same.chapterEffect {a' data at_ old} (h :
    Same p a s) [Fact (p ≠ .mem)] [Fact (p ≠ .cores)] [Fact (p ≠ .pgs)] [Fact (p ≠ .flash)] : Same p a (chapterEffect a' data at_ old s) := by
  unfold Machine.chapterEffect
  extract_lets +onlyGivenNames n1 p1
  split
  · exact .ite h.raisePeriod h
  · exact .ite h (.ite h.queueCfgEffect (.ite h.queuePopEffect h))
  · exact .ite h.colCfgEffect h
  · exact h.basinEffect.statusClearEffect
  · exact h.daleEffect
  · exact .ite h.coreCtrlEffect h
  · exact .ite h (.ite h.pgTrkEffect (.ite h.straceEffect h))
  · exact .ite h.hrecEffect (.ite h.lrecEffect (.ite h (.ite h.mapNextEffect (.ite h.regPend h))))
  · exact .ite h.stbaseEffect (.ite h.ruleEffect (.ite h (.ite h.loopCfgEffect.auxLoopOff (.ite h.fftnEffect h))))
  · exact h.posEffect
  · exact h.imagingEffect
  · exact h.imagingEffect
  · exact h.linkEffect
  · exact h.linkEffect
  · exact h.linkEffect
  · exact .ite h.ptpCfgEffect h
  · exact .ite h.raisePeriod h
  · exact .ite h.auxEffect h
  · exact .ite h.bootEffect h
  · exact h.vaultEffect
  · exact h

theorem Same.dataRefused {a' old} (h : Same p a s) : Same p a (s.dataRefused a' old) := by
  unfold State.dataRefused
  extract_lets +onlyGivenNames n1 s1
  have h1 : Same p a s1 := by
    unfold s1
    split
    · exact .ite h.queueRefused h
    · exact .ite h (.ite h.loopCfgRefused (.ite h.fftnRefused h))
    · exact h
  exact h1.raise

theorem Same.storePairs {collide ps} (h : Same p a s) : Same p a (s.storePairs collide ps) := h.foldl (fun _ _ k1 => k1.storePair)

theorem Same.pairEvents {old collide p'} (h : Same p a s) : Same p a (s.pairEvents old collide p') := by
  unfold State.pairEvents
  split
  · exact h
  · exact .ite h.collisions.raise h.collisions

theorem Same.cwApply {toks collide at_} (h :
    Same p a s) [Fact (p ≠ .mem)] [Fact (p ≠ .cores)] [Fact (p ≠ .pgs)] [Fact (p ≠ .flash)] : Same p a ((s.cwApply toks collide at_).2) := by
  unfold State.cwApply
  extract_lets +onlyGivenNames ps1 first1 s1
  have h1 : Same p a s1 := h.storePairs
  split
  · extract_lets +onlyGivenNames s4
    have h4 : Same p a s4 := h1.foldl (fun _ _ k4 => k4.pairEvents)
    extract_lets +onlyGivenNames s5
    have h5 : Same p a s5 := h4.foldl (fun _ _ k5 => k5.chapterEffect)
    exact .ite h5.ptWriteEffect h5
  · exact h.setBits.foldl (fun _ _ k6 => .ite k6.dataRefused k6.cwWarn)

theorem Same.cwWrite {toks collide} (h : Same p a s) [Fact (p ≠ .mem)] [Fact (p ≠ .cores)]
    [Fact (p ≠ .pgs)] [Fact (p ≠ .flash)] : Same p a (cwWrite toks collide s) := by
  unfold Machine.cwWrite
  split
  · exact h
  · extract_lets last at_
    split
    · next e => exact (Same.of_snd e h.cwApply).refuse
    · next e =>
      have k := Same.of_snd e h.cwApply
      exact .ite k.respond k

theorem Same.whenLastDue {toks act} (h : Same p a s) (hact : ∀ t, Same p a t → Same p a (act t)) : Same p a (s.whenLastDue toks act) := by
  unfold State.whenLastDue
  split
  · exact h
  · exact .ite h.setHeld (hact _ h)

theorem Same.cww {toks collide} (h :
    Same p a s) [Fact (p ≠ .mem)] [Fact (p ≠ .cores)] [Fact (p ≠ .pgs)] [Fact (p ≠ .flash)] : Same p a (cww toks collide s) := by
  unfold Machine.cww
  split
  · exact h
  · refine .ite h ?_
    refine Same.arrive h ?_
    intro _ k4
    split
    · exact k4.setBits.refuse
    · exact k4.whenLastDue (fun _ k6 => k6.cwWrite)

/-! ### Machine/RegisterCommands -/

theorem Same.cwwOf {h' ps collide} (h :
    Same p a s) [Fact (p ≠ .mem)] [Fact (p ≠ .cores)] [Fact (p ≠ .pgs)] [Fact (p ≠ .flash)] : Same p a (s.cwwOf h' ps collide) :=
  h.cww

theorem Same.cwrAt {h' a'} (h : Same p a s) [Fact (p ≠ .pgs)] : Same p a (s.cwrAt h' a') := h.cwr

theorem Same.cwwField {h' f i v} (h :
    Same p a s) [Fact (p ≠ .mem)] [Fact (p ≠ .cores)] [Fact (p ≠ .pgs)] [Fact (p ≠ .flash)] : Same p a (s.cwwField h' f i v) :=
  h.cwwOf

theorem Same.setHand {n hand} (h : Same p a s) : Same p a (s.setHand n hand) := h.setQueue

theorem Same.colFaultClear {n h' late} (h :
    Same p a s) [Fact (p ≠ .mem)] [Fact (p ≠ .cores)] [Fact (p ≠ .pgs)] [Fact (p ≠ .flash)] : Same p a (colFaultClear n h' late s) := by
  unfold Machine.colFaultClear
  extract_lets +onlyGivenNames data1
  split
  · exact h.cwwOf
  · exact h.colAccept.cwwOf

/-! ### Machine/Sync -/

theorem Same.actHeld {m} (h :
    Same p a s) [Fact (p ≠ .mem)] [Fact (p ≠ .cores)] [Fact (p ≠ .pgs)] [Fact (p ≠ .flash)] [Fact (p ≠ .dram)] [Fact (p ≠ .gorge)]
      [Fact (p ≠ .mt)] : Same p a (actHeld m s) := by
  unfold Machine.actHeld
  split
  · exact h
  · extract_lets +onlyGivenNames ep2
    exact .ite (.ite h.memRead h.memWrite) (.ite (.ite h.cwRead h.cwWrite)
        (.ite (.ite h.free.gorgeAbortAct h.gorgeSubmit)
        (.ite h.auxStopAt (.ite (.ite h.pgCmdAct h.trackingAct) (.ite h.trimAct (.ite h.jogAct h))))))

theorem Same.beacon {ep} (h : Same p a s) : Same p a (s.beacon ep) := h.event

theorem Same.syncBeacon (h :
    Same p a s) [Fact (p ≠ .mem)] [Fact (p ≠ .cores)] [Fact (p ≠ .pgs)] [Fact (p ≠ .flash)] [Fact (p ≠ .dram)] [Fact (p ≠ .gorge)]
      [Fact (p ≠ .mt)] : Same p a (syncBeacon s) := by
  unfold Machine.syncBeacon
  extract_lets +onlyGivenNames s1
  have h1 : Same p a s1 := h.reach
  extract_lets +onlyGivenNames s2
  have h2 : Same p a s2 := h1.forEach (fun _ _ k1 => k1.beacon)
  extract_lets +onlyGivenNames due1 s3
  have h3 : Same p a s3 := h2.setHeld
  extract_lets +onlyGivenNames s4
  have h4 : Same p a s4 := h3.forEach (fun _ _ k2 => k2.applyPassed)
  extract_lets +onlyGivenNames s5
  have h5 : Same p a s5 := h4.dropPassed.forEach (fun _ _ k3 => k3.actHeld)
  exact h5.servoSync.forEach (fun _ _ k4 => .ite k4.zResume k4)

theorem Same.setTapOut {w} (h : Same p a s) : Same p a (s.setTapOut w) := h.setBoot

/-! ### Machine/Tap -/

theorem Same.tapAccess {op} (h : Same p a s) [Fact (p ≠ .mem)] [Fact (p ≠ .cores)]
    [Fact (p ≠ .pgs)] [Fact (p ≠ .flash)] : Same p a (tapAccess op s) := by
  cases op with
  | bypass | extest => exact h.setTapOut
  | idcode | sample => exact h.free.setTapOut
  | memRead => exact .ite h.setTapOut.eccRead h
  | memWrite => exact .ite h.st h
  | cwRead x =>
    refine .ite h ?_
    split
    · next e => exact (Same.of_snd e h.cwReadAt).setTapOut
    · next e => exact Same.of_snd e h.cwReadAt
  | cwWrite => exact .ite h h.free.cwApply
  | coreHalt => exact .ite h.coreHalt h
  | coreStep => exact .ite h.coreStep h

theorem Same.setWinState {w v} (h : Same p a s) : Same p a (s.setWinState w v) := h.setF

/-! ### Machine/VctCommands -/

theorem Same.digestDone {w} (h : Same p a s) : Same p a (digestDone w s) := .ite h (.ite h.setWinState.send.evtComplete h.setWinState.evtComplete)

theorem Same.fwstageComplete {ok} (h : Same p a s) [Fact (p ≠ .flash)] : Same p a (fwstageComplete ok s) := by
  unfold Machine.fwstageComplete
  split
  · exact h
  · exact .ite h.setHost.setFlash.evtComplete h.setHost.evtComplete

end

/-! ### Every command keeps the parts it spares -/

/-- The commands that the statements say keep a part. -/
def spares : Portion → Instr → Bool
  | .mem => storesNothing
  | .cores => leavesCores
  | .pgs => leavesPathGenerators
  | .flash => fun c => !reachesFlash c
  | .keys => fun c => !reachesKeys c
  | .uploads => fun c => !reachesUploads c
  | .dram => fun c => !reachesDram c
  | .gorge => fun c => !reachesGorge c
  | .power => fun c => !reachesPower c
  | .mt => fun c => !movesTime c

/-- A command that spares one part and not another: the two differ. -/
theorem ne_of_spares {p q : Portion} {c : Instr} (hp : spares p c = true) (hq : spares q c = false) : Fact (p ≠ q) :=
  ⟨fun e => by rw [e, hq] at hp; cases hp⟩

/-- Every command keeps every part it spares: the operations it is made of write only parts that it does not spare. -/
theorem exec_same {p : Portion} {c : Instr} (s : State) (hc : spares p c = true) : Completes c s (Same p s) := by
  have h := Same.refl p s
  have named : ∀ q, spares q c = false → Fact (p ≠ q) := fun q => ne_of_spares hc
  cases c with
  | queueEnqueue =>
    have := named .mem rfl
    exact ⟨_, rfl, h.queueEnqueue⟩
  | queuePush => exact ⟨_, rfl, h.queuePush⟩
  | queuePop | tbPtWrite | coreStart | coreHalt | coreStep | coreImgWrite | wringWrite | mapnextWrite | fftnWrite | stbaseWrite | auxFaultClear |
    linkRestart | laneModeWrite | prbsStart | hashWrite | sreqWrite | statusAcknowledge | lrearm | errel | injection | dalePop | mrel | confirm |
    svnburn | revoke =>
    have := named .mem rfl; have := named .cores rfl; have := named .pgs rfl; have := named .flash rfl
    exact ⟨_, rfl, h.cwwOf⟩
  | queueCfgWrite =>
    have := named .mem rfl; have := named .cores rfl; have := named .pgs rfl; have := named .flash rfl
    exact ⟨_, rfl, h.setHand.cwwOf⟩
  | queueDropsRead | colSlackRead | colLateRead | colCoincRead | plainEccRead | plainEccaddrRead | leadMinRead | limcntRead | gresRead |
    saddleCntRead | yieldRead | servoCntRead | servoLoopCntRead | scCntRead | encCntRead | hallCntRead | prbDropsRead | csiCntRead | ipCntRead |
    ruleCntRead | prdropRead | prbsCountRead | linkCntRead | ethCntRead | vctCntRead | dramEccRead | dramEccaddrRead | dramCntRead | gorgeCntRead |
    gorgeBytesRead | daleLostRead | ecCountRead | hkWakeRead =>
    have := named .pgs rfl
    exact ⟨_, rfl, h.cwrAt⟩
  | collRead =>
    have := named .pgs rfl
    refine ⟨_, rfl, ?_⟩
    split
    · exact h.cwrAt
    · exact h
  | pllLock =>
    have := named .mt rfl
    exact ⟨_, rfl, h.pllLock⟩
  | timerefLoss => exact ⟨_, rfl, h.timerefLoss⟩
  | pllRelock => exact ⟨_, rfl, h.pllRelock⟩
  | slewEnd =>
    have := named .mt rfl
    exact ⟨_, rfl, h.slewEnd⟩
  | syncBeacon =>
    have := named .mem rfl; have := named .cores rfl; have := named .pgs rfl; have := named .flash rfl
    have := named .dram rfl; have := named .gorge rfl; have := named .mt rfl
    exact ⟨_, rfl, h.syncBeacon⟩
  | colAccept =>
    have := named .mem rfl; have := named .pgs rfl
    exact ⟨_, rfl, h.colAccept⟩
  | colRelease =>
    have := named .mt rfl
    exact ⟨_, rfl, h.colRelease⟩
  | colSecondEdge =>
    have := named .mt rfl
    exact ⟨_, rfl, h.colSecondEdge⟩
  | colFaultClear =>
    have := named .mem rfl; have := named .cores rfl; have := named .pgs rfl; have := named .flash rfl
    exact ⟨_, rfl, h.colFaultClear⟩
  | colEnClear | colEnSet | straceEnSet | trkEnClear | narmWrite | hrecEnSet | loopEnable | loopDisable | scEnable | indexHome | probeArm |
    emuEnable | ipEnable | ruleEnable | ruleDisable | lrecEnSet | auxEnable | auxDisable | linkEnable | daleFreeze | ecCtrlWrite =>
    have := named .mem rfl; have := named .cores rfl; have := named .pgs rfl; have := named .flash rfl
    exact ⟨_, rfl, h.cwwField⟩
  | triggerStartPeriodic | triggerStop | triggerSingle =>
    have := named .mem rfl; have := named .pgs rfl
    exact ⟨_, rfl, h.triggerCommand⟩
  | triggerRelease =>
    have := named .mt rfl
    exact ⟨_, rfl, h.triggerRelease⟩
  | mrd =>
    have := named .dram rfl; have := named .mt rfl
    exact ⟨_, rfl, h.mrd⟩
  | mwrWrite | swap | fetchAdd | compareAndSwap =>
    have := named .mem rfl; have := named .dram rfl; have := named .mt rfl
    exact ⟨_, rfl, h.mwr⟩
  | plainScrub => exact ⟨_, rfl, h.plainScrub⟩
  | cwr =>
    have := named .pgs rfl
    exact ⟨_, rfl, h.cwr⟩
  | cww =>
    have := named .mem rfl; have := named .cores rfl; have := named .pgs rfl; have := named .flash rfl
    exact ⟨_, rfl, h.cww⟩
  | refusalPoint => exact ⟨_, rfl, h.deliver.refuse⟩
  | barrierFanout => exact ⟨_, rfl, h.barrierFanout⟩
  | barrierJudge =>
    have := named .mt rfl
    exact ⟨_, rfl, h.barrierJudge⟩
  | barrier =>
    have := named .mem rfl; have := named .pgs rfl; have := named .mt rfl
    exact ⟨_, rfl, h.barrier⟩
  | zAdd | zSub | zAnd | zOr | zXor | zAndn | zShl | zShr | zSar | zRor | zMin | zMax | zMinu | zMaxu | zClz | zCtz | zPopc | zBswap | zMul |
    zMulhu | zMulhs | zDivu | zDivs | zRemu | zRems | zSextw | zAddsat | zSubsat | zAddi | zAndi | zOri | zXori | zShli | zShri | zSari | zMuli |
    zLi | zLso | zLb | zLbu | zLh | zLhu | zLw | zLwu | zLd | zSb | zSh | zSw | zSd | zCmp | zCmpi | zPlog | zBr | zCall | zJalr | zTpoll | zTtag |
    zTset | zTsendl | zTsel | zTcred | zGets | zPuts | zEret | zBrk | zHalt | zFence | zGetmt | zWaitt | zRld | zRst | zRswp | zRadd | zRcas |
    zCwrd | zCwwr | zRget | zRput | zRmove =>
    have := named .mem rfl; have := named .cores rfl
    exact ⟨_, rfl, h.zExec⟩
  | portTokenArrival =>
    have := named .mem rfl; have := named .cores rfl
    exact ⟨_, rfl, h.portArrival⟩
  | asyncCauseTaken =>
    have := named .cores rfl
    exact ⟨_, rfl, h.asyncTaken⟩
  | portTimeout =>
    have := named .cores rfl; have := named .mt rfl
    exact ⟨_, rfl, h.portTimeout⟩
  | postedWriteAck =>
    have := named .mem rfl; have := named .cores rfl
    exact ⟨_, rfl, h.postedAck⟩
  | bulkComplete =>
    have := named .mem rfl; have := named .cores rfl; have := named .dram rfl; have := named .mt rfl
    exact ⟨_, rfl, h.bulkComplete⟩
  | coreRotation =>
    have := named .cores rfl
    exact ⟨_, rfl, h.coreRotate⟩
  | coreFailed =>
    have := named .mem rfl; have := named .cores rfl
    exact ⟨_, rfl, h.coreFailed⟩
  | coreRestart =>
    have := named .mem rfl; have := named .cores rfl
    exact ⟨_, rfl, h.coreRestartOn⟩
  | pgJump | pgMark | pgJumpr | pgMarkr | pgArc | pgPark | pgSpeed | pgPower | pgFocus | pgRamp | pgGate | pgOwn | pgPart | pgVid | pgNop |
    pgDwell | pgMarker | pgTrig | pgRecord | pgLook =>
    have := named .mem rfl; have := named .pgs rfl; have := named .mt rfl
    exact ⟨_, rfl, h.execLayer⟩
  | pgDwellEnd =>
    have := named .pgs rfl; have := named .mt rfl
    exact ⟨_, rfl, h.dwellEnd⟩
  | pgLend =>
    have := named .mem rfl; have := named .pgs rfl; have := named .mt rfl
    exact ⟨_, rfl, h.layerEnd⟩
  | windowPoll =>
    have := named .pgs rfl
    exact ⟨_, rfl, h.windowPoll⟩
  | leadUpdate =>
    have := named .pgs rfl
    exact ⟨_, rfl, h.leadUpdate⟩
  | underrun =>
    have := named .mem rfl; have := named .pgs rfl; have := named .mt rfl
    exact ⟨_, rfl, h.underrun⟩
  | arm | pause | resume | abort | disarm =>
    have := named .pgs rfl
    exact ⟨_, rfl, h.pgRow⟩
  | pausePoint =>
    have := named .mem rfl; have := named .pgs rfl; have := named .mt rfl
    exact ⟨_, rfl, h.pausePoint⟩
  | resumeRun =>
    have := named .mt rfl
    exact ⟨_, rfl, h.resumeRun⟩
  | plan =>
    have := named .pgs rfl
    exact ⟨_, rfl, h.planStep⟩
  | segmentCommit =>
    have := named .mem rfl; have := named .pgs rfl; have := named .mt rfl
    exact ⟨_, rfl, h.segmentCommit⟩
  | interpolate =>
    have := named .mem rfl; have := named .pgs rfl; have := named .mt rfl
    exact ⟨_, rfl, h.interpolate⟩
  | powerTarget =>
    have := named .pgs rfl
    exact ⟨_, rfl, h.powerTarget⟩
  | gateSample =>
    have := named .mem rfl; have := named .pgs rfl
    exact ⟨_, rfl, h.gateSample⟩
  | sampleMissing =>
    have := named .mem rfl; have := named .pgs rfl
    exact ⟨_, rfl, h.sampleMissing⟩
  | trackingTarget =>
    have := named .pgs rfl
    exact ⟨_, rfl, h.trackingTarget⟩
  | trackingCycle =>
    have := named .mem rfl; have := named .pgs rfl; have := named .mt rfl
    exact ⟨_, rfl, h.trackingCycle⟩
  | mapCheckDone => exact ⟨_, rfl, h.mapCheckDone⟩
  | mapSwap =>
    have := named .pgs rfl
    exact ⟨_, rfl, h.mapSwap⟩
  | chainDecide =>
    have := named .mem rfl; have := named .pgs rfl; have := named .mt rfl
    exact ⟨_, rfl, h.chainDecide⟩
  | stare =>
    have := named .pgs rfl; have := named .mt rfl
    exact ⟨_, rfl, h.stare⟩
  | coefficientSet => exact ⟨_, rfl, h.coefficientSet⟩
  | setpointAccept => exact ⟨_, rfl, h.setpointAccept⟩
  | galvoCycle =>
    have := named .mem rfl; have := named .mt rfl
    exact ⟨_, rfl, h.galvoCycle⟩
  | powerLoopCycle =>
    have := named .mem rfl; have := named .pgs rfl
    exact ⟨_, rfl, h.powerLoopCycle⟩
  | ctrimSet => exact ⟨_, rfl, h.ctrimSet⟩
  | pairMissing =>
    have := named .mt rfl
    exact ⟨_, rfl, h.pairMissing⟩
  | auxPositionCycle =>
    have := named .mem rfl; have := named .mt rfl
    exact ⟨_, rfl, h.auxPositionCycle⟩
  | auxCurrentCycle =>
    have := named .mem rfl; have := named .mt rfl
    exact ⟨_, rfl, h.auxCurrentCycle⟩
  | auxSetpoint => exact ⟨_, rfl, h.auxSetpoint⟩
  | fftCopyDone => exact ⟨_, rfl, h.fftCopyDone⟩
  | unitFail => exact ⟨_, rfl, h.sectionFailed⟩
  | encEdge =>
    have := named .mt rfl
    exact ⟨_, rfl, h.encEdge⟩
  | indexEvent =>
    have := named .mt rfl
    exact ⟨_, rfl, h.indexEvent⟩
  | hallChange =>
    have := named .mt rfl
    exact ⟨_, rfl, h.hallChange⟩
  | hallTimeout =>
    have := named .mt rfl
    exact ⟨_, rfl, h.hallTimeout⟩
  | speedUpdate =>
    have := named .mt rfl
    exact ⟨_, rfl, h.speedUpdate⟩
  | probeEvent =>
    have := named .mt rfl
    exact ⟨_, rfl, h.probeEvent⟩
  | probeRecord =>
    have := named .mt rfl
    exact ⟨_, rfl, h.probeRecord⟩
  | emuUpdate =>
    have := named .mt rfl
    exact ⟨_, rfl, h.emuUpdate⟩
  | frameStart =>
    have := named .mem rfl
    exact ⟨_, rfl, h.frameStart⟩
  | linePacket => exact ⟨_, rfl, h.linePacket⟩
  | frameEnd =>
    have := named .mem rfl
    exact ⟨_, rfl, h.frameEnd⟩
  | fswinExpiry =>
    have := named .mem rfl; have := named .mt rfl
    exact ⟨_, rfl, h.fswinExpiry⟩
  | cameraSetting => exact ⟨_, rfl, h.cameraSetting⟩
  | i2cTransaction => exact ⟨_, rfl, h.i2cTransaction⟩
  | i2cDone => exact ⟨_, rfl, h.i2cDone⟩
  | ruleRecord => exact ⟨_, rfl, h.ruleRecord⟩
  | stareRecord =>
    have := named .mem rfl; have := named .mt rfl
    exact ⟨_, rfl, h.stareRecord⟩
  | processRecord =>
    have := named .pgs rfl
    exact ⟨_, rfl, h.processRecord⟩
  | auxMove => exact ⟨_, rfl, h.auxMove⟩
  | moveStart =>
    have := named .mt rfl
    exact ⟨_, rfl, h.moveStart⟩
  | moveComplete =>
    have := named .mt rfl
    exact ⟨_, rfl, h.moveComplete⟩
  | settleTimeout =>
    have := named .mt rfl
    exact ⟨_, rfl, h.settleTimeout⟩
  | auxStop => exact ⟨_, rfl, h.auxStop⟩
  | jog => exact ⟨_, rfl, h.jog⟩
  | holdiSet =>
    have := named .mt rfl
    exact ⟨_, rfl, h.holdiSet⟩
  | hubLinkTimeout =>
    have := named .mt rfl
    exact ⟨_, rfl, h.hubLinkTimeout⟩
  | detectPoll =>
    have := named .mt rfl
    exact ⟨_, rfl, h.detectPoll⟩
  | symbolLock => exact ⟨_, rfl, h.symbolLock⟩
  | linkStateTimeout =>
    have := named .mem rfl; have := named .mt rfl
    exact ⟨_, rfl, h.linkStateTimeout⟩
  | capRecord => exact ⟨_, rfl, h.capRecord⟩
  | superframeStart =>
    have := named .mt rfl
    exact ⟨_, rfl, h.superframeStart⟩
  | sfsReceive =>
    have := named .mt rfl
    exact ⟨_, rfl, h.sfsReceive⟩
  | smpBlockReceive =>
    have := named .mt rfl
    exact ⟨_, rfl, h.smpBlockReceive⟩
  | tokBlockReceive =>
    have := named .mt rfl
    exact ⟨_, rfl, h.tokBlockReceive⟩
  | refclkLoss =>
    have := named .mem rfl
    exact ⟨_, rfl, h.refclkLoss⟩
  | prbsEnd =>
    have := named .mt rfl
    exact ⟨_, rfl, h.prbsEnd⟩
  | eqLimit => exact ⟨_, rfl, h.eqLimit⟩
  | transmitStamp => exact ⟨_, rfl, h.transmitStamp⟩
  | linkChange =>
    have := named .mem rfl; have := named .uploads rfl
    exact ⟨_, rfl, h.linkChange⟩
  | ptpSync =>
    have := named .mem rfl; have := named .mt rfl
    exact ⟨_, rfl, h.ptpSync⟩
  | announce => exact ⟨_, rfl, h.announce⟩
  | syncLoss =>
    have := named .mt rfl
    exact ⟨_, rfl, h.syncLoss⟩
  | announceTimeout => exact ⟨_, rfl, h.announceTimeout⟩
  | digestDone => exact ⟨_, rfl, h.digestDone⟩
  | fwstageComplete =>
    have := named .flash rfl
    exact ⟨_, rfl, h.fwstageComplete⟩
  | upload =>
    have := named .uploads rfl
    exact ⟨_, rfl, h.upload⟩
  | reply => exact ⟨_, rfl, h.reply⟩
  | uplSend =>
    have := named .uploads rfl
    exact ⟨_, rfl, h.uplSend⟩
  | uploadRetransmit =>
    have := named .uploads rfl; have := named .mt rfl
    exact ⟨_, rfl, h.uploadRetransmit⟩
  | dramTraining =>
    have := named .mem rfl; have := named .dram rfl
    exact ⟨_, rfl, h.dramTraining⟩
  | pageClose =>
    have := named .dram rfl; have := named .mt rfl
    exact ⟨_, rfl, .ite h.reach.setBank h⟩
  | refreshTick =>
    have := named .dram rfl; have := named .mt rfl
    exact ⟨_, rfl, h.refreshTick⟩
  | mr4Poll =>
    have := named .dram rfl
    exact ⟨_, rfl, h.mr4Poll⟩
  | rfm =>
    have := named .dram rfl
    exact ⟨_, rfl, h.doRfm⟩
  | powerDownEntry =>
    have := named .mt rfl
    exact ⟨_, rfl, .ite h h.reach.setF⟩
  | selfRefreshEntry =>
    have := named .dram rfl; have := named .mt rfl
    exact ⟨_, rfl, h.selfRefreshEntry⟩
  | selfRefreshExit =>
    have := named .dram rfl; have := named .mt rfl
    exact ⟨_, rfl, h.selfRefreshExit⟩
  | zqCalibration | dqsOscillator =>
    have := named .dram rfl
    exact ⟨_, rfl, .ite h h.wakeRank.setRank⟩
  | dramScrub =>
    have := named .dram rfl; have := named .mt rfl
    exact ⟨_, rfl, h.dramScrub⟩
  | gorgeJobSubmit =>
    have := named .gorge rfl
    exact ⟨_, rfl, h.gorgeJobSubmit⟩
  | gorgeJobStart =>
    have := named .gorge rfl
    exact ⟨_, rfl, h.gorgeJobStart⟩
  | gorgeJobEnd =>
    have := named .mem rfl; have := named .gorge rfl
    exact ⟨_, rfl, h.gorgeJobEnd⟩
  | gorgeAbort =>
    have := named .mem rfl; have := named .gorge rfl
    exact ⟨_, rfl, h.gorgeAbort⟩
  | statusRaise =>
    have := named .mem rfl; have := named .pgs rfl
    exact ⟨_, rfl, h.statusRaise⟩
  | errorMinimumEnd =>
    have := named .mt rfl
    exact ⟨_, rfl, h.errorMinimumEnd⟩
  | safeInputFall =>
    have := named .mem rfl; have := named .pgs rfl
    exact ⟨_, rfl, h.safeInputFall⟩
  | safeDiscrepancy =>
    have := named .mem rfl; have := named .pgs rfl; have := named .mt rfl
    exact ⟨_, rfl, h.safeDiscrepancy⟩
  | brownoutWarning => exact ⟨_, rfl, h.brownoutWarning⟩
  | throttleSlot =>
    have := named .cores rfl; have := named .mt rfl
    exact ⟨_, rfl, h.throttleSlot⟩
  | blockSleep =>
    have := named .power rfl
    exact ⟨_, rfl, h.blockSleep⟩
  | wakePermitGrant =>
    have := named .power rfl
    exact ⟨_, rfl, h.wakePermitGrant⟩
  | permitReturn =>
    have := named .power rfl; have := named .mt rfl
    exact ⟨_, rfl, h.permitReturn⟩
  | vaultSupplyLoss =>
    have := named .flash rfl; have := named .keys rfl; have := named .power rfl
    exact ⟨_, rfl, h.vaultSupplyLoss⟩
  | crystalStop => exact ⟨_, rfl, h.crystalStop⟩
  | tamper =>
    have := named .flash rfl; have := named .keys rfl
    exact ⟨_, rfl, h.tamper⟩
  | backgroundTest =>
    have := named .mem rfl; have := named .cores rfl
    exact ⟨_, rfl, h.backgroundTest⟩
  | repairRecordWrite =>
    have := named .flash rfl; have := named .mt rfl
    exact ⟨_, rfl, h.repairRecordWrite⟩
  | blockLock => exact ⟨_, rfl, h.blockLock⟩
  | badBlock =>
    have := named .mem rfl
    exact ⟨_, rfl, h.badBlock⟩
  | safeInputRise => exact ⟨_, rfl, h.safeInputRise⟩
  | vaultSupplyReturn =>
    have := named .power rfl
    exact ⟨_, rfl, h.vaultSupplyReturn⟩
  | crystalRestart => exact ⟨_, rfl, h.crystalRestart⟩
  | creditReturn =>
    have := named .mem rfl; have := named .cores rfl
    exact ⟨_, rfl, h.creditReturn⟩
  | rspAbsorbed => exact ⟨_, rfl, .ite h.deliver.absorb h⟩
  | dramThrottleEnd =>
    have := named .dram rfl; have := named .mt rfl
    refine ⟨_, rfl, ?_⟩
    split
    · exact h
    · exact h.reach.setChan
  | wakeComplete =>
    have := named .power rfl; have := named .mt rfl
    exact ⟨_, rfl, h.wakeComplete⟩
  | earlyWake =>
    have := named .power rfl
    exact ⟨_, rfl, h.earlyWake⟩
  | coreMoveComplete =>
    have := named .mem rfl; have := named .cores rfl
    exact ⟨_, rfl, h.coreMoved⟩
  | eachUsOfMt =>
    have := named .mt rfl
    exact ⟨_, rfl, h.eachUsOfMt⟩
  | tapAccess =>
    have := named .mem rfl; have := named .cores rfl; have := named .pgs rfl; have := named .flash rfl
    exact ⟨_, rfl, h.tapAccess⟩
  | ethernetFrame | ping | status | vctCwrd | vctCwwr | rxopen | dataChunk | rxclose | rxabort | rxstat | deliver | subscribe | keyset | keyclr |
    timeset | fwstage | vctReset | daleup | mirrorWrite | uack | porstAssert | porstRelease | resetRelease | brownoutReset | housekeepingRound |
    resetAssert | brownoutRecovery => cases p <;> cases hc

/-- What `exec_same` says of the state that a command answers. -/
theorem portion_of_exec {c : Instr} {s t : State} (e : exec c s = .next t) (p : Portion) (hc : spares p c = true) :
    t.portion p = s.portion p := by
  obtain ⟨u, hu, k⟩ := exec_same s hc
  obtain rfl : u = t := Host.Outcome.next.inj (hu.symm.trans e)
  exact k.eq

/-- Settles O59: memory is one of the parts that `exec_same` speaks of. -/
theorem commandsThatStoreNothingKeepMemory : Obligations.CommandsThatStoreNothingKeepMemory := by
  intro c s t hc e
  have hm : t.mem = s.mem := portion_of_exec e .mem hc
  exact ⟨hm, fun a => by unfold State.byte; rw [hm]⟩

/-- A command outside a list of commands that may change a part spares the part. -/
theorem not_of_false {b : Bool} (h : b = false) : (!b) = true := by rw [h]; rfl

/-- Settles O60: part by part from `exec_same`. -/
theorem commandsKeepTheUnitsTheyDoNotName : Obligations.CommandsKeepTheUnitsTheyDoNotName := by
  intro c s t e
  have k := portion_of_exec e
  refine ⟨k .cores, k .pgs, fun h => k .flash (not_of_false h), fun h => k .keys (not_of_false h), fun h => ?_, fun h => ?_, fun h => ?_, fun h =>
      ?_,
    fun h => k .mt (not_of_false h)⟩
  · exact Prod.mk.inj (k .uploads (not_of_false h))
  · obtain ⟨banks, rest⟩ := Prod.mk.inj (k .dram (not_of_false h))
    exact ⟨banks, Prod.mk.inj rest⟩
  · exact Prod.mk.inj (k .gorge (not_of_false h))
  · obtain ⟨holds, rest⟩ := Prod.mk.inj (k .power (not_of_false h))
    obtain ⟨wake, rest⟩ := Prod.mk.inj rest
    exact ⟨holds, wake, Prod.mk.inj rest⟩

end Sys2Proof.Machine
end

section
namespace Sys2Proof.Machine

open Sys2Proof

/-! ### Messages at an endpoint that is open to their source -/

theorem State.arrive_open {ep : Nat} {t : Token} (h : srcAllowed ep t.src = true) (s : State) (ts : List Token) (act : State → State) :
    s.arrive ep (t :: ts) act = act (s.deliverAll ep (t :: ts)) := if_pos h

theorem State.whenDue_untimed {t : Token} (h : t.timed = false) (s : State) (ts : List Token) (act : State → State) :
    s.whenDue (t :: ts) act = act s := if_neg (by simp [h])

/-- The Plain is open to every source (R100, R101). -/
theorem srcAllowed_plain (src : BitVec 10) : srcAllowed 0x10 src = true := Bool.or_true _

/-! ### Memory requests to the Plain (R75–R79) -/

section

variable {q : Token} {s : State}

/-- An untimed read request is served as it reaches the Plain. -/
theorem mrd_plain (hd : q.dest = 0x10#10) (ht : q.timed = false) (s : State) : mrd q s = memRead q (s.deliver 0x10 q) := by
  have hep : q.dest.toNat = 0x10 := by rw [hd]; rfl
  unfold mrd
  rw [hep, if_neg (by decide), if_neg (by simp [State.memHeld]), State.arrive_open (srcAllowed_plain _), State.whenDue_untimed ht]
  rfl

/-- An untimed write or atomic message is served as it reaches the Plain. -/
theorem mwr_plain (hd : q.dest = 0x10#10) (ht : q.timed = false) (data : List Token) (s : State) :
    mwr (q :: data) s = memWrite (q :: data) (s.deliverAll 0x10 (q :: data)) := by
  have hep : q.dest.toNat = 0x10 := by rw [hd]; rfl
  unfold mwr
  dsimp only
  rw [hep, if_neg (by decide), if_neg (by simp [State.memHeld]), State.arrive_open (srcAllowed_plain _), State.whenDue_untimed ht]

theorem memHead_count_pos (p : Word) : 0 < (memHead p).count := Nat.succ_pos _

/-- What lies wholly in the Plain is not refused there. -/
theorem State.memRefusal_plain {a n : Nat} (hn : 0 < n) (h : a + 8 * n ≤ 0x3000000) (write : Bool) (s : State) :
    s.memRefusal 0x10 a n write = none := by
  have hfirst : s.region a = .plain := if_pos (by omega)
  have hlast : s.region (a + 8 * n - 1) = .plain := if_pos (by omega)
  unfold State.memRefusal State.ownerOf
  dsimp only
  rw [hfirst, hlast]
  cases write <;> rfl

/-- An address between the Plain and the cores' windows is reserved. -/
theorem State.memRefusal_reserved {a : Nat} (h1 : 0x3000000 ≤ a) (h2 : a < 0x10000000) (ep n : Nat) (write : Bool) (s : State) :
    s.memRefusal ep a n write = some 1 := by
  have hfirst : s.region a = .reserved := by
    unfold State.region
    rw [if_neg (by omega), if_neg (by omega), if_neg (by omega), if_neg (by omega)]
  exact if_pos (.inl hfirst)

/-- The Plain does not own control-word space. -/
theorem State.memRefusal_control {a n : Nat} (hn : 0 < n) (h1 : 0x100000000 ≤ a) (h2 : a + 8 * n ≤ 0x200000000) (write : Bool) (s : State) :
    s.memRefusal 0x10 a n write = some 2 := by
  have hregion : ∀ b, 0x100000000 ≤ b → b < 0x200000000 → s.region b = .control := fun b _ _ => by
    unfold State.region
    rw [if_neg (by omega), if_neg (by omega), if_pos (by omega)]
  unfold State.memRefusal State.ownerOf
  dsimp only
  rw [hregion a (by omega) (by omega), hregion _ (by omega) (by omega)]
  rfl

/-! ### Reads -/

/-- The tokens that answer a read, as the state carries them: the words in ascending order, each poisoned as its word is, the last marked. -/
structure ReadAnswers (ep : Nat) (q : Token) (a n : Nat) (s : State) (l : List Token) : Prop where
  payloads : l.map (·.payload) = s.lds a n
  fields : ∀ i (h : i < l.length), l[i].kind = 5#4 ∧ l[i].src = BitVec.ofNat 10 ep ∧ l[i].dest = q.src ∧ l[i].stream = q.stream ∧
    l[i].err = (s.eccAt (a + 8 * i) == some .double) ∧ l[i].last = decide (i + 1 = n)

theorem State.eccAt_congr {s t : State} (h : t.eccs = s.eccs) (a : Nat) : t.eccAt a = s.eccAt a := by unfold State.eccAt; rw [h]

/-- The answers are those of any state with the same memory and marks. -/
theorem ReadAnswers.congr {ep a n : Nat} {t : State} {l : List Token} (h : ReadAnswers ep q a n t l) (hmem : t.mem = s.mem) (heccs : t.eccs = s.eccs) :
    ReadAnswers ep q a n s l := by
  obtain ⟨hp, hf⟩ := h
  rw [State.lds_congr hmem] at hp
  refine ⟨hp, fun i hi => ?_⟩
  rw [← State.eccAt_congr heccs]
  exact hf i hi

theorem State.readResponses_net (ep : Nat) (q : Token) (n : Nat) : ∀ (a : Nat) (s : State),
    ∃ l, (s.readResponses ep q a n).net = s.net ++ l ∧ ReadAnswers ep q a n s l := by
  induction n with
  | zero => exact fun a s => ⟨[], (List.append_nil _).symm, rfl, fun i h => absurd h (Nat.not_lt_zero i)⟩
  | succ n ih =>
    intro a s
    unfold State.readResponses
    extract_lets v u
    obtain ⟨l, hnet, hl⟩ := ih (a + 8) (s.send u)
    obtain ⟨hp, hf⟩ := hl.congr (s := s) rfl rfl
    refine ⟨{ u with seq := BitVec.ofNat 12 (tget (fun _ => 0) s.seqs (seqKey u)) } :: l, ?_, ?_, ?_⟩
    · rw [hnet]
      exact List.append_assoc _ _ _
    · rw [State.lds_succ]
      exact congrArg (s.ld a :: ·) hp
    · intro i hi
      cases i with
      | zero => exact ⟨rfl, rfl, by simp [u, v, mkTok], by simp [u, v, mkTok], rfl, by simp [u, v, mkTok, Bool.beq_eq_decide_eq]⟩
      | succ i =>
        obtain ⟨hkind, hsrc, hdest, hstream, herr, hlast⟩ := hf i (Nat.lt_of_succ_lt_succ hi)
        refine ⟨hkind, hsrc, hdest, hstream, ?_, ?_⟩
        · rw [show a + 8 * (i + 1) = a + 8 + 8 * i by omega]
          exact herr
        · rw [List.getElem_cons_succ, hlast]
          simp

/-- What the check of a word may change: its mark, the counts and the error lines. -/
def Checked (a b : State) : Prop := ∃ c e l, b = ((a.setCw c).setEccs e).setLines l

theorem Checked.refl (a : State) : Checked a a := ⟨a.cw, a.eccs, a.lines, rfl⟩

theorem Checked.trans {a b c : State} (h : Checked a b) (k : Checked b c) : Checked a c := by
  obtain ⟨_, _, _, rfl⟩ := h
  obtain ⟨_, _, _, rfl⟩ := k
  exact ⟨_, _, _, rfl⟩

theorem Checked.setCw {a b : State} (h : Checked a b) (x : List (Nat × Word)) : Checked a (b.setCw x) := by
  obtain ⟨_, _, _, rfl⟩ := h
  exact ⟨_, _, _, rfl⟩

theorem Checked.setEccs {a b : State} (h : Checked a b) (x : List (Nat × Option EccMark)) : Checked a (b.setEccs x) := by
  obtain ⟨_, _, _, rfl⟩ := h
  exact ⟨_, _, _, rfl⟩

theorem Checked.setLines {a b : State} (h : Checked a b) (x : List Raise) : Checked a (b.setLines x) := by
  obtain ⟨_, _, _, rfl⟩ := h
  exact ⟨_, _, _, rfl⟩

theorem Checked.recordEccAddr {a b : State} (h : Checked a b) (dram : Bool) (ty addr : Nat) : Checked a (b.recordEccAddr dram ty addr) := by
  unfold State.recordEccAddr
  extract_lets ft fa old take
  split
  · exact (h.setCw _).setCw _
  · exact h

theorem State.eccCorrect_checked (s : State) (a : Nat) : Checked s (s.eccCorrect a) := by
  have hmark : Checked s (s.setEcc a none) := (Checked.refl s).setEccs _
  unfold State.eccCorrect
  extract_lets u
  split
  · exact ((hmark.setCw _).setCw _).recordEccAddr _ _ _
  · exact ((hmark.setCw _).setCw _).recordEccAddr _ _ _
  · exact hmark.setCw _
  · exact hmark

theorem State.eccUncorrectable_checked (s : State) (a : Nat) : Checked s (s.eccUncorrectable a) := by
  have h := Checked.refl s
  unfold State.eccUncorrectable
  split
  · exact (((h.setCw _).setCw _).recordEccAddr _ _ _).setLines _
  · exact (((h.setCw _).setCw _).recordEccAddr _ _ _).setLines _
  · exact (h.setCw _).setLines _
  · exact h

theorem State.eccRead_checked (s : State) (a : Nat) : Checked s (s.eccRead a) := by
  unfold State.eccRead
  split
  · exact .refl s
  · exact s.eccCorrect_checked a
  · exact s.eccUncorrectable_checked a

theorem State.eccReads_checked (n : Nat) : ∀ (s : State) (a : Nat), Checked s (s.eccReads a n) := by
  induction n with
  | zero => exact fun s _ => .refl s
  | succ n ih => exact fun s a => (s.eccRead_checked a).trans (ih _ _)

theorem Checked.net {a b : State} (h : Checked a b) : b.net = a.net := by
  obtain ⟨_, _, _, rfl⟩ := h
  rfl

/-- A request that the Plain serves: whole words, no operation, no answer asked for (R77). -/
def readsWords (p : Word) : Prop := (memHead p).byteen = 0 ∧ (memHead p).op = 0 ∧ (memHead p).ack = false

/-- A read request with byte enables, an operation or ACK set is malformed. -/
theorem memRead_malformed (hd : q.dest = 0x10#10) (he : q.err = false) (h : ¬ readsWords q.payload) (u : State) : memRead q u = u.refuse 0x10 q 4 := by
  have hep : q.dest.toNat = 0x10 := by rw [hd]; rfl
  unfold memRead
  dsimp only
  rw [hep, if_neg (by rw [he]; decide), if_pos]
  unfold readsWords at h
  rw [← Bool.not_eq_false]
  tauto

/-- A well formed read request whose address the Plain refuses. -/
theorem memRead_refused {code : Nat} (hd : q.dest = 0x10#10) (he : q.err = false) (h : readsWords q.payload) {u : State}
    (hr : u.memRefusal 0x10 (memHead q.payload).addr (memHead q.payload).count false = some code) : memRead q u = u.refuse 0x10 q code := by
  have hep : q.dest.toNat = 0x10 := by rw [hd]; rfl
  obtain ⟨hbe, hop, hack⟩ := h
  unfold memRead
  dsimp only
  rw [hep, if_neg (by rw [he]; decide), if_neg (by simp [hbe, hop, hack]), hr]

/-- A read request that the Plain serves. -/
theorem memRead_served (hd : q.dest = 0x10#10) (he : q.err = false) (h : readsWords q.payload) {u : State}
    (hr : u.memRefusal 0x10 (memHead q.payload).addr (memHead q.payload).count false = none) :
    memRead q u = (u.readResponses 0x10 q (memHead q.payload).addr (memHead q.payload).count).eccReads (memHead q.payload).addr (memHead q.payload).count := by
  have hep : q.dest.toNat = 0x10 := by rw [hd]; rfl
  obtain ⟨hbe, hop, hack⟩ := h
  unfold memRead
  dsimp only
  rw [hep, if_neg (by rw [he]; decide), if_neg (by simp [hbe, hop, hack]), hr]
  rfl

theorem memoryReadAnswersTheWords : Rules.MemoryReadAnswersTheWords := by
  intro q s _ hd he ht hbe hop hack hrange
  have hrun : exec (.mrd q) s = .next (memRead q (s.deliver 0x10 q)) := congrArg Host.Outcome.next (mrd_plain hd ht s)
  refine ⟨_, hrun, portion_of_exec hrun .mem rfl, ?_⟩
  rw [memRead_served hd he ⟨hbe, hop, hack⟩ (State.memRefusal_plain (memHead_count_pos _) hrange false _), (State.eccReads_checked _ _ _).net]
  obtain ⟨l, hnet, hl⟩ := State.readResponses_net 0x10 q (memHead q.payload).count (memHead q.payload).addr (s.deliver 0x10 q)
  obtain ⟨hp, hf⟩ := hl.congr (s := s) (by simp) (by simp)
  exact ⟨l, by rw [hnet, State.deliver_net], hp, hf⟩

/-- A read request refused as it reaches the Plain. -/
theorem mrd_refused {code : Nat} (hd : q.dest = 0x10#10) (ht : q.timed = false) (hq : neverAnswered q = false)
    (h : memRead q (s.deliver 0x10 q) = (s.deliver 0x10 q).refuse 0x10 q code) :
    Completes (.mrd q) s (fun t => Refused 0x10 q code s t ∧ t.mem = s.mem) := by
  have hrun : exec (.mrd q) s = .next ((s.deliver 0x10 q).refuse 0x10 q code) := congrArg Host.Outcome.next ((mrd_plain hd ht s).trans h)
  exact ⟨_, hrun, State.refuse_refused hq (s.deliver_net 0x10 q) (by simp) _ _, portion_of_exec hrun .mem rfl⟩

theorem memoryReadRefusals : Rules.MemoryReadRefusals := by
  intro q s _ hd he ht hq
  refine ⟨fun h => mrd_refused hd ht hq (memRead_malformed hd he ?_ _), fun hbe hop hack h1 h2 => ?_, fun hbe hop hack h1 h2 => ?_⟩
  · rintro ⟨hbe, hop, hack⟩
    simp [hbe, hop, hack] at h
  · exact mrd_refused hd ht hq (memRead_refused hd he ⟨hbe, hop, hack⟩ (State.memRefusal_reserved h1 h2 _ _ _ _))
  · exact mrd_refused hd ht hq (memRead_refused hd he ⟨hbe, hop, hack⟩ (State.memRefusal_control (memHead_count_pos _) h1 h2 _ _))

/-- Settles O19: a read of the Plain is one answer a word or one refusal, by what `memRead` does with the request once it is delivered. -/
theorem memoryReadsAnswerOrRefuse : Obligations.MemoryReadsAnswerOrRefuse := ⟨memoryReadAnswersTheWords, memoryReadRefusals⟩

end

section

variable {q : Token} {s : State}

/-! ### Writes and atomic operations -/

theorem testBit_bits (w : Word) (hi lo i : Nat) : (bits w hi lo).testBit i = (decide (i < hi + 1 - lo) && w.getLsbD (lo + i)) := by
  unfold bits
  rw [Nat.testBit_mod_two_pow, Nat.testBit_shiftRight]
  rfl

/-- Naming the operation a header already names changes nothing. -/
theorem withOp_self {op : Nat} (hop : (memHead q.payload).op = op) (data : List Token) : withOp op (q :: data) = q :: data := by
  have hp : (q.payload &&& ~~~ 6#64) ||| wd (op * 2) = q.payload := by
    apply BitVec.eq_of_getLsbD_eq
    intro i hi
    have hbit : op.testBit (i - 1) = (decide (i - 1 < 2) && q.payload.getLsbD (1 + (i - 1))) := by
      rw [← hop]
      exact testBit_bits q.payload 2 1 (i - 1)
    have h6 : (6#64).getLsbD i = (decide (i = 1) || decide (i = 2)) := by
      interval_cases i <;> rfl
    rw [BitVec.getLsbD_or, BitVec.getLsbD_and, BitVec.getLsbD_not, h6, wd, BitVec.getLsbD_ofNat, ← Nat.pow_one 2, Nat.testBit_mul_two_pow, hbit]
    by_cases h1 : 1 ≤ i
    · rw [show 1 + (i - 1) = i by omega]
      by_cases h2 : i ≤ 2
      · rcases (by omega : i = 1 ∨ i = 2) with rfl | rfl <;> simp
      · simp [hi, show ¬ (i - 1 < 2) by omega, show i ≠ 1 by omega, show i ≠ 2 by omega]
    · simp [show i = 0 by omega]
  simp only [withOp, hp]

theorem State.writeWords_whole (l : List Word) : ∀ (s : State) (a : Nat), s.writeWords a 255 l = s.sts a l := by
  induction l with
  | nil => exact fun _ _ => rfl
  | cons w l ih =>
    intro s a
    unfold State.writeWords State.sts
    rw [if_pos rfl, ih]

/-- A write of whole words that the Plain takes: the words are stored, and ACK is answered with their number (R78). -/
theorem memWrite_words {data : List Token} (hd : q.dest = 0x10#10) (he : ∀ u ∈ q :: data, u.err = false) (hop : (memHead q.payload).op = 0)
    (hbe : (memHead q.payload).byteen = 255) (hlen : data.length = (memHead q.payload).count)
    (hrange : (memHead q.payload).addr + 8 * (memHead q.payload).count ≤ 0x3000000) (u : State) :
    memWrite (q :: data) u = if (memHead q.payload).ack then
        (u.sts (memHead q.payload).addr (data.map (·.payload))).respond 0x10 q (wd (memHead q.payload).count)
      else u.sts (memHead q.payload).addr (data.map (·.payload)) := by
  have hep : q.dest.toNat = 0x10 := by rw [hd]; rfl
  have hfirst : firstErr (q :: data) = none := List.find?_eq_none.2 fun x hx => by rw [he x hx]; decide
  have hrefusal := State.memRefusal_plain (memHead_count_pos q.payload) hrange true u
  simp [memWrite, hfirst, hep, hop, hbe, hlen, hrefusal, State.memTouch, State.writeWords_whole]

theorem State.respond_net (s : State) (ep : Nat) (q : Token) (w : Word) :
    ∃ n, (s.respond ep q w).net = s.net ++ [{ mkTok ep q.src.toNat kindRSP q.stream.toNat w with seq := n }] := ⟨_, rfl⟩

theorem State.lds_respond (s : State) (ep : Nat) (q : Token) (w : Word) (a n : Nat) : (s.respond ep q w).lds a n = s.lds a n :=
  State.lds_congr (s := s) (t := s.respond ep q w) rfl a n

theorem State.sts_net (s : State) (a : Nat) (l : List Word) : (s.sts a l).net = s.net := by simp

/-- Settles O20: the data words of an accepted message are stored one after another from its address on. -/
theorem memoryWriteStoresTheWords : Obligations.MemoryWriteStoresTheWords := by
  intro q data s hs hd ht he hop hbe hlen hrange
  have hrun : mwr (withOp 0 (q :: data)) s = memWrite (q :: data) (s.deliverAll 0x10 (q :: data)) := by
    rw [withOp_self hop, mwr_plain hd ht]
  rw [memWrite_words hd he hop hbe hlen hrange] at hrun
  have hnet : (s.deliverAll 0x10 (q :: data)).net = netWithout s (q :: data) := State.deliverAll_net ..
  have hu : (s.deliverAll 0x10 (q :: data)).canonical = true := (State.deliverAll_kept (Kept.refl s)).canon hs
  have hmem : (s.deliverAll 0x10 (q :: data)).mem = s.mem := by simp
  generalize s.deliverAll 0x10 (q :: data) = u at hrun hnet hu hmem
  have hv : (u.sts (memHead q.payload).addr (data.map (·.payload))).lds (memHead q.payload).addr (memHead q.payload).count = data.map (·.payload) := by
    have k := State.lds_sts hu (ws := data.map (·.payload)) (memHead q.payload).addr
    rwa [List.length_map, hlen] at k
  have hother : BytesKept s (u.sts (memHead q.payload).addr (data.map (·.payload)))
      (fun a => (memHead q.payload).addr ≤ a ∧ a < (memHead q.payload).addr + 8 * (memHead q.payload).count) := by
    intro a ha
    rw [State.byte_sts_other hu _ _ (by rw [List.length_map, hlen]; omega)]
    exact congrArg (tget memDefault · a) hmem
  cases hack : (memHead q.payload).ack with
  | false =>
    rw [hack, if_neg (by decide)] at hrun
    exact ⟨_, congrArg Host.Outcome.next hrun, hv, hother, fun _ => (State.sts_net ..).trans hnet, fun h => absurd h (by decide)⟩
  | true =>
    rw [hack, if_pos rfl] at hrun
    refine ⟨_, congrArg Host.Outcome.next hrun, (State.lds_respond ..).trans hv, hother, fun h => absurd h (by decide), fun _ => ?_⟩
    obtain ⟨n, hn⟩ := State.respond_net (u.sts (memHead q.payload).addr (data.map (·.payload))) 0x10 q (wd (memHead q.payload).count)
    exact ⟨n, by rw [hn, State.sts_net, hnet]⟩

/-- What an atomic operation leaves in memory, by OP: swap, fetch-and-add, compare-and-swap (R78). -/
def atomicStored (op a : Nat) (v w : Word) (s : State) : State :=
  match op with
  | 1 => s.st a v
  | 2 => s.st a (s.ld a + v)
  | _ => if s.ld a = v then s.st a w else s

theorem atomicStored_net (op a : Nat) (v w : Word) (s : State) : (atomicStored op a v w s).net = s.net := by
  unfold atomicStored
  split
  · simp
  · simp
  · split <;> simp

theorem byte_atomicStored_other (op : Nat) {a b : Nat} (v w : Word) (hs : s.canonical = true) (hb : ¬ (a ≤ b ∧ b < a + 8)) :
    (atomicStored op a v w s).byte b = s.byte b := by
  have hst : ∀ x : Word, (s.st a x).byte b = s.byte b := fun x => (State.byte_st hs a b x).trans (if_neg hb)
  unfold atomicStored
  split
  · exact hst _
  · exact hst _
  · split
    · exact hst _
    · rfl

/-- Compare-and-swap leaves the second operand where the word equals the first, and the word elsewhere. -/
theorem ld_atomicStored_cas (hs : s.canonical = true) (a : Nat) (v w : Word) : (atomicStored 3 a v w s).ld a = if s.ld a = v then w else s.ld a := by
  have hdef : atomicStored 3 a v w s = if s.ld a = v then s.st a w else s := rfl
  rw [hdef]
  by_cases hv : s.ld a = v
  · rw [if_pos hv, if_pos hv, State.ld_st hs]
  · rw [if_neg hv, if_neg hv]

/-- The operands that an atomic operation carries. -/
def atomicOperands (op : Nat) : Nat := if op = 3 then 2 else 1

/-- An atomic message at a word of the Plain without an error: the operation, then the old word as the answer (R78). -/
theorem memWrite_atomic {data : List Token} {op : Nat} (h : PlainAtomic s q data op) (hop : op = 1 ∨ op = 2 ∨ op = 3)
    (hlen : data.length = atomicOperands op) {u : State} (hecc : u.eccAt (memHead q.payload).addr = none) :
    memWrite (q :: data) u = (atomicStored op (memHead q.payload).addr ((data.map (·.payload)).getD 0 0) ((data.map (·.payload)).getD 1 0) u).respond
      0x10 q (u.ld (memHead q.payload).addr) := by
  obtain ⟨_, hd, _, he, hopq, hcount, hbe, hack, hrange, _⟩ := h
  have hep : q.dest.toNat = 0x10 := by rw [hd]; rfl
  have hfirst : firstErr (q :: data) = none := List.find?_eq_none.2 fun x hx => by rw [he x hx]; decide
  have hrefusal := State.memRefusal_plain (n := 1) (by decide) hrange true u
  have hplain : u.region (memHead q.payload).addr = .plain := if_pos (by omega)
  have hue : u.anyUe (memHead q.payload).addr 1 = false := by simp [State.anyUe, hecc]
  have hclean : u.eccReads (memHead q.payload).addr 1 = u := by simp [State.eccReads, State.eccRead, hecc]
  rcases hop with rfl | rfl | rfl <;>
    simp [memWrite, atomicStored, hfirst, hep, hopq, hcount, hbe, hack, hlen, atomicOperands, hrefusal, hplain, hue, hclean, State.memTouch]

/-- An atomic message to the Plain is done where what its operation stores on the state its delivery leaves reads as `w`. -/
theorem atomic_done {data : List Token} {op : Nat} {w : Word} (h : PlainAtomic s q data op) (hop : op = 1 ∨ op = 2 ∨ op = 3)
    (hlen : data.length = atomicOperands op)
    (hw : ∀ u : State, u.canonical = true → u.ld (memHead q.payload).addr = s.ld (memHead q.payload).addr →
      (atomicStored op (memHead q.payload).addr ((data.map (·.payload)).getD 0 0) ((data.map (·.payload)).getD 1 0) u).ld (memHead q.payload).addr = w) :
    AtomicDone q data w s (mwr (withOp op (q :: data)) s) := by
  obtain ⟨hs, hd, ht, _, hopq, _, _, _, _, hecc⟩ := id h
  rw [withOp_self hopq, mwr_plain hd ht, memWrite_atomic h hop hlen ((State.eccAt_congr (by simp) _).trans hecc)]
  have hnet : (s.deliverAll 0x10 (q :: data)).net = netWithout s (q :: data) := State.deliverAll_net ..
  have hu : (s.deliverAll 0x10 (q :: data)).canonical = true := (State.deliverAll_kept (Kept.refl s)).canon hs
  have hmem : (s.deliverAll 0x10 (q :: data)).mem = s.mem := by simp
  generalize s.deliverAll 0x10 (q :: data) = u at hnet hu hmem
  have hold : u.ld (memHead q.payload).addr = s.ld (memHead q.payload).addr := List.head_eq_of_cons_eq (State.lds_congr hmem _ 1)
  refine ⟨hw u hu hold, fun a ha => ?_, ?_⟩
  · exact (byte_atomicStored_other op _ _ hu ha).trans (congrArg (tget memDefault · a) hmem)
  · rw [hold, ← hnet, ← atomicStored_net op (memHead q.payload).addr ((data.map (·.payload)).getD 0 0) ((data.map (·.payload)).getD 1 0) u]
    exact State.respond_net ..

/-- Settles O21: each operation stores its word and answers the old one. -/
theorem atomicOperations : Obligations.AtomicOperations := by
  intro q d e s
  refine ⟨fun h => ⟨_, rfl, atomic_done h (by decide) rfl fun u hu _ => State.ld_st hu _ _⟩,
    fun h => ⟨_, rfl, atomic_done h (by decide) rfl fun u hu hold => (State.ld_st hu _ _).trans (congrArg (· + d.payload) hold)⟩,
    fun h => ⟨_, rfl, atomic_done h (by decide) rfl fun u hu hold => (ld_atomicStored_cas hu _ _ _).trans ?_⟩⟩
  exact congrArg (fun x => if x = d.payload then e.payload else x) hold

end

section

variable {s : State}

/-! ### The refusal point, and tokens that are absorbed (R36, R102) -/

theorem refusalPointAndAbsorption : Rules.RefusalPointAndAbsorption := by
  intro q s hs
  have hword : ∀ a, blockOf a ≠ 7 → (s.deliver q.dest.toNat q).word a = s.word a := fun a h7 => State.word_deliver hs _ _ h7
  refine ⟨fun hq => ⟨_, rfl, State.refuse_refused hq (State.deliver_net ..) (by simp) _ _, fun a _ h7 => ?_⟩, fun hq => ?_⟩
  · rw [State.word_past_refuse, hword a h7]
  · have hrun : exec (.rspAbsorbed q) s = .next ((s.deliver q.dest.toNat q).absorb q.dest.toNat q) := congrArg Host.Outcome.next (if_pos hq)
    refine ⟨_, hrun, ?_, fun a _ h7 => ?_, fun h => ?_, fun hk he => ?_⟩
    · simp [State.deliver_net]
    · rw [State.word_past_absorb, hword a h7]
    · have hquiet : (q.kind == 5#4 && q.err) = false := by
        rcases h with h | h
        · rw [beq_eq_false_iff_ne.2 h]; rfl
        · rw [h, Bool.and_false]
      simp [State.absorb, hquiet]
    · have hloud : (q.kind == 5#4 && q.err) = true := by rw [hk, he]; rfl
      have habsorb : (s.deliver q.dest.toNat q).absorb q.dest.toNat q = (s.deliver q.dest.toNat q).info 24 0 q.dest.toNat := if_pos hloud
      have hlines : (s.deliver q.dest.toNat q).lines = s.lines := by simp
      rw [habsorb]
      exact ⟨_, congrArg (· ++ _) hlines, rfl, rfl⟩

/-! ### Error marks, and the scrub of the Plain (R83–R85) -/

theorem State.eccAt_setEcc (hs : s.canonical = true) (a b : Nat) (m : Option EccMark) :
    (s.setEcc b m).eccAt a = if a / 8 * 8 = b / 8 * 8 then m else s.eccAt a := by
  obtain ⟨_, _, heccs, _⟩ := (State.canonical_iff s).1 hs
  unfold State.eccAt
  split
  · next e =>
    rw [e]
    exact tget_tset_same _ _ heccs
  · next e => exact tget_tset_other _ _ _ heccs e

/-- Every mark is as before or gone. -/
def Cleaner (s t : State) : Prop := ∀ a, t.eccAt a = s.eccAt a ∨ t.eccAt a = none

theorem Cleaner.refl (s : State) : Cleaner s s := fun _ => .inl rfl

theorem Cleaner.of_eccs {t u : State} (h : Cleaner s t) (e : u.eccs = t.eccs) : Cleaner s u := fun a => by
  rw [State.eccAt_congr e]
  exact h a

theorem Cleaner.trans {t u : State} (h : Cleaner s t) (k : Cleaner t u) : Cleaner s u := fun a => by
  rcases k a with e | e
  · rw [e]
    exact h a
  · exact .inr e

theorem Cleaner.none {t : State} {a : Nat} (h : Cleaner s t) (ha : s.eccAt a = none) : t.eccAt a = none := by
  rcases h a with e | e
  · rw [e, ha]
  · exact e

theorem Cleaner.ne_double {t : State} {a : Nat} (h : Cleaner s t) (ha : s.eccAt a ≠ some .double) : t.eccAt a ≠ some .double := by
  rcases h a with e | e
  · rwa [e]
  · rw [e]; decide

theorem State.recordEccAddr_eccs (s : State) (dram : Bool) (ty addr : Nat) : (s.recordEccAddr dram ty addr).eccs = s.eccs := by
  unfold State.recordEccAddr
  extract_lets ft fa old take
  split <;> simp

theorem State.eccCorrect_eccs (s : State) (a : Nat) : (s.eccCorrect a).eccs = (s.setEcc a none).eccs := by
  unfold State.eccCorrect
  extract_lets u
  split <;> simp [State.recordEccAddr_eccs, u]

theorem State.eccUncorrectable_eccs (s : State) (a : Nat) : (s.eccUncorrectable a).eccs = s.eccs := by
  unfold State.eccUncorrectable
  split <;> simp [State.recordEccAddr_eccs]

theorem State.eccRead_cleaner (hs : s.canonical = true) (a : Nat) : Cleaner s (s.eccRead a) := by
  unfold State.eccRead
  split
  · exact .refl s
  · intro b
    rw [State.eccAt_congr (s.eccCorrect_eccs a), State.eccAt_setEcc hs]
    split
    · exact .inr rfl
    · exact .inl rfl
  · exact (Cleaner.refl s).of_eccs (s.eccUncorrectable_eccs a)

/-- A word with no uncorrectable error is without mark once it is read. -/
theorem State.eccAt_eccRead_same (hs : s.canonical = true) {a : Nat} (ha : s.eccAt a ≠ some .double) : (s.eccRead a).eccAt a = none := by
  unfold State.eccRead
  split
  · assumption
  · rw [State.eccAt_congr (s.eccCorrect_eccs a), State.eccAt_setEcc hs, if_pos rfl]
  · contradiction

theorem State.eccReads_cleaner (n : Nat) : ∀ {s : State} (_ : s.canonical = true) (a : Nat), Cleaner s (s.eccReads a n) := by
  induction n with
  | zero => exact fun _ _ => .refl _
  | succ n ih => exact fun hs a => (State.eccRead_cleaner hs a).trans (ih ((State.eccRead_kept (Kept.refl _)).canon hs) _)

/-- The words of a run that is read have no correctable mark left. -/
theorem State.eccAt_eccReads (n : Nat) : ∀ {s : State} (_ : s.canonical = true) {a i : Nat} (_ : i < n) (_ : s.eccAt (a + 8 * i) ≠ some .double),
    (s.eccReads a n).eccAt (a + 8 * i) = none := by
  induction n with
  | zero => exact fun _ _ _ hi => absurd hi (Nat.not_lt_zero _)
  | succ n ih =>
    intro s hs a i hi ha
    have hread := (State.eccRead_kept (y1 := a) (Kept.refl s)).canon hs
    cases i with
    | zero => exact (State.eccReads_cleaner n hread _).none (State.eccAt_eccRead_same hs ha)
    | succ i =>
      have hat : a + 8 * (i + 1) = a + 8 + 8 * i := by omega
      rw [hat] at ha ⊢
      exact ih hread (Nat.lt_of_succ_lt_succ hi) ((State.eccRead_cleaner hs a).ne_double ha)

theorem Checked.scrub {a b : State} (h : Checked a b) : b.scrub = a.scrub := by
  obtain ⟨_, _, _, rfl⟩ := h
  rfl

/-- The scrub of a block reads its 32 words; beyond the check it notes the block. -/
theorem State.scrubBlock_spec (s : State) (a : Nat) : (s.scrubBlock a).eccs = (s.eccReads a 32).eccs ∧ (s.scrubBlock a).scrub.next = s.scrub.next := by
  have h := State.eccReads_checked 32 s a
  unfold State.scrubBlock
  extract_lets single u v
  have hv : v.eccs = u.eccs ∧ v.scrub = s.scrub := by
    unfold v
    split
    · exact ⟨by rw [State.recordEccAddr_eccs]; simp, ((h.setCw _).recordEccAddr _ _ _).scrub⟩
    · exact ⟨rfl, h.scrub⟩
  have hnext : v.scrub.next = s.scrub.next := congrArg Scrub.next hv.2
  split <;> exact ⟨hv.1, hnext⟩

theorem State.scrubBlock_cleaner (hs : s.canonical = true) (a : Nat) : Cleaner s (s.scrubBlock a) :=
  (State.eccReads_cleaner 32 hs a).of_eccs (s.scrubBlock_spec a).1

theorem State.scrubBlock_canonical (hs : s.canonical = true) (a : Nat) : (s.scrubBlock a).canonical = true :=
  (State.scrubBlock_kept (Kept.refl s)).canon hs

/-- The blocks that are scrubbed, one after another. -/
def State.scrubBlocks (s : State) (l : List Nat) : State := forEach l (fun a s => s.scrubBlock a) s

theorem State.scrubBlocks_cons (s : State) (a : Nat) (l : List Nat) : s.scrubBlocks (a :: l) = (s.scrubBlock a).scrubBlocks l := rfl

theorem State.scrubBlocks_next (l : List Nat) : ∀ s : State, (s.scrubBlocks l).scrub.next = s.scrub.next := by
  induction l with
  | nil => exact fun _ => rfl
  | cons a l ih => exact fun s => (ih _).trans (s.scrubBlock_spec a).2

theorem State.scrubBlocks_cleaner (l : List Nat) : ∀ {s : State}, s.canonical = true → Cleaner s (s.scrubBlocks l) := by
  induction l with
  | nil => exact fun _ => .refl _
  | cons a l ih => exact fun hs => (State.scrubBlock_cleaner hs a).trans (ih (State.scrubBlock_canonical hs a))

/-- A word with no uncorrectable error, in a block that is scrubbed, has no mark left. -/
theorem State.eccAt_scrubBlocks (l : List Nat) : ∀ {s : State} (_ : s.canonical = true) {a : Nat} (_ : a % 8 = 0) (_ : a / 256 * 256 ∈ l)
    (_ : s.eccAt a ≠ some .double), (s.scrubBlocks l).eccAt a = none := by
  induction l with
  | nil => exact fun _ _ _ hl => absurd hl List.not_mem_nil
  | cons b l ih =>
    intro s hs a h8 hl ha
    rw [State.scrubBlocks_cons]
    rcases List.mem_cons.1 hl with rfl | hl
    · have hat : a / 256 * 256 + 8 * (a % 256 / 8) = a := by omega
      have hread := State.eccAt_eccReads 32 hs (a := a / 256 * 256) (i := a % 256 / 8) (by omega) (by rwa [hat])
      rw [hat, ← State.eccAt_congr (s.scrubBlock_spec _).1] at hread
      exact (State.scrubBlocks_cleaner l (State.scrubBlock_canonical hs _)).none hread
    · exact ih (State.scrubBlock_canonical hs b) h8 hl ((State.scrubBlock_cleaner hs b).ne_double ha)

/-- A key that reads other than its default is in the table. -/
theorem mem_of_tget_ne {α : Type} {d : Nat → α} {i : Nat} : ∀ {t : List (Nat × α)}, tget d t i ≠ d i → (i, tget d t i) ∈ t
  | [], h => absurd rfl h
  | (k, v) :: t, h => by
    unfold tget at h ⊢
    split at h
    · next e => rw [if_pos e, e]; exact List.mem_cons_self
    · next e =>
      split at h
      · contradiction
      · next e' => rw [if_neg e, if_neg e']; exact List.mem_cons_of_mem _ (mem_of_tget_ne h)

theorem mem_scrubTargets {a o : Nat} (ha : a < 0x3000000) (h8 : a % 8 = 0) (ho : a / 256 / 96 = o) (h : s.eccAt a ≠ none) :
    a / 256 * 256 ∈ s.scrubTargets o := by
  have hkey : a / 8 * 8 = a := by omega
  unfold State.eccAt at h
  rw [hkey] at h
  exact List.mem_dedup.2 (List.mem_map.2 ⟨_, List.mem_filter.2 ⟨mem_of_tget_ne h, decide_eq_true ⟨ha, ho⟩⟩, rfl⟩)

theorem plainScrubCorrects : Rules.PlainScrubCorrects := by
  intro s hs hp
  set u := s.scrubBlocks (s.scrubTargets s.scrub.next)
  have hrun : exec .plainScrub s = .next (if s.scrub.next + 1 < 2048 then u.setScrub { u.scrub with next := s.scrub.next + 1 }
      else u.setScrub { next := 0, now := [], last := u.scrub.now }) := congrArg Host.Outcome.next (if_neg hp)
  refine ⟨_, hrun, ?_, portion_of_exec hrun .mem rfl, fun a ha h8 ho hm => ?_⟩
  · split <;> rfl
  · have hclean : u.eccAt a = none := State.eccAt_scrubBlocks _ hs h8 (mem_scrubTargets ha h8 ho (by rw [hm]; decide)) (by rw [hm]; decide)
    split <;> exact hclean

/-! ### Ports, and returned credit (R43) -/

theorem Core.port_setPort_same (c : Core) {p : Nat} (hp : p < 8) (x : Port) : (c.setPort p x).port p = x := by
  simp [Core.port, Core.setPort, hp]

theorem Core.port_setPort_other (c : Core) {p j : Nat} (hj : j ≠ p) (x : Port) : (c.setPort p x).port j = c.port j := by
  simp [Core.port, Core.setPort, hj.symm]

theorem creditReturns : Rules.CreditReturn := by
  intro q k r p s hs hk hd hb
  set d := q.dest.toNat with hdef
  have hr : (d - 0x80) / 8 = r := by rw [hd]; unfold portEp; omega
  have hp : (d - 0x80) % 8 = p := by rw [hd]; unfold portEp; omega
  have hport : q.kind = 12#4 ∧ 0x80 ≤ d ∧ d < 0x110 := ⟨hk, by rw [hd]; unfold portEp; omega, by rw [hd]; unfold portEp; omega⟩
  set x : Port := { (s.core r).port p with
        taken := tset (fun _ => 0) ((s.core r).port p).taken q.src.toNat (tget (fun _ => 0) ((s.core r).port p).taken q.src.toNat - k) }
  set t := (s.deliver d q).setCore r ((s.core r).setPort p x)
  have ht : ∀ m, t.core m = if m = r then (s.core r).setPort p x else s.core m := by
    intro m
    rw [State.core_setCore ((State.deliver_kept (Kept.refl s)).canon hs), State.core_congr (show (s.deliver d q).cores = s.cores by simp)]
  have hrun : exec (.creditReturn q k) s = .next t := by
    have hstep : creditReturn q k s = zResume r t := by
      unfold creditReturn
      dsimp only
      rw [← hdef, if_pos hport, hr, hp]
    have hidle : zResume r t = t := by
      unfold zResume
      rw [ht, if_pos rfl, show ((s.core r).setPort p x).blocked = none from hb]
    exact congrArg Host.Outcome.next (hstep.trans hidle)
  refine ⟨t, hrun, State.deliver_net s d q, ?_, fun m hm => ?_, fun j hj => ?_⟩
  · rw [ht, if_pos rfl, Core.port_setPort_same _ p.isLt]
  · rw [ht, if_neg hm]
  · rw [ht, if_pos rfl, Core.port_setPort_other _ (Fin.val_ne_of_ne hj)]

/-- Settles O22: each clause is one shared operation's rule: the refusal, the absorption, the scrub of a block, the credit of a port. -/
theorem absorptionScrubAndCredit : Obligations.AbsorptionScrubAndCredit := ⟨refusalPointAndAbsorption, plainScrubCorrects, creditReturns⟩

end

end Sys2Proof.Machine
end

section
namespace Sys2Proof.Machine

open Sys2Proof

/-! ### Words and signed numbers -/

/-- The signed value of the low bits is that of the bit vector they make. -/
theorem sx_eq_toInt {n : Nat} (hn : 0 < n) (v : Nat) : sx n v = (BitVec.ofNat n v).toInt := by
  have hpow : 2 ^ n = 2 * 2 ^ (n - 1) := by rw [← Nat.pow_succ', Nat.succ_eq_add_one, Nat.sub_add_cancel hn]
  unfold sx BitVec.toInt
  dsimp only
  rw [BitVec.toNat_ofNat, hpow]
  by_cases h : v % (2 * 2 ^ (n - 1)) < 2 ^ (n - 1)
  · rw [if_pos h, if_pos (by omega)]
  · rw [if_neg h, if_neg (by omega)]

theorem sat_eq_max_min {n : Nat} (v : Int) : sat n v = max (-2 ^ (n - 1)) (min (2 ^ (n - 1) - 1) v) := by
  have hpow : (0 : Int) < 2 ^ (n - 1) := by positivity
  unfold sat clamp
  push_cast
  split
  · omega
  · split <;> omega

/-! ### The functions of the ALU (R109) -/

theorem aluFn_ror (x y : Word) : aluFn 0x09 x y = x.rotateRight (y.toNat % 64) := by
  show _ = BitVec.rotateRightAux x (y.toNat % 64 % 64)
  rw [Nat.mod_mod]
  rfl

theorem aluFn_divu (x y : Word) : aluFn 0x15 x y = if y = 0 then BitVec.allOnes 64 else x / y := by
  show (if y = 0 then _ else _) = _
  split
  · rfl
  · exact BitVec.eq_of_toNat_eq (by rw [wd, BitVec.toNat_udiv, BitVec.toNat_ofNat, Nat.mod_eq_of_lt (lt_of_le_of_lt (Nat.div_le_self ..) x.isLt)])

theorem aluFn_divs (x y : Word) : aluFn 0x16 x y = if y = 0 then BitVec.allOnes 64 else x.sdiv y := by
  show (if y = 0 then _ else _) = _
  split
  · rfl
  · exact BitVec.eq_of_toInt_eq (by rw [wdi, BitVec.toInt_sdiv, BitVec.toInt_ofInt])

theorem aluFn_remu (x y : Word) : aluFn 0x17 x y = if y = 0 then x else x % y := by
  show (if y = 0 then _ else _) = _
  split
  · rfl
  · exact BitVec.eq_of_toNat_eq (by rw [wd, BitVec.toNat_umod, BitVec.toNat_ofNat, Nat.mod_eq_of_lt (lt_of_le_of_lt (Nat.mod_le ..) x.isLt)])

theorem aluFn_rems (x y : Word) : aluFn 0x18 x y = if y = 0 then x else x.srem y := by
  show (if y = 0 then _ else _) = _
  split
  · rfl
  · rw [wdi, ← BitVec.toInt_srem, BitVec.ofInt_toInt]

theorem aluFn_addsat (x y : Word) : aluFn 0x1A x y = BitVec.ofInt 64 (max (-2 ^ 63) (min (2 ^ 63 - 1) (x.toInt + y.toInt))) :=
  congrArg wdi (sat_eq_max_min _)

theorem aluFn_subsat (x y : Word) : aluFn 0x1B x y = BitVec.ofInt 64 (max (-2 ^ 63) (min (2 ^ 63 - 1) (x.toInt - y.toInt))) :=
  congrArg wdi (sat_eq_max_min _)

/-- The number of an ALU row of two operands: legal in register form whatever its registers are. -/
def binaryFn (fn : BitVec 5) : Bool := fn.toNat < 0x1C && !((0xE ≤ fn.toNat && fn.toNat ≤ 0x11) || fn.toNat == 0x19)

/-- An ALU row is an attempt at its function, and its function is the one R109 gives. -/
theorem exec_aluRow {i : Instr} {r : Fin 18} {g : BitVec 4} {d a b : BitVec 5} {m : BitVec 2} {f : Word → Word → Word}
    (h : aluRow i = some (r, g, d, a, b, m, f)) :
    ∃ fn, binaryFn fn = true ∧ aluFn fn.toNat = f ∧ ∀ s, exec i s = .next (zExec r g (.alu fn d a b m) s) := by
  cases i with
  | zAdd => cases h; exact ⟨0#5, rfl, rfl, fun _ => rfl⟩
  | zSub => cases h; exact ⟨1#5, rfl, rfl, fun _ => rfl⟩
  | zAnd => cases h; exact ⟨2#5, rfl, rfl, fun _ => rfl⟩
  | zOr => cases h; exact ⟨3#5, rfl, rfl, fun _ => rfl⟩
  | zXor => cases h; exact ⟨4#5, rfl, rfl, fun _ => rfl⟩
  | zAndn => cases h; exact ⟨5#5, rfl, rfl, fun _ => rfl⟩
  | zShl => cases h; exact ⟨6#5, rfl, rfl, fun _ => rfl⟩
  | zShr => cases h; exact ⟨7#5, rfl, rfl, fun _ => rfl⟩
  | zSar => cases h; exact ⟨8#5, rfl, rfl, fun _ => rfl⟩
  | zRor => cases h; exact ⟨9#5, rfl, funext₂ aluFn_ror, fun _ => rfl⟩
  | zMin => cases h; exact ⟨10#5, rfl, rfl, fun _ => rfl⟩
  | zMax => cases h; exact ⟨11#5, rfl, rfl, fun _ => rfl⟩
  | zMinu => cases h; exact ⟨12#5, rfl, rfl, fun _ => rfl⟩
  | zMaxu => cases h; exact ⟨13#5, rfl, rfl, fun _ => rfl⟩
  | zMul => cases h; exact ⟨18#5, rfl, rfl, fun _ => rfl⟩
  | zMulhu => cases h; exact ⟨19#5, rfl, rfl, fun _ => rfl⟩
  | zMulhs => cases h; exact ⟨20#5, rfl, rfl, fun _ => rfl⟩
  | zDivu => cases h; exact ⟨21#5, rfl, funext₂ aluFn_divu, fun _ => rfl⟩
  | zDivs => cases h; exact ⟨22#5, rfl, funext₂ aluFn_divs, fun _ => rfl⟩
  | zRemu => cases h; exact ⟨23#5, rfl, funext₂ aluFn_remu, fun _ => rfl⟩
  | zRems => cases h; exact ⟨24#5, rfl, funext₂ aluFn_rems, fun _ => rfl⟩
  | zAddsat => cases h; exact ⟨26#5, rfl, funext₂ aluFn_addsat, fun _ => rfl⟩
  | zSubsat => cases h; exact ⟨27#5, rfl, funext₂ aluFn_subsat, fun _ => rfl⟩
  | _ => cases h

/-! ### The ALU rows of one operand -/

theorem clz64_spec (x : Word) : if x = 0 then wd (clz64 x.toNat) = 64 else (wd (clz64 x.toNat)).toNat = 63 - Nat.log2 x.toNat := by
  split
  · next h => rw [h]; rfl
  · next h =>
    have hx : x.toNat ≠ 0 := fun e => h (BitVec.eq_of_toNat_eq e)
    rw [clz64, if_neg hx, wd, BitVec.toNat_ofNat, Nat.mod_eq_of_lt (by omega)]

theorem ctz_le (n : Nat) : ∀ v, ctz n v ≤ n := by
  induction n with
  | zero => exact fun _ => Nat.le_refl 0
  | succ n ih =>
    intro v
    unfold ctz
    have := ih (v / 2)
    split <;> omega

theorem ctz_zero (n : Nat) : ctz n 0 = n := by
  induction n with
  | zero => rfl
  | succ n ih => exact (congrArg (1 + ·) ih).trans (Nat.add_comm 1 n)

/-- Below the count every bit is 0, and at it stands a 1 where the number has one. -/
theorem ctz_spec (n : Nat) : ∀ v, (v % 2 ^ n ≠ 0 → v.testBit (ctz n v) = true) ∧ ∀ i, i < ctz n v → v.testBit i = false := by
  induction n with
  | zero => exact fun v => ⟨fun h => absurd (Nat.mod_one v) h, fun i h => absurd h (Nat.not_lt_zero i)⟩
  | succ n ih =>
    intro v
    obtain ⟨hone, hzero⟩ := ih (v / 2)
    unfold ctz
    split
    · next h => exact ⟨fun _ => by simp [Nat.testBit_zero, h], fun i hi => absurd hi (Nat.not_lt_zero i)⟩
    · next h =>
      have hhalf : ∀ k, v.testBit (1 + k) = (v / 2).testBit k := fun k => by rw [Nat.add_comm, Nat.testBit_succ]
      refine ⟨fun hv => ?_, fun i hi => ?_⟩
      · rw [hhalf]
        refine hone fun e => hv ?_
        rw [Nat.pow_succ', Nat.mod_mul, e]
        omega
      · cases i with
        | zero => simp [Nat.testBit_zero, h]
        | succ i => rw [Nat.testBit_succ]; exact hzero i (by omega)

theorem popcount_eq (n : Nat) : ∀ v, popcount n v = ((List.range n).filter (fun i => v.testBit i)).length := by
  induction n with
  | zero => exact fun _ => rfl
  | succ n ih =>
    intro v
    have hhalf : (fun i => v.testBit i) ∘ Nat.succ = fun i => (v / 2).testBit i := funext fun i => Nat.testBit_succ v i
    rw [popcount, ih, List.range_succ_eq_map, List.filter_cons, List.filter_map, hhalf, Nat.testBit_zero]
    split
    · next h => simp only [decide_eq_true_eq] at h; simp [h, Nat.add_comm]
    · next h => simp only [decide_eq_true_eq] at h; simp [show v % 2 = 0 by omega]

/-- Bit `j` of byte `i` of the number a string of bytes spells. -/
theorem testBit_leNat : ∀ (l : List Byte) (i : Nat) {j : Nat}, j < 8 → (leNat l).testBit (8 * i + j) = (l.getD i 0#8).getLsbD j
  | [], i, j, _ => by simp [leNat]
  | b :: l, 0, j, hj => by
    unfold leNat
    rw [show b.toNat + 256 * leNat l = 2 ^ 8 * leNat l + b.toNat by omega, Nat.testBit_two_pow_mul_add _ b.isLt, Nat.mul_zero, Nat.zero_add, if_pos hj]
    rfl
  | b :: l, i + 1, j, hj => by
    unfold leNat
    rw [show b.toNat + 256 * leNat l = 2 ^ 8 * leNat l + b.toNat by omega, Nat.testBit_two_pow_mul_add _ b.isLt, if_neg (by omega),
      show 8 * (i + 1) + j - 8 = 8 * i + j by omega, testBit_leNat l i hj]
    rfl

/-- Byte `i` of a number. -/
theorem getD_leBytes {n i : Nat} (hi : i < n) (v : Nat) : (leBytes n v).getD i 0#8 = BitVec.ofNat 8 (v / 256 ^ i) := by
  induction n generalizing i v with
  | zero => exact absurd hi (Nat.not_lt_zero i)
  | succ n ih =>
    cases i with
    | zero => simp [leBytes]
    | succ i =>
      refine (ih (Nat.lt_of_succ_lt_succ hi) (v / 256)).trans ?_
      rw [Nat.div_div_eq_div_mul, Nat.pow_succ']

theorem bswap_spec (x : Word) {i j : Nat} (hi : i < 8) (hj : j < 8) :
    (wd (leNat (leBytes 8 x.toNat).reverse)).getLsbD (8 * i + j) = x.getLsbD (8 * (7 - i) + j) := by
  have hlen : (leBytes 8 x.toNat).length = 8 := leBytes_length 8 _
  have hbyte : (leBytes 8 x.toNat).reverse.getD i 0#8 = (leBytes 8 x.toNat).getD (7 - i) 0#8 := by
    rw [List.getD_eq_getElem?_getD, List.getElem?_reverse (by omega), ← List.getD_eq_getElem?_getD, hlen]
  rw [wd, BitVec.getLsbD_ofNat, testBit_leNat _ _ hj, hbyte, getD_leBytes (by omega), BitVec.getLsbD_ofNat,
    show (256 : Nat) = 2 ^ 8 from rfl, ← Nat.pow_mul, Nat.testBit_div_two_pow]
  have hin : 8 * i + j < 64 := by omega
  simp [hj, hin, BitVec.getLsbD, Nat.add_comm (8 * (7 - i))]

theorem sextw_spec (x : Word) : wdi (sbits x 31 0) = (x.setWidth 32).signExtend 64 := by
  have h : BitVec.ofNat 32 (bits x 31 0) = x.setWidth 32 := BitVec.eq_of_toNat_eq (by simp [bits])
  unfold sbits
  rw [sx_eq_toInt (by decide), h]
  rfl

/-- A unary ALU row is an attempt at its function, legal without a second operand, and its result is the one R109 gives. -/
theorem exec_unaryRow {i : Instr} {r : Fin 18} {g : BitVec 4} {d a b : BitVec 5} {m : BitVec 2} {P : Word → Word → Prop}
    (h : unaryRow i = some (r, g, d, a, b, m, P)) :
    ∃ fn : BitVec 5, fn.toNat < 0x1C ∧ (∀ x y, P x (aluFn fn.toNat x y)) ∧ ∀ s, exec i s = .next (zExec r g (.alu fn d a b m) s) := by
  cases i with
  | zClz => cases h; exact ⟨14#5, by decide, fun x _ => clz64_spec x, fun _ => rfl⟩
  | zCtz =>
    cases h
    refine ⟨15#5, by decide, fun x _ => ⟨fun hx => ?_, fun hx => ?_⟩, fun _ => rfl⟩
    · rw [hx]; rfl
    · have hcount : (wd (ctz 64 x.toNat)).toNat = ctz 64 x.toNat := Nat.mod_eq_of_lt (lt_of_le_of_lt (ctz_le 64 _) (by decide))
      obtain ⟨hone, hzero⟩ := ctz_spec 64 x.toNat
      show x.getLsbD (wd _).toNat = true ∧ ∀ i, i < (wd _).toNat → _
      rw [hcount]
      refine ⟨hone fun e => hx (BitVec.eq_of_toNat_eq ?_), hzero⟩
      rwa [Nat.mod_eq_of_lt x.isLt] at e
  | zPopc =>
    cases h
    refine ⟨16#5, by decide, fun x _ => ?_, fun _ => rfl⟩
    show (wd (popcount 64 x.toNat)).toNat = _
    rw [popcount_eq]
    exact Nat.mod_eq_of_lt (lt_of_le_of_lt (List.length_filter_le ..) (by simp))
  | zBswap => cases h; exact ⟨17#5, by decide, fun x _ i j hi hj => bswap_spec x hi hj, fun _ => rfl⟩
  | zSextw => cases h; exact ⟨25#5, by decide, fun x _ => sextw_spec x, fun _ => rfl⟩
  | _ => cases h

/-! ### An instruction that a ready core executes (R105, R106, R118) -/

/-- A field written with its own value is the word as it was. -/
theorem Fld.put_get (f : Fld) (hf : f.hi < 64) (w : Word) : f.put w (f.get w) = w := by
  apply BitVec.eq_of_getLsbD_eq
  intro i hi
  rw [Fld.getLsbD_put f w _ i hf]
  split
  · next h =>
    have hlo : f.lo + (i - f.lo) = i := by omega
    rw [Fld.testBit_get, hlo, decide_eq_true (by omega), Bool.true_and]
  · rfl

/-- Setting a field to the value it has changes no word. -/
theorem State.word_setF_self {s : State} (hs : s.canonical = true) {f : Fld} (hf : f.hi < 64) {i v : Nat} (hv : s.f f i = v) (a : Nat) :
    (s.setF f i v).word a = s.word a := by
  subst hv
  rw [State.word_setF hs]
  split
  · next e => rw [e]; exact f.put_get hf _
  · rfl

section

variable {r : Nat} {g : BitVec 4} {s : State}

/-- What a ready core does with a legal operation. -/
theorem zExec_ready {op : ZOp} (h : Ready s r g) (hl : op.legal = true) (hop : op ≠ .sys 2 0 0 0) :
    zExec r g op s = zFinish r g op s (zAttempt r op s (s.core r)) := by
  obtain ⟨_, hst, hb, hdue, _, hg⟩ := h
  have hcan : s.canExec r g op = true := by
    unfold State.canExec
    dsimp only
    rw [hst, hb, hdue]
    rfl
  unfold zExec zRun
  dsimp only
  rw [if_pos hcan, hl, beq_eq_false_iff_ne.2 hop, hg]
  rfl

theorem core_setCore_setCoreState {t : State} (ht : t.canonical = true) (c : Core) (v q : Nat) :
    ((t.setCore r c).setCoreState r v).core q = if q = r then c else t.core q := State.core_setCore ht r q c

/-- A core that was running and is given its next record: its STATE is still 1, and no word changes. -/
theorem setCore_running {t : State} (ht : t.canonical = true) (hst : t.coreState r = 1) (c : Core) :
    (∀ q, ((t.setCore r c).setCoreState r 1).core q = if q = r then c else t.core q) ∧
    ∀ a, ((t.setCore r c).setCoreState r 1).word a = t.word a := by
  have hc : (t.setCore r c).canonical = true := (State.setCore_kept (Kept.refl t)).canon ht
  exact ⟨core_setCore_setCoreState ht c 1, State.word_setF_self hc (by decide) hst⟩

/-- The state a retiring instruction leaves: the attempt's state and core, the PC moved, one more instruction counted. -/
theorem zFinish_retire {op : ZOp} {s0 t : State} {c : Core} (hb : c.blocked = none) (hst : c.stepping = false) (pc : Nat) :
    zFinish r g op s0 (.retire t c pc) = (t.setCore r { c with pc := pc, icount := c.icount + 1 }).setCoreState r 1 := by
  have hun : c.unblock t.mt = c := by unfold Core.unblock; rw [hb]
  unfold zFinish
  dsimp only
  rw [hun, afterState, hst]
  rfl

/-- An attempt of a ready core that retires without touching the state retires alone. -/
theorem retiresAlone {op : ZOp} {c : Core} (h : Ready s r g) (hb : c.blocked = none) (hst : c.stepping = false) (pc : Nat) :
    RetiresAlone r { c with pc := pc } s (zFinish r g op s (.retire s c pc)) := by
  obtain ⟨hs, hstate, _⟩ := h
  rw [zFinish_retire hb hst]
  obtain ⟨hcore, hword⟩ := setCore_running hs hstate { c with pc := pc, icount := c.icount + 1 }
  exact ⟨⟨(hcore r).trans (if_pos rfl), fun q hq => (hcore q).trans (if_neg hq), hword⟩, rfl⟩

/-- A ready core whose legal operation retires with a new record. -/
theorem zExec_retiresAlone {op : ZOp} {c : Core} {pc : Nat} (h : Ready s r g) (hl : op.legal = true) (hop : op ≠ .sys 2 0 0 0)
    (hrun : zAttempt r op s (s.core r) = .retire s c pc) (hb : c.blocked = (s.core r).blocked) (hst : c.stepping = (s.core r).stepping) :
    RetiresAlone r { c with pc := pc } s (zExec r g op s) := by
  obtain ⟨_, _, hblocked, _, hstep, _⟩ := id h
  rw [zExec_ready h hl hop, hrun]
  exact retiresAlone h (hb.trans hblocked) (hst.trans hstep) pc

/-- A synchronous cause outside a handler: the core enters its handler (R119). -/
theorem zFinish_exc {op : ZOp} {s0 t : State} {c : Core} (hb : c.blocked = none) (hst : c.stepping = false) (hex : c.ex = false) (code : Nat) (info : Word) :
    zFinish r g op s0 (.exc code info t c) = (t.setCore r { c with epc := wd c.pc, code := code, async := false, more := c.pendMore, info := info,
                                                                   ex := true, pc := 16 * code }).setCoreState r 1 := by
  have hun : c.unblock t.mt = c := by unfold Core.unblock; rw [hb]
  unfold zFinish zException
  dsimp only
  rw [hun, hex, afterState, hst]
  rfl

/-- A blocked instruction: the core keeps its record and notes what it waits for (R110). -/
theorem zFinish_block {op : ZOp} {s0 t : State} {c : Core} (hb : c.blocked = none) (st mask : Nat) (await : Option Nat) :
    zFinish r g op s0 (.block st mask await t c) = (t.setCore r { c with blocked := some ⟨g, op, s0.mt, mask, await⟩ }).setCoreState r st := by
  unfold zFinish
  dsimp only
  rw [hb]
  rfl

end

/-! ### Register fields -/

@[simp] theorem Core.setReg_blocked (c : Core) (i : BitVec 5) (v : Word) : (c.setReg i v).blocked = c.blocked := by
  unfold Core.setReg
  split <;> rfl

@[simp] theorem Core.setReg_stepping (c : Core) (i : BitVec 5) (v : Word) : (c.setReg i v).stepping = c.stepping := by
  unfold Core.setReg
  split <;> rfl

@[simp] theorem Core.setPort_reg (c : Core) (p : Nat) (x : Port) (i : BitVec 5) : (c.setPort p x).reg i = c.reg i := rfl

@[simp] theorem Core.setReg_port (c : Core) (i : BitVec 5) (v : Word) (p : Nat) : (c.setReg i v).port p = c.port p := by
  unfold Core.setReg
  split <;> rfl

theorem registerZeroReadsZero : Rules.RegisterZeroReadsZero := by
  intro c i j v
  by_cases hj : j = 0
  · rw [if_pos hj]
    exact if_pos hj
  · by_cases hi : i = 0
    · rw [if_neg hj, if_neg (fun e => hj (e.symm.trans hi)), Core.setReg, if_pos hi]
    · rw [if_neg hj, Core.setReg, if_neg hi, Core.reg, Core.reg, if_neg hj, if_neg hj, Vector.getElem_set]
      exact if_congr BitVec.toNat_inj rfl rfl

/-! ### The forms of an ALU row (R109, R110) -/

theorem ZOp.legal_alu {fn rd ra rb : BitVec 5} {m : BitVec 2} (hfn : fn.toNat < 0x1C) (hd : m.getLsbD 1 = true → portField rd = true)
    (ha : m.getLsbD 0 = true → portField ra = true) (hb : binaryFn fn = true ∨ rb = 0) : (ZOp.alu fn rd ra rb m).legal = true := by
  have himp : ∀ {x y : Bool}, (x = true → y = true) → (!x || y) = true := fun {x y} h => by cases x <;> simp_all
  have hrb : (!((0xE ≤ fn.toNat && fn.toNat ≤ 0x11) || fn.toNat == 0x19) || rb == 0) = true := by
    rcases hb with h | h
    · rw [((Bool.and_eq_true _ _).mp h).2, Bool.true_or]
    · rw [h]; exact Bool.or_true _
  unfold ZOp.legal
  dsimp only
  rw [decide_eq_true hfn, himp hd, himp ha, hrb]
  rfl

theorem binaryFn_lt {fn : BitVec 5} (h : binaryFn fn = true) : fn.toNat < 0x1C := of_decide_eq_true ((Bool.and_eq_true _ _).mp h).1

theorem portField_lt {f : BitVec 5} (h : portField f = true) : f.toNat < 8 := of_decide_eq_true ((Bool.and_eq_true _ _).mp h).1

theorem portField_mod {f : BitVec 5} (h : portField f = true) : f.toNat % 8 = f.toNat :=
  Nat.mod_eq_of_lt (portField_lt h)

section

variable {r : Nat} {fn d a b : BitVec 5} {s : State} {c : Core}

theorem zAlu_registers : zAlu r fn d a b 0#2 s c = .retire s (c.setReg d (aluFn fn.toNat (c.reg a) (c.reg b))) (c.pc + 4) := rfl

/-- An empty port blocks the receive. -/
theorem zAlu_empty (ha : portField a = true) (hbuf : (c.port a.toNat).buf = []) : zAlu r fn d a b 1#2 s c = .block 2 (2 ^ a.toNat) none s c := by
  simp [zAlu, portField_mod ha, hbuf]

/-- The core once the receive has taken the oldest token of the port. -/
def Core.received (c : Core) (p : Nat) (q : Token) (rest : List Token) : Core := c.setPort p { c.port p with buf := rest, rx := some q }

theorem zAlu_receive {q : Token} {rest : List Token} (ha : portField a = true) (hbuf : (c.port a.toNat).buf = q :: rest) (he : q.err = false) :
    zAlu r fn d a b 1#2 s c = .retire s ((c.received a.toNat q rest).setReg d (aluFn fn.toNat q.payload (c.reg b))) (c.pc + 4) := by
  simp [zAlu, portField_mod ha, hbuf, he, Core.received]

theorem zAlu_poisoned {q : Token} {rest : List Token} (ha : portField a = true) (hbuf : (c.port a.toNat).buf = q :: rest) (he : q.err = true) :
    zAlu r fn d a b 1#2 s c = .exc 5 q.payload s (c.received a.toNat q rest) := by
  simp [zAlu, portField_mod ha, hbuf, he, Core.received]

theorem zAlu_send (hd : portField d = true) (hcred : s.credits (c.port d.toNat) (c.port d.toNat).dest.toNat ≠ 0) :
    zAlu r fn d a b 2#2 s c = .retire (zSend r d.toNat (aluFn fn.toNat (c.reg a) (c.reg b)) false s c).1
      (zSend r d.toNat (aluFn fn.toNat (c.reg a) (c.reg b)) false s c).2 (c.pc + 4) := by
  simp [zAlu, portField_mod hd, hcred]

end

/-- A port that sends moves its seq on (R112). -/
theorem zSend_port_seq {r p : Nat} (hp : p < 8) (v : Word) (last : Bool) (s : State) (c : Core) :
    ((zSend r p v last s c).2.port p).seq = (c.port p).seq + 1 := congrArg Port.seq (c.port_setPort_same hp _)

theorem aluResults : Rules.AluResults := by
  have hoff : ∀ (k : Nat) (f : BitVec 5), (0#2).getLsbD k = true → portField f = true := fun k f h => by simp at h
  refine ⟨fun i r g d a b f s hi h => ?_, fun i r g d a P s hi h => ?_⟩
  · obtain ⟨fn, hfn, rfl, hrun⟩ := exec_aluRow hi
    have hl := ZOp.legal_alu (rb := b) (binaryFn_lt hfn) (hoff 1 d) (hoff 0 a) (.inl hfn)
    exact ⟨_, hrun s, zExec_retiresAlone h hl nofun (zAlu_registers (r := r)) (by simp) (by simp)⟩
  · obtain ⟨fn, hfn, hP, hrun⟩ := exec_unaryRow hi
    have hl := ZOp.legal_alu hfn (hoff 1 d) (hoff 0 a) (.inr rfl)
    exact ⟨_, hrun s, _, hP _ _, zExec_retiresAlone h hl nofun (zAlu_registers (r := r)) (by simp) (by simp)⟩

theorem aluPortForms : Rules.AluPortForms := by
  intro i r g d a b m f s hi h
  obtain ⟨fn, hfn, rfl, hrun⟩ := exec_aluRow hi
  have hlt := binaryFn_lt hfn
  obtain ⟨hs, hst, hb, _, hstep, _⟩ := id h
  refine ⟨?_, ?_, ?_, ?_⟩
  · rintro rfl ha hbuf
    have hl := ZOp.legal_alu (rd := d) (rb := b) hlt (m := 1#2) (fun h => absurd h (by decide)) (fun _ => ha) (.inl hfn)
    have hblock := (zExec_ready h hl nofun).trans (congrArg _ (zAlu_empty ha hbuf))
    rw [zFinish_block hb] at hblock
    refine ⟨_, (hrun s).trans (congrArg _ hblock), ?_, ?_⟩
    · exact State.f_setF_same ((State.setCore_kept (Kept.refl s)).canon hs) CORE.STAT.STATE r 2 (by decide)
    · rw [core_setCore_setCoreState hs, if_pos rfl]
      exact ⟨rfl, rfl, rfl, rfl, rfl⟩
  · rintro q rest rfl ha hbuf he
    have hl := ZOp.legal_alu (rd := d) (rb := b) hlt (m := 1#2) (fun h => absurd h (by decide)) (fun _ => ha) (.inl hfn)
    exact ⟨_, hrun s, zExec_retiresAlone h hl nofun (zAlu_receive ha hbuf he) (Core.setReg_blocked ..) (Core.setReg_stepping ..)⟩
  · rintro q rest rfl ha hbuf he hex
    have hl := ZOp.legal_alu (rd := d) (rb := b) hlt (m := 1#2) (fun h => absurd h (by decide)) (fun _ => ha) (.inl hfn)
    have hexc := (zExec_ready h hl nofun).trans (congrArg _ (zAlu_poisoned ha hbuf he))
    rw [zFinish_exc (by exact hb) (by exact hstep) (by exact hex)] at hexc
    refine ⟨_, (hrun s).trans (congrArg _ hexc), ?_⟩
    beta_reduce
    rw [core_setCore_setCoreState hs, if_pos rfl]
    exact ⟨rfl, rfl, rfl, rfl, congrArg Port.buf (Core.port_setPort_same _ (portField_lt ha) _), rfl⟩
  · rintro rfl hd hcred
    have hl := ZOp.legal_alu (ra := a) (rb := b) hlt (m := 2#2) (fun _ => hd) (fun h => absurd h (by decide)) (.inl hfn)
    have hsent := (zExec_ready h hl nofun).trans (congrArg _ (zAlu_send hd hcred))
    rw [zFinish_retire (by exact hb) (by exact hstep)] at hsent
    have hseq := zSend_port_seq (r := r) (portField_lt hd) (aluFn fn.toNat ((s.core r).reg a) ((s.core r).reg b)) false s (s.core r)
    refine ⟨_, (hrun s).trans (congrArg _ hsent), ?_⟩
    beta_reduce
    rw [core_setCore_setCoreState (by exact hs), if_pos rfl]
    exact ⟨_, rfl, rfl, Nat.mod_eq_of_lt (by have := portField_lt hd; unfold portEp; omega), rfl, rfl, rfl, rfl, rfl, hseq, rfl, rfl⟩

/-! ### The immediate rows (R109) -/

/-- An immediate row in its range is an attempt that writes its result and moves on. -/
theorem exec_immRow {i : Instr} {r : Fin 18} {g : BitVec 4} {d : BitVec 5} {f : Core → Option Word} {c : Core} {v : Word}
    (h : immRow i = some (r, g, d, f)) (hv : f c = some v) :
    ∃ op : ZOp, op.legal = true ∧ op ≠ .sys 2 0 0 0 ∧ (∀ s, exec i s = .next (zExec r g op s)) ∧
      ∀ s, zAttempt r op s c = .retire s (c.setReg d v) (c.pc + 4) := by
  cases i with
  | zAddi => cases h; cases hv; exact ⟨.imm 1 _ _ _, rfl, nofun, fun _ => rfl, fun _ => rfl⟩
  | zAndi => cases h; cases hv; exact ⟨.imm 2 _ _ _, rfl, nofun, fun _ => rfl, fun _ => rfl⟩
  | zOri => cases h; cases hv; exact ⟨.imm 3 _ _ _, rfl, nofun, fun _ => rfl, fun _ => rfl⟩
  | zXori => cases h; cases hv; exact ⟨.imm 4 _ _ _, rfl, nofun, fun _ => rfl, fun _ => rfl⟩
  | zShli r g d a i =>
    cases h
    obtain ⟨hi, hv⟩ := Option.ite_none_right_eq_some.1 hv
    cases hv
    refine ⟨.imm 5 d a i, decide_eq_true hi, nofun, fun _ => rfl, fun s => ?_⟩
    rw [← Nat.mod_eq_of_lt hi]
    rfl
  | zShri r g d a i =>
    cases h
    obtain ⟨hi, hv⟩ := Option.ite_none_right_eq_some.1 hv
    cases hv
    refine ⟨.imm 6 d a i, decide_eq_true hi, nofun, fun _ => rfl, fun s => ?_⟩
    rw [← Nat.mod_eq_of_lt hi]
    rfl
  | zSari r g d a i =>
    cases h
    obtain ⟨hi, hv⟩ := Option.ite_none_right_eq_some.1 hv
    cases hv
    refine ⟨.imm 7 d a i, decide_eq_true hi, nofun, fun _ => rfl, fun s => ?_⟩
    rw [← Nat.mod_eq_of_lt hi]
    rfl
  | zMuli => cases h; cases hv; exact ⟨.imm 8 _ _ _, rfl, nofun, fun _ => rfl, fun _ => rfl⟩
  | zLi => cases h; cases hv; exact ⟨.long 9 _ _, rfl, nofun, fun _ => rfl, fun _ => rfl⟩
  | zLso r g d i =>
    cases h
    obtain ⟨hi, hv⟩ := Option.ite_none_right_eq_some.1 hv
    cases hv
    refine ⟨.long 10 d i, decide_eq_true hi, nofun, fun _ => rfl, fun s => ?_⟩
    have hword : i.zeroExtend 64 = wd (i.toNat % 2 ^ 16) := by
      rw [Nat.mod_eq_of_lt hi]
      exact BitVec.eq_of_toNat_eq (by simp [wd])
    rw [hword]
    rfl
  | _ => cases h

theorem immediateResults : Rules.ImmediateResults := by
  intro i r g d f v s hi h hv
  obtain ⟨op, hl, hop, hrun, hatt⟩ := exec_immRow hi hv
  exact ⟨_, hrun s, zExec_retiresAlone h hl hop (hatt s) (by simp) (by simp)⟩

/-- Settles O23: a row is an attempt at its function, which retires alone, blocks on its port or raises a cause. -/
theorem arithmeticResults : Obligations.ArithmeticResults := ⟨registerZeroReadsZero, aluResults, aluPortForms, immediateResults⟩

end Sys2Proof.Machine
end

section
namespace Sys2Proof.Machine

open Sys2Proof

/-! ### The value of a load (R108) -/

theorem leNat_lt : ∀ l : List Byte, leNat l < 2 ^ (8 * l.length)
  | [] => Nat.one_pos
  | b :: l => by
    have hb := b.isLt
    have ih := leNat_lt l
    rw [List.length_cons, show 8 * (l.length + 1) = 8 + 8 * l.length by omega, Nat.pow_add]
    show b.toNat + 256 * leNat l < 256 * 2 ^ (8 * l.length)
    omega

theorem State.bytes_length (s : State) : ∀ n a : Nat, (s.bytes a n).length = n
  | 0, _ => rfl
  | n + 1, a => congrArg (· + 1) (s.bytes_length n (a + 1))

theorem State.leNat_bytes_lt (s : State) (a n : Nat) : leNat (s.bytes a n) < 2 ^ (8 * n) := by
  have h := leNat_lt (s.bytes a n)
  rwa [s.bytes_length] at h

/-- The word a load of `n` bytes makes of their number. -/
def loadValue (sg : Bool) (n v : Nat) : Word := if sg then wdi (sx (8 * n) v) else wd v

/-- A loaded word has the loaded bytes as its low ones. -/
theorem loadValue_low (sg : Bool) {n v : Nat} (hn : n ≤ 8) (hv : v < 2 ^ (8 * n)) : (loadValue sg n v).toNat % 2 ^ (8 * n) = v := by
  have hpow : 2 ^ (8 * n) ∣ 2 ^ 64 := Nat.pow_dvd_pow 2 (by omega)
  cases sg with
  | false => exact (Nat.mod_mod_of_dvd v hpow).trans (Nat.mod_eq_of_lt hv)
  | true =>
    have hsx : sx (8 * n) v % ((2 ^ (8 * n) : Nat) : Int) = v := by
      unfold sx
      dsimp only
      rw [Nat.mod_eq_of_lt hv]
      split
      · exact Int.emod_eq_of_lt (by omega) (by exact_mod_cast hv)
      · push_cast
        rw [Int.sub_emod_right]
        exact Int.emod_eq_of_lt (by omega) (by exact_mod_cast hv)
    show (BitVec.ofInt 64 (sx (8 * n) v)).toNat % 2 ^ (8 * n) = v
    have hdvd : ((2 ^ (8 * n) : Nat) : Int) ∣ ((2 ^ 64 : Nat) : Int) := Int.natCast_dvd_natCast.2 hpow
    apply Int.ofNat.inj
    show ((((BitVec.ofInt 64 (sx (8 * n) v)).toNat % 2 ^ (8 * n) : Nat)) : Int) = v
    rw [BitVec.toNat_ofInt, Int.natCast_mod, Int.toNat_of_nonneg (Int.emod_nonneg _ (by decide)), Int.emod_emod_of_dvd _ hdvd, hsx]

theorem loadValue_unsigned {n v : Nat} (hv : v < 2 ^ (8 * n)) : (loadValue false n v).toNat < 2 ^ (8 * n) :=
  lt_of_le_of_lt (Nat.mod_le v _) hv

/-- A sign-extended word is a signed number of the loaded width. -/
theorem loadValue_signed {n : Nat} (hn : 0 < n) (h8 : n ≤ 8) (v : Nat) :
    -2 ^ (8 * n - 1) ≤ (loadValue true n v).toInt ∧ (loadValue true n v).toInt < 2 ^ (8 * n - 1) := by
  have hint : (loadValue true n v).toInt = (BitVec.ofNat (8 * n) v).toInt := by
    show (wdi (sx (8 * n) v)).toInt = _
    rw [sx_eq_toInt (by omega)]
    exact BitVec.toInt_signExtend_of_le (by omega)
  rw [hint]
  exact ⟨BitVec.le_toInt _, BitVec.toInt_lt⟩

/-! ### The rows of the loads and the stores (R108) -/

/-- A load row is an attempt at a load of its width and sign. -/
theorem exec_loadRow {i : Instr} {r : Fin 18} {g : BitVec 4} {d a : BitVec 5} {o : BitVec 12} {n : Nat} {sg : Bool}
    (h : loadRow i = some (r, g, d, a, o, n, sg)) :
    ∃ op : BitVec 6, accessSize op.toNat = n ∧ loadSigned op.toNat = sg ∧ (0x10 ≤ op.toNat ∧ op.toNat ≤ 0x16) ∧
      ∀ s, exec i s = .next (zExec r g (.imm op d a o) s) := by
  cases i with
  | zLb => cases h; exact ⟨0x10#6, rfl, rfl, by decide, fun _ => rfl⟩
  | zLbu => cases h; exact ⟨0x11#6, rfl, rfl, by decide, fun _ => rfl⟩
  | zLh => cases h; exact ⟨0x12#6, rfl, rfl, by decide, fun _ => rfl⟩
  | zLhu => cases h; exact ⟨0x13#6, rfl, rfl, by decide, fun _ => rfl⟩
  | zLw => cases h; exact ⟨0x14#6, rfl, rfl, by decide, fun _ => rfl⟩
  | zLwu => cases h; exact ⟨0x15#6, rfl, rfl, by decide, fun _ => rfl⟩
  | zLd => cases h; exact ⟨0x16#6, rfl, rfl, by decide, fun _ => rfl⟩
  | _ => cases h

/-- A store row is an attempt at a store of its width. -/
theorem exec_storeRow {i : Instr} {r : Fin 18} {g : BitVec 4} {d a : BitVec 5} {o : BitVec 12} {n : Nat}
    (h : storeRow i = some (r, g, d, a, o, n)) :
    ∃ op : BitVec 6, accessSize op.toNat = n ∧ (0x18 ≤ op.toNat ∧ op.toNat ≤ 0x1B) ∧ ∀ s, exec i s = .next (zExec r g (.store op d a o) s) := by
  cases i with
  | zSb => cases h; exact ⟨0x18#6, rfl, by decide, fun _ => rfl⟩
  | zSh => cases h; exact ⟨0x19#6, rfl, by decide, fun _ => rfl⟩
  | zSw => cases h; exact ⟨0x1A#6, rfl, by decide, fun _ => rfl⟩
  | zSd => cases h; exact ⟨0x1B#6, rfl, by decide, fun _ => rfl⟩
  | _ => cases h

theorem accessSize_range (op : Nat) : 0 < accessSize op ∧ accessSize op ≤ 8 := by
  unfold accessSize
  split <;> decide

section

variable {r op : Nat} {x : Word} {s : State}

theorem zLoad_misaligned (h : x.toNat % accessSize op ≠ 0) : zLoad r op x s = .inl (2, x, s) := if_pos h

theorem zLoad_outside (h : x.toNat % accessSize op = 0) (ho : 0x20000 ≤ x.toNat) : zLoad r op x s = .inl (3, x, s) :=
  (if_neg (not_not_intro h)).trans (if_pos ho)

theorem zLoad_local (h : x.toNat % accessSize op = 0) (hr : x.toNat < 0x20000) (he : s.eccAt (localAddr r x.toNat) = none) :
    zLoad r op x s = .inr (loadValue (loadSigned op) (accessSize op) (leNat (s.bytes (localAddr r x.toNat) (accessSize op))), s) := by
  have hread : s.eccRead (localAddr r x.toNat) = s := by unfold State.eccRead; rw [he]
  unfold zLoad
  dsimp only
  rw [if_neg (not_not_intro h), if_neg (Nat.not_le.2 hr), he, if_neg (by nofun), hread]
  rfl

theorem zStore_misaligned {v : Word} (h : x.toNat % accessSize op ≠ 0) : zStore r op x v s = .inl (2, x, s) := if_pos h

theorem zStore_outside {v : Word} (h : x.toNat % accessSize op = 0) (ho : x.toNat < 0x10000 ∨ 0x20000 ≤ x.toNat) :
    zStore r op x v s = .inl (3, x, s) := (if_neg (not_not_intro h)).trans (if_pos ho)

/-- A run of bytes written: only memory changes, the bytes stand there, and every other byte is as it was. -/
theorem State.setBytes_spec {t : State} (ht : t.canonical = true) (a : Nat) (l : List Byte) :
    ∃ m, t.setBytes a l = t.setMem m ∧ (t.setMem m).canonical = true ∧ (t.setMem m).bytes a l.length = l ∧
      BytesKept t (t.setMem m) (fun b => a ≤ b ∧ b < a + l.length) := by
  obtain ⟨m, hm⟩ := State.setBytes_eq l t a
  have hcan := (State.setBytes_kept (y1 := a) (y2 := l) (Kept.refl t)).canon ht
  have hbyte := State.byte_setBytes (l := l) ht a
  rw [hm] at hcan hbyte
  refine ⟨m, hm, hcan, State.bytes_written fun i hi => ?_, fun b hb => (hbyte b).trans (if_neg hb)⟩
  rw [hbyte, if_pos (by omega), Nat.add_sub_cancel_left]

/-- A store within the data half writes its bytes; the mark of its word is cleared or was none. -/
theorem zStore_local {v : Word} (h : x.toNat % accessSize op = 0) (hlo : 0x10000 ≤ x.toNat) (hr : x.toNat < 0x20000)
    (he : s.eccAt (localAddr r x.toNat) = none) (hs : s.canonical = true) :
    ∃ e, zStore r op x v s = .inr ((s.setEccs e).setBytes (localAddr r x.toNat) (leBytes (accessSize op) v.toNat)) ∧
      (s.setEccs e).canonical = true := by
  have hread : s.eccRead (localAddr r x.toNat) = s := by unfold State.eccRead; rw [he]
  unfold zStore
  dsimp only
  rw [if_neg (not_not_intro h), if_neg (by omega), he, if_neg (by nofun), hread]
  split
  · exact ⟨_, rfl, (State.setEcc_kept (y1 := localAddr r x.toNat) (y2 := none) (Kept.refl s)).canon hs⟩
  · exact ⟨s.eccs, rfl, hs⟩

/-- A synchronous cause of an attempt that touched nothing. -/
theorem zExec_enters {g : BitVec 4} {z : ZOp} {code : Nat} (h : Ready s r g) (hl : z.legal = true) (hop : z ≠ .sys 2 0 0 0)
    (hex : (s.core r).ex = false) (hrun : zAttempt r z s (s.core r) = .exc code x s (s.core r)) : Enters r code x s (zExec r g z s) := by
  obtain ⟨hs, hst, hb, _, hstep, _⟩ := id h
  rw [zExec_ready h hl hop, hrun, zFinish_exc hb hstep hex]
  refine ⟨(core_setCore_setCoreState hs _ 1 r).trans (if_pos rfl), fun q hq => (core_setCore_setCoreState hs _ 1 q).trans (if_neg hq), ?_, rfl⟩
  exact State.f_setF_same ((State.setCore_kept (Kept.refl s)).canon hs) CORE.STAT.STATE r 1 (by decide)

end

theorem loadsReadLocalMemory : Rules.LoadsReadLocalMemory := by
  intro i r g d a o n sg s hi h x
  obtain ⟨op, rfl, rfl, hop, hrun⟩ := exec_loadRow hi
  obtain ⟨hpos, h8⟩ := accessSize_range op.toNat
  have hl : (ZOp.imm op d a o).legal = true := by
    unfold ZOp.legal
    dsimp only
    rw [if_neg (by omega)]
    exact decide_eq_true (.inr hop)
  have hatt : ∀ y, zLoad r op.toNat x s = y → zAttempt r (.imm op d a o) s (s.core r) = (match y with
      | .inl (code, info, s') => .exc code info s' (s.core r)
      | .inr (v, s') => .retire s' ((s.core r).setReg d v) ((s.core r).pc + 4)) := by
    rintro y rfl
    exact if_neg (by omega)
  refine ⟨fun hal hin he => ?_, fun hmis hex => ?_, fun hal hout hex => ?_⟩
  · have hv := s.leNat_bytes_lt (localAddr r x.toNat) (accessSize op.toNat)
    refine ⟨_, hrun s, _, loadValue_low _ h8 hv, fun hsg => ?_, fun hsg => ?_,
      zExec_retiresAlone h hl nofun (hatt _ (zLoad_local hal hin he)) (by simp) (by simp)⟩
    · rw [hsg]; exact loadValue_unsigned hv
    · rw [hsg]; exact loadValue_signed hpos h8 _
  · exact ⟨_, hrun s, zExec_enters h hl nofun hex (hatt _ (zLoad_misaligned hmis))⟩
  · exact ⟨_, hrun s, zExec_enters h hl nofun hex (hatt _ (zLoad_outside hal hout))⟩

theorem storesWriteLocalMemory : Rules.StoresWriteLocalMemory := by
  intro i r g d a o n s hi h x
  obtain ⟨op, rfl, hop, hrun⟩ := exec_storeRow hi
  have hl : (ZOp.store op d a o).legal = true := decide_eq_true hop
  have hatt : ∀ y, zStore r op.toNat x ((s.core r).reg d) s = y → zAttempt r (.store op d a o) s (s.core r) = (match y with
      | .inl (code, info, s') => .exc code info s' (s.core r)
      | .inr s' => .retire s' (s.core r) ((s.core r).pc + 4)) := by
    rintro y rfl
    rfl
  refine ⟨fun hal hlo hin he => ?_, fun hmis hex => ?_, fun hal hout hex => ?_⟩
  · obtain ⟨hs, hst, hb, _, hstep, _⟩ := id h
    obtain ⟨e, hstore, hcan⟩ := zStore_local (v := (s.core r).reg d) hal hlo hin he hs
    obtain ⟨m, hm, hcan, hbytes, hbyte⟩ := State.setBytes_spec hcan (localAddr r x.toNat) (leBytes (accessSize op.toNat) ((s.core r).reg d).toNat)
    rw [leBytes_length] at hbytes hbyte
    have hdone := (zExec_ready h hl nofun).trans (congrArg _ (hatt _ hstore))
    rw [hm, zFinish_retire hb hstep] at hdone
    obtain ⟨hcore, hword⟩ := setCore_running (r := r) hcan hst { s.core r with pc := (s.core r).pc + 4, icount := (s.core r).icount + 1 }
    refine ⟨_, (hrun s).trans (congrArg _ hdone), ?_, hbyte, ⟨(hcore r).trans (if_pos rfl), fun q hq => (hcore q).trans (if_neg hq), hword⟩, rfl⟩
    rw [← hbytes]
    exact State.bytes_congr fun _ _ => rfl
  · exact ⟨_, hrun s, zExec_enters h hl nofun hex (hatt _ (zStore_misaligned hmis))⟩
  · exact ⟨_, hrun s, zExec_enters h hl nofun hex (hatt _ (zStore_outside hal hout))⟩

/-- Settles O24: a row is an attempt at a load or store of its width, which reads or writes local memory or raises a cause. -/
theorem loadsAndStoresUseLocalMemory : Obligations.LoadsAndStoresUseLocalMemory := ⟨loadsReadLocalMemory, storesWriteLocalMemory⟩

end Sys2Proof.Machine
end

section
namespace Sys2Proof.Machine

open Sys2Proof

/-! ### A path generator that turns a barrier away (R152) -/

theorem refusedBit_addr_inj {m n : Nat} : PG.JOB.REFUSED.addr m = PG.JOB.REFUSED.addr n ↔ m = n := by
  simp only [Fld.addr, PG.JOB.REFUSED]
  omega

/-- REFUSED of one path generator is set, and no other's. -/
theorem State.f_refused_pgRefused {s : State} (hs : s.canonical = true) (m n : Nat) :
    (s.pgRefused n).f PG.JOB.REFUSED m = if m = n then 1 else s.f PG.JOB.REFUSED m := by
  show (s.setF PG.JOB.REFUSED n 1).f PG.JOB.REFUSED m = _
  split
  · next h => rw [h]; exact State.f_setF_same hs PG.JOB.REFUSED n 1 (by decide)
  · next h => exact State.f_setF_word hs _ _ _ _ _ (fun e => h (refusedBit_addr_inj.1 e))

theorem State.pgState_pgRefused {s : State} (hs : s.canonical = true) (m n : Nat) : (s.pgRefused n).pgState m = s.pgState m :=
  State.f_setF_bits hs PG.JOB.REFUSED PG.JOB.STATE n m 1 (by decide) (by decide)

/-- A barrier every path generator of a list turns away: each has REFUSED set, and no barrier and no token moves. -/
theorem forEach_pgRefused (l : List Nat) : ∀ {s : State} (_ : s.canonical = true),
    let t := forEach l (fun n s => s.pgRefused n) s
    t.fanout = s.fanout ∧ t.passed = s.passed ∧ t.net = s.net ∧ ∀ m, m ∈ l ∨ s.f PG.JOB.REFUSED m = 1 → t.f PG.JOB.REFUSED m = 1 := by
  induction l with
  | nil => exact fun _ => ⟨rfl, rfl, rfl, fun m h => h.resolve_left List.not_mem_nil⟩
  | cons n l ih =>
    intro s hs
    obtain ⟨hf, hp, hn, hset⟩ := ih ((State.pgRefused_kept (y1 := n) (Kept.refl s)).canon hs)
    refine ⟨hf, hp, hn, fun m hm => hset m ?_⟩
    rw [State.f_refused_pgRefused hs]
    rcases hm with hm | hm
    · rcases List.mem_cons.1 hm with rfl | hm
      · exact .inr (if_pos rfl)
      · exact .inl hm
    · exact .inr (by rw [hm, ite_self])

/-! ### The fan-out (R28, R103) -/

/-- The fan-out is open to every source (R100, R101). -/
theorem srcAllowed_fanout (src : BitVec 10) : srcAllowed fanEp src = true := Bool.or_true _

theorem barrierFanout_open {q : Token} (hd : q.dest = 0xE#10) (hk : q.kind = 8#4) (he : q.err = false) (s : State) :
    barrierFanout q s = if q.timed then (s.deliver fanEp q).setFanout (s.fanout ++ [q]) else (s.deliver fanEp q).refuse fanEp q 4 := by
  have hfan : (s.deliver fanEp q).fanout = s.fanout := by simp
  unfold barrierFanout
  rw [if_neg (not_not_intro hd), State.arrive_open (srcAllowed_fanout q.src), ← hfan, hk, he]
  cases q.timed <;> rfl

theorem mem_activePgs {s : State} {n : Nat} : n ∈ s.activePgs ↔ n < 26 ∧ s.pgActive n = true := by
  unfold State.activePgs
  rw [List.mem_filter, List.mem_range]

theorem barrierJudge_next {s : State} {q : Token} (h : s.nextBarrier = some q) :
    barrierJudge s =
      (let u := (s.reach (s.judgeAt q)).setFanout (s.fanout.erase q)
       if s.barrierBlocked then forEach s.activePgs (fun n s => s.pgRefused n) u
       else (u.setNet (u.net ++ s.activePgs.map (fun n => { q with dest := BitVec.ofNat 10 (pgEp n) }))).setPassed (u.passed ++ [q])) := by
  unfold barrierJudge
  rw [h]
  rfl

/-! ### A barrier at one path generator (R152) -/

/-- What judges a barrier is not touched by the token's delivery nor by the time that passes. -/
theorem barrierBlocked_arrived {s : State} (hs : s.canonical = true) (ep : Nat) (q : Token) (x : Nat) :
    ((s.deliver ep q).reach x).barrierBlocked = s.barrierBlocked := by
  have hb : (s.deliver ep q).basin = s.basin := by simp
  have hw : ∀ f : Fld, blockOf f.base ≠ 7 → (s.deliver ep q).word f.base = s.word f.base := fun f hf => State.word_deliver hs ep q hf
  show (s.deliver ep q).barrierBlocked = _
  unfold State.barrierBlocked State.unacked State.on
  rw [hb, hw BASIN.STATUS.V (by decide), hw BASIN.INJD.V (by decide), hw BASIN.REAL.V (by decide), State.f_deliver hs ep q BASIN.CFG.INJREACT 0 (by decide)]

theorem layerExpected_arrived {s : State} (hs : s.canonical = true) (ep : Nat) (q : Token) (x : Nat) {n : Nat} (hn : n < 26) (layer : Nat) :
    ((s.deliver ep q).reach x).layerExpected n layer = s.layerExpected n layer := by
  have hf : ∀ f : Fld, 0x100900000 ≤ f.base ∧ f.base < 0x100902000 ∧ f.stride = 0x200 → (s.deliver ep q).f f n = s.f f n := fun f hb =>
    State.f_deliver hs ep q f n (by unfold blockOf Fld.addr; rw [hb.2.2]; omega)
  have hstate : (s.deliver ep q).pgState n = s.pgState n := hf PG.JOB.STATE (by decide)
  have hdescr : ∀ k, (s.deliver ep q).descr n k = s.descr n k := by
    intro k
    have hbase : (s.deliver ep q).descrAddr n k = s.descrAddr n k := by
      unfold State.descrAddr
      rw [hf PG.WRING.BASE (by decide)]
    unfold State.descr
    rw [hbase]
    obtain ⟨c, hc⟩ := State.deliver_eq s ep q
    rw [hc]
    rfl
  show (s.deliver ep q).layerExpected n layer = _
  unfold State.layerExpected
  dsimp only
  rw [hstate, hf PG.WPOS.RIDX (by decide), hf PG.JOB.LAYER (by decide), hdescr]

/-- A timed barrier sent to one path generator is judged there, at its time. -/
theorem barrier_direct {n : Nat} {q : Token} {s : State} (hd : q.dest = BitVec.ofNat 10 (0x40 + n)) (hk : q.kind = 8#4) (he : q.err = false) (ht : q.timed = true)
    (hnew : ∀ u ∈ s.passed, sameBarrier u q = false) (hsrc : srcAllowed (0x40 + n) q.src = true) :
    barrier n q s = (let u := (s.deliver (pgEp n) q).reach (s.instant q)
      if u.barrierBlocked then u.pgRefused n else pgBarrier n (bits q.payload 31 0) u) := by
  have hpassed : (s.deliver (pgEp n) q).passed = s.passed := by simp
  have hmt : (s.deliver (pgEp n) q).instant q = s.instant q := by unfold State.instant; simp
  have hany : s.passed.any (fun u => sameBarrier u q) = false := List.any_eq_false.2 fun u hu => by simp [hnew u hu]
  have hone : s.deliverAll (pgEp n) [q] = s.deliver (pgEp n) q := rfl
  unfold barrier
  dsimp only
  rw [if_neg (by rw [hd, hk]; simp [pgEp]), State.arrive_open (show srcAllowed (pgEp n) q.src = true from hsrc), hone, hmt, he, ht,
    if_neg (by decide), if_neg (by decide), if_neg]
  show ¬ (s.deliver (pgEp n) q).passed.any _ = true
  rw [hpassed, hany]
  decide

theorem Spares.lockStop {a : Nat} {s t : State} (h : Spares a s t) (ha : ∀ k, a ≠ AUX.STAT.LOCKSTOP.addr k) : Spares a s t.lockStop := by
  unfold State.lockStop
  refine .foldl h fun u k hu => .ite ?_ hu
  have hstop : Spares a s (u.auxStopAt (2 ^ k) 6) := hu.quiet (State.auxStopAt_kept (Kept.refl u)) rfl
  exact (hstop.setF (ha k)).quiet (State.auxRaise_kept (Kept.refl _)) rfl

/-- An accepted barrier takes the path generator to RUN with the barrier's layer (R152). -/
theorem pgBarrier_accepted {n layer : Nat} {s : State} (hs : s.canonical = true) (hst : s.pgState n = pgARMED ∨ s.pgState n = pgENDED)
    (hl : s.layerExpected n layer = true) (hlt : layer < 2 ^ 32) :
    (pgBarrier n layer s).pgState n = pgRUN ∧ (pgBarrier n layer s).f PG.JOB.LAYER n = layer ∧ (pgBarrier n layer s).mt = s.mt := by
  have h1 : (s.setPgState n pgRUN).canonical = true := (State.setPgState_kept (Kept.refl s)).canon hs
  have h2 : ((s.setPgState n pgRUN).setF PG.JOB.LAYER n layer).canonical = true := (State.setF_kept (Kept.refl _)).canon h1
  have hword : ∀ p, Spares (PG.JOB.STATE.addr n) ((s.setPgState n pgRUN).setF PG.JOB.LAYER n layer)
      (((s.setPgState n pgRUN).setF PG.JOB.LAYER n layer).setPg n p).lockStop :=
    fun p => .lockStop (.quiet (Spares.refl _ _) (State.setPg_kept (Kept.refl _)) rfl) fun k => by simp only [Fld.addr, PG.JOB.STATE, AUX.STAT.LOCKSTOP]; omega
  have hrun : ∃ p, pgBarrier n layer s = (((s.setPgState n pgRUN).setF PG.JOB.LAYER n layer).setPg n p).lockStop := ⟨_, if_pos ⟨hst, hl⟩⟩
  obtain ⟨p, hp⟩ := hrun
  rw [hp]
  obtain ⟨_, hw⟩ := hword p h2
  refine ⟨?_, ?_, (Same.lockStop (p := .mt) (Same.refl .mt _)).eq⟩
  · unfold State.pgState State.f
    rw [hw]
    exact (State.f_setF_bits h1 PG.JOB.LAYER PG.JOB.STATE n n layer (by decide) (by decide)).trans (State.f_setF_same hs PG.JOB.STATE n pgRUN (by decide))
  · show PG.JOB.LAYER.get (State.word _ (PG.JOB.STATE.addr n)) = layer
    rw [hw]
    exact (State.f_setF_same h1 PG.JOB.LAYER n layer (by decide)).trans (Nat.mod_eq_of_lt hlt)

theorem barriersAreJudged : Rules.BarriersAreJudged := by
  intro s hs
  refine ⟨fun q hd hk he => ⟨fun ht => ?_, fun ht => ?_⟩, fun q hq => ⟨fun hb => ?_, fun hb => ?_⟩, fun n q hd hk he ht hnew hsrc => ?_⟩
  · refine ⟨_, congrArg Host.Outcome.next ((barrierFanout_open hd hk he s).trans (if_pos ht)), rfl, State.deliver_net s fanEp q, by simp, ?_⟩
    exact fun a _ h7 => State.word_deliver hs fanEp q h7
  · refine ⟨_, congrArg Host.Outcome.next ((barrierFanout_open hd hk he s).trans (if_neg (by simp [ht]))), ?_, by simp⟩
    exact State.refuse_refused (by simp [neverAnswered, hk]) (State.deliver_net s fanEp q) (by simp) fanEp 4
  · exact ⟨_, congrArg Host.Outcome.next ((barrierJudge_next hq).trans (if_neg (by simp [hb]))), rfl, rfl, rfl, rfl, fun _ => rfl⟩
  · obtain ⟨hf, hp, hn, hset⟩ := forEach_pgRefused s.activePgs (s := (s.reach (s.judgeAt q)).setFanout (s.fanout.erase q)) hs
    exact ⟨_, congrArg Host.Outcome.next ((barrierJudge_next hq).trans (if_pos hb)), hf, hp, hn, fun n hn hact => hset n (.inl (mem_activePgs.2 ⟨hn, hact⟩))⟩
  · have hrun := barrier_direct hd hk he ht hnew hsrc
    have hu : ((s.deliver (pgEp n) q).reach (s.instant q)).canonical = true := (State.deliver_kept (Kept.refl s)).canon hs
    have hstate : ((s.deliver (pgEp n) q).reach (s.instant q)).pgState n = s.pgState n :=
      State.f_deliver hs (pgEp n) q PG.JOB.STATE n (by have := n.isLt; simp only [blockOf, Fld.addr, PG.JOB.STATE]; omega)
    have hlayer := layerExpected_arrived hs (pgEp n) q (s.instant q) n.isLt (bits q.payload 31 0)
    have hblocked := barrierBlocked_arrived hs (pgEp n) q (s.instant q)
    have hmt : ((s.deliver (pgEp n) q).reach (s.instant q)).mt = max s.mt (s.instant q) :=
      congrArg (max · _) (by simp : (s.deliver (pgEp n) q).mt = s.mt)
    generalize (s.deliver (pgEp n) q).reach (s.instant q) = u at hrun hu hstate hlayer hblocked hmt
    dsimp only at hrun
    rw [hblocked] at hrun
    refine ⟨fun hb hst hl => ?_, fun hb => ?_⟩
    · rw [if_neg (by simp [hb])] at hrun
      obtain ⟨h1, h2, h3⟩ := pgBarrier_accepted hu (by rwa [hstate]) (hlayer.trans hl) (Nat.mod_lt _ (by decide))
      exact ⟨_, congrArg Host.Outcome.next hrun, h1, h2, h3.trans hmt⟩
    · rw [if_pos hb] at hrun
      exact ⟨_, congrArg Host.Outcome.next hrun, (State.pgState_pgRefused hu _ _).trans hstate, (State.f_refused_pgRefused hu _ _).trans (if_pos rfl)⟩

/-! ### What the beacon's own work leaves alone (R57) -/

/-- From `a` to `s` nothing changes what waits for a beacon and whom it wakes: MT, the held messages, the passed barriers and every core's
STATE stand; no token has left the network. -/
structure KeepsWaiting (a s : State) : Prop where
  canon : s.canonical = true
  mt : s.mt = a.mt
  held : s.held = a.held
  passed : s.passed = a.passed
  net : ∀ q ∈ a.net, q ∈ s.net
  core : ∀ r, r < 18 → s.word (CORE.STAT.STATE.addr r) = a.word (CORE.STAT.STATE.addr r)

namespace KeepsWaiting

variable {a s t : State}

theorem refl (h : s.canonical = true) : KeepsWaiting s s := ⟨h, rfl, rfl, rfl, fun _ hq => hq, fun _ _ => rfl⟩

theorem ite {c : Prop} [Decidable c] (h : KeepsWaiting a s) (k : KeepsWaiting a t) : KeepsWaiting a (if c then s else t) := by
  split
  · exact h
  · exact k

theorem foldl {α : Type} {l : List α} {f : State → α → State} (h : KeepsWaiting a s) (hf : ∀ u x, KeepsWaiting a u → KeepsWaiting a (f u x)) :
    KeepsWaiting a (l.foldl f s) := by
  induction l generalizing s with
  | nil => exact h
  | cons x l ih => exact ih (hf s x h)

theorem setLoop {l : Nat} {x : Loop} (h : KeepsWaiting a s) : KeepsWaiting a (s.setLoop l x) :=
  ⟨(State.setLoop_kept (Kept.refl s)).canon h.canon, h.mt, h.held, h.passed, h.net, h.core⟩

theorem setPg {n : Nat} {x : PgSt} (h : KeepsWaiting a s) : KeepsWaiting a (s.setPg n x) :=
  ⟨(State.setPg_kept (Kept.refl s)).canon h.canon, h.mt, h.held, h.passed, h.net, h.core⟩

theorem raise {cls source unit src rtype : Nat} {d0 d1 : Word} (h : KeepsWaiting a s) : KeepsWaiting a (s.raise cls source unit src rtype d0 d1) :=
  ⟨(State.raise_kept (Kept.refl s)).canon h.canon, h.mt, h.held, h.passed, h.net, h.core⟩

theorem free (h : KeepsWaiting a s) : KeepsWaiting a s.free.2 :=
  ⟨(State.free_kept (Kept.refl s)).canon h.canon, h.mt, h.held, h.passed, h.net, h.core⟩

theorem respond {ep : Nat} {q : Token} {w : Word} (h : KeepsWaiting a s) : KeepsWaiting a (s.respond ep q w) :=
  ⟨(State.respond_kept (Kept.refl s)).canon h.canon, h.mt, h.held, h.passed, fun q hq => List.mem_append_left _ (h.net q hq), h.core⟩

theorem setWord {b : Nat} {w : Word} (h : KeepsWaiting a s) (hb : ∀ r, r < 18 → CORE.STAT.STATE.addr r ≠ b) : KeepsWaiting a (s.setWord b w) :=
  ⟨State.canonical_setWord _ _ h.canon, h.mt, h.held, h.passed, h.net,
    fun r hr => by rw [State.word_setWord h.canon, if_neg (hb r hr)]; exact h.core r hr⟩

/-- Every word from 0x100802000 on lies past the STATE words. -/
theorem setF {f : Fld} {i v : Nat} (h : KeepsWaiting a s) (hf : 0x100802000 ≤ f.base) : KeepsWaiting a (s.setF f i v) :=
  h.setWord fun r hr => by simp only [Fld.addr, CORE.STAT.STATE]; omega

theorem event {e n : Nat} {q : Option Token} (h : KeepsWaiting a s) : KeepsWaiting a (s.event e q n) := by
  have hcan := (State.event_kept (y1 := e) (y2 := q) (y3 := n) (Kept.refl s)).canon h.canon
  have hword : ∀ r, r < 18 → (s.event e q n).word (CORE.STAT.STATE.addr r) = s.word (CORE.STAT.STATE.addr r) := fun r hr =>
    State.word_event h.canon e q n (by simp only [blockOf, Fld.addr, CORE.STAT.STATE]; omega)
  obtain ⟨c, hc⟩ := State.event_eq s e q n
  rw [hc] at hcan hword ⊢
  exact ⟨hcan, h.mt, h.held, h.passed, h.net, fun r hr => (hword r hr).trans (h.core r hr)⟩

/-! #### The pending sets of disabled loops (R235) -/

theorem loadUpdate (h : KeepsWaiting a s) : KeepsWaiting a s.loadUpdate := by
  have hload : ∀ l b o, KeepsWaiting a (((s.setF SERVO.LOAD.V 0 l).setF SERVO.LOAD.BUDGET 0 b).setF SERVO.STAT.OVERLOAD 0 o) := fun _ _ _ =>
    ((h.setF (by decide)).setF (by decide)).setF (by decide)
  exact .ite (hload _ _ _).raise (hload _ _ _)

theorem applySet {l : Nat} (h : KeepsWaiting a s) : KeepsWaiting a (s.applySet l) := by
  unfold State.applySet
  dsimp only
  split
  · exact h
  · exact (((h.setLoop.setF (by decide)).setF (by decide)).loadUpdate).raise

theorem applyTable {l : Nat} (h : KeepsWaiting a s) : KeepsWaiting a (s.applyTable l) :=
  (((h.setF (by decide)).setF (by decide)).setWord fun r hr => by simp only [Fld.addr, CORE.STAT.STATE, SERVON.FFTN.OK]; omega).setLoop

theorem applyPending {l x : Nat} (h : KeepsWaiting a s) : KeepsWaiting a (s.applyPending l x) := by
  unfold State.applyPending
  extract_lets +onlyGivenNames u
  have hu : KeepsWaiting a u := by
    unfold u
    split
    · exact .ite h.applySet h
    · exact h
  split
  · exact .ite hu.applyTable hu
  · exact hu

theorem servoSync (h : KeepsWaiting a s) : KeepsWaiting a (servoSync s) := h.foldl fun _ _ k => .ite k k.applyPending

/-! #### A read of a control word -/

theorem adapted {k : Nat} (h : KeepsWaiting a s) : KeepsWaiting a (s.adapted k) := by
  have htake : ∀ {u : State} {f : Fld}, 0x100802000 ≤ f.base → KeepsWaiting a u → KeepsWaiting a (u.free.2.setF f k u.free.1.toNat) :=
    fun hf k => k.free.setF hf
  unfold State.adapted
  extract_lets +onlyGivenNames take u
  have hu : KeepsWaiting a u := .ite h (h.free.setF (by decide))
  exact .ite hu (htake (by decide) (htake (by decide) (htake (by decide) (htake (by decide) (htake (by decide) hu)))))

theorem laneRead {b : Nat} (h : KeepsWaiting a s) : KeepsWaiting a (laneRead b s) := .ite h (.ite h.adapted h)

end KeepsWaiting

theorem regOf_coreState : ∀ r, r < 18 → regOf (CORE.STAT.STATE.addr r) = some CORE.STAT.reg := by decide

/-- No read clears a core's STATE. -/
theorem KeepsWaiting.readEffect {a s : State} {b : Nat} (h : KeepsWaiting a s) : KeepsWaiting a (s.readEffect b) := by
  unfold State.readEffect
  extract_lets +onlyGivenNames u
  have hu : KeepsWaiting a u := by
    unfold u
    split
    · next r hr =>
      split
      · next hrs =>
        refine h.setWord fun n hn e => ?_
        rw [← e, regOf_coreState n hn] at hr
        cases hr
        exact absurd hrs (by decide)
      · exact h
    · exact h
  exact .ite hu.setPg hu

/-! ### The beacon -/

/-- A read of an open word acts: it is answered (R10, R93). -/
theorem cwRead_open {q : Token} {u : State} (hu : u.canonical = true) (hf : cwrFormed q.payload = true) (ho : cwOpenTo (cwAddr q.payload) q.src = true) :
    ∃ v w, KeepsWaiting u v ∧ cwRead q u = v.respond cwEp q w := by
  refine ⟨(laneRead (cwAddr q.payload) u).readEffect (cwAddr q.payload), (laneRead (cwAddr q.payload) u).readWord (cwAddr q.payload),
    (KeepsWaiting.refl hu).laneRead.readEffect, ?_⟩
  unfold cwRead State.cwReadAt
  rw [hf, State.cwRefusal_open ho]
  rfl

theorem State.heldDue_congr {s t : State} (h : t.mt = s.mt) (m : List Token) : t.heldDue m = s.heldDue m := by
  unfold State.heldDue
  rw [h]

/-- A message of one token waits for that token's time. -/
theorem State.heldDue_one (s : State) (q : Token) : s.heldDue [q] = decide (wdiff 48 q.time.toNat s.mt ≤ 0) := by
  have hkey : heldKey [q] = some q := congrArg some (ite_self q)
  unfold State.heldDue
  rw [hkey]

theorem dropPassed_nil {s : State} (hs : s.canonical = true) (h : s.passed = []) : KeepsWaiting s s.dropPassed := by
  have hnil : s.dropPassed.passed = s.passed := by
    unfold State.dropPassed
    rw [h]
    rfl
  exact ⟨(State.dropPassed_kept (Kept.refl s)).canon hs, rfl, rfl, hnil, fun _ hq => hq, fun _ _ => rfl⟩

/-- A loop over cores none of which is to be resumed does nothing. -/
theorem forEach_skips {l : List Nat} {s : State} (h : ∀ r ∈ l, s.coreState r ≠ 3) :
    forEach l (fun r s => if s.coreState r = 3 then zResume r s else s) s = s := by
  induction l with
  | nil => rfl
  | cons r l ih =>
    have hskip : (if s.coreState r = 3 then zResume r s else s) = s := if_neg (h r List.mem_cons_self)
    exact (congrArg (forEach l _) hskip).trans (ih fun x hx => h x (List.mem_cons_of_mem _ hx))

/-- The beacon once the holders have been told of it: passed barriers and due messages act, then the pending sets of disabled
loops are applied and the waiting cores go on. -/
def releaseHeld (s : State) : State :=
  let u := s.setHeld (s.held.filter (fun m => !s.heldDue m))
  let u := forEach (u.passed.filter (fun x => x.dest == 0xE#10 && decide (u.instant x ≤ u.mt))) (fun x u => u.applyPassed x) u
  forEach (List.range 18) (fun r s => if s.coreState r = 3 then zResume r s else s) (servoSync (forEach (s.held.filter (fun m => s.heldDue m)) actHeld u.dropPassed))

theorem releaseHeld_nil {s : State} (h : s.passed = []) :
    releaseHeld s = forEach (List.range 18) (fun r s => if s.coreState r = 3 then zResume r s else s)
      (servoSync (forEach (s.held.filter (fun m => s.heldDue m)) actHeld (s.setHeld (s.held.filter (fun m => !s.heldDue m))).dropPassed)) := by
  have hnone : (s.setHeld (s.held.filter (fun m => !s.heldDue m))).passed = [] := h
  unfold releaseHeld
  dsimp only
  rw [hnone]
  rfl

/-- With no barrier passed and no core waiting for a SYNC the beacon is its messages' actions: `u` is the state in which the due ones act, and
after them only pending sets of disabled loops are applied. -/
theorem syncBeacon_acts {s : State} (hs : s.canonical = true) (hpassed : s.passed = []) (hcore : ∀ r, r < 18 → s.coreState r ≠ 3) :
    let b := s.reach ((s.mt / 256 + 1) * 256)
    ∃ u : State, u.canonical = true ∧ u.mt = (s.mt / 256 + 1) * 256 ∧ u.held = s.held.filter (fun m => !b.heldDue m) ∧
      ∀ v, v = forEach (s.held.filter (fun m => b.heldDue m)) actHeld u → KeepsWaiting u v → KeepsWaiting v (syncBeacon s) := by
  intro b
  have hbeacons : KeepsWaiting b (forEach b.holders (fun ep s => s.beacon ep) b) := (KeepsWaiting.refl (s := b) hs).foldl fun _ _ k => k.event
  have hrun : syncBeacon s = releaseHeld (forEach b.holders (fun ep s => s.beacon ep) b) := rfl
  generalize forEach b.holders (fun ep s => s.beacon ep) b = u at hbeacons hrun
  have hmt : u.mt = (s.mt / 256 + 1) * 256 := hbeacons.mt.trans (Nat.max_eq_right (by omega))
  have hdue : u.heldDue = b.heldDue := funext (State.heldDue_congr hbeacons.mt)
  have hnone : (u.setHeld (u.held.filter fun m => !u.heldDue m)).passed = [] := hbeacons.passed.trans hpassed
  have hdrop := dropPassed_nil (s := u.setHeld (u.held.filter fun m => !u.heldDue m)) ((State.setHeld_kept (Kept.refl u)).canon hbeacons.canon) hnone
  rw [releaseHeld_nil (show u.passed = [] from hnone)] at hrun
  refine ⟨_, hdrop.canon, hdrop.mt.trans hmt, hdrop.held.trans ?_, ?_⟩
  · rw [← hdue, ← show u.held = s.held from hbeacons.held]
    rfl
  · intro v hv hkept
    rw [← hdue, ← show u.held = s.held from hbeacons.held] at hv
    subst hv
    have hsync := (KeepsWaiting.refl hkept.canon).servoSync
    rw [hrun, forEach_skips]
    · exact hsync
    · intro r hr
      have hr18 : r < 18 := List.mem_range.1 hr
      have hword := (hsync.core r hr18).trans ((hkept.core r hr18).trans ((hdrop.core r hr18).trans (hbeacons.core r hr18)))
      have hstate := congrArg CORE.STAT.STATE.get hword
      exact fun e => hcore r hr18 (hstate.symm.trans e)

theorem beaconReleasesHeldMessages : Rules.BeaconReleasesHeldMessages := by
  intro q s hs hheld hpassed hcore at_
  obtain ⟨u, hu, hmt, hleft, hacts⟩ := syncBeacon_acts hs hpassed hcore
  have hb : (s.reach at_).mt = at_ := Nat.max_eq_right (by unfold at_; omega)
  have hdue : (s.reach at_).heldDue [q] = decide (wdiff 48 q.time.toNat at_ ≤ 0) := by rw [State.heldDue_one, hb]
  rw [hheld] at hleft hacts
  refine ⟨fun hwait => ?_, fun hnow hd hk hf href => ?_⟩
  · have hno : (s.reach at_).heldDue [q] = false := by rw [hdue]; exact decide_eq_false (by omega)
    have hkept := hacts u (by rw [List.filter_cons_of_neg (by rw [hno]; decide)]; rfl) (.refl hu)
    refine ⟨_, rfl, hkept.mt.trans hmt, hkept.held.trans (hleft.trans ?_)⟩
    exact List.filter_cons_of_pos (by rw [hno]; decide)
  · have hyes : (s.reach at_).heldDue [q] = true := by rw [hdue]; exact decide_eq_true hnow
    have hact : actHeld [q] u = cwRead q u := by
      unfold actHeld
      dsimp only
      rw [hd, hk]
      rfl
    obtain ⟨v, w, hv, hread⟩ := cwRead_open hu hf (State.cwOpenTo_of_reached href)
    have hresp : KeepsWaiting u (v.respond cwEp q w) := hv.respond
    have hkept := hacts (v.respond cwEp q w) (by rw [List.filter_cons_of_pos hyes]; exact (hact.trans hread).symm) hresp
    refine ⟨_, rfl, hkept.mt.trans (hresp.mt.trans hmt), hkept.held.trans (hresp.held.trans (hleft.trans ?_)), _, w,
      hkept.net _ (List.mem_append_right _ List.mem_cons_self)⟩
    exact List.filter_cons_of_neg (by rw [hyes]; decide)

/-- Settles O25: a barrier is judged on a state that differs from its own only by the token's delivery and the time; the beacon's own work keeps what
waits, so a due message acts on it as it stood. -/
theorem barriersAndBeacons : Obligations.BarriersAndBeacons := ⟨barriersAreJudged, beaconReleasesHeldMessages⟩

end Sys2Proof.Machine
end

section
namespace Sys2Proof.Machine

open Sys2Proof

/-! ### Zynzu words: the guard, the opcode and the fields of each layout (R106–R109, R112, R114) -/

/-- The opcode of a word, bits 27:22 (R107). -/
def zOpcode (w : BitVec 32) : Nat := (w.extractLsb' 22 6).toNat

/-- The word with guard `g` and opcode `o` over the fields at bits 17, 12 and 0 (R107). -/
def zWord (g : BitVec 4) (o a b c : Nat) : BitVec 32 := BitVec.ofNat 32 (g.toNat * 2 ^ 28 + o * 2 ^ 22 + a * 2 ^ 17 + b * 2 ^ 12 + c)

theorem zField_toNat (w : BitVec 32) (i n : Nat) : (w.extractLsb' i n).toNat = w.toNat / 2 ^ i % 2 ^ n := by
  rw [BitVec.extractLsb'_toNat, Nat.shiftRight_eq_div_pow]

theorem zField_eq_zero {w : BitVec 32} {i n : Nat} : w.extractLsb' i n = 0 ↔ w.toNat / 2 ^ i % 2 ^ n = 0 := by
  rw [← BitVec.toNat_inj, zField_toNat, BitVec.ofNat_eq_ofNat, BitVec.toNat_ofNat, Nat.zero_mod]

theorem zWord_toNat (g : BitVec 4) {o a b c : Nat} (ho : o < 64) (hs : a * 2 ^ 17 + b * 2 ^ 12 + c < 2 ^ 22) :
    (zWord g o a b c).toNat = (g.toNat * 2 ^ 6 + o) * 2 ^ 22 + (a * 2 ^ 17 + b * 2 ^ 12 + c) := by
  have hg : g.toNat < 16 := g.isLt
  rw [zWord, BitVec.toNat_ofNat]
  omega

theorem zGuard_zWord (g : BitVec 4) {o a b c : Nat} (ho : o < 64) (hs : a * 2 ^ 17 + b * 2 ^ 12 + c < 2 ^ 22) : zGuard (zWord g o a b c) = g := by
  have hg : g.toNat < 16 := g.isLt
  apply BitVec.eq_of_toNat_eq
  rw [zGuard, zField_toNat, zWord_toNat g ho hs]
  omega

theorem zOpcode_zWord (g : BitVec 4) {o a b c : Nat} (ho : o < 64) (hs : a * 2 ^ 17 + b * 2 ^ 12 + c < 2 ^ 22) : zOpcode (zWord g o a b c) = o := by
  rw [zOpcode, zField_toNat, zWord_toNat g ho hs]
  omega

/-- A field of bits 21:0 is read from the three fields the word was made of. -/
theorem zWord_field (g : BitVec 4) {o a b c i n : Nat} {v : BitVec n} (ho : o < 64) (hs : a * 2 ^ 17 + b * 2 ^ 12 + c < 2 ^ 22) (hi : i + n ≤ 22)
    (hv : (a * 2 ^ 17 + b * 2 ^ 12 + c) / 2 ^ i % 2 ^ n = v.toNat) : (zWord g o a b c).extractLsb' i n = v := by
  apply BitVec.eq_of_toNat_eq
  rw [zField_toNat, ← hv, zWord_toNat g ho hs]
  apply Nat.eq_of_testBit_eq
  intro k
  simp only [Nat.testBit_mod_two_pow, Nat.testBit_div_two_pow]
  by_cases hk : k < n
  · rw [Nat.mul_comm, Nat.testBit_two_pow_mul_add _ hs, if_pos (by omega)]
  · simp [hk]

/-- A word is its guard and its opcode over its 22 low bits, however these are divided. -/
theorem zWord_of_word {w : BitVec 32} {o a b c : Nat} (ho : zOpcode w = o) (hs : a * 2 ^ 17 + b * 2 ^ 12 + c = w.toNat % 2 ^ 22) :
    zWord (zGuard w) o a b c = w := by
  have hw : w.toNat < 2 ^ 32 := w.isLt
  have ho' : w.toNat / 2 ^ 22 % 2 ^ 6 = o := by rw [← ho, zOpcode, zField_toNat]
  have hg : (zGuard w).toNat = w.toNat / 2 ^ 28 % 2 ^ 4 := zField_toNat w 28 4
  have hlt : o < 64 := by omega
  have hs' : a * 2 ^ 17 + b * 2 ^ 12 + c < 2 ^ 22 := by omega
  have hz := zWord_toNat (zGuard w) hlt hs'
  apply BitVec.eq_of_toNat_eq
  omega

/-- The opcodes of an instruction with a 12-bit immediate (R108). -/
def immOpcode (o : Nat) : Prop := (1 ≤ o ∧ o ≤ 8) ∨ (0x10 ≤ o ∧ o ≤ 0x16)

/-- The opcodes of an instruction with a 17-bit immediate (R108). -/
def longOpcode (o : Nat) : Prop := o = 9 ∨ o = 0xA

/-- The opcodes of the stores (R108). -/
def storeOpcode (o : Nat) : Prop := 0x18 ≤ o ∧ o ≤ 0x1B

/-- The opcodes the tables assign (R108). -/
def assignedOpcode (o : Nat) : Prop :=
  o = 0 ∨ immOpcode o ∨ longOpcode o ∨ storeOpcode o ∨ o = 0x20 ∨ o = 0x21 ∨ o = 0x22 ∨ o = 0x28 ∨ o = 0x29 ∨ o = 0x2A ∨ o = 0x30 ∨ o = 0x31

section Decode

variable {w : BitVec 32}

theorem zDecode_alu (h : zOpcode w = 0) :
    zDecode w = .alu (w.extractLsb' 0 5) (w.extractLsb' 17 5) (w.extractLsb' 12 5) (w.extractLsb' 7 5) (w.extractLsb' 5 2) := if_pos h

theorem zDecode_imm (h : immOpcode (zOpcode w)) :
    zDecode w = .imm (w.extractLsb' 22 6) (w.extractLsb' 17 5) (w.extractLsb' 12 5) (w.extractLsb' 0 12) := by
  have h0 : ¬ zOpcode w = 0 := by unfold immOpcode at h; omega
  exact (if_neg h0).trans (if_pos h)

theorem zDecode_long (h : longOpcode (zOpcode w)) : zDecode w = .long (w.extractLsb' 22 6) (w.extractLsb' 17 5) (w.extractLsb' 0 17) := by
  have h0 : ¬ zOpcode w = 0 := by unfold longOpcode at h; omega
  have h1 : ¬ immOpcode (zOpcode w) := by unfold longOpcode at h; unfold immOpcode; omega
  exact (if_neg h0).trans ((if_neg h1).trans (if_pos h))

theorem zDecode_store (h : storeOpcode (zOpcode w)) :
    zDecode w = .store (w.extractLsb' 22 6) (w.extractLsb' 17 5) (w.extractLsb' 12 5) (w.extractLsb' 0 12) := by
  have h0 : ¬ zOpcode w = 0 := by unfold storeOpcode at h; omega
  have h1 : ¬ immOpcode (zOpcode w) := by unfold storeOpcode at h; unfold immOpcode; omega
  have h2 : ¬ longOpcode (zOpcode w) := by unfold storeOpcode at h; unfold longOpcode; omega
  exact (if_neg h0).trans ((if_neg h1).trans ((if_neg h2).trans (if_pos h)))

theorem zDecode_cmp (h : zOpcode w = 0x20) : zDecode w =
    if w.extractLsb' 0 6 = 0 then .cmp (w.extractLsb' 19 3) (w.extractLsb' 16 3) (w.extractLsb' 11 5) (w.extractLsb' 6 5) else .illegal w := by
  unfold zDecode; rw [show (w.extractLsb' 22 6).toNat = 0x20 from h]; rfl

theorem zDecode_cmpi (h : zOpcode w = 0x21) :
    zDecode w = .cmpi (w.extractLsb' 19 3) (w.extractLsb' 16 3) (w.extractLsb' 11 5) (w.extractLsb' 0 11) := by
  unfold zDecode; rw [show (w.extractLsb' 22 6).toNat = 0x21 from h]; rfl

theorem zDecode_plog (h : zOpcode w = 0x22) : zDecode w =
    if w.extractLsb' 0 11 = 0 then .plog (w.extractLsb' 19 3) (w.extractLsb' 16 3) (w.extractLsb' 13 3) (w.extractLsb' 11 2) else .illegal w := by
  unfold zDecode; rw [show (w.extractLsb' 22 6).toNat = 0x22 from h]; rfl

theorem zDecode_br (h : zOpcode w = 0x28) : zDecode w = .br (w.extractLsb' 0 22) := by
  unfold zDecode; rw [show (w.extractLsb' 22 6).toNat = 0x28 from h]; rfl

theorem zDecode_call (h : zOpcode w = 0x29) : zDecode w = .call (w.extractLsb' 0 22) := by
  unfold zDecode; rw [show (w.extractLsb' 22 6).toNat = 0x29 from h]; rfl

theorem zDecode_jalr (h : zOpcode w = 0x2A) :
    zDecode w = if w.extractLsb' 0 12 = 0 then .jalr (w.extractLsb' 17 5) (w.extractLsb' 12 5) else .illegal w := by
  unfold zDecode; rw [show (w.extractLsb' 22 6).toNat = 0x2A from h]; rfl

theorem zDecode_tok (h : zOpcode w = 0x30) :
    zDecode w = .tok (w.extractLsb' 10 4) (w.extractLsb' 17 5) (w.extractLsb' 14 3) (w.extractLsb' 0 10) := by
  unfold zDecode; rw [show (w.extractLsb' 22 6).toNat = 0x30 from h]; rfl

theorem zDecode_sys (h : zOpcode w = 0x31) : zDecode w =
    if w.extractLsb' 5 2 = 0 then .sys (w.extractLsb' 0 5) (w.extractLsb' 17 5) (w.extractLsb' 12 5) (w.extractLsb' 7 5) else .illegal w := by
  unfold zDecode; rw [show (w.extractLsb' 22 6).toNat = 0x31 from h]; rfl

theorem zDecode_unassigned (h : ¬ assignedOpcode (zOpcode w)) : zDecode w = .illegal w := by
  simp only [assignedOpcode, not_or] at h
  obtain ⟨h0, hi, hl, hs, h20, h21, h22, h28, h29, h2a, h30, h31⟩ := h
  exact (if_neg h0).trans ((if_neg hi).trans ((if_neg hl).trans ((if_neg hs).trans ((if_neg h20).trans ((if_neg h21).trans ((if_neg h22).trans
    ((if_neg h28).trans ((if_neg h29).trans ((if_neg h2a).trans ((if_neg h30).trans (if_neg h31)))))))))))

end Decode

/-- Where a field the table shows as 0 is not 0, the word spells no instruction and is kept whole (R109). -/
theorem zEncode_zeroField {w : BitVec 32} {c : Prop} [Decidable c] {op : ZOp} (h : c → zEncode (zGuard w) op = w) :
    zEncode (zGuard w) (if c then op else .illegal w) = w := by
  split
  · next hc => exact h hc
  · rfl

/-- No bit of a word is dropped: under each opcode the layout's fields, with those that must be 0, cover all its low bits. -/
theorem zEncode_zDecode (w : BitVec 32) : zEncode (zGuard w) (zDecode w) = w := by
  by_cases ha : assignedOpcode (zOpcode w)
  case neg => rw [zDecode_unassigned ha]; rfl
  rcases ha with hAlu | hImm | hLong | hStore | hCmp | hCmpi | hPlog | hBr | hCall | hJalr | hTok | hSys
  · rw [zDecode_alu hAlu]; exact zWord_of_word hAlu (by simp only [zField_toNat]; omega)
  · rw [zDecode_imm hImm]; exact zWord_of_word rfl (by simp only [zField_toNat]; omega)
  · rw [zDecode_long hLong]; exact zWord_of_word rfl (by simp only [zField_toNat]; omega)
  · rw [zDecode_store hStore]; exact zWord_of_word rfl (by simp only [zField_toNat]; omega)
  · rw [zDecode_cmp hCmp]
    exact zEncode_zeroField fun h0 => zWord_of_word hCmp (by rw [zField_eq_zero] at h0; simp only [zField_toNat]; omega)
  · rw [zDecode_cmpi hCmpi]; exact zWord_of_word hCmpi (by simp only [zField_toNat]; omega)
  · rw [zDecode_plog hPlog]
    exact zEncode_zeroField fun h0 => zWord_of_word hPlog (by rw [zField_eq_zero] at h0; simp only [zField_toNat]; omega)
  · rw [zDecode_br hBr]; exact zWord_of_word hBr (by simp only [zField_toNat]; omega)
  · rw [zDecode_call hCall]; exact zWord_of_word hCall (by simp only [zField_toNat]; omega)
  · rw [zDecode_jalr hJalr]
    exact zEncode_zeroField fun h0 => zWord_of_word hJalr (by rw [zField_eq_zero] at h0; simp only [zField_toNat]; omega)
  · rw [zDecode_tok hTok]; exact zWord_of_word hTok (by simp only [zField_toNat]; omega)
  · rw [zDecode_sys hSys]
    exact zEncode_zeroField fun h0 => zWord_of_word hSys (by rw [zField_eq_zero] at h0; simp only [zField_toNat]; omega)

/-- The low bits of the word are `low`: each field of bits 21:0 is read from it. -/
def ShowsFields (w : BitVec 32) (low : Nat) : Prop :=
  ∀ {i n : Nat} {v : BitVec n}, i + n ≤ 22 → low / 2 ^ i % 2 ^ n = v.toNat → w.extractLsb' i n = v

/-- An operation is read back from its word if it is from any word with its opcode and its fields. -/
theorem zDecode_of_fields {g : BitVec 4} {op : ZOp} {o a b c : Nat} (he : zEncode g op = zWord g o a b c) (ho : o < 64)
    (hs : a * 2 ^ 17 + b * 2 ^ 12 + c < 2 ^ 22)
    (hd : ∀ w, zOpcode w = o → ShowsFields w (a * 2 ^ 17 + b * 2 ^ 12 + c) → zDecode w = op) :
    zDecode (zEncode g op) = op ∧ zGuard (zEncode g op) = g := by
  rw [he]
  exact ⟨hd _ (zOpcode_zWord g ho hs) fun hi hv => zWord_field g ho hs hi hv, zGuard_zWord g ho hs⟩

theorem ZOp.legal_imm {o : BitVec 6} {rd ra : BitVec 5} {i : BitVec 12} (h : (ZOp.imm o rd ra i).legal = true) : immOpcode o.toNat := by
  unfold immOpcode
  simp only [ZOp.legal] at h
  split at h
  · omega
  · exact of_decide_eq_true h

theorem ZOp.legal_long {o : BitVec 6} {rd : BitVec 5} {i : BitVec 17} (h : (ZOp.long o rd i).legal = true) : longOpcode o.toNat := by
  unfold longOpcode
  simp only [ZOp.legal] at h
  split at h
  · next e => exact .inr e
  · exact .inl (beq_iff_eq.1 h)

theorem ZOp.legal_store {o : BitVec 6} {rs ra : BitVec 5} {i : BitVec 12} (h : (ZOp.store o rs ra i).legal = true) : storeOpcode o.toNat :=
  of_decide_eq_true (p := 0x18 ≤ o.toNat ∧ o.toNat ≤ 0x1B) h

/-- Every legal operation is read back: its opcode names its layout, and each of the layout's fields holds the operand put there. -/
theorem zDecode_zEncode (g : BitVec 4) {op : ZOp} (h : op.legal = true) : zDecode (zEncode g op) = op ∧ zGuard (zEncode g op) = g := by
  cases op with
  | alu fn rd ra rb m =>
    refine zDecode_of_fields rfl (by omega) (by omega) fun w ho hf => (zDecode_alu ho).trans ?_
    congr 1
    all_goals exact hf (by omega) (by omega)
  | imm o rd ra i =>
    refine zDecode_of_fields rfl (by omega) (by omega) fun w ho hf => (zDecode_imm (ho ▸ ZOp.legal_imm h)).trans ?_
    congr 1
    · exact BitVec.eq_of_toNat_eq ho
    all_goals exact hf (by omega) (by omega)
  | long o rd i =>
    refine zDecode_of_fields rfl (by omega) (by omega) fun w ho hf => (zDecode_long (ho ▸ ZOp.legal_long h)).trans ?_
    congr 1
    · exact BitVec.eq_of_toNat_eq ho
    all_goals exact hf (by omega) (by omega)
  | store o rs ra i =>
    refine zDecode_of_fields rfl (by omega) (by omega) fun w ho hf => (zDecode_store (ho ▸ ZOp.legal_store h)).trans ?_
    congr 1
    · exact BitVec.eq_of_toNat_eq ho
    all_goals exact hf (by omega) (by omega)
  | cmp pd cc ra rb =>
    refine zDecode_of_fields rfl (by omega) (by omega) fun w ho hf => (zDecode_cmp ho).trans ((if_pos (hf (by omega) (by simp; omega))).trans ?_)
    congr 1
    all_goals exact hf (by omega) (by omega)
  | cmpi pd cc ra i =>
    refine zDecode_of_fields rfl (by omega) (by omega) fun w ho hf => (zDecode_cmpi ho).trans ?_
    congr 1
    all_goals exact hf (by omega) (by omega)
  | plog pd pa pb fn =>
    refine zDecode_of_fields rfl (by omega) (by omega) fun w ho hf => (zDecode_plog ho).trans ((if_pos (hf (by omega) (by simp; omega))).trans ?_)
    congr 1
    all_goals exact hf (by omega) (by omega)
  | br off =>
    exact zDecode_of_fields rfl (by omega) (by omega) fun w ho hf => (zDecode_br ho).trans (congrArg ZOp.br (hf (by omega) (by omega)))
  | call off =>
    exact zDecode_of_fields rfl (by omega) (by omega) fun w ho hf => (zDecode_call ho).trans (congrArg ZOp.call (hf (by omega) (by omega)))
  | jalr rd ra =>
    refine zDecode_of_fields rfl (by omega) (by omega) fun w ho hf => (zDecode_jalr ho).trans ((if_pos (hf (by omega) (by simp; omega))).trans ?_)
    congr 1
    all_goals exact hf (by omega) (by omega)
  | tok fn r tp sel =>
    refine zDecode_of_fields rfl (by omega) (by omega) fun w ho hf => (zDecode_tok ho).trans ?_
    congr 1
    all_goals exact hf (by omega) (by omega)
  | sys fn rd ra rb =>
    refine zDecode_of_fields rfl (by omega) (by omega) fun w ho hf => (zDecode_sys ho).trans ((if_pos (hf (by omega) (by simp; omega))).trans ?_)
    congr 1
    all_goals exact hf (by omega) (by omega)
  | illegal w => exact absurd h Bool.false_ne_true

/-- Settles O8: a legal operation's fields stand where its opcode's layout reads them, and each layout covers all 32 bits of the word. -/
theorem zynzuWordsAndInstructionsAgree : Obligations.ZynzuWordsAndInstructionsAgree :=
  ⟨fun g _ h => zDecode_zEncode g h, zEncode_zDecode⟩

/-- Settles O9: each word is decoded by its layout. -/
theorem spelledWordsDecode : Obligations.SpelledWordsDecode := ⟨rfl, rfl, rfl, rfl, rfl, rfl, rfl, rfl, rfl, rfl, rfl⟩

end Sys2Proof.Machine
end

section
namespace Sys2Proof.Machine

open Sys2Proof

/-! ### Synchronous exceptions of a ready core, outside and inside a handler (R119, R120) -/

/-- A core that does not step is as it is once its STEP has ended. -/
theorem Core.with_stepping_false {c : Core} (h : c.stepping = false) : { c with stepping := false } = c := by rw [← h]

section

variable {r : Nat} {g : BitVec 4} {code : Nat} {info : Word} {s : State}

/-- An ERET outside a handler raises cause 0x01, as an illegal encoding does (R119). -/
theorem zExec_eret (h : Ready s r g) (hex : (s.core r).ex = false) :
    zExec r g (.sys 2 0 0 0) s = zException r 1 ((zEncode g (.sys 2 0 0 0)).zeroExtend 64) s (s.core r) := by
  obtain ⟨_, hst, hb, hdue, _, hg⟩ := h
  have hcan : s.canExec r g (.sys 2 0 0 0) = true := by
    unfold State.canExec
    dsimp only
    rw [hst, hb, hdue]
    rfl
  unfold zExec zRun
  dsimp only
  rw [if_pos hcan, hex, hg]
  rfl

/-- Outside a handler a synchronous cause enters it. -/
theorem zException_enters (h : Ready s r g) (hex : (s.core r).ex = false) : Enters r code info s (zException r code info s (s.core r)) := by
  obtain ⟨hs, _, hb, _, hstep, _⟩ := h
  have hexc : zException r code info s (s.core r) = _ := zFinish_exc (g := g) (op := .sys 2 0 0 0) (s0 := s) hb hstep hex code info
  rw [hexc]
  refine ⟨(core_setCore_setCoreState hs _ 1 r).trans (if_pos rfl), fun q hq => (core_setCore_setCoreState hs _ 1 q).trans (if_neg hq), ?_, rfl⟩
  exact State.f_setF_same ((State.setCore_kept (Kept.refl s)).canon hs) CORE.STAT.STATE r 1 (by decide)

/-- The status a double fault of role `r` raises: severe for cores 0 and 1 and warn for the others, with both causes and both addresses (R120). -/
def doubleFaultRaise (r code : Nat) (s : State) : Raise :=
  let c := s.core r
  ⟨if r < 2 then 1 else 2, 6, 8, r, portEp r 0,
    wd (place code 8 40 + place c.code 8 32 + place c.pc 16 16 + place c.epc.toNat 16 0), c.info, s.mt⟩

/-- Inside a handler a synchronous cause halts the core as it stands and raises the status of a double fault. -/
theorem zException_doubleFault (h : Ready s r g) (hex : (s.core r).ex = true) :
    zException r code info s (s.core r) =
      (((s.setCore r (s.core r)).setCoreState r 0).setF CORE.STAT.DFLT r 1).raiseRec (doubleFaultRaise r code s) := by
  obtain ⟨_, _, hb, _, hstep, _⟩ := h
  have hun : (s.core r).unblock s.mt = s.core r := by unfold Core.unblock; rw [hb]
  unfold zException
  dsimp only
  rw [hun, if_pos hex, Core.with_stepping_false hstep]
  rfl

/-- What a double fault leaves. -/
structure DoubleFaulted (r code : Nat) (s t : State) : Prop where
  canon : t.canonical = true
  halted : t.coreState r = 0
  dflt : t.f CORE.STAT.DFLT r = 1
  core : ∀ q, t.core q = s.core q
  lines : t.lines = s.lines ++ [doubleFaultRaise r code s]
  words : ∀ a, a ≠ CORE.STAT.STATE.addr r → t.word a = s.word a
  rest : t = { s with cores := t.cores, cw := t.cw, lines := t.lines }

theorem zException_doubleFaulted (h : Ready s r g) (hex : (s.core r).ex = true) : DoubleFaulted r code s (zException r code info s (s.core r)) := by
  have hs := h.1
  have hc : (s.setCore r (s.core r)).canonical = true := (State.setCore_kept (Kept.refl s)).canon hs
  have hh := State.canonical_setF CORE.STAT.STATE r 0 hc
  rw [zException_doubleFault h hex]
  refine ⟨(State.raiseRec_kept (State.setF_kept (Kept.refl _))).canon hh, ?_, ?_, fun q => ?_, rfl, fun a ha => ?_, rfl⟩
  · refine (State.f_setF_bits hh CORE.STAT.DFLT CORE.STAT.STATE r r 1 (by decide) (by decide)).trans ?_
    exact State.f_setF_same hc CORE.STAT.STATE r 0 (by decide)
  · exact State.f_setF_same hh CORE.STAT.DFLT r 1 (by decide)
  · refine (core_setCore_setCoreState hs (s.core r) 0 q).trans ?_
    split
    · next e => rw [e]
    · rfl
  · refine (State.word_setF hh CORE.STAT.DFLT r 1 a).trans ((if_neg ha).trans ?_)
    exact (State.word_setF hc CORE.STAT.STATE r 0 a).trans (if_neg ha)

/-- An attempt of a ready core that ends in a synchronous cause without touching the state or the core. -/
theorem zExec_raises {op : ZOp} (h : Ready s r g) (hl : op.legal = true) (hop : op ≠ .sys 2 0 0 0)
    (hrun : zAttempt r op s (s.core r) = .exc code info s (s.core r)) : zExec r g op s = zException r code info s (s.core r) := by
  rw [zExec_ready h hl hop, hrun]
  rfl

/-- An attempt of a ready core that blocks: STATE says on what, the core stays at the instruction, nothing is sent. -/
theorem zExec_blocks {op : ZOp} {st mask : Nat} {await : Option Nat} (h : Ready s r g) (hl : op.legal = true) (hop : op ≠ .sys 2 0 0 0) (hst : st < 16)
    (hrun : zAttempt r op s (s.core r) = .block st mask await s (s.core r)) :
    (zExec r g op s).coreState r = st ∧ ((zExec r g op s).core r).pc = (s.core r).pc ∧ (zExec r g op s).net = s.net := by
  obtain ⟨hs, _, hb, _⟩ := id h
  rw [zExec_ready h hl hop, hrun, zFinish_block hb]
  refine ⟨?_, ?_, rfl⟩
  · exact (State.f_setF_same ((State.setCore_kept (Kept.refl s)).canon hs) CORE.STAT.STATE r st (by decide)).trans (Nat.mod_eq_of_lt hst)
  · rw [core_setCore_setCoreState hs, if_pos rfl]

/-- HALT of a ready core: it moves past the instruction, counts it and halts (R126). -/
theorem zExec_halts (h : Ready s r g) :
    zExec r g (.sys 4 0 0 0) s =
      (s.setCore r { s.core r with pc := (s.core r).pc + 4, icount := (s.core r).icount + 1 }).setCoreState r 0 := by
  obtain ⟨_, _, hb, _, hstep, _⟩ := id h
  have hun : (s.core r).unblock s.mt = s.core r := by unfold Core.unblock; rw [hb]
  have hatt : zAttempt r (.sys 4 0 0 0) s (s.core r) = .halt s (s.core r) ((s.core r).pc + 4) := rfl
  rw [zExec_ready h rfl (by decide), hatt]
  unfold zFinish
  dsimp only
  rw [hun, hstep]

/-- A branch target outside the code half (R118). -/
theorem targetOk_outside {t : Int} (h : 0xFFFC < t ∨ t < 0) : targetOk t = false := decide_eq_false (by omega)

theorem zAttempt_br_outside {o : BitVec 22} {c : Core} (h : 0xFFFC < c.pc + 4 * o.toInt ∨ c.pc + 4 * o.toInt < 0) :
    zAttempt r (.br o) s c = .exc 3 (wdi (c.pc + 4 * o.toInt)) s c := if_neg (by rw [targetOk_outside h]; decide)

/-- A TSENDL with a credit sends and moves on; without one it blocks (R110, R112). -/
theorem zTok_sendl {a : BitVec 5} {p : BitVec 3} {c : Core} (h : s.credits (c.port p.toNat) (c.port p.toNat).dest.toNat ≠ 0) :
    zAttempt r (.tok 3 a p 0) s c =
      .retire (zSend r p.toNat (c.reg a) true s c).1 (zSend r p.toNat (c.reg a) true s c).2 (c.pc + 4) := if_neg h

theorem zTok_sendl_blocked {a : BitVec 5} {p : BitVec 3} {c : Core} (h : s.credits (c.port p.toNat) (c.port p.toNat).dest.toNat = 0) :
    zAttempt r (.tok 3 a p 0) s c = .block 2 (2 ^ p.toNat) none s c := if_pos h

theorem ZOp.legal_sendl {a : BitVec 5} {p : BitVec 3} (h : p ≠ 6) : (ZOp.tok 3 a p 0).legal = true := by
  have hp : p.toNat ≠ 6 := fun e => h (BitVec.eq_of_toNat_eq e)
  simp [ZOp.legal, hp]

end

/-- Settles O28: each row is one attempt of a ready core, which retires with the token sent, halts, raises its cause or blocks. -/
theorem exceptionsHaltAndBlock : Obligations.ExceptionsHaltAndBlock := by
  intro r g s h
  obtain ⟨hs, _, hb, _, hstep, _⟩ := id h
  refine ⟨fun a p hp hcred => ?_, ?_, fun hex => ?_, fun hex => ?_, fun o hex hout => ?_, fun hex => ?_, fun a p hp hcred => ?_, fun a hwait => ?_,
    fun hposted => ?_⟩
  · have hsent := (zExec_ready h (ZOp.legal_sendl hp) nofun).trans (congrArg _ (zTok_sendl (r := r) (a := a) hcred))
    rw [zFinish_retire (by exact hb) (by exact hstep)] at hsent
    have hseq := zSend_port_seq (r := r) p.isLt ((s.core r).reg a) true s (s.core r)
    refine ⟨_, congrArg Host.Outcome.next hsent, ?_⟩
    beta_reduce
    rw [core_setCore_setCoreState (by exact hs), if_pos rfl]
    exact ⟨_, rfl, rfl, rfl, rfl, rfl, rfl, rfl, Nat.mod_eq_of_lt (by unfold portEp; omega), hseq, rfl, rfl⟩
  · refine ⟨_, congrArg Host.Outcome.next (zExec_halts h), ?_, ?_, rfl, rfl⟩
    · exact State.f_setF_same ((State.setCore_kept (Kept.refl s)).canon hs) CORE.STAT.STATE r 0 (by decide)
    · rw [core_setCore_setCoreState hs, if_pos rfl]
  · exact ⟨_, rfl, zExec_enters h rfl (by decide) hex rfl⟩
  · exact ⟨_, congrArg Host.Outcome.next (zExec_eret h hex), zException_enters h hex⟩
  · exact ⟨_, rfl, zExec_enters h rfl nofun hex (zAttempt_br_outside hout)⟩
  · have hraise := zExec_raises (op := .sys 3 0 0 0) h rfl (by decide) rfl
    have hf := zException_doubleFaulted (code := 8) (info := 0) h hex
    exact ⟨_, congrArg Host.Outcome.next hraise, hf.halted, hf.dflt, hf.core r, _, hf.lines, rfl, rfl, rfl⟩
  · exact ⟨_, rfl, zExec_blocks h (ZOp.legal_sendl hp) nofun (by decide) (zTok_sendl_blocked hcred)⟩
  · have hatt : zAttempt r (.sys 7 0 a 0) s (s.core r) = .block 3 64 none s (s.core r) := if_neg (Nat.not_le.2 hwait)
    obtain ⟨hst, hpc, _⟩ := zExec_blocks h rfl (by simp) (by decide) hatt
    exact ⟨_, rfl, hst, hpc⟩
  · have hatt : zAttempt r (.sys 5 0 0 0) s (s.core r) = .block 4 64 none s (s.core r) := if_neg fun e => hposted e.1
    obtain ⟨hst, hpc, _⟩ := zExec_blocks h rfl (by decide) (by decide) hatt
    exact ⟨_, rfl, hst, hpc⟩

end Sys2Proof.Machine
end

section
namespace Sys2Proof.Machine

open Sys2Proof

/-! ### The rows that raise a synchronous cause (R118) -/

/-- Such a row is an attempt that ends in its cause and touches nothing. -/
theorem exec_syncRow {i : Instr} {r : Fin 18} {g : BitVec 4} {code : Nat} {info : Word} {s : State} (h : syncRow s i = some (r, g, code, info)) :
    ∃ op : ZOp, op.legal = true ∧ op ≠ .sys 2 0 0 0 ∧ code < 256 ∧ exec i s = .next (zExec r g op s) ∧
      zAttempt r op s (s.core r) = .exc code info s (s.core r) := by
  cases i with
  | zBrk => cases h; exact ⟨.sys 3 0 0 0, rfl, by decide, by decide, rfl, rfl⟩
  | zBr r g o =>
    obtain ⟨hout, h⟩ := Option.ite_none_right_eq_some.1 h
    cases h
    exact ⟨.br o, rfl, nofun, by decide, rfl, zAttempt_br_outside hout⟩
  | zCall r g o =>
    obtain ⟨hout, h⟩ := Option.ite_none_right_eq_some.1 h
    cases h
    exact ⟨.call o, rfl, nofun, by decide, rfl, if_neg (by rw [targetOk_outside hout]; decide)⟩
  | zJalr r g d a =>
    by_cases hmis : ((s.core r).reg a).toNat % 4 ≠ 0
    · cases (if_pos hmis).symm.trans h
      exact ⟨.jalr d a, rfl, nofun, by decide, rfl, if_pos hmis⟩
    · obtain ⟨hout, h⟩ := Option.ite_none_right_eq_some.1 ((if_neg hmis).symm.trans h)
      cases h
      exact ⟨.jalr d a, rfl, nofun, by decide, rfl, (if_neg hmis).trans (if_pos hout)⟩
  | _ => cases h

/-! ### The record of a double fault (R120) -/

/-- The record's word carries both causes and both addresses. -/
theorem doubleFaultRaise_data0 {r code : Nat} {s : State} (hcode : code < 256) (hpc : (s.core r).pc < 2 ^ 16) :
    bits (doubleFaultRaise r code s).data0 47 40 = code ∧ bits (doubleFaultRaise r code s).data0 39 32 = (s.core r).code % 256 ∧
    bits (doubleFaultRaise r code s).data0 31 16 = (s.core r).pc ∧ bits (doubleFaultRaise r code s).data0 15 0 = (s.core r).epc.toNat % 2 ^ 16 := by
  unfold doubleFaultRaise bits place wd
  dsimp only
  rw [BitVec.toNat_ofNat]
  simp only [Nat.shiftRight_eq_div_pow]
  omega

/-! ### The Basin takes a raise (R430–R432, R439) -/

section

variable {s : State}

theorem State.statusBit_congr {t : State} {f : Fld} {b : Nat} (h : t.word (f.addr (b / 64)) = s.word (f.addr (b / 64))) :
    t.statusBit f b = s.statusBit f b := congrArg (bit · (b % 64)) h

theorem State.statusBit_setStatusBit (hs : s.canonical = true) (f : Fld) (b : Nat) : (s.setStatusBit f b).statusBit f b = true := by
  have hlt : b % 64 < 64 := Nat.mod_lt _ (by decide)
  have hpow : (wd (2 ^ (b % 64))).getLsbD (b % 64) = true := by
    rw [wd, BitVec.getLsbD_ofNat, Nat.testBit_two_pow_self, decide_eq_true hlt]
    rfl
  unfold State.statusBit State.setStatusBit bit
  rw [State.word_setWord hs, if_pos rfl, BitVec.getLsbD_or, hpow, Bool.or_true]

theorem State.word_setStatusBit_other (hs : s.canonical = true) {f : Fld} {b a : Nat} (h : a ≠ f.addr (b / 64)) :
    (s.setStatusBit f b).word a = s.word a := by
  unfold State.setStatusBit
  rw [State.word_setWord hs, if_neg h]

/-- The Dale's words alone decide which records it loses. -/
theorem State.daleLoses_congr {t : State} (h : ∀ a, blockOf a = 6 → t.word a = s.word a) (cls : Nat) : t.daleLoses cls = s.daleLoses cls := by
  have hf : ∀ f : Fld, blockOf (f.addr 0) = 6 → t.f f = s.f f := fun f hb => congrArg f.get (h _ hb)
  unfold State.daleLoses State.daleFill State.on
  rw [hf DALE.PTR.WIDX (by decide), hf DALE.PTR.RIDX (by decide), hf DALE.CTRL.FREEZE (by decide), hf DALE.CFG.EN (by decide),
    hf DALE.CFG.CMASK (by decide)]

/-- A record the ring takes stands at the write index. -/
theorem State.lds_daleRecord (hs : s.canonical = true) {r : Raise} (real inj : Bool) (h : s.daleLoses r.cls = false) :
    (s.daleRecord r real inj).lds (s.f DALE.BASE.V * 32 + 32 * (s.f DALE.PTR.WIDX % 8192)) 4 =
      [wd r.mt, daleWord1 r real inj s.dale.rseq, r.data0, r.data1] := by
  have hlost : ¬ s.daleLoses r.cls = true := by rw [h]; decide
  unfold State.daleRecord
  extract_lets ws lost d0 D E d1 k F
  have hs' : (s.setDale { d0 with rseq := (d0.rseq + 1) % 65536 }).canonical = true := (State.setDale_kept (Kept.refl s)).canon hs
  have hD : D.canonical = true := (State.mirrorRecord_kept (Kept.refl _)).canon hs'
  have hf : ∀ f : Fld, blockOf (f.addr 0) = 6 → D.f f = s.f f := fun f hb =>
    congrArg f.get (State.word_mirrorRecord hs' ws (by rw [hb]; decide))
  have hmem : ∀ x y, (((F.setF DALE.PTR.WIDX 0 x).setF DALE.STAT.FULL 0 y).event 0x600).mem = F.mem := fun x y => by simp
  rw [if_neg hlost, State.lds_congr (hmem _ _), ← hf DALE.BASE.V (by decide), ← hf DALE.PTR.WIDX (by decide)]
  exact State.lds_sts (ws := ws) hD _

/-! ### What a reaction leaves alone: the words outside the Ethernet block, and memory (R389, R432, R433) -/

/-- A packet to the subscriber changes no word but a port's counter. -/
theorem State.word_toSubscriber (hs : s.canonical = true) {k : Nat} (hk : k < 4) (bytes : List Byte) {a : Nat} (ha : blockOf a ≠ 18) :
    (s.toSubscriber k bytes).word a = s.word a := by
  have hne : a ≠ ETH.CNT.TXFRM.addr k := by
    rintro rfl
    apply ha
    unfold blockOf
    simp only [ETH.CNT.TXFRM, Fld.addr]
    omega
  unfold State.toSubscriber State.sendOut
  split
  · exact (State.word_setF ((State.setHost_kept (Kept.refl s)).canon hs) _ _ _ _).trans (if_neg hne)
  · rfl

theorem State.subPorts_lt {k : Nat} (h : k ∈ s.subPorts) : k < 4 := by
  have hmem := (List.mem_filter.1 h).1
  fin_cases hmem <;> decide

theorem State.word_evtBasin (hs : s.canonical = true) {a : Nat} (ha : blockOf a ≠ 18) : s.evtBasin.word a = s.word a := by
  have hall : ∀ (bytes : State → List Byte) (l : List Nat) (u : State), (∀ k ∈ l, k < 4) → u.canonical = true →
      (l.foldl (fun v k => v.toSubscriber k (bytes v)) u).word a = u.word a := by
    intro bytes l
    induction l with
    | nil => exact fun _ _ _ => rfl
    | cons k l ih =>
      intro u hl hu
      have hk := (State.toSubscriber_kept (y1 := k) (y2 := bytes u) (Kept.refl u)).canon hu
      rw [List.foldl_cons, ih _ (fun j hj => hl j (List.mem_cons_of_mem _ hj)) hk, State.word_toSubscriber hu (hl k List.mem_cons_self) _ ha]
  have hh : ∀ x, (s.setHost x).canonical = true := fun x => (State.setHost_kept (Kept.refl s)).canon hs
  unfold State.evtBasin State.evt State.evtBy
  extract_lets q u
  split
  · rfl
  · exact hall _ _ _ (fun k hk => State.subPorts_lt (List.mem_of_mem_take hk)) (hh _)

/-- Where no path generator runs, the class reactions suspend none. -/
theorem State.suspendAll_quiet (h : ∀ n, n < 26 → s.pgRunning n = false) (cause : Nat) : s.suspendAll cause = s := by
  have hall : ∀ l : List Nat, (∀ n ∈ l, n < 26) → l.foldl (fun v n => v.suspendNow n cause v.mt) s = s := by
    intro l
    induction l with
    | nil => exact fun _ => rfl
    | cons n l ih =>
      intro hl
      have hn : s.suspendNow n cause s.mt = s := if_pos (by rw [h n (hl n List.mem_cons_self)]; rfl)
      rw [List.foldl_cons, hn, ih fun m hm => hl m (List.mem_cons_of_mem _ hm)]
  exact hall _ fun n hn => List.mem_range.1 hn

/-- What a report to the host and the fall of the gates leave alone. -/
structure Reacted (s t : State) : Prop where
  words : ∀ a, blockOf a ≠ 18 → t.word a = s.word a
  mem : t.mem = s.mem

theorem State.evtBasin_reacted (hs : s.canonical = true) : Reacted s s.evtBasin :=
  ⟨fun _ ha => State.word_evtBasin hs ha, (Same.refl .mem s).evtBasin.eq⟩

theorem State.gateOffAll_cw (s : State) : s.gateOffAll.cw = s.cw := rfl

theorem State.classReaction_severe (s : State) :
    s.classReaction 1 = if s.f BASIN.CFG.SEVACT = 0 then (s.gateOffAll.suspendAll 6).evtBasin else s.evtBasin := rfl

theorem State.classReaction_warning (s : State) : s.classReaction 2 = s.evtBasin := rfl

/-- The reaction to a severe or a warning status where no path generator runs. -/
theorem State.classReaction_quiet (hs : s.canonical = true) (h : ∀ n, n < 26 → s.pgRunning n = false) {cls : Nat} (hcls : cls = 1 ∨ cls = 2) :
    Reacted s (s.classReaction cls) := by
  rcases hcls with rfl | rfl
  · have hcan : s.gateOffAll.canonical = true := (State.gateOffAll_kept (Kept.refl s)).canon hs
    rw [State.classReaction_severe, State.suspendAll_quiet (s := s.gateOffAll) h]
    split
    · exact ⟨fun a ha => (State.word_evtBasin hcan ha).trans (State.word_congr s.gateOffAll_cw a), (Same.refl .mem s).gateOffAll.evtBasin.eq⟩
    · exact State.evtBasin_reacted hs
  · exact State.evtBasin_reacted hs

theorem State.errorPulse_eq (s : State) (cls : Nat) : ∃ x, s.errorPulse cls = s.setBasin x := by
  unfold State.errorPulse
  split
  · exact ⟨_, rfl⟩
  · exact ⟨s.basin, rfl⟩

/-! ### A status is taken and recorded -/

/-- The Basin's marks of a real raise of status bit `b`: the bit, its origin, the event (R430, R438, R444). -/
def State.raiseMarked (s : State) (b : Nat) : State := ((s.setStatusBit BASIN.STATUS.V b).setStatusBit BASIN.REAL.V b).event b

theorem State.takeRaise_real (s : State) (r : Raise) :
    s.takeRaise r true false = (((s.raiseMarked (32 * r.cls + r.source)).daleRecord r true false).errorPulse r.cls).classReaction r.cls := rfl

theorem blockOf_status {i : Nat} (h : i < 2) : blockOf (BASIN.STATUS.V.addr i) = 5 := by
  unfold blockOf
  simp only [BASIN.STATUS.V, Fld.addr]
  omega

theorem blockOf_real {i : Nat} (h : i < 2) : blockOf (BASIN.REAL.V.addr i) = 5 := by
  unfold blockOf
  simp only [BASIN.REAL.V, Fld.addr]
  omega

theorem blockOf_pgState {n : Nat} (h : n < 26) : blockOf (PG.JOB.STATE.addr n) = 9 := by
  unfold blockOf
  simp only [PG.JOB.STATE, Fld.addr]
  omega

section

variable {b : Nat}

theorem State.raiseMarked_canonical (hs : s.canonical = true) : (s.raiseMarked b).canonical = true :=
  (State.event_kept (State.setStatusBit_kept (State.setStatusBit_kept (Kept.refl s)))).canon hs

theorem State.raiseMarked_dale : (s.raiseMarked b).dale = s.dale := by simp [State.raiseMarked, State.setStatusBit]

theorem State.word_raiseMarked (hs : s.canonical = true) (hb : b < 128) {a : Nat} (h5 : blockOf a ≠ 5) (h7 : blockOf a ≠ 7) :
    (s.raiseMarked b).word a = s.word a := by
  have hA : (s.setStatusBit BASIN.STATUS.V b).canonical = true := (State.setStatusBit_kept (Kept.refl s)).canon hs
  have hB : ((s.setStatusBit BASIN.STATUS.V b).setStatusBit BASIN.REAL.V b).canonical = true := (State.setStatusBit_kept (Kept.refl _)).canon hA
  have hi : b / 64 < 2 := by omega
  unfold State.raiseMarked
  rw [State.word_event hB b none 1 h7, State.word_setStatusBit_other hA (fun e => h5 (by rw [e, blockOf_real hi])),
    State.word_setStatusBit_other hs (fun e => h5 (by rw [e, blockOf_status hi]))]

theorem State.statusBit_raiseMarked (hs : s.canonical = true) (hb : b < 128) : (s.raiseMarked b).statusBit BASIN.STATUS.V b = true := by
  have hA : (s.setStatusBit BASIN.STATUS.V b).canonical = true := (State.setStatusBit_kept (Kept.refl s)).canon hs
  have hB : ((s.setStatusBit BASIN.STATUS.V b).setStatusBit BASIN.REAL.V b).canonical = true := (State.setStatusBit_kept (Kept.refl _)).canon hA
  have hi : b / 64 < 2 := by omega
  have hne : BASIN.STATUS.V.addr (b / 64) ≠ BASIN.REAL.V.addr (b / 64) := by
    simp only [BASIN.STATUS.V, BASIN.REAL.V, Fld.addr]
    omega
  have hword : (s.raiseMarked b).word (BASIN.STATUS.V.addr (b / 64)) = (s.setStatusBit BASIN.STATUS.V b).word (BASIN.STATUS.V.addr (b / 64)) := by
    unfold State.raiseMarked
    rw [State.word_event hB b none 1 (by rw [blockOf_status hi]; decide), State.word_setStatusBit_other hA hne]
  rw [State.statusBit_congr hword]
  exact State.statusBit_setStatusBit hs BASIN.STATUS.V b

end

theorem State.pgRunning_congr {t : State} {n : Nat} (h : t.word (PG.JOB.STATE.addr n) = s.word (PG.JOB.STATE.addr n)) :
    t.pgRunning n = s.pgRunning n := by
  have hstate : t.pgState n = s.pgState n := congrArg PG.JOB.STATE.get h
  unfold State.pgRunning
  rw [hstate]

/-- A real raise that is no critical one, where no path generator runs and the ring takes the record: its status bit is set, and the record stands
at the write index. -/
theorem State.takeRaise_recorded (hs : s.canonical = true) {r : Raise} (hcls : r.cls = 1 ∨ r.cls = 2) (hsrc : r.source < 32)
    (hrun : ∀ n, n < 26 → s.pgRunning n = false) (hroom : s.daleLoses r.cls = false) :
    (s.takeRaise r true false).statusBit BASIN.STATUS.V (32 * r.cls + r.source) = true ∧
    (s.takeRaise r true false).lds (s.f DALE.BASE.V * 32 + 32 * (s.f DALE.PTR.WIDX % 8192)) 4 =
      [wd r.mt, daleWord1 r true false s.dale.rseq, r.data0, r.data1] := by
  have hb : 32 * r.cls + r.source < 128 := by omega
  rw [State.takeRaise_real]
  generalize 32 * r.cls + r.source = b at hb ⊢
  have hC := State.raiseMarked_canonical (b := b) hs
  have hword : ∀ a, blockOf a ≠ 5 → blockOf a ≠ 7 → (s.raiseMarked b).word a = s.word a := fun a => State.word_raiseMarked hs hb
  have hbit := State.statusBit_raiseMarked hs hb
  have hdale := State.raiseMarked_dale (s := s) (b := b)
  generalize s.raiseMarked b = C at hC hword hbit hdale ⊢
  have h6 : ∀ a, blockOf a = 6 → C.word a = s.word a := fun a h => hword a (by rw [h]; decide) (by rw [h]; decide)
  have hrecord := State.lds_daleRecord hC true false ((State.daleLoses_congr h6 r.cls).trans hroom)
  have hrecorded : ∀ a, blockOf a ≠ 6 → blockOf a ≠ 7 → blockOf a ≠ 26 → (C.daleRecord r true false).word a = C.word a :=
    fun a => State.word_daleRecord hC r true false
  have hD : (C.daleRecord r true false).canonical = true := (State.daleRecord_kept (Kept.refl C)).canon hC
  obtain ⟨x, hx⟩ := State.errorPulse_eq (C.daleRecord r true false) r.cls
  rw [hx]
  generalize C.daleRecord r true false = D at hrecord hrecorded hD ⊢
  have hstopped : ∀ n, n < 26 → (D.setBasin x).pgRunning n = false := fun n hn => by
    have h9 := blockOf_pgState hn
    have hstate := (hrecorded (PG.JOB.STATE.addr n) (by rw [h9]; decide) (by rw [h9]; decide) (by rw [h9]; decide)).trans
      (hword _ (by rw [h9]; decide) (by rw [h9]; decide))
    exact (State.pgRunning_congr (t := D) hstate).trans (hrun n hn)
  obtain ⟨hwords, hmem⟩ := State.classReaction_quiet ((State.setBasin_kept (Kept.refl D)).canon hD) hstopped hcls
  constructor
  · have h5 := blockOf_status (i := b / 64) (by omega)
    have hkept := (hwords _ (by rw [h5]; decide)).trans (hrecorded (BASIN.STATUS.V.addr (b / 64)) (by rw [h5]; decide) (by rw [h5]; decide) (by rw [h5]; decide))
    exact (State.statusBit_congr hkept).trans hbit
  · have hf : ∀ f : Fld, blockOf (f.addr 0) = 6 → C.f f = s.f f := fun f h => congrArg f.get (h6 _ h)
    rw [State.lds_congr (s := D) hmem, ← hf DALE.BASE.V (by decide), ← hf DALE.PTR.WIDX (by decide), ← hdale]
    exact hrecord

end

theorem blockOf_coreState {r : Nat} (h : r < 18) : blockOf (CORE.STAT.STATE.addr r) = 8 := by
  unfold blockOf
  simp only [CORE.STAT.STATE, Fld.addr]
  omega

/-- The one status that waits is taken. -/
theorem exec_statusRaise_one {t : State} {e : Raise} (h : t.lines = [e]) : exec .statusRaise t = .next ((t.setLines []).takeRaise e true false) := by
  have hrun : statusRaise t = (t.setLines []).takeRaise e true false := by
    unfold statusRaise
    rw [h]
  exact congrArg Host.Outcome.next hrun

theorem doubleFaultRaise_cls (r code : Nat) (s : State) : (doubleFaultRaise r code s).cls = 1 ∨ (doubleFaultRaise r code s).cls = 2 := by
  show (if r < 2 then 1 else 2) = 1 ∨ (if r < 2 then 1 else 2) = 2
  split
  · exact .inl rfl
  · exact .inr rfl

/-- The status of a double fault, taken by the Basin with nothing before it: its bit and its record (R120, R431, R439). -/
theorem DoubleFaulted.statusRaise {r code : Nat} {s t : State} (h : DoubleFaulted r code s t) (hr : r < 18) (hnone : s.lines = [])
    (hrun : ∀ n, n < 26 → s.pgRunning n = false) (hroom : s.daleLoses (doubleFaultRaise r code s).cls = false) :
    ∃ u, exec .statusRaise t = .next u ∧ u.statusBit BASIN.STATUS.V (32 * (doubleFaultRaise r code s).cls + 6) = true ∧
      u.lds (s.f DALE.BASE.V 0 * 32 + 32 * (s.f DALE.PTR.WIDX 0 % 8192)) 4 =
        [wd s.mt, daleWord1 (doubleFaultRaise r code s) true false s.dale.rseq, (doubleFaultRaise r code s).data0, (doubleFaultRaise r code s).data1] := by
  obtain ⟨hcan, _, _, _, hlines, hwords, hrest⟩ := h
  have hline : t.lines = [doubleFaultRaise r code s] := by rw [hlines, hnone]; rfl
  have hblock : ∀ a, blockOf a ≠ 8 → t.word a = s.word a := fun a h8 => hwords a fun e => h8 (by rw [e, blockOf_coreState hr])
  have hstopped : ∀ n, n < 26 → (t.setLines []).pgRunning n = false := fun n hn =>
    (State.pgRunning_congr (t := t) (hblock _ (by rw [blockOf_pgState hn]; decide))).trans (hrun n hn)
  have htaken := (State.daleLoses_congr (t := t.setLines []) (s := s) (fun a h6 => hblock a (by rw [h6]; decide)) _).trans hroom
  obtain ⟨hbit, hrecord⟩ := State.takeRaise_recorded ((State.setLines_kept (Kept.refl t)).canon hcan) (doubleFaultRaise_cls r code s)
    (show 6 < 32 by decide) hstopped htaken
  have hf : ∀ f : Fld, blockOf (f.addr 0) = 6 → (t.setLines []).f f = s.f f := fun f h6 => congrArg f.get (hblock _ (by rw [h6]; decide))
  have hdale : (t.setLines []).dale = s.dale := by rw [hrest]; rfl
  rw [hf DALE.BASE.V (by decide), hf DALE.PTR.WIDX (by decide), hdale] at hrecord
  exact ⟨_, exec_statusRaise_one hline, hbit, hrecord⟩

/-- Settles O30: each row is an attempt that ends in its cause; inside a handler the core stands and the status waits, which the Basin then takes. -/
theorem doubleFaultHaltsTheCore : Obligations.DoubleFaultHaltsTheCore := by
  intro i r g code info s hi h hex hpc c
  obtain ⟨op, hl, hop, hcode, hexec, hatt⟩ := exec_syncRow hi
  have hfault := zException_doubleFaulted (code := code) (info := info) h hex
  rw [zExec_raises h hl hop hatt] at hexec
  generalize zException r code info s (s.core r) = t at hexec hfault
  obtain ⟨_, hhalted, hdflt, hcore, hlines, _, hrest⟩ := id hfault
  obtain ⟨hthis, hlast, hat, hepc⟩ := doubleFaultRaise_data0 (r := r) hcode hpc
  refine ⟨t, hexec, hhalted, hcore r, hdflt, by rw [hrest], by rw [hrest], fun q _ => hcore q, _, hlines, rfl, rfl, rfl, rfl, rfl,
    hthis, hlast, hat, hepc, rfl, fun hnone hrun hroom => ?_⟩
  exact hfault.statusRaise r.isLt hnone (fun n hn => hrun ⟨n, hn⟩) hroom

end Sys2Proof.Machine
end

section
namespace Sys2Proof.Machine

open Sys2Proof

/-! ### Events at a core that blocks on nothing (R111, R115, R121) -/

section

variable {r : Nat} {s : State}

/-- A core that blocks on nothing has nothing to try again. -/
theorem zResume_idle (h : (s.core r).blocked = none) : zResume r s = s := by
  unfold zResume
  rw [h]

/-- A core that blocks on nothing and is given a record that blocks on nothing. -/
theorem zResume_setCore (hs : s.canonical = true) {c : Core} (hc : c.blocked = none) :
    zResume r (s.setCore r c) = s.setCore r c ∧ ∀ q, (zResume r (s.setCore r c)).core q = if q = r then c else s.core q := by
  have hcore := fun q => State.core_setCore hs r q c
  have hidle : zResume r (s.setCore r c) = s.setCore r c := zResume_idle (by rw [hcore, if_pos rfl, hc])
  exact ⟨hidle, fun q => by rw [hidle, hcore]⟩

/-- The record of a core whose port `p` has taken a token. -/
def Core.buffered (c : Core) (p : Nat) (q : Token) : Core := c.setPort p { c.port p with buf := (c.port p).buf ++ [q] }

/-- A token for a port other than t6 with room for it, of a kind a port takes, at a running core (R111). -/
theorem portArrival_buffers {p : Nat} {q : Token} (f : Bool) (hp : p ≠ 6) (hst : s.coreState r = 1) (hroom : ((s.core r).port p).buf.length < 4)
    (hsrc : srcAllowed (portEp r p) q.src = true) (hk : q.kind = 0#4 ∨ q.kind = 1#4 ∨ q.kind = 2#4) :
    portArrival r p q f s = zResume r ((s.deliver (portEp r p) q).setCore r ((s.core r).buffered p q)) := by
  have hkind : q.kind ≠ 12#4 ∧ q.kind ≠ 15#4 ∧ q.kind ≠ 11#4 ∧ q.kind ≠ 8#4 := by
    rcases hk with h | h | h <;> rw [h] <;> decide
  obtain ⟨h12, h15, h11, h8⟩ := hkind
  unfold portArrival
  dsimp only
  rw [hst, if_neg (by decide), if_neg (fun e => absurd e.2.2.1 (by omega)), State.arrive_open hsrc, if_neg (by decide), if_neg hp,
    if_neg (not_or.2 ⟨h12, h15⟩), if_neg h11, if_neg (fun e => h8 e.1)]
  rfl

/-- The acknowledge of a posted write counts it off; a refusal is a cause that waits (R115). -/
def Core.acked (c : Core) (q : Token) : Core :=
  if q.err then { c with posted := c.posted - 1 }.addAsync 6 q.payload else { c with posted := c.posted - 1 }

theorem Core.acked_posted (c : Core) (q : Token) : (c.acked q).posted = c.posted - 1 := by
  unfold Core.acked Core.addAsync
  split
  · split <;> rfl
  · rfl

theorem Core.acked_blocked (c : Core) (q : Token) : (c.acked q).blocked = c.blocked := by
  unfold Core.acked Core.addAsync
  split
  · split <;> rfl
  · rfl

theorem Core.acked_pend {c : Core} {q : Token} (he : q.err = false) : (c.acked q).pend = c.pend := by
  unfold Core.acked
  rw [he]
  rfl

theorem Core.acked_pend_refused {c : Core} {q : Token} (he : q.err = true) (hp : c.pend = none) : (c.acked q).pend = some (6, q.payload) := by
  unfold Core.acked Core.addAsync
  rw [if_pos he]
  dsimp only
  rw [hp]

theorem postedAck_counts {q : Token} (hk : q.kind = 5#4) (hp : (s.core r).posted ≠ 0) :
    postedAck r q s = zResume r ((s.deliver (portEp r 6) q).setCore r ((s.core r).acked q)) := by
  unfold postedAck
  dsimp only
  rw [if_neg (not_or.2 ⟨not_not_intro hk, hp⟩)]
  rfl

/-- Time-out of a blocked instruction outside a handler: cause 0x07 with the mask it waited on (R122). -/
theorem portTimeout_raises {b : Blocked} (hb : (s.core r).blocked = some b) (hlim : s.f CORE.CFG.BLKTO r ≠ 0) (hst : s.coreState r = 2) :
    portTimeout r s = zException r 7 (wd b.mask) (s.reach (b.since + s.f CORE.CFG.BLKTO r * 1000)) (s.core r) := by
  unfold portTimeout
  dsimp only
  rw [hb]
  exact if_pos ⟨hlim, .inl hst⟩

/-- A synchronous cause of a blocked instruction outside a handler: the core leaves the instruction for its handler (R119). -/
theorem zException_blocked (hs : s.canonical = true) {c : Core} {b : Blocked} (hb : c.blocked = some b) (hex : c.ex = false)
    (hstep : c.stepping = false) (code : Nat) (info : Word) :
    (zException r code info s c).mt = s.mt ∧ (zException r code info s c).coreState r = 1 ∧
    ((zException r code info s c).core r).pc = 16 * code ∧ ((zException r code info s c).core r).code = code ∧
    ((zException r code info s c).core r).info = info ∧ ((zException r code info s c).core r).epc = wd c.pc ∧
    ((zException r code info s c).core r).blocked = none := by
  have hun : c.unblock s.mt = { c with blocked := none, blkns := c.blkns + (s.mt - b.since) } := by unfold Core.unblock; rw [hb]
  have hcan : ∀ x, (s.setCore r x).canonical = true := fun x => (State.setCore_kept (Kept.refl s)).canon hs
  unfold zException
  dsimp only
  rw [hun, if_neg (by rw [hex]; decide), afterState, if_neg (by rw [hstep]; decide), core_setCore_setCoreState hs, if_pos rfl]
  exact ⟨rfl, State.f_setF_same (hcan _) CORE.STAT.STATE r 1 (by decide), rfl, rfl, rfl, rfl, rfl⟩

/-! ### A bulk operation of one word within the Plain (R116) -/

theorem State.ownerOf_plain {a : Nat} (h : a < 0x3000000) (s : State) : s.ownerOf a = 0x10 := by
  have hregion : s.region a = .plain := if_pos h
  unfold State.ownerOf
  rw [hregion]

/-- A word of the Plain without an error is copied to the Plain. -/
theorem bulkRun_word {a d : Nat} (ha : a + 8 ≤ 0x3000000) (hd : d + 8 ≤ 0x3000000) (he : s.eccAt a = none) (src : BitVec 10) :
    bulkRun src s a d 1 = (s.st d (s.ld a), none) := by
  have hread : s.eccRead a = s := by unfold State.eccRead; rw [he]
  have hra := State.memRefusal_plain (n := 1) (by decide) ha false s
  have hrd := State.memRefusal_plain (n := 1) (by decide) hd true s
  unfold bulkRun
  simp [State.ownerOf_plain (show a < 0x3000000 by omega), State.ownerOf_plain (show d < 0x3000000 by omega), hra, hrd, srcAllowed_plain, he,
    State.memTouch, hread, isMemEp, bulkRun]

/-- The only bulk operation of a core ends: the run's words, and the slot free. -/
theorem bulkComplete_only {b : Bulk} {t : State} (hb : (s.core r).bulks = [b])
    (hrun : bulkRun (BitVec.ofNat 10 (portEp r 6)) s b.src b.dst b.words = (t, none)) :
    bulkComplete r b.stream s = zResume r (t.setCore r { s.core r with bulks := [] }) := by
  have hfind : [b].find? (fun x => x.stream == b.stream) = some b := by simp
  have hfilter : [b].filter (fun x => x.stream != b.stream) = [] := by simp
  unfold bulkComplete
  dsimp only
  rw [hb, hfind]
  dsimp only
  rw [hrun, hfilter]

end

/-- Settles O29: each event gives its core one new record, and a core that blocks on nothing has nothing to resume. -/
theorem coreEvents : Obligations.CoreEvents := by
  intro r s hs
  have hdel : ∀ ep q, (s.deliver ep q).canonical = true := fun ep q => (State.deliver_kept (Kept.refl s)).canon hs
  refine ⟨fun p q f hp hst hb hroom hsrc hk => ?_, fun code info hpend hst hex hmask hb => ?_, fun b hb hlim hst hex hstep => ?_,
    fun q hk hposted hb => ?_, fun b hbulk hwords hb hstream _ _ ha hd he => ?_⟩
  · have hrun := portArrival_buffers f hp hst hroom hsrc hk
    obtain ⟨hidle, hcore⟩ := zResume_setCore (r := r) (hdel (portEp r p) q) (c := (s.core r).buffered p q) hb
    refine ⟨_, congrArg Host.Outcome.next hrun, ?_⟩
    beta_reduce
    rw [hcore, if_pos rfl, hidle]
    refine ⟨?_, State.deliver_net .., rfl, rfl, fun x hx => Core.port_setPort_other _ (Fin.val_ne_of_ne hx) _⟩
    exact congrArg Port.buf (Core.port_setPort_same _ p.isLt _)
  · have hrun : asyncTaken r s = s.setCore r { s.core r with
        epc := wd (s.core r).pc, code := code, async := true, more := (s.core r).pendMore, info := info, ex := true, pc := 16 * code,
        pend := none, pendMore := false } := by
      unfold asyncTaken
      dsimp only
      rw [hpend, hst, hb]
      simp [Core.asyncDue, hpend, hex, hmask]
    refine ⟨_, congrArg Host.Outcome.next hrun, rfl, fun x hx => ?_, ?_⟩
    · exact (State.core_setCore hs r x _).trans (if_neg hx)
    · exact (State.core_setCore hs r r _).trans (if_pos rfl)
  · have hreach : (s.reach (b.since + s.f CORE.CFG.BLKTO r * 1000)).canonical = true := (State.reach_kept (Kept.refl s)).canon hs
    obtain ⟨hmt, hrunning, hpc, hcode, hinfo, hepc, hfree⟩ := zException_blocked (r := r) hreach hb hex hstep 7 (wd b.mask)
    exact ⟨_, congrArg Host.Outcome.next (portTimeout_raises hb hlim hst), hmt, hpc, hcode, hinfo, hepc, hfree, hrunning⟩
  · obtain ⟨hidle, hcore⟩ := zResume_setCore (r := r) (hdel (portEp r 6) q) ((Core.acked_blocked (s.core r) q).trans hb)
    refine ⟨_, congrArg Host.Outcome.next (postedAck_counts hk hposted), ?_⟩
    beta_reduce
    rw [hcore, if_pos rfl, hidle]
    exact ⟨State.deliver_net .., Core.acked_posted _ q, Core.acked_pend, Core.acked_pend_refused⟩
  · have hcopy : bulkRun (BitVec.ofNat 10 (portEp r 6)) s b.src b.dst b.words = (s.st b.dst (s.ld b.src), none) := by
      rw [hwords]
      exact bulkRun_word ha hd he _
    have hrun : bulkComplete r (BitVec.ofNat 8 b.stream).toNat s = zResume r ((s.st b.dst (s.ld b.src)).setCore r { s.core r with bulks := [] }) := by
      rw [BitVec.toNat_ofNat, Nat.mod_eq_of_lt hstream]
      exact bulkComplete_only hbulk hcopy
    obtain ⟨hidle, hcore⟩ := zResume_setCore (r := r) (State.canonical_st b.dst (s.ld b.src) hs) (c := { s.core r with bulks := [] }) hb
    refine ⟨_, congrArg Host.Outcome.next hrun, ?_⟩
    beta_reduce
    rw [hcore, if_pos rfl, hidle]
    have hkept : BytesKept s (s.st b.dst (s.ld b.src)) (fun x => b.dst ≤ x ∧ x < b.dst + 8) := fun x hx =>
      (State.byte_st hs b.dst x (s.ld b.src)).trans (if_neg hx)
    exact ⟨State.ld_st hs b.dst (s.ld b.src), hkept, rfl, rfl⟩

end Sys2Proof.Machine
end

section
namespace Sys2Proof.Machine

open Sys2Proof

/-! ### Layer words: the fields of the head and of the extension word (R6, R131, R132) -/

theorem bits_wd {v : Nat} (h : v < 2 ^ 64) (hi lo : Nat) : bits (wd v) hi lo = v / 2 ^ lo % 2 ^ (hi + 1 - lo) := by
  rw [bits, wd, BitVec.toNat_ofNat, Nat.mod_eq_of_lt h, Nat.shiftRight_eq_div_pow]

theorem bit_eq_bits (w : Word) (i : Nat) : bit w i = (bits w i i == 1) := by
  rw [bit, ← BitVec.testBit_toNat, Nat.testBit_eq_decide_div_mod_eq, bits, Nat.shiftRight_eq_div_pow, Nat.add_sub_cancel_left, Nat.pow_one]
  rfl

theorem ux_lt (n : Nat) (v : Int) : ux n v < 2 ^ n := by
  have hp : (0 : Int) < ((2 ^ n : Nat) : Int) := by exact_mod_cast Nat.two_pow_pos n
  have h0 := Int.emod_nonneg v hp.ne'
  have h1 := Int.emod_lt_of_pos v hp
  unfold ux
  omega

/-- Two's complement of `n` bits loses nothing of a value in its range. -/
theorem sx_ux {n : Nat} {v : Int} (hn : 0 < n) (hv : -((2 ^ (n - 1) : Nat) : Int) ≤ v ∧ v < ((2 ^ (n - 1) : Nat) : Int)) : sx n (ux n v) = v := by
  have hm : ux n v % 2 ^ n = ux n v := Nat.mod_eq_of_lt (ux_lt _ _)
  have hk : (2 ^ n : Nat) = 2 * 2 ^ (n - 1) := by rw [← Nat.pow_succ', Nat.succ_eq_add_one, Nat.sub_add_cancel hn]
  have hu : (ux n v : Int) = if 0 ≤ v then v else v + ((2 ^ n : Nat) : Int) := by
    unfold ux
    rw [Int.toNat_of_nonneg (Int.emod_nonneg _ (by omega))]
    split
    · exact Int.emod_eq_of_lt (by omega) (by omega)
    · rw [← Int.add_emod_right]
      exact Int.emod_eq_of_lt (by omega) (by omega)
  unfold sx
  dsimp only
  rw [hm]
  split at hu <;> split <;> omega

/-- A field that holds the low bits of a signed operand in its range is read back as that operand. -/
theorem sbits_of_bits {w : Word} {hi lo n : Nat} {v : Int} (hb : bits w hi lo = ux n v) (hn : hi + 1 - lo = n ∧ 0 < n)
    (hv : -((2 ^ (n - 1) : Nat) : Int) ≤ v ∧ v < ((2 ^ (n - 1) : Nat) : Int)) : sbits w hi lo = v := by
  rw [sbits, hb, hn.1]
  exact sx_ux hn.2 hv

theorem s24ok_iff {v : Int} : s24ok v = true ↔ -8388607 ≤ v ∧ v ≤ 8388607 := decide_eq_true_iff

theorem orBad_pos {ok : Bool} (h : ok = true) (op : LOp) : orBad ok op = op := if_pos h

/-- A head word shows its CLASS, OP and EXT, and below them the operand bits `a` (R132). -/
structure HeadShows (w : Word) (cls op ext a : Nat) : Prop where
  cls : bits w 63 61 = cls
  op : bits w 60 56 = op
  ext : bits w 55 54 = ext
  low : ∀ {hi lo v : Nat}, hi < 54 → a / 2 ^ lo % 2 ^ (hi + 1 - lo) = v → bits w hi lo = v

theorem layerHead_shows {cls op ext a : Nat} (hc : cls < 8) (ho : op < 32) (hx : ext < 4) (ha : a < 2 ^ 54) :
    HeadShows (layerHead cls op ext a) cls op ext a := by
  have hv : place cls 3 61 + place op 5 56 + place ext 2 54 + place a 54 0 = 2 ^ 54 * (cls * 2 ^ 7 + op * 2 ^ 2 + ext) + a := by
    unfold place
    omega
  have hlt : 2 ^ 54 * (cls * 2 ^ 7 + op * 2 ^ 2 + ext) + a < 2 ^ 64 := by omega
  unfold layerHead
  rw [hv]
  refine ⟨?_, ?_, ?_, fun {hi lo v} hhi hlow => ?_⟩
  · rw [bits_wd hlt]; omega
  · rw [bits_wd hlt]; omega
  · rw [bits_wd hlt]; omega
  · rw [bits_wd hlt, ← hlow]
    apply Nat.eq_of_testBit_eq
    intro k
    simp only [Nat.testBit_mod_two_pow, Nat.testBit_div_two_pow]
    by_cases hk : k < hi + 1 - lo
    · rw [Nat.testBit_two_pow_mul_add _ ha, if_pos (by omega)]
    · simp [hk]

theorem layerPoint_toNat_lt (x y : Int) : place (ux 32 y) 32 32 + place (ux 32 x) 32 0 < 2 ^ 64 := by
  unfold place
  omega

theorem sbits_layerPoint {x y : Int} (hx : -2147483648 ≤ x ∧ x < 2147483648) (hy : -2147483648 ≤ y ∧ y < 2147483648) :
    sbits (layerPoint x y) 31 0 = x ∧ sbits (layerPoint x y) 63 32 = y := by
  have hux := ux_lt 32 x
  have huy := ux_lt 32 y
  constructor
  · refine sbits_of_bits (n := 32) ?_ (by decide) (by omega)
    rw [layerPoint, bits_wd (layerPoint_toNat_lt x y), place, place]
    omega
  · refine sbits_of_bits (n := 32) ?_ (by decide) (by omega)
    rw [layerPoint, bits_wd (layerPoint_toNat_lt x y), place, place]
    omega

/-! ### The instruction under each CLASS and OP (R133–R138) -/

section Decode

variable {w : Word} {ext : List Word} {a : Nat}

theorem decodeLayer_jump (h : HeadShows w 0 0 1 a) : decodeLayer w ext =
    orBad (bits w 52 24 == 0 && s24ok (sbits w 23 0)) (.jump (bit w 53) (sbits w 23 0) (sbits (ext.getD 0 0) 31 0) (sbits (ext.getD 0 0) 63 32)) := by
  unfold decodeLayer; rw [h.cls, h.op, h.ext]; rfl

theorem decodeLayer_mark (h : HeadShows w 0 1 1 a) : decodeLayer w ext =
    orBad (bits w 52 24 == 0 && s24ok (sbits w 23 0)) (.mark (bit w 53) (sbits w 23 0) (sbits (ext.getD 0 0) 31 0) (sbits (ext.getD 0 0) 63 32)) := by
  unfold decodeLayer; rw [h.cls, h.op, h.ext]; rfl

theorem decodeLayer_jumpr (h : HeadShows w 0 2 0 a) : decodeLayer w ext =
    orBad (bits w 53 48 == 0 && s24ok (sbits w 47 24) && s24ok (sbits w 23 0)) (.jumpr (sbits w 47 24) (sbits w 23 0)) := by
  unfold decodeLayer; rw [h.cls, h.op, h.ext]; rfl

theorem decodeLayer_markr (h : HeadShows w 0 3 0 a) : decodeLayer w ext =
    orBad (bits w 53 48 == 0 && s24ok (sbits w 47 24) && s24ok (sbits w 23 0)) (.markr (sbits w 47 24) (sbits w 23 0)) := by
  unfold decodeLayer; rw [h.cls, h.op, h.ext]; rfl

theorem decodeLayer_arc (h : HeadShows w 0 4 1 a) : decodeLayer w ext =
    orBad (bits w 53 24 == 0 && sbits w 23 0 != 0 && decide ((sbits w 23 0).natAbs ≤ 4194304))
      (.arc (sbits w 23 0) (sbits (ext.getD 0 0) 31 0) (sbits (ext.getD 0 0) 63 32)) := by
  unfold decodeLayer; rw [h.cls, h.op, h.ext]; rfl

theorem decodeLayer_park (h : HeadShows w 0 5 1 a) : decodeLayer w ext =
    orBad (bits w 53 0 == 0) (.park (sbits (ext.getD 0 0) 31 0) (sbits (ext.getD 0 0) 63 32)) := by
  unfold decodeLayer; rw [h.cls, h.op, h.ext]; rfl

theorem decodeLayer_speed (h : HeadShows w 1 0 0 a) : decodeLayer w ext =
    orBad (bits w 53 48 == 0 && bits w 15 0 == 0 && decide (bits w 47 32 ≤ 30000 ∧ bits w 31 16 ≤ 12000)) (.speed (bits w 47 32) (bits w 31 16)) := by
  unfold decodeLayer; rw [h.cls, h.op, h.ext]; rfl

theorem decodeLayer_power (h : HeadShows w 1 1 0 a) : decodeLayer w ext = orBad (decide (bits w 53 0 < 65536)) (.power (bits w 53 0)) := by
  unfold decodeLayer; rw [h.cls, h.op, h.ext]; rfl

theorem decodeLayer_focus (h : HeadShows w 1 2 0 a) : decodeLayer w ext =
    orBad (bits w 53 24 == 0 && s24ok (sbits w 23 0)) (.focus (sbits w 23 0)) := by
  unfold decodeLayer; rw [h.cls, h.op, h.ext]; rfl

theorem decodeLayer_ramp (h : HeadShows w 1 3 0 a) : decodeLayer w ext = orBad (bits w 53 32 == 0) (.ramp (bits w 31 16) (bits w 15 0)) := by
  unfold decodeLayer; rw [h.cls, h.op, h.ext]; rfl

theorem decodeLayer_gate (h : HeadShows w 1 4 0 a) : decodeLayer w ext =
    orBad (decide (0 < bits w 53 0 ∧ bits w 53 0 < 65536)) (.gate (bits w 53 0)) := by
  unfold decodeLayer; rw [h.cls, h.op, h.ext]; rfl

theorem decodeLayer_own (h : HeadShows w 2 0 0 a) : decodeLayer w ext =
    orBad (bits w 53 50 == 0 && bits w 31 0 == 0 && decide (bits w 49 48 < 2)) (.own (bit w 48) (bits w 47 32)) := by
  unfold decodeLayer; rw [h.cls, h.op, h.ext]; rfl

theorem decodeLayer_part (h : HeadShows w 2 1 0 a) : decodeLayer w ext = orBad (bits w 53 32 == 0) (.part (bits w 53 0)) := by
  unfold decodeLayer; rw [h.cls, h.op, h.ext]; rfl

theorem decodeLayer_vid (h : HeadShows w 2 2 0 a) : decodeLayer w ext = orBad (bits w 53 32 == 0) (.vid (bits w 53 0)) := by
  unfold decodeLayer; rw [h.cls, h.op, h.ext]; rfl

theorem decodeLayer_nop (h : HeadShows w 3 0 0 a) : decodeLayer w ext = orBad (bits w 53 0 == 0) .nop := by
  unfold decodeLayer; rw [h.cls, h.op, h.ext]; rfl

theorem decodeLayer_dwell (h : HeadShows w 3 1 0 a) : decodeLayer w ext =
    orBad (decide (1 ≤ bits w 53 0 ∧ bits w 53 0 ≤ 1000000)) (.dwell (bits w 53 0)) := by
  unfold decodeLayer; rw [h.cls, h.op, h.ext]; rfl

theorem decodeLayer_marker (h : HeadShows w 3 2 0 a) : decodeLayer w ext = orBad (bits w 53 32 == 0) (.marker (bits w 53 0)) := by
  unfold decodeLayer; rw [h.cls, h.op, h.ext]; rfl

theorem decodeLayer_lend (h : HeadShows w 3 3 0 a) : decodeLayer w ext = orBad (bits w 53 0 == 0) .lend := by
  unfold decodeLayer; rw [h.cls, h.op, h.ext]; rfl

theorem decodeLayer_trig (h : HeadShows w 4 0 1 a) : decodeLayer w ext =
    orBad (bits w 52 48 == 0 && bits w 23 0 == 0 && bits (ext.getD 0 0) 63 56 == 0 && bits (ext.getD 0 0) 31 16 == 0 &&
        (!bit w 53 || decide (20000 ≤ bits w 47 24 ∧ 100 ≤ bits (ext.getD 0 0) 55 32 ∧ bits (ext.getD 0 0) 55 32 + 2000 ≤ bits w 47 24)))
      (.trig (bit w 53) (bits w 47 24) (bits (ext.getD 0 0) 55 32) (bits (ext.getD 0 0) 15 0)) := by
  unfold decodeLayer; rw [h.cls, h.op, h.ext]; rfl

theorem decodeLayer_record (h : HeadShows w 4 1 0 a) : decodeLayer w ext = orBad (decide (bits w 53 0 < 4)) (.record (bits w 53 0)) := by
  unfold decodeLayer; rw [h.cls, h.op, h.ext]; rfl

theorem decodeLayer_look (h : HeadShows w 4 2 0 a) : decodeLayer w ext = orBad (decide (bits w 53 0 < 2)) (.look (bit w 0)) := by
  unfold decodeLayer; rw [h.cls, h.op, h.ext]; rfl

end Decode

/-! ### Every instruction is read back (R132–R138) -/

/-- A signed 24-bit operand in the head. -/
theorem HeadShows.signed {w : Word} {cls op ext a hi lo : Nat} {z : Int} (h : HeadShows w cls op ext a) (hhi : hi < 54) (hn : hi + 1 - lo = 24)
    (hz : s24ok z = true) (ha : a / 2 ^ lo % 2 ^ 24 = ux 24 z) : sbits w hi lo = z := by
  rw [s24ok_iff] at hz
  exact sbits_of_bits (n := 24) (h.low hhi (by rw [hn]; exact ha)) ⟨hn, by decide⟩ (by omega)

/-- A one-bit operand in the head. -/
theorem HeadShows.flag {w : Word} {cls op ext a i : Nat} {b : Bool} (h : HeadShows w cls op ext a) (hi : i < 54) (ha : a / 2 ^ i % 2 = b.toNat) :
    bit w i = b := by
  have hb : bits w i i = b.toNat := h.low hi (by rw [Nat.add_sub_cancel_left]; exact ha)
  rw [bit_eq_bits, hb]
  cases b <;> rfl

/-- The head of a vector or jump to a point: the flag ZV over the focus z (R133). -/
theorem HeadShows.point {w : Word} {cls op ext : Nat} {zv : Bool} {z : Int} (h : HeadShows w cls op ext (place zv.toNat 1 53 + ux 24 z))
    (hz : s24ok z = true) : bits w 52 24 = 0 ∧ bit w 53 = zv ∧ sbits w 23 0 = z := by
  have hu := ux_lt 24 z
  have hb := zv.toNat_lt
  unfold place at h
  exact ⟨h.low (by decide) (by omega), h.flag (by decide) (by omega), h.signed (by decide) rfl hz (by omega)⟩

/-- The head of a relative vector or jump: dx over dy (R133). -/
theorem HeadShows.pair {w : Word} {cls op ext : Nat} {dx dy : Int} (h : HeadShows w cls op ext (place (ux 24 dx) 24 24 + ux 24 dy))
    (hdx : s24ok dx = true) (hdy : s24ok dy = true) : bits w 53 48 = 0 ∧ sbits w 47 24 = dx ∧ sbits w 23 0 = dy := by
  have hux := ux_lt 24 dx
  have huy := ux_lt 24 dy
  unfold place at h
  exact ⟨h.low (by decide) (by omega), h.signed (by decide) rfl hdx (by omega), h.signed (by decide) rfl hdy (by omega)⟩

/-- The extension word of a TRIG: the width over the exposure's number (R138). -/
theorem bits_trigWord {d e : Nat} (hd : d < 16777216) (he : e < 65536) (hi lo : Nat) :
    bits (wd (place d 24 32 + place e 16 0)) hi lo = (d * 2 ^ 32 + e) / 2 ^ lo % 2 ^ (hi + 1 - lo) := by
  have hv : place d 24 32 + place e 16 0 = d * 2 ^ 32 + e := by unfold place; omega
  rw [hv]
  exact bits_wd (by omega) hi lo

/-- An instruction is read back from its words if it is from any words whose head shows its CLASS, OP, EXT and operand bits. -/
theorem layerWords_of_head {i : LOp} {cls op ext a : Nat} {l : List Word} (he : encodeLayer i = layerHead cls op ext a :: l) (hx : ext = l.length)
    (hc : cls < 8 ∧ op < 32 ∧ ext < 4) (ha : a < 2 ^ 54) (hd : ∀ w, HeadShows w cls op ext a → decodeLayer w l = i) :
    ∃ h ext, encodeLayer i = h :: ext ∧ bits h 55 54 = ext.length ∧ decodeLayer h ext = i := by
  have hs := layerHead_shows hc.1 hc.2.1 hc.2.2 ha
  exact ⟨_, l, he, hs.ext.trans hx, hd _ hs⟩

theorem LOp.wf_point {z x y : Int} (h : (s24ok z && decide (-2147483648 ≤ x ∧ x < 2147483648 ∧ -2147483648 ≤ y ∧ y < 2147483648)) = true) :
    s24ok z = true ∧ (-2147483648 ≤ x ∧ x < 2147483648) ∧ -2147483648 ≤ y ∧ y < 2147483648 := by
  rw [Bool.and_eq_true, decide_eq_true_eq] at h
  obtain ⟨hz, hx0, hx1, hy⟩ := h
  exact ⟨hz, ⟨hx0, hx1⟩, hy⟩

/-- Every instruction whose operands the opcode tables allow is read back: its head names its row and its number of extension words, and each
operand stands alone in its field. -/
theorem decodeLayer_encodeLayer {i : LOp} (hwf : i.wf = true) :
    ∃ h ext, encodeLayer i = h :: ext ∧ bits h 55 54 = ext.length ∧ decodeLayer h ext = i := by
  cases i with
  | jump zv z x y =>
    obtain ⟨hz, hx, hy⟩ := LOp.wf_point hwf
    obtain ⟨hxe, hye⟩ := sbits_layerPoint hx hy
    have hu := ux_lt 24 z
    refine layerWords_of_head rfl rfl (by decide) (by unfold place; omega) fun w hw => ?_
    obtain ⟨hfree, hzv, hze⟩ := hw.point hz
    rw [decodeLayer_jump hw, hfree, hze, hzv, List.getD_cons_zero, hxe, hye]
    exact orBad_pos hz _
  | mark zv z x y =>
    obtain ⟨hz, hx, hy⟩ := LOp.wf_point hwf
    obtain ⟨hxe, hye⟩ := sbits_layerPoint hx hy
    have hu := ux_lt 24 z
    refine layerWords_of_head rfl rfl (by decide) (by unfold place; omega) fun w hw => ?_
    obtain ⟨hfree, hzv, hze⟩ := hw.point hz
    rw [decodeLayer_mark hw, hfree, hze, hzv, List.getD_cons_zero, hxe, hye]
    exact orBad_pos hz _
  | jumpr dx dy =>
    obtain ⟨hdx, hdy⟩ := Bool.and_eq_true_iff.1 hwf
    have huy := ux_lt 24 dy
    refine layerWords_of_head rfl rfl (by decide) (by unfold place; omega) fun w hw => ?_
    obtain ⟨hfree, hxe, hye⟩ := hw.pair hdx hdy
    rw [decodeLayer_jumpr hw, hfree, hxe, hye]
    exact orBad_pos hwf _
  | markr dx dy =>
    obtain ⟨hdx, hdy⟩ := Bool.and_eq_true_iff.1 hwf
    have huy := ux_lt 24 dy
    refine layerWords_of_head rfl rfl (by decide) (by unfold place; omega) fun w hw => ?_
    obtain ⟨hfree, hxe, hye⟩ := hw.pair hdx hdy
    rw [decodeLayer_markr hw, hfree, hxe, hye]
    exact orBad_pos hwf _
  | arc sw cx cy =>
    simp only [LOp.wf, Bool.and_eq_true, bne_iff_ne, decide_eq_true_eq] at hwf
    obtain ⟨⟨hne, hsw⟩, hx0, hx1, hy⟩ := hwf
    obtain ⟨hxe, hye⟩ := sbits_layerPoint ⟨hx0, hx1⟩ hy
    have hu := ux_lt 24 sw
    refine layerWords_of_head rfl rfl (by decide) (by omega) fun w hw => ?_
    have hse : sbits w 23 0 = sw := hw.signed (by decide) rfl (s24ok_iff.2 (by omega)) (by omega)
    have hfree : bits w 53 24 = 0 := hw.low (by decide) (by omega)
    rw [decodeLayer_arc hw, hfree, hse, List.getD_cons_zero, hxe, hye]
    exact orBad_pos (by simp [hne, hsw]) _
  | park x y =>
    obtain ⟨hx0, hx1, hy⟩ := of_decide_eq_true hwf
    obtain ⟨hxe, hye⟩ := sbits_layerPoint ⟨hx0, hx1⟩ hy
    refine layerWords_of_head rfl rfl (by decide) (by decide) fun w hw => ?_
    have hfree : bits w 53 0 = 0 := hw.low (by decide) rfl
    rw [decodeLayer_park hw, hfree, List.getD_cons_zero, hxe, hye]
    exact orBad_pos rfl _
  | speed j m =>
    obtain ⟨hj, hm⟩ := of_decide_eq_true hwf
    refine layerWords_of_head rfl rfl (by decide) (by unfold place; omega) fun w hw => ?_
    unfold place at hw
    have hje : bits w 47 32 = j := hw.low (by decide) (by omega)
    have hme : bits w 31 16 = m := hw.low (by decide) (by omega)
    have hfree : bits w 53 48 = 0 := hw.low (by decide) (by omega)
    have hzero : bits w 15 0 = 0 := hw.low (by decide) (by omega)
    rw [decodeLayer_speed hw, hfree, hzero, hje, hme]
    exact orBad_pos hwf _
  | power p =>
    have hp : p < 65536 := of_decide_eq_true hwf
    refine layerWords_of_head rfl rfl (by decide) (by omega) fun w hw => ?_
    have hpe : bits w 53 0 = p := hw.low (by decide) (by omega)
    rw [decodeLayer_power hw, hpe]
    exact orBad_pos hwf _
  | focus z =>
    have hu := ux_lt 24 z
    refine layerWords_of_head rfl rfl (by decide) (by omega) fun w hw => ?_
    have hze : sbits w 23 0 = z := hw.signed (by decide) rfl hwf (by omega)
    have hfree : bits w 53 24 = 0 := hw.low (by decide) (by omega)
    rw [decodeLayer_focus hw, hfree, hze]
    exact orBad_pos hwf _
  | ramp on off =>
    obtain ⟨hon, hoff⟩ := of_decide_eq_true hwf
    refine layerWords_of_head rfl rfl (by decide) (by unfold place; omega) fun w hw => ?_
    unfold place at hw
    have hone : bits w 31 16 = on := hw.low (by decide) (by omega)
    have hoffe : bits w 15 0 = off := hw.low (by decide) (by omega)
    have hfree : bits w 53 32 = 0 := hw.low (by decide) (by omega)
    rw [decodeLayer_ramp hw, hfree, hone, hoffe]
    exact orBad_pos rfl _
  | gate g =>
    obtain ⟨hpos, hg⟩ := of_decide_eq_true hwf
    refine layerWords_of_head rfl rfl (by decide) (by omega) fun w hw => ?_
    have hge : bits w 53 0 = g := hw.low (by decide) (by omega)
    rw [decodeLayer_gate hw, hge]
    exact orBad_pos hwf _
  | own k f =>
    have hf : f < 65536 := of_decide_eq_true hwf
    have hb := k.toNat_lt
    refine layerWords_of_head rfl rfl (by decide) (by unfold place; omega) fun w hw => ?_
    unfold place at hw
    have hke : bit w 48 = k := hw.flag (by decide) (by omega)
    have hfe : bits w 47 32 = f := hw.low (by decide) (by omega)
    have hfree : bits w 53 50 = 0 := hw.low (by decide) (by omega)
    have hzero : bits w 31 0 = 0 := hw.low (by decide) (by omega)
    have hown : bits w 49 48 = k.toNat := hw.low (by decide) (by omega)
    rw [decodeLayer_own hw, hfree, hzero, hown, hke, hfe]
    exact orBad_pos (decide_eq_true hb) _
  | part p =>
    have hp : p < 4294967296 := of_decide_eq_true hwf
    refine layerWords_of_head rfl rfl (by decide) (by omega) fun w hw => ?_
    have hpe : bits w 53 0 = p := hw.low (by decide) (by omega)
    have hfree : bits w 53 32 = 0 := hw.low (by decide) (by omega)
    rw [decodeLayer_part hw, hfree, hpe]
    exact orBad_pos rfl _
  | vid v =>
    have hv : v < 4294967296 := of_decide_eq_true hwf
    refine layerWords_of_head rfl rfl (by decide) (by omega) fun w hw => ?_
    have hve : bits w 53 0 = v := hw.low (by decide) (by omega)
    have hfree : bits w 53 32 = 0 := hw.low (by decide) (by omega)
    rw [decodeLayer_vid hw, hfree, hve]
    exact orBad_pos rfl _
  | nop =>
    refine layerWords_of_head rfl rfl (by decide) (by decide) fun w hw => ?_
    have hfree : bits w 53 0 = 0 := hw.low (by decide) rfl
    rw [decodeLayer_nop hw, hfree]
    exact orBad_pos rfl _
  | dwell t =>
    obtain ⟨hpos, ht⟩ := of_decide_eq_true hwf
    refine layerWords_of_head rfl rfl (by decide) (by omega) fun w hw => ?_
    have hte : bits w 53 0 = t := hw.low (by decide) (by omega)
    rw [decodeLayer_dwell hw, hte]
    exact orBad_pos hwf _
  | marker m =>
    have hm : m < 4294967296 := of_decide_eq_true hwf
    refine layerWords_of_head rfl rfl (by decide) (by omega) fun w hw => ?_
    have hme : bits w 53 0 = m := hw.low (by decide) (by omega)
    have hfree : bits w 53 32 = 0 := hw.low (by decide) (by omega)
    rw [decodeLayer_marker hw, hfree, hme]
    exact orBad_pos rfl _
  | lend =>
    refine layerWords_of_head rfl rfl (by decide) (by decide) fun w hw => ?_
    have hfree : bits w 53 0 = 0 := hw.low (by decide) rfl
    rw [decodeLayer_lend hw, hfree]
    exact orBad_pos rfl _
  | trig en p d e =>
    obtain ⟨hrange, hsched⟩ := Bool.and_eq_true_iff.1 hwf
    obtain ⟨hp, hd, he⟩ := of_decide_eq_true hrange
    have hb := en.toNat_lt
    refine layerWords_of_head rfl rfl (by decide) (by unfold place; omega) fun w hw => ?_
    unfold place at hw
    have hene : bit w 53 = en := hw.flag (by decide) (by omega)
    have hpe : bits w 47 24 = p := hw.low (by decide) (by omega)
    have hfree : bits w 52 48 = 0 := hw.low (by decide) (by omega)
    have hzero : bits w 23 0 = 0 := hw.low (by decide) (by omega)
    have hfree' : bits (wd (place d 24 32 + place e 16 0)) 63 56 = 0 := (bits_trigWord hd he 63 56).trans (by omega)
    have hzero' : bits (wd (place d 24 32 + place e 16 0)) 31 16 = 0 := (bits_trigWord hd he 31 16).trans (by omega)
    have hde : bits (wd (place d 24 32 + place e 16 0)) 55 32 = d := (bits_trigWord hd he 55 32).trans (by omega)
    have hee : bits (wd (place d 24 32 + place e 16 0)) 15 0 = e := (bits_trigWord hd he 15 0).trans (by omega)
    rw [decodeLayer_trig hw, List.getD_cons_zero, hfree, hzero, hfree', hzero', hene, hpe, hde, hee]
    exact orBad_pos hsched _
  | record l =>
    have hl : l < 4 := of_decide_eq_true hwf
    refine layerWords_of_head rfl rfl (by decide) (by omega) fun w hw => ?_
    have hle : bits w 53 0 = l := hw.low (by decide) (by omega)
    rw [decodeLayer_record hw, hle]
    exact orBad_pos hwf _
  | look b =>
    have hb := b.toNat_lt
    refine layerWords_of_head rfl rfl (by decide) (by omega) fun w hw => ?_
    have hle : bits w 53 0 = b.toNat := hw.low (by decide) (by omega)
    have hbe : bit w 0 = b := hw.flag (by decide) (by omega)
    rw [decodeLayer_look hw, hle, hbe]
    exact orBad_pos (decide_eq_true hb) _
  | bad => exact absurd hwf Bool.false_ne_true

/-- Settles O7: under each row of the opcode tables the head shows the row and each operand its field, so the words decode to the instruction. -/
theorem layerInstructionsDecodeTheirEncoding : Obligations.LayerInstructionsDecodeTheirEncoding := fun _ h => decodeLayer_encodeLayer h

end Sys2Proof.Machine
end

section
namespace Sys2Proof.Machine

open Sys2Proof

/-! ### What the ends of emission and of motion leave of a job (R144, R155, R158, R217) -/

theorem State.canonical_setPg {s : State} (n : Nat) (x : PgSt) (h : s.canonical = true) : (s.setPg n x).canonical = true :=
  (State.setPg_kept (Kept.refl s)).canon h

/-- From `a` to `s` the tables stay canonical, path generator `n` keeps its modal state, its notice's address and its JOB word, and no raise is lost. -/
structure KeepsJob (n : Nat) (a s : State) : Prop where
  canon : s.canonical = true
  modal : (s.pg n).modal = (a.pg n).modal
  notify : (s.pg n).notify = (a.pg n).notify
  job : s.word (PG.JOB.STATE.addr n) = a.word (PG.JOB.STATE.addr n)
  lines : ∀ r ∈ a.lines, r ∈ s.lines

namespace KeepsJob

variable {n : Nat} {a s t : State}

theorem refl (h : s.canonical = true) : KeepsJob n s s := ⟨h, rfl, rfl, rfl, fun _ => id⟩

theorem ite {c : Prop} [Decidable c] (h : KeepsJob n a s) (k : KeepsJob n a t) : KeepsJob n a (if c then s else t) := by
  split
  · exact h
  · exact k

theorem foldl {α : Type} {l : List α} {f : State → α → State} (h : KeepsJob n a s) (hf : ∀ u x, KeepsJob n a u → KeepsJob n a (f u x)) :
    KeepsJob n a (l.foldl f s) := by
  induction l generalizing s with
  | nil => exact h
  | cons x l ih => exact ih (hf s x h)

/-- An operation that touches neither control words, path generators nor raises. -/
theorem quiet (h : KeepsJob n a s) (k : Kept s t) (hcw : t.cw = s.cw) (hpgs : t.pgs = s.pgs) (hlines : t.lines = s.lines) : KeepsJob n a t where
  canon := k.canon h.canon
  modal := (congrArg PgSt.modal (State.pg_congr hpgs n)).trans h.modal
  notify := (congrArg PgSt.notify (State.pg_congr hpgs n)).trans h.notify
  job := (State.word_congr hcw _).trans h.job
  lines := fun r hr => hlines ▸ h.lines r hr

theorem setF {f : Fld} {i v : Nat} (h : KeepsJob n a s) (hf : f.stride % 64 = 0 ∧ f.base % 64 ≠ 0x18 := by decide) : KeepsJob n a (s.setF f i v) where
  canon := State.canonical_setF f i v h.canon
  modal := h.modal
  notify := h.notify
  job := by
    rw [State.word_setF h.canon, if_neg (Fld.addr_ne (f := PG.JOB.STATE) ⟨rfl, hf.1, fun e => hf.2 e.symm⟩), h.job]
  lines := h.lines

theorem setPg {m : Nat} {x : PgSt} (h : KeepsJob n a s) (hmodal : x.modal = (s.pg m).modal := by rfl)
    (hnotify : x.notify = (s.pg m).notify := by rfl) : KeepsJob n a (s.setPg m x) where
  canon := State.canonical_setPg m x h.canon
  modal := by
    rw [State.pg_setPg h.canon, ← h.modal]
    split
    · next e => rw [hmodal, e]
    · rfl
  notify := by
    rw [State.pg_setPg h.canon, ← h.notify]
    split
    · next e => rw [hnotify, e]
    · rfl
  job := h.job
  lines := h.lines

theorem raise {cls source unit src rtype : Nat} {d0 d1 : Word} (h : KeepsJob n a s) : KeepsJob n a (s.raise cls source unit src rtype d0 d1) :=
  ⟨(State.raise_kept (Kept.refl s)).canon h.canon, h.modal, h.notify, h.job, fun r hr => List.mem_append_left _ (h.lines r hr)⟩

theorem send {q : Token} (h : KeepsJob n a s) : KeepsJob n a (s.send q) := h.quiet (State.send_kept (Kept.refl s)) rfl rfl rfl

theorem setSets {l : List SharedSet} (h : KeepsJob n a s) : KeepsJob n a (s.setSets l) := h.quiet (State.setSets_kept (Kept.refl s)) rfl rfl rfl

theorem windowDone {m k : Nat} (h : KeepsJob n a s) : KeepsJob n a (s.windowDone m k) :=
  h.quiet (State.windowDone_kept (Kept.refl s)) (by simp [State.windowDone]) (by simp [State.windowDone]) (by simp [State.windowDone])

theorem queueRecord {m : Nat} {ws : List Word} (h : KeepsJob n a s) : KeepsJob n a (s.queueRecord m ws) :=
  .ite h.setPg h.setF.setF.raise

theorem closePart {m toff : Nat} {x : Int} {flags edge : Nat} (h : KeepsJob n a s) : KeepsJob n a (s.closePart m toff x flags edge) := by
  unfold State.closePart
  dsimp only
  split
  · exact h
  · exact .ite h.setPg.queueRecord h.setPg

theorem stopRamp {m : Nat} (h : KeepsJob n a s) : KeepsJob n a (s.stopRamp m) := by
  unfold State.stopRamp
  dsimp only
  split
  · exact h.setPg
  · exact h.setPg

theorem cancelLooks {m : Nat} (h : KeepsJob n a s) : KeepsJob n a (s.cancelLooks m) := by
  refine h.foldl fun u x hu => ?_
  split
  · exact .ite hu.setPg.setF.setF hu
  · exact hu

theorem windowTo {m k fuel : Nat} (h : KeepsJob n a s) : KeepsJob n a (s.windowTo m k fuel) := by
  induction fuel generalizing s with
  | zero => exact h
  | succ fuel ih => exact .ite h (ih h.windowDone.setF.setPg)

theorem leaveWindows {m : Nat} (h : KeepsJob n a s) : KeepsJob n a (s.leaveWindows m) := by
  unfold State.leaveWindows
  split
  · exact h
  · split
    · exact h.windowTo
    · exact h.windowTo

end KeepsJob

/-! ### Suspension (R149, R151, R155) -/

/-- A record that goes to the Dale loses no raise. -/
theorem State.lines_daleRecord {s : State} {r : Raise} (hr : r ∈ s.lines) (x : Raise) (real inj : Bool) : r ∈ (s.daleRecord x real inj).lines := by
  have hmirror : ∀ u ws, (State.mirrorRecord u ws).lines = u.lines := fun u ws => by
    obtain ⟨c, hc⟩ := State.mirrorRecord_eq u ws
    rw [hc]; rfl
  unfold State.daleRecord
  extract_lets ws lost d0 D E d1 k F
  have hD : r ∈ D.lines := by rw [hmirror]; exact hr
  split
  · have hE : E.lines = D.lines := by simp [E]
    split
    · exact List.mem_append_left _ (hE ▸ hD)
    · exact hE ▸ hD
  · simpa [F] using hD

/-- What a suspension of path generator `n` with a cause, an offset and a DIST leaves (R149, R151, R155): SUSP and SUSPV, the state, an empty plan,
and as the last token the notice that carries SUSP to the address ARM named. The flags of its JOB word stand, and no raise is lost. -/
structure Suspends (n cause ofs dist : Nat) (s t : State) : Prop where
  state : t.pgState n = pgSUSPENDED
  cause : t.f PG.SUSP.CAUSE n = cause % 16
  ofs : t.f PG.SUSP.OFS n = ofs % 2 ^ 32
  dist : t.f PG.SUSPV.DIST n = dist % 2 ^ 32
  items : (t.pg n).items = []
  pause : (t.pg n).pause = none
  under : t.f PG.JOB.UNDER n = s.f PG.JOB.UNDER n
  lines : ∀ r ∈ s.lines, r ∈ t.lines
  notice : ∃ u, t.net.getLast? = some u ∧ u.dest = BitVec.ofNat 10 (s.pg n).notify ∧ u.kind = 0#4 ∧ u.stream = 1#8 ∧
    u.payload = t.word (PG.SUSP.OFS.addr n)

/-- The words of a path generator lie outside the Dale, the event counters and the vault. -/
theorem blockOf_pgWord {f : Fld} {n : Nat} (hf : 0x100901000 ≤ f.base ∧ f.base < 0x100901200 ∧ f.stride = 0x200) (hn : n < 26) :
    blockOf (f.addr n) = 9 := by
  unfold blockOf Fld.addr
  rw [hf.2.2]
  omega

/-- SUSP, SUSPV and the state as a suspension writes them: no field overwrites another. -/
theorem State.suspension_words {s : State} (hs : s.canonical = true) (n cause ofs vid dist : Nat) :
    let t := ((((s.setF PG.SUSP.OFS n ofs).setF PG.SUSP.CAUSE n cause).setF PG.SUSPV.DIST n dist).setF PG.SUSPV.VID n vid).setPgState n pgSUSPENDED
    t.canonical = true ∧ t.pgState n = pgSUSPENDED ∧ t.f PG.SUSP.CAUSE n = cause % 16 ∧ t.f PG.SUSP.OFS n = ofs % 2 ^ 32 ∧
      t.f PG.SUSPV.DIST n = dist % 2 ^ 32 ∧ t.f PG.JOB.UNDER n = s.f PG.JOB.UNDER n := by
  have h1 := State.canonical_setF PG.SUSP.OFS n ofs hs
  have h2 := State.canonical_setF PG.SUSP.CAUSE n cause h1
  have h3 := State.canonical_setF PG.SUSPV.DIST n dist h2
  have h4 := State.canonical_setF PG.SUSPV.VID n vid h3
  unfold State.setPgState
  refine ⟨State.canonical_setF _ _ _ h4, State.f_setF_same h4 PG.JOB.STATE n pgSUSPENDED (by decide), ?_, ?_, ?_, ?_⟩
  · rw [State.f_setF_word h4 _ _ _ _ _ (Fld.addr_ne (by decide)), State.f_setF_word h3 _ _ _ _ _ (Fld.addr_ne (by decide)),
      State.f_setF_word h2 _ _ _ _ _ (Fld.addr_ne (by decide))]
    exact State.f_setF_same h1 _ _ _ (by decide)
  · rw [State.f_setF_word h4 _ _ _ _ _ (Fld.addr_ne (by decide)), State.f_setF_word h3 _ _ _ _ _ (Fld.addr_ne (by decide)),
      State.f_setF_word h2 _ _ _ _ _ (Fld.addr_ne (by decide)), State.f_setF_bits h1 _ _ _ _ _ (by decide) (by decide)]
    exact State.f_setF_same hs _ _ _ (by decide)
  · rw [State.f_setF_word h4 _ _ _ _ _ (Fld.addr_ne (by decide)), State.f_setF_bits h3 _ _ _ _ _ (by decide) (by decide)]
    exact State.f_setF_same h2 _ _ _ (by decide)
  · rw [State.f_setF_bits h4 _ _ _ _ _ (by decide) (by decide), State.f_setF_word h3 _ _ _ _ _ (Fld.addr_ne (by decide)),
      State.f_setF_word h2 _ _ _ _ _ (Fld.addr_ne (by decide)), State.f_setF_word h1 _ _ _ _ _ (Fld.addr_ne (by decide)),
      State.f_setF_word hs _ _ _ _ _ (Fld.addr_ne (by decide))]

theorem State.suspend_suspends {s : State} (hs : s.canonical = true) {n : Nat} (hn : n < 26) (cause ofs vid dist : Nat) (m : Modal) :
    Suspends n cause ofs dist s (s.suspend n cause ofs vid dist m) := by
  unfold State.suspend
  extract_lets A qA spent B C src q D E F G
  have hA : KeepsJob n s A := (KeepsJob.refl hs).leaveWindows
  have hB : KeepsJob n s B := hA.setSets
  have hC : KeepsJob n s C := hB.cancelLooks
  obtain ⟨hnotify, hitems, hpause⟩ : q.notify = (s.pg n).notify ∧ q.items = [] ∧ q.pause = none := by
    dsimp only [q, src]
    exact ⟨hC.notify, rfl, rfl⟩
  clear_value C q
  have hpgD : D.pg n = q := (State.pg_setPg hC.canon n n q).trans (if_pos rfl)
  have hunder : D.f PG.JOB.UNDER n = s.f PG.JOB.UNDER n := congrArg PG.JOB.UNDER.get hC.job
  have hlinesD : ∀ r ∈ s.lines, r ∈ D.lines := hC.lines
  have hD : D.canonical = true := State.canonical_setPg n q hC.canon
  clear_value D
  obtain ⟨hF, hstate, hcause, hofs, hdist, hunderF⟩ := State.suspension_words hD n cause ofs (if dist = 0 then 0 else vid) dist
  have hpgF : F.pg n = q := hpgD
  have hlinesF : ∀ r ∈ s.lines, r ∈ F.lines := hlinesD
  change F.canonical = true at hF
  change F.pgState n = _ at hstate
  change F.f _ n = _ at hcause hofs hdist hunderF
  clear_value F
  have hpg : G.pg n = q := (State.pg_congr (by simp [G]) n).trans hpgF
  have hword : ∀ f : Fld, 0x100901000 ≤ f.base ∧ f.base < 0x100901200 ∧ f.stride = 0x200 → G.f f n = F.f f n := fun f hf => by
    have hb := blockOf_pgWord hf hn
    exact State.f_record7 hF _ _ _ _ _ _ _ f n (by omega) (by omega) (by omega)
  have hlines : ∀ r ∈ s.lines, r ∈ G.lines := fun r hr => State.lines_daleRecord (hlinesF r hr) _ _ _
  clear_value G
  exact ⟨(hword PG.JOB.STATE (by decide)).trans hstate, (hword PG.SUSP.CAUSE (by decide)).trans hcause, (hword PG.SUSP.OFS (by decide)).trans hofs,
    (hword PG.SUSPV.DIST (by decide)).trans hdist, (congrArg PgSt.items hpg).trans hitems, (congrArg PgSt.pause hpg).trans hpause,
    (hword PG.JOB.UNDER (by decide)).trans (hunderF.trans hunder), hlines,
    ⟨_, List.getLast?_concat, congrArg (BitVec.ofNat 10) hnotify, rfl, rfl, rfl⟩⟩

/-! ### A job command at its path generator (R150) -/

section Arrival

variable {s : State} {n : Nat} {q : Token}

/-- The delivery of a token is counted in block 7, below the words of the path generators, the Saddle and the repair controller. -/
theorem State.f_deliver_above (hs : s.canonical = true) (ep : Nat) (q : Token) {f : Fld} (hf : 0x100800000 ≤ f.base) (i : Nat) :
    (s.deliver ep q).f f i = s.f f i := State.f_deliver hs ep q f i (by unfold blockOf Fld.addr; omega)

theorem State.pg_deliver (s : State) (ep : Nat) (q : Token) (m : Nat) : (s.deliver ep q).pg m = s.pg m := State.pg_congr (by simp) m

theorem State.pgState_deliver (hs : s.canonical = true) (ep : Nat) (q : Token) : (s.deliver ep q).pgState n = s.pgState n :=
  State.f_deliver_above hs ep q (by decide) n

theorem State.descr_deliver (hs : s.canonical = true) (ep : Nat) (q : Token) (k : Nat) : (s.deliver ep q).descr n k = s.descr n k := by
  have hbase : (s.deliver ep q).descrAddr n k = s.descrAddr n k := by
    unfold State.descrAddr
    rw [State.f_deliver_above hs ep q (by decide)]
  unfold State.descr
  rw [hbase]
  obtain ⟨c, hc⟩ := State.deliver_eq s ep q
  rw [hc]
  rfl

theorem State.readyDur_deliver (hs : s.canonical = true) (ep : Nat) (q : Token) (m : Nat) : ∀ k, (s.deliver ep q).readyDur n m k = s.readyDur n m k := by
  induction m with
  | zero => exact fun _ => rfl
  | succ m ih =>
    intro k
    unfold State.readyDur
    rw [ih]
    unfold State.ringSize
    rw [State.f_deliver_above hs ep q (by decide), State.descr_deliver hs]

theorem State.lead_deliver (hs : s.canonical = true) (ep : Nat) (q : Token) : (s.deliver ep q).lead n = s.lead n := by
  have hmt : (s.deliver ep q).mt = s.mt := by simp
  unfold State.lead State.remaining State.spent State.ringSize
  rw [State.readyDur_deliver hs, State.descr_deliver hs, State.f_deliver_above hs ep q (f := PG.WPOS.XIDX) (by decide),
    State.f_deliver_above hs ep q (f := PG.WRING.LOG2N) (by decide), State.pg_deliver, hmt]

theorem State.armAllowed_deliver (hs : s.canonical = true) (ep : Nat) (q : Token) : (s.deliver ep q).armAllowed n = s.armAllowed n := by
  have hf : ∀ f : Fld, 0x100800000 ≤ f.base → ∀ i, (s.deliver ep q).f f i = s.f f i := fun f hf => State.f_deliver_above hs ep q hf
  unfold State.armAllowed State.on State.pgServed State.soft State.fi
  simp only [State.pgState_deliver hs, State.pg_deliver, hf PG.TRK.EN (by decide), hf SADDLE.CFG.EN (by decide), hf SADDLEN.MAP.VALID (by decide),
    hf REPAIR.UNIT.ROLE (by decide), hf REPAIR.UNIT.STATE (by decide), hf PG.SOFTX.XMIN (by decide), hf PG.SOFTX.XMAX (by decide),
    hf PG.SOFTY.YMIN (by decide), hf PG.SOFTY.YMAX (by decide), hf PG.SOFTZ.ZMIN (by decide), hf PG.SOFTZ.ZMAX (by decide)]

/-- The conditions of R157 name the two that also refuse a barrier. -/
theorem State.resumeAllowed_eq (s : State) (n : Nat) : s.resumeAllowed n =
    (s.pgState n == pgSUSPENDED && !s.barrierBlocked && !s.on COL.STAT.FAULT (24 + n) && decide (40000 ≤ s.lead n)) := by
  unfold State.resumeAllowed State.barrierBlocked
  rw [Bool.not_or, Bool.and_assoc (s.pgState n == pgSUSPENDED)]

theorem State.resumeAllowed_deliver (hs : s.canonical = true) (hn : n < 26) (ep : Nat) (q : Token) :
    (s.deliver ep q).resumeAllowed n = s.resumeAllowed n := by
  have hblocked : (s.deliver ep q).barrierBlocked = s.barrierBlocked := barrierBlocked_arrived hs ep q 0
  have hfault : (s.deliver ep q).f COL.STAT.FAULT (24 + n) = s.f COL.STAT.FAULT (24 + n) :=
    State.f_deliver hs ep q _ _ (by simp only [blockOf, Fld.addr, COL.STAT.FAULT]; omega)
  rw [State.resumeAllowed_eq, State.resumeAllowed_eq, State.pgState_deliver hs, hblocked, State.lead_deliver hs]
  unfold State.on
  rw [hfault]

/-- A well-formed untimed job command acts as it arrives, by the row of its OP. -/
theorem pgRow_job {op : Nat} (h : JobToken s n op q) (hspeed : op = 3 → bits q.payload 15 0 ≤ 10000) :
    pgRow op n q s =
      (let u := s.deliver (pgEp n) q
       if op = 1 then pgArm n q.payload u else if op = 2 then pgPause n q.payload u else if op = 3 then pgResume n q.payload u
       else if op = 4 then pgAbort n u else pgDisarm n u) := by
  obtain ⟨_, hsrc, hkind, herr, htimed, hstream, hop, hformed⟩ := h
  have hone : s.deliverAll (pgEp n) [q] = s.deliver (pgEp n) q := rfl
  unfold pgRow pgCommand
  rw [if_neg (fun hne => hne.2.1 hop), State.arrive_open (show srcAllowed (pgEp n) q.src = true from hsrc), hone, hkind, herr, hstream, hformed, hop,
    State.whenDue_untimed htimed, if_neg (by decide), if_neg (by decide), if_neg (by decide), if_neg (fun hfast => by have := hspeed hfast.1; omega)]
  unfold pgCmdAct
  dsimp only
  rw [hop]

/-- A command the path generator does not permit is turned away as it arrives. -/
theorem pgRefused_turnedAway (hs : s.canonical = true) (n : Nat) (ep : Nat) (q : Token) : TurnedAway n s ((s.deliver ep q).pgRefused n) := by
  have hu : (s.deliver ep q).canonical = true := (State.deliver_kept (Kept.refl s)).canon hs
  have hlines : (s.deliver ep q).lines = s.lines := by simp
  exact ⟨(State.f_refused_pgRefused hu n n).trans (if_pos rfl), (State.pgState_pgRefused hu n n).trans (State.pgState_deliver hs ep q),
    State.pg_deliver s ep q n, _, congrArg (· ++ [_]) hlines, rfl, rfl⟩

end Arrival

/-! ### What each job command does to its path generator (R150, R154, R157, R158) -/

section Commands

variable {s : State} {n : Nat}

/-- LOCK_STOP touches no path generator, and no word but the AUX status. -/
theorem State.lockStop_quiet (hs : s.canonical = true) :
    (∀ (f : Fld) (i : Nat), f.stride % 64 = 0 ∧ f.base % 64 ≠ 0x30 → s.lockStop.f f i = s.f f i) ∧ (∀ m, s.lockStop.pg m = s.pg m) ∧
      s.lockStop.mt = s.mt := by
  refine ⟨fun f i hf => ?_, State.pg_congr (Same.lockStop (p := .pgs) (Same.refl .pgs s)).eq, (Same.lockStop (p := .mt) (Same.refl .mt s)).eq⟩
  exact congrArg f.get (Spares.lockStop (Spares.refl (f.addr i) s) (fun k => Fld.addr_ne (g := AUX.STAT.LOCKSTOP) ⟨hf.1, rfl, hf.2⟩) hs).2

theorem pgArm_arms (hs : s.canonical = true) (p : Word) (h : s.armAllowed n = true) :
    (pgArm n p s).pgState n = pgARMED ∧ (pgArm n p s).f PG.WPOS.RIDX n = 0 ∧ (pgArm n p s).f PG.WPOS.XIDX n = 0 ∧
    (pgArm n p s).f PG.JOBID.V n = bits p 31 0 ∧ ((pgArm n p s).pg n).notify = bits p 41 32 ∧ ((pgArm n p s).pg n).items = [] ∧
    ((pgArm n p s).pg n).modal.pwr = 0 ∧ (pgArm n p s).net = s.net := by
  have h1 : (s.setPgState n pgARMED).canonical = true := State.canonical_setF _ _ _ hs
  have h2 := State.canonical_setF PG.WPOS.RIDX n 0 h1
  have h3 := State.canonical_setF PG.WPOS.XIDX n 0 h2
  have h4 := State.canonical_setF PG.JOBID.V n (bits p 31 0) h3
  obtain ⟨x, hx, hnotify, hitems, hpwr⟩ : ∃ x : PgSt,
      pgArm n p s = ((((s.setPgState n pgARMED).setF PG.WPOS.RIDX n 0).setF PG.WPOS.XIDX n 0).setF PG.JOBID.V n (bits p 31 0)).setPg n x ∧
      x.notify = bits p 41 32 ∧ x.items = [] ∧ x.modal.pwr = 0 := by
    unfold pgArm
    rw [h]
    exact ⟨_, rfl, rfl, rfl, rfl⟩
  have hpg : (pgArm n p s).pg n = x := by rw [hx, State.pg_setPg h4, if_pos rfl]
  rw [hpg, hx]
  refine ⟨?_, ?_, ?_, ?_, hnotify, hitems, hpwr, rfl⟩
  · unfold State.pgState
    rw [State.f_past_setPg, State.f_setF_word h3 _ _ _ _ _ (Fld.addr_ne (by decide)), State.f_setF_word h2 _ _ _ _ _ (Fld.addr_ne (by decide)),
      State.f_setF_word h1 _ _ _ _ _ (Fld.addr_ne (by decide))]
    exact State.f_setF_same hs PG.JOB.STATE n pgARMED (by decide)
  · rw [State.f_past_setPg, State.f_setF_word h3 _ _ _ _ _ (Fld.addr_ne (by decide)), State.f_setF_bits h2 _ _ _ _ _ (by decide) (by decide)]
    exact State.f_setF_same h1 _ _ _ (by decide)
  · rw [State.f_past_setPg, State.f_setF_word h3 _ _ _ _ _ (Fld.addr_ne (by decide))]
    exact State.f_setF_same h2 _ _ _ (by decide)
  · rw [State.f_past_setPg, State.f_setF_same h3 _ _ _ (by decide)]
    exact Nat.mod_eq_of_lt (Nat.mod_lt _ (by decide))

theorem pgPause_pauses (hs : s.canonical = true) (p : Word) (h : s.pgState n = pgRUN) :
    (pgPause n p s).pgState n = pgPAUSING ∧ ((pgPause n p s).pg n).pause = some (bit p 0) := by
  have h1 : (s.setPgState n pgPAUSING).canonical = true := State.canonical_setF _ _ _ hs
  unfold pgPause
  rw [if_neg (not_not_intro h)]
  obtain ⟨hf, hpg, _⟩ := State.lockStop_quiet (State.canonical_setPg n { s.pg n with pause := some (bit p 0) } h1)
  refine ⟨(hf PG.JOB.STATE n (by decide)).trans ?_, ?_⟩
  · rw [State.f_past_setPg]
    exact State.f_setF_same hs PG.JOB.STATE n pgPAUSING (by decide)
  · rw [hpg, State.pg_setPg h1, if_pos rfl]

theorem pgResume_resumes (hs : s.canonical = true) (p : Word) (h : s.resumeAllowed n = true)
    (hofs : let d := s.descr n (s.f PG.WPOS.XIDX n)
      d.usable = true → d.offset ≤ s.f PG.SUSP.OFS n ∧ s.f PG.SUSP.OFS n < d.offset + d.len) :
    (pgResume n p s).pgState n = pgRESUMING ∧ (pgResume n p s).f PG.WPOS.RIDX n = s.f PG.WPOS.XIDX n ∧
    ((pgResume n p s).pg n).decOfs = s.f PG.SUSP.OFS n ∧ ((pgResume n p s).pg n).decEnd = false := by
  have h1 : (s.setPgState n pgRESUMING).canonical = true := State.canonical_setF _ _ _ hs
  have h2 := State.canonical_setF PG.WPOS.RIDX n (s.f PG.WPOS.XIDX n) h1
  obtain ⟨x, hx, hdecOfs, hdecEnd⟩ : ∃ x : PgSt,
      pgResume n p s = (((s.setPgState n pgRESUMING).setF PG.WPOS.RIDX n (s.f PG.WPOS.XIDX n)).setPg n x).lockStop ∧
      x.decOfs = s.f PG.SUSP.OFS n ∧ x.decEnd = false := by
    unfold pgResume
    rw [h]
    dsimp only
    rw [if_neg (by decide), if_neg (fun hbad => by have := hofs hbad.1; omega)]
    exact ⟨_, rfl, rfl, rfl⟩
  obtain ⟨hf, hpg, _⟩ := State.lockStop_quiet (State.canonical_setPg n x h2)
  have hpgx : (pgResume n p s).pg n = x := by rw [hx, hpg, State.pg_setPg h2, if_pos rfl]
  rw [hpgx, hx]
  refine ⟨(hf PG.JOB.STATE n (by decide)).trans ?_, (hf PG.WPOS.RIDX n (by decide)).trans ?_, hdecOfs, hdecEnd⟩
  · rw [State.f_past_setPg, State.f_setF_word h1 _ _ _ _ _ (Fld.addr_ne (by decide))]
    exact State.f_setF_same hs PG.JOB.STATE n pgRESUMING (by decide)
  · rw [State.f_past_setPg, State.f_setF_same h1 _ _ _ (by decide)]
    exact Nat.mod_eq_of_lt (Nat.mod_lt _ (by decide))

theorem pgAbort_aborts (hs : s.canonical = true) (h : s.pgState n ≠ pgIDLE) :
    (pgAbort n s).pgState n = pgABORTED ∧ ((pgAbort n s).pg n).items = [] ∧ ((pgAbort n s).pg n).gateHigh = false ∧
    ((pgAbort n s).pg n).sched = none ∧ ((pgAbort n s).pg n).pos = ⟨(s.pg n).modal.parkX, (s.pg n).modal.parkY, (s.pg n).modal.parkZ⟩ := by
  obtain ⟨u, x, hu, hx, hitems, hgate, hsched, hpos⟩ : ∃ (u : State) (x : PgSt), KeepsJob n s u ∧ pgAbort n s = (u.setPgState n pgABORTED).setPg n x ∧
      x.items = [] ∧ x.gateHigh = false ∧ x.sched = none ∧ x.pos = ⟨(u.pg n).modal.parkX, (u.pg n).modal.parkY, (u.pg n).modal.parkZ⟩ := by
    unfold pgAbort
    rw [if_neg h]
    refine ⟨_, _, ?_, rfl, rfl, rfl, rfl, rfl⟩
    exact (KeepsJob.ite (KeepsJob.refl hs).send.closePart (KeepsJob.refl hs)).stopRamp.setSets.cancelLooks
  have hu1 : (u.setPgState n pgABORTED).canonical = true := State.canonical_setF _ _ _ hu.canon
  have hpg : (pgAbort n s).pg n = x := by rw [hx, State.pg_setPg hu1, if_pos rfl]
  rw [hpg, hx, ← hu.modal]
  exact ⟨State.f_setF_same hu.canon PG.JOB.STATE n pgABORTED (by decide), hitems, hgate, hsched, hpos⟩

theorem pgDisarm_disarms (hs : s.canonical = true) (h : s.pgState n = pgENDED ∨ s.pgState n = pgABORTED) :
    (pgDisarm n s).pgState n = pgIDLE ∧ (pgDisarm n s).pg n = s.pg n := by
  unfold pgDisarm
  rw [if_pos h]
  exact ⟨State.f_setF_same hs PG.JOB.STATE n pgIDLE (by decide), rfl⟩

theorem resumeRun_runs (hs : s.canonical = true) {i : Item} {rest : List Item} (hst : s.pgState n = pgRESUMING) (hdist : s.f PG.SUSPV.DIST n = 0)
    (hitems : (s.pg n).items = i :: rest) :
    (resumeRun n s).pgState n = pgRUN ∧ (resumeRun n s).mt = max s.mt i.t0 ∧ (resumeRun n s).pg n = s.pg n := by
  have hr : (s.reach i.t0).canonical = true := (State.reach_kept (Kept.refl s)).canon hs
  have hrun : resumeRun n s = ((s.reach i.t0).setPgState n pgRUN).lockStop := by
    unfold resumeRun
    dsimp only
    rw [if_neg (not_not_intro hst), if_pos hdist, hitems]
    rfl
  obtain ⟨hf, hpg, hmt⟩ := State.lockStop_quiet (State.canonical_setF PG.JOB.STATE n pgRUN hr)
  rw [hrun]
  exact ⟨(hf PG.JOB.STATE n (by decide)).trans (State.f_setF_same hr PG.JOB.STATE n pgRUN (by decide)), hmt, hpg n⟩

/-! ### The pause point and the underrun (R25, R154) -/

theorem State.leaveVector_none (h : (s.pg n).cur = none) : s.leaveVector n = s := by
  unfold State.leaveVector
  rw [h]

/-- A pause of mode 0 between two vectors suspends at the next instruction. -/
theorem pausePoint_suspends (hs : s.canonical = true) (hn : n < 26) (hst : s.pgState n = pgPAUSING) (hmode : (s.pg n).pause = some false)
    (hhand : (s.pg n).inHandoff = false) (hcur : (s.pg n).cur = none) :
    Suspends n 1 (((s.pg n).items.head?.map (·.ofs)).getD (s.pg n).decOfs) 0 (s.reach (s.pg n).opEnd) (pausePoint n s) := by
  have hofs : (s.reach (s.pg n).opEnd).suspOfs n = ((s.pg n).items.head?.map (·.ofs)).getD (s.pg n).decOfs := by
    have hdone : (s.reach (s.pg n).opEnd).inProgress n = false := decide_eq_false (Nat.not_lt.2 (Nat.le_max_right s.mt _))
    have hpg : (s.reach (s.pg n).opEnd).pg n = s.pg n := rfl
    unfold State.suspOfs
    rw [hdone, if_neg (by decide), hpg]
    cases (s.pg n).items.head? <;> rfl
  have hleft : (s.reach (s.pg n).opEnd).leaveVector n = s.reach (s.pg n).opEnd := State.leaveVector_none hcur
  have hrun : pausePoint n s =
      (s.reach (s.pg n).opEnd).suspend n 1 (((s.pg n).items.head?.map (·.ofs)).getD (s.pg n).decOfs) 0 0 (s.pg n).modal := by
    unfold pausePoint
    dsimp only
    rw [hmode]
    dsimp only
    rw [if_neg (by simp [hst, hhand]), hcur]
    dsimp only
    rw [hofs, hleft]
    rfl
  rw [hrun]
  exact State.suspend_suspends (s := s.reach _) hs hn ..

/-- Execution that has run out of instructions and finds no READY descriptor suspends at the first unread instruction. -/
theorem underrun_suspends (hs : s.canonical = true) (hn : n < 26) (hrunning : s.pgRunning n = true) (hitems : (s.pg n).items = [])
    (hend : (s.pg n).decEnd = false) (hdescr : (s.descr n (s.f PG.WPOS.RIDX n)).usable = false) (hopen : (s.pg n).openVec = none) (hcur : (s.pg n).cur = none) :
    Suspends n 2 (s.pg n).decOfs 0 (((s.reach (max (s.pg n).opEnd (s.pg n).tEnd)).setF PG.JOB.UNDER n 1).severe 7 n (pgEp n)) (underrun n s) := by
  have hleft : (s.reach (max (s.pg n).opEnd (s.pg n).tEnd)).leaveVector n = s.reach (max (s.pg n).opEnd (s.pg n).tEnd) :=
    State.leaveVector_none hcur
  have hraised : (((s.reach (max (s.pg n).opEnd (s.pg n).tEnd)).setF PG.JOB.UNDER n 1).severe 7 n (pgEp n)).canonical = true :=
    (State.severe_kept (State.setF_kept (State.reach_kept (Kept.refl s)))).canon hs
  unfold underrun
  dsimp only
  rw [if_neg (by simp [hrunning, hitems, hend, hdescr, hopen]), hleft]
  exact State.suspend_suspends hraised hn ..

end Commands

/-- Settles O33: each command acts on the state its token's delivery leaves, which differs from the first in the network and the event counters alone;
what suspends, suspends in one and the same way. -/
theorem jobCommandsMoveTheState : Obligations.JobCommandsMoveTheState := by
  intro n s hs
  refine ⟨fun q => ?_, fun hst hmode hhand hcur hnotify => ?_, fun hrun hitems hend hdescr hopen hcur => ?_, fun i rest hst hdist hitems => ?_⟩
  · have hu : (s.deliver (pgEp n) q).canonical = true := (State.deliver_kept (Kept.refl s)).canon hs
    have hst := State.pgState_deliver (n := n) hs (pgEp n) q
    have hpg := State.pg_deliver s (pgEp n) q n
    have hturned := pgRefused_turnedAway hs n (pgEp n) q
    refine ⟨fun hq => ?_, fun hq => ?_, fun hq hspeed => ?_, fun hq => ?_, fun hq => ?_⟩
    · have hrun : exec (.arm n q) s = .next (pgArm n q.payload (s.deliver (pgEp n) q)) :=
        congrArg Host.Outcome.next (pgRow_job hq fun e => absurd e (by decide))
      have hcond := State.armAllowed_deliver (n := n) hs (pgEp n) q
      refine ⟨fun hok => ?_, fun hno => ⟨_, hrun.trans (congrArg Host.Outcome.next (if_pos (by rw [hcond, hno]; rfl))), hturned⟩⟩
      obtain ⟨hstate, hridx, hxidx, hjob, hnotify, hitems, hpwr, hnet⟩ := pgArm_arms hu q.payload (hcond.trans hok)
      exact ⟨_, hrun, hstate, hridx, hxidx, hjob, hnotify, hitems, hpwr, hnet.trans (State.deliver_net s (pgEp n) q)⟩
    · have hrun : exec (.pause n q) s = .next (pgPause n q.payload (s.deliver (pgEp n) q)) :=
        congrArg Host.Outcome.next (pgRow_job hq fun e => absurd e (by decide))
      exact ⟨fun hok => ⟨_, hrun, pgPause_pauses hu q.payload (hst.trans hok)⟩,
        fun hno => ⟨_, hrun.trans (congrArg Host.Outcome.next (if_pos (by rwa [hst]))), hturned⟩⟩
    · have hrun : exec (.resume n q) s = .next (pgResume n q.payload (s.deliver (pgEp n) q)) :=
        congrArg Host.Outcome.next (pgRow_job hq fun _ => hspeed)
      have hcond := State.resumeAllowed_deliver hs n.isLt (pgEp n) q
      have hxidx : (s.deliver (pgEp n) q).f PG.WPOS.XIDX n = s.f PG.WPOS.XIDX n := State.f_deliver_above hs _ q (by decide) n
      have hofs : (s.deliver (pgEp n) q).f PG.SUSP.OFS n = s.f PG.SUSP.OFS n := State.f_deliver_above hs _ q (by decide) n
      refine ⟨fun hok hin => ?_, fun hno => ⟨_, hrun.trans (congrArg Host.Outcome.next (if_pos (by rw [hcond, hno]; rfl))), hturned⟩⟩
      have hresumes := pgResume_resumes hu q.payload (hcond.trans hok) (by rw [hxidx, hofs, State.descr_deliver hs]; exact hin)
      rw [hxidx, hofs] at hresumes
      exact ⟨_, hrun, hresumes⟩
    · have hrun : exec (.abort n q) s = .next (pgAbort n (s.deliver (pgEp n) q)) :=
        congrArg Host.Outcome.next (pgRow_job hq fun e => absurd e (by decide))
      refine ⟨fun hok => ?_, fun hno => ⟨_, hrun.trans (congrArg Host.Outcome.next (if_pos (hst.trans hno))), hturned⟩⟩
      have haborts := pgAbort_aborts hu (by rwa [hst])
      rw [hpg] at haborts
      exact ⟨_, hrun, haborts⟩
    · have hrun : exec (.disarm n q) s = .next (pgDisarm n (s.deliver (pgEp n) q)) :=
        congrArg Host.Outcome.next (pgRow_job hq fun e => absurd e (by decide))
      refine ⟨fun hok => ?_, fun hne hna => ⟨_, hrun.trans (congrArg Host.Outcome.next (if_neg ?_)), hturned⟩⟩
      · have hdisarms := pgDisarm_disarms hu (by rwa [hst])
        rw [hpg] at hdisarms
        exact ⟨_, hrun, hdisarms⟩
      · rw [hst]
        exact not_or.2 ⟨hne, hna⟩
  · have hsusp := pausePoint_suspends hs n.isLt hst hmode hhand hcur
    obtain ⟨u, hlast, hdest, hkind, hstream, hpayload⟩ := hsusp.notice
    refine ⟨_, rfl, hsusp.state, hsusp.cause, hsusp.dist, hsusp.ofs, hsusp.items, hsusp.pause, u, hlast, ?_, hkind, hstream, hpayload⟩
    rw [hdest]
    exact (BitVec.toNat_ofNat ..).trans (Nat.mod_eq_of_lt hnotify)
  · have hsusp := underrun_suspends hs n.isLt hrun hitems hend hdescr hopen hcur
    have hunder : State.f _ PG.JOB.UNDER n = 1 := State.f_setF_same (s := s.reach (max (s.pg n).opEnd (s.pg n).tEnd)) hs PG.JOB.UNDER n 1 (by decide)
    exact ⟨_, rfl, hsusp.state, hsusp.under.trans hunder, hsusp.cause, hsusp.ofs, _,
      hsusp.lines _ (List.mem_append_right _ (List.mem_singleton_self _)), rfl, rfl⟩
  · exact ⟨_, rfl, resumeRun_runs hs hst hdist hitems⟩

end Sys2Proof.Machine
end

section
namespace Sys2Proof.Machine

open Sys2Proof

/-! ### A record written back as it is -/

/-- Writing a key's own value leaves a canonical table as it is. -/
theorem tset_tget_self {α : Type} [DecidableEq α] {d : Nat → α} : ∀ {t : List (Nat × α)} {lo : Nat} (i : Nat), twfFrom d lo t = true →
    tset d t i (tget d t i) = t
  | [], _, _, _ => if_pos rfl
  | (k, w) :: t, lo, i, h => by
    simp only [twfFrom, Bool.and_eq_true, decide_eq_true_eq] at h
    obtain ⟨⟨_, hw⟩, ht⟩ := h
    rcases Nat.lt_trichotomy i k with hi | rfl | hi
    · simp [tset, tget, hi, Nat.ne_of_lt hi]
    · simp [tset, tget, hw]
    · simp [tset, tget, Nat.not_lt_of_gt hi, Nat.ne_of_gt hi, tset_tget_self i ht]

theorem State.setPg_self {s : State} (hs : s.canonical = true) (n : Nat) : s.setPg n (s.pg n) = s := by
  have hpgs : twf (fun _ => ({} : PgSt)) s.pgs = true := by
    have := (State.canonical_iff s).1 hs
    tauto
  exact congrArg s.setPgs (tset_tget_self n hpgs)

theorem State.pg_setPg_same {s : State} (hs : s.canonical = true) (n : Nat) (x : PgSt) : (s.setPg n x).pg n = x :=
  (State.pg_setPg hs n n x).trans (if_pos rfl)

/-! ### What the decoder does with the next instruction (R131, R139, R144, R145, R160) -/

section Decoder

variable {s : State} {n : Nat}

theorem State.closeVec_none (hopen : (s.pg n).openVec = none) : s.closeVec n = s := by
  unfold State.closeVec
  dsimp only
  rw [hopen]

/-- A modal instruction moves nothing: it joins the plan with the modal state after it. -/
theorem State.planOp_modal {op : LOp} (hop : isModal op = true) (ofs : Nat) (lastWindow lastInstr : Bool) :
    s.planOp n ofs op lastWindow lastInstr =
      s.addItem n ofs op (s.pg n).pm (op.modal (s.pg n).pm) (s.pg n).pos none (s.pg n).tEnd (s.pg n).tEnd :=
  match op, hop with
  | .power _, _ | .focus _, _ | .ramp .., _ | .gate _, _ | .own .., _ | .part _, _ | .vid _, _ | .nop, _ | .trig .., _ | .record _, _ | .look _, _ => rfl

/-- The instruction joins the list of planned items as its last. -/
theorem State.addItem_pg (hs : s.canonical = true) (ofs : Nat) (op : LOp) (m0 m1 : Modal) (p0 : Pt) (v : Option PVec) (t0 t1 : Nat) :
    (s.addItem n ofs op m0 m1 p0 v t0 t1).pg n = { s.pg n with pm := m1, items := (s.pg n).items ++
      [{ ofs := ofs, win := s.f PG.WPOS.RIDX n, op := op, pmBefore := m0, pmAfter := m1, posBefore := p0, vec := v, t0 := t0, t1 := t1 }] } :=
  State.pg_setPg_same hs n _

/-- An instruction error ends decoding and stands in the plan as its last item. -/
theorem State.planError_pg (hs : s.canonical = true) (hopen : (s.pg n).openVec = none) (ofs : Nat) (op : LOp) :
    ((s.planError n ofs op).pg n).decEnd = true ∧
      ∃ i, ((s.planError n ofs op).pg n).items = (s.pg n).items ++ [i] ∧ i.ofs = ofs ∧ i.err = true := by
  unfold State.planError
  rw [State.closeVec_none hopen, State.pg_setPg_same hs]
  exact ⟨rfl, _, rfl, rfl, rfl⟩

/-- The decoder reads on: the path generator runs, and decoding has neither ended nor just come to a new window. -/
structure Decodes (n : Nat) (s : State) : Prop where
  run : s.pgRunning n = true
  going : (s.pg n).decEnd = false
  within : (s.pg n).decNew = false

/-- Descriptor `d` is the one decoded: READY, neither done nor poisoned, admitted by the checks of R145, and entered. -/
structure InWindow (n : Nat) (d : Descr) (s : State) : Prop where
  descr : s.descr n (s.f PG.WPOS.RIDX n) = d
  usable : d.usable = true
  undone : d.done = false
  good : s.windowBad n d = false
  entered : d.offset ≤ (s.pg n).decOfs

/-- Without a READY descriptor nothing is decoded. -/
theorem planStep_waits (hs : s.canonical = true) (h : Decodes n s) (hd : (s.descr n (s.f PG.WPOS.RIDX n)).usable = false)
    (hopen : (s.pg n).openVec = none) : planStep n s = s := by
  obtain ⟨hrun, hend, hnew⟩ := h
  simp [planStep, State.setPg_self hs, hrun, hend, hnew, hd, hopen]

/-- A window whose instructions are all decoded passes to the next one of the ring. -/
theorem planStep_usedUp {d : Descr} (hs : s.canonical = true) (h : Decodes n s) (hw : InWindow n d s)
    (hlen : d.len ≤ (s.pg n).decOfs - d.offset) (hlast : d.last = false) :
    planStep n s = (s.setF PG.WPOS.RIDX n ((s.f PG.WPOS.RIDX n + 1) % s.ringSize n)).setPg n { s.pg n with decNew := true } := by
  obtain ⟨hrun, hend, hnew⟩ := h
  obtain ⟨rfl, husable, hdone, hgood, hofs⟩ := hw
  simp [planStep, State.setPg_self hs, hrun, hend, hnew, husable, hdone, hgood, hofs, hlen, hlast]

/-- The words at the decoder's offset, all within the window and none poisoned, are planned as the instruction they spell. -/
theorem planStep_decodes {d : Descr} (hs : s.canonical = true) (h : Decodes n s) (hw : InWindow n d s) :
    let o := (s.pg n).decOfs - d.offset
    let m := bits (s.ld (d.addr + o)) 55 54
    o + 8 * (m + 1) ≤ d.len → s.anyUe (d.addr + o) (m + 1) = false →
      planStep n s = (s.setPg n { s.pg n with decOfs := (s.pg n).decOfs + 8 * (m + 1) }).planOp n (s.pg n).decOfs
        (decodeLayer (s.ld (d.addr + o)) (s.lds (d.addr + o + 8) m)) d.last (d.len == o + 8 * (m + 1)) := by
  obtain ⟨hrun, hend, hnew⟩ := h
  obtain ⟨rfl, husable, hdone, hgood, hofs⟩ := hw
  intro o m hfits hue
  have hmore : ¬ (s.descr n (s.f PG.WPOS.RIDX n)).len ≤ o := by omega
  unfold planStep
  extract_lets k d q0 q u o a w m ofs v
  have hq : q = s.pg n := if_neg fun e => Bool.false_ne_true (hnew.symm.trans e.1)
  have hu : s = u := by rw [← State.setPg_self hs n, ← hq]
  have hlds : v.lds (a + 8) m = u.lds (a + 8) m := State.lds_congr (s := u) (t := v) rfl ..
  clear_value u q
  subst hq hu
  rw [if_neg (by simp [hrun, hend]), if_neg (by simp [d, k, husable, hdone]), if_neg (by simp [d, k, hgood]), if_neg (Nat.not_lt.2 hofs),
    if_neg hmore, if_neg (not_or.2 ⟨Nat.not_lt.2 hfits, fun e => Bool.false_ne_true (hue.symm.trans e)⟩), hlds]

/-- A modal instruction joins the plan with the modal state after it. -/
theorem planStep_modal {d : Descr} (hs : s.canonical = true) (h : Decodes n s) (hw : InWindow n d s) :
    let o := (s.pg n).decOfs - d.offset
    let m := bits (s.ld (d.addr + o)) 55 54
    let op := decodeLayer (s.ld (d.addr + o)) (s.lds (d.addr + o + 8) m)
    o + 8 * (m + 1) ≤ d.len → s.anyUe (d.addr + o) (m + 1) = false → isModal op = true →
      ((planStep n s).pg n).decOfs = (s.pg n).decOfs + 8 * (m + 1) ∧ ((planStep n s).pg n).pm = op.modal (s.pg n).pm ∧
        ∃ i, ((planStep n s).pg n).items = (s.pg n).items ++ [i] ∧ i.ofs = (s.pg n).decOfs ∧ i.op = op ∧ i.err = false ∧
          i.pmAfter = op.modal (s.pg n).pm := by
  intro o m op hfits hue hop
  rw [planStep_decodes hs h hw hfits hue, State.planOp_modal hop, State.addItem_pg (State.canonical_setPg n _ hs), State.pg_setPg_same hs]
  exact ⟨rfl, rfl, _, rfl, rfl, rfl, rfl, rfl⟩

/-- Words that spell no instruction end decoding with an instruction error. -/
theorem planStep_bad {d : Descr} (hs : s.canonical = true) (h : Decodes n s) (hw : InWindow n d s) (hopen : (s.pg n).openVec = none) :
    let o := (s.pg n).decOfs - d.offset
    let m := bits (s.ld (d.addr + o)) 55 54
    o + 8 * (m + 1) ≤ d.len → s.anyUe (d.addr + o) (m + 1) = false →
      decodeLayer (s.ld (d.addr + o)) (s.lds (d.addr + o + 8) m) = .bad →
      ((planStep n s).pg n).decEnd = true ∧
        ∃ i, ((planStep n s).pg n).items = (s.pg n).items ++ [i] ∧ i.ofs = (s.pg n).decOfs ∧ i.err = true := by
  intro o m hfits hue hop
  have hpg := State.pg_setPg_same hs n { s.pg n with decOfs := (s.pg n).decOfs + 8 * (m + 1) }
  rw [planStep_decodes hs h hw hfits hue, hop]
  have herr := State.planError_pg (State.canonical_setPg n { s.pg n with decOfs := (s.pg n).decOfs + 8 * (m + 1) } hs) (n := n)
    (by rw [hpg]; exact hopen) (s.pg n).decOfs .bad
  rw [hpg] at herr
  exact herr

/-- The window that follows in the ring is read anew. -/
theorem planStep_passes {d : Descr} (hs : s.canonical = true) (h : Decodes n s) (hw : InWindow n d s)
    (hlen : d.len ≤ (s.pg n).decOfs - d.offset) (hlast : d.last = false) :
    (planStep n s).f PG.WPOS.RIDX n = (s.f PG.WPOS.RIDX n + 1) % s.ringSize n % 2 ^ 6 ∧ ((planStep n s).pg n).decNew = true ∧
      ((planStep n s).pg n).items = (s.pg n).items := by
  rw [planStep_usedUp hs h hw hlen hlast, State.pg_setPg_same (State.canonical_setF _ _ _ hs)]
  exact ⟨State.f_setF_same hs PG.WPOS.RIDX n _ (by decide), rfl, rfl⟩

end Decoder

/-! ### Fixing a segment, and the lead (R25, R146, R160, R161) -/

section Commit

variable {s : State} {n : Nat} {g : Seg} {rest : List Seg}

/-- A segment belongs to no chain, or to one the Saddle has decided. -/
theorem PgSt.ready_iff {q : PgSt} {g : Seg} : q.ready g = true ↔ g.chain = none ∨ ∃ k, g.chain = some k ∧ q.decided.contains k = true := by
  unfold PgSt.ready
  cases g.chain <;> simp

/-- A segment that may be fixed is fixed 2,000 µs before it starts. -/
theorem segmentCommit_fixes (hsegs : (s.pg n).segs = g :: rest) (hcom : g.com = false) (htrace : s.f PG.STRACE.EN n = 0)
    (hready : (s.pg n).ready g = true) (htime : s.mt + 2000000 ≤ g.t0) :
    segmentCommit n s = (s.reach (g.t0 - 2000000)).setPg n { s.pg n with segs := { g with com := true } :: rest } := by
  have hdue : s.mt ≤ g.t0 - 2000000 := by omega
  have hoff : ∀ (x : Nat) (q : PgSt), ((s.reach x).setPg n q).trace n g = (s.reach x).setPg n q := fun x q => if_neg (by
    rw [State.on_iff]; exact not_not_intro htrace)
  have hpg : (s.reach (g.t0 - 2000000)).pg n = s.pg n := rfl
  simp [segmentCommit, hsegs, hcom, hready, hdue, hpg, hoff]


/-- A segment whose chain is not decided by then is held. -/
theorem segmentCommit_holds (hsegs : (s.pg n).segs = g :: rest) (hcom : g.com = false) (hready : (s.pg n).ready g = false)
    (htime : g.t0 < s.mt + 2000000) :
    segmentCommit n s = ((s.setPg n ((s.pg n).delay g.t0 (s.mt + 2000000 - g.t0))).setF PG.STAT.HOLD n 1).info 7 n (pgEp n) := by
  simp [segmentCommit, hsegs, hcom, hready, htime]

/-- The LEAD word with the window lead and its least value. -/
def State.leadWritten (s : State) (n : Nat) : State :=
  let l := min (2 ^ 32 - 1) (s.lead n)
  (s.setF PG.LEAD.V n l).setF PG.LEAD.MIN n (min l (s.f PG.LEAD.MIN n))

theorem State.leadWritten_canonical (hs : s.canonical = true) : (s.leadWritten n).canonical = true :=
  State.canonical_setF _ _ _ (State.canonical_setF _ _ _ hs)

theorem State.leadWritten_v (hs : s.canonical = true) : (s.leadWritten n).f PG.LEAD.V n = min (2 ^ 32 - 1) (s.lead n) := by
  unfold State.leadWritten
  rw [State.f_setF_bits (State.canonical_setF _ _ _ hs) _ _ _ _ _ (by decide) (by decide), State.f_setF_same hs _ _ _ (by decide)]
  exact Nat.mod_eq_of_lt (lt_of_le_of_lt (min_le_left ..) (by decide))

theorem State.leadWritten_min (hs : s.canonical = true) :
    (s.leadWritten n).f PG.LEAD.MIN n = min (min (2 ^ 32 - 1) (s.lead n)) (s.f PG.LEAD.MIN n) := by
  unfold State.leadWritten
  rw [State.f_setF_same (State.canonical_setF _ _ _ hs) _ _ _ (by decide)]
  exact Nat.mod_eq_of_lt (lt_of_le_of_lt ((min_le_left ..).trans (min_le_left ..)) (by decide))

theorem State.leadWritten_pgState (hs : s.canonical = true) : (s.leadWritten n).pgState n = s.pgState n := by
  unfold State.leadWritten State.pgState
  rw [State.f_setF_word (State.canonical_setF _ _ _ hs) _ _ _ _ _ (Fld.addr_ne (by decide)), State.f_setF_word hs _ _ _ _ _ (Fld.addr_ne (by decide))]

/-- Judging the crossing leaves the LEAD word as written. -/
theorem leadUpdate_spares (s : State) (n : Nat) : Spares (PG.LEAD.V.addr n) (s.leadWritten n) (leadUpdate n s) := by
  have hjob : PG.LEAD.V.addr n ≠ PG.JOB.LOWLEAD.addr n := Fld.addr_ne (by decide)
  have hpg : ∀ x, Spares (PG.LEAD.V.addr n) (s.leadWritten n) ((s.leadWritten n).setPg n x) := fun x =>
    (Spares.refl _ _).quiet (State.setPg_kept (Kept.refl _)) rfl
  exact .ite (.ite (.quiet (.setF (hpg _) hjob) (State.warn_kept (Kept.refl _)) rfl) (hpg _)) (.refl _ _)

/-- LEAD takes the window lead, and MIN its least value. -/
theorem leadUpdate_lead (hs : s.canonical = true) :
    (leadUpdate n s).f PG.LEAD.V n = min (2 ^ 32 - 1) (s.lead n) ∧
      (leadUpdate n s).f PG.LEAD.MIN n = min (min (2 ^ 32 - 1) (s.lead n)) (s.f PG.LEAD.MIN n) := by
  obtain ⟨_, hword⟩ := leadUpdate_spares s n (State.leadWritten_canonical hs)
  exact ⟨(congrArg PG.LEAD.V.get hword).trans (State.leadWritten_v hs), (congrArg PG.LEAD.MIN.get hword).trans (State.leadWritten_min hs)⟩

/-- A lead that falls below 40,000 µs in RUN sets LOWLEAD with a warning. -/
theorem leadUpdate_crosses (hs : s.canonical = true) (hrun : s.pgState n = pgRUN) (hlow : s.lead n < 40000) (hcross : (s.pg n).lowCross = false) :
    (leadUpdate n s).f PG.JOB.LOWLEAD n = 1 ∧ ∃ r, (leadUpdate n s).lines = s.lines ++ [r] ∧ r.cls = 2 := by
  have hl : min (2 ^ 32 - 1) (s.lead n) < 40000 := lt_of_le_of_lt (min_le_right ..) hlow
  unfold leadUpdate
  extract_lets l u q low v
  have hu : u.pgState n = pgRUN := (State.leadWritten_pgState hs).trans hrun
  have hq : q.lowCross = false := hcross
  have hbelow : low = true := decide_eq_true hl
  have hv : v.canonical = true := State.canonical_setPg n _ (State.leadWritten_canonical hs)
  rw [if_pos hu, if_pos (by rw [hbelow, hq]; rfl), State.f_past_warn]
  exact ⟨State.f_setF_same hv PG.JOB.LOWLEAD n 1 (by decide), _, rfl, rfl⟩

/-- A lead of 40,000 µs or more raises nothing. -/
theorem leadUpdate_enough (h : 40000 ≤ s.lead n) : (leadUpdate n s).lines = s.lines := by
  have hl : ¬ min (2 ^ 32 - 1) (s.lead n) < 40000 := by omega
  unfold leadUpdate
  extract_lets l u q low v
  have hlow : low = false := decide_eq_false hl
  rw [hlow, Bool.false_and, if_neg Bool.false_ne_true]
  split
  · rfl
  · rfl

theorem leadUpdate_frame : (leadUpdate n s).mem = s.mem ∧ (leadUpdate n s).net = s.net := by
  unfold leadUpdate
  extract_lets l u q low v
  split
  · split
    · exact ⟨rfl, rfl⟩
    · exact ⟨rfl, rfl⟩
  · exact ⟨rfl, rfl⟩

end Commit

/-- Settles O32: PLAN and WINDOW_POLL are one step of the decoder, whose cases are those of the descriptor and of the instruction's words. -/
theorem planningReadsWindows : Obligations.PlanningReadsWindows := by
  intro n s hs hrun d a m op
  refine ⟨fun c hc hend hnew => ?_, fun g rest hsegs hcom htrace => ⟨fun hready htime => ?_, fun k hchain hdec htime => ?_⟩, ?_⟩
  · have hstep : exec c s = .next (planStep n s) := by
      rcases hc with rfl | rfl
      · rfl
      · rfl
    have hdec : Decodes n s := ⟨hrun, hend, hnew⟩
    refine ⟨fun husable hdone hgood hofs => ⟨fun hfits hue hopen => ⟨fun hop => ?_, fun hop => ?_⟩, fun hlen hlast => ?_⟩, fun hd hopen => ?_⟩
    · exact ⟨_, hstep, planStep_modal hs hdec ⟨rfl, husable, hdone, hgood, hofs⟩ hfits hue hop⟩
    · exact ⟨_, hstep, planStep_bad hs hdec ⟨rfl, husable, hdone, hgood, hofs⟩ hopen hfits hue hop⟩
    · exact ⟨_, hstep, planStep_passes hs hdec ⟨rfl, husable, hdone, hgood, hofs⟩ hlen hlast⟩
    · exact ⟨s, hstep.trans (congrArg Host.Outcome.next (planStep_waits hs hdec hd hopen)), rfl, rfl, fun _ => rfl⟩
  · refine ⟨_, congrArg Host.Outcome.next (segmentCommit_fixes hsegs hcom htrace (PgSt.ready_iff.2 hready) htime), ?_, ?_⟩
    · exact max_eq_right (by omega)
    · rw [State.pg_setPg_same (s := s.reach _) hs]
  · have hready : (s.pg n).ready g = false := by
      unfold PgSt.ready
      rw [hchain]
      exact hdec
    refine ⟨_, congrArg Host.Outcome.next (segmentCommit_holds hsegs hcom hready htime), ?_, ?_⟩
    · exact State.f_setF_same (State.canonical_setPg n _ hs) PG.STAT.HOLD n 1 (by decide)
    · exact State.pg_setPg_same hs n _
  · obtain ⟨hlead, hmin⟩ := leadUpdate_lead (n := n) hs
    obtain ⟨hmem, hnet⟩ := leadUpdate_frame (n := n) (s := s)
    exact ⟨_, rfl, hlead, hmin, leadUpdate_crosses hs, leadUpdate_enough, hmem, hnet⟩

end Sys2Proof.Machine
end

section
namespace Sys2Proof.Machine

open Sys2Proof

/-! ### Set-points (R174, R195) -/

section SetPoints

variable {s : State} {n : Nat}

/-- What a set-point token says: its loop, kind, instant and position. -/
def Token.setPoint (q : Token) : Nat × BitVec 4 × Bool × BitVec 48 × Word := (q.dest.toNat, q.kind, q.timed, q.time, q.payload)

/-- Each axis is sent its word, timed for the instant. -/
theorem State.sendSet_net (hn : n < 26) (tc : Nat) : ∀ {l : List (Nat × Word)} (s : State), (∀ p ∈ l, p.1 < 3) →
    ∃ ts, (s.sendSet n tc l).net = s.net ++ ts ∧ ts.map Token.setPoint = l.map fun p => (0x200 + 3 * n + p.1, 1#4, true, BitVec.ofNat 48 tc, p.2)
  | [], s, _ => ⟨[], (List.append_nil _).symm, rfl⟩
  | p :: l, s, h => by
    obtain ⟨ts, hnet, hts⟩ := sendSet_net hn tc (l := l) (s.send ((mkTok (pgEp n) (galvoEp n p.1) 1 0 p.2).at tc))
      fun x hx => h x (List.mem_cons_of_mem _ hx)
    have hax : p.1 < 3 := h p List.mem_cons_self
    have hdest : (BitVec.ofNat 10 (galvoEp n p.1)).toNat = 0x200 + 3 * n + p.1 :=
      (BitVec.toNat_ofNat ..).trans (Nat.mod_eq_of_lt (by unfold galvoEp; omega))
    refine ⟨_ :: ts, hnet.trans (List.append_assoc ..), ?_⟩
    rw [List.map_cons, List.map_cons, hts, ← hdest]
    rfl

theorem State.sendSet_fields (n tc : Nat) (l : List (Nat × Word)) (s : State) :
    (s.sendSet n tc l).cw = s.cw ∧ (s.sendSet n tc l).mt = s.mt ∧ (s.sendSet n tc l).pgs = s.pgs := by
  induction l generalizing s with
  | nil => exact ⟨rfl, rfl, rfl⟩
  | cons p l ih => exact ih (s.send _)

/-- Writing a path generator's record touches no word, no token and no instant. -/
theorem State.setPg_fields (s : State) (n : Nat) (x : PgSt) :
    (s.setPg n x).cw = s.cw ∧ (s.setPg n x).mt = s.mt ∧ (s.setPg n x).net = s.net ∧ (s.setPg n x).cols = s.cols := ⟨rfl, rfl, rfl, rfl⟩

/-- Reporting a set-point writes words alone, and a saturated axis raises besides. -/
theorem State.reported_keeps (u : State) (n : Nat) (x y z : Int) (saturated : Bool) :
    let v := ((u.setFi PG.SPXY.X n x).setFi PG.SPXY.Y n y).setFi PG.SPZ.Z n z
    let t := if saturated then (v.setF PG.STAT.LIMIT n 1).warn 7 n (pgEp n) else v
    t.mt = u.mt ∧ t.pgs = u.pgs ∧ t.net = u.net := by
  cases saturated
  · simp
  · simp

/-- A point that converts is sent as three set-points and remembered. -/
theorem State.setPoint_sends {tc : Nat} {p : PtK} {k : AxisCmd × AxisCmd × AxisCmd × Bool} (hs : s.canonical = true) (hconv : s.convert n p = some k) :
    ∃ t, s.setPoint n tc p = some t ∧ t.mt = s.mt ∧ (t.pg n).spSent = true ∧ (t.pg n).spLast = tc ∧ (t.pg n).trk = (s.pg n).trk ∧
      t.net = (s.sendSet n tc [(0, k.1.payload), (1, k.2.1.payload), (2, k.2.2.1.payload)]).net := by
  unfold State.setPoint
  split
  · next h => exact absurd (hconv.symm.trans h) (Option.some_ne_none k)
  · next c h =>
    obtain rfl : k = c := Option.some.inj (hconv.symm.trans h)
    extract_lets l r u src v w
    obtain ⟨_, hmt, hpgs⟩ := State.sendSet_fields n tc l s
    have hu : u.canonical = true := (State.sendSet_kept (Kept.refl s)).canon hs
    have htrk : (u.pg n).trk = (s.pg n).trk := congrArg PgSt.trk (State.pg_congr hpgs n)
    have hset : v.pg n = { u.pg n with lastSet := l, spSent := true, spLast := tc } := State.pg_setPg_same hu n _
    obtain ⟨_, hmtv, hnetv, _⟩ := State.setPg_fields u n { u.pg n with lastSet := l, spSent := true, spLast := tc }
    obtain ⟨hmtw, hpgsw, hnetw⟩ := State.reported_keeps v n r.x r.y r.z k.2.2.2
    refine ⟨_, rfl, hmtw.trans (hmtv.trans hmt), ?_, ?_, ?_, hnetw.trans hnetv⟩
    · rw [State.pg_congr hpgsw, hset]
    · rw [State.pg_congr hpgsw, hset]
    · rw [State.pg_congr hpgsw, hset]
      exact htrk

/-- At a cycle outside tracking and without a job the planned point, where it converts, is sent for its instant. -/
theorem interpolate_sends {t : State} (hvalid : s.f SADDLEN.MAP.VALID n = 1) (hperiod : s.servoPeriod ≠ 0) (htrk : s.tracking n = false)
    (hrun : s.pgRunning n = false) (hfrozen : (s.pg n).frozen = false)
    (hsend : (s.reach (s.nextCycle n - s.f PG.CFG.ILEAD n * 1000 - s.servoPeriod)).setPoint n (s.nextCycle n) ((s.pg n).planned (s.nextCycle n)) = some t) :
    interpolate n s = t := by
  have hon : s.on SADDLEN.MAP.VALID n = true := State.on_iff.2 (by rw [hvalid]; decide)
  unfold interpolate
  extract_lets tc u p v
  have hv : v = u := if_neg (fun e => Bool.false_ne_true (hrun.symm.trans e))
  have hsent : v.setPoint n tc p = some t := by rw [hv]; exact hsend
  rw [if_neg (by simp [hon, hperiod, htrk]), hsent, if_neg (by rw [hv]; exact fun e => Bool.false_ne_true (hfrozen.symm.trans e))]

end SetPoints

/-! ### Power targets (R175) -/

section Power

variable {s : State} {n x : Nat}

theorem powerTarget_same (hrun : s.pgRunning n = true) (h : s.powerAt n x = (s.pg n).lastPower) : powerTarget n x s = s := by
  simp [powerTarget, hrun, h]

/-- A target that differs from the last is sent, and is the last. -/
theorem powerTarget_sends (hrun : s.pgRunning n = true) (h : s.powerAt n x ≠ (s.pg n).lastPower) :
    powerTarget n x s = (s.send ((mkTok (pgEp n) (powerEp n) 1 0 (wd (place (s.powerAt n x) 16 0))).at ((x : Int) + (s.pg n).delta).toNat)).setPg n
      { s.pg n with lastPower := s.powerAt n x } := by
  simp [powerTarget, hrun, h]

theorem toNat_wd_place0 {v k : Nat} (hk : k ≤ 64) : (wd (place v k 0)).toNat = v % 2 ^ k := by
  unfold wd place
  rw [BitVec.toNat_ofNat, Nat.pow_zero, Nat.mul_one]
  exact Nat.mod_eq_of_lt (lt_of_lt_of_le (Nat.mod_lt _ (Nat.two_pow_pos k)) (Nat.pow_le_pow_right (by decide) hk))

end Power

/-! ### Encoder samples (R176, R256) -/

/-- A sample of X while none of Y waits is taken as the latest of its axis. -/
theorem gateSample_x {s : State} {n : Nat} {a b : Token} (hkind : a.kind = 0#4) (hsrc : a.src = 0xA#10) (hstream : a.stream = 5#8)
    (hax : bits a.payload 7 6 = 0) (hopen : srcAllowed (pgEp n) a.src = true) (hy : (s.pg n).sy = none) :
    gateSample n [a, b] s = (s.deliverAll (pgEp n) [a, b]).setPg n { s.pg n with
      sx := some ⟨fullTime s.mt (BitVec.ofNat 48 (bits a.payload 63 16)), bits b.payload 63 36, sbits b.payload 35 12⟩ } := by
  have hmt : (s.deliverAll (pgEp n) [a, b]).mt = s.mt := by simp
  have hpg : (s.deliverAll (pgEp n) [a, b]).pg n = s.pg n := State.pg_congr (by simp) n
  unfold gateSample
  rw [State.arrive_open hopen]
  generalize s.deliverAll (pgEp n) [a, b] = u at hmt hpg
  simp [hkind, hsrc, hstream, parseSample, hax, hmt, hpg, hy]

end Sys2Proof.Machine
end

section
namespace Sys2Proof.Machine

open Sys2Proof

/-! ### A gate edge whose sample is missing (R155, R177, R178, R501) -/

section Spared

variable {a n : Nat} {s t : State}

theorem Spares.setPg {m : Nat} {x : PgSt} (h : Spares a s t) : Spares a s (t.setPg m x) := h.quiet (State.setPg_kept (Kept.refl t)) rfl

theorem Spares.raise {cls source unit src rtype : Nat} {d0 d1 : Word} (h : Spares a s t) : Spares a s (t.raise cls source unit src rtype d0 d1) :=
  h.quiet (State.raise_kept (Kept.refl t)) rfl

theorem Spares.windowTo {k fuel : Nat} (h : Spares a s t) (hx : a ≠ PG.WPOS.XIDX.addr n) : Spares a s (t.windowTo n k fuel) := by
  induction fuel generalizing t with
  | zero => exact h
  | succ fuel ih =>
    have hdone : ∀ j, Spares a s (t.windowDone n j) := fun j => h.quiet (State.windowDone_kept (Kept.refl t)) (by simp [State.windowDone])
    exact .ite h (ih ((hdone _).setF hx).setPg)

theorem Spares.leaveWindows (h : Spares a s t) (hx : a ≠ PG.WPOS.XIDX.addr n) : Spares a s (t.leaveWindows n) := by
  unfold State.leaveWindows
  split
  · exact h
  · split
    · exact h.windowTo hx
    · exact h.windowTo hx

theorem Spares.cancelLooks (h : Spares a s t) (hcut : a ≠ SADDLE.STAT.LOOKCUT.addr 0) (hlook : ∀ m, a ≠ SADDLEN.HSTAT.LOOKING.addr m) :
    Spares a s (t.cancelLooks n) := by
  refine h.foldl fun u m hu => ?_
  split
  · exact .ite ((hu.setPg.setF hcut).setF (hlook m)) hu
  · exact hu

theorem Spares.stopRamp (h : Spares a s t) : Spares a s (t.stopRamp n) := by
  unfold State.stopRamp
  dsimp only
  split
  · exact h.setPg
  · exact h.setPg

theorem Spares.uncount (h : Spares a s t) : Spares a s (t.uncount n) := .ite h.setPg h

/-- A suspension writes WPOS, SUSP, SUSPV and JOB of its path generator, the looks it cuts, and a record. -/
theorem Spares.suspend {cause ofs vid dist : Nat} {m : Modal} (h : Spares a s t) (hb : blockOf a ∉ [6, 7, 26]) (hx : a ≠ PG.WPOS.XIDX.addr n)
    (hcut : a ≠ SADDLE.STAT.LOOKCUT.addr 0) (hlook : ∀ m, a ≠ SADDLEN.HSTAT.LOOKING.addr m) (hsusp : a ≠ PG.SUSP.OFS.addr n)
    (hsuspv : a ≠ PG.SUSPV.VID.addr n) (hjob : a ≠ PG.JOB.STATE.addr n) : Spares a s (t.suspend n cause ofs vid dist m) := by
  have hsets : ∀ {u : State} l, Spares a s u → Spares a s (u.setSets l) := fun l hu => hu.quiet (State.setSets_kept (Kept.refl _)) rfl
  have hleft := Spares.cancelLooks (n := n) (hsets ((t.leaveWindows n).sets.map fun x => x.reopen n (if dist = 0 then none else some vid) (t.leaveWindows n).mt)
    (h.leaveWindows hx)) hcut hlook
  exact .send (.record7 (.setF (.setF (.setF (.setF (.setF hleft.setPg hsusp) hsusp) hsuspv) hsuspv) hjob) hb)

end Spared

section Missing

variable {s : State} {n : Nat} {e : GateEdge} {rest : List GateEdge}

/-- A gate-on that is refused suspends at its vector with cause 0x6, and STAT.GATEREF stands. -/
theorem State.gateRefused_suspends (hs : s.canonical = true) (hn : n < 26) (v : PVec) :
    (s.gateRefused n v).f PG.STAT.GATEREF n = 1 ∧ ∃ u, Suspends n 6 v.ofs 0 u (s.gateRefused n v) := by
  have hstat : (s.setF PG.STAT.GATEREF n 1).canonical = true := State.canonical_setF _ _ _ hs
  have hblock : blockOf (PG.STAT.GATEREF.addr n) = 9 := blockOf_pgWord (by decide) hn
  have hx : PG.STAT.GATEREF.addr n ≠ PG.WPOS.XIDX.addr n := by simp only [Fld.addr, PG.STAT.GATEREF, PG.WPOS.XIDX]; omega
  have hramp : Spares (PG.STAT.GATEREF.addr n) (s.setF PG.STAT.GATEREF n 1)
      ((((s.setF PG.STAT.GATEREF n 1).severe 7 n (pgEp n)).uncount n).stopRamp n) := (Spares.refl _ _).raise.uncount.stopRamp
  obtain ⟨_, hword⟩ := (hramp.suspend (cause := 6) (ofs := v.ofs) (vid := 0) (dist := 0) (m := s.suspModal n) (by rw [hblock]; decide) hx
    (Fld.addr_ne (by decide)) (fun _ => Fld.addr_ne (by decide)) (Fld.addr_ne (by decide)) (Fld.addr_ne (by decide)) (Fld.addr_ne (by decide))) hstat
  exact ⟨(congrArg PG.STAT.GATEREF.get hword).trans (State.f_setF_same hs PG.STAT.GATEREF n 1 (by decide)), _,
    State.suspend_suspends (hramp hstat).1 hn ..⟩

variable (hrun : s.pgRunning n = true) (hedges : (s.pg n).edges = e :: rest) (hemit : (s.emitting n s.mt).isSome = false)
  (hdue : ((e.tPlan : Int) + (s.pg n).delta).toNat ≤ s.mt + s.f PG.GATE.GLEAD n)
include hrun hedges hemit hdue

theorem sampleMissing_gateOn (hkind : e.kind = 1) : sampleMissing n s = s.gateRefused n e.vec := by
  simp [sampleMissing, hrun, hedges, hemit, Nat.not_lt.2 hdue, hkind]

theorem sampleMissing_gateOff (hkind : e.kind = 0) : sampleMissing n s =
    (((s.gateOff n ((e.tPlan : Int) + (s.pg n).delta).toNat e.vec.vid).setPg n { s.pg n with edges := rest, gateHigh := false }).closePart n
      ((e.tPlan : Int) + (s.pg n).delta).toNat e.s 64 0).warn 7 n (pgEp n) := by
  simp [sampleMissing, hrun, hedges, hemit, Nat.not_lt.2 hdue, hkind]

end Missing

/-! ### The end of a part, and the gate's token (R63, R316) -/

section Parts

variable {s : State} {n : Nat}

theorem State.queueRecord_pg (hs : s.canonical = true) (ws : List Word) : ∃ rs, (s.queueRecord n ws).pg n = { s.pg n with recQ := rs } := by
  unfold State.queueRecord
  extract_lets q
  split
  · exact ⟨_, State.pg_setPg_same hs n _⟩
  · exact ⟨_, rfl⟩

/-- The end of a part forms its record; the rest of the path generator stands. -/
theorem State.closePart_pg (hs : s.canonical = true) (toff : Nat) (x : Int) (flags edge : Nat) :
    ∃ acc rs, (s.closePart n toff x flags edge).pg n = { s.pg n with acc := acc, recQ := rs } := by
  unfold State.closePart
  extract_lets q u
  have hu : u.canonical = true := State.canonical_setPg n _ hs
  have hpg : u.pg n = { s.pg n with acc := none } := State.pg_setPg_same hs n _
  split
  · exact ⟨_, _, rfl⟩
  · dsimp only
    split
    · obtain ⟨rs, hrs⟩ := State.queueRecord_pg (n := n) hu _
      exact ⟨none, rs, hrs.trans (by rw [hpg])⟩
    · exact ⟨none, _, hpg⟩

theorem State.closePart_net (toff : Nat) (x : Int) (flags edge : Nat) : (s.closePart n toff x flags edge).net = s.net := by
  have hrecord : ∀ (u : State) ws, (u.queueRecord n ws).net = u.net := fun u ws => by
    unfold State.queueRecord
    dsimp only
    split
    · rfl
    · simp
  unfold State.closePart
  dsimp only
  split
  · rfl
  · split
    · exact hrecord _ _
    · rfl

theorem pinAct_pinPayload_op (op fine1 fine2 width ident : Nat) : (pinAct (pinPayload op fine1 fine2 width ident)).op = op % 2 ^ 4 := by
  have h1 := Nat.mod_lt op (y := 2 ^ 4) (by decide)
  have h2 := Nat.mod_lt fine1 (y := 2 ^ 2) (by decide)
  have h3 := Nat.mod_lt fine2 (y := 2 ^ 2) (by decide)
  have h4 := Nat.mod_lt width (y := 2 ^ 24) (by decide)
  have h5 := Nat.mod_lt ident (y := 2 ^ 32) (by decide)
  show bits (pinPayload op fine1 fine2 width ident) 63 60 = _
  unfold pinPayload
  rw [bits_wd (by unfold place; omega)]
  unfold place
  omega

/-- The network carries a token with the seq its producer gives it. -/
theorem State.send_carries (s : State) (q : Token) : ∃ k, { q with seq := k } ∈ (s.send q).net :=
  ⟨_, List.mem_append_right _ (List.mem_singleton_self _)⟩

/-- The gate-off token of a planned instant: a pin action of OP 0 to the head's LGATE col at that instant. -/
theorem gateToken_off (hn : n < 26) (t vid : Nat) :
    (gateToken n 0 (4 * t) vid).kind = 14#4 ∧ (gateToken n 0 (4 * t) vid).dest.toNat = 0x318 + n ∧
      (pinAct (gateToken n 0 (4 * t) vid).payload).op = 0 ∧ (gateToken n 0 (4 * t) vid).time = BitVec.ofNat 48 t := by
  have hdest : (BitVec.ofNat 10 (lgateEp n)).toNat = 0x318 + n := by
    rw [BitVec.toNat_ofNat]
    unfold lgateEp
    omega
  exact ⟨rfl, hdest, pinAct_pinPayload_op 0 _ _ _ _, congrArg (BitVec.ofNat 48) (Nat.mul_div_cancel_left t (by decide))⟩

/-- A part that ends with a warning leaves the edges, the gate, the job and the tokens under way. -/
theorem State.closePart_warn_keeps (hs : s.canonical = true) (toff : Nat) (x : Int) (flags edge : Nat) :
    let u := (s.closePart n toff x flags edge).warn 7 n (pgEp n)
    (u.pg n).edges = (s.pg n).edges ∧ (u.pg n).gateHigh = (s.pg n).gateHigh ∧ u.pgState n = s.pgState n ∧ u.net = s.net := by
  obtain ⟨acc, rs, hpg⟩ := State.closePart_pg (n := n) hs toff x flags edge
  have hjob := ((KeepsJob.refl (n := n) hs).closePart (m := n) (toff := toff) (x := x) (flags := flags) (edge := edge)).job
  have hnet := State.closePart_net (s := s) (n := n) toff x flags edge
  generalize s.closePart n toff x flags edge = w at hpg hjob hnet
  have hwarn : (w.warn 7 n (pgEp n)).pgs = w.pgs ∧ (w.warn 7 n (pgEp n)).net = w.net := by simp
  dsimp only
  rw [State.pg_congr hwarn.1, hpg, hwarn.2, hnet]
  exact ⟨rfl, rfl, congrArg PG.JOB.STATE.get hjob, rfl⟩

/-- A gate-off at its planned instant: the edge is done, the gate low, the state as it was, and the token on its way. -/
theorem gateOff_released (hs : s.canonical = true) (hn : n < 26) (t vid : Nat) (rest : List GateEdge) (x : Int) (flags edge : Nat) :
    let u := (((s.gateOff n t vid).setPg n { s.pg n with edges := rest, gateHigh := false }).closePart n t x flags edge).warn 7 n (pgEp n)
    (u.pg n).edges = rest ∧ (u.pg n).gateHigh = false ∧ u.pgState n = s.pgState n ∧
      ∃ q, q ∈ u.net ∧ q.kind = 14#4 ∧ q.dest.toNat = 0x318 + n ∧ (pinAct q.payload).op = 0 ∧ q.time = BitVec.ofNat 48 t := by
  have hsent : (s.gateOff n t vid).canonical = true := (State.gateOff_kept (Kept.refl s)).canon hs
  have hpg := State.pg_setPg_same hsent n { s.pg n with edges := rest, gateHigh := false }
  obtain ⟨hedges, hgate, hstate, hnet⟩ := State.closePart_warn_keeps (n := n)
    (State.canonical_setPg n { s.pg n with edges := rest, gateHigh := false } hsent) t x flags edge
  rw [hpg] at hedges hgate
  obtain ⟨k, hsends⟩ := State.send_carries s (gateToken n 0 (4 * t) vid)
  exact ⟨hedges, hgate, hstate, { gateToken n 0 (4 * t) vid with seq := k }, by rw [hnet]; exact hsends, gateToken_off hn t vid⟩

end Parts

end Sys2Proof.Machine
end

section
namespace Sys2Proof.Machine

open Sys2Proof

/-! ### Tracking: the axes of a path generator (R181–R185) -/

section Axes

variable {s t u : State} {n ax bx : Nat}

/-- The entry of a tracked axis. -/
def State.trkEntry (s : State) (n ax : Nat) : Option (Nat × TrkAxis) := (s.pg n).trk.find? fun p => p.1 == ax

theorem State.trkEntry_congr (h : (t.pg n).trk = (s.pg n).trk) : t.trkEntry n ax = s.trkEntry n ax := by
  unfold State.trkEntry
  rw [h]

/-- A tracked axis is its entry. -/
theorem State.trkAxis_of_entry {p : Nat × TrkAxis} (h : s.trkEntry n ax = some p) : s.trkAxis n ax = p.2 := by
  unfold State.trkEntry at h
  unfold State.trkAxis
  rw [h]

theorem State.trkEntry_setTrk (hs : s.canonical = true) (x : TrkAxis) :
    (s.setTrk n ax x).trkEntry n bx = if bx = ax then some (ax, x) else s.trkEntry n bx := by
  unfold State.trkEntry State.setTrk
  dsimp only
  rw [State.pg_setPg_same hs, List.find?_cons]
  split
  · next h =>
    rw [if_pos]
    exact (beq_iff_eq.1 h).symm
  · next h =>
    have hne : bx ≠ ax := fun e => by simp [e] at h
    rw [if_neg hne, List.find?_filter]
    congr 1
    funext p
    by_cases hp : p.1 = bx
    · simp [hp, hne]
    · simp [hp]

/-! ### What an axis' step reads -/

/-- From `s` to `t` no word of path generator `n` but STAT has changed, nor have the schedules. -/
structure SameLimits (n : Nat) (s t : State) : Prop where
  canon : t.canonical = true
  cols : t.cols = s.cols
  fields : ∀ f : Fld, f.stride = 0x200 → f.base ≠ PG.STAT.SOFT.base → t.f f n = s.f f n

theorem SameLimits.trans (h : SameLimits n s t) (k : SameLimits n t u) : SameLimits n s u :=
  ⟨k.canon, k.cols.trans h.cols, fun f h1 h2 => (k.fields f h1 h2).trans (h.fields f h1 h2)⟩

namespace SameLimits

variable (h : SameLimits n s t)
include h

theorem fi (f : Fld) (hf : f.stride = 0x200 ∧ f.base ≠ PG.STAT.SOFT.base) : t.fi f n = s.fi f n := by
  unfold State.fi
  rw [h.fields f hf.1 hf.2]

theorem servoPeriod : t.servoPeriod = s.servoPeriod := by
  unfold State.servoPeriod
  rw [State.col_congr h.cols]

theorem trkLimits : t.trkLimits n ax = s.trkLimits n ax := by
  unfold State.trkLimits
  rw [h.fields PG.LIMZ.VZ rfl (by decide), h.fields PG.LIMZ.AZ rfl (by decide), h.fields PG.LIMZ.JZ rfl (by decide),
    h.fields PG.LIMV.VJUMP rfl (by decide), h.fields PG.LIMV.AMAX rfl (by decide), h.fields PG.LIMV.JMAX rfl (by decide)]

theorem soft : t.soft n ax = s.soft n ax := by
  unfold State.soft
  rw [h.fi PG.SOFTX.XMIN (by decide), h.fi PG.SOFTX.XMAX (by decide), h.fi PG.SOFTY.YMIN (by decide), h.fi PG.SOFTY.YMAX (by decide),
    h.fi PG.SOFTZ.ZMIN (by decide), h.fi PG.SOFTZ.ZMAX (by decide)]

theorem trkStep (x : TrkAxis) : t.trkStep n ax x = s.trkStep n ax x := by
  unfold State.trkStep
  rw [h.servoPeriod, h.trkLimits, h.soft, h.fields PG.LIMR.AEMG rfl (by decide)]

theorem trkApplyLimits (x : TrkAxis) : t.trkApplyLimits n ax x = s.trkApplyLimits n ax x := by
  unfold State.trkApplyLimits
  rw [h.trkLimits]

theorem trkAxis (he : t.trkEntry n ax = s.trkEntry n ax) : t.trkAxis n ax = s.trkAxis n ax := by
  unfold State.trkEntry at he
  unfold State.trkAxis
  rw [he, h.fi PG.SPXY.X (by decide), h.fi PG.SPXY.Y (by decide), h.fi PG.SPZ.Z (by decide), h.fields PG.LIMZ.AZ rfl (by decide),
    h.fields PG.LIMZ.JZ rfl (by decide), h.fields PG.LIMV.AMAX rfl (by decide), h.fields PG.LIMV.JMAX rfl (by decide)]

end SameLimits

/-- The axis one servo cycle later. -/
def State.trkNext (s : State) (n ax : Nat) : TrkAxis := (s.trkStep n ax (s.trkApplyLimits n ax (s.trkAxis n ax))).1

theorem SameLimits.trkNext (h : SameLimits n s t) (he : t.trkEntry n ax = s.trkEntry n ax) : t.trkNext n ax = s.trkNext n ax := by
  unfold State.trkNext
  rw [h.trkStep, h.trkApplyLimits, h.trkAxis he]

/-! ### One axis moves on (R182) -/

/-- An advance writes STAT alone of the words. -/
theorem Spares.trkAdvance {a : Nat} (h : Spares a s t) (ha : a ≠ PG.STAT.SOFT.addr n) : Spares a s (t.trkAdvance n ax) := by
  have hset : ∀ x, Spares a s (t.setTrk n ax x) := fun x => h.setPg
  unfold State.trkAdvance
  extract_lets x r u v
  have hv : Spares a s v := .ite ((hset _).setF ha) (hset _)
  exact .ite (.raise (.setF hv ha)) (.ite (.raise (.setF hv ha)) hv)

/-- What an advance leaves beside words: the axis' entry, and neither a schedule nor an instant. -/
theorem State.trkAdvance_fields (s : State) (n ax : Nat) :
    (s.trkAdvance n ax).cols = s.cols ∧ (s.trkAdvance n ax).mt = s.mt ∧ (s.trkAdvance n ax).pgs = (s.setTrk n ax (s.trkNext n ax)).pgs := by
  unfold State.trkAdvance
  extract_lets x r u v
  have hu : u.cols = s.cols ∧ u.mt = s.mt ∧ u.pgs = (s.setTrk n ax (s.trkNext n ax)).pgs := ⟨rfl, rfl, rfl⟩
  have hv : v.cols = u.cols ∧ v.mt = u.mt ∧ v.pgs = u.pgs := by
    unfold v
    split
    · simp
    · simp
  obtain ⟨hcols, hmt, hpgs⟩ := hu
  obtain ⟨hcols', hmt', hpgs'⟩ := hv
  rw [← hcols, ← hmt, ← hpgs, ← hcols', ← hmt', ← hpgs']
  split
  · simp
  · split
    · simp
    · simp

theorem sameLimits_trkAdvance (hs : s.canonical = true) : SameLimits n s (s.trkAdvance n ax) where
  canon := (State.trkAdvance_kept (Kept.refl s)).canon hs
  cols := (State.trkAdvance_fields s n ax).1
  fields f hstride hbase := by
    have hne : f.addr n ≠ PG.STAT.SOFT.addr n := by
      unfold Fld.addr
      rw [hstride]
      exact fun e => hbase (Nat.add_right_cancel e)
    exact congrArg f.get (((Spares.refl _ s).trkAdvance hne) hs).2

theorem State.trkEntry_trkAdvance (hs : s.canonical = true) :
    (s.trkAdvance n ax).trkEntry n bx = if bx = ax then some (ax, s.trkNext n ax) else s.trkEntry n bx :=
  (State.trkEntry_congr (congrArg PgSt.trk (State.pg_congr (State.trkAdvance_fields s n ax).2.2 n))).trans (State.trkEntry_setTrk hs _)

/-- A servo cycle moves each axis on by its own step: no axis' step reads another's. -/
theorem State.trkEntry_cycle (hs : s.canonical = true) (hax : ax < 3) :
    (((s.trkAdvance n 0).trkAdvance n 1).trkAdvance n 2).trkEntry n ax = some (ax, s.trkNext n ax) := by
  have h0 : SameLimits n s (s.trkAdvance n 0) := sameLimits_trkAdvance hs
  have h1 : SameLimits n s ((s.trkAdvance n 0).trkAdvance n 1) := h0.trans (sameLimits_trkAdvance h0.canon)
  have e0 : ∀ bx, (s.trkAdvance n 0).trkEntry n bx = _ := fun bx => State.trkEntry_trkAdvance hs
  have e1 : ∀ bx, ((s.trkAdvance n 0).trkAdvance n 1).trkEntry n bx = _ := fun bx => State.trkEntry_trkAdvance h0.canon
  rw [State.trkEntry_trkAdvance h1.canon]
  obtain rfl | rfl | rfl : ax = 0 ∨ ax = 1 ∨ ax = 2 := by omega
  · rw [if_neg (by decide), e1, if_neg (by decide), e0, if_pos rfl]
  · rw [if_neg (by decide), e1, if_pos rfl, h0.trkNext (by rw [e0, if_neg (by decide)])]
  · rw [if_pos rfl, h1.trkNext (by rw [e1, if_neg (by decide), e0, if_neg (by decide)])]

/-- A cycle of the three axes writes no word but STAT. -/
theorem sameLimits_cycle (hs : s.canonical = true) : SameLimits n s (((s.trkAdvance n 0).trkAdvance n 1).trkAdvance n 2) :=
  have h0 := sameLimits_trkAdvance (n := n) (ax := 0) hs
  have h1 := sameLimits_trkAdvance (n := n) (ax := 1) h0.canon
  (h0.trans h1).trans (sameLimits_trkAdvance h1.canon)

theorem State.mt_cycle (s : State) (n : Nat) : (((s.trkAdvance n 0).trkAdvance n 1).trkAdvance n 2).mt = s.mt :=
  (State.trkAdvance_fields _ n 2).2.1.trans ((State.trkAdvance_fields _ n 1).2.1.trans (State.trkAdvance_fields s n 0).2.1)

end Axes

end Sys2Proof.Machine
end

section
namespace Sys2Proof.Machine

open Sys2Proof

/-! ### Tracking targets (R181, R183, R184) -/

section Targets

variable {s : State} {n ax : Nat} {q : Token}

/-- A target is clamped to the axis' bounds; one that the bounds change sets STAT.SOFT. -/
theorem State.setTarget_takes (hs : s.canonical = true) (v : Int) :
    ((s.setTarget n ax v).trkAxis n ax).target = clamp (s.trkBounds n ax).1 (s.trkBounds n ax).2 v ∧
      (clamp (s.trkBounds n ax).1 (s.trkBounds n ax).2 v ≠ v → (s.setTarget n ax v).f PG.STAT.SOFT n = 1) := by
  unfold State.setTarget
  extract_lets b g u x lim far w
  have hu : u.canonical = true := (Kept.ite (State.setF_kept (Kept.refl s)) (Kept.refl s)).canon hs
  have hw : w.canonical = true := State.canonical_setPg n _ hu
  have hentry : w.trkEntry n ax = some (ax, { x with target := g }) := (State.trkEntry_setTrk hu _).trans (if_pos rfl)
  have hsoft : g ≠ v → w.f PG.STAT.SOFT n = 1 := fun hne => by
    have hset : u = s.setF PG.STAT.SOFT n 1 := if_pos hne
    exact (State.f_past_setPg ..).trans (by rw [hset, State.f_setF_same hs _ _ _ (by decide)]; rfl)
  clear_value w
  split
  · have hpgs : ((w.setF PG.STAT.LIMIT n 1).incF PG.LIMCNT.LIMITS n).pgs = w.pgs := by simp
    have hf : ((w.setF PG.STAT.LIMIT n 1).incF PG.LIMCNT.LIMITS n).f PG.STAT.SOFT n = w.f PG.STAT.SOFT n :=
      (State.f_setF_word (State.canonical_setF _ _ _ hw) _ _ _ _ _ (Fld.addr_ne (by decide))).trans
        (State.f_setF_bits hw _ _ _ _ _ (by decide) (by decide))
    rw [State.trkAxis_of_entry ((State.trkEntry_congr (congrArg PgSt.trk (State.pg_congr hpgs n))).trans hentry), hf]
    exact ⟨rfl, hsoft⟩
  · rw [State.trkAxis_of_entry hentry]
    exact ⟨rfl, hsoft⟩

/-- An untimed tracking token acts as it arrives. -/
theorem trackingTarget_untimed (hopen : srcAllowed (pgEp n) q.src = true) (hkind : q.kind = 1#4) (htimed : q.timed = false) :
    trackingTarget n q s = trackingAct n q (s.deliver (pgEp n) q) := by
  unfold trackingTarget
  rw [State.arrive_open hopen, if_neg (not_not_intro hkind), State.whenDue_untimed htimed]
  rfl

/-- Z is a target of stream 3 in IDLE while TRK.EN is 1. -/
theorem trackingAct_z (hstream : q.stream = 3#8) (hst : s.pgState n = pgIDLE) (hen : s.f PG.TRK.EN n = 1) :
    trackingAct n q s = s.setTarget n 2 (sbits q.payload 31 0) := by
  have hon : s.on PG.TRK.EN n = true := State.on_iff.2 (by rw [hen]; decide)
  simp [trackingAct, hstream, hst, hon]

/-- Elsewhere it is discarded with STAT.TREF. -/
theorem trackingAct_discards (hstream : q.stream = 3#8) (hst : s.pgState n ≠ pgIDLE) :
    trackingAct n q s = (s.setF PG.STAT.TREF n 1).info 7 n (pgEp n) := by
  simp [trackingAct, hstream, hst]

theorem State.trkBounds_z (s : State) (n : Nat) : s.trkBounds n 2 = s.soft n 2 := by
  simp [State.trkBounds]

theorem State.soft_deliver (hs : s.canonical = true) (ep : Nat) (q : Token) : (s.deliver ep q).soft n 2 = s.soft n 2 := by
  have hf : ∀ f : Fld, 0x100800000 ≤ f.base → (s.deliver ep q).f f n = s.f f n := fun f hb => State.f_deliver_above hs ep q hb n
  unfold State.soft State.fi
  rw [if_neg (by decide), if_neg (by decide), if_neg (by decide), if_neg (by decide), hf PG.SOFTZ.ZMIN (by decide), hf PG.SOFTZ.ZMAX (by decide)]

end Targets

/-! ### A tracking cycle (R182, R185, R191, R195) -/

section Cycle

variable {s : State} {n tc : Nat}

theorem State.pgRunning_idle (h : s.pgState n = pgIDLE) : s.pgRunning n = false := by
  unfold State.pgRunning
  rw [h]
  rfl

theorem State.suspendNow_idle (h : s.pgRunning n = false) (cause stop : Nat) : s.suspendNow n cause stop = s := by
  unfold State.suspendNow
  rw [h]
  rfl

/-- From `s` to `t` the set-point of instant `tc` has been the matter: no time passes, it is the last sent, and the tracked axes stand. -/
structure CycleSent (n tc : Nat) (s t : State) : Prop where
  mt : t.mt = s.mt
  last : (t.pg n).spLast = tc
  trk : (t.pg n).trk = (s.pg n).trk

theorem State.setPoint_cycleSent {p : PtK} {t : State} (hs : s.canonical = true) (h : s.setPoint n tc p = some t) : CycleSent n tc s t := by
  cases hk : s.convert n p with
  | none =>
    unfold State.setPoint at h
    rw [hk] at h
    cases h
  | some k =>
    obtain ⟨u, hu, hmt, _, hlast, htrk, _⟩ := State.setPoint_sends (tc := tc) hs hk
    obtain rfl : u = t := Option.some.inj (hu.symm.trans h)
    exact ⟨hmt, hlast, htrk⟩

/-- Outside a job a poisoned map only repeats the last set-point: nothing is there to suspend. -/
theorem State.mapPoisoned_cycleSent (hs : s.canonical = true) (hst : s.pgState n = pgIDLE) : CycleSent n tc s (s.mapPoisoned n tc) := by
  unfold State.mapPoisoned
  extract_lets q l u stop
  obtain ⟨hcw, hmt, _⟩ := State.sendSet_fields n tc l s
  obtain ⟨hcwu, hmtu, _, _⟩ := State.setPg_fields (s.sendSet n tc l) n { q with spLast := tc, frozen := true }
  have hpg : u.pg n = { q with spLast := tc, frozen := true } := State.pg_setPg_same ((State.sendSet_kept (Kept.refl s)).canon hs) n _
  have hidle : u.pgState n = pgIDLE := (State.f_congr (hcwu.trans hcw) PG.JOB.STATE n).trans hst
  have hsent : CycleSent n tc s u := ⟨hmtu.trans hmt, by rw [hpg], by rw [hpg]⟩
  clear_value u
  split
  · exact hsent
  · have hsevere : (u.severe 8 n 8).pgs = u.pgs ∧ (u.severe 8 n 8).mt = u.mt := by simp
    have hpgs := State.pg_congr hsevere.1 n
    rw [State.suspendNow_idle (State.pgRunning_idle ((State.f_past_severe ..).trans hidle))]
    exact ⟨hsevere.2.trans hsent.mt, (congrArg PgSt.spLast hpgs).trans hsent.last, (congrArg PgSt.trk hpgs).trans hsent.trk⟩

/-- In IDLE under TRK.EN a cycle moves every axis on by one step and sends the set-point of its instant. -/
theorem trackingCycle_advances (hs : s.canonical = true) (hst : s.pgState n = pgIDLE) (hen : s.f PG.TRK.EN n = 1) (hperiod : s.servoPeriod ≠ 0)
    (hvalid : s.f SADDLEN.MAP.VALID n = 1) :
    (trackingCycle n s).mt = max s.mt (s.nextCycle n - s.f PG.CFG.ILEAD n * 1000 - s.servoPeriod) ∧
      ((trackingCycle n s).pg n).spLast = s.nextCycle n ∧ ∀ ax, ax < 3 → (trackingCycle n s).trkAxis n ax = s.trkNext n ax := by
  have hon : s.on PG.TRK.EN n = true := State.on_iff.2 (by rw [hen]; decide)
  have hmap : s.on SADDLEN.MAP.VALID n = true := State.on_iff.2 (by rw [hvalid]; decide)
  have htracks : s.tracking n = true := by
    unfold State.tracking
    rw [hst, hon]
    rfl
  unfold trackingCycle
  rw [if_neg (by simp [htracks, hperiod, hmap])]
  extract_lets tc u w x y z fx p q m wait v t
  have hu : SameLimits n s u := ⟨(State.reach_kept (Kept.refl s)).canon hs, rfl, fun _ _ _ => rfl⟩
  have hw : SameLimits n s w := hu.trans (sameLimits_cycle hu.canon)
  have hentry : ∀ ax, ax < 3 → w.trkEntry n ax = some (ax, s.trkNext n ax) := fun ax hax => by
    rw [← hu.trkNext (State.trkEntry_congr rfl)]
    exact State.trkEntry_cycle hu.canon hax
  have hmt : w.mt = max s.mt (tc - s.f PG.CFG.ILEAD n * 1000 - s.servoPeriod) := State.mt_cycle u n
  have hm : m.canonical = true := State.canonical_setPg n _ hw.canon
  have hv : v.canonical = true := State.canonical_setF _ _ _ hm
  have hmpg : (m.pg n).trk = (w.pg n).trk := by rw [State.pg_setPg_same hw.canon]
  have hmmt : m.mt = w.mt := (State.setPg_fields w n _).2.1
  have hidle : m.pgState n = pgIDLE := (State.f_past_setPg ..).trans ((hw.fields PG.JOB.STATE rfl (by decide)).trans hst)
  clear_value m
  have htidle : t.pgState n = pgIDLE :=
    (State.f_setF_word hv _ _ _ _ _ (Fld.addr_ne (by decide))).trans ((State.f_setF_word hm _ _ _ _ _ (Fld.addr_ne (by decide))).trans hidle)
  have htfields : t.pgs = m.pgs ∧ t.mt = m.mt := by simp [t, v]
  have ht : t.canonical = true := State.canonical_setF _ _ _ hv
  clear_value t
  have hdone : ∀ r, CycleSent n tc t r → r.mt = max s.mt (tc - s.f PG.CFG.ILEAD n * 1000 - s.servoPeriod) ∧ (r.pg n).spLast = tc ∧
      ∀ ax, ax < 3 → r.trkAxis n ax = s.trkNext n ax := fun r hr => by
    have htrk : (r.pg n).trk = (w.pg n).trk := hr.trk.trans ((congrArg PgSt.trk (State.pg_congr htfields.1 n)).trans hmpg)
    exact ⟨hr.mt.trans (htfields.2.trans (hmmt.trans hmt)), hr.last,
      fun ax hax => State.trkAxis_of_entry ((State.trkEntry_congr htrk).trans (hentry ax hax))⟩
  split
  · next r hr => exact hdone r (State.setPoint_cycleSent ht hr)
  · exact hdone _ (State.mapPoisoned_cycleSent ht htidle)

end Cycle

/-! ### Set-points, power, gate and tracking of a path generator -/

/-- Settles O34: each command is one of the path generator's operations on the state its tokens' delivery leaves. -/
theorem emissionAndTracking : Obligations.EmissionAndTracking := by
  intro n s hs
  refine ⟨fun k hvalid hperiod htrk hrun hfrozen hconv => ?_, fun x hrun => ⟨fun hne => ?_, fun he => ?_⟩,
    fun a b hkind hsrc hstream hax hopen hy => ?_, fun e rest hrun hedges hemit hdue => ⟨fun hkind => ?_, fun hkind => ?_⟩,
    fun q hopen hkind htimed hstream _ => ⟨fun hst hen => ?_, fun hst => ?_⟩, fun hst hen hperiod hvalid => ?_⟩
  · obtain ⟨t, hsend, hmt, hsent, hlast, _, hnet⟩ := State.setPoint_sends (s := s.reach _) (tc := s.nextCycle n)
      ((State.reach_kept (Kept.refl s)).canon hs) hconv
    obtain ⟨l, hl, hmap⟩ := State.sendSet_net n.isLt (s.nextCycle n) (s.reach _)
      (l := [(0, k.1.payload), (1, k.2.1.payload), (2, k.2.2.1.payload)]) (by simp)
    exact ⟨t, congrArg Host.Outcome.next (interpolate_sends hvalid hperiod htrk hrun hfrozen hsend), hmt, hsent, hlast, l, hnet.trans hl, hmap⟩
  · refine ⟨_, congrArg Host.Outcome.next (powerTarget_sends hrun hne), ?_, _, rfl, ?_, rfl, rfl, toNat_wd_place0 (by decide), rfl⟩
    · rw [State.pg_setPg_same ((State.send_kept (Kept.refl s)).canon hs)]
    · exact (BitVec.toNat_ofNat ..).trans (Nat.mod_eq_of_lt (by have := n.isLt; unfold powerEp; omega))
  · exact ⟨s, congrArg Host.Outcome.next (powerTarget_same hrun he), rfl⟩
  · exact ⟨_, congrArg Host.Outcome.next (gateSample_x hkind hsrc hstream hax hopen hy),
      State.pg_setPg_same ((State.deliverAll_kept (Kept.refl s)).canon hs) n _⟩
  · obtain ⟨href, u, hsusp⟩ := State.gateRefused_suspends hs n.isLt e.vec
    exact ⟨_, congrArg Host.Outcome.next (sampleMissing_gateOn hrun hedges hemit hdue hkind), href, hsusp.state, hsusp.cause, hsusp.dist, hsusp.ofs⟩
  · exact ⟨_, congrArg Host.Outcome.next (sampleMissing_gateOff hrun hedges hemit hdue hkind), gateOff_released hs n.isLt ..⟩
  · have hu : (s.deliver (pgEp n) q).canonical = true := (State.deliver_kept (Kept.refl s)).canon hs
    obtain ⟨htarget, hsoft⟩ := State.setTarget_takes (n := n) (ax := 2) hu (sbits q.payload 31 0)
    rw [State.trkBounds_z, State.soft_deliver hs] at htarget hsoft
    refine ⟨_, congrArg Host.Outcome.next ((trackingTarget_untimed hopen hkind htimed).trans
      (trackingAct_z hstream ((State.pgState_deliver hs _ q).trans hst) ((State.f_deliver_above hs _ q (by decide) _).trans hen))), htarget, ?_⟩
    exact fun hne => hsoft (by rwa [← htarget])
  · have hu : (s.deliver (pgEp n) q).canonical = true := (State.deliver_kept (Kept.refl s)).canon hs
    refine ⟨_, congrArg Host.Outcome.next ((trackingTarget_untimed hopen hkind htimed).trans
      (trackingAct_discards hstream (by rwa [State.pgState_deliver hs]))), ?_, State.pg_deliver s (pgEp n) q n⟩
    exact State.f_setF_same hu PG.STAT.TREF n 1 (by decide)
  · exact ⟨_, rfl, trackingCycle_advances hs hst hen hperiod hvalid⟩

end Sys2Proof.Machine
end

section
namespace Sys2Proof.Machine

open Sys2Proof

/-! ### A write of MAPNEXT (R94, R194, R199) -/

section MapNext

/-- A write of MAPNEXT makes its chapter act on that head's image. -/
theorem chapterEffect_mapNext (n : Fin 24) (d : Word) (at_ : Nat) (old s : State) :
    chapterEffect (SADDLEN.MAPNEXT.WHEN.addr n) d at_ old s = mapNextEffect n at_ s := by
  have hblock : blockOf (SADDLEN.MAPNEXT.WHEN.addr n) = 10 := by
    simp only [blockOf, Fld.addr, SADDLEN.MAPNEXT.WHEN]
    omega
  have hentry : entryOf (SADDLEN.MAPNEXT.WHEN.addr n) 64 = n := by
    simp only [entryOf, cwOffset, Fld.addr, SADDLEN.MAPNEXT.WHEN]
    omega
  have hin : inEntries (SADDLEN.MAPNEXT.WHEN.addr n) 64 0 24 = true := by
    simp only [inEntries, cwOffset, Fld.addr, SADDLEN.MAPNEXT.WHEN]
    simp
    omega
  have hhrec : SADDLEN.MAPNEXT.WHEN.addr n ≠ SADDLE.HREC.EN.base := by
    simp only [Fld.addr, SADDLEN.MAPNEXT.WHEN, SADDLE.HREC.EN]
    omega
  have hlrec : SADDLEN.MAPNEXT.WHEN.addr n ≠ SADDLE.LREC.EN.base := by
    simp only [Fld.addr, SADDLEN.MAPNEXT.WHEN, SADDLE.LREC.EN]
    omega
  simp only [chapterEffect, hblock, hentry, hin, hhrec, hlrec, if_false, if_true, Bool.not_true, Bool.false_eq_true]

variable {s : State} {n : Nat}

/-- The effect keeps WHEN and BASE as written, clears OK and FAIL, and checks the image unless WHEN is 0. -/
theorem mapNextEffect_leaves (hs : s.canonical = true) (at_ : Nat) :
    let t := mapNextEffect n at_ s
    t.f SADDLEN.MAPNEXT.WHEN n = s.f SADDLEN.MAPNEXT.WHEN n ∧ t.f SADDLEN.MAPNEXT.BASE n = s.f SADDLEN.MAPNEXT.BASE n ∧
      t.f SADDLEN.MAPNEXT.OK n = 0 ∧ t.f SADDLEN.MAPNEXT.FAIL n = 0 ∧
      (t.mapSt n).checking = decide (s.f SADDLEN.MAPNEXT.WHEN n ≠ 0) := by
  unfold mapNextEffect
  extract_lets u
  have hok : (s.setF SADDLEN.MAPNEXT.OK n 0).canonical = true := State.canonical_setF _ _ _ hs
  have hu : u.canonical = true := State.canonical_setF _ _ _ hok
  have hkept : ∀ f : Fld, 1 < f.lo → u.f f n = s.f f n := fun f hf =>
    (State.f_setF_bits hok SADDLEN.MAPNEXT.FAIL f n n 0 (by decide) (.inl hf)).trans
      (State.f_setF_bits hs SADDLEN.MAPNEXT.OK f n n 0 (by decide) (.inl (Nat.lt_of_succ_lt hf)))
  have hwhen : u.f SADDLEN.MAPNEXT.WHEN n = s.f SADDLEN.MAPNEXT.WHEN n := hkept _ (by decide)
  refine ⟨hwhen, hkept _ (by decide), ?_, State.f_setF_same hok _ _ _ (by decide), ?_⟩
  · exact (State.f_setF_bits hok SADDLEN.MAPNEXT.FAIL SADDLEN.MAPNEXT.OK n n 0 (by decide) (.inr (by decide))).trans
      (State.f_setF_same hs _ _ _ (by decide))
  · rw [State.mapSt_setMapSt hu, if_pos rfl, hwhen]
    by_cases h : s.f SADDLEN.MAPNEXT.WHEN n = 0 <;> simp [h]

theorem isRwField_mapNext : ∀ n : Fin 24, ∀ f ∈ [SADDLEN.MAPNEXT.WHEN, SADDLEN.MAPNEXT.BASE],
    isRwField f (SADDLEN.MAPNEXT.WHEN.addr n) = true := by decide +kernel

/-- An RW field of the word of an accepted write holds the data written when its chapter acts. -/
theorem get_written {a : Nat} {d : Word} {r : Reg} {f : Fld} {u : State} (hu : u.canonical = true) (hr : regOf a = some r)
    (hf : isRwField f a = true) : f.get (((u.setWord a (r.stored d 0 (u.word a))).noteReserved r a d).word a) = f.get d := by
  obtain ⟨_, _, r', hr', g, hg, rfl, hacc⟩ := isRwField_parts hf
  obtain rfl : r = r' := Option.some.inj (hr.symm.trans hr')
  rw [State.noteReserved_word, State.word_setWord hu, if_pos rfl, Reg.get_stored (regOf_laidOut hr) hg, hacc]
  rfl

theorem execMapnextWrite_eq (n : Fin 24) (h : CwFrom) (d : Word) (s : State) :
    exec (.mapnextWrite n h d) s = .next (s.cwwOf h [(SADDLEN.MAPNEXT.WHEN.addr n, d)]) := rfl

/-- An accepted write of MAPNEXT is stored, starts the check of its image or cancels the swap, and is answered. -/
theorem mapnextWrite_starts (n : Fin 24) {h : CwFrom} {d : Word} (hs : s.canonical = true) (ha : Accepted s h (SADDLEN.MAPNEXT.WHEN.addr n) d) :
    Completes (.mapnextWrite n h d) s (fun t =>
      t.f SADDLEN.MAPNEXT.WHEN n = SADDLEN.MAPNEXT.WHEN.get d ∧ t.f SADDLEN.MAPNEXT.BASE n = SADDLEN.MAPNEXT.BASE.get d ∧
      t.f SADDLEN.MAPNEXT.OK n = 0 ∧ t.f SADDLEN.MAPNEXT.FAIL n = 0 ∧
      (t.mapSt n).checking = decide (SADDLEN.MAPNEXT.WHEN.get d ≠ 0) ∧ WriteAnswered h t) := by
  set a := SADDLEN.MAPNEXT.WHEN.addr n
  have hwhen := isRwField_mapNext n SADDLEN.MAPNEXT.WHEN (by simp)
  have hbase := isRwField_mapNext n SADDLEN.MAPNEXT.BASE (by simp)
  obtain ⟨h2, h5, r, hr, _⟩ := isRwField_parts hwhen
  set u := writeTaken s h a d
  have hu : u.canonical = true := writeTaken_canonical hs
  set v := (u.setWord a (r.stored d 0 (u.word a))).noteReserved r a d
  have hv : v.canonical = true := State.noteReserved_canonical r a d (State.canonical_setWord a _ hu)
  have happ : writeApplied s h a d r = mapNextEffect n u.mt v := chapterEffect_mapNext n d u.mt u v
  obtain ⟨hw, hb, hok, hfail, hcheck⟩ := mapNextEffect_leaves (n := n) hv u.mt
  have hget : v.f SADDLEN.MAPNEXT.WHEN n = SADDLEN.MAPNEXT.WHEN.get d := get_written hu hr hwhen
  obtain ⟨l, k, hans⟩ := answered_eq (mapNextEffect n u.mt v) h.ack (cwTok h kindCWW 0 (cwPayload a h.ack) false) 1
  refine ⟨_, (execMapnextWrite_eq n h d s).trans (congrArg _ (State.cwwOf_accepted hr ha h2 h5)), ?_⟩
  rw [happ]
  refine ⟨?_, ?_, ?_, ?_, ?_, writeAnswered_ite _ h _⟩
  all_goals rw [hans]
  · exact hw.trans hget
  · exact hb.trans (get_written hu hr hbase)
  · exact hok
  · exact hfail
  · exact hcheck.trans (by rw [hget])

end MapNext

/-! ### The check of an image and its end (R194) -/

section MapCheck

variable {s : State} {n : Nat}

theorem State.bytes_of_mem {t : State} (h : t.mem = s.mem) (a k : Nat) : t.bytes a k = s.bytes a k :=
  State.bytes_congr fun i _ => congrArg (tget memDefault · (a + i)) h

theorem State.ld_of_mem {t : State} (h : t.mem = s.mem) (a : Nat) : t.ld a = s.ld a :=
  congrArg (fun l => wd (leNat l)) (State.bytes_of_mem h a 8)

/-- States with the same marks agree on which words are poisoned. -/
theorem State.anyUe_congr {t : State} (h : t.eccs = s.eccs) (a k : Nat) : t.anyUe a k = s.anyUe a k := by
  induction k generalizing a with
  | zero => rfl
  | succ k ih => exact congrArg₂ (· || ·) (congrArg (· == some EccMark.double) (State.eccAt_congr h a)) (ih (a + 8))

/-- States with the same memory and marks agree on the determinants of an image. -/
theorem State.cellDet_congr {t : State} (h : t.mem = s.mem) (b i j ca cb : Nat) : t.cellDet b i j ca cb = s.cellDet b i j ca cb := by
  have hnode : ∀ i j f, t.node b i j f = s.node b i j f := fun i j f => by simp only [State.node, State.ld_of_mem h]
  unfold State.cellDet
  simp only [hnode]

/-- The check reads memory and its marks alone. -/
theorem State.mapCheck_congr {t : State} (hmem : t.mem = s.mem) (hecc : t.eccs = s.eccs) (b : Nat) : t.mapCheck b = s.mapCheck b := by
  have hdets : t.detsOk b = s.detsOk b := by simp only [State.detsOk, State.cellDet_congr hmem]
  have hhead : t.mapHead b = s.mapHead b := by simp only [State.mapHead, State.ld_of_mem hmem]
  unfold State.mapCheck
  rw [hhead, hdets]
  simp only [State.anyUe_congr hecc, State.bytes_of_mem hmem, State.ld_of_mem hmem]

/-- The state in which the check of `mapCheckDone` is over and its result not yet reported. -/
def State.mapChecked (s : State) (n : Nat) : State := s.setMapSt n { s.mapSt n with checking := false }

theorem State.mapChecked_canonical (hs : s.canonical = true) : (s.mapChecked n).canonical = true := (State.setMapSt_kept (Kept.refl s)).canon hs

theorem State.mapSt_mapChecked (hs : s.canonical = true) : ((s.mapChecked n).mapSt n).checking = false := by
  unfold State.mapChecked
  rw [State.mapSt_setMapSt hs, if_pos rfl]

theorem State.f_mapChecked (f : Fld) (i : Nat) : (s.mapChecked n).f f i = s.f f i := rfl

theorem State.mapCheck_mapChecked (b : Nat) : (s.mapChecked n).mapCheck b = s.mapCheck b :=
  State.mapCheck_congr (s := s) (t := s.mapChecked n) rfl rfl b

/-- The end of a running check reports what the image was found to be. -/
theorem mapCheckDone_eq (hcheck : (s.mapSt n).checking = true) :
    mapCheckDone n s = if s.mapCheck (s.f SADDLEN.MAPNEXT.BASE n * 64) = true then (s.mapChecked n).setF SADDLEN.MAPNEXT.OK n 1
      else ((((s.mapChecked n).setF SADDLEN.MAPNEXT.FAIL n 1).setF SADDLEN.MAPNEXT.WHEN n 0).setF SADDLE.STAT.MAPERR 0 1).warn 8 n 8 := by
  unfold mapCheckDone
  rw [if_pos hcheck, ← State.mapChecked]
  dsimp only
  rw [State.f_mapChecked, State.mapCheck_mapChecked]

/-- An image that passes sets OK and ends the check. -/
theorem mapCheckDone_passes (hs : s.canonical = true) (hcheck : (s.mapSt n).checking = true)
    (h : s.mapCheck (s.f SADDLEN.MAPNEXT.BASE n * 64) = true) :
    let t := mapCheckDone n s
    t.f SADDLEN.MAPNEXT.OK n = 1 ∧ (t.mapSt n).checking = false ∧ t.lines = s.lines := by
  rw [mapCheckDone_eq hcheck, if_pos h]
  exact ⟨State.f_setF_same (State.mapChecked_canonical hs) _ _ _ (by decide), State.mapSt_mapChecked hs, rfl⟩

/-- An image that fails sets FAIL and MAPERR, returns WHEN to 0 and ends the check with a warning. -/
theorem mapCheckDone_fails (hs : s.canonical = true) (hcheck : (s.mapSt n).checking = true)
    (h : s.mapCheck (s.f SADDLEN.MAPNEXT.BASE n * 64) = false) :
    let t := mapCheckDone n s
    t.f SADDLEN.MAPNEXT.FAIL n = 1 ∧ t.f SADDLEN.MAPNEXT.WHEN n = 0 ∧ t.f SADDLE.STAT.MAPERR = 1 ∧ (t.mapSt n).checking = false ∧
      ∃ r, t.lines = s.lines ++ [r] ∧ r.cls = 2 ∧ r.source = 8 := by
  have hu : (s.mapChecked n).canonical = true := State.mapChecked_canonical hs
  have hv := State.canonical_setF SADDLEN.MAPNEXT.FAIL n 1 hu
  have hw := State.canonical_setF SADDLEN.MAPNEXT.WHEN n 0 hv
  have hapart : ∀ f : Fld, f.stride % 64 = 0 ∧ f.base % 64 = 8 → f.addr n ≠ SADDLE.STAT.MAPERR.addr 0 := fun f hf =>
    Fld.addr_ne ⟨hf.1, by decide, by rw [hf.2]; decide⟩
  rw [mapCheckDone_eq hcheck, h, if_neg Bool.false_ne_true]
  refine ⟨?_, ?_, ?_, State.mapSt_mapChecked hs, _, rfl, rfl, rfl⟩
  · rw [State.f_past_warn, State.f_setF_word hw _ _ _ _ _ (hapart _ (by decide)), State.f_setF_bits hv _ _ _ _ _ (by decide) (by decide)]
    exact State.f_setF_same hu _ _ _ (by decide)
  · rw [State.f_past_warn, State.f_setF_word hw _ _ _ _ _ (hapart _ (by decide))]
    exact State.f_setF_same hv _ _ _ (by decide)
  · rw [State.f_past_warn]
    exact State.f_setF_same hw _ _ _ (by decide)

end MapCheck

/-! ### The swap (R199) -/

section MapSwap

variable {s : State} {n : Nat}

/-- The swap makes the checked image the valid one and clears MAPNEXT. -/
theorem mapTake_leaves (hs : s.canonical = true) :
    let t := mapTake n s
    t.f SADDLEN.MAP.VALID n = 1 ∧ t.f SADDLEN.MAP.BASE n = s.f SADDLEN.MAPNEXT.BASE n ∧ t.word (SADDLEN.MAPNEXT.OK.addr n) = 0 := by
  unfold mapTake
  extract_lets b u
  have h1 : (s.setF SADDLEN.MAP.MAPID n (s.mapHead (b * 64)).id).canonical = true := State.canonical_setF _ _ _ hs
  have h2 : ((s.setF SADDLEN.MAP.MAPID n (s.mapHead (b * 64)).id).setF SADDLEN.MAP.BASE n b).canonical = true := State.canonical_setF _ _ _ h1
  have hu : u.canonical = true := State.canonical_setF _ _ _ h2
  have hnext : ∀ f : Fld, f.stride % 64 = 0 ∧ f.base % 64 = 0 → (u.setWord (SADDLEN.MAPNEXT.OK.addr n) 0).f f n = u.f f n := fun f hf => by
    have hne : f.addr n ≠ SADDLEN.MAPNEXT.OK.addr n := Fld.addr_ne ⟨hf.1, by decide, by rw [hf.2]; decide⟩
    unfold State.f
    rw [State.word_setWord hu, if_neg hne]
  have hb : b % 2 ^ 42 = b := Nat.mod_eq_of_lt (Nat.mod_lt _ (Nat.two_pow_pos 42))
  refine ⟨?_, ?_, ?_⟩
  · rw [State.f_past_info, State.f_past_setMapSt, hnext _ (by decide), State.f_setF_same h2 _ _ _ (by decide)]
    rfl
  · rw [State.f_past_info, State.f_past_setMapSt, hnext _ (by decide), State.f_setF_bits h2 _ _ _ _ _ (by decide) (by decide),
      State.f_setF_same h1 _ _ _ (by decide)]
    exact hb
  · rw [State.word_past_info, State.word_past_setMapSt, State.word_setWord hu, if_pos rfl]

/-- A checked map marked for a point of rest is taken there, and holds the next motion back for 200 µs. -/
theorem mapSwap_swaps (hs : s.canonical = true) (hwhen : s.f SADDLEN.MAPNEXT.WHEN n = 2) (hok : s.f SADDLEN.MAPNEXT.OK n = 1)
    (hdue : (s.mapSt n).notBefore ≤ s.mt) (hrest : s.atRest n = true) :
    let t := mapSwap n s
    t.f SADDLEN.MAP.VALID n = 1 ∧ t.f SADDLEN.MAP.BASE n = s.f SADDLEN.MAPNEXT.BASE n ∧ t.word (SADDLEN.MAPNEXT.OK.addr n) = 0 ∧
      t.pg n = { s.pg n with notBefore := s.mt + 200000 } ∧ t.mem = s.mem := by
  have hon : s.on SADDLEN.MAPNEXT.OK n = true := State.on_iff.2 (by rw [hok]; decide)
  have hmt : (mapTake n s).mt = s.mt := (Same.refl .mt s).mapTake.eq
  have hmem : (mapTake n s).mem = s.mem := (Same.refl .mem s).mapTake.eq
  have hpg : (mapTake n s).pg n = s.pg n := State.pg_congr (Same.refl .pgs s).mapTake.eq n
  have htake : mapSwap n s = (mapTake n s).setPg n { s.pg n with notBefore := s.mt + 200000 } := by
    unfold mapSwap
    rw [if_pos ⟨hwhen, hon, hdue, hrest⟩]
    simp only [hmt, hpg]
  obtain ⟨hvalid, hbase, hword⟩ := mapTake_leaves (n := n) hs
  rw [htake]
  exact ⟨(State.f_past_setPg ..).trans hvalid, (State.f_past_setPg ..).trans hbase, (State.word_past_setPg ..).trans hword,
    State.pg_setPg_same ((mapTake_kept (Kept.refl s)).canon hs) n _, hmem⟩

end MapSwap

theorem correctionMapsAreCheckedAndSwapped : Rules.CorrectionMapsAreCheckedAndSwapped := fun n _ hs =>
  ⟨fun _ _ ha => mapnextWrite_starts n hs ha,
    fun hcheck => ⟨fun h => ⟨_, rfl, mapCheckDone_passes hs hcheck h⟩, fun h => ⟨_, rfl, mapCheckDone_fails hs hcheck h⟩⟩,
    fun hwhen hok hdue hrest => ⟨_, rfl, mapSwap_swaps hs hwhen hok hdue hrest⟩⟩

end Sys2Proof.Machine
end

section
namespace Sys2Proof.Machine

open Sys2Proof

/-! ### A chain of one vector (R203, R206, R210) -/

section OneVector

variable {q : PgSt} {i : Item} {v : PVec}

theorem PgSt.nextChain_single (hitems : q.items = [i]) (hvec : i.vec = some v) (hplanned : v.chain < q.chain)
    (hopen : q.decided.contains v.chain = false) (hlen : v.len ≠ 0) : q.nextChain = some v.chain := by
  simp only [PgSt.nextChain, hitems, List.filterMap_cons, hvec, Option.bind_some, hopen, Bool.not_false, hplanned, hlen, ne_eq, not_false_eq_true,
    and_self, if_true, List.head?_cons]

theorem PgSt.chainVecs_single (hitems : q.items = [i]) (hvec : i.vec = some v) (hlen : v.len ≠ 0) : q.chainVecs v.chain = [v] := by
  simp [PgSt.chainVecs, hitems, hvec, hlen]

/-- A vector that keeps its parts leaves the plan as it is. -/
theorem PgSt.withVecs_single (hitems : q.items = [i]) (hvec : i.vec = some v) : q.withVecs [v] = q := by
  unfold PgSt.withVecs
  rw [hitems, List.map_singleton, hvec]
  simp only [List.find?_cons, beq_self_eq_true, Bool.and_self, Option.getD_some]
  rw [← hvec, ← hitems]

/-- The gate edges of one whole vector that joins nothing: on at its start and off at its end, where it emits. -/
theorem chainEdges_single (segs : List Seg) (v : PVec) (l : Int) :
    chainEdges segs [(v, ⟨0, l, 0, 0⟩)] none =
      if v.pwr = 0 then [] else [⟨1, v, 0, timeAt segs v 0⟩, ⟨0, v, l * unitWpu, timeAt segs v (l * unitWpu)⟩] := by
  by_cases h : v.pwr = 0 <;> simp [chainEdges, h]

end OneVector

section Decide

variable {s : State} {n : Nat}

/-- The set that a head makes of a vector it alone may melt. -/
def wholeSet (n layer : Nat) (v : PVec) : SharedSet := ⟨v, n, v.geom.startPt.z, layer, [], [(n, ⟨0, v.len / unitWpu, 0, 0⟩)], [n], [n]⟩

/-- A vector of one candidate that no set knows is claimed whole. -/
theorem State.own_whole {sets : List SharedSet} {v : PVec} (layer : Nat) (hnew : ∀ x ∈ sets, x.first.vid ≠ v.vid) (hshared : v.shared = false)
    (hparts : v.parts = [⟨0, v.len / unitWpu, 0, 0⟩]) : s.own n layer sets v = ⟨v, sets ++ [wholeSet n layer v], false, false, []⟩ := by
  have hnone : sets.find? (fun t => t.first.vid == v.vid && t.layer == layer) = none := by
    rw [List.find?_eq_none]
    intro x hx
    simp [hnew x hx]
  unfold State.own
  simp only [hnone]
  rw [if_pos (by rw [hshared]; rfl), ← hparts]
  rfl

/-- With both tests off no two pools conflict. -/
theorem State.conflict_off (hsep : s.f SADDLE.CFG.SEPEN = 0) (hplume : s.f SADDLE.CFG.PLUMEN = 0) (a b : Pool) : s.conflict a b = false := by
  have hon : s.on SADDLE.CFG.SEPEN = false ∧ s.on SADDLE.CFG.PLUMEN = false := by simp [State.on, hsep, hplume]
  unfold State.conflict
  extract_lets
  rw [hon.1, hon.2, Bool.false_and, Bool.false_and, Bool.false_or]

/-- With both tests off no chain conflicts with another. -/
theorem State.chainConflict_off (hsep : s.f SADDLE.CFG.SEPEN = 0) (hplume : s.f SADDLE.CFG.PLUMEN = 0) (b c : Nat) : s.chainConflict b c = none := by
  have hat : ∀ t, s.conflictAt b t c = none := fun t => by
    unfold State.conflictAt
    split
    · rfl
    · rw [List.find?_eq_none]
      intro a _
      split <;> simp [State.conflict_off hsep hplume]
  have hfirst : ∀ p k t, s.firstConflict b c p k t = none := fun p k => by
    induction k with
    | zero => exact fun _ => rfl
    | succ k ih =>
      intro t
      rw [State.firstConflict, hat]
      exact ih (t + p)
  unfold State.chainConflict
  split
  · rfl
  · simp [hfirst]

/-- Sets of other vectors, and a set with nothing open, take no instants. -/
theorem State.stampOpens_whole {sets : List SharedSet} {layer : Nat} {v : PVec} (hsets : s.sets = sets ++ [wholeSet n layer v])
    (hnew : ∀ x ∈ sets, x.first.vid ≠ v.vid) : s.stampOpens n [v] = s := by
  refine congrArg s.setSets ((List.map_congr_left (g := id) fun x hx => ?_).trans (List.map_id s.sets))
  rw [hsets, List.mem_append, List.mem_singleton] at hx
  rcases hx with hx | rfl
  · simp [Ne.symm (hnew x hx)]
  · simp [wholeSet]

/-- What a head that may melt a chain of one vector alone makes of its turn: MT moves to the instant `x`, the head's set joins the
others, and the path generator's record changes in the chains decided and in the gate edges alone. -/
def State.wholeDecided (s : State) (n : Nat) (v : PVec) (x : Nat) : State :=
  ((s.reach x).setSets (s.sets ++ [wholeSet n (s.f PG.JOB.LAYER n) v])).setPg n
    { s.pg n with
      decided := v.chain :: (s.pg n).decided
      edges := (s.pg n).edges ++ chainEdges (s.pg n).segs [(v, ⟨0, v.len / unitWpu, 0, 0⟩)] none }

/-- On a head's turn, a chain of one vector that no other head may melt is claimed whole and keeps its motion: it is in time, the claim changes no
part, and with both tests off nothing delays or cuts it. -/
theorem chainDecide_whole {i : Item} {v : PVec} (hs : s.canonical = true) (hen : s.f SADDLE.CFG.EN = 1) (hsep : s.f SADDLE.CFG.SEPEN = 0)
    (hplume : s.f SADDLE.CFG.PLUMEN = 0) (hitems : (s.pg n).items = [i]) (hvec : i.vec = some v) (hplanned : v.chain < (s.pg n).chain)
    (hopen : (s.pg n).decided.contains v.chain = false) (hlen : v.len ≠ 0) (hshared : v.shared = false)
    (hparts : v.parts = [⟨0, v.len / unitWpu, 0, 0⟩]) (hnew : ∀ x ∈ s.sets, x.first.vid ≠ v.vid) (hfirst : s.chainFirst n v.chain = true)
    (hdue : s.mt + 2500000 ≤ (s.pg n).chainStart v.chain) :
    chainDecide n s = s.wholeDecided n v ((s.pg n).chainStart v.chain - 2500000) := by
  have hq : (s.pg n).nextChain = some v.chain := PgSt.nextChain_single hitems hvec hplanned hopen hlen
  have hon : s.on SADDLE.CFG.EN = true := State.on_iff.2 (by rw [hen]; decide)
  obtain ⟨x, hx⟩ : ∃ x, x = (s.pg n).chainStart v.chain - 2500000 := ⟨_, rfl⟩
  rw [← hx]
  unfold chainDecide
  extract_lets q
  split
  · next h => exact absurd (hq.symm.trans h) (Option.some_ne_none _)
  · next c h =>
    obtain rfl : v.chain = c := Option.some.inj (hq.symm.trans h)
    rw [if_neg (by simp [hon, hfirst]), show q.chainStart v.chain - 2500000 = x from hx.symm]
    extract_lets +onlyGivenNames u start late
    -- the chain is taken in time
    have hstart : s.mt + 2500000 ≤ start := hdue
    have hmt : u.mt = start - 2500000 := (max_eq_right (by omega)).trans hx
    have hlate : ¬ late = true := by
      simp only [late, decide_eq_true_eq]
      omega
    rw [if_neg hlate]
    extract_lets +onlyGivenNames u₁ q₁ layer jspd old vs r
    have hu : u₁.canonical = true := (State.reach_kept (Kept.refl s)).canon hs
    -- the one vector is claimed whole
    have hvs : vs = [v] := PgSt.chainVecs_single hitems hvec hlen
    have hr : r = ([⟨v, s.sets ++ [wholeSet n layer v], false, false, []⟩], s.sets ++ [wholeSet n layer v]) := by
      simp only [r, hvs, show old = s.sets from rfl, List.foldl_cons, List.foldl_nil, State.own_whole _ hnew hshared hparts, List.nil_append]
    clear_value r
    subst hr
    split
    · next o ho => simp at ho
    -- so that its motion stays
    extract_lets +onlyGivenNames owned changed w
    have hw : w.canonical = true := (State.setSets_kept (Kept.refl u₁)).canon hu
    have hchanged : ¬ changed = true := by simp [changed, owned, hparts]
    rw [if_neg hchanged, show w.setPg n (q₁.withVecs owned) = w from
      (congrArg (w.setPg n) (PgSt.withVecs_single hitems hvec)).trans (State.setPg_self hw n)]
    -- and no test delays or cuts it
    extract_lets +onlyGivenNames w₁ w₂ q₂ now w₃ w₄
    have hw₂ : w₂ = w := by
      simp only [w₂, w₁, State.chainConflict_off (s := w) hsep hplume]
    clear_value w₂
    subst w₂
    have hnow : now = [v] := PgSt.chainVecs_single hitems hvec hlen
    have hw₃ : w₃ = s.wholeDecided n v x := by
      simp only [w₃, hnow, piecesOf, List.flatMap_cons, List.flatMap_nil, hparts, List.map_cons, List.map_nil, List.append_nil]
      rfl
    have hw₄ : w₄ = s.wholeDecided n v x := by
      simp only [w₄, hnow]
      rw [hw₃]
      exact State.stampOpens_whole (sets := s.sets) rfl hnew
    simp only [hnow, List.any_cons, beq_self_eq_true, Bool.true_or, List.filter_cons, if_true, List.filter_nil, List.foldl_cons, List.foldl_nil]
    exact hw₄

/-- The instant, the sets and the path generator's record after such a decision. -/
theorem State.wholeDecided_leaves (hs : s.canonical = true) (v : PVec) {x : Nat} (hx : s.mt ≤ x) :
    let t := s.wholeDecided n v x
    t.mt = x ∧ t.sets = s.sets ++ [wholeSet n (s.f PG.JOB.LAYER n) v] ∧
      t.pg n = { s.pg n with
        decided := v.chain :: (s.pg n).decided
        edges := (s.pg n).edges ++ chainEdges (s.pg n).segs [(v, ⟨0, v.len / unitWpu, 0, 0⟩)] none } :=
  ⟨max_eq_right hx, rfl, State.pg_setPg_same ((State.setSets_kept (State.reach_kept (Kept.refl s))).canon hs) n _⟩

end Decide

end Sys2Proof.Machine
end

section
namespace Sys2Proof.Machine

open Sys2Proof

/-! ### Stares (R215, R216) -/

section Stares

variable {s : State} {n : Nat} {l : Look}

/-- Whether and when a stare takes place does not turn on MT. -/
theorem State.stareOk_reach (x k : Nat) : (s.reach x).stareOk n l k = s.stareOk n l k := rfl

/-- The first stare of a look, where it cannot take place, is given up at the start of the hold. -/
theorem stare_refused (hlook : (s.pg n).look = some l) (hk : l.k = 0) (hok : s.stareOk n l 0 = false) :
    stare n s = ((s.reach l.h0).setPg n { s.pg n with look := none }).setF SADDLEN.HSTAT.LOOKING n 0 := by
  unfold stare
  extract_lets +onlyGivenNames q
  split
  · next h => exact absurd (hlook.symm.trans h) (Option.some_ne_none _)
  · next l' h =>
    obtain rfl : l = l' := Option.some.inj (hlook.symm.trans h)
    extract_lets +onlyGivenNames half u
    rw [if_neg (by rw [hk, State.stareOk_reach, hok]; exact Bool.false_ne_true), if_pos hk]
    extract_lets +onlyGivenNames v
    rw [show v = s.reach l.h0 from congrArg s.reach (if_pos hk)]
    rfl

/-- The first stare of a look, where it can take place: its target and its exposure are sent, and the look goes on. -/
theorem stare_takes (hs : s.canonical = true) (hn : n < 24) (hlook : (s.pg n).look = some l) (hk : l.k = 0) (hok : s.stareOk n l 0 = true) :
    let t := stare n s
    t.mt = max s.mt l.h0 ∧ (t.pg n).look = some { l with k := 1 } ∧ t.f SADDLEN.HSTAT.LOOKING n = 1 ∧ t.stares.length = s.stares.length + 1 ∧
      ∃ a b : Token, t.net = s.net ++ [a, b] ∧ a.dest.toNat = 0x40 + n ∧ a.kind = 1#4 ∧ a.stream = 4#8 ∧ b.dest.toNat = 0x330 + n ∧
        b.kind = 14#4 ∧ (pinAct b.payload).op = 2 ∧ b.time = BitVec.ofNat 48 (s.stareTime l 0 - s.f SADDLE.LOOK.LWID * 500) := by
  intro r
  have hr : r = stare n s := rfl
  clear_value r
  unfold stare at hr
  extract_lets +onlyGivenNames q at hr
  split at hr
  · next h => exact absurd (hlook.symm.trans h) (Option.some_ne_none _)
  · next l' h =>
    obtain rfl : l = l' := Option.some.inj (hlook.symm.trans h)
    extract_lets +onlyGivenNames half u at hr
    rw [if_pos (by rw [hk, State.stareOk_reach, hok])] at hr
    extract_lets +onlyGivenNames t p id u₁ u₂ u₃ vid u₄ at hr
    have hu : u = s.reach l.h0 := congrArg s.reach (if_pos hk)
    have hu₂ : u₂.canonical = true := (State.send_kept (State.send_kept (State.reach_kept (Kept.refl s)))).canon hs
    have hu₄ : u₄.canonical = true := (State.setStares_kept (State.setPg_kept (Kept.refl u₂))).canon hu₂
    have hpg : r.pg n = { q with stares := q.stares + 1, look := some { l with k := l.k + 1 } } := by
      rw [hr]
      exact State.pg_setPg_same hu₂ n _
    have htime : t = s.stareTime l 0 := congrArg (s.stareTime l) hk
    refine ⟨?_, ?_, ?_, ?_, _, _, (congrArg State.net hr).trans (List.append_assoc ..), ?_, rfl, rfl, ?_, rfl, pinAct_pinPayload_op .., ?_⟩
    · exact (congrArg State.mt hr).trans (congrArg State.mt hu)
    · rw [hpg, hk]
    · rw [hr]
      exact State.f_setF_same hu₄ _ _ _ (by decide)
    · exact (congrArg (fun v => v.stares.length) hr).trans List.length_append
    · exact (BitVec.toNat_ofNat ..).trans (Nat.mod_eq_of_lt (by unfold pgEp; omega))
    · exact (BitVec.toNat_ofNat ..).trans (Nat.mod_eq_of_lt (by unfold ctrgEp; omega))
    · exact congrArg (fun t => BitVec.ofNat 48 (t - half)) htime

/-- The first stare that cannot take place ends the look: nothing is sent. -/
theorem stare_ends (hs : s.canonical = true) (hlook : (s.pg n).look = some l) (hk : l.k = 0) (hok : s.stareOk n l 0 = false) :
    let t := stare n s
    (t.pg n).look = none ∧ t.f SADDLEN.HSTAT.LOOKING n = 0 ∧ t.net = s.net := by
  have hu : (s.reach l.h0).canonical = true := (State.reach_kept (Kept.refl s)).canon hs
  rw [stare_refused hlook hk hok]
  refine ⟨?_, State.f_setF_same ((State.setPg_kept (Kept.refl _)).canon hu) _ _ _ (by decide), rfl⟩
  exact congrArg PgSt.look (State.pg_setPg_same hu n _)

end Stares

/-! ### Correction maps and the Saddle -/

theorem saddleDecidesAndStares : Rules.SaddleDecidesAndStares := by
  intro n s hs
  refine ⟨fun i v hen hsep hplume hitems hvec hplanned hopen hlen hshared hparts hnew hfirst hdue => ?_,
    fun l hlook hk => ⟨fun hok => ⟨_, rfl, stare_takes hs n.isLt hlook hk hok⟩, fun hok => ⟨_, rfl, stare_ends hs hlook hk hok⟩⟩⟩
  obtain ⟨hmt, hsets, hpg⟩ := State.wholeDecided_leaves hs v (Nat.le_sub_of_add_le hdue)
  refine ⟨_, congrArg Host.Outcome.next
    (chainDecide_whole hs hen hsep hplume hitems hvec hplanned hopen hlen hshared hparts hnew hfirst hdue), hmt, ?_, ?_, hsets, ?_⟩
  · rw [hpg]
  · rw [hpg]
  · rw [hpg, chainEdges_single]

/-- Settles O35: a write of MAPNEXT, the check's end and the swap are read off the words they set; an unshared chain of one vector passes through
the decision with its motion unchanged, both tests being off; a look's first stare is judged the same before and after MT moves. -/
theorem mapsAndSaddle : Obligations.MapsAndSaddle := ⟨correctionMapsAreCheckedAndSwapped, saddleDecidesAndStares⟩

end Sys2Proof.Machine
end

section
namespace Sys2Proof.Machine

open Sys2Proof

/-! ### The servo engine: the words its operations leave alone (R227, R232, R236, R244, R248) -/

/-- `a` is no word that a cycle of loop `l` writes: the loop's STAT, CNT and OUT, the engine's counters, the event counters. -/
structure CycleSpared (l a : Nat) : Prop where
  events : blockOf a ≠ 7
  stat : a ≠ SERVON.STAT.RUN.addr l
  cnt : a ≠ SERVON.CNT.OVRS.addr l
  out : a ≠ SERVON.OUT.ERR.addr l
  overruns : a ≠ SERVO.CNT.OVERRUNS.addr 0

/-- Nor one that a set or table of the loop writes when it applies: the table's words, the engine's load and its status. -/
structure PendingSpared (l a : Nat) : Prop extends CycleSpared l a where
  fft : a ≠ SERVON.FFT.BASE.addr l
  fftn : a ≠ SERVON.FFTN.OK.addr l
  load : a ≠ SERVO.LOAD.V.addr 0
  overload : a ≠ SERVO.STAT.OVERLOAD.addr 0

/-- Words past the event counters' block that lie at the start of their lines of 64 bytes are spared by a cycle. -/
theorem cycleSpared_of_line {f : Fld} {l i : Nat} (hf : 0x100800000 ≤ f.base ∧ f.stride % 64 = 0 ∧ f.base % 64 < 0x28) : CycleSpared l (f.addr i) := by
  obtain ⟨hbase, hstride, hline⟩ := hf
  constructor
  · unfold blockOf Fld.addr
    omega
  all_goals exact Fld.addr_ne ⟨hstride, by decide, (lt_of_lt_of_le hline (by decide)).ne⟩

theorem pendingSpared_of_line {f : Fld} {l i : Nat} (hf : 0x100800000 ≤ f.base ∧ f.stride % 64 = 0 ∧ f.base % 64 < 0x18) :
    PendingSpared l (f.addr i) := by
  obtain ⟨hbase, hstride, hline⟩ := hf
  have hne : ∀ {g : Fld} {j : Nat}, g.stride % 64 = 0 ∧ 0x18 ≤ g.base % 64 → f.addr i ≠ g.addr j := fun hg =>
    Fld.addr_ne ⟨hstride, hg.1, (lt_of_lt_of_le hline hg.2).ne⟩
  exact ⟨cycleSpared_of_line ⟨hbase, hstride, lt_trans hline (by decide)⟩, hne (by decide), hne (by decide), hne (by decide), hne (by decide)⟩

section Spared

variable {a l : Nat} {s t : State}

theorem Spares.trans {u : State} (h : Spares a s t) (k : Spares a t u) : Spares a s u := fun hs =>
  ⟨(k (h hs).1).1, (k (h hs).1).2.trans (h hs).2⟩

/-- A field of a spared word reads as before. -/
theorem Spares.field {f : Fld} {i : Nat} (h : Spares (f.addr i) s t) (hs : s.canonical = true) : t.f f i = s.f f i := congrArg f.get (h hs).2

theorem Spares.incF {f : Fld} {i n : Nat} (h : Spares a s t) (hne : a ≠ f.addr i) : Spares a s (t.incF f i n) := h.setF hne

theorem Spares.setFi {f : Fld} {i : Nat} {v : Int} (h : Spares a s t) (hne : a ≠ f.addr i) : Spares a s (t.setFi f i v) := h.setF hne

theorem Spares.reach {n : Nat} (h : Spares a s t) : Spares a s (t.reach n) := h.quiet (State.reach_kept (Kept.refl t)) rfl

theorem Spares.sts {b : Nat} {ws : List Word} (h : Spares a s t) : Spares a s (t.sts b ws) := h.quiet (State.sts_kept (Kept.refl t)) (by simp)

theorem Spares.deliver {ep : Nat} {q : Token} (h : Spares a s t) (h7 : blockOf a ≠ 7) : Spares a s (t.deliver ep q) := fun hs =>
  ⟨(State.deliver_kept (Kept.refl t)).canon (h hs).1, (State.word_deliver (h hs).1 ep q h7).trans (h hs).2⟩

theorem Spares.takeTrig {c tc : Nat} (h : Spares a s t) (h7 : blockOf a ≠ 7) : Spares a s (t.takeTrig c tc) := by
  unfold State.takeTrig
  split
  · exact h.deliver h7
  · exact h

theorem Spares.abandoned {tc p : Nat} (h : Spares a s t) (ha : CycleSpared l a) : Spares a s (t.abandoned l tc p) := by
  have hcount : ∀ {u : State} {n : Nat}, Spares a s u →
      Spares a s (((u.setF SERVON.STAT.OVR l 1).incF SERVON.CNT.OVRS l n).incF SERVO.CNT.OVERRUNS 0 n) := fun hu => .incF (.incF (.setF hu ha.stat) ha.cnt) ha.overruns
  exact .ite h.setLoop (.ite (.raise (hcount h.setLoop)) (.raise (hcount h.setLoop)))

theorem Spares.applySet (h : Spares a s t) (ha : PendingSpared l a) : Spares a s (t.applySet l) := by
  unfold State.applySet
  dsimp only
  split
  · exact h
  · exact .raise (.loadUpdate (.setF (.setF h.setLoop ha.stat) ha.stat) ha.load ha.overload)

theorem Spares.applyTable (h : Spares a s t) (ha : PendingSpared l a) : Spares a s (t.applyTable l) :=
  .setLoop (.setWord (.setF (.setF h ha.fft) ha.fft) ha.fftn)

theorem Spares.applyPending {n : Nat} (h : Spares a s t) (ha : PendingSpared l a) : Spares a s (t.applyPending l n) := by
  unfold State.applyPending
  extract_lets +onlyGivenNames u
  have hu : Spares a s u := by
    unfold u
    split
    · exact .ite (h.applySet ha) h
    · exact h
  split
  · exact .ite (hu.applyTable ha) hu
  · exact hu

theorem Spares.noMeasure (h : Spares a s t) (ha : a ≠ SERVON.STAT.RUN.addr l) : Spares a s (t.noMeasure l) :=
  .ite (.setF h ha) (.raise (.setF (.setLoop (.setF h ha)) ha))

theorem Spares.cycleSetpt {tc p : Nat} {pos vel acc : Word → Int} (h : Spares a s t) (ha : CycleSpared l a) :
    Spares a s (t.cycleSetpt l tc p pos vel acc).2.2.2 := by
  unfold State.cycleSetpt
  extract_lets +onlyGivenNames x r u
  have hu : Spares a s u := h.setLoop
  have hmiss : Spares a s (((u.setF SERVON.STAT.SPMISS l 1).incF SERVON.CNT.SPMISSES l).warn 9 l (loopEp l)) := .raise (.incF (.setF hu ha.stat) ha.cnt)
  split
  · split
    · exact hu
    · exact hmiss
  · exact hmiss

theorem Spares.cycleCore {e uff lo hi base : Int} (h : Spares a s t) (ha : CycleSpared l a) : Spares a s (t.cycleCore l e uff lo hi base).2 :=
  .setFi (.setFi (.ite (.incF (.setF h.setLoop ha.stat) ha.cnt) h.setLoop) ha.out) ha.out

theorem Spares.etolCheck {err cls : Nat} (h : Spares a s t) (ha : a ≠ SERVON.STAT.RUN.addr l) : Spares a s (t.etolCheck l err cls) :=
  .ite h.setLoop (.ite (.raise (.setF h.setLoop ha)) h.setLoop)

theorem Spares.saveStates (h : Spares a s t) : Spares a s (t.saveStates l) := h.sts

end Spared

end Sys2Proof.Machine
end

section
namespace Sys2Proof.Machine

open Sys2Proof

/-! ### The start of a loop's cycle (R227, R230, R244, R248) -/

theorem State.loop_setLoop_same {s : State} (hs : s.canonical = true) (l : Nat) (x : Loop) : (s.setLoop l x).loop l = x :=
  (State.loop_setLoop hs l l x).trans (if_pos rfl)

theorem State.canonical_setLoop {s : State} (l : Nat) (x : Loop) (hs : s.canonical = true) : (s.setLoop l x).canonical = true :=
  (State.setLoop_kept (Kept.refl s)).canon hs

section Begin

variable {s : State} {l : Nat}

/-- Nothing is pending, so nothing applies. -/
theorem State.applyPending_none (hpend : (s.loop l).pend = none) (htable : (s.loop l).tableWhen = none) (n : Nat) : s.applyPending l n = s := by
  unfold State.applyPending
  simp only [hpend, htable]

/-- The trigger of a cycle touches the network and the event counters alone. -/
theorem State.takeTrig_fields (s : State) (c tc : Nat) :
    (s.takeTrig c tc).loops = s.loops ∧ (s.takeTrig c tc).auxs = s.auxs ∧ (s.takeTrig c tc).mem = s.mem ∧ (s.takeTrig c tc).mt = s.mt := by
  unfold State.takeTrig
  split <;> simp

/-- What begins every cycle of a loop: MT reaches its instant, its trigger is taken, and the cycles missed before it are counted. -/
def State.turn (s : State) (c l tc p : Nat) : State := ((s.reach tc).takeTrig c tc).abandoned l tc p

theorem Spares.turn {a c tc p : Nat} {t : State} (h : Spares a s t) (ha : CycleSpared l a) : Spares a s (t.turn c l tc p) :=
  .abandoned (.takeTrig h.reach ha.events) ha

theorem State.canonical_turn (hs : s.canonical = true) (c tc p : Nat) : (s.turn c l tc p).canonical = true :=
  (State.abandoned_kept (State.takeTrig_kept (State.reach_kept (Kept.refl s)))).canon hs

theorem State.turn_mt (s : State) (c l tc p : Nat) : (s.turn c l tc p).mt = max s.mt tc :=
  (Same.abandoned (Same.takeTrig (Same.refl .mt (s.reach tc)))).eq

theorem State.turn_mem (s : State) (c l tc p : Nat) : (s.turn c l tc p).mem = s.mem :=
  (Same.abandoned (Same.takeTrig (Same.refl .mem (s.reach tc)))).eq

theorem State.abandoned_auxs (s : State) (l tc p : Nat) : (s.abandoned l tc p).auxs = s.auxs := by
  unfold State.abandoned
  extract_lets +onlyGivenNames x missed u v
  have hu : u.auxs = s.auxs := rfl
  have hv : v.auxs = s.auxs := by simp [v, hu]
  clear_value u v
  split
  · exact hu
  · split <;> simp [hv]

theorem State.turn_auxs (s : State) (c l tc p : Nat) : (s.turn c l tc p).auxs = s.auxs :=
  (State.abandoned_auxs _ l tc p).trans (State.takeTrig_fields (s.reach tc) c tc).2.1

/-- Of the loop's record only the last instant and the run of missed cycles change. -/
theorem State.turn_loop (hs : s.canonical = true) (c tc p : Nat) :
    ∃ last run, (s.turn c l tc p).loop l = { s.loop l with lastTc := last, ovrRun := run } := by
  obtain ⟨w, hw⟩ : ∃ w, w = (s.reach tc).takeTrig c tc := ⟨_, rfl⟩
  have hwc : w.canonical = true := hw ▸ (State.takeTrig_kept (State.reach_kept (Kept.refl s))).canon hs
  have hwl : w.loop l = s.loop l := State.loop_congr (hw ▸ (State.takeTrig_fields (s.reach tc) c tc).1) l
  unfold State.turn State.abandoned
  rw [← hw, ← hwl]
  extract_lets +onlyGivenNames x missed u v
  have hv : v.loops = u.loops := by simp [v]
  refine ⟨some tc, if missed = 0 then 0 else x.ovrRun + missed, (State.loop_congr ?_ l).trans (State.loop_setLoop_same hwc l _)⟩
  change _ = u.loops
  clear_value u v
  split
  · rfl
  · split <;> simp [hv]

end Begin

/-! ### A cycle without a measured position (R234) -/

section NoMeasure

variable {s : State} {l : Nat}

/-- The loop holds, and but for its record, its status and a warning nothing changes. -/
theorem State.noMeasure_leaves (hs : s.canonical = true) :
    (s.noMeasure l).f SERVON.STAT.HOLD l = 1 ∧ (s.noMeasure l).net = s.net ∧ (s.noMeasure l).auxs = s.auxs := by
  unfold State.noMeasure
  extract_lets +onlyGivenNames x u
  have hu : u.canonical = true := State.canonical_setF _ _ _ hs
  have hhold : u.f SERVON.STAT.HOLD l = 1 := State.f_setF_same hs _ _ _ (by decide)
  have hfields : u.net = s.net ∧ u.auxs = s.auxs := by simp [u]
  clear_value u
  split
  · exact ⟨hhold, hfields⟩
  · refine ⟨?_, by simpa [State.setLoop] using hfields⟩
    exact (State.f_setF_bits (State.canonical_setLoop l _ hu) SERVON.STAT.FBMISS SERVON.STAT.HOLD l l 1 (by decide) (by decide)).trans hhold

end NoMeasure

/-! ### The section step and the error tolerance (R230, R232, R236) -/

section Core

variable {s : State} {l : Nat} {e uff lo hi base : Int}

theorem sat_bounds (n : Nat) (v : Int) : -((2 ^ (n - 1) : Nat) : Int) ≤ sat n v ∧ sat n v < ((2 ^ (n - 1) : Nat) : Int) := by
  have hp : 0 < 2 ^ (n - 1) := Nat.two_pow_pos _
  unfold sat clamp
  split_ifs <;> omega

theorem clamp_bounds {lo hi : Int} (h : lo ≤ hi) (v : Int) : lo ≤ clamp lo hi v ∧ clamp lo hi v ≤ hi := by
  unfold clamp
  split_ifs <;> omega

/-- The output of the section step is the cascade's with the feed-forward, clamped; beside it the loop's states alone change in its record, and
OUT.ERR holds the error. -/
theorem State.cycleCore_leaves (hs : s.canonical = true) (he : -((2 ^ 23 : Nat) : Int) ≤ e ∧ e < ((2 ^ 23 : Nat) : Int)) {c : Int × State}
    (hc : c = s.cycleCore l e uff lo hi base) :
    c.1 = clamp lo hi ((cascade (s.loop l).set.sects (s.loadStates l) e).1 + uff + base) ∧
      (∃ st, c.2.loop l = { s.loop l with st, lastU := c.1 }) ∧ c.2.fi SERVON.OUT.ERR l = e := by
  unfold State.cycleCore at hc
  extract_lets +onlyGivenNames x r uraw u clampd st v w at hc
  subst hc
  have hv : v.canonical = true := State.canonical_setLoop l _ hs
  have hw : w.canonical = true := (Kept.ite (State.incF_kept (State.setF_kept (Kept.refl v))) (Kept.refl v)).canon hv
  have hloops : w.loops = v.loops := by
    unfold w
    split <;> simp
  have herr : (w.setFi SERVON.OUT.ERR l e).canonical = true := State.canonical_setFi _ _ _ hw
  refine ⟨rfl, ⟨st, (State.loop_congr (s := v) (by simp [hloops]) l).trans (State.loop_setLoop_same hs l _)⟩, ?_⟩
  have hux : ((w.setFi SERVON.OUT.ERR l e).setFi SERVON.OUT.U l u).f SERVON.OUT.ERR l = ux 24 e :=
    (State.f_setF_bits herr SERVON.OUT.U SERVON.OUT.ERR l l _ (by decide) (by decide)).trans
      ((State.f_setF_same hw SERVON.OUT.ERR l _ (by decide)).trans (Nat.mod_eq_of_lt (ux_lt 24 e)))
  exact (congrArg (sx 24) hux).trans (sx_ux (by decide) he)

/-- The error tolerance counts in the loop's record and leaves HOLD. -/
theorem State.etolCheck_leaves (hs : s.canonical = true) (err cls : Nat) :
    let t := s.etolCheck l err cls
    (∃ n, t.loop l = { s.loop l with etolCnt := n }) ∧ t.f SERVON.STAT.HOLD l = s.f SERVON.STAT.HOLD l := by
  unfold State.etolCheck
  extract_lets +onlyGivenNames tol x n
  have hset : ∀ m, (s.setLoop l { x with etolCnt := m }).loop l = { s.loop l with etolCnt := m } := fun m => State.loop_setLoop_same hs l _
  have hlow : ∀ m, ((s.setLoop l { x with etolCnt := m }).setF SERVON.STAT.ETOL l 1).f SERVON.STAT.HOLD l = s.f SERVON.STAT.HOLD l := fun m =>
    State.f_setF_bits (State.canonical_setLoop l _ hs) SERVON.STAT.ETOL SERVON.STAT.HOLD l l 1 (by decide) (by decide)
  split
  · exact ⟨⟨0, hset 0⟩, rfl⟩
  · split
    · exact ⟨⟨n, (State.loop_congr (by simp) l).trans (hset n)⟩, hlow n⟩
    · exact ⟨⟨n, hset n⟩, rfl⟩

/-- The states a loop that has begun takes up are those it kept, where software has not written to their area (R250). -/
theorem State.loadStates_kept (h : s.lds (s.stateAddr l) 16 = stateWords (s.loop l).st) : s.loadStates l = (s.loop l).st := by
  simp [State.loadStates, h]

end Core

end Sys2Proof.Machine
end

section
namespace Sys2Proof.Machine

open Sys2Proof

/-! ### The command of a galvo or focus cycle (R233) -/

theorem command_lt (mode v : Nat) : place mode 2 62 + place v 16 0 < 2 ^ 64 := by
  unfold place
  omega

theorem bits_command_mode (mode v : Nat) : bits (wd (place mode 2 62 + place v 16 0)) 63 62 = mode % 4 := by
  rw [bits_wd (command_lt mode v)]
  unfold place
  omega

theorem bits_command_value (mode v : Nat) : bits (wd (place mode 2 62 + place v 16 0)) 15 0 = v % 2 ^ 16 := by
  rw [bits_wd (command_lt mode v)]
  unfold place
  omega

/-- A command of loop `l` in mode `mode` with output `u` for the cycle at `tc`, as the network carries it. -/
structure GalvoCommand (s : State) (l tc mode : Nat) (u : Int) (q : Token) : Prop where
  dest : q.dest.toNat = 0x300 + l / 3
  stream : q.stream.toNat = 0x10 + l % 3
  kind : q.kind = 1#4
  payload : q.payload = wd (place mode 2 62 + place (ux 16 u) 16 0)
  time : q.time = BitVec.ofNat 48 (tc + s.f SERVO.CFG.GODLY)

theorem State.sendGalvo_sends (s : State) {l : Nat} (hl : l < 72) (tc mode : Nat) (u : Int) :
    ∃ q, (s.sendGalvo l tc mode u).net.getLast? = some q ∧ GalvoCommand s l tc mode u q := by
  refine ⟨_, List.getLast?_concat, ?_, ?_, rfl, rfl, rfl⟩
  · exact (BitVec.toNat_ofNat ..).trans (Nat.mod_eq_of_lt (by omega))
  · exact (BitVec.toNat_ofNat ..).trans (Nat.mod_eq_of_lt (by omega))

/-! ### A galvo or focus cycle (R228–R236) -/

section Galvo

variable {s : State} {l tc : Nat}

/-- An enabled loop with nothing pending and no sample only holds. -/
theorem galvoCycle_noSample (hs : s.canonical = true) (hen : s.f SERVON.CFG.EN l = 1) (hcycle : s.isCycle 120 tc = true)
    (hpend : (s.loop l).pend = none) (htable : (s.loop l).tableWhen = none) (hsamples : (s.loop l).samples = []) :
    galvoCycle l tc s = ((s.turn 120 l tc s.servoPeriod).noMeasure l).sendGalvo l tc 1 0 := by
  have hon : s.on SERVON.CFG.EN l = true := State.on_iff.2 (by rw [hen]; decide)
  obtain ⟨last, run, hloop⟩ := State.turn_loop (l := l) hs 120 tc s.servoPeriod
  unfold galvoCycle
  rw [if_neg (by simp [hon, hcycle])]
  extract_lets +onlyGivenNames u v x
  have hv : v = s.turn 120 l tc s.servoPeriod :=
    State.applyPending_none (s := u) ((congrArg Loop.pend hloop).trans hpend) ((congrArg Loop.tableWhen hloop).trans htable) tc
  have hx : x.samples = [] := (congrArg (fun w => (w.loop l).samples) hv).trans ((congrArg Loop.samples hloop).trans hsamples)
  rw [if_pos hx, hv]

/-- A sample in the window is the measured value; no cycle is carried on. -/
theorem State.cycleMeasure_sample {p : Nat} {m : AxSample} (h : s.windowSample l tc p = some m) :
    s.cycleMeasure l tc p = ((m.y16 : Int), false, s.setLoop l { s.loop l with extrap := 0 }) := by
  unfold State.cycleMeasure
  rw [h]

/-- A set-point newer than the last cycle is taken, and those before it are discarded. -/
theorem State.cycleSetpt_taken {p i : Nat} {w : Word} (pos vel acc : Word → Int) (h : (takeSetpt (s.loop l).setpts tc).1 = some (i, w))
    (hi : tc - p < i) :
    s.cycleSetpt l tc p pos vel acc = (pos w, vel w, acc w, s.setLoop l { s.loop l with setpts := (takeSetpt (s.loop l).setpts tc).2 }) := by
  unfold State.cycleSetpt
  simp only [h, hi, if_true]

/-- With RSTEP 0 the reference does not ramp. -/
theorem shapeRef_zero (rPrev velPrev accPrev pos : Int) (p : Nat) : shapeRef 0 rPrev velPrev accPrev pos p = (pos, false) := by
  simp [shapeRef]

/-- A loop without a table has no table term. -/
theorem State.ftGalvo_noTable (h : s.f SERVON.FFT.VALID l = 0) (r vel : Int) : s.ftGalvo l r vel = 0 := by
  simp [State.ftGalvo, State.on, h]

theorem State.ne_nil_of_windowSample {p : Nat} {m : AxSample} (h : s.windowSample l tc p = some m) : (s.loop l).samples ≠ [] := fun e => by
  simp [State.windowSample, e] at h

/-- The window depends on the samples and SAGE alone. -/
theorem State.windowSample_congr {t : State} (hsamples : (t.loop l).samples = (s.loop l).samples) (hsage : t.f SERVO.CFG.SAGE = s.f SERVO.CFG.SAGE)
    (p : Nat) : t.windowSample l tc p = s.windowSample l tc p := by
  simp only [State.windowSample, hsamples, hsage]

/-- Keeping the states of a loop touches memory alone. -/
theorem State.saveStates_fields (s : State) (l : Nat) :
    (s.saveStates l).mt = s.mt ∧ (s.saveStates l).cw = s.cw ∧ (s.saveStates l).loops = s.loops ∧ (s.saveStates l).auxs = s.auxs ∧
      (s.saveStates l).net = s.net := by
  simp [State.saveStates]

theorem State.sendGalvo_fields (s : State) (l tc mode : Nat) (u : Int) :
    (s.sendGalvo l tc mode u).mt = s.mt ∧ (s.sendGalvo l tc mode u).cw = s.cw ∧ (s.sendGalvo l tc mode u).loops = s.loops := ⟨rfl, rfl, rfl⟩

/-- The part of a cycle past its measured value `y` and its set-point: the reference, the section step, the error tolerance, the command. -/
def State.galvoStep (s : State) (l tc p : Nat) (y : Int) (hold : Bool) (pos vel acc : Int) : State :=
  let x := s.loop l
  let r := shapeRef (s.f SERVON.CFG.RSTEP l) x.rPrev x.velPrev x.accPrev pos p
  let omax : Int := s.f SERVON.LIM.OMAX l
  let c := s.cycleCore l (sat 24 (16 * r.1 - y)) (scale (x.set.kv * vel + x.set.ka * acc) (x.set.fe - 19)) (-omax) omax (s.ftGalvo l r.1 vel)
  let z := c.2.loop l
  let u := c.2.setLoop l { z with rPrev := r.1, velPrev := vel, accPrev := acc, posPrev := pos }
  let v := ((u.setF SERVON.STAT.SHAPE l r.2.toNat).setF SERVON.STAT.HOLD l hold.toNat).etolCheck l (16 * r.1 - y).natAbs 1
  (v.saveStates l).sendGalvo l tc hold.toNat c.1

/-- The cycle of a loop that has begun and has samples: its measured value, its set-point, and the step on them. -/
theorem galvoCycle_steps (hen : s.f SERVON.CFG.EN l = 1) (hcycle : s.isCycle 120 tc = true) {v : State}
    (hv : v = (s.turn 120 l tc s.servoPeriod).applyPending l tc) (hsamples : (v.loop l).samples ≠ []) (hbegun : (v.loop l).begun = true) :
    galvoCycle l tc s =
      let m := v.cycleMeasure l tc s.servoPeriod
      let q := m.2.2.cycleSetpt l tc s.servoPeriod (fun w => bits w 63 40) (fun w => sbits w 39 16) (fun w => sbits w 15 0)
      q.2.2.2.galvoStep l tc s.servoPeriod m.1 m.2.1 q.1 q.2.1 q.2.2.1 := by
  have hon : s.on SERVON.CFG.EN l = true := State.on_iff.2 (by rw [hen]; decide)
  unfold galvoCycle
  rw [if_neg (by simp [hon, hcycle])]
  extract_lets +onlyGivenNames u w x
  have hw : w = v := hv.symm
  clear_value w
  subst hw
  rw [if_neg hsamples]
  extract_lets +onlyGivenNames w₁
  rw [show w₁ = w from if_pos hbegun]
  rfl

/-- The output of a cycle of loop `l` on error `e`: its sections' output with the feed-forward of speed and acceleration, clamped to OMAX. -/
def State.cycleOutput (s : State) (l : Nat) (e vel acc : Int) : Int :=
  let x := s.loop l
  clamp (-(s.f SERVON.LIM.OMAX l)) (s.f SERVON.LIM.OMAX l) ((cascade x.set.sects x.st e).1 + scale (x.set.kv * vel + x.set.ka * acc) (x.set.fe - 19))

/-- From `s` a cycle of loop `l` at set-point (`pos`, `vel`, `acc`) and measured value `y` has ended; the loop does not hold. -/
structure CycleFollowed (s : State) (l tc : Nat) (y pos vel acc : Int) (t : State) : Prop where
  mt : t.mt = s.mt
  err : t.fi SERVON.OUT.ERR l = sat 24 (16 * pos - y)
  hold : t.f SERVON.STAT.HOLD l = 0
  posPrev : (t.loop l).posPrev = pos
  output : (t.loop l).lastU = s.cycleOutput l (sat 24 (16 * pos - y)) vel acc
  sends : ∃ q, t.net.getLast? = some q ∧ GalvoCommand s l tc 0 (s.cycleOutput l (sat 24 (16 * pos - y)) vel acc) q

theorem GalvoCommand.congr {t : State} {mode : Nat} {u : Int} {q : Token} (h : GalvoCommand t l tc mode u q)
    (hg : t.f SERVO.CFG.GODLY = s.f SERVO.CFG.GODLY) : GalvoCommand s l tc mode u q :=
  ⟨h.dest, h.stream, h.kind, h.payload, hg ▸ h.time⟩

/-- With no ramp, no table and its states kept, the step follows its set-point. -/
theorem State.galvoStep_follows (hs : s.canonical = true) (hl : l < 72) (hstep : s.f SERVON.CFG.RSTEP l = 0) (hfft : s.f SERVON.FFT.VALID l = 0)
    (hkept : s.lds (s.stateAddr l) 16 = stateWords (s.loop l).st) (p : Nat) (y pos vel acc : Int) :
    CycleFollowed s l tc y pos vel acc (s.galvoStep l tc p y false pos vel acc) := by
  unfold State.galvoStep
  rw [hstep]
  extract_lets +onlyGivenNames x r omax
  rw [show r = (pos, false) from shapeRef_zero .., State.ftGalvo_noTable hfft]
  extract_lets +onlyGivenNames c z u v
  -- the section step
  obtain ⟨hclamp, ⟨st, hcl⟩, herr⟩ := State.cycleCore_leaves hs (sat_bounds 24 (16 * pos - y)) (c := c) rfl
  have hout : c.1 = s.cycleOutput l (sat 24 (16 * pos - y)) vel acc := hclamp.trans (by rw [State.loadStates_kept hkept, Int.add_zero]; rfl)
  have hcc : c.2.canonical = true := (State.cycleCore_kept (Kept.refl s)).canon hs
  have hcmt : c.2.mt = s.mt := (Same.cycleCore (Same.refl .mt s)).eq
  have hgodly : c.2.f SERVO.CFG.GODLY = s.f SERVO.CFG.GODLY := Spares.field (Spares.cycleCore (.refl _ s) (cycleSpared_of_line (by decide))) hs
  clear_value c
  -- the record of the cycle, and the status
  have hu : u.canonical = true := State.canonical_setLoop l _ hcc
  have hul : u.loop l = { c.2.loop l with rPrev := pos, velPrev := vel, accPrev := acc, posPrev := pos } := State.loop_setLoop_same hcc l _
  obtain ⟨w, hw⟩ : ∃ w, w = (u.setF SERVON.STAT.SHAPE l 0).setF SERVON.STAT.HOLD l 0 := ⟨_, rfl⟩
  have hwc : w.canonical = true := hw ▸ State.canonical_setF _ _ _ (State.canonical_setF _ _ _ hu)
  have hwhold : w.f SERVON.STAT.HOLD l = 0 := hw ▸ State.f_setF_same (State.canonical_setF _ _ _ hu) _ _ _ (by decide)
  have hwl : w.loop l = u.loop l := State.loop_congr (by simp [hw]) l
  have hv : v = w.etolCheck l (16 * pos - y).natAbs 1 := hw ▸ rfl
  obtain ⟨⟨n, hvl⟩, hvhold⟩ := State.etolCheck_leaves (l := l) hwc (16 * pos - y).natAbs 1
  rw [← hv] at hvl hvhold
  have hword : ∀ a, a ≠ SERVON.STAT.RUN.addr l → Spares a c.2 v := fun a ha =>
    hv ▸ .etolCheck (hw ▸ .setF (.setF (.setLoop (.refl a c.2)) ha) ha) ha
  have hvmt : v.mt = c.2.mt := by
    rw [hv, hw]
    exact (Same.etolCheck (Same.setF (Same.setF (Same.setLoop (Same.refl .mt c.2))))).eq
  have hvgodly : v.f SERVO.CFG.GODLY = c.2.f SERVO.CFG.GODLY := Spares.field (hword _ (Fld.addr_ne (by decide))) hcc
  clear_value v
  obtain ⟨q, hlast, hq⟩ := State.sendGalvo_sends (v.saveStates l) hl tc 0 c.1
  obtain ⟨hxmt, hxcw, hxl, _, _⟩ := State.saveStates_fields v l
  obtain ⟨htmt, htcw, htl⟩ := State.sendGalvo_fields (v.saveStates l) l tc 0 c.1
  change CycleFollowed s l tc y pos vel acc ((v.saveStates l).sendGalvo l tc 0 c.1)
  generalize v.saveStates l = x at *
  generalize x.sendGalvo l tc 0 c.1 = t at *
  have htv : t.loop l = v.loop l := State.loop_congr (htl.trans hxl) l
  have htf : ∀ f i, t.f f i = v.f f i := State.f_congr (htcw.trans hxcw)
  refine ⟨htmt.trans (hxmt.trans (hvmt.trans hcmt)), ?_, (htf _ _).trans (hvhold.trans hwhold), ?_, ?_, q, hlast, ?_⟩
  · have hkeep : v.f SERVON.OUT.ERR l = c.2.f SERVON.OUT.ERR l := Spares.field (hword _ (Fld.addr_ne (by decide))) hcc
    exact (congrArg (sx 24) ((htf _ _).trans hkeep)).trans herr
  · exact (congrArg Loop.posPrev (htv.trans hvl)).trans (congrArg Loop.posPrev (hwl.trans hul))
  · exact (congrArg Loop.lastU (htv.trans hvl)).trans ((congrArg Loop.lastU (hwl.trans hul)).trans ((congrArg Loop.lastU hcl).trans hout))
  · exact hout ▸ hq.congr ((State.f_congr hxcw _ _).trans (hvgodly.trans hgodly))

/-- The state in which a cycle with a set-point and a sample in its windows makes its step. -/
def State.sampled (s : State) (l tc : Nat) : State :=
  let v := s.turn 120 l tc s.servoPeriod
  let x := v.loop l
  let w := v.setLoop l { x with extrap := 0 }
  let y := w.loop l
  w.setLoop l { y with setpts := (takeSetpt y.setpts tc).2 }

/-- What the step reads is as it was before the cycle. -/
theorem State.sampled_leaves (hs : s.canonical = true) (l tc : Nat) :
    (s.sampled l tc).canonical = true ∧ (s.sampled l tc).mt = max s.mt tc ∧ (s.sampled l tc).mem = s.mem ∧
      ((s.sampled l tc).loop l).set = (s.loop l).set ∧ ((s.sampled l tc).loop l).st = (s.loop l).st ∧
      ∀ a, CycleSpared l a → Spares a s (s.sampled l tc) := by
  obtain ⟨last, run, hloop⟩ := State.turn_loop (l := l) hs 120 tc s.servoPeriod
  have hset : ((s.turn 120 l tc s.servoPeriod).loop l).set = (s.loop l).set := by rw [hloop]
  have hst : ((s.turn 120 l tc s.servoPeriod).loop l).st = (s.loop l).st := by rw [hloop]
  have hv := State.canonical_turn (l := l) hs 120 tc s.servoPeriod
  have hmt := State.turn_mt s 120 l tc s.servoPeriod
  have hmem := State.turn_mem s 120 l tc s.servoPeriod
  have hword : ∀ a, CycleSpared l a → Spares a s (s.turn 120 l tc s.servoPeriod) := fun a => Spares.turn (.refl a s)
  unfold State.sampled
  generalize s.turn 120 l tc s.servoPeriod = v at *
  extract_lets +onlyGivenNames u x w y
  have hw : w.canonical = true := State.canonical_setLoop l _ hv
  have hy : y = { x with extrap := 0 } := State.loop_setLoop_same hv l _
  have hend : (w.setLoop l { y with setpts := (takeSetpt y.setpts tc).2 }).loop l = { y with setpts := (takeSetpt y.setpts tc).2 } :=
    State.loop_setLoop_same hw l _
  refine ⟨State.canonical_setLoop l _ hw, hmt, hmem, ?_, ?_, fun a ha => .setLoop (.setLoop (hword a ha))⟩
  · exact (congrArg Loop.set hend).trans ((congrArg Loop.set hy).trans hset)
  · exact (congrArg Loop.st hend).trans ((congrArg Loop.st hy).trans hst)

/-- A cycle with a set-point and a sample in its windows makes its step on them. -/
theorem galvoCycle_sampled {m : AxSample} {i : Nat} {w : Word} (hs : s.canonical = true) (hen : s.f SERVON.CFG.EN l = 1)
    (hcycle : s.isCycle 120 tc = true) (hpend : (s.loop l).pend = none) (htable : (s.loop l).tableWhen = none) (hbegun : (s.loop l).begun = true)
    (hsample : s.windowSample l tc s.servoPeriod = some m) (htake : (takeSetpt (s.loop l).setpts tc).1 = some (i, w))
    (hnew : tc - s.servoPeriod < i) :
    galvoCycle l tc s = (s.sampled l tc).galvoStep l tc s.servoPeriod m.y16 false (bits w 63 40) (sbits w 39 16) (sbits w 15 0) := by
  obtain ⟨last, run, hloop⟩ := State.turn_loop (l := l) hs 120 tc s.servoPeriod
  have hv := State.canonical_turn (l := l) hs 120 tc s.servoPeriod
  have hsage : (s.turn 120 l tc s.servoPeriod).f SERVO.CFG.SAGE = s.f SERVO.CFG.SAGE :=
    Spares.field (Spares.turn (.refl _ s) (cycleSpared_of_line (by decide))) hs
  have happly := State.applyPending_none ((congrArg Loop.pend hloop).trans hpend) ((congrArg Loop.tableWhen hloop).trans htable) tc
  unfold State.sampled
  generalize hturn : s.turn 120 l tc s.servoPeriod = v at *
  have hwin : v.windowSample l tc s.servoPeriod = some m := (State.windowSample_congr (by rw [hloop]) hsage _).trans hsample
  have hsetpts : ((v.setLoop l { v.loop l with extrap := 0 }).loop l).setpts = (s.loop l).setpts :=
    (congrArg Loop.setpts (State.loop_setLoop_same hv l _)).trans (by rw [hloop])
  rw [galvoCycle_steps hen hcycle (v := v) (by rw [hturn, happly]) (State.ne_nil_of_windowSample hwin) ((congrArg Loop.begun hloop).trans hbegun),
    State.cycleMeasure_sample hwin]
  dsimp only
  rw [State.cycleSetpt_taken _ _ _ (by rw [hsetpts]; exact htake) hnew]

/-- An enabled loop without a sample commands 0 under HOLD. -/
theorem galvoCycle_holds (hs : s.canonical = true) (hl : l < 72) (hen : s.f SERVON.CFG.EN l = 1) (hcycle : s.isCycle 120 tc = true)
    (hpend : (s.loop l).pend = none) (htable : (s.loop l).tableWhen = none) (hsamples : (s.loop l).samples = []) :
    (galvoCycle l tc s).mt = max s.mt tc ∧ (galvoCycle l tc s).f SERVON.STAT.HOLD l = 1 ∧
      ∃ q, (galvoCycle l tc s).net.getLast? = some q ∧ GalvoCommand ((s.turn 120 l tc s.servoPeriod).noMeasure l) l tc 1 0 q := by
  rw [galvoCycle_noSample hs hen hcycle hpend htable hsamples]
  refine ⟨?_, (State.noMeasure_leaves (State.canonical_turn hs 120 tc s.servoPeriod)).1, State.sendGalvo_sends _ hl tc 1 0⟩
  exact (Same.noMeasure (Same.refl .mt (s.turn 120 l tc s.servoPeriod))).eq.trans (State.turn_mt ..)

/-- The words of the engine and of the loop that the step reads are those before the cycle. -/
theorem State.sampled_field {f : Fld} {i : Nat} (hs : s.canonical = true) (l tc : Nat)
    (hf : 0x100800000 ≤ f.base ∧ f.stride % 64 = 0 ∧ f.base % 64 < 0x28) : (s.sampled l tc).f f i = s.f f i :=
  Spares.field ((State.sampled_leaves hs l tc).2.2.2.2.2 _ (cycleSpared_of_line hf)) hs

/-- A cycle with a set-point and a sample in its windows, with no ramp, no table and its states kept, follows the set-point. -/
theorem galvoCycle_follows {m : AxSample} {i : Nat} {w : Word} (hs : s.canonical = true) (hl : l < 72) (hen : s.f SERVON.CFG.EN l = 1)
    (hcycle : s.isCycle 120 tc = true) (hpend : (s.loop l).pend = none) (htable : (s.loop l).tableWhen = none) (hbegun : (s.loop l).begun = true)
    (hsample : s.windowSample l tc s.servoPeriod = some m) (htake : (takeSetpt (s.loop l).setpts tc).1 = some (i, w))
    (hnew : tc - s.servoPeriod < i) (hstep : s.f SERVON.CFG.RSTEP l = 0) (hfft : s.f SERVON.FFT.VALID l = 0)
    (hkept : s.lds (s.stateAddr l) 16 = stateWords (s.loop l).st) :
    CycleFollowed (s.sampled l tc) l tc m.y16 (bits w 63 40) (sbits w 39 16) (sbits w 15 0) (galvoCycle l tc s) := by
  obtain ⟨hc, _, hmem, _, hst, _⟩ := State.sampled_leaves hs l tc
  rw [galvoCycle_sampled hs hen hcycle hpend htable hbegun hsample htake hnew]
  refine State.galvoStep_follows hc hl ?_ ?_ ?_ _ _ _ _ _
  · exact (State.sampled_field hs l tc (by decide)).trans hstep
  · exact (State.sampled_field hs l tc (by decide)).trans hfft
  · have harea : (s.sampled l tc).stateAddr l = s.stateAddr l := by
      simp only [State.stateAddr, State.sampled_field hs l tc (f := SERVO.STBASE.BASE) (i := 0) (by decide)]
    rw [harea, hst, ← hkept]
    exact State.lds_congr hmem _ _

/-- Its output is that of the loop's set and states before the cycle. -/
theorem State.sampled_cycleOutput (hs : s.canonical = true) (l tc : Nat) (e vel acc : Int) :
    (s.sampled l tc).cycleOutput l e vel acc = s.cycleOutput l e vel acc := by
  obtain ⟨_, _, _, hset, hst, _⟩ := State.sampled_leaves hs l tc
  simp only [State.cycleOutput, hset, hst, State.sampled_field hs l tc (f := SERVON.LIM.OMAX) (i := l) (by decide)]

theorem command_normal (u : Int) : place 0 2 62 + place (ux 16 u) 16 0 = ux 16 u := by
  have := ux_lt 16 u
  unfold place
  omega

/-- Settles O37: with nothing pending the cycle begins on the loop's record as it was, so that it either holds (no sample) or makes its section
step on the set-point and the sample of its windows, whose fields are then read off. -/
theorem galvoCycleResult : Obligations.GalvoCycleResult := by
  intro l tc s hs hen hcycle hpend htable x
  refine ⟨fun hsamples => ?_, fun m i w hbegun hsample htake hnew hstep hfft hkept => ?_⟩
  · obtain ⟨hmt, hhold, q, hlast, hq⟩ := galvoCycle_holds hs l.isLt hen hcycle hpend htable hsamples
    refine ⟨_, rfl, hmt, hhold, q, hlast, hq.dest, hq.stream, ?_, ?_⟩
    · rw [hq.payload, bits_command_mode]
    · rw [hq.payload, bits_command_value]
      rfl
  · have hmt : (s.sampled l tc).mt = max s.mt tc := (State.sampled_leaves hs l tc).2.1
    have hgodly : (s.sampled l tc).f SERVO.CFG.GODLY = s.f SERVO.CFG.GODLY := State.sampled_field hs l tc (by decide)
    obtain ⟨kmt, kerr, khold, kpos, kout, q, hlast, hq⟩ :=
      galvoCycle_follows hs l.isLt hen hcycle hpend htable hbegun hsample htake hnew hstep hfft hkept
    rw [State.sampled_cycleOutput hs] at kout hq
    refine ⟨_, rfl, kmt.trans hmt, kerr, khold, kpos, kout, q, hlast, hq.dest, hq.stream, hq.kind, ?_, ?_⟩
    · exact hq.payload.trans (congrArg wd (command_normal _))
    · rw [hq.time, hgodly]

end Galvo

end Sys2Proof.Machine
end

section
namespace Sys2Proof.Machine

open Sys2Proof

/-! ### A pair without an answer (R240) -/

section Pairs

variable {s : State} {n : Nat}

/-- PAIR_MISSING under a high gate: MT reaches the later of the last pair and the rise plus 5,000 ns, and the next pair clears the states. -/
theorem pairMissing_ends {r : Nat} (hs : s.canonical = true) (hrise : gateRiseAt s.gateLog n s.mt = some r) (hlevel : gateLevelAt s.gateLog n s.mt = true)
    (hen : s.f SERVON.CFG.EN (72 + n) = 1) (hclear : (s.loop (72 + n)).clearNext = false) :
    (pairMissing n s).mt = max s.mt (max r (s.loop (72 + n)).lastPair + 5000) ∧ (pairMissing n s).f SERVON.STAT.FBMISS (72 + n) = 1 ∧
      (pairMissing n s).loop (72 + n) = { s.loop (72 + n) with clearNext := true } ∧
      ∃ e, (pairMissing n s).lines = s.lines ++ [e] ∧ e.cls = 2 ∧ e.source = 9 := by
  have hon : s.on SERVON.CFG.EN (72 + n) = true := State.on_iff.2 (by rw [hen]; decide)
  unfold pairMissing
  extract_lets +onlyGivenNames l x
  split
  · next h => cases h.symm.trans hrise
  next r' h =>
  obtain rfl : r = r' := Option.some.inj (hrise.symm.trans h)
  rw [if_neg (by simp [l, x, hon, hlevel, hclear])]
  extract_lets +onlyGivenNames u
  have hu : u.canonical = true := (State.reach_kept (Kept.refl s)).canon hs
  have hlines : u.lines = s.lines := by simp [u]
  have hmt : u.mt = max s.mt (max r (s.loop (72 + n)).lastPair + 5000) := rfl
  clear_value u
  have hloop : (u.setLoop l { x with clearNext := true }).loop l = { x with clearNext := true } := State.loop_setLoop_same hu l _
  have hv : (u.setLoop l { x with clearNext := true }).canonical = true := State.canonical_setLoop l _ hu
  have hv' : (u.setLoop l { x with clearNext := true }).lines = u.lines := rfl
  have hv'' : (u.setLoop l { x with clearNext := true }).mt = u.mt := rfl
  generalize u.setLoop l { x with clearNext := true } = v at *
  have hbit : (v.setF SERVON.STAT.FBMISS l 1).f SERVON.STAT.FBMISS l = 1 := State.f_setF_same hv _ _ _ (by decide)
  refine ⟨hv''.trans hmt, ?_, (State.loop_congr (by simp) l).trans hloop, _, congrArg (· ++ _) (hv'.trans hlines), rfl, rfl⟩
  exact (Spares.field (Spares.raise (.incF (.refl _ _) (Fld.addr_ne (by decide)))) (State.canonical_setF _ _ _ hv)).trans hbit

/-! ### The power loop under a low gate (R237) -/

theorem Spares.setTap {a m : Nat} {t : State} {x : TapSt} (h : Spares a s t) : Spares a s (t.setTap m x) := h.quiet (State.setTap_kept (Kept.refl t)) rfl

theorem Spares.sendMsg {a src dest kind stream : Nat} {t : State} {ws : List Word} (h : Spares a s t) :
    Spares a s (t.sendMsg src dest kind stream ws) := h.quiet (State.sendMsg_kept (Kept.refl t)) (by simp)

theorem Spares.tapPair {a : Nat} {t : State} {p : Pair} (h : Spares a s t) (ha : a ≠ IP.PD.CFG.LOST.addr n) : Spares a s (t.tapPair n p) :=
  .ite h (.ite (.setTap h) (.ite (.setF (.setTap h) ha) (.setTap (.sendMsg h))))

/-- The tap takes a pair without touching the loops or the gates' log. -/
theorem State.tapPair_fields (s : State) (n : Nat) (p : Pair) : (s.tapPair n p).loops = s.loops ∧ (s.tapPair n p).gateLog = s.gateLog := by
  unfold State.tapPair
  extract_lets +onlyGivenNames x y dec waits
  split
  · exact ⟨rfl, rfl⟩
  · split
    · exact ⟨rfl, rfl⟩
    · split
      · exact ⟨rfl, rfl⟩
      · simp [State.setTap]

/-- `t` has the power loop's target, trim and gate of `s`. -/
structure SameTarget (n : Nat) (s t : State) : Prop where
  setpts : (t.loop (72 + n)).setpts = (s.loop (72 + n)).setpts
  advance : t.f SERVO.CFG.TADV = s.f SERVO.CFG.TADV
  trim : t.f SERVO.RULE.STAT.CTRIM n = s.f SERVO.RULE.STAT.CTRIM n
  gates : t.gateLog = s.gateLog
  hold : t.f SERVON.INP.GHOLD (72 + n) = s.f SERVON.INP.GHOLD (72 + n)

theorem SameTarget.tpOf {t : State} (h : SameTarget n s t) (at_ : Nat) : t.tpOf n at_ = s.tpOf n at_ := by
  simp only [State.tpOf, State.targetAt, h.setpts, h.advance, h.trim]

theorem SameTarget.gatedAt {t : State} (h : SameTarget n s t) (at_ : Nat) : t.gatedAt n at_ = s.gatedAt n at_ := by
  simp only [State.gatedAt, h.tpOf, h.gates, h.hold]

/-- With the same control words and gates, the target is that of the same set-points. -/
theorem SameTarget.of_cw {t : State} (hcw : t.cw = s.cw) (hgates : t.gateLog = s.gateLog)
    (hsetpts : (t.loop (72 + n)).setpts = (s.loop (72 + n)).setpts) : SameTarget n s t :=
  ⟨hsetpts, State.f_congr hcw _ _, State.f_congr hcw _ _, hgates, State.f_congr hcw _ _⟩

/-- The output of a cycle in feed-forward: the target, at most OMAX; the states are cleared. -/
def State.gatedOutput (s : State) (n tp : Nat) : State :=
  let l := 72 + n
  let x := s.loop l
  let u := min (tp : Int) (s.f SERVON.LIM.OMAX l)
  ((s.setLoop l { x with st := x.st.map (fun _ => {}), c := 0, lastU := u }).setF SERVON.STAT.GATED l 1).setFi SERVON.OUT.U l u

theorem State.gatedOutput_leaves (hs : s.canonical = true) (n tp : Nat) :
    ((s.gatedOutput n tp).loop (72 + n)).lastU = min (tp : Int) (s.f SERVON.LIM.OMAX (72 + n)) ∧
      ((s.gatedOutput n tp).loop (72 + n)).pairs = (s.loop (72 + n)).pairs ∧ ((s.gatedOutput n tp).loop (72 + n)).cycles = (s.loop (72 + n)).cycles ∧
      (s.gatedOutput n tp).f SERVON.STAT.GATED (72 + n) = 1 := by
  unfold State.gatedOutput
  extract_lets +onlyGivenNames l x u
  have hloop : (s.setLoop l { x with st := x.st.map (fun _ => {}), c := 0, lastU := u }).loop l = { x with st := x.st.map (fun _ => {}), c := 0, lastU := u } :=
    State.loop_setLoop_same hs l _
  have hv : (s.setLoop l { x with st := x.st.map (fun _ => {}), c := 0, lastU := u }).canonical = true := State.canonical_setLoop l _ hs
  generalize s.setLoop l { x with st := x.st.map (fun _ => {}), c := 0, lastU := u } = v at *
  have hend : ((v.setF SERVON.STAT.GATED l 1).setFi SERVON.OUT.U l u).loop l = v.loop l := State.loop_congr (by simp) l
  refine ⟨?_, ?_, ?_, ?_⟩
  · rw [hend, hloop]
  · rw [hend, hloop]
  · rw [hend, hloop]
  · exact (State.f_setF_word (State.canonical_setF _ _ _ hv) _ _ _ _ _ (Fld.addr_ne (by decide))).trans (State.f_setF_same hv _ _ _ (by decide))

/-- A power loop's record as a cycle counts itself in it: started at its first cycle, its states cleared after a missing pair. -/
def Loop.counted (x : Loop) : Loop :=
  let y := if x.begun then x else x.start 0
  let z := if y.clearNext then { y with st := y.st.map (fun _ => {}), clearNext := false } else y
  { z with cycles := (z.cycles + 1) % 65536 }

theorem Loop.counted_keeps (x : Loop) : x.counted.setpts = x.setpts ∧ x.counted.pairs = x.pairs ∧ x.counted.cycles = (x.cycles + 1) % 65536 := by
  unfold Loop.counted
  extract_lets +onlyGivenNames y z
  have hy : y.setpts = x.setpts ∧ y.pairs = x.pairs ∧ y.cycles = x.cycles := by
    unfold y
    split
    · exact ⟨rfl, rfl, rfl⟩
    · exact ⟨rfl, rfl, rfl⟩
  have hz : z.setpts = x.setpts ∧ z.pairs = x.pairs ∧ z.cycles = x.cycles := by
    unfold z
    split
    · exact hy
    · exact hy
  exact ⟨hz.1, hz.2.1, congrArg (fun c => (c + 1) % 65536) hz.2.2⟩

/-- A cycle with the gate low: from a state with the pair taken and the cycle counted it gives the feed-forward output and sends it. -/
theorem powerCycle_gated {p : Pair} {rest : List Pair} (hs : s.canonical = true) (hen : s.f SERVON.CFG.EN (72 + n) = 1)
    (hpairs : (s.loop (72 + n)).pairs = p :: rest) (hpend : (s.loop (72 + n)).pend = none) (htable : (s.loop (72 + n)).tableWhen = none)
    (hgated : s.gatedAt n p.stamp = true) :
    ∃ v w : State, v.canonical = true ∧ v.cw = s.cw ∧ (v.loop (72 + n)).pairs = rest ∧
      (v.loop (72 + n)).cycles = ((s.loop (72 + n)).cycles + 1) % 65536 ∧
      w.loops = (v.gatedOutput n (s.tpOf n p.stamp)).loops ∧ w.cw = (v.gatedOutput n (s.tpOf n p.stamp)).cw ∧
      powerCycle n s = (w.saveStates (72 + n)).sendPower n (w.loop (72 + n)).lastU := by
  have hon : s.on SERVON.CFG.EN (72 + n) = true := State.on_iff.2 (by rw [hen]; decide)
  unfold powerCycle
  extract_lets +onlyGivenNames l x
  split
  · next h => cases h.symm.trans hpairs
  next p' rest' h =>
  obtain ⟨rfl, rfl⟩ := List.cons.inj (hpairs.symm.trans h)
  extract_lets +onlyGivenNames v₀
  have hv₀ : v₀.canonical = true := State.canonical_setLoop l _ hs
  have hl₀ : v₀.loop l = { x with pairs := rest, lastPair := p.stamp } := State.loop_setLoop_same hs l _
  rw [if_neg (by simp [show v₀.on SERVON.CFG.EN l = true from hon])]
  rw [State.applyPending_none ((congrArg Loop.pend hl₀).trans hpend) ((congrArg Loop.tableWhen hl₀).trans htable)]
  extract_lets +onlyGivenNames v₁ x₁ x₂ x₃ v₂ told t z v tp omax cmax
  have hv₂ : v₂.canonical = true := State.canonical_setLoop l _ hv₀
  have hz : z.setpts = x.setpts ∧ z.pairs = rest ∧ z.cycles = (x.cycles + 1) % 65536 := by
    unfold z
    rw [show v₂.loop l = x₁.counted from State.loop_setLoop_same hv₀ l _, show x₁ = { x with pairs := rest, lastPair := p.stamp } from hl₀]
    exact Loop.counted_keeps _
  have hcw₂ : v₂.cw = s.cw := rfl
  have hgates₂ : v₂.gateLog = s.gateLog := rfl
  have hv : v.canonical = true ∧ v.cw = s.cw ∧ v.gateLog = s.gateLog ∧ (v.loop l).setpts = x.setpts ∧ (v.loop l).pairs = rest ∧
      (v.loop l).cycles = (x.cycles + 1) % 65536 := by
    unfold v
    split
    · exact ⟨hv₂, hcw₂, hgates₂, hz⟩
    · refine ⟨State.canonical_setLoop l _ hv₂, hcw₂, hgates₂, ?_⟩
      rw [State.loop_setLoop_same hv₂]
      exact hz
  obtain ⟨hvc, hvcw, hvgates, hvsetpts, hvpairs, hvcycles⟩ := hv
  have hsame : SameTarget n s v := .of_cw hvcw hvgates hvsetpts
  rw [if_pos ((hsame.gatedAt _).trans hgated)]
  extract_lets +onlyGivenNames y out v₃ u₀ u x' q w
  have hu : u = v.gatedOutput n (s.tpOf n p.stamp) := by
    rw [← hsame.tpOf]
    rfl
  have hw : w.loops = u.loops ∧ w.cw = u.cw := by
    unfold w
    split
    · split
      · exact ⟨rfl, rfl⟩
      · exact ⟨rfl, rfl⟩
    · exact ⟨rfl, rfl⟩
  refine ⟨v, w, hvc, hvcw, hvpairs, hvcycles, hw.1.trans (congrArg _ hu), hw.2.trans (congrArg _ hu), ?_⟩
  rw [State.loop_congr hw.1]

/-- A power command carries the count of the loop's cycles and its output. -/
theorem bits_power_value (c u : Nat) : bits (wd (place c 16 48 + place u 16 0)) 15 0 = u % 65536 := by
  rw [bits_wd (by unfold place; omega)]
  unfold place
  omega

theorem bits_power_cycles (c u : Nat) : bits (wd (place c 16 48 + place u 16 0)) 63 48 = c % 65536 := by
  rw [bits_wd (by unfold place; omega)]
  unfold place
  omega

theorem ux_ofNat {m v : Nat} (h : v < 2 ^ m) : ux m (v : Int) = v := by
  unfold ux
  rw [Int.emod_eq_of_lt (by omega) (by exact_mod_cast h), Int.toNat_natCast]

theorem State.tpOf_lt (s : State) (n at_ : Nat) : s.tpOf n at_ < 2 ^ 16 := Nat.lt_succ_of_le (min_le_left _ _)

/-- `q` is a power command of head n with output `u` of cycle `c`. -/
structure PowerCommand (n u c : Nat) (q : Token) : Prop where
  dest : q.dest.toNat = 0x300 + n
  kind : q.kind = 1#4
  stream : q.stream = 0x18#8
  urgent : q.urgent = true
  value : bits q.payload 15 0 = u
  cycles : bits q.payload 63 48 = c

theorem State.sendPower_sends {c u : Nat} (s : State) (hn : n < 24) (hu : u < 2 ^ 16) (hc : (s.loop (72 + n)).cycles = c % 65536) :
    ∃ q, (s.sendPower n u).net.getLast? = some q ∧ PowerCommand n u (c % 65536) q := by
  refine ⟨_, List.getLast?_concat, ?_, rfl, rfl, rfl, ?_, ?_⟩
  · exact (BitVec.toNat_ofNat ..).trans (Nat.mod_eq_of_lt (by omega))
  · refine (bits_power_value _ _).trans ?_
    rw [ux_ofNat hu]
    exact Nat.mod_eq_of_lt hu
  · refine (bits_power_cycles _ _).trans ?_
    rw [hc, Nat.mod_mod]

/-- Under a low gate POWER_LOOP_CYCLE takes the oldest pair, and the loop's command is its target, at most OMAX. -/
theorem powerLoopCycle_gated {p : Pair} {rest : List Pair} (hs : s.canonical = true) (hn : n < 24) (hen : s.f SERVON.CFG.EN (72 + n) = 1)
    (hpairs : (s.loop (72 + n)).pairs = p :: rest) (hpend : (s.loop (72 + n)).pend = none) (htable : (s.loop (72 + n)).tableWhen = none)
    (hgated : s.gatedAt n p.stamp = true) :
    ((powerLoopCycle n s).loop (72 + n)).pairs = rest ∧ (powerLoopCycle n s).f SERVON.STAT.GATED (72 + n) = 1 ∧
      ((powerLoopCycle n s).loop (72 + n)).lastU = min (s.tpOf n p.stamp : Int) (s.f SERVON.LIM.OMAX (72 + n)) ∧
      ∃ q, (powerLoopCycle n s).net.getLast? = some q ∧
        PowerCommand n (min (s.tpOf n p.stamp) (s.f SERVON.LIM.OMAX (72 + n))) (((s.loop (72 + n)).cycles + 1) % 65536) q := by
  obtain ⟨htloops, htgates⟩ := State.tapPair_fields s n p
  have hloop : (s.tapPair n p).loop (72 + n) = s.loop (72 + n) := State.loop_congr htloops _
  have hf : ∀ {f : Fld} {i : Nat}, i ≤ 95 → f.base + f.stride * 95 < IP.PD.CFG.LOST.base → (s.tapPair n p).f f i = s.f f i := fun {f i} hi hlt =>
    Spares.field (Spares.tapPair (.refl _ s) (Nat.ne_of_lt (lt_of_le_of_lt (Nat.add_le_add_left (Nat.mul_le_mul_left f.stride hi) f.base)
      (Nat.lt_add_right _ hlt)))) hs
  have hsame : SameTarget n s (s.tapPair n p) :=
    ⟨by rw [hloop], hf (by omega) (by decide), hf (by omega) (by decide), htgates, hf (by omega) (by decide)⟩
  have hcanon : (s.tapPair n p).canonical = true := (State.tapPair_kept (Kept.refl s)).canon hs
  have hrun : powerLoopCycle n s = powerCycle n (s.tapPair n p) := by
    unfold powerLoopCycle
    rw [hpairs]
  rw [hrun, ← hsame.tpOf, ← hf (f := SERVON.LIM.OMAX) (i := 72 + n) (by omega) (by decide), ← hloop]
  rw [← hsame.gatedAt] at hgated
  rw [← hf (f := SERVON.CFG.EN) (i := 72 + n) (by omega) (by decide)] at hen
  rw [← hloop] at hpairs hpend htable
  generalize s.tapPair n p = s at *
  obtain ⟨v, w, hv, hvcw, hvpairs, hvcycles, hwloops, hwcw, heq⟩ := powerCycle_gated hcanon hen hpairs hpend htable hgated
  obtain ⟨hlast, hopairs, hocycles, hgate⟩ := State.gatedOutput_leaves (n := n) hv (s.tpOf n p.stamp)
  have hwl := State.loop_congr hwloops (72 + n)
  have hu : (w.loop (72 + n)).lastU = ((min (s.tpOf n p.stamp) (s.f SERVON.LIM.OMAX (72 + n)) : Nat) : Int) := by
    rw [hwl, hlast, State.f_congr hvcw, Nat.cast_min]
  obtain ⟨_, hxcw, hxl, _, _⟩ := State.saveStates_fields w (72 + n)
  rw [heq, hu]
  generalize w.saveStates (72 + n) = x at *
  have hxloop : x.loop (72 + n) = w.loop (72 + n) := State.loop_congr hxl _
  refine ⟨?_, ?_, ?_, State.sendPower_sends x hn (lt_of_le_of_lt (min_le_left _ _) (State.tpOf_lt ..)) ?_⟩
  · exact (congrArg Loop.pairs (hxloop.trans hwl)).trans (hopairs.trans hvpairs)
  · exact (State.f_congr (hxcw.trans hwcw) _ _).trans hgate
  · exact (congrArg Loop.lastU hxloop).trans (hu.trans (Nat.cast_min _ _))
  · exact (congrArg Loop.cycles (hxloop.trans hwl)).trans (hocycles.trans hvcycles)

end Pairs

end Sys2Proof.Machine
end

section
namespace Sys2Proof.Machine

open Sys2Proof

/-! ### What the axes' moves and jogs leave alone (R323–R326) -/

/-- From `s` to `t` the control word at `a` and the hub samples of axis k are kept. -/
structure AuxSpares (k a : Nat) (s t : State) : Prop where
  word : Spares a s t
  samples : s.canonical = true → (t.aux k).samples = (s.aux k).samples

section Axes

variable {s t : State} {k a : Nat}

theorem AuxSpares.refl (k a : Nat) (s : State) : AuxSpares k a s s := ⟨.refl a s, fun _ => rfl⟩

/-- An operation that spares the word and does not touch the axes' records. -/
theorem AuxSpares.records {u : State} (h : AuxSpares k a s t) (hw : Spares a t u) (hu : u.auxs = t.auxs) : AuxSpares k a s u :=
  ⟨h.word.trans hw, fun hs => (congrArg AuxSt.samples (State.aux_congr hu k)).trans (h.samples hs)⟩

/-- The record of an axis may change in all but its samples. -/
theorem AuxSpares.setAux {m : Nat} {x : AuxSt} (h : AuxSpares k a s t) (hx : x.samples = (t.aux m).samples) : AuxSpares k a s (t.setAux m x) := by
  refine ⟨.setAux h.word, fun hs => ?_⟩
  rw [State.aux_setAux (h.word hs).1, ← h.samples hs]
  split
  · next e => rw [hx, e]
  · rfl

theorem AuxSpares.setAuxMoves {ms : List AuxMove} (h : AuxSpares k a s t) : AuxSpares k a s (t.setAuxMoves ms) := h.records (.setAuxMoves (.refl a t)) rfl

theorem AuxSpares.setAuxStops {l : List (Nat × Nat × Nat)} (h : AuxSpares k a s t) : AuxSpares k a s (t.setAuxStops l) :=
  h.records (.quiet (.refl a t) (State.setAuxStops_kept (Kept.refl t)) rfl) rfl

/-- The axes' STAT words follow; the axes' records stay. -/
theorem State.auxRefresh_auxs (s : State) : s.auxRefresh.auxs = s.auxs := by
  refine List.foldlRecOn (motive := fun t : State => t.auxs = s.auxs) (List.range 8) _ rfl fun t ht k _ => ?_
  extract_lets +onlyGivenNames u v
  have hu : u.auxs = t.auxs := by simp [u]
  have hv : v.auxs = u.auxs := by
    unfold v
    split <;> simp
  simpa [hv, hu] using ht

theorem State.auxNotice_auxs (s : State) (m : AuxMove) (status n : Nat) : (s.auxNotice m status n).auxs = s.auxs := by
  unfold State.auxNotice
  split <;> simp

theorem AuxSpares.auxEnd {m : AuxMove} {status n : Nat} (h : AuxSpares k a s t) (ha : ∀ m, a ≠ AUX.STAT.RUN.addr m) :
    AuxSpares k a s (t.auxEnd m status n) :=
  (h.setAuxMoves.records (.auxNotice (.refl a _)) (State.auxNotice_auxs ..)).records (.auxRefresh (.refl a _) ha) (State.auxRefresh_auxs _)

theorem AuxSpares.auxFlush {mask n : Nat} (h : AuxSpares k a s t) (ha : ∀ m, a ≠ AUX.STAT.RUN.addr m) : AuxSpares k a s (t.auxFlush mask n) :=
  List.foldlRecOn _ _ h fun _ hu _ _ => hu.auxEnd ha

/-- The moves' plan at an instant: stops take their ramps, ended moves leave. -/
theorem AuxSpares.auxPlan {tc : Nat} (h : AuxSpares k a s t) (ha : ∀ m, a ≠ AUX.STAT.RUN.addr m) : AuxSpares k a s (t.auxPlan tc) := by
  unfold State.auxPlan
  extract_lets +onlyGivenNames due u v
  have hv : AuxSpares k a s v := by
    refine List.foldlRecOn _ _ h.setAuxStops fun w hw p _ => ?_
    refine List.foldlRecOn _ _ (hw.setAuxMoves.auxFlush ha) fun x hx m _ => ?_
    split
    · split
      · exact hx.setAux rfl
      · exact hx
    · exact hx
  refine List.foldlRecOn _ _ hv fun w hw m _ => ?_
  split
  · extract_lets +onlyGivenNames x
    have hx : AuxSpares k a s x := List.foldlRecOn _ _ hw fun _ hy _ _ => hy.setAux rfl
    exact hx.auxEnd ha
  · exact hw

/-- The commanded motion of an axis: its set-point, its move or its jog. -/
theorem Spares.auxCommand {tc p : Nat} (h : Spares a s t) (hl : CycleSpared (96 + k) a) (ha : ∀ m, a ≠ AUX.STAT.RUN.addr m) :
    Spares a s (t.auxCommand k tc p).2.2.2.2 := by
  unfold State.auxCommand
  extract_lets +onlyGivenNames l
  split
  · exact .cycleSetpt h hl
  · extract_lets +onlyGivenNames x u
    have hu : Spares a s u := .setLoop h
    clear_value u
    split
    · split
      · exact .setAux hu
      · exact hu
    · split
      · exact .auxRefresh (.setAux hu) ha
      · exact hu

end Axes

end Sys2Proof.Machine
end

section
namespace Sys2Proof.Machine

open Sys2Proof

/-! ### The position cycle of an axis (R241, R328, R331) -/

section PositionCycle

variable {s : State} {l k tc : Nat}

theorem State.loadUpdate_fields (s : State) : s.loadUpdate.loops = s.loops ∧ s.loadUpdate.auxs = s.auxs := by
  unfold State.loadUpdate
  extract_lets +onlyGivenNames n b was u v
  have hv : v.loops = s.loops ∧ v.auxs = s.auxs := by simp [v, u]
  clear_value v
  split
  · simpa using hv
  · exact hv

/-- What applies takes a new set or table into the loop's record: no axis' record changes, and no cycle is carried on by it. -/
theorem State.applySet_records (hs : s.canonical = true) (l : Nat) :
    (s.applySet l).auxs = s.auxs ∧ ((s.applySet l).loop l).extrap = (s.loop l).extrap := by
  unfold State.applySet
  extract_lets +onlyGivenNames x
  split
  · exact ⟨rfl, rfl⟩
  extract_lets +onlyGivenNames u
  have hu : (u.loop l).extrap = x.extrap := by
    unfold u
    rw [State.loop_setLoop_same hs]
  have hauxs : u.auxs = s.auxs := rfl
  clear_value u
  exact ⟨by simp [State.loadUpdate_fields, hauxs], (congrArg Loop.extrap (State.loop_congr (by simp [State.loadUpdate_fields]) l)).trans hu⟩

theorem State.applyTable_records (hs : s.canonical = true) (l : Nat) :
    (s.applyTable l).auxs = s.auxs ∧ ((s.applyTable l).loop l).extrap = (s.loop l).extrap := by
  unfold State.applyTable
  extract_lets +onlyGivenNames x u
  have hu : u.canonical = true := State.canonical_setF _ _ _ (State.canonical_setF _ _ _ hs)
  refine ⟨by simp [u, State.setLoop], ?_⟩
  rw [State.loop_setLoop_same (State.canonical_setWord _ _ hu)]

theorem State.applyPending_records (hs : s.canonical = true) (l n : Nat) :
    (s.applyPending l n).auxs = s.auxs ∧ ((s.applyPending l n).loop l).extrap = (s.loop l).extrap := by
  unfold State.applyPending
  extract_lets +onlyGivenNames u
  have hu : u.canonical = true ∧ u.auxs = s.auxs ∧ (u.loop l).extrap = (s.loop l).extrap := by
    unfold u
    split
    · split
      · exact ⟨(State.applySet_kept (Kept.refl s)).canon hs, State.applySet_records hs l⟩
      · exact ⟨hs, rfl, rfl⟩
    · exact ⟨hs, rfl, rfl⟩
  clear_value u
  obtain ⟨hu, hauxs, hextrap⟩ := hu
  split
  · split
    · obtain ⟨hauxs', hextrap'⟩ := State.applyTable_records hu l
      exact ⟨hauxs'.trans hauxs, hextrap'.trans hextrap⟩
    · exact ⟨hauxs, hextrap⟩
  · exact ⟨hauxs, hextrap⟩

/-- The state in which an axis' position cycle judges its measured position. -/
def State.auxPlanned (s : State) (k tc : Nat) : State :=
  ((s.turn 121 (96 + k) tc (s.trigPeriod 121)).applyPending (96 + k) tc).auxPlan tc

theorem Spares.auxPlanned {a : Nat} (ha : PendingSpared (96 + k) a) (hp : ∀ m, a ≠ AUX.STAT.RUN.addr m) : Spares a s (s.auxPlanned k tc) :=
  .trans (.applyPending (.turn (.refl a s) ha.toCycleSpared) ha) (AuxSpares.auxPlan (.refl 0 a _) hp).word

theorem State.auxPlanned_samples (hs : s.canonical = true) (k tc : Nat) : ((s.auxPlanned k tc).aux k).samples = (s.aux k).samples := by
  have hv := State.canonical_turn (l := 96 + k) hs 121 tc (s.trigPeriod 121)
  have hw : ((s.turn 121 (96 + k) tc (s.trigPeriod 121)).applyPending (96 + k) tc).canonical = true := (State.applyPending_kept (Kept.refl _)).canon hv
  have hauxs := (State.applyPending_records hv (96 + k) tc).1.trans (State.turn_auxs s 121 (96 + k) tc (s.trigPeriod 121))
  exact ((AuxSpares.auxPlan (.refl k (SERVO.CFG.TADV.addr 0) _) (fun _ => Fld.addr_ne (by decide))).samples hw).trans
    (congrArg AuxSt.samples (State.aux_congr hauxs k))

/-- The reference and output of a cycle go to the current loop. -/
def State.pushRef (s : State) (k tc : Nat) (u r : Int) : State := s.setAux k { s.aux k with refs := ((tc + 10000, u, r) :: (s.aux k).refs).take 8 }

theorem State.pushRef_head (hs : s.canonical = true) (k tc : Nat) (u r : Int) : ((s.pushRef k tc u r).aux k).refs.head? = some (tc + 10000, u, r) :=
  congrArg (fun x : AuxSt => x.refs.head?) ((State.aux_setAux hs k k _).trans (if_pos rfl))

/-- A cycle without a measured position holds with output 0. -/
theorem auxPositionCycle_noPos (hen : s.f SERVON.CFG.EN (96 + k) = 1) (hcycle : s.isCycle 121 tc = true) (hpos : (s.auxPlanned k tc).auxHasPos k = false) :
    auxPositionCycle k tc s = ((s.auxPlanned k tc).noMeasure (96 + k)).pushRef k tc 0 ((s.auxPlanned k tc).aux k).ref := by
  have hon : s.on SERVON.CFG.EN (96 + k) = true := State.on_iff.2 (by rw [hen]; decide)
  unfold auxPositionCycle
  extract_lets +onlyGivenNames l p
  rw [if_neg (by simp [l, hon, hcycle])]
  extract_lets +onlyGivenNames u v push
  have hv : v = s.auxPlanned k tc := rfl
  clear_value v
  subst hv
  exact if_pos (by simp [hpos])

/-- A cycle with a measured position gives an output within OMAX. -/
theorem auxPositionCycle_bounded (hs : s.canonical = true) (hen : s.f SERVON.CFG.EN (96 + k) = 1) (hcycle : s.isCycle 121 tc = true)
    (hpos : (s.auxPlanned k tc).auxHasPos k = true) :
    ∃ (w : State) (u r : Int), w.canonical = true ∧ auxPositionCycle k tc s = w.pushRef k tc u r ∧
      -(s.f SERVON.LIM.OMAX (96 + k) : Int) ≤ u ∧ u ≤ s.f SERVON.LIM.OMAX (96 + k) := by
  have hon : s.on SERVON.CFG.EN (96 + k) = true := State.on_iff.2 (by rw [hen]; decide)
  have hspare : Spares (SERVON.LIM.OMAX.addr (96 + k)) s (s.auxPlanned k tc) :=
    Spares.auxPlanned (pendingSpared_of_line (by decide)) (fun _ => Fld.addr_ne (by decide))
  unfold auxPositionCycle
  extract_lets +onlyGivenNames l p
  rw [if_neg (by simp [l, hon, hcycle])]
  extract_lets +onlyGivenNames u v push
  have hv : v = s.auxPlanned k tc := rfl
  clear_value v
  subst hv
  rw [if_neg (by simp [hpos])]
  extract_lets +onlyGivenNames y v₁ x₁ v q v' x r e uff omax c w₁ z w₂ w₃ w₄ w₅
  have hstart : Spares (SERVON.LIM.OMAX.addr l) s v := by
    unfold v
    split
    · exact hspare
    · split
      · exact .setLoop hspare
      · exact .setAux (.setLoop hspare)
  have hline : CycleSpared l (SERVON.LIM.OMAX.addr l) := cycleSpared_of_line (by decide)
  have haux : ∀ m, SERVON.LIM.OMAX.addr l ≠ AUX.STAT.RUN.addr m := fun _ => Fld.addr_ne (by decide)
  clear_value v
  have hcommand : Spares (SERVON.LIM.OMAX.addr l) s v' := Spares.auxCommand hstart hline haux
  have homax : omax = s.f SERVON.LIM.OMAX l := congrArg Nat.cast (Spares.field (f := SERVON.LIM.OMAX) hcommand hs)
  have hw₁ : w₁.canonical = true := (State.cycleCore_kept (Kept.refl v')).canon (hcommand hs).1
  obtain ⟨hlo, hhi⟩ := clamp_bounds (lo := -omax) (hi := omax) (by omega) ((cascade x.set.sects (v'.loadStates l) e).1 + uff + v'.ftAux l r.1 q.2.1)
  have hw₃ : w₃.canonical = true := State.canonical_setF _ _ _ (State.canonical_setF _ _ _ (State.canonical_setLoop l _ hw₁))
  clear_value w₃
  have hw₅ : w₅.canonical = true := (State.auxMode_kept (State.auxHold_kept (State.etolCheck_kept (Kept.refl w₃)))).canon hw₃
  exact ⟨w₅.saveStates l, c.1, r.1, (State.saveStates_kept (Kept.refl w₅)).canon hw₅, rfl, homax ▸ hlo, homax ▸ hhi⟩

/-- The axes' source words lie past the servo engine's words and before the axes'. -/
theorem pendingSpared_source (hk : k < 8) : PendingSpared (96 + k) (POS.AX.SRC.V.addr k) := by
  have haddr : POS.AX.SRC.V.addr k = 0x100c03600 + 8 * k := rfl
  have hne : ∀ {f : Fld} {i : Nat}, i ≤ 103 → f.base + f.stride * 103 < POS.AX.SRC.V.base → POS.AX.SRC.V.addr k ≠ f.addr i := fun {f i} hi hlt =>
    Nat.ne_of_gt (lt_of_le_of_lt (Nat.add_le_add_left (Nat.mul_le_mul_left f.stride hi) f.base) (Nat.lt_add_right _ hlt))
  refine ⟨⟨?_, ?_, ?_, ?_, ?_⟩, ?_, ?_, ?_, ?_⟩
  · unfold blockOf
    omega
  all_goals exact hne (by omega) (by decide)

theorem source_ne_auxStat (hk : k < 8) (m : Nat) : POS.AX.SRC.V.addr k ≠ AUX.STAT.RUN.addr m := by
  have haddr : POS.AX.SRC.V.addr k = 0x100c03600 + 8 * k := rfl
  have hstat : AUX.STAT.RUN.addr m = 0x101601030 + 0x40 * m := rfl
  omega

/-- What an axis without a hub sample has for a measured position is judged as before the cycle. -/
theorem State.auxPlanned_hasPos (hs : s.canonical = true) (hk : k < 8) (tc : Nat) : (s.auxPlanned k tc).auxHasPos k = s.auxHasPos k := by
  have hsrc : (s.auxPlanned k tc).f POS.AX.SRC.V k = s.f POS.AX.SRC.V k :=
    Spares.field (Spares.auxPlanned (pendingSpared_source hk) (source_ne_auxStat hk)) hs
  simp only [State.auxHasPos, hsrc, State.auxPlanned_samples hs]

/-- AUX_POSITION_CYCLE leaves an output within OMAX for the current loop, and 0 under HOLD without a measured position. -/
theorem auxPositionCycle_leaves (hs : s.canonical = true) (hk : k < 8) (hen : s.f SERVON.CFG.EN (96 + k) = 1) (hcycle : s.isCycle 121 tc = true) :
    ∃ u r, ((auxPositionCycle k tc s).aux k).refs.head? = some (tc + 10000, u, r) ∧ -(s.f SERVON.LIM.OMAX (96 + k) : Int) ≤ u ∧
      u ≤ s.f SERVON.LIM.OMAX (96 + k) ∧
      (s.f POS.AX.SRC.V k = 2 → (s.aux k).samples = [] → u = 0 ∧ (auxPositionCycle k tc s).f SERVON.STAT.HOLD (96 + k) = 1) := by
  have hjudged := State.auxPlanned_hasPos hs hk tc
  cases hpos : (s.auxPlanned k tc).auxHasPos k with
  | true =>
    obtain ⟨w, u, r, hw, heq, hlo, hhi⟩ := auxPositionCycle_bounded hs hen hcycle hpos
    refine ⟨u, r, heq ▸ State.pushRef_head hw k tc u r, hlo, hhi, fun hsrc hsamples => ?_⟩
    rw [hjudged] at hpos
    simp [State.auxHasPos, hsrc, hsamples] at hpos
  | false =>
    have hv : (s.auxPlanned k tc).canonical = true := (Spares.auxPlanned (pendingSpared_source hk) (source_ne_auxStat hk) hs).1
    have hw := (State.noMeasure_kept (y1 := 96 + k) (Kept.refl (s.auxPlanned k tc))).canon hv
    have hhold := (State.noMeasure_leaves (l := 96 + k) hv).1
    rw [auxPositionCycle_noPos hen hcycle hpos]
    generalize (s.auxPlanned k tc).noMeasure (96 + k) = w at *
    exact ⟨0, _, State.pushRef_head hw k tc _ _, by omega, by omega, fun _ _ => ⟨rfl, hhold⟩⟩

end PositionCycle

end Sys2Proof.Machine
end

section
namespace Sys2Proof.Machine

open Sys2Proof

/-! ### The current cycle of an axis (R243, R328–R332) -/

section CurrentCycle

variable {s : State} {l k tc : Nat}

theorem bits_commutation_mode (m r v : Nat) (hr : r < 2) : bits (wd (place m 2 62 + place r 1 61 + place v 16 0)) 63 62 = m % 4 := by
  rw [bits_wd (by unfold place; omega)]
  unfold place
  omega

/-- The two tokens of a current cycle: the commutation, then the command, both for the cycle's instant plus AODLY. -/
structure CurrentCommands (k at_ cmode : Nat) (a b : Token) : Prop where
  streams : a.stream = 0x11#8 ∧ b.stream = 0x10#8
  dests : a.dest.toNat = 0x36C + k ∧ b.dest.toNat = 0x36C + k
  times : a.time = BitVec.ofNat 48 at_ ∧ b.time = BitVec.ofNat 48 at_
  mode : bits a.payload 63 62 = cmode % 4

theorem State.sendAux_sends (s : State) (hk : k < 8) (tc mode : Nat) (u : Int) (cmode ang : Nat) :
    ∃ l a b, (s.sendAux k tc mode u cmode ang).net = l ++ [a, b] ∧ CurrentCommands k (tc + s.f SERVO.CFG.AODLY) cmode a b := by
  refine ⟨s.net, _, _, List.append_assoc .., ⟨rfl, rfl⟩, ⟨?_, ?_⟩, ⟨rfl, rfl⟩, ?_⟩
  · exact (BitVec.toNat_ofNat ..).trans (Nat.mod_eq_of_lt (by omega))
  · exact (BitVec.toNat_ofNat ..).trans (Nat.mod_eq_of_lt (by omega))
  · exact bits_commutation_mode _ _ _ (Bool.toNat_lt _)

theorem Spares.auxModeApply {a : Nat} {t : State} (h : Spares a s t) (ha : a ≠ AUX.STAT.STRONG.addr k) : Spares a s (t.auxModeApply k tc) := by
  unfold State.auxModeApply
  extract_lets +onlyGivenNames x l
  split
  · exact .ite h (.setLoop (.setF (.setAux h) ha))
  · exact h

/-- A change of the coil mode keeps the samples, and no cycle is carried on by it. -/
theorem State.auxModeApply_records (hs : s.canonical = true) (k tc : Nat) :
    ((s.auxModeApply k tc).aux k).samples = (s.aux k).samples ∧ ((s.auxModeApply k tc).loop (104 + k)).extrap = (s.loop (104 + k)).extrap := by
  unfold State.auxModeApply
  extract_lets +onlyGivenNames x l
  split
  · split
    · exact ⟨rfl, rfl⟩
    · next t strong _ _ =>
      extract_lets +onlyGivenNames u y clear va
      have hset : (s.setAux k { x with decision := none }).canonical = true := (State.setAux_kept (Kept.refl s)).canon hs
      have hu : u.canonical = true := State.canonical_setF _ _ _ hset
      refine ⟨?_, ?_⟩
      · have haux : (u.aux k).samples = x.samples := by
          rw [State.aux_congr (s := s.setAux k { x with decision := none }) (by simp [u]) k, State.aux_setAux hs, if_pos rfl]
        exact haux
      · rw [State.loop_setLoop_same hu]
        have hloop : (u.loop l).extrap = (s.loop l).extrap := congrArg Loop.extrap (State.loop_congr (by simp [u, State.setAux]) l)
        exact hloop
  · exact ⟨rfl, rfl⟩

/-- The state in which an axis' current cycle judges its samples. -/
def State.auxJudged (s : State) (k tc : Nat) : State :=
  ((s.turn 122 (104 + k) tc (s.trigPeriod 122)).applyPending (104 + k) tc).auxModeApply k tc

theorem Spares.auxJudged {a : Nat} (ha : PendingSpared (104 + k) a) (hm : a ≠ AUX.STAT.STRONG.addr k) : Spares a s (s.auxJudged k tc) :=
  .auxModeApply (.applyPending (.turn (.refl a s) ha.toCycleSpared) ha) hm

theorem State.auxJudged_records (hs : s.canonical = true) (k tc : Nat) :
    ((s.auxJudged k tc).aux k).samples = (s.aux k).samples ∧ ((s.auxJudged k tc).loop (104 + k)).extrap = (s.loop (104 + k)).extrap := by
  have hv := State.canonical_turn (l := 104 + k) hs 122 tc (s.trigPeriod 122)
  have hauxs := State.turn_auxs s 122 (104 + k) tc (s.trigPeriod 122)
  have hextrap : ((s.turn 122 (104 + k) tc (s.trigPeriod 122)).loop (104 + k)).extrap = (s.loop (104 + k)).extrap := by
    obtain ⟨last, run, hloop⟩ := State.turn_loop (l := 104 + k) hs 122 tc (s.trigPeriod 122)
    rw [hloop]
  unfold State.auxJudged
  generalize s.turn 122 (104 + k) tc (s.trigPeriod 122) = v at *
  obtain ⟨hwauxs, hwextrap⟩ := State.applyPending_records hv (104 + k) tc
  obtain ⟨hsamples, hkept⟩ := State.auxModeApply_records ((State.applyPending_kept (Kept.refl v)).canon hv) k tc
  exact ⟨hsamples.trans (congrArg AuxSt.samples (State.aux_congr (hwauxs.trans hauxs) k)), hkept.trans (hwextrap.trans hextrap)⟩

/-- A cycle with samples that was not carried on before ends with its two tokens; with the axis off the commutation is off. -/
theorem auxCurrentCycle_sends (hs : s.canonical = true) (hen : s.f SERVON.CFG.EN (104 + k) = 1) (hcycle : s.isCycle 122 tc = true)
    (hsamples : (s.aux k).samples ≠ []) (hextrap : (s.loop (104 + k)).extrap = 0) :
    ∃ (w : State) (mode : Nat) (u : Int) (cmode ang : Nat), auxCurrentCycle k tc s = w.sendAux k tc mode u cmode ang ∧
      w.f SERVO.CFG.AODLY = s.f SERVO.CFG.AODLY ∧ (s.f AUX.CFG.EN k = 0 → cmode = 2) := by
  have hon : s.on SERVON.CFG.EN (104 + k) = true := State.on_iff.2 (by rw [hen]; decide)
  have hspare : Spares (SERVO.CFG.AODLY.addr 0) s (s.auxJudged k tc) := Spares.auxJudged (pendingSpared_of_line (by decide)) (Fld.addr_ne (by decide))
  have haxis : (s.auxJudged k tc).f AUX.CFG.EN k = s.f AUX.CFG.EN k :=
    Spares.field (Spares.auxJudged (pendingSpared_of_line (by decide)) (Fld.addr_ne (by decide))) hs
  obtain ⟨hvsamples, hvextrap⟩ := State.auxJudged_records hs k tc
  unfold auxCurrentCycle
  extract_lets +onlyGivenNames l p
  rw [if_neg (by simp [l, hon, hcycle])]
  extract_lets +onlyGivenNames u v off strong cmode x
  have hv : v = s.auxJudged k tc := rfl
  clear_value v
  subst hv
  rw [if_neg (by simpa [x, hvsamples] using hsamples)]
  extract_lets +onlyGivenNames v ur a sage win m n x₁ w₁ w₂ w₃ hold th i omax y c w₄
  -- at most this one cycle is carried on, so the loop does not hold
  have hn : n < 2 := by
    have hx : (v.loop l).extrap = 0 := by
      unfold v
      split
      · exact hvextrap.trans hextrap
      · rw [State.loop_setLoop_same (hspare hs).1]
        rfl
    unfold n
    rw [hx]
    split <;> decide
  have hhold : hold = false := decide_eq_false (by omega)
  have hw₃ : w₃ = w₂ := if_neg (by omega)
  -- nor does any step before the tokens write AODLY
  have hdelay : Spares (SERVO.CFG.AODLY.addr 0) s w₄ := by
    have hline : CycleSpared l (SERVO.CFG.AODLY.addr 0) := cycleSpared_of_line (by decide)
    have hw₁ : Spares (SERVO.CFG.AODLY.addr 0) s w₁ := .setLoop (.ite hspare (.setLoop hspare))
    have hw₂ : Spares (SERVO.CFG.AODLY.addr 0) s w₂ := .ite hw₁ (.raise (.incF (.setF hw₁ hline.stat) hline.cnt))
    rw [← hw₃] at hw₂
    have hc : Spares (SERVO.CFG.AODLY.addr 0) s c.2 := by
      unfold c
      split
      · exact .setFi (.setLoop hw₂) hline.out
      · exact .cycleCore hw₂ hline
    exact .saveStates (.setF hc hline.stat)
  refine ⟨w₄, 0, c.1, cmode, a.2, if_neg (by simp [hhold]), Spares.field hdelay hs, fun hoff => if_pos ?_⟩
  simp [off, State.on, haxis, hoff]

/-- AUX_CURRENT_CYCLE sends the commutation and the command last. -/
theorem auxCurrentCycle_leaves (hs : s.canonical = true) (hk : k < 8) (hen : s.f SERVON.CFG.EN (104 + k) = 1) (hcycle : s.isCycle 122 tc = true)
    (hsamples : (s.aux k).samples ≠ []) (hextrap : (s.loop (104 + k)).extrap = 0) :
    ∃ l a b cmode, (auxCurrentCycle k tc s).net = l ++ [a, b] ∧ CurrentCommands k (tc + s.f SERVO.CFG.AODLY) cmode a b ∧
      (s.f AUX.CFG.EN k = 0 → cmode = 2) := by
  obtain ⟨w, mode, u, cmode, ang, heq, hdelay, hoff⟩ := auxCurrentCycle_sends hs hen hcycle hsamples hextrap
  obtain ⟨l, a, b, hnet, hab⟩ := State.sendAux_sends w hk tc mode u cmode ang
  exact ⟨l, a, b, cmode, heq ▸ hnet, hdelay ▸ hab, hoff⟩

end CurrentCycle

/-! ### The four cycles together -/

theorem powerAndAuxiliaryCycles : Rules.PowerAndAuxiliaryCycles := by
  refine ⟨fun n p rest s hs hen hpairs hpend htable hgated => ?_, fun k tc s hs hen hcycle => ?_, fun k tc s hs hen hcycle hsamples hextrap => ?_,
    fun n r s hs hrise hlevel hen hclear => ⟨_, rfl, pairMissing_ends hs hrise hlevel hen hclear⟩⟩
  · obtain ⟨hrest, hgate, hlast, q, hq, hsent⟩ := powerLoopCycle_gated hs n.isLt hen hpairs hpend htable hgated
    exact ⟨_, rfl, hrest, hgate, hlast, q, hq, hsent.dest, hsent.kind, hsent.stream, hsent.urgent, hsent.value, hsent.cycles⟩
  · exact ⟨_, rfl, auxPositionCycle_leaves hs k.isLt hen hcycle⟩
  · obtain ⟨l, a, b, cmode, hnet, hab, hoff⟩ := auxCurrentCycle_leaves hs k.isLt hen hcycle hsamples hextrap
    refine ⟨_, rfl, l, a, b, hnet, hab.streams.1, hab.streams.2, hab.dests.1, hab.dests.2, hab.times.1, hab.times.2.trans hab.times.1.symm, fun h => ?_⟩
    rw [hab.mode, hoff h]

end Sys2Proof.Machine
end

section
namespace Sys2Proof.Machine

open Sys2Proof

/-! ### Tables and the state area (R244, R250, R252) -/

section Writes

variable {s : State} {h : CwFrom} {d : Word}

/-- An accepted write of a word that its chapter acts on by `effect`: the word holds the data in its RW fields, the chapter acts, and an answer
may add to the network. -/
theorem acceptedWrite_acts {i : Instr} {a : Nat} {f : Fld} {effect : State → State} (hs : s.canonical = true) (ha : Accepted s h a d)
    (hexec : exec i s = .next (s.cwwOf h [(a, d)])) (hf : isRwField f a = true) (heffect : ∀ at_ old v, chapterEffect a d at_ old v = effect v) :
    ∃ v net seqs, v.canonical = true ∧ v.loops = s.loops ∧ (∀ g : Fld, isRwField g a = true → g.get (v.word a) = g.get d) ∧
      exec i s = .next (((effect v).setNet net).setSeqs seqs) ∧ WriteAnswered h (((effect v).setNet net).setSeqs seqs) := by
  obtain ⟨h2, h5, r, hr, _⟩ := isRwField_parts hf
  obtain ⟨c, net, htaken⟩ := writeTaken_eq s h a d
  have hu : (writeTaken s h a d).canonical = true := writeTaken_canonical hs
  obtain ⟨v, hv⟩ : ∃ v, v = ((writeTaken s h a d).setWord a (r.stored d 0 ((writeTaken s h a d).word a))).noteReserved r a d := ⟨_, rfl⟩
  obtain ⟨lines, hnoted⟩ := State.noteReserved_eq ((writeTaken s h a d).setWord a (r.stored d 0 ((writeTaken s h a d).word a))) r a d
  have happ : writeApplied s h a d r = effect v := (heffect ..).trans (congrArg effect hv.symm)
  have hans := writeAnswered_ite (effect v) h (cwPayload a h.ack)
  have hrun := State.cwwOf_accepted hr ha h2 h5
  rw [happ] at hrun
  obtain ⟨net', seqs, heq⟩ := answered_eq (effect v) h.ack (cwTok h kindCWW 0 (cwPayload a h.ack) false) 1
  rw [heq] at hrun hans
  refine ⟨v, net', seqs, ?_, ?_, fun g hg => ?_, hexec.trans (congrArg _ hrun), hans⟩
  · exact hv ▸ State.noteReserved_canonical r a d (State.canonical_setWord a _ hu)
  · rw [hv, hnoted, htaken]
    rfl
  · rw [hv]
    exact get_written hu hr hg

/-- A write of FFTN makes the servo engine act on that loop's table. -/
theorem chapterEffect_fftn (l : Fin 112) (d : Word) (at_ : Nat) (old s : State) :
    chapterEffect (SERVON.FFTN.WHEN.addr l) d at_ old s = fftnEffect l s := by
  have hl := l.isLt
  have hblock : blockOf (SERVON.FFTN.WHEN.addr l) = 11 := by
    simp only [blockOf, Fld.addr, SERVON.FFTN.WHEN]
    omega
  have hentry : entryOf (SERVON.FFTN.WHEN.addr l) 64 = l := by
    simp only [entryOf, cwOffset, Fld.addr, SERVON.FFTN.WHEN]
    omega
  have hin : inEntries (SERVON.FFTN.WHEN.addr l) 64 0 112 = true := by
    simp only [inEntries, cwOffset, Fld.addr, SERVON.FFTN.WHEN]
    simp
    omega
  have hbase : SERVON.FFTN.WHEN.addr l ≠ SERVO.STBASE.BASE.base := by
    simp only [Fld.addr, SERVON.FFTN.WHEN, SERVO.STBASE.BASE]
    omega
  have hrule : ¬ 0x3000 ≤ cwOffset (SERVON.FFTN.WHEN.addr l) := by
    simp only [cwOffset, Fld.addr, SERVON.FFTN.WHEN]
    omega
  have hcfg : SERVON.FFTN.WHEN.addr l ≠ SERVON.CFG.EN.addr l := Fld.addr_ne (by decide)
  simp only [chapterEffect, hblock, hentry, hin, hbase, hrule, hcfg, if_false, if_true, Bool.not_true, Bool.false_eq_true]

theorem chapterEffect_stbase (d : Word) (at_ : Nat) (old s : State) : chapterEffect SERVO.STBASE.BASE.base d at_ old s = stbaseEffect s := by
  have hblock : blockOf SERVO.STBASE.BASE.base = 11 := by decide
  simp only [chapterEffect, hblock, if_true]

/-- The effect keeps WHEN and BASE as written, clears OK, and copies the table unless WHEN is 0; the active table stays. -/
theorem fftnEffect_leaves {l : Nat} (hs : s.canonical = true) :
    let t := fftnEffect l s
    t.f SERVON.FFTN.WHEN l = s.f SERVON.FFTN.WHEN l ∧ t.f SERVON.FFTN.BASE l = s.f SERVON.FFTN.BASE l ∧ t.f SERVON.FFTN.OK l = 0 ∧
      (t.loop l).copying = decide (s.f SERVON.FFTN.WHEN l ≠ 0) ∧ (t.loop l).table = (s.loop l).table := by
  unfold fftnEffect
  extract_lets +onlyGivenNames u w x
  have hu : u.canonical = true := State.canonical_setF _ _ _ hs
  have hkept : ∀ f : Fld, 0 < f.lo → u.f f l = s.f f l := fun f hf => State.f_setF_bits hs SERVON.FFTN.OK f l l 0 (by decide) (.inl hf)
  have hwhen : u.f SERVON.FFTN.WHEN l = s.f SERVON.FFTN.WHEN l := hkept _ (by decide)
  have htable : x.table = (s.loop l).table := congrArg Loop.table (State.loop_congr (by simp [u]) l)
  refine ⟨hwhen, hkept _ (by decide), State.f_setF_same hs _ _ _ (by decide), ?_, ?_⟩
  · rw [State.loop_setLoop_same hu, ← hwhen]
    exact Bool.eq_iff_iff.2 (by simp [w])
  · rw [State.loop_setLoop_same hu]
    exact htable

theorem isRwField_fftn : ∀ l : Fin 112, ∀ f ∈ [SERVON.FFTN.WHEN, SERVON.FFTN.BASE], isRwField f (SERVON.FFTN.WHEN.addr l) = true := by
  decide +kernel

/-- An accepted write of FFTN is stored, starts the copy of its table or cancels it, and is answered. -/
theorem fftnWrite_starts (l : Fin 112) (hs : s.canonical = true) (ha : Accepted s h (SERVON.FFTN.WHEN.addr l) d) :
    Completes (.fftnWrite l h d) s (fun t => t.f SERVON.FFTN.WHEN l = SERVON.FFTN.WHEN.get d ∧ t.f SERVON.FFTN.BASE l = SERVON.FFTN.BASE.get d ∧
      t.f SERVON.FFTN.OK l = 0 ∧ (t.loop l).copying = decide (SERVON.FFTN.WHEN.get d ≠ 0) ∧ (t.loop l).table = (s.loop l).table ∧ WriteAnswered h t) := by
  have hwhen := isRwField_fftn l SERVON.FFTN.WHEN (by simp)
  have hbase := isRwField_fftn l SERVON.FFTN.BASE (by simp)
  obtain ⟨v, net, seqs, hv, hloops, hget, hrun, hans⟩ :=
    acceptedWrite_acts (i := .fftnWrite l h d) hs ha rfl hwhen (chapterEffect_fftn l d)
  obtain ⟨kwhen, kbase, kok, kcopy, ktable⟩ := fftnEffect_leaves (l := l) hv
  have hw : v.f SERVON.FFTN.WHEN l = SERVON.FFTN.WHEN.get d := hget _ hwhen
  exact ⟨_, hrun, kwhen.trans hw, kbase.trans (hget _ hbase), kok, kcopy.trans (by rw [hw]),
    ktable.trans (congrArg Loop.table (State.loop_congr hloops l)), hans⟩

/-- An accepted write of STBASE is stored, validates the state area, and is answered. -/
theorem stbaseWrite_validates (hs : s.canonical = true) (ha : Accepted s h SERVO.STBASE.BASE.base d) :
    Completes (.stbaseWrite h d) s (fun t => t.f SERVO.STBASE.BASE = SERVO.STBASE.BASE.get d ∧ t.f SERVO.STBASE.VALID = 1 ∧ WriteAnswered h t) := by
  have hbase : isRwField SERVO.STBASE.BASE SERVO.STBASE.BASE.base = true := by decide +kernel
  obtain ⟨v, net, seqs, hv, _, hget, hrun, hans⟩ := acceptedWrite_acts (i := .stbaseWrite h d) hs ha rfl hbase (chapterEffect_stbase d)
  refine ⟨_, hrun, ?_, ?_, hans⟩
  · exact (State.f_setF_bits hv SERVO.STBASE.VALID SERVO.STBASE.BASE 0 0 1 (by decide) (.inl (by decide))).trans (hget _ hbase)
  · exact State.f_setF_same hv SERVO.STBASE.VALID 0 1 (by decide)

/-- FFT_COPY_DONE sets OK and keeps the copied table in the loop's record. -/
theorem fftCopyDone_copies {l : Nat} (hs : s.canonical = true) (hcopy : (s.loop l).copying = true) (hwhen : (s.loop l).tableWhen ≠ some .now) :
    (fftCopyDone l s).f SERVON.FFTN.OK l = 1 ∧
      (fftCopyDone l s).loop l = { s.loop l with copying := false, tableNew := s.lds (s.f SERVON.FFTN.BASE l * 4096) 512 } := by
  have hset : (s.setLoop l { s.loop l with copying := false, tableNew := s.lds (s.f SERVON.FFTN.BASE l * 4096) 512 }).canonical = true :=
    State.canonical_setLoop l _ hs
  unfold fftCopyDone
  extract_lets +onlyGivenNames x u
  rw [if_neg (by simp [x, hcopy]), if_neg (by simp [x, hwhen])]
  exact ⟨State.f_setF_same hset _ _ _ (by decide), (State.loop_congr (by simp [u]) l).trans (State.loop_setLoop_same hs l _)⟩

end Writes

end Sys2Proof.Machine
end

section
namespace Sys2Proof.Machine

open Sys2Proof

/-! ### The section units (R249) -/

/-- Section unit k's place in SERVO.UNIT. -/
def unitField (k : Nat) : Fld := ⟨SERVO.UNIT.U0.base, 0, 4 * k + 3, 4 * k⟩

section Units

variable {s t : State} {k j l : Nat}

theorem State.setUnit_eq (s : State) (k : Nat) {st : Nat} (hst : st < 16) : s.setUnit k st = s.setF (unitField k) 0 st := by
  have hwidth : 4 * k + 3 + 1 - 4 * k = 4 := by omega
  have hput : ∀ w, (unitField k).put w st = (w &&& ~~~ wd (15 * 2 ^ (4 * k))) ||| wd (st * 2 ^ (4 * k)) := fun w => by
    simp only [Fld.put, Fld.mask, unitField, place, hwidth]
    rw [Nat.mod_eq_of_lt (show st < 2 ^ 4 from hst)]
    rfl
  exact congrArg (s.setWord _) (hput _).symm

theorem State.mem_unitsIn {st : Nat} : k ∈ s.unitsIn st ↔ k < 7 ∧ s.f (unitField k) 0 = st := by
  simp only [State.unitsIn, List.mem_filter, List.mem_range, beq_iff_eq]
  rfl

theorem State.f_setUnit_same (hs : s.canonical = true) (hk : k < 7) {st : Nat} (hst : st < 16) : (s.setUnit k st).f (unitField k) 0 = st := by
  have hwidth : 4 * k + 3 + 1 - 4 * k = 4 := by omega
  rw [State.setUnit_eq s k hst, State.f_setF_same hs _ _ _ (by simp only [unitField]; omega)]
  simp only [unitField, hwidth]
  exact Nat.mod_eq_of_lt hst

theorem State.f_setUnit_other (hs : s.canonical = true) (hk : k < 7) (hne : j ≠ k) {st : Nat} (hst : st < 16) :
    (s.setUnit k st).f (unitField j) 0 = s.f (unitField j) 0 := by
  rw [State.setUnit_eq s k hst]
  exact State.f_setF_bits hs _ _ _ _ _ (by simp only [unitField]; omega) (by simp only [unitField]; omega)

theorem State.canonical_setUnit (hs : s.canonical = true) (k st : Nat) : (s.setUnit k st).canonical = true := State.canonical_setWord _ _ hs

/-- Taking a unit out of another status leaves the units in a status as they were. -/
theorem State.unitsIn_setUnit (hs : s.canonical = true) (hk : k < 7) {st n : Nat} (hst : st < 16) (hn : st ≠ n) (hf : s.f (unitField k) 0 ≠ n) :
    (s.setUnit k st).unitsIn n = s.unitsIn n := by
  refine List.filter_congr fun m hm => ?_
  have hfield : (s.setUnit k st).f (unitField m) 0 = n ↔ s.f (unitField m) 0 = n := by
    by_cases h : m = k
    · subst h
      rw [State.f_setUnit_same hs hk hst]
      exact ⟨fun e => absurd e hn, fun e => absurd e hf⟩
    · rw [State.f_setUnit_other hs hk h hst]
  refine Bool.eq_iff_iff.2 ?_
  simp only [beq_iff_eq]
  exact hfield

theorem Spares.setUnit {a st : Nat} (h : Spares a s t) (ha : a ≠ SERVO.UNIT.U0.base) : Spares a s (t.setUnit k st) := h.setWord ha

/-- The load's judgement keeps UNITFAIL, and only adds to the error lines. -/
theorem State.loadUpdate_leaves (hs : s.canonical = true) :
    s.loadUpdate.f SERVO.STAT.UNITFAIL = s.f SERVO.STAT.UNITFAIL ∧ ∃ m, s.loadUpdate.lines = s.lines ++ m := by
  unfold State.loadUpdate
  extract_lets +onlyGivenNames n b was u v
  have hu : u.canonical = true := State.canonical_setF _ _ _ (State.canonical_setF _ _ _ hs)
  have hflag : u.f SERVO.STAT.UNITFAIL = s.f SERVO.STAT.UNITFAIL := Spares.field (Spares.setF (.setF (.refl _ s) (by decide)) (by decide)) hs
  have hv : v.f SERVO.STAT.UNITFAIL = u.f SERVO.STAT.UNITFAIL := State.f_setF_bits hu _ _ _ _ _ (by decide) (by decide)
  have hlines : v.lines = s.lines := by simp [v, u]
  clear_value v
  split
  · exact ⟨(State.f_past_severe ..).trans (hv.trans hflag), _, congrArg (· ++ _) hlines⟩
  · exact ⟨hv.trans hflag, [], hlines.trans (List.append_nil _).symm⟩

theorem State.active_ne_spare (hk : k ∈ s.unitsIn 0) (hj : j ∈ s.unitsIn 1) : k ≠ j := fun e => by
  have h0 := (State.mem_unitsIn.1 hk).2
  rw [e, (State.mem_unitsIn.1 hj).2] at h0
  cases h0

/-- Section unit `k` has failed in a cycle of loop `l`, the unit `j` runs in its place, and a warning names unit and loop. -/
structure UnitReplaced (k j l reruns : Nat) (t : State) : Prop where
  failed : t.f (unitField k) 0 = 3
  active : t.f (unitField j) 0 = 0
  flag : t.f SERVO.STAT.UNITFAIL = 1
  reruns : t.f SERVO.CNT.RERUNS = reruns
  record : ∃ r, r ∈ t.lines ∧ r.cls = 2 ∧ r.source = 9 ∧ r.rtype = 0xA ∧ r.data0 = wd l

theorem unitFail_replaces {rest : List Nat} (hs : s.canonical = true) (hk : k ∈ s.unitsIn 0) (hj : s.unitsIn 1 = j :: rest) (l : Nat) :
    UnitReplaced k j l (min (2 ^ 32 - 1) (s.f SERVO.CNT.RERUNS + 1)) (unitFail k l s) := by
  obtain ⟨hk7, hk0⟩ := State.mem_unitsIn.1 hk
  have hjs : j ∈ s.unitsIn 1 := hj ▸ List.mem_cons_self
  have hj7 : j < 7 := (State.mem_unitsIn.1 hjs).1
  have hne : k ≠ j := State.active_ne_spare hk hjs
  have hspare : (s.setUnit k 3).unitsIn 1 = j :: rest := (State.unitsIn_setUnit hs hk7 (by decide) (by decide) (by omega)).trans hj
  have hu : (s.setUnit k 3).canonical = true := State.canonical_setUnit hs _ _
  unfold unitFail
  rw [if_pos (List.contains_iff_mem.2 hk)]
  extract_lets +onlyGivenNames u v w
  have hv : v = u.setUnit j 0 := by
    unfold v
    rw [hspare]
    rfl
  -- the units' word
  have hvc : v.canonical = true := hv ▸ State.canonical_setUnit hu _ _
  have hvk : v.f (unitField k) 0 = 3 := by
    rw [hv, State.f_setUnit_other hu hj7 hne (by decide)]
    exact State.f_setUnit_same hs hk7 (by decide)
  have hvj : v.f (unitField j) 0 = 0 := by
    rw [hv]
    exact State.f_setUnit_same hu hj7 (by decide)
  have hruns : v.f SERVO.CNT.RERUNS = s.f SERVO.CNT.RERUNS := by
    rw [hv]
    exact Spares.field (Spares.setUnit (.setUnit (.refl _ s) (by decide)) (by decide)) hs
  clear_value v
  -- the count and the flag
  have hwc : w.canonical = true := State.canonical_setF _ _ _ (State.canonical_incF _ _ _ hvc)
  have hwunit : w.word SERVO.UNIT.U0.base = v.word SERVO.UNIT.U0.base := (Spares.setF (.incF (.refl _ v) (by decide)) (by decide) hvc).2
  have hwruns : w.f SERVO.CNT.RERUNS = min (2 ^ 32 - 1) (s.f SERVO.CNT.RERUNS + 1) := by
    rw [← hruns]
    refine (Spares.field (.setF (.refl _ _) (by decide)) (State.canonical_incF _ _ _ hvc)).trans ?_
    refine (State.f_setF_same hvc _ _ _ (by decide)).trans (Nat.mod_eq_of_lt ?_)
    exact lt_of_le_of_lt (min_le_left _ _) (by decide)
  have hwflag : w.f SERVO.STAT.UNITFAIL = 1 := State.f_setF_same (State.canonical_incF _ _ _ hvc) _ _ _ (by decide)
  clear_value w
  -- the warning, and the load
  obtain ⟨hflag, m, hlines⟩ := State.loadUpdate_leaves (s := w.raise 2 9 k (0x270 + k) 0xA (wd l) 0) ((State.raise_kept (Kept.refl w)).canon hwc)
  have hend : ∀ a, a ≠ SERVO.LOAD.V.addr 0 → a ≠ SERVO.STAT.OVERLOAD.addr 0 →
      Spares a w (w.raise 2 9 k (0x270 + k) 0xA (wd l) 0).loadUpdate := fun a hl ho => .loadUpdate (.raise (.refl a w)) hl ho
  have hraise : (w.raise 2 9 k (0x270 + k) 0xA (wd l) 0).lines = w.lines ++ [⟨2, 9, 0xA, k, 0x270 + k, wd l, 0, w.mt⟩] := rfl
  have hunit := (hend SERVO.UNIT.U0.base (by decide) (by decide) hwc).2.trans hwunit
  refine ⟨(congrArg (unitField k).get hunit).trans hvk, (congrArg (unitField j).get hunit).trans hvj, ?_, ?_,
    ⟨2, 9, 0xA, k, 0x270 + k, wd l, 0, w.mt⟩, ?_, rfl, rfl, rfl, rfl⟩
  · exact hflag.trans ((State.f_past_raise ..).trans hwflag)
  · exact (Spares.field (hend _ (by decide) (by decide)) hwc).trans hwruns
  · rw [hlines, hraise]
    exact List.mem_append_left _ (List.mem_append_right _ (List.mem_singleton_self _))

theorem UnitReplaced.congr {reruns : Nat} (h : UnitReplaced k j l reruns s) (hw : ∀ a, a < REPAIR.STAT.UNITFAIL.base → t.word a = s.word a)
    (hlines : ∀ r, r ∈ s.lines → r ∈ t.lines) : UnitReplaced k j l reruns t := by
  obtain ⟨r, hr, hrest⟩ := h.record
  refine ⟨(congrArg (unitField k).get (hw _ ?_)).trans h.failed, (congrArg (unitField j).get (hw _ ?_)).trans h.active,
    (congrArg SERVO.STAT.UNITFAIL.get (hw _ (by decide))).trans h.flag, (congrArg SERVO.CNT.RERUNS.get (hw _ (by decide))).trans h.reruns,
    r, hlines r hr, hrest⟩
  · simp only [unitField, Fld.addr]
    decide
  · simp only [unitField, Fld.addr]
    decide

/-! ### The repair record of a failed section unit (R468, R469) -/

theorem Spares.repairEntry {a typ action unit arg : Nat} (h : Spares a s t) (ha : a ≠ REPAIR.STAT.RECFULL.addr 0) :
    Spares a s (t.repairEntry typ action unit arg) :=
  .ite h (.ite (.setF h ha) (.quiet h (State.setBoot_kept (Kept.refl t)) rfl))

theorem Spares.spareUsed {a kind : Nat} (h : Spares a s t) (ha : a ≠ REPAIR.STAT.NOSPARE.addr 0) : Spares a s (t.spareUsed kind) :=
  .ite (.raise (.setF h ha)) h

theorem State.repairEntry_lines (s : State) (typ action unit arg : Nat) : (s.repairEntry typ action unit arg).lines = s.lines := by
  unfold State.repairEntry
  extract_lets +onlyGivenNames b
  split
  · rfl
  · split
    · simp
    · rfl

theorem State.mem_spareUsed_lines {r : Raise} (h : r ∈ s.lines) (kind : Nat) : r ∈ (s.spareUsed kind).lines := by
  unfold State.spareUsed
  split
  · exact List.mem_append_left _ (by simpa using h)
  · exact h

/-- A word below the repair chapter's is none of its. -/
theorem ne_of_below {a i : Nat} {f : Fld} (ha : a < REPAIR.STAT.UNITFAIL.base) (hf : REPAIR.STAT.UNITFAIL.base ≤ f.base) : a ≠ f.addr i :=
  Nat.ne_of_lt (lt_of_lt_of_le ha (le_trans hf (Nat.le_add_right _ _)))

/-- The words of two units differ. -/
theorem unit_addr_ne (hne : j ≠ k) : REPAIR.UNIT.STATE.addr (44 + j) ≠ REPAIR.UNIT.STATE.addr (44 + k) := by
  simp only [Fld.addr, REPAIR.UNIT.STATE]
  omega

theorem unit_addr_ne_stat {i : Nat} {f : Fld} (hf : f.base + f.stride * 0 < REPAIR.UNIT.STATE.base) : REPAIR.UNIT.STATE.addr i ≠ f.addr 0 :=
  Nat.ne_of_gt (lt_of_lt_of_le hf (Nat.le_add_right _ _))

/-- The failed unit leaves its role, and the repair record notes it. -/
def State.retireUnit (s : State) (k l : Nat) : State :=
  (((s.setF REPAIR.UNIT.STATE (44 + k) uFAILED).setF REPAIR.UNIT.ROLE (44 + k) 255).setF REPAIR.STAT.UNITFAIL 0 1).repairEntry 0x12 2 (44 + k) l

theorem Spares.retireUnit {a : Nat} (h : Spares a s t) (hunit : a ≠ REPAIR.UNIT.STATE.addr (44 + k)) (hstat : a ≠ REPAIR.STAT.UNITFAIL.addr 0) :
    Spares a s (t.retireUnit k l) := .repairEntry (.setF (.setF (.setF h hunit) hunit) hstat) hstat

theorem State.retireUnit_leaves (hs : s.canonical = true) (k l : Nat) :
    (s.retireUnit k l).canonical = true ∧ (s.retireUnit k l).lines = s.lines ∧ (s.retireUnit k l).f REPAIR.UNIT.STATE (44 + k) = 3 := by
  have hset : (s.setF REPAIR.UNIT.STATE (44 + k) uFAILED).canonical = true := State.canonical_setF _ _ _ hs
  have hw : ((s.setF REPAIR.UNIT.STATE (44 + k) uFAILED).setF REPAIR.UNIT.ROLE (44 + k) 255).canonical = true := State.canonical_setF _ _ _ hset
  have hstat : REPAIR.UNIT.STATE.addr (44 + k) ≠ REPAIR.STAT.UNITFAIL.addr 0 := unit_addr_ne_stat (by decide)
  have hlate : Spares (REPAIR.UNIT.STATE.addr (44 + k)) ((s.setF REPAIR.UNIT.STATE (44 + k) uFAILED).setF REPAIR.UNIT.ROLE (44 + k) 255) (s.retireUnit k l) :=
    .repairEntry (.setF (.refl _ _) hstat) hstat
  refine ⟨(hlate hw).1, by simp [State.retireUnit, State.repairEntry_lines], (Spares.field hlate hw).trans ?_⟩
  rw [State.f_setF_bits hset _ _ _ _ _ (by decide) (by decide)]
  exact State.f_setF_same hs _ _ _ (by decide)

/-- A spare takes a role. -/
def State.engageUnit (s : State) (j role : Nat) : State :=
  ((s.setF REPAIR.UNIT.STATE (44 + j) uACTIVE).setF REPAIR.UNIT.ROLE (44 + j) role).spareUsed 2

theorem Spares.engageUnit {a role : Nat} (h : Spares a s t) (hunit : a ≠ REPAIR.UNIT.STATE.addr (44 + j)) (hstat : a ≠ REPAIR.STAT.NOSPARE.addr 0) :
    Spares a s (t.engageUnit j role) := .spareUsed (.setF (.setF h hunit) hunit) hstat

theorem State.engageUnit_leaves (hs : s.canonical = true) (j : Nat) {role : Nat} (hrole : role < 2 ^ 8) :
    (s.engageUnit j role).f REPAIR.UNIT.STATE (44 + j) = 0 ∧ (s.engageUnit j role).f REPAIR.UNIT.ROLE (44 + j) = role ∧
      ∀ r, r ∈ s.lines → r ∈ (s.engageUnit j role).lines := by
  have hset : (s.setF REPAIR.UNIT.STATE (44 + j) uACTIVE).canonical = true := State.canonical_setF _ _ _ hs
  have hw : ((s.setF REPAIR.UNIT.STATE (44 + j) uACTIVE).setF REPAIR.UNIT.ROLE (44 + j) role).canonical = true := State.canonical_setF _ _ _ hset
  have hlate : Spares (REPAIR.UNIT.STATE.addr (44 + j)) ((s.setF REPAIR.UNIT.STATE (44 + j) uACTIVE).setF REPAIR.UNIT.ROLE (44 + j) role)
      (s.engageUnit j role) := .spareUsed (.refl _ _) (unit_addr_ne_stat (by decide))
  refine ⟨(Spares.field hlate hw).trans ?_, (Spares.field (f := REPAIR.UNIT.ROLE) hlate hw).trans ?_, fun r hr => State.mem_spareUsed_lines (by simpa using hr) 2⟩
  · rw [State.f_setF_bits hset _ _ _ _ _ (by decide) (by decide)]
    exact State.f_setF_same hs _ _ _ (by decide)
  · exact (State.f_setF_same hset _ _ _ (by decide)).trans (Nat.mod_eq_of_lt hrole)

theorem sectionFailed_eq {rest : List Nat} (hk : k ∈ s.unitsIn 0) (hj : s.unitsIn 1 = j :: rest) (l : Nat) :
    sectionFailed k l s = ((unitFail k l s).retireUnit k l).engageUnit j (s.f REPAIR.UNIT.ROLE (44 + k)) := by
  unfold sectionFailed
  rw [if_neg (by simpa using hk)]
  extract_lets +onlyGivenNames role next u v
  rw [show next = j :: rest from hj]
  rfl

/-- A section unit failed and its spare in place, as the repair words show them. -/
structure RolePassed (k j role : Nat) (t : State) : Prop where
  failed : t.f REPAIR.UNIT.STATE (44 + k) = 3
  active : t.f REPAIR.UNIT.STATE (44 + j) = 0
  role : t.f REPAIR.UNIT.ROLE (44 + j) = role

theorem sectionFailed_passes {rest : List Nat} (hs : s.canonical = true) (hk : k ∈ s.unitsIn 0) (hj : s.unitsIn 1 = j :: rest) (l : Nat) :
    UnitReplaced k j l (min (2 ^ 32 - 1) (s.f SERVO.CNT.RERUNS + 1)) (sectionFailed k l s) ∧
      RolePassed k j (s.f REPAIR.UNIT.ROLE (44 + k)) (sectionFailed k l s) := by
  have hne : k ≠ j := State.active_ne_spare hk (hj ▸ List.mem_cons_self)
  have hrole : s.f REPAIR.UNIT.ROLE (44 + k) < 2 ^ 8 := Nat.mod_lt _ (by decide)
  have hu := unitFail_replaces hs hk hj l
  have huc : (unitFail k l s).canonical = true := (unitFail_kept (Kept.refl s)).canon hs
  rw [sectionFailed_eq hk hj]
  generalize unitFail k l s = u at *
  generalize s.f REPAIR.UNIT.ROLE (44 + k) = role at *
  obtain ⟨hv, hlines, hfailed⟩ := State.retireUnit_leaves huc k l
  obtain ⟨hactive, hpassed, hmore⟩ := State.engageUnit_leaves hv j hrole
  refine ⟨hu.congr (fun a ha => ?_) fun r hr => hmore r (hlines ▸ hr), ?_, hactive, hpassed⟩
  · have hspare : Spares a u ((u.retireUnit k l).engageUnit j role) :=
      .engageUnit (.retireUnit (.refl a u) (ne_of_below ha (by decide)) (ne_of_below ha (by decide))) (ne_of_below ha (by decide)) (ne_of_below ha (by decide))
    exact (hspare huc).2
  · exact (Spares.field (Spares.engageUnit (.refl _ _) (unit_addr_ne hne) (unit_addr_ne_stat (by decide))) hv).trans hfailed

end Units

/-! ### Tables, the state area and units together -/

theorem servoTablesAndUnits : Rules.ServoTablesAndUnits := by
  refine ⟨fun l h d s hs ha => fftnWrite_starts l hs ha, fun l s hs hcopy hwhen => ⟨_, rfl, fftCopyDone_copies hs hcopy hwhen⟩,
    fun h d s hs ha => stbaseWrite_validates hs ha, fun k j l rest s hs hk hj => ?_⟩
  obtain ⟨hunit, hrole⟩ := sectionFailed_passes hs (List.contains_iff_mem.1 hk) hj l
  exact ⟨_, rfl, hunit.failed, hunit.active, hunit.flag, hunit.reruns, hrole.failed, hrole.active, hrole.role, hunit.record⟩

/-- Settles O38: a power loop under a low gate sends its target, at most OMAX; an axis' position cycle ends in a clamped output or, without a position,
in 0; its current cycle ends in its two tokens; FFTN and STBASE act as their chapter says on an accepted write; a failed unit's nibble and
role pass to the first spare. -/
theorem otherCyclesTablesAndUnits : Obligations.OtherCyclesTablesAndUnits := ⟨powerAndAuxiliaryCycles, servoTablesAndUnits⟩

end Sys2Proof.Machine
end

section
namespace Sys2Proof.Machine

open Sys2Proof

/-! ### One field of a unit, followed through the writes to that unit -/

/-- Fields of one unit that share no bit: in different words of its entry, or apart from each other in one word. -/
def Fld.apart (g f : Fld) : Bool :=
  decide (g.stride = f.stride ∧ g.base ≠ f.base) || decide (f.hi < 64 ∧ (f.hi < g.lo ∨ g.hi < f.lo))

/-- From canonical tables, field `g` of entry `k` reads `v`. -/
structure Shows (g : Fld) (k v : Nat) (t : State) : Prop where
  canonical : t.canonical = true
  reads : t.f g k = v

theorem Fld.addr_ne_of_base {g f : Fld} (h : g.stride = f.stride ∧ g.base ≠ f.base) (k : Nat) : g.addr k ≠ f.addr k := by
  unfold Fld.addr
  rw [h.1]
  exact fun e => h.2 (Nat.add_right_cancel e)

/-- A word outside the range between two words of an entry is none of that range. -/
theorem Fld.addr_ne_of_outside {lo hi f : Fld} {a k : Nat} (ha : ¬ (lo.addr k ≤ a ∧ a ≤ hi.addr k))
    (hf : f.stride = lo.stride ∧ f.stride = hi.stride ∧ lo.base ≤ f.base ∧ f.base ≤ hi.base) : a ≠ f.addr k := by
  obtain ⟨hlo, hhi, hbase, hbase'⟩ := hf
  rintro rfl
  apply ha
  unfold Fld.addr
  rw [← hlo, ← hhi]
  exact ⟨Nat.add_le_add_right hbase _, Nat.add_le_add_right hbase' _⟩

section Shows

variable {g : Fld} {k v : Nat} {s t : State}

theorem Shows.start (hs : s.canonical = true) (g : Fld) (k : Nat) : Shows g k (s.f g k) s := ⟨hs, rfl⟩

theorem Shows.quiet {u : State} (h : Shows g k v t) (hk : Kept t u) (hcw : u.cw = t.cw) : Shows g k v u :=
  ⟨hk.canon h.canonical, (State.f_congr hcw g k).trans h.reads⟩

/-- A field just set reads the value, cut to its width. -/
theorem Shows.of_setF (hs : s.canonical = true) (k w : Nat) (hg : g.hi < 64) (hw : w % g.size = v) : Shows g k v (s.setF g k w) :=
  ⟨State.canonical_setF _ _ _ hs, (State.f_setF_same hs g k w hg).trans hw⟩

theorem Shows.of_setFi (hs : s.canonical = true) (k : Nat) (x : Int) (hg : g.hi < 64) : Shows g k (ux (g.hi + 1 - g.lo) x) (s.setFi g k x) :=
  .of_setF hs k _ hg (Nat.mod_eq_of_lt (ux_lt _ _))

/-- A counter just moved up reads one more, up to its greatest value. -/
theorem Shows.of_incF (hs : Shows g k v s) (hg : g.hi < 64) : Shows g k (min (g.size - 1) (v + 1)) (s.incF g k) := by
  have hlt : min (g.size - 1) (s.f g k + 1) < g.size := lt_of_le_of_lt (min_le_left _ _) (Nat.sub_lt (Nat.two_pow_pos _) Nat.one_pos)
  obtain ⟨hc, rfl⟩ := hs
  exact .of_setF hc k _ hg (Nat.mod_eq_of_lt hlt)

theorem Shows.setF {f : Fld} {w : Nat} (h : Shows g k v t) (hf : g.apart f = true) : Shows g k v (t.setF f k w) := by
  refine ⟨State.canonical_setF _ _ _ h.canonical, Eq.trans ?_ h.reads⟩
  rcases Bool.or_eq_true_iff.1 hf with hword | hbits
  · exact State.f_setF_word h.canonical f g k k w (Fld.addr_ne_of_base (of_decide_eq_true hword) k)
  · obtain ⟨hlt, hoff⟩ := of_decide_eq_true hbits
    exact State.f_setF_bits h.canonical f g k k w hlt hoff

theorem Shows.incF {f : Fld} {n : Nat} (h : Shows g k v t) (hf : g.apart f = true) : Shows g k v (t.incF f k n) := h.setF hf

theorem Shows.setFi {f : Fld} {x : Int} (h : Shows g k v t) (hf : g.apart f = true) : Shows g k v (t.setFi f k x) := h.setF hf

theorem Shows.ite {u : State} {c : Prop} [Decidable c] (h : Shows g k v t) (h' : Shows g k v u) : Shows g k v (if c then t else u) := by
  split
  · exact h
  · exact h'

theorem Shows.reach {n : Nat} (h : Shows g k v t) : Shows g k v (t.reach n) := h.quiet (State.reach_kept (Kept.refl t)) rfl
theorem Shows.setEnc {n : Nat} {x : EncSt} (h : Shows g k v t) : Shows g k v (t.setEnc n x) := h.quiet (State.setEnc_kept (Kept.refl t)) rfl
theorem Shows.setHall {n : Nat} {x : HallSt} (h : Shows g k v t) : Shows g k v (t.setHall n x) := h.quiet (State.setHall_kept (Kept.refl t)) rfl
theorem Shows.setProbe {n : Nat} {x : ProbeSt} (h : Shows g k v t) : Shows g k v (t.setProbe n x) := h.quiet (State.setProbe_kept (Kept.refl t)) rfl
theorem Shows.raiseRec {r : Raise} (h : Shows g k v t) : Shows g k v (t.raiseRec r) := h.quiet (State.raiseRec_kept (Kept.refl t)) rfl
theorem Shows.posRaise {cls n src : Nat} {f : Fld} (h : Shows g k v t) : Shows g k v (t.posRaise cls n f src) := h.raiseRec

/-- A signed field reads the signed value of its bits. -/
theorem Shows.signed (h : Shows g k v t) : t.fi g k = sx (g.hi + 1 - g.lo) v := congrArg (sx _) h.reads

end Shows

theorem Spares.posRaise {a cls n src : Nat} {f : Fld} {s t : State} (h : Spares a s t) : Spares a s (t.posRaise cls n f src) := h.raise

theorem State.f_lt (s : State) (f : Fld) (k : Nat) : s.f f k < f.size := Nat.mod_lt _ (Nat.two_pow_pos _)

theorem ux_sx {n v : Nat} (hv : v < 2 ^ n) : ux n (sx n v) = v := by
  have hmod : sx n v % ((2 ^ n : Nat) : Int) = v := by
    unfold sx
    dsimp only
    rw [Nat.mod_eq_of_lt hv]
    split
    · exact Int.emod_eq_of_lt (by omega) (by exact_mod_cast hv)
    · rw [Int.sub_emod_right]
      exact Int.emod_eq_of_lt (by omega) (by exact_mod_cast hv)
  rw [ux, hmod, Int.toNat_natCast]

/-- A one-bit field that is 1 is on. -/
theorem State.on_of_one {s : State} {f : Fld} {k : Nat} (h : s.f f k = 1) : s.on f k = true := State.on_iff.2 (h.trans_ne Nat.one_ne_zero)

theorem State.canonical_reach {s : State} (n : Nat) (hs : s.canonical = true) : (s.reach n).canonical = true :=
  (State.reach_kept (Kept.refl s)).canon hs

theorem State.enc_setEnc_same {s : State} (hs : s.canonical = true) (k : Nat) (x : EncSt) : (s.setEnc k x).enc k = x :=
  (State.enc_setEnc hs k k x).trans (if_pos rfl)

theorem State.hall_setHall_same {s : State} (hs : s.canonical = true) (k : Nat) (x : HallSt) : (s.setHall k x).hall k = x :=
  (State.hall_setHall hs k k x).trans (if_pos rfl)

theorem State.probe_setProbe_same {s : State} (hs : s.canonical = true) (k : Nat) (x : ProbeSt) : (s.setProbe k x).probe k = x :=
  (State.probe_setProbe hs k k x).trans (if_pos rfl)

end Sys2Proof.Machine
end

section
namespace Sys2Proof.Machine

open Sys2Proof

/-! ### Quadrature edges (R260, R261) -/

/-- Encoder `k` takes its new levels of A and B. -/
def State.encLevels (s : State) (k : Nat) (a b : Bool) (t : Nat) : State := (s.reach t).setEnc k { s.enc k with a := a, b := b }

/-- A double edge is an error of the encoder. -/
def State.quadError (s : State) (k : Nat) : State :=
  ((s.setF POS.ENC.STAT.QERR k 1).incF POS.ENC.CNT.QERRS k).posRaise 2 k POS.ENC.STAT.QERR

/-- The estimator of encoder `k` takes an edge, whose reversal returns the method to the period. -/
def State.encTimed (s : State) (k t : Nat) (neg : Bool) : State :=
  let r := (s.enc k).spd.step t neg 1
  let u := s.setEnc k { s.enc k with spd := r.1 }
  if r.2 then u.setF POS.ENC.SPD.METHOD k 1 else u

section Edges

variable {s t : State} {k tc held d : Nat} {a b : Bool}

/-- What an edge of an enabled encoder does, by how far the levels moved in the quadrature sequence. -/
theorem encEdge_acts (hen : s.f POS.ENC.CFG.EN k = 1) (hheld : s.f POS.ENC.CFG.FILT k < held)
    (hd : (quadState a b + 4 - quadState (s.enc k).a (s.enc k).b) % 4 = d) (hd0 : d ≠ 0) :
    encEdge k a b tc held s = if d = 2 then (s.encLevels k a b tc).quadError k else
      let neg := (d == 3) != s.on POS.ENC.CFG.DIR k
      let u := (s.encLevels k a b tc).encTimed k tc neg
      u.setCount k (u.fi POS.ENC.COUNT.V k + if neg then -1 else 1) := by
  have hgo : (!s.on POS.ENC.CFG.EN k || d == 0) = false := by simp [State.on_of_one hen, hd0]
  subst hd
  unfold encEdge
  rw [if_neg (Nat.not_lt.2 hheld)]
  exact if_neg (ne_true_of_eq_false hgo)

theorem Spares.encLevels {x : Nat} (h : Spares x s t) : Spares x s (t.encLevels k a b tc) := h.reach.setEnc

theorem Shows.encLevels {g : Fld} {j v : Nat} (h : Shows g j v t) : Shows g j v (t.encLevels k a b tc) := h.reach.setEnc

theorem Spares.encTimed {x : Nat} {neg : Bool} (h : Spares x s t) (hx : x ≠ POS.ENC.SPD.METHOD.addr k) : Spares x s (t.encTimed k tc neg) :=
  .ite (.setF h.setEnc hx) h.setEnc

theorem Shows.encTimed {g : Fld} {v : Nat} {neg : Bool} (h : Shows g k v t) (hg : g.apart POS.ENC.SPD.METHOD = true) :
    Shows g k v (t.encTimed k tc neg) := .ite (.setF h.setEnc hg) h.setEnc

theorem State.encTimed_enc (hs : s.canonical = true) (k tc : Nat) (neg : Bool) :
    (s.encTimed k tc neg).enc k = { s.enc k with spd := ((s.enc k).spd.step tc neg 1).1 } := by
  unfold State.encTimed
  dsimp only
  split
  · exact (State.enc_congr (s := s.setEnc k _) (by simp) k).trans (State.enc_setEnc_same hs k _)
  · exact State.enc_setEnc_same hs k _

theorem State.encTimed_mt (s : State) (k tc : Nat) (neg : Bool) : (s.encTimed k tc neg).mt = s.mt :=
  (Same.ite (Same.setF (Same.setEnc (.refl .mt s))) (Same.setEnc (.refl .mt s))).eq

/-- COUNT takes the value modulo 2^32, whether or not it passes the end of its range. -/
theorem Shows.of_setCount (hs : s.canonical = true) (k : Nat) (x : Int) : Shows POS.ENC.COUNT.V k (ux 32 x) (s.setCount k x) := by
  have h : Shows POS.ENC.COUNT.V k (ux 32 x) (s.setFi POS.ENC.COUNT.V k x) := .of_setFi hs k x (by decide)
  exact .ite (.posRaise (.setF h (by decide))) h

theorem Shows.setCount {g : Fld} {v : Nat} {x : Int} (h : Shows g k v t) (hc : g.apart POS.ENC.COUNT.V = true)
    (hw : g.apart POS.ENC.STAT.WRAP = true) : Shows g k v (t.setCount k x) := .ite (.posRaise (.setF (.setFi h hc) hw)) (.setFi h hc)

theorem Spares.setCount {y : Nat} {x : Int} (h : Spares y s t) (hc : y ≠ POS.ENC.COUNT.V.addr k) (hw : y ≠ POS.ENC.STAT.WRAP.addr k) :
    Spares y s (t.setCount k x) := .ite (.posRaise (.setF (.setFi h hc) hw)) (.setFi h hc)

theorem State.setCount_encs (s : State) (k : Nat) (x : Int) : (s.setCount k x).encs = s.encs := by
  unfold State.setCount
  extract_lets u
  split
  · rfl
  · rfl

/-- A single edge moves COUNT by one, against DIR where it is set. -/
theorem encEdge_counts (hs : s.canonical = true) (hen : s.f POS.ENC.CFG.EN k = 1) (hheld : s.f POS.ENC.CFG.FILT k < held)
    (hd : (quadState a b + 4 - quadState (s.enc k).a (s.enc k).b) % 4 = d) (hone : d = 1 ∨ d = 3) {u : State} (hu : u = encEdge k a b tc held s) :
    u.mt = max s.mt tc ∧ (u.enc k).a = a ∧ (u.enc k).b = b ∧
      u.f POS.ENC.COUNT.V k = ux 32 (s.fi POS.ENC.COUNT.V k + if decide (d = 3) = s.on POS.ENC.CFG.DIR k then 1 else -1) ∧
      WordsKept s u (fun x => POS.ENC.COUNT.V.addr k ≤ x ∧ x ≤ POS.ENC.STAT.WRAP.addr k) := by
  have hsingle : d ≠ 0 ∧ d ≠ 2 := by rcases hone with rfl | rfl <;> decide
  rw [encEdge_acts hen hheld hd hsingle.1, if_neg hsingle.2] at hu
  extract_lets neg v at hu
  subst hu
  have hl : (s.encLevels k a b tc).canonical = true := (Shows.encLevels (.start hs POS.ENC.COUNT.V k)).canonical
  have hlevels : (s.encLevels k a b tc).enc k = { s.enc k with a := a, b := b } := State.enc_setEnc_same (State.canonical_reach tc hs) k _
  have hcount : Shows POS.ENC.COUNT.V k (s.f POS.ENC.COUNT.V k) v := .encTimed (.encLevels (.start hs _ k)) (by decide)
  have henc : (v.setCount k (v.fi POS.ENC.COUNT.V k + if neg then -1 else 1)).enc k =
      { s.enc k with a := a, b := b, spd := ((s.enc k).spd.step tc neg 1).1 } :=
    (State.enc_congr (State.setCount_encs ..) k).trans ((State.encTimed_enc hl k tc neg).trans (by rw [hlevels]))
  have hstep : (if neg then (-1 : Int) else 1) = if decide (d = 3) = s.on POS.ENC.CFG.DIR k then 1 else -1 := by
    simp only [neg, bne_iff_ne, ne_eq, ite_not]
    rfl
  refine ⟨?_, congrArg EncSt.a henc, congrArg EncSt.b henc, ?_, fun x hx _ => ?_⟩
  · exact (Same.setCount (Same.refl .mt v)).eq.trans (State.encTimed_mt ..)
  · rw [(Shows.of_setCount hcount.canonical k _).reads, hcount.signed, hstep]
    rfl
  · have hne : ∀ f : Fld, f.stride = 0x80 ∧ 0x100c03018 ≤ f.base ∧ f.base ≤ 0x100c03038 → x ≠ f.addr k := fun f hf =>
      Fld.addr_ne_of_outside hx ⟨hf.1, hf.1, hf.2⟩
    exact (Spares.setCount (Spares.encTimed (Spares.encLevels (.refl x s)) (hne _ (by decide))) (hne _ (by decide)) (hne _ (by decide)) hs).2

/-- A double edge leaves COUNT and is counted and warned of. -/
theorem encEdge_errs (hs : s.canonical = true) (hen : s.f POS.ENC.CFG.EN k = 1) (hheld : s.f POS.ENC.CFG.FILT k < held)
    (hd : (quadState a b + 4 - quadState (s.enc k).a (s.enc k).b) % 4 = 2) {u : State} (hu : u = encEdge k a b tc held s) :
    u.f POS.ENC.COUNT.V k = s.f POS.ENC.COUNT.V k ∧ u.f POS.ENC.STAT.QERR k = 1 ∧
      u.f POS.ENC.CNT.QERRS k = min 65535 (s.f POS.ENC.CNT.QERRS k + 1) ∧ ∃ r, u.lines = s.lines ++ [r] ∧ r.cls = 2 ∧ r.source = 10 := by
  rw [encEdge_acts hen hheld hd (by decide), if_pos rfl] at hu
  subst hu
  have hl : ∀ g, Shows g k (s.f g k) (s.encLevels k a b tc) := fun g => .encLevels (.start hs g k)
  have herr : Shows POS.ENC.STAT.QERR k 1 ((s.encLevels k a b tc).setF POS.ENC.STAT.QERR k 1) :=
    .of_setF (hl POS.ENC.STAT.QERR).canonical k 1 (by decide) (by decide)
  exact ⟨(Shows.posRaise (.incF (.setF (hl _) (by decide)) (by decide))).reads, (Shows.posRaise (.incF herr (by decide))).reads,
    (Shows.posRaise (.of_incF (.setF (hl _) (by decide)) (by decide))).reads, _, rfl, rfl, rfl⟩

end Edges

end Sys2Proof.Machine
end

section
namespace Sys2Proof.Machine

open Sys2Proof

/-! ### The index of an encoder (R263, R264) -/

/-- Encoder `k` has seen its index at `tc`: the level, the latched count and instant, the count of indexes. -/
def State.indexed (s : State) (k : Nat) (level : Bool) (tc : Nat) : State :=
  let u := (s.reach tc).setEnc k { s.enc k with i := level }
  ((u.setFi POS.ENC.IDX.ICOUNT k (u.fi POS.ENC.COUNT.V k)).setF POS.ENC.IDXT.V k tc).incF POS.ENC.CNT.INDEXES k

/-- The first index homes the encoder. -/
def State.encHomed (s : State) (k : Nat) : State :=
  (((s.setEnc k { s.enc k with ref := some 0 }).setF POS.ENC.COUNT.V k 0).setF POS.ENC.STAT.HOMED k 1).setF POS.ENC.ICFG.IHOME k 0

/-- An index off its place by `dev` is marked and counted. -/
def State.indexOff (s : State) (k : Nat) (dev : Int) : State :=
  ((s.setFi POS.ENC.IDX.DEV k (sat 16 dev)).setF POS.ENC.STAT.IDEV k 1).incF POS.ENC.CNT.IDEVS k

/-- The info-class record of a deviation. -/
def State.indexRecord (s : State) (k tc : Nat) : Raise := ⟨3, 10, 4, k, 0xA, s.word (POS.ENC.IDX.DEV.addr k), 0, tc⟩

/-- What a counted index does by the reference it finds, `c` being the count it latched. -/
def State.indexTaken (s : State) (k tc : Nat) (c : Int) : Option Int → State
  | none => if s.on POS.ENC.ICFG.IHOME k then s.encHomed k else s.setEnc k { s.enc k with ref := some c }
  | some r =>
    let dev := if s.f POS.ENC.ICFG.CPR k = 0 then 0 else indexDev (c - r) (s.f POS.ENC.ICFG.CPR k)
    let u := s.indexOff k dev
    let v := u.raiseRec (u.indexRecord k tc)
    if dev = 0 then s
    else if u.f POS.ENC.ICFG.ITOL k ≠ 0 ∧ u.f POS.ENC.ICFG.ITOL k < dev.natAbs then
      (u.setF POS.ENC.STAT.IFAULT k 1).raiseRec { u.indexRecord k tc with cls := 1 }
    else if v.on POS.ENC.ICFG.ICOR k then v.setCount k (c - dev) else v

section Index

variable {s t : State} {k tc held : Nat} {level : Bool}

theorem Shows.indexed {g : Fld} {v : Nat} (h : Shows g k v t)
    (hg : g.apart POS.ENC.IDX.ICOUNT = true ∧ g.apart POS.ENC.IDXT.V = true ∧ g.apart POS.ENC.CNT.INDEXES = true) :
    Shows g k v (t.indexed k level tc) :=
  let ⟨hcount, hinstant, hindexes⟩ := hg
  .incF (.setF (.setFi h.reach.setEnc hcount) hinstant) hindexes

theorem Shows.indexOff {g : Fld} {v : Nat} {dev : Int} (h : Shows g k v t)
    (hg : g.apart POS.ENC.IDX.DEV = true ∧ g.apart POS.ENC.STAT.IDEV = true ∧ g.apart POS.ENC.CNT.IDEVS = true) :
    Shows g k v (t.indexOff k dev) :=
  let ⟨hdev, hmark, hcount⟩ := hg
  .incF (.setF (.setFi h hdev) hmark) hcount

theorem Shows.encHomed {g : Fld} {v : Nat} (h : Shows g k v t)
    (hg : g.apart POS.ENC.COUNT.V = true ∧ g.apart POS.ENC.STAT.HOMED = true ∧ g.apart POS.ENC.ICFG.IHOME = true) : Shows g k v (t.encHomed k) :=
  let ⟨hcount, hhomed, hihome⟩ := hg
  .setF (.setF (.setF h.setEnc hcount) hhomed) hihome

/-- What an index event that counts leaves in the index words. -/
structure IndexLatched (k tc : Nat) (s u : State) : Prop where
  count : Shows POS.ENC.IDX.ICOUNT k (s.f POS.ENC.COUNT.V k) u
  instant : Shows POS.ENC.IDXT.V k (tc % 2 ^ 64) u
  counted : Shows POS.ENC.CNT.INDEXES k (min 65535 (s.f POS.ENC.CNT.INDEXES k + 1)) u

theorem State.indexed_latches (hs : s.canonical = true) (k : Nat) (level : Bool) (tc : Nat) : IndexLatched k tc s (s.indexed k level tc) := by
  have hstart : ∀ {g}, Shows g k (s.f g k) ((s.reach tc).setEnc k { s.enc k with i := level }) := fun {g} => .setEnc (.reach (.start hs g k))
  have hcount : Shows POS.ENC.IDX.ICOUNT k (s.f POS.ENC.COUNT.V k) (State.setFi _ POS.ENC.IDX.ICOUNT k (s.fi POS.ENC.COUNT.V k)) :=
    .of_setF (hstart (g := POS.ENC.COUNT.V)).canonical k _ (by decide) ((Nat.mod_eq_of_lt (ux_lt 32 _)).trans (ux_sx (s.f_lt POS.ENC.COUNT.V k)))
  exact ⟨.incF (.setF hcount (by decide)) (by decide), .incF (.of_setF hcount.canonical k tc (by decide) rfl) (by decide),
    .of_incF (.setF (.setFi hstart (by decide)) (by decide)) (by decide)⟩

/-- The corrected encoder of an index with no tolerance to break and ICOR set. -/
theorem State.indexTaken_off {c dev : Int} {r : Int} (hs : s.canonical = true) (hcpr : s.f POS.ENC.ICFG.CPR k ≠ 0)
    (hitol : s.f POS.ENC.ICFG.ITOL k = 0) (hcor : s.f POS.ENC.ICFG.ICOR k = 1) (hdev : indexDev (c - r) (s.f POS.ENC.ICFG.CPR k) = dev)
    (hoff : dev ≠ 0) : s.indexTaken k tc c (some r) = ((s.indexOff k dev).raiseRec ((s.indexOff k dev).indexRecord k tc)).setCount k (c - dev) := by
  have hitol' : (s.indexOff k dev).f POS.ENC.ICFG.ITOL k = 0 := (Shows.indexOff (.start hs _ k) (by decide)).reads.trans hitol
  have hcor' : ((s.indexOff k dev).raiseRec ((s.indexOff k dev).indexRecord k tc)).on POS.ENC.ICFG.ICOR k = true :=
    State.on_of_one ((Shows.raiseRec (.indexOff (.start hs _ k) (by decide))).reads.trans hcor)
  unfold State.indexTaken
  dsimp only
  rw [if_neg hcpr, hdev]
  exact (if_neg hoff).trans ((if_neg fun h => h.1 hitol').trans (if_pos hcor'))

section Counted

variable (hen : s.f POS.ENC.CFG.EN k = 1) (hnew : (s.enc k).i ≠ level)
  (hact : level = s.on POS.ENC.ICFG.IACT k) (hgen : s.f POS.ENC.ICFG.GEN k = 0)

include hen hnew hact hgen

/-- An index at its active level and ungated counts, whatever gate `g` the levels of A and B give. -/
theorem index_passes (g : Bool) : (!s.on POS.ENC.CFG.EN k || !((s.enc k).i != level) || level != s.on POS.ENC.ICFG.IACT k ||
    !(!s.on POS.ENC.ICFG.GEN k || g)) = false := by
  have hon : s.on POS.ENC.ICFG.GEN k = false := by simp [State.on, hgen]
  simp [State.on_of_one hen, hnew, hon, ← hact]

variable (hheld : s.f POS.ENC.CFG.FILT k < held) {ref : Option Int}

include hheld

/-- Such an index latches the count, and what follows depends on the reference. -/
theorem indexEvent_taken (href : (s.enc k).ref = ref) :
    indexEvent k level tc held s = (s.indexed k level tc).indexTaken k tc (s.fi POS.ENC.COUNT.V k) ref := by
  subst href
  unfold indexEvent
  rw [if_neg (Nat.not_lt.2 hheld)]
  exact if_neg (ne_true_of_eq_false (index_passes hen hnew hact hgen _))

variable (hs : s.canonical = true)

include hs

/-- The first index homes the encoder: its count and reference are 0, and the event's index words stand. -/
theorem indexEvent_homes (href : (s.enc k).ref = none) (hhome : s.f POS.ENC.ICFG.IHOME k = 1) {u : State}
    (hu : u = indexEvent k level tc held s) :
    u.f POS.ENC.COUNT.V k = 0 ∧ u.f POS.ENC.STAT.HOMED k = 1 ∧ u.f POS.ENC.ICFG.IHOME k = 0 ∧
      u.f POS.ENC.IDX.ICOUNT k = s.f POS.ENC.COUNT.V k ∧ u.f POS.ENC.IDXT.V k = tc % 2 ^ 64 ∧ (u.enc k).ref = some 0 ∧
      u.f POS.ENC.CNT.INDEXES k = min 65535 (s.f POS.ENC.CNT.INDEXES k + 1) := by
  have hl := State.indexed_latches hs k level tc
  have hv : (s.indexed k level tc).on POS.ENC.ICFG.IHOME k = true :=
    State.on_of_one ((Shows.indexed (.start hs _ k) (by decide)).reads.trans hhome)
  rw [indexEvent_taken hen hnew hact hgen hheld href, State.indexTaken, if_pos hv] at hu
  subst hu
  generalize s.indexed k level tc = t at hl ⊢
  have hc : (t.setEnc k { t.enc k with ref := some 0 }).canonical = true := hl.count.setEnc.canonical
  have hcount : Shows POS.ENC.COUNT.V k 0 (State.setF _ POS.ENC.COUNT.V k 0) := .of_setF hc k 0 (by decide) (Nat.zero_mod _)
  have hhomed : Shows POS.ENC.STAT.HOMED k 1 (State.setF _ POS.ENC.STAT.HOMED k 1) := .of_setF hcount.canonical k 1 (by decide) (by decide)
  have henc : (t.encHomed k).enc k = { t.enc k with ref := some 0 } :=
    (State.enc_congr (by simp [State.encHomed]) k).trans (State.enc_setEnc_same hl.count.canonical k _)
  exact ⟨(Shows.setF (.setF hcount (by decide)) (by decide)).reads, (hhomed.setF (by decide)).reads,
    (Shows.of_setF hhomed.canonical k 0 (by decide) (Nat.zero_mod _)).reads, (Shows.encHomed hl.count (by decide)).reads,
    (Shows.encHomed hl.instant (by decide)).reads, congrArg EncSt.ref henc, (Shows.encHomed hl.counted (by decide)).reads⟩

/-- An index off its place by `dev` corrects the encoder: its count loses the deviation, which IDX.DEV holds, saturated. -/
theorem indexEvent_corrects {r dev : Int} (href : (s.enc k).ref = some r) (hcpr : s.f POS.ENC.ICFG.CPR k ≠ 0) (hitol : s.f POS.ENC.ICFG.ITOL k = 0)
    (hcor : s.f POS.ENC.ICFG.ICOR k = 1) (hdev : indexDev (s.fi POS.ENC.COUNT.V k - r) (s.f POS.ENC.ICFG.CPR k) = dev) (hoff : dev ≠ 0) {u : State}
    (hu : u = indexEvent k level tc held s) :
    u.f POS.ENC.COUNT.V k = ux 32 (s.fi POS.ENC.COUNT.V k - dev) ∧ u.f POS.ENC.STAT.IDEV k = 1 ∧ u.fi POS.ENC.IDX.DEV k = sat 16 dev := by
  have hc := (State.indexed_latches hs k level tc).count.canonical
  have hcfg : ∀ g : Fld, _ → (s.indexed k level tc).f g k = s.f g k := fun g hg => (Shows.indexed (.start hs g k) hg).reads
  rw [← hcfg POS.ENC.ICFG.CPR (by decide)] at hcpr hdev
  rw [← hcfg _ (by decide)] at hitol hcor
  rw [indexEvent_taken hen hnew hact hgen hheld href, State.indexTaken_off hc hcpr hitol hcor hdev hoff] at hu
  subst hu
  clear hcfg hcpr hdev hitol hcor
  generalize s.indexed k level tc = t at hc ⊢
  have hdev : Shows POS.ENC.IDX.DEV k (ux 16 (sat 16 dev)) (t.setFi POS.ENC.IDX.DEV k (sat 16 dev)) := .of_setFi hc k _ (by decide)
  have hmark : Shows POS.ENC.STAT.IDEV k 1 (State.setF _ POS.ENC.STAT.IDEV k 1) := .of_setF hdev.canonical k 1 (by decide) (by decide)
  have hmark' : Shows POS.ENC.STAT.IDEV k 1 (t.indexOff k dev) := .incF hmark (by decide)
  have hdev' : Shows POS.ENC.IDX.DEV k (ux 16 (sat 16 dev)) (t.indexOff k dev) := .incF (.setF hdev (by decide)) (by decide)
  exact ⟨(Shows.of_setCount hmark'.raiseRec.canonical k _).reads, (hmark'.raiseRec.setCount (by decide) (by decide)).reads,
    (hdev'.raiseRec.setCount (by decide) (by decide)).signed.trans (sx_ux (by decide) (sat_bounds 16 dev))⟩

end Counted

end Index

end Sys2Proof.Machine
end

section
namespace Sys2Proof.Machine

open Sys2Proof

/-! ### Hall sensors (R265) -/

/-- A change that passed over a sector, or reached the opposite one, is marked, counted and warned of. -/
def State.hallSkipped (s : State) (k : Nat) : State :=
  ((s.setF POS.HALL.STAT.HSKIP k 1).incF POS.HALL.CNT.HSKIPS k).posRaise 2 k POS.HALL.STAT.HSKIP

/-- An impossible state is marked, counted and warned of. -/
def State.hallBad (s : State) (k tc : Nat) : State :=
  let u := s.setHall k { s.hall k with badSince := some ((s.hall k).badSince.getD tc) }
  ((u.setF POS.HALL.STAT.HBAD k 1).incF POS.HALL.CNT.HBADS k).posRaise 2 k POS.HALL.STAT.HBAD

/-- Hall input `k` takes its new levels. -/
def State.hallLevels (s : State) (k uvw tc : Nat) : State := (s.reach tc).setF POS.HALL.STATE.RAW k uvw

/-- Hall input `k` moves by `d` sectors to `sec`; a move by two skips one. -/
def State.hallStepped (s : State) (k sec tc : Nat) (d : Int) : State :=
  if d.natAbs = 2 then (s.hallMove k sec tc d).hallSkipped k else s.hallMove k sec tc d

/-- What a counted change does by the sector of its levels. -/
def State.hallTaken (s : State) (k tc : Nat) : Option Nat → State
  | none => s.hallBad k tc
  | some sec =>
    let n := (sec + 6 - s.f POS.HALL.STATE.SECTOR k) % 6
    if n = 0 then s.setHall k { s.hall k with badSince := none, long := false }
    else if n = 1 then s.hallMove k sec tc 1
    else if n = 5 then s.hallMove k sec tc (-1)
    else if n = 2 then (s.hallMove k sec tc 2).hallSkipped k
    else if n = 4 then (s.hallMove k sec tc (-2)).hallSkipped k
    else (s.hallMove k sec tc 0).hallSkipped k

section Hall

variable {s t : State} {k tc held sec : Nat} {a b c : Bool}

theorem Spares.hallMove {x : Nat} {d : Int} (h : Spares x s t) (hm : x ≠ POS.HALL.SPD.METHOD.addr k) (hc : x ≠ POS.HALL.STATE.HCOUNT.addr k) :
    Spares x s (t.hallMove k sec tc d) := .setF (.setFi (.ite (.setF h.setHall hm) h.setHall) hc) hc

theorem Shows.hallSkipped {g : Fld} {v : Nat} (h : Shows g k v t) (hg : g.apart POS.HALL.STAT.HSKIP = true ∧ g.apart POS.HALL.CNT.HSKIPS = true) :
    Shows g k v (t.hallSkipped k) := .posRaise (.incF (.setF h hg.1) hg.2)

theorem Shows.hallStepped {g : Fld} {v : Nat} {d : Int} (h : Shows g k v (t.hallMove k sec tc d))
    (hg : g.apart POS.HALL.STAT.HSKIP = true ∧ g.apart POS.HALL.CNT.HSKIPS = true) : Shows g k v (t.hallStepped k sec tc d) :=
  .ite (h.hallSkipped hg) h

theorem Spares.hallStepped {x : Nat} {d : Int} (h : Spares x s (t.hallMove k sec tc d)) (hs : x ≠ POS.HALL.STAT.HSKIP.addr k)
    (hc : x ≠ POS.HALL.CNT.HSKIPS.addr k) : Spares x s (t.hallStepped k sec tc d) := .ite (.posRaise (.incF (.setF h hs) hc)) h

/-- What Hall input `k` shows after a change by `d` sectors to `sec`. -/
structure HallMoved (k sec raw : Nat) (d : Int) (s u : State) : Prop where
  count : Shows POS.HALL.STATE.HCOUNT k (ux 32 (s.fi POS.HALL.STATE.HCOUNT k + d)) u
  sector : Shows POS.HALL.STATE.SECTOR k sec u
  raw : Shows POS.HALL.STATE.RAW k raw u

theorem State.hallMove_moves {raw : Nat} (hraw : Shows POS.HALL.STATE.RAW k raw s) (hsec : sec < 8) (tc : Nat) (d : Int) :
    HallMoved k sec raw d s (s.hallMove k sec tc d) := by
  unfold State.hallMove
  extract_lets x r u v
  have hv : ∀ {g n}, Shows g k n s → g.apart POS.HALL.SPD.METHOD = true → Shows g k n v := fun h hg => .ite (.setF h.setHall hg) h.setHall
  have hcount : Shows POS.HALL.STATE.HCOUNT k (s.f POS.HALL.STATE.HCOUNT k) v := hv (.start hraw.canonical _ k) (by decide)
  have hsame : v.fi POS.HALL.STATE.HCOUNT k = s.fi POS.HALL.STATE.HCOUNT k := hcount.signed
  have hmoved : Shows POS.HALL.STATE.HCOUNT k (ux 32 (v.fi POS.HALL.STATE.HCOUNT k + d)) _ := .of_setFi hcount.canonical k _ (by decide)
  exact ⟨hsame ▸ .setF hmoved (by decide), .of_setF hmoved.canonical k sec (by decide) (Nat.mod_eq_of_lt hsec),
    .setF (.setFi (hv hraw (by decide)) (by decide)) (by decide)⟩

/-- Among what a difference of sectors chooses, the one of its signed value. -/
theorem hallDifference_choice {α : Type} {n : Nat} {d : Int} (hd : (d, n) ∈ [((1 : Int), 1), (-1, 5), (2, 2), (-2, 4)])
    (move : Int → α) (skip : α → α) (x y : α) : (if n = 0 then x else if n = 1 then move 1 else if n = 5 then move (-1)
      else if n = 2 then skip (move 2) else if n = 4 then skip (move (-2)) else y) = if d.natAbs = 2 then skip (move d) else move d := by
  simp only [List.mem_cons, Prod.mk.injEq, List.not_mem_nil, or_false] at hd
  rcases hd with ⟨rfl, rfl⟩ | ⟨rfl, rfl⟩ | ⟨rfl, rfl⟩ | ⟨rfl, rfl⟩
  · rfl
  · rfl
  · rfl
  · rfl

theorem State.hallTaken_some {d : Int} (hd : (d, (sec + 6 - s.f POS.HALL.STATE.SECTOR k) % 6) ∈ [((1 : Int), 1), (-1, 5), (2, 2), (-2, 4)]) :
    s.hallTaken k tc (some sec) = s.hallStepped k sec tc d := hallDifference_choice hd (s.hallMove k sec tc) (State.hallSkipped · k) _ _

theorem hallInputs_lt : ∀ a b c : Bool, a.toNat * 4 + b.toNat * 2 + c.toNat < 8 := by decide

theorem hallSector_lt {dir : Bool} {uvw : Nat} (h : hallSector dir uvw = some sec) : sec < 6 := by
  unfold hallSector at h
  extract_lets i at h
  split at h
  · cases h
  · next hi =>
    cases h
    split
    · exact Nat.lt_succ_of_le (Nat.sub_le 5 i)
    · exact Nat.lt_of_not_le hi

/-- The new levels change RAW alone of the input's fields. -/
theorem State.hallLevels_field (hs : s.canonical = true) (k uvw tc : Nat) {g : Fld} (hg : g.apart POS.HALL.STATE.RAW = true) :
    (s.hallLevels k uvw tc).f g k = s.f g k := (Shows.setF (.reach (.start hs g k)) hg).reads

section Change

variable (hs : s.canonical = true) (hen : s.f POS.HALL.CFG.EN k = 1) {uvw : Nat} (hnew : uvw ≠ s.f POS.HALL.STATE.RAW k)

include hs hen hnew

/-- A change of an enabled input to a state other than RAW counts. -/
theorem hallChange_passes (tc : Nat) : (!(s.hallLevels k uvw tc).on POS.HALL.CFG.EN k || s.f POS.HALL.STATE.RAW k == uvw) = false := by
  simp [State.on_of_one ((State.hallLevels_field hs k uvw tc (g := POS.HALL.CFG.EN) (by decide)).trans hen), Ne.symm hnew]

variable (hheld : s.f POS.HALL.CFG.FILT k < held) (huvw : uvw = a.toNat * 4 + b.toNat * 2 + c.toNat)

include hheld huvw

/-- Such a change takes its levels, and what follows depends on the sector they give. -/
theorem hallChange_taken {o : Option Nat} (ho : hallSector (s.on POS.HALL.CFG.DIR k) uvw = o) :
    hallChange k a b c tc held s = (s.hallLevels k uvw tc).hallTaken k tc o := by
  have hpass := hallChange_passes hs hen hnew tc
  rw [State.on, ← State.hallLevels_field hs k uvw tc (by decide)] at ho
  subst huvw ho
  unfold hallChange
  rw [if_neg (Nat.not_lt.2 hheld)]
  exact if_neg (ne_true_of_eq_false hpass)

/-- A change to a possible state counts the sectors passed and touches the words of its Hall input alone. -/
theorem hallChange_counts (hsec : hallSector (s.on POS.HALL.CFG.DIR k) uvw = some sec) {d : Int}
    (hd : (d, (sec + 6 - s.f POS.HALL.STATE.SECTOR k) % 6) ∈ [((1 : Int), 1), (-1, 5), (2, 2), (-2, 4)]) {u : State}
    (hu : u = hallChange k a b c tc held s) :
    u.f POS.HALL.STATE.HCOUNT k = ux 32 (s.fi POS.HALL.STATE.HCOUNT k + d) ∧ u.f POS.HALL.STATE.SECTOR k = sec ∧
      u.f POS.HALL.STATE.RAW k = uvw ∧ (d.natAbs = 2 → u.f POS.HALL.STAT.HSKIP k = 1) ∧
      WordsKept s u (fun x => POS.HALL.STATE.HCOUNT.addr k ≤ x ∧ x ≤ POS.HALL.CNT.HBADS.addr k) := by
  rw [← State.hallLevels_field hs k uvw tc (by decide)] at hd
  rw [hallChange_taken hs hen hnew hheld huvw hsec, State.hallTaken_some hd] at hu
  have hraw : Shows POS.HALL.STATE.RAW k uvw (s.hallLevels k uvw tc) :=
    .of_setF (State.canonical_reach tc hs) k uvw (by decide) (Nat.mod_eq_of_lt (huvw.trans_lt (hallInputs_lt a b c)))
  have hcount : (s.hallLevels k uvw tc).fi POS.HALL.STATE.HCOUNT k = s.fi POS.HALL.STATE.HCOUNT k :=
    congrArg (sx _) (State.hallLevels_field hs k uvw tc (by decide))
  obtain ⟨hmoved, hsector, hraw⟩ := State.hallMove_moves hraw (lt_trans (hallSector_lt hsec) (by decide)) tc d
  subst hu
  refine ⟨hcount ▸ (hmoved.hallStepped (by decide)).reads, (hsector.hallStepped (by decide)).reads, (hraw.hallStepped (by decide)).reads,
    fun h => ?_, fun x hx _ => ?_⟩
  · rw [State.hallStepped, if_pos h]
    exact (Shows.posRaise (.incF (.of_setF hmoved.canonical k 1 (by decide) rfl) (by decide))).reads
  · have hne : ∀ f : Fld, f.stride = 0x40 ∧ 0x100c03408 ≤ f.base ∧ f.base ≤ 0x100c03420 → x ≠ f.addr k := fun f hf =>
      Fld.addr_ne_of_outside hx ⟨hf.1, hf.1, hf.2⟩
    exact (Spares.hallStepped (.hallMove (.setF (.reach (.refl _ s)) (hne _ (by decide))) (hne _ (by decide)) (hne _ (by decide)))
      (hne _ (by decide)) (hne _ (by decide)) hs).2

/-- An impossible state counts and leaves HCOUNT. -/
theorem hallChange_bad (hsec : hallSector (s.on POS.HALL.CFG.DIR k) uvw = none) {u : State} (hu : u = hallChange k a b c tc held s) :
    u.f POS.HALL.STATE.HCOUNT k = s.f POS.HALL.STATE.HCOUNT k ∧ u.f POS.HALL.STAT.HBAD k = 1 ∧
      u.f POS.HALL.CNT.HBADS k = min 65535 (s.f POS.HALL.CNT.HBADS k + 1) := by
  rw [hallChange_taken hs hen hnew hheld huvw hsec] at hu
  subst hu
  have hl : ∀ g : Fld, g.apart POS.HALL.STATE.RAW = true → ∀ x, Shows g k (s.f g k) ((s.hallLevels k uvw tc).setHall k x) := fun g hg x =>
    .setHall (.setF (.reach (.start hs g k)) hg)
  exact ⟨(Shows.posRaise (.incF (.setF (hl _ (by decide) _) (by decide)) (by decide))).reads,
    (Shows.posRaise (.incF (.of_setF (hl POS.HALL.STAT.HBAD (by decide) _).canonical k 1 (by decide) rfl) (by decide))).reads,
    (Shows.posRaise (.of_incF (.setF (hl _ (by decide) _) (by decide)) (by decide))).reads⟩

end Change

/-- An impossible state that has lasted longer than HTO is marked and severe. -/
theorem hallTimeout_marks (hs : s.canonical = true) {since : Nat} (hsince : (s.hall k).badSince = some since) (hlong : (s.hall k).long = false)
    (hen : s.f POS.HALL.CFG.EN k = 1) {u : State} (hu : u = hallTimeout k s) :
    u.mt = max s.mt (since + s.f POS.HALL.CFG.HTO k * 1000) ∧ u.f POS.HALL.STAT.HLONG k = 1 ∧ u.hall k = { s.hall k with long := true } ∧
      ∃ r, u.lines = s.lines ++ [r] ∧ r.cls = 1 ∧ r.source = 10 := by
  unfold hallTimeout at hu
  dsimp only at hu
  split at hu
  · next h => cases hsince.symm.trans h
  · next b h =>
    obtain rfl : since = b := Option.some.inj (hsince.symm.trans h)
    rw [if_neg (by simp [hlong, State.on_of_one hen])] at hu
    subst hu
    have hset : (State.setHall (s.reach (since + s.f POS.HALL.CFG.HTO k * 1000)) k { s.hall k with long := true }).canonical = true :=
      (State.setHall_kept (Kept.refl _)).canon (State.canonical_reach _ hs)
    exact ⟨rfl, (Shows.posRaise (.of_setF hset k 1 (by decide) (by decide))).reads,
      (State.hall_congr (s := s.setHall k { s.hall k with long := true }) rfl k).trans (State.hall_setHall_same hs k _), _, rfl, rfl, rfl⟩

end Hall

end Sys2Proof.Machine
end

section
namespace Sys2Proof.Machine

open Sys2Proof

/-! ### The speed report (R266, R267) -/

/-- A word with `m` below bit 60 and `q` from there on. -/
theorem bits_of_high {m q : Nat} (hm : m < 2 ^ 32) (hq : q < 2 ^ 4) : bits (wd (m + 2 ^ 60 * q)) 31 0 = m ∧
    bits (wd (m + 2 ^ 60 * q)) 61 60 = q % 4 ∧ bits (wd (m + 2 ^ 60 * q)) 63 63 = q / 8 % 2 := by
  have hdiv : (m + 2 ^ 60 * q) / 2 ^ 60 = q := by
    rw [Nat.add_mul_div_left _ _ (by decide), Nat.div_eq_of_lt (lt_trans hm (by decide)), Nat.zero_add]
  have hlow : m + 2 ^ 60 * q = m + 2 ^ 32 * (2 ^ 28 * q) := by rw [← Nat.mul_assoc, ← Nat.pow_add]
  have hword : m + 2 ^ 60 * q < 2 ^ 64 := Nat.lt_of_div_lt_div (c := 2 ^ 60) (hdiv ▸ hq)
  simp only [bits_wd hword]
  refine ⟨?_, congrArg (· % 4) hdiv, ?_⟩
  · rw [Nat.pow_zero, Nat.div_one, hlow]
    exact (Nat.add_mul_mod_self_left ..).trans (Nat.mod_eq_of_lt hm)
  · rw [show 2 ^ 63 = 2 ^ 60 * 8 from rfl, ← Nat.div_div_eq_div_mul, hdiv]
    rfl

theorem spdWord_fields (neg : Bool) (method : Nat) (v : Nat × Nat) :
    POS.ENC.SPD.MAG.get (spdWord neg method v) = min 0xFFFFFFFF (rdiv ((v.1 : Int) * 16000000000) v.2).toNat ∧
      POS.ENC.SPD.METHOD.get (spdWord neg method v) = method % 4 ∧ POS.ENC.SPD.DIR.get (spdWord neg method v) = neg.toNat := by
  have hm : min 0xFFFFFFFF (rdiv ((v.1 : Int) * 16000000000) v.2).toNat < 2 ^ 32 := lt_of_le_of_lt (min_le_left _ _) (by decide)
  have hq : ∀ r < 4, r + 8 * neg.toNat < 2 ^ 4 ∧ (r + 8 * neg.toNat) % 4 = r ∧ (r + 8 * neg.toNat) / 8 % 2 = neg.toNat := by
    cases neg <;> decide
  obtain ⟨hlt, hmethod, hdir⟩ := hq (method % 4) (Nat.mod_lt _ (by decide))
  have hword : spdWord neg method v = wd (min 0xFFFFFFFF (rdiv ((v.1 : Int) * 16000000000) v.2).toNat + 2 ^ 60 * (method % 4 + 8 * neg.toNat)) := by
    unfold spdWord place
    rw [show neg.toNat % 2 ^ 1 = neg.toNat from Nat.mod_eq_of_lt (Bool.toNat_lt neg)]
    congr 1
    generalize min 0xFFFFFFFF (rdiv ((v.1 : Int) * 16000000000) v.2).toNat = m
    rw [Nat.add_comm, Nat.mul_comm (2 ^ 60), Nat.add_mul, Nat.add_comm (_ * _), Nat.mul_comm 8, Nat.mul_assoc]
    rfl
  obtain ⟨hmag, hmid, htop⟩ := bits_of_high hm hlt
  rw [hword]
  exact ⟨hmag, hmid.trans hmethod, htop.trans hdir⟩

/-- With no increment for STILL ms the estimator reports 0. -/
theorem SpdSt.update_still {x : SpdSt} {e : Nat} {rest : List Nat} {tu still : Nat} (hrun : x.run = e :: rest) (hstill : still * 1000000 ≤ tu - e)
    (meth w nhi nlo pavg : Nat) : (x.update meth tu w still nhi nlo pavg).1 = spdWord false 0 (0, 1) := by
  unfold SpdSt.update
  rw [hrun]
  dsimp only
  rw [if_pos hstill]

/-- With two increments since the last reversal, few of them in the window and the last no older than the time between them, the estimator reports
one increment over that time. -/
theorem SpdSt.update_period {x : SpdSt} {e0 e1 : Nat} {rest : List Nat} {tu still nhi meth pavg : Nat} (hrun : x.run = e1 :: e0 :: rest)
    (hmove : tu - e1 < still * 1000000) (hj : x.j = 2) (hrev : x.rev = false) (hn : x.n < nhi) (hmeth : meth = 1) (hpavg : 1 ≤ pavg) (hlt : e0 < e1)
    (hage : tu - e1 ≤ e1 - e0) (w nlo : Nat) : (x.update meth tu w still nhi nlo pavg).1 = spdWord x.neg 1 (1, e1 - e0) := by
  subst hmeth
  have hmin : fracMin (1, e1 - e0) (1, tu - e1) = (1, e1 - e0) := by
    unfold fracMin
    rw [if_neg (Nat.sub_ne_zero_of_lt hlt)]
    split
    · rfl
    · exact if_pos ((Nat.one_mul _).trans_le (hage.trans_eq (Nat.one_mul _).symm))
  unfold SpdSt.update
  rw [hrun]
  dsimp -zeta only
  rw [if_neg (Nat.not_le.2 hmove), if_neg (fun h => Bool.false_ne_true (hrev.symm.trans h.1))]
  extract_lets m0 m1 m2 m vp
  have hm1 : m1 = 1 := if_neg fun h => Nat.not_le.2 hn h.2
  have hm2 : m2 = 1 := (if_neg fun h => absurd (hm1.symm.trans h.1) (by decide)).trans hm1
  have hm : m = 1 := (congrArg (fun j => min pavg (j - 1)) hj).trans (Nat.min_eq_right hpavg)
  have hvp : vp = (1, e1 - e0) := (if_neg (hm2.trans_ne (by decide))).trans ((if_pos hj.ge).trans (by rw [hm]; rfl))
  rw [hm2, hvp, hmin]

/-- An encoder's report at an update instant, in the window `w`. -/
def State.encReport (tu w : Nat) (s : State) (k : Nat) : State :=
  if !s.on POS.ENC.CFG.EN k then s
  else
    let x := s.enc k
    let r := x.spd.update (s.f POS.ENC.SPD.METHOD k) tu w (s.f POS.ENC.SPCFG.STILL k) (s.f POS.ENC.SPCFG.NHI k) (s.f POS.ENC.SPCFG.NLO k)
      (s.f POS.ENC.SPCFG.PAVG k)
    let s := (s.setEnc k { x with spd := r.2 }).setWord (POS.ENC.SPD.MAG.addr k) r.1
    s.setF POS.ENC.STAT.STILL k (if s.f POS.ENC.SPD.METHOD k = 0 then 1 else 0)

/-- A Hall input's report at an update instant, in the window `w`. -/
def State.hallReport (tu w : Nat) (s : State) (k : Nat) : State :=
  if !s.on POS.HALL.CFG.EN k then s
  else
    let x := s.hall k
    let r := x.spd.update (s.f POS.HALL.SPD.METHOD k) tu w 100 16 8 4
    (s.setHall k { x with spd := r.2 }).setWord (POS.HALL.SPD.MAG.addr k) r.1

theorem speedUpdate_eq {s : State} {tu : Nat} (h : s.isCycle 121 tu = true) :
    ∃ w, speedUpdate tu s = (List.range 8).foldl (State.hallReport tu w) ((List.range 8).foldl (State.encReport tu w) (s.reach tu)) := by
  unfold speedUpdate
  rw [if_neg (by simp [h])]
  exact ⟨_, rfl⟩

/-- Encoder `k` reads alike in two states: its record and its words up to its status. -/
structure SameEnc (k : Nat) (s t : State) : Prop where
  words : ∀ x, POS.ENC.CFG.EN.addr k ≤ x → x ≤ POS.ENC.STAT.WRAP.addr k → Spares x s t
  record : s.canonical = true → t.enc k = s.enc k

section Fold

variable {α : Type} {σ : Type} {R : σ → σ → Prop} {f : σ → α → σ}

/-- A fold over different entries is one entry's step between two stretches that leave what the others leave. -/
theorem foldl_around (hrefl : ∀ s, R s s) (htrans : ∀ {s t u}, R s t → R t u → R s u) {l : List α} (hl : l.Nodup) {k : α} (hk : k ∈ l)
    (hf : ∀ x, x ≠ k → ∀ s, R s (f s x)) (s : σ) : ∃ u, R s u ∧ R (f u k) (l.foldl f s) := by
  obtain ⟨before, after, rfl⟩ := List.append_of_mem hk
  rw [List.nodup_append, List.nodup_cons] at hl
  obtain ⟨_, ⟨hafter, _⟩, hdisj⟩ := hl
  refine ⟨before.foldl f s, List.foldlRecOn before f (hrefl s) fun u hu x hx => htrans hu (hf x (hdisj x hx k List.mem_cons_self) u), ?_⟩
  rw [List.foldl_append, List.foldl_cons]
  exact List.foldlRecOn after f (hrefl _) fun u hu x hx => htrans hu (hf x (fun e => hafter (e ▸ hx)) u)

end Fold

section Reports

variable {s t u : State} {tu w k : Nat}

theorem SameEnc.refl (k : Nat) (s : State) : SameEnc k s s := ⟨fun x _ _ => .refl x s, fun _ => rfl⟩

theorem SameEnc.canonical (h : SameEnc k s t) (hs : s.canonical = true) : t.canonical = true :=
  (h.words _ le_rfl (Nat.add_le_add_right (by decide) _) hs).1

theorem SameEnc.trans (h : SameEnc k s t) (h' : SameEnc k t u) : SameEnc k s u :=
  ⟨fun x hlo hhi => (h.words x hlo hhi).trans (h'.words x hlo hhi), fun hs => (h'.record (h.canonical hs)).trans (h.record hs)⟩

/-- A field of the encoder's words reads alike. -/
theorem SameEnc.field (h : SameEnc k s t) (hs : s.canonical = true) (f : Fld)
    (hf : f.stride = 0x80 ∧ 0x100c03000 ≤ f.base ∧ f.base ≤ 0x100c03038) :
    t.f f k = s.f f k := by
  obtain ⟨hstride, hlo, hhi⟩ := hf
  have haddr : f.addr k = f.base + 0x80 * k := congrArg (f.base + · * k) hstride
  exact Spares.field (h.words _ (haddr ▸ Nat.add_le_add_right hlo _) (haddr ▸ Nat.add_le_add_right hhi _)) hs

/-- No word of an encoder is a word of another. -/
theorem encWord_ne_other {j x o : Nat} (hj : j ≠ k) (hlo : POS.ENC.CFG.EN.addr k ≤ x) (hhi : x ≤ POS.ENC.STAT.WRAP.addr k) (ho : o < 0x80) :
    x ≠ 0x100c03000 + o + 0x80 * j := by
  change 0x100c03000 + 0x80 * k ≤ x at hlo
  change x ≤ 0x100c03038 + 0x80 * k at hhi
  omega

/-- An encoder's report leaves the other encoders alone. -/
theorem State.encReport_other {j : Nat} (hj : j ≠ k) (s : State) : SameEnc k s (s.encReport tu w j) := by
  refine ⟨fun x hlo hhi => ?_, fun hs => ?_⟩
  · have hne : ∀ o < 0x80, x ≠ 0x100c03000 + o + 0x80 * j := fun o => encWord_ne_other hj hlo hhi
    exact .ite (.refl x s) (.setF (.setWord (.setEnc (.refl x s)) (hne 0x30 (by decide))) (hne 0x38 (by decide)))
  · unfold State.encReport
    split
    · rfl
    · extract_lets x r v
      have hv : v.enc k = s.enc k := (State.enc_congr (s := s.setEnc j _) rfl k).trans ((State.enc_setEnc hs j k _).trans (if_neg (Ne.symm hj)))
      exact (State.enc_congr rfl k).trans hv

/-- A Hall input's report leaves the encoders alone. -/
theorem State.hallReport_sameEnc (hk : k < 8) (j : Nat) (s : State) : SameEnc k s (s.hallReport tu w j) := by
  refine ⟨fun x _ hhi => ?_, fun _ => ?_⟩
  · have hlast : x ≤ POS.ENC.STAT.WRAP.addr 7 := hhi.trans (Nat.add_le_add_left (Nat.mul_le_mul_left _ (Nat.le_of_lt_succ hk)) _)
    have hne : x ≠ POS.HALL.SPD.MAG.addr j := Nat.ne_of_lt (lt_of_le_of_lt hlast (lt_of_lt_of_le (by decide) (Nat.le_add_right _ _)))
    exact .ite (.refl x s) (.setWord (.setHall (.refl x s)) hne)
  · unfold State.hallReport
    split
    · rfl
    · exact State.enc_congr rfl k

/-- The estimate of encoder `k` at the update instant `tu`, in the window `w`. -/
def State.estimate (s : State) (k tu w : Nat) : Word :=
  ((s.enc k).spd.update (s.f POS.ENC.SPD.METHOD k) tu w (s.f POS.ENC.SPCFG.STILL k) (s.f POS.ENC.SPCFG.NHI k) (s.f POS.ENC.SPCFG.NLO k)
    (s.f POS.ENC.SPCFG.PAVG k)).1

/-- An enabled encoder's SPD takes the estimate, and STILL says whether its method is 0. -/
structure Reported (k : Nat) (e : Word) (t : State) : Prop where
  canonical : t.canonical = true
  speed : t.word (POS.ENC.SPD.MAG.addr k) = e
  still : t.f POS.ENC.STAT.STILL k = if POS.ENC.SPD.METHOD.get e = 0 then 1 else 0

theorem State.encReport_reports (hs : s.canonical = true) (hen : s.f POS.ENC.CFG.EN k = 1) : Reported k (s.estimate k tu w) (s.encReport tu w k) := by
  unfold State.encReport
  rw [if_neg (by simp [State.on_of_one hen])]
  extract_lets x r v
  have hv : v.canonical = true := State.canonical_setWord _ _ ((State.setEnc_kept (Kept.refl s)).canon hs)
  have hword : v.word (POS.ENC.SPD.MAG.addr k) = r.1 :=
    (State.word_setWord ((State.setEnc_kept (Kept.refl s)).canon hs) (POS.ENC.SPD.MAG.addr k) (POS.ENC.SPD.MAG.addr k) r.1).trans (if_pos rfl)
  have he : r.1 = s.estimate k tu w := rfl
  rw [he] at hword
  clear_value v
  refine ⟨State.canonical_setF _ _ _ hv, ?_, ?_⟩
  · rw [State.word_setF hv, if_neg (Fld.addr_ne_of_base (by decide) k), hword]
  · have hmethod : v.f POS.ENC.SPD.METHOD k = POS.ENC.SPD.METHOD.get (s.estimate k tu w) := congrArg POS.ENC.SPD.METHOD.get hword
    rw [State.f_setF_same hv _ _ _ (by decide), hmethod]
    split <;> rfl

/-- At an update instant an enabled encoder reports the estimate of its record and its words as they were. -/
theorem speedUpdate_reports (hs : s.canonical = true) (hk : k < 8) (hcycle : s.isCycle 121 tu = true) (hen : s.f POS.ENC.CFG.EN k = 1) :
    ∃ w, Reported k (s.estimate k tu w) (speedUpdate tu s) := by
  obtain ⟨w, heq⟩ := speedUpdate_eq hcycle
  have hmt : SameEnc k s (s.reach tu) := ⟨fun x _ _ => .reach (.refl x s), fun _ => rfl⟩
  obtain ⟨u, hu, hafter⟩ := foldl_around (R := SameEnc k) (.refl k) .trans List.nodup_range (List.mem_range.2 hk)
    (fun j hj => State.encReport_other (tu := tu) (w := w) hj) (s.reach tu)
  have hu' : SameEnc k s u := hmt.trans hu
  have huc := hu'.canonical hs
  have hrep : Reported k (u.estimate k tu w) (u.encReport tu w k) := State.encReport_reports huc ((hu'.field hs _ (by decide)).trans hen)
  have hend : SameEnc k (u.encReport tu w k) (speedUpdate tu s) := heq ▸ hafter.trans
    (List.foldlRecOn _ _ (.refl k _) fun v hv j _ => hv.trans (State.hallReport_sameEnc hk j v))
  have hest : u.estimate k tu w = s.estimate k tu w := by
    unfold State.estimate
    rw [hu'.record hs, hu'.field hs POS.ENC.SPD.METHOD (by decide), hu'.field hs POS.ENC.SPCFG.STILL (by decide),
      hu'.field hs POS.ENC.SPCFG.NHI (by decide), hu'.field hs POS.ENC.SPCFG.NLO (by decide), hu'.field hs POS.ENC.SPCFG.PAVG (by decide)]
  have hspd := hend.words (POS.ENC.SPD.MAG.addr k) (Nat.add_le_add_right (by decide) _) (Nat.add_le_add_right (by decide) _) hrep.canonical
  exact ⟨w, hspd.1, hspd.2.trans (hrep.speed.trans hest), (hend.field hrep.canonical _ (by decide)).trans (hest ▸ hrep.still)⟩

theorem speedUpdate_mt (hcycle : s.isCycle 121 tu = true) : (speedUpdate tu s).mt = max s.mt tu := by
  obtain ⟨w, heq⟩ := speedUpdate_eq hcycle
  rw [heq]
  exact (Same.foldl (Same.foldl (.refl .mt (s.reach tu)) fun _ _ h => .ite h h.setEnc.setWord.setF) fun _ _ h => .ite h h.setHall.setWord).eq

/-- A report of no speed. -/
theorem Reported.of_still (h : Reported k (spdWord false 0 (0, 1)) t) :
    t.f POS.ENC.SPD.MAG k = 0 ∧ t.f POS.ENC.SPD.METHOD k = 0 ∧ t.f POS.ENC.STAT.STILL k = 1 := by
  obtain ⟨hmag, hmethod, -⟩ := spdWord_fields false 0 (0, 1)
  exact ⟨(congrArg POS.ENC.SPD.MAG.get h.speed).trans (hmag.trans (by decide)), (congrArg POS.ENC.SPD.METHOD.get h.speed).trans hmethod,
    h.still.trans (if_pos hmethod)⟩

/-- A report of one increment in `n` ns. -/
theorem Reported.of_period {neg : Bool} {n : Nat} (h : Reported k (spdWord neg 1 (1, n)) t) :
    t.f POS.ENC.SPD.MAG k = min 0xFFFFFFFF (rdiv 16000000000 n).toNat ∧ t.f POS.ENC.SPD.METHOD k = 1 ∧
      t.f POS.ENC.SPD.DIR k = neg.toNat ∧ t.f POS.ENC.STAT.STILL k = 0 := by
  obtain ⟨hmag, hmethod, hdir⟩ := spdWord_fields neg 1 (1, n)
  rw [Nat.cast_one, one_mul] at hmag
  exact ⟨(congrArg POS.ENC.SPD.MAG.get h.speed).trans hmag, (congrArg POS.ENC.SPD.METHOD.get h.speed).trans hmethod,
    (congrArg POS.ENC.SPD.DIR.get h.speed).trans hdir, h.still.trans (if_neg (hmethod.trans_ne Nat.one_ne_zero))⟩

end Reports

end Sys2Proof.Machine
end

section
namespace Sys2Proof.Machine

open Sys2Proof

/-! ### Probes (R269, R270) -/

/-- A message joins the network as one token per word. -/
theorem State.sendMsg_net (src dest kind stream : Nat) : ∀ (ws : List Word) (s : State),
    ∃ l, (s.sendMsg src dest kind stream ws).net = s.net ++ l ∧ l.map (·.payload) = ws ∧ ∀ q ∈ l,
      q.kind = BitVec.ofNat 4 kind ∧ q.src = BitVec.ofNat 10 src ∧ q.dest = BitVec.ofNat 10 dest ∧ q.stream = BitVec.ofNat 8 stream
  | [], s => ⟨[], (List.append_nil _).symm, rfl, fun _ h => absurd h List.not_mem_nil⟩
  | [w], s => ⟨_, rfl, rfl, fun q hq => List.mem_singleton.1 hq ▸ ⟨rfl, rfl, rfl, rfl⟩⟩
  | w :: v :: ws, s => by
    obtain ⟨l, hnet, hpay, htok⟩ := State.sendMsg_net src dest kind stream (v :: ws) (s.send (mkTok src dest kind stream w false))
    refine ⟨_ :: l, hnet.trans (List.append_assoc s.net [_] l), congrArg (w :: ·) hpay, fun q hq => ?_⟩
    rcases List.mem_cons.1 hq with rfl | hq
    · exact ⟨rfl, rfl, rfl, rfl⟩
    · exact htok q hq

/-- The record that probe `k` latches of an edge at `tp`. -/
def State.probeLatch (s : State) (k : Nat) (level : Bool) (tp : Nat) : ProbeRec :=
  ⟨tp, level, s.probeCounts, s.on POS.PRB.CFG.GALVO k, s.f POS.PRB.CFG.DEST k, s.f POS.PRB.CFG.STREAM k⟩

/-- Probe `k` takes its new level; ONCE disarms it. -/
def State.probeFired (s : State) (k : Nat) (level : Bool) (tp : Nat) : State :=
  let u := (s.reach tp).setProbe k { s.probe k with level := level }
  if u.on POS.PRB.CFG.ONCE k then u.setF POS.PRB.STAT.ARMED k 0 else u

/-- A fifth event is dropped, counted and warned of. -/
def State.probeDropped (s : State) (k : Nat) : State :=
  ((s.setF POS.PRB.STAT.DROP k 1).incF POS.PRB.STAT.DROPS k).posRaise 2 k POS.PRB.STAT.DROP (0x1A0 + k)

section Probe

variable {s t : State} {k tp held : Nat} {level : Bool}

/-- A probe's counts are read from the words of the encoders and of the Hall inputs, which lie before the probes'. -/
theorem State.probeCounts_congr (h : ∀ x, x < POS.PRB.CFG.EN.base → t.word x = s.word x) : t.probeCounts = s.probeCounts := by
  have hread : ∀ g : Fld, g.addr 7 < POS.PRB.CFG.EN.base → ∀ j ≤ 7, t.f g j = s.f g j := fun g hg j hj =>
    congrArg g.get (h _ (lt_of_le_of_lt (Nat.add_le_add_left (Nat.mul_le_mul_left _ hj) _) hg))
  have hpair : ∀ i ∈ List.range 4, 2 * i ≤ 7 ∧ 2 * i + 1 ≤ 7 := by decide
  unfold State.probeCounts
  refine congrArg₂ (· ++ ·) (List.map_congr_left fun i hi => ?_) (List.map_congr_left fun i hi => ?_)
  · obtain ⟨heven, hodd⟩ := hpair i hi
    rw [hread POS.ENC.COUNT.V (by decide) _ heven, hread POS.ENC.COUNT.V (by decide) _ hodd]
  · obtain ⟨heven, hodd⟩ := hpair i hi
    rw [hread POS.HALL.STATE.HCOUNT (by decide) _ heven, hread POS.HALL.STATE.HCOUNT (by decide) _ hodd]

theorem State.probePend_probes (s : State) (k : Nat) : (s.probePend k).probes = s.probes := by simp [State.probePend]

/-- An edge of an armed probe that latches both: it joins four records at most, or is dropped. -/
theorem probeEvent_acts (harmed : s.f POS.PRB.STAT.ARMED k = 1) (hheld : s.f POS.PRB.CFG.FILT k < held) (hedge : s.f POS.PRB.CFG.EDGE k = 3)
    (hnew : (s.probe k).level ≠ level) :
    let v := s.probeFired k level tp
    probeEvent k level tp held s = if 4 ≤ (s.probe k).recs.length then v.probeDropped k else
      (v.setProbe k { v.probe k with recs := (s.probe k).recs ++ [v.probeLatch k level tp] }).probePend k := by
  intro v
  have hpass : ((s.probe k).level == level || !s.on POS.PRB.STAT.ARMED k || !(s.f POS.PRB.CFG.EDGE k).testBit (if level then 0 else 1)) = false := by
    have hboth : (3 : Nat).testBit (if level then 0 else 1) = true := by cases level <;> rfl
    rw [hedge, hboth]
    simp [State.on_of_one harmed, hnew]
  unfold probeEvent
  rw [if_neg (Nat.not_lt.2 hheld)]
  exact if_neg (ne_true_of_eq_false hpass)

theorem Spares.setProbe {x n : Nat} {p : ProbeSt} (h : Spares x s t) : Spares x s (t.setProbe n p) := h.quiet (State.setProbe_kept (Kept.refl t)) rfl

theorem Spares.probeFired {x : Nat} (h : Spares x s t) (hx : x ≠ POS.PRB.STAT.ARMED.addr k) : Spares x s (t.probeFired k level tp) :=
  .ite (.setF (.setProbe h.reach) hx) (.setProbe h.reach)

theorem Shows.probeFired {g : Fld} {v : Nat} (h : Shows g k v t) (hg : g.apart POS.PRB.STAT.ARMED = true) : Shows g k v (t.probeFired k level tp) :=
  .ite (.setF (.setProbe h.reach) hg) (.setProbe h.reach)

theorem State.probeFired_fields (s : State) (k : Nat) (level : Bool) (tp : Nat) : (s.probeFired k level tp).mt = max s.mt tp ∧
    (s.probeFired k level tp).lines = s.lines ∧ (s.probeFired k level tp).probes = (s.setProbe k { s.probe k with level := level }).probes := by
  unfold State.probeFired
  dsimp only
  split
  · exact ⟨rfl, rfl, rfl⟩
  · exact ⟨rfl, rfl, rfl⟩

/-- A probe that has fired is armed unless ONCE is set. -/
theorem Shows.armed_probeFired (hs : s.canonical = true) (harmed : s.f POS.PRB.STAT.ARMED k = 1) :
    Shows POS.PRB.STAT.ARMED k (1 - s.f POS.PRB.CFG.ONCE k) (s.probeFired k level tp) := by
  have hstart : Shows POS.PRB.STAT.ARMED k 1 ((s.reach tp).setProbe k { s.probe k with level := level }) := .setProbe (.reach ⟨hs, harmed⟩)
  unfold State.probeFired
  dsimp only
  split
  · next h =>
    have hone : s.f POS.PRB.CFG.ONCE k ≠ 0 := State.on_iff.1 h
    rw [Nat.sub_eq_zero_of_le (Nat.one_le_iff_ne_zero.2 hone)]
    exact .of_setF hstart.canonical k 0 (by decide) (Nat.zero_mod _)
  · next h =>
    have hzero : s.f POS.PRB.CFG.ONCE k = 0 := not_not.1 fun hne => h (State.on_iff.2 hne)
    rwa [hzero]

/-- A probe with room latches the counts at its edge. -/
theorem probeEvent_latches (hs : s.canonical = true) (harmed : s.f POS.PRB.STAT.ARMED k = 1) (hheld : s.f POS.PRB.CFG.FILT k < held)
    (hedge : s.f POS.PRB.CFG.EDGE k = 3) (hnew : (s.probe k).level ≠ level) (hroom : (s.probe k).recs.length < 4) {u : State}
    (hu : u = probeEvent k level tp held s) :
    u.mt = max s.mt tp ∧ (u.probe k).recs = (s.probe k).recs ++ [s.probeLatch k level tp] ∧
      u.f POS.PRB.STAT.ARMED k = 1 - s.f POS.PRB.CFG.ONCE k ∧ u.lines = s.lines := by
  rw [probeEvent_acts harmed hheld hedge hnew, if_neg (Nat.not_le.2 hroom)] at hu
  obtain ⟨hmt, hlines, -⟩ := s.probeFired_fields k level tp
  have harm : Shows POS.PRB.STAT.ARMED k (1 - s.f POS.PRB.CFG.ONCE k) (s.probeFired k level tp) := .armed_probeFired hs harmed
  have hcfg : ∀ g : Fld, g.apart POS.PRB.STAT.ARMED = true → (s.probeFired k level tp).f g k = s.f g k := fun g hg =>
    (Shows.probeFired (.start hs _ k) hg).reads
  have hlatch : (s.probeFired k level tp).probeLatch k level tp = s.probeLatch k level tp := by
    have hcounts : (s.probeFired k level tp).probeCounts = s.probeCounts := State.probeCounts_congr fun x hx =>
      (Spares.probeFired (.refl x s) (Nat.ne_of_lt (lt_of_lt_of_le hx (Nat.le_add_right_of_le (by decide)))) hs).2
    unfold State.probeLatch
    rw [hcounts, State.on, hcfg POS.PRB.CFG.GALVO (by decide), hcfg POS.PRB.CFG.DEST (by decide), hcfg POS.PRB.CFG.STREAM (by decide)]
    rfl
  rw [hlatch] at hu
  subst hu
  refine ⟨hmt, ?_, (Shows.setF harm.setProbe (by decide)).reads, hlines⟩
  exact congrArg ProbeSt.recs ((State.probe_congr (State.probePend_probes _ k) k).trans (State.probe_setProbe_same harm.canonical k _))

/-- A probe with four records drops the edge and counts it. -/
theorem probeEvent_drops (hs : s.canonical = true) (harmed : s.f POS.PRB.STAT.ARMED k = 1) (hheld : s.f POS.PRB.CFG.FILT k < held)
    (hedge : s.f POS.PRB.CFG.EDGE k = 3) (hnew : (s.probe k).level ≠ level) (hfull : 4 ≤ (s.probe k).recs.length) {u : State}
    (hu : u = probeEvent k level tp held s) :
    (u.probe k).recs = (s.probe k).recs ∧ u.f POS.PRB.STAT.DROP k = 1 ∧ u.f POS.PRB.STAT.DROPS k = min 65535 (s.f POS.PRB.STAT.DROPS k + 1) := by
  rw [probeEvent_acts harmed hheld hedge hnew, if_pos hfull] at hu
  obtain ⟨-, -, hprobes⟩ := s.probeFired_fields k level tp
  subst hu
  have hdrops : Shows POS.PRB.STAT.DROPS k (s.f POS.PRB.STAT.DROPS k) (s.probeFired k level tp) := .probeFired (.start hs _ k) (by decide)
  refine ⟨?_, (Shows.posRaise (.incF (.of_setF hdrops.canonical k 1 (by decide) (by decide)) (by decide))).reads,
    (Shows.posRaise (.of_incF (hdrops.setF (by decide)) (by decide))).reads⟩
  have hfields : ((s.probeFired k level tp).probeDropped k).probes = (s.probeFired k level tp).probes := by simp [State.probeDropped, State.posRaise]
  have hprobe : ((s.probeFired k level tp).probeDropped k).probe k = { s.probe k with level := level } :=
    (State.probe_congr (hfields.trans hprobes) k).trans (State.probe_setProbe_same hs k _)
  rw [hprobe]

/-- The oldest record without galvo positions is sent in one message. -/
theorem probeRecord_sends {r : ProbeRec} {rest : List ProbeRec} (hrecs : (s.probe k).recs = r :: rest) (hgalvo : r.galvo = false) :
    probeRecord k s = ((s.setProbe k { s.probe k with recs := rest }).probePend k).sendMsg (0x1A0 + k) r.dest 0xA r.stream
      (wd (place r.tp 48 16 + place r.rise.toNat 1 3 + place k 3 0) :: r.counts) := by
  unfold probeRecord
  rw [hrecs]
  exact if_pos (by rw [hgalvo]; rfl)

/-- The sent record leaves its probe, and the network carries its words. -/
theorem probeRecord_leaves (hs : s.canonical = true) {r : ProbeRec} {rest : List ProbeRec} (hrecs : (s.probe k).recs = r :: rest)
    (hgalvo : r.galvo = false) {u : State} (hu : u = probeRecord k s) : (u.probe k).recs = rest ∧ ∃ l, u.net = s.net ++ l ∧
      l.map (·.payload) = wd (place r.tp 48 16 + place r.rise.toNat 1 3 + place k 3 0) :: r.counts ∧
      ∀ q ∈ l, q.kind = 10#4 ∧ q.src = BitVec.ofNat 10 (0x1A0 + k) ∧ q.dest = BitVec.ofNat 10 r.dest ∧
        q.stream = BitVec.ofNat 8 r.stream := by
  rw [probeRecord_sends hrecs hgalvo] at hu
  have hprobe : ((s.setProbe k { s.probe k with recs := rest }).probePend k).probe k = { s.probe k with recs := rest } :=
    (State.probe_congr (State.probePend_probes _ k) k).trans (State.probe_setProbe_same hs k _)
  subst hu
  exact ⟨congrArg ProbeSt.recs ((State.probe_congr (by simp) k).trans hprobe), State.sendMsg_net ..⟩

end Probe

/-! ### Encoder emulation (R272) -/

/-- A channel of an axis source sends its oldest sample, scaled, EDLY after its instant. -/
theorem emuUpdate_leaves {s : State} {k : Nat} {d : Nat × Nat} {rest : List (Nat × Nat)} (hs : s.canonical = true) (hen : s.f POS.EMU.CFG.EN k = 1)
    (hsrc : s.f POS.EMU.CFG.SRC k < 0x48) (hdue : (s.emu k).due = d :: rest) {u : State} (hu : u = emuUpdate k s) :
    u.emu k = { s.emu k with due := rest } ∧ ∃ x : Token, u.net = s.net ++ [x] ∧ x.kind = 1#4 ∧ x.dest = BitVec.ofNat 10 (0x368 + k) ∧
      x.timed = true ∧ x.time = BitVec.ofNat 48 (d.1 + s.f POS.EMU.CFG.EDLY k) ∧
      x.payload = wd (ux 32 (fshr (d.2 * s.fi POS.EMU.SCALE.MUL k) (s.f POS.EMU.SCALE.SHIFT k))) := by
  unfold emuUpdate at hu
  rw [if_neg (by simp [State.on, hen])] at hu
  extract_lets src at hu
  rw [if_pos hsrc, hdue] at hu
  subst hu
  exact ⟨(State.emu_setEmu hs k k _).trans (if_pos rfl), _, rfl, rfl, rfl, rfl, rfl, rfl⟩

/-! ### The obligation -/

theorem encodersAndHallsCount : Rules.EncodersAndHallsCount := by
  intro k s hs
  refine ⟨fun a b t held hen hheld => ?_, fun level t held hen hheld hnew hact hgen => ?_, fun a b c t held sec hen hheld hnew => ?_,
    fun since hsince hlong hen => ?_⟩
  · exact ⟨fun hd => ⟨_, rfl, encEdge_counts hs hen hheld rfl hd rfl⟩, fun hd => ⟨_, rfl, encEdge_errs hs hen hheld hd rfl⟩⟩
  · exact ⟨fun href hhome => ⟨_, rfl, indexEvent_homes hen hnew hact hgen hheld hs href hhome rfl⟩,
      fun ref href hcpr hitol hcor hoff => ⟨_, rfl, indexEvent_corrects hen hnew hact hgen hheld hs href hcpr hitol hcor rfl hoff rfl⟩⟩
  · exact ⟨fun hsec d hd => ⟨_, rfl, hallChange_counts hs hen hnew hheld rfl hsec hd rfl⟩,
      fun hsec => ⟨_, rfl, hallChange_bad hs hen hnew hheld rfl hsec rfl⟩⟩
  · exact ⟨_, rfl, hallTimeout_marks hs hsince hlong hen rfl⟩

theorem speedProbesAndEmulation : Rules.SpeedProbesAndEmulation := by
  refine ⟨fun tu k s hs hcycle hen => ?_, fun k level tp held s hs harmed hheld hedge hnew => ?_, fun k r rest s hs hrecs hgalvo _ => ?_,
    fun k d rest s hs hen hsrc hdue => ?_⟩
  · obtain ⟨w, hrep⟩ := speedUpdate_reports hs k.isLt hcycle hen
    exact ⟨_, rfl, speedUpdate_mt hcycle, fun e rest hrun hstill => Reported.of_still (SpdSt.update_still hrun hstill .. ▸ hrep),
      fun e0 e1 rest hrun hmove hj hrev hn hmeth hpavg hlt hage =>
        Reported.of_period (SpdSt.update_period hrun hmove hj hrev hn hmeth hpavg hlt hage .. ▸ hrep)⟩
  · exact ⟨fun hroom => ⟨_, rfl, probeEvent_latches hs harmed hheld hedge hnew hroom rfl⟩,
      fun hfull => ⟨_, rfl, probeEvent_drops hs harmed hheld hedge hnew hfull rfl⟩⟩
  · exact ⟨_, rfl, probeRecord_leaves hs hrecs hgalvo rfl⟩
  · exact ⟨_, rfl, emuUpdate_leaves hs hen hsrc hdue rfl⟩

/-- Settles O39: each command of an enabled unit is one of the unit's operations on its own words; the update instant passes every encoder once,
and the others' reports leave the one's words alone; records and samples are sent as they were latched (log entry 32). -/
theorem positionFeedbackCountsAndReports : Obligations.PositionFeedbackCountsAndReports := ⟨encodersAndHallsCount, speedProbesAndEmulation⟩

end Sys2Proof.Machine
end
